-- ==== Sys2Proof/Word.lean ====
section
/-!
DEFINITION. Sys2Proof/Word.lean: the word types of the PZ7's registers, records and frames (R4, R5, R13), and the sorted
association list that holds sparse tables.
-/
namespace Sys2Proof

/-- A host register: 32 bits, little-endian (R5). -/
abbrev Word := BitVec 32

/-- A byte of a frame, a record or an image. -/
abbrev Byte := BitVec 8

/-- A sparse table: index and entry, indexes strictly rising. An index that is not listed holds the table's default. -/
abbrev FMap (α : Type) := List (Nat × α)

end Sys2Proof
end

