-- ==== Sys2Proof/Syntax.lean ====
section
/-!
DEFINITION. Sys2Proof/Syntax.lean: the commands of the block, one constructor per row of the table, with their operands: the frames,
messages and measurements that arrive from outside.
-/
namespace Sys2Proof

/-! ## Frames (chapters 3, 4) -/

/-- Addresses of an IP datagram; IPv4 in IPv4-mapped form. -/
structure IpHdr where
  src : Nat
  dst : Nat
  sport : Nat
  dport : Nat
  tcp : Bool := false
  /-- The datagram is an IP fragment. -/
  frag : Bool := false
  deriving DecidableEq, Repr

/-- The PTP message types of Table 2-2. -/
inductive PtpKind where
  | announce
  | sync
  | followUp
  | pdelayReq
  | pdelayResp
  | pdelayRespFollowUp
  | management
  | signalling
  | other
  deriving DecidableEq, Repr

/-- The rest of a grandmaster's data in Announce (R62): priority1, priority2, clockAccuracy, offsetScaledLogVariance, timeSource. -/
structure GmData where
  prio1 : Nat := 0
  prio2 : Nat := 0
  accuracy : Nat := 0
  variance : Nat := 0
  timeSource : Nat := 0
  deriving DecidableEq, Repr

/-- A received PTP message: what its fields say, the port state that the BMCA of IEEE 1588-2019 then gives, and the mean link
delay that the peer delay mechanism then gives. -/
structure PtpMsg where
  kind : PtpKind
  domain : Nat
  rxNs : Nat
  portState : Nat
  gmId : Nat := 0
  gmClass : Nat := 0
  steps : Nat := 0
  /-- The announce interval in ns. -/
  annInterval : Nat := 0
  /-- priority1, priority2, clockAccuracy, offsetScaledLogVariance and timeSource of Announce. -/
  gmData : GmData := {}
  /-- How the message was carried: 0 Ethernet with EtherType 0x88F7, 1 UDP over IPv4, 2 UDP over IPv6, on ports 319 and 320. -/
  transport : Nat := 0
  /-- timeInaccuracy and networkTimeInaccuracy in ns (C37.238-2017 TLV). -/
  timeInacc : Option Nat := none
  netInacc : Option Nat := none
  /-- currentUtcOffset while currentUtcOffsetValid is set. -/
  ofs : Option Int := none
  leap61 : Bool := false
  leap59 : Bool := false
  meanLink : Nat := 0
  /-- Sync nanoseconds of 10^9 or more, or a negative residence correction (Table 2-6). -/
  bad : Bool := false
  deriving DecidableEq, Repr

/-- One value of an R-SV ASDU or a sampled value with its IEC 61850 quality. -/
structure QVal where
  bits : BitVec 32
  invalid : Bool := false
  questionable : Bool := false
  substituted : Bool := false
  deriving DecidableEq, Repr

/-- An R-SV session PDU (R135, R136). -/
structure RsvPdu where
  /-- The session header is well formed. -/
  wellFormed : Bool
  spduLen : Nat
  spduNo : BitVec 32
  keyId : Nat
  /-- The MAC algorithm is HMAC-SHA256-128. -/
  algOk : Bool
  /-- The bytes under the signature, and the signature. -/
  signed : List (BitVec 8)
  sig : List (BitVec 8)
  asdus : Nat
  refrSec : BitVec 32
  refrFrac : Nat
  test : Bool
  /-- Values in the order of R117, one or two words each. -/
  vals : List (QVal × BitVec 32)
  deriving DecidableEq, Repr

/-- One ASDU of a sampled-value message (Table 6-1). -/
structure SvAsdu where
  svId : List (BitVec 8)
  smpCnt : Nat
  confRev : Nat
  smpSynch : Nat
  gm : Option Nat := none
  /-- Dataset length in bytes, and the INT32 value and quality of each channel. -/
  dsLen : Nat
  data : List (BitVec 32 × BitVec 32)
  deriving DecidableEq, Repr

/-- A sampled-value message: APPID, simulation bit, ASDUs. -/
structure SvFrame where
  appid : Nat
  sim : Bool := false
  asdus : List SvAsdu
  deriving DecidableEq, Repr

/-- One entry of a received GOOSE dataset: its type as SCH_DSENT DTYPE codes it (Table 14-9), and its value in 32 bits. -/
structure GooseEnt where
  dtype : Nat
  val : BitVec 32
  deriving DecidableEq, Repr

/-- A GOOSE message, or an R-GOOSE session PDU (`ip` and `spdu` are set). -/
structure GooseMsg where
  appid : Nat
  gocbRef : List (BitVec 8)
  stNum : BitVec 32
  sqNum : BitVec 32
  /-- timeAllowedtoLive in ms. -/
  tal : Nat
  confRev : Nat
  ndsCom : Bool := false
  numEnt : Nat
  sim : Bool := false
  test : Bool := false
  ents : List GooseEnt
  /-- R-GOOSE: destination IP address and UDP port, SPDU number. -/
  ip : Option (Nat × Nat) := none
  spdu : BitVec 32 := 0#32
  /-- Security: Key ID, the bytes under the signature, and the signature; none when absent. -/
  auth : Option (Nat × List (BitVec 8) × List (BitVec 8)) := none
  deriving DecidableEq, Repr

/-- What a received frame carries behind its Ethernet header. -/
inductive Payload where
  /-- An IP datagram: the payload of UDP, or of a TCP segment (`ooo`: it arrives out of sequence on its connection). -/
  | ip (h : IpHdr) (bytes : List (BitVec 8)) (ooo : Bool)
  | rsv (h : IpHdr) (m : RsvPdu)
  | sv (m : SvFrame)
  | goose (m : GooseMsg)
  | ptp (m : PtpMsg)
  /-- A PRP supervision frame (IEC 62439-3). -/
  | supervision
  /-- A MAC control frame. -/
  | macCtl (opcode quanta : Nat)
  /-- A message of the Calfa link. -/
  | calfa (bytes : List (BitVec 8))
  | other
  deriving DecidableEq, Repr

/-- The EtherTypes behind which a payload stands (R85): a frame with another EtherType, such as one behind a second tag or a tag with
another TPID, is not of that kind. -/
def Payload.etypes : Payload → List Nat
  | .ip _ _ _ => [0x0800, 0x86DD]
  | .rsv _ _ => [0x0800, 0x86DD]
  | .sv _ => [0x88BA]
  | .goose m => if m.ip.isSome then [0x0800, 0x86DD] else [0x88B8]
  | .ptp m => if m.transport = 0 then [0x88F7] else if m.transport = 1 then [0x0800] else [0x86DD]
  | .supervision => [0x88FB]
  | .macCtl _ _ => [0x8808]
  | .calfa _ => []
  | .other => []

/-- A redundancy control trailer (R99). -/
structure Rct where
  seq : BitVec 16
  lanB : Bool
  sizeOk : Bool
  deriving DecidableEq, Repr

/-- A frame as it arrives at a port. -/
structure Frame where
  port : Nat
  /-- Arrival instant (R30) and receive timestamp (R74), TAI ns. -/
  arrival : Nat
  rxTs : Nat
  /-- Length in bytes (R87). -/
  len : Nat
  symErr : Bool := false
  alignErr : Bool := false
  fcsOk : Bool := true
  dst : Nat
  src : Nat
  /-- The 16 bits directly behind the source address; where these are a tag's TPID, the tag control information and the 16 bits behind it. -/
  type0 : Nat
  tci : Nat := 0
  type1 : Nat := 0
  rct : Option Rct := none
  payload : Payload
  /-- RS-FEC codewords of the frame that were corrected, and that could not be (R110, Table 3-2). -/
  fecCorr : Nat := 0
  fecUncorr : Nat := 0
  /-- The bytes of the frame from the destination address to the FCS, as they go to a host receive ring (R414). -/
  bytes : List (BitVec 8) := []
  deriving DecidableEq, Repr

/-- The TPID of the one tag that the MAC recognises (R85). -/
def tagTpid : Nat := 0x8100

/-- Tag control information of the recognised tag, if the frame has one (R85). -/
def Frame.vlan (f : Frame) : Option Nat := if f.type0 = tagTpid then some f.tci else none

/-- The EtherType: behind a recognised tag, otherwise directly behind the source address, whatever stands there (R85). -/
def Frame.etype (f : Frame) : Nat := if f.type0 = tagTpid then f.type1 else f.type0

/-! ## Operands of the commands -/

/-- RATE_UPDATE: measurements of the second (R69). -/
structure RateMeas where
  /-- Offset of module time from source time, filtered over the last 16 s, ns. -/
  o : Int
  /-- Frequency error of the reference against the source, averaged over 16 s, ppb. -/
  f : Int
  /-- Time error against the source, ns. -/
  terr : Option Nat
  deriving DecidableEq, Repr

/-- IRIGB_FRAME_RX: what a decoded frame says. -/
structure IrigFrame where
  ns : Nat
  parityOk : Bool
  /-- The IEEE 1344 extensions are present (R63). -/
  ext : Bool := true
  /-- The second of the coded IRIG-B time, and what the IEEE 1344 time offset field adds to it to give UTC, in s. -/
  coded : Int
  offset : Int := 0
  /-- Instant of the on-time marker, ns. -/
  marker : Nat
  tq : Nat
  ofs : Option Int
  /-- Leap second pending: 0 none, 1 insertion, 2 deletion. -/
  leap : Nat
  deriving DecidableEq, Repr

/-- ALIGNED_SET_SEAL: the streams whose record is found corrupt (R141), the channels whose hold memory entry and the comparators
whose state is found corrupt, and what becomes of the set itself: 0 good, 1 rebuilt, 2 not rebuilt (R164). -/
structure SealCheck where
  corrupt : List Nat := []
  holdBad : List Nat := []
  cmpBad : List Nat := []
  rebuild : Nat := 0
  deriving DecidableEq, Repr

/-- What a reader finds when it checks its inputs (R141, R164): streams whose record is corrupt, groups whose aligned set is corrupt
with what becomes of it (1 rebuilt, 2 not), whether the reader's own state is corrupt, and the comparators or alarms whose state
is. -/
structure ReadCheck where
  recBad : List Nat := []
  setBad : List (Nat × Nat) := []
  stateBad : Bool := false
  objBad : List Nat := []
  deriving DecidableEq, Repr

/-- OUTPUT_FRAME_ASSEMBLE: what becomes of the aligned set (0 good, 1 rebuilt, 2 not) and of the frame (0 good, 1 reassembled, 2
not sent) when they are checked (R164), and the TCP clients whose send buffer cannot take the frame (R331). -/
structure FrameCheck where
  setRes : Nat := 0
  frameRes : Nat := 0
  full : List (Nat × Nat) := []
  deriving DecidableEq, Repr

/-- WORK_ITEM_DISPATCH: what enters the scheduler before the engine unit takes its item: items from arrivals (flow, path start) in
the order of R161, items raised by engines (engine, flow, path start), and delay-list entries (list, release tick, flow, belongs
to an instant). -/
structure TskIn where
  arrivals : List (Nat × Nat) := []
  raised : List (Nat × Nat × Nat) := []
  delays : List (Nat × Nat × Nat × Bool) := []
  /-- The arrivals at the very instant of the last tick boundary: they precede what the delay lists released there. -/
  atBoundary : List (Nat × Nat) := []
  deriving DecidableEq, Repr

/-- A request that appears at the arbiter: requester, resource, LST, LOCK, NODL (R356). -/
structure ArbIn where
  rq : Nat
  res : Nat
  lst : BitVec 16
  /-- For an egress port: the frame, by its number, that waits complete in the port's transmit buffer (R91, Table 13-5). -/
  frame : Option Nat := none
  lock : Bool := false
  nodl : Bool := false
  /-- The work item in service, as flow and admission number, on whose behalf the request is made: LST and NODL follow from it. -/
  item : Option (Nat × Nat) := none
  deriving DecidableEq, Repr

/-- A transmit descriptor as host software wrote it (Table 15-7). -/
structure TxDesc where
  addr : Nat
  len : Nat
  tflags : Nat
  mask : Nat
  /-- The frame that starts in this buffer carries a tag. -/
  tagged : Bool := false
  deriving DecidableEq, Repr

/-- FW_STAGE: what a firmware package declares (R469): its version and security version, its components as (type, version, SHA3-256
declared), the chain MC' it will produce; whether its manifest verifies under the firmware anchor and every component matches
its declared hash. -/
structure FwPkg where
  version : Nat
  svn : Nat
  comps : List (Nat × Nat × List (BitVec 8))
  mc : List (BitVec 8)
  manifestOk : Bool
  hashesOk : Bool
  deriving DecidableEq, Repr

/-- POWER_UP: whether EXT10M_IN carries its signal, VIN in mV, the RTC in ns at the end of the sequence (it counts only while it is valid), and the length of the sequence in
ms. -/
structure PowerIn where
  ext10 : Bool := false
  mv : Nat := 12000
  rtc : Nat := 0
  ms : Nat := 472
  deriving DecidableEq, Repr

/-- What a received frame is by its EtherType (R85); the Calfa link has a framing of its own. -/
def Frame.kind (f : Frame) : Payload :=
  match f.payload with
  | .calfa b => .calfa b
  | p => if p.etypes.contains f.etype then p else .other

/-- FATAL_ERROR: the cause (Table 18-9), the event block code of the detecting block (0xFFFF none), DETAIL, the instant in ns, and whether
the PFAIL warning comes while the dump is written. -/
structure FatalIn where
  cause : Nat
  block : Nat := 0xFFFF
  detail : Nat := 0
  ns : Nat := 0
  cut : Bool := false
  deriving DecidableEq, Repr

/-- PTP_MSG_TX: the port, the message type, and for a Pdelay_Resp the receive timestamp of its request in ns. -/
structure PtpSend where
  port : Nat
  kind : PtpKind
  reqRx : Nat := 0
  deriving DecidableEq, Repr

/-! ## The commands -/

/-- The commands of the block: one constructor per row of the table, in its order, with the rule that each follows. -/
inductive Instr where
  /-- POWER_UP (R482). -/
  | powerUp (x : PowerIn)
  /-- PROVISIONAL_TICK (R487). -/
  | provisionalTick
  /-- TICK_BOUNDARY (R50): `bad` the GOOSE publications whose frame is found corrupt, with 1 reassembled or 2 not sent (R164). -/
  | tickBoundary (di : BitVec 16) (bad : List (Nat × Nat) := [])
  /-- TB_STEP (R68). -/
  | tbStep (src ns since : Nat)
  /-- RATE_UPDATE (R69). -/
  | rateUpdate (m : RateMeas)
  /-- HOLDOVER_TERR_UPDATE (R72). -/
  | holdoverTerrUpdate
  /-- SDT_OFFSET_ESTIMATE (R66). -/
  | sdtOffsetEstimate
  /-- LEAP_LATCH (R52). -/
  | leapLatch
  /-- LEAP_DONE (R53). -/
  | leapDone
  /-- RTC_SET (R494). -/
  | rtcSet
  /-- PPS_IN_EDGE (R63). -/
  | ppsInEdge (ns : Nat)
  /-- IRIGB_FRAME_RX (R63). -/
  | irigbFrameRx (m : IrigFrame)
  /-- PTP_MSG_RX (R60). -/
  | ptpMsgRx
  /-- PTP_MSG_TX (R62). -/
  | ptpMsgTx (x : PtpSend)
  /-- EXT_LOST (R512). -/
  | extLost
  /-- TIMEBASE_RESTART_REQUEST (R78). -/
  | timebaseRestartRequest (fn key : Nat)
  /-- TIMEBASE_RESTART (R78). -/
  | timebaseRestart
  /-- TB_SNAP (R80). -/
  | tbSnap (fn ns : Nat)
  /-- TB_UTC_OFS_WRITE (R524). -/
  | tbUtcOfsWrite (fn : Nat) (v : BitVec 32)
  /-- LINK_UP (R84). -/
  | linkUp (port : Nat) (pcs fec an : Bool) (speed : Nat)
  /-- LINK_DOWN (R84). -/
  | linkDown (port : Nat) (rxCut : Bool)
  /-- FRAME_RX (R86). -/
  | frameRx (f : Frame)
  /-- PAUSE_FRAME_RX (R93). -/
  | pauseFrameRx (f : Frame)
  /-- PAUSE_EXPIRY (R93). -/
  | pauseExpiry (port ns : Nat)
  /-- PAUSE_HOLD (R96). -/
  | pauseHold (port : Nat)
  /-- PAUSE_TX_REPEAT (R97). -/
  | pauseTxRepeat (port ns : Nat)
  /-- FRAME_TX_COMPLETE (R92): the departure in ns, and its part below 1 ns in units of 2⁻¹⁶ ns. -/
  | frameTxComplete (port id dep : Nat) (sub : Nat := 0)
  /-- PRP_ENTRY_EXPIRY (R101). -/
  | prpEntryExpiry (ns : Nat)
  /-- PRP_SUPERVISION_TX (R104). -/
  | prpSupervisionTx (pair : Nat)
  /-- PRP_SUPERVISION_RX (R104). -/
  | prpSupervisionRx
  /-- DATA_FRAME_RX (R122). -/
  | dataFrameRx
  /-- CFG_FRAME_RX (R127). -/
  | cfgFrameRx
  /-- HEADER_FRAME_RX (R123). -/
  | headerFrameRx
  /-- RSV_SPDU_RX (R135). -/
  | rsvSpduRx
  /-- CFG_REQUEST_REPEAT (R128). -/
  | cfgRequestRepeat (stream ns : Nat)
  /-- TCP_CONNECT (R129): the connection to the first source or, of a paired source, to the second (0 or 1), and its port where it is known. -/
  | tcpConnect (stream : Nat) (conn : Nat := 0) (port : Option Nat := none)
  /-- TCP_DISCONNECT (R129). -/
  | tcpDisconnect (stream : Nat) (conn : Nat := 0)
  /-- TCP_RETRY (R129). -/
  | tcpRetry (stream ns : Nat)
  /-- INGEST_RECORD_WRITE (R139). -/
  | ingestRecordWrite (chk : ReadCheck := {})
  /-- TABLE_PARITY_RELOAD (R497). -/
  | tableParityReload (sec : Nat)
  /-- GROUP_START (R151). -/
  | groupStart (grp : Nat)
  /-- WINDOW_CLOSE (R146). -/
  | windowClose (grp : Nat)
  /-- ALIGNED_SET_SEAL (R149). -/
  | alignedSetSeal (grp : Nat) (chk : SealCheck)
  /-- TIMEOUT_EXPIRY (R235). -/
  | timeoutExpiry (cmp : Nat)
  /-- SV_FRAME_RX (R174). -/
  | svFrameRx
  /-- SV_MAX_AGE_EXPIRY (R175). -/
  | svMaxAgeExpiry (sub ns : Nat)
  /-- BAY_RECORD_WRITE (R190). -/
  | bayRecordWrite (bay inst : Nat) (chk : ReadCheck := {})
  /-- BAY_LATENCY_DEADLINE (R192). -/
  | bayLatencyDeadline (bay inst ns : Nat) (chk : ReadCheck := {})
  /-- SIGNAL_UPDATE (R198). -/
  | signalUpdate (sig : Nat) (chk : ReadCheck)
  /-- MODE_FAMILY_EVALUATION (R208). -/
  | modeFamilyEvaluation (ref : Nat) (chk : ReadCheck := {})
  /-- ISLAND_EVALUATION (R222). -/
  | islandEvaluation (icn : Nat) (chk : ReadCheck)
  /-- SCAN_SNAPSHOT (R249). -/
  | scanSnapshot (task : Nat) (chk : ReadCheck := {})
  /-- SCAN_RUN (R248). -/
  | scanRun
  /-- GOOSE_MESSAGE_RX (R258). -/
  | gooseMessageRx
  /-- STATION_TAL_EXPIRY (R260). -/
  | stationTalExpiry (station : Nat)
  /-- CAPTURE_SAMPLE_WRITE (R273). -/
  | captureSampleWrite (rcd : Nat) (chk : ReadCheck := {})
  /-- REARM_EXPIRY (R280). -/
  | rearmExpiry (rcd : Nat)
  /-- CAP_ARM_RECORDER (R290). -/
  | capArmRecorder (fn arg key : Nat)
  /-- CAP_DISARM_RECORDER (R290). -/
  | capDisarmRecorder (fn arg key : Nat)
  /-- CAP_HOST_TRIGGER (R290). -/
  | capHostTrigger (fn arg key : Nat)
  /-- CAP_FREE_TAKE (R290). -/
  | capFreeTake (fn arg key : Nat)
  /-- CAP_ARM_SET (R286). -/
  | capArmSet (fn key : Nat)
  /-- CAP_DISARM_SET (R286). -/
  | capDisarmSet (fn key : Nat)
  /-- ARM_REPEAT (R286). -/
  | armRepeat
  /-- ARM_SPAN_EXPIRY (R286). -/
  | armSpanExpiry
  /-- CROSS_TRIGGER_MSG_RX (R287). -/
  | crossTriggerMsgRx
  /-- CYCLE_CLOSE (R297). -/
  | cycleClose (point : Nat)
  /-- BILLING_RECORD_SIGN (R316). -/
  | billingRecordSign
  /-- PULSE_OUTPUT_STEP (R308). -/
  | pulseOutputStep (po ns : Nat)
  /-- MTR_SNAP (R302). -/
  | mtrSnap (fn : Nat)
  /-- MTR_RELEASE (R317). -/
  | mtrRelease (fn key : Nat)
  /-- OUTPUT_FRAME_ASSEMBLE (R324). -/
  | outputFrameAssemble (out : Nat) (chk : FrameCheck)
  /-- CFG_PEND_START (R329). -/
  | cfgPendStart (out : Nat)
  /-- CMD_TURN_OFF (R330). -/
  | cmdTurnOff
  /-- CMD_TURN_ON (R330). -/
  | cmdTurnOn
  /-- CMD_SEND_HEADER (R330). `full`: the send buffer of the TCP client cannot take the frame (R331). -/
  | cmdSendHeader (full : Bool := false)
  /-- CMD_SEND_CFG1 (R330). `full`: the send buffer of the TCP client cannot take the frame (R331). -/
  | cmdSendCfg1 (full : Bool := false)
  /-- CMD_SEND_CFG2 (R330). `full`: the send buffer of the TCP client cannot take the frame (R331). -/
  | cmdSendCfg2 (full : Bool := false)
  /-- CMD_SEND_CFG3 (R330). `full`: the send buffer of the TCP client cannot take the frame (R331). -/
  | cmdSendCfg3 (full : Bool := false)
  /-- CMD_BAD (R330). -/
  | cmdBad
  /-- PUB_TCP_CONNECT (R331). -/
  | pubTcpConnect (out addr port eport : Nat)
  /-- PUB_TCP_DISCONNECT (R331). -/
  | pubTcpDisconnect (out addr port : Nat)
  /-- GOOSE_REPEAT (R335): `res` is 0 for a good frame, 1 reassembled, 2 not sent (R164). -/
  | gooseRepeat (pub : Nat) (res : Nat := 0)
  /-- DO_MIN_ON_EXPIRY (R337). -/
  | doMinOnExpiry (land : Nat)
  /-- DO_HOLD_EXPIRY (R338). -/
  | doHoldExpiry (land : Nat)
  /-- WORK_ITEM_DISPATCH (R347). -/
  | workItemDispatch (engine unit : Nat) (x : TskIn)
  /-- WORK_ITEM_RELEASE (R349). -/
  | workItemRelease (flow adm : Nat) (next : Option Nat)
  /-- ARB_BEAT (R357). -/
  | arbBeat (done : List Nat) (reqs : List ArbIn)
  /-- LOCK_OVER (R363). -/
  | lockOver (res : Nat)
  /-- LST_REWRITE (R360). -/
  | lstRewrite (rq res : Nat) (lst : BitVec 16)
  /-- TSK_TEST_ENTRY (R351). -/
  | tskTestEntry (fn key : Nat)
  /-- TSK_TEST_EXIT (R351). -/
  | tskTestExit (fn key : Nat)
  /-- TSK_SET_LEVEL (R348). -/
  | tskSetLevel (fn lvl key : Nat)
  /-- STAGE_SLOT_A (R386). -/
  | stageSlotA (fn key : Nat)
  /-- STAGE_SLOT_B (R386). -/
  | stageSlotB (fn key : Nat)
  /-- STAGE_PUSH (R386). -/
  | stagePush (fn key : Nat)
  /-- STAGING_DONE (R383). -/
  | stagingDone
  /-- WRITE_SLOT (R386). -/
  | writeSlot (fn key slot : Nat)
  /-- SLOT_WRITE_DONE (R386). -/
  | slotWriteDone
  /-- SCHEDULE_ACTIVATION (R387). -/
  | scheduleActivation (fn key : Nat)
  /-- CANCEL_ACTIVATION (R387). -/
  | cancelActivation (fn key : Nat)
  /-- SET_BOOT_SLOT (R386). -/
  | setBootSlot (fn key slot : Nat)
  /-- COMMIT_BATCH (R390). -/
  | commitBatch (fn key : Nat)
  /-- EMPTY_BATCH (R390). -/
  | emptyBatch (fn key : Nat)
  /-- DISCARD_STAGED (R394). -/
  | discardStaged (fn key : Nat)
  /-- CFG_BAT_VAL_WRITE (R390). -/
  | cfgBatValWrite (fn : Nat) (v : BitVec 32)
  /-- BATCH_APPLY (R391). -/
  | batchApply
  /-- ACTIVATION (R388). -/
  | activation
  /-- CFG_FENCE_REQ_WRITE (R413). -/
  | cfgFenceReqWrite (fn : Nat) (v : BitVec 32)
  /-- REGISTER_FENCE_DONE (R413). -/
  | registerFenceDone (fn : Nat)
  /-- WINDOW_INDEX_WRITE (R120). -/
  | windowIndexWrite (fn off : Nat) (v : BitVec 32)
  /-- RC_REGISTER_READ (R9). -/
  | rcRegisterRead (fn off : Nat)
  /-- W1C_WRITE (R6). -/
  | w1cWrite (fn off : Nat) (v : BitVec 32)
  /-- REGISTER_WRITE (R399). -/
  | registerWrite (fn off : Nat) (v : BitVec 32)
  /-- BAD_ACCESS (R397). -/
  | badAccess (fn : Nat) (read : Bool)
  /-- COMMAND_FETCH (R405). -/
  | commandFetch (fn : Nat) (raw : List (BitVec 8))
  /-- CMD_NOP (R406). -/
  | cmdNop (fn : Nat)
  /-- CMD_FENCE (R412). -/
  | cmdFence (fn : Nat)
  /-- FENCE_COMPLETE (R412). -/
  | fenceComplete (fn : Nat)
  /-- CMD_IMG_PUSH (R406). -/
  | cmdImgPush (fn : Nat) (data : Option (List (BitVec 8)))
  /-- CMD_PAR_BATCH (R391). -/
  | cmdParBatch (fn : Nat)
  /-- CMD_TAKE_READ (R406). -/
  | cmdTakeRead (fn : Nat) (ok : Bool)
  /-- CMD_BILL_READ (R406). -/
  | cmdBillRead (fn : Nat) (ok : Bool)
  /-- CMD_METER_KEY_GET (R475). -/
  | cmdMeterKeyGet (fn : Nat) (ok : Bool)
  /-- CMD_ID_GET (R474). -/
  | cmdIdGet (fn : Nat) (ok : Bool)
  /-- CMD_QUOTE (R476). -/
  | cmdQuote (fn : Nat) (ok : Bool)
  /-- CMD_KEY_PUT (R466). -/
  | cmdKeyPut (fn : Nat) (blob : Option (List (BitVec 8)))
  /-- CMD_KEY_DERIVE (R467). -/
  | cmdKeyDerive (fn : Nat)
  /-- CMD_KEY_ERASE (R468). -/
  | cmdKeyErase (fn : Nat)
  /-- CMD_LC_TRANSITION (R458). -/
  | cmdLcTransition (fn : Nat) (token : Option (List (BitVec 8)))
  /-- CMD_FW_STAGE (R469). -/
  | cmdFwStage (fn : Nat) (pkg : Option FwPkg)
  /-- CMD_FW_REWRAP (R469). -/
  | cmdFwRewrap (fn : Nat)
  /-- CMD_FW_ACTIVATE (R469). -/
  | cmdFwActivate (fn : Nat)
  /-- FW_ACTIVATE_RESET (R495). -/
  | fwActivateReset
  /-- CMD_PAIR_HANDOVER (R442). -/
  | cmdPairHandover (fn : Nat)
  /-- CMD_PAIR_HOLD (R451). -/
  | cmdPairHold (fn : Nat)
  /-- CMD_PAIR_STATUS (R451). -/
  | cmdPairStatus (fn : Nat)
  /-- CMD_DUMP_INFO (R503). -/
  | cmdDumpInfo (fn : Nat)
  /-- CMD_DUMP_READ (R503). -/
  | cmdDumpRead (fn : Nat) (ok : Bool)
  /-- CMD_DUMP_RELEASE (R501). -/
  | cmdDumpRelease (fn : Nat)
  /-- CMD_PWR_RESET (R503). -/
  | cmdPwrReset (fn : Nat)
  /-- SCHEDULED_RESET (R495). -/
  | scheduledReset
  /-- CMD_PWR_SLEEP (R493). -/
  | cmdPwrSleep (fn : Nat)
  /-- CMD_UNUSED_OP (R406). -/
  | cmdUnusedOp (fn : Nat)
  /-- EVENT_PLACE (R410). -/
  | eventPlace (fn blk : Nat)
  /-- EVENT_HOLD_EXPIRY (R410). -/
  | eventHoldExpiry (fn blk : Nat)
  /-- HARVEST_RECORD_WRITE (R416). -/
  | harvestRecordWrite (fn key : Nat)
  /-- HARVEST_HOLD_EXPIRY (R416). -/
  | harvestHoldExpiry (fn key : Nat)
  /-- HOST_RX_DELIVER (R105). -/
  | hostRxDeliver (fn ring : Nat) (addrs : List Nat)
  /-- HOST_RX_HOLD_EXPIRY (R106). -/
  | hostRxHoldExpiry (fn ring : Nat)
  /-- HOST_TX_FRAME (R415). -/
  | hostTxFrame (fn ring : Nat) (descs : List TxDesc) (ok : Bool)
  /-- HOST_TX_HOLD_EXPIRY (R415). -/
  | hostTxHoldExpiry (fn port : Nat)
  /-- DMA_ERROR (R404). -/
  | dmaError (fn code reason : Nat)
  /-- INTERRUPT_SEND (R417). -/
  | interruptSend (fn src : Nat)
  /-- FUNCTION_LEVEL_RESET (R418). -/
  | functionLevelReset (fn : Nat)
  /-- BUS_MASTER_DISABLE (R418). -/
  | busMasterDisable (fn : Nat)
  /-- PERST (R496). -/
  | perst (hot : Bool)
  /-- HEARTBEAT_SEND (R425). -/
  | heartbeatSend
  /-- HEARTBEAT_RX (R425). -/
  | heartbeatRx
  /-- HEARTBEAT_CHECK (R426). -/
  | heartbeatCheck
  /-- LEASE_MESSAGE_SEND (R427). -/
  | leaseMessageSend
  /-- GRANT_RX (R429). -/
  | grantRx
  /-- DENY_RX (R422). -/
  | denyRx
  /-- AUTHORITY_BEGIN (R429). -/
  | authorityBegin
  /-- LEASE_END (R427). -/
  | leaseEnd
  /-- GENERATION_FORM (R435). -/
  | generationForm
  /-- GEN_BLOCK_RX (R436). -/
  | genBlockRx
  /-- GEN_END_RX (R436). -/
  | genEndRx
  /-- GENERATION_TIMEOUT (R436). -/
  | generationTimeout (gen : Nat)
  /-- HANDOVER_REQ_RX (R442). -/
  | handoverReqRx
  /-- HANDOVER_INSTANT (R442). -/
  | handoverInstant
  /-- HANDOVER_TIMEOUT (R442). -/
  | handoverTimeout
  /-- REQUEST_RX (R446). -/
  | requestRx
  /-- RENEW_RX (R446). -/
  | renewRx
  /-- RELEASE_RX (R446). -/
  | releaseRx
  /-- WITNESS_LEASE_EXPIRY (R446). -/
  | witnessLeaseExpiry (pair ns : Nat)
  /-- TAMPER_DETECT (R471). -/
  | tamperDetect (mask : Nat) (keyOp : Bool)
  /-- PFAIL_WARNING (R490). -/
  | pfailWarning (ns : Nat) (ext : Bool)
  /-- PFAIL_RECOVER (R491). -/
  | pfailRecover (mv : Nat)
  /-- UVLO_FALL (R491). -/
  | uvloFall
  /-- RESET_N_LOW (R495). -/
  | resetNLow
  /-- SLEEP_WAKE (R493). -/
  | sleepWake (rtc : Nat)
  /-- FATAL_ERROR (R499). -/
  | fatalError (x : FatalIn)
  /-- TEMP_THRESHOLD (R505). -/
  | tempThreshold (temp : Int)
  /-- VIN_LOW_ALERT (R505). -/
  | vinLowAlert (mv : Nat)
  /-- VBAT_APPLIED (R481). -/
  | vbatApplied
  /-- VBAT_LOST (R508). -/
  | vbatLost
  /-- RESET_N_RELEASE (R482). -/
  | resetNRelease
  /-- PFAIL_N_HIGH (R484). -/
  | pfailNHigh (mv : Nat)
  /-- PERST_N_RELEASE (R483). -/
  | perstNRelease
  /-- BUS_MASTER_ENABLE (R418). -/
  | busMasterEnable (fn : Nat)
  deriving DecidableEq, Repr

end Sys2Proof
end

