-- ==== Sys2Proof/Config.lean ====
section
/-!
DEFINITION. Sys2Proof/Config.lean: the free values: what the specification leaves open, as opaque constants.
-/
namespace Sys2Proof.Config

opaque freeBits : Nat → BitVec 64
/-- The deviation of a function that the spec gives within 1 ulp (R201): 0, 1 or 2 (one less) modulo 3. -/
opaque ulp : Nat → List Word → Nat
/-- arg of a phasor of 0 in the estimates of chapter 6, for which the spec states no value. -/
opaque argZero : Int
/-- arg of an infinity or a NaN. -/
opaque argOpen : Word → Word → Word
opaque minZero : Word → Word → Word
opaque maxZero : Word → Word → Word
opaque nanPayload : Nat → Nat
opaque nanSign : Nat → Bool
/-- The UDP port of a source whose entry gives none and that has sent nothing. -/
opaque srcPort : Nat → Nat
/-- The SPDU length that the dataset mapping of IEC 61850-90-5 gives for a count of phasors, analogs and digital words (R126). -/
opaque rsvLen : Nat → Nat → Nat → Nat
opaque c37Version2 : Bool
/-- The headers of an output frame, whose receiver's addresses the spec does not give. -/
opaque outHead : Nat → List Byte
opaque encOpen : Word → Word → Nat
/-- The encoding of a GOOSE message or R-GOOSE SPDU by its numbers, strings and values (R334). -/
opaque gooseBytes : List Nat → List (List Byte) → List Word → List Byte
/-- What CFG-3 carries of a block and the spec does not name: G_PMU_ID, and the 21 bytes from PMU_LAT to GRP_DLY, by output stream and block. -/
opaque cfg3Open : Nat → Nat → List Byte
/-- The flags of a phasor in CFG-3's PHSCALE but the one for voltage or current, by channel. -/
opaque cfg3Flags : Nat → Nat
opaque capRing : Nat → Nat

/-- Bytes of the pre-trigger ring region that an image sizes, by vintage (R272): the spec gives the region no field. -/
opaque ringRegion : Nat → Nat
opaque xtDst : Nat → Nat
opaque xtPorts : Nat → Nat
/-- The randomness of a signature (FIPS 204), by the count of free values, the instant and the message. -/
opaque signRnd : Nat → Nat → List Byte → List Byte
opaque vaultRoot : Nat → List Byte
opaque deviceSecret : List Byte
opaque anchorMfg : List Byte
opaque anchorRet : List Byte
/-- The cost table of the module's stepping (R40): the service time, in units of 2⁻¹⁶ tk, that an item of a kind and size takes on the resource of
a line; kind 255 is a locked sequence of so many beats. -/
opaque cost : Nat → Nat → Nat → Nat
/-- The frame length of a subscription's messages, and the longest message of a publication, by vintage and index. -/
opaque svLen : Nat → Nat → Nat
opaque gooseMax : Nat → Nat → Nat
/-- What the compiler put into the flow contexts, in no section that the spec gives (Table 13-1). -/
opaque flowWord : List (Nat × List (List Word)) → Nat → Word
/-- Which stage of Table 1-7 a bounded flow ends at its engine. -/
opaque flowStage : List (Nat × List (List Word)) → Nat → Nat
opaque ptpTlvLen : Nat
opaque ownClockId : Nat
opaque ownGm : Nat → Nat
opaque dumpBytes : Nat → Nat → Byte
opaque cellarWriter : Nat
opaque policerDepth : Nat
opaque writerDepth : Nat
opaque levelDepth : Nat → Nat → Nat
opaque rackingEngine : Nat

end Sys2Proof.Config
end

