-- ==== Sys2Proof/Machine/Bits.lean ====
section
/-!
DEFINITION. Sys2Proof/Machine/Bits.lean: bit fields, byte order (R10, R11), checksums, sparse tables and the small
list operations that every block shares.
-/
namespace Sys2Proof.Machine

/-! ## Sparse tables -/

/-- The entry at index `k`, if the table lists one. -/
def fget? {α : Type} : FMap α → Nat → Option α
  | [], _ => none
  | (i, a) :: m, k => if i = k then some a else if k < i then none else fget? m k

/-- The entry at index `k`, or the table's default. -/
def fgetD {α : Type} (m : FMap α) (k : Nat) (d : α) : α := (fget? m k).getD d

/-- The table with entry `a` at index `k`; indexes stay strictly rising. -/
def fset {α : Type} : FMap α → Nat → α → FMap α
  | [], k, a => [(k, a)]
  | (i, b) :: m, k, a =>
    if i = k then (k, a) :: m else if k < i then (k, a) :: (i, b) :: m else (i, b) :: fset m k a

/-- The table without index `k`. -/
def fdel {α : Type} (m : FMap α) (k : Nat) : FMap α := m.filter (fun e => e.1 != k)

/-- The table with the entry at `k` (or the default) changed by `f`. -/
def fmod {α : Type} (m : FMap α) (k : Nat) (d : α) (f : α → α) : FMap α := fset m k (f (fgetD m k d))

/-- A list of keys comes before another: the first key that differs is lower. -/
def lexLt : List Nat → List Nat → Bool
  | a :: l, b :: m => decide (a < b) || (a == b && lexLt l m)
  | [], _ :: _ => true
  | _, [] => false

/-! ## Bit fields (registers and table words list fields from the highest bit down) -/

/-- Bits `hi:lo` of a number, as a number. -/
def bitsN (n hi lo : Nat) : Nat := (n >>> lo) % 2 ^ (hi + 1 - lo)

/-- Bits `hi:lo` of a word, as a number. -/
def fld (w : Word) (hi lo : Nat) : Nat := bitsN w.toNat hi lo

/-- Bit `i` of a word. -/
def bit (w : Word) (i : Nat) : Bool := w.getLsbD i

/-- A Boolean as a bit. -/
def b2n (b : Bool) : Nat := if b then 1 else 0

/-- A mask with ones in bits `hi:lo`. -/
def maskW (hi lo : Nat) : Word := BitVec.ofNat 32 ((2 ^ (hi + 1 - lo) - 1) <<< lo)

/-- The word with bits `hi:lo` replaced by `v`. -/
def setFld (w : Word) (hi lo v : Nat) : Word :=
  (w &&& ~~~ (maskW hi lo)) ||| (BitVec.ofNat 32 (v <<< lo) &&& maskW hi lo)

/-- The word with bit `i` set to `b`. -/
def setBit (w : Word) (i : Nat) (b : Bool) : Word := setFld w i i (b2n b)

/-- The signed value of an `n`-bit field. -/
def sint (n v : Nat) : Int := if v % 2 ^ n < 2 ^ (n - 1) then ((v % 2 ^ n : Nat) : Int) else ((v % 2 ^ n : Nat) : Int) - 2 ^ n

/-- The `n`-bit two's complement pattern of an integer. -/
def uint (n : Nat) (v : Int) : Nat := (v % (2 ^ n : Int)).toNat

/-! ## Bytes -/

/-- The `k` bytes of `n`, least significant first (R11). -/
def leBytes : Nat → Nat → List Byte
  | 0, _ => []
  | k + 1, n => BitVec.ofNat 8 n :: leBytes k (n / 256)

/-- The `k` bytes of `n`, most significant first (R10). -/
def beBytes (k n : Nat) : List Byte := (leBytes k n).reverse

/-- The number that little-endian bytes spell. -/
def leNat : List Byte → Nat
  | [] => 0
  | b :: bs => b.toNat + 256 * leNat bs

/-- The number that big-endian bytes spell. -/
def beNat (bs : List Byte) : Nat := leNat bs.reverse

/-- `n` bytes from offset `off`. -/
def slice (bs : List Byte) (off n : Nat) : List Byte := (bs.drop off).take n

/-- The little-endian field of `n` bytes at offset `off`. -/
def leAt (bs : List Byte) (off n : Nat) : Nat := leNat (slice bs off n)

/-- The big-endian field of `n` bytes at offset `off`. -/
def beAt (bs : List Byte) (off n : Nat) : Nat := beNat (slice bs off n)

/-- The nanosecond field of the big-endian timestamp at offset `o` is one (R14). -/
def tsOk (bs : List Byte) (o : Nat) : Bool := decide (beAt bs (o + 8) 4 ≤ 999999999)

/-- `bs` cut or padded with zero bytes to `n` bytes. -/
def padTo (n : Nat) (bs : List Byte) : List Byte := (bs ++ List.replicate n 0#8).take n

/-- `n` zero bytes. -/
def zeros (n : Nat) : List Byte := List.replicate n 0#8

/-- The bytes of a text. -/
def ascii (t : String) : List Byte := t.toList.map (fun c => BitVec.ofNat 8 c.toNat)

/-- A timestamp in a little-endian record: 64-bit TAI seconds, then 32-bit nanoseconds (R13). -/
def tsLE (ns : Nat) : List Byte := leBytes 8 (ns / 1000000000) ++ leBytes 4 (ns % 1000000000)

/-- A timestamp in a big-endian message (R10, R13). -/
def tsBE (ns : Nat) : List Byte := beBytes 8 (ns / 1000000000) ++ beBytes 4 (ns % 1000000000)

/-- Little-endian words of a byte string; a short tail is padded with zero bytes. -/
def wordsLE : Nat → List Byte → List Word
  | 0, _ => []
  | k + 1, bs => BitVec.ofNat 32 (leNat (bs.take 4)) :: wordsLE k (bs.drop 4)

/-- The bytes of a list of words, each word little-endian (R373). -/
def bytesLE (ws : List Word) : List Byte := ws.flatMap (fun w => leBytes 4 w.toNat)

/-! ## Checksums -/

/-- One bit of the reflected CRC-32 (polynomial 0x04C1_1DB7, reflected 0xEDB8_8320). -/
def crc32Bit (c : Word) : Word := if c.getLsbD 0 then (c >>> 1) ^^^ 0xEDB88320#32 else c >>> 1

/-- One byte of the CRC-32. -/
def crc32Byte (c : Word) (b : Byte) : Word :=
  crc32Bit (crc32Bit (crc32Bit (crc32Bit (crc32Bit (crc32Bit (crc32Bit (crc32Bit (c ^^^ b.setWidth 32))))))))

/-- The CRC-32 of a byte string (R140): register starts at all ones, result is inverted. -/
def crc32 (bs : List Byte) : Word := ~~~ (bs.foldl crc32Byte 0xFFFFFFFF#32)

/-- One bit of CRC-CCITT (polynomial 0x1021). -/
def crcCcittBit (c : BitVec 16) : BitVec 16 := if c.getLsbD 15 then (c <<< 1) ^^^ 0x1021#16 else c <<< 1

/-- One byte of CRC-CCITT. -/
def crcCcittByte (c : BitVec 16) (b : Byte) : BitVec 16 :=
  crcCcittBit (crcCcittBit (crcCcittBit (crcCcittBit (crcCcittBit (crcCcittBit (crcCcittBit (crcCcittBit
    (c ^^^ (b.setWidth 16 <<< 8)))))))))

/-- The CRC-CCITT of a byte string: register starts at 0xFFFF, no inversion. -/
def crcCcitt (bs : List Byte) : BitVec 16 := bs.foldl crcCcittByte 0xFFFF#16

/-! ## Lists and numbers -/

/-- The first element that satisfies `p`, and the list without it. -/
def takeFirst {α : Type} (p : α → Bool) : List α → Option (α × List α)
  | [] => none
  | a :: l => if p a then some (a, l) else match takeFirst p l with
    | none => none
    | some (b, l') => some (b, a :: l')

/-- The list with its `n`-th element changed by `f`. -/
def modAt {α : Type} (l : List α) (n : Nat) (f : α → α) : List α := l.modify n f

/-- A log of values by the key from which each stood, newest first: `e` is entered, and entries that `horizon` has left behind go, but for the
latest of these, which still stands at the horizon. -/
def logPut {α : Type} (horizon : Nat) (e : Nat × α) (l : List (Nat × α)) : List (Nat × α) :=
  e :: (l.takeWhile (fun x => decide (horizon < x.1)) ++ ((l.dropWhile (fun x => decide (horizon < x.1))).take 1))

/-- The value that stood at `k`; `d` where the log does not reach. -/
def logAt {α : Type} (l : List (Nat × α)) (k : Nat) (d : α) : α :=
  match l.find? (fun x => decide (x.1 ≤ k)) with
  | some x => x.2
  | none => match l.getLast? with
    | some x => x.2
    | none => d

/-- The last `n` elements. -/
def lastN {α : Type} (n : Nat) (l : List α) : List α := l.drop (l.length - n)

/-- The nearest integer to `a / b`, ties upward. -/
def roundDiv (a b : Nat) : Nat := (2 * a + b) / (2 * b)

/-- `a / b` rounded up. -/
def ceilDiv (a b : Nat) : Nat := (a + b - 1) / b

/-- The floor of an integer quotient. -/
def floorDivI (a : Int) (b : Nat) : Int := a.fdiv (b : Int)

/-- The nearest integer to `a / b`, ties upward, for a signed numerator. -/
def roundDivI (a : Int) (b : Nat) : Int := (2 * a + b).fdiv (2 * (b : Int))

/-- The integer clamped to `[-m, m]`. -/
def clampI (m v : Int) : Int := max (-m) (min m v)

/-- The sum of a list of numbers. -/
def sumN (l : List Nat) : Nat := l.foldl (· + ·) 0

/-- The numbers `lo, lo + 1, …`, `n` of them. -/
def upFrom : Nat → Nat → List Nat
  | _, 0 => []
  | lo, n + 1 => lo :: upFrom (lo + 1) n

end Sys2Proof.Machine
end

