-- ==== Sys2Proof/Machine/Float.lean ====
section
/-!
DEFINITION. Sys2Proof/Machine/Float.lean: IEEE 754 binary32 and binary64 with rounding to nearest, ties to even: each operation
computes the exact rational result and rounds once.
-/
namespace Sys2Proof.Machine

/-- A binary interchange format: precision in bits, exponent of the least subnormal, bits of the exponent field. -/
structure FFmt where
  prec : Nat
  low : Int
  ebits : Nat
  deriving DecidableEq, Repr

/-- binary32. -/
def fmt32 : FFmt := ⟨24, -149, 8⟩

/-- binary64. -/
def fmt64 : FFmt := ⟨53, -1074, 11⟩

/-- A decoded floating-point number: the value of `fin neg m e` is ±m · 2^e. -/
inductive FVal where
  | nan
  | inf (neg : Bool)
  | fin (neg : Bool) (m : Nat) (e : Int)
  deriving DecidableEq, Repr

/-- The pattern of positive infinity. -/
def infBits (f : FFmt) : Nat := (2 ^ f.ebits - 1) * 2 ^ (f.prec - 1)

/-- The weight of the sign bit. -/
def signBit (f : FFmt) : Nat := 2 ^ (f.ebits + f.prec - 1)

/-- The pattern of the quiet NaN that the module writes: its sign and payload are free (assumption 12). -/
def nanBits (f : FFmt) : Nat :=
  infBits f + 2 ^ (f.prec - 2) + Config.nanPayload f.prec % 2 ^ (f.prec - 2) + (if Config.nanSign f.prec then signBit f else 0)

/-- Decode a pattern. -/
def fdec (f : FFmt) (b : Nat) : FVal :=
  let neg := decide (signBit f ≤ b % (2 * signBit f))
  let mag := b % signBit f
  let ex := mag / 2 ^ (f.prec - 1)
  let fr := mag % 2 ^ (f.prec - 1)
  if ex = 2 ^ f.ebits - 1 then (if fr = 0 then .inf neg else .nan)
  else if ex = 0 then .fin neg fr f.low
  else .fin neg (fr + 2 ^ (f.prec - 1)) (f.low + (ex : Int) - 1)

/-- `n / d` rounded to the nearest integer, ties to even. -/
def rne (n d : Nat) : Nat :=
  let q := n / d
  let r := n % d
  if 2 * r < d then q else if d < 2 * r then q + 1 else if q % 2 = 0 then q else q + 1

/-- The magnitude pattern of the exact value `n / d`, rounded once; overflow gives infinity. -/
def roundMag (f : FFmt) (n d : Nat) : Nat :=
  if n = 0 ∨ d = 0 then 0
  else
    let e0 : Int := (n.log2 : Int) - (d.log2 : Int) - (f.prec : Int)
    let scale := fun (e : Int) => if e < 0 then rne (n * 2 ^ (-e).toNat) d else rne n (d * 2 ^ e.toNat)
    let trunc := fun (e : Int) => if e < 0 then n * 2 ^ (-e).toNat / d else n / (d * 2 ^ e.toNat)
    let e1 := if trunc e0 < 2 ^ f.prec then e0 else if trunc (e0 + 1) < 2 ^ f.prec then e0 + 1 else e0 + 2
    let e := max e1 f.low
    min (infBits f) ((e - f.low).toNat * 2 ^ (f.prec - 1) + scale e)

/-- The pattern of ±`n / d`. -/
def fromRat (f : FFmt) (neg : Bool) (n d : Nat) : Nat := (if neg then signBit f else 0) + roundMag f n d

/-- The pattern of an integer quotient. -/
def fromIntRat (f : FFmt) (n : Int) (d : Nat) : Nat := fromRat f (decide (n < 0)) n.natAbs d

/-- A finite value as an integer over a power of two. -/
def finNum (neg : Bool) (m : Nat) (e : Int) : Int × Nat :=
  let v : Int := if neg then -(m : Int) else m
  if e < 0 then (v, 2 ^ (-e).toNat) else (v * 2 ^ e.toNat, 1)

/-- The value of a pattern as an exact quotient; none for NaN and infinity. -/
def toRat (f : FFmt) (b : Nat) : Option (Int × Nat) :=
  match fdec f b with
  | .fin neg m e => some (finNum neg m e)
  | _ => none

def isNan (f : FFmt) (b : Nat) : Bool := fdec f b == .nan

def isFinite (f : FFmt) (b : Nat) : Bool := (toRat f b).isSome

def fneg (f : FFmt) (b : Nat) : Nat := if b % (2 * signBit f) < signBit f then b + signBit f else b - signBit f

def fabs (f : FFmt) (b : Nat) : Nat := b % signBit f

/-- a + b. -/
def fadd (f : FFmt) (a b : Nat) : Nat :=
  match fdec f a, fdec f b with
  | .nan, _ => nanBits f
  | _, .nan => nanBits f
  | .inf s, .inf t => if s = t then a else nanBits f
  | .inf _, _ => a
  | _, .inf _ => b
  | .fin s m e, .fin t n k =>
    let (x, dx) := finNum s m e
    let (y, dy) := finNum t n k
    let z := x * dy + y * dx
    if z = 0 then fromRat f (s && t) 0 1 else fromIntRat f z (dx * dy)

/-- a − b. -/
def fsub (f : FFmt) (a b : Nat) : Nat := if isNan f b then nanBits f else fadd f a (fneg f b)

/-- a × b. -/
def fmul (f : FFmt) (a b : Nat) : Nat :=
  match fdec f a, fdec f b with
  | .nan, _ => nanBits f
  | _, .nan => nanBits f
  | .inf s, .inf t => (if s = t then 0 else signBit f) + infBits f
  | .inf s, .fin t n _ => if n = 0 then nanBits f else (if s = t then 0 else signBit f) + infBits f
  | .fin s m _, .inf t => if m = 0 then nanBits f else (if s = t then 0 else signBit f) + infBits f
  | .fin s m e, .fin t n k =>
    let k := e + k
    if k < 0 then fromRat f (s != t) (m * n) (2 ^ (-k).toNat) else fromRat f (s != t) (m * n * 2 ^ k.toNat) 1

/-- a / b. -/
def fdiv (f : FFmt) (a b : Nat) : Nat :=
  match fdec f a, fdec f b with
  | .nan, _ => nanBits f
  | _, .nan => nanBits f
  | .inf _, .inf _ => nanBits f
  | .inf s, .fin t _ _ => (if s = t then 0 else signBit f) + infBits f
  | .fin s _ _, .inf t => if s = t then 0 else signBit f
  | .fin s m e, .fin t n k =>
    if n = 0 then (if m = 0 then nanBits f else (if s = t then 0 else signBit f) + infBits f)
    else
      let k := e - k
      if k < 0 then fromRat f (s != t) m (n * 2 ^ (-k).toNat) else fromRat f (s != t) (m * 2 ^ k.toNat) n

/-- a × b + c with one rounding. -/
def ffma (f : FFmt) (a b c : Nat) : Nat :=
  match toRat f a, toRat f b, toRat f c with
  | some (x, dx), some (y, dy), some (z, dz) =>
    let v := x * y * dz + z * (dx * dy)
    if v = 0 then fadd f (fmul f a b) c else fromIntRat f v (dx * dy * dz)
  | _, _, _ => fadd f (fmul f a b) c

/-- Exact comparison of two numbers: none when either is a NaN. -/
def fcmp (f : FFmt) (a b : Nat) : Option Ordering :=
  match fdec f a, fdec f b with
  | .nan, _ => none
  | _, .nan => none
  | .inf s, .inf t => some (if s = t then .eq else if s then .lt else .gt)
  | .inf s, _ => some (if s then .lt else .gt)
  | _, .inf t => some (if t then .gt else .lt)
  | .fin s m e, .fin t n k =>
    let (x, dx) := finNum s m e
    let (y, dy) := finNum t n k
    some (compare (x * dy) (y * dx))

def flt (f : FFmt) (a b : Nat) : Bool := fcmp f a b == some .lt

def fle (f : FFmt) (a b : Nat) : Bool := fcmp f a b == some .lt || fcmp f a b == some .eq

def feq (f : FFmt) (a b : Nat) : Bool := fcmp f a b == some .eq

/-- The integer square root. -/
def isqrt (n : Nat) : Nat := Nat.sqrt n

/-- The square root, rounded once: the exact root lies between two candidates, and is compared by squares. -/
def fsqrt (f : FFmt) (a : Nat) : Nat :=
  match fdec f a with
  | .nan => nanBits f
  | .inf s => if s then nanBits f else a
  | .fin s m e =>
    if m = 0 then a
    else if s then nanBits f
    else
      -- value m·2^e with e even, scaled so that the root keeps 2·prec + 2 bits and a sticky bit
      let (m, e) := if e % 2 = 0 then (m, e) else (2 * m, e - 1)
      let k := 2 * f.prec + 4
      let r := isqrt (m * 2 ^ (2 * k))
      let r2 := 2 * r + (if r * r = m * 2 ^ (2 * k) then 0 else 1)
      let e2 := e / 2 - (k : Int) - 1
      if e2 < 0 then fromRat f false r2 (2 ^ (-e2).toNat) else fromRat f false (r2 * 2 ^ e2.toNat) 1

/-- Convert between formats, rounding once. -/
def fconv (f g : FFmt) (a : Nat) : Nat :=
  match fdec f a with
  | .nan => nanBits g
  | .inf s => (if s then signBit g else 0) + infBits g
  | .fin s m e => if e < 0 then fromRat g s m (2 ^ (-e).toNat) else fromRat g s (m * 2 ^ e.toNat) 1

/-! ## binary32 on words -/

def w32 (n : Nat) : Word := BitVec.ofNat 32 n
def f32add (a b : Word) : Word := w32 (fadd fmt32 a.toNat b.toNat)
def f32sub (a b : Word) : Word := w32 (fsub fmt32 a.toNat b.toNat)
def f32mul (a b : Word) : Word := w32 (fmul fmt32 a.toNat b.toNat)
def f32div (a b : Word) : Word := w32 (fdiv fmt32 a.toNat b.toNat)
def f32fma (a b c : Word) : Word := w32 (ffma fmt32 a.toNat b.toNat c.toNat)
def f32sqrt (a : Word) : Word := w32 (fsqrt fmt32 a.toNat)
def f32abs (a : Word) : Word := w32 (fabs fmt32 a.toNat)
def f32neg (a : Word) : Word := w32 (fneg fmt32 a.toNat)
def f32isNan (a : Word) : Bool := isNan fmt32 a.toNat
def f32finite (a : Word) : Bool := isFinite fmt32 a.toNat
def f32lt (a b : Word) : Bool := flt fmt32 a.toNat b.toNat
def f32le (a b : Word) : Bool := fle fmt32 a.toNat b.toNat
def f32eq (a b : Word) : Bool := feq fmt32 a.toNat b.toNat
def f32ofInt (n : Int) : Word := w32 (fromIntRat fmt32 n 1)
def f32ofRat (n : Int) (d : Nat) : Word := w32 (fromIntRat fmt32 n d)

end Sys2Proof.Machine
end

