-- ==== Sys2Proof/Machine/Real.lean ====
section
/-!
DEFINITION. Sys2Proof/Machine/Real.lean: real numbers as integers in units of 2⁻⁴⁰⁰, the elementary functions on them, and the binary32
functions of the spec as real values rounded to binary32. The units are so fine that the rounding to binary32 sees the real value.
-/
namespace Sys2Proof.Machine

/-! ## Fixed point -/

/-- A real number in units of 2⁻⁴⁰⁰. -/
abbrev Fx := Int

/-- 2⁴⁰⁰. -/
def fxUnit : Nat := 2 ^ 400

def fxOf (n : Int) (d : Nat) : Fx := n * fxUnit / (d : Int)

def fxMul (a b : Fx) : Fx := a * b / (fxUnit : Int)

def fxDiv (a b : Fx) : Fx := if b = 0 then 0 else a * (fxUnit : Int) / b

/-- π and ln 2. -/
def fxPi : Fx := 0x3243f6a8885a308d313198a2e03707344a4093822299f31d0082efa98ec4e6c89452821e638d01377be5466cf34e90c6cc0ac
def fxLn2 : Fx := 0xb17217f7d1cf79abc9e3b39803f2f6af40f343267298b62d8a0d175b8baafa2be7b876206debac98559552fb4afa1b10ed2e

/-- The square root of a number that is not negative. -/
def fxSqrt (a : Fx) : Fx := (isqrt (a.toNat * fxUnit) : Nat)

/-- c₀ + x·(c₁ + x·(c₂ + …)) for the rational coefficients (n, d). -/
def fxPoly (x : Fx) (cs : List (Int × Nat)) : Fx := cs.foldr (fun (n, d) acc => fxOf n d + fxMul x acc) 0

/-- eˣ for |x| ≤ 1, by its series in nested form. -/
def fxExpSmall (x : Fx) : Fx :=
  ((List.range 100).reverse).foldl (fun acc k => fxUnit + fxMul x acc / ((k : Int) + 1)) (fxUnit : Int)

/-- eˣ as m · 2ᵏ, m in units of 2⁻⁴⁰⁰. -/
def fxExp (x : Fx) : Fx × Int :=
  let k := x.fdiv fxLn2
  (fxExpSmall (x - k * fxLn2), k)

/-- ln of a positive number in [1, 2). -/
def fxLnSmall (y : Fx) : Fx :=
  let t := fxDiv (y - fxUnit) (y + fxUnit)
  2 * fxMul t (fxPoly (fxMul t t) ((List.range 130).map (fun k => (1, 2 * k + 1))))

/-- ln of the positive number n / d. -/
def fxLn (n d : Nat) : Fx :=
  let e0 : Int := (n.log2 : Int) - (d.log2 : Int)
  let y := fun (e : Int) => if e < 0 then fxOf (n * 2 ^ (-e).toNat : Nat) d else fxOf n (d * 2 ^ e.toNat)
  let e := if y e0 < (fxUnit : Int) then e0 - 1 else e0
  e * fxLn2 + fxLnSmall (y e)

/-- sin and cos of an angle of at most π/4. -/
def fxSinSmall (x : Fx) : Fx :=
  let q := fxMul x x
  fxMul x (((List.range 50).reverse).foldl (fun acc k => fxUnit - fxMul q acc / (((2 * k + 2) * (2 * k + 3) : Nat) : Int)) (fxUnit : Int))

def fxCosSmall (x : Fx) : Fx :=
  let q := fxMul x x
  ((List.range 50).reverse).foldl (fun acc k => fxUnit - fxMul q acc / (((2 * k + 1) * (2 * k + 2) : Nat) : Int)) (fxUnit : Int)

/-- (cos x, sin x). -/
def fxCis (x : Fx) : Fx × Fx :=
  let h := fxPi / 2
  let n := (2 * x + h).fdiv (2 * h)
  let r := x - n * h
  let c := fxCosSmall r
  let v := fxSinSmall r
  match n.emod 4 with
  | 0 => (c, v)
  | 1 => (-v, c)
  | 2 => (-c, -v)
  | _ => (v, -c)

/-- atan of t in [0, 1]. -/
def fxAtan (t : Fx) : Fx :=
  let half := fun (t : Fx) => fxDiv t (fxUnit + fxSqrt (fxMul t t + fxUnit))
  let u := half (half t)
  4 * fxMul u (fxPoly (fxMul u u) ((List.range 100).map (fun k => ((-1) ^ k, 2 * k + 1))))

/-- The argument of x + iy in (−π, π]; that of 0 is 0 (R201). -/
def fxArg (x y : Fx) : Fx :=
  let a : Fx := x.natAbs
  let b : Fx := y.natAbs
  if x = 0 ∧ y = 0 then 0
  else
    let t := if b ≤ a then fxAtan (fxDiv b a) else fxPi / 2 - fxAtan (fxDiv a b)
    let t := if x < 0 then fxPi - t else t
    if y < 0 then -t else t

/-- wrap: the value modulo 2π in (−π, π]. -/
def fxWrap (x : Fx) : Fx := x - 2 * fxPi * (-((fxPi - x).fdiv (2 * fxPi)))

/-! ## Complex numbers -/

abbrev Cx := Fx × Fx

def cxMul (a b : Cx) : Cx := (fxMul a.1 b.1 - fxMul a.2 b.2, fxMul a.1 b.2 + fxMul a.2 b.1)
def cxAdd (a b : Cx) : Cx := (a.1 + b.1, a.2 + b.2)

/-! ## To and from binary32 -/

/-- A finite binary32 value; 0 for the others. -/
def fxOf32 (w : Word) : Fx :=
  match toRat fmt32 w.toNat with
  | some (n, d) => fxOf n d
  | none => 0

/-- The nearest binary32, ties to even. -/
def fxTo32 (x : Fx) : Word := f32ofRat x fxUnit

/-- The nearest binary32 to m · 2ᵏ. -/
def fxTo32E (m : Fx) (k : Int) : Word := if k < 0 then f32ofRat m (fxUnit * 2 ^ (-k).toNat) else f32ofRat (m * 2 ^ k.toNat) fxUnit

/-- A value within 1 ulp of the real `x`, whose nearest one is `w`: which one is free for each function and argument (R201). Zero, infinity
and NaN stand. -/
def within1 (op : Nat) (args : List Word) (w : Word) (x : Fx) : Word :=
  let mag := w.toNat % 2 ^ 31
  let near := fun (c : Word) => decide ((x - fxOf32 c).natAbs ≤ (fxOf32 w - fxOf32 c).natAbs)
  if mag = 0 ∨ 0x7F7FFFFE < mag then w
  else match Config.ulp op args % 3 with
    | 0 => w
    | 1 => if near (w + 1#32) then w + 1#32 else w
    | _ => if near (w - 1#32) then w - 1#32 else w

/-- π in binary32. -/
def piW : Word := 0x40490FDB#32

/-- The angle lies in (−π, π]. -/
def inTurn (w : Word) : Bool := f32lt (f32neg piW) w && f32le w piW

/-- An angle that rounding took out of (−π, π] is the last binary32 within it. -/
def clampTurn (w : Word) : Word := if inTurn w then w else if f32lt piW w then piW else 0xC0490FDA#32

/-- The pattern of the module's quiet NaN. -/
def nan32 : Word := w32 (nanBits fmt32)

/-- arg(x + iy) in (−π, π]; arg(0) is 0 (R201). Of an infinity or a NaN it is free: the spec states no result (assumption 30). -/
def argF (re im : Word) : Word :=
  if f32finite re && f32finite im then
    let x := fxArg (fxOf32 re) (fxOf32 im)
    clampTurn (within1 0 [re, im] (fxTo32 x) x)
  else Config.argOpen re im

/-- |x + iy|. -/
def absF (re im : Word) : Word :=
  if f32isNan re || f32isNan im then nan32
  else if !(f32finite re && f32finite im) then w32 (infBits fmt32)
  else
    let x := fxOf32 re
    let y := fxOf32 im
    let a := fxSqrt (fxMul x x + fxMul y y)
    within1 1 [re, im] (fxTo32 a) a

/-- wrap to (−π, π], rounded to nearest; a number that lies there is unchanged. π as a bound of the range is its binary32 (assumption 13). -/
def wrapF (x : Word) : Word :=
  if !f32finite x then nan32 else if inTurn x then x else clampTurn (fxTo32 (fxWrap (fxOf32 x)))

/-- exp; beyond ±200 its result overflows or vanishes. -/
def expF (x : Word) : Word :=
  if f32isNan x then nan32
  else if f32lt 0x43480000#32 x then w32 (infBits fmt32)
  else if f32lt x 0xC3480000#32 then 0#32
  else
    let (m, k) := fxExp (fxOf32 x)
    within1 3 [x] (fxTo32E m k) (if k < 0 then m / 2 ^ (-k).toNat else m * 2 ^ k.toNat)

/-- log of a number above 0. -/
def logF (x : Word) : Word :=
  match fdec fmt32 x.toNat with
  | .fin false m e => if m = 0 then w32 (signBit fmt32 + infBits fmt32)
    else
      let l := if e < 0 then fxLn m (2 ^ (-e).toNat) else fxLn (m * 2 ^ e.toNat) 1
      within1 4 [x] (fxTo32 l) l
  | .inf false => x
  | _ => nan32

/-- A part of cos x + i sin x. -/
def cisF (op : Nat) (part : Fx × Fx → Fx) (x : Word) : Word :=
  if f32finite x then
    let v := part (fxCis (fxOf32 x))
    within1 op [x] (fxTo32 v) v
  else nan32

def sinF (x : Word) : Word := cisF 5 (·.2) x
def cosF (x : Word) : Word := cisF 6 (·.1) x
def sqrtF (x : Word) : Word := within1 7 [x] (f32sqrt x) (fxSqrt (fxOf32 x))

/-! ## binary64 -/

/-- The nearest binary64 pattern. -/
def fxTo64E (m : Fx) (k : Int) : Nat := if k < 0 then fromIntRat fmt64 m (fxUnit * 2 ^ (-k).toNat) else fromIntRat fmt64 (m * 2 ^ k.toNat) fxUnit

def fxTo64 (x : Fx) : Nat := fromIntRat fmt64 x fxUnit

/-- The value of a finite binary64 pattern. -/
def fxOf64 (b : Nat) : Fx :=
  match toRat fmt64 b with
  | some (n, d) => fxOf n d
  | none => 0

end Sys2Proof.Machine
end

