-- ==== Sys2Proof/Machine/C37Config.lean ====
section
/-!
DEFINITION. Sys2Proof/Machine/C37Config.lean: what the bytes of a C37.118.2 configuration frame declare (R127). The spec names the fields
and not their places; the layouts of CFG-1, CFG-2 and CFG-3 are those of C37.118.2-2011. PRESUMED (assumption 35).
-/
namespace Sys2Proof.Machine

/-- What a configuration frame declares for one PMU block. Scales are binary32 patterns. -/
structure CfgPmu where
  format : Nat
  phnmr : Nat
  annmr : Nat
  dgnmr : Nat
  fnom : Nat
  phScale : List (BitVec 32)
  /-- CFG-3 angle adjustments; none for CFG-1 and CFG-2. -/
  phAngle : Option (List (BitVec 32))
  /-- Scale and offset; CFG-1 and CFG-2 carry no offset. -/
  anScale : List (BitVec 32 × BitVec 32)
  cfgCnt : Nat
  deriving DecidableEq, Repr

/-- What a configuration frame declares: NUM_PMU, its blocks (the first 64, the most that a bundle holds), DATA_RATE and TIME_BASE. -/
structure CfgFrame where
  numPmu : Nat
  pmus : List CfgPmu
  dataRate : Int
  timeBase : Nat
  deriving DecidableEq, Repr

/-- FNOM: bit 0 is 1 for 50 Hz. -/
def cfgFnom (w : Nat) : Nat := if w % 2 = 1 then 50 else 60

/-- A 24-bit unit in units of 10⁻⁵, as binary32. -/
def cfgUnit (v : Int) : Word := f32ofRat v 100000

/-- The block at byte `o` of a CFG-1 or CFG-2 frame, and where the next begins. -/
def cfg2Pmu (bs : List Byte) (o : Nat) : CfgPmu × Nat :=
  let np := beAt bs (o + 20) 2
  let na := beAt bs (o + 22) 2
  let nd := beAt bs (o + 24) 2
  let p := o + 26 + 16 * (np + na + 16 * nd)
  let a := p + 4 * np
  let e := a + 4 * na + 4 * nd
  ({ format := beAt bs (o + 18) 2 % 16, phnmr := np, annmr := na, dgnmr := nd, fnom := cfgFnom (beAt bs e 2)
     phScale := (List.range np).map (fun k => cfgUnit (beAt bs (p + 4 * k + 1) 3 : Nat))
     phAngle := none
     anScale := (List.range na).map (fun k => (cfgUnit (sint 24 (beAt bs (a + 4 * k + 1) 3)), 0#32))
     cfgCnt := beAt bs (e + 2) 2 }, e + 4)

/-- The place behind `k` names of CFG-3, each a length byte and its characters. -/
def skipNames (bs : List Byte) : Nat → Nat → Nat
  | 0, o => o
  | k + 1, o => skipNames bs k (o + 1 + beAt bs o 1)

/-- The block at byte `o` of a CFG-3 frame, and where the next begins. -/
def cfg3Pmu (bs : List Byte) (o : Nat) : CfgPmu × Nat :=
  let h := skipNames bs 1 o
  let np := beAt bs (h + 20) 2
  let na := beAt bs (h + 22) 2
  let nd := beAt bs (h + 24) 2
  let p := skipNames bs (min (np + na + 16 * nd) bs.length) (h + 26)
  let a := p + 12 * np
  let e := a + 8 * na + 4 * nd + 21
  ({ format := beAt bs (h + 18) 2 % 16, phnmr := np, annmr := na, dgnmr := nd, fnom := cfgFnom (beAt bs e 2)
     phScale := (List.range np).map (fun k => w32 (beAt bs (p + 12 * k + 4) 4))
     phAngle := some ((List.range np).map (fun k => w32 (beAt bs (p + 12 * k + 8) 4)))
     anScale := (List.range na).map (fun k => (w32 (beAt bs (a + 8 * k) 4), w32 (beAt bs (a + 8 * k + 4) 4)))
     cfgCnt := beAt bs (e + 2) 2 }, e + 4)

/-- `k` blocks from byte `o`, and where they end. -/
def cfgPmus (three : Bool) (bs : List Byte) : Nat → Nat → List CfgPmu × Nat
  | 0, o => ([], o)
  | k + 1, o =>
    let (p, o1) := if three then cfg3Pmu bs o else cfg2Pmu bs o
    let (l, e) := cfgPmus three bs k o1
    (p :: l, e)

/-- A configuration frame of SYNC type `t`: 2 CFG-1, 3 CFG-2, 5 CFG-3. A byte beyond the frame reads as 0. -/
def cfgParse (t : Nat) (bs : List Byte) : CfgFrame :=
  let h := if t = 5 then 16 else 14
  let k := beAt bs (h + 4) 2
  let (ps, e) := cfgPmus (t == 5) bs (min k 64) (h + 6)
  { numPmu := k, pmus := ps, dataRate := sint 16 (beAt bs e 2), timeBase := beAt bs (h + 1) 3 }

end Sys2Proof.Machine
end

