-- ==== Sys2Proof/Machine/Crypto.lean ====
section
/-!
DEFINITION. Sys2Proof/Machine/Crypto.lean: the functions of the standards that the specification names: SHA3-256 (FIPS 202, R370), KMAC256
(SP 800-185, R313, R461), HMAC-SHA-256 (R136), AES-256-GCM (R467) and ML-DSA-44 (FIPS 204, R370). PRESUMED: they follow the standards, which
the specification cites and does not print (assumption 9). What a standard defines for one size of input answers nothing for another.
-/
namespace Sys2Proof.Machine

/-! ## Keccak (FIPS 202) -/

/-- A lane of the 1,600-bit state; the state lists lane (x, y) at x + 5y. -/
abbrev Lane := BitVec 64

/-- Lane (x, y), both modulo 5. -/
def laneAt (a : List Lane) (x y : Nat) : Lane := a.getD (x % 5 + 5 * (y % 5)) 0#64

/-- x^t modulo x⁸ + x⁶ + x⁵ + x⁴ + 1. -/
def lfsrState : Nat → Nat
  | 0 => 1
  | t + 1 => let r := 2 * lfsrState t
             if 256 ≤ r then r ^^^ 0x171 else r

/-- The constant of round `i`: its bit 2^j − 1 is the low coefficient of x^(j + 7i). -/
def roundConst (i : Nat) : Lane :=
  BitVec.ofNat 64 (sumN ((List.range 7).map (fun j => (lfsrState (j + 7 * i) % 2) * 2 ^ (2 ^ j - 1))))

def roundConsts : List Lane := (List.range 24).map roundConst

/-- The lanes that ρ rotates, from (x, y) on: the t-th by (t + 1)(t + 2) / 2. -/
def rhoWalk : Nat → Nat → Nat → Nat → List (Nat × Nat)
  | 0, _, _, _ => []
  | n + 1, t, x, y => (x + 5 * y, (t + 1) * (t + 2) / 2 % 64) :: rhoWalk n (t + 1) y ((2 * x + 3 * y) % 5)

/-- The rotation of each lane. -/
def rhoOffsets : List Nat := (rhoWalk 24 0 1 0).foldl (fun l e => l.set e.1 e.2) (List.replicate 25 0)

/-- One round: θ, ρ, π, χ and ι. -/
def keccakRound (a : List Lane) (rc : Lane) : List Lane :=
  if a.length = 25 then
    let cols := (List.range 5).map (fun x => (List.range 5).foldl (fun c y => c ^^^ laneAt a x y) 0#64)
    let mix := (List.range 5).map (fun x => laneAt cols (x + 4) 0 ^^^ (laneAt cols (x + 1) 0).rotateLeft 1)
    let b := (List.range 25).map (fun i => (a.getD i 0#64 ^^^ laneAt mix i 0).rotateLeft (rhoOffsets.getD i 0))
    let p := fun (x y : Nat) => laneAt b (x + 3 * y) x
    ((List.range 25).map (fun i => p (i % 5) (i / 5) ^^^ (~~~ p (i % 5 + 1) (i / 5) &&& p (i % 5 + 2) (i / 5)))).modify 0 (· ^^^ rc)
  else []

/-- Keccak-f[1600]. -/
def keccakF (a : List Lane) : List Lane := roundConsts.foldl keccakRound a

/-- The lanes of a block. -/
def lanesOf (b : List Byte) : List Lane := (List.range 25).map (fun i => BitVec.ofNat 64 (leAt b (8 * i) 8))

/-- `n` blocks of `r` bytes. -/
def chunks (r : Nat) : Nat → List Byte → List (List Byte)
  | 0, _ => []
  | n + 1, b => b.take r :: chunks r n (b.drop r)

/-- `n` blocks of output. -/
def squeeze (r : Nat) : Nat → List Lane → List Byte
  | 0, _ => []
  | 1, a => (a.flatMap (fun l => leBytes 8 l.toNat)).take r
  | n + 2, a => (a.flatMap (fun l => leBytes 8 l.toNat)).take r ++ squeeze r (n + 1) (keccakF a)

/-- The sponge of rate `r` bytes with domain byte `d`: `n` bytes of output. -/
def sponge (r d : Nat) (m : List Byte) (n : Nat) : List Byte :=
  let k := m.length / r + 1
  let padded := (padTo (k * r) (m ++ [BitVec.ofNat 8 d])).modify (k * r - 1) (· ||| 0x80#8)
  (squeeze r (ceilDiv n r) ((chunks r k padded).foldl (fun a b => keccakF (a.zipWith (· ^^^ ·) (lanesOf b))) (List.replicate 25 0#64))).take n

def sha3_256 (m : List Byte) : List Byte := sponge 136 0x06 m 32
def shake128 (m : List Byte) (n : Nat) : List Byte := sponge 168 0x1F m n
def shake256 (m : List Byte) (n : Nat) : List Byte := sponge 136 0x1F m n

/-! ## KMAC256 (SP 800-185) -/

/-- The bytes of `x` without leading zeros, at least one. -/
def shortBytes (x : Nat) : List Byte := beBytes (max 1 (ceilDiv (x.log2 + 1) 8)) x

/-- left_encode and right_encode. -/
def leftEnc (x : Nat) : List Byte := BitVec.ofNat 8 (shortBytes x).length :: shortBytes x
def rightEnc (x : Nat) : List Byte := shortBytes x ++ [BitVec.ofNat 8 (shortBytes x).length]

/-- encode_string. -/
def encString (b : List Byte) : List Byte := leftEnc (8 * b.length) ++ b

/-- bytepad to 136 bytes. -/
def bytePad (b : List Byte) : List Byte :=
  let x := leftEnc 136 ++ b
  padTo (ceilDiv x.length 136 * 136) x

/-- KMAC256 of `x` under `key` with customisation string `cust`: 256 bits. -/
def kmac256 (key x cust : List Byte) : List Byte :=
  sponge 136 0x04 (bytePad (encString (ascii "KMAC") ++ encString cust) ++ (bytePad (encString key) ++ x ++ rightEnc 256)) 32

/-! ## SHA-256 (FIPS 180-4) and HMAC (FIPS 198-1) -/

def firstPrimes : List Nat := (List.range 312).filter (fun n => decide (2 ≤ n) && (List.range n).all (fun d => decide (d < 2) || n % d != 0))

/-- The largest `r`, its `b` low bits chosen, whose `k`-th power does not exceed `n`. -/
def rootBits (k n : Nat) : Nat → Nat → Nat
  | 0, r => r
  | b + 1, r => rootBits k n b (if (r + 2 ^ b) ^ k ≤ n then r + 2 ^ b else r)

/-- 32 bits of the fraction of the `k`-th root of `p`. -/
def rootFrac (k p : Nat) : Word := BitVec.ofNat 32 (rootBits k (p * 2 ^ (32 * k)) 40 0)

def sha256Init : List Word := (firstPrimes.take 8).map (rootFrac 2)
def sha256Consts : List Word := firstPrimes.map (rootFrac 3)

/-- The message schedule, `n` words after `w`. -/
def sha256Sched : Nat → List Word → List Word
  | 0, w => w
  | n + 1, w =>
    let at' := fun (k : Nat) => w.getD (w.length - k) 0#32
    let x := at' 15
    let y := at' 2
    sha256Sched n (w ++ [at' 16 + (x.rotateRight 7 ^^^ x.rotateRight 18 ^^^ (x >>> 3)) + at' 7 +
      (y.rotateRight 17 ^^^ y.rotateRight 19 ^^^ (y >>> 10))])

/-- One round with the sum of its constant and its schedule word. -/
def sha256Round (v : List Word) (kw : Word) : List Word :=
  match v with
  | [a, b, c, d, e, f, g, h] =>
    let t := h + (e.rotateRight 6 ^^^ e.rotateRight 11 ^^^ e.rotateRight 25) + ((e &&& f) ^^^ (~~~e &&& g)) + kw
    let u := (a.rotateRight 2 ^^^ a.rotateRight 13 ^^^ a.rotateRight 22) + ((a &&& b) ^^^ (a &&& c) ^^^ (b &&& c))
    [t + u, a, b, c, d + t, e, f, g]
  | _ => []

/-- One block of 64 bytes. -/
def sha256Block (h : List Word) (b : List Byte) : List Word :=
  let w := sha256Sched 48 ((List.range 16).map (fun i => BitVec.ofNat 32 (beAt b (4 * i) 4)))
  h.zipWith (· + ·) ((sha256Consts.zipWith (· + ·) w).foldl sha256Round h)

def sha256 (m : List Byte) : List Byte :=
  let k := (m.length + 8) / 64 + 1
  let padded := padTo (64 * k - 8) (m ++ [0x80#8]) ++ beBytes 8 (8 * m.length)
  ((chunks 64 k padded).foldl sha256Block sha256Init).flatMap (fun w => beBytes 4 w.toNat)

def hmacSha256 (key m : List Byte) : List Byte :=
  let k := padTo 64 (if 64 < key.length then sha256 key else key)
  sha256 (k.map (· ^^^ 0x5C#8) ++ sha256 (k.map (· ^^^ 0x36#8) ++ m))

/-! ## AES-256 (FIPS 197) in GCM (SP 800-38D) -/

/-- x · a in GF(2⁸). -/
def gfDouble (a : Byte) : Byte := if a.getLsbD 7 then (a <<< 1) ^^^ 0x1B#8 else a <<< 1

/-- a · b in GF(2⁸), over the `n` low bits of b. -/
def gfMul : Nat → Byte → Byte → Byte
  | 0, _, _ => 0#8
  | n + 1, a, b => (if b.getLsbD 0 then a else 0#8) ^^^ gfMul n (gfDouble a) (b >>> 1)

/-- The S-box: the inverse, 0 for 0, and the affine map. -/
def sbox (a : Byte) : Byte :=
  let i := ((List.range 256).find? (fun b => gfMul 8 a (BitVec.ofNat 8 b) == 1#8)).getD 0
  let v : Byte := BitVec.ofNat 8 i
  v ^^^ v.rotateLeft 1 ^^^ v.rotateLeft 2 ^^^ v.rotateLeft 3 ^^^ v.rotateLeft 4 ^^^ 0x63#8

def sboxTable : List Byte := (List.range 256).map (fun a => sbox (BitVec.ofNat 8 a))
def subByte (a : Byte) : Byte := sboxTable.getD a.toNat 0#8

/-- `n` words of the key schedule after `w`, the round constant being `rc`. -/
def aesSchedule : Nat → Byte → List (List Byte) → List (List Byte)
  | 0, _, w => w
  | n + 1, rc, w =>
    let t := w.getD (w.length - 1) []
    let t := if w.length % 8 = 0 then ((t.drop 1 ++ t.take 1).map subByte).modify 0 (· ^^^ rc)
      else if w.length % 8 = 4 then t.map subByte else t
    aesSchedule n (if w.length % 8 = 0 then gfDouble rc else rc) (w ++ [(w.getD (w.length - 8) []).zipWith (· ^^^ ·) t])

/-- SubBytes and ShiftRows. -/
def aesShift (s : List Byte) : List Byte := (List.range 16).map (fun i => subByte (s.getD ((i + 4 * (i % 4)) % 16) 0#8))

/-- MixColumns. -/
def aesMix (s : List Byte) : List Byte :=
  (List.range 16).map (fun i =>
    let c := fun (k : Nat) => s.getD (i / 4 * 4 + (i + k) % 4) 0#8
    gfDouble (c 0) ^^^ gfDouble (c 1) ^^^ c 1 ^^^ c 2 ^^^ c 3)

/-- The cipher on one block. -/
def aes256 (key blk : List Byte) : List Byte :=
  if key.length = 32 then
    let ks := chunks 16 15 (aesSchedule 52 1#8 (chunks 4 8 key)).flatten
    let add := fun (s : List Byte) (r : Nat) => s.zipWith (· ^^^ ·) (ks.getD r [])
    add (aesShift ((upFrom 1 13).foldl (fun s r => add (aesMix (aesShift s)) r) (add blk 0))) 14
  else []

/-- The product in GF(2¹²⁸), over the `n` high bits of `x`. -/
def ghashMul : Nat → BitVec 128 → BitVec 128 → BitVec 128
  | 0, _, _ => 0#128
  | n + 1, x, v => (if x.getLsbD 127 then v else 0#128) ^^^
      ghashMul n (x <<< 1) (if v.getLsbD 0 then (v >>> 1) ^^^ (0xE1#128 <<< 120) else v >>> 1)

/-- The bytes, padded with zeros to whole blocks. -/
def padBlocks (b : List Byte) : List Byte := padTo (16 * ceilDiv b.length 16) b

/-- The GCM tag of `ct` and `aad` for an initialisation vector of 12 bytes. -/
def gcmTag (key iv aad ct : List Byte) : List Byte :=
  let h := BitVec.ofNat 128 (beNat (aes256 key (zeros 16)))
  let b := padBlocks aad ++ padBlocks ct ++ beBytes 8 (8 * aad.length) ++ beBytes 8 (8 * ct.length)
  let y := (chunks 16 (b.length / 16) b).foldl (fun y x => ghashMul 128 (y ^^^ BitVec.ofNat 128 (beNat x)) h) 0#128
  (beBytes 16 y.toNat).zipWith (· ^^^ ·) (aes256 key (iv ++ beBytes 4 1))

/-- The counter mode of GCM on `n` blocks. -/
def gcmCtr (key iv : List Byte) : Nat → Nat → List Byte → List Byte
  | 0, _, _ => []
  | n + 1, c, b => (b.take 16).zipWith (· ^^^ ·) (aes256 key (iv ++ beBytes 4 c)) ++ gcmCtr key iv n (c + 1) (b.drop 16)

/-- AES-256-GCM decryption; none where the tag does not fit. -/
def aesGcmOpen (key iv ct tag aad : List Byte) : Option (List Byte) :=
  if gcmTag key iv aad ct == tag then some (gcmCtr key iv (ceilDiv ct.length 16) 2 ct) else none

/-! ## ML-DSA-44 (FIPS 204) -/

/-- A polynomial of degree below 256: its coefficients modulo q, the constant one first; or its values (ntt). -/
abbrev Poly := List Nat

def dsaQ : Nat := 8380417

def bitRev8 (n : Nat) : Nat := sumN ((List.range 8).map (fun i => if n.testBit i then 2 ^ (7 - i) else 0))

/-- The odd powers of the 512th root of unity 1,753 at which NTT evaluates, and their inverses. -/
def zetas : List Nat := (List.range 256).map (fun i => 1753 ^ (2 * bitRev8 i + 1) % dsaQ)
def zetaInvs : List Nat := (List.range 256).map (fun i => 1753 ^ (512 - (2 * bitRev8 i + 1)) % dsaQ)

/-- NTT: the values of a polynomial at `zetas`. -/
def ntt (w : Poly) : Poly := zetas.map (fun z => w.foldr (fun c a => (c + z * a) % dsaQ) 0)

/-- Coefficients from the terms ŵ_i ζ_i^(−j); 256 · (q − 32,736) is 1 modulo q. -/
def nttTerms : Nat → List Nat → Poly
  | 0, _ => []
  | n + 1, t => sumN t * (dsaQ - 32736) % dsaQ :: nttTerms n (t.zipWith (fun a z => a * z % dsaQ) zetaInvs)

/-- The inverse of NTT. -/
def invNtt (w : Poly) : Poly := nttTerms 256 w

def polyAdd (a b : Poly) : Poly := a.zipWith (fun x y => (x + y) % dsaQ) b
def polySub (a b : Poly) : Poly := a.zipWith (fun x y => (x + (dsaQ - y)) % dsaQ) b
def polyMul (a b : Poly) : Poly := a.zipWith (fun x y => x * y % dsaQ) b

/-- The product of a row and a vector, as values. -/
def rowMul (r v : List Poly) : Poly := (r.zipWith polyMul v).foldl polyAdd (List.replicate 256 0)

/-- An integer modulo q; a residue in (−q/2, q/2]. -/
def toQ (v : Int) : Nat := (v % (dsaQ : Int)).toNat
def centred (c : Nat) : Int := if dsaQ < 2 * c then (c : Int) - dsaQ else c

/-- The largest absolute value of a coefficient. -/
def normInf (v : List Poly) : Nat := (v.flatten.map (fun c => (centred c).natAbs)).foldl max 0

/-- `c` bits of each number, packed least significant first; and taken apart. -/
def packBits (c : Nat) (l : List Nat) : List Byte := leBytes (c * l.length / 8) (l.foldr (fun x a => x + 2 ^ c * a) 0)
def unpackBits (c : Nat) (b : List Byte) : List Nat :=
  let v := leNat b
  (List.range 256).map (fun i => v >>> (c * i) % 2 ^ c)

/-- A polynomial of values drawn from SHAKE128 by rejection. -/
def rejNtt (seed : List Byte) : Poly :=
  ((chunks 3 298 (shake128 seed 894)).filterMap (fun b => let z := leNat b % 2 ^ 23
                                                          if z < dsaQ then some z else none)).take 256

/-- A polynomial with coefficients from −2 to 2, drawn from SHAKE256 by rejection. -/
def rejBounded (seed : List Byte) : Poly :=
  (((shake256 seed 481).flatMap (fun b => [b.toNat % 16, b.toNat / 16])).filterMap
    (fun z => if z < 15 then some (toQ (2 - (z % 5 : Nat))) else none)).take 256

/-- The matrix Â. -/
def expandA (rho : List Byte) : List (List Poly) :=
  (List.range 4).map (fun r => (List.range 4).map (fun s => rejNtt (rho ++ leBytes 1 s ++ leBytes 1 r)))

/-- A key pair, as the seed expands to it. -/
structure DsaKey where
  rho : List Byte
  key : List Byte
  mat : List (List Poly)
  s1 : List Poly
  s2 : List Poly
  t : List Poly
  deriving DecidableEq, Repr

def dsaKey (seed : List Byte) : DsaKey :=
  let h := shake256 (seed ++ leBytes 1 4 ++ leBytes 1 4) 128
  let mat := expandA (h.take 32)
  let small := fun (r : Nat) => rejBounded (slice h 32 64 ++ leBytes 2 r)
  let s1 := (List.range 4).map small
  let s2 := (upFrom 4 4).map small
  let v := s1.map ntt
  { rho := h.take 32, key := h.drop 96, mat := mat, s1 := s1, s2 := s2
    t := (mat.map (fun r => invNtt (rowMul r v))).zipWith polyAdd s2 }

/-- The high part of a coefficient of t (Power2Round), and the low part modulo q. -/
def highT (c : Nat) : Nat := (c + 4095) / 8192
def lowT (c : Nat) : Nat := toQ ((c : Int) - 8192 * highT c)

/-- The encoded public key. -/
def dsaPk (k : DsaKey) : List Byte := k.rho ++ (k.t.map (fun p => packBits 10 (p.map highT))).flatten

/-- The public key of the pair that a seed of 32 bytes generates. -/
def mldsaPub (seed : List Byte) : List Byte := if seed.length = 32 then dsaPk (dsaKey seed) else []

/-- Decompose with γ2 = 95,232: the high and the low part. -/
def decompose (c : Nat) : Nat × Int :=
  let m : Int := (c % 190464 : Nat)
  let low := if 95232 < m then m - 190464 else m
  if (c : Int) - low = dsaQ - 1 then (0, low - 1) else (((c : Int) - low).toNat / 190464, low)

def highBits (c : Nat) : Nat := (decompose c).1

/-- UseHint. -/
def useHint (h : Bool) (c : Nat) : Nat :=
  let (a, low) := decompose c
  if !h then a else if 0 < low then (a + 1) % 44 else (a + 43) % 44

/-- Fisher and Yates' shuffle of SampleInBall: the place, the bytes left, the signs left. -/
def ballSteps : Nat → Nat → List Byte → Nat → Poly → Poly
  | 0, _, _, _, c => c
  | n + 1, i, bs, signs, c => match bs.dropWhile (fun b => decide (i < b.toNat)) with
    | [] => c
    | b :: rest => ballSteps n (i + 1) rest (signs / 2) ((c.set i (c.getD b.toNat 0)).set b.toNat (if signs % 2 = 1 then dsaQ - 1 else 1))

/-- SampleInBall: 39 coefficients are 1 or −1. -/
def sampleInBall (seed : List Byte) : Poly :=
  let bs := shake256 seed 408
  ballSteps 39 217 (bs.drop 8) (leAt bs 0 8) (List.replicate 256 0)

/-- The message representative of `msg` with context `ctx` under the public key `pk`. -/
def dsaMu (pk ctx msg : List Byte) : List Byte :=
  shake256 (shake256 pk 64 ++ leBytes 1 0 ++ leBytes 1 ctx.length ++ ctx ++ msg) 64

/-- The commitment hash of the high parts `w`. -/
def dsaCommit (mu : List Byte) (w : List Poly) : List Byte := shake256 (mu ++ (w.map (packBits 6)).flatten) 32

/-- HintBitPack: the places, and how many there are up to each polynomial. -/
def hintPack (hs : List (List Nat)) : List Byte :=
  padTo 80 (hs.flatten.map (BitVec.ofNat 8)) ++ (List.range 4).map (fun i => BitVec.ofNat 8 ((hs.take (i + 1)).flatten.length))

/-- HintBitUnpack: the places of each polynomial, where the encoding is the one that HintBitPack gives. -/
def hintUnpack (b : List Byte) : Option (List (List Nat)) :=
  let ys := b.map (·.toNat)
  let ends := ys.drop 80
  let hs := (List.range 4).map (fun i => (ys.take (ends.getD i 0)).drop ((0 :: ends).getD i 0))
  let rises := fun (l : List Nat) => (l.zip (l.drop 1)).all (fun e => decide (e.1 < e.2))
  if ends.length == 4 && ((0 :: ends).zip ends).all (fun e => decide (e.1 ≤ e.2)) && ends.all (fun e => decide (e ≤ 80)) && hs.all rises &&
      (((ys.take 80).drop (ends.getD 3 0)).all (· == 0)) then some hs else none

/-- The signing loop (Algorithm 7): attempts from counter `kappa` on. -/
def signLoop (k : DsaKey) (mu rho2 : List Byte) : Nat → Nat → List Byte
  | 0, _ => []
  | n + 1, kappa =>
    let y := (List.range 4).map (fun r =>
      (unpackBits 18 (shake256 (rho2 ++ leBytes 2 (kappa + r)) 576)).map (fun v => toQ (131072 - (v : Int))))
    let yv := y.map ntt
    let w := k.mat.map (fun r => invNtt (rowMul r yv))
    let cs := dsaCommit mu (w.map (·.map highBits))
    let c := ntt (sampleInBall cs)
    let times := fun (p : Poly) => invNtt (polyMul c (ntt p))
    let z := y.zipWith polyAdd (k.s1.map times)
    let r := w.zipWith polySub (k.s2.map times)
    let low := r.map (·.map (fun x => toQ (decompose x).2))
    let ct0 := k.t.map (fun p => times (p.map lowT))
    let hs := r.zipWith (fun a b => (List.range 256).filter (fun i =>
      highBits (a.getD i 0) != highBits ((a.getD i 0 + b.getD i 0) % dsaQ))) ct0
    if 130994 ≤ normInf z ∨ 95154 ≤ normInf low ∨ 95232 ≤ normInf ct0 ∨ 80 < hs.flatten.length then signLoop k mu rho2 n (kappa + 4)
    else cs ++ (z.map (fun p => packBits 18 (p.map (fun x => (131072 - centred x).toNat)))).flatten ++ hintPack hs

/-- The signature of `msg` with context `ctx`, with the randomness `rnd`, under the key pair of a seed of 32 bytes. -/
def mldsaSign (seed ctx msg rnd : List Byte) : List Byte :=
  if seed.length = 32 then
    let k := dsaKey seed
    let mu := dsaMu (dsaPk k) ctx msg
    signLoop k mu (shake256 (k.key ++ rnd ++ mu) 64) 814 0
  else []

/-- The signature `sig` of `msg` with context `ctx` verifies under the public key `pk`. -/
def mldsaVerify (pk ctx msg sig : List Byte) : Bool :=
  if pk.length = 1312 ∧ sig.length = 2420 ∧ ctx.length < 256 then
    match hintUnpack (sig.drop 2336) with
    | none => false
    | some hs =>
      let mat := expandA (pk.take 32)
      let z := (chunks 576 4 (sig.drop 32)).map (fun b => (unpackBits 18 b).map (fun v => toQ (131072 - (v : Int))))
      let t := (chunks 320 4 (pk.drop 32)).map (fun b => (unpackBits 10 b).map (· * 8192))
      let mu := dsaMu pk ctx msg
      let c := ntt (sampleInBall (sig.take 32))
      let zv := z.map ntt
      let w := (mat.zip (t.zip hs)).map (fun (r, p, h) =>
        (List.range 256).zipWith (fun i x => useHint (h.contains i) x) (invNtt (polySub (rowMul r zv) (polyMul c (ntt p)))))
      decide (normInf z < 130994) && dsaCommit mu w == sig.take 32
  else false

end Sys2Proof.Machine
end

