-- ==== Sys2Proof/Machine/State.lean ====
section
/-!
DEFINITION. Sys2Proof/Machine/State.lean: everything the specification gives the PZ7, as plain data, and the state after reset.
-/
namespace Sys2Proof.Machine

/-! ## Messages that the module sends -/

/-- A PTP message to send (R62, R75, R76). Inserted at departure: `origin`, the departure instant of a Sync in ns (requestReceiptTimestamp of a
Pdelay_Resp stays 0), `corr`, the correctionField in units of 2⁻¹⁶ ns, and `tail`, the two bytes that an event message over UDP ends in.
`reqRx` is the receive timestamp of the request that a Pdelay_Resp answers, ns. -/
structure PtpTx where
  kind : PtpKind
  origin : Nat := 0
  corr : Nat := 0
  tail : Option Nat := none
  reqRx : Nat := 0
  gmData : GmData := {}
  clockClass : Nat := 0
  steps : Nat := 0
  gmId : Nat := 0
  ofs : Option Int := none
  leap61 : Bool := false
  leap59 : Bool := false
  timeInacc : Option Nat := none
  netInacc : Option Nat := none
  deriving DecidableEq, Repr

/-- A GOOSE or R-GOOSE message to send (R334). -/
structure GooseTx where
  gp : Nat
  stNum : Word
  sqNum : Word
  tal : Nat
  confRev : Nat
  test : Bool
  /-- The members' types (0 BOOLEAN, 1 INT32, 2 FLOAT32) and values; the claim follows them, so numDatSetEntries is one more. -/
  kinds : List Nat := []
  vals : List Word
  claim : Word
  entries : Nat := 0
  ndsCom : Bool := false
  simulation : Bool := false
  appid : Nat := 0
  /-- gocbRef, datSet and goID. -/
  names : List (List Byte) := []
  dst : Nat := 0
  vlan : Nat := 0
  vpri : Nat := 0
  /-- The UDP port of R-GOOSE; none for GOOSE. -/
  udp : Option Nat := none
  keyId : Word := 0#32
  spdu : Word := 0#32
  sig : List Byte := []
  deriving DecidableEq, Repr

/-! ## The timebase (chapter 2) -/

/-- TB_STAT.STATE. -/
inductive TimeState where
  | notime
  | locked
  | holdover
  deriving DecidableEq, Repr

/-- What the module knows of PTP on the time-receiver port or the hot-standby port (Table 2-1, R61). Times are module
time in ns. -/
structure PtpPort where
  portState : Nat := 0
  lastSync : Option Nat := none
  lastAnn : Option Nat := none
  annInterval : Nat := 0
  gmId : Nat := 0
  gmClass : Nat := 0
  steps : Nat := 0
  gmData : GmData := {}
  /-- timeInaccuracy and networkTimeInaccuracy in ns, from the C37.238-2017 TLV. -/
  timeInacc : Option Nat := none
  netInacc : Option Nat := none
  /-- currentUtcOffset while currentUtcOffsetValid is set. -/
  ofs : Option Int := none
  leap61 : Bool := false
  leap59 : Bool := false
  meanLink : Nat := 0
  deriving DecidableEq, Repr

/-- One second of the PPS with IRIG-B source: the PPS_IN edge in ns, whether its spacing was good, and what the IRIG-B
frame that labels it showed. -/
structure PpsSec where
  edge : Nat
  spaced : Bool
  /-- The IRIG-B frame passed parity, and its on-time marker lay within ±5 µs. -/
  irigOk : Bool := false
  agree : Bool := false
  /-- UTC second of the label, time quality nibble. -/
  label : Option Int := none
  tq : Nat := 0xF
  deriving DecidableEq, Repr

/-- The timebase. -/
structure Tb where
  /-- The 64-bit tick counter (R50), and whether it has started (R28). -/
  tick : Nat := 0
  started : Bool := false
  /-- Grid tick index of the latest boundary: TAI second × 1,024 × f0 + 1,024 c + t. -/
  grid : Nat := 0
  /-- The latest instant the module has seen, in TAI ns. -/
  now : Nat := 0
  /-- The exact instant of the latest tick boundary: whole ns, and the rest in units of 1/(1,024 × f0) ns (R4, R48). -/
  edge : Nat := 0
  rest : Nat := 0
  src : Nat := 0
  /-- TB_STAT.REF: 0 TCXO, 1 EXT10M_IN. -/
  ref : Nat := 0
  state : TimeState := .notime
  stbyUsed : Bool := false
  /-- The offset in force and TB_UTC_OFS.APPLIED; OFS and VALID are VBAT SRAM. -/
  ofs : Int := 0
  applied : Bool := false
  /-- TB_LEAP. -/
  leapPending : Bool := false
  leapDir : Bool := false
  leapMjd : Nat := 0
  /-- The first UTC second after an applied leap second; OCCURRED holds for 86,400 s from it. -/
  leapAt : Option Int := none
  /-- TB_TERR in ns, none = unknown. -/
  terr : Option Nat := none
  /-- TB_TQ as last shown, and its values by the instant (ns) from which each stood, newest first. -/
  tq : Word := 0x1FF#32
  tqLog : List (Nat × Word) := []
  rate : Int := 0
  offset : Int := 0
  /-- Rates of the last 64 s in use, newest first (R71), and seconds in a row at the slew limit (Table 2-6). -/
  rates : List Int := []
  limited : Nat := 0
  holdAge : Nat := 0
  holdRate : Int := 0
  terr0 : Nat := 0
  /-- The last source in use before the holdover (R67). -/
  holdFrom : Nat := 0
  /-- PTP: time-receiver port, hot-standby port, grandmaster in use. -/
  rxp : PtpPort := {}
  stby : PtpPort := {}
  gm : Nat := 0
  /-- The last PPS seconds, newest first; IRIG-B decoding. -/
  pps : List PpsSec := []
  irigPresent : Bool := false
  /-- Arrival (ns) of the latest frame that passed parity. -/
  irigAt : Nat := 0
  /-- The on-time marker of the latest frame lay within ±5 µs of a PPS_IN edge (TB_IRIG_STAT.AGREE). -/
  irigAgree : Bool := false
  irigTq : Nat := 0xF
  /-- Offset and leap announcement (0 none, 1 insertion, 2 deletion) of the IRIG-B extensions; label failures in a row; the
  source is qualified. -/
  irigOfs : Option Int := none
  irigLeap : Nat := 0
  irigFails : Nat := 0
  irigQual : Bool := false
  /-- Stream-derived time: frames of eligible streams in the present cyc (stream, o, leap bits), cycles in a row that each
  stream has contributed, ELIGIBLE, and the latest median. -/
  sdtCyc : FMap (Int × Nat) := []
  sdtRun : FMap Nat := []
  sdtElig : Nat := 0
  sdtOfs : Int := 0
  sdtLeap : Nat := 0
  /-- Since when (ns) each source code 1, 2, 3 has stayed qualified. -/
  qual : FMap Nat := []
  /-- The source in use counts as lost at the next boundary (grandmaster change, R59). -/
  lost : Bool := false
  /-- The grandmaster has changed and has not completed QUAL_S since (R59). -/
  gmNew : Bool := false
  /-- PPS_OUT level, and ticks until it falls. -/
  ppsOut : Bool := false
  ppsLeft : Nat := 0
  /-- An accepted restart waits for the next boundary (R78). -/
  restartReq : Bool := false
  /-- Levels of DI0 to DI15 at the latest boundary (R31). -/
  di : BitVec 16 := 0#16
  /-- Changes of those levels by grid tick index, newest first. -/
  diLog : List (Nat × BitVec 16) := []
  deriving DecidableEq, Repr

/-! ## Ethernet ports and PRP (chapter 3) -/

/-- The path of a command to a source (R128): the TCP connection of a stream, or UDP from DST_PORT to the source's address and port. -/
inductive CmdPath where
  /-- The connection to the first or the second source address (0 or 1). -/
  | tcp (conn : Nat)
  | udp (dst dport sport vlan : Nat)
  deriving DecidableEq, Repr

/-- What a frame that the module sends carries. -/
inductive TxBody where
  /-- Quanta, and the instant in ns at which it was queued. -/
  | pause (quanta ns : Nat)
  | ptp (m : PtpTx)
  /-- A PRP supervision frame of a pair: its SupSequenceNumber. -/
  | supervision (pair sup : Nat)
  /-- A frame of an output stream: its frame number, its C37.118 type code and its bytes. -/
  | out (os no typ : Nat) (bytes : List Byte)
  /-- An output stream frame as R-SV. -/
  | outRsv (os no : Nat) (spduNo : BitVec 32) (bytes : List Byte) (sig : List Byte)
  /-- A command to a source of a stream (Table 4-6). -/
  | srcCmd (strm cmd : Nat) (path : CmdPath) (bytes : List Byte)
  | goose (no : Nat) (m : GooseTx)
  /-- A witness or cross-trigger message: destination, VLAN identifier and bytes. -/
  | udp (dst dport vlan : Nat) (bytes : List Byte)
  /-- A message on the Calfa link. -/
  | calfa (bytes : List Byte)
  /-- A frame from a host transmit ring. -/
  | host (fn id : Nat)
  deriving DecidableEq, Repr

/-- A redundancy control trailer that the module sends (R104): sequence number, LanId B, LSDUsize. -/
structure TxRct where
  seq : Nat
  lanB : Bool
  size : Nat
  deriving DecidableEq, Repr

/-- A frame in a port's transmit buffer. -/
structure TxFrame where
  id : Nat
  body : TxBody
  len : Nat
  rct : Option TxRct := none
  /-- The tick of its stage deadline, departure (Table 1-7); none for a frame of no bounded path. -/
  due : Option Nat := none
  born : Nat := 0
  deriving DecidableEq, Repr

/-- A port. -/
structure Port where
  linkUp : Bool := false
  pcsLock : Bool := false
  fecLock : Bool := false
  /-- End of the received pause time, ns; none = not held. When the hold began; ticks held without a break. -/
  pauseEnd : Option Nat := none
  pauseAt : Nat := 0
  held : Nat := 0
  /-- A pause frame with quanta was sent and not yet ended; when it was sent. -/
  xoff : Bool := false
  xoffAt : Nat := 0
  /-- Remainders below 64 bytes of RX_OCT64 and TX_OCT64 (R109). -/
  rxRem : Nat := 0
  txRem : Nat := 0
  txq : List TxFrame := []
  /-- The frame to which the arbiter has granted the port (R92). -/
  cur : Option TxFrame := none
  /-- The frame that departed last, as it departed. The model's own field. -/
  lastTx : Option TxFrame := none
  deriving DecidableEq, Repr

/-- An entry of the duplicate table (R101). -/
structure DupEnt where
  h : BitVec 16
  seen : BitVec 64
  last : Nat
  deriving DecidableEq, Repr

/-- The class to which the classifier assigned a frame (R20). -/
inductive FrameClass where
  | streamData
  | streamCfg
  | streamHeader
  | outCmd
  | rsv
  | sv
  | goose
  | ptp
  | witness
  | cross
  | supervision
  | calfa
  deriving DecidableEq, Repr

/-- A frame handed on by the classifier, with the object it is bound to. -/
structure Handed where
  cls : FrameClass
  obj : Nat
  frame : Frame
  deriving DecidableEq, Repr

/-- The ETH block and the classifier's output. -/
structure Eth where
  ports : FMap Port := []
  /-- Duplicate table by pair × 2^48 + source address. -/
  dup : FMap DupEnt := []
  /-- Next transmit sequence number of each pair; next SupSequenceNumber and instant (ns) of the latest supervision frame. -/
  prpSeq : FMap Nat := []
  supSeq : FMap Nat := []
  supAt : FMap Nat := []
  /-- Number of the next transmitted frame. The model's own. -/
  txId : Nat := 0
  /-- Frames handed on and not yet taken by their engines, oldest first. -/
  handed : List Handed := []
  deriving DecidableEq, Repr

/-! ## Ingest (chapter 4) -/

/-- One value slot of a record: its two words and whether the value is missing (Table 4-9). -/
structure Val where
  a : Word := 0#32
  b : Word := 0#32
  missing : Bool := false
  deriving DecidableEq, Repr

/-- An ingest record (Table 4-9). `written` is false until the record stands in DRAM; `bad` marks it in the ingest index
(R141). -/
structure IngRec where
  strm : Nat
  seq : Nat
  /-- The instant as a grid tick index, and the arrival in ns. -/
  inst : Nat
  arr : Nat
  stat : Nat
  iflags : Nat
  claim : Word
  chanBase : Nat
  vals : List Val
  /-- Ingress port of the frame, for the order of R161; 0xFF for a local bay. -/
  port : Nat
  written : Bool := false
  bad : Bool := false
  deriving DecidableEq, Repr

/-- A source of a stream: its TCP connection stands, the port on which it does, its bytes that are no whole frame yet (R129), and whether
command 0x0002 was sent since the connection (Table 4-6). -/
structure SrcConn where
  up : Bool := false
  port : Nat := 0
  buf : List Byte := []
  turnedOn : Bool := false
  deriving DecidableEq, Repr

/-- What the module keeps of a stream beside its directory entry (the fields marked "run" of Table 4-1 and what the checks
need). λ and CLAIM_HI are in the cellar (`Nv`). -/
structure Strm where
  /-- The sources at ADDR_A and at ADDR_B, the second unit of a paired source (R129, R137). -/
  ca : SrcConn := {}
  cb : SrcConn := {}
  /-- STATE: 0 IDLE, 1 WAIT_CFG, 2 RUN, 3 MISMATCH. -/
  st : Nat := 0
  credit : Nat := 0
  cfgCnt : Nat := 0
  lastSeq : Nat := 0
  /-- Differences arrival − frame timestamp of the last 1,024 frames, newest first (R64). -/
  lats : List Int := []
  /-- SPDU number last accepted (R136), and the Key ID of KEY_NEXT under which a frame was verified. -/
  spdu : Option Word := none
  nextUsed : Option Nat := none
  /-- Control frames of the present UTC second (R130). -/
  ctlSec : Int := 0
  ctlN : Nat := 0
  /-- STAT bit 10 as last seen; instant of the last request. -/
  bit10 : Bool := false
  reqAt : Nat := 0
  tcpTries : Nat := 0
  /-- The address and port of the latest frame bound to the entry. -/
  peer : Option (Nat × Nat) := none
  /-- The stored header and CFG-1 frames (R123). -/
  header : List Byte := []
  cfg1 : List Byte := []
  deriving DecidableEq, Repr

/-- The ING block. -/
structure Ing where
  strms : FMap Strm := []
  recs : List IngRec := []
  deriving DecidableEq, Repr

/-! ## Alignment and early pick (chapter 5) -/

/-- A slot of an aligned set: its words and its channel mark (Table 5-2: 0 PRESENT, 1 HELD, 2 MISSING, 3 CORRUPT). -/
structure ASlot where
  a : Word := 0#32
  b : Word := 0#32
  mark : Nat := 2
  deriving DecidableEq, Repr

/-- A stream block of an aligned set (Table 5-6). SMARK: 0 ARRIVED, 1 ABSENT, 2 BAD_RECORD, 3 FAILED. -/
structure SBlk where
  strm : Nat
  stat : Nat
  smark : Nat
  claim : Word
  heldAge : Nat
  slots : List ASlot
  /-- IFLAGS.TEST of the record; its arrival (ns), none without one. -/
  test : Bool := false
  arr : Option Nat := none
  deriving DecidableEq, Repr

/-- A sealed aligned set. -/
structure ASet where
  group : Nat
  seq : Nat
  inst : Nat
  vintage : Nat
  rebuilt : Bool := false
  failed : Bool := false
  first : Bool := false
  tq : Nat
  blocks : List SBlk
  deriving DecidableEq, Repr

/-- A hold memory entry: value, SEQ of the set in which the channel was PRESENT, and STAT of its record (R154, Table 5-3). -/
structure Held where
  a : Word
  b : Word
  seq : Nat
  stat : Nat
  deriving DecidableEq, Repr

/-- Run state of a group. -/
structure Grp where
  /-- ALN_GRP_STAT.STATE: 0 disabled, 1 waiting to start, 2 running. -/
  st : Nat := 0
  /-- Next instant to close and next instant to seal, grid tick indexes. -/
  nextClose : Nat := 0
  nextSeal : Nat := 0
  /-- The first instant since the group started. -/
  start : Nat := 0
  first : Bool := false
  lastSeq : Nat := 0
  hold : FMap Held := []
  /-- The grid tick index from which a waiting group may start (R151). -/
  since : Nat := 0
  /-- Instants that a timebase restart has discarded (R166). -/
  gone : List Nat := []
  deriving DecidableEq, Repr

/-- A vote at one open instant (R161). -/
structure VInst where
  count : Nat := 0
  decided : Bool := false
  done : List Nat := []
  deriving DecidableEq, Repr

/-- Run state of a vote: open instants by grid tick index, count at the last seal, SEQ of the last release, and the last
instant released. -/
structure Vote where
  insts : FMap VInst := []
  lastCount : Nat := 0
  lastSeq : Nat := 0
  released : Option Nat := none
  /-- The value as an output source (Table 12-1), and whether it released for the instant sealed last (Table 9-2). -/
  val : Bool := false
  rel : Bool := false
  deriving DecidableEq, Repr

/-- The ALN block. -/
structure Aln where
  grps : FMap Grp := []
  votes : FMap Vote := []
  /-- Sealed sets that are still readable, oldest first. -/
  sets : List ASet := []
  deriving DecidableEq, Repr

/-! ## Sampled values (chapter 6) -/

/-- A sample of a subscription: its index (TAI second × fs + counter), the arrival of its frame in ns, the simulation bit, whether
the stream was synchronised, and the INT32 value and quality of each channel as received. `placed` is false for a sample
that became final without ever being placed. -/
structure SvSamp where
  a : Nat
  placed : Bool := true
  arr : Nat := 0
  sim : Bool := false
  synced : Bool := true
  chans : List (Word × Word) := []
  deriving DecidableEq, Repr

/-- One value of a slot inside the chain: sample index, arrival of the latest frame it read, the value (none = missing), and what
R173, R176 and R181 mark on it. -/
structure SvY where
  a : Nat
  arr : Nat := 0
  v : Option Word := none
  /-- Kept under SIM_ACCEPT; questionable or substituted; from an unsynchronised stream; a saturation flag of the subscription
  was up; the sample was placed. -/
  test : Bool := false
  /-- The sample itself was kept under SIM_ACCEPT, whatever the median took in beside it (R295). -/
  own : Bool := false
  modified : Bool := false
  unsync : Bool := false
  sat : Bool := false
  placed : Bool := false
  /-- The median or the DC blocker was warming at this sample (Table 6-5). -/
  cold : Bool := false
  deriving DecidableEq, Repr

/-- The chain of a slot (R179 to R188). Lists are newest first. -/
structure SvSlot where
  med : List SvY := []
  d : Word := 0#32
  /-- Index of the last sample at which a freeze source was up; the estimate is frozen now. -/
  frzLast : Option Nat := none
  frozen : Bool := false
  /-- Placed samples, and samples at which d was not frozen. -/
  medN : Nat := 0
  dcN : Nat := 0
  /-- Index of the first FIR input; the DC outputs. -/
  firA : Option Nat := none
  ys : List SvY := []
  /-- The next decimation instant, in quarter ticks; present decimated values in a row; the first and the latest window centre whose window
  was full of present values (Table 6-5). -/
  ydNext : Option Nat := none
  ydRun : Nat := 0
  phFirst : Option Nat := none
  phLast : Nat := 0
  deriving DecidableEq, Repr

/-- The run state of a subscription. -/
structure SvSub where
  credit : Nat := 0
  /-- SYNCED and LAST_SMP of Table 6-2. -/
  synced : Bool := false
  lastSmp : Nat := 0
  /-- Highest index placed; next index to become final; placed samples that wait for earlier ones, ascending; final samples,
  newest first. -/
  last : Option Nat := none
  next : Option Nat := none
  buf : List SvSamp := []
  fin : List SvSamp := []
  deriving DecidableEq, Repr

/-- The SVF block. -/
structure Svf where
  subs : FMap SvSub := []
  slots : FMap SvSlot := []
  /-- Bays that have raised SVF_EV_WARM_DONE, and the activation instant in ns that last changed a bay. -/
  warmDone : List Nat := []
  changed : FMap Nat := []
  deriving DecidableEq, Repr

/-! ## Oscillation detection (chapter 7) -/

/-- A bin of a signal (R201). Numbers are binary32 patterns. -/
structure OscBin where
  zre : Word := 0#32
  zim : Word := 0#32
  fbar : Word
  s0 : Word := 0#32
  s1 : Word := 0#32
  s2 : Word := 0#32
  sy : Word := 0#32
  sty : Word := 0#32
  sigma : Word := 0#32
  denOk : Bool := false
  /-- Updates since the start of the bin, and whether the latest one reset it. -/
  n : Nat := 0
  reset : Bool := false
  deriving DecidableEq, Repr

/-- The results of a signal at an instant, kept for its families and records. -/
structure OscRes where
  bins : FMap OscBin
  filled : Bool
  degraded : Bool
  warming : Bool
  deriving DecidableEq, Repr

/-- A signal: mean, unwrapped angle, bins that are on, fill record (newest first), next instant, SEQ of the last update, and what
the last update was. -/
structure OscSig where
  m : Option Word := none
  u : Option Word := none
  bins : FMap OscBin := []
  fills : List Bool := []
  next : Nat := 0
  lastInst : Option Nat := none
  filled : Bool := false
  degraded : Bool := false
  warmDone : Bool := false
  res : FMap OscRes := []
  /-- The instant in ns at which the inputs of the last update were final: an arrival or a close (R161, R162). -/
  path : Nat := 0
  deriving DecidableEq, Repr

/-- A mode: bin held, outputs at the last evaluation, and the modes' bin change. -/
structure OscMode where
  present : Bool := false
  bin : Option Nat := none
  freq : Word := 0#32
  damp : Word := 0#32
  amp : Word := 0#32
  lastInst : Option Nat := none
  /-- The bin held at each instant, 0xFF for none (R209, R216). -/
  hist : FMap Nat := []
  deriving DecidableEq, Repr

/-- An alarm: ACTIVE at the latest update and as read at the latest seal, COUNT, and the outcomes at instants that are not
sealed yet. -/
structure OscAlm where
  active : Bool := false
  sealOut : Bool := false
  count : Nat := 0
  lastTest : Bool := false
  lastChg : Nat := 0
  outs : FMap Bool := []
  /-- ACTIVE as the latest seals read it, by instant (Table 9-2). -/
  seals : FMap Bool := []
  deriving DecidableEq, Repr

/-- The OSC block. `famNext` is the next instant of each family, by reference signal. -/
structure Osc where
  sigs : FMap OscSig := []
  modes : FMap OscMode := []
  alms : FMap OscAlm := []
  famNext : FMap Nat := []
  deriving DecidableEq, Repr

/-! ## Islanding, coherency and event comparators (chapter 8) -/

/-- An island signal after its last evaluation. -/
structure IslSig where
  fPres : Bool := false
  aPres : Bool := false
  island : Nat := 0
  lastSeq : Nat := 0
  deriving DecidableEq, Repr

/-- A coherency group: frequency, angle, candidate in use, offsets o_1 to o_3 that have been set, island. -/
structure IslGrp where
  freq : Option Word := none
  ang : Option Word := none
  gfreq : Word := 0#32
  gang : Word := 0#32
  cand : Nat := 0
  npres : Nat := 0
  offs : FMap Word := []
  island : Nat := 0
  /-- The island index at the latest evaluations, by instant (Table 9-2). -/
  was : FMap Nat := []
  deriving DecidableEq, Repr

/-- A pair (R227, R230). -/
structure IslPair where
  diverge : Bool := false
  slip : Bool := false
  islanded : Bool := false
  allOpen : Bool := false
  indet : Bool := false
  dfOk : Bool := false
  have_ : Bool := false
  ns : Nat := 0
  kmax : Nat := 0
  scount : Nat := 0
  count : Nat := 0
  ccount : Nat := 0
  delta : Word := 0#32
  dfreq : Word := 0#32
  slips : Word := 0#32
  lastSeq : Nat := 0
  lastIsl : Nat := 0
  /-- DIVERGE, SLIP and ISLANDED (bits 0 to 2) at the latest evaluations, by instant (Table 9-2). -/
  was : FMap Nat := []
  deriving DecidableEq, Repr

/-- A tie: resolved state, some status unknown. -/
structure IslTie where
  closed : Bool := true
  unknown : Bool := false
  seen : Bool := false
  deriving DecidableEq, Repr

/-- State of a primitive (R233, R238): history newest first, unwrapped angle, previous angle and frequency, RUN, RUNT state,
EDGE level, output, instants seen. -/
structure PrimSt where
  hist : List (Option Word) := []
  u : Option Word := none
  prevA : Option Word := none
  prevF : Option Word := none
  run : Nat := 0
  rstate : Nat := 0
  level : Bool := false
  out : Bool := false
  /-- The output of the primitive itself, before R239's rule on warming. -/
  raw : Bool := false
  n : Nat := 0
  deriving DecidableEq, Repr

/-- A comparator: primitive state, next instant, OUT as at the last seal, outputs at instants not sealed yet, and for TIMEOUT the
arrival (ns) that last reset the timer. -/
structure Cmp where
  p : PrimSt := {}
  next : Nat := 0
  out : Bool := false
  lastChg : Nat := 0
  outs : FMap Bool := []
  /-- The outputs of the latest seals, by instant (Table 9-2). -/
  seals : FMap Bool := []
  /-- Of a TIMEOUT comparator, the instant a of Table 8-5 in units of 1/(10⁹ · 1,024 · f0) s. -/
  tmo : Nat := 0
  /-- The instant in ns at which the inputs of the last evaluation were final: an arrival or a close (R161, R162). -/
  path : Nat := 0
  deriving DecidableEq, Repr

/-- The engine of an interconnection: started, next instant, first record written, number of islands. -/
structure Icn where
  on : Bool := false
  next : Nat := 0
  first : Bool := true
  nisl : Nat := 0
  deriving DecidableEq, Repr

/-- The ISL block. -/
structure Isl where
  sigs : FMap IslSig := []
  grps : FMap IslGrp := []
  pairs : FMap IslPair := []
  ties : FMap IslTie := []
  cmps : FMap Cmp := []
  icns : FMap Icn := []
  deriving DecidableEq, Repr

/-! ## Scheme logic (chapter 9) -/

/-- A trigger of a task: its tick counter value T, its TAI ns, and the instant whose SEQ it carries. -/
structure Trig where
  t : Nat
  ns : Nat
  inst : Nat
  seq : Nat
  deriving DecidableEq, Repr

/-- A snapshot: its trigger, read start S on the tick counter, operand values, same-instant operands still awaited, whether a
substitute was read, the parameter values in force at S, and the stations whose error task runs. -/
structure Snap where
  trig : Trig
  s : Nat
  vals : List (Word × Word) := []
  waits : List Word := []
  subst : Bool := false
  pars : FMap Word := []
  errs : List Nat := []
  deriving DecidableEq, Repr

/-- Timer state (R256), by timer number. -/
structure Tmr where
  run : Bool := false
  q : Bool := false
  et : Nat := 0
  t0 : Nat := 0
  elem : Nat := 0
  typ : Nat := 0
  deriving DecidableEq, Repr

/-- A task. `outs` holds the element outputs of its previous scan: element × 4 + port. -/
structure Task where
  queue : List Trig := []
  snap : Option Snap := none
  firstDone : Bool := false
  lastSeq : Nat := 0
  lastT : Nat := 0
  runMax : Nat := 0
  /-- The tick counter at the end of the last scan. -/
  lastEnd : Nat := 0
  outs : FMap Word := []
  deriving DecidableEq, Repr

/-- A station: STATE (0 UNSEEN, 1 OK, 2 LOST), ERR_PEND, CAUSE, tick counter at the last loss. -/
structure Stn where
  st : Nat := 0
  errPend : Bool := false
  cause : Nat := 0
  loss : Nat := 0
  deriving DecidableEq, Repr

/-- A subscribed dataset: stNum and sqNum last accepted, arrival (tick counter) and TAL_tk of the last accepted message, R-GOOSE
SPDU number, policer credit. -/
structure Ds where
  lastSt : Word := 0#32
  lastSq : Word := 0#32
  arr : Option Nat := none
  tal : Nat := 0
  spdu : Option Word := none
  credit : Nat := 0
  /-- A message was accepted since the station was last lost (R260). -/
  since : Bool := false
  deriving DecidableEq, Repr

/-- A station input: value, quality validity invalid, quality test. -/
structure StnIn where
  val : Word := 0#32
  invalid : Bool := false
  test : Bool := false
  deriving DecidableEq, Repr

/-- The SCH block: tasks, timers, edge memories, counters' CV, latches by element, windows (newest first), stations, datasets,
station inputs, output points as last latched, link variables, freeze flags and trigger bits. -/
structure Sch where
  tasks : FMap Task := []
  tmrs : FMap Tmr := []
  edges : FMap Bool := []
  cvs : FMap Word := []
  latches : FMap Bool := []
  wins : FMap (List Word) := []
  stns : FMap Stn := []
  dss : FMap Ds := []
  ins : FMap StnIn := []
  points : FMap Word := []
  links : FMap Word := []
  /-- Freeze flags, and their values by the instant (ns) from which each stood, newest first. -/
  freeze : BitVec 32 := 0#32
  frzLog : List (Nat × BitVec 32) := []
  trigs : BitVec 64 := 0#64
  /-- Host event points written 1 by the task's previous scan. -/
  emits : FMap Bool := []
  deriving DecidableEq, Repr

/-! ## The configuration image (chapter 14) -/

/-- One section of an image: its TYPE (Table 14-3) and its records, each a list of 32-bit little-endian words. A record
shorter than a word (a list entry of 1 or 2 bytes) is one word. -/
structure Sect where
  typ : Nat
  recs : List (List Word)
  deriving DecidableEq, Repr

/-- One entry of the NAME section (R382). `clean` says that its reserved byte and its padding are zero. -/
structure NameEnt where
  kind : Nat
  index : Nat
  text : List Byte
  clean : Bool := true
  deriving DecidableEq, Repr

/-- A configuration image whose bytes have been taken apart (R368 to R382). Vintage 0 with no sections is factory
defaults (R385). -/
structure Image where
  vintage : Nat := 0
  f0 : Nat := 50
  signed : Bool := false
  paired : Bool := false
  costLtr : Nat := 0
  costNum : Nat := 0
  costRev : Nat := 0
  minFw : Nat := 0
  check : List Byte := []
  sects : List Sect := []
  names : List NameEnt := []
  deriving DecidableEq, Repr

/-- A flash slot: STATE of CFG_SLOTn_STAT (0 empty, 1 good, 2 bad, 3 writing) and its bytes (R386). -/
structure Slot where
  state : Nat := 0
  raw : List Byte := []
  deriving DecidableEq, Repr

/-- A committed batch that waits for its commit boundary (R391): the function, the tick counter at acceptance, and its (record,
value) pairs. -/
structure Batch where
  fn : Nat
  tick : Nat := 0
  entries : List (Nat × Word)
  deriving DecidableEq, Repr

/-- The CFG block (Table 14-16), flash, and the parameter values in force. -/
structure Cfg where
  /-- The active vintage, and the bytes it was loaded from. -/
  active : Image := {}
  activeRaw : List Byte := []
  /-- CFG_STAT.SRC: 0 factory defaults, 1 slot A, 2 slot B, 3 push. -/
  src : Nat := 0
  defaultsUsed : Bool := false
  /-- The scheduled TAI second (CFG_SCHED; R387). -/
  sched : Option Nat := none
  /-- The staged image, its bytes, and where it came from. -/
  staged : Option Image := none
  stagedRaw : List Byte := []
  stagedSrc : Nat := 0
  /-- CFG_STAT.BUSY: staging from source 1, 2 or 3 runs; slot 0 or 1 is being written with these bytes. -/
  staging : Option Nat := none
  writing : Option Nat := none
  writeRaw : List Byte := []
  /-- CFG_STAT.BOOT: 0 slot A, 1 slot B. Flash. -/
  boot : Nat := 0
  volatile : Bool := false
  slotA : Slot := {}
  slotB : Slot := {}
  /-- CFG_LOAD and CFG_LOAD_DETAIL. -/
  load : Word := 0x0000FF00#32
  loadDetail : Word := 0#32
  /-- CFG_LAST_ACT: TAI second of the latest activation. -/
  lastAct : Nat := 0
  /-- CFG_BAT_NUM. -/
  batNum : Nat := 0
  /-- Committed batches that wait for the boundary. -/
  commits : List Batch := []
  /-- Tuned values in force, by SCH_PARAM record. -/
  pars : FMap Word := []
  /-- The 128 MiB staging buffer (IMG_PUSH), in canonical form; an unlisted byte reads 0. -/
  pushBuf : List Host.Cell := []
  deriving DecidableEq, Repr

/-! ## Interchange metering (chapter 11) -/

/-- An energy register (R299): total, residue in 2⁻³² of its unit, wrap counter. -/
structure MReg where
  tot : Nat := 0
  res : Nat := 0
  wrap : Nat := 0
  deriving DecidableEq, Repr

/-- A cellar bank of a point (R300): generation, whether its CRC is good, its seven registers, and (PACC, BACKLOG) of the pulse
outputs that follow it. -/
structure MBank where
  gen : Nat := 0
  ok : Bool := false
  regs : List MReg := []
  pos : FMap (Nat × Nat) := []
  deriving DecidableEq, Repr

/-- What a billing record holds before it is signed (Table 11-6). `meterId` is the identity in force when it was saved. -/
structure BillBody where
  typ : Nat
  flags : Nat := 0
  point : Nat
  tq : Nat
  vintage : Nat
  ts : Nat
  ts2 : Nat
  meterId : List Byte
  /-- The body without LOG_LOST, which an interval record gets when it is logged. -/
  body : List Byte
  deriving DecidableEq, Repr

/-- An entry of the billing log: whether it uses a kept-back entry, and its bytes. -/
structure BillEnt where
  kept : Bool
  raw : List Byte
  deriving DecidableEq, Repr

/-- One PQ channel (R310): the previous window start, the previous sample, open windows with whether they are fallbacks, the
latest value (none = missing) and whether a value has come. -/
structure PqCh where
  ws : Option Nat := none
  prev : Option Word := none
  wins : List (Nat × Bool) := []
  val : Option Word := none
  deriving DecidableEq, Repr

/-- An open PQ event (R311, Table 11-7). -/
structure PqEv where
  start : Nat
  /-- TB_TQ and VINTAGE at the start. -/
  tq : Word := 0#32
  vintage : Nat := 0
  ext : Word
  extCh : Nat
  mask : Nat
  intrIn : Bool := false
  missing : Bool := false
  fallback : Bool := false
  deriving DecidableEq, Repr

/-- The entry of a point that an activation has changed: its words, the cycle at which they stop to hold, and the body of the
configuration-change record (Table 11-3). -/
structure MtrOld where
  words : List Word
  stop : Nat
  body : List Byte
  deriving DecidableEq, Repr

/-- Run state of a metering point: next cycle (TAI second × f0 + c), first sample of it that is not metered yet, the instant in ns of the
last sample metered, the old entry while cycles of it are open, registers, the interval in progress, and PQ. -/
structure MtrPt where
  next : Option Nat := none
  from_ : Nat := 0
  last : Nat := 0
  old : Option MtrOld := none
  regs : List MReg := List.replicate 7 {}
  /-- The interval: first instant, first cycle metered, samples expected, GAP_SMP, TEST_SMP, BFLAGS gathered, PQ records and PQ
  events. -/
  ivStart : Option Nat := none
  nsmp : Nat := 0
  gap : Nat := 0
  test : Nat := 0
  flags : Nat := 0
  pqRecs : Nat := 0
  pqEvents : Nat := 0
  /-- PQ: next sample, channels, instant of the latest value, open dip, swell and interruption. -/
  pqNext : Option Nat := none
  chs : FMap PqCh := []
  lastTs : Nat := 0
  dip : Option PqEv := none
  swell : Option PqEv := none
  intr : Option PqEv := none
  deriving DecidableEq, Repr

/-- A pulse output (R307, R308): PACC, BACKLOG, EMITTED, spacing Δ in ns, earliest start of the next pulse, start of the last pulse,
overrun reported. -/
structure Po where
  pacc : Nat := 0
  backlog : Nat := 0
  emitted : Nat := 0
  delta : Nat := 0
  due : Nat := 0
  start : Option Nat := none
  spill : Bool := false
  deriving DecidableEq, Repr

/-- The MTR block: points, pulse outputs, end instant of the latest cycle committed, and points whose TOT_RESET waits. -/
structure Mtr where
  pts : FMap MtrPt := []
  pos : FMap Po := []
  lastEnd : Nat := 0
  /-- MTR_REL, which the functions share. -/
  rel : Nat := 0
  deriving DecidableEq, Repr

/-! ## Disturbance capture (chapter 10) -/

/-- A cause of a recorder that waits to be processed (R277): the recorder, its condition, the event time in ns, and for a primitive
cause the sample at which it rose. -/
structure CapCause where
  rcd : Nat
  cond : Nat
  ns : Nat
  samp : Option Nat := none
  deriving DecidableEq, Repr

/-- A sample of a recorder (R273): its number (instant ÷ P, or TAI second × fs + counter), values and marks. -/
structure CapSamp where
  k : Nat
  vals : List (Word × Word)
  marks : List Nat
  deriving DecidableEq, Repr

/-- The run state of a recorder: STATE (Table 10-1), whether it has started, the next sample, the pre-trigger buffer (newest first), the
state of each condition, for TIMEOUT the instant a of Table 8-5 in units of 1/(10⁹ · 1,024 · f0) s, the take slot in use, the end of the re-arm time on
the tick counter, a disarm that waits for the take to end, the last trigger sample and LAST_TAKE. -/
structure CapRec where
  st : Nat := 0
  started : Bool := false
  next : Nat := 0
  ring : List CapSamp := []
  conds : FMap PrimSt := []
  tmo : FMap Nat := []
  slot : Nat := 0
  rearmEnd : Nat := 0
  off : Bool := false
  trig : Option Nat := none
  lastTake : Nat := 0
  deriving DecidableEq, Repr

/-- A take in the reel (Table 10-5). `samps` is newest first while the take records; `raw` holds its bytes once it is closed. -/
structure CapTake where
  no : Nat
  rcd : Nat
  blocks : Nat
  closed : Bool := false
  truncated : Bool := false
  moved : Bool := false
  xtSent : Bool := false
  cause : Nat := 0
  armId : Nat := 0
  trig : Nat
  pre : Nat
  post : Nat := 0
  preCfg : Nat
  postCfg : Nat
  vintage : Nat
  tq : Nat
  samps : List CapSamp := []
  raw : List Byte := []
  deriving DecidableEq, Repr

/-- A slate in the log: its recorder and its 32 bytes (Table 10-8). -/
structure Slate where
  rcd : Nat
  raw : List Byte
  deriving DecidableEq, Repr

/-- The CAP block: causes that wait, recorders, takes by slot, next TAKE_NO, the slate log by entry, next SLATE_NO; capture set: next
MSG_SEQ, last MSG_SEQ accepted by sender, ARM_ID, armed, the tick at which that lapses, the tick of the last ARM sent. -/
structure Cap where
  causes : List CapCause := []
  recs : FMap CapRec := []
  takes : FMap CapTake := []
  takeNo : Nat := 1
  slates : FMap Slate := []
  slateNo : Nat := 1
  xtSeq : Nat := 0
  xtLast : FMap Word := []
  armId : Nat := 0
  armed : Bool := false
  armEnd : Nat := 0
  lastArm : Nat := 0
  deriving DecidableEq, Repr

/-! ## Publication and outputs (chapter 12) -/

/-- A frame that is due: output stream, instant (grid tick index), for an early alarm stream its bit, and for a close alarm
stream its sources as at the seal. -/
structure FrameDue where
  os : Nat
  inst : Nat
  /-- The tick of its stage deadline, departure (Table 1-7). -/
  due : Nat := 0
  bit : Bool := false
  held : List Bool := []
  deriving DecidableEq, Repr

/-- A TCP client of an output stream: address and port, the Ethernet port of the connection, on. -/
structure TcpClient where
  addr : Nat
  port : Nat
  eport : Nat
  on : Bool := false
  /-- The instant (ns) at which command 0x0002 turned it on. -/
  onAt : Nat := 0
  /-- Bytes of the connection that are no whole frame yet (R129). -/
  buf : List Byte := []
  deriving DecidableEq, Repr

/-- An output stream. -/
structure OutStream where
  cfgCnt : Nat := 0
  on : Bool := false
  /-- The instant (ns) at which command 0x0002 turned it on; 0 for a stream on since its start. -/
  onAt : Nat := 0
  clients : List TcpClient := []
  cfgPend : Bool := false
  spdu : Word := 0#32
  /-- Commands of the present UTC second (R330). -/
  cmdSec : Int := 0
  cmdN : Nat := 0
  deriving DecidableEq, Repr

/-- A GOOSE publication (R335): `vals` are the member values last latched. -/
structure Goose where
  active : Bool := false
  stnum : Word := 0#32
  sqnum : Word := 0#32
  gap : Nat := 0
  next : Nat := 0
  vals : List Word := []
  spdu : Word := 0#32
  deriving DecidableEq, Repr

/-- A DO: STATE (0 RELEASED, 1 DRIVEN, 2 HELD), LEVEL, tick counter at the last change and the last rise, a fall held back by
MIN_ON, tick at which a hold ends. -/
structure Do where
  st : Nat := 0
  level : Bool := false
  lastChg : Nat := 0
  lastRise : Nat := 0
  fallHeld : Bool := false
  holdEnd : Nat := 0
  deriving DecidableEq, Repr

/-- The PUB block. -/
structure Pub where
  os : FMap OutStream := []
  gps : FMap Goose := []
  dos : FMap Do := []
  due : List FrameDue := []
  /-- Frames of output streams and publications that have counted their first departure, by frame number. -/
  counted : List Nat := []
  /-- Frame number of each assembled frame. -/
  frameNo : Nat := 0
  /-- The tick by which a message departs that follows the last change of an output source (R322), by 65,536 · TYPE + INDEX. -/
  srcDue : FMap Nat := []
  deriving DecidableEq, Repr

/-! ## The task scheduler and the arbiter (chapter 13) -/

/-- A work item (R342): its flow, admission number, path start, level, engine, stage deadline of bounded work, state (1 waiting, 2
in service, 3 awaiting release, 4 held because its successor's queue is full), unit, and the flow of its next stage. -/
structure TskItem where
  flow : Nat
  adm : Nat
  start : Nat
  level : Nat
  engine : Nat
  deadline : Option Nat
  st : Nat := 1
  unit : Nat := 0
  next : Option Nat := none
  deriving DecidableEq, Repr

/-- An entry of a delay list (R352): its release tick, flow, and whether it belongs to a reporting instant. -/
structure DlEnt where
  tick : Nat
  flow : Nat
  inst : Bool := false
  deriving DecidableEq, Repr

/-- Work that waits for a descriptor or for room in its queue (R353, R354): its flow and path start; its admission number, none for an item
of a delay list that is not numbered yet (R344); whether it holds a descriptor; and, of an entry that waits to enter a delay list, the list
(`start` is then its release tick) and whether it belongs to a reporting instant. -/
structure TskWait where
  flow : Nat
  start : Nat
  adm : Option Nat := none
  held : Bool := false
  list : Option Nat := none
  inst : Bool := false
  deriving DecidableEq, Repr

/-- What a flow keeps: the levels set by OP 3, each with the first admission number that it applies to, the latest first (R348), and
MISSES. -/
structure TskFlow where
  levels : List (Nat × Nat) := []
  misses : Word := 0#32
  deriving DecidableEq, Repr

/-- The task scheduler: TSK_STAT, test mode, whether the next atomic cause is recovery, items, work that waits to become an
item or an entry, delay lists 0 to 3, the next admission number, flows. -/
structure Tsk where
  atomic : Bool := true
  cause : Nat := 1
  test : Bool := false
  recovery : Bool := false
  items : List TskItem := []
  stalled : List TskWait := []
  dls : FMap (List DlEnt) := []
  adm : Nat := 0
  flows : FMap TskFlow := []
  deriving DecidableEq, Repr

/-- A waiting request (R356). -/
structure ArbReq where
  rq : Nat
  res : Nat
  lst : BitVec 16
  lock : Bool
  nodl : Bool
  frame : Option Nat := none
  sat : Bool := false
  deriving DecidableEq, Repr

/-- An arbitrated resource: its holder with LOCK and the beats held, the counts of Table 13-11, and the rotating pointer. -/
structure ArbRes where
  owner : Option (Nat × Bool × Nat) := none
  grants : Word := 0#32
  miss : Word := 0#32
  locks : Word := 0#32
  maxLate : Nat := 0
  ptr : Nat := 0
  deriving DecidableEq, Repr

/-- The arbiter: waiting requests and resources. -/
structure Arb where
  reqs : List ArbReq := []
  res : FMap ArbRes := []
  deriving DecidableEq, Repr

/-! ## The host interface (chapter 15) -/

/-- The objects an event or a record is about, for R408: every partition, the partitions that may read all of these
groups, the partitions in a recorder's PART_MASK, or one function (R420). -/
inductive EvObj where
  | all
  | groups (gs : List Nat)
  | mask (m : Nat)
  | fnOnly (n : Nat)
  deriving DecidableEq, Repr

/-- A generated event (Table 15-4 without PHASE, LOST and ESEQ): its code, the block whose order it keeps (R411), TS in
TAI ns (none: NOTIME), its ARG bytes. -/
structure Event where
  code : Nat
  blk : Nat
  ts : Option Nat
  arg : List Byte
  deriving DecidableEq, Repr

/-- An event that waits for a partition's event queue: its generation number in the partition and the tick counter at
generation (R410). -/
structure EvWait where
  ev : Event
  gen : Nat
  born : Nat
  deriving DecidableEq, Repr

/-- The command taken from a command queue and not yet completed (Table 15-2), with what was checked at acceptance. -/
structure Cmd where
  op : Nat
  tag : Nat
  /-- All 64 bytes. -/
  raw : List Byte
  /-- ACC_TS in TAI ns; none while NOTIME. -/
  acc : Option Nat
  /-- The right that the OP needs was held at acceptance (R406). -/
  right : Bool
  /-- Its completion is not written back, after a function level reset (R418). -/
  silent : Bool := false
  /-- It has been accepted by its owning block and waits there. -/
  waits : Bool := false
  /-- Events and harvest records generated for the partition before its acceptance (R412). -/
  evGen : Nat := 0
  hrvGen : Nat := 0
  deriving DecidableEq, Repr

/-- A FENCE command or register fence in progress (R412, R413): the generation numbers it waits for. -/
structure Fence where
  token : Nat
  hrv : Bool := false
  evGen : Nat
  hrvGen : Nat := 0
  /-- The instant of the acceptance or of the write; an event of that instant still comes before the marker. -/
  ts : Option Nat := none
  /-- When the marker event was generated, once it waits for a place. -/
  marker : Option Nat := none
  deriving DecidableEq, Repr

/-- A record that waits for a harvest ring (R416). -/
structure HrvWait where
  typ : Nat
  group : Option Nat
  bytes : List Byte
  gen : Nat
  born : Nat
  /-- The counter of the record's own chapter that counts its drop: absolute offset and window index. -/
  dropCtr : Option (Nat × Nat) := none
  deriving DecidableEq, Repr

/-- A frame that waits for a host receive ring (R105, R414). -/
structure RxWait where
  ring : Nat
  port : Nat
  len : Nat
  ts : Option Nat
  vlan : Option Nat
  route : Nat
  copy : Bool
  born : Nat
  bytes : List Byte := []
  deriving DecidableEq, Repr

/-- A frame taken from a transmit ring and waiting for its ports (R415). -/
structure TxHost where
  id : Nat
  ring : Nat
  /-- Index of its first descriptor. -/
  first : Nat
  addr : Nat
  len0 : Nat
  /-- TFLAGS as the host wrote them. -/
  flags : Nat
  mask : Nat
  /-- Ports on which it has not departed; departures (port, ns); STATUS of its write-back. -/
  left : List Nat
  deps : List (Nat × Nat) := []
  status : Nat := 0
  born : Nat
  /-- The frame carries a tag. -/
  tagged : Bool := false
  deriving DecidableEq, Repr

/-- An interrupt source (R417): pending, and the tick of its previous message. -/
structure Irq where
  pend : Bool := false
  last : Option Nat := none
  deriving DecidableEq, Repr

/-- What one function (partition) holds for itself. -/
structure Fn where
  /-- RW, W1C and index registers of this function, and its producer and consumer indexes, by BAR0 offset; an offset
  not listed holds its reset value (`fnReset`). -/
  regs : FMap Word := []
  /-- Snapshot data of its windows, by BAR0 offset of the data register (R120). -/
  win : FMap Word := []
  /-- Its latch of the metering registers, point × 8 + register (R302). -/
  mtrLatch : FMap MReg := []
  /-- Its copies of the RC fields, by BAR0 offset × 65,536 + window index (R9). -/
  rc : FMap Word := []
  /-- HIF counters (Table 15-13) and ring-page counters, by BAR0 offset. -/
  ctr : FMap Word := []
  /-- The data that the latest register read of this function returned. The model's own field. -/
  lastRead : Word := 0#32
  /-- Bus Master Enable, and the link width and speed codes of HIF_STAT. -/
  bme : Bool := false
  width : Nat := 0
  speed : Nat := 0
  /-- Batch buffer (R390), oldest entry first, its vintage and the result of its last commit. -/
  batch : List (Nat × Word) := []
  batVint : Nat := 0
  batLast : Nat := 0
  batReason : Nat := 0
  /-- Events that wait, their count since reset, ESEQ, LOST, and the PHASE of the current pass. -/
  evWait : List EvWait := []
  evGen : Nat := 0
  eseq : Nat := 0
  evLost : Bool := false
  evPhase : Bool := true
  /-- The event queue in host memory as the module wrote it: 32 bytes by entry. -/
  evRing : FMap (List Byte) := []
  /-- PWR_EV_START was generated since this start (R505). -/
  startEv : Bool := false
  /-- The command in progress, the completion queue's PHASE and entries. -/
  cur : Option Cmd := none
  cplPhase : Bool := true
  cplRing : FMap (List Byte) := []
  /-- Events dropped since the previous FENCE, and while the latest register fence ran; the fences in progress. -/
  fenceDrops : Nat := 0
  regDrops : Nat := 0
  cmdFence : Option Fence := none
  regFence : Option Fence := none
  /-- What the latest command wrote to host memory: address and bytes. -/
  dma : Option (Nat × List Byte) := none
  /-- Records that wait for the harvest ring, and the ring's contents by byte offset. -/
  hrvWait : List HrvWait := []
  hrvGen : Nat := 0
  /-- Late records for this ring dropped since the last one delivered (Table 5-7). -/
  lateDrop : Nat := 0
  hrvRing : FMap (List Byte) := []
  /-- The 8-byte PROD write-back. -/
  hrvWb : Nat := 0
  /-- Frames that wait for receive rings; write-backs by ring × 65,536 + descriptor. -/
  rxWait : List RxWait := []
  rxWb : FMap (List Byte) := []
  /-- What the module wrote to the buffers of receive descriptors, by ring × 65,536 + descriptor (R105). -/
  rxData : FMap (List Byte) := []
  /-- Host frames in flight; write-backs by ring × 65,536 + descriptor. -/
  txWait : List TxHost := []
  txWb : FMap (List Byte) := []
  /-- Interrupt sources by number, and the messages sent by vector. -/
  irq : FMap Irq := []
  msi : FMap Nat := []
  deriving DecidableEq, Repr

/-! ## The redundant pair (chapter 16) -/

/-- What the peer's last accepted heartbeat showed. -/
structure PeerHb where
  role : Nat
  hfl : Nat
  vintage : Nat
  claim : Word
  gen : Nat
  deriving DecidableEq, Repr

/-- A fragment of a racking block (Table 16-6). -/
structure GenFrag where
  btype : Nat
  bindex : Nat
  blen : Nat
  fofs : Nat
  data : List Byte
  deriving DecidableEq, Repr

/-- A generation being received: its instant as a grid tick index, and its fragments. -/
structure GenIn where
  inst : Nat
  frags : List GenFrag := []
  deriving DecidableEq, Repr

/-- A planned handover on the active unit: the function whose command waits, H as a grid tick index, whether H has passed. -/
structure Handover where
  fn : Nat
  h : Nat
  past : Bool := false
  deriving DecidableEq, Repr

/-- A planned handover as the peer knows it: H, the generation formed at H. -/
structure HandReq where
  h : Nat
  gen : Nat
  deriving DecidableEq, Repr

/-- A GRANT accepted by a unit that is not ACTIVE: the tick counter at acceptance, and whether the handover was planned. -/
structure Granted where
  tick : Nat
  planned : Bool
  deriving DecidableEq, Repr

/-- The PAIR block. -/
structure Pair where
  /-- ROLE of Table 16-1 while the image makes the module a unit. -/
  role : Nat := 1
  auth : Bool := false
  /-- Grid tick index at which authority last began or ended (R433). -/
  mark : Option Nat := none
  /-- The lease end and WIT_OK on the tick counter: the last witness answer accepted. -/
  leaseEnd : Nat := 0
  witAt : Option Nat := none
  witOk : Bool := false
  /-- The last heartbeat accepted on the Calfa link and on the data port; CALFA_OK. -/
  calfaAt : Option Nat := none
  dataAt : Option Nat := none
  calfaOk : Bool := false
  /-- A heartbeat was accepted since the last check instant; MISSED; PEER_OK; check instants since the start or the last heartbeat
  with ROLE = ACTIVE. -/
  hbSince : Bool := false
  missed : Nat := 0
  peerOk : Bool := false
  quiet : Nat := 0
  peer : Option PeerHb := none
  hold : Bool := false
  /-- Next MSG_SEQ of the Calfa messages and of the witness messages. -/
  seqC : Nat := 0
  seqW : Nat := 0
  /-- Last MSG_SEQ accepted from the peer, from the witness, and by a witness from unit u of pair n (2 n + u). -/
  lastC : Option Word := none
  lastW : Option Word := none
  lastU : FMap Word := []
  /-- Own witness messages of the last 1,024 tk: MSG_SEQ and tick counter. -/
  sent : List (Nat × Nat) := []
  /-- Instants served last: heartbeat sent, check made (tick counter); lease message sent, generation formed (grid). -/
  hbTick : Option Nat := none
  chkTick : Option Nat := none
  leaseGrid : Option Nat := none
  genGrid : Option Nat := none
  /-- PAIR_GEN; the number of the generation that came last, complete or not; complete generations in a row; SYNCED. -/
  gen : Nat := 0
  genNo : Option Nat := none
  syncRun : Nat := 0
  synced : Bool := false
  /-- The newest complete image (standby), or the blocks of the last generation formed (active), by block number; generations
  being received. -/
  img : FMap (List Byte) := []
  genIn : FMap GenIn := []
  hov : Option Handover := none
  hreq : Option HandReq := none
  granted : Option Granted := none
  /-- Witness mode: expiry of each pair's lease in TAI ns. -/
  expiry : FMap Nat := []
  deriving DecidableEq, Repr

/-- What a witness keeps of a pair in the cellar (R446, R448): holder (0, 1; 3 none), claim, lease length in ns. -/
structure Wit where
  holder : Nat := 3
  claim : Word := 0#32
  leaseNs : Nat := 0
  deriving DecidableEq, Repr

/-! ## Security, keys and identity (chapter 17) -/

/-- One cell of a vault slot (R463, R468). `notAfter` 0 is none. -/
structure VCell where
  valid : Bool := false
  attr : Nat := 0
  alg : Nat := 0
  keyId : Nat := 0
  notAfter : Nat := 0
  key : List Byte := []
  deriving DecidableEq, Repr

/-- A slot: two cells and the commit counter CTR. -/
structure VSlot where
  cell0 : VCell := {}
  cell1 : VCell := {}
  ctr : Word := 0#32
  deriving DecidableEq, Repr

/-- A sealed store in the cellar: the measurement chain it is sealed under, the vault root it hangs on, its slots. -/
structure VStore where
  written : Bool := false
  mc : List Byte := []
  root : Nat := 0
  slots : FMap VSlot := []
  deriving DecidableEq, Repr

/-- A firmware copy in flash (R455, R456): whether it is marked for boot (R469), whether every component verifies under the firmware
anchor, and its components as (type, version, SHA3-256) in load order. -/
structure FwCopy where
  version : Nat := 0
  svn : Nat := 0
  marked : Bool := true
  verifies : Bool := true
  comps : List (Nat × Nat × List Byte) := []
  deriving DecidableEq, Repr

/-- The SEC block beside the vault's stores, the fuses and VBAT SRAM. -/
structure Sec where
  unsealed : Bool := false
  /-- The vault root was unwrapped in this start, or made in it. -/
  rootIn : Bool := false
  store : Nat := 0
  /-- Neither store opened in this start (R469). -/
  unsealFail : Bool := false
  /-- The chain MC and METRO_MEAS of this start, SEC_FW_VER, the firmware copy that runs, and its components. -/
  mc : List Byte := []
  metro : List Byte := []
  fwVer : Nat := 0
  fwRun : Nat := 0
  /-- The other copy holds a staged package; its declared chain MC'; rewrap complete; second of the activation. -/
  staged : Bool := false
  stagedMc : List Byte := []
  rewrapped : Bool := false
  fwAt : Option Nat := none
  /-- SEC_TAMPER.PRESENT. -/
  present : Nat := 0
  /-- Tampers (source mask, PHASE) and a transition (old and new state) that this start reports at the first event queue (R471). -/
  toReport : List (Nat × Nat) := []
  lcNote : Option (Nat × Nat) := none
  deriving DecidableEq, Repr

/-- Identity fixed at manufacture (R2, R3, R474), and what else differs from part to part. -/
structure Part where
  grade : Nat := 1
  stepLtr : Nat := 0x43
  stepNum : Nat := 0
  lot : List Byte := []
  wafer : Nat := 1
  dieX : Nat := 0
  dieY : Nat := 0
  serial : Word := 0#32
  costLtr : Nat := 0x43
  costNum : Nat := 0
  costRev : Nat := 0
  /-- Reference second carried in the firmware (R56), a second of UTC. DESIGN CHOICE (assumption 205): 2026-01-01. -/
  refSecond : Nat := 1767225600
  /-- The identity certificate that ID_GET returns. -/
  cert : List Byte := []
  deriving DecidableEq, Repr

/-- One-time-programmable fuses: life cycle, tamper enables, security version (R457, R470, R469). -/
structure Fuses where
  lc : Nat := 1
  lcCtr : Nat := 0
  /-- GLB_LC.TLOCK. -/
  tlock : Bool := false
  tamperEn : Nat := 0
  svn : Nat := 0
  deriving DecidableEq, Repr

/-- A tamper log entry (R472, Table 17-14): sources, PHASE, GLB_LC.STATE, RTC time in ns. -/
structure TLog where
  sources : Nat
  phase : Nat
  lc : Nat
  time : Nat
  deriving DecidableEq, Repr

/-- The VBAT domain: KEK, RTC and VBAT SRAM (R461, R494, R472). -/
structure Vbat where
  kek : Bool := true
  rtc : Nat := 0
  rtcValid : Bool := false
  utcOfs : Int := 0
  utcValid : Bool := false
  rstCause : Word := 0x01000000#32
  pfailAt : Option Nat := none
  /-- Newest first, at most 16. -/
  tlog : List TLog := []
  deriving DecidableEq, Repr

/-! ## The cellar -/

/-- A fatal-state dump held in the dump region (Table 18-10): its sequence number, cause, and bytes. -/
structure Dump where
  seq : Nat
  cause : Nat
  complete : Bool
  pfailCut : Bool := false
  raw : List Byte
  deriving DecidableEq, Repr

/-- What the cellar keeps through power loss and resets: latencies and claim numbers, the vault's root and stores and public keys,
metering, billing, parameter values, and dumps. -/
structure Nv where
  /-- λ and CLAIM_HI by stream; the claim committed (R429). -/
  lat : FMap Int := []
  claimHi : FMap Word := []
  claim : Word := 0#32
  /-- MSG_SEQ reservations of the Calfa and the witness messages (R445), and the pairs of a witness (R448). -/
  resC : Nat := 0
  resW : Nat := 0
  wits : FMap Wit := []
  /-- The wrapped vault root by its number, 0 = none; roots made so far; life-cycle state recorded in the vault header. -/
  root : Nat := 0
  roots : Nat := 0
  lcVault : Nat := 1
  ownerKey : List Byte := []
  imageKey : List Byte := []
  /-- The two firmware copies in flash. -/
  fw0 : FwCopy := {}
  fw1 : FwCopy := { marked := false, verifies := false }
  /-- The copy that ran last. -/
  fwLast : Nat := 0
  /-- Tampers (source mask, PHASE) and a transition (old and new state) still to be reported to event queues (R471, Table 17-16). -/
  tampers : List (Nat × Nat) := []
  lcMoved : Option (Nat × Nat) := none
  store0 : VStore := {}
  store1 : VStore := {}
  /-- Metering banks of each point (R300). -/
  bank0 : FMap MBank := []
  bank1 : FMap MBank := []
  /-- Saved bodies that wait to be signed, oldest first; supply-loss bodies; the pending store (R317). -/
  bodies : List BillBody := []
  lossBodies : List BillBody := []
  pend : List BillBody := []
  /-- The billing log by BILL_SEQ, the latest BILL_SEQ, its hash, and records lost since it. -/
  log : FMap BillEnt := []
  billSeq : Nat := 0
  billHash : List Byte := []
  lost : Nat := 0
  /-- The identity that last made records, its measurement; ID_NEW waits for an interval record. -/
  meterId : List Byte := []
  metro : List Byte := []
  idNew : Bool := false
  /-- Parameter values in force with the check word of their image (R392). -/
  pars : FMap Word := []
  parCheck : List Byte := []
  /-- DUMP_SEQ of the latest fatal error, the dump held, the overflow header, counters of Table 18-15 that the cellar keeps, RTC
  seconds of the latest FATAL resets. -/
  dumpSeq : Nat := 0
  dump : Option Dump := none
  overHdr : Option (List Byte) := none
  resets : Word := 0#32
  fatals : Word := 0#32
  pfails : Word := 0#32
  fatalAt : List Nat := []
  deriving DecidableEq, Repr

/-! ## Power (chapter 18) -/

/-- The power states of Table 18-1. -/
inductive PwrState where
  | off
  | batteryStandby
  | sleep
  | starting
  | run
  | shed
  deriving DecidableEq, Repr

/-- The PWR block and the lands PFAIL_N, RESET_N, PERST_N: `waits` says that step 1 of the power-up sequence has not ended (R484), `noFw` that no
firmware copy qualified in this start; `vin` is PWR_VIN, `temp` PWR_TEMP, `startMs` PWR_START_MS; `wake` is WAKE_SEC; `resetAt` the second
of a timed PWR_RESET with its DUMP bit; `vbatPin` says that VBAT is applied. -/
structure Pwr where
  state : PwrState := .starting
  pfailN : Bool := true
  resetN : Bool := true
  perstN : Bool := true
  vbatPin : Bool := true
  waits : Bool := true
  noFw : Bool := false
  vin : Nat := 0
  temp : Int := 0
  startMs : Nat := 0
  wake : Option Nat := none
  resetAt : Option (Nat × Bool) := none
  deriving DecidableEq, Repr

/-! ## The machine -/

/-- The PZ7. -/
structure State where
  /-- The commands that wait, first in, first out. -/
  pending : List Instr := []
  /-- The timebase (chapter 2). -/
  tb : Tb := {}
  /-- Ports and PRP (chapter 3). -/
  eth : Eth := {}
  /-- Stream ingest (chapter 4). -/
  ing : Ing := {}
  /-- Alignment and early pick (chapter 5). -/
  aln : Aln := {}
  /-- Sampled values and local phasors (chapter 6). -/
  svf : Svf := {}
  /-- Oscillation detection (chapter 7). -/
  osc : Osc := {}
  /-- Islanding and comparators (chapter 8). -/
  isl : Isl := {}
  /-- Scheme logic (chapter 9). -/
  sch : Sch := {}
  /-- Disturbance capture (chapter 10). -/
  cap : Cap := {}
  /-- Metering (chapter 11). -/
  mtr : Mtr := {}
  /-- The task scheduler and the arbiter (chapter 13). -/
  tsk : Tsk := {}
  arb : Arb := {}
  /-- Publication and outputs (chapter 12). -/
  pub : Pub := {}
  /-- Images, slots, batches (chapter 14). -/
  cfg : Cfg := {}
  /-- The four functions HP0 to HP3 (chapter 15). -/
  hp : List Fn := [{}, {}, {}, {}]
  /-- The redundant pair (chapter 16). -/
  pair : Pair := {}
  /-- Security (chapter 17). -/
  sec : Sec := {}
  /-- The cellar and flash; the VBAT domain; what the part carries from the factory; the fuses. -/
  nv : Nv := {}
  vbat : Vbat := {}
  part : Part := {}
  fuses : Fuses := {}
  /-- Power (chapter 18). -/
  pwr : Pwr := {}
  /-- Statistics counters (R107) by register offset and window entry. -/
  cnt : FMap Word := []
  /-- When each rate-limited event was last raised (R143 and others), ns. -/
  limits : FMap Nat := []
  /-- The last 4,096 events generated, oldest first (R502), and the number of the newest. -/
  evLog : List Event := []
  evLogSeq : Nat := 0
  /-- The next free value. The model's own: `Config.freeBits` is applied to it. -/
  free : Nat := 0
  deriving DecidableEq, Repr

/-! ## Stops -/

/-- No command of this block stops with a fault: every event that the specification describes has a next state. -/
inductive Fault where
  deriving DecidableEq, Repr

/-- Refusals. -/
inductive Refusal where
  /-- A command without a meaning; no command of this model answers with it. Safe: the model stops where the hardware goes on. -/
  | notModelled (mnemonic : String)
  deriving DecidableEq, Repr

/-! ## Reset -/

/-- The components of the firmware copy that the part leaves the factory with. DESIGN CHOICE (assumption 21). -/
def factoryFw : FwCopy := { comps := [1, 2, 3, 4].map (fun t => (t, 0, List.replicate 32 0#8)) }

/-- The module right after a reset with cause POWER_ON (R485, Table 18-7): status code 0b000, the power-up sequence still to run. The
cellar and the fuses are those of a part in life-cycle state MANUFACTURE. DESIGN CHOICE (assumption 21). -/
def State.reset : State := { nv := { fw0 := factoryFw } }

end Sys2Proof.Machine
end

