-- ==== Sys2Proof/Machine/Image.lean ====
section
/-!
DEFINITION. Sys2Proof/Machine/Image.lean: reading an image (chapter 14): sections, records, fields, the values of the registers
marked "image" and factory defaults.
-/
namespace Sys2Proof.Machine

/-! ## Section types (Table 14-3) -/

def secREGS : Nat := 0x0001
def secPARTITION : Nat := 0x0002
def secPRP_SRC : Nat := 0x0003
def secHOST_ROUTE : Nat := 0x0004
def secSTATION : Nat := 0x0008
def secCGRP_AREA : Nat := 0x0009
def secAREA : Nat := 0x000A
def secSTREAM_DIR : Nat := 0x0010
def secCHANNEL : Nat := 0x0011
def secGROUP : Nat := 0x0012
def secVOTE : Nat := 0x0013
def secVOTE_MEMB : Nat := 0x0014
def secSV_SUB : Nat := 0x0020
def secSV_SLOT : Nat := 0x0021
def secBAY : Nat := 0x0022
def secOSC_SIGNAL : Nat := 0x0030
def secOSC_LAYOUT : Nat := 0x0031
def secOSC_MODE : Nat := 0x0032
def secOSC_MEMB : Nat := 0x0033
def secOSC_ALARM : Nat := 0x0034
def secISL_SIGNAL : Nat := 0x0040
def secISL_CGRP : Nat := 0x0041
def secISL_PAIR : Nat := 0x0042
def secISL_TIE : Nat := 0x0043
def secISL_CMP : Nat := 0x0044
def secSCH_TASK : Nat := 0x0050
def secSCH_ELEM : Nat := 0x0051
def secSCH_OPND : Nat := 0x0052
def secSCH_STATION : Nat := 0x0053
def secSCH_DATASET : Nat := 0x0054
def secSCH_POINT : Nat := 0x0055
def secSCH_PARAM : Nat := 0x0056
def secSCH_DSENT : Nat := 0x0057
def secCAP_REC : Nat := 0x0060
def secCAP_CHAN : Nat := 0x0061
def secCAP_COND : Nat := 0x0062
def secMTR_POINT : Nat := 0x0068
def secMTR_PULSE : Nat := 0x0069
def secOUT_STREAM : Nat := 0x0070
def secOUT_BLOCK : Nat := 0x0071
def secOUT_SOURCE : Nat := 0x0072
def secGOOSE : Nat := 0x0073
def secDO : Nat := 0x0074
def secBUDGET : Nat := 0x00A0
def secNAME : Nat := 0x00F0

/-! ## Records -/

/-- The records of section `t`; a missing section has none (R373). -/
def imRecs (im : Image) (t : Nat) : List (List Word) :=
  match im.sects.find? (fun x => x.typ == t) with
  | some x => x.recs
  | none => []

/-- The number of records of section `t`. -/
def imCount (im : Image) (t : Nat) : Nat := (imRecs im t).length

/-- Record `n` of section `t`; an index at or above NREC reads as all zero, so VALID = 0 (R373). -/
def imRec (im : Image) (t n : Nat) : List Word := (imRecs im t).getD n []

/-- Word `w` of record `n` of section `t`. -/
def imWord (im : Image) (t n w : Nat) : Word := (imRec im t n).getD w 0#32

/-- Bits `hi:lo` of word `w` of record `n` of section `t`. -/
def imFld (im : Image) (t n w hi lo : Nat) : Nat := fld (imWord im t n w) hi lo

/-- Bit `i` of word `w` of record `n` of section `t`. -/
def imBit (im : Image) (t n w i : Nat) : Bool := bit (imWord im t n w) i

/-- The indexes of the records of section `t` whose bit 31 of word 0 (VALID) is 1. -/
def imValid (im : Image) (t : Nat) : List Nat :=
  (List.range (imCount im t)).filter (fun n => imBit im t n 0 31)

/-- The name of kind `k` and index `i` in the NAME section (R382). -/
def imName (im : Image) (k i : Nat) : List Byte :=
  match im.names.find? (fun e => e.kind == k && e.index == i) with
  | some e => e.text
  | none => []

/-! ## Registers marked "image" (R374) -/

/-- A register that REGS loads: its offset, its default, and the mask of its bits that are not reserved. -/
structure ImgReg where
  off : Nat
  dflt : Word
  mask : Word
  deriving DecidableEq, Repr

/-- The registers that REGS loads: the TB block, the ETH port and PRP pages, and the ING, SVF, CAP, ISL, TSK, PAIR and PWR
blocks. -/
def imgRegs : List ImgReg :=
  [⟨0x010008, 0x0A000000#32, 0xFF000FFF#32⟩, ⟨0x01000C, 0x03E80032#32, 0xFFFF003F#32⟩,
   ⟨0x01004C, 0x00000FF0#32, 0xFFFFFFFF#32⟩, ⟨0x010064, 0x00000008#32, 0x000000FF#32⟩,
   ⟨0x010068, 0x00000400#32, 0x8000FFFF#32⟩, ⟨0x01006C, 0x000A0001#32, 0xFFFFFFFF#32⟩] ++
  (List.range 14).flatMap (fun n =>
    [⟨0x020000 + 0x1000 * n, if n = 13 then 0x9000F000#32 else 0x17C8F000#32, 0xFFFCF807#32⟩, ⟨0x02000C + 0x1000 * n, 0xFFFF4B32#32, 0xFFFFFFFF#32⟩,
     ⟨0x020010 + 0x1000 * n, 0x00000004#32, 0x0000000F#32⟩, ⟨0x020014 + 0x1000 * n, 0#32, 0xFFFFFFFF#32⟩,
     ⟨0x020018 + 0x1000 * n, 0#32, 0x0000FFFF#32⟩]) ++
  (List.range 6).map (fun p => ⟨0x02E000 + 0x40 * p, 0#32, 0x800000FF#32⟩) ++
  [⟨0x0B000C, 0#32, 0xC0000000#32⟩, ⟨0x0B0010, 0x00001C8F#32, 0xFF3FFFFF#32⟩, ⟨0x0B0014, 0#32, 0xFFFFFFFF#32⟩,
   ⟨0x0B0018, 0x00000258#32, 0xFF80FFFF#32⟩, ⟨0x0E0010, 0#32, 0xFFFF0000#32⟩,
   ⟨0x040008, 0x3C040000#32, 0xFFFF0000#32⟩, ⟨0x04000C, 0x0000FFFF#32, 0x0000FFFF#32⟩, ⟨0x040010, 0#32, 0xFFFFFFFF#32⟩,
   ⟨0x07000C, 0x20000000#32, 0xFFC00000#32⟩] ++
  (List.range 4).map (fun i => ⟨0x090040 + 4 * i, 0x003C0000#32, 0x80FFFF00#32⟩) ++
  [⟨0x110000, 0#32, 0xFFF00000#32⟩, ⟨0x110014, 0#32, 0xFFFFFFFF#32⟩, ⟨0x110018, 0x1C981C99#32, 0xFFFFFFFF#32⟩,
   ⟨0x11001C, 0xF0000000#32, 0xFFFF1FFF#32⟩] ++
  (List.range 8).map (fun i => ⟨0x110020 + 4 * i, 0#32, 0xFFFFFFFF#32⟩) ++
  (List.range 32).flatMap (fun n => [⟨0x110200 + 8 * n, 0#32, 0x9FF00000#32⟩, ⟨0x110204 + 8 * n, 0#32, 0xFFFFFFFF#32⟩]) ++
  [⟨0x13000C, 0x3005C000#32, 0xFFFFC000#32⟩]

/-- The value that vintage `im` gives the image register at `off`. -/
def imgReg (im : Image) (off : Nat) : Word :=
  match (imRecs im secREGS).find? (fun r => (r.getD 0 0#32).toNat == off) with
  | some r => r.getD 1 0#32
  | none => match imgRegs.find? (fun x => x.off == off) with
    | some x => x.dflt
    | none => 0#32

/-- Factory defaults (R385): SVC in SGMII 1000 Mb/s mode with MAXLEN 1,522, HP0 valid with IMG_LOAD and MTR_ADMIN, and
nothing else; the tick is that of 50 Hz (R487). -/
def factoryImage : Image :=
  { vintage := 0, f0 := 50,
    sects := [⟨secREGS, [[0x2C000#32, 0x17C8F005#32]]⟩,
      ⟨secPARTITION, [[0xE0000000#32], [0#32], [0#32], [0#32]]⟩] }

end Sys2Proof.Machine
end

