-- ==== Sys2Proof/Machine/Ops.lean ====
section
/-!
DEFINITION. Sys2Proof/Machine/Ops.lean: the operations that every block shares: byte memories, partition rights, flags and
registers kept per function, statistics counters (R107), events (R408 to R411) and time.
-/
namespace Sys2Proof.Machine

/-! ## Byte memories -/

/-- What a byte of a module memory that nothing has written reads as. DESIGN CHOICE (assumption 2). -/
def memDefault : Byte := 0#8

/-- The byte at `a`. -/
def memRead1 : List Host.Cell → Nat → Byte
  | [], _ => memDefault
  | (i, b) :: m, a => if i = a then b else if a < i then memDefault else memRead1 m a

/-- The memory with `b` put in at `a`; a byte equal to what an unlisted address reads as is not listed. -/
def memWrite1 : List Host.Cell → Nat → Byte → List Host.Cell
  | [], a, b => if b = memDefault then [] else [(a, b)]
  | (i, c) :: m, a, b =>
    if i = a then (if b = memDefault then m else (a, b) :: m)
    else if a < i then (if b = memDefault then (i, c) :: m else (a, b) :: (i, c) :: m)
    else (i, c) :: memWrite1 m a b

/-- `n` bytes from address `a`. -/
def memRead (m : List Host.Cell) : Nat → Nat → List Byte
  | _, 0 => []
  | a, n + 1 => memRead1 m a :: memRead m (a + 1) n

/-- The bytes `bs` written from address `a`. -/
def memWrite : List Host.Cell → Nat → List Byte → List Host.Cell
  | m, _, [] => m
  | m, a, b :: bs => memWrite (memWrite1 m a b) (a + 1) bs

/-- Addresses rise strictly from `lo`, and no entry holds the default byte. -/
def memWfFrom : Nat → List Host.Cell → Bool
  | _, [] => true
  | lo, (i, b) :: m => decide (lo ≤ i) && b != memDefault && memWfFrom (i + 1) m

/-- The canonical form of a byte memory. -/
def memWf (m : List Host.Cell) : Bool := memWfFrom 0 m

/-! ## Outcomes -/

/-- What every meaning answers. -/
abbrev Out := Host.Outcome State Fault Refusal

/-- VIO, which V33_OUT carries, is present in RUN and STARTING; it has fallen from the PFAIL warning on (R509). -/
def vioOn (s : State) : Bool := s.pwr.state == .run || s.pwr.state == .starting

/-- A push-pull land with output level `b` is high: a released or unpowered one is not (R509, Table 19-4). -/
def landHigh (s : State) (b : Bool) : Bool := vioOn s && b

/-- The engines have supply and clock: the power state is STARTING or RUN (Table 18-1, R490, R499). In every other power
state a happening of a stopped part does not come about, and the state stays as it is. -/
def alive (s : State) : Bool := s.pwr.state == .starting || s.pwr.state == .run

/-- A happening of the running module. -/
def act (s : State) (f : State → State) : Out := .next (if alive s then f s else s)

/-- Apply `f` when `c` holds. -/
def whenS (c : Bool) (f : State → State) (s : State) : State := if c then f s else s

/-! ## Free values -/

/-- The next free value of `w` bits, and the state after it was drawn. -/
def fresh (w : Nat) (s : State) : BitVec w × State :=
  ((Config.freeBits s.free).setWidth w, { s with free := s.free + 1 })

/-! ## Functions, registers and flags -/

/-- Function `n`; a number above 3 names none and reads as a function with nothing in it. -/
def fnOf (s : State) (n : Nat) : Fn := s.hp.getD n {}

/-- Change function `n`. -/
def modFn (s : State) (n : Nat) (f : Fn → Fn) : State := { s with hp := s.hp.modify n f }

/-- The reset value of a register kept per function (Table 15-10 and the ring pages); 0 for every other. -/
def fnReset (off : Nat) : Word :=
  if off = 0x100014 then 0xFFFFFFFF#32
  else if off = 0x100048 || off = 0x100068 then 0x4#32
  else if off = 0x100088 then 0x206#32
  else if off = 0x1000C8 then 0x214#32
  else if 0x100400 ≤ off ∧ off < 0x100500 ∧ off % 0x20 = 8 then 0x226#32
  else if 0x100500 ≤ off ∧ off < 0x100580 ∧ off % 0x20 = 8 then 0x206#32
  else 0#32

/-- A register of function `n` at BAR0 offset `off`. -/
def fnReg (s : State) (n off : Nat) : Word := fgetD (fnOf s n).regs off (fnReset off)

/-- Write a register of function `n`. -/
def setFnReg (s : State) (n off : Nat) (v : Word) : State := modFn s n (fun f => { f with regs := fset f.regs off v })

/-- Set bit `b` of the W1C register `off` of function `n`. -/
def setFlag1 (s : State) (n off b : Nat) : State := setFnReg s n off (setBit (fnReg s n off) b true)

/-- Set bit `b` of the W1C register `off` in every function's copy. -/
def setFlag (s : State) (off b : Nat) : State :=
  setFlag1 (setFlag1 (setFlag1 (setFlag1 s 0 off b) 1 off b) 2 off b) 3 off b

/-- Raise the RC field `off`, window index `win`, to at least `v` in every function's copy (R9). -/
def rcMax (s : State) (off win v : Nat) : State :=
  let up := fun (w : Word) => if w.toNat < v then BitVec.ofNat 32 v else w
  { s with hp := s.hp.map (fun f => { f with rc := fmod f.rc (off * 65536 + win) 0#32 up }) }

/-! ## Rights (R376, R399 to R401, Table 15-1) -/

/-- Word `w` of the partition record of function `n`, active vintage. -/
def partWord (s : State) (n w : Nat) : Word := imWord s.cfg.active secPARTITION n w

/-- The partition is valid. -/
def validFn (s : State) (n : Nat) : Bool := decide (n < 4) && bit (partWord s n 0) 31

/-- IMG_LOAD. -/
def imgLoad (s : State) (n : Nat) : Bool := validFn s n && bit (partWord s n 0) 30

/-- MTR_ADMIN. -/
def mtrAdmin (s : State) (n : Nat) : Bool := validFn s n && bit (partWord s n 0) 29

/-- TUNE_TASK of task `t`. -/
def tuneTask (s : State) (n t : Nat) : Bool := validFn s n && decide (t < 16) && bit (partWord s n 0) t

/-- READ of group `g`. -/
def readGroup (s : State) (n g : Nat) : Bool :=
  validFn s n && (if g < 32 then bit (partWord s n 1) g else decide (g < 64) && bit (partWord s n 2) (g - 32))

/-- The partition may see an object tied to these groups. -/
def readGroups (s : State) (n : Nat) (gs : List Nat) : Bool := imgLoad s n || gs.all (readGroup s n)

/-! ## Block bases (Table 1-2) -/

def GLB : Nat := 0x000000
def TB : Nat := 0x010000
def ETH : Nat := 0x020000
def ING : Nat := 0x040000
def ALN : Nat := 0x060000
def SVF : Nat := 0x070000
def OSC : Nat := 0x080000
def ISL : Nat := 0x090000
def SCH : Nat := 0x0A0000
def CAP : Nat := 0x0B0000
def MTR : Nat := 0x0C0000
def PUB : Nat := 0x0D0000
def TSK : Nat := 0x0E0000
def ARB : Nat := 0x0E8000
def CFG : Nat := 0x0F0000
def HIF : Nat := 0x100000
def PAIR : Nat := 0x110000
def SEC : Nat := 0x120000
def PWR : Nat := 0x130000

/-- The base of the block that holds a BAR0 offset (Table 1-2). -/
def blockBase (off : Nat) : Nat :=
  if 0x020000 ≤ off ∧ off < 0x040000 then ETH else if 0x040000 ≤ off ∧ off < 0x060000 then ING
  else off - off % 0x10000

/-- The event block code (CODE bits 15:8) of the block that holds a counter. -/
def blockCode (off : Nat) : Nat :=
  let b := blockBase off
  if b = TB then 2 else if b = ETH then 3 else if b = ING then 4 else if b = ALN then 5 else if b = SVF then 6
  else if b = OSC then 7 else if b = ISL then 8 else if b = SCH then 9 else if b = CAP then 0xA else if b = MTR then 0xB
  else if b = PUB then 0xC else if b = TSK then 0xD else if b = CFG then 0xE else if b = HIF then 0xF
  else if b = PAIR then 0x10 else if b = SEC then 0x11 else if b = PWR then 0x12 else 0

/-! ## Time -/

/-- The image's nominal frequency. -/
def f0 (s : State) : Nat := s.cfg.active.f0

/-- Ticks in a second. -/
def tps (s : State) : Nat := 1024 * f0 s

/-- Grid time runs: TB_STAT.STATE is LOCKED or HOLDOVER. -/
def hasTime (s : State) : Bool := s.tb.state != .notime

/-- The nanosecond at which grid tick index `g` begins, ties rounded up (R48). -/
def gridNs (s : State) (g : Nat) : Nat := roundDiv (g * 1000000000) (tps s)

/-- The latest grid tick index at or before TAI instant `ns`. -/
def nsGrid (s : State) (ns : Nat) : Nat :=
  let g := ns * tps s / 1000000000
  if gridNs s (g + 1) ≤ ns then g + 1 else g

/-- The tick counter at grid tick index `g`. -/
def tickAt (s : State) (g : Nat) : Nat := s.tb.tick + g - s.tb.grid

/-- The tick by which an alarm departs whose path starts at instant `ns`: 64 tk (R31, R32, Table 1-5). -/
def alarmDue (s : State) (ns : Nat) : Nat := tickAt s (nsGrid s ns) + 64

/-- The module's UTC second of TAI second `sec` (R46). -/
def utcOf (s : State) (sec : Nat) : Int := (sec : Int) - s.tb.ofs

/-- The present TAI second. -/
def taiSec (s : State) : Nat := s.tb.now / 1000000000

/-- The latest instant known is `ns` or later. -/
def seen (ns : Nat) (s : State) : State := { s with tb := { s.tb with now := max s.tb.now ns } }

/-! ## Events (R408 to R411) -/

/-- The event queue of function `n` is enabled. -/
def evqOn (s : State) (n : Nat) : Bool := bit (fnReg s n 0x100088) 31

/-- An event goes to partition `n` (R408, R420). -/
def eligible (s : State) (n code : Nat) (o : EvObj) : Bool :=
  validFn s n && evqOn s n && (code / 256 == 0xF || bit (fnReg s n 0x100014) (code / 256)) &&
  match o with
  | .all => true
  | .groups gs => readGroups s n gs
  | .mask m => Nat.testBit m n
  | .fnOnly k => n == k

/-- An interrupt source of function `n` becomes pending (R417). -/
def irqPend (n src : Nat) (s : State) : State :=
  modFn s n (fun f => { f with irq := fmod f.irq src {} (fun q => { q with pend := true }) })

/-- Add an event to the waiting events of function `n`. -/
def addEvent (ev : Event) (n : Nat) (s : State) : State :=
  modFn s n (fun f => { f with
    evWait := f.evWait ++ [{ ev := ev, gen := f.evGen, born := s.tb.tick }], evGen := f.evGen + 1 })

/-- Generate an event of order block `blk` (R411): to the module's log of the last 4,096 events, and to every partition
that R408 names. -/
def raiseIn (blk code : Nat) (o : EvObj) (arg : List Byte) (s : State) : State :=
  let ev : Event := { code := code, blk := blk, ts := if hasTime s then some s.tb.now else none, arg := arg }
  let s := { s with evLog := lastN 4096 (s.evLog ++ [ev]), evLogSeq := s.evLogSeq + 1 }
  [0, 1, 2, 3].foldl (fun s n => if eligible s n code o then addEvent ev n s else s) s

/-- Generate an event of the block that CODE bits 15:8 name. -/
def raise (code : Nat) (o : EvObj) (arg : List Byte) (s : State) : State := raiseIn (code / 256) code o arg s

/-- Raise an event at most once per second for each `key`. -/
def raiseLimited (key code : Nat) (o : EvObj) (arg : List Byte) (s : State) : State :=
  match fget? s.limits key with
  | some t => if s.tb.now < t + 1000000000 then s
    else raise code o arg { s with limits := fset s.limits key s.tb.now }
  | none => raise code o arg { s with limits := fset s.limits key s.tb.now }

/-! ## Statistics counters (R107) -/

/-- The half-range flag of the counter at BAR0 offset `off`: its register and bit. TB and windowed counters have none. -/
def halfFlag (off : Nat) : Option (Nat × Nat) :=
  if 0x02E000 ≤ off ∧ off < 0x02F000 then
    let p := off - off % 0x40
    some (p + 0xC, (off - p - 0x10) / 4)
  else if ETH ≤ off ∧ off < 0x02E000 then
    let p := off - off % 0x1000
    some (p + 0x1C, (off - p - 0x100) / 4)
  else if 0x0E8300 ≤ off ∧ off < 0x0E8400 then some (0x0E8008, (off - 0x0E8300) / 4)
  else
    let b := blockBase off
    if off < b + 0x300 ∨ b + 0x380 ≤ off then none
    else
      let k := (off - b - 0x300) / 4
      if b = ING then some (b + 0x14, k)
      else if b = OSC ∨ b = ISL ∨ b = SCH ∨ b = PAIR then some (b + 0xC, k)
      else if b = HIF then some (b + 0x10, k)
      else if b = TB ∨ b = GLB then none
      else some (b + 0x8, k)

/-- The ARG of STAT_EV_HALF (R409). -/
def halfArg (off win : Nat) : List Byte := leBytes 4 (blockBase off) ++ leBytes 4 (off - blockBase off) ++ leBytes 2 win

/-- A module counter passes 0x8000_0000. -/
def halfRange (off win : Nat) (o : EvObj) (s : State) : State :=
  let s := raiseIn (blockCode off) 0x0310 o (halfArg off win) s
  match halfFlag off with
  | some (r, b) => setFlag s r b
  | none => s

/-- Level queue `l` of engine `e` takes an item (R354). Its depth is fixed and not stated (assumption 28). -/
def queueRoom (s : State) (e l : Nat) : Bool :=
  let q := s.tsk.items.filter (fun i => i.st == 1 && i.engine == e && i.level == l)
  q.isEmpty || decide (q.length ≤ Config.levelDepth e l)

/-- The counter at `off`, window `win`, has counted one from `old`. -/
def halfAt (off win : Nat) (old : Word) (s : State) : State := if old = 0x7FFFFFFF#32 then halfRange off win .all s else s

/-- The key of a counter: its BAR0 offset and window index (0xFFFF outside a window). -/
def ctrKey (off win : Nat) : Nat := off * 65536 + win

/-- A module-wide counter's value. -/
def counter (s : State) (off win : Nat) : Word := fgetD s.cnt (ctrKey off win) 0#32

/-- Count one in the counter at `off`, window `win`, whose half-range event is about `o`. -/
def countW (off win : Nat) (o : EvObj) (s : State) : State :=
  let v := counter s off win
  let s := { s with cnt := fset s.cnt (ctrKey off win) (v + 1#32) }
  if v = 0x7FFFFFFF#32 then halfRange off win o s else s

/-- Count one in an unwindowed counter. -/
def count (off : Nat) (s : State) : State := countW off 0xFFFF .all s

/-- Count `n` in a counter. -/
def countN (off win n : Nat) (o : EvObj) (s : State) : State :=
  let v := (counter s off win).toNat
  let s := { s with cnt := fset s.cnt (ctrKey off win) (BitVec.ofNat 32 (v + n)) }
  if v < 0x80000000 ∧ 0x80000000 ≤ v + n then halfRange off win o s else s

/-- Set a flag bit in every function and count one in an unwindowed counter. -/
def flagCount (reg b off : Nat) (s : State) : State := count off (setFlag s reg b)

/-- Count one in a HIF counter of function `n`; a ring page's counter carries its ring code (R419). -/
def countFn (n off win : Nat) (s : State) : State :=
  let v := fgetD (fnOf s n).ctr off 0#32
  let s := modFn s n (fun f => { f with ctr := fset f.ctr off (v + 1#32) })
  if v = 0x7FFFFFFF#32 then
    let s := raiseIn 0xF 0x0310 (.fnOnly n) (halfArg off win) s
    match halfFlag off with
    | some (r, b) => setFlag1 s n r b
    | none => s
  else s

/-- Set HIF_FLAGS bit `b` of function `n`; source 15 becomes pending. -/
def hifFlag (n b : Nat) (s : State) : State := irqPend n 15 (setFlag1 s n 0x10000C b)

end Sys2Proof.Machine
end

