-- ==== Sys2Proof/Machine/Ethernet.lean ====
section
/-!
DEFINITION. Sys2Proof/Machine/Ethernet.lean: ports, receive checks, transmission, pause and PRP (chapter 3).
-/
namespace Sys2Proof.Machine

/-! ## Port pages -/

/-- The page of port `n` (Table 3-1). -/
def portBase (n : Nat) : Nat := ETH + 0x1000 * n

/-- The page of PRP pair `p` (Table 3-8). -/
def prpBase (p : Nat) : Nat := ETH + 0xE000 + 0x40 * p

def portOf (s : State) (n : Nat) : Port := fgetD s.eth.ports n {}

def modPort (n : Nat) (f : Port → Port) (s : State) : State :=
  { s with eth := { s.eth with ports := fmod s.eth.ports n {} f } }

/-- ETH_CFG of a port in vintage `im`. -/
def portCfg (im : Image) (n : Nat) : Word := imgReg im (portBase n)

/-- MAXLEN of a port (Table 3-1). -/
def maxLen (s : State) (n : Nat) : Nat := fld (portCfg s.cfg.active n) 31 18

/-- The port's mode; 0 is disabled. -/
def portMode (s : State) (n : Nat) : Nat := fld (portCfg s.cfg.active n) 2 0

/-- Speed of a mode, Mb/s. A disabled port counts as one of 1,000 Mb/s, which decides with what it may be paired. DESIGN CHOICE
(assumption 208). -/
def modeSpeed (m : Nat) : Nat := if m = 1 ∨ m = 2 then 25000 else if m = 3 then 10000 else if m = 6 then 100 else 1000

/-- Receive buffer size of a port in KiB (Table 3-6). -/
def bufKib (n : Nat) : Nat := if n < 8 then 256 else if n < 12 then 64 else if n = 12 then 32 else 512

/-- Count one in a port counter (Table 3-7). -/
def ethCount (n off : Nat) (s : State) : State := count (portBase n + off) s

/-- Set a bit of ETH_FLAGS of a port in every function. -/
def ethFlag (n b : Nat) (s : State) : State := setFlag s (portBase n + 8) b

/-- Count one in a counter of a pair page. -/
def prpCount (p off : Nat) (s : State) : State := count (prpBase p + off) s

/-! ## PRP pairs (R98, R522) -/

/-- Pair `p` exists. -/
def pairOn (im : Image) (p : Nat) : Bool := bit (imgReg im (prpBase p)) 31

/-- Members of pair `p`: LAN A is the lower-numbered port. -/
def pairA (im : Image) (p : Nat) : Nat := min (fld (imgReg im (prpBase p)) 3 0) (fld (imgReg im (prpBase p)) 7 4)

def pairB (im : Image) (p : Nat) : Nat := max (fld (imgReg im (prpBase p)) 3 0) (fld (imgReg im (prpBase p)) 7 4)

/-- The pair of which a port is a member. -/
def pairOf (im : Image) (n : Nat) : Option Nat :=
  (List.range 6).find? (fun p => pairOn im p && (pairA im p == n || pairB im p == n))

/-- Ports `p` and `q` are one port or the two members of one pair: a connection over the pair uses both (R104). -/
def samePort (im : Image) (p q : Nat) : Bool := p == q || (pairOf im p).any (fun k => pairA im k == q || pairB im k == q)

/-- The port mask by which a connection on port `p` sends: both members of its pair (R104). -/
def connMask (im : Image) (p : Nat) : Nat :=
  match pairOf im p with
  | some k => 2 ^ pairA im k + 2 ^ pairB im k
  | none => 2 ^ p

/-- The MAC address of a PRP_SRC record, byte 0 most significant. -/
def prpSrcMac (r : List Word) : Nat := beNat ((bytesLE r).take 6)

/-- The image declares source `mac` on pair `p` (R100). -/
def prpDeclared (im : Image) (p mac : Nat) : Bool :=
  (imRecs im secPRP_SRC).any (fun r => bit (r.getD 1 0#32) 23 && fld (r.getD 1 0#32) 18 16 == p && prpSrcMac r == mac)

/-! ## Write-back of host frames (R415) -/

/-- The 32-byte write-back of the first descriptor of a host frame (Table 15-7). -/
def txWriteBack (t : TxHost) : List Byte :=
  let ts := match (t.deps.mergeSort (fun a b => decide (a.1 ≤ b.1))).head? with
    | some d => if Nat.testBit t.flags 4 then tsLE d.2 else zeros 12
    | none => zeros 12
  leBytes 8 t.addr ++ leBytes 2 t.len0 ++ leBytes 1 (t.flags % 128 + 128) ++ leBytes 1 t.status ++ leBytes 2 t.mask ++
    zeros 2 ++ ts ++ zeros 4

/-- Write back a host frame that is done; SENT or DISCARD of its ring counts (R415). -/
def txHostWb (fn : Nat) (t : TxHost) (s : State) : State :=
  let s := modFn s fn (fun f => { f with txWb := fset f.txWb (t.ring * 65536 + t.first) (txWriteBack t) })
  irqPend fn (10 + t.ring) (countFn fn (HIF + 0x500 + 0x20 * t.ring + (if t.status = 0 then 0x14 else 0x18)) (0x20 + t.ring) s)

/-- Host frame `id` of function `fn` has left port `port` (`dep`), or was not sent there for `status`. -/
def txHostDone (fn id port status : Nat) (dep : Option Nat) (s : State) : State :=
  match takeFirst (fun t => t.id == id) (fnOf s fn).txWait with
  | none => s
  | some (t, rest) =>
    let t := { t with left := t.left.filter (· != port), status := max t.status status,
                      deps := match dep with
                        | some d => t.deps ++ [(port, d)]
                        | none => t.deps }
    if t.left.isEmpty then txHostWb fn t (modFn s fn (fun f => { f with txWait := rest }))
    else modFn s fn (fun f => { f with txWait := f.txWait.map (fun x => if x.id == id then t else x) })

/-! ## Transmission (R91, R92, R104) -/

/-- A pause frame of the module. -/
def isPauseTx (t : TxFrame) : Bool :=
  match t.body with
  | .pause _ _ => true
  | _ => false

/-- One frame for port `n` is not sent: TX_DISCARD and TX_DISC; a host frame is reported. -/
def discardTx (n : Nat) (t : TxFrame) (s : State) : State :=
  let s := ethFlag n 2 (ethCount n 0x138 s)
  match t.body with
  | .host fn id => txHostDone fn id n 3 none s
  | _ => s

/-- The frames that wait for port `n` and satisfy `c` are discarded. -/
def discardIf (c : TxFrame → Bool) (n : Nat) (s : State) : State :=
  let q := (portOf s n).txq
  (q.filter c).foldl (fun s t => discardTx n t s) (modPort n (fun p => { p with txq := q.filter (fun t => !c t) }) s)

/-- Every frame that waits for port `n` is discarded. -/
def discardAll (n : Nat) (s : State) : State := discardIf (fun _ => true) n s

/-- SVC and the Calfa link, which no arbiter grants (Table 13-5), begin the frame at the head of their buffer when none is in progress; a received
pause holds back all but pause frames (R93, R97). -/
def beginFree (n : Nat) (s : State) : State :=
  if n < 12 then s
  else modPort n (fun p => match p.cur, p.txq with
    | none, t :: l => if p.linkUp && (p.pauseEnd.isNone || isPauseTx t) then { p with cur := some t, txq := l } else p
    | _, _ => p) s

/-- The frame's stage deadline lies at or before the present tick, or it has none. -/
def txDue (s : State) (t : TxFrame) : Bool :=
  match t.due with
  | some d => decide (d ≤ s.tb.tick)
  | none => true

/-- Put a frame into a port's transmit buffer. A frame longer than MAXLEN is discarded; a shorter one than 64 bytes is padded (R91). A
frame for a port without a link is discarded at its stage deadline (Table 1-6); one of no bounded path has none and is discarded at
once. DESIGN CHOICE (assumption 25). -/
def enqueue1 (n : Nat) (body : TxBody) (len : Nat) (rct : Option TxRct) (due : Option Nat) (s : State) : State :=
  let t : TxFrame := { id := s.eth.txId, body := body, len := max 64 len, rct := rct, due := due, born := s.tb.tick }
  let s := { s with eth := { s.eth with txId := s.eth.txId + 1 } }
  if decide (maxLen s n < t.len) || (!(portOf s n).linkUp && txDue s t) then discardTx n t s
  else beginFree n (modPort n (fun p => { p with txq := p.txq ++ [t] }) s)

/-- The frame carries an 802.1Q tag. -/
def bodyTagged (s : State) (b : TxBody) : Bool :=
  let im := s.cfg.active
  match b with
  | .out n _ _ _ => imFld im secOUT_STREAM n 3 27 16 != 0
  | .outRsv n _ _ _ _ => imFld im secOUT_STREAM n 3 27 16 != 0
  | .goose _ m => imFld im secGOOSE m.gp 6 27 16 != 0
  | .srcCmd n _ _ _ => imFld im secSTREAM_DIR n 7 27 16 != 0
  | .udp _ _ vlan _ => vlan != 0
  | .host fn id => (fnOf s fn).txWait.any (fun t => t.id == id && t.tagged)
  | _ => false

/-- A frame on pair `p`: both members carry the pair's next sequence number, their LanId and the LSDUsize (R104): the bytes from behind the
addresses, tag and EtherType to the end of the trailer. PRESUMED of IEC 62439-3 (assumption 26). -/
def enqueuePair (p : Nat) (body : TxBody) (len : Nat) (due : Option Nat) (s : State) : State :=
  let q := fgetD s.eth.prpSeq p 0
  let size := max 64 (len + 6) - (if bodyTagged s body then 22 else 18)
  let rct := fun (b : Bool) => some { seq := q, lanB := b, size := size }
  let s := { s with eth := { s.eth with prpSeq := fset s.eth.prpSeq p ((q + 1) % 65536) } }
  let s := enqueue1 (pairA s.cfg.active p) body (len + 6) (rct false) due s
  enqueue1 (pairB s.cfg.active p) body (len + 6) (rct true) due s

/-- A frame for every port of a mask: a pair that the mask holds whole carries it with a trailer, every other port without. A mask that holds one
member of a pair sends on that member without a trailer: R415 says so of host frames, of the module's own it is a DESIGN CHOICE
(assumption 207). -/
def enqueueMask (mask : Nat) (body : TxBody) (len : Nat) (due : Option Nat) (s : State) : State :=
  let im := s.cfg.active
  let pairs := (List.range 6).filter (fun p => pairOn im p && Nat.testBit mask (pairA im p) && Nat.testBit mask (pairB im p))
  let inPair := fun n => pairs.any (fun p => pairA im p == n || pairB im p == n)
  let s := pairs.foldl (fun s p => enqueuePair p body len due s) s
  ((List.range 13).filter (fun n => Nat.testBit mask n && !inPair n)).foldl
    (fun s n => enqueue1 n body len none due s) s

/-- Bytes on the wire of a datagram with `n` bytes of payload. -/
def ipLen (dst vlan n : Nat) (tcp : Bool) : Nat :=
  18 + (if vlan = 0 then 0 else 4) + (if dst / 2 ^ 32 = 0xFFFF then 20 else 40) + (if tcp then 20 else 8) + n

/-- A pause frame goes ahead of every waiting frame (R97). -/
def sendPause (n quanta ns : Nat) (s : State) : State :=
  let t : TxFrame := { id := s.eth.txId, body := .pause quanta ns, len := 64, born := s.tb.tick }
  let s := { s with eth := { s.eth with txId := s.eth.txId + 1 } }
  beginFree n (modPort n (fun p => { p with txq := t :: p.txq, xoff := quanta != 0, xoffAt := ns }) s)

/-- Pause transmission is enabled on a port (R97). -/
def pauseTxOn (s : State) (n : Nat) : Bool := n != 13 && bit (portCfg s.cfg.active n) 11

/-- A PTP event message. -/
def ptpEvent (k : PtpKind) : Bool := k == .sync || k == .pdelayReq || k == .pdelayResp

/-- Octet counting with the remainder carried (R109). -/
def octets (n off rem len : Nat) (s : State) : State := countN (portBase n + off) 0xFFFF ((rem + len) / 64) .all s

/-- The 16-bit words of `k` bytes of a number. -/
def wordSum (k n : Nat) : Nat := sumN ((List.range (k / 2)).map (fun i => n / 65536 ^ i % 65536))

/-- The words of originTimestamp (48-bit seconds, 32-bit nanoseconds) and of correctionField. -/
def ptpWords (m : PtpTx) : Nat :=
  wordSum 6 (m.origin / 1000000000) + wordSum 4 (m.origin % 1000000000) + wordSum 8 m.corr

/-- The two bytes that keep the UDP checksum correct for the contents as inserted (R76): in one's complement, the words as inserted and
these bytes sum to the words as they stood when the checksum was sent. -/
def udpTail (old new : PtpTx) : Nat := (ptpWords old + 65535 * (ptpWords new + 1) - ptpWords new) % 65535

/-- A PTP message as it departs at `dep` ns and `sub` units of 2⁻¹⁶ ns (R75, R76): Sync carries the departure, Pdelay_Resp the turnaround in
correctionField, which starts at 0 in the answer and does not carry on that of the Pdelay_Req (DESIGN CHOICE, assumption 204). The frame's FCS, which the model does not hold, is that of the contents as inserted. -/
def stampPtp (dep sub : Nat) (m : PtpTx) : PtpTx :=
  let r := if m.kind = .sync then { m with origin := dep, corr := m.corr + sub }
    else if m.kind = .pdelayResp then { m with corr := m.corr + (dep - m.reqRx) * 65536 + sub }
    else m
  match m.tail with
  | some _ => { r with tail := some (udpTail m r) }
  | none => r

/-- The frame as it departs: transmit timestamps are inserted on the fly (R75). -/
def stampTx (dep sub : Nat) (t : TxFrame) : TxFrame :=
  match t.body with
  | .ptp m => { t with body := .ptp (stampPtp dep sub m) }
  | _ => t

/-- The frame that port `n` may send: the frame in progress, to which the arbiter granted a data port (R92) and which completes whatever pause
arrives; on an idle data port a pause frame, which needs no grant and goes ahead of every waiting frame (R97). -/
def txTake (n id : Nat) (s : State) : Option (TxFrame × (Port → Port)) :=
  let p := portOf s n
  match p.cur with
  | some t => if t.id = id then some (t, fun p => { p with cur := none }) else none
  | none => match takeFirst (fun t => t.id == id) p.txq with
    | some (t, rest) => if isPauseTx t then some (t, fun p => { p with txq := rest }) else none
    | none => none

/-- A frame has departed (R91, R92): counters, and the timestamps of PTP event messages and host frames. -/
def txComplete (n id dep sub : Nat) (s : State) : State × Option TxFrame :=
  match txTake n id s with
  | none => (s, none)
  | some (t, f) =>
    if !(portOf s n).linkUp then (s, none)
    else
      let s := octets n 0x130 (portOf s n).txRem t.len (ethCount n 0x12C s)
      let s := modPort n (fun p => { f p with txRem := (p.txRem + t.len) % 64, lastTx := some (stampTx dep sub t) }) s
      let s := seen dep s
      let s := match t.body with
        | .pause _ _ => ethCount n 0x134 s
        | .ptp m => if ptpEvent m.kind then ethCount n 0x150 s else s
        | .supervision q _ => prpCount q 0x2C s
        | .host fn i => txHostDone fn i n 0 (some dep) s
        | _ => s
      (beginFree n s, some t)

/-- At a tick boundary: on a port without a link, the frames whose stage deadline has come are discarded (Table 1-6). -/
def linkDownTick (s : State) : State :=
  (List.range 14).foldl (fun s n => if (portOf s n).linkUp then s else discardIf (txDue s) n s) s

/-! ## Received pause (R93 to R97) -/

/-- The address of pause frames, 01-80-C2-00-00-01. -/
def pauseMac : Nat := 0x0180C2000001

/-- The port's own address. -/
def portMac (s : State) (n : Nat) : Nat :=
  fld (imgReg s.cfg.active (portBase n + 0x18)) 15 0 * 2 ^ 32 + (imgReg s.cfg.active (portBase n + 0x14)).toNat

/-- A valid pause frame is obeyed: its quanta replace what remains; quanta 0 end the pause (R93, R94). One with another destination is
consumed and counted nowhere. DESIGN CHOICE (assumption 27): the spec does not say what becomes of it. -/
def obeyPause (n dst quanta arrival : Nat) (s : State) : State :=
  if dst = pauseMac ∨ dst = portMac s n then
    let s := ethCount n 0x11C s
    if quanta = 0 then beginFree n (modPort n (fun p => { p with pauseEnd := none, held := 0 }) s)
    else modPort n (fun p => { p with
      pauseEnd := some (arrival + ceilDiv (quanta * 512000) (modeSpeed (portMode s n)))
      pauseAt := if p.pauseEnd.isSome then p.pauseAt else arrival }) s
  else s

/-- At a tick boundary: PAUSE_DELAY counts while a received pause holds the transmitter (R95). -/
def pauseTick (s : State) : State :=
  (List.range 13).foldl (fun s n =>
    if (portOf s n).pauseEnd.isSome then modPort n (fun p => { p with held := p.held + 1 }) (ethCount n 0x13C s) else s) s

/-- PAUSE_EXPIRY (R93). -/
def execPauseExpiry (n ns : Nat) (s : State) : Out := act s fun s =>
  match (portOf s n).pauseEnd with
  | some e => if e ≤ ns then beginFree n (modPort n (fun p => { p with pauseEnd := none, held := 0 }) s) else s
  | none => s

/-- PAUSE_HOLD (R96). -/
def execPauseHold (n : Nat) (s : State) : Out := act s fun s =>
  let p := portOf s n
  if p.pauseEnd.isSome ∧ fld (imgReg s.cfg.active (portBase n + 0x10)) 3 0 * 1024 ≤ p.held ∧ n < 13 then
    let s := modPort n (fun p => { p with held := 0 }) (discardAll n s)
    raise 0x0304 .all [] (ethFlag n 4 s)
  else s

/-- Bytes in the receive buffer of port `n` (R86, R88, R354): the frames that the classifier holds back because the policer's queue is
full. The queue's depth is fixed and not stated (assumption 28). -/
def rxHeld (s : State) : List Handed := if s.eth.handed.isEmpty then [] else s.eth.handed.drop (Config.policerDepth + 1)

def rxFillOf (s : State) (n : Nat) : Nat := sumN (((rxHeld s).filter (fun h => h.frame.port == n)).map (fun h => h.frame.len))

/-- The fill of port `n` has dropped: below XON, the pause ends (R97). -/
def rxDrained (n ns : Nat) (s : State) : State :=
  if pauseTxOn s n && (portOf s n).xoff &&
      decide (rxFillOf s n * 100 < fld (imgReg s.cfg.active (portBase n + 0xC)) 7 0 * (bufKib n * 1024)) then sendPause n 0 ns s
  else s

/-- The receive buffers have drained: frames that the classifier held back may have gone on, whatever their port. -/
def rxDrainedAll (ns : Nat) (s : State) : State := (List.range 13).foldl (fun s n => rxDrained n ns s) s

/-- PAUSE_TX_REPEAT (R97): half of the last pause time sent has elapsed. -/
def execPauseTxRepeat (n ns : Nat) (s : State) : Out := act s fun s =>
  let p := portOf s n
  let cfg := imgReg s.cfg.active (portBase n + 0xC)
  let half := fld cfg 31 16 * 512000 / modeSpeed (portMode s n) / 2
  if pauseTxOn s n ∧ p.xoff ∧ p.xoffAt + half ≤ ns ∧ fld cfg 7 0 * (bufKib n * 1024) ≤ rxFillOf s n * 100 then
    sendPause n (fld cfg 31 16) ns s
  else s

/-! ## Reception (R86 to R89) -/

/-- A frame is stored as it arrives, up to byte MAXLEN (R88, R89): PEAK_KIB, and XOFF when the fill reaches it (R97). PEAK_KIB is rounded up to
a whole KiB. DESIGN CHOICE (assumption 206). -/
def rxStore (f : Frame) (s : State) : State :=
  let cfg := imgReg s.cfg.active (portBase f.port + 0xC)
  let fill := rxFillOf s f.port + min f.len (maxLen s f.port)
  let s := rcMax s (portBase f.port + 0x20) 0 (ceilDiv fill 1024)
  if pauseTxOn s f.port && !(portOf s f.port).xoff && decide (fld cfg 15 8 * (bufKib f.port * 1024) ≤ fill * 100) then
    sendPause f.port (fld cfg 31 16) f.arrival s
  else s

/-- RS-FEC codewords corrected and uncorrectable, in a mode with RS-FEC (Table 3-7). -/
def rxFec (f : Frame) (s : State) : State :=
  if portMode s f.port = 2 then
    countN (portBase f.port + 0x148) 0xFFFF f.fecUncorr .all (countN (portBase f.port + 0x144) 0xFFFF f.fecCorr .all s)
  else s

/-- The counter that a failing receive check chooses (Table 3-2, orders 1 to 5 and 7), by order of precedence. -/
def rxFault (s : State) (f : Frame) : Option Nat :=
  if f.symErr || (portMode s f.port == 2 && f.fecUncorr != 0) then some 0x118
  else if maxLen s f.port < f.len then some 0x10C
  else if f.len < 64 then some 0x108
  else if f.alignErr && portMode s f.port == 6 then some 0x114
  else if !f.fcsOk then some 0x110
  else match f.kind with
    | .macCtl op _ => if op = 1 ∧ f.port ≠ 13 then none else some 0x120
    | _ => none

/-- The receive checks of a frame (Table 3-2, R88). It answers the state and whether the frame is handed on. -/
def rxChecks (f : Frame) (s : State) : State × Bool :=
  let s := rxFec f (seen f.arrival s)
  if bufKib f.port * 1024 < rxFillOf s f.port + maxLen s f.port then
    (raise 0x0303 .all [] (ethFlag f.port 3 (ethCount f.port 0x124 s)), false)
  else
    let s := rxStore f s
    match rxFault s f with
    | some c => (rxDrained f.port f.arrival (ethCount f.port c s), false)
    | none => match f.kind with
      | .macCtl _ q => (obeyPause f.port f.dst q f.arrival (rxDrained f.port f.arrival s), false)
      | _ =>
        let rem := (portOf s f.port).rxRem
        let s := octets f.port 0x104 rem f.len (ethCount f.port 0x100 s)
        let s := modPort f.port (fun p => { p with rxRem := (p.rxRem + f.len) % 64 }) s
        let s := match f.kind with
          | .ptp m => if ptpEvent m.kind && decide (f.port < 12) then ethCount f.port 0x14C s else s
          | _ => s
        (s, true)

/-! ## Duplicate discard (R99 to R102) -/

/-- What duplicate discard makes of a frame: dropped, passed on, or passed on as undeclared. -/
inductive PrpVerdict where
  | drop
  | pass
  | undeclared
  deriving DecidableEq, Repr

/-- One PRP frame from a tracked source against its table entry (R101): the entry after it, whether it is accepted, and whether
it was too old to judge. -/
def prpWindow (e : DupEnt) (q : BitVec 16) : DupEnt × Bool × Bool :=
  let ahead := (q - e.h).toNat
  if ahead ≠ 0 ∧ ahead < 32768 then
    let m := if 64 ≤ ahead then 0#64 else e.seen <<< ahead
    ({ e with seen := m ||| 1#64, h := q }, true, false)
  else
    let back := (e.h - q).toNat
    if back < 64 then
      if e.seen.getLsbD back then (e, false, false)
      else ({ e with seen := e.seen ||| (1#64 <<< back) }, true, false)
    else (e, true, true)

/-- Both copies passed in the same clock cycle: the LAN A copy `f` takes the place of the LAN B copy that came first, with its own port and
timestamps (R102), in front of an engine as in front of a host ring. -/
def preferA (p : Nat) (f : Frame) (s : State) : State :=
  let same := fun (h : Handed) => h.frame.port == pairB s.cfg.active p && h.frame.src == f.src && h.frame.arrival == f.arrival &&
    h.frame.rct.map (·.seq) == f.rct.map (·.seq)
  let held := fun (w : RxWait) => w.port == pairB s.cfg.active p && w.born == s.tb.tick && w.len == f.len && w.bytes == f.bytes
  let s := { s with eth := { s.eth with handed := s.eth.handed.map (fun h => if same h then { h with frame := f } else h) } }
  let own := fun (w : RxWait) => if held w then { w with port := f.port, ts := if hasTime s then some f.rxTs else none } else w
  { s with hp := s.hp.map (fun n => { n with rxWait := n.rxWait.map own }) }

/-- Duplicate discard on the pair of the frame's port. -/
def prpDiscard (f : Frame) (s : State) : State × PrpVerdict :=
  match pairOf s.cfg.active f.port with
  | none => (s, .pass)
  | some p => match f.rct with
    | none => (prpCount p 0x1C s, .pass)
    | some r =>
      if !r.sizeOk then (prpCount p 0x1C s, .pass)
      else
        let isB := f.port == pairB s.cfg.active p
        let s := if r.lanB && !isB then prpCount p 0x14 s else if !r.lanB && isB then prpCount p 0x18 s else s
        if !prpDeclared s.cfg.active p f.src then (prpCount p 0x24 s, .undeclared)
        else
          let k := p * 2 ^ 48 + f.src
          let live := match fget? s.eth.dup k with
            | some e => if f.arrival ≤ e.last + 400000000 then some e else none
            | none => none
          match live with
          | none => ({ s with eth := { s.eth with dup := fset s.eth.dup k { h := r.seq, seen := 1#64, last := f.arrival } } }, .pass)
          | some e =>
            let last := e.last
            let (e, ok, old) := prpWindow e r.seq
            let s := { s with eth := { s.eth with dup := fset s.eth.dup k { e with last := f.arrival } } }
            let s := if old then prpCount p 0x20 s else s
            if ok then (s, .pass)
            else (prpCount p 0x10 (if !isB && decide (f.arrival = last) then preferA p f s else s), .drop)

/-- PRP_ENTRY_EXPIRY (R101): entries that have received no frame for more than 400 ms are deleted. -/
def execPrpEntryExpiry (ns : Nat) (s : State) : Out := act s fun s =>
  { s with eth := { s.eth with dup := s.eth.dup.filter (fun e => decide (ns ≤ e.2.last + 400000000)) } }

/-- The pair's supervision frame is due: 2 s have passed since the latest. -/
def supDue (s : State) (p : Nat) : Bool :=
  match fget? s.eth.supAt p with
  | some t => decide (t + 2000000000 ≤ s.tb.now)
  | none => true

/-- The contents of the pair's supervision frame (IEC 62439-3): SupPath and SupVersion 1, SupSequenceNumber, a TLV of type 20 and length 6
with the sending port's own address, a TLV of type 0. PRESUMED of IEC 62439-3 (assumption 26). -/
def supBytes (mac sup : Nat) : List Byte := beBytes 2 1 ++ beBytes 2 sup ++ beBytes 1 20 ++ beBytes 1 6 ++ beBytes 6 mac ++ zeros 2

/-- PRP_SUPERVISION_TX (R104): on each member of a pair every 2 s, to 01-15-4E-00-01-00, with the pair's next sequence number as on every
frame that the module sends on a pair. -/
def execPrpSupervisionTx (p : Nat) (s : State) : Out := act s fun s =>
  if p < 6 ∧ pairOn s.cfg.active p ∧ supDue s p then
    let k := fgetD s.eth.supSeq p 0
    let s := { s with eth := { s.eth with supSeq := fset s.eth.supSeq p ((k + 1) % 65536), supAt := fset s.eth.supAt p s.tb.now } }
    enqueuePair p (.supervision p k) 60 none s
  else s

/-! ## Frames handed on -/

/-- Hand a frame on to the engine of its class. -/
def handOn (c : FrameClass) (obj : Nat) (f : Frame) (s : State) : State :=
  { s with eth := { s.eth with handed := s.eth.handed ++ [{ cls := c, obj := obj, frame := f }] } }

/-- The first frame that satisfies `p` among those that have left the receive buffers: a frame that the classifier holds back is not to be
taken yet (R354). -/
def takePoliced (p : Handed → Bool) (l : List Handed) : Option (Handed × List Handed) :=
  match l with
  | [] => none
  | h :: rest =>
    if p h then some (h, rest)
    else if rest.isEmpty then none
    else match takeFirst p (rest.take Config.policerDepth) with
      | some (x, l) => some (x, h :: (l ++ rest.drop Config.policerDepth))
      | none => none

/-- A frame that satisfies `p` is taken by its engine; receive buffers may drain with it (R97). -/
def takeFrame (p : Handed → Bool) (s : State) : Option (Handed × State) :=
  match takePoliced p s.eth.handed with
  | none => none
  | some (h, rest) => some (h, rxDrainedAll h.frame.arrival (seen h.frame.arrival { s with eth := { s.eth with handed := rest } }))

/-- The oldest frame of class `c`, taken by its engine. -/
def takeHanded (c : FrameClass) (s : State) : Option (Handed × State) := takeFrame (fun h => h.cls == c) s

/-- PRP_SUPERVISION_RX (R104): consumed and counted in SUP_RX of the pair. -/
def execPrpSupervisionRx (s : State) : Out := act s fun s =>
  match takeHanded .supervision s with
  | none => s
  | some (h, s) => match pairOf s.cfg.active h.frame.port with
    | some p => prpCount p 0x28 s
    | none => s

/-- PTP_MSG_RX (R60, R103). -/
def ptpMsgRx (handle : Nat → PtpMsg → State → State) (s : State) : State :=
  match takeHanded .ptp s with
  | none => s
  | some (h, s) => match h.frame.kind with
    | .ptp m => handle h.frame.port m s
    | _ => s

/-! ## Links (R83, R84) -/

/-- LINK_UP: PCS locked, FEC aligned where the mode uses RS-FEC, auto-negotiation complete on 1000BASE-X and SGMII with a partner
at a permitted speed. A partner on SVC at a permitted speed that is not the mode's is held down too. DESIGN CHOICE (assumption 29):
R83 names only 10 Mb/s there. -/
def linkMayRise (s : State) (n : Nat) (pcs fec an : Bool) (speed : Nat) : Bool :=
  let m := portMode s n
  let sgmii := m == 5 || m == 6
  m != 0 && pcs && (m != 2 || fec) && (!(m == 4 || sgmii) || an) &&
  (!sgmii || speed == modeSpeed m)

def execLinkUp (n : Nat) (pcs fec an : Bool) (speed : Nat) (s : State) : Out := act s fun s =>
  if n < 14 then
    let s := modPort n (fun p => { p with pcsLock := pcs, fecLock := fec && portMode s n == 2 }) s
    if linkMayRise s n pcs fec an speed && !(portOf s n).linkUp then
      raise 0x0301 .all (leBytes 1 n) (ethFlag n 0 (beginFree n (modPort n (fun p => { p with linkUp := true }) s)))
    else s
  else s

/-- The port part of LINK_DOWN: the pause time is discarded; a frame cut off in reception counts in RX_SYMBOL, one cut off in transmission
in TX_DISCARD (R92). Waiting frames are discarded at their stage deadline, at once when they have none (Table 1-6). -/
def portDown (n : Nat) (rxCut : Bool) (s : State) : State :=
  if (portOf s n).linkUp then
    let s := if rxCut then ethCount n 0x118 s else s
    let s := match (portOf s n).cur with
      | some t => discardTx n t s
      | none => s
    let s := discardIf (txDue s) n s
    let s := modPort n (fun p => { p with linkUp := false, pcsLock := false, fecLock := false, pauseEnd := none, held := 0,
                                          xoff := false, cur := none }) s
    raise 0x0302 .all (leBytes 1 n) (ethFlag n 1 (ethCount n 0x140 s))
  else s

/-- ETH_STAT of a port (Table 3-6). RXBUF_FILL is rounded down to a whole per cent. DESIGN CHOICE (assumption 206). -/
def ethStat (s : State) (n : Nat) : Word :=
  let p := portOf s n
  setFld (setBit (setBit (setBit (setBit 0#32 31 p.linkUp) 30 p.pauseEnd.isSome) 29 p.fecLock) 28 p.pcsLock) 23 16
    (min 100 (rxFillOf s n * 100 / (bufKib n * 1024)))

end Sys2Proof.Machine
end

