-- ==== Sys2Proof/Machine/Time.lean ====
section
/-!
DEFINITION. Sys2Proof/Machine/Time.lean: the timebase (chapter 2): sources and their qualification, the step, slewing, holdover,
leap seconds, time quality, and the commands of the TB block.
-/
namespace Sys2Proof.Machine

/-! ## Registers and flags of the block -/

/-- Set bit `b` of TB_STAT in every function (Table 2-9). -/
def tbFlag (b : Nat) (s : State) : State := setFlag s (TB + 4) b

/-- TB_STAT.LPH_OK (R67). -/
def lphOk (s : State) : Bool :=
  match s.tb.state with
  | .notime => false
  | .locked => s.tb.src == 1 || s.tb.src == 2
  | .holdover => s.tb.holdFrom == 1 || s.tb.holdFrom == 2

/-- The code of TB_STAT.STATE. -/
def stateCode (t : TimeState) : Nat :=
  match t with
  | .notime => 0
  | .locked => 1
  | .holdover => 2

/-- TB_STAT as function `n` reads it (Table 2-9, R67). -/
def tbStat (s : State) (n : Nat) : Word :=
  let w := fnReg s n (TB + 4)
  let w := setFld w 31 28 s.tb.src
  let w := setFld w 27 26 s.tb.ref
  let w := setFld w 25 24 (stateCode s.tb.state)
  setBit (setBit w 23 (lphOk s)) 22 s.tb.stbyUsed

/-- QUAL_S of TB_SRC_ORDER, in ns. -/
def qualNs (s : State) : Nat := fld (imgReg s.cfg.active (TB + 8)) 31 24 * 1000000000

/-- The ranked sources, highest first (R58); 0 is none. -/
def ranks (s : State) : List Nat :=
  let w := imgReg s.cfg.active (TB + 8)
  [fld w 3 0, fld w 7 4, fld w 11 8].filter (fun x => x == 1 || x == 2 || x == 3)

/-- TB_HOLD_COEF: coefficients D (ns/s) and A (10⁻⁴ ns/s²) of the reference in use (R72). -/
def holdCoef (s : State) : Word := if s.tb.ref = 1 then imgReg s.cfg.active (TB + 0x6C) else 0x00640064#32

/-! ## Time quality (Table 2-3) -/

/-- TERR is at most `lim` ns. -/
def terrLe (s : State) (lim : Nat) : Bool :=
  match s.tb.terr with
  | some t => decide (t ≤ lim)
  | none => false

/-- TERR is below `lim` ns. -/
def terrLt (s : State) (lim : Nat) : Bool :=
  match s.tb.terr with
  | some t => decide (t < lim)
  | none => false

/-- MSGTQ: the smallest n from 1 to 0xB with TERR ≤ 10^(n−10) s. -/
def msgTq (s : State) : Nat :=
  if !hasTime s || !s.tb.applied then 0xF
  else if s.tb.state == .locked && (s.tb.src == 1 || s.tb.src == 2) && terrLe s 1000 then 0
  else if terrLe s 1 then 1 else if terrLe s 10 then 2 else if terrLe s 100 then 3 else if terrLe s 1000 then 4
  else if terrLe s 10000 then 5 else if terrLe s 100000 then 6 else if terrLe s 1000000 then 7
  else if terrLe s 10000000 then 8 else if terrLe s 100000000 then 9 else if terrLe s 1000000000 then 0xA
  else if terrLe s 10000000000 then 0xB else 0xF

/-- PMUTQ. -/
def pmuTq (s : State) : Nat :=
  if !hasTime s then 7
  else if terrLt s 100 then 1 else if terrLt s 1000 then 2 else if terrLt s 10000 then 3 else if terrLt s 100000 then 4
  else if terrLt s 1000000 then 5 else if terrLt s 10000000 then 6 else 7

/-- UNLK. While STATE = NOTIME the field keeps its reset value 0b11. -/
def unlk (s : State) : Nat :=
  match s.tb.state with
  | .locked => 0
  | .holdover => if s.tb.holdAge < 10 then 0 else if s.tb.holdAge < 100 then 1 else if s.tb.holdAge < 1000 then 2 else 3
  | .notime => 3

/-- TB_TQ derived from TB_STAT and TB_TERR (R73). -/
def tqWord (s : State) : Word := BitVec.ofNat 32 (pmuTq s * 64 + unlk s * 16 + msgTq s)

/-- Show TB_TQ anew; a changed field raises TB_EV_TQ_CHANGE. -/
def refreshTq (s : State) : State :=
  let w := tqWord s
  if w = s.tb.tq then s else raise 0x020A .all [] { s with tb := { s.tb with tq := w, tqLog := logPut (s.tb.now - 10000000000) (s.tb.now, w) s.tb.tqLog } }

/-! ## The UTC offset (R46, R47, R524) -/

/-- Store an offset in OFS of VBAT SRAM and set VALID. -/
def storeOfs (o : Int) (s : State) : State := { s with vbat := { s.vbat with utcOfs := o, utcValid := true } }

/-- The offset after a latched leap second that has not been applied yet. -/
def ofsAfterLeap (s : State) : Int := if s.tb.leapDir then s.tb.ofs - 1 else s.tb.ofs + 1

/-- The source in use reports offset `o`: it is held in OFS; one that differs from the offset in force outside a latched
leap second is rejected (R47). -/
def reportOfs (o : Int) (s : State) : State :=
  let s := storeOfs o s
  if o = s.tb.ofs ∨ (s.tb.leapPending ∧ o = ofsAfterLeap s) then s
  else raise 0x020B .all [] (tbFlag 8 s)

/-! ## Qualification (Table 2-1) -/

/-- Within 3 announce intervals. -/
def recent (s : State) (interval : Nat) (t : Option Nat) : Bool :=
  match t with
  | some t => decide (s.tb.now ≤ t + 3 * interval)
  | none => false

/-- A PTP port qualifies PTP as a source. -/
def ptpPortQual (s : State) (p : PtpPort) : Bool :=
  p.portState == 9 && recent s p.annInterval p.lastSync && recent s p.annInterval p.lastAnn && decide (p.gmClass ≤ 7) &&
  (fld (imgReg s.cfg.active (TB + 0x4C)) 3 2 != 1 ||
    match p.timeInacc, p.netInacc with
    | some a, some b => decide (a + b ≤ 1000)
    | _, _ => false)

/-- The PTP port that supplies time while PTP is in use; otherwise the one that would: the hot standby only when it alone qualifies
(R61). -/
def stbyMain (s : State) : Bool :=
  if s.tb.src = 1 then s.tb.stbyUsed else !ptpPortQual s s.tb.rxp && ptpPortQual s s.tb.stby

def ptpActive (s : State) : PtpPort := if stbyMain s then s.tb.stby else s.tb.rxp

/-- The offset that source `src` supplies, if it supplies one (R46). -/
def srcOfs (s : State) (src : Nat) : Option Int :=
  if src = 1 then (ptpActive s).ofs else if src = 2 then s.tb.irigOfs else none

/-- TB_UTC_OFS.FROM_SRC: the source in use supplies the offset (Table 2-10). -/
def fromSrc (s : State) : Bool := (srcOfs s s.tb.src).isSome

/-- The IRIG-B frame of a second does not disqualify the source. -/
def irigSecOk (p : PpsSec) : Bool := p.spaced && p.irigOk && p.agree && p.label.isSome && decide (p.tq ≤ 0xA)

/-- The labels `y` and then `x` lie on both sides of a latched leap second, applied already or not (Table 2-1). -/
def acrossLeap (s : State) (x y : Int) : Bool :=
  s.tb.leapPending || (match s.tb.leapAt with
    | some a => decide (y ≤ a ∧ a ≤ x + 1)
    | none => false)

/-- Label `x` follows label `y` of `k` seconds before, except across a latched leap second (Table 2-1). -/
def labelStep (s : State) (x y : Int) (k : Nat) : Bool :=
  x == y + k || (acrossLeap s x y && (if s.tb.leapDir then x == y + k + 1 else x + 1 == y + k))

/-- The last three seconds have good edges and good labels that advance by one second. -/
def irigThree (s : State) : Bool :=
  match s.tb.pps with
  | a :: b :: c :: _ => irigSecOk a && irigSecOk b && irigSecOk c &&
    (match a.label, b.label, c.label with
     | some x, some y, some z => labelStep s x y 1 && labelStep s y z 1
     | _, _, _ => false)
  | _ => false

/-- The newest second has a label that does not follow the labelled second before it, or a time quality nibble above 0xA: the source is
no longer qualified (Table 2-1). A second without a label is left to the count of failures (Table 2-6). DEDUCED (assumption 22). -/
def irigBroken (s : State) : Bool :=
  match s.tb.pps with
  | a :: l => match a.label with
    | some x => decide (0xA < a.tq) || (match l.findIdx? (fun p => p.label.isSome) with
      | some k => !labelStep s x ((l.getD k a).label.getD 0) (k + 1)
      | none => false)
    | none => false
  | [] => false

/-- IRIG-B frames are decoding: none has failed since one that arrived less than 2 s ago. DESIGN CHOICE (assumption 201). -/
def irigDecoding (s : State) : Bool := s.tb.irigPresent && decide (s.tb.now < s.tb.irigAt + 2000000000)

/-- PPS_IN is present: an edge in the last second and a bit, at good spacing. -/
def ppsPresent (s : State) : Bool :=
  match s.tb.pps with
  | a :: _ => a.spaced && decide (s.tb.now ≤ a.edge + 1000010000)
  | [] => false

/-- Streams that contributed a frame in each of the last 60 cyc. -/
def sdtSteady (s : State) : Nat := (s.tb.sdtRun.filter (fun e => decide (60 ≤ e.2))).length

/-- Source `src` is qualified. -/
def srcQualified (s : State) (src : Nat) : Bool :=
  if src = 1 then ptpPortQual s s.tb.rxp || ptpPortQual s s.tb.stby
  else if src = 2 then s.tb.irigQual && ppsPresent s
  else if src = 3 then decide (fld (imgReg s.cfg.active (TB + 0x64)) 7 0 ≤ sdtSteady s)
  else false

/-- Note since when source `src` has stayed qualified. -/
def noteQual (src : Nat) (s : State) : State :=
  if srcQualified s src then
    match fget? s.tb.qual src with
    | some _ => s
    | none => { s with tb := { s.tb with qual := fset s.tb.qual src s.tb.now } }
  else { s with tb := { s.tb with qual := fdel s.tb.qual src } }

/-- Source `src` has stayed qualified for QUAL_S seconds (R59). -/
def steadyQual (s : State) (src : Nat) : Bool :=
  match fget? s.tb.qual src with
  | some t => decide (t + qualNs s ≤ s.tb.now)
  | none => false

/-- Note the qualification of every source; a new grandmaster completes QUAL_S (R59). -/
def noteQuals (s : State) : State :=
  let s := noteQual 3 (noteQual 2 (noteQual 1 s))
  { s with tb := { s.tb with gmNew := s.tb.gmNew && !steadyQual s 1 } }

/-- Source `src` may be taken into use at once when the source in use is lost: qualified, and no new grandmaster that has yet to complete
QUAL_S (R59). -/
def readyQual (s : State) (src : Nat) : Bool := srcQualified s src && !(src == 1 && s.tb.gmNew)

/-! ## Sources in use (R59, R61, R71) -/

/-- Source `src` is taken into use: the module is LOCKED to it, and the rates of the source before it no longer count towards the mean of the
time in use. DESIGN CHOICE (assumption 199). -/
def useSource (src : Nat) (s : State) : State :=
  let tb := { s.tb with src := src, state := .locked, holdAge := 0, rates := [], limited := 0, lost := false,
                        stbyUsed := src == 1 && stbyMain s,
                        gm := if src = 1 then (ptpActive s).gmId else s.tb.gm }
  let s := { s with tb := tb }
  match srcOfs s src with
  | some o => reportOfs o s
  | none => s

/-- A source switch after the step (R59). -/
def switchTo (src : Nat) (s : State) : State :=
  count (TB + 0x70) (tbFlag 2 (raise 0x0203 .all [] (useSource src s)))

/-- The mean of the rates of the last 64 s in use (R71), rounded down to a whole ppb. DESIGN CHOICE (assumption 23): the spec gives no
rounding. -/
def meanRate (l : List Int) : Int := if l.isEmpty then 0 else (l.foldl (· + ·) 0) / (l.length : Int)

/-- Holdover is entered (R71, R72). -/
def enterHoldover (s : State) : State :=
  let s := { s with tb := { s.tb with holdFrom := s.tb.src, src := 0, state := .holdover, holdAge := 0, lost := false,
                                      holdRate := meanRate s.tb.rates, rate := meanRate s.tb.rates,
                                      terr0 := s.tb.terr.getD 0xFFFFFFFF, stbyUsed := false } }
  tbFlag 1 (raise 0x0202 .all [] s)

/-- The grandmaster changes to `id` (R59): counted; a source in use counts as lost, and the new grandmaster has yet to complete QUAL_S. -/
def gmChange (id : Nat) (s : State) : State :=
  let s := { s with tb := { s.tb with gm := id, lost := s.tb.lost || (s.tb.src == 1 && hasTime s), gmNew := true,
                                      qual := fdel s.tb.qual 1 } }
  count (TB + 0x74) (tbFlag 5 (raise 0x0204 .all [] s))

/-- Note the grandmaster of the port that supplies time, or would (R59, Table 2-11). -/
def noteGm (s : State) : State :=
  let p := ptpActive s
  if p.lastAnn.isNone ∨ p.gmId = s.tb.gm then s
  else if s.tb.gm = 0 then { s with tb := { s.tb with gm := p.gmId } }
  else gmChange p.gmId s

/-- The other PTP port takes over when the port in use loses qualification (R61): at once under the same grandmaster;
otherwise it is a grandmaster change. -/
def standbyTakeover (s : State) : State :=
  if s.tb.src = 1 ∧ hasTime s then
    let other := if s.tb.stbyUsed then s.tb.rxp else s.tb.stby
    if ptpPortQual s (ptpActive s) then s
    else if ptpPortQual s other then
      let s' := { s with tb := { s.tb with stbyUsed := !s.tb.stbyUsed } }
      if other.gmId = s.tb.gm then s' else gmChange other.gmId s'
    else s
  else s

/-- The choice of source at a tick boundary (R59). When the source in use is lost, the highest of the other ranked sources that is ready is
taken, above the lost one too. DESIGN CHOICE (assumption 198). -/
def chooseSource (s : State) : State :=
  match s.tb.state with
  | .notime => s
  | .locked =>
    if s.tb.lost || !srcQualified s s.tb.src then
      match (ranks s).find? (fun x => x != s.tb.src && readyQual s x) with
      | some x => switchTo x s
      | none => enterHoldover s
    else
      match ((ranks s).takeWhile (· != s.tb.src)).find? (steadyQual s) with
      | some x => switchTo x s
      | none => s
  | .holdover =>
    match (ranks s).find? (steadyQual s) with
    | some x => switchTo x s
    | none => s

/-- PPS_OUT at a tick boundary (R77). -/
def ppsOutTick (s : State) : State :=
  let w := imgReg s.cfg.active (TB + 0x68)
  if s.tb.grid % tps s = 0 ∧ hasTime s ∧ bit w 31 then
    { s with tb := { s.tb with ppsOut := true, ppsLeft := fld w 15 0 } }
  else if s.tb.ppsLeft ≤ 1 then { s with tb := { s.tb with ppsOut := false, ppsLeft := 0 } }
  else { s with tb := { s.tb with ppsLeft := s.tb.ppsLeft - 1 } }

/-- The next tick boundary: one exact tick after the one before it, seen at the nearest ns, ties up (R4, R48). -/
def nextEdge (s : State) : State :=
  let r := s.tb.rest + 1000000000
  let e := s.tb.edge + r / tps s
  seen (e + roundDiv (r % tps s) (tps s)) { s with tb := { s.tb with edge := e, rest := r % tps s } }

/-- The exact instant of grid boundary `g`. -/
def edgeAt (g : Nat) (s : State) : State :=
  { s with tb := { s.tb with edge := g * 1000000000 / tps s, rest := g * 1000000000 % tps s } }

/-- The counter and grid time at a tick boundary (R48, R50): the tick counter rises by one, and grid time advances by one tick while it
runs. -/
def advance (s : State) : State :=
  let s := { s with tb := { s.tb with tick := (s.tb.tick + 1) % 2 ^ 64 } }
  if hasTime s then
    let s := edgeAt (s.tb.grid + 1) { s with tb := { s.tb with grid := s.tb.grid + 1 } }
    seen (gridNs s s.tb.grid) s
  else nextEdge s

/-- DI0 to DI15 are sampled at the boundary (R31). What follows a change of one departs within 64 tk of it (R322). -/
def sampleDi (di : BitVec 16) (s : State) : State :=
  let log := if !hasTime s || s.tb.diLog.head?.map (·.2) == some di then s.tb.diLog else logPut (s.tb.grid - 10 * tps s) (s.tb.grid, di) s.tb.diLog
  let moved := (List.range 16).filter (fun k => s.tb.di.getLsbD k != di.getLsbD k)
  { s with
    tb := { s.tb with di := di, diLog := log }
    pub := { s.pub with srcDue := moved.foldl (fun m k => fset m (6 * 65536 + k) (s.tb.tick + 64)) s.pub.srcDue } }

/-- What the timebase does at a tick boundary. -/
def timeTick (s : State) : State := refreshTq (ppsOutTick (chooseSource (standbyTakeover (noteQuals s))))

/-! ## The step (R68) -/

/-- The offset that the step fixes, and whether it was held (R46). -/
def stepOfs (s : State) (src : Nat) : Int × Bool :=
  match srcOfs s src with
  | some o => (o, true)
  | none => if s.vbat.utcValid then (s.vbat.utcOfs, true) else (0, false)

/-- Grid tick index of the boundary nearest one tick after TAI instant `ns`, the later of two equally near. -/
def nearestGrid (s : State) (ns : Nat) : Nat := roundDiv (ns * tps s + 1000000000) 1000000000

/-- An instant of module time held by a running timer, after the step has moved module time by `d` ns: timers are held in tk and do not
move with it (R28). -/
def shiftNs (d : Int) (t : Nat) : Nat := ((t : Int) + d).toNat

/-- Every running timer whose start or end is held as an instant of module time, across the step (R28). -/
def shiftTimers (d : Int) (s : State) : State :=
  let sh := shiftNs d
  let port := fun (p : PtpPort) => { p with lastSync := p.lastSync.map sh, lastAnn := p.lastAnn.map sh }
  { s with
    tb := { s.tb with
      rxp := port s.tb.rxp
      stby := port s.tb.stby
      pps := s.tb.pps.map (fun p => { p with edge := sh p.edge })
      irigAt := sh s.tb.irigAt
      qual := s.tb.qual.map (fun e => (e.1, sh e.2)) }
    eth := { s.eth with
      ports := s.eth.ports.map (fun e => (e.1, { e.2 with pauseEnd := e.2.pauseEnd.map sh, pauseAt := sh e.2.pauseAt, xoffAt := sh e.2.xoffAt }))
      dup := s.eth.dup.map (fun e => (e.1, { e.2 with last := sh e.2.last }))
      supAt := s.eth.supAt.map (fun e => (e.1, sh e.2)) }
    svf := { s.svf with changed := s.svf.changed.map (fun e => (e.1, sh e.2)) }
    isl := { s.isl with cmps := s.isl.cmps.map (fun e => (e.1, { e.2 with tmo := ((e.2.tmo : Int) + d * (tps s : Int)).toNat })) }
    cap := { s.cap with recs := s.cap.recs.map (fun e => (e.1, { e.2 with tmo := e.2.tmo.map (fun t => (t.1, sh t.2)) })) }
    mtr := { s.mtr with pos := s.mtr.pos.map (fun e => (e.1, { e.2 with due := sh e.2.due, start := e.2.start.map sh })) }
    pair := { s.pair with expiry := s.pair.expiry.map (fun e => (e.1, sh e.2)) }
    limits := s.limits.map (fun e => (e.1, sh e.2)) }

/-- The timebase part of the step: `ns` is the instant in the source's own scale (TAI for PTP, UTC otherwise), `since` the
time since the tick boundary before it. After power-up the tick counter starts; after a restart the tick in progress
ends on the grid boundary nearest its undisturbed end. -/
def timeStep (src ns since : Nat) (s : State) : State :=
  let (o, ap) := stepOfs s src
  let was := s.tb.now
  let tai := if src = 1 then ns else ((ns : Int) + o * 1000000000).toNat
  let g := if s.tb.started then nearestGrid s (tai - since) - 1 else nsGrid s tai
  let tb := { s.tb with tick := s.tb.tick, started := true, grid := g, now := tai, ofs := o, applied := ap,
                        src := src, state := .locked, holdAge := 0, rates := [],
                        limited := 0, lost := false, stbyUsed := src == 1 && stbyMain s,
                        gm := if src = 1 then (ptpActive s).gmId else s.tb.gm }
  let s := edgeAt g (shiftTimers ((tai : Int) - was) { s with tb := tb })
  let s := match srcOfs s src with
    | some v => storeOfs v s
    | none => s
  refreshTq (raise 0x0201 .all [] (tbFlag 0 s))

/-! ## Commands of the block -/

/-- RATE_UPDATE (R69, R70): `o` is the filtered offset in ns, `f` the frequency error in ppb, `terr` the time error. -/
def execRateUpdate (m : RateMeas) (s : State) : Out := act s fun s =>
  if s.tb.state != .locked then s
  else
    let lim : Int := (fld (imgReg s.cfg.active (TB + 0xC)) 5 0 : Int) * 1000
    let r0 := -m.f - Int.tdiv m.o 16
    let r := clampI lim r0
    let held := if r = lim ∨ r = -lim then s.tb.limited + 1 else 0
    let terr := if s.tb.src = 3 then s.tb.terr else m.terr
    let s := { s with tb := { s.tb with rate := r, offset := max (-2147483648) (min 2147483647 m.o), rates := (r :: s.tb.rates).take 64,
                                        limited := held, terr := terr } }
    let big := decide ((fld (imgReg s.cfg.active (TB + 0xC)) 31 16 : Int) * 1000 < m.o.natAbs)
    let unset := [0, 1, 2, 3].any (fun n => !bit (fnReg s n (TB + 4)) 6)
    let s := if big || (held == 60 && unset) then raise 0x0205 .all [] (tbFlag 6 s) else s
    refreshTq s

/-- TERR(t) = TERR0 + D t + A t² / 2, to the nearest ns (R72). -/
def holdTerr (s : State) (t : Nat) : Nat :=
  let w := holdCoef s
  s.tb.terr0 + fld w 31 16 * t + roundDiv (fld w 15 0 * t * t) 20000

/-- HOLDOVER_TERR_UPDATE (R72). -/
def execHoldoverTerrUpdate (s : State) : Out := act s fun s =>
  if s.tb.state != .holdover then s
  else
    let t := s.tb.holdAge + 1
    let e := holdTerr { s with tb := { s.tb with holdAge := t } } t
    refreshTq { s with tb := { s.tb with holdAge := t, terr := if e < 0xFFFFFFFF then some e else none } }

/-- The lower of the two middle values, or the middle value, of a sorted list (R66). -/
def lowerMedian (l : List Int) : Int := l.getD ((l.length - 1) / 2) 0

/-- The `q`-th quartile of a sorted list by the nearest rank. DESIGN CHOICE (assumption 11). -/
def quartile (q : Nat) (l : List Int) : Int := l.getD (ceilDiv (q * l.length) 4 - 1) 0

/-- SDT_OFFSET_ESTIMATE (R65, R66): once per cyc. -/
def execSdtOffsetEstimate (s : State) : Out := act s fun s =>
  let os := (s.tb.sdtCyc.map (fun e => e.2.1)).mergeSort (· ≤ ·)
  let run := s.tb.sdtCyc.map (fun e => (e.1, fgetD s.tb.sdtRun e.1 0 + 1))
  let n := os.length
  let ins := (s.tb.sdtCyc.filter (fun e => e.2.2 == 1)).length
  let del := (s.tb.sdtCyc.filter (fun e => e.2.2 == 2)).length
  let lp := if n < 2 * ins then 1 else if n < 2 * del then 2 else 0
  let s := { s with tb := { s.tb with sdtRun := run, sdtCyc := [], sdtElig := n, sdtLeap := lp,
                                      sdtOfs := if n = 0 then s.tb.sdtOfs else lowerMedian os } }
  let s := whenS (s.tb.src == 3 && n != 0)
    (fun s => { s with tb := { s.tb with terr := some ((quartile 3 os - quartile 1 os).toNat + 500000) } }) s
  refreshTq (noteQuals s)

/-- The leap second that the source in use announces (R51): none, insertion or deletion. -/
def leapAnnounced (s : State) : Nat :=
  if s.tb.src = 1 then
    let p := ptpActive s
    if p.ofs.isNone then 0 else if p.leap61 then 1 else if p.leap59 then 2 else 0
  else if s.tb.src = 2 then s.tb.irigLeap
  else if s.tb.src = 3 then s.tb.sdtLeap
  else 0

/-- The UTC second at the latest tick boundary. -/
def utcNow (s : State) : Int := utcOf s (s.tb.grid / tps s)

/-- LEAP_LATCH (R52): at 23:59:00 UTC. -/
def execLeapLatch (s : State) : Out := act s fun s =>
  if hasTime s ∧ s.tb.grid % tps s = 0 ∧ utcNow s % 86400 = 86340 then
    let a := leapAnnounced s
    { s with tb := { s.tb with leapPending := a != 0, leapDir := a == 2,
                               leapMjd := if a = 0 then 0 else (40587 + utcNow s / 86400).toNat } }
  else s

/-- The UTC second 00:00:00 after the latched leap second. -/
def leapMidnight (s : State) : Int := ((s.tb.leapMjd : Int) - 40586) * 86400

/-- LEAP_DONE (R53): at the first boundary after an inserted second, or at the boundary where a deleted one would begin. -/
def execLeapDone (s : State) : Out := act s fun s =>
  if hasTime s ∧ s.tb.leapPending ∧ s.tb.grid % tps s = 0 ∧
      utcNow s = (if s.tb.leapDir then leapMidnight s - 1 else leapMidnight s + 1) then
    let o := ofsAfterLeap s
    let s := { s with tb := { s.tb with ofs := o, leapPending := false, leapAt := some (leapMidnight s) } }
    tbFlag 4 (raise 0x0206 .all [] (storeOfs o s))
  else s

/-- Bit 5 of the time quality byte and TB_LEAP.OCCURRED (R54). -/
def leapOccurred (s : State) (u : Int) : Bool :=
  match s.tb.leapAt with
  | some a => decide (a ≤ u ∧ u < a + 86400)
  | none => false

/-- Bit 4 of the time quality byte (R54): from 60 s before the leap second until the second before it ends. -/
def leapSoon (s : State) (u : Int) : Bool :=
  let l := if s.tb.leapDir then leapMidnight s - 1 else leapMidnight s
  s.tb.leapPending && decide (l - 60 ≤ u ∧ u < l)

/-- The C37.118 message time quality byte for a message of UTC second `u` (R54). -/
def timeQualByte (s : State) (u : Int) : Nat :=
  (if leapSoon s u && s.tb.leapDir then 64 else 0) + (if leapOccurred s u then 32 else 0) +
  (if leapSoon s u then 16 else 0) + fld s.tb.tq 3 0

/-- TB_LEAP (Table 2-10). -/
def tbLeap (s : State) : Word :=
  setFld (setBit (setBit (setBit 0#32 31 s.tb.leapPending) 30 s.tb.leapDir) 29 (leapOccurred s (utcNow s))) 16 0 s.tb.leapMjd

/-- RTC_SET (R494): while LOCKED, the RTC is set from grid time. -/
def execRtcSet (s : State) : Out := act s fun s =>
  if s.tb.state == .locked then { s with vbat := { s.vbat with rtc := s.tb.now, rtcValid := true } } else s

/-- PPS_IN_EDGE (R63): a rising edge at `ns` of module time. -/
def execPpsInEdge (ns : Nat) (s : State) : Out := act s fun s =>
  let s := seen ns s
  let spaced := match s.tb.pps with
    | p :: _ => decide (p.edge + 999990000 ≤ ns ∧ ns ≤ p.edge + 1000010000)
    | [] => false
  let unlabelled := match s.tb.pps with
    | p :: _ => !p.irigOk
    | [] => false
  let fails := if unlabelled then s.tb.irigFails + 1 else 0
  let pps := ({ edge := ns, spaced := spaced } :: s.tb.pps).take 4
  noteQuals { s with tb := { s.tb with pps := pps, irigFails := fails, irigQual := s.tb.irigQual && spaced && decide (fails < 3) } }

/-- The UTC second that a frame labels: the coded time converted by the IEEE 1344 time offset (R63). -/
def irigUtc (m : IrigFrame) : Int := m.coded + m.offset

/-- IRIGB_FRAME_RX (R63, R51, R46): a frame without the IEEE 1344 extensions has no parity to pass (DEDUCED, assumption 22); the frame labels the second whose PPS_IN edge lies within ±5 µs of its marker. -/
def execIrigbFrameRx (m : IrigFrame) (s : State) : Out := act s fun s =>
  let s := seen m.ns s
  if !m.parityOk || !m.ext then count (TB + 0x78) { s with tb := { s.tb with irigPresent := false } }
  else
    let near := fun (p : PpsSec) => decide (p.edge ≤ m.marker + 5000 ∧ m.marker ≤ p.edge + 5000)
    let tb := { s.tb with irigPresent := true, irigAt := s.tb.now, irigTq := m.tq, irigOfs := m.ofs, irigLeap := m.leap, irigAgree := s.tb.pps.any near }
    let tb := { tb with pps := tb.pps.map (fun p =>
      if near p then { p with irigOk := true, agree := true, label := some (irigUtc m), tq := m.tq } else p) }
    let s : State := { s with tb := tb }
    let s : State := { s with tb := { s.tb with irigQual := (s.tb.irigQual || irigThree s) && !irigBroken s } }
    noteQuals (match m.ofs with
      | some o => if s.tb.src = 2 then reportOfs o s else s
      | none => s)

/-- The rank of a grandmaster data set in the comparison of IEEE 1588-2019: priority1, clockClass, clockAccuracy, offsetScaledLogVariance,
priority2, clockIdentity, stepsRemoved; the lower is the better. PRESUMED (assumption 200). -/
def gmRank (d : GmData) (cls id steps : Nat) : List Nat := [d.prio1, cls, d.accuracy, d.variance, d.prio2, id, steps]

/-- The Announce becomes the port's best master: it comes from the grandmaster already taken, no announcement of that one is recent, or it is better
(Table 2-2: the default BMCA). PRESUMED (assumption 200). -/
def bestAnnounce (s : State) (m : PtpMsg) (p : PtpPort) : Bool :=
  m.gmId == p.gmId || !recent s p.annInterval p.lastAnn ||
  lexLt (gmRank m.gmData m.gmClass m.gmId m.steps) (gmRank p.gmData p.gmClass p.gmId p.steps)

/-- A PTP message on the time-receiver or hot-standby port: what the port learns of its source. -/
def ptpLearn (s : State) (m : PtpMsg) (p : PtpPort) : PtpPort :=
  let p := { p with portState := m.portState }
  match m.kind with
  | .announce =>
    if !bestAnnounce s m p then p
    else { p with
      lastAnn := some m.rxNs, annInterval := m.annInterval, gmId := m.gmId, gmClass := m.gmClass, steps := m.steps, gmData := m.gmData
      timeInacc := m.timeInacc, netInacc := m.netInacc, ofs := m.ofs, leap61 := m.leap61, leap59 := m.leap59 }
  | .sync => { p with lastSync := some m.rxNs }
  | .followUp => { p with lastSync := some m.rxNs }
  | .pdelayResp => { p with meanLink := m.meanLink }
  | .pdelayRespFollowUp => { p with meanLink := m.meanLink }
  | .pdelayReq => p
  | .management => p
  | .signalling => p
  | .other => p

/-- An Announce of the best master on the port that supplies time (`inUse`) reports its UTC offset (R47); the qualification of every source is noted. -/
def ptpReported (inUse : Bool) (m : PtpMsg) (s : State) : State :=
  noteQuals (match m.kind, m.ofs with
    | .announce, some o => if inUse ∧ s.tb.src = 1 then reportOfs o s else s
    | _, _ => s)

/-- PTP_MSG_RX (R60, R61, R59, R47): the oldest PTP message that the classifier has handed on. Management, signalling and
unsupported messages, a wrong domain, and the bad times of Table 2-6 are discarded and counted. A Pdelay_Req is answered
by PTP_MSG_TX. -/
def ptpHandle (port : Nat) (m : PtpMsg) (s : State) : State :=
  let cfg := imgReg s.cfg.active (TB + 0x4C)
  let bad := m.bad || m.domain != fld cfg 31 24 || m.kind == .management || m.kind == .signalling || m.kind == .other
  if bad then count (TB + 0x7C) s
  else if port = fld cfg 7 4 then
    ptpReported (!s.tb.stbyUsed && bestAnnounce s m s.tb.rxp) m (noteGm { s with tb := { s.tb with rxp := ptpLearn s m s.tb.rxp } })
  else if port = fld cfg 11 8 then
    ptpReported (s.tb.stbyUsed && bestAnnounce s m s.tb.stby) m (noteGm { s with tb := { s.tb with stby := ptpLearn s m s.tb.stby } })
  else s

/-- EXT_LOST (R512, R72): the reference changes to the TCXO without a step. -/
def execExtLost (s : State) : Out := act s fun s =>
  if s.tb.ref = 1 then raise 0x0209 .all [] (tbFlag 7 { s with tb := { s.tb with ref := 0 } }) else s

/-- A write by a function whose partition is not valid (R401): discarded, counted, flagged. -/
def deniedInvalid (n : Nat) (s : State) : State := hifFlag n 2 (countFn n (HIF + 0x304) 0xFFFF s)

/-- A write by a valid partition that lacks the right, where the chapter defines no refusal (R399). -/
def deniedWrite (n off : Nat) (s : State) : State :=
  raiseLimited (0x0F02 * 16 + n) 0x0F02 (.fnOnly n) (leBytes 4 off) (hifFlag n 2 (countFn n (HIF + 0x304) 0xFFFF s))

/-- The unit holds the lease of its pair: from the GRANT it accepted until the lease ends (R427, R429). -/
def holdsLease (s : State) : Bool :=
  s.cfg.active.paired && (s.pair.auth || (s.pair.granted.isSome && decide (s.tb.tick < s.pair.leaseEnd)))

/-- TIMEBASE_RESTART_REQUEST (R78, R79): the reason is the first that applies, in the order of R79. -/
def restartReason (n key : Nat) (s : State) : Nat :=
  if holdsLease s then 1
  else if s.cfg.sched.isSome then 2
  else if key ≠ 0x5A17 then 3
  else if !imgLoad s n then 4
  else 0

/-- TIMEBASE_RESTART_REQUEST (R78, R79). -/
def execTimebaseRestartRequest (n key : Nat) (s : State) : Out := act s fun s =>
  if !validFn s n then deniedInvalid n s
  else
    let r := restartReason n key s
    if r = 0 then { s with tb := { s.tb with restartReq := true } }
    else raise 0x0208 .all (leBytes 1 r) (tbFlag 3 s)

/-- TB_SNAP (R80, Table 2-8): every TB_SNAP register of the writing function latches at one instant. -/
def execTbSnap (n ns : Nat) (s : State) : Out := act s fun s =>
  if !validFn s n then deniedInvalid n s
  else
    let s := seen ns s
    let put := fun (off v : Nat) (s : State) => setFnReg s n (TB + off) (BitVec.ofNat 32 v)
    let run := hasTime s
    let sec := if run then taiSec s else 0
    let c := s.tb.grid % tps s
    let s := put 0x10 sec (put 0x14 (sec / 2 ^ 32) s)
    let s := put 0x18 (if run then s.tb.now % 1000000000 else 0) s
    let s := put 0x1C (if run then c / 1024 * 65536 + c % 1024 else 0) s
    let s := put 0x20 (if run then uint 32 (utcOf s sec) else 0) s
    put 0x24 s.tb.tick (put 0x28 (s.tb.tick / 2 ^ 32) s)

/-- TB_UTC_OFS_WRITE (R524, R80). -/
def execTbUtcOfsWrite (n : Nat) (v : Word) (s : State) : Out := act s fun s =>
  if !validFn s n then deniedInvalid n s
  else if !imgLoad s n then deniedWrite n (TB + 0x2C) s
  else if fromSrc s then s
  else storeOfs (sint 16 (fld v 15 0)) s

end Sys2Proof.Machine
end

