-- ==== Sys2Proof/Machine/Vault.lean ====
section
/-!
DEFINITION. Sys2Proof/Machine/Vault.lean: the slots of the Ilastes vault and the check of every keyed operation (R463 to R468).
-/
namespace Sys2Proof.Machine

/-- The sealed store in use. -/
def activeStore (s : State) : VStore := if s.sec.store = 0 then s.nv.store0 else s.nv.store1

/-- Change the sealed store in use. -/
def setActiveStore (v : VStore) (s : State) : State :=
  if s.sec.store = 0 then { s with nv := { s.nv with store0 := v } } else { s with nv := { s.nv with store1 := v } }

/-- Slot `k` of the open store; a closed vault has every slot empty. -/
def slotOf (s : State) (k : Nat) : VSlot := if s.sec.unsealed then fgetD (activeStore s).slots k {} else {}

/-- The cell in force (R468). -/
def cellOf (s : State) (k : Nat) : VCell :=
  let v := slotOf s k
  if v.ctr.toNat % 2 = 0 then v.cell0 else v.cell1

/-- The key's second named in NOT_AFTER has passed. -/
def cellExpired (s : State) (c : VCell) : Bool := c.notAfter != 0 && decide (c.notAfter < taiSec s)

/-- Slot `k` holds Key ID `id`. -/
def slotHoldsKey (s : State) (k id : Nat) : Bool := (cellOf s k).valid && (cellOf s k).keyId == id

/-- The key bytes of slot `k`. -/
def slotKeyBytes (s : State) (k : Nat) : List Byte := (cellOf s k).key

/-- Why slot `k` fails an operation that needs attribute `attr` (R465): 0 it does not, 1 empty, 2 attribute, 3 expired. -/
def slotFault (s : State) (k attr : Nat) : Nat :=
  let c := cellOf s k
  if !c.valid then 1 else if c.attr ≠ attr then 2 else if cellExpired s c then 3 else 0

/-- A keyed operation on slot `k` with attribute `attr`: counted in KEY_OPS; the key, or a misuse counted and reported (R463,
R465). -/
def keyOp (k attr : Nat) (s : State) : State × Option (List Byte) :=
  let s := count (SEC + 0x300) s
  let r := slotFault s k attr
  if r = 0 then (s, some (slotKeyBytes s k))
  else
    let s := count (SEC + 0x304) (setFlag s (SEC + 4) 3)
    (raiseLimited (0x1104 * 1024 + k) 0x1104 .all (leBytes 2 k ++ leBytes 1 r) s, none)

/-- HMAC-SHA256 truncated to 128 bits. -/
def mac128 (key bs : List Byte) : List Byte := padTo 16 (hmacSha256 key bs)

/-- The ML-DSA-44 signature of `bs` under the key pair of `seed`. FIPS 204 draws randomness for each signature: it is free (assumption 9). -/
def dsaSign (s : State) (seed : List Byte) (ctx : String) (bs : List Byte) : List Byte :=
  padTo 2420 (mldsaSign seed (ascii ctx) bs (padTo 32 (Config.signRnd s.free s.tb.now bs)))

/-- Sign `bs` with the ENC key of slot `k`; none when the slot fails (R465: the message is not sent). -/
def macSign (k : Nat) (bs : List Byte) (s : State) : State × Option (List Byte) :=
  match keyOp k 1 s with
  | (s, some key) => (s, some (mac128 key bs))
  | (s, none) => (s, none)

/-- Verify `tag` over `bs` with the DEC key of slot `k`. -/
def macVerify (k : Nat) (bs tag : List Byte) (s : State) : State × Bool :=
  match keyOp k 2 s with
  | (s, some key) => (s, mac128 key bs == tag)
  | (s, none) => (s, false)

end Sys2Proof.Machine
end

