-- ==== Sys2Proof/Machine/Ingest.lean ====
section
/-!
DEFINITION. Sys2Proof/Machine/Ingest.lean: stream ingest (chapter 4): binding, the checks of Table 4-3, configuration frames, R-SV,
TCP, and the ingest records.
-/
namespace Sys2Proof.Machine

/-! ## The directory and the channel table -/

/-- Bits `hi:lo` of word `w` of directory entry `n` (Table 4-1). -/
def dir (im : Image) (n w hi lo : Nat) : Nat := imFld im secSTREAM_DIR n w hi lo

/-- Directory entry `n` is in use. -/
def dirValid (im : Image) (n : Nat) : Bool := imBit im secSTREAM_DIR n 0 31

/-- A 128-bit address of a directory entry, from word `w`; address byte 0 is most significant. -/
def dirAddr (im : Image) (n w : Nat) : Nat :=
  (((dir im n w 31 0) * 2 ^ 32 + dir im n (w + 1) 31 0) * 2 ^ 32 + dir im n (w + 2) 31 0) * 2 ^ 32 + dir im n (w + 3) 31 0

def dirGroup (im : Image) (n : Nat) : Nat := dir im n 0 21 16
def dirTransport (im : Image) (n : Nat) : Nat := dir im n 0 26 24
def dirRate (im : Image) (n : Nat) : Nat := dir im n 4 15 8
def dirPaired (im : Image) (n : Nat) : Bool := imBit im secSTREAM_DIR n 0 30

/-- The event object of stream `n`. -/
def strmObj (s : State) (n : Nat) : EvObj := .groups [dirGroup s.cfg.active n]

/-- Bits `hi:lo` of word `w` of channel entry `c` (Table 4-2). -/
def chan (im : Image) (c w hi lo : Nat) : Nat := imFld im secCHANNEL c w hi lo

/-- The run fields of stream `n`. -/
def strmOf (s : State) (n : Nat) : Strm := fgetD s.ing.strms n {}

/-- Which source of entry `n` an address belongs to: 1 is the second unit of a paired source, at ADDR_B. -/
def srcUnit (im : Image) (n src : Nat) : Nat :=
  let a := dirAddr im n 10
  if dirPaired im n && a != src && (a != 0 || dirAddr im n 14 == src) then 1 else 0

/-- Source `k` of a stream. -/
def Strm.conn (r : Strm) (k : Nat) : SrcConn := if k = 0 then r.ca else r.cb

def Strm.modConn (r : Strm) (k : Nat) (f : SrcConn → SrcConn) : Strm := if k = 0 then { r with ca := f r.ca } else { r with cb := f r.cb }

def modStrm (n : Nat) (f : Strm → Strm) (s : State) : State :=
  { s with ing := { s.ing with strms := fmod s.ing.strms n {} f } }

/-- Count one in per-stream counter `k` of stream `n` (Table 4-14). The half event of such a counter goes to every partition, as that of a
counter of the whole module does. DESIGN CHOICE (assumption 211). -/
def strmCount (n k : Nat) (s : State) : State := countW (ING + 0x200 + 4 * k) n .all s

/-- Set bit `b` of ING_FLAGS in every function. -/
def ingFlag (b : Nat) (s : State) : State := setFlag s (ING + 4) b

/-- LATE_SPAN and CTL_RATE of ING_LIMITS. -/
def lateSpan (s : State) : Nat := fld (imgReg s.cfg.active (ING + 8)) 31 24
def ctlRate (s : State) : Nat := fld (imgReg s.cfg.active (ING + 8)) 23 16

/-- λ of stream `n` in ns (R64): learned, or the latency that the image declares. -/
def latency (s : State) (n : Nat) : Int :=
  match fget? s.nv.lat n with
  | some l => l
  | none => (dir s.cfg.active n 6 21 0 * 1000 : Nat)

/-! ## Binding (R112) -/

/-- The addresses and ports of entry `n` match (R112). On a TCP client DST_PORT is the remote port (Table 4-1),
which is the frame's source port. -/
def addrMatch (im : Image) (n : Nat) (f : Frame) (h : IpHdr) : Bool :=
  let t := dirTransport im n
  let a := dirAddr im n 10
  let b := dirAddr im n 14
  let vid := match f.vlan with
    | some tci => tci % 4096
    | none => 0
  dirValid im n && decide (f.port < 13) && Nat.testBit (dir im n 7 12 0) f.port && dir im n 7 27 16 == vid &&
  (a == 0 || a == h.src || (dirPaired im n && (b == 0 || b == h.src))) &&
  (if t = 1 then h.tcp && dir im n 8 31 16 == h.sport else (t == 2) == h.tcp && dir im n 8 31 16 == h.dport) &&
  (dir im n 8 15 0 == 0 || dir im n 8 15 0 == h.sport) &&
  (t != 3 || b == h.dst) && t != 4

/-- The entry to which a C37.118.2 frame with source identifier `id` is bound: the entry of BLOCK 0 (R112, R114). -/
def bindC37 (im : Image) (f : Frame) (h : IpHdr) (id : Nat) : Option Nat :=
  (List.range (imCount im secSTREAM_DIR)).find? (fun n =>
    dirTransport im n != 3 && dir im n 0 15 0 == id && dir im n 1 19 14 == 0 && addrMatch im n f h)

/-- The entry to which an R-SV session PDU is bound. -/
def bindRsv (im : Image) (f : Frame) (h : IpHdr) : Option Nat :=
  (List.range (imCount im secSTREAM_DIR)).find? (fun n => dirTransport im n == 3 && addrMatch im n f h)

/-- Some entry listens at the frame's transport, ports and interface, whatever its source. -/
def streamPort (im : Image) (f : Frame) (h : IpHdr) : Bool :=
  (List.range (imCount im secSTREAM_DIR)).any (fun n =>
    let t := dirTransport im n
    dirValid im n && t != 4 && decide (f.port < 13) && Nat.testBit (dir im n 7 12 0) f.port &&
    (if t = 1 then h.tcp && dir im n 8 31 16 == h.sport else (t == 2) == h.tcp && dir im n 8 31 16 == h.dport))

/-- The members of the bundle of head `n`, in BLOCK order: entries with equal binding keys (R114). -/
def bundle (im : Image) (n : Nat) : List Nat :=
  let same := fun m =>
    dirValid im m && dirTransport im m == dirTransport im n && dir im m 0 15 0 == dir im n 0 15 0 &&
    dir im m 7 31 0 == dir im n 7 31 0 && dir im m 8 31 0 == dir im n 8 31 0 &&
    dirAddr im m 10 == dirAddr im n 10 && dirAddr im m 14 == dirAddr im n 14
  ((List.range (imCount im secSTREAM_DIR)).filter same).mergeSort
    (fun a b => decide (dir im a 1 19 14 ≤ dir im b 1 19 14))

/-! ## C37.118.2 frames (R123 to R126) -/

/-- Frame type, SYNC bits 6:4. -/
def c37Type (bs : List Byte) : Nat := bitsN (beAt bs 1 1) 6 4

/-- Check 1 of Table 4-3 on a C37.118.2 frame. -/
def c37Malformed (h : IpHdr) (bs : List Byte) : Bool :=
  let v := bitsN (beAt bs 1 1) 3 0
  h.frag || beAt bs 0 1 != 0xAA || decide (5 < c37Type bs) || (v != 1 && v != 2) || decide (beAt bs 2 2 < 16) ||
  beAt bs 2 2 != bs.length

/-- Check 2: CHK, the CRC-CCITT of every byte before it (R125). -/
def c37ChkOk (bs : List Byte) : Bool :=
  (crcCcitt (bs.take (bs.length - 2))).toNat == beAt bs (bs.length - 2) 2

/-! ## Timestamps (R55 to R57, R132 to R134) -/

/-- The module's own UTC second, or that of the RTC, or a reference second of the firmware before time is acquired (R56). After a timebase
restart too it is that of the RTC, which goes on. The RTC counts TAI, and the offset of VBAT SRAM makes it UTC. DESIGN CHOICE (assumptions 36
and 203). -/
def ownUtc (s : State) : Int :=
  if hasTime s then utcOf s (taiSec s)
  else if s.vbat.rtcValid then ((s.tb.now / 1000000000 : Nat) : Int) - s.vbat.utcOfs
  else (s.part.refSecond : Int)

/-- The second by which the module limits what may happen per second. -/
def limitSec (s : State) : Int := if hasTime s then utcOf s (taiSec s) else ((s.tb.now / 1000000000 : Nat) : Int)

/-- soc_resolve of R56. -/
def socResolve (soc : Word) (u : Int) : Int := u + sint 32 (uint 32 ((soc.toNat : Int) - u))

/-- The TAI second of UTC second `u`: a second before an applied leap second keeps the offset before it (R46, R53); `q5` is bit 5
of the time quality byte, which decides the second that follows a latched insertion (R55). -/
def taiOfUtc (s : State) (u : Int) (q5 : Bool) : Int :=
  match s.tb.leapPending, s.tb.leapAt with
  | true, _ =>
    let m := leapMidnight s
    if u < m then u + s.tb.ofs
    else if s.tb.leapDir then u + s.tb.ofs - 1
    else if u = m && !q5 then u + s.tb.ofs
    else u + s.tb.ofs + 1
  | false, some m =>
    let old := if s.tb.leapDir then s.tb.ofs + 1 else s.tb.ofs - 1
    if u < m then u + old
    else if u = m && !q5 && !s.tb.leapDir then u + old
    else u + s.tb.ofs
  | false, none => u + s.tb.ofs

/-- FRACSEC in ns: the nearest integer, ties upward (R57). -/
def fracNs (frac base : Nat) : Nat := roundDiv (frac * 1000000000) base

/-- The timestamp τ of a frame in TAI ns. -/
def frameTau (s : State) (soc : Word) (q5 : Bool) (ns : Nat) : Int :=
  taiOfUtc s (socResolve soc (ownUtc s)) q5 * 1000000000 + (ns : Int)

/-- Period of rate F in tk (R145). -/
def period (s : State) (rate : Nat) : Nat := if rate = 0 then tps s else tps s / rate

/-- W of a group, cyc. -/
def groupWindow (im : Image) (g : Nat) : Nat := imFld im secGROUP g 0 19 12
def groupRate (im : Image) (g : Nat) : Nat := imFld im secGROUP g 0 7 0
def groupEn (im : Image) (g : Nat) : Bool := imBit im secGROUP g 0 31

/-- C(I), R146. -/
def closeOf (s : State) (g inst : Nat) : Nat := inst + groupWindow s.cfg.active g * 1024

/-- SEQ of an instant at period P (R133). -/
def seqOf (s : State) (rate inst : Nat) : Nat := inst / period s rate % 2 ^ 32

/-- The reporting instant nearest to `tau` (ns), as a grid tick index (R133). -/
def nearestInst (s : State) (rate : Nat) (tau : Int) : Nat :=
  let p := period s rate
  (roundDivI (tau * (tps s : Int)) (1000000000 * p) * (p : Int)).toNat

/-! ## Values (R118, R119) -/

/-- A missing slot holds zeros. -/
def missingVal : Val := { missing := true }

/-- M × SCALE at an angle, each part rounded once to binary32 (R118). An infinite magnitude gives infinite parts; of an infinite angle the
parts are NaN. -/
def polarVal (m scale : Word) (angle : Option Fx) : Val :=
  match angle with
  | none => { a := nan32, b := nan32 }
  | some t =>
    let (c, v) := fxCis t
    if f32finite m && f32finite scale then
      let r := fxMul (fxOf32 m) (fxOf32 scale)
      { a := fxTo32 (fxMul r c), b := fxTo32 (fxMul r v) }
    else { a := f32mul (f32mul m scale) (fxTo32 c), b := f32mul (f32mul m scale) (fxTo32 v) }

/-- A phasor in engineering units from frame components. -/
def phasorVal (fmt : Nat) (scale : Word) (x y : Nat) : Val :=
  let fl := Nat.testBit fmt 1
  let polar := Nat.testBit fmt 0
  if fl then
    let a := w32 x
    let b := w32 y
    if f32isNan a || f32isNan b then missingVal
    else if polar then polarVal a scale (if f32finite b then some (fxOf32 b) else none)
    else { a := f32mul a scale, b := f32mul b scale }
  else if x = 0x8000 || y = 0x8000 then missingVal
  else if polar then polarVal (f32ofInt x) scale (some (fxOf (sint 16 y) 10000))
  else { a := f32mul (f32ofInt (sint 16 x)) scale, b := f32mul (f32ofInt (sint 16 y)) scale }

/-- Frequency, Hz. -/
def freqVal (f0 fmt x : Nat) : Val :=
  if Nat.testBit fmt 3 then (if f32isNan (w32 x) then missingVal else { a := w32 x })
  else if x = 0x8000 then missingVal else { a := f32ofRat ((f0 : Int) * 1000 + sint 16 x) 1000 }

/-- ROCOF, Hz/s. -/
def rocofVal (fmt x : Nat) : Val :=
  if Nat.testBit fmt 3 then (if f32isNan (w32 x) then missingVal else { a := w32 x })
  else if x = 0x8000 then missingVal else { a := f32ofRat (sint 16 x) 100 }

/-- An analog: received value × SCALE + OFFSET, rounded once. -/
def analogVal (fmt : Nat) (scale ofs : Word) (x : Nat) : Val :=
  if Nat.testBit fmt 2 then (if f32isNan (w32 x) then missingVal else { a := f32fma (w32 x) scale ofs })
  else if x = 0x8000 then missingVal else { a := f32fma (f32ofInt (sint 16 x)) scale ofs }

/-- Sizes of a phasor component, of FREQ and DFREQ, and of an analog in a frame. -/
def phSize (fmt : Nat) : Nat := if Nat.testBit fmt 1 then 4 else 2
def fqSize (fmt : Nat) : Nat := if Nat.testBit fmt 3 then 4 else 2
def anSize (fmt : Nat) : Nat := if Nat.testBit fmt 2 then 4 else 2

/-- Bytes of the PMU block of entry `n` (R126). -/
def blockSize (im : Image) (n : Nat) : Nat :=
  let fmt := dir im n 3 3 0
  2 + dir im n 3 31 23 * 2 * phSize fmt + 2 * fqSize fmt + dir im n 3 22 16 * anSize fmt + 2 * dir im n 3 15 10

/-- The values of the PMU block of entry `n` at byte `o` of a data frame, in channel order (R117). -/
def blockVals (im : Image) (n : Nat) (bs : List Byte) (o : Nat) : List Val :=
  let fmt := dir im n 3 3 0
  let base := dir im n 2 31 16
  let np := dir im n 3 31 23
  let na := dir im n 3 22 16
  let nd := dir im n 3 15 10
  let p := phSize fmt
  let q := fqSize fmt
  let a := anSize fmt
  let o1 := o + 2
  let o2 := o1 + np * 2 * p
  let o3 := o2 + 2 * q
  let o4 := o3 + na * a
  let cw := fun (i w : Nat) => imWord im secCHANNEL (base + i) w
  ((List.range np).map (fun i => phasorVal fmt (cw i 1) (beAt bs (o1 + i * 2 * p) p) (beAt bs (o1 + i * 2 * p + p) p))) ++
  [freqVal im.f0 fmt (beAt bs o2 q), rocofVal fmt (beAt bs (o2 + q) q)] ++
  ((List.range na).map (fun i => analogVal fmt (cw (np + 2 + i) 1) (cw (np + 2 + i) 2) (beAt bs (o3 + i * a) a))) ++
  ((List.range nd).map (fun i =>
    { a := BitVec.ofNat 32 (beAt bs (o4 + 2 * i) 2) &&& (cw (np + 2 + na + i) 3 &&& 0xFFFF#32) }))

/-- The effect of a received STAT on a block (Table 4-5): whether all its values are missing, and IFLAGS. -/
def statEffect (acceptTest : Bool) (stat : Nat) : Bool × Nat :=
  let v := bitsN stat 15 14
  let gone := v == 1 || v == 3 || (v == 2 && !acceptTest) || Nat.testBit stat 12
  let fl := (if v = 1 ∨ v = 3 then 2 ^ 15 else 0) + (if v = 2 then 2 ^ 14 else 0) +
    (if Nat.testBit stat 13 then 2 ^ 13 else 0) + (if Nat.testBit stat 12 then 2 ^ 12 else 0) +
    (if Nat.testBit stat 9 then 2 ^ 11 else 0)
  (gone, fl)

/-! ## Ingest records (R139) -/

/-- The record of stream `n` for instant `inst` in the ingest index. -/
def recOf (s : State) (n inst : Nat) : Option IngRec := s.ing.recs.find? (fun r => r.strm == n && r.inst == inst)

/-- A written record leaves the ingest region when the late span of its instant has passed (R139). -/
def pruneRecs (s : State) : State :=
  { s with ing := { s.ing with recs := s.ing.recs.filter (fun r =>
      !r.written || decide (s.tb.now ≤ gridNs s (closeOf s (dirGroup s.cfg.active r.strm) r.inst + lateSpan s * 1024))) } }

/-- Schedule a record for writing by its stage deadline. -/
def scheduleRec (r : IngRec) (s : State) : State := { s with ing := { s.ing with recs := s.ing.recs ++ [r] } }

/-- The bytes of a value slot of channel kind `kind` (Table 4-9). -/
def valBytes (a b : Word) : List Byte := leBytes 4 a.toNat ++ leBytes 4 b.toNat

/-- A bitmap of `n` flags in 32-bit words, flag 0 in bit 0. -/
def bitmapLE : List Bool → Nat
  | [] => 0
  | b :: l => b2n b + 2 * bitmapLE l

/-- The ingest record as it stands in DRAM (Table 4-9). -/
def recBytes (s : State) (r : IngRec) : List Byte :=
  let n := r.vals.length
  let body0 := 0x30 + 8 * n + 4 * ceilDiv n 32 + 4
  let len := ceilDiv body0 8 * 8
  let b := leBytes 2 0x0101 ++ leBytes 2 len ++ leBytes 2 r.strm ++ leBytes 2 n ++ leBytes 4 r.seq ++
    tsLE (gridNs s r.inst) ++ tsLE r.arr ++ leBytes 2 r.stat ++ leBytes 2 r.iflags ++ leBytes 4 r.claim.toNat ++
    leBytes 2 r.chanBase ++ zeros 2 ++ r.vals.flatMap (fun v => valBytes v.a v.b) ++
    leBytes (4 * ceilDiv n 32) (bitmapLE (r.vals.map (·.missing))) ++ zeros (len - body0)
  b ++ leBytes 4 (crc32 b).toNat

/-! ## Streams (R116, R127 to R131) -/

/-- The cap of the policer credit (R131). -/
def creditCap (s : State) (n : Nat) : Nat := dir s.cfg.active n 4 7 4 * tps s

/-- A stream enters STATE `st`; entering RUN sets the credit to its cap (R131). -/
def setStrmState (n st : Nat) (s : State) : State :=
  let s := if st = 3 ∧ (strmOf s n).st ≠ 3 then ingFlag 2 s else s
  modStrm n (fun r => { r with st := st, credit := if st = 2 ∧ r.st ≠ 2 then creditCap s n else r.credit }) s

/-- The second byte of SYNC for frame type `t`: the version that the module writes, 1 or 2, is free. -/
def syncLow (t : Nat) : Byte := BitVec.ofNat 8 (t * 16 + (if Config.c37Version2 then 2 else 1))

/-- A C37.118.2 command frame to a source (Table 4-6). Its FRACSEC is 0: no TIME_BASE of an output stream stands behind it (R57). DESIGN
CHOICE (assumption 37). -/
def cmdBytes (s : State) (id cmd : Nat) : List Byte :=
  let u := ownUtc s
  let b := [0xAA#8, syncLow 4] ++ beBytes 2 18 ++ beBytes 2 id ++ beBytes 4 (uint 32 u) ++
    beBytes 4 (timeQualByte s u * 2 ^ 24) ++ beBytes 2 cmd
  b ++ beBytes 2 (crcCcitt b).toNat

/-- The command paths of stream `n` to source `k`, or to every source (R128): its TCP connections, or over UDP from DST_PORT to the
source's address and port. Where the entry leaves them open, they are those of the latest frame bound to it; an address that is still unknown
gives no path, a port that is still unknown is free (assumption 38). -/
def cmdPaths (s : State) (n : Nat) (k : Option Nat) : List CmdPath :=
  let im := s.cfg.active
  let r := strmOf s n
  if dirTransport im n = 1 ∨ dirTransport im n = 2 then
    ((List.range 2).filter (fun i => (r.conn i).up && (k == none || k == some i))).map .tcp
  else
    let a := match r.peer with
      | some p => if dirPaired im n || dirAddr im n 10 == 0 then p.1 else dirAddr im n 10
      | none => dirAddr im n 10
    let p := if dir im n 8 15 0 ≠ 0 then dir im n 8 15 0 else match r.peer with
      | some p => p.2
      | none => Config.srcPort n
    if a = 0 then [] else [.udp a p (dir im n 8 31 16) (dir im n 7 27 16)]

/-- Bytes on the wire of a command to a source: 18 bytes by UDP or TCP. -/
def cmdLen (im : Image) (n : Nat) : CmdPath → Nat
  | .tcp k => ipLen (dirAddr im n (10 + 4 * k)) (dir im n 7 27 16) 18 true
  | .udp a _ _ v => ipLen a v 18 false

/-- The ports on which a command to a source leaves: those of the entry, or the port of the connection and its partner (R104). -/
def cmdMask (s : State) (n : Nat) : CmdPath → Nat
  | .tcp k => connMask s.cfg.active ((strmOf s n).conn k).port
  | .udp .. => dir s.cfg.active n 7 12 0

/-- The module sends a command to the source of stream `n` over its command path, to source `k` or to every one (R128). -/
def sendSrcCmd (n cmd : Nat) (s : State) (k : Option Nat := none) : State :=
  let im := s.cfg.active
  let s := modStrm n (fun r => { r with reqAt := s.tb.tick }) s
  (cmdPaths s n k).foldl (fun s p =>
    enqueueMask (cmdMask s n p) (.srcCmd n cmd p (cmdBytes s (dir im n 0 15 0) cmd)) (cmdLen im n p) none s) s

/-- The head of the bundle of entry `n`: the member of BLOCK 0 (R114). -/
def headOf (im : Image) (n : Nat) : Nat := (bundle im n).headD n

/-- A stream enters WAIT_CFG and CFG-2 is requested (Table 4-6). The source is one for the bundle, so the head asks, once for the members that
enter together. DEDUCED (assumption 39). -/
def waitCfg (n : Nat) (s : State) (k : Option Nat := none) : State :=
  let h := headOf s.cfg.active n
  let asked := (bundle s.cfg.active n).any (fun m => (strmOf s m).st == 1) && (strmOf s h).reqAt == s.tb.tick
  let s := setStrmState n 1 s
  if asked then s else sendSrcCmd h 5 s k

/-- The state of a stream at power-up, at a start of its vintage or at an activation that changes it: RUN without a required
configuration over UDP, R-SV and for a bay; WAIT_CFG with one; over TCP IDLE, or WAIT_CFG where a connection of `ca` and `cb` still stands
(R127 to R129, R131, Table 4-11). -/
def strmStart (ca cb : SrcConn) (n : Nat) (s : State) : State :=
  let im := s.cfg.active
  let t := dirTransport im n
  let tcp := t == 1 || t == 2
  let kept := fun (c : SrcConn) => if c.up && tcp then { c with turnedOn := false } else {}
  let s := { s with ing := { s.ing with strms := fset s.ing.strms n { ca := kept ca, cb := if dirPaired im n then kept cb else {}, credit := creditCap s n } } }
  if !dirValid im n then { s with ing := { s.ing with strms := fdel s.ing.strms n } }
  else if tcp then (if ca.up || (cb.up && dirPaired im n) then waitCfg n s else s)
  else if t = 0 ∧ imBit im secSTREAM_DIR n 0 28 then waitCfg n s
  else setStrmState n 2 s

/-- One boundary of the stream policer: the credit rises by RATE, capped (R131). -/
def policerTick (s : State) : State :=
  { s with ing := { s.ing with strms := s.ing.strms.map (fun (n, r) =>
      if dirValid s.cfg.active n then (n, { r with credit := min (creditCap s n) (r.credit + dirRate s.cfg.active n) })
      else (n, r)) } }

/-! ## Stream-derived time (R64 to R66) -/

/-- R65: STAT bits 15:14 are 0b00, bit 13 is 0, PMU time quality is 1 to 3, and message time quality code 0 to 5. -/
def sdtEligible (s : State) (n stat tq : Nat) : Bool :=
  let p := bitsN stat 8 6
  imBit s.cfg.active secSTREAM_DIR n 0 29 && bitsN stat 15 14 == 0 && !Nat.testBit stat 13 && decide (1 ≤ p ∧ p ≤ 3) &&
  decide (tq % 16 ≤ 5)

/-- A frame of stream `n` contributes to stream-derived time; the latest frame of the cyc stands, and an ineligible one takes the stream out of
the cyc. -/
def sdtNote (n stat tq : Nat) (a tau : Int) (s : State) : State :=
  if sdtEligible s n stat tq then
    let lp := if Nat.testBit tq 4 then (if Nat.testBit tq 6 then 2 else 1) else 0
    { s with tb := { s.tb with sdtCyc := fset s.tb.sdtCyc n (a - (tau + latency s n), lp) } }
  else { s with tb := { s.tb with sdtCyc := fdel s.tb.sdtCyc n } }

/-- λ is learned while source 1 or 2 is in use: the least (arrival − timestamp) of the last 1,024 frames (R64). The differences do
not outlast a reset, so the first frame after one replaces the value kept in the cellar. DESIGN CHOICE (assumption 202). -/
def learnLatency (n : Nat) (d : Int) (s : State) : State :=
  if s.tb.state == .locked && (s.tb.src == 1 || s.tb.src == 2) then
    let l := (d :: (strmOf s n).lats).take 1024
    let s := modStrm n (fun r => { r with lats := l }) s
    { s with nv := { s.nv with lat := fset s.nv.lat n (l.foldl min d) } }
  else s

/-! ## Data frames (Table 4-3, checks 5 to 15) -/

/-- What the frame-level checks decide. -/
inductive Verdict where
  /-- Dropped, counted in this per-stream counter of the head. -/
  | drop (ctr : Nat)
  | accept
  deriving DecidableEq, Repr

/-- The claim number of a frame of head `n`: the last two digital words of block 0 (R137). -/
def frameClaim (im : Image) (n : Nat) (bs : List Byte) : Word :=
  let e := 14 + blockSize im n
  BitVec.ofNat 32 (beAt bs (e - 4) 4)

/-- Check 6: the policer (R131). -/
def police (n : Nat) (s : State) : State × Bool :=
  if tps s ≤ (strmOf s n).credit then (modStrm n (fun r => { r with credit := r.credit - tps s }) s, true) else (s, false)

/-- Checks 10 to 12 on timestamp `tau` (ns) of stream `n` arriving at `arr`. -/
def timeChecks (s : State) (n arr : Nat) (tau : Int) : Option Nat :=
  let im := s.cfg.active
  let inst := nearestInst s (dirRate im n) tau
  if 2000000000 < (tau - (arr : Int)) * (f0 s : Int) then some 3
  else if (dir im n 6 31 22 * 1000 : Nat) < (tau - (gridNs s inst : Int)).natAbs then some 5
  else if gridNs s (closeOf s (dirGroup im n) inst + lateSpan s * 1024) < arr then some 4
  else none

/-- Check 13: the claim of a paired source (R137). It answers the state, and whether the frame goes on. -/
def claimCheck (n : Nat) (claim : Word) (s : State) : State × Bool :=
  if !dirPaired s.cfg.active n then (s, true)
  else
    let hi := fgetD s.nv.claimHi n 0#32
    let d := sint 32 ((claim - hi).toNat)
    if d < 0 then (s, false)
    else if 0 < d then
      (raise 0x0407 (strmObj s n) [] (ingFlag 4 { s with nv := { s.nv with claimHi := fset s.nv.claimHi n claim } }), true)
    else (s, true)

/-- STAT bit 10 of each PMU block of bundle `n` as just seen (R114, R128): a block where it becomes 1 raises ING_EV_CFG_CHANGE. One request
goes to the source, which is one for the bundle (Table 4-6). DEDUCED (assumption 39). -/
def bit10Seen (n : Nat) (ms : List (Nat × Bool)) (s : State) : State :=
  let chg := ms.filter (fun (m, b) => b != (strmOf s m).bit10)
  if chg.isEmpty then s
  else sendSrcCmd n 5 (chg.foldl (fun s (m, b) =>
    let s := modStrm m (fun r => { r with bit10 := b }) s
    if b then raise 0x0403 (strmObj s m) [] s else s) s)

/-- The members of bundle `n` and the place of each one's PMU block in a data frame. -/
def blockPlaces (im : Image) (n : Nat) : List (Nat × Nat) :=
  ((bundle im n).foldl (fun (acc : List (Nat × Nat) × Nat) m => (acc.1 ++ [(m, acc.2)], acc.2 + blockSize im m)) ([], 14)).1

/-- The records of an accepted data frame of head `n`: one per PMU block (R139, R114). -/
def frameRecs (s : State) (n : Nat) (f : Frame) (bs : List Byte) (inst : Nat) (claim : Word) : List IngRec :=
  let im := s.cfg.active
  (blockPlaces im n).map (fun (m, o) =>
    let stat := beAt bs o 2
    let (gone, fl) := statEffect (imBit im secSTREAM_DIR m 0 27) stat
    let vs := blockVals im m bs o
    { strm := m, seq := seqOf s (dirRate im n) inst, inst := inst, arr := f.arrival, stat := stat,
      iflags := fl + (if dirPaired im n then 2 ^ 10 else 0), claim := if dirPaired im n then claim else 0#32,
      chanBase := dir im m 2 31 16, vals := if gone then vs.map (fun _ => missingVal) else vs, port := f.port })

/-- A C37.118.2 data frame bound to head `n` (R122). Each block's STAT decides for its own stream whether it is eligible for stream-derived
time, and each stream learns its latency (R64, R65). Frames that checks 10 to 14 drop count among the last 1,024 too, since they have
arrived with a timestamp. DESIGN CHOICE (assumption 40). -/
def dataFrame (n : Nat) (f : Frame) (bs : List Byte) (s : State) : State :=
  let im := s.cfg.active
  if (strmOf s n).st ≠ 2 then strmCount n 8 s
  else
    let (s, ok) := police n s
    if !ok then strmCount n 1 s
    else if beAt bs 2 2 ≠ dir im n 4 31 16 then strmCount n 2 s
    else
      let soc := BitVec.ofNat 32 (beAt bs 6 4)
      let tq := beAt bs 10 1
      let ms := blockPlaces im n
      let ns := fracNs (beAt bs 11 3) (dir im n 5 23 0)
      let tau := frameTau s soc (Nat.testBit tq 5) ns
      let s := ms.foldl (fun s (m, o) => sdtNote m (beAt bs o 2) tq (f.rxTs : Int) tau s) s
      if !hasTime s then strmCount n 13 s
      else
        let s := ms.foldl (fun s (m, _) => learnLatency m ((f.rxTs : Int) - tau) s) s
        match timeChecks s n f.arrival tau with
        | some c => strmCount n c s
        | none =>
          let inst := nearestInst s (dirRate im n) tau
          let claim := frameClaim im n bs
          let (s, ok) := claimCheck n claim s
          if !ok then strmCount n 7 s
          else if (recOf s n inst).isSome then strmCount n 6 s
          else
            let s := (frameRecs s n f bs inst claim).foldl (fun s r => scheduleRec r s) (pruneRecs s)
            bit10Seen n (ms.map (fun (m, o) => (m, Nat.testBit (beAt bs o 2) 10))) (count (ING + 0x318) (strmCount n 0 s))

/-- The queue of the ingest record writer takes another frame (R354). Its depth is fixed and not stated (assumption 28). -/
def writerRoom (s : State) : Bool :=
  let q := s.ing.recs.filter (fun r => !r.written)
  (q.isEmpty || decide (q.length ≤ Config.writerDepth)) && (List.range 8).all (queueRoom s 0)

/-- DATA_FRAME_RX (R122). While the record writer's queue is full, the policer holds the frame (R354). -/
def execDataFrameRx (s : State) : Out := act s fun s =>
  if !writerRoom s then s
  else match takeHanded .streamData s with
  | none => s
  | some (h, s) => match h.frame.payload with
    | .ip _ bs _ => dataFrame h.obj h.frame bs s
    | _ => s

/-! ## Configuration and header frames (R126, R127, R130) -/

/-- The tests of R126 and R130 on a control frame bound to head `n`; whether it passes to the firmware. -/
def ctlAdmit (n : Nat) (bs : List Byte) (s : State) : State × Bool :=
  let sz := beAt bs 2 2
  if sz < 18 ∨ fld (imgReg s.cfg.active (ING + 0xC)) 15 0 < sz then (strmCount n 2 s, false)
  else
    let u := limitSec s
    let r := strmOf s n
    let k := if r.ctlSec = u then r.ctlN else 0
    if ctlRate s ≤ k then (strmCount n 12 s, false)
    else (strmCount n 11 (modStrm n (fun r => { r with ctlSec := u, ctlN := k + 1 }) s), true)

/-- The number of the first item of R127 in which block `m` differs; none when every item agrees. -/
def pmuDiffers (im : Image) (m : Nat) (p : CfgPmu) : Option Nat :=
  let fmt := dir im m 3 3 0
  let np := dir im m 3 31 23
  let na := dir im m 3 22 16
  let base := dir im m 2 31 16
  let sc := fun i => imWord im secCHANNEL (base + i) 1
  let of := fun i => imWord im secCHANNEL (base + i) 2
  if p.format ≠ fmt then some 2
  else if p.phnmr ≠ np ∨ p.annmr ≠ na ∨ p.dgnmr ≠ dir im m 3 15 10 then some 3
  else if p.fnom ≠ im.f0 then some 4
  else if !Nat.testBit fmt 1 ∧ p.phScale ≠ (List.range np).map sc then some 5
  else if !Nat.testBit fmt 2 ∧ p.anScale ≠ (List.range na).map (fun i => (sc (np + 2 + i), of (np + 2 + i))) then some 5
  else match p.phAngle with
    | some l => if l.all (fun a => a == 0#32 || a == 0x80000000#32) then none else some 6
    | none => none

/-- The number of the first item of R127 in which a configuration frame differs from the declaration of bundle `n`. -/
def cfgDiffers (im : Image) (n : Nat) (c : CfgFrame) : Option Nat :=
  let ms := bundle im n
  if c.numPmu ≠ ms.length then some 1
  else match (ms.zip c.pmus).findSome? (fun (m, p) => pmuDiffers im m p) with
    | some k => some k
    | none => if c.dataRate ≠ (dirRate im n : Int) then some 7
      else if c.timeBase ≠ dir im n 5 23 0 then some 8 else none

/-- CFG_CNT of every stream of bundle `n` follows a configuration frame (Table 4-1). -/
def noteCfgCnt (n : Nat) (c : CfgFrame) (s : State) : State :=
  ((bundle s.cfg.active n).zip c.pmus).foldl (fun s (m, p) => modStrm m (fun r => { r with cfgCnt := p.cfgCnt }) s) s

/-- A CFG-2 or CFG-3 frame of bundle `n` from its source `k` (R127). Command 0x0002 follows the first match after the connection (Table
4-6). A source over UDP has no connection: it gets the command at the first match after the start of the entry. DESIGN CHOICE (assumption
210). -/
def cfgFrame (n : Nat) (c : CfgFrame) (s : State) (k : Nat := 0) : State :=
  let im := s.cfg.active
  let ms := bundle im n
  let s := noteCfgCnt n c s
  match cfgDiffers im n c with
  | some i =>
    raise 0x0402 (strmObj s n) (leBytes 2 i) (ms.foldl (fun s m => setStrmState m 3 s) s)
  | none =>
    let s := raise 0x0401 (strmObj s n) [] (ms.foldl (fun s m => setStrmState m 2 s) s)
    if ((strmOf s n).conn k).turnedOn then s
    else sendSrcCmd n 2 (modStrm n (fun r => r.modConn k (fun c => { c with turnedOn := true })) s) (some k)

/-- CFG_FRAME_RX (R127). -/
def execCfgFrameRx (s : State) : Out := act s fun s =>
  match takeHanded .streamCfg s with
  | none => s
  | some (h, s) => match h.frame.payload with
    | .ip ip bs _ =>
      let (s, ok) := ctlAdmit h.obj bs s
      if ok then cfgFrame h.obj (cfgParse (c37Type bs) bs) s (srcUnit s.cfg.active h.obj ip.src) else s
    | _ => s

/-- HEADER_FRAME_RX (R123): a header or CFG-1 frame is stored for host read; CFG_CNT follows a CFG-1 frame. -/
def execHeaderFrameRx (s : State) : Out := act s fun s =>
  match takeHanded .streamHeader s with
  | none => s
  | some (h, s) => match h.frame.payload with
    | .ip _ bs _ =>
      let (s, ok) := ctlAdmit h.obj bs s
      if !ok then s
      else if c37Type bs = 1 then modStrm h.obj (fun r => { r with header := bs }) s
      else modStrm h.obj (fun r => { r with cfg1 := bs }) (noteCfgCnt h.obj (cfgParse 2 bs) s)
    | _ => s

/-- CFG_REQUEST_REPEAT (R128): every 10 s while a stream of the bundle is in WAIT_CFG or MISMATCH or its STAT bit 10 stays 1; the head asks
for its bundle. -/
def execCfgRequestRepeat (n ns : Nat) (s : State) : Out := act s fun s =>
  let s := seen ns s
  let wants := (bundle s.cfg.active n).any (fun m =>
    let r := strmOf s m
    r.st == 1 || r.st == 3 || r.bit10)
  if dirValid s.cfg.active n ∧ dir s.cfg.active n 1 19 14 = 0 ∧ wants ∧ (strmOf s n).reqAt + 10 * tps s ≤ s.tb.tick then
    sendSrcCmd n 5 s
  else s

/-! ## TCP (R129) -/

def isTcp (s : State) (n : Nat) : Bool :=
  dirValid s.cfg.active n && (dirTransport s.cfg.active n == 1 || dirTransport s.cfg.active n == 2)

/-- Entry `n` is a bundle head whose source `k` is reached by TCP; only a paired source has a second one (R129, R137). -/
def tcpHead (s : State) (n k : Nat) : Bool :=
  isTcp s n && dir s.cfg.active n 1 19 14 == 0 && (k == 0 || (k == 1 && dirPaired s.cfg.active n))

/-- Connection `k` of every stream of bundle `n` becomes `c`, and each stream takes STATE `st`. A paired source has two connections; the
establishment and the loss of either put the stream in WAIT_CFG and in IDLE, as R129 says of a connection. DEDUCED (assumption 212). -/
def setTcp (n st k : Nat) (c : SrcConn) (s : State) : State :=
  (bundle s.cfg.active n).foldl (fun s m => setStrmState m st (modStrm m (fun r => { r.modConn k (fun _ => c) with bit10 := false }) s)) s

/-- The lowest ingress port of entry `n`. -/
def lowPort (im : Image) (n : Nat) : Nat := ((List.range 13).find? (fun p => Nat.testBit (dir im n 7 12 0) p)).getD 0

/-- TCP_CONNECT: connection `k` of bundle `n` stands, on `port` or on the lowest one of the entry; its streams enter WAIT_CFG, and CFG-2 is
requested over it. -/
def execTcpConnect (n : Nat) (s : State) (k : Nat := 0) (port : Option Nat := none) : Out := act s fun s =>
  if tcpHead s n k ∧ !((strmOf s n).conn k).up then
    sendSrcCmd n 5 (raise 0x0404 (strmObj s n) [] (setTcp n 1 k { up := true, port := port.getD (lowPort s.cfg.active n) } s)) (some k)
  else s

/-- Connection `k` of bundle `n` is lost: its streams enter IDLE. -/
def tcpDown (n k : Nat) (s : State) : State := raise 0x0405 (strmObj s n) [] (setTcp n 0 k {} s)

def execTcpDisconnect (n : Nat) (s : State) (k : Nat := 0) : Out := act s fun s =>
  if tcpHead s n k ∧ ((strmOf s n).conn k).up then tcpDown n k s else s

/-- TCP_RETRY: a client connection that does not stand is tried again, every 5 s. -/
def execTcpRetry (n ns : Nat) (s : State) : Out := act s fun s =>
  let s := seen ns s
  let r := strmOf s n
  let down := !r.ca.up || (dirPaired s.cfg.active n && !r.cb.up)
  if dirValid s.cfg.active n ∧ dirTransport s.cfg.active n = 1 ∧ down ∧ r.reqAt + 5 * tps s ≤ s.tb.tick then
    modStrm n (fun r => { r with tcpTries := r.tcpTries + 1, reqAt := s.tb.tick }) s
  else s

/-! ## R-SV (R135, R136) -/

/-- The vault slot, KEY_CUR or KEY_NEXT, that holds the frame's Key ID; and whether it is KEY_NEXT. -/
def rsvSlot (s : State) (n keyId : Nat) : Option (Nat × Bool) :=
  let cur := dir s.cfg.active n 9 31 23
  let nxt := dir s.cfg.active n 9 22 14
  if slotHoldsKey s cur keyId then some (cur, false)
  else if slotHoldsKey s nxt keyId then some (nxt, true) else none

/-- Check 8 (R136): authentication and the SPDU number. The number last accepted is that of the last SPDU that passed this check, even where
a later check drops it, and the number is tested without authentication too. DESIGN CHOICE (assumption 213). -/
def rsvAuth (n : Nat) (m : RsvPdu) (s : State) : State × Verdict × Bool :=
  let fail := fun (s : State) =>
    raiseLimited 0x0408 0x0408 (strmObj s n) (leBytes 2 n) (ingFlag 3 s)
  let newer := match (strmOf s n).spdu with
    | some l => decide (0 < sint 32 ((m.spduNo - l).toNat))
    | none => true
  if !imBit s.cfg.active secSTREAM_DIR n 9 13 then
    if newer then (modStrm n (fun r => { r with spdu := some m.spduNo }) s, .accept, false) else (fail s, .drop 10, false)
  else match rsvSlot s n m.keyId with
    | none => (fail s, .drop 9, false)
    | some (k, isNext) =>
      let (s, ok) := if m.algOk then macVerify k m.signed m.sig s else (s, false)
      if !ok then (fail s, .drop 9, false)
      else
        let s := if isNext && (strmOf s n).nextUsed != some m.keyId then
            modStrm n (fun r => { r with nextUsed := some m.keyId }) (raise 0x0409 (strmObj s n) [] s)
          else s
        if !newer then (fail s, .drop 10, false)
        else (modStrm n (fun r => { r with spdu := some m.spduNo }) s, .accept, true)

/-- The values of an R-SV ASDU as record slots (Table 4-8, R118). -/
def rsvVals (im : Image) (n : Nat) (gone : Bool) (vs : List (QVal × Word)) : List Val :=
  let base := dir im n 2 31 16
  (vs.zip (List.range vs.length)).map (fun ((q, b), i) =>
    let kind := chan im (base + i) 0 31 29
    let sc := imWord im secCHANNEL (base + i) 1
    if gone || q.invalid then missingVal
    else if kind = 1 then phasorVal 3 sc q.bits.toNat b.toNat
    else if kind = 5 then { a := q.bits &&& (imWord im secCHANNEL (base + i) 3 &&& 0xFFFF#32) }
    else if kind = 4 then analogVal 4 sc (imWord im secCHANNEL (base + i) 2) q.bits.toNat
    else if f32isNan q.bits then missingVal else { a := q.bits })

/-- STAT of an R-SV record (Table 4-8). -/
def rsvStat (m : RsvPdu) : Nat :=
  let inv := m.vals.any (fun v => v.1.invalid)
  let q := m.vals.any (fun v => v.1.questionable || v.1.substituted)
  (if inv then 1 else if m.test then 2 else 0) * 2 ^ 14 + (if q then 2 ^ 9 else 0)

/-- An R-SV session PDU bound to stream `n`. -/
def rsvFrame (n : Nat) (f : Frame) (m : RsvPdu) (s : State) : State :=
  let im := s.cfg.active
  if (strmOf s n).st ≠ 2 then strmCount n 8 s
  else
    let (s, ok) := police n s
    if !ok then strmCount n 1 s
    else if m.spduLen ≠ dir im n 4 31 16 ∨ m.asdus ≠ 1 then strmCount n 2 s
    else
      let (s, v, auth) := rsvAuth n m s
      match v with
      | .drop c => strmCount n c s
      | .accept =>
        let ns := roundDiv (m.refrFrac * 1000000000) (2 ^ 24)
        let tau := frameTau s m.refrSec true ns
        if !hasTime s then strmCount n 13 s
        else
          let s := learnLatency n ((f.rxTs : Int) - tau) s
          match timeChecks s n f.arrival tau with
          | some c => strmCount n c s
          | none =>
            let inst := nearestInst s (dirRate im n) tau
            if (recOf s n inst).isSome then strmCount n 6 s
            else
              let gone := m.test && !imBit im secSTREAM_DIR n 0 27
              let st := rsvStat m
              let r : IngRec :=
                { strm := n, seq := seqOf s (dirRate im n) inst, inst := inst, arr := f.arrival, stat := st,
                  iflags := (if bitsN st 15 14 = 1 then 2 ^ 15 else 0) + (if m.test then 2 ^ 14 else 0) +
                    (if Nat.testBit st 9 then 2 ^ 11 else 0) + (if auth then 2 ^ 9 else 0),
                  claim := 0#32, chanBase := dir im n 2 31 16, vals := rsvVals im n gone m.vals, port := f.port }
              count (ING + 0x318) (strmCount n 0 (scheduleRec r (pruneRecs s)))

/-- RSV_SPDU_RX (R135). -/
def execRsvSpduRx (s : State) : Out := act s fun s =>
  if !writerRoom s then s
  else match takeHanded .rsv s with
  | none => s
  | some (h, s) => match h.frame.payload with
    | .rsv _ m => rsvFrame h.obj h.frame m s
    | _ => s

/-! ## Corrupt records (R141) -/

/-- A reader finds the record of stream `n` for `inst` corrupt: marked bad once, counted, reported. -/
def markBad (n inst : Nat) (s : State) : State :=
  match recOf s n inst with
  | none => s
  | some r =>
    if r.bad then s
    else
      let s := { s with ing := { s.ing with recs := s.ing.recs.map (fun x =>
        if x.strm == n && x.inst == inst then { x with bad := true } else x) } }
      let s := count (ING + 0x310) (strmCount n 14 (ingFlag 0 s))
      raise 0x0406 (strmObj s n) (leBytes 2 n ++ leBytes 4 r.seq) s

end Sys2Proof.Machine
end

