-- ==== Sys2Proof/Machine/Waveform.lean ====
section
/-!
DEFINITION. Sys2Proof/Machine/Waveform.lean: sampled values, the filter chain and local phasors (chapter 6).
-/
namespace Sys2Proof.Machine

/-! ## The image -/

/-- Bits `hi:lo` of word `w` of subscription `n` (Table 6-2). -/
def sub (im : Image) (n w hi lo : Nat) : Nat := imFld im secSV_SUB n w hi lo

def subValid (im : Image) (n : Nat) : Bool := imBit im secSV_SUB n 0 31

/-- fs of subscription `n`. -/
def subFs (im : Image) (n : Nat) : Nat :=
  let r := sub im n 0 30 29
  if r = 0 then 4000 else if r = 1 then 4800 else 14400

def subAsdus (im : Image) (n : Nat) : Nat := sub im n 0 28 25
def subChans (im : Image) (n : Nat) : Nat := sub im n 0 24 21
def subSimAccept (im : Image) (n : Nat) : Bool := imBit im secSV_SUB n 0 19

/-- The svID of subscription `n`. -/
def subSvId (im : Image) (n : Nat) : List Byte :=
  (((imRec im secSV_SUB n).drop 5).take 16 |>.flatMap (fun w => beBytes 4 w.toNat)).take (sub im n 3 6 0)

/-- Bits `hi:lo` of word `w` of slot `j` (Table 6-12). -/
def slotF (im : Image) (j w hi lo : Nat) : Nat := imFld im secSV_SLOT j w hi lo

def slotValid (im : Image) (j : Nat) : Bool := imBit im secSV_SLOT j 0 31

/-- fs of slot `j`. -/
def slotFs (im : Image) (j : Nat) : Nat := subFs im (j / 8)

/-- Half-length r of the median of slot `j` (R179). -/
def medHalf (im : Image) (j : Nat) : Nat := slotF im j 0 28 27

/-- MAX_AGE in tk. -/
def maxAge (s : State) : Nat := fld (imgReg s.cfg.active (SVF + 0xC)) 31 22

def subOf (s : State) (n : Nat) : SvSub := fgetD s.svf.subs n {}
def modSub (n : Nat) (f : SvSub → SvSub) (s : State) : State :=
  { s with svf := { s.svf with subs := fmod s.svf.subs n {} f } }
def svSlotOf (s : State) (j : Nat) : SvSlot := fgetD s.svf.slots j {}
def modSlot (j : Nat) (f : SvSlot → SvSlot) (s : State) : State :=
  { s with svf := { s.svf with slots := fmod s.svf.slots j {} f } }

/-- Count `k` in per-subscription counter `c` (Table 6-13). -/
def svCountN (n c k : Nat) (s : State) : State := countN (SVF + 0x200 + 4 * c) n k .all s
def svCount (n c : Nat) (s : State) : State := svCountN n c 1 s
def svFlag (b : Nat) (s : State) : State := setFlag s (SVF + 4) b

/-! ## Binding and policing (R171) -/

/-- The subscription to which a sampled-value frame is bound. -/
def bindSv (im : Image) (f : Frame) (m : SvFrame) : Option Nat :=
  let vid := match f.vlan with
    | some tci => tci % 4096
    | none => 0
  match m.asdus with
  | [] => none
  | a :: _ => (List.range (imCount im secSV_SUB)).find? (fun n =>
      subValid im n && sub im n 1 31 0 * 65536 + sub im n 2 31 16 == f.dst && sub im n 0 15 0 == m.appid &&
      sub im n 3 27 16 == vid && decide (f.port < 13) && Nat.testBit (sub im n 2 12 0) f.port && subSvId im n == a.svId)

/-- One boundary of a sampled-value policer: the message rate is fs / NASDU, so a frame costs NASDU whole credits (R131). -/
def svPolicerTick (s : State) : State :=
  let cap := fun n => sub s.cfg.active n 0 18 16 * tps s * subAsdus s.cfg.active n
  { s with svf := { s.svf with subs := s.svf.subs.map (fun (n, r) =>
      if subValid s.cfg.active n then (n, { r with credit := min (cap n) (r.credit + subFs s.cfg.active n) }) else (n, r)) } }

def svPolice (n : Nat) (s : State) : State × Bool :=
  let c := tps s * subAsdus s.cfg.active n
  if c ≤ (subOf s n).credit then (modSub n (fun r => { r with credit := r.credit - c }) s, true) else (s, false)

/-- A subscription starts: its policer stands at its cap and its chains start (R131, R188). -/
def subStart (n : Nat) (s : State) : State :=
  let im := s.cfg.active
  let s := modSub n (fun _ => { credit := sub im n 0 18 16 * tps s * subAsdus im n }) s
  (upFrom (8 * n) 8).foldl (fun s j => modSlot j (fun _ => {}) s) s

/-! ## The chain (R179 to R181) -/

/-- A sample of slot `j` as it enters the chain (R173, Table 6-3). -/
def chainIn (s : State) (j : Nat) (x : SvSamp) : SvY :=
  let im := s.cfg.active
  match x.placed, x.chans[j % 8]? with
  | true, some (v, q) =>
    let t := bit q 11 || x.sim
    let gone := fld q 1 0 == 1 || (t && !subSimAccept im (j / 8))
    let y := f32mul (f32ofInt v.toInt) (imWord im secSV_SLOT j 1)
    { a := x.a, arr := x.arr, v := if gone then none else some y, test := t && !gone, own := t && !gone,
      modified := !gone && (fld q 1 0 == 3 || bit q 10), unsync := !x.synced, placed := true,
      sat := bit q 2 || bit q 3 }
  | _, _ => { a := x.a }

/-- The median of the present values: the lower of the two middle values when their number is even (R179). -/
def medianOf (l : List Word) : Word :=
  let l := l.mergeSort (fun a b => f32le a b)
  l.getD ((l.length - 1) / 2) 0#32

/-- The output of a median filter of half-length `r` for the sample at place `r` of `med` (newest first); none while that sample
has not entered. -/
def medianOut (r : Nat) (med : List SvY) : Option SvY :=
  match med[r]? with
  | none => none
  | some c =>
    let w := med.take (2 * r + 1)
    let ps := w.filterMap (fun y => y.v)
    let on := w.filter (fun y => y.v.isSome)
    some { c with
      v := if r = 0 then c.v else if r < ps.length then some (medianOf ps) else none
      arr := (on.map (·.arr)).foldl max 0
      test := on.any (·.test)
      modified := on.any (·.modified)
      unsync := on.any (·.unsync) }

/-- The freeze source of slot `j` is up at sample `a`: a DI land at the tick boundary at or before it, or a freeze flag of the scheme logic
(R181). -/
def frzUp (s : State) (j a : Nat) : Bool :=
  let f := slotF s.cfg.active j 0 21 16
  let fs := slotFs s.cfg.active j
  if f = 0 then false
  else if f ≤ 0x10 then (logAt s.tb.diLog (a * tps s / fs) s.tb.di).getLsbD (f - 1)
  else if 0x20 ≤ f ∧ f < 0x40 then (logAt (s.sch.frzLog ++ [(0, 0#32)]) (a * 1000000000 / fs) 0#32).getLsbD (f - 0x20)
  else false

/-- The saturation flag of slot `j` at a sample with median output `c`: quality overflow or outOfRange, or |x| ≥ SAT_THR (R181). -/
def satUp (im : Image) (j : Nat) (c : SvY) : Bool :=
  c.sat || (match c.v with
    | some x => f32le (imWord im secSV_SLOT j 2) (f32abs x)
    | none => false)

/-- One sample through the DC-blocking stage (R180): the output, and the estimate after it. -/
def dcBlock (a : Nat) (frozen : Bool) (d : Word) (x : Option Word) : Option Word × Word :=
  match x with
  | none => (none, d)
  | some x =>
    if a = 0 then (some x, d)
    else
      let y := f32sub x d
      (some y, if frozen then d else f32add d (f32mul (f32ofRat 1 (2 ^ a)) y))

/-- A freeze of slot `j` starts (R181). -/
def freezeStart (j : Nat) (s : State) : State :=
  raiseLimited (0x0605 * 1024 + j) 0x0605 .all (leBytes 2 j) (flagCount (SVF + 4) 4 (SVF + 0x30C) s)

/-- The median output `c` passes the DC-blocking stage of slot `j`; `sat` says that a saturation flag of the subscription is up at it. -/
def dcStage (sat : Bool) (j : Nat) (c : SvY) (s : State) : State :=
  let im := s.cfg.active
  let up := sat || frzUp s j c.a
  let r := svSlotOf s j
  let last := if up then some c.a else r.frzLast
  let frozen := match last with
    | some l => decide (c.a ≤ l + slotF im j 0 7 0)
    | none => false
  let a := slotF im j 0 26 22
  let (y, d) := dcBlock a frozen r.d c.v
  let s := if frozen && !r.frozen then freezeStart j s else s
  let dcN := if c.v.isSome && !frozen then r.dcN + 1 else r.dcN
  let cold := decide (r.medN < 2 * medHalf im j + 1) || (a != 0 && decide (dcN < 4 * 2 ^ a))
  modSlot j (fun r => { r with
    frzLast := last, frozen := frozen, d := d, dcN := dcN
    firA := match r.firA, y with
      | none, some _ => some c.a
      | f, _ => f
    ys := ({ c with v := y, cold := cold } :: r.ys).take 4096 }) s

/-! ## Decimation and phasors (R182, R183) -/

/-- What a value is: not yet complete; missing because samples are missing; missing for warming (and, `gone`, for missing samples too); or a
value. -/
inductive Est (α : Type) where
  | open
  | gone
  | warming (gone : Bool)
  | val (a : α)
  deriving DecidableEq, Repr

def Est.isOpen {α : Type} : Est α → Bool
  | .open => true
  | _ => false
def Est.isGone {α : Type} : Est α → Bool
  | .gone => true
  | .warming g => g
  | _ => false
def Est.isWarming {α : Type} : Est α → Bool
  | .warming _ => true
  | _ => false

/-- The value of two estimates. -/
def Est.both {α β γ : Type} (f : α → β → γ) : Est α → Est β → Est γ
  | .open, _ => .open
  | _, .open => .open
  | .val a, .val b => .val (f a b)
  | x, y => if x.isWarming || y.isWarming then .warming (x.isGone || y.isGone) else .gone

/-- All of a list of estimates. -/
def estAll {α : Type} : List (Est α) → Est (List α)
  | [] => .val []
  | e :: l => Est.both (fun a as => a :: as) e (estAll l)

/-- The estimate, warming unless `b`. -/
def Est.warmIf {α : Type} (b : Bool) : Est α → Est α
  | .open => .open
  | e => if b then e else .warming e.isGone

/-- I0 of a value whose square, divided by 4, is `q`. -/
def fxI0 (q : Fx) : Fx :=
  ((List.range 120).reverse).foldl (fun acc k => fxUnit + fxMul q acc / (((k + 1) * (k + 1) : Nat) : Int)) (fxUnit : Int)

/-- h(τ) of R182 for τ = o / (4,096 · f0 · fs) s: sinc(12 f0 τ) × I0(8 sqrt(1 − (τ / 4Td)²)) / I0(8). The image carries it, evaluated by the
compiler, in a form that the spec does not give; it is taken as exact. DESIGN CHOICE (assumption 33). -/
def firKernel (fs : Nat) (o : Int) : Fx :=
  let x := fxMul fxPi (fxOf (12 * o) (4096 * fs))
  let u := fxOf o (1024 * fs)
  let sinc := if o = 0 then (fxUnit : Int) else fxDiv (fxCis x).2 x
  fxDiv (fxMul sinc (fxI0 (16 * ((fxUnit : Int) - fxMul u u)))) (fxI0 (16 * (fxUnit : Int)))

/-- First and last sample index with |t − t_k| < 4 Td, for `t` in quarter ticks. -/
def firSpan (f0 fs t : Nat) : Nat × Nat :=
  ((t - 1024) * fs / (4096 * f0) + 1, ceilDiv ((t + 1024) * fs) (4096 * f0) - 1)

/-- The FIR of a slot whose first input was sample `a` is warm when sample `k` enters: 8 Td have passed (Table 6-5). -/
def firWarm (f0 fs a k : Nat) : Bool := decide (a * 4096 * f0 + 2048 * fs ≤ k * 4096 * f0)

/-- y_d of slot `j` at `t` (quarter ticks), R182. -/
def decimated (s : State) (j t : Nat) : Est Fx :=
  let fs := slotFs s.cfg.active j
  let r := svSlotOf s j
  let (lo, hi) := firSpan (f0 s) fs t
  match r.ys, r.firA with
  | [], _ => .open
  | y :: _, fa =>
    if y.a < hi then .open
    else
      let ys := r.ys.filter (fun y => decide (lo ≤ y.a ∧ y.a ≤ hi))
      let ps := ys.filterMap (fun y => y.v.map (fun v => (firKernel fs ((y.a * 4096 * f0 s : Nat) - (t * fs : Nat) : Int), fxOf32 v)))
      let n := hi + 1 - lo
      let few := decide (n < 16 * (n - ps.length))
      if fa.all (fun a => !firWarm (f0 s) fs a hi) || ys.any (·.cold) then .warming (few && fa.any (fun a => decide (a ≤ lo)))
      else if few then .gone
      else .val (fxDiv ((ps.map (fun (h, y) => fxMul h y)).foldl (· + ·) 0) ((ps.map (·.1)).foldl (· + ·) 0))

/-- L of Table 6-4 for reporting rate `rate`. -/
def mClassL (f0 rate : Nat) : Nat :=
  if rate = 2 * f0 ∨ rate = 4 * f0 then 3 else if rate = f0 then 4 else if 2 * rate = f0 then 6 else 8

/-- The taps on each side of a window centre: 15 for class P, 8 L − 1 for class M. -/
def tapsHalf (f0 : Nat) (m : Bool) (rate : Nat) : Nat := if m then 8 * mClassL f0 rate - 1 else 15

/-- w_k of Table 6-4. -/
def tapWeight (f0 : Nat) (m : Bool) (rate : Nat) (k : Int) : Fx :=
  if m then ((fxUnit : Int) + (fxCis (fxMul fxPi (fxOf k (8 * mClassL f0 rate)))).1) / 2 else fxOf (16 - (k.natAbs : Int)) 1

def bay (im : Image) (b w hi lo : Nat) : Nat := imFld im secBAY b w hi lo
def bayValid (im : Image) (b : Nat) : Bool := imBit im secBAY b 0 31
def bayStrm (im : Image) (b : Nat) : Nat := bay im b 0 12 0
def bayRate (im : Image) (b : Nat) : Nat := groupRate im (dirGroup im (bayStrm im b))

/-- The phasor descriptors of bay `b`: type and slot. -/
def bayDescs (im : Image) (b : Nat) : List (Nat × Nat) :=
  (List.range (bay im b 0 28 24)).map (fun k =>
    let d := if k % 2 = 0 then bay im b (2 + k / 2) 15 0 else bay im b (2 + k / 2) 31 16
    (bitsN d 15 13, bitsN d 7 0))

/-- The slots that a phasor descriptor reads. -/
def descSlots (d : Nat × Nat) : List Nat := if d.1 = 0 then [d.2] else [d.2, d.2 + 1, d.2 + 2]

/-- The slots that bay `b` reads. -/
def baySlots (im : Image) (b : Nat) : List Nat := ((bayDescs im b).flatMap descSlots ++ descSlots (1, bay im b 1 7 0)).eraseDups

/-- The taps on each side of the longest window that a bay applies to slot `j`; none for a slot that no bay reads, which has no phasor. -/
def slotTaps (im : Image) (j : Nat) : Option Nat :=
  let bs := (imValid im secBAY).filter (fun b => (baySlots im b).contains j)
  if bs.isEmpty then none else some ((bs.map (fun b => tapsHalf im.f0 (imBit im secBAY b 0 30) (bayRate im b))).foldl max 0)

/-- The next decimation instant of slot `j`, if its span is complete: present values in a row, and the first full window (Table 6-5). -/
def decTick (j : Nat) (s : State) : State :=
  match slotTaps s.cfg.active j, (svSlotOf s j).firA, (svSlotOf s j).ys with
  | some h, some a, y :: _ =>
    let fs := slotFs s.cfg.active j
    let t := (svSlotOf s j).ydNext.getD (ceilDiv (a * 4096 * f0 s) fs / 256 * 256 + 1024 + j)
    if y.a < (firSpan (f0 s) fs t).2 then modSlot j (fun r => { r with ydNext := some t }) s
    else
      let present := match decimated s j t with
        | .val _ => true
        | .warming g => !g && decide (a ≤ (firSpan (f0 s) fs t).1)
        | _ => false
      let run := if present then (svSlotOf s j).ydRun + 1 else 0
      modSlot j (fun r =>
        let first := if 2 * h + 1 ≤ run then some (r.phFirst.getD (t - 256 * h)) else r.phFirst
        { r with ydNext := some (t + 256), ydRun := run, phFirst := first, phLast := if first.isSome then t - 256 * h else r.phLast }) s
  | _, _, _ => s

/-- Sample `x` enters the median filter of slot `j`. -/
def medPush (x : SvSamp) (j : Nat) (s : State) : State :=
  let i := chainIn s j x
  modSlot j (fun r => { r with med := (i :: r.med).take 7, medN := if i.placed then r.medN + 1 else r.medN }) s

/-- The slots in use of subscription `n`. -/
def subSlots (im : Image) (n : Nat) : List Nat := (upFrom (8 * n) (subChans im n)).filter (slotValid im)

/-- The longest median half-length of a subscription. Its slots pass the DC stage together, so that each sees the saturation of the others at
the same sample (R181). DEDUCED (assumption 32). -/
def subHalf (im : Image) (n : Nat) : Nat := ((subSlots im n).map (medHalf im)).foldl max 0

/-- The median output of slot `j` for the sample `k` places back: the window reaches the filter's half-length to each side. -/
def medianAt (s : State) (k j : Nat) : Option SvY :=
  let r := medHalf s.cfg.active j
  medianOut r ((svSlotOf s j).med.drop (k - r))

/-- A sample of subscription `n` becomes final: it is kept for capture and enters the chain of every slot. -/
def pushFinal (n : Nat) (x : SvSamp) (s : State) : State :=
  let im := s.cfg.active
  let js := subSlots im n
  let s := modSub n (fun r => { r with next := some (x.a + 1), fin := (x :: r.fin).take 65536 }) s
  let s := js.foldl (fun s j => medPush x j s) s
  let cs := js.filterMap (fun j => (medianAt s (subHalf im n) j).map (fun c => (j, c)))
  let sat := cs.any (fun (j, c) => satUp im j c)
  cs.foldl (fun s (j, c) => decTick j (dcStage sat j c s)) s

/-- Placed samples that no earlier sample holds back become final, at most `k` of them. -/
def drainSv : Nat → Nat → State → State
  | 0, _, s => s
  | k + 1, n, s =>
    let r := subOf s n
    match r.buf with
    | [] => s
    | x :: rest =>
      if r.next = some x.a then drainSv k n (pushFinal n x (modSub n (fun r => { r with buf := rest }) s)) else s

/-! ## Placing (R174, R175) -/

/-- The index of counter `c` of a stream at rate `fs`: the latest TAI second for which the instant is no later than arrival plus
1 tk (R174). -/
def placeIdx (s : State) (fs c arr : Nat) : Nat :=
  let g := tps s
  let e9 := 1000000000
  ((arr * g * fs + e9 * fs - c * e9 * g) / (e9 * g * fs)) * fs + c

/-- Sample index `a` is older than MAX_AGE at instant `ns` (R175). -/
def svOld (s : State) (fs a ns : Nat) : Bool :=
  decide (maxAge s * 1000000000 * fs + a * 1000000000 * tps s < ns * fs * tps s)

/-- Insert a sample in index order. -/
def insertSamp (x : SvSamp) : List SvSamp → List SvSamp
  | [] => [x]
  | y :: l => if x.a < y.a then x :: y :: l else y :: insertSamp x l

/-- The instant of sample `a` of subscription `n` already holds a sample. -/
def svHeld (r : SvSub) (a : Nat) : Bool := r.buf.any (·.a == a) || r.fin.any (fun x => x.a == a && x.placed)

/-- Counters skipped below `a` (R175). -/
def svGap (n a : Nat) (s : State) : State :=
  match (subOf s n).last with
  | some l =>
    if l + 1 < a then
      raiseLimited (0x0603 * 1024 + n) 0x0603 .all (leBytes 2 n) (svFlag 1 (svCountN n 4 (a - l - 1) s))
    else s
  | none => s

/-- The index of the first sample of a stream that is not older than MAX_AGE at `ns`, at most `a`: a chain starts there, so that a sample that
arrives out of order at the start still finds its place. -/
def svFirst (s : State) (fs a ns : Nat) : Nat :=
  min a (ceilDiv (ns * fs * tps s - maxAge s * 1000000000 * fs) (1000000000 * tps s))

/-- One ASDU of a frame of subscription `n` is placed on grid time. A sample that lies before those that the chain has taken finds its place
closed: it was counted in SV_GAP and is missing. DESIGN CHOICE (assumption 215). -/
def placeAsdu (n arr : Nat) (sim : Bool) (d : SvAsdu) (s : State) : State :=
  let fs := subFs s.cfg.active n
  let a := placeIdx s fs d.smpCnt arr
  let r := subOf s n
  if svHeld r a then svCount n 3 s
  else if r.next.any (fun x => decide (a < x)) then s
  else
    let s := svGap n a s
    let x : SvSamp := { a := a, arr := arr, sim := sim, synced := (subOf s n).synced, chans := d.data }
    let s := modSub n (fun r => { r with
      buf := insertSamp x r.buf, lastSmp := d.smpCnt, last := some (max a (r.last.getD a)), next := some (r.next.getD (svFirst s fs a arr)) }) s
    drainSv (subOf s n).buf.length n s

/-- The synchronised state of a stream after a frame (R176). -/
def syncAfter (s : State) (n : Nat) (m : SvFrame) : Bool :=
  m.asdus.all (fun d => d.smpSynch == 2 && (!imBit s.cfg.active secSV_SUB n 0 20 || d.gm == some s.tb.gm))

/-- SYNCED follows the frame: each change raises SVF_EV_SYNC; leaving counts in UNSYNC. -/
def noteSync (n : Nat) (b : Bool) (s : State) : State :=
  if (subOf s n).synced = b then s
  else
    let s := modSub n (fun r => { r with synced := b }) s
    let s := if b then s else svFlag 3 (svCount n 7 s)
    raise 0x0602 .all (leBytes 2 n ++ leBytes 1 (b2n b)) s

/-- A sampled-value frame bound to subscription `n` (R173 to R176). -/
def svFrame (n arr : Nat) (m : SvFrame) (s : State) : State :=
  let im := s.cfg.active
  if !hasTime s then flagCount (SVF + 4) 5 (SVF + 0x300) s
  else
  let (s, ok) := svPolice n s
  if !ok then svCount n 1 s
  else match m.asdus.find? (fun d => d.confRev != sub im n 4 31 0) with
    | some d => raiseLimited (0x0601 * 1024 + n) 0x0601 .all (leBytes 2 n ++ leBytes 4 d.confRev) (svFlag 2 (svCount n 5 s))
    | none =>
      if m.asdus.length ≠ subAsdus im n ∨ m.asdus.any (fun d => d.dsLen != 8 * subChans im n) then svCount n 6 s
      else if m.asdus.any (fun d => decide (subFs im n ≤ d.smpCnt)) then count (SVF + 0x304) s
      else
        let fs := subFs im n
        let first := match m.asdus with
          | d :: _ => placeIdx s fs d.smpCnt arr
          | [] => 0
        if svOld s fs first arr then svFlag 0 (svCount n 2 s)
        else
          let s := noteSync n (syncAfter s n m) (svCount n 0 s)
          m.asdus.foldl (fun s d => placeAsdu n arr m.sim d s) s

/-- Samples of subscription `n` that MAX_AGE has left unplaced by `ns` become final as missing, at most `k` of them. -/
def expireSv : Nat → Nat → Nat → State → State
  | 0, _, _, s => s
  | k + 1, n, ns, s =>
    match (subOf s n).next with
    | none => s
    | some a =>
      match (subOf s n).buf with
      | x :: rest =>
        if x.a = a then expireSv k n ns (pushFinal n x (modSub n (fun r => { r with buf := rest }) s))
        else if svOld s (subFs s.cfg.active n) a ns then expireSv k n ns (pushFinal n { a := a, placed := false } s)
        else s
      | [] => if svOld s (subFs s.cfg.active n) a ns then expireSv k n ns (pushFinal n { a := a, placed := false } s) else s

/-- How many samples of subscription `n` can become final by `ns`. -/
def expireFuel (s : State) (n ns : Nat) : Nat :=
  match (subOf s n).next with
  | none => 0
  | some a => ns * subFs s.cfg.active n / 1000000000 + 2 - a + (subOf s n).buf.length

/-! ## Phasors, frequency and ROCOF (R183 to R186) -/

/-- Slot `j` has been warm for `n` quarter ticks at window centre `tc`: 0 phasor, 4,096 frequency, 8,192 ROCOF (Table 6-5). -/
def slotWarm (s : State) (j tc n : Nat) : Bool := (svSlotOf s j).phFirst.any (fun f => decide (f + n ≤ tc))

/-- The phasor of slot `j` at window centre `tc` (quarter ticks), R183: 2π f0 t is 2π·tc / 4,096. Values between the samples and the record stay
exact; the spec states no rounding for them. DESIGN CHOICE (assumption 33). -/
def phasorAt (s : State) (m : Bool) (rate j tc : Nat) : Est Cx :=
  let h := tapsHalf (f0 s) m rate
  let ks := List.range (2 * h + 1)
  let at_ := fun (k : Nat) => tc + 256 * k - 256 * h
  let ws := ks.map (fun k => tapWeight (f0 s) m rate ((k : Int) - (h : Int)))
  let g := fxDiv (fxSqrt (2 * (fxUnit : Int))) (ws.foldl (· + ·) 0)
  let one := fun (y w : Fx) (t : Nat) =>
    let (c, v) := fxCis (fxMul (2 * fxPi) (fxOf (t % 4096 : Nat) 4096))
    let a := fxMul w y
    (fxMul a c, -(fxMul a v))
  match estAll (ks.map (fun k => decimated s j (at_ k))) with
  | .val ys =>
    let x := (ys.zip (ws.zip ks)).foldl (fun (acc : Cx) (y, w, k) => cxAdd acc (one y w (at_ k))) (0, 0)
    Est.warmIf (slotWarm s j tc 0) (.val (fxMul g x.1, fxMul g x.2))
  | .open => .open
  | .gone => Est.warmIf (slotWarm s j tc 0) .gone
  | .warming b => .warming b

/-- arg of a phasor; that of 0 is free (assumption 30). -/
def svArg (x : Cx) : Fx := if x = (0, 0) then fxWrap Config.argZero else fxArg x.1 x.2

/-- f0 + wrap(arg x − arg xp) × f0 / 2π. -/
def freqOf (f0 : Nat) (x xp : Cx) : Fx := fxOf f0 1 + fxDiv (fxWrap (svArg x - svArg xp) * (f0 : Int)) (2 * fxPi)

/-- X(tc) × exp(i·2π (fj − f0) δj), δj = (256 − j) / (4,096 f0) s (R184). -/
def carryOf (f0 j : Nat) (x : Cx) (fj : Fx) : Cx :=
  cxMul x (fxCis (fxMul (2 * fxPi) ((fj - fxOf f0 1) * ((256 - j : Nat) : Int) / ((4096 * f0 : Nat) : Int))))

/-- The sequence phasor of type `kind` of three phases (R185): 1 positive, 2 negative, 3 zero. -/
def seqOf3 (kind : Nat) (a b c : Cx) : Cx :=
  let r : Cx := (-((fxUnit : Int) / 2), fxSqrt (3 * (fxUnit : Int)) / 2)
  let q : Cx := (r.1, -r.2)
  let z := if kind = 1 then cxAdd a (cxAdd (cxMul r b) (cxMul q c)) else if kind = 2 then cxAdd a (cxAdd (cxMul q b) (cxMul r c))
    else cxAdd a (cxAdd b c)
  (z.1 / 3, z.2 / 3)

/-- The window centre of slot `j` for instant `i`, in quarter ticks (R184). -/
def centre (j i : Nat) : Nat := if j = 0 then 4 * i else 4 * i - (256 - j)

/-- The phasor of slot `j` carried to instant `i` (R184). -/
def carried (s : State) (m : Bool) (rate j i : Nat) : Est Cx :=
  let tc := centre j i
  let x := phasorAt s m rate j tc
  if j = 0 then x
  else Est.warmIf (slotWarm s j tc 4096)
    (Est.both (fun x xp => carryOf (f0 s) j x (freqOf (f0 s) x xp)) x (phasorAt s m rate j (tc - 4096)))

/-- A phasor of a bay at `i`: a slot, or a sequence of three slots (R185). -/
def bayPhasor (s : State) (m : Bool) (rate kind j i : Nat) : Est Cx :=
  if kind = 0 then carried s m rate j i
  else Est.both (fun a (bc : Cx × Cx) => seqOf3 kind a bc.1 bc.2) (carried s m rate j i)
    (Est.both (fun b c => (b, c)) (carried s m rate (j + 1) i) (carried s m rate (j + 2) i))

/-- The frequency triple from slot `j` has been warm for `n` quarter ticks at `i`. -/
def tripleWarm (s : State) (j i n : Nat) : Bool := [j, j + 1, j + 2].all (fun k => slotWarm s k (centre k i) n)

/-- f of a bay at `i` from the positive sequence of its frequency triple (R186). -/
def bayFreq (s : State) (m : Bool) (rate fsrc i : Nat) : Est Fx :=
  Est.warmIf (tripleWarm s fsrc i 4096) (Est.both (freqOf (f0 s)) (bayPhasor s m rate 1 fsrc i) (bayPhasor s m rate 1 fsrc (i - 1024)))

/-- ROCOF of a bay at `i` (R186). -/
def bayRocof (s : State) (m : Bool) (rate fsrc i : Nat) : Est Fx :=
  Est.warmIf (tripleWarm s fsrc i 8192)
    (Est.both (fun f fp => (f - fp) * (f0 s : Int)) (bayFreq s m rate fsrc i) (bayFreq s m rate fsrc (i - 1024)))

/-! ## Bays (R189 to R193) -/

/-- The half-span H of a bay's window in tk (Table 6-4). -/
def baySpan (im : Image) (b : Nat) : Nat :=
  if imBit im secBAY b 0 30 then (8 * mClassL im.f0 (bayRate im b) - 1) * 64 else 960

/-- Λ of bay `b` in ns from the instant, rounded up (R192). -/
def bayLambdaNs (s : State) (b : Nat) : Nat :=
  let im := s.cfg.active
  let r := ((baySlots im b).map (medHalf im)).foldl max 0
  let fs := slotFs im (bay im b 1 7 0)
  let g := tps s
  ceilDiv ((baySpan im b + 256 + maxAge s + 8) * 1000000000) g + ceilDiv (r * 1000000000) fs

/-- LAT_OK (R193). -/
def bayLatOk (im : Image) (b : Nat) : Bool :=
  let rate := bayRate im b
  let k := if imBit im secBAY b 0 30 then 5 else 2
  decide ((groupWindow im (dirGroup im (bayStrm im b)) * 1024 + 96) * rate ≤ k * 1024 * im.f0)

/-- An estimate as a record slot: the one rounding to binary32. -/
def estVal2 : Est Cx → Val
  | .val (a, b) => { a := fxTo32 a, b := fxTo32 b }
  | _ => missingVal

def estVal1 : Est Fx → Val
  | .val a => { a := fxTo32 a }
  | _ => missingVal

/-- The estimates of a bay's record: its phasors, then frequency and ROCOF. -/
abbrev BayEsts := List (Est Cx) × Est Fx × Est Fx

def bayEsts (s : State) (b i : Nat) : BayEsts :=
  let im := s.cfg.active
  let m := imBit im secBAY b 0 30
  let rate := bayRate im b
  let fsrc := bay im b 1 7 0
  ((bayDescs im b).map (fun (k, j) => bayPhasor s m rate k j i), bayFreq s m rate fsrc i, bayRocof s m rate fsrc i)

/-- Some estimate of a bay satisfies a test. -/
def anyEst (p : {α : Type} → Est α → Bool) (e : BayEsts) : Bool := e.1.any p || p e.2.1 || p e.2.2

/-- The DC outputs of slot `j` that enter the values of bay `b` at `i`: windows reach back 1,024 tk for the slot's frequency when it is carried
(R184), and 2,048 tk more for the frequency triple (R186). -/
def usedYs (s : State) (b i j : Nat) : List SvY :=
  let im := s.cfg.active
  let fs := slotFs im j
  let h := tapsHalf (f0 s) (imBit im secBAY b 0 30) (bayRate im b)
  let tc := centre j i
  let back := (if j = 0 then 0 else 4096) + (if (descSlots (1, bay im b 1 7 0)).contains j then 8192 else 0)
  let lo := (firSpan (f0 s) fs (tc - 256 * h - back)).1
  let hi := (firSpan (f0 s) fs (tc + 256 * h)).2
  (svSlotOf s j).ys.filter (fun y => decide (lo ≤ y.a ∧ y.a ≤ hi) && y.v.isSome)

/-- The record of bay `b` for instant `i`, with ARR `arr` (R190, R191, Table 6-7). -/
def bayRecord (s : State) (b i arr : Nat) : IngRec :=
  let im := s.cfg.active
  let n := bayStrm im b
  let e := bayEsts s b i
  let js := baySlots im b
  let off := fun (ks : List Nat) => ks.any (fun j => !(subOf s (j / 8)).synced) || !lphOk s
  let val := fun (ks : List Nat) (v : Val) => if off ks then missingVal else v
  let fs3 := descSlots (1, bay im b 1 7 0)
  let vals := ((bayDescs im b).zip e.1).map (fun (d, x) => val (descSlots d) (estVal2 x)) ++
    [val fs3 (estVal1 e.2.1), val fs3 (estVal1 e.2.2)]
  let none' := vals.all (·.missing)
  let ys := js.flatMap (usedYs s b i)
  let test := ys.any (·.test)
  let md := ys.any (·.modified)
  let chg := match fget? s.svf.changed b with
    | some t => decide (s.tb.now < t + 1000000000)
    | none => false
  let st := (if none' then 1 else if test then 2 else 0) * 2 ^ 14 + b2n (off js) * 2 ^ 13 + b2n chg * 2 ^ 10 + b2n md * 2 ^ 9 +
    fld (logAt s.tb.tqLog (gridNs s i) s.tb.tq) 8 4 * 16
  { strm := n, seq := seqOf s (bayRate im b) i, inst := i, arr := arr, stat := st,
    iflags := b2n none' * 2 ^ 15 + b2n test * 2 ^ 14 + b2n (off js) * 2 ^ 13 + b2n md * 2 ^ 11,
    claim := 0#32, chanBase := dir im n 2 31 16, vals := vals, port := 0xFF }

/-- The completing frame of a bay's record: the latest arrival that enters any value; the present instant where no sample does (R190). -/
def bayArrival (s : State) (b i : Nat) : Nat :=
  match (baySlots s.cfg.active b).flatMap (usedYs s b i) with
  | [] => s.tb.now
  | ys => (ys.map (·.arr)).foldl max 0

/-- WARM_STG of slot `j` (Table 6-12), stages from median down to ROCOF. A slot that no bay reads has no window (R183), and its last three
stages read 0. DEDUCED (assumption 34). -/
def warmStages (s : State) (j : Nat) : Nat :=
  let im := s.cfg.active
  let a := slotF im j 0 26 22
  let r := svSlotOf s j
  let med := decide (r.medN < 2 * medHalf im j + 1)
  let dc := a != 0 && decide (r.dcN < 4 * 2 ^ a)
  let fir := match r.firA, r.ys with
    | some f, y :: _ => !firWarm (f0 s) (slotFs im j) f y.a
    | _, _ => true
  let cold := fun (n : Nat) => (slotTaps im j).isSome && !slotWarm s j r.phLast n
  b2n med * 32 + b2n dc * 16 + b2n fir * 8 + b2n (cold 0) * 4 + b2n (cold 4096) * 2 + b2n (cold 8192)

/-- What follows the writing of a bay record: BAY_ALLMISS, and SVF_EV_WARM_DONE once (R188). -/
def bayWritten (b i : Nat) (r : IngRec) (s : State) : State :=
  let s := if r.vals.all (·.missing) then count (SVF + 0x308) s else s
  let e := bayEsts s b i
  if anyEst Est.isWarming e || anyEst Est.isOpen e || s.svf.warmDone.contains b then s
  else raise 0x0604 .all (leBytes 2 b) { s with svf := { s.svf with warmDone := b :: s.svf.warmDone } }

end Sys2Proof.Machine
end

