-- ==== Sys2Proof/Machine/Sources.lean ====
section
/-!
DEFINITION. Sys2Proof/Machine/Sources.lean: what results hand to other engines: output source values (Table 12-1), DO latches (R337,
R338), capture causes (Table 10-3), task triggers (R245, R248) and alarm frames that fall due (R332).
-/
namespace Sys2Proof.Machine

/-! ## Channels, groups and interconnections -/

def chanStrm (im : Image) (c : Nat) : Nat := chan im c 0 28 16
def chanPos (im : Image) (c : Nat) : Nat := chan im c 0 8 0
def chanKind (im : Image) (c : Nat) : Nat := chan im c 0 31 29
def chanGroup (im : Image) (c : Nat) : Nat := dirGroup im (chanStrm im c)

/-- Member streams of group `g`, in stream-index order. -/
def groupStrms (im : Image) (g : Nat) : List Nat :=
  (imValid im secSTREAM_DIR).filter (fun n => dirGroup im n == g)

/-- Coherency group of a station, area of a coherency group, interconnection of an area (Table 14-5). -/
def cgrpOfStation (im : Image) (n : Nat) : Nat := imFld im secSTATION n 0 7 0
def icnOfCgrp (im : Image) (c : Nat) : Nat := imFld im secAREA (imFld im secCGRP_AREA c 0 5 0) 0 1 0

/-- Interconnection of an island signal. -/
def icnOfSig (im : Image) (n : Nat) : Nat := icnOfCgrp im (imFld im secISL_SIGNAL n 0 23 16)

/-- Interconnection of a pair: that of its group A (R226). -/
def icnOfPair (im : Image) (p : Nat) : Nat := icnOfCgrp im (imFld im secISL_PAIR p 0 15 8)

/-- Interconnection of a tie. -/
def icnOfTie (im : Image) (t : Nat) : Nat := icnOfPair im (imFld im secISL_TIE t 0 29 20)

/-- Island signals, coherency groups, pairs and ties of interconnection `i`. -/
def icnSigs (im : Image) (i : Nat) : List Nat := (imValid im secISL_SIGNAL).filter (fun n => icnOfSig im n == i)
def icnGrps (im : Image) (i : Nat) : List Nat := (imValid im secISL_CGRP).filter (fun n => imFld im secISL_CGRP n 0 30 29 == i)
def icnPairs (im : Image) (i : Nat) : List Nat := (imValid im secISL_PAIR).filter (fun n => icnOfPair im n == i)
def icnTies (im : Image) (i : Nat) : List Nat := (imValid im secISL_TIE).filter (fun n => icnOfTie im n == i)

/-- The digital-word channels that a tie reads. -/
def tieChans (im : Image) (t : Nat) : List Nat :=
  ([1, 2].filter (fun w => imBit im secISL_TIE t w 13 && !imBit im secISL_TIE t w 15)).map
    (fun w => imFld im secISL_TIE t w 31 16)

/-- The island groups of interconnection `i` (R222). -/
def islGroups (im : Image) (i : Nat) : List Nat :=
  ((icnSigs im i).flatMap (fun n => chanGroup im (imFld im secISL_SIGNAL n 0 15 0) ::
      (if imBit im secISL_SIGNAL n 1 15 then [chanGroup im (imFld im secISL_SIGNAL n 1 31 16)] else [])) ++
    (icnTies im i).flatMap (fun t => (tieChans im t).map (chanGroup im))).eraseDups

/-- Group and source kind of a comparator. -/
def cmpGroup (im : Image) (c : Nat) : Nat := imFld im secISL_CMP c 0 17 12
def cmpSrc (im : Image) (c : Nat) : Nat := imFld im secISL_CMP c 0 27 25
def cmpPrim (im : Image) (c : Nat) : Nat := imFld im secISL_CMP c 0 30 28
def cmpPerArr (im : Image) (c : Nat) : Bool := imBit im secISL_CMP c 0 24

/-- Interconnection that a comparator of SRC 0b110 or 0b111 reads. -/
def cmpIcn (im : Image) (c : Nat) : Nat :=
  if cmpSrc im c = 6 then icnOfCgrp im (imFld im secISL_CMP c 1 23 16) else icnOfPair im (imFld im secISL_CMP c 1 25 16)

/-- Group of a vote, of an oscillation signal. -/
def voteGroup (im : Image) (v : Nat) : Nat := imFld im secVOTE v 0 30 25
def sigGroup (im : Image) (n : Nat) : Nat := imFld im secOSC_SIGNAL n 0 27 22

/-- Members of mode `m` (R207). -/
def modeMembers (im : Image) (m : Nat) : List Nat :=
  (List.range (imFld im secOSC_MODE m 5 17 7)).map (fun k =>
    imFld im secOSC_MEMB (imFld im secOSC_MODE m 5 31 18 + k) 0 11 0)

def modeRef (im : Image) (m : Nat) : Nat := imFld im secOSC_MODE m 0 27 16

/-- Groups of the family of reference signal `r` (R208). -/
def famGroups (im : Image) (r : Nat) : List Nat :=
  (((imValid im secOSC_MODE).filter (fun m => modeRef im m == r)).flatMap (fun m =>
    (modeMembers im m).map (sigGroup im))).eraseDups

/-- Groups that the target of an oscillation alarm spans. -/
def almGroups (im : Image) (a : Nat) : List Nat :=
  if imBit im secOSC_ALARM a 0 28 then famGroups im (modeRef im (imFld im secOSC_ALARM a 0 7 0))
  else [sigGroup im (imFld im secOSC_ALARM a 0 11 0)]

/-- Group of a task, or of its vote (R269). -/
def taskGroup (im : Image) (t : Nat) : Nat := imFld im secSCH_TASK t 0 29 24

/-! ## Output sources (R322) -/

/-- TYPE and INDEX of output source entry `e`. -/
def outSrc (im : Image) (e : Nat) : Nat × Nat := (imFld im secOUT_SOURCE e 0 31 28, imFld im secOUT_SOURCE e 0 15 0)

def bw (b : Bool) : Word := if b then 1#32 else 0#32

/-- The present value of an output source (Table 12-1). -/
def srcVal (s : State) (typ idx : Nat) : Word :=
  if typ = 0 then bw (fgetD s.isl.cmps idx {}).out
  else if typ = 1 then bw (fgetD s.osc.alms idx {}).sealOut
  else if typ = 2 then bw (fgetD s.aln.votes idx {}).val
  else if typ = 3 then bw (fgetD s.isl.pairs idx {}).islanded
  else if typ = 4 then bw (fgetD s.isl.pairs idx {}).slip
  else if typ = 5 then fgetD s.sch.points idx 0#32
  else if typ = 6 then bw (s.tb.di.getLsbD idx)
  else if typ = 7 then BitVec.ofNat 32 (fgetD s.isl.grps idx {}).island
  else 0#32

/-! ## Authority (R321) -/

/-- PAIR_CFG.MODE of the active vintage: 0 unpaired, 1 unit, 2 witness (R421). -/
def pairMode (s : State) : Nat := fld (imgReg s.cfg.active PAIR) 31 30

/-- The unit's authority ends at the instant of a planned handover (R442). -/
def handoverDue (s : State) : Bool :=
  match s.pair.hov with
  | some h => !h.past && decide (h.h ≤ s.tb.grid)
  | none => false

/-- PUB_AUTH.AUTH (R421, R423, R448): an unpaired module always, a witness never, a unit while ACTIVE before its lease end. -/
def authority (s : State) : Bool :=
  if s.cfg.active.paired then s.pair.auth && decide (s.tb.tick < s.pair.leaseEnd) && !handoverDue s
  else pairMode s != 2

/-- PUB_CLAIM: the claim number in force; 0 when unpaired. -/
def pubClaim (s : State) : Word := if s.cfg.active.paired then s.nv.claim else 0#32

/-! ## Hardwired outputs (R337, R338) -/

def doOf (s : State) (n : Nat) : Do := fgetD s.pub.dos n {}

/-- The land DOn is high (R509). -/
def doLand (s : State) (n : Nat) : Bool := landHigh s (doOf s n).level

def modDo (n : Nat) (f : Do → Do) (s : State) : State := { s with pub := { s.pub with dos := fmod s.pub.dos n {} f } }

/-- LEVEL of DO `n` changes to `b`. -/
def setLevel (n : Nat) (b : Bool) (s : State) : State :=
  modDo n (fun d => if d.level = b then d else { d with level := b, lastChg := s.tb.tick }) s

/-- DO `n` is latched with source value `v`. Without authority the drive state and the level stay. -/
def latchDo (n : Nat) (v : Bool) (s : State) : State :=
  if !authority s then s
  else
    let im := s.cfg.active
    let want := v != imBit im secDO n 0 29
    let d := doOf s n
    let s := modDo n (fun d => { d with st := 1 }) s
    if want then
      let rise := !d.level || d.fallHeld
      setLevel n true (modDo n (fun d => { d with fallHeld := false, lastRise := if rise then s.tb.tick else d.lastRise }) s)
    else if d.level && decide (s.tb.tick < d.lastRise + imFld im secDO n 1 31 16) then
      modDo n (fun d => { d with fallHeld := true }) s
    else setLevel n false (modDo n (fun d => { d with fallHeld := false }) s)

/-- The DOs whose output source entry satisfies `p` are latched (R337). -/
def latchDirect (p : Nat → Nat → Bool) (s : State) : State :=
  (List.range 16).foldl (fun s n =>
    let im := s.cfg.active
    let (t, i) := outSrc im (imFld im secDO n 0 15 0)
    if imBit im secDO n 0 31 && imBit im secDO n 0 30 && p t i then latchDo n (srcVal s t i != 0#32) s else s) s

/-- The DOs that point `p` of the scheme logic drives are latched at a scan end. -/
def latchPoint (p : Nat) (v : Word) (s : State) : State :=
  (List.range 16).foldl (fun s n =>
    let im := s.cfg.active
    if imBit im secDO n 0 31 && !imBit im secDO n 0 30 && imFld im secDO n 0 15 0 == p then latchDo n (v != 0#32) s else s) s

/-- DO `n` enters RELEASED (R338). -/
def releaseDo (n : Nat) (s : State) : State :=
  if (doOf s n).st = 0 then s
  else raise 0x0C04 .all (leBytes 2 n) (flagCount (PUB + 4) 3 (PUB + 0x31C)
    (setLevel n false (modDo n (fun d => { d with st := 0, fallHeld := false }) s)))

/-! ## Capture causes (R277, Table 10-3) -/

/-- An event source raises its causes: every recorder with a condition of KIND 1 on it learns of the event time `ns`. -/
def capEvent (esrc eidx ns : Nat) (s : State) : State :=
  let im := s.cfg.active
  let hits := (imValid im secCAP_COND).filter (fun k =>
    imBit im secCAP_COND k 0 30 && imFld im secCAP_COND k 1 31 28 == esrc && imFld im secCAP_COND k 1 15 0 == eidx &&
    imBit im secCAP_REC (k / 32) 0 31 && decide (k % 32 < imFld im secCAP_REC (k / 32) 0 15 8))
  { s with cap := { s.cap with causes := s.cap.causes ++ hits.map (fun k => { rcd := k / 32, cond := k % 32, ns := ns }) } }

/-! ## Task triggers (R245, R248) -/

def taskOf (s : State) (t : Nat) : Task := fgetD s.sch.tasks t {}
def modTask (t : Nat) (f : Task → Task) (s : State) : State := { s with sch := { s.sch with tasks := fmod s.sch.tasks t {} f } }

/-- The event object of a task. -/
def taskObj (s : State) (t : Nat) : EvObj := .groups [taskGroup s.cfg.active t]

/-- Count one in per-task counter `k` (Table 9-16). -/
def taskCount (t k : Nat) (s : State) : State := countW (SCH + 0x280 + 4 * k) t (taskObj s t) s

/-- Task `t` is triggered; a full queue drops the trigger. -/
def trigTask (t : Nat) (g : Trig) (s : State) : State :=
  let im := s.cfg.active
  let depth := if imBit im secSCH_TASK t 0 30 then imFld im secSCH_TASK t 0 9 0 else 1
  if (taskOf s t).queue.length < depth then modTask t (fun k => { k with queue := k.queue ++ [g] }) s
  else raise 0x0903 (taskObj s t) (leBytes 2 t) (setFlag (count (SCH + 0x320) (taskCount t 1 s)) (SCH + 8) 2)

/-- The vote-bound tasks of vote `v` are triggered by its release for instant `i`. -/
def trigVote (v i : Nat) (s : State) : State :=
  let im := s.cfg.active
  let g : Trig := { t := s.tb.tick, ns := s.tb.now, inst := i, seq := seqOf s (groupRate im (voteGroup im v)) i }
  ((List.range 16).filter (fun t => imBit im secSCH_TASK t 0 31 && imBit im secSCH_TASK t 0 30 &&
    imFld im secSCH_TASK t 0 23 12 == v)).foldl (fun s t => trigTask t g s) s

/-- The instant-bound tasks of group `g` are triggered at C(I). -/
def trigGroup (g i : Nat) (s : State) : State :=
  let im := s.cfg.active
  let c := closeOf s g i
  let tr : Trig := { t := s.tb.tick + c - s.tb.grid, ns := gridNs s c, inst := i, seq := seqOf s (groupRate im g) i }
  ((List.range 16).filter (fun t => imBit im secSCH_TASK t 0 31 && !imBit im secSCH_TASK t 0 30 &&
    taskGroup im t == g)).foldl (fun s t => trigTask t tr s) s

/-! ## Frames that fall due (R332) -/

/-- An output source has changed value: what follows departs by tick `due` (R322). -/
def srcMoved (typ idx due : Nat) (s : State) : State :=
  { s with pub := { s.pub with srcDue := fset s.pub.srcDue (typ * 65536 + idx) due } }

/-- The early alarm streams of vote `v` owe a frame for instant `i`, which departs by tick `due`. -/
def earlyAlarm (v i due : Nat) (b : Bool) (s : State) : State :=
  let im := s.cfg.active
  let os := (imValid im secOUT_STREAM).filter (fun n => imFld im secOUT_STREAM n 0 30 28 == 3 && imFld im secOUT_STREAM n 1 24 13 == v)
  { s with pub := { s.pub with due := s.pub.due ++ os.map (fun n => { os := n, inst := i, due := due, bit := b }) } }

/-! ## Frames for receive rings (R105, R414) -/

/-- The page of receive ring `r`. -/
def rxPage (r : Nat) : Nat := HIF + 0x400 + 0x20 * r

/-- Entries of a ring whose CFG register is `cfg`. -/
def ringSize (cfg : Word) (width : Nat) : Nat := 2 ^ fld cfg (width - 1) 0

/-- B, the buffer size of a receive ring. -/
def rxBuf (cfg : Word) : Nat := 512 * 2 ^ fld cfg 6 4

/-- A frame is queued for a receive ring of function `n`. A ring that is not enabled gets no frame; a frame longer than the ring can
ever hold is dropped at once. -/
def rxEnqueue (n : Nat) (w : RxWait) (s : State) : State :=
  let cfg := fnReg s n (rxPage w.ring + 8)
  if !bit cfg 31 then s
  else if rxBuf cfg * (ringSize cfg 4 - 1) < w.len then countFn n (rxPage w.ring + 0x14) (0x10 + w.ring) s
  else modFn s n (fun f => { f with rxWait := f.rxWait ++ [w] })

/-! ## Records for harvest rings (R416) -/

/-- A record for the harvest ring of every partition that `p` admits; `ctr` counts its drop. -/
def harvest (p : Nat → Bool) (typ : Nat) (group : Option Nat) (bytes : List Byte) (ctr : Option (Nat × Nat)) (s : State) : State :=
  [0, 1, 2, 3].foldl (fun s n =>
    if validFn s n && p n then modFn s n (fun f => { f with
      hrvWait := f.hrvWait ++ [{ typ := typ, group := group, bytes := bytes, gen := f.hrvGen, born := s.tb.tick, dropCtr := ctr }],
      hrvGen := f.hrvGen + 1 })
    else s) s

/-- The harvest ring of function `n` is enabled. -/
def hrvOn (s : State) (n : Nat) : Bool := bit (fnReg s n 0x1000C8) 31

/-- The ring of function `n` takes the records of group `g` (HRV_GRP). -/
def hrvGroup (s : State) (n g : Nat) : Bool :=
  hrvOn s n && readGroup s n g &&
  (if g < 32 then bit (fnReg s n 0x1000E0) g else bit (fnReg s n 0x1000E4) (g - 32))

/-- The ring of function `n` takes records of class bit `b` (HRV_CLASS). -/
def hrvClass (s : State) (n b : Nat) : Bool := hrvOn s n && bit (fnReg s n 0x1000DC) b

end Sys2Proof.Machine
end

