-- ==== Sys2Proof/Machine/Prims.lean ====
section
/-!
DEFINITION. Sys2Proof/Machine/Prims.lean: angles and the condition primitives of Table 8-5, which comparators and capture conditions
share (R233, R234, R239).
-/
namespace Sys2Proof.Machine

/-! ## Angles in binary32 (R201) -/

/-- 2π in binary32. -/
def twoPiW : Word := 0x40C90FDB#32

/-- X × conj Y, each operation rounded. -/
def mulConj (x y : Word × Word) : Word × Word :=
  (f32add (f32mul x.1 y.1) (f32mul x.2 y.2), f32sub (f32mul x.2 y.1) (f32mul x.1 y.2))

/-- One step of an unwrapped angle: the first value is the angle itself. -/
def unwrapF (u : Option Word) (a : Word) : Word :=
  match u with
  | none => a
  | some p => f32add p (wrapF (f32sub a p))

/-! ## Primitives -/

/-- The settings of a primitive. `need` is the number of instants for which it warms. -/
structure PrimCfg where
  prim : Nat
  dir : Nat
  mode : Bool
  miss : Bool
  armedWarm : Bool
  thr : Word
  thr2 : Word
  width : Nat
  span : Nat
  rate : Nat
  need : Nat
  deriving DecidableEq, Repr

/-- beyond(x) of PULSE. -/
def beyond (c : PrimCfg) (x : Word) : Bool :=
  if c.dir = 0 then f32le c.thr x else if c.dir = 1 then f32le x c.thr else f32le c.thr (f32abs x)

/-- PULSE on a present input: the new run, and the output. The run is kept one beyond what RUN shows (65,535), so that a run longer than any
WIDTH is told from one of WIDTH. -/
def pulseStep (c : PrimCfg) (run : Nat) (x : Word) : Nat × Bool :=
  let b := beyond c x
  let run' := if b then min 65536 (run + 1) else 0
  (run', if c.mode then !b && decide (1 ≤ run ∧ run ≤ c.width) else decide (c.width ≤ run'))

/-- RUNT on a present input: the new state (0 IDLE, 1 ARMED, 2 SPENT), and the output. The tests are for the rising rule; the
falling rule exchanges the thresholds and the order. -/
def runtStep (c : PrimCfg) (st : Nat) (x : Word) : Nat × Bool :=
  let x := if c.dir = 2 then f32abs x else x
  let spent := if c.dir = 1 then f32le x c.thr else f32le c.thr2 x
  let idle := if c.dir = 1 then f32lt c.thr2 x else f32lt x c.thr
  if spent then (2, false)
  else if idle then (0, st == 1)
  else (if st = 0 then 1 else st, false)

/-- SLEW: the rate over S instants, in three rounded steps (R233), against LIM. -/
def slewTest (c : PrimCfg) (x xs : Word) : Bool :=
  let d := f32div (f32mul (f32sub x xs) (f32ofInt c.rate)) (f32ofInt c.span)
  if c.dir = 0 then f32le c.thr d else if c.dir = 1 then f32le d (f32neg c.thr) else f32le c.thr (f32abs d)

/-- x < a − b, without rounding the difference. -/
def belowBy (x a b : Word) : Bool :=
  if f32finite x then decide (fxOf32 x + fxOf32 b < fxOf32 a) else f32lt x a

/-- EDGE: level with hysteresis; values compare without further rounding (R233). -/
def edgeStep (c : PrimCfg) (l : Bool) (x : Word) : Bool :=
  let x := if c.dir = 2 then f32abs x else x
  if c.dir = 1 then
    if f32le x c.thr then true else if belowBy (f32neg x) (f32neg c.thr) c.thr2 then false else l
  else
    if f32le c.thr x then true else if belowBy x c.thr c.thr2 then false else l

/-- One instant of a primitive on input `x`; none is a missing input (R233, R234). -/
def primRaw (c : PrimCfg) (x : Option Word) (p : PrimSt) : PrimSt :=
  if c.prim = 0 then
    match x with
    | some x => let (r, o) := pulseStep c p.run x; { p with run := r, raw := o }
    | none => if c.miss then { p with raw := p.raw && !c.mode } else { p with run := 0, raw := false }
  else if c.prim = 1 then
    match x with
    | some x => let (r, o) := runtStep c p.rstate x; { p with rstate := r, raw := o }
    | none => { p with rstate := if c.miss then p.rstate else 0, raw := false }
  else if c.prim = 3 then
    let q := { p with hist := (x :: p.hist).take 9 }
    match x, (p.hist.getD (c.span - 1) none) with
    | some x, some xs => { q with raw := slewTest c x xs }
    | _, _ => { q with raw := p.raw && c.miss }
  else if c.prim = 4 then
    match x with
    | some x => let l := edgeStep c p.level x; { p with level := l, raw := l }
    | none => if c.miss then { p with raw := p.level } else { p with level := false, raw := false }
  else p

/-- One instant of a primitive, with R239's rule on warming. The second component says that a true output was suppressed. -/
def primStep (c : PrimCfg) (x : Option Word) (p : PrimSt) : PrimSt × Bool :=
  let q := primRaw c x { p with n := p.n + 1 }
  let warm := decide (c.need ≤ q.n)
  ({ q with out := q.raw && (warm || c.armedWarm) }, q.raw && !warm && !c.armedWarm)

end Sys2Proof.Machine
end

