-- ==== Sys2Proof/Machine/Compare.lean ====
section
/-!
DEFINITION. Sys2Proof/Machine/Compare.lean: event comparators (R236 to R240) and votes (R159 to R162).
-/
namespace Sys2Proof.Machine

/-! ## The inputs of a detector, and its state when it is found corrupt (R160, R164, R223) -/

/-- The sealed set of group `g` for instant `i`. -/
def setOf (s : State) (g i : Nat) : Option ASet := s.aln.sets.find? (fun x => x.group == g && x.inst == i)

/-- The slot of channel `c` in a sealed set. -/
def setSlot (im : Image) (x : ASet) (c : Nat) : Option ASlot :=
  match x.blocks.find? (fun b => b.strm == chanStrm im c) with
  | some b => b.slots[chanPos im c]?
  | none => none

/-- The words of channel `c` in the sealed set of its group for `i`, if PRESENT (R223). -/
def setChan (s : State) (i c : Nat) : Option (Word × Word) :=
  match setOf s (chanGroup s.cfg.active c) i with
  | some x => match setSlot s.cfg.active x c with
    | some v => if v.mark = 0 then some (v.a, v.b) else none
    | none => none
  | none => none

/-- Instant `i` of group `g` is sealed. -/
def isSealed (s : State) (g i : Nat) : Bool :=
  let r := fgetD s.aln.grps g {}
  r.st == 2 && decide (i < r.nextSeal)

/-- The words of channel `c` in the record of its stream for instant `i`, if they are written, in time, good and present (R160). -/
def recChan (s : State) (i c : Nat) : Option (Word × Word) :=
  match recOf s (chanStrm s.cfg.active c) i with
  | some r =>
    if !r.written || r.bad || Nat.testBit r.iflags 8 then none
    else match r.vals[chanPos s.cfg.active c]? with
      | some v => if v.missing then none else some (v.a, v.b)
      | none => none
  | none => none

def alnFlag (b : Nat) (s : State) : State := setFlag s (ALN + 4) b

/-- A product of groups `gs` is rebuilt (`res` = 1), or its rebuild fails (2): events with product code `code` and the first group (R164,
R169). -/
def rebuildEvents (gs : List Nat) (code res : Nat) (s : State) : State :=
  let arg := leBytes 1 code ++ leBytes 2 (gs.headD 0)
  let s := if 1 ≤ res then raise 0x0502 (.groups gs) arg (alnFlag 1 s) else s
  if 2 ≤ res then raise 0x0503 (.groups gs) arg (alnFlag 2 s) else s

/-- A publication frame is checked at hand-off: `res` 1 reassembled, 2 not sent (Table 5-9). -/
def frameRebuild (gs : List Nat) (res : Nat) (s : State) : State :=
  let s := rebuildEvents gs 3 res (if 1 ≤ res then count (ALN + 0x30C) s else s)
  if 2 ≤ res then count (ALN + 0x310) s else s

/-- A detector state block is found corrupt and replays (R164). -/
def detReplay (g : Nat) (s : State) : State := rebuildEvents [g] 2 1 (alnFlag 3 (count (ALN + 0x308) s))

/-- The ingest records of instant `i` of group `g` are still held: its late span has not passed (R139). -/
def recsHeld (s : State) (g i : Nat) : Bool := decide (s.tb.now ≤ gridNs s (closeOf s g i + lateSpan s * 1024))

/-- The sealed instants of group `g` before `i` whose ingest records are still held, ascending. -/
def heldInsts (s : State) (g i : Nat) : List Nat :=
  ((s.aln.sets.filter (fun x => x.group == g && decide (x.inst < i) && recsHeld s g x.inst)).map (·.inst)).mergeSort (· ≤ ·)

/-- The instants that a state block of group `g` replays when it is found corrupt at the update of `i`: the sealed ones, then the open
ones that it has already seen. -/
def replayInsts (s : State) (g i : Nat) : List Nat :=
  let o := (fgetD s.aln.grps g {}).nextSeal
  let p := max 1 (period s (groupRate s.cfg.active g))
  heldInsts s g i ++ (List.range (ceilDiv (i - o) p)).map (fun k => o + k * p)

/-- A channel as a replay reads it: from the set of a sealed instant, from the record of an open one. -/
def replayChan (s : State) (g i c : Nat) : Option (Word × Word) := if isSealed s g i then setChan s i c else recChan s i c

/-! ## Comparators -/

def cmpOf (s : State) (c : Nat) : Cmp := fgetD s.isl.cmps c {}
def modCmp (c : Nat) (f : Cmp → Cmp) (s : State) : State := { s with isl := { s.isl with cmps := fmod s.isl.cmps c {} f } }

/-- A field of comparator `c` (Table 8-7). -/
def cmpF (im : Image) (c w hi lo : Nat) : Nat := imFld im secISL_CMP c w hi lo

/-- The rate at which a comparator runs. -/
def cmpRate (im : Image) (c : Nat) : Nat :=
  if cmpSrc im c < 6 then groupRate im (cmpGroup im c) else imgReg im (ISL + 0x40 + 4 * cmpIcn im c) |> fun w => fld w 15 8

/-- The settings of a comparator's primitive; warming is S + 1 instants for SLEW, 2 for SRC 0b100, 1 for 0b010 and 0b011 (R239). -/
def cmpPrimCfg (im : Image) (c : Nat) : PrimCfg :=
  let src := cmpSrc im c
  let sp := cmpF im c 4 15 12
  { prim := cmpPrim im c, dir := cmpF im c 0 23 22, mode := imBit im secISL_CMP c 0 21, miss := imBit im secISL_CMP c 0 20,
    armedWarm := imBit im secISL_CMP c 0 19, thr := imWord im secISL_CMP c 2, thr2 := imWord im secISL_CMP c 3,
    width := cmpF im c 4 31 16, span := sp, rate := cmpRate im c,
    need := max (if cmpPrim im c = 3 then sp + 1 else 0) (if src = 4 then 2 else if src = 2 ∨ src = 3 then 1 else 0) }

/-- The channels that a comparator reads at an instant. -/
def cmpChans (im : Image) (c : Nat) : List Nat :=
  let src := cmpSrc im c
  let a := cmpF im c 1 31 16
  if src = 3 ∨ src = 4 then [a, cmpF im c 1 15 0] else if src < 6 then [a] else []

/-- The angle residual of Table 8-8, SRC 0b100: the reals, rounded once. -/
def angResid (f0 rate : Nat) (an ap fp : Word) : Word :=
  if f32finite an && f32finite ap && f32finite fp then
    let turn := 2 * fxMul fxPi (fxOf32 fp - fxOf f0 1) / (rate : Int)
    let x := fxWrap (fxOf32 an - fxOf32 ap - turn)
    clampTurn (within1 8 [an, ap, fp] (fxTo32 x) x)
  else nan32

/-- The input x[n] of Table 8-8, and the primitive state with the angle and frequency memory it keeps. `get` gives the words of a
present channel. -/
def cmpInput (s : State) (c : Nat) (get : Nat → Option (Word × Word)) (p : PrimSt) : Option Word × PrimSt :=
  let im := s.cfg.active
  let src := cmpSrc im c
  let a := cmpF im c 1 31 16
  let b := cmpF im c 1 15 0
  if src = 0 then ((get a).map (·.1), p)
  else if src = 1 then ((get a).map (fun x => absF x.1 x.2), p)
  else if src = 2 then
    match get a with
    | some x => let u := unwrapF p.u (argF x.1 x.2); (some u, { p with u := some u })
    | none => (none, p)
  else if src = 3 then
    match get a, get b with
    | some x, some y => let z := mulConj x y; let u := unwrapF p.u (argF z.1 z.2); (some u, { p with u := some u })
    | _, _ => (none, p)
  else if src = 4 then
    let an := (get a).map (fun x => argF x.1 x.2)
    let fb := (get b).map (·.1)
    let x := match an, p.prevA, p.prevF with
      | some an, some ap, some fp => some (angResid (f0 s) (cmpRate im c) an ap fp)
      | _, _, _ => none
    (x, { p with prevA := an, prevF := fb })
  else if src = 5 then ((get a).map (fun x => if bit x.1 (cmpF im c 4 3 0) then 0x3F800000#32 else 0#32), p)
  else if src = 6 then ((fgetD s.isl.grps (cmpF im c 1 23 16) {}).freq.map (fun f => f32sub f (f32ofInt (f0 s))), p)
  else
    let q := fgetD s.isl.pairs (cmpF im c 1 25 16) {}
    (if b % 2 = 1 then some q.delta else if q.dfOk then some q.dfreq else none, p)

/-- Comparator `c` is evaluated at instant `i`; its outcome is kept until the seal reads it. -/
def cmpEval (c i : Nat) (get : Nat → Option (Word × Word)) (s : State) : State :=
  let k := cmpOf s c
  let (x, p) := cmpInput s c get k.p
  let (p, supp) := primStep (cmpPrimCfg s.cfg.active c) x p
  let s := if supp then count (ISL + 0x318) s else s
  modCmp c (fun k => { k with p := p, next := i + period s (cmpRate s.cfg.active c), outs := fset k.outs i p.out }) s

/-- Comparator `c` replays before its update at `i`; only its own state changes. -/
def cmpReplay (c i : Nat) (s : State) : State :=
  let g := cmpGroup s.cfg.active c
  let s' := (replayInsts s g i).foldl (fun s j => cmpEval c j (replayChan s g j) s) (modCmp c (fun _ => {}) s)
  let p := (cmpOf s' c).p
  modCmp c (fun k => { k with p := p }) (detReplay g s)

/-- OUT of comparator `c` takes the value `b` read at the seal of the instant of SEQ `seq` (R238, R240): a rise is counted,
reported, and handed to capture. What follows it departs by tick `due`. -/
def cmpSetOut (c seq ns due : Nat) (b : Bool) (s : State) : State :=
  let k := cmpOf s c
  if k.out = b then s
  else
    let im := s.cfg.active
    let s := srcMoved 0 c due (modCmp c (fun k => { k with out := b, lastChg := seq }) s)
    if b then
      let s := setFlag (count (ISL + 0x314) s) (ISL + 8) 3
      let s := if imBit im secISL_CMP c 0 18 then
          raiseLimited (0x0806 * 65536 + c) 0x0806 (.groups [cmpGroup im c]) (leBytes 2 c ++ leBytes 4 seq) s
        else s
      capEvent 0 c ns s
    else s

/-! ## Votes -/

def voteOf (s : State) (v : Nat) : Vote := fgetD s.aln.votes v {}
def modVote (v : Nat) (f : Vote → Vote) (s : State) : State := { s with aln := { s.aln with votes := fmod s.aln.votes v {} f } }

def voteK (im : Image) (v : Nat) : Nat := imFld im secVOTE v 0 24 13
def voteN (im : Image) (v : Nat) : Nat := imFld im secVOTE v 0 12 1

/-- Members of vote `v`: 16-bit member records (Table 14-5). -/
def voteMembers (im : Image) (v : Nat) : List Nat :=
  (List.range (voteN im v)).map (fun k => imFld im secVOTE_MEMB (imFld im secVOTE v 1 31 16 + k) 0 15 0)

/-- The member number of a comparator, or of an oscillation alarm. -/
def membCmp (c : Nat) : Nat := c
def membAlm (a : Nat) : Nat := 32768 + a

/-- The votes of group `g`. -/
def groupVotes (im : Image) (g : Nat) : List Nat := (imValid im secVOTE).filter (fun v => voteGroup im v == g)

/-- Vote `v` is released for instant `i` (R162): event, alarm frame, task and capture triggers, output sources. `path` is the arrival of the
completing frame, or the close instant that completed the vote. -/
def voteRelease (v i path : Nat) (s : State) : State :=
  let im := s.cfg.active
  let g := voteGroup im v
  let seq := seqOf s (groupRate im g) i
  let due := alarmDue s path
  let s := srcMoved 2 v due (modVote v (fun r => { r with lastSeq := seq, released := some (max i (r.released.getD 0)), val := true }) s)
  let s := count (ALN + 0x318) (countW (ALN + 0x18C) v (.groups [g]) s)
  let s := raise 0x0505 (.groups [g]) (leBytes 2 v ++ leBytes 4 seq) s
  let s := trigVote v i (earlyAlarm v i due true s)
  let s := capEvent 2 v (gridNs s i) s
  latchDirect (fun t k => t == 2 && k == v) s

/-- Member `m` of vote `v` has become evaluable at open instant `i`, at `path`, and its test is `b` (the procedure of R161). -/
def voteMember (v i m path : Nat) (b : Bool) (s : State) : State :=
  let r := fgetD (voteOf s v).insts i {}
  if r.done.contains m then s
  else
    let r := { r with done := m :: r.done }
    let put := fun (r : VInst) => modVote v (fun q => { q with insts := fset q.insts i r }) s
    if !b then put r
    else
      let r := { r with count := r.count + 1 }
      if r.count = voteK s.cfg.active v then voteRelease v i path (put { r with decided := true }) else put r

/-- The outcome `b` of member `m` at open instant `i`, evaluable at `path`, goes to every vote of group `g` that has the member. -/
def voteReady (g i m path : Nat) (b : Bool) (s : State) : State :=
  ((groupVotes s.cfg.active g).filter (fun v => (voteMembers s.cfg.active v).contains m)).foldl
    (fun s v => voteMember v i m path b s) s

/-- A vote at the seal of `i` (R161, Table 12-1): one that has not released is false for `i`; its early alarm streams owe the false
frame, 64 tk after the close instant (R32). -/
def voteSeal (v i : Nat) (s : State) : State :=
  let r := fgetD (voteOf s v).insts i {}
  let keep := match (voteOf s v).released with
    | some j => decide (i ≤ j)
    | none => false
  let due := alarmDue s (gridNs s (closeOf s (voteGroup s.cfg.active v) i))
  let s := if (voteOf s v).val && !keep then srcMoved 2 v due s else s
  let s := modVote v (fun q => { q with lastCount := r.count, rel := r.decided, val := q.val && keep,
                                        insts := q.insts.filter (fun e => decide (i < e.1)) }) s
  let s := if r.decided then s else earlyAlarm v i due false s
  latchDirect (fun t k => t == 2 && k == v) s

/-- The arrival of the record of channel `c`'s stream for `i`. -/
def recArr (s : State) (i c : Nat) : Nat :=
  match recOf s (chanStrm s.cfg.active c) i with
  | some r => r.arr
  | none => 0

/-- A per-arrival comparator is evaluated at `i`, and at the instants after it, as far as its inputs are present and its state is
final; at most `k` instants (R161). Each outcome goes to the votes while the instant is open. `bad` are the comparators whose
state is found corrupt at the first of these updates. -/
def cmpArrive (bad : List Nat) : Nat → Nat → Nat → State → State
  | 0, _, _, s => s
  | k + 1, c, i, s =>
    let im := s.cfg.active
    let q := cmpOf s c
    let g := cmpGroup im c
    let r := fgetD s.aln.grps g {}
    if cmpPerArr im c && q.next == i && r.st == 2 && decide (r.nextSeal ≤ i) &&
        (cmpChans im c).all (fun ch => (recChan s i ch).isSome) then
      let path := ((cmpChans im c).map (recArr s i)).foldl max q.path
      let s := cmpEval c i (recChan s i) (if bad.contains c then cmpReplay c i s else s)
      let s := voteReady g i (membCmp c) path (cmpOf s c).p.out (modCmp c (fun k => { k with path := path }) s)
      cmpArrive [] k c (i + period s (groupRate im g)) s
    else s

/-- The comparators on group `g` that read channels: those of SRC 0b000 to 0b101 whose primitive is not TIMEOUT. -/
def groupCmps (im : Image) (g : Nat) : List Nat :=
  (imValid im secISL_CMP).filter (fun c => cmpGroup im c == g && decide (cmpSrc im c < 6) && cmpPrim im c != 2)

/-- The TIMEOUT comparators whose channel lies in stream `n`, or whose stream it is. -/
def timeoutCmps (im : Image) (n : Nat) : List Nat :=
  (imValid im secISL_CMP).filter (fun c => cmpPrim im c == 2 && chanStrm im (cmpF im c 1 31 16) == n)

/-- A TIMEOUT comparator is reset by a record that arrived at `arr` (R233, R235). -/
def timeoutReset (c arr : Nat) (s : State) : State :=
  let s := modCmp c (fun k => { k with tmo := arr * tps s }) s
  if (cmpOf s c).out then
    let g := cmpGroup s.cfg.active c
    latchDirect (fun t k => t == 0 && k == c)
      (cmpSetOut c (seqOf s (groupRate s.cfg.active g) s.tb.grid) s.tb.now (alarmDue s arr) false s)
  else s

/-- The instants that comparator `c` has warmed for: those evaluated, or for TIMEOUT, which is decided between them, those of its group since
its start (R239). -/
def cmpAge (s : State) (c : Nat) : Nat :=
  let r := fgetD s.aln.grps (cmpGroup s.cfg.active c) {}
  if cmpPrim s.cfg.active c ≠ 2 then (cmpOf s c).p.n
  else if r.st = 2 ∧ r.start ≤ s.tb.grid then (s.tb.grid - r.start) / max 1 (period s (cmpRate s.cfg.active c)) + 1 else 0

def cmpWarming (s : State) (c : Nat) : Bool := decide (cmpAge s c < (cmpPrimCfg s.cfg.active c).need)

/-- The first grid tick index at which the timer of comparator `c` exceeds TMO (Table 8-5). -/
def timeoutAt (s : State) (c : Nat) : Nat := (cmpOf s c).tmo / 1000000000 + cmpF s.cfg.active c 5 23 0 + 1

/-- TIMEOUT_EXPIRY (R233, R235): the timer of comparator `c` exceeds TMO at the latest tick boundary. While it is warming its output stays
false unless ARMED_WARM = 1 (R239). -/
def execTimeoutExpiry (c : Nat) (s : State) : Out := act s fun s =>
  let im := s.cfg.active
  let g := cmpGroup im c
  if imBit im secISL_CMP c 0 31 && cmpPrim im c == 2 && (fgetD s.aln.grps g {}).st == 2 && !(cmpOf s c).out &&
      decide (timeoutAt s c ≤ s.tb.grid) && (!cmpWarming s c || imBit im secISL_CMP c 0 19) then
    latchDirect (fun t k => t == 0 && k == c)
      (cmpSetOut c (seqOf s (groupRate im g) s.tb.grid) (gridNs s s.tb.grid) (tickAt s (timeoutAt s c) + 64) true s)
  else s

end Sys2Proof.Machine
end

