-- ==== Sys2Proof/Machine/Osc.lean ====
section
/-!
DEFINITION. Sys2Proof/Machine/Osc.lean: oscillation detection (chapter 7).
-/
namespace Sys2Proof.Machine

def sigOf (s : State) (n : Nat) : OscSig := fgetD s.osc.sigs n {}
def modSig (n : Nat) (f : OscSig → OscSig) (s : State) : State := { s with osc := { s.osc with sigs := fmod s.osc.sigs n {} f } }
def sigF (im : Image) (n w hi lo : Nat) : Nat := imFld im secOSC_SIGNAL n w hi lo
def sigRate (im : Image) (n : Nat) : Nat := groupRate im (sigGroup im n)
def sigDwin (im : Image) (n : Nat) : Nat := sigF im n 4 12 0

/-- Bank layout of bank `k` of signal `n`; 0xFF = off. -/
def sigLay (im : Image) (n k : Nat) : Nat := sigF im n (2 + k / 4) (8 * (k % 4) + 7) (8 * (k % 4))

/-- Bins of signal `n` whose bank is on. -/
def sigBins (im : Image) (n : Nat) : List Nat :=
  ((List.range 8).filter (fun k => sigLay im n k != 0xFF)).flatMap (fun k => upFrom (16 * k) 16)

/-- FC and BW of bin `b` of signal `n` (R199). -/
def binFc (im : Image) (n b : Nat) : Word := imWord im secOSC_LAYOUT (sigLay im n (b / 16)) (2 * (b % 16))
def binBw (im : Image) (n b : Nat) : Word := imWord im secOSC_LAYOUT (sigLay im n (b / 16)) (2 * (b % 16) + 1)

/-- Chain start of signal `n` with `next` as its next instant (R201, R218). -/
def sigStart (n next : Nat) (s : State) : State :=
  modSig n (fun _ => { bins := (sigBins s.cfg.active n).map (fun b => (b, { fbar := binFc s.cfg.active n b })), next := next }) s

/-! ## The resonator (R201 to R203) -/

def oneW : Word := 0x3F800000#32

/-- The complex product, each operation rounded. -/
def cmulF (x y : Word × Word) : Word × Word :=
  (f32sub (f32mul x.1 y.1) (f32mul x.2 y.2), f32add (f32mul x.1 y.2) (f32mul x.2 y.1))

/-- λ = 1 − 1/N. -/
def oscLam (n : Nat) : Word := f32sub oneW (f32div oneW (f32ofInt n))

/-- r = exp(−π·BW / F) in binary64 (R199). -/
def oscR64 (bw : Word) (rate : Nat) : Nat :=
  let (m, k) := fxExp (-(fxMul fxPi (fxOf32 bw)) / (rate : Int))
  fxTo64E m k

/-- r as the update uses it, in binary32. -/
def oscR (bw : Word) (rate : Nat) : Word := w32 (fconv fmt64 fmt32 (oscR64 bw rate))

/-- p = r·exp(i·2π·FC / F) in binary64, rounded to binary32 (R199). Each part is rounded once to binary64: the spec gives the precision and not
the order of the operations. DESIGN CHOICE (assumption 31). -/
def oscP (fc bw : Word) (rate : Nat) : Word × Word :=
  let (m, k) := fxExp (-(fxMul fxPi (fxOf32 bw)) / (rate : Int))
  let (c, v) := fxCis (2 * fxMul fxPi (fxOf32 fc) / (rate : Int))
  (w32 (fconv fmt64 fmt32 (fxTo64E (fxMul m c) k)), w32 (fconv fmt64 fmt32 (fxTo64E (fxMul m v) k)))

/-- The damping of a bin is valid: N updates, and den > 0 (R206). -/
def dampValid (dwin : Nat) (k : OscBin) : Bool := decide (dwin ≤ k.n) && k.denOk

/-- The filter part of an update: z and fbar; `x` is none for a fill. -/
def binFilter (f : Word) (r : Word) (p : Word × Word) (dwin : Nat) (x : Option Word) (k : OscBin) : OscBin :=
  match x with
  | some x =>
    let z := cmulF p (k.zre, k.zim)
    let z := (f32add z.1 (f32mul (f32sub oneW r) x), z.2)
    let w := mulConj z (k.zre, k.zim)
    let d := argF w.1 w.2
    let e := f32div (f32sub (f32div (f32mul d f) twoPiW) k.fbar) 0x41000000#32
    { k with zre := z.1, zim := z.2, fbar := f32add k.fbar e }
  | none =>
    let sg := if dampValid dwin k then k.sigma else 0#32
    let a := expF (f32div sg f)
    let b := f32div (f32mul twoPiW k.fbar) f
    let z := cmulF (k.zre, k.zim) (f32mul a (cosF b), f32mul a (sinF b))
    { k with zre := z.1, zim := z.2 }

/-- The regression part of an update. -/
def binRegress (f lam afloor : Word) (have_ : Bool) (k : OscBin) : OscBin :=
  let s2 := f32mul lam (f32add (f32sub k.s2 (f32mul 0x40000000#32 k.s1)) k.s0)
  let s1 := f32mul lam (f32sub k.s1 k.s0)
  let sty := f32mul lam (f32sub k.sty k.sy)
  let s0 := f32add (f32mul lam k.s0) (if have_ then oneW else 0#32)
  let a := absF k.zre k.zim
  let l := logF (if f32lt a afloor || f32isNan a then afloor else a)
  let sy := f32add (f32mul lam k.sy) (if have_ then l else 0#32)
  let den := f32sub (f32mul s0 s2) (f32mul s1 s1)
  let ok := f32lt 0#32 den
  let num := f32sub (f32mul s0 sty) (f32mul s1 sy)
  { k with s0 := s0, s1 := s1, s2 := s2, sy := sy, sty := sty, denOk := ok,
           sigma := if ok then f32div (f32mul f num) den else 0#32 }

/-- Every state value of a bin is finite. -/
def binFinite (k : OscBin) : Bool :=
  [k.zre, k.zim, k.fbar, k.s0, k.s1, k.s2, k.sy, k.sty, k.sigma].all f32finite

/-- One update of bin `b` of signal `n` (R201, R203). -/
def binStep (im : Image) (n b : Nat) (x : Option Word) (k : OscBin) : OscBin :=
  let rate := sigRate im n
  let f := f32ofInt rate
  let fc := binFc im n b
  let bw := binBw im n b
  let k := { binFilter f (oscR bw rate) (oscP fc bw rate) (sigDwin im n) x k with reset := false, n := k.n + 1 }
  let k := binRegress f (oscLam (sigDwin im n)) (imWord im secOSC_SIGNAL n 5) x.isSome k
  if binFinite k then k else { fbar := fc, reset := true }

/-- Amplitude of bin `b` (R202). -/
def binAmp (im : Image) (n b : Nat) (k : OscBin) : Word :=
  let a := absF k.zre k.zim
  if f32eq (f32mul 0x40000000#32 (binFc im n b)) (f32ofInt (sigRate im n)) then a else f32mul 0x40000000#32 a

/-- Damping ratio of a bin (R202). -/
def binDamp (k : OscBin) : Word :=
  let w := f32mul twoPiW k.fbar
  f32div (f32neg k.sigma) (sqrtF (f32add (f32mul k.sigma k.sigma) (f32mul w w)))

/-- σ and fbar are not both 0. -/
def dampDefined (k : OscBin) : Bool := !(f32eq k.sigma 0#32 && f32eq k.fbar 0#32)

/-- Amplitude and frequency of bin `b` are valid: ceil(2F / FC) updates (R206). -/
def ampValid (im : Image) (n b : Nat) (k : OscBin) : Bool :=
  match toRat fmt32 (binFc im n b).toNat with
  | some (p, q) => decide (ceilDiv (2 * sigRate im n * q) p.toNat ≤ k.n) && !k.reset
  | none => false

/-! ## Signals (R196, R198, R204 to R206) -/

/-- s of signal `n` from the words of its channels, and the unwrapped angle after it (Table 7-1). -/
def sigValue (im : Image) (n : Nat) (u : Option Word) (a b : Word × Word) : Word × Option Word :=
  let kind := sigF im n 0 30 28
  let pm := if imBit im secOSC_SIGNAL n 0 20 then 0x40400000#32 else oneW
  if kind = 0 then (absF a.1 a.2, u)
  else if kind = 1 then (a.1, u)
  else if kind = 2 then
    let z := mulConj a b
    let v := unwrapF u (argF z.1 z.2)
    (v, some v)
  else if kind = 3 then (f32mul (mulConj a b).1 pm, u)
  else (f32mul (mulConj a b).2 pm, u)

/-- The channels that signal `n` reads. -/
def sigChans (im : Image) (n : Nat) : List Nat :=
  if sigF im n 0 30 28 < 2 then [sigF im n 0 15 0] else [sigF im n 0 15 0, sigF im n 1 31 16]

/-- The record of channel `c`'s stream for `i` is written. -/
def recWritten (s : State) (i c : Nat) : Bool :=
  match recOf s (chanStrm s.cfg.active c) i with
  | some r => r.written && !Nat.testBit r.iflags 8
  | none => false

/-- A bin reset is counted and reported (R203). -/
def noteResets (n : Nat) (bins : FMap OscBin) (s : State) : State :=
  (bins.filter (fun e => e.2.reset)).foldl (fun s e =>
    raise 0x0705 (.groups [sigGroup s.cfg.active n]) (leBytes 2 n ++ leBytes 1 e.1)
      (setFlag (count (OSC + 0x314) s) (OSC + 8) 2)) s

/-- The update of signal `n` at instant `i` with value `v`, none for a fill. -/
def sigUpdate (n i : Nat) (v : Option (Word × Option Word)) (s : State) : State :=
  let im := s.cfg.active
  let g := sigOf s n
  let beta := f32ofRat 1 (2 ^ sigF im n 0 19 16)
  let (x, m, u) := match v with
    | some (v, u) =>
      let m := g.m.getD v
      (some (f32sub v m), some (f32add m (f32mul beta (f32sub v m))), u)
    | none => (none, g.m, g.u)
  let bins := g.bins.map (fun e => (e.1, binStep im n e.1 x e.2))
  let fills := (v.isNone :: g.fills).take (sigDwin im n)
  let deg := decide (sigDwin im n < 10 * (fills.filter id).length)
  let warming := bins.any (fun e => !dampValid (sigDwin im n) e.2)
  let nxt := i + period s (sigRate im n)
  let s := modSig n (fun g =>
    { g with
      m := m, u := u, bins := bins, fills := fills, next := nxt, lastInst := some i, filled := v.isNone, degraded := deg
      warmDone := g.warmDone || !warming
      res := lastN 1024 (fset g.res i { bins := bins, filled := v.isNone, degraded := deg, warming := warming }) }) s
  let s := noteResets n bins s
  let s := if v.isNone then count (OSC + 0x300) s else s
  let s := if deg && !g.degraded then
      raiseLimited (0x0704 * 65536 + n) 0x0704 (.groups [sigGroup im n]) (leBytes 2 n)
        (setFlag (count (OSC + 0x304) s) (OSC + 8) 1)
    else s
  if !warming && !g.warmDone then raise 0x0706 (.groups [sigGroup im n]) (leBytes 2 n) s else s

/-! ## Alarms (R211 to R215) -/

def almOf (s : State) (a : Nat) : OscAlm := fgetD s.osc.alms a {}
def modAlm (a : Nat) (f : OscAlm → OscAlm) (s : State) : State := { s with osc := { s.osc with alms := fmod s.osc.alms a {} f } }
def almF (im : Image) (a w hi lo : Nat) : Nat := imFld im secOSC_ALARM a w hi lo

/-- The test of alarm `a` on bin `b` of signal `n` (Table 7-6); `raw` reads outputs that are not yet valid (R215). -/
def binTest (im : Image) (a n b : Nat) (raw : Bool) (bins : FMap OscBin) : Bool :=
  match fget? bins b with
  | none => false
  | some k =>
    let kind := almF im a 0 30 29
    let thr := imWord im secOSC_ALARM a 2
    let amp := binAmp im n b k
    let aok := raw || ampValid im n b k
    let dok := (if raw then k.denOk else dampValid (sigDwin im n) k) && dampDefined k
    let z := binDamp k
    let near := fun (c : Nat) => match fget? bins c with
      | some q => (raw || ampValid im n c q) && f32le (f32mul (imWord im secOSC_ALARM a 5) (binAmp im n c q)) amp
      | none => true
    if kind = 0 then aok && f32le thr amp
    else if kind = 1 then aok && dok && f32le (imWord im secOSC_ALARM a 3) amp && f32lt z thr
    else aok && dok && f32le thr amp && f32le (f32abs z) (imWord im secOSC_ALARM a 4) &&
      (b % 16 == 0 || near (b - 1)) && (b % 16 == 15 || near (b + 1))

/-- The new outcome `t` of alarm `a` at instant `i` (R213). -/
def almStep (a i seq : Nat) (t : Bool) (s : State) : State :=
  let im := s.cfg.active
  let k := almOf s a
  let pers := almF im a 1 15 0
  let cnt := min pers (if t = k.lastTest then k.count + 1 else 1)
  let act := if pers ≤ cnt then t else k.active
  let s := modAlm a (fun k => { k with count := cnt, lastTest := t, active := act, outs := fset k.outs i act,
                                       lastChg := if act = k.active then k.lastChg else seq }) s
  if act = k.active then s
  else
    let s := raise 0x0701 (.groups (almGroups im a)) (leBytes 2 a ++ leBytes 1 (b2n act) ++ leBytes 4 seq) s
    if act then setFlag (count (OSC + 0x308) s) (OSC + 8) 0 else s

/-- Alarm `a` tests bins `bs` of signal `n` at `i`. -/
def almTest (a n i seq : Nat) (bs : List Nat) (bins : FMap OscBin) (deg : Bool) (s : State) : State :=
  let im := s.cfg.active
  let armed := imBit im secOSC_ALARM a 0 26
  let blocked := imBit im secOSC_ALARM a 0 25 && deg
  let t := !blocked && bs.any (fun b => binTest im a n b armed bins)
  let would := !blocked && bs.any (fun b => binTest im a n b true bins)
  let s := if would && !t && !armed then count (OSC + 0x30C) s else s
  almStep a i seq t s

/-- Alarm `a` on signal `n` replays before its test at `i` (R164): `bins` are the bins that it tests at an instant; only its own state
changes. -/
def almReplay (a n i : Nat) (bins : Nat → List Nat) (s : State) : State :=
  let g := sigGroup s.cfg.active n
  let s' := (replayInsts s g i).foldl (fun s j => match fget? (sigOf s n).res j with
    | some r => almTest a n j 0 (bins j) r.bins r.degraded s
    | none => s) (modAlm a (fun _ => {}) s)
  let q := almOf s' a
  modAlm a (fun k => { k with count := q.count, lastTest := q.lastTest, active := q.active }) (detReplay g s)

/-- OUT of alarm `a` as window-close readers see it after the seal (R214). -/
def almSeal (a i : Nat) (s : State) : State :=
  let k := almOf s a
  match fget? k.outs i with
  | none => s
  | some b =>
    let s := modAlm a (fun k => { k with sealOut := b, seals := lastN 64 (fset k.seals i b), outs := k.outs.filter (fun e => decide (i < e.1)) }) s
    let close := ((almGroups s.cfg.active a).map (fun g => closeOf s g i)).foldl max 0
    let s := if b != k.sealOut then srcMoved 1 a (alarmDue s (gridNs s close)) s else s
    let s := if b && !k.sealOut then capEvent 1 a (gridNs s i) s else s
    latchDirect (fun t x => t == 1 && x == a) s

/-- The signal-scope alarms of signal `n`. -/
def sigAlarms (im : Image) (n : Nat) : List Nat :=
  (imValid im secOSC_ALARM).filter (fun a => !imBit im secOSC_ALARM a 0 28 && almF im a 0 11 0 == n)

/-- The mode-scope alarms of mode `m`. -/
def modeAlarms (im : Image) (m : Nat) : List Nat :=
  (imValid im secOSC_ALARM).filter (fun a => imBit im secOSC_ALARM a 0 28 && almF im a 0 7 0 == m)

/-- Alarms of signal `n` after its update at `i`, those in `bad` with a corrupt state; per-arrival alarms vote while `i` is open. -/
def sigAlmUpdate (bad : List Nat) (n i : Nat) (s : State) : State :=
  let im := s.cfg.active
  let g := sigGroup im n
  let seq := seqOf s (sigRate im n) i
  (sigAlarms im n).foldl (fun s a =>
    let q := sigOf s n
    let lo := almF im a 1 31 24
    let bs := upFrom lo (almF im a 1 23 16 + 1 - lo)
    let s := almTest a n i seq bs q.bins q.degraded (if bad.contains a then almReplay a n i (fun _ => bs) s else s)
    if isSealed s g i then almSeal a i s
    else if imBit im secOSC_ALARM a 0 27 && !q.filled then voteReady g i (membAlm a) q.path (almOf s a).active s else s) s

/-! ## Records (R216, R217) -/

/-- φ × 32,768 / π to the nearest integer, as 16 bits. -/
def phase16 (x : Word) : Nat :=
  match toRat fmt32 x.toNat with
  | some (p, q) => uint 16 (roundDivI (p * 32768 * 10 ^ 30) (q * 3141592653589793238462643383280))
  | none => 0

/-- arg z_m − arg z_ref, wrapped (R209). -/
def shapePhase (km kr : OscBin) : Word := wrapF (f32sub (argF km.zre km.zim) (argF kr.zre kr.zim))

/-- The mode that held bin `b` of member signal `n` at instant `i`, lowest first. -/
def modeHolding (s : State) (n b i : Nat) : Option Nat :=
  let im := s.cfg.active
  (imValid im secOSC_MODE).find? (fun m => fget? (fgetD s.osc.modes m {}).hist i == some b && (modeMembers im m).contains n)

/-- A bin result (Table 7-8). A member whose amplitude is not valid has no shape (R209): MODE is set and the phase is 0. DESIGN CHOICE
(assumption 45). -/
def binResult (s : State) (n b i : Nat) (r : OscRes) : List Byte :=
  let im := s.cfg.active
  match fget? r.bins b with
  | none => zeros 14 ++ leBytes 2 (2 ^ 10)
  | some k =>
    let md := modeHolding s n b i
    let refBin := match md with
      | some m => match fget? (sigOf s (modeRef im m)).res i with
        | some rr => fget? rr.bins b
        | none => none
      | none => none
    let ph := match refBin with
      | some kr => if ampValid im n b k then phase16 (shapePhase k kr) else 0
      | none => 0
    let dv := dampValid (sigDwin im n) k && dampDefined k
    leBytes 4 (binAmp im n b k).toNat ++ leBytes 4 k.fbar.toNat ++ leBytes 4 (if dampDefined k then (binDamp k).toNat else 0) ++
      leBytes 2 ph ++ leBytes 2 (b2n (ampValid im n b k) * 2 ^ 15 + b2n dv * 2 ^ 14 + b2n r.filled * 2 ^ 13 +
        b2n r.degraded * 2 ^ 12 + b2n md.isSome * 2 ^ 11 + b2n k.reset * 2 ^ 9)

/-- The point key of channel `c` (Table 1-4). -/
def pointKey (im : Image) (c : Nat) : Nat :=
  let n := chanStrm im c
  let st := dir im n 1 31 20
  let cg := cgrpOfStation im st
  let ar := imFld im secCGRP_AREA cg 0 5 0
  let ic := imFld im secAREA ar 0 1 0
  2 * 2 ^ 61 + ic * 2 ^ 55 + ar * 2 ^ 49 + cg * 2 ^ 41 + st * 2 ^ 29 + n * 2 ^ 16 + c

/-- The signal result record (Table 7-7). -/
def sigRecord (s : State) (n i : Nat) (r : OscRes) : List Byte :=
  let im := s.cfg.active
  let b := leBytes 2 0x0701 ++ leBytes 2 (b2n r.warming * 2 ^ 15 + b2n r.degraded * 2 ^ 14 + b2n r.filled * 2 ^ 13) ++
    leBytes 4 2104 ++ leBytes 2 n ++ leBytes 1 (sigGroup im n) ++
    leBytes 1 (bitmapLE ((List.range 8).map (fun k => sigLay im n k != 0xFF))) ++ leBytes 4 (seqOf s (sigRate im n) i) ++
    tsLE (gridNs s i) ++ zeros 4 ++ leBytes 8 (pointKey im (sigF im n 0 15 0)) ++ leBytes 4 im.vintage ++ zeros 4 ++
    (List.range 128).flatMap (fun k => binResult s n k i r) ++ zeros 4
  b ++ leBytes 4 (crc32 b).toNat

/-- The families that hold signal `n`, by reference signal. -/
def sigFamilies (im : Image) (n : Nat) : List Nat :=
  (((imValid im secOSC_MODE).filter (fun m => (modeMembers im m).contains n)).map (modeRef im)).eraseDups

/-- The result record of signal `n` for `i`, if REPORT and RDEC ask for one and every family has been evaluated (R216). -/
def sigReport (n i : Nat) (s : State) : State :=
  let im := s.cfg.active
  let due := imBit im secOSC_SIGNAL n 0 21 && seqOf s (sigRate im n) i % max 1 (sigF im n 1 15 8) == 0 &&
    (sigFamilies im n).all (fun r => decide (i < fgetD s.osc.famNext r 0))
  match due, fget? (sigOf s n).res i with
  | true, some r => harvest (fun p => readGroup s p (sigGroup im n) && hrvClass s p 0) 0x0701 none (sigRecord s n i r)
      (some (OSC + 0x318, 0xFFFF)) s
  | _, _ => s

/-! ## The mode tracker (R207 to R210) -/

def modeOf (s : State) (m : Nat) : OscMode := fgetD s.osc.modes m {}
def modMode (m : Nat) (f : OscMode → OscMode) (s : State) : State := { s with osc := { s.osc with modes := fmod s.osc.modes m {} f } }

/-- The candidate bins of mode `m`, ascending (Table 7-4). -/
def modeCands (im : Image) (m : Nat) : List Nat :=
  let n := modeRef im m
  (sigBins im n).filter (fun b => f32le (imWord im secOSC_MODE m 1) (binFc im n b) && f32le (binFc im n b) (imWord im secOSC_MODE m 2))

/-- The bin that mode `m` takes at `i`, with the bins `taken` by lower modes (R208). -/
def modeBest (im : Image) (m : Nat) (taken : List Nat) (held : Option Nat) (r : OscRes) : Option Nat :=
  let n := modeRef im m
  let amp := fun (b : Nat) => match fget? r.bins b with
    | some k => binAmp im n b k
    | none => 0#32
  let ok := fun (b : Nat) => match fget? r.bins b with
    | some k => ampValid im n b k
    | none => false
  let best := (modeCands im m).foldl (fun (acc : Option Nat) b =>
    if ok b && !taken.contains b then
      match acc with
      | none => some b
      | some c => if f32lt (amp c) (amp b) then some b else acc
    else acc) none
  let best := match held, best with
    | some h, some b => if ok h && !taken.contains h && f32lt (amp b) (f32mul (imWord im secOSC_MODE m 4) (amp h)) then some h else some b
    | _, b => b
  match best with
  | some b => if f32le (imWord im secOSC_MODE m 3) (amp b) then some b else none
  | none => none

/-- The mode record (Table 7-9). -/
def modeRecord (s : State) (m i : Nat) (chg : Bool) : List Byte :=
  let im := s.cfg.active
  let k := modeOf s m
  let n := modeRef im m
  let r := (fget? (sigOf s n).res i).getD { bins := [], filled := false, degraded := false, warming := false }
  let b := k.bin.getD 0xFF
  let kr := fget? r.bins b
  let on := fun (kind : Nat) => (modeAlarms im m).any (fun a => almF im a 0 30 29 == kind && (almOf s a).active)
  let dv := k.present && (match kr with
    | some q => dampValid (sigDwin im n) q && dampDefined q
    | none => false)
  let ms := modeMembers im m
  let close := ((famGroups im n).map (fun g => closeOf s g i)).foldl max 0
  let member := fun (q : Nat) =>
    let rr := fget? (sigOf s q).res i
    let kb := match rr with
      | some x => fget? x.bins b
      | none => none
    let fl := (match rr with
      | some x => b2n x.filled * 2 + b2n x.degraded * 4
      | none => 0)
    match k.present, kb, kr with
    | true, some km, some kr =>
      if ampValid im q b km then
        leBytes 2 q ++ leBytes 2 (fl + 1) ++ leBytes 4 (f32div (binAmp im q b km) (binAmp im n b kr)).toNat ++
          leBytes 2 (phase16 (shapePhase km kr)) ++ zeros 2
      else leBytes 2 q ++ leBytes 2 fl ++ zeros 8
    | _, _, _ => leBytes 2 q ++ leBytes 2 fl ++ zeros 8
  let body0 := 64 + 12 * ms.length + 4
  let len := ceilDiv body0 8 * 8
  let x := leBytes 2 0x0702 ++ leBytes 2 (b2n chg * 2 ^ 15 + b2n r.degraded * 2 ^ 14 + b2n r.filled * 2 ^ 13 + b2n dv * 2 ^ 12 +
      b2n (on 0) * 2 ^ 11 + b2n (on 1) * 2 ^ 10 + b2n (on 2) * 2 ^ 9) ++ leBytes 4 len ++ leBytes 2 m ++ leBytes 2 ms.length ++
    leBytes 4 (seqOf s (sigRate im n) i) ++ tsLE (gridNs s i) ++ tsLE (gridNs s close) ++ leBytes 2 n ++ leBytes 1 b ++
    leBytes 1 (b2n k.present) ++ leBytes 4 k.freq.toNat ++ leBytes 4 k.damp.toNat ++ leBytes 4 k.amp.toNat ++
    leBytes 4 im.vintage ++ zeros 4 ++ ms.flatMap member ++ zeros (len - body0)
  x ++ leBytes 4 (crc32 x).toNat

/-- The bin that mode `m` held at instant `j`, as a list of none or one. -/
def heldBins (s : State) (m j : Nat) : List Nat := ((fget? (modeOf s m).hist j).toList).filter (· != 0xFF)

/-- One mode at instant `i`, with the bins taken by lower modes of the family; `bad` are the alarms whose state is found corrupt. -/
def modeEval (bad : List Nat) (m i : Nat) (acc : State × List Nat) : State × List Nat :=
  let (s, taken) := acc
  let im := s.cfg.active
  let n := modeRef im m
  let gs := famGroups im n
  let seq := seqOf s (sigRate im n) i
  match fget? (sigOf s n).res i with
  | none => (s, taken)
  | some r =>
    let old := modeOf s m
    let best := modeBest im m taken old.bin r
    let out := match best with
      | some b => match fget? r.bins b with
        | some k => (k.fbar, (if dampDefined k then binDamp k else 0#32), binAmp im n b k)
        | none => (0#32, 0#32, 0#32)
      | none => (0#32, 0#32, 0#32)
    let s := modMode m (fun k => { present := best.isSome, bin := best, freq := out.1, damp := out.2.1, amp := out.2.2,
                                   lastInst := some i, hist := lastN 1024 (fset k.hist i (best.getD 0xFF)) }) s
    let s := if old.present != best.isSome then
        raise 0x0702 (.groups gs) (leBytes 2 m ++ leBytes 1 (best.getD 0xFF) ++ leBytes 4 seq) s
      else s
    let chg := old.present && best.isSome && old.bin != best
    let s := if chg then
        raise 0x0703 (.groups gs) (leBytes 2 m ++ leBytes 1 (old.bin.getD 0xFF) ++ leBytes 1 (best.getD 0xFF))
          (setFlag (count (OSC + 0x310) s) (OSC + 8) 3)
      else s
    let s := (modeAlarms im m).foldl (fun s a =>
      let bs := match best with
        | some b => [b]
        | none => []
      almSeal a i (almTest a n i seq bs r.bins r.degraded (if bad.contains a then almReplay a n i (heldBins s m) s else s))) s
    let rec? := (best.isSome && seq % max 1 (imFld im secOSC_MODE m 0 15 8) == 0) || old.present != best.isSome
    let s := if rec? then
        harvest (fun p => gs.all (readGroup s p) && hrvClass s p 0) 0x0702 none (modeRecord s m i chg) (some (OSC + 0x318, 0xFFFF)) s
      else s
    (s, match best with
      | some b => b :: taken
      | none => taken)

/-- Mode `m` replays before its evaluation at `i`, with the bins that lower modes of its family held; only its own state changes. -/
def modeReplay (m i : Nat) (s : State) : State :=
  let im := s.cfg.active
  let r := modeRef im m
  let lower := (imValid im secOSC_MODE).filter (fun k => decide (k < m) && modeRef im k == r)
  let s' := (heldInsts s (sigGroup im r) i).foldl (fun q j => (modeEval [] m j (q, lower.flatMap (fun k => heldBins s k j))).1)
    (modMode m (fun _ => {}) s)
  let q := modeOf s' m
  modMode m (fun k => { q with hist := k.hist }) s

/-- The families of a group start at instant `i0` when their last group does. -/
def famStart (g i0 : Nat) (s : State) : State :=
  let im := s.cfg.active
  let refs := ((imValid im secOSC_MODE).map (modeRef im)).eraseDups
  (refs.filter (fun r => (famGroups im r).contains g)).foldl (fun s r =>
    { s with osc := { s.osc with famNext := fset s.osc.famNext r (max i0 (fgetD s.osc.famNext r 0)) } }) s

end Sys2Proof.Machine
end

