-- ==== Sys2Proof/Machine/Island.lean ====
section
/-!
DEFINITION. Sys2Proof/Machine/Island.lean: the island and coherency engine (R221 to R232, R241, R242).
-/
namespace Sys2Proof.Machine

def grpIsl (s : State) (g : Nat) : IslGrp := fgetD s.isl.grps g {}
def pairOf' (s : State) (p : Nat) : IslPair := fgetD s.isl.pairs p {}
def modGrpIsl (g : Nat) (f : IslGrp → IslGrp) (s : State) : State := { s with isl := { s.isl with grps := fmod s.isl.grps g {} f } }
def modPair (p : Nat) (f : IslPair → IslPair) (s : State) : State := { s with isl := { s.isl with pairs := fmod s.isl.pairs p {} f } }
def pairF (im : Image) (p w hi lo : Nat) : Nat := imFld im secISL_PAIR p w hi lo
def icnOf (s : State) (i : Nat) : Icn := fgetD s.isl.icns i {}
def modIcn (i : Nat) (f : Icn → Icn) (s : State) : State := { s with isl := { s.isl with icns := fmod s.isl.icns i {} f } }

/-- ISL_ICN_CFG of interconnection `i`. -/
def icnCfg (s : State) (i : Nat) : Word := imgReg s.cfg.active (ISL + 0x40 + 4 * i)
def icnRate (s : State) (i : Nat) : Nat := fld (icnCfg s i) 15 8

/-- The event object of interconnection `i`. -/
def icnObj (s : State) (i : Nat) : EvObj := .groups (islGroups s.cfg.active i)

/-! ## Group frequency and angle (R224, R225) -/

/-- Angle of island signal `n` at `inst`, if its ACH is used and present. -/
def sigAngle (s : State) (n inst : Nat) : Option Word :=
  if imBit s.cfg.active secISL_SIGNAL n 1 15 then
    (setChan s inst (imFld s.cfg.active secISL_SIGNAL n 1 31 16)).map (fun x => argF x.1 x.2)
  else none

/-- Candidate `k` of coherency group `g`; 0xFFFF is none. -/
def angCand (im : Image) (g k : Nat) : Option Nat :=
  let n := if k % 2 = 0 then imFld im secISL_CGRP g (1 + k / 2) 31 16 else imFld im secISL_CGRP g (1 + k / 2) 15 0
  if n = 0xFFFF then none else some n

/-- Angle of candidate `k` of group `g`. -/
def candAngle (s : State) (g k inst : Nat) : Option Word :=
  match angCand s.cfg.active g k with
  | some n => sigAngle s n inst
  | none => none

/-- The offset of candidate `c`, once set; that of candidate 0 is 0. -/
def candOff (r : IslGrp) (c : Nat) : Option Word := if c = 0 then some 0#32 else fget? r.offs c

/-- Step 1 for coherency group `g`. -/
def evalGroup (g inst : Nat) (s : State) : State :=
  let im := s.cfg.active
  let fs := ((imValid im secISL_SIGNAL).filter (fun n => imFld im secISL_SIGNAL n 0 23 16 == g)).filterMap
    (fun n => (setChan s inst (imFld im secISL_SIGNAL n 0 15 0)).map (·.1))
  let freq := if fs.length < imFld im secISL_CGRP g 0 15 8 then none else some (medianOf fs)
  let a0 := candAngle s g 0 inst
  let r := grpIsl s g
  let offs := [1, 2, 3].foldl (fun o c =>
    match a0, candAngle s g c inst with
    | some x0, some xc => fset o c (wrapF (f32sub xc x0))
    | _, _ => o) r.offs
  let r := { r with offs := offs }
  let cand := [0, 1, 2, 3].find? (fun c => (candAngle s g c inst).isSome && (candOff r c).isSome)
  let ang := match cand with
    | some c => match candAngle s g c inst, candOff r c with
      | some x, some o => some (wrapF (f32sub x o))
      | _, _ => none
    | none => none
  let s := modGrpIsl g (fun _ => { r with freq := freq, ang := ang, gfreq := freq.getD r.gfreq, gang := ang.getD r.gang,
                                          cand := cand.getD r.cand, npres := fs.length }) s
  if freq.isNone then count (ISL + 0x324) s else s

/-! ## Pairs (R227) -/

/-- The floor of a finite binary32 number. -/
def floorF (x : Word) : Int :=
  match toRat fmt32 x.toNat with
  | some (p, q) => p.fdiv (q : Int)
  | none => 0

/-- The update of a pair from the frequencies and angles of its groups. -/
def pairUpdate (dfThr : Word) (slipClr : Nat) (fa fb ta tb : Option Word) (p : IslPair) : IslPair :=
  let p := match fa, fb with
    | some fa, some fb => { p with dfOk := true, dfreq := f32sub fa fb, diverge := f32le dfThr (f32abs (f32sub fa fb)) }
    | _, _ => { p with dfOk := false }
  match ta, tb with
  | some ta, some tb =>
    let p := { p with ns := min 2 (p.ns + 1) }
    if !p.have_ then { p with delta := wrapF (f32sub ta tb), have_ := true }
    else
      let prev := p.delta
      let d := f32add prev (wrapF (f32sub (f32sub ta tb) prev))
      let grow := f32lt (f32abs prev) (f32abs d)
      let p := { p with delta := d }
      let p := if !p.slip && f32lt piW (f32abs d) then { p with slip := true, scount := 0, kmax := 0 } else p
      if p.slip then
        let p := { p with scount := if grow then 0 else min 255 (p.scount + 1) }
        let k := (floorF (f32div (f32add (f32abs d) piW) twoPiW)).toNat
        let p := if p.kmax < k then { p with slips := p.slips + BitVec.ofNat 32 (k - p.kmax), kmax := k } else p
        if slipClr ≤ p.scount then { p with slip := false, delta := wrapF p.delta } else p
      else p
  | _, _ => p

/-- Step 2 for pair `p` of interconnection `i`. -/
def evalPair (i p inst seq : Nat) (s : State) : State :=
  let im := s.cfg.active
  let a := grpIsl s (pairF im p 0 15 8)
  let b := grpIsl s (pairF im p 0 23 16)
  let old := pairOf' s p
  let new := { pairUpdate (imWord im secISL_PAIR p 2) (pairF im p 1 23 16) a.freq b.freq a.ang b.ang old with lastSeq := seq }
  let s := modPair p (fun _ => new) s
  let s := if !old.slip && new.slip then
      capEvent 4 p (gridNs s inst) (raise 0x0801 (icnObj s i) (leBytes 2 p ++ leBytes 4 new.slips.toNat ++ leBytes 4 seq)
        (setFlag (count (ISL + 0x300) s) (ISL + 8) 0))
    else s
  let s := if old.slip && !new.slip then raise 0x0802 (icnObj s i) (leBytes 2 p ++ leBytes 4 seq) s else s
  if old.ns < 2 && new.ns == 2 then raise 0x0807 (icnObj s i) (leBytes 2 p) s else s

/-! ## Ties (R228, R229) -/

/-- Level of DI `k` at the tick boundary of grid index `g`. -/
def diAt (s : State) (g k : Nat) : Bool :=
  (logAt s.tb.diLog g s.tb.di).getLsbD k

/-- Status `w` (1 = A, 2 = B) of tie `t`: none when it is unknown, otherwise whether it reads closed. -/
def tieStatus (s : State) (t w inst : Nat) : Option Bool :=
  let im := s.cfg.active
  let b := imFld im secISL_TIE t w 3 0
  let pol := imBit im secISL_TIE t w 14
  if imBit im secISL_TIE t w 15 then some (diAt s inst b != pol)
  else (setChan s inst (imFld im secISL_TIE t w 31 16)).map (fun x => bit x.1 b != pol)

/-- Step 3 for tie `t`. -/
def evalTie (i t inst : Nat) (s : State) : State :=
  let im := s.cfg.active
  let st := ([1, 2].filter (fun w => w == 1 || imBit im secISL_TIE t w 13)).map (fun w => tieStatus s t w inst)
  let unknown := st.any (·.isNone)
  let closed := !(st.any (· == some false) || (unknown && imBit im secISL_TIE t 0 30))
  let old := fgetD s.isl.ties t {}
  let s := { s with isl := { s.isl with ties := fset s.isl.ties t { closed := closed, unknown := unknown, seen := true } } }
  if old.seen && old.closed != closed then
    raiseLimited (0x0805 * 65536 + t) 0x0805 (icnObj s i) (leBytes 2 t ++ leBytes 1 (b2n closed))
      (setFlag (count (ISL + 0x310) s) (ISL + 8) 2)
  else s

/-! ## Islanding (R230, R231) -/

/-- SLIP as the islanding test reads it. -/
def slipUse (im : Image) (p : Nat) (r : IslPair) : Bool := r.slip && (decide (2 ≤ r.ns) || imBit im secISL_PAIR p 0 30)

/-- ALL_OPEN of pair `p`: it has a tie, and every one is open. -/
def allOpen (s : State) (i p : Nat) : Bool :=
  let ts := (icnTies s.cfg.active i).filter (fun t => imFld s.cfg.active secISL_TIE t 0 29 20 == p)
  !ts.isEmpty && ts.all (fun t => !(fgetD s.isl.ties t {}).closed)

/-- The islanding counts of a determinate instant. -/
def islandStep (islN clrN : Nat) (slip : Bool) (p : IslPair) : IslPair :=
  let test := p.diverge && (slip || p.allOpen)
  if !p.islanded then
    let p := { p with count := if test then min 255 (p.count + 1) else 0 }
    if islN ≤ p.count then { p with islanded := true, ccount := 0 } else p
  else
    let quiet := !p.diverge && !slip && !p.allOpen
    let p := { p with ccount := if quiet then min 255 (p.ccount + 1) else 0 }
    if clrN ≤ p.ccount then { p with islanded := false, count := 0 } else p

/-- Step 4 for pair `p`. -/
def evalIslanding (i p inst seq : Nat) (s : State) : State :=
  let im := s.cfg.active
  let old := { pairOf' s p with allOpen := allOpen s i p }
  let s := if old.slip && !slipUse im p old then count (ISL + 0x31C) s else s
  if !old.dfOk then
    setFlag (count (ISL + 0x320) (modPair p (fun _ => { old with indet := true }) s)) (ISL + 8) 4
  else
    let new := islandStep (pairF im p 0 7 0) (pairF im p 1 31 24) (slipUse im p old) { old with indet := false }
    if new.islanded = old.islanded then modPair p (fun _ => new) s
    else
      let s := modPair p (fun _ => { new with lastIsl := seq }) s
      let s := raise 0x0803 (icnObj s i) (leBytes 2 p ++ leBytes 1 (b2n new.islanded) ++ leBytes 4 seq) s
      if new.islanded then capEvent 3 p (gridNs s inst) (setFlag (count (ISL + 0x304) s) (ISL + 8) 1)
      else count (ISL + 0x308) s

/-! ## Clustering (R232) -/

/-- Both ends of an edge take the lower of their labels. -/
def joinEdge (lab : FMap Nat) (e : Nat × Nat) : FMap Nat :=
  let m := min (fgetD lab e.1 e.1) (fgetD lab e.2 e.2)
  fset (fset lab e.1 m) e.2 m

/-- Labels after `k` passes over the edges. -/
def joinAll : Nat → List (Nat × Nat) → FMap Nat → FMap Nat
  | 0, _, lab => lab
  | k + 1, es, lab => joinAll k es (es.foldl joinEdge lab)

/-- The island of every group of interconnection `i`: the lowest group index joined to it. -/
def islands (s : State) (i : Nat) : FMap Nat :=
  let im := s.cfg.active
  let gs := icnGrps im i
  let es := (icnTies im i).filterMap (fun t =>
    let p := imFld im secISL_TIE t 0 29 20
    let r := pairOf' s p
    if (fgetD s.isl.ties t {}).closed && !slipUse im p r && !r.islanded then some (pairF im p 0 15 8, pairF im p 0 23 16) else none)
  joinAll gs.length es (gs.map (fun g => (g, g)))

/-- Step 5: groups and signals take their island; whether the map changed. -/
def evalMap (i seq : Nat) (s : State) : State × Bool :=
  let im := s.cfg.active
  let lab := islands s i
  let gs := icnGrps im i
  let chg := gs.any (fun g => (grpIsl s g).island != fgetD lab g g)
  let s := gs.foldl (fun s g => modGrpIsl g (fun r => { r with island := fgetD lab g g }) s) s
  let s := (icnSigs im i).foldl (fun s n =>
    let g := imFld im secISL_SIGNAL n 0 23 16
    { s with isl := { s.isl with sigs := fmod s.isl.sigs n {} (fun x => { x with island := fgetD lab g g, lastSeq := seq }) } }) s
  let nisl := ((gs.map (fun g => fgetD lab g g)).eraseDups).length
  (modIcn i (fun r => { r with nisl := nisl }) s, chg)

/-! ## Records (R242) -/

/-- The island map record (Table 8-11). -/
def mapRecord (s : State) (i inst : Nat) (chg first : Bool) : List Byte :=
  let im := s.cfg.active
  let gs := icnGrps im i
  let ns := icnSigs im i
  let close := ((islGroups im i).map (fun g => closeOf s g inst)).foldl max 0
  let body0 := 48 + 4 * gs.length + 4 * ns.length + 4
  let len := ceilDiv body0 8 * 8
  let x := leBytes 2 0x0801 ++ leBytes 2 (b2n chg * 2 ^ 15 + b2n first * 2 ^ 14) ++ leBytes 4 len ++ leBytes 1 i ++
    leBytes 1 (icnOf s i).nisl ++ leBytes 2 gs.length ++ leBytes 4 (seqOf s (icnRate s i) inst) ++ tsLE (gridNs s inst) ++
    tsLE (gridNs s close) ++ leBytes 4 im.vintage ++ leBytes 2 (ns.length % 4096) ++ zeros 2 ++
    gs.flatMap (fun g => let r := grpIsl s g
      leBytes 1 g ++ leBytes 1 r.island ++ leBytes 1 (b2n r.freq.isSome + 2 * b2n r.ang.isSome + 4 * r.cand) ++ zeros 1) ++
    ns.flatMap (fun n => let r := fgetD s.isl.sigs n {}
      leBytes 2 n ++ leBytes 1 r.island ++ leBytes 1 (b2n r.fPres + 2 * b2n r.aPres)) ++ zeros (len - body0)
  x ++ leBytes 4 (crc32 x).toNat

/-- The comparators on results of interconnection `i`. -/
def icnCmps (im : Image) (i : Nat) : List Nat :=
  (imValid im secISL_CMP).filter (fun c => decide (6 ≤ cmpSrc im c) && cmpPrim im c != 2 && cmpIcn im c == i)

/-- Which signals had their channels present at `inst`. -/
def markSigs (i inst : Nat) (s : State) : State :=
  let im := s.cfg.active
  (icnSigs im i).foldl (fun s n =>
    let f := (setChan s inst (imFld im secISL_SIGNAL n 0 15 0)).isSome
    let a := (sigAngle s n inst).isSome
    { s with isl := { s.isl with sigs := fmod s.isl.sigs n {} (fun x => { x with fPres := f, aPres := a }) } }) s

/-- The five steps of R222 for interconnection `i` at `inst`, without what leaves the engine: slip, islanding and map events, and
whether the map changed. -/
def islandSteps (i inst seq : Nat) (s : State) : State × Bool :=
  let im := s.cfg.active
  let ps := icnPairs im i
  let s := (icnGrps im i).foldl (fun s g => evalGroup g inst s) (markSigs i inst s)
  let s := ps.foldl (fun s p => evalPair i p inst seq s) s
  let s := (icnTies im i).foldl (fun s t => evalTie i t inst s) s
  let s := ps.foldl (fun s p => evalIslanding i p inst seq s) s
  evalMap i seq s

/-- The engine of interconnection `i` starts at instant `inst` (R241): everything of it is cleared. -/
def icnStart (i inst : Nat) (s : State) : State :=
  let im := s.cfg.active
  let isl := s.isl
  let isl := { isl with
    grps := isl.grps.filter (fun e => !(icnGrps im i).contains e.1)
    pairs := isl.pairs.filter (fun e => !(icnPairs im i).contains e.1)
    ties := isl.ties.filter (fun e => !(icnTies im i).contains e.1)
    sigs := isl.sigs.filter (fun e => !(icnSigs im i).contains e.1)
    icns := fset isl.icns i { on := true, next := inst } }
  let s := { s with isl := isl }
  let s := (icnGrps im i).foldl (fun s g => modGrpIsl g (fun r => { r with island := g }) s) s
  (icnCmps im i).foldl (fun s c => modCmp c (fun _ => { next := inst }) s) s

/-- The engine of interconnection `i`, and the comparators on its results, run anew over the instants before its next one for which every
island group's set is held: what they would hold then (R164). -/
def islRerun (i : Nat) (s : State) : State :=
  let gs := islGroups s.cfg.active i
  let n := (icnOf s i).next
  let js := match gs with
    | [] => []
    | g :: _ => (heldInsts s g n).filter (fun j => gs.all (fun x => (setOf s x j).isSome))
  js.foldl (fun s j =>
    let s := (islandSteps i j (seqOf s (icnRate s i) j) s).1
    (icnCmps s.cfg.active i).foldl (fun s c => cmpEval c j (fun _ => none) s) s) (icnStart i n s)

/-- The group whose event tells of a replay of interconnection `i`. -/
def icnGroup (s : State) (i : Nat) : Nat := (islGroups s.cfg.active i).headD 0

/-- The state of interconnection `i` is found corrupt and replays; only it changes. -/
def islReplay (i : Nat) (s : State) : State :=
  let isl := { (islRerun i s).isl with cmps := s.isl.cmps, icns := s.isl.icns }
  detReplay (icnGroup s i) { s with isl := isl }

/-- Comparator `c` on results of interconnection `i` replays; only its own state changes. -/
def icnCmpReplay (i c : Nat) (s : State) : State :=
  let p := (cmpOf (islRerun i s) c).p
  modCmp c (fun k => { k with p := p }) (detReplay (icnGroup s i) s)

/-- What pairs and groups of interconnection `i` show for `inst` is kept for the snapshots that read it (Table 9-2). -/
def islKeep (i inst : Nat) (s : State) : State :=
  let s := (icnPairs s.cfg.active i).foldl (fun s p => modPair p (fun q =>
    { q with was := lastN 64 (fset q.was inst (b2n q.diverge + 2 * b2n q.slip + 4 * b2n q.islanded)) }) s) s
  (icnGrps s.cfg.active i).foldl (fun s g => modGrpIsl g (fun r => { r with was := lastN 64 (fset r.was inst r.island) }) s) s

/-- The output sources of interconnection `i` that its evaluation changed from those of `was`; what follows departs by tick `due`. -/
def islMoved (was : Isl) (i due : Nat) (s : State) : State :=
  let move := fun (typ k : Nat) (b : Bool) (s : State) => if b then srcMoved typ k due s else s
  let s := (icnPairs s.cfg.active i).foldl (fun s p =>
    let q := fgetD was.pairs p {}
    move 3 p (q.islanded != (pairOf' s p).islanded) (move 4 p (q.slip != (pairOf' s p).slip) s)) s
  (icnGrps s.cfg.active i).foldl (fun s g => move 7 g ((fgetD was.grps g {}).island != (grpIsl s g).island) s) s

/-- The evaluation of interconnection `i` at its next instant: results, map event, comparators on results (those in `bad` with a corrupt
state), map record, DO latches. -/
def islandEval (bad : List Nat) (i : Nat) (s : State) : State :=
  let im := s.cfg.active
  let r := icnOf s i
  let inst := r.next
  let seq := seqOf s (icnRate s i) inst
  let ns := gridNs s inst
  let due := alarmDue s (gridNs s (((islGroups im i).map (fun g => closeOf s g inst)).foldl max 0))
  let was := s.isl
  let s := (bad.filter (icnCmps im i).contains).foldl (fun s c => icnCmpReplay i c s) s
  let (s, chg) := islandSteps i inst seq s
  let s := islMoved was i due (islKeep i inst s)
  let chg := chg && !r.first
  let s := if chg then
      raise 0x0804 (icnObj s i) (leBytes 2 i ++ leBytes 2 (icnOf s i).nisl ++ leBytes 4 seq) (count (ISL + 0x30C) s)
    else s
  let s := (icnCmps im i).foldl (fun s c =>
    let s := cmpEval c inst (fun _ => none) s
    modCmp c (fun k => { k with outs := [], seals := lastN 64 (fset k.seals inst k.out) }) (cmpSetOut c seq ns due (cmpOf s c).p.out s)) s
  let s := modIcn i (fun q => { q with next := inst + period s (icnRate s i), first := false }) s
  let s := if r.first || chg || seq % max 1 (fld (icnCfg s i) 23 16) == 0 then
      harvest (fun p => (islGroups im i).all (readGroup s p) && hrvClass s p 1) 0x0801 none (mapRecord s i inst chg r.first)
        (some (ISL + 0x328, 0xFFFF)) s
    else s
  latchDirect (fun t k => ((t == 3 || t == 4) && icnOfPair im k == i) || (t == 7 && (icnGrps im i).contains k) ||
    (t == 0 && (icnCmps im i).contains k)) s

/-- The engines that wait for group `g` start once all their groups run, at the latest of the groups' first instants. An engine that runs
on across an activation keeps its state and goes on from there (R241). -/
def icnsStart (g : Nat) (s : State) : State :=
  let im := s.cfg.active
  (List.range 4).foldl (fun s i =>
    let gs := islGroups im i
    if gs.contains g && gs.all (fun x => (fgetD s.aln.grps x {}).st == 2) then
      let i0 := (gs.map (fun x => (fgetD s.aln.grps x {}).start)).foldl max 0
      if (icnOf s i).on then modIcn i (fun r => { r with next := max r.next i0 }) s else icnStart i i0 s
    else s) s

/-- Every engine of a group stops with it. -/
def icnsStop (g : Nat) (s : State) : State :=
  (List.range 4).foldl (fun s i =>
    if (islGroups s.cfg.active i).contains g then modIcn i (fun r => { r with on := false, nisl := 0 }) s else s) s

end Sys2Proof.Machine
end

