-- ==== Sys2Proof/Machine/Align.lean ====
section
/-!
DEFINITION. Sys2Proof/Machine/Align.lean: ingest records as they are written, harvest windows and aligned sets (chapter 5).
-/
namespace Sys2Proof.Machine

def grpOf (s : State) (g : Nat) : Grp := fgetD s.aln.grps g {}
def modGrp (g : Nat) (f : Grp → Grp) (s : State) : State := { s with aln := { s.aln with grps := fmod s.aln.grps g {} f } }
def grpPeriod (s : State) (g : Nat) : Nat := period s (groupRate s.cfg.active g)

/-- SUBST, LATE_DELIV and HOLD_MAX of a group (Table 14-5, Table 5-13). -/
def grpHolds (im : Image) (g : Nat) : Bool := imFld im secGROUP g 0 30 29 == 1
def grpLateDeliv (im : Image) (g : Nat) : Bool := imBit im secGROUP g 0 28
def grpHoldMax (im : Image) (g : Nat) : Nat := imFld im secGROUP g 0 27 20

/-- Count in counter `k` of group `g` (Table 5-14). -/
def grpCountN (g k n : Nat) (s : State) : State := countN (ALN + 0x120 + 4 * k) g n (.groups [g]) s
/-! ## Records as they are written (R139, R148, R157, R158) -/

/-- The arrival is after the close of its instant. An instant that a timebase restart discarded has no late marking (R166). -/
def isLate (s : State) (r : IngRec) : Bool :=
  let g := dirGroup s.cfg.active r.strm
  let q := grpOf s g
  decide (gridNs s (closeOf s g r.inst) < r.arr) && !(q.gone.contains r.inst && decide (r.inst < q.since))

/-- Lateness in tk, rounded up. -/
def lateTk (s : State) (r : IngRec) : Nat :=
  ceilDiv ((r.arr - gridNs s (closeOf s (dirGroup s.cfg.active r.strm) r.inst)) * tps s) 1000000000

/-- A late record for a ring (Table 5-7), with DROPPED = `dropped`. -/
def lateRecord (s : State) (r : IngRec) (dropped : Nat) : List Byte :=
  let b := recBytes s r
  let g := dirGroup s.cfg.active r.strm
  let h := leBytes 2 0x0502 ++ leBytes 2 (32 + b.length) ++ leBytes 1 g ++ leBytes 1 (b2n r.bad) ++ zeros 2 ++
    leBytes 4 (lateTk s r) ++ tsLE (gridNs s (closeOf s g r.inst)) ++ leBytes 4 dropped
  h ++ leBytes 4 (crc32 h).toNat ++ b

/-- A late record is counted, reported, and delivered when LATE_DELIV asks for it; delivery checks it first (R140, Table 5-7). -/
def lateWritten (k : ReadCheck) (r : IngRec) (s : State) : State :=
  let g := dirGroup s.cfg.active r.strm
  let tk := lateTk s r
  let s := alnFlag 0 (count (ALN + 0x300) (grpCountN g 1 1 s))
  let s := rcMax s (ALN + 0x110) g tk
  let s := raiseLimited (0x0504 * 64 + g) 0x0504 (.groups [g]) (leBytes 2 r.strm ++ leBytes 4 tk) s
  if grpLateDeliv s.cfg.active g then
    let bad := k.recBad.contains r.strm
    let s := if bad then markBad r.strm r.inst s else s
    harvest (fun p => hrvGroup s p g) 0x0502 (some g) (lateRecord s { r with bad := r.bad || bad } 0) (some (ALN + 0x314, 0xFFFF)) s
  else s

/-- The per-arrival comparators of group `g` that read a channel of stream `n`. -/
def arrivalCmps (im : Image) (g n : Nat) : List Nat :=
  (groupCmps im g).filter (fun c => cmpPerArr im c && (cmpChans im c).any (fun ch => chanStrm im ch == n))

/-- How many instants a group can have for which records may stand: those open (R150), and those up to 2 cyc ahead (Table 5-10). -/
def openMax (s : State) (g : Nat) : Nat := (groupWindow s.cfg.active g + 2) * 1024 / max 1 (grpPeriod s g) + 4

/-- TIMEOUT comparators of stream `n` that a record resets: MODE = 1 any in-time record; MODE = 0 one in which the channel is
present (R235). -/
def timeoutsReset (r : IngRec) (s : State) : State :=
  let im := s.cfg.active
  ((timeoutCmps im r.strm).filter (fun c => imBit im secISL_CMP c 0 21 ||
    (recChan s r.inst (cmpF im c 1 31 16)).isSome)).foldl (fun s c => timeoutReset c r.arr s) s

/-- An ingest record is written to DRAM; `k` is what its first readers find. -/
def writeRec (k : ReadCheck) (r : IngRec) (s : State) : State :=
  let late := isLate s r
  let r := { r with written := true, iflags := if late then r.iflags ||| 2 ^ 8 else r.iflags }
  let s := { s with ing := { s.ing with recs := s.ing.recs.map (fun x => if x.strm == r.strm && x.inst == r.inst then r else x) } }
  let s := modStrm r.strm (fun q => { q with lastSeq := r.seq }) s
  if late then lateWritten k r s
  else
    let g := dirGroup s.cfg.active r.strm
    let im := s.cfg.active
    let cs := arrivalCmps im g r.strm
    let own := if (timeoutCmps im r.strm).any (fun c => !imBit im secISL_CMP c 0 21) then [r.strm] else []
    let read := (own ++ (cs.flatMap (cmpChans im)).map (chanStrm im)).eraseDups
    let s := timeoutsReset r ((k.recBad.filter read.contains).foldl (fun s m => markBad m r.inst s) s)
    cs.foldl (fun s c => cmpArrive k.objBad (openMax s g) c r.inst s) s

/-- The unwritten record that is written next: the earliest arrival, then the lowest port, then the order in the bundle (R161). -/
def nextRec : List IngRec → Option IngRec
  | [] => none
  | r :: l => match nextRec l with
    | none => if r.written then none else some r
    | some q => if r.written then some q
      else if q.arr < r.arr ∨ (q.arr = r.arr ∧ q.port < r.port) then some q else some r

/-- INGEST_RECORD_WRITE (R139). -/
def execIngestRecordWrite (s : State) (k : ReadCheck := {}) : Out := act s fun s =>
  match nextRec s.ing.recs with
  | some r => writeRec k r s
  | none => s

/-! ## Starting (R151, R218, R235, R241) -/

/-- The first reporting instant of group `g` at or after grid tick index `t`. -/
def firstInst (s : State) (g t : Nat) : Nat := let p := max 1 (grpPeriod s g); ceilDiv t p * p

/-- Group `g` waits to start at the first instant at or after `t`; what it sealed last stays on show (Table 5-12). -/
def grpWait (g t : Nat) (s : State) : State :=
  modGrp g (fun r => { st := if groupEn s.cfg.active g then 1 else 0, since := t, lastSeq := r.lastSeq, gone := r.gone, start := r.start }) s

/-- The signals of group `g`. -/
def grpSigs (im : Image) (g : Nat) : List Nat := (imValid im secOSC_SIGNAL).filter (fun n => sigGroup im n == g)

/-- The alarms that test bins of a signal of group `g`. -/
def grpAlarms (im : Image) (g : Nat) : List Nat :=
  (imValid im secOSC_ALARM).filter (fun a => (almGroups im a).contains g)

/-- Every detector of group `g` starts at instant `i`. Alarms and modes keep their state (R213, R218). -/
def detectorsStart (g i : Nat) (s : State) : State :=
  let im := s.cfg.active
  let s := ((imValid im secISL_CMP).filter (fun c => cmpGroup im c == g && decide (cmpSrc im c < 6))).foldl
    (fun s c => modCmp c (fun _ => { next := i, tmo := i * 1000000000, path := gridNs s i }) s) s
  let s := (grpSigs im g).foldl (fun s n => modSig n (fun r => { r with path := gridNs s i }) (sigStart n i s)) s
  let s := (grpAlarms im g).foldl (fun s a => modAlm a (fun r => { r with outs := [] }) s) s
  let s := (groupVotes im g).foldl (fun s v => modVote v (fun r => { lastCount := r.lastCount, lastSeq := r.lastSeq }) s) s
  icnsStart g (famStart g i s)

/-- Group `g` starts: its hold memory is empty, and its first set is that of the first instant. -/
def groupStart (g : Nat) (s : State) : State :=
  let i := firstInst s g (grpOf s g).since
  let s := modGrp g (fun r => { r with st := 2, start := i, nextClose := i, nextSeal := i, first := true, hold := [] }) s
  let s := detectorsStart g i s
  ((groupCmps s.cfg.active g).filter (cmpPerArr s.cfg.active)).foldl (fun s c => cmpArrive [] (openMax s g) c i s) s

/-- A waiting group has reached its first instant. -/
def groupMayStart (s : State) (g : Nat) : Bool :=
  (grpOf s g).st == 1 && hasTime s && decide (firstInst s g (grpOf s g).since ≤ s.tb.grid)

/-- WINDOW_CLOSE (R146, R147): the close of the next instant has been reached, and instant-bound tasks are triggered. -/
def execWindowClose (g : Nat) (s : State) : Out := act s fun s =>
  let r := grpOf s g
  if r.st == 2 && hasTime s && decide (closeOf s g r.nextClose ≤ s.tb.grid) then
    trigGroup g r.nextClose (modGrp g (fun q => { q with nextClose := r.nextClose + grpPeriod s g }) s)
  else s

/-! ## The aligned set (R152 to R156) -/

/-- The in-time record of stream `n` for instant `i`. -/
def inTimeRec (s : State) (n i : Nat) : Option IngRec :=
  match recOf s n i with
  | some r => if isLate s r then none else some r
  | none => none

/-- The age of a hold memory entry at the instant of SEQ `seq`. -/
def heldAge (seq : Nat) (h : Held) : Nat := (seq + 2 ^ 32 - h.seq) % 2 ^ 32

/-- The held value that a missing slot of channel `c` takes (R154). -/
def heldFor (s : State) (g seq c : Nat) : Option Held :=
  match fget? (grpOf s g).hold c with
  | some h => if grpHolds s.cfg.active g ∧ 1 ≤ heldAge seq h ∧ heldAge seq h ≤ grpHoldMax s.cfg.active g then some h else none
  | none => none

/-- The slot of channel `c`: the record's value, a held value, or the mark for want of one. -/
def slotFor (s : State) (g seq c mark : Nat) (v : Option Val) : ASlot × Option Held :=
  match v with
  | some v => if v.missing then
      match heldFor s g seq c with
      | some h => ({ a := h.a, b := h.b, mark := 1 }, some h)
      | none => ({ mark := mark }, none)
    else ({ a := v.a, b := v.b, mark := 0 }, none)
  | none => match heldFor s g seq c with
    | some h => ({ a := h.a, b := h.b, mark := 1 }, some h)
    | none => ({ mark := mark }, none)

/-- The newest of a list of held values. -/
def newestHeld (seq : Nat) (hs : List Held) : Option Held :=
  hs.foldl (fun acc h => match acc with
    | none => some h
    | some k => if heldAge seq h < heldAge seq k then some h else some k) none

/-- STAT of a block (Table 5-3). -/
def blockStat (seq smark stat : Nat) (hs : List Held) : Nat :=
  if smark = 0 then
    let base := stat - bitsN stat 12 12 * 2 ^ 12
    if hs.isEmpty then base else base - bitsN base 9 9 * 2 ^ 9 + 2 ^ 9
  else match newestHeld seq hs with
    | some h => bitsN h.stat 13 13 * 2 ^ 13 + bitsN h.stat 11 10 * 2 ^ 10 + 2 ^ 9 + bitsN h.stat 8 0
    | none => 2 * 2 ^ 14

/-- The block of stream `n` in the set of group `g` for instant `i` (Tables 5-2, 5-6). -/
def sealBlock (s : State) (g i seq n : Nat) : SBlk :=
  let im := s.cfg.active
  let base := dir im n 2 31 16
  let nch := dir im n 3 31 23 + 2 + dir im n 3 22 16 + dir im n 3 15 10
  let r := inTimeRec s n i
  let (smark, mark, vals, stat, claim) := match r with
    | some r => if r.bad then (2, 3, (fun (_ : Nat) => (none : Option Val)), 0, 0#32)
      else (0, 2, (fun k => r.vals[k]?), r.stat, r.claim)
    | none => (1, 2, (fun _ => none), 0, 0#32)
  let xs := (List.range nch).map (fun k => slotFor s g seq (base + k) mark (vals k))
  let hs := xs.filterMap (·.2)
  { strm := n, smark := smark, stat := blockStat seq smark stat hs, claim := claim
    heldAge := min 0xFFFF ((hs.map (heldAge seq)).foldl max 0), slots := xs.map (·.1)
    test := match r with
      | some r => !r.bad && Nat.testBit r.iflags 14
      | none => false
    arr := match r with
      | some r => if r.bad then none else some r.arr
      | none => none }

/-- The set of group `g` for instant `i`, built from the records and the hold memory. -/
def buildSet (s : State) (g i : Nat) : ASet :=
  let seq := seqOf s (groupRate s.cfg.active g) i
  { group := g, seq := seq, inst := i, vintage := s.cfg.active.vintage, first := (grpOf s g).first, tq := fld s.tb.tq 8 0
    blocks := (groupStrms s.cfg.active g).map (sealBlock s g i seq) }

/-- A set whose rebuild failed: every block FAILED, every slot MISSING and zero (R164). -/
def failSet (x : ASet) : ASet :=
  { x with
    rebuilt := true, failed := true
    blocks := x.blocks.map (fun b => { b with
      smark := 3, stat := 2 * 2 ^ 14, claim := 0#32, heldAge := 0, slots := b.slots.map (fun _ => {}) }) }

/-- A set is found corrupt: `res` 1 rebuilt, 2 failed; a rebuild that is an earlier check's is counted no second time. -/
def setRebuild (again : Bool) (g res : Nat) (s : State) : State :=
  let s := if 1 ≤ res ∧ !again then count (ALN + 0x304) (grpCountN g 4 1 s) else s
  let s := if 2 ≤ res then grpCountN g 5 1 s else s
  if again then (if 2 ≤ res then raise 0x0503 (.groups [g]) (leBytes 1 1 ++ leBytes 2 g) (alnFlag 2 s) else s)
  else rebuildEvents [g] 1 res s

/-- What the check of a set with outcome `res` comes to: an error after one rebuild fails the set, and a FAILED set is rebuilt no more
(Table 5-9). -/
def setRes (res : Nat) (x : ASet) : Nat := if x.failed then 0 else if res = 1 ∧ x.rebuilt then 2 else res

/-- The set after a check whose outcome is `res`. -/
def checkedSet (res : Nat) (x : ASet) : ASet :=
  if res = 0 then x else if res = 1 then { x with rebuilt := true } else failSet x

/-- A later reader checks the sealed set of group `g` for `i` (R164, R165). -/
def readerCheck (g i res : Nat) (s : State) : State :=
  match setOf s g i with
  | none => s
  | some x =>
    let q := setRes res x
    if q = 0 then s
    else setRebuild x.rebuilt g q { s with aln := { s.aln with sets := s.aln.sets.map (fun y =>
      if y.group == g && y.inst == i then checkedSet q y else y) } }

/-- The hold memory after a set (R154): channels PRESENT in it. -/
def holdAfter (im : Image) (x : ASet) (hold : FMap Held) : FMap Held :=
  x.blocks.foldl (fun m b =>
    let base := dir im b.strm 2 31 16
    (b.slots.zip (List.range b.slots.length)).foldl (fun m (v, k) =>
      if v.mark = 0 then fset m (base + k) { a := v.a, b := v.b, seq := x.seq, stat := b.stat } else m) m) hold

/-- The MARKS words of a block. -/
def marksLE : List ASlot → Nat
  | [] => 0
  | v :: l => v.mark % 4 + 4 * marksLE l

/-- A stream block of the harvest record (Table 5-6). -/
def blockBytes (b : SBlk) : List Byte :=
  let n := b.slots.length
  let body := leBytes 2 b.strm ++ leBytes 2 b.stat ++ leBytes 1 b.smark ++ zeros 1 ++ leBytes 2 n ++ leBytes 4 b.claim.toNat ++
    leBytes 2 b.heldAge ++ zeros 2 ++ b.slots.flatMap (fun v => valBytes v.a v.b) ++ leBytes (4 * ceilDiv n 16) (marksLE b.slots)
  body ++ zeros (ceilDiv body.length 8 * 8 - body.length)

def blkHeld (b : SBlk) : Bool := b.slots.any (fun v => v.mark == 1)
def nPresent (x : ASet) : Nat := (x.blocks.filter (fun b => b.smark == 0)).length
def nHeld (x : ASet) : Nat := (x.blocks.filter blkHeld).length
def nMissing (x : ASet) : Nat := (x.blocks.filter (fun b => b.smark != 0 && !blkHeld b)).length
def missingAny (x : ASet) : Bool := x.blocks.any (fun b => b.slots.any (fun v => decide (2 ≤ v.mark)))

/-- The harvest record of a set (Tables 5-4, 5-5). -/
def setRecord (s : State) (x : ASet) : List Byte :=
  let blocks := x.blocks.flatMap blockBytes
  let body0 := 64 + blocks.length + 4
  let len := ceilDiv body0 8 * 8
  let fl := b2n x.rebuilt * 2 ^ 15 + b2n x.failed * 2 ^ 14 + b2n (decide (0 < nHeld x)) * 2 ^ 13 + b2n (missingAny x) * 2 ^ 12 +
    b2n x.first * 2 ^ 11
  let b := leBytes 2 0x0501 ++ leBytes 2 fl ++ leBytes 4 len ++ leBytes 1 x.group ++ zeros 1 ++ leBytes 2 (x.blocks.length % 8192) ++
    leBytes 4 x.seq ++ tsLE (gridNs s x.inst) ++ tsLE (gridNs s (closeOf s x.group x.inst)) ++ leBytes 4 x.vintage ++
    leBytes 2 (nPresent x) ++ leBytes 2 (nHeld x) ++ leBytes 2 (nMissing x) ++ leBytes 2 x.tq ++
    leBytes 4 (sumN (x.blocks.map (·.slots.length))) ++ zeros 8 ++ blocks ++ zeros (len - body0)
  b ++ leBytes 4 (crc32 b).toNat

/-! ## The seal (R149, R161, R236 to R240, R214) -/

/-- Sets that every engine has had time to read leave the module's memory: 240 cyc beyond the late span of their instant. -/
def pruneSets (s : State) : State :=
  { s with aln := { s.aln with sets := s.aln.sets.filter (fun x =>
      decide (s.tb.grid ≤ closeOf s x.group x.inst + (lateSpan s + 240) * 1024)) } }

/-- Counters of a sealed set (Table 5-14). -/
def setCounts (x : ASet) (s : State) : State :=
  let absent := (x.blocks.filter (fun b => b.smark == 1 || b.smark == 2)).length
  let held := sumN (x.blocks.map (fun b => (b.slots.filter (fun v => v.mark == 1)).length))
  grpCountN x.group 3 held (grpCountN x.group 2 absent (grpCountN x.group 0 1 s))

/-- The comparators of a group at the seal of `i`: those not evaluated on arrival are evaluated, and OUT is read (R238). -/
def sealCmps (g i seq : Nat) (bad : List Nat) (s : State) : State :=
  let cs := groupCmps s.cfg.active g
  let close := gridNs s (closeOf s g i)
  let s := cs.foldl (fun s c =>
    if (cmpOf s c).next == i then
      modCmp c (fun k => { k with path := close }) (cmpEval c i (setChan s i) (if bad.contains c then cmpReplay c i s else s))
    else s) s
  cs.foldl (fun s c => match fget? (cmpOf s c).outs i with
    | some b => cmpSetOut c seq (gridNs s i) (alarmDue s close) b (modCmp c (fun k => { k with seals := lastN 64 (fset k.seals i b), outs := k.outs.filter (fun e => decide (i < e.1)) }) s)
    | none => s) s

/-- The frames of output streams that a seal of group `g` for `i` makes due (R324, R332). Departure is due 64 tk after the close for
an alarm, 48 tk for the first aligned frame, 96 tk for the others (Table 1-7). -/
def sealFrames (g i seq : Nat) (s : State) : State :=
  let im := s.cfg.active
  let os := (imValid im secOUT_STREAM).filter (fun n => imFld im secOUT_STREAM n 0 21 16 == g &&
    decide (imFld im secOUT_STREAM n 0 30 28 < 3) && seq % max 1 (imFld im secOUT_STREAM n 2 7 0) == 0)
  let held := fun n => if imFld im secOUT_STREAM n 0 30 28 = 2 then
      (List.range (imFld im secOUT_STREAM n 2 18 10)).map (fun k =>
        let (t, x) := outSrc im (imFld im secOUT_STREAM n 2 31 19 + k)
        srcVal s t x != 0#32)
    else []
  let first := os.find? (fun n => decide (imFld im secOUT_STREAM n 0 30 28 < 2))
  let tk := fun n => if imFld im secOUT_STREAM n 0 30 28 = 2 then 64 else if first = some n then 48 else 96
  { s with pub := { s.pub with due := s.pub.due ++ os.map (fun n =>
    { os := n, inst := i, due := tickAt s (closeOf s g i) + tk n
      held := held n }) } }

/-- What follows a set: detectors, votes, outputs, publication and the harvest rings. -/
def afterSeal (x : ASet) (bad : List Nat) (s : State) : State :=
  let im := s.cfg.active
  let g := x.group
  let i := x.inst
  let s := sealCmps g i x.seq bad s
  let s := (grpSigs im g).foldl (fun s n => (sigAlarms im n).foldl (fun s a => almSeal a i s) s) s
  let s := (groupVotes im g).foldl (fun s v => voteSeal v i s) s
  let s := latchDirect (fun t k => t == 0 && (groupCmps im g).contains k) s
  let s := sealFrames g i x.seq s
  let s := harvest (fun p => hrvGroup s p g) 0x0501 (some g) (setRecord s x) none s
  ((groupCmps im g).filter (cmpPerArr im)).foldl (fun s c => cmpArrive [] (openMax s g) c (i + grpPeriod s g) s) s

/-- The next set of group `g` is sealed. -/
def sealSet (g : Nat) (k : SealCheck) (s : State) : State :=
  let i := (grpOf s g).nextSeal
  let s := k.corrupt.foldl (fun s n => if dirGroup s.cfg.active n = g ∧ (inTimeRec s n i).isSome then markBad n i s else s) s
  let nb := (k.holdBad.filter (fun c => (fget? (grpOf s g).hold c).isSome)).eraseDups
  let s := grpCountN g 7 nb.length (modGrp g (fun r => { r with hold := r.hold.filter (fun e => !nb.contains e.1) }) s)
  let x := checkedSet k.rebuild (buildSet s g i)
  let s := setRebuild false g k.rebuild s
  let s := modGrp g (fun r => { r with
    nextSeal := i + grpPeriod s g, first := false, lastSeq := x.seq
    hold := if x.failed || !grpHolds s.cfg.active g then r.hold else holdAfter s.cfg.active x r.hold }) s
  let s := setCounts x (pruneSets { s with aln := { s.aln with sets := s.aln.sets ++ [x] } })
  pruneRecs (afterSeal x k.cmpBad s)

/-- ALIGNED_SET_SEAL (R149): the oldest instant whose window has closed. -/
def execAlignedSetSeal (g : Nat) (k : SealCheck) (s : State) : Out := act s fun s =>
  let r := grpOf s g
  if r.st == 2 && decide (r.nextSeal < r.nextClose) then sealSet g k s else s

/-! ## Open instants (R150, R166, R167) -/

/-- The open instants of group `g`: those reached and not sealed, and those ahead for which a record is written. A group that waits has
the instants from its first one on. -/
def openInsts (s : State) (g : Nat) : List Nat :=
  let r := grpOf s g
  if r.st = 0 ∨ !hasTime s then []
  else
    let p := max 1 (grpPeriod s g)
    let a := if r.st = 2 then r.nextSeal else firstInst s g r.since
    let n := if a ≤ s.tb.grid then (s.tb.grid - a) / p + 1 else 0
    let reached := (List.range n).map (fun k => a + k * p)
    let ahead := (s.ing.recs.filter (fun x => x.written && dirGroup s.cfg.active x.strm == g &&
      decide (a ≤ x.inst ∧ s.tb.grid < x.inst))).map (·.inst)
    reached ++ ahead.eraseDups

/-- Instants that group `g` discards have no scan of an instant-bound task of the group (Table 5-10). -/
def scanDiscard (g : Nat) (s : State) : State :=
  let im := s.cfg.active
  let r := grpOf s g
  let dead := fun (t : Trig) => r.st == 2 && decide (r.nextSeal ≤ t.inst)
  ((imValid im secSCH_TASK).filter (fun t => !imBit im secSCH_TASK t 0 30 && taskGroup im t == g)).foldl
    (fun s t => modTask t (fun k => { k with
      queue := k.queue.filter (fun x => !dead x)
      snap := match k.snap with
        | some q => if dead q.trig then none else some q
        | none => none }) s) s

/-- A timebase restart discards the open instants of group `g`, and the group waits to start again at or after `t` (R166). Ingest records
stay (R139). -/
def groupReinit (g t : Nat) (s : State) : State :=
  let l := openInsts s g
  let s := grpCountN g 6 l.length s
  let s := modGrp g (fun r => { r with gone := l ++ r.gone.filter (fun i => decide (s.tb.grid ≤ closeOf s g i + lateSpan s * 1024)) }) s
  raise 0x0501 (.groups [g]) (leBytes 2 g ++ leBytes 1 1) (alnFlag 4 (grpWait g t (scanDiscard g s)))

end Sys2Proof.Machine
end

