-- ==== Sys2Proof/Machine/Detect.lean ====
section
/-!
DEFINITION. Sys2Proof/Machine/Detect.lean: oscillation signals, mode families and interconnections as commands, with the checks of the
products they read (R164, R198, R208, R222).
-/
namespace Sys2Proof.Machine

/-- The sets that a reader finds corrupt, with the outcome of each check. -/
def readSets (i : Nat) (bad : List (Nat × Nat)) (s : State) : State := bad.foldl (fun s b => readerCheck b.1 i b.2 s) s

/-- The value of signal `n` from the words of its channels; none is a fill. -/
def sigInput (s : State) (n : Nat) (get : Nat → Option (Word × Word)) : Option (Word × Option Word) :=
  let im := s.cfg.active
  match (sigChans im n).map get with
  | [some a] => some (sigValue im n (sigOf s n).u a (0#32, 0#32))
  | [some a, some b] => some (sigValue im n (sigOf s n).u a b)
  | _ => none

/-- Signal `n` replays before its update at `i` (R164); only its own state changes. -/
def sigReplay (n i : Nat) (s : State) : State :=
  let g := sigGroup s.cfg.active n
  let s' := (replayInsts s g i).foldl (fun s j => sigUpdate n j (sigInput s n (replayChan s g j)) s) (sigStart n i s)
  let r := { sigOf s' n with next := i, path := (sigOf s n).path }
  modSig n (fun _ => r) (detReplay g s)

/-- SIGNAL_UPDATE (R198): signal `n` is updated at its next instant once its inputs are final. -/
def execSignalUpdate (n : Nat) (k : ReadCheck) (s : State) : Out := act s fun s =>
  let im := s.cfg.active
  let i := (sigOf s n).next
  let g := sigGroup im n
  let chs := sigChans im n
  let closed := isSealed s g i
  if imBit im secOSC_SIGNAL n 0 31 && (grpOf s g).st == 2 && (closed || chs.all (recWritten s i)) then
    let s := if closed then readSets i (k.setBad.filter (fun b => b.1 == g)) s
      else (k.recBad.filter (fun m => chs.any (fun c => chanStrm im c == m))).foldl (fun s m => markBad m i s) s
    let s := if k.stateBad then sigReplay n i s else s
    let path := if closed then gridNs s (closeOf s g i) else (chs.map (recArr s i)).foldl max (sigOf s n).path
    let s := modSig n (fun r => { r with path := path }) s
    let s := sigAlmUpdate k.objBad n i (sigUpdate n i (sigInput s n (if closed then setChan s i else recChan s i)) s)
    if (sigFamilies im n).isEmpty then sigReport n i s else s
  else s

/-- MODE_FAMILY_EVALUATION (R208): the family of reference signal `r` at its next instant, once every group has sealed it and every
member has been updated. -/
def execModeFamilyEvaluation (r : Nat) (s : State) (k : ReadCheck := {}) : Out := act s fun s =>
  let im := s.cfg.active
  let ms := (imValid im secOSC_MODE).filter (fun m => modeRef im m == r)
  let i := fgetD s.osc.famNext r 0
  let members := (ms.flatMap (modeMembers im)).eraseDups
  if !ms.isEmpty && (famGroups im r).all (fun g => isSealed s g i) && members.all (fun n => decide (i < (sigOf s n).next)) then
    let s := readSets i (k.setBad.filter (fun b => (famGroups im r).contains b.1)) s
    let s := if k.stateBad then ms.foldl (fun s m => modeReplay m i s) (detReplay (sigGroup im r) s) else s
    let s := (ms.foldl (fun acc m => modeEval k.objBad m i acc) (s, [])).1
    let s := { s with osc := { s.osc with famNext := fset s.osc.famNext r (i + period s (sigRate im r)) } }
    members.foldl (fun s n => sigReport n i s) s
  else s

/-- ISLAND_EVALUATION (R222): interconnection `i` at its next instant, once every island group has sealed it. -/
def execIslandEvaluation (i : Nat) (k : ReadCheck) (s : State) : Out := act s fun s =>
  let im := s.cfg.active
  let r := icnOf s i
  if r.on && (islGroups im i).all (fun g => isSealed s g r.next) then
    let s := readSets r.next (k.setBad.filter (fun b => (islGroups im i).contains b.1)) s
    islandEval k.objBad i (if k.stateBad then islReplay i s else s)
  else s

end Sys2Proof.Machine
end

