-- ==== Sys2Proof/Machine/Scheme.lean ====
section
/-!
DEFINITION. Sys2Proof/Machine/Scheme.lean: scheme logic (chapter 9): snapshots, elements, scans, remote stations.
-/
namespace Sys2Proof.Machine

/-! ## The image -/

def taskF (im : Image) (t w hi lo : Nat) : Nat := imFld im secSCH_TASK t w hi lo
def elemF (im : Image) (e w hi lo : Nat) : Nat := imFld im secSCH_ELEM e w hi lo
def stnF (im : Image) (n w hi lo : Nat) : Nat := imFld im secSCH_STATION n w hi lo
def dsF (im : Image) (d w hi lo : Nat) : Nat := imFld im secSCH_DATASET d w hi lo
def stnValid (im : Image) (n : Nat) : Bool := imBit im secSCH_STATION n 0 31
def dsValid (im : Image) (d : Nat) : Bool := imBit im secSCH_DATASET d 0 31
def voteBound (im : Image) (t : Nat) : Bool := imBit im secSCH_TASK t 0 30

/-- The datasets of station `n`. -/
def stnDss (im : Image) (n : Nat) : List Nat := upFrom (stnF im n 0 22 14) (stnF im n 0 26 23)

/-- The stations that task `t` owns. -/
def taskStns (im : Image) (t : Nat) : List Nat := (imValid im secSCH_STATION).filter (fun n => stnF im n 0 30 27 == t)

def mainElems (im : Image) (t : Nat) : List Nat := upFrom (taskF im t 1 31 18) (taskF im t 1 17 3)
def errElems (im : Image) (n : Nat) : List Nat := upFrom (stnF im n 0 13 0) (stnF im n 1 31 18)

/-- The operand words of element `e`. -/
def elemOpnds (im : Image) (e : Nat) : List Word :=
  (upFrom (elemF im e 1 31 16) (elemF im e 0 23 19)).map (fun k => imWord im secSCH_OPND k 0)

/-- The parameter record of kind `k` for target `x`. -/
def parOf (im : Image) (k x : Nat) : Option Nat :=
  (List.range (imCount im secSCH_PARAM)).find? (fun p => imFld im secSCH_PARAM p 0 29 28 == k && imFld im secSCH_PARAM p 0 13 0 == x)

/-- The value in force of the tunable value of kind `k` for target `x`; `d` where the image makes it no parameter. -/
def parVal (im : Image) (pars : FMap Word) (k x : Nat) (d : Word) : Word :=
  match parOf im k x with
  | some p => fgetD pars p (imWord im secSCH_PARAM p 3)
  | none => d

def stnOf (s : State) (n : Nat) : Stn := fgetD s.sch.stns n {}
def modStn (n : Nat) (f : Stn → Stn) (s : State) : State := { s with sch := { s.sch with stns := fmod s.sch.stns n {} f } }
def dsOf (s : State) (d : Nat) : Ds := fgetD s.sch.dss d {}
def modDs (d : Nat) (f : Ds → Ds) (s : State) : State := { s with sch := { s.sch with dss := fmod s.sch.dss d {} f } }
def schFlag (b : Nat) (s : State) : State := setFlag s (SCH + 8) b

/-- The event object of station `n`: that of its owner task. -/
def stnObj (s : State) (n : Nat) : EvObj := taskObj s (stnF s.cfg.active n 0 30 27)

/-! ## The snapshot (R249, Table 9-2) -/

/-- The groups whose sets a detector input waits for; none when it has no close instant. -/
def opndGroups (im : Image) (w : Word) : Option (List Nat) :=
  let sp := fld w 31 28
  if sp = 1 then
    let c := fld w 13 0
    if cmpPrim im c = 2 then none else if cmpSrc im c < 6 then some [cmpGroup im c] else some (islGroups im (cmpIcn im c))
  else if sp = 2 then some (almGroups im (fld w 11 0))
  else if sp = 3 then some (famGroups im (modeRef im (fld w 7 0)))
  else if sp = 4 then some (islGroups im (icnOfPair im (fld w 9 0)))
  else if sp = 5 then some (islGroups im (icnOfCgrp im (fld w 7 0)))
  else if sp = 7 ∨ sp = 8 then some [chanGroup im (fld w 15 0)]
  else none

/-- The operand is a same-instant input of task `t` for instant `i`: its close instant for `i` is T; a channel is one when it lies in
the task's own group. -/
def sameInst (s : State) (t i : Nat) (w : Word) : Bool :=
  let im := s.cfg.active
  let g := taskGroup im t
  if voteBound im t then false
  else match opndGroups im w with
    | none => false
    | some gs =>
      if fld w 31 28 = 7 ∨ fld w 31 28 = 8 then gs == [g]
      else !gs.isEmpty && gs.all (fun x => decide (i % max 1 (grpPeriod s x) = 0)) &&
        ((gs.map (fun x => closeOf s x i)).foldl max 0 == closeOf s g i)

/-- The same-instant value of an operand for instant `i` is final. -/
def instFinal (s : State) (i : Nat) (w : Word) : Bool :=
  let im := s.cfg.active
  let sp := fld w 31 28
  if sp = 1 then
    let c := fld w 13 0
    if cmpSrc im c < 6 then isSealed s (cmpGroup im c) i else decide (i < (icnOf s (cmpIcn im c)).next)
  else if sp = 2 then
    let a := fld w 11 0
    if imBit im secOSC_ALARM a 0 28 then decide (i < fgetD s.osc.famNext (modeRef im (almF im a 0 7 0)) 0)
    else isSealed s (sigGroup im (almF im a 0 11 0)) i && decide (i < (sigOf s (almF im a 0 11 0)).next)
  else if sp = 3 then decide (i < fgetD s.osc.famNext (modeRef im (fld w 7 0)) 0)
  else if sp = 4 then decide (i < (icnOf s (icnOfPair im (fld w 9 0))).next)
  else if sp = 5 then decide (i < (icnOf s (icnOfCgrp im (fld w 7 0))).next)
  else if sp = 7 ∨ sp = 8 then isSealed s (chanGroup im (fld w 15 0)) i
  else true

/-- The set from which a channel is read: that of `i` for a same-instant input, otherwise the latest of its group since it last
started. -/
def chanSet (s : State) (c : Nat) (i : Option Nat) : Option ASet :=
  let g := chanGroup s.cfg.active c
  match i with
  | some i => setOf s g i
  | none => (s.aln.sets.filter (fun x => x.group == g && decide ((grpOf s g).start ≤ x.inst))).getLast?

/-- The slot of channel `c` as the snapshot takes it. -/
def chanSlot (s : State) (c : Nat) (i : Option Nat) : ASlot :=
  match chanSet s c i with
  | some x => (setSlot s.cfg.active x c).getD {}
  | none => {}

/-- The station and dataset of station input `x`. -/
def inStn (im : Image) (x : Nat) : Option Nat :=
  (imValid im secSCH_STATION).find? (fun n => decide (stnF im n 2 31 19 ≤ x ∧ x < stnF im n 2 31 19 + stnF im n 2 18 9))

/-- A station input at S, and whether its substitute was taken (R259). -/
def stnInput (s : State) (x : Nat) : Word × Bool :=
  let r := fgetD s.sch.ins x {}
  let ok := match inStn s.cfg.active x with
    | some n => (stnOf s n).st == 1
    | none => false
  if ok && !r.invalid && !r.test then (r.val, false) else (parVal s.cfg.active s.cfg.pars 3 x 0#32, true)

/-- The present value `d` of a detector result, or for a same-instant input that of instant `i`. -/
def atInst {α : Type} (m : FMap α) (i : Option Nat) (d : α) : α :=
  match i with
  | some i => fgetD m i d
  | none => d

/-- The value of a snapshot operand of task `t`, and whether it is a substitute (Tables 9-2, 14-8). `i` is the instant of a
same-instant input. -/
def opndValue (s : State) (t : Nat) (tr : Trig) (w : Word) (i : Option Nat) : Word × Bool :=
  let sp := fld w 31 28
  if sp = 1 then
    let c := cmpOf s (fld w 13 0)
    (bw (atInst c.seals i c.out), false)
  else if sp = 2 then
    let a := almOf s (fld w 11 0)
    (bw (atInst a.seals i a.sealOut), false)
  else if sp = 3 then
    let m := modeOf s (fld w 7 0)
    (bw (atInst m.hist i (m.bin.getD 0xFF) != 0xFF), false)
  else if sp = 4 then
    let p := pairOf' s (fld w 9 0)
    let now := b2n p.diverge + 2 * b2n p.slip + 4 * b2n p.islanded
    (bw (Nat.testBit (atInst p.was i now) (min 2 (fld w 11 10))), false)
  else if sp = 5 then
    let g := grpIsl s (fld w 7 0)
    (BitVec.ofNat 32 (atInst g.was i g.island), false)
  else if sp = 6 then
    let v := fld w 11 0
    (bw ((voteBound s.cfg.active t && taskF s.cfg.active t 0 23 12 == v) || (voteOf s v).rel), false)
  else if sp = 7 then
    let r := chanSlot s (fld w 15 0) i
    let k := fld w 17 16
    (if k = 0 then r.a else if k = 1 then r.b else if k = 2 then absF r.a r.b else argF r.a r.b, false)
  else if sp = 8 then (BitVec.ofNat 32 (chanSlot s (fld w 15 0) i).mark, false)
  else if sp = 9 then stnInput s (fld w 12 0)
  else if sp = 0xA then (bw ((stnOf s (fld w 7 0)).st == 1), false)
  else if sp = 0xB then (bw (s.tb.di.getLsbD (fld w 3 0)), false)
  else if sp = 0xC then (fgetD s.sch.links (fld w 11 0) 0#32, false)
  else if sp = 0xD then
    let k := fld w 1 0
    (if k = 0 then bw (!(taskOf s t).firstDone) else if k = 1 then bw (authority s) else BitVec.ofNat 32 tr.seq, false)
  else (0#32, false)

/-- The operands of a scan: those of the main logic and of the error tasks that run in it. -/
def scanOpnds (im : Image) (t : Nat) (errs : List Nat) : List Word :=
  (((errs.flatMap (errElems im)) ++ mainElems im t).flatMap (elemOpnds im)).filter (fun w => fld w 31 28 != 0) |>.eraseDups

/-- Take the operands `ws` into snapshot `q` of task `t`. -/
def snapTake (s : State) (t : Nat) (ws : List Word) (q : Snap) : Snap :=
  ws.foldl (fun q w =>
    let i := if sameInst s t q.trig.inst w then some q.trig.inst else none
    let (v, sub) := opndValue s t q.trig w i
    { q with vals := (w, v) :: q.vals, subst := q.subst || sub }) q

/-- S of a scan triggered by `tr`: T + 8 tk at the latest, but not before the end of the task's previous scan (Table 9-1, R248). -/
def readStart (s : State) (t : Nat) (tr : Trig) : Nat := min s.tb.tick (max (tr.t + 8) (taskOf s t).lastEnd)

/-- The operands of elements with an edge memory in the error tasks of task `t` that do not run in a scan (R267). -/
def idleEdges (im : Image) (t : Nat) (errs : List Nat) : List Nat :=
  (((taskStns im t).filter (fun n => !errs.contains n)).flatMap (errElems im)).filter
    (fun e => decide (0x22 ≤ elemF im e 0 31 26 ∧ elemF im e 0 31 26 ≤ 0x25))

/-- The read of task `t` starts: every operand whose value is known at S is taken; same-instant operands that are not final wait. A first
scan also reads what the edge memories of idle error tasks are loaded from. -/
def snapStart (t : Nat) (tr : Trig) (rest : List Trig) (s : State) : State :=
  let im := s.cfg.active
  let at_ := readStart s t tr
  let errs := (taskStns im t).filter (fun n => (stnOf s n).errPend && decide ((stnOf s n).loss ≤ at_))
  let ws := scanOpnds im t errs
  let late := ws.filter (fun w => sameInst s t tr.inst w && !instFinal s tr.inst w)
  let q : Snap := { trig := tr, s := at_, waits := late, pars := s.cfg.pars, errs := errs }
  let q := snapTake s t (ws.filter (fun w => !late.contains w)) q
  let idle := if (taskOf s t).firstDone then [] else
    (((idleEdges im t errs).flatMap (elemOpnds im)).filter (fun w => fld w 31 28 != 0 && !ws.contains w)).eraseDups
  let q := { q with vals := (snapTake s t idle q).vals }
  modTask t (fun k => { k with queue := rest, snap := some q }) s

/-- Same-instant operands that have become final are taken. -/
def snapMore (t : Nat) (q : Snap) (s : State) : State :=
  let now := q.waits.filter (instFinal s q.trig.inst)
  let q := snapTake s t now { q with waits := q.waits.filter (fun w => !now.contains w) }
  modTask t (fun k => { k with snap := some q }) s

/-- Task `t` has same-instant inputs for the instant of `tr`. -/
def hasSameInst (s : State) (t : Nat) (tr : Trig) : Bool :=
  (scanOpnds s.cfg.active t (taskStns s.cfg.active t)).any (sameInst s t tr.inst)

/-- The instant whose set of group `g` a scan of task `t` reads: its own where it is sealed, the latest sealed one else. -/
def scanInst (s : State) (t : Nat) (tr : Trig) (g : Nat) : Nat :=
  if !voteBound s.cfg.active t && tr.inst % max 1 (grpPeriod s g) == 0 && isSealed s g tr.inst then tr.inst
  else (grpOf s g).nextSeal - grpPeriod s g

/-- A scan checks the sets that it reads (Table 5-9). -/
def scanSets (t : Nat) (tr : Trig) (bad : List (Nat × Nat)) (s : State) : State :=
  bad.foldl (fun s b => readerCheck b.1 (scanInst s t tr b.1) b.2 s) s

/-- SCAN_SNAPSHOT (R249, R246): the read of a triggered task starts, at T + 8 tk when it has same-instant inputs; or operands that
have become final complete a snapshot. -/
def execScanSnapshot (t : Nat) (s : State) (c : ReadCheck := {}) : Out := act s fun s =>
  let r := taskOf s t
  match r.snap with
  | some q => if q.waits.any (instFinal s q.trig.inst) then snapMore t q (scanSets t q.trig c.setBad s) else s
  | none => match r.queue with
    | tr :: rest =>
      if tr.t + (if hasSameInst s t tr then 8 else 0) ≤ s.tb.tick then snapStart t tr rest (scanSets t tr c.setBad s) else s
    | [] => s

/-! ## Elements (Tables 9-4, 9-5; R253 to R257) -/

/-- What a scan works on: the scheme state, the task's element outputs before the scan and now, and the first element in error. -/
structure ScanCtx where
  sch : Sch
  old : FMap Word
  outs : FMap Word
  arith : Option Nat := none
  deriving DecidableEq, Repr

/-- An INT32 result: wrapped, with ARITH when it lies beyond the range. -/
def intRes (v : Int) : Word × Bool := (BitVec.ofInt 32 v, decide (v < -2147483648 ∨ 2147483647 < v))

/-- A FLOAT32 result: ARITH when it is NaN or infinite from finite inputs. -/
def fltRes (v : Word) (xs : List Word) : Word × Bool := (v, !f32finite v && xs.all f32finite)

/-- The lesser of two FLOAT32 numbers; with one NaN, the other. -/
def fltMin (a b : Word) : Word :=
  if f32isNan a then b else if f32isNan b then a else if f32lt a b then a else if f32lt b a then b
  else if a = b then a else Config.minZero a b

/-- The greater. -/
def fltMax (a b : Word) : Word :=
  if f32isNan a then b else if f32isNan b then a else if f32lt b a then a else if f32lt a b then b
  else if a = b then a else Config.maxZero a b

/-- ADD to MAX on INT32. -/
def intArith (op : Nat) (a b : Word) : Word × Bool :=
  if op = 0x10 then intRes (a.toInt + b.toInt)
  else if op = 0x11 then intRes (a.toInt - b.toInt)
  else if op = 0x12 then intRes (a.toInt * b.toInt)
  else if op = 0x13 then (if b = 0#32 then (0#32, true) else intRes (Int.tdiv a.toInt b.toInt))
  else if op = 0x14 then intRes (-a.toInt)
  else if op = 0x15 then intRes (a.toInt.natAbs : Int)
  else if op = 0x16 then (if a.toInt ≤ b.toInt then a else b, false)
  else (if a.toInt ≤ b.toInt then b else a, false)

/-- ADD to MAX on FLOAT32. -/
def fltArith (op : Nat) (a b : Word) : Word × Bool :=
  if op = 0x10 then fltRes (f32add a b) [a, b]
  else if op = 0x11 then fltRes (f32sub a b) [a, b]
  else if op = 0x12 then fltRes (f32mul a b) [a, b]
  else if op = 0x13 then fltRes (f32div a b) [a, b]
  else if op = 0x14 then (f32neg a, false)
  else if op = 0x15 then (f32abs a, false)
  else if op = 0x16 then (fltMin a b, false)
  else (fltMax a b, false)

/-- GT, GE, LT, LE, EQ, NE. -/
def compareEl (op typ : Nat) (a b : Word) : Bool :=
  let lt := fun x y : Word => if typ = 2 then f32lt x y else decide (x.toInt < y.toInt)
  let eq := if typ = 2 then f32eq a b else a == b
  if op = 8 then lt b a else if op = 9 then lt b a || eq else if op = 0xA then lt a b else if op = 0xB then lt a b || eq
  else if op = 0xC then eq else !eq

/-- F2I: truncated toward zero, saturated. -/
def f2i (x : Word) : Word × Bool :=
  match fdec fmt32 x.toNat with
  | .nan => (0#32, true)
  | .inf neg => (if neg then 0x80000000#32 else 0x7FFFFFFF#32, true)
  | .fin neg m e =>
    let (p, q) := finNum neg m e
    let v := Int.tdiv p (q : Int)
    if v < -2147483648 then (0x80000000#32, true) else if 2147483647 < v then (0x7FFFFFFF#32, true) else (BitVec.ofInt 32 v, false)

def sat31 (n : Nat) : Nat := min n 0x7FFFFFFF

/-- t − t0 on the tick counter. -/
def tickSub (t t0 : Nat) : Nat := (t + 2 ^ 64 - t0) % 2 ^ 64

/-- TON (R256). -/
def tonStep (m : Tmr) (i : Bool) (t pt : Nat) : Tmr :=
  if !i then { m with run := false, et := 0, q := false }
  else
    let m := if m.run then m else { m with run := true, t0 := t }
    let et := sat31 (tickSub t m.t0)
    { m with et := et, q := decide (pt ≤ et) }

/-- TOF (R256). -/
def tofStep (m : Tmr) (i : Bool) (t pt : Nat) : Tmr :=
  if i then { m with run := false, et := 0, q := true }
  else
    let m := if m.q && !m.run then { m with run := true, t0 := t } else m
    if m.run then
      let et := sat31 (tickSub t m.t0)
      if pt ≤ et then { m with et := et, q := false, run := false } else { m with et := et }
    else m

/-- TP (R256); `prev` is its edge memory. -/
def tpStep (m : Tmr) (i prev : Bool) (t pt : Nat) : Tmr :=
  let m := if !m.run && i && !prev then { m with run := true, t0 := t } else m
  let m := if m.run then
      let et := sat31 (tickSub t m.t0)
      { m with et := et, run := m.run && decide (et < pt) }
    else if !i then { m with et := 0 } else m
  { m with q := m.run }

/-- CTUD on its edges (R257). -/
def ctudStep (cv pv : Word) (up dn r ld : Bool) : Word :=
  if r then 0#32
  else if ld then pv
  else if up && !dn then (if cv = 0x7FFFFFFF#32 then cv else cv + 1#32)
  else if dn && !up then (if cv = 0x80000000#32 then cv else cv - 1#32)
  else cv

/-- WMIN (0x28) or WMAX (0x29) of a window. -/
def winVal (op typ : Nat) (l : List Word) : Word :=
  if typ = 2 then
    match l.filter (fun x => !f32isNan x) with
    | [] => w32 (nanBits fmt32)
    | x :: xs => xs.foldl (fun a b => if op = 0x28 then fltMin a b else fltMax a b) x
  else match l with
    | [] => 0#32
    | x :: xs => xs.foldl (fun a b => (intArith (if op = 0x28 then 0x16 else 0x17) a b).1) x

/-- An operand of element `e`: a snapshot value, an output of this scan, or of the previous one (R378). -/
def readOpnd (q : Snap) (c : ScanCtx) (e : Nat) (w : Word) : Word :=
  if fld w 31 28 = 0 then
    let k := fld w 15 0
    fgetD (if e ≤ k then c.old else c.outs) (k * 4 + fld w 18 16) 0#32
  else match q.vals.find? (fun x => x.1 == w) with
    | some x => x.2
    | none => 0#32

def putOut (e port : Nat) (v : Word) (c : ScanCtx) : ScanCtx := { c with outs := fset c.outs (e * 4 + port) v }

/-- A result that may set ARITH. -/
def putRes (e : Nat) (r : Word × Bool) (c : ScanCtx) : ScanCtx :=
  putOut e 0 r.1 { c with arith := if r.2 && c.arith.isNone then some e else c.arith }

/-- Element opcode 0x20 to 0x22. -/
def timerEl (im : Image) (q : Snap) (first : Bool) (e op : Nat) (i : Bool) (c : ScanCtx) : ScanCtx :=
  let n := elemF im e 0 15 0
  let pt := (parVal im q.pars 1 e (imWord im secSCH_ELEM e 2)).toNat
  let m0 := if first then {} else fgetD c.sch.tmrs n {}
  let m0 := { m0 with elem := e, typ := op - 0x20 }
  let k := elemF im e 3 31 16
  let prev := if first then i else fgetD c.sch.edges k false
  let m := if op = 0x20 then tonStep m0 i q.trig.t pt else if op = 0x21 then tofStep m0 i q.trig.t pt else tpStep m0 i prev q.trig.t pt
  let sch := { c.sch with tmrs := fset c.sch.tmrs n m, edges := if op = 0x22 then fset c.sch.edges k i else c.sch.edges }
  putOut e 0 (bw m.q) (putOut e 1 (BitVec.ofNat 32 m.et) { c with sch := sch })

/-- CTUD. -/
def counterEl (im : Image) (q : Snap) (first : Bool) (e : Nat) (cu cd r ld : Bool) (c : ScanCtx) : ScanCtx :=
  let n := elemF im e 0 15 0
  let k := elemF im e 3 31 16
  let pv := parVal im q.pars 2 e (imWord im secSCH_ELEM e 2)
  let mu := if first then cu else fgetD c.sch.edges k false
  let md := if first then cd else fgetD c.sch.edges (k + 1) false
  let cv := ctudStep (fgetD c.sch.cvs n (imWord im secSCH_ELEM e 4)) pv (cu && !mu) (cd && !md) r ld
  let sch := { c.sch with cvs := fset c.sch.cvs n cv, edges := fset (fset c.sch.edges k cu) (k + 1) cd }
  putOut e 1 cv (putOut e 2 (bw (decide (pv.toInt ≤ cv.toInt))) (putOut e 3 (bw (decide (cv.toInt ≤ 0))) { c with sch := sch }))

/-- R_TRIG (0x24) or F_TRIG. -/
def edgeEl (im : Image) (first : Bool) (e op : Nat) (i : Bool) (c : ScanCtx) : ScanCtx :=
  let n := elemF im e 0 15 0
  let m := if first then i else fgetD c.sch.edges n false
  putOut e 0 (bw (if op = 0x24 then i && !m else !i && m)) { c with sch := { c.sch with edges := fset c.sch.edges n i } }

/-- SR (0x26) or RS. -/
def latchEl (im : Image) (e op : Nat) (st r : Bool) (c : ScanCtx) : ScanCtx :=
  let q := fgetD c.sch.latches e (imBit im secSCH_ELEM e 4 0)
  let q := if op = 0x26 then st || (q && !r) else !r && (st || q)
  putOut e 0 (bw q) { c with sch := { c.sch with latches := fset c.sch.latches e q } }

/-- WMIN or WMAX. -/
def windowEl (im : Image) (first : Bool) (e op : Nat) (x : Word) (c : ScanCtx) : ScanCtx :=
  let n := elemF im e 0 15 0
  let l := (x :: (if first then [] else fgetD c.sch.wins n [])).take (elemF im e 3 15 8)
  putOut e 0 (winVal op (elemF im e 0 25 24) l) { c with sch := { c.sch with wins := fset c.sch.wins n l } }

/-- One element of a scan (Table 14-7). -/
def elemStep (im : Image) (q : Snap) (first : Bool) (c : ScanCtx) (e : Nat) : ScanCtx :=
  let op := elemF im e 0 31 26
  let typ := elemF im e 0 25 24
  let xs := (elemOpnds im e).map (readOpnd q c e)
  let x := fun k => xs.getD k 0#32
  let b := fun k => x k != 0#32
  if op = 1 then putOut e 0 (bw (xs.all (· != 0#32))) c
  else if op = 2 then putOut e 0 (bw (xs.any (· != 0#32))) c
  else if op = 3 then putOut e 0 (bw (b 0 != b 1)) c
  else if op = 4 then putOut e 0 (bw (!b 0)) c
  else if 8 ≤ op ∧ op ≤ 0xD then putOut e 0 (bw (compareEl op typ (x 0) (x 1))) c
  else if 0x10 ≤ op ∧ op ≤ 0x17 then putRes e (if typ = 2 then fltArith op (x 0) (x 1) else intArith op (x 0) (x 1)) c
  else if op = 0x18 then putOut e 0 (f32ofInt (x 0).toInt) c
  else if op = 0x19 then putRes e (f2i (x 0)) c
  else if op = 0x1A then putOut e 0 (if b 0 then x 2 else x 1) c
  else if op = 0x1B then putOut e 0 (parVal im q.pars 0 e (imWord im secSCH_ELEM e 2)) c
  else if 0x20 ≤ op ∧ op ≤ 0x22 then timerEl im q first e op (b 0) c
  else if op = 0x23 then counterEl im q first e (b 0) (b 1) (b 2) (b 3) c
  else if op = 0x24 ∨ op = 0x25 then edgeEl im first e op (b 0) c
  else if op = 0x26 ∨ op = 0x27 then latchEl im e op (b 0) (b 1) c
  else if op = 0x28 ∨ op = 0x29 then windowEl im first e op (x 0) c
  else c

/-! ## Outputs (R252, R526) -/

/-- The points of task `t`. -/
def taskPoints (im : Image) (t : Nat) : List Nat :=
  (List.range (imCount im secSCH_POINT)).filter (fun p => imFld im secSCH_POINT p 0 25 22 == t)

/-- The freeze flags are `w` from instant `ns` on. -/
def setFreeze (ns : Nat) (w : BitVec 32) (c : Sch) : Sch :=
  { c with freeze := w, frzLog := if w = c.freeze then c.frzLog else logPut (ns - 10000000000) (ns, w) c.frzLog }

/-- Point `p` of task `t` takes value `v` at the scan end. -/
def latchOut (t : Nat) (tr : Trig) (p : Nat) (v : Word) (s : State) : State :=
  let im := s.cfg.active
  let kind := imFld im secSCH_POINT p 0 31 29
  let num := imFld im secSCH_POINT p 1 11 0
  let on := v != 0#32
  let s := if fgetD s.sch.points p 0#32 == v then s else srcMoved 5 p (s.tb.tick + 16) s
  let s := { s with sch := { s.sch with points := fset s.sch.points p v } }
  if kind = 0 then latchDirect (fun x k => x == 5 && k == p) s
  else if kind = 1 then latchPoint p v s
  else if kind = 2 then
    let w := if on then s.sch.freeze ||| (1#32 <<< num) else s.sch.freeze &&& ~~~ (1#32 <<< num)
    { s with sch := setFreeze s.tb.now w s.sch }
  else if kind = 3 then
    let was := s.sch.trigs.getLsbD num
    let s := { s with sch := { s.sch with trigs := if on then s.sch.trigs ||| (1#64 <<< num) else s.sch.trigs &&& ~~~ (1#64 <<< num) } }
    if on && !was then capEvent 5 num (gridNs s tr.inst) s else s
  else if kind = 4 then
    let was := fgetD s.sch.emits p false
    let s := { s with sch := { s.sch with emits := fset s.sch.emits p on } }
    if on && !was then raise 0x0907 (taskObj s t) (leBytes 2 t ++ leBytes 2 num ++ leBytes 4 tr.seq) s else s
  else if kind = 5 then { s with sch := { s.sch with links := fset s.sch.links num v } }
  else s

/-- The output source entries of what leaves only with authority: GOOSE publications with CONTROL, alarm streams and direct DOs (R321). -/
def ctlSources (im : Image) : List Nat :=
  ((imValid im secGOOSE).filter (fun n => imBit im secGOOSE n 0 29)).flatMap
      (fun n => upFrom (imFld im secGOOSE n 1 12 0) (imFld im secGOOSE n 0 23 14)) ++
    ((imValid im secOUT_STREAM).filter (fun n => imFld im secOUT_STREAM n 0 30 28 == 2)).flatMap
      (fun n => upFrom (imFld im secOUT_STREAM n 2 31 19) (imFld im secOUT_STREAM n 2 18 10)) ++
    ((imValid im secDO).filter (fun n => imBit im secDO n 0 30)).map (fun n => imFld im secDO n 0 15 0)

/-- A scan of task `t` writes an output that leaves only with authority. -/
def taskControls (im : Image) (t : Nat) : Bool :=
  let es := ctlSources im
  (taskPoints im t).any (fun p => imFld im secSCH_POINT p 0 31 29 == 1 ||
    (imFld im secSCH_POINT p 0 31 29 == 0 && es.any (fun e => outSrc im e == (5, p))))

/-- The values of a task's points after its elements. -/
def pointVals (im : Image) (t : Nat) (outs : FMap Word) : List (Nat × Word) :=
  (taskPoints im t).map (fun p => (p, fgetD outs (imFld im secSCH_POINT p 0 15 0 * 4 + imFld im secSCH_POINT p 0 21 19) 0#32))

/-! ## The scan (R248, R253, R261, R267) -/

/-- The edge memories of element `e`, loaded with its inputs as a first scan finds them (R267). -/
def loadEdges (im : Image) (q : Snap) (c : ScanCtx) (e : Nat) : ScanCtx :=
  let op := elemF im e 0 31 26
  let x := fun (k : Nat) => readOpnd q c e ((elemOpnds im e).getD k 0#32) != 0#32
  let k := if op = 0x22 ∨ op = 0x23 then elemF im e 3 31 16 else elemF im e 0 15 0
  let m := fset c.sch.edges k (x 0)
  { c with sch := { c.sch with edges := if op = 0x23 then fset m (k + 1) (x 1) else m } }

/-- Error tasks in ascending station, then the main logic. In a first scan the edge memories of the error tasks that do not run are loaded
too. -/
def runElems (im : Image) (t : Nat) (q : Snap) (first : Bool) (c : ScanCtx) : ScanCtx :=
  let c := if first then (idleEdges im t q.errs).foldl (loadEdges im q) c else c
  ((q.errs.flatMap (errElems im)) ++ mainElems im t).foldl (elemStep im q first) c

/-- ARITH of a scan is counted and reported (R255). -/
def noteArith (t : Nat) (e : Option Nat) (s : State) : State :=
  match e with
  | some e => raiseLimited (0x0904 * 16 + t) 0x0904 (taskObj s t) (leBytes 2 t ++ leBytes 2 e) (schFlag 3 (taskCount t 3 s))
  | none => s

/-- The error tasks that ran are counted; a loss that is not newer than S no longer pends. -/
def errsDone (t : Nat) (q : Snap) (s : State) : State :=
  q.errs.foldl (fun s n =>
    let s := modStn n (fun r => if r.loss ≤ q.s then { r with errPend := false } else r) s
    if stnF s.cfg.active n 1 31 18 = 0 then s else taskCount t 2 s) s

/-- The scan of task `t` on snapshot `q` runs to its end. -/
def runScan (t : Nat) (q : Snap) (s : State) : State :=
  let im := s.cfg.active
  let r := taskOf s t
  let first := !r.firstDone
  let c := runElems im t q first { sch := s.sch, old := r.outs, outs := r.outs }
  let s := { s with sch := c.sch }
  let s := modTask t (fun k => { k with
    snap := none, firstDone := true, lastSeq := q.trig.seq, lastT := q.trig.t, outs := c.outs
    runMax := max k.runMax (tickSub s.tb.tick q.s * 1024), lastEnd := s.tb.tick }) s
  let s := count (SCH + 0x324) (taskCount t 0 s)
  let s := if first then
      raise 0x0906 (taskObj s t) (leBytes 2 t ++ leBytes 4 im.vintage) (taskCount t 6 s)
    else s
  let s := if q.subst then taskCount t 4 s else s
  let s := if authority s || !taskControls im t then s else taskCount t 7 s
  let s := noteArith t c.arith (errsDone t q s)
  (pointVals im t c.outs).foldl (fun s x => latchOut t q.trig x.1 x.2 s) s

/-- The complete snapshot that runs next: the earliest S, then the lowest task. -/
def nextScan (s : State) : Option (Nat × Snap) :=
  (List.range 16).foldl (fun acc t =>
    match (taskOf s t).snap with
    | some q => if q.waits.isEmpty then
        match acc with
        | some (_, p) => if q.s < p.s then some (t, q) else acc
        | none => some (t, q)
      else acc
    | none => acc) none

/-- SCAN_RUN (R248). -/
def execScanRun (s : State) : Out := act s fun s =>
  match nextScan s with
  | some (t, q) => runScan t q s
  | none => s

/-! ## Remote stations (R258 to R262) -/

/-- Dataset `d` is live at the latest tick boundary. -/
def dsLive (s : State) (d : Nat) : Bool :=
  match (dsOf s d).arr with
  | some a => decide (s.tb.tick ≤ a + (dsOf s d).tal)
  | none => false

/-- Station `n` is lost at the latest tick boundary. -/
def stnLose (n : Nat) (s : State) : State :=
  let ds := stnDss s.cfg.active n
  let cause := (ds.findIdx? (fun d => !dsLive s d)).getD 0
  let s := modStn n (fun r => { r with st := 2, errPend := true, cause := cause, loss := s.tb.tick }) s
  let s := ds.foldl (fun s d => modDs d (fun r => { r with since := false }) s) s
  raise 0x0901 (stnObj s n) (leBytes 2 n ++ leBytes 1 cause) (schFlag 0 (count (SCH + 0x318) s))

/-- Station `n` at a tick boundary: UNSEEN ends when every dataset has a message; LOST ends when every dataset has one since the loss
and is live. -/
def stnRise (n : Nat) (s : State) : State :=
  let r := stnOf s n
  let ds := stnDss s.cfg.active n
  if r.st = 0 ∧ ds.all (fun d => (dsOf s d).arr.isSome) then
    if ds.all (dsLive s) then modStn n (fun r => { r with st := 1 }) s else stnLose n s
  else if r.st = 2 ∧ ds.all (fun d => dsLive s d && (dsOf s d).since) then
    raise 0x0902 (stnObj s n) (leBytes 2 n) (schFlag 1 (count (SCH + 0x31C) (modStn n (fun r => { r with st := 1 }) s)))
  else s

/-- Every station at a tick boundary. -/
def stnTick (s : State) : State := (imValid s.cfg.active secSCH_STATION).foldl (fun s n => stnRise n s) s

/-- STATION_TAL_EXPIRY (R260): an OK station of which a dataset is no longer live at the latest tick boundary. -/
def execStationTalExpiry (n : Nat) (s : State) : Out := act s fun s =>
  if stnValid s.cfg.active n && (stnOf s n).st == 1 && (stnDss s.cfg.active n).any (fun d => !dsLive s d) then stnLose n s else s

/-- The policer of datasets at a tick boundary (R131, Table 9-6). -/
def dsPolicerTick (s : State) : State :=
  { s with sch := { s.sch with dss := s.sch.dss.map (fun (d, r) =>
      (d, { r with credit := min (dsF s.cfg.active d 0 26 24 * tps s) (r.credit + 1000) })) } }

/-- gocbRef of dataset `d`. -/
def dsRef (im : Image) (d : Nat) : List Byte :=
  (((imRec im secSCH_DATASET d).drop 10).take 16 |>.flatMap (fun w => beBytes 4 w.toNat)).take (dsF im d 6 6 0)

/-- The subscription that a message matches (Table 9-6, order 1). -/
def bindGoose (im : Image) (f : Frame) (m : GooseMsg) : Option Nat :=
  let vid := match f.vlan with
    | some tci => tci % 4096
    | none => 0
  (imValid im secSCH_DATASET).find? (fun d =>
    let r := imBit im secSCH_DATASET d 0 30
    let w := fun k => dsF im d k 31 0
    (match m.ip with
      | some (a, p) => r && ((w 1 * 2 ^ 32 + w 2) * 2 ^ 32 + w 3) * 2 ^ 32 + w 4 == a && dsF im d 6 31 16 == p
      | none => !r && w 1 * 65536 + dsF im d 2 31 16 == f.dst) &&
    dsF im d 0 15 0 == m.appid && dsF im d 5 27 16 == vid && decide (f.port < 13) && Nat.testBit (dsF im d 5 12 0) f.port &&
    dsRef im d == m.gocbRef)

/-- First SCH_DSENT record of dataset `d` (R380). -/
def dsEntBase (im : Image) (d : Nat) : Nat := sumN ((List.range d).map (fun k => dsF im k 8 13 4))

/-- DTYPE of the entries of dataset `d`. -/
def dsTypes (im : Image) (d : Nat) : List Nat :=
  (upFrom (dsEntBase im d) (dsF im d 8 13 4)).map (fun k => imFld im secSCH_DSENT k 0 3 0)

/-- The value of a dataset entry as a station input (R259). -/
def entVal (x : GooseEnt) : Word :=
  let n := x.val.toNat
  if x.dtype = 0 then bw (x.val != 0#32)
  else if x.dtype = 1 then BitVec.ofInt 32 (sint 8 n)
  else if x.dtype = 2 then BitVec.ofInt 32 (sint 16 n)
  else if x.dtype = 4 then BitVec.ofNat 32 (n % 2 ^ 8)
  else if x.dtype = 5 then BitVec.ofNat 32 (n % 2 ^ 16)
  else if x.dtype = 6 then BitVec.ofNat 32 (n % 4)
  else x.val

/-- Entries of an accepted message go to the station inputs from `k`; a quality entry applies to the value entry `prev` before it in the
message. -/
def putEnts (simOk : Bool) : List GooseEnt → Nat → Option Nat → FMap StnIn → FMap StnIn
  | [], _, _, m => m
  | x :: l, k, prev, m =>
    if x.dtype = 9 then putEnts simOk l k prev m
    else if x.dtype = 8 then
      let inv := fld x.val 1 0 == 1
      let tst := bit x.val 11 && !simOk
      putEnts simOk l k prev (match prev with
        | some p => fmod m p {} (fun r => { r with invalid := inv, test := tst })
        | none => m)
    else putEnts simOk l (k + 1) (some k) (fset m k { val := entVal x })

/-- Check 6 of Table 9-6: authentication, and the SPDU number of R-GOOSE. -/
def gooseAuth (d : Nat) (m : GooseMsg) (s : State) : State × Bool :=
  let im := s.cfg.active
  let newer := match m.ip, (dsOf s d).spdu with
    | some _, some l => decide (0 < sint 32 ((m.spdu - l).toNat))
    | _, _ => true
  if !imBit im secSCH_DATASET d 0 29 then (s, newer)
  else match m.auth with
    | none => (s, false)
    | some (id, bs, sig) =>
      let cur := dsF im d 8 31 23
      let nxt := dsF im d 8 22 14
      let k := if slotHoldsKey s cur id then some cur else if slotHoldsKey s nxt id then some nxt else none
      match k with
      | some k => let (s, ok) := macVerify k bs sig s; (s, ok && newer)
      | none => (s, false)

/-- The checks 2 to 8 on a message of dataset `d` (Table 9-6). -/
def gooseMsg (d arr : Nat) (m : GooseMsg) (s : State) : State :=
  let im := s.cfg.active
  let r := dsOf s d
  if r.credit < tps s then count (SCH + 0x304) s
  else
    let s := modDs d (fun r => { r with credit := r.credit - tps s }) s
    if m.confRev ≠ dsF im d 7 31 0 then
      raiseLimited (0x0908 * 1024 + d) 0x0908 (stnObj s (dsF im d 0 23 16)) (leBytes 2 d ++ leBytes 4 m.confRev)
        (schFlag 5 (count (SCH + 0x308) s))
    else if m.ndsCom ∨ m.numEnt ≠ dsF im d 8 13 4 ∨ m.ents.map (·.dtype) ≠ dsTypes im d then count (SCH + 0x304) s
    else if m.sim ∧ !imBit im secSCH_DATASET d 0 28 then count (SCH + 0x30C) s
    else
      let (s, ok) := gooseAuth d m s
      if !ok then count (SCH + 0x310) s
      else if r.arr.isSome ∧ m.stNum = r.lastSt ∧ sint 32 ((m.sqNum - r.lastSq).toNat) ≤ 0 then count (SCH + 0x314) s
      else
        let at_ := s.tb.tick + nsGrid s arr - s.tb.grid
        let s := modDs d (fun r => { r with
          lastSt := m.stNum, lastSq := m.sqNum, arr := some (if hasTime s then at_ else s.tb.tick)
          tal := ceilDiv (m.tal * tps s) 1000, spdu := if m.ip.isSome then some m.spdu else r.spdu, since := true }) s
        let ins := putEnts (imBit im secSCH_DATASET d 0 28) m.ents (dsF im d 9 31 19) none s.sch.ins
        count (SCH + 0x300) { s with sch := { s.sch with ins := ins } }

/-- GOOSE_MESSAGE_RX (R258). -/
def execGooseMessageRx (s : State) : Out := act s fun s =>
  match takeHanded .goose s with
  | none => s
  | some (h, s) => match h.frame.payload with
    | .goose m => match bindGoose s.cfg.active h.frame m with
      | some d => gooseMsg d h.frame.arrival m s
      | none => count (ING + 0x304) s
    | _ => s

/-! ## Starting and parameters (R264, R268) -/

/-- Task `t`, with its elements' states, its stations and its outputs, takes the state it has after power-up. -/
def taskReset (t : Nat) (s : State) : State :=
  let im := s.cfg.active
  let ns := taskStns im t
  let es := mainElems im t ++ ns.flatMap (errElems im)
  let isOp := fun (lo hi e : Nat) => decide (lo ≤ elemF im e 0 31 26 ∧ elemF im e 0 31 26 ≤ hi)
  let sts := fun (lo hi : Nat) => (es.filter (isOp lo hi)).map (fun e => elemF im e 0 15 0)
  let edges := sts 0x24 0x25 ++ (es.filter (isOp 0x22 0x23)).flatMap (fun e =>
    upFrom (elemF im e 3 31 16) (if elemF im e 0 31 26 = 0x22 then 1 else 2))
  let ds := ns.flatMap (stnDss im)
  let ins := ns.flatMap (fun n => upFrom (stnF im n 2 31 19) (stnF im n 2 18 9))
  let ps := taskPoints im t
  let nums := fun k => (ps.filter (fun p => imFld im secSCH_POINT p 0 31 29 == k)).map (fun p => imFld im secSCH_POINT p 1 11 0)
  let drop := fun {α : Type} (m : FMap α) (ks : List Nat) => m.filter (fun e => !ks.contains e.1)
  let c := setFreeze s.tb.now ((nums 2).foldl (fun m k => m &&& ~~~ (1#32 <<< k)) s.sch.freeze) s.sch
  { s with sch := { c with
      tasks := fset c.tasks t {}, tmrs := drop c.tmrs (sts 0x20 0x22), edges := drop c.edges edges
      cvs := drop c.cvs (sts 0x23 0x23), latches := drop c.latches es, wins := drop c.wins (sts 0x28 0x29)
      stns := drop c.stns ns, ins := drop c.ins ins, points := drop c.points ps, links := drop c.links (nums 5)
      emits := drop c.emits ps
      trigs := (nums 3).foldl (fun m k => m &&& ~~~ (1#64 <<< k)) c.trigs
      dss := ds.foldl (fun m d => fset m d { credit := dsF im d 0 26 24 * tps s }) c.dss } }

end Sys2Proof.Machine
end

