-- ==== Sys2Proof/Machine/Publish.lean ====
section
/-!
DEFINITION. Sys2Proof/Machine/Publish.lean: publication and outputs (chapter 12).
-/
namespace Sys2Proof.Machine

/-! ## The image -/

def osF (im : Image) (n w hi lo : Nat) : Nat := imFld im secOUT_STREAM n w hi lo
def osKind (im : Image) (n : Nat) : Nat := osF im n 0 30 28
def osGroup (im : Image) (n : Nat) : Nat := osF im n 0 21 16
def osValid (im : Image) (n : Nat) : Bool := imBit im secOUT_STREAM n 0 31
def osTcp (im : Image) (n : Nat) : Bool := imBit im secOUT_STREAM n 0 27
def osDst (im : Image) (n : Nat) : Nat := ((osF im n 5 31 0 * 2 ^ 32 + osF im n 6 31 0) * 2 ^ 32 + osF im n 7 31 0) * 2 ^ 32 + osF im n 8 31 0

/-- A control output (R321). -/
def osControl (im : Image) (n : Nat) : Bool := decide (2 ≤ osKind im n)

def gpF (im : Image) (n w hi lo : Nat) : Nat := imFld im secGOOSE n w hi lo
def gpControl (im : Image) (n : Nat) : Bool := imBit im secGOOSE n 0 29

def osOf (s : State) (n : Nat) : OutStream := fgetD s.pub.os n {}
def modOs (n : Nat) (f : OutStream → OutStream) (s : State) : State := { s with pub := { s.pub with os := fmod s.pub.os n {} f } }
def gpOf (s : State) (n : Nat) : Goose := fgetD s.pub.gps n {}
def modGp (n : Nat) (f : Goose → Goose) (s : State) : State := { s with pub := { s.pub with gps := fmod s.pub.gps n {} f } }
def pubFlag (b : Nat) (s : State) : State := setFlag s (PUB + 4) b

/-- A control frame that is due is not sent for want of authority (R321). -/
def withhold (s : State) : State := flagCount (PUB + 4) 0 (PUB + 0x308) s

/-- The groups of an output source. -/
def srcGroups (im : Image) (t x : Nat) : List Nat :=
  if t = 0 then (if cmpSrc im x < 6 then [cmpGroup im x] else islGroups im (cmpIcn im x))
  else if t = 1 then almGroups im x
  else if t = 2 then [voteGroup im x]
  else if t = 3 ∨ t = 4 then islGroups im (icnOfPair im x)
  else if t = 5 then [taskGroup im (imFld im secSCH_POINT x 0 25 22)]
  else if t = 7 then islGroups im (icnOfCgrp im x)
  else []

/-! ## Copies to hosts (R339) -/

/-- A frame that departed at `dep` is copied as a received frame to receive ring 0 of the partitions of `mask` that read `gs`. -/
def hostCopies (mask dep : Nat) (bs : List Byte) (gs : List Nat) (s : State) : State :=
  [0, 1, 2, 3].foldl (fun s n =>
    if Nat.testBit mask n && validFn s n && gs.all (readGroup s n) then
      rxEnqueue n { ring := 0, port := 0xFF, len := bs.length, ts := if hasTime s then some dep else none, vlan := none,
                    route := 0xFFFF, copy := true, born := s.tb.tick, bytes := bs } s
    else s) s

/-! ## Time fields (R54, R57) -/

/-- The UTC second of TAI second `sec`; a second before an applied leap second keeps the offset before it. -/
def utcOfTai (s : State) (sec : Nat) : Int :=
  match s.tb.leapPending, s.tb.leapAt with
  | false, some m => if (sec : Int) < m + s.tb.ofs then sec - (if s.tb.leapDir then s.tb.ofs + 1 else s.tb.ofs - 1) else sec - s.tb.ofs
  | _, _ => sec - s.tb.ofs

/-- The message time quality byte for TAI second `sec` (R54). -/
def tqByteTai (s : State) (sec : Nat) : Nat :=
  match s.tb.leapPending, s.tb.leapAt with
  | false, some m =>
    let l := if s.tb.leapDir then m + s.tb.ofs else m + s.tb.ofs - 1
    let soon := decide (l - 60 ≤ sec ∧ (sec : Int) < l)
    (if soon && s.tb.leapDir then 64 else 0) + (if m + s.tb.ofs ≤ sec ∧ (sec : Int) < m + s.tb.ofs + 86400 then 32 else 0) +
      (if soon then 16 else 0) + fld s.tb.tq 3 0
  | _, _ => timeQualByte s ((sec : Int) - s.tb.ofs)

/-- SOC, time quality and FRACSEC of the instant `ns` for TIME_BASE `base`. -/
def timeFields (s : State) (ns base : Nat) : List Byte :=
  let sec := ns / 1000000000
  beBytes 4 (uint 32 (utcOfTai s sec)) ++ beBytes 1 (tqByteTai s sec) ++ beBytes 3 (roundDiv (ns % 1000000000 * base) 1000000000)

/-- A C37.118.2 frame of type `t`: SYNC, FRAMESIZE, IDCODE, time, body, CHK (R125). -/
def c37Frame (s : State) (t id ns base : Nat) (body : List Byte) : List Byte :=
  let b := [0xAA#8, syncLow t] ++ beBytes 2 (16 + body.length) ++ beBytes 2 id ++ timeFields s ns base ++ body
  b ++ beBytes 2 (crcCcitt b).toNat

/-! ## Encodings (R327, R328, Table 12-4) -/

/-- `p / q` to the nearest integer, ties to even. -/
def rneI (p : Int) (q : Nat) : Int := if p < 0 then -(rne p.natAbs q : Int) else (rne p.natAbs q : Int)

/-- The 16-bit code of (x − ofs) / scale, saturated at ±32,767; what a NaN or a zero scale gives is free. -/
def encRatio (x ofs scale : Word) : Nat :=
  match toRat fmt32 x.toNat, toRat fmt32 ofs.toNat, toRat fmt32 scale.toNat with
  | some (p, q), some (a, b), some (r, t) =>
    if r = 0 then Config.encOpen x scale % 65536
    else
      let n := (p * b - a * q) * t * (if r < 0 then -1 else 1)
      uint 16 (clampI 32767 (rneI n (q * b * r.natAbs)))
  | _, _, _ =>
    if f32isNan x then Config.encOpen x scale % 65536
    else if f32lt x 0#32 == f32lt scale 0#32 then 0x7FFF else 0x8001

/-- The 16-bit code of (x − ofs) × k. -/
def encLinear (x : Word) (ofs k : Nat) : Nat :=
  match toRat fmt32 x.toNat with
  | some (p, q) => uint 16 (clampI 32767 (rneI ((p - ofs * q) * k) q))
  | none => if f32isNan x then Config.encOpen x (w32 k) % 65536 else if f32lt x 0#32 then 0x8001 else 0x7FFF

/-- The code of an angle in units of 10⁻⁴ rad, in (−31,416, 31,416]. -/
def encAngle (x : Word) : Nat :=
  let n := encLinear x 0 10000
  if n = uint 16 (-31416) then 31416 else n

def nanBE : List Byte := beBytes 4 (nanBits fmt32)
def absentInt : List Byte := beBytes 2 0x8000

/-- A phasor. -/
def encPhasor (fmt : Nat) (scale : Word) (v : ASlot) : List Byte :=
  let gone := decide (2 ≤ v.mark)
  let polar := Nat.testBit fmt 0
  if Nat.testBit fmt 1 then
    if gone then nanBE ++ nanBE
    else if polar then beBytes 4 (absF v.a v.b).toNat ++ beBytes 4 (argF v.a v.b).toNat
    else beBytes 4 v.a.toNat ++ beBytes 4 v.b.toNat
  else if gone then absentInt ++ absentInt
  else if polar then beBytes 2 (encRatio (absF v.a v.b) 0#32 scale) ++ beBytes 2 (encAngle (argF v.a v.b))
  else beBytes 2 (encRatio v.a 0#32 scale) ++ beBytes 2 (encRatio v.b 0#32 scale)

/-- FREQ and DFREQ. -/
def encFreq (f0 fmt : Nat) (f d : ASlot) : List Byte :=
  if Nat.testBit fmt 3 then
    (if 2 ≤ f.mark then nanBE else beBytes 4 f.a.toNat) ++ (if 2 ≤ d.mark then nanBE else beBytes 4 d.a.toNat)
  else
    (if 2 ≤ f.mark then absentInt else beBytes 2 (encLinear f.a f0 1000)) ++ (if 2 ≤ d.mark then absentInt else beBytes 2 (encLinear d.a 0 100))

/-- An analog. -/
def encAnalog (fmt : Nat) (scale ofs : Word) (v : ASlot) : List Byte :=
  if Nat.testBit fmt 2 then (if 2 ≤ v.mark then nanBE else beBytes 4 v.a.toNat)
  else if 2 ≤ v.mark then absentInt else beBytes 2 (encRatio v.a ofs scale)

/-- A digital word. -/
def encDigital (v : ASlot) : List Byte := if 2 ≤ v.mark then zeros 2 else beBytes 2 (fld v.a 15 0)

/-! ## Frames (R324 to R333) -/

/-- The members of output stream `n`, in block order. -/
def osBlocks (im : Image) (n : Nat) : List Nat :=
  (List.range (osF im n 1 31 25)).map (fun k => imFld im secOUT_BLOCK (osF im n 2 31 19 + k) 0 12 0)

/-- The instant's close lies in the 6 cyc after authority began or ended (R433). -/
def gapMark (s : State) (g inst : Nat) : Bool :=
  match s.pair.mark with
  | some t => s.cfg.active.paired && decide (t ≤ closeOf s g inst ∧ closeOf s g inst ≤ t + 6144)
  | none => false

/-- STAT bits 10 and 9 of the blocks of output stream `n` (R329, R433). -/
def osMarks (s : State) (n inst : Nat) : Nat :=
  (if (osOf s n).cfgPend then 2 ^ 10 else 0) ||| (if gapMark s (osGroup s.cfg.active n) inst then 2 ^ 9 else 0)

/-- The claim words (R325). -/
def claimWords (s : State) : List Byte := beBytes 4 (pubClaim s).toNat

/-- One PMU block of a data stream. -/
def dataBlock (s : State) (n inst : Nat) (x : ASet) (m : Nat) (first : Bool) : List Byte :=
  let im := s.cfg.active
  let fmt := osF im n 1 3 0
  let base := dir im m 2 31 16
  let np := dir im m 3 31 23
  let na := dir im m 3 22 16
  let nd := dir im m 3 15 10
  let b := (x.blocks.find? (fun b => b.strm == m)).getD { strm := m, stat := 2 * 2 ^ 14, smark := 1, claim := 0#32, heldAge := 0, slots := [] }
  let dark := dirTransport im m == 4 && !lphOk s
  let st := if dark then (b.stat % 2 ^ 13) + 2 ^ 14 + 2 ^ 13 else b.stat
  let v := fun k => if dark then ({} : ASlot) else b.slots.getD k {}
  let w := fun k j => imWord im secCHANNEL (base + k) j
  beBytes 2 (st ||| osMarks s n inst) ++
    (List.range np).flatMap (fun k => encPhasor fmt (w k 1) (v k)) ++ encFreq im.f0 fmt (v np) (v (np + 1)) ++
    (List.range na).flatMap (fun k => encAnalog fmt (w (np + 2 + k) 1) (w (np + 2 + k) 2) (v (np + 2 + k))) ++
    (List.range nd).flatMap (fun k => encDigital (v (np + 2 + na + k))) ++
    (if first && imBit im secOUT_STREAM n 0 25 then claimWords s else [])

/-- The body of a data frame. -/
def dataBody (s : State) (n inst : Nat) (x : ASet) : List Byte :=
  match osBlocks s.cfg.active n with
  | [] => []
  | m :: ms => dataBlock s n inst x m true ++ ms.flatMap (fun m => dataBlock s n inst x m false)

/-- 16-bit words that carry source bits, bit n mod 16 of word n / 16 (R332). -/
def bitWords (bits : List Bool) : List Byte :=
  (List.range (ceilDiv bits.length 16)).flatMap (fun k => beBytes 2 (bitmapLE ((bits.drop (16 * k)).take 16)))

/-- The body of an alarm frame (R332, Table 12-3). -/
def alarmBody (s : State) (n inst : Nat) (bits : List Bool) : List Byte :=
  let fmt := osF s.cfg.active n 1 3 0
  let on := bits.any id
  let st := b2n (fld s.tb.tq 5 4 == 3) * 2 ^ 13 + b2n on * 2 ^ 11 + fld s.tb.tq 8 4 * 16 + (if on then 7 else 0)
  beBytes 2 (st ||| osMarks s n inst) ++ encFreq 50 fmt {} {} ++ bitWords bits ++ claimWords s

/-- The source bits of a close alarm stream: votes and DI levels as at the seal, the others as decided since (R332). -/
def closeBits (s : State) (n : Nat) (held : List Bool) : List Bool :=
  let im := s.cfg.active
  (List.range (osF im n 2 18 10)).map (fun k =>
    let (t, x) := outSrc im (osF im n 2 31 19 + k)
    if t = 2 ∨ t = 6 then held.getD k false else srcVal s t x != 0#32)

/-- The dataset of an R-SV PDU: words, quality (0 good, 1 questionable and substituted, 2 invalid) and test of each channel. -/
def rsvBody (s : State) (n inst : Nat) (x : ASet) : List Byte :=
  let im := s.cfg.active
  let m := (osBlocks im n).headD 0
  let base := dir im m 2 31 16
  let b := (x.blocks.find? (fun b => b.strm == m)).getD { strm := m, stat := 0, smark := 1, claim := 0#32, heldAge := 0, slots := [] }
  let ns := gridNs s inst
  let one := fun (k : Nat) (v : ASlot) =>
    let q := if v.mark = 0 then 0 else if v.mark = 1 then 1 else 2
    (if chanKind im (base + k) = 1 then beBytes 4 (absF v.a v.b).toNat ++ beBytes 4 (argF v.a v.b).toNat else beBytes 4 v.a.toNat) ++
      beBytes 1 (q + 128 * b2n b.test)
  beBytes 4 (uint 32 (utcOfTai s (ns / 1000000000))) ++ beBytes 3 (roundDiv (ns % 1000000000 * 2 ^ 24) 1000000000) ++
    beBytes 4 (inst % tps s / max 1 (grpPeriod s (osGroup im n))) ++
    (b.slots.zip (List.range b.slots.length)).flatMap (fun (v, k) => one k v)

/-- The frame number of the next frame. -/
def nextFrameNo (s : State) : Nat × State := (s.pub.frameNo, { s with pub := { s.pub with frameNo := s.pub.frameNo + 1 } })

/-- Bytes of output stream `n` go to a connected client; a client whose send buffer cannot take them is skipped (R331). -/
def toClient (n no t : Nat) (bytes : List Byte) (due : Option Nat) (full : Bool) (c : TcpClient) (s : State) : State :=
  if full then flagCount (PUB + 4) 4 (PUB + 0x314) s
  else enqueueMask (connMask s.cfg.active c.eport) (.out n no t bytes) (ipLen c.addr (osF s.cfg.active n 3 27 16) bytes.length true) due s

/-- The clients of output stream `n` to which the frame for instant `inst` goes: those on, and turned on before it (Table 12-5). -/
def onClients (s : State) (n inst : Nat) : List TcpClient :=
  (osOf s n).clients.filter (fun c => c.on && decide (c.onAt < gridNs s inst))

/-- Output stream `n` sends a frame for instant `inst` (R330, R331). -/
def osSends (s : State) (n inst : Nat) : Bool :=
  if osTcp s.cfg.active n then !(onClients s n inst).isEmpty
  else (osOf s n).on && decide ((osOf s n).onAt < gridNs s inst)

/-- A data or alarm frame of output stream `n` is handed to its ports and connections (R331). -/
def sendOut (n inst due : Nat) (bytes : List Byte) (full : List (Nat × Nat)) (s : State) : State :=
  let im := s.cfg.active
  let (no, s) := nextFrameNo s
  if osTcp im n then (onClients s n inst).foldl (fun s c => toClient n no 0 bytes (some due) (full.contains (c.addr, c.port)) c s) s
  else enqueueMask (osF im n 3 12 0) (.out n no 0 bytes) (ipLen (osDst im n) (osF im n 3 27 16) bytes.length false) (some due) s

/-- An R-SV PDU: the SPDU number rises; with MAC_REQ it is signed, and a slot that fails sends nothing (R333, R465). -/
def sendRsv (n due : Nat) (body : List Byte) (s : State) : State :=
  let im := s.cfg.active
  let k := (osOf s n).spdu + 1#32
  let s := modOs n (fun r => { r with spdu := k }) s
  let key := osF im n 10 31 23
  let pdu := beBytes 4 k.toNat ++ beBytes 4 (cellOf s key).keyId ++ body
  let (s, sig) := if imBit im secOUT_STREAM n 10 13 then macSign key pdu s else (s, some [])
  match sig with
  | none => s
  | some g =>
    let (no, s) := nextFrameNo s
    let len := ipLen (osDst im n) (osF im n 3 27 16) (pdu.length + g.length) false
    enqueueMask (osF im n 3 12 0) (.outRsv n no k pdu g) len (some due) s

/-- The frame of output stream `n` that is due for an instant. -/
def assemble (d : FrameDue) (full : List (Nat × Nat)) (s : State) : State :=
  let im := s.cfg.active
  let n := d.os
  let g := osGroup im n
  let frame := fun body => c37Frame s 0 (osF im n 0 15 0) (gridNs s d.inst) (osF im n 4 23 0) body
  if osKind im n = 2 then sendOut n d.inst d.due (frame (alarmBody s n d.inst (closeBits s n d.held))) full s
  else if osKind im n = 3 then sendOut n d.inst d.due (frame (alarmBody s n d.inst [d.bit])) full s
  else match setOf s g d.inst with
    | none => s
    | some x => if osKind im n = 1 then sendRsv n d.due (rsvBody s n d.inst x) s else sendOut n d.inst d.due (frame (dataBody s n d.inst x)) full s

/-- A frame of the same group and instant on a lower output stream is still due (R324). -/
def lowerDue (s : State) (d : FrameDue) : Bool :=
  s.pub.due.any (fun e => decide (e.os < d.os) && e.inst == d.inst && osGroup s.cfg.active e.os == osGroup s.cfg.active d.os &&
    osKind s.cfg.active e.os != 3)

/-- OUTPUT_FRAME_ASSEMBLE (R324, R332): the oldest frame due of output stream `n`. A stream that is off builds none. -/
def execOutputFrameAssemble (n : Nat) (k : FrameCheck) (s : State) : Out := act s fun s =>
  let im := s.cfg.active
  match takeFirst (fun d => d.os == n) s.pub.due with
  | none => s
  | some (d, rest) =>
    if osKind im n != 3 && lowerDue s d then s
    else
      let s := { s with pub := { s.pub with due := rest } }
      if !osSends s n d.inst then s
      else if osControl im n && !authority s then withhold s
      else
        let g := osGroup im n
        let s := if osKind im n < 2 then readerCheck g d.inst k.setRes s else s
        let s := frameRebuild [g] k.frameRes s
        if 2 ≤ k.frameRes then s else assemble d k.full s

/-! ## Configuration frames (R329) -/

/-- A name in a 16-byte field. -/
def name16 (b : List Byte) : List Byte := (b ++ List.replicate 16 0x20#8).take 16

/-- The decimal digits of a number below 100. -/
def dec2 (n : Nat) : List Byte := [BitVec.ofNat 8 (48 + n / 10), BitVec.ofNat 8 (48 + n % 10)]

/-- round(SCALE × 10^5) in 24 bits. -/
def unit24 (scale : Word) : Nat :=
  match toRat fmt32 scale.toNat with
  | some (p, q) => uint 24 (rneI (p * 100000) q)
  | none => 0

/-- A name as CFG-2 carries it, or, behind its length, as CFG-3 does. -/
def cfgName (three : Bool) (b : List Byte) : List Byte := (if three then [16#8] else []) ++ name16 b

/-- The bit names of the claim words. -/
def claimNames (three : Bool) : List Byte :=
  (List.range 16).flatMap (fun k => cfgName three (ascii "CLAIM_H_" ++ dec2 k)) ++
  (List.range 16).flatMap (fun k => cfgName three (ascii "CLAIM_L_" ++ dec2 k))

/-- What follows the identifier of block `m` in CFG-3 only: G_PMU_ID; and what goes before FNOM. -/
def cfg3Id (three : Bool) (n m : Nat) : List Byte := if three then padTo 16 (Config.cfg3Open n m) else []
def cfg3Place (three : Bool) (n m : Nat) : List Byte := if three then padTo 21 ((Config.cfg3Open n m).drop 16) else []

/-- The unit of a phasor channel with words `w`: PHUNIT; or PHSCALE, of which bit 3 of the third byte says current and the angle adjustment is 0. -/
def cfgPhasor (three : Bool) (c : Nat) (w : Nat → Word) : List Byte :=
  let amp := fld (w 3) 31 24 = 2
  if three then
    let f := Config.cfg3Flags c % 2 ^ 32
    beBytes 4 (f - b2n (Nat.testBit f 11) * 2 ^ 11 + (if amp then 2 ^ 11 else 0)) ++ beBytes 4 (w 1).toNat ++ zeros 4
  else beBytes 4 ((if amp then 2 ^ 24 else 0) + unit24 (w 1))

/-- The unit of an analog channel: ANUNIT, or ANSCALE. -/
def cfgAnalog (three : Bool) (w : Nat → Word) : List Byte :=
  if three then beBytes 4 (w 1).toNat ++ beBytes 4 (w 2).toNat else beBytes 4 (unit24 (w 1))

/-- The block of one PMU in CFG-2, or `three` in CFG-3: name, identifier, format, counts, channel names, units. -/
def cfgBlock (three : Bool) (im : Image) (n m : Nat) (claim : Bool) (cnt : Nat) : List Byte :=
  let base := dir im m 2 31 16
  let np := dir im m 3 31 23
  let na := dir im m 3 22 16
  let nd := dir im m 3 15 10
  let w := fun k j => imWord im secCHANNEL (base + k) j
  let dig := fun k => (List.range 16).flatMap (fun b => cfgName three (slice (imName im 3 (base + np + 2 + na + k)) (16 * b) 16))
  cfgName three (imName im 1 m) ++ beBytes 2 (dir im m 0 15 0) ++ cfg3Id three n m ++ beBytes 2 (osF im n 1 3 0) ++ beBytes 2 np ++
    beBytes 2 na ++ beBytes 2 (nd + (if claim then 2 else 0)) ++
    (List.range np).flatMap (fun k => cfgName three (imName im 2 (base + k))) ++
    (List.range na).flatMap (fun k => cfgName three (imName im 2 (base + np + 2 + k))) ++
    (List.range nd).flatMap dig ++ (if claim then claimNames three else []) ++
    (List.range np).flatMap (fun k => cfgPhasor three (base + k) (w k)) ++
    (List.range na).flatMap (fun k => cfgAnalog three (w (np + 2 + k))) ++
    (List.range nd).flatMap (fun k => zeros 2 ++ beBytes 2 (fld (w (np + 2 + na + k) 3) 15 0)) ++
    (if claim then (zeros 2 ++ beBytes 2 0xFFFF) ++ (zeros 2 ++ beBytes 2 0xFFFF) else []) ++
    cfg3Place three n m ++ beBytes 2 (if im.f0 = 50 then 1 else 0) ++ beBytes 2 cnt

/-- The block of an alarm stream: digital words of `words` and the claim words. -/
def cfgAlarmBlock (three : Bool) (im : Image) (n words cnt : Nat) : List Byte :=
  cfgName three [] ++ beBytes 2 (osF im n 0 15 0) ++ cfg3Id three n 0 ++ beBytes 2 (osF im n 1 3 0) ++ zeros 4 ++ beBytes 2 (words + 2) ++
    (List.range (16 * words)).flatMap (fun _ => cfgName three []) ++ claimNames three ++
    (List.range (words + 2)).flatMap (fun _ => zeros 2 ++ beBytes 2 0xFFFF) ++ cfg3Place three n 0 ++
    beBytes 2 (if im.f0 = 50 then 1 else 0) ++ beBytes 2 cnt

/-- The body of CFG-2, or `three` of CFG-3, of output stream `n` in vintage `im` with CFG_CNT `cnt`. CFG-3 begins with CONT_IDX, 0 for a frame
that is whole, and has the places that `cfg3Pmu` reads. PRESUMED (assumption 35). -/
def cfgBody (three : Bool) (im : Image) (n cnt : Nat) : List Byte :=
  let ms := osBlocks im n
  let blocks := if 2 ≤ osKind im n then cfgAlarmBlock three im n (if osKind im n = 3 then 1 else ceilDiv (osF im n 2 18 10) 16) cnt
    else (ms.zip (List.range ms.length)).flatMap (fun (m, k) => cfgBlock three im n m (k == 0 && imBit im secOUT_STREAM n 0 25) cnt)
  (if three then zeros 2 else []) ++ beBytes 4 (osF im n 4 23 0) ++ beBytes 2 (if 2 ≤ osKind im n then 1 else ms.length) ++ blocks ++
    beBytes 2 (groupRate im (osGroup im n) / max 1 (osF im n 2 7 0))

/-- The configuration frame of type `t` (2 CFG-1, 3 CFG-2, 5 CFG-3). -/
def cfgFrameBytes (s : State) (n t : Nat) : List Byte :=
  let im := s.cfg.active
  c37Frame s t (osF im n 0 15 0) s.tb.now (osF im n 4 23 0) (cfgBody (t == 5) im n (osOf s n).cfgCnt)

/-- An activation of image `b` over `a` changes CFG-2 of output stream `n`. -/
def cfgChanges (a b : Image) (n : Nat) : Bool :=
  osValid a n && osValid b n && (cfgBody false a n 0 != cfgBody false b n 0 || osF a n 0 15 0 != osF b n 0 15 0)

/-- CFG_PEND_START (R329): from 60 s before the scheduled activation, or from its scheduling if that is later. -/
def execCfgPendStart (n : Nat) (s : State) : Out := act s fun s =>
  match s.cfg.sched, s.cfg.staged with
  | some t, some im =>
    if hasTime s && decide (t * 1000000000 ≤ s.tb.now + 60000000000) && !(osOf s n).cfgPend && cfgChanges s.cfg.active im n then
      raise 0x0C05 .all (leBytes 2 n ++ leBytes 8 t) (modOs n (fun r => { r with cfgPend := true }) s)
    else s
  | _, _ => s

/-! ## Commands to output streams (R330, Table 12-5) -/

/-- What becomes of a command frame bound to stream `n`: its command, or 0 when it is ignored. -/
def cmdVerdict (s : State) (n : Nat) (h : IpHdr) (bs : List Byte) : Nat :=
  let im := s.cfg.active
  let r := osOf s n
  let sz := beAt bs 2 2
  let cmd := beAt bs 14 2
  let known := if osTcp im n then r.clients.any (fun c => c.addr == h.src && c.port == h.sport)
    else imBit im secOUT_STREAM n 0 24 || h.src == osDst im n
  let used := if r.cmdSec = limitSec s then r.cmdN else 0
  if sz < 18 ∨ fld (imgReg im (ING + 0xC)) 15 0 < sz ∨ !known ∨ 4 ≤ used ∨ cmd = 0 ∨ 6 < cmd then 0 else cmd

/-- The oldest command frame that waits, if its verdict satisfies `p`. -/
def takeCmd (p : Nat → Bool) (s : State) : Option (Nat × IpHdr × List Byte × State) :=
  match takeHanded .outCmd s with
  | some (h, s) => match h.frame.payload with
    | .ip ip bs _ => if p (cmdVerdict s h.obj ip bs) then some (h.obj, ip, bs, count (PUB + 0x30C) s) else none
    | _ => none
  | none => none

/-- A command that is handled takes one of the 4 per second. -/
def cmdUsed (n : Nat) (s : State) : State :=
  modOs n (fun r => { r with cmdSec := limitSec s, cmdN := (if r.cmdSec = limitSec s then r.cmdN else 0) + 1 }) s

/-- The stream, or the client that sent the command, is turned on or off. One that was off sends from the next instant, the first one after the
command is handled. DEDUCED (assumption 216). -/
def setOn (n : Nat) (h : IpHdr) (b : Bool) (s : State) : State :=
  let from_ := fun (on : Bool) (t : Nat) => if b && !on then s.tb.now else t
  if osTcp s.cfg.active n then modOs n (fun r => { r with
    clients := r.clients.map (fun c => if c.addr == h.src && c.port == h.sport then { c with on := b, onAt := from_ c.on c.onAt } else c) }) s
  else modOs n (fun r => { r with on := b, onAt := from_ r.on r.onAt }) s

/-- A frame in answer to a command; `full`: the send buffer of its client cannot take it. -/
def answerCmd (n : Nat) (h : IpHdr) (t : Nat) (bytes : List Byte) (full : Bool) (s : State) : State :=
  let im := s.cfg.active
  let (no, s) := nextFrameNo s
  if osTcp im n then
    match (osOf s n).clients.find? (fun c => c.addr == h.src && c.port == h.sport) with
    | some c => toClient n no t bytes none full c s
    | none => s
  else enqueueMask (osF im n 3 12 0) (.out n no t bytes) (ipLen (osDst im n) (osF im n 3 27 16) bytes.length false) none s

def execCmdTurnOff (s : State) : Out := act s fun s =>
  match takeCmd (· == 1) s with
  | some (n, h, _, s) => setOn n h false (cmdUsed n s)
  | none => s

def execCmdTurnOn (s : State) : Out := act s fun s =>
  match takeCmd (· == 2) s with
  | some (n, h, _, s) => setOn n h true (cmdUsed n s)
  | none => s

def execCmdSendHeader (s : State) (full : Bool := false) : Out := act s fun s =>
  match takeCmd (· == 3) s with
  | some (n, h, _, s) =>
    answerCmd n h 1 (c37Frame s 1 (osF s.cfg.active n 0 15 0) s.tb.now (osF s.cfg.active n 4 23 0) (imName s.cfg.active 4 n)) full (cmdUsed n s)
  | none => s

def execCmdSendCfg1 (s : State) (full : Bool := false) : Out := act s fun s =>
  match takeCmd (· == 4) s with
  | some (n, h, _, s) => answerCmd n h 2 (cfgFrameBytes s n 2) full (cmdUsed n s)
  | none => s

def execCmdSendCfg2 (s : State) (full : Bool := false) : Out := act s fun s =>
  match takeCmd (· == 5) s with
  | some (n, h, _, s) => answerCmd n h 3 (cfgFrameBytes s n 3) full (cmdUsed n s)
  | none => s

def execCmdSendCfg3 (s : State) (full : Bool := false) : Out := act s fun s =>
  match takeCmd (· == 6) s with
  | some (n, h, _, s) => answerCmd n h 5 (cfgFrameBytes s n 5) full (cmdUsed n s)
  | none => s

/-- CMD_BAD (Table 12-5): ignored, counted, reported. -/
def execCmdBad (s : State) : Out := act s fun s =>
  match takeCmd (· == 0) s with
  | some (n, _, bs, s) =>
    raiseLimited (0x0C03 * 256 + n) 0x0C03 .all (leBytes 2 n ++ leBytes 2 (beAt bs 14 2)) (flagCount (PUB + 4) 5 (PUB + 0x310) s)
  | none => s

/-! ## TCP clients (R331) -/

def tcpEvent (n : Nat) (s : State) : State := raise 0x0C06 .all (leBytes 2 n ++ leBytes 2 (osOf s n).clients.length) s

/-- The clients of output stream `n` that `p` names lose their connections, one after the other. -/
def dropClients (n : Nat) (p : TcpClient → Bool) (s : State) : State :=
  ((osOf s n).clients.filter p).foldl (fun s c => tcpEvent n (modOs n (fun r => { r with clients := r.clients.erase c }) s)) s

/-- PUB_TCP_CONNECT: up to 4 clients; each starts off. -/
def execPubTcpConnect (n addr port eport : Nat) (s : State) : Out := act s fun s =>
  let r := osOf s n
  if osValid s.cfg.active n && osTcp s.cfg.active n && decide (r.clients.length < 4) &&
      !r.clients.any (fun c => c.addr == addr && c.port == port) then
    tcpEvent n (modOs n (fun r => { r with clients := r.clients ++ [{ addr := addr, port := port, eport := eport }] }) s)
  else s

def execPubTcpDisconnect (n addr port : Nat) (s : State) : Out := act s fun s => dropClients n (fun c => c.addr == addr && c.port == port) s

/-! ## GOOSE (R334 to R336) -/

/-- The member values of publication `n` now. -/
def gpVals (s : State) (n : Nat) : List Word :=
  let im := s.cfg.active
  (List.range (gpF im n 0 23 14)).map (fun k => let (t, x) := outSrc im (gpF im n 1 12 0 + k); srcVal s t x)

/-- The groups of the sources of publication `n`. -/
def gpGroups (im : Image) (n : Nat) : List Nat :=
  ((List.range (gpF im n 0 23 14)).flatMap (fun k => let (t, x) := outSrc im (gpF im n 1 12 0 + k); srcGroups im t x)).eraseDups

/-- timeAllowedtoLive for a gap in tk, ms. -/
def gooseTal (s : State) (gap : Nat) : Nat := ceilDiv (2 * gap * 1000) (tps s)

/-- Type of an output source: 0 BOOLEAN, 1 INT32, 2 FLOAT32 (Tables 12-1 and 9-3). -/
def srcKind (im : Image) (t x : Nat) : Nat := if t = 5 then imFld im secSCH_POINT x 0 28 27 else if t = 7 then 1 else 0

/-- The bytes of a message up to its signature: an IEC 61850 encoding whose layout the spec does not give (assumption 131). -/
def gooseBytes (no : Nat) (m : GooseTx) : List Byte :=
  Config.gooseBytes ([no, m.gp, m.tal, m.confRev, b2n m.test, m.entries, b2n m.ndsCom, b2n m.simulation, m.appid, m.udp.getD 0] ++ m.kinds)
    m.names ([m.stNum, m.sqNum, m.claim, m.spdu, m.keyId] ++ m.vals)

/-- The message that publication `n` sends for its present state (R334). -/
def gooseOut (s : State) (n : Nat) : GooseTx :=
  let im := s.cfg.active
  let r := gpOf s n
  let rg := imBit im secGOOSE n 0 30
  let srcs := (List.range (gpF im n 0 23 14)).map (fun k => outSrc im (gpF im n 1 12 0 + k))
  { gp := n, stNum := r.stnum, sqNum := r.sqnum, tal := gooseTal s r.gap, confRev := gpF im n 8 31 0, test := imBit im secGOOSE n 0 27
    kinds := srcs.map (fun (t, x) => srcKind im t x), vals := r.vals, claim := pubClaim s, entries := gpF im n 0 23 14 + 1
    appid := gpF im n 1 31 16, names := [imName im 5 n, imName im 6 n, imName im 7 n]
    dst := ((gpF im n 2 31 0 * 2 ^ 32 + gpF im n 3 31 0) * 2 ^ 32 + gpF im n 4 31 0) * 2 ^ 32 + gpF im n 5 31 0
    vlan := gpF im n 6 27 16, vpri := gpF im n 0 26 24, udp := if rg then some 102 else none
    keyId := if imBit im secGOOSE n 0 28 then w32 (cellOf s (gpF im n 9 31 23)).keyId else 0#32
    spdu := if rg then r.spdu else 0#32 }

/-- Bytes on the wire of a message of `k` bytes; no message is longer than the largest that the compiler took (R334). -/
def gooseLen (im : Image) (m : GooseTx) (k : Nat) : Nat :=
  min (if m.udp.isSome then ipLen m.dst m.vlan k false else 18 + (if m.vlan = 0 then 0 else 4) + k) (Config.gooseMax im.vintage m.gp)

/-- Publication `n` sends its present state, which departs by tick `due`. `res` is what becomes of the frame when it is checked (R164). -/
def gooseSend (n res due : Nat) (s : State) : State :=
  let im := s.cfg.active
  let s := modGp n (fun r => { r with spdu := if imBit im secGOOSE n 0 30 then r.spdu + 1#32 else r.spdu }) s
  let m := gooseOut s n
  let bytes := gooseBytes s.pub.frameNo m
  let (s, sig) := if imBit im secGOOSE n 0 28 then macSign (gpF im n 9 31 23) bytes s else (s, some [])
  match sig with
  | none => s
  | some g =>
    let (no, s) := nextFrameNo s
    let s := frameRebuild (gpGroups im n) res s
    if 2 ≤ res then s
    else enqueueMask (gpF im n 6 12 0) (.goose no { m with sig := g }) (gooseLen im m (bytes.length + g.length)) (some due) s

/-- stNum and sqNum run from 0xFFFF_FFFF to 1. -/
def numNext (w : Word) : Word := if w = 0xFFFFFFFF#32 then 1#32 else w + 1#32

/-- A new state of publication `n`, which departs by tick `due`. -/
def gooseNew (n res due : Nat) (s : State) : State :=
  let im := s.cfg.active
  let tmin := gpF im n 7 31 16
  let s := modGp n (fun r => { r with
    active := true, stnum := numNext r.stnum, sqnum := 0#32, gap := tmin, next := s.tb.tick + tmin }) s
  let s := gooseSend n res due s
  if gpControl im n then raise 0x0C02 .all (leBytes 2 n ++ leBytes 4 (gpOf s n).stnum.toNat) (count (PUB + 0x318) s) else s

/-- The tick by which a new state departs that `vals` make: the earliest of the changed sources (R322). A state that only regained authority
makes departs within 16 tk, as a repeat does. DESIGN CHOICE (assumption 214). -/
def gooseDue (s : State) (n : Nat) (vals : List Word) : Nat :=
  let im := s.cfg.active
  let old := (gpOf s n).vals
  let moved := (List.range vals.length).filter (fun k => old[k]? != vals[k]?)
  ((moved.map (fun k =>
    let (t, x) := outSrc im (gpF im n 1 12 0 + k)
    fgetD s.pub.srcDue (t * 65536 + x) (s.tb.tick + 16))).min?).getD (s.tb.tick + 16)

/-- Publication `n` at a tick boundary: the values latched by it make a new state (R335). -/
def gooseTick (n res : Nat) (s : State) : State :=
  let vals := gpVals s n
  let due := gooseDue s n vals
  let chg := vals != (gpOf s n).vals
  let act := (gpOf s n).active
  let s := modGp n (fun r => { r with vals := vals }) s
  if gpControl s.cfg.active n && !authority s then
    let s := modGp n (fun r => { r with active := false }) s
    if chg then withhold s else s
  else if chg || !act then gooseNew n res due s else s

/-- Every publication at a tick boundary; `bad` are those whose frame is found corrupt, with the outcome. -/
def gooseTicks (bad : List (Nat × Nat)) (s : State) : State :=
  (imValid s.cfg.active secGOOSE).foldl (fun s n => gooseTick n (((bad.find? (fun e => e.1 == n)).map (·.2)).getD 0) s) s

/-- GOOSE_REPEAT (R335). -/
def execGooseRepeat (n : Nat) (s : State) (res : Nat := 0) : Out := act s fun s =>
  let im := s.cfg.active
  let r := gpOf s n
  if imBit im secGOOSE n 0 31 && r.active && decide (r.next ≤ s.tb.tick) && (!gpControl im n || authority s) then
    let tmax := gpF im n 7 15 0 * 1024
    let gap := if 2 * r.gap < tmax then 2 * r.gap else tmax
    gooseSend n res (s.tb.tick + 16) (modGp n (fun r => { r with sqnum := numNext r.sqnum, gap := gap, next := s.tb.tick + gap }) s)
  else s

/-! ## Hardwired outputs and authority (R336 to R338) -/

/-- DO_MIN_ON_EXPIRY (R337): a fall held back by MIN_ON takes place. -/
def execDoMinOnExpiry (n : Nat) (s : State) : Out := act s fun s =>
  let d := doOf s n
  if d.st == 1 && d.fallHeld && decide (d.lastRise + imFld s.cfg.active secDO n 1 31 16 ≤ s.tb.tick) then
    setLevel n false (modDo n (fun d => { d with fallHeld := false }) s)
  else s

/-- DO_HOLD_EXPIRY (R338). -/
def execDoHoldExpiry (n : Nat) (s : State) : Out := act s fun s =>
  if (doOf s n).st == 2 && decide ((doOf s n).holdEnd ≤ s.tb.tick) then releaseDo n s else s

/-- DOs decided at every tick boundary: DI levels, and TIMEOUT comparators, which no seal decides (R337, R235). -/
def doTick (s : State) : State := latchDirect (fun t k => t == 6 || (t == 0 && cmpPrim s.cfg.active k == 2)) s

/-- What a DO does when authority is lost (Table 12-8). -/
def doAuthLost (n : Nat) (s : State) : State :=
  if (doOf s n).st ≠ 1 then s
  else if imBit s.cfg.active secDO n 0 28 then releaseDo n s
  else modDo n (fun d => { d with st := 2, holdEnd := s.tb.tick + imFld s.cfg.active secDO n 1 15 0 * 1024 }) s

/-- A frame of a control output. -/
def controlBody (im : Image) : TxBody → Bool
  | .out n _ t _ => t == 0 && osControl im n
  | .goose _ m => gpControl im m.gp
  | _ => false

/-- The number of an output frame. -/
def bodyNo : TxBody → Option Nat
  | .out _ no _ _ => some no
  | .outRsv _ no _ _ _ => some no
  | .goose no _ => some no
  | _ => none

/-- Control frames not yet started when authority is lost are withheld (Table 12-9); one of which a copy departs or has departed is sent. -/
def withholdQueued (s : State) : State :=
  let im := s.cfg.active
  let nos := (s.eth.ports.flatMap (fun e => (e.2.txq.filter (fun t => controlBody im t.body)).filterMap (fun t => bodyNo t.body))).eraseDups
  let going := s.eth.ports.filterMap (fun e => e.2.cur.bind (fun t => bodyNo t.body))
  let s := (nos.filter (fun k => !s.pub.counted.contains k && !going.contains k)).foldl (fun s _ => withhold s) s
  { s with eth := { s.eth with ports := s.eth.ports.map (fun e => (e.1, { e.2 with txq := e.2.txq.filter (fun t => !controlBody im t.body) })) } }

/-- PUB_EV_AUTH, and the flag of the change (R341, Table 12-12). -/
def authEvent (on : Bool) (s : State) : State :=
  raise 0x0C01 .all (leBytes 1 (b2n on) ++ leBytes 4 (pubClaim s).toNat) (pubFlag (if on then 1 else 2) s)

/-- Output authority is lost. -/
def authLost (s : State) : State :=
  authEvent false (withholdQueued ((List.range 16).foldl (fun s n => doAuthLost n s) s))

/-- What an output frame carries behind its headers. -/
def bodyBytes : TxBody → List Byte
  | .out _ _ _ bs => bs
  | .outRsv _ _ _ pdu sig => pdu ++ sig
  | .goose no m => gooseBytes no m ++ m.sig
  | _ => []

/-- The bytes of an output frame from the destination address to the FCS. The spec gives no address of its receiver, so the headers are free
(assumption 42). -/
def outFrame (t : TxFrame) : List Byte :=
  let n := (if t.rct.isSome then max 64 (t.len - 6) else t.len) - 4
  let p := bodyBytes t.body
  let f := padTo n (padTo (n - p.length) (Config.outHead t.id) ++ p)
  f ++ leBytes 4 (crc32 f).toNat

/-- The hosts to which an output frame is copied, and the groups that they must read (R339). -/
def copyTo (im : Image) : TxBody → Nat × List Nat
  | .out n _ _ _ => (osF im n 3 31 28, [osGroup im n])
  | .outRsv n _ _ _ _ => (osF im n 3 31 28, [osGroup im n])
  | .goose _ m => (gpF im m.gp 6 31 28, gpGroups im m.gp)
  | _ => (0, [])

/-- The first copy of an output frame departs, at `dep`: FRAMES_TX or GOOSE_TX counts it once (Table 12-13), and hosts receive it (R339). -/
def frameDeparted (t : TxFrame) (dep : Nat) (s : State) : State :=
  match bodyNo t.body with
  | none => s
  | some no =>
    if s.pub.counted.contains no then s
    else
      let s := { s with pub := { s.pub with counted := (no :: s.pub.counted).take 65536 } }
      let c := copyTo s.cfg.active t.body
      let s := hostCopies c.1 dep (outFrame t) c.2 s
      match t.body with
      | .goose _ _ => count (PUB + 0x304) s
      | _ => count (PUB + 0x300) s

/-! ## Starting -/

/-- Output stream `n` starts: UDP streams are on unless START_OFF; CFG_CNT stays, connections end. -/
def osStart (n : Nat) (s : State) : State :=
  let im := s.cfg.active
  let s := dropClients n (fun _ => true) s
  modOs n (fun r => { cfgCnt := r.cfgCnt, on := !osTcp im n && !imBit im secOUT_STREAM n 0 26, spdu := r.spdu }) s

end Sys2Proof.Machine
end

