-- ==== Sys2Proof/Machine/Capture.lean ====
section
/-!
DEFINITION. Sys2Proof/Machine/Capture.lean: disturbance capture (chapter 10).
-/
namespace Sys2Proof.Machine

/-! ## Recorders (R271) -/

def recF (im : Image) (r w hi lo : Nat) : Nat := imFld im secCAP_REC r w hi lo
def recValid (im : Image) (r : Nat) : Bool := imBit im secCAP_REC r 0 31
def recWave (im : Image) (r : Nat) : Bool := imBit im secCAP_REC r 0 30
def recSet (im : Image) (r : Nat) : Bool := imBit im secCAP_REC r 0 28
def recMask (im : Image) (r : Nat) : Nat := recF im r 0 27 24
def recGroup (im : Image) (r : Nat) : Nat := recF im r 0 21 16
def recNch (im : Image) (r : Nat) : Nat := recF im r 1 15 0
def recPre (im : Image) (r : Nat) : Nat := recF im r 2 31 12
def recPost (im : Image) (r : Nat) : Nat := recF im r 3 31 12

/-- The channels, or the slots, that recorder `r` lists. -/
def recChans (im : Image) (r : Nat) : List Nat :=
  (List.range (recNch im r)).map (fun i =>
    let x := imFld im secCAP_CHAN (recF im r 1 31 16 + i) 0 15 0
    if recWave im r then x % 256 else x)

/-- The conditions in use of recorder `r` (R275). -/
def recConds (im : Image) (r : Nat) : List Nat :=
  (List.range (recF im r 0 15 8)).filter (fun c => imBit im secCAP_COND (32 * r + c) 0 31)
def condF (im : Image) (r c w hi lo : Nat) : Nat := imFld im secCAP_COND (32 * r + c) w hi lo
def condEvent (im : Image) (r c : Nat) : Bool := imBit im secCAP_COND (32 * r + c) 0 30
def condPrim (im : Image) (r c : Nat) : Nat := condF im r c 0 29 27

/-- Samples per second: F or fs. -/
def recRate (im : Image) (r : Nat) : Nat :=
  if recWave im r then slotFs im ((recChans im r).getD 0 0) else groupRate im (recGroup im r)

/-- The subscriptions of the slots that a waveform recorder uses. -/
def recSubs (im : Image) (r : Nat) : List Nat := ((recChans im r).map (· / 8)).eraseDups

def capRecOf (s : State) (r : Nat) : CapRec := fgetD s.cap.recs r {}
def modCapRec (r : Nat) (f : CapRec → CapRec) (s : State) : State :=
  { s with cap := { s.cap with recs := fmod s.cap.recs r {} f } }
def capObj (s : State) (r : Nat) : EvObj := .mask (recMask s.cfg.active r)
def capCount (r k : Nat) (s : State) : State := countW (CAP + 0x240 + 4 * k) r (capObj s r) s
def capFlag (b : Nat) (s : State) : State := setFlag s (CAP + 4) b

/-- The instant of sample `k` in ns. -/
def sampNs (s : State) (r k : Nat) : Nat :=
  if recWave s.cfg.active r then roundDiv (k * 1000000000) (recRate s.cfg.active r)
  else gridNs s (k * period s (recRate s.cfg.active r))

/-- The instant of sample `k` in units of 1/(10⁹ · 1,024 · f0) s. -/
def sampExact (s : State) (r k : Nat) : Nat :=
  let f := recRate s.cfg.active r
  if recWave s.cfg.active r then k * 1000000000 * tps s / f else k * period s f * 1000000000

/-- The latest sample whose instant is at or before `ns` (R277). -/
def sampAt (s : State) (r ns : Nat) : Nat :=
  let k := ns * recRate s.cfg.active r / 1000000000
  if sampNs s r (k + 1) ≤ ns then k + 1 else k

/-! ## Leap seconds in takes -/

/-- The latest leap second: deletion, and the TAI second that was inserted, or before which one was deleted. -/
def leapTai (s : State) : Option (Bool × Int) :=
  if s.tb.leapPending then (if s.tb.leapDir then none else some (false, leapMidnight s + s.tb.ofs))
  else s.tb.leapAt.map (fun m => (s.tb.leapDir, if s.tb.leapDir then m + s.tb.ofs else m + s.tb.ofs - 1))

/-- The sample lies in 23:59:60. -/
def inLeap (s : State) (ns : Nat) : Bool :=
  match leapTai s with
  | some (false, t) => ((ns / 1000000000 : Nat) : Int) == t
  | _ => false

/-- The LEAP byte of a take whose samples lie from `a` to `b` ns. -/
def takeLeap (s : State) (a b : Nat) : Nat :=
  let a : Int := (a / 1000000000 : Nat)
  let b : Int := (b / 1000000000 : Nat)
  match leapTai s with
  | some (false, t) => if a ≤ t ∧ t ≤ b then 1 else 0
  | some (true, t) => if a < t ∧ t ≤ b then 2 else 0
  | none => 0

/-! ## Take bytes (R283) -/

/-- Bytes of a sample block of `n` channels. -/
def sblk (n : Nat) : Nat := ceilDiv (8 + 8 * n + 4 * ceilDiv n 16) 8 * 8

/-- REC_LEN of a take of `samples` samples. -/
def takeLen (n samples : Nat) : Nat := 128 + 16 * n + samples * sblk n + 8

/-- A channel descriptor (Table 10-6). -/
def chanDesc (im : Image) (r x : Nat) : List Byte :=
  if recWave im r then
    let cur := slotF im x 0 30 29 == 0
    zeros 8 ++ leBytes 1 (if cur then 0x10 else 0x11) ++ leBytes 1 x ++ leBytes 1 (if cur then 2 else 1) ++ zeros 1 ++
      leBytes 4 (imWord im secSV_SLOT x 1).toNat
  else
    leBytes 8 (pointKey im x) ++ leBytes 1 (chanKind im x) ++ zeros 1 ++ leBytes 1 (chan im x 3 31 24) ++ zeros 1 ++
      leBytes 4 0x3F800000

/-- The MARKS field: two bits for each channel. -/
def marks2 : List Nat → Nat
  | [] => 0
  | m :: l => m % 4 + 4 * marks2 l

/-- A sample block (Table 10-7). -/
def sampBytes (s : State) (r trig : Nat) (x : CapSamp) : List Byte :=
  let fl := b2n (x.k == trig) * 2 ^ 15 + b2n (inLeap s (sampNs s r x.k)) * 2 ^ 14
  padTo (sblk x.vals.length) (leBytes 4 (uint 32 ((x.k : Int) - trig)) ++ leBytes 2 fl ++ zeros 2 ++
    x.vals.flatMap (fun v => valBytes v.1 v.2) ++ leBytes (4 * ceilDiv x.marks.length 16) (marks2 x.marks))

/-- The lowest condition in a cause mask. -/
def lowestBit (m : Nat) : Nat := ((List.range 32).find? (fun i => Nat.testBit m i)).getD 0

/-- The header of a take (Table 10-5). -/
def takeHeader (s : State) (t : CapTake) : List Byte :=
  let im := s.cfg.active
  let r := t.rcd
  let n := recNch im r
  let first := sampNs s r (t.trig - t.pre)
  let fl := b2n t.truncated * 2 ^ 15 + b2n (decide (t.pre < t.preCfg)) * 2 ^ 14 + b2n t.moved * 2 ^ 13 + b2n t.xtSent * 2 ^ 12
  let xt := imgReg im (CAP + 0x10)
  let h := leBytes 2 0x0A01 ++ leBytes 2 fl ++ leBytes 4 (takeLen n (t.pre + 1 + t.post)) ++ leBytes 4 t.no ++ leBytes 1 r ++
    leBytes 1 (b2n (recWave im r)) ++ leBytes 1 (lowestBit t.cause) ++ zeros 1 ++ leBytes 4 t.cause ++ leBytes 4 t.armId ++
    tsLE (sampNs s r t.trig) ++ tsLE first ++ leBytes 4 t.pre ++ leBytes 4 t.preCfg ++ leBytes 4 t.post ++ leBytes 4 t.postCfg ++
    leBytes 4 (recRate im r) ++ leBytes 2 n ++ leBytes 2 (if bit xt 31 then fld xt 21 16 else 0xFFFF) ++
    leBytes 4 (if recSet im r then (imgReg im (CAP + 0x14)).toNat else 0) ++ leBytes 4 t.vintage ++ leBytes 2 t.tq ++
    leBytes 1 (if recWave im r then 0xFF else recGroup im r) ++ leBytes 1 (takeLeap s first (sampNs s r (t.trig + t.post))) ++
    leBytes 4 (sblk n) ++ zeros 36
  h ++ leBytes 4 (crc32 h).toNat

/-- All bytes of a take. -/
def takeBytes (s : State) (t : CapTake) : List Byte :=
  let b := takeHeader s t ++ (recChans s.cfg.active t.rcd).flatMap (chanDesc s.cfg.active t.rcd) ++
    t.samps.reverse.flatMap (sampBytes s t.rcd t.trig) ++ zeros 4
  b ++ leBytes 4 (crc32 b).toNat

/-! ## The reel (R272, R282) -/

def blocksFor (len : Nat) : Nat := ceilDiv len 1048576
def blocksUsed (s : State) : Nat := sumN (s.cap.takes.map (·.2.blocks))
def freeSlot (s : State) : Option Nat := (List.range 1024).find? (fun k => (fget? s.cap.takes k).isNone)

/-- A TAKE_READ command is reading take slot `k`. -/
def takeReading (s : State) (k : Nat) : Bool :=
  s.hp.any (fun f => match f.cur with
    | some c => c.op == 0x20 && leAt c.raw 4 2 == k
    | none => false)

/-- A take of `blocks` blocks fits. -/
def takeFits (s : State) (blocks : Nat) : Bool := (freeSlot s).isSome && decide (blocksUsed s + blocks ≤ 4096)

/-- The closed take with the lowest TAKE_NO that no host reads. -/
def oldestTake (s : State) : Option (Nat × CapTake) :=
  (s.cap.takes.filter (fun e => e.2.closed && !takeReading s e.1)).foldl (fun acc e => match acc with
    | none => some e
    | some a => if e.2.no < a.2.no then some e else some a) none

/-- A take is overwritten. -/
def overwrite (k : Nat) (t : CapTake) (s : State) : State :=
  raise 0x0A04 (capObj s t.rcd) (leBytes 4 t.no) (capFlag 3 (capCount t.rcd 4
    { s with cap := { s.cap with takes := fdel s.cap.takes k } }))

/-- Room for a take of `blocks` blocks is made under POLICY 1; at most `n` takes go. -/
def makeRoom : Nat → Nat → State → State
  | 0, _, s => s
  | n + 1, blocks, s =>
    if takeFits s blocks then s
    else match oldestTake s with
      | some (k, t) => makeRoom n blocks (overwrite k t s)
      | none => s

/-! ## Slates (R280, R284) -/

/-- The bits of SFLAGS that a slate made of a cause carries, besides MOVED. -/
def slREARM : Nat := 2 ^ 15
def slEARLIER : Nat := 2 ^ 14
def slFULL : Nat := 2 ^ 13
def slSAME : Nat := 2 ^ 12
def slMOVED : Nat := 2 ^ 11

/-- One slate: sample, flags, cause mask. -/
structure SlateDue where
  k : Nat
  flags : Nat
  mask : Nat
  deriving DecidableEq, Repr

/-- The slate record (Table 10-8). -/
def slateBytes (s : State) (r no : Nat) (d : SlateDue) : List Byte :=
  let b := leBytes 2 0x0A02 ++ leBytes 2 d.flags ++ leBytes 1 r ++ leBytes 1 (lowestBit d.mask) ++ zeros 2 ++ leBytes 4 d.mask ++
    tsLE (sampNs s r d.k) ++ leBytes 4 no
  b ++ leBytes 4 (crc32 b).toNat

/-- A slate is made. -/
def makeSlate (r : Nat) (s : State) (d : SlateDue) : State :=
  let no := s.cap.slateNo
  let raw := slateBytes s r no d
  let s := { s with cap := { s.cap with slateNo := no + 1, slates := fset s.cap.slates ((no - 1) % 4096) { rcd := r, raw := raw } } }
  let s := capFlag 1 (capCount r 1 s)
  let s := if Nat.testBit d.flags 13 then flagCount (CAP + 4) 2 (CAP + 0x318) s else s
  let s := raiseLimited (0x0A02 * 64 + r) 0x0A02 (capObj s r) (leBytes 2 r ++ leBytes 4 no) s
  harvest (fun p => Nat.testBit (recMask s.cfg.active r) p && hrvClass s p 2) 0x0A02 none raw (some (CAP + 0x314, 0xFFFF)) s

/-- A cause joins the slate of its sample; a slate carries what any of its causes gives it. A slate leaves with the causes processed together: a
cause processed later for the same sample makes another. DESIGN CHOICE (assumption 217). -/
def addSlate (k flags c : Nat) : List SlateDue → List SlateDue
  | [] => [{ k := k, flags := flags, mask := 2 ^ c }]
  | d :: l => if d.k = k then { d with flags := d.flags ||| flags, mask := d.mask ||| 2 ^ c } :: l else d :: addSlate k flags c l

/-! ## The capture set (R285, R286) -/

def xtCfg (s : State) : Word := imgReg s.cfg.active (CAP + 0x10)
def xtOn (s : State) : Bool := bit (xtCfg s) 31
def xtMaster (s : State) : Bool := xtOn s && fld (xtCfg s) 29 24 == fld (xtCfg s) 21 16
def xtSpan (s : State) : Nat := fld (imgReg s.cfg.active (CAP + 0x18)) 15 0
def xtKey (s : State) : Nat := fld (imgReg s.cfg.active (CAP + 0x18)) 31 23

/-- A cross-trigger message is sent (Table 10-9). With AUTH the MAC is made in the vault, and a slot that fails sends nothing (R465). The
second component says whether it was sent. -/
def xtSend (typ ns cause rcd span : Nat) (s : State) : State × Bool :=
  let x := xtCfg s
  let b := beBytes 2 typ ++ beBytes 2 64 ++ beBytes 4 (imgReg s.cfg.active (CAP + 0x14)).toNat ++ beBytes 4 s.cap.armId ++
    beBytes 2 (fld x 21 16) ++ zeros 2 ++ beBytes 4 (s.cap.xtSeq + 1) ++ tsBE ns ++ beBytes 4 cause ++ beBytes 1 rcd ++ zeros 1 ++
    beBytes 2 span ++ zeros 8
  let (s, mac) := if bit x 30 then macSign (xtKey s) b s else (s, some (zeros 16))
  match mac with
  | none => (s, false)
  | some m =>
    let s := { s with cap := { s.cap with xtSeq := (s.cap.xtSeq + 1) % 2 ^ 32 } }
    let v := s.cfg.active.vintage
    (enqueueMask (Config.xtPorts v % 8192) (.udp (Config.xtDst v) (fld x 15 0) 0 (b ++ m)) (ipLen (Config.xtDst v) 0 64 false) none s, true)

/-- The event of a change of the armed state: ARM_ID and the new state. -/
def setArmEvent (s : State) : State := raise 0x0A03 .all (leBytes 4 s.cap.armId ++ leBytes 1 (b2n s.cap.armed)) s

/-- The SET recorders of the active image. -/
def setRecs (s : State) : List Nat := (imValid s.cfg.active secCAP_REC).filter (recSet s.cfg.active)

/-- The set is held armed under `id` until ARM_SPAN `span` after now: every SET recorder in DISARMED becomes ARMED. -/
def setArm (id span : Nat) (s : State) : State :=
  let was := s.cap.armed && s.cap.armId == id
  let s := { s with cap := { s.cap with armed := true, armId := id, armEnd := s.tb.tick + span * 1024 } }
  let s := (setRecs s).foldl (fun s r => modCapRec r (fun q => { q with st := if q.st = 0 then 1 else q.st, off := false }) s) s
  if was then s else setArmEvent s

/-- The set is disarmed: every SET recorder in ARMED becomes DISARMED; a take in progress completes. -/
def setDisarm (s : State) : State :=
  if !s.cap.armed then s
  else
    let s := { s with cap := { s.cap with armed := false } }
    let s := (setRecs s).foldl (fun s r => modCapRec r (fun q => { q with st := if q.st = 1 then 0 else q.st }) s) s
    setArmEvent s

/-- The master sends ARM with the ARM_ID in force. -/
def sendArm (s : State) : State :=
  let s := { s with cap := { s.cap with lastArm := s.tb.tick } }
  setArm s.cap.armId (xtSpan s) (xtSend 0x0A11 s.tb.now 0 0 (xtSpan s) s).1

/-- The master arms the set: ARM_ID is the TAI second count, or the previous ARM_ID + 1. -/
def masterArm (s : State) : State :=
  let id := taiSec s % 2 ^ 32
  let id := if id = s.cap.armId then (id + 1) % 2 ^ 32 else id
  let s := { s with cap := { s.cap with armId := id, armed := false } }
  sendArm s

/-! ## Starting (R274) -/

/-- Recorder `r` starts: its next sample is `k`. -/
def recStart (r k : Nat) (s : State) : State :=
  let im := s.cfg.active
  let armed := if recSet im r then s.cap.armed else imBit im secCAP_REC r 0 29
  let t0 := sampExact s r k
  modCapRec r (fun q => { q with
    st := if armed then 1 else 0, started := true, next := k, ring := [], conds := [], off := false, trig := none
    tmo := (recConds im r).map (fun c => (c, t0)) })
    { s with cap := { s.cap with causes := s.cap.causes.filter (fun c => c.rcd != r) } }

/-- The aligned recorders of group `g` start with it at instant `i` (R151). -/
def groupRecs (g i : Nat) (s : State) : State :=
  let im := s.cfg.active
  ((imValid im secCAP_REC).filter (fun r => !recWave im r && recGroup im r == g)).foldl
    (fun s r => recStart r (i / max 1 (period s (recRate im r))) s) s

/-- The first placed sample of the subscriptions of recorder `r`. -/
def firstPlaced (s : State) (r : Nat) : Option Nat :=
  (recSubs s.cfg.active r).foldl (fun acc n =>
    let q := subOf s n
    let xs := (q.fin.filter (·.placed)).map (·.a) ++ q.buf.map (·.a)
    xs.foldl (fun acc a => match acc with
      | none => some a
      | some b => some (min a b)) acc) none

/-- A waveform recorder that has not started starts at the first sample placed. -/
def waveStart (r : Nat) (s : State) : State :=
  if recWave s.cfg.active r && !(capRecOf s r).started then
    match firstPlaced s r with
    | some k => recStart r k s
    | none => s
  else s

/-! ## Samples and conditions (R273, R276) -/

/-- Sample `k` of recorder `r` is final. -/
def sampFinal (s : State) (r k : Nat) : Bool :=
  let im := s.cfg.active
  if recWave im r then
    (recSubs im r).all (fun n => match (subOf s n).next with
      | some a => decide (k < a)
      | none => svOld s (recRate im r) k s.tb.now)
  else isSealed s (recGroup im r) (k * period s (recRate im r))

/-- The final sample `k` of subscription `n`. -/
def finSamp (s : State) (n k : Nat) : Option SvSamp := (subOf s n).fin.find? (fun x => x.a == k && x.placed)

/-- What recorder `r` stores for channel or slot `x` at sample `k`: value and mark. -/
def sampVal (s : State) (r k x : Nat) : (Word × Word) × Nat :=
  let im := s.cfg.active
  if recWave im r then
    match finSamp s (x / 8) k with
    | some y => (y.chans.getD (x % 8) (0#32, 0#32), 0)
    | none => ((0#32, 0#32), 2)
  else match (setOf s (recGroup im r) (k * period s (recRate im r))).bind (fun y => setSlot im y x) with
    | some v => ((v.a, v.b), v.mark)
    | none => ((0#32, 0#32), 2)

/-- The sample itself. -/
def takeSamp (s : State) (r k : Nat) : CapSamp :=
  let vs := (recChans s.cfg.active r).map (sampVal s r k)
  { k := k, vals := vs.map (·.1), marks := vs.map (·.2) }

/-- The input of a primitive condition at sample `k`; none is missing. -/
def condInput (s : State) (r c k : Nat) : Option Word :=
  let im := s.cfg.active
  let src := condF im r c 0 26 24
  if src = 6 then
    let j := condF im r c 1 23 16
    match finSamp s (j / 8) k with
    | some y => match y.chans[j % 8]? with
      | some (v, q) => if fld q 1 0 = 1 then none else some (f32mul (f32ofInt v.toInt) (imWord im secSV_SLOT j 1))
      | none => none
    | none => none
  else
    (setChan s (k * period s (recRate im r)) (condF im r c 1 31 16)).map (fun v =>
      if src = 1 then absF v.1 v.2
      else if src = 5 then (if bit v.1 (condF im r c 1 3 0) then 0x3F800000#32 else 0#32)
      else v.1)

/-- The arrival of the records that sample `k` holds: of the stream or subscription `only`, or the latest of all of them. A sample that holds
none has no arrival; what it resets is reset now. DEDUCED (assumption 218). -/
def sampArr (s : State) (r k : Nat) (only : Option Nat) : Nat :=
  let im := s.cfg.active
  let mine := fun (n : Nat) => only.all (· == n)
  let arrs := if recWave im r then ((recSubs im r).filter mine).filterMap (fun n => (finSamp s n k).map (·.arr))
    else match setOf s (recGroup im r) (k * period s (recRate im r)) with
      | some x => (x.blocks.filter (fun b => mine b.strm)).filterMap (·.arr)
      | none => []
  (arrs.max?).getD s.tb.now

/-- The settings of a condition. -/
def condCfg (im : Image) (r c : Nat) : PrimCfg :=
  let w := fun n => imWord im secCAP_COND (32 * r + c) n
  { prim := condPrim im r c, dir := fld (w 0) 23 22, mode := bit (w 0) 21, miss := bit (w 0) 20, armedWarm := bit (w 0) 19,
    thr := w 2, thr2 := w 3, width := fld (w 4) 31 16, span := fld (w 4) 15 12, rate := recRate im r,
    need := if condPrim im r c = 3 then fld (w 4) 15 12 + 1 else 0 }

/-- The cause that condition `c` gives at sample `k`. -/
def addCause (c : CapCause) (s : State) : State := { s with cap := { s.cap with causes := s.cap.causes ++ [c] } }

/-- A primitive condition at sample `k`. A TIMEOUT is only reset here; it becomes true at a tick boundary. -/
def condStep (r k c : Nat) (s : State) : State :=
  let im := s.cfg.active
  let x := condInput s r c k
  let p := fgetD (capRecOf s r).conds c {}
  if condPrim im r c = 2 then
    let any := imBit im secCAP_COND (32 * r + c) 0 21
    let src := if recWave im r then condF im r c 1 23 16 / 8 else chanStrm im (condF im r c 1 31 16)
    if any || x.isSome then
      let a := sampArr s r k (if any then none else some src) * tps s
      modCapRec r (fun q => { q with tmo := fset q.tmo c a, conds := fset q.conds c { p with out := false } }) s
    else s
  else
    let p' := (primStep (condCfg im r c) x p).1
    let s := modCapRec r (fun q => { q with conds := fset q.conds c p' }) s
    if p'.out && !p.out then addCause { rcd := r, cond := c, ns := sampNs s r k, samp := some k } s else s

/-- At a tick boundary: TIMEOUT conditions of recorder `r` whose timer exceeds TMO become true, and are causes. -/
def capTimeouts (s : State) : State :=
  let im := s.cfg.active
  let ns := gridNs s s.tb.grid
  (imValid im secCAP_REC).foldl (fun s r =>
    if !(capRecOf s r).started then s
    else ((recConds im r).filter (fun c => !condEvent im r c && condPrim im r c == 2)).foldl (fun s c =>
      let q := capRecOf s r
      let p := fgetD q.conds c {}
      let a := fgetD q.tmo c 0
      if !p.out && decide (a + condF im r c 5 23 0 * 1000000000 < s.tb.grid * 1000000000) then
        addCause { rcd := r, cond := c, ns := ns } (modCapRec r (fun q => { q with conds := fset q.conds c { p with out := true } }) s)
      else s) s) s

/-- At a tick boundary: changed DI levels are causes (ESRC 0x6). -/
def capDi (old : BitVec 16) (s : State) : State :=
  (List.range 16).foldl (fun s d =>
    if old.getLsbD d == s.tb.di.getLsbD d then s
    else capEvent 6 (if s.tb.di.getLsbD d then d else d + 16) (gridNs s s.tb.grid) s) s

/-! ## From cause to take (R278 to R282) -/

def takeOf (s : State) (k : Nat) : Option CapTake := fget? s.cap.takes k
def modTake (k : Nat) (f : CapTake → CapTake) (s : State) : State :=
  match takeOf s k with
  | some t => { s with cap := { s.cap with takes := fset s.cap.takes k (f t) } }
  | none => s

/-- A trigger at sample `k`: a take begins, or none is made for want of room. The second component says whether it began. -/
def trigger (r k c : Nat) (moved : Bool) (s : State) : State × Bool :=
  let im := s.cfg.active
  let q := capRecOf s r
  let pre := (q.ring.filter (fun x => decide (x.k < k ∧ k ≤ x.k + recPre im r))).length
  let blocks := blocksFor (takeLen (recNch im r) (pre + 1 + recPost im r))
  let s := if bit (imgReg im (CAP + 0xC)) 31 then makeRoom 1024 blocks s else s
  match freeSlot s with
  | none => (s, false)
  | some slot =>
    if 4096 < blocksUsed s + blocks then (s, false)
    else
      let xs := q.ring.filter (fun x => decide (k ≤ x.k + recPre im r ∧ x.k ≤ k + recPost im r))
      let t : CapTake := {
        no := s.cap.takeNo, rcd := r, blocks := blocks, moved := moved, cause := 2 ^ c
        armId := if recSet im r then s.cap.armId else 0
        trig := k, pre := pre, post := (xs.filter (fun x => decide (k < x.k))).length
        preCfg := recPre im r, postCfg := recPost im r, vintage := im.vintage, tq := fld (logAt s.tb.tqLog (sampNs s r k) s.tb.tq) 8 0, samps := xs }
      let s := { s with cap := { s.cap with takes := fset s.cap.takes slot t, takeNo := t.no % (2 ^ 32 - 1) + 1 } }
      let s := modCapRec r (fun q => { q with st := 2, slot := slot, trig := some k, lastTake := t.no }) s
      (capEvent 9 r (sampNs s r k) s, true)

/-- One cause, placed at sample `k`: it triggers, joins a take, or joins a slate. -/
def oneCause (r : Nat) (c k : Nat) (moved : Bool) (a : State × List SlateDue) : State × List SlateDue :=
  let (s, l) := a
  let q := capRecOf s r
  let mv := if moved then slMOVED else 0
  let same := q.trig == some k
  let early := q.trig.any (fun t => decide (k < t))
  if q.st = 0 then (capCount r 2 s, l)
  else if q.st = 1 then
    let (s, ok) := trigger r k c moved s
    if ok then (s, l) else (s, addSlate k (slFULL + mv) c l)
  else if q.st = 2 ∧ same then
    (modTake q.slot (fun t => { t with cause := t.cause ||| 2 ^ c, moved := t.moved || moved }) s, l)
  else (s, addSlate k (slREARM + (if early then slEARLIER else 0) + (if same then slSAME else 0) + mv) c l)

/-- The sample at which a waiting cause is placed, and whether it is moved; none while that sample is not final. -/
def placeCause (s : State) (c : CapCause) : Option (Nat × Bool) :=
  let q := capRecOf s c.rcd
  let k := match c.samp with
    | some k => k
    | none => sampAt s c.rcd c.ns
  match q.ring with
  | [] => none
  | x :: _ =>
    if x.k < k then none
    else
      let old := (q.ring.getLast?.getD x).k
      if k < old then some (old, true) else some (k, false)

/-- A FIRE goes out for a take that has just begun (R286). -/
def fireIfDue (r : Nat) (s : State) : State :=
  let im := s.cfg.active
  let q := capRecOf s r
  match takeOf s q.slot with
  | some t =>
    if recSet im r && s.cap.armed && xtOn s &&
        (List.range 32).any (fun c => Nat.testBit t.cause c && (!condEvent im r c || condF im r c 1 31 28 != 7)) then
      let (s, ok) := xtSend 0x0A12 (sampNs s r t.trig) t.cause r 0 s
      if ok then capCount r 5 (modTake q.slot (fun t => { t with xtSent := true }) s) else s
    else s
  | none => s

/-- The causes of recorder `r` whose samples are final are processed, in the order in which they were learned. -/
def processCauses (r : Nat) (s : State) : State :=
  let go := s.cap.causes.filter (fun c => c.rcd == r && (placeCause s c).isSome)
  let was := (capRecOf s r).st
  let s := { s with cap := { s.cap with causes := s.cap.causes.filter (fun c => !(c.rcd == r && (placeCause s c).isSome)) } }
  let (s, l) := go.foldl (fun a c => match placeCause a.1 c with
    | some (k, mv) => oneCause r c.cond k mv a
    | none => a) (s, [])
  let s := if was ≠ 2 ∧ (capRecOf s r).st = 2 then fireIfDue r s else s
  l.foldl (makeSlate r) s

/-- The take of recorder `r` closes; the re-arm time runs from here (R280, R281). -/
def closeTake (r : Nat) (s : State) : State :=
  let im := s.cfg.active
  let k := (capRecOf s r).slot
  match takeOf s k with
  | none => s
  | some t =>
    let raw := takeBytes s t
    let s := modTake k (fun t => { t with closed := true, raw := raw, samps := [], blocks := blocksFor raw.length }) s
    let s := modCapRec r (fun q => { q with st := 3, rearmEnd := s.tb.tick + recF im r 4 31 8 }) s
    raise 0x0A01 (capObj s r) (leBytes 2 r ++ leBytes 2 k ++ leBytes 4 t.no) (capFlag 0 (capCount r 0 s))

/-- The take of recorder `r` is truncated at the last final sample (R281). -/
def truncateTake (r : Nat) (s : State) : State :=
  if (capRecOf s r).st = 2 then
    let s := modTake (capRecOf s r).slot (fun t => { t with truncated := true }) s
    closeTake r (capFlag 5 (capCount r 3 s))
  else s

/-- The take of recorder `r` closes once its last post-trigger sample is final. -/
def closeIfDone (r : Nat) (s : State) : State :=
  match (capRecOf s r).st, takeOf s (capRecOf s r).slot with
  | 2, some t => if t.postCfg ≤ t.post then closeTake r s else s
  | _, _ => s

/-- Samples that the pre-trigger buffer of recorder `r` holds at most. -/
def ringDepth (im : Image) (r : Nat) : Nat := Config.capRing r + (recPre im r + 1)

/-- Bytes that the pre-trigger buffer of recorder `r` takes in the ring region (R272). -/
def ringNeed (im : Image) (r : Nat) : Nat := ringDepth im r * sblk (recNch im r)

/-- The next sample of recorder `r` enters the buffer and a take in progress, and the conditions are evaluated. -/
def pushSamp (r : Nat) (s : State) : State :=
  let im := s.cfg.active
  let k := (capRecOf s r).next
  let x := takeSamp s r k
  let s := modCapRec r (fun q => { q with next := k + 1, ring := (x :: q.ring).take (ringDepth im r) }) s
  let s := if (capRecOf s r).st = 2 then
      modTake (capRecOf s r).slot (fun t => if t.post < t.postCfg then { t with samps := x :: t.samps, post := t.post + 1 } else t) s
    else s
  ((recConds im r).filter (fun c => !condEvent im r c)).foldl (fun s c => condStep r k c s) s

/-- An aligned recorder checks the set of its next sample before it reads it (Table 5-9). -/
def sampSets (r : Nat) (bad : List (Nat × Nat)) (s : State) : State :=
  let im := s.cfg.active
  let g := recGroup im r
  if recWave im r then s else readSets ((capRecOf s r).next * period s (recRate im r)) (bad.filter (fun b => b.1 == g)) s

/-- CAPTURE_SAMPLE_WRITE (R273): the next sample of recorder `r` is final; causes that waited for it are processed. -/
def execCaptureSampleWrite (r : Nat) (s : State) (c : ReadCheck := {}) : Out := act s fun s =>
  if !recValid s.cfg.active r then s
  else
    let s := waveStart r s
    let q := capRecOf s r
    if !q.started then s
    else closeIfDone r (processCauses r (if sampFinal s r q.next then pushSamp r (sampSets r c.setBad s) else s))

/-- REARM_EXPIRY (R280): the re-arm time of recorder `r` has run out. -/
def execRearmExpiry (r : Nat) (s : State) : Out := act s fun s =>
  let q := capRecOf s r
  if q.st = 3 ∧ q.rearmEnd ≤ s.tb.tick then
    let s := processCauses r s
    let on := !q.off && (!recSet s.cfg.active r || s.cap.armed)
    modCapRec r (fun q => { q with st := if on then 1 else 0, off := false }) s
  else s

/-! ## CAP_CTRL (R290) -/

/-- A refused write of CAP_CTRL that names the object `o`: event with OP and reason, to those that may read `o` (R408). -/
def capRefuse (o : EvObj) (op reason : Nat) (s : State) : State := raise 0x0A05 o (leBytes 1 op ++ leBytes 1 reason) s

/-- A write of CAP_CTRL with operation `op` on `o` by function `n`; `right` says whether its partition has the right. -/
def capCtrl (n : Nat) (o : EvObj) (op key : Nat) (right : Bool) (f : State → State) (s : State) : State :=
  if !validFn s n then deniedInvalid n s
  else if key ≠ 0xCA57 ∨ !right then capRefuse o op 1 s
  else f s

/-- CAP_ARM_RECORDER (CAP_CTRL OP 1): function, ARG, KEY. -/
def execCapArmRecorder (n r key : Nat) (s : State) : Out := act s fun s =>
  capCtrl n (capObj s r) 1 key (Nat.testBit (recMask s.cfg.active r) n) (fun s =>
    if recSet s.cfg.active r then capRefuse (capObj s r) 1 2 s
    else modCapRec r (fun q => { q with st := if q.st = 0 then 1 else q.st, off := false }) s) s

/-- CAP_DISARM_RECORDER (CAP_CTRL OP 2): a take in progress completes. -/
def execCapDisarmRecorder (n r key : Nat) (s : State) : Out := act s fun s =>
  capCtrl n (capObj s r) 2 key (Nat.testBit (recMask s.cfg.active r) n) (fun s =>
    if recSet s.cfg.active r then capRefuse (capObj s r) 2 2 s
    else modCapRec r (fun q => { q with st := if q.st = 1 then 0 else q.st, off := decide (2 ≤ q.st) }) s) s

/-- CAP_HOST_TRIGGER (CAP_CTRL OP 3): a cause for the host trigger conditions of the recorder. -/
def execCapHostTrigger (n r key : Nat) (s : State) : Out := act s fun s =>
  capCtrl n (capObj s r) 3 key (Nat.testBit (recMask s.cfg.active r) n) (fun s =>
    let im := s.cfg.active
    ((recConds im r).filter (fun c => condEvent im r c && condF im r c 1 31 28 == 8)).foldl
      (fun s c => addCause { rcd := r, cond := c, ns := gridNs s s.tb.grid } s) s) s

/-- CAP_FREE_TAKE (CAP_CTRL OP 4): the slot and the blocks of take slot `k` become free. -/
def execCapFreeTake (n k key : Nat) (s : State) : Out := act s fun s =>
  let (o, right) := match takeOf s k with
    | some t => (capObj s t.rcd, Nat.testBit (recMask s.cfg.active t.rcd) n)
    | none => (.all, true)
  capCtrl n o 4 key right (fun s =>
    if (takeOf s k).any (·.closed) && !takeReading s k then { s with cap := { s.cap with takes := fdel s.cap.takes k } }
    else capRefuse o 4 3 s) s

/-- CAP_ARM_SET (CAP_CTRL OP 5). -/
def execCapArmSet (n key : Nat) (s : State) : Out := act s fun s =>
  capCtrl n .all 5 key (imgLoad s n) (fun s => if xtMaster s then masterArm s else capRefuse .all 5 2 s) s

/-- CAP_DISARM_SET (CAP_CTRL OP 6). -/
def execCapDisarmSet (n key : Nat) (s : State) : Out := act s fun s =>
  capCtrl n .all 6 key (imgLoad s n) (fun s =>
    if xtMaster s then setDisarm (xtSend 0x0A13 s.tb.now 0 0 0 s).1 else capRefuse .all 6 2 s) s

/-- ARM_REPEAT (R286): ARM_SPAN / 2 cyc have passed since the last ARM that the master sent. -/
def execArmRepeat (s : State) : Out := act s fun s =>
  if xtMaster s && s.cap.armed && decide (s.cap.lastArm + xtSpan s / 2 * 1024 ≤ s.tb.tick) then sendArm s else s

/-- ARM_SPAN_EXPIRY (R286). -/
def execArmSpanExpiry (s : State) : Out := act s fun s =>
  if s.cap.armed && decide (s.cap.armEnd ≤ s.tb.tick) then setDisarm s else s

/-! ## Cross-trigger messages (R287) -/

/-- A cross-trigger message (Table 10-10). -/
def crossMsg (b : List Byte) (s : State) : State :=
  let x := xtCfg s
  let typ := beAt b 0 2
  let sender := beAt b 0xC 2
  let id := beAt b 8 4
  let seq : Word := BitVec.ofNat 32 (beAt b 0x10 4)
  if b.length ≠ 64 ∨ beAt b 2 2 ≠ 64 ∨ ¬ (typ = 0x0A11 ∨ typ = 0x0A12 ∨ typ = 0x0A13) ∨ !xtOn s ∨
      beAt b 4 4 ≠ (imgReg s.cfg.active (CAP + 0x14)).toNat ∨ !tsOk b 0x14 then count (CAP + 0x304) s
  else if sender = fld x 21 16 then s
  else
    let (s, ok) := if bit x 30 then macVerify (xtKey s + 1) (b.take 48) (slice b 48 16) s else (s, true)
    if !ok then
      raiseLimited (0x0A06 * 64) 0x0A06 .all (leBytes 2 sender) (flagCount (CAP + 4) 4 (CAP + 0x308) s)
    else if (fget? s.cap.xtLast sender).any (fun l => decide ((seq - l).toInt ≤ 0)) then count (CAP + 0x30C) s
    else if typ ≠ 0x0A12 ∧ sender ≠ fld x 29 24 then count (CAP + 0x304) s
    else if typ = 0x0A12 ∧ (!s.cap.armed ∨ id ≠ s.cap.armId) then count (CAP + 0x310) s
    else
      let s := count (CAP + 0x300) { s with cap := { s.cap with xtLast := fset s.cap.xtLast sender seq } }
      if typ = 0x0A11 then setArm id (beAt b 0x26 2) s
      else if typ = 0x0A13 then setDisarm s
      else
        let ns := beAt b 0x14 8 * 1000000000 + beAt b 0x1C 4
        (setRecs s).foldl (fun s r =>
          ((recConds s.cfg.active r).filter (fun c => condEvent s.cfg.active r c && condF s.cfg.active r c 1 31 28 == 7)).foldl
            (fun s c => addCause { rcd := r, cond := c, ns := ns } s) s) s

/-- CROSS_TRIGGER_MSG_RX (R287): the oldest cross-trigger message handed on. -/
def execCrossTriggerMsgRx (s : State) : Out := act s fun s =>
  match takeHanded .cross s with
  | some (h, s) => match h.frame.payload with
    | .ip _ b _ => crossMsg b s
    | _ => s
  | none => s

end Sys2Proof.Machine
end

