-- ==== Sys2Proof/Machine/Metering.lean ====
section
/-!
DEFINITION. Sys2Proof/Machine/Metering.lean: interchange metering, power quality and billing records (chapter 11).
-/
namespace Sys2Proof.Machine

/-! ## Points (R292) -/

def ptF (im : Image) (p w hi lo : Nat) : Nat := imFld im secMTR_POINT p w hi lo
def ptValid (im : Image) (p : Nat) : Bool := imBit im secMTR_POINT p 0 31
def mtrOf (s : State) (p : Nat) : MtrPt := fgetD s.mtr.pts p {}
def modMtr (p : Nat) (f : MtrPt → MtrPt) (s : State) : State := { s with mtr := { s.mtr with pts := fmod s.mtr.pts p {} f } }
def mtrFlag (b : Nat) (s : State) : State := setFlag s (MTR + 4) b
def mtrCount (k : Nat) (s : State) : State := count (MTR + 0x300 + 4 * k) s

/-- The voltage slots of a point, and its pairs of voltage and current slots (Table 11-1 WIRING). -/
def ptVolts (im : Image) (p : Nat) : List Nat :=
  let v := ptF im p 1
  if ptF im p 0 30 29 = 1 then [v 31 24] else if ptF im p 0 30 29 = 2 then [v 31 24, v 15 8] else [v 31 24, v 23 16, v 15 8]
def ptPairs (im : Image) (p : Nat) : List (Nat × Nat) :=
  let i := ptF im p 2
  (ptVolts im p).zip (if ptF im p 0 30 29 = 1 then [i 31 24] else if ptF im p 0 30 29 = 2 then [i 31 24, i 15 8]
    else [i 31 24, i 23 16, i 15 8])
def ptSlots (im : Image) (p : Nat) : List Nat := (ptPairs im p).map (·.1) ++ (ptPairs im p).map (·.2)
def ptFs (im : Image) (p : Nat) : Nat := slotFs im (ptF im p 1 31 24)

/-- The channel number of each voltage slot: 0 A, 1 B, 2 C. -/
def ptChans (im : Image) (p : Nat) : List Nat :=
  if ptF im p 0 30 29 = 1 then [0] else if ptF im p 0 30 29 = 2 then [0, 2] else [0, 1, 2]

/-- Image `im` with words `ws` as the entry of point `p`. -/
def withPoint (im : Image) (p : Nat) (ws : List Word) : Image :=
  let n := imCount im secMTR_POINT
  let recs := (List.range (max n (p + 1))).map (fun k => if k = p then ws else imRec im secMTR_POINT k)
  { im with sects := { typ := secMTR_POINT, recs := recs } :: im.sects }

/-- The image whose entry of point `p` holds in nominal cycle `y`: a cycle before an activation closes under the old entry (Table 11-3). -/
def ptIm (s : State) (p y : Nat) : Image :=
  match (mtrOf s p).old with
  | some o => if y < o.stop then withPoint s.cfg.active p o.words else s.cfg.active
  | none => s.cfg.active

/-- Samples of a nominal cycle. -/
def cycLen (im : Image) (s : State) (p : Nat) : Nat := ptFs im p / f0 s

/-- The start of nominal cycle `y` (TAI second × f0 + c), in ns. -/
def cycNs (s : State) (y : Nat) : Nat := roundDiv (y * 1000000000) (f0 s)

/-- The instant of sample `a` of point `p`, in ns. -/
def mtrNs (im : Image) (p a : Nat) : Nat := roundDiv (a * 1000000000) (ptFs im p)

/-! ## Energy of a cycle (R295 to R297) -/

/-- The DC-blocker output of slot `j` at sample `a`. -/
def outY (s : State) (j a : Nat) : Option SvY := (svSlotOf s j).ys.find? (fun y => y.a == a)

/-- Its value, unless it is absent (R295). -/
def useY (s : State) (j a : Nat) : Option Word :=
  match outY s j a with
  | some y => if y.placed && !y.own then y.v else none
  | none => none

/-- A product of two values in binary64; a term that reads an absent value is 0. -/
def term (x y : Option Word) : Nat :=
  match x, y with
  | some x, some y => fmul fmt64 (fconv fmt32 fmt64 x.toNat) (fconv fmt32 fmt64 y.toNat)
  | _, _ => 0

/-- Σ of the terms in ascending order, negated with INV. -/
def termSum (inv : Bool) (l : List Nat) : Nat :=
  match l with
  | [] => 0
  | t :: l => let x := l.foldl (fadd fmt64) t; if inv then fneg fmt64 x else x

/-- p[n] and q[n] of sample `a`. -/
def sampPQ (im : Image) (s : State) (p a : Nat) : Nat × Nat :=
  let d := ptFs im p / (4 * f0 s)
  let inv := imBit im secMTR_POINT p 0 28
  (termSum inv ((ptPairs im p).map (fun (v, i) => term (useY s v a) (useY s i a))),
   termSum inv ((ptPairs im p).map (fun (v, i) => term (useY s v (a - d)) (useY s i a))))

/-- What the samples of a cycle give: Σp, Σq, and the counts and flags of R295. -/
structure CycSum where
  p : Nat := 0
  q : Nat := 0
  gap : Nat := 0
  test : Nat := 0
  unsync : Bool := false
  srcMod : Bool := false
  deriving DecidableEq, Repr

/-- One sample is added. -/
def addSamp (im : Image) (s : State) (pt : Nat) (c : CycSum) (a : Nat) : CycSum :=
  let (p, q) := sampPQ im s pt a
  let ys := (ptSlots im pt).map (fun j => (outY s j a, useY s j a))
  let isTest := fun (y : Option SvY) => y.any (fun y => y.placed && y.own && y.v.isSome)
  { p := fadd fmt64 c.p p, q := fadd fmt64 c.q q
    gap := c.gap + (ys.filter (fun e => e.2.isNone && !isTest e.1)).length
    test := c.test + (ys.filter (fun e => isTest e.1)).length
    unsync := c.unsync || ys.any (fun e => e.2.isSome && e.1.any (·.unsync))
    srcMod := c.srcMod || ys.any (fun e => e.2.isSome && e.1.any (·.modified)) }

/-- The energy of a sum: × 1,000 / (3,600 × fs), binary64. -/
def energyOf (fs sum : Nat) : Nat :=
  fdiv fmt64 (fmul fmt64 sum (fromIntRat fmt64 1000 1)) (fromIntRat fmt64 (3600 * fs) 1)

/-- The u of R299 for an energy e ≥ 0; larger values clamp (Table 11-3). An energy that is no number has a free u. -/
def energyU (e : Nat) (s : State) : Nat × State :=
  match toRat fmt64 e with
  | some (n, d) =>
    if (2 ^ 32 : Int) * d ≤ n then ((2 ^ 32 - 1) * 2 ^ 32, mtrFlag 5 s) else (rne (n.toNat * 2 ^ 32) d, s)
  | none =>
    if isNan fmt64 e then let (v, s) := fresh 64 s; (v.toNat, s) else ((2 ^ 32 - 1) * 2 ^ 32, mtrFlag 5 s)

/-- reg_add (R299). -/
def regAdd (g : MReg) (u : Nat) : MReg :=
  let lo := g.res + u % 2 ^ 32
  let t := (g.tot + u / 2 ^ 32 + lo / 2 ^ 32) % 2 ^ 64
  { tot := t, res := lo % 2 ^ 32, wrap := if t < g.tot then (g.wrap + 1) % 2 ^ 16 else g.wrap }

/-- Table 11-2: for each register 0 to 6 the energy that it gains. -/
def assign (eP eQ : Nat) : List (Nat × Nat) :=
  let neg := fun e => flt fmt64 e 0
  let aP := if neg eP then fneg fmt64 eP else eP
  let aQ := if neg eQ then fneg fmt64 eQ else eQ
  let quad := if neg eQ then (if neg eP then 4 else 5) else (if neg eP then 3 else 2)
  [(if neg eP then 1 else 0, aP), (quad, aQ),
   (6, fsqrt fmt64 (fadd fmt64 (fmul fmt64 eP eP) (fmul fmt64 eQ eQ)))]

/-! ## The cellar (R299 to R301) -/

def poOf (s : State) (k : Nat) : Po := fgetD s.mtr.pos k {}
def modPo (k : Nat) (f : Po → Po) (s : State) : State := { s with mtr := { s.mtr with pos := fmod s.mtr.pos k {} f } }
def poF (im : Image) (k w hi lo : Nat) : Nat := imFld im secMTR_PULSE k w hi lo

/-- The pulse outputs that follow point `p`. -/
def ptPos (im : Image) (p : Nat) : List Nat :=
  (List.range 8).filter (fun k => imBit im secMTR_PULSE k 0 31 && poF im k 0 30 26 == p)

/-- The newer of two banks whose CRC is good (R301). -/
def newerBank (a b : MBank) : Option MBank :=
  if a.ok && b.ok then
    some (if 0 < ((BitVec.ofNat 32 a.gen - BitVec.ofNat 32 b.gen : Word)).toInt then a else b)
  else if a.ok then some a else if b.ok then some b else none

/-- Point `p` is committed: the older bank is written with the next generation. -/
def mtrCommit (p : Nat) (s : State) : State :=
  let b0 := fgetD s.nv.bank0 p {}
  let b1 := fgetD s.nv.bank1 p {}
  let gen := match newerBank b0 b1 with
    | some b => (b.gen + 1) % 2 ^ 32
    | none => 1
  let b : MBank := {
    gen := gen, ok := true, regs := (mtrOf s p).regs
    pos := (ptPos s.cfg.active p).map (fun k => (k, (poOf s k).pacc, (poOf s k).backlog)) }
  if newerBank b0 b1 == some b0 then { s with nv := { s.nv with bank1 := fset s.nv.bank1 p b } }
  else { s with nv := { s.nv with bank0 := fset s.nv.bank0 p b } }

/-- Point `p` takes its bank at start-up (R301). -/
def mtrLoad (p : Nat) (s : State) : State :=
  match newerBank (fgetD s.nv.bank0 p {}) (fgetD s.nv.bank1 p {}) with
  | some b =>
    let s := modMtr p (fun q => { q with regs := b.regs }) s
    b.pos.foldl (fun s (k, a, n) => modPo k (fun o => { o with pacc := a, backlog := n }) s) s
  | none =>
    raise 0x0B06 .all (leBytes 2 p) (mtrFlag 6 (modMtr p (fun q => { q with flags := q.flags ||| 4 }) s))

/-! ## Pulse outputs (R307 to R309) -/

/-- Δ of output `k` in ns: max(2 PW, 100 µs, 1 cyc / BACKLOG), rounded down to 10 ns. -/
def poDelta (s : State) (k backlog : Nat) : Nat :=
  let d := max (2 * poF s.cfg.active k 0 16 0 * 10000) 100000
  max d (1000000000 / (f0 s * max 1 backlog)) / 10 * 10

/-- At a commit, output `k` gains `u`. -/
def poAdd (k u : Nat) (s : State) : State :=
  let o := poOf s k
  let q := poF s.cfg.active k 1 31 0 * 2 ^ 32
  let n := if q = 0 then 0 else (o.pacc + u) / q
  let bl := min 0xFFFFFFFF (o.backlog + n)
  let d := poDelta s k bl
  let s := modPo k (fun o => { o with
    pacc := if q = 0 then o.pacc + u else (o.pacc + u) % q, backlog := bl, delta := d
    due := match o.start with
      | some t => max s.tb.now (t + d)
      | none => s.tb.now }) s
  if 65536 < bl ∧ !o.spill then
    raise 0x0B05 .all (leBytes 2 k) (mtrFlag 4 (modPo k (fun o => { o with spill := true }) s))
  else s

/-- PULSE_OUTPUT_STEP (R308): output `k` starts its next pulse at `ns`. What power-up restores is owed from the first commit on, which sets the
spacing. -/
def execPulseOutputStep (k ns : Nat) (s : State) : Out := act s fun s =>
  let o := poOf s k
  if imBit s.cfg.active secMTR_PULSE k 0 31 && decide (0 < o.backlog ∧ 0 < o.delta ∧ o.due ≤ ns) then
    seen ns (modPo k (fun o => { o with
      backlog := o.backlog - 1, emitted := (o.emitted + 1) % 2 ^ 32, start := some ns, due := ns + o.delta
      spill := o.spill && decide (1024 ≤ o.backlog - 1) }) s)
  else s

/-- The level of output `k` at instant `ns`: high for PW from the start of a pulse. -/
def poLevel (s : State) (k ns : Nat) : Bool :=
  landHigh s (match (poOf s k).start with
    | some t => decide (t ≤ ns ∧ ns < t + poF s.cfg.active k 0 16 0 * 10000)
    | none => false)

/-! ## Billing records (R313 to R318) -/

/-- The seed of the meter key pair (R313). -/
def meterSeed (s : State) : List Byte :=
  kmac256 (Config.vaultRoot s.nv.root) s.sec.metro (ascii "PZ7 METER")

/-- The meter key is available. -/
def meterKeyOk (s : State) : Bool := s.sec.rootIn

/-- METER_ID in force; zeros while no meter key is available. -/
def meterId (s : State) : List Byte :=
  if meterKeyOk s then padTo 32 (sha3_256 (mldsaPub (meterSeed s))) else zeros 32

/-- TOT of registers 0 to 6, WRAP of each, 2 reserved. -/
def totBytes (regs : List MReg) : List Byte :=
  regs.flatMap (fun g => leBytes 8 g.tot) ++ regs.flatMap (fun g => leBytes 2 g.wrap) ++ zeros 2

/-- A billing record with BILL_SEQ `seq` (Table 11-6). -/
def billBytes (s : State) (seq : Nat) (b : BillBody) : List Byte :=
  let int := b.typ == 0x0B01
  let body := if int then slice b.body 0 84 ++ leBytes 4 s.nv.lost ++ b.body.drop 88 else b.body
  let fl := b.flags ||| (b2n (decide (0 < s.nv.lost)) * 2 ^ 6) ||| (b2n (int && s.nv.idNew && meterKeyOk s) * 2 ^ 5) |||
    (b2n (!meterKeyOk s) * 2 ^ 4) ||| (b2n (meterKeyOk s && b.meterId != meterId s) * 2 ^ 3)
  let h := leBytes 2 b.typ ++ leBytes 2 fl ++ leBytes 4 2688 ++ leBytes 8 seq ++ leBytes 1 b.point ++ zeros 1 ++ leBytes 2 b.tq ++
    leBytes 4 b.vintage ++ tsLE b.ts ++ tsLE b.ts2 ++ meterId s ++ padTo 32 s.sec.metro ++ padTo 112 body ++ padTo 32 s.nv.billHash
  let sig := if meterKeyOk s then dsaSign s (meterSeed s) "PZ7-BILL" h else zeros 2420
  let r := h ++ sig ++ zeros 8
  r ++ leBytes 4 (crc32 r).toNat

def ordinaryUsed (s : State) : Nat := (s.nv.log.filter (fun e => !e.2.kept)).length
def keptUsed (s : State) : Nat := (s.nv.log.filter (fun e => e.2.kept)).length

/-- A record takes an entry of the log, with the next BILL_SEQ. -/
def writeBill (kept : Bool) (b : BillBody) (s : State) : State :=
  let seq := s.nv.billSeq + 1
  let raw := billBytes s seq b
  let s := { s with nv := { s.nv with
    log := fset s.nv.log seq { kept := kept, raw := raw }, billSeq := seq, lost := 0
    billHash := sha3_256 (raw.take 0xA74), idNew := s.nv.idNew && !(b.typ == 0x0B01 && meterKeyOk s) } }
  let s := raise 0x0B01 .all (leBytes 2 b.point ++ leBytes 2 b.typ ++ leBytes 8 seq) s
  let s := if b.typ = 0x0B04 then
      raise 0x0B07 .all (leBytes 2 b.point ++ b.body.take 1 ++ leBytes 8 seq) s
    else s
  harvest (fun p => mtrAdmin s p && hrvClass s p 3) b.typ none raw none s

def logFull (s : State) : State := raiseLimited 0x0B040000 0x0B04 .all [] (mtrFlag 3 s)

/-- A record is not written. -/
def loseBill (s : State) : State := logFull (mtrCount 7 { s with nv := { s.nv with lost := s.nv.lost + 1 } })

/-- A record of type 0x0B02, 0x0B03, 0x0B05 or 0x0B06 that finds an entry; none if all are taken. -/
def specialEntry (s : State) : Option Bool :=
  if ordinaryUsed s < 6080 then some false else if keptUsed s < 64 then some true else none

/-- A body is logged as R317 lays down. -/
def placeBill (b : BillBody) (s : State) : State :=
  if b.typ = 0x0B01 ∨ b.typ = 0x0B04 then
    if s.nv.pend.isEmpty && decide (ordinaryUsed s < 6080) then writeBill false b s else loseBill s
  else match specialEntry s with
    | some k => if s.nv.pend.isEmpty then writeBill k b s
      else if s.nv.pend.length < 64 then logFull { s with nv := { s.nv with pend := s.nv.pend ++ [b] } } else loseBill s
    | none => if s.nv.pend.length < 64 then logFull { s with nv := { s.nv with pend := s.nv.pend ++ [b] } } else loseBill s

/-- Pending bodies are logged in order while entries are free, at most `n`. -/
def drainPend : Nat → State → State
  | 0, s => s
  | n + 1, s => match s.nv.pend, specialEntry s with
    | b :: rest, some k => drainPend n (writeBill k b { s with nv := { s.nv with pend := rest } })
    | _, _ => s

/-- A body of point `p`; TOT_RESET goes with the point's next record. -/
def mkBill (typ p flags ts ts2 : Nat) (body : List Byte) (s : State) : BillBody × State :=
  let reset := (mtrOf s p).flags &&& 4
  ({ typ := typ, flags := flags ||| reset, point := p, tq := fld (logAt s.tb.tqLog ts s.tb.tq) 8 0, vintage := s.cfg.active.vintage, ts := ts, ts2 := ts2,
     meterId := meterId s, body := body },
   if p < 32 then modMtr p (fun q => { q with flags := q.flags - (q.flags &&& 4) }) s else s)

/-- A body is saved in the cellar and waits to be signed (R315). -/
def saveBill (b : BillBody) (s : State) : State := { s with nv := { s.nv with bodies := s.nv.bodies ++ [b] } }

/-- BILLING_RECORD_SIGN (R316): the oldest saved body. -/
def execBillingRecordSign (s : State) : Out := act s fun s =>
  match s.nv.bodies with
  | b :: rest => placeBill b { s with nv := { s.nv with bodies := rest } }
  | [] => s

/-- The module starts under a new identity (R314). -/
def meterIdentity (s : State) : State :=
  if !meterKeyOk s || meterId s == s.nv.meterId then s
  else
    let body := padTo 32 s.nv.meterId ++ padTo 32 s.nv.metro ++ leBytes 8 s.nv.billSeq
    let (b, s) := mkBill 0x0B05 0xFF 0 (if s.vbat.rtcValid then s.vbat.rtc else 0) 0 body s
    let s := placeBill b s
    raise 0x0B03 .all [] { s with nv := { s.nv with meterId := meterId s, metro := s.sec.metro, idNew := true } }

/-! ## Cycle close -/

/-- An interval of point `p` ends at the boundary `sec` (R315): a UTC second that is a multiple of INT_S, an inserted second apart. -/
def intervalEnd (im : Image) (s : State) (p sec : Nat) : Bool :=
  let n : Int := (max 1 (ptF im p 0 11 0) : Nat)
  utcOfTai s sec % 86400 % n == 0 &&
    !(match leapTai s with
      | some (false, t) => (sec : Int) == t
      | _ => false)

/-- The TAI second at which the interval of point `p` ends that holds second `sec`. -/
def intervalStop (im : Image) (s : State) (p sec : Nat) : Nat :=
  (((List.range (ptF im p 0 11 0 + 1)).map (fun k => sec + 1 + k)).find? (intervalEnd im s p)).getD (sec + ptF im p 0 11 0)

/-- The body of the interval that ends at `ns`. -/
def intervalBill (p ns : Nat) (s : State) : State :=
  let q := mtrOf s p
  let fl := (q.flags ||| b2n (decide (0 < q.gap)) * 2 ^ 15 ||| b2n (decide (0 < q.test)) * 2 ^ 14)
  let body := totBytes q.regs ++ leBytes 4 q.gap ++ leBytes 4 q.test ++ leBytes 4 q.nsmp ++ zeros 4 ++ leBytes 4 q.pqEvents
  let (b, s) := mkBill 0x0B01 p fl ns (q.ivStart.getD ns) body s
  let open_ := q.dip.isSome || q.swell.isSome || q.intr.isSome
  modMtr p (fun q => { q with
    ivStart := some ns, nsmp := 0, gap := 0, test := 0, flags := if open_ then 2 ^ 8 else 0, pqRecs := 0, pqEvents := 0 }) (saveBill b s)

/-- The samples `lo` to `hi` of point `p` of vintage `im` are registered and committed (R297, R299, R300, R308); they belong to a cycle that
starts at `t0` ns. -/
def registerCycle (im : Image) (p lo hi t0 tEnd : Nat) (s : State) : State :=
  let fs := ptFs im p
  let c := (upFrom lo (hi + 1 - lo)).foldl (addSamp im s p) {}
  let es := assign (energyOf fs c.p) (energyOf fs c.q)
  let (us, s) := es.foldl (fun (a : List (Nat × Nat) × State) (r, e) =>
    let (u, s) := energyU e a.2; (a.1 ++ [(r, u)], s)) ([], s)
  let s := modMtr p (fun q => { q with
    regs := us.foldl (fun g (r, u) => g.modify r (fun x => regAdd x u)) q.regs
    nsmp := q.nsmp + (hi + 1 - lo), gap := q.gap + c.gap, test := q.test + c.test
    ivStart := some (q.ivStart.getD t0), last := mtrNs im p hi
    flags := q.flags ||| b2n c.unsync * 2 ^ 13 ||| b2n c.srcMod * 2 ^ 12 |||
      b2n (q.ivStart.isNone && !(t0 % 1000000000 == 0 && intervalEnd im s p (t0 / 1000000000))) * 2 ^ 10 |||
      b2n (s.tb.state != .locked || s.tb.src == 3) * 2 ^ 7 }) s
  let s := if 0 < c.gap then mtrFlag 1 (countN (MTR + 0x304) 0xFFFF c.gap .all s) else s
  let s := if 0 < c.test then countN (MTR + 0x308) 0xFFFF c.test .all s else s
  let s := (ptPos im p).foldl (fun s k =>
    poAdd k (sumN ((us.filter (fun e => e.1 == poF im k 0 25 23)).map (·.2))) s) s
  let s := mtrCommit p (mtrCount 0 s)
  { s with mtr := { s.mtr with lastEnd := max s.mtr.lastEnd tEnd } }

/-- The newest sample that every slot of point `p` has given, if any has come. -/
def mtrLastFinal (im : Image) (s : State) (p : Nat) : Option Nat :=
  (ptSlots im p).foldl (fun acc j => match (svSlotOf s j).ys with
    | y :: _ => (match acc with
      | none => some y.a
      | some m => some (min m y.a))
    | [] => acc) none

/-- Every sample up to `a` of point `p` is final and through the chain (R297). -/
def mtrFinal (im : Image) (s : State) (p a : Nat) : Bool :=
  (ptSlots im p).all (fun j => match (svSlotOf s j).ys, (subOf s (j / 8)).next with
    | y :: _, _ => decide (a ≤ y.a)
    | [], none => svOld s (ptFs im p) a s.tb.now
    | [], some _ => false)

/-- Point `p` begins when time is acquired: its first cycle is the one in progress, from the first sample at or after `s.tb.now`, PARTIAL and TIME
(Table 11-3). An interval whose end has passed since is recorded first (R315); it ended without a last cycle. DEDUCED (assumption 119). -/
def mtrBegin (p : Nat) (s : State) : State :=
  let im := s.cfg.active
  let sec := s.tb.now / 1000000000
  let s := modMtr p (fun q => { q with flags := q.flags ||| 2 ^ 10 ||| 2 ^ 7 }) s
  let s := match (mtrOf s p).ivStart with
    | some t =>
      let e := intervalStop im s p (t / 1000000000)
      if sec < t / 1000000000 ∨ e ≤ sec then modMtr p (fun q => { q with ivStart := none }) (intervalBill p (e * 1000000000) s) else s
    | none => s
  modMtr p (fun q => { q with
    next := some (s.tb.grid / 1024), from_ := ceilDiv (s.tb.now * ptFs im p) 1000000000
    pqNext := some (ceilDiv (s.tb.now * ptFs im p) 1000000000) }) s

/-- The first cycle close after power has returned (R306): the supply-loss record, the supply-restore record, the event. -/
def supplyRestore (p t0 : Nat) (s : State) : State :=
  match takeFirst (fun b => b.point == p) s.nv.lossBodies with
  | none => s
  | some (b, rest) =>
    let n0 := s.nv.billSeq
    let s := placeBill b { s with nv := { s.nv with lossBodies := rest } }
    let seq := if s.nv.billSeq = n0 then 0 else s.nv.billSeq
    let (r, s) := mkBill 0x0B03 p 0 t0 b.ts (totBytes (mtrOf s p).regs) s
    let s := modMtr p (fun q => { q with flags := q.flags ||| 2 ^ 11 ||| 2 ^ 10 }) (placeBill r s)
    raise 0x0B02 .all (leBytes 8 seq) (mtrFlag 0 s)

/-- The entry of point `p` that an activation changed has closed its last cycle: the configuration-change record is logged (Table 11-3). -/
def mtrSwitch (p : Nat) (s : State) : State :=
  match (mtrOf s p).old with
  | none => s
  | some o =>
    let (b, s) := mkBill 0x0B06 p 0 (cycNs s o.stop) 0 o.body s
    let is := ptValid s.cfg.active p
    modMtr p (fun q => { q with
      old := none, flags := q.flags ||| 2 ^ 9, from_ := 0
      next := if is then some o.stop else none }) (saveBill b s)

/-- The next cycle of point `p` closes, once all of its samples are final (R297). -/
def closeNext (p : Nat) (s : State) : State :=
  match (mtrOf s p).next with
  | none => s
  | some y =>
    let im := ptIm s p y
    let n := cycLen im s p
    if mtrFinal im s p ((y + 1) * n - 1) then
      let t0 := cycNs s y
      let t1 := cycNs s (y + 1)
      let s := registerCycle im p (max (mtrOf s p).from_ (y * n)) ((y + 1) * n - 1) t0 t1 s
      let s := supplyRestore p t0 (modMtr p (fun q => { q with next := some (y + 1), from_ := 0 }) s)
      let s := if (y + 1) % f0 s = 0 ∧ intervalEnd im s p ((y + 1) / f0 s) then intervalBill p t1 s else s
      if (mtrOf s p).old.any (fun o => decide (o.stop ≤ y + 1)) then mtrSwitch p s else s
    else s

/-- CYCLE_CLOSE (R297): the next cycle of point `p`. -/
def execCycleClose (p : Nat) (s : State) : Out := act s fun s =>
  if (ptValid s.cfg.active p || (mtrOf s p).old.isSome) && hasTime s then closeNext p s else s

/-- The cycle in progress of point `p` closes at its last final sample, behind every cycle that is whole, and the point is committed
(R304, R306). -/
def closePartial (p : Nat) (s : State) : State :=
  let whole := match (mtrOf s p).next, mtrLastFinal (ptIm s p ((mtrOf s p).next.getD 0)) s p with
    | some y, some a => a / max 1 (cycLen (ptIm s p y) s p) + 1 - y
    | _, _ => 0
  let s := (List.range whole).foldl (fun s _ => closeNext p s) s
  match (mtrOf s p).next with
  | none => mtrCommit p s
  | some y =>
    let im := ptIm s p y
    let n := cycLen im s p
    let lo := max (mtrOf s p).from_ (y * n)
    match mtrLastFinal im s p with
    | none => mtrCommit p s
    | some a =>
      let hi := min a ((y + 1) * n - 1)
      if hi < lo then mtrCommit p s
      else registerCycle im p lo hi (cycNs s y) (mtrNs im p hi) (modMtr p (fun q => { q with from_ := hi + 1 }) s)

/-! ## Power quality (R310 to R312) -/

def pqOn (im : Image) (p : Nat) : Bool := ptValid im p && imBit im secMTR_POINT p 0 27

/-- UDIN × k / d, binary32. -/
def pqThr (im : Image) (p k d : Nat) : Word := f32div (f32mul (imWord im secMTR_POINT p 3) (f32ofInt k)) (f32ofInt d)

/-- A value of Urms(1/2): sqrt(Σ y² / L), formed in binary64 and rounded to binary32; none if a sample is absent. -/
def urms (s : State) (p j start : Nat) : Option Word :=
  let n := cycLen s.cfg.active s p
  let ys := (upFrom start n).map (useY s j)
  if ys.any (·.isNone) then none
  else
    let sum := ys.foldl (fun acc y => fadd fmt64 acc (term y y)) 0
    some (w32 (fconv fmt64 fmt32 (fsqrt fmt64 (fdiv fmt64 sum (fromIntRat fmt64 n 1)))))

/-- An ended event becomes a PQ record, or is suppressed (R312, Table 11-7). KIND 1 dip, 2 swell, 3 interruption. -/
def pqEnd (p kind tEnd : Nat) (forced : Bool) (thr : Nat) (e : PqEv) (s : State) : State :=
  let im := s.cfg.active
  let udin := imWord im secMTR_POINT p 3
  let s := mtrFlag 2 (mtrCount (2 + kind) s)
  let s := modMtr p (fun q => { q with pqEvents := q.pqEvents + 1, flags := q.flags ||| 2 ^ 8 }) s
  if 64 ≤ (mtrOf s p).pqRecs then mtrCount 6 s
  else
    let fl := b2n forced + 2 * b2n (e.intrIn && kind == 1) + 4 * b2n e.missing + 8 * b2n e.fallback
    let body := leBytes 1 kind ++ leBytes 1 e.mask ++ leBytes 1 e.extCh ++ leBytes 1 fl ++ leBytes 4 e.ext.toNat ++
      leBytes 4 (f32div (f32mul e.ext (f32ofInt 100)) udin).toNat ++ leBytes 4 udin.toNat ++ leBytes 4 (f32ofInt thr).toNat ++
      leBytes 8 ((tEnd - e.start) / 1000)
    let (b, s) := mkBill 0x0B04 p 0 e.start tEnd body s
    saveBill { b with tq := fld e.tq 8 0, vintage := e.vintage } (modMtr p (fun q => { q with pqRecs := q.pqRecs + 1 }) s)

/-- An event after a value: extreme and mask. `low` takes the lowest. -/
def pqExt (low : Bool) (ch : Nat) (crossed fb : Bool) (v : Option Word) (e : PqEv) : PqEv :=
  match v with
  | some x =>
    let better := if low then f32lt x e.ext else f32lt e.ext x
    { e with ext := if better then x else e.ext, extCh := if better then ch else e.extCh
             mask := if crossed then e.mask ||| 2 ^ ch else e.mask, fallback := e.fallback || fb }
  | none => { e with missing := true, fallback := e.fallback || fb }

/-- The rules of Table 11-5 after channel `ch` of point `p` gave the value `v` with timestamp `ts`. -/
def pqRules (p ch ts : Nat) (fb : Bool) (v : Option Word) (s : State) : State :=
  let im := s.cfg.active
  let dipT := pqThr im p (ptF im p 4 31 24) 100
  let swT := pqThr im p (ptF im p 4 23 16) 100
  let inT := pqThr im p (ptF im p 4 15 8) 100
  let h := pqThr im p (ptF im p 4 7 0) 1000
  let chs := ptChans im p
  let s := modMtr p (fun q => { q with chs := fmod q.chs ch {} (fun c => { c with val := v }), lastTs := ts }) s
  let vals := chs.map (fun k => (fgetD (mtrOf s p).chs k {}).val)
  let any := fun (t : Word → Bool) => vals.any (fun x => x.any t)
  let every := fun (t : Word → Bool) => vals.all (fun x => x.any t)
  let mk := fun (x : Word) => ({ start := ts, tq := logAt s.tb.tqLog ts s.tb.tq, vintage := im.vintage, ext := x, extCh := ch, mask := 2 ^ ch, fallback := fb } : PqEv)
  -- open events see the value
  let s := modMtr p (fun q => { q with
    dip := q.dip.map (pqExt true ch (v.any (fun x => f32lt x dipT)) fb v)
    swell := q.swell.map (pqExt false ch (v.any (fun x => f32lt swT x)) fb v)
    intr := q.intr.map (pqExt true ch (v.any (fun x => f32lt x inT)) fb v) }) s
  match v with
  | none => s
  | some x =>
    -- starts
    let s := modMtr p (fun q => { q with
      dip := if q.dip.isNone && f32lt x dipT then some (mk x) else q.dip
      swell := if q.swell.isNone && f32lt swT x then some (mk x) else q.swell
      intr := if q.intr.isNone && every (fun y => f32lt y inT) then some { mk x with mask := sumN (chs.map (2 ^ ·)) } else q.intr }) s
    let s := modMtr p (fun q => { q with
      dip := q.dip.map (fun e => { e with intrIn := e.intrIn || q.intr.isSome })
      flags := q.flags ||| b2n (q.dip.isSome || q.swell.isSome || q.intr.isSome) * 2 ^ 8 }) s
    -- ends
    let q := mtrOf s p
    let s := match q.intr with
      | some e => if any (fun y => f32le (f32add inT h) y) then
          pqEnd p 3 ts false (ptF im p 4 15 8) e (modMtr p (fun q => { q with intr := none }) s) else s
      | none => s
    let s := match q.dip with
      | some e => if every (fun y => f32le (f32add dipT h) y) then
          pqEnd p 1 ts false (ptF im p 4 31 24) e (modMtr p (fun q => { q with dip := none }) s) else s
      | none => s
    match q.swell with
      | some e => if every (fun y => f32le y (f32sub swT h)) then
          pqEnd p 2 ts false (ptF im p 4 23 16) e (modMtr p (fun q => { q with swell := none }) s) else s
      | none => s

/-- Open events of point `p` end at the last value, with END_FORCED (R311). Detection goes on at the next sample, without a window. -/
def pqForce (p : Nat) (s : State) : State :=
  let im := s.cfg.active
  let q := mtrOf s p
  let s := modMtr p (fun q => { q with dip := none, swell := none, intr := none, chs := [] }) s
  let put := fun (kind thr : Nat) (e : Option PqEv) (s : State) => match e with
    | some e => pqEnd p kind q.lastTs true thr e s
    | none => s
  put 2 (ptF im p 4 23 16) q.swell (put 1 (ptF im p 4 31 24) q.dip (put 3 (ptF im p 4 15 8) q.intr s))

/-- Sample `a` of channel `ch`: a window may start, and a window may be complete (R310). The first window starts at a crossing. -/
def pqSamp (p a : Nat) (s : State) (e : Nat × Nat) : State :=
  let (ch, j) := e
  let n := cycLen s.cfg.active s p
  let c := fgetD (mtrOf s p).chs ch {}
  let x := useY s j a
  let neg := fun (w : Word) => f32lt w 0#32
  let cross := match c.prev, x with
    | some w, some x => neg w != neg x
    | _, _ => false
  let starts := cross && c.ws.all (fun w => decide (w + 3 * n / 8 < a))
  let falls := !starts && c.ws.any (fun w => decide (w + 5 * n / 8 ≤ a))
  let wins := if starts || falls then c.wins ++ [(a, falls)] else c.wins
  let s := if falls then mtrCount 8 s else s
  let s := modMtr p (fun q => { q with chs := fset q.chs ch { c with
    prev := x, ws := if starts || falls then some a else c.ws, wins := wins.filter (fun w => decide (a + 1 < w.1 + n)) } }) s
  match wins.find? (fun w => a + 1 == w.1 + n) with
  | some (w, fb) => pqRules p ch (mtrNs s.cfg.active p w) fb (urms s p j w) s
  | none => s

/-- The samples of point `p` that its voltage slots have given pass through PQ detection. -/
def pqRun (p : Nat) (s : State) : State :=
  let im := s.cfg.active
  let js := ptVolts im p
  let heads := js.filterMap (fun j => (svSlotOf s j).ys.head?.map (·.a))
  let tails := js.filterMap (fun j => (svSlotOf s j).ys.getLast?.map (·.a))
  match heads, tails with
  | h :: hs, t :: ts =>
    let hi := hs.foldl min h
    let lo := (mtrOf s p).pqNext.getD (ts.foldl min t)
    if hi < lo then s
    else
      let s := (upFrom lo (hi + 1 - lo)).foldl (fun s a => ((ptChans im p).zip js).foldl (pqSamp p a) s) s
      modMtr p (fun q => { q with pqNext := some (hi + 1) }) s
  | _, _ => s

/-- PQ detection on every point, after samples have become final. -/
def pqAll (s : State) : State :=
  (imValid s.cfg.active secMTR_POINT).foldl (fun s p => if pqOn s.cfg.active p then pqRun p s else s) s

/-- A timebase restart (R306): the cycle in progress closes at its last final sample, PARTIAL; open PQ events end. -/
def mtrRestart (s : State) : State :=
  (imValid s.cfg.active secMTR_POINT).foldl (fun s p =>
    modMtr p (fun q => { q with next := none, from_ := 0, pqNext := none, flags := q.flags ||| 2 ^ 10 })
      (mtrSwitch p (pqForce p (closePartial p s)))) s

/-- Every point commits at a supply loss at `ns`, with a supply-loss body (R304), and its open PQ events end (R311). TS2 is 0 for a point that has
metered no sample since its start: the spec states none. DESIGN CHOICE (assumption 219). -/
def mtrSupplyLoss (ns : Nat) (s : State) : State :=
  (imValid s.cfg.active secMTR_POINT).foldl (fun s p =>
    let s := pqForce p (closePartial p s)
    let (b, s) := mkBill 0x0B02 p 0 ns (mtrOf s p).last (totBytes (mtrOf s p).regs) s
    { s with nv := { s.nv with lossBodies := s.nv.lossBodies ++ [b] } }) s

/-- The bytes of an image's metering point section. -/
def pointSection (im : Image) : List Byte := (imRecs im secMTR_POINT).flatMap bytesLE

/-- Point `p` after an activation at TAI second `sec` from vintage `old` (Table 11-3). The activation second is a cycle boundary: cycles before it
close under the old entry, and then the new one holds. PQ detection starts anew at that second. -/
def mtrActivate (old : Image) (sec p : Nat) (s : State) : State :=
  let new := s.cfg.active
  let pq := some (sec * ptFs new p)
  if imRec old secMTR_POINT p == imRec new secMTR_POINT p then s
  else if ptValid old p then
    let body := leBytes 4 old.vintage ++ leBytes 4 new.vintage ++ padTo 32 (sha3_256 (pointSection old)) ++
      padTo 32 (sha3_256 (pointSection new))
    let s := modMtr p (fun q => { q with pqNext := pq, old := some { words := imRec old secMTR_POINT p, stop := sec * f0 s, body := body } }) s
    if (mtrOf s p).next.all (fun y => decide (sec * f0 s ≤ y)) then mtrSwitch p s else s
  else if ptValid new p then
    modMtr p (fun _ => { next := some (sec * f0 s), pqNext := pq, flags := 4 + 2 ^ 10, regs := List.replicate 7 {} }) s
  else s

/-! ## MTR_CTRL (R302, R317, R319) -/

/-- MTR_SNAP (R302): function `n` latches every register as of the latest commit. -/
def execMtrSnap (n : Nat) (s : State) : Out := act s fun s =>
  if !validFn s n then deniedInvalid n s
  else
    let regs := s.mtr.pts.flatMap (fun (p, q) => (q.regs.zip (List.range 7)).map (fun (g, r) => (p * 8 + r, g)))
    let sec := s.mtr.lastEnd / 1000000000
    let s := modFn s n (fun f => { f with mtrLatch := regs })
    let s := setFnReg s n (MTR + 0x10) (BitVec.ofNat 32 sec)
    let s := setFnReg s n (MTR + 0x14) (BitVec.ofNat 32 (sec / 2 ^ 32))
    setFnReg s n (MTR + 0x18) (BitVec.ofNat 32 (s.mtr.lastEnd % 1000000000))

/-- A refused write of the MTR block. -/
def mtrRefuse (n reason : Nat) (s : State) : State := raise 0x0B08 (.fnOnly n) (leBytes 1 reason) s

/-- MTR_RELEASE (R317): records up to MTR_REL are freed, and pending bodies are logged. -/
def execMtrRelease (n key : Nat) (s : State) : Out := act s fun s =>
  if !validFn s n then deniedInvalid n s
  else if key ≠ 0x4D7E then mtrRefuse n 1 s
  else if !mtrAdmin s n then mtrRefuse n 2 s
  else
    let lim := s.mtr.rel
    drainPend 64 { s with nv := { s.nv with log := s.nv.log.filter (fun e => decide (lim < e.1)) } }

/-- The short register of register `r` of point `p` as function `n` latched it (R303). -/
def shortReg (s : State) (n p r : Nat) : Word :=
  let g := fgetD (fnOf s n).mtrLatch (p * 8 + r) {}
  BitVec.ofNat 32 ((g.wrap * 2 ^ 64 + g.tot) / 1000)

end Sys2Proof.Machine
end

