-- ==== Sys2Proof/Machine/Loading.lean ====
section
/-!
DEFINITION. Sys2Proof/Machine/Loading.lean: taking the bytes of an image apart and the load checks of Table 14-11 (R368 to R383).
-/
namespace Sys2Proof.Machine

/-! ## Layout (R368 to R373) -/

/-- A section table entry (Table 14-2). `resv` says that its reserved bytes are zero. -/
structure SecEnt where
  typ : Nat
  sver : Nat
  ofs : Nat
  len : Nat
  nrec : Nat
  recsz : Nat
  resv : Bool
  hash : List Byte
  deriving DecidableEq, Repr

def hdrBodyLen (raw : List Byte) : Nat := leAt raw 8 4
def hdrImgLen (raw : List Byte) : Nat := leAt raw 0xC 4
def hdrVintage (raw : List Byte) : Nat := leAt raw 0x10 4
def hdrFlags (raw : List Byte) : Nat := leAt raw 0x16 2
def hdrSigned (raw : List Byte) : Bool := Nat.testBit (hdrFlags raw) 0
def hdrNsect (raw : List Byte) : Nat := leAt raw 0x1C 2

/-- The section table entry `i`. -/
def secEnt (raw : List Byte) (i : Nat) : SecEnt :=
  let e := slice raw (256 + 64 * i) 64
  { typ := leAt e 0 2, sver := leAt e 2 2, ofs := leAt e 4 4, len := leAt e 8 4, nrec := leAt e 0xC 4, recsz := leAt e 0x10 2,
    resv := (slice e 0x12 14).all (· == 0#8), hash := slice e 0x20 32 }

/-- The section table. -/
def secEnts (raw : List Byte) : List SecEnt := (List.range (hdrNsect raw)).map (secEnt raw)

/-- The bytes of a section. -/
def secBytes (raw : List Byte) (e : SecEnt) : List Byte := slice raw e.ofs e.len

/-- `n` records of `z` bytes; a record of 1 or 2 bytes is one word. -/
def cutRecs (z : Nat) : Nat → List Byte → List (List Word)
  | 0, _ => []
  | n + 1, bs => wordsLE (ceilDiv z 4) (bs.take z) :: cutRecs z n (bs.drop z)

/-- The entries of a NAME section (R382); none when it does not end where an entry ends. -/
def cutNames : Nat → List Byte → Option (List NameEnt)
  | 0, bs => if bs.isEmpty then some [] else none
  | n + 1, bs =>
    if bs.isEmpty then some []
    else
      let l := leAt bs 2 2
      let z := 8 + ceilDiv l 4 * 4
      if bs.length < z then none
      else (cutNames n (bs.drop z)).map (fun r =>
        { kind := beAt bs 0 1, index := leAt bs 4 4, text := slice bs 8 l
          clean := beAt bs 1 1 == 0 && (slice bs (8 + l) (z - 8 - l)).all (· == 0#8) } :: r)

/-- The image that the bytes spell. -/
def parseImage (raw : List Byte) : Image :=
  let es := secEnts raw
  { vintage := hdrVintage raw, f0 := beAt raw 0x15 1, signed := hdrSigned raw, paired := Nat.testBit (hdrFlags raw) 1,
    costLtr := beAt raw 0x18 1, costNum := beAt raw 0x19 1, costRev := leAt raw 0x1A 2, minFw := leAt raw 0x24 4,
    check := slice raw (hdrBodyLen raw) 32,
    sects := (es.filter (fun e => e.typ != secNAME)).map
      (fun e => ⟨e.typ, cutRecs e.recsz (min e.nrec (e.len / max 1 e.recsz)) (secBytes raw e)⟩),
    names := match es.find? (fun e => e.typ == secNAME) with
      | some e => (cutNames (secBytes raw e).length (secBytes raw e)).getD []
      | none => [] }

/-! ## The section types (Table 14-3): record size, capacity (Table 1-10), and the bits of each word that are neither reserved nor
"run" -/

structure SecKind where
  typ : Nat
  recsz : Nat
  cap : Nat
  masks : List Word
  deriving DecidableEq, Repr

def ones (n : Nat) : List Word := List.replicate n 0xFFFFFFFF#32
def noBits (n : Nat) : List Word := List.replicate n 0#32

def secKinds1 : List SecKind :=
  [⟨0x01, 8, 65536, ones 2⟩, ⟨0x02, 32, 4, 0xE000FFFF#32 :: ones 2 ++ noBits 5⟩, ⟨0x03, 8, 16384, [0xFFFFFFFF#32, 0x0087FFFF#32]⟩,
   ⟨0x04, 16, 65536, [0xFF001FFF#32, 0xFFFF0FFF#32, 0xFFFFFFFF#32, 0xFFFF0000#32]⟩, ⟨0x08, 4, 4096, [0x800000FF#32]⟩,
   ⟨0x09, 4, 256, [0x8000003F#32]⟩, ⟨0x0A, 4, 64, [0x80000003#32]⟩,
   ⟨0x10, 96, 8192, [0xFF3FFFFF#32, 0xFFFFC000#32, 0xFFFF01FF#32, 0xFFFFFC0F#32, 0xFFFFFFF0#32, 0x00FFFFFF#32, 0xFFFFFFFF#32,
     0x0FFF1FFF#32, 0xFFFFFFFF#32, 0xFFFFE000#32] ++ ones 8 ++ noBits 6⟩,
   ⟨0x11, 16, 65536, [0xFFFF01FF#32, 0xFFFFFFFF#32, 0xFFFFFFFF#32, 0xFF00FFFF#32]⟩,
   ⟨0x12, 16, 64, [0xFFFFF0FF#32, 0xFFFDFFFF#32, 0#32, 0#32]⟩, ⟨0x13, 8, 4096, [0xFFFFFFFE#32, 0xFFFF0000#32]⟩,
   ⟨0x14, 2, 65536, [0xBFFF#32]⟩, ⟨0x20, 92, 32, [0xFFFFFFFF#32, 0xFFFFFFFF#32, 0xFFFF1FFF#32, 0x0FFF007F#32] ++ ones 17 ++ noBits 2⟩,
   ⟨0x21, 16, 256, [0xFFFF00FF#32, 0xFFFFFFFF#32, 0xFFFFFFFF#32, 0#32]⟩,
   ⟨0x22, 64, 32, [0xDF001FFF#32, 0x000000FF#32] ++ List.replicate 12 0xE0FFE0FF#32 ++ noBits 2⟩]

def secKinds2 : List SecKind :=
  [⟨0x30, 32, 4096, [0xFFFFFFFF#32, 0xFFFFFF00#32, 0xFFFFFFFF#32, 0xFFFFFFFF#32, 0x1FFF#32, 0xFFFFFFFF#32, 0#32, 0#32]⟩,
   ⟨0x31, 128, 255, ones 32⟩, ⟨0x32, 48, 256, 0x8FFFFF00#32 :: ones 4 ++ 0xFFFFFF80#32 :: noBits 6⟩, ⟨0x33, 2, 16384, [0x0FFF#32]⟩,
   ⟨0x34, 32, 4096, 0xFE000FFF#32 :: ones 5 ++ noBits 2⟩, ⟨0x40, 16, 4096, [0x80FFFFFF#32, 0xFFFF8000#32, 0#32, 0#32]⟩,
   ⟨0x41, 32, 256, [0xE000FF00#32, 0xFFFFFFFF#32, 0xFFFFFFFF#32] ++ noBits 5⟩,
   ⟨0x42, 48, 1024, [0xC0FFFFFF#32, 0xFFFF1FFF#32, 0xFFFFFFFF#32] ++ noBits 9⟩,
   ⟨0x43, 16, 4096, [0xFFF00000#32, 0xFFFFE00F#32, 0xFFFFE00F#32, 0#32]⟩,
   ⟨0x44, 32, 16384, [0xFFFFF000#32, 0xFFFFFFFF#32, 0xFFFFFFFF#32, 0xFFFFFFFF#32, 0xFFFFF00F#32, 0x00FFFFFF#32, 0#32, 0#32]⟩,
   ⟨0x50, 32, 16, [0xFFFFF3FF#32, 0xFFFFFFF8#32, 0xFFFFFFFF#32] ++ noBits 5⟩,
   ⟨0x51, 24, 16384, [0xFFFCFFFF#32, 0xFFFF0000#32, 0xFFFFFFFF#32, 0xFFFFFF00#32, 0xFFFFFFFF#32, 0#32]⟩,
   ⟨0x52, 4, 65536, [0xFFFFFFFF#32]⟩, ⟨0x53, 32, 256, [0xFFFFFFFF#32, 0xFFFC0000#32, 0xFFFFFE00#32] ++ noBits 5⟩,
   ⟨0x54, 112, 512, [0xF7FFFFFF#32, 0xFFFFFFFF#32, 0xFFFFFFFF#32, 0xFFFFFFFF#32, 0xFFFFFFFF#32, 0x0FFF1FFF#32, 0xFFFF007F#32,
     0xFFFFFFFF#32, 0xFFFFFFF0#32, 0xFFF80000#32] ++ ones 16 ++ noBits 2⟩]

def secKinds3 : List SecKind :=
  [⟨0x55, 8, 16384, [0xFFF8FFFF#32, 0x00000FFF#32]⟩, ⟨0x56, 16, 16384, 0xF0003FFF#32 :: ones 3⟩, ⟨0x57, 1, 524288, [0x0F#32]⟩,
   ⟨0x60, 32, 32, [0xFF3FFF00#32, 0xFFFFFFFF#32, 0xFFFFF000#32, 0xFFFFF000#32, 0xFFFFFF00#32] ++ noBits 3⟩,
   ⟨0x61, 2, 65536, [0xFFFF#32]⟩,
   ⟨0x62, 32, 1024, [0xFFF80000#32, 0xFFFFFFFF#32, 0xFFFFFFFF#32, 0xFFFFFFFF#32, 0xFFFFF000#32, 0x00FFFFFF#32, 0#32, 0#32]⟩,
   ⟨0x68, 32, 32, [0xF8000FFF#32, 0xFFFFFF00#32, 0xFFFFFF00#32] ++ ones 3 ++ noBits 2⟩,
   ⟨0x69, 16, 8, [0xFF81FFFF#32, 0xFFFFFFFF#32, 0#32, 0#32]⟩,
   ⟨0x70, 48, 256, [0xFF3FFFFF#32, 0xFFFFE00F#32, 0xFFFFFCFF#32, 0xFFFF1FFF#32, 0x00FFFFFF#32] ++ ones 5 ++ [0xFF802000#32, 0#32]⟩,
   ⟨0x71, 2, 8192, [0x1FFF#32]⟩, ⟨0x72, 4, 8192, [0xF000FFFF#32]⟩,
   ⟨0x73, 48, 256, [0xFFFFC000#32, 0xFFFF1FFF#32] ++ ones 4 ++ [0xFFFF1FFF#32, 0xFFFFFFFF#32, 0xFFFFFFFF#32, 0xFF800000#32, 0#32, 0#32]⟩,
   ⟨0x74, 16, 16, [0xF000FFFF#32, 0xFFFFFFFF#32, 0#32, 0#32]⟩, ⟨0xA0, 32, 65536, 0xFFFF0000#32 :: ones 6 ++ [0#32]⟩,
   ⟨0xF0, 0, 0, []⟩]

def secKinds : List SecKind := secKinds1 ++ secKinds2 ++ secKinds3

/-- The kind of a section type. -/
def secKind (t : Nat) : Option SecKind := secKinds.find? (fun k => k.typ == t)

/-! ## Checks 1 to 11 -/

/-- The outcome of a load: REASON (0 passed), LINE, TYPE and RECORD. -/
structure LoadRes where
  reason : Nat := 0
  line : Nat := 0xFF
  typ : Nat := 0
  record : Nat := 0
  deriving DecidableEq, Repr

/-- Check 1. -/
def headOk (raw : List Byte) : Bool :=
  slice raw 0 4 == [0x4C#8, 0x4D#8, 0x56#8, 0x4F#8] && leAt raw 4 2 == 1 && leAt raw 6 2 == 256 && leAt raw 0x14 1 == 7 &&
  leAt raw 0x20 4 == 256

/-- Check 2. -/
def lengthOk (raw : List Byte) : Bool :=
  let b := hdrBodyLen raw
  decide (hdrImgLen raw ≤ 134217728) && b % 8 == 0 && decide (256 ≤ b) &&
  hdrImgLen raw == b + (if hdrSigned raw then 2456 else 32)

/-- Check 3. -/
def checkWordOk (raw : List Byte) : Bool :=
  let b := hdrBodyLen raw
  decide (hdrImgLen raw ≤ raw.length) && sha3_256 (slice raw 0 b) == slice raw b 32

/-- Check 4: R371 by the life-cycle state. -/
def lcAdmits (s : State) (signed : Bool) : Bool :=
  if s.fuses.tlock then false
  else if s.fuses.lc = 1 ∨ s.fuses.lc = 2 then true
  else if s.fuses.lc = 3 then signed else false

/-- Check 5 (R370). -/
def signatureOk (s : State) (raw : List Byte) : Bool :=
  let b := hdrBodyLen raw
  if hdrSigned raw then
    slice raw 0x38 8 == (sha3_256 s.nv.imageKey).take 8 &&
    mldsaVerify s.nv.imageKey (ascii "PZ7-LEMVO") (slice raw 0 (b + 32)) (slice raw (b + 32) 2420) &&
    slice raw (b + 2452) 4 == zeros 4
  else true

/-- One section table entry against its type: SVER, RECSZ, LEN, reserved bytes, and its place after `lo`. -/
def entOk (raw : List Byte) (lo : Nat) (e : SecEnt) : Bool :=
  match secKind e.typ with
  | none => false
  | some k => e.sver == 1 && e.recsz == k.recsz && e.resv && e.ofs % 8 == 0 && decide (lo ≤ e.ofs) &&
      decide (e.ofs + e.len ≤ hdrBodyLen raw) && (slice raw lo (e.ofs - lo)).all (· == 0#8) &&
      (if k.recsz = 0 then (cutNames e.len (secBytes raw e)).isSome else e.len == e.nrec * e.recsz) &&
      (e.typ != secPARTITION || e.nrec == 4)

/-- The first section that breaks R372, by its TYPE. Entries ascend, sections follow one another, and the bytes between and after
them are zero. -/
def tableFault (raw : List Byte) : Nat → Nat → List SecEnt → Option Nat
  | lo, _, [] => if (slice raw lo (hdrBodyLen raw - lo)).all (· == 0#8) then none else some 0
  | lo, t, e :: es => if t < e.typ ∧ entOk raw lo e then tableFault raw (e.ofs + e.len) e.typ es else some e.typ

/-- Check 10. -/
def tableCheck (raw : List Byte) : Option Nat :=
  let es := secEnts raw
  let n := hdrNsect raw
  if n < 3 ∨ 128 < n then some 0
  else match tableFault raw (256 + 64 * n) 0 es with
    | some t => some t
    | none => [secREGS, secPARTITION, secBUDGET].find? (fun t => !(es.any (fun e => e.typ == t)))

/-- Check 11. -/
def hashFault (raw : List Byte) : Option Nat :=
  ((secEnts raw).find? (fun e => sha3_256 (secBytes raw e) != e.hash)).map (·.typ)

/-! ## Check 12: the registers -/

/-- `n` lies from `lo` to `hi`. -/
def within (lo hi n : Nat) : Bool := decide (lo ≤ n) && decide (n ≤ hi)

/-- The rates of Table 5-1. -/
def rateOk (f0 f : Nat) : Bool :=
  if f0 = 50 then [10, 20, 25, 50, 100, 200].contains f else [10, 12, 15, 20, 30, 60, 120, 240].contains f

/-- The range rules of a REGS record's value, by its offset. -/
def regRange (f0 off : Nat) (v : Word) : Bool :=
  let n := (off - ETH) / 0x1000
  if off = TB + 8 then decide (1 ≤ fld v 31 24) && [fld v 11 8, fld v 7 4, fld v 3 0].all (fun r => decide (r ≤ 3))
  else if off = TB + 0xC then decide (1 ≤ fld v 31 16) && within 1 50 (fld v 5 0)
  else if off = TB + 0x4C then
    decide (fld v 3 2 ≤ 1) && decide (fld v 1 0 ≤ 2) && [fld v 11 8, fld v 7 4].all (fun p => decide (p < 12) || p == 15) &&
    decide (((List.range 12).filter (fun k => bit v (12 + k))).length ≤ 10)
  else if off = TB + 0x64 then decide (8 ≤ fld v 7 0)
  else if off = TB + 0x68 then within 1 (1024 * f0 - 1) (fld v 15 0)
  else if ETH ≤ off ∧ off < ETH + 0xE000 then
    let m := fld v 2 0
    if off % 0x1000 = 0 then
      (if n < 8 then decide (m ≤ 3) && within 1518 9216 (fld v 31 18)
       else if n < 12 then (m == 0 || m == 4 || m == 5) && within 1518 2048 (fld v 31 18)
       else if n = 12 then (m == 0 || m == 5 || m == 6) && within 1518 2048 (fld v 31 18)
       else (m == 0 || m == 2) && fld v 31 18 == 9216 && !bit v 11)
    else if off % 0x1000 = 0xC then within 2 99 (fld v 15 8) && within 1 (fld v 15 8 - 1) (fld v 7 0)
    else if off % 0x1000 = 0x10 then decide (1 ≤ fld v 3 0)
    else true
  else if off = ING + 8 then within 1 240 (fld v 31 24) && within 1 64 (fld v 23 16)
  else if off = ING + 0xC then decide (18 ≤ fld v 15 0)
  else if off = ING + 0x10 then decide (fld v 31 0 ≤ 8192)
  else if off = SVF + 0xC then decide (16 ≤ fld v 31 22)
  else if ISL + 0x40 ≤ off ∧ off < ISL + 0x50 then !bit v 31 || (decide (1 ≤ fld v 23 16) && rateOk f0 (fld v 15 8))
  else if off = CAP + 0x18 then fld v 31 23 % 2 == 0 && decide (1 ≤ fld v 15 0)
  else if off = PAIR then decide (fld v 31 30 ≤ 2) && fld v 28 20 % 2 == 0
  else if off = PAIR + 0x1C then decide (fld v 31 28 < 12) || fld v 31 28 == 15
  else if PAIR + 0x200 ≤ off ∧ off < PAIR + 0x300 ∧ off % 8 = 0 then fld v 28 20 % 2 == 0
  else if off = PWR + 0xC then within 48 170 (fld v 31 24) && within 2 20 (fld v 23 16)
  else true

/-- REGS record `n` (R374). -/
def regOk (im : Image) (n : Nat) : Bool :=
  let off := (imWord im secREGS n 0).toNat
  let v := imWord im secREGS n 1
  (n == 0 || decide ((imWord im secREGS (n - 1) 0).toNat < off)) &&
  match imgRegs.find? (fun r => r.off == off) with
  | none => false
  | some r => v &&& ~~~ r.mask == 0#32 && regRange im.f0 off v

/-- The REGS record that loads offset `off`; 0xFFFF when there is none. -/
def regRecord (im : Image) (off : Nat) : Nat :=
  ((imRecs im secREGS).findIdx? (fun r => (r.getD 0 0#32).toNat == off)).getD 0xFFFF

/-- Pair page `p` keeps R98. -/
def pairPageOk (im : Image) (p : Nat) : Bool :=
  let a := pairA im p
  let b := pairB im p
  a != b && (decide (b < 8) || (decide (8 ≤ a) && decide (b < 12))) &&
  modeSpeed (fld (portCfg im a) 2 0) == modeSpeed (fld (portCfg im b) 2 0) &&
  (List.range p).all (fun q => !pairOn im q || !([pairA im q, pairB im q]).any (fun x => x == a || x == b))

/-- PRP_PEER of port `n` repeats the pairing (R522). -/
def prpPeerOk (im : Image) (n : Nat) : Bool :=
  let peer := match pairOf im n with
    | some p => if pairA im p = n then pairB im p else pairA im p
    | none => 15
  fld (portCfg im n) 15 12 == peer

/-- The REGS rules that join several registers (R375, R522): the first record at fault, 0xFFFF when only missing records are. -/
def regsFault (im : Image) : Option Nat :=
  let ports := ((List.range 14).filter (fun n => !prpPeerOk im n)).map (fun n => regRecord im (portBase n))
  let pages := ((List.range 6).filter (fun p => pairOn im p && !pairPageOk im p)).map (fun p => regRecord im (prpBase p))
  let pair := if im.paired = (fld (imgReg im PAIR) 31 30 == 1) then [] else [regRecord im PAIR]
  match ports ++ pages ++ pair with
  | [] => none
  | r :: l => some (l.foldl min r)

/-! ## Check 12: the other records -/

/-- The number of words of two lists of records that agree in length and stay inside the bounds of the section. -/
def refOk (im : Image) (t base n : Nat) : Bool := decide (base + n ≤ imCount im t)

/-- The fields that a condition or comparator does not read are 0, and those it reads are in range (R523). `x` names the words:
PRIM, DIR, MODE, MISS, THR2, WIDTH, SPAN, TMO. -/
def primRange (prim dir mode miss thr2 width span tmo : Nat) : Bool :=
  decide (prim ≤ 4) && decide (dir ≤ 2) &&
  (if prim = 0 then decide (1 ≤ width) else width == 0) && (if prim = 3 then within 1 8 span else span == 0) &&
  (if prim = 2 then decide (1 ≤ tmo) && dir == 0 && miss == 0 else tmo == 0) &&
  (if prim = 0 ∨ prim = 2 then true else mode == 0) && (if prim = 1 ∨ prim = 4 then true else thr2 == 0)

/-- A stream directory entry (Table 4-1, R126, R137, R145, R117). -/
def strmOk (im : Image) (n : Nat) : Bool :=
  let tr := dirTransport im n
  let c37 := decide (tr ≤ 2)
  let nch := dir im n 2 8 0
  let base := dir im n 2 31 16
  let nph := dir im n 3 31 23
  let nan := dir im n 3 22 16
  let ndg := dir im n 3 15 10
  let kindAt := fun k : Nat => if k < nph then 1 else if k = nph then 2 else if k = nph + 1 then 3
    else if k < nph + 2 + nan then 4 else 5
  decide (tr ≤ 4) && (c37 || !dirPaired im n) && within 1 354 nch && decide (nph ≤ 256) && decide (nan ≤ 64) && decide (ndg ≤ 32) &&
  nch == nph + 2 + nan + ndg && refOk im secCHANNEL base nch && groupEn im (dirGroup im n) &&
  dirRate im n == groupRate im (dirGroup im n) && rateOk im.f0 (dirRate im n) &&
  (tr == 4 || within 1 8 (dir im n 4 7 4)) && (if c37 then decide (1 ≤ dir im n 5 23 0) else dir im n 5 23 0 == 0) &&
  within 1 1000 (dir im n 6 31 22) && (dirPaired im n || tr == 3 || dirAddr im n 14 == 0) &&
  (if c37 then dir im n 4 31 16 == 16 + sumN ((bundle im n).map (blockSize im)) else if tr = 3 then dir im n 4 31 16 == Config.rsvLen nph nan ndg else dir im n 4 31 16 == 0) &&
  (!dirPaired im n || (bundle im n).all (fun m => dir im m 1 19 14 != 0 || decide (2 ≤ dir im m 3 15 10))) &&
  imBit im secSTATION (dir im n 1 31 20) 0 31 &&
  (List.range nch).all (fun k => chanStrm im (base + k) == n && chanPos im (base + k) == k && chanKind im (base + k) == kindAt k)

/-- A channel table entry (Table 4-2). -/
def chanOk (im : Image) (c : Nat) : Bool :=
  let k := chanKind im c
  (k == 0 || dirValid im (chanStrm im c)) &&
  decide (k ≤ 5) && (k == 4 || imWord im secCHANNEL c 2 == 0#32) && decide (chan im c 3 31 24 ≤ 7) && (k == 5 || chan im c 3 15 0 == 0)

/-- A subscription (Table 6-2). -/
def subOk (im : Image) (n : Nat) : Bool :=
  decide (sub im n 0 30 29 ≤ 2) && (sub im n 0 30 29 != 0 || im.f0 == 50) && within 1 8 (sub im n 0 28 25) && within 1 8 (sub im n 0 24 21) && decide (1 ≤ sub im n 0 18 16) &&
  within 1 64 (sub im n 3 6 0) &&
  ((List.range 64).all (fun k => decide (k < sub im n 3 6 0) || sub im n (5 + k / 4) (31 - 8 * (k % 4)) (24 - 8 * (k % 4)) == 0))

/-- A slot (Table 6-12). -/
def slotOk (im : Image) (j : Nat) : Bool :=
  let d := slotF im j 0 26 22
  let q := slotF im j 0 21 16
  decide (slotF im j 0 30 29 ≤ 1) && (d == 0 || within 8 20 d) && (q == 0 || within 1 0x10 q || within 0x20 0x3F q) &&
  subValid im (j / 8) && decide (j % 8 < subChans im (j / 8))

/-- A bay (Table 6-6). -/
def bayOk (im : Image) (b : Nat) : Bool :=
  let n := bayStrm im b
  let fsrc := bay im b 1 7 0
  within 1 24 (bay im b 0 28 24) && dirValid im n && dirTransport im n == 4 && dir im n 3 31 23 == bay im b 0 28 24 &&
  dir im n 3 22 16 == 0 && dir im n 3 15 10 == 0 &&
  (bayDescs im b).all (fun d => decide (d.1 ≤ 3) && (descSlots d).all (fun j => j / 8 == d.2 / 8)) &&
  (descSlots (1, fsrc)).all (fun j => j / 8 == fsrc / 8) &&
  (baySlots im b).all (fun j => slotValid im j && slotFs im j == slotFs im fsrc)

/-- An element's operand types in order, its result type on port 0 (none: it has no port 0), and the number of operands it may take
(Table 14-7, R527). Types: 0 BOOL, 1 INT32, 2 FLOAT32. -/
def elemSig (op typ nin : Nat) : Option (List Nat × Option Nat) :=
  if typ = 0 ∧ ((op = 1 ∨ op = 2) ∧ within 2 16 nin ∨ op = 3 ∧ nin = 2) then some (List.replicate nin 0, some 0)
  else if op = 4 ∧ typ = 0 ∧ nin = 1 then some ([0], some 0)
  else if within 0x08 0x0D op ∧ within 1 2 typ ∧ nin = 2 then some ([typ, typ], some 0)
  else if within 1 2 typ ∧ ((op = 0x14 ∨ op = 0x15) ∧ nin = 1 ∨ (within 0x10 0x13 op ∨ op = 0x16 ∨ op = 0x17) ∧ nin = 2) then
    some (List.replicate nin typ, some typ)
  else if op = 0x18 ∧ typ = 2 ∧ nin = 1 then some ([1], some 2)
  else if op = 0x19 ∧ typ = 1 ∧ nin = 1 then some ([2], some 1)
  else if op = 0x1A ∧ typ ≤ 2 ∧ nin = 3 then some ([0, typ, typ], some typ)
  else if op = 0x1B ∧ typ ≤ 2 ∧ nin = 0 then some ([], some typ)
  else if within 0x20 0x22 op ∧ typ = 0 ∧ nin = 1 then some ([0], some 0)
  else if op = 0x23 ∧ typ = 0 ∧ nin = 4 then some ([0, 0, 0, 0], none)
  else if (op = 0x24 ∨ op = 0x25) ∧ typ = 0 ∧ nin = 1 then some ([0], some 0)
  else if (op = 0x26 ∨ op = 0x27) ∧ typ = 0 ∧ nin = 2 then some ([0, 0], some 0)
  else if (op = 0x28 ∨ op = 0x29) ∧ within 1 2 typ ∧ nin = 1 then some ([typ], some typ)
  else none

def elemOp (im : Image) (e : Nat) : Nat := elemF im e 0 31 26

/-- The signature of element `e`. -/
def sigOfElem (im : Image) (e : Nat) : Option (List Nat × Option Nat) := elemSig (elemOp im e) (elemF im e 0 25 24) (elemF im e 0 23 19)

/-- The type of port `p` of element `e`, if it has that port (R527). -/
def portType (im : Image) (e p : Nat) : Option Nat :=
  if p = 0 then (sigOfElem im e).bind (·.2)
  else if p = 1 ∧ (within 0x20 0x22 (elemOp im e) ∨ elemOp im e = 0x23) then some 1
  else if (p = 2 ∨ p = 3) ∧ elemOp im e = 0x23 then some 0 else none

/-- The task that holds element `e`. -/
def taskOfElem (im : Image) (e : Nat) : Option Nat :=
  (imValid im secSCH_TASK).find? (fun t => (mainElems im t).contains e || (taskStns im t).any (fun n => (errElems im n).contains e))

/-- The type of a station input by its dataset entry (R527). -/
def inType (im : Image) (x : Nat) : Option Nat :=
  ((imValid im secSCH_DATASET).findSome? (fun d =>
    let ts := (dsTypes im d).filter (fun k => decide (k ≤ 7))
    let b := dsF im d 9 31 19
    if b ≤ x ∧ x < b + ts.length then ts[x - b]? else none)).map (fun k => if k = 0 then 0 else if k = 7 then 2 else 1)

/-- The type of an operand of an element of task `t`; none when it names nothing that the task's snapshot holds (R379). -/
def opndType (im : Image) (t : Nat) (w : Word) : Option Nat :=
  let i := fld w 27 0
  let ok := fun (b : Bool) (k : Nat) => if b then some k else none
  match fld w 31 28 with
  | 0 => if fld w 27 19 = 0 ∧ taskOfElem im (fld w 15 0) = some t then portType im (fld w 15 0) (fld w 18 16) else none
  | 1 => ok (imBit im secISL_CMP i 0 31) 0
  | 2 => ok (imBit im secOSC_ALARM i 0 31) 0
  | 3 => ok (imBit im secOSC_MODE i 0 31) 0
  | 4 => ok (fld w 27 12 == 0 && decide (fld w 11 10 ≤ 2) && imBit im secISL_PAIR (fld w 9 0) 0 31) 0
  | 5 => ok (imBit im secISL_CGRP i 0 31) 1
  | 6 => ok (imBit im secVOTE i 0 31) 0
  | 7 =>
    let c := fld w 15 0
    let q := fld w 17 16
    let k := chanKind im c
    if fld w 27 18 ≠ 0 ∨ k = 0 then none else if k = 5 then ok (q == 0) 1 else if k = 1 then some 2 else ok (q == 0) 2
  | 8 => ok (fld w 27 16 == 0 && chanKind im i != 0) 1
  | 9 => inType im i
  | 10 => ok (stnValid im i) 0
  | 11 => ok (decide (i < 16)) 0
  | 12 => ((List.range (imCount im secSCH_POINT)).find? (fun p => imFld im secSCH_POINT p 0 31 29 == 5 &&
      imFld im secSCH_POINT p 1 11 0 == i)).map (fun p => imFld im secSCH_POINT p 0 28 27)
  | 13 => if i ≤ 1 then some 0 else if i = 2 then some 1 else none
  | _ => none

/-- Element `e` is one that its task may hold: its opcode, type and operand count, its STATE and other fields in range (Table 14-6). -/
def elemOk (im : Image) (e : Nat) : Bool :=
  let op := elemOp im e
  let timer := within 0x20 0x22 op
  let edge := op == 0x24 || op == 0x25
  let win := op == 0x28 || op == 0x29
  let st := elemF im e 0 15 0
  (sigOfElem im e).isSome && refOk im secSCH_OPND (elemF im e 1 31 16) (elemF im e 0 23 19) &&
  (if timer ∨ op = 0x23 then decide (st < 1024) else if edge then decide (st < 4096) else if win then decide (st < 256) else st == 0) &&
  (if timer then decide ((imWord im secSCH_ELEM e 2).toNat < 2 ^ 31)
   else op == 0x1B || op == 0x23 || imWord im secSCH_ELEM e 2 == 0#32) &&
  (if op = 0x22 then decide (elemF im e 3 31 16 < 4096) else if op = 0x23 then decide (elemF im e 3 31 16 < 4095)
   else elemF im e 3 31 16 == 0) &&
  (if win then within 1 64 (elemF im e 3 15 8) else elemF im e 3 15 8 == 0) &&
  (if op = 0x26 ∨ op = 0x27 then decide ((imWord im secSCH_ELEM e 4).toNat ≤ 1) else op == 0x23 || imWord im secSCH_ELEM e 4 == 0#32) &&
  (elemF im e 0 25 24 != 0 || op != 0x1B || decide ((imWord im secSCH_ELEM e 2).toNat ≤ 1))

/-- The elements that read operand record `k`. -/
def opndReaders (im : Image) (k : Nat) : List Nat :=
  (List.range (imCount im secSCH_ELEM)).filter (fun e =>
    decide (elemF im e 1 31 16 ≤ k) && decide (k < elemF im e 1 31 16 + elemF im e 0 23 19))

/-- Operand record `k` stands in the snapshot of a task and has the type that its position expects (R379, R527): some element reads it, and
every element that does belongs to a task whose snapshot holds it with that type. -/
def opndOk (im : Image) (k : Nat) : Bool :=
  !(opndReaders im k).isEmpty && (opndReaders im k).all (fun e =>
    match taskOfElem im e, sigOfElem im e with
    | some t, some g => (opndType im t (imWord im secSCH_OPND k 0)).isSome &&
        opndType im t (imWord im secSCH_OPND k 0) == g.1[k - elemF im e 1 31 16]?
    | _, _ => false)

/-- An output point (Table 14-9, R527). -/
def pointOk (im : Image) (p : Nat) : Bool :=
  let k := imFld im secSCH_POINT p 0 31 29
  let num := imFld im secSCH_POINT p 1 11 0
  let t := imFld im secSCH_POINT p 0 25 22
  let e := imFld im secSCH_POINT p 0 15 0
  decide (k ≤ 5) && taskOfElem im e == some t && portType im e (imFld im secSCH_POINT p 0 21 19) == some (imFld im secSCH_POINT p 0 28 27) &&
  (if k ≤ 1 then num == 0 else if k = 2 then decide (num < 32) else if k = 3 then decide (num < 64) else true) &&
  (!(within 1 4 k) || imFld im secSCH_POINT p 0 28 27 == 0) && (!imBit im secSCH_POINT p 0 26 || !voteBound im t)

/-- `a ≤ b` in a parameter's TYPE. -/
def typLe (typ : Nat) (a b : Word) : Bool :=
  if typ = 2 then f32le a b else if typ = 1 then decide (a.toInt ≤ b.toInt) else decide (a.toNat ≤ 1 ∧ b.toNat ≤ 1 ∧ a.toNat ≤ b.toNat)

/-- A parameter value lies in MIN to MAX of its record (R390). -/
def parInRange (im : Image) (k : Nat) (v : Word) : Bool :=
  let t := imFld im secSCH_PARAM k 0 31 30
  typLe t (imWord im secSCH_PARAM k 1) v && typLe t v (imWord im secSCH_PARAM k 2)

/-- A parameter record (Table 9-8). -/
def paramOk (im : Image) (k : Nat) : Bool :=
  let t := imFld im secSCH_PARAM k 0 31 30
  let kind := imFld im secSCH_PARAM k 0 29 28
  let x := imFld im secSCH_PARAM k 0 13 0
  decide (t ≤ 2) && parInRange im k (imWord im secSCH_PARAM k 3) &&
  (if kind = 0 then elemOp im x == 0x1B && elemF im x 0 25 24 == t 
   else if kind = 1 then within 0x20 0x22 (elemOp im x) && t == 1 && decide (0 ≤ (imWord im secSCH_PARAM k 1).toInt)
   else if kind = 2 then elemOp im x == 0x23 && t == 1 else inType im x == some t)

/-- A task (Table 9-12, R248). -/
def taskOk (im : Image) (t : Nat) : Bool :=
  let g := taskGroup im t
  let v := taskF im t 0 23 12
  groupEn im g && (if voteBound im t then imBit im secVOTE v 0 31 && voteGroup im v == g else v == 0) &&
  taskF im t 0 9 0 == (if voteBound im t then ceilDiv (groupWindow im g * groupRate im g) im.f0 + 1 else 1) &&
  within 1 961 (taskF im t 0 9 0) && within 1 16384 (taskF im t 1 17 3) && refOk im secSCH_ELEM (taskF im t 1 31 18) (taskF im t 1 17 3)

/-- A station (Table 9-13). -/
def stnOk (im : Image) (n : Nat) : Bool :=
  within 1 8 (stnF im n 0 26 23) && imBit im secSCH_TASK (stnF im n 0 30 27) 0 31 && (stnDss im n).all (fun d => dsValid im d && dsF im d 0 23 16 == n) &&
  refOk im secSCH_ELEM (stnF im n 0 13 0) (stnF im n 1 31 18) && (errElems im n).all (fun e => imBit im secSCH_ELEM e 0 18) &&
  decide (stnF im n 2 31 19 + stnF im n 2 18 9 ≤ 8192)

/-- A dataset (Table 9-14). -/
def datasetOk (im : Image) (d : Nat) : Bool :=
  decide (1 ≤ dsF im d 0 26 24) && within 1 64 (dsF im d 6 6 0) && decide (1 ≤ dsF im d 8 13 4) &&
  refOk im secSCH_DSENT (dsEntBase im d) (dsF im d 8 13 4) && stnValid im (dsF im d 0 23 16) &&
  (bit (imWord im secSCH_DATASET d 0) 30 || (dsF im d 2 15 0 == 0 && dsF im d 3 31 0 == 0 && dsF im d 4 31 0 == 0))

/-- A vote (R159, R160). -/
def voteOk (im : Image) (v : Nat) : Bool :=
  let n := voteN im v
  groupEn im (voteGroup im v) && refOk im secVOTE_MEMB (imFld im secVOTE v 1 31 16) n &&
  (voteMembers im v).all (fun m =>
    if m < 32768 then imBit im secISL_CMP m 0 31 && cmpPerArr im m && cmpGroup im m == voteGroup im v
    else
      let a := m - 32768
      imBit im secOSC_ALARM a 0 31 && imBit im secOSC_ALARM a 0 27 && !imBit im secOSC_ALARM a 0 28 &&
      sigGroup im (imFld im secOSC_ALARM a 0 11 0) == voteGroup im v)

/-- A recorder (Table 10-1, R271). -/
def recorderOk (im : Image) (r : Nat) : Bool :=
  let n := recNch im r
  decide (recF im r 0 15 8 ≤ 32) && within 1 (if recWave im r then 64 else 8192) n && decide (1 ≤ recPost im r) &&
  refOk im secCAP_CHAN (recF im r 1 31 16) n &&
  (if recWave im r then recGroup im r == 0 && (recChans im r).all (fun x => slotValid im x && slotFs im x == recRate im r)
   else groupEn im (recGroup im r) && (recChans im r).all (fun c => chanKind im c != 0 && chanGroup im c == recGroup im r))

/-- Entry `e` of the slot and channel lists (R271): bits 15:8 are reserved in the list of a waveform recorder. -/
def capChanOk (im : Image) (e : Nat) : Bool :=
  (imValid im secCAP_REC).all (fun r => !recWave im r || !(decide (recF im r 1 31 16 ≤ e) && decide (e < recF im r 1 31 16 + recNch im r)) ||
    imFld im secCAP_CHAN e 0 15 8 == 0)

/-- A capture condition (Table 10-2, R523). -/
def condOk (im : Image) (k : Nat) : Bool :=
  let w := fun i hi lo => imFld im secCAP_COND k i hi lo
  let src := w 0 26 24
  if bit (imWord im secCAP_COND k 0) 30 then
    w 0 29 19 == 0 && w 2 31 0 == 0 && w 3 31 0 == 0 && w 4 31 0 == 0 && w 5 31 0 == 0 && w 1 27 16 == 0 && decide (w 1 31 28 ≤ 9) &&
    (let x := w 1 15 0
     match w 1 31 28 with
     | 0 => decide (x < 16384) | 1 => decide (x < 4096) | 2 => decide (x < 4096) | 3 => decide (x < 1024) | 4 => decide (x < 1024)
     | 5 => decide (x < 64) | 6 => decide (x < 32) | 9 => decide (x < 32) | _ => x == 0)
  else
    -- a TIMEOUT of MODE 1 is reset by any final sample (R276): it reads neither SRC nor CHAN
    let tmo := w 0 29 27 == 2
    (if tmo ∧ w 0 21 21 = 1 then src == 0 && w 1 31 16 == 0
     else (src == 0 || src == 1 || src == 5 || src == 6) && (src == 6) == recWave im (k / 32) && (src != 6 || decide (w 1 31 16 < 256))) &&
    ((src == 5 && !tmo) || w 1 3 0 == 0) && w 1 15 4 == 0 &&
    primRange (w 0 29 27) (w 0 23 22) (w 0 21 21) (w 0 20 20) (w 3 31 0) (w 4 31 16) (w 4 15 12) (w 5 23 0) &&
    (w 0 29 27 != 2 || w 2 31 0 == 0) && (w 0 29 27 != 3 || f32lt 0#32 (imWord im secCAP_COND k 2)) &&
    (w 0 29 27 != 1 || f32lt (imWord im secCAP_COND k 2) (imWord im secCAP_COND k 3)) &&
    (w 0 29 27 != 4 || f32le 0#32 (imWord im secCAP_COND k 3))

/-- The unread fields of a comparator are 0 (R523). -/
def cmpUnread (im : Image) (c : Nat) : Bool :=
  let src := cmpSrc im c
  let b := cmpF im c 1 15 0
  (src == 5 || cmpF im c 4 3 0 == 0) && (if src = 3 ∨ src = 4 then true else if src = 7 then decide (b ≤ 1) else b == 0) &&
  (cmpPrim im c == 0 || cmpF im c 4 31 16 == 0) && (cmpPrim im c == 3 || cmpF im c 4 15 12 == 0) &&
  (cmpPrim im c == 2 || cmpF im c 5 23 0 == 0) && (cmpPrim im c == 1 || cmpPrim im c == 4 || cmpF im c 3 31 0 == 0) &&
  (cmpPrim im c == 0 || cmpPrim im c == 2 || cmpF im c 0 21 21 == 0) &&
  (cmpPrim im c != 2 || (cmpF im c 2 31 0 == 0 && cmpF im c 0 23 22 == 0 && !imBit im secISL_CMP c 0 20 && b == 0 && cmpF im c 4 3 0 == 0)) &&
  (src != 6 || cmpF im c 1 31 24 == 0) && (src != 7 || cmpF im c 1 31 26 == 0)

/-- An output source entry (Table 12-1); a scheme output point is a published one (R380). -/
def outSrcOk (im : Image) (e : Nat) : Bool :=
  let x := (outSrc im e).2
  match (outSrc im e).1 with
  | 0 => decide (x < 16384) | 1 => decide (x < 4096) | 2 => decide (x < 4096) | 3 => decide (x < 1024) | 4 => decide (x < 1024)
  | 5 => decide (x < imCount im secSCH_POINT) && imFld im secSCH_POINT x 0 31 29 == 0 | 6 => decide (x < 16) | 7 => decide (x < 256) | _ => false

/-- An output stream (Table 12-2), without the rules of line 0. -/
def osOk (im : Image) (n : Nat) : Bool :=
  let k := osKind im n
  decide (k ≤ 3) && within 1 64 (osF im n 1 31 25) && (k == 0 || osF im n 1 31 25 == 1) && decide (1 ≤ osF im n 2 7 0) &&
  (k < 2 || osF im n 2 7 0 == 1) && groupEn im (osGroup im n) &&
  (2 ≤ k || (refOk im secOUT_BLOCK (osF im n 2 31 19) (osF im n 1 31 25) &&
    (osBlocks im n).all (fun m => dirValid im m && dirGroup im m == osGroup im n)))

/-- A source is BOOL. -/
def srcBool (im : Image) (e : Nat) : Bool :=
  match (outSrc im e).1 with
  | 5 => imFld im secSCH_POINT (outSrc im e).2 0 28 27 == 0
  | 7 => false
  | _ => true

/-- A hardwired output's source (R337): a BOOL output source entry, or a BOOL scheme output point for a DO level. -/
def doOk (im : Image) (n : Nat) : Bool :=
  let x := imFld im secDO n 0 15 0
  if imBit im secDO n 0 30 then decide (x < imCount im secOUT_SOURCE) && srcBool im x
  else decide (x < imCount im secSCH_POINT) && imFld im secSCH_POINT x 0 31 29 == 1 && imFld im secSCH_POINT x 0 28 27 == 0

/-- A publication (Table 12-6). -/
def gpOk (im : Image) (n : Nat) : Bool :=
  within 1 1022 (gpF im n 0 23 14) && decide (16 ≤ gpF im n 7 31 16) && within 1 3600 (gpF im n 7 15 0) &&
  refOk im secOUT_SOURCE (gpF im n 1 12 0) (gpF im n 0 23 14)

/-- The range and reference rules of record `n` of section `t`, for an entry that is in use. -/
def rangeOk (im : Image) (t n : Nat) : Bool :=
  let f := fun w hi lo => imFld im t n w hi lo
  match t with
  | 0x03 => decide (f 1 18 16 < 6)
  | 0x04 => decide (f 0 28 24 < 8)
  | 0x08 => imBit im secCGRP_AREA (f 0 7 0) 0 31
  | 0x09 => imBit im secAREA (f 0 5 0) 0 31
  | 0x10 => strmOk im n
  | 0x12 => decide (f 0 30 29 ≤ 1) && within 1 240 (f 0 19 12) && rateOk im.f0 (f 0 7 0) && ((groupStrms im n).isEmpty ||
      (within 1 65536 (f 1 16 0) && f 1 31 18 == (groupStrms im n).length && f 1 16 0 == sumN ((groupStrms im n).map (fun m => dir im m 2 8 0))))
  | 0x13 => voteOk im n
  | 0x20 => subOk im n
  | 0x21 => slotOk im n
  | 0x22 => bayOk im n
  | 0x30 => decide (f 0 30 28 ≤ 4) && within 6 15 (f 0 19 16) && decide (1 ≤ f 1 15 8) && within 16 4096 (f 4 12 0) && groupEn im (f 0 27 22) &&
      f32lt 0#32 (imWord im t n 5) && (decide (2 ≤ f 0 30 28) || f 1 31 16 == 0) &&
      (List.range 8).all (fun k => sigLay im n k == 0xFF || decide (sigLay im n k < imCount im secOSC_LAYOUT))
  | 0x32 => decide (1 ≤ f 0 15 8) && within 1 1024 (f 5 17 7) && refOk im secOSC_MEMB (f 5 31 18) (f 5 17 7) && imBit im secOSC_SIGNAL (f 0 27 16) 0 31
  | 0x34 => decide (f 0 30 29 ≤ 2) && decide (1 ≤ f 1 15 0) && (!bit (imWord im t n 0) 27 || !bit (imWord im t n 0) 28) &&
      (f 0 30 29 != 2 || f32le oneW (imWord im t n 5)) && (f 0 30 29 == 1 || f32eq 0#32 (imWord im t n 3)) &&
      (if bit (imWord im t n 0) 28 then imBit im secOSC_MODE (f 0 11 0) 0 31
       else imBit im secOSC_SIGNAL (f 0 11 0) 0 31 && decide (f 1 31 24 ≤ f 1 23 16) && decide (f 1 23 16 < 128))
  | 0x41 => decide (1 ≤ f 0 15 8) && [f 1 31 16, f 1 15 0, f 2 31 16, f 2 15 0].all (fun a => a == 0xFFFF ||
      (imBit im secISL_SIGNAL a 0 31 && imBit im secISL_SIGNAL a 1 15 && imFld im secISL_SIGNAL a 0 23 16 == n))
  | 0x42 => decide (1 ≤ f 0 7 0) && decide (1 ≤ f 1 31 24) && decide (1 ≤ f 1 23 16) && f32lt 0#32 (imWord im t n 2)
  | 0x43 => imBit im secISL_PAIR (f 0 29 20) 0 31 && bit (imWord im t n 1) 13 && (tieChans im n).all (fun c => chanKind im c == 5)
  | 0x44 => cmpUnread im n
  | 0x50 => taskOk im n
  | 0x53 => stnOk im n
  | 0x54 => datasetOk im n
  | 0x60 => recorderOk im n
  | 0x62 => condOk im n
  | 0x69 => ptValid im (f 0 30 26) && decide (f 0 25 23 ≤ 6) && within 5 100000 (f 0 16 0) && decide (1 ≤ f 1 31 0)
  | 0x70 => osOk im n
  | 0x73 => gpOk im n
  | 0x74 => doOk im n
  | _ => true

/-- The rules of sections whose entries have no VALID bit. -/
def listOk (im : Image) (t n : Nat) : Bool :=
  match t with
  | 0x01 => regOk im n
  | 0x11 => chanOk im n
  | 0x14 => true
  | 0x33 => true
  | 0x51 => elemOk im n
  | 0x52 => opndOk im n
  | 0x55 => pointOk im n
  | 0x56 => paramOk im n
  | 0x57 => decide (imFld im t n 0 3 0 ≤ 9)
  | 0x61 => capChanOk im n
  | 0x71 => true
  | 0x72 => outSrcOk im n
  | _ => true

/-- Record `n` of a section passes: no reserved or "run" bit set, and its rules kept. PRP_SRC keeps VALID in byte 6. -/
def recordOk (im : Image) (k : SecKind) (n : Nat) : Bool :=
  let r := imRec im k.typ n
  let valid := if k.typ = 0x03 then imBit im 0x03 n 1 23 else imBit im k.typ n 0 31
  (List.range k.masks.length).all (fun w => r.getD w 0#32 &&& ~~~ (k.masks.getD w 0#32) == 0#32) &&
  listOk im k.typ n && (!valid || rangeOk im k.typ n)

/-- The rules of a section as a whole (R376). -/
def sectionOk (im : Image) (t : Nat) : Bool :=
  if t = secPARTITION then (List.range 4).any (fun n => imBit im t n 0 31 && imBit im t n 0 30) else true

/-- The number of objects that a NAME entry's KIND can index (R382, Table 1-10). -/
def nameCap : Nat → Nat
  | 1 => 8192
  | 2 => 65536
  | 3 => 65536
  | 8 => 32
  | 9 => 32
  | _ => 256

/-- A NAME entry passes (R382): its KIND is one of the nine, its reserved byte and padding are zero, its text is ASCII, its INDEX names an
object, and bit names come sixteen at a time. -/
def nameOk (e : NameEnt) : Bool :=
  within 1 9 e.kind && e.clean && e.text.all (fun b => decide (b.toNat < 128)) && decide (e.index < nameCap e.kind) &&
  (e.kind != 3 || e.text.length == 256)

/-- The first record of section `t` that fails check 12. -/
def sectionFault (im : Image) (t : Nat) : Option Nat :=
  match secKind t with
  | none => none
  | some k => match (List.range (imCount im t)).find? (fun n => !recordOk im k n) with
    | some n => some (if t = secREGS then (regsFault im).elim n (min n) else n)
    | none => if t = secREGS then regsFault im else if sectionOk im t then none else some 0xFFFF

/-- Two binding keys can meet: one frame could match both (R112, R330). -/
def portsMeet (a b : Nat) : Bool := a == 0 || b == 0 || a == b

/-- The stream whose commands could also be taken for frames of a directory entry (R330). -/
def cmdBindingFault (im : Image) : Option Nat :=
  (imValid im secOUT_STREAM).find? (fun n =>
    (imValid im secSTREAM_DIR).any (fun m =>
      decide (dirTransport im m ≤ 2) && (dirTransport im m == 0) == !osTcp im n && dir im m 0 15 0 == osF im n 0 15 0 &&
      portsMeet (if dirTransport im m = 1 then dir im m 8 15 0 else dir im m 8 31 16) (if osTcp im n then osF im n 9 31 16 else osF im n 9 15 0) &&
      dir im m 7 12 0 &&& osF im n 3 12 0 != 0 && dir im m 7 27 16 == osF im n 3 27 16))

/-- Check 12. -/
def recordFault (im : Image) : Option (Nat × Nat) :=
  match im.sects.findSome? (fun x => (sectionFault im x.typ).map (fun n => (x.typ, n))) with
  | some r => some r
  | none => match im.names.findIdx? (fun e => !nameOk e) with
    | some n => some (secNAME, n)
    | none => (cmdBindingFault im).map (fun n => (secOUT_STREAM, n))

/-! ## Check 13: line 0 -/

/-- The length of an ingest record with `n` channels (Table 4-9). -/
def ingRecLen (n : Nat) : Nat := ceilDiv (0x30 + 8 * n + 4 * ceilDiv n 32 + 4) 8 * 8

/-- N_ING in bytes (R525). -/
def ingNeed (im : Image) : Nat :=
  let late := fld (imgReg im (ING + 8)) 31 24
  sumN ((imValid im secSTREAM_DIR).map (fun n =>
    let g := dirGroup im n
    ingRecLen (dir im n 2 8 0) * (ceilDiv ((groupWindow im g + late + 2) * groupRate im g) im.f0 +
      (if dirTransport im n = 4 then 1 else dir im n 4 7 4))))

/-- Two entries of one BLOCK value that one frame could match (R113). -/
def bindingsMeet (im : Image) (a b : Nat) : Bool :=
  let same := fun w hi lo => dir im a w hi lo == dir im b w hi lo
  let rsv := dirTransport im a == 3
  let tcp := fun n => dirTransport im n == 1 || dirTransport im n == 2
  -- the port of the frame that DST_PORT names: its source port on a TCP client, its destination port otherwise
  let ports := if (dirTransport im a == 1) == (dirTransport im b == 1) then same 8 31 16 && portsMeet (dir im a 8 15 0) (dir im b 8 15 0)
    else
      let (c, d) := if dirTransport im a = 1 then (a, b) else (b, a)
      portsMeet (dir im c 8 31 16) (dir im d 8 15 0)
  let addrs := fun n => if dirPaired im n then [dirAddr im n 10, dirAddr im n 14] else [dirAddr im n 10]
  dirTransport im a != 4 && dirTransport im b != 4 && (dirTransport im b == 3) == rsv && same 1 19 14 && (rsv || same 0 15 0) &&
  dir im a 7 12 0 &&& dir im b 7 12 0 != 0 && same 7 27 16 && tcp a == tcp b && ports &&
  (addrs a).any (fun x => (addrs b).any (fun y => x == 0 || y == 0 || x == y)) && (!rsv || dirAddr im a 14 == dirAddr im b 14)

/-- The oscillation rules of R200, Table 7-4 and Table 7-6 that the records decide. -/
def oscOk (im : Image) : Bool :=
  (List.range (imCount im secOSC_LAYOUT)).all (fun l => (List.range 15).all (fun b =>
    f32lt (imWord im secOSC_LAYOUT l (2 * b)) (imWord im secOSC_LAYOUT l (2 * b + 2)))) &&
  (imValid im secOSC_SIGNAL).all (fun n =>
    let fr := f32ofInt (sigRate im n)
    (sigChans im n).all (fun c => chanGroup im c == sigGroup im n &&
      (if sigF im n 0 30 28 = 1 then within 2 4 (chanKind im c) else chanKind im c == 1)) &&
    (sigBins im n).all (fun b =>
      f32le 0x3C23D70A#32 (binFc im n b) && f32le (binFc im n b) (f32div fr 0x40000000#32) &&
      f32le 0x3A83126F#32 (binBw im n b) && f32le (binBw im n b) (f32div fr 0x41000000#32))) &&
  (imValid im secOSC_MODE).all (fun m =>
    let ref := modeRef im m
    let cands := (sigBins im ref).filter (fun b => f32le (imWord im secOSC_MODE m 1) (binFc im ref b) &&
      f32le (binFc im ref b) (imWord im secOSC_MODE m 2))
    !cands.isEmpty && (modeMembers im m).contains ref && f32le oneW (imWord im secOSC_MODE m 4) &&
    (modeMembers im m).all (fun n => imBit im secOSC_SIGNAL n 0 31 && sigRate im n == sigRate im ref &&
      cands.all (fun b => sigLay im n (b / 16) == sigLay im ref (b / 16))))

/-- The island rules (R221, R222, R226). -/
def islOk (im : Image) : Bool :=
  (imValid im secISL_SIGNAL).all (fun n =>
    let a := imFld im secISL_SIGNAL n 1 31 16
    let f := imFld im secISL_SIGNAL n 0 15 0
    chanKind im f == 2 && (!imBit im secISL_SIGNAL n 1 15 || (chanKind im a == 1 && chanStrm im a == chanStrm im f))) &&
  (imValid im secISL_PAIR).all (fun p =>
    let a := imFld im secISL_PAIR p 0 15 8
    let b := imFld im secISL_PAIR p 0 23 16
    a != b && imBit im secISL_CGRP a 0 31 && imBit im secISL_CGRP b 0 31 && icnOfCgrp im a == icnOfCgrp im b &&
    (imValid im secISL_PAIR).all (fun q => decide (q ≤ p) ||
      !([imFld im secISL_PAIR q 0 15 8, imFld im secISL_PAIR q 0 23 16] == [a, b] ||
        [imFld im secISL_PAIR q 0 15 8, imFld im secISL_PAIR q 0 23 16] == [b, a]))) &&
  (List.range 4).all (fun i =>
    let w := imgReg im (ISL + 0x40 + 4 * i)
    (islGroups im i).all (fun g => bit w 31 && groupRate im g == fld w 15 8))

/-- The ranges of a comparator that it reads, and its channels (R237). -/
def cmpOk (im : Image) (c : Nat) : Bool :=
  let src := cmpSrc im c
  let p := cmpPrim im c
  let a := cmpF im c 1 31 16
  let b := cmpF im c 1 15 0
  let inG := fun x => chanGroup im x == cmpGroup im c
  decide (p ≤ 4) && decide (cmpF im c 0 23 22 ≤ 2) && (p != 0 || decide (1 ≤ cmpF im c 4 31 16)) && (p != 3 || within 1 8 (cmpF im c 4 15 12)) &&
  (p != 2 || decide (1 ≤ cmpF im c 5 23 0)) && (p != 3 || f32lt 0#32 (imWord im secISL_CMP c 2)) &&
  (p != 1 || f32lt (imWord im secISL_CMP c 2) (imWord im secISL_CMP c 3)) && (p != 4 || f32le 0#32 (imWord im secISL_CMP c 3)) &&
  (!cmpPerArr im c || (decide (src < 6) && p != 2)) &&
  (match src with
   | 0 => within 2 4 (chanKind im a) && inG a
   | 1 => chanKind im a == 1 && inG a
   | 2 => chanKind im a == 1 && inG a
   | 3 => chanKind im a == 1 && inG a && (p == 2 || (chanKind im b == 1 && inG b))
   | 4 => chanKind im a == 1 && inG a && (p == 2 || (chanKind im b == 2 && inG b))
   | 5 => chanKind im a == 5 && inG a
   | 6 => imBit im secISL_CGRP a 0 31 && p != 2 && (islGroups im (cmpIcn im c)).contains (cmpGroup im c)
   | _ => imBit im secISL_PAIR a 0 31 && p != 2 && (islGroups im (cmpIcn im c)).contains (cmpGroup im c))

/-- The metering rules (R293). -/
def pointSlotsOk (im : Image) (p : Nat) : Bool :=
  let wr := ptF im p 0 30 29
  let used := fun k : Nat => if wr = 0 then true else if wr = 1 then k == 0 else k != 1
  let kindOk := fun (w kind k : Nat) =>
    let j := ptF im p w (31 - 8 * k) (24 - 8 * k)
    if used k then slotValid im j && slotF im j 0 30 29 == kind && slotFs im j == ptFs im p else j == 0xFF
  decide (wr ≤ 2) && [60, 300, 600, 900, 1800, 3600].contains (ptF im p 0 11 0) &&
  (kindOk 1 1 0 && (if wr = 2 then ptF im p 1 23 16 == 0xFF else kindOk 1 1 1) && kindOk 1 1 2) &&
  (kindOk 2 0 0 && (if wr = 2 then ptF im p 2 23 16 == 0xFF else kindOk 2 0 1) && kindOk 2 0 2) &&
  within 50 99 (ptF im p 4 31 24) && within 101 200 (ptF im p 4 23 16) && within 1 10 (ptF im p 4 15 8) && within 1 100 (ptF im p 4 7 0)

/-- The latest close of an instant in the groups `gs` is its close in group `g`. -/
def latestIn (im : Image) (gs : List Nat) (g : Nat) : Bool :=
  gs.all (fun h => decide (groupWindow im h ≤ groupWindow im g)) && gs.any (fun h => groupWindow im h == groupWindow im g)

/-- Every instant of group `g` is an instant of the groups `gs`, and the latest of them closes it with `g`: what is decided at its close
in `gs` is decided at C(I) of `g`. -/
def closesWith (im : Image) (gs : List Nat) (g : Nat) : Bool :=
  latestIn im gs g && gs.all (fun h => groupRate im h % max 1 (groupRate im g) == 0)

/-- A close alarm source decides at C(I) of the stream's group `g` (R332). -/
def closeSrcOk (im : Image) (g e : Nat) : Bool :=
  let x := (outSrc im e).2
  match (outSrc im e).1 with
  | 0 => cmpPrim im x != 2 && closesWith im (if cmpSrc im x < 6 then [cmpGroup im x] else islGroups im (cmpIcn im x)) g
  | 1 => closesWith im (almGroups im x) g
  | 3 => (islGroups im (icnOfPair im x)).contains g && latestIn im (islGroups im (icnOfPair im x)) g
  | 4 => (islGroups im (icnOfPair im x)).contains g && latestIn im (islGroups im (icnOfPair im x)) g
  | 5 => imBit im secSCH_POINT x 0 26 && taskGroup im (imFld im secSCH_POINT x 0 25 22) == g && !voteBound im (imFld im secSCH_POINT x 0 25 22)
  | _ => true

/-- Bytes of an output frame behind its transport header. -/
def osFrameLen (im : Image) (n : Nat) : Nat :=
  let ms := osBlocks im n
  if osKind im n = 1 then
    Config.rsvLen (sumN (ms.map (fun m => dir im m 3 31 23))) (sumN (ms.map (fun m => dir im m 3 22 16))) (sumN (ms.map (fun m => dir im m 3 15 10)))
  else 16 + (if 2 ≤ osKind im n then 4 + 2 * fqSize (osF im n 1 3 0) + 4 + 2 * ceilDiv (max 1 (osF im n 2 18 10)) 16
   else sumN (ms.map (fun m => 2 + dir im m 3 31 23 * 2 * phSize (osF im n 1 3 0) + 2 * fqSize (osF im n 1 3 0) +
     dir im m 3 22 16 * anSize (osF im n 1 3 0) + 2 * dir im m 3 15 10)) + (if imBit im secOUT_STREAM n 0 25 then 4 else 0))

/-- The line-0 rules of an output stream (R323). -/
def osLine0 (im : Image) (n : Nat) : Bool :=
  let k := osKind im n
  let f := groupRate im (osGroup im n)
  let d := osF im n 2 7 0
  f % d == 0 && rateOk im.f0 (f / d) &&
  (if k = 1 then osF im n 4 23 0 == 0 else decide (1 ≤ osF im n 4 23 0)) &&
  (if k = 3 then imBit im secVOTE (osF im n 1 24 13) 0 31 && voteGroup im (osF im n 1 24 13) == osGroup im n else osF im n 1 24 13 == 0) &&
  (if k = 2 then within 1 480 (osF im n 2 18 10) && refOk im secOUT_SOURCE (osF im n 2 31 19) (osF im n 2 18 10) &&
      (upFrom (osF im n 2 31 19) (osF im n 2 18 10)).all (fun e => srcBool im e && closeSrcOk im (osGroup im n) e)
   else osF im n 2 18 10 == 0) &&
  (List.range 13).all (fun p => !Nat.testBit (osF im n 3 12 0) p ||
    decide (ipLen (osDst im n) (osF im n 3 27 16) (osFrameLen im n) (osTcp im n) ≤ fld (portCfg im p) 31 18))

/-- A publication's largest message fits its ports. -/
def gpLine0 (im : Image) (n : Nat) : Bool :=
  (List.range 13).all (fun p => !Nat.testBit (gpF im n 6 12 0) p || decide (Config.gooseMax im.vintage n ≤ fld (portCfg im p) 31 18))

/-! ## Flows (R343, Table 13-1) -/

/-- The stage deadlines of Table 1-7, tk from path start: early pick and window close, scheme, publication. -/
def stageOffsets : List Nat := [8, 32, 48, 64, 8 + 32, 8 + 32 + 8, 8 + 32 + 16, 24, 72, 96]

/-- Word 0 of the context that image `im` gives flow `n`: reserved bits 0, OFFSET one of Table 1-7 for a bounded flow and 0 otherwise. -/
def imFlowCtx (im : Image) (n : Nat) : Word :=
  let secs := im.sects.map (fun x => (x.typ, x.recs))
  let w := setFld (Config.flowWord secs n) 20 0 0
  if bit w 30 then setFld w 15 0 (stageOffsets.getD (Config.flowStage secs n % 10) 8) else w

/-- Levels 0 to 3 hold bounded work only, levels 4 to 7 unbounded work only, and flows on one engine at one bounded level have one OFFSET
(R346). -/
def flowsOk (im : Image) : Bool :=
  let all := ((List.range 16384).map (imFlowCtx im)).filter (fun w => bit w 31)
  let fs := all.filter (fun w => bit w 30)
  all.all (fun w => bit w 30 == decide (fld w 29 27 < 4)) &&
  (List.range 11).all (fun e => (List.range 4).all (fun l =>
    decide (((fs.filter (fun w => fld w 26 21 == e && fld w 29 27 == l)).map (fun w => fld w 15 0)).eraseDups.length ≤ 1)))

/-- Every rule that the spec puts under line 0. -/
def line0Ok (im : Image) : Bool :=
  im.sects.all (fun x => match secKind x.typ with
    | some k => decide (x.recs.length ≤ k.cap)
    | none => true) &&
  (List.range 64).all (fun g => !groupEn im g || !(groupStrms im g).isEmpty) &&
  (imValid im secVOTE).all (fun v => within 1 (voteN im v) (voteK im v)) && decide (sumN ((imValid im secVOTE).map (voteN im)) ≤ 65536) &&
  decide (ingNeed im ≤ (imgReg im (ING + 0x10)).toNat * 1048576) &&
  ((imValid im secSTREAM_DIR).all (fun a => (imValid im secSTREAM_DIR).all (fun b => decide (b ≤ a) || !bindingsMeet im a b))) &&
  oscOk im && islOk im && (imValid im secISL_CMP).all (cmpOk im) && (imValid im secMTR_POINT).all (pointSlotsOk im) &&
  (imValid im secCAP_REC).all (fun r => decide (takeLen (recNch im r) (recPre im r + 1 + recPost im r) ≤ 1073741824)) &&
  decide (sumN ((imValid im secCAP_REC).map (ringNeed im)) ≤ Config.ringRegion im.vintage) &&
  (imValid im secOUT_STREAM).all (osLine0 im) && (imValid im secGOOSE).all (gpLine0 im) && flowsOk im

end Sys2Proof.Machine
end

