-- ==== Sys2Proof/Machine/Scheduler.lean ====
section
/-!
DEFINITION. Sys2Proof/Machine/Scheduler.lean: the task scheduler and the resource arbiter (chapter 13).
-/
namespace Sys2Proof.Machine

/-! ## Flows in force -/

/-- Word 0 of the flow context that the active vintage gives flow `n`. -/
def flowCtx (s : State) (n : Nat) : Word := imFlowCtx s.cfg.active n
def flowOf (s : State) (n : Nat) : TskFlow := fgetD s.tsk.flows n {}
def flowValid (s : State) (n : Nat) : Bool := bit (flowCtx s n) 31
def flowBounded (s : State) (n : Nat) : Bool := bit (flowCtx s n) 30

/-- LEVEL of the item of flow `n` with admission number `a`: the image's for a bounded flow, the one in force at its admission otherwise
(R348). -/
def flowLevelAt (s : State) (n a : Nat) : Nat :=
  let own := fld (flowCtx s n) 29 27
  if flowBounded s n then own
  else match (flowOf s n).levels.find? (fun e => decide (e.1 ≤ a)) with
    | some e => e.2
    | none => own

/-- LEVEL of items admitted from now on. -/
def flowLevel (s : State) (n : Nat) : Nat := flowLevelAt s n s.tsk.adm

def modTsk (f : Tsk → Tsk) (s : State) : State := { s with tsk := f s.tsk }
def tskFlag (b : Nat) (s : State) : State := setFlag s (TSK + 4) b
def tskCount (k : Nat) (s : State) : State := count (TSK + 0x300 + 4 * k) s
def arbCount (k : Nat) (s : State) : State := count (ARB + 0x300 + 4 * k) s
def arbFlag (b : Nat) (s : State) : State := setFlag s (ARB + 4) b

/-! ## Descriptors (R342, R353) -/

/-- RESV: descriptors reserved for bounded work; 0 means 65,536. -/
def tskResv (s : State) : Nat := let r := fld (imgReg s.cfg.active (TSK + 0x10)) 31 16; if r = 0 then 65536 else r

def dlOf (s : State) (l : Nat) : List DlEnt := fgetD s.tsk.dls l []

/-- Descriptors in use: items, delay-list entries, and released entries that have not become items. -/
def tskInUse (s : State) : Nat :=
  s.tsk.items.length + sumN (s.tsk.dls.map (·.2.length)) + (s.tsk.stalled.filter (·.held)).length

/-- Descriptors in use by unbounded work. -/
def unboundedInUse (s : State) : Nat :=
  (s.tsk.items.filter (·.deadline.isNone)).length +
    sumN (s.tsk.dls.map (fun e => (e.2.filter (fun x => !flowBounded s x.flow)).length)) +
    (s.tsk.stalled.filter (fun w => w.held && !flowBounded s w.flow)).length

/-- Work of flow `f` finds a descriptor: one of the 65,536, which for unbounded work is not a reserved one (R342, R353). -/
def poolRoom (s : State) (f : Nat) : Bool :=
  decide (tskInUse s < 65536) && (flowBounded s f || decide (unboundedInUse s + tskResv s < 65536))

/-- The level queue of flow `g` at its engine takes the item with admission number `a` (R354). -/
def levelRoom (s : State) (g a : Nat) : Bool := queueRoom s (fld (flowCtx s g) 26 21) (flowLevelAt s g a)

/-- An item enters its level queue; a later stage keeps the admission number of its first item (R344, R345). -/
def pushItem (flow adm start : Nat) (s : State) : State :=
  let w := flowCtx s flow
  let i : TskItem := { flow := flow, adm := adm, start := start, level := flowLevelAt s flow adm, engine := fld w 26 21
                       deadline := if bit w 30 then some (start + fld w 15 0) else none }
  let s := modTsk (fun t => { t with items := t.items ++ [i] }) s
  rcMax s (TSK + 0x14) 0 (tskInUse s)

/-- A delay list is kept sorted by release tick, equal ticks in order of insertion. -/
def dlInsert (e : DlEnt) : List DlEnt → List DlEnt
  | [] => [e]
  | x :: l => if e.tick < x.tick then e :: x :: l else x :: dlInsert e l

/-- Entry `e` takes its place in delay list `l`. -/
def dlPut (l : Nat) (e : DlEnt) (s : State) : State :=
  let s := modTsk (fun t => { t with dls := fset t.dls l (dlInsert e (fgetD t.dls l [])) }) s
  rcMax s (TSK + 0x14) 0 (tskInUse s)

/-- Waiting work `w` can go on: it has or finds a descriptor, and an item has its number and finds room in its level queue. -/
def canEnter (s : State) (w : TskWait) : Bool :=
  (w.held || poolRoom s w.flow) && (match w.list, w.adm with
    | some _, _ => true
    | none, some a => levelRoom s w.flow a
    | none, none => false)

/-- Work `w` becomes an item or an entry of its delay list; where it cannot, or older work of its kind waits, it waits behind the rest. -/
def offer (w : TskWait) (s : State) : State :=
  if canEnter s w && !s.tsk.stalled.any (fun y => y.flow == w.flow && y.list == w.list && (y.list.isSome || y.adm.isSome)) then
    match w.list with
    | some l => dlPut l { tick := w.start, flow := w.flow, inst := w.inst } s
    | none => pushItem w.flow (w.adm.getD 0) w.start s
  else modTsk (fun t => { t with stalled := t.stalled ++ [w] }) s

/-- Work is offered for the first time; an unbounded producer that finds no descriptor counts one in POOL_STALL (R353). -/
def offerNew (w : TskWait) (s : State) : State :=
  offer w (if !w.held && !flowBounded s w.flow && !poolRoom s w.flow then tskFlag 2 (tskCount 3 s) else s)

/-- An item is admitted with the next admission number. -/
def admitItem (flow start : Nat) (s : State) : State :=
  offerNew { flow := flow, start := start, adm := some s.tsk.adm } (modTsk (fun t => { t with adm := t.adm + 1 }) s)

/-- Waiting work is offered again, in the order in which it came. -/
def unstall (s : State) : State := s.tsk.stalled.foldl (fun s w => offer w s) (modTsk (fun t => { t with stalled := [] }) s)

/-- Delay-list entry `e` is inserted into list `l`. -/
def dlAdd (l : Nat) (e : DlEnt) (s : State) : State :=
  offerNew { flow := e.flow, start := e.tick, list := some l, inst := e.inst } s

/-- DELAY_LIST_RELEASE (R352): entries of list `l` whose tick is at or before `b` leave it with path start `b`. They are numbered after the
arrivals at `b` (R344, Table 13-7). -/
def dlRelease (b l : Nat) (s : State) : State :=
  let es := dlOf s l
  modTsk (fun t => { t with
    dls := fset t.dls l (es.filter (fun e => decide (b < e.tick)))
    stalled := t.stalled ++ (es.filter (fun e => decide (e.tick ≤ b))).map (fun e => { flow := e.flow, start := b, held := true }) }) s

/-- What the delay lists released is admitted, in the order of its release. -/
def admitReleased (s : State) : State :=
  let ws := s.tsk.stalled.filter (fun w => w.list.isNone && w.adm.isNone)
  ws.foldl (fun s w => offer { w with adm := some s.tsk.adm } (modTsk (fun t => { t with adm := t.adm + 1 }) s))
    (modTsk (fun t => { t with stalled := t.stalled.filter (fun w => w.list.isSome || w.adm.isSome) }) s)

/-- At a tick boundary every list releases, in the order 0, 1, 2, 3. -/
def dlTick (s : State) : State := [0, 1, 2, 3].foldl (fun s l => dlRelease s.tb.tick l s) (admitReleased s)

/-- At a provisional boundary only list 3 advances (R487): the tick counter stands, and each entry's remaining time falls by one. -/
def dlProvisional (s : State) : State :=
  let s := modTsk (fun t => { t with dls := fset t.dls 3 ((fgetD t.dls 3 []).map (fun e => { e with tick := e.tick - 1 })) }) s
  dlRelease s.tb.tick 3 (admitReleased s)

/-- Entries of lists 0 and 1 that belong to discarded instants are removed at a restart (R352). -/
def dlDiscard (s : State) : State :=
  [0, 1].foldl (fun s l =>
    let gone := ((dlOf s l).filter (·.inst)).length
    countN (TSK + 0x318) 0xFFFF gone .all
      (modTsk (fun t => { t with dls := fset t.dls l ((fgetD t.dls l []).filter (fun e => !e.inst)) }) s)) s

/-! ## Mode (R349 to R351) -/

/-- The atomic state that holds: 1 start-up, 2 recovery, 3 test, 0 none. -/
def atomicCause (s : State) : Nat :=
  if s.tb.state == .notime then (if s.tsk.recovery then 2 else 1) else if s.tsk.test then 3 else 0

/-- SCHED_MODE_CHANGE (R351): TSK_STAT follows at a tick boundary. -/
def schedMode (s : State) : State :=
  let c := atomicCause s
  let was := s.tsk.atomic
  let old := s.tsk.cause
  let s := modTsk (fun t => { t with atomic := c != 0, cause := c }) s
  if was = (c != 0) then s
  else raise 0x0D02 .all (leBytes 1 (b2n (c != 0)) ++ leBytes 1 (if c = 0 then old else c)) (tskFlag 1 (tskCount 4 s))

/-! ## Dispatch and release (R345, R347, R349) -/

/-- Units of an engine class (Table 13-3). -/
def engineUnits (e : Nat) : Nat := if e = 0 then 4 else if e = 2 then 24 else if e = 9 ∨ e = 10 then 4 else if e < 9 then 1 else 0

/-- The item with the lowest admission number. -/
def oldest (l : List TskItem) : Option TskItem :=
  l.foldl (fun acc i => match acc with
    | none => some i
    | some a => if i.adm < a.adm then some i else some a) none

/-- An item may be dispatched: in atomic mode every older item of its flow has been released (R349). -/
def mayDispatch (s : State) (i : TskItem) : Bool :=
  !s.tsk.atomic || !s.tsk.items.any (fun x => x.flow == i.flow && (decide (x.adm < i.adm) || x.st != 1))

/-- The item that a free unit of engine `e` takes (R347): a level queue offers its head alone, and unbounded work goes only while no bounded
work waits. A head that atomic mode holds back stays, and its queue with it (assumption 220). -/
def nextItem (s : State) (e : Nat) : Option TskItem :=
  let q := s.tsk.items.filter (fun i => i.engine == e && i.st == 1)
  let heads := (List.range 8).filterMap (fun l => oldest (q.filter (·.level == l)))
  let bounded := heads.filter (fun i => decide (i.level < 4))
  match bounded.filter (mayDispatch s) with
  | i :: rest => some (rest.foldl (fun a b => if b.deadline.getD 0 < a.deadline.getD 0 then b else a) i)
  | [] => if bounded.isEmpty then heads.find? (mayDispatch s) else none

/-- The item with admission number `adm` of flow `f` changes. -/
def modItem (f adm : Nat) (g : TskItem → TskItem) (s : State) : State :=
  modTsk (fun t => { t with items := t.items.map (fun i => if i.flow == f && i.adm == adm then g i else i) }) s

/-- Items that enter the scheduler at one instant, in the order of R344. -/
def admitAll (x : TskIn) (s : State) : State :=
  let s := admitReleased (x.atBoundary.foldl (fun s (f, t) => admitItem f t s) (unstall s))
  let s := x.arrivals.foldl (fun s (f, t) => admitItem f t s) s
  let s := (x.raised.mergeSort (fun a b => decide (a.1 ≤ b.1))).foldl (fun s (_, f, t) => admitItem f t s) s
  x.delays.foldl (fun s (l, t, f, i) => dlAdd (l % 4) { tick := t, flow := f, inst := i } s) s

/-- Unit `u` of engine `e` has an item in service, or holds one for a full successor. -/
def unitBusy (s : State) (e u : Nat) : Bool := s.tsk.items.any (fun i => i.engine == e && (i.st == 2 || i.st == 4) && i.unit == u)

/-- Finished items of flow `f` are released in admission order, at most `n`. One whose successor's queue is full is held, and its unit with
it (R354). -/
def releaseItems : Nat → Nat → State → State
  | 0, _, s => s
  | n + 1, f, s => match oldest (s.tsk.items.filter (·.flow == f)) with
    | some i =>
      if i.st = 3 ∨ i.st = 4 then
        if i.next.all (fun g => levelRoom s g i.adm) then
          let s := modTsk (fun t => { t with items := t.items.filter (fun x => !(x.flow == f && x.adm == i.adm)) }) s
          releaseItems n f (match i.next with
            | some g => pushItem g i.adm i.start s
            | none => s)
        else modItem f i.adm (fun i => { i with st := 4 }) s
      else s
    | none => s

/-- Items that a full queue held are offered to it again. -/
def releaseHeld (s : State) : State :=
  (s.tsk.items.filter (·.st == 4)).foldl (fun s i => releaseItems s.tsk.items.length i.flow s) s

/-- WORK_ITEM_DISPATCH (R347): unit `u` of engine `e` takes its next item. -/
def execWorkItemDispatch (e u : Nat) (x : TskIn) (s : State) : Out := act s fun s =>
  let s := admitAll x s
  if engineUnits e ≤ u ∨ unitBusy s e u then s
  else match nextItem s e with
    | some i => unstall (releaseHeld (tskCount 0 (modItem i.flow i.adm (fun i => { i with st := 2, unit := u }) s)))
    | none => s

/-- A stage is completed after its deadline (R359). -/
def stageMiss (f late : Nat) (s : State) : State :=
  let old := (flowOf s f).misses
  let s := halfAt (TSK + 0x10C) f old (modTsk (fun t => { t with flows := fmod t.flows f {} (fun q => { q with misses := old + 1#32 }) }) s)
  raise 0x0D01 .all (leBytes 1 0 ++ leBytes 2 f ++ leBytes 4 late) (tskFlag 0 (tskCount 1 s))

/-- WORK_ITEM_RELEASE (R349): item `adm` of flow `f` has finished; `next` is the flow of its next stage. -/
def execWorkItemRelease (f adm : Nat) (next : Option Nat) (s : State) : Out := act s fun s =>
  match s.tsk.items.find? (fun i => i.flow == f && i.adm == adm && i.st == 2) with
  | none => s
  | some i =>
    let s := modItem f adm (fun i => { i with st := 3, next := next }) s
    let s := match i.deadline with
      | some d => if d < s.tb.tick then stageMiss f (s.tb.tick - d) s else s
      | none => s
    let s := if s.tsk.items.any (fun x => x.flow == f && decide (x.adm < adm)) then tskCount 2 s else s
    unstall (releaseItems s.tsk.items.length f s)

/-! ## TSK_CTRL (R348, R351, R366) -/

/-- A refused write of TSK_CTRL. -/
def tskRefuse (op reason : Nat) (s : State) : State :=
  raise 0x0D05 .all (leBytes 1 op ++ leBytes 1 reason) (tskFlag 4 s)

/-- A write of TSK_CTRL by function `n`. -/
def tskCtrl (n op key : Nat) (f : State → State) (s : State) : State :=
  if !validFn s n then deniedInvalid n s
  else if key ≠ 0x75C3 ∨ !imgLoad s n then tskRefuse op 1 s
  else f s

/-- The active vintage defines a control output (R321). -/
def hasControl (im : Image) : Bool :=
  (imValid im secOUT_STREAM).any (osControl im) || (imValid im secGOOSE).any (gpControl im) || !(imValid im secDO).isEmpty

/-- TSK_TEST_ENTRY (TSK_CTRL OP 1). The mode changes at the next tick boundary. -/
def execTskTestEntry (n key : Nat) (s : State) : Out := act s fun s =>
  tskCtrl n 1 key (fun s =>
    if authority s && hasControl s.cfg.active then tskRefuse 1 2 s else modTsk (fun t => { t with test := true }) s) s

/-- TSK_TEST_EXIT (TSK_CTRL OP 2). -/
def execTskTestExit (n key : Nat) (s : State) : Out := act s fun s =>
  tskCtrl n 2 key (fun s =>
    if !hasTime s then tskRefuse 2 2 s else modTsk (fun t => { t with test := false }) s) s

/-- TSK_SET_LEVEL (TSK_CTRL OP 3): the flow in TSK_FLOW_IDX of function `n` takes level `lvl`. -/
def execTskSetLevel (n lvl key : Nat) (s : State) : Out := act s fun s =>
  tskCtrl n 3 key (fun s =>
    let f := fld (fnReg s n (TSK + 0x20)) 13 0
    if !flowValid s f || flowBounded s f || decide (lvl < 4 ∨ 7 < lvl) then tskRefuse 3 3 s
    else
      let old := flowLevel s f
      let s := modTsk (fun t => { t with flows := fmod t.flows f {} (fun q =>
        { q with levels := (t.adm, lvl) :: q.levels.filter (fun e => e.1 != t.adm) }) }) s
      raise 0x0D06 .all (leBytes 2 f ++ leBytes 1 old ++ leBytes 1 lvl) (tskFlag 3 (tskCount 5 s))) s

/-! ## The arbiter (R355 to R364) -/

def resOf (s : State) (r : Nat) : ArbRes := fgetD s.arb.res r {}
def modRes (r : Nat) (f : ArbRes → ArbRes) (s : State) : State := { s with arb := { s.arb with res := fmod s.arb.res r {} f } }
def modReqs (f : List ArbReq → List ArbReq) (s : State) : State := { s with arb := { s.arb with reqs := f s.arb.reqs } }

/-- slack (R357). -/
def slack (now : Nat) (r : ArbReq) : Int := if r.sat then -32768 else (r.lst - BitVec.ofNat 16 now).toInt

/-- The locks of R362: crypto engines 0 and 1 and the racking engine lock a DRAM bank, the cellar writer the MRAM write port. -/
def mayLock (rq r : Nat) : Bool :=
  ((rq == 44 || rq == 45 || rq == Config.rackingEngine) && decide (r < 32)) || (rq == Config.cellarWriter && r == 46)

/-- The resource that requester `rq` holds under a lock. -/
def lockedRes (s : State) (rq : Nat) : Option Nat :=
  (List.range 47).find? (fun r => (resOf s r).owner.any (fun o => o.1 == rq && o.2.1))

/-- Resource `r` is an egress port (Table 13-5). -/
def egress (r : Nat) : Bool := decide (32 ≤ r ∧ r < 44)

/-- The frame that a request for egress port `r` names, if it waits complete in the port's buffer (R91). -/
def reqFrame (s : State) (r id : Nat) : Option TxFrame := (portOf s (r - 32)).txq.find? (fun t => t.id == id && !isPauseTx t)

/-- The stage deadline of the item that a request is made for (R356): none of unbounded work. A request for an egress port is for one complete
frame of its buffer, whose deadline is the item's. -/
def reqDeadline (x : ArbIn) (s : State) : Option Nat :=
  if egress x.res then (x.frame.bind (reqFrame s x.res)).bind (·.due)
  else match x.item.bind (fun k => s.tsk.items.find? (fun i => i.flow == k.1 && i.adm == k.2)) with
    | some i => i.deadline
    | none => if x.nodl then none else some x.lst.toNat

/-- A request appears (R362, R364). A bounded request carries the low 16 bits of its stage deadline, an unbounded one the tick + 32,767
(R356). -/
def arbRequest (x : ArbIn) (s : State) : State :=
  if 46 < x.res ∨ 127 < x.rq then s
  else match lockedRes s x.rq with
    | some h => raise 0x0D03 .all (leBytes 2 x.rq ++ leBytes 2 h ++ leBytes 2 x.res) (arbFlag 1 (arbCount 1 s))
    | none =>
      let bad := x.lock && !mayLock x.rq x.res
      let s := if bad then arbFlag 2 (arbCount 2 s) else s
      let due := reqDeadline x s
      let lst := BitVec.ofNat 16 (due.getD (s.tb.tick + 32767))
      let twice := egress x.res && s.arb.reqs.any (fun y => y.res == x.res && y.frame == x.frame)
      if twice || (egress x.res && (x.frame.bind (reqFrame s x.res)).isNone) then s
      else modReqs (· ++ [{ rq := x.rq, res := x.res, lst := lst, lock := x.lock && !bad, nodl := due.isNone, frame := x.frame }]) s

/-- The distance of a requester from the rotating pointer. -/
def fromPtr (ptr rq : Nat) : Nat := (rq + 128 - ptr) % 128

/-- The waiting request that resource `r` is granted to, and whether a tie was broken (R357). -/
def arbWinner (s : State) (r : Nat) : Option (ArbReq × Bool) :=
  let q := s.arb.reqs.filter (·.res == r)
  let cls := if q.any (fun x => !x.nodl) then q.filter (fun x => !x.nodl) else q
  let key := slack s.tb.tick
  match cls with
  | [] => none
  | x :: l =>
    let best := (l.map key).foldl min (key x)
    let ties := (x :: l).filter (fun y => key y == best)
    let d := fromPtr (resOf s r).ptr
    match ties with
    | [] => none
    | y :: m => some (m.foldl (fun a b => if d b.rq < d a.rq then b else a) y, !m.isEmpty)

/-- The port behind an egress resource is held by a received pause (R361). -/
def resPaused (s : State) (r : Nat) : Bool := egress r && (portOf s (r - 32)).pauseEnd.isSome

/-- An egress port grants nothing while a frame is in progress on it, while a pause frame of the module, which goes first (R97), waits, and
without a link (Table 1-6). -/
def portBusy (s : State) (r : Nat) : Bool :=
  let p := portOf s (r - 32)
  egress r && (p.cur.isSome || p.txq.any isPauseTx || !p.linkUp)

/-- The frame that a request names still waits. -/
def liveReq (s : State) (x : ArbReq) : Bool := !egress x.res || (x.frame.bind (reqFrame s x.res)).isSome

/-- A granted egress request begins the transmission of its frame (R92). -/
def beginTx (x : ArbReq) (s : State) : State :=
  match (if egress x.res then x.frame.bind (reqFrame s x.res) else none) with
  | some t => modPort (x.res - 32) (fun p => { p with cur := some t, txq := p.txq.filter (fun y => y.id != t.id) }) s
  | none => s

/-- One resource in one beat. -/
def arbGrant (r : Nat) (s : State) : State :=
  if (resOf s r).owner.isSome || resPaused s r || portBusy s r then s
  else match arbWinner s r with
    | none => s
    | some (x, tie) =>
      let k := slack s.tb.tick x
      let late := (-k).toNat
      let s := beginTx x (modReqs (fun l => l.erase x) s)
      let miss := decide (k < 0) && !x.nodl
      let old := resOf s r
      let s := halfAt (ARB + 0x100) r old.grants (if miss then halfAt (ARB + 0x104) r old.miss s else s)
      let s := modRes r (fun q => { q with
        owner := some (x.rq, x.lock, 1), grants := old.grants + 1#32, miss := if miss then old.miss + 1#32 else old.miss
        locks := if x.lock then old.locks + 1#32 else old.locks, maxLate := min 65535 (max q.maxLate late)
        ptr := if tie then (x.rq + 1) % 128 else q.ptr }) (if x.lock then halfAt (ARB + 0x108) r old.locks s else s)
      if miss then raise 0x0D01 .all (leBytes 1 1 ++ leBytes 2 r ++ leBytes 4 late) (arbFlag 0 (arbCount 0 s)) else s

/-- The grant of resource `r` ends (Table 13-5): of an egress port with its frame, or with the link that carried it; of another resource when
its owner reports the end of its burst, operation, write or locked sequence. -/
def grantEnds (s : State) (done : List Nat) (r : Nat) : Bool :=
  if egress r then (portOf s (r - 32)).cur.isNone else done.contains r

/-- ARB_BEAT (R357): grants on the resources of `done` have ended, the requests of `reqs` appear, and each free resource is granted. -/
def execArbBeat (done : List Nat) (reqs : List ArbIn) (s : State) : Out := act s fun s =>
  let s := ((List.range 47).filter (fun r => (resOf s r).owner.isSome && grantEnds s done r)).foldl (fun s r => modRes r (fun q => { q with owner := none }) s) s
  let s := { s with arb := { s.arb with res := s.arb.res.map (fun e =>
    (e.1, { e.2 with owner := e.2.owner.map (fun o => (o.1, o.2.1, o.2.2 + 1)) })) } }
  let s := reqs.foldl (fun s x => arbRequest x s) (modReqs (fun l => l.filter (liveReq s)) s)
  (List.range 47).foldl (fun s r => arbGrant r s) s

/-- LOCK_OVER (R363): the locked sequence on resource `r` has reached its 33rd beat. -/
def execLockOver (r : Nat) (s : State) : Out := act s fun s =>
  match (resOf s r).owner with
  | some (rq, true, n) =>
    if 33 ≤ n then
      raise 0x0D04 .all (leBytes 2 rq ++ leBytes 2 r) (arbFlag 3 (arbCount 3 (modRes r (fun q => { q with owner := none }) s)))
    else s
  | _ => s

/-- LST_REWRITE (R360): requester `rq` rewrites the LST of its waiting request for resource `r`. -/
def execLstRewrite (rq r : Nat) (lst : BitVec 16) (s : State) : Out := act s fun s =>
  if s.arb.reqs.any (fun x => x.rq == rq && x.res == r) then
    arbCount 4 (modReqs (fun l => l.map (fun x => if x.rq == rq && x.res == r then { x with lst := lst } else x)) s)
  else s

/-- At a tick boundary: requests for ports held by pause shift by 1 tk (R361), and requests saturate (R358). -/
def arbTick (s : State) : State :=
  let n := (s.arb.reqs.filter (fun x => resPaused s x.res)).length
  let p := resPaused s
  let s := modReqs (fun l => l.map (fun x => if p x.res then { x with lst := x.lst + 1#16 } else x)) s
  let s := countN (ARB + 0x314) 0xFFFF n .all s
  let sat := fun (x : ArbReq) => !x.sat && decide (slack s.tb.tick x ≤ -16384)
  let m := (s.arb.reqs.filter sat).length
  let s := modReqs (fun l => l.map (fun x => if sat x then { x with sat := true } else x)) s
  if 0 < m then arbFlag 4 (countN (ARB + 0x318) 0xFFFF m .all s) else s

end Sys2Proof.Machine
end

