-- ==== Sys2Proof/Machine/Budget.lean ====
section
/-!
DEFINITION. Sys2Proof/Machine/Budget.lean: the admission budget (R36 to R41, Table 1-8, R381), and the load checks in order (R383).
Lines 5 and 7 to 13 are charged as `lineKinds` says: the spec gives the tests, and leaves the cost table and the sources of each line to
the stepping (assumption 44).
-/
namespace Sys2Proof.Machine

/-! ## The demand test (R40, R41) -/

/-- A source of work on a resource: stage deadline in tk, items per second as num / den, burst allowance, and the worst-case service time
of one item in units of 2⁻¹⁶ tk. -/
structure Src where
  d : Nat
  num : Nat
  den : Nat := 1
  b : Nat := 1
  c : Nat
  deriving DecidableEq, Repr

/-- The value of a rational in binary64. -/
def dbl (n d : Nat) : Nat × Nat :=
  match toRat fmt64 (fromIntRat fmt64 n d) with
  | some (m, e) => (m.toNat, e)
  | none => (n, d)

/-- items(l, d, t, b) of R41, t and the quotient in binary64. A source without a period has only its burst. -/
def itemsOf (f0 l : Nat) (x : Src) : Nat :=
  if l < x.d then 0
  else if x.num = 0 ∨ x.den = 0 then x.b
  else
    let t := dbl (1024 * f0 * x.den) x.num
    let q := dbl ((l - x.d) * t.2) t.1
    x.b + q.1 / q.2

/-- D_k(L) in units of 2⁻¹⁶ tk. -/
def demand (f0 block : Nat) (xs : List Src) (l : Nat) : Nat := block + sumN (xs.map (fun x => itemsOf f0 l x * x.c))

/-- The L from 1 to `m` at which D(L) / L is largest, the smallest on a tie, with its D(L). -/
def worst (f0 block : Nat) (xs : List Src) (m : Nat) : Nat × Nat :=
  (upFrom 1 m).foldl (fun (l, v) k => let w := demand f0 block xs k
                                      if v * k < w * l then (k, w) else (l, v)) (1, demand f0 block xs 1)

/-- The long-run load as a fraction of `units`, in units of 2⁻²⁴, rounded up. -/
def longRun (f0 units : Nat) (xs : List Src) : Nat :=
  let sum := xs.foldl (fun (n, d) x => if x.den = 0 then (n, d) else (n * x.den + x.c * x.num * d, d * x.den)) (0, 1)
  ceilDiv (sum.1 * 2 ^ 24) (sum.2 * 1024 * f0 * 65536 * units)

/-- A resource of a demand test: line, RES, units, blocking term and sources. -/
structure Res where
  line : Nat
  res : Nat := 0xFF
  units : Nat
  block : Nat := 0
  srcs : List Src
  deriving DecidableEq, Repr

/-- A budget record (Table 14-10). -/
def budgetRec (line res l dem cap load : Nat) : List Word :=
  [BitVec.ofNat 32 (line * 2 ^ 24 + res * 2 ^ 16), BitVec.ofNat 32 l, BitVec.ofNat 32 dem, BitVec.ofNat 32 (dem / 2 ^ 32), BitVec.ofNat 32 cap,
   BitVec.ofNat 32 (cap / 2 ^ 32), BitVec.ofNat 32 (min load 0xFFFFFFFF), 0#32]

/-- The record of a demand test over L = 1 to `m`. -/
def demandRec (f0 m : Nat) (x : Res) : List Word :=
  let (l, v) := worst f0 x.block x.srcs m
  budgetRec x.line x.res l v (l * x.units * 65536) (longRun f0 x.units x.srcs)

/-! ## The detectors that a scan reads in the same instant (R249, R250) -/

/-- The same-instant inputs of task `t` (R249): the channels and marks of its own group, and the detectors whose close instant is the
task's trigger. -/
def sameInputs (im : Image) (t : Nat) : List Word :=
  if voteBound im t then []
  else (scanOpnds im t (taskStns im t)).filter (fun w => match opndGroups im w with
    | none => false
    | some gs => if fld w 31 28 = 7 ∨ fld w 31 28 = 8 then gs == [taskGroup im t] else latestIn im gs (taskGroup im t))

/-- The detectors that some task reads in the same instant, as operands (R250). -/
def earlyDets (im : Image) : List Word :=
  (imValid im secSCH_TASK).flatMap (fun t => (sameInputs im t).filter (fun w => decide (fld w 31 28 ≤ 5)))

/-- An early detector of space `sp` satisfies `p` of its index. -/
def earlyDet (im : Image) (sp : Nat) (p : Nat → Bool) : Bool :=
  (earlyDets im).any (fun w => fld w 31 28 == sp && p (fld w 27 0))

/-- The stage deadline of a detector decision: 24 tk in place of 32 where a task reads it in the same instant (Table 1-7, R250). -/
def detDeadline (early : Bool) : Nat := if early then 24 else 32

/-- The decision of signal `n` feeds a same-instant input: an alarm on it, an alarm on a mode of which it is a member, or that mode. -/
def earlySig (im : Image) (n : Nat) : Bool :=
  earlyDet im 2 (fun a => if imBit im secOSC_ALARM a 0 28 then (modeMembers im (imFld im secOSC_ALARM a 0 7 0)).contains n
    else imFld im secOSC_ALARM a 0 11 0 == n) ||
  earlyDet im 3 (fun m => (modeMembers im m).contains n)

/-- The island evaluation of interconnection `i` decides a same-instant input. -/
def earlyIcn (im : Image) (i : Nat) : Bool :=
  earlyDet im 1 (fun c => decide (6 ≤ cmpSrc im c) && cmpIcn im c == i) || earlyDet im 4 (fun x => icnOfPair im (x % 1024) == i) ||
  earlyDet im 5 (fun c => icnOfCgrp im c == i)

/-- Comparator `c` is a same-instant input. -/
def earlyCmp (im : Image) (c : Nat) : Bool := earlyDet im 1 (· == c)

/-- An alarm decided on arrival reads signal `n`, whose update then runs on arrival. -/
def sigOnArrival (im : Image) (n : Nat) : Bool :=
  (imValid im secOSC_ALARM).any (fun a => imBit im secOSC_ALARM a 0 27 && !imBit im secOSC_ALARM a 0 28 &&
    imFld im secOSC_ALARM a 0 11 0 == n)

/-- The burst allowance of the streams that carry signal `n`. -/
def sigBurst (im : Image) (n : Nat) : Nat := ((sigChans im n).map (fun c => dir im (chanStrm im c) 4 7 4)).foldl max 1

/-! ## What an image receives and sends -/

/-- Received frames as the budget counts them: rate as num / den, bytes from the Ethernet header to the FCS without a trailer, ports, burst
allowance, value slots, and whether a crypto engine verifies them. -/
structure RxLoad where
  num : Nat
  den : Nat := 1
  bytes : Nat
  mask : Nat
  burst : Nat
  slots : Nat
  auth : Bool := false
  /-- Per-arrival comparators that the frame completes. -/
  cmps : Nat := 0
  /-- One of them is a same-instant input of a task (R250). -/
  early : Bool := false
  deriving DecidableEq, Repr

/-- The per-arrival comparators that a frame of stream `n` completes. -/
def strmCmps (im : Image) (n : Nat) : List Nat :=
  (imValid im secISL_CMP).filter (fun c => cmpPerArr im c && (cmpChans im c).any (fun k => (bundle im n).contains (chanStrm im k)))

/-- A stream's frames: those of the entry with BLOCK 0; the members of a bundle share them. -/
def strmLoad (im : Image) (n : Nat) : RxLoad :=
  { num := dirRate im n, bytes := ipLen (dirAddr im n 10) (dir im n 7 27 16) (dir im n 4 31 16) (dirTransport im n == 1 || dirTransport im n == 2)
    mask := dir im n 7 12 0, burst := dir im n 4 7 4, slots := sumN ((bundle im n).map (fun m => dir im m 2 8 0))
    auth := dirTransport im n == 3 && imBit im secSTREAM_DIR n 9 13
    cmps := (strmCmps im n).length, early := (strmCmps im n).any (earlyCmp im) }

/-- A sampled-value subscription, at its message rate (R171). -/
def subLoad (im : Image) (n : Nat) : RxLoad :=
  { num := subFs im n, den := subAsdus im n, bytes := Config.svLen im.vintage n, mask := sub im n 2 12 0, burst := sub im n 0 18 16
    slots := subChans im n * subAsdus im n }

def rxLoads (im : Image) : List RxLoad :=
  ((imValid im secSTREAM_DIR).filter (fun n => dir im n 1 19 14 == 0 && dirTransport im n != 4)).map (strmLoad im) ++
    (imValid im secSV_SUB).map (subLoad im)

/-- Wire bits of one frame of `bytes` bytes at port `p`: with the trailer of a pair, the preamble and the inter-frame gap. -/
def wireBits (im : Image) (p bytes : Nat) : Nat := 8 * (bytes + (if (pairOf im p).isSome then 6 else 0) + 20)

/-- Σ wire bits/s that port `p` receives, rounded up. -/
def portRx (im : Image) (p : Nat) : Nat :=
  sumN (((rxLoads im).filter (fun x => Nat.testBit x.mask p)).map (fun x => ceilDiv (wireBits im p x.bytes * x.num) (max 1 x.den)))

/-- The ports that the image enables. -/
def usedPorts (im : Image) : List Nat := (List.range 13).filter (fun p => fld (portCfg im p) 2 0 != 0)

/-- The wire time of `bits` bits on port `p` in units of 2⁻¹⁶ tk, rounded up. -/
def wireTime (im : Image) (p bits : Nat) : Nat :=
  ceilDiv (bits * 1024 * im.f0 * 65536) (modeSpeed (fld (portCfg im p) 2 0) * 1000000)

/-- The longest frame of output stream `n`, from the Ethernet header to the FCS. -/
def osBytes (im : Image) (n : Nat) : Nat :=
  ipLen (osDst im n) (osF im n 3 27 16) (osFrameLen im n) (osTcp im n)

/-- Frames per second of output stream `n`. -/
def osRate (im : Image) (n : Nat) : Nat := groupRate im (osGroup im n) / max 1 (osF im n 2 7 0)

/-- The highest rate of the groups whose results publication `n` carries; a publication of points of tasks alone has theirs. -/
def gpRate (im : Image) (n : Nat) : Nat := ((gpGroups im n).map (groupRate im)).foldl max 1

/-- Output stream `n` sends the first frame of its group for an instant (R324): no data stream of the group has a lower index. -/
def firstOfGroup (im : Image) (n : Nat) : Bool :=
  !((imValid im secOUT_STREAM).any (fun m => decide (m < n) && decide (osKind im m < 2) && osGroup im m == osGroup im n))

/-- The stage deadlines of a frame of output stream `n` (Table 1-7), tk from path start: assembled and departed. Of the data streams of a
group the first has the deadlines of the first frame, every other those of the last. DESIGN CHOICE (assumption 44). -/
def osDeadlines (im : Image) (n : Nat) : Nat × Nat :=
  if 2 ≤ osKind im n then (48, 64) else if firstOfGroup im n then (24, 48) else (72, 96)

/-- What port `p` sends within a bound, with the departures of Table 1-7. -/
def txSrcs (im : Image) (p : Nat) : List Src :=
  let time := fun (bytes : Nat) => wireTime im p (wireBits im p bytes)
  ((imValid im secOUT_STREAM).filter (fun n => Nat.testBit (osF im n 3 12 0) p)).map (fun n =>
      { d := (osDeadlines im n).2, num := osRate im n, c := time (osBytes im n) }) ++
    ((imValid im secGOOSE).filter (fun n => Nat.testBit (gpF im n 6 12 0) p)).map (fun n =>
      { d := 56, num := gpRate im n, c := time (Config.gooseMax im.vintage n) })

/-! ## Work of the engines -/

/-- One kind of work of the image, the size on which its cost depends, and its release. -/
structure Work where
  kind : Nat
  size : Nat
  d : Nat
  num : Nat
  den : Nat := 1
  b : Nat := 1
  deriving DecidableEq, Repr

/-- The instants that group `g` may hold open at once (R150). -/
def openInstants (im : Image) (g : Nat) : Nat := ceilDiv (groupWindow im g * 1024) (max 1 (1024 * im.f0 / max 1 (groupRate im g))) + 1

/-- Elements that a scan of task `t` executes at worst, with every error task (R261). -/
def taskSize (im : Image) (t : Nat) : Nat := (mainElems im t).length + sumN ((taskStns im t).map (fun n => (errElems im n).length))

/-- Every source of bounded work of an image: 0 a frame written as records, 1 a frame verified, 2 per-arrival comparators, 3 a window close,
4 a signal update (R200), 5 the comparators of a group at its seal, 6 an island evaluation, 7 a vote, 8 a scan, 9 a capture sample, 10 a
metering commit (R300), 11 an output frame, 12 a GOOSE message, 13 a frame signed, 14 the cycle of a metering point (R297), 15 a GOOSE
message verified, 16 a billing record signed, within 2 s (R315). -/
def works (im : Image) : List Work :=
  let gs := (List.range 64).filter (groupEn im)
  let rx := rxLoads im
  rx.map (fun x => { kind := 0, size := x.slots, d := 8, num := x.num, den := x.den, b := x.burst }) ++
  (rx.filter (·.auth)).map (fun x => { kind := 1, size := x.bytes, d := 8, num := x.num, den := x.den, b := x.burst }) ++
  (rx.filter (fun x => x.cmps != 0)).map (fun x =>
    { kind := 2, size := x.cmps, d := detDeadline x.early, num := x.num, den := x.den, b := x.burst }) ++
  gs.map (fun g => { kind := 3, size := openInstants im g * sumN ((groupStrms im g).map (fun n => dir im n 2 8 0)), d := 24, num := groupRate im g }) ++
  (imValid im secOSC_SIGNAL).map (fun n =>
    { kind := 4, size := (sigBins im n).length, d := detDeadline (earlySig im n), num := sigRate im n
      b := if sigOnArrival im n then sigBurst im n else 1 }) ++
  gs.map (fun g =>
    { kind := 5, size := (groupCmps im g).length, d := detDeadline ((groupCmps im g).any (earlyCmp im)), num := groupRate im g }) ++
  ((List.range 4).filter (fun i => !(islGroups im i).isEmpty)).map (fun i =>
    { kind := 6, size := (icnSigs im i).length + (icnPairs im i).length + (icnTies im i).length
      d := detDeadline (earlyIcn im i), num := ((islGroups im i).map (groupRate im)).foldl max 0 }) ++
  (imValid im secVOTE).map (fun v => { kind := 7, size := voteN im v, d := 32, num := groupRate im (voteGroup im v) }) ++
  (imValid im secSCH_TASK).map (fun t =>
    { kind := 8, size := taskSize im t, d := if (sameInputs im t).isEmpty then 40 else 16, num := groupRate im (taskGroup im t), b := if voteBound im t then taskF im t 0 9 0 else 1 }) ++
  (imValid im secCAP_REC).map (fun r => { kind := 9, size := recNch im r, d := 1024, num := recRate im r }) ++
  [{ kind := 10, size := 0, d := 64, num := 32 * im.f0 }] ++
  (imValid im secOUT_STREAM).map (fun n => { kind := 11, size := osFrameLen im n, d := (osDeadlines im n).1, num := osRate im n }) ++
  (imValid im secGOOSE).map (fun n => { kind := 12, size := gpF im n 8 31 0 % 65536, d := 48, num := gpRate im n }) ++
  ((imValid im secOUT_STREAM).filter (fun n => imBit im secOUT_STREAM n 10 13)).map (fun n =>
    { kind := 13, size := osFrameLen im n, d := (osDeadlines im n).1, num := osRate im n }) ++
  ((imValid im secGOOSE).filter (fun n => imBit im secGOOSE n 0 28)).map (fun n => { kind := 13, size := 0, d := 48, num := gpRate im n }) ++
  (imValid im secMTR_POINT).map (fun p => { kind := 14, size := (ptSlots im p).length, d := 64, num := im.f0 }) ++
  ((imValid im secSCH_DATASET).filter (fun d => imBit im secSCH_DATASET d 0 29)).map (fun d =>
    { kind := 15, size := dsF im d 8 13 4, d := 8, num := 1000, b := dsF im d 0 26 24 }) ++
  (imValid im secMTR_POINT).map (fun p =>
    { kind := 16, size := 256, d := 2 * 1024 * im.f0, num := if imBit im secMTR_POINT p 0 27 then 65 else 1, den := ptF im p 0 11 0 })

/-- Units, blocking term in beats, and the kinds of work charged to a line. -/
def lineKinds : Nat → Nat × Nat × List Nat
  | 5 => (24, 0, [2, 4, 5, 6, 7])
  | 7 => (1, 0, [3])
  | 8 => (1, 0, [8])
  | 9 => (32, 32, [0, 3, 4, 8, 9, 10, 11, 12, 14])
  | 10 => (2, 32, [1, 13, 15, 16])
  | 11 => (1, 32, [10])
  | _ => (1, 0, [11, 12])

/-- The service time of one item, from the cost table of the module's stepping. -/
def srcOf (line : Nat) (w : Work) : Src := { d := w.d, num := w.num, den := w.den, b := w.b, c := Config.cost line w.kind w.size }

/-- The resource of one of the lines 5 and 7 to 12; a locked sequence has 32 beats (R363). -/
def lineRes (im : Image) (line : Nat) : Res :=
  let (units, beats, kinds) := lineKinds line
  { line := line, units := units, block := if beats = 0 then 0 else Config.cost line 255 beats,
    srcs := ((works im).filter (fun w => kinds.contains w.kind)).map (srcOf line) }

/-- The transmit resource of port `p`: the blocking term is one frame of MAXLEN. -/
def portRes (im : Image) (p : Nat) : Res :=
  { line := 4, res := p, units := 1, block := wireTime im p (8 * (fld (portCfg im p) 31 18 + 20)), srcs := txSrcs im p }

/-- The worst-case execution of a task, RUN_WC as the compiler declares it and as the cost table gives it, is at most 32 tk, or 16 tk
where it has same-instant inputs (R246). -/
def execOk (im : Image) (t : Nat) : Bool :=
  let lim := if (sameInputs im t).isEmpty then 32 else 16
  decide (taskF im t 2 31 16 ≤ lim * 1024) && decide (Config.cost 8 8 (taskSize im t) ≤ lim * 65536)

/-! ## Elements of a task -/

/-- The elements of task `t`: its main logic and the error tasks of its stations. -/
def taskElems (im : Image) (t : Nat) : List Nat := mainElems im t ++ (taskStns im t).flatMap (errElems im)

def elemsOf (im : Image) (t lo hi : Nat) : List Nat :=
  ((taskElems im t).filter (fun e => decide (lo ≤ elemF im e 0 31 26 ∧ elemF im e 0 31 26 ≤ hi))).mergeSort (fun a b => decide (a ≤ b))

/-- The edge memories of task `t`, ascending; a TP's previous input stands with its timer. -/
def taskEdges (im : Image) (t : Nat) : List Nat :=
  ((elemsOf im t 0x24 0x25).map (fun e => elemF im e 0 15 0) ++
    (elemsOf im t 0x23 0x23).flatMap (fun e => [elemF im e 3 31 16, elemF im e 3 31 16 + 1])).mergeSort (fun a b => decide (a ≤ b))

/-- The link variables that task `t` writes. -/
def taskLinks (im : Image) (t : Nat) : List Nat :=
  (((taskPoints im t).filter (fun p => imFld im secSCH_POINT p 0 31 29 == 5)).map (fun p => imFld im secSCH_POINT p 1 11 0)).mergeSort
    (fun a b => decide (a ≤ b))

/-! ## The Calfa link -/

/-- Bytes of the block of task `t` (Table 16-3). -/
def taskBlockLen (im : Image) (t : Nat) : Nat :=
  16 + 20 * (elemsOf im t 0x20 0x22).length + 8 * (elemsOf im t 0x23 0x23).length + 4 * ceilDiv (taskEdges im t).length 32 +
    4 * ceilDiv (elemsOf im t 0x26 0x27).length 32 + 260 * (elemsOf im t 0x28 0x29).length + 8 * (taskLinks im t).length +
    4 * (taskStns im t).length

/-- Wire bits of a block of `n` bytes in fragments of at most 9,136 bytes. -/
def rackBits (n : Nat) : Nat := 8 * (n + max 1 (ceilDiv n 9136) * (0x38 + 18 + 20))

/-- Line 13: every block changed in one cyc, the largest once more as the baseline share, and GEN_END, at f0 generations per second. -/
def rackLoad (im : Image) : Nat :=
  let bs := (List.range 16).map (taskBlockLen im) ++ List.replicate 64 1028 ++ [2308] ++ List.replicate 32 1024
  if im.paired then im.f0 * (sumN (bs.map rackBits) + rackBits (bs.foldl max 0) + 8 * (48 + 38)) else 0

/-! ## The records (R36, R381) -/

/-- The resources of the lines 4, 5 and 7 to 12, ascending. -/
def resources (im : Image) : List Res := (usedPorts im).map (portRes im) ++ [5, 7, 8, 9, 10, 11, 12].map (lineRes im)

/-- The sections whose counts line 0 tests, by ascending TYPE. -/
def countedSects (im : Image) : List Sect := im.sects.filter (fun x => x.typ != secBUDGET && x.typ != secNAME)

/-- Demand of two vintages summed (line 14). -/
def both (a b : Res) : Res := { a with line := 14, res := 0xFF, srcs := a.srcs ++ b.srcs }

/-- Of two records of one line, the one whose demand is the larger part of its capacity; the first on a tie. -/
def tighter (a b : List Word) : List Word :=
  let n64 := fun (r : List Word) (i : Nat) => (r.getD i 0#32).toNat + 2 ^ 32 * (r.getD (i + 1) 0#32).toNat
  if n64 a 2 * n64 b 4 < n64 b 2 * n64 a 4 then b else a

/-- The record of line 14: the tightest of the lines 4, 5 and 7 to 12 over the first 96 tk, the demand of the vintage before taken as the
image's own (assumption 44). -/
def transitionRec (im : Image) : List Word :=
  ((resources im).map (fun x => demandRec im.f0 96 (both x x))).foldl tighter (budgetRec 14 0xFF 1 0 65536 0)

/-- The module's own budget set: a function of the image's declarations, f0 and the cost table. No parameter value enters it, so it is the
budget at the most demanding value of every range (R38). -/
def ownBudget (im : Image) : List (List Word) :=
  let rx := rxLoads im
  (countedSects im).map (fun x => budgetRec 0 (x.typ % 256) 0 x.recs.length (match secKind x.typ with
    | some k => k.cap
    | none => 0) 0) ++
  [budgetRec 1 0xFF 0 (sumN (rx.map (fun x => ceilDiv x.num (max 1 x.den)))) 1000000 0,
   budgetRec 2 0xFF 0 (sumN ((List.range 13).map (portRx im))) 32000000000 0] ++
  (usedPorts im).map (fun p => budgetRec 3 p 0 (portRx im p) (modeSpeed (fld (portCfg im p) 2 0) * 900000) 0) ++
  (usedPorts im).map (fun p => demandRec im.f0 1024 (portRes im p)) ++
  [demandRec im.f0 1024 (lineRes im 5), budgetRec 6 0xFF 0 (imValid im secSV_SLOT).length 256 0, budgetRec 6 0xFF 0 (imValid im secSV_SUB).length 32 0] ++
  [7, 8, 9, 10, 11, 12].map (fun l => demandRec im.f0 1024 (lineRes im l)) ++
  [budgetRec 13 0xFF 0 (rackLoad im) 22500000000 0, transitionRec im]

/-- A budget record passes its test (R381). -/
def budgetPass (r : List Word) : Bool :=
  let n64 := fun (i : Nat) => (r.getD i 0#32).toNat + 2 ^ 32 * (r.getD (i + 1) 0#32).toNat
  decide (n64 2 ≤ n64 4) && decide ((r.getD 6 0#32).toNat ≤ 2 ^ 24)

/-- The line of the first budget record that differs from the module's own set or fails. -/
def budgetFault : List (List Word) → List (List Word) → Option Nat
  | [], [] => none
  | a :: as, b :: bs =>
    if a == b && budgetPass b then budgetFault as bs else some (fld (b.getD 0 0#32) 31 24)
  | a :: _, [] => some (fld (a.getD 0 0#32) 31 24)
  | [], b :: _ => some (fld (b.getD 0 0#32) 31 24)

/-- Check 13. -/
def budgetCheck (im : Image) : Option Nat :=
  if !line0Ok im then some 0
  else
    let scans := (imValid im secSCH_TASK).all (execOk im)
    match budgetFault (imRecs im secBUDGET) (ownBudget im) with
    | some l => some (if scans then l else min l 8)
    | none => if scans then none else some 8

/-- Line 14 against the vintage in force: old and new demand together pass over the first 96 tk. -/
def transitionOk (old im : Image) : Bool :=
  (resources im).all (fun x => match (resources old).find? (fun y => y.line == x.line && y.res == x.res) with
    | some y => budgetPass (demandRec im.f0 96 (both x y))
    | none => true)

/-! ## The checks in order -/

/-- Checks 1 to 9: the reason of the first that fails, 0 when all pass. -/
def headerReason (s : State) (raw : List Byte) (staging : Bool) : Nat :=
  let v := hdrVintage raw
  let f := beAt raw 0x15 1
  if !headOk raw then 1
  else if !lengthOk raw then 2
  else if !checkWordOk raw then 3
  else if !lcAdmits s (hdrSigned raw) then 4
  else if !signatureOk s raw then 5
  else if v = 0 ∨ v = 0xFFFFFFFF ∨ (staging ∧ v = s.cfg.active.vintage) then 6
  else if f ≠ 50 ∧ f ≠ 60 then 7
  else if beAt raw 0x18 1 ≠ s.part.costLtr ∨ beAt raw 0x19 1 ≠ s.part.costNum ∨ leAt raw 0x1A 2 ≠ s.part.costRev then 8
  else if s.sec.fwVer < leAt raw 0x24 4 then 9
  else 0

/-- The load checks of Table 14-11 (R383). -/
def loadCheck (s : State) (raw : List Byte) (staging : Bool) : LoadRes :=
  let r := headerReason s raw staging
  if r ≠ 0 then { reason := r }
  else match tableCheck raw with
    | some t => { reason := 10, typ := t, record := 0xFFFF }
    | none => match hashFault raw with
      | some t => { reason := 11, typ := t, record := 0xFFFF }
      | none =>
        let im := parseImage raw
        match recordFault im with
        | some (t, n) => { reason := 12, typ := t, record := n }
        | none => match budgetCheck im with
          | some l => { reason := 13, line := l }
          | none => if staging && !transitionOk s.cfg.active im then { reason := 13, line := 14 } else {}

end Sys2Proof.Machine
end

