-- ==== Sys2Proof/Machine/CfgOps.lean ====
section
/-!
DEFINITION. Sys2Proof/Machine/CfgOps.lean: staging, slots, scheduling and parameter batches (R386 to R394).
-/
namespace Sys2Proof.Machine

def cfgFlag (b : Nat) (s : State) : State := setFlag s (CFG + 4) b

/-- CFG_EV_REFUSED (R394). -/
def cfgRefuse (op reason : Nat) (s : State) : State := raise 0x0E08 .all (leBytes 1 op ++ leBytes 1 reason) s

/-- A write of CFG_CTRL with operation `op` by function `n`: the partition, the KEY and the right, then `f` (R394, R401). -/
def cfgCtrl (n key op : Nat) (f : State → State) (s : State) : State :=
  if !validFn s n then deniedInvalid n s
  else if key ≠ 0xC0F6 ∨ (op ≠ 8 ∧ op ≠ 9 ∧ !imgLoad s n) then cfgRefuse op 20 s
  else f s

/-- CFG_STAT.BUSY. -/
def cfgBusy (s : State) : Bool := s.cfg.staging.isSome || s.cfg.writing.isSome

/-! ## Loads -/

/-- The result of a load from source `src` (CFG_LOAD.SRC) is shown, counted and reported (R383, Table 14-11). -/
def loadDone (src : Nat) (r : LoadRes) (s : State) : State :=
  let ok := decide (r.reason = 0)
  let s := { s with cfg := { s.cfg with
    load := BitVec.ofNat 32 (src * 2 ^ 28 + b2n ok * 2 ^ 27 + r.reason * 65536 + r.line * 256)
    loadDetail := BitVec.ofNat 32 (r.typ * 65536 + r.record) } }
  let s := if ok then s else count (CFG + 0x304) (cfgFlag 0 s)
  raise 0x0E01 .all (leBytes 1 src ++ leBytes 1 (b2n ok) ++ leBytes 1 r.reason ++ leBytes 1 r.line) s

/-- Slot 0 (A) or 1 (B). -/
def slotN (s : State) (k : Nat) : Slot := if k = 0 then s.cfg.slotA else s.cfg.slotB

/-- Change a slot. -/
def modSlotN (k : Nat) (f : Slot → Slot) (s : State) : State :=
  if k = 0 then { s with cfg := { s.cfg with slotA := f s.cfg.slotA } } else { s with cfg := { s.cfg with slotB := f s.cfg.slotB } }

/-- The bytes of the pushed image: IMG_LEN bytes of the staging buffer. -/
def pushRaw (s : State) : List Byte := memRead s.cfg.pushBuf 0 (max 256 (min 134217728 (hdrImgLen (memRead s.cfg.pushBuf 0 256))))

/-- The bytes of source 1 (slot A), 2 (slot B) or 3 (push). -/
def sourceRaw (s : State) (src : Nat) : List Byte := if src = 3 then pushRaw s else (slotN s (src - 1)).raw

/-- A slot whose image failed its check word is bad (Table 14-11). -/
def slotBad (src reason : Nat) (s : State) : State :=
  if (src = 1 ∨ src = 2) ∧ reason = 3 then cfgFlag 2 (modSlotN (src - 1) (fun x => { x with state := 2 }) s) else s

/-- CFG_CTRL OP 1 to 3: staging begins; an earlier staged image is discarded. -/
def stage (n key src : Nat) (s : State) : State :=
  cfgCtrl n key src (fun s =>
    if cfgBusy s then cfgRefuse src 21 s
    else if s.cfg.sched.isSome then cfgRefuse src 23 s
    else count (CFG + 0x300) { s with cfg := { s.cfg with staging := some src, staged := none, stagedRaw := [], stagedSrc := 0 } }) s

/-- STAGE_SLOT_A (R386). -/
def execStageSlotA (n key : Nat) (s : State) : Out := act s (stage n key 1)

/-- STAGE_SLOT_B (R386). -/
def execStageSlotB (n key : Nat) (s : State) : Out := act s (stage n key 2)

/-- STAGE_PUSH (R386). -/
def execStagePush (n key : Nat) (s : State) : Out := act s (stage n key 3)

/-- STAGING_DONE (R383, R386): the checks on a private copy. -/
def execStagingDone (s : State) : Out := act s fun s =>
  match s.cfg.staging with
  | none => s
  | some src =>
    let raw := sourceRaw s src
    let r := loadCheck s raw true
    let s := loadDone src r (slotBad src r.reason { s with cfg := { s.cfg with staging := none } })
    if r.reason = 0 then { s with cfg := { s.cfg with staged := some (parseImage raw), stagedRaw := raw, stagedSrc := src } } else s

/-! ## Slots -/

/-- WRITE_SLOT (R386): the staged image if one is staged, the active image otherwise; factory defaults have no bytes. -/
def execWriteSlot (n key slot : Nat) (s : State) : Out := act s fun s =>
  cfgCtrl n key 4 (fun s =>
    let raw := if s.cfg.staged.isSome then s.cfg.stagedRaw else s.cfg.activeRaw
    if cfgBusy s then cfgRefuse 4 21 s
    else if raw.isEmpty then cfgRefuse 4 22 s
    else if slot % 2 = s.cfg.boot then cfgRefuse 4 25 s
    else
      let s := modSlotN (slot % 2) (fun _ => { state := 3, raw := [] }) s
      { s with cfg := { s.cfg with writing := some (slot % 2), writeRaw := raw } }) s

/-- A good slot holds these bytes. -/
def slotHolds (s : State) (k : Nat) (raw : List Byte) : Bool := (slotN s k).state == 1 && (slotN s k).raw == raw

/-- SLOT_WRITE_DONE (R386). -/
def execSlotWriteDone (s : State) : Out := act s fun s =>
  match s.cfg.writing with
  | none => s
  | some k =>
    let raw := s.cfg.writeRaw
    let ok := checkWordOk raw
    let s := modSlotN k (fun _ => { state := if ok then 1 else 2, raw := raw }) s
    let s := { s with cfg := { s.cfg with
      writing := none, writeRaw := [], volatile := s.cfg.volatile && !(ok && raw == s.cfg.activeRaw) } }
    let s := count (CFG + 0x314) (if ok then s else cfgFlag 2 s)
    raise 0x0E05 .all (leBytes 1 k ++ leBytes 1 (slotN s k).state) s

/-- SET_BOOT_SLOT (R386). -/
def execSetBootSlot (n key slot : Nat) (s : State) : Out := act s fun s =>
  cfgCtrl n key 7 (fun s =>
    if (slotN s (slot % 2)).state ≠ 1 then cfgRefuse 7 27 s else { s with cfg := { s.cfg with boot := slot % 2 } }) s

/-! ## Scheduling -/

/-- The second that CFG_ARG of function `n` names; 0 is the current second + 2 (R387). -/
def argSecond (s : State) (n : Nat) : Nat :=
  let v := (fnReg s n (CFG + 0x1C)).toNat * 2 ^ 32 + (fnReg s n (CFG + 0x18)).toNat
  if v = 0 then taiSec s + 2 else v

/-- R387 refuses the staged image for second `t`. -/
def schedRefused (s : State) (im : Image) (t : Nat) : Bool :=
  decide (t < taiSec s + 2 ∨ taiSec s + 86400 < t) || !hasTime s || im.f0 != s.cfg.active.f0

/-- CANCEL_ACTIVATION (R387): until 1 s before the scheduled second. -/
def execCancelActivation (n key : Nat) (s : State) : Out := act s fun s =>
  cfgCtrl n key 6 (fun s => match s.cfg.sched with
    | some t =>
      if t * 1000000000 < s.tb.now + 1000000000 then cfgRefuse 6 26 s
      else
        let s := (List.range 256).foldl (fun s n => if (osOf s n).cfgPend then modOs n (fun r => { r with cfgPend := false }) s else s) s
        raise 0x0E04 .all [] { s with cfg := { s.cfg with sched := none } }
    | none => cfgRefuse 6 26 s) s

/-- DISCARD_STAGED (R394). -/
def execDiscardStaged (n key : Nat) (s : State) : Out := act s fun s =>
  cfgCtrl n key 10 (fun s =>
    if s.cfg.staged.isNone then cfgRefuse 10 22 s
    else if s.cfg.sched.isSome then cfgRefuse 10 23 s
    else { s with cfg := { s.cfg with staged := none, stagedRaw := [], stagedSrc := 0 } }) s

/-! ## Batches (R390 to R392) -/

/-- CFG_EV_BATCH_REFUSED: the reason and the first entry at fault; the last commit shows as refused. -/
def batchRefused (n reason entry : Nat) (s : State) : State :=
  let s := modFn s n (fun f => { f with batLast := 2, batReason := reason })
  raise 0x0E07 .all (leBytes 1 reason ++ leBytes 2 entry) (flagCount (CFG + 4) 3 (CFG + 0x310) s)

/-- The buffer with (record, value) appended; a later entry for the same record supersedes the earlier one. -/
def batchPut (l : List (Nat × Word)) (p : Nat) (v : Word) : List (Nat × Word) :=
  if l.any (fun e => e.1 == p) then l.map (fun e => if e.1 = p then (p, v) else e) else l ++ [(p, v)]

/-- An append to the batch buffer of function `n`, and whether it was taken; a full buffer refuses it with reason 34, which is no
commit and counts in no counter. -/
def batchAppend (n p : Nat) (v : Word) (s : State) : State × Bool :=
  let f := fnOf s n
  let l := batchPut f.batch p v
  if 256 < l.length then
    (raise 0x0E07 .all (leBytes 1 34 ++ leBytes 2 256) (cfgFlag 3 (modFn s n (fun f => { f with batReason := 34 }))), false)
  else (modFn s n (fun f => { f with batch := l, batVint := if f.batch.isEmpty then s.cfg.active.vintage else f.batVint }), true)

/-- CFG_BAT_VAL_WRITE (R390). -/
def execCfgBatValWrite (n : Nat) (v : Word) (s : State) : Out := act s fun s =>
  if !validFn s n then deniedInvalid n s else (batchAppend n (fld (fnReg s n (CFG + 0x50)) 13 0) v s).1

/-- The task that parameter record `k` belongs to (R376). -/
def parTask (im : Image) (k : Nat) : Option Nat :=
  if imCount im secSCH_PARAM ≤ k then none
  else
    let x := imFld im secSCH_PARAM k 0 13 0
    if imFld im secSCH_PARAM k 0 29 28 = 3 then
      match (imValid im secSCH_DATASET).find? (fun d =>
          let m := ((dsTypes im d).filter (fun j => decide (j ≤ 7))).length
          decide (dsF im d 9 31 19 ≤ x ∧ x < dsF im d 9 31 19 + m)) with
      | some d => ((imValid im secSCH_STATION).find? (fun n => (stnDss im n).contains d)).map (fun n => stnF im n 0 30 27)
      | none => none
    else taskOfElem im x

/-- Function `n` may tune parameter record `k`. -/
def mayTune (s : State) (n k : Nat) : Bool :=
  match parTask s.cfg.active k with
  | some t => tuneTask s n t
  | none => false

/-- The index of the first entry that satisfies `p`. -/
def firstEntry (p : Nat × Word → Bool) (l : List (Nat × Word)) : Option Nat := l.findIdx? p

/-- Why a commit of function `n` is refused, with the entry at fault (R390). -/
def commitFault (s : State) (n : Nat) : Option (Nat × Nat) :=
  let f := fnOf s n
  if f.batch.isEmpty then some (30, 0)
  else match firstEntry (fun e => !mayTune s n e.1) f.batch with
    | some i => some (31, i)
    | none => match firstEntry (fun e => !parInRange s.cfg.active e.1 e.2) f.batch with
      | some i => some (32, i)
      | none =>
        let late := match s.cfg.sched with
          | some t => decide (t * tps s ≤ s.tb.grid + 1)
          | none => false
        if f.batVint != s.cfg.active.vintage || late then some (33, 0) else none

/-- Commit the batch buffer of function `n`: the state, the refusal reason or 0, and the batch number. -/
def commitBatch (n : Nat) (s : State) : State × Nat × Nat :=
  match commitFault s n with
  | some (r, i) => (batchRefused n r i s, r, 0)
  | none =>
    let l := (fnOf s n).batch
    let num := s.cfg.batNum + 1 + (s.cfg.commits.filter (fun b => decide (b.fn ≤ n))).length
    let s := { s with cfg := { s.cfg with commits := s.cfg.commits ++ [{ fn := n, tick := s.tb.tick, entries := l }] } }
    (modFn s n (fun f => { f with batch := [], batLast := 1, batReason := 0 }), 0, num)

/-- COMMIT_BATCH (R390). -/
def execCommitBatch (n key : Nat) (s : State) : Out := act s (cfgCtrl n key 8 (fun s => (commitBatch n s).1))

/-- EMPTY_BATCH (R390). -/
def execEmptyBatch (n key : Nat) (s : State) : Out := act s (cfgCtrl n key 9 (fun s => modFn s n (fun f => { f with batch := [] })))

/-- One batch takes force (R264, R391). -/
def applyBatch (b : Batch) (s : State) : State :=
  let num := s.cfg.batNum + 1
  let s := { s with cfg := { s.cfg with
    batNum := num, pars := b.entries.foldl (fun m e => fset m e.1 e.2) s.cfg.pars } }
  let ts := (List.range 16).filter (fun t => b.entries.any (fun e => parTask s.cfg.active e.1 == some t))
  let s := ts.foldl (fun s t => taskCount t 5 s) s
  let s := raise 0x0905 (.groups (ts.map (taskGroup s.cfg.active)).eraseDups) (leBytes 4 num) (schFlag 4 s)
  count (CFG + 0x30C) s

/-- The values in force go to the cellar with the check word of the active image (R392). -/
def savePars (s : State) : State := { s with nv := { s.nv with pars := s.cfg.pars, parCheck := s.cfg.active.check } }

/-- Committed batches whose boundary has come, in ascending function number (R391). -/
def applyCommits (s : State) : State :=
  let due := s.cfg.commits.filter (fun b => decide (b.tick < s.tb.tick))
  if due.isEmpty then s
  else
    let s := { s with cfg := { s.cfg with commits := s.cfg.commits.filter (fun b => decide (s.tb.tick ≤ b.tick)) } }
    savePars ([0, 1, 2, 3].foldl (fun s n => (due.filter (fun b => b.fn == n)).foldl (fun s b => applyBatch b s) s) s)

/-- BATCH_APPLY (R391). -/
def execBatchApply (s : State) : Out := act s applyCommits

/-! ## Registers -/

/-- CFG_STAT (Table 14-17). -/
def cfgStat (s : State) : Word :=
  BitVec.ofNat 32 (s.cfg.src * 2 ^ 30 + b2n s.cfg.defaultsUsed * 2 ^ 29 + b2n s.cfg.sched.isSome * 2 ^ 28 + b2n s.cfg.staged.isSome * 2 ^ 27 +
    b2n (cfgBusy s) * 2 ^ 26 + s.cfg.boot * 2 ^ 25 + b2n s.cfg.volatile * 2 ^ 24 + b2n s.cfg.active.signed * 2 ^ 23)

/-- CFG_SLOTA_STAT and CFG_SLOTB_STAT. -/
def slotStat (s : State) (k : Nat) : Word :=
  BitVec.ofNat 32 ((slotN s k).state * 2 ^ 30 + b2n ((slotN s k).state != 0 && hdrSigned (slotN s k).raw) * 2 ^ 29)

/-- CFG_SLOTA_VINT and CFG_SLOTB_VINT: 0 unless good. -/
def slotVint (s : State) (k : Nat) : Nat := if (slotN s k).state = 1 then hdrVintage (slotN s k).raw else 0

/-- CFG_BAT_STAT. -/
def batStat (s : State) (n : Nat) : Word :=
  let f := fnOf s n
  BitVec.ofNat 32 (f.batLast * 2 ^ 28 + f.batReason * 2 ^ 20 + f.batch.length)

end Sys2Proof.Machine
end

