-- ==== Sys2Proof/Machine/HostIf.lean ====
section
/-!
DEFINITION. Sys2Proof/Machine/HostIf.lean: the host interface (chapter 15): queues, rings, fences, interrupts, resets of functions.
-/
namespace Sys2Proof.Machine

/-! ## Registers -/

def hif (s : State) (n off : Nat) : Word := fnReg s n (HIF + off)
def setHif (n off v : Nat) (s : State) : State := setFnReg s n (HIF + off) (BitVec.ofNat 32 v)

/-- The CFG register of a queue or ring by its ring code (Table 15-8). -/
def ringCfg (code : Nat) : Option Nat :=
  if code = 0 then some 0x48 else if code = 1 then some 0x68 else if code = 2 then some 0x88 else if code = 3 then some 0xC8
  else if 0x10 ≤ code ∧ code < 0x18 then some (0x408 + 0x20 * (code - 0x10))
  else if 0x20 ≤ code ∧ code < 0x24 then some (0x508 + 0x20 * (code - 0x20))
  else none

/-- The function may master the bus: it is valid and Bus Master Enable is set (R401, R403). -/
def mastering (s : State) (n : Nat) : Bool := validFn s n && (fnOf s n).bme

/-- The HOLD field of a CFG register, in tk. -/
def holdTk (cfg : Word) : Nat := fld cfg 14 8 * 1024

/-- The producer index `p` plus one is the consumer index `c`. -/
def queueFull (p c size : Nat) : Bool := (p + 1) % size == c % size

/-! ## Completions (R405 to R407) -/

/-- The 32 bytes of a completion (Table 15-2). -/
def cplBytes (c : Cmd) (status head : Nat) (phase : Bool) (r0 r1 : Nat) : List Byte :=
  leBytes 2 c.tag ++ leBytes 1 c.op ++ leBytes 1 status ++ leBytes 2 head ++ leBytes 2 (b2n phase * 2 ^ 15) ++
    (match c.acc with
     | some t => tsLE t
     | none => zeros 12) ++ leBytes 4 r0 ++ leBytes 8 r1

/-- The command in progress of function `n` completes. It is not written back after a function level reset, or when the completion
queue has been disabled. -/
def complete (n status r0 r1 : Nat) (s : State) : State :=
  match (fnOf s n).cur with
  | none => s
  | some c =>
    let s := modFn s n (fun f => { f with cur := none })
    if c.silent || !bit (hif s n 0x68) 31 then s
    else
      let size := ringSize (hif s n 0x68) 4
      let t := (hif s n 0x70).toNat % size
      let ph := (fnOf s n).cplPhase
      let raw := cplBytes c status (hif s n 0x50).toNat ph r0 r1
      let t' := (t + 1) % size
      let s := setHif n 0x70 t' (modFn s n (fun f => { f with
        cplRing := fset f.cplRing t raw, cplPhase := if t' = 0 then !ph else ph }))
      let s := irqPend n 0 (countFn n (HIF + 0x308) 0xFFFF s)
      if status = 0 then s else hifFlag n 1 (countFn n (HIF + 0x30C) 0xFFFF s)

/-- The OPs that Table 15-3 and the command tables of the other chapters name. -/
def opUsed (op : Nat) : Bool :=
  [0x01, 0x02, 0x10, 0x11, 0x20, 0x28, 0x29, 0x50, 0x51, 0x52].contains op || decide (0x40 ≤ op ∧ op ≤ 0x48) ||
    decide (0x60 ≤ op ∧ op ≤ 0x64)

/-- The right that an OP needs, as function `n` holds it now. A free take slot has no recorder and asks for none. -/
def opRight (s : State) (n : Nat) (raw : List Byte) : Bool :=
  let op := leAt raw 0 1
  if op = 0x20 then
    match fget? s.cap.takes (leAt raw 4 2) with
    | some t => Nat.testBit (recMask s.cfg.active t.rcd) n
    | none => true
  else if op = 0x28 then mtrAdmin s n
  else if op = 0x10 ∨ (0x42 ≤ op ∧ op ≤ 0x48) ∨ op = 0x50 ∨ op = 0x51 ∨ (0x61 ≤ op ∧ op ≤ 0x64) then imgLoad s n
  else true

/-- COMMAND_FETCH (R405, R406): the command whose 64 bytes are `raw` is taken once the completion queue has room. -/
def execCommandFetch (n : Nat) (raw : List Byte) (s : State) : Out := act s fun s =>
  let f := fnOf s n
  let size := ringSize (hif s n 0x48) 4
  let head := (hif s n 0x50).toNat % size
  let csize := ringSize (hif s n 0x68) 4
  if mastering s n && bit (hif s n 0x48) 31 && bit (hif s n 0x68) 31 && f.cur.isNone && head != (hif s n 0x4C).toNat % size &&
      !queueFull (hif s n 0x70).toNat (hif s n 0x6C).toNat csize then
    let raw := padTo 64 raw
    let c : Cmd := { op := leAt raw 0 1, tag := leAt raw 2 2, raw := raw, acc := if hasTime s then some s.tb.now else none,
                     right := opRight s n raw, evGen := f.evGen, hrvGen := f.hrvGen }
    setHif n 0x50 ((head + 1) % size) (modFn s n (fun f => { f with cur := some c, dma := none }))
  else s

/-- Every byte of a command outside its used ranges (offset, length) is 0. -/
def reservedOk (raw : List Byte) (used : List (Nat × Nat)) : Bool :=
  (List.range 64).all (fun i => used.any (fun u => decide (u.1 ≤ i ∧ i < u.1 + u.2)) || raw.getD i 0#8 == 0#8)

/-- The command in progress of function `n`, if it has OP `op` and has not been accepted by its owning block yet. -/
def cmdOf (s : State) (n op : Nat) : Option Cmd :=
  match (fnOf s n).cur with
  | some c => if c.op == op && !c.waits && (c.silent || mastering s n) then some c else none
  | none => none

/-- Run the command with OP `op`, whose parameters lie in the ranges `used`: without the right it completes with status 2, with a
reserved byte that is not 0 with status 3. -/
def runCmd (n op : Nat) (used : List (Nat × Nat)) (f : List Byte → State → State) (s : State) : State :=
  match cmdOf s n op with
  | none => s
  | some c =>
    if !c.right then complete n 2 0 0 s
    else if !reservedOk c.raw ([(0, 1), (2, 2)] ++ used) then complete n 3 0 0 s
    else f c.raw s

/-- Bytes that a command wrote to host memory. -/
def hostWrite (n addr : Nat) (bs : List Byte) (s : State) : State := modFn s n (fun f => { f with dma := some (addr, bs) })

/-- CMD_NOP. -/
def execCmdNop (n : Nat) (s : State) : Out := act s (runCmd n 0x01 [] (fun _ => complete n 0 0 0))

/-- CMD_UNUSED_OP (R406): status 1. -/
def execCmdUnusedOp (n : Nat) (s : State) : Out := act s fun s =>
  match (fnOf s n).cur with
  | some c => if !opUsed c.op && (c.silent || mastering s n) then complete n 1 0 0 s else s
  | none => s

/-! ## Commands of this chapter -/

/-- A length of 8 bytes to 16 MiB. -/
def lenOk (len : Nat) : Bool := decide (8 ≤ len ∧ len ≤ 16777216)

/-- CMD_IMG_PUSH: `data` is what the host memory holds; none is a host memory error. -/
def execCmdImgPush (n : Nat) (data : Option (List Byte)) (s : State) : Out := act s
  (runCmd n 0x10 [(8, 16)] (fun raw s =>
    let ofs := leAt raw 0x10 4
    let len := leAt raw 0x14 4
    if ofs % 8 ≠ 0 || !lenOk len || decide (134217728 < ofs + len) then complete n 3 0 0 s
    else if cfgBusy s then complete n 5 21 0 s
    else match data with
      | none => complete n 4 0 0 s
      | some bs => complete n 0 len 0 { s with cfg := { s.cfg with pushBuf := memWrite s.cfg.pushBuf ofs (padTo len bs) } }))

/-- The entries of PAR_BATCH. -/
def parEntries (raw : List Byte) (k : Nat) : List (Nat × Word) :=
  (List.range k).map (fun i => (leAt raw (8 + 8 * i) 2, BitVec.ofNat 32 (leAt raw (12 + 8 * i) 4)))

/-- Append entries until one is refused; whether all were taken. -/
def appendAll (n : Nat) : List (Nat × Word) → State → State × Bool
  | [], s => (s, true)
  | (p, v) :: l, s => match batchAppend n p v s with
    | (s, true) => appendAll n l s
    | (s, false) => (s, false)

/-- CMD_PAR_BATCH (R390, R391). -/
def execCmdParBatch (n : Nat) (s : State) : Out := act s fun s =>
  match cmdOf s n 0x11 with
  | none => s
  | some c =>
    let k := leAt c.raw 4 1
    let fl := leAt c.raw 5 1
    let used := [(0, 1), (2, 4)] ++ (List.range k).flatMap (fun i => [(8 + 8 * i, 2), (12 + 8 * i, 4)])
    if k = 0 ∨ 6 < k ∨ 1 < fl ∨ !reservedOk c.raw used ∨ (parEntries c.raw k).any (fun e => decide (16383 < e.1)) then complete n 3 0 0 s
    else match appendAll n (parEntries c.raw k) s with
      | (s, false) => complete n 5 34 0 s
      | (s, true) =>
        if fl = 1 then
          match commitBatch n s with
          | (s, r, num) => if r = 0 then complete n 0 0 num s else complete n 5 r 0 s
        else complete n 0 0 0 s

/-- CMD_TAKE_READ: `ok` = the host memory took the bytes. -/
def execCmdTakeRead (n : Nat) (ok : Bool) (s : State) : Out := act s
  (runCmd n 0x20 [(4, 2), (8, 16)] (fun raw s =>
    let ofs := leAt raw 0x10 4
    let len := leAt raw 0x14 4
    match fget? s.cap.takes (leAt raw 4 2) with
    | none => complete n 7 0 0 s
    | some t =>
      if !t.closed then complete n 7 0 0 s
      else if ofs % 8 ≠ 0 ∨ !lenOk len ∨ t.raw.length ≤ ofs then complete n 3 0 0 s
      else if !ok then complete n 4 0 0 s
      else
        let bs := slice t.raw ofs len
        complete n 0 bs.length 0 (hostWrite n (leAt raw 8 8) bs s)))

/-- CMD_BILL_READ. -/
def execCmdBillRead (n : Nat) (ok : Bool) (s : State) : Out := act s
  (runCmd n 0x28 [(8, 10), (0x18, 8)] (fun raw s =>
    let k := leAt raw 0x10 2
    if k = 0 ∨ 64 < k then complete n 3 0 0 s
    else if !ok then complete n 4 0 0 s
    else
      let es := (s.nv.log.filter (fun e => decide (leAt raw 8 8 ≤ e.1))).take k
      let low := match s.nv.log with
        | e :: _ => e.1
        | [] => 0
      complete n 0 es.length low (hostWrite n (leAt raw 0x18 8) (es.flatMap (fun e => e.2.raw)) s)))

/-! ## Events (R408 to R411) -/

/-- The 32 bytes of an event record (Table 15-4). -/
def eventBytes (e : Event) (eseq : Nat) (phase lost : Bool) : List Byte :=
  leBytes 2 e.code ++ leBytes 2 (b2n phase * 2 ^ 15 + b2n lost * 2 ^ 14 + b2n e.ts.isNone * 2 ^ 13) ++ leBytes 4 eseq ++
    (match e.ts with
     | some t => tsLE t
     | none => zeros 12) ++ padTo 12 e.arg

/-- The event queue of function `n` has a free entry and may be written. -/
def evqRoom (s : State) (n : Nat) : Bool :=
  mastering s n && evqOn s n && !queueFull (hif s n 0x90).toNat (hif s n 0x8C).toNat (ringSize (hif s n 0x88) 5)

/-- Place an event in the queue of function `n`. -/
def putEvent (n : Nat) (e : Event) (s : State) : State :=
  let f := fnOf s n
  let size := ringSize (hif s n 0x88) 5
  let t := (hif s n 0x90).toNat % size
  let t' := (t + 1) % size
  let q := (f.eseq + 1) % 2 ^ 32
  irqPend n 1 (setHif n 0x90 t' (modFn s n (fun f => { f with
    evRing := fset f.evRing t (eventBytes e q f.evPhase f.evLost), eseq := q, evLost := false
    evPhase := if t' = 0 then !f.evPhase else f.evPhase })))

/-- An event of function `n` is dropped (R410). -/
def dropEvent (n : Nat) (s : State) : State :=
  let s := modFn s n (fun f => { f with
    eseq := (f.eseq + 1) % 2 ^ 32, evLost := true, fenceDrops := f.fenceDrops + 1
    regDrops := if f.regFence.isSome then min 65535 (f.regDrops + 1) else f.regDrops })
  hifFlag n 3 (countFn n (HIF + 0x310) 0xFFFF s)

/-- The oldest waiting event of block `blk`, and the others. -/
def takeEvent (s : State) (n blk : Nat) : Option (EvWait × List EvWait) :=
  takeFirst (fun w => w.ev.blk == blk) (fnOf s n).evWait

/-- An event was generated at or before the instant of a fence (R412, R413, Table 15-9). -/
def fenceBefore (x : Fence) (w : EvWait) : Bool := decide (w.gen < x.evGen) || (x.ts.isSome && w.ev.ts == x.ts)

/-- The fence that a FENCE command in progress makes (R406, R412). -/
def fenceOfCmd (c : Cmd) : Fence := { token := leAt c.raw 2 2, hrv := leAt c.raw 4 1 == 1, evGen := c.evGen, hrvGen := c.hrvGen, ts := c.acc }

/-- A FENCE command holds back the events generated after its acceptance (R406, R412). -/
def fenceHolds (s : State) (n : Nat) (w : EvWait) : Bool :=
  match (fnOf s n).cur with
  | some c => c.op == 0x02 && !c.silent && !fenceBefore (fenceOfCmd c) w
  | none => false

/-- EVENT_PLACE (R410, R411): the oldest waiting event of block `blk`; across blocks the order is free. -/
def execEventPlace (n blk : Nat) (s : State) : Out := act s fun s =>
  match takeEvent s n blk with
  | none => s
  | some (w, rest) =>
    if evqRoom s n && !fenceHolds s n w then putEvent n w.ev (modFn s n (fun f => { f with evWait := rest })) else s

/-- What has waited since tick `born` has waited more than the hold time. -/
def overHeld (s : State) (born : Nat) (cfg : Word) : Bool := decide (born + holdTk cfg < s.tb.tick)

/-- EVENT_HOLD_EXPIRY (R410). -/
def execEventHoldExpiry (n blk : Nat) (s : State) : Out := act s fun s =>
  match takeEvent s n blk with
  | none => s
  | some (w, rest) =>
    if !evqRoom s n && overHeld s w.born (hif s n 0x88) then dropEvent n (modFn s n (fun f => { f with evWait := rest })) else s

/-! ## Fences (R412, R413) -/

/-- HIF_EV_FENCE. -/
def fenceEvent (s : State) (kind token : Nat) : Event :=
  { code := 0x0F01, blk := 0xF, ts := if hasTime s then some s.tb.now else none, arg := leBytes 1 kind ++ leBytes 4 token }

/-- What a fence waits for has come about. -/
def fenceClear (s : State) (n : Nat) (x : Fence) : Bool :=
  (fnOf s n).evWait.all (fun w => !fenceBefore x w) &&
  (!x.hrv || (fnOf s n).hrvWait.all (fun w => decide (x.hrvGen ≤ w.gen)))

/-- The marker of a fence that is clear: placed, dropped after the hold time, or none while the event queue is disabled. It answers
the state, and whether the marker is done with its ESEQ (none: no marker was generated). -/
def putMarker (n : Nat) (x : Fence) (e : Event) (s : State) : Option (State × Option Nat) :=
  if !evqOn s n then some (s, none)
  else if evqRoom s n then
    let s := { s with evLog := lastN 4096 (s.evLog ++ [e]), evLogSeq := s.evLogSeq + 1 }
    let s := putEvent n e s
    some (s, some (fnOf s n).eseq)
  else match x.marker with
    | some t => if overHeld s t (hif s n 0x88) then
        let s := dropEvent n s
        some (s, some (fnOf s n).eseq)
      else none
    | none => none

/-- CMD_FENCE (R412). -/
def execCmdFence (n : Nat) (s : State) : Out := act s
  (runCmd n 0x02 [(4, 1)] (fun raw s =>
    if 1 < leAt raw 4 1 then complete n 3 0 0 s
    else modFn s n (fun f => { f with
      cur := f.cur.map (fun c => { c with waits := true })
      cmdFence := (f.cur.map fenceOfCmd).or f.cmdFence })))

/-- FENCE_COMPLETE (R412). While no event queue is enabled no marker exists, and the ESEQ that RESULT1 shows is free. -/
def execFenceComplete (n : Nat) (s : State) : Out := act s fun s =>
  match (fnOf s n).cmdFence with
  | none => s
  | some x =>
    if !fenceClear s n x then s
    else
      let s := if x.marker.isNone then modFn s n (fun f => { f with cmdFence := some { x with marker := some s.tb.tick } }) else s
      let drops := (fnOf s n).fenceDrops
      match putMarker n x (fenceEvent s 0 x.token) s with
      | none => s
      | some (s, q) =>
        let s := modFn s n (fun f => { f with cmdFence := none, fenceDrops := f.fenceDrops - drops })
        let s := countFn n (HIF + 0x31C) 0xFFFF s
        match q with
        | some k => complete n 0 drops k s
        | none => let (v, s) := fresh 32 s
                  complete n 0 drops v.toNat s

/-- CFG_FENCE_REQ_WRITE (R413). -/
def execCfgFenceReqWrite (n : Nat) (v : Word) (s : State) : Out := act s fun s =>
  if !validFn s n then deniedInvalid n s
  else modFn s n (fun f => { f with
    regFence := some { token := v.toNat, evGen := f.evGen, ts := if hasTime s then some s.tb.now else none }, regDrops := if f.regFence.isSome then f.regDrops else 0 })

/-- REGISTER_FENCE_DONE (R413). -/
def execRegisterFenceDone (n : Nat) (s : State) : Out := act s fun s =>
  match (fnOf s n).regFence with
  | none => s
  | some x =>
    if !fenceClear s n x then s
    else
      let s := if x.marker.isNone then modFn s n (fun f => { f with regFence := some { x with marker := some s.tb.tick } }) else s
      match putMarker n x (fenceEvent s 1 x.token) s with
      | none => s
      | some (s, _) =>
        let s := countFn n (HIF + 0x31C) 0xFFFF (modFn s n (fun f => { f with regFence := none }))
        setFnReg s n (CFG + 0x404) (BitVec.ofNat 32 x.token)

/-! ## The harvest ring (R416) -/

/-- The order key of a record: its group, or its class. -/
def hrvKey (w : HrvWait) : Nat :=
  match w.group with
  | some g => 16 + g
  | none => if w.typ / 256 = 7 then 0 else if w.typ / 256 = 8 then 1 else if w.typ / 256 = 0xA then 2 else 3

/-- The first waiting record with order key `k`. -/
def takeHrv (s : State) (n k : Nat) : Option (HrvWait × List HrvWait) := takeFirst (fun w => hrvKey w == k) (fnOf s n).hrvWait

/-- The bytes of a record as it is delivered: a late record carries the late records dropped for this ring since the last one. -/
def hrvBytes (f : Fn) (w : HrvWait) : List Byte :=
  if w.typ = 0x0502 then
    let h := slice w.bytes 0 0x18 ++ leBytes 4 f.lateDrop
    h ++ leBytes 4 (crc32 h).toNat ++ w.bytes.drop 0x20
  else w.bytes

/-- A PAD record of `k` bytes. -/
def padRecord (k : Nat) : List Byte := leBytes 2 0x0F01 ++ zeros 2 ++ leBytes 4 k ++ zeros (k - 8)

/-- Bytes that a record takes on the ring: with a PAD before it when it does not fit before the end. -/
def hrvNeed (prod size len : Nat) : Nat := if size < prod + len then size - prod + len else len

/-- Free space of the ring. -/
def hrvFree (prod cons size : Nat) : Nat := (cons + 2 * size - prod - 8) % size

/-- The ring of function `n` has room for a record of `len` bytes. -/
def hrvRoom (s : State) (n len : Nat) : Bool :=
  let size := ringSize (hif s n 0xC8) 5
  let prod := (hif s n 0xD0).toNat % size
  mastering s n && hrvOn s n && decide (hrvNeed prod size len ≤ hrvFree prod ((hif s n 0xCC).toNat % size) size)

/-- A record in the ring at `off`, over what was there. -/
def hrvPut (m : FMap (List Byte)) (off : Nat) (bs : List Byte) : FMap (List Byte) :=
  fset (m.filter (fun e => decide (e.1 + e.2.length ≤ off ∨ off + bs.length ≤ e.1))) off bs

/-- HARVEST_RECORD_WRITE (R416): the first waiting record of the group or class with key `k`. -/
def execHarvestRecordWrite (n k : Nat) (s : State) : Out := act s fun s =>
  match takeHrv s n k with
  | none => s
  | some (w, rest) =>
    let f := fnOf s n
    let bs := hrvBytes f w
    if !hrvRoom s n bs.length then s
    else
      let size := ringSize (hif s n 0xC8) 5
      let prod := (hif s n 0xD0).toNat % size
      let wraps := decide (size < prod + bs.length)
      let ring := if wraps then hrvPut f.hrvRing prod (padRecord (size - prod)) else f.hrvRing
      let at_ := if wraps then 0 else prod
      let prod' := (at_ + bs.length) % size
      let s := modFn s n (fun f => { f with
        hrvWait := rest, hrvRing := hrvPut ring at_ bs, hrvWb := prod', lateDrop := if w.typ = 0x0502 then 0 else f.lateDrop })
      irqPend n 14 (setHif n 0xD0 prod' s)

/-- HARVEST_HOLD_EXPIRY (R416). -/
def execHarvestHoldExpiry (n k : Nat) (s : State) : Out := act s fun s =>
  match takeHrv s n k with
  | none => s
  | some (w, rest) =>
    if !hrvRoom s n (hrvBytes (fnOf s n) w).length && overHeld s w.born (hif s n 0xC8) then
      let s := modFn s n (fun f => { f with hrvWait := rest, lateDrop := if w.typ = 0x0502 then f.lateDrop + 1 else f.lateDrop })
      let s := hifFlag n 4 (countFn n (HIF + 0x314) 0xFFFF s)
      match w.dropCtr with
      | some (c, win) =>
        let s := countW c win .all s
        if c = OSC + 0x318 then setFlag s (OSC + 8) 4 else if c = ISL + 0x328 then setFlag s (ISL + 8) 5 else s
      | none => s
    else s

/-- Channels of a stream. -/
def strmSlots (im : Image) (n : Nat) : Nat := dir im n 3 31 23 + 2 + dir im n 3 22 16 + dir im n 3 15 10

/-- Length of the harvest record of group `g`, and of the longest late record of its streams. -/
def grpRecLen (im : Image) (g : Nat) : Nat :=
  let ns := (groupStrms im g).map (strmSlots im)
  let late := (ns.map (fun k => 32 + ceilDiv (0x34 + 8 * k + 4 * ceilDiv k 32) 8 * 8)).foldl max 0
  max late (ceilDiv (68 + sumN (ns.map (fun k => ceilDiv (16 + 8 * k + 4 * ceilDiv k 16) 8 * 8))) 8 * 8)

/-- The longest record that the group and class enables of function `n` can produce. -/
def longestRecord (s : State) (n : Nat) : Nat :=
  let im := s.cfg.active
  let cls := hif s n 0xDC
  let grp := fun g => if g < 32 then bit (hif s n 0xE0) g else bit (hif s n 0xE4) (g - 32)
  let a := ((List.range 64).filter grp).foldl (fun m g => max m (grpRecLen im g)) 16
  let b := if bit cls 0 then (imValid im secOSC_MODE).foldl (fun m k => max m (ceilDiv (68 + 12 * (modeMembers im k).length) 8 * 8)) 2104 else 0
  let c := if bit cls 1 then (List.range 4).foldl (fun m i => max m (ceilDiv (52 + 4 * (icnGrps im i).length + 4 * (icnSigs im i).length) 8 * 8)) 0
    else 0
  max (max a b) (max c (if bit cls 3 then 2688 else if bit cls 2 then 32 else 0))

/-! ## Receive rings (R105, R106, R414) -/

/-- The first frame that waits for receive ring `r` of function `n`. -/
def takeRx (s : State) (n r : Nat) : Option (RxWait × List RxWait) := takeFirst (fun w => w.ring == r) (fnOf s n).rxWait

/-- Free descriptors of receive ring `r`, when it may be written. -/
def rxFree (s : State) (n r : Nat) : Option Nat :=
  let cfg := fnReg s n (rxPage r + 8)
  let size := ringSize cfg 4
  if mastering s n && bit cfg 31 then
    some (((fnReg s n (rxPage r + 0xC)).toNat % size + size - (fnReg s n (rxPage r + 0x10)).toNat % size) % size)
  else none

/-- The frame can be transferred now. -/
def rxRoom (s : State) (n : Nat) (w : RxWait) : Bool :=
  match rxFree s n w.ring with
  | some k => decide (ceilDiv w.len (rxBuf (fnReg s n (rxPage w.ring + 8))) ≤ k)
  | none => false

/-- The write-back of descriptor `k` of `cnt` (Table 15-6). -/
def rxWriteBack (w : RxWait) (addr b cnt k : Nat) : List Byte :=
  let len := if k + 1 = cnt then w.len - b * k else b
  let fl := 2 ^ 7 + b2n (k == 0) * 2 ^ 6 + b2n (k + 1 == cnt) * 2 ^ 5 + b2n w.copy * 2 ^ 4 + b2n w.ts.isSome * 2 ^ 3 + b2n w.vlan.isSome * 2 ^ 2
  leBytes 8 addr ++ leBytes 2 len ++ leBytes 1 w.port ++ leBytes 1 fl ++
    (match w.ts with
     | some t => tsLE t
     | none => zeros 12) ++ leBytes 4 w.len ++ leBytes 2 (w.vlan.getD 0) ++ leBytes 2 w.route

/-- HOST_RX_DELIVER (R105, R106, R414): `addrs` are the buffer addresses that the descriptors hold. The whole frame goes to the buffers;
one whose age exceeds the hold time is not transferred. -/
def execHostRxDeliver (n r : Nat) (addrs : List Nat) (s : State) : Out := act s fun s =>
  match takeRx s n r with
  | none => s
  | some (w, rest) =>
    if r < 8 && rxRoom s n w && !overHeld s w.born (fnReg s n (rxPage r + 8)) then
      let cfg := fnReg s n (rxPage r + 8)
      let size := ringSize cfg 4
      let head := (fnReg s n (rxPage r + 0x10)).toNat % size
      let cnt := ceilDiv w.len (rxBuf cfg)
      let put := fun (m : FMap (List Byte)) (k : Nat) =>
        fset m (r * 65536 + (head + k) % size) (rxWriteBack w (addrs.getD k 0) (rxBuf cfg) cnt k)
      let data := fun (m : FMap (List Byte)) (k : Nat) =>
        fset m (r * 65536 + (head + k) % size) (slice w.bytes (rxBuf cfg * k) (rxBuf cfg))
      let s := modFn s n (fun f => { f with
        rxWait := rest, rxWb := (List.range cnt).foldl put f.rxWb, rxData := (List.range cnt).foldl data f.rxData })
      let s := setFnReg s n (rxPage r + 0x10) (BitVec.ofNat 32 ((head + cnt) % size))
      irqPend n (2 + r) (countFn n (rxPage r + 0x18) (0x10 + r) s)
    else s

/-- HOST_RX_HOLD_EXPIRY (R106): a frame whose age exceeds the hold time is dropped, whatever descriptors are free. -/
def execHostRxHoldExpiry (n r : Nat) (s : State) : Out := act s fun s =>
  match takeRx s n r with
  | none => s
  | some (w, rest) =>
    if r < 8 && overHeld s w.born (fnReg s n (rxPage r + 8)) then
      countFn n (rxPage r + 0x14) (0x10 + r) (modFn s n (fun f => { f with rxWait := rest }))
    else s

/-! ## Transmit rings (R415) -/

def txPage (r : Nat) : Nat := HIF + 0x500 + 0x20 * r

/-- The ports that function `n` may use. -/
def hostPorts (s : State) (n : Nat) : Nat :=
  (imRecs s.cfg.active secHOST_ROUTE).foldl (fun m r =>
    let w := r.getD 0 0#32
    if bit w 31 && fld w 30 29 == n then m ||| fld w 12 0 else m) 0

/-- The descriptors of a frame: FIRST on the first only, LAST on the last only. -/
def descsOk (ds : List TxDesc) : Bool :=
  !ds.isEmpty && (ds.zip (List.range ds.length)).all (fun (d, k) =>
    (Nat.testBit d.tflags 6 == decide (k = 0)) && (Nat.testBit d.tflags 5 == decide (k + 1 = ds.length)))

/-- The ports of `mask` whose MAXLEN a frame of `len` bytes would exceed, with the trailer on a pair that the mask holds whole (R91). -/
def tooLong (s : State) (mask len : Nat) : List Nat :=
  let im := s.cfg.active
  (List.range 12).filter (fun p => Nat.testBit mask p &&
    decide (maxLen s p < match pairOf im p with
      | some q => if Nat.testBit mask (pairA im q) && Nat.testBit mask (pairB im q) then len + 6 else len
      | none => len))

/-- HOST_TX_FRAME (R415): the descriptors of the next frame of transmit ring `r`, and whether host memory gave its bytes. -/
def execHostTxFrame (n r : Nat) (ds : List TxDesc) (ok : Bool) (s : State) : Out := act s fun s =>
  let cfg := fnReg s n (txPage r + 8)
  let size := ringSize cfg 4
  let head := (fnReg s n (txPage r + 0x10)).toNat % size
  let have_ := ((fnReg s n (txPage r + 0xC)).toNat % size + size - head) % size
  if r < 4 && mastering s n && bit cfg 31 && descsOk ds && decide (ds.length ≤ have_) then
    match ds with
    | [] => s
    | d :: _ =>
      let len := sumN (ds.map (·.len)) + 4
      let id := s.eth.txId
      let ports := (List.range 16).filter (Nat.testBit d.mask)
      let status := if !ok then 4 else if ports.any (fun p => decide (12 ≤ p) || !Nat.testBit (hostPorts s n) p) then 2
        else if !(tooLong s d.mask len).isEmpty then 1 else 0
      let s := if status = 1 then (tooLong s d.mask len).foldl (fun s p => ethFlag p 2 (ethCount p 0x138 s)) s else s
      let t : TxHost := { id := id, ring := r, first := head, addr := d.addr, len0 := d.len, flags := d.tflags, mask := d.mask,
                          left := ports, status := status, born := s.tb.tick, tagged := d.tagged }
      let s := { s with eth := { s.eth with txId := id + 1 } }
      let s := setFnReg s n (txPage r + 0x10) (BitVec.ofNat 32 ((head + ds.length) % size))
      if status ≠ 0 ∨ ports.isEmpty then txHostWb n t s
      else enqueueMask d.mask (.host n id) len none (modFn s n (fun f => { f with txWait := f.txWait ++ [t] }))
  else s

/-- HOST_TX_HOLD_EXPIRY (R415): a frame of function `n` that has waited more than HOLD cyc for port `p`. -/
def execHostTxHoldExpiry (n p : Nat) (s : State) : Out := act s fun s =>
  let old := fun (t : TxFrame) => match t.body with
    | .host fn id => fn == n && (match (fnOf s n).txWait.find? (fun x => x.id == id) with
        | some x => overHeld s x.born (fnReg s n (txPage x.ring + 8))
        | none => false)
    | _ => false
  match takeFirst old (portOf s p).txq with
  | none => s
  | some (t, rest) => discardTx p t (modPort p (fun q => { q with txq := rest }) s)

/-! ## Errors, interrupts and resets of functions (R404, R417, R418) -/

/-- Clear EN of the queue or ring with CFG register `off`. -/
def disableRing (n off : Nat) (s : State) : State := setFnReg s n (HIF + off) (setBit (hif s n off) 31 false)

/-- DMA_ERROR (R404): `reason` is 1 read, 2 write, 3 poisoned. -/
def execDmaError (n code reason : Nat) (s : State) : Out := act s fun s =>
  match ringCfg code with
  | none => s
  | some off =>
    if mastering s n && bit (hif s n off) 31 then
      let s := hifFlag n 5 (countFn n (HIF + 0x318) 0xFFFF (disableRing n off s))
      if code = 2 then s else raise 0x0F03 (.fnOnly n) (leBytes 1 code ++ leBytes 1 reason) s
    else s

/-- INTERRUPT_SEND (R417). -/
def execInterruptSend (n src : Nat) (s : State) : Out := act s fun s =>
  let q := fgetD (fnOf s n).irq src {}
  let cfg := hif s n (0x100 + 4 * src)
  let due := match q.last with
    | some t => decide (t + fld cfg 9 0 ≤ s.tb.tick)
    | none => true
  if src < 16 && mastering s n && q.pend && bit cfg 31 && due then
    modFn s n (fun f => { f with
      irq := fset f.irq src { pend := false, last := some s.tb.tick }, msi := fmod f.msi (fld cfg 21 16) 0 (· + 1) })
  else s

/-- Offsets of W1C registers (every block's FLAGS and HALF, and TB_STAT's flags). -/
def isW1C (off : Nat) : Bool :=
  let b := blockBase off
  let o := off - b
  if 0x140000 ≤ off then false
  else if b = ETH then
    if 0x02E000 ≤ off then decide (off < 0x02E180) && off % 0x40 == 0xC else off % 0x1000 == 8 || off % 0x1000 == 0x1C
  else if b = TB then o == 4
  else if b = GLB then false
  else if b = ING then o == 4 || o == 0x14
  else if b = OSC ∨ b = ISL ∨ b = SCH ∨ b = PAIR then o == 8 || o == 0xC
  else if b = HIF then o == 0xC || o == 0x10
  else if b = TSK then o == 4 || o == 8 || o == 0x8004 || o == 0x8008
  else o == 4 || o == 8

/-- Offsets of the index registers of windows. -/
def isWindow (off : Nat) : Bool :=
  let b := blockBase off
  let o := off - b
  if b = ING ∨ b = PUB then [0x20, 0x24, 0x28].contains o
  else if b = ALN then [0x10, 0x14].contains o
  else if b = SVF then [0x20, 0x24, 0x28, 0x2C].contains o
  else if b = OSC ∨ b = ISL then [0x20, 0x24, 0x28, 0x2C, 0x30, 0x34].contains o
  else if b = SCH then [0x40, 0x44, 0x48, 0x4C, 0x50, 0x54].contains o
  else if b = CAP then [0x40, 0x44, 0x48, 0x4C, 0x50].contains o
  else if b = MTR then [0x60, 0x64, 0x68, 0x6C].contains o
  else if b = TSK then [0x20, 0x8010].contains o
  else if b = PAIR then o == 0x54
  else if b = SEC then [0x60, 0x64].contains o
  else false

/-- A function level reset of function `n` as to its queues, registers, windows, batch, fence and flags (R418). -/
def flrReset (n : Nat) (s : State) : State :=
  modFn s n (fun f => { f with
    regs := f.regs.filter (fun e => blockBase e.1 != HIF && !isW1C e.1 && !isWindow e.1), win := [], batch := []
    batLast := 0, batReason := 0, batVint := 0, evWait := [], evLost := false, evRing := [], cplRing := [], hrvWait := [], hrvRing := []
    rxWait := [], rxWb := [], rxData := [], txWb := [], fenceDrops := 0, cmdFence := none, regFence := none, regDrops := 0, lateDrop := 0, hrvWb := 0
    irq := [], evPhase := true, cplPhase := true
    cur := match f.cmdFence, f.cur with
      | none, some c => some { c with silent := true }
      | _, _ => none })

/-- Host frames of function `n` that have not departed are abandoned with their ring. -/
def dropHostTx (n : Nat) (s : State) : State :=
  let mine := fun (t : TxFrame) => match t.body with
    | .host fn _ => fn == n
    | _ => false
  let s := modFn s n (fun f => { f with txWait := [] })
  { s with eth := { s.eth with ports := s.eth.ports.map (fun e => (e.1, { e.2 with txq := e.2.txq.filter (fun t => !mine t) })) } }

/-- How a function answers a configuration request. -/
inductive CfgAnswer where
  | nothing
  | retry
  | done
  deriving DecidableEq, Repr

/-- The answer of every function (R482, R483): nothing while PERST_N is low or before step 1 has ended, and in SHED and below (Table 18-1);
Configuration Request Retry Status until step 6 completes; then the request is carried out. -/
def cfgAnswer (s : State) : CfgAnswer :=
  if !s.pwr.perstN then .nothing
  else match s.pwr.state with
    | .starting => if s.pwr.waits then .nothing else .retry
    | .run => .done
    | _ => .nothing

/-- FUNCTION_LEVEL_RESET (R418), a configuration write; it clears Bus Master Enable, as PCIe has it. -/
def execFunctionLevelReset (n : Nat) (s : State) : Out := act s fun s =>
  if n < 4 ∧ cfgAnswer s = .done then modFn (dropHostTx n (flrReset n s)) n (fun f => { f with bme := false }) else s

/-- BUS_MASTER_DISABLE (R418), a configuration write. -/
def execBusMasterDisable (n : Nat) (s : State) : Out := act s fun s =>
  if cfgAnswer s = .done then modFn s n (fun f => { f with bme := false }) else s

/-- BUS_MASTER_ENABLE (R418), a configuration write: a function that is not ready does not take it (R483). -/
def execBusMasterEnable (n : Nat) (s : State) : Out := act s fun s =>
  if cfgAnswer s = .done then modFn s n (fun f => { f with bme := true }) else s

end Sys2Proof.Machine
end

