-- ==== Sys2Proof/Machine/Pair.lean ====
section
/-!
DEFINITION. Sys2Proof/Machine/Pair.lean: redundant pair operation (chapter 16): heartbeats, the lease, racking, handover, the witness.
-/
namespace Sys2Proof.Machine

/-! ## Configuration and small state -/

def pairCfg (s : State) : Word := imgReg s.cfg.active PAIR
def pairUnit (s : State) : Nat := fld (pairCfg s) 29 29
def pairSlot (s : State) : Nat := fld (pairCfg s) 28 20
def pairId (s : State) : Nat := (imgReg s.cfg.active (PAIR + 0x14)).toNat
def witUdp (s : State) : Nat := fld (imgReg s.cfg.active (PAIR + 0x18)) 31 16
def hbUdp (s : State) : Nat := fld (imgReg s.cfg.active (PAIR + 0x18)) 15 0
def pairNet (s : State) : Word := imgReg s.cfg.active (PAIR + 0x1C)

/-- A 128-bit address in four words from `off`, first word most significant. -/
def addr4 (s : State) (off : Nat) : Nat :=
  (List.range 4).foldl (fun a k => a * 2 ^ 32 + (imgReg s.cfg.active (off + 4 * k)).toNat) 0

def modUnit (f : Pair → Pair) (s : State) : State := { s with pair := f s.pair }
def pairFlag (b : Nat) (s : State) : State := setFlag s (PAIR + 8) b

/-- The module is a unit of a pair. -/
def isUnit (s : State) : Bool := pairMode s == 1

/-- PAIR_STAT.ROLE: 0 unpaired, 5 witness. -/
def roleShown (s : State) : Nat := if pairMode s = 1 then s.pair.role else if pairMode s = 2 then 5 else 0

/-- The unit takes role `r` (R422). -/
def setRole (r : Nat) (s : State) : State :=
  if s.pair.role = r then s
  else raise 0x1001 .all (leBytes 1 r ++ leBytes 1 s.pair.role) (pairFlag 0 (modUnit (fun p => { p with role := r }) s))

/-- `a` is newer than `b`: (int32_t)(a − b) > 0. -/
def newer (a b : Word) : Bool := decide (0 < (a - b).toInt)

def newerThan (a : Word) : Option Word → Bool
  | some b => newer a b
  | none => true

/-- The later of two claims. -/
def maxClaim (a b : Word) : Word := if newer b a then b else a

/-- A TAI instant lies within ±1,024 tk of the unit's own time. -/
def freshTs (s : State) (ns : Nat) : Bool :=
  decide (((s.tb.now : Int) - ns).natAbs * tps s ≤ 1024 * 1000000000)

/-- The timestamp at offset `o` of a message, TAI ns. -/
def msgTs (bs : List Byte) (o : Nat) : Nat := beAt bs o 8 * 1000000000 + beAt bs (o + 8) 4

/-- The present instant of a message; zeros while there is no time. -/
def tsNow (s : State) : List Byte := if hasTime s then tsBE s.tb.now else zeros 12

/-! ## Sequence reservations (R445) -/

/-- The next MSG_SEQ of the Calfa messages; the reservation rises by 2^20 when MSG_SEQ reaches it. -/
def nextSeqC (s : State) : Nat × State :=
  let s := if s.pair.seqC = s.nv.resC then { s with nv := { s.nv with resC := (s.nv.resC + 2 ^ 20) % 2 ^ 32 } } else s
  (s.pair.seqC, modUnit (fun p => { p with seqC := (p.seqC + 1) % 2 ^ 32 }) s)

/-- The next MSG_SEQ of the witness messages. -/
def nextSeqW (s : State) : Nat × State :=
  let s := if s.pair.seqW = s.nv.resW then { s with nv := { s.nv with resW := (s.nv.resW + 2 ^ 20) % 2 ^ 32 } } else s
  (s.pair.seqW, modUnit (fun p => { p with seqW := (p.seqW + 1) % 2 ^ 32 }) s)

/-- The key in vault slot `k` has been updated: the receivers forget what they accepted under its slot pair (R445, R464). -/
def pairKeyUpdated (k : Nat) (s : State) : State :=
  let s := if isUnit s && pairSlot s / 2 == k / 2 then modUnit (fun p => { p with lastC := none, lastW := none }) s else s
  if pairMode s = 2 then
    modUnit (fun p => { p with lastU := p.lastU.filter (fun e =>
      fld (imgReg s.cfg.active (PAIR + 0x200 + 8 * (e.1 / 2))) 28 20 / 2 != k / 2) }) s
  else s

/-! ## Messages received -/

/-- A message handed on for the pair: whether it came over the Calfa link, the UDP destination port, and its bytes. -/
structure PairMsg where
  calfa : Bool
  dport : Nat
  src : Nat
  sport : Nat
  bytes : List Byte
  deriving DecidableEq, Repr

/-- The pair message that a frame handed on carries. -/
def pairMsg (h : Handed) : Option PairMsg :=
  match h.cls, h.frame.payload with
  | .calfa, .calfa bs => some { calfa := true, dport := 0, src := 0, sport := 0, bytes := bs }
  | .witness, .ip ip bs _ => some { calfa := false, dport := ip.dport, src := ip.src, sport := ip.sport, bytes := bs }
  | _, _ => none

/-- The oldest frame handed on whose pair message satisfies `p`, taken. -/
def takePairMsg (p : PairMsg → Bool) (s : State) : Option (PairMsg × State) :=
  match takeFrame (fun h => match pairMsg h with
      | some m => p m
      | none => false) s with
  | none => none
  | some (h, s) => match pairMsg h with
    | some m => some (m, s)
    | none => none

def msgType (m : PairMsg) : Nat := beAt m.bytes 0 2

/-- A Calfa or heartbeat message is dropped. -/
def hbReject (s : State) : State := flagCount (PAIR + 8) 2 (PAIR + 0x30C) s

/-- A witness message is dropped. -/
def witReject (s : State) : State := flagCount (PAIR + 8) 2 (PAIR + 0x328) s

/-- The header of a Calfa message names this pair and the peer. -/
def calfaHead (s : State) (m : PairMsg) (len : Nat) : Bool :=
  beAt m.bytes 2 2 == len && decide (len ≤ m.bytes.length) && beAt m.bytes 4 4 == pairId s && beAt m.bytes 8 1 == 1 - pairUnit s

/-- Checks of a message with a MAC from the peer: header, MAC under the pair key, MSG_SEQ, TS while there is time. -/
def peerCheck (m : PairMsg) (s : State) : State × Bool :=
  if !calfaHead s m 64 || !tsOk m.bytes 0x10 then (s, false)
  else
    let (s, ok) := macVerify (pairSlot s + 1) (slice m.bytes 0 0x30) (slice m.bytes 0x30 16) s
    (s, ok && newerThan (BitVec.ofNat 32 (beAt m.bytes 0xC 4)) s.pair.lastC && (!hasTime s || freshTs s (msgTs m.bytes 0x10)))

/-! ## Heartbeats (R425, R426) -/

/-- WIT_OK, SYNCED, HOLD, CALFA_OK and LEASE as HFL carries them. -/
def hflOf (s : State) : Nat :=
  b2n (authority s) * 2 ^ 15 + b2n s.pair.witOk * 2 ^ 14 + b2n s.pair.synced * 2 ^ 13 + b2n s.pair.hold * 2 ^ 12 + b2n s.pair.calfaOk * 2 ^ 11

/-- The common header of a Calfa message (Table 16-6). -/
def calfaHdr (s : State) (typ len seq : Nat) (ts : List Byte) : List Byte :=
  beBytes 2 typ ++ beBytes 2 len ++ beBytes 4 (pairId s) ++ beBytes 1 (pairUnit s) ++ beBytes 1 (roleShown s) ++ zeros 2 ++
    beBytes 4 seq ++ ts

/-- Frame length of a Calfa message of `n` bytes. -/
def calfaLen (n : Nat) : Nat := 18 + n

/-- A Calfa message with a MAC, its body from 0x1C to 0x2F; none while the pair key fails. -/
def signedCalfa (typ : Nat) (body : List Byte) (s : State) : State × Option (List Byte) :=
  let (q, s) := nextSeqC s
  let b := padTo 0x30 (calfaHdr s typ 64 q (tsNow s) ++ body)
  match macSign (pairSlot s) b s with
  | (s, some g) => (s, some (b ++ padTo 16 g))
  | (s, none) => (s, none)

/-- A datagram of the pair for a mask of ports. -/
def sendUdp (mask dst dport : Nat) (bs : List Byte) (s : State) : State :=
  enqueueMask mask (.udp dst dport (fld (pairNet s) 27 16) bs) (ipLen dst (fld (pairNet s) 27 16) bs.length false) none s

/-- HB_PORT, with the other member when it belongs to a PRP pair. -/
def hbMask (s : State) : Nat :=
  let p := fld (pairNet s) 31 28
  match pairOf s.cfg.active p with
  | some k => 2 ^ pairA s.cfg.active k + 2 ^ pairB s.cfg.active k
  | none => 2 ^ p

/-- HEARTBEAT_SEND (R425). -/
def execHeartbeatSend (s : State) : Out := act s fun s =>
  if isUnit s && s.tb.started && s.tb.tick % 256 == 0 && s.pair.hbTick != some s.tb.tick then
    let s := modUnit (fun p => { p with hbTick := some s.tb.tick }) s
    let body := beBytes 4 s.cfg.active.vintage ++ beBytes 4 s.nv.claim.toNat ++ beBytes 4 s.pair.gen ++ beBytes 2 (hflOf s) ++
      beBytes 1 s.pair.missed ++ zeros 1 ++ beBytes 4 (if authority s then s.pair.leaseEnd - s.tb.tick else 0)
    match signedCalfa 0x1101 body s with
    | (s, none) => s
    | (s, some bs) =>
      let s := count (PAIR + 0x300) (enqueue1 13 (.calfa bs) (calfaLen 64) none none s)
      if fld (pairNet s) 31 28 = 0xF then s
      else count (PAIR + 0x300) (sendUdp (hbMask s) (addr4 s (PAIR + 0x30)) (hbUdp s) bs s)
  else s

/-- PAIR_EV_PEER's live paths. -/
def livePaths (s : State) : Nat :=
  let live := fun (o : Option Nat) => match o with
    | some t => decide (s.tb.tick ≤ t + 512)
    | none => false
  b2n (live s.pair.calfaAt) + 2 * b2n (live s.pair.dataAt)

/-- SYNCED falls, and the standby is stale for `reason` (R438). -/
def pairUnsync (reason : Nat) (s : State) : State :=
  let was := s.pair.synced
  let s := modUnit (fun p => { p with synced := false, syncRun := 0 }) s
  if was then
    let s := raise 0x1004 .all (leBytes 1 0 ++ leBytes 4 s.pair.gen) s
    raise 0x1007 .all (leBytes 1 reason) (pairFlag 4 s)
  else s

/-- The handover command completes when the peer shows ACTIVE (R442). -/
def handoverSeen (s : State) : State :=
  match s.pair.hov with
  | some h => if h.past then
      modUnit (fun p => { p with hov := none }) (complete h.fn 0 0 (gridNs s h.h / 1000000000) s)
    else s
  | none => s

/-- A heartbeat is accepted. One with ROLE = ACTIVE from after the handover instant ends a planned handover that named this unit. -/
def hbAccept (m : PairMsg) (s : State) : State :=
  let b := m.bytes
  let hb : PeerHb := { role := beAt b 9 1, hfl := beAt b 0x28 2, vintage := beAt b 0x1C 4, claim := BitVec.ofNat 32 (beAt b 0x20 4)
                       gen := beAt b 0x24 4 }
  let was := s.pair.peerOk
  let s := count (PAIR + 0x304) (modUnit (fun p => { p with
    lastC := some (BitVec.ofNat 32 (beAt b 0xC 4)), peer := some hb, hbSince := true, missed := 0, peerOk := true
    calfaAt := if m.calfa then some s.tb.tick else p.calfaAt, dataAt := if m.calfa then p.dataAt else some s.tb.tick
    calfaOk := p.calfaOk || m.calfa, quiet := if hb.role = 3 then 0 else p.quiet }) s)
  let s := if was then s else raise 0x1003 .all (leBytes 1 1 ++ leBytes 1 (livePaths s)) s
  let s := if hb.role = 3 then
      let s := modUnit (fun p => { p with hreq := p.hreq.filter (fun h => decide (msgTs b 0x10 ≤ gridNs s h.h)) }) s
      handoverSeen (if s.pair.role = 1 ∨ s.pair.role = 4 then setRole 2 s else s)
    else s
  if hb.vintage = s.cfg.active.vintage then s else pairUnsync 3 s

/-- HEARTBEAT_RX (R425, R449): a heartbeat, or a Calfa message of no known type. -/
def execHeartbeatRx (s : State) : Out := act s fun s =>
  match takePairMsg (fun m => if m.calfa then msgType m < 0x1102 || decide (0x1104 < msgType m) else m.dport == hbUdp s) s with
  | none => s
  | some (m, s) =>
    if !isUnit s || msgType m != 0x1101 then hbReject s
    else match peerCheck m s with
      | (s, true) => hbAccept m s
      | (s, false) => hbReject s

/-- HEARTBEAT_CHECK (R426). -/
def execHeartbeatCheck (s : State) : Out := act s fun s =>
  if isUnit s && s.tb.started && s.tb.tick % 256 == 128 && s.pair.chkTick != some s.tb.tick then
    let miss := !s.pair.hbSince
    let s := modUnit (fun p => { p with
      chkTick := some s.tb.tick, hbSince := false, quiet := p.quiet + 1, missed := if miss then min 255 (p.missed + 1) else p.missed }) s
    let s := if miss then count (PAIR + 0x308) s else s
    if miss && s.pair.missed == 8 && s.pair.peerOk then
      let s := pairFlag 5 (modUnit (fun p => { p with peerOk := false }) s)
      raise 0x1003 .all (leBytes 1 0 ++ leBytes 1 (livePaths s)) s
    else s
  else s

/-- At a tick boundary: WIT_OK falls 2 cyc after the last witness answer, CALFA_OK 512 tk after the last Calfa heartbeat. -/
def pairTick (s : State) : State :=
  let past := fun (o : Option Nat) (n : Nat) => match o with
    | some t => decide (t + n < s.tb.tick)
    | none => true
  let s := if s.pair.witOk && past s.pair.witAt 2048 then
      raise 0x1006 .all (leBytes 1 0) (pairFlag 1 (modUnit (fun p => { p with witOk := false }) s))
    else s
  if s.pair.calfaOk && past s.pair.calfaAt 512 then pairUnsync 1 (modUnit (fun p => { p with calfaOk := false }) s) else s

/-- The Calfa link is lost (R438). -/
def calfaDown (s : State) : State := pairUnsync 1 (modUnit (fun p => { p with calfaOk := false }) s)

/-! ## The lease (R427 to R433) -/

/-- A witness message from a unit or a witness (Table 16-7). -/
def witMsg (typ sender holder reason seq claim echo leaseNs id : Nat) (ts : List Byte) : List Byte :=
  padTo 0x30 (beBytes 2 typ ++ beBytes 2 64 ++ beBytes 4 id ++ beBytes 1 sender ++ beBytes 1 holder ++ beBytes 2 reason ++ beBytes 4 seq ++
    ts ++ beBytes 4 claim ++ beBytes 4 echo ++ beBytes 4 leaseNs)

/-- LEASE_NS = 6 / f0 s. -/
def leaseNs (s : State) : Nat := 6000000000 / f0 s

/-- The unit sends a message of type `typ` with `claim` to the witness. -/
def sendLease (typ : Nat) (claim : Word) (s : State) : State :=
  let (q, s) := nextSeqW s
  let b := witMsg typ (pairUnit s) 0 0 q claim.toNat 0 (leaseNs s) (pairId s) (tsNow s)
  match macSign (pairSlot s) b s with
  | (s, none) => s
  | (s, some g) =>
    let s := modUnit (fun p => { p with
      sent := p.sent.filter (fun e => decide (s.tb.tick ≤ e.2 + 1024)) ++ [(q, s.tb.tick)] }) s
    count (PAIR + 0x31C) (sendUdp (fld (pairNet s) 12 0) (addr4 s (PAIR + 0x20)) (witUdp s) (b ++ padTo 16 g) s)

/-- The highest claim the unit knows (R428). -/
def highClaim (s : State) : Word :=
  match s.pair.peer with
  | some p => maxClaim s.nv.claim p.claim
  | none => s.nv.claim

/-- A planned handover lets the peer request: generation H is complete, or 1,024 tk have passed since H (R442). -/
def handoverQualifies (s : State) : Bool :=
  match s.pair.hreq with
  | some h => decide (h.h + 1024 ≤ s.tb.grid)
  | none => false

/-- The unit qualifies for REQUEST (R428). -/
def qualifies (s : State) : Bool :=
  let p := s.pair
  let peerWeak := match p.peer with
    | some h => !Nat.testBit h.hfl 15 || !Nat.testBit h.hfl 14
    | none => false
  !p.hold && ((p.role == 1 && decide (8 ≤ p.quiet)) || (p.role == 2 && (decide (8 ≤ p.missed) || peerWeak || handoverQualifies s)) ||
    p.role == 4)

/-- LEASE_MESSAGE_SEND (R427, R428). -/
def execLeaseMessageSend (s : State) : Out := act s fun s =>
  if isUnit s && hasTime s && s.tb.grid % 1024 == 0 && s.pair.leaseGrid != some s.tb.grid then
    let s := modUnit (fun p => { p with leaseGrid := some s.tb.grid }) s
    if s.pair.role = 3 then (if authority s then sendLease 0x1012 s.nv.claim s else s)
    else if qualifies s then sendLease 0x1011 (highClaim s) s
    else s
  else s

/-- The checks of R444 on an answer of the witness, and the send instant of the message that it answers. -/
def answerCheck (m : PairMsg) (s : State) : State × Option Nat :=
  let b := m.bytes
  if beAt b 2 2 ≠ 64 ∨ b.length < 64 ∨ !tsOk b 0x10 ∨ beAt b 4 4 ≠ pairId s ∨ beAt b 8 1 ≠ 0xFF then (s, none)
  else
    let (s, ok) := macVerify (pairSlot s + 1) (slice b 0 0x30) (slice b 0x30 16) s
    if !ok || !newerThan (BitVec.ofNat 32 (beAt b 0xC 4)) s.pair.lastW || !hasTime s || !freshTs s (msgTs b 0x10) then (s, none)
    else (s, (s.pair.sent.find? (fun e => e.1 == beAt b 0x20 4 && decide (s.tb.tick ≤ e.2 + 1024))).map (·.2))

/-- An answer of the witness is accepted. -/
def answerSeen (m : PairMsg) (s : State) : State :=
  let was := s.pair.witOk
  let s := count (PAIR + 0x320) (modUnit (fun p => { p with
    lastW := some (BitVec.ofNat 32 (beAt m.bytes 0xC 4)), witAt := some s.tb.tick, witOk := true }) s)
  if was then s else raise 0x1006 .all (leBytes 1 1) s

/-- Take the oldest witness answer of type `typ`, checked; dropped ones count. -/
def takeAnswer (typ : Nat) (s : State) : State × Option (PairMsg × Nat) :=
  match takePairMsg (fun m => !m.calfa && m.dport != hbUdp s && msgType m == typ) s with
  | none => (s, none)
  | some (m, s) =>
    if !isUnit s then (witReject s, none)
    else match answerCheck m s with
      | (s, none) => (witReject s, none)
      | (s, some t) => (answerSeen m s, some (m, t))

/-- GRANT_RX (R427, R429). -/
def execGrantRx (s : State) : Out := act s fun s =>
  match takeAnswer 0x1021 s with
  | (s, none) => s
  | (s, some (m, t)) =>
    let fin := max s.pair.leaseEnd (t + 6144)
    if s.pair.role = 3 then modUnit (fun p => { p with leaseEnd := fin }) s
    else
      let s := { s with nv := { s.nv with claim := BitVec.ofNat 32 (beAt m.bytes 0x1C 4) } }
      modUnit (fun p => { p with leaseEnd := t + 6144, granted := some { tick := s.tb.tick, planned := p.hreq.isSome } }) s

/-- Authority ends, and the unit takes role `r` (R423, R427, R433). -/
def authorityEnds (r : Nat) (s : State) : State :=
  let s := modUnit (fun p => { p with auth := false, mark := some s.tb.grid }) s
  let s := flagCount (PAIR + 8) 6 (PAIR + 0x330) s
  let s := raise 0x1002 .all (leBytes 1 0 ++ leBytes 4 s.nv.claim.toNat) (setRole r s)
  authLost s

/-- DENY_RX (R422). -/
def execDenyRx (s : State) : Out := act s fun s =>
  match takeAnswer 0x1022 s with
  | (s, none) => s
  | (s, some (m, _)) =>
    let r := beAt m.bytes 0xA 2
    let s := count (PAIR + 0x324) s
    if s.pair.role = 3 then (if r = 1 ∨ r = 3 then authorityEnds 4 s else s)
    else if r = 1 then setRole 2 s else s

/-- LEASE_END (R427). -/
def execLeaseEnd (s : State) : Out := act s fun s =>
  if isUnit s && s.pair.role == 3 && s.pair.auth && decide (s.pair.leaseEnd ≤ s.tb.tick) then authorityEnds 4 s else s

/-! ## Racking (R434 to R439, R450) -/

/-- The TAI instant of tick counter value `t`, and the tick counter value of a TAI instant. -/
def tickNs (s : State) (t : Nat) : Nat := gridNs s (s.tb.grid + t - s.tb.tick)
def nsTick (s : State) (ns : Nat) : Nat := nsGrid s ns + s.tb.tick - s.tb.grid

/-- Flags as a bitmap padded to 4 bytes. -/
def bitBytes (l : List Bool) : List Byte := leBytes (4 * ceilDiv l.length 32) (bitmapLE l)

/-- The task block of task `t`. -/
def taskBlock (s : State) (t : Nat) : List Byte :=
  let im := s.cfg.active
  let tm := elemsOf im t 0x20 0x22
  let ct := elemsOf im t 0x23 0x23
  let ed := taskEdges im t
  let la := elemsOf im t 0x26 0x27
  let wi := elemsOf im t 0x28 0x29
  let lk := taskLinks im t
  let st := taskStns im t
  let timer := fun (e : Nat) =>
    let m := fgetD s.sch.tmrs (elemF im e 0 15 0) {}
    let prev := elemF im e 0 31 26 == 0x22 && fgetD s.sch.edges (elemF im e 3 31 16) false
    leBytes 2 e ++ leBytes 1 (b2n m.run + 2 * b2n m.q + 4 * b2n prev) ++ zeros 1 ++ leBytes 4 m.et ++ tsLE (tickNs s m.t0)
  let window := fun (e : Nat) =>
    let l := (fgetD s.sch.wins (elemF im e 0 15 0) []).reverse
    leBytes 2 e ++ leBytes 1 l.length ++ zeros 1 ++ padTo 256 (l.flatMap (fun w => leBytes 4 w.toNat))
  [tm, ct, ed, la, wi, lk, st].flatMap (fun l => leBytes 2 l.length) ++ zeros 2 ++ tm.flatMap timer ++
    ct.flatMap (fun e => leBytes 2 e ++ zeros 2 ++ leBytes 4 (fgetD s.sch.cvs (elemF im e 0 15 0) (imWord im secSCH_ELEM e 4)).toNat) ++
    bitBytes (ed.map (fun k => fgetD s.sch.edges k false)) ++
    bitBytes (la.map (fun e => fgetD s.sch.latches e (imBit im secSCH_ELEM e 4 0))) ++ wi.flatMap window ++
    lk.flatMap (fun k => leBytes 2 k ++ zeros 2 ++ leBytes 4 (fgetD s.sch.links k 0#32).toNat) ++
    st.flatMap (fun n => leBytes 1 n ++ leBytes 1 (b2n (stnOf s n).errPend) ++ zeros 2)

/-- The parameter block `k`. -/
def parBlock (s : State) (k : Nat) : List Byte :=
  (upFrom (256 * k) 256).flatMap (fun p => leBytes 4 (fgetD s.cfg.pars p (imWord s.cfg.active secSCH_PARAM p 3)).toNat) ++ leBytes 4 s.cfg.batNum

/-- The output block. -/
def outBlock (s : State) : List Byte :=
  (List.range 256).flatMap (fun n => leBytes 4 (gpOf s n).stnum.toNat ++ leBytes 4 (gpOf s n).sqnum.toNat) ++
    (List.range 16).flatMap (fun n => leBytes 1 (b2n (doOf s n).level) ++ leBytes 1 (doOf s n).st ++ zeros 2 ++
      tsLE (tickNs s (doOf s n).lastRise)) ++ leBytes 4 s.nv.claim.toNat

/-- The claim block `k`. -/
def claimBlock (s : State) (k : Nat) : List Byte := (upFrom (256 * k) 256).flatMap (fun n => leBytes 4 (fgetD s.nv.claimHi n 0#32).toNat)

/-- Block `b` of 113, in ascending (BTYPE, BINDEX): BTYPE, BINDEX, bytes. -/
def rackBlock (s : State) (b : Nat) : Nat × Nat × List Byte :=
  if b < 16 then (1, b, taskBlock s b)
  else if b < 80 then (2, b - 16, parBlock s (b - 16))
  else if b = 80 then (3, 0, outBlock s)
  else (4, b - 81, claimBlock s (b - 81))

/-- The number of the block with this BTYPE and BINDEX. -/
def rackNo (btype bindex : Nat) : Option Nat :=
  if btype = 1 ∧ bindex < 16 then some bindex
  else if btype = 2 ∧ bindex < 64 then some (16 + bindex)
  else if btype = 3 ∧ bindex = 0 then some 80
  else if btype = 4 ∧ bindex < 32 then some (81 + bindex)
  else none

/-- A Calfa message with a CRC is sent. -/
def sendCrc (typ : Nat) (ts body : List Byte) (s : State) : State :=
  let (q, s) := nextSeqC s
  let b := calfaHdr s typ (0x1C + body.length + 4) q ts ++ body
  let b := b ++ beBytes 4 (crc32 b).toNat
  enqueue1 13 (.calfa b) (calfaLen b.length) none none s

/-- The fragments of a block: offset and bytes, 9,136 bytes each at most. -/
def fragments : Nat → Nat → List Byte → List (Nat × List Byte)
  | 0, _, _ => []
  | k + 1, ofs, bs => if bs.length ≤ 9136 then [(ofs, bs)] else (ofs, bs.take 9136) :: fragments k (ofs + 9136) (bs.drop 9136)

/-- Send one block of generation `n`; answers the state and the fragments sent. -/
def sendBlock (n inst : Nat) (rot : Bool) (x : Nat × Nat × List Byte) (s : State) : State × Nat :=
  let (bt, bi, bs) := x
  let fs := fragments (bs.length + 1) 0 bs
  let one := fun (s : State) (f : Nat × List Byte) =>
    let last := decide (f.1 + f.2.length = bs.length)
    sendCrc 0x1102 (tsBE (gridNs s inst)) (beBytes 4 n ++ beBytes 2 bt ++ beBytes 2 (b2n rot + 2 * b2n last) ++ beBytes 4 bi ++
      beBytes 4 bs.length ++ beBytes 4 f.1 ++ beBytes 2 f.2.length ++ zeros 2 ++ f.2 ++ zeros (ceilDiv f.2.length 4 * 4 - f.2.length)) s
  (fs.foldl one s, fs.length)

/-- A generation is formed at this boundary and sent (R435). -/
def formGeneration (s : State) : State :=
  let n := (s.pair.gen + 1) % 2 ^ 32
  let inst := s.tb.grid
  let s := count (PAIR + 0x310) (modUnit (fun p => { p with gen := n, genGrid := some inst }) s)
  let old := s.pair.img
  let blocks := (List.range 113).map (fun b => (b, rackBlock s b))
  let go := blocks.filter (fun x => fget? old x.1 != some x.2.2.2 || x.1 % 256 == n % 256)
  let (s, nf) := go.foldl (fun (acc : State × Nat) x =>
    let (s, k) := sendBlock n inst (x.1 % 256 == n % 256) x.2 acc.1
    (s, acc.2 + k)) (s, 0)
  let s := modUnit (fun p => { p with img := blocks.foldl (fun m x => fset m x.1 x.2.2.2) [] }) s
  sendCrc 0x1103 (tsBE (gridNs s inst)) (beBytes 4 n ++ beBytes 4 go.length ++ beBytes 4 nf ++ beBytes 4 s.cfg.active.vintage) s

/-- A cycle boundary at which no generation has been formed yet. -/
def genDue (s : State) : Bool := s.tb.grid % 1024 == 0 && s.pair.genGrid != some s.tb.grid

/-- GENERATION_FORM (R435). -/
def execGenerationForm (s : State) : Out := act s fun s =>
  if isUnit s && hasTime s && s.pair.role == 3 && authority s && genDue s then formGeneration s else s

/-- The CRC of a Calfa message of `len` bytes. -/
def calfaCrc (bs : List Byte) (len : Nat) : Bool := (crc32 (slice bs 0 (len - 4))).toNat == beAt bs (len - 4) 4

/-- A standby takes part in racking. -/
def racked (s : State) : Bool := isUnit s && s.pair.role != 3

/-- GEN_BLOCK_RX (R436, R449): a fragment that fails its CRC is dropped, and its generation then lacks it. -/
def execGenBlockRx (s : State) : Out := act s fun s =>
  match takePairMsg (fun m => m.calfa && msgType m == 0x1102) s with
  | none => s
  | some (m, s) =>
    let b := m.bytes
    let flen := beAt b 0x30 2
    let len := 0x34 + ceilDiv flen 4 * 4 + 4
    if !isUnit s || beAt b 4 4 != pairId s || beAt b 8 1 != 1 - pairUnit s then hbReject s
    else if !racked s || beAt b 2 2 != len || decide (b.length < len) || !calfaCrc b len || !tsOk b 0x10 then s
    else
      let g := beAt b 0x1C 4
      let f : GenFrag := { btype := beAt b 0x20 2, bindex := beAt b 0x24 4, blen := beAt b 0x28 4, fofs := beAt b 0x2C 4
                           data := slice b 0x34 flen }
      modUnit (fun p => { p with genIn := fmod p.genIn g { inst := nsGrid s (msgTs b 0x10) } (fun x => { x with frags := x.frags ++ [f] }) }) s

/-- The blocks that fragments cover whole: (BTYPE, BINDEX, bytes). -/
def wholeBlocks (fs : List GenFrag) : List (Nat × Nat × List Byte) :=
  let keys := (fs.map (fun f => (f.btype, f.bindex))).eraseDups
  keys.filterMap (fun k =>
    let mine := ((fs.filter (fun f => (f.btype, f.bindex) == k)).mergeSort (fun a b => decide (a.fofs ≤ b.fofs)))
    let bytes := mine.flatMap (·.data)
    match mine with
    | f :: _ =>
      let contiguous := mine.foldl (fun (o : Option Nat) g => match o with
        | some n => if g.fofs = n then some (n + g.data.length) else none
        | none => none) (some 0)
      if contiguous == some f.blen then some (k.1, k.2, bytes) else none
    | [] => none)

/-- Generation `g` is lost (R436). -/
def genLost (g : Nat) (s : State) : State :=
  let s := flagCount (PAIR + 8) 3 (PAIR + 0x318) (modUnit (fun p => { p with genIn := fdel p.genIn g, genNo := some g }) s)
  pairUnsync 2 (raise 0x1008 .all (leBytes 4 g) s)

/-- Generation `g` is complete (R436, R438). -/
def genComplete (g : Nat) (bs : List (Nat × Nat × List Byte)) (s : State) : State :=
  let put := fun (m : FMap (List Byte)) (x : Nat × Nat × List Byte) => match rackNo x.1 x.2.1 with
    | some b => fset m b x.2.2
    | none => m
  let s := count (PAIR + 0x314) (modUnit (fun p => { p with
    gen := g, genNo := some g, genIn := fdel p.genIn g, img := bs.foldl put p.img, syncRun := p.syncRun + 1 }) s)
  let same := match s.pair.peer with
    | some p => p.vintage == s.cfg.active.vintage
    | none => false
  let s := if !s.pair.synced && decide (256 ≤ s.pair.syncRun) && same && (portOf s 13).linkUp then
      raise 0x1004 .all (leBytes 1 1 ++ leBytes 4 g) (modUnit (fun p => { p with synced := true }) s)
    else s
  match s.pair.hreq with
  | some h => if h.gen = g && !s.pair.hold && hasTime s then sendLease 0x1011 (highClaim s) s else s
  | none => s

/-- GEN_END_RX (R436, R439). -/
def execGenEndRx (s : State) : Out := act s fun s =>
  match takePairMsg (fun m => m.calfa && msgType m == 0x1103) s with
  | none => s
  | some (m, s) =>
    let b := m.bytes
    if !isUnit s || beAt b 4 4 != pairId s || beAt b 8 1 != 1 - pairUnit s then hbReject s
    else if !racked s || beAt b 2 2 != 48 || decide (b.length < 48) || !calfaCrc b 48 || !tsOk b 0x10 then s
    else
      let g := beAt b 0x1C 4
      if beAt b 0x28 4 ≠ s.cfg.active.vintage then
        let s := modUnit (fun p => { p with genIn := fdel p.genIn g, genNo := some g }) s
        let was := s.pair.synced
        let s := pairUnsync 3 s
        if was then s else raise 0x1007 .all (leBytes 1 3) (pairFlag 4 s)
      else
        let x := fgetD s.pair.genIn g { inst := nsGrid s (msgTs b 0x10) }
        let bs := wholeBlocks x.frags
        let next := match s.pair.genNo with
          | some k => g == (k + 1) % 2 ^ 32
          | none => true
        if next && decide (nsGrid s s.tb.now ≤ x.inst + 1024) && bs.length == beAt b 0x20 4 && x.frags.length == beAt b 0x24 4 then
          genComplete g bs s
        else genLost g s

/-- GENERATION_TIMEOUT (R436): generation `g`, of which fragments have come. -/
def execGenerationTimeout (g : Nat) (s : State) : Out := act s fun s =>
  match fget? s.pair.genIn g with
  | some x => if racked s && decide (x.inst + 1024 < s.tb.grid) then genLost g s else s
  | none => s

/-! ## Takeover (R429, R437) -/

/-- Bits of a bitmap. -/
def bitAt (bs : List Byte) (k : Nat) : Bool := Nat.testBit (leAt bs (k / 8) 1) (k % 8)

/-- Task `t` takes the state of its block. -/
def loadTask (t : Nat) (bs : List Byte) (s : State) : State :=
  let im := s.cfg.active
  let tm := elemsOf im t 0x20 0x22
  let ct := elemsOf im t 0x23 0x23
  let ed := taskEdges im t
  let la := elemsOf im t 0x26 0x27
  let wi := elemsOf im t 0x28 0x29
  let lk := taskLinks im t
  let st := taskStns im t
  let o1 := 16
  let o2 := o1 + 20 * tm.length
  let o3 := o2 + 8 * ct.length
  let o4 := o3 + 4 * ceilDiv ed.length 32
  let o5 := o4 + 4 * ceilDiv la.length 32
  let o6 := o5 + 260 * wi.length
  let o7 := o6 + 8 * lk.length
  let num := fun {α : Type} (l : List α) => l.zip (List.range l.length)
  let c := s.sch
  let c := (num tm).foldl (fun (c : Sch) (e, k) =>
    let o := o1 + 20 * k
    let fl := leAt bs (o + 2) 1
    let m : Tmr := { run := Nat.testBit fl 0, q := Nat.testBit fl 1, et := leAt bs (o + 4) 4
                     t0 := nsTick s (leAt bs (o + 8) 8 * 1000000000 + leAt bs (o + 16) 4), elem := e, typ := elemF im e 0 31 26 - 0x20 }
    if 999999999 < leAt bs (o + 16) 4 then c
    else { c with
             tmrs := fset c.tmrs (elemF im e 0 15 0) m
             edges := if elemF im e 0 31 26 = 0x22 then fset c.edges (elemF im e 3 31 16) (Nat.testBit fl 2) else c.edges }) c
  let c := (num ct).foldl (fun (c : Sch) (e, k) => { c with cvs := fset c.cvs (elemF im e 0 15 0) (BitVec.ofNat 32 (leAt bs (o2 + 8 * k + 4) 4)) }) c
  let c := (num ed).foldl (fun (c : Sch) (e, k) => { c with edges := fset c.edges e (bitAt (bs.drop o3) k) }) c
  let c := (num la).foldl (fun (c : Sch) (e, k) => { c with latches := fset c.latches e (bitAt (bs.drop o4) k) }) c
  let c := (num wi).foldl (fun (c : Sch) (e, k) =>
    let o := o5 + 260 * k
    { c with wins := fset c.wins (elemF im e 0 15 0) (wordsLE (leAt bs (o + 2) 1) (bs.drop (o + 4))).reverse }) c
  let c := (num lk).foldl (fun (c : Sch) (e, k) => { c with links := fset c.links e (BitVec.ofNat 32 (leAt bs (o6 + 8 * k + 4) 4)) }) c
  let s := { s with sch := c }
  let s := (num st).foldl (fun s (n, k) => modStn n (fun x => { x with errPend := leAt bs (o7 + 4 * k + 1) 1 != 0 }) s) s
  modTask t (fun x => { x with snap := none, firstDone := true }) s

/-- Parameter block `k` is applied: VALUE of the records that exist, and CFG_BAT_NUM. -/
def loadPars (k : Nat) (bs : List Byte) (s : State) : State :=
  let im := s.cfg.active
  let ps := (upFrom (256 * k) 256).filter (fun p => decide (p < imCount im secSCH_PARAM))
  { s with cfg := { s.cfg with
    pars := ps.foldl (fun m p => fset m p (BitVec.ofNat 32 (leAt bs (4 * (p - 256 * k)) 4))) s.cfg.pars, batNum := leAt bs 1024 4 } }

/-- The output block is applied: the numbers of every publication, and the levels of the DOs as their first latch with authority. -/
def loadOutputs (bs : List Byte) (s : State) : State :=
  let im := s.cfg.active
  let s := (imValid im secGOOSE).foldl (fun s n => modGp n (fun r => { r with
    stnum := BitVec.ofNat 32 (leAt bs (8 * n) 4), sqnum := BitVec.ofNat 32 (leAt bs (8 * n + 4) 4) }) s) s
  (imValid im secDO).foldl (fun s n =>
    let o := 2048 + 16 * n
    if 999999999 < leAt bs (o + 12) 4 then s
    else setLevel n (leAt bs o 1 != 0) (modDo n (fun d => { d with
      st := 1, fallHeld := false, lastRise := nsTick s (leAt bs (o + 4) 8 * 1000000000 + leAt bs (o + 12) 4) }) s)) s

/-- The claims of paired sources are applied; a claim that the unit itself has accepted since never falls (R138). -/
def loadClaims (k : Nat) (bs : List Byte) (s : State) : State :=
  let es := (upFrom (256 * k) 256).filter (dirValid s.cfg.active)
  { s with nv := { s.nv with claimHi := es.foldl (fun m n =>
    let c := BitVec.ofNat 32 (leAt bs (4 * (n - 256 * k)) 4)
    if sint 32 (c - fgetD m n 0#32).toNat < 0 then m else fset m n c) s.nv.claimHi } }

/-- The newest complete image replaces the unit's own task, parameter and output state (R437). Across vintages every task starts as
after power-up (R439). -/
def applyImage (vint : Bool) (s : State) : State :=
  let ts := imValid s.cfg.active secSCH_TASK
  let s := ts.foldl (fun s t => match fget? s.pair.img t with
    | some bs => if vint then taskReset t s else loadTask t bs s
    | none => taskReset t s) s
  s.pair.img.foldl (fun s (b, bs) =>
    if b < 16 then s
    else if b < 80 then (if vint then s else loadPars (b - 16) bs s)
    else if b = 80 then loadOutputs bs s
    else loadClaims (b - 81) bs s) s

/-- AUTHORITY_BEGIN (R429, R433): the first tick boundary after the claim commit. -/
def execAuthorityBegin (s : State) : Out := act s fun s =>
  match s.pair.granted with
  | none => s
  | some g =>
    if !isUnit s || decide (s.tb.tick ≤ g.tick) then s
    else if s.pair.leaseEnd ≤ s.tb.tick then modUnit (fun p => { p with granted := none }) s
    else
      let vint := match s.pair.peer with
        | some p => p.vintage != s.cfg.active.vintage
        | none => false
      let stale := !s.pair.synced
      let s := savePars (applyImage vint s)
      let s := modUnit (fun p => { p with granted := none, hreq := none, auth := true, mark := some s.tb.grid, genIn := [] }) s
      let s := (imValid s.cfg.active secGOOSE).foldl (fun s n =>
        if gpControl s.cfg.active n then modGp n (fun r => { r with active := false }) s else s) s
      let s := setRole 3 s
      let s := flagCount (PAIR + 8) 7 (PAIR + 0x32C) s
      let s := raise 0x1005 .all (leBytes 1 (b2n g.planned) ++ leBytes 1 (b2n stale + 2 * b2n vint) ++ leBytes 4 s.nv.claim.toNat ++
        leBytes 4 s.pair.gen) s
      authEvent true (raise 0x1002 .all (leBytes 1 1 ++ leBytes 4 s.nv.claim.toNat) s)

/-! ## Planned handover (R442) -/

/-- CMD_PAIR_HANDOVER. -/
def execCmdPairHandover (n : Nat) (s : State) : Out := act s
  (runCmd n 0x50 [] (fun _ s =>
    let peer := s.pair.peer.getD { role := 0, hfl := 0, vintage := 0, claim := 0#32, gen := 0 }
    let no := fun (r : Nat) => complete n 5 r 0 s
    if !isUnit s || s.pair.role != 3 || !authority s then no 1
    else if !Nat.testBit peer.hfl 13 then no 2
    else if !s.pair.witOk || !Nat.testBit peer.hfl 14 then no 3
    else if peer.vintage != s.cfg.active.vintage then no 4
    else if s.pair.hov.isSome then no 5
    else if Nat.testBit peer.hfl 12 then no 6
    else
      let h := (s.tb.grid / 1024 + 2) * 1024
      let s := modUnit (fun p => { p with hov := some { fn := n, h := h } }) s
      let s := modFn s n (fun f => { f with cur := f.cur.map (fun c => { c with waits := true }) })
      match signedCalfa 0x1104 (beBytes 4 ((s.pair.gen + 2) % 2 ^ 32) ++ tsBE (gridNs s h)) s with
      | (s, some bs) => enqueue1 13 (.calfa bs) (calfaLen 64) none none s
      | (s, none) => s))

/-- HANDOVER_REQ_RX (R442). -/
def execHandoverReqRx (s : State) : Out := act s fun s =>
  match takePairMsg (fun m => m.calfa && msgType m == 0x1104) s with
  | none => s
  | some (m, s) =>
    if !isUnit s || !tsOk m.bytes 0x20 then hbReject s
    else match peerCheck m s with
      | (s, true) => modUnit (fun p => { p with
          lastC := some (BitVec.ofNat 32 (beAt m.bytes 0xC 4))
          hreq := some { gen := beAt m.bytes 0x1C 4, h := nsGrid s (msgTs m.bytes 0x20) } }) s
      | (s, false) => hbReject s

/-- HANDOVER_INSTANT (R442): generation H, the end of authority, RELEASE, STANDBY. -/
def execHandoverInstant (s : State) : Out := act s fun s =>
  if isUnit s && handoverDue s && s.pair.role == 3 then
    let s := if genDue s then formGeneration s else s
    let s := modUnit (fun p => { p with hov := p.hov.map (fun h => { h with past := true }) }) s
    sendLease 0x1013 s.nv.claim (authorityEnds 2 s)
  else s

/-- HANDOVER_TIMEOUT (R442): 6 cyc after H, or when the unit lost its role before H. -/
def execHandoverTimeout (s : State) : Out := act s fun s =>
  match s.pair.hov with
  | some h => if h.h + 6144 < s.tb.grid then modUnit (fun p => { p with hov := none }) (complete h.fn 5 5 0 s) else s
  | none => s

/-- PAIR_STAT (Table 16-11). -/
def pairStat (s : State) : Word :=
  let p := s.pair
  let same := match p.peer with
    | some x => x.vintage == s.cfg.active.vintage
    | none => false
  BitVec.ofNat 32 (roleShown s * 2 ^ 29 + b2n (authority s) * 2 ^ 28 + b2n p.witOk * 2 ^ 27 + b2n p.peerOk * 2 ^ 26 + b2n p.calfaOk * 2 ^ 25 +
    b2n p.synced * 2 ^ 24 + b2n same * 2 ^ 23 + b2n p.hold * 2 ^ 22 + b2n (roleShown s == 2 && !p.synced) * 2 ^ 21 + p.missed * 2 ^ 8)

/-- CMD_PAIR_HOLD. -/
def execCmdPairHold (n : Nat) (s : State) : Out := act s
  (runCmd n 0x51 [(4, 1)] (fun raw s =>
    let v := leAt raw 4 1
    if 1 < v then complete n 3 0 0 s
    else if v = 1 && isUnit s && s.pair.role == 3 then complete n 5 1 0 s
    else complete n 0 v 0 (modUnit (fun p => { p with hold := v == 1 }) s)))

/-- CMD_PAIR_STATUS. -/
def execCmdPairStatus (n : Nat) (s : State) : Out := act s
  (runCmd n 0x52 [] (fun _ s => complete n 0 (pairStat s).toNat s.pair.leaseEnd s))

/-! ## Witness mode (R444 to R448) -/

/-- The pair that a witness serves under this PAIR_ID. -/
def servedPair (s : State) (id : Nat) : Option Nat :=
  (List.range 32).find? (fun n => bit (imgReg s.cfg.active (PAIR + 0x200 + 8 * n)) 31 &&
    (imgReg s.cfg.active (PAIR + 0x204 + 8 * n)).toNat == id)

/-- The module's time is traceable to UTC within 1 ms. -/
def witTime (s : State) : Bool := hasTime s && (match s.tb.terr with
  | some e => decide (e ≤ 1000000)
  | none => false)

/-- The oldest message of type `typ` from a unit of a served pair, checked (R444): the pair, the unit, the message. -/
def takeUnitMsg (typ : Nat) (s : State) : State × Option (Nat × Nat × PairMsg) :=
  match takePairMsg (fun m => !m.calfa && m.dport == witUdp s && msgType m == typ) s with
  | none => (s, none)
  | some (m, s) =>
    let b := m.bytes
    let u := beAt b 8 1
    match servedPair s (beAt b 4 4) with
    | none => (witReject s, none)
    | some n =>
      if pairMode s ≠ 2 ∨ beAt b 2 2 ≠ 64 ∨ b.length < 64 ∨ !tsOk b 0x10 ∨ 1 < u then (witReject s, none)
      else
        let slot := fld (imgReg s.cfg.active (PAIR + 0x200 + 8 * n)) 28 20
        let (s, ok) := macVerify (slot + 1) (slice b 0 0x30) (slice b 0x30 16) s
        let q := BitVec.ofNat 32 (beAt b 0xC 4)
        if !ok || !newerThan q (fget? s.pair.lastU (2 * n + u)) || !hasTime s || !freshTs s (msgTs b 0x10) then (witReject s, none)
        else (count (PAIR + 0x320) (modUnit (fun p => { p with lastU := fset p.lastU (2 * n + u) q }) s), some (n, u, m))

def witOf (s : State) (n : Nat) : Wit := fgetD s.nv.wits n {}
def modWit (n : Nat) (f : Wit → Wit) (s : State) : State := { s with nv := { s.nv with wits := fmod s.nv.wits n {} f } }
def setExpiry (n ns : Nat) (s : State) : State := modUnit (fun p => { p with expiry := fset p.expiry n ns }) s

/-- The lease of pair `n` is held at instant `now`. -/
def witLive (s : State) (n now : Nat) : Bool :=
  (witOf s n).holder != 3 && (match fget? s.pair.expiry n with
    | some e => decide (now < e)
    | none => false)

/-- The witness answers message `m` of unit `u` of pair `n` with GRANT, or DENY and a reason. -/
def witAnswer (n _u reason : Nat) (m : PairMsg) (s : State) : State :=
  let w := witOf s n
  let (q, s) := nextSeqW s
  let slot := fld (imgReg s.cfg.active (PAIR + 0x200 + 8 * n)) 28 20
  let b := witMsg (if reason = 0 then 0x1021 else 0x1022) 0xFF (if w.holder = 3 then 0xFF else w.holder) reason q w.claim.toNat
    (beAt m.bytes 0xC 4) w.leaseNs (beAt m.bytes 4 4) (tsNow s)
  let s := if reason = 0 then s else count (PAIR + 0x324) s
  match macSign slot b s with
  | (s, none) => s
  | (s, some g) => count (PAIR + 0x31C) (sendUdp (fld (pairNet s) 12 0) m.src m.sport (b ++ padTo 16 g) s)

/-- The claim that a message carries. -/
def msgClaim (m : PairMsg) : Word := BitVec.ofNat 32 (beAt m.bytes 0x1C 4)

/-- The lease length that a message carries is stored. -/
def keepLen (n : Nat) (m : PairMsg) (s : State) : State := modWit n (fun w => { w with leaseNs := beAt m.bytes 0x24 4 }) s

/-- A message that would be granted gets no answer while the witness's time is not traceable. -/
def whenTraceable (f : State → State) (s : State) : State := if witTime s then f s else s

/-- REQUEST_RX (R432, R446). -/
def execRequestRx (s : State) : Out := act s fun s =>
  match takeUnitMsg 0x1011 s with
  | (s, none) => s
  | (s, some (n, u, m)) =>
    let now := s.tb.now
    let s := keepLen n m s
    let w := witOf s n
    if witLive s n now && w.holder == u then whenTraceable (fun s => witAnswer n u 0 m (setExpiry n (now + w.leaseNs) s)) s
    else if witLive s n now then witAnswer n u 1 m s
    else whenTraceable (fun s =>
      let c := if newer (msgClaim m) w.claim then msgClaim m else w.claim
      witAnswer n u 0 m (setExpiry n (now + w.leaseNs) (modWit n (fun w => { w with holder := u, claim := c + 1#32 }) s))) s

/-- RENEW_RX (R446). -/
def execRenewRx (s : State) : Out := act s fun s =>
  match takeUnitMsg 0x1012 s with
  | (s, none) => s
  | (s, some (n, u, m)) =>
    let now := s.tb.now
    let s := keepLen n m s
    let w := witOf s n
    let live := witLive s n now
    if live && w.holder == u && msgClaim m == w.claim then whenTraceable (fun s => witAnswer n u 0 m (setExpiry n (now + w.leaseNs) s)) s
    else witAnswer n u (if live && w.holder != u then 1 else if live then 2 else 3) m s

/-- RELEASE_RX (R446). -/
def execReleaseRx (s : State) : Out := act s fun s =>
  match takeUnitMsg 0x1013 s with
  | (s, none) => s
  | (s, some (n, u, m)) =>
    let now := s.tb.now
    let s := keepLen n m s
    let w := witOf s n
    if witLive s n now && w.holder == u && msgClaim m == w.claim then setExpiry n now s else s

/-- WITNESS_LEASE_EXPIRY (R430, R446): the lease of pair `n` ends at its expiry. -/
def execWitnessLeaseExpiry (n ns : Nat) (s : State) : Out := act s fun s =>
  match fget? s.pair.expiry n with
  | some e => if pairMode s = 2 ∧ e ≤ ns then seen ns (modUnit (fun p => { p with expiry := fdel p.expiry n }) s) else s
  | none => s

/-- What the pair does at a start (R445, R447): MSG_SEQ resumes at the reservations, and a witness gives each recorded holder its
lease length from the restart. -/
def pairStart (s : State) : State :=
  let s := { s with pair := { seqC := s.nv.resC, seqW := s.nv.resW, gen := 0 } }
  if pairMode s = 2 then
    s.nv.wits.foldl (fun s (n, w) => if w.holder = 3 then s else setExpiry n (s.tb.now + w.leaseNs) s) s
  else s

end Sys2Proof.Machine
end

