-- ==== Sys2Proof/Machine/Security.lean ====
section
/-!
DEFINITION. Sys2Proof/Machine/Security.lean: the vault, identity and firmware commands (chapter 17), and tampers.
-/
namespace Sys2Proof.Machine

def secFlag (b : Nat) (s : State) : State := setFlag s (SEC + 4) b

/-- What chapter 17 calls the present state: TLOCK counts as TAMPER-LOCK, code 6. -/
def lcState (s : State) : Nat := if s.fuses.tlock then 6 else s.fuses.lc

/-- The vault may be used: the reason it may not, 0 when it may (R458, R473, R477). -/
def vaultReason (s : State) : Nat :=
  if s.fuses.tlock then 6 else if 4 ≤ s.fuses.lc then 1 else if !s.sec.rootIn then 1 else 0

/-! ## Slots (R466 to R468) -/

/-- An open store to write to: when none unsealed at this start, a new one under the present MC. -/
def openStore (s : State) : State :=
  if s.sec.unsealed then s
  else
    let v : VStore := { written := true, mc := s.sec.mc, root := s.nv.root }
    { s with sec := { s.sec with unsealed := true, store := 0 }, nv := { s.nv with store0 := v } }

/-- A slot update (R468): the cell that is not in force is written, then CTR + 1. -/
def slotWrite (k : Nat) (c : VCell) (s : State) : State :=
  let s := openStore s
  let v := slotOf s k
  let v' : VSlot := if (v.ctr.toNat + 1) % 2 = 0 then { v with cell0 := c, ctr := v.ctr + 1#32 } else { v with cell1 := c, ctr := v.ctr + 1#32 }
  let s := setActiveStore { activeStore s with slots := fset (activeStore s).slots k v' } s
  let s := pairKeyUpdated k s
  raise 0x1103 .all (leBytes 2 k ++ leBytes 4 v'.ctr.toNat) s

/-- A slot command succeeded: RESULT0 is CTR after the update. -/
def slotDone (n k : Nat) (c : VCell) (s : State) : State :=
  let s := slotWrite k c s
  complete n 0 (slotOf s k).ctr.toNat 0 s

/-- ATTR and ALG are used codes, and belong together (R477). -/
def attrAlgUsed (attr alg : Nat) : Bool := decide (1 ≤ attr ∧ attr ≤ 4 ∧ 1 ≤ alg ∧ alg ≤ 3)
def attrAlgFit (attr alg : Nat) : Bool := if alg = 3 then decide (3 ≤ attr) else decide (attr ≤ 2)

/-- The cell that a command's ATTR, ALG, KEY_ID and NOT_AFTER describe. -/
def cellOfCmd (raw key : List Byte) : VCell :=
  { valid := true, attr := leAt raw 6 1, alg := leAt raw 7 1, keyId := leAt raw 8 4, notAfter := leAt raw 0x10 8, key := padTo 32 key }

/-- CMD_KEY_PUT (R466): `blob` is the key blob in host memory, none for a host memory error. -/
def execCmdKeyPut (n : Nat) (blob : Option (List Byte)) (s : State) : Out := act s
  (runCmd n 0x42 [(4, 10), (0x10, 16)] (fun raw s =>
    let k := leAt raw 4 2
    let w := leAt raw 0xC 2
    let attr := leAt raw 6 1
    let alg := leAt raw 7 1
    let r := vaultReason s
    if 511 < k ∨ (511 < w ∧ w ≠ 0xFFFF) ∨ !attrAlgUsed attr alg then complete n 3 0 0 s
    else if r ≠ 0 then complete n 5 r 0 s
    else if !attrAlgFit attr alg then complete n 5 2 0 s
    else if w = 0xFFFF then
      if s.fuses.lc ≠ 1 ∧ s.fuses.lc ≠ 2 then complete n 5 1 0 s
      else match blob with
        | none => complete n 4 0 0 s
        | some b => slotDone n k (cellOfCmd raw (padTo 32 b)) s
    else match keyOp w 3 s with
      | (s, none) => complete n 5 2 0 s
      | (s, some key) => match blob with
        | none => complete n 4 0 0 s
        | some b =>
          match aesGcmOpen key (slice b 0 12) (slice b 12 32) (slice b 44 16) (slice raw 4 20) with
          | none => complete n 5 3 0 s
          | some pt => slotDone n k (cellOfCmd raw pt) s))

/-- CMD_KEY_DERIVE (R467). -/
def execCmdKeyDerive (n : Nat) (s : State) : Out := act s
  (runCmd n 0x43 [(4, 11), (0x10, 40)] (fun raw s =>
    let k := leAt raw 4 2
    let src := leAt raw 0xC 2
    let len := leAt raw 0xE 1
    let attr := leAt raw 6 1
    let alg := leAt raw 7 1
    let label := slice raw 0x18 len
    let r := vaultReason s
    let key := fun (k : List Byte) => kmac256 k (s.sec.mc ++ label) (ascii "PZ7 DERIVE")
    if 511 < k ∨ 511 < src ∨ len = 0 ∨ 32 < len ∨ leAt raw 0x18 1 = 0 ∨ !(slice raw (0x18 + len) (32 - len)).all (· == 0#8) ∨
        !attrAlgUsed attr alg then complete n 3 0 0 s
    else if r ≠ 0 then complete n 5 r 0 s
    else if !attrAlgFit attr alg then complete n 5 2 0 s
    else if src = 0x1FF then slotDone n k (cellOfCmd raw (key (Config.vaultRoot s.nv.root))) (count (SEC + 0x300) s)
    else match keyOp src 4 s with
      | (s, none) => complete n 5 2 0 s
      | (s, some kb) => slotDone n k (cellOfCmd raw (key kb)) s))

/-- CMD_KEY_ERASE (R468): an update to an empty cell. -/
def execCmdKeyErase (n : Nat) (s : State) : Out := act s
  (runCmd n 0x44 [(4, 2)] (fun raw s =>
    let k := leAt raw 4 2
    let r := vaultReason s
    if 511 < k then complete n 3 0 0 s
    else if r ≠ 0 then complete n 5 r 0 s
    else slotDone n k {} s))

/-! ## Identity (R474 to R476) -/

/-- The identity key pair's seed (R474). -/
def idSeed : List Byte := kmac256 Config.deviceSecret [] (ascii "PZ7 IDENTITY")

/-- A signature of the identity key. -/
def idSign (s : State) (ctx : String) (bs : List Byte) : List Byte := dsaSign s idSeed ctx bs

/-- CMD_ID_GET (R474): the certificate, into a buffer of 8 KiB. -/
def execCmdIdGet (n : Nat) (ok : Bool) (s : State) : Out := act s
  (runCmd n 0x40 [(8, 8)] (fun raw s =>
    if !ok then complete n 4 0 0 s
    else
      let c := s.part.cert.take 8192
      complete n 0 c.length 0 (hostWrite n (leAt raw 8 8) c s)))

/-- The firmware copy that runs. -/
def runningFw (s : State) : FwCopy := if s.sec.fwRun = 0 then s.nv.fw0 else s.nv.fw1

/-- The quote record (Table 17-7). -/
def quoteBytes (s : State) (nonce : List Byte) : List Byte :=
  let comps := (runningFw s).comps.flatMap (fun c => leBytes 1 c.1 ++ zeros 3 ++ leBytes 4 c.2.1 ++ padTo 32 c.2.2)
  let b := leBytes 2 0x1161 ++ leBytes 2 (b2n s.fuses.tlock * 2 ^ 15 + b2n s.sec.unsealFail * 2 ^ 14) ++ leBytes 1 s.fuses.lc ++ zeros 1 ++
    leBytes 2 4 ++ leBytes 4 s.part.serial.toNat ++ leBytes 4 s.sec.fwVer ++ leBytes 4 s.fuses.svn ++ zeros 4 ++
    (if hasTime s then tsLE s.tb.now else zeros 12) ++ zeros 4 ++ padTo 32 nonce ++ padTo 32 s.sec.mc ++ padTo 160 comps
  let b := b ++ idSign s "PZ7-QUOTE" (sha3_256 b)
  b ++ leBytes 4 (crc32 b).toNat

/-- CMD_QUOTE (R476). -/
def execCmdQuote (n : Nat) (ok : Bool) (s : State) : Out := act s
  (runCmd n 0x41 [(8, 40)] (fun raw s =>
    if s.fuses.lc = 4 then complete n 5 1 0 s
    else if !ok then complete n 4 0 0 s
    else complete n 0 0 0 (hostWrite n (leAt raw 0x28 8) (quoteBytes s (slice raw 8 32)) (count (SEC + 0x30C) s))))

/-- The meter certificate (Table 17-6). -/
def meterCert (s : State) : List Byte :=
  let b := leBytes 2 0x1162 ++ zeros 2 ++ leBytes 4 2552 ++ leBytes 4 s.part.serial.toNat ++ zeros 4 ++ meterId s ++ padTo 32 s.sec.metro ++
    (if hasTime s then tsLE s.tb.now else zeros 12) ++ zeros 4 ++ padTo 32 (sha3_256 (mldsaPub idSeed))
  b ++ idSign s "PZ7-METERCERT" b ++ zeros 4

/-- CMD_METER_KEY_GET (R475): the public key, the certificate's length, the certificate; status 7 while there is no meter key or no
identity key. -/
def execCmdMeterKeyGet (n : Nat) (ok : Bool) (s : State) : Out := act s
  (runCmd n 0x29 [(8, 8)] (fun raw s =>
    if !meterKeyOk s ∨ s.fuses.lc = 4 then complete n 7 0 0 s
    else if !ok then complete n 4 0 0 s
    else
      let bs := padTo 1312 (mldsaPub (meterSeed s)) ++ leBytes 4 2552 ++ meterCert s
      complete n 0 bs.length 0 (hostWrite n (leAt raw 8 8) bs s)))

/-! ## Firmware (R469) -/

/-- SEC_EV_FW: the OP and the result. -/
def fwEvent (op res : Nat) (s : State) : State := raise 0x1106 .all (leBytes 1 op ++ leBytes 1 res) s

/-- A firmware command is refused. -/
def fwRefuse (n op r : Nat) (s : State) : State := fwEvent op r (complete n 5 r 0 s)

/-- Change the firmware copy that does not run. -/
def modOtherFw (f : FwCopy → FwCopy) (s : State) : State :=
  if s.sec.fwRun = 0 then { s with nv := { s.nv with fw1 := f s.nv.fw1 } } else { s with nv := { s.nv with fw0 := f s.nv.fw0 } }

/-- CMD_FW_STAGE: `pkg` is the package in host memory, none for a host memory error. -/
def execCmdFwStage (n : Nat) (pkg : Option FwPkg) (s : State) : Out := act s
  (runCmd n 0x46 [(8, 12)] (fun raw s =>
    let len := leAt raw 0x10 4
    if len = 0 ∨ 67108864 < len then complete n 3 0 0 s
    else if s.fuses.lc = 5 then fwRefuse n 0x46 1 s
    else match pkg with
      | none => complete n 4 0 0 s
      | some p =>
        let ok := p.manifestOk && p.hashesOk && decide (s.fuses.svn ≤ p.svn)
        let s := modOtherFw (fun _ => { version := p.version, svn := p.svn, marked := false, verifies := ok, comps := p.comps }) s
        let s := { s with sec := { s.sec with staged := ok, stagedMc := if ok then p.mc else [], rewrapped := false, fwAt := none } }
        if ok then fwEvent 0x46 0 (complete n 0 p.version 0 s) else fwRefuse n 0x46 3 s))

/-- CMD_FW_REWRAP: every slot is sealed again, under MC', in the store not in use. -/
def execCmdFwRewrap (n : Nat) (s : State) : Out := act s
  (runCmd n 0x47 [] (fun _ s =>
    let r := vaultReason s
    if !s.sec.staged then fwRefuse n 0x47 5 s
    else if r ≠ 0 then fwRefuse n 0x47 r s
    else
      let slots := if s.sec.unsealed then (activeStore s).slots else []
      let v : VStore := { written := true, mc := s.sec.stagedMc, root := s.nv.root, slots := slots }
      let s := if s.sec.store = 0 then { s with nv := { s.nv with store1 := v } } else { s with nv := { s.nv with store0 := v } }
      let s := { s with sec := { s.sec with rewrapped := true } }
      let held := (slots.filter (fun e => (if e.2.ctr.toNat % 2 = 0 then e.2.cell0 else e.2.cell1).valid)).length
      fwEvent 0x47 0 (complete n 0 held 0 s)))

/-! ## Tampers (R470 to R473) -/

/-- The sources of `mask` that are watched: lid and mesh where enabled; the clock only while running. -/
def tamperSeen (s : State) (mask : Nat) : Nat :=
  let run := alive s || s.pwr.state == .shed
  (mask &&& 0x1F) &&& ((s.fuses.tamperEn &&& 3) ||| 0x0C ||| (if run then 0x10 else 0))

/-- PHASE of Table 17-14: `keyOp` says that a key operation is in progress. -/
def tamperPhase (s : State) (keyOp : Bool) : Nat :=
  let doing := fun (op : Nat) => s.hp.any (fun f => f.cur.any (fun c => c.op == op))
  match s.pwr.state with
  | .starting => 0
  | .sleep => 3
  | .batteryStandby => 3
  | _ => if doing 0x45 then 4 else if doing 0x47 then 5 else if keyOp then 1 else 2

/-- An entry of the tamper log (R472), to be reported by this start, or by the next where the engines do not run. -/
def logTamper (mask phase : Nat) (s : State) : State :=
  let e : TLog := { sources := mask, phase := phase, lc := s.fuses.lc, time := s.vbat.rtc }
  let s := count (SEC + 0x308) (secFlag 0 { s with vbat := { s.vbat with tlog := (e :: s.vbat.tlog).take 16 } })
  if alive s then { s with sec := { s.sec with toReport := s.sec.toReport ++ [(mask, phase)] } }
  else { s with nv := { s.nv with tampers := s.nv.tampers ++ [(mask, phase)] } }

/-- The vault root, every slot and both stores are zeroised. -/
def zeroiseVault (s : State) : State :=
  { s with sec := { s.sec with unsealed := false, rootIn := false }, nv := { s.nv with root := 0, store0 := {}, store1 := {} } }

/-- A tamper in state PROVISIONED or later: the KEK is zeroised, TLOCK is set and kept. -/
def tamperLock (phase : Nat) (s : State) : State :=
  let s := { s with vbat := { s.vbat with kek := false }, fuses := { s.fuses with tlock := true } }
  if phase = 3 then s else zeroiseVault s

/-- SEC_EV_TAMPER goes at once to the functions that have had their start events; the others get it with those (R471). -/
def reportTamper (mask phase : Nat) (s : State) : State :=
  [0, 1, 2, 3].foldl (fun s n =>
    if (fnOf s n).startEv then raise 0x1101 (.fnOnly n) (leBytes 1 mask ++ leBytes 1 phase) s else s) s

/-- TAMPER_DETECT (R471, Table 17-5). It takes place in every powered state. -/
def execTamperDetect (mask : Nat) (keyOp : Bool) (s : State) : Out :=
  let seen_ := tamperSeen s mask
  let ph := tamperPhase s keyOp
  if s.pwr.state = .off ∨ seen_ = 0 then .next s
  else
    let s := { s with sec := { s.sec with present := seen_ } }
    let s := logTamper seen_ ph s
    let s := if s.fuses.lc = 1 then s else
      let s := tamperLock ph s
      if ph = 1 then secFlag 2 s else s
    .next (reportTamper seen_ ph s)

/-! ## Registers -/

/-- SEC_STAT. -/
def secStat (s : State) : Word :=
  let held := if s.sec.unsealed then ((activeStore s).slots.filter (fun e => (cellOf s e.1).valid)).length else 0
  BitVec.ofNat 32 (b2n s.sec.unsealed * 2 ^ 31 + s.sec.store * 2 ^ 30 + b2n s.sec.staged * 2 ^ 29 + b2n s.sec.rewrapped * 2 ^ 28 + held)

/-- The slot window (Table 17-13). -/
def slotWin (s : State) (k : Nat) : List Word :=
  let c := cellOf s k
  let w := BitVec.ofNat 32
  [w (b2n c.valid * 2 ^ 31 + (if c.valid then c.attr else 0) * 2 ^ 28 + (if c.valid then c.alg else 0) * 2 ^ 24 +
      b2n (c.valid && cellExpired s c) * 2 ^ 23), w c.keyId, w c.notAfter, w (c.notAfter / 2 ^ 32), (slotOf s k).ctr, 0#32]

/-- The tamper log window (Table 17-14). -/
def tlogWin (s : State) (k : Nat) : List Word :=
  let w := BitVec.ofNat 32
  match s.vbat.tlog[k]? with
  | none => [0#32, 0#32, 0#32, 0#32]
  | some e => [w (2 ^ 31 + e.phase * 2 ^ 24 + e.lc * 2 ^ 16 + e.sources), w (e.time / 1000000000), w (e.time / 1000000000 / 2 ^ 32),
               w (e.time % 1000000000)]

end Sys2Proof.Machine
end

