-- ==== Sys2Proof/Machine/Boot.lean ====
section
/-!
DEFINITION. Sys2Proof/Machine/Boot.lean: resets and the power-up sequence (R454 to R462, R482 to R485, R495, R500).
-/
namespace Sys2Proof.Machine

def modPwr (f : Pwr → Pwr) (s : State) : State := { s with pwr := f s.pwr }
def pwrFlag (b : Nat) (s : State) : State := setFlag s (PWR + 4) b

/-- The counter of the cellar at PWR offset `o`, which showed `old`, has counted one: at half range as every other counter (R107, R504). -/
def pwrHalf (o : Nat) (old : Word) (s : State) : State := halfAt (PWR + o) 0xFFFF old s

/-! ## Resets (R485, R495) -/

/-- Bytes that the specification does not give: draw `d`, position from `lo` on. -/
def openBytes (d : Nat) (lo : Nat) : Nat → List Byte
  | 0 => []
  | n + 1 => Config.dumpBytes d lo :: openBytes d (lo + 1) n

/-- What a write of the image `raw` leaves that is cut off (R386): the header, and after it bytes that the spec does not state, with a check
word that is not theirs. `k` numbers the open bytes. -/
def cutRaw (k : Nat) (raw : List Byte) : List Byte :=
  let b := hdrBodyLen raw
  let body := raw.take 256 ++ openBytes k 0 (b - 256)
  body ++ (sha3_256 body).map (fun x => ~~~x) ++ raw.drop (b + 32)

/-- A slot that was being written with `raw` when the module stopped is bad (Table 14-14). -/
def cutSlot (k : Nat) (raw : List Byte) (x : Slot) : Slot := if x.state = 3 then { x with state := 2, raw := cutRaw k raw } else x

/-- What a reset with its CAUSE and DETAIL leaves (Table 18-7). The VBAT domain, the cellar, flash and the fuses keep their contents;
everything else starts empty, and the power-up sequence has still to run. Tampers and a transition that no event queue has heard of are
reported by the next start. -/
def emptied (cause detail : Nat) (s : State) : State :=
  let heard := s.hp.any (·.startEv)
  { pending := s.pending
    tb := { now := s.tb.now, edge := s.tb.now }
    cfg := { boot := s.cfg.boot, slotA := cutSlot s.free s.cfg.writeRaw s.cfg.slotA, slotB := cutSlot s.free s.cfg.writeRaw s.cfg.slotB }
    nv := { s.nv with
      resets := s.nv.resets + 1#32
      tampers := if heard then s.nv.tampers else s.sec.toReport ++ s.nv.tampers
      lcMoved := if heard then s.nv.lcMoved else (match s.nv.lcMoved with
        | some m => some m
        | none => s.sec.lcNote) }
    vbat := { s.vbat with rstCause := BitVec.ofNat 32 (cause * 2 ^ 24 + detail % 65536) }
    part := s.part
    fuses := s.fuses
    pwr := { pfailN := s.pwr.pfailN, resetN := s.pwr.resetN, perstN := s.pwr.perstN, vbatPin := s.pwr.vbatPin, vin := s.pwr.vin,
             temp := s.pwr.temp }
    free := s.free + 1 }

/-- Every reset of Table 18-7 with its CAUSE and DETAIL: PWR_RESETS counts (R107, R504), and everything that a reset does not keep starts
empty. -/
def startReset (cause detail : Nat) (s : State) : State := pwrHalf 0x300 s.nv.resets (emptied cause detail s)

/-! ## The supply (R481, R484) -/

/-- PWR_PFAIL_CFG of the image in force; its default while none is. -/
def pfailCfg (s : State) : Word := imgReg s.cfg.active (PWR + 0xC)

/-- THR in mV. -/
def thrMv (s : State) : Nat := fld (pfailCfg s) 31 24 * 100

/-- VIN is at or above THR + HYST. -/
def vinHigh (s : State) (mv : Nat) : Bool := decide (thrMv s + fld (pfailCfg s) 23 16 * 100 ≤ mv)

/-! ## The boot ROM (R455, R456, R459, R462) -/

/-- A new key-encryption key and a new vault root. -/
def newKeys (s : State) : State :=
  { s with
    vbat := { s.vbat with kek := true }
    nv := { s.nv with root := s.nv.roots + 1, roots := s.nv.roots + 1 }
    sec := { s.sec with rootIn := true } }

/-- Every secret key and both sealed stores are destroyed; PROVISIONED and DEPLOYED get new ones (R459). -/
def rekey (dst : Nat) (s : State) : State :=
  let s := zeroiseVault { s with vbat := { s.vbat with kek := false } }
  if dst = 2 ∨ dst = 3 then newKeys s else s

/-- The fuse state is compared with the state that the vault header records (R459). -/
def lcCompare (s : State) : State :=
  if s.fuses.lc = s.nv.lcVault then s
  else rekey s.fuses.lc { s with nv := { s.nv with lcVault := s.fuses.lc } }

/-- A missing key-encryption key is a tamper with source VBAT_LOSS (R462, R470). MANUFACTURE logs it and makes new keys. -/
def kekCheck (s : State) : State :=
  if s.vbat.kek || s.fuses.tlock || decide (4 ≤ s.fuses.lc) then s
  else
    let s := logTamper 0x20 0 { s with sec := { s.sec with present := 0x20 } }
    if s.fuses.lc = 1 then newKeys s else tamperLock 0 s

/-- A firmware copy qualifies (R455, R469). -/
def fwGood (s : State) (c : FwCopy) : Bool := c.marked && c.verifies && decide (s.fuses.svn ≤ c.svn)

/-- The copy that boots: of the copies that qualify, the one with the higher version. -/
def chooseFw (s : State) : Option Nat :=
  let a := fwGood s s.nv.fw0
  let b := fwGood s s.nv.fw1
  if a && b then some (if s.nv.fw0.version < s.nv.fw1.version then 1 else 0)
  else if a then some 0 else if b then some 1 else none

/-- The measurement chain of components in load order (R456). -/
def measure (comps : List (Nat × Nat × List Byte)) : List Byte :=
  comps.foldl (fun mc c => sha3_256 (mc ++ leBytes 1 c.1 ++ padTo 32 c.2.2)) (zeros 32)

/-- METRO_MEAS. -/
def metroOf (comps : List (Nat × Nat × List Byte)) : List Byte :=
  match comps.find? (fun c => c.1 == 3) with
  | some c => padTo 32 c.2.2
  | none => zeros 32

/-- Copy `k` is measured and runs. -/
def runFw (k : Nat) (s : State) : State :=
  let c := if k = 0 then s.nv.fw0 else s.nv.fw1
  { s with sec := { s.sec with fwRun := k, fwVer := c.version, mc := measure c.comps, metro := metroOf c.comps } }

/-! ## The vault (R461, R469, R471) -/

/-- A store opens under the present MC and root. -/
def opens (s : State) (v : VStore) : Bool := s.sec.rootIn && v.written && v.mc == s.sec.mc && v.root == s.nv.root

/-- New firmware has opened store `k`: the security version rises, and the store no longer in use is erased. -/
def adoptFw (k : Nat) (s : State) : State :=
  let c := runningFw s
  let s := { s with fuses := { s.fuses with svn := max s.fuses.svn c.svn } }
  if k = 0 then { s with nv := { s.nv with store1 := {} } } else { s with nv := { s.nv with store0 := {} } }

/-- The root is unwrapped, and the store sealed under the present MC is opened. A tamper found in this start stops it before. -/
def unsealVault (s : State) : State :=
  if s.fuses.tlock && s.sec.toReport.any (fun t => t.2 == 0) then s
  else
    let s := { s with sec := { s.sec with rootIn := s.vbat.kek && s.nv.root != 0 && !s.fuses.tlock && decide (s.fuses.lc < 4) } }
    let found := if opens s s.nv.store0 then some 0 else if opens s s.nv.store1 then some 1 else none
    match found with
    | some k =>
      let s := { s with sec := { s.sec with unsealed := true, store := k } }
      if s.sec.fwRun ≠ s.nv.fwLast then adoptFw k s else s
    | none => raise 0x1105 .all (leBytes 1 1) (count (SEC + 0x310) (secFlag 4 { s with sec := { s.sec with unsealFail := true } }))

/-! ## Tables in force -/

/-- Everything that a vintage defines starts, as after power-up (R482 step 6, R485). -/
def startTables (s : State) : State :=
  let im := s.cfg.active
  let s := (imValid im secMTR_POINT).foldl (fun s p => mtrLoad p s) s
  let s := (List.range 64).foldl (fun s g => if groupEn im g then grpWait g 0 s else s) s
  let s := (imValid im secSTREAM_DIR).foldl (fun s n => strmStart {} {} n s) s
  let s := (imValid im secSV_SUB).foldl (fun s n => subStart n s) s
  let s := (imValid im secSCH_TASK).foldl (fun s t => taskReset t s) s
  let s := (imValid im secOUT_STREAM).foldl (fun s n => osStart n s) s
  pairStart s

/-- The values that the cellar keeps are restored when they belong to this image (R392). -/
def restorePars (s : State) : State :=
  if s.nv.parCheck == s.cfg.active.check && !s.nv.parCheck.isEmpty then
    cfgFlag 4 { s with cfg := { s.cfg with pars := s.nv.pars } }
  else s

/-- Factory defaults take the place of the boot slot, for `reason` (R384). -/
def toDefaults (reason : Nat) (s : State) : State :=
  raise 0x0E06 .all (leBytes 1 reason) { s with cfg := { s.cfg with active := factoryImage, src := 0, defaultsUsed := true } }

/-- The boot slot is loaded and checked (R383, R384). -/
def loadBoot (s : State) : State :=
  let k := s.cfg.boot
  let raw := (slotN s k).raw
  let r := loadCheck s raw false
  let s := loadDone (4 + k) r (slotBad (k + 1) r.reason (count (CFG + 0x300) s))
  if r.reason = 0 then
    restorePars { s with cfg := { s.cfg with active := parseImage raw, activeRaw := raw, src := k + 1 } }
  else toDefaults r.reason s

/-- The third FATAL reset within 600 s of the first of the three has just taken place (R500). -/
def fatalLimit (s : State) : Bool :=
  fld s.vbat.rstCause 31 24 == 4 && (match s.nv.fatalAt with
    | [c, _, a] => decide (c ≤ a + 600)
    | _ => false)

/-- Factory defaults under the fatal limit: the boot slot is not read, and CFG_LOAD shows reason 14. -/
def limitDefaults (s : State) : State :=
  let s := { s with cfg := { s.cfg with
    load := BitVec.ofNat 32 ((4 + s.cfg.boot) * 2 ^ 28 + 14 * 65536 + 0xFF00), loadDetail := 0#32 } }
  toDefaults 14 (raise 0x1203 .all [] (pwrFlag 2 s))

/-! ## The sequence (R482) -/

/-- The boot ROM up to the choice of firmware. -/
def bootRom (s : State) : State :=
  let s := { s with
    sec := { s.sec with toReport := s.nv.tampers ++ s.sec.toReport, lcNote := s.nv.lcMoved }
    nv := { s.nv with tampers := [], lcMoved := none } }
  let s := kekCheck (lcCompare s)
  let s := if s.sec.toReport.isEmpty then s else secFlag 0 s
  if s.sec.lcNote.isSome then secFlag 1 s else s

/-- Time as far as the module knows it before the first acquisition: that of the RTC (R56, R494). -/
def startClock (rtc : Nat) (s : State) : State :=
  let rtc := max rtc s.vbat.rtc
  if s.vbat.rtcValid then { s with vbat := { s.vbat with rtc := rtc }, tb := { s.tb with now := rtc, edge := rtc, rest := 0 } } else s

/-- Steps 3 to 6 of the power-up sequence, under firmware copy `k`. -/
def bringUp (k ms : Nat) (s : State) : State :=
  let s := unsealVault (runFw k s)
  let s := { s with nv := { s.nv with fwLast := k } }
  let s := if fatalLimit s then limitDefaults s else loadBoot s
  let s := modPwr (fun p => { p with state := .run, startMs := ms }) s
  let s := meterIdentity (startTables s)
  if s.nv.dump.isSome then pwrFlag 1 s else s

/-- The power-up sequence, once step 1 may end (R484). EXT10M_IN is the reference when it is present at the
start: the spec does not say what makes it so. DESIGN CHOICE (assumption 43). -/
def powerUp (p : PowerIn) (s : State) : State :=
  let s := modPwr (fun q => { q with vin := p.mv }) s
  if !s.pwr.resetN || !s.pwr.pfailN || !vinHigh s p.mv then modPwr (fun q => { q with waits := true }) s
  else
    let s := modPwr (fun q => { q with waits := false }) { s with tb := { s.tb with ref := b2n p.ext10 } }
    let s := bootRom (startClock p.rtc s)
    match chooseFw s with
    | none => modPwr (fun q => { q with noFw := true }) s
    | some k => bringUp k p.ms s

/-- VIN rises through 4.3 V: a reset with cause POWER_ON, which also wakes a module that was asleep when VIN fell (R493). -/
def powerOn (s : State) : State :=
  let woke := s.pwr.wake.isSome
  let s := startReset 1 0 s
  if woke then count (PWR + 0x314) s else s

/-- POWER_UP (R482). From OFF and BATTERY STANDBY it begins with VIN rising through UVLO; after another reset the sequence goes on from
STARTING. -/
def execPowerUp (p : PowerIn) (s : State) : Out :=
  if p.mv < 4300 then .next s
  else match s.pwr.state with
    | .off => .next (powerUp p (powerOn s))
    | .batteryStandby => .next (powerUp p (powerOn s))
    | .starting => .next (if s.pwr.noFw then s else powerUp p s)
    | _ => .next s

end Sys2Proof.Machine
end

