-- ==== Sys2Proof/Machine/Windows.lean ====
section
/-!
DEFINITION. Sys2Proof/Machine/Windows.lean: what the index registers show (R120): the entry of each window, and who may read it.
-/
namespace Sys2Proof.Machine

/-! ## Entries -/

/-- The first `k` words of record `n` of section `t`. -/
def recWords (im : Image) (t n k : Nat) : List Word := (List.range k).map (imWord im t n)

/-- Bits `hi:lo` of word `w` of an entry, replaced. -/
def putF (w hi lo v : Nat) (ws : List Word) : List Word := ws.modify w (fun x => setFld x hi lo v)

/-- Word `w` of an entry, replaced. -/
def putW (w v : Nat) (ws : List Word) : List Word := ws.set w (BitVec.ofNat 32 v)

/-- Apply the run fields when the entry is in use. -/
def whenUsed (used : Bool) (f : List Word → List Word) (ws : List Word) : List Word := if used then f ws else ws

/-- Counters `0` to `k − 1` of a window whose data begin at `off`. -/
def ctrWords (s : State) (off i k : Nat) : List Word := (List.range k).map (fun j => counter s (off + 4 * j) i)

/-- A window after an index write: its first data register, its words, and whether the function may read them. -/
structure WinRes where
  base : Nat
  words : List Word
  allowed : Bool := true
  deriving DecidableEq, Repr

/-- An entry tied to groups; one that is not in use is tied to none. -/
def tied (s : State) (n : Nat) (used : Bool) (gs : List Nat) : Bool := !used || readGroups s n gs

/-! ## Blocks -/

/-- ING windows (R120, R121). -/
def winIng (s : State) (n o i : Nat) : WinRes :=
  let im := s.cfg.active
  if o = 0x20 then
    let r := strmOf s i
    { base := ING + 0x100, allowed := tied s n (dirValid im i) [dirGroup im i]
      words := whenUsed (dirValid im i) (fun ws =>
        putW 18 (match fget? s.nv.lat i with
          | some l => uint 32 l
          | none => 0xFFFFFFFF) (putW 19 (fgetD s.nv.claimHi i 0#32).toNat
          (putF 20 31 29 r.st (putF 20 15 0 r.cfgCnt (putW 21 r.lastSeq ws))))) (recWords im secSTREAM_DIR i 24) }
  else if o = 0x24 then
    { base := ING + 0x180, words := recWords im secCHANNEL i 4, allowed := tied s n (chanKind im i != 0) [chanGroup im i] }
  else
    { base := ING + 0x200, words := ctrWords s (ING + 0x200) i 16, allowed := tied s n (dirValid im i) [dirGroup im i] }

/-- ALN windows (R168). -/
def winAln (s : State) (n o i : Nat) : WinRes :=
  let im := s.cfg.active
  if o = 0x10 then
    let g := grpOf s i
    { base := ALN + 0x100, allowed := tied s n (groupEn im i) [i]
      words := [imWord im secGROUP i 0, imWord im secGROUP i 1,
          BitVec.ofNat 32 (min 65535 (openInsts s i).length * 2 ^ 16 + g.st * 2 ^ 14), BitVec.ofNat 32 g.lastSeq,
          fgetD (fnOf s n).rc ((ALN + 0x110) * 65536 + i) 0#32, 0#32, 0#32, 0#32] ++ ctrWords s (ALN + 0x120) i 8 }
  else
    let v := voteOf s i
    { base := ALN + 0x180, allowed := tied s n (imBit im secVOTE i 0 31) [voteGroup im i]
      words := [imWord im secVOTE i 0, BitVec.ofNat 32 (v.lastCount * 2 ^ 20), BitVec.ofNat 32 v.lastSeq, counter s (ALN + 0x18C) i] }

/-- SVF windows (R194): every partition may read them. -/
def winSvf (s : State) (o i : Nat) : WinRes :=
  let im := s.cfg.active
  if o = 0x20 then
    let r := subOf s i
    { base := SVF + 0x100, words := whenUsed (subValid im i) (putW 21 (b2n r.synced * 2 ^ 31 + r.lastSmp)) (recWords im secSV_SUB i 23) }
  else if o = 0x24 then
    let g := warmStages s i
    { base := SVF + 0x180
      words := whenUsed (slotValid im i) (putW 3 (b2n (g != 0) * 2 ^ 31 + g * 2 ^ 25 + b2n (svSlotOf s i).frozen * 2 ^ 24))
        (recWords im secSV_SLOT i 4) }
  else if o = 0x28 then
    { base := SVF + 0x1C0, words := whenUsed (bayValid im i) (putF 0 23 23 (b2n (bayLatOk im i))) (recWords im secBAY i 16) }
  else { base := SVF + 0x200, words := ctrWords s (SVF + 0x200) i 8 }

/-- OSC windows (R219). -/
def winOsc (s : State) (n o i : Nat) : WinRes :=
  let im := s.cfg.active
  let seqAt := fun (k : Nat) (x : Option Nat) => match x with
    | some t => seqOf s (sigRate im k) t
    | none => 0
  if o = 0x20 then
    let g := sigOf s i
    let warming := match g.lastInst.bind (fget? g.res) with
      | some r => r.warming
      | none => true
    let used := imBit im secOSC_SIGNAL i 0 31
    { base := OSC + 0x100, allowed := tied s n used [sigGroup im i]
      words := whenUsed used (fun ws => putF 6 31 31 (b2n warming) (putF 6 30 30 (b2n g.degraded)
        (putF 6 12 0 (g.fills.filter id).length (putW 7 (seqAt i g.lastInst) ws)))) (recWords im secOSC_SIGNAL i 8) }
  else if o = 0x24 then { base := OSC + 0x140, words := recWords im secOSC_LAYOUT i 32 }
  else if o = 0x28 then
    let m := modeOf s i
    let used := imBit im secOSC_MODE i 0 31
    { base := OSC + 0x1C0, allowed := tied s n used (famGroups im (modeRef im i))
      words := whenUsed used (fun ws => putW 6 (b2n m.present * 2 ^ 31 + m.bin.getD 0xFF) (putW 7 (seqAt (modeRef im i) m.lastInst)
        (putW 8 m.freq.toNat (putW 9 m.damp.toNat (putW 10 m.amp.toNat ws))))) (recWords im secOSC_MODE i 12) }
  else if o = 0x2C then
    let a := almOf s i
    let used := imBit im secOSC_ALARM i 0 31
    { base := OSC + 0x200, allowed := tied s n used (almGroups im i)
      words := whenUsed used (fun ws => putW 6 (b2n a.active * 2 ^ 31 + a.count) (putW 7 a.lastChg ws)) (recWords im secOSC_ALARM i 8) }
  else if o = 0x30 then
    let k := i / 128
    let g := sigOf s k
    let used := imBit im secOSC_SIGNAL k 0 31
    { base := OSC + 0x240, allowed := tied s n used [sigGroup im k]
      words := match g.lastInst with
        | some t => match fget? g.res t with
          | some r => wordsLE 4 (binResult s k (i % 128) t r) ++ [BitVec.ofNat 32 (seqAt k (some t))]
          | none => List.replicate 5 0#32
        | none => List.replicate 5 0#32 }
  else { base := OSC + 0x260, words := recWords im secOSC_MEMB i 1 }

/-- Byte `k` of a map block: the island of a signal. -/
def mapByte (s : State) (k : Nat) : Byte :=
  if imBit s.cfg.active secISL_SIGNAL k 0 31 then BitVec.ofNat 8 (fgetD s.isl.sigs k {}).island else 0#8

/-- ISL windows (R243). -/
def winIsl (s : State) (n o i : Nat) : WinRes :=
  let im := s.cfg.active
  if o = 0x20 then
    let g := fgetD s.isl.sigs i {}
    let used := imBit im secISL_SIGNAL i 0 31
    { base := ISL + 0x100, allowed := tied s n used [chanGroup im (imFld im secISL_SIGNAL i 0 15 0)]
      words := whenUsed used (fun ws => putW 2 (b2n g.fPres * 2 ^ 31 + b2n g.aPres * 2 ^ 30 + g.island) (putW 3 g.lastSeq ws))
        (recWords im secISL_SIGNAL i 4) }
  else if o = 0x24 then
    let g := grpIsl s i
    let used := imBit im secISL_CGRP i 0 31
    { base := ISL + 0x140, allowed := tied s n used (islGroups im (imFld im secISL_CGRP i 0 30 29))
      words := whenUsed used (fun ws => putW 3 g.gfreq.toNat (putW 4 g.gang.toNat
        (putW 5 (b2n g.freq.isSome * 2 ^ 31 + b2n g.ang.isSome * 2 ^ 30 + g.cand * 2 ^ 28 + g.npres * 2 ^ 16 + g.island) ws)))
        (recWords im secISL_CGRP i 8) }
  else if o = 0x28 then
    let p := pairOf' s i
    let used := imBit im secISL_PAIR i 0 31
    { base := ISL + 0x180, allowed := tied s n used (islGroups im (icnOfPair im i))
      words := whenUsed used (fun ws =>
        putW 3 (b2n p.diverge * 2 ^ 31 + b2n p.slip * 2 ^ 30 + b2n p.islanded * 2 ^ 29 + b2n (decide (p.ns < 2)) * 2 ^ 28 +
            b2n p.allOpen * 2 ^ 27 + b2n p.indet * 2 ^ 26 + min 255 p.scount * 2 ^ 16 + min 255 p.count * 2 ^ 8 + min 255 p.ccount)
          (putW 4 p.delta.toNat (putW 5 p.dfreq.toNat (putW 6 p.slips.toNat (putW 7 p.lastSeq (putW 8 p.lastIsl ws))))))
        (recWords im secISL_PAIR i 12) }
  else if o = 0x2C then
    let t := fgetD s.isl.ties i {}
    let used := imBit im secISL_TIE i 0 31
    { base := ISL + 0x1C0, allowed := tied s n used (islGroups im (icnOfTie im i))
      words := whenUsed used (putW 3 (b2n t.closed * 2 ^ 31 + b2n t.unknown * 2 ^ 30)) (recWords im secISL_TIE i 4) }
  else if o = 0x30 then
    let c := cmpOf s i
    let used := imBit im secISL_CMP i 0 31
    { base := ISL + 0x200, allowed := tied s n used [cmpGroup im i]
      words := whenUsed used (fun ws =>
        putW 6 (b2n c.out * 2 ^ 31 + b2n (cmpWarming s i) * 2 ^ 30 + c.p.rstate * 2 ^ 28 + min 65535 c.p.run)
          (putW 7 c.lastChg ws)) (recWords im secISL_CMP i 8) }
  else
    let ks := (upFrom (32 * i) 32).filter (fun k => imBit im secISL_SIGNAL k 0 31)
    { base := ISL + 0x240, allowed := tied s n true ((ks.map (icnOfSig im)).eraseDups.flatMap (islGroups im))
      words := wordsLE 8 ((upFrom (32 * i) 32).map (mapByte s)) }

/-- The element of timer number `i`. -/
def timerElem (im : Image) (i : Nat) : Option Nat :=
  (List.range (imCount im secSCH_ELEM)).find? (fun e => decide (0x20 ≤ elemF im e 0 31 26 ∧ elemF im e 0 31 26 ≤ 0x22) && elemF im e 0 15 0 == i)

/-- The groups of an object of task `t`; none for an object that belongs to no task. -/
def taskGroups (im : Image) (t : Option Nat) : List Nat := match t with
  | some t => [taskGroup im t]
  | none => []

/-- SCH windows (R269). -/
def winSch (s : State) (n o i : Nat) : WinRes :=
  let im := s.cfg.active
  let lo := fun (t : Nat) => t % 2 ^ 32
  if o = 0x40 then
    let t := taskOf s i
    let used := imBit im secSCH_TASK i 0 31
    { base := SCH + 0x100, allowed := tied s n used [taskGroup im i]
      words := whenUsed used (fun ws => putW 3 t.lastSeq (putW 4 (min 65535 t.runMax * 2 ^ 16 + min 1023 t.queue.length * 2 ^ 6 + b2n t.firstDone)
        (putW 5 (lo t.lastT) (putW 6 (t.lastT / 2 ^ 32) ws)))) (recWords im secSCH_TASK i 8) }
  else if o = 0x44 then
    let k := stnOf s i
    let used := stnValid im i
    { base := SCH + 0x140, allowed := tied s n used [taskGroup im (stnF im i 0 30 27)]
      words := whenUsed used (fun ws => putW 3 (k.st * 2 ^ 30 + b2n k.errPend * 2 ^ 29 + k.cause * 2 ^ 26)
        (putW 4 (lo k.loss) (putW 5 (k.loss / 2 ^ 32) ws))) (recWords im secSCH_STATION i 8) }
  else if o = 0x48 then
    let d := dsOf s i
    let used := dsValid im i
    { base := SCH + 0x180, allowed := tied s n used [taskGroup im (stnF im (dsF im i 0 23 16) 0 30 27)]
      words := whenUsed used (fun ws => putW 26 d.lastSt.toNat (putW 27 d.lastSq.toNat ws)) (recWords im secSCH_DATASET i 28) }
  else if o = 0x4C then
    { base := SCH + 0x200, allowed := tied s n true (taskGroups im (parTask im i))
      words := whenUsed (decide (i < imCount im secSCH_PARAM))
        (fun ws => match fget? s.cfg.pars i with
          | some v => putW 3 v.toNat ws
          | none => ws) (recWords im secSCH_PARAM i 4) }
  else if o = 0x50 then
    match timerElem im i with
    | none => { base := SCH + 0x240, words := List.replicate 4 0#32 }
    | some e =>
      let m := fgetD s.sch.tmrs i {}
      { base := SCH + 0x240, allowed := tied s n true (taskGroups im (taskOfElem im e))
        words := [BitVec.ofNat 32 (b2n m.run * 2 ^ 31 + b2n m.q * 2 ^ 30 + (elemF im e 0 31 26 - 0x20) * 2 ^ 28 + e),
          parVal im s.cfg.pars 1 e (imWord im secSCH_ELEM e 2), BitVec.ofNat 32 m.et, BitVec.ofNat 32 m.t0] }
  else
    { base := SCH + 0x280, words := ctrWords s (SCH + 0x280) i 8, allowed := tied s n (imBit im secSCH_TASK i 0 31) [taskGroup im i] }

/-- A window of recorder `r` is readable (R289). -/
def recReadable (s : State) (n r : Nat) : Bool := imgLoad s n || Nat.testBit (recMask s.cfg.active r) n

/-- CAP windows (R289). -/
def winCap (s : State) (n o i : Nat) : WinRes :=
  let im := s.cfg.active
  if o = 0x40 then
    let r := capRecOf s i
    { base := CAP + 0x100, allowed := recReadable s n i
      words := whenUsed (recValid im i) (fun ws => putW 5 (r.st * 2 ^ 30 + min (r.ring.length - 1) (recPre im i)) (putW 6 r.lastTake ws))
        (recWords im secCAP_REC i 8) }
  else if o = 0x44 then
    let c := i % 32
    let r := i / 32
    let p := fgetD (capRecOf s r).conds c {}
    let used := imBit im secCAP_COND i 0 31
    { base := CAP + 0x140, allowed := recReadable s n r
      words := whenUsed used (putW 6 (b2n p.out * 2 ^ 31 + b2n (!condEvent im r c && decide (p.n < (condCfg im r c).need)) * 2 ^ 30 +
        p.rstate * 2 ^ 28 + min 65535 p.run)) (recWords im secCAP_COND i 8) }
  else if o = 0x48 then
    match takeOf s i with
    | some t => { base := CAP + 0x180, words := wordsLE 32 (if t.closed then t.raw else takeHeader s t), allowed := recReadable s n t.rcd }
    | none => { base := CAP + 0x180, words := List.replicate 32 0#32 }
  else if o = 0x4C then
    match fget? s.cap.slates i with
    | some x => { base := CAP + 0x200, words := wordsLE 8 x.raw, allowed := recReadable s n x.rcd }
    | none => { base := CAP + 0x200, words := List.replicate 8 0#32 }
  else { base := CAP + 0x240, words := ctrWords s (CAP + 0x240) i 6, allowed := recReadable s n i }

/-- MTR windows (R319): every partition may read them. The register window follows the latch (R302). -/
def winMtr (s : State) (o i : Nat) : WinRes :=
  let im := s.cfg.active
  let w := BitVec.ofNat 32
  if o = 0x60 then { base := MTR + 0x100, words := recWords im secMTR_POINT i 8 }
  else if o = 0x64 then { base := MTR + 0x140, words := [] }
  else if o = 0x68 then
    let q := mtrOf s i
    let code := if q.swell.isSome then 2 else if q.intr.isSome then 3 else if q.dip.isSome then 1 else 0
    let chs := (List.range 3).map (fun k => match fget? q.chs k with
      | some c => c.val.getD (w (nanBits fmt32))
      | none => w (nanBits fmt32))
    let ev := if q.swell.isSome then q.swell else if q.intr.isSome then q.intr else q.dip
    let used := pqOn im i
    { base := MTR + 0x180
      words := if used then [w (code * 2 ^ 30)] ++ chs ++ (match ev with
          | some e => [e.ext, w (e.start / 1000000000), w (e.start / 1000000000 / 2 ^ 32), w (e.start % 1000000000)]
          | none => List.replicate 4 0#32)
        else List.replicate 8 0#32 }
  else
    let p := poOf s i
    { base := MTR + 0x1C0
      words := whenUsed (imBit im secMTR_PULSE i 0 31) (fun ws => putW 2 (min 0xFFFFFFFF p.backlog) (putW 3 p.emitted ws))
        (recWords im secMTR_PULSE i 4) }

/-- PUB windows (R340). -/
def winPub (s : State) (o i : Nat) : WinRes :=
  let im := s.cfg.active
  if o = 0x20 then
    let k := osOf s i
    let on := osKind im i != 1 && !osTcp im i && k.on
    { base := PUB + 0x100
      words := whenUsed (osValid im i) (putW 11 (k.cfgCnt % 65536 * 2 ^ 16 + b2n on * 2 ^ 15 + k.clients.length * 2 ^ 12 + b2n k.cfgPend * 2 ^ 11))
        (recWords im secOUT_STREAM i 12) }
  else if o = 0x24 then
    let g := gpOf s i
    { base := PUB + 0x140
      words := whenUsed (imBit im secGOOSE i 0 31) (fun ws => putW 10 g.stnum.toNat (putW 11 g.sqnum.toNat ws)) (recWords im secGOOSE i 12) }
  else
    let d := doOf s i
    { base := PUB + 0x180
      words := whenUsed (imBit im secDO i 0 31) (fun ws => putW 2 (d.st * 2 ^ 30 + b2n d.level * 2 ^ 29) (putW 3 d.lastChg ws))
        (recWords im secDO i 4) }

/-- TSK_FLOW window (Table 13-1) and ARB_RES window (Table 13-11). -/
def winTsk (s : State) (o i : Nat) : WinRes :=
  let w := BitVec.ofNat 32
  if o = 0x20 then
    let its := s.tsk.items.filter (fun t => t.flow == i)
    let wait := (its.filter (fun t => t.st == 1)).length + (s.tsk.stalled.filter (fun w => w.flow == i && w.held)).length
    let rel := match its with
      | [] => 0
      | t :: l => l.foldl (fun m x => min m x.adm) t.adm
    { base := TSK + 0x100
      words := if flowValid s i then [setFld (flowCtx s i) 29 27 (flowLevel s i), w (min 65535 wait * 2 ^ 16 + min 65535 (its.filter (fun t => t.st != 1)).length), w rel,
          (flowOf s i).misses]
        else List.replicate 4 0#32 }
  else
    let r := resOf s i
    { base := ARB + 0x100, words := [r.grants, r.miss, r.locks, w (min 65535 r.maxLate * 2 ^ 16 + r.ptr)] }

/-- The witness window of pair `i` (Table 16-10). -/
def winPair (s : State) (i : Nat) : WinRes :=
  let w := witOf s i
  let left := match fget? s.pair.expiry i with
    | some e => if w.holder ≠ 3 ∧ s.tb.now < e then ceilDiv ((e - s.tb.now) * tps s) 1000000000 else 0
    | none => 0
  let used := bit (imgReg s.cfg.active (PAIR + 0x200 + 8 * i)) 31
  { base := PAIR + 0x100
    words := if used then [imgReg s.cfg.active (PAIR + 0x204 + 8 * i), BitVec.ofNat 32 (w.holder * 2 ^ 30), w.claim, BitVec.ofNat 32 left]
      else List.replicate 4 0#32 }

/-- SEC windows (R479). -/
def winSec (s : State) (o i : Nat) : WinRes :=
  if o = 0x60 then { base := SEC + 0x100, words := slotWin s i } else { base := SEC + 0x140, words := tlogWin s i }

/-- The window behind the index register at `off`, with index `i`, as function `n` reads it. -/
def winRes (s : State) (n off i : Nat) : WinRes :=
  let b := blockBase off
  let o := off - b
  if b = ING then winIng s n o i else if b = ALN then winAln s n o i else if b = SVF then winSvf s o i
  else if b = OSC then winOsc s n o i else if b = ISL then winIsl s n o i else if b = SCH then winSch s n o i
  else if b = CAP then winCap s n o i else if b = MTR then winMtr s o i else if b = PUB then winPub s o i
  else if b = TSK then winTsk s o i else if b = PAIR then winPair s i else winSec s o i

/-! ## Index registers -/

/-- How many bits the index of an index register has. -/
def idxBits (off : Nat) : Nat :=
  let b := blockBase off
  let o := off - b
  if b = ING then (if o = 0x24 then 16 else 13)
  else if b = ALN then (if o = 0x10 then 6 else 12)
  else if b = SVF then (if o = 0x24 then 8 else 5)
  else if b = OSC then (if o = 0x20 ∨ o = 0x2C then 12 else if o = 0x24 ∨ o = 0x28 then 8 else if o = 0x30 then 19 else 14)
  else if b = ISL then (if o = 0x20 ∨ o = 0x2C then 12 else if o = 0x24 then 8 else if o = 0x28 then 10 else if o = 0x30 then 14 else 7)
  else if b = SCH then (if o = 0x40 ∨ o = 0x54 then 4 else if o = 0x44 then 8 else if o = 0x48 then 9 else if o = 0x4C then 14 else 10)
  else if b = CAP then (if o = 0x40 ∨ o = 0x50 then 5 else if o = 0x4C then 12 else 10)
  else if b = MTR then (if o = 0x64 then 8 else if o = 0x6C then 3 else 5)
  else if b = PUB then (if o = 0x28 then 4 else 8)
  else if b = TSK then (if o = 0x20 then 14 else 6)
  else if b = PAIR then 5
  else (if o = 0x60 then 9 else 4)

/-- The index that a write of `v` puts into the index register at `off` that holds `old`: a value that the register's table does
not list leaves its field as it was (R8). -/
def idxAfter (off old v : Nat) : Nat :=
  let i := v % 2 ^ idxBits off
  if off = OSC + 0x24 ∧ i = 255 then old
  else if off = MTR + 0x64 ∧ i % 8 = 7 then i / 8 * 8 + old % 8
  else if off = TSK + 0x8010 ∧ 46 < i then old
  else i

/-- How many data registers the window has, from `WinRes.base`; every one is part of the snapshot. -/
def putWin (n : Nat) (r : WinRes) (s : State) : State :=
  let ws := if r.allowed then r.words else r.words.map (fun _ => 0#32)
  modFn s n (fun f => { f with win := ((List.range ws.length).zip ws).foldl (fun m e => fset m (r.base + 4 * e.1) e.2) f.win })

/-- The index write proper: function `n` writes `v` to the index register at `off`. -/
def windowWrite (n off : Nat) (v : Word) (s : State) : State :=
  let old := (fnReg s n off).toNat % 2 ^ idxBits off
  let i := idxAfter off old v.toNat
  let r := winRes s n off i
  let s := putWin n r (setFnReg s n off (BitVec.ofNat 32 (b2n (!r.allowed) * 2 ^ 31 + i)))
  if off = ALN + 0x10 ∧ r.allowed then modFn s n (fun f => { f with rc := fdel f.rc ((ALN + 0x110) * 65536 + i) }) else s

/-- WINDOW_INDEX_WRITE (R120): the snapshot of one instant, for the function that writes. -/
def execWindowIndexWrite (n off : Nat) (v : Word) (s : State) : Out := act s fun s =>
  if 4 ≤ n ∨ !isWindow off then s
  else if !validFn s n then deniedInvalid n s
  else windowWrite n off v s

end Sys2Proof.Machine
end

