-- ==== Sys2Proof/Machine/Regs.lean ====
section
/-!
DEFINITION. Sys2Proof/Machine/Regs.lean: the register maps: what a read of each BAR0 offset returns.
-/
namespace Sys2Proof.Machine

/-- A word of a field list: (low bit, value), values already in range. -/
def pack (l : List (Nat × Nat)) : Word := BitVec.ofNat 32 (sumN (l.map (fun e => e.2 * 2 ^ e.1)))

/-- Word `k` of a little-endian byte string. -/
def wordAt (bs : List Byte) (k : Nat) : Word := BitVec.ofNat 32 (leAt bs (4 * k) 4)

def low32 (n : Nat) : Word := BitVec.ofNat 32 n
def high32 (n : Nat) : Word := BitVec.ofNat 32 (n / 2 ^ 32)

/-- The number of entries in use in section `t`. -/
def used (s : State) (t : Nat) : Nat := (imValid s.cfg.active t).length

/-- A data register of a window of function `n`. -/
def winReg (s : State) (n off : Nat) : Word := fgetD (fnOf s n).win off 0#32

/-- A module-wide counter that stands outside windows. -/
def ctrReg (s : State) (off : Nat) : Word := counter s off 0xFFFF

/-- The copy of an RC field that function `n` holds. -/
def rcReg (s : State) (n off : Nat) : Word := fgetD (fnOf s n).rc (off * 65536) 0#32

/-! ## GLB, TB, ETH -/

/-- GLB (Table 0-3, Table 17-10). -/
def readGlb (s : State) (o : Nat) : Word :=
  let p := s.part
  if o = 0 then pack [(24, 7), (16, p.grade), (8, p.stepLtr), (0, p.stepNum)]
  else if o = 4 then wordAt (padTo 8 p.lot) 0
  else if o = 8 then wordAt (padTo 6 p.lot ++ zeros 2) 1
  else if o = 0xC then pack [(24, p.wafer), (12, p.dieX), (0, p.dieY)]
  else if o = 0x10 then p.serial
  else if o = 0x14 then pack [(31, b2n s.fuses.tlock), (16, s.fuses.lcCtr), (0, s.fuses.lc)]
  else 0#32

/-- An integer held in 32 bits, saturating. -/
def satI32 (v : Int) : Word := BitVec.ofInt 32 (max (-2147483648) (min 2147483647 v))

/-- TB (Tables 2-7, 2-9, 2-10). -/
def readTb (s : State) (n o : Nat) : Word :=
  let t := s.tb
  let img := imgReg s.cfg.active (TB + o)
  if o = 4 then tbStat s n
  else if [0x8, 0xC, 0x4C, 0x68, 0x6C].contains o then img
  else if 0x10 ≤ o ∧ o < 0x2C then fnReg s n (TB + o)
  else if o = 0x2C then pack [(31, b2n (fromSrc s)), (30, b2n s.vbat.utcValid), (29, b2n t.applied), (0, uint 16 s.vbat.utcOfs)]
  else if o = 0x30 then tbLeap s
  else if o = 0x34 then low32 (match t.terr with
    | some e => min e 0xFFFFFFFF
    | none => 0xFFFFFFFF)
  else if o = 0x38 then t.tq
  else if o = 0x3C then BitVec.ofInt 32 t.rate
  else if o = 0x40 then satI32 t.offset
  else if o = 0x44 then low32 t.holdAge
  else if o = 0x48 then holdCoef s
  else if o = 0x50 then low32 t.gm
  else if o = 0x54 then high32 t.gm
  else if o = 0x58 then pack [(24, (ptpActive s).gmClass % 256), (16, min 255 (ptpActive s).steps), (8, t.rxp.portState % 256),
    (0, t.stby.portState % 256)]
  else if o = 0x5C then low32 t.rxp.meanLink
  else if o = 0x60 then
    let agree := match t.pps with
      | _ :: _ => irigDecoding s && t.irigAgree
      | [] => false
    pack [(31, b2n (ppsPresent s)), (30, b2n (irigDecoding s)), (29, b2n agree), (20, t.irigTq % 16)]
  else if o = 0x64 then pack [(16, min 65535 t.sdtElig), (0, fld img 7 0)]
  else if o = 0x70 ∨ o = 0x74 ∨ o = 0x78 ∨ o = 0x7C then ctrReg s (TB + o)
  else 0#32

/-- ETH (Tables 3-5 to 3-8). -/
def readEth (s : State) (n o : Nat) : Word :=
  let off := ETH + o
  if o < 0xE000 then
    let p := o / 0x1000
    let r := o % 0x1000
    if [0, 0xC, 0x10, 0x14, 0x18].contains r then imgReg s.cfg.active off
    else if r = 4 then ethStat s p
    else if r = 8 ∨ r = 0x1C then fnReg s n off
    else if r = 0x20 then setFld (rcReg s n off) 31 16 (bufKib p)
    else if 0x100 ≤ r ∧ r ≤ 0x150 ∧ r % 4 = 0 then ctrReg s off
    else 0#32
  else if o < 0xE180 then
    let p := (o - 0xE000) / 0x40
    let r := o % 0x40
    let im := s.cfg.active
    let on := pairOn im p
    if r = 0 then imgReg im off
    else if r = 4 then
      let ents := (s.eth.dup.filter (fun e => e.1 / 2 ^ 48 == p)).length
      pack [(31, b2n (on && (portOf s (pairA im p)).linkUp)), (30, b2n (on && (portOf s (pairB im p)).linkUp)), (0, ents)]
    else if r = 8 then low32 (fgetD s.eth.prpSeq p 0 % 65536)
    else if r = 0xC then fnReg s n off
    else if 0x10 ≤ r ∧ r ≤ 0x2C ∧ r % 4 = 0 then ctrReg s off
    else 0#32
  else 0#32

/-! ## ING to CAP -/

/-- ING (Tables 4-12, 4-13). -/
def readIng (s : State) (n o : Nat) : Word :=
  let off := ING + o
  if o = 0 then
    let ch := ((imRecs s.cfg.active secCHANNEL).filter (fun r => fld (r.getD 0 0#32) 31 29 != 0)).length
    pack [(16, used s secSTREAM_DIR), (0, ch % 65536)]
  else if o = 4 ∨ o = 0x14 ∨ o = 0x20 ∨ o = 0x24 ∨ o = 0x28 then fnReg s n off
  else if o = 8 ∨ o = 0xC ∨ o = 0x10 then imgReg s.cfg.active off
  else if (0x100 ≤ o ∧ o < 0x160) ∨ (0x180 ≤ o ∧ o < 0x190) ∨ (0x200 ≤ o ∧ o < 0x240) then winReg s n off
  else if 0x300 ≤ o ∧ o ≤ 0x318 then ctrReg s off
  else 0#32

/-- ALN (Tables 5-12, 5-13). -/
def readAln (s : State) (n o : Nat) : Word :=
  let off := ALN + o
  if o = 0 then pack [(16, used s secGROUP), (0, used s secVOTE)]
  else if o = 4 ∨ o = 8 ∨ o = 0x10 ∨ o = 0x14 then fnReg s n off
  else if (0x100 ≤ o ∧ o < 0x140) ∨ (0x180 ≤ o ∧ o < 0x190) then winReg s n off
  else if 0x300 ≤ o ∧ o ≤ 0x318 then ctrReg s off
  else 0#32

/-- SVF (Tables 6-10, 6-11). -/
def readSvf (s : State) (n o : Nat) : Word :=
  let off := SVF + o
  if o = 0 then pack [(16, used s secSV_SLOT), (8, used s secBAY), (0, used s secSV_SUB)]
  else if o = 4 ∨ o = 8 ∨ o = 0x20 ∨ o = 0x24 ∨ o = 0x28 ∨ o = 0x2C then fnReg s n off
  else if o = 0xC then imgReg s.cfg.active off
  else if o = 0x10 then 0x4000#32
  else if (0x100 ≤ o ∧ o < 0x15C) ∨ (0x180 ≤ o ∧ o < 0x190) ∨ (0x1C0 ≤ o ∧ o < 0x220) then winReg s n off
  else if 0x300 ≤ o ∧ o ≤ 0x30C then ctrReg s off
  else 0#32

/-- OSC (Tables 7-12, 7-13). -/
def readOsc (s : State) (n o : Nat) : Word :=
  let off := OSC + o
  if o = 0 then pack [(16, used s secOSC_SIGNAL), (0, used s secOSC_MODE)]
  else if o = 4 then
    let l := imValid s.cfg.active secOSC_ALARM
    pack [(16, (l.filter (fun a => (almOf s a).active)).length), (0, l.length)]
  else if o = 8 ∨ o = 0xC ∨ (0x20 ≤ o ∧ o ≤ 0x34) then fnReg s n off
  else if (0x100 ≤ o ∧ o < 0x120) ∨ (0x140 ≤ o ∧ o < 0x1F0) ∨ (0x200 ≤ o ∧ o < 0x220) ∨ (0x240 ≤ o ∧ o < 0x254) ∨ o = 0x260 then winReg s n off
  else if 0x300 ≤ o ∧ o ≤ 0x318 then ctrReg s off
  else 0#32

/-- ISL (Tables 8-13, 8-14). -/
def readIsl (s : State) (n o : Nat) : Word :=
  let off := ISL + o
  if o = 0 then pack [(16, used s secISL_SIGNAL), (0, used s secISL_PAIR)]
  else if o = 4 then pack [(16, used s secISL_CMP), (0, used s secISL_TIE)]
  else if o = 8 ∨ o = 0xC ∨ (0x20 ≤ o ∧ o ≤ 0x34) then fnReg s n off
  else if 0x10 ≤ o ∧ o < 0x20 then
    let i := (o - 0x10) / 4
    let ps := icnPairs s.cfg.active i
    pack [(23, if (icnOf s i).on then (icnOf s i).nisl else 0), (12, (ps.filter (fun p => (pairOf' s p).islanded)).length),
      (1, (ps.filter (fun p => (pairOf' s p).slip)).length)]
  else if 0x40 ≤ o ∧ o < 0x50 then imgReg s.cfg.active off
  else if (0x100 ≤ o ∧ o < 0x110) ∨ (0x140 ≤ o ∧ o < 0x160) ∨ (0x180 ≤ o ∧ o < 0x1B0) ∨ (0x1C0 ≤ o ∧ o < 0x1D0) ∨ (0x200 ≤ o ∧ o < 0x220) ∨
      (0x240 ≤ o ∧ o < 0x260) then winReg s n off
  else if 0x300 ≤ o ∧ o ≤ 0x328 then ctrReg s off
  else 0#32

/-- SCH (Tables 9-10, 9-11). Elements in use are the records of SCH_ELEM. -/
def readSch (s : State) (n o : Nat) : Word :=
  let off := SCH + o
  let lost := fun (k : Nat) => stnValid s.cfg.active k && (stnOf s k).st == 2
  if o = 0 then pack [(24, used s secSCH_TASK), (10, used s secSCH_STATION), (0, used s secSCH_DATASET)]
  else if o = 4 then
    pack [(16, ((imValid s.cfg.active secSCH_STATION).filter lost).length), (0, imCount s.cfg.active secSCH_ELEM)]
  else if o = 8 ∨ o = 0xC ∨ (0x40 ≤ o ∧ o ≤ 0x54) then fnReg s n off
  else if 0x10 ≤ o ∧ o < 0x30 then low32 (bitmapLE ((upFrom ((o - 0x10) / 4 * 32) 32).map lost))
  else if (0x100 ≤ o ∧ o < 0x120) ∨ (0x140 ≤ o ∧ o < 0x160) ∨ (0x180 ≤ o ∧ o < 0x1F0) ∨ (0x200 ≤ o ∧ o < 0x210) ∨ (0x240 ≤ o ∧ o < 0x250) ∨
      (0x280 ≤ o ∧ o < 0x2A0) then winReg s n off
  else if 0x300 ≤ o ∧ o ≤ 0x324 then ctrReg s off
  else 0#32

/-- CAP (Tables 10-13, 10-14). FREE_BLK shows its reset value until the module runs. -/
def readCap (s : State) (n o : Nat) : Word :=
  let off := CAP + o
  if o = 0 then
    pack [(21, s.cap.takes.length), (8, if s.pwr.state == .starting then 0 else 4096 - min 4096 (blocksUsed s)), (0, used s secCAP_REC)]
  else if o = 4 ∨ o = 8 ∨ (0x40 ≤ o ∧ o ≤ 0x50) then fnReg s n off
  else if 0xC ≤ o ∧ o < 0x1C then imgReg s.cfg.active off
  else if o = 0x1C then low32 s.cap.armId
  else if o = 0x20 then
    pack [(31, b2n s.cap.armed), (0, if s.cap.armed then min 65535 ((s.cap.armEnd - s.tb.tick) / 1024) else 0)]
  else if (0x100 ≤ o ∧ o < 0x120) ∨ (0x140 ≤ o ∧ o < 0x160) ∨ (0x180 ≤ o ∧ o < 0x220) ∨ (0x240 ≤ o ∧ o < 0x258) then winReg s n off
  else if 0x300 ≤ o ∧ o ≤ 0x318 then ctrReg s off
  else 0#32

/-! ## MTR to PWR -/

/-- MTR (Tables 11-10, 11-11). The register window shows the latch of the function (R302). MTR_LOG_TAIL reads its reset value while the log is
empty. DEDUCED (assumption 219). -/
def readMtr (s : State) (n o : Nat) : Word :=
  let off := MTR + o
  let head := s.nv.billSeq
  let tail := match s.nv.log with
    | e :: _ => e.1
    | [] => 0
  if o = 0 then pack [(26, used s secMTR_POINT), (13, s.nv.log.length)]
  else if o = 4 ∨ o = 8 ∨ (0x10 ≤ o ∧ o < 0x1C) ∨ (0x60 ≤ o ∧ o ≤ 0x6C) then fnReg s n off
  else if o = 0x20 then low32 head
  else if o = 0x24 then high32 head
  else if o = 0x28 then low32 tail
  else if o = 0x2C then high32 tail
  else if o = 0x30 then low32 s.mtr.rel
  else if o = 0x34 then high32 s.mtr.rel
  else if 0x40 ≤ o ∧ o < 0x60 then wordAt (meterId s) ((o - 0x40) / 4)
  else if (0x100 ≤ o ∧ o < 0x120) ∨ (0x180 ≤ o ∧ o < 0x1A0) ∨ (0x1C0 ≤ o ∧ o < 0x1D0) then winReg s n off
  else if 0x140 ≤ o ∧ o < 0x150 then
    let g := fgetD (fnOf s n).mtrLatch (fld (fnReg s n (MTR + 0x64)) 7 0) {}
    BitVec.ofNat 32 ([g.tot, g.tot / 2 ^ 32, g.res, g.wrap % 65536].getD ((o - 0x140) / 4) 0)
  else if 0x300 ≤ o ∧ o ≤ 0x320 then ctrReg s off
  else if 0x1000 ≤ o ∧ o < 0x1400 then (if o % 0x20 / 4 = 7 then 0#32 else shortReg s n ((o - 0x1000) / 0x20) (o % 0x20 / 4))
  else 0#32

/-- PUB (Tables 12-11, 12-12). -/
def readPub (s : State) (n o : Nat) : Word :=
  let off := PUB + o
  if o = 0 then pack [(23, used s secOUT_STREAM), (14, used s secGOOSE)]
  else if o = 4 ∨ o = 8 ∨ (0x20 ≤ o ∧ o ≤ 0x28) then fnReg s n off
  else if o = 0xC then pubClaim s
  else if o = 0x10 then pack [(31, b2n (authority s)), (30, b2n s.cfg.active.paired)]
  else if o = 0x14 then low32 (sumN ((List.range 16).map (fun k => (doOf s k).st * 4 ^ k)))
  else if o = 0x18 then low32 (sumN ((List.range 16).map (fun k => b2n (doOf s k).level * 2 ^ k)))
  else if (0x100 ≤ o ∧ o < 0x130) ∨ (0x140 ≤ o ∧ o < 0x170) ∨ (0x180 ≤ o ∧ o < 0x190) then winReg s n off
  else if 0x300 ≤ o ∧ o ≤ 0x31C then ctrReg s off
  else 0#32

/-- TSK and ARB (Tables 13-8, 13-9). -/
def readTsk (s : State) (n o : Nat) : Word :=
  let off := TSK + o
  let waiting := fun (l : Nat) => (s.tsk.items.filter (fun i => i.st == 1 && i.level == l)).length
  if o = 0 then pack [(31, b2n s.tsk.atomic), (0, if s.tsk.atomic then s.tsk.cause else 0)]
  else if o = 4 ∨ o = 8 ∨ o = 0x20 ∨ o = 0x8004 ∨ o = 0x8008 ∨ o = 0x8010 then fnReg s n off
  else if o = 0x10 then setFld (imgReg s.cfg.active off) 15 0 (tskInUse s % 65536)
  else if o = 0x14 then rcReg s n off
  else if 0x30 ≤ o ∧ o < 0x40 then low32 (min 65535 (dlOf s ((o - 0x30) / 4)).length)
  else if 0x40 ≤ o ∧ o < 0x50 then
    let l := (o - 0x40) / 2
    pack [(16, min 65535 (waiting (l + 1))), (0, min 65535 (waiting l))]
  else if (0x100 ≤ o ∧ o < 0x110) ∨ (0x8100 ≤ o ∧ o < 0x8110) then winReg s n off
  else if (0x300 ≤ o ∧ o ≤ 0x318) ∨ (0x8300 ≤ o ∧ o ≤ 0x8318) then ctrReg s off
  else 0#32

/-- CFG (Tables 14-16, 14-17, 15-12). -/
def readCfg (s : State) (n o : Nat) : Word :=
  let off := CFG + o
  let c := s.cfg
  let f := fnOf s n
  if o = 0 then cfgStat s
  else if o = 4 ∨ o = 8 ∨ o = 0x18 ∨ o = 0x1C ∨ o = 0x50 ∨ o = 0x404 then fnReg s n off
  else if o = 0x10 then low32 c.active.vintage
  else if o = 0x14 then low32 (match c.staged with
    | some im => im.vintage
    | none => 0)
  else if o = 0x20 then low32 (c.sched.getD 0)
  else if o = 0x24 then high32 (c.sched.getD 0)
  else if o = 0x28 then c.load
  else if o = 0x2C then c.loadDetail
  else if o = 0x30 then slotStat s 0
  else if o = 0x34 then low32 (slotVint s 0)
  else if o = 0x38 then slotStat s 1
  else if o = 0x3C then low32 (slotVint s 1)
  else if o = 0x40 then pack [(24, s.part.costLtr), (16, s.part.costNum), (0, s.part.costRev)]
  else if o = 0x44 then low32 s.sec.fwVer
  else if o = 0x48 then low32 c.lastAct
  else if o = 0x4C then high32 c.lastAct
  else if o = 0x58 then batStat s n
  else if o = 0x5C then low32 c.batNum
  else if o = 0x60 then low32 f.batVint
  else if o = 0x408 then pack [(31, b2n f.regFence.isSome), (0, min 65535 f.regDrops)]
  else if 0x300 ≤ o ∧ o ≤ 0x314 then ctrReg s off
  else 0#32

/-- HIF_STAT of function `n` (Table 15-11). -/
def hifStat (s : State) (n : Nat) : Word :=
  let f := fnOf s n
  pack [(30, n % 4), (29, b2n (validFn s n)), (28, b2n (imgLoad s n)), (27, b2n (mtrAdmin s n)), (26, b2n f.bme), (24, f.width % 4),
    (20, f.speed % 16), (0, if validFn s n then fld (partWord s n 0) 15 0 else 0)]

/-- HIF of function `n` (Tables 15-10, 15-11). -/
def readHif (s : State) (n o : Nat) : Word :=
  let off := HIF + o
  let f := fnOf s n
  let right := fun (w : Nat) => if validFn s n then partWord s n w else 0#32
  if o = 0 then hifStat s n
  else if o = 4 then right 1
  else if o = 8 then right 2
  else if o = 0xC ∨ o = 0x10 then fnReg s n off
  else if o = 0x14 then setBit (fnReg s n off) 15 true
  else if (0x40 ≤ o ∧ o ≤ 0x50) ∨ (0x60 ≤ o ∧ o ≤ 0x70) ∨ (0x80 ≤ o ∧ o ≤ 0x90) ∨ (0xC0 ≤ o ∧ o ≤ 0xE4) then fnReg s n off
  else if 0x100 ≤ o ∧ o < 0x140 then setBit (fnReg s n off) 30 (fgetD f.irq ((o - 0x100) / 4) {}).pend
  else if 0x300 ≤ o ∧ o ≤ 0x31C then fgetD f.ctr off 0#32
  else if (0x400 ≤ o ∧ o < 0x500) ∨ (0x500 ≤ o ∧ o < 0x580) then
    let r := o % 0x20
    if r ≤ 0x10 then fnReg s n off else if r ≤ 0x18 then fgetD f.ctr off 0#32 else 0#32
  else 0#32

/-- PAIR (Tables 16-10, 16-11). -/
def readPair (s : State) (n o : Nat) : Word :=
  let off := PAIR + o
  if o = 4 then pairStat s
  else if o = 8 ∨ o = 0xC ∨ o = 0x54 then fnReg s n off
  else if o = 0 ∨ (0x14 ≤ o ∧ o < 0x40) ∨ (0x200 ≤ o ∧ o < 0x300) then imgReg s.cfg.active off
  else if o = 0x40 then low32 s.pair.leaseEnd
  else if o = 0x44 then high32 s.pair.leaseEnd
  else if o = 0x48 then low32 s.pair.gen
  else if o = 0x4C then match s.pair.peer with
    | some p => pack [(29, p.role % 8), (24, p.hfl / 2 ^ 11 % 32)]
    | none => 0#32
  else if o = 0x50 then match s.pair.peer with
    | some p => low32 p.vintage
    | none => 0#32
  else if 0x100 ≤ o ∧ o < 0x110 then winReg s n off
  else if 0x300 ≤ o ∧ o ≤ 0x330 then ctrReg s off
  else 0#32

/-- SEC (Tables 17-11, 17-12). -/
def readSec (s : State) (n o : Nat) : Word :=
  let off := SEC + o
  if o = 0 then secStat s
  else if o = 4 ∨ o = 8 ∨ o = 0x60 ∨ o = 0x64 then fnReg s n off
  else if o = 0xC then pack [(16, s.sec.present % 64), (0, s.fuses.tamperEn % 4)]
  else if o = 0x10 then low32 s.sec.fwVer
  else if o = 0x14 then low32 s.fuses.svn
  else if 0x20 ≤ o ∧ o < 0x40 then wordAt (padTo 32 s.sec.mc) ((o - 0x20) / 4)
  else if 0x40 ≤ o ∧ o < 0x60 then wordAt (padTo 32 s.sec.metro) ((o - 0x40) / 4)
  else if (0x100 ≤ o ∧ o < 0x118) ∨ (0x140 ≤ o ∧ o < 0x150) then winReg s n off
  else if 0x300 ≤ o ∧ o ≤ 0x310 then ctrReg s off
  else 0#32

/-- The status code on ST2 to ST0 (Table 18-3). The dump of a fatal error is written inside FATAL_ERROR, so that 0b110 shows at no
step. -/
def statusCode (s : State) : Nat :=
  match s.pwr.state with
  | .off => 0
  | .batteryStandby => 0
  | .sleep => 0
  | .starting => if s.pwr.waits then 0 else if s.pwr.noFw then 2 else 1
  | .shed => if s.fuses.tlock then 7 else if hasTime s then 5 else 4
  | .run => if s.fuses.tlock then 7 else if hasTime s then 5 else 4

/-- PWR_DUMP_STAT (Table 18-14). -/
def dumpStat (s : State) : Word :=
  match s.nv.dump with
  | some d => pack [(31, 1), (30, b2n d.complete), (29, b2n d.pfailCut), (28, b2n s.nv.overHdr.isSome), (0, d.cause)]
  | none => pack [(28, b2n s.nv.overHdr.isSome)]

/-- PWR (Tables 18-13 to 18-15). -/
def readPwr (s : State) (n o : Nat) : Word :=
  let off := PWR + o
  if o = 0 then pack [(29, statusCode s), (28, b2n s.pwr.pfailN)]
  else if o = 4 ∨ o = 8 then fnReg s n off
  else if o = 0xC then imgReg s.cfg.active off
  else if o = 0x10 then s.vbat.rstCause
  else if o = 0x14 then low32 (min 65535 s.pwr.vin)
  else if o = 0x18 then low32 (uint 16 s.pwr.temp)
  else if o = 0x1C then dumpStat s
  else if o = 0x20 then low32 (match s.nv.dump with
    | some d => d.seq
    | none => 0)
  else if o = 0x24 then low32 (min 65535 s.pwr.startMs)
  else if o = 0x300 then s.nv.resets
  else if o = 0x304 then s.nv.fatals
  else if o = 0x308 then s.nv.pfails
  else if o = 0x30C ∨ o = 0x310 ∨ o = 0x314 then ctrReg s off
  else 0#32

/-! ## Reads -/

/-- What function `n` reads at a DWORD-aligned BAR0 offset, an RC field not yet cleared. A function whose partition is not valid reads
GLB_ID and its HIF block (R401); an offset that no table lists reads 0 (R398). -/
def readReg (s : State) (n off : Nat) : Word :=
  let b := blockBase off
  let o := off - b
  if 4 ≤ n ∨ 0x140000 ≤ off ∨ off % 4 ≠ 0 then 0#32
  else if b = HIF then readHif s n o
  else if !validFn s n && off != 0 then 0#32
  else if b = GLB then readGlb s o else if b = TB then readTb s n o else if b = ETH then readEth s n o
  else if b = ING then readIng s n o else if b = ALN then readAln s n o else if b = SVF then readSvf s n o
  else if b = OSC then readOsc s n o else if b = ISL then readIsl s n o else if b = SCH then readSch s n o
  else if b = CAP then readCap s n o else if b = MTR then readMtr s n o else if b = PUB then readPub s n o
  else if b = TSK then readTsk s n o else if b = CFG then readCfg s n o else if b = PAIR then readPair s n o
  else if b = SEC then readSec s n o else readPwr s n o

/-- The registers that read-clear: ETH_RXBUF of each port and TSK_POOL_PEAK. ALN_GRP_LATE_MAX clears at the index write (R9). -/
def isRc (off : Nat) : Bool := (decide (ETH ≤ off ∧ off < ETH + 0xE000) && off % 0x1000 == 0x20) || off == TSK + 0x14

/-- RC_REGISTER_READ (R9): the function's copy is returned, and it alone is cleared. -/
def execRcRegisterRead (n off : Nat) (s : State) : Out := act s fun s =>
  if 4 ≤ n ∨ !isRc off then s
  else
    let v := readReg s n off
    modFn s n (fun f => { f with lastRead := v, rc := if validFn s n then fdel f.rc (off * 65536) else f.rc })

/-- W1C_WRITE (R6): each bit written as 1 is cleared in the function's copy; the other bits stay. -/
def execW1cWrite (n off : Nat) (v : Word) (s : State) : Out := act s fun s =>
  if 4 ≤ n ∨ !isW1C off then s
  else if !validFn s n && blockBase off != HIF then deniedInvalid n s
  else setFnReg s n off (fnReg s n off &&& ~~~v)

/-- BAD_ACCESS (R397): `read` says that the access was a read. -/
def execBadAccess (n : Nat) (read : Bool) (s : State) : Out := act s fun s =>
  if 4 ≤ n then s
  else
    let s := if read then modFn s n (fun f => { f with lastRead := 0#32 }) else s
    hifFlag n 0 (countFn n (HIF + 0x300) 0xFFFF s)

end Sys2Proof.Machine
end

