-- ==== Sys2Proof/Machine/RegWrite.lean ====
section
/-!
DEFINITION. Sys2Proof/Machine/RegWrite.lean: writes of registers without a row of their own (R6 to R8, R398 to R401): the HIF block,
the argument registers, and everything that a write leaves as it is.
-/
namespace Sys2Proof.Machine

/-! ## Field writes -/

/-- One field of an RW register: its bits, and the values that its table lists. -/
structure RwField where
  hi : Nat
  lo : Nat
  min : Nat := 0
  max : Nat := 0xFFFFFFFF
  deriving DecidableEq, Repr

/-- `old` with the RW fields written from `v`: a value that the table does not list keeps the field (R8); other bits stay (R6, R7). -/
def writeFields (l : List RwField) (old v : Word) : Word :=
  l.foldl (fun w f => if f.min ≤ fld v f.hi f.lo ∧ fld v f.hi f.lo ≤ f.max then setFld w f.hi f.lo (fld v f.hi f.lo) else w) old

/-- The fields below EN of a CFG register of the HIF block (Table 15-11), and the offset of the module's index of the queue. -/
def cfgFields (o : Nat) : Option (List RwField × Nat) :=
  let hold : RwField := { hi := 14, lo := 8, min := 1, max := 64 }
  if o = 0x48 ∨ o = 0x68 then some ([{ hi := 3, lo := 0, min := 4, max := 12 }], o + 8)
  else if o = 0x88 then some ([hold, { hi := 4, lo := 0, min := 6, max := 16 }], 0x90)
  else if o = 0xC8 then some ([hold, { hi := 4, lo := 0, min := 20, max := 30 }], 0xD0)
  else if 0x400 ≤ o ∧ o < 0x500 ∧ o % 0x20 = 8 then
    some ([hold, { hi := 6, lo := 4, max := 5 }, { hi := 3, lo := 0, min := 6, max := 13 }], o + 8)
  else if 0x500 ≤ o ∧ o < 0x580 ∧ o % 0x20 = 8 then some ([hold, { hi := 3, lo := 0, min := 6, max := 13 }], o + 8)
  else none

/-! ## Enabling queues and rings -/

/-- The start events of function `n`, at the first enable of its event queue after a start (R471, R505). -/
def startEvents (n : Nat) (s : State) : State :=
  let c := s.vbat.rstCause
  let s := modFn s n (fun f => { f with startEv := true })
  let sec := match s.vbat.pfailAt with
    | some t => t / 1000000000
    | none => 0
  let s := raise 0x1201 (.fnOnly n) (leBytes 1 (fld c 31 24) ++ leBytes 2 (fld c 15 0) ++ leBytes 8 sec) s
  let s := match s.nv.dump with
    | some d => raise 0x1202 (.fnOnly n) (leBytes 4 d.seq ++ leBytes 1 d.cause) s
    | none => s
  let s := s.sec.toReport.foldl (fun s t => raise 0x1101 (.fnOnly n) (leBytes 1 t.1 ++ leBytes 1 t.2) s) s
  match s.sec.lcNote with
  | some (a, b) => raise 0x1102 (.fnOnly n) (leBytes 1 a ++ leBytes 1 b) s
  | none => s

/-- A queue or ring starts: the module's index is 0, the phase is 1, and its part of host memory is what the host has zeroed. -/
def ringStart (n o idx : Nat) (s : State) : State :=
  let s := setHif n idx 0 s
  if o = 0x68 then modFn s n (fun f => { f with cplPhase := true, cplRing := [] })
  else if o = 0x88 then
    let s := modFn s n (fun f => { f with evPhase := true, evRing := [] })
    if (fnOf s n).startEv then s else startEvents n s
  else if o = 0xC8 then modFn s n (fun f => { f with hrvRing := [], hrvWb := 0 })
  else s

/-- EN may rise: the partition is valid, and a harvest ring is at least twice the longest record (R401, R416). -/
def mayEnable (s : State) (n o : Nat) : Bool :=
  validFn s n && (o != 0xC8 || decide (2 * longestRecord s n ≤ ringSize (hif s n 0xC8) 5))

/-- A write of the CFG register at HIF offset `o`. -/
def writeRingCfg (n o idx : Nat) (fs : List RwField) (v : Word) (s : State) : State :=
  let old := hif s n o
  let w := setBit (writeFields fs old v) 31 false
  let s := setFnReg s n (HIF + o) w
  if !bit v 31 then s
  else if bit old 31 then setFnReg s n (HIF + o) (setBit w 31 (validFn s n))
  else if mayEnable s n o then ringStart n o idx (setFnReg s n (HIF + o) (setBit w 31 true))
  else s

/-! ## The HIF block -/

/-- The bits of `v` that name groups `base` to `base + 31` which function `n` may read. -/
def readableBits (s : State) (n base : Nat) (v : Word) : Word :=
  low32 (bitmapLE ((List.range 32).map (fun g => bit v g && (imgLoad s n || readGroup s n (base + g)))))

/-- A write of function `n` inside its own HIF block. -/
def writeHif (n o : Nat) (v : Word) (s : State) : State :=
  let put := fun (w : Word) => setFnReg s n (HIF + o) w
  match cfgFields o with
  | some (fs, idx) => writeRingCfg n o idx fs v s
  | none =>
    if o = 0x14 then put v
    else if [0x40, 0x44, 0x60, 0x64, 0x80, 0x84, 0xC0, 0xC4, 0xD4, 0xD8].contains o then put v
    else if o = 0x4C ∨ o = 0x6C ∨ o = 0x8C then put (v &&& 0xFFFF#32)
    else if o = 0xCC then put (v &&& ~~~7#32)
    else if o = 0xDC then put (v &&& (if mtrAdmin s n then 0xF#32 else 7#32))
    else if o = 0xE0 then put (readableBits s n 0 v)
    else if o = 0xE4 then put (readableBits s n 32 v)
    else if 0x100 ≤ o ∧ o < 0x140 ∧ o % 4 = 0 then put (v &&& 0x803F03FF#32)
    else if 0x400 ≤ o ∧ o < 0x580 ∧ (o % 0x20 = 0 ∨ o % 0x20 = 4) then put v
    else if 0x400 ≤ o ∧ o < 0x580 ∧ o % 0x20 = 0xC then put (v &&& 0xFFFF#32)
    else s

/-! ## Control registers with an OP that is not used -/

/-- A write of CAP_CTRL, TSK_CTRL or CFG_CTRL with an OP that its table does not list. -/
def unusedOp (n off : Nat) (v : Word) (s : State) : State :=
  let op := fld v 31 28
  let key := fld v 15 0
  if off = CAP + 0x30 ∧ (op = 0 ∨ 6 < op) then capCtrl n .all op key true (capRefuse .all op 4) s
  else if off = TSK + 0xC ∧ (op = 0 ∨ 3 < op) then tskCtrl n op key (tskRefuse op 4) s
  else if off = CFG + 0xC ∧ (op = 0 ∨ 10 < op) then
    if !validFn s n then deniedInvalid n s else if key ≠ 0xC0F6 then cfgRefuse op 20 s else cfgRefuse op 28 s
  else s

/-! ## REGISTER_WRITE -/

/-- A write by a valid partition outside its HIF block: CFG_ARG, CFG_BAT_PAR and MTR_REL take it, a control register refuses an OP
that is not used, and every other register that has no row of its own stays as it is (R398, R6). -/
def writeReg (n off : Nat) (v : Word) (s : State) : State :=
  if off = CFG + 0x18 ∨ off = CFG + 0x1C then setFnReg s n off v
  else if off = CFG + 0x50 then setFnReg s n off (v &&& 0x3FFF#32)
  else if off = MTR + 0x30 ∨ off = MTR + 0x34 then
    if !mtrAdmin s n then mtrRefuse n 2 s
    else if off = MTR + 0x30 then { s with mtr := { s.mtr with rel := s.mtr.rel / 2 ^ 32 * 2 ^ 32 + v.toNat } }
    else { s with mtr := { s.mtr with rel := v.toNat * 2 ^ 32 + s.mtr.rel % 2 ^ 32 } }
  else unusedOp n off v s

/-- REGISTER_WRITE (R399). -/
def execRegisterWrite (n off : Nat) (v : Word) (s : State) : Out := act s fun s =>
  if 4 ≤ n ∨ off % 4 ≠ 0 ∨ 0x140000 ≤ off then s
  else if blockBase off = HIF then writeHif n (off - HIF) v s
  else if !validFn s n then deniedInvalid n s
  else writeReg n off v s

end Sys2Proof.Machine
end

