-- ==== Sys2Proof/Machine/Power.lean ====
section
/-!
DEFINITION. Sys2Proof/Machine/Power.lean: the supply, sleep, resets, fatal errors and their dump, life-cycle transitions and firmware
activation (R457 to R460, R469, R489 to R505).
-/
namespace Sys2Proof.Machine

/-! ## Supply loss (R489 to R491) -/

/-- DO0 to DO15 (R338) and PO0 to PO7 are released, and every frame under way or waiting is cut. -/
def stopOutputs (s : State) : State :=
  let s := (List.range 16).foldl (fun s n => releaseDo n s) s
  { s with
    mtr := { s.mtr with pos := s.mtr.pos.map (fun e => (e.1, { e.2 with start := none })) }
    eth := { s.eth with ports := s.eth.ports.map (fun e => (e.1, { e.2 with txq := [], cur := none })) } }

/-- The actions of R490 at `ns`. -/
def shed (ns : Nat) (s : State) : State :=
  let s := mtrSupplyLoss ns (stopOutputs (seen ns s))
  { s with vbat := { s.vbat with pfailAt := some ns } }

/-- SHED, with the warning counted (R489). -/
def pfailed (s : State) : State :=
  pwrHalf 0x308 s.nv.pfails (modPwr (fun p => { p with state := .shed, pfailN := false }) { s with nv := { s.nv with pfails := s.nv.pfails + 1#32 } })

/-- PFAIL_WARNING (R489, R490): `ext` says that the external supervisor pulls the land low. -/
def execPfailWarning (ns : Nat) (ext : Bool) (s : State) : Out :=
  let heard := bit (pfailCfg s) (if ext then 15 else 14)
  if !heard then .next s
  else match s.pwr.state with
    | .run =>
      let s := shed ns s
      .next (pfailed s)
    | .starting => .next (modPwr (fun p => { p with pfailN := false }) s)
    | _ => .next s

/-- PFAIL_RECOVER (R491): VIN has stayed at `mv` or more for 10 ms in SHED. -/
def execPfailRecover (mv : Nat) (s : State) : Out :=
  if s.pwr.state == .shed && vinHigh s mv then .next (startReset 3 0 (modPwr (fun p => { p with vin := mv }) s)) else .next s

/-- The VBAT domain loses its supply (R462, R494). -/
def vbatGone (s : State) : State := { s with vbat := { kek := false } }

/-- The main supply is gone: BATTERY STANDBY, or OFF without VBAT. -/
def supplyGone (s : State) : State :=
  let s := modPwr (fun p => { p with state := if p.vbatPin then .batteryStandby else .off, pfailN := false, vin := 0 }) (stopOutputs s)
  if s.pwr.vbatPin then s else vbatGone s

/-- UVLO_FALL (R491): VIN falls below 4.0 V. -/
def execUvloFall (s : State) : Out :=
  match s.pwr.state with
  | .off => .next s
  | .batteryStandby => .next s
  | _ => .next (supplyGone s)

/-- PFAIL_N_HIGH (R484): the land goes high with VIN at `mv`. Step 1 of a waiting start may then end, which POWER_UP does. -/
def execPfailNHigh (mv : Nat) (s : State) : Out := .next (modPwr (fun p => { p with pfailN := true, vin := mv }) s)

/-- VBAT_APPLIED (R481). -/
def execVbatApplied (s : State) : Out :=
  .next (modPwr (fun p => { p with vbatPin := true, state := if p.state = .off then .batteryStandby else p.state }) s)

/-- VBAT_LOST (R508): with VIN present the VBAT domain runs from VIN. -/
def execVbatLost (s : State) : Out :=
  let s := modPwr (fun p => { p with vbatPin := false }) s
  if s.pwr.state = .batteryStandby then .next (vbatGone (modPwr (fun p => { p with state := .off }) s)) else .next s

/-! ## RESET_N and PERST_N (R482, R495, R496) -/

/-- VIN is present. -/
def powered (s : State) : Bool := s.pwr.state != .off && s.pwr.state != .batteryStandby

/-- A wake from SLEEP counts in WAKES of the start that follows it. -/
def wakeReset (cause : Nat) (s : State) : State :=
  let woke := s.pwr.state == .sleep
  let s := startReset cause 0 s
  if woke then count (PWR + 0x314) s else s

/-- RESET_N_LOW: low for 10 µs or more. -/
def execResetNLow (s : State) : Out :=
  let s' := modPwr (fun p => { p with resetN := false }) s
  .next (if powered s then wakeReset 2 s' else s')

/-- RESET_N_RELEASE: the sequence begins, which POWER_UP runs. -/
def execResetNRelease (s : State) : Out := .next (modPwr (fun p => { p with resetN := true }) s)

/-- PERST (R496): PERST_N low, or a hot reset of the link where `hot`. -/
def execPerst (hot : Bool) (s : State) : Out :=
  let s := modPwr (fun p => { p with perstN := p.perstN && hot }) s
  .next (if alive s then
    [0, 1, 2, 3].foldl (fun s n => modFn (dropHostTx n (flrReset n s)) n (fun f => { f with bme := false })) s
  else s)

/-- PERST_N_RELEASE (R483): from now on each function answers configuration requests as `cfgAnswer` says. -/
def execPerstNRelease (s : State) : Out := .next (modPwr (fun p => { p with perstN := true }) s)

/-! ## Sleep and commanded resets (R493, R503) -/

/-- The refusal reason of PWR_RESET and PWR_SLEEP for a TAI second, 0 = untimed. -/
def pwrReason (s : State) (sec : Nat) : Nat :=
  if authority s && s.cfg.active.paired then 1
  else if sec = 0 then 0
  else if !hasTime s then 4
  else if sec ≤ taiSec s ∨ taiSec s + 86400 < sec then 3
  else 0

/-- CMD_PWR_SLEEP (R493): the actions of R490 with the acceptance as the warning, then SLEEP. -/
def execCmdPwrSleep (n : Nat) (s : State) : Out := act s
  (runCmd n 0x64 [(8, 8)] (fun raw s =>
    let w := leAt raw 8 8
    let r := pwrReason s w
    if r ≠ 0 then complete n 5 r 0 s
    else
      let s := shed s.tb.now (complete n 0 0 0 s)
      modPwr (fun p => { p with state := .sleep, wake := some w }) s))

/-- SLEEP_WAKE (R493): the RTC stands at `rtc` ns. -/
def execSleepWake (rtc : Nat) (s : State) : Out :=
  match s.pwr.state, s.pwr.wake with
  | .sleep, some w =>
    if w ≠ 0 ∧ s.vbat.rtcValid ∧ w * 1000000000 ≤ rtc then .next (wakeReset 8 { s with vbat := { s.vbat with rtc := rtc } }) else .next s
  | _, _ => .next s

/-! ## The fatal-state dump (R501, R502) -/

/-- The listed registers by first offset and count, windows' data registers left out. -/
def listedRegs : List (Nat × Nat) :=
  [(0, 6), (TB, 32)] ++ (List.range 14).flatMap (fun p => [(ETH + 0x1000 * p, 9), (ETH + 0x1000 * p + 0x100, 21)]) ++
  (List.range 6).flatMap (fun p => [(ETH + 0xE000 + 0x40 * p, 12)]) ++
  [(ING, 6), (ING + 0x20, 3), (ING + 0x300, 7), (ALN, 3), (ALN + 0x10, 2), (ALN + 0x300, 7), (SVF, 5), (SVF + 0x20, 4), (SVF + 0x300, 4),
   (OSC, 4), (OSC + 0x20, 6), (OSC + 0x300, 7), (ISL, 8), (ISL + 0x20, 6), (ISL + 0x40, 4), (ISL + 0x300, 11), (SCH, 12), (SCH + 0x40, 6),
   (SCH + 0x300, 10), (CAP, 9), (CAP + 0x30, 1), (CAP + 0x40, 5), (CAP + 0x300, 7), (MTR, 7), (MTR + 0x20, 6), (MTR + 0x40, 8), (MTR + 0x60, 4),
   (MTR + 0x300, 9), (MTR + 0x1000, 256), (PUB, 7), (PUB + 0x20, 3), (PUB + 0x300, 8), (TSK, 6), (TSK + 0x20, 1), (TSK + 0x30, 8),
   (TSK + 0x300, 7), (ARB + 4, 2), (ARB + 0x10, 1), (ARB + 0x300, 7), (CFG, 25), (CFG + 0x300, 6), (CFG + 0x400, 3), (HIF, 6), (HIF + 0x40, 5),
   (HIF + 0x60, 5), (HIF + 0x80, 5), (HIF + 0xC0, 10), (HIF + 0x100, 16), (HIF + 0x300, 8)] ++
  (List.range 8).flatMap (fun r => [(HIF + 0x400 + 0x20 * r, 7)]) ++ (List.range 4).flatMap (fun r => [(HIF + 0x500 + 0x20 * r, 7)]) ++
  [(PAIR, 4), (PAIR + 0x14, 17), (PAIR + 0x200, 64), (PAIR + 0x300, 13), (SEC, 6), (SEC + 0x20, 18), (SEC + 0x300, 5), (PWR, 10), (PWR + 0x300, 6)]

/-- Section 0: (offset, value) pairs as function 0 reads them. -/
def dumpRegs (s : State) : List Byte :=
  listedRegs.flatMap (fun (lo, k) => (List.range k).flatMap (fun i =>
    leBytes 4 (lo + 4 * i) ++ leBytes 4 (readReg s 0 (lo + 4 * i)).toNat))

/-- A descriptor (section 1). -/
def itemBytes (i : TskItem) : List Byte :=
  leBytes 2 i.flow ++ leBytes 1 i.level ++ leBytes 1 i.engine ++ leBytes 4 i.adm ++ leBytes 8 (i.deadline.getD 0) ++ leBytes 1 i.st ++
    leBytes 1 i.unit ++ zeros 14

/-- Section 1: 65,536 descriptors, those in use first. -/
def dumpItems (s : State) : List Byte := padTo 2097152 (s.tsk.items.flatMap itemBytes)

/-- Section 2: the flow contexts. -/
def dumpFlows (s : State) : List Byte := (List.range 16384).flatMap (fun n => bytesLE (winTsk s 0x20 n).words)

/-- Section 3: the latest events, with a module-wide ESEQ from 1. -/
def dumpEvents (s : State) : List Byte :=
  let lo := s.evLogSeq - s.evLog.length
  padTo 131072 ((s.evLog.zip (List.range s.evLog.length)).flatMap (fun (e, i) => eventBytes e (lo + i + 1) false false))

/-- A waiting request (section 4). -/
def reqBytes (r : ArbReq) : List Byte :=
  leBytes 1 r.rq ++ leBytes 1 r.res ++ leBytes 2 r.lst.toNat ++ leBytes 1 (b2n r.lock + 2 * b2n r.nodl + 4 * b2n r.sat) ++ zeros 3

/-- Section 4: the arbiter, 47 resources. -/
def dumpArb (s : State) : List Byte :=
  (List.range 47).flatMap (fun r => bytesLE (winTsk s 0x8010 r).words ++
    padTo 1024 ((s.arb.reqs.filter (fun q => q.res == r)).flatMap reqBytes))

/-- A section with its CRC. -/
def withCrc (bs : List Byte) : List Byte := bs ++ leBytes 4 (crc32 bs).toNat

/-- The seven sections (Table 18-11). -/
def dumpSections (s : State) : List (List Byte) :=
  [dumpRegs s, dumpItems s, dumpFlows s, dumpEvents s, dumpArb s, openBytes s.free 0 6291456, openBytes s.free 6291456 (4 * 1048576)].map withCrc

/-- DFLAGS. -/
def dumpFlags (s : State) (complete cut spill : Bool) : Nat :=
  b2n complete * 2 ^ 15 + b2n cut * 2 ^ 14 + b2n (!hasTime s) * 2 ^ 13 + b2n spill * 2 ^ 12 + b2n s.fuses.tlock * 2 ^ 11

/-- The header (Table 18-10) over sections of these lengths. -/
def dumpHeader (s : State) (x : FatalIn) (flags : Nat) (lens : List Nat) : List Byte :=
  let dir := (lens.foldl (fun (a : List Byte × Nat) l => (a.1 ++ leBytes 4 a.2 ++ leBytes 4 l, a.2 + l)) ([], 256)).1
  let b := leBytes 2 0x1201 ++ leBytes 2 flags ++ leBytes 4 (256 + sumN lens) ++ leBytes 4 (s.nv.dumpSeq + 1) ++ leBytes 2 x.cause ++
    leBytes 2 x.block ++ (if hasTime s then tsLE x.ns else zeros 12) ++ leBytes 4 x.detail ++ leBytes 8 s.tb.tick ++
    leBytes 4 s.cfg.active.vintage ++ leBytes 4 s.sec.fwVer ++ leBytes 4 s.part.serial.toNat ++ leBytes 1 (roleShown s) ++ leBytes 1 s.fuses.lc ++
    leBytes 2 7 ++ zeros 8 ++ padTo 32 s.sec.mc ++ padTo 128 dir ++ zeros 28
  withCrc b

/-- The dump of a fatal error (R501): whole, cut by the PFAIL warning after its header, or only a header in the overflow area while an
earlier dump is held. -/
def writeDump (x : FatalIn) (s : State) : State :=
  let s' := match s.nv.dump with
    | some _ => { s with nv := { s.nv with overHdr := some (dumpHeader s x (dumpFlags s false x.cut true) []) } }
    | none =>
      let secs := dumpSections s
      let lens := secs.map List.length
      let head := dumpHeader s x (dumpFlags s (!x.cut) x.cut false) lens
      let body := if x.cut then openBytes (s.free + 1) 0 (sumN lens) else secs.flatten
      let d : Dump := { seq := (s.nv.dumpSeq + 1) % 2 ^ 32, cause := x.cause, complete := !x.cut, pfailCut := x.cut, raw := head ++ body }
      { s with nv := { s.nv with dump := some d }, free := s.free + 2 }
  { s' with nv := { s'.nv with dumpSeq := (s.nv.dumpSeq + 1) % 2 ^ 32, fatals := s.nv.fatals + 1#32 } }

/-! ## Fatal errors (R498 to R500) -/

/-- Every point commits with its interval marked PARTIAL and no supply-loss record (R499). -/
def fatalCommit (s : State) : State :=
  (imValid s.cfg.active secMTR_POINT).foldl (fun s p =>
    modMtr p (fun q => { q with flags := q.flags ||| 2 ^ 10 }) (closePartial p s)) s

/-- A fatal error up to the end of the dump. -/
def fatalStop (x : FatalIn) (s : State) : State :=
  let s := stopOutputs (seen x.ns s)
  let s := fatalCommit { s with pair := { s.pair with auth := false } }
  writeDump x s

/-- A fatal error and its reset, unless the PFAIL warning cuts the dump: then the module is in SHED (Table 18-6). -/
def fatal (x : FatalIn) (s : State) : State :=
  let lost := s.nv.dump.isSome
  let s := fatalStop x s
  if x.cut then
    pfailed (shed x.ns (pwrHalf 0x304 (s.nv.fatals - 1#32) s))
  else
    let s := { s with nv := { s.nv with fatalAt := (s.vbat.rtc / 1000000000 :: s.nv.fatalAt).take 3 } }
    let s := pwrHalf 0x304 (s.nv.fatals - 1#32) (startReset 4 x.cause s)
    if lost then count (PWR + 0x30C) s else s

/-- FATAL_ERROR. -/
def execFatalError (x : FatalIn) (s : State) : Out := act s (fatal x)

/-- A reset by PWR_RESET, with DUMP through the fatal error 0x000A. -/
def commandReset (dump : Bool) (s : State) : State :=
  if dump then fatal { cause := 0x000A, ns := s.tb.now } s else startReset 5 0 s

/-- CMD_PWR_RESET (R503). -/
def execCmdPwrReset (n : Nat) (s : State) : Out := act s
  (runCmd n 0x63 [(4, 1), (8, 8)] (fun raw s =>
    let sec := leAt raw 8 8
    let dump := Nat.testBit (leAt raw 4 1) 0
    let r := pwrReason s sec
    if 1 < leAt raw 4 1 then complete n 3 0 0 s
    else if r ≠ 0 then complete n 5 r 0 s
    else
      let s := complete n 0 0 0 s
      if sec = 0 then commandReset dump s else modPwr (fun p => { p with resetAt := some (sec, dump) }) s))

/-- SCHEDULED_RESET (R495). -/
def execScheduledReset (s : State) : Out := act s fun s =>
  match s.pwr.resetAt with
  | some (sec, dump) =>
    if hasTime s && decide (sec * 1000000000 ≤ s.tb.now) then commandReset dump (modPwr (fun p => { p with resetAt := none }) s) else s
  | none => s

/-! ## Dump commands (R503) -/

/-- CMD_DUMP_INFO. -/
def execCmdDumpInfo (n : Nat) (s : State) : Out := act s
  (runCmd n 0x60 [] (fun _ s => match s.nv.dump with
    | some d => complete n 0 d.seq (leAt d.raw 4 4 + leAt d.raw 2 2 * 2 ^ 32 + d.cause * 2 ^ 48) s
    | none => complete n 0 0 0 s))

/-- CMD_DUMP_READ: `ok` = the host memory took the bytes. -/
def execCmdDumpRead (n : Nat) (ok : Bool) (s : State) : Out := act s
  (runCmd n 0x61 [(8, 17)] (fun raw s =>
    let ofs := leAt raw 0x10 4
    let len := leAt raw 0x14 4
    let src := if leAt raw 0x18 1 = 1 then s.nv.overHdr else s.nv.dump.map (·.raw)
    if 1 < leAt raw 0x18 1 then complete n 3 0 0 s
    else match src with
      | none => complete n 7 0 0 s
      | some bs =>
        if ofs % 8 ≠ 0 ∨ !lenOk len ∨ bs.length ≤ ofs then complete n 3 0 0 s
        else if !ok then complete n 4 0 0 s
        else
          let out := slice bs ofs len
          complete n 0 out.length 0 (hostWrite n (leAt raw 8 8) out s)))

/-- CMD_DUMP_RELEASE. -/
def execCmdDumpRelease (n : Nat) (s : State) : Out := act s
  (runCmd n 0x62 [(4, 4)] (fun raw s => match s.nv.dump with
    | some d =>
      if d.seq = leAt raw 4 4 then complete n 0 0 0 { s with nv := { s.nv with dump := none } } else complete n 5 2 0 s
    | none => complete n 5 2 0 s))

/-! ## Conditions of the supply and the die (R505) -/

/-- TEMP_THRESHOLD: the die temperature becomes `temp` sixteenths of a degree Celsius; 110 °C is 1,760. -/
def execTempThreshold (temp : Int) (s : State) : Out := act s fun s =>
  let crossed := decide (1760 ≤ s.pwr.temp) != decide (1760 ≤ temp)
  let s := modPwr (fun p => { p with temp := temp }) s
  if crossed then raise 0x1205 .all (leBytes 2 (uint 16 temp)) s else s

/-- VIN_LOW_ALERT: VIN has stayed at `mv` for 1 s; the event at most once per minute. -/
def execVinLowAlert (mv : Nat) (s : State) : Out := act s fun s =>
  let s := modPwr (fun p => { p with vin := mv }) s
  let due := match fget? s.limits 0x1204 with
    | some t => decide (t + 60000000000 ≤ s.tb.now)
    | none => true
  if decide (mv < thrMv s + 1000) && due then raise 0x1204 .all (leBytes 2 mv) { s with limits := fset s.limits 0x1204 s.tb.now } else s

/-- TABLE_PARITY_RELOAD (R497, Table 4-11): an entry of section `t` is loaded again from the active image and the cellar. -/
def execTableParityReload (t : Nat) (s : State) : Out := act s fun s =>
  let s := count (PWR + 0x310) (pwrFlag 0 s)
  if t = secSTREAM_DIR ∨ t = secCHANNEL then setFlag s (ING + 4) 5 else s

/-! ## Life-cycle transitions (R457 to R460) -/

/-- The anchor that signs a transition (Table 17-1), 6 being TAMPER-LOCK; none where the table has no such row. -/
def lcAnchor (s : State) (a b : Nat) : Option (List Byte) :=
  if b = 5 then some Config.anchorRet
  else if a = 1 ∧ b = 2 then some Config.anchorMfg
  else if (a = 2 ∧ b = 3) ∨ (a = 3 ∧ b = 2) ∨ ((a = 2 ∨ a = 3 ∨ a = 6) ∧ b = 4) ∨ (a = 6 ∧ b = 2) then some s.nv.ownerKey
  else none

/-- The token is accepted (R458). -/
def tokenOk (s : State) (t : List Byte) : Bool :=
  let notAfter := leAt t 0x10 8
  leAt t 0 2 == 0x1151 && leAt t 2 2 == 5072 && leAt t 4 1 == lcState s && leAt t 8 4 == s.part.serial.toNat &&
  leAt t 0xC 4 == s.fuses.lcCtr + 1 && (decide (taiSec s < notAfter) || !hasTime s) &&
  (match lcAnchor s (leAt t 4 1) (leAt t 5 1) with
   | some k => mldsaVerify k (ascii "PZ7-LC") (slice t 0 0xA58) (slice t 0xA58 2420)
   | none => false)

/-- An accepted transition (R459), up to its reset. -/
def transition (t : List Byte) (s : State) : State :=
  let a := lcState s
  let b := leAt t 5 1
  let s := { s with fuses := { s.fuses with
    lc := b, lcCtr := s.fuses.lcCtr + 1, tlock := s.fuses.tlock && !(a == 6 && b == 2)
    tamperEn := if a = 1 ∧ b = 2 then leAt t 6 1 % 4 else s.fuses.tamperEn } }
  let s := rekey b s
  let s := if b = 2 then { s with nv := { s.nv with ownerKey := slice t 0x18 1312, imageKey := slice t 0x538 1312 } } else s
  { s with nv := { s.nv with lcVault := b, lcMoved := some (a, b) } }

/-- CMD_LC_TRANSITION: `token` is the token in host memory, none for a host memory error. -/
def execCmdLcTransition (n : Nat) (token : Option (List Byte)) (s : State) : Out := act s
  (runCmd n 0x45 [(8, 8)] (fun _ s =>
    if s.fuses.lcCtr = 64 then complete n 5 7 0 s
    else match token with
      | none => complete n 4 0 0 s
      | some t =>
        let t := padTo 5072 t
        if tokenOk s t then startReset 7 0 (transition t s) else complete n 5 4 0 s))

/-! ## Firmware activation (R469) -/

/-- CMD_FW_ACTIVATE: the staged copy is marked for boot; the reset follows at the second given, or at once. -/
def execCmdFwActivate (n : Nat) (s : State) : Out := act s
  (runCmd n 0x48 [(8, 8)] (fun raw s =>
    let sec := leAt raw 8 8
    if !s.sec.staged || !s.sec.rewrapped then fwRefuse n 0x48 5 s
    else if sec ≠ 0 ∧ (!hasTime s || decide (sec ≤ taiSec s)) then complete n 3 0 0 s
    else
      let s := fwEvent 0x48 0 (complete n 0 0 0 (modOtherFw (fun c => { c with marked := true }) s))
      if sec = 0 then startReset 6 0 s else { s with sec := { s.sec with fwAt := some sec } }))

/-- FW_ACTIVATE_RESET (R495). -/
def execFwActivateReset (s : State) : Out := act s fun s =>
  match s.sec.fwAt with
  | some sec => if hasTime s && decide (sec * 1000000000 ≤ s.tb.now) then startReset 6 0 s else s
  | none => s

end Sys2Proof.Machine
end

