-- ==== Sys2Proof/Machine/Samples.lean ====
section
/-!
DEFINITION. Sys2Proof/Machine/Samples.lean: sampled-value frames and the records of local bays as commands (R174, R175, R190, R192).
-/
namespace Sys2Proof.Machine

/-- SV_FRAME_RX (R174): the oldest sampled-value frame handed on. -/
def execSvFrameRx (s : State) : Out := act s fun s =>
  match takeHanded .sv s with
  | none => s
  | some (h, s) => match h.frame.payload with
    | .sv m => pqAll (svFrame h.obj h.frame.arrival m s)
    | _ => s

/-- The instant by which the samples of subscription `n` are known: `ns`, or the arrival of the oldest frame that waits for its engine. -/
def svKnown (s : State) (n ns : Nat) : Nat :=
  ((s.eth.handed.filter (fun h => h.cls == .sv && h.obj == n)).map (fun h => h.frame.arrival)).foldl min ns

/-- SV_MAX_AGE_EXPIRY (R175): samples of subscription `n` that MAX_AGE has left unplaced by `ns`. -/
def execSvMaxAgeExpiry (n ns : Nat) (s : State) : Out := act s fun s =>
  let s := seen ns s
  let k := svKnown s n ns
  if n < 32 ∧ hasTime s then pqAll (expireSv (expireFuel s n k) n k s) else s

/-- Bay `b` has a record to write for instant `i`: none is there, and its late span has not passed. -/
def bayDue (s : State) (b i : Nat) : Bool :=
  let im := s.cfg.active
  let n := bayStrm im b
  imBit im secBAY b 0 31 && hasTime s && dirValid im n && i % max 1 (period s (bayRate im b)) == 0 && (recOf s n i).isNone &&
  decide (s.tb.now ≤ gridNs s (closeOf s (dirGroup im n) i + lateSpan s * 1024))

/-- The record of bay `b` for instant `i` with ARR `arr` is written; `k` is what its first readers find. -/
def writeBay (k : ReadCheck) (b i arr : Nat) (s : State) : State :=
  let r := bayRecord s b i arr
  bayWritten b i r (writeRec k r (scheduleRec r (pruneRecs s)))

/-- BAY_RECORD_WRITE (R190): every value of the record is complete. -/
def execBayRecordWrite (b i : Nat) (s : State) (k : ReadCheck := {}) : Out := act s fun s =>
  let e := bayEsts s b i
  if bayDue s b i && !anyEst Est.isOpen e && !anyEst Est.isGone e then writeBay k b i (bayArrival s b i) s else s

/-- BAY_LATENCY_DEADLINE (R192): I + Λ has come, and the record is written with what is there. -/
def execBayLatencyDeadline (b i ns : Nat) (s : State) (k : ReadCheck := {}) : Out := act s fun s =>
  let s := seen ns s
  if bayDue s b i && decide (gridNs s i + bayLambdaNs s b ≤ ns) then writeBay k b i ns s else s

end Sys2Proof.Machine
end

