-- ==== Sys2Proof/Machine/Activation.lean ====
section
/-!
DEFINITION. Sys2Proof/Machine/Activation.lean: scheduling and activating a vintage (R167, R218, R241, R268, R274, R387 to R389, R402).
-/
namespace Sys2Proof.Machine

/-! ## Running work to its end -/

/-- The state that a happening leaves; a fault or a refusal leaves it as it was. -/
def after (f : State → Out) (s : State) : State :=
  match f s with
  | .next t => t
  | _ => s

/-- `f` again and again until it changes nothing, at most `k` times. -/
def settle : Nat → (State → State) → State → State
  | 0, _, s => s
  | k + 1, f, s => let t := f s; if t = s then s else settle k f t

/-- The samples of recorder `r` that are final are written. -/
def drainRec (r : Nat) (s : State) : State := settle 65536 (after (fun s => execCaptureSampleWrite r s)) s

/-- The closes of group `g` that lie before grid tick index `t`. -/
def closeBefore (g t : Nat) (s : State) : State :=
  let r := grpOf s g
  if r.st == 2 && decide (closeOf s g r.nextClose < t) then after (execWindowClose g) s else s

/-- One round over everything that was triggered before grid tick index `t`: frames handed on, closes, seals, detectors, scans, samples,
cycles and output frames. -/
def drainRound (t : Nat) (s : State) : State :=
  let im := s.cfg.active
  let s := [execCfgFrameRx, execHeaderFrameRx, execRsvSpduRx, execDataFrameRx, execSvFrameRx, fun s => execIngestRecordWrite s, execGooseMessageRx].foldl
    (fun s f => after f s) s
  let gs := (List.range 64).filter (groupEn im)
  let s := gs.foldl (fun s g => closeBefore g t s) s
  let s := gs.foldl (fun s g => after (execAlignedSetSeal g {}) s) s
  let s := (imValid im secOSC_SIGNAL).foldl (fun s n => after (execSignalUpdate n {}) s) s
  let s := ((imValid im secOSC_MODE).map (modeRef im)).eraseDups.foldl (fun s r => after (fun s => execModeFamilyEvaluation r s) s) s
  let s := (List.range 4).foldl (fun s i => after (execIslandEvaluation i {}) s) s
  let s := (imValid im secSCH_TASK).foldl (fun s k => after (fun s => execScanSnapshot k s) s) s
  let s := after execScanRun s
  let s := (imValid im secCAP_REC).foldl (fun s r => after (fun s => execCaptureSampleWrite r s) s) s
  let s := (imValid im secMTR_POINT).foldl (fun s p => after (execCycleClose p) s) s
  (imValid im secOUT_STREAM).foldl (fun s n => after (execOutputFrameAssemble n {}) s) s

/-- Work triggered before the activation runs under the old vintage (R388). -/
def drain (t : Nat) (s : State) : State := settle 65536 (drainRound t) s

/-! ## Portions (Table 14-12) -/

/-- The records of section `t` at these indexes, with the indexes. -/
def recsAt (im : Image) (t : Nat) (l : List Nat) : List (Nat × List Word) := l.map (fun n => (n, imRec im t n))

/-- Group `g`: its record, its streams and their channels, its votes and their members. -/
def groupPortion (im : Image) (g : Nat) : List (List (Nat × List Word)) :=
  let ms := groupStrms im g
  let chs := ms.flatMap (fun m => upFrom (dir im m 2 31 16) (dir im m 3 31 23 + 2 + dir im m 3 22 16 + dir im m 3 15 10))
  let vs := groupVotes im g
  [recsAt im secGROUP [g], recsAt im secSTREAM_DIR ms, recsAt im secCHANNEL chs, recsAt im secVOTE vs,
   recsAt im secVOTE_MEMB (vs.flatMap (fun v => upFrom (imFld im secVOTE v 1 31 16) (voteN im v)))]

/-- The parameter records of task `t`. -/
def taskPars (im : Image) (t : Nat) : List Nat := (List.range (imCount im secSCH_PARAM)).filter (fun k => parTask im k == some t)

/-- Task `t`: its record, elements with operands, stations, datasets and their entries, points and parameters. -/
def taskPortion (im : Image) (t : Nat) : List (List (Nat × List Word)) :=
  let ns := taskStns im t
  let es := mainElems im t ++ ns.flatMap (errElems im)
  let ds := ns.flatMap (stnDss im)
  [recsAt im secSCH_TASK [t], recsAt im secSCH_ELEM es,
   recsAt im secSCH_OPND (es.flatMap (fun e => upFrom (elemF im e 1 31 16) (elemF im e 0 23 19))),
   recsAt im secSCH_STATION ns, recsAt im secSCH_DATASET ds,
   recsAt im secSCH_DSENT (ds.flatMap (fun d => upFrom (dsEntBase im d) (dsF im d 8 13 4))), recsAt im secSCH_POINT (taskPoints im t),
   recsAt im secSCH_PARAM (taskPars im t)]

/-- The island engine of interconnection `i`. -/
def icnPortion (im : Image) (i : Nat) : List (List (Nat × List Word)) :=
  [recsAt im secISL_SIGNAL (icnSigs im i), recsAt im secISL_CGRP (icnGrps im i), recsAt im secISL_PAIR (icnPairs im i),
   recsAt im secISL_TIE (icnTies im i)]

/-- Port `n`: the REGS records of its page and of its PRP pair page, each with its index. -/
def portPortion (im : Image) (n : Nat) : List (List Word × Nat) :=
  (imRecs im secREGS).zipIdx.filter (fun r =>
    let o := (r.1.getD 0 0#32).toNat
    decide (ETH + 0x1000 * n ≤ o ∧ o < ETH + 0x1000 * (n + 1)) ||
    (match pairOf im n with
     | some p => decide (prpBase p ≤ o ∧ o < prpBase p + 0x40)
     | none => false))

/-- The chain of slot `j`: its subscription, its own record, and the bays that read it. -/
def slotPortion (im : Image) (j : Nat) : List (List (Nat × List Word)) :=
  [recsAt im secSV_SUB [j / 8], recsAt im secSV_SLOT [j],
   recsAt im secBAY ((imValid im secBAY).filter (fun b => (baySlots im b).contains j))]

/-- A bay with the slots and subscriptions it reads. -/
def bayPortion (im : Image) (b : Nat) : List (List (Nat × List Word)) :=
  [recsAt im secBAY [b], recsAt im secSV_SLOT (baySlots im b), recsAt im secSV_SUB ((baySlots im b).map (· / 8))]

/-- Signal `n` with the layouts it uses. -/
def sigPortion (im : Image) (n : Nat) : List (List (Nat × List Word)) :=
  [recsAt im secOSC_SIGNAL [n], recsAt im secOSC_LAYOUT (((List.range 8).map (sigLay im n)).filter (· != 0xFF))]

/-- Mode `m` with its member list and its members. -/
def modePortion (im : Image) (m : Nat) : List (List (Nat × List Word)) :=
  [recsAt im secOSC_MODE [m], recsAt im secOSC_MEMB (upFrom (imFld im secOSC_MODE m 5 31 18) (imFld im secOSC_MODE m 5 17 7))] ++
    (modeMembers im m).flatMap (sigPortion im)

/-- Alarm `a` with its target. -/
def almPortion (im : Image) (a : Nat) : List (List (Nat × List Word)) :=
  recsAt im secOSC_ALARM [a] ::
    (if imBit im secOSC_ALARM a 0 28 then modePortion im (almF im a 0 7 0) else sigPortion im (almF im a 0 11 0))

/-- Recorder `r` with its channel list and its conditions. -/
def recPortion (im : Image) (r : Nat) : List (List (Nat × List Word)) :=
  [recsAt im secCAP_REC [r], recsAt im secCAP_CHAN (upFrom (recF im r 1 31 16) (recNch im r)), recsAt im secCAP_COND (upFrom (32 * r) (recF im r 0 15 8))]

/-- Output stream `n` with its blocks and sources. -/
def osPortion (im : Image) (n : Nat) : List (List (Nat × List Word)) :=
  [recsAt im secOUT_STREAM [n], recsAt im secOUT_BLOCK (upFrom (osF im n 2 31 19) (if osKind im n < 2 then osF im n 1 31 25 else 0)),
   recsAt im secOUT_SOURCE (upFrom (osF im n 2 31 19) (if osKind im n = 2 then osF im n 2 18 10 else 0))]

/-- Publication `n` with its sources. -/
def gpPortion (im : Image) (n : Nat) : List (List (Nat × List Word)) :=
  [recsAt im secGOOSE [n], recsAt im secOUT_SOURCE (upFrom (gpF im n 1 12 0) (gpF im n 0 23 14))]

/-- The indexes in use in either vintage whose portions differ. -/
def changedIn (a b : Image) (t : Nat) {α : Type} [BEq α] (f : Image → Nat → α) : List Nat :=
  ((imValid a t ++ imValid b t).eraseDups).filter (fun n => !(f a n == f b n) || imBit a t n 0 31 != imBit b t n 0 31)

/-- One record. -/
def recPortion1 (t : Nat) (im : Image) (n : Nat) : List Word := imRec im t n

/-! ## Each block at an activation -/

/-- Groups that changed: under the old vintage their open instants are counted; the counts are used after the swap. -/
def oldGroups (gs : List Nat) (s : State) : List (Nat × Nat) := gs.map (fun g => (g, (openInsts s g).length))

/-- Group `g` begins again under the new vintage at grid tick index `t`, having discarded `n` open instants (R167). -/
def groupRestart (t : Nat) (e : Nat × Nat) (s : State) : State :=
  let s := modGrp e.1 (fun r => { r with start := t }) (grpWait e.1 t (grpCountN e.1 6 e.2 s))
  if groupEn s.cfg.active e.1 then raise 0x0501 (.groups [e.1]) (leBytes 2 e.1 ++ leBytes 1 2) (alnFlag 4 s) else s

/-- The TCP connections of stream `n` stand where the new entry is one of the same connections. -/
def tcpKept (a b : Image) (n : Nat) : Bool :=
  dirValid b n && dirTransport a n == dirTransport b n &&
    ([7, 8] ++ (List.range 8).map (· + 10)).all (fun w => imWord a secSTREAM_DIR n w == imWord b secSTREAM_DIR n w)

/-- Streams whose entry changed: λ, CLAIM_HI and every ingest record go, and the state is that of a connection (Table 4-11). A connection that
the new entry does not keep is lost (R129). -/
def strmRestart (kept : Bool) (n : Nat) (s : State) : State :=
  let r := strmOf s n
  let s := strmStart (if kept then r.ca else {}) (if kept then r.cb else {}) n { s with
    nv := { s.nv with lat := fdel s.nv.lat n, claimHi := fdel s.nv.claimHi n }
    ing := { s.ing with recs := s.ing.recs.filter (fun r => r.strm != n) } }
  ((List.range 2).filter (fun k => (r.conn k).up && !((strmOf s n).conn k).up)).foldl (fun s _ => raise 0x0405 (strmObj s n) [] s) s

/-- The first instant of group `g` at or after grid tick index `t`. -/
def restartInst (s : State) (g t : Nat) : Nat := firstInst s g t

/-- The oscillation bank (R218). Groups that restart clear their own signals when they start, and move the next instant of their families
then; a family that is new begins at the first instant of its groups. -/
def oscActivate (a : Image) (t : Nat) (s : State) : State :=
  let b := s.cfg.active
  let ns := changedIn a b secOSC_SIGNAL sigPortion
  let fresh := fun (n : Nat) => ns.contains n || !(groupPortion a (sigGroup b n) == groupPortion b (sigGroup b n))
  let s := ns.foldl (fun s n => sigStart n (restartInst s (sigGroup b n) t) s) s
  let ms := (changedIn a b secOSC_MODE modePortion ++ (imValid b secOSC_MODE).filter (fun m => (modeMembers b m).any fresh)).eraseDups
  let s := ms.foldl (fun s m => modMode m (fun k => { k with present := false, bin := none }) s) s
  let target := fun (k : Nat) => if imBit b secOSC_ALARM k 0 28 then ms.contains (almF b k 0 7 0) else fresh (almF b k 0 11 0)
  let as := (changedIn a b secOSC_ALARM almPortion ++ (imValid b secOSC_ALARM).filter target).eraseDups
  let s := as.foldl (fun s k => modAlm k (fun q => { q with active := false, count := 0 }) s) s
  let refs := ((imValid b secOSC_MODE).map (modeRef b)).eraseDups
  let fam := refs.map (fun r => (r, match fget? s.osc.famNext r with
    | some i => i
    | none => ((famGroups b r).map (fun g => restartInst s g t)).foldl max 0))
  { s with osc := { s.osc with famNext := fam.foldl (fun m e => fset m e.1 e.2) [] } }

/-- Interconnection `i` as both vintages know it is cleared, and its engine does not run. -/
def icnClear (a : Image) (i : Nat) (s : State) : State :=
  let b := s.cfg.active
  let isl := s.isl
  let gone := fun (f : Image → Nat → List Nat) (k : Nat) => !((f a i).contains k || (f b i).contains k)
  let isl := { isl with
    grps := isl.grps.filter (fun e => gone icnGrps e.1)
    pairs := isl.pairs.filter (fun e => gone icnPairs e.1)
    ties := isl.ties.filter (fun e => gone icnTies e.1)
    sigs := isl.sigs.filter (fun e => gone icnSigs e.1)
    icns := fset isl.icns i {} }
  { s with isl := isl }

/-- The island engines and the comparators (R241). -/
def islActivate (a : Image) (t : Nat) (s : State) : State :=
  let b := s.cfg.active
  let s := (List.range 4).foldl (fun s i =>
    if icnPortion a i == icnPortion b i then s
    else
      let gs := islGroups b i
      let s := icnClear a i s
      if !gs.isEmpty && gs.all (fun g => (grpOf s g).st == 2) then
        icnStart i ((gs.map (fun g => restartInst s g t)).foldl max 0) s else s) s
  (changedIn a b secISL_CMP (recPortion1 secISL_CMP)).foldl (fun s c =>
    let i := if cmpSrc b c < 6 then restartInst s (cmpGroup b c) t else max t (icnOf s (cmpIcn b c)).next
    modCmp c (fun _ => { next := i, tmo := t * 1000000000, path := gridNs s i }) s) s

/-- Sampled values: subscriptions, chains and bays (R188). -/
def svActivate (a : Image) (ns : Nat) (s : State) : State :=
  let b := s.cfg.active
  let s := (changedIn a b secSV_SUB (recPortion1 secSV_SUB)).foldl (fun s n => subStart n s) s
  let js := changedIn a b secSV_SLOT slotPortion
  let s := js.foldl (fun s j => modSlot j (fun _ => {}) s) s
  let bs := changedIn a b secBAY bayPortion
  { s with svf := { s.svf with
    warmDone := s.svf.warmDone.filter (fun k => !bs.contains k)
    changed := (changedIn a b secBAY (recPortion1 secBAY)).foldl (fun m k => fset m k ns) s.svf.changed } }

/-- Tasks, under the old vintage: a changed task's state goes. -/
def tasksOut (ts : List Nat) (s : State) : State := ts.foldl (fun s t => taskReset t s) s

/-- Tasks under the new vintage (R268), and tuned values (Table 14-13). -/
def tasksIn (a : Image) (ts : List Nat) (s : State) : State :=
  let b := s.cfg.active
  let s := ts.foldl (fun s t => taskReset t s) s
  let keep := fun (k : Nat) => imRec a secSCH_PARAM k == imRec b secSCH_PARAM k &&
    (match parTask b k with
     | some t => !ts.contains t && parTask a k == some t
     | none => false)
  let s := { s with cfg := { s.cfg with pars := s.cfg.pars.filter (fun e => keep e.1) } }
  { s with sch := { s.sch with tasks := s.sch.tasks.map (fun e => (e.1, { e.2 with runMax := 0 })) } }

/-- Recorders (R274): `rs` changed; an aligned one whose group runs on starts at the group's next instant, a waveform one at its first
sample. -/
def recsIn (rs : List Nat) (t ns : Nat) (s : State) : State :=
  let b := s.cfg.active
  rs.foldl (fun s r =>
    if !imBit b secCAP_REC r 0 31 then { s with cap := { s.cap with recs := fdel s.cap.recs r } }
    else if recWave b r then recStart r (ceilDiv (ns * recRate b r) 1000000000) s
    else if (grpOf s (recGroup b r)).st == 2 then
      recStart r (ceilDiv (restartInst s (recGroup b r) t) (max 1 (period s (recRate b r)))) s
    else modCapRec r (fun _ => {}) s) s

/-- Output streams and publications: a publication that changed makes a new state at once (R329, Table 12-9). -/
def pubActivate (a : Image) (s : State) : State :=
  let b := s.cfg.active
  let s := (List.range 256).foldl (fun s n =>
    if cfgChanges a b n then modOs n (fun r => { r with cfgCnt := (r.cfgCnt + 1) % 65536 }) s else s) s
  let s := (changedIn a b secOUT_STREAM osPortion).foldl (fun s n => osStart n s) s
  let s := { s with pub := { s.pub with os := s.pub.os.map (fun e => (e.1, { e.2 with cfgPend := false })) } }
  (changedIn a b secGOOSE gpPortion).foldl (fun s n =>
    let s := modGp n (fun r => { r with active := false }) s
    if imBit b secGOOSE n 0 31 then gooseTick n 0 s else s) s

/-- Metering points that change (R311): their open PQ events end. -/
def pointsOut (ps : List Nat) (s : State) : State := ps.foldl (fun s p => pqForce p s) s

/-- Ports that changed go down, to come up in the new mode. -/
def portsActivate (a : Image) (s : State) : State :=
  (List.range 14).foldl (fun s n => if portPortion a n == portPortion s.cfg.active n then s else portDown n false s) s

/-- Rights of function `n` (R402). -/
def rightsActivate (a : Image) (s : State) : State :=
  let word := fun (im : Image) (n w : Nat) => imWord im secPARTITION n w
  [0, 1, 2, 3].foldl (fun s n =>
    let b := s.cfg.active
    let was := bit (word a n 0) 31
    let is := bit (word b n 0) 31
    let same := (List.range 3).all (fun w => word a n w == word b n w)
    let s := if same then s else
      let s := setFnReg s n 0x1000E0 (readableBits s n 0 (fnReg s n 0x1000E0))
      setFnReg s n 0x1000E4 (readableBits s n 32 (fnReg s n 0x1000E4))
    if was && !is then dropHostTx n (flrReset n s)
    else if was && is && !same then
      let st := hifStat s n &&& 0x3800FFFF#32
      hifFlag n 6 (raise 0x0F04 (.fnOnly n) (leBytes 4 st.toNat ++ leBytes 4 b.vintage) s)
    else s) s

/-! ## The swap -/

/-- The boot slot becomes the slot that holds the new vintage's bytes (R388). -/
def bootFollows (s : State) : State :=
  let raw := s.cfg.activeRaw
  if slotHolds s 0 raw then { s with cfg := { s.cfg with boot := 0, volatile := false } }
  else if slotHolds s 1 raw then { s with cfg := { s.cfg with boot := 1, volatile := false } }
  else { s with cfg := { s.cfg with volatile := true } }

/-- The staged image takes force, and every batch buffer is empty. -/
def swapImage (im : Image) (s : State) : State :=
  let c : Cfg := { s.cfg with
    active := im
    activeRaw := s.cfg.stagedRaw
    src := s.cfg.stagedSrc
    staged := none
    stagedRaw := []
    stagedSrc := 0
    sched := none
    defaultsUsed := false
    lastAct := taiSec s }
  let hp : List Fn := s.hp.map (fun f => { f with batch := [] })
  let res : FMap ArbRes := s.arb.res.map (fun e => (e.1, { e.2 with maxLate := 0 }))
  let flows : FMap TskFlow := s.tsk.flows.map (fun e => (e.1,
    if imFlowCtx s.cfg.active e.1 = imFlowCtx im e.1 then e.2 else { e.2 with levels := [] }))
  bootFollows { s with cfg := c, hp := hp, arb := { s.arb with res := res }, tsk := { s.tsk with flows := flows } }

/-- CFG_EV_ACTIVATED with the old and new vintages. -/
def activated (old : Nat) (s : State) : State :=
  raise 0x0E02 .all (leBytes 4 old ++ leBytes 4 s.cfg.active.vintage) (count (CFG + 0x308) (cfgFlag 1 s))

/-- Output authority as the new vintage's pair registers leave it: a change is reported, and outputs follow it (R321, R421). `was` is the
authority before. -/
def authSwap (was : Bool) (s : State) : State :=
  if was && !authority s then authLost s else if !was && authority s then authEvent true s else s

/-- An activation at TAI second `sec`: everything of Table 14-13. -/
def activate (im : Image) (sec : Nat) (s : State) : State :=
  let a := s.cfg.active
  let was := authority s
  let t := sec * tps s
  let ns := sec * 1000000000
  let s := drain t (applyCommits s)
  let gs := (List.range 64).filter (fun g => !(groupPortion a g == groupPortion im g))
  let ts := changedIn a im secSCH_TASK taskPortion
  let rs := changedIn a im secCAP_REC recPortion
  let ps := changedIn a im secMTR_POINT (recPortion1 secMTR_POINT)
  let cut := (imValid a secCAP_REC).filter (fun r => rs.contains r || (!recWave a r && gs.contains (recGroup a r)))
  let s := cut.foldl (fun s r => truncateTake r (drainRec r s)) s
  let open_ := oldGroups gs s
  let s := gs.foldl (fun s g => scanDiscard g s) s
  let s := tasksOut ts (pointsOut ps s)
  let s := activated a.vintage (swapImage im s)
  let s := (changedIn a im secSTREAM_DIR (recPortion1 secSTREAM_DIR)).foldl (fun s n => strmRestart (tcpKept a im n) n s) s
  let s := open_.foldl (fun s e => groupRestart t e s) s
  let s := islActivate a t (oscActivate a t (svActivate a ns s))
  let s := recsIn rs t ns (tasksIn a ts s)
  let s := ((imValid a secMTR_POINT ++ imValid im secMTR_POINT).eraseDups).foldl (fun s p => mtrActivate a sec p s) s
  let s := portsActivate a (pubActivate a s)
  let s := if (List.range 192).all (fun k => imgReg a (PAIR + 4 * k) == imgReg im (PAIR + 4 * k)) then s else authSwap was (pairStart s)
  rightsActivate a s

/-- ACTIVATION (R388): the tick boundary at which the scheduled second begins has come. -/
def execActivation (s : State) : Out := act s fun s =>
  match s.cfg.sched, s.cfg.staged with
  | some sec, some im => if hasTime s && decide (sec * tps s ≤ s.tb.grid) then activate im sec s else s
  | _, _ => s

/-- Under factory defaults the staged image takes force as a power-up load would (R387). -/
def activateNow (im : Image) (s : State) : State :=
  let a := s.cfg.active
  let was := authority s
  let s := activated a.vintage (swapImage im s)
  let s := portsActivate a (startTables (restorePars s))
  rightsActivate a (authSwap was s)

/-- SCHEDULE_ACTIVATION (R387). -/
def execScheduleActivation (n key : Nat) (s : State) : Out := act s fun s =>
  cfgCtrl n key 5 (fun s => match s.cfg.staged with
    | none => cfgRefuse 5 22 s
    | some im =>
      if s.cfg.src = 0 then activateNow im s
      else if s.cfg.sched.isSome then cfgRefuse 5 23 s
      else
        let t := argSecond s n
        if schedRefused s im t then cfgRefuse 5 24 s
        else raise 0x0E03 .all (leBytes 4 im.vintage ++ leBytes 8 t) { s with cfg := { s.cfg with sched := some t } }) s

end Sys2Proof.Machine
end

