-- ==== Sys2Proof/Machine/Receive.lean ====
section
/-!
DEFINITION. Sys2Proof/Machine/Receive.lean: frames as they arrive and depart, the ingest classifier, links and PTP (R20, R42, R60, R62,
R84 to R92, R112, R330).
-/
namespace Sys2Proof.Machine

/-! ## The classifier (R20, Table 1-9) -/

/-- The VLAN identifier of a frame; 0 untagged. -/
def vidOf (f : Frame) : Nat :=
  match f.vlan with
  | some tci => tci % 4096
  | none => 0

/-- Destination MAC of HOST_ROUTE record `k`; 0 any. -/
def routeMac (im : Image) (k : Nat) : Nat := imFld im secHOST_ROUTE k 2 31 0 * 65536 + imFld im secHOST_ROUTE k 3 31 16

/-- The first host route that takes the frame (Table 14-5). -/
def hostRoute (im : Image) (f : Frame) : Option Nat :=
  (imValid im secHOST_ROUTE).find? (fun k =>
    let w := fun (i hi lo : Nat) => imFld im secHOST_ROUTE k i hi lo
    decide (f.port < 13) && Nat.testBit (w 0 12 0) f.port && (w 1 31 16 == 0 || w 1 31 16 == f.etype) &&
    (w 1 11 0 == 0xFFF || w 1 11 0 == vidOf f) && (routeMac im k == 0 || routeMac im k == f.dst))

/-- A frame of no other class: to its host route, or dropped and counted in RX_UNCLASSIFIED of the port (R90). -/
def toHost (f : Frame) (s : State) : State :=
  let im := s.cfg.active
  match hostRoute im f with
  | some k =>
    let n := imFld im secHOST_ROUTE k 0 30 29
    rxEnqueue n { ring := imFld im secHOST_ROUTE k 0 28 24 % 8, port := f.port, len := f.len, bytes := f.bytes, ts := if hasTime s then some f.rxTs else none,
                  vlan := f.vlan, route := k, copy := false, born := s.tb.tick } s
  | none => ethCount f.port 0x128 s

/-- Check 3 of Table 4-3 fails; `id` is the source identifier. -/
def undeclared (id : Nat) (s : State) : State :=
  raiseLimited 0x040A 0x040A .all (leBytes 2 id) (ingFlag 1 (count (ING + 0x300) s))

/-- The output stream to which a command frame with identifier `id` is bound (R330). -/
def bindOut (s : State) (f : Frame) (h : IpHdr) (id : Nat) : Option Nat :=
  let im := s.cfg.active
  (imValid im secOUT_STREAM).find? (fun n =>
    osF im n 0 15 0 == id &&
    (if osTcp im n then h.tcp && (osOf s n).clients.any (fun c => c.addr == h.src && c.port == h.sport && samePort im c.eport f.port)
     else !h.tcp && decide (f.port < 13) && Nat.testBit (osF im n 3 12 0) f.port && osF im n 3 27 16 == vidOf f && osF im n 9 15 0 == h.dport))

/-- Some output stream listens where the frame arrives. -/
def outPort (s : State) (f : Frame) (h : IpHdr) : Bool :=
  let im := s.cfg.active
  (imValid im secOUT_STREAM).any (fun n =>
    if osTcp im n then h.tcp && (osOf s n).clients.any (fun c => c.addr == h.src && c.port == h.sport && samePort im c.eport f.port)
    else !h.tcp && decide (f.port < 13) && Nat.testBit (osF im n 3 12 0) f.port && osF im n 9 15 0 == h.dport)

/-- The segment belongs to the established connection of bundle head `n` to its source. -/
def tcpSource (s : State) (n : Nat) (f : Frame) (h : IpHdr) : Bool :=
  let k := srcUnit s.cfg.active n h.src
  tcpHead s n k && addrMatch s.cfg.active n f h && ((strmOf s n).conn k).up && samePort s.cfg.active ((strmOf s n).conn k).port f.port

/-- A TCP connection on which CHK failed is reset (R129): that of a source stream, or of a client. -/
def tcpReset (f : Frame) (h : IpHdr) (s : State) : State :=
  let im := s.cfg.active
  if !h.tcp then s
  else
    let s := count (ING + 0x314) s
    let s := ((imValid im secSTREAM_DIR).filter (fun n => tcpSource s n f h)).foldl (fun s n => tcpDown n (srcUnit im n h.src) s) s
    (s.pub.os.map (·.1)).foldl (fun s n =>
      dropClients n (fun c => c.addr == h.src && c.port == h.sport && samePort im c.eport f.port) s) s

/-- Checks 1 to 3 of Table 4-3 on a C37.118.2 frame, and the engine that takes it (Table 4-4). -/
def classC37 (f : Frame) (h : IpHdr) (bs : List Byte) (s : State) : State :=
  let im := s.cfg.active
  let id := beAt bs 4 2
  if c37Malformed h bs then count (ING + 0x308) s
  else if !c37ChkOk bs then tcpReset f h (count (ING + 0x30C) s)
  else if c37Type bs = 4 then match bindOut s f h id with
    | some n => handOn .outCmd n f s
    | none => undeclared id s
  else match bindC37 im f h id with
    | none => undeclared id s
    | some n =>
      let t := c37Type bs
      let s := modStrm n (fun r => { r with peer := some (h.src, h.sport) }) s
      handOn (if t = 0 then .streamData else if t = 1 ∨ t = 2 then .streamHeader else .streamCfg) n f s

/-- A witness message of a type that the module does not handle in its mode is dropped; the others go to the pair engine. -/
def classWitness (f : Frame) (h : IpHdr) (bs : List Byte) (s : State) : State :=
  let t := beAt bs 0 2
  let mine := (pairMode s == 2 && decide (0x1011 ≤ t ∧ t ≤ 0x1013)) || (pairMode s == 1 && decide (t = 0x1021 ∨ t = 0x1022))
  if h.dport == hbUdp s || mine then handOn .witness 0 f s else witReject s

/-- The frames at the front of a byte stream, delimited by SYNC and FRAMESIZE (R129), how many malformed starts were skipped, and the bytes that
are no whole frame yet. A start that is no SYNC byte, or whose FRAMESIZE is below 16, is skipped to the next SYNC byte and counts once.
DESIGN CHOICE (assumption 41). -/
def cutFrames : Nat → List Byte → List (List Byte) × Nat × List Byte
  | 0, b => ([], 0, b)
  | k + 1, b =>
    let sync := fun (x : Byte) => x != 0xAA#8
    match b with
    | [] => ([], 0, [])
    | x :: rest =>
      if sync x then
        let (l, m, r) := cutFrames k (rest.dropWhile sync)
        (l, m + 1, r)
      else if b.length < 4 then ([], 0, b)
      else
        let sz := beAt b 2 2
        if sz < 16 then
          let (l, m, r) := cutFrames k (rest.dropWhile sync)
          (l, m + 1, r)
        else if b.length < sz then ([], 0, b)
        else
          let (l, m, r) := cutFrames k (b.drop sz)
          (b.take sz :: l, m, r)

/-- The stream whose established connection a segment belongs to. -/
def tcpStream (s : State) (f : Frame) (h : IpHdr) : Option Nat :=
  (imValid s.cfg.active secSTREAM_DIR).find? (fun n => tcpSource s n f h)

/-- The frames that a segment completes, while the connection stands: a CHK failure resets it. -/
def tcpFrames (up : State → Bool) (f : Frame) (h : IpHdr) (fs : List (List Byte)) (bad : Nat) (s : State) : State :=
  fs.foldl (fun s b => if up s then classC37 { f with payload := .ip h b false } h b s else s) (countN (ING + 0x308) 0xFFFF bad .all s)

/-- A TCP segment (R129): on a source's connection or a client's, an in-sequence segment joins the byte stream, one out of sequence is dropped
and counted in TCP_OOO of the source. Segments of no established connection are the firmware's. -/
def classTcp (f : Frame) (h : IpHdr) (bs : List Byte) (ooo : Bool) (s : State) : State :=
  match tcpStream s f h with
  | some n =>
    if ooo then strmCount n 15 s
    else
      let k := srcUnit s.cfg.active n h.src
      let b := ((strmOf s n).conn k).buf ++ bs
      let (fs, bad, rest) := cutFrames b.length b
      tcpFrames (fun s => ((strmOf s n).conn k).up) f h fs bad (modStrm n (fun r => r.modConn k (fun c => { c with buf := rest })) s)
  | none =>
    let im := s.cfg.active
    let is := fun (c : TcpClient) => c.addr == h.src && c.port == h.sport && samePort im c.eport f.port
    match (imValid s.cfg.active secOUT_STREAM).find? (fun n => osTcp s.cfg.active n && (osOf s n).clients.any is) with
    | some n =>
      if ooo then s
      else
        let b := (match (osOf s n).clients.find? is with
          | some c => c.buf
          | none => []) ++ bs
        let (fs, bad, rest) := cutFrames b.length b
        tcpFrames (fun s => (osOf s n).clients.any is) f h fs bad (modOs n (fun r => { r with
          clients := r.clients.map (fun c => if is c then { c with buf := rest } else c) }) s)
    | none => s

/-- A frame that carries part of an IP datagram. -/
def isFragment (f : Frame) : Bool :=
  match f.kind with
  | .ip h _ _ => h.frag
  | .rsv h _ => h.frag
  | _ => false

/-- The classifier on a frame that has passed the receive checks and duplicate discard. IP fragments are dropped (R115). -/
def classify (f : Frame) (s : State) : State :=
  let im := s.cfg.active
  if f.port = 13 then match f.payload with
    | .calfa _ => handOn .calfa 0 f s
    | _ => hbReject s
  else if isFragment f then count (ING + 0x308) s
  else match f.kind with
  | .ptp m =>
    if f.port < 12 ∧ m.transport = fld (imgReg im (TB + 0x4C)) 1 0 then handOn .ptp 0 f s else toHost f s
  | .supervision => if (pairOf im f.port).isSome then handOn .supervision 0 f s else toHost f s
  | .sv m => match bindSv im f m with
    | some n => handOn .sv n f s
    | none => count (ING + 0x304) s
  | .goose m => match bindGoose im f m with
    | some d => handOn .goose d f s
    | none => count (ING + 0x304) s
  | .rsv h m =>
    if !streamPort im f h then toHost f s
    else if !m.wellFormed then count (ING + 0x308) s
    else match bindRsv im f h with
      | some n => handOn .rsv n f s
      | none =>
        let (w, s) := fresh 16 s
        undeclared w.toNat s
  | .ip h bs ooo =>
    if pairMode s ≠ 0 && !h.tcp && (h.dport == witUdp s || h.dport == hbUdp s) then classWitness f h bs s
    else if xtOn s && !h.tcp && h.dport == fld (xtCfg s) 15 0 then handOn .cross 0 f s
    else if streamPort im f h || outPort s f h then (if h.tcp then classTcp f h bs ooo s else classC37 f h bs s)
    else toHost f s
  | _ => toHost f s

/-- The classifier on a PRP frame whose source address its pair does not declare (R100): it is undeclared, so it binds to nothing
(Table 1-9). Supervision frames are consumed as on any pair (R104). -/
def classifyUndeclared (f : Frame) (s : State) : State :=
  let im := s.cfg.active
  if isFragment f then count (ING + 0x308) s
  else match f.kind with
  | .supervision => classify f s
  | .sv _ => count (ING + 0x304) s
  | .goose _ => count (ING + 0x304) s
  | .rsv h m =>
    if !streamPort im f h then ethCount f.port 0x128 s
    else if !m.wellFormed then count (ING + 0x308) s
    else
      let (w, s) := fresh 16 s
      undeclared w.toNat s
  | .ip h bs _ =>
    if streamPort im f h || outPort s f h then
      (if c37Malformed h bs then count (ING + 0x308) s
       else if !c37ChkOk bs then tcpReset f h (count (ING + 0x30C) s)
       else undeclared (beAt bs 4 2) s)
    else ethCount f.port 0x128 s
  | _ => ethCount f.port 0x128 s

/-- A frame without a valid trailer on a member of a pair (R99). -/
def noRct (f : Frame) (s : State) : State :=
  match pairOf s.cfg.active f.port, f.rct.any (·.sizeOk) with
  | some p, false => prpCount p 0x1C s
  | _, _ => s

/-- A supervision frame that duplicate discard drops has been received and is counted in SUP_RX as every other (R104). -/
def dropped (f : Frame) (s : State) : State :=
  match f.kind, pairOf s.cfg.active f.port with
  | .supervision, some p => prpCount p 0x28 s
  | _, _ => s

/-- FRAME_RX (R86). The pairs discard duplicates of every frame but PTP (R103); a frame whose source address its pair does not declare has
no entry in the duplicate table, is counted in UNTRACKED and goes on (R100). -/
def execFrameRx (f : Frame) (s : State) : Out := act s fun s =>
  if 14 ≤ f.port ∨ !(portOf s f.port).linkUp then s
  else match rxChecks f s with
    | (s, false) => s
    | (s, true) => match f.kind with
      | .ptp _ => rxDrained f.port f.arrival (classify f (noRct f s))
      | _ => match prpDiscard f s with
        | (s, .drop) => rxDrained f.port f.arrival (dropped f s)
        | (s, .undeclared) => rxDrained f.port f.arrival (classifyUndeclared f s)
        | (s, .pass) => rxDrained f.port f.arrival (classify f s)

/-- PAUSE_FRAME_RX (R93): `f` carries a MAC control frame. -/
def execPauseFrameRx (f : Frame) (s : State) : Out := act s fun s =>
  match f.kind with
  | .macCtl _ _ => if 14 ≤ f.port ∨ !(portOf s f.port).linkUp then s else (rxChecks f s).1
  | _ => s

/-- FRAME_TX_COMPLETE (R92): frame `id` of port `n` has departed at `dep` ns and `sub` units of 2⁻¹⁶ ns. -/
def execFrameTxComplete (n id dep : Nat) (s : State) (sub : Nat := 0) : Out := act s fun s =>
  match txComplete n id dep sub s with
  | (s, some t) => frameDeparted t dep s
  | (s, none) => s

/-- LINK_DOWN (R84): `rxCut` says that a frame was being received. -/
def execLinkDown (n : Nat) (rxCut : Bool) (s : State) : Out := act s fun s =>
  if 14 ≤ n then s
  else
    let was := (portOf s n).linkUp
    let s := portDown n rxCut s
    if n = 13 ∧ was then calfaDown s else s

/-! ## PTP (R60, R62, R75, R76) -/

/-- PTP_MSG_RX (R60). -/
def execPtpMsgRx (s : State) : Out := act s (ptpMsgRx ptpHandle)

/-- clockClass of the module's own clock (R62). -/
def ownClass (s : State) : Nat :=
  match s.tb.state with
  | .locked => if s.tb.src = 2 && terrLe s 1000 then 6 else 248
  | .holdover => if terrLe s 1000 then 7 else 187
  | .notime => 248

/-- The rest of the module's own grandmaster data: R62 gives only its clockClass, so the values are free (assumption 24). -/
def ownGmData : GmData :=
  { prio1 := Config.ownGm 0 % 256, prio2 := Config.ownGm 1 % 256, accuracy := Config.ownGm 2 % 256, variance := Config.ownGm 3 % 65536,
    timeSource := Config.ownGm 4 % 256 }

/-- What Announce carries (R62). With the module's own clock, its UTC offset and leap flags are those in force, and its inaccuracy is
TERR with 50 ns added to a network inaccuracy of 0. DESIGN CHOICE (assumption 24): R62 gives only the clockClass. -/
def announceMsg (s : State) : PtpTx :=
  let p := ptpActive s
  let c37 := fld (imgReg s.cfg.active (TB + 0x4C)) 3 2 == 1
  let inacc := fun (add : Nat) (e : Option Nat) => if c37 then e.map (· + add) else none
  if s.tb.src = 1 then
    { kind := .announce, clockClass := p.gmClass, steps := p.steps + 1, gmId := s.tb.gm, ofs := p.ofs, leap61 := p.leap61, leap59 := p.leap59,
      gmData := p.gmData, timeInacc := inacc 0 p.timeInacc, netInacc := inacc 50 p.netInacc }
  else
    { kind := .announce, clockClass := ownClass s, gmId := Config.ownClockId, ofs := if s.tb.applied then some s.tb.ofs else none,
      leap61 := s.tb.leapPending && !s.tb.leapDir, leap59 := s.tb.leapPending && s.tb.leapDir, gmData := ownGmData,
      timeInacc := inacc 0 s.tb.terr, netInacc := inacc 50 (some 0) }

/-- Length of a PTP message as a frame with FCS: over Ethernet or UDP, event messages over UDP with two bytes more (R76). -/
def ptpLen (s : State) (k : PtpKind) : Nat :=
  let w := imgReg s.cfg.active (TB + 0x4C)
  let body := match k with
    | .announce => 64 + (if fld w 3 2 = 1 then Config.ptpTlvLen else 0)
    | .sync => 44
    | _ => 54
  18 + body + (if fld w 1 0 = 0 then 0 else (if fld w 1 0 = 1 then 28 else 48) + (if ptpEvent k then 2 else 0))

/-- PTP_MSG_TX (R62): Announce and Sync leave time-transmitter ports; Pdelay messages leave these and the two receiving ports. -/
def execPtpMsgTx (x : PtpSend) (s : State) : Out := act s fun s =>
  let w := imgReg s.cfg.active (TB + 0x4C)
  let n := x.port
  let tx := decide (n < 12) && Nat.testBit (fld w 23 12) n
  let rx := decide (n < 12) && (fld w 7 4 == n || fld w 11 8 == n)
  let tail := if ptpEvent x.kind && fld w 1 0 != 0 then some 0 else none
  let send := fun (m : PtpTx) => enqueue1 n (.ptp { m with tail := tail }) (ptpLen s m.kind) none none s
  match x.kind with
  | .announce => if tx then send (announceMsg s) else s
  | .sync => if tx then send { kind := .sync } else s
  | .pdelayReq => if tx || rx then send { kind := .pdelayReq } else s
  | .pdelayResp => if tx || rx then send { kind := .pdelayResp, reqRx := x.reqRx } else s
  | _ => s

end Sys2Proof.Machine
end

