-- ==== Sys2Proof/Machine/Boundary.lean ====
section
/-!
DEFINITION. Sys2Proof/Machine/Boundary.lean: the tick boundary, the provisional tick, the step, a timebase restart and the start of a group
(R50, R68, R78, R151, R166, R487).
-/
namespace Sys2Proof.Machine

/-! ## Tick boundaries -/

/-- Every policer adds its rate to its credit (R131, R171, Table 9-6). -/
def policerTicks (s : State) : State := dsPolicerTick (svPolicerTick (policerTick s))

/-- TICK_BOUNDARY (R50): `di` is the level of DI0 to DI15 at the boundary. A publication latches what changed before the boundary, so
publications run before the DI are sampled (R335). Before the first acquisition the tick counter stands (R28). -/
def execTickBoundary (di : BitVec 16) (s : State) (bad : List (Nat × Nat) := []) : Out := act s fun s =>
  if !s.tb.started then s
  else
    let old := s.tb.di
    let s := policerTicks (pairTick (timeTick (advance s)))
    let s := sampleDi di (gooseTicks bad (linkDownTick (pauseTick s)))
    let s := capTimeouts (capDi old (stnTick (doTick s)))
    schedMode (arbTick (dlTick s))

/-- PROVISIONAL_TICK (R487): before the first acquisition after power-up only delay list 3 and the policers advance. -/
def execProvisionalTick (s : State) : Out := act s fun s =>
  if s.tb.started || s.pwr.state != .run then s else dlProvisional (policerTicks (nextEdge s))

/-! ## The step (R68) -/

/-- The first grid tick boundary at or after the step: `was` says that the tick counter ran before it. -/
def stepFrom (was : Bool) (s : State) : Nat := if was then s.tb.grid + 1 else ceilDiv (s.tb.now * tps s) 1000000000

/-- TB_STEP (R68): source `src` is acquired at instant `ns` of its own scale, `since` ns after the tick boundary before it. Enabled groups
wait for their first instant (R151); the first step after power-up arms the capture set of a master (R285). -/
def execTbStep (src ns since : Nat) (s : State) : Out := act s fun s =>
  if s.tb.state == .notime && s.pwr.state == .run && (ranks s).find? (srcQualified s) == some src then
    let was := s.tb.started
    let s := timeStep src ns since s
    let t := stepFrom was s
    let s := (List.range 64).foldl (fun s g => if groupEn s.cfg.active g then grpWait g t s else s) s
    let s := (imValid s.cfg.active secMTR_POINT).foldl (fun s p => mtrBegin p s) s
    let s := if !was && xtMaster s && bit (imgReg s.cfg.active (CAP + 0xC)) 30 then masterArm s else s
    if was then s else schedMode s
  else s

/-! ## Timebase restart (R78, R166) -/

/-- The timebase after a restart: NOTIME, with the latched leap second and the offset kept. -/
def tbRestarted (s : State) : State :=
  { s with tb := { s.tb with
    restartReq := false
    state := .notime
    src := 0
    lost := false
    stbyUsed := false
    terr := none
    holdAge := 0
    limited := 0 } }

/-- Waveform chains and recorders restart (R188, R274, R281); policers keep their credit (R131). -/
def svRestart (s : State) : State :=
  let im := s.cfg.active
  let rs := imValid im secCAP_REC
  let s := rs.foldl (fun s r => truncateTake r (drainRec r s)) s
  let s := rs.foldl (fun s r => if recWave im r then modCapRec r (fun q => { q with started := false }) s else s) s
  { s with svf := { s.svf with
    subs := s.svf.subs.map (fun e => (e.1, { credit := e.2.credit, synced := e.2.synced, lastSmp := e.2.lastSmp }))
    slots := []
    warmDone := [] } }

/-- TIMEBASE_RESTART (R78): an accepted restart takes effect at a tick boundary. -/
def execTimebaseRestart (s : State) : Out := act s fun s =>
  if !s.tb.restartReq then s
  else
    let gs := (List.range 64).filter (fun g => groupEn s.cfg.active g)
    let s := svRestart (mtrRestart s)
    let s := { s with
      osc := { s.osc with famNext := [] }
      pub := { s.pub with os := s.pub.os.map (fun e =>
        (e.1, { e.2 with onAt := 0, clients := e.2.clients.map (fun c => { c with onAt := 0 }) })) } }
    let s := gs.foldl (fun s g => groupReinit g s.tb.grid (icnsStop g s)) s
    let s := dlDiscard { (tbRestarted s) with tsk := { s.tsk with recovery := true } }
    schedMode (refreshTq (raise 0x0207 .all [] s))

/-! ## The start of a group (R151) -/

/-- GROUP_START: the first instant of a waiting group has come. Its detectors, comparators and aligned recorders start with it
(R218, R235, R274), and the engine of an interconnection once all its groups run (R241). -/
def execGroupStart (g : Nat) (s : State) : Out := act s fun s =>
  if groupMayStart s g then groupRecs g (firstInst s g (grpOf s g).since) (groupStart g s) else s

end Sys2Proof.Machine
end

