-- ==== Sys2Proof/Machine/Dispatch.lean ====
section
/-!
DEFINITION. Sys2Proof/Machine/Dispatch.lean: the meaning of every command.
-/
namespace Sys2Proof.Machine

def exec (i : Instr) (s : State) : Host.Outcome State Fault Refusal :=
  match i with
  | .powerUp x => Sys2Proof.Machine.execPowerUp x s
  | .provisionalTick => Sys2Proof.Machine.execProvisionalTick s
  | .tickBoundary di bad => Sys2Proof.Machine.execTickBoundary di s bad
  | .tbStep src ns since => Sys2Proof.Machine.execTbStep src ns since s
  | .rateUpdate m => Sys2Proof.Machine.execRateUpdate m s
  | .holdoverTerrUpdate => Sys2Proof.Machine.execHoldoverTerrUpdate s
  | .sdtOffsetEstimate => Sys2Proof.Machine.execSdtOffsetEstimate s
  | .leapLatch => Sys2Proof.Machine.execLeapLatch s
  | .leapDone => Sys2Proof.Machine.execLeapDone s
  | .rtcSet => Sys2Proof.Machine.execRtcSet s
  | .ppsInEdge ns => Sys2Proof.Machine.execPpsInEdge ns s
  | .irigbFrameRx m => Sys2Proof.Machine.execIrigbFrameRx m s
  | .ptpMsgRx => Sys2Proof.Machine.execPtpMsgRx s
  | .ptpMsgTx x => Sys2Proof.Machine.execPtpMsgTx x s
  | .extLost => Sys2Proof.Machine.execExtLost s
  | .timebaseRestartRequest fn key => Sys2Proof.Machine.execTimebaseRestartRequest fn key s
  | .timebaseRestart => Sys2Proof.Machine.execTimebaseRestart s
  | .tbSnap fn ns => Sys2Proof.Machine.execTbSnap fn ns s
  | .tbUtcOfsWrite fn v => Sys2Proof.Machine.execTbUtcOfsWrite fn v s
  | .linkUp port pcs fec an speed => Sys2Proof.Machine.execLinkUp port pcs fec an speed s
  | .linkDown port rxCut => Sys2Proof.Machine.execLinkDown port rxCut s
  | .frameRx f => Sys2Proof.Machine.execFrameRx f s
  | .pauseFrameRx f => Sys2Proof.Machine.execPauseFrameRx f s
  | .pauseExpiry port ns => Sys2Proof.Machine.execPauseExpiry port ns s
  | .pauseHold port => Sys2Proof.Machine.execPauseHold port s
  | .pauseTxRepeat port ns => Sys2Proof.Machine.execPauseTxRepeat port ns s
  | .frameTxComplete port id dep sub => Sys2Proof.Machine.execFrameTxComplete port id dep s sub
  | .prpEntryExpiry ns => Sys2Proof.Machine.execPrpEntryExpiry ns s
  | .prpSupervisionTx pair => Sys2Proof.Machine.execPrpSupervisionTx pair s
  | .prpSupervisionRx => Sys2Proof.Machine.execPrpSupervisionRx s
  | .dataFrameRx => Sys2Proof.Machine.execDataFrameRx s
  | .cfgFrameRx => Sys2Proof.Machine.execCfgFrameRx s
  | .headerFrameRx => Sys2Proof.Machine.execHeaderFrameRx s
  | .rsvSpduRx => Sys2Proof.Machine.execRsvSpduRx s
  | .cfgRequestRepeat stream ns => Sys2Proof.Machine.execCfgRequestRepeat stream ns s
  | .tcpConnect stream conn port => Sys2Proof.Machine.execTcpConnect stream s conn port
  | .tcpDisconnect stream conn => Sys2Proof.Machine.execTcpDisconnect stream s conn
  | .tcpRetry stream ns => Sys2Proof.Machine.execTcpRetry stream ns s
  | .ingestRecordWrite chk => Sys2Proof.Machine.execIngestRecordWrite s chk
  | .tableParityReload sec => Sys2Proof.Machine.execTableParityReload sec s
  | .groupStart grp => Sys2Proof.Machine.execGroupStart grp s
  | .windowClose grp => Sys2Proof.Machine.execWindowClose grp s
  | .alignedSetSeal grp chk => Sys2Proof.Machine.execAlignedSetSeal grp chk s
  | .timeoutExpiry cmp => Sys2Proof.Machine.execTimeoutExpiry cmp s
  | .svFrameRx => Sys2Proof.Machine.execSvFrameRx s
  | .svMaxAgeExpiry sub ns => Sys2Proof.Machine.execSvMaxAgeExpiry sub ns s
  | .bayRecordWrite bay inst chk => Sys2Proof.Machine.execBayRecordWrite bay inst s chk
  | .bayLatencyDeadline bay inst ns chk => Sys2Proof.Machine.execBayLatencyDeadline bay inst ns s chk
  | .signalUpdate sig chk => Sys2Proof.Machine.execSignalUpdate sig chk s
  | .modeFamilyEvaluation ref chk => Sys2Proof.Machine.execModeFamilyEvaluation ref s chk
  | .islandEvaluation icn chk => Sys2Proof.Machine.execIslandEvaluation icn chk s
  | .scanSnapshot task chk => Sys2Proof.Machine.execScanSnapshot task s chk
  | .scanRun => Sys2Proof.Machine.execScanRun s
  | .gooseMessageRx => Sys2Proof.Machine.execGooseMessageRx s
  | .stationTalExpiry station => Sys2Proof.Machine.execStationTalExpiry station s
  | .captureSampleWrite rcd chk => Sys2Proof.Machine.execCaptureSampleWrite rcd s chk
  | .rearmExpiry rcd => Sys2Proof.Machine.execRearmExpiry rcd s
  | .capArmRecorder fn arg key => Sys2Proof.Machine.execCapArmRecorder fn arg key s
  | .capDisarmRecorder fn arg key => Sys2Proof.Machine.execCapDisarmRecorder fn arg key s
  | .capHostTrigger fn arg key => Sys2Proof.Machine.execCapHostTrigger fn arg key s
  | .capFreeTake fn arg key => Sys2Proof.Machine.execCapFreeTake fn arg key s
  | .capArmSet fn key => Sys2Proof.Machine.execCapArmSet fn key s
  | .capDisarmSet fn key => Sys2Proof.Machine.execCapDisarmSet fn key s
  | .armRepeat => Sys2Proof.Machine.execArmRepeat s
  | .armSpanExpiry => Sys2Proof.Machine.execArmSpanExpiry s
  | .crossTriggerMsgRx => Sys2Proof.Machine.execCrossTriggerMsgRx s
  | .cycleClose point => Sys2Proof.Machine.execCycleClose point s
  | .billingRecordSign => Sys2Proof.Machine.execBillingRecordSign s
  | .pulseOutputStep po ns => Sys2Proof.Machine.execPulseOutputStep po ns s
  | .mtrSnap fn => Sys2Proof.Machine.execMtrSnap fn s
  | .mtrRelease fn key => Sys2Proof.Machine.execMtrRelease fn key s
  | .outputFrameAssemble out chk => Sys2Proof.Machine.execOutputFrameAssemble out chk s
  | .cfgPendStart out => Sys2Proof.Machine.execCfgPendStart out s
  | .cmdTurnOff => Sys2Proof.Machine.execCmdTurnOff s
  | .cmdTurnOn => Sys2Proof.Machine.execCmdTurnOn s
  | .cmdSendHeader full => Sys2Proof.Machine.execCmdSendHeader s full
  | .cmdSendCfg1 full => Sys2Proof.Machine.execCmdSendCfg1 s full
  | .cmdSendCfg2 full => Sys2Proof.Machine.execCmdSendCfg2 s full
  | .cmdSendCfg3 full => Sys2Proof.Machine.execCmdSendCfg3 s full
  | .cmdBad => Sys2Proof.Machine.execCmdBad s
  | .pubTcpConnect out addr port eport => Sys2Proof.Machine.execPubTcpConnect out addr port eport s
  | .pubTcpDisconnect out addr port => Sys2Proof.Machine.execPubTcpDisconnect out addr port s
  | .gooseRepeat pub res => Sys2Proof.Machine.execGooseRepeat pub s res
  | .doMinOnExpiry land => Sys2Proof.Machine.execDoMinOnExpiry land s
  | .doHoldExpiry land => Sys2Proof.Machine.execDoHoldExpiry land s
  | .workItemDispatch engine unit x => Sys2Proof.Machine.execWorkItemDispatch engine unit x s
  | .workItemRelease flow adm next => Sys2Proof.Machine.execWorkItemRelease flow adm next s
  | .arbBeat done reqs => Sys2Proof.Machine.execArbBeat done reqs s
  | .lockOver res => Sys2Proof.Machine.execLockOver res s
  | .lstRewrite rq res lst => Sys2Proof.Machine.execLstRewrite rq res lst s
  | .tskTestEntry fn key => Sys2Proof.Machine.execTskTestEntry fn key s
  | .tskTestExit fn key => Sys2Proof.Machine.execTskTestExit fn key s
  | .tskSetLevel fn lvl key => Sys2Proof.Machine.execTskSetLevel fn lvl key s
  | .stageSlotA fn key => Sys2Proof.Machine.execStageSlotA fn key s
  | .stageSlotB fn key => Sys2Proof.Machine.execStageSlotB fn key s
  | .stagePush fn key => Sys2Proof.Machine.execStagePush fn key s
  | .stagingDone => Sys2Proof.Machine.execStagingDone s
  | .writeSlot fn key slot => Sys2Proof.Machine.execWriteSlot fn key slot s
  | .slotWriteDone => Sys2Proof.Machine.execSlotWriteDone s
  | .scheduleActivation fn key => Sys2Proof.Machine.execScheduleActivation fn key s
  | .cancelActivation fn key => Sys2Proof.Machine.execCancelActivation fn key s
  | .setBootSlot fn key slot => Sys2Proof.Machine.execSetBootSlot fn key slot s
  | .commitBatch fn key => Sys2Proof.Machine.execCommitBatch fn key s
  | .emptyBatch fn key => Sys2Proof.Machine.execEmptyBatch fn key s
  | .discardStaged fn key => Sys2Proof.Machine.execDiscardStaged fn key s
  | .cfgBatValWrite fn v => Sys2Proof.Machine.execCfgBatValWrite fn v s
  | .batchApply => Sys2Proof.Machine.execBatchApply s
  | .activation => Sys2Proof.Machine.execActivation s
  | .cfgFenceReqWrite fn v => Sys2Proof.Machine.execCfgFenceReqWrite fn v s
  | .registerFenceDone fn => Sys2Proof.Machine.execRegisterFenceDone fn s
  | .windowIndexWrite fn off v => Sys2Proof.Machine.execWindowIndexWrite fn off v s
  | .rcRegisterRead fn off => Sys2Proof.Machine.execRcRegisterRead fn off s
  | .w1cWrite fn off v => Sys2Proof.Machine.execW1cWrite fn off v s
  | .registerWrite fn off v => Sys2Proof.Machine.execRegisterWrite fn off v s
  | .badAccess fn read => Sys2Proof.Machine.execBadAccess fn read s
  | .commandFetch fn raw => Sys2Proof.Machine.execCommandFetch fn raw s
  | .cmdNop fn => Sys2Proof.Machine.execCmdNop fn s
  | .cmdFence fn => Sys2Proof.Machine.execCmdFence fn s
  | .fenceComplete fn => Sys2Proof.Machine.execFenceComplete fn s
  | .cmdImgPush fn data => Sys2Proof.Machine.execCmdImgPush fn data s
  | .cmdParBatch fn => Sys2Proof.Machine.execCmdParBatch fn s
  | .cmdTakeRead fn ok => Sys2Proof.Machine.execCmdTakeRead fn ok s
  | .cmdBillRead fn ok => Sys2Proof.Machine.execCmdBillRead fn ok s
  | .cmdMeterKeyGet fn ok => Sys2Proof.Machine.execCmdMeterKeyGet fn ok s
  | .cmdIdGet fn ok => Sys2Proof.Machine.execCmdIdGet fn ok s
  | .cmdQuote fn ok => Sys2Proof.Machine.execCmdQuote fn ok s
  | .cmdKeyPut fn blob => Sys2Proof.Machine.execCmdKeyPut fn blob s
  | .cmdKeyDerive fn => Sys2Proof.Machine.execCmdKeyDerive fn s
  | .cmdKeyErase fn => Sys2Proof.Machine.execCmdKeyErase fn s
  | .cmdLcTransition fn token => Sys2Proof.Machine.execCmdLcTransition fn token s
  | .cmdFwStage fn pkg => Sys2Proof.Machine.execCmdFwStage fn pkg s
  | .cmdFwRewrap fn => Sys2Proof.Machine.execCmdFwRewrap fn s
  | .cmdFwActivate fn => Sys2Proof.Machine.execCmdFwActivate fn s
  | .fwActivateReset => Sys2Proof.Machine.execFwActivateReset s
  | .cmdPairHandover fn => Sys2Proof.Machine.execCmdPairHandover fn s
  | .cmdPairHold fn => Sys2Proof.Machine.execCmdPairHold fn s
  | .cmdPairStatus fn => Sys2Proof.Machine.execCmdPairStatus fn s
  | .cmdDumpInfo fn => Sys2Proof.Machine.execCmdDumpInfo fn s
  | .cmdDumpRead fn ok => Sys2Proof.Machine.execCmdDumpRead fn ok s
  | .cmdDumpRelease fn => Sys2Proof.Machine.execCmdDumpRelease fn s
  | .cmdPwrReset fn => Sys2Proof.Machine.execCmdPwrReset fn s
  | .scheduledReset => Sys2Proof.Machine.execScheduledReset s
  | .cmdPwrSleep fn => Sys2Proof.Machine.execCmdPwrSleep fn s
  | .cmdUnusedOp fn => Sys2Proof.Machine.execCmdUnusedOp fn s
  | .eventPlace fn blk => Sys2Proof.Machine.execEventPlace fn blk s
  | .eventHoldExpiry fn blk => Sys2Proof.Machine.execEventHoldExpiry fn blk s
  | .harvestRecordWrite fn key => Sys2Proof.Machine.execHarvestRecordWrite fn key s
  | .harvestHoldExpiry fn key => Sys2Proof.Machine.execHarvestHoldExpiry fn key s
  | .hostRxDeliver fn ring addrs => Sys2Proof.Machine.execHostRxDeliver fn ring addrs s
  | .hostRxHoldExpiry fn ring => Sys2Proof.Machine.execHostRxHoldExpiry fn ring s
  | .hostTxFrame fn ring descs ok => Sys2Proof.Machine.execHostTxFrame fn ring descs ok s
  | .hostTxHoldExpiry fn port => Sys2Proof.Machine.execHostTxHoldExpiry fn port s
  | .dmaError fn code reason => Sys2Proof.Machine.execDmaError fn code reason s
  | .interruptSend fn src => Sys2Proof.Machine.execInterruptSend fn src s
  | .functionLevelReset fn => Sys2Proof.Machine.execFunctionLevelReset fn s
  | .busMasterDisable fn => Sys2Proof.Machine.execBusMasterDisable fn s
  | .perst hot => Sys2Proof.Machine.execPerst hot s
  | .heartbeatSend => Sys2Proof.Machine.execHeartbeatSend s
  | .heartbeatRx => Sys2Proof.Machine.execHeartbeatRx s
  | .heartbeatCheck => Sys2Proof.Machine.execHeartbeatCheck s
  | .leaseMessageSend => Sys2Proof.Machine.execLeaseMessageSend s
  | .grantRx => Sys2Proof.Machine.execGrantRx s
  | .denyRx => Sys2Proof.Machine.execDenyRx s
  | .authorityBegin => Sys2Proof.Machine.execAuthorityBegin s
  | .leaseEnd => Sys2Proof.Machine.execLeaseEnd s
  | .generationForm => Sys2Proof.Machine.execGenerationForm s
  | .genBlockRx => Sys2Proof.Machine.execGenBlockRx s
  | .genEndRx => Sys2Proof.Machine.execGenEndRx s
  | .generationTimeout gen => Sys2Proof.Machine.execGenerationTimeout gen s
  | .handoverReqRx => Sys2Proof.Machine.execHandoverReqRx s
  | .handoverInstant => Sys2Proof.Machine.execHandoverInstant s
  | .handoverTimeout => Sys2Proof.Machine.execHandoverTimeout s
  | .requestRx => Sys2Proof.Machine.execRequestRx s
  | .renewRx => Sys2Proof.Machine.execRenewRx s
  | .releaseRx => Sys2Proof.Machine.execReleaseRx s
  | .witnessLeaseExpiry pair ns => Sys2Proof.Machine.execWitnessLeaseExpiry pair ns s
  | .tamperDetect mask keyOp => Sys2Proof.Machine.execTamperDetect mask keyOp s
  | .pfailWarning ns ext => Sys2Proof.Machine.execPfailWarning ns ext s
  | .pfailRecover mv => Sys2Proof.Machine.execPfailRecover mv s
  | .uvloFall => Sys2Proof.Machine.execUvloFall s
  | .resetNLow => Sys2Proof.Machine.execResetNLow s
  | .sleepWake rtc => Sys2Proof.Machine.execSleepWake rtc s
  | .fatalError x => Sys2Proof.Machine.execFatalError x s
  | .tempThreshold temp => Sys2Proof.Machine.execTempThreshold temp s
  | .vinLowAlert mv => Sys2Proof.Machine.execVinLowAlert mv s
  | .vbatApplied => Sys2Proof.Machine.execVbatApplied s
  | .vbatLost => Sys2Proof.Machine.execVbatLost s
  | .resetNRelease => Sys2Proof.Machine.execResetNRelease s
  | .pfailNHigh mv => Sys2Proof.Machine.execPfailNHigh mv s
  | .perstNRelease => Sys2Proof.Machine.execPerstNRelease s
  | .busMasterEnable fn => Sys2Proof.Machine.execBusMasterEnable fn s

end Sys2Proof.Machine
end

