-- ==== Sys2Proof/Safety.lean ====
section
/-!
DEFINITION. Sys2Proof/Safety.lean: what holds in every state that the module reaches, and which parts of the state a command may write.
-/
namespace Sys2Proof.Machine

/-! ## The invariant -/

/-- What holds in every state that the module reaches, and in the reset state: there are four functions; the push buffer is canonical; the tick counter
stands at 0 until the first acquisition (R28, R487); at most 64 life-cycle transitions have been fused (R457); the module keeps at most the last 4,096
events (R502) and the tamper log at most 16 entries (R472). -/
structure Inv (s : State) : Prop where
  functions : s.hp.length = 4
  pushBuf : memWf s.cfg.pushBuf = true
  tick : s.tb.started = false → s.tb.tick = 0
  transitions : s.fuses.lcCtr ≤ 64
  events : s.evLog.length ≤ 4096
  tampers : s.vbat.tlog.length ≤ 16

/-- Bit `b` of the W1C register at `off` is set in every function's copy. -/
def flagged (t : State) (off b : Nat) : Prop := ∀ n, n < 4 → bit (fnReg t n off) b = true

/-- Frame `f` stands behind the frame in progress and those that waited at port `n`. -/
def queuedAt (s t : State) (n : Nat) (f : TxFrame) : Prop :=
  (portOf t n).cur.toList ++ (portOf t n).txq = (portOf s n).cur.toList ++ (portOf s n).txq ++ [f]

/-- From `s` to `t`, on every unpaired port of `mask` with its link up, where `len` bytes are no more than MAXLEN, one frame whose body satisfies `b`
waits behind those that waited. -/
def sentOn (s t : State) (mask len : Nat) (b : TxBody → Prop) : Prop :=
  ∀ k, k < 13 → Nat.testBit mask k = true → pairOf s.cfg.active k = none → (portOf s k).linkUp = true → max 64 len ≤ maxLen s k →
    ∃ f, queuedAt s t k f ∧ b f.body

/-- From `s` to `t` output stream `n` answers the command frame with IP header `h` by the C37.118.2 frame `bytes` of type `typ`: to the destination of
a UDP stream, to the client of a TCP stream that sent the command (R330). -/
def answers (s t : State) (n : Nat) (h : IpHdr) (typ : Nat) (bytes : List Byte) : Prop :=
  let im := s.cfg.active
  let body := fun (b : TxBody) => ∃ no, b = .out n no typ bytes
  if osTcp im n = true then
    ∀ c, (osOf s n).clients.find? (fun c => c.addr == h.src && c.port == h.sport) = some c →
      sentOn s t (connMask im c.eport) (ipLen c.addr (osF im n 3 27 16) bytes.length true) body
  else sentOn s t (osF im n 3 12 0) (ipLen (osDst im n) (osF im n 3 27 16) bytes.length false) body

/-- From `s`, of which `u` is the state with the command frame taken, to `t` output stream `n` has used one of the commands of its second (R330). -/
def commandUsed (s u t : State) (n : Nat) : Prop :=
  (osOf t n).cmdSec = limitSec u ∧ (osOf t n).cmdN = (if (osOf s n).cmdSec = limitSec u then (osOf s n).cmdN else 0) + 1

/-- The module runs, and the command in progress of function `n` has OP `op`, the bytes `raw`, the right that it needs, and no reserved byte other
than 0 outside its parameters `used` (R406). -/
def cmdReady (s : State) (n op : Nat) (used : List (Nat × Nat)) (raw : List Byte) : Prop :=
  alive s = true ∧ ∃ c, cmdOf s n op = some c ∧ c.raw = raw ∧ c.right = true ∧ reservedOk raw ([(0, 1), (2, 2)] ++ used) = true

/-- From `s` to `t` the command in progress of function `n` completes with this status and these results (R405, R407): no command is in progress, and
where its completion is written back, it stands at the old tail with the pass value of the PHASE bit, and the tail has moved on by one. -/
def completes (s t : State) (n status r0 r1 : Nat) : Prop :=
  (fnOf t n).cur = none ∧ ∀ c, (fnOf s n).cur = some c → c.silent = false → bit (hif s n 0x68) 31 = true →
    fget? (fnOf t n).cplRing ((hif s n 0x70).toNat % ringSize (hif s n 0x68) 4) =
      some (cplBytes c status (hif s n 0x50).toNat (fnOf s n).cplPhase r0 r1) ∧
    hif t n 0x70 = BitVec.ofNat 32 (((hif s n 0x70).toNat % ringSize (hif s n 0x68) 4 + 1) % ringSize (hif s n 0x68) 4)

/-! ## Frames -/

/-- The parts of the state that a frame speaks about. A part may lie inside another: `clock` inside `tb`. -/
inductive Item where
  /-- The whole timebase. -/
  | tb
  /-- The tick counter, whether it has started, and grid time (R50). -/
  | clock
  /-- TB_STAT.STATE. -/
  | timeState
  /-- The UTC offset in force (R46). -/
  | utcOfs
  /-- All of ETH. -/
  | eth
  /-- Ports: link, pause and transmit state. -/
  | ports
  /-- Frames handed on to engines (R20). -/
  | handed
  /-- The duplicate table (R101). -/
  | dup
  /-- All of ING. -/
  | ing
  /-- Run state of streams. -/
  | strms
  /-- Ingest records. -/
  | recs
  /-- All of ALN. -/
  | aln
  /-- Run state of groups. -/
  | grps
  /-- Votes (R161). -/
  | votes
  /-- Sealed sets. -/
  | sets
  /-- SVF. -/
  | svf
  /-- OSC. -/
  | osc
  /-- ISL. -/
  | isl
  /-- All of SCH. -/
  | sch
  /-- Stations, datasets and station inputs. -/
  | inputs
  /-- Output points and link variables. -/
  | points
  /-- Tasks and what their elements keep. -/
  | scans
  /-- All of CAP. -/
  | cap
  /-- Recorders. -/
  | recorders
  /-- Takes. -/
  | reel
  /-- Slates. -/
  | slates
  /-- All of MTR. -/
  | mtr
  /-- Metering points. -/
  | mtrPts
  /-- Pulse outputs. -/
  | pulses
  /-- All of the task scheduler. -/
  | tsk
  /-- Items, stalled items and delay lists. -/
  | work
  /-- The arbiter. -/
  | arb
  /-- All of PUB. -/
  | pub
  /-- Output streams. -/
  | outStreams
  /-- GOOSE publications. -/
  | goosePubs
  /-- Digital outputs. -/
  | dos
  /-- All of CFG. -/
  | cfg
  /-- The active vintage and its bytes. -/
  | active
  /-- The staged image. -/
  | staged
  /-- The flash slots and the boot slot. -/
  | slots
  /-- Tuned values in force. -/
  | pars
  /-- The staging buffer of IMG_PUSH. -/
  | pushBuf
  /-- The four functions whole. -/
  | hp
  /-- Registers kept per function. -/
  | hpRegs
  /-- Windows, latches, RC copies and read data. -/
  | hpShow
  /-- HIF counters. -/
  | hpCtr
  /-- Events that wait, and interrupts. -/
  | hpEv
  /-- The event queues. -/
  | hpEvq
  /-- The command in progress, completions, and what commands wrote to host memory. -/
  | hpCmd
  /-- Batch buffers. -/
  | hpBatch
  /-- Fences. -/
  | hpFence
  /-- Harvest rings. -/
  | hpHrv
  /-- Host receive and transmit frames. -/
  | hpFrames
  /-- Bus Master Enable and the link. -/
  | hpLink
  /-- All of PAIR. -/
  | pair
  /-- ROLE and authority. -/
  | role
  /-- The lease end and the witness state. -/
  | lease
  /-- The racked image. -/
  | genImg
  /-- All of SEC beside the stores. -/
  | sec
  /-- Whether the vault stands open. -/
  | unsealed
  /-- All of the cellar and flash. -/
  | nv
  /-- The vault root, stores and public keys. -/
  | vault
  /-- Firmware copies. -/
  | fw
  /-- The billing log. -/
  | bill
  /-- Metering banks. -/
  | banks
  /-- Saved parameter values. -/
  | savedPars
  /-- Dumps. -/
  | dumps
  /-- Latencies and claim numbers of streams. -/
  | latency
  /-- All of the VBAT domain. -/
  | vbat
  /-- The KEK. -/
  | kek
  /-- The RTC. -/
  | rtc
  /-- TB_UTC_OFS. -/
  | utcStored
  /-- The tamper log. -/
  | tlog
  /-- The fuses. -/
  | fuses
  /-- All of PWR. -/
  | pwr
  /-- The power state. -/
  | pwrState
  /-- Statistics counters. -/
  | cnt
  /-- Times of rate-limited events. -/
  | limits
  /-- The event log. -/
  | evLog
  /-- The number of the newest event. -/
  | evLogSeq
  /-- The model's own counter of free values. -/
  | free
  /-- The commands that wait. -/
  | queue
  /-- The part. -/
  | part
  deriving DecidableEq, Repr

/-- A part is the same in both states. -/
def Item.same (i : Item) (s t : State) : Prop :=
  match i with
  | .tb => t.tb = s.tb
  | .clock => (t.tb.tick, t.tb.started, t.tb.grid) = (s.tb.tick, s.tb.started, s.tb.grid)
  | .timeState => t.tb.state = s.tb.state
  | .utcOfs => t.tb.ofs = s.tb.ofs
  | .eth => t.eth = s.eth
  | .ports => t.eth.ports = s.eth.ports
  | .handed => t.eth.handed = s.eth.handed
  | .dup => t.eth.dup = s.eth.dup
  | .ing => t.ing = s.ing
  | .strms => t.ing.strms = s.ing.strms
  | .recs => t.ing.recs = s.ing.recs
  | .aln => t.aln = s.aln
  | .grps => t.aln.grps = s.aln.grps
  | .votes => t.aln.votes = s.aln.votes
  | .sets => t.aln.sets = s.aln.sets
  | .svf => t.svf = s.svf
  | .osc => t.osc = s.osc
  | .isl => t.isl = s.isl
  | .sch => t.sch = s.sch
  | .inputs => (t.sch.stns, t.sch.dss, t.sch.ins) = (s.sch.stns, s.sch.dss, s.sch.ins)
  | .points => (t.sch.points, t.sch.links) = (s.sch.points, s.sch.links)
  | .scans => (t.sch.tasks, t.sch.tmrs, t.sch.edges, t.sch.cvs, t.sch.latches, t.sch.wins, t.sch.emits) = (s.sch.tasks, s.sch.tmrs, s.sch.edges, s.sch.cvs, s.sch.latches, s.sch.wins, s.sch.emits)
  | .cap => t.cap = s.cap
  | .recorders => t.cap.recs = s.cap.recs
  | .reel => t.cap.takes = s.cap.takes
  | .slates => t.cap.slates = s.cap.slates
  | .mtr => t.mtr = s.mtr
  | .mtrPts => t.mtr.pts = s.mtr.pts
  | .pulses => t.mtr.pos = s.mtr.pos
  | .tsk => t.tsk = s.tsk
  | .work => (t.tsk.items, t.tsk.stalled, t.tsk.dls) = (s.tsk.items, s.tsk.stalled, s.tsk.dls)
  | .arb => t.arb = s.arb
  | .pub => t.pub = s.pub
  | .outStreams => t.pub.os = s.pub.os
  | .goosePubs => t.pub.gps = s.pub.gps
  | .dos => t.pub.dos = s.pub.dos
  | .cfg => t.cfg = s.cfg
  | .active => (t.cfg.active, t.cfg.activeRaw) = (s.cfg.active, s.cfg.activeRaw)
  | .staged => (t.cfg.staged, t.cfg.stagedRaw, t.cfg.stagedSrc) = (s.cfg.staged, s.cfg.stagedRaw, s.cfg.stagedSrc)
  | .slots => (t.cfg.slotA, t.cfg.slotB, t.cfg.boot) = (s.cfg.slotA, s.cfg.slotB, s.cfg.boot)
  | .pars => t.cfg.pars = s.cfg.pars
  | .pushBuf => t.cfg.pushBuf = s.cfg.pushBuf
  | .hp => t.hp = s.hp
  | .hpRegs => t.hp.map (fun f => f.regs) = s.hp.map (fun f => f.regs)
  | .hpShow => t.hp.map (fun f => (f.win, f.mtrLatch, f.rc, f.lastRead)) = s.hp.map (fun f => (f.win, f.mtrLatch, f.rc, f.lastRead))
  | .hpCtr => t.hp.map (fun f => f.ctr) = s.hp.map (fun f => f.ctr)
  | .hpEv => t.hp.map (fun f => (f.evWait, f.evGen, f.irq, f.msi)) = s.hp.map (fun f => (f.evWait, f.evGen, f.irq, f.msi))
  | .hpEvq => t.hp.map (fun f => (f.evRing, f.eseq, f.evLost, f.evPhase, f.startEv)) = s.hp.map (fun f => (f.evRing, f.eseq, f.evLost, f.evPhase, f.startEv))
  | .hpCmd => t.hp.map (fun f => (f.cur, f.cplPhase, f.cplRing, f.dma)) = s.hp.map (fun f => (f.cur, f.cplPhase, f.cplRing, f.dma))
  | .hpBatch => t.hp.map (fun f => (f.batch, f.batVint, f.batLast, f.batReason)) = s.hp.map (fun f => (f.batch, f.batVint, f.batLast, f.batReason))
  | .hpFence => t.hp.map (fun f => (f.fenceDrops, f.regDrops, f.cmdFence, f.regFence)) = s.hp.map (fun f => (f.fenceDrops, f.regDrops, f.cmdFence, f.regFence))
  | .hpHrv => t.hp.map (fun f => (f.hrvWait, f.hrvGen, f.lateDrop, f.hrvRing, f.hrvWb)) = s.hp.map (fun f => (f.hrvWait, f.hrvGen, f.lateDrop, f.hrvRing, f.hrvWb))
  | .hpFrames => t.hp.map (fun f => (f.rxWait, f.rxWb, f.rxData, f.txWait, f.txWb)) = s.hp.map (fun f => (f.rxWait, f.rxWb, f.rxData, f.txWait, f.txWb))
  | .hpLink => t.hp.map (fun f => (f.bme, f.width, f.speed)) = s.hp.map (fun f => (f.bme, f.width, f.speed))
  | .pair => t.pair = s.pair
  | .role => (t.pair.role, t.pair.auth) = (s.pair.role, s.pair.auth)
  | .lease => (t.pair.leaseEnd, t.pair.witAt, t.pair.witOk) = (s.pair.leaseEnd, s.pair.witAt, s.pair.witOk)
  | .genImg => t.pair.img = s.pair.img
  | .sec => t.sec = s.sec
  | .unsealed => (t.sec.unsealed, t.sec.rootIn, t.sec.store) = (s.sec.unsealed, s.sec.rootIn, s.sec.store)
  | .nv => t.nv = s.nv
  | .vault => (t.nv.root, t.nv.roots, t.nv.lcVault, t.nv.store0, t.nv.store1, t.nv.ownerKey, t.nv.imageKey) = (s.nv.root, s.nv.roots, s.nv.lcVault, s.nv.store0, s.nv.store1, s.nv.ownerKey, s.nv.imageKey)
  | .fw => (t.nv.fw0, t.nv.fw1, t.nv.fwLast) = (s.nv.fw0, s.nv.fw1, s.nv.fwLast)
  | .bill => (t.nv.log, t.nv.billSeq, t.nv.billHash, t.nv.lost) = (s.nv.log, s.nv.billSeq, s.nv.billHash, s.nv.lost)
  | .banks => (t.nv.bank0, t.nv.bank1) = (s.nv.bank0, s.nv.bank1)
  | .savedPars => (t.nv.pars, t.nv.parCheck) = (s.nv.pars, s.nv.parCheck)
  | .dumps => (t.nv.dumpSeq, t.nv.dump, t.nv.overHdr) = (s.nv.dumpSeq, s.nv.dump, s.nv.overHdr)
  | .latency => (t.nv.lat, t.nv.claimHi) = (s.nv.lat, s.nv.claimHi)
  | .vbat => t.vbat = s.vbat
  | .kek => t.vbat.kek = s.vbat.kek
  | .rtc => (t.vbat.rtc, t.vbat.rtcValid) = (s.vbat.rtc, s.vbat.rtcValid)
  | .utcStored => (t.vbat.utcOfs, t.vbat.utcValid) = (s.vbat.utcOfs, s.vbat.utcValid)
  | .tlog => t.vbat.tlog = s.vbat.tlog
  | .fuses => t.fuses = s.fuses
  | .pwr => t.pwr = s.pwr
  | .pwrState => t.pwr.state = s.pwr.state
  | .cnt => t.cnt = s.cnt
  | .limits => t.limits = s.limits
  | .evLog => t.evLog = s.evLog
  | .evLogSeq => t.evLogSeq = s.evLogSeq
  | .free => t.free = s.free
  | .queue => t.pending = s.pending
  | .part => t.part = s.part

/-- An event goes out (R408). -/
def Item.told : List Item :=
  [.hp, .hpEv, .evLog, .evLogSeq]

/-- Flags and events. -/
def Item.flagged : List Item :=
  [.hp, .hpRegs, .hpEv, .evLog, .evLogSeq]

/-- Flags, events and statistics counters. -/
def Item.tallied : List Item :=
  [.hp, .hpRegs, .hpEv, .cnt, .evLog, .evLogSeq]

/-- A request of a function that may be denied or refused. -/
def Item.asked : List Item :=
  [.hp, .hpRegs, .hpCtr, .hpEv, .evLog, .evLogSeq]

/-- A host command, with its completion (R406). -/
def Item.commanded : List Item :=
  [.hp, .hpRegs, .hpCtr, .hpEv, .hpCmd, .evLog, .evLogSeq]

/-- A frame is queued for ports. -/
def Item.sends : List Item :=
  [.eth, .ports, .hp, .hpRegs, .hpCtr, .hpEv, .hpFrames, .cnt, .evLog, .evLogSeq]

/-- An engine takes a frame that was handed on. -/
def Item.received : List Item :=
  [.tb, .eth, .handed, .hp, .hpRegs, .hpEv, .cnt, .evLog, .evLogSeq]

/-- Everything that a reset empties: all but the cellar's contents, the VBAT domain's contents, the fuses and the part (R495). -/
def Item.restarted : List Item :=
  [.tb, .clock, .timeState, .utcOfs, .eth, .ports, .handed, .dup, .ing, .strms, .recs, .aln, .grps, .votes, .sets, .svf, .osc, .isl, .sch, .inputs, .points, .scans, .cap, .recorders, .reel, .slates, .mtr, .mtrPts, .pulses, .tsk, .work, .arb, .pub, .outStreams, .goosePubs, .dos, .cfg, .active, .staged, .slots, .pars, .pushBuf, .hp, .hpRegs, .hpShow, .hpCtr, .hpEv, .hpEvq, .hpCmd, .hpBatch, .hpFence, .hpHrv, .hpFrames, .hpLink, .pair, .role, .lease, .genImg, .sec, .unsealed, .nv, .vbat, .pwr, .pwrState, .cnt, .limits, .evLog, .evLogSeq, .free]

/-- The parts that a command may write. Every other part stays as it is when the command answers a next state. -/
def writes (c : Instr) : List Item :=
  match c with
  | .powerUp _ => Item.restarted ++ [.vault, .fw, .bill, .kek, .rtc, .tlog, .fuses]
  | .provisionalTick => [.tb, .ing, .strms, .svf, .sch, .inputs, .tsk, .work, .hp, .hpShow]
  | .tickBoundary _ _ => Item.sends ++ [.tb, .clock, .timeState, .ing, .strms, .svf, .sch, .inputs, .cap, .recorders, .tsk, .work, .arb, .pub, .goosePubs, .dos, .hpShow, .pair, .lease, .vbat, .utcStored, .limits]
  | .tbStep _ _ _ => Item.sends ++ [.tb, .clock, .timeState, .utcOfs, .dup, .aln, .grps, .svf, .isl, .cap, .recorders, .mtr, .mtrPts, .pulses, .tsk, .pair, .nv, .vbat, .utcStored, .limits]
  | .rateUpdate _ => Item.flagged ++ [.tb]
  | .holdoverTerrUpdate => Item.told ++ [.tb]
  | .sdtOffsetEstimate => Item.told ++ [.tb]
  | .leapLatch => [.tb]
  | .leapDone => Item.flagged ++ [.tb, .utcOfs, .vbat, .utcStored]
  | .rtcSet => [.vbat, .rtc]
  | .ppsInEdge _ => [.tb]
  | .irigbFrameRx _ => Item.tallied ++ [.tb, .vbat, .utcStored]
  | .ptpMsgRx => Item.received ++ [.ports, .vbat, .utcStored]
  | .ptpMsgTx _ => Item.sends
  | .extLost => Item.flagged ++ [.tb]
  | .timebaseRestartRequest _ _ => Item.asked ++ [.tb]
  | .timebaseRestart => Item.sends ++ [.tb, .timeState, .aln, .grps, .sets, .svf, .osc, .isl, .sch, .scans, .cap, .recorders, .reel, .slates, .mtr, .mtrPts, .pulses, .tsk, .work, .pub, .outStreams, .hpHrv, .nv, .bill, .banks, .limits, .free]
  | .tbSnap _ _ => Item.asked ++ [.tb]
  | .tbUtcOfsWrite _ _ => Item.asked ++ [.vbat, .utcStored, .limits]
  | .linkUp _ _ _ _ _ => Item.flagged ++ [.eth, .ports]
  | .linkDown _ _ => Item.sends ++ [.pair]
  | .frameRx _ => Item.sends ++ [.tb, .handed, .dup, .ing, .strms, .pub, .outStreams, .hpShow, .limits, .free]
  | .pauseFrameRx _ => Item.tallied ++ [.tb, .eth, .ports, .hpShow]
  | .pauseExpiry _ _ => [.eth, .ports]
  | .pauseHold _ => Item.sends
  | .pauseTxRepeat _ _ => [.eth, .ports]
  | .frameTxComplete _ _ _ _ => Item.sends ++ [.tb, .pub]
  | .prpEntryExpiry _ => [.eth, .dup]
  | .prpSupervisionTx _ => Item.sends
  | .prpSupervisionRx => Item.received ++ [.ports]
  | .dataFrameRx => Item.sends ++ [.tb, .handed, .ing, .strms, .recs, .nv, .latency]
  | .cfgFrameRx => Item.sends ++ [.tb, .handed, .ing, .strms]
  | .headerFrameRx => Item.received ++ [.ports, .ing, .strms]
  | .rsvSpduRx => Item.received ++ [.ports, .ing, .strms, .recs, .nv, .latency, .limits]
  | .cfgRequestRepeat _ _ => Item.sends ++ [.tb, .ing, .strms]
  | .tcpConnect _ _ _ => Item.sends ++ [.ing, .strms]
  | .tcpDisconnect _ _ => Item.flagged ++ [.ing, .strms]
  | .tcpRetry _ _ => [.tb, .ing, .strms]
  | .ingestRecordWrite _ => Item.tallied ++ [.ing, .strms, .recs, .aln, .votes, .isl, .sch, .scans, .cap, .pub, .outStreams, .dos, .hpShow, .hpHrv, .limits]
  | .tableParityReload _ => Item.tallied
  | .groupStart _ => Item.tallied ++ [.aln, .grps, .votes, .osc, .isl, .sch, .scans, .cap, .recorders, .pub, .outStreams, .dos]
  | .windowClose _ => Item.tallied ++ [.aln, .grps, .sch, .scans]
  | .alignedSetSeal _ _ => Item.tallied ++ [.ing, .recs, .aln, .grps, .votes, .sets, .osc, .isl, .sch, .scans, .cap, .pub, .outStreams, .dos, .hpHrv, .limits]
  | .timeoutExpiry _ => Item.tallied ++ [.isl, .cap, .pub, .dos, .limits]
  | .svFrameRx => Item.received ++ [.ports, .svf, .mtr, .mtrPts, .nv, .limits]
  | .svMaxAgeExpiry _ _ => Item.tallied ++ [.tb, .svf, .mtr, .mtrPts, .nv, .limits]
  | .bayRecordWrite _ _ _ => Item.tallied ++ [.ing, .strms, .recs, .aln, .votes, .svf, .isl, .sch, .scans, .cap, .pub, .outStreams, .dos, .hpShow, .hpHrv, .limits]
  | .bayLatencyDeadline _ _ _ _ => Item.tallied ++ [.tb, .ing, .strms, .recs, .aln, .votes, .svf, .isl, .sch, .scans, .cap, .pub, .outStreams, .dos, .hpShow, .hpHrv, .limits]
  | .signalUpdate _ _ => Item.tallied ++ [.ing, .recs, .aln, .votes, .sets, .osc, .sch, .scans, .cap, .pub, .outStreams, .dos, .hpHrv, .limits]
  | .modeFamilyEvaluation _ _ => Item.tallied ++ [.aln, .sets, .osc, .cap, .pub, .dos, .hpHrv]
  | .islandEvaluation _ _ => Item.tallied ++ [.tb, .aln, .sets, .isl, .cap, .pub, .dos, .hpHrv, .limits]
  | .scanSnapshot _ _ => Item.tallied ++ [.aln, .sets, .sch, .scans]
  | .scanRun => Item.tallied ++ [.sch, .inputs, .points, .scans, .cap, .pub, .dos, .limits]
  | .gooseMessageRx => Item.received ++ [.ports, .sch, .inputs, .limits]
  | .stationTalExpiry _ => Item.tallied ++ [.sch, .inputs]
  | .captureSampleWrite _ _ => Item.sends ++ [.aln, .sets, .cap, .recorders, .reel, .slates, .hpHrv, .limits]
  | .rearmExpiry _ => Item.sends ++ [.cap, .recorders, .reel, .slates, .hpHrv, .limits]
  | .capArmRecorder _ _ _ => Item.asked ++ [.cap, .recorders]
  | .capDisarmRecorder _ _ _ => Item.asked ++ [.cap, .recorders]
  | .capHostTrigger _ _ _ => Item.asked ++ [.cap]
  | .capFreeTake _ _ _ => Item.asked ++ [.cap, .reel]
  | .capArmSet _ _ => Item.sends ++ [.cap, .recorders, .limits]
  | .capDisarmSet _ _ => Item.sends ++ [.cap, .recorders, .limits]
  | .armRepeat => Item.sends ++ [.cap, .recorders, .limits]
  | .armSpanExpiry => Item.told ++ [.cap, .recorders]
  | .crossTriggerMsgRx => Item.received ++ [.ports, .cap, .recorders, .limits]
  | .cycleClose _ => Item.tallied ++ [.mtr, .mtrPts, .pulses, .hpHrv, .nv, .bill, .banks, .limits, .free]
  | .billingRecordSign => Item.tallied ++ [.hpHrv, .nv, .bill, .limits]
  | .pulseOutputStep _ _ => [.tb, .mtr, .pulses]
  | .mtrSnap _ => Item.asked ++ [.hpShow]
  | .mtrRelease _ _ => Item.asked ++ [.hpHrv, .nv, .bill]
  | .outputFrameAssemble _ _ => Item.sends ++ [.aln, .sets, .pub, .outStreams, .limits]
  | .cfgPendStart _ => Item.told ++ [.pub, .outStreams]
  | .cmdTurnOff => Item.received ++ [.ports, .pub, .outStreams]
  | .cmdTurnOn => Item.received ++ [.ports, .pub, .outStreams]
  | .cmdSendHeader _ => Item.sends ++ [.tb, .handed, .pub, .outStreams]
  | .cmdSendCfg1 _ => Item.sends ++ [.tb, .handed, .pub, .outStreams]
  | .cmdSendCfg2 _ => Item.sends ++ [.tb, .handed, .pub, .outStreams]
  | .cmdSendCfg3 _ => Item.sends ++ [.tb, .handed, .pub, .outStreams]
  | .cmdBad => Item.received ++ [.ports, .limits]
  | .pubTcpConnect _ _ _ _ => Item.told ++ [.pub, .outStreams]
  | .pubTcpDisconnect _ _ _ => Item.told ++ [.pub, .outStreams]
  | .gooseRepeat _ _ => Item.sends ++ [.pub, .goosePubs, .limits]
  | .doMinOnExpiry _ => [.pub, .dos]
  | .doHoldExpiry _ => Item.tallied ++ [.pub, .dos]
  | .workItemDispatch _ _ _ => Item.tallied ++ [.tsk, .work, .hpShow]
  | .workItemRelease _ _ _ => Item.tallied ++ [.tsk, .work, .hpShow]
  | .arbBeat _ _ => Item.tallied ++ [.eth, .ports, .arb]
  | .lockOver _ => Item.tallied ++ [.arb]
  | .lstRewrite _ _ _ => Item.tallied ++ [.arb]
  | .tskTestEntry _ _ => Item.asked ++ [.tsk]
  | .tskTestExit _ _ => Item.asked ++ [.tsk]
  | .tskSetLevel _ _ _ => Item.tallied ++ [.tsk, .hpCtr]
  | .stageSlotA _ _ => Item.tallied ++ [.cfg, .staged, .hpCtr]
  | .stageSlotB _ _ => Item.tallied ++ [.cfg, .staged, .hpCtr]
  | .stagePush _ _ => Item.tallied ++ [.cfg, .staged, .hpCtr]
  | .stagingDone => Item.tallied ++ [.cfg, .staged, .slots]
  | .writeSlot _ _ _ => Item.asked ++ [.cfg, .slots]
  | .slotWriteDone => Item.tallied ++ [.cfg, .slots]
  | .scheduleActivation _ _ => Item.sends ++ [.ing, .strms, .aln, .grps, .svf, .sch, .inputs, .points, .scans, .mtr, .mtrPts, .pulses, .tsk, .arb, .pub, .outStreams, .dos, .cfg, .active, .staged, .slots, .pars, .hpShow, .hpEvq, .hpCmd, .hpBatch, .hpFence, .hpHrv, .pair, .role, .lease, .genImg]
  | .cancelActivation _ _ => Item.asked ++ [.pub, .outStreams, .cfg]
  | .setBootSlot _ _ _ => Item.asked ++ [.cfg, .slots]
  | .commitBatch _ _ => Item.tallied ++ [.cfg, .hpCtr, .hpBatch]
  | .emptyBatch _ _ => Item.asked ++ [.hpBatch]
  | .discardStaged _ _ => Item.asked ++ [.cfg, .staged]
  | .cfgBatValWrite _ _ => Item.asked ++ [.hpBatch]
  | .batchApply => Item.tallied ++ [.cfg, .pars, .nv, .savedPars]
  | .activation => Item.sends ++ [.tb, .handed, .ing, .strms, .recs, .aln, .grps, .votes, .sets, .svf, .osc, .isl, .sch, .inputs, .points, .scans, .cap, .recorders, .reel, .slates, .mtr, .mtrPts, .pulses, .tsk, .arb, .pub, .outStreams, .goosePubs, .dos, .cfg, .active, .staged, .slots, .pars, .hpShow, .hpEvq, .hpCmd, .hpBatch, .hpFence, .hpHrv, .pair, .role, .lease, .genImg, .nv, .bill, .banks, .savedPars, .latency, .limits, .free]
  | .cfgFenceReqWrite _ _ => Item.asked ++ [.hpFence]
  | .registerFenceDone _ => Item.asked ++ [.hpEvq, .hpFence]
  | .windowIndexWrite _ _ _ => Item.asked ++ [.hpShow]
  | .rcRegisterRead _ _ => [.hp, .hpShow]
  | .w1cWrite _ _ _ => Item.asked
  | .registerWrite _ _ _ => Item.commanded ++ [.mtr, .hpEvq, .hpHrv]
  | .badAccess _ _ => Item.asked ++ [.hpShow]
  | .commandFetch _ _ => [.hp, .hpRegs, .hpEv, .hpCmd, .hpHrv]
  | .cmdNop _ => Item.commanded
  | .cmdFence _ => Item.commanded ++ [.hpFence]
  | .fenceComplete _ => Item.commanded ++ [.hpEvq, .hpFence, .free]
  | .cmdImgPush _ _ => Item.commanded ++ [.cfg, .pushBuf]
  | .cmdParBatch _ => Item.commanded ++ [.cfg, .hpBatch, .cnt]
  | .cmdTakeRead _ _ => Item.commanded
  | .cmdBillRead _ _ => Item.commanded
  | .cmdMeterKeyGet _ _ => Item.commanded
  | .cmdIdGet _ _ => Item.commanded
  | .cmdQuote _ _ => Item.commanded ++ [.cnt]
  | .cmdKeyPut _ _ => Item.commanded ++ [.pair, .sec, .unsealed, .nv, .vault, .cnt, .limits]
  | .cmdKeyDerive _ => Item.commanded ++ [.pair, .sec, .unsealed, .nv, .vault, .cnt, .limits]
  | .cmdKeyErase _ => Item.commanded ++ [.pair, .sec, .unsealed, .nv, .vault]
  | .cmdLcTransition _ _ => Item.restarted ++ [.vault, .kek, .fuses]
  | .cmdFwStage _ _ => Item.commanded ++ [.sec, .nv, .fw]
  | .cmdFwRewrap _ => Item.commanded ++ [.sec, .nv, .vault]
  | .cmdFwActivate _ => Item.restarted ++ [.fw]
  | .fwActivateReset => Item.restarted
  | .cmdPairHandover _ => Item.sends ++ [.hpCmd, .pair, .role, .nv, .limits]
  | .cmdPairHold _ => Item.commanded ++ [.pair]
  | .cmdPairStatus _ => Item.commanded
  | .cmdDumpInfo _ => Item.commanded
  | .cmdDumpRead _ _ => Item.commanded
  | .cmdDumpRelease _ => Item.commanded ++ [.nv, .dumps]
  | .cmdPwrReset _ => Item.restarted ++ [.vault, .fw, .bill, .banks, .savedPars, .dumps, .latency]
  | .scheduledReset => Item.restarted ++ [.vault, .fw, .bill, .banks, .savedPars, .dumps, .latency]
  | .cmdPwrSleep _ => Item.commanded ++ [.tb, .eth, .ports, .mtr, .mtrPts, .pulses, .pub, .dos, .hpHrv, .nv, .bill, .banks, .vbat, .pwr, .pwrState, .cnt, .limits, .free]
  | .cmdUnusedOp _ => Item.commanded
  | .eventPlace _ _ => [.hp, .hpRegs, .hpEv, .hpEvq]
  | .eventHoldExpiry _ _ => Item.asked ++ [.hpEvq, .hpFence]
  | .harvestRecordWrite _ _ => [.hp, .hpRegs, .hpEv, .hpHrv]
  | .harvestHoldExpiry _ _ => Item.tallied ++ [.hpCtr, .hpHrv]
  | .hostRxDeliver _ _ _ => Item.asked ++ [.hpFrames]
  | .hostRxHoldExpiry _ _ => Item.asked ++ [.hpFrames]
  | .hostTxFrame _ _ _ _ => Item.sends
  | .hostTxHoldExpiry _ _ => Item.sends
  | .dmaError _ _ _ => Item.asked
  | .interruptSend _ _ => [.hp, .hpEv]
  | .functionLevelReset _ => [.eth, .ports, .hp, .hpRegs, .hpShow, .hpEv, .hpEvq, .hpCmd, .hpBatch, .hpFence, .hpHrv, .hpFrames, .hpLink]
  | .busMasterDisable _ => [.hp, .hpLink]
  | .perst _ => [.eth, .ports, .hp, .hpRegs, .hpShow, .hpEv, .hpEvq, .hpCmd, .hpBatch, .hpFence, .hpHrv, .hpFrames, .hpLink, .pwr]
  | .heartbeatSend => Item.sends ++ [.pair, .nv, .limits]
  | .heartbeatRx => Item.received ++ [.ports, .hpCtr, .hpCmd, .pair, .role, .limits]
  | .heartbeatCheck => Item.tallied ++ [.pair]
  | .leaseMessageSend => Item.sends ++ [.pair, .nv, .limits]
  | .grantRx => Item.received ++ [.ports, .pair, .lease, .nv, .limits]
  | .denyRx => Item.received ++ [.ports, .pub, .dos, .pair, .role, .lease, .limits]
  | .authorityBegin => Item.tallied ++ [.sch, .inputs, .points, .scans, .pub, .goosePubs, .dos, .cfg, .pars, .pair, .role, .nv, .savedPars, .latency]
  | .leaseEnd => Item.tallied ++ [.eth, .ports, .pub, .dos, .pair, .role]
  | .generationForm => Item.sends ++ [.pair, .genImg, .nv]
  | .genBlockRx => Item.received ++ [.ports, .pair]
  | .genEndRx => Item.sends ++ [.tb, .handed, .pair, .genImg, .nv, .limits]
  | .generationTimeout _ => Item.tallied ++ [.pair]
  | .handoverReqRx => Item.received ++ [.ports, .pair, .limits]
  | .handoverInstant => Item.sends ++ [.pub, .dos, .pair, .role, .genImg, .nv, .limits]
  | .handoverTimeout => Item.commanded ++ [.pair]
  | .requestRx => Item.sends ++ [.tb, .handed, .pair, .nv, .limits]
  | .renewRx => Item.sends ++ [.tb, .handed, .pair, .nv, .limits]
  | .releaseRx => Item.received ++ [.ports, .pair, .nv, .limits]
  | .witnessLeaseExpiry _ _ => [.tb, .pair]
  | .tamperDetect _ _ => Item.tallied ++ [.sec, .unsealed, .nv, .vault, .vbat, .kek, .tlog, .fuses, .limits]
  | .pfailWarning _ _ => Item.tallied ++ [.tb, .eth, .ports, .mtr, .mtrPts, .pulses, .pub, .dos, .hpHrv, .nv, .bill, .banks, .vbat, .pwr, .pwrState, .limits, .free]
  | .pfailRecover _ => Item.restarted ++ [.bill, .banks]
  | .uvloFall => Item.tallied ++ [.eth, .ports, .mtr, .pulses, .pub, .dos, .vbat, .kek, .rtc, .utcStored, .tlog, .pwr, .pwrState]
  | .resetNLow => Item.restarted
  | .sleepWake _ => Item.restarted ++ [.rtc]
  | .fatalError _ => Item.restarted ++ [.vault, .fw, .bill, .banks, .savedPars, .dumps, .latency]
  | .tempThreshold _ => Item.told ++ [.pwr]
  | .vinLowAlert _ => Item.told ++ [.pwr, .limits]
  | .vbatApplied => [.pwr, .pwrState]
  | .vbatLost => [.vbat, .kek, .rtc, .utcStored, .tlog, .pwr, .pwrState]
  | .resetNRelease => [.pwr]
  | .pfailNHigh _ => [.pwr]
  | .perstNRelease => [.pwr]
  | .busMasterEnable _ => [.hp, .hpLink]

/-- The commands by which the module may start anew: power-up and every reset of Table 18-7. -/
def mayRestart (c : Instr) : Bool :=
  match c with
  | .powerUp _ => true
  | .resetNLow => true
  | .sleepWake _ => true
  | .pfailRecover _ => true
  | .fatalError _ => true
  | .scheduledReset => true
  | .fwActivateReset => true
  | .cmdPwrReset _ => true
  | .cmdFwActivate _ => true
  | .cmdLcTransition _ _ => true
  | _ => false

end Sys2Proof.Machine
end

