-- ==== Sys2Proof/Certificates/Slice0/Obligations.lean ====
section
/-!
DEFINITION. Sys2Proof/Certificates/Slice0/Obligations.lean: the statements about the PZ7.
-/
set_option linter.unusedVariables false
open Sys2Proof Sys2Proof.Machine

/-- For every command c, rest of the queue and state s: a step of s with c in front and the rest behind it is exec of c on s with the rest as
its queue. -/
def Obligations.StepRunsFrontCommand : Prop :=
  ∀ (c : Instr) (rest : List Instr) (s : State),
    step { s with pending := c :: rest } = exec c { s with pending := rest }

/-- For every command c and state s, exec of c on s answers a next state, and so does every step. The specification gives every event an effect,
so no command of the block ends in a fault or a refusal. On an empty queue the block idles, the model's choice of assumption 1: the step
answers the state unchanged. -/
def Obligations.EveryStepAnswersANextState : Prop :=
  (∀ (c : Instr) (s : State), ∃ t, exec c s = .next t) ∧ (∀ s : State, ∃ t, step s = .next t) ∧
    ∀ s : State, s.pending = [] → step s = .next s

/-- If a step answers a next state, its queue is the old queue without its first command: no command removes, adds or reorders waiting commands. -/
def Obligations.StepTakesExactlyOneCommand : Prop :=
  ∀ s t : State, step s = .next t → t.pending = s.pending.tail

/-- For every command c: if exec of c answers a next state, then every part of the state that the list writes c does not name (register groups,
FIFOs, buffers, logs, keys, fuses, the queue) is the same as before. The lists are by command in Safety.lean. -/
def Obligations.EveryCommandWritesOnlyItsParts : Prop :=
  ∀ (c : Instr) (s t : State), exec c s = .next t → ∀ i : Item, i ∉ writes c → i.same s t

/-- For every state that satisfies Inv (four functions, a canonical staging buffer, a tick counter at 0 until it starts, at most 64 life-cycle
transitions, at most 4,096 logged events and 16 tamper log entries), a step that answers a next state answers one that satisfies Inv. -/
def Obligations.EveryStepKeepsTheInvariant : Prop :=
  ∀ s t : State, Inv s → step s = .next t → Inv t

/-- State.reset satisfies Inv, its queue is empty, the tick counter stands at 0 and has not started, TB_STAT.STATE is NOTIME, the power state is
STARTING and no image is active. -/
def Obligations.ResetSatisfiesTheInvariant : Prop :=
  Inv State.reset ∧ State.reset.pending = [] ∧ State.reset.tb.tick = 0 ∧ State.reset.tb.started = false ∧ State.reset.tb.state = .notime ∧
    State.reset.pwr.state = .starting ∧ State.reset.cfg.active = {}

/-- In every step, the fused security version, the fused count of life-cycle transitions and BILL_SEQ of the latest billing record are at least
what they were, and the part stays the part. -/
def Obligations.VersionsAndSequencesNeverFall : Prop :=
  ∀ s t : State, step s = .next t →
    s.fuses.svn ≤ t.fuses.svn ∧ s.fuses.lcCtr ≤ t.fuses.lcCtr ∧ s.nv.billSeq ≤ t.nv.billSeq ∧ t.part = s.part

/-- A command other than TICK_BOUNDARY, TB_STEP and the commands that start the module anew (power-up and every reset) leaves the tick counter,
whether it has started, and grid time as they are. -/
def Obligations.OnlyTimeCommandsMoveTheClock : Prop :=
  ∀ (c : Instr) (s t : State), exec c s = .next t →
    (∃ di bad, c = .tickBoundary di bad) ∨ (∃ a b d, c = .tbStep a b d) ∨ mayRestart c ∨
      (t.tb.tick = s.tb.tick ∧ t.tb.started = s.tb.started ∧ t.tb.grid = s.tb.grid)

/-- A command other than ACTIVATION, SCHEDULE_ACTIVATION (which activates at once under factory defaults) and the commands that start the module
anew leaves the active vintage, and the bytes it was loaded from, as they are. -/
def Obligations.OnlyActivationAndResetsChangeTheImage : Prop :=
  ∀ (c : Instr) (s t : State), exec c s = .next t →
    c = .activation ∨ (∃ n k, c = .scheduleActivation n k) ∨ mayRestart c ∨
      (t.cfg.active = s.cfg.active ∧ t.cfg.activeRaw = s.cfg.activeRaw)

/-- While the tick counter runs, TICK_BOUNDARY answers a state in which the tick counter is one higher (as a 64-bit count) and still runs, grid
time is one tick higher if it runs and otherwise as it was, and DI0 to DI15 read as sampled. Before the first acquisition a tick boundary
changes nothing. PROVISIONAL_TICK before it, in RUN, answers the state in which module time is one tick later, the policers have advanced
and delay list 3 has counted down; it leaves the tick counter, whether it has started, and grid time as they are. COMPLETION: exec answers a
next state, under conditions on the state and the operands alone, for tickBoundary, provisionalTick. -/
def Obligations.TickBoundaryAdvancesTheCounter : Prop :=
  (∀ (s : State) (di : BitVec 16) (bad : List (Nat × Nat)), alive s → s.tb.started = true →
    ∃ t, exec (.tickBoundary di bad) s = .next t ∧ t.tb.tick = (s.tb.tick + 1) % 2 ^ 64 ∧
      t.tb.grid = (if hasTime s then s.tb.grid + 1 else s.tb.grid) ∧ t.tb.started = true ∧ t.tb.di = di) ∧
  (∀ (s : State) (di : BitVec 16) (bad : List (Nat × Nat)), s.tb.started = false → exec (.tickBoundary di bad) s = .next s) ∧
  (∀ s : State, s.pwr.state = .run → s.tb.started = false →
    ∃ t, exec .provisionalTick s = .next t ∧ t = dlProvisional (policerTicks (nextEdge s)) ∧
      t.tb.tick = s.tb.tick ∧ t.tb.started = false ∧ t.tb.grid = s.tb.grid)

/-- TB_STEP of the highest ranked qualified source, in RUN and NOTIME: the module is LOCKED to it, the tick counter runs, has not jumped, and
the offset in force is the one R46 gives. TIMEBASE_RESTART of an accepted request: the state is NOTIME, no source is in use, no request
waits, and the tick counter and grid label are as they were. TIMEBASE_RESTART_REQUEST is taken when no reason of R79 applies, and otherwise
sets TB_STAT.RESTART_REFUSED and leaves the request as it was. COMPLETION: exec answers a next state, under conditions on the state and the
operands alone, for tbStep, timebaseRestart, timebaseRestartRequest. -/
def Obligations.StepAndRestartOfGridTime : Prop :=
  (∀ (s : State) (src ns since : Nat), s.pwr.state = .run → s.tb.state = .notime → (ranks s).find? (srcQualified s) = some src →
    ∃ t, exec (.tbStep src ns since) s = .next t ∧ t.tb.state = .locked ∧ t.tb.src = src ∧ t.tb.started = true ∧ t.tb.tick = s.tb.tick ∧
      t.tb.ofs = (stepOfs s src).1) ∧
  (∀ s : State, alive s → s.tb.restartReq = true →
    ∃ t, exec .timebaseRestart s = .next t ∧ t.tb.state = .notime ∧ t.tb.src = 0 ∧ t.tb.restartReq = false ∧
      t.tb.tick = s.tb.tick ∧ t.tb.grid = s.tb.grid ∧ t.tb.started = s.tb.started) ∧
  (∀ (s : State) (n key : Nat), alive s → validFn s n → restartReason n key s = 0 →
    exec (.timebaseRestartRequest n key) s = .next { s with tb := { s.tb with restartReq := true } }) ∧
  (∀ (s : State) (n key : Nat), s.hp.length = 4 → alive s → validFn s n → restartReason n key s ≠ 0 →
    ∃ t, exec (.timebaseRestartRequest n key) s = .next t ∧ t.tb = s.tb ∧ flagged t (TB + 4) 3)

/-- While a source is in use (LOCKED), RATE_UPDATE with filtered offset o and frequency error f shows in TB_RATE the value -f - o/16 (quotient
towards zero) clamped to ±SLEW_LIM × 1,000 ppb, and leaves the tick counter and grid time as they are. COMPLETION: exec answers a next
state, under conditions on the state and the operands alone, for rateUpdate. -/
def Obligations.RateCorrectionIsClamped : Prop :=
  ∀ (s : State) (m : RateMeas), alive s → s.tb.state = .locked →
    ∃ t, exec (.rateUpdate m) s = .next t ∧
      t.tb.rate = clampI ((fld (imgReg s.cfg.active (TB + 0xC)) 5 0 : Int) * 1000) (-m.f - Int.tdiv m.o 16) ∧
      t.tb.tick = s.tb.tick ∧ t.tb.grid = s.tb.grid

/-- HOLDOVER_TERR_UPDATE in holdover: TB_HOLD_AGE rises by one second and TB_TERR is TERR0 + D t + A t²/2 at the new age, or unknown from 2^32 −
1 ns. SDT_OFFSET_ESTIMATE: the offset estimate is the lower median of the offsets o of the eligible frames of the cyc (kept when there is
none), their number is shown, and the frames are used up. COMPLETION: exec answers a next state, under conditions on the state and the
operands alone, for holdoverTerrUpdate, sdtOffsetEstimate. -/
def Obligations.HoldoverAndStreamEstimate : Prop :=
  (∀ s : State, alive s → s.tb.state = .holdover →
    ∃ t, exec .holdoverTerrUpdate s = .next t ∧ t.tb.holdAge = s.tb.holdAge + 1 ∧ t.tb.tick = s.tb.tick ∧
      t.tb.terr = (if holdTerr s (s.tb.holdAge + 1) < 0xFFFFFFFF then some (holdTerr s (s.tb.holdAge + 1)) else none)) ∧
  (∀ s : State, alive s →
    ∃ t, exec .sdtOffsetEstimate s = .next t ∧ t.tb.sdtCyc = [] ∧ t.tb.sdtElig = s.tb.sdtCyc.length ∧
      t.tb.sdtOfs = (if s.tb.sdtCyc.length = 0 then s.tb.sdtOfs
        else lowerMedian ((s.tb.sdtCyc.map (fun e => e.2.1)).mergeSort (· ≤ ·))))

/-- LEAP_LATCH at the boundary of 23:59:00 UTC latches whether a leap second is announced and in which direction. LEAP_DONE at the end of the
day moves the offset in force by one second (up for an insertion, down for a deletion), stores it, ends the latch, and leaves the tick
counter and the grid index as they are. COMPLETION: exec answers a next state, under conditions on the state and the operands alone, for
leapLatch, leapDone. -/
def Obligations.LeapSeconds : Prop :=
  (∀ s : State, alive s → hasTime s → s.tb.grid % tps s = 0 → utcNow s % 86400 = 86340 →
    ∃ t, exec .leapLatch s = .next t ∧ t.tb.leapPending = (leapAnnounced s != 0) ∧ t.tb.leapDir = (leapAnnounced s == 2) ∧
      t.tb.ofs = s.tb.ofs) ∧
  (∀ s : State, alive s → hasTime s → s.tb.leapPending = true → s.tb.grid % tps s = 0 →
    utcNow s = (if s.tb.leapDir then leapMidnight s - 1 else leapMidnight s + 1) →
    ∃ t, exec .leapDone s = .next t ∧ t.tb.ofs = (if s.tb.leapDir then s.tb.ofs - 1 else s.tb.ofs + 1) ∧ t.tb.leapPending = false ∧
      t.vbat.utcOfs = t.tb.ofs ∧ t.vbat.utcValid = true ∧ t.tb.tick = s.tb.tick ∧ t.tb.grid = s.tb.grid)

/-- EXT_LOST while EXT10M_IN is the reference: the reference is the TCXO, the flag and the event are raised, and nothing else changes: the clock
does not step. RTC_SET while LOCKED: the RTC holds the present instant and is valid, and nothing else changes. A TB_UTC_OFS write by an
image-loading function while FROM_SRC = 0 stores OFS and sets VALID and changes nothing of the timebase; while FROM_SRC = 1 (the source in
use supplies the offset) it changes nothing. COMPLETION: exec answers a next state, under conditions on the state and the operands alone,
for extLost, rtcSet, tbUtcOfsWrite. -/
def Obligations.ReferenceRtcAndOffsetRegister : Prop :=
  (∀ s : State, alive s → s.tb.ref = 1 →
    exec .extLost s = .next (raise 0x0209 .all [] (tbFlag 7 { s with tb := { s.tb with ref := 0 } }))) ∧
  (∀ s : State, alive s → s.tb.state = .locked →
    exec .rtcSet s = .next { s with vbat := { s.vbat with rtc := s.tb.now, rtcValid := true } }) ∧
  (∀ (s : State) (n : Nat) (v : Word), alive s → imgLoad s n → fromSrc s = false →
    exec (.tbUtcOfsWrite n v) s = .next { s with vbat := { s.vbat with utcOfs := sint 16 (fld v 15 0), utcValid := true } }) ∧
  (∀ (s : State) (n : Nat) (v : Word), alive s → imgLoad s n → fromSrc s = true → exec (.tbUtcOfsWrite n v) s = .next s)

/-- TB_SNAP by a valid function n while grid time runs: TB_SNAP_SEC, TB_SNAP_NS, TB_SNAP_GRID, TB_SNAP_SOC and TB_SNAP_TICK of that function
hold the TAI second, the nanosecond, cycle and tick, u modulo 2^32 and the tick counter of the same instant; every other function keeps its
registers. COMPLETION: exec answers a next state, under conditions on the state and the operands alone, for tbSnap. -/
def Obligations.SnapshotOfTheTimebase : Prop :=
  ∀ (s : State) (n ns : Nat), s.hp.length = 4 → alive s → validFn s n → hasTime s → s.tb.now ≤ ns →
    ∃ t, exec (.tbSnap n ns) s = .next t ∧
      fnReg t n (TB + 0x10) = BitVec.ofNat 32 (ns / 1000000000) ∧ fnReg t n (TB + 0x14) = BitVec.ofNat 32 (ns / 1000000000 / 2 ^ 32) ∧
      fnReg t n (TB + 0x18) = BitVec.ofNat 32 (ns % 1000000000) ∧
      fnReg t n (TB + 0x1C) = BitVec.ofNat 32 (s.tb.grid % tps s / 1024 * 65536 + s.tb.grid % tps s % 1024) ∧
      fnReg t n (TB + 0x20) = BitVec.ofNat 32 (uint 32 ((ns / 1000000000 : Nat) - s.tb.ofs)) ∧
      fnReg t n (TB + 0x24) = BitVec.ofNat 32 s.tb.tick ∧ fnReg t n (TB + 0x28) = BitVec.ofNat 32 (s.tb.tick / 2 ^ 32) ∧
      ∀ m r, m ≠ n → fnReg t m r = fnReg s m r

/-- PPS_IN_EDGE puts the edge in front of the last seconds, of which four are held, with whether it lies 1 s ± 10 µs behind the edge before it.
An IRIG-B frame with the IEEE 1344 extensions and good parity is taken: its time quality, offset and leap announcement are held, and every
edge within ±5 µs of its marker is labelled with the coded second plus the IEEE 1344 time offset. Another frame (that one without the
extensions is such a frame is the reading of assumption 22) is discarded and counted in TB_CNT_IRIG_ERR, and the seconds, time quality and
offset stay as they are. COMPLETION: exec answers a next state, under conditions on the state and the operands alone, for ppsInEdge,
irigbFrameRx. -/
def Obligations.PpsAndIrigB : Prop :=
  (∀ (s : State) (ns : Nat), alive s →
    ∃ t, exec (.ppsInEdge ns) s = .next t ∧ t.tb.pps = ({ edge := ns, spaced := match s.tb.pps with
      | p :: _ => decide (p.edge + 999990000 ≤ ns ∧ ns ≤ p.edge + 1000010000)
      | [] => false } :: s.tb.pps).take 4) ∧
  (∀ (s : State) (m : IrigFrame), alive s → m.parityOk = true → m.ext = true →
    ∃ t, exec (.irigbFrameRx m) s = .next t ∧ t.tb.irigPresent = true ∧ t.tb.irigTq = m.tq ∧ t.tb.irigOfs = m.ofs ∧ t.tb.irigLeap = m.leap ∧
      t.tb.pps = s.tb.pps.map (fun p => if p.edge ≤ m.marker + 5000 ∧ m.marker ≤ p.edge + 5000 then
        { p with irigOk := true, agree := true, label := some (m.coded + m.offset), tq := m.tq } else p)) ∧
  (∀ (s : State) (m : IrigFrame), alive s → (m.parityOk = false ∨ m.ext = false) →
    ∃ t, exec (.irigbFrameRx m) s = .next t ∧ counter t (TB + 0x78) 0xFFFF = counter s (TB + 0x78) 0xFFFF + 1#32 ∧ t.tb.pps = s.tb.pps ∧
      t.tb.irigOfs = s.tb.irigOfs ∧ t.tb.irigTq = s.tb.irigTq)

/-- PTP_MSG_RX takes the oldest PTP message handed on. A management, signalling or unsupported message, a message of another domain or with a
bad time is discarded and counted in TB_CNT_PTP_BAD. Any other message on the time-receiver port changes what is known of that port and
leaves the hot-standby port, and one on the hot-standby port the other way round: the BMCA result of the message is the port state; an
Announce of the best master (the comparison is that of assumption 200) gives the grandmaster and its data, the steps removed, the UTC offset
and the leap flags, another Announce nothing more; Sync and Follow_Up are the latest Sync; Pdelay_Resp and Pdelay_Resp_Follow_Up give the
mean link delay. PTP_MSG_TX of Announce or Sync on a time-transmitter port, and of Pdelay_Req or Pdelay_Resp on any PTP port, with its link
up, queues that message there behind the frames that wait. PTP_MSG_TX of another message type changes nothing. COMPLETION: exec answers a
next state, under conditions on the state and the operands alone, for ptpMsgRx, ptpMsgTx. -/
def Obligations.PtpMessages : Prop :=
  (∀ (s u : State) (h : Handed) (m : PtpMsg), alive s → takeHanded .ptp s = some (h, u) → h.frame.kind = .ptp m →
    (m.kind = .management ∨ m.kind = .signalling ∨ m.kind = .other ∨ m.bad = true ∨ m.domain ≠ fld (imgReg s.cfg.active (TB + 0x4C)) 31 24) →
    exec .ptpMsgRx s = .next (count (TB + 0x7C) u)) ∧
  (∀ (s u : State) (h : Handed) (m : PtpMsg), alive s → takeHanded .ptp s = some (h, u) → h.frame.kind = .ptp m →
    m.kind ≠ .management → m.kind ≠ .signalling → m.kind ≠ .other → m.bad = false → m.domain = fld (imgReg s.cfg.active (TB + 0x4C)) 31 24 →
    (h.frame.port = fld (imgReg s.cfg.active (TB + 0x4C)) 7 4 →
      ∃ t, exec .ptpMsgRx s = .next t ∧ t.tb.rxp = ptpLearn u m s.tb.rxp ∧ t.tb.stby = s.tb.stby) ∧
    (h.frame.port = fld (imgReg s.cfg.active (TB + 0x4C)) 11 8 → h.frame.port ≠ fld (imgReg s.cfg.active (TB + 0x4C)) 7 4 →
      ∃ t, exec .ptpMsgRx s = .next t ∧ t.tb.stby = ptpLearn u m s.tb.stby ∧ t.tb.rxp = s.tb.rxp)) ∧
  (∀ (s : State) (m : PtpMsg) (p q : PtpPort), q = ptpLearn s m p →
    (m.kind = .announce → bestAnnounce s m p = true → q.portState = m.portState ∧ q.lastAnn = some m.rxNs ∧ q.annInterval = m.annInterval ∧
      q.gmId = m.gmId ∧ q.gmClass = m.gmClass ∧ q.steps = m.steps ∧ q.gmData = m.gmData ∧ q.timeInacc = m.timeInacc ∧
      q.netInacc = m.netInacc ∧ q.ofs = m.ofs ∧ q.leap61 = m.leap61 ∧ q.leap59 = m.leap59 ∧ q.lastSync = p.lastSync ∧ q.meanLink = p.meanLink) ∧
    (m.kind = .announce → bestAnnounce s m p = false → q = { p with portState := m.portState }) ∧
    (m.kind = .sync ∨ m.kind = .followUp → q = { p with portState := m.portState, lastSync := some m.rxNs }) ∧
    (m.kind = .pdelayResp ∨ m.kind = .pdelayRespFollowUp → q = { p with portState := m.portState, meanLink := m.meanLink }) ∧
    (m.kind = .pdelayReq → q = { p with portState := m.portState })) ∧
  (∀ (s : State) (x : PtpSend), alive s → x.port < 12 → (portOf s x.port).linkUp = true → max 64 (ptpLen s x.kind) ≤ maxLen s x.port →
    (Nat.testBit (fld (imgReg s.cfg.active (TB + 0x4C)) 23 12) x.port = true → (x.kind = .announce ∨ x.kind = .sync) →
      ∃ t f m, exec (.ptpMsgTx x) s = .next t ∧ queuedAt s t x.port f ∧ f.body = .ptp m ∧ m.kind = x.kind ∧
        f.len = max 64 (ptpLen s x.kind) ∧
        (x.kind = .announce → s.tb.src = 1 → m.steps = (ptpActive s).steps + 1 ∧ m.gmId = s.tb.gm ∧ m.clockClass = (ptpActive s).gmClass) ∧
        (x.kind = .announce → s.tb.src ≠ 1 → m.steps = 0 ∧ m.clockClass = ownClass s)) ∧
    ((Nat.testBit (fld (imgReg s.cfg.active (TB + 0x4C)) 23 12) x.port = true ∨ fld (imgReg s.cfg.active (TB + 0x4C)) 7 4 = x.port ∨
        fld (imgReg s.cfg.active (TB + 0x4C)) 11 8 = x.port) → (x.kind = .pdelayReq ∨ x.kind = .pdelayResp) →
      ∃ t f m, exec (.ptpMsgTx x) s = .next t ∧ queuedAt s t x.port f ∧ f.body = .ptp m ∧ m.kind = x.kind ∧
        f.len = max 64 (ptpLen s x.kind) ∧ (x.kind = .pdelayResp → m.reqRx = x.reqRx))) ∧
  (∀ (s : State) (x : PtpSend), alive s → (x.kind = .followUp ∨ x.kind = .pdelayRespFollowUp ∨ x.kind = .management ∨ x.kind = .signalling ∨ x.kind = .other) →
    exec (.ptpMsgTx x) s = .next s)

/-- LINK_UP with the conditions of R83 on a port that is down: the port is up, ETH_FLAGS.LINK_UP is set in every function, and no other port
changes. LINK_DOWN of a port that is up: the port is down, no frame is being sent, of the waiting frames exactly those still wait whose
stage deadline has not come (Table 1-6), the pause time and a pause asked for are over, and ETH_FLAGS.LINK_DOWN is set. LINK_DOWN of the
Calfa link (port 13) also ends CALFA_OK. COMPLETION: exec answers a next state, under conditions on the state and the operands alone, for
linkUp, linkDown. -/
def Obligations.LinkUpAndLinkDown : Prop :=
  (∀ (s : State) (n : Nat) (pcs fec an : Bool) (speed : Nat), s.hp.length = 4 → alive s → n < 14 → linkMayRise s n pcs fec an speed →
    (portOf s n).linkUp = false →
    ∃ t, exec (.linkUp n pcs fec an speed) s = .next t ∧ (portOf t n).linkUp = true ∧ (portOf t n).pcsLock = pcs ∧ flagged t (portBase n + 8) 0 ∧
      ∀ m, m ≠ n → portOf t m = portOf s m) ∧
  (∀ (s : State) (n : Nat) (cut : Bool), s.hp.length = 4 → alive s → n < 13 → (portOf s n).linkUp = true →
    ∃ t, exec (.linkDown n cut) s = .next t ∧ (portOf t n).linkUp = false ∧ (portOf t n).cur = none ∧
      (portOf t n).txq = (portOf s n).txq.filter (fun f => !txDue s f) ∧ (portOf t n).pauseEnd = none ∧
      (portOf t n).xoff = false ∧ flagged t (portBase n + 8) 1) ∧
  (∀ (s : State) (cut : Bool), alive s → (portOf s 13).linkUp = true →
    ∃ t, exec (.linkDown 13 cut) s = .next t ∧ (portOf t 13).linkUp = false ∧ t.pair.calfaOk = false)

/-- A pause frame that passes the receive checks and is addressed to the port sets the end of the pause at its arrival plus quanta × 512 bit
times (quanta 0 ends the pause). PAUSE_EXPIRY at or after that end frees the transmitter, which on SVC and the Calfa link begins the first
waiting frame, and no other port changes. PAUSE_HOLD after MAX_HOLD cyc of hold empties the transmit buffer and sets ETH_FLAGS.PAUSE_HOLD.
PAUSE_TX_REPEAT, half of the last pause time after the last own pause frame with the receive buffer at or above XON, puts the next pause
frame behind the frame in progress and ahead of every waiting frame. COMPLETION: exec answers a next state, under conditions on the state
and the operands alone, for pauseFrameRx, pauseExpiry, pauseHold, pauseTxRepeat. -/
def Obligations.PauseFramesAndHeldTransmitters : Prop :=
  (∀ (s : State) (f : Frame) (op q : Nat), alive s → f.kind = .macCtl op q → f.port < 14 → (portOf s f.port).linkUp = true →
    rxFillOf s f.port + maxLen s f.port ≤ bufKib f.port * 1024 → rxFault s f = none → (f.dst = pauseMac ∨ f.dst = portMac s f.port) →
    ∃ t, exec (.pauseFrameRx f) s = .next t ∧
      (portOf t f.port).pauseEnd = (if q = 0 then none else some (f.arrival + ceilDiv (q * 512000) (modeSpeed (portMode s f.port))))) ∧
  (∀ (s : State) (n e ns : Nat), alive s → (portOf s n).pauseEnd = some e → e ≤ ns →
    ∃ t, exec (.pauseExpiry n ns) s = .next t ∧ (portOf t n).pauseEnd = none ∧ (portOf t n).held = 0 ∧
      (portOf t n).cur.toList ++ (portOf t n).txq = (portOf s n).cur.toList ++ (portOf s n).txq ∧
      (n < 12 → portOf t n = { portOf s n with pauseEnd := none, held := 0 }) ∧
      (12 ≤ n → (portOf s n).linkUp = true → (portOf t n).cur = none → (portOf t n).txq = []) ∧ ∀ m, m ≠ n → portOf t m = portOf s m) ∧
  (∀ (s : State) (n e : Nat), s.hp.length = 4 → alive s → n < 13 → (portOf s n).pauseEnd = some e →
    fld (imgReg s.cfg.active (portBase n + 0x10)) 3 0 * 1024 ≤ (portOf s n).held →
    ∃ t, exec (.pauseHold n) s = .next t ∧ (portOf t n).txq = [] ∧ flagged t (portBase n + 8) 4) ∧
  (∀ (s : State) (n ns : Nat), alive s → pauseTxOn s n → (portOf s n).xoff = true →
    (portOf s n).xoffAt + fld (imgReg s.cfg.active (portBase n + 0xC)) 31 16 * 512000 / modeSpeed (portMode s n) / 2 ≤ ns →
    fld (imgReg s.cfg.active (portBase n + 0xC)) 7 0 * (bufKib n * 1024) ≤ rxFillOf s n * 100 →
    ∃ t, exec (.pauseTxRepeat n ns) s = .next t ∧
      (portOf t n).cur.toList ++ (portOf t n).txq = (portOf s n).cur.toList ++
        { id := s.eth.txId, body := .pause (fld (imgReg s.cfg.active (portBase n + 0xC)) 31 16) ns, len := 64, born := s.tb.tick } :: (portOf s n).txq)

/-- FRAME_RX of a frame whose receive check fails: the counter that the first failing check names counts, and nothing is handed on. A frame that
passes the checks is classified where duplicate discard passes it or does not judge it (PTP), classified as undeclared where its source is
not declared, and a duplicate is dropped; then the pause that the port asked for may end. FRAME_TX_COMPLETE of the frame being sent on a
port that is up: it is the last sent, as stamped, the waiting frames keep their order, a data port sends nothing until it is granted again,
and SVC and the Calfa link, unless held by a pause, begin the first that waits. On an idle port a waiting pause frame of the module departs
without a grant and is counted, and no other waiting frame does. COMPLETION: exec answers a next state, under conditions on the state and
the operands alone, for frameRx, frameTxComplete. -/
def Obligations.FrameReceptionAndDeparture : Prop :=
  (∀ (s : State) (f : Frame) (c : Nat), alive s → f.port < 14 → (portOf s f.port).linkUp = true →
    rxFillOf s f.port + maxLen s f.port ≤ bufKib f.port * 1024 → rxFault s f = some c →
    ∃ t, exec (.frameRx f) s = .next t ∧ counter t (portBase f.port + c) 0xFFFF = counter s (portBase f.port + c) 0xFFFF + 1#32 ∧
      t.eth.handed = s.eth.handed) ∧
  (∀ (s u v : State) (f : Frame), alive s → f.port < 14 → (portOf s f.port).linkUp = true → rxChecks f s = (u, true) →
    (∀ m, f.kind ≠ .ptp m) →
    (prpDiscard f u = (v, .pass) → exec (.frameRx f) s = .next (rxDrained f.port f.arrival (classify f v))) ∧
    (prpDiscard f u = (v, .undeclared) → exec (.frameRx f) s = .next (rxDrained f.port f.arrival (classifyUndeclared f v))) ∧
    (prpDiscard f u = (v, .drop) → exec (.frameRx f) s = .next (rxDrained f.port f.arrival (dropped f v)))) ∧
  (∀ (s u : State) (f : Frame) (m : PtpMsg), alive s → f.port < 14 → (portOf s f.port).linkUp = true → rxChecks f s = (u, true) →
    f.kind = .ptp m → exec (.frameRx f) s = .next (rxDrained f.port f.arrival (classify f (noRct f u)))) ∧
  (∀ (s : State) (n id dep sub : Nat) (f : TxFrame), alive s → (portOf s n).linkUp = true → (portOf s n).cur = some f → f.id = id →
    ∃ t, exec (.frameTxComplete n id dep sub) s = .next t ∧ (portOf t n).cur.toList ++ (portOf t n).txq = (portOf s n).txq ∧
      (n < 12 → (portOf t n).cur = none) ∧
      (12 ≤ n → (portOf s n).pauseEnd = none → (portOf t n).cur = none → (portOf t n).txq = []) ∧
      (portOf t n).lastTx = some (stampTx dep sub f) ∧ (portOf t n).txRem = ((portOf s n).txRem + f.len) % 64) ∧
  (∀ (s : State) (n id dep sub : Nat) (f : TxFrame) (rest : List TxFrame), alive s → (portOf s n).linkUp = true → (portOf s n).cur = none →
    takeFirst (fun t => t.id == id) (portOf s n).txq = some (f, rest) →
    (isPauseTx f = true →
      ∃ t, exec (.frameTxComplete n id dep sub) s = .next t ∧ (portOf t n).cur.toList ++ (portOf t n).txq = rest ∧
        (portOf t n).lastTx = some (stampTx dep sub f) ∧ counter t (portBase n + 0x134) 0xFFFF = counter s (portBase n + 0x134) 0xFFFF + 1#32) ∧
    (isPauseTx f = false → exec (.frameTxComplete n id dep sub) s = .next s))

/-- After the window of a source has judged a sequence number that is not too old, the same number is not accepted again. PRP_ENTRY_EXPIRY keeps
exactly the entries that have received a frame within 400 ms. PRP_SUPERVISION_TX of an enabled pair, 2 s after its last, queues one
supervision frame with the next SupSequenceNumber on both members, with trailers of LAN A and LAN B under one sequence number.
PRP_SUPERVISION_RX consumes the oldest supervision frame and counts it for the pair of its port. COMPLETION: exec answers a next state,
under conditions on the state and the operands alone, for prpEntryExpiry, prpSupervisionTx, prpSupervisionRx. -/
def Obligations.PrpDuplicateDiscard : Prop :=
  (∀ (e : DupEnt) (q : BitVec 16), (prpWindow e q).2.2 = false → (prpWindow (prpWindow e q).1 q).2.1 = false) ∧
  (∀ (s : State) (ns : Nat), alive s →
    ∃ t, exec (.prpEntryExpiry ns) s = .next t ∧ (∀ e, e ∈ t.eth.dup ↔ e ∈ s.eth.dup ∧ ns ≤ e.2.last + 400000000) ∧ t.eth.ports = s.eth.ports) ∧
  (∀ (s : State) (p : Nat), alive s → p < 6 → pairOn s.cfg.active p → supDue s p → pairA s.cfg.active p ≠ pairB s.cfg.active p →
    (portOf s (pairA s.cfg.active p)).linkUp = true → (portOf s (pairB s.cfg.active p)).linkUp = true →
    66 ≤ maxLen s (pairA s.cfg.active p) → 66 ≤ maxLen s (pairB s.cfg.active p) →
    ∃ t, exec (.prpSupervisionTx p) s = .next t ∧
      queuedAt s t (pairA s.cfg.active p) { id := s.eth.txId, body := .supervision p (fgetD s.eth.supSeq p 0), len := 66, rct := some { seq := fgetD s.eth.prpSeq p 0, lanB := false, size := 48 }, born := s.tb.tick } ∧
      queuedAt s t (pairB s.cfg.active p) { id := s.eth.txId + 1, body := .supervision p (fgetD s.eth.supSeq p 0), len := 66, rct := some { seq := fgetD s.eth.prpSeq p 0, lanB := true, size := 48 }, born := s.tb.tick } ∧
      fgetD t.eth.supSeq p 0 = (fgetD s.eth.supSeq p 0 + 1) % 65536) ∧
  (∀ (s u : State) (h : Handed) (p : Nat), alive s → takeHanded .supervision s = some (h, u) → pairOf s.cfg.active h.frame.port = some p →
    exec .prpSupervisionRx s = .next (count (prpBase p + 0x28) u))

/-- DATA_FRAME_RX takes the oldest data frame handed on while the queue of the record writer has room; while it has none, nothing changes. A
stream that is not in RUN, or no credit: only the matching counter of the stream counts. With credit and a wrong size, the credit is charged
and counter 2 counts. A frame that passes the time checks while grid time runs, whose claim is not older and whose instant has no record
yet, appends one record for each PMU block behind the records still kept. COMPLETION: exec answers a next state, under conditions on the
state and the operands alone, for dataFrameRx. -/
def Obligations.DataFramesOfStreams : Prop :=
  (∀ s : State, alive s → writerRoom s = false → exec .dataFrameRx s = .next s) ∧
  (∀ (s u : State) (h : Handed) (hdr : IpHdr) (bs : List Byte) (o : Bool), alive s → writerRoom s → takeHanded .streamData s = some (h, u) →
    h.frame.payload = .ip hdr bs o → (strmOf s h.obj).st ≠ 2 → exec .dataFrameRx s = .next (strmCount h.obj 8 u)) ∧
  (∀ (s u : State) (h : Handed) (hdr : IpHdr) (bs : List Byte) (o : Bool), alive s → writerRoom s → takeHanded .streamData s = some (h, u) →
    h.frame.payload = .ip hdr bs o → (strmOf s h.obj).st = 2 → (strmOf s h.obj).credit < tps s →
    exec .dataFrameRx s = .next (strmCount h.obj 1 u)) ∧
  (∀ (s u : State) (h : Handed) (hdr : IpHdr) (bs : List Byte) (o : Bool), alive s → writerRoom s → takeHanded .streamData s = some (h, u) →
    h.frame.payload = .ip hdr bs o → (strmOf s h.obj).st = 2 → tps s ≤ (strmOf s h.obj).credit →
    beAt bs 2 2 ≠ dir s.cfg.active h.obj 4 31 16 →
    exec .dataFrameRx s = .next (strmCount h.obj 2 (modStrm h.obj (fun r => { r with credit := r.credit - tps s }) u))) ∧
  (∀ (s u : State) (h : Handed) (hdr : IpHdr) (bs : List Byte) (o : Bool) (tau : Int), alive s → writerRoom s →
    takeHanded .streamData s = some (h, u) → h.frame.payload = .ip hdr bs o → (strmOf s h.obj).st = 2 → tps s ≤ (strmOf s h.obj).credit →
    beAt bs 2 2 = dir s.cfg.active h.obj 4 31 16 → hasTime s →
    tau = frameTau u (BitVec.ofNat 32 (beAt bs 6 4)) (Nat.testBit (beAt bs 10 1) 5) (fracNs (beAt bs 11 3) (dir s.cfg.active h.obj 5 23 0)) →
    timeChecks u h.obj h.frame.arrival tau = none →
    (dirPaired s.cfg.active h.obj = false ∨
      0 ≤ sint 32 ((frameClaim s.cfg.active h.obj bs - fgetD s.nv.claimHi h.obj 0#32).toNat)) →
    recOf s h.obj (nearestInst s (dirRate s.cfg.active h.obj) tau) = none →
    ∃ t, exec .dataFrameRx s = .next t ∧
      t.ing.recs = (pruneRecs u).ing.recs ++
        frameRecs u h.obj h.frame bs (nearestInst s (dirRate s.cfg.active h.obj) tau) (frameClaim s.cfg.active h.obj bs))

/-- RSV_SPDU_RX takes the oldest R-SV session PDU while the queue of the record writer has room; while it has none, nothing changes. A stream
not in RUN counts 8; no credit counts 1; a wrong length or other than one ASDU counts 2 with the credit charged. With a signature required
and no vault slot holding the Key ID, the PDU is dropped: the authentication flag is set, the event raised, and counter 9 counts. A PDU that
passes authentication (check 8 answers accept) and the time checks while grid time runs, and whose instant has no record yet, appends
exactly one record behind the records still kept: of its stream, for its nearest instant, with its arrival, STAT and values. COMPLETION:
exec answers a next state, under conditions on the state and the operands alone, for rsvSpduRx. -/
def Obligations.RsvPdusAreAuthenticated : Prop :=
  (∀ s : State, alive s → writerRoom s = false → exec .rsvSpduRx s = .next s) ∧
  (∀ (s u : State) (h : Handed) (hdr : IpHdr) (m : RsvPdu), alive s → writerRoom s → takeHanded .rsv s = some (h, u) →
    h.frame.payload = .rsv hdr m → (strmOf s h.obj).st ≠ 2 → exec .rsvSpduRx s = .next (strmCount h.obj 8 u)) ∧
  (∀ (s u : State) (h : Handed) (hdr : IpHdr) (m : RsvPdu), alive s → writerRoom s → takeHanded .rsv s = some (h, u) →
    h.frame.payload = .rsv hdr m → (strmOf s h.obj).st = 2 → (strmOf s h.obj).credit < tps s →
    exec .rsvSpduRx s = .next (strmCount h.obj 1 u)) ∧
  (∀ (s u : State) (h : Handed) (hdr : IpHdr) (m : RsvPdu), alive s → writerRoom s → takeHanded .rsv s = some (h, u) →
    h.frame.payload = .rsv hdr m → (strmOf s h.obj).st = 2 → tps s ≤ (strmOf s h.obj).credit →
    (m.spduLen ≠ dir s.cfg.active h.obj 4 31 16 ∨ m.asdus ≠ 1) →
    exec .rsvSpduRx s = .next (strmCount h.obj 2 (modStrm h.obj (fun r => { r with credit := r.credit - tps s }) u))) ∧
  (∀ (s u : State) (h : Handed) (hdr : IpHdr) (m : RsvPdu), alive s → writerRoom s → takeHanded .rsv s = some (h, u) →
    h.frame.payload = .rsv hdr m → (strmOf s h.obj).st = 2 → tps s ≤ (strmOf s h.obj).credit → m.spduLen = dir s.cfg.active h.obj 4 31 16 →
    m.asdus = 1 → imBit s.cfg.active secSTREAM_DIR h.obj 9 13 → rsvSlot s h.obj m.keyId = none →
    exec .rsvSpduRx s = .next (strmCount h.obj 9 (raiseLimited 0x0408 0x0408 (strmObj s h.obj) (leBytes 2 h.obj)
      (ingFlag 3 (modStrm h.obj (fun r => { r with credit := r.credit - tps s }) u))))) ∧
  (∀ (s u v : State) (h : Handed) (hdr : IpHdr) (m : RsvPdu) (a : Bool) (tau : Int), alive s → writerRoom s → takeHanded .rsv s = some (h, u) →
    h.frame.payload = .rsv hdr m → (strmOf s h.obj).st = 2 → tps s ≤ (strmOf s h.obj).credit → m.spduLen = dir s.cfg.active h.obj 4 31 16 →
    m.asdus = 1 → rsvAuth h.obj m (modStrm h.obj (fun r => { r with credit := r.credit - tps s }) u) = (v, .accept, a) → hasTime s →
    tau = frameTau u m.refrSec true (roundDiv (m.refrFrac * 1000000000) (2 ^ 24)) → timeChecks u h.obj h.frame.arrival tau = none →
    recOf s h.obj (nearestInst s (dirRate s.cfg.active h.obj) tau) = none →
    ∃ t r, exec .rsvSpduRx s = .next t ∧ t.ing.recs = (pruneRecs u).ing.recs ++ [r] ∧ r.strm = h.obj ∧
      r.inst = nearestInst s (dirRate s.cfg.active h.obj) tau ∧ r.arr = h.frame.arrival ∧ r.stat = rsvStat m ∧ r.written = false ∧
      r.vals = rsvVals s.cfg.active h.obj (m.test && !imBit s.cfg.active secSTREAM_DIR h.obj 0 27) m.vals)

/-- A CFG-2 or CFG-3 frame within the size and rate limits of control frames: when every item of R127 agrees, every stream of the bundle is in
RUN and the source of the frame counts as told to turn on; when one differs, every stream is in MISMATCH. A frame outside the size limits
counts in counter 2 only, and one within them but over the rate in counter 12 only. A header frame within the limits is stored for host read
as the header of its stream, and a CFG-1 frame as its CFG-1 frame; a header frame leaves every other stream as it was. COMPLETION: exec
answers a next state, under conditions on the state and the operands alone, for cfgFrameRx, headerFrameRx. -/
def Obligations.ConfigurationFramesDecideTheStreamState : Prop :=
  (∀ (s u v : State) (h : Handed) (hdr : IpHdr) (bs : List Byte) (o : Bool), alive s → takeHanded .streamCfg s = some (h, u) →
    h.frame.payload = .ip hdr bs o → ctlAdmit h.obj bs u = (v, true) →
    (cfgDiffers s.cfg.active h.obj (cfgParse (c37Type bs) bs) = none →
      ∃ t, exec .cfgFrameRx s = .next t ∧ (∀ m ∈ bundle s.cfg.active h.obj, (strmOf t m).st = 2) ∧
        ((strmOf t h.obj).conn (srcUnit s.cfg.active h.obj hdr.src)).turnedOn = true) ∧
    (∀ k, cfgDiffers s.cfg.active h.obj (cfgParse (c37Type bs) bs) = some k →
      ∃ t, exec .cfgFrameRx s = .next t ∧ (∀ m ∈ bundle s.cfg.active h.obj, (strmOf t m).st = 3))) ∧
  (∀ (s u : State) (h : Handed) (hdr : IpHdr) (bs : List Byte) (o : Bool), alive s →
    takeHanded .streamCfg s = some (h, u) → h.frame.payload = .ip hdr bs o →
    (beAt bs 2 2 < 18 ∨ fld (imgReg s.cfg.active (ING + 0xC)) 15 0 < beAt bs 2 2) →
    exec .cfgFrameRx s = .next (strmCount h.obj 2 u)) ∧
  (∀ (s u : State) (h : Handed) (hdr : IpHdr) (bs : List Byte) (o : Bool), alive s →
    takeHanded .streamCfg s = some (h, u) → h.frame.payload = .ip hdr bs o →
    18 ≤ beAt bs 2 2 → beAt bs 2 2 ≤ fld (imgReg s.cfg.active (ING + 0xC)) 15 0 →
    ctlRate u ≤ (if (strmOf u h.obj).ctlSec = limitSec u then (strmOf u h.obj).ctlN else 0) →
    exec .cfgFrameRx s = .next (strmCount h.obj 12 u)) ∧
  (∀ (s u v : State) (h : Handed) (hdr : IpHdr) (bs : List Byte) (o : Bool), alive s →
    takeHanded .streamHeader s = some (h, u) → h.frame.payload = .ip hdr bs o → ctlAdmit h.obj bs u = (v, true) →
    (c37Type bs = 1 →
      ∃ t, exec .headerFrameRx s = .next t ∧ (strmOf t h.obj).header = bs ∧ ∀ m, m ≠ h.obj → strmOf t m = strmOf s m) ∧
    (c37Type bs ≠ 1 → ∃ t, exec .headerFrameRx s = .next t ∧ (strmOf t h.obj).cfg1 = bs))

/-- TCP_CONNECT of a connection, not standing, of the head of a TCP bundle (its source, and for a paired source the second unit) puts every
stream of the bundle in WAIT_CFG with that connection up on its port; TCP_DISCONNECT of a standing one puts every stream in IDLE with it
down; both leave every stream outside the bundle as it was, but for the instant of the request on the head. TCP_RETRY of a client with a
connection down, 5 s after the last attempt, counts the attempt. CFG_REQUEST_REPEAT of a bundle head of which a stream is in WAIT_CFG or
MISMATCH or shows STAT bit 10, 10 s after the last request, notes the instant of the request, and on every unpaired port of a command path
(PORT_MASK over UDP, the port of the connection over TCP) with the link up it queues the request (command 5) behind the frames that wait.
That the streams of a paired source follow either connection is assumption 212. COMPLETION: exec answers a next state, under conditions on
the state and the operands alone, for tcpConnect, tcpDisconnect, tcpRetry, cfgRequestRepeat. -/
def Obligations.TcpStreamsAndConfigurationRequests : Prop :=
  (∀ (s : State) (n k : Nat) (port : Option Nat), alive s → tcpHead s n k → ((strmOf s n).conn k).up = false →
    ∃ t, exec (.tcpConnect n k port) s = .next t ∧
      (∀ m ∈ bundle s.cfg.active n, (strmOf t m).st = 1 ∧ (strmOf t m).conn k = { up := true, port := port.getD (lowPort s.cfg.active n) }) ∧
      (strmOf t n).reqAt = s.tb.tick ∧ ∀ m, m ≠ n → m ∉ bundle s.cfg.active n → strmOf t m = strmOf s m) ∧
  (∀ (s : State) (n k : Nat), alive s → tcpHead s n k → ((strmOf s n).conn k).up = true →
    ∃ t, exec (.tcpDisconnect n k) s = .next t ∧ (∀ m ∈ bundle s.cfg.active n, (strmOf t m).st = 0 ∧ (strmOf t m).conn k = {}) ∧
      ∀ m, m ∉ bundle s.cfg.active n → strmOf t m = strmOf s m) ∧
  (∀ (s : State) (n ns : Nat), alive s → dirValid s.cfg.active n → dirTransport s.cfg.active n = 1 →
    ((strmOf s n).ca.up = false ∨ (dirPaired s.cfg.active n = true ∧ (strmOf s n).cb.up = false)) →
    (strmOf s n).reqAt + 5 * tps s ≤ s.tb.tick →
    ∃ t, exec (.tcpRetry n ns) s = .next t ∧ strmOf t n = { strmOf s n with tcpTries := (strmOf s n).tcpTries + 1, reqAt := s.tb.tick } ∧
      ∀ m, m ≠ n → strmOf t m = strmOf s m) ∧
  (∀ (s : State) (n ns : Nat), alive s → dirValid s.cfg.active n → dir s.cfg.active n 1 19 14 = 0 →
    (∃ m ∈ bundle s.cfg.active n, (strmOf s m).st = 1 ∨ (strmOf s m).st = 3 ∨ (strmOf s m).bit10 = true) →
    (strmOf s n).reqAt + 10 * tps s ≤ s.tb.tick →
    ∃ t, exec (.cfgRequestRepeat n ns) s = .next t ∧ strmOf t n = { strmOf s n with reqAt := s.tb.tick } ∧
      ∀ p ∈ cmdPaths s n none, ∀ k, k < 13 → Nat.testBit (cmdMask s n p) k = true →
        (∀ q ∈ cmdPaths s n none, q ≠ p → Nat.testBit (cmdMask s n q) k = false) → pairOf s.cfg.active k = none →
        (portOf s k).linkUp = true → max 64 (cmdLen s.cfg.active n p) ≤ maxLen s k →
        ∃ f bs, queuedAt s t k f ∧ f.body = .srcCmd n 5 p bs)

/-- INGEST_RECORD_WRITE with an unwritten record: the record that is written next is unwritten, arrived no later than every other unwritten
record, and stands in the index as written; LAST_SEQ of its stream is its sequence number. With no unwritten record nothing changes.
TABLE_PARITY_RELOAD counts in the corrected-error counter, sets PWR_FLAGS bit 0, for the stream directory or channel table sets ING_FLAGS
bit 5, and leaves the image as it is. COMPLETION: exec answers a next state, under conditions on the state and the operands alone, for
ingestRecordWrite, tableParityReload. -/
def Obligations.IngestRecordsAreWrittenInOrder : Prop :=
  (∀ (s : State) (r : IngRec) (k : ReadCheck), alive s → nextRec s.ing.recs = some r →
    r ∈ s.ing.recs ∧ r.written = false ∧ (∀ q ∈ s.ing.recs, q.written = false → r.arr ≤ q.arr) ∧
    ∃ t, exec (.ingestRecordWrite k) s = .next t ∧
      (∀ q ∈ t.ing.recs, q.strm = r.strm → q.inst = r.inst → q.written = true ∧ q.seq = r.seq ∧ q.vals = r.vals) ∧
      (∃ q ∈ t.ing.recs, q.strm = r.strm ∧ q.inst = r.inst) ∧ (strmOf t r.strm).lastSeq = r.seq) ∧
  (∀ (s : State) (k : ReadCheck), alive s → (∀ q ∈ s.ing.recs, q.written = true) → exec (.ingestRecordWrite k) s = .next s) ∧
  (∀ (s : State) (k : Nat), s.hp.length = 4 → alive s →
    ∃ t, exec (.tableParityReload k) s = .next t ∧ counter t (PWR + 0x310) 0xFFFF = counter s (PWR + 0x310) 0xFFFF + 1#32 ∧
      flagged t (PWR + 4) 0 ∧ ((k = secSTREAM_DIR ∨ k = secCHANNEL) → flagged t (ING + 4) 5) ∧ t.cfg = s.cfg)

/-- GROUP_START of a waiting group whose first instant has come: the group runs, and that instant is its start, its next instant to close and
its next to seal, its hold memory is empty, and every other group is as it was. A group that does not wait, or whose first instant has not
come, stays as it is. WINDOW_CLOSE of a running group whose next close has been reached: the next close is one period later, and the next
seal is as it was; before C(I) nothing changes. COMPLETION: exec answers a next state, under conditions on the state and the operands alone,
for groupStart, windowClose. -/
def Obligations.GroupsStartAndWindowsClose : Prop :=
  (∀ (s : State) (g : Nat), alive s → groupMayStart s g →
    ∃ t, exec (.groupStart g) s = .next t ∧ (grpOf t g).st = 2 ∧ (grpOf t g).start = firstInst s g (grpOf s g).since ∧
      (grpOf t g).nextClose = firstInst s g (grpOf s g).since ∧ (grpOf t g).nextSeal = firstInst s g (grpOf s g).since ∧
      (grpOf t g).first = true ∧ (grpOf t g).hold = [] ∧ ∀ h, h ≠ g → grpOf t h = grpOf s h) ∧
  (∀ (s : State) (g : Nat), alive s → groupMayStart s g = false → exec (.groupStart g) s = .next s) ∧
  (∀ (s : State) (g : Nat), alive s → (grpOf s g).st = 2 → hasTime s → closeOf s g (grpOf s g).nextClose ≤ s.tb.grid →
    ∃ t, exec (.windowClose g) s = .next t ∧ grpOf t g = { grpOf s g with nextClose := (grpOf s g).nextClose + grpPeriod s g } ∧
      ∀ h, h ≠ g → grpOf t h = grpOf s h) ∧
  (∀ (s : State) (g : Nat), alive s → s.tb.grid < closeOf s g (grpOf s g).nextClose → exec (.windowClose g) s = .next s)

/-- ALIGNED_SET_SEAL of a running group with a closed instant: a set of the group for that instant is held, with one block for each stream of
the group in their order, FAILED exactly where two checks found it corrupt; the next instant to seal is one period later, and the next
instant to close is as it was. With no closed instant nothing changes. TIMEOUT_EXPIRY of an enabled TIMEOUT comparator of a running group
more than TMO tick boundaries after the one at or before its reset, and not held back by warming, sets its output; up to TMO boundaries
nothing changes. COMPLETION: exec answers a next state, under conditions on the state and the operands alone, for alignedSetSeal,
timeoutExpiry. -/
def Obligations.AlignedSetsAreSealedInOrder : Prop :=
  (∀ (s : State) (g : Nat) (k : SealCheck), alive s → (grpOf s g).st = 2 → (grpOf s g).nextSeal < (grpOf s g).nextClose →
    s.tb.grid ≤ closeOf s g (grpOf s g).nextSeal + (lateSpan s + 240) * 1024 →
    ∃ t, exec (.alignedSetSeal g k) s = .next t ∧ (∃ x ∈ t.aln.sets, x.group = g ∧ x.inst = (grpOf s g).nextSeal ∧
        x.blocks.map (·.strm) = groupStrms s.cfg.active g ∧ x.failed = decide (2 ≤ k.rebuild)) ∧
      (grpOf t g).nextSeal = (grpOf s g).nextSeal + grpPeriod s g ∧ (grpOf t g).nextClose = (grpOf s g).nextClose ∧
      (grpOf t g).first = false) ∧
  (∀ (s : State) (g : Nat) (k : SealCheck), alive s → (grpOf s g).nextClose ≤ (grpOf s g).nextSeal → exec (.alignedSetSeal g k) s = .next s) ∧
  (∀ (s : State) (c : Nat), alive s → imBit s.cfg.active secISL_CMP c 0 31 → cmpPrim s.cfg.active c = 2 →
    (grpOf s (cmpGroup s.cfg.active c)).st = 2 → (cmpOf s c).out = false →
    (cmpOf s c).tmo / 1000000000 + cmpF s.cfg.active c 5 23 0 < s.tb.grid → (cmpWarming s c = false ∨ imBit s.cfg.active secISL_CMP c 0 19 = true) →
    ∃ t, exec (.timeoutExpiry c) s = .next t ∧ (cmpOf t c).out = true) ∧
  (∀ (s : State) (c : Nat), alive s → s.tb.grid ≤ (cmpOf s c).tmo / 1000000000 + cmpF s.cfg.active c 5 23 0 → exec (.timeoutExpiry c) s = .next s)

/-- SV_FRAME_RX takes the oldest sampled-value frame. While grid time does not run, the flag and its counter note it; without credit only the
policer counter of the subscription counts. A frame with credit that agrees with the entry in confRev, number of ASDUs and data length,
whose sample counters are below the rate and whose first sample is not older than MAX_AGE: the subscription is synchronised as the frame
says, and the first sample, where its instant holds none yet, waits in the buffer at that instant or is already final. After
SV_MAX_AGE_EXPIRY the next sample that the subscription awaits is neither at hand nor older than MAX_AGE. COMPLETION: exec answers a next
state, under conditions on the state and the operands alone, for svFrameRx, svMaxAgeExpiry. -/
def Obligations.SampledValuesBecomeFinalInOrder : Prop :=
  (∀ (s u : State) (h : Handed) (m : SvFrame), alive s → takeHanded .sv s = some (h, u) → h.frame.payload = .sv m →
    hasTime s = false → exec .svFrameRx s = .next (pqAll (flagCount (SVF + 4) 5 (SVF + 0x300) u))) ∧
  (∀ (s u : State) (h : Handed) (m : SvFrame), alive s → takeHanded .sv s = some (h, u) → h.frame.payload = .sv m → hasTime s →
    (subOf s h.obj).credit < tps s * subAsdus s.cfg.active h.obj → exec .svFrameRx s = .next (pqAll (svCount h.obj 1 u))) ∧
  (∀ (s u : State) (h : Handed) (m : SvFrame) (d : SvAsdu) (l : List SvAsdu), alive s → takeHanded .sv s = some (h, u) →
    h.frame.payload = .sv m → hasTime s → tps s * subAsdus s.cfg.active h.obj ≤ (subOf s h.obj).credit → m.asdus = d :: l →
    (∀ e ∈ m.asdus, e.confRev = sub s.cfg.active h.obj 4 31 0 ∧ e.dsLen = 8 * subChans s.cfg.active h.obj ∧
      e.smpCnt < subFs s.cfg.active h.obj) →
    m.asdus.length = subAsdus s.cfg.active h.obj →
    svOld s (subFs s.cfg.active h.obj) (placeIdx s (subFs s.cfg.active h.obj) d.smpCnt h.frame.arrival) h.frame.arrival = false →
    ∃ t, exec .svFrameRx s = .next t ∧ (subOf t h.obj).synced = syncAfter u h.obj m ∧
      (svHeld (subOf s h.obj) (placeIdx s (subFs s.cfg.active h.obj) d.smpCnt h.frame.arrival) = false →
        (subOf t h.obj).buf.any (fun x => x.a == placeIdx s (subFs s.cfg.active h.obj) d.smpCnt h.frame.arrival) = true ∨
        ∃ x, (subOf t h.obj).next = some x ∧ placeIdx s (subFs s.cfg.active h.obj) d.smpCnt h.frame.arrival < x)) ∧
  (∀ (s : State) (n ns : Nat), alive s → n < 32 → hasTime s → s.tb.now ≤ ns →
    ∃ t, exec (.svMaxAgeExpiry n ns) s = .next t ∧
      ∀ a, (subOf t n).next = some a → svOld t (subFs t.cfg.active n) a ns = false ∧ (∀ x, (subOf t n).buf.head? = some x → x.a ≠ a))

/-- BAY_RECORD_WRITE of a due record whose values are all complete, and BAY_LATENCY_DEADLINE of a due record at or after I + Λ, leave a written
record of the bay's stream for the instant, with the values, STAT and arrival of the bay: the latest arrival that enters a value, and at the
deadline the deadline command's instant. An instant with a record already is not written again. COMPLETION: exec answers a next state, under
conditions on the state and the operands alone, for bayRecordWrite, bayLatencyDeadline. -/
def Obligations.BayRecordsAreWritten : Prop :=
  (∀ (s : State) (b i : Nat) (k : ReadCheck), alive s → bayDue s b i → anyEst Est.isOpen (bayEsts s b i) = false →
    anyEst Est.isGone (bayEsts s b i) = false →
    ∃ t, exec (.bayRecordWrite b i k) s = .next t ∧ ∃ r ∈ t.ing.recs, r.strm = bayStrm s.cfg.active b ∧ r.inst = i ∧ r.written = true ∧
      r.vals = (bayRecord s b i (bayArrival s b i)).vals ∧ r.stat = (bayRecord s b i (bayArrival s b i)).stat ∧ r.arr = bayArrival s b i) ∧
  (∀ (s : State) (b i ns : Nat) (k : ReadCheck), alive s → s.tb.now ≤ ns → bayDue (seen ns s) b i → gridNs s i + bayLambdaNs s b ≤ ns →
    ∃ t, exec (.bayLatencyDeadline b i ns k) s = .next t ∧ ∃ r ∈ t.ing.recs, r.strm = bayStrm s.cfg.active b ∧ r.inst = i ∧ r.written = true ∧
      r.vals = (bayRecord (seen ns s) b i ns).vals ∧ r.stat = (bayRecord (seen ns s) b i ns).stat ∧ r.arr = ns) ∧
  (∀ (s : State) (b i : Nat) (k : ReadCheck), alive s → (recOf s (bayStrm s.cfg.active b) i).isSome → exec (.bayRecordWrite b i k) s = .next s)

/-- SIGNAL_UPDATE of a signal whose inputs for its next instant are final: its next instant is one period later, the instant is its last, and
every other signal is as it was. MODE_FAMILY_EVALUATION with every group sealed and every member updated: the next instant of the family is
one period later, and where the reference signal has a result for the instant every mode of the family takes it as its last.
ISLAND_EVALUATION of a running interconnection whose groups have all sealed its next instant: the next is one period later. While an input
is not final, nothing changes. COMPLETION: exec answers a next state, under conditions on the state and the operands alone, for
signalUpdate, modeFamilyEvaluation, islandEvaluation. -/
def Obligations.DetectorsAdvanceOneInstant : Prop :=
  (∀ (s : State) (n : Nat) (k : ReadCheck), alive s → imBit s.cfg.active secOSC_SIGNAL n 0 31 → (grpOf s (sigGroup s.cfg.active n)).st = 2 →
    (isSealed s (sigGroup s.cfg.active n) (sigOf s n).next ∨ (sigChans s.cfg.active n).all (recWritten s (sigOf s n).next) = true) →
    ∃ t, exec (.signalUpdate n k) s = .next t ∧ (sigOf t n).next = (sigOf s n).next + period s (sigRate s.cfg.active n) ∧
      (sigOf t n).lastInst = some (sigOf s n).next ∧ ∀ m, m ≠ n → sigOf t m = sigOf s m) ∧
  (∀ (s : State) (n : Nat) (k : ReadCheck), alive s → isSealed s (sigGroup s.cfg.active n) (sigOf s n).next = false →
    (sigChans s.cfg.active n).all (recWritten s (sigOf s n).next) = false → exec (.signalUpdate n k) s = .next s) ∧
  (∀ (s : State) (r : Nat) (k : ReadCheck), alive s → (imValid s.cfg.active secOSC_MODE).filter (fun m => modeRef s.cfg.active m == r) ≠ [] →
    (famGroups s.cfg.active r).all (fun g => isSealed s g (fgetD s.osc.famNext r 0)) = true →
    (((imValid s.cfg.active secOSC_MODE).filter (fun m => modeRef s.cfg.active m == r)).flatMap (modeMembers s.cfg.active)).all
      (fun n => decide (fgetD s.osc.famNext r 0 < (sigOf s n).next)) = true →
    ∃ t, exec (.modeFamilyEvaluation r k) s = .next t ∧ fgetD t.osc.famNext r 0 = fgetD s.osc.famNext r 0 + period s (sigRate s.cfg.active r) ∧
      ((fget? (sigOf s r).res (fgetD s.osc.famNext r 0)).isSome = true →
        ∀ m ∈ imValid s.cfg.active secOSC_MODE, modeRef s.cfg.active m = r → (modeOf t m).lastInst = some (fgetD s.osc.famNext r 0))) ∧
  (∀ (s : State) (i : Nat) (k : ReadCheck), alive s → (icnOf s i).on = true →
    (islGroups s.cfg.active i).all (fun g => isSealed s g (icnOf s i).next) = true →
    ∃ t, exec (.islandEvaluation i k) s = .next t ∧ (icnOf t i).next = (icnOf s i).next + period s (icnRate s i) ∧ (icnOf t i).first = false)

/-- SCAN_SNAPSHOT of a task without a snapshot whose oldest trigger is due (8 tk later with same-instant inputs): the trigger leaves the queue,
and S of the snapshot is T + 8 tk, or the end of the previous scan if that is later, and the present tick if that is earlier. With a
snapshot open, the operands that have become final are taken and no longer awaited. Before it is due nothing changes. SCAN_RUN runs the
complete snapshot with the earliest S (ties: lowest task) to its end: no snapshot is left, the first scan is done, and the last trigger is
noted. COMPLETION: exec answers a next state, under conditions on the state and the operands alone, for scanSnapshot, scanRun. -/
def Obligations.ScansReadAndRunInOrder : Prop :=
  (∀ (s : State) (k : Nat) (tr : Trig) (rest : List Trig) (c : ReadCheck), alive s → (taskOf s k).snap = none → (taskOf s k).queue = tr :: rest →
    tr.t + (if hasSameInst s k tr then 8 else 0) ≤ s.tb.tick →
    ∃ t q, exec (.scanSnapshot k c) s = .next t ∧ (taskOf t k).queue = rest ∧ (taskOf t k).snap = some q ∧ q.trig = tr ∧ q.s = readStart s k tr) ∧
  (∀ (s : State) (k : Nat) (tr : Trig) (rest : List Trig) (c : ReadCheck), alive s → (taskOf s k).snap = none → (taskOf s k).queue = tr :: rest →
    s.tb.tick < tr.t → exec (.scanSnapshot k c) s = .next s) ∧
  (∀ (s : State) (k : Nat) (q : Snap) (c : ReadCheck), alive s → (taskOf s k).snap = some q →
    ∃ t r, exec (.scanSnapshot k c) s = .next t ∧ (taskOf t k).snap = some r ∧ r.trig = q.trig ∧ r.s = q.s ∧
      (∀ w ∈ r.waits, w ∈ q.waits ∧ instFinal s q.trig.inst w = false)) ∧
  (∀ (s : State) (k : Nat) (q : Snap), alive s → nextScan s = some (k, q) →
    k < 16 ∧ (taskOf s k).snap = some q ∧ q.waits = [] ∧
    (∀ j r, j < 16 → (taskOf s j).snap = some r → r.waits = [] → q.s < r.s ∨ (q.s = r.s ∧ k ≤ j)) ∧
    ∃ t, exec .scanRun s = .next t ∧ (taskOf t k).snap = none ∧ (taskOf t k).firstDone = true ∧ (taskOf t k).lastSeq = q.trig.seq ∧
      (taskOf t k).lastT = q.trig.t)

/-- GOOSE_MESSAGE_RX takes the oldest message: without a subscription it counts as unsubscribed; without credit it counts as policed. A message
that passes the checks of Table 9-6 notes its stNum and sqNum and writes its entries to the station inputs. STATION_TAL_EXPIRY of an OK
station of which a dataset is no longer live: the station is LOST, its error pends, the loss is timed, and SCH_FLAGS bit 0 is set.
COMPLETION: exec answers a next state, under conditions on the state and the operands alone, for gooseMessageRx, stationTalExpiry. -/
def Obligations.GooseMessagesAndStations : Prop :=
  (∀ (s u : State) (h : Handed) (m : GooseMsg), alive s → takeHanded .goose s = some (h, u) → h.frame.payload = .goose m →
    bindGoose s.cfg.active h.frame m = none → exec .gooseMessageRx s = .next (count (ING + 0x304) u)) ∧
  (∀ (s u : State) (h : Handed) (m : GooseMsg) (d : Nat), alive s → takeHanded .goose s = some (h, u) → h.frame.payload = .goose m →
    bindGoose s.cfg.active h.frame m = some d → (dsOf s d).credit < tps s → exec .gooseMessageRx s = .next (count (SCH + 0x304) u)) ∧
  (∀ (s u v : State) (h : Handed) (m : GooseMsg) (d : Nat), alive s → takeHanded .goose s = some (h, u) → h.frame.payload = .goose m →
    bindGoose s.cfg.active h.frame m = some d → tps s ≤ (dsOf s d).credit → m.confRev = dsF s.cfg.active d 7 31 0 → m.ndsCom = false →
    m.numEnt = dsF s.cfg.active d 8 13 4 → m.ents.map (·.dtype) = dsTypes s.cfg.active d → (m.sim = false ∨ imBit s.cfg.active secSCH_DATASET d 0 28 = true) →
    gooseAuth d m (modDs d (fun r => { r with credit := r.credit - tps s }) u) = (v, true) →
    ((dsOf s d).arr = none ∨ m.stNum ≠ (dsOf s d).lastSt ∨ 0 < sint 32 ((m.sqNum - (dsOf s d).lastSq).toNat)) →
    ∃ t, exec .gooseMessageRx s = .next t ∧ (dsOf t d).lastSt = m.stNum ∧ (dsOf t d).lastSq = m.sqNum ∧ (dsOf t d).arr.isSome ∧
      t.sch.ins = putEnts (imBit s.cfg.active secSCH_DATASET d 0 28) m.ents (dsF s.cfg.active d 9 31 19) none s.sch.ins) ∧
  (∀ (s : State) (n : Nat), s.hp.length = 4 → alive s → stnValid s.cfg.active n → (stnOf s n).st = 1 →
    (stnDss s.cfg.active n).any (fun d => !dsLive s d) = true →
    ∃ t, exec (.stationTalExpiry n) s = .next t ∧ (stnOf t n).st = 2 ∧ (stnOf t n).errPend = true ∧ (stnOf t n).loss = s.tb.tick ∧
      flagged t (SCH + 8) 0)

/-- CAPTURE_SAMPLE_WRITE of a started recorder whose next sample is final: the recorder goes on to the sample after it, and with no corrupt set
found that sample stands first in its ring; while it is not final, the recorder stays at it and its ring is as it was. REARM_EXPIRY of a
recorder in REARM whose time has run out: it is ARMED, or DISARMED when it has been disarmed meanwhile or its set is disarmed. Before the
time has run out nothing changes. COMPLETION: exec answers a next state, under conditions on the state and the operands alone, for
captureSampleWrite, rearmExpiry. -/
def Obligations.CaptureRecordersStepThroughTheirSamples : Prop :=
  (∀ (s : State) (r : Nat) (c : ReadCheck), alive s → recValid s.cfg.active r → (capRecOf s r).started = true →
    sampFinal s r (capRecOf s r).next = true →
    ∃ t, exec (.captureSampleWrite r c) s = .next t ∧ (capRecOf t r).next = (capRecOf s r).next + 1 ∧
      (c.setBad = [] → (capRecOf t r).ring = (takeSamp s r (capRecOf s r).next :: (capRecOf s r).ring).take (ringDepth s.cfg.active r))) ∧
  (∀ (s : State) (r : Nat) (c : ReadCheck), alive s → recValid s.cfg.active r → (capRecOf s r).started = true →
    sampFinal s r (capRecOf s r).next = false →
    ∃ t, exec (.captureSampleWrite r c) s = .next t ∧ (capRecOf t r).next = (capRecOf s r).next ∧ (capRecOf t r).ring = (capRecOf s r).ring) ∧
  (∀ (s : State) (r : Nat), alive s → (capRecOf s r).st = 3 → (capRecOf s r).rearmEnd ≤ s.tb.tick →
    ∃ t, exec (.rearmExpiry r) s = .next t ∧ (capRecOf t r).off = false ∧
      (capRecOf t r).st = (if !(capRecOf s r).off && (!recSet s.cfg.active r || s.cap.armed) then 1 else 0)) ∧
  (∀ (s : State) (r : Nat), alive s → s.tb.tick < (capRecOf s r).rearmEnd → exec (.rearmExpiry r) s = .next s)

/-- CAP_CTRL by a valid function with the key 0xCA57 and the right: arming a recorder outside the set makes DISARMED ARMED; disarming makes
ARMED DISARMED and lets a take in progress complete; a host trigger adds one cause for each host condition of the recorder; freeing a closed
take that no host reads removes exactly it. With another key every one of the six operations raises CAP_EV_REFUSED with its number and
reason 1, to the partitions of the recorder that it names, and has no other effect. COMPLETION: exec answers a next state, under conditions
on the state and the operands alone, for capArmRecorder, capDisarmRecorder, capHostTrigger, capFreeTake. -/
def Obligations.CaptureControlActsOnOneRecorder : Prop :=
  (∀ (s : State) (n r : Nat), alive s → validFn s n → Nat.testBit (recMask s.cfg.active r) n → recSet s.cfg.active r = false →
    (∃ t, exec (.capArmRecorder n r 0xCA57) s = .next t ∧
      capRecOf t r = { capRecOf s r with st := if (capRecOf s r).st = 0 then 1 else (capRecOf s r).st, off := false } ∧
      ∀ q, q ≠ r → capRecOf t q = capRecOf s q) ∧
    (∃ t, exec (.capDisarmRecorder n r 0xCA57) s = .next t ∧
      capRecOf t r = { capRecOf s r with st := if (capRecOf s r).st = 1 then 0 else (capRecOf s r).st, off := decide (2 ≤ (capRecOf s r).st) } ∧
      ∀ q, q ≠ r → capRecOf t q = capRecOf s q)) ∧
  (∀ (s : State) (n r : Nat), alive s → validFn s n → Nat.testBit (recMask s.cfg.active r) n →
    ∃ t, exec (.capHostTrigger n r 0xCA57) s = .next t ∧
      t.cap.causes = s.cap.causes ++ ((recConds s.cfg.active r).filter (fun c => condEvent s.cfg.active r c &&
        condF s.cfg.active r c 1 31 28 == 8)).map (fun c => { rcd := r, cond := c, ns := gridNs s s.tb.grid }) ∧ t.cap.takes = s.cap.takes) ∧
  (∀ (s : State) (n k : Nat) (x : CapTake), alive s → validFn s n → takeOf s k = some x → Nat.testBit (recMask s.cfg.active x.rcd) n →
    x.closed = true → takeReading s k = false →
    ∃ t, exec (.capFreeTake n k 0xCA57) s = .next t ∧ takeOf t k = none ∧ ∀ j, j ≠ k → takeOf t j = takeOf s j) ∧
  (∀ (s : State) (n x key : Nat), alive s → validFn s n → key ≠ 0xCA57 →
    exec (.capArmRecorder n x key) s = .next (capRefuse (capObj s x) 1 1 s) ∧ exec (.capDisarmRecorder n x key) s = .next (capRefuse (capObj s x) 2 1 s) ∧
    exec (.capHostTrigger n x key) s = .next (capRefuse (capObj s x) 3 1 s) ∧ exec (.capFreeTake n x key) s = .next (capRefuse (match takeOf s x with
      | some q => capObj s q.rcd
      | none => .all) 4 1 s) ∧
    exec (.capArmSet n key) s = .next (capRefuse .all 5 1 s) ∧ exec (.capDisarmSet n key) s = .next (capRefuse .all 6 1 s))

/-- On the master, with the image-loading right and the key: CAP_CTRL operation 5 arms the set under a new ARM_ID for ARM_SPAN cyc, and
operation 6 disarms it. ARM_REPEAT half of ARM_SPAN after the last ARM holds the set armed for ARM_SPAN from now under the same ARM_ID.
ARM_SPAN_EXPIRY after its end disarms the set. A message of another length than 64 bytes is only counted; an ARM with a valid timestamp from
the master of the set, where no authentication is asked and no message of it came before, arms the set under its ARM_ID for its span.
COMPLETION: exec answers a next state, under conditions on the state and the operands alone, for capArmSet, capDisarmSet, armRepeat,
armSpanExpiry, crossTriggerMsgRx. -/
def Obligations.TheCaptureSetIsArmedAndDisarmed : Prop :=
  (∀ (s : State) (n : Nat), alive s → imgLoad s n → xtMaster s →
    (∃ t, exec (.capArmSet n 0xCA57) s = .next t ∧ t.cap.armed = true ∧ t.cap.armId ≠ s.cap.armId ∧ t.cap.armEnd = s.tb.tick + xtSpan s * 1024) ∧
    (∃ t, exec (.capDisarmSet n 0xCA57) s = .next t ∧ t.cap.armed = false ∧ t.cap.armId = s.cap.armId)) ∧
  (∀ s : State, alive s → xtMaster s → s.cap.armed = true → s.cap.lastArm + xtSpan s / 2 * 1024 ≤ s.tb.tick →
    ∃ t, exec .armRepeat s = .next t ∧ t.cap.armed = true ∧ t.cap.armId = s.cap.armId ∧ t.cap.armEnd = s.tb.tick + xtSpan s * 1024 ∧
      t.cap.lastArm = s.tb.tick) ∧
  (∀ s : State, alive s → s.cap.armed = true → s.cap.armEnd ≤ s.tb.tick →
    ∃ t, exec .armSpanExpiry s = .next t ∧ t.cap.armed = false ∧ t.cap.takes = s.cap.takes) ∧
  (∀ (s u : State) (h : Handed) (hdr : IpHdr) (b : List Byte) (o : Bool), alive s → takeHanded .cross s = some (h, u) →
    h.frame.payload = .ip hdr b o → b.length ≠ 64 → exec .crossTriggerMsgRx s = .next (count (CAP + 0x304) u)) ∧
  (∀ (s u : State) (h : Handed) (hdr : IpHdr) (b : List Byte) (o : Bool), alive s → takeHanded .cross s = some (h, u) →
    h.frame.payload = .ip hdr b o → b.length = 64 → tsOk b 0x14 = true → beAt b 2 2 = 64 → beAt b 0 2 = 0x0A11 → xtOn s →
    beAt b 4 4 = (imgReg s.cfg.active (CAP + 0x14)).toNat → beAt b 0xC 2 ≠ fld (xtCfg s) 21 16 → beAt b 0xC 2 = fld (xtCfg s) 29 24 →
    bit (xtCfg s) 30 = false → fget? s.cap.xtLast (beAt b 0xC 2) = none →
    ∃ t, exec .crossTriggerMsgRx s = .next t ∧ t.cap.armed = true ∧ t.cap.armId = beAt b 8 4 ∧ t.cap.armEnd = s.tb.tick + beAt b 0x26 2 * 1024)

/-- CYCLE_CLOSE of a metering point whose next cycle is final: the next is the cycle after it, or the first of the entry in force once the last
cycle of the entry before it has closed, and its end is the latest cycle end if none closed later; while a sample of it is not final nothing
changes. BILLING_RECORD_SIGN takes the oldest saved body from the cellar: the others keep their order, and BILL_SEQ does not fall; with
nothing pending and room for ordinary records, BILL_SEQ rises by one and an ordinary record stands in the log under it. A pulse output that
is due, with the spacing of a commit, emits one pulse and its backlog falls by one; before that nothing changes. MTR_SNAP latches the
registers of every point for the function and shows the end of the latest cycle. MTR_RELEASE by the metering administrator with nothing
pending frees exactly the records up to MTR_REL; with a wrong key it is refused with reason 1. COMPLETION: exec answers a next state, under
conditions on the state and the operands alone, for cycleClose, billingRecordSign, pulseOutputStep, mtrSnap, mtrRelease. -/
def Obligations.MeteringCyclesAndRecords : Prop :=
  (∀ (s : State) (p y : Nat) (im : Image), alive s → (ptValid s.cfg.active p = true ∨ (mtrOf s p).old.isSome = true) → hasTime s →
    (mtrOf s p).next = some y → im = ptIm s p y → mtrFinal im s p ((y + 1) * cycLen im s p - 1) = true →
    ∃ t, exec (.cycleClose p) s = .next t ∧ t.mtr.lastEnd = max s.mtr.lastEnd (cycNs s (y + 1)) ∧
      ((mtrOf s p).old = none → (mtrOf t p).next = some (y + 1) ∧ (mtrOf t p).old = none) ∧
      (∀ o, (mtrOf s p).old = some o → y + 1 < o.stop → (mtrOf t p).next = some (y + 1) ∧ (mtrOf t p).old = some o) ∧
      (∀ o, (mtrOf s p).old = some o → o.stop ≤ y + 1 →
        (mtrOf t p).next = (if ptValid s.cfg.active p = true then some o.stop else none) ∧ (mtrOf t p).old = none)) ∧
  (∀ (s : State) (p y : Nat), alive s → (mtrOf s p).next = some y →
    mtrFinal (ptIm s p y) s p ((y + 1) * cycLen (ptIm s p y) s p - 1) = false → exec (.cycleClose p) s = .next s) ∧
  (∀ (s : State) (b : BillBody) (rest : List BillBody), alive s → s.nv.bodies = b :: rest →
    ∃ t, exec .billingRecordSign s = .next t ∧ t.nv.bodies = rest ∧ s.nv.billSeq ≤ t.nv.billSeq ∧
      (s.nv.pend = [] → ordinaryUsed s < 6080 → t.nv.billSeq = s.nv.billSeq + 1 ∧
        ∃ e, fget? t.nv.log (s.nv.billSeq + 1) = some e ∧ e.kept = false)) ∧
  (∀ (s : State) (k ns : Nat), alive s → imBit s.cfg.active secMTR_PULSE k 0 31 → 0 < (poOf s k).backlog →
    0 < (poOf s k).delta → (poOf s k).due ≤ ns →
    ∃ t, exec (.pulseOutputStep k ns) s = .next t ∧ (poOf t k).backlog = (poOf s k).backlog - 1 ∧
      (poOf t k).emitted = ((poOf s k).emitted + 1) % 2 ^ 32 ∧ (poOf t k).start = some ns ∧ (poOf t k).due = ns + (poOf s k).delta ∧
      ∀ j, j ≠ k → poOf t j = poOf s j) ∧
  (∀ (s : State) (k ns : Nat), alive s → ((poOf s k).backlog = 0 ∨ (poOf s k).delta = 0 ∨ ns < (poOf s k).due) →
    exec (.pulseOutputStep k ns) s = .next s) ∧
  (∀ (s : State) (n : Nat), s.hp.length = 4 → alive s → validFn s n →
    ∃ t, exec (.mtrSnap n) s = .next t ∧
      (fnOf t n).mtrLatch = s.mtr.pts.flatMap (fun e => (e.2.regs.zip (List.range 7)).map (fun g => (e.1 * 8 + g.2, g.1))) ∧
      fnReg t n (MTR + 0x10) = BitVec.ofNat 32 (s.mtr.lastEnd / 1000000000) ∧
      fnReg t n (MTR + 0x18) = BitVec.ofNat 32 (s.mtr.lastEnd % 1000000000) ∧ ∀ m r, m ≠ n → fnReg t m r = fnReg s m r) ∧
  (∀ (s : State) (n : Nat), alive s → mtrAdmin s n → s.nv.pend = [] →
    ∃ t, exec (.mtrRelease n 0x4D7E) s = .next t ∧ t.nv.log = s.nv.log.filter (fun e => decide (s.mtr.rel < e.1)) ∧ t.nv.billSeq = s.nv.billSeq) ∧
  (∀ (s : State) (n key : Nat), alive s → validFn s n → key ≠ 0x4D7E → exec (.mtrRelease n key) s = .next (mtrRefuse n 1 s))

/-- OUTPUT_FRAME_ASSEMBLE of a stream takes its oldest frame due, and the other frames due keep their order; where the stream is off, or none of
its clients is on, no frame is built; a control output without output authority is withheld and counted. Where nothing is found corrupt, the
frame waits at the unpaired ports with the link up of the PORT_MASK over UDP, of its connection for the one TCP client that is on, which is
skipped and counted where its send buffer is full: a data frame of the sealed set of its instant, an alarm frame with the bits at the close,
an early alarm with its one bit, or an R-SV PDU, unsigned where no signature is asked, under the next SPDU number. While a lower stream of
the same group and instant still owes its frame, nothing changes. CFG_PEND_START, from 60 s before a scheduled activation that changes CFG-2
of the stream, marks the change as pending for exactly that stream. COMPLETION: exec answers a next state, under conditions on the state and
the operands alone, for outputFrameAssemble, cfgPendStart. -/
def Obligations.OutputFramesAreAssembledOnceDue : Prop :=
  (∀ (s : State) (n : Nat) (k : FrameCheck) (d : FrameDue) (rest : List FrameDue), alive s → takeFirst (fun d => d.os == n) s.pub.due = some (d, rest) →
    (osKind s.cfg.active n = 3 ∨ lowerDue s d = false) →
    (osSends s n d.inst = false → exec (.outputFrameAssemble n k) s = .next { s with pub := { s.pub with due := rest } }) ∧
    (osSends s n d.inst = true ∧ osControl s.cfg.active n = true ∧ authority s = false →
      exec (.outputFrameAssemble n k) s = .next (withhold { s with pub := { s.pub with due := rest } })) ∧
    ∃ t, exec (.outputFrameAssemble n k) s = .next t ∧ t.pub.due = rest) ∧
  (∀ (s : State) (n : Nat) (k : FrameCheck) (d : FrameDue) (rest : List FrameDue) (body : List Byte), alive s →
    takeFirst (fun d => d.os == n) s.pub.due = some (d, rest) → (osKind s.cfg.active n = 3 ∨ lowerDue s d = false) →
    (osControl s.cfg.active n = false ∨ authority s = true) → osSends s n d.inst = true →
    k.setRes = 0 → k.frameRes = 0 →
    ((osKind s.cfg.active n = 0 ∧ ∃ x, setOf s (osGroup s.cfg.active n) d.inst = some x ∧ body = dataBody s n d.inst x) ∨
      (osKind s.cfg.active n = 2 ∧ body = alarmBody s n d.inst (closeBits s n d.held)) ∨
      (osKind s.cfg.active n = 3 ∧ body = alarmBody s n d.inst [d.bit])) →
    ∃ t, exec (.outputFrameAssemble n k) s = .next t ∧
      (osTcp s.cfg.active n = false →
        sentOn s t (osF s.cfg.active n 3 12 0) (ipLen (osDst s.cfg.active n) (osF s.cfg.active n 3 27 16) (16 + body.length) false)
          (fun b => b = .out n s.pub.frameNo 0 (c37Frame s 0 (osF s.cfg.active n 0 15 0) (gridNs s d.inst) (osF s.cfg.active n 4 23 0) body))) ∧
      (∀ c, osTcp s.cfg.active n = true → onClients s n d.inst = [c] →
        (k.full.contains (c.addr, c.port) = false →
          sentOn s t (connMask s.cfg.active c.eport) (ipLen c.addr (osF s.cfg.active n 3 27 16) (16 + body.length) true)
            (fun b => b = .out n s.pub.frameNo 0 (c37Frame s 0 (osF s.cfg.active n 0 15 0) (gridNs s d.inst) (osF s.cfg.active n 4 23 0) body))) ∧
        (k.full.contains (c.addr, c.port) = true → t.eth.ports = s.eth.ports ∧
          counter t (PUB + 0x314) 0xFFFF = counter s (PUB + 0x314) 0xFFFF + 1#32))) ∧
  (∀ (s : State) (n : Nat) (k : FrameCheck) (d : FrameDue) (rest : List FrameDue) (x : ASet), alive s →
    takeFirst (fun d => d.os == n) s.pub.due = some (d, rest) → osKind s.cfg.active n = 1 → lowerDue s d = false →
    (osControl s.cfg.active n = false ∨ authority s = true) → osSends s n d.inst = true →
    imBit s.cfg.active secOUT_STREAM n 10 13 = false →
    k.setRes = 0 → k.frameRes = 0 → setOf s (osGroup s.cfg.active n) d.inst = some x →
    ∃ t, exec (.outputFrameAssemble n k) s = .next t ∧ (osOf t n).spdu = (osOf s n).spdu + 1#32 ∧
      sentOn s t (osF s.cfg.active n 3 12 0)
        (ipLen (osDst s.cfg.active n) (osF s.cfg.active n 3 27 16) (8 + (rsvBody s n d.inst x).length) false)
        (fun b => ∃ no pdu, b = .outRsv n no ((osOf s n).spdu + 1#32) pdu [] ∧ pdu.drop 8 = rsvBody s n d.inst x)) ∧
  (∀ (s : State) (n : Nat) (k : FrameCheck) (d : FrameDue) (rest : List FrameDue), alive s → takeFirst (fun d => d.os == n) s.pub.due = some (d, rest) →
    osKind s.cfg.active n ≠ 3 → lowerDue s d = true → exec (.outputFrameAssemble n k) s = .next s) ∧
  (∀ (s : State) (n at_ : Nat) (im : Image), alive s → s.cfg.sched = some at_ → s.cfg.staged = some im → hasTime s →
    at_ * 1000000000 ≤ s.tb.now + 60000000000 → (osOf s n).cfgPend = false → cfgChanges s.cfg.active im n →
    ∃ t, exec (.cfgPendStart n) s = .next t ∧ osOf t n = { osOf s n with cfgPend := true } ∧ ∀ m, m ≠ n → osOf t m = osOf s m)

/-- Of the oldest command frame handed on, bound to output stream n: TURN_OFF and TURN_ON turn a UDP stream off and on, and of a TCP stream the
client that sent the command; they leave every other stream as it was. One that was off sends for the instants after the command is handled
(assumption 216). A request for the header, CFG-1, CFG-2 or CFG-3 is answered by exactly that frame: for a UDP stream at the unpaired ports
of its PORT_MASK with the link up, for a TCP client at the port of its connection, unless its send buffer cannot take it. Every one of the
six uses one of the commands of its second. A command that Table 12-5 ignores sets PUB_FLAGS bit 5 and leaves the streams as they are.
COMPLETION: exec answers a next state, under conditions on the state and the operands alone, for cmdTurnOff, cmdTurnOn, cmdSendHeader,
cmdSendCfg1, cmdSendCfg2, cmdSendCfg3, cmdBad. -/
def Obligations.CommandsToOutputStreams : Prop :=
  (∀ (s u : State) (n : Nat) (h : IpHdr) (bs : List Byte) (b : Bool) (t : State), alive s →
    ((b = false ∧ takeCmd (· == 1) s = some (n, h, bs, u) ∧ t = setOn n h false (cmdUsed n u)) ∨
      (b = true ∧ takeCmd (· == 2) s = some (n, h, bs, u) ∧ t = setOn n h true (cmdUsed n u))) →
    (b = false → exec .cmdTurnOff s = .next t) ∧ (b = true → exec .cmdTurnOn s = .next t) ∧
    (osTcp s.cfg.active n = false → (osOf t n).on = b ∧ (osOf t n).clients = (osOf s n).clients ∧
      (osOf t n).onAt = (if b && !(osOf s n).on then u.tb.now else (osOf s n).onAt)) ∧
    (osTcp s.cfg.active n = true → (osOf t n).on = (osOf s n).on ∧
      (osOf t n).clients = (osOf s n).clients.map (fun c => if c.addr = h.src ∧ c.port = h.sport then
        { c with on := b, onAt := if b && !c.on then u.tb.now else c.onAt } else c)) ∧
    (osOf t n).cmdSec = limitSec u ∧ (osOf t n).cmdN = (if (osOf s n).cmdSec = limitSec u then (osOf s n).cmdN else 0) + 1 ∧
    ∀ m, m ≠ n → osOf t m = osOf s m) ∧
  (∀ (s u : State) (n : Nat) (h : IpHdr) (bs : List Byte) (full : Bool), alive s →
    (takeCmd (· == 3) s = some (n, h, bs, u) → ∃ t, exec (.cmdSendHeader full) s = .next t ∧ commandUsed s u t n ∧
      (full = false ∨ osTcp s.cfg.active n = false → answers u t n h 1 (c37Frame u 1 (osF u.cfg.active n 0 15 0) u.tb.now (osF u.cfg.active n 4 23 0) (imName u.cfg.active 4 n))) ∧ (full = true → osTcp s.cfg.active n = true → t.eth.ports = u.eth.ports)) ∧
    (takeCmd (· == 4) s = some (n, h, bs, u) → ∃ t, exec (.cmdSendCfg1 full) s = .next t ∧ commandUsed s u t n ∧
      (full = false ∨ osTcp s.cfg.active n = false → answers u t n h 2 (cfgFrameBytes u n 2)) ∧ (full = true → osTcp s.cfg.active n = true → t.eth.ports = u.eth.ports)) ∧
    (takeCmd (· == 5) s = some (n, h, bs, u) → ∃ t, exec (.cmdSendCfg2 full) s = .next t ∧ commandUsed s u t n ∧
      (full = false ∨ osTcp s.cfg.active n = false → answers u t n h 3 (cfgFrameBytes u n 3)) ∧ (full = true → osTcp s.cfg.active n = true → t.eth.ports = u.eth.ports)) ∧
    (takeCmd (· == 6) s = some (n, h, bs, u) → ∃ t, exec (.cmdSendCfg3 full) s = .next t ∧ commandUsed s u t n ∧
      (full = false ∨ osTcp s.cfg.active n = false → answers u t n h 5 (cfgFrameBytes u n 5)) ∧ (full = true → osTcp s.cfg.active n = true → t.eth.ports = u.eth.ports))) ∧
  (∀ (s u : State) (n : Nat) (h : IpHdr) (bs : List Byte), s.hp.length = 4 → alive s → takeCmd (· == 0) s = some (n, h, bs, u) →
    ∃ t, exec .cmdBad s = .next t ∧ flagged t (PUB + 4) 5 ∧ ∀ m, osOf t m = osOf s m)

/-- PUB_TCP_CONNECT of a new client of a TCP stream with fewer than four adds it, off, behind the others; PUB_TCP_DISCONNECT removes exactly it.
GOOSE_REPEAT at its due tick raises sqNum (from 0xFFFF_FFFF to 1), keeps stNum, and doubles the gap up to TMAX; an unsigned message found in
order waits with these numbers and its values at the unpaired ports of its PORT_MASK with the link up. DO_MIN_ON_EXPIRY of a DO whose fall
MIN_ON held back lets it fall. DO_HOLD_EXPIRY releases a held DO. COMPLETION: exec answers a next state, under conditions on the state and
the operands alone, for pubTcpConnect, pubTcpDisconnect, gooseRepeat, doMinOnExpiry, doHoldExpiry. -/
def Obligations.ClientsRepeatsAndHardwiredOutputs : Prop :=
  (∀ (s : State) (n a p e : Nat), alive s → osValid s.cfg.active n → osTcp s.cfg.active n → (osOf s n).clients.length < 4 →
    (osOf s n).clients.any (fun c => c.addr == a && c.port == p) = false →
    ∃ t, exec (.pubTcpConnect n a p e) s = .next t ∧ (osOf t n).clients = (osOf s n).clients ++ [{ addr := a, port := p, eport := e }] ∧
      ∀ m, m ≠ n → osOf t m = osOf s m) ∧
  (∀ (s : State) (n a p : Nat), alive s → (osOf s n).clients.any (fun c => c.addr == a && c.port == p) = true →
    ∃ t, exec (.pubTcpDisconnect n a p) s = .next t ∧ (∀ c, c ∈ (osOf t n).clients ↔ c ∈ (osOf s n).clients ∧ ¬(c.addr = a ∧ c.port = p)) ∧
      ∀ m, m ≠ n → osOf t m = osOf s m) ∧
  (∀ (s : State) (n res : Nat), alive s → imBit s.cfg.active secGOOSE n 0 31 → (gpOf s n).active = true → (gpOf s n).next ≤ s.tb.tick →
    (gpControl s.cfg.active n = false ∨ authority s = true) →
    ∃ t, exec (.gooseRepeat n res) s = .next t ∧ (gpOf t n).sqnum = (if (gpOf s n).sqnum = 0xFFFFFFFF#32 then 1#32 else (gpOf s n).sqnum + 1#32) ∧
      (gpOf t n).stnum = (gpOf s n).stnum ∧ (gpOf t n).gap = min (2 * (gpOf s n).gap) (gpF s.cfg.active n 7 15 0 * 1024) ∧
      (gpOf t n).next = s.tb.tick + (gpOf t n).gap ∧
      (res = 0 → imBit s.cfg.active secGOOSE n 0 28 = false →
        ∀ m, m = gooseOut t n → m.gp = n ∧ m.stNum = (gpOf s n).stnum ∧ m.sqNum = (gpOf t n).sqnum ∧ m.vals = (gpOf s n).vals ∧
          m.tal = ceilDiv (2 * (gpOf t n).gap * 1000) (tps s) ∧ m.confRev = gpF s.cfg.active n 8 31 0 ∧
          m.udp = (if imBit s.cfg.active secGOOSE n 0 30 then some 102 else none) ∧
          sentOn s t (gpF s.cfg.active n 6 12 0) (gooseLen s.cfg.active m (gooseBytes s.pub.frameNo m).length)
            (fun b => b = .goose s.pub.frameNo m))) ∧
  (∀ (s : State) (n : Nat), alive s → (doOf s n).st = 1 → (doOf s n).fallHeld = true →
    (doOf s n).lastRise + imFld s.cfg.active secDO n 1 31 16 ≤ s.tb.tick →
    ∃ t, exec (.doMinOnExpiry n) s = .next t ∧ (doOf t n).level = false ∧ (doOf t n).fallHeld = false ∧ (doOf t n).st = 1 ∧
      ∀ m, m ≠ n → doOf t m = doOf s m) ∧
  (∀ (s : State) (n : Nat), alive s → (doOf s n).st = 2 → (doOf s n).holdEnd ≤ s.tb.tick →
    ∃ t, exec (.doHoldExpiry n) s = .next t ∧ (doOf t n).st = 0 ∧ (doOf t n).level = false ∧ ∀ m, m ≠ n → doOf t m = doOf s m)

/-- The item that a free unit takes is the head of its level queue at the engine (no waiting item of the level was admitted before it) and may
be dispatched; one of levels 4 to 7 is taken only where none of levels 0 to 3 waits, and of the heads of levels 0 to 3 that may be
dispatched none has an earlier deadline. In atomic mode a head whose flow still has an older item is held back with its queue (assumption
220). WORK_ITEM_DISPATCH with a free unit puts it in service on the unit, and where no item or other work waits for room it changes no other
item. WORK_ITEM_RELEASE of an item behind an older unfinished item of its flow marks it finished and keeps every item; the release of the
only item of its flow removes it, and where it has a next stage whose level queue takes it, the item waits there as the last, with its
admission number, its path start and the deadline of that stage. COMPLETION: exec answers a next state, under conditions on the state and
the operands alone, for workItemDispatch, workItemRelease. -/
def Obligations.WorkItemsAreDispatchedAndReleased : Prop :=
  (∀ (s : State) (e : Nat) (i : TskItem), nextItem s e = some i →
    i ∈ s.tsk.items ∧ i.engine = e ∧ i.st = 1 ∧ mayDispatch s i = true ∧
      (∀ j ∈ s.tsk.items, j.engine = e → j.st = 1 → j.level = i.level → i.adm ≤ j.adm) ∧
      (4 ≤ i.level → ∀ j ∈ s.tsk.items, j.engine = e → j.st = 1 → 4 ≤ j.level) ∧
      (i.level < 4 → ∀ j ∈ s.tsk.items, j.engine = e → j.st = 1 → j.level < 4 → mayDispatch s j = true →
        (∀ k ∈ s.tsk.items, k.engine = e → k.st = 1 → k.level = j.level → k ≠ j → j.adm < k.adm) →
        i.deadline.getD 0 ≤ j.deadline.getD 0)) ∧
  (∀ (s : State) (e u : Nat) (x : TskIn) (i : TskItem), alive s → u < engineUnits e → nextItem (admitAll x s) e = some i →
    unitBusy (admitAll x s) e u = false →
    (∀ a ∈ (admitAll x s).tsk.items, ∀ b ∈ (admitAll x s).tsk.items, a.flow = b.flow → a.adm = b.adm → a = b) →
    ∃ t, exec (.workItemDispatch e u x) s = .next t ∧
      (∃ j ∈ t.tsk.items, j.flow = i.flow ∧ j.adm = i.adm ∧ j.st = 2 ∧ j.unit = u) ∧
      ((∀ j ∈ (admitAll x s).tsk.items, j.st ≠ 4) → (admitAll x s).tsk.stalled = [] → t.tsk.items = (admitAll x s).tsk.items.map
        (fun j => if j.flow = i.flow ∧ j.adm = i.adm then { j with st := 2, unit := u } else j))) ∧
  (∀ (s : State) (f adm : Nat) (next : Option Nat) (i x : TskItem), alive s → s.tsk.stalled = [] →
    s.tsk.items.find? (fun i => i.flow == f && i.adm == adm && i.st == 2) = some i →
    oldest (s.tsk.items.filter (fun i => i.flow == f)) = some x → x.adm ≠ adm → x.st ≠ 3 → x.st ≠ 4 →
    ∃ t, exec (.workItemRelease f adm next) s = .next t ∧ t.tsk.items = s.tsk.items.map
      (fun j => if j.flow = f ∧ j.adm = adm then { j with st := 3, next := next } else j)) ∧
  (∀ (s : State) (f : Nat) (i : TskItem), alive s → s.tsk.stalled = [] → s.tsk.items.filter (fun i => i.flow == f) = [i] → i.st = 2 →
    ∃ t, exec (.workItemRelease f i.adm none) s = .next t ∧ t.tsk.items = s.tsk.items.filter (fun i => i.flow != f)) ∧
  (∀ (s : State) (f g : Nat) (i : TskItem), alive s → s.tsk.stalled = [] → s.tsk.items.filter (fun i => i.flow == f) = [i] → i.st = 2 →
    levelRoom s g i.adm = true →
    ∃ t j, exec (.workItemRelease f i.adm (some g)) s = .next t ∧ t.tsk.items = s.tsk.items.filter (fun i => i.flow != f) ++ [j] ∧
      j.flow = g ∧ j.adm = i.adm ∧ j.start = i.start ∧ j.st = 1 ∧ j.level = flowLevelAt s g i.adm ∧
      j.engine = fld (flowCtx s g) 26 21 ∧ j.deadline = (if flowBounded s g then some (i.start + fld (flowCtx s g) 15 0) else none))

/-- TSK_CTRL by an image-loading function with the key: entry without both authority and a control output asks for the test mode, and otherwise
is refused with reason 2; exit while grid time runs ends it; a level of 4 to 7 for the valid unbounded flow in TSK_FLOW_IDX is the level of
the items admitted from then on, and those admitted before keep theirs, and for any other flow is refused with reason 3. With another key
every operation is refused with reason 1 and sets TSK_FLAGS bit 4, and the scheduler stays as it is. COMPLETION: exec answers a next state,
under conditions on the state and the operands alone, for tskTestEntry, tskTestExit, tskSetLevel. -/
def Obligations.SchedulerControl : Prop :=
  (∀ (s : State) (n : Nat), alive s → imgLoad s n →
    ((authority s = false ∨ hasControl s.cfg.active = false) →
      exec (.tskTestEntry n 0x75C3) s = .next { s with tsk := { s.tsk with test := true } }) ∧
    ((authority s = true ∧ hasControl s.cfg.active = true) → exec (.tskTestEntry n 0x75C3) s = .next (tskRefuse 1 2 s)) ∧
    (hasTime s → exec (.tskTestExit n 0x75C3) s = .next { s with tsk := { s.tsk with test := false } })) ∧
  (∀ (s : State) (n l f : Nat), alive s → imgLoad s n → f = fld (fnReg s n (TSK + 0x20)) 13 0 → 4 ≤ l → l ≤ 7 →
    ∃ t, exec (.tskSetLevel n l 0x75C3) s = .next t ∧ (∀ g, g ≠ f → flowLevel t g = flowLevel s g) ∧
      if flowValid s f = true ∧ flowBounded s f = false then
        flowLevel t f = l ∧ (∀ a, a < s.tsk.adm → flowLevelAt t f a = flowLevelAt s f a) else t = tskRefuse 3 3 s) ∧
  (∀ (s : State) (n l key : Nat), s.hp.length = 4 → alive s → validFn s n → key ≠ 0x75C3 →
    exec (.tskTestEntry n key) s = .next (tskRefuse 1 1 s) ∧ exec (.tskTestExit n key) s = .next (tskRefuse 2 1 s) ∧
    exec (.tskSetLevel n l key) s = .next (tskRefuse 3 1 s) ∧ ∀ k, flagged (tskRefuse k 1 s) (TSK + 4) 4 ∧ (tskRefuse k 1 s).tsk = s.tsk)

/-- The winner of a resource waits for it, has a deadline where any request for it has one, and no request of its class has less slack; in a
beat in which no grant ends and no request appears, a free resource that is no port is granted to it. After every ARB_BEAT, a resource with
a request still waiting is owned, or the port behind it is held by a received pause, sends, or has no link. LOCK_OVER of a locked sequence
in its 33rd beat frees the resource and sets ARB_FLAGS bit 3; before that nothing changes. LST_REWRITE of a waiting request changes its LST
alone and keeps the order of the requests; without such a request nothing changes. COMPLETION: exec answers a next state, under conditions
on the state and the operands alone, for arbBeat, lockOver, lstRewrite. -/
def Obligations.TheArbiterGrantsEveryFreeResource : Prop :=
  (∀ (s : State) (r : Nat) (x : ArbReq) (tie : Bool), arbWinner s r = some (x, tie) →
    x ∈ s.arb.reqs ∧ x.res = r ∧ ∀ y ∈ s.arb.reqs, y.res = r →
      (x.nodl = true → y.nodl = true) ∧ (y.nodl = x.nodl → slack s.tb.tick x ≤ slack s.tb.tick y)) ∧
  (∀ (s : State) (r : Nat) (x : ArbReq) (tie : Bool), alive s → r < 47 → egress r = false → (resOf s r).owner = none →
    arbWinner s r = some (x, tie) →
    ∃ t, exec (.arbBeat [] []) s = .next t ∧ (resOf t r).owner = some (x.rq, x.lock, 1) ∧ (resOf t r).grants = (resOf s r).grants + 1#32) ∧
  (∀ (s : State) (done : List Nat) (reqs : List ArbIn), alive s →
    ∃ t, exec (.arbBeat done reqs) s = .next t ∧ ∀ r, r < 47 → (∃ q ∈ t.arb.reqs, q.res = r) → (resOf t r).owner.isSome ∨ resPaused t r ∨ portBusy t r) ∧
  (∀ (s : State) (r rq n : Nat), s.hp.length = 4 → alive s → (resOf s r).owner = some (rq, true, n) →
    (33 ≤ n → ∃ t, exec (.lockOver r) s = .next t ∧ (resOf t r).owner = none ∧ flagged t (ARB + 4) 3 ∧ ∀ q, q ≠ r → resOf t q = resOf s q) ∧
    (n < 33 → exec (.lockOver r) s = .next s)) ∧
  (∀ (s : State) (rq r : Nat) (lst : BitVec 16), alive s → (∃ x ∈ s.arb.reqs, x.rq = rq ∧ x.res = r) →
    ∃ t, exec (.lstRewrite rq r lst) s = .next t ∧
      t.arb.reqs = s.arb.reqs.map (fun x => if x.rq = rq ∧ x.res = r then { x with lst := lst } else x) ∧ t.arb.res = s.arb.res) ∧
  (∀ (s : State) (rq r : Nat) (lst : BitVec 16), alive s → (∀ x ∈ s.arb.reqs, ¬(x.rq = rq ∧ x.res = r)) →
    exec (.lstRewrite rq r lst) s = .next s)

/-- By an image-loading function with the key 0xC0F6, nothing busy: STAGE_SLOT_A, STAGE_SLOT_B and STAGE_PUSH begin staging from their source
and discard an earlier staged image. STAGING_DONE holds the parsed image when every check of the load passes, and otherwise stages nothing
and sets CFG_FLAGS bit 0. WRITE_SLOT begins writing into the slot that does not boot. SLOT_WRITE_DONE leaves the slot good exactly when its
check word holds. SET_BOOT_SLOT takes a good slot, and refuses another with reason 27. DISCARD_STAGED of an unscheduled image discards it.
COMPLETION: exec answers a next state, under conditions on the state and the operands alone, for stageSlotA, stageSlotB, stagePush,
stagingDone, writeSlot, slotWriteDone, setBootSlot, discardStaged. -/
def Obligations.StagingAndSlots : Prop :=
  (∀ (s : State) (n : Nat), alive s → imgLoad s n → cfgBusy s = false → s.cfg.sched = none →
    (∃ t, exec (.stageSlotA n 0xC0F6) s = .next t ∧ t.cfg.staging = some 1 ∧ t.cfg.staged = none ∧ t.cfg.active = s.cfg.active) ∧
    (∃ t, exec (.stageSlotB n 0xC0F6) s = .next t ∧ t.cfg.staging = some 2 ∧ t.cfg.staged = none ∧ t.cfg.active = s.cfg.active) ∧
    (∃ t, exec (.stagePush n 0xC0F6) s = .next t ∧ t.cfg.staging = some 3 ∧ t.cfg.staged = none ∧ t.cfg.active = s.cfg.active)) ∧
  (∀ (s : State) (k : Nat), s.hp.length = 4 → alive s → s.cfg.staging = some k →
    ∃ t, exec .stagingDone s = .next t ∧ t.cfg.staging = none ∧ t.cfg.active = s.cfg.active ∧
      if (loadCheck s (sourceRaw s k) true).reason = 0 then
        t.cfg.staged = some (parseImage (sourceRaw s k)) ∧ t.cfg.stagedRaw = sourceRaw s k
      else t.cfg.staged = s.cfg.staged ∧ flagged t (CFG + 4) 0) ∧
  (∀ (s : State) (n k : Nat), alive s → imgLoad s n → cfgBusy s = false → k % 2 ≠ s.cfg.boot → s.cfg.staged.isSome → s.cfg.stagedRaw ≠ [] →
    ∃ t, exec (.writeSlot n 0xC0F6 k) s = .next t ∧ t.cfg.writing = some (k % 2) ∧ t.cfg.writeRaw = s.cfg.stagedRaw ∧ (slotN t (k % 2)).state = 3) ∧
  (∀ (s : State) (k : Nat), alive s → s.cfg.writing = some k →
    ∃ t, exec .slotWriteDone s = .next t ∧ t.cfg.writing = none ∧ (slotN t k).raw = s.cfg.writeRaw ∧
      (slotN t k).state = (if checkWordOk s.cfg.writeRaw then 1 else 2)) ∧
  (∀ (s : State) (n k : Nat), alive s → imgLoad s n →
    ((slotN s (k % 2)).state = 1 → exec (.setBootSlot n 0xC0F6 k) s = .next { s with cfg := { s.cfg with boot := k % 2 } }) ∧
    ((slotN s (k % 2)).state ≠ 1 → exec (.setBootSlot n 0xC0F6 k) s = .next (cfgRefuse 7 27 s))) ∧
  (∀ (s : State) (n : Nat), alive s → imgLoad s n → s.cfg.staged.isSome → s.cfg.sched = none →
    exec (.discardStaged n 0xC0F6) s = .next { s with cfg := { s.cfg with staged := none, stagedRaw := [], stagedSrc := 0 } })

/-- SCHEDULE_ACTIVATION by an image-loading function of a staged image, not under factory defaults, for a second that R387 admits: exactly that
second is scheduled, and the active vintage stays. CANCEL_ACTIVATION at least 1 s before it: nothing is scheduled, and no output stream
shows a pending configuration change. ACTIVATION once its second has begun: the staged image is active, and nothing is staged or scheduled.
Before its second nothing changes. COMPLETION: exec answers a next state, under conditions on the state and the operands alone, for
scheduleActivation, cancelActivation, activation. -/
def Obligations.SchedulingAndActivation : Prop :=
  (∀ (s : State) (n : Nat) (im : Image), alive s → imgLoad s n → s.cfg.staged = some im → s.cfg.src ≠ 0 → s.cfg.sched = none →
    schedRefused s im (argSecond s n) = false →
    ∃ t, exec (.scheduleActivation n 0xC0F6) s = .next t ∧ t.cfg.sched = some (argSecond s n) ∧ taiSec s + 2 ≤ argSecond s n ∧
      t.cfg.active = s.cfg.active ∧ t.cfg.staged = some im) ∧
  (∀ (s : State) (n sec : Nat), alive s → imgLoad s n → s.cfg.sched = some sec → s.tb.now + 1000000000 ≤ sec * 1000000000 →
    ∃ t, exec (.cancelActivation n 0xC0F6) s = .next t ∧ t.cfg.sched = none ∧ (∀ k, k < 256 → (osOf t k).cfgPend = false) ∧
      t.cfg.staged = s.cfg.staged) ∧
  (∀ (s : State) (sec : Nat) (im : Image), alive s → s.cfg.sched = some sec → s.cfg.staged = some im → hasTime s → sec * tps s ≤ s.tb.grid →
    ∃ t, exec .activation s = .next t ∧ t.cfg.active = im ∧ t.cfg.activeRaw = s.cfg.stagedRaw ∧ t.cfg.staged = none ∧ t.cfg.sched = none) ∧
  (∀ (s : State) (sec : Nat), alive s → s.cfg.sched = some sec → s.tb.grid < sec * tps s → exec .activation s = .next s)

/-- CFG_BAT_VAL_WRITE puts the value for the record of CFG_BAT_PAR into the buffer of the function, in place of an earlier value for it.
COMMIT_BATCH that no reason of R390 refuses hands the whole buffer over and empties it; a refused one hands nothing over and shows its
reason. EMPTY_BATCH empties the buffer. BATCH_APPLY after the tick of a commit puts every value of it into force, counts the batch number
and saves the values in force in the cellar. COMPLETION: exec answers a next state, under conditions on the state and the operands alone,
for cfgBatValWrite, commitBatch, emptyBatch, batchApply. -/
def Obligations.ParameterBatches : Prop :=
  (∀ (s : State) (n : Nat) (v : Word), s.hp.length = 4 → alive s → validFn s n →
    (batchPut (fnOf s n).batch (fld (fnReg s n (CFG + 0x50)) 13 0) v).length ≤ 256 →
    ∃ t, exec (.cfgBatValWrite n v) s = .next t ∧ (fnOf t n).batch = batchPut (fnOf s n).batch (fld (fnReg s n (CFG + 0x50)) 13 0) v ∧
      ∀ m, m ≠ n → fnOf t m = fnOf s m) ∧
  (∀ (s : State) (n : Nat), s.hp.length = 4 → alive s → validFn s n → commitFault s n = none →
    ∃ t, exec (.commitBatch n 0xC0F6) s = .next t ∧ (fnOf t n).batch = [] ∧ (fnOf t n).batLast = 1 ∧ t.cfg.pars = s.cfg.pars ∧
      t.cfg.commits = s.cfg.commits ++ [{ fn := n, tick := s.tb.tick, entries := (fnOf s n).batch }]) ∧
  (∀ (s : State) (n r i : Nat), s.hp.length = 4 → alive s → validFn s n → commitFault s n = some (r, i) →
    ∃ t, exec (.commitBatch n 0xC0F6) s = .next t ∧ (fnOf t n).batLast = 2 ∧ (fnOf t n).batReason = r ∧ t.cfg.commits = s.cfg.commits ∧
      (fnOf t n).batch = (fnOf s n).batch) ∧
  (∀ (s : State) (n : Nat), s.hp.length = 4 → alive s → validFn s n →
    ∃ t, exec (.emptyBatch n 0xC0F6) s = .next t ∧ (fnOf t n).batch = [] ∧ t.cfg = s.cfg) ∧
  (∀ (s : State) (b : Batch), alive s → s.cfg.commits = [b] → b.tick < s.tb.tick → b.fn < 4 →
    ∃ t, exec .batchApply s = .next t ∧ t.cfg.commits = [] ∧ t.cfg.batNum = s.cfg.batNum + 1 ∧
      t.cfg.pars = b.entries.foldl (fun m e => fset m e.1 e.2) s.cfg.pars ∧ t.nv.pars = t.cfg.pars) ∧
  (∀ s : State, alive s → (∀ b ∈ s.cfg.commits, s.tb.tick ≤ b.tick) → exec .batchApply s = .next s)

/-- W1C_WRITE by function n leaves each bit of its copy set exactly when it was set and is written as 0, and every other register of every
function as it is. RC_REGISTER_READ gives the function its copy of the maximum and deletes that copy alone. WINDOW_INDEX_WRITE shows in the
index register of the function the index that is kept and whether access is denied, and leaves the registers of the others. REGISTER_WRITE
to CFG_ARG stores the word for the function. BAD_ACCESS reads as 0 and sets HIF_FLAGS.BAD_ACCESS of the function. COMPLETION: exec answers a
next state, under conditions on the state and the operands alone, for w1cWrite, rcRegisterRead, windowIndexWrite, registerWrite, badAccess. -/
def Obligations.RegisterAccesses : Prop :=
  (∀ (s : State) (n off : Nat) (v : Word), s.hp.length = 4 → alive s → validFn s n → isW1C off →
    ∃ t, exec (.w1cWrite n off v) s = .next t ∧ (∀ b, b < 32 → bit (fnReg t n off) b = (bit (fnReg s n off) b && !bit v b)) ∧
      ∀ m o, (m ≠ n ∨ o ≠ off) → fnReg t m o = fnReg s m o) ∧
  (∀ (s : State) (n off : Nat), s.hp.length = 4 → alive s → validFn s n → isRc off →
    ∃ t, exec (.rcRegisterRead n off) s = .next t ∧ (fnOf t n).lastRead = readReg s n off ∧ fget? (fnOf t n).rc (off * 65536) = none ∧
      (∀ k, k ≠ off * 65536 → fget? (fnOf t n).rc k = fget? (fnOf s n).rc k) ∧ ∀ m, m ≠ n → fnOf t m = fnOf s m) ∧
  (∀ (s : State) (n off : Nat) (v : Word), s.hp.length = 4 → alive s → validFn s n → isWindow off →
    ∃ t, exec (.windowIndexWrite n off v) s = .next t ∧
      fnReg t n off = BitVec.ofNat 32 (b2n (!(winRes s n off (idxAfter off ((fnReg s n off).toNat % 2 ^ idxBits off) v.toNat)).allowed) * 2 ^ 31 +
        idxAfter off ((fnReg s n off).toNat % 2 ^ idxBits off) v.toNat) ∧
      ∀ m o, (m ≠ n ∨ o ≠ off) → fnReg t m o = fnReg s m o) ∧
  (∀ (s : State) (n : Nat) (v : Word), s.hp.length = 4 → alive s → validFn s n →
    ∃ t, exec (.registerWrite n (CFG + 0x18) v) s = .next t ∧ fnReg t n (CFG + 0x18) = v ∧
      ∀ m o, (m ≠ n ∨ o ≠ CFG + 0x18) → fnReg t m o = fnReg s m o) ∧
  (∀ (s : State) (n : Nat), s.hp.length = 4 → alive s → n < 4 →
    ∃ t, exec (.badAccess n true) s = .next t ∧ (fnOf t n).lastRead = 0#32 ∧ bit (fnReg t n (HIF + 0xC)) 0 = true)

/-- COMMAND_FETCH with both queues enabled, a command waiting, none in progress and room in the completion queue takes the command whose bytes
it reads and advances CMD_HEAD; with a full completion queue or a command in progress nothing changes. NOP completes with status 0, an OP
that is not used with status 1, a command without its right with status 2. FENCE holds its token, with which events and records came before
its acceptance, and leaves the command in progress and the waiting events as they are; FENCE_COMPLETE places a marker once every event
before the fence has left and completes the command with the events dropped as RESULT0; before that nothing changes. A register fence ends
in CFG_FENCE_DONE = token. COMPLETION: exec answers a next state, under conditions on the state and the operands alone, for commandFetch,
cmdNop, cmdUnusedOp, cmdFence, fenceComplete, cfgFenceReqWrite, registerFenceDone. -/
def Obligations.HostCommandsAreFetchedAndFencesWait : Prop :=
  (∀ (s : State) (n : Nat) (raw : List Byte), s.hp.length = 4 → alive s → mastering s n → bit (hif s n 0x48) 31 → bit (hif s n 0x68) 31 →
    (fnOf s n).cur = none →
    (hif s n 0x50).toNat % ringSize (hif s n 0x48) 4 ≠ (hif s n 0x4C).toNat % ringSize (hif s n 0x48) 4 →
    queueFull (hif s n 0x70).toNat (hif s n 0x6C).toNat (ringSize (hif s n 0x68) 4) = false →
    ∃ (t : State) (c : Cmd), exec (.commandFetch n raw) s = .next t ∧ (fnOf t n).cur = some c ∧ c.raw = padTo 64 raw ∧ c.op = leAt c.raw 0 1 ∧
      c.tag = leAt c.raw 2 2 ∧ c.right = opRight s n c.raw ∧ c.evGen = (fnOf s n).evGen ∧ c.hrvGen = (fnOf s n).hrvGen ∧ c.acc = (if hasTime s then some s.tb.now else none) ∧
      hif t n 0x50 = BitVec.ofNat 32 (((hif s n 0x50).toNat % ringSize (hif s n 0x48) 4 + 1) % ringSize (hif s n 0x48) 4)) ∧
  (∀ (s : State) (n : Nat) (raw : List Byte), alive s →
    ((fnOf s n).cur.isSome ∨ queueFull (hif s n 0x70).toNat (hif s n 0x6C).toNat (ringSize (hif s n 0x68) 4)) →
    exec (.commandFetch n raw) s = .next s) ∧
  (∀ (s : State) (n : Nat) (raw : List Byte), s.hp.length = 4 → cmdReady s n 0x01 [] raw →
    ∃ t, exec (.cmdNop n) s = .next t ∧ completes s t n 0 0 0) ∧
  (∀ (s : State) (n : Nat) (c : Cmd), s.hp.length = 4 → alive s → (fnOf s n).cur = some c → opUsed c.op = false → mastering s n →
    ∃ t, exec (.cmdUnusedOp n) s = .next t ∧ completes s t n 1 0 0) ∧
  (∀ (s : State) (n : Nat) (c : Cmd) (data : Option (List Byte)), s.hp.length = 4 → alive s → cmdOf s n 0x10 = some c → c.right = false →
    ∃ t, exec (.cmdImgPush n data) s = .next t ∧ completes s t n 2 0 0 ∧ t.cfg = s.cfg) ∧
  (∀ (s : State) (n : Nat) (c : Cmd), s.hp.length = 4 → alive s → cmdOf s n 0x02 = some c → c.right = true →
    reservedOk c.raw [(0, 1), (2, 2), (4, 1)] → leAt c.raw 4 1 ≤ 1 →
    ∃ t x, exec (.cmdFence n) s = .next t ∧ (fnOf t n).cmdFence = some x ∧ x.token = leAt c.raw 2 2 ∧ (x.hrv = true ↔ leAt c.raw 4 1 = 1) ∧
      x.evGen = c.evGen ∧ x.hrvGen = c.hrvGen ∧ (fnOf t n).cur = some { c with waits := true } ∧ (fnOf t n).evWait = (fnOf s n).evWait) ∧
  (∀ (s : State) (n : Nat) (x : Fence), s.hp.length = 4 → alive s → (fnOf s n).cmdFence = some x →
    (fenceClear s n x = false → exec (.fenceComplete n) s = .next s) ∧
    (fenceClear s n x = true → evqOn s n → evqRoom s n →
      ∃ t, exec (.fenceComplete n) s = .next t ∧ (fnOf t n).cmdFence = none ∧
        completes s t n 0 (fnOf s n).fenceDrops (((fnOf s n).eseq + 1) % 2 ^ 32) ∧
        fget? (fnOf t n).evRing ((hif s n 0x90).toNat % ringSize (hif s n 0x88) 5) =
          some (eventBytes (fenceEvent s 0 x.token) (((fnOf s n).eseq + 1) % 2 ^ 32) (fnOf s n).evPhase (fnOf s n).evLost))) ∧
  (∀ (s : State) (n : Nat) (v : Word), s.hp.length = 4 → alive s → validFn s n →
    ∃ t x, exec (.cfgFenceReqWrite n v) s = .next t ∧ (fnOf t n).regFence = some x ∧ x.token = v.toNat ∧ x.evGen = (fnOf s n).evGen ∧
      (fnOf t n).cmdFence = (fnOf s n).cmdFence) ∧
  (∀ (s : State) (n : Nat) (x : Fence), s.hp.length = 4 → alive s → (fnOf s n).regFence = some x →
    (fenceClear s n x = false → exec (.registerFenceDone n) s = .next s) ∧
    (fenceClear s n x = true → evqRoom s n →
      ∃ t, exec (.registerFenceDone n) s = .next t ∧ (fnOf t n).regFence = none ∧ fnReg t n (CFG + 0x404) = BitVec.ofNat 32 x.token))

/-- IMG_PUSH in range with no loading busy puts the bytes at the offset in the staging buffer, every other byte as before, and completes with
the length; while busy it is refused with reason 21. PAR_BATCH appends its entries in order, later ones in place of earlier ones for the
same record, and with COMMIT hands the buffer over and answers the batch number. TAKE_READ of a closed take copies its bytes from the
offset, and completes with their count; a slot without a take answers status 7. BILL_READ copies the records held from the given sequence
number on, at most the count asked for, and answers the lowest number held. COMPLETION: exec answers a next state, under conditions on the
state and the operands alone, for cmdImgPush, cmdParBatch, cmdTakeRead, cmdBillRead. -/
def Obligations.HostCommandsMoveData : Prop :=
  (∀ (s : State) (n : Nat) (raw : List Byte), s.hp.length = 4 → memWf s.cfg.pushBuf → cmdReady s n 0x10 [(8, 16)] raw →
    leAt raw 0x10 4 % 8 = 0 → lenOk (leAt raw 0x14 4) → leAt raw 0x10 4 + leAt raw 0x14 4 ≤ 134217728 →
    (∀ bs, cfgBusy s = false → ∃ t, exec (.cmdImgPush n (some bs)) s = .next t ∧ completes s t n 0 (leAt raw 0x14 4) 0 ∧
      ∀ a, memRead1 t.cfg.pushBuf a = (if leAt raw 0x10 4 ≤ a ∧ a < leAt raw 0x10 4 + leAt raw 0x14 4
        then (padTo (leAt raw 0x14 4) bs).getD (a - leAt raw 0x10 4) 0#8 else memRead1 s.cfg.pushBuf a)) ∧
    (cfgBusy s = false → ∃ t, exec (.cmdImgPush n none) s = .next t ∧ completes s t n 4 0 0 ∧ t.cfg = s.cfg) ∧
    (∀ d, cfgBusy s = true → ∃ t, exec (.cmdImgPush n d) s = .next t ∧ completes s t n 5 21 0 ∧ t.cfg = s.cfg)) ∧
  (∀ (s : State) (n k : Nat) (c : Cmd) (l : List (Nat × Word)), s.hp.length = 4 → alive s → cmdOf s n 0x11 = some c → k = leAt c.raw 4 1 →
    1 ≤ k → k ≤ 6 → reservedOk c.raw ([(0, 1), (2, 4)] ++ (List.range k).flatMap (fun i => [(8 + 8 * i, 2), (12 + 8 * i, 4)])) →
    (∀ e ∈ parEntries c.raw k, e.1 ≤ 16383) → l = (parEntries c.raw k).foldl (fun b e => batchPut b e.1 e.2) (fnOf s n).batch → l.length ≤ 256 →
    (leAt c.raw 5 1 = 0 → ∃ t, exec (.cmdParBatch n) s = .next t ∧ completes s t n 0 0 0 ∧ (fnOf t n).batch = l ∧ t.cfg = s.cfg) ∧
    (leAt c.raw 5 1 = 1 → (fnOf s n).batch ≠ [] →
      commitFault (modFn s n (fun f => { f with batch := l })) n = none →
      ∃ t num, exec (.cmdParBatch n) s = .next t ∧ completes s t n 0 0 num ∧ (fnOf t n).batch = [] ∧
        t.cfg.commits = s.cfg.commits ++ [{ fn := n, tick := s.tb.tick, entries := l }])) ∧
  (∀ (s : State) (n : Nat) (raw : List Byte), s.hp.length = 4 → cmdReady s n 0x20 [(4, 2), (8, 16)] raw →
    (∀ k, fget? s.cap.takes (leAt raw 4 2) = some k → k.closed → leAt raw 0x10 4 % 8 = 0 → lenOk (leAt raw 0x14 4) →
      leAt raw 0x10 4 < k.raw.length →
      ∃ t, exec (.cmdTakeRead n true) s = .next t ∧ completes s t n 0 (slice k.raw (leAt raw 0x10 4) (leAt raw 0x14 4)).length 0 ∧
        (fnOf t n).dma = some (leAt raw 8 8, slice k.raw (leAt raw 0x10 4) (leAt raw 0x14 4))) ∧
    (fget? s.cap.takes (leAt raw 4 2) = none → ∀ ok, ∃ t, exec (.cmdTakeRead n ok) s = .next t ∧ completes s t n 7 0 0)) ∧
  (∀ (s : State) (n : Nat) (raw : List Byte) (e : Nat × BillEnt) (l : List (Nat × BillEnt)), s.hp.length = 4 →
    cmdReady s n 0x28 [(8, 10), (0x18, 8)] raw → 1 ≤ leAt raw 0x10 2 → leAt raw 0x10 2 ≤ 64 → s.nv.log = e :: l →
    ∃ t es, exec (.cmdBillRead n true) s = .next t ∧ es = (s.nv.log.filter (fun e => decide (leAt raw 8 8 ≤ e.1))).take (leAt raw 0x10 2) ∧
      completes s t n 0 es.length e.1 ∧ (fnOf t n).dma = some (leAt raw 0x18 8, es.flatMap (fun e => e.2.raw)))

/-- EVENT_PLACE with room, not held back by a fence: the oldest waiting event of the block stands at the tail of the queue with the next ESEQ,
the pass value of PHASE and LOST where events were dropped, and leaves the waiting events. EVENT_HOLD_EXPIRY without room after more than
HOLD: that event takes its ESEQ and is dropped, and LOST is set for the next. HARVEST_RECORD_WRITE with room: the oldest record of the group
or class stands in the ring, at 0 when it does not fit before the end, and leaves the waiting records. HARVEST_HOLD_EXPIRY without room
after more than HOLD drops it. Otherwise nothing changes. COMPLETION: exec answers a next state, under conditions on the state and the
operands alone, for eventPlace, eventHoldExpiry, harvestRecordWrite, harvestHoldExpiry. -/
def Obligations.EventsAndHarvestRecordsAreDelivered : Prop :=
  (∀ (s : State) (n blk : Nat) (w : EvWait) (rest : List EvWait), s.hp.length = 4 → alive s → takeEvent s n blk = some (w, rest) →
    w.ev.blk = blk ∧
    (evqRoom s n → fenceHolds s n w = false →
      ∃ t, exec (.eventPlace n blk) s = .next t ∧ (fnOf t n).evWait = rest ∧ (fnOf t n).eseq = ((fnOf s n).eseq + 1) % 2 ^ 32 ∧
        (fnOf t n).evLost = false ∧
        fget? (fnOf t n).evRing ((hif s n 0x90).toNat % ringSize (hif s n 0x88) 5) =
          some (eventBytes w.ev (((fnOf s n).eseq + 1) % 2 ^ 32) (fnOf s n).evPhase (fnOf s n).evLost) ∧
        hif t n 0x90 = BitVec.ofNat 32 (((hif s n 0x90).toNat % ringSize (hif s n 0x88) 5 + 1) % ringSize (hif s n 0x88) 5) ∧
        ∀ m, m ≠ n → fnOf t m = fnOf s m) ∧
    ((evqRoom s n = false ∨ fenceHolds s n w = true) → exec (.eventPlace n blk) s = .next s) ∧
    (evqRoom s n = false → overHeld s w.born (hif s n 0x88) →
      fgetD (fnOf s n).ctr (HIF + 0x310) 0#32 ≠ 0x7FFFFFFF#32 →
      ∃ t, exec (.eventHoldExpiry n blk) s = .next t ∧ (fnOf t n).evWait = rest ∧ (fnOf t n).eseq = ((fnOf s n).eseq + 1) % 2 ^ 32 ∧
        (fnOf t n).evLost = true ∧ (fnOf t n).evRing = (fnOf s n).evRing ∧ bit (hif t n 0xC) 3 = true ∧
        fgetD (fnOf t n).ctr (HIF + 0x310) 0#32 = fgetD (fnOf s n).ctr (HIF + 0x310) 0#32 + 1#32) ∧
    ((evqRoom s n = true ∨ overHeld s w.born (hif s n 0x88) = false) → exec (.eventHoldExpiry n blk) s = .next s)) ∧
  (∀ (s : State) (n k : Nat) (w : HrvWait) (rest : List HrvWait), s.hp.length = 4 → alive s → takeHrv s n k = some (w, rest) →
    hrvKey w = k ∧
    (hrvRoom s n (hrvBytes (fnOf s n) w).length →
      ∃ t p, exec (.harvestRecordWrite n k) s = .next t ∧ (fnOf t n).hrvWait = rest ∧
        p = (if ringSize (hif s n 0xC8) 5 < (hif s n 0xD0).toNat % ringSize (hif s n 0xC8) 5 + (hrvBytes (fnOf s n) w).length then 0
          else (hif s n 0xD0).toNat % ringSize (hif s n 0xC8) 5) ∧
        fget? (fnOf t n).hrvRing p = some (hrvBytes (fnOf s n) w) ∧
        hif t n 0xD0 = BitVec.ofNat 32 ((p + (hrvBytes (fnOf s n) w).length) % ringSize (hif s n 0xC8) 5) ∧
        ∀ m, m ≠ n → fnOf t m = fnOf s m) ∧
    (hrvRoom s n (hrvBytes (fnOf s n) w).length = false → exec (.harvestRecordWrite n k) s = .next s) ∧
    (hrvRoom s n (hrvBytes (fnOf s n) w).length = false → overHeld s w.born (hif s n 0xC8) →
      ∃ t, exec (.harvestHoldExpiry n k) s = .next t ∧ (fnOf t n).hrvWait = rest ∧ (fnOf t n).hrvRing = (fnOf s n).hrvRing ∧
        bit (hif t n 0xC) 4 = true) ∧
    (hrvRoom s n (hrvBytes (fnOf s n) w).length = true → exec (.harvestHoldExpiry n k) s = .next s))

/-- HOST_RX_DELIVER with enough free descriptors of a frame that has waited no more than HOLD: its bytes fill the buffers of the next
descriptors, each is written back, the head moves past them and the frame leaves the waiting frames. HOST_RX_HOLD_EXPIRY of a frame that has
waited more than HOLD drops it, and no sooner. HOST_TX_FRAME with its descriptors posted takes one frame and moves the head past them; a
frame for ports that the function may use, within their MAXLEN, waits at the unpaired ones with the link up; one for a port that it may not
use is not sent and is written back with status 2. HOST_TX_HOLD_EXPIRY of a port without a frame of the function changes nothing, and
removes the first frame of the function there that has waited more than HOLD. COMPLETION: exec answers a next state, under conditions on the
state and the operands alone, for hostRxDeliver, hostRxHoldExpiry, hostTxFrame, hostTxHoldExpiry. -/
def Obligations.HostFramesAreReceivedAndSent : Prop :=
  (∀ (s : State) (n r : Nat) (w : RxWait) (rest : List RxWait) (addrs : List Nat), s.hp.length = 4 → alive s → r < 8 →
    takeRx s n r = some (w, rest) →
    (rxRoom s n w → overHeld s w.born (fnReg s n (rxPage r + 8)) = false →
      ∃ t, exec (.hostRxDeliver n r addrs) s = .next t ∧ (fnOf t n).rxWait = rest ∧
        fnReg t n (rxPage r + 0x10) = BitVec.ofNat 32 (((fnReg s n (rxPage r + 0x10)).toNat % ringSize (fnReg s n (rxPage r + 8)) 4 +
          ceilDiv w.len (rxBuf (fnReg s n (rxPage r + 8)))) % ringSize (fnReg s n (rxPage r + 8)) 4) ∧
        (∀ k, k < ceilDiv w.len (rxBuf (fnReg s n (rxPage r + 8))) →
          fget? (fnOf t n).rxWb (r * 65536 + ((fnReg s n (rxPage r + 0x10)).toNat % ringSize (fnReg s n (rxPage r + 8)) 4 + k) % ringSize (fnReg s n (rxPage r + 8)) 4) =
            some (rxWriteBack w (addrs.getD k 0) (rxBuf (fnReg s n (rxPage r + 8))) (ceilDiv w.len (rxBuf (fnReg s n (rxPage r + 8)))) k) ∧
          fget? (fnOf t n).rxData (r * 65536 + ((fnReg s n (rxPage r + 0x10)).toNat % ringSize (fnReg s n (rxPage r + 8)) 4 + k) % ringSize (fnReg s n (rxPage r + 8)) 4) =
            some (slice w.bytes (rxBuf (fnReg s n (rxPage r + 8)) * k) (rxBuf (fnReg s n (rxPage r + 8))))) ∧
        ∀ m, m ≠ n → fnOf t m = fnOf s m) ∧
    ((rxRoom s n w = false ∨ overHeld s w.born (fnReg s n (rxPage r + 8)) = true) → exec (.hostRxDeliver n r addrs) s = .next s) ∧
    (overHeld s w.born (fnReg s n (rxPage r + 8)) →
      ∃ t, exec (.hostRxHoldExpiry n r) s = .next t ∧ (fnOf t n).rxWait = rest ∧ (fnOf t n).rxWb = (fnOf s n).rxWb) ∧
    (overHeld s w.born (fnReg s n (rxPage r + 8)) = false → exec (.hostRxHoldExpiry n r) s = .next s)) ∧
  (∀ (s : State) (n r : Nat) (d : TxDesc) (ds : List TxDesc), s.hp.length = 4 → alive s → r < 4 → mastering s n →
    bit (fnReg s n (txPage r + 8)) 31 → descsOk (d :: ds) →
    (d :: ds).length ≤ ((fnReg s n (txPage r + 0xC)).toNat % ringSize (fnReg s n (txPage r + 8)) 4 + ringSize (fnReg s n (txPage r + 8)) 4 -
      (fnReg s n (txPage r + 0x10)).toNat % ringSize (fnReg s n (txPage r + 8)) 4) % ringSize (fnReg s n (txPage r + 8)) 4 →
    (∃ p, p < 16 ∧ Nat.testBit d.mask p = true ∧ (12 ≤ p ∨ Nat.testBit (hostPorts s n) p = false)) →
    ∃ t, exec (.hostTxFrame n r (d :: ds) true) s = .next t ∧ t.eth.ports = s.eth.ports ∧ (fnOf t n).txWait = (fnOf s n).txWait ∧
      fnReg t n (txPage r + 0x10) = BitVec.ofNat 32 (((fnReg s n (txPage r + 0x10)).toNat % ringSize (fnReg s n (txPage r + 8)) 4 +
        (d :: ds).length) % ringSize (fnReg s n (txPage r + 8)) 4) ∧
      ∃ x : TxHost, x.status = 2 ∧ x.addr = d.addr ∧ x.mask = d.mask ∧
        fget? (fnOf t n).txWb (r * 65536 + (fnReg s n (txPage r + 0x10)).toNat % ringSize (fnReg s n (txPage r + 8)) 4) = some (txWriteBack x)) ∧
  (∀ (s : State) (n r : Nat) (d : TxDesc) (ds : List TxDesc), s.hp.length = 4 → alive s → r < 4 → mastering s n →
    bit (fnReg s n (txPage r + 8)) 31 → descsOk (d :: ds) →
    (d :: ds).length ≤ ((fnReg s n (txPage r + 0xC)).toNat % ringSize (fnReg s n (txPage r + 8)) 4 + ringSize (fnReg s n (txPage r + 8)) 4 -
      (fnReg s n (txPage r + 0x10)).toNat % ringSize (fnReg s n (txPage r + 8)) 4) % ringSize (fnReg s n (txPage r + 8)) 4 →
    (∃ p, p < 12 ∧ Nat.testBit d.mask p = true) → (∀ p, p < 16 → Nat.testBit d.mask p = true → p < 12 ∧ Nat.testBit (hostPorts s n) p = true) →
    tooLong s d.mask (sumN ((d :: ds).map (·.len)) + 4) = [] →
    ∃ t, exec (.hostTxFrame n r (d :: ds) true) s = .next t ∧
      fnReg t n (txPage r + 0x10) = BitVec.ofNat 32 (((fnReg s n (txPage r + 0x10)).toNat % ringSize (fnReg s n (txPage r + 8)) 4 +
        (d :: ds).length) % ringSize (fnReg s n (txPage r + 8)) 4) ∧
      sentOn s t d.mask (sumN ((d :: ds).map (·.len)) + 4) (fun b => b = .host n s.eth.txId)) ∧
  (∀ (s : State) (n p : Nat), alive s → (∀ f ∈ (portOf s p).txq, ∀ id, f.body ≠ .host n id) → exec (.hostTxHoldExpiry n p) s = .next s) ∧
  (∀ (s : State) (n p id : Nat) (f : TxFrame) (pre rest : List TxFrame) (x : TxHost), alive s → (portOf s p).txq = pre ++ f :: rest →
    (∀ g ∈ pre, ∀ id, g.body ≠ .host n id) → f.body = .host n id → (fnOf s n).txWait.find? (fun x => x.id == id) = some x → overHeld s x.born (fnReg s n (txPage x.ring + 8)) →
    ∃ t, exec (.hostTxHoldExpiry n p) s = .next t ∧ (portOf t p).txq = pre ++ rest)

/-- DMA_ERROR of an enabled queue or ring of a mastering function clears its EN and sets HIF_FLAGS bit 5; the other registers and functions keep
their rings. INTERRUPT_SEND of a pending, enabled source past its hold-off sends its vector once and clears the pending state; before that
nothing changes. FUNCTION_LEVEL_RESET empties the queues, batch and windows of its function, drops its waiting events, clears Bus Master
Enable, and leaves every other function, the statistics counters and the image. BUS_MASTER_DISABLE and BUS_MASTER_ENABLE clear and set Bus
Master Enable alone. These three are configuration writes: while PERST_N is low no function answers one, and before the power-up sequence
has ended a function answers with Retry Status; they then have no effect. PERST does the same as a function level reset to all four
functions, and PERST_N_RELEASE only raises the pin. That a function level reset clears Bus Master Enable is the model's choice (assumption
3). COMPLETION: exec answers a next state, under conditions on the state and the operands alone, for dmaError, interruptSend,
functionLevelReset, busMasterDisable, busMasterEnable, perst, perstNRelease. -/
def Obligations.RingErrorsInterruptsAndFunctionResets : Prop :=
  (∀ (s : State) (n code reason off : Nat), s.hp.length = 4 → alive s → mastering s n → ringCfg code = some off → bit (hif s n off) 31 →
    ∃ t, exec (.dmaError n code reason) s = .next t ∧ bit (hif t n off) 31 = false ∧ bit (hif t n 0xC) 5 = true ∧
      (∀ o, o ≠ HIF + off → o ≠ HIF + 0xC → o ≠ HIF + 0x10 → fnReg t n o = fnReg s n o) ∧
      ∀ m, m ≠ n → (fnOf t m).regs = (fnOf s m).regs) ∧
  (∀ (s : State) (n src : Nat) (q : Irq), s.hp.length = 4 → alive s → src < 16 → mastering s n → q = fgetD (fnOf s n).irq src {} → q.pend →
    bit (hif s n (0x100 + 4 * src)) 31 →
    ((∀ k, q.last = some k → k + fld (hif s n (0x100 + 4 * src)) 9 0 ≤ s.tb.tick) →
      ∃ t, exec (.interruptSend n src) s = .next t ∧ (fgetD (fnOf t n).irq src {}).pend = false ∧
        (fgetD (fnOf t n).irq src {}).last = some s.tb.tick ∧
        fgetD (fnOf t n).msi (fld (hif s n (0x100 + 4 * src)) 21 16) 0 = fgetD (fnOf s n).msi (fld (hif s n (0x100 + 4 * src)) 21 16) 0 + 1) ∧
    (∀ k, q.last = some k → s.tb.tick < k + fld (hif s n (0x100 + 4 * src)) 9 0 → exec (.interruptSend n src) s = .next s)) ∧
  (∀ (s : State) (n : Nat), s.hp.length = 4 → alive s → n < 4 → cfgAnswer s = .done →
    ∃ t, exec (.functionLevelReset n) s = .next t ∧ (fnOf t n).evWait = [] ∧ (fnOf t n).batch = [] ∧ (fnOf t n).hrvWait = [] ∧
      (fnOf t n).rxWait = [] ∧ (fnOf t n).cmdFence = none ∧ (fnOf t n).regFence = none ∧ (fnOf t n).win = [] ∧ (fnOf t n).bme = false ∧
      (fnOf t n).ctr = (fnOf s n).ctr ∧ hif t n 0x48 = fnReset (HIF + 0x48) ∧ hif t n 0x88 = fnReset (HIF + 0x88) ∧
      (∀ m, m ≠ n → fnOf t m = fnOf s m) ∧ t.cfg = s.cfg ∧ t.cap = s.cap ∧ t.cnt = s.cnt) ∧
  (∀ (s : State) (n : Nat), s.hp.length = 4 → alive s → n < 4 → cfgAnswer s = .done →
    exec (.busMasterDisable n) s = .next { s with hp := s.hp.modify n (fun f => { f with bme := false }) } ∧
    exec (.busMasterEnable n) s = .next { s with hp := s.hp.modify n (fun f => { f with bme := true }) }) ∧
  (∀ (s : State) (n : Nat), alive s → cfgAnswer s ≠ .done →
    exec (.functionLevelReset n) s = .next s ∧ exec (.busMasterDisable n) s = .next s ∧ exec (.busMasterEnable n) s = .next s) ∧
  (∀ s : State, (s.pwr.perstN = false → cfgAnswer s = .nothing) ∧
    (s.pwr.perstN = true → s.pwr.state = .starting → s.pwr.waits = false → cfgAnswer s = .retry) ∧
    (s.pwr.perstN = true → s.pwr.state = .run → cfgAnswer s = .done)) ∧
  (∀ (s : State) (hot : Bool), s.hp.length = 4 → alive s →
    ∃ t, exec (.perst hot) s = .next t ∧ t.pwr.perstN = (s.pwr.perstN && hot) ∧ t.cfg = s.cfg ∧
      ∀ n, n < 4 → (fnOf t n).evWait = [] ∧ (fnOf t n).batch = [] ∧ (fnOf t n).bme = false ∧ (fnOf t n).ctr = (fnOf s n).ctr) ∧
  (∀ s : State, exec .perstNRelease s = .next { s with pwr := { s.pwr with perstN := true } })

/-- HEARTBEAT_SEND once at each tick that is a multiple of 256: the next MSG_SEQ is taken, and with the pair key and the Calfa link good and no
data port set, a heartbeat of the pair with that MSG_SEQ waits on port 13. An accepted heartbeat clears the misses and sets PEER_OK.
HEARTBEAT_CHECK once at each tick congruent to 128 adds a miss where none came, and at the eighth clears PEER_OK. LEASE_MESSAGE_SEND once
per cycle boundary; RENEW or REQUEST takes the next MSG_SEQ. GRANT_RX moves the lease end of an ACTIVE unit to at least 6,144 tk after the
answered message, and of another unit to exactly that and keeps the claim. DENY_RX with reason 1 or 3 deposes an ACTIVE unit; reason 1 makes
another STANDBY. AUTHORITY_BEGIN at a later tick before the lease end makes the unit ACTIVE. LEASE_END at the lease end makes it DEPOSED.
COMPLETION: exec answers a next state, under conditions on the state and the operands alone, for heartbeatSend, heartbeatCheck,
leaseMessageSend, heartbeatRx, grantRx, denyRx, authorityBegin, leaseEnd. -/
def Obligations.HeartbeatsAndTheLeaseDecideTheRole : Prop :=
  (∀ s : State, alive s →
    (isUnit s → s.tb.started → s.tb.tick % 256 = 0 → s.pair.hbTick ≠ some s.tb.tick →
      ∃ t, exec .heartbeatSend s = .next t ∧ t.pair.hbTick = some s.tb.tick ∧ t.pair.seqC = (s.pair.seqC + 1) % 2 ^ 32 ∧ t.pair.role = s.pair.role) ∧
    (isUnit s → s.tb.started → s.tb.tick % 256 = 0 → s.pair.hbTick ≠ some s.tb.tick → fld (pairNet s) 31 28 = 0xF →
      (keyOp (pairSlot s) 1 s).2.isSome → (portOf s 13).linkUp → 82 ≤ maxLen s 13 →
      ∃ t f bs, exec .heartbeatSend s = .next t ∧ queuedAt s t 13 f ∧ f.body = .calfa bs ∧ beAt bs 0 2 = 0x1101 ∧ beAt bs 4 4 = pairId s ∧
        beAt bs 0xC 4 = s.pair.seqC % 2 ^ 32) ∧
    ((isUnit s = false ∨ s.tb.tick % 256 ≠ 0 ∨ s.pair.hbTick = some s.tb.tick) → exec .heartbeatSend s = .next s) ∧
    (isUnit s → s.tb.started → s.tb.tick % 256 = 128 → s.pair.chkTick ≠ some s.tb.tick →
      ∃ t, exec .heartbeatCheck s = .next t ∧ t.pair.chkTick = some s.tb.tick ∧ t.pair.hbSince = false ∧
        t.pair.missed = (if s.pair.hbSince then s.pair.missed else min 255 (s.pair.missed + 1)) ∧
        t.pair.peerOk = (s.pair.peerOk && (s.pair.hbSince || decide (s.pair.missed + 1 ≠ 8)))) ∧
    (s.tb.tick % 256 ≠ 128 → exec .heartbeatCheck s = .next s) ∧
    (isUnit s → hasTime s → s.tb.grid % 1024 = 0 → s.pair.leaseGrid ≠ some s.tb.grid →
      ∃ t, exec .leaseMessageSend s = .next t ∧ t.pair.leaseGrid = some s.tb.grid ∧
        t.pair.seqW = (if (s.pair.role = 3 ∧ authority s) ∨ (s.pair.role ≠ 3 ∧ qualifies s) then (s.pair.seqW + 1) % 2 ^ 32 else s.pair.seqW)) ∧
    ((hasTime s = false ∨ s.tb.grid % 1024 ≠ 0) → exec .leaseMessageSend s = .next s)) ∧
  (∀ (s s1 s2 : State) (m : PairMsg) (b : Bool), alive s → isUnit s →
    takePairMsg (fun m => if m.calfa then msgType m < 0x1102 || decide (0x1104 < msgType m) else m.dport == hbUdp s) s = some (m, s1) →
    msgType m = 0x1101 → peerCheck m s1 = (s2, b) →
    ∃ t, exec .heartbeatRx s = .next t ∧
      (b = true → t.pair.missed = 0 ∧ t.pair.peerOk = true ∧ t.pair.hbSince = true ∧
        t.pair.lastC = some (BitVec.ofNat 32 (beAt m.bytes 0xC 4))) ∧
      (b = false → t.pair = s2.pair)) ∧
  (∀ (s s1 : State) (m : PairMsg) (k : Nat), alive s → takeAnswer 0x1021 s = (s1, some (m, k)) →
    ∃ t, exec .grantRx s = .next t ∧ t.pair.role = s1.pair.role ∧ t.pair.auth = s1.pair.auth ∧
      (s1.pair.role = 3 → t.pair.leaseEnd = max s1.pair.leaseEnd (k + 6144) ∧ t.nv.claim = s1.nv.claim) ∧
      (s1.pair.role ≠ 3 → t.pair.leaseEnd = k + 6144 ∧ t.nv.claim = BitVec.ofNat 32 (beAt m.bytes 0x1C 4) ∧ t.pair.granted.isSome)) ∧
  (∀ (s s1 : State) (m : PairMsg) (k : Nat), alive s → takeAnswer 0x1022 s = (s1, some (m, k)) →
    ∃ t, exec .denyRx s = .next t ∧
      (s1.pair.role = 3 → (beAt m.bytes 0xA 2 = 1 ∨ beAt m.bytes 0xA 2 = 3) → t.pair.role = 4 ∧ t.pair.auth = false) ∧
      (s1.pair.role = 3 → beAt m.bytes 0xA 2 ≠ 1 → beAt m.bytes 0xA 2 ≠ 3 → t.pair.role = 3 ∧ t.pair.auth = s1.pair.auth) ∧
      (s1.pair.role ≠ 3 → beAt m.bytes 0xA 2 = 1 → t.pair.role = 2)) ∧
  (∀ (s : State) (g : Granted), alive s → isUnit s → s.pair.granted = some g →
    (g.tick < s.tb.tick → s.tb.tick < s.pair.leaseEnd →
      ∃ t, exec .authorityBegin s = .next t ∧ t.pair.role = 3 ∧ t.pair.auth = true ∧ t.pair.granted = none ∧ t.pair.mark = some s.tb.grid) ∧
    (s.tb.tick ≤ g.tick → exec .authorityBegin s = .next s) ∧
    (g.tick < s.tb.tick → s.pair.leaseEnd ≤ s.tb.tick →
      ∃ t, exec .authorityBegin s = .next t ∧ t.pair.role = s.pair.role ∧ t.pair.auth = s.pair.auth ∧ t.pair.granted = none)) ∧
  (∀ s : State, alive s → isUnit s → s.pair.role = 3 → s.pair.auth →
    (s.pair.leaseEnd ≤ s.tb.tick → ∃ t, exec .leaseEnd s = .next t ∧ t.pair.role = 4 ∧ t.pair.auth = false) ∧
    (s.tb.tick < s.pair.leaseEnd → exec .leaseEnd s = .next s))

/-- GENERATION_FORM of an ACTIVE unit with authority, once per cycle boundary: the next generation number, and the image kept is that of the
present task, parameter, output and claim state. GEN_BLOCK_RX keeps a fragment that passes its checks. GEN_END_RX of a generation that is
complete in time and the next one: it is the newest complete; another generation leaves image and number, and ends SYNCED.
GENERATION_TIMEOUT likewise. PAIR_HANDOVER names H, the second cycle boundary, and waits; HANDOVER_REQ_RX keeps H; HANDOVER_INSTANT at H
ends authority and makes the unit STANDBY; HANDOVER_TIMEOUT completes the command with status 5. PAIR_HOLD sets HOLD; PAIR_STATUS answers
the status. COMPLETION: exec answers a next state, under conditions on the state and the operands alone, for generationForm, genBlockRx,
genEndRx, generationTimeout, cmdPairHandover, handoverReqRx, handoverInstant, handoverTimeout, cmdPairHold, cmdPairStatus. -/
def Obligations.RackingAndThePlannedHandover : Prop :=
  (∀ s : State, alive s →
    (isUnit s → hasTime s → s.pair.role = 3 → authority s → genDue s →
      ∃ t, exec .generationForm s = .next t ∧ t.pair.gen = (s.pair.gen + 1) % 2 ^ 32 ∧ t.pair.genGrid = some s.tb.grid ∧
        ∀ b, b < 113 → fget? t.pair.img b = some (rackBlock s b).2.2) ∧
    ((authority s = false ∨ genDue s = false) → exec .generationForm s = .next s)) ∧
  (∀ (s s1 : State) (m : PairMsg), alive s → isUnit s → s.pair.role ≠ 3 →
    takePairMsg (fun m => m.calfa && msgType m == 0x1102) s = some (m, s1) → beAt m.bytes 4 4 = pairId s → beAt m.bytes 8 1 = 1 - pairUnit s →
    beAt m.bytes 2 2 = 0x34 + ceilDiv (beAt m.bytes 0x30 2) 4 * 4 + 4 → beAt m.bytes 2 2 ≤ m.bytes.length →
    (calfaCrc m.bytes (beAt m.bytes 2 2) = true → tsOk m.bytes 0x10 = true →
      ∃ t x, exec .genBlockRx s = .next t ∧ fget? t.pair.genIn (beAt m.bytes 0x1C 4) = some x ∧
        x.frags = (fgetD s.pair.genIn (beAt m.bytes 0x1C 4) { inst := 0 }).frags ++
          [{ btype := beAt m.bytes 0x20 2, bindex := beAt m.bytes 0x24 4, blen := beAt m.bytes 0x28 4, fofs := beAt m.bytes 0x2C 4,
             data := slice m.bytes 0x34 (beAt m.bytes 0x30 2) }] ∧ t.pair.img = s.pair.img) ∧
    ((calfaCrc m.bytes (beAt m.bytes 2 2) = false ∨ tsOk m.bytes 0x10 = false) → ∃ t, exec .genBlockRx s = .next t ∧ t.pair = s.pair)) ∧
  (∀ (s s1 : State) (m : PairMsg) (g : Nat) (x : GenIn), alive s → isUnit s → s.pair.role ≠ 3 →
    takePairMsg (fun m => m.calfa && msgType m == 0x1103) s = some (m, s1) → beAt m.bytes 4 4 = pairId s → beAt m.bytes 8 1 = 1 - pairUnit s →
    beAt m.bytes 2 2 = 48 → 48 ≤ m.bytes.length → calfaCrc m.bytes 48 = true → tsOk m.bytes 0x10 = true → g = beAt m.bytes 0x1C 4 → fget? s.pair.genIn g = some x →
    ((beAt m.bytes 0x28 4 = s.cfg.active.vintage ∧ (∀ k, s.pair.genNo = some k → g = (k + 1) % 2 ^ 32) ∧ nsGrid s1 s1.tb.now ≤ x.inst + 1024 ∧
        (wholeBlocks x.frags).length = beAt m.bytes 0x20 4 ∧ x.frags.length = beAt m.bytes 0x24 4) →
      ∃ t, exec .genEndRx s = .next t ∧ t.pair.gen = g ∧ t.pair.genNo = some g ∧ t.pair.syncRun = s.pair.syncRun + 1 ∧
        fget? t.pair.genIn g = none) ∧
    ((beAt m.bytes 0x28 4 ≠ s.cfg.active.vintage ∨ (∃ k, s.pair.genNo = some k ∧ g ≠ (k + 1) % 2 ^ 32) ∨ x.inst + 1024 < nsGrid s1 s1.tb.now ∨
        (wholeBlocks x.frags).length ≠ beAt m.bytes 0x20 4 ∨ x.frags.length ≠ beAt m.bytes 0x24 4) →
      ∃ t, exec .genEndRx s = .next t ∧ t.pair.gen = s.pair.gen ∧ t.pair.img = s.pair.img ∧ t.pair.synced = false ∧ t.pair.syncRun = 0 ∧
        t.pair.genNo = some g)) ∧
  (∀ (s : State) (g : Nat) (x : GenIn), alive s → fget? s.pair.genIn g = some x →
    (isUnit s → s.pair.role ≠ 3 → x.inst + 1024 < s.tb.grid →
      ∃ t, exec (.generationTimeout g) s = .next t ∧ t.pair.gen = s.pair.gen ∧ t.pair.img = s.pair.img ∧ t.pair.synced = false ∧
        fget? t.pair.genIn g = none) ∧
    (s.tb.grid ≤ x.inst + 1024 → exec (.generationTimeout g) s = .next s)) ∧
  (∀ (s : State) (n : Nat) (raw : List Byte) (p : PeerHb), s.hp.length = 4 → cmdReady s n 0x50 [] raw → isUnit s → s.pair.role = 3 → authority s →
    s.pair.peer = some p → Nat.testBit p.hfl 13 = true → s.pair.witOk → Nat.testBit p.hfl 14 = true → p.vintage = s.cfg.active.vintage →
    s.pair.hov = none → Nat.testBit p.hfl 12 = false →
    ∃ t, exec (.cmdPairHandover n) s = .next t ∧ t.pair.hov = some { fn := n, h := (s.tb.grid / 1024 + 2) * 1024 } ∧ (fnOf t n).cur.isSome ∧
      t.pair.role = 3) ∧
  (∀ (s : State) (n : Nat) (raw : List Byte), s.hp.length = 4 → cmdReady s n 0x50 [] raw → (isUnit s = false ∨ s.pair.role ≠ 3) →
    ∃ t, exec (.cmdPairHandover n) s = .next t ∧ completes s t n 5 1 0 ∧ t.pair = s.pair) ∧
  (∀ (s s1 s2 : State) (m : PairMsg), alive s → isUnit s → takePairMsg (fun m => m.calfa && msgType m == 0x1104) s = some (m, s1) → tsOk m.bytes 0x20 = true →
    peerCheck m s1 = (s2, true) → ∃ t, exec .handoverReqRx s = .next t ∧
      t.pair.hreq = some { gen := beAt m.bytes 0x1C 4, h := nsGrid s2 (msgTs m.bytes 0x20) }) ∧
  (∀ (s : State) (h : Handover), alive s → s.pair.hov = some h →
    (isUnit s → s.pair.role = 3 → h.past = false → h.h ≤ s.tb.grid →
      ∃ t, exec .handoverInstant s = .next t ∧ t.pair.role = 2 ∧ t.pair.auth = false ∧ t.pair.hov = some { h with past := true }) ∧
    (s.tb.grid < h.h → exec .handoverInstant s = .next s) ∧
    (s.hp.length = 4 → h.h + 6144 < s.tb.grid →
      ∃ t, exec .handoverTimeout s = .next t ∧ t.pair.hov = none ∧ completes s t h.fn 5 5 0) ∧
    (s.tb.grid ≤ h.h + 6144 → exec .handoverTimeout s = .next s)) ∧
  (∀ (s : State) (n : Nat) (raw : List Byte), s.hp.length = 4 → cmdReady s n 0x51 [(4, 1)] raw → leAt raw 4 1 ≤ 1 →
    ((leAt raw 4 1 = 0 ∨ isUnit s = false ∨ s.pair.role ≠ 3) →
      ∃ t, exec (.cmdPairHold n) s = .next t ∧ completes s t n 0 (leAt raw 4 1) 0 ∧ (t.pair.hold = true ↔ leAt raw 4 1 = 1)) ∧
    ((leAt raw 4 1 = 1 ∧ isUnit s = true ∧ s.pair.role = 3) →
      ∃ t, exec (.cmdPairHold n) s = .next t ∧ completes s t n 5 1 0 ∧ t.pair = s.pair)) ∧
  (∀ (s : State) (n : Nat) (raw : List Byte), s.hp.length = 4 → cmdReady s n 0x52 [] raw →
    ∃ t, exec (.cmdPairStatus n) s = .next t ∧ completes s t n 0 (pairStat s).toNat s.pair.leaseEnd)

/-- For a checked message of unit u of pair n: REQUEST while the other unit holds the lease changes neither holder, claim nor end; REQUEST of a
free lease with traceable time makes u the holder with max(claim kept, claim sent) + 1 and an end LEASE_NS after receipt. RENEW by the
holder under the claim in force moves the end to LEASE_NS after receipt and keeps the claim; any other RENEW changes nothing of the lease.
RELEASE by the holder under its claim ends it at once. WITNESS_LEASE_EXPIRY ends a lease at its end, and not before. COMPLETION: exec
answers a next state, under conditions on the state and the operands alone, for requestRx, renewRx, releaseRx, witnessLeaseExpiry. -/
def Obligations.TheWitnessGrantsOneHolder : Prop :=
  (∀ (s s1 : State) (n u : Nat) (m : PairMsg), alive s → takeUnitMsg 0x1011 s = (s1, some (n, u, m)) →
    (witLive s1 n s1.tb.now → (witOf s1 n).holder ≠ u →
      ∃ t, exec .requestRx s = .next t ∧ (witOf t n).holder = (witOf s1 n).holder ∧ (witOf t n).claim = (witOf s1 n).claim ∧
        t.pair.expiry = s1.pair.expiry) ∧
    (witLive s1 n s1.tb.now → (witOf s1 n).holder = u → witTime s1 →
      ∃ t, exec .requestRx s = .next t ∧ (witOf t n).holder = u ∧ (witOf t n).claim = (witOf s1 n).claim ∧
        fget? t.pair.expiry n = some (s1.tb.now + beAt m.bytes 0x24 4)) ∧
    (witLive s1 n s1.tb.now = false → witTime s1 →
      ∃ t, exec .requestRx s = .next t ∧ (witOf t n).holder = u ∧
        (witOf t n).claim = (if newer (msgClaim m) (witOf s1 n).claim then msgClaim m else (witOf s1 n).claim) + 1#32 ∧
        fget? t.pair.expiry n = some (s1.tb.now + beAt m.bytes 0x24 4)) ∧
    (witTime s1 = false →
      ∃ t, exec .requestRx s = .next t ∧ (witOf t n).holder = (witOf s1 n).holder ∧ (witOf t n).claim = (witOf s1 n).claim ∧
        t.pair.expiry = s1.pair.expiry)) ∧
  (∀ (s s1 : State) (n u : Nat) (m : PairMsg), alive s → takeUnitMsg 0x1012 s = (s1, some (n, u, m)) →
    ∃ t, exec .renewRx s = .next t ∧ (witOf t n).holder = (witOf s1 n).holder ∧ (witOf t n).claim = (witOf s1 n).claim ∧
      (witLive s1 n s1.tb.now → (witOf s1 n).holder = u → msgClaim m = (witOf s1 n).claim → witTime s1 →
        fget? t.pair.expiry n = some (s1.tb.now + beAt m.bytes 0x24 4)) ∧
      ((witLive s1 n s1.tb.now = false ∨ (witOf s1 n).holder ≠ u ∨ msgClaim m ≠ (witOf s1 n).claim) → t.pair.expiry = s1.pair.expiry)) ∧
  (∀ (s s1 : State) (n u : Nat) (m : PairMsg), alive s → takeUnitMsg 0x1013 s = (s1, some (n, u, m)) →
    ∃ t, exec .releaseRx s = .next t ∧ (witOf t n).holder = (witOf s1 n).holder ∧ (witOf t n).claim = (witOf s1 n).claim ∧
      (witLive s1 n s1.tb.now → (witOf s1 n).holder = u → msgClaim m = (witOf s1 n).claim → witLive t n s1.tb.now = false) ∧
      ((witOf s1 n).holder ≠ u → t.pair.expiry = s1.pair.expiry)) ∧
  (∀ (s : State) (n ns e : Nat), alive s → fget? s.pair.expiry n = some e →
    (pairMode s = 2 → e ≤ ns →
      ∃ t, exec (.witnessLeaseExpiry n ns) s = .next t ∧ fget? t.pair.expiry n = none ∧ ∀ k, witLive t n k = false) ∧
    (ns < e → exec (.witnessLeaseExpiry n ns) s = .next s))

/-- With the vault in use: KEY_PUT of a plain key in MANUFACTURE or PROVISIONED, KEY_DERIVE from the vault root and KEY_ERASE raise CTR of their
slot by one; the cell then in force holds what the command gives (an erased slot: no valid key), every other slot stays, and RESULT0 is CTR.
With the vault not in use each of them is refused with the reason, and the vault stays. ID_GET copies the certificate. QUOTE copies the
quote over the nonce, and is refused with reason 1 in DECOMMISSIONED. METER_KEY_GET copies key, length and certificate, and answers status 7
without a meter key. Status 7 for METER_KEY_GET is the model's reading. COMPLETION: exec answers a next state, under conditions on the state
and the operands alone, for cmdKeyPut, cmdKeyDerive, cmdKeyErase, cmdIdGet, cmdQuote, cmdMeterKeyGet. -/
def Obligations.VaultSlotsAndIdentity : Prop :=
  (∀ (s : State) (n : Nat) (raw b : List Byte), s.hp.length = 4 → cmdReady s n 0x42 [(4, 10), (0x10, 16)] raw → leAt raw 4 2 ≤ 511 →
    leAt raw 0xC 2 = 0xFFFF → attrAlgUsed (leAt raw 6 1) (leAt raw 7 1) → attrAlgFit (leAt raw 6 1) (leAt raw 7 1) → vaultReason s = 0 →
    s.fuses.lc = 1 ∨ s.fuses.lc = 2 →
    ∃ t, exec (.cmdKeyPut n (some b)) s = .next t ∧ (slotOf t (leAt raw 4 2)).ctr = (slotOf (openStore s) (leAt raw 4 2)).ctr + 1#32 ∧
      cellOf t (leAt raw 4 2) = cellOfCmd raw (padTo 32 b) ∧ (∀ k, k ≠ leAt raw 4 2 → slotOf t k = slotOf (openStore s) k) ∧
      completes s t n 0 (slotOf t (leAt raw 4 2)).ctr.toNat 0) ∧
  (∀ (s : State) (n : Nat) (raw : List Byte), s.hp.length = 4 → cmdReady s n 0x43 [(4, 11), (0x10, 40)] raw → leAt raw 4 2 ≤ 511 →
    leAt raw 0xC 2 = 0x1FF → 1 ≤ leAt raw 0xE 1 → leAt raw 0xE 1 ≤ 32 → leAt raw 0x18 1 ≠ 0 →
    (∀ x ∈ slice raw (0x18 + leAt raw 0xE 1) (32 - leAt raw 0xE 1), x = 0#8) →
    attrAlgUsed (leAt raw 6 1) (leAt raw 7 1) → attrAlgFit (leAt raw 6 1) (leAt raw 7 1) → vaultReason s = 0 →
    ∃ t, exec (.cmdKeyDerive n) s = .next t ∧ (slotOf t (leAt raw 4 2)).ctr = (slotOf (openStore s) (leAt raw 4 2)).ctr + 1#32 ∧
      cellOf t (leAt raw 4 2) = cellOfCmd raw
        (kmac256 (Config.vaultRoot s.nv.root) (s.sec.mc ++ slice raw 0x18 (leAt raw 0xE 1)) (ascii "PZ7 DERIVE")) ∧
      (∀ k, k ≠ leAt raw 4 2 → slotOf t k = slotOf (openStore s) k) ∧ completes s t n 0 (slotOf t (leAt raw 4 2)).ctr.toNat 0) ∧
  (∀ (s : State) (n : Nat) (raw : List Byte), s.hp.length = 4 → cmdReady s n 0x44 [(4, 2)] raw → leAt raw 4 2 ≤ 511 →
    (vaultReason s = 0 →
      ∃ t, exec (.cmdKeyErase n) s = .next t ∧ (slotOf t (leAt raw 4 2)).ctr = (slotOf (openStore s) (leAt raw 4 2)).ctr + 1#32 ∧
        (cellOf t (leAt raw 4 2)).valid = false ∧ (∀ k, k ≠ leAt raw 4 2 → slotOf t k = slotOf (openStore s) k) ∧
        completes s t n 0 (slotOf t (leAt raw 4 2)).ctr.toNat 0) ∧
    (vaultReason s ≠ 0 → ∃ t, exec (.cmdKeyErase n) s = .next t ∧ completes s t n 5 (vaultReason s) 0 ∧ t.nv = s.nv ∧ t.sec = s.sec)) ∧
  (∀ (s : State) (n : Nat) (raw : List Byte), s.hp.length = 4 → cmdReady s n 0x40 [(8, 8)] raw →
    ∃ t, exec (.cmdIdGet n true) s = .next t ∧ completes s t n 0 (s.part.cert.take 8192).length 0 ∧
      (fnOf t n).dma = some (leAt raw 8 8, s.part.cert.take 8192)) ∧
  (∀ (s : State) (n : Nat) (raw : List Byte), s.hp.length = 4 → cmdReady s n 0x41 [(8, 40)] raw →
    (s.fuses.lc ≠ 4 → ∃ t, exec (.cmdQuote n true) s = .next t ∧ completes s t n 0 0 0 ∧
      (fnOf t n).dma = some (leAt raw 0x28 8, quoteBytes s (slice raw 8 32))) ∧
    (s.fuses.lc = 4 → ∀ ok, ∃ t, exec (.cmdQuote n ok) s = .next t ∧ completes s t n 5 1 0)) ∧
  (∀ (s : State) (n : Nat) (raw : List Byte), s.hp.length = 4 → cmdReady s n 0x29 [(8, 8)] raw →
    (meterKeyOk s → s.fuses.lc ≠ 4 → ∃ t bs, exec (.cmdMeterKeyGet n true) s = .next t ∧ completes s t n 0 bs.length 0 ∧
      bs = padTo 1312 (mldsaPub (meterSeed s)) ++ leBytes 4 2552 ++ meterCert s ∧ (fnOf t n).dma = some (leAt raw 8 8, bs)) ∧
    (meterKeyOk s = false → ∀ ok, ∃ t, exec (.cmdMeterKeyGet n ok) s = .next t ∧ completes s t n 7 0 0))

/-- FW_STAGE of a package that verifies, with an SVN not below the fused one, stages it in the copy that does not run; one that does not is
refused with reason 3 and nothing is staged. FW_REWRAP needs a staged package, FW_ACTIVATE a rewrapped one; refused with reason 5 otherwise.
FW_ACTIVATE at once, and FW_ACTIVATE_RESET at its second, reset with cause 6. LC_TRANSITION with an accepted token fuses its state, counts
one and resets with cause 7; with another it is refused with reason 4, after 64 with reason 7. TAMPER_DETECT beyond MANUFACTURE clears the
KEK and sets TLOCK; while a source is not watched nothing changes. COMPLETION: exec answers a next state, under conditions on the state and
the operands alone, for cmdFwStage, cmdFwRewrap, cmdFwActivate, fwActivateReset, cmdLcTransition, tamperDetect. -/
def Obligations.FirmwareTransitionsAndTampers : Prop :=
  (∀ (s : State) (n : Nat) (raw : List Byte) (p : FwPkg), s.hp.length = 4 → cmdReady s n 0x46 [(8, 12)] raw → 1 ≤ leAt raw 0x10 4 →
    leAt raw 0x10 4 ≤ 67108864 → s.fuses.lc ≠ 5 →
    ((p.manifestOk ∧ p.hashesOk ∧ s.fuses.svn ≤ p.svn) →
      ∃ t, exec (.cmdFwStage n (some p)) s = .next t ∧ completes s t n 0 p.version 0 ∧ t.sec.staged = true ∧ t.sec.stagedMc = p.mc ∧
        t.sec.rewrapped = false ∧ runningFw t = runningFw s ∧ t.fuses = s.fuses) ∧
    (¬(p.manifestOk ∧ p.hashesOk ∧ s.fuses.svn ≤ p.svn) →
      ∃ t, exec (.cmdFwStage n (some p)) s = .next t ∧ completes s t n 5 3 0 ∧ t.sec.staged = false ∧ runningFw t = runningFw s)) ∧
  (∀ (s : State) (n : Nat) (raw : List Byte), s.hp.length = 4 → cmdReady s n 0x47 [] raw →
    (s.sec.staged = false → ∃ t, exec (.cmdFwRewrap n) s = .next t ∧ completes s t n 5 5 0 ∧ t.sec = s.sec ∧ t.nv = s.nv) ∧
    (s.sec.staged = true → vaultReason s = 0 → ∃ t r, exec (.cmdFwRewrap n) s = .next t ∧ completes s t n 0 r 0 ∧ t.sec.rewrapped = true ∧
      (∀ k, slotOf t k = slotOf s k) ∧
      (if s.sec.store = 0 then t.nv.store1 else t.nv.store0).mc = s.sec.stagedMc)) ∧
  (∀ (s : State) (n : Nat) (raw : List Byte), s.hp.length = 4 → cmdReady s n 0x48 [(8, 8)] raw →
    ((s.sec.staged = false ∨ s.sec.rewrapped = false) →
      ∃ t, exec (.cmdFwActivate n) s = .next t ∧ completes s t n 5 5 0 ∧ t.sec = s.sec ∧ t.nv = s.nv) ∧
    (s.sec.staged = true → s.sec.rewrapped = true →
      (leAt raw 8 8 = 0 → ∃ t, exec (.cmdFwActivate n) s = .next t ∧ t.pwr.state = .starting ∧ t.vbat.rstCause = BitVec.ofNat 32 (6 * 2 ^ 24)) ∧
      (hasTime s → taiSec s < leAt raw 8 8 →
        ∃ t, exec (.cmdFwActivate n) s = .next t ∧ completes s t n 0 0 0 ∧ t.sec.fwAt = some (leAt raw 8 8) ∧ t.pwr.state = s.pwr.state))) ∧
  (∀ (s : State) (sec : Nat), alive s → s.sec.fwAt = some sec →
    (hasTime s → sec * 1000000000 ≤ s.tb.now →
      ∃ t, exec .fwActivateReset s = .next t ∧ t.pwr.state = .starting ∧ t.vbat.rstCause = BitVec.ofNat 32 (6 * 2 ^ 24) ∧ t.fuses = s.fuses) ∧
    (s.tb.now < sec * 1000000000 → exec .fwActivateReset s = .next s)) ∧
  (∀ (s : State) (n : Nat) (raw tk : List Byte), s.hp.length = 4 → cmdReady s n 0x45 [(8, 8)] raw →
    (s.fuses.lcCtr = 64 → ∀ o, ∃ t, exec (.cmdLcTransition n o) s = .next t ∧ completes s t n 5 7 0 ∧ t.fuses = s.fuses) ∧
    (s.fuses.lcCtr ≠ 64 →
      ∃ t, exec (.cmdLcTransition n (some tk)) s = .next t ∧
        if tokenOk s (padTo 5072 tk) = true then
          t.fuses.lc = leAt (padTo 5072 tk) 5 1 ∧ t.fuses.lcCtr = s.fuses.lcCtr + 1 ∧
          t.pwr.state = .starting ∧ t.vbat.rstCause = BitVec.ofNat 32 (7 * 2 ^ 24)
        else completes s t n 5 4 0 ∧ t.fuses = s.fuses)) ∧
  (∀ (s : State) (mask : Nat) (k : Bool),
    ((s.pwr.state = .off ∨ tamperSeen s mask = 0) → exec (.tamperDetect mask k) s = .next s) ∧
    (s.pwr.state ≠ .off → tamperSeen s mask ≠ 0 →
      ∃ t, exec (.tamperDetect mask k) s = .next t ∧ t.sec.present = tamperSeen s mask ∧
        t.vbat.tlog = ({ sources := tamperSeen s mask, phase := tamperPhase s k, lc := s.fuses.lc, time := s.vbat.rtc } :: s.vbat.tlog).take 16 ∧
        (s.fuses.lc = 1 → t.vbat.kek = s.vbat.kek ∧ t.fuses = s.fuses) ∧
        (s.fuses.lc ≠ 1 → t.vbat.kek = false ∧ t.fuses.tlock = true ∧ (tamperPhase s k ≠ 3 → t.nv.root = 0 ∧ t.sec.unsealed = false))))

/-- POWER_UP below 4.3 V and in RUN changes nothing; held by RESET_N, PFAIL_N or VIN it waits in STARTING; otherwise the firmware copy chosen is
measured and the module is in RUN. A heard PFAIL_WARNING in RUN releases every DO, one driven or held to level 0, and enters SHED;
PFAIL_RECOVER resets with cause 3; UVLO_FALL leaves battery standby, or OFF without VBAT, which clears the VBAT domain. RESET_N_LOW resets
with cause 2 where VIN is present. SLEEP_WAKE at its second resets with cause 8. VBAT_APPLIED and VBAT_LOST move between OFF and battery
standby. TEMP_THRESHOLD reports a crossing of 110 °C alone, VIN_LOW_ALERT at most once per minute below THR + 1 V. VIO is present in
STARTING and RUN and absent after PFAIL_WARNING and UVLO_FALL. COMPLETION: exec answers a next state, under conditions on the state and the
operands alone, for powerUp, pfailWarning, pfailRecover, pfailNHigh, resetNRelease, uvloFall, vbatApplied, vbatLost, resetNLow, sleepWake,
tempThreshold, vinLowAlert. -/
def Obligations.SupplyAndResetsDecideThePowerState : Prop :=
  (∀ (s : State) (p : PowerIn),
    ((p.mv < 4300 ∨ s.pwr.state = .run) → exec (.powerUp p) s = .next s) ∧
    (4300 ≤ p.mv → s.pwr.state = .starting → s.pwr.noFw = false →
      ((s.pwr.resetN = false ∨ s.pwr.pfailN = false ∨ vinHigh s p.mv = false) →
        ∃ t, exec (.powerUp p) s = .next t ∧ t.pwr.state = .starting ∧ t.pwr.waits = true ∧ t.pwr.vin = p.mv ∧ vioOn t = true) ∧
      (s.pwr.resetN = true → s.pwr.pfailN = true → vinHigh s p.mv = true → chooseFw s = none →
        ∃ t, exec (.powerUp p) s = .next t ∧ t.pwr.state = .starting ∧ t.pwr.noFw = true) ∧
      (∀ k, s.pwr.resetN = true → s.pwr.pfailN = true → vinHigh s p.mv = true → chooseFw s = some k →
        ∃ t, exec (.powerUp p) s = .next t ∧ t.pwr.state = .run ∧ vioOn t = true ∧ t.sec.fwRun = k ∧
          t.sec.mc = measure (if k = 0 then s.nv.fw0 else s.nv.fw1).comps))) ∧
  (∀ (s : State) (ns : Nat) (ext : Bool),
    (bit (pfailCfg s) (if ext then 15 else 14) = true → s.pwr.state = .run →
      ∃ t, exec (.pfailWarning ns ext) s = .next t ∧ t.pwr.state = .shed ∧ vioOn t = false ∧ t.pwr.pfailN = false ∧ t.vbat.pfailAt = some ns ∧
        (∀ k, k < 16 → (doOf t k).st = 0 ∧ ((doOf s k).st ≠ 0 → (doOf t k).level = false)) ∧ t.cfg = s.cfg) ∧
    ((bit (pfailCfg s) (if ext then 15 else 14) = false ∨ s.pwr.state = .shed ∨ s.pwr.state = .sleep ∨ s.pwr.state = .off) →
      exec (.pfailWarning ns ext) s = .next s)) ∧
  (∀ (s : State) (mv : Nat),
    (s.pwr.state = .shed → vinHigh s mv →
      ∃ t, exec (.pfailRecover mv) s = .next t ∧ t.pwr.state = .starting ∧ t.pwr.vin = mv ∧ t.vbat.rstCause = BitVec.ofNat 32 (3 * 2 ^ 24) ∧
        t.fuses = s.fuses ∧ t.nv.resets = s.nv.resets + 1#32) ∧
    ((s.pwr.state ≠ .shed ∨ vinHigh s mv = false) → exec (.pfailRecover mv) s = .next s) ∧
    exec (.pfailNHigh mv) s = .next { s with pwr := { s.pwr with pfailN := true, vin := mv } } ∧
    exec .resetNRelease s = .next { s with pwr := { s.pwr with resetN := true } }) ∧
  (∀ s : State,
    ((s.pwr.state = .off ∨ s.pwr.state = .batteryStandby) → exec .uvloFall s = .next s) ∧
    (s.pwr.state ≠ .off → s.pwr.state ≠ .batteryStandby →
      ∃ t, exec .uvloFall s = .next t ∧
        (s.pwr.vbatPin = true → t.pwr.state = .batteryStandby ∧ t.vbat = s.vbat) ∧
        (s.pwr.vbatPin = false → t.pwr.state = .off ∧ t.vbat.kek = false ∧ t.vbat.rtcValid = false) ∧ vioOn t = false) ∧
    (∃ t, exec .vbatApplied s = .next t ∧ t.pwr.vbatPin = true ∧ t.vbat = s.vbat ∧
      t.pwr.state = (if s.pwr.state = .off then .batteryStandby else s.pwr.state)) ∧
    (∃ t, exec .vbatLost s = .next t ∧ t.pwr.vbatPin = false ∧
      (s.pwr.state = .batteryStandby → t.pwr.state = .off ∧ t.vbat.kek = false) ∧
      (s.pwr.state ≠ .batteryStandby → t.pwr.state = s.pwr.state ∧ t.vbat = s.vbat)) ∧
    (∃ t, exec .resetNLow s = .next t ∧ t.pwr.resetN = false ∧
      (powered s = true → t.pwr.state = .starting ∧ t.vbat.rstCause = BitVec.ofNat 32 (2 * 2 ^ 24)) ∧
      (powered s = false → t.pwr.state = s.pwr.state ∧ t.vbat = s.vbat))) ∧
  (∀ (s : State) (rtc w : Nat), s.pwr.state = .sleep → s.pwr.wake = some w →
    (w ≠ 0 → s.vbat.rtcValid → w * 1000000000 ≤ rtc →
      ∃ t, exec (.sleepWake rtc) s = .next t ∧ t.pwr.state = .starting ∧ t.vbat.rstCause = BitVec.ofNat 32 (8 * 2 ^ 24) ∧ t.vbat.rtc = rtc) ∧
    ((w = 0 ∨ rtc < w * 1000000000) → exec (.sleepWake rtc) s = .next s)) ∧
  (∀ (s : State) (temp : Int), alive s →
    ∃ t, exec (.tempThreshold temp) s = .next t ∧ t.pwr.temp = temp ∧
      t.evLogSeq = s.evLogSeq + (if (1760 ≤ s.pwr.temp) ↔ (1760 ≤ temp) then 0 else 1)) ∧
  (∀ (s : State) (mv : Nat), alive s →
    ∃ t, exec (.vinLowAlert mv) s = .next t ∧ t.pwr.vin = mv ∧
      t.evLogSeq = s.evLogSeq + (if mv < thrMv s + 1000 ∧ ∀ k, fget? s.limits 0x1204 = some k → k + 60000000000 ≤ s.tb.now then 1 else 0))

/-- FATAL_ERROR takes the next dump sequence number. With no dump held it is kept under that number and its cause; with one held that dump stays
and a header goes to the overflow area. A dump not cut ends in a reset with cause 4 and the cause as DETAIL, a cut one in SHED. DUMP_INFO
answers the number of the dump held, or 0; DUMP_READ copies its bytes; DUMP_RELEASE with its number frees it, and is refused with reason 2
otherwise. PWR_RESET and PWR_SLEEP are refused for the reasons of R503; PWR_RESET resets with cause 5 at once, or by SCHEDULED_RESET at its
second; PWR_SLEEP enters SLEEP with its wake second. COMPLETION: exec answers a next state, under conditions on the state and the operands
alone, for fatalError, cmdDumpInfo, cmdDumpRead, cmdDumpRelease, cmdPwrReset, scheduledReset, cmdPwrSleep. -/
def Obligations.FatalErrorsDumpsAndCommandedResets : Prop :=
  (∀ (s : State) (x : FatalIn), alive s →
    ∃ t, exec (.fatalError x) s = .next t ∧ t.nv.dumpSeq = (s.nv.dumpSeq + 1) % 2 ^ 32 ∧
      (s.nv.dump = none → ∃ d, t.nv.dump = some d ∧ d.seq = (s.nv.dumpSeq + 1) % 2 ^ 32 ∧ d.cause = x.cause ∧ d.complete = !x.cut) ∧
      (s.nv.dump.isSome → t.nv.dump = s.nv.dump ∧ t.nv.overHdr.isSome) ∧
      (x.cut = false → t.pwr.state = .starting ∧ t.vbat.rstCause = BitVec.ofNat 32 (4 * 2 ^ 24 + x.cause % 65536)) ∧
      (x.cut = true → t.pwr.state = .shed ∧ t.vbat.rstCause = s.vbat.rstCause ∧ t.vbat.pfailAt = some x.ns)) ∧
  (∀ (s : State) (n : Nat) (raw : List Byte), s.hp.length = 4 → cmdReady s n 0x60 [] raw →
    (s.nv.dump = none → ∃ t, exec (.cmdDumpInfo n) s = .next t ∧ completes s t n 0 0 0) ∧
    (∀ d, s.nv.dump = some d → ∃ t r, exec (.cmdDumpInfo n) s = .next t ∧ completes s t n 0 d.seq r)) ∧
  (∀ (s : State) (n : Nat) (raw : List Byte), s.hp.length = 4 → cmdReady s n 0x61 [(8, 17)] raw → leAt raw 0x18 1 = 0 →
    (∀ d, s.nv.dump = some d → leAt raw 0x10 4 % 8 = 0 → lenOk (leAt raw 0x14 4) → leAt raw 0x10 4 < d.raw.length →
      ∃ t, exec (.cmdDumpRead n true) s = .next t ∧ completes s t n 0 (slice d.raw (leAt raw 0x10 4) (leAt raw 0x14 4)).length 0 ∧
        (fnOf t n).dma = some (leAt raw 8 8, slice d.raw (leAt raw 0x10 4) (leAt raw 0x14 4))) ∧
    (s.nv.dump = none → ∀ ok, ∃ t, exec (.cmdDumpRead n ok) s = .next t ∧ completes s t n 7 0 0)) ∧
  (∀ (s : State) (n : Nat) (raw : List Byte), s.hp.length = 4 → cmdReady s n 0x62 [(4, 4)] raw →
    (∀ d, s.nv.dump = some d → d.seq = leAt raw 4 4 →
      ∃ t, exec (.cmdDumpRelease n) s = .next t ∧ completes s t n 0 0 0 ∧ t.nv.dump = none ∧ t.nv.dumpSeq = s.nv.dumpSeq) ∧
    ((∀ d, s.nv.dump = some d → d.seq ≠ leAt raw 4 4) →
      ∃ t, exec (.cmdDumpRelease n) s = .next t ∧ completes s t n 5 2 0 ∧ t.nv = s.nv)) ∧
  (∀ (s : State) (n : Nat) (raw : List Byte), s.hp.length = 4 → cmdReady s n 0x63 [(4, 1), (8, 8)] raw → leAt raw 4 1 = 0 →
    (pwrReason s (leAt raw 8 8) ≠ 0 →
      ∃ t, exec (.cmdPwrReset n) s = .next t ∧ completes s t n 5 (pwrReason s (leAt raw 8 8)) 0 ∧ t.pwr = s.pwr) ∧
    (pwrReason s 0 = 0 → leAt raw 8 8 = 0 →
      ∃ t, exec (.cmdPwrReset n) s = .next t ∧ t.pwr.state = .starting ∧ t.vbat.rstCause = BitVec.ofNat 32 (5 * 2 ^ 24)) ∧
    (pwrReason s (leAt raw 8 8) = 0 → leAt raw 8 8 ≠ 0 →
      ∃ t, exec (.cmdPwrReset n) s = .next t ∧ completes s t n 0 0 0 ∧ t.pwr = { s.pwr with resetAt := some (leAt raw 8 8, false) })) ∧
  (∀ (s : State) (sec : Nat), alive s → s.pwr.resetAt = some (sec, false) →
    (hasTime s → sec * 1000000000 ≤ s.tb.now →
      ∃ t, exec .scheduledReset s = .next t ∧ t.pwr.state = .starting ∧ t.vbat.rstCause = BitVec.ofNat 32 (5 * 2 ^ 24)) ∧
    (s.tb.now < sec * 1000000000 → exec .scheduledReset s = .next s)) ∧
  (∀ (s : State) (n : Nat) (raw : List Byte), s.hp.length = 4 → cmdReady s n 0x64 [(8, 8)] raw →
    (pwrReason s (leAt raw 8 8) = 0 →
      ∃ t, exec (.cmdPwrSleep n) s = .next t ∧ completes s t n 0 0 0 ∧ t.pwr.state = .sleep ∧ t.pwr.wake = some (leAt raw 8 8)) ∧
    (pwrReason s (leAt raw 8 8) ≠ 0 →
      ∃ t, exec (.cmdPwrSleep n) s = .next t ∧ completes s t n 5 (pwrReason s (leAt raw 8 8)) 0 ∧ t.pwr = s.pwr))
end

