-- ==== Sys2Proof/Laws/Memory.lean ====
section
/-!
SUPPORT. Sys2Proof/Laws/Memory.lean: byte memories: a read after a write, and the canonical form that every write keeps.
-/
namespace Sys2Proof.Machine

/-- A canonical memory from `lo` reads as the default below `lo`. -/
theorem memRead1_below {m : List Host.Cell} {lo a : Nat} (h : memWfFrom lo m = true) (ha : a < lo) : memRead1 m a = memDefault := by
  cases m with
  | nil => rfl
  | cons c m =>
    obtain ⟨i, b⟩ := c
    simp only [memWfFrom, Bool.and_eq_true, decide_eq_true_eq] at h
    simp only [memRead1]
    rw [if_neg (by omega), if_pos (by omega)]

/-- A canonical memory from `lo` is canonical from any lower address. -/
theorem memWfFrom_mono {m : List Host.Cell} {lo lo' : Nat} (hl : lo' ≤ lo) (h : memWfFrom lo m = true) : memWfFrom lo' m = true := by
  cases m with
  | nil => rfl
  | cons c m =>
    simp only [memWfFrom, Bool.and_eq_true, decide_eq_true_eq] at h ⊢
    exact ⟨⟨by omega, h.1.2⟩, h.2⟩

/-- A write at or above `lo` keeps the canonical form from `lo`. -/
theorem memWfFrom_write1 {m : List Host.Cell} {lo a : Nat} {b : Byte} (h : memWfFrom lo m = true) (ha : lo ≤ a) :
    memWfFrom lo (memWrite1 m a b) = true := by
  induction m generalizing lo with
  | nil =>
    simp only [memWrite1]
    split
    · rfl
    · simp_all [memWfFrom]
  | cons c m ih =>
    obtain ⟨i, d⟩ := c
    simp only [memWfFrom, Bool.and_eq_true, decide_eq_true_eq, bne_iff_ne, ne_eq] at h
    obtain ⟨⟨h1, h2⟩, h3⟩ := h
    simp only [memWrite1]
    split
    · rename_i e
      subst e
      split
      · exact memWfFrom_mono (by omega) h3
      · simp_all [memWfFrom]
    · split
      · split
        · simp_all [memWfFrom]
        · simp_all [memWfFrom]
      · simp only [memWfFrom, Bool.and_eq_true, decide_eq_true_eq, bne_iff_ne, ne_eq]
        exact ⟨⟨h1, h2⟩, ih h3 (by omega)⟩

theorem memWf_write1 {m : List Host.Cell} {a : Nat} {b : Byte} (h : memWf m = true) : memWf (memWrite1 m a b) = true :=
  memWfFrom_write1 h (Nat.zero_le _)

/-- Every memory write keeps the canonical form. -/
theorem memWf_write {m : List Host.Cell} {a : Nat} {bs : List Byte} (h : memWf m = true) : memWf (memWrite m a bs) = true := by
  induction bs generalizing m a with
  | nil => exact h
  | cons b bs ih => exact ih (memWf_write1 h)

theorem memRead1_cons (i : Nat) (d : Byte) (m : List Host.Cell) (b : Nat) :
    memRead1 ((i, d) :: m) b = if i = b then d else if b < i then memDefault else memRead1 m b := rfl

/-- The byte read back from where it was written, and every other byte as before. -/
theorem memRead1_write1 {m : List Host.Cell} {lo a b : Nat} {v : Byte} (h : memWfFrom lo m = true) :
    memRead1 (memWrite1 m a v) b = if b = a then v else memRead1 m b := by
  induction m generalizing lo with
  | nil =>
    by_cases hv : v = memDefault
    · simp [memWrite1, hv, memRead1]
    · by_cases hb : b = a
      · simp [memWrite1, hv, memRead1, hb]
      · simp [memWrite1, hv, memRead1, hb, Ne.symm hb]
  | cons c m ih =>
    obtain ⟨i, d⟩ := c
    simp only [memWfFrom, Bool.and_eq_true, decide_eq_true_eq, bne_iff_ne, ne_eq] at h
    obtain ⟨⟨h1, h2⟩, h3⟩ := h
    have low : b ≤ i → memRead1 m b = memDefault := fun q => memRead1_below h3 (by omega)
    simp only [memWrite1]
    rcases Nat.lt_trichotomy a i with g | g | g
    · have e : ¬ i = a := by omega
      by_cases hv : v = memDefault
      · by_cases hb : b = a
        · simp [e, g, hv, hb, memRead1_cons]
        · simp [e, g, hv, hb]
      · by_cases hb : b = a
        · simp [e, g, hv, hb, memRead1_cons]
        · have q : b < a → b < i := fun q => by omega
          have q2 : b < a → ¬ i = b := fun q => by omega
          by_cases hl : b < a
          · simp [e, g, hv, hb, memRead1_cons, Ne.symm hb, hl, q hl, q2 hl]
          · simp [e, g, hv, hb, memRead1_cons, Ne.symm hb, hl]
    · subst g
      by_cases hb : b = a
      · subst hb
        by_cases hv : v = memDefault
        · simp [hv, low (Nat.le_refl _)]
        · simp [hv, memRead1_cons]
      · by_cases hv : v = memDefault
        · by_cases hl : b < a
          · simp [hv, hb, memRead1_cons, Ne.symm hb, hl, low (Nat.le_of_lt hl)]
          · simp [hv, hb, memRead1_cons, Ne.symm hb, hl]
        · simp [hv, hb, memRead1_cons, Ne.symm hb]
    · have e : ¬ i = a := by omega
      have e2 : ¬ a < i := by omega
      simp only [e, e2, if_false, memRead1_cons, ih h3]
      by_cases hb : b = a
      · subst hb; simp [e, e2]
      · simp [hb]

end Sys2Proof.Machine
end

