-- ==== Sys2Proof/Laws/Kept.lean ====
section
/-!
SUPPORT. Sys2Proof/Laws/Kept.lean: what no command changes or breaks and what it leaves as it is, as one relation between the state before and
after, with the rules by which it passes through updates, folds and results that carry a state.
-/
set_option Elab.async false
set_option linter.unusedTactic false
set_option linter.unreachableTactic false
namespace Sys2Proof.Machine

/-- The parts of the state outside the mask `μ` are the same in both states. Bits of the mask are the numbers of `Item.bit`. -/
structure Same (μ : Nat) (s t : State) : Prop where
  tb : μ.testBit 0 = false → t.tb = s.tb
  clock : μ.testBit 1 = false → (t.tb.tick, t.tb.started, t.tb.grid) = (s.tb.tick, s.tb.started, s.tb.grid)
  timeState : μ.testBit 2 = false → t.tb.state = s.tb.state
  utcOfs : μ.testBit 3 = false → t.tb.ofs = s.tb.ofs
  eth : μ.testBit 4 = false → t.eth = s.eth
  ports : μ.testBit 5 = false → t.eth.ports = s.eth.ports
  handed : μ.testBit 6 = false → t.eth.handed = s.eth.handed
  dup : μ.testBit 7 = false → t.eth.dup = s.eth.dup
  ing : μ.testBit 8 = false → t.ing = s.ing
  strms : μ.testBit 9 = false → t.ing.strms = s.ing.strms
  recs : μ.testBit 10 = false → t.ing.recs = s.ing.recs
  aln : μ.testBit 11 = false → t.aln = s.aln
  grps : μ.testBit 12 = false → t.aln.grps = s.aln.grps
  votes : μ.testBit 13 = false → t.aln.votes = s.aln.votes
  sets : μ.testBit 14 = false → t.aln.sets = s.aln.sets
  svf : μ.testBit 15 = false → t.svf = s.svf
  osc : μ.testBit 16 = false → t.osc = s.osc
  isl : μ.testBit 17 = false → t.isl = s.isl
  sch : μ.testBit 18 = false → t.sch = s.sch
  inputs : μ.testBit 19 = false → (t.sch.stns, t.sch.dss, t.sch.ins) = (s.sch.stns, s.sch.dss, s.sch.ins)
  points : μ.testBit 20 = false → (t.sch.points, t.sch.links) = (s.sch.points, s.sch.links)
  scans : μ.testBit 21 = false → (t.sch.tasks, t.sch.tmrs, t.sch.edges, t.sch.cvs, t.sch.latches, t.sch.wins, t.sch.emits) = (s.sch.tasks, s.sch.tmrs, s.sch.edges, s.sch.cvs, s.sch.latches, s.sch.wins, s.sch.emits)
  cap : μ.testBit 22 = false → t.cap = s.cap
  recorders : μ.testBit 23 = false → t.cap.recs = s.cap.recs
  reel : μ.testBit 24 = false → t.cap.takes = s.cap.takes
  slates : μ.testBit 25 = false → t.cap.slates = s.cap.slates
  mtr : μ.testBit 26 = false → t.mtr = s.mtr
  mtrPts : μ.testBit 27 = false → t.mtr.pts = s.mtr.pts
  pulses : μ.testBit 28 = false → t.mtr.pos = s.mtr.pos
  tsk : μ.testBit 29 = false → t.tsk = s.tsk
  work : μ.testBit 30 = false → (t.tsk.items, t.tsk.stalled, t.tsk.dls) = (s.tsk.items, s.tsk.stalled, s.tsk.dls)
  arb : μ.testBit 31 = false → t.arb = s.arb
  pub : μ.testBit 32 = false → t.pub = s.pub
  outStreams : μ.testBit 33 = false → t.pub.os = s.pub.os
  goosePubs : μ.testBit 34 = false → t.pub.gps = s.pub.gps
  dos : μ.testBit 35 = false → t.pub.dos = s.pub.dos
  cfg : μ.testBit 36 = false → t.cfg = s.cfg
  active : μ.testBit 37 = false → (t.cfg.active, t.cfg.activeRaw) = (s.cfg.active, s.cfg.activeRaw)
  staged : μ.testBit 38 = false → (t.cfg.staged, t.cfg.stagedRaw, t.cfg.stagedSrc) = (s.cfg.staged, s.cfg.stagedRaw, s.cfg.stagedSrc)
  slots : μ.testBit 39 = false → (t.cfg.slotA, t.cfg.slotB, t.cfg.boot) = (s.cfg.slotA, s.cfg.slotB, s.cfg.boot)
  pars : μ.testBit 40 = false → t.cfg.pars = s.cfg.pars
  pushBuf : μ.testBit 41 = false → t.cfg.pushBuf = s.cfg.pushBuf
  hp : μ.testBit 42 = false → t.hp = s.hp
  hpRegs : μ.testBit 43 = false → t.hp.map (fun f => f.regs) = s.hp.map (fun f => f.regs)
  hpShow : μ.testBit 44 = false → t.hp.map (fun f => (f.win, f.mtrLatch, f.rc, f.lastRead)) = s.hp.map (fun f => (f.win, f.mtrLatch, f.rc, f.lastRead))
  hpCtr : μ.testBit 45 = false → t.hp.map (fun f => f.ctr) = s.hp.map (fun f => f.ctr)
  hpEv : μ.testBit 46 = false → t.hp.map (fun f => (f.evWait, f.evGen, f.irq, f.msi)) = s.hp.map (fun f => (f.evWait, f.evGen, f.irq, f.msi))
  hpEvq : μ.testBit 47 = false → t.hp.map (fun f => (f.evRing, f.eseq, f.evLost, f.evPhase, f.startEv)) = s.hp.map (fun f => (f.evRing, f.eseq, f.evLost, f.evPhase, f.startEv))
  hpCmd : μ.testBit 48 = false → t.hp.map (fun f => (f.cur, f.cplPhase, f.cplRing, f.dma)) = s.hp.map (fun f => (f.cur, f.cplPhase, f.cplRing, f.dma))
  hpBatch : μ.testBit 49 = false → t.hp.map (fun f => (f.batch, f.batVint, f.batLast, f.batReason)) = s.hp.map (fun f => (f.batch, f.batVint, f.batLast, f.batReason))
  hpFence : μ.testBit 50 = false → t.hp.map (fun f => (f.fenceDrops, f.regDrops, f.cmdFence, f.regFence)) = s.hp.map (fun f => (f.fenceDrops, f.regDrops, f.cmdFence, f.regFence))
  hpHrv : μ.testBit 51 = false → t.hp.map (fun f => (f.hrvWait, f.hrvGen, f.lateDrop, f.hrvRing, f.hrvWb)) = s.hp.map (fun f => (f.hrvWait, f.hrvGen, f.lateDrop, f.hrvRing, f.hrvWb))
  hpFrames : μ.testBit 52 = false → t.hp.map (fun f => (f.rxWait, f.rxWb, f.rxData, f.txWait, f.txWb)) = s.hp.map (fun f => (f.rxWait, f.rxWb, f.rxData, f.txWait, f.txWb))
  hpLink : μ.testBit 53 = false → t.hp.map (fun f => (f.bme, f.width, f.speed)) = s.hp.map (fun f => (f.bme, f.width, f.speed))
  pair : μ.testBit 54 = false → t.pair = s.pair
  role : μ.testBit 55 = false → (t.pair.role, t.pair.auth) = (s.pair.role, s.pair.auth)
  lease : μ.testBit 56 = false → (t.pair.leaseEnd, t.pair.witAt, t.pair.witOk) = (s.pair.leaseEnd, s.pair.witAt, s.pair.witOk)
  genImg : μ.testBit 57 = false → t.pair.img = s.pair.img
  sec : μ.testBit 58 = false → t.sec = s.sec
  unsealed : μ.testBit 59 = false → (t.sec.unsealed, t.sec.rootIn, t.sec.store) = (s.sec.unsealed, s.sec.rootIn, s.sec.store)
  nv : μ.testBit 60 = false → t.nv = s.nv
  vault : μ.testBit 61 = false → (t.nv.root, t.nv.roots, t.nv.lcVault, t.nv.store0, t.nv.store1, t.nv.ownerKey, t.nv.imageKey) = (s.nv.root, s.nv.roots, s.nv.lcVault, s.nv.store0, s.nv.store1, s.nv.ownerKey, s.nv.imageKey)
  fw : μ.testBit 62 = false → (t.nv.fw0, t.nv.fw1, t.nv.fwLast) = (s.nv.fw0, s.nv.fw1, s.nv.fwLast)
  bill : μ.testBit 63 = false → (t.nv.log, t.nv.billSeq, t.nv.billHash, t.nv.lost) = (s.nv.log, s.nv.billSeq, s.nv.billHash, s.nv.lost)
  banks : μ.testBit 64 = false → (t.nv.bank0, t.nv.bank1) = (s.nv.bank0, s.nv.bank1)
  savedPars : μ.testBit 65 = false → (t.nv.pars, t.nv.parCheck) = (s.nv.pars, s.nv.parCheck)
  dumps : μ.testBit 66 = false → (t.nv.dumpSeq, t.nv.dump, t.nv.overHdr) = (s.nv.dumpSeq, s.nv.dump, s.nv.overHdr)
  latency : μ.testBit 67 = false → (t.nv.lat, t.nv.claimHi) = (s.nv.lat, s.nv.claimHi)
  vbat : μ.testBit 68 = false → t.vbat = s.vbat
  kek : μ.testBit 69 = false → t.vbat.kek = s.vbat.kek
  rtc : μ.testBit 70 = false → (t.vbat.rtc, t.vbat.rtcValid) = (s.vbat.rtc, s.vbat.rtcValid)
  utcStored : μ.testBit 71 = false → (t.vbat.utcOfs, t.vbat.utcValid) = (s.vbat.utcOfs, s.vbat.utcValid)
  tlog : μ.testBit 72 = false → t.vbat.tlog = s.vbat.tlog
  fuses : μ.testBit 73 = false → t.fuses = s.fuses
  pwr : μ.testBit 74 = false → t.pwr = s.pwr
  pwrState : μ.testBit 75 = false → t.pwr.state = s.pwr.state
  cnt : μ.testBit 76 = false → t.cnt = s.cnt
  limits : μ.testBit 77 = false → t.limits = s.limits
  evLog : μ.testBit 78 = false → t.evLog = s.evLog
  evLogSeq : μ.testBit 79 = false → t.evLogSeq = s.evLogSeq
  free : μ.testBit 80 = false → t.free = s.free

/-- An unchanged part. -/
theorem sm {α : Type} {a : α} {p : Prop} : a = a ∨ p := .inl rfl
/-- A part that an update leaves, in every element. -/
theorem smf {α β : Type} {g : α → β} {p : Prop} : (∀ a, g a = g a) ∨ p := .inl fun _ => rfl
theorem no_bit {μ k : Nat} {p : Prop} (h : μ.testBit k = true) : μ.testBit k = false → p := fun q => by simp [h] at q
theorem bit_of {f μ k : Nat} (hw : f &&& μ = f) (e : f.testBit k = true) : μ.testBit k = true := by
  rw [← hw, Nat.testBit_and] at e
  simp_all
theorem sub_of {f g μ : Nat} (hw : f &&& μ = f) (e : g &&& f = g) : g &&& μ = g := by
  rw [← e, Nat.and_assoc, hw]

theorem Same.refl {μ : Nat} (s : State) : Same μ s s := by constructor <;> exact fun _ => rfl
theorem Same.mk' {μ : Nat} {s0 s : State} {x_pending x_tb x_eth x_ing x_aln x_svf x_osc x_isl x_sch x_cap x_mtr x_tsk x_arb x_pub x_cfg x_hp x_pair x_sec x_nv x_vbat x_part x_fuses x_pwr x_cnt x_limits x_evLog x_evLogSeq x_free} (h : Same μ s0 s)
    (h_tb : x_tb = s.tb ∨ (μ.testBit 0 = true ∧ ((x_tb.tick, x_tb.started, x_tb.grid) = (s.tb.tick, s.tb.started, s.tb.grid) ∨ μ.testBit 1 = true) ∧ (x_tb.state = s.tb.state ∨ μ.testBit 2 = true) ∧ (x_tb.ofs = s.tb.ofs ∨ μ.testBit 3 = true)) := by exact sm)
    (h_eth : x_eth = s.eth ∨ (μ.testBit 4 = true ∧ (x_eth.ports = s.eth.ports ∨ μ.testBit 5 = true) ∧ (x_eth.handed = s.eth.handed ∨ μ.testBit 6 = true) ∧ (x_eth.dup = s.eth.dup ∨ μ.testBit 7 = true)) := by exact sm)
    (h_ing : x_ing = s.ing ∨ (μ.testBit 8 = true ∧ (x_ing.strms = s.ing.strms ∨ μ.testBit 9 = true) ∧ (x_ing.recs = s.ing.recs ∨ μ.testBit 10 = true)) := by exact sm)
    (h_aln : x_aln = s.aln ∨ (μ.testBit 11 = true ∧ (x_aln.grps = s.aln.grps ∨ μ.testBit 12 = true) ∧ (x_aln.votes = s.aln.votes ∨ μ.testBit 13 = true) ∧ (x_aln.sets = s.aln.sets ∨ μ.testBit 14 = true)) := by exact sm)
    (h_svf : x_svf = s.svf ∨ μ.testBit 15 = true := by exact sm)
    (h_osc : x_osc = s.osc ∨ μ.testBit 16 = true := by exact sm)
    (h_isl : x_isl = s.isl ∨ μ.testBit 17 = true := by exact sm)
    (h_sch : x_sch = s.sch ∨ (μ.testBit 18 = true ∧ ((x_sch.stns, x_sch.dss, x_sch.ins) = (s.sch.stns, s.sch.dss, s.sch.ins) ∨ μ.testBit 19 = true) ∧ ((x_sch.points, x_sch.links) = (s.sch.points, s.sch.links) ∨ μ.testBit 20 = true) ∧ ((x_sch.tasks, x_sch.tmrs, x_sch.edges, x_sch.cvs, x_sch.latches, x_sch.wins, x_sch.emits) = (s.sch.tasks, s.sch.tmrs, s.sch.edges, s.sch.cvs, s.sch.latches, s.sch.wins, s.sch.emits) ∨ μ.testBit 21 = true)) := by exact sm)
    (h_cap : x_cap = s.cap ∨ (μ.testBit 22 = true ∧ (x_cap.recs = s.cap.recs ∨ μ.testBit 23 = true) ∧ (x_cap.takes = s.cap.takes ∨ μ.testBit 24 = true) ∧ (x_cap.slates = s.cap.slates ∨ μ.testBit 25 = true)) := by exact sm)
    (h_mtr : x_mtr = s.mtr ∨ (μ.testBit 26 = true ∧ (x_mtr.pts = s.mtr.pts ∨ μ.testBit 27 = true) ∧ (x_mtr.pos = s.mtr.pos ∨ μ.testBit 28 = true)) := by exact sm)
    (h_tsk : x_tsk = s.tsk ∨ (μ.testBit 29 = true ∧ ((x_tsk.items, x_tsk.stalled, x_tsk.dls) = (s.tsk.items, s.tsk.stalled, s.tsk.dls) ∨ μ.testBit 30 = true)) := by exact sm)
    (h_arb : x_arb = s.arb ∨ μ.testBit 31 = true := by exact sm)
    (h_pub : x_pub = s.pub ∨ (μ.testBit 32 = true ∧ (x_pub.os = s.pub.os ∨ μ.testBit 33 = true) ∧ (x_pub.gps = s.pub.gps ∨ μ.testBit 34 = true) ∧ (x_pub.dos = s.pub.dos ∨ μ.testBit 35 = true)) := by exact sm)
    (h_cfg : x_cfg = s.cfg ∨ (μ.testBit 36 = true ∧ ((x_cfg.active, x_cfg.activeRaw) = (s.cfg.active, s.cfg.activeRaw) ∨ μ.testBit 37 = true) ∧ ((x_cfg.staged, x_cfg.stagedRaw, x_cfg.stagedSrc) = (s.cfg.staged, s.cfg.stagedRaw, s.cfg.stagedSrc) ∨ μ.testBit 38 = true) ∧ ((x_cfg.slotA, x_cfg.slotB, x_cfg.boot) = (s.cfg.slotA, s.cfg.slotB, s.cfg.boot) ∨ μ.testBit 39 = true) ∧ (x_cfg.pars = s.cfg.pars ∨ μ.testBit 40 = true) ∧ (x_cfg.pushBuf = s.cfg.pushBuf ∨ μ.testBit 41 = true)) := by exact sm)
    (h_hp : x_hp = s.hp ∨ (μ.testBit 42 = true ∧ (x_hp.map (fun f => f.regs) = s.hp.map (fun f => f.regs) ∨ μ.testBit 43 = true) ∧ (x_hp.map (fun f => (f.win, f.mtrLatch, f.rc, f.lastRead)) = s.hp.map (fun f => (f.win, f.mtrLatch, f.rc, f.lastRead)) ∨ μ.testBit 44 = true) ∧ (x_hp.map (fun f => f.ctr) = s.hp.map (fun f => f.ctr) ∨ μ.testBit 45 = true) ∧ (x_hp.map (fun f => (f.evWait, f.evGen, f.irq, f.msi)) = s.hp.map (fun f => (f.evWait, f.evGen, f.irq, f.msi)) ∨ μ.testBit 46 = true) ∧ (x_hp.map (fun f => (f.evRing, f.eseq, f.evLost, f.evPhase, f.startEv)) = s.hp.map (fun f => (f.evRing, f.eseq, f.evLost, f.evPhase, f.startEv)) ∨ μ.testBit 47 = true) ∧ (x_hp.map (fun f => (f.cur, f.cplPhase, f.cplRing, f.dma)) = s.hp.map (fun f => (f.cur, f.cplPhase, f.cplRing, f.dma)) ∨ μ.testBit 48 = true) ∧ (x_hp.map (fun f => (f.batch, f.batVint, f.batLast, f.batReason)) = s.hp.map (fun f => (f.batch, f.batVint, f.batLast, f.batReason)) ∨ μ.testBit 49 = true) ∧ (x_hp.map (fun f => (f.fenceDrops, f.regDrops, f.cmdFence, f.regFence)) = s.hp.map (fun f => (f.fenceDrops, f.regDrops, f.cmdFence, f.regFence)) ∨ μ.testBit 50 = true) ∧ (x_hp.map (fun f => (f.hrvWait, f.hrvGen, f.lateDrop, f.hrvRing, f.hrvWb)) = s.hp.map (fun f => (f.hrvWait, f.hrvGen, f.lateDrop, f.hrvRing, f.hrvWb)) ∨ μ.testBit 51 = true) ∧ (x_hp.map (fun f => (f.rxWait, f.rxWb, f.rxData, f.txWait, f.txWb)) = s.hp.map (fun f => (f.rxWait, f.rxWb, f.rxData, f.txWait, f.txWb)) ∨ μ.testBit 52 = true) ∧ (x_hp.map (fun f => (f.bme, f.width, f.speed)) = s.hp.map (fun f => (f.bme, f.width, f.speed)) ∨ μ.testBit 53 = true)) := by exact sm)
    (h_pair : x_pair = s.pair ∨ (μ.testBit 54 = true ∧ ((x_pair.role, x_pair.auth) = (s.pair.role, s.pair.auth) ∨ μ.testBit 55 = true) ∧ ((x_pair.leaseEnd, x_pair.witAt, x_pair.witOk) = (s.pair.leaseEnd, s.pair.witAt, s.pair.witOk) ∨ μ.testBit 56 = true) ∧ (x_pair.img = s.pair.img ∨ μ.testBit 57 = true)) := by exact sm)
    (h_sec : x_sec = s.sec ∨ (μ.testBit 58 = true ∧ ((x_sec.unsealed, x_sec.rootIn, x_sec.store) = (s.sec.unsealed, s.sec.rootIn, s.sec.store) ∨ μ.testBit 59 = true)) := by exact sm)
    (h_nv : x_nv = s.nv ∨ (μ.testBit 60 = true ∧ ((x_nv.root, x_nv.roots, x_nv.lcVault, x_nv.store0, x_nv.store1, x_nv.ownerKey, x_nv.imageKey) = (s.nv.root, s.nv.roots, s.nv.lcVault, s.nv.store0, s.nv.store1, s.nv.ownerKey, s.nv.imageKey) ∨ μ.testBit 61 = true) ∧ ((x_nv.fw0, x_nv.fw1, x_nv.fwLast) = (s.nv.fw0, s.nv.fw1, s.nv.fwLast) ∨ μ.testBit 62 = true) ∧ ((x_nv.log, x_nv.billSeq, x_nv.billHash, x_nv.lost) = (s.nv.log, s.nv.billSeq, s.nv.billHash, s.nv.lost) ∨ μ.testBit 63 = true) ∧ ((x_nv.bank0, x_nv.bank1) = (s.nv.bank0, s.nv.bank1) ∨ μ.testBit 64 = true) ∧ ((x_nv.pars, x_nv.parCheck) = (s.nv.pars, s.nv.parCheck) ∨ μ.testBit 65 = true) ∧ ((x_nv.dumpSeq, x_nv.dump, x_nv.overHdr) = (s.nv.dumpSeq, s.nv.dump, s.nv.overHdr) ∨ μ.testBit 66 = true) ∧ ((x_nv.lat, x_nv.claimHi) = (s.nv.lat, s.nv.claimHi) ∨ μ.testBit 67 = true)) := by exact sm)
    (h_vbat : x_vbat = s.vbat ∨ (μ.testBit 68 = true ∧ (x_vbat.kek = s.vbat.kek ∨ μ.testBit 69 = true) ∧ ((x_vbat.rtc, x_vbat.rtcValid) = (s.vbat.rtc, s.vbat.rtcValid) ∨ μ.testBit 70 = true) ∧ ((x_vbat.utcOfs, x_vbat.utcValid) = (s.vbat.utcOfs, s.vbat.utcValid) ∨ μ.testBit 71 = true) ∧ (x_vbat.tlog = s.vbat.tlog ∨ μ.testBit 72 = true)) := by exact sm)
    (h_fuses : x_fuses = s.fuses ∨ μ.testBit 73 = true := by exact sm)
    (h_pwr : x_pwr = s.pwr ∨ (μ.testBit 74 = true ∧ (x_pwr.state = s.pwr.state ∨ μ.testBit 75 = true)) := by exact sm)
    (h_cnt : x_cnt = s.cnt ∨ μ.testBit 76 = true := by exact sm)
    (h_limits : x_limits = s.limits ∨ μ.testBit 77 = true := by exact sm)
    (h_evLog : x_evLog = s.evLog ∨ μ.testBit 78 = true := by exact sm)
    (h_evLogSeq : x_evLogSeq = s.evLogSeq ∨ μ.testBit 79 = true := by exact sm)
    (h_free : x_free = s.free ∨ μ.testBit 80 = true := by exact sm) :
    Same μ s0 (State.mk x_pending x_tb x_eth x_ing x_aln x_svf x_osc x_isl x_sch x_cap x_mtr x_tsk x_arb x_pub x_cfg x_hp x_pair x_sec x_nv x_vbat x_part x_fuses x_pwr x_cnt x_limits x_evLog x_evLogSeq x_free) := by
  constructor
  · exact fun q => (h_tb.elim id (fun p => no_bit p.1 q)).trans (h.tb q)
  · exact fun q => Eq.trans (h_tb.elim (fun p => by rw [p]) (fun p => p.2.1.elim id (fun r => no_bit r q))) (h.clock q)
  · exact fun q => Eq.trans (h_tb.elim (fun p => by rw [p]) (fun p => p.2.2.1.elim id (fun r => no_bit r q))) (h.timeState q)
  · exact fun q => Eq.trans (h_tb.elim (fun p => by rw [p]) (fun p => p.2.2.2.elim id (fun r => no_bit r q))) (h.utcOfs q)
  · exact fun q => (h_eth.elim id (fun p => no_bit p.1 q)).trans (h.eth q)
  · exact fun q => Eq.trans (h_eth.elim (fun p => by rw [p]) (fun p => p.2.1.elim id (fun r => no_bit r q))) (h.ports q)
  · exact fun q => Eq.trans (h_eth.elim (fun p => by rw [p]) (fun p => p.2.2.1.elim id (fun r => no_bit r q))) (h.handed q)
  · exact fun q => Eq.trans (h_eth.elim (fun p => by rw [p]) (fun p => p.2.2.2.elim id (fun r => no_bit r q))) (h.dup q)
  · exact fun q => (h_ing.elim id (fun p => no_bit p.1 q)).trans (h.ing q)
  · exact fun q => Eq.trans (h_ing.elim (fun p => by rw [p]) (fun p => p.2.1.elim id (fun r => no_bit r q))) (h.strms q)
  · exact fun q => Eq.trans (h_ing.elim (fun p => by rw [p]) (fun p => p.2.2.elim id (fun r => no_bit r q))) (h.recs q)
  · exact fun q => (h_aln.elim id (fun p => no_bit p.1 q)).trans (h.aln q)
  · exact fun q => Eq.trans (h_aln.elim (fun p => by rw [p]) (fun p => p.2.1.elim id (fun r => no_bit r q))) (h.grps q)
  · exact fun q => Eq.trans (h_aln.elim (fun p => by rw [p]) (fun p => p.2.2.1.elim id (fun r => no_bit r q))) (h.votes q)
  · exact fun q => Eq.trans (h_aln.elim (fun p => by rw [p]) (fun p => p.2.2.2.elim id (fun r => no_bit r q))) (h.sets q)
  · exact fun q => (h_svf.elim id (fun p => no_bit p q)).trans (h.svf q)
  · exact fun q => (h_osc.elim id (fun p => no_bit p q)).trans (h.osc q)
  · exact fun q => (h_isl.elim id (fun p => no_bit p q)).trans (h.isl q)
  · exact fun q => (h_sch.elim id (fun p => no_bit p.1 q)).trans (h.sch q)
  · exact fun q => Eq.trans (h_sch.elim (fun p => by rw [p]) (fun p => p.2.1.elim id (fun r => no_bit r q))) (h.inputs q)
  · exact fun q => Eq.trans (h_sch.elim (fun p => by rw [p]) (fun p => p.2.2.1.elim id (fun r => no_bit r q))) (h.points q)
  · exact fun q => Eq.trans (h_sch.elim (fun p => by rw [p]) (fun p => p.2.2.2.elim id (fun r => no_bit r q))) (h.scans q)
  · exact fun q => (h_cap.elim id (fun p => no_bit p.1 q)).trans (h.cap q)
  · exact fun q => Eq.trans (h_cap.elim (fun p => by rw [p]) (fun p => p.2.1.elim id (fun r => no_bit r q))) (h.recorders q)
  · exact fun q => Eq.trans (h_cap.elim (fun p => by rw [p]) (fun p => p.2.2.1.elim id (fun r => no_bit r q))) (h.reel q)
  · exact fun q => Eq.trans (h_cap.elim (fun p => by rw [p]) (fun p => p.2.2.2.elim id (fun r => no_bit r q))) (h.slates q)
  · exact fun q => (h_mtr.elim id (fun p => no_bit p.1 q)).trans (h.mtr q)
  · exact fun q => Eq.trans (h_mtr.elim (fun p => by rw [p]) (fun p => p.2.1.elim id (fun r => no_bit r q))) (h.mtrPts q)
  · exact fun q => Eq.trans (h_mtr.elim (fun p => by rw [p]) (fun p => p.2.2.elim id (fun r => no_bit r q))) (h.pulses q)
  · exact fun q => (h_tsk.elim id (fun p => no_bit p.1 q)).trans (h.tsk q)
  · exact fun q => Eq.trans (h_tsk.elim (fun p => by rw [p]) (fun p => p.2.elim id (fun r => no_bit r q))) (h.work q)
  · exact fun q => (h_arb.elim id (fun p => no_bit p q)).trans (h.arb q)
  · exact fun q => (h_pub.elim id (fun p => no_bit p.1 q)).trans (h.pub q)
  · exact fun q => Eq.trans (h_pub.elim (fun p => by rw [p]) (fun p => p.2.1.elim id (fun r => no_bit r q))) (h.outStreams q)
  · exact fun q => Eq.trans (h_pub.elim (fun p => by rw [p]) (fun p => p.2.2.1.elim id (fun r => no_bit r q))) (h.goosePubs q)
  · exact fun q => Eq.trans (h_pub.elim (fun p => by rw [p]) (fun p => p.2.2.2.elim id (fun r => no_bit r q))) (h.dos q)
  · exact fun q => (h_cfg.elim id (fun p => no_bit p.1 q)).trans (h.cfg q)
  · exact fun q => Eq.trans (h_cfg.elim (fun p => by rw [p]) (fun p => p.2.1.elim id (fun r => no_bit r q))) (h.active q)
  · exact fun q => Eq.trans (h_cfg.elim (fun p => by rw [p]) (fun p => p.2.2.1.elim id (fun r => no_bit r q))) (h.staged q)
  · exact fun q => Eq.trans (h_cfg.elim (fun p => by rw [p]) (fun p => p.2.2.2.1.elim id (fun r => no_bit r q))) (h.slots q)
  · exact fun q => Eq.trans (h_cfg.elim (fun p => by rw [p]) (fun p => p.2.2.2.2.1.elim id (fun r => no_bit r q))) (h.pars q)
  · exact fun q => Eq.trans (h_cfg.elim (fun p => by rw [p]) (fun p => p.2.2.2.2.2.elim id (fun r => no_bit r q))) (h.pushBuf q)
  · exact fun q => (h_hp.elim id (fun p => no_bit p.1 q)).trans (h.hp q)
  · exact fun q => Eq.trans (h_hp.elim (fun p => by rw [p]) (fun p => p.2.1.elim id (fun r => no_bit r q))) (h.hpRegs q)
  · exact fun q => Eq.trans (h_hp.elim (fun p => by rw [p]) (fun p => p.2.2.1.elim id (fun r => no_bit r q))) (h.hpShow q)
  · exact fun q => Eq.trans (h_hp.elim (fun p => by rw [p]) (fun p => p.2.2.2.1.elim id (fun r => no_bit r q))) (h.hpCtr q)
  · exact fun q => Eq.trans (h_hp.elim (fun p => by rw [p]) (fun p => p.2.2.2.2.1.elim id (fun r => no_bit r q))) (h.hpEv q)
  · exact fun q => Eq.trans (h_hp.elim (fun p => by rw [p]) (fun p => p.2.2.2.2.2.1.elim id (fun r => no_bit r q))) (h.hpEvq q)
  · exact fun q => Eq.trans (h_hp.elim (fun p => by rw [p]) (fun p => p.2.2.2.2.2.2.1.elim id (fun r => no_bit r q))) (h.hpCmd q)
  · exact fun q => Eq.trans (h_hp.elim (fun p => by rw [p]) (fun p => p.2.2.2.2.2.2.2.1.elim id (fun r => no_bit r q))) (h.hpBatch q)
  · exact fun q => Eq.trans (h_hp.elim (fun p => by rw [p]) (fun p => p.2.2.2.2.2.2.2.2.1.elim id (fun r => no_bit r q))) (h.hpFence q)
  · exact fun q => Eq.trans (h_hp.elim (fun p => by rw [p]) (fun p => p.2.2.2.2.2.2.2.2.2.1.elim id (fun r => no_bit r q))) (h.hpHrv q)
  · exact fun q => Eq.trans (h_hp.elim (fun p => by rw [p]) (fun p => p.2.2.2.2.2.2.2.2.2.2.1.elim id (fun r => no_bit r q))) (h.hpFrames q)
  · exact fun q => Eq.trans (h_hp.elim (fun p => by rw [p]) (fun p => p.2.2.2.2.2.2.2.2.2.2.2.elim id (fun r => no_bit r q))) (h.hpLink q)
  · exact fun q => (h_pair.elim id (fun p => no_bit p.1 q)).trans (h.pair q)
  · exact fun q => Eq.trans (h_pair.elim (fun p => by rw [p]) (fun p => p.2.1.elim id (fun r => no_bit r q))) (h.role q)
  · exact fun q => Eq.trans (h_pair.elim (fun p => by rw [p]) (fun p => p.2.2.1.elim id (fun r => no_bit r q))) (h.lease q)
  · exact fun q => Eq.trans (h_pair.elim (fun p => by rw [p]) (fun p => p.2.2.2.elim id (fun r => no_bit r q))) (h.genImg q)
  · exact fun q => (h_sec.elim id (fun p => no_bit p.1 q)).trans (h.sec q)
  · exact fun q => Eq.trans (h_sec.elim (fun p => by rw [p]) (fun p => p.2.elim id (fun r => no_bit r q))) (h.unsealed q)
  · exact fun q => (h_nv.elim id (fun p => no_bit p.1 q)).trans (h.nv q)
  · exact fun q => Eq.trans (h_nv.elim (fun p => by rw [p]) (fun p => p.2.1.elim id (fun r => no_bit r q))) (h.vault q)
  · exact fun q => Eq.trans (h_nv.elim (fun p => by rw [p]) (fun p => p.2.2.1.elim id (fun r => no_bit r q))) (h.fw q)
  · exact fun q => Eq.trans (h_nv.elim (fun p => by rw [p]) (fun p => p.2.2.2.1.elim id (fun r => no_bit r q))) (h.bill q)
  · exact fun q => Eq.trans (h_nv.elim (fun p => by rw [p]) (fun p => p.2.2.2.2.1.elim id (fun r => no_bit r q))) (h.banks q)
  · exact fun q => Eq.trans (h_nv.elim (fun p => by rw [p]) (fun p => p.2.2.2.2.2.1.elim id (fun r => no_bit r q))) (h.savedPars q)
  · exact fun q => Eq.trans (h_nv.elim (fun p => by rw [p]) (fun p => p.2.2.2.2.2.2.1.elim id (fun r => no_bit r q))) (h.dumps q)
  · exact fun q => Eq.trans (h_nv.elim (fun p => by rw [p]) (fun p => p.2.2.2.2.2.2.2.elim id (fun r => no_bit r q))) (h.latency q)
  · exact fun q => (h_vbat.elim id (fun p => no_bit p.1 q)).trans (h.vbat q)
  · exact fun q => Eq.trans (h_vbat.elim (fun p => by rw [p]) (fun p => p.2.1.elim id (fun r => no_bit r q))) (h.kek q)
  · exact fun q => Eq.trans (h_vbat.elim (fun p => by rw [p]) (fun p => p.2.2.1.elim id (fun r => no_bit r q))) (h.rtc q)
  · exact fun q => Eq.trans (h_vbat.elim (fun p => by rw [p]) (fun p => p.2.2.2.1.elim id (fun r => no_bit r q))) (h.utcStored q)
  · exact fun q => Eq.trans (h_vbat.elim (fun p => by rw [p]) (fun p => p.2.2.2.2.elim id (fun r => no_bit r q))) (h.tlog q)
  · exact fun q => (h_fuses.elim id (fun p => no_bit p q)).trans (h.fuses q)
  · exact fun q => (h_pwr.elim id (fun p => no_bit p.1 q)).trans (h.pwr q)
  · exact fun q => Eq.trans (h_pwr.elim (fun p => by rw [p]) (fun p => p.2.elim id (fun r => no_bit r q))) (h.pwrState q)
  · exact fun q => (h_cnt.elim id (fun p => no_bit p q)).trans (h.cnt q)
  · exact fun q => (h_limits.elim id (fun p => no_bit p q)).trans (h.limits q)
  · exact fun q => (h_evLog.elim id (fun p => no_bit p q)).trans (h.evLog q)
  · exact fun q => (h_evLogSeq.elim id (fun p => no_bit p q)).trans (h.evLogSeq q)
  · exact fun q => (h_free.elim id (fun p => no_bit p q)).trans (h.free q)

/-- What no command changes or breaks, and the parts outside the mask `μ` that it leaves as they are: the queue stays, the part stays, the four
functions stay four, the push buffer keeps its canonical form, the tick counter stands at 0 before it starts, the security version, BILL_SEQ and
the count of life-cycle transitions never fall, and the logs and that count stay within their bounds. -/
structure Kept (μ : Nat) (s t : State) : Prop where
  pending : t.pending = s.pending
  part : t.part = s.part
  hp : s.hp.length = 4 → t.hp.length = 4
  push : memWf s.cfg.pushBuf = true → memWf t.cfg.pushBuf = true
  tick : (s.tb.started = false → s.tb.tick = 0) → (t.tb.started = false → t.tb.tick = 0)
  svn : s.fuses.svn ≤ t.fuses.svn
  bill : s.nv.billSeq ≤ t.nv.billSeq
  ctr : s.fuses.lcCtr ≤ t.fuses.lcCtr
  ctr64 : s.fuses.lcCtr ≤ 64 → t.fuses.lcCtr ≤ 64
  evl : s.evLog.length ≤ 4096 → t.evLog.length ≤ 4096
  tlog : s.vbat.tlog.length ≤ 16 → t.vbat.tlog.length ≤ 16
  fr : Same μ s t

theorem Kept.refl {μ : Nat} (s : State) : Kept μ s s :=
  ⟨rfl, rfl, id, id, id, Nat.le_refl _, Nat.le_refl _, Nat.le_refl _, id, id, id, Same.refl s⟩

theorem Kept.upd {μ : Nat} {s0 s t : State} (h : Kept μ s0 s) (h1 : t.pending = s.pending) (h2 : t.part = s.part) (h3 : t.hp.length = s.hp.length)
    (h4 : t.cfg.pushBuf = s.cfg.pushBuf) (h5 : t.tb.started = s.tb.started) (h6 : t.tb.tick = s.tb.tick)
    (h7 : t.fuses.svn = s.fuses.svn) (h8 : t.nv.billSeq = s.nv.billSeq) (h9 : t.fuses.lcCtr = s.fuses.lcCtr) (h10 : t.evLog = s.evLog)
    (h11 : t.vbat.tlog = s.vbat.tlog) (hf : Same μ s0 t) : Kept μ s0 t :=
  ⟨h1.trans h.pending, h2.trans h.part, fun e => h3.trans (h.hp e), fun e => by rw [h4]; exact h.push e,
   fun e q => by rw [h6]; exact h.tick e (h5 ▸ q), h7 ▸ h.svn, h8 ▸ h.bill, h9 ▸ h.ctr, h9 ▸ h.ctr64, h10 ▸ h.evl, h11 ▸ h.tlog, hf⟩

theorem Kept.mk' {μ : Nat} {s0 s : State} {x_pending x_tb x_eth x_ing x_aln x_svf x_osc x_isl x_sch x_cap x_mtr x_tsk x_arb x_pub x_cfg x_hp x_pair x_sec x_nv x_vbat x_part x_fuses x_pwr x_cnt x_limits x_evLog x_evLogSeq x_free}
    (h : Kept μ s0 s) (h1 : x_pending = s.pending := by rfl) (h2 : x_part = s.part := by rfl) (h3 : x_hp = s.hp := by rfl)
    (h4 : x_cfg.pushBuf = s.cfg.pushBuf := by rfl) (h5 : x_tb.started = s.tb.started := by rfl) (h6 : x_tb.tick = s.tb.tick := by rfl)
    (h7 : x_fuses.svn = s.fuses.svn := by rfl) (h8 : x_nv.billSeq = s.nv.billSeq := by rfl) (h9 : x_fuses.lcCtr = s.fuses.lcCtr := by rfl)
    (h10 : x_evLog = s.evLog := by rfl) (h11 : x_vbat.tlog = s.vbat.tlog := by rfl)
    (h_tb : x_tb = s.tb ∨ (μ.testBit 0 = true ∧ ((x_tb.tick, x_tb.started, x_tb.grid) = (s.tb.tick, s.tb.started, s.tb.grid) ∨ μ.testBit 1 = true) ∧ (x_tb.state = s.tb.state ∨ μ.testBit 2 = true) ∧ (x_tb.ofs = s.tb.ofs ∨ μ.testBit 3 = true)) := by exact sm)
    (h_eth : x_eth = s.eth ∨ (μ.testBit 4 = true ∧ (x_eth.ports = s.eth.ports ∨ μ.testBit 5 = true) ∧ (x_eth.handed = s.eth.handed ∨ μ.testBit 6 = true) ∧ (x_eth.dup = s.eth.dup ∨ μ.testBit 7 = true)) := by exact sm)
    (h_ing : x_ing = s.ing ∨ (μ.testBit 8 = true ∧ (x_ing.strms = s.ing.strms ∨ μ.testBit 9 = true) ∧ (x_ing.recs = s.ing.recs ∨ μ.testBit 10 = true)) := by exact sm)
    (h_aln : x_aln = s.aln ∨ (μ.testBit 11 = true ∧ (x_aln.grps = s.aln.grps ∨ μ.testBit 12 = true) ∧ (x_aln.votes = s.aln.votes ∨ μ.testBit 13 = true) ∧ (x_aln.sets = s.aln.sets ∨ μ.testBit 14 = true)) := by exact sm)
    (h_svf : x_svf = s.svf ∨ μ.testBit 15 = true := by exact sm)
    (h_osc : x_osc = s.osc ∨ μ.testBit 16 = true := by exact sm)
    (h_isl : x_isl = s.isl ∨ μ.testBit 17 = true := by exact sm)
    (h_sch : x_sch = s.sch ∨ (μ.testBit 18 = true ∧ ((x_sch.stns, x_sch.dss, x_sch.ins) = (s.sch.stns, s.sch.dss, s.sch.ins) ∨ μ.testBit 19 = true) ∧ ((x_sch.points, x_sch.links) = (s.sch.points, s.sch.links) ∨ μ.testBit 20 = true) ∧ ((x_sch.tasks, x_sch.tmrs, x_sch.edges, x_sch.cvs, x_sch.latches, x_sch.wins, x_sch.emits) = (s.sch.tasks, s.sch.tmrs, s.sch.edges, s.sch.cvs, s.sch.latches, s.sch.wins, s.sch.emits) ∨ μ.testBit 21 = true)) := by exact sm)
    (h_cap : x_cap = s.cap ∨ (μ.testBit 22 = true ∧ (x_cap.recs = s.cap.recs ∨ μ.testBit 23 = true) ∧ (x_cap.takes = s.cap.takes ∨ μ.testBit 24 = true) ∧ (x_cap.slates = s.cap.slates ∨ μ.testBit 25 = true)) := by exact sm)
    (h_mtr : x_mtr = s.mtr ∨ (μ.testBit 26 = true ∧ (x_mtr.pts = s.mtr.pts ∨ μ.testBit 27 = true) ∧ (x_mtr.pos = s.mtr.pos ∨ μ.testBit 28 = true)) := by exact sm)
    (h_tsk : x_tsk = s.tsk ∨ (μ.testBit 29 = true ∧ ((x_tsk.items, x_tsk.stalled, x_tsk.dls) = (s.tsk.items, s.tsk.stalled, s.tsk.dls) ∨ μ.testBit 30 = true)) := by exact sm)
    (h_arb : x_arb = s.arb ∨ μ.testBit 31 = true := by exact sm)
    (h_pub : x_pub = s.pub ∨ (μ.testBit 32 = true ∧ (x_pub.os = s.pub.os ∨ μ.testBit 33 = true) ∧ (x_pub.gps = s.pub.gps ∨ μ.testBit 34 = true) ∧ (x_pub.dos = s.pub.dos ∨ μ.testBit 35 = true)) := by exact sm)
    (h_cfg : x_cfg = s.cfg ∨ (μ.testBit 36 = true ∧ ((x_cfg.active, x_cfg.activeRaw) = (s.cfg.active, s.cfg.activeRaw) ∨ μ.testBit 37 = true) ∧ ((x_cfg.staged, x_cfg.stagedRaw, x_cfg.stagedSrc) = (s.cfg.staged, s.cfg.stagedRaw, s.cfg.stagedSrc) ∨ μ.testBit 38 = true) ∧ ((x_cfg.slotA, x_cfg.slotB, x_cfg.boot) = (s.cfg.slotA, s.cfg.slotB, s.cfg.boot) ∨ μ.testBit 39 = true) ∧ (x_cfg.pars = s.cfg.pars ∨ μ.testBit 40 = true) ∧ (x_cfg.pushBuf = s.cfg.pushBuf ∨ μ.testBit 41 = true)) := by exact sm)
    (h_hp : x_hp = s.hp ∨ (μ.testBit 42 = true ∧ (x_hp.map (fun f => f.regs) = s.hp.map (fun f => f.regs) ∨ μ.testBit 43 = true) ∧ (x_hp.map (fun f => (f.win, f.mtrLatch, f.rc, f.lastRead)) = s.hp.map (fun f => (f.win, f.mtrLatch, f.rc, f.lastRead)) ∨ μ.testBit 44 = true) ∧ (x_hp.map (fun f => f.ctr) = s.hp.map (fun f => f.ctr) ∨ μ.testBit 45 = true) ∧ (x_hp.map (fun f => (f.evWait, f.evGen, f.irq, f.msi)) = s.hp.map (fun f => (f.evWait, f.evGen, f.irq, f.msi)) ∨ μ.testBit 46 = true) ∧ (x_hp.map (fun f => (f.evRing, f.eseq, f.evLost, f.evPhase, f.startEv)) = s.hp.map (fun f => (f.evRing, f.eseq, f.evLost, f.evPhase, f.startEv)) ∨ μ.testBit 47 = true) ∧ (x_hp.map (fun f => (f.cur, f.cplPhase, f.cplRing, f.dma)) = s.hp.map (fun f => (f.cur, f.cplPhase, f.cplRing, f.dma)) ∨ μ.testBit 48 = true) ∧ (x_hp.map (fun f => (f.batch, f.batVint, f.batLast, f.batReason)) = s.hp.map (fun f => (f.batch, f.batVint, f.batLast, f.batReason)) ∨ μ.testBit 49 = true) ∧ (x_hp.map (fun f => (f.fenceDrops, f.regDrops, f.cmdFence, f.regFence)) = s.hp.map (fun f => (f.fenceDrops, f.regDrops, f.cmdFence, f.regFence)) ∨ μ.testBit 50 = true) ∧ (x_hp.map (fun f => (f.hrvWait, f.hrvGen, f.lateDrop, f.hrvRing, f.hrvWb)) = s.hp.map (fun f => (f.hrvWait, f.hrvGen, f.lateDrop, f.hrvRing, f.hrvWb)) ∨ μ.testBit 51 = true) ∧ (x_hp.map (fun f => (f.rxWait, f.rxWb, f.rxData, f.txWait, f.txWb)) = s.hp.map (fun f => (f.rxWait, f.rxWb, f.rxData, f.txWait, f.txWb)) ∨ μ.testBit 52 = true) ∧ (x_hp.map (fun f => (f.bme, f.width, f.speed)) = s.hp.map (fun f => (f.bme, f.width, f.speed)) ∨ μ.testBit 53 = true)) := by exact sm)
    (h_pair : x_pair = s.pair ∨ (μ.testBit 54 = true ∧ ((x_pair.role, x_pair.auth) = (s.pair.role, s.pair.auth) ∨ μ.testBit 55 = true) ∧ ((x_pair.leaseEnd, x_pair.witAt, x_pair.witOk) = (s.pair.leaseEnd, s.pair.witAt, s.pair.witOk) ∨ μ.testBit 56 = true) ∧ (x_pair.img = s.pair.img ∨ μ.testBit 57 = true)) := by exact sm)
    (h_sec : x_sec = s.sec ∨ (μ.testBit 58 = true ∧ ((x_sec.unsealed, x_sec.rootIn, x_sec.store) = (s.sec.unsealed, s.sec.rootIn, s.sec.store) ∨ μ.testBit 59 = true)) := by exact sm)
    (h_nv : x_nv = s.nv ∨ (μ.testBit 60 = true ∧ ((x_nv.root, x_nv.roots, x_nv.lcVault, x_nv.store0, x_nv.store1, x_nv.ownerKey, x_nv.imageKey) = (s.nv.root, s.nv.roots, s.nv.lcVault, s.nv.store0, s.nv.store1, s.nv.ownerKey, s.nv.imageKey) ∨ μ.testBit 61 = true) ∧ ((x_nv.fw0, x_nv.fw1, x_nv.fwLast) = (s.nv.fw0, s.nv.fw1, s.nv.fwLast) ∨ μ.testBit 62 = true) ∧ ((x_nv.log, x_nv.billSeq, x_nv.billHash, x_nv.lost) = (s.nv.log, s.nv.billSeq, s.nv.billHash, s.nv.lost) ∨ μ.testBit 63 = true) ∧ ((x_nv.bank0, x_nv.bank1) = (s.nv.bank0, s.nv.bank1) ∨ μ.testBit 64 = true) ∧ ((x_nv.pars, x_nv.parCheck) = (s.nv.pars, s.nv.parCheck) ∨ μ.testBit 65 = true) ∧ ((x_nv.dumpSeq, x_nv.dump, x_nv.overHdr) = (s.nv.dumpSeq, s.nv.dump, s.nv.overHdr) ∨ μ.testBit 66 = true) ∧ ((x_nv.lat, x_nv.claimHi) = (s.nv.lat, s.nv.claimHi) ∨ μ.testBit 67 = true)) := by exact sm)
    (h_vbat : x_vbat = s.vbat ∨ (μ.testBit 68 = true ∧ (x_vbat.kek = s.vbat.kek ∨ μ.testBit 69 = true) ∧ ((x_vbat.rtc, x_vbat.rtcValid) = (s.vbat.rtc, s.vbat.rtcValid) ∨ μ.testBit 70 = true) ∧ ((x_vbat.utcOfs, x_vbat.utcValid) = (s.vbat.utcOfs, s.vbat.utcValid) ∨ μ.testBit 71 = true) ∧ (x_vbat.tlog = s.vbat.tlog ∨ μ.testBit 72 = true)) := by exact sm)
    (h_fuses : x_fuses = s.fuses ∨ μ.testBit 73 = true := by exact sm)
    (h_pwr : x_pwr = s.pwr ∨ (μ.testBit 74 = true ∧ (x_pwr.state = s.pwr.state ∨ μ.testBit 75 = true)) := by exact sm)
    (h_cnt : x_cnt = s.cnt ∨ μ.testBit 76 = true := by exact sm)
    (h_limits : x_limits = s.limits ∨ μ.testBit 77 = true := by exact sm)
    (h_evLog : x_evLog = s.evLog ∨ μ.testBit 78 = true := by exact sm)
    (h_evLogSeq : x_evLogSeq = s.evLogSeq ∨ μ.testBit 79 = true := by exact sm)
    (h_free : x_free = s.free ∨ μ.testBit 80 = true := by exact sm) :
    Kept μ s0 (State.mk x_pending x_tb x_eth x_ing x_aln x_svf x_osc x_isl x_sch x_cap x_mtr x_tsk x_arb x_pub x_cfg x_hp x_pair x_sec x_nv x_vbat x_part x_fuses x_pwr x_cnt x_limits x_evLog x_evLogSeq x_free) :=
  h.upd h1 h2 (by rw [← h3]) h4 h5 h6 h7 h8 h9 h10 h11 (h.fr.mk' h_tb h_eth h_ing h_aln h_svf h_osc h_isl h_sch h_cap h_mtr h_tsk h_arb h_pub h_cfg h_hp h_pair h_sec h_nv h_vbat h_fuses h_pwr h_cnt h_limits h_evLog h_evLogSeq h_free)

theorem length_lastN {α : Type} (n : Nat) (l : List α) : (lastN n l).length ≤ n := by
  simp only [lastN, List.length_drop]
  omega

theorem kept_foldl {μ : Nat} {α : Type} {s0 : State} {f : State → α → State} {l : List α} {s : State} (hf : ∀ s x, Kept μ s0 s → Kept μ s0 (f s x))
    (h : Kept μ s0 s) : Kept μ s0 (l.foldl f s) := by
  induction l generalizing s with
  | nil => exact h
  | cons a l ih => exact ih (hf _ _ h)

/-- A meaning's next state is kept. -/
structure KeptOut (μ : Nat) (s0 : State) (o : Out) : Prop where
  out : ∀ t, o = .next t → Kept μ s0 t

/-- The first or the second part of a pair is kept. -/
structure KeptF {α : Type} (μ : Nat) (s0 : State) (p : State × α) : Prop where
  out : Kept μ s0 p.1
structure KeptS {α : Type} (μ : Nat) (s0 : State) (p : α × State) : Prop where
  out : Kept μ s0 p.2

/-- The state that an option carries is kept. -/
structure KeptOF {α : Type} (μ : Nat) (s0 : State) (o : Option (State × α)) : Prop where
  out : ∀ p, o = some p → Kept μ s0 p.1
structure KeptOS {α : Type} (μ : Nat) (s0 : State) (o : Option (α × State)) : Prop where
  out : ∀ p, o = some p → Kept μ s0 p.2
structure KeptOS4 {α β γ : Type} (μ : Nat) (s0 : State) (o : Option (α × β × γ × State)) : Prop where
  out : ∀ p, o = some p → Kept μ s0 p.2.2.2

theorem KeptOut.mk' {μ : Nat} {s0 t : State} (h : Kept μ s0 t) : KeptOut μ s0 (.next t) := ⟨fun _ e => by cases e; exact h⟩
theorem KeptF.mk' {μ : Nat} {α : Type} {s0 t : State} {a : α} (h : Kept μ s0 t) : KeptF μ s0 (t, a) := ⟨h⟩
theorem KeptF.fst {μ : Nat} {α : Type} {s0 : State} {p : State × α} (h : KeptF μ s0 p) : Kept μ s0 p.1 := h.out
theorem KeptF.eq {μ : Nat} {α : Type} {s0 t : State} {p : State × α} {a : α} (e : p = (t, a)) (h : KeptF μ s0 p) : Kept μ s0 t := by
  have := h.out; rw [e] at this; exact this
theorem KeptS.mk' {μ : Nat} {α : Type} {s0 t : State} {a : α} (h : Kept μ s0 t) : KeptS μ s0 (a, t) := ⟨h⟩
theorem KeptS.snd {μ : Nat} {α : Type} {s0 : State} {p : α × State} (h : KeptS μ s0 p) : Kept μ s0 p.2 := h.out
theorem KeptS.eq {μ : Nat} {α : Type} {s0 t : State} {p : α × State} {a : α} (e : p = (a, t)) (h : KeptS μ s0 p) : Kept μ s0 t := by
  have := h.out; rw [e] at this; exact this
theorem KeptOF.mk' {μ : Nat} {α : Type} {s0 t : State} {a : α} (h : Kept μ s0 t) : KeptOF μ s0 (some (t, a)) := ⟨fun _ e => by cases e; exact h⟩
theorem KeptOF.none {μ : Nat} {α : Type} {s0 : State} : KeptOF (α := α) μ s0 none := ⟨fun _ e => by cases e⟩
theorem KeptOF.eq {μ : Nat} {α : Type} {s0 t : State} {o : Option (State × α)} {a : α} (e : o = some (t, a)) (h : KeptOF μ s0 o) : Kept μ s0 t :=
  h.out _ e
theorem KeptOS.mk' {μ : Nat} {α : Type} {s0 t : State} {a : α} (h : Kept μ s0 t) : KeptOS μ s0 (some (a, t)) := ⟨fun _ e => by cases e; exact h⟩
theorem KeptOS.none {μ : Nat} {α : Type} {s0 : State} : KeptOS (α := α) μ s0 none := ⟨fun _ e => by cases e⟩
theorem KeptOS.eq {μ : Nat} {α : Type} {s0 t : State} {o : Option (α × State)} {a : α} (e : o = some (a, t)) (h : KeptOS μ s0 o) : Kept μ s0 t :=
  h.out _ e
theorem KeptOS4.mk' {μ : Nat} {α β γ : Type} {s0 t : State} {a : α} {b : β} {c : γ} (h : Kept μ s0 t) : KeptOS4 μ s0 (some (a, b, c, t)) :=
  ⟨fun _ e => by cases e; exact h⟩
theorem KeptOS4.none {μ : Nat} {α β γ : Type} {s0 : State} : KeptOS4 (α := α) (β := β) (γ := γ) μ s0 none := ⟨fun _ e => by cases e⟩
theorem KeptOS4.eq {μ : Nat} {α β γ : Type} {s0 t : State} {o : Option (α × β × γ × State)} {a : α} {b : β} {c : γ} (e : o = some (a, b, c, t))
    (h : KeptOS4 μ s0 o) : Kept μ s0 t := h.out _ e

theorem kept_foldlF {μ : Nat} {α β : Type} {s0 : State} {f : State × α → β → State × α} {l : List β} {p : State × α}
    (hf : ∀ p x, KeptF μ s0 p → KeptF μ s0 (f p x)) (h : KeptF μ s0 p) : KeptF μ s0 (l.foldl f p) := by
  induction l generalizing p with
  | nil => exact h
  | cons a l ih => exact ih (hf _ _ h)

theorem kept_foldlS {μ : Nat} {α β : Type} {s0 : State} {f : α × State → β → α × State} {l : List β} {p : α × State}
    (hf : ∀ p x, KeptS μ s0 p → KeptS μ s0 (f p x)) (h : KeptS μ s0 p) : KeptS μ s0 (l.foldl f p) := by
  induction l generalizing p with
  | nil => exact h
  | cons a l ih => exact ih (hf _ _ h)

end Sys2Proof.Machine
end

