-- ==== Sys2Proof/Laws/KeptOps.lean ====
section
/-!
SUPPORT. Sys2Proof/Laws/KeptOps.lean: every operation of Ops.lean keeps what no command changes, and the parts that it does not write (Kept.lean).
-/
set_option Elab.async false
set_option linter.unusedTactic false
set_option linter.unreachableTactic false
set_option linter.unusedVariables false
namespace Sys2Proof.Machine

theorem kept_act {μ : Nat} (hw : 0 &&& μ = 0) {s0 : State} {s : State} {f : State → State} (h_f : ∀ s, Kept μ s0 s → Kept μ s0 (f s)) (kh : Kept μ s0 s) :
    KeptOut μ s0 (act s f) := by
  unfold act
  refine KeptOut.mk' ?_
  split
  · exact h_f _ kh
  · exact kh

theorem kept_whenS {μ : Nat} (hw : 0 &&& μ = 0) {s0 : State} {c : Bool} {f : State → State} {s : State} (h_f : ∀ s, Kept μ s0 s → Kept μ s0 (f s)) (kh : Kept μ s0 s) :
    Kept μ s0 (whenS c f s) := by
  unfold whenS
  repeat' first
    | with_reducible assumption
    | (intro s; with_reducible refine (fun (hs : Kept μ s0 s) => ?_) ?_)
    | intro x
    | lift_lets
    | with_reducible refine h_f _ ?_
    | split
    | dsimp +zetaDelta only

theorem kept_fresh {μ : Nat} (hw : 1208925819614629174706176 &&& μ = 1208925819614629174706176) {s0 : State} {w : Nat} {s : State}  (kh : Kept μ s0 s) :
    KeptS μ s0 (fresh w s) := by
  have i80 : μ.testBit 80 = true := bit_of hw rfl
  exact KeptS.mk' (Kept.mk' kh  (h_free := .inr i80))

theorem map_modify_same {α β : Type} {l : List α} {n : Nat} {F : α → α} {g : α → β} (h : ∀ a, g (F a) = g a) :
    (l.modify n F).map g = l.map g := by
  induction l generalizing n with
  | nil => cases n <;> rfl
  | cons a l ih => cases n <;> simp_all [List.modify]

theorem map_map_same {α β : Type} {l : List α} {F : α → α} {g : α → β} (h : ∀ a, g (F a) = g a) : (l.map F).map g = l.map g := by
  simp [Function.comp_def, h]

theorem kept_modFn {μ : Nat} (hw : 4398046511104 &&& μ = 4398046511104) {s0 : State} {s : State} {n : Nat} {F : Fn → Fn}
    (hf_hpRegs : (∀ f, (F f).regs = f.regs) ∨ μ.testBit 43 = true)
    (hf_hpShow : (∀ f, ((F f).win, (F f).mtrLatch, (F f).rc, (F f).lastRead) = (f.win, f.mtrLatch, f.rc, f.lastRead)) ∨ μ.testBit 44 = true)
    (hf_hpCtr : (∀ f, (F f).ctr = f.ctr) ∨ μ.testBit 45 = true)
    (hf_hpEv : (∀ f, ((F f).evWait, (F f).evGen, (F f).irq, (F f).msi) = (f.evWait, f.evGen, f.irq, f.msi)) ∨ μ.testBit 46 = true)
    (hf_hpEvq : (∀ f, ((F f).evRing, (F f).eseq, (F f).evLost, (F f).evPhase, (F f).startEv) = (f.evRing, f.eseq, f.evLost, f.evPhase, f.startEv)) ∨ μ.testBit 47 = true)
    (hf_hpCmd : (∀ f, ((F f).cur, (F f).cplPhase, (F f).cplRing, (F f).dma) = (f.cur, f.cplPhase, f.cplRing, f.dma)) ∨ μ.testBit 48 = true)
    (hf_hpBatch : (∀ f, ((F f).batch, (F f).batVint, (F f).batLast, (F f).batReason) = (f.batch, f.batVint, f.batLast, f.batReason)) ∨ μ.testBit 49 = true)
    (hf_hpFence : (∀ f, ((F f).fenceDrops, (F f).regDrops, (F f).cmdFence, (F f).regFence) = (f.fenceDrops, f.regDrops, f.cmdFence, f.regFence)) ∨ μ.testBit 50 = true)
    (hf_hpHrv : (∀ f, ((F f).hrvWait, (F f).hrvGen, (F f).lateDrop, (F f).hrvRing, (F f).hrvWb) = (f.hrvWait, f.hrvGen, f.lateDrop, f.hrvRing, f.hrvWb)) ∨ μ.testBit 51 = true)
    (hf_hpFrames : (∀ f, ((F f).rxWait, (F f).rxWb, (F f).rxData, (F f).txWait, (F f).txWb) = (f.rxWait, f.rxWb, f.rxData, f.txWait, f.txWb)) ∨ μ.testBit 52 = true)
    (hf_hpLink : (∀ f, ((F f).bme, (F f).width, (F f).speed) = (f.bme, f.width, f.speed)) ∨ μ.testBit 53 = true)
    (kh : Kept μ s0 s) : Kept μ s0 (modFn s n F) := by
  have i42 : μ.testBit 42 = true := bit_of hw rfl
  refine kh.upd rfl rfl ?_ rfl rfl rfl rfl rfl rfl rfl rfl (kh.fr.mk' (h_hp := .inr ⟨i42, hf_hpRegs.imp map_modify_same id, hf_hpShow.imp map_modify_same id, hf_hpCtr.imp map_modify_same id, hf_hpEv.imp map_modify_same id, hf_hpEvq.imp map_modify_same id, hf_hpCmd.imp map_modify_same id, hf_hpBatch.imp map_modify_same id, hf_hpFence.imp map_modify_same id, hf_hpHrv.imp map_modify_same id, hf_hpFrames.imp map_modify_same id, hf_hpLink.imp map_modify_same id⟩))
  simp [modFn]

theorem kept_setFnReg {μ : Nat} (hw : 13194139533312 &&& μ = 13194139533312) {s0 : State} {s : State} {n off : Nat} {v : Word}  (kh : Kept μ s0 s) :
    Kept μ s0 (setFnReg s n off v) := by
  have k_modFn : 4398046511104 &&& μ = 4398046511104 := sub_of hw rfl
  have i42 : μ.testBit 42 = true := bit_of hw rfl
  have i43 : μ.testBit 43 = true := bit_of hw rfl
  unfold setFnReg
  repeat' first
    | with_reducible assumption
    | (intro s; with_reducible refine (fun (hs : Kept μ s0 s) => ?_) ?_)
    | intro x
    | lift_lets
    | with_reducible refine kept_modFn k_modFn (.inr i43) smf smf smf smf smf smf smf smf smf smf ?_
    | (fail_if_no_progress with_reducible refine Kept.mk' ?_  (h_hp := .inr ⟨i42, .inr i43, sm, sm, sm, sm, sm, sm, sm, sm, sm, sm⟩))
    | split
    | dsimp +zetaDelta only

theorem kept_setFlag1 {μ : Nat} (hw : 13194139533312 &&& μ = 13194139533312) {s0 : State} {s : State} {n off b : Nat}  (kh : Kept μ s0 s) :
    Kept μ s0 (setFlag1 s n off b) := by
  have k_setFnReg : 13194139533312 &&& μ = 13194139533312 := sub_of hw rfl
  unfold setFlag1
  repeat' first
    | with_reducible assumption
    | (intro s; with_reducible refine (fun (hs : Kept μ s0 s) => ?_) ?_)
    | intro x
    | lift_lets
    | with_reducible refine kept_setFnReg k_setFnReg ?_
    | split
    | dsimp +zetaDelta only

theorem kept_setFlag {μ : Nat} (hw : 13194139533312 &&& μ = 13194139533312) {s0 : State} {s : State} {off b : Nat}  (kh : Kept μ s0 s) :
    Kept μ s0 (setFlag s off b) := by
  have k_setFlag1 : 13194139533312 &&& μ = 13194139533312 := sub_of hw rfl
  unfold setFlag
  repeat' first
    | with_reducible assumption
    | (intro s; with_reducible refine (fun (hs : Kept μ s0 s) => ?_) ?_)
    | intro x
    | lift_lets
    | with_reducible refine kept_setFlag1 k_setFlag1 ?_
    | split
    | dsimp +zetaDelta only

theorem kept_rcMax {μ : Nat} (hw : 21990232555520 &&& μ = 21990232555520) {s0 : State} {s : State} {off win v : Nat}  (kh : Kept μ s0 s) :
    Kept μ s0 (rcMax s off win v) := by
  have i42 : μ.testBit 42 = true := bit_of hw rfl
  have i44 : μ.testBit 44 = true := bit_of hw rfl
  refine kh.upd rfl rfl ?_ rfl rfl rfl rfl rfl rfl rfl rfl (kh.fr.mk' (h_hp := .inr ⟨i42, .inl (map_map_same fun _ => rfl), .inr i44, .inl (map_map_same fun _ => rfl), .inl (map_map_same fun _ => rfl), .inl (map_map_same fun _ => rfl), .inl (map_map_same fun _ => rfl), .inl (map_map_same fun _ => rfl), .inl (map_map_same fun _ => rfl), .inl (map_map_same fun _ => rfl), .inl (map_map_same fun _ => rfl), .inl (map_map_same fun _ => rfl)⟩))
  simp [rcMax]

theorem kept_seen {μ : Nat} (hw : 1 &&& μ = 1) {s0 : State} {ns : Nat} {s : State}  (kh : Kept μ s0 s) :
    Kept μ s0 (seen ns s) := by
  have i0 : μ.testBit 0 = true := bit_of hw rfl
  unfold seen
  repeat' first
    | with_reducible assumption
    | (intro s; with_reducible refine (fun (hs : Kept μ s0 s) => ?_) ?_)
    | intro x
    | lift_lets
    | (fail_if_no_progress with_reducible refine Kept.mk' ?_  (h_tb := .inr ⟨i0, sm, sm, sm⟩))
    | split
    | dsimp +zetaDelta only

theorem kept_irqPend {μ : Nat} (hw : 74766790688768 &&& μ = 74766790688768) {s0 : State} {n src : Nat} {s : State}  (kh : Kept μ s0 s) :
    Kept μ s0 (irqPend n src s) := by
  have k_modFn : 4398046511104 &&& μ = 4398046511104 := sub_of hw rfl
  have i42 : μ.testBit 42 = true := bit_of hw rfl
  have i46 : μ.testBit 46 = true := bit_of hw rfl
  unfold irqPend
  repeat' first
    | with_reducible assumption
    | (intro s; with_reducible refine (fun (hs : Kept μ s0 s) => ?_) ?_)
    | intro x
    | lift_lets
    | with_reducible refine kept_modFn k_modFn smf smf smf (.inr i46) smf smf smf smf smf smf smf ?_
    | (fail_if_no_progress with_reducible refine Kept.mk' ?_  (h_hp := .inr ⟨i42, sm, sm, sm, .inr i46, sm, sm, sm, sm, sm, sm, sm⟩))
    | split
    | dsimp +zetaDelta only

theorem kept_addEvent {μ : Nat} (hw : 74766790688768 &&& μ = 74766790688768) {s0 : State} {ev : Event} {n : Nat} {s : State}  (kh : Kept μ s0 s) :
    Kept μ s0 (addEvent ev n s) := by
  have k_modFn : 4398046511104 &&& μ = 4398046511104 := sub_of hw rfl
  have i42 : μ.testBit 42 = true := bit_of hw rfl
  have i46 : μ.testBit 46 = true := bit_of hw rfl
  unfold addEvent
  repeat' first
    | with_reducible assumption
    | (intro s; with_reducible refine (fun (hs : Kept μ s0 s) => ?_) ?_)
    | intro x
    | lift_lets
    | with_reducible refine kept_modFn k_modFn smf smf smf (.inr i46) smf smf smf smf smf smf smf ?_
    | (fail_if_no_progress with_reducible refine Kept.mk' ?_  (h_hp := .inr ⟨i42, sm, sm, sm, .inr i46, sm, sm, sm, sm, sm, sm, sm⟩))
    | split
    | dsimp +zetaDelta only

theorem kept_raiseIn {μ : Nat} (hw : 906694364785738671718400 &&& μ = 906694364785738671718400) {s0 : State} {blk code : Nat} {o : EvObj} {arg : List Byte} {s : State}  (kh : Kept μ s0 s) :
    Kept μ s0 (raiseIn blk code o arg s) := by
  have k_addEvent : 74766790688768 &&& μ = 74766790688768 := sub_of hw rfl
  have i42 : μ.testBit 42 = true := bit_of hw rfl
  have i46 : μ.testBit 46 = true := bit_of hw rfl
  have i78 : μ.testBit 78 = true := bit_of hw rfl
  have i79 : μ.testBit 79 = true := bit_of hw rfl
  unfold raiseIn
  dsimp only
  refine kept_foldl (fun s x hs => ?_) ?_
  · split
    · exact kept_addEvent k_addEvent hs
    · exact hs
  · exact ⟨kh.pending, kh.part, kh.hp, kh.push, kh.tick, kh.svn, kh.bill, kh.ctr, kh.ctr64, fun _ => by dsimp only; exact length_lastN 4096 _, kh.tlog, kh.fr.mk' (h_hp := .inr ⟨i42, sm, sm, sm, .inr i46, sm, sm, sm, sm, sm, sm, sm⟩) (h_evLog := .inr i78) (h_evLogSeq := .inr i79)⟩

theorem kept_raise {μ : Nat} (hw : 906694364785738671718400 &&& μ = 906694364785738671718400) {s0 : State} {code : Nat} {o : EvObj} {arg : List Byte} {s : State}  (kh : Kept μ s0 s) :
    Kept μ s0 (raise code o arg s) := by
  have k_raiseIn : 906694364785738671718400 &&& μ = 906694364785738671718400 := sub_of hw rfl
  unfold raise
  repeat' first
    | with_reducible assumption
    | (intro s; with_reducible refine (fun (hs : Kept μ s0 s) => ?_) ?_)
    | intro x
    | lift_lets
    | with_reducible refine kept_raiseIn k_raiseIn ?_
    | split
    | dsimp +zetaDelta only

theorem kept_raiseLimited {μ : Nat} (hw : 1057810092237567318556672 &&& μ = 1057810092237567318556672) {s0 : State} {key code : Nat} {o : EvObj} {arg : List Byte} {s : State}  (kh : Kept μ s0 s) :
    Kept μ s0 (raiseLimited key code o arg s) := by
  have k_raise : 906694364785738671718400 &&& μ = 906694364785738671718400 := sub_of hw rfl
  have i42 : μ.testBit 42 = true := bit_of hw rfl
  have i46 : μ.testBit 46 = true := bit_of hw rfl
  have i77 : μ.testBit 77 = true := bit_of hw rfl
  have i78 : μ.testBit 78 = true := bit_of hw rfl
  have i79 : μ.testBit 79 = true := bit_of hw rfl
  unfold raiseLimited
  repeat' first
    | with_reducible assumption
    | (intro s; with_reducible refine (fun (hs : Kept μ s0 s) => ?_) ?_)
    | intro x
    | lift_lets
    | with_reducible refine kept_raise k_raise ?_
    | (fail_if_no_progress with_reducible refine Kept.mk' ?_  (h_hp := .inr ⟨i42, sm, sm, sm, .inr i46, sm, sm, sm, sm, sm, sm, sm⟩) (h_limits := .inr i77) (h_evLog := .inr i78) (h_evLogSeq := .inr i79))
    | split
    | dsimp +zetaDelta only

theorem kept_halfRange {μ : Nat} (hw : 906694364794534764740608 &&& μ = 906694364794534764740608) {s0 : State} {off win : Nat} {o : EvObj} {s : State}  (kh : Kept μ s0 s) :
    Kept μ s0 (halfRange off win o s) := by
  have k_raiseIn : 906694364785738671718400 &&& μ = 906694364785738671718400 := sub_of hw rfl
  have k_setFlag : 13194139533312 &&& μ = 13194139533312 := sub_of hw rfl
  have i42 : μ.testBit 42 = true := bit_of hw rfl
  have i43 : μ.testBit 43 = true := bit_of hw rfl
  have i46 : μ.testBit 46 = true := bit_of hw rfl
  have i78 : μ.testBit 78 = true := bit_of hw rfl
  have i79 : μ.testBit 79 = true := bit_of hw rfl
  unfold halfRange
  repeat' first
    | with_reducible assumption
    | (intro s; with_reducible refine (fun (hs : Kept μ s0 s) => ?_) ?_)
    | intro x
    | lift_lets
    | with_reducible refine kept_setFlag k_setFlag ?_
    | with_reducible refine kept_raiseIn k_raiseIn ?_
    | (fail_if_no_progress with_reducible refine Kept.mk' ?_  (h_hp := .inr ⟨i42, .inr i43, sm, sm, .inr i46, sm, sm, sm, sm, sm, sm, sm⟩) (h_evLog := .inr i78) (h_evLogSeq := .inr i79))
    | split
    | dsimp +zetaDelta only

theorem kept_halfAt {μ : Nat} (hw : 906694364794534764740608 &&& μ = 906694364794534764740608) {s0 : State} {off win : Nat} {old : Word} {s : State}  (kh : Kept μ s0 s) :
    Kept μ s0 (halfAt off win old s) := by
  have k_halfRange : 906694364794534764740608 &&& μ = 906694364794534764740608 := sub_of hw rfl
  unfold halfAt
  repeat' first
    | with_reducible assumption
    | (intro s; with_reducible refine (fun (hs : Kept μ s0 s) => ?_) ?_)
    | intro x
    | lift_lets
    | with_reducible refine kept_halfRange k_halfRange ?_
    | split
    | dsimp +zetaDelta only

theorem kept_countW {μ : Nat} (hw : 982252228520449088159744 &&& μ = 982252228520449088159744) {s0 : State} {off win : Nat} {o : EvObj} {s : State}  (kh : Kept μ s0 s) :
    Kept μ s0 (countW off win o s) := by
  have k_halfRange : 906694364794534764740608 &&& μ = 906694364794534764740608 := sub_of hw rfl
  have i42 : μ.testBit 42 = true := bit_of hw rfl
  have i43 : μ.testBit 43 = true := bit_of hw rfl
  have i46 : μ.testBit 46 = true := bit_of hw rfl
  have i76 : μ.testBit 76 = true := bit_of hw rfl
  have i78 : μ.testBit 78 = true := bit_of hw rfl
  have i79 : μ.testBit 79 = true := bit_of hw rfl
  unfold countW
  repeat' first
    | with_reducible assumption
    | (intro s; with_reducible refine (fun (hs : Kept μ s0 s) => ?_) ?_)
    | intro x
    | lift_lets
    | with_reducible refine kept_halfRange k_halfRange ?_
    | (fail_if_no_progress with_reducible refine Kept.mk' ?_  (h_hp := .inr ⟨i42, .inr i43, sm, sm, .inr i46, sm, sm, sm, sm, sm, sm, sm⟩) (h_cnt := .inr i76) (h_evLog := .inr i78) (h_evLogSeq := .inr i79))
    | split
    | dsimp +zetaDelta only

theorem kept_count {μ : Nat} (hw : 982252228520449088159744 &&& μ = 982252228520449088159744) {s0 : State} {off : Nat} {s : State}  (kh : Kept μ s0 s) :
    Kept μ s0 (count off s) := by
  have k_countW : 982252228520449088159744 &&& μ = 982252228520449088159744 := sub_of hw rfl
  unfold count
  repeat' first
    | with_reducible assumption
    | (intro s; with_reducible refine (fun (hs : Kept μ s0 s) => ?_) ?_)
    | intro x
    | lift_lets
    | with_reducible refine kept_countW k_countW ?_
    | split
    | dsimp +zetaDelta only

theorem kept_countN {μ : Nat} (hw : 982252228520449088159744 &&& μ = 982252228520449088159744) {s0 : State} {off win n : Nat} {o : EvObj} {s : State}  (kh : Kept μ s0 s) :
    Kept μ s0 (countN off win n o s) := by
  have k_halfRange : 906694364794534764740608 &&& μ = 906694364794534764740608 := sub_of hw rfl
  have i42 : μ.testBit 42 = true := bit_of hw rfl
  have i43 : μ.testBit 43 = true := bit_of hw rfl
  have i46 : μ.testBit 46 = true := bit_of hw rfl
  have i76 : μ.testBit 76 = true := bit_of hw rfl
  have i78 : μ.testBit 78 = true := bit_of hw rfl
  have i79 : μ.testBit 79 = true := bit_of hw rfl
  unfold countN
  repeat' first
    | with_reducible assumption
    | (intro s; with_reducible refine (fun (hs : Kept μ s0 s) => ?_) ?_)
    | intro x
    | lift_lets
    | with_reducible refine kept_halfRange k_halfRange ?_
    | (fail_if_no_progress with_reducible refine Kept.mk' ?_  (h_hp := .inr ⟨i42, .inr i43, sm, sm, .inr i46, sm, sm, sm, sm, sm, sm, sm⟩) (h_cnt := .inr i76) (h_evLog := .inr i78) (h_evLogSeq := .inr i79))
    | split
    | dsimp +zetaDelta only

theorem kept_flagCount {μ : Nat} (hw : 982252228520449088159744 &&& μ = 982252228520449088159744) {s0 : State} {reg b off : Nat} {s : State}  (kh : Kept μ s0 s) :
    Kept μ s0 (flagCount reg b off s) := by
  have k_count : 982252228520449088159744 &&& μ = 982252228520449088159744 := sub_of hw rfl
  have k_setFlag : 13194139533312 &&& μ = 13194139533312 := sub_of hw rfl
  unfold flagCount
  repeat' first
    | with_reducible assumption
    | (intro s; with_reducible refine (fun (hs : Kept μ s0 s) => ?_) ?_)
    | intro x
    | lift_lets
    | with_reducible refine kept_setFlag k_setFlag ?_
    | with_reducible refine kept_count k_count ?_
    | split
    | dsimp +zetaDelta only

theorem kept_countFn {μ : Nat} (hw : 906694364829719136829440 &&& μ = 906694364829719136829440) {s0 : State} {n off win : Nat} {s : State}  (kh : Kept μ s0 s) :
    Kept μ s0 (countFn n off win s) := by
  have k_modFn : 4398046511104 &&& μ = 4398046511104 := sub_of hw rfl
  have k_raiseIn : 906694364785738671718400 &&& μ = 906694364785738671718400 := sub_of hw rfl
  have k_setFlag1 : 13194139533312 &&& μ = 13194139533312 := sub_of hw rfl
  have i42 : μ.testBit 42 = true := bit_of hw rfl
  have i43 : μ.testBit 43 = true := bit_of hw rfl
  have i45 : μ.testBit 45 = true := bit_of hw rfl
  have i46 : μ.testBit 46 = true := bit_of hw rfl
  have i78 : μ.testBit 78 = true := bit_of hw rfl
  have i79 : μ.testBit 79 = true := bit_of hw rfl
  unfold countFn
  repeat' first
    | with_reducible assumption
    | (intro s; with_reducible refine (fun (hs : Kept μ s0 s) => ?_) ?_)
    | intro x
    | lift_lets
    | with_reducible refine kept_modFn k_modFn (.inr i43) smf (.inr i45) (.inr i46) smf smf smf smf smf smf smf ?_
    | with_reducible refine kept_setFlag1 k_setFlag1 ?_
    | with_reducible refine kept_raiseIn k_raiseIn ?_
    | (fail_if_no_progress with_reducible refine Kept.mk' ?_  (h_hp := .inr ⟨i42, .inr i43, sm, .inr i45, .inr i46, sm, sm, sm, sm, sm, sm, sm⟩) (h_evLog := .inr i78) (h_evLogSeq := .inr i79))
    | split
    | dsimp +zetaDelta only

theorem kept_hifFlag {μ : Nat} (hw : 83562883710976 &&& μ = 83562883710976) {s0 : State} {n b : Nat} {s : State}  (kh : Kept μ s0 s) :
    Kept μ s0 (hifFlag n b s) := by
  have k_irqPend : 74766790688768 &&& μ = 74766790688768 := sub_of hw rfl
  have k_setFlag1 : 13194139533312 &&& μ = 13194139533312 := sub_of hw rfl
  unfold hifFlag
  repeat' first
    | with_reducible assumption
    | (intro s; with_reducible refine (fun (hs : Kept μ s0 s) => ?_) ?_)
    | intro x
    | lift_lets
    | with_reducible refine kept_setFlag1 k_setFlag1 ?_
    | with_reducible refine kept_irqPend k_irqPend ?_
    | split
    | dsimp +zetaDelta only

end Sys2Proof.Machine
end

