-- ==== Sys2Proof/Laws/KeptEthernet.lean ====
section
/-!
SUPPORT. Sys2Proof/Laws/KeptEthernet.lean: every operation of Ethernet.lean keeps what no command changes, and the parts that it does not write (Kept.lean).
-/
set_option Elab.async false
set_option linter.unusedTactic false
set_option linter.unreachableTactic false
set_option linter.unusedVariables false
namespace Sys2Proof.Machine

theorem kept_modPort {μ : Nat} (hw : 48 &&& μ = 48) {s0 : State} {n : Nat} {f : Port → Port} {s : State}  (kh : Kept μ s0 s) :
    Kept μ s0 (modPort n f s) := by
  have i4 : μ.testBit 4 = true := bit_of hw rfl
  have i5 : μ.testBit 5 = true := bit_of hw rfl
  unfold modPort
  repeat' first
    | with_reducible assumption
    | (intro s; with_reducible refine (fun (hs : Kept μ s0 s) => ?_) ?_)
    | intro x
    | lift_lets
    | (fail_if_no_progress with_reducible refine Kept.mk' ?_  (h_eth := .inr ⟨i4, .inr i5, sm, sm⟩))
    | split
    | dsimp +zetaDelta only

theorem kept_ethCount {μ : Nat} (hw : 982252228520449088159744 &&& μ = 982252228520449088159744) {s0 : State} {n off : Nat} {s : State}  (kh : Kept μ s0 s) :
    Kept μ s0 (ethCount n off s) := by
  have k_count : 982252228520449088159744 &&& μ = 982252228520449088159744 := sub_of hw rfl
  unfold ethCount
  repeat' first
    | with_reducible assumption
    | (intro s; with_reducible refine (fun (hs : Kept μ s0 s) => ?_) ?_)
    | intro x
    | lift_lets
    | with_reducible refine kept_count k_count ?_
    | split
    | dsimp +zetaDelta only

theorem kept_ethFlag {μ : Nat} (hw : 13194139533312 &&& μ = 13194139533312) {s0 : State} {n b : Nat} {s : State}  (kh : Kept μ s0 s) :
    Kept μ s0 (ethFlag n b s) := by
  have k_setFlag : 13194139533312 &&& μ = 13194139533312 := sub_of hw rfl
  unfold ethFlag
  repeat' first
    | with_reducible assumption
    | (intro s; with_reducible refine (fun (hs : Kept μ s0 s) => ?_) ?_)
    | intro x
    | lift_lets
    | with_reducible refine kept_setFlag k_setFlag ?_
    | split
    | dsimp +zetaDelta only

theorem kept_prpCount {μ : Nat} (hw : 982252228520449088159744 &&& μ = 982252228520449088159744) {s0 : State} {p off : Nat} {s : State}  (kh : Kept μ s0 s) :
    Kept μ s0 (prpCount p off s) := by
  have k_count : 982252228520449088159744 &&& μ = 982252228520449088159744 := sub_of hw rfl
  unfold prpCount
  repeat' first
    | with_reducible assumption
    | (intro s; with_reducible refine (fun (hs : Kept μ s0 s) => ?_) ?_)
    | intro x
    | lift_lets
    | with_reducible refine kept_count k_count ?_
    | split
    | dsimp +zetaDelta only

theorem kept_txHostWb {μ : Nat} (hw : 906694369333318764199936 &&& μ = 906694369333318764199936) {s0 : State} {fn : Nat} {t : TxHost} {s : State}  (kh : Kept μ s0 s) :
    Kept μ s0 (txHostWb fn t s) := by
  have k_countFn : 906694364829719136829440 &&& μ = 906694364829719136829440 := sub_of hw rfl
  have k_irqPend : 74766790688768 &&& μ = 74766790688768 := sub_of hw rfl
  have k_modFn : 4398046511104 &&& μ = 4398046511104 := sub_of hw rfl
  have i42 : μ.testBit 42 = true := bit_of hw rfl
  have i43 : μ.testBit 43 = true := bit_of hw rfl
  have i45 : μ.testBit 45 = true := bit_of hw rfl
  have i46 : μ.testBit 46 = true := bit_of hw rfl
  have i52 : μ.testBit 52 = true := bit_of hw rfl
  have i78 : μ.testBit 78 = true := bit_of hw rfl
  have i79 : μ.testBit 79 = true := bit_of hw rfl
  unfold txHostWb
  repeat' first
    | with_reducible assumption
    | (intro s; with_reducible refine (fun (hs : Kept μ s0 s) => ?_) ?_)
    | intro x
    | lift_lets
    | with_reducible refine kept_modFn k_modFn (.inr i43) smf (.inr i45) (.inr i46) smf smf smf smf smf (.inr i52) smf ?_
    | with_reducible refine kept_irqPend k_irqPend ?_
    | with_reducible refine kept_countFn k_countFn ?_
    | (fail_if_no_progress with_reducible refine Kept.mk' ?_  (h_hp := .inr ⟨i42, .inr i43, sm, .inr i45, .inr i46, sm, sm, sm, sm, sm, .inr i52, sm⟩) (h_evLog := .inr i78) (h_evLogSeq := .inr i79))
    | split
    | dsimp +zetaDelta only

theorem kept_txHostDone {μ : Nat} (hw : 906694369333318764199936 &&& μ = 906694369333318764199936) {s0 : State} {fn id port status : Nat} {dep : Option Nat} {s : State}  (kh : Kept μ s0 s) :
    Kept μ s0 (txHostDone fn id port status dep s) := by
  have k_modFn : 4398046511104 &&& μ = 4398046511104 := sub_of hw rfl
  have k_txHostWb : 906694369333318764199936 &&& μ = 906694369333318764199936 := sub_of hw rfl
  have i42 : μ.testBit 42 = true := bit_of hw rfl
  have i43 : μ.testBit 43 = true := bit_of hw rfl
  have i45 : μ.testBit 45 = true := bit_of hw rfl
  have i46 : μ.testBit 46 = true := bit_of hw rfl
  have i52 : μ.testBit 52 = true := bit_of hw rfl
  have i78 : μ.testBit 78 = true := bit_of hw rfl
  have i79 : μ.testBit 79 = true := bit_of hw rfl
  unfold txHostDone
  repeat' first
    | with_reducible assumption
    | (intro s; with_reducible refine (fun (hs : Kept μ s0 s) => ?_) ?_)
    | intro x
    | lift_lets
    | with_reducible refine kept_modFn k_modFn (.inr i43) smf (.inr i45) (.inr i46) smf smf smf smf smf (.inr i52) smf ?_
    | with_reducible refine kept_txHostWb k_txHostWb ?_
    | (fail_if_no_progress with_reducible refine Kept.mk' ?_  (h_hp := .inr ⟨i42, .inr i43, sm, .inr i45, .inr i46, sm, sm, sm, sm, sm, .inr i52, sm⟩) (h_evLog := .inr i78) (h_evLogSeq := .inr i79))
    | split
    | dsimp +zetaDelta only

theorem kept_discardTx {μ : Nat} (hw : 982252233059233087619072 &&& μ = 982252233059233087619072) {s0 : State} {n : Nat} {t : TxFrame} {s : State}  (kh : Kept μ s0 s) :
    Kept μ s0 (discardTx n t s) := by
  have k_ethCount : 982252228520449088159744 &&& μ = 982252228520449088159744 := sub_of hw rfl
  have k_ethFlag : 13194139533312 &&& μ = 13194139533312 := sub_of hw rfl
  have k_txHostDone : 906694369333318764199936 &&& μ = 906694369333318764199936 := sub_of hw rfl
  have i42 : μ.testBit 42 = true := bit_of hw rfl
  have i43 : μ.testBit 43 = true := bit_of hw rfl
  have i45 : μ.testBit 45 = true := bit_of hw rfl
  have i46 : μ.testBit 46 = true := bit_of hw rfl
  have i52 : μ.testBit 52 = true := bit_of hw rfl
  have i76 : μ.testBit 76 = true := bit_of hw rfl
  have i78 : μ.testBit 78 = true := bit_of hw rfl
  have i79 : μ.testBit 79 = true := bit_of hw rfl
  unfold discardTx
  repeat' first
    | with_reducible assumption
    | (intro s; with_reducible refine (fun (hs : Kept μ s0 s) => ?_) ?_)
    | intro x
    | lift_lets
    | with_reducible refine kept_ethCount k_ethCount ?_
    | with_reducible refine kept_ethFlag k_ethFlag ?_
    | with_reducible refine kept_txHostDone k_txHostDone ?_
    | (fail_if_no_progress with_reducible refine Kept.mk' ?_  (h_hp := .inr ⟨i42, .inr i43, sm, .inr i45, .inr i46, sm, sm, sm, sm, sm, .inr i52, sm⟩) (h_cnt := .inr i76) (h_evLog := .inr i78) (h_evLogSeq := .inr i79))
    | split
    | dsimp +zetaDelta only

theorem kept_discardIf {μ : Nat} (hw : 982252233059233087619120 &&& μ = 982252233059233087619120) {s0 : State} {c : TxFrame → Bool} {n : Nat} {s : State}  (kh : Kept μ s0 s) :
    Kept μ s0 (discardIf c n s) := by
  have k_discardTx : 982252233059233087619072 &&& μ = 982252233059233087619072 := sub_of hw rfl
  have k_modPort : 48 &&& μ = 48 := sub_of hw rfl
  have i4 : μ.testBit 4 = true := bit_of hw rfl
  have i5 : μ.testBit 5 = true := bit_of hw rfl
  have i42 : μ.testBit 42 = true := bit_of hw rfl
  have i43 : μ.testBit 43 = true := bit_of hw rfl
  have i45 : μ.testBit 45 = true := bit_of hw rfl
  have i46 : μ.testBit 46 = true := bit_of hw rfl
  have i52 : μ.testBit 52 = true := bit_of hw rfl
  have i76 : μ.testBit 76 = true := bit_of hw rfl
  have i78 : μ.testBit 78 = true := bit_of hw rfl
  have i79 : μ.testBit 79 = true := bit_of hw rfl
  unfold discardIf
  repeat' first
    | with_reducible assumption
    | (intro s; with_reducible refine (fun (hs : Kept μ s0 s) => ?_) ?_)
    | intro x
    | lift_lets
    | with_reducible refine kept_modPort k_modPort ?_
    | with_reducible refine kept_discardTx k_discardTx ?_
    | with_reducible refine kept_foldl (fun s x hs => ?_) ?_
    | (fail_if_no_progress with_reducible refine Kept.mk' ?_  (h_eth := .inr ⟨i4, .inr i5, sm, sm⟩) (h_hp := .inr ⟨i42, .inr i43, sm, .inr i45, .inr i46, sm, sm, sm, sm, sm, .inr i52, sm⟩) (h_cnt := .inr i76) (h_evLog := .inr i78) (h_evLogSeq := .inr i79))
    | split
    | dsimp +zetaDelta only

theorem kept_discardAll {μ : Nat} (hw : 982252233059233087619120 &&& μ = 982252233059233087619120) {s0 : State} {n : Nat} {s : State}  (kh : Kept μ s0 s) :
    Kept μ s0 (discardAll n s) := by
  have k_discardIf : 982252233059233087619120 &&& μ = 982252233059233087619120 := sub_of hw rfl
  unfold discardAll
  repeat' first
    | with_reducible assumption
    | (intro s; with_reducible refine (fun (hs : Kept μ s0 s) => ?_) ?_)
    | intro x
    | lift_lets
    | with_reducible refine kept_discardIf k_discardIf ?_
    | split
    | dsimp +zetaDelta only

theorem kept_beginFree {μ : Nat} (hw : 48 &&& μ = 48) {s0 : State} {n : Nat} {s : State}  (kh : Kept μ s0 s) :
    Kept μ s0 (beginFree n s) := by
  have k_modPort : 48 &&& μ = 48 := sub_of hw rfl
  have i4 : μ.testBit 4 = true := bit_of hw rfl
  have i5 : μ.testBit 5 = true := bit_of hw rfl
  unfold beginFree
  repeat' first
    | with_reducible assumption
    | (intro s; with_reducible refine (fun (hs : Kept μ s0 s) => ?_) ?_)
    | intro x
    | lift_lets
    | with_reducible refine kept_modPort k_modPort ?_
    | (fail_if_no_progress with_reducible refine Kept.mk' ?_  (h_eth := .inr ⟨i4, .inr i5, sm, sm⟩))
    | split
    | dsimp +zetaDelta only

theorem kept_enqueue1 {μ : Nat} (hw : 982252233059233087619120 &&& μ = 982252233059233087619120) {s0 : State} {n : Nat} {body : TxBody} {len : Nat} {rct : Option TxRct} {due : Option Nat} {s : State}  (kh : Kept μ s0 s) :
    Kept μ s0 (enqueue1 n body len rct due s) := by
  have k_beginFree : 48 &&& μ = 48 := sub_of hw rfl
  have k_discardTx : 982252233059233087619072 &&& μ = 982252233059233087619072 := sub_of hw rfl
  have k_modPort : 48 &&& μ = 48 := sub_of hw rfl
  have i4 : μ.testBit 4 = true := bit_of hw rfl
  have i5 : μ.testBit 5 = true := bit_of hw rfl
  have i42 : μ.testBit 42 = true := bit_of hw rfl
  have i43 : μ.testBit 43 = true := bit_of hw rfl
  have i45 : μ.testBit 45 = true := bit_of hw rfl
  have i46 : μ.testBit 46 = true := bit_of hw rfl
  have i52 : μ.testBit 52 = true := bit_of hw rfl
  have i76 : μ.testBit 76 = true := bit_of hw rfl
  have i78 : μ.testBit 78 = true := bit_of hw rfl
  have i79 : μ.testBit 79 = true := bit_of hw rfl
  unfold enqueue1
  repeat' first
    | with_reducible assumption
    | (intro s; with_reducible refine (fun (hs : Kept μ s0 s) => ?_) ?_)
    | intro x
    | lift_lets
    | with_reducible refine kept_modPort k_modPort ?_
    | with_reducible refine kept_discardTx k_discardTx ?_
    | with_reducible refine kept_beginFree k_beginFree ?_
    | (fail_if_no_progress with_reducible refine Kept.mk' ?_  (h_eth := .inr ⟨i4, .inr i5, sm, sm⟩) (h_hp := .inr ⟨i42, .inr i43, sm, .inr i45, .inr i46, sm, sm, sm, sm, sm, .inr i52, sm⟩) (h_cnt := .inr i76) (h_evLog := .inr i78) (h_evLogSeq := .inr i79))
    | split
    | dsimp +zetaDelta only

theorem kept_enqueuePair {μ : Nat} (hw : 982252233059233087619120 &&& μ = 982252233059233087619120) {s0 : State} {p : Nat} {body : TxBody} {len : Nat} {due : Option Nat} {s : State}  (kh : Kept μ s0 s) :
    Kept μ s0 (enqueuePair p body len due s) := by
  have k_enqueue1 : 982252233059233087619120 &&& μ = 982252233059233087619120 := sub_of hw rfl
  have i4 : μ.testBit 4 = true := bit_of hw rfl
  have i5 : μ.testBit 5 = true := bit_of hw rfl
  have i42 : μ.testBit 42 = true := bit_of hw rfl
  have i43 : μ.testBit 43 = true := bit_of hw rfl
  have i45 : μ.testBit 45 = true := bit_of hw rfl
  have i46 : μ.testBit 46 = true := bit_of hw rfl
  have i52 : μ.testBit 52 = true := bit_of hw rfl
  have i76 : μ.testBit 76 = true := bit_of hw rfl
  have i78 : μ.testBit 78 = true := bit_of hw rfl
  have i79 : μ.testBit 79 = true := bit_of hw rfl
  unfold enqueuePair
  repeat' first
    | with_reducible assumption
    | (intro s; with_reducible refine (fun (hs : Kept μ s0 s) => ?_) ?_)
    | intro x
    | lift_lets
    | with_reducible refine kept_enqueue1 k_enqueue1 ?_
    | (fail_if_no_progress with_reducible refine Kept.mk' ?_  (h_eth := .inr ⟨i4, .inr i5, sm, sm⟩) (h_hp := .inr ⟨i42, .inr i43, sm, .inr i45, .inr i46, sm, sm, sm, sm, sm, .inr i52, sm⟩) (h_cnt := .inr i76) (h_evLog := .inr i78) (h_evLogSeq := .inr i79))
    | split
    | dsimp +zetaDelta only

theorem kept_enqueueMask {μ : Nat} (hw : 982252233059233087619120 &&& μ = 982252233059233087619120) {s0 : State} {mask : Nat} {body : TxBody} {len : Nat} {due : Option Nat} {s : State}  (kh : Kept μ s0 s) :
    Kept μ s0 (enqueueMask mask body len due s) := by
  have k_enqueue1 : 982252233059233087619120 &&& μ = 982252233059233087619120 := sub_of hw rfl
  have k_enqueuePair : 982252233059233087619120 &&& μ = 982252233059233087619120 := sub_of hw rfl
  unfold enqueueMask
  repeat' first
    | with_reducible assumption
    | (intro s; with_reducible refine (fun (hs : Kept μ s0 s) => ?_) ?_)
    | intro x
    | lift_lets
    | with_reducible refine kept_enqueue1 k_enqueue1 ?_
    | with_reducible refine kept_enqueuePair k_enqueuePair ?_
    | with_reducible refine kept_foldl (fun s x hs => ?_) ?_
    | split
    | dsimp +zetaDelta only

theorem kept_sendPause {μ : Nat} (hw : 48 &&& μ = 48) {s0 : State} {n quanta ns : Nat} {s : State}  (kh : Kept μ s0 s) :
    Kept μ s0 (sendPause n quanta ns s) := by
  have k_beginFree : 48 &&& μ = 48 := sub_of hw rfl
  have k_modPort : 48 &&& μ = 48 := sub_of hw rfl
  have i4 : μ.testBit 4 = true := bit_of hw rfl
  have i5 : μ.testBit 5 = true := bit_of hw rfl
  unfold sendPause
  repeat' first
    | with_reducible assumption
    | (intro s; with_reducible refine (fun (hs : Kept μ s0 s) => ?_) ?_)
    | intro x
    | lift_lets
    | with_reducible refine kept_modPort k_modPort ?_
    | with_reducible refine kept_beginFree k_beginFree ?_
    | (fail_if_no_progress with_reducible refine Kept.mk' ?_  (h_eth := .inr ⟨i4, .inr i5, sm, sm⟩))
    | split
    | dsimp +zetaDelta only

theorem kept_octets {μ : Nat} (hw : 982252228520449088159744 &&& μ = 982252228520449088159744) {s0 : State} {n off rem len : Nat} {s : State}  (kh : Kept μ s0 s) :
    Kept μ s0 (octets n off rem len s) := by
  have k_countN : 982252228520449088159744 &&& μ = 982252228520449088159744 := sub_of hw rfl
  unfold octets
  repeat' first
    | with_reducible assumption
    | (intro s; with_reducible refine (fun (hs : Kept μ s0 s) => ?_) ?_)
    | intro x
    | lift_lets
    | with_reducible refine kept_countN k_countN ?_
    | split
    | dsimp +zetaDelta only

theorem kept_txComplete {μ : Nat} (hw : 982252233059233087619121 &&& μ = 982252233059233087619121) {s0 : State} {n id dep sub : Nat} {s : State}  (kh : Kept μ s0 s) :
    KeptF μ s0 (txComplete n id dep sub s) := by
  have k_beginFree : 48 &&& μ = 48 := sub_of hw rfl
  have k_ethCount : 982252228520449088159744 &&& μ = 982252228520449088159744 := sub_of hw rfl
  have k_modPort : 48 &&& μ = 48 := sub_of hw rfl
  have k_octets : 982252228520449088159744 &&& μ = 982252228520449088159744 := sub_of hw rfl
  have k_prpCount : 982252228520449088159744 &&& μ = 982252228520449088159744 := sub_of hw rfl
  have k_seen : 1 &&& μ = 1 := sub_of hw rfl
  have k_txHostDone : 906694369333318764199936 &&& μ = 906694369333318764199936 := sub_of hw rfl
  have i0 : μ.testBit 0 = true := bit_of hw rfl
  have i4 : μ.testBit 4 = true := bit_of hw rfl
  have i5 : μ.testBit 5 = true := bit_of hw rfl
  have i42 : μ.testBit 42 = true := bit_of hw rfl
  have i43 : μ.testBit 43 = true := bit_of hw rfl
  have i45 : μ.testBit 45 = true := bit_of hw rfl
  have i46 : μ.testBit 46 = true := bit_of hw rfl
  have i52 : μ.testBit 52 = true := bit_of hw rfl
  have i76 : μ.testBit 76 = true := bit_of hw rfl
  have i78 : μ.testBit 78 = true := bit_of hw rfl
  have i79 : μ.testBit 79 = true := bit_of hw rfl
  unfold txComplete
  repeat' first
    | with_reducible assumption
    | (intro s; with_reducible refine (fun (hs : Kept μ s0 s) => ?_) ?_)
    | intro x
    | lift_lets
    | with_reducible refine kept_seen k_seen ?_
    | with_reducible refine kept_modPort k_modPort ?_
    | with_reducible refine kept_ethCount k_ethCount ?_
    | with_reducible refine kept_prpCount k_prpCount ?_
    | with_reducible refine kept_txHostDone k_txHostDone ?_
    | with_reducible refine kept_beginFree k_beginFree ?_
    | with_reducible refine kept_octets k_octets ?_
    | (fail_if_no_progress with_reducible refine Kept.mk' ?_  (h_tb := .inr ⟨i0, sm, sm, sm⟩) (h_eth := .inr ⟨i4, .inr i5, sm, sm⟩) (h_hp := .inr ⟨i42, .inr i43, sm, .inr i45, .inr i46, sm, sm, sm, sm, sm, .inr i52, sm⟩) (h_cnt := .inr i76) (h_evLog := .inr i78) (h_evLogSeq := .inr i79))
    | split
    | with_reducible refine KeptF.mk' ?_
    | dsimp +zetaDelta only

theorem kept_linkDownTick {μ : Nat} (hw : 982252233059233087619120 &&& μ = 982252233059233087619120) {s0 : State} {s : State}  (kh : Kept μ s0 s) :
    Kept μ s0 (linkDownTick s) := by
  have k_discardIf : 982252233059233087619120 &&& μ = 982252233059233087619120 := sub_of hw rfl
  unfold linkDownTick
  repeat' first
    | with_reducible assumption
    | (intro s; with_reducible refine (fun (hs : Kept μ s0 s) => ?_) ?_)
    | intro x
    | lift_lets
    | with_reducible refine kept_discardIf k_discardIf ?_
    | with_reducible refine kept_foldl (fun s x hs => ?_) ?_
    | split
    | dsimp +zetaDelta only

theorem kept_obeyPause {μ : Nat} (hw : 982252228520449088159792 &&& μ = 982252228520449088159792) {s0 : State} {n dst quanta arrival : Nat} {s : State}  (kh : Kept μ s0 s) :
    Kept μ s0 (obeyPause n dst quanta arrival s) := by
  have k_beginFree : 48 &&& μ = 48 := sub_of hw rfl
  have k_ethCount : 982252228520449088159744 &&& μ = 982252228520449088159744 := sub_of hw rfl
  have k_modPort : 48 &&& μ = 48 := sub_of hw rfl
  have i4 : μ.testBit 4 = true := bit_of hw rfl
  have i5 : μ.testBit 5 = true := bit_of hw rfl
  have i42 : μ.testBit 42 = true := bit_of hw rfl
  have i43 : μ.testBit 43 = true := bit_of hw rfl
  have i46 : μ.testBit 46 = true := bit_of hw rfl
  have i76 : μ.testBit 76 = true := bit_of hw rfl
  have i78 : μ.testBit 78 = true := bit_of hw rfl
  have i79 : μ.testBit 79 = true := bit_of hw rfl
  unfold obeyPause
  repeat' first
    | with_reducible assumption
    | (intro s; with_reducible refine (fun (hs : Kept μ s0 s) => ?_) ?_)
    | intro x
    | lift_lets
    | with_reducible refine kept_modPort k_modPort ?_
    | with_reducible refine kept_ethCount k_ethCount ?_
    | with_reducible refine kept_beginFree k_beginFree ?_
    | (fail_if_no_progress with_reducible refine Kept.mk' ?_  (h_eth := .inr ⟨i4, .inr i5, sm, sm⟩) (h_hp := .inr ⟨i42, .inr i43, sm, sm, .inr i46, sm, sm, sm, sm, sm, sm, sm⟩) (h_cnt := .inr i76) (h_evLog := .inr i78) (h_evLogSeq := .inr i79))
    | split
    | dsimp +zetaDelta only

theorem kept_pauseTick {μ : Nat} (hw : 982252228520449088159792 &&& μ = 982252228520449088159792) {s0 : State} {s : State}  (kh : Kept μ s0 s) :
    Kept μ s0 (pauseTick s) := by
  have k_ethCount : 982252228520449088159744 &&& μ = 982252228520449088159744 := sub_of hw rfl
  have k_modPort : 48 &&& μ = 48 := sub_of hw rfl
  have i4 : μ.testBit 4 = true := bit_of hw rfl
  have i5 : μ.testBit 5 = true := bit_of hw rfl
  have i42 : μ.testBit 42 = true := bit_of hw rfl
  have i43 : μ.testBit 43 = true := bit_of hw rfl
  have i46 : μ.testBit 46 = true := bit_of hw rfl
  have i76 : μ.testBit 76 = true := bit_of hw rfl
  have i78 : μ.testBit 78 = true := bit_of hw rfl
  have i79 : μ.testBit 79 = true := bit_of hw rfl
  unfold pauseTick
  repeat' first
    | with_reducible assumption
    | (intro s; with_reducible refine (fun (hs : Kept μ s0 s) => ?_) ?_)
    | intro x
    | lift_lets
    | with_reducible refine kept_modPort k_modPort ?_
    | with_reducible refine kept_ethCount k_ethCount ?_
    | with_reducible refine kept_foldl (fun s x hs => ?_) ?_
    | (fail_if_no_progress with_reducible refine Kept.mk' ?_  (h_eth := .inr ⟨i4, .inr i5, sm, sm⟩) (h_hp := .inr ⟨i42, .inr i43, sm, sm, .inr i46, sm, sm, sm, sm, sm, sm, sm⟩) (h_cnt := .inr i76) (h_evLog := .inr i78) (h_evLogSeq := .inr i79))
    | split
    | dsimp +zetaDelta only

theorem kept_execPauseExpiry {μ : Nat} (hw : 48 &&& μ = 48) {s0 : State} {n ns : Nat} {s : State}  (kh : Kept μ s0 s) :
    KeptOut μ s0 (execPauseExpiry n ns s) := by
  have k_act : 0 &&& μ = 0 := sub_of hw rfl
  have k_beginFree : 48 &&& μ = 48 := sub_of hw rfl
  have k_modPort : 48 &&& μ = 48 := sub_of hw rfl
  have i4 : μ.testBit 4 = true := bit_of hw rfl
  have i5 : μ.testBit 5 = true := bit_of hw rfl
  unfold execPauseExpiry
  repeat' first
    | with_reducible assumption
    | (intro s; with_reducible refine (fun (hs : Kept μ s0 s) => ?_) ?_)
    | intro x
    | lift_lets
    | with_reducible refine kept_act k_act (fun s hs => ?_) ?_
    | with_reducible refine kept_modPort k_modPort ?_
    | with_reducible refine kept_beginFree k_beginFree ?_
    | (fail_if_no_progress with_reducible refine Kept.mk' ?_  (h_eth := .inr ⟨i4, .inr i5, sm, sm⟩))
    | split
    | with_reducible refine KeptOut.mk' ?_
    | dsimp +zetaDelta only

theorem kept_execPauseHold {μ : Nat} (hw : 982252233059233087619120 &&& μ = 982252233059233087619120) {s0 : State} {n : Nat} {s : State}  (kh : Kept μ s0 s) :
    KeptOut μ s0 (execPauseHold n s) := by
  have k_act : 0 &&& μ = 0 := sub_of hw rfl
  have k_discardAll : 982252233059233087619120 &&& μ = 982252233059233087619120 := sub_of hw rfl
  have k_ethFlag : 13194139533312 &&& μ = 13194139533312 := sub_of hw rfl
  have k_modPort : 48 &&& μ = 48 := sub_of hw rfl
  have k_raise : 906694364785738671718400 &&& μ = 906694364785738671718400 := sub_of hw rfl
  have i4 : μ.testBit 4 = true := bit_of hw rfl
  have i5 : μ.testBit 5 = true := bit_of hw rfl
  have i42 : μ.testBit 42 = true := bit_of hw rfl
  have i43 : μ.testBit 43 = true := bit_of hw rfl
  have i45 : μ.testBit 45 = true := bit_of hw rfl
  have i46 : μ.testBit 46 = true := bit_of hw rfl
  have i52 : μ.testBit 52 = true := bit_of hw rfl
  have i76 : μ.testBit 76 = true := bit_of hw rfl
  have i78 : μ.testBit 78 = true := bit_of hw rfl
  have i79 : μ.testBit 79 = true := bit_of hw rfl
  unfold execPauseHold
  repeat' first
    | with_reducible assumption
    | (intro s; with_reducible refine (fun (hs : Kept μ s0 s) => ?_) ?_)
    | intro x
    | lift_lets
    | with_reducible refine kept_act k_act (fun s hs => ?_) ?_
    | with_reducible refine kept_raise k_raise ?_
    | with_reducible refine kept_modPort k_modPort ?_
    | with_reducible refine kept_ethFlag k_ethFlag ?_
    | with_reducible refine kept_discardAll k_discardAll ?_
    | (fail_if_no_progress with_reducible refine Kept.mk' ?_  (h_eth := .inr ⟨i4, .inr i5, sm, sm⟩) (h_hp := .inr ⟨i42, .inr i43, sm, .inr i45, .inr i46, sm, sm, sm, sm, sm, .inr i52, sm⟩) (h_cnt := .inr i76) (h_evLog := .inr i78) (h_evLogSeq := .inr i79))
    | split
    | with_reducible refine KeptOut.mk' ?_
    | dsimp +zetaDelta only

theorem kept_rxDrained {μ : Nat} (hw : 48 &&& μ = 48) {s0 : State} {n ns : Nat} {s : State}  (kh : Kept μ s0 s) :
    Kept μ s0 (rxDrained n ns s) := by
  have k_sendPause : 48 &&& μ = 48 := sub_of hw rfl
  unfold rxDrained
  repeat' first
    | with_reducible assumption
    | (intro s; with_reducible refine (fun (hs : Kept μ s0 s) => ?_) ?_)
    | intro x
    | lift_lets
    | with_reducible refine kept_sendPause k_sendPause ?_
    | split
    | dsimp +zetaDelta only

theorem kept_rxDrainedAll {μ : Nat} (hw : 48 &&& μ = 48) {s0 : State} {ns : Nat} {s : State}  (kh : Kept μ s0 s) :
    Kept μ s0 (rxDrainedAll ns s) := by
  have k_rxDrained : 48 &&& μ = 48 := sub_of hw rfl
  unfold rxDrainedAll
  repeat' first
    | with_reducible assumption
    | (intro s; with_reducible refine (fun (hs : Kept μ s0 s) => ?_) ?_)
    | intro x
    | lift_lets
    | with_reducible refine kept_rxDrained k_rxDrained ?_
    | with_reducible refine kept_foldl (fun s x hs => ?_) ?_
    | split
    | dsimp +zetaDelta only

theorem kept_execPauseTxRepeat {μ : Nat} (hw : 48 &&& μ = 48) {s0 : State} {n ns : Nat} {s : State}  (kh : Kept μ s0 s) :
    KeptOut μ s0 (execPauseTxRepeat n ns s) := by
  have k_act : 0 &&& μ = 0 := sub_of hw rfl
  have k_sendPause : 48 &&& μ = 48 := sub_of hw rfl
  unfold execPauseTxRepeat
  repeat' first
    | with_reducible assumption
    | (intro s; with_reducible refine (fun (hs : Kept μ s0 s) => ?_) ?_)
    | intro x
    | lift_lets
    | with_reducible refine kept_act k_act (fun s hs => ?_) ?_
    | with_reducible refine kept_sendPause k_sendPause ?_
    | split
    | with_reducible refine KeptOut.mk' ?_
    | dsimp +zetaDelta only

theorem kept_rxStore {μ : Nat} (hw : 21990232555568 &&& μ = 21990232555568) {s0 : State} {f : Frame} {s : State}  (kh : Kept μ s0 s) :
    Kept μ s0 (rxStore f s) := by
  have k_rcMax : 21990232555520 &&& μ = 21990232555520 := sub_of hw rfl
  have k_sendPause : 48 &&& μ = 48 := sub_of hw rfl
  unfold rxStore
  repeat' first
    | with_reducible assumption
    | (intro s; with_reducible refine (fun (hs : Kept μ s0 s) => ?_) ?_)
    | intro x
    | lift_lets
    | with_reducible refine kept_rcMax k_rcMax ?_
    | with_reducible refine kept_sendPause k_sendPause ?_
    | split
    | dsimp +zetaDelta only

theorem kept_rxFec {μ : Nat} (hw : 982252228520449088159744 &&& μ = 982252228520449088159744) {s0 : State} {f : Frame} {s : State}  (kh : Kept μ s0 s) :
    Kept μ s0 (rxFec f s) := by
  have k_countN : 982252228520449088159744 &&& μ = 982252228520449088159744 := sub_of hw rfl
  unfold rxFec
  repeat' first
    | with_reducible assumption
    | (intro s; with_reducible refine (fun (hs : Kept μ s0 s) => ?_) ?_)
    | intro x
    | lift_lets
    | with_reducible refine kept_countN k_countN ?_
    | split
    | dsimp +zetaDelta only

theorem kept_rxChecks {μ : Nat} (hw : 982252228538041274204209 &&& μ = 982252228538041274204209) {s0 : State} {f : Frame} {s : State}  (kh : Kept μ s0 s) :
    KeptF μ s0 (rxChecks f s) := by
  have k_ethCount : 982252228520449088159744 &&& μ = 982252228520449088159744 := sub_of hw rfl
  have k_ethFlag : 13194139533312 &&& μ = 13194139533312 := sub_of hw rfl
  have k_modPort : 48 &&& μ = 48 := sub_of hw rfl
  have k_obeyPause : 982252228520449088159792 &&& μ = 982252228520449088159792 := sub_of hw rfl
  have k_octets : 982252228520449088159744 &&& μ = 982252228520449088159744 := sub_of hw rfl
  have k_raise : 906694364785738671718400 &&& μ = 906694364785738671718400 := sub_of hw rfl
  have k_rxDrained : 48 &&& μ = 48 := sub_of hw rfl
  have k_rxFec : 982252228520449088159744 &&& μ = 982252228520449088159744 := sub_of hw rfl
  have k_rxStore : 21990232555568 &&& μ = 21990232555568 := sub_of hw rfl
  have k_seen : 1 &&& μ = 1 := sub_of hw rfl
  have i0 : μ.testBit 0 = true := bit_of hw rfl
  have i4 : μ.testBit 4 = true := bit_of hw rfl
  have i5 : μ.testBit 5 = true := bit_of hw rfl
  have i42 : μ.testBit 42 = true := bit_of hw rfl
  have i43 : μ.testBit 43 = true := bit_of hw rfl
  have i44 : μ.testBit 44 = true := bit_of hw rfl
  have i46 : μ.testBit 46 = true := bit_of hw rfl
  have i76 : μ.testBit 76 = true := bit_of hw rfl
  have i78 : μ.testBit 78 = true := bit_of hw rfl
  have i79 : μ.testBit 79 = true := bit_of hw rfl
  unfold rxChecks
  repeat' first
    | with_reducible assumption
    | (intro s; with_reducible refine (fun (hs : Kept μ s0 s) => ?_) ?_)
    | intro x
    | lift_lets
    | with_reducible refine kept_seen k_seen ?_
    | with_reducible refine kept_raise k_raise ?_
    | with_reducible refine kept_modPort k_modPort ?_
    | with_reducible refine kept_ethCount k_ethCount ?_
    | with_reducible refine kept_ethFlag k_ethFlag ?_
    | with_reducible refine kept_octets k_octets ?_
    | with_reducible refine kept_obeyPause k_obeyPause ?_
    | with_reducible refine kept_rxDrained k_rxDrained ?_
    | with_reducible refine kept_rxStore k_rxStore ?_
    | with_reducible refine kept_rxFec k_rxFec ?_
    | (fail_if_no_progress with_reducible refine Kept.mk' ?_  (h_tb := .inr ⟨i0, sm, sm, sm⟩) (h_eth := .inr ⟨i4, .inr i5, sm, sm⟩) (h_hp := .inr ⟨i42, .inr i43, .inr i44, sm, .inr i46, sm, sm, sm, sm, sm, sm, sm⟩) (h_cnt := .inr i76) (h_evLog := .inr i78) (h_evLogSeq := .inr i79))
    | split
    | with_reducible refine KeptF.mk' ?_
    | dsimp +zetaDelta only

theorem kept_preferA {μ : Nat} (hw : 4507997673881680 &&& μ = 4507997673881680) {s0 : State} {p : Nat} {f : Frame} {s : State}  (kh : Kept μ s0 s) :
    Kept μ s0 (preferA p f s) := by
  have i4 : μ.testBit 4 = true := bit_of hw rfl
  have i6 : μ.testBit 6 = true := bit_of hw rfl
  have i42 : μ.testBit 42 = true := bit_of hw rfl
  have i52 : μ.testBit 52 = true := bit_of hw rfl
  unfold preferA
  dsimp only
  refine kh.upd rfl rfl ?_ rfl rfl rfl rfl rfl rfl rfl rfl (kh.fr.mk' (h_eth := .inr ⟨i4, sm, .inr i6, sm⟩) (h_hp := .inr ⟨i42, .inl (map_map_same fun _ => rfl), .inl (map_map_same fun _ => rfl), .inl (map_map_same fun _ => rfl), .inl (map_map_same fun _ => rfl), .inl (map_map_same fun _ => rfl), .inl (map_map_same fun _ => rfl), .inl (map_map_same fun _ => rfl), .inl (map_map_same fun _ => rfl), .inl (map_map_same fun _ => rfl), .inr i52, .inl (map_map_same fun _ => rfl)⟩))
  simp

theorem kept_prpDiscard {μ : Nat} (hw : 1133367960475877362368721 &&& μ = 1133367960475877362368721) {s0 : State} {f : Frame} {s : State}  (kh : Kept μ s0 s) :
    KeptF μ s0 (prpDiscard f s) := by
  have k_preferA : 4507997673881680 &&& μ = 4507997673881680 := sub_of hw rfl
  have k_prpCount : 982252228520449088159744 &&& μ = 982252228520449088159744 := sub_of hw rfl
  have k_seen : 1 &&& μ = 1 := sub_of hw rfl
  have k_undeclared : 1133367955972277734998016 &&& μ = 1133367955972277734998016 := sub_of hw rfl
  have i0 : μ.testBit 0 = true := bit_of hw rfl
  have i4 : μ.testBit 4 = true := bit_of hw rfl
  have i6 : μ.testBit 6 = true := bit_of hw rfl
  have i7 : μ.testBit 7 = true := bit_of hw rfl
  have i42 : μ.testBit 42 = true := bit_of hw rfl
  have i43 : μ.testBit 43 = true := bit_of hw rfl
  have i46 : μ.testBit 46 = true := bit_of hw rfl
  have i52 : μ.testBit 52 = true := bit_of hw rfl
  have i76 : μ.testBit 76 = true := bit_of hw rfl
  have i77 : μ.testBit 77 = true := bit_of hw rfl
  have i78 : μ.testBit 78 = true := bit_of hw rfl
  have i79 : μ.testBit 79 = true := bit_of hw rfl
  unfold prpDiscard
  repeat' first
    | with_reducible assumption
    | (intro s; with_reducible refine (fun (hs : Kept μ s0 s) => ?_) ?_)
    | intro x
    | lift_lets
    | with_reducible refine kept_seen k_seen ?_
    | with_reducible refine kept_prpCount k_prpCount ?_
    | with_reducible refine kept_preferA k_preferA ?_
    | with_reducible refine kept_undeclared k_undeclared ?_
    | (fail_if_no_progress with_reducible refine Kept.mk' ?_  (h_tb := .inr ⟨i0, sm, sm, sm⟩) (h_eth := .inr ⟨i4, sm, .inr i6, .inr i7⟩) (h_hp := .inr ⟨i42, .inr i43, sm, sm, .inr i46, sm, sm, sm, sm, sm, .inr i52, sm⟩) (h_cnt := .inr i76) (h_limits := .inr i77) (h_evLog := .inr i78) (h_evLogSeq := .inr i79))
    | split
    | with_reducible refine KeptF.mk' ?_
    | dsimp +zetaDelta only

theorem kept_execPrpEntryExpiry {μ : Nat} (hw : 144 &&& μ = 144) {s0 : State} {ns : Nat} {s : State}  (kh : Kept μ s0 s) :
    KeptOut μ s0 (execPrpEntryExpiry ns s) := by
  have k_act : 0 &&& μ = 0 := sub_of hw rfl
  have i4 : μ.testBit 4 = true := bit_of hw rfl
  have i7 : μ.testBit 7 = true := bit_of hw rfl
  unfold execPrpEntryExpiry
  repeat' first
    | with_reducible assumption
    | (intro s; with_reducible refine (fun (hs : Kept μ s0 s) => ?_) ?_)
    | intro x
    | lift_lets
    | with_reducible refine kept_act k_act (fun s hs => ?_) ?_
    | (fail_if_no_progress with_reducible refine Kept.mk' ?_  (h_eth := .inr ⟨i4, sm, sm, .inr i7⟩))
    | split
    | with_reducible refine KeptOut.mk' ?_
    | dsimp +zetaDelta only

theorem kept_execPrpSupervisionTx {μ : Nat} (hw : 982252233059233087619120 &&& μ = 982252233059233087619120) {s0 : State} {p : Nat} {s : State}  (kh : Kept μ s0 s) :
    KeptOut μ s0 (execPrpSupervisionTx p s) := by
  have k_act : 0 &&& μ = 0 := sub_of hw rfl
  have k_enqueuePair : 982252233059233087619120 &&& μ = 982252233059233087619120 := sub_of hw rfl
  have i4 : μ.testBit 4 = true := bit_of hw rfl
  have i5 : μ.testBit 5 = true := bit_of hw rfl
  have i42 : μ.testBit 42 = true := bit_of hw rfl
  have i43 : μ.testBit 43 = true := bit_of hw rfl
  have i45 : μ.testBit 45 = true := bit_of hw rfl
  have i46 : μ.testBit 46 = true := bit_of hw rfl
  have i52 : μ.testBit 52 = true := bit_of hw rfl
  have i76 : μ.testBit 76 = true := bit_of hw rfl
  have i78 : μ.testBit 78 = true := bit_of hw rfl
  have i79 : μ.testBit 79 = true := bit_of hw rfl
  unfold execPrpSupervisionTx
  repeat' first
    | with_reducible assumption
    | (intro s; with_reducible refine (fun (hs : Kept μ s0 s) => ?_) ?_)
    | intro x
    | lift_lets
    | with_reducible refine kept_act k_act (fun s hs => ?_) ?_
    | with_reducible refine kept_enqueuePair k_enqueuePair ?_
    | (fail_if_no_progress with_reducible refine Kept.mk' ?_  (h_eth := .inr ⟨i4, .inr i5, sm, sm⟩) (h_hp := .inr ⟨i42, .inr i43, sm, .inr i45, .inr i46, sm, sm, sm, sm, sm, .inr i52, sm⟩) (h_cnt := .inr i76) (h_evLog := .inr i78) (h_evLogSeq := .inr i79))
    | split
    | with_reducible refine KeptOut.mk' ?_
    | dsimp +zetaDelta only

theorem kept_handOn {μ : Nat} (hw : 80 &&& μ = 80) {s0 : State} {c : FrameClass} {obj : Nat} {f : Frame} {s : State}  (kh : Kept μ s0 s) :
    Kept μ s0 (handOn c obj f s) := by
  have i4 : μ.testBit 4 = true := bit_of hw rfl
  have i6 : μ.testBit 6 = true := bit_of hw rfl
  unfold handOn
  repeat' first
    | with_reducible assumption
    | (intro s; with_reducible refine (fun (hs : Kept μ s0 s) => ?_) ?_)
    | intro x
    | lift_lets
    | (fail_if_no_progress with_reducible refine Kept.mk' ?_  (h_eth := .inr ⟨i4, sm, .inr i6, sm⟩))
    | split
    | dsimp +zetaDelta only

theorem kept_takeFrame {μ : Nat} (hw : 113 &&& μ = 113) {s0 : State} {p : Handed → Bool} {s : State}  (kh : Kept μ s0 s) :
    KeptOS μ s0 (takeFrame p s) := by
  have k_rxDrainedAll : 48 &&& μ = 48 := sub_of hw rfl
  have k_seen : 1 &&& μ = 1 := sub_of hw rfl
  have i0 : μ.testBit 0 = true := bit_of hw rfl
  have i4 : μ.testBit 4 = true := bit_of hw rfl
  have i5 : μ.testBit 5 = true := bit_of hw rfl
  have i6 : μ.testBit 6 = true := bit_of hw rfl
  unfold takeFrame
  repeat' first
    | with_reducible assumption
    | (intro s; with_reducible refine (fun (hs : Kept μ s0 s) => ?_) ?_)
    | intro x
    | lift_lets
    | with_reducible refine kept_seen k_seen ?_
    | with_reducible refine kept_rxDrainedAll k_rxDrainedAll ?_
    | with_reducible exact KeptOS.none
    | (fail_if_no_progress with_reducible refine Kept.mk' ?_  (h_tb := .inr ⟨i0, sm, sm, sm⟩) (h_eth := .inr ⟨i4, .inr i5, .inr i6, sm⟩))
    | split
    | with_reducible refine KeptOS.mk' ?_
    | dsimp +zetaDelta only

theorem kept_takeHanded {μ : Nat} (hw : 113 &&& μ = 113) {s0 : State} {c : FrameClass} {s : State}  (kh : Kept μ s0 s) :
    KeptOS μ s0 (takeHanded c s) := by
  have k_takeFrame : 113 &&& μ = 113 := sub_of hw rfl
  unfold takeHanded
  repeat' first
    | with_reducible assumption
    | (intro s; with_reducible refine (fun (hs : Kept μ s0 s) => ?_) ?_)
    | intro x
    | lift_lets
    | with_reducible refine kept_takeFrame k_takeFrame ?_
    | with_reducible exact KeptOS.none
    | with_reducible refine KeptOS.eq (by with_reducible assumption) ?_
    | split
    | with_reducible refine KeptOS.mk' ?_
    | dsimp +zetaDelta only

theorem kept_execPrpSupervisionRx {μ : Nat} (hw : 982252228520449088159857 &&& μ = 982252228520449088159857) {s0 : State} {s : State}  (kh : Kept μ s0 s) :
    KeptOut μ s0 (execPrpSupervisionRx s) := by
  have k_act : 0 &&& μ = 0 := sub_of hw rfl
  have k_prpCount : 982252228520449088159744 &&& μ = 982252228520449088159744 := sub_of hw rfl
  have k_takeHanded : 113 &&& μ = 113 := sub_of hw rfl
  have i0 : μ.testBit 0 = true := bit_of hw rfl
  have i4 : μ.testBit 4 = true := bit_of hw rfl
  have i5 : μ.testBit 5 = true := bit_of hw rfl
  have i6 : μ.testBit 6 = true := bit_of hw rfl
  have i42 : μ.testBit 42 = true := bit_of hw rfl
  have i43 : μ.testBit 43 = true := bit_of hw rfl
  have i46 : μ.testBit 46 = true := bit_of hw rfl
  have i76 : μ.testBit 76 = true := bit_of hw rfl
  have i78 : μ.testBit 78 = true := bit_of hw rfl
  have i79 : μ.testBit 79 = true := bit_of hw rfl
  unfold execPrpSupervisionRx
  repeat' first
    | with_reducible assumption
    | (intro s; with_reducible refine (fun (hs : Kept μ s0 s) => ?_) ?_)
    | intro x
    | lift_lets
    | with_reducible refine kept_act k_act (fun s hs => ?_) ?_
    | with_reducible refine kept_prpCount k_prpCount ?_
    | with_reducible refine kept_takeHanded k_takeHanded ?_
    | with_reducible refine KeptOS.eq (by with_reducible assumption) ?_
    | (fail_if_no_progress with_reducible refine Kept.mk' ?_  (h_tb := .inr ⟨i0, sm, sm, sm⟩) (h_eth := .inr ⟨i4, .inr i5, .inr i6, sm⟩) (h_hp := .inr ⟨i42, .inr i43, sm, sm, .inr i46, sm, sm, sm, sm, sm, sm, sm⟩) (h_cnt := .inr i76) (h_evLog := .inr i78) (h_evLogSeq := .inr i79))
    | split
    | with_reducible refine KeptOut.mk' ?_
    | dsimp +zetaDelta only

theorem kept_ptpMsgRx {μ : Nat} (hw : 113 &&& μ = 113) {s0 : State} {handle : Nat → PtpMsg → State → State} {s : State} (h_handle : ∀ a b s, Kept μ s0 s → Kept μ s0 (handle a b s)) (kh : Kept μ s0 s) :
    Kept μ s0 (ptpMsgRx handle s) := by
  have k_takeHanded : 113 &&& μ = 113 := sub_of hw rfl
  have i0 : μ.testBit 0 = true := bit_of hw rfl
  have i4 : μ.testBit 4 = true := bit_of hw rfl
  have i5 : μ.testBit 5 = true := bit_of hw rfl
  have i6 : μ.testBit 6 = true := bit_of hw rfl
  unfold ptpMsgRx
  repeat' first
    | with_reducible assumption
    | (intro s; with_reducible refine (fun (hs : Kept μ s0 s) => ?_) ?_)
    | intro x
    | lift_lets
    | with_reducible refine kept_takeHanded k_takeHanded ?_
    | with_reducible refine h_handle _ _ _ ?_
    | with_reducible refine KeptOS.eq (by with_reducible assumption) ?_
    | (fail_if_no_progress with_reducible refine Kept.mk' ?_  (h_tb := .inr ⟨i0, sm, sm, sm⟩) (h_eth := .inr ⟨i4, .inr i5, .inr i6, sm⟩))
    | split
    | dsimp +zetaDelta only

theorem kept_execLinkUp {μ : Nat} (hw : 906694364794534764740656 &&& μ = 906694364794534764740656) {s0 : State} {n : Nat} {pcs fec an : Bool} {speed : Nat} {s : State}  (kh : Kept μ s0 s) :
    KeptOut μ s0 (execLinkUp n pcs fec an speed s) := by
  have k_act : 0 &&& μ = 0 := sub_of hw rfl
  have k_beginFree : 48 &&& μ = 48 := sub_of hw rfl
  have k_ethFlag : 13194139533312 &&& μ = 13194139533312 := sub_of hw rfl
  have k_modPort : 48 &&& μ = 48 := sub_of hw rfl
  have k_raise : 906694364785738671718400 &&& μ = 906694364785738671718400 := sub_of hw rfl
  have i4 : μ.testBit 4 = true := bit_of hw rfl
  have i5 : μ.testBit 5 = true := bit_of hw rfl
  have i42 : μ.testBit 42 = true := bit_of hw rfl
  have i43 : μ.testBit 43 = true := bit_of hw rfl
  have i46 : μ.testBit 46 = true := bit_of hw rfl
  have i78 : μ.testBit 78 = true := bit_of hw rfl
  have i79 : μ.testBit 79 = true := bit_of hw rfl
  unfold execLinkUp
  repeat' first
    | with_reducible assumption
    | (intro s; with_reducible refine (fun (hs : Kept μ s0 s) => ?_) ?_)
    | intro x
    | lift_lets
    | with_reducible refine kept_act k_act (fun s hs => ?_) ?_
    | with_reducible refine kept_raise k_raise ?_
    | with_reducible refine kept_modPort k_modPort ?_
    | with_reducible refine kept_ethFlag k_ethFlag ?_
    | with_reducible refine kept_beginFree k_beginFree ?_
    | (fail_if_no_progress with_reducible refine Kept.mk' ?_  (h_eth := .inr ⟨i4, .inr i5, sm, sm⟩) (h_hp := .inr ⟨i42, .inr i43, sm, sm, .inr i46, sm, sm, sm, sm, sm, sm, sm⟩) (h_evLog := .inr i78) (h_evLogSeq := .inr i79))
    | split
    | with_reducible refine KeptOut.mk' ?_
    | dsimp +zetaDelta only

theorem kept_portDown {μ : Nat} (hw : 982252233059233087619120 &&& μ = 982252233059233087619120) {s0 : State} {n : Nat} {rxCut : Bool} {s : State}  (kh : Kept μ s0 s) :
    Kept μ s0 (portDown n rxCut s) := by
  have k_discardIf : 982252233059233087619120 &&& μ = 982252233059233087619120 := sub_of hw rfl
  have k_discardTx : 982252233059233087619072 &&& μ = 982252233059233087619072 := sub_of hw rfl
  have k_ethCount : 982252228520449088159744 &&& μ = 982252228520449088159744 := sub_of hw rfl
  have k_ethFlag : 13194139533312 &&& μ = 13194139533312 := sub_of hw rfl
  have k_modPort : 48 &&& μ = 48 := sub_of hw rfl
  have k_raise : 906694364785738671718400 &&& μ = 906694364785738671718400 := sub_of hw rfl
  have i4 : μ.testBit 4 = true := bit_of hw rfl
  have i5 : μ.testBit 5 = true := bit_of hw rfl
  have i42 : μ.testBit 42 = true := bit_of hw rfl
  have i43 : μ.testBit 43 = true := bit_of hw rfl
  have i45 : μ.testBit 45 = true := bit_of hw rfl
  have i46 : μ.testBit 46 = true := bit_of hw rfl
  have i52 : μ.testBit 52 = true := bit_of hw rfl
  have i76 : μ.testBit 76 = true := bit_of hw rfl
  have i78 : μ.testBit 78 = true := bit_of hw rfl
  have i79 : μ.testBit 79 = true := bit_of hw rfl
  unfold portDown
  repeat' first
    | with_reducible assumption
    | (intro s; with_reducible refine (fun (hs : Kept μ s0 s) => ?_) ?_)
    | intro x
    | lift_lets
    | with_reducible refine kept_raise k_raise ?_
    | with_reducible refine kept_modPort k_modPort ?_
    | with_reducible refine kept_ethCount k_ethCount ?_
    | with_reducible refine kept_ethFlag k_ethFlag ?_
    | with_reducible refine kept_discardTx k_discardTx ?_
    | with_reducible refine kept_discardIf k_discardIf ?_
    | (fail_if_no_progress with_reducible refine Kept.mk' ?_  (h_eth := .inr ⟨i4, .inr i5, sm, sm⟩) (h_hp := .inr ⟨i42, .inr i43, sm, .inr i45, .inr i46, sm, sm, sm, sm, sm, .inr i52, sm⟩) (h_cnt := .inr i76) (h_evLog := .inr i78) (h_evLogSeq := .inr i79))
    | split
    | dsimp +zetaDelta only

end Sys2Proof.Machine
end

