-- ==== Sys2Proof/Laws/Ops.lean ====
section
/-!
SUPPORT. Sys2Proof/Laws/Ops.lean: the parts of the state that flags, counters and events leave as they are.
-/
namespace Sys2Proof.Machine

@[simp] theorem setFlag_pending (s : State) (off b : Nat) : (setFlag s off b).pending = s.pending :=
  (kept_setFlag (μ := 13194139533312) (Nat.and_self _) (Kept.refl s)).pending
@[simp] theorem setFlag_tb (s : State) (off b : Nat) : (setFlag s off b).tb = s.tb :=
  (kept_setFlag (μ := 13194139533312) (Nat.and_self _) (Kept.refl s)).fr.tb rfl
@[simp] theorem setFlag_eth (s : State) (off b : Nat) : (setFlag s off b).eth = s.eth :=
  (kept_setFlag (μ := 13194139533312) (Nat.and_self _) (Kept.refl s)).fr.eth rfl
@[simp] theorem setFlag_ing (s : State) (off b : Nat) : (setFlag s off b).ing = s.ing :=
  (kept_setFlag (μ := 13194139533312) (Nat.and_self _) (Kept.refl s)).fr.ing rfl
@[simp] theorem setFlag_aln (s : State) (off b : Nat) : (setFlag s off b).aln = s.aln :=
  (kept_setFlag (μ := 13194139533312) (Nat.and_self _) (Kept.refl s)).fr.aln rfl
@[simp] theorem setFlag_svf (s : State) (off b : Nat) : (setFlag s off b).svf = s.svf :=
  (kept_setFlag (μ := 13194139533312) (Nat.and_self _) (Kept.refl s)).fr.svf rfl
@[simp] theorem setFlag_osc (s : State) (off b : Nat) : (setFlag s off b).osc = s.osc :=
  (kept_setFlag (μ := 13194139533312) (Nat.and_self _) (Kept.refl s)).fr.osc rfl
@[simp] theorem setFlag_isl (s : State) (off b : Nat) : (setFlag s off b).isl = s.isl :=
  (kept_setFlag (μ := 13194139533312) (Nat.and_self _) (Kept.refl s)).fr.isl rfl
@[simp] theorem setFlag_sch (s : State) (off b : Nat) : (setFlag s off b).sch = s.sch :=
  (kept_setFlag (μ := 13194139533312) (Nat.and_self _) (Kept.refl s)).fr.sch rfl
@[simp] theorem setFlag_cap (s : State) (off b : Nat) : (setFlag s off b).cap = s.cap :=
  (kept_setFlag (μ := 13194139533312) (Nat.and_self _) (Kept.refl s)).fr.cap rfl
@[simp] theorem setFlag_mtr (s : State) (off b : Nat) : (setFlag s off b).mtr = s.mtr :=
  (kept_setFlag (μ := 13194139533312) (Nat.and_self _) (Kept.refl s)).fr.mtr rfl
@[simp] theorem setFlag_tsk (s : State) (off b : Nat) : (setFlag s off b).tsk = s.tsk :=
  (kept_setFlag (μ := 13194139533312) (Nat.and_self _) (Kept.refl s)).fr.tsk rfl
@[simp] theorem setFlag_arb (s : State) (off b : Nat) : (setFlag s off b).arb = s.arb :=
  (kept_setFlag (μ := 13194139533312) (Nat.and_self _) (Kept.refl s)).fr.arb rfl
@[simp] theorem setFlag_pub (s : State) (off b : Nat) : (setFlag s off b).pub = s.pub :=
  (kept_setFlag (μ := 13194139533312) (Nat.and_self _) (Kept.refl s)).fr.pub rfl
@[simp] theorem setFlag_cfg (s : State) (off b : Nat) : (setFlag s off b).cfg = s.cfg :=
  (kept_setFlag (μ := 13194139533312) (Nat.and_self _) (Kept.refl s)).fr.cfg rfl
@[simp] theorem setFlag_pair (s : State) (off b : Nat) : (setFlag s off b).pair = s.pair :=
  (kept_setFlag (μ := 13194139533312) (Nat.and_self _) (Kept.refl s)).fr.pair rfl
@[simp] theorem setFlag_sec (s : State) (off b : Nat) : (setFlag s off b).sec = s.sec :=
  (kept_setFlag (μ := 13194139533312) (Nat.and_self _) (Kept.refl s)).fr.sec rfl
@[simp] theorem setFlag_nv (s : State) (off b : Nat) : (setFlag s off b).nv = s.nv :=
  (kept_setFlag (μ := 13194139533312) (Nat.and_self _) (Kept.refl s)).fr.nv rfl
@[simp] theorem setFlag_vbat (s : State) (off b : Nat) : (setFlag s off b).vbat = s.vbat :=
  (kept_setFlag (μ := 13194139533312) (Nat.and_self _) (Kept.refl s)).fr.vbat rfl
@[simp] theorem setFlag_part (s : State) (off b : Nat) : (setFlag s off b).part = s.part :=
  (kept_setFlag (μ := 13194139533312) (Nat.and_self _) (Kept.refl s)).part
@[simp] theorem setFlag_fuses (s : State) (off b : Nat) : (setFlag s off b).fuses = s.fuses :=
  (kept_setFlag (μ := 13194139533312) (Nat.and_self _) (Kept.refl s)).fr.fuses rfl
@[simp] theorem setFlag_pwr (s : State) (off b : Nat) : (setFlag s off b).pwr = s.pwr :=
  (kept_setFlag (μ := 13194139533312) (Nat.and_self _) (Kept.refl s)).fr.pwr rfl
@[simp] theorem setFlag_cnt (s : State) (off b : Nat) : (setFlag s off b).cnt = s.cnt :=
  (kept_setFlag (μ := 13194139533312) (Nat.and_self _) (Kept.refl s)).fr.cnt rfl
@[simp] theorem setFlag_limits (s : State) (off b : Nat) : (setFlag s off b).limits = s.limits :=
  (kept_setFlag (μ := 13194139533312) (Nat.and_self _) (Kept.refl s)).fr.limits rfl
@[simp] theorem setFlag_evLog (s : State) (off b : Nat) : (setFlag s off b).evLog = s.evLog :=
  (kept_setFlag (μ := 13194139533312) (Nat.and_self _) (Kept.refl s)).fr.evLog rfl
@[simp] theorem setFlag_evLogSeq (s : State) (off b : Nat) : (setFlag s off b).evLogSeq = s.evLogSeq :=
  (kept_setFlag (μ := 13194139533312) (Nat.and_self _) (Kept.refl s)).fr.evLogSeq rfl
@[simp] theorem setFlag_free (s : State) (off b : Nat) : (setFlag s off b).free = s.free :=
  (kept_setFlag (μ := 13194139533312) (Nat.and_self _) (Kept.refl s)).fr.free rfl

@[simp] theorem rcMax_pending (s : State) (off win v : Nat) : (rcMax s off win v).pending = s.pending :=
  (kept_rcMax (μ := 21990232555520) (Nat.and_self _) (Kept.refl s)).pending
@[simp] theorem rcMax_tb (s : State) (off win v : Nat) : (rcMax s off win v).tb = s.tb :=
  (kept_rcMax (μ := 21990232555520) (Nat.and_self _) (Kept.refl s)).fr.tb rfl
@[simp] theorem rcMax_eth (s : State) (off win v : Nat) : (rcMax s off win v).eth = s.eth :=
  (kept_rcMax (μ := 21990232555520) (Nat.and_self _) (Kept.refl s)).fr.eth rfl
@[simp] theorem rcMax_ing (s : State) (off win v : Nat) : (rcMax s off win v).ing = s.ing :=
  (kept_rcMax (μ := 21990232555520) (Nat.and_self _) (Kept.refl s)).fr.ing rfl
@[simp] theorem rcMax_aln (s : State) (off win v : Nat) : (rcMax s off win v).aln = s.aln :=
  (kept_rcMax (μ := 21990232555520) (Nat.and_self _) (Kept.refl s)).fr.aln rfl
@[simp] theorem rcMax_svf (s : State) (off win v : Nat) : (rcMax s off win v).svf = s.svf :=
  (kept_rcMax (μ := 21990232555520) (Nat.and_self _) (Kept.refl s)).fr.svf rfl
@[simp] theorem rcMax_osc (s : State) (off win v : Nat) : (rcMax s off win v).osc = s.osc :=
  (kept_rcMax (μ := 21990232555520) (Nat.and_self _) (Kept.refl s)).fr.osc rfl
@[simp] theorem rcMax_isl (s : State) (off win v : Nat) : (rcMax s off win v).isl = s.isl :=
  (kept_rcMax (μ := 21990232555520) (Nat.and_self _) (Kept.refl s)).fr.isl rfl
@[simp] theorem rcMax_sch (s : State) (off win v : Nat) : (rcMax s off win v).sch = s.sch :=
  (kept_rcMax (μ := 21990232555520) (Nat.and_self _) (Kept.refl s)).fr.sch rfl
@[simp] theorem rcMax_cap (s : State) (off win v : Nat) : (rcMax s off win v).cap = s.cap :=
  (kept_rcMax (μ := 21990232555520) (Nat.and_self _) (Kept.refl s)).fr.cap rfl
@[simp] theorem rcMax_mtr (s : State) (off win v : Nat) : (rcMax s off win v).mtr = s.mtr :=
  (kept_rcMax (μ := 21990232555520) (Nat.and_self _) (Kept.refl s)).fr.mtr rfl
@[simp] theorem rcMax_tsk (s : State) (off win v : Nat) : (rcMax s off win v).tsk = s.tsk :=
  (kept_rcMax (μ := 21990232555520) (Nat.and_self _) (Kept.refl s)).fr.tsk rfl
@[simp] theorem rcMax_arb (s : State) (off win v : Nat) : (rcMax s off win v).arb = s.arb :=
  (kept_rcMax (μ := 21990232555520) (Nat.and_self _) (Kept.refl s)).fr.arb rfl
@[simp] theorem rcMax_pub (s : State) (off win v : Nat) : (rcMax s off win v).pub = s.pub :=
  (kept_rcMax (μ := 21990232555520) (Nat.and_self _) (Kept.refl s)).fr.pub rfl
@[simp] theorem rcMax_cfg (s : State) (off win v : Nat) : (rcMax s off win v).cfg = s.cfg :=
  (kept_rcMax (μ := 21990232555520) (Nat.and_self _) (Kept.refl s)).fr.cfg rfl
@[simp] theorem rcMax_pair (s : State) (off win v : Nat) : (rcMax s off win v).pair = s.pair :=
  (kept_rcMax (μ := 21990232555520) (Nat.and_self _) (Kept.refl s)).fr.pair rfl
@[simp] theorem rcMax_sec (s : State) (off win v : Nat) : (rcMax s off win v).sec = s.sec :=
  (kept_rcMax (μ := 21990232555520) (Nat.and_self _) (Kept.refl s)).fr.sec rfl
@[simp] theorem rcMax_nv (s : State) (off win v : Nat) : (rcMax s off win v).nv = s.nv :=
  (kept_rcMax (μ := 21990232555520) (Nat.and_self _) (Kept.refl s)).fr.nv rfl
@[simp] theorem rcMax_vbat (s : State) (off win v : Nat) : (rcMax s off win v).vbat = s.vbat :=
  (kept_rcMax (μ := 21990232555520) (Nat.and_self _) (Kept.refl s)).fr.vbat rfl
@[simp] theorem rcMax_part (s : State) (off win v : Nat) : (rcMax s off win v).part = s.part :=
  (kept_rcMax (μ := 21990232555520) (Nat.and_self _) (Kept.refl s)).part
@[simp] theorem rcMax_fuses (s : State) (off win v : Nat) : (rcMax s off win v).fuses = s.fuses :=
  (kept_rcMax (μ := 21990232555520) (Nat.and_self _) (Kept.refl s)).fr.fuses rfl
@[simp] theorem rcMax_pwr (s : State) (off win v : Nat) : (rcMax s off win v).pwr = s.pwr :=
  (kept_rcMax (μ := 21990232555520) (Nat.and_self _) (Kept.refl s)).fr.pwr rfl
@[simp] theorem rcMax_cnt (s : State) (off win v : Nat) : (rcMax s off win v).cnt = s.cnt :=
  (kept_rcMax (μ := 21990232555520) (Nat.and_self _) (Kept.refl s)).fr.cnt rfl
@[simp] theorem rcMax_limits (s : State) (off win v : Nat) : (rcMax s off win v).limits = s.limits :=
  (kept_rcMax (μ := 21990232555520) (Nat.and_self _) (Kept.refl s)).fr.limits rfl
@[simp] theorem rcMax_evLog (s : State) (off win v : Nat) : (rcMax s off win v).evLog = s.evLog :=
  (kept_rcMax (μ := 21990232555520) (Nat.and_self _) (Kept.refl s)).fr.evLog rfl
@[simp] theorem rcMax_evLogSeq (s : State) (off win v : Nat) : (rcMax s off win v).evLogSeq = s.evLogSeq :=
  (kept_rcMax (μ := 21990232555520) (Nat.and_self _) (Kept.refl s)).fr.evLogSeq rfl
@[simp] theorem rcMax_free (s : State) (off win v : Nat) : (rcMax s off win v).free = s.free :=
  (kept_rcMax (μ := 21990232555520) (Nat.and_self _) (Kept.refl s)).fr.free rfl

@[simp] theorem irqPend_pending (n src : Nat) (s : State) : (irqPend n src s).pending = s.pending :=
  (kept_irqPend (μ := 74766790688768) (Nat.and_self _) (Kept.refl s)).pending
@[simp] theorem irqPend_tb (n src : Nat) (s : State) : (irqPend n src s).tb = s.tb :=
  (kept_irqPend (μ := 74766790688768) (Nat.and_self _) (Kept.refl s)).fr.tb rfl
@[simp] theorem irqPend_eth (n src : Nat) (s : State) : (irqPend n src s).eth = s.eth :=
  (kept_irqPend (μ := 74766790688768) (Nat.and_self _) (Kept.refl s)).fr.eth rfl
@[simp] theorem irqPend_ing (n src : Nat) (s : State) : (irqPend n src s).ing = s.ing :=
  (kept_irqPend (μ := 74766790688768) (Nat.and_self _) (Kept.refl s)).fr.ing rfl
@[simp] theorem irqPend_aln (n src : Nat) (s : State) : (irqPend n src s).aln = s.aln :=
  (kept_irqPend (μ := 74766790688768) (Nat.and_self _) (Kept.refl s)).fr.aln rfl
@[simp] theorem irqPend_svf (n src : Nat) (s : State) : (irqPend n src s).svf = s.svf :=
  (kept_irqPend (μ := 74766790688768) (Nat.and_self _) (Kept.refl s)).fr.svf rfl
@[simp] theorem irqPend_osc (n src : Nat) (s : State) : (irqPend n src s).osc = s.osc :=
  (kept_irqPend (μ := 74766790688768) (Nat.and_self _) (Kept.refl s)).fr.osc rfl
@[simp] theorem irqPend_isl (n src : Nat) (s : State) : (irqPend n src s).isl = s.isl :=
  (kept_irqPend (μ := 74766790688768) (Nat.and_self _) (Kept.refl s)).fr.isl rfl
@[simp] theorem irqPend_sch (n src : Nat) (s : State) : (irqPend n src s).sch = s.sch :=
  (kept_irqPend (μ := 74766790688768) (Nat.and_self _) (Kept.refl s)).fr.sch rfl
@[simp] theorem irqPend_cap (n src : Nat) (s : State) : (irqPend n src s).cap = s.cap :=
  (kept_irqPend (μ := 74766790688768) (Nat.and_self _) (Kept.refl s)).fr.cap rfl
@[simp] theorem irqPend_mtr (n src : Nat) (s : State) : (irqPend n src s).mtr = s.mtr :=
  (kept_irqPend (μ := 74766790688768) (Nat.and_self _) (Kept.refl s)).fr.mtr rfl
@[simp] theorem irqPend_tsk (n src : Nat) (s : State) : (irqPend n src s).tsk = s.tsk :=
  (kept_irqPend (μ := 74766790688768) (Nat.and_self _) (Kept.refl s)).fr.tsk rfl
@[simp] theorem irqPend_arb (n src : Nat) (s : State) : (irqPend n src s).arb = s.arb :=
  (kept_irqPend (μ := 74766790688768) (Nat.and_self _) (Kept.refl s)).fr.arb rfl
@[simp] theorem irqPend_pub (n src : Nat) (s : State) : (irqPend n src s).pub = s.pub :=
  (kept_irqPend (μ := 74766790688768) (Nat.and_self _) (Kept.refl s)).fr.pub rfl
@[simp] theorem irqPend_cfg (n src : Nat) (s : State) : (irqPend n src s).cfg = s.cfg :=
  (kept_irqPend (μ := 74766790688768) (Nat.and_self _) (Kept.refl s)).fr.cfg rfl
@[simp] theorem irqPend_pair (n src : Nat) (s : State) : (irqPend n src s).pair = s.pair :=
  (kept_irqPend (μ := 74766790688768) (Nat.and_self _) (Kept.refl s)).fr.pair rfl
@[simp] theorem irqPend_sec (n src : Nat) (s : State) : (irqPend n src s).sec = s.sec :=
  (kept_irqPend (μ := 74766790688768) (Nat.and_self _) (Kept.refl s)).fr.sec rfl
@[simp] theorem irqPend_nv (n src : Nat) (s : State) : (irqPend n src s).nv = s.nv :=
  (kept_irqPend (μ := 74766790688768) (Nat.and_self _) (Kept.refl s)).fr.nv rfl
@[simp] theorem irqPend_vbat (n src : Nat) (s : State) : (irqPend n src s).vbat = s.vbat :=
  (kept_irqPend (μ := 74766790688768) (Nat.and_self _) (Kept.refl s)).fr.vbat rfl
@[simp] theorem irqPend_part (n src : Nat) (s : State) : (irqPend n src s).part = s.part :=
  (kept_irqPend (μ := 74766790688768) (Nat.and_self _) (Kept.refl s)).part
@[simp] theorem irqPend_fuses (n src : Nat) (s : State) : (irqPend n src s).fuses = s.fuses :=
  (kept_irqPend (μ := 74766790688768) (Nat.and_self _) (Kept.refl s)).fr.fuses rfl
@[simp] theorem irqPend_pwr (n src : Nat) (s : State) : (irqPend n src s).pwr = s.pwr :=
  (kept_irqPend (μ := 74766790688768) (Nat.and_self _) (Kept.refl s)).fr.pwr rfl
@[simp] theorem irqPend_cnt (n src : Nat) (s : State) : (irqPend n src s).cnt = s.cnt :=
  (kept_irqPend (μ := 74766790688768) (Nat.and_self _) (Kept.refl s)).fr.cnt rfl
@[simp] theorem irqPend_limits (n src : Nat) (s : State) : (irqPend n src s).limits = s.limits :=
  (kept_irqPend (μ := 74766790688768) (Nat.and_self _) (Kept.refl s)).fr.limits rfl
@[simp] theorem irqPend_evLog (n src : Nat) (s : State) : (irqPend n src s).evLog = s.evLog :=
  (kept_irqPend (μ := 74766790688768) (Nat.and_self _) (Kept.refl s)).fr.evLog rfl
@[simp] theorem irqPend_evLogSeq (n src : Nat) (s : State) : (irqPend n src s).evLogSeq = s.evLogSeq :=
  (kept_irqPend (μ := 74766790688768) (Nat.and_self _) (Kept.refl s)).fr.evLogSeq rfl
@[simp] theorem irqPend_free (n src : Nat) (s : State) : (irqPend n src s).free = s.free :=
  (kept_irqPend (μ := 74766790688768) (Nat.and_self _) (Kept.refl s)).fr.free rfl

@[simp] theorem addEvent_pending (ev : Event) (n : Nat) (s : State) : (addEvent ev n s).pending = s.pending :=
  (kept_addEvent (μ := 74766790688768) (Nat.and_self _) (Kept.refl s)).pending
@[simp] theorem addEvent_tb (ev : Event) (n : Nat) (s : State) : (addEvent ev n s).tb = s.tb :=
  (kept_addEvent (μ := 74766790688768) (Nat.and_self _) (Kept.refl s)).fr.tb rfl
@[simp] theorem addEvent_eth (ev : Event) (n : Nat) (s : State) : (addEvent ev n s).eth = s.eth :=
  (kept_addEvent (μ := 74766790688768) (Nat.and_self _) (Kept.refl s)).fr.eth rfl
@[simp] theorem addEvent_ing (ev : Event) (n : Nat) (s : State) : (addEvent ev n s).ing = s.ing :=
  (kept_addEvent (μ := 74766790688768) (Nat.and_self _) (Kept.refl s)).fr.ing rfl
@[simp] theorem addEvent_aln (ev : Event) (n : Nat) (s : State) : (addEvent ev n s).aln = s.aln :=
  (kept_addEvent (μ := 74766790688768) (Nat.and_self _) (Kept.refl s)).fr.aln rfl
@[simp] theorem addEvent_svf (ev : Event) (n : Nat) (s : State) : (addEvent ev n s).svf = s.svf :=
  (kept_addEvent (μ := 74766790688768) (Nat.and_self _) (Kept.refl s)).fr.svf rfl
@[simp] theorem addEvent_osc (ev : Event) (n : Nat) (s : State) : (addEvent ev n s).osc = s.osc :=
  (kept_addEvent (μ := 74766790688768) (Nat.and_self _) (Kept.refl s)).fr.osc rfl
@[simp] theorem addEvent_isl (ev : Event) (n : Nat) (s : State) : (addEvent ev n s).isl = s.isl :=
  (kept_addEvent (μ := 74766790688768) (Nat.and_self _) (Kept.refl s)).fr.isl rfl
@[simp] theorem addEvent_sch (ev : Event) (n : Nat) (s : State) : (addEvent ev n s).sch = s.sch :=
  (kept_addEvent (μ := 74766790688768) (Nat.and_self _) (Kept.refl s)).fr.sch rfl
@[simp] theorem addEvent_cap (ev : Event) (n : Nat) (s : State) : (addEvent ev n s).cap = s.cap :=
  (kept_addEvent (μ := 74766790688768) (Nat.and_self _) (Kept.refl s)).fr.cap rfl
@[simp] theorem addEvent_mtr (ev : Event) (n : Nat) (s : State) : (addEvent ev n s).mtr = s.mtr :=
  (kept_addEvent (μ := 74766790688768) (Nat.and_self _) (Kept.refl s)).fr.mtr rfl
@[simp] theorem addEvent_tsk (ev : Event) (n : Nat) (s : State) : (addEvent ev n s).tsk = s.tsk :=
  (kept_addEvent (μ := 74766790688768) (Nat.and_self _) (Kept.refl s)).fr.tsk rfl
@[simp] theorem addEvent_arb (ev : Event) (n : Nat) (s : State) : (addEvent ev n s).arb = s.arb :=
  (kept_addEvent (μ := 74766790688768) (Nat.and_self _) (Kept.refl s)).fr.arb rfl
@[simp] theorem addEvent_pub (ev : Event) (n : Nat) (s : State) : (addEvent ev n s).pub = s.pub :=
  (kept_addEvent (μ := 74766790688768) (Nat.and_self _) (Kept.refl s)).fr.pub rfl
@[simp] theorem addEvent_cfg (ev : Event) (n : Nat) (s : State) : (addEvent ev n s).cfg = s.cfg :=
  (kept_addEvent (μ := 74766790688768) (Nat.and_self _) (Kept.refl s)).fr.cfg rfl
@[simp] theorem addEvent_pair (ev : Event) (n : Nat) (s : State) : (addEvent ev n s).pair = s.pair :=
  (kept_addEvent (μ := 74766790688768) (Nat.and_self _) (Kept.refl s)).fr.pair rfl
@[simp] theorem addEvent_sec (ev : Event) (n : Nat) (s : State) : (addEvent ev n s).sec = s.sec :=
  (kept_addEvent (μ := 74766790688768) (Nat.and_self _) (Kept.refl s)).fr.sec rfl
@[simp] theorem addEvent_nv (ev : Event) (n : Nat) (s : State) : (addEvent ev n s).nv = s.nv :=
  (kept_addEvent (μ := 74766790688768) (Nat.and_self _) (Kept.refl s)).fr.nv rfl
@[simp] theorem addEvent_vbat (ev : Event) (n : Nat) (s : State) : (addEvent ev n s).vbat = s.vbat :=
  (kept_addEvent (μ := 74766790688768) (Nat.and_self _) (Kept.refl s)).fr.vbat rfl
@[simp] theorem addEvent_part (ev : Event) (n : Nat) (s : State) : (addEvent ev n s).part = s.part :=
  (kept_addEvent (μ := 74766790688768) (Nat.and_self _) (Kept.refl s)).part
@[simp] theorem addEvent_fuses (ev : Event) (n : Nat) (s : State) : (addEvent ev n s).fuses = s.fuses :=
  (kept_addEvent (μ := 74766790688768) (Nat.and_self _) (Kept.refl s)).fr.fuses rfl
@[simp] theorem addEvent_pwr (ev : Event) (n : Nat) (s : State) : (addEvent ev n s).pwr = s.pwr :=
  (kept_addEvent (μ := 74766790688768) (Nat.and_self _) (Kept.refl s)).fr.pwr rfl
@[simp] theorem addEvent_cnt (ev : Event) (n : Nat) (s : State) : (addEvent ev n s).cnt = s.cnt :=
  (kept_addEvent (μ := 74766790688768) (Nat.and_self _) (Kept.refl s)).fr.cnt rfl
@[simp] theorem addEvent_limits (ev : Event) (n : Nat) (s : State) : (addEvent ev n s).limits = s.limits :=
  (kept_addEvent (μ := 74766790688768) (Nat.and_self _) (Kept.refl s)).fr.limits rfl
@[simp] theorem addEvent_evLog (ev : Event) (n : Nat) (s : State) : (addEvent ev n s).evLog = s.evLog :=
  (kept_addEvent (μ := 74766790688768) (Nat.and_self _) (Kept.refl s)).fr.evLog rfl
@[simp] theorem addEvent_evLogSeq (ev : Event) (n : Nat) (s : State) : (addEvent ev n s).evLogSeq = s.evLogSeq :=
  (kept_addEvent (μ := 74766790688768) (Nat.and_self _) (Kept.refl s)).fr.evLogSeq rfl
@[simp] theorem addEvent_free (ev : Event) (n : Nat) (s : State) : (addEvent ev n s).free = s.free :=
  (kept_addEvent (μ := 74766790688768) (Nat.and_self _) (Kept.refl s)).fr.free rfl

@[simp] theorem raiseIn_pending (blk code : Nat) (o : EvObj) (arg : List Byte) (s : State) : (raiseIn blk code o arg s).pending = s.pending :=
  (kept_raiseIn (μ := 906694364785738671718400) (Nat.and_self _) (Kept.refl s)).pending
@[simp] theorem raiseIn_tb (blk code : Nat) (o : EvObj) (arg : List Byte) (s : State) : (raiseIn blk code o arg s).tb = s.tb :=
  (kept_raiseIn (μ := 906694364785738671718400) (Nat.and_self _) (Kept.refl s)).fr.tb rfl
@[simp] theorem raiseIn_eth (blk code : Nat) (o : EvObj) (arg : List Byte) (s : State) : (raiseIn blk code o arg s).eth = s.eth :=
  (kept_raiseIn (μ := 906694364785738671718400) (Nat.and_self _) (Kept.refl s)).fr.eth rfl
@[simp] theorem raiseIn_ing (blk code : Nat) (o : EvObj) (arg : List Byte) (s : State) : (raiseIn blk code o arg s).ing = s.ing :=
  (kept_raiseIn (μ := 906694364785738671718400) (Nat.and_self _) (Kept.refl s)).fr.ing rfl
@[simp] theorem raiseIn_aln (blk code : Nat) (o : EvObj) (arg : List Byte) (s : State) : (raiseIn blk code o arg s).aln = s.aln :=
  (kept_raiseIn (μ := 906694364785738671718400) (Nat.and_self _) (Kept.refl s)).fr.aln rfl
@[simp] theorem raiseIn_svf (blk code : Nat) (o : EvObj) (arg : List Byte) (s : State) : (raiseIn blk code o arg s).svf = s.svf :=
  (kept_raiseIn (μ := 906694364785738671718400) (Nat.and_self _) (Kept.refl s)).fr.svf rfl
@[simp] theorem raiseIn_osc (blk code : Nat) (o : EvObj) (arg : List Byte) (s : State) : (raiseIn blk code o arg s).osc = s.osc :=
  (kept_raiseIn (μ := 906694364785738671718400) (Nat.and_self _) (Kept.refl s)).fr.osc rfl
@[simp] theorem raiseIn_isl (blk code : Nat) (o : EvObj) (arg : List Byte) (s : State) : (raiseIn blk code o arg s).isl = s.isl :=
  (kept_raiseIn (μ := 906694364785738671718400) (Nat.and_self _) (Kept.refl s)).fr.isl rfl
@[simp] theorem raiseIn_sch (blk code : Nat) (o : EvObj) (arg : List Byte) (s : State) : (raiseIn blk code o arg s).sch = s.sch :=
  (kept_raiseIn (μ := 906694364785738671718400) (Nat.and_self _) (Kept.refl s)).fr.sch rfl
@[simp] theorem raiseIn_cap (blk code : Nat) (o : EvObj) (arg : List Byte) (s : State) : (raiseIn blk code o arg s).cap = s.cap :=
  (kept_raiseIn (μ := 906694364785738671718400) (Nat.and_self _) (Kept.refl s)).fr.cap rfl
@[simp] theorem raiseIn_mtr (blk code : Nat) (o : EvObj) (arg : List Byte) (s : State) : (raiseIn blk code o arg s).mtr = s.mtr :=
  (kept_raiseIn (μ := 906694364785738671718400) (Nat.and_self _) (Kept.refl s)).fr.mtr rfl
@[simp] theorem raiseIn_tsk (blk code : Nat) (o : EvObj) (arg : List Byte) (s : State) : (raiseIn blk code o arg s).tsk = s.tsk :=
  (kept_raiseIn (μ := 906694364785738671718400) (Nat.and_self _) (Kept.refl s)).fr.tsk rfl
@[simp] theorem raiseIn_arb (blk code : Nat) (o : EvObj) (arg : List Byte) (s : State) : (raiseIn blk code o arg s).arb = s.arb :=
  (kept_raiseIn (μ := 906694364785738671718400) (Nat.and_self _) (Kept.refl s)).fr.arb rfl
@[simp] theorem raiseIn_pub (blk code : Nat) (o : EvObj) (arg : List Byte) (s : State) : (raiseIn blk code o arg s).pub = s.pub :=
  (kept_raiseIn (μ := 906694364785738671718400) (Nat.and_self _) (Kept.refl s)).fr.pub rfl
@[simp] theorem raiseIn_cfg (blk code : Nat) (o : EvObj) (arg : List Byte) (s : State) : (raiseIn blk code o arg s).cfg = s.cfg :=
  (kept_raiseIn (μ := 906694364785738671718400) (Nat.and_self _) (Kept.refl s)).fr.cfg rfl
@[simp] theorem raiseIn_pair (blk code : Nat) (o : EvObj) (arg : List Byte) (s : State) : (raiseIn blk code o arg s).pair = s.pair :=
  (kept_raiseIn (μ := 906694364785738671718400) (Nat.and_self _) (Kept.refl s)).fr.pair rfl
@[simp] theorem raiseIn_sec (blk code : Nat) (o : EvObj) (arg : List Byte) (s : State) : (raiseIn blk code o arg s).sec = s.sec :=
  (kept_raiseIn (μ := 906694364785738671718400) (Nat.and_self _) (Kept.refl s)).fr.sec rfl
@[simp] theorem raiseIn_nv (blk code : Nat) (o : EvObj) (arg : List Byte) (s : State) : (raiseIn blk code o arg s).nv = s.nv :=
  (kept_raiseIn (μ := 906694364785738671718400) (Nat.and_self _) (Kept.refl s)).fr.nv rfl
@[simp] theorem raiseIn_vbat (blk code : Nat) (o : EvObj) (arg : List Byte) (s : State) : (raiseIn blk code o arg s).vbat = s.vbat :=
  (kept_raiseIn (μ := 906694364785738671718400) (Nat.and_self _) (Kept.refl s)).fr.vbat rfl
@[simp] theorem raiseIn_part (blk code : Nat) (o : EvObj) (arg : List Byte) (s : State) : (raiseIn blk code o arg s).part = s.part :=
  (kept_raiseIn (μ := 906694364785738671718400) (Nat.and_self _) (Kept.refl s)).part
@[simp] theorem raiseIn_fuses (blk code : Nat) (o : EvObj) (arg : List Byte) (s : State) : (raiseIn blk code o arg s).fuses = s.fuses :=
  (kept_raiseIn (μ := 906694364785738671718400) (Nat.and_self _) (Kept.refl s)).fr.fuses rfl
@[simp] theorem raiseIn_pwr (blk code : Nat) (o : EvObj) (arg : List Byte) (s : State) : (raiseIn blk code o arg s).pwr = s.pwr :=
  (kept_raiseIn (μ := 906694364785738671718400) (Nat.and_self _) (Kept.refl s)).fr.pwr rfl
@[simp] theorem raiseIn_cnt (blk code : Nat) (o : EvObj) (arg : List Byte) (s : State) : (raiseIn blk code o arg s).cnt = s.cnt :=
  (kept_raiseIn (μ := 906694364785738671718400) (Nat.and_self _) (Kept.refl s)).fr.cnt rfl
@[simp] theorem raiseIn_limits (blk code : Nat) (o : EvObj) (arg : List Byte) (s : State) : (raiseIn blk code o arg s).limits = s.limits :=
  (kept_raiseIn (μ := 906694364785738671718400) (Nat.and_self _) (Kept.refl s)).fr.limits rfl
@[simp] theorem raiseIn_free (blk code : Nat) (o : EvObj) (arg : List Byte) (s : State) : (raiseIn blk code o arg s).free = s.free :=
  (kept_raiseIn (μ := 906694364785738671718400) (Nat.and_self _) (Kept.refl s)).fr.free rfl

@[simp] theorem raise_pending (code : Nat) (o : EvObj) (arg : List Byte) (s : State) : (raise code o arg s).pending = s.pending :=
  (kept_raise (μ := 906694364785738671718400) (Nat.and_self _) (Kept.refl s)).pending
@[simp] theorem raise_tb (code : Nat) (o : EvObj) (arg : List Byte) (s : State) : (raise code o arg s).tb = s.tb :=
  (kept_raise (μ := 906694364785738671718400) (Nat.and_self _) (Kept.refl s)).fr.tb rfl
@[simp] theorem raise_eth (code : Nat) (o : EvObj) (arg : List Byte) (s : State) : (raise code o arg s).eth = s.eth :=
  (kept_raise (μ := 906694364785738671718400) (Nat.and_self _) (Kept.refl s)).fr.eth rfl
@[simp] theorem raise_ing (code : Nat) (o : EvObj) (arg : List Byte) (s : State) : (raise code o arg s).ing = s.ing :=
  (kept_raise (μ := 906694364785738671718400) (Nat.and_self _) (Kept.refl s)).fr.ing rfl
@[simp] theorem raise_aln (code : Nat) (o : EvObj) (arg : List Byte) (s : State) : (raise code o arg s).aln = s.aln :=
  (kept_raise (μ := 906694364785738671718400) (Nat.and_self _) (Kept.refl s)).fr.aln rfl
@[simp] theorem raise_svf (code : Nat) (o : EvObj) (arg : List Byte) (s : State) : (raise code o arg s).svf = s.svf :=
  (kept_raise (μ := 906694364785738671718400) (Nat.and_self _) (Kept.refl s)).fr.svf rfl
@[simp] theorem raise_osc (code : Nat) (o : EvObj) (arg : List Byte) (s : State) : (raise code o arg s).osc = s.osc :=
  (kept_raise (μ := 906694364785738671718400) (Nat.and_self _) (Kept.refl s)).fr.osc rfl
@[simp] theorem raise_isl (code : Nat) (o : EvObj) (arg : List Byte) (s : State) : (raise code o arg s).isl = s.isl :=
  (kept_raise (μ := 906694364785738671718400) (Nat.and_self _) (Kept.refl s)).fr.isl rfl
@[simp] theorem raise_sch (code : Nat) (o : EvObj) (arg : List Byte) (s : State) : (raise code o arg s).sch = s.sch :=
  (kept_raise (μ := 906694364785738671718400) (Nat.and_self _) (Kept.refl s)).fr.sch rfl
@[simp] theorem raise_cap (code : Nat) (o : EvObj) (arg : List Byte) (s : State) : (raise code o arg s).cap = s.cap :=
  (kept_raise (μ := 906694364785738671718400) (Nat.and_self _) (Kept.refl s)).fr.cap rfl
@[simp] theorem raise_mtr (code : Nat) (o : EvObj) (arg : List Byte) (s : State) : (raise code o arg s).mtr = s.mtr :=
  (kept_raise (μ := 906694364785738671718400) (Nat.and_self _) (Kept.refl s)).fr.mtr rfl
@[simp] theorem raise_tsk (code : Nat) (o : EvObj) (arg : List Byte) (s : State) : (raise code o arg s).tsk = s.tsk :=
  (kept_raise (μ := 906694364785738671718400) (Nat.and_self _) (Kept.refl s)).fr.tsk rfl
@[simp] theorem raise_arb (code : Nat) (o : EvObj) (arg : List Byte) (s : State) : (raise code o arg s).arb = s.arb :=
  (kept_raise (μ := 906694364785738671718400) (Nat.and_self _) (Kept.refl s)).fr.arb rfl
@[simp] theorem raise_pub (code : Nat) (o : EvObj) (arg : List Byte) (s : State) : (raise code o arg s).pub = s.pub :=
  (kept_raise (μ := 906694364785738671718400) (Nat.and_self _) (Kept.refl s)).fr.pub rfl
@[simp] theorem raise_cfg (code : Nat) (o : EvObj) (arg : List Byte) (s : State) : (raise code o arg s).cfg = s.cfg :=
  (kept_raise (μ := 906694364785738671718400) (Nat.and_self _) (Kept.refl s)).fr.cfg rfl
@[simp] theorem raise_pair (code : Nat) (o : EvObj) (arg : List Byte) (s : State) : (raise code o arg s).pair = s.pair :=
  (kept_raise (μ := 906694364785738671718400) (Nat.and_self _) (Kept.refl s)).fr.pair rfl
@[simp] theorem raise_sec (code : Nat) (o : EvObj) (arg : List Byte) (s : State) : (raise code o arg s).sec = s.sec :=
  (kept_raise (μ := 906694364785738671718400) (Nat.and_self _) (Kept.refl s)).fr.sec rfl
@[simp] theorem raise_nv (code : Nat) (o : EvObj) (arg : List Byte) (s : State) : (raise code o arg s).nv = s.nv :=
  (kept_raise (μ := 906694364785738671718400) (Nat.and_self _) (Kept.refl s)).fr.nv rfl
@[simp] theorem raise_vbat (code : Nat) (o : EvObj) (arg : List Byte) (s : State) : (raise code o arg s).vbat = s.vbat :=
  (kept_raise (μ := 906694364785738671718400) (Nat.and_self _) (Kept.refl s)).fr.vbat rfl
@[simp] theorem raise_part (code : Nat) (o : EvObj) (arg : List Byte) (s : State) : (raise code o arg s).part = s.part :=
  (kept_raise (μ := 906694364785738671718400) (Nat.and_self _) (Kept.refl s)).part
@[simp] theorem raise_fuses (code : Nat) (o : EvObj) (arg : List Byte) (s : State) : (raise code o arg s).fuses = s.fuses :=
  (kept_raise (μ := 906694364785738671718400) (Nat.and_self _) (Kept.refl s)).fr.fuses rfl
@[simp] theorem raise_pwr (code : Nat) (o : EvObj) (arg : List Byte) (s : State) : (raise code o arg s).pwr = s.pwr :=
  (kept_raise (μ := 906694364785738671718400) (Nat.and_self _) (Kept.refl s)).fr.pwr rfl
@[simp] theorem raise_cnt (code : Nat) (o : EvObj) (arg : List Byte) (s : State) : (raise code o arg s).cnt = s.cnt :=
  (kept_raise (μ := 906694364785738671718400) (Nat.and_self _) (Kept.refl s)).fr.cnt rfl
@[simp] theorem raise_limits (code : Nat) (o : EvObj) (arg : List Byte) (s : State) : (raise code o arg s).limits = s.limits :=
  (kept_raise (μ := 906694364785738671718400) (Nat.and_self _) (Kept.refl s)).fr.limits rfl
@[simp] theorem raise_free (code : Nat) (o : EvObj) (arg : List Byte) (s : State) : (raise code o arg s).free = s.free :=
  (kept_raise (μ := 906694364785738671718400) (Nat.and_self _) (Kept.refl s)).fr.free rfl

@[simp] theorem raiseLimited_pending (key code : Nat) (o : EvObj) (arg : List Byte) (s : State) : (raiseLimited key code o arg s).pending = s.pending :=
  (kept_raiseLimited (μ := 1057810092237567318556672) (Nat.and_self _) (Kept.refl s)).pending
@[simp] theorem raiseLimited_tb (key code : Nat) (o : EvObj) (arg : List Byte) (s : State) : (raiseLimited key code o arg s).tb = s.tb :=
  (kept_raiseLimited (μ := 1057810092237567318556672) (Nat.and_self _) (Kept.refl s)).fr.tb rfl
@[simp] theorem raiseLimited_eth (key code : Nat) (o : EvObj) (arg : List Byte) (s : State) : (raiseLimited key code o arg s).eth = s.eth :=
  (kept_raiseLimited (μ := 1057810092237567318556672) (Nat.and_self _) (Kept.refl s)).fr.eth rfl
@[simp] theorem raiseLimited_ing (key code : Nat) (o : EvObj) (arg : List Byte) (s : State) : (raiseLimited key code o arg s).ing = s.ing :=
  (kept_raiseLimited (μ := 1057810092237567318556672) (Nat.and_self _) (Kept.refl s)).fr.ing rfl
@[simp] theorem raiseLimited_aln (key code : Nat) (o : EvObj) (arg : List Byte) (s : State) : (raiseLimited key code o arg s).aln = s.aln :=
  (kept_raiseLimited (μ := 1057810092237567318556672) (Nat.and_self _) (Kept.refl s)).fr.aln rfl
@[simp] theorem raiseLimited_svf (key code : Nat) (o : EvObj) (arg : List Byte) (s : State) : (raiseLimited key code o arg s).svf = s.svf :=
  (kept_raiseLimited (μ := 1057810092237567318556672) (Nat.and_self _) (Kept.refl s)).fr.svf rfl
@[simp] theorem raiseLimited_osc (key code : Nat) (o : EvObj) (arg : List Byte) (s : State) : (raiseLimited key code o arg s).osc = s.osc :=
  (kept_raiseLimited (μ := 1057810092237567318556672) (Nat.and_self _) (Kept.refl s)).fr.osc rfl
@[simp] theorem raiseLimited_isl (key code : Nat) (o : EvObj) (arg : List Byte) (s : State) : (raiseLimited key code o arg s).isl = s.isl :=
  (kept_raiseLimited (μ := 1057810092237567318556672) (Nat.and_self _) (Kept.refl s)).fr.isl rfl
@[simp] theorem raiseLimited_sch (key code : Nat) (o : EvObj) (arg : List Byte) (s : State) : (raiseLimited key code o arg s).sch = s.sch :=
  (kept_raiseLimited (μ := 1057810092237567318556672) (Nat.and_self _) (Kept.refl s)).fr.sch rfl
@[simp] theorem raiseLimited_cap (key code : Nat) (o : EvObj) (arg : List Byte) (s : State) : (raiseLimited key code o arg s).cap = s.cap :=
  (kept_raiseLimited (μ := 1057810092237567318556672) (Nat.and_self _) (Kept.refl s)).fr.cap rfl
@[simp] theorem raiseLimited_mtr (key code : Nat) (o : EvObj) (arg : List Byte) (s : State) : (raiseLimited key code o arg s).mtr = s.mtr :=
  (kept_raiseLimited (μ := 1057810092237567318556672) (Nat.and_self _) (Kept.refl s)).fr.mtr rfl
@[simp] theorem raiseLimited_tsk (key code : Nat) (o : EvObj) (arg : List Byte) (s : State) : (raiseLimited key code o arg s).tsk = s.tsk :=
  (kept_raiseLimited (μ := 1057810092237567318556672) (Nat.and_self _) (Kept.refl s)).fr.tsk rfl
@[simp] theorem raiseLimited_arb (key code : Nat) (o : EvObj) (arg : List Byte) (s : State) : (raiseLimited key code o arg s).arb = s.arb :=
  (kept_raiseLimited (μ := 1057810092237567318556672) (Nat.and_self _) (Kept.refl s)).fr.arb rfl
@[simp] theorem raiseLimited_pub (key code : Nat) (o : EvObj) (arg : List Byte) (s : State) : (raiseLimited key code o arg s).pub = s.pub :=
  (kept_raiseLimited (μ := 1057810092237567318556672) (Nat.and_self _) (Kept.refl s)).fr.pub rfl
@[simp] theorem raiseLimited_cfg (key code : Nat) (o : EvObj) (arg : List Byte) (s : State) : (raiseLimited key code o arg s).cfg = s.cfg :=
  (kept_raiseLimited (μ := 1057810092237567318556672) (Nat.and_self _) (Kept.refl s)).fr.cfg rfl
@[simp] theorem raiseLimited_pair (key code : Nat) (o : EvObj) (arg : List Byte) (s : State) : (raiseLimited key code o arg s).pair = s.pair :=
  (kept_raiseLimited (μ := 1057810092237567318556672) (Nat.and_self _) (Kept.refl s)).fr.pair rfl
@[simp] theorem raiseLimited_sec (key code : Nat) (o : EvObj) (arg : List Byte) (s : State) : (raiseLimited key code o arg s).sec = s.sec :=
  (kept_raiseLimited (μ := 1057810092237567318556672) (Nat.and_self _) (Kept.refl s)).fr.sec rfl
@[simp] theorem raiseLimited_nv (key code : Nat) (o : EvObj) (arg : List Byte) (s : State) : (raiseLimited key code o arg s).nv = s.nv :=
  (kept_raiseLimited (μ := 1057810092237567318556672) (Nat.and_self _) (Kept.refl s)).fr.nv rfl
@[simp] theorem raiseLimited_vbat (key code : Nat) (o : EvObj) (arg : List Byte) (s : State) : (raiseLimited key code o arg s).vbat = s.vbat :=
  (kept_raiseLimited (μ := 1057810092237567318556672) (Nat.and_self _) (Kept.refl s)).fr.vbat rfl
@[simp] theorem raiseLimited_part (key code : Nat) (o : EvObj) (arg : List Byte) (s : State) : (raiseLimited key code o arg s).part = s.part :=
  (kept_raiseLimited (μ := 1057810092237567318556672) (Nat.and_self _) (Kept.refl s)).part
@[simp] theorem raiseLimited_fuses (key code : Nat) (o : EvObj) (arg : List Byte) (s : State) : (raiseLimited key code o arg s).fuses = s.fuses :=
  (kept_raiseLimited (μ := 1057810092237567318556672) (Nat.and_self _) (Kept.refl s)).fr.fuses rfl
@[simp] theorem raiseLimited_pwr (key code : Nat) (o : EvObj) (arg : List Byte) (s : State) : (raiseLimited key code o arg s).pwr = s.pwr :=
  (kept_raiseLimited (μ := 1057810092237567318556672) (Nat.and_self _) (Kept.refl s)).fr.pwr rfl
@[simp] theorem raiseLimited_cnt (key code : Nat) (o : EvObj) (arg : List Byte) (s : State) : (raiseLimited key code o arg s).cnt = s.cnt :=
  (kept_raiseLimited (μ := 1057810092237567318556672) (Nat.and_self _) (Kept.refl s)).fr.cnt rfl
@[simp] theorem raiseLimited_free (key code : Nat) (o : EvObj) (arg : List Byte) (s : State) : (raiseLimited key code o arg s).free = s.free :=
  (kept_raiseLimited (μ := 1057810092237567318556672) (Nat.and_self _) (Kept.refl s)).fr.free rfl

@[simp] theorem halfRange_pending (off win : Nat) (o : EvObj) (s : State) : (halfRange off win o s).pending = s.pending :=
  (kept_halfRange (μ := 906694364794534764740608) (Nat.and_self _) (Kept.refl s)).pending
@[simp] theorem halfRange_tb (off win : Nat) (o : EvObj) (s : State) : (halfRange off win o s).tb = s.tb :=
  (kept_halfRange (μ := 906694364794534764740608) (Nat.and_self _) (Kept.refl s)).fr.tb rfl
@[simp] theorem halfRange_eth (off win : Nat) (o : EvObj) (s : State) : (halfRange off win o s).eth = s.eth :=
  (kept_halfRange (μ := 906694364794534764740608) (Nat.and_self _) (Kept.refl s)).fr.eth rfl
@[simp] theorem halfRange_ing (off win : Nat) (o : EvObj) (s : State) : (halfRange off win o s).ing = s.ing :=
  (kept_halfRange (μ := 906694364794534764740608) (Nat.and_self _) (Kept.refl s)).fr.ing rfl
@[simp] theorem halfRange_aln (off win : Nat) (o : EvObj) (s : State) : (halfRange off win o s).aln = s.aln :=
  (kept_halfRange (μ := 906694364794534764740608) (Nat.and_self _) (Kept.refl s)).fr.aln rfl
@[simp] theorem halfRange_svf (off win : Nat) (o : EvObj) (s : State) : (halfRange off win o s).svf = s.svf :=
  (kept_halfRange (μ := 906694364794534764740608) (Nat.and_self _) (Kept.refl s)).fr.svf rfl
@[simp] theorem halfRange_osc (off win : Nat) (o : EvObj) (s : State) : (halfRange off win o s).osc = s.osc :=
  (kept_halfRange (μ := 906694364794534764740608) (Nat.and_self _) (Kept.refl s)).fr.osc rfl
@[simp] theorem halfRange_isl (off win : Nat) (o : EvObj) (s : State) : (halfRange off win o s).isl = s.isl :=
  (kept_halfRange (μ := 906694364794534764740608) (Nat.and_self _) (Kept.refl s)).fr.isl rfl
@[simp] theorem halfRange_sch (off win : Nat) (o : EvObj) (s : State) : (halfRange off win o s).sch = s.sch :=
  (kept_halfRange (μ := 906694364794534764740608) (Nat.and_self _) (Kept.refl s)).fr.sch rfl
@[simp] theorem halfRange_cap (off win : Nat) (o : EvObj) (s : State) : (halfRange off win o s).cap = s.cap :=
  (kept_halfRange (μ := 906694364794534764740608) (Nat.and_self _) (Kept.refl s)).fr.cap rfl
@[simp] theorem halfRange_mtr (off win : Nat) (o : EvObj) (s : State) : (halfRange off win o s).mtr = s.mtr :=
  (kept_halfRange (μ := 906694364794534764740608) (Nat.and_self _) (Kept.refl s)).fr.mtr rfl
@[simp] theorem halfRange_tsk (off win : Nat) (o : EvObj) (s : State) : (halfRange off win o s).tsk = s.tsk :=
  (kept_halfRange (μ := 906694364794534764740608) (Nat.and_self _) (Kept.refl s)).fr.tsk rfl
@[simp] theorem halfRange_arb (off win : Nat) (o : EvObj) (s : State) : (halfRange off win o s).arb = s.arb :=
  (kept_halfRange (μ := 906694364794534764740608) (Nat.and_self _) (Kept.refl s)).fr.arb rfl
@[simp] theorem halfRange_pub (off win : Nat) (o : EvObj) (s : State) : (halfRange off win o s).pub = s.pub :=
  (kept_halfRange (μ := 906694364794534764740608) (Nat.and_self _) (Kept.refl s)).fr.pub rfl
@[simp] theorem halfRange_cfg (off win : Nat) (o : EvObj) (s : State) : (halfRange off win o s).cfg = s.cfg :=
  (kept_halfRange (μ := 906694364794534764740608) (Nat.and_self _) (Kept.refl s)).fr.cfg rfl
@[simp] theorem halfRange_pair (off win : Nat) (o : EvObj) (s : State) : (halfRange off win o s).pair = s.pair :=
  (kept_halfRange (μ := 906694364794534764740608) (Nat.and_self _) (Kept.refl s)).fr.pair rfl
@[simp] theorem halfRange_sec (off win : Nat) (o : EvObj) (s : State) : (halfRange off win o s).sec = s.sec :=
  (kept_halfRange (μ := 906694364794534764740608) (Nat.and_self _) (Kept.refl s)).fr.sec rfl
@[simp] theorem halfRange_nv (off win : Nat) (o : EvObj) (s : State) : (halfRange off win o s).nv = s.nv :=
  (kept_halfRange (μ := 906694364794534764740608) (Nat.and_self _) (Kept.refl s)).fr.nv rfl
@[simp] theorem halfRange_vbat (off win : Nat) (o : EvObj) (s : State) : (halfRange off win o s).vbat = s.vbat :=
  (kept_halfRange (μ := 906694364794534764740608) (Nat.and_self _) (Kept.refl s)).fr.vbat rfl
@[simp] theorem halfRange_part (off win : Nat) (o : EvObj) (s : State) : (halfRange off win o s).part = s.part :=
  (kept_halfRange (μ := 906694364794534764740608) (Nat.and_self _) (Kept.refl s)).part
@[simp] theorem halfRange_fuses (off win : Nat) (o : EvObj) (s : State) : (halfRange off win o s).fuses = s.fuses :=
  (kept_halfRange (μ := 906694364794534764740608) (Nat.and_self _) (Kept.refl s)).fr.fuses rfl
@[simp] theorem halfRange_pwr (off win : Nat) (o : EvObj) (s : State) : (halfRange off win o s).pwr = s.pwr :=
  (kept_halfRange (μ := 906694364794534764740608) (Nat.and_self _) (Kept.refl s)).fr.pwr rfl
@[simp] theorem halfRange_cnt (off win : Nat) (o : EvObj) (s : State) : (halfRange off win o s).cnt = s.cnt :=
  (kept_halfRange (μ := 906694364794534764740608) (Nat.and_self _) (Kept.refl s)).fr.cnt rfl
@[simp] theorem halfRange_limits (off win : Nat) (o : EvObj) (s : State) : (halfRange off win o s).limits = s.limits :=
  (kept_halfRange (μ := 906694364794534764740608) (Nat.and_self _) (Kept.refl s)).fr.limits rfl
@[simp] theorem halfRange_free (off win : Nat) (o : EvObj) (s : State) : (halfRange off win o s).free = s.free :=
  (kept_halfRange (μ := 906694364794534764740608) (Nat.and_self _) (Kept.refl s)).fr.free rfl

@[simp] theorem countW_pending (off win : Nat) (o : EvObj) (s : State) : (countW off win o s).pending = s.pending :=
  (kept_countW (μ := 982252228520449088159744) (Nat.and_self _) (Kept.refl s)).pending
@[simp] theorem countW_tb (off win : Nat) (o : EvObj) (s : State) : (countW off win o s).tb = s.tb :=
  (kept_countW (μ := 982252228520449088159744) (Nat.and_self _) (Kept.refl s)).fr.tb rfl
@[simp] theorem countW_eth (off win : Nat) (o : EvObj) (s : State) : (countW off win o s).eth = s.eth :=
  (kept_countW (μ := 982252228520449088159744) (Nat.and_self _) (Kept.refl s)).fr.eth rfl
@[simp] theorem countW_ing (off win : Nat) (o : EvObj) (s : State) : (countW off win o s).ing = s.ing :=
  (kept_countW (μ := 982252228520449088159744) (Nat.and_self _) (Kept.refl s)).fr.ing rfl
@[simp] theorem countW_aln (off win : Nat) (o : EvObj) (s : State) : (countW off win o s).aln = s.aln :=
  (kept_countW (μ := 982252228520449088159744) (Nat.and_self _) (Kept.refl s)).fr.aln rfl
@[simp] theorem countW_svf (off win : Nat) (o : EvObj) (s : State) : (countW off win o s).svf = s.svf :=
  (kept_countW (μ := 982252228520449088159744) (Nat.and_self _) (Kept.refl s)).fr.svf rfl
@[simp] theorem countW_osc (off win : Nat) (o : EvObj) (s : State) : (countW off win o s).osc = s.osc :=
  (kept_countW (μ := 982252228520449088159744) (Nat.and_self _) (Kept.refl s)).fr.osc rfl
@[simp] theorem countW_isl (off win : Nat) (o : EvObj) (s : State) : (countW off win o s).isl = s.isl :=
  (kept_countW (μ := 982252228520449088159744) (Nat.and_self _) (Kept.refl s)).fr.isl rfl
@[simp] theorem countW_sch (off win : Nat) (o : EvObj) (s : State) : (countW off win o s).sch = s.sch :=
  (kept_countW (μ := 982252228520449088159744) (Nat.and_self _) (Kept.refl s)).fr.sch rfl
@[simp] theorem countW_cap (off win : Nat) (o : EvObj) (s : State) : (countW off win o s).cap = s.cap :=
  (kept_countW (μ := 982252228520449088159744) (Nat.and_self _) (Kept.refl s)).fr.cap rfl
@[simp] theorem countW_mtr (off win : Nat) (o : EvObj) (s : State) : (countW off win o s).mtr = s.mtr :=
  (kept_countW (μ := 982252228520449088159744) (Nat.and_self _) (Kept.refl s)).fr.mtr rfl
@[simp] theorem countW_tsk (off win : Nat) (o : EvObj) (s : State) : (countW off win o s).tsk = s.tsk :=
  (kept_countW (μ := 982252228520449088159744) (Nat.and_self _) (Kept.refl s)).fr.tsk rfl
@[simp] theorem countW_arb (off win : Nat) (o : EvObj) (s : State) : (countW off win o s).arb = s.arb :=
  (kept_countW (μ := 982252228520449088159744) (Nat.and_self _) (Kept.refl s)).fr.arb rfl
@[simp] theorem countW_pub (off win : Nat) (o : EvObj) (s : State) : (countW off win o s).pub = s.pub :=
  (kept_countW (μ := 982252228520449088159744) (Nat.and_self _) (Kept.refl s)).fr.pub rfl
@[simp] theorem countW_cfg (off win : Nat) (o : EvObj) (s : State) : (countW off win o s).cfg = s.cfg :=
  (kept_countW (μ := 982252228520449088159744) (Nat.and_self _) (Kept.refl s)).fr.cfg rfl
@[simp] theorem countW_pair (off win : Nat) (o : EvObj) (s : State) : (countW off win o s).pair = s.pair :=
  (kept_countW (μ := 982252228520449088159744) (Nat.and_self _) (Kept.refl s)).fr.pair rfl
@[simp] theorem countW_sec (off win : Nat) (o : EvObj) (s : State) : (countW off win o s).sec = s.sec :=
  (kept_countW (μ := 982252228520449088159744) (Nat.and_self _) (Kept.refl s)).fr.sec rfl
@[simp] theorem countW_nv (off win : Nat) (o : EvObj) (s : State) : (countW off win o s).nv = s.nv :=
  (kept_countW (μ := 982252228520449088159744) (Nat.and_self _) (Kept.refl s)).fr.nv rfl
@[simp] theorem countW_vbat (off win : Nat) (o : EvObj) (s : State) : (countW off win o s).vbat = s.vbat :=
  (kept_countW (μ := 982252228520449088159744) (Nat.and_self _) (Kept.refl s)).fr.vbat rfl
@[simp] theorem countW_part (off win : Nat) (o : EvObj) (s : State) : (countW off win o s).part = s.part :=
  (kept_countW (μ := 982252228520449088159744) (Nat.and_self _) (Kept.refl s)).part
@[simp] theorem countW_fuses (off win : Nat) (o : EvObj) (s : State) : (countW off win o s).fuses = s.fuses :=
  (kept_countW (μ := 982252228520449088159744) (Nat.and_self _) (Kept.refl s)).fr.fuses rfl
@[simp] theorem countW_pwr (off win : Nat) (o : EvObj) (s : State) : (countW off win o s).pwr = s.pwr :=
  (kept_countW (μ := 982252228520449088159744) (Nat.and_self _) (Kept.refl s)).fr.pwr rfl
@[simp] theorem countW_limits (off win : Nat) (o : EvObj) (s : State) : (countW off win o s).limits = s.limits :=
  (kept_countW (μ := 982252228520449088159744) (Nat.and_self _) (Kept.refl s)).fr.limits rfl
@[simp] theorem countW_free (off win : Nat) (o : EvObj) (s : State) : (countW off win o s).free = s.free :=
  (kept_countW (μ := 982252228520449088159744) (Nat.and_self _) (Kept.refl s)).fr.free rfl

@[simp] theorem count_pending (off : Nat) (s : State) : (count off s).pending = s.pending :=
  (kept_count (μ := 982252228520449088159744) (Nat.and_self _) (Kept.refl s)).pending
@[simp] theorem count_tb (off : Nat) (s : State) : (count off s).tb = s.tb :=
  (kept_count (μ := 982252228520449088159744) (Nat.and_self _) (Kept.refl s)).fr.tb rfl
@[simp] theorem count_eth (off : Nat) (s : State) : (count off s).eth = s.eth :=
  (kept_count (μ := 982252228520449088159744) (Nat.and_self _) (Kept.refl s)).fr.eth rfl
@[simp] theorem count_ing (off : Nat) (s : State) : (count off s).ing = s.ing :=
  (kept_count (μ := 982252228520449088159744) (Nat.and_self _) (Kept.refl s)).fr.ing rfl
@[simp] theorem count_aln (off : Nat) (s : State) : (count off s).aln = s.aln :=
  (kept_count (μ := 982252228520449088159744) (Nat.and_self _) (Kept.refl s)).fr.aln rfl
@[simp] theorem count_svf (off : Nat) (s : State) : (count off s).svf = s.svf :=
  (kept_count (μ := 982252228520449088159744) (Nat.and_self _) (Kept.refl s)).fr.svf rfl
@[simp] theorem count_osc (off : Nat) (s : State) : (count off s).osc = s.osc :=
  (kept_count (μ := 982252228520449088159744) (Nat.and_self _) (Kept.refl s)).fr.osc rfl
@[simp] theorem count_isl (off : Nat) (s : State) : (count off s).isl = s.isl :=
  (kept_count (μ := 982252228520449088159744) (Nat.and_self _) (Kept.refl s)).fr.isl rfl
@[simp] theorem count_sch (off : Nat) (s : State) : (count off s).sch = s.sch :=
  (kept_count (μ := 982252228520449088159744) (Nat.and_self _) (Kept.refl s)).fr.sch rfl
@[simp] theorem count_cap (off : Nat) (s : State) : (count off s).cap = s.cap :=
  (kept_count (μ := 982252228520449088159744) (Nat.and_self _) (Kept.refl s)).fr.cap rfl
@[simp] theorem count_mtr (off : Nat) (s : State) : (count off s).mtr = s.mtr :=
  (kept_count (μ := 982252228520449088159744) (Nat.and_self _) (Kept.refl s)).fr.mtr rfl
@[simp] theorem count_tsk (off : Nat) (s : State) : (count off s).tsk = s.tsk :=
  (kept_count (μ := 982252228520449088159744) (Nat.and_self _) (Kept.refl s)).fr.tsk rfl
@[simp] theorem count_arb (off : Nat) (s : State) : (count off s).arb = s.arb :=
  (kept_count (μ := 982252228520449088159744) (Nat.and_self _) (Kept.refl s)).fr.arb rfl
@[simp] theorem count_pub (off : Nat) (s : State) : (count off s).pub = s.pub :=
  (kept_count (μ := 982252228520449088159744) (Nat.and_self _) (Kept.refl s)).fr.pub rfl
@[simp] theorem count_cfg (off : Nat) (s : State) : (count off s).cfg = s.cfg :=
  (kept_count (μ := 982252228520449088159744) (Nat.and_self _) (Kept.refl s)).fr.cfg rfl
@[simp] theorem count_pair (off : Nat) (s : State) : (count off s).pair = s.pair :=
  (kept_count (μ := 982252228520449088159744) (Nat.and_self _) (Kept.refl s)).fr.pair rfl
@[simp] theorem count_sec (off : Nat) (s : State) : (count off s).sec = s.sec :=
  (kept_count (μ := 982252228520449088159744) (Nat.and_self _) (Kept.refl s)).fr.sec rfl
@[simp] theorem count_nv (off : Nat) (s : State) : (count off s).nv = s.nv :=
  (kept_count (μ := 982252228520449088159744) (Nat.and_self _) (Kept.refl s)).fr.nv rfl
@[simp] theorem count_vbat (off : Nat) (s : State) : (count off s).vbat = s.vbat :=
  (kept_count (μ := 982252228520449088159744) (Nat.and_self _) (Kept.refl s)).fr.vbat rfl
@[simp] theorem count_part (off : Nat) (s : State) : (count off s).part = s.part :=
  (kept_count (μ := 982252228520449088159744) (Nat.and_self _) (Kept.refl s)).part
@[simp] theorem count_fuses (off : Nat) (s : State) : (count off s).fuses = s.fuses :=
  (kept_count (μ := 982252228520449088159744) (Nat.and_self _) (Kept.refl s)).fr.fuses rfl
@[simp] theorem count_pwr (off : Nat) (s : State) : (count off s).pwr = s.pwr :=
  (kept_count (μ := 982252228520449088159744) (Nat.and_self _) (Kept.refl s)).fr.pwr rfl
@[simp] theorem count_limits (off : Nat) (s : State) : (count off s).limits = s.limits :=
  (kept_count (μ := 982252228520449088159744) (Nat.and_self _) (Kept.refl s)).fr.limits rfl
@[simp] theorem count_free (off : Nat) (s : State) : (count off s).free = s.free :=
  (kept_count (μ := 982252228520449088159744) (Nat.and_self _) (Kept.refl s)).fr.free rfl

@[simp] theorem countN_pending (off win n : Nat) (o : EvObj) (s : State) : (countN off win n o s).pending = s.pending :=
  (kept_countN (μ := 982252228520449088159744) (Nat.and_self _) (Kept.refl s)).pending
@[simp] theorem countN_tb (off win n : Nat) (o : EvObj) (s : State) : (countN off win n o s).tb = s.tb :=
  (kept_countN (μ := 982252228520449088159744) (Nat.and_self _) (Kept.refl s)).fr.tb rfl
@[simp] theorem countN_eth (off win n : Nat) (o : EvObj) (s : State) : (countN off win n o s).eth = s.eth :=
  (kept_countN (μ := 982252228520449088159744) (Nat.and_self _) (Kept.refl s)).fr.eth rfl
@[simp] theorem countN_ing (off win n : Nat) (o : EvObj) (s : State) : (countN off win n o s).ing = s.ing :=
  (kept_countN (μ := 982252228520449088159744) (Nat.and_self _) (Kept.refl s)).fr.ing rfl
@[simp] theorem countN_aln (off win n : Nat) (o : EvObj) (s : State) : (countN off win n o s).aln = s.aln :=
  (kept_countN (μ := 982252228520449088159744) (Nat.and_self _) (Kept.refl s)).fr.aln rfl
@[simp] theorem countN_svf (off win n : Nat) (o : EvObj) (s : State) : (countN off win n o s).svf = s.svf :=
  (kept_countN (μ := 982252228520449088159744) (Nat.and_self _) (Kept.refl s)).fr.svf rfl
@[simp] theorem countN_osc (off win n : Nat) (o : EvObj) (s : State) : (countN off win n o s).osc = s.osc :=
  (kept_countN (μ := 982252228520449088159744) (Nat.and_self _) (Kept.refl s)).fr.osc rfl
@[simp] theorem countN_isl (off win n : Nat) (o : EvObj) (s : State) : (countN off win n o s).isl = s.isl :=
  (kept_countN (μ := 982252228520449088159744) (Nat.and_self _) (Kept.refl s)).fr.isl rfl
@[simp] theorem countN_sch (off win n : Nat) (o : EvObj) (s : State) : (countN off win n o s).sch = s.sch :=
  (kept_countN (μ := 982252228520449088159744) (Nat.and_self _) (Kept.refl s)).fr.sch rfl
@[simp] theorem countN_cap (off win n : Nat) (o : EvObj) (s : State) : (countN off win n o s).cap = s.cap :=
  (kept_countN (μ := 982252228520449088159744) (Nat.and_self _) (Kept.refl s)).fr.cap rfl
@[simp] theorem countN_mtr (off win n : Nat) (o : EvObj) (s : State) : (countN off win n o s).mtr = s.mtr :=
  (kept_countN (μ := 982252228520449088159744) (Nat.and_self _) (Kept.refl s)).fr.mtr rfl
@[simp] theorem countN_tsk (off win n : Nat) (o : EvObj) (s : State) : (countN off win n o s).tsk = s.tsk :=
  (kept_countN (μ := 982252228520449088159744) (Nat.and_self _) (Kept.refl s)).fr.tsk rfl
@[simp] theorem countN_arb (off win n : Nat) (o : EvObj) (s : State) : (countN off win n o s).arb = s.arb :=
  (kept_countN (μ := 982252228520449088159744) (Nat.and_self _) (Kept.refl s)).fr.arb rfl
@[simp] theorem countN_pub (off win n : Nat) (o : EvObj) (s : State) : (countN off win n o s).pub = s.pub :=
  (kept_countN (μ := 982252228520449088159744) (Nat.and_self _) (Kept.refl s)).fr.pub rfl
@[simp] theorem countN_cfg (off win n : Nat) (o : EvObj) (s : State) : (countN off win n o s).cfg = s.cfg :=
  (kept_countN (μ := 982252228520449088159744) (Nat.and_self _) (Kept.refl s)).fr.cfg rfl
@[simp] theorem countN_pair (off win n : Nat) (o : EvObj) (s : State) : (countN off win n o s).pair = s.pair :=
  (kept_countN (μ := 982252228520449088159744) (Nat.and_self _) (Kept.refl s)).fr.pair rfl
@[simp] theorem countN_sec (off win n : Nat) (o : EvObj) (s : State) : (countN off win n o s).sec = s.sec :=
  (kept_countN (μ := 982252228520449088159744) (Nat.and_self _) (Kept.refl s)).fr.sec rfl
@[simp] theorem countN_nv (off win n : Nat) (o : EvObj) (s : State) : (countN off win n o s).nv = s.nv :=
  (kept_countN (μ := 982252228520449088159744) (Nat.and_self _) (Kept.refl s)).fr.nv rfl
@[simp] theorem countN_vbat (off win n : Nat) (o : EvObj) (s : State) : (countN off win n o s).vbat = s.vbat :=
  (kept_countN (μ := 982252228520449088159744) (Nat.and_self _) (Kept.refl s)).fr.vbat rfl
@[simp] theorem countN_part (off win n : Nat) (o : EvObj) (s : State) : (countN off win n o s).part = s.part :=
  (kept_countN (μ := 982252228520449088159744) (Nat.and_self _) (Kept.refl s)).part
@[simp] theorem countN_fuses (off win n : Nat) (o : EvObj) (s : State) : (countN off win n o s).fuses = s.fuses :=
  (kept_countN (μ := 982252228520449088159744) (Nat.and_self _) (Kept.refl s)).fr.fuses rfl
@[simp] theorem countN_pwr (off win n : Nat) (o : EvObj) (s : State) : (countN off win n o s).pwr = s.pwr :=
  (kept_countN (μ := 982252228520449088159744) (Nat.and_self _) (Kept.refl s)).fr.pwr rfl
@[simp] theorem countN_limits (off win n : Nat) (o : EvObj) (s : State) : (countN off win n o s).limits = s.limits :=
  (kept_countN (μ := 982252228520449088159744) (Nat.and_self _) (Kept.refl s)).fr.limits rfl
@[simp] theorem countN_free (off win n : Nat) (o : EvObj) (s : State) : (countN off win n o s).free = s.free :=
  (kept_countN (μ := 982252228520449088159744) (Nat.and_self _) (Kept.refl s)).fr.free rfl

@[simp] theorem flagCount_pending (reg b off : Nat) (s : State) : (flagCount reg b off s).pending = s.pending :=
  (kept_flagCount (μ := 982252228520449088159744) (Nat.and_self _) (Kept.refl s)).pending
@[simp] theorem flagCount_tb (reg b off : Nat) (s : State) : (flagCount reg b off s).tb = s.tb :=
  (kept_flagCount (μ := 982252228520449088159744) (Nat.and_self _) (Kept.refl s)).fr.tb rfl
@[simp] theorem flagCount_eth (reg b off : Nat) (s : State) : (flagCount reg b off s).eth = s.eth :=
  (kept_flagCount (μ := 982252228520449088159744) (Nat.and_self _) (Kept.refl s)).fr.eth rfl
@[simp] theorem flagCount_ing (reg b off : Nat) (s : State) : (flagCount reg b off s).ing = s.ing :=
  (kept_flagCount (μ := 982252228520449088159744) (Nat.and_self _) (Kept.refl s)).fr.ing rfl
@[simp] theorem flagCount_aln (reg b off : Nat) (s : State) : (flagCount reg b off s).aln = s.aln :=
  (kept_flagCount (μ := 982252228520449088159744) (Nat.and_self _) (Kept.refl s)).fr.aln rfl
@[simp] theorem flagCount_svf (reg b off : Nat) (s : State) : (flagCount reg b off s).svf = s.svf :=
  (kept_flagCount (μ := 982252228520449088159744) (Nat.and_self _) (Kept.refl s)).fr.svf rfl
@[simp] theorem flagCount_osc (reg b off : Nat) (s : State) : (flagCount reg b off s).osc = s.osc :=
  (kept_flagCount (μ := 982252228520449088159744) (Nat.and_self _) (Kept.refl s)).fr.osc rfl
@[simp] theorem flagCount_isl (reg b off : Nat) (s : State) : (flagCount reg b off s).isl = s.isl :=
  (kept_flagCount (μ := 982252228520449088159744) (Nat.and_self _) (Kept.refl s)).fr.isl rfl
@[simp] theorem flagCount_sch (reg b off : Nat) (s : State) : (flagCount reg b off s).sch = s.sch :=
  (kept_flagCount (μ := 982252228520449088159744) (Nat.and_self _) (Kept.refl s)).fr.sch rfl
@[simp] theorem flagCount_cap (reg b off : Nat) (s : State) : (flagCount reg b off s).cap = s.cap :=
  (kept_flagCount (μ := 982252228520449088159744) (Nat.and_self _) (Kept.refl s)).fr.cap rfl
@[simp] theorem flagCount_mtr (reg b off : Nat) (s : State) : (flagCount reg b off s).mtr = s.mtr :=
  (kept_flagCount (μ := 982252228520449088159744) (Nat.and_self _) (Kept.refl s)).fr.mtr rfl
@[simp] theorem flagCount_tsk (reg b off : Nat) (s : State) : (flagCount reg b off s).tsk = s.tsk :=
  (kept_flagCount (μ := 982252228520449088159744) (Nat.and_self _) (Kept.refl s)).fr.tsk rfl
@[simp] theorem flagCount_arb (reg b off : Nat) (s : State) : (flagCount reg b off s).arb = s.arb :=
  (kept_flagCount (μ := 982252228520449088159744) (Nat.and_self _) (Kept.refl s)).fr.arb rfl
@[simp] theorem flagCount_pub (reg b off : Nat) (s : State) : (flagCount reg b off s).pub = s.pub :=
  (kept_flagCount (μ := 982252228520449088159744) (Nat.and_self _) (Kept.refl s)).fr.pub rfl
@[simp] theorem flagCount_cfg (reg b off : Nat) (s : State) : (flagCount reg b off s).cfg = s.cfg :=
  (kept_flagCount (μ := 982252228520449088159744) (Nat.and_self _) (Kept.refl s)).fr.cfg rfl
@[simp] theorem flagCount_pair (reg b off : Nat) (s : State) : (flagCount reg b off s).pair = s.pair :=
  (kept_flagCount (μ := 982252228520449088159744) (Nat.and_self _) (Kept.refl s)).fr.pair rfl
@[simp] theorem flagCount_sec (reg b off : Nat) (s : State) : (flagCount reg b off s).sec = s.sec :=
  (kept_flagCount (μ := 982252228520449088159744) (Nat.and_self _) (Kept.refl s)).fr.sec rfl
@[simp] theorem flagCount_nv (reg b off : Nat) (s : State) : (flagCount reg b off s).nv = s.nv :=
  (kept_flagCount (μ := 982252228520449088159744) (Nat.and_self _) (Kept.refl s)).fr.nv rfl
@[simp] theorem flagCount_vbat (reg b off : Nat) (s : State) : (flagCount reg b off s).vbat = s.vbat :=
  (kept_flagCount (μ := 982252228520449088159744) (Nat.and_self _) (Kept.refl s)).fr.vbat rfl
@[simp] theorem flagCount_part (reg b off : Nat) (s : State) : (flagCount reg b off s).part = s.part :=
  (kept_flagCount (μ := 982252228520449088159744) (Nat.and_self _) (Kept.refl s)).part
@[simp] theorem flagCount_fuses (reg b off : Nat) (s : State) : (flagCount reg b off s).fuses = s.fuses :=
  (kept_flagCount (μ := 982252228520449088159744) (Nat.and_self _) (Kept.refl s)).fr.fuses rfl
@[simp] theorem flagCount_pwr (reg b off : Nat) (s : State) : (flagCount reg b off s).pwr = s.pwr :=
  (kept_flagCount (μ := 982252228520449088159744) (Nat.and_self _) (Kept.refl s)).fr.pwr rfl
@[simp] theorem flagCount_limits (reg b off : Nat) (s : State) : (flagCount reg b off s).limits = s.limits :=
  (kept_flagCount (μ := 982252228520449088159744) (Nat.and_self _) (Kept.refl s)).fr.limits rfl
@[simp] theorem flagCount_free (reg b off : Nat) (s : State) : (flagCount reg b off s).free = s.free :=
  (kept_flagCount (μ := 982252228520449088159744) (Nat.and_self _) (Kept.refl s)).fr.free rfl

@[simp] theorem countFn_pending (n off win : Nat) (s : State) : (countFn n off win s).pending = s.pending :=
  (kept_countFn (μ := 906694364829719136829440) (Nat.and_self _) (Kept.refl s)).pending
@[simp] theorem countFn_tb (n off win : Nat) (s : State) : (countFn n off win s).tb = s.tb :=
  (kept_countFn (μ := 906694364829719136829440) (Nat.and_self _) (Kept.refl s)).fr.tb rfl
@[simp] theorem countFn_eth (n off win : Nat) (s : State) : (countFn n off win s).eth = s.eth :=
  (kept_countFn (μ := 906694364829719136829440) (Nat.and_self _) (Kept.refl s)).fr.eth rfl
@[simp] theorem countFn_ing (n off win : Nat) (s : State) : (countFn n off win s).ing = s.ing :=
  (kept_countFn (μ := 906694364829719136829440) (Nat.and_self _) (Kept.refl s)).fr.ing rfl
@[simp] theorem countFn_aln (n off win : Nat) (s : State) : (countFn n off win s).aln = s.aln :=
  (kept_countFn (μ := 906694364829719136829440) (Nat.and_self _) (Kept.refl s)).fr.aln rfl
@[simp] theorem countFn_svf (n off win : Nat) (s : State) : (countFn n off win s).svf = s.svf :=
  (kept_countFn (μ := 906694364829719136829440) (Nat.and_self _) (Kept.refl s)).fr.svf rfl
@[simp] theorem countFn_osc (n off win : Nat) (s : State) : (countFn n off win s).osc = s.osc :=
  (kept_countFn (μ := 906694364829719136829440) (Nat.and_self _) (Kept.refl s)).fr.osc rfl
@[simp] theorem countFn_isl (n off win : Nat) (s : State) : (countFn n off win s).isl = s.isl :=
  (kept_countFn (μ := 906694364829719136829440) (Nat.and_self _) (Kept.refl s)).fr.isl rfl
@[simp] theorem countFn_sch (n off win : Nat) (s : State) : (countFn n off win s).sch = s.sch :=
  (kept_countFn (μ := 906694364829719136829440) (Nat.and_self _) (Kept.refl s)).fr.sch rfl
@[simp] theorem countFn_cap (n off win : Nat) (s : State) : (countFn n off win s).cap = s.cap :=
  (kept_countFn (μ := 906694364829719136829440) (Nat.and_self _) (Kept.refl s)).fr.cap rfl
@[simp] theorem countFn_mtr (n off win : Nat) (s : State) : (countFn n off win s).mtr = s.mtr :=
  (kept_countFn (μ := 906694364829719136829440) (Nat.and_self _) (Kept.refl s)).fr.mtr rfl
@[simp] theorem countFn_tsk (n off win : Nat) (s : State) : (countFn n off win s).tsk = s.tsk :=
  (kept_countFn (μ := 906694364829719136829440) (Nat.and_self _) (Kept.refl s)).fr.tsk rfl
@[simp] theorem countFn_arb (n off win : Nat) (s : State) : (countFn n off win s).arb = s.arb :=
  (kept_countFn (μ := 906694364829719136829440) (Nat.and_self _) (Kept.refl s)).fr.arb rfl
@[simp] theorem countFn_pub (n off win : Nat) (s : State) : (countFn n off win s).pub = s.pub :=
  (kept_countFn (μ := 906694364829719136829440) (Nat.and_self _) (Kept.refl s)).fr.pub rfl
@[simp] theorem countFn_cfg (n off win : Nat) (s : State) : (countFn n off win s).cfg = s.cfg :=
  (kept_countFn (μ := 906694364829719136829440) (Nat.and_self _) (Kept.refl s)).fr.cfg rfl
@[simp] theorem countFn_pair (n off win : Nat) (s : State) : (countFn n off win s).pair = s.pair :=
  (kept_countFn (μ := 906694364829719136829440) (Nat.and_self _) (Kept.refl s)).fr.pair rfl
@[simp] theorem countFn_sec (n off win : Nat) (s : State) : (countFn n off win s).sec = s.sec :=
  (kept_countFn (μ := 906694364829719136829440) (Nat.and_self _) (Kept.refl s)).fr.sec rfl
@[simp] theorem countFn_nv (n off win : Nat) (s : State) : (countFn n off win s).nv = s.nv :=
  (kept_countFn (μ := 906694364829719136829440) (Nat.and_self _) (Kept.refl s)).fr.nv rfl
@[simp] theorem countFn_vbat (n off win : Nat) (s : State) : (countFn n off win s).vbat = s.vbat :=
  (kept_countFn (μ := 906694364829719136829440) (Nat.and_self _) (Kept.refl s)).fr.vbat rfl
@[simp] theorem countFn_part (n off win : Nat) (s : State) : (countFn n off win s).part = s.part :=
  (kept_countFn (μ := 906694364829719136829440) (Nat.and_self _) (Kept.refl s)).part
@[simp] theorem countFn_fuses (n off win : Nat) (s : State) : (countFn n off win s).fuses = s.fuses :=
  (kept_countFn (μ := 906694364829719136829440) (Nat.and_self _) (Kept.refl s)).fr.fuses rfl
@[simp] theorem countFn_pwr (n off win : Nat) (s : State) : (countFn n off win s).pwr = s.pwr :=
  (kept_countFn (μ := 906694364829719136829440) (Nat.and_self _) (Kept.refl s)).fr.pwr rfl
@[simp] theorem countFn_cnt (n off win : Nat) (s : State) : (countFn n off win s).cnt = s.cnt :=
  (kept_countFn (μ := 906694364829719136829440) (Nat.and_self _) (Kept.refl s)).fr.cnt rfl
@[simp] theorem countFn_limits (n off win : Nat) (s : State) : (countFn n off win s).limits = s.limits :=
  (kept_countFn (μ := 906694364829719136829440) (Nat.and_self _) (Kept.refl s)).fr.limits rfl
@[simp] theorem countFn_free (n off win : Nat) (s : State) : (countFn n off win s).free = s.free :=
  (kept_countFn (μ := 906694364829719136829440) (Nat.and_self _) (Kept.refl s)).fr.free rfl

@[simp] theorem hifFlag_pending (n b : Nat) (s : State) : (hifFlag n b s).pending = s.pending :=
  (kept_hifFlag (μ := 83562883710976) (Nat.and_self _) (Kept.refl s)).pending
@[simp] theorem hifFlag_tb (n b : Nat) (s : State) : (hifFlag n b s).tb = s.tb :=
  (kept_hifFlag (μ := 83562883710976) (Nat.and_self _) (Kept.refl s)).fr.tb rfl
@[simp] theorem hifFlag_eth (n b : Nat) (s : State) : (hifFlag n b s).eth = s.eth :=
  (kept_hifFlag (μ := 83562883710976) (Nat.and_self _) (Kept.refl s)).fr.eth rfl
@[simp] theorem hifFlag_ing (n b : Nat) (s : State) : (hifFlag n b s).ing = s.ing :=
  (kept_hifFlag (μ := 83562883710976) (Nat.and_self _) (Kept.refl s)).fr.ing rfl
@[simp] theorem hifFlag_aln (n b : Nat) (s : State) : (hifFlag n b s).aln = s.aln :=
  (kept_hifFlag (μ := 83562883710976) (Nat.and_self _) (Kept.refl s)).fr.aln rfl
@[simp] theorem hifFlag_svf (n b : Nat) (s : State) : (hifFlag n b s).svf = s.svf :=
  (kept_hifFlag (μ := 83562883710976) (Nat.and_self _) (Kept.refl s)).fr.svf rfl
@[simp] theorem hifFlag_osc (n b : Nat) (s : State) : (hifFlag n b s).osc = s.osc :=
  (kept_hifFlag (μ := 83562883710976) (Nat.and_self _) (Kept.refl s)).fr.osc rfl
@[simp] theorem hifFlag_isl (n b : Nat) (s : State) : (hifFlag n b s).isl = s.isl :=
  (kept_hifFlag (μ := 83562883710976) (Nat.and_self _) (Kept.refl s)).fr.isl rfl
@[simp] theorem hifFlag_sch (n b : Nat) (s : State) : (hifFlag n b s).sch = s.sch :=
  (kept_hifFlag (μ := 83562883710976) (Nat.and_self _) (Kept.refl s)).fr.sch rfl
@[simp] theorem hifFlag_cap (n b : Nat) (s : State) : (hifFlag n b s).cap = s.cap :=
  (kept_hifFlag (μ := 83562883710976) (Nat.and_self _) (Kept.refl s)).fr.cap rfl
@[simp] theorem hifFlag_mtr (n b : Nat) (s : State) : (hifFlag n b s).mtr = s.mtr :=
  (kept_hifFlag (μ := 83562883710976) (Nat.and_self _) (Kept.refl s)).fr.mtr rfl
@[simp] theorem hifFlag_tsk (n b : Nat) (s : State) : (hifFlag n b s).tsk = s.tsk :=
  (kept_hifFlag (μ := 83562883710976) (Nat.and_self _) (Kept.refl s)).fr.tsk rfl
@[simp] theorem hifFlag_arb (n b : Nat) (s : State) : (hifFlag n b s).arb = s.arb :=
  (kept_hifFlag (μ := 83562883710976) (Nat.and_self _) (Kept.refl s)).fr.arb rfl
@[simp] theorem hifFlag_pub (n b : Nat) (s : State) : (hifFlag n b s).pub = s.pub :=
  (kept_hifFlag (μ := 83562883710976) (Nat.and_self _) (Kept.refl s)).fr.pub rfl
@[simp] theorem hifFlag_cfg (n b : Nat) (s : State) : (hifFlag n b s).cfg = s.cfg :=
  (kept_hifFlag (μ := 83562883710976) (Nat.and_self _) (Kept.refl s)).fr.cfg rfl
@[simp] theorem hifFlag_pair (n b : Nat) (s : State) : (hifFlag n b s).pair = s.pair :=
  (kept_hifFlag (μ := 83562883710976) (Nat.and_self _) (Kept.refl s)).fr.pair rfl
@[simp] theorem hifFlag_sec (n b : Nat) (s : State) : (hifFlag n b s).sec = s.sec :=
  (kept_hifFlag (μ := 83562883710976) (Nat.and_self _) (Kept.refl s)).fr.sec rfl
@[simp] theorem hifFlag_nv (n b : Nat) (s : State) : (hifFlag n b s).nv = s.nv :=
  (kept_hifFlag (μ := 83562883710976) (Nat.and_self _) (Kept.refl s)).fr.nv rfl
@[simp] theorem hifFlag_vbat (n b : Nat) (s : State) : (hifFlag n b s).vbat = s.vbat :=
  (kept_hifFlag (μ := 83562883710976) (Nat.and_self _) (Kept.refl s)).fr.vbat rfl
@[simp] theorem hifFlag_part (n b : Nat) (s : State) : (hifFlag n b s).part = s.part :=
  (kept_hifFlag (μ := 83562883710976) (Nat.and_self _) (Kept.refl s)).part
@[simp] theorem hifFlag_fuses (n b : Nat) (s : State) : (hifFlag n b s).fuses = s.fuses :=
  (kept_hifFlag (μ := 83562883710976) (Nat.and_self _) (Kept.refl s)).fr.fuses rfl
@[simp] theorem hifFlag_pwr (n b : Nat) (s : State) : (hifFlag n b s).pwr = s.pwr :=
  (kept_hifFlag (μ := 83562883710976) (Nat.and_self _) (Kept.refl s)).fr.pwr rfl
@[simp] theorem hifFlag_cnt (n b : Nat) (s : State) : (hifFlag n b s).cnt = s.cnt :=
  (kept_hifFlag (μ := 83562883710976) (Nat.and_self _) (Kept.refl s)).fr.cnt rfl
@[simp] theorem hifFlag_limits (n b : Nat) (s : State) : (hifFlag n b s).limits = s.limits :=
  (kept_hifFlag (μ := 83562883710976) (Nat.and_self _) (Kept.refl s)).fr.limits rfl
@[simp] theorem hifFlag_evLog (n b : Nat) (s : State) : (hifFlag n b s).evLog = s.evLog :=
  (kept_hifFlag (μ := 83562883710976) (Nat.and_self _) (Kept.refl s)).fr.evLog rfl
@[simp] theorem hifFlag_evLogSeq (n b : Nat) (s : State) : (hifFlag n b s).evLogSeq = s.evLogSeq :=
  (kept_hifFlag (μ := 83562883710976) (Nat.and_self _) (Kept.refl s)).fr.evLogSeq rfl
@[simp] theorem hifFlag_free (n b : Nat) (s : State) : (hifFlag n b s).free = s.free :=
  (kept_hifFlag (μ := 83562883710976) (Nat.and_self _) (Kept.refl s)).fr.free rfl

@[simp] theorem setFnReg_pending (s : State) (n off : Nat) (v : Word) : (setFnReg s n off v).pending = s.pending :=
  (kept_setFnReg (μ := 13194139533312) (Nat.and_self _) (Kept.refl s)).pending
@[simp] theorem setFnReg_tb (s : State) (n off : Nat) (v : Word) : (setFnReg s n off v).tb = s.tb :=
  (kept_setFnReg (μ := 13194139533312) (Nat.and_self _) (Kept.refl s)).fr.tb rfl
@[simp] theorem setFnReg_eth (s : State) (n off : Nat) (v : Word) : (setFnReg s n off v).eth = s.eth :=
  (kept_setFnReg (μ := 13194139533312) (Nat.and_self _) (Kept.refl s)).fr.eth rfl
@[simp] theorem setFnReg_ing (s : State) (n off : Nat) (v : Word) : (setFnReg s n off v).ing = s.ing :=
  (kept_setFnReg (μ := 13194139533312) (Nat.and_self _) (Kept.refl s)).fr.ing rfl
@[simp] theorem setFnReg_aln (s : State) (n off : Nat) (v : Word) : (setFnReg s n off v).aln = s.aln :=
  (kept_setFnReg (μ := 13194139533312) (Nat.and_self _) (Kept.refl s)).fr.aln rfl
@[simp] theorem setFnReg_svf (s : State) (n off : Nat) (v : Word) : (setFnReg s n off v).svf = s.svf :=
  (kept_setFnReg (μ := 13194139533312) (Nat.and_self _) (Kept.refl s)).fr.svf rfl
@[simp] theorem setFnReg_osc (s : State) (n off : Nat) (v : Word) : (setFnReg s n off v).osc = s.osc :=
  (kept_setFnReg (μ := 13194139533312) (Nat.and_self _) (Kept.refl s)).fr.osc rfl
@[simp] theorem setFnReg_isl (s : State) (n off : Nat) (v : Word) : (setFnReg s n off v).isl = s.isl :=
  (kept_setFnReg (μ := 13194139533312) (Nat.and_self _) (Kept.refl s)).fr.isl rfl
@[simp] theorem setFnReg_sch (s : State) (n off : Nat) (v : Word) : (setFnReg s n off v).sch = s.sch :=
  (kept_setFnReg (μ := 13194139533312) (Nat.and_self _) (Kept.refl s)).fr.sch rfl
@[simp] theorem setFnReg_cap (s : State) (n off : Nat) (v : Word) : (setFnReg s n off v).cap = s.cap :=
  (kept_setFnReg (μ := 13194139533312) (Nat.and_self _) (Kept.refl s)).fr.cap rfl
@[simp] theorem setFnReg_mtr (s : State) (n off : Nat) (v : Word) : (setFnReg s n off v).mtr = s.mtr :=
  (kept_setFnReg (μ := 13194139533312) (Nat.and_self _) (Kept.refl s)).fr.mtr rfl
@[simp] theorem setFnReg_tsk (s : State) (n off : Nat) (v : Word) : (setFnReg s n off v).tsk = s.tsk :=
  (kept_setFnReg (μ := 13194139533312) (Nat.and_self _) (Kept.refl s)).fr.tsk rfl
@[simp] theorem setFnReg_arb (s : State) (n off : Nat) (v : Word) : (setFnReg s n off v).arb = s.arb :=
  (kept_setFnReg (μ := 13194139533312) (Nat.and_self _) (Kept.refl s)).fr.arb rfl
@[simp] theorem setFnReg_pub (s : State) (n off : Nat) (v : Word) : (setFnReg s n off v).pub = s.pub :=
  (kept_setFnReg (μ := 13194139533312) (Nat.and_self _) (Kept.refl s)).fr.pub rfl
@[simp] theorem setFnReg_cfg (s : State) (n off : Nat) (v : Word) : (setFnReg s n off v).cfg = s.cfg :=
  (kept_setFnReg (μ := 13194139533312) (Nat.and_self _) (Kept.refl s)).fr.cfg rfl
@[simp] theorem setFnReg_pair (s : State) (n off : Nat) (v : Word) : (setFnReg s n off v).pair = s.pair :=
  (kept_setFnReg (μ := 13194139533312) (Nat.and_self _) (Kept.refl s)).fr.pair rfl
@[simp] theorem setFnReg_sec (s : State) (n off : Nat) (v : Word) : (setFnReg s n off v).sec = s.sec :=
  (kept_setFnReg (μ := 13194139533312) (Nat.and_self _) (Kept.refl s)).fr.sec rfl
@[simp] theorem setFnReg_nv (s : State) (n off : Nat) (v : Word) : (setFnReg s n off v).nv = s.nv :=
  (kept_setFnReg (μ := 13194139533312) (Nat.and_self _) (Kept.refl s)).fr.nv rfl
@[simp] theorem setFnReg_vbat (s : State) (n off : Nat) (v : Word) : (setFnReg s n off v).vbat = s.vbat :=
  (kept_setFnReg (μ := 13194139533312) (Nat.and_self _) (Kept.refl s)).fr.vbat rfl
@[simp] theorem setFnReg_part (s : State) (n off : Nat) (v : Word) : (setFnReg s n off v).part = s.part :=
  (kept_setFnReg (μ := 13194139533312) (Nat.and_self _) (Kept.refl s)).part
@[simp] theorem setFnReg_fuses (s : State) (n off : Nat) (v : Word) : (setFnReg s n off v).fuses = s.fuses :=
  (kept_setFnReg (μ := 13194139533312) (Nat.and_self _) (Kept.refl s)).fr.fuses rfl
@[simp] theorem setFnReg_pwr (s : State) (n off : Nat) (v : Word) : (setFnReg s n off v).pwr = s.pwr :=
  (kept_setFnReg (μ := 13194139533312) (Nat.and_self _) (Kept.refl s)).fr.pwr rfl
@[simp] theorem setFnReg_cnt (s : State) (n off : Nat) (v : Word) : (setFnReg s n off v).cnt = s.cnt :=
  (kept_setFnReg (μ := 13194139533312) (Nat.and_self _) (Kept.refl s)).fr.cnt rfl
@[simp] theorem setFnReg_limits (s : State) (n off : Nat) (v : Word) : (setFnReg s n off v).limits = s.limits :=
  (kept_setFnReg (μ := 13194139533312) (Nat.and_self _) (Kept.refl s)).fr.limits rfl
@[simp] theorem setFnReg_evLog (s : State) (n off : Nat) (v : Word) : (setFnReg s n off v).evLog = s.evLog :=
  (kept_setFnReg (μ := 13194139533312) (Nat.and_self _) (Kept.refl s)).fr.evLog rfl
@[simp] theorem setFnReg_evLogSeq (s : State) (n off : Nat) (v : Word) : (setFnReg s n off v).evLogSeq = s.evLogSeq :=
  (kept_setFnReg (μ := 13194139533312) (Nat.and_self _) (Kept.refl s)).fr.evLogSeq rfl
@[simp] theorem setFnReg_free (s : State) (n off : Nat) (v : Word) : (setFnReg s n off v).free = s.free :=
  (kept_setFnReg (μ := 13194139533312) (Nat.and_self _) (Kept.refl s)).fr.free rfl

@[simp] theorem setFlag1_pending (s : State) (n off b : Nat) : (setFlag1 s n off b).pending = s.pending :=
  (kept_setFlag1 (μ := 13194139533312) (Nat.and_self _) (Kept.refl s)).pending
@[simp] theorem setFlag1_tb (s : State) (n off b : Nat) : (setFlag1 s n off b).tb = s.tb :=
  (kept_setFlag1 (μ := 13194139533312) (Nat.and_self _) (Kept.refl s)).fr.tb rfl
@[simp] theorem setFlag1_eth (s : State) (n off b : Nat) : (setFlag1 s n off b).eth = s.eth :=
  (kept_setFlag1 (μ := 13194139533312) (Nat.and_self _) (Kept.refl s)).fr.eth rfl
@[simp] theorem setFlag1_ing (s : State) (n off b : Nat) : (setFlag1 s n off b).ing = s.ing :=
  (kept_setFlag1 (μ := 13194139533312) (Nat.and_self _) (Kept.refl s)).fr.ing rfl
@[simp] theorem setFlag1_aln (s : State) (n off b : Nat) : (setFlag1 s n off b).aln = s.aln :=
  (kept_setFlag1 (μ := 13194139533312) (Nat.and_self _) (Kept.refl s)).fr.aln rfl
@[simp] theorem setFlag1_svf (s : State) (n off b : Nat) : (setFlag1 s n off b).svf = s.svf :=
  (kept_setFlag1 (μ := 13194139533312) (Nat.and_self _) (Kept.refl s)).fr.svf rfl
@[simp] theorem setFlag1_osc (s : State) (n off b : Nat) : (setFlag1 s n off b).osc = s.osc :=
  (kept_setFlag1 (μ := 13194139533312) (Nat.and_self _) (Kept.refl s)).fr.osc rfl
@[simp] theorem setFlag1_isl (s : State) (n off b : Nat) : (setFlag1 s n off b).isl = s.isl :=
  (kept_setFlag1 (μ := 13194139533312) (Nat.and_self _) (Kept.refl s)).fr.isl rfl
@[simp] theorem setFlag1_sch (s : State) (n off b : Nat) : (setFlag1 s n off b).sch = s.sch :=
  (kept_setFlag1 (μ := 13194139533312) (Nat.and_self _) (Kept.refl s)).fr.sch rfl
@[simp] theorem setFlag1_cap (s : State) (n off b : Nat) : (setFlag1 s n off b).cap = s.cap :=
  (kept_setFlag1 (μ := 13194139533312) (Nat.and_self _) (Kept.refl s)).fr.cap rfl
@[simp] theorem setFlag1_mtr (s : State) (n off b : Nat) : (setFlag1 s n off b).mtr = s.mtr :=
  (kept_setFlag1 (μ := 13194139533312) (Nat.and_self _) (Kept.refl s)).fr.mtr rfl
@[simp] theorem setFlag1_tsk (s : State) (n off b : Nat) : (setFlag1 s n off b).tsk = s.tsk :=
  (kept_setFlag1 (μ := 13194139533312) (Nat.and_self _) (Kept.refl s)).fr.tsk rfl
@[simp] theorem setFlag1_arb (s : State) (n off b : Nat) : (setFlag1 s n off b).arb = s.arb :=
  (kept_setFlag1 (μ := 13194139533312) (Nat.and_self _) (Kept.refl s)).fr.arb rfl
@[simp] theorem setFlag1_pub (s : State) (n off b : Nat) : (setFlag1 s n off b).pub = s.pub :=
  (kept_setFlag1 (μ := 13194139533312) (Nat.and_self _) (Kept.refl s)).fr.pub rfl
@[simp] theorem setFlag1_cfg (s : State) (n off b : Nat) : (setFlag1 s n off b).cfg = s.cfg :=
  (kept_setFlag1 (μ := 13194139533312) (Nat.and_self _) (Kept.refl s)).fr.cfg rfl
@[simp] theorem setFlag1_pair (s : State) (n off b : Nat) : (setFlag1 s n off b).pair = s.pair :=
  (kept_setFlag1 (μ := 13194139533312) (Nat.and_self _) (Kept.refl s)).fr.pair rfl
@[simp] theorem setFlag1_sec (s : State) (n off b : Nat) : (setFlag1 s n off b).sec = s.sec :=
  (kept_setFlag1 (μ := 13194139533312) (Nat.and_self _) (Kept.refl s)).fr.sec rfl
@[simp] theorem setFlag1_nv (s : State) (n off b : Nat) : (setFlag1 s n off b).nv = s.nv :=
  (kept_setFlag1 (μ := 13194139533312) (Nat.and_self _) (Kept.refl s)).fr.nv rfl
@[simp] theorem setFlag1_vbat (s : State) (n off b : Nat) : (setFlag1 s n off b).vbat = s.vbat :=
  (kept_setFlag1 (μ := 13194139533312) (Nat.and_self _) (Kept.refl s)).fr.vbat rfl
@[simp] theorem setFlag1_part (s : State) (n off b : Nat) : (setFlag1 s n off b).part = s.part :=
  (kept_setFlag1 (μ := 13194139533312) (Nat.and_self _) (Kept.refl s)).part
@[simp] theorem setFlag1_fuses (s : State) (n off b : Nat) : (setFlag1 s n off b).fuses = s.fuses :=
  (kept_setFlag1 (μ := 13194139533312) (Nat.and_self _) (Kept.refl s)).fr.fuses rfl
@[simp] theorem setFlag1_pwr (s : State) (n off b : Nat) : (setFlag1 s n off b).pwr = s.pwr :=
  (kept_setFlag1 (μ := 13194139533312) (Nat.and_self _) (Kept.refl s)).fr.pwr rfl
@[simp] theorem setFlag1_cnt (s : State) (n off b : Nat) : (setFlag1 s n off b).cnt = s.cnt :=
  (kept_setFlag1 (μ := 13194139533312) (Nat.and_self _) (Kept.refl s)).fr.cnt rfl
@[simp] theorem setFlag1_limits (s : State) (n off b : Nat) : (setFlag1 s n off b).limits = s.limits :=
  (kept_setFlag1 (μ := 13194139533312) (Nat.and_self _) (Kept.refl s)).fr.limits rfl
@[simp] theorem setFlag1_evLog (s : State) (n off b : Nat) : (setFlag1 s n off b).evLog = s.evLog :=
  (kept_setFlag1 (μ := 13194139533312) (Nat.and_self _) (Kept.refl s)).fr.evLog rfl
@[simp] theorem setFlag1_evLogSeq (s : State) (n off b : Nat) : (setFlag1 s n off b).evLogSeq = s.evLogSeq :=
  (kept_setFlag1 (μ := 13194139533312) (Nat.and_self _) (Kept.refl s)).fr.evLogSeq rfl
@[simp] theorem setFlag1_free (s : State) (n off b : Nat) : (setFlag1 s n off b).free = s.free :=
  (kept_setFlag1 (μ := 13194139533312) (Nat.and_self _) (Kept.refl s)).fr.free rfl
end Sys2Proof.Machine
end

