-- ==== Sys2Proof/Laws/Flags.lean ====
section
/-!
SUPPORT. Sys2Proof/Laws/Flags.lean: reading back tables, registers kept per function, flags and counters.
-/
namespace Sys2Proof.Machine

/-! ## Tables -/

theorem fget_fset {α : Type} (m : FMap α) (k j : Nat) (a : α) : fget? (fset m k a) j = if j = k then some a else fget? m j := by
  induction m with
  | nil =>
    by_cases h : j = k
    · simp [fset, fget?, h]
    · simp [fset, fget?, h, Ne.symm h]
  | cons e m ih =>
    obtain ⟨i, b⟩ := e
    simp only [fset]
    split
    · rename_i q
      subst q
      by_cases h : j = i
      · simp [fget?, h]
      · simp [fget?, h, Ne.symm h]
    · split
      · by_cases h : j = k
        · simp [fget?, h]
        · simp only [fget?, h, Ne.symm h, if_false]
          by_cases g : j < k
          · have : ¬ i = j := by omega
            have : j < i := by omega
            simp [*]
          · simp [g]
      · simp only [fget?, ih]
        by_cases h : j = k
        · subst h
          have : ¬ j < i := by omega
          simp [*]
        · simp [h]

@[simp] theorem fgetD_fset_self {α : Type} (m : FMap α) (k : Nat) (a d : α) : fgetD (fset m k a) k d = a := by
  simp [fgetD, fget_fset]

theorem fgetD_fset {α : Type} (m : FMap α) (k j : Nat) (a d : α) : fgetD (fset m k a) j d = if j = k then a else fgetD m j d := by
  by_cases h : j = k <;> simp [fgetD, fget_fset, h]

@[simp] theorem fgetD_fmod_self {α : Type} (m : FMap α) (k : Nat) (d : α) (f : α → α) : fgetD (fmod m k d f) k d = f (fgetD m k d) := by
  simp [fmod]

theorem fgetD_fmod {α : Type} (m : FMap α) (k j : Nat) (d : α) (f : α → α) :
    fgetD (fmod m k d f) j d = if j = k then f (fgetD m k d) else fgetD m j d := by
  simp [fmod, fgetD_fset]

/-! ## Bits -/

theorem testBit_one (k : Nat) : Nat.testBit 1 k = decide (k = 0) := by
  cases k with
  | zero => rfl
  | succ k => simp [Nat.testBit_succ]

theorem maskW_bit (i j : Nat) (hi : i < 32) : (maskW i i).getLsbD j = decide (j = i) := by
  have e : i + 1 - i = 1 := by omega
  simp only [maskW, e, BitVec.getLsbD_ofNat, Nat.testBit_shiftLeft]
  by_cases h : j = i
  · subst h; simp [hi]
  · by_cases g : i ≤ j
    · have : j - i ≠ 0 := by omega
      simp [h, g, testBit_one, this]
    · simp [h, g]

/-- Setting a bit sets it and no other. -/
theorem bit_setBit (w : Word) (i j : Nat) (b : Bool) (hi : i < 32) : bit (setBit w i b) j = if j = i then b else bit w j := by
  simp only [bit, setBit, setFld, BitVec.getLsbD_or, BitVec.getLsbD_and, BitVec.getLsbD_not, maskW_bit _ _ hi]
  by_cases h : j = i
  · subst h
    cases b
    · simp [b2n, hi]
    · have : (BitVec.ofNat 32 (1 <<< j)).getLsbD j = true := by
        simp only [BitVec.getLsbD_ofNat, Nat.testBit_shiftLeft, Nat.sub_self, testBit_one]
        simp [hi]
      simp [b2n, this]
  · by_cases g : j < 32
    · simp [h, g]
    · have : w.getLsbD j = false := BitVec.getLsbD_of_ge _ _ (by omega)
      simp [h, this]

/-! ## Functions -/

theorem fnOf_modFn (s : State) (n m : Nat) (f : Fn → Fn) (hn : n < s.hp.length) :
    fnOf (modFn s n f) m = if m = n then f (fnOf s n) else fnOf s m := by
  simp only [fnOf, modFn, List.getD_eq_getElem?_getD, List.getElem?_modify]
  by_cases h : m = n
  · subst h; simp [hn]
  · have : ¬ n = m := fun e => h e.symm
    simp [h, this]

theorem fnOf_congr {α : Type} {s t : State} (g : Fn → α) (h : t.hp.map g = s.hp.map g) (n : Nat) : g (fnOf t n) = g (fnOf s n) := by
  have e : ∀ l : List Fn, g (l.getD n {}) = (l.map g).getD n (g {}) := fun l => by
    simp only [List.getD_eq_getElem?_getD, List.getElem?_map]
    cases l[n]? <;> rfl
  simp only [fnOf, e, h]

/-- Equal registers in every function read equal. -/
theorem fnReg_congr {s t : State} (h : t.hp.map (fun f => f.regs) = s.hp.map (fun f => f.regs)) (n off : Nat) : fnReg t n off = fnReg s n off := by
  simp only [fnReg, fnOf_congr (fun f => f.regs) h]

theorem fnReg_setFnReg (s : State) (n m off o : Nat) (v : Word) (hn : n < s.hp.length) :
    fnReg (setFnReg s n off v) m o = if m = n ∧ o = off then v else fnReg s m o := by
  simp only [setFnReg, fnReg, fnOf_modFn _ _ _ _ hn]
  by_cases h : m = n
  · subst h
    by_cases g : o = off
    · subst g; simp
    · simp [g, fgetD_fset]
  · simp [h]

@[simp] theorem length_setFnReg (s : State) (n off : Nat) (v : Word) : (setFnReg s n off v).hp.length = s.hp.length := by
  simp [setFnReg, modFn]

@[simp] theorem length_setFlag (s : State) (off b : Nat) : (setFlag s off b).hp.length = s.hp.length := by
  simp [setFlag, setFlag1]

theorem bit_setFlag1 (s : State) (n m off o b j : Nat) (hn : n < s.hp.length) (hb : b < 32) :
    bit (fnReg (setFlag1 s n off b) m o) j = ((decide (m = n ∧ o = off ∧ j = b)) || bit (fnReg s m o) j) := by
  simp only [setFlag1, fnReg_setFnReg _ _ _ _ _ _ hn]
  by_cases h : m = n ∧ o = off
  · obtain ⟨rfl, rfl⟩ := h
    by_cases g : j = b <;> simp [bit_setBit _ _ _ _ hb, g]
  · have : ¬ (m = n ∧ o = off ∧ j = b) := fun q => h ⟨q.1, q.2.1⟩
    simp [h, this]

/-- A flag is set in the copy of every function, and no other flag changes. -/
theorem bit_setFlag (s : State) (m off o b j : Nat) (hl : s.hp.length = 4) (hb : b < 32) :
    bit (fnReg (setFlag s off b) m o) j = ((decide (m < 4 ∧ o = off ∧ j = b)) || bit (fnReg s m o) j) := by
  have l1 : ∀ t : State, ∀ n, (setFlag1 t n off b).hp.length = t.hp.length := fun t n => by simp [setFlag1]
  simp only [setFlag]
  rw [bit_setFlag1 _ _ _ _ _ _ _ (by simp [l1, hl]) hb, bit_setFlag1 _ _ _ _ _ _ _ (by simp [l1, hl]) hb,
    bit_setFlag1 _ _ _ _ _ _ _ (by simp [l1, hl]) hb, bit_setFlag1 _ _ _ _ _ _ _ (by simp [hl]) hb]
  cases bit (fnReg s m o) j
  · simp only [Bool.or_false, ← Bool.decide_or, decide_eq_decide]
    omega
  · simp

theorem flagged_setFlag {s : State} {off b : Nat} (hl : s.hp.length = 4) (hb : b < 32) : flagged (setFlag s off b) off b := by
  intro n hn
  rw [bit_setFlag _ _ _ _ _ _ hl hb]
  simp [hn]

/-- Setting a bit, also one that a word does not have, clears none. -/
theorem bit_setBit_true {w : Word} {i j : Nat} (h : bit w j = true) : bit (setBit w i true) j = true := by
  by_cases hi : i < 32
  · simp [bit_setBit _ _ _ _ hi, h]
  · have e : maskW i i = 0#32 := by
      apply BitVec.eq_of_toNat_eq
      have e1 : i + 1 - i = 1 := by omega
      have e2 : 2 ^ i = 2 ^ 32 * 2 ^ (i - 32) := by rw [← Nat.pow_add]; congr 1; omega
      simp only [maskW, e1, BitVec.toNat_ofNat, Nat.shiftLeft_eq, e2]
      simp [Nat.mul_mod_right]
    have hj : j < 32 := BitVec.lt_of_getLsbD h
    have h' : w.getLsbD j = true := h
    simp only [bit, setBit, setFld, e, BitVec.getLsbD_or, BitVec.getLsbD_and, BitVec.getLsbD_not, BitVec.getLsbD_zero]
    simp [h', hj]

theorem flagged_setFlag1 {s : State} {off b n o c : Nat} (h : flagged s off b) : flagged (setFlag1 s n o c) off b := by
  intro m hm
  by_cases hn : n < s.hp.length
  · simp only [setFlag1, fnReg_setFnReg _ _ _ _ _ _ hn]
    split
    · rename_i q
      obtain ⟨rfl, rfl⟩ := q
      exact bit_setBit_true (h _ hm)
    · exact h m hm
  · have : setFlag1 s n o c = s := by
      have e : s.hp.modify n (fun f => { f with regs := fset f.regs o (setBit (fnReg s n o) c true) }) = s.hp := by
        apply List.ext_getElem?
        intro i
        rw [List.getElem?_modify]
        by_cases q : n = i
        · subst q; simp [List.getElem?_eq_none (by omega : s.hp.length ≤ n)]
        · simp [q]
      simp only [setFlag1, setFnReg, modFn, e]
    rw [this]; exact h m hm

/-- A flag that is set stays set while other flags are set. -/
theorem flagged_keep {s : State} {off b o c : Nat} (h : flagged s off b) : flagged (setFlag s o c) off b :=
  flagged_setFlag1 (flagged_setFlag1 (flagged_setFlag1 (flagged_setFlag1 h)))

theorem flagged_congr {s t : State} {off b : Nat} (h : t.hp.map (fun f => f.regs) = s.hp.map (fun f => f.regs)) (g : flagged s off b) :
    flagged t off b := fun n hn => by rw [fnReg_congr h]; exact g n hn

/-! ## Events and counters -/

@[simp] theorem regs_irqPend (n src : Nat) (s : State) :
    (irqPend n src s).hp.map (fun f => f.regs) = s.hp.map (fun f => f.regs) :=
  (kept_irqPend (μ := 74766790688768) (Nat.and_self _) (Kept.refl s)).fr.hpRegs rfl

@[simp] theorem fnReg_irqPend (n src : Nat) (s : State) (m r : Nat) : fnReg (irqPend n src s) m r = fnReg s m r :=
  fnReg_congr (regs_irqPend _ _ _) m r

@[simp] theorem regs_addEvent (ev : Event) (n : Nat) (s : State) :
    (addEvent ev n s).hp.map (fun f => f.regs) = s.hp.map (fun f => f.regs) :=
  (kept_addEvent (μ := 74766790688768) (Nat.and_self _) (Kept.refl s)).fr.hpRegs rfl

@[simp] theorem fnReg_addEvent (ev : Event) (n : Nat) (s : State) (m r : Nat) : fnReg (addEvent ev n s) m r = fnReg s m r :=
  fnReg_congr (regs_addEvent _ _ _) m r

@[simp] theorem regs_raiseIn (blk code : Nat) (o : EvObj) (arg : List Byte) (s : State) :
    (raiseIn blk code o arg s).hp.map (fun f => f.regs) = s.hp.map (fun f => f.regs) :=
  (kept_raiseIn (μ := 906694364785738671718400) (Nat.and_self _) (Kept.refl s)).fr.hpRegs rfl

@[simp] theorem fnReg_raiseIn (blk code : Nat) (o : EvObj) (arg : List Byte) (s : State) (m r : Nat) : fnReg (raiseIn blk code o arg s) m r = fnReg s m r :=
  fnReg_congr (regs_raiseIn _ _ _ _ _) m r

@[simp] theorem regs_raise (code : Nat) (o : EvObj) (arg : List Byte) (s : State) :
    (raise code o arg s).hp.map (fun f => f.regs) = s.hp.map (fun f => f.regs) :=
  (kept_raise (μ := 906694364785738671718400) (Nat.and_self _) (Kept.refl s)).fr.hpRegs rfl

@[simp] theorem fnReg_raise (code : Nat) (o : EvObj) (arg : List Byte) (s : State) (m r : Nat) : fnReg (raise code o arg s) m r = fnReg s m r :=
  fnReg_congr (regs_raise _ _ _ _) m r

@[simp] theorem regs_raiseLimited (key code : Nat) (o : EvObj) (arg : List Byte) (s : State) :
    (raiseLimited key code o arg s).hp.map (fun f => f.regs) = s.hp.map (fun f => f.regs) :=
  (kept_raiseLimited (μ := 1057810092237567318556672) (Nat.and_self _) (Kept.refl s)).fr.hpRegs rfl

@[simp] theorem fnReg_raiseLimited (key code : Nat) (o : EvObj) (arg : List Byte) (s : State) (m r : Nat) : fnReg (raiseLimited key code o arg s) m r = fnReg s m r :=
  fnReg_congr (regs_raiseLimited _ _ _ _ _) m r

theorem flagged_raise {s : State} {code off b : Nat} {o : EvObj} {arg : List Byte} (h : flagged s off b) : flagged (raise code o arg s) off b :=
  flagged_congr (regs_raise _ _ _ _) h

theorem flagged_raiseIn {s : State} {blk code off b : Nat} {o : EvObj} {arg : List Byte} (h : flagged s off b) :
    flagged (raiseIn blk code o arg s) off b :=
  flagged_congr (regs_raiseIn _ _ _ _ _) h

theorem flagged_raiseLimited {s : State} {key code off b : Nat} {o : EvObj} {arg : List Byte} (h : flagged s off b) :
    flagged (raiseLimited key code o arg s) off b :=
  flagged_congr (regs_raiseLimited _ _ _ _ _) h

theorem flagged_halfRange {s : State} {off win r b : Nat} {o : EvObj} (h : flagged s r b) : flagged (halfRange off win o s) r b := by
  unfold halfRange
  dsimp only
  split
  · exact flagged_keep (flagged_raiseIn h)
  · exact flagged_raiseIn h

theorem flagged_countW {s : State} {off win r b : Nat} {o : EvObj} (h : flagged s r b) : flagged (countW off win o s) r b := by
  unfold countW
  dsimp only
  split
  · exact flagged_halfRange (fun n hn => h n hn)
  · exact fun n hn => h n hn

theorem flagged_count {s : State} {off r b : Nat} (h : flagged s r b) : flagged (count off s) r b := flagged_countW h

theorem flagged_countN {s : State} {off win n r b : Nat} {o : EvObj} (h : flagged s r b) : flagged (countN off win n o s) r b := by
  unfold countN
  dsimp only
  split
  · exact flagged_halfRange (fun n hn => h n hn)
  · exact fun n hn => h n hn

/-- A counter that counts one is one higher, and no other counter changes. -/
theorem counter_countW (s : State) (off win o w : Nat) (ob : EvObj) :
    counter (countW off win ob s) o w = if ctrKey o w = ctrKey off win then counter s off win + 1#32 else counter s o w := by
  have h : (halfRange off win ob { s with cnt := fset s.cnt (ctrKey off win) (counter s off win + 1#32) }).cnt =
      fset s.cnt (ctrKey off win) (counter s off win + 1#32) := by simp
  have e : (countW off win ob s).cnt = fset s.cnt (ctrKey off win) (counter s off win + 1#32) := by
    unfold countW
    dsimp only
    split
    · exact h
    · rfl
  unfold counter at *
  rw [e, fgetD_fset]

@[simp] theorem counter_count (s : State) (off : Nat) : counter (count off s) off 0xFFFF = counter s off 0xFFFF + 1#32 := by
  simp [count, counter_countW]

end Sys2Proof.Machine
end

