-- ==== Sys2Proof/Laws/KeptTime.lean ====
section
/-!
SUPPORT. Sys2Proof/Laws/KeptTime.lean: every operation of Time.lean keeps what no command changes, and the parts that it does not write (Kept.lean).
-/
set_option Elab.async false
set_option linter.unusedTactic false
set_option linter.unreachableTactic false
set_option linter.unusedVariables false
namespace Sys2Proof.Machine

theorem kept_tbFlag {μ : Nat} (hw : 13194139533312 &&& μ = 13194139533312) {s0 : State} {b : Nat} {s : State}  (kh : Kept μ s0 s) :
    Kept μ s0 (tbFlag b s) := by
  have k_setFlag : 13194139533312 &&& μ = 13194139533312 := sub_of hw rfl
  unfold tbFlag
  repeat' first
    | with_reducible assumption
    | (intro s; with_reducible refine (fun (hs : Kept μ s0 s) => ?_) ?_)
    | intro x
    | lift_lets
    | with_reducible refine kept_setFlag k_setFlag ?_
    | split
    | dsimp +zetaDelta only

theorem kept_refreshTq {μ : Nat} (hw : 906694364785738671718401 &&& μ = 906694364785738671718401) {s0 : State} {s : State}  (kh : Kept μ s0 s) :
    Kept μ s0 (refreshTq s) := by
  have k_raise : 906694364785738671718400 &&& μ = 906694364785738671718400 := sub_of hw rfl
  have i0 : μ.testBit 0 = true := bit_of hw rfl
  have i42 : μ.testBit 42 = true := bit_of hw rfl
  have i46 : μ.testBit 46 = true := bit_of hw rfl
  have i78 : μ.testBit 78 = true := bit_of hw rfl
  have i79 : μ.testBit 79 = true := bit_of hw rfl
  unfold refreshTq
  repeat' first
    | with_reducible assumption
    | (intro s; with_reducible refine (fun (hs : Kept μ s0 s) => ?_) ?_)
    | intro x
    | lift_lets
    | with_reducible refine kept_raise k_raise ?_
    | (fail_if_no_progress with_reducible refine Kept.mk' ?_  (h_tb := .inr ⟨i0, sm, sm, sm⟩) (h_hp := .inr ⟨i42, sm, sm, sm, .inr i46, sm, sm, sm, sm, sm, sm, sm⟩) (h_evLog := .inr i78) (h_evLogSeq := .inr i79))
    | split
    | dsimp +zetaDelta only

theorem kept_storeOfs {μ : Nat} (hw : 2656331146614175432704 &&& μ = 2656331146614175432704) {s0 : State} {o : Int} {s : State}  (kh : Kept μ s0 s) :
    Kept μ s0 (storeOfs o s) := by
  have i68 : μ.testBit 68 = true := bit_of hw rfl
  have i71 : μ.testBit 71 = true := bit_of hw rfl
  unfold storeOfs
  repeat' first
    | with_reducible assumption
    | (intro s; with_reducible refine (fun (hs : Kept μ s0 s) => ?_) ?_)
    | intro x
    | lift_lets
    | (fail_if_no_progress with_reducible refine Kept.mk' ?_  (h_vbat := .inr ⟨i68, sm, sm, .inr i71, sm⟩))
    | split
    | dsimp +zetaDelta only

theorem kept_reportOfs {μ : Nat} (hw : 909350695941148940173312 &&& μ = 909350695941148940173312) {s0 : State} {o : Int} {s : State}  (kh : Kept μ s0 s) :
    Kept μ s0 (reportOfs o s) := by
  have k_raise : 906694364785738671718400 &&& μ = 906694364785738671718400 := sub_of hw rfl
  have k_storeOfs : 2656331146614175432704 &&& μ = 2656331146614175432704 := sub_of hw rfl
  have k_tbFlag : 13194139533312 &&& μ = 13194139533312 := sub_of hw rfl
  unfold reportOfs
  repeat' first
    | with_reducible assumption
    | (intro s; with_reducible refine (fun (hs : Kept μ s0 s) => ?_) ?_)
    | intro x
    | lift_lets
    | with_reducible refine kept_raise k_raise ?_
    | with_reducible refine kept_tbFlag k_tbFlag ?_
    | with_reducible refine kept_storeOfs k_storeOfs ?_
    | split
    | dsimp +zetaDelta only

theorem kept_noteQual {μ : Nat} (hw : 1 &&& μ = 1) {s0 : State} {src : Nat} {s : State}  (kh : Kept μ s0 s) :
    Kept μ s0 (noteQual src s) := by
  have i0 : μ.testBit 0 = true := bit_of hw rfl
  unfold noteQual
  repeat' first
    | with_reducible assumption
    | (intro s; with_reducible refine (fun (hs : Kept μ s0 s) => ?_) ?_)
    | intro x
    | lift_lets
    | (fail_if_no_progress with_reducible refine Kept.mk' ?_  (h_tb := .inr ⟨i0, sm, sm, sm⟩))
    | split
    | dsimp +zetaDelta only

theorem kept_noteQuals {μ : Nat} (hw : 1 &&& μ = 1) {s0 : State} {s : State}  (kh : Kept μ s0 s) :
    Kept μ s0 (noteQuals s) := by
  have k_noteQual : 1 &&& μ = 1 := sub_of hw rfl
  have i0 : μ.testBit 0 = true := bit_of hw rfl
  unfold noteQuals
  repeat' first
    | with_reducible assumption
    | (intro s; with_reducible refine (fun (hs : Kept μ s0 s) => ?_) ?_)
    | intro x
    | lift_lets
    | with_reducible refine kept_noteQual k_noteQual ?_
    | (fail_if_no_progress with_reducible refine Kept.mk' ?_  (h_tb := .inr ⟨i0, sm, sm, sm⟩))
    | split
    | dsimp +zetaDelta only

theorem kept_useSource {μ : Nat} (hw : 909350695941148940173317 &&& μ = 909350695941148940173317) {s0 : State} {src : Nat} {s : State}  (kh : Kept μ s0 s) :
    Kept μ s0 (useSource src s) := by
  have k_reportOfs : 909350695941148940173312 &&& μ = 909350695941148940173312 := sub_of hw rfl
  have i0 : μ.testBit 0 = true := bit_of hw rfl
  have i2 : μ.testBit 2 = true := bit_of hw rfl
  have i42 : μ.testBit 42 = true := bit_of hw rfl
  have i43 : μ.testBit 43 = true := bit_of hw rfl
  have i46 : μ.testBit 46 = true := bit_of hw rfl
  have i68 : μ.testBit 68 = true := bit_of hw rfl
  have i71 : μ.testBit 71 = true := bit_of hw rfl
  have i78 : μ.testBit 78 = true := bit_of hw rfl
  have i79 : μ.testBit 79 = true := bit_of hw rfl
  unfold useSource
  repeat' first
    | with_reducible assumption
    | (intro s; with_reducible refine (fun (hs : Kept μ s0 s) => ?_) ?_)
    | intro x
    | lift_lets
    | with_reducible refine kept_reportOfs k_reportOfs ?_
    | (fail_if_no_progress with_reducible refine Kept.mk' ?_  (h_tb := .inr ⟨i0, sm, .inr i2, sm⟩) (h_hp := .inr ⟨i42, .inr i43, sm, sm, .inr i46, sm, sm, sm, sm, sm, sm, sm⟩) (h_vbat := .inr ⟨i68, sm, sm, .inr i71, sm⟩) (h_evLog := .inr i78) (h_evLogSeq := .inr i79))
    | split
    | dsimp +zetaDelta only

theorem kept_switchTo {μ : Nat} (hw : 984908559667063263592453 &&& μ = 984908559667063263592453) {s0 : State} {src : Nat} {s : State}  (kh : Kept μ s0 s) :
    Kept μ s0 (switchTo src s) := by
  have k_count : 982252228520449088159744 &&& μ = 982252228520449088159744 := sub_of hw rfl
  have k_raise : 906694364785738671718400 &&& μ = 906694364785738671718400 := sub_of hw rfl
  have k_tbFlag : 13194139533312 &&& μ = 13194139533312 := sub_of hw rfl
  have k_useSource : 909350695941148940173317 &&& μ = 909350695941148940173317 := sub_of hw rfl
  unfold switchTo
  repeat' first
    | with_reducible assumption
    | (intro s; with_reducible refine (fun (hs : Kept μ s0 s) => ?_) ?_)
    | intro x
    | lift_lets
    | with_reducible refine kept_raise k_raise ?_
    | with_reducible refine kept_count k_count ?_
    | with_reducible refine kept_tbFlag k_tbFlag ?_
    | with_reducible refine kept_useSource k_useSource ?_
    | split
    | dsimp +zetaDelta only

theorem kept_enterHoldover {μ : Nat} (hw : 906694364794534764740613 &&& μ = 906694364794534764740613) {s0 : State} {s : State}  (kh : Kept μ s0 s) :
    Kept μ s0 (enterHoldover s) := by
  have k_raise : 906694364785738671718400 &&& μ = 906694364785738671718400 := sub_of hw rfl
  have k_tbFlag : 13194139533312 &&& μ = 13194139533312 := sub_of hw rfl
  have i0 : μ.testBit 0 = true := bit_of hw rfl
  have i2 : μ.testBit 2 = true := bit_of hw rfl
  have i42 : μ.testBit 42 = true := bit_of hw rfl
  have i43 : μ.testBit 43 = true := bit_of hw rfl
  have i46 : μ.testBit 46 = true := bit_of hw rfl
  have i78 : μ.testBit 78 = true := bit_of hw rfl
  have i79 : μ.testBit 79 = true := bit_of hw rfl
  unfold enterHoldover
  repeat' first
    | with_reducible assumption
    | (intro s; with_reducible refine (fun (hs : Kept μ s0 s) => ?_) ?_)
    | intro x
    | lift_lets
    | with_reducible refine kept_raise k_raise ?_
    | with_reducible refine kept_tbFlag k_tbFlag ?_
    | (fail_if_no_progress with_reducible refine Kept.mk' ?_  (h_tb := .inr ⟨i0, sm, .inr i2, sm⟩) (h_hp := .inr ⟨i42, .inr i43, sm, sm, .inr i46, sm, sm, sm, sm, sm, sm, sm⟩) (h_evLog := .inr i78) (h_evLogSeq := .inr i79))
    | split
    | dsimp +zetaDelta only

theorem kept_gmChange {μ : Nat} (hw : 982252228520449088159745 &&& μ = 982252228520449088159745) {s0 : State} {id : Nat} {s : State}  (kh : Kept μ s0 s) :
    Kept μ s0 (gmChange id s) := by
  have k_count : 982252228520449088159744 &&& μ = 982252228520449088159744 := sub_of hw rfl
  have k_raise : 906694364785738671718400 &&& μ = 906694364785738671718400 := sub_of hw rfl
  have k_tbFlag : 13194139533312 &&& μ = 13194139533312 := sub_of hw rfl
  have i0 : μ.testBit 0 = true := bit_of hw rfl
  have i42 : μ.testBit 42 = true := bit_of hw rfl
  have i43 : μ.testBit 43 = true := bit_of hw rfl
  have i46 : μ.testBit 46 = true := bit_of hw rfl
  have i76 : μ.testBit 76 = true := bit_of hw rfl
  have i78 : μ.testBit 78 = true := bit_of hw rfl
  have i79 : μ.testBit 79 = true := bit_of hw rfl
  unfold gmChange
  repeat' first
    | with_reducible assumption
    | (intro s; with_reducible refine (fun (hs : Kept μ s0 s) => ?_) ?_)
    | intro x
    | lift_lets
    | with_reducible refine kept_raise k_raise ?_
    | with_reducible refine kept_count k_count ?_
    | with_reducible refine kept_tbFlag k_tbFlag ?_
    | (fail_if_no_progress with_reducible refine Kept.mk' ?_  (h_tb := .inr ⟨i0, sm, sm, sm⟩) (h_hp := .inr ⟨i42, .inr i43, sm, sm, .inr i46, sm, sm, sm, sm, sm, sm, sm⟩) (h_cnt := .inr i76) (h_evLog := .inr i78) (h_evLogSeq := .inr i79))
    | split
    | dsimp +zetaDelta only

theorem kept_noteGm {μ : Nat} (hw : 982252228520449088159745 &&& μ = 982252228520449088159745) {s0 : State} {s : State}  (kh : Kept μ s0 s) :
    Kept μ s0 (noteGm s) := by
  have k_gmChange : 982252228520449088159745 &&& μ = 982252228520449088159745 := sub_of hw rfl
  have i0 : μ.testBit 0 = true := bit_of hw rfl
  have i42 : μ.testBit 42 = true := bit_of hw rfl
  have i43 : μ.testBit 43 = true := bit_of hw rfl
  have i46 : μ.testBit 46 = true := bit_of hw rfl
  have i76 : μ.testBit 76 = true := bit_of hw rfl
  have i78 : μ.testBit 78 = true := bit_of hw rfl
  have i79 : μ.testBit 79 = true := bit_of hw rfl
  unfold noteGm
  repeat' first
    | with_reducible assumption
    | (intro s; with_reducible refine (fun (hs : Kept μ s0 s) => ?_) ?_)
    | intro x
    | lift_lets
    | with_reducible refine kept_gmChange k_gmChange ?_
    | (fail_if_no_progress with_reducible refine Kept.mk' ?_  (h_tb := .inr ⟨i0, sm, sm, sm⟩) (h_hp := .inr ⟨i42, .inr i43, sm, sm, .inr i46, sm, sm, sm, sm, sm, sm, sm⟩) (h_cnt := .inr i76) (h_evLog := .inr i78) (h_evLogSeq := .inr i79))
    | split
    | dsimp +zetaDelta only

theorem kept_standbyTakeover {μ : Nat} (hw : 982252228520449088159745 &&& μ = 982252228520449088159745) {s0 : State} {s : State}  (kh : Kept μ s0 s) :
    Kept μ s0 (standbyTakeover s) := by
  have k_gmChange : 982252228520449088159745 &&& μ = 982252228520449088159745 := sub_of hw rfl
  have i0 : μ.testBit 0 = true := bit_of hw rfl
  have i42 : μ.testBit 42 = true := bit_of hw rfl
  have i43 : μ.testBit 43 = true := bit_of hw rfl
  have i46 : μ.testBit 46 = true := bit_of hw rfl
  have i76 : μ.testBit 76 = true := bit_of hw rfl
  have i78 : μ.testBit 78 = true := bit_of hw rfl
  have i79 : μ.testBit 79 = true := bit_of hw rfl
  unfold standbyTakeover
  repeat' first
    | with_reducible assumption
    | (intro s; with_reducible refine (fun (hs : Kept μ s0 s) => ?_) ?_)
    | intro x
    | lift_lets
    | with_reducible refine kept_gmChange k_gmChange ?_
    | (fail_if_no_progress with_reducible refine Kept.mk' ?_  (h_tb := .inr ⟨i0, sm, sm, sm⟩) (h_hp := .inr ⟨i42, .inr i43, sm, sm, .inr i46, sm, sm, sm, sm, sm, sm, sm⟩) (h_cnt := .inr i76) (h_evLog := .inr i78) (h_evLogSeq := .inr i79))
    | split
    | dsimp +zetaDelta only

theorem kept_chooseSource {μ : Nat} (hw : 984908559667063263592453 &&& μ = 984908559667063263592453) {s0 : State} {s : State}  (kh : Kept μ s0 s) :
    Kept μ s0 (chooseSource s) := by
  have k_enterHoldover : 906694364794534764740613 &&& μ = 906694364794534764740613 := sub_of hw rfl
  have k_switchTo : 984908559667063263592453 &&& μ = 984908559667063263592453 := sub_of hw rfl
  have i0 : μ.testBit 0 = true := bit_of hw rfl
  have i2 : μ.testBit 2 = true := bit_of hw rfl
  have i42 : μ.testBit 42 = true := bit_of hw rfl
  have i43 : μ.testBit 43 = true := bit_of hw rfl
  have i46 : μ.testBit 46 = true := bit_of hw rfl
  have i68 : μ.testBit 68 = true := bit_of hw rfl
  have i71 : μ.testBit 71 = true := bit_of hw rfl
  have i76 : μ.testBit 76 = true := bit_of hw rfl
  have i78 : μ.testBit 78 = true := bit_of hw rfl
  have i79 : μ.testBit 79 = true := bit_of hw rfl
  unfold chooseSource
  repeat' first
    | with_reducible assumption
    | (intro s; with_reducible refine (fun (hs : Kept μ s0 s) => ?_) ?_)
    | intro x
    | lift_lets
    | with_reducible refine kept_switchTo k_switchTo ?_
    | with_reducible refine kept_enterHoldover k_enterHoldover ?_
    | (fail_if_no_progress with_reducible refine Kept.mk' ?_  (h_tb := .inr ⟨i0, sm, .inr i2, sm⟩) (h_hp := .inr ⟨i42, .inr i43, sm, sm, .inr i46, sm, sm, sm, sm, sm, sm, sm⟩) (h_vbat := .inr ⟨i68, sm, sm, .inr i71, sm⟩) (h_cnt := .inr i76) (h_evLog := .inr i78) (h_evLogSeq := .inr i79))
    | split
    | dsimp +zetaDelta only

theorem kept_ppsOutTick {μ : Nat} (hw : 1 &&& μ = 1) {s0 : State} {s : State}  (kh : Kept μ s0 s) :
    Kept μ s0 (ppsOutTick s) := by
  have i0 : μ.testBit 0 = true := bit_of hw rfl
  unfold ppsOutTick
  repeat' first
    | with_reducible assumption
    | (intro s; with_reducible refine (fun (hs : Kept μ s0 s) => ?_) ?_)
    | intro x
    | lift_lets
    | (fail_if_no_progress with_reducible refine Kept.mk' ?_  (h_tb := .inr ⟨i0, sm, sm, sm⟩))
    | split
    | dsimp +zetaDelta only

theorem kept_nextEdge {μ : Nat} (hw : 1 &&& μ = 1) {s0 : State} {s : State}  (kh : Kept μ s0 s) :
    Kept μ s0 (nextEdge s) := by
  have k_seen : 1 &&& μ = 1 := sub_of hw rfl
  have i0 : μ.testBit 0 = true := bit_of hw rfl
  unfold nextEdge
  repeat' first
    | with_reducible assumption
    | (intro s; with_reducible refine (fun (hs : Kept μ s0 s) => ?_) ?_)
    | intro x
    | lift_lets
    | with_reducible refine kept_seen k_seen ?_
    | (fail_if_no_progress with_reducible refine Kept.mk' ?_  (h_tb := .inr ⟨i0, sm, sm, sm⟩))
    | split
    | dsimp +zetaDelta only

theorem kept_edgeAt {μ : Nat} (hw : 1 &&& μ = 1) {s0 : State} {g : Nat} {s : State}  (kh : Kept μ s0 s) :
    Kept μ s0 (edgeAt g s) := by
  have i0 : μ.testBit 0 = true := bit_of hw rfl
  unfold edgeAt
  repeat' first
    | with_reducible assumption
    | (intro s; with_reducible refine (fun (hs : Kept μ s0 s) => ?_) ?_)
    | intro x
    | lift_lets
    | (fail_if_no_progress with_reducible refine Kept.mk' ?_  (h_tb := .inr ⟨i0, sm, sm, sm⟩))
    | split
    | dsimp +zetaDelta only

theorem kept_advance {μ : Nat} (hw : 3 &&& μ = 3) {s0 s : State} (st : s.tb.started = true) (kh : Kept μ s0 s) : Kept μ s0 (advance s) := by
  have k_edgeAt : 1 &&& μ = 1 := sub_of hw rfl
  have k_nextEdge : 1 &&& μ = 1 := sub_of hw rfl
  have k_seen : 1 &&& μ = 1 := sub_of hw rfl
  have i0 : μ.testBit 0 = true := bit_of hw rfl
  have i1 : μ.testBit 1 = true := bit_of hw rfl
  have h1 : Kept μ s0 { s with tb := { s.tb with tick := (s.tb.tick + 1) % 2 ^ 64 } } :=
    ⟨kh.pending, kh.part, kh.hp, kh.push, fun _ q => by simp_all, kh.svn, kh.bill, kh.ctr, kh.ctr64, kh.evl, kh.tlog, kh.fr.mk' (h_tb := .inr ⟨i0, .inr i1, sm, sm⟩)⟩
  unfold advance
  dsimp only
  split
  · exact kept_seen k_seen (kept_edgeAt k_edgeAt (Kept.mk' h1  (h_tb := .inr ⟨i0, .inr i1, sm, sm⟩)))
  · exact kept_nextEdge k_nextEdge h1


theorem kept_sampleDi {μ : Nat} (hw : 4294967297 &&& μ = 4294967297) {s0 : State} {di : BitVec 16} {s : State}  (kh : Kept μ s0 s) :
    Kept μ s0 (sampleDi di s) := by
  have i0 : μ.testBit 0 = true := bit_of hw rfl
  have i32 : μ.testBit 32 = true := bit_of hw rfl
  unfold sampleDi
  repeat' first
    | with_reducible assumption
    | (intro s; with_reducible refine (fun (hs : Kept μ s0 s) => ?_) ?_)
    | intro x
    | lift_lets
    | with_reducible refine kept_foldl (fun s x hs => ?_) ?_
    | (fail_if_no_progress with_reducible refine Kept.mk' ?_  (h_tb := .inr ⟨i0, sm, sm, sm⟩) (h_pub := .inr ⟨i32, sm, sm, sm⟩))
    | split
    | dsimp +zetaDelta only

theorem kept_timeTick {μ : Nat} (hw : 984908559667063263592453 &&& μ = 984908559667063263592453) {s0 : State} {s : State}  (kh : Kept μ s0 s) :
    Kept μ s0 (timeTick s) := by
  have k_chooseSource : 984908559667063263592453 &&& μ = 984908559667063263592453 := sub_of hw rfl
  have k_noteQuals : 1 &&& μ = 1 := sub_of hw rfl
  have k_ppsOutTick : 1 &&& μ = 1 := sub_of hw rfl
  have k_refreshTq : 906694364785738671718401 &&& μ = 906694364785738671718401 := sub_of hw rfl
  have k_standbyTakeover : 982252228520449088159745 &&& μ = 982252228520449088159745 := sub_of hw rfl
  unfold timeTick
  repeat' first
    | with_reducible assumption
    | (intro s; with_reducible refine (fun (hs : Kept μ s0 s) => ?_) ?_)
    | intro x
    | lift_lets
    | with_reducible refine kept_refreshTq k_refreshTq ?_
    | with_reducible refine kept_noteQuals k_noteQuals ?_
    | with_reducible refine kept_standbyTakeover k_standbyTakeover ?_
    | with_reducible refine kept_chooseSource k_chooseSource ?_
    | with_reducible refine kept_ppsOutTick k_ppsOutTick ?_
    | split
    | dsimp +zetaDelta only

theorem kept_shiftTimers {μ : Nat} (hw : 151115745466227504611505 &&& μ = 151115745466227504611505) {s0 : State} {d : Int} {s : State}  (kh : Kept μ s0 s) :
    Kept μ s0 (shiftTimers d s) := by
  have i0 : μ.testBit 0 = true := bit_of hw rfl
  have i4 : μ.testBit 4 = true := bit_of hw rfl
  have i5 : μ.testBit 5 = true := bit_of hw rfl
  have i7 : μ.testBit 7 = true := bit_of hw rfl
  have i15 : μ.testBit 15 = true := bit_of hw rfl
  have i17 : μ.testBit 17 = true := bit_of hw rfl
  have i22 : μ.testBit 22 = true := bit_of hw rfl
  have i23 : μ.testBit 23 = true := bit_of hw rfl
  have i26 : μ.testBit 26 = true := bit_of hw rfl
  have i28 : μ.testBit 28 = true := bit_of hw rfl
  have i54 : μ.testBit 54 = true := bit_of hw rfl
  have i77 : μ.testBit 77 = true := bit_of hw rfl
  unfold shiftTimers
  repeat' first
    | with_reducible assumption
    | (intro s; with_reducible refine (fun (hs : Kept μ s0 s) => ?_) ?_)
    | intro x
    | lift_lets
    | (fail_if_no_progress with_reducible refine Kept.mk' ?_  (h_tb := .inr ⟨i0, sm, sm, sm⟩) (h_eth := .inr ⟨i4, .inr i5, sm, .inr i7⟩) (h_svf := .inr i15) (h_isl := .inr i17) (h_cap := .inr ⟨i22, .inr i23, sm, sm⟩) (h_mtr := .inr ⟨i26, sm, .inr i28⟩) (h_pair := .inr ⟨i54, sm, sm, sm⟩) (h_limits := .inr i77))
    | split
    | dsimp +zetaDelta only

theorem kept_timeStep {μ : Nat} (hw : 1060466441407376444784831 &&& μ = 1060466441407376444784831) {s0 : State} {src ns since : Nat} {s : State}  (kh : Kept μ s0 s) :
    Kept μ s0 (timeStep src ns since s) := by
  have k_edgeAt : 1 &&& μ = 1 := sub_of hw rfl
  have k_raise : 906694364785738671718400 &&& μ = 906694364785738671718400 := sub_of hw rfl
  have k_refreshTq : 906694364785738671718401 &&& μ = 906694364785738671718401 := sub_of hw rfl
  have k_shiftTimers : 151115745466227504611505 &&& μ = 151115745466227504611505 := sub_of hw rfl
  have k_storeOfs : 2656331146614175432704 &&& μ = 2656331146614175432704 := sub_of hw rfl
  have k_tbFlag : 13194139533312 &&& μ = 13194139533312 := sub_of hw rfl
  have i0 : μ.testBit 0 = true := bit_of hw rfl
  have i1 : μ.testBit 1 = true := bit_of hw rfl
  have i2 : μ.testBit 2 = true := bit_of hw rfl
  have i3 : μ.testBit 3 = true := bit_of hw rfl
  have i4 : μ.testBit 4 = true := bit_of hw rfl
  have i5 : μ.testBit 5 = true := bit_of hw rfl
  have i7 : μ.testBit 7 = true := bit_of hw rfl
  have i15 : μ.testBit 15 = true := bit_of hw rfl
  have i17 : μ.testBit 17 = true := bit_of hw rfl
  have i22 : μ.testBit 22 = true := bit_of hw rfl
  have i23 : μ.testBit 23 = true := bit_of hw rfl
  have i26 : μ.testBit 26 = true := bit_of hw rfl
  have i28 : μ.testBit 28 = true := bit_of hw rfl
  have i42 : μ.testBit 42 = true := bit_of hw rfl
  have i43 : μ.testBit 43 = true := bit_of hw rfl
  have i46 : μ.testBit 46 = true := bit_of hw rfl
  have i54 : μ.testBit 54 = true := bit_of hw rfl
  have i68 : μ.testBit 68 = true := bit_of hw rfl
  have i71 : μ.testBit 71 = true := bit_of hw rfl
  have i77 : μ.testBit 77 = true := bit_of hw rfl
  have i78 : μ.testBit 78 = true := bit_of hw rfl
  have i79 : μ.testBit 79 = true := bit_of hw rfl
  unfold timeStep
  dsimp only
  refine kept_refreshTq k_refreshTq (kept_raise k_raise (kept_tbFlag k_tbFlag ?_))
  have hs : ∀ tb : Tb, tb.started = true → Kept μ s0 { s with tb := tb } := fun tb e =>
    ⟨kh.pending, kh.part, kh.hp, kh.push, fun _ q => by simp_all, kh.svn, kh.bill, kh.ctr, kh.ctr64, kh.evl, kh.tlog, kh.fr.mk' (h_tb := .inr ⟨i0, .inr i1, .inr i2, .inr i3⟩) (h_eth := .inr ⟨i4, .inr i5, sm, .inr i7⟩) (h_svf := .inr i15) (h_isl := .inr i17) (h_cap := .inr ⟨i22, .inr i23, sm, sm⟩) (h_mtr := .inr ⟨i26, sm, .inr i28⟩) (h_hp := .inr ⟨i42, .inr i43, sm, sm, .inr i46, sm, sm, sm, sm, sm, sm, sm⟩) (h_pair := .inr ⟨i54, sm, sm, sm⟩) (h_vbat := .inr ⟨i68, sm, sm, .inr i71, sm⟩) (h_limits := .inr i77) (h_evLog := .inr i78) (h_evLogSeq := .inr i79)⟩
  split
  · exact kept_storeOfs k_storeOfs (kept_edgeAt k_edgeAt (kept_shiftTimers k_shiftTimers (hs _ rfl)))
  · exact kept_edgeAt k_edgeAt (kept_shiftTimers k_shiftTimers (hs _ rfl))

theorem kept_execRateUpdate {μ : Nat} (hw : 906694364794534764740609 &&& μ = 906694364794534764740609) {s0 : State} {m : RateMeas} {s : State}  (kh : Kept μ s0 s) :
    KeptOut μ s0 (execRateUpdate m s) := by
  have k_act : 0 &&& μ = 0 := sub_of hw rfl
  have k_raise : 906694364785738671718400 &&& μ = 906694364785738671718400 := sub_of hw rfl
  have k_refreshTq : 906694364785738671718401 &&& μ = 906694364785738671718401 := sub_of hw rfl
  have k_tbFlag : 13194139533312 &&& μ = 13194139533312 := sub_of hw rfl
  have i0 : μ.testBit 0 = true := bit_of hw rfl
  have i42 : μ.testBit 42 = true := bit_of hw rfl
  have i43 : μ.testBit 43 = true := bit_of hw rfl
  have i46 : μ.testBit 46 = true := bit_of hw rfl
  have i78 : μ.testBit 78 = true := bit_of hw rfl
  have i79 : μ.testBit 79 = true := bit_of hw rfl
  unfold execRateUpdate
  repeat' first
    | with_reducible assumption
    | (intro s; with_reducible refine (fun (hs : Kept μ s0 s) => ?_) ?_)
    | intro x
    | lift_lets
    | with_reducible refine kept_act k_act (fun s hs => ?_) ?_
    | with_reducible refine kept_raise k_raise ?_
    | with_reducible refine kept_tbFlag k_tbFlag ?_
    | with_reducible refine kept_refreshTq k_refreshTq ?_
    | (fail_if_no_progress with_reducible refine Kept.mk' ?_  (h_tb := .inr ⟨i0, sm, sm, sm⟩) (h_hp := .inr ⟨i42, .inr i43, sm, sm, .inr i46, sm, sm, sm, sm, sm, sm, sm⟩) (h_evLog := .inr i78) (h_evLogSeq := .inr i79))
    | split
    | with_reducible refine KeptOut.mk' ?_
    | dsimp +zetaDelta only

theorem kept_execHoldoverTerrUpdate {μ : Nat} (hw : 906694364785738671718401 &&& μ = 906694364785738671718401) {s0 : State} {s : State}  (kh : Kept μ s0 s) :
    KeptOut μ s0 (execHoldoverTerrUpdate s) := by
  have k_act : 0 &&& μ = 0 := sub_of hw rfl
  have k_refreshTq : 906694364785738671718401 &&& μ = 906694364785738671718401 := sub_of hw rfl
  have i0 : μ.testBit 0 = true := bit_of hw rfl
  have i42 : μ.testBit 42 = true := bit_of hw rfl
  have i46 : μ.testBit 46 = true := bit_of hw rfl
  have i78 : μ.testBit 78 = true := bit_of hw rfl
  have i79 : μ.testBit 79 = true := bit_of hw rfl
  unfold execHoldoverTerrUpdate
  repeat' first
    | with_reducible assumption
    | (intro s; with_reducible refine (fun (hs : Kept μ s0 s) => ?_) ?_)
    | intro x
    | lift_lets
    | with_reducible refine kept_act k_act (fun s hs => ?_) ?_
    | with_reducible refine kept_refreshTq k_refreshTq ?_
    | (fail_if_no_progress with_reducible refine Kept.mk' ?_  (h_tb := .inr ⟨i0, sm, sm, sm⟩) (h_hp := .inr ⟨i42, sm, sm, sm, .inr i46, sm, sm, sm, sm, sm, sm, sm⟩) (h_evLog := .inr i78) (h_evLogSeq := .inr i79))
    | split
    | with_reducible refine KeptOut.mk' ?_
    | dsimp +zetaDelta only

theorem kept_execSdtOffsetEstimate {μ : Nat} (hw : 906694364785738671718401 &&& μ = 906694364785738671718401) {s0 : State} {s : State}  (kh : Kept μ s0 s) :
    KeptOut μ s0 (execSdtOffsetEstimate s) := by
  have k_act : 0 &&& μ = 0 := sub_of hw rfl
  have k_noteQuals : 1 &&& μ = 1 := sub_of hw rfl
  have k_refreshTq : 906694364785738671718401 &&& μ = 906694364785738671718401 := sub_of hw rfl
  have k_whenS : 0 &&& μ = 0 := sub_of hw rfl
  have i0 : μ.testBit 0 = true := bit_of hw rfl
  have i42 : μ.testBit 42 = true := bit_of hw rfl
  have i46 : μ.testBit 46 = true := bit_of hw rfl
  have i78 : μ.testBit 78 = true := bit_of hw rfl
  have i79 : μ.testBit 79 = true := bit_of hw rfl
  unfold execSdtOffsetEstimate
  repeat' first
    | with_reducible assumption
    | (intro s; with_reducible refine (fun (hs : Kept μ s0 s) => ?_) ?_)
    | intro x
    | lift_lets
    | with_reducible refine kept_act k_act (fun s hs => ?_) ?_
    | with_reducible refine kept_whenS k_whenS (fun s hs => ?_) ?_
    | with_reducible refine kept_refreshTq k_refreshTq ?_
    | with_reducible refine kept_noteQuals k_noteQuals ?_
    | (fail_if_no_progress with_reducible refine Kept.mk' ?_  (h_tb := .inr ⟨i0, sm, sm, sm⟩) (h_hp := .inr ⟨i42, sm, sm, sm, .inr i46, sm, sm, sm, sm, sm, sm, sm⟩) (h_evLog := .inr i78) (h_evLogSeq := .inr i79))
    | split
    | with_reducible refine KeptOut.mk' ?_
    | dsimp +zetaDelta only

theorem kept_execLeapLatch {μ : Nat} (hw : 1 &&& μ = 1) {s0 : State} {s : State}  (kh : Kept μ s0 s) :
    KeptOut μ s0 (execLeapLatch s) := by
  have k_act : 0 &&& μ = 0 := sub_of hw rfl
  have i0 : μ.testBit 0 = true := bit_of hw rfl
  unfold execLeapLatch
  repeat' first
    | with_reducible assumption
    | (intro s; with_reducible refine (fun (hs : Kept μ s0 s) => ?_) ?_)
    | intro x
    | lift_lets
    | with_reducible refine kept_act k_act (fun s hs => ?_) ?_
    | (fail_if_no_progress with_reducible refine Kept.mk' ?_  (h_tb := .inr ⟨i0, sm, sm, sm⟩))
    | split
    | with_reducible refine KeptOut.mk' ?_
    | dsimp +zetaDelta only

theorem kept_execLeapDone {μ : Nat} (hw : 909350695941148940173321 &&& μ = 909350695941148940173321) {s0 : State} {s : State}  (kh : Kept μ s0 s) :
    KeptOut μ s0 (execLeapDone s) := by
  have k_act : 0 &&& μ = 0 := sub_of hw rfl
  have k_raise : 906694364785738671718400 &&& μ = 906694364785738671718400 := sub_of hw rfl
  have k_storeOfs : 2656331146614175432704 &&& μ = 2656331146614175432704 := sub_of hw rfl
  have k_tbFlag : 13194139533312 &&& μ = 13194139533312 := sub_of hw rfl
  have i0 : μ.testBit 0 = true := bit_of hw rfl
  have i3 : μ.testBit 3 = true := bit_of hw rfl
  have i42 : μ.testBit 42 = true := bit_of hw rfl
  have i43 : μ.testBit 43 = true := bit_of hw rfl
  have i46 : μ.testBit 46 = true := bit_of hw rfl
  have i68 : μ.testBit 68 = true := bit_of hw rfl
  have i71 : μ.testBit 71 = true := bit_of hw rfl
  have i78 : μ.testBit 78 = true := bit_of hw rfl
  have i79 : μ.testBit 79 = true := bit_of hw rfl
  unfold execLeapDone
  repeat' first
    | with_reducible assumption
    | (intro s; with_reducible refine (fun (hs : Kept μ s0 s) => ?_) ?_)
    | intro x
    | lift_lets
    | with_reducible refine kept_act k_act (fun s hs => ?_) ?_
    | with_reducible refine kept_raise k_raise ?_
    | with_reducible refine kept_tbFlag k_tbFlag ?_
    | with_reducible refine kept_storeOfs k_storeOfs ?_
    | (fail_if_no_progress with_reducible refine Kept.mk' ?_  (h_tb := .inr ⟨i0, sm, sm, .inr i3⟩) (h_hp := .inr ⟨i42, .inr i43, sm, sm, .inr i46, sm, sm, sm, sm, sm, sm, sm⟩) (h_vbat := .inr ⟨i68, sm, sm, .inr i71, sm⟩) (h_evLog := .inr i78) (h_evLogSeq := .inr i79))
    | split
    | with_reducible refine KeptOut.mk' ?_
    | dsimp +zetaDelta only

theorem kept_execRtcSet {μ : Nat} (hw : 1475739525896764129280 &&& μ = 1475739525896764129280) {s0 : State} {s : State}  (kh : Kept μ s0 s) :
    KeptOut μ s0 (execRtcSet s) := by
  have k_act : 0 &&& μ = 0 := sub_of hw rfl
  have i68 : μ.testBit 68 = true := bit_of hw rfl
  have i70 : μ.testBit 70 = true := bit_of hw rfl
  unfold execRtcSet
  repeat' first
    | with_reducible assumption
    | (intro s; with_reducible refine (fun (hs : Kept μ s0 s) => ?_) ?_)
    | intro x
    | lift_lets
    | with_reducible refine kept_act k_act (fun s hs => ?_) ?_
    | (fail_if_no_progress with_reducible refine Kept.mk' ?_  (h_vbat := .inr ⟨i68, sm, .inr i70, sm, sm⟩))
    | split
    | with_reducible refine KeptOut.mk' ?_
    | dsimp +zetaDelta only

theorem kept_execPpsInEdge {μ : Nat} (hw : 1 &&& μ = 1) {s0 : State} {ns : Nat} {s : State}  (kh : Kept μ s0 s) :
    KeptOut μ s0 (execPpsInEdge ns s) := by
  have k_act : 0 &&& μ = 0 := sub_of hw rfl
  have k_noteQuals : 1 &&& μ = 1 := sub_of hw rfl
  have k_seen : 1 &&& μ = 1 := sub_of hw rfl
  have i0 : μ.testBit 0 = true := bit_of hw rfl
  unfold execPpsInEdge
  repeat' first
    | with_reducible assumption
    | (intro s; with_reducible refine (fun (hs : Kept μ s0 s) => ?_) ?_)
    | intro x
    | lift_lets
    | with_reducible refine kept_act k_act (fun s hs => ?_) ?_
    | with_reducible refine kept_seen k_seen ?_
    | with_reducible refine kept_noteQuals k_noteQuals ?_
    | (fail_if_no_progress with_reducible refine Kept.mk' ?_  (h_tb := .inr ⟨i0, sm, sm, sm⟩))
    | split
    | with_reducible refine KeptOut.mk' ?_
    | dsimp +zetaDelta only

theorem kept_execIrigbFrameRx {μ : Nat} (hw : 984908559667063263592449 &&& μ = 984908559667063263592449) {s0 : State} {m : IrigFrame} {s : State}  (kh : Kept μ s0 s) :
    KeptOut μ s0 (execIrigbFrameRx m s) := by
  have k_act : 0 &&& μ = 0 := sub_of hw rfl
  have k_count : 982252228520449088159744 &&& μ = 982252228520449088159744 := sub_of hw rfl
  have k_noteQuals : 1 &&& μ = 1 := sub_of hw rfl
  have k_reportOfs : 909350695941148940173312 &&& μ = 909350695941148940173312 := sub_of hw rfl
  have k_seen : 1 &&& μ = 1 := sub_of hw rfl
  have i0 : μ.testBit 0 = true := bit_of hw rfl
  have i42 : μ.testBit 42 = true := bit_of hw rfl
  have i43 : μ.testBit 43 = true := bit_of hw rfl
  have i46 : μ.testBit 46 = true := bit_of hw rfl
  have i68 : μ.testBit 68 = true := bit_of hw rfl
  have i71 : μ.testBit 71 = true := bit_of hw rfl
  have i76 : μ.testBit 76 = true := bit_of hw rfl
  have i78 : μ.testBit 78 = true := bit_of hw rfl
  have i79 : μ.testBit 79 = true := bit_of hw rfl
  unfold execIrigbFrameRx
  repeat' first
    | with_reducible assumption
    | (intro s; with_reducible refine (fun (hs : Kept μ s0 s) => ?_) ?_)
    | intro x
    | lift_lets
    | with_reducible refine kept_act k_act (fun s hs => ?_) ?_
    | with_reducible refine kept_seen k_seen ?_
    | with_reducible refine kept_count k_count ?_
    | with_reducible refine kept_reportOfs k_reportOfs ?_
    | with_reducible refine kept_noteQuals k_noteQuals ?_
    | (fail_if_no_progress with_reducible refine Kept.mk' ?_  (h_tb := .inr ⟨i0, sm, sm, sm⟩) (h_hp := .inr ⟨i42, .inr i43, sm, sm, .inr i46, sm, sm, sm, sm, sm, sm, sm⟩) (h_vbat := .inr ⟨i68, sm, sm, .inr i71, sm⟩) (h_cnt := .inr i76) (h_evLog := .inr i78) (h_evLogSeq := .inr i79))
    | split
    | with_reducible refine KeptOut.mk' ?_
    | dsimp +zetaDelta only

theorem kept_ptpReported {μ : Nat} (hw : 909350695941148940173313 &&& μ = 909350695941148940173313) {s0 : State} {inUse : Bool} {m : PtpMsg} {s : State}  (kh : Kept μ s0 s) :
    Kept μ s0 (ptpReported inUse m s) := by
  have k_noteQuals : 1 &&& μ = 1 := sub_of hw rfl
  have k_reportOfs : 909350695941148940173312 &&& μ = 909350695941148940173312 := sub_of hw rfl
  have i0 : μ.testBit 0 = true := bit_of hw rfl
  have i42 : μ.testBit 42 = true := bit_of hw rfl
  have i43 : μ.testBit 43 = true := bit_of hw rfl
  have i46 : μ.testBit 46 = true := bit_of hw rfl
  have i68 : μ.testBit 68 = true := bit_of hw rfl
  have i71 : μ.testBit 71 = true := bit_of hw rfl
  have i78 : μ.testBit 78 = true := bit_of hw rfl
  have i79 : μ.testBit 79 = true := bit_of hw rfl
  unfold ptpReported
  repeat' first
    | with_reducible assumption
    | (intro s; with_reducible refine (fun (hs : Kept μ s0 s) => ?_) ?_)
    | intro x
    | lift_lets
    | with_reducible refine kept_reportOfs k_reportOfs ?_
    | with_reducible refine kept_noteQuals k_noteQuals ?_
    | (fail_if_no_progress with_reducible refine Kept.mk' ?_  (h_tb := .inr ⟨i0, sm, sm, sm⟩) (h_hp := .inr ⟨i42, .inr i43, sm, sm, .inr i46, sm, sm, sm, sm, sm, sm, sm⟩) (h_vbat := .inr ⟨i68, sm, sm, .inr i71, sm⟩) (h_evLog := .inr i78) (h_evLogSeq := .inr i79))
    | split
    | dsimp +zetaDelta only

theorem kept_ptpHandle {μ : Nat} (hw : 984908559667063263592449 &&& μ = 984908559667063263592449) {s0 : State} {port : Nat} {m : PtpMsg} {s : State}  (kh : Kept μ s0 s) :
    Kept μ s0 (ptpHandle port m s) := by
  have k_count : 982252228520449088159744 &&& μ = 982252228520449088159744 := sub_of hw rfl
  have k_noteGm : 982252228520449088159745 &&& μ = 982252228520449088159745 := sub_of hw rfl
  have k_ptpReported : 909350695941148940173313 &&& μ = 909350695941148940173313 := sub_of hw rfl
  have i0 : μ.testBit 0 = true := bit_of hw rfl
  have i42 : μ.testBit 42 = true := bit_of hw rfl
  have i43 : μ.testBit 43 = true := bit_of hw rfl
  have i46 : μ.testBit 46 = true := bit_of hw rfl
  have i68 : μ.testBit 68 = true := bit_of hw rfl
  have i71 : μ.testBit 71 = true := bit_of hw rfl
  have i76 : μ.testBit 76 = true := bit_of hw rfl
  have i78 : μ.testBit 78 = true := bit_of hw rfl
  have i79 : μ.testBit 79 = true := bit_of hw rfl
  unfold ptpHandle
  repeat' first
    | with_reducible assumption
    | (intro s; with_reducible refine (fun (hs : Kept μ s0 s) => ?_) ?_)
    | intro x
    | lift_lets
    | with_reducible refine kept_count k_count ?_
    | with_reducible refine kept_noteGm k_noteGm ?_
    | with_reducible refine kept_ptpReported k_ptpReported ?_
    | (fail_if_no_progress with_reducible refine Kept.mk' ?_  (h_tb := .inr ⟨i0, sm, sm, sm⟩) (h_hp := .inr ⟨i42, .inr i43, sm, sm, .inr i46, sm, sm, sm, sm, sm, sm, sm⟩) (h_vbat := .inr ⟨i68, sm, sm, .inr i71, sm⟩) (h_cnt := .inr i76) (h_evLog := .inr i78) (h_evLogSeq := .inr i79))
    | split
    | dsimp +zetaDelta only

theorem kept_execExtLost {μ : Nat} (hw : 906694364794534764740609 &&& μ = 906694364794534764740609) {s0 : State} {s : State}  (kh : Kept μ s0 s) :
    KeptOut μ s0 (execExtLost s) := by
  have k_act : 0 &&& μ = 0 := sub_of hw rfl
  have k_raise : 906694364785738671718400 &&& μ = 906694364785738671718400 := sub_of hw rfl
  have k_tbFlag : 13194139533312 &&& μ = 13194139533312 := sub_of hw rfl
  have i0 : μ.testBit 0 = true := bit_of hw rfl
  have i42 : μ.testBit 42 = true := bit_of hw rfl
  have i43 : μ.testBit 43 = true := bit_of hw rfl
  have i46 : μ.testBit 46 = true := bit_of hw rfl
  have i78 : μ.testBit 78 = true := bit_of hw rfl
  have i79 : μ.testBit 79 = true := bit_of hw rfl
  unfold execExtLost
  repeat' first
    | with_reducible assumption
    | (intro s; with_reducible refine (fun (hs : Kept μ s0 s) => ?_) ?_)
    | intro x
    | lift_lets
    | with_reducible refine kept_act k_act (fun s hs => ?_) ?_
    | with_reducible refine kept_raise k_raise ?_
    | with_reducible refine kept_tbFlag k_tbFlag ?_
    | (fail_if_no_progress with_reducible refine Kept.mk' ?_  (h_tb := .inr ⟨i0, sm, sm, sm⟩) (h_hp := .inr ⟨i42, .inr i43, sm, sm, .inr i46, sm, sm, sm, sm, sm, sm, sm⟩) (h_evLog := .inr i78) (h_evLogSeq := .inr i79))
    | split
    | with_reducible refine KeptOut.mk' ?_
    | dsimp +zetaDelta only

theorem kept_deniedInvalid {μ : Nat} (hw : 906694364829719136829440 &&& μ = 906694364829719136829440) {s0 : State} {n : Nat} {s : State}  (kh : Kept μ s0 s) :
    Kept μ s0 (deniedInvalid n s) := by
  have k_countFn : 906694364829719136829440 &&& μ = 906694364829719136829440 := sub_of hw rfl
  have k_hifFlag : 83562883710976 &&& μ = 83562883710976 := sub_of hw rfl
  unfold deniedInvalid
  repeat' first
    | with_reducible assumption
    | (intro s; with_reducible refine (fun (hs : Kept μ s0 s) => ?_) ?_)
    | intro x
    | lift_lets
    | with_reducible refine kept_countFn k_countFn ?_
    | with_reducible refine kept_hifFlag k_hifFlag ?_
    | split
    | dsimp +zetaDelta only

theorem kept_deniedWrite {μ : Nat} (hw : 1057810092281547783667712 &&& μ = 1057810092281547783667712) {s0 : State} {n off : Nat} {s : State}  (kh : Kept μ s0 s) :
    Kept μ s0 (deniedWrite n off s) := by
  have k_countFn : 906694364829719136829440 &&& μ = 906694364829719136829440 := sub_of hw rfl
  have k_hifFlag : 83562883710976 &&& μ = 83562883710976 := sub_of hw rfl
  have k_raiseLimited : 1057810092237567318556672 &&& μ = 1057810092237567318556672 := sub_of hw rfl
  unfold deniedWrite
  repeat' first
    | with_reducible assumption
    | (intro s; with_reducible refine (fun (hs : Kept μ s0 s) => ?_) ?_)
    | intro x
    | lift_lets
    | with_reducible refine kept_raiseLimited k_raiseLimited ?_
    | with_reducible refine kept_countFn k_countFn ?_
    | with_reducible refine kept_hifFlag k_hifFlag ?_
    | split
    | dsimp +zetaDelta only

theorem kept_execTimebaseRestartRequest {μ : Nat} (hw : 906694364829719136829441 &&& μ = 906694364829719136829441) {s0 : State} {n key : Nat} {s : State}  (kh : Kept μ s0 s) :
    KeptOut μ s0 (execTimebaseRestartRequest n key s) := by
  have k_act : 0 &&& μ = 0 := sub_of hw rfl
  have k_deniedInvalid : 906694364829719136829440 &&& μ = 906694364829719136829440 := sub_of hw rfl
  have k_raise : 906694364785738671718400 &&& μ = 906694364785738671718400 := sub_of hw rfl
  have k_tbFlag : 13194139533312 &&& μ = 13194139533312 := sub_of hw rfl
  have i0 : μ.testBit 0 = true := bit_of hw rfl
  have i42 : μ.testBit 42 = true := bit_of hw rfl
  have i43 : μ.testBit 43 = true := bit_of hw rfl
  have i45 : μ.testBit 45 = true := bit_of hw rfl
  have i46 : μ.testBit 46 = true := bit_of hw rfl
  have i78 : μ.testBit 78 = true := bit_of hw rfl
  have i79 : μ.testBit 79 = true := bit_of hw rfl
  unfold execTimebaseRestartRequest
  repeat' first
    | with_reducible assumption
    | (intro s; with_reducible refine (fun (hs : Kept μ s0 s) => ?_) ?_)
    | intro x
    | lift_lets
    | with_reducible refine kept_act k_act (fun s hs => ?_) ?_
    | with_reducible refine kept_raise k_raise ?_
    | with_reducible refine kept_tbFlag k_tbFlag ?_
    | with_reducible refine kept_deniedInvalid k_deniedInvalid ?_
    | (fail_if_no_progress with_reducible refine Kept.mk' ?_  (h_tb := .inr ⟨i0, sm, sm, sm⟩) (h_hp := .inr ⟨i42, .inr i43, sm, .inr i45, .inr i46, sm, sm, sm, sm, sm, sm, sm⟩) (h_evLog := .inr i78) (h_evLogSeq := .inr i79))
    | split
    | with_reducible refine KeptOut.mk' ?_
    | dsimp +zetaDelta only

theorem kept_execTbSnap {μ : Nat} (hw : 906694364829719136829441 &&& μ = 906694364829719136829441) {s0 : State} {n ns : Nat} {s : State}  (kh : Kept μ s0 s) :
    KeptOut μ s0 (execTbSnap n ns s) := by
  have k_act : 0 &&& μ = 0 := sub_of hw rfl
  have k_deniedInvalid : 906694364829719136829440 &&& μ = 906694364829719136829440 := sub_of hw rfl
  have k_seen : 1 &&& μ = 1 := sub_of hw rfl
  have k_setFnReg : 13194139533312 &&& μ = 13194139533312 := sub_of hw rfl
  unfold execTbSnap
  repeat' first
    | with_reducible assumption
    | (intro s; with_reducible refine (fun (hs : Kept μ s0 s) => ?_) ?_)
    | intro x
    | lift_lets
    | with_reducible refine kept_act k_act (fun s hs => ?_) ?_
    | with_reducible refine kept_setFnReg k_setFnReg ?_
    | with_reducible refine kept_seen k_seen ?_
    | with_reducible refine kept_deniedInvalid k_deniedInvalid ?_
    | split
    | with_reducible refine KeptOut.mk' ?_
    | dsimp +zetaDelta only

theorem kept_execTbUtcOfsWrite {μ : Nat} (hw : 1060466423428161959100416 &&& μ = 1060466423428161959100416) {s0 : State} {n : Nat} {v : Word} {s : State}  (kh : Kept μ s0 s) :
    KeptOut μ s0 (execTbUtcOfsWrite n v s) := by
  have k_act : 0 &&& μ = 0 := sub_of hw rfl
  have k_deniedInvalid : 906694364829719136829440 &&& μ = 906694364829719136829440 := sub_of hw rfl
  have k_deniedWrite : 1057810092281547783667712 &&& μ = 1057810092281547783667712 := sub_of hw rfl
  have k_storeOfs : 2656331146614175432704 &&& μ = 2656331146614175432704 := sub_of hw rfl
  unfold execTbUtcOfsWrite
  repeat' first
    | with_reducible assumption
    | (intro s; with_reducible refine (fun (hs : Kept μ s0 s) => ?_) ?_)
    | intro x
    | lift_lets
    | with_reducible refine kept_act k_act (fun s hs => ?_) ?_
    | with_reducible refine kept_storeOfs k_storeOfs ?_
    | with_reducible refine kept_deniedInvalid k_deniedInvalid ?_
    | with_reducible refine kept_deniedWrite k_deniedWrite ?_
    | split
    | with_reducible refine KeptOut.mk' ?_
    | dsimp +zetaDelta only

end Sys2Proof.Machine
end

