-- ==== Sys2Proof/Laws/State.lean ====
section
/-!
SUPPORT. Sys2Proof/Laws/State.lean: what each update of one part of the state reads as, part by part.
-/
namespace Sys2Proof.Machine

@[simp] theorem modFn_hp (s : State) (n : Nat) (f : Fn → Fn) : (modFn s n f).hp = s.hp.modify n f := rfl
@[simp] theorem modFn_pending (s : State) (n : Nat) (f : Fn → Fn) : (modFn s n f).pending = s.pending := rfl
@[simp] theorem modFn_tb (s : State) (n : Nat) (f : Fn → Fn) : (modFn s n f).tb = s.tb := rfl
@[simp] theorem modFn_eth (s : State) (n : Nat) (f : Fn → Fn) : (modFn s n f).eth = s.eth := rfl
@[simp] theorem modFn_ing (s : State) (n : Nat) (f : Fn → Fn) : (modFn s n f).ing = s.ing := rfl
@[simp] theorem modFn_aln (s : State) (n : Nat) (f : Fn → Fn) : (modFn s n f).aln = s.aln := rfl
@[simp] theorem modFn_svf (s : State) (n : Nat) (f : Fn → Fn) : (modFn s n f).svf = s.svf := rfl
@[simp] theorem modFn_osc (s : State) (n : Nat) (f : Fn → Fn) : (modFn s n f).osc = s.osc := rfl
@[simp] theorem modFn_isl (s : State) (n : Nat) (f : Fn → Fn) : (modFn s n f).isl = s.isl := rfl
@[simp] theorem modFn_sch (s : State) (n : Nat) (f : Fn → Fn) : (modFn s n f).sch = s.sch := rfl
@[simp] theorem modFn_cap (s : State) (n : Nat) (f : Fn → Fn) : (modFn s n f).cap = s.cap := rfl
@[simp] theorem modFn_mtr (s : State) (n : Nat) (f : Fn → Fn) : (modFn s n f).mtr = s.mtr := rfl
@[simp] theorem modFn_tsk (s : State) (n : Nat) (f : Fn → Fn) : (modFn s n f).tsk = s.tsk := rfl
@[simp] theorem modFn_arb (s : State) (n : Nat) (f : Fn → Fn) : (modFn s n f).arb = s.arb := rfl
@[simp] theorem modFn_pub (s : State) (n : Nat) (f : Fn → Fn) : (modFn s n f).pub = s.pub := rfl
@[simp] theorem modFn_cfg (s : State) (n : Nat) (f : Fn → Fn) : (modFn s n f).cfg = s.cfg := rfl
@[simp] theorem modFn_pair (s : State) (n : Nat) (f : Fn → Fn) : (modFn s n f).pair = s.pair := rfl
@[simp] theorem modFn_sec (s : State) (n : Nat) (f : Fn → Fn) : (modFn s n f).sec = s.sec := rfl
@[simp] theorem modFn_nv (s : State) (n : Nat) (f : Fn → Fn) : (modFn s n f).nv = s.nv := rfl
@[simp] theorem modFn_vbat (s : State) (n : Nat) (f : Fn → Fn) : (modFn s n f).vbat = s.vbat := rfl
@[simp] theorem modFn_part (s : State) (n : Nat) (f : Fn → Fn) : (modFn s n f).part = s.part := rfl
@[simp] theorem modFn_fuses (s : State) (n : Nat) (f : Fn → Fn) : (modFn s n f).fuses = s.fuses := rfl
@[simp] theorem modFn_pwr (s : State) (n : Nat) (f : Fn → Fn) : (modFn s n f).pwr = s.pwr := rfl
@[simp] theorem modFn_cnt (s : State) (n : Nat) (f : Fn → Fn) : (modFn s n f).cnt = s.cnt := rfl
@[simp] theorem modFn_limits (s : State) (n : Nat) (f : Fn → Fn) : (modFn s n f).limits = s.limits := rfl
@[simp] theorem modFn_evLog (s : State) (n : Nat) (f : Fn → Fn) : (modFn s n f).evLog = s.evLog := rfl
@[simp] theorem modFn_evLogSeq (s : State) (n : Nat) (f : Fn → Fn) : (modFn s n f).evLogSeq = s.evLogSeq := rfl
@[simp] theorem modFn_free (s : State) (n : Nat) (f : Fn → Fn) : (modFn s n f).free = s.free := rfl

@[simp] theorem seen_tb (ns : Nat) (s : State) : (seen ns s).tb = { s.tb with now := max s.tb.now ns } := rfl
@[simp] theorem seen_pending (ns : Nat) (s : State) : (seen ns s).pending = s.pending := rfl
@[simp] theorem seen_eth (ns : Nat) (s : State) : (seen ns s).eth = s.eth := rfl
@[simp] theorem seen_ing (ns : Nat) (s : State) : (seen ns s).ing = s.ing := rfl
@[simp] theorem seen_aln (ns : Nat) (s : State) : (seen ns s).aln = s.aln := rfl
@[simp] theorem seen_svf (ns : Nat) (s : State) : (seen ns s).svf = s.svf := rfl
@[simp] theorem seen_osc (ns : Nat) (s : State) : (seen ns s).osc = s.osc := rfl
@[simp] theorem seen_isl (ns : Nat) (s : State) : (seen ns s).isl = s.isl := rfl
@[simp] theorem seen_sch (ns : Nat) (s : State) : (seen ns s).sch = s.sch := rfl
@[simp] theorem seen_cap (ns : Nat) (s : State) : (seen ns s).cap = s.cap := rfl
@[simp] theorem seen_mtr (ns : Nat) (s : State) : (seen ns s).mtr = s.mtr := rfl
@[simp] theorem seen_tsk (ns : Nat) (s : State) : (seen ns s).tsk = s.tsk := rfl
@[simp] theorem seen_arb (ns : Nat) (s : State) : (seen ns s).arb = s.arb := rfl
@[simp] theorem seen_pub (ns : Nat) (s : State) : (seen ns s).pub = s.pub := rfl
@[simp] theorem seen_cfg (ns : Nat) (s : State) : (seen ns s).cfg = s.cfg := rfl
@[simp] theorem seen_hp (ns : Nat) (s : State) : (seen ns s).hp = s.hp := rfl
@[simp] theorem seen_pair (ns : Nat) (s : State) : (seen ns s).pair = s.pair := rfl
@[simp] theorem seen_sec (ns : Nat) (s : State) : (seen ns s).sec = s.sec := rfl
@[simp] theorem seen_nv (ns : Nat) (s : State) : (seen ns s).nv = s.nv := rfl
@[simp] theorem seen_vbat (ns : Nat) (s : State) : (seen ns s).vbat = s.vbat := rfl
@[simp] theorem seen_part (ns : Nat) (s : State) : (seen ns s).part = s.part := rfl
@[simp] theorem seen_fuses (ns : Nat) (s : State) : (seen ns s).fuses = s.fuses := rfl
@[simp] theorem seen_pwr (ns : Nat) (s : State) : (seen ns s).pwr = s.pwr := rfl
@[simp] theorem seen_cnt (ns : Nat) (s : State) : (seen ns s).cnt = s.cnt := rfl
@[simp] theorem seen_limits (ns : Nat) (s : State) : (seen ns s).limits = s.limits := rfl
@[simp] theorem seen_evLog (ns : Nat) (s : State) : (seen ns s).evLog = s.evLog := rfl
@[simp] theorem seen_evLogSeq (ns : Nat) (s : State) : (seen ns s).evLogSeq = s.evLogSeq := rfl
@[simp] theorem seen_free (ns : Nat) (s : State) : (seen ns s).free = s.free := rfl

@[simp] theorem modPort_eth (n : Nat) (f : Port → Port) (s : State) : (modPort n f s).eth = { s.eth with ports := fmod s.eth.ports n {} f } := rfl
@[simp] theorem modPort_pending (n : Nat) (f : Port → Port) (s : State) : (modPort n f s).pending = s.pending := rfl
@[simp] theorem modPort_tb (n : Nat) (f : Port → Port) (s : State) : (modPort n f s).tb = s.tb := rfl
@[simp] theorem modPort_ing (n : Nat) (f : Port → Port) (s : State) : (modPort n f s).ing = s.ing := rfl
@[simp] theorem modPort_aln (n : Nat) (f : Port → Port) (s : State) : (modPort n f s).aln = s.aln := rfl
@[simp] theorem modPort_svf (n : Nat) (f : Port → Port) (s : State) : (modPort n f s).svf = s.svf := rfl
@[simp] theorem modPort_osc (n : Nat) (f : Port → Port) (s : State) : (modPort n f s).osc = s.osc := rfl
@[simp] theorem modPort_isl (n : Nat) (f : Port → Port) (s : State) : (modPort n f s).isl = s.isl := rfl
@[simp] theorem modPort_sch (n : Nat) (f : Port → Port) (s : State) : (modPort n f s).sch = s.sch := rfl
@[simp] theorem modPort_cap (n : Nat) (f : Port → Port) (s : State) : (modPort n f s).cap = s.cap := rfl
@[simp] theorem modPort_mtr (n : Nat) (f : Port → Port) (s : State) : (modPort n f s).mtr = s.mtr := rfl
@[simp] theorem modPort_tsk (n : Nat) (f : Port → Port) (s : State) : (modPort n f s).tsk = s.tsk := rfl
@[simp] theorem modPort_arb (n : Nat) (f : Port → Port) (s : State) : (modPort n f s).arb = s.arb := rfl
@[simp] theorem modPort_pub (n : Nat) (f : Port → Port) (s : State) : (modPort n f s).pub = s.pub := rfl
@[simp] theorem modPort_cfg (n : Nat) (f : Port → Port) (s : State) : (modPort n f s).cfg = s.cfg := rfl
@[simp] theorem modPort_hp (n : Nat) (f : Port → Port) (s : State) : (modPort n f s).hp = s.hp := rfl
@[simp] theorem modPort_pair (n : Nat) (f : Port → Port) (s : State) : (modPort n f s).pair = s.pair := rfl
@[simp] theorem modPort_sec (n : Nat) (f : Port → Port) (s : State) : (modPort n f s).sec = s.sec := rfl
@[simp] theorem modPort_nv (n : Nat) (f : Port → Port) (s : State) : (modPort n f s).nv = s.nv := rfl
@[simp] theorem modPort_vbat (n : Nat) (f : Port → Port) (s : State) : (modPort n f s).vbat = s.vbat := rfl
@[simp] theorem modPort_part (n : Nat) (f : Port → Port) (s : State) : (modPort n f s).part = s.part := rfl
@[simp] theorem modPort_fuses (n : Nat) (f : Port → Port) (s : State) : (modPort n f s).fuses = s.fuses := rfl
@[simp] theorem modPort_pwr (n : Nat) (f : Port → Port) (s : State) : (modPort n f s).pwr = s.pwr := rfl
@[simp] theorem modPort_cnt (n : Nat) (f : Port → Port) (s : State) : (modPort n f s).cnt = s.cnt := rfl
@[simp] theorem modPort_limits (n : Nat) (f : Port → Port) (s : State) : (modPort n f s).limits = s.limits := rfl
@[simp] theorem modPort_evLog (n : Nat) (f : Port → Port) (s : State) : (modPort n f s).evLog = s.evLog := rfl
@[simp] theorem modPort_evLogSeq (n : Nat) (f : Port → Port) (s : State) : (modPort n f s).evLogSeq = s.evLogSeq := rfl
@[simp] theorem modPort_free (n : Nat) (f : Port → Port) (s : State) : (modPort n f s).free = s.free := rfl

@[simp] theorem storeOfs_vbat (o : Int) (s : State) : (storeOfs o s).vbat = { s.vbat with utcOfs := o, utcValid := true } := rfl
@[simp] theorem storeOfs_pending (o : Int) (s : State) : (storeOfs o s).pending = s.pending := rfl
@[simp] theorem storeOfs_tb (o : Int) (s : State) : (storeOfs o s).tb = s.tb := rfl
@[simp] theorem storeOfs_eth (o : Int) (s : State) : (storeOfs o s).eth = s.eth := rfl
@[simp] theorem storeOfs_ing (o : Int) (s : State) : (storeOfs o s).ing = s.ing := rfl
@[simp] theorem storeOfs_aln (o : Int) (s : State) : (storeOfs o s).aln = s.aln := rfl
@[simp] theorem storeOfs_svf (o : Int) (s : State) : (storeOfs o s).svf = s.svf := rfl
@[simp] theorem storeOfs_osc (o : Int) (s : State) : (storeOfs o s).osc = s.osc := rfl
@[simp] theorem storeOfs_isl (o : Int) (s : State) : (storeOfs o s).isl = s.isl := rfl
@[simp] theorem storeOfs_sch (o : Int) (s : State) : (storeOfs o s).sch = s.sch := rfl
@[simp] theorem storeOfs_cap (o : Int) (s : State) : (storeOfs o s).cap = s.cap := rfl
@[simp] theorem storeOfs_mtr (o : Int) (s : State) : (storeOfs o s).mtr = s.mtr := rfl
@[simp] theorem storeOfs_tsk (o : Int) (s : State) : (storeOfs o s).tsk = s.tsk := rfl
@[simp] theorem storeOfs_arb (o : Int) (s : State) : (storeOfs o s).arb = s.arb := rfl
@[simp] theorem storeOfs_pub (o : Int) (s : State) : (storeOfs o s).pub = s.pub := rfl
@[simp] theorem storeOfs_cfg (o : Int) (s : State) : (storeOfs o s).cfg = s.cfg := rfl
@[simp] theorem storeOfs_hp (o : Int) (s : State) : (storeOfs o s).hp = s.hp := rfl
@[simp] theorem storeOfs_pair (o : Int) (s : State) : (storeOfs o s).pair = s.pair := rfl
@[simp] theorem storeOfs_sec (o : Int) (s : State) : (storeOfs o s).sec = s.sec := rfl
@[simp] theorem storeOfs_nv (o : Int) (s : State) : (storeOfs o s).nv = s.nv := rfl
@[simp] theorem storeOfs_part (o : Int) (s : State) : (storeOfs o s).part = s.part := rfl
@[simp] theorem storeOfs_fuses (o : Int) (s : State) : (storeOfs o s).fuses = s.fuses := rfl
@[simp] theorem storeOfs_pwr (o : Int) (s : State) : (storeOfs o s).pwr = s.pwr := rfl
@[simp] theorem storeOfs_cnt (o : Int) (s : State) : (storeOfs o s).cnt = s.cnt := rfl
@[simp] theorem storeOfs_limits (o : Int) (s : State) : (storeOfs o s).limits = s.limits := rfl
@[simp] theorem storeOfs_evLog (o : Int) (s : State) : (storeOfs o s).evLog = s.evLog := rfl
@[simp] theorem storeOfs_evLogSeq (o : Int) (s : State) : (storeOfs o s).evLogSeq = s.evLogSeq := rfl
@[simp] theorem storeOfs_free (o : Int) (s : State) : (storeOfs o s).free = s.free := rfl

@[simp] theorem modStrm_ing (n : Nat) (f : Strm → Strm) (s : State) : (modStrm n f s).ing = { s.ing with strms := fmod s.ing.strms n {} f } := rfl
@[simp] theorem modStrm_pending (n : Nat) (f : Strm → Strm) (s : State) : (modStrm n f s).pending = s.pending := rfl
@[simp] theorem modStrm_tb (n : Nat) (f : Strm → Strm) (s : State) : (modStrm n f s).tb = s.tb := rfl
@[simp] theorem modStrm_eth (n : Nat) (f : Strm → Strm) (s : State) : (modStrm n f s).eth = s.eth := rfl
@[simp] theorem modStrm_aln (n : Nat) (f : Strm → Strm) (s : State) : (modStrm n f s).aln = s.aln := rfl
@[simp] theorem modStrm_svf (n : Nat) (f : Strm → Strm) (s : State) : (modStrm n f s).svf = s.svf := rfl
@[simp] theorem modStrm_osc (n : Nat) (f : Strm → Strm) (s : State) : (modStrm n f s).osc = s.osc := rfl
@[simp] theorem modStrm_isl (n : Nat) (f : Strm → Strm) (s : State) : (modStrm n f s).isl = s.isl := rfl
@[simp] theorem modStrm_sch (n : Nat) (f : Strm → Strm) (s : State) : (modStrm n f s).sch = s.sch := rfl
@[simp] theorem modStrm_cap (n : Nat) (f : Strm → Strm) (s : State) : (modStrm n f s).cap = s.cap := rfl
@[simp] theorem modStrm_mtr (n : Nat) (f : Strm → Strm) (s : State) : (modStrm n f s).mtr = s.mtr := rfl
@[simp] theorem modStrm_tsk (n : Nat) (f : Strm → Strm) (s : State) : (modStrm n f s).tsk = s.tsk := rfl
@[simp] theorem modStrm_arb (n : Nat) (f : Strm → Strm) (s : State) : (modStrm n f s).arb = s.arb := rfl
@[simp] theorem modStrm_pub (n : Nat) (f : Strm → Strm) (s : State) : (modStrm n f s).pub = s.pub := rfl
@[simp] theorem modStrm_cfg (n : Nat) (f : Strm → Strm) (s : State) : (modStrm n f s).cfg = s.cfg := rfl
@[simp] theorem modStrm_hp (n : Nat) (f : Strm → Strm) (s : State) : (modStrm n f s).hp = s.hp := rfl
@[simp] theorem modStrm_pair (n : Nat) (f : Strm → Strm) (s : State) : (modStrm n f s).pair = s.pair := rfl
@[simp] theorem modStrm_sec (n : Nat) (f : Strm → Strm) (s : State) : (modStrm n f s).sec = s.sec := rfl
@[simp] theorem modStrm_nv (n : Nat) (f : Strm → Strm) (s : State) : (modStrm n f s).nv = s.nv := rfl
@[simp] theorem modStrm_vbat (n : Nat) (f : Strm → Strm) (s : State) : (modStrm n f s).vbat = s.vbat := rfl
@[simp] theorem modStrm_part (n : Nat) (f : Strm → Strm) (s : State) : (modStrm n f s).part = s.part := rfl
@[simp] theorem modStrm_fuses (n : Nat) (f : Strm → Strm) (s : State) : (modStrm n f s).fuses = s.fuses := rfl
@[simp] theorem modStrm_pwr (n : Nat) (f : Strm → Strm) (s : State) : (modStrm n f s).pwr = s.pwr := rfl
@[simp] theorem modStrm_cnt (n : Nat) (f : Strm → Strm) (s : State) : (modStrm n f s).cnt = s.cnt := rfl
@[simp] theorem modStrm_limits (n : Nat) (f : Strm → Strm) (s : State) : (modStrm n f s).limits = s.limits := rfl
@[simp] theorem modStrm_evLog (n : Nat) (f : Strm → Strm) (s : State) : (modStrm n f s).evLog = s.evLog := rfl
@[simp] theorem modStrm_evLogSeq (n : Nat) (f : Strm → Strm) (s : State) : (modStrm n f s).evLogSeq = s.evLogSeq := rfl
@[simp] theorem modStrm_free (n : Nat) (f : Strm → Strm) (s : State) : (modStrm n f s).free = s.free := rfl

@[simp] theorem modSub_svf (n : Nat) (f : SvSub → SvSub) (s : State) : (modSub n f s).svf = { s.svf with subs := fmod s.svf.subs n {} f } := rfl
@[simp] theorem modSub_pending (n : Nat) (f : SvSub → SvSub) (s : State) : (modSub n f s).pending = s.pending := rfl
@[simp] theorem modSub_tb (n : Nat) (f : SvSub → SvSub) (s : State) : (modSub n f s).tb = s.tb := rfl
@[simp] theorem modSub_eth (n : Nat) (f : SvSub → SvSub) (s : State) : (modSub n f s).eth = s.eth := rfl
@[simp] theorem modSub_ing (n : Nat) (f : SvSub → SvSub) (s : State) : (modSub n f s).ing = s.ing := rfl
@[simp] theorem modSub_aln (n : Nat) (f : SvSub → SvSub) (s : State) : (modSub n f s).aln = s.aln := rfl
@[simp] theorem modSub_osc (n : Nat) (f : SvSub → SvSub) (s : State) : (modSub n f s).osc = s.osc := rfl
@[simp] theorem modSub_isl (n : Nat) (f : SvSub → SvSub) (s : State) : (modSub n f s).isl = s.isl := rfl
@[simp] theorem modSub_sch (n : Nat) (f : SvSub → SvSub) (s : State) : (modSub n f s).sch = s.sch := rfl
@[simp] theorem modSub_cap (n : Nat) (f : SvSub → SvSub) (s : State) : (modSub n f s).cap = s.cap := rfl
@[simp] theorem modSub_mtr (n : Nat) (f : SvSub → SvSub) (s : State) : (modSub n f s).mtr = s.mtr := rfl
@[simp] theorem modSub_tsk (n : Nat) (f : SvSub → SvSub) (s : State) : (modSub n f s).tsk = s.tsk := rfl
@[simp] theorem modSub_arb (n : Nat) (f : SvSub → SvSub) (s : State) : (modSub n f s).arb = s.arb := rfl
@[simp] theorem modSub_pub (n : Nat) (f : SvSub → SvSub) (s : State) : (modSub n f s).pub = s.pub := rfl
@[simp] theorem modSub_cfg (n : Nat) (f : SvSub → SvSub) (s : State) : (modSub n f s).cfg = s.cfg := rfl
@[simp] theorem modSub_hp (n : Nat) (f : SvSub → SvSub) (s : State) : (modSub n f s).hp = s.hp := rfl
@[simp] theorem modSub_pair (n : Nat) (f : SvSub → SvSub) (s : State) : (modSub n f s).pair = s.pair := rfl
@[simp] theorem modSub_sec (n : Nat) (f : SvSub → SvSub) (s : State) : (modSub n f s).sec = s.sec := rfl
@[simp] theorem modSub_nv (n : Nat) (f : SvSub → SvSub) (s : State) : (modSub n f s).nv = s.nv := rfl
@[simp] theorem modSub_vbat (n : Nat) (f : SvSub → SvSub) (s : State) : (modSub n f s).vbat = s.vbat := rfl
@[simp] theorem modSub_part (n : Nat) (f : SvSub → SvSub) (s : State) : (modSub n f s).part = s.part := rfl
@[simp] theorem modSub_fuses (n : Nat) (f : SvSub → SvSub) (s : State) : (modSub n f s).fuses = s.fuses := rfl
@[simp] theorem modSub_pwr (n : Nat) (f : SvSub → SvSub) (s : State) : (modSub n f s).pwr = s.pwr := rfl
@[simp] theorem modSub_cnt (n : Nat) (f : SvSub → SvSub) (s : State) : (modSub n f s).cnt = s.cnt := rfl
@[simp] theorem modSub_limits (n : Nat) (f : SvSub → SvSub) (s : State) : (modSub n f s).limits = s.limits := rfl
@[simp] theorem modSub_evLog (n : Nat) (f : SvSub → SvSub) (s : State) : (modSub n f s).evLog = s.evLog := rfl
@[simp] theorem modSub_evLogSeq (n : Nat) (f : SvSub → SvSub) (s : State) : (modSub n f s).evLogSeq = s.evLogSeq := rfl
@[simp] theorem modSub_free (n : Nat) (f : SvSub → SvSub) (s : State) : (modSub n f s).free = s.free := rfl

@[simp] theorem modSlot_svf (j : Nat) (f : SvSlot → SvSlot) (s : State) : (modSlot j f s).svf = { s.svf with slots := fmod s.svf.slots j {} f } := rfl
@[simp] theorem modSlot_pending (j : Nat) (f : SvSlot → SvSlot) (s : State) : (modSlot j f s).pending = s.pending := rfl
@[simp] theorem modSlot_tb (j : Nat) (f : SvSlot → SvSlot) (s : State) : (modSlot j f s).tb = s.tb := rfl
@[simp] theorem modSlot_eth (j : Nat) (f : SvSlot → SvSlot) (s : State) : (modSlot j f s).eth = s.eth := rfl
@[simp] theorem modSlot_ing (j : Nat) (f : SvSlot → SvSlot) (s : State) : (modSlot j f s).ing = s.ing := rfl
@[simp] theorem modSlot_aln (j : Nat) (f : SvSlot → SvSlot) (s : State) : (modSlot j f s).aln = s.aln := rfl
@[simp] theorem modSlot_osc (j : Nat) (f : SvSlot → SvSlot) (s : State) : (modSlot j f s).osc = s.osc := rfl
@[simp] theorem modSlot_isl (j : Nat) (f : SvSlot → SvSlot) (s : State) : (modSlot j f s).isl = s.isl := rfl
@[simp] theorem modSlot_sch (j : Nat) (f : SvSlot → SvSlot) (s : State) : (modSlot j f s).sch = s.sch := rfl
@[simp] theorem modSlot_cap (j : Nat) (f : SvSlot → SvSlot) (s : State) : (modSlot j f s).cap = s.cap := rfl
@[simp] theorem modSlot_mtr (j : Nat) (f : SvSlot → SvSlot) (s : State) : (modSlot j f s).mtr = s.mtr := rfl
@[simp] theorem modSlot_tsk (j : Nat) (f : SvSlot → SvSlot) (s : State) : (modSlot j f s).tsk = s.tsk := rfl
@[simp] theorem modSlot_arb (j : Nat) (f : SvSlot → SvSlot) (s : State) : (modSlot j f s).arb = s.arb := rfl
@[simp] theorem modSlot_pub (j : Nat) (f : SvSlot → SvSlot) (s : State) : (modSlot j f s).pub = s.pub := rfl
@[simp] theorem modSlot_cfg (j : Nat) (f : SvSlot → SvSlot) (s : State) : (modSlot j f s).cfg = s.cfg := rfl
@[simp] theorem modSlot_hp (j : Nat) (f : SvSlot → SvSlot) (s : State) : (modSlot j f s).hp = s.hp := rfl
@[simp] theorem modSlot_pair (j : Nat) (f : SvSlot → SvSlot) (s : State) : (modSlot j f s).pair = s.pair := rfl
@[simp] theorem modSlot_sec (j : Nat) (f : SvSlot → SvSlot) (s : State) : (modSlot j f s).sec = s.sec := rfl
@[simp] theorem modSlot_nv (j : Nat) (f : SvSlot → SvSlot) (s : State) : (modSlot j f s).nv = s.nv := rfl
@[simp] theorem modSlot_vbat (j : Nat) (f : SvSlot → SvSlot) (s : State) : (modSlot j f s).vbat = s.vbat := rfl
@[simp] theorem modSlot_part (j : Nat) (f : SvSlot → SvSlot) (s : State) : (modSlot j f s).part = s.part := rfl
@[simp] theorem modSlot_fuses (j : Nat) (f : SvSlot → SvSlot) (s : State) : (modSlot j f s).fuses = s.fuses := rfl
@[simp] theorem modSlot_pwr (j : Nat) (f : SvSlot → SvSlot) (s : State) : (modSlot j f s).pwr = s.pwr := rfl
@[simp] theorem modSlot_cnt (j : Nat) (f : SvSlot → SvSlot) (s : State) : (modSlot j f s).cnt = s.cnt := rfl
@[simp] theorem modSlot_limits (j : Nat) (f : SvSlot → SvSlot) (s : State) : (modSlot j f s).limits = s.limits := rfl
@[simp] theorem modSlot_evLog (j : Nat) (f : SvSlot → SvSlot) (s : State) : (modSlot j f s).evLog = s.evLog := rfl
@[simp] theorem modSlot_evLogSeq (j : Nat) (f : SvSlot → SvSlot) (s : State) : (modSlot j f s).evLogSeq = s.evLogSeq := rfl
@[simp] theorem modSlot_free (j : Nat) (f : SvSlot → SvSlot) (s : State) : (modSlot j f s).free = s.free := rfl

@[simp] theorem modDo_pub (n : Nat) (f : Do → Do) (s : State) : (modDo n f s).pub = { s.pub with dos := fmod s.pub.dos n {} f } := rfl
@[simp] theorem modDo_pending (n : Nat) (f : Do → Do) (s : State) : (modDo n f s).pending = s.pending := rfl
@[simp] theorem modDo_tb (n : Nat) (f : Do → Do) (s : State) : (modDo n f s).tb = s.tb := rfl
@[simp] theorem modDo_eth (n : Nat) (f : Do → Do) (s : State) : (modDo n f s).eth = s.eth := rfl
@[simp] theorem modDo_ing (n : Nat) (f : Do → Do) (s : State) : (modDo n f s).ing = s.ing := rfl
@[simp] theorem modDo_aln (n : Nat) (f : Do → Do) (s : State) : (modDo n f s).aln = s.aln := rfl
@[simp] theorem modDo_svf (n : Nat) (f : Do → Do) (s : State) : (modDo n f s).svf = s.svf := rfl
@[simp] theorem modDo_osc (n : Nat) (f : Do → Do) (s : State) : (modDo n f s).osc = s.osc := rfl
@[simp] theorem modDo_isl (n : Nat) (f : Do → Do) (s : State) : (modDo n f s).isl = s.isl := rfl
@[simp] theorem modDo_sch (n : Nat) (f : Do → Do) (s : State) : (modDo n f s).sch = s.sch := rfl
@[simp] theorem modDo_cap (n : Nat) (f : Do → Do) (s : State) : (modDo n f s).cap = s.cap := rfl
@[simp] theorem modDo_mtr (n : Nat) (f : Do → Do) (s : State) : (modDo n f s).mtr = s.mtr := rfl
@[simp] theorem modDo_tsk (n : Nat) (f : Do → Do) (s : State) : (modDo n f s).tsk = s.tsk := rfl
@[simp] theorem modDo_arb (n : Nat) (f : Do → Do) (s : State) : (modDo n f s).arb = s.arb := rfl
@[simp] theorem modDo_cfg (n : Nat) (f : Do → Do) (s : State) : (modDo n f s).cfg = s.cfg := rfl
@[simp] theorem modDo_hp (n : Nat) (f : Do → Do) (s : State) : (modDo n f s).hp = s.hp := rfl
@[simp] theorem modDo_pair (n : Nat) (f : Do → Do) (s : State) : (modDo n f s).pair = s.pair := rfl
@[simp] theorem modDo_sec (n : Nat) (f : Do → Do) (s : State) : (modDo n f s).sec = s.sec := rfl
@[simp] theorem modDo_nv (n : Nat) (f : Do → Do) (s : State) : (modDo n f s).nv = s.nv := rfl
@[simp] theorem modDo_vbat (n : Nat) (f : Do → Do) (s : State) : (modDo n f s).vbat = s.vbat := rfl
@[simp] theorem modDo_part (n : Nat) (f : Do → Do) (s : State) : (modDo n f s).part = s.part := rfl
@[simp] theorem modDo_fuses (n : Nat) (f : Do → Do) (s : State) : (modDo n f s).fuses = s.fuses := rfl
@[simp] theorem modDo_pwr (n : Nat) (f : Do → Do) (s : State) : (modDo n f s).pwr = s.pwr := rfl
@[simp] theorem modDo_cnt (n : Nat) (f : Do → Do) (s : State) : (modDo n f s).cnt = s.cnt := rfl
@[simp] theorem modDo_limits (n : Nat) (f : Do → Do) (s : State) : (modDo n f s).limits = s.limits := rfl
@[simp] theorem modDo_evLog (n : Nat) (f : Do → Do) (s : State) : (modDo n f s).evLog = s.evLog := rfl
@[simp] theorem modDo_evLogSeq (n : Nat) (f : Do → Do) (s : State) : (modDo n f s).evLogSeq = s.evLogSeq := rfl
@[simp] theorem modDo_free (n : Nat) (f : Do → Do) (s : State) : (modDo n f s).free = s.free := rfl

@[simp] theorem modTask_sch (t : Nat) (f : Task → Task) (s : State) : (modTask t f s).sch = { s.sch with tasks := fmod s.sch.tasks t {} f } := rfl
@[simp] theorem modTask_pending (t : Nat) (f : Task → Task) (s : State) : (modTask t f s).pending = s.pending := rfl
@[simp] theorem modTask_tb (t : Nat) (f : Task → Task) (s : State) : (modTask t f s).tb = s.tb := rfl
@[simp] theorem modTask_eth (t : Nat) (f : Task → Task) (s : State) : (modTask t f s).eth = s.eth := rfl
@[simp] theorem modTask_ing (t : Nat) (f : Task → Task) (s : State) : (modTask t f s).ing = s.ing := rfl
@[simp] theorem modTask_aln (t : Nat) (f : Task → Task) (s : State) : (modTask t f s).aln = s.aln := rfl
@[simp] theorem modTask_svf (t : Nat) (f : Task → Task) (s : State) : (modTask t f s).svf = s.svf := rfl
@[simp] theorem modTask_osc (t : Nat) (f : Task → Task) (s : State) : (modTask t f s).osc = s.osc := rfl
@[simp] theorem modTask_isl (t : Nat) (f : Task → Task) (s : State) : (modTask t f s).isl = s.isl := rfl
@[simp] theorem modTask_cap (t : Nat) (f : Task → Task) (s : State) : (modTask t f s).cap = s.cap := rfl
@[simp] theorem modTask_mtr (t : Nat) (f : Task → Task) (s : State) : (modTask t f s).mtr = s.mtr := rfl
@[simp] theorem modTask_tsk (t : Nat) (f : Task → Task) (s : State) : (modTask t f s).tsk = s.tsk := rfl
@[simp] theorem modTask_arb (t : Nat) (f : Task → Task) (s : State) : (modTask t f s).arb = s.arb := rfl
@[simp] theorem modTask_pub (t : Nat) (f : Task → Task) (s : State) : (modTask t f s).pub = s.pub := rfl
@[simp] theorem modTask_cfg (t : Nat) (f : Task → Task) (s : State) : (modTask t f s).cfg = s.cfg := rfl
@[simp] theorem modTask_hp (t : Nat) (f : Task → Task) (s : State) : (modTask t f s).hp = s.hp := rfl
@[simp] theorem modTask_pair (t : Nat) (f : Task → Task) (s : State) : (modTask t f s).pair = s.pair := rfl
@[simp] theorem modTask_sec (t : Nat) (f : Task → Task) (s : State) : (modTask t f s).sec = s.sec := rfl
@[simp] theorem modTask_nv (t : Nat) (f : Task → Task) (s : State) : (modTask t f s).nv = s.nv := rfl
@[simp] theorem modTask_vbat (t : Nat) (f : Task → Task) (s : State) : (modTask t f s).vbat = s.vbat := rfl
@[simp] theorem modTask_part (t : Nat) (f : Task → Task) (s : State) : (modTask t f s).part = s.part := rfl
@[simp] theorem modTask_fuses (t : Nat) (f : Task → Task) (s : State) : (modTask t f s).fuses = s.fuses := rfl
@[simp] theorem modTask_pwr (t : Nat) (f : Task → Task) (s : State) : (modTask t f s).pwr = s.pwr := rfl
@[simp] theorem modTask_cnt (t : Nat) (f : Task → Task) (s : State) : (modTask t f s).cnt = s.cnt := rfl
@[simp] theorem modTask_limits (t : Nat) (f : Task → Task) (s : State) : (modTask t f s).limits = s.limits := rfl
@[simp] theorem modTask_evLog (t : Nat) (f : Task → Task) (s : State) : (modTask t f s).evLog = s.evLog := rfl
@[simp] theorem modTask_evLogSeq (t : Nat) (f : Task → Task) (s : State) : (modTask t f s).evLogSeq = s.evLogSeq := rfl
@[simp] theorem modTask_free (t : Nat) (f : Task → Task) (s : State) : (modTask t f s).free = s.free := rfl

@[simp] theorem modCmp_isl (c : Nat) (f : Cmp → Cmp) (s : State) : (modCmp c f s).isl = { s.isl with cmps := fmod s.isl.cmps c {} f } := rfl
@[simp] theorem modCmp_pending (c : Nat) (f : Cmp → Cmp) (s : State) : (modCmp c f s).pending = s.pending := rfl
@[simp] theorem modCmp_tb (c : Nat) (f : Cmp → Cmp) (s : State) : (modCmp c f s).tb = s.tb := rfl
@[simp] theorem modCmp_eth (c : Nat) (f : Cmp → Cmp) (s : State) : (modCmp c f s).eth = s.eth := rfl
@[simp] theorem modCmp_ing (c : Nat) (f : Cmp → Cmp) (s : State) : (modCmp c f s).ing = s.ing := rfl
@[simp] theorem modCmp_aln (c : Nat) (f : Cmp → Cmp) (s : State) : (modCmp c f s).aln = s.aln := rfl
@[simp] theorem modCmp_svf (c : Nat) (f : Cmp → Cmp) (s : State) : (modCmp c f s).svf = s.svf := rfl
@[simp] theorem modCmp_osc (c : Nat) (f : Cmp → Cmp) (s : State) : (modCmp c f s).osc = s.osc := rfl
@[simp] theorem modCmp_sch (c : Nat) (f : Cmp → Cmp) (s : State) : (modCmp c f s).sch = s.sch := rfl
@[simp] theorem modCmp_cap (c : Nat) (f : Cmp → Cmp) (s : State) : (modCmp c f s).cap = s.cap := rfl
@[simp] theorem modCmp_mtr (c : Nat) (f : Cmp → Cmp) (s : State) : (modCmp c f s).mtr = s.mtr := rfl
@[simp] theorem modCmp_tsk (c : Nat) (f : Cmp → Cmp) (s : State) : (modCmp c f s).tsk = s.tsk := rfl
@[simp] theorem modCmp_arb (c : Nat) (f : Cmp → Cmp) (s : State) : (modCmp c f s).arb = s.arb := rfl
@[simp] theorem modCmp_pub (c : Nat) (f : Cmp → Cmp) (s : State) : (modCmp c f s).pub = s.pub := rfl
@[simp] theorem modCmp_cfg (c : Nat) (f : Cmp → Cmp) (s : State) : (modCmp c f s).cfg = s.cfg := rfl
@[simp] theorem modCmp_hp (c : Nat) (f : Cmp → Cmp) (s : State) : (modCmp c f s).hp = s.hp := rfl
@[simp] theorem modCmp_pair (c : Nat) (f : Cmp → Cmp) (s : State) : (modCmp c f s).pair = s.pair := rfl
@[simp] theorem modCmp_sec (c : Nat) (f : Cmp → Cmp) (s : State) : (modCmp c f s).sec = s.sec := rfl
@[simp] theorem modCmp_nv (c : Nat) (f : Cmp → Cmp) (s : State) : (modCmp c f s).nv = s.nv := rfl
@[simp] theorem modCmp_vbat (c : Nat) (f : Cmp → Cmp) (s : State) : (modCmp c f s).vbat = s.vbat := rfl
@[simp] theorem modCmp_part (c : Nat) (f : Cmp → Cmp) (s : State) : (modCmp c f s).part = s.part := rfl
@[simp] theorem modCmp_fuses (c : Nat) (f : Cmp → Cmp) (s : State) : (modCmp c f s).fuses = s.fuses := rfl
@[simp] theorem modCmp_pwr (c : Nat) (f : Cmp → Cmp) (s : State) : (modCmp c f s).pwr = s.pwr := rfl
@[simp] theorem modCmp_cnt (c : Nat) (f : Cmp → Cmp) (s : State) : (modCmp c f s).cnt = s.cnt := rfl
@[simp] theorem modCmp_limits (c : Nat) (f : Cmp → Cmp) (s : State) : (modCmp c f s).limits = s.limits := rfl
@[simp] theorem modCmp_evLog (c : Nat) (f : Cmp → Cmp) (s : State) : (modCmp c f s).evLog = s.evLog := rfl
@[simp] theorem modCmp_evLogSeq (c : Nat) (f : Cmp → Cmp) (s : State) : (modCmp c f s).evLogSeq = s.evLogSeq := rfl
@[simp] theorem modCmp_free (c : Nat) (f : Cmp → Cmp) (s : State) : (modCmp c f s).free = s.free := rfl

@[simp] theorem modVote_aln (v : Nat) (f : Vote → Vote) (s : State) : (modVote v f s).aln = { s.aln with votes := fmod s.aln.votes v {} f } := rfl
@[simp] theorem modVote_pending (v : Nat) (f : Vote → Vote) (s : State) : (modVote v f s).pending = s.pending := rfl
@[simp] theorem modVote_tb (v : Nat) (f : Vote → Vote) (s : State) : (modVote v f s).tb = s.tb := rfl
@[simp] theorem modVote_eth (v : Nat) (f : Vote → Vote) (s : State) : (modVote v f s).eth = s.eth := rfl
@[simp] theorem modVote_ing (v : Nat) (f : Vote → Vote) (s : State) : (modVote v f s).ing = s.ing := rfl
@[simp] theorem modVote_svf (v : Nat) (f : Vote → Vote) (s : State) : (modVote v f s).svf = s.svf := rfl
@[simp] theorem modVote_osc (v : Nat) (f : Vote → Vote) (s : State) : (modVote v f s).osc = s.osc := rfl
@[simp] theorem modVote_isl (v : Nat) (f : Vote → Vote) (s : State) : (modVote v f s).isl = s.isl := rfl
@[simp] theorem modVote_sch (v : Nat) (f : Vote → Vote) (s : State) : (modVote v f s).sch = s.sch := rfl
@[simp] theorem modVote_cap (v : Nat) (f : Vote → Vote) (s : State) : (modVote v f s).cap = s.cap := rfl
@[simp] theorem modVote_mtr (v : Nat) (f : Vote → Vote) (s : State) : (modVote v f s).mtr = s.mtr := rfl
@[simp] theorem modVote_tsk (v : Nat) (f : Vote → Vote) (s : State) : (modVote v f s).tsk = s.tsk := rfl
@[simp] theorem modVote_arb (v : Nat) (f : Vote → Vote) (s : State) : (modVote v f s).arb = s.arb := rfl
@[simp] theorem modVote_pub (v : Nat) (f : Vote → Vote) (s : State) : (modVote v f s).pub = s.pub := rfl
@[simp] theorem modVote_cfg (v : Nat) (f : Vote → Vote) (s : State) : (modVote v f s).cfg = s.cfg := rfl
@[simp] theorem modVote_hp (v : Nat) (f : Vote → Vote) (s : State) : (modVote v f s).hp = s.hp := rfl
@[simp] theorem modVote_pair (v : Nat) (f : Vote → Vote) (s : State) : (modVote v f s).pair = s.pair := rfl
@[simp] theorem modVote_sec (v : Nat) (f : Vote → Vote) (s : State) : (modVote v f s).sec = s.sec := rfl
@[simp] theorem modVote_nv (v : Nat) (f : Vote → Vote) (s : State) : (modVote v f s).nv = s.nv := rfl
@[simp] theorem modVote_vbat (v : Nat) (f : Vote → Vote) (s : State) : (modVote v f s).vbat = s.vbat := rfl
@[simp] theorem modVote_part (v : Nat) (f : Vote → Vote) (s : State) : (modVote v f s).part = s.part := rfl
@[simp] theorem modVote_fuses (v : Nat) (f : Vote → Vote) (s : State) : (modVote v f s).fuses = s.fuses := rfl
@[simp] theorem modVote_pwr (v : Nat) (f : Vote → Vote) (s : State) : (modVote v f s).pwr = s.pwr := rfl
@[simp] theorem modVote_cnt (v : Nat) (f : Vote → Vote) (s : State) : (modVote v f s).cnt = s.cnt := rfl
@[simp] theorem modVote_limits (v : Nat) (f : Vote → Vote) (s : State) : (modVote v f s).limits = s.limits := rfl
@[simp] theorem modVote_evLog (v : Nat) (f : Vote → Vote) (s : State) : (modVote v f s).evLog = s.evLog := rfl
@[simp] theorem modVote_evLogSeq (v : Nat) (f : Vote → Vote) (s : State) : (modVote v f s).evLogSeq = s.evLogSeq := rfl
@[simp] theorem modVote_free (v : Nat) (f : Vote → Vote) (s : State) : (modVote v f s).free = s.free := rfl

@[simp] theorem modSig_osc (n : Nat) (f : OscSig → OscSig) (s : State) : (modSig n f s).osc = { s.osc with sigs := fmod s.osc.sigs n {} f } := rfl
@[simp] theorem modSig_pending (n : Nat) (f : OscSig → OscSig) (s : State) : (modSig n f s).pending = s.pending := rfl
@[simp] theorem modSig_tb (n : Nat) (f : OscSig → OscSig) (s : State) : (modSig n f s).tb = s.tb := rfl
@[simp] theorem modSig_eth (n : Nat) (f : OscSig → OscSig) (s : State) : (modSig n f s).eth = s.eth := rfl
@[simp] theorem modSig_ing (n : Nat) (f : OscSig → OscSig) (s : State) : (modSig n f s).ing = s.ing := rfl
@[simp] theorem modSig_aln (n : Nat) (f : OscSig → OscSig) (s : State) : (modSig n f s).aln = s.aln := rfl
@[simp] theorem modSig_svf (n : Nat) (f : OscSig → OscSig) (s : State) : (modSig n f s).svf = s.svf := rfl
@[simp] theorem modSig_isl (n : Nat) (f : OscSig → OscSig) (s : State) : (modSig n f s).isl = s.isl := rfl
@[simp] theorem modSig_sch (n : Nat) (f : OscSig → OscSig) (s : State) : (modSig n f s).sch = s.sch := rfl
@[simp] theorem modSig_cap (n : Nat) (f : OscSig → OscSig) (s : State) : (modSig n f s).cap = s.cap := rfl
@[simp] theorem modSig_mtr (n : Nat) (f : OscSig → OscSig) (s : State) : (modSig n f s).mtr = s.mtr := rfl
@[simp] theorem modSig_tsk (n : Nat) (f : OscSig → OscSig) (s : State) : (modSig n f s).tsk = s.tsk := rfl
@[simp] theorem modSig_arb (n : Nat) (f : OscSig → OscSig) (s : State) : (modSig n f s).arb = s.arb := rfl
@[simp] theorem modSig_pub (n : Nat) (f : OscSig → OscSig) (s : State) : (modSig n f s).pub = s.pub := rfl
@[simp] theorem modSig_cfg (n : Nat) (f : OscSig → OscSig) (s : State) : (modSig n f s).cfg = s.cfg := rfl
@[simp] theorem modSig_hp (n : Nat) (f : OscSig → OscSig) (s : State) : (modSig n f s).hp = s.hp := rfl
@[simp] theorem modSig_pair (n : Nat) (f : OscSig → OscSig) (s : State) : (modSig n f s).pair = s.pair := rfl
@[simp] theorem modSig_sec (n : Nat) (f : OscSig → OscSig) (s : State) : (modSig n f s).sec = s.sec := rfl
@[simp] theorem modSig_nv (n : Nat) (f : OscSig → OscSig) (s : State) : (modSig n f s).nv = s.nv := rfl
@[simp] theorem modSig_vbat (n : Nat) (f : OscSig → OscSig) (s : State) : (modSig n f s).vbat = s.vbat := rfl
@[simp] theorem modSig_part (n : Nat) (f : OscSig → OscSig) (s : State) : (modSig n f s).part = s.part := rfl
@[simp] theorem modSig_fuses (n : Nat) (f : OscSig → OscSig) (s : State) : (modSig n f s).fuses = s.fuses := rfl
@[simp] theorem modSig_pwr (n : Nat) (f : OscSig → OscSig) (s : State) : (modSig n f s).pwr = s.pwr := rfl
@[simp] theorem modSig_cnt (n : Nat) (f : OscSig → OscSig) (s : State) : (modSig n f s).cnt = s.cnt := rfl
@[simp] theorem modSig_limits (n : Nat) (f : OscSig → OscSig) (s : State) : (modSig n f s).limits = s.limits := rfl
@[simp] theorem modSig_evLog (n : Nat) (f : OscSig → OscSig) (s : State) : (modSig n f s).evLog = s.evLog := rfl
@[simp] theorem modSig_evLogSeq (n : Nat) (f : OscSig → OscSig) (s : State) : (modSig n f s).evLogSeq = s.evLogSeq := rfl
@[simp] theorem modSig_free (n : Nat) (f : OscSig → OscSig) (s : State) : (modSig n f s).free = s.free := rfl

@[simp] theorem modAlm_osc (a : Nat) (f : OscAlm → OscAlm) (s : State) : (modAlm a f s).osc = { s.osc with alms := fmod s.osc.alms a {} f } := rfl
@[simp] theorem modAlm_pending (a : Nat) (f : OscAlm → OscAlm) (s : State) : (modAlm a f s).pending = s.pending := rfl
@[simp] theorem modAlm_tb (a : Nat) (f : OscAlm → OscAlm) (s : State) : (modAlm a f s).tb = s.tb := rfl
@[simp] theorem modAlm_eth (a : Nat) (f : OscAlm → OscAlm) (s : State) : (modAlm a f s).eth = s.eth := rfl
@[simp] theorem modAlm_ing (a : Nat) (f : OscAlm → OscAlm) (s : State) : (modAlm a f s).ing = s.ing := rfl
@[simp] theorem modAlm_aln (a : Nat) (f : OscAlm → OscAlm) (s : State) : (modAlm a f s).aln = s.aln := rfl
@[simp] theorem modAlm_svf (a : Nat) (f : OscAlm → OscAlm) (s : State) : (modAlm a f s).svf = s.svf := rfl
@[simp] theorem modAlm_isl (a : Nat) (f : OscAlm → OscAlm) (s : State) : (modAlm a f s).isl = s.isl := rfl
@[simp] theorem modAlm_sch (a : Nat) (f : OscAlm → OscAlm) (s : State) : (modAlm a f s).sch = s.sch := rfl
@[simp] theorem modAlm_cap (a : Nat) (f : OscAlm → OscAlm) (s : State) : (modAlm a f s).cap = s.cap := rfl
@[simp] theorem modAlm_mtr (a : Nat) (f : OscAlm → OscAlm) (s : State) : (modAlm a f s).mtr = s.mtr := rfl
@[simp] theorem modAlm_tsk (a : Nat) (f : OscAlm → OscAlm) (s : State) : (modAlm a f s).tsk = s.tsk := rfl
@[simp] theorem modAlm_arb (a : Nat) (f : OscAlm → OscAlm) (s : State) : (modAlm a f s).arb = s.arb := rfl
@[simp] theorem modAlm_pub (a : Nat) (f : OscAlm → OscAlm) (s : State) : (modAlm a f s).pub = s.pub := rfl
@[simp] theorem modAlm_cfg (a : Nat) (f : OscAlm → OscAlm) (s : State) : (modAlm a f s).cfg = s.cfg := rfl
@[simp] theorem modAlm_hp (a : Nat) (f : OscAlm → OscAlm) (s : State) : (modAlm a f s).hp = s.hp := rfl
@[simp] theorem modAlm_pair (a : Nat) (f : OscAlm → OscAlm) (s : State) : (modAlm a f s).pair = s.pair := rfl
@[simp] theorem modAlm_sec (a : Nat) (f : OscAlm → OscAlm) (s : State) : (modAlm a f s).sec = s.sec := rfl
@[simp] theorem modAlm_nv (a : Nat) (f : OscAlm → OscAlm) (s : State) : (modAlm a f s).nv = s.nv := rfl
@[simp] theorem modAlm_vbat (a : Nat) (f : OscAlm → OscAlm) (s : State) : (modAlm a f s).vbat = s.vbat := rfl
@[simp] theorem modAlm_part (a : Nat) (f : OscAlm → OscAlm) (s : State) : (modAlm a f s).part = s.part := rfl
@[simp] theorem modAlm_fuses (a : Nat) (f : OscAlm → OscAlm) (s : State) : (modAlm a f s).fuses = s.fuses := rfl
@[simp] theorem modAlm_pwr (a : Nat) (f : OscAlm → OscAlm) (s : State) : (modAlm a f s).pwr = s.pwr := rfl
@[simp] theorem modAlm_cnt (a : Nat) (f : OscAlm → OscAlm) (s : State) : (modAlm a f s).cnt = s.cnt := rfl
@[simp] theorem modAlm_limits (a : Nat) (f : OscAlm → OscAlm) (s : State) : (modAlm a f s).limits = s.limits := rfl
@[simp] theorem modAlm_evLog (a : Nat) (f : OscAlm → OscAlm) (s : State) : (modAlm a f s).evLog = s.evLog := rfl
@[simp] theorem modAlm_evLogSeq (a : Nat) (f : OscAlm → OscAlm) (s : State) : (modAlm a f s).evLogSeq = s.evLogSeq := rfl
@[simp] theorem modAlm_free (a : Nat) (f : OscAlm → OscAlm) (s : State) : (modAlm a f s).free = s.free := rfl

@[simp] theorem modMode_osc (m : Nat) (f : OscMode → OscMode) (s : State) : (modMode m f s).osc = { s.osc with modes := fmod s.osc.modes m {} f } := rfl
@[simp] theorem modMode_pending (m : Nat) (f : OscMode → OscMode) (s : State) : (modMode m f s).pending = s.pending := rfl
@[simp] theorem modMode_tb (m : Nat) (f : OscMode → OscMode) (s : State) : (modMode m f s).tb = s.tb := rfl
@[simp] theorem modMode_eth (m : Nat) (f : OscMode → OscMode) (s : State) : (modMode m f s).eth = s.eth := rfl
@[simp] theorem modMode_ing (m : Nat) (f : OscMode → OscMode) (s : State) : (modMode m f s).ing = s.ing := rfl
@[simp] theorem modMode_aln (m : Nat) (f : OscMode → OscMode) (s : State) : (modMode m f s).aln = s.aln := rfl
@[simp] theorem modMode_svf (m : Nat) (f : OscMode → OscMode) (s : State) : (modMode m f s).svf = s.svf := rfl
@[simp] theorem modMode_isl (m : Nat) (f : OscMode → OscMode) (s : State) : (modMode m f s).isl = s.isl := rfl
@[simp] theorem modMode_sch (m : Nat) (f : OscMode → OscMode) (s : State) : (modMode m f s).sch = s.sch := rfl
@[simp] theorem modMode_cap (m : Nat) (f : OscMode → OscMode) (s : State) : (modMode m f s).cap = s.cap := rfl
@[simp] theorem modMode_mtr (m : Nat) (f : OscMode → OscMode) (s : State) : (modMode m f s).mtr = s.mtr := rfl
@[simp] theorem modMode_tsk (m : Nat) (f : OscMode → OscMode) (s : State) : (modMode m f s).tsk = s.tsk := rfl
@[simp] theorem modMode_arb (m : Nat) (f : OscMode → OscMode) (s : State) : (modMode m f s).arb = s.arb := rfl
@[simp] theorem modMode_pub (m : Nat) (f : OscMode → OscMode) (s : State) : (modMode m f s).pub = s.pub := rfl
@[simp] theorem modMode_cfg (m : Nat) (f : OscMode → OscMode) (s : State) : (modMode m f s).cfg = s.cfg := rfl
@[simp] theorem modMode_hp (m : Nat) (f : OscMode → OscMode) (s : State) : (modMode m f s).hp = s.hp := rfl
@[simp] theorem modMode_pair (m : Nat) (f : OscMode → OscMode) (s : State) : (modMode m f s).pair = s.pair := rfl
@[simp] theorem modMode_sec (m : Nat) (f : OscMode → OscMode) (s : State) : (modMode m f s).sec = s.sec := rfl
@[simp] theorem modMode_nv (m : Nat) (f : OscMode → OscMode) (s : State) : (modMode m f s).nv = s.nv := rfl
@[simp] theorem modMode_vbat (m : Nat) (f : OscMode → OscMode) (s : State) : (modMode m f s).vbat = s.vbat := rfl
@[simp] theorem modMode_part (m : Nat) (f : OscMode → OscMode) (s : State) : (modMode m f s).part = s.part := rfl
@[simp] theorem modMode_fuses (m : Nat) (f : OscMode → OscMode) (s : State) : (modMode m f s).fuses = s.fuses := rfl
@[simp] theorem modMode_pwr (m : Nat) (f : OscMode → OscMode) (s : State) : (modMode m f s).pwr = s.pwr := rfl
@[simp] theorem modMode_cnt (m : Nat) (f : OscMode → OscMode) (s : State) : (modMode m f s).cnt = s.cnt := rfl
@[simp] theorem modMode_limits (m : Nat) (f : OscMode → OscMode) (s : State) : (modMode m f s).limits = s.limits := rfl
@[simp] theorem modMode_evLog (m : Nat) (f : OscMode → OscMode) (s : State) : (modMode m f s).evLog = s.evLog := rfl
@[simp] theorem modMode_evLogSeq (m : Nat) (f : OscMode → OscMode) (s : State) : (modMode m f s).evLogSeq = s.evLogSeq := rfl
@[simp] theorem modMode_free (m : Nat) (f : OscMode → OscMode) (s : State) : (modMode m f s).free = s.free := rfl

@[simp] theorem modGrpIsl_isl (g : Nat) (f : IslGrp → IslGrp) (s : State) : (modGrpIsl g f s).isl = { s.isl with grps := fmod s.isl.grps g {} f } := rfl
@[simp] theorem modGrpIsl_pending (g : Nat) (f : IslGrp → IslGrp) (s : State) : (modGrpIsl g f s).pending = s.pending := rfl
@[simp] theorem modGrpIsl_tb (g : Nat) (f : IslGrp → IslGrp) (s : State) : (modGrpIsl g f s).tb = s.tb := rfl
@[simp] theorem modGrpIsl_eth (g : Nat) (f : IslGrp → IslGrp) (s : State) : (modGrpIsl g f s).eth = s.eth := rfl
@[simp] theorem modGrpIsl_ing (g : Nat) (f : IslGrp → IslGrp) (s : State) : (modGrpIsl g f s).ing = s.ing := rfl
@[simp] theorem modGrpIsl_aln (g : Nat) (f : IslGrp → IslGrp) (s : State) : (modGrpIsl g f s).aln = s.aln := rfl
@[simp] theorem modGrpIsl_svf (g : Nat) (f : IslGrp → IslGrp) (s : State) : (modGrpIsl g f s).svf = s.svf := rfl
@[simp] theorem modGrpIsl_osc (g : Nat) (f : IslGrp → IslGrp) (s : State) : (modGrpIsl g f s).osc = s.osc := rfl
@[simp] theorem modGrpIsl_sch (g : Nat) (f : IslGrp → IslGrp) (s : State) : (modGrpIsl g f s).sch = s.sch := rfl
@[simp] theorem modGrpIsl_cap (g : Nat) (f : IslGrp → IslGrp) (s : State) : (modGrpIsl g f s).cap = s.cap := rfl
@[simp] theorem modGrpIsl_mtr (g : Nat) (f : IslGrp → IslGrp) (s : State) : (modGrpIsl g f s).mtr = s.mtr := rfl
@[simp] theorem modGrpIsl_tsk (g : Nat) (f : IslGrp → IslGrp) (s : State) : (modGrpIsl g f s).tsk = s.tsk := rfl
@[simp] theorem modGrpIsl_arb (g : Nat) (f : IslGrp → IslGrp) (s : State) : (modGrpIsl g f s).arb = s.arb := rfl
@[simp] theorem modGrpIsl_pub (g : Nat) (f : IslGrp → IslGrp) (s : State) : (modGrpIsl g f s).pub = s.pub := rfl
@[simp] theorem modGrpIsl_cfg (g : Nat) (f : IslGrp → IslGrp) (s : State) : (modGrpIsl g f s).cfg = s.cfg := rfl
@[simp] theorem modGrpIsl_hp (g : Nat) (f : IslGrp → IslGrp) (s : State) : (modGrpIsl g f s).hp = s.hp := rfl
@[simp] theorem modGrpIsl_pair (g : Nat) (f : IslGrp → IslGrp) (s : State) : (modGrpIsl g f s).pair = s.pair := rfl
@[simp] theorem modGrpIsl_sec (g : Nat) (f : IslGrp → IslGrp) (s : State) : (modGrpIsl g f s).sec = s.sec := rfl
@[simp] theorem modGrpIsl_nv (g : Nat) (f : IslGrp → IslGrp) (s : State) : (modGrpIsl g f s).nv = s.nv := rfl
@[simp] theorem modGrpIsl_vbat (g : Nat) (f : IslGrp → IslGrp) (s : State) : (modGrpIsl g f s).vbat = s.vbat := rfl
@[simp] theorem modGrpIsl_part (g : Nat) (f : IslGrp → IslGrp) (s : State) : (modGrpIsl g f s).part = s.part := rfl
@[simp] theorem modGrpIsl_fuses (g : Nat) (f : IslGrp → IslGrp) (s : State) : (modGrpIsl g f s).fuses = s.fuses := rfl
@[simp] theorem modGrpIsl_pwr (g : Nat) (f : IslGrp → IslGrp) (s : State) : (modGrpIsl g f s).pwr = s.pwr := rfl
@[simp] theorem modGrpIsl_cnt (g : Nat) (f : IslGrp → IslGrp) (s : State) : (modGrpIsl g f s).cnt = s.cnt := rfl
@[simp] theorem modGrpIsl_limits (g : Nat) (f : IslGrp → IslGrp) (s : State) : (modGrpIsl g f s).limits = s.limits := rfl
@[simp] theorem modGrpIsl_evLog (g : Nat) (f : IslGrp → IslGrp) (s : State) : (modGrpIsl g f s).evLog = s.evLog := rfl
@[simp] theorem modGrpIsl_evLogSeq (g : Nat) (f : IslGrp → IslGrp) (s : State) : (modGrpIsl g f s).evLogSeq = s.evLogSeq := rfl
@[simp] theorem modGrpIsl_free (g : Nat) (f : IslGrp → IslGrp) (s : State) : (modGrpIsl g f s).free = s.free := rfl

@[simp] theorem modPair_isl (p : Nat) (f : IslPair → IslPair) (s : State) : (modPair p f s).isl = { s.isl with pairs := fmod s.isl.pairs p {} f } := rfl
@[simp] theorem modPair_pending (p : Nat) (f : IslPair → IslPair) (s : State) : (modPair p f s).pending = s.pending := rfl
@[simp] theorem modPair_tb (p : Nat) (f : IslPair → IslPair) (s : State) : (modPair p f s).tb = s.tb := rfl
@[simp] theorem modPair_eth (p : Nat) (f : IslPair → IslPair) (s : State) : (modPair p f s).eth = s.eth := rfl
@[simp] theorem modPair_ing (p : Nat) (f : IslPair → IslPair) (s : State) : (modPair p f s).ing = s.ing := rfl
@[simp] theorem modPair_aln (p : Nat) (f : IslPair → IslPair) (s : State) : (modPair p f s).aln = s.aln := rfl
@[simp] theorem modPair_svf (p : Nat) (f : IslPair → IslPair) (s : State) : (modPair p f s).svf = s.svf := rfl
@[simp] theorem modPair_osc (p : Nat) (f : IslPair → IslPair) (s : State) : (modPair p f s).osc = s.osc := rfl
@[simp] theorem modPair_sch (p : Nat) (f : IslPair → IslPair) (s : State) : (modPair p f s).sch = s.sch := rfl
@[simp] theorem modPair_cap (p : Nat) (f : IslPair → IslPair) (s : State) : (modPair p f s).cap = s.cap := rfl
@[simp] theorem modPair_mtr (p : Nat) (f : IslPair → IslPair) (s : State) : (modPair p f s).mtr = s.mtr := rfl
@[simp] theorem modPair_tsk (p : Nat) (f : IslPair → IslPair) (s : State) : (modPair p f s).tsk = s.tsk := rfl
@[simp] theorem modPair_arb (p : Nat) (f : IslPair → IslPair) (s : State) : (modPair p f s).arb = s.arb := rfl
@[simp] theorem modPair_pub (p : Nat) (f : IslPair → IslPair) (s : State) : (modPair p f s).pub = s.pub := rfl
@[simp] theorem modPair_cfg (p : Nat) (f : IslPair → IslPair) (s : State) : (modPair p f s).cfg = s.cfg := rfl
@[simp] theorem modPair_hp (p : Nat) (f : IslPair → IslPair) (s : State) : (modPair p f s).hp = s.hp := rfl
@[simp] theorem modPair_pair (p : Nat) (f : IslPair → IslPair) (s : State) : (modPair p f s).pair = s.pair := rfl
@[simp] theorem modPair_sec (p : Nat) (f : IslPair → IslPair) (s : State) : (modPair p f s).sec = s.sec := rfl
@[simp] theorem modPair_nv (p : Nat) (f : IslPair → IslPair) (s : State) : (modPair p f s).nv = s.nv := rfl
@[simp] theorem modPair_vbat (p : Nat) (f : IslPair → IslPair) (s : State) : (modPair p f s).vbat = s.vbat := rfl
@[simp] theorem modPair_part (p : Nat) (f : IslPair → IslPair) (s : State) : (modPair p f s).part = s.part := rfl
@[simp] theorem modPair_fuses (p : Nat) (f : IslPair → IslPair) (s : State) : (modPair p f s).fuses = s.fuses := rfl
@[simp] theorem modPair_pwr (p : Nat) (f : IslPair → IslPair) (s : State) : (modPair p f s).pwr = s.pwr := rfl
@[simp] theorem modPair_cnt (p : Nat) (f : IslPair → IslPair) (s : State) : (modPair p f s).cnt = s.cnt := rfl
@[simp] theorem modPair_limits (p : Nat) (f : IslPair → IslPair) (s : State) : (modPair p f s).limits = s.limits := rfl
@[simp] theorem modPair_evLog (p : Nat) (f : IslPair → IslPair) (s : State) : (modPair p f s).evLog = s.evLog := rfl
@[simp] theorem modPair_evLogSeq (p : Nat) (f : IslPair → IslPair) (s : State) : (modPair p f s).evLogSeq = s.evLogSeq := rfl
@[simp] theorem modPair_free (p : Nat) (f : IslPair → IslPair) (s : State) : (modPair p f s).free = s.free := rfl

@[simp] theorem modIcn_isl (i : Nat) (f : Icn → Icn) (s : State) : (modIcn i f s).isl = { s.isl with icns := fmod s.isl.icns i {} f } := rfl
@[simp] theorem modIcn_pending (i : Nat) (f : Icn → Icn) (s : State) : (modIcn i f s).pending = s.pending := rfl
@[simp] theorem modIcn_tb (i : Nat) (f : Icn → Icn) (s : State) : (modIcn i f s).tb = s.tb := rfl
@[simp] theorem modIcn_eth (i : Nat) (f : Icn → Icn) (s : State) : (modIcn i f s).eth = s.eth := rfl
@[simp] theorem modIcn_ing (i : Nat) (f : Icn → Icn) (s : State) : (modIcn i f s).ing = s.ing := rfl
@[simp] theorem modIcn_aln (i : Nat) (f : Icn → Icn) (s : State) : (modIcn i f s).aln = s.aln := rfl
@[simp] theorem modIcn_svf (i : Nat) (f : Icn → Icn) (s : State) : (modIcn i f s).svf = s.svf := rfl
@[simp] theorem modIcn_osc (i : Nat) (f : Icn → Icn) (s : State) : (modIcn i f s).osc = s.osc := rfl
@[simp] theorem modIcn_sch (i : Nat) (f : Icn → Icn) (s : State) : (modIcn i f s).sch = s.sch := rfl
@[simp] theorem modIcn_cap (i : Nat) (f : Icn → Icn) (s : State) : (modIcn i f s).cap = s.cap := rfl
@[simp] theorem modIcn_mtr (i : Nat) (f : Icn → Icn) (s : State) : (modIcn i f s).mtr = s.mtr := rfl
@[simp] theorem modIcn_tsk (i : Nat) (f : Icn → Icn) (s : State) : (modIcn i f s).tsk = s.tsk := rfl
@[simp] theorem modIcn_arb (i : Nat) (f : Icn → Icn) (s : State) : (modIcn i f s).arb = s.arb := rfl
@[simp] theorem modIcn_pub (i : Nat) (f : Icn → Icn) (s : State) : (modIcn i f s).pub = s.pub := rfl
@[simp] theorem modIcn_cfg (i : Nat) (f : Icn → Icn) (s : State) : (modIcn i f s).cfg = s.cfg := rfl
@[simp] theorem modIcn_hp (i : Nat) (f : Icn → Icn) (s : State) : (modIcn i f s).hp = s.hp := rfl
@[simp] theorem modIcn_pair (i : Nat) (f : Icn → Icn) (s : State) : (modIcn i f s).pair = s.pair := rfl
@[simp] theorem modIcn_sec (i : Nat) (f : Icn → Icn) (s : State) : (modIcn i f s).sec = s.sec := rfl
@[simp] theorem modIcn_nv (i : Nat) (f : Icn → Icn) (s : State) : (modIcn i f s).nv = s.nv := rfl
@[simp] theorem modIcn_vbat (i : Nat) (f : Icn → Icn) (s : State) : (modIcn i f s).vbat = s.vbat := rfl
@[simp] theorem modIcn_part (i : Nat) (f : Icn → Icn) (s : State) : (modIcn i f s).part = s.part := rfl
@[simp] theorem modIcn_fuses (i : Nat) (f : Icn → Icn) (s : State) : (modIcn i f s).fuses = s.fuses := rfl
@[simp] theorem modIcn_pwr (i : Nat) (f : Icn → Icn) (s : State) : (modIcn i f s).pwr = s.pwr := rfl
@[simp] theorem modIcn_cnt (i : Nat) (f : Icn → Icn) (s : State) : (modIcn i f s).cnt = s.cnt := rfl
@[simp] theorem modIcn_limits (i : Nat) (f : Icn → Icn) (s : State) : (modIcn i f s).limits = s.limits := rfl
@[simp] theorem modIcn_evLog (i : Nat) (f : Icn → Icn) (s : State) : (modIcn i f s).evLog = s.evLog := rfl
@[simp] theorem modIcn_evLogSeq (i : Nat) (f : Icn → Icn) (s : State) : (modIcn i f s).evLogSeq = s.evLogSeq := rfl
@[simp] theorem modIcn_free (i : Nat) (f : Icn → Icn) (s : State) : (modIcn i f s).free = s.free := rfl

@[simp] theorem modGrp_aln (g : Nat) (f : Grp → Grp) (s : State) : (modGrp g f s).aln = { s.aln with grps := fmod s.aln.grps g {} f } := rfl
@[simp] theorem modGrp_pending (g : Nat) (f : Grp → Grp) (s : State) : (modGrp g f s).pending = s.pending := rfl
@[simp] theorem modGrp_tb (g : Nat) (f : Grp → Grp) (s : State) : (modGrp g f s).tb = s.tb := rfl
@[simp] theorem modGrp_eth (g : Nat) (f : Grp → Grp) (s : State) : (modGrp g f s).eth = s.eth := rfl
@[simp] theorem modGrp_ing (g : Nat) (f : Grp → Grp) (s : State) : (modGrp g f s).ing = s.ing := rfl
@[simp] theorem modGrp_svf (g : Nat) (f : Grp → Grp) (s : State) : (modGrp g f s).svf = s.svf := rfl
@[simp] theorem modGrp_osc (g : Nat) (f : Grp → Grp) (s : State) : (modGrp g f s).osc = s.osc := rfl
@[simp] theorem modGrp_isl (g : Nat) (f : Grp → Grp) (s : State) : (modGrp g f s).isl = s.isl := rfl
@[simp] theorem modGrp_sch (g : Nat) (f : Grp → Grp) (s : State) : (modGrp g f s).sch = s.sch := rfl
@[simp] theorem modGrp_cap (g : Nat) (f : Grp → Grp) (s : State) : (modGrp g f s).cap = s.cap := rfl
@[simp] theorem modGrp_mtr (g : Nat) (f : Grp → Grp) (s : State) : (modGrp g f s).mtr = s.mtr := rfl
@[simp] theorem modGrp_tsk (g : Nat) (f : Grp → Grp) (s : State) : (modGrp g f s).tsk = s.tsk := rfl
@[simp] theorem modGrp_arb (g : Nat) (f : Grp → Grp) (s : State) : (modGrp g f s).arb = s.arb := rfl
@[simp] theorem modGrp_pub (g : Nat) (f : Grp → Grp) (s : State) : (modGrp g f s).pub = s.pub := rfl
@[simp] theorem modGrp_cfg (g : Nat) (f : Grp → Grp) (s : State) : (modGrp g f s).cfg = s.cfg := rfl
@[simp] theorem modGrp_hp (g : Nat) (f : Grp → Grp) (s : State) : (modGrp g f s).hp = s.hp := rfl
@[simp] theorem modGrp_pair (g : Nat) (f : Grp → Grp) (s : State) : (modGrp g f s).pair = s.pair := rfl
@[simp] theorem modGrp_sec (g : Nat) (f : Grp → Grp) (s : State) : (modGrp g f s).sec = s.sec := rfl
@[simp] theorem modGrp_nv (g : Nat) (f : Grp → Grp) (s : State) : (modGrp g f s).nv = s.nv := rfl
@[simp] theorem modGrp_vbat (g : Nat) (f : Grp → Grp) (s : State) : (modGrp g f s).vbat = s.vbat := rfl
@[simp] theorem modGrp_part (g : Nat) (f : Grp → Grp) (s : State) : (modGrp g f s).part = s.part := rfl
@[simp] theorem modGrp_fuses (g : Nat) (f : Grp → Grp) (s : State) : (modGrp g f s).fuses = s.fuses := rfl
@[simp] theorem modGrp_pwr (g : Nat) (f : Grp → Grp) (s : State) : (modGrp g f s).pwr = s.pwr := rfl
@[simp] theorem modGrp_cnt (g : Nat) (f : Grp → Grp) (s : State) : (modGrp g f s).cnt = s.cnt := rfl
@[simp] theorem modGrp_limits (g : Nat) (f : Grp → Grp) (s : State) : (modGrp g f s).limits = s.limits := rfl
@[simp] theorem modGrp_evLog (g : Nat) (f : Grp → Grp) (s : State) : (modGrp g f s).evLog = s.evLog := rfl
@[simp] theorem modGrp_evLogSeq (g : Nat) (f : Grp → Grp) (s : State) : (modGrp g f s).evLogSeq = s.evLogSeq := rfl
@[simp] theorem modGrp_free (g : Nat) (f : Grp → Grp) (s : State) : (modGrp g f s).free = s.free := rfl

@[simp] theorem modStn_sch (n : Nat) (f : Stn → Stn) (s : State) : (modStn n f s).sch = { s.sch with stns := fmod s.sch.stns n {} f } := rfl
@[simp] theorem modStn_pending (n : Nat) (f : Stn → Stn) (s : State) : (modStn n f s).pending = s.pending := rfl
@[simp] theorem modStn_tb (n : Nat) (f : Stn → Stn) (s : State) : (modStn n f s).tb = s.tb := rfl
@[simp] theorem modStn_eth (n : Nat) (f : Stn → Stn) (s : State) : (modStn n f s).eth = s.eth := rfl
@[simp] theorem modStn_ing (n : Nat) (f : Stn → Stn) (s : State) : (modStn n f s).ing = s.ing := rfl
@[simp] theorem modStn_aln (n : Nat) (f : Stn → Stn) (s : State) : (modStn n f s).aln = s.aln := rfl
@[simp] theorem modStn_svf (n : Nat) (f : Stn → Stn) (s : State) : (modStn n f s).svf = s.svf := rfl
@[simp] theorem modStn_osc (n : Nat) (f : Stn → Stn) (s : State) : (modStn n f s).osc = s.osc := rfl
@[simp] theorem modStn_isl (n : Nat) (f : Stn → Stn) (s : State) : (modStn n f s).isl = s.isl := rfl
@[simp] theorem modStn_cap (n : Nat) (f : Stn → Stn) (s : State) : (modStn n f s).cap = s.cap := rfl
@[simp] theorem modStn_mtr (n : Nat) (f : Stn → Stn) (s : State) : (modStn n f s).mtr = s.mtr := rfl
@[simp] theorem modStn_tsk (n : Nat) (f : Stn → Stn) (s : State) : (modStn n f s).tsk = s.tsk := rfl
@[simp] theorem modStn_arb (n : Nat) (f : Stn → Stn) (s : State) : (modStn n f s).arb = s.arb := rfl
@[simp] theorem modStn_pub (n : Nat) (f : Stn → Stn) (s : State) : (modStn n f s).pub = s.pub := rfl
@[simp] theorem modStn_cfg (n : Nat) (f : Stn → Stn) (s : State) : (modStn n f s).cfg = s.cfg := rfl
@[simp] theorem modStn_hp (n : Nat) (f : Stn → Stn) (s : State) : (modStn n f s).hp = s.hp := rfl
@[simp] theorem modStn_pair (n : Nat) (f : Stn → Stn) (s : State) : (modStn n f s).pair = s.pair := rfl
@[simp] theorem modStn_sec (n : Nat) (f : Stn → Stn) (s : State) : (modStn n f s).sec = s.sec := rfl
@[simp] theorem modStn_nv (n : Nat) (f : Stn → Stn) (s : State) : (modStn n f s).nv = s.nv := rfl
@[simp] theorem modStn_vbat (n : Nat) (f : Stn → Stn) (s : State) : (modStn n f s).vbat = s.vbat := rfl
@[simp] theorem modStn_part (n : Nat) (f : Stn → Stn) (s : State) : (modStn n f s).part = s.part := rfl
@[simp] theorem modStn_fuses (n : Nat) (f : Stn → Stn) (s : State) : (modStn n f s).fuses = s.fuses := rfl
@[simp] theorem modStn_pwr (n : Nat) (f : Stn → Stn) (s : State) : (modStn n f s).pwr = s.pwr := rfl
@[simp] theorem modStn_cnt (n : Nat) (f : Stn → Stn) (s : State) : (modStn n f s).cnt = s.cnt := rfl
@[simp] theorem modStn_limits (n : Nat) (f : Stn → Stn) (s : State) : (modStn n f s).limits = s.limits := rfl
@[simp] theorem modStn_evLog (n : Nat) (f : Stn → Stn) (s : State) : (modStn n f s).evLog = s.evLog := rfl
@[simp] theorem modStn_evLogSeq (n : Nat) (f : Stn → Stn) (s : State) : (modStn n f s).evLogSeq = s.evLogSeq := rfl
@[simp] theorem modStn_free (n : Nat) (f : Stn → Stn) (s : State) : (modStn n f s).free = s.free := rfl

@[simp] theorem modDs_sch (d : Nat) (f : Ds → Ds) (s : State) : (modDs d f s).sch = { s.sch with dss := fmod s.sch.dss d {} f } := rfl
@[simp] theorem modDs_pending (d : Nat) (f : Ds → Ds) (s : State) : (modDs d f s).pending = s.pending := rfl
@[simp] theorem modDs_tb (d : Nat) (f : Ds → Ds) (s : State) : (modDs d f s).tb = s.tb := rfl
@[simp] theorem modDs_eth (d : Nat) (f : Ds → Ds) (s : State) : (modDs d f s).eth = s.eth := rfl
@[simp] theorem modDs_ing (d : Nat) (f : Ds → Ds) (s : State) : (modDs d f s).ing = s.ing := rfl
@[simp] theorem modDs_aln (d : Nat) (f : Ds → Ds) (s : State) : (modDs d f s).aln = s.aln := rfl
@[simp] theorem modDs_svf (d : Nat) (f : Ds → Ds) (s : State) : (modDs d f s).svf = s.svf := rfl
@[simp] theorem modDs_osc (d : Nat) (f : Ds → Ds) (s : State) : (modDs d f s).osc = s.osc := rfl
@[simp] theorem modDs_isl (d : Nat) (f : Ds → Ds) (s : State) : (modDs d f s).isl = s.isl := rfl
@[simp] theorem modDs_cap (d : Nat) (f : Ds → Ds) (s : State) : (modDs d f s).cap = s.cap := rfl
@[simp] theorem modDs_mtr (d : Nat) (f : Ds → Ds) (s : State) : (modDs d f s).mtr = s.mtr := rfl
@[simp] theorem modDs_tsk (d : Nat) (f : Ds → Ds) (s : State) : (modDs d f s).tsk = s.tsk := rfl
@[simp] theorem modDs_arb (d : Nat) (f : Ds → Ds) (s : State) : (modDs d f s).arb = s.arb := rfl
@[simp] theorem modDs_pub (d : Nat) (f : Ds → Ds) (s : State) : (modDs d f s).pub = s.pub := rfl
@[simp] theorem modDs_cfg (d : Nat) (f : Ds → Ds) (s : State) : (modDs d f s).cfg = s.cfg := rfl
@[simp] theorem modDs_hp (d : Nat) (f : Ds → Ds) (s : State) : (modDs d f s).hp = s.hp := rfl
@[simp] theorem modDs_pair (d : Nat) (f : Ds → Ds) (s : State) : (modDs d f s).pair = s.pair := rfl
@[simp] theorem modDs_sec (d : Nat) (f : Ds → Ds) (s : State) : (modDs d f s).sec = s.sec := rfl
@[simp] theorem modDs_nv (d : Nat) (f : Ds → Ds) (s : State) : (modDs d f s).nv = s.nv := rfl
@[simp] theorem modDs_vbat (d : Nat) (f : Ds → Ds) (s : State) : (modDs d f s).vbat = s.vbat := rfl
@[simp] theorem modDs_part (d : Nat) (f : Ds → Ds) (s : State) : (modDs d f s).part = s.part := rfl
@[simp] theorem modDs_fuses (d : Nat) (f : Ds → Ds) (s : State) : (modDs d f s).fuses = s.fuses := rfl
@[simp] theorem modDs_pwr (d : Nat) (f : Ds → Ds) (s : State) : (modDs d f s).pwr = s.pwr := rfl
@[simp] theorem modDs_cnt (d : Nat) (f : Ds → Ds) (s : State) : (modDs d f s).cnt = s.cnt := rfl
@[simp] theorem modDs_limits (d : Nat) (f : Ds → Ds) (s : State) : (modDs d f s).limits = s.limits := rfl
@[simp] theorem modDs_evLog (d : Nat) (f : Ds → Ds) (s : State) : (modDs d f s).evLog = s.evLog := rfl
@[simp] theorem modDs_evLogSeq (d : Nat) (f : Ds → Ds) (s : State) : (modDs d f s).evLogSeq = s.evLogSeq := rfl
@[simp] theorem modDs_free (d : Nat) (f : Ds → Ds) (s : State) : (modDs d f s).free = s.free := rfl

@[simp] theorem modOs_pub (n : Nat) (f : OutStream → OutStream) (s : State) : (modOs n f s).pub = { s.pub with os := fmod s.pub.os n {} f } := rfl
@[simp] theorem modOs_pending (n : Nat) (f : OutStream → OutStream) (s : State) : (modOs n f s).pending = s.pending := rfl
@[simp] theorem modOs_tb (n : Nat) (f : OutStream → OutStream) (s : State) : (modOs n f s).tb = s.tb := rfl
@[simp] theorem modOs_eth (n : Nat) (f : OutStream → OutStream) (s : State) : (modOs n f s).eth = s.eth := rfl
@[simp] theorem modOs_ing (n : Nat) (f : OutStream → OutStream) (s : State) : (modOs n f s).ing = s.ing := rfl
@[simp] theorem modOs_aln (n : Nat) (f : OutStream → OutStream) (s : State) : (modOs n f s).aln = s.aln := rfl
@[simp] theorem modOs_svf (n : Nat) (f : OutStream → OutStream) (s : State) : (modOs n f s).svf = s.svf := rfl
@[simp] theorem modOs_osc (n : Nat) (f : OutStream → OutStream) (s : State) : (modOs n f s).osc = s.osc := rfl
@[simp] theorem modOs_isl (n : Nat) (f : OutStream → OutStream) (s : State) : (modOs n f s).isl = s.isl := rfl
@[simp] theorem modOs_sch (n : Nat) (f : OutStream → OutStream) (s : State) : (modOs n f s).sch = s.sch := rfl
@[simp] theorem modOs_cap (n : Nat) (f : OutStream → OutStream) (s : State) : (modOs n f s).cap = s.cap := rfl
@[simp] theorem modOs_mtr (n : Nat) (f : OutStream → OutStream) (s : State) : (modOs n f s).mtr = s.mtr := rfl
@[simp] theorem modOs_tsk (n : Nat) (f : OutStream → OutStream) (s : State) : (modOs n f s).tsk = s.tsk := rfl
@[simp] theorem modOs_arb (n : Nat) (f : OutStream → OutStream) (s : State) : (modOs n f s).arb = s.arb := rfl
@[simp] theorem modOs_cfg (n : Nat) (f : OutStream → OutStream) (s : State) : (modOs n f s).cfg = s.cfg := rfl
@[simp] theorem modOs_hp (n : Nat) (f : OutStream → OutStream) (s : State) : (modOs n f s).hp = s.hp := rfl
@[simp] theorem modOs_pair (n : Nat) (f : OutStream → OutStream) (s : State) : (modOs n f s).pair = s.pair := rfl
@[simp] theorem modOs_sec (n : Nat) (f : OutStream → OutStream) (s : State) : (modOs n f s).sec = s.sec := rfl
@[simp] theorem modOs_nv (n : Nat) (f : OutStream → OutStream) (s : State) : (modOs n f s).nv = s.nv := rfl
@[simp] theorem modOs_vbat (n : Nat) (f : OutStream → OutStream) (s : State) : (modOs n f s).vbat = s.vbat := rfl
@[simp] theorem modOs_part (n : Nat) (f : OutStream → OutStream) (s : State) : (modOs n f s).part = s.part := rfl
@[simp] theorem modOs_fuses (n : Nat) (f : OutStream → OutStream) (s : State) : (modOs n f s).fuses = s.fuses := rfl
@[simp] theorem modOs_pwr (n : Nat) (f : OutStream → OutStream) (s : State) : (modOs n f s).pwr = s.pwr := rfl
@[simp] theorem modOs_cnt (n : Nat) (f : OutStream → OutStream) (s : State) : (modOs n f s).cnt = s.cnt := rfl
@[simp] theorem modOs_limits (n : Nat) (f : OutStream → OutStream) (s : State) : (modOs n f s).limits = s.limits := rfl
@[simp] theorem modOs_evLog (n : Nat) (f : OutStream → OutStream) (s : State) : (modOs n f s).evLog = s.evLog := rfl
@[simp] theorem modOs_evLogSeq (n : Nat) (f : OutStream → OutStream) (s : State) : (modOs n f s).evLogSeq = s.evLogSeq := rfl
@[simp] theorem modOs_free (n : Nat) (f : OutStream → OutStream) (s : State) : (modOs n f s).free = s.free := rfl

@[simp] theorem modGp_pub (n : Nat) (f : Goose → Goose) (s : State) : (modGp n f s).pub = { s.pub with gps := fmod s.pub.gps n {} f } := rfl
@[simp] theorem modGp_pending (n : Nat) (f : Goose → Goose) (s : State) : (modGp n f s).pending = s.pending := rfl
@[simp] theorem modGp_tb (n : Nat) (f : Goose → Goose) (s : State) : (modGp n f s).tb = s.tb := rfl
@[simp] theorem modGp_eth (n : Nat) (f : Goose → Goose) (s : State) : (modGp n f s).eth = s.eth := rfl
@[simp] theorem modGp_ing (n : Nat) (f : Goose → Goose) (s : State) : (modGp n f s).ing = s.ing := rfl
@[simp] theorem modGp_aln (n : Nat) (f : Goose → Goose) (s : State) : (modGp n f s).aln = s.aln := rfl
@[simp] theorem modGp_svf (n : Nat) (f : Goose → Goose) (s : State) : (modGp n f s).svf = s.svf := rfl
@[simp] theorem modGp_osc (n : Nat) (f : Goose → Goose) (s : State) : (modGp n f s).osc = s.osc := rfl
@[simp] theorem modGp_isl (n : Nat) (f : Goose → Goose) (s : State) : (modGp n f s).isl = s.isl := rfl
@[simp] theorem modGp_sch (n : Nat) (f : Goose → Goose) (s : State) : (modGp n f s).sch = s.sch := rfl
@[simp] theorem modGp_cap (n : Nat) (f : Goose → Goose) (s : State) : (modGp n f s).cap = s.cap := rfl
@[simp] theorem modGp_mtr (n : Nat) (f : Goose → Goose) (s : State) : (modGp n f s).mtr = s.mtr := rfl
@[simp] theorem modGp_tsk (n : Nat) (f : Goose → Goose) (s : State) : (modGp n f s).tsk = s.tsk := rfl
@[simp] theorem modGp_arb (n : Nat) (f : Goose → Goose) (s : State) : (modGp n f s).arb = s.arb := rfl
@[simp] theorem modGp_cfg (n : Nat) (f : Goose → Goose) (s : State) : (modGp n f s).cfg = s.cfg := rfl
@[simp] theorem modGp_hp (n : Nat) (f : Goose → Goose) (s : State) : (modGp n f s).hp = s.hp := rfl
@[simp] theorem modGp_pair (n : Nat) (f : Goose → Goose) (s : State) : (modGp n f s).pair = s.pair := rfl
@[simp] theorem modGp_sec (n : Nat) (f : Goose → Goose) (s : State) : (modGp n f s).sec = s.sec := rfl
@[simp] theorem modGp_nv (n : Nat) (f : Goose → Goose) (s : State) : (modGp n f s).nv = s.nv := rfl
@[simp] theorem modGp_vbat (n : Nat) (f : Goose → Goose) (s : State) : (modGp n f s).vbat = s.vbat := rfl
@[simp] theorem modGp_part (n : Nat) (f : Goose → Goose) (s : State) : (modGp n f s).part = s.part := rfl
@[simp] theorem modGp_fuses (n : Nat) (f : Goose → Goose) (s : State) : (modGp n f s).fuses = s.fuses := rfl
@[simp] theorem modGp_pwr (n : Nat) (f : Goose → Goose) (s : State) : (modGp n f s).pwr = s.pwr := rfl
@[simp] theorem modGp_cnt (n : Nat) (f : Goose → Goose) (s : State) : (modGp n f s).cnt = s.cnt := rfl
@[simp] theorem modGp_limits (n : Nat) (f : Goose → Goose) (s : State) : (modGp n f s).limits = s.limits := rfl
@[simp] theorem modGp_evLog (n : Nat) (f : Goose → Goose) (s : State) : (modGp n f s).evLog = s.evLog := rfl
@[simp] theorem modGp_evLogSeq (n : Nat) (f : Goose → Goose) (s : State) : (modGp n f s).evLogSeq = s.evLogSeq := rfl
@[simp] theorem modGp_free (n : Nat) (f : Goose → Goose) (s : State) : (modGp n f s).free = s.free := rfl

@[simp] theorem modCapRec_cap (r : Nat) (f : CapRec → CapRec) (s : State) : (modCapRec r f s).cap = { s.cap with recs := fmod s.cap.recs r {} f } := rfl
@[simp] theorem modCapRec_pending (r : Nat) (f : CapRec → CapRec) (s : State) : (modCapRec r f s).pending = s.pending := rfl
@[simp] theorem modCapRec_tb (r : Nat) (f : CapRec → CapRec) (s : State) : (modCapRec r f s).tb = s.tb := rfl
@[simp] theorem modCapRec_eth (r : Nat) (f : CapRec → CapRec) (s : State) : (modCapRec r f s).eth = s.eth := rfl
@[simp] theorem modCapRec_ing (r : Nat) (f : CapRec → CapRec) (s : State) : (modCapRec r f s).ing = s.ing := rfl
@[simp] theorem modCapRec_aln (r : Nat) (f : CapRec → CapRec) (s : State) : (modCapRec r f s).aln = s.aln := rfl
@[simp] theorem modCapRec_svf (r : Nat) (f : CapRec → CapRec) (s : State) : (modCapRec r f s).svf = s.svf := rfl
@[simp] theorem modCapRec_osc (r : Nat) (f : CapRec → CapRec) (s : State) : (modCapRec r f s).osc = s.osc := rfl
@[simp] theorem modCapRec_isl (r : Nat) (f : CapRec → CapRec) (s : State) : (modCapRec r f s).isl = s.isl := rfl
@[simp] theorem modCapRec_sch (r : Nat) (f : CapRec → CapRec) (s : State) : (modCapRec r f s).sch = s.sch := rfl
@[simp] theorem modCapRec_mtr (r : Nat) (f : CapRec → CapRec) (s : State) : (modCapRec r f s).mtr = s.mtr := rfl
@[simp] theorem modCapRec_tsk (r : Nat) (f : CapRec → CapRec) (s : State) : (modCapRec r f s).tsk = s.tsk := rfl
@[simp] theorem modCapRec_arb (r : Nat) (f : CapRec → CapRec) (s : State) : (modCapRec r f s).arb = s.arb := rfl
@[simp] theorem modCapRec_pub (r : Nat) (f : CapRec → CapRec) (s : State) : (modCapRec r f s).pub = s.pub := rfl
@[simp] theorem modCapRec_cfg (r : Nat) (f : CapRec → CapRec) (s : State) : (modCapRec r f s).cfg = s.cfg := rfl
@[simp] theorem modCapRec_hp (r : Nat) (f : CapRec → CapRec) (s : State) : (modCapRec r f s).hp = s.hp := rfl
@[simp] theorem modCapRec_pair (r : Nat) (f : CapRec → CapRec) (s : State) : (modCapRec r f s).pair = s.pair := rfl
@[simp] theorem modCapRec_sec (r : Nat) (f : CapRec → CapRec) (s : State) : (modCapRec r f s).sec = s.sec := rfl
@[simp] theorem modCapRec_nv (r : Nat) (f : CapRec → CapRec) (s : State) : (modCapRec r f s).nv = s.nv := rfl
@[simp] theorem modCapRec_vbat (r : Nat) (f : CapRec → CapRec) (s : State) : (modCapRec r f s).vbat = s.vbat := rfl
@[simp] theorem modCapRec_part (r : Nat) (f : CapRec → CapRec) (s : State) : (modCapRec r f s).part = s.part := rfl
@[simp] theorem modCapRec_fuses (r : Nat) (f : CapRec → CapRec) (s : State) : (modCapRec r f s).fuses = s.fuses := rfl
@[simp] theorem modCapRec_pwr (r : Nat) (f : CapRec → CapRec) (s : State) : (modCapRec r f s).pwr = s.pwr := rfl
@[simp] theorem modCapRec_cnt (r : Nat) (f : CapRec → CapRec) (s : State) : (modCapRec r f s).cnt = s.cnt := rfl
@[simp] theorem modCapRec_limits (r : Nat) (f : CapRec → CapRec) (s : State) : (modCapRec r f s).limits = s.limits := rfl
@[simp] theorem modCapRec_evLog (r : Nat) (f : CapRec → CapRec) (s : State) : (modCapRec r f s).evLog = s.evLog := rfl
@[simp] theorem modCapRec_evLogSeq (r : Nat) (f : CapRec → CapRec) (s : State) : (modCapRec r f s).evLogSeq = s.evLogSeq := rfl
@[simp] theorem modCapRec_free (r : Nat) (f : CapRec → CapRec) (s : State) : (modCapRec r f s).free = s.free := rfl

@[simp] theorem modMtr_mtr (p : Nat) (f : MtrPt → MtrPt) (s : State) : (modMtr p f s).mtr = { s.mtr with pts := fmod s.mtr.pts p {} f } := rfl
@[simp] theorem modMtr_pending (p : Nat) (f : MtrPt → MtrPt) (s : State) : (modMtr p f s).pending = s.pending := rfl
@[simp] theorem modMtr_tb (p : Nat) (f : MtrPt → MtrPt) (s : State) : (modMtr p f s).tb = s.tb := rfl
@[simp] theorem modMtr_eth (p : Nat) (f : MtrPt → MtrPt) (s : State) : (modMtr p f s).eth = s.eth := rfl
@[simp] theorem modMtr_ing (p : Nat) (f : MtrPt → MtrPt) (s : State) : (modMtr p f s).ing = s.ing := rfl
@[simp] theorem modMtr_aln (p : Nat) (f : MtrPt → MtrPt) (s : State) : (modMtr p f s).aln = s.aln := rfl
@[simp] theorem modMtr_svf (p : Nat) (f : MtrPt → MtrPt) (s : State) : (modMtr p f s).svf = s.svf := rfl
@[simp] theorem modMtr_osc (p : Nat) (f : MtrPt → MtrPt) (s : State) : (modMtr p f s).osc = s.osc := rfl
@[simp] theorem modMtr_isl (p : Nat) (f : MtrPt → MtrPt) (s : State) : (modMtr p f s).isl = s.isl := rfl
@[simp] theorem modMtr_sch (p : Nat) (f : MtrPt → MtrPt) (s : State) : (modMtr p f s).sch = s.sch := rfl
@[simp] theorem modMtr_cap (p : Nat) (f : MtrPt → MtrPt) (s : State) : (modMtr p f s).cap = s.cap := rfl
@[simp] theorem modMtr_tsk (p : Nat) (f : MtrPt → MtrPt) (s : State) : (modMtr p f s).tsk = s.tsk := rfl
@[simp] theorem modMtr_arb (p : Nat) (f : MtrPt → MtrPt) (s : State) : (modMtr p f s).arb = s.arb := rfl
@[simp] theorem modMtr_pub (p : Nat) (f : MtrPt → MtrPt) (s : State) : (modMtr p f s).pub = s.pub := rfl
@[simp] theorem modMtr_cfg (p : Nat) (f : MtrPt → MtrPt) (s : State) : (modMtr p f s).cfg = s.cfg := rfl
@[simp] theorem modMtr_hp (p : Nat) (f : MtrPt → MtrPt) (s : State) : (modMtr p f s).hp = s.hp := rfl
@[simp] theorem modMtr_pair (p : Nat) (f : MtrPt → MtrPt) (s : State) : (modMtr p f s).pair = s.pair := rfl
@[simp] theorem modMtr_sec (p : Nat) (f : MtrPt → MtrPt) (s : State) : (modMtr p f s).sec = s.sec := rfl
@[simp] theorem modMtr_nv (p : Nat) (f : MtrPt → MtrPt) (s : State) : (modMtr p f s).nv = s.nv := rfl
@[simp] theorem modMtr_vbat (p : Nat) (f : MtrPt → MtrPt) (s : State) : (modMtr p f s).vbat = s.vbat := rfl
@[simp] theorem modMtr_part (p : Nat) (f : MtrPt → MtrPt) (s : State) : (modMtr p f s).part = s.part := rfl
@[simp] theorem modMtr_fuses (p : Nat) (f : MtrPt → MtrPt) (s : State) : (modMtr p f s).fuses = s.fuses := rfl
@[simp] theorem modMtr_pwr (p : Nat) (f : MtrPt → MtrPt) (s : State) : (modMtr p f s).pwr = s.pwr := rfl
@[simp] theorem modMtr_cnt (p : Nat) (f : MtrPt → MtrPt) (s : State) : (modMtr p f s).cnt = s.cnt := rfl
@[simp] theorem modMtr_limits (p : Nat) (f : MtrPt → MtrPt) (s : State) : (modMtr p f s).limits = s.limits := rfl
@[simp] theorem modMtr_evLog (p : Nat) (f : MtrPt → MtrPt) (s : State) : (modMtr p f s).evLog = s.evLog := rfl
@[simp] theorem modMtr_evLogSeq (p : Nat) (f : MtrPt → MtrPt) (s : State) : (modMtr p f s).evLogSeq = s.evLogSeq := rfl
@[simp] theorem modMtr_free (p : Nat) (f : MtrPt → MtrPt) (s : State) : (modMtr p f s).free = s.free := rfl

@[simp] theorem modPo_mtr (k : Nat) (f : Po → Po) (s : State) : (modPo k f s).mtr = { s.mtr with pos := fmod s.mtr.pos k {} f } := rfl
@[simp] theorem modPo_pending (k : Nat) (f : Po → Po) (s : State) : (modPo k f s).pending = s.pending := rfl
@[simp] theorem modPo_tb (k : Nat) (f : Po → Po) (s : State) : (modPo k f s).tb = s.tb := rfl
@[simp] theorem modPo_eth (k : Nat) (f : Po → Po) (s : State) : (modPo k f s).eth = s.eth := rfl
@[simp] theorem modPo_ing (k : Nat) (f : Po → Po) (s : State) : (modPo k f s).ing = s.ing := rfl
@[simp] theorem modPo_aln (k : Nat) (f : Po → Po) (s : State) : (modPo k f s).aln = s.aln := rfl
@[simp] theorem modPo_svf (k : Nat) (f : Po → Po) (s : State) : (modPo k f s).svf = s.svf := rfl
@[simp] theorem modPo_osc (k : Nat) (f : Po → Po) (s : State) : (modPo k f s).osc = s.osc := rfl
@[simp] theorem modPo_isl (k : Nat) (f : Po → Po) (s : State) : (modPo k f s).isl = s.isl := rfl
@[simp] theorem modPo_sch (k : Nat) (f : Po → Po) (s : State) : (modPo k f s).sch = s.sch := rfl
@[simp] theorem modPo_cap (k : Nat) (f : Po → Po) (s : State) : (modPo k f s).cap = s.cap := rfl
@[simp] theorem modPo_tsk (k : Nat) (f : Po → Po) (s : State) : (modPo k f s).tsk = s.tsk := rfl
@[simp] theorem modPo_arb (k : Nat) (f : Po → Po) (s : State) : (modPo k f s).arb = s.arb := rfl
@[simp] theorem modPo_pub (k : Nat) (f : Po → Po) (s : State) : (modPo k f s).pub = s.pub := rfl
@[simp] theorem modPo_cfg (k : Nat) (f : Po → Po) (s : State) : (modPo k f s).cfg = s.cfg := rfl
@[simp] theorem modPo_hp (k : Nat) (f : Po → Po) (s : State) : (modPo k f s).hp = s.hp := rfl
@[simp] theorem modPo_pair (k : Nat) (f : Po → Po) (s : State) : (modPo k f s).pair = s.pair := rfl
@[simp] theorem modPo_sec (k : Nat) (f : Po → Po) (s : State) : (modPo k f s).sec = s.sec := rfl
@[simp] theorem modPo_nv (k : Nat) (f : Po → Po) (s : State) : (modPo k f s).nv = s.nv := rfl
@[simp] theorem modPo_vbat (k : Nat) (f : Po → Po) (s : State) : (modPo k f s).vbat = s.vbat := rfl
@[simp] theorem modPo_part (k : Nat) (f : Po → Po) (s : State) : (modPo k f s).part = s.part := rfl
@[simp] theorem modPo_fuses (k : Nat) (f : Po → Po) (s : State) : (modPo k f s).fuses = s.fuses := rfl
@[simp] theorem modPo_pwr (k : Nat) (f : Po → Po) (s : State) : (modPo k f s).pwr = s.pwr := rfl
@[simp] theorem modPo_cnt (k : Nat) (f : Po → Po) (s : State) : (modPo k f s).cnt = s.cnt := rfl
@[simp] theorem modPo_limits (k : Nat) (f : Po → Po) (s : State) : (modPo k f s).limits = s.limits := rfl
@[simp] theorem modPo_evLog (k : Nat) (f : Po → Po) (s : State) : (modPo k f s).evLog = s.evLog := rfl
@[simp] theorem modPo_evLogSeq (k : Nat) (f : Po → Po) (s : State) : (modPo k f s).evLogSeq = s.evLogSeq := rfl
@[simp] theorem modPo_free (k : Nat) (f : Po → Po) (s : State) : (modPo k f s).free = s.free := rfl

@[simp] theorem modUnit_pair (f : Pair → Pair) (s : State) : (modUnit f s).pair = f s.pair := rfl
@[simp] theorem modUnit_pending (f : Pair → Pair) (s : State) : (modUnit f s).pending = s.pending := rfl
@[simp] theorem modUnit_tb (f : Pair → Pair) (s : State) : (modUnit f s).tb = s.tb := rfl
@[simp] theorem modUnit_eth (f : Pair → Pair) (s : State) : (modUnit f s).eth = s.eth := rfl
@[simp] theorem modUnit_ing (f : Pair → Pair) (s : State) : (modUnit f s).ing = s.ing := rfl
@[simp] theorem modUnit_aln (f : Pair → Pair) (s : State) : (modUnit f s).aln = s.aln := rfl
@[simp] theorem modUnit_svf (f : Pair → Pair) (s : State) : (modUnit f s).svf = s.svf := rfl
@[simp] theorem modUnit_osc (f : Pair → Pair) (s : State) : (modUnit f s).osc = s.osc := rfl
@[simp] theorem modUnit_isl (f : Pair → Pair) (s : State) : (modUnit f s).isl = s.isl := rfl
@[simp] theorem modUnit_sch (f : Pair → Pair) (s : State) : (modUnit f s).sch = s.sch := rfl
@[simp] theorem modUnit_cap (f : Pair → Pair) (s : State) : (modUnit f s).cap = s.cap := rfl
@[simp] theorem modUnit_mtr (f : Pair → Pair) (s : State) : (modUnit f s).mtr = s.mtr := rfl
@[simp] theorem modUnit_tsk (f : Pair → Pair) (s : State) : (modUnit f s).tsk = s.tsk := rfl
@[simp] theorem modUnit_arb (f : Pair → Pair) (s : State) : (modUnit f s).arb = s.arb := rfl
@[simp] theorem modUnit_pub (f : Pair → Pair) (s : State) : (modUnit f s).pub = s.pub := rfl
@[simp] theorem modUnit_cfg (f : Pair → Pair) (s : State) : (modUnit f s).cfg = s.cfg := rfl
@[simp] theorem modUnit_hp (f : Pair → Pair) (s : State) : (modUnit f s).hp = s.hp := rfl
@[simp] theorem modUnit_sec (f : Pair → Pair) (s : State) : (modUnit f s).sec = s.sec := rfl
@[simp] theorem modUnit_nv (f : Pair → Pair) (s : State) : (modUnit f s).nv = s.nv := rfl
@[simp] theorem modUnit_vbat (f : Pair → Pair) (s : State) : (modUnit f s).vbat = s.vbat := rfl
@[simp] theorem modUnit_part (f : Pair → Pair) (s : State) : (modUnit f s).part = s.part := rfl
@[simp] theorem modUnit_fuses (f : Pair → Pair) (s : State) : (modUnit f s).fuses = s.fuses := rfl
@[simp] theorem modUnit_pwr (f : Pair → Pair) (s : State) : (modUnit f s).pwr = s.pwr := rfl
@[simp] theorem modUnit_cnt (f : Pair → Pair) (s : State) : (modUnit f s).cnt = s.cnt := rfl
@[simp] theorem modUnit_limits (f : Pair → Pair) (s : State) : (modUnit f s).limits = s.limits := rfl
@[simp] theorem modUnit_evLog (f : Pair → Pair) (s : State) : (modUnit f s).evLog = s.evLog := rfl
@[simp] theorem modUnit_evLogSeq (f : Pair → Pair) (s : State) : (modUnit f s).evLogSeq = s.evLogSeq := rfl
@[simp] theorem modUnit_free (f : Pair → Pair) (s : State) : (modUnit f s).free = s.free := rfl

@[simp] theorem modWit_nv (n : Nat) (f : Wit → Wit) (s : State) : (modWit n f s).nv = { s.nv with wits := fmod s.nv.wits n {} f } := rfl
@[simp] theorem modWit_pending (n : Nat) (f : Wit → Wit) (s : State) : (modWit n f s).pending = s.pending := rfl
@[simp] theorem modWit_tb (n : Nat) (f : Wit → Wit) (s : State) : (modWit n f s).tb = s.tb := rfl
@[simp] theorem modWit_eth (n : Nat) (f : Wit → Wit) (s : State) : (modWit n f s).eth = s.eth := rfl
@[simp] theorem modWit_ing (n : Nat) (f : Wit → Wit) (s : State) : (modWit n f s).ing = s.ing := rfl
@[simp] theorem modWit_aln (n : Nat) (f : Wit → Wit) (s : State) : (modWit n f s).aln = s.aln := rfl
@[simp] theorem modWit_svf (n : Nat) (f : Wit → Wit) (s : State) : (modWit n f s).svf = s.svf := rfl
@[simp] theorem modWit_osc (n : Nat) (f : Wit → Wit) (s : State) : (modWit n f s).osc = s.osc := rfl
@[simp] theorem modWit_isl (n : Nat) (f : Wit → Wit) (s : State) : (modWit n f s).isl = s.isl := rfl
@[simp] theorem modWit_sch (n : Nat) (f : Wit → Wit) (s : State) : (modWit n f s).sch = s.sch := rfl
@[simp] theorem modWit_cap (n : Nat) (f : Wit → Wit) (s : State) : (modWit n f s).cap = s.cap := rfl
@[simp] theorem modWit_mtr (n : Nat) (f : Wit → Wit) (s : State) : (modWit n f s).mtr = s.mtr := rfl
@[simp] theorem modWit_tsk (n : Nat) (f : Wit → Wit) (s : State) : (modWit n f s).tsk = s.tsk := rfl
@[simp] theorem modWit_arb (n : Nat) (f : Wit → Wit) (s : State) : (modWit n f s).arb = s.arb := rfl
@[simp] theorem modWit_pub (n : Nat) (f : Wit → Wit) (s : State) : (modWit n f s).pub = s.pub := rfl
@[simp] theorem modWit_cfg (n : Nat) (f : Wit → Wit) (s : State) : (modWit n f s).cfg = s.cfg := rfl
@[simp] theorem modWit_hp (n : Nat) (f : Wit → Wit) (s : State) : (modWit n f s).hp = s.hp := rfl
@[simp] theorem modWit_pair (n : Nat) (f : Wit → Wit) (s : State) : (modWit n f s).pair = s.pair := rfl
@[simp] theorem modWit_sec (n : Nat) (f : Wit → Wit) (s : State) : (modWit n f s).sec = s.sec := rfl
@[simp] theorem modWit_vbat (n : Nat) (f : Wit → Wit) (s : State) : (modWit n f s).vbat = s.vbat := rfl
@[simp] theorem modWit_part (n : Nat) (f : Wit → Wit) (s : State) : (modWit n f s).part = s.part := rfl
@[simp] theorem modWit_fuses (n : Nat) (f : Wit → Wit) (s : State) : (modWit n f s).fuses = s.fuses := rfl
@[simp] theorem modWit_pwr (n : Nat) (f : Wit → Wit) (s : State) : (modWit n f s).pwr = s.pwr := rfl
@[simp] theorem modWit_cnt (n : Nat) (f : Wit → Wit) (s : State) : (modWit n f s).cnt = s.cnt := rfl
@[simp] theorem modWit_limits (n : Nat) (f : Wit → Wit) (s : State) : (modWit n f s).limits = s.limits := rfl
@[simp] theorem modWit_evLog (n : Nat) (f : Wit → Wit) (s : State) : (modWit n f s).evLog = s.evLog := rfl
@[simp] theorem modWit_evLogSeq (n : Nat) (f : Wit → Wit) (s : State) : (modWit n f s).evLogSeq = s.evLogSeq := rfl
@[simp] theorem modWit_free (n : Nat) (f : Wit → Wit) (s : State) : (modWit n f s).free = s.free := rfl

@[simp] theorem modTsk_tsk (f : Tsk → Tsk) (s : State) : (modTsk f s).tsk = f s.tsk := rfl
@[simp] theorem modTsk_pending (f : Tsk → Tsk) (s : State) : (modTsk f s).pending = s.pending := rfl
@[simp] theorem modTsk_tb (f : Tsk → Tsk) (s : State) : (modTsk f s).tb = s.tb := rfl
@[simp] theorem modTsk_eth (f : Tsk → Tsk) (s : State) : (modTsk f s).eth = s.eth := rfl
@[simp] theorem modTsk_ing (f : Tsk → Tsk) (s : State) : (modTsk f s).ing = s.ing := rfl
@[simp] theorem modTsk_aln (f : Tsk → Tsk) (s : State) : (modTsk f s).aln = s.aln := rfl
@[simp] theorem modTsk_svf (f : Tsk → Tsk) (s : State) : (modTsk f s).svf = s.svf := rfl
@[simp] theorem modTsk_osc (f : Tsk → Tsk) (s : State) : (modTsk f s).osc = s.osc := rfl
@[simp] theorem modTsk_isl (f : Tsk → Tsk) (s : State) : (modTsk f s).isl = s.isl := rfl
@[simp] theorem modTsk_sch (f : Tsk → Tsk) (s : State) : (modTsk f s).sch = s.sch := rfl
@[simp] theorem modTsk_cap (f : Tsk → Tsk) (s : State) : (modTsk f s).cap = s.cap := rfl
@[simp] theorem modTsk_mtr (f : Tsk → Tsk) (s : State) : (modTsk f s).mtr = s.mtr := rfl
@[simp] theorem modTsk_arb (f : Tsk → Tsk) (s : State) : (modTsk f s).arb = s.arb := rfl
@[simp] theorem modTsk_pub (f : Tsk → Tsk) (s : State) : (modTsk f s).pub = s.pub := rfl
@[simp] theorem modTsk_cfg (f : Tsk → Tsk) (s : State) : (modTsk f s).cfg = s.cfg := rfl
@[simp] theorem modTsk_hp (f : Tsk → Tsk) (s : State) : (modTsk f s).hp = s.hp := rfl
@[simp] theorem modTsk_pair (f : Tsk → Tsk) (s : State) : (modTsk f s).pair = s.pair := rfl
@[simp] theorem modTsk_sec (f : Tsk → Tsk) (s : State) : (modTsk f s).sec = s.sec := rfl
@[simp] theorem modTsk_nv (f : Tsk → Tsk) (s : State) : (modTsk f s).nv = s.nv := rfl
@[simp] theorem modTsk_vbat (f : Tsk → Tsk) (s : State) : (modTsk f s).vbat = s.vbat := rfl
@[simp] theorem modTsk_part (f : Tsk → Tsk) (s : State) : (modTsk f s).part = s.part := rfl
@[simp] theorem modTsk_fuses (f : Tsk → Tsk) (s : State) : (modTsk f s).fuses = s.fuses := rfl
@[simp] theorem modTsk_pwr (f : Tsk → Tsk) (s : State) : (modTsk f s).pwr = s.pwr := rfl
@[simp] theorem modTsk_cnt (f : Tsk → Tsk) (s : State) : (modTsk f s).cnt = s.cnt := rfl
@[simp] theorem modTsk_limits (f : Tsk → Tsk) (s : State) : (modTsk f s).limits = s.limits := rfl
@[simp] theorem modTsk_evLog (f : Tsk → Tsk) (s : State) : (modTsk f s).evLog = s.evLog := rfl
@[simp] theorem modTsk_evLogSeq (f : Tsk → Tsk) (s : State) : (modTsk f s).evLogSeq = s.evLogSeq := rfl
@[simp] theorem modTsk_free (f : Tsk → Tsk) (s : State) : (modTsk f s).free = s.free := rfl

@[simp] theorem modRes_arb (r : Nat) (f : ArbRes → ArbRes) (s : State) : (modRes r f s).arb = { s.arb with res := fmod s.arb.res r {} f } := rfl
@[simp] theorem modRes_pending (r : Nat) (f : ArbRes → ArbRes) (s : State) : (modRes r f s).pending = s.pending := rfl
@[simp] theorem modRes_tb (r : Nat) (f : ArbRes → ArbRes) (s : State) : (modRes r f s).tb = s.tb := rfl
@[simp] theorem modRes_eth (r : Nat) (f : ArbRes → ArbRes) (s : State) : (modRes r f s).eth = s.eth := rfl
@[simp] theorem modRes_ing (r : Nat) (f : ArbRes → ArbRes) (s : State) : (modRes r f s).ing = s.ing := rfl
@[simp] theorem modRes_aln (r : Nat) (f : ArbRes → ArbRes) (s : State) : (modRes r f s).aln = s.aln := rfl
@[simp] theorem modRes_svf (r : Nat) (f : ArbRes → ArbRes) (s : State) : (modRes r f s).svf = s.svf := rfl
@[simp] theorem modRes_osc (r : Nat) (f : ArbRes → ArbRes) (s : State) : (modRes r f s).osc = s.osc := rfl
@[simp] theorem modRes_isl (r : Nat) (f : ArbRes → ArbRes) (s : State) : (modRes r f s).isl = s.isl := rfl
@[simp] theorem modRes_sch (r : Nat) (f : ArbRes → ArbRes) (s : State) : (modRes r f s).sch = s.sch := rfl
@[simp] theorem modRes_cap (r : Nat) (f : ArbRes → ArbRes) (s : State) : (modRes r f s).cap = s.cap := rfl
@[simp] theorem modRes_mtr (r : Nat) (f : ArbRes → ArbRes) (s : State) : (modRes r f s).mtr = s.mtr := rfl
@[simp] theorem modRes_tsk (r : Nat) (f : ArbRes → ArbRes) (s : State) : (modRes r f s).tsk = s.tsk := rfl
@[simp] theorem modRes_pub (r : Nat) (f : ArbRes → ArbRes) (s : State) : (modRes r f s).pub = s.pub := rfl
@[simp] theorem modRes_cfg (r : Nat) (f : ArbRes → ArbRes) (s : State) : (modRes r f s).cfg = s.cfg := rfl
@[simp] theorem modRes_hp (r : Nat) (f : ArbRes → ArbRes) (s : State) : (modRes r f s).hp = s.hp := rfl
@[simp] theorem modRes_pair (r : Nat) (f : ArbRes → ArbRes) (s : State) : (modRes r f s).pair = s.pair := rfl
@[simp] theorem modRes_sec (r : Nat) (f : ArbRes → ArbRes) (s : State) : (modRes r f s).sec = s.sec := rfl
@[simp] theorem modRes_nv (r : Nat) (f : ArbRes → ArbRes) (s : State) : (modRes r f s).nv = s.nv := rfl
@[simp] theorem modRes_vbat (r : Nat) (f : ArbRes → ArbRes) (s : State) : (modRes r f s).vbat = s.vbat := rfl
@[simp] theorem modRes_part (r : Nat) (f : ArbRes → ArbRes) (s : State) : (modRes r f s).part = s.part := rfl
@[simp] theorem modRes_fuses (r : Nat) (f : ArbRes → ArbRes) (s : State) : (modRes r f s).fuses = s.fuses := rfl
@[simp] theorem modRes_pwr (r : Nat) (f : ArbRes → ArbRes) (s : State) : (modRes r f s).pwr = s.pwr := rfl
@[simp] theorem modRes_cnt (r : Nat) (f : ArbRes → ArbRes) (s : State) : (modRes r f s).cnt = s.cnt := rfl
@[simp] theorem modRes_limits (r : Nat) (f : ArbRes → ArbRes) (s : State) : (modRes r f s).limits = s.limits := rfl
@[simp] theorem modRes_evLog (r : Nat) (f : ArbRes → ArbRes) (s : State) : (modRes r f s).evLog = s.evLog := rfl
@[simp] theorem modRes_evLogSeq (r : Nat) (f : ArbRes → ArbRes) (s : State) : (modRes r f s).evLogSeq = s.evLogSeq := rfl
@[simp] theorem modRes_free (r : Nat) (f : ArbRes → ArbRes) (s : State) : (modRes r f s).free = s.free := rfl

@[simp] theorem modReqs_arb (f : List ArbReq → List ArbReq) (s : State) : (modReqs f s).arb = { s.arb with reqs := f s.arb.reqs } := rfl
@[simp] theorem modReqs_pending (f : List ArbReq → List ArbReq) (s : State) : (modReqs f s).pending = s.pending := rfl
@[simp] theorem modReqs_tb (f : List ArbReq → List ArbReq) (s : State) : (modReqs f s).tb = s.tb := rfl
@[simp] theorem modReqs_eth (f : List ArbReq → List ArbReq) (s : State) : (modReqs f s).eth = s.eth := rfl
@[simp] theorem modReqs_ing (f : List ArbReq → List ArbReq) (s : State) : (modReqs f s).ing = s.ing := rfl
@[simp] theorem modReqs_aln (f : List ArbReq → List ArbReq) (s : State) : (modReqs f s).aln = s.aln := rfl
@[simp] theorem modReqs_svf (f : List ArbReq → List ArbReq) (s : State) : (modReqs f s).svf = s.svf := rfl
@[simp] theorem modReqs_osc (f : List ArbReq → List ArbReq) (s : State) : (modReqs f s).osc = s.osc := rfl
@[simp] theorem modReqs_isl (f : List ArbReq → List ArbReq) (s : State) : (modReqs f s).isl = s.isl := rfl
@[simp] theorem modReqs_sch (f : List ArbReq → List ArbReq) (s : State) : (modReqs f s).sch = s.sch := rfl
@[simp] theorem modReqs_cap (f : List ArbReq → List ArbReq) (s : State) : (modReqs f s).cap = s.cap := rfl
@[simp] theorem modReqs_mtr (f : List ArbReq → List ArbReq) (s : State) : (modReqs f s).mtr = s.mtr := rfl
@[simp] theorem modReqs_tsk (f : List ArbReq → List ArbReq) (s : State) : (modReqs f s).tsk = s.tsk := rfl
@[simp] theorem modReqs_pub (f : List ArbReq → List ArbReq) (s : State) : (modReqs f s).pub = s.pub := rfl
@[simp] theorem modReqs_cfg (f : List ArbReq → List ArbReq) (s : State) : (modReqs f s).cfg = s.cfg := rfl
@[simp] theorem modReqs_hp (f : List ArbReq → List ArbReq) (s : State) : (modReqs f s).hp = s.hp := rfl
@[simp] theorem modReqs_pair (f : List ArbReq → List ArbReq) (s : State) : (modReqs f s).pair = s.pair := rfl
@[simp] theorem modReqs_sec (f : List ArbReq → List ArbReq) (s : State) : (modReqs f s).sec = s.sec := rfl
@[simp] theorem modReqs_nv (f : List ArbReq → List ArbReq) (s : State) : (modReqs f s).nv = s.nv := rfl
@[simp] theorem modReqs_vbat (f : List ArbReq → List ArbReq) (s : State) : (modReqs f s).vbat = s.vbat := rfl
@[simp] theorem modReqs_part (f : List ArbReq → List ArbReq) (s : State) : (modReqs f s).part = s.part := rfl
@[simp] theorem modReqs_fuses (f : List ArbReq → List ArbReq) (s : State) : (modReqs f s).fuses = s.fuses := rfl
@[simp] theorem modReqs_pwr (f : List ArbReq → List ArbReq) (s : State) : (modReqs f s).pwr = s.pwr := rfl
@[simp] theorem modReqs_cnt (f : List ArbReq → List ArbReq) (s : State) : (modReqs f s).cnt = s.cnt := rfl
@[simp] theorem modReqs_limits (f : List ArbReq → List ArbReq) (s : State) : (modReqs f s).limits = s.limits := rfl
@[simp] theorem modReqs_evLog (f : List ArbReq → List ArbReq) (s : State) : (modReqs f s).evLog = s.evLog := rfl
@[simp] theorem modReqs_evLogSeq (f : List ArbReq → List ArbReq) (s : State) : (modReqs f s).evLogSeq = s.evLogSeq := rfl
@[simp] theorem modReqs_free (f : List ArbReq → List ArbReq) (s : State) : (modReqs f s).free = s.free := rfl

@[simp] theorem modPwr_pwr (f : Pwr → Pwr) (s : State) : (modPwr f s).pwr = f s.pwr := rfl
@[simp] theorem modPwr_pending (f : Pwr → Pwr) (s : State) : (modPwr f s).pending = s.pending := rfl
@[simp] theorem modPwr_tb (f : Pwr → Pwr) (s : State) : (modPwr f s).tb = s.tb := rfl
@[simp] theorem modPwr_eth (f : Pwr → Pwr) (s : State) : (modPwr f s).eth = s.eth := rfl
@[simp] theorem modPwr_ing (f : Pwr → Pwr) (s : State) : (modPwr f s).ing = s.ing := rfl
@[simp] theorem modPwr_aln (f : Pwr → Pwr) (s : State) : (modPwr f s).aln = s.aln := rfl
@[simp] theorem modPwr_svf (f : Pwr → Pwr) (s : State) : (modPwr f s).svf = s.svf := rfl
@[simp] theorem modPwr_osc (f : Pwr → Pwr) (s : State) : (modPwr f s).osc = s.osc := rfl
@[simp] theorem modPwr_isl (f : Pwr → Pwr) (s : State) : (modPwr f s).isl = s.isl := rfl
@[simp] theorem modPwr_sch (f : Pwr → Pwr) (s : State) : (modPwr f s).sch = s.sch := rfl
@[simp] theorem modPwr_cap (f : Pwr → Pwr) (s : State) : (modPwr f s).cap = s.cap := rfl
@[simp] theorem modPwr_mtr (f : Pwr → Pwr) (s : State) : (modPwr f s).mtr = s.mtr := rfl
@[simp] theorem modPwr_tsk (f : Pwr → Pwr) (s : State) : (modPwr f s).tsk = s.tsk := rfl
@[simp] theorem modPwr_arb (f : Pwr → Pwr) (s : State) : (modPwr f s).arb = s.arb := rfl
@[simp] theorem modPwr_pub (f : Pwr → Pwr) (s : State) : (modPwr f s).pub = s.pub := rfl
@[simp] theorem modPwr_cfg (f : Pwr → Pwr) (s : State) : (modPwr f s).cfg = s.cfg := rfl
@[simp] theorem modPwr_hp (f : Pwr → Pwr) (s : State) : (modPwr f s).hp = s.hp := rfl
@[simp] theorem modPwr_pair (f : Pwr → Pwr) (s : State) : (modPwr f s).pair = s.pair := rfl
@[simp] theorem modPwr_sec (f : Pwr → Pwr) (s : State) : (modPwr f s).sec = s.sec := rfl
@[simp] theorem modPwr_nv (f : Pwr → Pwr) (s : State) : (modPwr f s).nv = s.nv := rfl
@[simp] theorem modPwr_vbat (f : Pwr → Pwr) (s : State) : (modPwr f s).vbat = s.vbat := rfl
@[simp] theorem modPwr_part (f : Pwr → Pwr) (s : State) : (modPwr f s).part = s.part := rfl
@[simp] theorem modPwr_fuses (f : Pwr → Pwr) (s : State) : (modPwr f s).fuses = s.fuses := rfl
@[simp] theorem modPwr_cnt (f : Pwr → Pwr) (s : State) : (modPwr f s).cnt = s.cnt := rfl
@[simp] theorem modPwr_limits (f : Pwr → Pwr) (s : State) : (modPwr f s).limits = s.limits := rfl
@[simp] theorem modPwr_evLog (f : Pwr → Pwr) (s : State) : (modPwr f s).evLog = s.evLog := rfl
@[simp] theorem modPwr_evLogSeq (f : Pwr → Pwr) (s : State) : (modPwr f s).evLogSeq = s.evLogSeq := rfl
@[simp] theorem modPwr_free (f : Pwr → Pwr) (s : State) : (modPwr f s).free = s.free := rfl
end Sys2Proof.Machine
end

