-- ==== Sys2Proof/Laws/Time.lean ====
section
/-!
SUPPORT. Sys2Proof/Laws/Time.lean: what the shared operations of the timebase do.
-/
namespace Sys2Proof.Machine

@[simp] theorem raise_hasTime (code : Nat) (o : EvObj) (arg : List Byte) (s : State) : hasTime (raise code o arg s) = hasTime s := by
  simp [hasTime]

/-- Module time seen at `n` with the exact boundary `e`, `r`. -/
theorem seen_edge_tb (s : State) (e r n : Nat) :
    (seen n { s with tb := { s.tb with edge := e, rest := r } }).tb = { s.tb with edge := e, rest := r, now := max s.tb.now n } := rfl

/-- The next tick boundary moves the exact boundary and module time; of the timebase nothing else changes. -/
theorem nextEdge_tb (s : State) : ∃ e r n, (nextEdge s).tb = { s.tb with edge := e, rest := r, now := n } :=
  ⟨_, _, _, by unfold nextEdge; exact seen_edge_tb _ _ _ _⟩
@[simp] theorem nextEdge_tb_tick (s : State) : (nextEdge s).tb.tick = s.tb.tick := by
  obtain ⟨_, _, _, h⟩ := nextEdge_tb s
  rw [h]
@[simp] theorem nextEdge_tb_started (s : State) : (nextEdge s).tb.started = s.tb.started := by
  obtain ⟨_, _, _, h⟩ := nextEdge_tb s
  rw [h]
@[simp] theorem nextEdge_tb_grid (s : State) : (nextEdge s).tb.grid = s.tb.grid := by
  obtain ⟨_, _, _, h⟩ := nextEdge_tb s
  rw [h]
@[simp] theorem nextEdge_tb_state (s : State) : (nextEdge s).tb.state = s.tb.state := by
  obtain ⟨_, _, _, h⟩ := nextEdge_tb s
  rw [h]

/-- Noting the exact instant of a grid boundary changes nothing else of the timebase. -/
theorem edgeAt_tb (g : Nat) (s : State) : ∃ e r, (edgeAt g s).tb = { s.tb with edge := e, rest := r } := ⟨_, _, rfl⟩
@[simp] theorem edgeAt_tb_tick (g : Nat) (s : State) : (edgeAt g s).tb.tick = s.tb.tick := by
  obtain ⟨_, _, h⟩ := edgeAt_tb g s
  rw [h]
@[simp] theorem edgeAt_tb_started (g : Nat) (s : State) : (edgeAt g s).tb.started = s.tb.started := by
  obtain ⟨_, _, h⟩ := edgeAt_tb g s
  rw [h]
@[simp] theorem edgeAt_tb_grid (g : Nat) (s : State) : (edgeAt g s).tb.grid = s.tb.grid := by
  obtain ⟨_, _, h⟩ := edgeAt_tb g s
  rw [h]
@[simp] theorem edgeAt_tb_now (g : Nat) (s : State) : (edgeAt g s).tb.now = s.tb.now := by
  obtain ⟨_, _, h⟩ := edgeAt_tb g s
  rw [h]
@[simp] theorem edgeAt_tb_state (g : Nat) (s : State) : (edgeAt g s).tb.state = s.tb.state := by
  obtain ⟨_, _, h⟩ := edgeAt_tb g s
  rw [h]
@[simp] theorem edgeAt_tb_src (g : Nat) (s : State) : (edgeAt g s).tb.src = s.tb.src := by
  obtain ⟨_, _, h⟩ := edgeAt_tb g s
  rw [h]
@[simp] theorem edgeAt_tb_ofs (g : Nat) (s : State) : (edgeAt g s).tb.ofs = s.tb.ofs := by
  obtain ⟨_, _, h⟩ := edgeAt_tb g s
  rw [h]
@[simp] theorem edgeAt_cfg (g : Nat) (s : State) : (edgeAt g s).cfg = s.cfg := rfl

/-- What `advance` does to the clock: the tick counter rises by one as a 64-bit count, and grid time by one tick while it runs. -/
theorem advance_clock (s : State) : (advance s).tb.tick = (s.tb.tick + 1) % 2 ^ 64 ∧ (advance s).tb.started = s.tb.started ∧
    (advance s).tb.grid = (if hasTime s then s.tb.grid + 1 else s.tb.grid) := by
  unfold advance
  dsimp only
  have e : hasTime { s with tb := { s.tb with tick := (s.tb.tick + 1) % 2 ^ 64 } } = hasTime s := rfl
  rw [e]
  split
  · obtain ⟨a, b, h⟩ := edgeAt_tb (s.tb.grid + 1) { s with tb := { s.tb with tick := (s.tb.tick + 1) % 2 ^ 64, grid := s.tb.grid + 1 } }
    simp only [seen_tb, h, and_self]
  · simp only [nextEdge_tb_tick, nextEdge_tb_started, nextEdge_tb_grid, and_self]

/-- TB_TQ shows what it is derived from; of the timebase nothing else changes but the note of past values. -/
theorem refreshTq_tb (s : State) : ∃ l, (refreshTq s).tb = { s.tb with tq := tqWord s, tqLog := l } := by
  unfold refreshTq
  dsimp only
  split
  · rename_i h
    exact ⟨s.tb.tqLog, by rw [h]⟩
  · exact ⟨_, by simp; rfl⟩

@[simp] theorem refreshTq_tb_tick (s : State) : (refreshTq s).tb.tick = s.tb.tick := by
  obtain ⟨_, h⟩ := refreshTq_tb s
  rw [h]
@[simp] theorem refreshTq_tb_started (s : State) : (refreshTq s).tb.started = s.tb.started := by
  obtain ⟨_, h⟩ := refreshTq_tb s
  rw [h]
@[simp] theorem refreshTq_tb_grid (s : State) : (refreshTq s).tb.grid = s.tb.grid := by
  obtain ⟨_, h⟩ := refreshTq_tb s
  rw [h]
@[simp] theorem refreshTq_tb_now (s : State) : (refreshTq s).tb.now = s.tb.now := by
  obtain ⟨_, h⟩ := refreshTq_tb s
  rw [h]
@[simp] theorem refreshTq_tb_src (s : State) : (refreshTq s).tb.src = s.tb.src := by
  obtain ⟨_, h⟩ := refreshTq_tb s
  rw [h]
@[simp] theorem refreshTq_tb_ref (s : State) : (refreshTq s).tb.ref = s.tb.ref := by
  obtain ⟨_, h⟩ := refreshTq_tb s
  rw [h]
@[simp] theorem refreshTq_tb_state (s : State) : (refreshTq s).tb.state = s.tb.state := by
  obtain ⟨_, h⟩ := refreshTq_tb s
  rw [h]
@[simp] theorem refreshTq_tb_stbyUsed (s : State) : (refreshTq s).tb.stbyUsed = s.tb.stbyUsed := by
  obtain ⟨_, h⟩ := refreshTq_tb s
  rw [h]
@[simp] theorem refreshTq_tb_ofs (s : State) : (refreshTq s).tb.ofs = s.tb.ofs := by
  obtain ⟨_, h⟩ := refreshTq_tb s
  rw [h]
@[simp] theorem refreshTq_tb_applied (s : State) : (refreshTq s).tb.applied = s.tb.applied := by
  obtain ⟨_, h⟩ := refreshTq_tb s
  rw [h]
@[simp] theorem refreshTq_tb_leapPending (s : State) : (refreshTq s).tb.leapPending = s.tb.leapPending := by
  obtain ⟨_, h⟩ := refreshTq_tb s
  rw [h]
@[simp] theorem refreshTq_tb_leapDir (s : State) : (refreshTq s).tb.leapDir = s.tb.leapDir := by
  obtain ⟨_, h⟩ := refreshTq_tb s
  rw [h]
@[simp] theorem refreshTq_tb_leapMjd (s : State) : (refreshTq s).tb.leapMjd = s.tb.leapMjd := by
  obtain ⟨_, h⟩ := refreshTq_tb s
  rw [h]
@[simp] theorem refreshTq_tb_leapAt (s : State) : (refreshTq s).tb.leapAt = s.tb.leapAt := by
  obtain ⟨_, h⟩ := refreshTq_tb s
  rw [h]
@[simp] theorem refreshTq_tb_terr (s : State) : (refreshTq s).tb.terr = s.tb.terr := by
  obtain ⟨_, h⟩ := refreshTq_tb s
  rw [h]
@[simp] theorem refreshTq_tb_rate (s : State) : (refreshTq s).tb.rate = s.tb.rate := by
  obtain ⟨_, h⟩ := refreshTq_tb s
  rw [h]
@[simp] theorem refreshTq_tb_offset (s : State) : (refreshTq s).tb.offset = s.tb.offset := by
  obtain ⟨_, h⟩ := refreshTq_tb s
  rw [h]
@[simp] theorem refreshTq_tb_rates (s : State) : (refreshTq s).tb.rates = s.tb.rates := by
  obtain ⟨_, h⟩ := refreshTq_tb s
  rw [h]
@[simp] theorem refreshTq_tb_limited (s : State) : (refreshTq s).tb.limited = s.tb.limited := by
  obtain ⟨_, h⟩ := refreshTq_tb s
  rw [h]
@[simp] theorem refreshTq_tb_holdAge (s : State) : (refreshTq s).tb.holdAge = s.tb.holdAge := by
  obtain ⟨_, h⟩ := refreshTq_tb s
  rw [h]
@[simp] theorem refreshTq_tb_holdRate (s : State) : (refreshTq s).tb.holdRate = s.tb.holdRate := by
  obtain ⟨_, h⟩ := refreshTq_tb s
  rw [h]
@[simp] theorem refreshTq_tb_terr0 (s : State) : (refreshTq s).tb.terr0 = s.tb.terr0 := by
  obtain ⟨_, h⟩ := refreshTq_tb s
  rw [h]
@[simp] theorem refreshTq_tb_holdFrom (s : State) : (refreshTq s).tb.holdFrom = s.tb.holdFrom := by
  obtain ⟨_, h⟩ := refreshTq_tb s
  rw [h]
@[simp] theorem refreshTq_tb_rxp (s : State) : (refreshTq s).tb.rxp = s.tb.rxp := by
  obtain ⟨_, h⟩ := refreshTq_tb s
  rw [h]
@[simp] theorem refreshTq_tb_stby (s : State) : (refreshTq s).tb.stby = s.tb.stby := by
  obtain ⟨_, h⟩ := refreshTq_tb s
  rw [h]
@[simp] theorem refreshTq_tb_gm (s : State) : (refreshTq s).tb.gm = s.tb.gm := by
  obtain ⟨_, h⟩ := refreshTq_tb s
  rw [h]
@[simp] theorem refreshTq_tb_pps (s : State) : (refreshTq s).tb.pps = s.tb.pps := by
  obtain ⟨_, h⟩ := refreshTq_tb s
  rw [h]
@[simp] theorem refreshTq_tb_irigPresent (s : State) : (refreshTq s).tb.irigPresent = s.tb.irigPresent := by
  obtain ⟨_, h⟩ := refreshTq_tb s
  rw [h]
@[simp] theorem refreshTq_tb_irigAgree (s : State) : (refreshTq s).tb.irigAgree = s.tb.irigAgree := by
  obtain ⟨_, h⟩ := refreshTq_tb s
  rw [h]
@[simp] theorem refreshTq_tb_irigTq (s : State) : (refreshTq s).tb.irigTq = s.tb.irigTq := by
  obtain ⟨_, h⟩ := refreshTq_tb s
  rw [h]
@[simp] theorem refreshTq_tb_irigOfs (s : State) : (refreshTq s).tb.irigOfs = s.tb.irigOfs := by
  obtain ⟨_, h⟩ := refreshTq_tb s
  rw [h]
@[simp] theorem refreshTq_tb_irigLeap (s : State) : (refreshTq s).tb.irigLeap = s.tb.irigLeap := by
  obtain ⟨_, h⟩ := refreshTq_tb s
  rw [h]
@[simp] theorem refreshTq_tb_irigFails (s : State) : (refreshTq s).tb.irigFails = s.tb.irigFails := by
  obtain ⟨_, h⟩ := refreshTq_tb s
  rw [h]
@[simp] theorem refreshTq_tb_irigQual (s : State) : (refreshTq s).tb.irigQual = s.tb.irigQual := by
  obtain ⟨_, h⟩ := refreshTq_tb s
  rw [h]
@[simp] theorem refreshTq_tb_sdtCyc (s : State) : (refreshTq s).tb.sdtCyc = s.tb.sdtCyc := by
  obtain ⟨_, h⟩ := refreshTq_tb s
  rw [h]
@[simp] theorem refreshTq_tb_sdtRun (s : State) : (refreshTq s).tb.sdtRun = s.tb.sdtRun := by
  obtain ⟨_, h⟩ := refreshTq_tb s
  rw [h]
@[simp] theorem refreshTq_tb_sdtElig (s : State) : (refreshTq s).tb.sdtElig = s.tb.sdtElig := by
  obtain ⟨_, h⟩ := refreshTq_tb s
  rw [h]
@[simp] theorem refreshTq_tb_sdtOfs (s : State) : (refreshTq s).tb.sdtOfs = s.tb.sdtOfs := by
  obtain ⟨_, h⟩ := refreshTq_tb s
  rw [h]
@[simp] theorem refreshTq_tb_sdtLeap (s : State) : (refreshTq s).tb.sdtLeap = s.tb.sdtLeap := by
  obtain ⟨_, h⟩ := refreshTq_tb s
  rw [h]
@[simp] theorem refreshTq_tb_qual (s : State) : (refreshTq s).tb.qual = s.tb.qual := by
  obtain ⟨_, h⟩ := refreshTq_tb s
  rw [h]
@[simp] theorem refreshTq_tb_lost (s : State) : (refreshTq s).tb.lost = s.tb.lost := by
  obtain ⟨_, h⟩ := refreshTq_tb s
  rw [h]
@[simp] theorem refreshTq_tb_ppsOut (s : State) : (refreshTq s).tb.ppsOut = s.tb.ppsOut := by
  obtain ⟨_, h⟩ := refreshTq_tb s
  rw [h]
@[simp] theorem refreshTq_tb_ppsLeft (s : State) : (refreshTq s).tb.ppsLeft = s.tb.ppsLeft := by
  obtain ⟨_, h⟩ := refreshTq_tb s
  rw [h]
@[simp] theorem refreshTq_tb_restartReq (s : State) : (refreshTq s).tb.restartReq = s.tb.restartReq := by
  obtain ⟨_, h⟩ := refreshTq_tb s
  rw [h]
@[simp] theorem refreshTq_tb_di (s : State) : (refreshTq s).tb.di = s.tb.di := by
  obtain ⟨_, h⟩ := refreshTq_tb s
  rw [h]
@[simp] theorem refreshTq_tb_diLog (s : State) : (refreshTq s).tb.diLog = s.tb.diLog := by
  obtain ⟨_, h⟩ := refreshTq_tb s
  rw [h]

theorem flagged_refreshTq {s : State} {off b : Nat} (h : flagged s off b) : flagged (refreshTq s) off b := by
  unfold refreshTq
  dsimp only
  split
  · exact h
  · exact flagged_raise (fun n hn => h n hn)

theorem flagged_tbFlag {s : State} {b : Nat} (hl : s.hp.length = 4) (hb : b < 32) : flagged (tbFlag b s) (TB + 4) b := flagged_setFlag hl hb

/-- A reported offset is stored; the timebase stays as it is. -/
theorem reportOfs_spec (o : Int) (s : State) :
    (reportOfs o s).tb = s.tb ∧ (reportOfs o s).vbat = { s.vbat with utcOfs := o, utcValid := true } := by
  unfold reportOfs tbFlag
  dsimp only
  split <;> simp [storeOfs]

theorem noteQual_spec (src : Nat) (s : State) : (noteQual src s).tb = { s.tb with qual := (noteQual src s).tb.qual } ∧
    noteQual src s = { s with tb := (noteQual src s).tb } := by
  unfold noteQual
  dsimp only
  split
  · split <;> exact ⟨rfl, rfl⟩
  · exact ⟨rfl, rfl⟩

/-- Noting the qualification of the sources changes only the notes of it. -/
theorem noteQuals_spec (s : State) : (noteQuals s).tb = { s.tb with qual := (noteQuals s).tb.qual, gmNew := (noteQuals s).tb.gmNew } ∧
    noteQuals s = { s with tb := (noteQuals s).tb } := by
  unfold noteQuals
  dsimp only
  have h1 := noteQual_spec 1 s
  have h2 := noteQual_spec 2 (noteQual 1 s)
  have h3 := noteQual_spec 3 (noteQual 2 (noteQual 1 s))
  generalize noteQual 1 s = a at *
  generalize noteQual 2 a = b at *
  generalize noteQual 3 b = c at *
  constructor
  · rw [h3.1, h2.1, h1.1]
  · rw [h3.2, h2.2, h1.2]

@[simp] theorem noteQuals_tb_pps (s : State) : (noteQuals s).tb.pps = s.tb.pps := by rw [(noteQuals_spec s).1]
@[simp] theorem noteQuals_tb_irigPresent (s : State) : (noteQuals s).tb.irigPresent = s.tb.irigPresent := by rw [(noteQuals_spec s).1]
@[simp] theorem noteQuals_tb_irigTq (s : State) : (noteQuals s).tb.irigTq = s.tb.irigTq := by rw [(noteQuals_spec s).1]
@[simp] theorem noteQuals_tb_irigOfs (s : State) : (noteQuals s).tb.irigOfs = s.tb.irigOfs := by rw [(noteQuals_spec s).1]
@[simp] theorem noteQuals_tb_irigLeap (s : State) : (noteQuals s).tb.irigLeap = s.tb.irigLeap := by rw [(noteQuals_spec s).1]
@[simp] theorem noteQuals_tb_sdtCyc (s : State) : (noteQuals s).tb.sdtCyc = s.tb.sdtCyc := by rw [(noteQuals_spec s).1]
@[simp] theorem noteQuals_tb_sdtElig (s : State) : (noteQuals s).tb.sdtElig = s.tb.sdtElig := by rw [(noteQuals_spec s).1]
@[simp] theorem noteQuals_tb_sdtOfs (s : State) : (noteQuals s).tb.sdtOfs = s.tb.sdtOfs := by rw [(noteQuals_spec s).1]
@[simp] theorem noteQuals_tb_rxp (s : State) : (noteQuals s).tb.rxp = s.tb.rxp := by rw [(noteQuals_spec s).1]
@[simp] theorem noteQuals_tb_stby (s : State) : (noteQuals s).tb.stby = s.tb.stby := by rw [(noteQuals_spec s).1]
@[simp] theorem noteQuals_tb_tick (s : State) : (noteQuals s).tb.tick = s.tb.tick := by rw [(noteQuals_spec s).1]
@[simp] theorem noteQuals_tb_grid (s : State) : (noteQuals s).tb.grid = s.tb.grid := by rw [(noteQuals_spec s).1]
@[simp] theorem noteQuals_tb_started (s : State) : (noteQuals s).tb.started = s.tb.started := by rw [(noteQuals_spec s).1]
@[simp] theorem noteQuals_tb_state (s : State) : (noteQuals s).tb.state = s.tb.state := by rw [(noteQuals_spec s).1]
@[simp] theorem noteQuals_tb_src (s : State) : (noteQuals s).tb.src = s.tb.src := by rw [(noteQuals_spec s).1]

end Sys2Proof.Machine
end

