-- ==== Sys2Proof/Laws/Ethernet.lean ====
section
/-!
SUPPORT. Sys2Proof/Laws/Ethernet.lean: what queueing a frame for a port does.
-/
namespace Sys2Proof.Machine

theorem portOf_modPort (s : State) (n m : Nat) (f : Port → Port) : portOf (modPort n f s) m = if m = n then f (portOf s n) else portOf s m := by
  simp only [portOf, modPort, fgetD_fmod]

/-- A port that begins a frame that waits keeps the order of its frames. -/
theorem beginFree_order (n : Nat) (s : State) :
    (portOf (beginFree n s) n).cur.toList ++ (portOf (beginFree n s) n).txq = (portOf s n).cur.toList ++ (portOf s n).txq := by
  unfold beginFree
  split
  · rfl
  · rw [portOf_modPort, if_pos rfl]
    split
    · rename_i h1 h2
      split <;> simp [h1, h2]
    · rfl

/-- On a port with its link up, a frame no longer than MAXLEN stands behind the others. -/
theorem enqueue1_queued {n len : Nat} {body : TxBody} {rct : Option TxRct} {due : Option Nat} {s : State} (hl : (portOf s n).linkUp = true)
    (hm : max 64 len ≤ maxLen s n) : queuedAt s (enqueue1 n body len rct due s) n
      { id := s.eth.txId, body := body, len := max 64 len, rct := rct, due := due, born := s.tb.tick } := by
  have e : enqueue1 n body len rct due s = beginFree n (modPort n (fun p => { p with txq := p.txq ++
      [{ id := s.eth.txId, body := body, len := max 64 len, rct := rct, due := due, born := s.tb.tick }] })
      { s with eth := { s.eth with txId := s.eth.txId + 1 } }) := by
    unfold enqueue1
    dsimp only
    have h1 : portOf { s with eth := { s.eth with txId := s.eth.txId + 1 } } n = portOf s n := rfl
    have h2 : maxLen { s with eth := { s.eth with txId := s.eth.txId + 1 } } n = maxLen s n := rfl
    rw [if_neg]
    rw [h1, h2, hl]
    simp only [Bool.not_true, Bool.false_and, Bool.or_false, decide_eq_true_eq]
    omega
  rw [e, queuedAt, beginFree_order, portOf_modPort, if_pos rfl, ← List.append_assoc]
  rfl

/-- A port that begins a frame changes nothing but ETH. -/
theorem beginFree_eth (n : Nat) (s : State) : ∃ e, beginFree n s = { s with eth := e } := by
  unfold beginFree
  split
  · exact ⟨s.eth, rfl⟩
  · exact ⟨_, rfl⟩

/-- Receive buffers that drain change nothing but ETH. -/
theorem rxDrained_eth (n ns : Nat) (s : State) : ∃ e, rxDrained n ns s = { s with eth := e } := by
  unfold rxDrained
  split
  · exact beginFree_eth _ _
  · exact ⟨s.eth, rfl⟩

theorem rxDrainedAll_eth (ns : Nat) (s : State) : ∃ e, rxDrainedAll ns s = { s with eth := e } := by
  unfold rxDrainedAll
  generalize List.range 13 = l
  induction l generalizing s with
  | nil => exact ⟨s.eth, rfl⟩
  | cons n l ih =>
    obtain ⟨e1, h1⟩ := rxDrained_eth n ns s
    obtain ⟨e2, h2⟩ := ih (rxDrained n ns s)
    exact ⟨e2, by rw [List.foldl_cons, h2, h1]⟩

/-- Taking a frame handed on notes its arrival as module time seen, and changes nothing else but ETH. -/
theorem takeHanded_some {c : FrameClass} {h : Handed} {s u : State} (e : takeHanded c s = some (h, u)) :
    ∃ x, u = { s with tb := { s.tb with now := max s.tb.now h.frame.arrival }, eth := x } := by
  simp only [takeHanded, takeFrame] at e
  cases hp : takePoliced (fun x => x.cls == c) s.eth.handed with
  | none => rw [hp] at e; cases e
  | some q =>
    obtain ⟨g, rest⟩ := q
    rw [hp] at e
    simp only [Option.some.injEq, Prod.mk.injEq] at e
    obtain ⟨rfl, rfl⟩ := e
    obtain ⟨x, hx⟩ := rxDrainedAll_eth g.frame.arrival (seen g.frame.arrival { s with eth := { s.eth with handed := rest } })
    exact ⟨x, hx⟩

/-- With no port in use no pause is under way, and draining does nothing. -/
theorem rxDrainedAll_noPorts {s : State} (ns : Nat) (h : s.eth.ports = []) : rxDrainedAll ns s = s := by
  unfold rxDrainedAll
  generalize List.range 13 = l
  induction l with
  | nil => rfl
  | cons n l ih => rw [List.foldl_cons, show rxDrained n ns s = s by simp [rxDrained, portOf, fgetD, fget?, h], ih]

/-- The only frame handed on is the one taken. -/
theorem takeFrame_only {p : Handed → Bool} {s : State} {h : Handed} (hh : s.eth.handed = [h]) (hp : s.eth.ports = []) (hm : p h = true) :
    takeFrame p s = some (h, seen h.frame.arrival { s with eth := { s.eth with handed := [] } }) := by
  simp only [takeFrame, hh, takePoliced, hm, if_true]
  rw [rxDrainedAll_noPorts]
  exact hp

end Sys2Proof.Machine
end

