-- ==== Sys2Proof/Laws/KeptVault.lean ====
section
/-!
SUPPORT. Sys2Proof/Laws/KeptVault.lean: every operation of Vault.lean keeps what no command changes, and the parts that it does not write (Kept.lean).
-/
set_option Elab.async false
set_option linter.unusedTactic false
set_option linter.unreachableTactic false
set_option linter.unusedVariables false
namespace Sys2Proof.Machine

theorem kept_setActiveStore {μ : Nat} (hw : 3458764513820540928 &&& μ = 3458764513820540928) {s0 : State} {v : VStore} {s : State}  (kh : Kept μ s0 s) :
    Kept μ s0 (setActiveStore v s) := by
  have i60 : μ.testBit 60 = true := bit_of hw rfl
  have i61 : μ.testBit 61 = true := bit_of hw rfl
  unfold setActiveStore
  repeat' first
    | with_reducible assumption
    | (intro s; with_reducible refine (fun (hs : Kept μ s0 s) => ?_) ?_)
    | intro x
    | lift_lets
    | (fail_if_no_progress with_reducible refine Kept.mk' ?_  (h_nv := .inr ⟨i60, .inr i61, sm, sm, sm, sm, sm, sm⟩))
    | split
    | dsimp +zetaDelta only

theorem kept_keyOp {μ : Nat} (hw : 1133367955972277734998016 &&& μ = 1133367955972277734998016) {s0 : State} {k attr : Nat} {s : State}  (kh : Kept μ s0 s) :
    KeptF μ s0 (keyOp k attr s) := by
  have k_count : 982252228520449088159744 &&& μ = 982252228520449088159744 := sub_of hw rfl
  have k_raiseLimited : 1057810092237567318556672 &&& μ = 1057810092237567318556672 := sub_of hw rfl
  have k_setFlag : 13194139533312 &&& μ = 13194139533312 := sub_of hw rfl
  unfold keyOp
  repeat' first
    | with_reducible assumption
    | (intro s; with_reducible refine (fun (hs : Kept μ s0 s) => ?_) ?_)
    | intro x
    | lift_lets
    | with_reducible refine kept_setFlag k_setFlag ?_
    | with_reducible refine kept_raiseLimited k_raiseLimited ?_
    | with_reducible refine kept_count k_count ?_
    | split
    | with_reducible refine KeptF.mk' ?_
    | dsimp +zetaDelta only

theorem kept_macSign {μ : Nat} (hw : 1133367955972277734998016 &&& μ = 1133367955972277734998016) {s0 : State} {k : Nat} {bs : List Byte} {s : State}  (kh : Kept μ s0 s) :
    KeptF μ s0 (macSign k bs s) := by
  have k_keyOp : 1133367955972277734998016 &&& μ = 1133367955972277734998016 := sub_of hw rfl
  have i42 : μ.testBit 42 = true := bit_of hw rfl
  have i43 : μ.testBit 43 = true := bit_of hw rfl
  have i46 : μ.testBit 46 = true := bit_of hw rfl
  have i76 : μ.testBit 76 = true := bit_of hw rfl
  have i77 : μ.testBit 77 = true := bit_of hw rfl
  have i78 : μ.testBit 78 = true := bit_of hw rfl
  have i79 : μ.testBit 79 = true := bit_of hw rfl
  unfold macSign
  repeat' first
    | with_reducible assumption
    | (intro s; with_reducible refine (fun (hs : Kept μ s0 s) => ?_) ?_)
    | intro x
    | lift_lets
    | with_reducible refine kept_keyOp k_keyOp ?_
    | with_reducible refine KeptF.eq (by with_reducible assumption) ?_
    | (fail_if_no_progress with_reducible refine Kept.mk' ?_  (h_hp := .inr ⟨i42, .inr i43, sm, sm, .inr i46, sm, sm, sm, sm, sm, sm, sm⟩) (h_cnt := .inr i76) (h_limits := .inr i77) (h_evLog := .inr i78) (h_evLogSeq := .inr i79))
    | split
    | with_reducible refine KeptF.mk' ?_
    | with_reducible refine KeptF.fst ?_
    | dsimp +zetaDelta only

theorem kept_macVerify {μ : Nat} (hw : 1133367955972277734998016 &&& μ = 1133367955972277734998016) {s0 : State} {k : Nat} {bs tag : List Byte} {s : State}  (kh : Kept μ s0 s) :
    KeptF μ s0 (macVerify k bs tag s) := by
  have k_keyOp : 1133367955972277734998016 &&& μ = 1133367955972277734998016 := sub_of hw rfl
  have i42 : μ.testBit 42 = true := bit_of hw rfl
  have i43 : μ.testBit 43 = true := bit_of hw rfl
  have i46 : μ.testBit 46 = true := bit_of hw rfl
  have i76 : μ.testBit 76 = true := bit_of hw rfl
  have i77 : μ.testBit 77 = true := bit_of hw rfl
  have i78 : μ.testBit 78 = true := bit_of hw rfl
  have i79 : μ.testBit 79 = true := bit_of hw rfl
  unfold macVerify
  repeat' first
    | with_reducible assumption
    | (intro s; with_reducible refine (fun (hs : Kept μ s0 s) => ?_) ?_)
    | intro x
    | lift_lets
    | with_reducible refine kept_keyOp k_keyOp ?_
    | with_reducible refine KeptF.eq (by with_reducible assumption) ?_
    | (fail_if_no_progress with_reducible refine Kept.mk' ?_  (h_hp := .inr ⟨i42, .inr i43, sm, sm, .inr i46, sm, sm, sm, sm, sm, sm, sm⟩) (h_cnt := .inr i76) (h_limits := .inr i77) (h_evLog := .inr i78) (h_evLogSeq := .inr i79))
    | split
    | with_reducible refine KeptF.mk' ?_
    | with_reducible refine KeptF.fst ?_
    | dsimp +zetaDelta only

end Sys2Proof.Machine
end

