-- ==== Sys2Proof/Laws/KeptIngest.lean ====
section
/-!
SUPPORT. Sys2Proof/Laws/KeptIngest.lean: every operation of Ingest.lean keeps what no command changes, and the parts that it does not write (Kept.lean).
-/
set_option Elab.async false
set_option linter.unusedTactic false
set_option linter.unreachableTactic false
set_option linter.unusedVariables false
namespace Sys2Proof.Machine

theorem kept_modStrm {μ : Nat} (hw : 768 &&& μ = 768) {s0 : State} {n : Nat} {f : Strm → Strm} {s : State}  (kh : Kept μ s0 s) :
    Kept μ s0 (modStrm n f s) := by
  have i8 : μ.testBit 8 = true := bit_of hw rfl
  have i9 : μ.testBit 9 = true := bit_of hw rfl
  unfold modStrm
  repeat' first
    | with_reducible assumption
    | (intro s; with_reducible refine (fun (hs : Kept μ s0 s) => ?_) ?_)
    | intro x
    | lift_lets
    | (fail_if_no_progress with_reducible refine Kept.mk' ?_  (h_ing := .inr ⟨i8, .inr i9, sm⟩))
    | split
    | dsimp +zetaDelta only

theorem kept_strmCount {μ : Nat} (hw : 982252228520449088159744 &&& μ = 982252228520449088159744) {s0 : State} {n k : Nat} {s : State}  (kh : Kept μ s0 s) :
    Kept μ s0 (strmCount n k s) := by
  have k_countW : 982252228520449088159744 &&& μ = 982252228520449088159744 := sub_of hw rfl
  unfold strmCount
  repeat' first
    | with_reducible assumption
    | (intro s; with_reducible refine (fun (hs : Kept μ s0 s) => ?_) ?_)
    | intro x
    | lift_lets
    | with_reducible refine kept_countW k_countW ?_
    | split
    | dsimp +zetaDelta only

theorem kept_ingFlag {μ : Nat} (hw : 13194139533312 &&& μ = 13194139533312) {s0 : State} {b : Nat} {s : State}  (kh : Kept μ s0 s) :
    Kept μ s0 (ingFlag b s) := by
  have k_setFlag : 13194139533312 &&& μ = 13194139533312 := sub_of hw rfl
  unfold ingFlag
  repeat' first
    | with_reducible assumption
    | (intro s; with_reducible refine (fun (hs : Kept μ s0 s) => ?_) ?_)
    | intro x
    | lift_lets
    | with_reducible refine kept_setFlag k_setFlag ?_
    | split
    | dsimp +zetaDelta only

theorem kept_pruneRecs {μ : Nat} (hw : 1280 &&& μ = 1280) {s0 : State} {s : State}  (kh : Kept μ s0 s) :
    Kept μ s0 (pruneRecs s) := by
  have i8 : μ.testBit 8 = true := bit_of hw rfl
  have i10 : μ.testBit 10 = true := bit_of hw rfl
  unfold pruneRecs
  repeat' first
    | with_reducible assumption
    | (intro s; with_reducible refine (fun (hs : Kept μ s0 s) => ?_) ?_)
    | intro x
    | lift_lets
    | (fail_if_no_progress with_reducible refine Kept.mk' ?_  (h_ing := .inr ⟨i8, sm, .inr i10⟩))
    | split
    | dsimp +zetaDelta only

theorem kept_scheduleRec {μ : Nat} (hw : 1280 &&& μ = 1280) {s0 : State} {r : IngRec} {s : State}  (kh : Kept μ s0 s) :
    Kept μ s0 (scheduleRec r s) := by
  have i8 : μ.testBit 8 = true := bit_of hw rfl
  have i10 : μ.testBit 10 = true := bit_of hw rfl
  unfold scheduleRec
  repeat' first
    | with_reducible assumption
    | (intro s; with_reducible refine (fun (hs : Kept μ s0 s) => ?_) ?_)
    | intro x
    | lift_lets
    | (fail_if_no_progress with_reducible refine Kept.mk' ?_  (h_ing := .inr ⟨i8, sm, .inr i10⟩))
    | split
    | dsimp +zetaDelta only

theorem kept_setStrmState {μ : Nat} (hw : 13194139534080 &&& μ = 13194139534080) {s0 : State} {n st : Nat} {s : State}  (kh : Kept μ s0 s) :
    Kept μ s0 (setStrmState n st s) := by
  have k_ingFlag : 13194139533312 &&& μ = 13194139533312 := sub_of hw rfl
  have k_modStrm : 768 &&& μ = 768 := sub_of hw rfl
  have i8 : μ.testBit 8 = true := bit_of hw rfl
  have i9 : μ.testBit 9 = true := bit_of hw rfl
  have i42 : μ.testBit 42 = true := bit_of hw rfl
  have i43 : μ.testBit 43 = true := bit_of hw rfl
  unfold setStrmState
  repeat' first
    | with_reducible assumption
    | (intro s; with_reducible refine (fun (hs : Kept μ s0 s) => ?_) ?_)
    | intro x
    | lift_lets
    | with_reducible refine kept_modStrm k_modStrm ?_
    | with_reducible refine kept_ingFlag k_ingFlag ?_
    | (fail_if_no_progress with_reducible refine Kept.mk' ?_  (h_ing := .inr ⟨i8, .inr i9, sm⟩) (h_hp := .inr ⟨i42, .inr i43, sm, sm, sm, sm, sm, sm, sm, sm, sm, sm⟩))
    | split
    | dsimp +zetaDelta only

theorem kept_sendSrcCmd {μ : Nat} (hw : 982252233059233087619888 &&& μ = 982252233059233087619888) {s0 : State} {n cmd : Nat} {s : State} {k : Option Nat}  (kh : Kept μ s0 s) :
    Kept μ s0 (sendSrcCmd n cmd s k) := by
  have k_enqueueMask : 982252233059233087619120 &&& μ = 982252233059233087619120 := sub_of hw rfl
  have k_modStrm : 768 &&& μ = 768 := sub_of hw rfl
  have i4 : μ.testBit 4 = true := bit_of hw rfl
  have i5 : μ.testBit 5 = true := bit_of hw rfl
  have i8 : μ.testBit 8 = true := bit_of hw rfl
  have i9 : μ.testBit 9 = true := bit_of hw rfl
  have i42 : μ.testBit 42 = true := bit_of hw rfl
  have i43 : μ.testBit 43 = true := bit_of hw rfl
  have i45 : μ.testBit 45 = true := bit_of hw rfl
  have i46 : μ.testBit 46 = true := bit_of hw rfl
  have i52 : μ.testBit 52 = true := bit_of hw rfl
  have i76 : μ.testBit 76 = true := bit_of hw rfl
  have i78 : μ.testBit 78 = true := bit_of hw rfl
  have i79 : μ.testBit 79 = true := bit_of hw rfl
  unfold sendSrcCmd
  repeat' first
    | with_reducible assumption
    | (intro s; with_reducible refine (fun (hs : Kept μ s0 s) => ?_) ?_)
    | intro x
    | lift_lets
    | with_reducible refine kept_enqueueMask k_enqueueMask ?_
    | with_reducible refine kept_modStrm k_modStrm ?_
    | with_reducible refine kept_foldl (fun s x hs => ?_) ?_
    | (fail_if_no_progress with_reducible refine Kept.mk' ?_  (h_eth := .inr ⟨i4, .inr i5, sm, sm⟩) (h_ing := .inr ⟨i8, .inr i9, sm⟩) (h_hp := .inr ⟨i42, .inr i43, sm, .inr i45, .inr i46, sm, sm, sm, sm, sm, .inr i52, sm⟩) (h_cnt := .inr i76) (h_evLog := .inr i78) (h_evLogSeq := .inr i79))
    | split
    | dsimp +zetaDelta only

theorem kept_waitCfg {μ : Nat} (hw : 982252233059233087619888 &&& μ = 982252233059233087619888) {s0 : State} {n : Nat} {s : State} {k : Option Nat}  (kh : Kept μ s0 s) :
    Kept μ s0 (waitCfg n s k) := by
  have k_sendSrcCmd : 982252233059233087619888 &&& μ = 982252233059233087619888 := sub_of hw rfl
  have k_setStrmState : 13194139534080 &&& μ = 13194139534080 := sub_of hw rfl
  unfold waitCfg
  repeat' first
    | with_reducible assumption
    | (intro s; with_reducible refine (fun (hs : Kept μ s0 s) => ?_) ?_)
    | intro x
    | lift_lets
    | with_reducible refine kept_setStrmState k_setStrmState ?_
    | with_reducible refine kept_sendSrcCmd k_sendSrcCmd ?_
    | split
    | dsimp +zetaDelta only

theorem kept_strmStart {μ : Nat} (hw : 982252233059233087619888 &&& μ = 982252233059233087619888) {s0 : State} {ca cb : SrcConn} {n : Nat} {s : State}  (kh : Kept μ s0 s) :
    Kept μ s0 (strmStart ca cb n s) := by
  have k_setStrmState : 13194139534080 &&& μ = 13194139534080 := sub_of hw rfl
  have k_waitCfg : 982252233059233087619888 &&& μ = 982252233059233087619888 := sub_of hw rfl
  have i4 : μ.testBit 4 = true := bit_of hw rfl
  have i5 : μ.testBit 5 = true := bit_of hw rfl
  have i8 : μ.testBit 8 = true := bit_of hw rfl
  have i9 : μ.testBit 9 = true := bit_of hw rfl
  have i42 : μ.testBit 42 = true := bit_of hw rfl
  have i43 : μ.testBit 43 = true := bit_of hw rfl
  have i45 : μ.testBit 45 = true := bit_of hw rfl
  have i46 : μ.testBit 46 = true := bit_of hw rfl
  have i52 : μ.testBit 52 = true := bit_of hw rfl
  have i76 : μ.testBit 76 = true := bit_of hw rfl
  have i78 : μ.testBit 78 = true := bit_of hw rfl
  have i79 : μ.testBit 79 = true := bit_of hw rfl
  unfold strmStart
  repeat' first
    | with_reducible assumption
    | (intro s; with_reducible refine (fun (hs : Kept μ s0 s) => ?_) ?_)
    | intro x
    | lift_lets
    | with_reducible refine kept_setStrmState k_setStrmState ?_
    | with_reducible refine kept_waitCfg k_waitCfg ?_
    | (fail_if_no_progress with_reducible refine Kept.mk' ?_  (h_eth := .inr ⟨i4, .inr i5, sm, sm⟩) (h_ing := .inr ⟨i8, .inr i9, sm⟩) (h_hp := .inr ⟨i42, .inr i43, sm, .inr i45, .inr i46, sm, sm, sm, sm, sm, .inr i52, sm⟩) (h_cnt := .inr i76) (h_evLog := .inr i78) (h_evLogSeq := .inr i79))
    | split
    | dsimp +zetaDelta only

theorem kept_policerTick {μ : Nat} (hw : 768 &&& μ = 768) {s0 : State} {s : State}  (kh : Kept μ s0 s) :
    Kept μ s0 (policerTick s) := by
  have i8 : μ.testBit 8 = true := bit_of hw rfl
  have i9 : μ.testBit 9 = true := bit_of hw rfl
  unfold policerTick
  repeat' first
    | with_reducible assumption
    | (intro s; with_reducible refine (fun (hs : Kept μ s0 s) => ?_) ?_)
    | intro x
    | lift_lets
    | (fail_if_no_progress with_reducible refine Kept.mk' ?_  (h_ing := .inr ⟨i8, .inr i9, sm⟩))
    | split
    | dsimp +zetaDelta only

theorem kept_sdtNote {μ : Nat} (hw : 1 &&& μ = 1) {s0 : State} {n stat tq : Nat} {a tau : Int} {s : State}  (kh : Kept μ s0 s) :
    Kept μ s0 (sdtNote n stat tq a tau s) := by
  have i0 : μ.testBit 0 = true := bit_of hw rfl
  unfold sdtNote
  repeat' first
    | with_reducible assumption
    | (intro s; with_reducible refine (fun (hs : Kept μ s0 s) => ?_) ?_)
    | intro x
    | lift_lets
    | (fail_if_no_progress with_reducible refine Kept.mk' ?_  (h_tb := .inr ⟨i0, sm, sm, sm⟩))
    | split
    | dsimp +zetaDelta only

theorem kept_learnLatency {μ : Nat} (hw : 148726874094283260672 &&& μ = 148726874094283260672) {s0 : State} {n : Nat} {d : Int} {s : State}  (kh : Kept μ s0 s) :
    Kept μ s0 (learnLatency n d s) := by
  have k_modStrm : 768 &&& μ = 768 := sub_of hw rfl
  have i8 : μ.testBit 8 = true := bit_of hw rfl
  have i9 : μ.testBit 9 = true := bit_of hw rfl
  have i60 : μ.testBit 60 = true := bit_of hw rfl
  have i67 : μ.testBit 67 = true := bit_of hw rfl
  unfold learnLatency
  repeat' first
    | with_reducible assumption
    | (intro s; with_reducible refine (fun (hs : Kept μ s0 s) => ?_) ?_)
    | intro x
    | lift_lets
    | with_reducible refine kept_modStrm k_modStrm ?_
    | with_reducible refine kept_foldl (fun s x hs => ?_) ?_
    | (fail_if_no_progress with_reducible refine Kept.mk' ?_  (h_ing := .inr ⟨i8, .inr i9, sm⟩) (h_nv := .inr ⟨i60, sm, sm, sm, sm, sm, sm, .inr i67⟩))
    | split
    | dsimp +zetaDelta only

theorem kept_police {μ : Nat} (hw : 768 &&& μ = 768) {s0 : State} {n : Nat} {s : State}  (kh : Kept μ s0 s) :
    KeptF μ s0 (police n s) := by
  have k_modStrm : 768 &&& μ = 768 := sub_of hw rfl
  have i8 : μ.testBit 8 = true := bit_of hw rfl
  have i9 : μ.testBit 9 = true := bit_of hw rfl
  unfold police
  repeat' first
    | with_reducible assumption
    | (intro s; with_reducible refine (fun (hs : Kept μ s0 s) => ?_) ?_)
    | intro x
    | lift_lets
    | with_reducible refine kept_modStrm k_modStrm ?_
    | (fail_if_no_progress with_reducible refine Kept.mk' ?_  (h_ing := .inr ⟨i8, .inr i9, sm⟩))
    | split
    | with_reducible refine KeptF.mk' ?_
    | dsimp +zetaDelta only

theorem kept_claimCheck {μ : Nat} (hw : 906843091668629048000512 &&& μ = 906843091668629048000512) {s0 : State} {n : Nat} {claim : Word} {s : State}  (kh : Kept μ s0 s) :
    KeptF μ s0 (claimCheck n claim s) := by
  have k_ingFlag : 13194139533312 &&& μ = 13194139533312 := sub_of hw rfl
  have k_raise : 906694364785738671718400 &&& μ = 906694364785738671718400 := sub_of hw rfl
  have i42 : μ.testBit 42 = true := bit_of hw rfl
  have i43 : μ.testBit 43 = true := bit_of hw rfl
  have i46 : μ.testBit 46 = true := bit_of hw rfl
  have i60 : μ.testBit 60 = true := bit_of hw rfl
  have i67 : μ.testBit 67 = true := bit_of hw rfl
  have i78 : μ.testBit 78 = true := bit_of hw rfl
  have i79 : μ.testBit 79 = true := bit_of hw rfl
  unfold claimCheck
  repeat' first
    | with_reducible assumption
    | (intro s; with_reducible refine (fun (hs : Kept μ s0 s) => ?_) ?_)
    | intro x
    | lift_lets
    | with_reducible refine kept_raise k_raise ?_
    | with_reducible refine kept_ingFlag k_ingFlag ?_
    | (fail_if_no_progress with_reducible refine Kept.mk' ?_  (h_hp := .inr ⟨i42, .inr i43, sm, sm, .inr i46, sm, sm, sm, sm, sm, sm, sm⟩) (h_nv := .inr ⟨i60, sm, sm, sm, sm, sm, sm, .inr i67⟩) (h_evLog := .inr i78) (h_evLogSeq := .inr i79))
    | split
    | with_reducible refine KeptF.mk' ?_
    | dsimp +zetaDelta only

theorem kept_bit10Seen {μ : Nat} (hw : 982252233059233087619888 &&& μ = 982252233059233087619888) {s0 : State} {n : Nat} {ms : List (Nat × Bool)} {s : State}  (kh : Kept μ s0 s) :
    Kept μ s0 (bit10Seen n ms s) := by
  have k_modStrm : 768 &&& μ = 768 := sub_of hw rfl
  have k_raise : 906694364785738671718400 &&& μ = 906694364785738671718400 := sub_of hw rfl
  have k_sendSrcCmd : 982252233059233087619888 &&& μ = 982252233059233087619888 := sub_of hw rfl
  have i4 : μ.testBit 4 = true := bit_of hw rfl
  have i5 : μ.testBit 5 = true := bit_of hw rfl
  have i8 : μ.testBit 8 = true := bit_of hw rfl
  have i9 : μ.testBit 9 = true := bit_of hw rfl
  have i42 : μ.testBit 42 = true := bit_of hw rfl
  have i43 : μ.testBit 43 = true := bit_of hw rfl
  have i45 : μ.testBit 45 = true := bit_of hw rfl
  have i46 : μ.testBit 46 = true := bit_of hw rfl
  have i52 : μ.testBit 52 = true := bit_of hw rfl
  have i76 : μ.testBit 76 = true := bit_of hw rfl
  have i78 : μ.testBit 78 = true := bit_of hw rfl
  have i79 : μ.testBit 79 = true := bit_of hw rfl
  unfold bit10Seen
  repeat' first
    | with_reducible assumption
    | (intro s; with_reducible refine (fun (hs : Kept μ s0 s) => ?_) ?_)
    | intro x
    | lift_lets
    | with_reducible refine kept_raise k_raise ?_
    | with_reducible refine kept_modStrm k_modStrm ?_
    | with_reducible refine kept_sendSrcCmd k_sendSrcCmd ?_
    | with_reducible refine kept_foldl (fun s x hs => ?_) ?_
    | (fail_if_no_progress with_reducible refine Kept.mk' ?_  (h_eth := .inr ⟨i4, .inr i5, sm, sm⟩) (h_ing := .inr ⟨i8, .inr i9, sm⟩) (h_hp := .inr ⟨i42, .inr i43, sm, .inr i45, .inr i46, sm, sm, sm, sm, sm, .inr i52, sm⟩) (h_cnt := .inr i76) (h_evLog := .inr i78) (h_evLogSeq := .inr i79))
    | split
    | dsimp +zetaDelta only

theorem kept_dataFrame {μ : Nat} (hw : 982400959933327370880817 &&& μ = 982400959933327370880817) {s0 : State} {n : Nat} {f : Frame} {bs : List Byte} {s : State}  (kh : Kept μ s0 s) :
    Kept μ s0 (dataFrame n f bs s) := by
  have k_bit10Seen : 982252233059233087619888 &&& μ = 982252233059233087619888 := sub_of hw rfl
  have k_claimCheck : 906843091668629048000512 &&& μ = 906843091668629048000512 := sub_of hw rfl
  have k_count : 982252228520449088159744 &&& μ = 982252228520449088159744 := sub_of hw rfl
  have k_learnLatency : 148726874094283260672 &&& μ = 148726874094283260672 := sub_of hw rfl
  have k_police : 768 &&& μ = 768 := sub_of hw rfl
  have k_pruneRecs : 1280 &&& μ = 1280 := sub_of hw rfl
  have k_scheduleRec : 1280 &&& μ = 1280 := sub_of hw rfl
  have k_sdtNote : 1 &&& μ = 1 := sub_of hw rfl
  have k_strmCount : 982252228520449088159744 &&& μ = 982252228520449088159744 := sub_of hw rfl
  have i0 : μ.testBit 0 = true := bit_of hw rfl
  have i4 : μ.testBit 4 = true := bit_of hw rfl
  have i5 : μ.testBit 5 = true := bit_of hw rfl
  have i8 : μ.testBit 8 = true := bit_of hw rfl
  have i9 : μ.testBit 9 = true := bit_of hw rfl
  have i10 : μ.testBit 10 = true := bit_of hw rfl
  have i42 : μ.testBit 42 = true := bit_of hw rfl
  have i43 : μ.testBit 43 = true := bit_of hw rfl
  have i45 : μ.testBit 45 = true := bit_of hw rfl
  have i46 : μ.testBit 46 = true := bit_of hw rfl
  have i52 : μ.testBit 52 = true := bit_of hw rfl
  have i60 : μ.testBit 60 = true := bit_of hw rfl
  have i67 : μ.testBit 67 = true := bit_of hw rfl
  have i76 : μ.testBit 76 = true := bit_of hw rfl
  have i78 : μ.testBit 78 = true := bit_of hw rfl
  have i79 : μ.testBit 79 = true := bit_of hw rfl
  unfold dataFrame
  repeat' first
    | with_reducible assumption
    | (intro s; with_reducible refine (fun (hs : Kept μ s0 s) => ?_) ?_)
    | intro x
    | lift_lets
    | with_reducible refine kept_count k_count ?_
    | with_reducible refine kept_strmCount k_strmCount ?_
    | with_reducible refine kept_pruneRecs k_pruneRecs ?_
    | with_reducible refine kept_scheduleRec k_scheduleRec ?_
    | with_reducible refine kept_sdtNote k_sdtNote ?_
    | with_reducible refine kept_learnLatency k_learnLatency ?_
    | with_reducible refine kept_police k_police ?_
    | with_reducible refine kept_claimCheck k_claimCheck ?_
    | with_reducible refine kept_bit10Seen k_bit10Seen ?_
    | with_reducible refine kept_foldl (fun s x hs => ?_) ?_
    | with_reducible refine KeptF.eq (by with_reducible assumption) ?_
    | (fail_if_no_progress with_reducible refine Kept.mk' ?_  (h_tb := .inr ⟨i0, sm, sm, sm⟩) (h_eth := .inr ⟨i4, .inr i5, sm, sm⟩) (h_ing := .inr ⟨i8, .inr i9, .inr i10⟩) (h_hp := .inr ⟨i42, .inr i43, sm, .inr i45, .inr i46, sm, sm, sm, sm, sm, .inr i52, sm⟩) (h_nv := .inr ⟨i60, sm, sm, sm, sm, sm, sm, .inr i67⟩) (h_cnt := .inr i76) (h_evLog := .inr i78) (h_evLogSeq := .inr i79))
    | split
    | with_reducible refine KeptF.mk' ?_
    | with_reducible refine KeptF.fst ?_
    | dsimp +zetaDelta only

theorem kept_execDataFrameRx {μ : Nat} (hw : 982400959933327370880881 &&& μ = 982400959933327370880881) {s0 : State} {s : State}  (kh : Kept μ s0 s) :
    KeptOut μ s0 (execDataFrameRx s) := by
  have k_act : 0 &&& μ = 0 := sub_of hw rfl
  have k_dataFrame : 982400959933327370880817 &&& μ = 982400959933327370880817 := sub_of hw rfl
  have k_takeHanded : 113 &&& μ = 113 := sub_of hw rfl
  have i0 : μ.testBit 0 = true := bit_of hw rfl
  have i4 : μ.testBit 4 = true := bit_of hw rfl
  have i5 : μ.testBit 5 = true := bit_of hw rfl
  have i6 : μ.testBit 6 = true := bit_of hw rfl
  have i8 : μ.testBit 8 = true := bit_of hw rfl
  have i9 : μ.testBit 9 = true := bit_of hw rfl
  have i10 : μ.testBit 10 = true := bit_of hw rfl
  have i42 : μ.testBit 42 = true := bit_of hw rfl
  have i43 : μ.testBit 43 = true := bit_of hw rfl
  have i45 : μ.testBit 45 = true := bit_of hw rfl
  have i46 : μ.testBit 46 = true := bit_of hw rfl
  have i52 : μ.testBit 52 = true := bit_of hw rfl
  have i60 : μ.testBit 60 = true := bit_of hw rfl
  have i67 : μ.testBit 67 = true := bit_of hw rfl
  have i76 : μ.testBit 76 = true := bit_of hw rfl
  have i78 : μ.testBit 78 = true := bit_of hw rfl
  have i79 : μ.testBit 79 = true := bit_of hw rfl
  unfold execDataFrameRx
  repeat' first
    | with_reducible assumption
    | (intro s; with_reducible refine (fun (hs : Kept μ s0 s) => ?_) ?_)
    | intro x
    | lift_lets
    | with_reducible refine kept_act k_act (fun s hs => ?_) ?_
    | with_reducible refine kept_takeHanded k_takeHanded ?_
    | with_reducible refine kept_dataFrame k_dataFrame ?_
    | with_reducible refine KeptOS.eq (by with_reducible assumption) ?_
    | (fail_if_no_progress with_reducible refine Kept.mk' ?_  (h_tb := .inr ⟨i0, sm, sm, sm⟩) (h_eth := .inr ⟨i4, .inr i5, .inr i6, sm⟩) (h_ing := .inr ⟨i8, .inr i9, .inr i10⟩) (h_hp := .inr ⟨i42, .inr i43, sm, .inr i45, .inr i46, sm, sm, sm, sm, sm, .inr i52, sm⟩) (h_nv := .inr ⟨i60, sm, sm, sm, sm, sm, sm, .inr i67⟩) (h_cnt := .inr i76) (h_evLog := .inr i78) (h_evLogSeq := .inr i79))
    | split
    | with_reducible refine KeptOut.mk' ?_
    | dsimp +zetaDelta only

theorem kept_ctlAdmit {μ : Nat} (hw : 982252228520449088160512 &&& μ = 982252228520449088160512) {s0 : State} {n : Nat} {bs : List Byte} {s : State}  (kh : Kept μ s0 s) :
    KeptF μ s0 (ctlAdmit n bs s) := by
  have k_modStrm : 768 &&& μ = 768 := sub_of hw rfl
  have k_strmCount : 982252228520449088159744 &&& μ = 982252228520449088159744 := sub_of hw rfl
  have i8 : μ.testBit 8 = true := bit_of hw rfl
  have i9 : μ.testBit 9 = true := bit_of hw rfl
  have i42 : μ.testBit 42 = true := bit_of hw rfl
  have i43 : μ.testBit 43 = true := bit_of hw rfl
  have i46 : μ.testBit 46 = true := bit_of hw rfl
  have i76 : μ.testBit 76 = true := bit_of hw rfl
  have i78 : μ.testBit 78 = true := bit_of hw rfl
  have i79 : μ.testBit 79 = true := bit_of hw rfl
  unfold ctlAdmit
  repeat' first
    | with_reducible assumption
    | (intro s; with_reducible refine (fun (hs : Kept μ s0 s) => ?_) ?_)
    | intro x
    | lift_lets
    | with_reducible refine kept_modStrm k_modStrm ?_
    | with_reducible refine kept_strmCount k_strmCount ?_
    | (fail_if_no_progress with_reducible refine Kept.mk' ?_  (h_ing := .inr ⟨i8, .inr i9, sm⟩) (h_hp := .inr ⟨i42, .inr i43, sm, sm, .inr i46, sm, sm, sm, sm, sm, sm, sm⟩) (h_cnt := .inr i76) (h_evLog := .inr i78) (h_evLogSeq := .inr i79))
    | split
    | with_reducible refine KeptF.mk' ?_
    | dsimp +zetaDelta only

theorem kept_noteCfgCnt {μ : Nat} (hw : 768 &&& μ = 768) {s0 : State} {n : Nat} {c : CfgFrame} {s : State}  (kh : Kept μ s0 s) :
    Kept μ s0 (noteCfgCnt n c s) := by
  have k_modStrm : 768 &&& μ = 768 := sub_of hw rfl
  have i8 : μ.testBit 8 = true := bit_of hw rfl
  have i9 : μ.testBit 9 = true := bit_of hw rfl
  unfold noteCfgCnt
  repeat' first
    | with_reducible assumption
    | (intro s; with_reducible refine (fun (hs : Kept μ s0 s) => ?_) ?_)
    | intro x
    | lift_lets
    | with_reducible refine kept_modStrm k_modStrm ?_
    | with_reducible refine kept_foldl (fun s x hs => ?_) ?_
    | (fail_if_no_progress with_reducible refine Kept.mk' ?_  (h_ing := .inr ⟨i8, .inr i9, sm⟩))
    | split
    | dsimp +zetaDelta only

theorem kept_cfgFrame {μ : Nat} (hw : 982252233059233087619888 &&& μ = 982252233059233087619888) {s0 : State} {n : Nat} {c : CfgFrame} {s : State} {k : Nat}  (kh : Kept μ s0 s) :
    Kept μ s0 (cfgFrame n c s k) := by
  have k_modStrm : 768 &&& μ = 768 := sub_of hw rfl
  have k_noteCfgCnt : 768 &&& μ = 768 := sub_of hw rfl
  have k_raise : 906694364785738671718400 &&& μ = 906694364785738671718400 := sub_of hw rfl
  have k_sendSrcCmd : 982252233059233087619888 &&& μ = 982252233059233087619888 := sub_of hw rfl
  have k_setStrmState : 13194139534080 &&& μ = 13194139534080 := sub_of hw rfl
  have i4 : μ.testBit 4 = true := bit_of hw rfl
  have i5 : μ.testBit 5 = true := bit_of hw rfl
  have i8 : μ.testBit 8 = true := bit_of hw rfl
  have i9 : μ.testBit 9 = true := bit_of hw rfl
  have i42 : μ.testBit 42 = true := bit_of hw rfl
  have i43 : μ.testBit 43 = true := bit_of hw rfl
  have i45 : μ.testBit 45 = true := bit_of hw rfl
  have i46 : μ.testBit 46 = true := bit_of hw rfl
  have i52 : μ.testBit 52 = true := bit_of hw rfl
  have i76 : μ.testBit 76 = true := bit_of hw rfl
  have i78 : μ.testBit 78 = true := bit_of hw rfl
  have i79 : μ.testBit 79 = true := bit_of hw rfl
  unfold cfgFrame
  repeat' first
    | with_reducible assumption
    | (intro s; with_reducible refine (fun (hs : Kept μ s0 s) => ?_) ?_)
    | intro x
    | lift_lets
    | with_reducible refine kept_raise k_raise ?_
    | with_reducible refine kept_modStrm k_modStrm ?_
    | with_reducible refine kept_setStrmState k_setStrmState ?_
    | with_reducible refine kept_sendSrcCmd k_sendSrcCmd ?_
    | with_reducible refine kept_noteCfgCnt k_noteCfgCnt ?_
    | with_reducible refine kept_foldl (fun s x hs => ?_) ?_
    | (fail_if_no_progress with_reducible refine Kept.mk' ?_  (h_eth := .inr ⟨i4, .inr i5, sm, sm⟩) (h_ing := .inr ⟨i8, .inr i9, sm⟩) (h_hp := .inr ⟨i42, .inr i43, sm, .inr i45, .inr i46, sm, sm, sm, sm, sm, .inr i52, sm⟩) (h_cnt := .inr i76) (h_evLog := .inr i78) (h_evLogSeq := .inr i79))
    | split
    | dsimp +zetaDelta only

theorem kept_execCfgFrameRx {μ : Nat} (hw : 982252233059233087619953 &&& μ = 982252233059233087619953) {s0 : State} {s : State}  (kh : Kept μ s0 s) :
    KeptOut μ s0 (execCfgFrameRx s) := by
  have k_act : 0 &&& μ = 0 := sub_of hw rfl
  have k_cfgFrame : 982252233059233087619888 &&& μ = 982252233059233087619888 := sub_of hw rfl
  have k_ctlAdmit : 982252228520449088160512 &&& μ = 982252228520449088160512 := sub_of hw rfl
  have k_takeHanded : 113 &&& μ = 113 := sub_of hw rfl
  have i0 : μ.testBit 0 = true := bit_of hw rfl
  have i4 : μ.testBit 4 = true := bit_of hw rfl
  have i5 : μ.testBit 5 = true := bit_of hw rfl
  have i6 : μ.testBit 6 = true := bit_of hw rfl
  have i8 : μ.testBit 8 = true := bit_of hw rfl
  have i9 : μ.testBit 9 = true := bit_of hw rfl
  have i42 : μ.testBit 42 = true := bit_of hw rfl
  have i43 : μ.testBit 43 = true := bit_of hw rfl
  have i45 : μ.testBit 45 = true := bit_of hw rfl
  have i46 : μ.testBit 46 = true := bit_of hw rfl
  have i52 : μ.testBit 52 = true := bit_of hw rfl
  have i76 : μ.testBit 76 = true := bit_of hw rfl
  have i78 : μ.testBit 78 = true := bit_of hw rfl
  have i79 : μ.testBit 79 = true := bit_of hw rfl
  unfold execCfgFrameRx
  repeat' first
    | with_reducible assumption
    | (intro s; with_reducible refine (fun (hs : Kept μ s0 s) => ?_) ?_)
    | intro x
    | lift_lets
    | with_reducible refine kept_act k_act (fun s hs => ?_) ?_
    | with_reducible refine kept_takeHanded k_takeHanded ?_
    | with_reducible refine kept_ctlAdmit k_ctlAdmit ?_
    | with_reducible refine kept_cfgFrame k_cfgFrame ?_
    | with_reducible refine KeptF.eq (by with_reducible assumption) ?_
    | with_reducible refine KeptOS.eq (by with_reducible assumption) ?_
    | (fail_if_no_progress with_reducible refine Kept.mk' ?_  (h_tb := .inr ⟨i0, sm, sm, sm⟩) (h_eth := .inr ⟨i4, .inr i5, .inr i6, sm⟩) (h_ing := .inr ⟨i8, .inr i9, sm⟩) (h_hp := .inr ⟨i42, .inr i43, sm, .inr i45, .inr i46, sm, sm, sm, sm, sm, .inr i52, sm⟩) (h_cnt := .inr i76) (h_evLog := .inr i78) (h_evLogSeq := .inr i79))
    | split
    | with_reducible refine KeptOut.mk' ?_
    | with_reducible refine KeptF.mk' ?_
    | with_reducible refine KeptF.fst ?_
    | dsimp +zetaDelta only

theorem kept_execHeaderFrameRx {μ : Nat} (hw : 982252228520449088160625 &&& μ = 982252228520449088160625) {s0 : State} {s : State}  (kh : Kept μ s0 s) :
    KeptOut μ s0 (execHeaderFrameRx s) := by
  have k_act : 0 &&& μ = 0 := sub_of hw rfl
  have k_ctlAdmit : 982252228520449088160512 &&& μ = 982252228520449088160512 := sub_of hw rfl
  have k_modStrm : 768 &&& μ = 768 := sub_of hw rfl
  have k_noteCfgCnt : 768 &&& μ = 768 := sub_of hw rfl
  have k_takeHanded : 113 &&& μ = 113 := sub_of hw rfl
  have i0 : μ.testBit 0 = true := bit_of hw rfl
  have i4 : μ.testBit 4 = true := bit_of hw rfl
  have i5 : μ.testBit 5 = true := bit_of hw rfl
  have i6 : μ.testBit 6 = true := bit_of hw rfl
  have i8 : μ.testBit 8 = true := bit_of hw rfl
  have i9 : μ.testBit 9 = true := bit_of hw rfl
  have i42 : μ.testBit 42 = true := bit_of hw rfl
  have i43 : μ.testBit 43 = true := bit_of hw rfl
  have i46 : μ.testBit 46 = true := bit_of hw rfl
  have i76 : μ.testBit 76 = true := bit_of hw rfl
  have i78 : μ.testBit 78 = true := bit_of hw rfl
  have i79 : μ.testBit 79 = true := bit_of hw rfl
  unfold execHeaderFrameRx
  repeat' first
    | with_reducible assumption
    | (intro s; with_reducible refine (fun (hs : Kept μ s0 s) => ?_) ?_)
    | intro x
    | lift_lets
    | with_reducible refine kept_act k_act (fun s hs => ?_) ?_
    | with_reducible refine kept_takeHanded k_takeHanded ?_
    | with_reducible refine kept_modStrm k_modStrm ?_
    | with_reducible refine kept_ctlAdmit k_ctlAdmit ?_
    | with_reducible refine kept_noteCfgCnt k_noteCfgCnt ?_
    | with_reducible refine KeptF.eq (by with_reducible assumption) ?_
    | with_reducible refine KeptOS.eq (by with_reducible assumption) ?_
    | (fail_if_no_progress with_reducible refine Kept.mk' ?_  (h_tb := .inr ⟨i0, sm, sm, sm⟩) (h_eth := .inr ⟨i4, .inr i5, .inr i6, sm⟩) (h_ing := .inr ⟨i8, .inr i9, sm⟩) (h_hp := .inr ⟨i42, .inr i43, sm, sm, .inr i46, sm, sm, sm, sm, sm, sm, sm⟩) (h_cnt := .inr i76) (h_evLog := .inr i78) (h_evLogSeq := .inr i79))
    | split
    | with_reducible refine KeptOut.mk' ?_
    | with_reducible refine KeptF.mk' ?_
    | with_reducible refine KeptF.fst ?_
    | dsimp +zetaDelta only

theorem kept_execCfgRequestRepeat {μ : Nat} (hw : 982252233059233087619889 &&& μ = 982252233059233087619889) {s0 : State} {n ns : Nat} {s : State}  (kh : Kept μ s0 s) :
    KeptOut μ s0 (execCfgRequestRepeat n ns s) := by
  have k_act : 0 &&& μ = 0 := sub_of hw rfl
  have k_seen : 1 &&& μ = 1 := sub_of hw rfl
  have k_sendSrcCmd : 982252233059233087619888 &&& μ = 982252233059233087619888 := sub_of hw rfl
  unfold execCfgRequestRepeat
  repeat' first
    | with_reducible assumption
    | (intro s; with_reducible refine (fun (hs : Kept μ s0 s) => ?_) ?_)
    | intro x
    | lift_lets
    | with_reducible refine kept_act k_act (fun s hs => ?_) ?_
    | with_reducible refine kept_seen k_seen ?_
    | with_reducible refine kept_sendSrcCmd k_sendSrcCmd ?_
    | split
    | with_reducible refine KeptOut.mk' ?_
    | dsimp +zetaDelta only

theorem kept_setTcp {μ : Nat} (hw : 13194139534080 &&& μ = 13194139534080) {s0 : State} {n st k : Nat} {c : SrcConn} {s : State}  (kh : Kept μ s0 s) :
    Kept μ s0 (setTcp n st k c s) := by
  have k_modStrm : 768 &&& μ = 768 := sub_of hw rfl
  have k_setStrmState : 13194139534080 &&& μ = 13194139534080 := sub_of hw rfl
  have i8 : μ.testBit 8 = true := bit_of hw rfl
  have i9 : μ.testBit 9 = true := bit_of hw rfl
  have i42 : μ.testBit 42 = true := bit_of hw rfl
  have i43 : μ.testBit 43 = true := bit_of hw rfl
  unfold setTcp
  repeat' first
    | with_reducible assumption
    | (intro s; with_reducible refine (fun (hs : Kept μ s0 s) => ?_) ?_)
    | intro x
    | lift_lets
    | with_reducible refine kept_modStrm k_modStrm ?_
    | with_reducible refine kept_setStrmState k_setStrmState ?_
    | with_reducible refine kept_foldl (fun s x hs => ?_) ?_
    | (fail_if_no_progress with_reducible refine Kept.mk' ?_  (h_ing := .inr ⟨i8, .inr i9, sm⟩) (h_hp := .inr ⟨i42, .inr i43, sm, sm, sm, sm, sm, sm, sm, sm, sm, sm⟩))
    | split
    | dsimp +zetaDelta only

theorem kept_execTcpConnect {μ : Nat} (hw : 982252233059233087619888 &&& μ = 982252233059233087619888) {s0 : State} {n : Nat} {s : State} {k : Nat} {port : Option Nat}  (kh : Kept μ s0 s) :
    KeptOut μ s0 (execTcpConnect n s k port) := by
  have k_act : 0 &&& μ = 0 := sub_of hw rfl
  have k_raise : 906694364785738671718400 &&& μ = 906694364785738671718400 := sub_of hw rfl
  have k_sendSrcCmd : 982252233059233087619888 &&& μ = 982252233059233087619888 := sub_of hw rfl
  have k_setTcp : 13194139534080 &&& μ = 13194139534080 := sub_of hw rfl
  unfold execTcpConnect
  repeat' first
    | with_reducible assumption
    | (intro s; with_reducible refine (fun (hs : Kept μ s0 s) => ?_) ?_)
    | intro x
    | lift_lets
    | with_reducible refine kept_act k_act (fun s hs => ?_) ?_
    | with_reducible refine kept_raise k_raise ?_
    | with_reducible refine kept_sendSrcCmd k_sendSrcCmd ?_
    | with_reducible refine kept_setTcp k_setTcp ?_
    | split
    | with_reducible refine KeptOut.mk' ?_
    | dsimp +zetaDelta only

theorem kept_tcpDown {μ : Nat} (hw : 906694364794534764741376 &&& μ = 906694364794534764741376) {s0 : State} {n k : Nat} {s : State}  (kh : Kept μ s0 s) :
    Kept μ s0 (tcpDown n k s) := by
  have k_raise : 906694364785738671718400 &&& μ = 906694364785738671718400 := sub_of hw rfl
  have k_setTcp : 13194139534080 &&& μ = 13194139534080 := sub_of hw rfl
  unfold tcpDown
  repeat' first
    | with_reducible assumption
    | (intro s; with_reducible refine (fun (hs : Kept μ s0 s) => ?_) ?_)
    | intro x
    | lift_lets
    | with_reducible refine kept_raise k_raise ?_
    | with_reducible refine kept_setTcp k_setTcp ?_
    | split
    | dsimp +zetaDelta only

theorem kept_execTcpDisconnect {μ : Nat} (hw : 906694364794534764741376 &&& μ = 906694364794534764741376) {s0 : State} {n : Nat} {s : State} {k : Nat}  (kh : Kept μ s0 s) :
    KeptOut μ s0 (execTcpDisconnect n s k) := by
  have k_act : 0 &&& μ = 0 := sub_of hw rfl
  have k_tcpDown : 906694364794534764741376 &&& μ = 906694364794534764741376 := sub_of hw rfl
  unfold execTcpDisconnect
  repeat' first
    | with_reducible assumption
    | (intro s; with_reducible refine (fun (hs : Kept μ s0 s) => ?_) ?_)
    | intro x
    | lift_lets
    | with_reducible refine kept_act k_act (fun s hs => ?_) ?_
    | with_reducible refine kept_tcpDown k_tcpDown ?_
    | split
    | with_reducible refine KeptOut.mk' ?_
    | dsimp +zetaDelta only

theorem kept_execTcpRetry {μ : Nat} (hw : 769 &&& μ = 769) {s0 : State} {n ns : Nat} {s : State}  (kh : Kept μ s0 s) :
    KeptOut μ s0 (execTcpRetry n ns s) := by
  have k_act : 0 &&& μ = 0 := sub_of hw rfl
  have k_modStrm : 768 &&& μ = 768 := sub_of hw rfl
  have k_seen : 1 &&& μ = 1 := sub_of hw rfl
  have i0 : μ.testBit 0 = true := bit_of hw rfl
  have i8 : μ.testBit 8 = true := bit_of hw rfl
  have i9 : μ.testBit 9 = true := bit_of hw rfl
  unfold execTcpRetry
  repeat' first
    | with_reducible assumption
    | (intro s; with_reducible refine (fun (hs : Kept μ s0 s) => ?_) ?_)
    | intro x
    | lift_lets
    | with_reducible refine kept_act k_act (fun s hs => ?_) ?_
    | with_reducible refine kept_seen k_seen ?_
    | with_reducible refine kept_modStrm k_modStrm ?_
    | (fail_if_no_progress with_reducible refine Kept.mk' ?_  (h_tb := .inr ⟨i0, sm, sm, sm⟩) (h_ing := .inr ⟨i8, .inr i9, sm⟩))
    | split
    | with_reducible refine KeptOut.mk' ?_
    | dsimp +zetaDelta only

theorem kept_rsvAuth {μ : Nat} (hw : 1133367955972277734998784 &&& μ = 1133367955972277734998784) {s0 : State} {n : Nat} {m : RsvPdu} {s : State}  (kh : Kept μ s0 s) :
    KeptF μ s0 (rsvAuth n m s) := by
  have k_ingFlag : 13194139533312 &&& μ = 13194139533312 := sub_of hw rfl
  have k_macVerify : 1133367955972277734998016 &&& μ = 1133367955972277734998016 := sub_of hw rfl
  have k_modStrm : 768 &&& μ = 768 := sub_of hw rfl
  have k_raise : 906694364785738671718400 &&& μ = 906694364785738671718400 := sub_of hw rfl
  have k_raiseLimited : 1057810092237567318556672 &&& μ = 1057810092237567318556672 := sub_of hw rfl
  have i8 : μ.testBit 8 = true := bit_of hw rfl
  have i9 : μ.testBit 9 = true := bit_of hw rfl
  have i42 : μ.testBit 42 = true := bit_of hw rfl
  have i43 : μ.testBit 43 = true := bit_of hw rfl
  have i46 : μ.testBit 46 = true := bit_of hw rfl
  have i76 : μ.testBit 76 = true := bit_of hw rfl
  have i77 : μ.testBit 77 = true := bit_of hw rfl
  have i78 : μ.testBit 78 = true := bit_of hw rfl
  have i79 : μ.testBit 79 = true := bit_of hw rfl
  unfold rsvAuth
  repeat' first
    | with_reducible assumption
    | (intro s; with_reducible refine (fun (hs : Kept μ s0 s) => ?_) ?_)
    | intro x
    | lift_lets
    | with_reducible refine kept_raise k_raise ?_
    | with_reducible refine kept_raiseLimited k_raiseLimited ?_
    | with_reducible refine kept_macVerify k_macVerify ?_
    | with_reducible refine kept_modStrm k_modStrm ?_
    | with_reducible refine kept_ingFlag k_ingFlag ?_
    | with_reducible refine KeptF.eq (by with_reducible assumption) ?_
    | (fail_if_no_progress with_reducible refine Kept.mk' ?_  (h_ing := .inr ⟨i8, .inr i9, sm⟩) (h_hp := .inr ⟨i42, .inr i43, sm, sm, .inr i46, sm, sm, sm, sm, sm, sm, sm⟩) (h_cnt := .inr i76) (h_limits := .inr i77) (h_evLog := .inr i78) (h_evLogSeq := .inr i79))
    | split
    | with_reducible refine KeptF.mk' ?_
    | with_reducible refine KeptF.fst ?_
    | dsimp +zetaDelta only

theorem kept_rsvFrame {μ : Nat} (hw : 1133516682846372018259712 &&& μ = 1133516682846372018259712) {s0 : State} {n : Nat} {f : Frame} {m : RsvPdu} {s : State}  (kh : Kept μ s0 s) :
    Kept μ s0 (rsvFrame n f m s) := by
  have k_count : 982252228520449088159744 &&& μ = 982252228520449088159744 := sub_of hw rfl
  have k_learnLatency : 148726874094283260672 &&& μ = 148726874094283260672 := sub_of hw rfl
  have k_police : 768 &&& μ = 768 := sub_of hw rfl
  have k_pruneRecs : 1280 &&& μ = 1280 := sub_of hw rfl
  have k_rsvAuth : 1133367955972277734998784 &&& μ = 1133367955972277734998784 := sub_of hw rfl
  have k_scheduleRec : 1280 &&& μ = 1280 := sub_of hw rfl
  have k_strmCount : 982252228520449088159744 &&& μ = 982252228520449088159744 := sub_of hw rfl
  have i8 : μ.testBit 8 = true := bit_of hw rfl
  have i9 : μ.testBit 9 = true := bit_of hw rfl
  have i10 : μ.testBit 10 = true := bit_of hw rfl
  have i42 : μ.testBit 42 = true := bit_of hw rfl
  have i43 : μ.testBit 43 = true := bit_of hw rfl
  have i46 : μ.testBit 46 = true := bit_of hw rfl
  have i60 : μ.testBit 60 = true := bit_of hw rfl
  have i67 : μ.testBit 67 = true := bit_of hw rfl
  have i76 : μ.testBit 76 = true := bit_of hw rfl
  have i77 : μ.testBit 77 = true := bit_of hw rfl
  have i78 : μ.testBit 78 = true := bit_of hw rfl
  have i79 : μ.testBit 79 = true := bit_of hw rfl
  unfold rsvFrame
  repeat' first
    | with_reducible assumption
    | (intro s; with_reducible refine (fun (hs : Kept μ s0 s) => ?_) ?_)
    | intro x
    | lift_lets
    | with_reducible refine kept_count k_count ?_
    | with_reducible refine kept_strmCount k_strmCount ?_
    | with_reducible refine kept_pruneRecs k_pruneRecs ?_
    | with_reducible refine kept_scheduleRec k_scheduleRec ?_
    | with_reducible refine kept_learnLatency k_learnLatency ?_
    | with_reducible refine kept_police k_police ?_
    | with_reducible refine kept_rsvAuth k_rsvAuth ?_
    | with_reducible refine KeptF.eq (by with_reducible assumption) ?_
    | (fail_if_no_progress with_reducible refine Kept.mk' ?_  (h_ing := .inr ⟨i8, .inr i9, .inr i10⟩) (h_hp := .inr ⟨i42, .inr i43, sm, sm, .inr i46, sm, sm, sm, sm, sm, sm, sm⟩) (h_nv := .inr ⟨i60, sm, sm, sm, sm, sm, sm, .inr i67⟩) (h_cnt := .inr i76) (h_limits := .inr i77) (h_evLog := .inr i78) (h_evLogSeq := .inr i79))
    | split
    | with_reducible refine KeptF.mk' ?_
    | with_reducible refine KeptF.fst ?_
    | dsimp +zetaDelta only

theorem kept_execRsvSpduRx {μ : Nat} (hw : 1133516682846372018259825 &&& μ = 1133516682846372018259825) {s0 : State} {s : State}  (kh : Kept μ s0 s) :
    KeptOut μ s0 (execRsvSpduRx s) := by
  have k_act : 0 &&& μ = 0 := sub_of hw rfl
  have k_rsvFrame : 1133516682846372018259712 &&& μ = 1133516682846372018259712 := sub_of hw rfl
  have k_takeHanded : 113 &&& μ = 113 := sub_of hw rfl
  have i0 : μ.testBit 0 = true := bit_of hw rfl
  have i4 : μ.testBit 4 = true := bit_of hw rfl
  have i5 : μ.testBit 5 = true := bit_of hw rfl
  have i6 : μ.testBit 6 = true := bit_of hw rfl
  have i8 : μ.testBit 8 = true := bit_of hw rfl
  have i9 : μ.testBit 9 = true := bit_of hw rfl
  have i10 : μ.testBit 10 = true := bit_of hw rfl
  have i42 : μ.testBit 42 = true := bit_of hw rfl
  have i43 : μ.testBit 43 = true := bit_of hw rfl
  have i46 : μ.testBit 46 = true := bit_of hw rfl
  have i60 : μ.testBit 60 = true := bit_of hw rfl
  have i67 : μ.testBit 67 = true := bit_of hw rfl
  have i76 : μ.testBit 76 = true := bit_of hw rfl
  have i77 : μ.testBit 77 = true := bit_of hw rfl
  have i78 : μ.testBit 78 = true := bit_of hw rfl
  have i79 : μ.testBit 79 = true := bit_of hw rfl
  unfold execRsvSpduRx
  repeat' first
    | with_reducible assumption
    | (intro s; with_reducible refine (fun (hs : Kept μ s0 s) => ?_) ?_)
    | intro x
    | lift_lets
    | with_reducible refine kept_act k_act (fun s hs => ?_) ?_
    | with_reducible refine kept_takeHanded k_takeHanded ?_
    | with_reducible refine kept_rsvFrame k_rsvFrame ?_
    | with_reducible refine KeptOS.eq (by with_reducible assumption) ?_
    | (fail_if_no_progress with_reducible refine Kept.mk' ?_  (h_tb := .inr ⟨i0, sm, sm, sm⟩) (h_eth := .inr ⟨i4, .inr i5, .inr i6, sm⟩) (h_ing := .inr ⟨i8, .inr i9, .inr i10⟩) (h_hp := .inr ⟨i42, .inr i43, sm, sm, .inr i46, sm, sm, sm, sm, sm, sm, sm⟩) (h_nv := .inr ⟨i60, sm, sm, sm, sm, sm, sm, .inr i67⟩) (h_cnt := .inr i76) (h_limits := .inr i77) (h_evLog := .inr i78) (h_evLogSeq := .inr i79))
    | split
    | with_reducible refine KeptOut.mk' ?_
    | dsimp +zetaDelta only

theorem kept_markBad {μ : Nat} (hw : 982252228520449088161024 &&& μ = 982252228520449088161024) {s0 : State} {n inst : Nat} {s : State}  (kh : Kept μ s0 s) :
    Kept μ s0 (markBad n inst s) := by
  have k_count : 982252228520449088159744 &&& μ = 982252228520449088159744 := sub_of hw rfl
  have k_ingFlag : 13194139533312 &&& μ = 13194139533312 := sub_of hw rfl
  have k_raise : 906694364785738671718400 &&& μ = 906694364785738671718400 := sub_of hw rfl
  have k_strmCount : 982252228520449088159744 &&& μ = 982252228520449088159744 := sub_of hw rfl
  have i8 : μ.testBit 8 = true := bit_of hw rfl
  have i10 : μ.testBit 10 = true := bit_of hw rfl
  have i42 : μ.testBit 42 = true := bit_of hw rfl
  have i43 : μ.testBit 43 = true := bit_of hw rfl
  have i46 : μ.testBit 46 = true := bit_of hw rfl
  have i76 : μ.testBit 76 = true := bit_of hw rfl
  have i78 : μ.testBit 78 = true := bit_of hw rfl
  have i79 : μ.testBit 79 = true := bit_of hw rfl
  unfold markBad
  repeat' first
    | with_reducible assumption
    | (intro s; with_reducible refine (fun (hs : Kept μ s0 s) => ?_) ?_)
    | intro x
    | lift_lets
    | with_reducible refine kept_raise k_raise ?_
    | with_reducible refine kept_count k_count ?_
    | with_reducible refine kept_strmCount k_strmCount ?_
    | with_reducible refine kept_ingFlag k_ingFlag ?_
    | (fail_if_no_progress with_reducible refine Kept.mk' ?_  (h_ing := .inr ⟨i8, sm, .inr i10⟩) (h_hp := .inr ⟨i42, .inr i43, sm, sm, .inr i46, sm, sm, sm, sm, sm, sm, sm⟩) (h_cnt := .inr i76) (h_evLog := .inr i78) (h_evLogSeq := .inr i79))
    | split
    | dsimp +zetaDelta only

end Sys2Proof.Machine
end

