-- ==== Sys2Proof/Laws/KeptWaveform.lean ====
section
/-!
SUPPORT. Sys2Proof/Laws/KeptWaveform.lean: every operation of Waveform.lean keeps what no command changes, and the parts that it does not write (Kept.lean).
-/
set_option Elab.async false
set_option linter.unusedTactic false
set_option linter.unreachableTactic false
set_option linter.unusedVariables false
namespace Sys2Proof.Machine

theorem kept_modSub {μ : Nat} (hw : 32768 &&& μ = 32768) {s0 : State} {n : Nat} {f : SvSub → SvSub} {s : State}  (kh : Kept μ s0 s) :
    Kept μ s0 (modSub n f s) := by
  have i15 : μ.testBit 15 = true := bit_of hw rfl
  unfold modSub
  repeat' first
    | with_reducible assumption
    | (intro s; with_reducible refine (fun (hs : Kept μ s0 s) => ?_) ?_)
    | intro x
    | lift_lets
    | (fail_if_no_progress with_reducible refine Kept.mk' ?_  (h_svf := .inr i15))
    | split
    | dsimp +zetaDelta only

theorem kept_modSlot {μ : Nat} (hw : 32768 &&& μ = 32768) {s0 : State} {j : Nat} {f : SvSlot → SvSlot} {s : State}  (kh : Kept μ s0 s) :
    Kept μ s0 (modSlot j f s) := by
  have i15 : μ.testBit 15 = true := bit_of hw rfl
  unfold modSlot
  repeat' first
    | with_reducible assumption
    | (intro s; with_reducible refine (fun (hs : Kept μ s0 s) => ?_) ?_)
    | intro x
    | lift_lets
    | (fail_if_no_progress with_reducible refine Kept.mk' ?_  (h_svf := .inr i15))
    | split
    | dsimp +zetaDelta only

theorem kept_svCountN {μ : Nat} (hw : 982252228520449088159744 &&& μ = 982252228520449088159744) {s0 : State} {n c k : Nat} {s : State}  (kh : Kept μ s0 s) :
    Kept μ s0 (svCountN n c k s) := by
  have k_countN : 982252228520449088159744 &&& μ = 982252228520449088159744 := sub_of hw rfl
  unfold svCountN
  repeat' first
    | with_reducible assumption
    | (intro s; with_reducible refine (fun (hs : Kept μ s0 s) => ?_) ?_)
    | intro x
    | lift_lets
    | with_reducible refine kept_countN k_countN ?_
    | split
    | dsimp +zetaDelta only

theorem kept_svCount {μ : Nat} (hw : 982252228520449088159744 &&& μ = 982252228520449088159744) {s0 : State} {n c : Nat} {s : State}  (kh : Kept μ s0 s) :
    Kept μ s0 (svCount n c s) := by
  have k_svCountN : 982252228520449088159744 &&& μ = 982252228520449088159744 := sub_of hw rfl
  unfold svCount
  repeat' first
    | with_reducible assumption
    | (intro s; with_reducible refine (fun (hs : Kept μ s0 s) => ?_) ?_)
    | intro x
    | lift_lets
    | with_reducible refine kept_svCountN k_svCountN ?_
    | split
    | dsimp +zetaDelta only

theorem kept_svFlag {μ : Nat} (hw : 13194139533312 &&& μ = 13194139533312) {s0 : State} {b : Nat} {s : State}  (kh : Kept μ s0 s) :
    Kept μ s0 (svFlag b s) := by
  have k_setFlag : 13194139533312 &&& μ = 13194139533312 := sub_of hw rfl
  unfold svFlag
  repeat' first
    | with_reducible assumption
    | (intro s; with_reducible refine (fun (hs : Kept μ s0 s) => ?_) ?_)
    | intro x
    | lift_lets
    | with_reducible refine kept_setFlag k_setFlag ?_
    | split
    | dsimp +zetaDelta only

theorem kept_svPolicerTick {μ : Nat} (hw : 32768 &&& μ = 32768) {s0 : State} {s : State}  (kh : Kept μ s0 s) :
    Kept μ s0 (svPolicerTick s) := by
  have i15 : μ.testBit 15 = true := bit_of hw rfl
  unfold svPolicerTick
  repeat' first
    | with_reducible assumption
    | (intro s; with_reducible refine (fun (hs : Kept μ s0 s) => ?_) ?_)
    | intro x
    | lift_lets
    | (fail_if_no_progress with_reducible refine Kept.mk' ?_  (h_svf := .inr i15))
    | split
    | dsimp +zetaDelta only

theorem kept_svPolice {μ : Nat} (hw : 32768 &&& μ = 32768) {s0 : State} {n : Nat} {s : State}  (kh : Kept μ s0 s) :
    KeptF μ s0 (svPolice n s) := by
  have k_modSub : 32768 &&& μ = 32768 := sub_of hw rfl
  have i15 : μ.testBit 15 = true := bit_of hw rfl
  unfold svPolice
  repeat' first
    | with_reducible assumption
    | (intro s; with_reducible refine (fun (hs : Kept μ s0 s) => ?_) ?_)
    | intro x
    | lift_lets
    | with_reducible refine kept_modSub k_modSub ?_
    | (fail_if_no_progress with_reducible refine Kept.mk' ?_  (h_svf := .inr i15))
    | split
    | with_reducible refine KeptF.mk' ?_
    | dsimp +zetaDelta only

theorem kept_subStart {μ : Nat} (hw : 32768 &&& μ = 32768) {s0 : State} {n : Nat} {s : State}  (kh : Kept μ s0 s) :
    Kept μ s0 (subStart n s) := by
  have k_modSlot : 32768 &&& μ = 32768 := sub_of hw rfl
  have k_modSub : 32768 &&& μ = 32768 := sub_of hw rfl
  unfold subStart
  repeat' first
    | with_reducible assumption
    | (intro s; with_reducible refine (fun (hs : Kept μ s0 s) => ?_) ?_)
    | intro x
    | lift_lets
    | with_reducible refine kept_modSub k_modSub ?_
    | with_reducible refine kept_modSlot k_modSlot ?_
    | with_reducible refine kept_foldl (fun s x hs => ?_) ?_
    | split
    | dsimp +zetaDelta only

theorem kept_freezeStart {μ : Nat} (hw : 1133367955972277734998016 &&& μ = 1133367955972277734998016) {s0 : State} {j : Nat} {s : State}  (kh : Kept μ s0 s) :
    Kept μ s0 (freezeStart j s) := by
  have k_flagCount : 982252228520449088159744 &&& μ = 982252228520449088159744 := sub_of hw rfl
  have k_raiseLimited : 1057810092237567318556672 &&& μ = 1057810092237567318556672 := sub_of hw rfl
  unfold freezeStart
  repeat' first
    | with_reducible assumption
    | (intro s; with_reducible refine (fun (hs : Kept μ s0 s) => ?_) ?_)
    | intro x
    | lift_lets
    | with_reducible refine kept_raiseLimited k_raiseLimited ?_
    | with_reducible refine kept_flagCount k_flagCount ?_
    | split
    | dsimp +zetaDelta only

theorem kept_dcStage {μ : Nat} (hw : 1133367955972277735030784 &&& μ = 1133367955972277735030784) {s0 : State} {sat : Bool} {j : Nat} {c : SvY} {s : State}  (kh : Kept μ s0 s) :
    Kept μ s0 (dcStage sat j c s) := by
  have k_freezeStart : 1133367955972277734998016 &&& μ = 1133367955972277734998016 := sub_of hw rfl
  have k_modSlot : 32768 &&& μ = 32768 := sub_of hw rfl
  have i15 : μ.testBit 15 = true := bit_of hw rfl
  have i42 : μ.testBit 42 = true := bit_of hw rfl
  have i43 : μ.testBit 43 = true := bit_of hw rfl
  have i46 : μ.testBit 46 = true := bit_of hw rfl
  have i76 : μ.testBit 76 = true := bit_of hw rfl
  have i77 : μ.testBit 77 = true := bit_of hw rfl
  have i78 : μ.testBit 78 = true := bit_of hw rfl
  have i79 : μ.testBit 79 = true := bit_of hw rfl
  unfold dcStage
  repeat' first
    | with_reducible assumption
    | (intro s; with_reducible refine (fun (hs : Kept μ s0 s) => ?_) ?_)
    | intro x
    | lift_lets
    | with_reducible refine kept_modSlot k_modSlot ?_
    | with_reducible refine kept_freezeStart k_freezeStart ?_
    | (fail_if_no_progress with_reducible refine Kept.mk' ?_  (h_svf := .inr i15) (h_hp := .inr ⟨i42, .inr i43, sm, sm, .inr i46, sm, sm, sm, sm, sm, sm, sm⟩) (h_cnt := .inr i76) (h_limits := .inr i77) (h_evLog := .inr i78) (h_evLogSeq := .inr i79))
    | split
    | dsimp +zetaDelta only

theorem kept_decTick {μ : Nat} (hw : 32768 &&& μ = 32768) {s0 : State} {j : Nat} {s : State}  (kh : Kept μ s0 s) :
    Kept μ s0 (decTick j s) := by
  have k_modSlot : 32768 &&& μ = 32768 := sub_of hw rfl
  have i15 : μ.testBit 15 = true := bit_of hw rfl
  unfold decTick
  repeat' first
    | with_reducible assumption
    | (intro s; with_reducible refine (fun (hs : Kept μ s0 s) => ?_) ?_)
    | intro x
    | lift_lets
    | with_reducible refine kept_modSlot k_modSlot ?_
    | (fail_if_no_progress with_reducible refine Kept.mk' ?_  (h_svf := .inr i15))
    | split
    | dsimp +zetaDelta only

theorem kept_medPush {μ : Nat} (hw : 32768 &&& μ = 32768) {s0 : State} {x : SvSamp} {j : Nat} {s : State}  (kh : Kept μ s0 s) :
    Kept μ s0 (medPush x j s) := by
  have k_modSlot : 32768 &&& μ = 32768 := sub_of hw rfl
  have i15 : μ.testBit 15 = true := bit_of hw rfl
  unfold medPush
  repeat' first
    | with_reducible assumption
    | (intro s; with_reducible refine (fun (hs : Kept μ s0 s) => ?_) ?_)
    | intro x
    | lift_lets
    | with_reducible refine kept_modSlot k_modSlot ?_
    | (fail_if_no_progress with_reducible refine Kept.mk' ?_  (h_svf := .inr i15))
    | split
    | dsimp +zetaDelta only

theorem kept_pushFinal {μ : Nat} (hw : 1133367955972277735030784 &&& μ = 1133367955972277735030784) {s0 : State} {n : Nat} {x : SvSamp} {s : State}  (kh : Kept μ s0 s) :
    Kept μ s0 (pushFinal n x s) := by
  have k_dcStage : 1133367955972277735030784 &&& μ = 1133367955972277735030784 := sub_of hw rfl
  have k_decTick : 32768 &&& μ = 32768 := sub_of hw rfl
  have k_medPush : 32768 &&& μ = 32768 := sub_of hw rfl
  have k_modSub : 32768 &&& μ = 32768 := sub_of hw rfl
  have i15 : μ.testBit 15 = true := bit_of hw rfl
  have i42 : μ.testBit 42 = true := bit_of hw rfl
  have i43 : μ.testBit 43 = true := bit_of hw rfl
  have i46 : μ.testBit 46 = true := bit_of hw rfl
  have i76 : μ.testBit 76 = true := bit_of hw rfl
  have i77 : μ.testBit 77 = true := bit_of hw rfl
  have i78 : μ.testBit 78 = true := bit_of hw rfl
  have i79 : μ.testBit 79 = true := bit_of hw rfl
  unfold pushFinal
  repeat' first
    | with_reducible assumption
    | (intro s; with_reducible refine (fun (hs : Kept μ s0 s) => ?_) ?_)
    | intro x
    | lift_lets
    | with_reducible refine kept_modSub k_modSub ?_
    | with_reducible refine kept_dcStage k_dcStage ?_
    | with_reducible refine kept_decTick k_decTick ?_
    | with_reducible refine kept_medPush k_medPush ?_
    | with_reducible refine kept_foldl (fun s x hs => ?_) ?_
    | (fail_if_no_progress with_reducible refine Kept.mk' ?_  (h_svf := .inr i15) (h_hp := .inr ⟨i42, .inr i43, sm, sm, .inr i46, sm, sm, sm, sm, sm, sm, sm⟩) (h_cnt := .inr i76) (h_limits := .inr i77) (h_evLog := .inr i78) (h_evLogSeq := .inr i79))
    | split
    | dsimp +zetaDelta only

theorem kept_drainSv {μ : Nat} (hw : 1133367955972277735030784 &&& μ = 1133367955972277735030784) {s0 : State} {k n : Nat} {s : State} (kh : Kept μ s0 s) :
    Kept μ s0 (drainSv k n s) := by
  have k_modSub : 32768 &&& μ = 32768 := sub_of hw rfl
  have k_pushFinal : 1133367955972277735030784 &&& μ = 1133367955972277735030784 := sub_of hw rfl
  have i15 : μ.testBit 15 = true := bit_of hw rfl
  have i42 : μ.testBit 42 = true := bit_of hw rfl
  have i43 : μ.testBit 43 = true := bit_of hw rfl
  have i46 : μ.testBit 46 = true := bit_of hw rfl
  have i76 : μ.testBit 76 = true := bit_of hw rfl
  have i77 : μ.testBit 77 = true := bit_of hw rfl
  have i78 : μ.testBit 78 = true := bit_of hw rfl
  have i79 : μ.testBit 79 = true := bit_of hw rfl
  induction k generalizing s
  · exact kh
  rename_i ih
  unfold drainSv
  repeat' first
    | with_reducible assumption
    | (intro s; with_reducible refine (fun (hs : Kept μ s0 s) => ?_) ?_)
    | intro x
    | lift_lets
    | with_reducible refine ih ?_
    | with_reducible refine kept_pushFinal k_pushFinal ?_
    | with_reducible refine kept_modSub k_modSub ?_
    | (fail_if_no_progress with_reducible refine Kept.mk' ?_  (h_svf := .inr i15) (h_hp := .inr ⟨i42, .inr i43, sm, sm, .inr i46, sm, sm, sm, sm, sm, sm, sm⟩) (h_cnt := .inr i76) (h_limits := .inr i77) (h_evLog := .inr i78) (h_evLogSeq := .inr i79))
    | split
    | dsimp +zetaDelta only


theorem kept_svGap {μ : Nat} (hw : 1133367955972277734998016 &&& μ = 1133367955972277734998016) {s0 : State} {n a : Nat} {s : State}  (kh : Kept μ s0 s) :
    Kept μ s0 (svGap n a s) := by
  have k_raiseLimited : 1057810092237567318556672 &&& μ = 1057810092237567318556672 := sub_of hw rfl
  have k_svCountN : 982252228520449088159744 &&& μ = 982252228520449088159744 := sub_of hw rfl
  have k_svFlag : 13194139533312 &&& μ = 13194139533312 := sub_of hw rfl
  have i42 : μ.testBit 42 = true := bit_of hw rfl
  have i43 : μ.testBit 43 = true := bit_of hw rfl
  have i46 : μ.testBit 46 = true := bit_of hw rfl
  have i76 : μ.testBit 76 = true := bit_of hw rfl
  have i77 : μ.testBit 77 = true := bit_of hw rfl
  have i78 : μ.testBit 78 = true := bit_of hw rfl
  have i79 : μ.testBit 79 = true := bit_of hw rfl
  unfold svGap
  repeat' first
    | with_reducible assumption
    | (intro s; with_reducible refine (fun (hs : Kept μ s0 s) => ?_) ?_)
    | intro x
    | lift_lets
    | with_reducible refine kept_raiseLimited k_raiseLimited ?_
    | with_reducible refine kept_svCountN k_svCountN ?_
    | with_reducible refine kept_svFlag k_svFlag ?_
    | (fail_if_no_progress with_reducible refine Kept.mk' ?_  (h_hp := .inr ⟨i42, .inr i43, sm, sm, .inr i46, sm, sm, sm, sm, sm, sm, sm⟩) (h_cnt := .inr i76) (h_limits := .inr i77) (h_evLog := .inr i78) (h_evLogSeq := .inr i79))
    | split
    | dsimp +zetaDelta only

theorem kept_placeAsdu {μ : Nat} (hw : 1133367955972277735030784 &&& μ = 1133367955972277735030784) {s0 : State} {n arr : Nat} {sim : Bool} {d : SvAsdu} {s : State}  (kh : Kept μ s0 s) :
    Kept μ s0 (placeAsdu n arr sim d s) := by
  have k_drainSv : 1133367955972277735030784 &&& μ = 1133367955972277735030784 := sub_of hw rfl
  have k_modSub : 32768 &&& μ = 32768 := sub_of hw rfl
  have k_svCount : 982252228520449088159744 &&& μ = 982252228520449088159744 := sub_of hw rfl
  have k_svGap : 1133367955972277734998016 &&& μ = 1133367955972277734998016 := sub_of hw rfl
  have i15 : μ.testBit 15 = true := bit_of hw rfl
  have i42 : μ.testBit 42 = true := bit_of hw rfl
  have i43 : μ.testBit 43 = true := bit_of hw rfl
  have i46 : μ.testBit 46 = true := bit_of hw rfl
  have i76 : μ.testBit 76 = true := bit_of hw rfl
  have i77 : μ.testBit 77 = true := bit_of hw rfl
  have i78 : μ.testBit 78 = true := bit_of hw rfl
  have i79 : μ.testBit 79 = true := bit_of hw rfl
  unfold placeAsdu
  repeat' first
    | with_reducible assumption
    | (intro s; with_reducible refine (fun (hs : Kept μ s0 s) => ?_) ?_)
    | intro x
    | lift_lets
    | with_reducible refine kept_modSub k_modSub ?_
    | with_reducible refine kept_svCount k_svCount ?_
    | with_reducible refine kept_drainSv k_drainSv ?_
    | with_reducible refine kept_svGap k_svGap ?_
    | (fail_if_no_progress with_reducible refine Kept.mk' ?_  (h_svf := .inr i15) (h_hp := .inr ⟨i42, .inr i43, sm, sm, .inr i46, sm, sm, sm, sm, sm, sm, sm⟩) (h_cnt := .inr i76) (h_limits := .inr i77) (h_evLog := .inr i78) (h_evLogSeq := .inr i79))
    | split
    | dsimp +zetaDelta only

theorem kept_noteSync {μ : Nat} (hw : 982252228520449088192512 &&& μ = 982252228520449088192512) {s0 : State} {n : Nat} {b : Bool} {s : State}  (kh : Kept μ s0 s) :
    Kept μ s0 (noteSync n b s) := by
  have k_modSub : 32768 &&& μ = 32768 := sub_of hw rfl
  have k_raise : 906694364785738671718400 &&& μ = 906694364785738671718400 := sub_of hw rfl
  have k_svCount : 982252228520449088159744 &&& μ = 982252228520449088159744 := sub_of hw rfl
  have k_svFlag : 13194139533312 &&& μ = 13194139533312 := sub_of hw rfl
  have i15 : μ.testBit 15 = true := bit_of hw rfl
  have i42 : μ.testBit 42 = true := bit_of hw rfl
  have i43 : μ.testBit 43 = true := bit_of hw rfl
  have i46 : μ.testBit 46 = true := bit_of hw rfl
  have i76 : μ.testBit 76 = true := bit_of hw rfl
  have i78 : μ.testBit 78 = true := bit_of hw rfl
  have i79 : μ.testBit 79 = true := bit_of hw rfl
  unfold noteSync
  repeat' first
    | with_reducible assumption
    | (intro s; with_reducible refine (fun (hs : Kept μ s0 s) => ?_) ?_)
    | intro x
    | lift_lets
    | with_reducible refine kept_raise k_raise ?_
    | with_reducible refine kept_modSub k_modSub ?_
    | with_reducible refine kept_svCount k_svCount ?_
    | with_reducible refine kept_svFlag k_svFlag ?_
    | (fail_if_no_progress with_reducible refine Kept.mk' ?_  (h_svf := .inr i15) (h_hp := .inr ⟨i42, .inr i43, sm, sm, .inr i46, sm, sm, sm, sm, sm, sm, sm⟩) (h_cnt := .inr i76) (h_evLog := .inr i78) (h_evLogSeq := .inr i79))
    | split
    | dsimp +zetaDelta only

theorem kept_svFrame {μ : Nat} (hw : 1133367955972277735030784 &&& μ = 1133367955972277735030784) {s0 : State} {n arr : Nat} {m : SvFrame} {s : State}  (kh : Kept μ s0 s) :
    Kept μ s0 (svFrame n arr m s) := by
  have k_count : 982252228520449088159744 &&& μ = 982252228520449088159744 := sub_of hw rfl
  have k_flagCount : 982252228520449088159744 &&& μ = 982252228520449088159744 := sub_of hw rfl
  have k_noteSync : 982252228520449088192512 &&& μ = 982252228520449088192512 := sub_of hw rfl
  have k_placeAsdu : 1133367955972277735030784 &&& μ = 1133367955972277735030784 := sub_of hw rfl
  have k_raiseLimited : 1057810092237567318556672 &&& μ = 1057810092237567318556672 := sub_of hw rfl
  have k_svCount : 982252228520449088159744 &&& μ = 982252228520449088159744 := sub_of hw rfl
  have k_svFlag : 13194139533312 &&& μ = 13194139533312 := sub_of hw rfl
  have k_svPolice : 32768 &&& μ = 32768 := sub_of hw rfl
  have i15 : μ.testBit 15 = true := bit_of hw rfl
  have i42 : μ.testBit 42 = true := bit_of hw rfl
  have i43 : μ.testBit 43 = true := bit_of hw rfl
  have i46 : μ.testBit 46 = true := bit_of hw rfl
  have i76 : μ.testBit 76 = true := bit_of hw rfl
  have i77 : μ.testBit 77 = true := bit_of hw rfl
  have i78 : μ.testBit 78 = true := bit_of hw rfl
  have i79 : μ.testBit 79 = true := bit_of hw rfl
  unfold svFrame
  repeat' first
    | with_reducible assumption
    | (intro s; with_reducible refine (fun (hs : Kept μ s0 s) => ?_) ?_)
    | intro x
    | lift_lets
    | with_reducible refine kept_raiseLimited k_raiseLimited ?_
    | with_reducible refine kept_count k_count ?_
    | with_reducible refine kept_flagCount k_flagCount ?_
    | with_reducible refine kept_svCount k_svCount ?_
    | with_reducible refine kept_svFlag k_svFlag ?_
    | with_reducible refine kept_svPolice k_svPolice ?_
    | with_reducible refine kept_placeAsdu k_placeAsdu ?_
    | with_reducible refine kept_noteSync k_noteSync ?_
    | with_reducible refine kept_foldl (fun s x hs => ?_) ?_
    | with_reducible refine KeptF.eq (by with_reducible assumption) ?_
    | (fail_if_no_progress with_reducible refine Kept.mk' ?_  (h_svf := .inr i15) (h_hp := .inr ⟨i42, .inr i43, sm, sm, .inr i46, sm, sm, sm, sm, sm, sm, sm⟩) (h_cnt := .inr i76) (h_limits := .inr i77) (h_evLog := .inr i78) (h_evLogSeq := .inr i79))
    | split
    | with_reducible refine KeptF.mk' ?_
    | with_reducible refine KeptF.fst ?_
    | dsimp +zetaDelta only

theorem kept_expireSv {μ : Nat} (hw : 1133367955972277735030784 &&& μ = 1133367955972277735030784) {s0 : State} {k n ns : Nat} {s : State} (kh : Kept μ s0 s) :
    Kept μ s0 (expireSv k n ns s) := by
  have k_modSub : 32768 &&& μ = 32768 := sub_of hw rfl
  have k_pushFinal : 1133367955972277735030784 &&& μ = 1133367955972277735030784 := sub_of hw rfl
  have i15 : μ.testBit 15 = true := bit_of hw rfl
  have i42 : μ.testBit 42 = true := bit_of hw rfl
  have i43 : μ.testBit 43 = true := bit_of hw rfl
  have i46 : μ.testBit 46 = true := bit_of hw rfl
  have i76 : μ.testBit 76 = true := bit_of hw rfl
  have i77 : μ.testBit 77 = true := bit_of hw rfl
  have i78 : μ.testBit 78 = true := bit_of hw rfl
  have i79 : μ.testBit 79 = true := bit_of hw rfl
  induction k generalizing s
  · exact kh
  rename_i ih
  unfold expireSv
  repeat' first
    | with_reducible assumption
    | (intro s; with_reducible refine (fun (hs : Kept μ s0 s) => ?_) ?_)
    | intro x
    | lift_lets
    | with_reducible refine ih ?_
    | with_reducible refine kept_pushFinal k_pushFinal ?_
    | with_reducible refine kept_modSub k_modSub ?_
    | (fail_if_no_progress with_reducible refine Kept.mk' ?_  (h_svf := .inr i15) (h_hp := .inr ⟨i42, .inr i43, sm, sm, .inr i46, sm, sm, sm, sm, sm, sm, sm⟩) (h_cnt := .inr i76) (h_limits := .inr i77) (h_evLog := .inr i78) (h_evLogSeq := .inr i79))
    | split
    | dsimp +zetaDelta only


theorem kept_bayWritten {μ : Nat} (hw : 982252228520449088192512 &&& μ = 982252228520449088192512) {s0 : State} {b i : Nat} {r : IngRec} {s : State}  (kh : Kept μ s0 s) :
    Kept μ s0 (bayWritten b i r s) := by
  have k_count : 982252228520449088159744 &&& μ = 982252228520449088159744 := sub_of hw rfl
  have k_raise : 906694364785738671718400 &&& μ = 906694364785738671718400 := sub_of hw rfl
  have i15 : μ.testBit 15 = true := bit_of hw rfl
  have i42 : μ.testBit 42 = true := bit_of hw rfl
  have i43 : μ.testBit 43 = true := bit_of hw rfl
  have i46 : μ.testBit 46 = true := bit_of hw rfl
  have i76 : μ.testBit 76 = true := bit_of hw rfl
  have i78 : μ.testBit 78 = true := bit_of hw rfl
  have i79 : μ.testBit 79 = true := bit_of hw rfl
  unfold bayWritten
  repeat' first
    | with_reducible assumption
    | (intro s; with_reducible refine (fun (hs : Kept μ s0 s) => ?_) ?_)
    | intro x
    | lift_lets
    | with_reducible refine kept_raise k_raise ?_
    | with_reducible refine kept_count k_count ?_
    | (fail_if_no_progress with_reducible refine Kept.mk' ?_  (h_svf := .inr i15) (h_hp := .inr ⟨i42, .inr i43, sm, sm, .inr i46, sm, sm, sm, sm, sm, sm, sm⟩) (h_cnt := .inr i76) (h_evLog := .inr i78) (h_evLogSeq := .inr i79))
    | split
    | dsimp +zetaDelta only

end Sys2Proof.Machine
end

