-- ==== Sys2Proof/Laws/KeptSources.lean ====
section
/-!
SUPPORT. Sys2Proof/Laws/KeptSources.lean: every operation of Sources.lean keeps what no command changes, and the parts that it does not write (Kept.lean).
-/
set_option Elab.async false
set_option linter.unusedTactic false
set_option linter.unreachableTactic false
set_option linter.unusedVariables false
namespace Sys2Proof.Machine

theorem kept_modDo {μ : Nat} (hw : 38654705664 &&& μ = 38654705664) {s0 : State} {n : Nat} {f : Do → Do} {s : State}  (kh : Kept μ s0 s) :
    Kept μ s0 (modDo n f s) := by
  have i32 : μ.testBit 32 = true := bit_of hw rfl
  have i35 : μ.testBit 35 = true := bit_of hw rfl
  unfold modDo
  repeat' first
    | with_reducible assumption
    | (intro s; with_reducible refine (fun (hs : Kept μ s0 s) => ?_) ?_)
    | intro x
    | lift_lets
    | (fail_if_no_progress with_reducible refine Kept.mk' ?_  (h_pub := .inr ⟨i32, sm, sm, .inr i35⟩))
    | split
    | dsimp +zetaDelta only

theorem kept_setLevel {μ : Nat} (hw : 38654705664 &&& μ = 38654705664) {s0 : State} {n : Nat} {b : Bool} {s : State}  (kh : Kept μ s0 s) :
    Kept μ s0 (setLevel n b s) := by
  have k_modDo : 38654705664 &&& μ = 38654705664 := sub_of hw rfl
  have i32 : μ.testBit 32 = true := bit_of hw rfl
  have i35 : μ.testBit 35 = true := bit_of hw rfl
  unfold setLevel
  repeat' first
    | with_reducible assumption
    | (intro s; with_reducible refine (fun (hs : Kept μ s0 s) => ?_) ?_)
    | intro x
    | lift_lets
    | with_reducible refine kept_modDo k_modDo ?_
    | (fail_if_no_progress with_reducible refine Kept.mk' ?_  (h_pub := .inr ⟨i32, sm, sm, .inr i35⟩))
    | split
    | dsimp +zetaDelta only

theorem kept_latchDo {μ : Nat} (hw : 38654705664 &&& μ = 38654705664) {s0 : State} {n : Nat} {v : Bool} {s : State}  (kh : Kept μ s0 s) :
    Kept μ s0 (latchDo n v s) := by
  have k_modDo : 38654705664 &&& μ = 38654705664 := sub_of hw rfl
  have k_setLevel : 38654705664 &&& μ = 38654705664 := sub_of hw rfl
  have i32 : μ.testBit 32 = true := bit_of hw rfl
  have i35 : μ.testBit 35 = true := bit_of hw rfl
  unfold latchDo
  repeat' first
    | with_reducible assumption
    | (intro s; with_reducible refine (fun (hs : Kept μ s0 s) => ?_) ?_)
    | intro x
    | lift_lets
    | with_reducible refine kept_modDo k_modDo ?_
    | with_reducible refine kept_setLevel k_setLevel ?_
    | (fail_if_no_progress with_reducible refine Kept.mk' ?_  (h_pub := .inr ⟨i32, sm, sm, .inr i35⟩))
    | split
    | dsimp +zetaDelta only

theorem kept_latchDirect {μ : Nat} (hw : 38654705664 &&& μ = 38654705664) {s0 : State} {p : Nat → Nat → Bool} {s : State}  (kh : Kept μ s0 s) :
    Kept μ s0 (latchDirect p s) := by
  have k_latchDo : 38654705664 &&& μ = 38654705664 := sub_of hw rfl
  unfold latchDirect
  repeat' first
    | with_reducible assumption
    | (intro s; with_reducible refine (fun (hs : Kept μ s0 s) => ?_) ?_)
    | intro x
    | lift_lets
    | with_reducible refine kept_latchDo k_latchDo ?_
    | with_reducible refine kept_foldl (fun s x hs => ?_) ?_
    | split
    | dsimp +zetaDelta only

theorem kept_latchPoint {μ : Nat} (hw : 38654705664 &&& μ = 38654705664) {s0 : State} {p : Nat} {v : Word} {s : State}  (kh : Kept μ s0 s) :
    Kept μ s0 (latchPoint p v s) := by
  have k_latchDo : 38654705664 &&& μ = 38654705664 := sub_of hw rfl
  unfold latchPoint
  repeat' first
    | with_reducible assumption
    | (intro s; with_reducible refine (fun (hs : Kept μ s0 s) => ?_) ?_)
    | intro x
    | lift_lets
    | with_reducible refine kept_latchDo k_latchDo ?_
    | with_reducible refine kept_foldl (fun s x hs => ?_) ?_
    | split
    | dsimp +zetaDelta only

theorem kept_releaseDo {μ : Nat} (hw : 982252228520487742865408 &&& μ = 982252228520487742865408) {s0 : State} {n : Nat} {s : State}  (kh : Kept μ s0 s) :
    Kept μ s0 (releaseDo n s) := by
  have k_flagCount : 982252228520449088159744 &&& μ = 982252228520449088159744 := sub_of hw rfl
  have k_modDo : 38654705664 &&& μ = 38654705664 := sub_of hw rfl
  have k_raise : 906694364785738671718400 &&& μ = 906694364785738671718400 := sub_of hw rfl
  have k_setLevel : 38654705664 &&& μ = 38654705664 := sub_of hw rfl
  have i32 : μ.testBit 32 = true := bit_of hw rfl
  have i35 : μ.testBit 35 = true := bit_of hw rfl
  have i42 : μ.testBit 42 = true := bit_of hw rfl
  have i43 : μ.testBit 43 = true := bit_of hw rfl
  have i46 : μ.testBit 46 = true := bit_of hw rfl
  have i76 : μ.testBit 76 = true := bit_of hw rfl
  have i78 : μ.testBit 78 = true := bit_of hw rfl
  have i79 : μ.testBit 79 = true := bit_of hw rfl
  unfold releaseDo
  repeat' first
    | with_reducible assumption
    | (intro s; with_reducible refine (fun (hs : Kept μ s0 s) => ?_) ?_)
    | intro x
    | lift_lets
    | with_reducible refine kept_raise k_raise ?_
    | with_reducible refine kept_flagCount k_flagCount ?_
    | with_reducible refine kept_modDo k_modDo ?_
    | with_reducible refine kept_setLevel k_setLevel ?_
    | (fail_if_no_progress with_reducible refine Kept.mk' ?_  (h_pub := .inr ⟨i32, sm, sm, .inr i35⟩) (h_hp := .inr ⟨i42, .inr i43, sm, sm, .inr i46, sm, sm, sm, sm, sm, sm, sm⟩) (h_cnt := .inr i76) (h_evLog := .inr i78) (h_evLogSeq := .inr i79))
    | split
    | dsimp +zetaDelta only

theorem kept_capEvent {μ : Nat} (hw : 4194304 &&& μ = 4194304) {s0 : State} {esrc eidx ns : Nat} {s : State}  (kh : Kept μ s0 s) :
    Kept μ s0 (capEvent esrc eidx ns s) := by
  have i22 : μ.testBit 22 = true := bit_of hw rfl
  unfold capEvent
  repeat' first
    | with_reducible assumption
    | (intro s; with_reducible refine (fun (hs : Kept μ s0 s) => ?_) ?_)
    | intro x
    | lift_lets
    | (fail_if_no_progress with_reducible refine Kept.mk' ?_  (h_cap := .inr ⟨i22, sm, sm, sm⟩))
    | split
    | dsimp +zetaDelta only

theorem kept_modTask {μ : Nat} (hw : 2359296 &&& μ = 2359296) {s0 : State} {t : Nat} {f : Task → Task} {s : State}  (kh : Kept μ s0 s) :
    Kept μ s0 (modTask t f s) := by
  have i18 : μ.testBit 18 = true := bit_of hw rfl
  have i21 : μ.testBit 21 = true := bit_of hw rfl
  unfold modTask
  repeat' first
    | with_reducible assumption
    | (intro s; with_reducible refine (fun (hs : Kept μ s0 s) => ?_) ?_)
    | intro x
    | lift_lets
    | (fail_if_no_progress with_reducible refine Kept.mk' ?_  (h_sch := .inr ⟨i18, sm, sm, .inr i21⟩))
    | split
    | dsimp +zetaDelta only

theorem kept_taskCount {μ : Nat} (hw : 982252228520449088159744 &&& μ = 982252228520449088159744) {s0 : State} {t k : Nat} {s : State}  (kh : Kept μ s0 s) :
    Kept μ s0 (taskCount t k s) := by
  have k_countW : 982252228520449088159744 &&& μ = 982252228520449088159744 := sub_of hw rfl
  unfold taskCount
  repeat' first
    | with_reducible assumption
    | (intro s; with_reducible refine (fun (hs : Kept μ s0 s) => ?_) ?_)
    | intro x
    | lift_lets
    | with_reducible refine kept_countW k_countW ?_
    | split
    | dsimp +zetaDelta only

theorem kept_trigTask {μ : Nat} (hw : 982252228520449090519040 &&& μ = 982252228520449090519040) {s0 : State} {t : Nat} {g : Trig} {s : State}  (kh : Kept μ s0 s) :
    Kept μ s0 (trigTask t g s) := by
  have k_count : 982252228520449088159744 &&& μ = 982252228520449088159744 := sub_of hw rfl
  have k_modTask : 2359296 &&& μ = 2359296 := sub_of hw rfl
  have k_raise : 906694364785738671718400 &&& μ = 906694364785738671718400 := sub_of hw rfl
  have k_setFlag : 13194139533312 &&& μ = 13194139533312 := sub_of hw rfl
  have k_taskCount : 982252228520449088159744 &&& μ = 982252228520449088159744 := sub_of hw rfl
  have i18 : μ.testBit 18 = true := bit_of hw rfl
  have i21 : μ.testBit 21 = true := bit_of hw rfl
  have i42 : μ.testBit 42 = true := bit_of hw rfl
  have i43 : μ.testBit 43 = true := bit_of hw rfl
  have i46 : μ.testBit 46 = true := bit_of hw rfl
  have i76 : μ.testBit 76 = true := bit_of hw rfl
  have i78 : μ.testBit 78 = true := bit_of hw rfl
  have i79 : μ.testBit 79 = true := bit_of hw rfl
  unfold trigTask
  repeat' first
    | with_reducible assumption
    | (intro s; with_reducible refine (fun (hs : Kept μ s0 s) => ?_) ?_)
    | intro x
    | lift_lets
    | with_reducible refine kept_setFlag k_setFlag ?_
    | with_reducible refine kept_raise k_raise ?_
    | with_reducible refine kept_count k_count ?_
    | with_reducible refine kept_modTask k_modTask ?_
    | with_reducible refine kept_taskCount k_taskCount ?_
    | (fail_if_no_progress with_reducible refine Kept.mk' ?_  (h_sch := .inr ⟨i18, sm, sm, .inr i21⟩) (h_hp := .inr ⟨i42, .inr i43, sm, sm, .inr i46, sm, sm, sm, sm, sm, sm, sm⟩) (h_cnt := .inr i76) (h_evLog := .inr i78) (h_evLogSeq := .inr i79))
    | split
    | dsimp +zetaDelta only

theorem kept_trigVote {μ : Nat} (hw : 982252228520449090519040 &&& μ = 982252228520449090519040) {s0 : State} {v i : Nat} {s : State}  (kh : Kept μ s0 s) :
    Kept μ s0 (trigVote v i s) := by
  have k_trigTask : 982252228520449090519040 &&& μ = 982252228520449090519040 := sub_of hw rfl
  unfold trigVote
  repeat' first
    | with_reducible assumption
    | (intro s; with_reducible refine (fun (hs : Kept μ s0 s) => ?_) ?_)
    | intro x
    | lift_lets
    | with_reducible refine kept_trigTask k_trigTask ?_
    | with_reducible refine kept_foldl (fun s x hs => ?_) ?_
    | split
    | dsimp +zetaDelta only

theorem kept_trigGroup {μ : Nat} (hw : 982252228520449090519040 &&& μ = 982252228520449090519040) {s0 : State} {g i : Nat} {s : State}  (kh : Kept μ s0 s) :
    Kept μ s0 (trigGroup g i s) := by
  have k_trigTask : 982252228520449090519040 &&& μ = 982252228520449090519040 := sub_of hw rfl
  unfold trigGroup
  repeat' first
    | with_reducible assumption
    | (intro s; with_reducible refine (fun (hs : Kept μ s0 s) => ?_) ?_)
    | intro x
    | lift_lets
    | with_reducible refine kept_trigTask k_trigTask ?_
    | with_reducible refine kept_foldl (fun s x hs => ?_) ?_
    | split
    | dsimp +zetaDelta only

theorem kept_srcMoved {μ : Nat} (hw : 4294967296 &&& μ = 4294967296) {s0 : State} {typ idx due : Nat} {s : State}  (kh : Kept μ s0 s) :
    Kept μ s0 (srcMoved typ idx due s) := by
  have i32 : μ.testBit 32 = true := bit_of hw rfl
  unfold srcMoved
  repeat' first
    | with_reducible assumption
    | (intro s; with_reducible refine (fun (hs : Kept μ s0 s) => ?_) ?_)
    | intro x
    | lift_lets
    | (fail_if_no_progress with_reducible refine Kept.mk' ?_  (h_pub := .inr ⟨i32, sm, sm, sm⟩))
    | split
    | dsimp +zetaDelta only

theorem kept_earlyAlarm {μ : Nat} (hw : 12884901888 &&& μ = 12884901888) {s0 : State} {v i due : Nat} {b : Bool} {s : State}  (kh : Kept μ s0 s) :
    Kept μ s0 (earlyAlarm v i due b s) := by
  have i32 : μ.testBit 32 = true := bit_of hw rfl
  have i33 : μ.testBit 33 = true := bit_of hw rfl
  unfold earlyAlarm
  repeat' first
    | with_reducible assumption
    | (intro s; with_reducible refine (fun (hs : Kept μ s0 s) => ?_) ?_)
    | intro x
    | lift_lets
    | (fail_if_no_progress with_reducible refine Kept.mk' ?_  (h_pub := .inr ⟨i32, .inr i33, sm, sm⟩))
    | split
    | dsimp +zetaDelta only

theorem kept_rxEnqueue {μ : Nat} (hw : 906694369333318764199936 &&& μ = 906694369333318764199936) {s0 : State} {n : Nat} {w : RxWait} {s : State}  (kh : Kept μ s0 s) :
    Kept μ s0 (rxEnqueue n w s) := by
  have k_countFn : 906694364829719136829440 &&& μ = 906694364829719136829440 := sub_of hw rfl
  have k_modFn : 4398046511104 &&& μ = 4398046511104 := sub_of hw rfl
  have i42 : μ.testBit 42 = true := bit_of hw rfl
  have i43 : μ.testBit 43 = true := bit_of hw rfl
  have i45 : μ.testBit 45 = true := bit_of hw rfl
  have i46 : μ.testBit 46 = true := bit_of hw rfl
  have i52 : μ.testBit 52 = true := bit_of hw rfl
  have i78 : μ.testBit 78 = true := bit_of hw rfl
  have i79 : μ.testBit 79 = true := bit_of hw rfl
  unfold rxEnqueue
  repeat' first
    | with_reducible assumption
    | (intro s; with_reducible refine (fun (hs : Kept μ s0 s) => ?_) ?_)
    | intro x
    | lift_lets
    | with_reducible refine kept_modFn k_modFn (.inr i43) smf (.inr i45) (.inr i46) smf smf smf smf smf (.inr i52) smf ?_
    | with_reducible refine kept_countFn k_countFn ?_
    | (fail_if_no_progress with_reducible refine Kept.mk' ?_  (h_hp := .inr ⟨i42, .inr i43, sm, .inr i45, .inr i46, sm, sm, sm, sm, sm, .inr i52, sm⟩) (h_evLog := .inr i78) (h_evLogSeq := .inr i79))
    | split
    | dsimp +zetaDelta only

theorem kept_harvest {μ : Nat} (hw : 2256197860196352 &&& μ = 2256197860196352) {s0 : State} {p : Nat → Bool} {typ : Nat} {group : Option Nat} {bytes : List Byte} {ctr : Option (Nat × Nat)} {s : State}  (kh : Kept μ s0 s) :
    Kept μ s0 (harvest p typ group bytes ctr s) := by
  have k_modFn : 4398046511104 &&& μ = 4398046511104 := sub_of hw rfl
  have i42 : μ.testBit 42 = true := bit_of hw rfl
  have i51 : μ.testBit 51 = true := bit_of hw rfl
  unfold harvest
  repeat' first
    | with_reducible assumption
    | (intro s; with_reducible refine (fun (hs : Kept μ s0 s) => ?_) ?_)
    | intro x
    | lift_lets
    | with_reducible refine kept_modFn k_modFn smf smf smf smf smf smf smf smf (.inr i51) smf smf ?_
    | with_reducible refine kept_foldl (fun s x hs => ?_) ?_
    | (fail_if_no_progress with_reducible refine Kept.mk' ?_  (h_hp := .inr ⟨i42, sm, sm, sm, sm, sm, sm, sm, sm, .inr i51, sm, sm⟩))
    | split
    | dsimp +zetaDelta only

end Sys2Proof.Machine
end

