-- ==== Sys2Proof/Laws/KeptCompare.lean ====
section
/-!
SUPPORT. Sys2Proof/Laws/KeptCompare.lean: every operation of Compare.lean keeps what no command changes, and the parts that it does not write (Kept.lean).
-/
set_option Elab.async false
set_option linter.unusedTactic false
set_option linter.unreachableTactic false
set_option linter.unusedVariables false
namespace Sys2Proof.Machine

theorem kept_alnFlag {μ : Nat} (hw : 13194139533312 &&& μ = 13194139533312) {s0 : State} {b : Nat} {s : State}  (kh : Kept μ s0 s) :
    Kept μ s0 (alnFlag b s) := by
  have k_setFlag : 13194139533312 &&& μ = 13194139533312 := sub_of hw rfl
  unfold alnFlag
  repeat' first
    | with_reducible assumption
    | (intro s; with_reducible refine (fun (hs : Kept μ s0 s) => ?_) ?_)
    | intro x
    | lift_lets
    | with_reducible refine kept_setFlag k_setFlag ?_
    | split
    | dsimp +zetaDelta only

theorem kept_rebuildEvents {μ : Nat} (hw : 906694364794534764740608 &&& μ = 906694364794534764740608) {s0 : State} {gs : List Nat} {code res : Nat} {s : State}  (kh : Kept μ s0 s) :
    Kept μ s0 (rebuildEvents gs code res s) := by
  have k_alnFlag : 13194139533312 &&& μ = 13194139533312 := sub_of hw rfl
  have k_raise : 906694364785738671718400 &&& μ = 906694364785738671718400 := sub_of hw rfl
  unfold rebuildEvents
  repeat' first
    | with_reducible assumption
    | (intro s; with_reducible refine (fun (hs : Kept μ s0 s) => ?_) ?_)
    | intro x
    | lift_lets
    | with_reducible refine kept_raise k_raise ?_
    | with_reducible refine kept_alnFlag k_alnFlag ?_
    | split
    | dsimp +zetaDelta only

theorem kept_frameRebuild {μ : Nat} (hw : 982252228520449088159744 &&& μ = 982252228520449088159744) {s0 : State} {gs : List Nat} {res : Nat} {s : State}  (kh : Kept μ s0 s) :
    Kept μ s0 (frameRebuild gs res s) := by
  have k_count : 982252228520449088159744 &&& μ = 982252228520449088159744 := sub_of hw rfl
  have k_rebuildEvents : 906694364794534764740608 &&& μ = 906694364794534764740608 := sub_of hw rfl
  unfold frameRebuild
  repeat' first
    | with_reducible assumption
    | (intro s; with_reducible refine (fun (hs : Kept μ s0 s) => ?_) ?_)
    | intro x
    | lift_lets
    | with_reducible refine kept_count k_count ?_
    | with_reducible refine kept_rebuildEvents k_rebuildEvents ?_
    | split
    | dsimp +zetaDelta only

theorem kept_detReplay {μ : Nat} (hw : 982252228520449088159744 &&& μ = 982252228520449088159744) {s0 : State} {g : Nat} {s : State}  (kh : Kept μ s0 s) :
    Kept μ s0 (detReplay g s) := by
  have k_alnFlag : 13194139533312 &&& μ = 13194139533312 := sub_of hw rfl
  have k_count : 982252228520449088159744 &&& μ = 982252228520449088159744 := sub_of hw rfl
  have k_rebuildEvents : 906694364794534764740608 &&& μ = 906694364794534764740608 := sub_of hw rfl
  unfold detReplay
  repeat' first
    | with_reducible assumption
    | (intro s; with_reducible refine (fun (hs : Kept μ s0 s) => ?_) ?_)
    | intro x
    | lift_lets
    | with_reducible refine kept_count k_count ?_
    | with_reducible refine kept_alnFlag k_alnFlag ?_
    | with_reducible refine kept_rebuildEvents k_rebuildEvents ?_
    | split
    | dsimp +zetaDelta only

theorem kept_modCmp {μ : Nat} (hw : 131072 &&& μ = 131072) {s0 : State} {c : Nat} {f : Cmp → Cmp} {s : State}  (kh : Kept μ s0 s) :
    Kept μ s0 (modCmp c f s) := by
  have i17 : μ.testBit 17 = true := bit_of hw rfl
  unfold modCmp
  repeat' first
    | with_reducible assumption
    | (intro s; with_reducible refine (fun (hs : Kept μ s0 s) => ?_) ?_)
    | intro x
    | lift_lets
    | (fail_if_no_progress with_reducible refine Kept.mk' ?_  (h_isl := .inr i17))
    | split
    | dsimp +zetaDelta only

theorem kept_cmpEval {μ : Nat} (hw : 982252228520449088290816 &&& μ = 982252228520449088290816) {s0 : State} {c i : Nat} {get : Nat → Option (Word × Word)} {s : State}  (kh : Kept μ s0 s) :
    Kept μ s0 (cmpEval c i get s) := by
  have k_count : 982252228520449088159744 &&& μ = 982252228520449088159744 := sub_of hw rfl
  have k_modCmp : 131072 &&& μ = 131072 := sub_of hw rfl
  have i17 : μ.testBit 17 = true := bit_of hw rfl
  have i42 : μ.testBit 42 = true := bit_of hw rfl
  have i43 : μ.testBit 43 = true := bit_of hw rfl
  have i46 : μ.testBit 46 = true := bit_of hw rfl
  have i76 : μ.testBit 76 = true := bit_of hw rfl
  have i78 : μ.testBit 78 = true := bit_of hw rfl
  have i79 : μ.testBit 79 = true := bit_of hw rfl
  unfold cmpEval
  repeat' first
    | with_reducible assumption
    | (intro s; with_reducible refine (fun (hs : Kept μ s0 s) => ?_) ?_)
    | intro x
    | lift_lets
    | with_reducible refine kept_count k_count ?_
    | with_reducible refine kept_modCmp k_modCmp ?_
    | (fail_if_no_progress with_reducible refine Kept.mk' ?_  (h_isl := .inr i17) (h_hp := .inr ⟨i42, .inr i43, sm, sm, .inr i46, sm, sm, sm, sm, sm, sm, sm⟩) (h_cnt := .inr i76) (h_evLog := .inr i78) (h_evLogSeq := .inr i79))
    | split
    | dsimp +zetaDelta only

theorem kept_cmpReplay {μ : Nat} (hw : 982252228520449088290816 &&& μ = 982252228520449088290816) {s0 : State} {c i : Nat} {s : State}  (kh : Kept μ s0 s) :
    Kept μ s0 (cmpReplay c i s) := by
  have k_cmpEval : 982252228520449088290816 &&& μ = 982252228520449088290816 := sub_of hw rfl
  have k_detReplay : 982252228520449088159744 &&& μ = 982252228520449088159744 := sub_of hw rfl
  have k_modCmp : 131072 &&& μ = 131072 := sub_of hw rfl
  have i17 : μ.testBit 17 = true := bit_of hw rfl
  have i42 : μ.testBit 42 = true := bit_of hw rfl
  have i43 : μ.testBit 43 = true := bit_of hw rfl
  have i46 : μ.testBit 46 = true := bit_of hw rfl
  have i76 : μ.testBit 76 = true := bit_of hw rfl
  have i78 : μ.testBit 78 = true := bit_of hw rfl
  have i79 : μ.testBit 79 = true := bit_of hw rfl
  unfold cmpReplay
  repeat' first
    | with_reducible assumption
    | (intro s; with_reducible refine (fun (hs : Kept μ s0 s) => ?_) ?_)
    | intro x
    | lift_lets
    | with_reducible refine kept_detReplay k_detReplay ?_
    | with_reducible refine kept_modCmp k_modCmp ?_
    | with_reducible refine kept_cmpEval k_cmpEval ?_
    | with_reducible refine kept_foldl (fun s x hs => ?_) ?_
    | (fail_if_no_progress with_reducible refine Kept.mk' ?_  (h_isl := .inr i17) (h_hp := .inr ⟨i42, .inr i43, sm, sm, .inr i46, sm, sm, sm, sm, sm, sm, sm⟩) (h_cnt := .inr i76) (h_evLog := .inr i78) (h_evLogSeq := .inr i79))
    | split
    | dsimp +zetaDelta only

theorem kept_cmpSetOut {μ : Nat} (hw : 1133367955972282034290688 &&& μ = 1133367955972282034290688) {s0 : State} {c seq ns due : Nat} {b : Bool} {s : State}  (kh : Kept μ s0 s) :
    Kept μ s0 (cmpSetOut c seq ns due b s) := by
  have k_capEvent : 4194304 &&& μ = 4194304 := sub_of hw rfl
  have k_count : 982252228520449088159744 &&& μ = 982252228520449088159744 := sub_of hw rfl
  have k_modCmp : 131072 &&& μ = 131072 := sub_of hw rfl
  have k_raiseLimited : 1057810092237567318556672 &&& μ = 1057810092237567318556672 := sub_of hw rfl
  have k_setFlag : 13194139533312 &&& μ = 13194139533312 := sub_of hw rfl
  have k_srcMoved : 4294967296 &&& μ = 4294967296 := sub_of hw rfl
  have i17 : μ.testBit 17 = true := bit_of hw rfl
  have i22 : μ.testBit 22 = true := bit_of hw rfl
  have i32 : μ.testBit 32 = true := bit_of hw rfl
  have i42 : μ.testBit 42 = true := bit_of hw rfl
  have i43 : μ.testBit 43 = true := bit_of hw rfl
  have i46 : μ.testBit 46 = true := bit_of hw rfl
  have i76 : μ.testBit 76 = true := bit_of hw rfl
  have i77 : μ.testBit 77 = true := bit_of hw rfl
  have i78 : μ.testBit 78 = true := bit_of hw rfl
  have i79 : μ.testBit 79 = true := bit_of hw rfl
  unfold cmpSetOut
  repeat' first
    | with_reducible assumption
    | (intro s; with_reducible refine (fun (hs : Kept μ s0 s) => ?_) ?_)
    | intro x
    | lift_lets
    | with_reducible refine kept_setFlag k_setFlag ?_
    | with_reducible refine kept_raiseLimited k_raiseLimited ?_
    | with_reducible refine kept_count k_count ?_
    | with_reducible refine kept_capEvent k_capEvent ?_
    | with_reducible refine kept_srcMoved k_srcMoved ?_
    | with_reducible refine kept_modCmp k_modCmp ?_
    | (fail_if_no_progress with_reducible refine Kept.mk' ?_  (h_isl := .inr i17) (h_cap := .inr ⟨i22, sm, sm, sm⟩) (h_pub := .inr ⟨i32, sm, sm, sm⟩) (h_hp := .inr ⟨i42, .inr i43, sm, sm, .inr i46, sm, sm, sm, sm, sm, sm, sm⟩) (h_cnt := .inr i76) (h_limits := .inr i77) (h_evLog := .inr i78) (h_evLogSeq := .inr i79))
    | split
    | dsimp +zetaDelta only

theorem kept_modVote {μ : Nat} (hw : 10240 &&& μ = 10240) {s0 : State} {v : Nat} {f : Vote → Vote} {s : State}  (kh : Kept μ s0 s) :
    Kept μ s0 (modVote v f s) := by
  have i11 : μ.testBit 11 = true := bit_of hw rfl
  have i13 : μ.testBit 13 = true := bit_of hw rfl
  unfold modVote
  repeat' first
    | with_reducible assumption
    | (intro s; with_reducible refine (fun (hs : Kept μ s0 s) => ?_) ?_)
    | intro x
    | lift_lets
    | (fail_if_no_progress with_reducible refine Kept.mk' ?_  (h_aln := .inr ⟨i11, sm, .inr i13, sm⟩))
    | split
    | dsimp +zetaDelta only

theorem kept_voteRelease {μ : Nat} (hw : 982252228520496339363840 &&& μ = 982252228520496339363840) {s0 : State} {v i path : Nat} {s : State}  (kh : Kept μ s0 s) :
    Kept μ s0 (voteRelease v i path s) := by
  have k_capEvent : 4194304 &&& μ = 4194304 := sub_of hw rfl
  have k_count : 982252228520449088159744 &&& μ = 982252228520449088159744 := sub_of hw rfl
  have k_countW : 982252228520449088159744 &&& μ = 982252228520449088159744 := sub_of hw rfl
  have k_earlyAlarm : 12884901888 &&& μ = 12884901888 := sub_of hw rfl
  have k_latchDirect : 38654705664 &&& μ = 38654705664 := sub_of hw rfl
  have k_modVote : 10240 &&& μ = 10240 := sub_of hw rfl
  have k_raise : 906694364785738671718400 &&& μ = 906694364785738671718400 := sub_of hw rfl
  have k_srcMoved : 4294967296 &&& μ = 4294967296 := sub_of hw rfl
  have k_trigVote : 982252228520449090519040 &&& μ = 982252228520449090519040 := sub_of hw rfl
  have i11 : μ.testBit 11 = true := bit_of hw rfl
  have i13 : μ.testBit 13 = true := bit_of hw rfl
  have i18 : μ.testBit 18 = true := bit_of hw rfl
  have i21 : μ.testBit 21 = true := bit_of hw rfl
  have i22 : μ.testBit 22 = true := bit_of hw rfl
  have i32 : μ.testBit 32 = true := bit_of hw rfl
  have i33 : μ.testBit 33 = true := bit_of hw rfl
  have i35 : μ.testBit 35 = true := bit_of hw rfl
  have i42 : μ.testBit 42 = true := bit_of hw rfl
  have i43 : μ.testBit 43 = true := bit_of hw rfl
  have i46 : μ.testBit 46 = true := bit_of hw rfl
  have i76 : μ.testBit 76 = true := bit_of hw rfl
  have i78 : μ.testBit 78 = true := bit_of hw rfl
  have i79 : μ.testBit 79 = true := bit_of hw rfl
  unfold voteRelease
  repeat' first
    | with_reducible assumption
    | (intro s; with_reducible refine (fun (hs : Kept μ s0 s) => ?_) ?_)
    | intro x
    | lift_lets
    | with_reducible refine kept_raise k_raise ?_
    | with_reducible refine kept_countW k_countW ?_
    | with_reducible refine kept_count k_count ?_
    | with_reducible refine kept_latchDirect k_latchDirect ?_
    | with_reducible refine kept_capEvent k_capEvent ?_
    | with_reducible refine kept_trigVote k_trigVote ?_
    | with_reducible refine kept_srcMoved k_srcMoved ?_
    | with_reducible refine kept_earlyAlarm k_earlyAlarm ?_
    | with_reducible refine kept_modVote k_modVote ?_
    | (fail_if_no_progress with_reducible refine Kept.mk' ?_  (h_aln := .inr ⟨i11, sm, .inr i13, sm⟩) (h_sch := .inr ⟨i18, sm, sm, .inr i21⟩) (h_cap := .inr ⟨i22, sm, sm, sm⟩) (h_pub := .inr ⟨i32, .inr i33, sm, .inr i35⟩) (h_hp := .inr ⟨i42, .inr i43, sm, sm, .inr i46, sm, sm, sm, sm, sm, sm, sm⟩) (h_cnt := .inr i76) (h_evLog := .inr i78) (h_evLogSeq := .inr i79))
    | split
    | dsimp +zetaDelta only

theorem kept_voteMember {μ : Nat} (hw : 982252228520496339363840 &&& μ = 982252228520496339363840) {s0 : State} {v i m path : Nat} {b : Bool} {s : State}  (kh : Kept μ s0 s) :
    Kept μ s0 (voteMember v i m path b s) := by
  have k_count : 982252228520449088159744 &&& μ = 982252228520449088159744 := sub_of hw rfl
  have k_modVote : 10240 &&& μ = 10240 := sub_of hw rfl
  have k_voteRelease : 982252228520496339363840 &&& μ = 982252228520496339363840 := sub_of hw rfl
  have i11 : μ.testBit 11 = true := bit_of hw rfl
  have i13 : μ.testBit 13 = true := bit_of hw rfl
  have i18 : μ.testBit 18 = true := bit_of hw rfl
  have i21 : μ.testBit 21 = true := bit_of hw rfl
  have i22 : μ.testBit 22 = true := bit_of hw rfl
  have i32 : μ.testBit 32 = true := bit_of hw rfl
  have i33 : μ.testBit 33 = true := bit_of hw rfl
  have i35 : μ.testBit 35 = true := bit_of hw rfl
  have i42 : μ.testBit 42 = true := bit_of hw rfl
  have i43 : μ.testBit 43 = true := bit_of hw rfl
  have i46 : μ.testBit 46 = true := bit_of hw rfl
  have i76 : μ.testBit 76 = true := bit_of hw rfl
  have i78 : μ.testBit 78 = true := bit_of hw rfl
  have i79 : μ.testBit 79 = true := bit_of hw rfl
  unfold voteMember
  repeat' first
    | with_reducible assumption
    | (intro s; with_reducible refine (fun (hs : Kept μ s0 s) => ?_) ?_)
    | intro x
    | lift_lets
    | with_reducible refine kept_count k_count ?_
    | with_reducible refine kept_modVote k_modVote ?_
    | with_reducible refine kept_voteRelease k_voteRelease ?_
    | (fail_if_no_progress with_reducible refine Kept.mk' ?_  (h_aln := .inr ⟨i11, sm, .inr i13, sm⟩) (h_sch := .inr ⟨i18, sm, sm, .inr i21⟩) (h_cap := .inr ⟨i22, sm, sm, sm⟩) (h_pub := .inr ⟨i32, .inr i33, sm, .inr i35⟩) (h_hp := .inr ⟨i42, .inr i43, sm, sm, .inr i46, sm, sm, sm, sm, sm, sm, sm⟩) (h_cnt := .inr i76) (h_evLog := .inr i78) (h_evLogSeq := .inr i79))
    | split
    | dsimp +zetaDelta only

theorem kept_voteReady {μ : Nat} (hw : 982252228520496339363840 &&& μ = 982252228520496339363840) {s0 : State} {g i m path : Nat} {b : Bool} {s : State}  (kh : Kept μ s0 s) :
    Kept μ s0 (voteReady g i m path b s) := by
  have k_voteMember : 982252228520496339363840 &&& μ = 982252228520496339363840 := sub_of hw rfl
  unfold voteReady
  repeat' first
    | with_reducible assumption
    | (intro s; with_reducible refine (fun (hs : Kept μ s0 s) => ?_) ?_)
    | intro x
    | lift_lets
    | with_reducible refine kept_voteMember k_voteMember ?_
    | with_reducible refine kept_foldl (fun s x hs => ?_) ?_
    | split
    | dsimp +zetaDelta only

theorem kept_voteSeal {μ : Nat} (hw : 47244650496 &&& μ = 47244650496) {s0 : State} {v i : Nat} {s : State}  (kh : Kept μ s0 s) :
    Kept μ s0 (voteSeal v i s) := by
  have k_earlyAlarm : 12884901888 &&& μ = 12884901888 := sub_of hw rfl
  have k_latchDirect : 38654705664 &&& μ = 38654705664 := sub_of hw rfl
  have k_modVote : 10240 &&& μ = 10240 := sub_of hw rfl
  have k_srcMoved : 4294967296 &&& μ = 4294967296 := sub_of hw rfl
  have i11 : μ.testBit 11 = true := bit_of hw rfl
  have i13 : μ.testBit 13 = true := bit_of hw rfl
  have i32 : μ.testBit 32 = true := bit_of hw rfl
  have i33 : μ.testBit 33 = true := bit_of hw rfl
  have i35 : μ.testBit 35 = true := bit_of hw rfl
  unfold voteSeal
  repeat' first
    | with_reducible assumption
    | (intro s; with_reducible refine (fun (hs : Kept μ s0 s) => ?_) ?_)
    | intro x
    | lift_lets
    | with_reducible refine kept_latchDirect k_latchDirect ?_
    | with_reducible refine kept_srcMoved k_srcMoved ?_
    | with_reducible refine kept_earlyAlarm k_earlyAlarm ?_
    | with_reducible refine kept_modVote k_modVote ?_
    | (fail_if_no_progress with_reducible refine Kept.mk' ?_  (h_aln := .inr ⟨i11, sm, .inr i13, sm⟩) (h_pub := .inr ⟨i32, .inr i33, sm, .inr i35⟩))
    | split
    | dsimp +zetaDelta only

theorem kept_cmpArrive {μ : Nat} (hw : 982252228520496339494912 &&& μ = 982252228520496339494912) {s0 : State} {bad : List Nat} {k c i : Nat} {s : State} (kh : Kept μ s0 s) :
    Kept μ s0 (cmpArrive bad k c i s) := by
  have k_cmpEval : 982252228520449088290816 &&& μ = 982252228520449088290816 := sub_of hw rfl
  have k_cmpReplay : 982252228520449088290816 &&& μ = 982252228520449088290816 := sub_of hw rfl
  have k_modCmp : 131072 &&& μ = 131072 := sub_of hw rfl
  have k_voteReady : 982252228520496339363840 &&& μ = 982252228520496339363840 := sub_of hw rfl
  have i11 : μ.testBit 11 = true := bit_of hw rfl
  have i13 : μ.testBit 13 = true := bit_of hw rfl
  have i17 : μ.testBit 17 = true := bit_of hw rfl
  have i18 : μ.testBit 18 = true := bit_of hw rfl
  have i21 : μ.testBit 21 = true := bit_of hw rfl
  have i22 : μ.testBit 22 = true := bit_of hw rfl
  have i32 : μ.testBit 32 = true := bit_of hw rfl
  have i33 : μ.testBit 33 = true := bit_of hw rfl
  have i35 : μ.testBit 35 = true := bit_of hw rfl
  have i42 : μ.testBit 42 = true := bit_of hw rfl
  have i43 : μ.testBit 43 = true := bit_of hw rfl
  have i46 : μ.testBit 46 = true := bit_of hw rfl
  have i76 : μ.testBit 76 = true := bit_of hw rfl
  have i78 : μ.testBit 78 = true := bit_of hw rfl
  have i79 : μ.testBit 79 = true := bit_of hw rfl
  induction k generalizing bad i s
  · exact kh
  rename_i ih
  unfold cmpArrive
  repeat' first
    | with_reducible assumption
    | (intro s; with_reducible refine (fun (hs : Kept μ s0 s) => ?_) ?_)
    | intro x
    | lift_lets
    | with_reducible refine ih ?_
    | with_reducible refine kept_cmpEval k_cmpEval ?_
    | with_reducible refine kept_voteReady k_voteReady ?_
    | with_reducible refine kept_cmpReplay k_cmpReplay ?_
    | with_reducible refine kept_modCmp k_modCmp ?_
    | (fail_if_no_progress with_reducible refine Kept.mk' ?_  (h_aln := .inr ⟨i11, sm, .inr i13, sm⟩) (h_isl := .inr i17) (h_sch := .inr ⟨i18, sm, sm, .inr i21⟩) (h_cap := .inr ⟨i22, sm, sm, sm⟩) (h_pub := .inr ⟨i32, .inr i33, sm, .inr i35⟩) (h_hp := .inr ⟨i42, .inr i43, sm, sm, .inr i46, sm, sm, sm, sm, sm, sm, sm⟩) (h_cnt := .inr i76) (h_evLog := .inr i78) (h_evLogSeq := .inr i79))
    | split
    | dsimp +zetaDelta only


theorem kept_timeoutReset {μ : Nat} (hw : 1133367955972316394029056 &&& μ = 1133367955972316394029056) {s0 : State} {c arr : Nat} {s : State}  (kh : Kept μ s0 s) :
    Kept μ s0 (timeoutReset c arr s) := by
  have k_cmpSetOut : 1133367955972282034290688 &&& μ = 1133367955972282034290688 := sub_of hw rfl
  have k_latchDirect : 38654705664 &&& μ = 38654705664 := sub_of hw rfl
  have k_modCmp : 131072 &&& μ = 131072 := sub_of hw rfl
  have i17 : μ.testBit 17 = true := bit_of hw rfl
  have i22 : μ.testBit 22 = true := bit_of hw rfl
  have i32 : μ.testBit 32 = true := bit_of hw rfl
  have i35 : μ.testBit 35 = true := bit_of hw rfl
  have i42 : μ.testBit 42 = true := bit_of hw rfl
  have i43 : μ.testBit 43 = true := bit_of hw rfl
  have i46 : μ.testBit 46 = true := bit_of hw rfl
  have i76 : μ.testBit 76 = true := bit_of hw rfl
  have i77 : μ.testBit 77 = true := bit_of hw rfl
  have i78 : μ.testBit 78 = true := bit_of hw rfl
  have i79 : μ.testBit 79 = true := bit_of hw rfl
  unfold timeoutReset
  repeat' first
    | with_reducible assumption
    | (intro s; with_reducible refine (fun (hs : Kept μ s0 s) => ?_) ?_)
    | intro x
    | lift_lets
    | with_reducible refine kept_latchDirect k_latchDirect ?_
    | with_reducible refine kept_modCmp k_modCmp ?_
    | with_reducible refine kept_cmpSetOut k_cmpSetOut ?_
    | (fail_if_no_progress with_reducible refine Kept.mk' ?_  (h_isl := .inr i17) (h_cap := .inr ⟨i22, sm, sm, sm⟩) (h_pub := .inr ⟨i32, sm, sm, .inr i35⟩) (h_hp := .inr ⟨i42, .inr i43, sm, sm, .inr i46, sm, sm, sm, sm, sm, sm, sm⟩) (h_cnt := .inr i76) (h_limits := .inr i77) (h_evLog := .inr i78) (h_evLogSeq := .inr i79))
    | split
    | dsimp +zetaDelta only

theorem kept_execTimeoutExpiry {μ : Nat} (hw : 1133367955972316394029056 &&& μ = 1133367955972316394029056) {s0 : State} {c : Nat} {s : State}  (kh : Kept μ s0 s) :
    KeptOut μ s0 (execTimeoutExpiry c s) := by
  have k_act : 0 &&& μ = 0 := sub_of hw rfl
  have k_cmpSetOut : 1133367955972282034290688 &&& μ = 1133367955972282034290688 := sub_of hw rfl
  have k_latchDirect : 38654705664 &&& μ = 38654705664 := sub_of hw rfl
  unfold execTimeoutExpiry
  repeat' first
    | with_reducible assumption
    | (intro s; with_reducible refine (fun (hs : Kept μ s0 s) => ?_) ?_)
    | intro x
    | lift_lets
    | with_reducible refine kept_act k_act (fun s hs => ?_) ?_
    | with_reducible refine kept_latchDirect k_latchDirect ?_
    | with_reducible refine kept_cmpSetOut k_cmpSetOut ?_
    | split
    | with_reducible refine KeptOut.mk' ?_
    | dsimp +zetaDelta only

end Sys2Proof.Machine
end

