-- ==== Sys2Proof/Laws/KeptOsc.lean ====
section
/-!
SUPPORT. Sys2Proof/Laws/KeptOsc.lean: every operation of Osc.lean keeps what no command changes, and the parts that it does not write (Kept.lean).
-/
set_option Elab.async false
set_option linter.unusedTactic false
set_option linter.unreachableTactic false
set_option linter.unusedVariables false
namespace Sys2Proof.Machine

theorem kept_modSig {μ : Nat} (hw : 65536 &&& μ = 65536) {s0 : State} {n : Nat} {f : OscSig → OscSig} {s : State}  (kh : Kept μ s0 s) :
    Kept μ s0 (modSig n f s) := by
  have i16 : μ.testBit 16 = true := bit_of hw rfl
  unfold modSig
  repeat' first
    | with_reducible assumption
    | (intro s; with_reducible refine (fun (hs : Kept μ s0 s) => ?_) ?_)
    | intro x
    | lift_lets
    | (fail_if_no_progress with_reducible refine Kept.mk' ?_  (h_osc := .inr i16))
    | split
    | dsimp +zetaDelta only

theorem kept_sigStart {μ : Nat} (hw : 65536 &&& μ = 65536) {s0 : State} {n next : Nat} {s : State}  (kh : Kept μ s0 s) :
    Kept μ s0 (sigStart n next s) := by
  have k_modSig : 65536 &&& μ = 65536 := sub_of hw rfl
  unfold sigStart
  repeat' first
    | with_reducible assumption
    | (intro s; with_reducible refine (fun (hs : Kept μ s0 s) => ?_) ?_)
    | intro x
    | lift_lets
    | with_reducible refine kept_modSig k_modSig ?_
    | split
    | dsimp +zetaDelta only

theorem kept_noteResets {μ : Nat} (hw : 982252228520449088159744 &&& μ = 982252228520449088159744) {s0 : State} {n : Nat} {bins : FMap OscBin} {s : State}  (kh : Kept μ s0 s) :
    Kept μ s0 (noteResets n bins s) := by
  have k_count : 982252228520449088159744 &&& μ = 982252228520449088159744 := sub_of hw rfl
  have k_raise : 906694364785738671718400 &&& μ = 906694364785738671718400 := sub_of hw rfl
  have k_setFlag : 13194139533312 &&& μ = 13194139533312 := sub_of hw rfl
  unfold noteResets
  repeat' first
    | with_reducible assumption
    | (intro s; with_reducible refine (fun (hs : Kept μ s0 s) => ?_) ?_)
    | intro x
    | lift_lets
    | with_reducible refine kept_setFlag k_setFlag ?_
    | with_reducible refine kept_raise k_raise ?_
    | with_reducible refine kept_count k_count ?_
    | with_reducible refine kept_foldl (fun s x hs => ?_) ?_
    | split
    | dsimp +zetaDelta only

theorem kept_sigUpdate {μ : Nat} (hw : 1133367955972277735063552 &&& μ = 1133367955972277735063552) {s0 : State} {n i : Nat} {v : Option (Word × Option Word)} {s : State}  (kh : Kept μ s0 s) :
    Kept μ s0 (sigUpdate n i v s) := by
  have k_count : 982252228520449088159744 &&& μ = 982252228520449088159744 := sub_of hw rfl
  have k_modSig : 65536 &&& μ = 65536 := sub_of hw rfl
  have k_noteResets : 982252228520449088159744 &&& μ = 982252228520449088159744 := sub_of hw rfl
  have k_raise : 906694364785738671718400 &&& μ = 906694364785738671718400 := sub_of hw rfl
  have k_raiseLimited : 1057810092237567318556672 &&& μ = 1057810092237567318556672 := sub_of hw rfl
  have k_setFlag : 13194139533312 &&& μ = 13194139533312 := sub_of hw rfl
  have i16 : μ.testBit 16 = true := bit_of hw rfl
  have i42 : μ.testBit 42 = true := bit_of hw rfl
  have i43 : μ.testBit 43 = true := bit_of hw rfl
  have i46 : μ.testBit 46 = true := bit_of hw rfl
  have i76 : μ.testBit 76 = true := bit_of hw rfl
  have i77 : μ.testBit 77 = true := bit_of hw rfl
  have i78 : μ.testBit 78 = true := bit_of hw rfl
  have i79 : μ.testBit 79 = true := bit_of hw rfl
  unfold sigUpdate
  repeat' first
    | with_reducible assumption
    | (intro s; with_reducible refine (fun (hs : Kept μ s0 s) => ?_) ?_)
    | intro x
    | lift_lets
    | with_reducible refine kept_setFlag k_setFlag ?_
    | with_reducible refine kept_raise k_raise ?_
    | with_reducible refine kept_raiseLimited k_raiseLimited ?_
    | with_reducible refine kept_count k_count ?_
    | with_reducible refine kept_modSig k_modSig ?_
    | with_reducible refine kept_noteResets k_noteResets ?_
    | (fail_if_no_progress with_reducible refine Kept.mk' ?_  (h_osc := .inr i16) (h_hp := .inr ⟨i42, .inr i43, sm, sm, .inr i46, sm, sm, sm, sm, sm, sm, sm⟩) (h_cnt := .inr i76) (h_limits := .inr i77) (h_evLog := .inr i78) (h_evLogSeq := .inr i79))
    | split
    | dsimp +zetaDelta only

theorem kept_modAlm {μ : Nat} (hw : 65536 &&& μ = 65536) {s0 : State} {a : Nat} {f : OscAlm → OscAlm} {s : State}  (kh : Kept μ s0 s) :
    Kept μ s0 (modAlm a f s) := by
  have i16 : μ.testBit 16 = true := bit_of hw rfl
  unfold modAlm
  repeat' first
    | with_reducible assumption
    | (intro s; with_reducible refine (fun (hs : Kept μ s0 s) => ?_) ?_)
    | intro x
    | lift_lets
    | (fail_if_no_progress with_reducible refine Kept.mk' ?_  (h_osc := .inr i16))
    | split
    | dsimp +zetaDelta only

theorem kept_almStep {μ : Nat} (hw : 982252228520449088225280 &&& μ = 982252228520449088225280) {s0 : State} {a i seq : Nat} {t : Bool} {s : State}  (kh : Kept μ s0 s) :
    Kept μ s0 (almStep a i seq t s) := by
  have k_act : 0 &&& μ = 0 := sub_of hw rfl
  have k_count : 982252228520449088159744 &&& μ = 982252228520449088159744 := sub_of hw rfl
  have k_modAlm : 65536 &&& μ = 65536 := sub_of hw rfl
  have k_raise : 906694364785738671718400 &&& μ = 906694364785738671718400 := sub_of hw rfl
  have k_setFlag : 13194139533312 &&& μ = 13194139533312 := sub_of hw rfl
  have i16 : μ.testBit 16 = true := bit_of hw rfl
  have i42 : μ.testBit 42 = true := bit_of hw rfl
  have i43 : μ.testBit 43 = true := bit_of hw rfl
  have i46 : μ.testBit 46 = true := bit_of hw rfl
  have i76 : μ.testBit 76 = true := bit_of hw rfl
  have i78 : μ.testBit 78 = true := bit_of hw rfl
  have i79 : μ.testBit 79 = true := bit_of hw rfl
  unfold almStep
  repeat' first
    | with_reducible assumption
    | (intro s; with_reducible refine (fun (hs : Kept μ s0 s) => ?_) ?_)
    | intro x
    | lift_lets
    | with_reducible refine kept_act k_act (fun s hs => ?_) ?_
    | with_reducible refine kept_setFlag k_setFlag ?_
    | with_reducible refine kept_raise k_raise ?_
    | with_reducible refine kept_count k_count ?_
    | with_reducible refine kept_modAlm k_modAlm ?_
    | (fail_if_no_progress with_reducible refine Kept.mk' ?_  (h_osc := .inr i16) (h_hp := .inr ⟨i42, .inr i43, sm, sm, .inr i46, sm, sm, sm, sm, sm, sm, sm⟩) (h_cnt := .inr i76) (h_evLog := .inr i78) (h_evLogSeq := .inr i79))
    | split
    | dsimp +zetaDelta only

theorem kept_almTest {μ : Nat} (hw : 982252228520449088225280 &&& μ = 982252228520449088225280) {s0 : State} {a n i seq : Nat} {bs : List Nat} {bins : FMap OscBin} {deg : Bool} {s : State}  (kh : Kept μ s0 s) :
    Kept μ s0 (almTest a n i seq bs bins deg s) := by
  have k_almStep : 982252228520449088225280 &&& μ = 982252228520449088225280 := sub_of hw rfl
  have k_count : 982252228520449088159744 &&& μ = 982252228520449088159744 := sub_of hw rfl
  unfold almTest
  repeat' first
    | with_reducible assumption
    | (intro s; with_reducible refine (fun (hs : Kept μ s0 s) => ?_) ?_)
    | intro x
    | lift_lets
    | with_reducible refine kept_count k_count ?_
    | with_reducible refine kept_almStep k_almStep ?_
    | split
    | dsimp +zetaDelta only

theorem kept_almReplay {μ : Nat} (hw : 982252228520449088225280 &&& μ = 982252228520449088225280) {s0 : State} {a n i : Nat} {bins : Nat → List Nat} {s : State}  (kh : Kept μ s0 s) :
    Kept μ s0 (almReplay a n i bins s) := by
  have k_almTest : 982252228520449088225280 &&& μ = 982252228520449088225280 := sub_of hw rfl
  have k_count : 982252228520449088159744 &&& μ = 982252228520449088159744 := sub_of hw rfl
  have k_detReplay : 982252228520449088159744 &&& μ = 982252228520449088159744 := sub_of hw rfl
  have k_modAlm : 65536 &&& μ = 65536 := sub_of hw rfl
  have i16 : μ.testBit 16 = true := bit_of hw rfl
  have i42 : μ.testBit 42 = true := bit_of hw rfl
  have i43 : μ.testBit 43 = true := bit_of hw rfl
  have i46 : μ.testBit 46 = true := bit_of hw rfl
  have i76 : μ.testBit 76 = true := bit_of hw rfl
  have i78 : μ.testBit 78 = true := bit_of hw rfl
  have i79 : μ.testBit 79 = true := bit_of hw rfl
  unfold almReplay
  repeat' first
    | with_reducible assumption
    | (intro s; with_reducible refine (fun (hs : Kept μ s0 s) => ?_) ?_)
    | intro x
    | lift_lets
    | with_reducible refine kept_count k_count ?_
    | with_reducible refine kept_detReplay k_detReplay ?_
    | with_reducible refine kept_modAlm k_modAlm ?_
    | with_reducible refine kept_almTest k_almTest ?_
    | with_reducible refine kept_foldl (fun s x hs => ?_) ?_
    | (fail_if_no_progress with_reducible refine Kept.mk' ?_  (h_osc := .inr i16) (h_hp := .inr ⟨i42, .inr i43, sm, sm, .inr i46, sm, sm, sm, sm, sm, sm, sm⟩) (h_cnt := .inr i76) (h_evLog := .inr i78) (h_evLogSeq := .inr i79))
    | split
    | dsimp +zetaDelta only

theorem kept_almSeal {μ : Nat} (hw : 38658965504 &&& μ = 38658965504) {s0 : State} {a i : Nat} {s : State}  (kh : Kept μ s0 s) :
    Kept μ s0 (almSeal a i s) := by
  have k_capEvent : 4194304 &&& μ = 4194304 := sub_of hw rfl
  have k_latchDirect : 38654705664 &&& μ = 38654705664 := sub_of hw rfl
  have k_modAlm : 65536 &&& μ = 65536 := sub_of hw rfl
  have k_srcMoved : 4294967296 &&& μ = 4294967296 := sub_of hw rfl
  have i16 : μ.testBit 16 = true := bit_of hw rfl
  have i22 : μ.testBit 22 = true := bit_of hw rfl
  have i32 : μ.testBit 32 = true := bit_of hw rfl
  have i35 : μ.testBit 35 = true := bit_of hw rfl
  unfold almSeal
  repeat' first
    | with_reducible assumption
    | (intro s; with_reducible refine (fun (hs : Kept μ s0 s) => ?_) ?_)
    | intro x
    | lift_lets
    | with_reducible refine kept_latchDirect k_latchDirect ?_
    | with_reducible refine kept_capEvent k_capEvent ?_
    | with_reducible refine kept_srcMoved k_srcMoved ?_
    | with_reducible refine kept_modAlm k_modAlm ?_
    | with_reducible refine kept_foldl (fun s x hs => ?_) ?_
    | (fail_if_no_progress with_reducible refine Kept.mk' ?_  (h_osc := .inr i16) (h_cap := .inr ⟨i22, sm, sm, sm⟩) (h_pub := .inr ⟨i32, sm, sm, .inr i35⟩))
    | split
    | dsimp +zetaDelta only

theorem kept_sigAlmUpdate {μ : Nat} (hw : 982252228520496339429376 &&& μ = 982252228520496339429376) {s0 : State} {bad : List Nat} {n i : Nat} {s : State}  (kh : Kept μ s0 s) :
    Kept μ s0 (sigAlmUpdate bad n i s) := by
  have k_almReplay : 982252228520449088225280 &&& μ = 982252228520449088225280 := sub_of hw rfl
  have k_almSeal : 38658965504 &&& μ = 38658965504 := sub_of hw rfl
  have k_almTest : 982252228520449088225280 &&& μ = 982252228520449088225280 := sub_of hw rfl
  have k_voteReady : 982252228520496339363840 &&& μ = 982252228520496339363840 := sub_of hw rfl
  unfold sigAlmUpdate
  repeat' first
    | with_reducible assumption
    | (intro s; with_reducible refine (fun (hs : Kept μ s0 s) => ?_) ?_)
    | intro x
    | lift_lets
    | with_reducible refine kept_voteReady k_voteReady ?_
    | with_reducible refine kept_almTest k_almTest ?_
    | with_reducible refine kept_almReplay k_almReplay ?_
    | with_reducible refine kept_almSeal k_almSeal ?_
    | with_reducible refine kept_foldl (fun s x hs => ?_) ?_
    | split
    | dsimp +zetaDelta only

theorem kept_sigReport {μ : Nat} (hw : 2256197860196352 &&& μ = 2256197860196352) {s0 : State} {n i : Nat} {s : State}  (kh : Kept μ s0 s) :
    Kept μ s0 (sigReport n i s) := by
  have k_harvest : 2256197860196352 &&& μ = 2256197860196352 := sub_of hw rfl
  have i42 : μ.testBit 42 = true := bit_of hw rfl
  have i51 : μ.testBit 51 = true := bit_of hw rfl
  unfold sigReport
  repeat' first
    | with_reducible assumption
    | (intro s; with_reducible refine (fun (hs : Kept μ s0 s) => ?_) ?_)
    | intro x
    | lift_lets
    | with_reducible refine kept_harvest k_harvest ?_
    | (fail_if_no_progress with_reducible refine Kept.mk' ?_  (h_hp := .inr ⟨i42, sm, sm, sm, sm, sm, sm, sm, sm, .inr i51, sm, sm⟩))
    | split
    | dsimp +zetaDelta only

theorem kept_modMode {μ : Nat} (hw : 65536 &&& μ = 65536) {s0 : State} {m : Nat} {f : OscMode → OscMode} {s : State}  (kh : Kept μ s0 s) :
    Kept μ s0 (modMode m f s) := by
  have i16 : μ.testBit 16 = true := bit_of hw rfl
  unfold modMode
  repeat' first
    | with_reducible assumption
    | (intro s; with_reducible refine (fun (hs : Kept μ s0 s) => ?_) ?_)
    | intro x
    | lift_lets
    | (fail_if_no_progress with_reducible refine Kept.mk' ?_  (h_osc := .inr i16))
    | split
    | dsimp +zetaDelta only

theorem kept_modeEval {μ : Nat} (hw : 982252230772287560810496 &&& μ = 982252230772287560810496) {s0 : State} {bad : List Nat} {m i : Nat} {acc : State × List Nat} (kh : KeptF μ s0 acc) :
    KeptF μ s0 (modeEval bad m i acc) := by
  have k_almReplay : 982252228520449088225280 &&& μ = 982252228520449088225280 := sub_of hw rfl
  have k_almSeal : 38658965504 &&& μ = 38658965504 := sub_of hw rfl
  have k_almTest : 982252228520449088225280 &&& μ = 982252228520449088225280 := sub_of hw rfl
  have k_count : 982252228520449088159744 &&& μ = 982252228520449088159744 := sub_of hw rfl
  have k_harvest : 2256197860196352 &&& μ = 2256197860196352 := sub_of hw rfl
  have k_modMode : 65536 &&& μ = 65536 := sub_of hw rfl
  have k_raise : 906694364785738671718400 &&& μ = 906694364785738671718400 := sub_of hw rfl
  have k_setFlag : 13194139533312 &&& μ = 13194139533312 := sub_of hw rfl
  have i16 : μ.testBit 16 = true := bit_of hw rfl
  have i22 : μ.testBit 22 = true := bit_of hw rfl
  have i32 : μ.testBit 32 = true := bit_of hw rfl
  have i35 : μ.testBit 35 = true := bit_of hw rfl
  have i42 : μ.testBit 42 = true := bit_of hw rfl
  have i43 : μ.testBit 43 = true := bit_of hw rfl
  have i46 : μ.testBit 46 = true := bit_of hw rfl
  have i51 : μ.testBit 51 = true := bit_of hw rfl
  have i76 : μ.testBit 76 = true := bit_of hw rfl
  have i78 : μ.testBit 78 = true := bit_of hw rfl
  have i79 : μ.testBit 79 = true := bit_of hw rfl
  obtain ⟨s, l⟩ := acc
  have kh : Kept μ s0 s := kh.out
  unfold modeEval
  repeat' first
    | with_reducible assumption
    | (intro s; with_reducible refine (fun (hs : Kept μ s0 s) => ?_) ?_)
    | intro x
    | lift_lets
    | with_reducible refine kept_modMode k_modMode ?_
    | with_reducible refine kept_raise k_raise ?_
    | with_reducible refine kept_setFlag k_setFlag ?_
    | with_reducible refine kept_count k_count ?_
    | with_reducible refine kept_almSeal k_almSeal ?_
    | with_reducible refine kept_almTest k_almTest ?_
    | with_reducible refine kept_almReplay k_almReplay ?_
    | with_reducible refine kept_harvest k_harvest ?_
    | with_reducible refine kept_foldl (fun s x hs => ?_) ?_
    | (fail_if_no_progress with_reducible refine Kept.mk' ?_  (h_osc := .inr i16) (h_cap := .inr ⟨i22, sm, sm, sm⟩) (h_pub := .inr ⟨i32, sm, sm, .inr i35⟩) (h_hp := .inr ⟨i42, .inr i43, sm, sm, .inr i46, sm, sm, sm, sm, .inr i51, sm, sm⟩) (h_cnt := .inr i76) (h_evLog := .inr i78) (h_evLogSeq := .inr i79))
    | split
    | with_reducible refine KeptF.mk' ?_
    | dsimp +zetaDelta only


theorem kept_modeReplay {μ : Nat} (hw : 982252230772287560810496 &&& μ = 982252230772287560810496) {s0 : State} {m i : Nat} {s : State}  (kh : Kept μ s0 s) :
    Kept μ s0 (modeReplay m i s) := by
  have k_modMode : 65536 &&& μ = 65536 := sub_of hw rfl
  unfold modeReplay
  dsimp only
  exact kept_modMode k_modMode kh

theorem kept_famStart {μ : Nat} (hw : 65536 &&& μ = 65536) {s0 : State} {g i0 : Nat} {s : State}  (kh : Kept μ s0 s) :
    Kept μ s0 (famStart g i0 s) := by
  have i16 : μ.testBit 16 = true := bit_of hw rfl
  unfold famStart
  repeat' first
    | with_reducible assumption
    | (intro s; with_reducible refine (fun (hs : Kept μ s0 s) => ?_) ?_)
    | intro x
    | lift_lets
    | with_reducible refine kept_foldl (fun s x hs => ?_) ?_
    | (fail_if_no_progress with_reducible refine Kept.mk' ?_  (h_osc := .inr i16))
    | split
    | dsimp +zetaDelta only

end Sys2Proof.Machine
end

