-- ==== Sys2Proof/Laws/KeptIsland.lean ====
section
/-!
SUPPORT. Sys2Proof/Laws/KeptIsland.lean: every operation of Island.lean keeps what no command changes, and the parts that it does not write (Kept.lean).
-/
set_option Elab.async false
set_option linter.unusedTactic false
set_option linter.unreachableTactic false
set_option linter.unusedVariables false
namespace Sys2Proof.Machine

theorem kept_modGrpIsl {μ : Nat} (hw : 131072 &&& μ = 131072) {s0 : State} {g : Nat} {f : IslGrp → IslGrp} {s : State}  (kh : Kept μ s0 s) :
    Kept μ s0 (modGrpIsl g f s) := by
  have i17 : μ.testBit 17 = true := bit_of hw rfl
  unfold modGrpIsl
  repeat' first
    | with_reducible assumption
    | (intro s; with_reducible refine (fun (hs : Kept μ s0 s) => ?_) ?_)
    | intro x
    | lift_lets
    | (fail_if_no_progress with_reducible refine Kept.mk' ?_  (h_isl := .inr i17))
    | split
    | dsimp +zetaDelta only

theorem kept_modPair {μ : Nat} (hw : 131072 &&& μ = 131072) {s0 : State} {p : Nat} {f : IslPair → IslPair} {s : State}  (kh : Kept μ s0 s) :
    Kept μ s0 (modPair p f s) := by
  have i17 : μ.testBit 17 = true := bit_of hw rfl
  unfold modPair
  repeat' first
    | with_reducible assumption
    | (intro s; with_reducible refine (fun (hs : Kept μ s0 s) => ?_) ?_)
    | intro x
    | lift_lets
    | (fail_if_no_progress with_reducible refine Kept.mk' ?_  (h_isl := .inr i17))
    | split
    | dsimp +zetaDelta only

theorem kept_modIcn {μ : Nat} (hw : 131072 &&& μ = 131072) {s0 : State} {i : Nat} {f : Icn → Icn} {s : State}  (kh : Kept μ s0 s) :
    Kept μ s0 (modIcn i f s) := by
  have i17 : μ.testBit 17 = true := bit_of hw rfl
  unfold modIcn
  repeat' first
    | with_reducible assumption
    | (intro s; with_reducible refine (fun (hs : Kept μ s0 s) => ?_) ?_)
    | intro x
    | lift_lets
    | (fail_if_no_progress with_reducible refine Kept.mk' ?_  (h_isl := .inr i17))
    | split
    | dsimp +zetaDelta only

theorem kept_evalGroup {μ : Nat} (hw : 982252228520449088290816 &&& μ = 982252228520449088290816) {s0 : State} {g inst : Nat} {s : State}  (kh : Kept μ s0 s) :
    Kept μ s0 (evalGroup g inst s) := by
  have k_count : 982252228520449088159744 &&& μ = 982252228520449088159744 := sub_of hw rfl
  have k_modGrpIsl : 131072 &&& μ = 131072 := sub_of hw rfl
  have i17 : μ.testBit 17 = true := bit_of hw rfl
  have i42 : μ.testBit 42 = true := bit_of hw rfl
  have i43 : μ.testBit 43 = true := bit_of hw rfl
  have i46 : μ.testBit 46 = true := bit_of hw rfl
  have i76 : μ.testBit 76 = true := bit_of hw rfl
  have i78 : μ.testBit 78 = true := bit_of hw rfl
  have i79 : μ.testBit 79 = true := bit_of hw rfl
  unfold evalGroup
  repeat' first
    | with_reducible assumption
    | (intro s; with_reducible refine (fun (hs : Kept μ s0 s) => ?_) ?_)
    | intro x
    | lift_lets
    | with_reducible refine kept_count k_count ?_
    | with_reducible refine kept_modGrpIsl k_modGrpIsl ?_
    | with_reducible refine kept_foldl (fun s x hs => ?_) ?_
    | (fail_if_no_progress with_reducible refine Kept.mk' ?_  (h_isl := .inr i17) (h_hp := .inr ⟨i42, .inr i43, sm, sm, .inr i46, sm, sm, sm, sm, sm, sm, sm⟩) (h_cnt := .inr i76) (h_evLog := .inr i78) (h_evLogSeq := .inr i79))
    | split
    | dsimp +zetaDelta only

theorem kept_evalPair {μ : Nat} (hw : 982252228520449092485120 &&& μ = 982252228520449092485120) {s0 : State} {i p inst seq : Nat} {s : State}  (kh : Kept μ s0 s) :
    Kept μ s0 (evalPair i p inst seq s) := by
  have k_capEvent : 4194304 &&& μ = 4194304 := sub_of hw rfl
  have k_count : 982252228520449088159744 &&& μ = 982252228520449088159744 := sub_of hw rfl
  have k_modPair : 131072 &&& μ = 131072 := sub_of hw rfl
  have k_raise : 906694364785738671718400 &&& μ = 906694364785738671718400 := sub_of hw rfl
  have k_setFlag : 13194139533312 &&& μ = 13194139533312 := sub_of hw rfl
  have i17 : μ.testBit 17 = true := bit_of hw rfl
  have i22 : μ.testBit 22 = true := bit_of hw rfl
  have i42 : μ.testBit 42 = true := bit_of hw rfl
  have i43 : μ.testBit 43 = true := bit_of hw rfl
  have i46 : μ.testBit 46 = true := bit_of hw rfl
  have i76 : μ.testBit 76 = true := bit_of hw rfl
  have i78 : μ.testBit 78 = true := bit_of hw rfl
  have i79 : μ.testBit 79 = true := bit_of hw rfl
  unfold evalPair
  repeat' first
    | with_reducible assumption
    | (intro s; with_reducible refine (fun (hs : Kept μ s0 s) => ?_) ?_)
    | intro x
    | lift_lets
    | with_reducible refine kept_setFlag k_setFlag ?_
    | with_reducible refine kept_raise k_raise ?_
    | with_reducible refine kept_count k_count ?_
    | with_reducible refine kept_capEvent k_capEvent ?_
    | with_reducible refine kept_modPair k_modPair ?_
    | (fail_if_no_progress with_reducible refine Kept.mk' ?_  (h_isl := .inr i17) (h_cap := .inr ⟨i22, sm, sm, sm⟩) (h_hp := .inr ⟨i42, .inr i43, sm, sm, .inr i46, sm, sm, sm, sm, sm, sm, sm⟩) (h_cnt := .inr i76) (h_evLog := .inr i78) (h_evLogSeq := .inr i79))
    | split
    | dsimp +zetaDelta only

theorem kept_evalTie {μ : Nat} (hw : 1133367955972277735129089 &&& μ = 1133367955972277735129089) {s0 : State} {i t inst : Nat} {s : State}  (kh : Kept μ s0 s) :
    Kept μ s0 (evalTie i t inst s) := by
  have k_count : 982252228520449088159744 &&& μ = 982252228520449088159744 := sub_of hw rfl
  have k_raiseLimited : 1057810092237567318556672 &&& μ = 1057810092237567318556672 := sub_of hw rfl
  have k_seen : 1 &&& μ = 1 := sub_of hw rfl
  have k_setFlag : 13194139533312 &&& μ = 13194139533312 := sub_of hw rfl
  have i0 : μ.testBit 0 = true := bit_of hw rfl
  have i17 : μ.testBit 17 = true := bit_of hw rfl
  have i42 : μ.testBit 42 = true := bit_of hw rfl
  have i43 : μ.testBit 43 = true := bit_of hw rfl
  have i46 : μ.testBit 46 = true := bit_of hw rfl
  have i76 : μ.testBit 76 = true := bit_of hw rfl
  have i77 : μ.testBit 77 = true := bit_of hw rfl
  have i78 : μ.testBit 78 = true := bit_of hw rfl
  have i79 : μ.testBit 79 = true := bit_of hw rfl
  unfold evalTie
  repeat' first
    | with_reducible assumption
    | (intro s; with_reducible refine (fun (hs : Kept μ s0 s) => ?_) ?_)
    | intro x
    | lift_lets
    | with_reducible refine kept_setFlag k_setFlag ?_
    | with_reducible refine kept_seen k_seen ?_
    | with_reducible refine kept_raiseLimited k_raiseLimited ?_
    | with_reducible refine kept_count k_count ?_
    | (fail_if_no_progress with_reducible refine Kept.mk' ?_  (h_tb := .inr ⟨i0, sm, sm, sm⟩) (h_isl := .inr i17) (h_hp := .inr ⟨i42, .inr i43, sm, sm, .inr i46, sm, sm, sm, sm, sm, sm, sm⟩) (h_cnt := .inr i76) (h_limits := .inr i77) (h_evLog := .inr i78) (h_evLogSeq := .inr i79))
    | split
    | dsimp +zetaDelta only

theorem kept_evalIslanding {μ : Nat} (hw : 982252228520449092485120 &&& μ = 982252228520449092485120) {s0 : State} {i p inst seq : Nat} {s : State}  (kh : Kept μ s0 s) :
    Kept μ s0 (evalIslanding i p inst seq s) := by
  have k_capEvent : 4194304 &&& μ = 4194304 := sub_of hw rfl
  have k_count : 982252228520449088159744 &&& μ = 982252228520449088159744 := sub_of hw rfl
  have k_modPair : 131072 &&& μ = 131072 := sub_of hw rfl
  have k_raise : 906694364785738671718400 &&& μ = 906694364785738671718400 := sub_of hw rfl
  have k_setFlag : 13194139533312 &&& μ = 13194139533312 := sub_of hw rfl
  have i17 : μ.testBit 17 = true := bit_of hw rfl
  have i22 : μ.testBit 22 = true := bit_of hw rfl
  have i42 : μ.testBit 42 = true := bit_of hw rfl
  have i43 : μ.testBit 43 = true := bit_of hw rfl
  have i46 : μ.testBit 46 = true := bit_of hw rfl
  have i76 : μ.testBit 76 = true := bit_of hw rfl
  have i78 : μ.testBit 78 = true := bit_of hw rfl
  have i79 : μ.testBit 79 = true := bit_of hw rfl
  unfold evalIslanding
  repeat' first
    | with_reducible assumption
    | (intro s; with_reducible refine (fun (hs : Kept μ s0 s) => ?_) ?_)
    | intro x
    | lift_lets
    | with_reducible refine kept_setFlag k_setFlag ?_
    | with_reducible refine kept_raise k_raise ?_
    | with_reducible refine kept_count k_count ?_
    | with_reducible refine kept_capEvent k_capEvent ?_
    | with_reducible refine kept_modPair k_modPair ?_
    | (fail_if_no_progress with_reducible refine Kept.mk' ?_  (h_isl := .inr i17) (h_cap := .inr ⟨i22, sm, sm, sm⟩) (h_hp := .inr ⟨i42, .inr i43, sm, sm, .inr i46, sm, sm, sm, sm, sm, sm, sm⟩) (h_cnt := .inr i76) (h_evLog := .inr i78) (h_evLogSeq := .inr i79))
    | split
    | dsimp +zetaDelta only

theorem kept_evalMap {μ : Nat} (hw : 131072 &&& μ = 131072) {s0 : State} {i seq : Nat} {s : State}  (kh : Kept μ s0 s) :
    KeptF μ s0 (evalMap i seq s) := by
  have k_modGrpIsl : 131072 &&& μ = 131072 := sub_of hw rfl
  have k_modIcn : 131072 &&& μ = 131072 := sub_of hw rfl
  have i17 : μ.testBit 17 = true := bit_of hw rfl
  unfold evalMap
  repeat' first
    | with_reducible assumption
    | (intro s; with_reducible refine (fun (hs : Kept μ s0 s) => ?_) ?_)
    | intro x
    | lift_lets
    | with_reducible refine kept_modGrpIsl k_modGrpIsl ?_
    | with_reducible refine kept_modIcn k_modIcn ?_
    | with_reducible refine kept_foldl (fun s x hs => ?_) ?_
    | (fail_if_no_progress with_reducible refine Kept.mk' ?_  (h_isl := .inr i17))
    | split
    | with_reducible refine KeptF.mk' ?_
    | dsimp +zetaDelta only

theorem kept_markSigs {μ : Nat} (hw : 131072 &&& μ = 131072) {s0 : State} {i inst : Nat} {s : State}  (kh : Kept μ s0 s) :
    Kept μ s0 (markSigs i inst s) := by
  have i17 : μ.testBit 17 = true := bit_of hw rfl
  unfold markSigs
  repeat' first
    | with_reducible assumption
    | (intro s; with_reducible refine (fun (hs : Kept μ s0 s) => ?_) ?_)
    | intro x
    | lift_lets
    | with_reducible refine kept_foldl (fun s x hs => ?_) ?_
    | (fail_if_no_progress with_reducible refine Kept.mk' ?_  (h_isl := .inr i17))
    | split
    | dsimp +zetaDelta only

theorem kept_islandSteps {μ : Nat} (hw : 1133367955972277739323393 &&& μ = 1133367955972277739323393) {s0 : State} {i inst seq : Nat} {s : State}  (kh : Kept μ s0 s) :
    KeptF μ s0 (islandSteps i inst seq s) := by
  have k_evalGroup : 982252228520449088290816 &&& μ = 982252228520449088290816 := sub_of hw rfl
  have k_evalIslanding : 982252228520449092485120 &&& μ = 982252228520449092485120 := sub_of hw rfl
  have k_evalMap : 131072 &&& μ = 131072 := sub_of hw rfl
  have k_evalPair : 982252228520449092485120 &&& μ = 982252228520449092485120 := sub_of hw rfl
  have k_evalTie : 1133367955972277735129089 &&& μ = 1133367955972277735129089 := sub_of hw rfl
  have k_markSigs : 131072 &&& μ = 131072 := sub_of hw rfl
  unfold islandSteps
  repeat' first
    | with_reducible assumption
    | (intro s; with_reducible refine (fun (hs : Kept μ s0 s) => ?_) ?_)
    | intro x
    | lift_lets
    | with_reducible refine kept_evalGroup k_evalGroup ?_
    | with_reducible refine kept_evalPair k_evalPair ?_
    | with_reducible refine kept_evalTie k_evalTie ?_
    | with_reducible refine kept_evalIslanding k_evalIslanding ?_
    | with_reducible refine kept_evalMap k_evalMap ?_
    | with_reducible refine kept_markSigs k_markSigs ?_
    | with_reducible refine kept_foldl (fun s x hs => ?_) ?_
    | with_reducible refine KeptF.eq (by with_reducible assumption) ?_
    | split
    | with_reducible refine KeptF.mk' ?_
    | with_reducible refine KeptF.fst ?_
    | dsimp +zetaDelta only

theorem kept_icnStart {μ : Nat} (hw : 131072 &&& μ = 131072) {s0 : State} {i inst : Nat} {s : State}  (kh : Kept μ s0 s) :
    Kept μ s0 (icnStart i inst s) := by
  have k_modCmp : 131072 &&& μ = 131072 := sub_of hw rfl
  have k_modGrpIsl : 131072 &&& μ = 131072 := sub_of hw rfl
  have i17 : μ.testBit 17 = true := bit_of hw rfl
  unfold icnStart
  repeat' first
    | with_reducible assumption
    | (intro s; with_reducible refine (fun (hs : Kept μ s0 s) => ?_) ?_)
    | intro x
    | lift_lets
    | with_reducible refine kept_modCmp k_modCmp ?_
    | with_reducible refine kept_modGrpIsl k_modGrpIsl ?_
    | with_reducible refine kept_foldl (fun s x hs => ?_) ?_
    | (fail_if_no_progress with_reducible refine Kept.mk' ?_  (h_isl := .inr i17))
    | split
    | dsimp +zetaDelta only

theorem kept_islRerun {μ : Nat} (hw : 1133367955972277739323393 &&& μ = 1133367955972277739323393) {s0 : State} {i : Nat} {s : State}  (kh : Kept μ s0 s) :
    Kept μ s0 (islRerun i s) := by
  have k_cmpEval : 982252228520449088290816 &&& μ = 982252228520449088290816 := sub_of hw rfl
  have k_icnStart : 131072 &&& μ = 131072 := sub_of hw rfl
  have k_islandSteps : 1133367955972277739323393 &&& μ = 1133367955972277739323393 := sub_of hw rfl
  have i0 : μ.testBit 0 = true := bit_of hw rfl
  have i17 : μ.testBit 17 = true := bit_of hw rfl
  have i22 : μ.testBit 22 = true := bit_of hw rfl
  have i42 : μ.testBit 42 = true := bit_of hw rfl
  have i43 : μ.testBit 43 = true := bit_of hw rfl
  have i46 : μ.testBit 46 = true := bit_of hw rfl
  have i76 : μ.testBit 76 = true := bit_of hw rfl
  have i77 : μ.testBit 77 = true := bit_of hw rfl
  have i78 : μ.testBit 78 = true := bit_of hw rfl
  have i79 : μ.testBit 79 = true := bit_of hw rfl
  unfold islRerun
  repeat' first
    | with_reducible assumption
    | (intro s; with_reducible refine (fun (hs : Kept μ s0 s) => ?_) ?_)
    | intro x
    | lift_lets
    | with_reducible refine kept_cmpEval k_cmpEval ?_
    | with_reducible refine kept_islandSteps k_islandSteps ?_
    | with_reducible refine kept_icnStart k_icnStart ?_
    | with_reducible refine kept_foldl (fun s x hs => ?_) ?_
    | with_reducible refine KeptF.eq (by with_reducible assumption) ?_
    | (fail_if_no_progress with_reducible refine Kept.mk' ?_  (h_tb := .inr ⟨i0, sm, sm, sm⟩) (h_isl := .inr i17) (h_cap := .inr ⟨i22, sm, sm, sm⟩) (h_hp := .inr ⟨i42, .inr i43, sm, sm, .inr i46, sm, sm, sm, sm, sm, sm, sm⟩) (h_cnt := .inr i76) (h_limits := .inr i77) (h_evLog := .inr i78) (h_evLogSeq := .inr i79))
    | split
    | with_reducible refine KeptF.mk' ?_
    | with_reducible refine KeptF.fst ?_
    | dsimp +zetaDelta only

theorem kept_islReplay {μ : Nat} (hw : 1133367955972277739323393 &&& μ = 1133367955972277739323393) {s0 : State} {i : Nat} {s : State}  (kh : Kept μ s0 s) :
    Kept μ s0 (islReplay i s) := by
  have k_detReplay : 982252228520449088159744 &&& μ = 982252228520449088159744 := sub_of hw rfl
  have k_islRerun : 1133367955972277739323393 &&& μ = 1133367955972277739323393 := sub_of hw rfl
  have i0 : μ.testBit 0 = true := bit_of hw rfl
  have i17 : μ.testBit 17 = true := bit_of hw rfl
  have i22 : μ.testBit 22 = true := bit_of hw rfl
  have i42 : μ.testBit 42 = true := bit_of hw rfl
  have i43 : μ.testBit 43 = true := bit_of hw rfl
  have i46 : μ.testBit 46 = true := bit_of hw rfl
  have i76 : μ.testBit 76 = true := bit_of hw rfl
  have i77 : μ.testBit 77 = true := bit_of hw rfl
  have i78 : μ.testBit 78 = true := bit_of hw rfl
  have i79 : μ.testBit 79 = true := bit_of hw rfl
  unfold islReplay
  repeat' first
    | with_reducible assumption
    | (intro s; with_reducible refine (fun (hs : Kept μ s0 s) => ?_) ?_)
    | intro x
    | lift_lets
    | with_reducible refine kept_detReplay k_detReplay ?_
    | with_reducible refine kept_islRerun k_islRerun ?_
    | (fail_if_no_progress with_reducible refine Kept.mk' ?_  (h_tb := .inr ⟨i0, sm, sm, sm⟩) (h_isl := .inr i17) (h_cap := .inr ⟨i22, sm, sm, sm⟩) (h_hp := .inr ⟨i42, .inr i43, sm, sm, .inr i46, sm, sm, sm, sm, sm, sm, sm⟩) (h_cnt := .inr i76) (h_limits := .inr i77) (h_evLog := .inr i78) (h_evLogSeq := .inr i79))
    | split
    | dsimp +zetaDelta only

theorem kept_icnCmpReplay {μ : Nat} (hw : 1133367955972277739323393 &&& μ = 1133367955972277739323393) {s0 : State} {i c : Nat} {s : State}  (kh : Kept μ s0 s) :
    Kept μ s0 (icnCmpReplay i c s) := by
  have k_detReplay : 982252228520449088159744 &&& μ = 982252228520449088159744 := sub_of hw rfl
  have k_islRerun : 1133367955972277739323393 &&& μ = 1133367955972277739323393 := sub_of hw rfl
  have k_modCmp : 131072 &&& μ = 131072 := sub_of hw rfl
  have i0 : μ.testBit 0 = true := bit_of hw rfl
  have i17 : μ.testBit 17 = true := bit_of hw rfl
  have i22 : μ.testBit 22 = true := bit_of hw rfl
  have i42 : μ.testBit 42 = true := bit_of hw rfl
  have i43 : μ.testBit 43 = true := bit_of hw rfl
  have i46 : μ.testBit 46 = true := bit_of hw rfl
  have i76 : μ.testBit 76 = true := bit_of hw rfl
  have i77 : μ.testBit 77 = true := bit_of hw rfl
  have i78 : μ.testBit 78 = true := bit_of hw rfl
  have i79 : μ.testBit 79 = true := bit_of hw rfl
  unfold icnCmpReplay
  repeat' first
    | with_reducible assumption
    | (intro s; with_reducible refine (fun (hs : Kept μ s0 s) => ?_) ?_)
    | intro x
    | lift_lets
    | with_reducible refine kept_detReplay k_detReplay ?_
    | with_reducible refine kept_modCmp k_modCmp ?_
    | with_reducible refine kept_islRerun k_islRerun ?_
    | (fail_if_no_progress with_reducible refine Kept.mk' ?_  (h_tb := .inr ⟨i0, sm, sm, sm⟩) (h_isl := .inr i17) (h_cap := .inr ⟨i22, sm, sm, sm⟩) (h_hp := .inr ⟨i42, .inr i43, sm, sm, .inr i46, sm, sm, sm, sm, sm, sm, sm⟩) (h_cnt := .inr i76) (h_limits := .inr i77) (h_evLog := .inr i78) (h_evLogSeq := .inr i79))
    | split
    | dsimp +zetaDelta only

theorem kept_islKeep {μ : Nat} (hw : 131072 &&& μ = 131072) {s0 : State} {i inst : Nat} {s : State}  (kh : Kept μ s0 s) :
    Kept μ s0 (islKeep i inst s) := by
  have k_modGrpIsl : 131072 &&& μ = 131072 := sub_of hw rfl
  have k_modPair : 131072 &&& μ = 131072 := sub_of hw rfl
  have i17 : μ.testBit 17 = true := bit_of hw rfl
  unfold islKeep
  repeat' first
    | with_reducible assumption
    | (intro s; with_reducible refine (fun (hs : Kept μ s0 s) => ?_) ?_)
    | intro x
    | lift_lets
    | with_reducible refine kept_modGrpIsl k_modGrpIsl ?_
    | with_reducible refine kept_modPair k_modPair ?_
    | with_reducible refine kept_foldl (fun s x hs => ?_) ?_
    | (fail_if_no_progress with_reducible refine Kept.mk' ?_  (h_isl := .inr i17))
    | split
    | dsimp +zetaDelta only

theorem kept_islMoved {μ : Nat} (hw : 4294967296 &&& μ = 4294967296) {s0 : State} {was : Isl} {i due : Nat} {s : State}  (kh : Kept μ s0 s) :
    Kept μ s0 (islMoved was i due s) := by
  have k_srcMoved : 4294967296 &&& μ = 4294967296 := sub_of hw rfl
  unfold islMoved
  repeat' first
    | with_reducible assumption
    | (intro s; with_reducible refine (fun (hs : Kept μ s0 s) => ?_) ?_)
    | intro x
    | lift_lets
    | with_reducible refine kept_srcMoved k_srcMoved ?_
    | with_reducible refine kept_foldl (fun s x hs => ?_) ?_
    | split
    | dsimp +zetaDelta only

theorem kept_islandEval {μ : Nat} (hw : 1133367958224116207714305 &&& μ = 1133367958224116207714305) {s0 : State} {bad : List Nat} {i : Nat} {s : State}  (kh : Kept μ s0 s) :
    Kept μ s0 (islandEval bad i s) := by
  have k_cmpEval : 982252228520449088290816 &&& μ = 982252228520449088290816 := sub_of hw rfl
  have k_cmpSetOut : 1133367955972282034290688 &&& μ = 1133367955972282034290688 := sub_of hw rfl
  have k_count : 982252228520449088159744 &&& μ = 982252228520449088159744 := sub_of hw rfl
  have k_harvest : 2256197860196352 &&& μ = 2256197860196352 := sub_of hw rfl
  have k_icnCmpReplay : 1133367955972277739323393 &&& μ = 1133367955972277739323393 := sub_of hw rfl
  have k_islKeep : 131072 &&& μ = 131072 := sub_of hw rfl
  have k_islMoved : 4294967296 &&& μ = 4294967296 := sub_of hw rfl
  have k_islandSteps : 1133367955972277739323393 &&& μ = 1133367955972277739323393 := sub_of hw rfl
  have k_latchDirect : 38654705664 &&& μ = 38654705664 := sub_of hw rfl
  have k_modCmp : 131072 &&& μ = 131072 := sub_of hw rfl
  have k_modIcn : 131072 &&& μ = 131072 := sub_of hw rfl
  have k_raise : 906694364785738671718400 &&& μ = 906694364785738671718400 := sub_of hw rfl
  have i0 : μ.testBit 0 = true := bit_of hw rfl
  have i17 : μ.testBit 17 = true := bit_of hw rfl
  have i22 : μ.testBit 22 = true := bit_of hw rfl
  have i32 : μ.testBit 32 = true := bit_of hw rfl
  have i35 : μ.testBit 35 = true := bit_of hw rfl
  have i42 : μ.testBit 42 = true := bit_of hw rfl
  have i43 : μ.testBit 43 = true := bit_of hw rfl
  have i46 : μ.testBit 46 = true := bit_of hw rfl
  have i51 : μ.testBit 51 = true := bit_of hw rfl
  have i76 : μ.testBit 76 = true := bit_of hw rfl
  have i77 : μ.testBit 77 = true := bit_of hw rfl
  have i78 : μ.testBit 78 = true := bit_of hw rfl
  have i79 : μ.testBit 79 = true := bit_of hw rfl
  unfold islandEval
  repeat' first
    | with_reducible assumption
    | (intro s; with_reducible refine (fun (hs : Kept μ s0 s) => ?_) ?_)
    | intro x
    | lift_lets
    | with_reducible refine kept_raise k_raise ?_
    | with_reducible refine kept_count k_count ?_
    | with_reducible refine kept_latchDirect k_latchDirect ?_
    | with_reducible refine kept_harvest k_harvest ?_
    | with_reducible refine kept_modCmp k_modCmp ?_
    | with_reducible refine kept_cmpEval k_cmpEval ?_
    | with_reducible refine kept_cmpSetOut k_cmpSetOut ?_
    | with_reducible refine kept_modIcn k_modIcn ?_
    | with_reducible refine kept_islandSteps k_islandSteps ?_
    | with_reducible refine kept_icnCmpReplay k_icnCmpReplay ?_
    | with_reducible refine kept_islKeep k_islKeep ?_
    | with_reducible refine kept_islMoved k_islMoved ?_
    | with_reducible refine kept_foldl (fun s x hs => ?_) ?_
    | with_reducible refine KeptF.eq (by with_reducible assumption) ?_
    | (fail_if_no_progress with_reducible refine Kept.mk' ?_  (h_tb := .inr ⟨i0, sm, sm, sm⟩) (h_isl := .inr i17) (h_cap := .inr ⟨i22, sm, sm, sm⟩) (h_pub := .inr ⟨i32, sm, sm, .inr i35⟩) (h_hp := .inr ⟨i42, .inr i43, sm, sm, .inr i46, sm, sm, sm, sm, .inr i51, sm, sm⟩) (h_cnt := .inr i76) (h_limits := .inr i77) (h_evLog := .inr i78) (h_evLogSeq := .inr i79))
    | split
    | with_reducible refine KeptF.mk' ?_
    | with_reducible refine KeptF.fst ?_
    | dsimp +zetaDelta only

theorem kept_icnsStart {μ : Nat} (hw : 131072 &&& μ = 131072) {s0 : State} {g : Nat} {s : State}  (kh : Kept μ s0 s) :
    Kept μ s0 (icnsStart g s) := by
  have k_icnStart : 131072 &&& μ = 131072 := sub_of hw rfl
  have k_modIcn : 131072 &&& μ = 131072 := sub_of hw rfl
  have i17 : μ.testBit 17 = true := bit_of hw rfl
  unfold icnsStart
  repeat' first
    | with_reducible assumption
    | (intro s; with_reducible refine (fun (hs : Kept μ s0 s) => ?_) ?_)
    | intro x
    | lift_lets
    | with_reducible refine kept_modIcn k_modIcn ?_
    | with_reducible refine kept_icnStart k_icnStart ?_
    | with_reducible refine kept_foldl (fun s x hs => ?_) ?_
    | (fail_if_no_progress with_reducible refine Kept.mk' ?_  (h_isl := .inr i17))
    | split
    | dsimp +zetaDelta only

theorem kept_icnsStop {μ : Nat} (hw : 131072 &&& μ = 131072) {s0 : State} {g : Nat} {s : State}  (kh : Kept μ s0 s) :
    Kept μ s0 (icnsStop g s) := by
  have k_modIcn : 131072 &&& μ = 131072 := sub_of hw rfl
  have i17 : μ.testBit 17 = true := bit_of hw rfl
  unfold icnsStop
  repeat' first
    | with_reducible assumption
    | (intro s; with_reducible refine (fun (hs : Kept μ s0 s) => ?_) ?_)
    | intro x
    | lift_lets
    | with_reducible refine kept_modIcn k_modIcn ?_
    | with_reducible refine kept_foldl (fun s x hs => ?_) ?_
    | (fail_if_no_progress with_reducible refine Kept.mk' ?_  (h_isl := .inr i17))
    | split
    | dsimp +zetaDelta only

end Sys2Proof.Machine
end

