-- ==== Sys2Proof/Laws/KeptAlign.lean ====
section
/-!
SUPPORT. Sys2Proof/Laws/KeptAlign.lean: every operation of Align.lean keeps what no command changes, and the parts that it does not write (Kept.lean).
-/
set_option Elab.async false
set_option linter.unusedTactic false
set_option linter.unreachableTactic false
set_option linter.unusedVariables false
namespace Sys2Proof.Machine

theorem kept_modGrp {μ : Nat} (hw : 6144 &&& μ = 6144) {s0 : State} {g : Nat} {f : Grp → Grp} {s : State}  (kh : Kept μ s0 s) :
    Kept μ s0 (modGrp g f s) := by
  have i11 : μ.testBit 11 = true := bit_of hw rfl
  have i12 : μ.testBit 12 = true := bit_of hw rfl
  unfold modGrp
  repeat' first
    | with_reducible assumption
    | (intro s; with_reducible refine (fun (hs : Kept μ s0 s) => ?_) ?_)
    | intro x
    | lift_lets
    | (fail_if_no_progress with_reducible refine Kept.mk' ?_  (h_aln := .inr ⟨i11, .inr i12, sm, sm⟩))
    | split
    | dsimp +zetaDelta only

theorem kept_grpCountN {μ : Nat} (hw : 982252228520449088159744 &&& μ = 982252228520449088159744) {s0 : State} {g k n : Nat} {s : State}  (kh : Kept μ s0 s) :
    Kept μ s0 (grpCountN g k n s) := by
  have k_countN : 982252228520449088159744 &&& μ = 982252228520449088159744 := sub_of hw rfl
  unfold grpCountN
  repeat' first
    | with_reducible assumption
    | (intro s; with_reducible refine (fun (hs : Kept μ s0 s) => ?_) ?_)
    | intro x
    | lift_lets
    | with_reducible refine kept_countN k_countN ?_
    | split
    | dsimp +zetaDelta only

theorem kept_lateWritten {μ : Nat} (hw : 1133367958241669734728960 &&& μ = 1133367958241669734728960) {s0 : State} {k : ReadCheck} {r : IngRec} {s : State}  (kh : Kept μ s0 s) :
    Kept μ s0 (lateWritten k r s) := by
  have k_alnFlag : 13194139533312 &&& μ = 13194139533312 := sub_of hw rfl
  have k_count : 982252228520449088159744 &&& μ = 982252228520449088159744 := sub_of hw rfl
  have k_grpCountN : 982252228520449088159744 &&& μ = 982252228520449088159744 := sub_of hw rfl
  have k_harvest : 2256197860196352 &&& μ = 2256197860196352 := sub_of hw rfl
  have k_markBad : 982252228520449088161024 &&& μ = 982252228520449088161024 := sub_of hw rfl
  have k_raiseLimited : 1057810092237567318556672 &&& μ = 1057810092237567318556672 := sub_of hw rfl
  have k_rcMax : 21990232555520 &&& μ = 21990232555520 := sub_of hw rfl
  have i8 : μ.testBit 8 = true := bit_of hw rfl
  have i10 : μ.testBit 10 = true := bit_of hw rfl
  have i42 : μ.testBit 42 = true := bit_of hw rfl
  have i43 : μ.testBit 43 = true := bit_of hw rfl
  have i44 : μ.testBit 44 = true := bit_of hw rfl
  have i46 : μ.testBit 46 = true := bit_of hw rfl
  have i51 : μ.testBit 51 = true := bit_of hw rfl
  have i76 : μ.testBit 76 = true := bit_of hw rfl
  have i77 : μ.testBit 77 = true := bit_of hw rfl
  have i78 : μ.testBit 78 = true := bit_of hw rfl
  have i79 : μ.testBit 79 = true := bit_of hw rfl
  unfold lateWritten
  repeat' first
    | with_reducible assumption
    | (intro s; with_reducible refine (fun (hs : Kept μ s0 s) => ?_) ?_)
    | intro x
    | lift_lets
    | with_reducible refine kept_rcMax k_rcMax ?_
    | with_reducible refine kept_raiseLimited k_raiseLimited ?_
    | with_reducible refine kept_count k_count ?_
    | with_reducible refine kept_markBad k_markBad ?_
    | with_reducible refine kept_harvest k_harvest ?_
    | with_reducible refine kept_alnFlag k_alnFlag ?_
    | with_reducible refine kept_grpCountN k_grpCountN ?_
    | (fail_if_no_progress with_reducible refine Kept.mk' ?_  (h_ing := .inr ⟨i8, sm, .inr i10⟩) (h_hp := .inr ⟨i42, .inr i43, .inr i44, sm, .inr i46, sm, sm, sm, sm, .inr i51, sm, sm⟩) (h_cnt := .inr i76) (h_limits := .inr i77) (h_evLog := .inr i78) (h_evLogSeq := .inr i79))
    | split
    | dsimp +zetaDelta only

theorem kept_timeoutsReset {μ : Nat} (hw : 1133367955972316394029056 &&& μ = 1133367955972316394029056) {s0 : State} {r : IngRec} {s : State}  (kh : Kept μ s0 s) :
    Kept μ s0 (timeoutsReset r s) := by
  have k_timeoutReset : 1133367955972316394029056 &&& μ = 1133367955972316394029056 := sub_of hw rfl
  unfold timeoutsReset
  repeat' first
    | with_reducible assumption
    | (intro s; with_reducible refine (fun (hs : Kept μ s0 s) => ?_) ?_)
    | intro x
    | lift_lets
    | with_reducible refine kept_timeoutReset k_timeoutReset ?_
    | with_reducible refine kept_foldl (fun s x hs => ?_) ?_
    | split
    | dsimp +zetaDelta only

theorem kept_writeRec {μ : Nat} (hw : 1133367958241716986064640 &&& μ = 1133367958241716986064640) {s0 : State} {k : ReadCheck} {r : IngRec} {s : State}  (kh : Kept μ s0 s) :
    Kept μ s0 (writeRec k r s) := by
  have k_cmpArrive : 982252228520496339494912 &&& μ = 982252228520496339494912 := sub_of hw rfl
  have k_lateWritten : 1133367958241669734728960 &&& μ = 1133367958241669734728960 := sub_of hw rfl
  have k_markBad : 982252228520449088161024 &&& μ = 982252228520449088161024 := sub_of hw rfl
  have k_modStrm : 768 &&& μ = 768 := sub_of hw rfl
  have k_timeoutsReset : 1133367955972316394029056 &&& μ = 1133367955972316394029056 := sub_of hw rfl
  have i8 : μ.testBit 8 = true := bit_of hw rfl
  have i9 : μ.testBit 9 = true := bit_of hw rfl
  have i10 : μ.testBit 10 = true := bit_of hw rfl
  have i11 : μ.testBit 11 = true := bit_of hw rfl
  have i13 : μ.testBit 13 = true := bit_of hw rfl
  have i17 : μ.testBit 17 = true := bit_of hw rfl
  have i18 : μ.testBit 18 = true := bit_of hw rfl
  have i21 : μ.testBit 21 = true := bit_of hw rfl
  have i22 : μ.testBit 22 = true := bit_of hw rfl
  have i32 : μ.testBit 32 = true := bit_of hw rfl
  have i33 : μ.testBit 33 = true := bit_of hw rfl
  have i35 : μ.testBit 35 = true := bit_of hw rfl
  have i42 : μ.testBit 42 = true := bit_of hw rfl
  have i43 : μ.testBit 43 = true := bit_of hw rfl
  have i44 : μ.testBit 44 = true := bit_of hw rfl
  have i46 : μ.testBit 46 = true := bit_of hw rfl
  have i51 : μ.testBit 51 = true := bit_of hw rfl
  have i76 : μ.testBit 76 = true := bit_of hw rfl
  have i77 : μ.testBit 77 = true := bit_of hw rfl
  have i78 : μ.testBit 78 = true := bit_of hw rfl
  have i79 : μ.testBit 79 = true := bit_of hw rfl
  unfold writeRec
  repeat' first
    | with_reducible assumption
    | (intro s; with_reducible refine (fun (hs : Kept μ s0 s) => ?_) ?_)
    | intro x
    | lift_lets
    | with_reducible refine kept_modStrm k_modStrm ?_
    | with_reducible refine kept_markBad k_markBad ?_
    | with_reducible refine kept_cmpArrive k_cmpArrive ?_
    | with_reducible refine kept_lateWritten k_lateWritten ?_
    | with_reducible refine kept_timeoutsReset k_timeoutsReset ?_
    | with_reducible refine kept_foldl (fun s x hs => ?_) ?_
    | (fail_if_no_progress with_reducible refine Kept.mk' ?_  (h_ing := .inr ⟨i8, .inr i9, .inr i10⟩) (h_aln := .inr ⟨i11, sm, .inr i13, sm⟩) (h_isl := .inr i17) (h_sch := .inr ⟨i18, sm, sm, .inr i21⟩) (h_cap := .inr ⟨i22, sm, sm, sm⟩) (h_pub := .inr ⟨i32, .inr i33, sm, .inr i35⟩) (h_hp := .inr ⟨i42, .inr i43, .inr i44, sm, .inr i46, sm, sm, sm, sm, .inr i51, sm, sm⟩) (h_cnt := .inr i76) (h_limits := .inr i77) (h_evLog := .inr i78) (h_evLogSeq := .inr i79))
    | split
    | dsimp +zetaDelta only

theorem kept_execIngestRecordWrite {μ : Nat} (hw : 1133367958241716986064640 &&& μ = 1133367958241716986064640) {s0 : State} {s : State} {k : ReadCheck}  (kh : Kept μ s0 s) :
    KeptOut μ s0 (execIngestRecordWrite s k) := by
  have k_act : 0 &&& μ = 0 := sub_of hw rfl
  have k_writeRec : 1133367958241716986064640 &&& μ = 1133367958241716986064640 := sub_of hw rfl
  have i8 : μ.testBit 8 = true := bit_of hw rfl
  have i9 : μ.testBit 9 = true := bit_of hw rfl
  have i10 : μ.testBit 10 = true := bit_of hw rfl
  have i11 : μ.testBit 11 = true := bit_of hw rfl
  have i13 : μ.testBit 13 = true := bit_of hw rfl
  have i17 : μ.testBit 17 = true := bit_of hw rfl
  have i18 : μ.testBit 18 = true := bit_of hw rfl
  have i21 : μ.testBit 21 = true := bit_of hw rfl
  have i22 : μ.testBit 22 = true := bit_of hw rfl
  have i32 : μ.testBit 32 = true := bit_of hw rfl
  have i33 : μ.testBit 33 = true := bit_of hw rfl
  have i35 : μ.testBit 35 = true := bit_of hw rfl
  have i42 : μ.testBit 42 = true := bit_of hw rfl
  have i43 : μ.testBit 43 = true := bit_of hw rfl
  have i44 : μ.testBit 44 = true := bit_of hw rfl
  have i46 : μ.testBit 46 = true := bit_of hw rfl
  have i51 : μ.testBit 51 = true := bit_of hw rfl
  have i76 : μ.testBit 76 = true := bit_of hw rfl
  have i77 : μ.testBit 77 = true := bit_of hw rfl
  have i78 : μ.testBit 78 = true := bit_of hw rfl
  have i79 : μ.testBit 79 = true := bit_of hw rfl
  unfold execIngestRecordWrite
  repeat' first
    | with_reducible assumption
    | (intro s; with_reducible refine (fun (hs : Kept μ s0 s) => ?_) ?_)
    | intro x
    | lift_lets
    | with_reducible refine kept_act k_act (fun s hs => ?_) ?_
    | with_reducible refine kept_writeRec k_writeRec ?_
    | (fail_if_no_progress with_reducible refine Kept.mk' ?_  (h_ing := .inr ⟨i8, .inr i9, .inr i10⟩) (h_aln := .inr ⟨i11, sm, .inr i13, sm⟩) (h_isl := .inr i17) (h_sch := .inr ⟨i18, sm, sm, .inr i21⟩) (h_cap := .inr ⟨i22, sm, sm, sm⟩) (h_pub := .inr ⟨i32, .inr i33, sm, .inr i35⟩) (h_hp := .inr ⟨i42, .inr i43, .inr i44, sm, .inr i46, sm, sm, sm, sm, .inr i51, sm, sm⟩) (h_cnt := .inr i76) (h_limits := .inr i77) (h_evLog := .inr i78) (h_evLogSeq := .inr i79))
    | split
    | with_reducible refine KeptOut.mk' ?_
    | dsimp +zetaDelta only

theorem kept_grpWait {μ : Nat} (hw : 6144 &&& μ = 6144) {s0 : State} {g t : Nat} {s : State}  (kh : Kept μ s0 s) :
    Kept μ s0 (grpWait g t s) := by
  have k_modGrp : 6144 &&& μ = 6144 := sub_of hw rfl
  unfold grpWait
  repeat' first
    | with_reducible assumption
    | (intro s; with_reducible refine (fun (hs : Kept μ s0 s) => ?_) ?_)
    | intro x
    | lift_lets
    | with_reducible refine kept_modGrp k_modGrp ?_
    | split
    | dsimp +zetaDelta only

theorem kept_detectorsStart {μ : Nat} (hw : 206848 &&& μ = 206848) {s0 : State} {g i : Nat} {s : State}  (kh : Kept μ s0 s) :
    Kept μ s0 (detectorsStart g i s) := by
  have k_famStart : 65536 &&& μ = 65536 := sub_of hw rfl
  have k_icnsStart : 131072 &&& μ = 131072 := sub_of hw rfl
  have k_modAlm : 65536 &&& μ = 65536 := sub_of hw rfl
  have k_modCmp : 131072 &&& μ = 131072 := sub_of hw rfl
  have k_modSig : 65536 &&& μ = 65536 := sub_of hw rfl
  have k_modVote : 10240 &&& μ = 10240 := sub_of hw rfl
  have k_sigStart : 65536 &&& μ = 65536 := sub_of hw rfl
  have i11 : μ.testBit 11 = true := bit_of hw rfl
  have i13 : μ.testBit 13 = true := bit_of hw rfl
  have i16 : μ.testBit 16 = true := bit_of hw rfl
  have i17 : μ.testBit 17 = true := bit_of hw rfl
  unfold detectorsStart
  repeat' first
    | with_reducible assumption
    | (intro s; with_reducible refine (fun (hs : Kept μ s0 s) => ?_) ?_)
    | intro x
    | lift_lets
    | with_reducible refine kept_modCmp k_modCmp ?_
    | with_reducible refine kept_modVote k_modVote ?_
    | with_reducible refine kept_modSig k_modSig ?_
    | with_reducible refine kept_sigStart k_sigStart ?_
    | with_reducible refine kept_modAlm k_modAlm ?_
    | with_reducible refine kept_famStart k_famStart ?_
    | with_reducible refine kept_icnsStart k_icnsStart ?_
    | with_reducible refine kept_foldl (fun s x hs => ?_) ?_
    | (fail_if_no_progress with_reducible refine Kept.mk' ?_  (h_aln := .inr ⟨i11, sm, .inr i13, sm⟩) (h_osc := .inr i16) (h_isl := .inr i17))
    | split
    | dsimp +zetaDelta only

theorem kept_groupStart {μ : Nat} (hw : 982252228520496339564544 &&& μ = 982252228520496339564544) {s0 : State} {g : Nat} {s : State}  (kh : Kept μ s0 s) :
    Kept μ s0 (groupStart g s) := by
  have k_cmpArrive : 982252228520496339494912 &&& μ = 982252228520496339494912 := sub_of hw rfl
  have k_detectorsStart : 206848 &&& μ = 206848 := sub_of hw rfl
  have k_modGrp : 6144 &&& μ = 6144 := sub_of hw rfl
  have i11 : μ.testBit 11 = true := bit_of hw rfl
  have i12 : μ.testBit 12 = true := bit_of hw rfl
  have i13 : μ.testBit 13 = true := bit_of hw rfl
  have i16 : μ.testBit 16 = true := bit_of hw rfl
  have i17 : μ.testBit 17 = true := bit_of hw rfl
  have i18 : μ.testBit 18 = true := bit_of hw rfl
  have i21 : μ.testBit 21 = true := bit_of hw rfl
  have i22 : μ.testBit 22 = true := bit_of hw rfl
  have i32 : μ.testBit 32 = true := bit_of hw rfl
  have i33 : μ.testBit 33 = true := bit_of hw rfl
  have i35 : μ.testBit 35 = true := bit_of hw rfl
  have i42 : μ.testBit 42 = true := bit_of hw rfl
  have i43 : μ.testBit 43 = true := bit_of hw rfl
  have i46 : μ.testBit 46 = true := bit_of hw rfl
  have i76 : μ.testBit 76 = true := bit_of hw rfl
  have i78 : μ.testBit 78 = true := bit_of hw rfl
  have i79 : μ.testBit 79 = true := bit_of hw rfl
  unfold groupStart
  repeat' first
    | with_reducible assumption
    | (intro s; with_reducible refine (fun (hs : Kept μ s0 s) => ?_) ?_)
    | intro x
    | lift_lets
    | with_reducible refine kept_cmpArrive k_cmpArrive ?_
    | with_reducible refine kept_modGrp k_modGrp ?_
    | with_reducible refine kept_detectorsStart k_detectorsStart ?_
    | with_reducible refine kept_foldl (fun s x hs => ?_) ?_
    | (fail_if_no_progress with_reducible refine Kept.mk' ?_  (h_aln := .inr ⟨i11, .inr i12, .inr i13, sm⟩) (h_osc := .inr i16) (h_isl := .inr i17) (h_sch := .inr ⟨i18, sm, sm, .inr i21⟩) (h_cap := .inr ⟨i22, sm, sm, sm⟩) (h_pub := .inr ⟨i32, .inr i33, sm, .inr i35⟩) (h_hp := .inr ⟨i42, .inr i43, sm, sm, .inr i46, sm, sm, sm, sm, sm, sm, sm⟩) (h_cnt := .inr i76) (h_evLog := .inr i78) (h_evLogSeq := .inr i79))
    | split
    | dsimp +zetaDelta only

theorem kept_execWindowClose {μ : Nat} (hw : 982252228520449090525184 &&& μ = 982252228520449090525184) {s0 : State} {g : Nat} {s : State}  (kh : Kept μ s0 s) :
    KeptOut μ s0 (execWindowClose g s) := by
  have k_act : 0 &&& μ = 0 := sub_of hw rfl
  have k_modGrp : 6144 &&& μ = 6144 := sub_of hw rfl
  have k_trigGroup : 982252228520449090519040 &&& μ = 982252228520449090519040 := sub_of hw rfl
  have i11 : μ.testBit 11 = true := bit_of hw rfl
  have i12 : μ.testBit 12 = true := bit_of hw rfl
  have i18 : μ.testBit 18 = true := bit_of hw rfl
  have i21 : μ.testBit 21 = true := bit_of hw rfl
  have i42 : μ.testBit 42 = true := bit_of hw rfl
  have i43 : μ.testBit 43 = true := bit_of hw rfl
  have i46 : μ.testBit 46 = true := bit_of hw rfl
  have i76 : μ.testBit 76 = true := bit_of hw rfl
  have i78 : μ.testBit 78 = true := bit_of hw rfl
  have i79 : μ.testBit 79 = true := bit_of hw rfl
  unfold execWindowClose
  repeat' first
    | with_reducible assumption
    | (intro s; with_reducible refine (fun (hs : Kept μ s0 s) => ?_) ?_)
    | intro x
    | lift_lets
    | with_reducible refine kept_act k_act (fun s hs => ?_) ?_
    | with_reducible refine kept_trigGroup k_trigGroup ?_
    | with_reducible refine kept_modGrp k_modGrp ?_
    | (fail_if_no_progress with_reducible refine Kept.mk' ?_  (h_aln := .inr ⟨i11, .inr i12, sm, sm⟩) (h_sch := .inr ⟨i18, sm, sm, .inr i21⟩) (h_hp := .inr ⟨i42, .inr i43, sm, sm, .inr i46, sm, sm, sm, sm, sm, sm, sm⟩) (h_cnt := .inr i76) (h_evLog := .inr i78) (h_evLogSeq := .inr i79))
    | split
    | with_reducible refine KeptOut.mk' ?_
    | dsimp +zetaDelta only

theorem kept_setRebuild {μ : Nat} (hw : 982252228520449088159744 &&& μ = 982252228520449088159744) {s0 : State} {again : Bool} {g res : Nat} {s : State}  (kh : Kept μ s0 s) :
    Kept μ s0 (setRebuild again g res s) := by
  have k_alnFlag : 13194139533312 &&& μ = 13194139533312 := sub_of hw rfl
  have k_count : 982252228520449088159744 &&& μ = 982252228520449088159744 := sub_of hw rfl
  have k_grpCountN : 982252228520449088159744 &&& μ = 982252228520449088159744 := sub_of hw rfl
  have k_raise : 906694364785738671718400 &&& μ = 906694364785738671718400 := sub_of hw rfl
  have k_rebuildEvents : 906694364794534764740608 &&& μ = 906694364794534764740608 := sub_of hw rfl
  unfold setRebuild
  repeat' first
    | with_reducible assumption
    | (intro s; with_reducible refine (fun (hs : Kept μ s0 s) => ?_) ?_)
    | intro x
    | lift_lets
    | with_reducible refine kept_raise k_raise ?_
    | with_reducible refine kept_count k_count ?_
    | with_reducible refine kept_alnFlag k_alnFlag ?_
    | with_reducible refine kept_rebuildEvents k_rebuildEvents ?_
    | with_reducible refine kept_grpCountN k_grpCountN ?_
    | split
    | dsimp +zetaDelta only

theorem kept_readerCheck {μ : Nat} (hw : 982252228520449088178176 &&& μ = 982252228520449088178176) {s0 : State} {g i res : Nat} {s : State}  (kh : Kept μ s0 s) :
    Kept μ s0 (readerCheck g i res s) := by
  have k_setRebuild : 982252228520449088159744 &&& μ = 982252228520449088159744 := sub_of hw rfl
  have i11 : μ.testBit 11 = true := bit_of hw rfl
  have i14 : μ.testBit 14 = true := bit_of hw rfl
  have i42 : μ.testBit 42 = true := bit_of hw rfl
  have i43 : μ.testBit 43 = true := bit_of hw rfl
  have i46 : μ.testBit 46 = true := bit_of hw rfl
  have i76 : μ.testBit 76 = true := bit_of hw rfl
  have i78 : μ.testBit 78 = true := bit_of hw rfl
  have i79 : μ.testBit 79 = true := bit_of hw rfl
  unfold readerCheck
  repeat' first
    | with_reducible assumption
    | (intro s; with_reducible refine (fun (hs : Kept μ s0 s) => ?_) ?_)
    | intro x
    | lift_lets
    | with_reducible refine kept_setRebuild k_setRebuild ?_
    | (fail_if_no_progress with_reducible refine Kept.mk' ?_  (h_aln := .inr ⟨i11, sm, sm, .inr i14⟩) (h_hp := .inr ⟨i42, .inr i43, sm, sm, .inr i46, sm, sm, sm, sm, sm, sm, sm⟩) (h_cnt := .inr i76) (h_evLog := .inr i78) (h_evLogSeq := .inr i79))
    | split
    | dsimp +zetaDelta only

theorem kept_pruneSets {μ : Nat} (hw : 18432 &&& μ = 18432) {s0 : State} {s : State}  (kh : Kept μ s0 s) :
    Kept μ s0 (pruneSets s) := by
  have i11 : μ.testBit 11 = true := bit_of hw rfl
  have i14 : μ.testBit 14 = true := bit_of hw rfl
  unfold pruneSets
  repeat' first
    | with_reducible assumption
    | (intro s; with_reducible refine (fun (hs : Kept μ s0 s) => ?_) ?_)
    | intro x
    | lift_lets
    | (fail_if_no_progress with_reducible refine Kept.mk' ?_  (h_aln := .inr ⟨i11, sm, sm, .inr i14⟩))
    | split
    | dsimp +zetaDelta only

theorem kept_setCounts {μ : Nat} (hw : 982252228520449088159744 &&& μ = 982252228520449088159744) {s0 : State} {x : ASet} {s : State}  (kh : Kept μ s0 s) :
    Kept μ s0 (setCounts x s) := by
  have k_grpCountN : 982252228520449088159744 &&& μ = 982252228520449088159744 := sub_of hw rfl
  unfold setCounts
  repeat' first
    | with_reducible assumption
    | (intro s; with_reducible refine (fun (hs : Kept μ s0 s) => ?_) ?_)
    | intro x
    | lift_lets
    | with_reducible refine kept_grpCountN k_grpCountN ?_
    | split
    | dsimp +zetaDelta only

theorem kept_sealCmps {μ : Nat} (hw : 1133367955972282034290688 &&& μ = 1133367955972282034290688) {s0 : State} {g i seq : Nat} {bad : List Nat} {s : State}  (kh : Kept μ s0 s) :
    Kept μ s0 (sealCmps g i seq bad s) := by
  have k_cmpEval : 982252228520449088290816 &&& μ = 982252228520449088290816 := sub_of hw rfl
  have k_cmpReplay : 982252228520449088290816 &&& μ = 982252228520449088290816 := sub_of hw rfl
  have k_cmpSetOut : 1133367955972282034290688 &&& μ = 1133367955972282034290688 := sub_of hw rfl
  have k_modCmp : 131072 &&& μ = 131072 := sub_of hw rfl
  have i17 : μ.testBit 17 = true := bit_of hw rfl
  have i22 : μ.testBit 22 = true := bit_of hw rfl
  have i32 : μ.testBit 32 = true := bit_of hw rfl
  have i42 : μ.testBit 42 = true := bit_of hw rfl
  have i43 : μ.testBit 43 = true := bit_of hw rfl
  have i46 : μ.testBit 46 = true := bit_of hw rfl
  have i76 : μ.testBit 76 = true := bit_of hw rfl
  have i77 : μ.testBit 77 = true := bit_of hw rfl
  have i78 : μ.testBit 78 = true := bit_of hw rfl
  have i79 : μ.testBit 79 = true := bit_of hw rfl
  unfold sealCmps
  repeat' first
    | with_reducible assumption
    | (intro s; with_reducible refine (fun (hs : Kept μ s0 s) => ?_) ?_)
    | intro x
    | lift_lets
    | with_reducible refine kept_modCmp k_modCmp ?_
    | with_reducible refine kept_cmpEval k_cmpEval ?_
    | with_reducible refine kept_cmpReplay k_cmpReplay ?_
    | with_reducible refine kept_cmpSetOut k_cmpSetOut ?_
    | with_reducible refine kept_foldl (fun s x hs => ?_) ?_
    | (fail_if_no_progress with_reducible refine Kept.mk' ?_  (h_isl := .inr i17) (h_cap := .inr ⟨i22, sm, sm, sm⟩) (h_pub := .inr ⟨i32, sm, sm, sm⟩) (h_hp := .inr ⟨i42, .inr i43, sm, sm, .inr i46, sm, sm, sm, sm, sm, sm, sm⟩) (h_cnt := .inr i76) (h_limits := .inr i77) (h_evLog := .inr i78) (h_evLogSeq := .inr i79))
    | split
    | dsimp +zetaDelta only

theorem kept_sealFrames {μ : Nat} (hw : 12884901888 &&& μ = 12884901888) {s0 : State} {g i seq : Nat} {s : State}  (kh : Kept μ s0 s) :
    Kept μ s0 (sealFrames g i seq s) := by
  have i32 : μ.testBit 32 = true := bit_of hw rfl
  have i33 : μ.testBit 33 = true := bit_of hw rfl
  unfold sealFrames
  repeat' first
    | with_reducible assumption
    | (intro s; with_reducible refine (fun (hs : Kept μ s0 s) => ?_) ?_)
    | intro x
    | lift_lets
    | (fail_if_no_progress with_reducible refine Kept.mk' ?_  (h_pub := .inr ⟨i32, .inr i33, sm, sm⟩))
    | split
    | dsimp +zetaDelta only

theorem kept_afterSeal {μ : Nat} (hw : 1133367958224124800083968 &&& μ = 1133367958224124800083968) {s0 : State} {x : ASet} {bad : List Nat} {s : State}  (kh : Kept μ s0 s) :
    Kept μ s0 (afterSeal x bad s) := by
  have k_almSeal : 38658965504 &&& μ = 38658965504 := sub_of hw rfl
  have k_cmpArrive : 982252228520496339494912 &&& μ = 982252228520496339494912 := sub_of hw rfl
  have k_harvest : 2256197860196352 &&& μ = 2256197860196352 := sub_of hw rfl
  have k_latchDirect : 38654705664 &&& μ = 38654705664 := sub_of hw rfl
  have k_sealCmps : 1133367955972282034290688 &&& μ = 1133367955972282034290688 := sub_of hw rfl
  have k_sealFrames : 12884901888 &&& μ = 12884901888 := sub_of hw rfl
  have k_voteSeal : 47244650496 &&& μ = 47244650496 := sub_of hw rfl
  unfold afterSeal
  repeat' first
    | with_reducible assumption
    | (intro s; with_reducible refine (fun (hs : Kept μ s0 s) => ?_) ?_)
    | intro x
    | lift_lets
    | with_reducible refine kept_latchDirect k_latchDirect ?_
    | with_reducible refine kept_harvest k_harvest ?_
    | with_reducible refine kept_voteSeal k_voteSeal ?_
    | with_reducible refine kept_cmpArrive k_cmpArrive ?_
    | with_reducible refine kept_almSeal k_almSeal ?_
    | with_reducible refine kept_sealCmps k_sealCmps ?_
    | with_reducible refine kept_sealFrames k_sealFrames ?_
    | with_reducible refine kept_foldl (fun s x hs => ?_) ?_
    | split
    | dsimp +zetaDelta only

theorem kept_sealSet {μ : Nat} (hw : 1133367958224124800105728 &&& μ = 1133367958224124800105728) {s0 : State} {g : Nat} {k : SealCheck} {s : State}  (kh : Kept μ s0 s) :
    Kept μ s0 (sealSet g k s) := by
  have k_afterSeal : 1133367958224124800083968 &&& μ = 1133367958224124800083968 := sub_of hw rfl
  have k_grpCountN : 982252228520449088159744 &&& μ = 982252228520449088159744 := sub_of hw rfl
  have k_markBad : 982252228520449088161024 &&& μ = 982252228520449088161024 := sub_of hw rfl
  have k_modGrp : 6144 &&& μ = 6144 := sub_of hw rfl
  have k_pruneRecs : 1280 &&& μ = 1280 := sub_of hw rfl
  have k_pruneSets : 18432 &&& μ = 18432 := sub_of hw rfl
  have k_setCounts : 982252228520449088159744 &&& μ = 982252228520449088159744 := sub_of hw rfl
  have k_setRebuild : 982252228520449088159744 &&& μ = 982252228520449088159744 := sub_of hw rfl
  have i8 : μ.testBit 8 = true := bit_of hw rfl
  have i10 : μ.testBit 10 = true := bit_of hw rfl
  have i11 : μ.testBit 11 = true := bit_of hw rfl
  have i12 : μ.testBit 12 = true := bit_of hw rfl
  have i13 : μ.testBit 13 = true := bit_of hw rfl
  have i14 : μ.testBit 14 = true := bit_of hw rfl
  have i16 : μ.testBit 16 = true := bit_of hw rfl
  have i17 : μ.testBit 17 = true := bit_of hw rfl
  have i18 : μ.testBit 18 = true := bit_of hw rfl
  have i21 : μ.testBit 21 = true := bit_of hw rfl
  have i22 : μ.testBit 22 = true := bit_of hw rfl
  have i32 : μ.testBit 32 = true := bit_of hw rfl
  have i33 : μ.testBit 33 = true := bit_of hw rfl
  have i35 : μ.testBit 35 = true := bit_of hw rfl
  have i42 : μ.testBit 42 = true := bit_of hw rfl
  have i43 : μ.testBit 43 = true := bit_of hw rfl
  have i46 : μ.testBit 46 = true := bit_of hw rfl
  have i51 : μ.testBit 51 = true := bit_of hw rfl
  have i76 : μ.testBit 76 = true := bit_of hw rfl
  have i77 : μ.testBit 77 = true := bit_of hw rfl
  have i78 : μ.testBit 78 = true := bit_of hw rfl
  have i79 : μ.testBit 79 = true := bit_of hw rfl
  unfold sealSet
  repeat' first
    | with_reducible assumption
    | (intro s; with_reducible refine (fun (hs : Kept μ s0 s) => ?_) ?_)
    | intro x
    | lift_lets
    | with_reducible refine kept_pruneRecs k_pruneRecs ?_
    | with_reducible refine kept_markBad k_markBad ?_
    | with_reducible refine kept_modGrp k_modGrp ?_
    | with_reducible refine kept_grpCountN k_grpCountN ?_
    | with_reducible refine kept_setRebuild k_setRebuild ?_
    | with_reducible refine kept_pruneSets k_pruneSets ?_
    | with_reducible refine kept_setCounts k_setCounts ?_
    | with_reducible refine kept_afterSeal k_afterSeal ?_
    | with_reducible refine kept_foldl (fun s x hs => ?_) ?_
    | (fail_if_no_progress with_reducible refine Kept.mk' ?_  (h_ing := .inr ⟨i8, sm, .inr i10⟩) (h_aln := .inr ⟨i11, .inr i12, .inr i13, .inr i14⟩) (h_osc := .inr i16) (h_isl := .inr i17) (h_sch := .inr ⟨i18, sm, sm, .inr i21⟩) (h_cap := .inr ⟨i22, sm, sm, sm⟩) (h_pub := .inr ⟨i32, .inr i33, sm, .inr i35⟩) (h_hp := .inr ⟨i42, .inr i43, sm, sm, .inr i46, sm, sm, sm, sm, .inr i51, sm, sm⟩) (h_cnt := .inr i76) (h_limits := .inr i77) (h_evLog := .inr i78) (h_evLogSeq := .inr i79))
    | split
    | dsimp +zetaDelta only

theorem kept_execAlignedSetSeal {μ : Nat} (hw : 1133367958224124800105728 &&& μ = 1133367958224124800105728) {s0 : State} {g : Nat} {k : SealCheck} {s : State}  (kh : Kept μ s0 s) :
    KeptOut μ s0 (execAlignedSetSeal g k s) := by
  have k_act : 0 &&& μ = 0 := sub_of hw rfl
  have k_sealSet : 1133367958224124800105728 &&& μ = 1133367958224124800105728 := sub_of hw rfl
  unfold execAlignedSetSeal
  repeat' first
    | with_reducible assumption
    | (intro s; with_reducible refine (fun (hs : Kept μ s0 s) => ?_) ?_)
    | intro x
    | lift_lets
    | with_reducible refine kept_act k_act (fun s hs => ?_) ?_
    | with_reducible refine kept_sealSet k_sealSet ?_
    | split
    | with_reducible refine KeptOut.mk' ?_
    | dsimp +zetaDelta only

theorem kept_scanDiscard {μ : Nat} (hw : 2359296 &&& μ = 2359296) {s0 : State} {g : Nat} {s : State}  (kh : Kept μ s0 s) :
    Kept μ s0 (scanDiscard g s) := by
  have k_modTask : 2359296 &&& μ = 2359296 := sub_of hw rfl
  have i18 : μ.testBit 18 = true := bit_of hw rfl
  have i21 : μ.testBit 21 = true := bit_of hw rfl
  unfold scanDiscard
  repeat' first
    | with_reducible assumption
    | (intro s; with_reducible refine (fun (hs : Kept μ s0 s) => ?_) ?_)
    | intro x
    | lift_lets
    | with_reducible refine kept_modTask k_modTask ?_
    | with_reducible refine kept_foldl (fun s x hs => ?_) ?_
    | (fail_if_no_progress with_reducible refine Kept.mk' ?_  (h_sch := .inr ⟨i18, sm, sm, .inr i21⟩))
    | split
    | dsimp +zetaDelta only

theorem kept_groupReinit {μ : Nat} (hw : 982252228520449090525184 &&& μ = 982252228520449090525184) {s0 : State} {g t : Nat} {s : State}  (kh : Kept μ s0 s) :
    Kept μ s0 (groupReinit g t s) := by
  have k_alnFlag : 13194139533312 &&& μ = 13194139533312 := sub_of hw rfl
  have k_grpCountN : 982252228520449088159744 &&& μ = 982252228520449088159744 := sub_of hw rfl
  have k_grpWait : 6144 &&& μ = 6144 := sub_of hw rfl
  have k_modGrp : 6144 &&& μ = 6144 := sub_of hw rfl
  have k_raise : 906694364785738671718400 &&& μ = 906694364785738671718400 := sub_of hw rfl
  have k_scanDiscard : 2359296 &&& μ = 2359296 := sub_of hw rfl
  have i11 : μ.testBit 11 = true := bit_of hw rfl
  have i12 : μ.testBit 12 = true := bit_of hw rfl
  have i18 : μ.testBit 18 = true := bit_of hw rfl
  have i21 : μ.testBit 21 = true := bit_of hw rfl
  have i42 : μ.testBit 42 = true := bit_of hw rfl
  have i43 : μ.testBit 43 = true := bit_of hw rfl
  have i46 : μ.testBit 46 = true := bit_of hw rfl
  have i76 : μ.testBit 76 = true := bit_of hw rfl
  have i78 : μ.testBit 78 = true := bit_of hw rfl
  have i79 : μ.testBit 79 = true := bit_of hw rfl
  unfold groupReinit
  repeat' first
    | with_reducible assumption
    | (intro s; with_reducible refine (fun (hs : Kept μ s0 s) => ?_) ?_)
    | intro x
    | lift_lets
    | with_reducible refine kept_raise k_raise ?_
    | with_reducible refine kept_alnFlag k_alnFlag ?_
    | with_reducible refine kept_modGrp k_modGrp ?_
    | with_reducible refine kept_grpCountN k_grpCountN ?_
    | with_reducible refine kept_grpWait k_grpWait ?_
    | with_reducible refine kept_scanDiscard k_scanDiscard ?_
    | (fail_if_no_progress with_reducible refine Kept.mk' ?_  (h_aln := .inr ⟨i11, .inr i12, sm, sm⟩) (h_sch := .inr ⟨i18, sm, sm, .inr i21⟩) (h_hp := .inr ⟨i42, .inr i43, sm, sm, .inr i46, sm, sm, sm, sm, sm, sm, sm⟩) (h_cnt := .inr i76) (h_evLog := .inr i78) (h_evLogSeq := .inr i79))
    | split
    | dsimp +zetaDelta only

end Sys2Proof.Machine
end

