-- ==== Sys2Proof/Laws/KeptDetect.lean ====
section
/-!
SUPPORT. Sys2Proof/Laws/KeptDetect.lean: every operation of Detect.lean keeps what no command changes, and the parts that it does not write (Kept.lean).
-/
set_option Elab.async false
set_option linter.unusedTactic false
set_option linter.unreachableTactic false
set_option linter.unusedVariables false
namespace Sys2Proof.Machine

theorem kept_readSets {μ : Nat} (hw : 982252228520449088178176 &&& μ = 982252228520449088178176) {s0 : State} {i : Nat} {bad : List (Nat × Nat)} {s : State}  (kh : Kept μ s0 s) :
    Kept μ s0 (readSets i bad s) := by
  have k_readerCheck : 982252228520449088178176 &&& μ = 982252228520449088178176 := sub_of hw rfl
  unfold readSets
  repeat' first
    | with_reducible assumption
    | (intro s; with_reducible refine (fun (hs : Kept μ s0 s) => ?_) ?_)
    | intro x
    | lift_lets
    | with_reducible refine kept_readerCheck k_readerCheck ?_
    | with_reducible refine kept_foldl (fun s x hs => ?_) ?_
    | split
    | dsimp +zetaDelta only

theorem kept_sigReplay {μ : Nat} (hw : 1133367955972277735063552 &&& μ = 1133367955972277735063552) {s0 : State} {n i : Nat} {s : State}  (kh : Kept μ s0 s) :
    Kept μ s0 (sigReplay n i s) := by
  have k_detReplay : 982252228520449088159744 &&& μ = 982252228520449088159744 := sub_of hw rfl
  have k_modSig : 65536 &&& μ = 65536 := sub_of hw rfl
  have k_sigStart : 65536 &&& μ = 65536 := sub_of hw rfl
  have k_sigUpdate : 1133367955972277735063552 &&& μ = 1133367955972277735063552 := sub_of hw rfl
  have i16 : μ.testBit 16 = true := bit_of hw rfl
  have i42 : μ.testBit 42 = true := bit_of hw rfl
  have i43 : μ.testBit 43 = true := bit_of hw rfl
  have i46 : μ.testBit 46 = true := bit_of hw rfl
  have i76 : μ.testBit 76 = true := bit_of hw rfl
  have i77 : μ.testBit 77 = true := bit_of hw rfl
  have i78 : μ.testBit 78 = true := bit_of hw rfl
  have i79 : μ.testBit 79 = true := bit_of hw rfl
  unfold sigReplay
  repeat' first
    | with_reducible assumption
    | (intro s; with_reducible refine (fun (hs : Kept μ s0 s) => ?_) ?_)
    | intro x
    | lift_lets
    | with_reducible refine kept_detReplay k_detReplay ?_
    | with_reducible refine kept_modSig k_modSig ?_
    | with_reducible refine kept_sigStart k_sigStart ?_
    | with_reducible refine kept_sigUpdate k_sigUpdate ?_
    | with_reducible refine kept_foldl (fun s x hs => ?_) ?_
    | (fail_if_no_progress with_reducible refine Kept.mk' ?_  (h_osc := .inr i16) (h_hp := .inr ⟨i42, .inr i43, sm, sm, .inr i46, sm, sm, sm, sm, sm, sm, sm⟩) (h_cnt := .inr i76) (h_limits := .inr i77) (h_evLog := .inr i78) (h_evLogSeq := .inr i79))
    | split
    | dsimp +zetaDelta only

theorem kept_execSignalUpdate {μ : Nat} (hw : 1133367958224124799970560 &&& μ = 1133367958224124799970560) {s0 : State} {n : Nat} {k : ReadCheck} {s : State}  (kh : Kept μ s0 s) :
    KeptOut μ s0 (execSignalUpdate n k s) := by
  have k_act : 0 &&& μ = 0 := sub_of hw rfl
  have k_markBad : 982252228520449088161024 &&& μ = 982252228520449088161024 := sub_of hw rfl
  have k_modSig : 65536 &&& μ = 65536 := sub_of hw rfl
  have k_readSets : 982252228520449088178176 &&& μ = 982252228520449088178176 := sub_of hw rfl
  have k_sigAlmUpdate : 982252228520496339429376 &&& μ = 982252228520496339429376 := sub_of hw rfl
  have k_sigReplay : 1133367955972277735063552 &&& μ = 1133367955972277735063552 := sub_of hw rfl
  have k_sigReport : 2256197860196352 &&& μ = 2256197860196352 := sub_of hw rfl
  have k_sigUpdate : 1133367955972277735063552 &&& μ = 1133367955972277735063552 := sub_of hw rfl
  have i8 : μ.testBit 8 = true := bit_of hw rfl
  have i10 : μ.testBit 10 = true := bit_of hw rfl
  have i11 : μ.testBit 11 = true := bit_of hw rfl
  have i13 : μ.testBit 13 = true := bit_of hw rfl
  have i14 : μ.testBit 14 = true := bit_of hw rfl
  have i16 : μ.testBit 16 = true := bit_of hw rfl
  have i18 : μ.testBit 18 = true := bit_of hw rfl
  have i21 : μ.testBit 21 = true := bit_of hw rfl
  have i22 : μ.testBit 22 = true := bit_of hw rfl
  have i32 : μ.testBit 32 = true := bit_of hw rfl
  have i33 : μ.testBit 33 = true := bit_of hw rfl
  have i35 : μ.testBit 35 = true := bit_of hw rfl
  have i42 : μ.testBit 42 = true := bit_of hw rfl
  have i43 : μ.testBit 43 = true := bit_of hw rfl
  have i46 : μ.testBit 46 = true := bit_of hw rfl
  have i51 : μ.testBit 51 = true := bit_of hw rfl
  have i76 : μ.testBit 76 = true := bit_of hw rfl
  have i77 : μ.testBit 77 = true := bit_of hw rfl
  have i78 : μ.testBit 78 = true := bit_of hw rfl
  have i79 : μ.testBit 79 = true := bit_of hw rfl
  unfold execSignalUpdate
  repeat' first
    | with_reducible assumption
    | (intro s; with_reducible refine (fun (hs : Kept μ s0 s) => ?_) ?_)
    | intro x
    | lift_lets
    | with_reducible refine kept_act k_act (fun s hs => ?_) ?_
    | with_reducible refine kept_markBad k_markBad ?_
    | with_reducible refine kept_modSig k_modSig ?_
    | with_reducible refine kept_sigUpdate k_sigUpdate ?_
    | with_reducible refine kept_sigAlmUpdate k_sigAlmUpdate ?_
    | with_reducible refine kept_sigReport k_sigReport ?_
    | with_reducible refine kept_readSets k_readSets ?_
    | with_reducible refine kept_sigReplay k_sigReplay ?_
    | with_reducible refine kept_foldl (fun s x hs => ?_) ?_
    | (fail_if_no_progress with_reducible refine Kept.mk' ?_  (h_ing := .inr ⟨i8, sm, .inr i10⟩) (h_aln := .inr ⟨i11, sm, .inr i13, .inr i14⟩) (h_osc := .inr i16) (h_sch := .inr ⟨i18, sm, sm, .inr i21⟩) (h_cap := .inr ⟨i22, sm, sm, sm⟩) (h_pub := .inr ⟨i32, .inr i33, sm, .inr i35⟩) (h_hp := .inr ⟨i42, .inr i43, sm, sm, .inr i46, sm, sm, sm, sm, .inr i51, sm, sm⟩) (h_cnt := .inr i76) (h_limits := .inr i77) (h_evLog := .inr i78) (h_evLogSeq := .inr i79))
    | split
    | with_reducible refine KeptOut.mk' ?_
    | dsimp +zetaDelta only

theorem kept_execModeFamilyEvaluation {μ : Nat} (hw : 982252230772287560828928 &&& μ = 982252230772287560828928) {s0 : State} {r : Nat} {s : State} {k : ReadCheck}  (kh : Kept μ s0 s) :
    KeptOut μ s0 (execModeFamilyEvaluation r s k) := by
  have k_act : 0 &&& μ = 0 := sub_of hw rfl
  have k_detReplay : 982252228520449088159744 &&& μ = 982252228520449088159744 := sub_of hw rfl
  have k_modeEval : 982252230772287560810496 &&& μ = 982252230772287560810496 := sub_of hw rfl
  have k_modeReplay : 982252230772287560810496 &&& μ = 982252230772287560810496 := sub_of hw rfl
  have k_readSets : 982252228520449088178176 &&& μ = 982252228520449088178176 := sub_of hw rfl
  have k_sigReport : 2256197860196352 &&& μ = 2256197860196352 := sub_of hw rfl
  have i11 : μ.testBit 11 = true := bit_of hw rfl
  have i14 : μ.testBit 14 = true := bit_of hw rfl
  have i16 : μ.testBit 16 = true := bit_of hw rfl
  have i22 : μ.testBit 22 = true := bit_of hw rfl
  have i32 : μ.testBit 32 = true := bit_of hw rfl
  have i35 : μ.testBit 35 = true := bit_of hw rfl
  have i42 : μ.testBit 42 = true := bit_of hw rfl
  have i43 : μ.testBit 43 = true := bit_of hw rfl
  have i46 : μ.testBit 46 = true := bit_of hw rfl
  have i51 : μ.testBit 51 = true := bit_of hw rfl
  have i76 : μ.testBit 76 = true := bit_of hw rfl
  have i78 : μ.testBit 78 = true := bit_of hw rfl
  have i79 : μ.testBit 79 = true := bit_of hw rfl
  unfold execModeFamilyEvaluation
  refine kept_act k_act (fun s hs => ?_) kh
  dsimp only
  split
  · generalize hq : (if k.stateBad = true then _ else _) = q
    have hk : Kept μ s0 q := by
      rw [← hq]
      split
      · exact kept_foldl (fun s x hs => kept_modeReplay k_modeReplay hs) (kept_detReplay k_detReplay (kept_readSets k_readSets hs))
      · exact kept_readSets k_readSets hs
    refine kept_foldl (fun s x hs => kept_sigReport k_sigReport hs) (Kept.mk' (s := (List.foldl _ (q, []) _).1) ?_  (h_aln := .inr ⟨i11, sm, sm, .inr i14⟩) (h_osc := .inr i16) (h_cap := .inr ⟨i22, sm, sm, sm⟩) (h_pub := .inr ⟨i32, sm, sm, .inr i35⟩) (h_hp := .inr ⟨i42, .inr i43, sm, sm, .inr i46, sm, sm, sm, sm, .inr i51, sm, sm⟩) (h_cnt := .inr i76) (h_evLog := .inr i78) (h_evLogSeq := .inr i79))
    exact KeptF.fst (kept_foldlF (fun p x hp => kept_modeEval k_modeEval hp) (KeptF.mk' hk))
  · exact hs

theorem kept_execIslandEvaluation {μ : Nat} (hw : 1133367958224116207732737 &&& μ = 1133367958224116207732737) {s0 : State} {i : Nat} {k : ReadCheck} {s : State}  (kh : Kept μ s0 s) :
    KeptOut μ s0 (execIslandEvaluation i k s) := by
  have k_act : 0 &&& μ = 0 := sub_of hw rfl
  have k_islReplay : 1133367955972277739323393 &&& μ = 1133367955972277739323393 := sub_of hw rfl
  have k_islandEval : 1133367958224116207714305 &&& μ = 1133367958224116207714305 := sub_of hw rfl
  have k_readSets : 982252228520449088178176 &&& μ = 982252228520449088178176 := sub_of hw rfl
  unfold execIslandEvaluation
  repeat' first
    | with_reducible assumption
    | (intro s; with_reducible refine (fun (hs : Kept μ s0 s) => ?_) ?_)
    | intro x
    | lift_lets
    | with_reducible refine kept_act k_act (fun s hs => ?_) ?_
    | with_reducible refine kept_islReplay k_islReplay ?_
    | with_reducible refine kept_islandEval k_islandEval ?_
    | with_reducible refine kept_readSets k_readSets ?_
    | split
    | with_reducible refine KeptOut.mk' ?_
    | dsimp +zetaDelta only

end Sys2Proof.Machine
end

