-- ==== Sys2Proof/Laws/KeptScheme.lean ====
section
/-!
SUPPORT. Sys2Proof/Laws/KeptScheme.lean: every operation of Scheme.lean keeps what no command changes, and the parts that it does not write (Kept.lean).
-/
set_option Elab.async false
set_option linter.unusedTactic false
set_option linter.unreachableTactic false
set_option linter.unusedVariables false
namespace Sys2Proof.Machine

theorem kept_modStn {μ : Nat} (hw : 786432 &&& μ = 786432) {s0 : State} {n : Nat} {f : Stn → Stn} {s : State}  (kh : Kept μ s0 s) :
    Kept μ s0 (modStn n f s) := by
  have i18 : μ.testBit 18 = true := bit_of hw rfl
  have i19 : μ.testBit 19 = true := bit_of hw rfl
  unfold modStn
  repeat' first
    | with_reducible assumption
    | (intro s; with_reducible refine (fun (hs : Kept μ s0 s) => ?_) ?_)
    | intro x
    | lift_lets
    | (fail_if_no_progress with_reducible refine Kept.mk' ?_  (h_sch := .inr ⟨i18, .inr i19, sm, sm⟩))
    | split
    | dsimp +zetaDelta only

theorem kept_modDs {μ : Nat} (hw : 786432 &&& μ = 786432) {s0 : State} {d : Nat} {f : Ds → Ds} {s : State}  (kh : Kept μ s0 s) :
    Kept μ s0 (modDs d f s) := by
  have i18 : μ.testBit 18 = true := bit_of hw rfl
  have i19 : μ.testBit 19 = true := bit_of hw rfl
  unfold modDs
  repeat' first
    | with_reducible assumption
    | (intro s; with_reducible refine (fun (hs : Kept μ s0 s) => ?_) ?_)
    | intro x
    | lift_lets
    | (fail_if_no_progress with_reducible refine Kept.mk' ?_  (h_sch := .inr ⟨i18, .inr i19, sm, sm⟩))
    | split
    | dsimp +zetaDelta only

theorem kept_schFlag {μ : Nat} (hw : 13194139533312 &&& μ = 13194139533312) {s0 : State} {b : Nat} {s : State}  (kh : Kept μ s0 s) :
    Kept μ s0 (schFlag b s) := by
  have k_setFlag : 13194139533312 &&& μ = 13194139533312 := sub_of hw rfl
  unfold schFlag
  repeat' first
    | with_reducible assumption
    | (intro s; with_reducible refine (fun (hs : Kept μ s0 s) => ?_) ?_)
    | intro x
    | lift_lets
    | with_reducible refine kept_setFlag k_setFlag ?_
    | split
    | dsimp +zetaDelta only

theorem kept_snapStart {μ : Nat} (hw : 2359296 &&& μ = 2359296) {s0 : State} {t : Nat} {tr : Trig} {rest : List Trig} {s : State}  (kh : Kept μ s0 s) :
    Kept μ s0 (snapStart t tr rest s) := by
  have k_modTask : 2359296 &&& μ = 2359296 := sub_of hw rfl
  have i18 : μ.testBit 18 = true := bit_of hw rfl
  have i21 : μ.testBit 21 = true := bit_of hw rfl
  unfold snapStart
  repeat' first
    | with_reducible assumption
    | (intro s; with_reducible refine (fun (hs : Kept μ s0 s) => ?_) ?_)
    | intro x
    | lift_lets
    | with_reducible refine kept_modTask k_modTask ?_
    | (fail_if_no_progress with_reducible refine Kept.mk' ?_  (h_sch := .inr ⟨i18, sm, sm, .inr i21⟩))
    | split
    | dsimp +zetaDelta only

theorem kept_snapMore {μ : Nat} (hw : 2359296 &&& μ = 2359296) {s0 : State} {t : Nat} {q : Snap} {s : State}  (kh : Kept μ s0 s) :
    Kept μ s0 (snapMore t q s) := by
  have k_modTask : 2359296 &&& μ = 2359296 := sub_of hw rfl
  have i18 : μ.testBit 18 = true := bit_of hw rfl
  have i21 : μ.testBit 21 = true := bit_of hw rfl
  unfold snapMore
  repeat' first
    | with_reducible assumption
    | (intro s; with_reducible refine (fun (hs : Kept μ s0 s) => ?_) ?_)
    | intro x
    | lift_lets
    | with_reducible refine kept_modTask k_modTask ?_
    | (fail_if_no_progress with_reducible refine Kept.mk' ?_  (h_sch := .inr ⟨i18, sm, sm, .inr i21⟩))
    | split
    | dsimp +zetaDelta only

theorem kept_scanSets {μ : Nat} (hw : 982252228520449088178176 &&& μ = 982252228520449088178176) {s0 : State} {t : Nat} {tr : Trig} {bad : List (Nat × Nat)} {s : State}  (kh : Kept μ s0 s) :
    Kept μ s0 (scanSets t tr bad s) := by
  have k_readerCheck : 982252228520449088178176 &&& μ = 982252228520449088178176 := sub_of hw rfl
  unfold scanSets
  repeat' first
    | with_reducible assumption
    | (intro s; with_reducible refine (fun (hs : Kept μ s0 s) => ?_) ?_)
    | intro x
    | lift_lets
    | with_reducible refine kept_readerCheck k_readerCheck ?_
    | with_reducible refine kept_foldl (fun s x hs => ?_) ?_
    | split
    | dsimp +zetaDelta only

theorem kept_execScanSnapshot {μ : Nat} (hw : 982252228520449090537472 &&& μ = 982252228520449090537472) {s0 : State} {t : Nat} {s : State} {c : ReadCheck}  (kh : Kept μ s0 s) :
    KeptOut μ s0 (execScanSnapshot t s c) := by
  have k_act : 0 &&& μ = 0 := sub_of hw rfl
  have k_scanSets : 982252228520449088178176 &&& μ = 982252228520449088178176 := sub_of hw rfl
  have k_snapMore : 2359296 &&& μ = 2359296 := sub_of hw rfl
  have k_snapStart : 2359296 &&& μ = 2359296 := sub_of hw rfl
  have i11 : μ.testBit 11 = true := bit_of hw rfl
  have i14 : μ.testBit 14 = true := bit_of hw rfl
  have i18 : μ.testBit 18 = true := bit_of hw rfl
  have i21 : μ.testBit 21 = true := bit_of hw rfl
  have i42 : μ.testBit 42 = true := bit_of hw rfl
  have i43 : μ.testBit 43 = true := bit_of hw rfl
  have i46 : μ.testBit 46 = true := bit_of hw rfl
  have i76 : μ.testBit 76 = true := bit_of hw rfl
  have i78 : μ.testBit 78 = true := bit_of hw rfl
  have i79 : μ.testBit 79 = true := bit_of hw rfl
  unfold execScanSnapshot
  repeat' first
    | with_reducible assumption
    | (intro s; with_reducible refine (fun (hs : Kept μ s0 s) => ?_) ?_)
    | intro x
    | lift_lets
    | with_reducible refine kept_act k_act (fun s hs => ?_) ?_
    | with_reducible refine kept_snapStart k_snapStart ?_
    | with_reducible refine kept_snapMore k_snapMore ?_
    | with_reducible refine kept_scanSets k_scanSets ?_
    | (fail_if_no_progress with_reducible refine Kept.mk' ?_  (h_aln := .inr ⟨i11, sm, sm, .inr i14⟩) (h_sch := .inr ⟨i18, sm, sm, .inr i21⟩) (h_hp := .inr ⟨i42, .inr i43, sm, sm, .inr i46, sm, sm, sm, sm, sm, sm, sm⟩) (h_cnt := .inr i76) (h_evLog := .inr i78) (h_evLogSeq := .inr i79))
    | split
    | with_reducible refine KeptOut.mk' ?_
    | dsimp +zetaDelta only

theorem kept_latchOut {μ : Nat} (hw : 906694364785777334550528 &&& μ = 906694364785777334550528) {s0 : State} {t : Nat} {tr : Trig} {p : Nat} {v : Word} {s : State}  (kh : Kept μ s0 s) :
    Kept μ s0 (latchOut t tr p v s) := by
  have k_capEvent : 4194304 &&& μ = 4194304 := sub_of hw rfl
  have k_latchDirect : 38654705664 &&& μ = 38654705664 := sub_of hw rfl
  have k_latchPoint : 38654705664 &&& μ = 38654705664 := sub_of hw rfl
  have k_raise : 906694364785738671718400 &&& μ = 906694364785738671718400 := sub_of hw rfl
  have k_srcMoved : 4294967296 &&& μ = 4294967296 := sub_of hw rfl
  have i18 : μ.testBit 18 = true := bit_of hw rfl
  have i19 : μ.testBit 19 = true := bit_of hw rfl
  have i20 : μ.testBit 20 = true := bit_of hw rfl
  have i21 : μ.testBit 21 = true := bit_of hw rfl
  have i22 : μ.testBit 22 = true := bit_of hw rfl
  have i32 : μ.testBit 32 = true := bit_of hw rfl
  have i35 : μ.testBit 35 = true := bit_of hw rfl
  have i42 : μ.testBit 42 = true := bit_of hw rfl
  have i46 : μ.testBit 46 = true := bit_of hw rfl
  have i78 : μ.testBit 78 = true := bit_of hw rfl
  have i79 : μ.testBit 79 = true := bit_of hw rfl
  unfold latchOut
  repeat' first
    | with_reducible assumption
    | (intro s; with_reducible refine (fun (hs : Kept μ s0 s) => ?_) ?_)
    | intro x
    | lift_lets
    | with_reducible refine kept_raise k_raise ?_
    | with_reducible refine kept_latchDirect k_latchDirect ?_
    | with_reducible refine kept_latchPoint k_latchPoint ?_
    | with_reducible refine kept_capEvent k_capEvent ?_
    | with_reducible refine kept_srcMoved k_srcMoved ?_
    | (fail_if_no_progress with_reducible refine Kept.mk' ?_  (h_sch := .inr ⟨i18, .inr i19, .inr i20, .inr i21⟩) (h_cap := .inr ⟨i22, sm, sm, sm⟩) (h_pub := .inr ⟨i32, sm, sm, .inr i35⟩) (h_hp := .inr ⟨i42, sm, sm, sm, .inr i46, sm, sm, sm, sm, sm, sm, sm⟩) (h_evLog := .inr i78) (h_evLogSeq := .inr i79))
    | split
    | dsimp +zetaDelta only

theorem kept_noteArith {μ : Nat} (hw : 1133367955972277734998016 &&& μ = 1133367955972277734998016) {s0 : State} {t : Nat} {e : Option Nat} {s : State}  (kh : Kept μ s0 s) :
    Kept μ s0 (noteArith t e s) := by
  have k_raiseLimited : 1057810092237567318556672 &&& μ = 1057810092237567318556672 := sub_of hw rfl
  have k_schFlag : 13194139533312 &&& μ = 13194139533312 := sub_of hw rfl
  have k_taskCount : 982252228520449088159744 &&& μ = 982252228520449088159744 := sub_of hw rfl
  have i42 : μ.testBit 42 = true := bit_of hw rfl
  have i43 : μ.testBit 43 = true := bit_of hw rfl
  have i46 : μ.testBit 46 = true := bit_of hw rfl
  have i76 : μ.testBit 76 = true := bit_of hw rfl
  have i77 : μ.testBit 77 = true := bit_of hw rfl
  have i78 : μ.testBit 78 = true := bit_of hw rfl
  have i79 : μ.testBit 79 = true := bit_of hw rfl
  unfold noteArith
  repeat' first
    | with_reducible assumption
    | (intro s; with_reducible refine (fun (hs : Kept μ s0 s) => ?_) ?_)
    | intro x
    | lift_lets
    | with_reducible refine kept_raiseLimited k_raiseLimited ?_
    | with_reducible refine kept_taskCount k_taskCount ?_
    | with_reducible refine kept_schFlag k_schFlag ?_
    | (fail_if_no_progress with_reducible refine Kept.mk' ?_  (h_hp := .inr ⟨i42, .inr i43, sm, sm, .inr i46, sm, sm, sm, sm, sm, sm, sm⟩) (h_cnt := .inr i76) (h_limits := .inr i77) (h_evLog := .inr i78) (h_evLogSeq := .inr i79))
    | split
    | dsimp +zetaDelta only

theorem kept_errsDone {μ : Nat} (hw : 982252228520449088946176 &&& μ = 982252228520449088946176) {s0 : State} {t : Nat} {q : Snap} {s : State}  (kh : Kept μ s0 s) :
    Kept μ s0 (errsDone t q s) := by
  have k_modStn : 786432 &&& μ = 786432 := sub_of hw rfl
  have k_taskCount : 982252228520449088159744 &&& μ = 982252228520449088159744 := sub_of hw rfl
  have i18 : μ.testBit 18 = true := bit_of hw rfl
  have i19 : μ.testBit 19 = true := bit_of hw rfl
  have i42 : μ.testBit 42 = true := bit_of hw rfl
  have i43 : μ.testBit 43 = true := bit_of hw rfl
  have i46 : μ.testBit 46 = true := bit_of hw rfl
  have i76 : μ.testBit 76 = true := bit_of hw rfl
  have i78 : μ.testBit 78 = true := bit_of hw rfl
  have i79 : μ.testBit 79 = true := bit_of hw rfl
  unfold errsDone
  repeat' first
    | with_reducible assumption
    | (intro s; with_reducible refine (fun (hs : Kept μ s0 s) => ?_) ?_)
    | intro x
    | lift_lets
    | with_reducible refine kept_taskCount k_taskCount ?_
    | with_reducible refine kept_modStn k_modStn ?_
    | with_reducible refine kept_foldl (fun s x hs => ?_) ?_
    | (fail_if_no_progress with_reducible refine Kept.mk' ?_  (h_sch := .inr ⟨i18, .inr i19, sm, sm⟩) (h_hp := .inr ⟨i42, .inr i43, sm, sm, .inr i46, sm, sm, sm, sm, sm, sm, sm⟩) (h_cnt := .inr i76) (h_evLog := .inr i78) (h_evLogSeq := .inr i79))
    | split
    | dsimp +zetaDelta only

theorem kept_runScan {μ : Nat} (hw : 1133367955972316397830144 &&& μ = 1133367955972316397830144) {s0 : State} {t : Nat} {q : Snap} {s : State}  (kh : Kept μ s0 s) :
    Kept μ s0 (runScan t q s) := by
  have k_count : 982252228520449088159744 &&& μ = 982252228520449088159744 := sub_of hw rfl
  have k_errsDone : 982252228520449088946176 &&& μ = 982252228520449088946176 := sub_of hw rfl
  have k_latchOut : 906694364785777334550528 &&& μ = 906694364785777334550528 := sub_of hw rfl
  have k_modTask : 2359296 &&& μ = 2359296 := sub_of hw rfl
  have k_noteArith : 1133367955972277734998016 &&& μ = 1133367955972277734998016 := sub_of hw rfl
  have k_raise : 906694364785738671718400 &&& μ = 906694364785738671718400 := sub_of hw rfl
  have k_taskCount : 982252228520449088159744 &&& μ = 982252228520449088159744 := sub_of hw rfl
  have i18 : μ.testBit 18 = true := bit_of hw rfl
  have i19 : μ.testBit 19 = true := bit_of hw rfl
  have i20 : μ.testBit 20 = true := bit_of hw rfl
  have i21 : μ.testBit 21 = true := bit_of hw rfl
  have i22 : μ.testBit 22 = true := bit_of hw rfl
  have i32 : μ.testBit 32 = true := bit_of hw rfl
  have i35 : μ.testBit 35 = true := bit_of hw rfl
  have i42 : μ.testBit 42 = true := bit_of hw rfl
  have i43 : μ.testBit 43 = true := bit_of hw rfl
  have i46 : μ.testBit 46 = true := bit_of hw rfl
  have i76 : μ.testBit 76 = true := bit_of hw rfl
  have i77 : μ.testBit 77 = true := bit_of hw rfl
  have i78 : μ.testBit 78 = true := bit_of hw rfl
  have i79 : μ.testBit 79 = true := bit_of hw rfl
  unfold runScan
  repeat' first
    | with_reducible assumption
    | (intro s; with_reducible refine (fun (hs : Kept μ s0 s) => ?_) ?_)
    | intro x
    | lift_lets
    | with_reducible refine kept_raise k_raise ?_
    | with_reducible refine kept_count k_count ?_
    | with_reducible refine kept_modTask k_modTask ?_
    | with_reducible refine kept_taskCount k_taskCount ?_
    | with_reducible refine kept_latchOut k_latchOut ?_
    | with_reducible refine kept_noteArith k_noteArith ?_
    | with_reducible refine kept_errsDone k_errsDone ?_
    | with_reducible refine kept_foldl (fun s x hs => ?_) ?_
    | (fail_if_no_progress with_reducible refine Kept.mk' ?_  (h_sch := .inr ⟨i18, .inr i19, .inr i20, .inr i21⟩) (h_cap := .inr ⟨i22, sm, sm, sm⟩) (h_pub := .inr ⟨i32, sm, sm, .inr i35⟩) (h_hp := .inr ⟨i42, .inr i43, sm, sm, .inr i46, sm, sm, sm, sm, sm, sm, sm⟩) (h_cnt := .inr i76) (h_limits := .inr i77) (h_evLog := .inr i78) (h_evLogSeq := .inr i79))
    | split
    | dsimp +zetaDelta only

theorem kept_execScanRun {μ : Nat} (hw : 1133367955972316397830144 &&& μ = 1133367955972316397830144) {s0 : State} {s : State}  (kh : Kept μ s0 s) :
    KeptOut μ s0 (execScanRun s) := by
  have k_act : 0 &&& μ = 0 := sub_of hw rfl
  have k_runScan : 1133367955972316397830144 &&& μ = 1133367955972316397830144 := sub_of hw rfl
  have i18 : μ.testBit 18 = true := bit_of hw rfl
  have i19 : μ.testBit 19 = true := bit_of hw rfl
  have i20 : μ.testBit 20 = true := bit_of hw rfl
  have i21 : μ.testBit 21 = true := bit_of hw rfl
  have i22 : μ.testBit 22 = true := bit_of hw rfl
  have i32 : μ.testBit 32 = true := bit_of hw rfl
  have i35 : μ.testBit 35 = true := bit_of hw rfl
  have i42 : μ.testBit 42 = true := bit_of hw rfl
  have i43 : μ.testBit 43 = true := bit_of hw rfl
  have i46 : μ.testBit 46 = true := bit_of hw rfl
  have i76 : μ.testBit 76 = true := bit_of hw rfl
  have i77 : μ.testBit 77 = true := bit_of hw rfl
  have i78 : μ.testBit 78 = true := bit_of hw rfl
  have i79 : μ.testBit 79 = true := bit_of hw rfl
  unfold execScanRun
  repeat' first
    | with_reducible assumption
    | (intro s; with_reducible refine (fun (hs : Kept μ s0 s) => ?_) ?_)
    | intro x
    | lift_lets
    | with_reducible refine kept_act k_act (fun s hs => ?_) ?_
    | with_reducible refine kept_runScan k_runScan ?_
    | (fail_if_no_progress with_reducible refine Kept.mk' ?_  (h_sch := .inr ⟨i18, .inr i19, .inr i20, .inr i21⟩) (h_cap := .inr ⟨i22, sm, sm, sm⟩) (h_pub := .inr ⟨i32, sm, sm, .inr i35⟩) (h_hp := .inr ⟨i42, .inr i43, sm, sm, .inr i46, sm, sm, sm, sm, sm, sm, sm⟩) (h_cnt := .inr i76) (h_limits := .inr i77) (h_evLog := .inr i78) (h_evLogSeq := .inr i79))
    | split
    | with_reducible refine KeptOut.mk' ?_
    | dsimp +zetaDelta only

theorem kept_stnLose {μ : Nat} (hw : 982252228520449088946176 &&& μ = 982252228520449088946176) {s0 : State} {n : Nat} {s : State}  (kh : Kept μ s0 s) :
    Kept μ s0 (stnLose n s) := by
  have k_count : 982252228520449088159744 &&& μ = 982252228520449088159744 := sub_of hw rfl
  have k_modDs : 786432 &&& μ = 786432 := sub_of hw rfl
  have k_modStn : 786432 &&& μ = 786432 := sub_of hw rfl
  have k_raise : 906694364785738671718400 &&& μ = 906694364785738671718400 := sub_of hw rfl
  have k_schFlag : 13194139533312 &&& μ = 13194139533312 := sub_of hw rfl
  have i18 : μ.testBit 18 = true := bit_of hw rfl
  have i19 : μ.testBit 19 = true := bit_of hw rfl
  have i42 : μ.testBit 42 = true := bit_of hw rfl
  have i43 : μ.testBit 43 = true := bit_of hw rfl
  have i46 : μ.testBit 46 = true := bit_of hw rfl
  have i76 : μ.testBit 76 = true := bit_of hw rfl
  have i78 : μ.testBit 78 = true := bit_of hw rfl
  have i79 : μ.testBit 79 = true := bit_of hw rfl
  unfold stnLose
  repeat' first
    | with_reducible assumption
    | (intro s; with_reducible refine (fun (hs : Kept μ s0 s) => ?_) ?_)
    | intro x
    | lift_lets
    | with_reducible refine kept_raise k_raise ?_
    | with_reducible refine kept_count k_count ?_
    | with_reducible refine kept_modStn k_modStn ?_
    | with_reducible refine kept_modDs k_modDs ?_
    | with_reducible refine kept_schFlag k_schFlag ?_
    | with_reducible refine kept_foldl (fun s x hs => ?_) ?_
    | (fail_if_no_progress with_reducible refine Kept.mk' ?_  (h_sch := .inr ⟨i18, .inr i19, sm, sm⟩) (h_hp := .inr ⟨i42, .inr i43, sm, sm, .inr i46, sm, sm, sm, sm, sm, sm, sm⟩) (h_cnt := .inr i76) (h_evLog := .inr i78) (h_evLogSeq := .inr i79))
    | split
    | dsimp +zetaDelta only

theorem kept_stnRise {μ : Nat} (hw : 982252228520449088946176 &&& μ = 982252228520449088946176) {s0 : State} {n : Nat} {s : State}  (kh : Kept μ s0 s) :
    Kept μ s0 (stnRise n s) := by
  have k_count : 982252228520449088159744 &&& μ = 982252228520449088159744 := sub_of hw rfl
  have k_modStn : 786432 &&& μ = 786432 := sub_of hw rfl
  have k_raise : 906694364785738671718400 &&& μ = 906694364785738671718400 := sub_of hw rfl
  have k_schFlag : 13194139533312 &&& μ = 13194139533312 := sub_of hw rfl
  have k_stnLose : 982252228520449088946176 &&& μ = 982252228520449088946176 := sub_of hw rfl
  have i18 : μ.testBit 18 = true := bit_of hw rfl
  have i19 : μ.testBit 19 = true := bit_of hw rfl
  have i42 : μ.testBit 42 = true := bit_of hw rfl
  have i43 : μ.testBit 43 = true := bit_of hw rfl
  have i46 : μ.testBit 46 = true := bit_of hw rfl
  have i76 : μ.testBit 76 = true := bit_of hw rfl
  have i78 : μ.testBit 78 = true := bit_of hw rfl
  have i79 : μ.testBit 79 = true := bit_of hw rfl
  unfold stnRise
  repeat' first
    | with_reducible assumption
    | (intro s; with_reducible refine (fun (hs : Kept μ s0 s) => ?_) ?_)
    | intro x
    | lift_lets
    | with_reducible refine kept_raise k_raise ?_
    | with_reducible refine kept_count k_count ?_
    | with_reducible refine kept_modStn k_modStn ?_
    | with_reducible refine kept_schFlag k_schFlag ?_
    | with_reducible refine kept_stnLose k_stnLose ?_
    | (fail_if_no_progress with_reducible refine Kept.mk' ?_  (h_sch := .inr ⟨i18, .inr i19, sm, sm⟩) (h_hp := .inr ⟨i42, .inr i43, sm, sm, .inr i46, sm, sm, sm, sm, sm, sm, sm⟩) (h_cnt := .inr i76) (h_evLog := .inr i78) (h_evLogSeq := .inr i79))
    | split
    | dsimp +zetaDelta only

theorem kept_stnTick {μ : Nat} (hw : 982252228520449088946176 &&& μ = 982252228520449088946176) {s0 : State} {s : State}  (kh : Kept μ s0 s) :
    Kept μ s0 (stnTick s) := by
  have k_stnRise : 982252228520449088946176 &&& μ = 982252228520449088946176 := sub_of hw rfl
  unfold stnTick
  repeat' first
    | with_reducible assumption
    | (intro s; with_reducible refine (fun (hs : Kept μ s0 s) => ?_) ?_)
    | intro x
    | lift_lets
    | with_reducible refine kept_stnRise k_stnRise ?_
    | with_reducible refine kept_foldl (fun s x hs => ?_) ?_
    | split
    | dsimp +zetaDelta only

theorem kept_execStationTalExpiry {μ : Nat} (hw : 982252228520449088946176 &&& μ = 982252228520449088946176) {s0 : State} {n : Nat} {s : State}  (kh : Kept μ s0 s) :
    KeptOut μ s0 (execStationTalExpiry n s) := by
  have k_act : 0 &&& μ = 0 := sub_of hw rfl
  have k_stnLose : 982252228520449088946176 &&& μ = 982252228520449088946176 := sub_of hw rfl
  unfold execStationTalExpiry
  repeat' first
    | with_reducible assumption
    | (intro s; with_reducible refine (fun (hs : Kept μ s0 s) => ?_) ?_)
    | intro x
    | lift_lets
    | with_reducible refine kept_act k_act (fun s hs => ?_) ?_
    | with_reducible refine kept_stnLose k_stnLose ?_
    | split
    | with_reducible refine KeptOut.mk' ?_
    | dsimp +zetaDelta only

theorem kept_dsPolicerTick {μ : Nat} (hw : 786432 &&& μ = 786432) {s0 : State} {s : State}  (kh : Kept μ s0 s) :
    Kept μ s0 (dsPolicerTick s) := by
  have i18 : μ.testBit 18 = true := bit_of hw rfl
  have i19 : μ.testBit 19 = true := bit_of hw rfl
  unfold dsPolicerTick
  repeat' first
    | with_reducible assumption
    | (intro s; with_reducible refine (fun (hs : Kept μ s0 s) => ?_) ?_)
    | intro x
    | lift_lets
    | (fail_if_no_progress with_reducible refine Kept.mk' ?_  (h_sch := .inr ⟨i18, .inr i19, sm, sm⟩))
    | split
    | dsimp +zetaDelta only

theorem kept_gooseAuth {μ : Nat} (hw : 1133367955972277734998016 &&& μ = 1133367955972277734998016) {s0 : State} {d : Nat} {m : GooseMsg} {s : State}  (kh : Kept μ s0 s) :
    KeptF μ s0 (gooseAuth d m s) := by
  have k_macVerify : 1133367955972277734998016 &&& μ = 1133367955972277734998016 := sub_of hw rfl
  unfold gooseAuth
  dsimp only
  split
  · exact KeptF.mk' kh
  · split
    · exact KeptF.mk' kh
    · split
      · exact KeptF.mk' (KeptF.fst (kept_macVerify k_macVerify kh))
      · exact KeptF.mk' kh

theorem kept_gooseMsg {μ : Nat} (hw : 1133367955972277735784448 &&& μ = 1133367955972277735784448) {s0 : State} {d arr : Nat} {m : GooseMsg} {s : State}  (kh : Kept μ s0 s) :
    Kept μ s0 (gooseMsg d arr m s) := by
  have k_count : 982252228520449088159744 &&& μ = 982252228520449088159744 := sub_of hw rfl
  have k_gooseAuth : 1133367955972277734998016 &&& μ = 1133367955972277734998016 := sub_of hw rfl
  have k_modDs : 786432 &&& μ = 786432 := sub_of hw rfl
  have k_raiseLimited : 1057810092237567318556672 &&& μ = 1057810092237567318556672 := sub_of hw rfl
  have k_schFlag : 13194139533312 &&& μ = 13194139533312 := sub_of hw rfl
  have i18 : μ.testBit 18 = true := bit_of hw rfl
  have i19 : μ.testBit 19 = true := bit_of hw rfl
  have i42 : μ.testBit 42 = true := bit_of hw rfl
  have i43 : μ.testBit 43 = true := bit_of hw rfl
  have i46 : μ.testBit 46 = true := bit_of hw rfl
  have i76 : μ.testBit 76 = true := bit_of hw rfl
  have i77 : μ.testBit 77 = true := bit_of hw rfl
  have i78 : μ.testBit 78 = true := bit_of hw rfl
  have i79 : μ.testBit 79 = true := bit_of hw rfl
  unfold gooseMsg
  dsimp only
  split
  · exact kept_count k_count kh
  · have hs : ∀ {t f}, Kept μ s0 t → Kept μ s0 (modDs d f t) := fun q => kept_modDs k_modDs q
    split
    · exact kept_raiseLimited k_raiseLimited (kept_schFlag k_schFlag (kept_count k_count (hs kh)))
    · split
      · exact kept_count k_count (hs kh)
      · split
        · exact kept_count k_count (hs kh)
        · have ha := KeptF.fst (kept_gooseAuth k_gooseAuth (d := d) (m := m) (hs (f := fun r => { r with credit := r.credit - tps s }) kh))
          split
          · exact kept_count k_count ha
          · split
            · exact kept_count k_count ha
            · refine kept_count k_count ?_
              with_reducible refine Kept.mk' ?_  (h_sch := .inr ⟨i18, .inr i19, sm, sm⟩) (h_hp := .inr ⟨i42, .inr i43, sm, sm, .inr i46, sm, sm, sm, sm, sm, sm, sm⟩) (h_cnt := .inr i76) (h_limits := .inr i77) (h_evLog := .inr i78) (h_evLogSeq := .inr i79)
              exact hs ha

theorem kept_execGooseMessageRx {μ : Nat} (hw : 1133367955972277735784561 &&& μ = 1133367955972277735784561) {s0 : State} {s : State}  (kh : Kept μ s0 s) :
    KeptOut μ s0 (execGooseMessageRx s) := by
  have k_act : 0 &&& μ = 0 := sub_of hw rfl
  have k_count : 982252228520449088159744 &&& μ = 982252228520449088159744 := sub_of hw rfl
  have k_gooseMsg : 1133367955972277735784448 &&& μ = 1133367955972277735784448 := sub_of hw rfl
  have k_takeHanded : 113 &&& μ = 113 := sub_of hw rfl
  have i0 : μ.testBit 0 = true := bit_of hw rfl
  have i4 : μ.testBit 4 = true := bit_of hw rfl
  have i5 : μ.testBit 5 = true := bit_of hw rfl
  have i6 : μ.testBit 6 = true := bit_of hw rfl
  have i18 : μ.testBit 18 = true := bit_of hw rfl
  have i19 : μ.testBit 19 = true := bit_of hw rfl
  have i42 : μ.testBit 42 = true := bit_of hw rfl
  have i43 : μ.testBit 43 = true := bit_of hw rfl
  have i46 : μ.testBit 46 = true := bit_of hw rfl
  have i76 : μ.testBit 76 = true := bit_of hw rfl
  have i77 : μ.testBit 77 = true := bit_of hw rfl
  have i78 : μ.testBit 78 = true := bit_of hw rfl
  have i79 : μ.testBit 79 = true := bit_of hw rfl
  unfold execGooseMessageRx
  repeat' first
    | with_reducible assumption
    | (intro s; with_reducible refine (fun (hs : Kept μ s0 s) => ?_) ?_)
    | intro x
    | lift_lets
    | with_reducible refine kept_act k_act (fun s hs => ?_) ?_
    | with_reducible refine kept_count k_count ?_
    | with_reducible refine kept_takeHanded k_takeHanded ?_
    | with_reducible refine kept_gooseMsg k_gooseMsg ?_
    | with_reducible refine KeptOS.eq (by with_reducible assumption) ?_
    | (fail_if_no_progress with_reducible refine Kept.mk' ?_  (h_tb := .inr ⟨i0, sm, sm, sm⟩) (h_eth := .inr ⟨i4, .inr i5, .inr i6, sm⟩) (h_sch := .inr ⟨i18, .inr i19, sm, sm⟩) (h_hp := .inr ⟨i42, .inr i43, sm, sm, .inr i46, sm, sm, sm, sm, sm, sm, sm⟩) (h_cnt := .inr i76) (h_limits := .inr i77) (h_evLog := .inr i78) (h_evLogSeq := .inr i79))
    | split
    | with_reducible refine KeptOut.mk' ?_
    | dsimp +zetaDelta only

theorem kept_taskReset {μ : Nat} (hw : 3932160 &&& μ = 3932160) {s0 : State} {t : Nat} {s : State}  (kh : Kept μ s0 s) :
    Kept μ s0 (taskReset t s) := by
  have i18 : μ.testBit 18 = true := bit_of hw rfl
  have i19 : μ.testBit 19 = true := bit_of hw rfl
  have i20 : μ.testBit 20 = true := bit_of hw rfl
  have i21 : μ.testBit 21 = true := bit_of hw rfl
  unfold taskReset
  repeat' first
    | with_reducible assumption
    | (intro s; with_reducible refine (fun (hs : Kept μ s0 s) => ?_) ?_)
    | intro x
    | lift_lets
    | with_reducible refine kept_foldl (fun s x hs => ?_) ?_
    | (fail_if_no_progress with_reducible refine Kept.mk' ?_  (h_sch := .inr ⟨i18, .inr i19, .inr i20, .inr i21⟩))
    | split
    | dsimp +zetaDelta only

end Sys2Proof.Machine
end

