-- ==== Sys2Proof/Laws/KeptPublish.lean ====
section
/-!
SUPPORT. Sys2Proof/Laws/KeptPublish.lean: every operation of Publish.lean keeps what no command changes, and the parts that it does not write (Kept.lean).
-/
set_option Elab.async false
set_option linter.unusedTactic false
set_option linter.unreachableTactic false
set_option linter.unusedVariables false
namespace Sys2Proof.Machine

theorem kept_modOs {μ : Nat} (hw : 12884901888 &&& μ = 12884901888) {s0 : State} {n : Nat} {f : OutStream → OutStream} {s : State}  (kh : Kept μ s0 s) :
    Kept μ s0 (modOs n f s) := by
  have i32 : μ.testBit 32 = true := bit_of hw rfl
  have i33 : μ.testBit 33 = true := bit_of hw rfl
  unfold modOs
  repeat' first
    | with_reducible assumption
    | (intro s; with_reducible refine (fun (hs : Kept μ s0 s) => ?_) ?_)
    | intro x
    | lift_lets
    | (fail_if_no_progress with_reducible refine Kept.mk' ?_  (h_pub := .inr ⟨i32, .inr i33, sm, sm⟩))
    | split
    | dsimp +zetaDelta only

theorem kept_modGp {μ : Nat} (hw : 21474836480 &&& μ = 21474836480) {s0 : State} {n : Nat} {f : Goose → Goose} {s : State}  (kh : Kept μ s0 s) :
    Kept μ s0 (modGp n f s) := by
  have i32 : μ.testBit 32 = true := bit_of hw rfl
  have i34 : μ.testBit 34 = true := bit_of hw rfl
  unfold modGp
  repeat' first
    | with_reducible assumption
    | (intro s; with_reducible refine (fun (hs : Kept μ s0 s) => ?_) ?_)
    | intro x
    | lift_lets
    | (fail_if_no_progress with_reducible refine Kept.mk' ?_  (h_pub := .inr ⟨i32, sm, .inr i34, sm⟩))
    | split
    | dsimp +zetaDelta only

theorem kept_pubFlag {μ : Nat} (hw : 13194139533312 &&& μ = 13194139533312) {s0 : State} {b : Nat} {s : State}  (kh : Kept μ s0 s) :
    Kept μ s0 (pubFlag b s) := by
  have k_setFlag : 13194139533312 &&& μ = 13194139533312 := sub_of hw rfl
  unfold pubFlag
  repeat' first
    | with_reducible assumption
    | (intro s; with_reducible refine (fun (hs : Kept μ s0 s) => ?_) ?_)
    | intro x
    | lift_lets
    | with_reducible refine kept_setFlag k_setFlag ?_
    | split
    | dsimp +zetaDelta only

theorem kept_withhold {μ : Nat} (hw : 982252228520449088159744 &&& μ = 982252228520449088159744) {s0 : State} {s : State}  (kh : Kept μ s0 s) :
    Kept μ s0 (withhold s) := by
  have k_flagCount : 982252228520449088159744 &&& μ = 982252228520449088159744 := sub_of hw rfl
  unfold withhold
  repeat' first
    | with_reducible assumption
    | (intro s; with_reducible refine (fun (hs : Kept μ s0 s) => ?_) ?_)
    | intro x
    | lift_lets
    | with_reducible refine kept_flagCount k_flagCount ?_
    | split
    | dsimp +zetaDelta only

theorem kept_hostCopies {μ : Nat} (hw : 906694369333318764199936 &&& μ = 906694369333318764199936) {s0 : State} {mask dep : Nat} {bs : List Byte} {gs : List Nat} {s : State}  (kh : Kept μ s0 s) :
    Kept μ s0 (hostCopies mask dep bs gs s) := by
  have k_rxEnqueue : 906694369333318764199936 &&& μ = 906694369333318764199936 := sub_of hw rfl
  unfold hostCopies
  repeat' first
    | with_reducible assumption
    | (intro s; with_reducible refine (fun (hs : Kept μ s0 s) => ?_) ?_)
    | intro x
    | lift_lets
    | with_reducible refine kept_rxEnqueue k_rxEnqueue ?_
    | with_reducible refine kept_foldl (fun s x hs => ?_) ?_
    | split
    | dsimp +zetaDelta only

theorem kept_nextFrameNo {μ : Nat} (hw : 4294967296 &&& μ = 4294967296) {s0 : State} {s : State}  (kh : Kept μ s0 s) :
    KeptS μ s0 (nextFrameNo s) := by
  have i32 : μ.testBit 32 = true := bit_of hw rfl
  unfold nextFrameNo
  repeat' first
    | with_reducible assumption
    | (intro s; with_reducible refine (fun (hs : Kept μ s0 s) => ?_) ?_)
    | intro x
    | lift_lets
    | (fail_if_no_progress with_reducible refine Kept.mk' ?_  (h_pub := .inr ⟨i32, sm, sm, sm⟩))
    | split
    | with_reducible refine KeptS.mk' ?_
    | dsimp +zetaDelta only

theorem kept_toClient {μ : Nat} (hw : 982252233059233087619120 &&& μ = 982252233059233087619120) {s0 : State} {n no t : Nat} {bytes : List Byte} {due : Option Nat} {full : Bool} {c : TcpClient} {s : State}  (kh : Kept μ s0 s) :
    Kept μ s0 (toClient n no t bytes due full c s) := by
  have k_enqueueMask : 982252233059233087619120 &&& μ = 982252233059233087619120 := sub_of hw rfl
  have k_flagCount : 982252228520449088159744 &&& μ = 982252228520449088159744 := sub_of hw rfl
  unfold toClient
  repeat' first
    | with_reducible assumption
    | (intro s; with_reducible refine (fun (hs : Kept μ s0 s) => ?_) ?_)
    | intro x
    | lift_lets
    | with_reducible refine kept_flagCount k_flagCount ?_
    | with_reducible refine kept_enqueueMask k_enqueueMask ?_
    | split
    | dsimp +zetaDelta only

theorem kept_sendOut {μ : Nat} (hw : 982252233059237382586416 &&& μ = 982252233059237382586416) {s0 : State} {n inst due : Nat} {bytes : List Byte} {full : List (Nat × Nat)} {s : State}  (kh : Kept μ s0 s) :
    Kept μ s0 (sendOut n inst due bytes full s) := by
  have k_enqueueMask : 982252233059233087619120 &&& μ = 982252233059233087619120 := sub_of hw rfl
  have k_nextFrameNo : 4294967296 &&& μ = 4294967296 := sub_of hw rfl
  have k_toClient : 982252233059233087619120 &&& μ = 982252233059233087619120 := sub_of hw rfl
  unfold sendOut
  repeat' first
    | with_reducible assumption
    | (intro s; with_reducible refine (fun (hs : Kept μ s0 s) => ?_) ?_)
    | intro x
    | lift_lets
    | with_reducible refine kept_enqueueMask k_enqueueMask ?_
    | with_reducible refine kept_nextFrameNo k_nextFrameNo ?_
    | with_reducible refine kept_toClient k_toClient ?_
    | with_reducible refine kept_foldl (fun s x hs => ?_) ?_
    | with_reducible refine KeptS.eq (by with_reducible assumption) ?_
    | split
    | with_reducible refine KeptS.mk' ?_
    | with_reducible refine KeptS.snd ?_
    | dsimp +zetaDelta only

theorem kept_sendRsv {μ : Nat} (hw : 1133367960511074619359280 &&& μ = 1133367960511074619359280) {s0 : State} {n due : Nat} {body : List Byte} {s : State}  (kh : Kept μ s0 s) :
    Kept μ s0 (sendRsv n due body s) := by
  have k_enqueueMask : 982252233059233087619120 &&& μ = 982252233059233087619120 := sub_of hw rfl
  have k_macSign : 1133367955972277734998016 &&& μ = 1133367955972277734998016 := sub_of hw rfl
  have k_modOs : 12884901888 &&& μ = 12884901888 := sub_of hw rfl
  have k_nextFrameNo : 4294967296 &&& μ = 4294967296 := sub_of hw rfl
  have i4 : μ.testBit 4 = true := bit_of hw rfl
  have i5 : μ.testBit 5 = true := bit_of hw rfl
  have i32 : μ.testBit 32 = true := bit_of hw rfl
  have i33 : μ.testBit 33 = true := bit_of hw rfl
  have i42 : μ.testBit 42 = true := bit_of hw rfl
  have i43 : μ.testBit 43 = true := bit_of hw rfl
  have i45 : μ.testBit 45 = true := bit_of hw rfl
  have i46 : μ.testBit 46 = true := bit_of hw rfl
  have i52 : μ.testBit 52 = true := bit_of hw rfl
  have i76 : μ.testBit 76 = true := bit_of hw rfl
  have i77 : μ.testBit 77 = true := bit_of hw rfl
  have i78 : μ.testBit 78 = true := bit_of hw rfl
  have i79 : μ.testBit 79 = true := bit_of hw rfl
  unfold sendRsv
  repeat' first
    | with_reducible assumption
    | (intro s; with_reducible refine (fun (hs : Kept μ s0 s) => ?_) ?_)
    | intro x
    | lift_lets
    | with_reducible refine kept_enqueueMask k_enqueueMask ?_
    | with_reducible refine kept_macSign k_macSign ?_
    | with_reducible refine kept_modOs k_modOs ?_
    | with_reducible refine kept_nextFrameNo k_nextFrameNo ?_
    | with_reducible refine KeptF.eq (by with_reducible assumption) ?_
    | with_reducible refine KeptS.eq (by with_reducible assumption) ?_
    | (fail_if_no_progress with_reducible refine Kept.mk' ?_  (h_eth := .inr ⟨i4, .inr i5, sm, sm⟩) (h_pub := .inr ⟨i32, .inr i33, sm, sm⟩) (h_hp := .inr ⟨i42, .inr i43, sm, .inr i45, .inr i46, sm, sm, sm, sm, sm, .inr i52, sm⟩) (h_cnt := .inr i76) (h_limits := .inr i77) (h_evLog := .inr i78) (h_evLogSeq := .inr i79))
    | split
    | with_reducible refine KeptF.mk' ?_
    | with_reducible refine KeptS.mk' ?_
    | with_reducible refine KeptF.fst ?_
    | with_reducible refine KeptS.snd ?_
    | dsimp +zetaDelta only

theorem kept_assemble {μ : Nat} (hw : 1133367960511074619359280 &&& μ = 1133367960511074619359280) {s0 : State} {d : FrameDue} {full : List (Nat × Nat)} {s : State}  (kh : Kept μ s0 s) :
    Kept μ s0 (assemble d full s) := by
  have k_sendOut : 982252233059237382586416 &&& μ = 982252233059237382586416 := sub_of hw rfl
  have k_sendRsv : 1133367960511074619359280 &&& μ = 1133367960511074619359280 := sub_of hw rfl
  have i4 : μ.testBit 4 = true := bit_of hw rfl
  have i5 : μ.testBit 5 = true := bit_of hw rfl
  have i32 : μ.testBit 32 = true := bit_of hw rfl
  have i33 : μ.testBit 33 = true := bit_of hw rfl
  have i42 : μ.testBit 42 = true := bit_of hw rfl
  have i43 : μ.testBit 43 = true := bit_of hw rfl
  have i45 : μ.testBit 45 = true := bit_of hw rfl
  have i46 : μ.testBit 46 = true := bit_of hw rfl
  have i52 : μ.testBit 52 = true := bit_of hw rfl
  have i76 : μ.testBit 76 = true := bit_of hw rfl
  have i77 : μ.testBit 77 = true := bit_of hw rfl
  have i78 : μ.testBit 78 = true := bit_of hw rfl
  have i79 : μ.testBit 79 = true := bit_of hw rfl
  unfold assemble
  repeat' first
    | with_reducible assumption
    | (intro s; with_reducible refine (fun (hs : Kept μ s0 s) => ?_) ?_)
    | intro x
    | lift_lets
    | with_reducible refine kept_sendOut k_sendOut ?_
    | with_reducible refine kept_sendRsv k_sendRsv ?_
    | (fail_if_no_progress with_reducible refine Kept.mk' ?_  (h_eth := .inr ⟨i4, .inr i5, sm, sm⟩) (h_pub := .inr ⟨i32, .inr i33, sm, sm⟩) (h_hp := .inr ⟨i42, .inr i43, sm, .inr i45, .inr i46, sm, sm, sm, sm, sm, .inr i52, sm⟩) (h_cnt := .inr i76) (h_limits := .inr i77) (h_evLog := .inr i78) (h_evLogSeq := .inr i79))
    | split
    | dsimp +zetaDelta only

theorem kept_execOutputFrameAssemble {μ : Nat} (hw : 1133367960511074619377712 &&& μ = 1133367960511074619377712) {s0 : State} {n : Nat} {k : FrameCheck} {s : State}  (kh : Kept μ s0 s) :
    KeptOut μ s0 (execOutputFrameAssemble n k s) := by
  have k_act : 0 &&& μ = 0 := sub_of hw rfl
  have k_assemble : 1133367960511074619359280 &&& μ = 1133367960511074619359280 := sub_of hw rfl
  have k_frameRebuild : 982252228520449088159744 &&& μ = 982252228520449088159744 := sub_of hw rfl
  have k_readerCheck : 982252228520449088178176 &&& μ = 982252228520449088178176 := sub_of hw rfl
  have k_withhold : 982252228520449088159744 &&& μ = 982252228520449088159744 := sub_of hw rfl
  have i4 : μ.testBit 4 = true := bit_of hw rfl
  have i5 : μ.testBit 5 = true := bit_of hw rfl
  have i11 : μ.testBit 11 = true := bit_of hw rfl
  have i14 : μ.testBit 14 = true := bit_of hw rfl
  have i32 : μ.testBit 32 = true := bit_of hw rfl
  have i33 : μ.testBit 33 = true := bit_of hw rfl
  have i42 : μ.testBit 42 = true := bit_of hw rfl
  have i43 : μ.testBit 43 = true := bit_of hw rfl
  have i45 : μ.testBit 45 = true := bit_of hw rfl
  have i46 : μ.testBit 46 = true := bit_of hw rfl
  have i52 : μ.testBit 52 = true := bit_of hw rfl
  have i76 : μ.testBit 76 = true := bit_of hw rfl
  have i77 : μ.testBit 77 = true := bit_of hw rfl
  have i78 : μ.testBit 78 = true := bit_of hw rfl
  have i79 : μ.testBit 79 = true := bit_of hw rfl
  unfold execOutputFrameAssemble
  repeat' first
    | with_reducible assumption
    | (intro s; with_reducible refine (fun (hs : Kept μ s0 s) => ?_) ?_)
    | intro x
    | lift_lets
    | with_reducible refine kept_act k_act (fun s hs => ?_) ?_
    | with_reducible refine kept_frameRebuild k_frameRebuild ?_
    | with_reducible refine kept_readerCheck k_readerCheck ?_
    | with_reducible refine kept_withhold k_withhold ?_
    | with_reducible refine kept_assemble k_assemble ?_
    | (fail_if_no_progress with_reducible refine Kept.mk' ?_  (h_eth := .inr ⟨i4, .inr i5, sm, sm⟩) (h_aln := .inr ⟨i11, sm, sm, .inr i14⟩) (h_pub := .inr ⟨i32, .inr i33, sm, sm⟩) (h_hp := .inr ⟨i42, .inr i43, sm, .inr i45, .inr i46, sm, sm, sm, sm, sm, .inr i52, sm⟩) (h_cnt := .inr i76) (h_limits := .inr i77) (h_evLog := .inr i78) (h_evLogSeq := .inr i79))
    | split
    | with_reducible refine KeptOut.mk' ?_
    | dsimp +zetaDelta only

theorem kept_execCfgPendStart {μ : Nat} (hw : 906694364785751556620288 &&& μ = 906694364785751556620288) {s0 : State} {n : Nat} {s : State}  (kh : Kept μ s0 s) :
    KeptOut μ s0 (execCfgPendStart n s) := by
  have k_act : 0 &&& μ = 0 := sub_of hw rfl
  have k_modOs : 12884901888 &&& μ = 12884901888 := sub_of hw rfl
  have k_raise : 906694364785738671718400 &&& μ = 906694364785738671718400 := sub_of hw rfl
  have i32 : μ.testBit 32 = true := bit_of hw rfl
  have i33 : μ.testBit 33 = true := bit_of hw rfl
  have i42 : μ.testBit 42 = true := bit_of hw rfl
  have i46 : μ.testBit 46 = true := bit_of hw rfl
  have i78 : μ.testBit 78 = true := bit_of hw rfl
  have i79 : μ.testBit 79 = true := bit_of hw rfl
  unfold execCfgPendStart
  repeat' first
    | with_reducible assumption
    | (intro s; with_reducible refine (fun (hs : Kept μ s0 s) => ?_) ?_)
    | intro x
    | lift_lets
    | with_reducible refine kept_act k_act (fun s hs => ?_) ?_
    | with_reducible refine kept_raise k_raise ?_
    | with_reducible refine kept_modOs k_modOs ?_
    | (fail_if_no_progress with_reducible refine Kept.mk' ?_  (h_pub := .inr ⟨i32, .inr i33, sm, sm⟩) (h_hp := .inr ⟨i42, sm, sm, sm, .inr i46, sm, sm, sm, sm, sm, sm, sm⟩) (h_evLog := .inr i78) (h_evLogSeq := .inr i79))
    | split
    | with_reducible refine KeptOut.mk' ?_
    | dsimp +zetaDelta only

theorem kept_takeCmd {μ : Nat} (hw : 982252228520449088159857 &&& μ = 982252228520449088159857) {s0 : State} {p : Nat → Bool} {s : State}  (kh : Kept μ s0 s) :
    KeptOS4 μ s0 (takeCmd p s) := by
  have k_count : 982252228520449088159744 &&& μ = 982252228520449088159744 := sub_of hw rfl
  have k_takeHanded : 113 &&& μ = 113 := sub_of hw rfl
  have i0 : μ.testBit 0 = true := bit_of hw rfl
  have i4 : μ.testBit 4 = true := bit_of hw rfl
  have i5 : μ.testBit 5 = true := bit_of hw rfl
  have i6 : μ.testBit 6 = true := bit_of hw rfl
  have i42 : μ.testBit 42 = true := bit_of hw rfl
  have i43 : μ.testBit 43 = true := bit_of hw rfl
  have i46 : μ.testBit 46 = true := bit_of hw rfl
  have i76 : μ.testBit 76 = true := bit_of hw rfl
  have i78 : μ.testBit 78 = true := bit_of hw rfl
  have i79 : μ.testBit 79 = true := bit_of hw rfl
  unfold takeCmd
  repeat' first
    | with_reducible assumption
    | (intro s; with_reducible refine (fun (hs : Kept μ s0 s) => ?_) ?_)
    | intro x
    | lift_lets
    | with_reducible refine kept_count k_count ?_
    | with_reducible refine kept_takeHanded k_takeHanded ?_
    | with_reducible exact KeptOS4.none
    | with_reducible refine KeptOS.eq (by with_reducible assumption) ?_
    | (fail_if_no_progress with_reducible refine Kept.mk' ?_  (h_tb := .inr ⟨i0, sm, sm, sm⟩) (h_eth := .inr ⟨i4, .inr i5, .inr i6, sm⟩) (h_hp := .inr ⟨i42, .inr i43, sm, sm, .inr i46, sm, sm, sm, sm, sm, sm, sm⟩) (h_cnt := .inr i76) (h_evLog := .inr i78) (h_evLogSeq := .inr i79))
    | split
    | with_reducible refine KeptOS4.mk' ?_
    | dsimp +zetaDelta only

theorem kept_cmdUsed {μ : Nat} (hw : 12884901888 &&& μ = 12884901888) {s0 : State} {n : Nat} {s : State}  (kh : Kept μ s0 s) :
    Kept μ s0 (cmdUsed n s) := by
  have k_modOs : 12884901888 &&& μ = 12884901888 := sub_of hw rfl
  have i32 : μ.testBit 32 = true := bit_of hw rfl
  have i33 : μ.testBit 33 = true := bit_of hw rfl
  unfold cmdUsed
  repeat' first
    | with_reducible assumption
    | (intro s; with_reducible refine (fun (hs : Kept μ s0 s) => ?_) ?_)
    | intro x
    | lift_lets
    | with_reducible refine kept_modOs k_modOs ?_
    | (fail_if_no_progress with_reducible refine Kept.mk' ?_  (h_pub := .inr ⟨i32, .inr i33, sm, sm⟩))
    | split
    | dsimp +zetaDelta only

theorem kept_setOn {μ : Nat} (hw : 12884901888 &&& μ = 12884901888) {s0 : State} {n : Nat} {h : IpHdr} {b : Bool} {s : State}  (kh : Kept μ s0 s) :
    Kept μ s0 (setOn n h b s) := by
  have k_modOs : 12884901888 &&& μ = 12884901888 := sub_of hw rfl
  have i32 : μ.testBit 32 = true := bit_of hw rfl
  have i33 : μ.testBit 33 = true := bit_of hw rfl
  unfold setOn
  repeat' first
    | with_reducible assumption
    | (intro s; with_reducible refine (fun (hs : Kept μ s0 s) => ?_) ?_)
    | intro x
    | lift_lets
    | with_reducible refine kept_modOs k_modOs ?_
    | (fail_if_no_progress with_reducible refine Kept.mk' ?_  (h_pub := .inr ⟨i32, .inr i33, sm, sm⟩))
    | split
    | dsimp +zetaDelta only

theorem kept_answerCmd {μ : Nat} (hw : 982252233059237382586416 &&& μ = 982252233059237382586416) {s0 : State} {n : Nat} {h : IpHdr} {t : Nat} {bytes : List Byte} {full : Bool} {s : State}  (kh : Kept μ s0 s) :
    Kept μ s0 (answerCmd n h t bytes full s) := by
  have k_enqueueMask : 982252233059233087619120 &&& μ = 982252233059233087619120 := sub_of hw rfl
  have k_nextFrameNo : 4294967296 &&& μ = 4294967296 := sub_of hw rfl
  have k_toClient : 982252233059233087619120 &&& μ = 982252233059233087619120 := sub_of hw rfl
  have i4 : μ.testBit 4 = true := bit_of hw rfl
  have i5 : μ.testBit 5 = true := bit_of hw rfl
  have i32 : μ.testBit 32 = true := bit_of hw rfl
  have i42 : μ.testBit 42 = true := bit_of hw rfl
  have i43 : μ.testBit 43 = true := bit_of hw rfl
  have i45 : μ.testBit 45 = true := bit_of hw rfl
  have i46 : μ.testBit 46 = true := bit_of hw rfl
  have i52 : μ.testBit 52 = true := bit_of hw rfl
  have i76 : μ.testBit 76 = true := bit_of hw rfl
  have i78 : μ.testBit 78 = true := bit_of hw rfl
  have i79 : μ.testBit 79 = true := bit_of hw rfl
  unfold answerCmd
  repeat' first
    | with_reducible assumption
    | (intro s; with_reducible refine (fun (hs : Kept μ s0 s) => ?_) ?_)
    | intro x
    | lift_lets
    | with_reducible refine kept_enqueueMask k_enqueueMask ?_
    | with_reducible refine kept_nextFrameNo k_nextFrameNo ?_
    | with_reducible refine kept_toClient k_toClient ?_
    | with_reducible refine KeptS.eq (by with_reducible assumption) ?_
    | (fail_if_no_progress with_reducible refine Kept.mk' ?_  (h_eth := .inr ⟨i4, .inr i5, sm, sm⟩) (h_pub := .inr ⟨i32, sm, sm, sm⟩) (h_hp := .inr ⟨i42, .inr i43, sm, .inr i45, .inr i46, sm, sm, sm, sm, sm, .inr i52, sm⟩) (h_cnt := .inr i76) (h_evLog := .inr i78) (h_evLogSeq := .inr i79))
    | split
    | with_reducible refine KeptS.mk' ?_
    | with_reducible refine KeptS.snd ?_
    | dsimp +zetaDelta only

theorem kept_execCmdTurnOff {μ : Nat} (hw : 982252228520461973061745 &&& μ = 982252228520461973061745) {s0 : State} {s : State}  (kh : Kept μ s0 s) :
    KeptOut μ s0 (execCmdTurnOff s) := by
  have k_act : 0 &&& μ = 0 := sub_of hw rfl
  have k_cmdUsed : 12884901888 &&& μ = 12884901888 := sub_of hw rfl
  have k_setOn : 12884901888 &&& μ = 12884901888 := sub_of hw rfl
  have k_takeCmd : 982252228520449088159857 &&& μ = 982252228520449088159857 := sub_of hw rfl
  have i0 : μ.testBit 0 = true := bit_of hw rfl
  have i4 : μ.testBit 4 = true := bit_of hw rfl
  have i5 : μ.testBit 5 = true := bit_of hw rfl
  have i6 : μ.testBit 6 = true := bit_of hw rfl
  have i32 : μ.testBit 32 = true := bit_of hw rfl
  have i33 : μ.testBit 33 = true := bit_of hw rfl
  have i42 : μ.testBit 42 = true := bit_of hw rfl
  have i43 : μ.testBit 43 = true := bit_of hw rfl
  have i46 : μ.testBit 46 = true := bit_of hw rfl
  have i76 : μ.testBit 76 = true := bit_of hw rfl
  have i78 : μ.testBit 78 = true := bit_of hw rfl
  have i79 : μ.testBit 79 = true := bit_of hw rfl
  unfold execCmdTurnOff
  repeat' first
    | with_reducible assumption
    | (intro s; with_reducible refine (fun (hs : Kept μ s0 s) => ?_) ?_)
    | intro x
    | lift_lets
    | with_reducible refine kept_act k_act (fun s hs => ?_) ?_
    | with_reducible refine kept_takeCmd k_takeCmd ?_
    | with_reducible refine kept_cmdUsed k_cmdUsed ?_
    | with_reducible refine kept_setOn k_setOn ?_
    | with_reducible refine KeptOS4.eq (by with_reducible assumption) ?_
    | (fail_if_no_progress with_reducible refine Kept.mk' ?_  (h_tb := .inr ⟨i0, sm, sm, sm⟩) (h_eth := .inr ⟨i4, .inr i5, .inr i6, sm⟩) (h_pub := .inr ⟨i32, .inr i33, sm, sm⟩) (h_hp := .inr ⟨i42, .inr i43, sm, sm, .inr i46, sm, sm, sm, sm, sm, sm, sm⟩) (h_cnt := .inr i76) (h_evLog := .inr i78) (h_evLogSeq := .inr i79))
    | split
    | with_reducible refine KeptOut.mk' ?_
    | dsimp +zetaDelta only

theorem kept_execCmdTurnOn {μ : Nat} (hw : 982252228520461973061745 &&& μ = 982252228520461973061745) {s0 : State} {s : State}  (kh : Kept μ s0 s) :
    KeptOut μ s0 (execCmdTurnOn s) := by
  have k_act : 0 &&& μ = 0 := sub_of hw rfl
  have k_cmdUsed : 12884901888 &&& μ = 12884901888 := sub_of hw rfl
  have k_setOn : 12884901888 &&& μ = 12884901888 := sub_of hw rfl
  have k_takeCmd : 982252228520449088159857 &&& μ = 982252228520449088159857 := sub_of hw rfl
  have i0 : μ.testBit 0 = true := bit_of hw rfl
  have i4 : μ.testBit 4 = true := bit_of hw rfl
  have i5 : μ.testBit 5 = true := bit_of hw rfl
  have i6 : μ.testBit 6 = true := bit_of hw rfl
  have i32 : μ.testBit 32 = true := bit_of hw rfl
  have i33 : μ.testBit 33 = true := bit_of hw rfl
  have i42 : μ.testBit 42 = true := bit_of hw rfl
  have i43 : μ.testBit 43 = true := bit_of hw rfl
  have i46 : μ.testBit 46 = true := bit_of hw rfl
  have i76 : μ.testBit 76 = true := bit_of hw rfl
  have i78 : μ.testBit 78 = true := bit_of hw rfl
  have i79 : μ.testBit 79 = true := bit_of hw rfl
  unfold execCmdTurnOn
  repeat' first
    | with_reducible assumption
    | (intro s; with_reducible refine (fun (hs : Kept μ s0 s) => ?_) ?_)
    | intro x
    | lift_lets
    | with_reducible refine kept_act k_act (fun s hs => ?_) ?_
    | with_reducible refine kept_takeCmd k_takeCmd ?_
    | with_reducible refine kept_cmdUsed k_cmdUsed ?_
    | with_reducible refine kept_setOn k_setOn ?_
    | with_reducible refine KeptOS4.eq (by with_reducible assumption) ?_
    | (fail_if_no_progress with_reducible refine Kept.mk' ?_  (h_tb := .inr ⟨i0, sm, sm, sm⟩) (h_eth := .inr ⟨i4, .inr i5, .inr i6, sm⟩) (h_pub := .inr ⟨i32, .inr i33, sm, sm⟩) (h_hp := .inr ⟨i42, .inr i43, sm, sm, .inr i46, sm, sm, sm, sm, sm, sm, sm⟩) (h_cnt := .inr i76) (h_evLog := .inr i78) (h_evLogSeq := .inr i79))
    | split
    | with_reducible refine KeptOut.mk' ?_
    | dsimp +zetaDelta only

theorem kept_execCmdSendHeader {μ : Nat} (hw : 982252233059245972521073 &&& μ = 982252233059245972521073) {s0 : State} {s : State} {full : Bool}  (kh : Kept μ s0 s) :
    KeptOut μ s0 (execCmdSendHeader s full) := by
  have k_act : 0 &&& μ = 0 := sub_of hw rfl
  have k_answerCmd : 982252233059237382586416 &&& μ = 982252233059237382586416 := sub_of hw rfl
  have k_cmdUsed : 12884901888 &&& μ = 12884901888 := sub_of hw rfl
  have k_takeCmd : 982252228520449088159857 &&& μ = 982252228520449088159857 := sub_of hw rfl
  have i0 : μ.testBit 0 = true := bit_of hw rfl
  have i4 : μ.testBit 4 = true := bit_of hw rfl
  have i5 : μ.testBit 5 = true := bit_of hw rfl
  have i6 : μ.testBit 6 = true := bit_of hw rfl
  have i32 : μ.testBit 32 = true := bit_of hw rfl
  have i33 : μ.testBit 33 = true := bit_of hw rfl
  have i42 : μ.testBit 42 = true := bit_of hw rfl
  have i43 : μ.testBit 43 = true := bit_of hw rfl
  have i45 : μ.testBit 45 = true := bit_of hw rfl
  have i46 : μ.testBit 46 = true := bit_of hw rfl
  have i52 : μ.testBit 52 = true := bit_of hw rfl
  have i76 : μ.testBit 76 = true := bit_of hw rfl
  have i78 : μ.testBit 78 = true := bit_of hw rfl
  have i79 : μ.testBit 79 = true := bit_of hw rfl
  unfold execCmdSendHeader
  repeat' first
    | with_reducible assumption
    | (intro s; with_reducible refine (fun (hs : Kept μ s0 s) => ?_) ?_)
    | intro x
    | lift_lets
    | with_reducible refine kept_act k_act (fun s hs => ?_) ?_
    | with_reducible refine kept_takeCmd k_takeCmd ?_
    | with_reducible refine kept_cmdUsed k_cmdUsed ?_
    | with_reducible refine kept_answerCmd k_answerCmd ?_
    | with_reducible refine KeptOS4.eq (by with_reducible assumption) ?_
    | (fail_if_no_progress with_reducible refine Kept.mk' ?_  (h_tb := .inr ⟨i0, sm, sm, sm⟩) (h_eth := .inr ⟨i4, .inr i5, .inr i6, sm⟩) (h_pub := .inr ⟨i32, .inr i33, sm, sm⟩) (h_hp := .inr ⟨i42, .inr i43, sm, .inr i45, .inr i46, sm, sm, sm, sm, sm, .inr i52, sm⟩) (h_cnt := .inr i76) (h_evLog := .inr i78) (h_evLogSeq := .inr i79))
    | split
    | with_reducible refine KeptOut.mk' ?_
    | dsimp +zetaDelta only

theorem kept_execCmdSendCfg1 {μ : Nat} (hw : 982252233059245972521073 &&& μ = 982252233059245972521073) {s0 : State} {s : State} {full : Bool}  (kh : Kept μ s0 s) :
    KeptOut μ s0 (execCmdSendCfg1 s full) := by
  have k_act : 0 &&& μ = 0 := sub_of hw rfl
  have k_answerCmd : 982252233059237382586416 &&& μ = 982252233059237382586416 := sub_of hw rfl
  have k_cmdUsed : 12884901888 &&& μ = 12884901888 := sub_of hw rfl
  have k_takeCmd : 982252228520449088159857 &&& μ = 982252228520449088159857 := sub_of hw rfl
  have i0 : μ.testBit 0 = true := bit_of hw rfl
  have i4 : μ.testBit 4 = true := bit_of hw rfl
  have i5 : μ.testBit 5 = true := bit_of hw rfl
  have i6 : μ.testBit 6 = true := bit_of hw rfl
  have i32 : μ.testBit 32 = true := bit_of hw rfl
  have i33 : μ.testBit 33 = true := bit_of hw rfl
  have i42 : μ.testBit 42 = true := bit_of hw rfl
  have i43 : μ.testBit 43 = true := bit_of hw rfl
  have i45 : μ.testBit 45 = true := bit_of hw rfl
  have i46 : μ.testBit 46 = true := bit_of hw rfl
  have i52 : μ.testBit 52 = true := bit_of hw rfl
  have i76 : μ.testBit 76 = true := bit_of hw rfl
  have i78 : μ.testBit 78 = true := bit_of hw rfl
  have i79 : μ.testBit 79 = true := bit_of hw rfl
  unfold execCmdSendCfg1
  repeat' first
    | with_reducible assumption
    | (intro s; with_reducible refine (fun (hs : Kept μ s0 s) => ?_) ?_)
    | intro x
    | lift_lets
    | with_reducible refine kept_act k_act (fun s hs => ?_) ?_
    | with_reducible refine kept_takeCmd k_takeCmd ?_
    | with_reducible refine kept_cmdUsed k_cmdUsed ?_
    | with_reducible refine kept_answerCmd k_answerCmd ?_
    | with_reducible refine KeptOS4.eq (by with_reducible assumption) ?_
    | (fail_if_no_progress with_reducible refine Kept.mk' ?_  (h_tb := .inr ⟨i0, sm, sm, sm⟩) (h_eth := .inr ⟨i4, .inr i5, .inr i6, sm⟩) (h_pub := .inr ⟨i32, .inr i33, sm, sm⟩) (h_hp := .inr ⟨i42, .inr i43, sm, .inr i45, .inr i46, sm, sm, sm, sm, sm, .inr i52, sm⟩) (h_cnt := .inr i76) (h_evLog := .inr i78) (h_evLogSeq := .inr i79))
    | split
    | with_reducible refine KeptOut.mk' ?_
    | dsimp +zetaDelta only

theorem kept_execCmdSendCfg2 {μ : Nat} (hw : 982252233059245972521073 &&& μ = 982252233059245972521073) {s0 : State} {s : State} {full : Bool}  (kh : Kept μ s0 s) :
    KeptOut μ s0 (execCmdSendCfg2 s full) := by
  have k_act : 0 &&& μ = 0 := sub_of hw rfl
  have k_answerCmd : 982252233059237382586416 &&& μ = 982252233059237382586416 := sub_of hw rfl
  have k_cmdUsed : 12884901888 &&& μ = 12884901888 := sub_of hw rfl
  have k_takeCmd : 982252228520449088159857 &&& μ = 982252228520449088159857 := sub_of hw rfl
  have i0 : μ.testBit 0 = true := bit_of hw rfl
  have i4 : μ.testBit 4 = true := bit_of hw rfl
  have i5 : μ.testBit 5 = true := bit_of hw rfl
  have i6 : μ.testBit 6 = true := bit_of hw rfl
  have i32 : μ.testBit 32 = true := bit_of hw rfl
  have i33 : μ.testBit 33 = true := bit_of hw rfl
  have i42 : μ.testBit 42 = true := bit_of hw rfl
  have i43 : μ.testBit 43 = true := bit_of hw rfl
  have i45 : μ.testBit 45 = true := bit_of hw rfl
  have i46 : μ.testBit 46 = true := bit_of hw rfl
  have i52 : μ.testBit 52 = true := bit_of hw rfl
  have i76 : μ.testBit 76 = true := bit_of hw rfl
  have i78 : μ.testBit 78 = true := bit_of hw rfl
  have i79 : μ.testBit 79 = true := bit_of hw rfl
  unfold execCmdSendCfg2
  repeat' first
    | with_reducible assumption
    | (intro s; with_reducible refine (fun (hs : Kept μ s0 s) => ?_) ?_)
    | intro x
    | lift_lets
    | with_reducible refine kept_act k_act (fun s hs => ?_) ?_
    | with_reducible refine kept_takeCmd k_takeCmd ?_
    | with_reducible refine kept_cmdUsed k_cmdUsed ?_
    | with_reducible refine kept_answerCmd k_answerCmd ?_
    | with_reducible refine KeptOS4.eq (by with_reducible assumption) ?_
    | (fail_if_no_progress with_reducible refine Kept.mk' ?_  (h_tb := .inr ⟨i0, sm, sm, sm⟩) (h_eth := .inr ⟨i4, .inr i5, .inr i6, sm⟩) (h_pub := .inr ⟨i32, .inr i33, sm, sm⟩) (h_hp := .inr ⟨i42, .inr i43, sm, .inr i45, .inr i46, sm, sm, sm, sm, sm, .inr i52, sm⟩) (h_cnt := .inr i76) (h_evLog := .inr i78) (h_evLogSeq := .inr i79))
    | split
    | with_reducible refine KeptOut.mk' ?_
    | dsimp +zetaDelta only

theorem kept_execCmdSendCfg3 {μ : Nat} (hw : 982252233059245972521073 &&& μ = 982252233059245972521073) {s0 : State} {s : State} {full : Bool}  (kh : Kept μ s0 s) :
    KeptOut μ s0 (execCmdSendCfg3 s full) := by
  have k_act : 0 &&& μ = 0 := sub_of hw rfl
  have k_answerCmd : 982252233059237382586416 &&& μ = 982252233059237382586416 := sub_of hw rfl
  have k_cmdUsed : 12884901888 &&& μ = 12884901888 := sub_of hw rfl
  have k_takeCmd : 982252228520449088159857 &&& μ = 982252228520449088159857 := sub_of hw rfl
  have i0 : μ.testBit 0 = true := bit_of hw rfl
  have i4 : μ.testBit 4 = true := bit_of hw rfl
  have i5 : μ.testBit 5 = true := bit_of hw rfl
  have i6 : μ.testBit 6 = true := bit_of hw rfl
  have i32 : μ.testBit 32 = true := bit_of hw rfl
  have i33 : μ.testBit 33 = true := bit_of hw rfl
  have i42 : μ.testBit 42 = true := bit_of hw rfl
  have i43 : μ.testBit 43 = true := bit_of hw rfl
  have i45 : μ.testBit 45 = true := bit_of hw rfl
  have i46 : μ.testBit 46 = true := bit_of hw rfl
  have i52 : μ.testBit 52 = true := bit_of hw rfl
  have i76 : μ.testBit 76 = true := bit_of hw rfl
  have i78 : μ.testBit 78 = true := bit_of hw rfl
  have i79 : μ.testBit 79 = true := bit_of hw rfl
  unfold execCmdSendCfg3
  repeat' first
    | with_reducible assumption
    | (intro s; with_reducible refine (fun (hs : Kept μ s0 s) => ?_) ?_)
    | intro x
    | lift_lets
    | with_reducible refine kept_act k_act (fun s hs => ?_) ?_
    | with_reducible refine kept_takeCmd k_takeCmd ?_
    | with_reducible refine kept_cmdUsed k_cmdUsed ?_
    | with_reducible refine kept_answerCmd k_answerCmd ?_
    | with_reducible refine KeptOS4.eq (by with_reducible assumption) ?_
    | (fail_if_no_progress with_reducible refine Kept.mk' ?_  (h_tb := .inr ⟨i0, sm, sm, sm⟩) (h_eth := .inr ⟨i4, .inr i5, .inr i6, sm⟩) (h_pub := .inr ⟨i32, .inr i33, sm, sm⟩) (h_hp := .inr ⟨i42, .inr i43, sm, .inr i45, .inr i46, sm, sm, sm, sm, sm, .inr i52, sm⟩) (h_cnt := .inr i76) (h_evLog := .inr i78) (h_evLogSeq := .inr i79))
    | split
    | with_reducible refine KeptOut.mk' ?_
    | dsimp +zetaDelta only

theorem kept_execCmdBad {μ : Nat} (hw : 1133367955972277734998129 &&& μ = 1133367955972277734998129) {s0 : State} {s : State}  (kh : Kept μ s0 s) :
    KeptOut μ s0 (execCmdBad s) := by
  have k_act : 0 &&& μ = 0 := sub_of hw rfl
  have k_flagCount : 982252228520449088159744 &&& μ = 982252228520449088159744 := sub_of hw rfl
  have k_raiseLimited : 1057810092237567318556672 &&& μ = 1057810092237567318556672 := sub_of hw rfl
  have k_takeCmd : 982252228520449088159857 &&& μ = 982252228520449088159857 := sub_of hw rfl
  have i0 : μ.testBit 0 = true := bit_of hw rfl
  have i4 : μ.testBit 4 = true := bit_of hw rfl
  have i5 : μ.testBit 5 = true := bit_of hw rfl
  have i6 : μ.testBit 6 = true := bit_of hw rfl
  have i42 : μ.testBit 42 = true := bit_of hw rfl
  have i43 : μ.testBit 43 = true := bit_of hw rfl
  have i46 : μ.testBit 46 = true := bit_of hw rfl
  have i76 : μ.testBit 76 = true := bit_of hw rfl
  have i77 : μ.testBit 77 = true := bit_of hw rfl
  have i78 : μ.testBit 78 = true := bit_of hw rfl
  have i79 : μ.testBit 79 = true := bit_of hw rfl
  unfold execCmdBad
  repeat' first
    | with_reducible assumption
    | (intro s; with_reducible refine (fun (hs : Kept μ s0 s) => ?_) ?_)
    | intro x
    | lift_lets
    | with_reducible refine kept_act k_act (fun s hs => ?_) ?_
    | with_reducible refine kept_raiseLimited k_raiseLimited ?_
    | with_reducible refine kept_flagCount k_flagCount ?_
    | with_reducible refine kept_takeCmd k_takeCmd ?_
    | with_reducible refine KeptOS4.eq (by with_reducible assumption) ?_
    | (fail_if_no_progress with_reducible refine Kept.mk' ?_  (h_tb := .inr ⟨i0, sm, sm, sm⟩) (h_eth := .inr ⟨i4, .inr i5, .inr i6, sm⟩) (h_hp := .inr ⟨i42, .inr i43, sm, sm, .inr i46, sm, sm, sm, sm, sm, sm, sm⟩) (h_cnt := .inr i76) (h_limits := .inr i77) (h_evLog := .inr i78) (h_evLogSeq := .inr i79))
    | split
    | with_reducible refine KeptOut.mk' ?_
    | dsimp +zetaDelta only

theorem kept_tcpEvent {μ : Nat} (hw : 906694364785738671718400 &&& μ = 906694364785738671718400) {s0 : State} {n : Nat} {s : State}  (kh : Kept μ s0 s) :
    Kept μ s0 (tcpEvent n s) := by
  have k_raise : 906694364785738671718400 &&& μ = 906694364785738671718400 := sub_of hw rfl
  unfold tcpEvent
  repeat' first
    | with_reducible assumption
    | (intro s; with_reducible refine (fun (hs : Kept μ s0 s) => ?_) ?_)
    | intro x
    | lift_lets
    | with_reducible refine kept_raise k_raise ?_
    | split
    | dsimp +zetaDelta only

theorem kept_dropClients {μ : Nat} (hw : 906694364785751556620288 &&& μ = 906694364785751556620288) {s0 : State} {n : Nat} {p : TcpClient → Bool} {s : State}  (kh : Kept μ s0 s) :
    Kept μ s0 (dropClients n p s) := by
  have k_modOs : 12884901888 &&& μ = 12884901888 := sub_of hw rfl
  have k_tcpEvent : 906694364785738671718400 &&& μ = 906694364785738671718400 := sub_of hw rfl
  have i32 : μ.testBit 32 = true := bit_of hw rfl
  have i33 : μ.testBit 33 = true := bit_of hw rfl
  have i42 : μ.testBit 42 = true := bit_of hw rfl
  have i46 : μ.testBit 46 = true := bit_of hw rfl
  have i78 : μ.testBit 78 = true := bit_of hw rfl
  have i79 : μ.testBit 79 = true := bit_of hw rfl
  unfold dropClients
  repeat' first
    | with_reducible assumption
    | (intro s; with_reducible refine (fun (hs : Kept μ s0 s) => ?_) ?_)
    | intro x
    | lift_lets
    | with_reducible refine kept_modOs k_modOs ?_
    | with_reducible refine kept_tcpEvent k_tcpEvent ?_
    | with_reducible refine kept_foldl (fun s x hs => ?_) ?_
    | (fail_if_no_progress with_reducible refine Kept.mk' ?_  (h_pub := .inr ⟨i32, .inr i33, sm, sm⟩) (h_hp := .inr ⟨i42, sm, sm, sm, .inr i46, sm, sm, sm, sm, sm, sm, sm⟩) (h_evLog := .inr i78) (h_evLogSeq := .inr i79))
    | split
    | dsimp +zetaDelta only

theorem kept_execPubTcpConnect {μ : Nat} (hw : 906694364785751556620288 &&& μ = 906694364785751556620288) {s0 : State} {n addr port eport : Nat} {s : State}  (kh : Kept μ s0 s) :
    KeptOut μ s0 (execPubTcpConnect n addr port eport s) := by
  have k_act : 0 &&& μ = 0 := sub_of hw rfl
  have k_modOs : 12884901888 &&& μ = 12884901888 := sub_of hw rfl
  have k_tcpEvent : 906694364785738671718400 &&& μ = 906694364785738671718400 := sub_of hw rfl
  have i32 : μ.testBit 32 = true := bit_of hw rfl
  have i33 : μ.testBit 33 = true := bit_of hw rfl
  have i42 : μ.testBit 42 = true := bit_of hw rfl
  have i46 : μ.testBit 46 = true := bit_of hw rfl
  have i78 : μ.testBit 78 = true := bit_of hw rfl
  have i79 : μ.testBit 79 = true := bit_of hw rfl
  unfold execPubTcpConnect
  repeat' first
    | with_reducible assumption
    | (intro s; with_reducible refine (fun (hs : Kept μ s0 s) => ?_) ?_)
    | intro x
    | lift_lets
    | with_reducible refine kept_act k_act (fun s hs => ?_) ?_
    | with_reducible refine kept_modOs k_modOs ?_
    | with_reducible refine kept_tcpEvent k_tcpEvent ?_
    | (fail_if_no_progress with_reducible refine Kept.mk' ?_  (h_pub := .inr ⟨i32, .inr i33, sm, sm⟩) (h_hp := .inr ⟨i42, sm, sm, sm, .inr i46, sm, sm, sm, sm, sm, sm, sm⟩) (h_evLog := .inr i78) (h_evLogSeq := .inr i79))
    | split
    | with_reducible refine KeptOut.mk' ?_
    | dsimp +zetaDelta only

theorem kept_execPubTcpDisconnect {μ : Nat} (hw : 906694364785751556620288 &&& μ = 906694364785751556620288) {s0 : State} {n addr port : Nat} {s : State}  (kh : Kept μ s0 s) :
    KeptOut μ s0 (execPubTcpDisconnect n addr port s) := by
  have k_act : 0 &&& μ = 0 := sub_of hw rfl
  have k_dropClients : 906694364785751556620288 &&& μ = 906694364785751556620288 := sub_of hw rfl
  unfold execPubTcpDisconnect
  repeat' first
    | with_reducible assumption
    | (intro s; with_reducible refine (fun (hs : Kept μ s0 s) => ?_) ?_)
    | intro x
    | lift_lets
    | with_reducible refine kept_act k_act (fun s hs => ?_) ?_
    | with_reducible refine kept_dropClients k_dropClients ?_
    | split
    | with_reducible refine KeptOut.mk' ?_
    | dsimp +zetaDelta only

theorem kept_gooseSend {μ : Nat} (hw : 1133367960511083209293872 &&& μ = 1133367960511083209293872) {s0 : State} {n res due : Nat} {s : State}  (kh : Kept μ s0 s) :
    Kept μ s0 (gooseSend n res due s) := by
  have k_enqueueMask : 982252233059233087619120 &&& μ = 982252233059233087619120 := sub_of hw rfl
  have k_frameRebuild : 982252228520449088159744 &&& μ = 982252228520449088159744 := sub_of hw rfl
  have k_macSign : 1133367955972277734998016 &&& μ = 1133367955972277734998016 := sub_of hw rfl
  have k_modGp : 21474836480 &&& μ = 21474836480 := sub_of hw rfl
  have k_nextFrameNo : 4294967296 &&& μ = 4294967296 := sub_of hw rfl
  have i4 : μ.testBit 4 = true := bit_of hw rfl
  have i5 : μ.testBit 5 = true := bit_of hw rfl
  have i32 : μ.testBit 32 = true := bit_of hw rfl
  have i34 : μ.testBit 34 = true := bit_of hw rfl
  have i42 : μ.testBit 42 = true := bit_of hw rfl
  have i43 : μ.testBit 43 = true := bit_of hw rfl
  have i45 : μ.testBit 45 = true := bit_of hw rfl
  have i46 : μ.testBit 46 = true := bit_of hw rfl
  have i52 : μ.testBit 52 = true := bit_of hw rfl
  have i76 : μ.testBit 76 = true := bit_of hw rfl
  have i77 : μ.testBit 77 = true := bit_of hw rfl
  have i78 : μ.testBit 78 = true := bit_of hw rfl
  have i79 : μ.testBit 79 = true := bit_of hw rfl
  unfold gooseSend
  repeat' first
    | with_reducible assumption
    | (intro s; with_reducible refine (fun (hs : Kept μ s0 s) => ?_) ?_)
    | intro x
    | lift_lets
    | with_reducible refine kept_enqueueMask k_enqueueMask ?_
    | with_reducible refine kept_macSign k_macSign ?_
    | with_reducible refine kept_frameRebuild k_frameRebuild ?_
    | with_reducible refine kept_modGp k_modGp ?_
    | with_reducible refine kept_nextFrameNo k_nextFrameNo ?_
    | with_reducible refine KeptF.eq (by with_reducible assumption) ?_
    | with_reducible refine KeptS.eq (by with_reducible assumption) ?_
    | (fail_if_no_progress with_reducible refine Kept.mk' ?_  (h_eth := .inr ⟨i4, .inr i5, sm, sm⟩) (h_pub := .inr ⟨i32, sm, .inr i34, sm⟩) (h_hp := .inr ⟨i42, .inr i43, sm, .inr i45, .inr i46, sm, sm, sm, sm, sm, .inr i52, sm⟩) (h_cnt := .inr i76) (h_limits := .inr i77) (h_evLog := .inr i78) (h_evLogSeq := .inr i79))
    | split
    | with_reducible refine KeptF.mk' ?_
    | with_reducible refine KeptS.mk' ?_
    | with_reducible refine KeptF.fst ?_
    | with_reducible refine KeptS.snd ?_
    | dsimp +zetaDelta only

theorem kept_gooseNew {μ : Nat} (hw : 1133367960511083209293872 &&& μ = 1133367960511083209293872) {s0 : State} {n res due : Nat} {s : State}  (kh : Kept μ s0 s) :
    Kept μ s0 (gooseNew n res due s) := by
  have k_count : 982252228520449088159744 &&& μ = 982252228520449088159744 := sub_of hw rfl
  have k_gooseSend : 1133367960511083209293872 &&& μ = 1133367960511083209293872 := sub_of hw rfl
  have k_modGp : 21474836480 &&& μ = 21474836480 := sub_of hw rfl
  have k_raise : 906694364785738671718400 &&& μ = 906694364785738671718400 := sub_of hw rfl
  have i4 : μ.testBit 4 = true := bit_of hw rfl
  have i5 : μ.testBit 5 = true := bit_of hw rfl
  have i32 : μ.testBit 32 = true := bit_of hw rfl
  have i34 : μ.testBit 34 = true := bit_of hw rfl
  have i42 : μ.testBit 42 = true := bit_of hw rfl
  have i43 : μ.testBit 43 = true := bit_of hw rfl
  have i45 : μ.testBit 45 = true := bit_of hw rfl
  have i46 : μ.testBit 46 = true := bit_of hw rfl
  have i52 : μ.testBit 52 = true := bit_of hw rfl
  have i76 : μ.testBit 76 = true := bit_of hw rfl
  have i77 : μ.testBit 77 = true := bit_of hw rfl
  have i78 : μ.testBit 78 = true := bit_of hw rfl
  have i79 : μ.testBit 79 = true := bit_of hw rfl
  unfold gooseNew
  repeat' first
    | with_reducible assumption
    | (intro s; with_reducible refine (fun (hs : Kept μ s0 s) => ?_) ?_)
    | intro x
    | lift_lets
    | with_reducible refine kept_raise k_raise ?_
    | with_reducible refine kept_count k_count ?_
    | with_reducible refine kept_modGp k_modGp ?_
    | with_reducible refine kept_gooseSend k_gooseSend ?_
    | (fail_if_no_progress with_reducible refine Kept.mk' ?_  (h_eth := .inr ⟨i4, .inr i5, sm, sm⟩) (h_pub := .inr ⟨i32, sm, .inr i34, sm⟩) (h_hp := .inr ⟨i42, .inr i43, sm, .inr i45, .inr i46, sm, sm, sm, sm, sm, .inr i52, sm⟩) (h_cnt := .inr i76) (h_limits := .inr i77) (h_evLog := .inr i78) (h_evLogSeq := .inr i79))
    | split
    | dsimp +zetaDelta only

theorem kept_gooseTick {μ : Nat} (hw : 1133367960511083209293872 &&& μ = 1133367960511083209293872) {s0 : State} {n res : Nat} {s : State}  (kh : Kept μ s0 s) :
    Kept μ s0 (gooseTick n res s) := by
  have k_act : 0 &&& μ = 0 := sub_of hw rfl
  have k_gooseNew : 1133367960511083209293872 &&& μ = 1133367960511083209293872 := sub_of hw rfl
  have k_modGp : 21474836480 &&& μ = 21474836480 := sub_of hw rfl
  have k_withhold : 982252228520449088159744 &&& μ = 982252228520449088159744 := sub_of hw rfl
  have i4 : μ.testBit 4 = true := bit_of hw rfl
  have i5 : μ.testBit 5 = true := bit_of hw rfl
  have i32 : μ.testBit 32 = true := bit_of hw rfl
  have i34 : μ.testBit 34 = true := bit_of hw rfl
  have i42 : μ.testBit 42 = true := bit_of hw rfl
  have i43 : μ.testBit 43 = true := bit_of hw rfl
  have i45 : μ.testBit 45 = true := bit_of hw rfl
  have i46 : μ.testBit 46 = true := bit_of hw rfl
  have i52 : μ.testBit 52 = true := bit_of hw rfl
  have i76 : μ.testBit 76 = true := bit_of hw rfl
  have i77 : μ.testBit 77 = true := bit_of hw rfl
  have i78 : μ.testBit 78 = true := bit_of hw rfl
  have i79 : μ.testBit 79 = true := bit_of hw rfl
  unfold gooseTick
  repeat' first
    | with_reducible assumption
    | (intro s; with_reducible refine (fun (hs : Kept μ s0 s) => ?_) ?_)
    | intro x
    | lift_lets
    | with_reducible refine kept_act k_act (fun s hs => ?_) ?_
    | with_reducible refine kept_modGp k_modGp ?_
    | with_reducible refine kept_withhold k_withhold ?_
    | with_reducible refine kept_gooseNew k_gooseNew ?_
    | (fail_if_no_progress with_reducible refine Kept.mk' ?_  (h_eth := .inr ⟨i4, .inr i5, sm, sm⟩) (h_pub := .inr ⟨i32, sm, .inr i34, sm⟩) (h_hp := .inr ⟨i42, .inr i43, sm, .inr i45, .inr i46, sm, sm, sm, sm, sm, .inr i52, sm⟩) (h_cnt := .inr i76) (h_limits := .inr i77) (h_evLog := .inr i78) (h_evLogSeq := .inr i79))
    | split
    | dsimp +zetaDelta only

theorem kept_gooseTicks {μ : Nat} (hw : 1133367960511083209293872 &&& μ = 1133367960511083209293872) {s0 : State} {bad : List (Nat × Nat)} {s : State}  (kh : Kept μ s0 s) :
    Kept μ s0 (gooseTicks bad s) := by
  have k_gooseTick : 1133367960511083209293872 &&& μ = 1133367960511083209293872 := sub_of hw rfl
  unfold gooseTicks
  repeat' first
    | with_reducible assumption
    | (intro s; with_reducible refine (fun (hs : Kept μ s0 s) => ?_) ?_)
    | intro x
    | lift_lets
    | with_reducible refine kept_gooseTick k_gooseTick ?_
    | with_reducible refine kept_foldl (fun s x hs => ?_) ?_
    | split
    | dsimp +zetaDelta only

theorem kept_execGooseRepeat {μ : Nat} (hw : 1133367960511083209293872 &&& μ = 1133367960511083209293872) {s0 : State} {n : Nat} {s : State} {res : Nat}  (kh : Kept μ s0 s) :
    KeptOut μ s0 (execGooseRepeat n s res) := by
  have k_act : 0 &&& μ = 0 := sub_of hw rfl
  have k_gooseSend : 1133367960511083209293872 &&& μ = 1133367960511083209293872 := sub_of hw rfl
  have k_modGp : 21474836480 &&& μ = 21474836480 := sub_of hw rfl
  have i4 : μ.testBit 4 = true := bit_of hw rfl
  have i5 : μ.testBit 5 = true := bit_of hw rfl
  have i32 : μ.testBit 32 = true := bit_of hw rfl
  have i34 : μ.testBit 34 = true := bit_of hw rfl
  have i42 : μ.testBit 42 = true := bit_of hw rfl
  have i43 : μ.testBit 43 = true := bit_of hw rfl
  have i45 : μ.testBit 45 = true := bit_of hw rfl
  have i46 : μ.testBit 46 = true := bit_of hw rfl
  have i52 : μ.testBit 52 = true := bit_of hw rfl
  have i76 : μ.testBit 76 = true := bit_of hw rfl
  have i77 : μ.testBit 77 = true := bit_of hw rfl
  have i78 : μ.testBit 78 = true := bit_of hw rfl
  have i79 : μ.testBit 79 = true := bit_of hw rfl
  unfold execGooseRepeat
  repeat' first
    | with_reducible assumption
    | (intro s; with_reducible refine (fun (hs : Kept μ s0 s) => ?_) ?_)
    | intro x
    | lift_lets
    | with_reducible refine kept_act k_act (fun s hs => ?_) ?_
    | with_reducible refine kept_modGp k_modGp ?_
    | with_reducible refine kept_gooseSend k_gooseSend ?_
    | (fail_if_no_progress with_reducible refine Kept.mk' ?_  (h_eth := .inr ⟨i4, .inr i5, sm, sm⟩) (h_pub := .inr ⟨i32, sm, .inr i34, sm⟩) (h_hp := .inr ⟨i42, .inr i43, sm, .inr i45, .inr i46, sm, sm, sm, sm, sm, .inr i52, sm⟩) (h_cnt := .inr i76) (h_limits := .inr i77) (h_evLog := .inr i78) (h_evLogSeq := .inr i79))
    | split
    | with_reducible refine KeptOut.mk' ?_
    | dsimp +zetaDelta only

theorem kept_execDoMinOnExpiry {μ : Nat} (hw : 38654705664 &&& μ = 38654705664) {s0 : State} {n : Nat} {s : State}  (kh : Kept μ s0 s) :
    KeptOut μ s0 (execDoMinOnExpiry n s) := by
  have k_act : 0 &&& μ = 0 := sub_of hw rfl
  have k_modDo : 38654705664 &&& μ = 38654705664 := sub_of hw rfl
  have k_setLevel : 38654705664 &&& μ = 38654705664 := sub_of hw rfl
  have i32 : μ.testBit 32 = true := bit_of hw rfl
  have i35 : μ.testBit 35 = true := bit_of hw rfl
  unfold execDoMinOnExpiry
  repeat' first
    | with_reducible assumption
    | (intro s; with_reducible refine (fun (hs : Kept μ s0 s) => ?_) ?_)
    | intro x
    | lift_lets
    | with_reducible refine kept_act k_act (fun s hs => ?_) ?_
    | with_reducible refine kept_modDo k_modDo ?_
    | with_reducible refine kept_setLevel k_setLevel ?_
    | (fail_if_no_progress with_reducible refine Kept.mk' ?_  (h_pub := .inr ⟨i32, sm, sm, .inr i35⟩))
    | split
    | with_reducible refine KeptOut.mk' ?_
    | dsimp +zetaDelta only

theorem kept_execDoHoldExpiry {μ : Nat} (hw : 982252228520487742865408 &&& μ = 982252228520487742865408) {s0 : State} {n : Nat} {s : State}  (kh : Kept μ s0 s) :
    KeptOut μ s0 (execDoHoldExpiry n s) := by
  have k_act : 0 &&& μ = 0 := sub_of hw rfl
  have k_releaseDo : 982252228520487742865408 &&& μ = 982252228520487742865408 := sub_of hw rfl
  unfold execDoHoldExpiry
  repeat' first
    | with_reducible assumption
    | (intro s; with_reducible refine (fun (hs : Kept μ s0 s) => ?_) ?_)
    | intro x
    | lift_lets
    | with_reducible refine kept_act k_act (fun s hs => ?_) ?_
    | with_reducible refine kept_releaseDo k_releaseDo ?_
    | split
    | with_reducible refine KeptOut.mk' ?_
    | dsimp +zetaDelta only

theorem kept_doTick {μ : Nat} (hw : 38654705664 &&& μ = 38654705664) {s0 : State} {s : State}  (kh : Kept μ s0 s) :
    Kept μ s0 (doTick s) := by
  have k_latchDirect : 38654705664 &&& μ = 38654705664 := sub_of hw rfl
  unfold doTick
  repeat' first
    | with_reducible assumption
    | (intro s; with_reducible refine (fun (hs : Kept μ s0 s) => ?_) ?_)
    | intro x
    | lift_lets
    | with_reducible refine kept_latchDirect k_latchDirect ?_
    | split
    | dsimp +zetaDelta only

theorem kept_doAuthLost {μ : Nat} (hw : 982252228520487742865408 &&& μ = 982252228520487742865408) {s0 : State} {n : Nat} {s : State}  (kh : Kept μ s0 s) :
    Kept μ s0 (doAuthLost n s) := by
  have k_modDo : 38654705664 &&& μ = 38654705664 := sub_of hw rfl
  have k_releaseDo : 982252228520487742865408 &&& μ = 982252228520487742865408 := sub_of hw rfl
  have i32 : μ.testBit 32 = true := bit_of hw rfl
  have i35 : μ.testBit 35 = true := bit_of hw rfl
  have i42 : μ.testBit 42 = true := bit_of hw rfl
  have i43 : μ.testBit 43 = true := bit_of hw rfl
  have i46 : μ.testBit 46 = true := bit_of hw rfl
  have i76 : μ.testBit 76 = true := bit_of hw rfl
  have i78 : μ.testBit 78 = true := bit_of hw rfl
  have i79 : μ.testBit 79 = true := bit_of hw rfl
  unfold doAuthLost
  repeat' first
    | with_reducible assumption
    | (intro s; with_reducible refine (fun (hs : Kept μ s0 s) => ?_) ?_)
    | intro x
    | lift_lets
    | with_reducible refine kept_modDo k_modDo ?_
    | with_reducible refine kept_releaseDo k_releaseDo ?_
    | (fail_if_no_progress with_reducible refine Kept.mk' ?_  (h_pub := .inr ⟨i32, sm, sm, .inr i35⟩) (h_hp := .inr ⟨i42, .inr i43, sm, sm, .inr i46, sm, sm, sm, sm, sm, sm, sm⟩) (h_cnt := .inr i76) (h_evLog := .inr i78) (h_evLogSeq := .inr i79))
    | split
    | dsimp +zetaDelta only

theorem kept_withholdQueued {μ : Nat} (hw : 982252228520449088159792 &&& μ = 982252228520449088159792) {s0 : State} {s : State}  (kh : Kept μ s0 s) :
    Kept μ s0 (withholdQueued s) := by
  have k_withhold : 982252228520449088159744 &&& μ = 982252228520449088159744 := sub_of hw rfl
  have i4 : μ.testBit 4 = true := bit_of hw rfl
  have i5 : μ.testBit 5 = true := bit_of hw rfl
  have i42 : μ.testBit 42 = true := bit_of hw rfl
  have i43 : μ.testBit 43 = true := bit_of hw rfl
  have i46 : μ.testBit 46 = true := bit_of hw rfl
  have i76 : μ.testBit 76 = true := bit_of hw rfl
  have i78 : μ.testBit 78 = true := bit_of hw rfl
  have i79 : μ.testBit 79 = true := bit_of hw rfl
  unfold withholdQueued
  repeat' first
    | with_reducible assumption
    | (intro s; with_reducible refine (fun (hs : Kept μ s0 s) => ?_) ?_)
    | intro x
    | lift_lets
    | with_reducible refine kept_withhold k_withhold ?_
    | with_reducible refine kept_foldl (fun s x hs => ?_) ?_
    | (fail_if_no_progress with_reducible refine Kept.mk' ?_  (h_eth := .inr ⟨i4, .inr i5, sm, sm⟩) (h_hp := .inr ⟨i42, .inr i43, sm, sm, .inr i46, sm, sm, sm, sm, sm, sm, sm⟩) (h_cnt := .inr i76) (h_evLog := .inr i78) (h_evLogSeq := .inr i79))
    | split
    | dsimp +zetaDelta only

theorem kept_authEvent {μ : Nat} (hw : 906694364794534764740608 &&& μ = 906694364794534764740608) {s0 : State} {on : Bool} {s : State}  (kh : Kept μ s0 s) :
    Kept μ s0 (authEvent on s) := by
  have k_pubFlag : 13194139533312 &&& μ = 13194139533312 := sub_of hw rfl
  have k_raise : 906694364785738671718400 &&& μ = 906694364785738671718400 := sub_of hw rfl
  unfold authEvent
  repeat' first
    | with_reducible assumption
    | (intro s; with_reducible refine (fun (hs : Kept μ s0 s) => ?_) ?_)
    | intro x
    | lift_lets
    | with_reducible refine kept_raise k_raise ?_
    | with_reducible refine kept_pubFlag k_pubFlag ?_
    | split
    | dsimp +zetaDelta only

theorem kept_authLost {μ : Nat} (hw : 982252228520487742865456 &&& μ = 982252228520487742865456) {s0 : State} {s : State}  (kh : Kept μ s0 s) :
    Kept μ s0 (authLost s) := by
  have k_authEvent : 906694364794534764740608 &&& μ = 906694364794534764740608 := sub_of hw rfl
  have k_doAuthLost : 982252228520487742865408 &&& μ = 982252228520487742865408 := sub_of hw rfl
  have k_withholdQueued : 982252228520449088159792 &&& μ = 982252228520449088159792 := sub_of hw rfl
  unfold authLost
  repeat' first
    | with_reducible assumption
    | (intro s; with_reducible refine (fun (hs : Kept μ s0 s) => ?_) ?_)
    | intro x
    | lift_lets
    | with_reducible refine kept_doAuthLost k_doAuthLost ?_
    | with_reducible refine kept_withholdQueued k_withholdQueued ?_
    | with_reducible refine kept_authEvent k_authEvent ?_
    | with_reducible refine kept_foldl (fun s x hs => ?_) ?_
    | split
    | dsimp +zetaDelta only

theorem kept_frameDeparted {μ : Nat} (hw : 982252233059237382586368 &&& μ = 982252233059237382586368) {s0 : State} {t : TxFrame} {dep : Nat} {s : State}  (kh : Kept μ s0 s) :
    Kept μ s0 (frameDeparted t dep s) := by
  have k_count : 982252228520449088159744 &&& μ = 982252228520449088159744 := sub_of hw rfl
  have k_hostCopies : 906694369333318764199936 &&& μ = 906694369333318764199936 := sub_of hw rfl
  have i32 : μ.testBit 32 = true := bit_of hw rfl
  have i42 : μ.testBit 42 = true := bit_of hw rfl
  have i43 : μ.testBit 43 = true := bit_of hw rfl
  have i45 : μ.testBit 45 = true := bit_of hw rfl
  have i46 : μ.testBit 46 = true := bit_of hw rfl
  have i52 : μ.testBit 52 = true := bit_of hw rfl
  have i76 : μ.testBit 76 = true := bit_of hw rfl
  have i78 : μ.testBit 78 = true := bit_of hw rfl
  have i79 : μ.testBit 79 = true := bit_of hw rfl
  unfold frameDeparted
  repeat' first
    | with_reducible assumption
    | (intro s; with_reducible refine (fun (hs : Kept μ s0 s) => ?_) ?_)
    | intro x
    | lift_lets
    | with_reducible refine kept_count k_count ?_
    | with_reducible refine kept_hostCopies k_hostCopies ?_
    | (fail_if_no_progress with_reducible refine Kept.mk' ?_  (h_pub := .inr ⟨i32, sm, sm, sm⟩) (h_hp := .inr ⟨i42, .inr i43, sm, .inr i45, .inr i46, sm, sm, sm, sm, sm, .inr i52, sm⟩) (h_cnt := .inr i76) (h_evLog := .inr i78) (h_evLogSeq := .inr i79))
    | split
    | dsimp +zetaDelta only

theorem kept_osStart {μ : Nat} (hw : 906694364785751556620288 &&& μ = 906694364785751556620288) {s0 : State} {n : Nat} {s : State}  (kh : Kept μ s0 s) :
    Kept μ s0 (osStart n s) := by
  have k_dropClients : 906694364785751556620288 &&& μ = 906694364785751556620288 := sub_of hw rfl
  have k_modOs : 12884901888 &&& μ = 12884901888 := sub_of hw rfl
  unfold osStart
  repeat' first
    | with_reducible assumption
    | (intro s; with_reducible refine (fun (hs : Kept μ s0 s) => ?_) ?_)
    | intro x
    | lift_lets
    | with_reducible refine kept_modOs k_modOs ?_
    | with_reducible refine kept_dropClients k_dropClients ?_
    | split
    | dsimp +zetaDelta only

end Sys2Proof.Machine
end

