-- ==== Sys2Proof/Laws/KeptCapture.lean ====
section
/-!
SUPPORT. Sys2Proof/Laws/KeptCapture.lean: every operation of Capture.lean keeps what no command changes, and the parts that it does not write (Kept.lean).
-/
set_option Elab.async false
set_option linter.unusedTactic false
set_option linter.unreachableTactic false
set_option linter.unusedVariables false
namespace Sys2Proof.Machine

theorem kept_modCapRec {μ : Nat} (hw : 12582912 &&& μ = 12582912) {s0 : State} {r : Nat} {f : CapRec → CapRec} {s : State}  (kh : Kept μ s0 s) :
    Kept μ s0 (modCapRec r f s) := by
  have i22 : μ.testBit 22 = true := bit_of hw rfl
  have i23 : μ.testBit 23 = true := bit_of hw rfl
  unfold modCapRec
  repeat' first
    | with_reducible assumption
    | (intro s; with_reducible refine (fun (hs : Kept μ s0 s) => ?_) ?_)
    | intro x
    | lift_lets
    | (fail_if_no_progress with_reducible refine Kept.mk' ?_  (h_cap := .inr ⟨i22, .inr i23, sm, sm⟩))
    | split
    | dsimp +zetaDelta only

theorem kept_capCount {μ : Nat} (hw : 982252228520449088159744 &&& μ = 982252228520449088159744) {s0 : State} {r k : Nat} {s : State}  (kh : Kept μ s0 s) :
    Kept μ s0 (capCount r k s) := by
  have k_countW : 982252228520449088159744 &&& μ = 982252228520449088159744 := sub_of hw rfl
  unfold capCount
  repeat' first
    | with_reducible assumption
    | (intro s; with_reducible refine (fun (hs : Kept μ s0 s) => ?_) ?_)
    | intro x
    | lift_lets
    | with_reducible refine kept_countW k_countW ?_
    | split
    | dsimp +zetaDelta only

theorem kept_capFlag {μ : Nat} (hw : 13194139533312 &&& μ = 13194139533312) {s0 : State} {b : Nat} {s : State}  (kh : Kept μ s0 s) :
    Kept μ s0 (capFlag b s) := by
  have k_setFlag : 13194139533312 &&& μ = 13194139533312 := sub_of hw rfl
  unfold capFlag
  repeat' first
    | with_reducible assumption
    | (intro s; with_reducible refine (fun (hs : Kept μ s0 s) => ?_) ?_)
    | intro x
    | lift_lets
    | with_reducible refine kept_setFlag k_setFlag ?_
    | split
    | dsimp +zetaDelta only

theorem kept_overwrite {μ : Nat} (hw : 982252228520449109131264 &&& μ = 982252228520449109131264) {s0 : State} {k : Nat} {t : CapTake} {s : State}  (kh : Kept μ s0 s) :
    Kept μ s0 (overwrite k t s) := by
  have k_capCount : 982252228520449088159744 &&& μ = 982252228520449088159744 := sub_of hw rfl
  have k_capFlag : 13194139533312 &&& μ = 13194139533312 := sub_of hw rfl
  have k_raise : 906694364785738671718400 &&& μ = 906694364785738671718400 := sub_of hw rfl
  have i22 : μ.testBit 22 = true := bit_of hw rfl
  have i24 : μ.testBit 24 = true := bit_of hw rfl
  have i42 : μ.testBit 42 = true := bit_of hw rfl
  have i43 : μ.testBit 43 = true := bit_of hw rfl
  have i46 : μ.testBit 46 = true := bit_of hw rfl
  have i76 : μ.testBit 76 = true := bit_of hw rfl
  have i78 : μ.testBit 78 = true := bit_of hw rfl
  have i79 : μ.testBit 79 = true := bit_of hw rfl
  unfold overwrite
  repeat' first
    | with_reducible assumption
    | (intro s; with_reducible refine (fun (hs : Kept μ s0 s) => ?_) ?_)
    | intro x
    | lift_lets
    | with_reducible refine kept_raise k_raise ?_
    | with_reducible refine kept_capCount k_capCount ?_
    | with_reducible refine kept_capFlag k_capFlag ?_
    | (fail_if_no_progress with_reducible refine Kept.mk' ?_  (h_cap := .inr ⟨i22, sm, .inr i24, sm⟩) (h_hp := .inr ⟨i42, .inr i43, sm, sm, .inr i46, sm, sm, sm, sm, sm, sm, sm⟩) (h_cnt := .inr i76) (h_evLog := .inr i78) (h_evLogSeq := .inr i79))
    | split
    | dsimp +zetaDelta only

theorem kept_makeRoom {μ : Nat} (hw : 982252228520449109131264 &&& μ = 982252228520449109131264) {s0 : State} {k b : Nat} {s : State} (kh : Kept μ s0 s) :
    Kept μ s0 (makeRoom k b s) := by
  have k_overwrite : 982252228520449109131264 &&& μ = 982252228520449109131264 := sub_of hw rfl
  have i22 : μ.testBit 22 = true := bit_of hw rfl
  have i24 : μ.testBit 24 = true := bit_of hw rfl
  have i42 : μ.testBit 42 = true := bit_of hw rfl
  have i43 : μ.testBit 43 = true := bit_of hw rfl
  have i46 : μ.testBit 46 = true := bit_of hw rfl
  have i76 : μ.testBit 76 = true := bit_of hw rfl
  have i78 : μ.testBit 78 = true := bit_of hw rfl
  have i79 : μ.testBit 79 = true := bit_of hw rfl
  induction k generalizing s
  · exact kh
  rename_i ih
  unfold makeRoom
  repeat' first
    | with_reducible assumption
    | (intro s; with_reducible refine (fun (hs : Kept μ s0 s) => ?_) ?_)
    | intro x
    | lift_lets
    | with_reducible refine ih ?_
    | with_reducible refine kept_overwrite k_overwrite ?_
    | (fail_if_no_progress with_reducible refine Kept.mk' ?_  (h_cap := .inr ⟨i22, sm, .inr i24, sm⟩) (h_hp := .inr ⟨i42, .inr i43, sm, sm, .inr i46, sm, sm, sm, sm, sm, sm, sm⟩) (h_cnt := .inr i76) (h_evLog := .inr i78) (h_evLogSeq := .inr i79))
    | split
    | dsimp +zetaDelta only


theorem kept_makeSlate {μ : Nat} (hw : 1133367958224077586432000 &&& μ = 1133367958224077586432000) {s0 : State} {r : Nat} {s : State} {d : SlateDue}  (kh : Kept μ s0 s) :
    Kept μ s0 (makeSlate r s d) := by
  have k_capCount : 982252228520449088159744 &&& μ = 982252228520449088159744 := sub_of hw rfl
  have k_capFlag : 13194139533312 &&& μ = 13194139533312 := sub_of hw rfl
  have k_flagCount : 982252228520449088159744 &&& μ = 982252228520449088159744 := sub_of hw rfl
  have k_harvest : 2256197860196352 &&& μ = 2256197860196352 := sub_of hw rfl
  have k_raiseLimited : 1057810092237567318556672 &&& μ = 1057810092237567318556672 := sub_of hw rfl
  have i22 : μ.testBit 22 = true := bit_of hw rfl
  have i25 : μ.testBit 25 = true := bit_of hw rfl
  have i42 : μ.testBit 42 = true := bit_of hw rfl
  have i43 : μ.testBit 43 = true := bit_of hw rfl
  have i46 : μ.testBit 46 = true := bit_of hw rfl
  have i51 : μ.testBit 51 = true := bit_of hw rfl
  have i76 : μ.testBit 76 = true := bit_of hw rfl
  have i77 : μ.testBit 77 = true := bit_of hw rfl
  have i78 : μ.testBit 78 = true := bit_of hw rfl
  have i79 : μ.testBit 79 = true := bit_of hw rfl
  unfold makeSlate
  repeat' first
    | with_reducible assumption
    | (intro s; with_reducible refine (fun (hs : Kept μ s0 s) => ?_) ?_)
    | intro x
    | lift_lets
    | with_reducible refine kept_raiseLimited k_raiseLimited ?_
    | with_reducible refine kept_flagCount k_flagCount ?_
    | with_reducible refine kept_harvest k_harvest ?_
    | with_reducible refine kept_capCount k_capCount ?_
    | with_reducible refine kept_capFlag k_capFlag ?_
    | (fail_if_no_progress with_reducible refine Kept.mk' ?_  (h_cap := .inr ⟨i22, sm, sm, .inr i25⟩) (h_hp := .inr ⟨i42, .inr i43, sm, sm, .inr i46, sm, sm, sm, sm, .inr i51, sm, sm⟩) (h_cnt := .inr i76) (h_limits := .inr i77) (h_evLog := .inr i78) (h_evLogSeq := .inr i79))
    | split
    | dsimp +zetaDelta only

theorem kept_xtSend {μ : Nat} (hw : 1133367960511061738651696 &&& μ = 1133367960511061738651696) {s0 : State} {typ ns cause rcd span : Nat} {s : State}  (kh : Kept μ s0 s) :
    KeptF μ s0 (xtSend typ ns cause rcd span s) := by
  have k_enqueueMask : 982252233059233087619120 &&& μ = 982252233059233087619120 := sub_of hw rfl
  have k_macSign : 1133367955972277734998016 &&& μ = 1133367955972277734998016 := sub_of hw rfl
  have i4 : μ.testBit 4 = true := bit_of hw rfl
  have i5 : μ.testBit 5 = true := bit_of hw rfl
  have i22 : μ.testBit 22 = true := bit_of hw rfl
  have i42 : μ.testBit 42 = true := bit_of hw rfl
  have i43 : μ.testBit 43 = true := bit_of hw rfl
  have i45 : μ.testBit 45 = true := bit_of hw rfl
  have i46 : μ.testBit 46 = true := bit_of hw rfl
  have i52 : μ.testBit 52 = true := bit_of hw rfl
  have i76 : μ.testBit 76 = true := bit_of hw rfl
  have i77 : μ.testBit 77 = true := bit_of hw rfl
  have i78 : μ.testBit 78 = true := bit_of hw rfl
  have i79 : μ.testBit 79 = true := bit_of hw rfl
  unfold xtSend
  repeat' first
    | with_reducible assumption
    | (intro s; with_reducible refine (fun (hs : Kept μ s0 s) => ?_) ?_)
    | intro x
    | lift_lets
    | with_reducible refine kept_enqueueMask k_enqueueMask ?_
    | with_reducible refine kept_macSign k_macSign ?_
    | with_reducible refine KeptF.eq (by with_reducible assumption) ?_
    | (fail_if_no_progress with_reducible refine Kept.mk' ?_  (h_eth := .inr ⟨i4, .inr i5, sm, sm⟩) (h_cap := .inr ⟨i22, sm, sm, sm⟩) (h_hp := .inr ⟨i42, .inr i43, sm, .inr i45, .inr i46, sm, sm, sm, sm, sm, .inr i52, sm⟩) (h_cnt := .inr i76) (h_limits := .inr i77) (h_evLog := .inr i78) (h_evLogSeq := .inr i79))
    | split
    | with_reducible refine KeptF.mk' ?_
    | with_reducible refine KeptF.fst ?_
    | dsimp +zetaDelta only

theorem kept_setArmEvent {μ : Nat} (hw : 906694364785738671718400 &&& μ = 906694364785738671718400) {s0 : State} {s : State}  (kh : Kept μ s0 s) :
    Kept μ s0 (setArmEvent s) := by
  have k_raise : 906694364785738671718400 &&& μ = 906694364785738671718400 := sub_of hw rfl
  unfold setArmEvent
  repeat' first
    | with_reducible assumption
    | (intro s; with_reducible refine (fun (hs : Kept μ s0 s) => ?_) ?_)
    | intro x
    | lift_lets
    | with_reducible refine kept_raise k_raise ?_
    | split
    | dsimp +zetaDelta only

theorem kept_setArm {μ : Nat} (hw : 906694364785738684301312 &&& μ = 906694364785738684301312) {s0 : State} {id span : Nat} {s : State}  (kh : Kept μ s0 s) :
    Kept μ s0 (setArm id span s) := by
  have k_modCapRec : 12582912 &&& μ = 12582912 := sub_of hw rfl
  have k_setArmEvent : 906694364785738671718400 &&& μ = 906694364785738671718400 := sub_of hw rfl
  have i22 : μ.testBit 22 = true := bit_of hw rfl
  have i23 : μ.testBit 23 = true := bit_of hw rfl
  have i42 : μ.testBit 42 = true := bit_of hw rfl
  have i46 : μ.testBit 46 = true := bit_of hw rfl
  have i78 : μ.testBit 78 = true := bit_of hw rfl
  have i79 : μ.testBit 79 = true := bit_of hw rfl
  unfold setArm
  repeat' first
    | with_reducible assumption
    | (intro s; with_reducible refine (fun (hs : Kept μ s0 s) => ?_) ?_)
    | intro x
    | lift_lets
    | with_reducible refine kept_modCapRec k_modCapRec ?_
    | with_reducible refine kept_setArmEvent k_setArmEvent ?_
    | with_reducible refine kept_foldl (fun s x hs => ?_) ?_
    | (fail_if_no_progress with_reducible refine Kept.mk' ?_  (h_cap := .inr ⟨i22, .inr i23, sm, sm⟩) (h_hp := .inr ⟨i42, sm, sm, sm, .inr i46, sm, sm, sm, sm, sm, sm, sm⟩) (h_evLog := .inr i78) (h_evLogSeq := .inr i79))
    | split
    | dsimp +zetaDelta only

theorem kept_setDisarm {μ : Nat} (hw : 906694364785738684301312 &&& μ = 906694364785738684301312) {s0 : State} {s : State}  (kh : Kept μ s0 s) :
    Kept μ s0 (setDisarm s) := by
  have k_modCapRec : 12582912 &&& μ = 12582912 := sub_of hw rfl
  have k_setArmEvent : 906694364785738671718400 &&& μ = 906694364785738671718400 := sub_of hw rfl
  have i22 : μ.testBit 22 = true := bit_of hw rfl
  have i23 : μ.testBit 23 = true := bit_of hw rfl
  have i42 : μ.testBit 42 = true := bit_of hw rfl
  have i46 : μ.testBit 46 = true := bit_of hw rfl
  have i78 : μ.testBit 78 = true := bit_of hw rfl
  have i79 : μ.testBit 79 = true := bit_of hw rfl
  unfold setDisarm
  repeat' first
    | with_reducible assumption
    | (intro s; with_reducible refine (fun (hs : Kept μ s0 s) => ?_) ?_)
    | intro x
    | lift_lets
    | with_reducible refine kept_modCapRec k_modCapRec ?_
    | with_reducible refine kept_setArmEvent k_setArmEvent ?_
    | with_reducible refine kept_foldl (fun s x hs => ?_) ?_
    | (fail_if_no_progress with_reducible refine Kept.mk' ?_  (h_cap := .inr ⟨i22, .inr i23, sm, sm⟩) (h_hp := .inr ⟨i42, sm, sm, sm, .inr i46, sm, sm, sm, sm, sm, sm, sm⟩) (h_evLog := .inr i78) (h_evLogSeq := .inr i79))
    | split
    | dsimp +zetaDelta only

theorem kept_sendArm {μ : Nat} (hw : 1133367960511061747040304 &&& μ = 1133367960511061747040304) {s0 : State} {s : State}  (kh : Kept μ s0 s) :
    Kept μ s0 (sendArm s) := by
  have k_setArm : 906694364785738684301312 &&& μ = 906694364785738684301312 := sub_of hw rfl
  have k_xtSend : 1133367960511061738651696 &&& μ = 1133367960511061738651696 := sub_of hw rfl
  have i4 : μ.testBit 4 = true := bit_of hw rfl
  have i5 : μ.testBit 5 = true := bit_of hw rfl
  have i22 : μ.testBit 22 = true := bit_of hw rfl
  have i23 : μ.testBit 23 = true := bit_of hw rfl
  have i42 : μ.testBit 42 = true := bit_of hw rfl
  have i43 : μ.testBit 43 = true := bit_of hw rfl
  have i45 : μ.testBit 45 = true := bit_of hw rfl
  have i46 : μ.testBit 46 = true := bit_of hw rfl
  have i52 : μ.testBit 52 = true := bit_of hw rfl
  have i76 : μ.testBit 76 = true := bit_of hw rfl
  have i77 : μ.testBit 77 = true := bit_of hw rfl
  have i78 : μ.testBit 78 = true := bit_of hw rfl
  have i79 : μ.testBit 79 = true := bit_of hw rfl
  unfold sendArm
  repeat' first
    | with_reducible assumption
    | (intro s; with_reducible refine (fun (hs : Kept μ s0 s) => ?_) ?_)
    | intro x
    | lift_lets
    | with_reducible refine kept_xtSend k_xtSend ?_
    | with_reducible refine kept_setArm k_setArm ?_
    | with_reducible refine KeptF.eq (by with_reducible assumption) ?_
    | (fail_if_no_progress with_reducible refine Kept.mk' ?_  (h_eth := .inr ⟨i4, .inr i5, sm, sm⟩) (h_cap := .inr ⟨i22, .inr i23, sm, sm⟩) (h_hp := .inr ⟨i42, .inr i43, sm, .inr i45, .inr i46, sm, sm, sm, sm, sm, .inr i52, sm⟩) (h_cnt := .inr i76) (h_limits := .inr i77) (h_evLog := .inr i78) (h_evLogSeq := .inr i79))
    | split
    | with_reducible refine KeptF.mk' ?_
    | with_reducible refine KeptF.fst ?_
    | dsimp +zetaDelta only

theorem kept_masterArm {μ : Nat} (hw : 1133367960511061747040304 &&& μ = 1133367960511061747040304) {s0 : State} {s : State}  (kh : Kept μ s0 s) :
    Kept μ s0 (masterArm s) := by
  have k_sendArm : 1133367960511061747040304 &&& μ = 1133367960511061747040304 := sub_of hw rfl
  have i4 : μ.testBit 4 = true := bit_of hw rfl
  have i5 : μ.testBit 5 = true := bit_of hw rfl
  have i22 : μ.testBit 22 = true := bit_of hw rfl
  have i23 : μ.testBit 23 = true := bit_of hw rfl
  have i42 : μ.testBit 42 = true := bit_of hw rfl
  have i43 : μ.testBit 43 = true := bit_of hw rfl
  have i45 : μ.testBit 45 = true := bit_of hw rfl
  have i46 : μ.testBit 46 = true := bit_of hw rfl
  have i52 : μ.testBit 52 = true := bit_of hw rfl
  have i76 : μ.testBit 76 = true := bit_of hw rfl
  have i77 : μ.testBit 77 = true := bit_of hw rfl
  have i78 : μ.testBit 78 = true := bit_of hw rfl
  have i79 : μ.testBit 79 = true := bit_of hw rfl
  unfold masterArm
  repeat' first
    | with_reducible assumption
    | (intro s; with_reducible refine (fun (hs : Kept μ s0 s) => ?_) ?_)
    | intro x
    | lift_lets
    | with_reducible refine kept_sendArm k_sendArm ?_
    | (fail_if_no_progress with_reducible refine Kept.mk' ?_  (h_eth := .inr ⟨i4, .inr i5, sm, sm⟩) (h_cap := .inr ⟨i22, .inr i23, sm, sm⟩) (h_hp := .inr ⟨i42, .inr i43, sm, .inr i45, .inr i46, sm, sm, sm, sm, sm, .inr i52, sm⟩) (h_cnt := .inr i76) (h_limits := .inr i77) (h_evLog := .inr i78) (h_evLogSeq := .inr i79))
    | split
    | dsimp +zetaDelta only

theorem kept_recStart {μ : Nat} (hw : 12582912 &&& μ = 12582912) {s0 : State} {r k : Nat} {s : State}  (kh : Kept μ s0 s) :
    Kept μ s0 (recStart r k s) := by
  have k_modCapRec : 12582912 &&& μ = 12582912 := sub_of hw rfl
  have i22 : μ.testBit 22 = true := bit_of hw rfl
  have i23 : μ.testBit 23 = true := bit_of hw rfl
  unfold recStart
  repeat' first
    | with_reducible assumption
    | (intro s; with_reducible refine (fun (hs : Kept μ s0 s) => ?_) ?_)
    | intro x
    | lift_lets
    | with_reducible refine kept_modCapRec k_modCapRec ?_
    | (fail_if_no_progress with_reducible refine Kept.mk' ?_  (h_cap := .inr ⟨i22, .inr i23, sm, sm⟩))
    | split
    | dsimp +zetaDelta only

theorem kept_groupRecs {μ : Nat} (hw : 12582912 &&& μ = 12582912) {s0 : State} {g i : Nat} {s : State}  (kh : Kept μ s0 s) :
    Kept μ s0 (groupRecs g i s) := by
  have k_recStart : 12582912 &&& μ = 12582912 := sub_of hw rfl
  unfold groupRecs
  repeat' first
    | with_reducible assumption
    | (intro s; with_reducible refine (fun (hs : Kept μ s0 s) => ?_) ?_)
    | intro x
    | lift_lets
    | with_reducible refine kept_recStart k_recStart ?_
    | with_reducible refine kept_foldl (fun s x hs => ?_) ?_
    | split
    | dsimp +zetaDelta only

theorem kept_waveStart {μ : Nat} (hw : 12582912 &&& μ = 12582912) {s0 : State} {r : Nat} {s : State}  (kh : Kept μ s0 s) :
    Kept μ s0 (waveStart r s) := by
  have k_recStart : 12582912 &&& μ = 12582912 := sub_of hw rfl
  have i22 : μ.testBit 22 = true := bit_of hw rfl
  have i23 : μ.testBit 23 = true := bit_of hw rfl
  unfold waveStart
  repeat' first
    | with_reducible assumption
    | (intro s; with_reducible refine (fun (hs : Kept μ s0 s) => ?_) ?_)
    | intro x
    | lift_lets
    | with_reducible refine kept_recStart k_recStart ?_
    | (fail_if_no_progress with_reducible refine Kept.mk' ?_  (h_cap := .inr ⟨i22, .inr i23, sm, sm⟩))
    | split
    | dsimp +zetaDelta only

theorem kept_addCause {μ : Nat} (hw : 4194304 &&& μ = 4194304) {s0 : State} {c : CapCause} {s : State}  (kh : Kept μ s0 s) :
    Kept μ s0 (addCause c s) := by
  have i22 : μ.testBit 22 = true := bit_of hw rfl
  unfold addCause
  repeat' first
    | with_reducible assumption
    | (intro s; with_reducible refine (fun (hs : Kept μ s0 s) => ?_) ?_)
    | intro x
    | lift_lets
    | (fail_if_no_progress with_reducible refine Kept.mk' ?_  (h_cap := .inr ⟨i22, sm, sm, sm⟩))
    | split
    | dsimp +zetaDelta only

theorem kept_condStep {μ : Nat} (hw : 12582912 &&& μ = 12582912) {s0 : State} {r k c : Nat} {s : State}  (kh : Kept μ s0 s) :
    Kept μ s0 (condStep r k c s) := by
  have k_addCause : 4194304 &&& μ = 4194304 := sub_of hw rfl
  have k_modCapRec : 12582912 &&& μ = 12582912 := sub_of hw rfl
  have i22 : μ.testBit 22 = true := bit_of hw rfl
  have i23 : μ.testBit 23 = true := bit_of hw rfl
  unfold condStep
  repeat' first
    | with_reducible assumption
    | (intro s; with_reducible refine (fun (hs : Kept μ s0 s) => ?_) ?_)
    | intro x
    | lift_lets
    | with_reducible refine kept_modCapRec k_modCapRec ?_
    | with_reducible refine kept_addCause k_addCause ?_
    | (fail_if_no_progress with_reducible refine Kept.mk' ?_  (h_cap := .inr ⟨i22, .inr i23, sm, sm⟩))
    | split
    | dsimp +zetaDelta only

theorem kept_capTimeouts {μ : Nat} (hw : 12582912 &&& μ = 12582912) {s0 : State} {s : State}  (kh : Kept μ s0 s) :
    Kept μ s0 (capTimeouts s) := by
  have k_addCause : 4194304 &&& μ = 4194304 := sub_of hw rfl
  have k_modCapRec : 12582912 &&& μ = 12582912 := sub_of hw rfl
  have i22 : μ.testBit 22 = true := bit_of hw rfl
  have i23 : μ.testBit 23 = true := bit_of hw rfl
  unfold capTimeouts
  repeat' first
    | with_reducible assumption
    | (intro s; with_reducible refine (fun (hs : Kept μ s0 s) => ?_) ?_)
    | intro x
    | lift_lets
    | with_reducible refine kept_modCapRec k_modCapRec ?_
    | with_reducible refine kept_addCause k_addCause ?_
    | with_reducible refine kept_foldl (fun s x hs => ?_) ?_
    | (fail_if_no_progress with_reducible refine Kept.mk' ?_  (h_cap := .inr ⟨i22, .inr i23, sm, sm⟩))
    | split
    | dsimp +zetaDelta only

theorem kept_capDi {μ : Nat} (hw : 4194304 &&& μ = 4194304) {s0 : State} {old : BitVec 16} {s : State}  (kh : Kept μ s0 s) :
    Kept μ s0 (capDi old s) := by
  have k_capEvent : 4194304 &&& μ = 4194304 := sub_of hw rfl
  unfold capDi
  repeat' first
    | with_reducible assumption
    | (intro s; with_reducible refine (fun (hs : Kept μ s0 s) => ?_) ?_)
    | intro x
    | lift_lets
    | with_reducible refine kept_capEvent k_capEvent ?_
    | with_reducible refine kept_foldl (fun s x hs => ?_) ?_
    | split
    | dsimp +zetaDelta only

theorem kept_modTake {μ : Nat} (hw : 20971520 &&& μ = 20971520) {s0 : State} {k : Nat} {f : CapTake → CapTake} {s : State}  (kh : Kept μ s0 s) :
    Kept μ s0 (modTake k f s) := by
  have i22 : μ.testBit 22 = true := bit_of hw rfl
  have i24 : μ.testBit 24 = true := bit_of hw rfl
  unfold modTake
  repeat' first
    | with_reducible assumption
    | (intro s; with_reducible refine (fun (hs : Kept μ s0 s) => ?_) ?_)
    | intro x
    | lift_lets
    | (fail_if_no_progress with_reducible refine Kept.mk' ?_  (h_cap := .inr ⟨i22, sm, .inr i24, sm⟩))
    | split
    | dsimp +zetaDelta only

theorem kept_trigger {μ : Nat} (hw : 982252228520449117519872 &&& μ = 982252228520449117519872) {s0 : State} {r k c : Nat} {moved : Bool} {s : State}  (kh : Kept μ s0 s) :
    KeptF μ s0 (trigger r k c moved s) := by
  have k_capEvent : 4194304 &&& μ = 4194304 := sub_of hw rfl
  have k_makeRoom : 982252228520449109131264 &&& μ = 982252228520449109131264 := sub_of hw rfl
  have k_modCapRec : 12582912 &&& μ = 12582912 := sub_of hw rfl
  have i22 : μ.testBit 22 = true := bit_of hw rfl
  have i23 : μ.testBit 23 = true := bit_of hw rfl
  have i24 : μ.testBit 24 = true := bit_of hw rfl
  have i42 : μ.testBit 42 = true := bit_of hw rfl
  have i43 : μ.testBit 43 = true := bit_of hw rfl
  have i46 : μ.testBit 46 = true := bit_of hw rfl
  have i76 : μ.testBit 76 = true := bit_of hw rfl
  have i78 : μ.testBit 78 = true := bit_of hw rfl
  have i79 : μ.testBit 79 = true := bit_of hw rfl
  unfold trigger
  repeat' first
    | with_reducible assumption
    | (intro s; with_reducible refine (fun (hs : Kept μ s0 s) => ?_) ?_)
    | intro x
    | lift_lets
    | with_reducible refine kept_capEvent k_capEvent ?_
    | with_reducible refine kept_modCapRec k_modCapRec ?_
    | with_reducible refine kept_makeRoom k_makeRoom ?_
    | (fail_if_no_progress with_reducible refine Kept.mk' ?_  (h_cap := .inr ⟨i22, .inr i23, .inr i24, sm⟩) (h_hp := .inr ⟨i42, .inr i43, sm, sm, .inr i46, sm, sm, sm, sm, sm, sm, sm⟩) (h_cnt := .inr i76) (h_evLog := .inr i78) (h_evLogSeq := .inr i79))
    | split
    | with_reducible refine KeptF.mk' ?_
    | dsimp +zetaDelta only

theorem kept_oneCause {μ : Nat} (hw : 982252228520449117519872 &&& μ = 982252228520449117519872) {s0 : State} {r c k : Nat} {moved : Bool} {a : State × List SlateDue} (kh : KeptF μ s0 a) :
    KeptF μ s0 (oneCause r c k moved a) := by
  have k_capCount : 982252228520449088159744 &&& μ = 982252228520449088159744 := sub_of hw rfl
  have k_modTake : 20971520 &&& μ = 20971520 := sub_of hw rfl
  have k_trigger : 982252228520449117519872 &&& μ = 982252228520449117519872 := sub_of hw rfl
  obtain ⟨s, l⟩ := a
  have hs : Kept μ s0 s := kh.out
  unfold oneCause
  dsimp only
  split
  · exact KeptF.mk' (kept_capCount k_capCount hs)
  · split
    · split
      · exact KeptF.mk' (KeptF.fst (kept_trigger k_trigger hs))
      · exact KeptF.mk' (KeptF.fst (kept_trigger k_trigger hs))
    · split
      · exact KeptF.mk' (kept_modTake k_modTake hs)
      · exact KeptF.mk' hs


theorem kept_fireIfDue {μ : Nat} (hw : 1133367960511061755428912 &&& μ = 1133367960511061755428912) {s0 : State} {r : Nat} {s : State}  (kh : Kept μ s0 s) :
    Kept μ s0 (fireIfDue r s) := by
  have k_capCount : 982252228520449088159744 &&& μ = 982252228520449088159744 := sub_of hw rfl
  have k_modTake : 20971520 &&& μ = 20971520 := sub_of hw rfl
  have k_xtSend : 1133367960511061738651696 &&& μ = 1133367960511061738651696 := sub_of hw rfl
  have i4 : μ.testBit 4 = true := bit_of hw rfl
  have i5 : μ.testBit 5 = true := bit_of hw rfl
  have i22 : μ.testBit 22 = true := bit_of hw rfl
  have i24 : μ.testBit 24 = true := bit_of hw rfl
  have i42 : μ.testBit 42 = true := bit_of hw rfl
  have i43 : μ.testBit 43 = true := bit_of hw rfl
  have i45 : μ.testBit 45 = true := bit_of hw rfl
  have i46 : μ.testBit 46 = true := bit_of hw rfl
  have i52 : μ.testBit 52 = true := bit_of hw rfl
  have i76 : μ.testBit 76 = true := bit_of hw rfl
  have i77 : μ.testBit 77 = true := bit_of hw rfl
  have i78 : μ.testBit 78 = true := bit_of hw rfl
  have i79 : μ.testBit 79 = true := bit_of hw rfl
  unfold fireIfDue
  repeat' first
    | with_reducible assumption
    | (intro s; with_reducible refine (fun (hs : Kept μ s0 s) => ?_) ?_)
    | intro x
    | lift_lets
    | with_reducible refine kept_capCount k_capCount ?_
    | with_reducible refine kept_xtSend k_xtSend ?_
    | with_reducible refine kept_modTake k_modTake ?_
    | with_reducible refine KeptF.eq (by with_reducible assumption) ?_
    | (fail_if_no_progress with_reducible refine Kept.mk' ?_  (h_eth := .inr ⟨i4, .inr i5, sm, sm⟩) (h_cap := .inr ⟨i22, sm, .inr i24, sm⟩) (h_hp := .inr ⟨i42, .inr i43, sm, .inr i45, .inr i46, sm, sm, sm, sm, sm, .inr i52, sm⟩) (h_cnt := .inr i76) (h_limits := .inr i77) (h_evLog := .inr i78) (h_evLogSeq := .inr i79))
    | split
    | with_reducible refine KeptF.mk' ?_
    | with_reducible refine KeptF.fst ?_
    | dsimp +zetaDelta only

theorem kept_processCauses {μ : Nat} (hw : 1133367962762861611057200 &&& μ = 1133367962762861611057200) {s0 : State} {r : Nat} {s : State}  (kh : Kept μ s0 s) :
    Kept μ s0 (processCauses r s) := by
  have k_fireIfDue : 1133367960511061755428912 &&& μ = 1133367960511061755428912 := sub_of hw rfl
  have k_makeSlate : 1133367958224077586432000 &&& μ = 1133367958224077586432000 := sub_of hw rfl
  have k_oneCause : 982252228520449117519872 &&& μ = 982252228520449117519872 := sub_of hw rfl
  have i4 : μ.testBit 4 = true := bit_of hw rfl
  have i5 : μ.testBit 5 = true := bit_of hw rfl
  have i22 : μ.testBit 22 = true := bit_of hw rfl
  have i23 : μ.testBit 23 = true := bit_of hw rfl
  have i24 : μ.testBit 24 = true := bit_of hw rfl
  have i25 : μ.testBit 25 = true := bit_of hw rfl
  have i42 : μ.testBit 42 = true := bit_of hw rfl
  have i43 : μ.testBit 43 = true := bit_of hw rfl
  have i45 : μ.testBit 45 = true := bit_of hw rfl
  have i46 : μ.testBit 46 = true := bit_of hw rfl
  have i51 : μ.testBit 51 = true := bit_of hw rfl
  have i52 : μ.testBit 52 = true := bit_of hw rfl
  have i76 : μ.testBit 76 = true := bit_of hw rfl
  have i77 : μ.testBit 77 = true := bit_of hw rfl
  have i78 : μ.testBit 78 = true := bit_of hw rfl
  have i79 : μ.testBit 79 = true := bit_of hw rfl
  unfold processCauses
  dsimp only
  refine kept_foldl (fun s x hs => kept_makeSlate k_makeSlate hs) ?_
  have hf : ∀ (go : List CapCause) (a : State × List SlateDue), KeptF μ s0 a → KeptF μ s0 (go.foldl (fun a c => match placeCause a.1 c with
    | some (k, mv) => oneCause r c.cond k mv a
    | none => a) a) := fun go a ha => kept_foldlF (fun p x hp => by
      split
      · exact kept_oneCause k_oneCause hp
      · exact hp) ha
  have := fun go a (ha : KeptF μ s0 a) => KeptF.fst (hf go a ha)
  split
  · exact kept_fireIfDue k_fireIfDue (this _ _ (KeptF.mk' (Kept.mk' kh  (h_eth := .inr ⟨i4, .inr i5, sm, sm⟩) (h_cap := .inr ⟨i22, .inr i23, .inr i24, .inr i25⟩) (h_hp := .inr ⟨i42, .inr i43, sm, .inr i45, .inr i46, sm, sm, sm, sm, .inr i51, .inr i52, sm⟩) (h_cnt := .inr i76) (h_limits := .inr i77) (h_evLog := .inr i78) (h_evLogSeq := .inr i79))))
  · exact this _ _ (KeptF.mk' (Kept.mk' kh  (h_eth := .inr ⟨i4, .inr i5, sm, sm⟩) (h_cap := .inr ⟨i22, .inr i23, .inr i24, .inr i25⟩) (h_hp := .inr ⟨i42, .inr i43, sm, .inr i45, .inr i46, sm, sm, sm, sm, .inr i51, .inr i52, sm⟩) (h_cnt := .inr i76) (h_limits := .inr i77) (h_evLog := .inr i78) (h_evLogSeq := .inr i79)))

theorem kept_closeTake {μ : Nat} (hw : 982252228520449117519872 &&& μ = 982252228520449117519872) {s0 : State} {r : Nat} {s : State}  (kh : Kept μ s0 s) :
    Kept μ s0 (closeTake r s) := by
  have k_capCount : 982252228520449088159744 &&& μ = 982252228520449088159744 := sub_of hw rfl
  have k_capFlag : 13194139533312 &&& μ = 13194139533312 := sub_of hw rfl
  have k_modCapRec : 12582912 &&& μ = 12582912 := sub_of hw rfl
  have k_modTake : 20971520 &&& μ = 20971520 := sub_of hw rfl
  have k_raise : 906694364785738671718400 &&& μ = 906694364785738671718400 := sub_of hw rfl
  have i22 : μ.testBit 22 = true := bit_of hw rfl
  have i23 : μ.testBit 23 = true := bit_of hw rfl
  have i24 : μ.testBit 24 = true := bit_of hw rfl
  have i42 : μ.testBit 42 = true := bit_of hw rfl
  have i43 : μ.testBit 43 = true := bit_of hw rfl
  have i46 : μ.testBit 46 = true := bit_of hw rfl
  have i76 : μ.testBit 76 = true := bit_of hw rfl
  have i78 : μ.testBit 78 = true := bit_of hw rfl
  have i79 : μ.testBit 79 = true := bit_of hw rfl
  unfold closeTake
  repeat' first
    | with_reducible assumption
    | (intro s; with_reducible refine (fun (hs : Kept μ s0 s) => ?_) ?_)
    | intro x
    | lift_lets
    | with_reducible refine kept_raise k_raise ?_
    | with_reducible refine kept_modCapRec k_modCapRec ?_
    | with_reducible refine kept_capCount k_capCount ?_
    | with_reducible refine kept_capFlag k_capFlag ?_
    | with_reducible refine kept_modTake k_modTake ?_
    | (fail_if_no_progress with_reducible refine Kept.mk' ?_  (h_cap := .inr ⟨i22, .inr i23, .inr i24, sm⟩) (h_hp := .inr ⟨i42, .inr i43, sm, sm, .inr i46, sm, sm, sm, sm, sm, sm, sm⟩) (h_cnt := .inr i76) (h_evLog := .inr i78) (h_evLogSeq := .inr i79))
    | split
    | dsimp +zetaDelta only

theorem kept_truncateTake {μ : Nat} (hw : 982252228520449117519872 &&& μ = 982252228520449117519872) {s0 : State} {r : Nat} {s : State}  (kh : Kept μ s0 s) :
    Kept μ s0 (truncateTake r s) := by
  have k_capCount : 982252228520449088159744 &&& μ = 982252228520449088159744 := sub_of hw rfl
  have k_capFlag : 13194139533312 &&& μ = 13194139533312 := sub_of hw rfl
  have k_closeTake : 982252228520449117519872 &&& μ = 982252228520449117519872 := sub_of hw rfl
  have k_modTake : 20971520 &&& μ = 20971520 := sub_of hw rfl
  have i22 : μ.testBit 22 = true := bit_of hw rfl
  have i23 : μ.testBit 23 = true := bit_of hw rfl
  have i24 : μ.testBit 24 = true := bit_of hw rfl
  have i42 : μ.testBit 42 = true := bit_of hw rfl
  have i43 : μ.testBit 43 = true := bit_of hw rfl
  have i46 : μ.testBit 46 = true := bit_of hw rfl
  have i76 : μ.testBit 76 = true := bit_of hw rfl
  have i78 : μ.testBit 78 = true := bit_of hw rfl
  have i79 : μ.testBit 79 = true := bit_of hw rfl
  unfold truncateTake
  repeat' first
    | with_reducible assumption
    | (intro s; with_reducible refine (fun (hs : Kept μ s0 s) => ?_) ?_)
    | intro x
    | lift_lets
    | with_reducible refine kept_capCount k_capCount ?_
    | with_reducible refine kept_capFlag k_capFlag ?_
    | with_reducible refine kept_modTake k_modTake ?_
    | with_reducible refine kept_closeTake k_closeTake ?_
    | (fail_if_no_progress with_reducible refine Kept.mk' ?_  (h_cap := .inr ⟨i22, .inr i23, .inr i24, sm⟩) (h_hp := .inr ⟨i42, .inr i43, sm, sm, .inr i46, sm, sm, sm, sm, sm, sm, sm⟩) (h_cnt := .inr i76) (h_evLog := .inr i78) (h_evLogSeq := .inr i79))
    | split
    | dsimp +zetaDelta only

theorem kept_closeIfDone {μ : Nat} (hw : 982252228520449117519872 &&& μ = 982252228520449117519872) {s0 : State} {r : Nat} {s : State}  (kh : Kept μ s0 s) :
    Kept μ s0 (closeIfDone r s) := by
  have k_closeTake : 982252228520449117519872 &&& μ = 982252228520449117519872 := sub_of hw rfl
  have i22 : μ.testBit 22 = true := bit_of hw rfl
  have i23 : μ.testBit 23 = true := bit_of hw rfl
  have i24 : μ.testBit 24 = true := bit_of hw rfl
  have i42 : μ.testBit 42 = true := bit_of hw rfl
  have i43 : μ.testBit 43 = true := bit_of hw rfl
  have i46 : μ.testBit 46 = true := bit_of hw rfl
  have i76 : μ.testBit 76 = true := bit_of hw rfl
  have i78 : μ.testBit 78 = true := bit_of hw rfl
  have i79 : μ.testBit 79 = true := bit_of hw rfl
  unfold closeIfDone
  repeat' first
    | with_reducible assumption
    | (intro s; with_reducible refine (fun (hs : Kept μ s0 s) => ?_) ?_)
    | intro x
    | lift_lets
    | with_reducible refine kept_closeTake k_closeTake ?_
    | (fail_if_no_progress with_reducible refine Kept.mk' ?_  (h_cap := .inr ⟨i22, .inr i23, .inr i24, sm⟩) (h_hp := .inr ⟨i42, .inr i43, sm, sm, .inr i46, sm, sm, sm, sm, sm, sm, sm⟩) (h_cnt := .inr i76) (h_evLog := .inr i78) (h_evLogSeq := .inr i79))
    | split
    | dsimp +zetaDelta only

theorem kept_pushSamp {μ : Nat} (hw : 29360128 &&& μ = 29360128) {s0 : State} {r : Nat} {s : State}  (kh : Kept μ s0 s) :
    Kept μ s0 (pushSamp r s) := by
  have k_condStep : 12582912 &&& μ = 12582912 := sub_of hw rfl
  have k_modCapRec : 12582912 &&& μ = 12582912 := sub_of hw rfl
  have k_modTake : 20971520 &&& μ = 20971520 := sub_of hw rfl
  have i22 : μ.testBit 22 = true := bit_of hw rfl
  have i23 : μ.testBit 23 = true := bit_of hw rfl
  have i24 : μ.testBit 24 = true := bit_of hw rfl
  unfold pushSamp
  repeat' first
    | with_reducible assumption
    | (intro s; with_reducible refine (fun (hs : Kept μ s0 s) => ?_) ?_)
    | intro x
    | lift_lets
    | with_reducible refine kept_modCapRec k_modCapRec ?_
    | with_reducible refine kept_condStep k_condStep ?_
    | with_reducible refine kept_modTake k_modTake ?_
    | with_reducible refine kept_foldl (fun s x hs => ?_) ?_
    | (fail_if_no_progress with_reducible refine Kept.mk' ?_  (h_cap := .inr ⟨i22, .inr i23, .inr i24, sm⟩))
    | split
    | dsimp +zetaDelta only

theorem kept_sampSets {μ : Nat} (hw : 982252228520449088178176 &&& μ = 982252228520449088178176) {s0 : State} {r : Nat} {bad : List (Nat × Nat)} {s : State}  (kh : Kept μ s0 s) :
    Kept μ s0 (sampSets r bad s) := by
  have k_readSets : 982252228520449088178176 &&& μ = 982252228520449088178176 := sub_of hw rfl
  unfold sampSets
  repeat' first
    | with_reducible assumption
    | (intro s; with_reducible refine (fun (hs : Kept μ s0 s) => ?_) ?_)
    | intro x
    | lift_lets
    | with_reducible refine kept_readSets k_readSets ?_
    | split
    | dsimp +zetaDelta only

theorem kept_execCaptureSampleWrite {μ : Nat} (hw : 1133367962762861611075632 &&& μ = 1133367962762861611075632) {s0 : State} {r : Nat} {s : State} {c : ReadCheck}  (kh : Kept μ s0 s) :
    KeptOut μ s0 (execCaptureSampleWrite r s c) := by
  have k_act : 0 &&& μ = 0 := sub_of hw rfl
  have k_closeIfDone : 982252228520449117519872 &&& μ = 982252228520449117519872 := sub_of hw rfl
  have k_processCauses : 1133367962762861611057200 &&& μ = 1133367962762861611057200 := sub_of hw rfl
  have k_pushSamp : 29360128 &&& μ = 29360128 := sub_of hw rfl
  have k_sampSets : 982252228520449088178176 &&& μ = 982252228520449088178176 := sub_of hw rfl
  have k_waveStart : 12582912 &&& μ = 12582912 := sub_of hw rfl
  unfold execCaptureSampleWrite
  repeat' first
    | with_reducible assumption
    | (intro s; with_reducible refine (fun (hs : Kept μ s0 s) => ?_) ?_)
    | intro x
    | lift_lets
    | with_reducible refine kept_act k_act (fun s hs => ?_) ?_
    | with_reducible refine kept_waveStart k_waveStart ?_
    | with_reducible refine kept_processCauses k_processCauses ?_
    | with_reducible refine kept_closeIfDone k_closeIfDone ?_
    | with_reducible refine kept_pushSamp k_pushSamp ?_
    | with_reducible refine kept_sampSets k_sampSets ?_
    | split
    | with_reducible refine KeptOut.mk' ?_
    | dsimp +zetaDelta only

theorem kept_execRearmExpiry {μ : Nat} (hw : 1133367962762861611057200 &&& μ = 1133367962762861611057200) {s0 : State} {r : Nat} {s : State}  (kh : Kept μ s0 s) :
    KeptOut μ s0 (execRearmExpiry r s) := by
  have k_act : 0 &&& μ = 0 := sub_of hw rfl
  have k_modCapRec : 12582912 &&& μ = 12582912 := sub_of hw rfl
  have k_processCauses : 1133367962762861611057200 &&& μ = 1133367962762861611057200 := sub_of hw rfl
  have i4 : μ.testBit 4 = true := bit_of hw rfl
  have i5 : μ.testBit 5 = true := bit_of hw rfl
  have i22 : μ.testBit 22 = true := bit_of hw rfl
  have i23 : μ.testBit 23 = true := bit_of hw rfl
  have i24 : μ.testBit 24 = true := bit_of hw rfl
  have i25 : μ.testBit 25 = true := bit_of hw rfl
  have i42 : μ.testBit 42 = true := bit_of hw rfl
  have i43 : μ.testBit 43 = true := bit_of hw rfl
  have i45 : μ.testBit 45 = true := bit_of hw rfl
  have i46 : μ.testBit 46 = true := bit_of hw rfl
  have i51 : μ.testBit 51 = true := bit_of hw rfl
  have i52 : μ.testBit 52 = true := bit_of hw rfl
  have i76 : μ.testBit 76 = true := bit_of hw rfl
  have i77 : μ.testBit 77 = true := bit_of hw rfl
  have i78 : μ.testBit 78 = true := bit_of hw rfl
  have i79 : μ.testBit 79 = true := bit_of hw rfl
  unfold execRearmExpiry
  repeat' first
    | with_reducible assumption
    | (intro s; with_reducible refine (fun (hs : Kept μ s0 s) => ?_) ?_)
    | intro x
    | lift_lets
    | with_reducible refine kept_act k_act (fun s hs => ?_) ?_
    | with_reducible refine kept_modCapRec k_modCapRec ?_
    | with_reducible refine kept_processCauses k_processCauses ?_
    | (fail_if_no_progress with_reducible refine Kept.mk' ?_  (h_eth := .inr ⟨i4, .inr i5, sm, sm⟩) (h_cap := .inr ⟨i22, .inr i23, .inr i24, .inr i25⟩) (h_hp := .inr ⟨i42, .inr i43, sm, .inr i45, .inr i46, sm, sm, sm, sm, .inr i51, .inr i52, sm⟩) (h_cnt := .inr i76) (h_limits := .inr i77) (h_evLog := .inr i78) (h_evLogSeq := .inr i79))
    | split
    | with_reducible refine KeptOut.mk' ?_
    | dsimp +zetaDelta only

theorem kept_capRefuse {μ : Nat} (hw : 906694364785738671718400 &&& μ = 906694364785738671718400) {s0 : State} {o : EvObj} {op reason : Nat} {s : State}  (kh : Kept μ s0 s) :
    Kept μ s0 (capRefuse o op reason s) := by
  have k_raise : 906694364785738671718400 &&& μ = 906694364785738671718400 := sub_of hw rfl
  unfold capRefuse
  repeat' first
    | with_reducible assumption
    | (intro s; with_reducible refine (fun (hs : Kept μ s0 s) => ?_) ?_)
    | intro x
    | lift_lets
    | with_reducible refine kept_raise k_raise ?_
    | split
    | dsimp +zetaDelta only

theorem kept_capCtrl {μ : Nat} (hw : 906694364829719136829440 &&& μ = 906694364829719136829440) {s0 : State} {n : Nat} {o : EvObj} {op key : Nat} {right : Bool} {f : State → State} {s : State} (h_f : ∀ s, Kept μ s0 s → Kept μ s0 (f s)) (kh : Kept μ s0 s) :
    Kept μ s0 (capCtrl n o op key right f s) := by
  have k_capRefuse : 906694364785738671718400 &&& μ = 906694364785738671718400 := sub_of hw rfl
  have k_deniedInvalid : 906694364829719136829440 &&& μ = 906694364829719136829440 := sub_of hw rfl
  unfold capCtrl
  repeat' first
    | with_reducible assumption
    | (intro s; with_reducible refine (fun (hs : Kept μ s0 s) => ?_) ?_)
    | intro x
    | lift_lets
    | with_reducible refine kept_deniedInvalid k_deniedInvalid ?_
    | with_reducible refine kept_capRefuse k_capRefuse ?_
    | with_reducible refine h_f _ ?_
    | split
    | dsimp +zetaDelta only

theorem kept_execCapArmRecorder {μ : Nat} (hw : 906694364829719149412352 &&& μ = 906694364829719149412352) {s0 : State} {n r key : Nat} {s : State}  (kh : Kept μ s0 s) :
    KeptOut μ s0 (execCapArmRecorder n r key s) := by
  have k_act : 0 &&& μ = 0 := sub_of hw rfl
  have k_capCtrl : 906694364829719136829440 &&& μ = 906694364829719136829440 := sub_of hw rfl
  have k_capRefuse : 906694364785738671718400 &&& μ = 906694364785738671718400 := sub_of hw rfl
  have k_modCapRec : 12582912 &&& μ = 12582912 := sub_of hw rfl
  have i22 : μ.testBit 22 = true := bit_of hw rfl
  have i23 : μ.testBit 23 = true := bit_of hw rfl
  have i42 : μ.testBit 42 = true := bit_of hw rfl
  have i43 : μ.testBit 43 = true := bit_of hw rfl
  have i45 : μ.testBit 45 = true := bit_of hw rfl
  have i46 : μ.testBit 46 = true := bit_of hw rfl
  have i78 : μ.testBit 78 = true := bit_of hw rfl
  have i79 : μ.testBit 79 = true := bit_of hw rfl
  unfold execCapArmRecorder
  repeat' first
    | with_reducible assumption
    | (intro s; with_reducible refine (fun (hs : Kept μ s0 s) => ?_) ?_)
    | intro x
    | lift_lets
    | with_reducible refine kept_act k_act (fun s hs => ?_) ?_
    | with_reducible refine kept_modCapRec k_modCapRec ?_
    | with_reducible refine kept_capRefuse k_capRefuse ?_
    | with_reducible refine kept_capCtrl k_capCtrl (fun s hs => ?_) ?_
    | (fail_if_no_progress with_reducible refine Kept.mk' ?_  (h_cap := .inr ⟨i22, .inr i23, sm, sm⟩) (h_hp := .inr ⟨i42, .inr i43, sm, .inr i45, .inr i46, sm, sm, sm, sm, sm, sm, sm⟩) (h_evLog := .inr i78) (h_evLogSeq := .inr i79))
    | split
    | with_reducible refine KeptOut.mk' ?_
    | dsimp +zetaDelta only

theorem kept_execCapDisarmRecorder {μ : Nat} (hw : 906694364829719149412352 &&& μ = 906694364829719149412352) {s0 : State} {n r key : Nat} {s : State}  (kh : Kept μ s0 s) :
    KeptOut μ s0 (execCapDisarmRecorder n r key s) := by
  have k_act : 0 &&& μ = 0 := sub_of hw rfl
  have k_capCtrl : 906694364829719136829440 &&& μ = 906694364829719136829440 := sub_of hw rfl
  have k_capRefuse : 906694364785738671718400 &&& μ = 906694364785738671718400 := sub_of hw rfl
  have k_modCapRec : 12582912 &&& μ = 12582912 := sub_of hw rfl
  have i22 : μ.testBit 22 = true := bit_of hw rfl
  have i23 : μ.testBit 23 = true := bit_of hw rfl
  have i42 : μ.testBit 42 = true := bit_of hw rfl
  have i43 : μ.testBit 43 = true := bit_of hw rfl
  have i45 : μ.testBit 45 = true := bit_of hw rfl
  have i46 : μ.testBit 46 = true := bit_of hw rfl
  have i78 : μ.testBit 78 = true := bit_of hw rfl
  have i79 : μ.testBit 79 = true := bit_of hw rfl
  unfold execCapDisarmRecorder
  repeat' first
    | with_reducible assumption
    | (intro s; with_reducible refine (fun (hs : Kept μ s0 s) => ?_) ?_)
    | intro x
    | lift_lets
    | with_reducible refine kept_act k_act (fun s hs => ?_) ?_
    | with_reducible refine kept_modCapRec k_modCapRec ?_
    | with_reducible refine kept_capRefuse k_capRefuse ?_
    | with_reducible refine kept_capCtrl k_capCtrl (fun s hs => ?_) ?_
    | (fail_if_no_progress with_reducible refine Kept.mk' ?_  (h_cap := .inr ⟨i22, .inr i23, sm, sm⟩) (h_hp := .inr ⟨i42, .inr i43, sm, .inr i45, .inr i46, sm, sm, sm, sm, sm, sm, sm⟩) (h_evLog := .inr i78) (h_evLogSeq := .inr i79))
    | split
    | with_reducible refine KeptOut.mk' ?_
    | dsimp +zetaDelta only

theorem kept_execCapHostTrigger {μ : Nat} (hw : 906694364829719141023744 &&& μ = 906694364829719141023744) {s0 : State} {n r key : Nat} {s : State}  (kh : Kept μ s0 s) :
    KeptOut μ s0 (execCapHostTrigger n r key s) := by
  have k_act : 0 &&& μ = 0 := sub_of hw rfl
  have k_addCause : 4194304 &&& μ = 4194304 := sub_of hw rfl
  have k_capCtrl : 906694364829719136829440 &&& μ = 906694364829719136829440 := sub_of hw rfl
  unfold execCapHostTrigger
  repeat' first
    | with_reducible assumption
    | (intro s; with_reducible refine (fun (hs : Kept μ s0 s) => ?_) ?_)
    | intro x
    | lift_lets
    | with_reducible refine kept_act k_act (fun s hs => ?_) ?_
    | with_reducible refine kept_addCause k_addCause ?_
    | with_reducible refine kept_capCtrl k_capCtrl (fun s hs => ?_) ?_
    | with_reducible refine kept_foldl (fun s x hs => ?_) ?_
    | split
    | with_reducible refine KeptOut.mk' ?_
    | dsimp +zetaDelta only

theorem kept_execCapFreeTake {μ : Nat} (hw : 906694364829719157800960 &&& μ = 906694364829719157800960) {s0 : State} {n k key : Nat} {s : State}  (kh : Kept μ s0 s) :
    KeptOut μ s0 (execCapFreeTake n k key s) := by
  have k_act : 0 &&& μ = 0 := sub_of hw rfl
  have k_capCtrl : 906694364829719136829440 &&& μ = 906694364829719136829440 := sub_of hw rfl
  have k_capRefuse : 906694364785738671718400 &&& μ = 906694364785738671718400 := sub_of hw rfl
  have i22 : μ.testBit 22 = true := bit_of hw rfl
  have i24 : μ.testBit 24 = true := bit_of hw rfl
  have i42 : μ.testBit 42 = true := bit_of hw rfl
  have i43 : μ.testBit 43 = true := bit_of hw rfl
  have i45 : μ.testBit 45 = true := bit_of hw rfl
  have i46 : μ.testBit 46 = true := bit_of hw rfl
  have i78 : μ.testBit 78 = true := bit_of hw rfl
  have i79 : μ.testBit 79 = true := bit_of hw rfl
  unfold execCapFreeTake
  repeat' first
    | with_reducible assumption
    | (intro s; with_reducible refine (fun (hs : Kept μ s0 s) => ?_) ?_)
    | intro x
    | lift_lets
    | with_reducible refine kept_act k_act (fun s hs => ?_) ?_
    | with_reducible refine kept_capRefuse k_capRefuse ?_
    | with_reducible refine kept_capCtrl k_capCtrl (fun s hs => ?_) ?_
    | (fail_if_no_progress with_reducible refine Kept.mk' ?_  (h_cap := .inr ⟨i22, sm, .inr i24, sm⟩) (h_hp := .inr ⟨i42, .inr i43, sm, .inr i45, .inr i46, sm, sm, sm, sm, sm, sm, sm⟩) (h_evLog := .inr i78) (h_evLogSeq := .inr i79))
    | split
    | with_reducible refine KeptOut.mk' ?_
    | dsimp +zetaDelta only

theorem kept_execCapArmSet {μ : Nat} (hw : 1133367960511061747040304 &&& μ = 1133367960511061747040304) {s0 : State} {n key : Nat} {s : State}  (kh : Kept μ s0 s) :
    KeptOut μ s0 (execCapArmSet n key s) := by
  have k_act : 0 &&& μ = 0 := sub_of hw rfl
  have k_capCtrl : 906694364829719136829440 &&& μ = 906694364829719136829440 := sub_of hw rfl
  have k_capRefuse : 906694364785738671718400 &&& μ = 906694364785738671718400 := sub_of hw rfl
  have k_masterArm : 1133367960511061747040304 &&& μ = 1133367960511061747040304 := sub_of hw rfl
  unfold execCapArmSet
  repeat' first
    | with_reducible assumption
    | (intro s; with_reducible refine (fun (hs : Kept μ s0 s) => ?_) ?_)
    | intro x
    | lift_lets
    | with_reducible refine kept_act k_act (fun s hs => ?_) ?_
    | with_reducible refine kept_masterArm k_masterArm ?_
    | with_reducible refine kept_capRefuse k_capRefuse ?_
    | with_reducible refine kept_capCtrl k_capCtrl (fun s hs => ?_) ?_
    | split
    | with_reducible refine KeptOut.mk' ?_
    | dsimp +zetaDelta only

theorem kept_execCapDisarmSet {μ : Nat} (hw : 1133367960511061747040304 &&& μ = 1133367960511061747040304) {s0 : State} {n key : Nat} {s : State}  (kh : Kept μ s0 s) :
    KeptOut μ s0 (execCapDisarmSet n key s) := by
  have k_act : 0 &&& μ = 0 := sub_of hw rfl
  have k_capCtrl : 906694364829719136829440 &&& μ = 906694364829719136829440 := sub_of hw rfl
  have k_capRefuse : 906694364785738671718400 &&& μ = 906694364785738671718400 := sub_of hw rfl
  have k_setDisarm : 906694364785738684301312 &&& μ = 906694364785738684301312 := sub_of hw rfl
  have k_xtSend : 1133367960511061738651696 &&& μ = 1133367960511061738651696 := sub_of hw rfl
  unfold execCapDisarmSet
  repeat' first
    | with_reducible assumption
    | (intro s; with_reducible refine (fun (hs : Kept μ s0 s) => ?_) ?_)
    | intro x
    | lift_lets
    | with_reducible refine kept_act k_act (fun s hs => ?_) ?_
    | with_reducible refine kept_xtSend k_xtSend ?_
    | with_reducible refine kept_setDisarm k_setDisarm ?_
    | with_reducible refine kept_capRefuse k_capRefuse ?_
    | with_reducible refine kept_capCtrl k_capCtrl (fun s hs => ?_) ?_
    | with_reducible refine KeptF.eq (by with_reducible assumption) ?_
    | split
    | with_reducible refine KeptOut.mk' ?_
    | with_reducible refine KeptF.mk' ?_
    | with_reducible refine KeptF.fst ?_
    | dsimp +zetaDelta only

theorem kept_execArmRepeat {μ : Nat} (hw : 1133367960511061747040304 &&& μ = 1133367960511061747040304) {s0 : State} {s : State}  (kh : Kept μ s0 s) :
    KeptOut μ s0 (execArmRepeat s) := by
  have k_act : 0 &&& μ = 0 := sub_of hw rfl
  have k_sendArm : 1133367960511061747040304 &&& μ = 1133367960511061747040304 := sub_of hw rfl
  unfold execArmRepeat
  repeat' first
    | with_reducible assumption
    | (intro s; with_reducible refine (fun (hs : Kept μ s0 s) => ?_) ?_)
    | intro x
    | lift_lets
    | with_reducible refine kept_act k_act (fun s hs => ?_) ?_
    | with_reducible refine kept_sendArm k_sendArm ?_
    | split
    | with_reducible refine KeptOut.mk' ?_
    | dsimp +zetaDelta only

theorem kept_execArmSpanExpiry {μ : Nat} (hw : 906694364785738684301312 &&& μ = 906694364785738684301312) {s0 : State} {s : State}  (kh : Kept μ s0 s) :
    KeptOut μ s0 (execArmSpanExpiry s) := by
  have k_act : 0 &&& μ = 0 := sub_of hw rfl
  have k_setDisarm : 906694364785738684301312 &&& μ = 906694364785738684301312 := sub_of hw rfl
  unfold execArmSpanExpiry
  repeat' first
    | with_reducible assumption
    | (intro s; with_reducible refine (fun (hs : Kept μ s0 s) => ?_) ?_)
    | intro x
    | lift_lets
    | with_reducible refine kept_act k_act (fun s hs => ?_) ?_
    | with_reducible refine kept_setDisarm k_setDisarm ?_
    | split
    | with_reducible refine KeptOut.mk' ?_
    | dsimp +zetaDelta only

theorem kept_crossMsg {μ : Nat} (hw : 1133367955972277747580928 &&& μ = 1133367955972277747580928) {s0 : State} {b : List Byte} {s : State}  (kh : Kept μ s0 s) :
    Kept μ s0 (crossMsg b s) := by
  have k_addCause : 4194304 &&& μ = 4194304 := sub_of hw rfl
  have k_count : 982252228520449088159744 &&& μ = 982252228520449088159744 := sub_of hw rfl
  have k_flagCount : 982252228520449088159744 &&& μ = 982252228520449088159744 := sub_of hw rfl
  have k_macVerify : 1133367955972277734998016 &&& μ = 1133367955972277734998016 := sub_of hw rfl
  have k_raiseLimited : 1057810092237567318556672 &&& μ = 1057810092237567318556672 := sub_of hw rfl
  have k_setArm : 906694364785738684301312 &&& μ = 906694364785738684301312 := sub_of hw rfl
  have k_setDisarm : 906694364785738684301312 &&& μ = 906694364785738684301312 := sub_of hw rfl
  have i22 : μ.testBit 22 = true := bit_of hw rfl
  have i23 : μ.testBit 23 = true := bit_of hw rfl
  have i42 : μ.testBit 42 = true := bit_of hw rfl
  have i43 : μ.testBit 43 = true := bit_of hw rfl
  have i46 : μ.testBit 46 = true := bit_of hw rfl
  have i76 : μ.testBit 76 = true := bit_of hw rfl
  have i77 : μ.testBit 77 = true := bit_of hw rfl
  have i78 : μ.testBit 78 = true := bit_of hw rfl
  have i79 : μ.testBit 79 = true := bit_of hw rfl
  unfold crossMsg
  repeat' first
    | with_reducible assumption
    | (intro s; with_reducible refine (fun (hs : Kept μ s0 s) => ?_) ?_)
    | intro x
    | lift_lets
    | with_reducible refine kept_raiseLimited k_raiseLimited ?_
    | with_reducible refine kept_count k_count ?_
    | with_reducible refine kept_flagCount k_flagCount ?_
    | with_reducible refine kept_macVerify k_macVerify ?_
    | with_reducible refine kept_setArm k_setArm ?_
    | with_reducible refine kept_setDisarm k_setDisarm ?_
    | with_reducible refine kept_addCause k_addCause ?_
    | with_reducible refine kept_foldl (fun s x hs => ?_) ?_
    | with_reducible refine KeptF.eq (by with_reducible assumption) ?_
    | (fail_if_no_progress with_reducible refine Kept.mk' ?_  (h_cap := .inr ⟨i22, .inr i23, sm, sm⟩) (h_hp := .inr ⟨i42, .inr i43, sm, sm, .inr i46, sm, sm, sm, sm, sm, sm, sm⟩) (h_cnt := .inr i76) (h_limits := .inr i77) (h_evLog := .inr i78) (h_evLogSeq := .inr i79))
    | split
    | with_reducible refine KeptF.mk' ?_
    | with_reducible refine KeptF.fst ?_
    | dsimp +zetaDelta only

theorem kept_execCrossTriggerMsgRx {μ : Nat} (hw : 1133367955972277747581041 &&& μ = 1133367955972277747581041) {s0 : State} {s : State}  (kh : Kept μ s0 s) :
    KeptOut μ s0 (execCrossTriggerMsgRx s) := by
  have k_act : 0 &&& μ = 0 := sub_of hw rfl
  have k_crossMsg : 1133367955972277747580928 &&& μ = 1133367955972277747580928 := sub_of hw rfl
  have k_takeHanded : 113 &&& μ = 113 := sub_of hw rfl
  have i0 : μ.testBit 0 = true := bit_of hw rfl
  have i4 : μ.testBit 4 = true := bit_of hw rfl
  have i5 : μ.testBit 5 = true := bit_of hw rfl
  have i6 : μ.testBit 6 = true := bit_of hw rfl
  have i22 : μ.testBit 22 = true := bit_of hw rfl
  have i23 : μ.testBit 23 = true := bit_of hw rfl
  have i42 : μ.testBit 42 = true := bit_of hw rfl
  have i43 : μ.testBit 43 = true := bit_of hw rfl
  have i46 : μ.testBit 46 = true := bit_of hw rfl
  have i76 : μ.testBit 76 = true := bit_of hw rfl
  have i77 : μ.testBit 77 = true := bit_of hw rfl
  have i78 : μ.testBit 78 = true := bit_of hw rfl
  have i79 : μ.testBit 79 = true := bit_of hw rfl
  unfold execCrossTriggerMsgRx
  repeat' first
    | with_reducible assumption
    | (intro s; with_reducible refine (fun (hs : Kept μ s0 s) => ?_) ?_)
    | intro x
    | lift_lets
    | with_reducible refine kept_act k_act (fun s hs => ?_) ?_
    | with_reducible refine kept_takeHanded k_takeHanded ?_
    | with_reducible refine kept_crossMsg k_crossMsg ?_
    | with_reducible refine KeptOS.eq (by with_reducible assumption) ?_
    | (fail_if_no_progress with_reducible refine Kept.mk' ?_  (h_tb := .inr ⟨i0, sm, sm, sm⟩) (h_eth := .inr ⟨i4, .inr i5, .inr i6, sm⟩) (h_cap := .inr ⟨i22, .inr i23, sm, sm⟩) (h_hp := .inr ⟨i42, .inr i43, sm, sm, .inr i46, sm, sm, sm, sm, sm, sm, sm⟩) (h_cnt := .inr i76) (h_limits := .inr i77) (h_evLog := .inr i78) (h_evLogSeq := .inr i79))
    | split
    | with_reducible refine KeptOut.mk' ?_
    | dsimp +zetaDelta only

end Sys2Proof.Machine
end

