-- ==== Sys2Proof/Laws/KeptMetering.lean ====
section
/-!
SUPPORT. Sys2Proof/Laws/KeptMetering.lean: every operation of Metering.lean keeps what no command changes, and the parts that it does not write (Kept.lean).
-/
set_option Elab.async false
set_option linter.unusedTactic false
set_option linter.unreachableTactic false
set_option linter.unusedVariables false
namespace Sys2Proof.Machine

theorem kept_modMtr {μ : Nat} (hw : 201326592 &&& μ = 201326592) {s0 : State} {p : Nat} {f : MtrPt → MtrPt} {s : State}  (kh : Kept μ s0 s) :
    Kept μ s0 (modMtr p f s) := by
  have i26 : μ.testBit 26 = true := bit_of hw rfl
  have i27 : μ.testBit 27 = true := bit_of hw rfl
  unfold modMtr
  repeat' first
    | with_reducible assumption
    | (intro s; with_reducible refine (fun (hs : Kept μ s0 s) => ?_) ?_)
    | intro x
    | lift_lets
    | (fail_if_no_progress with_reducible refine Kept.mk' ?_  (h_mtr := .inr ⟨i26, .inr i27, sm⟩))
    | split
    | dsimp +zetaDelta only

theorem kept_mtrFlag {μ : Nat} (hw : 13194139533312 &&& μ = 13194139533312) {s0 : State} {b : Nat} {s : State}  (kh : Kept μ s0 s) :
    Kept μ s0 (mtrFlag b s) := by
  have k_setFlag : 13194139533312 &&& μ = 13194139533312 := sub_of hw rfl
  unfold mtrFlag
  repeat' first
    | with_reducible assumption
    | (intro s; with_reducible refine (fun (hs : Kept μ s0 s) => ?_) ?_)
    | intro x
    | lift_lets
    | with_reducible refine kept_setFlag k_setFlag ?_
    | split
    | dsimp +zetaDelta only

theorem kept_mtrCount {μ : Nat} (hw : 982252228520449088159744 &&& μ = 982252228520449088159744) {s0 : State} {k : Nat} {s : State}  (kh : Kept μ s0 s) :
    Kept μ s0 (mtrCount k s) := by
  have k_count : 982252228520449088159744 &&& μ = 982252228520449088159744 := sub_of hw rfl
  unfold mtrCount
  repeat' first
    | with_reducible assumption
    | (intro s; with_reducible refine (fun (hs : Kept μ s0 s) => ?_) ?_)
    | intro x
    | lift_lets
    | with_reducible refine kept_count k_count ?_
    | split
    | dsimp +zetaDelta only

theorem kept_energyU {μ : Nat} (hw : 1208925819627823314239488 &&& μ = 1208925819627823314239488) {s0 : State} {e : Nat} {s : State}  (kh : Kept μ s0 s) :
    KeptS μ s0 (energyU e s) := by
  have k_fresh : 1208925819614629174706176 &&& μ = 1208925819614629174706176 := sub_of hw rfl
  have k_mtrFlag : 13194139533312 &&& μ = 13194139533312 := sub_of hw rfl
  have i42 : μ.testBit 42 = true := bit_of hw rfl
  have i43 : μ.testBit 43 = true := bit_of hw rfl
  have i80 : μ.testBit 80 = true := bit_of hw rfl
  unfold energyU
  repeat' first
    | with_reducible assumption
    | (intro s; with_reducible refine (fun (hs : Kept μ s0 s) => ?_) ?_)
    | intro x
    | lift_lets
    | with_reducible refine kept_fresh k_fresh ?_
    | with_reducible refine kept_mtrFlag k_mtrFlag ?_
    | with_reducible refine KeptS.eq (by with_reducible assumption) ?_
    | (fail_if_no_progress with_reducible refine Kept.mk' ?_  (h_hp := .inr ⟨i42, .inr i43, sm, sm, sm, sm, sm, sm, sm, sm, sm, sm⟩) (h_free := .inr i80))
    | split
    | with_reducible refine KeptS.mk' ?_
    | with_reducible refine KeptS.snd ?_
    | dsimp +zetaDelta only

theorem kept_modPo {μ : Nat} (hw : 335544320 &&& μ = 335544320) {s0 : State} {k : Nat} {f : Po → Po} {s : State}  (kh : Kept μ s0 s) :
    Kept μ s0 (modPo k f s) := by
  have i26 : μ.testBit 26 = true := bit_of hw rfl
  have i28 : μ.testBit 28 = true := bit_of hw rfl
  unfold modPo
  repeat' first
    | with_reducible assumption
    | (intro s; with_reducible refine (fun (hs : Kept μ s0 s) => ?_) ?_)
    | intro x
    | lift_lets
    | (fail_if_no_progress with_reducible refine Kept.mk' ?_  (h_mtr := .inr ⟨i26, sm, .inr i28⟩))
    | split
    | dsimp +zetaDelta only

theorem kept_mtrCommit {μ : Nat} (hw : 19599665578316398592 &&& μ = 19599665578316398592) {s0 : State} {p : Nat} {s : State}  (kh : Kept μ s0 s) :
    Kept μ s0 (mtrCommit p s) := by
  have i60 : μ.testBit 60 = true := bit_of hw rfl
  have i64 : μ.testBit 64 = true := bit_of hw rfl
  unfold mtrCommit
  repeat' first
    | with_reducible assumption
    | (intro s; with_reducible refine (fun (hs : Kept μ s0 s) => ?_) ?_)
    | intro x
    | lift_lets
    | (fail_if_no_progress with_reducible refine Kept.mk' ?_  (h_nv := .inr ⟨i60, sm, sm, sm, .inr i64, sm, sm, sm⟩))
    | split
    | dsimp +zetaDelta only

theorem kept_mtrLoad {μ : Nat} (hw : 906694364794535234502656 &&& μ = 906694364794535234502656) {s0 : State} {p : Nat} {s : State}  (kh : Kept μ s0 s) :
    Kept μ s0 (mtrLoad p s) := by
  have k_modMtr : 201326592 &&& μ = 201326592 := sub_of hw rfl
  have k_modPo : 335544320 &&& μ = 335544320 := sub_of hw rfl
  have k_mtrFlag : 13194139533312 &&& μ = 13194139533312 := sub_of hw rfl
  have k_raise : 906694364785738671718400 &&& μ = 906694364785738671718400 := sub_of hw rfl
  have i26 : μ.testBit 26 = true := bit_of hw rfl
  have i27 : μ.testBit 27 = true := bit_of hw rfl
  have i28 : μ.testBit 28 = true := bit_of hw rfl
  have i42 : μ.testBit 42 = true := bit_of hw rfl
  have i43 : μ.testBit 43 = true := bit_of hw rfl
  have i46 : μ.testBit 46 = true := bit_of hw rfl
  have i78 : μ.testBit 78 = true := bit_of hw rfl
  have i79 : μ.testBit 79 = true := bit_of hw rfl
  unfold mtrLoad
  repeat' first
    | with_reducible assumption
    | (intro s; with_reducible refine (fun (hs : Kept μ s0 s) => ?_) ?_)
    | intro x
    | lift_lets
    | with_reducible refine kept_raise k_raise ?_
    | with_reducible refine kept_modMtr k_modMtr ?_
    | with_reducible refine kept_mtrFlag k_mtrFlag ?_
    | with_reducible refine kept_modPo k_modPo ?_
    | with_reducible refine kept_foldl (fun s x hs => ?_) ?_
    | (fail_if_no_progress with_reducible refine Kept.mk' ?_  (h_mtr := .inr ⟨i26, .inr i27, .inr i28⟩) (h_hp := .inr ⟨i42, .inr i43, sm, sm, .inr i46, sm, sm, sm, sm, sm, sm, sm⟩) (h_evLog := .inr i78) (h_evLogSeq := .inr i79))
    | split
    | dsimp +zetaDelta only

theorem kept_poAdd {μ : Nat} (hw : 906694364794535100284928 &&& μ = 906694364794535100284928) {s0 : State} {k u : Nat} {s : State}  (kh : Kept μ s0 s) :
    Kept μ s0 (poAdd k u s) := by
  have k_modPo : 335544320 &&& μ = 335544320 := sub_of hw rfl
  have k_mtrFlag : 13194139533312 &&& μ = 13194139533312 := sub_of hw rfl
  have k_raise : 906694364785738671718400 &&& μ = 906694364785738671718400 := sub_of hw rfl
  have i26 : μ.testBit 26 = true := bit_of hw rfl
  have i28 : μ.testBit 28 = true := bit_of hw rfl
  have i42 : μ.testBit 42 = true := bit_of hw rfl
  have i43 : μ.testBit 43 = true := bit_of hw rfl
  have i46 : μ.testBit 46 = true := bit_of hw rfl
  have i78 : μ.testBit 78 = true := bit_of hw rfl
  have i79 : μ.testBit 79 = true := bit_of hw rfl
  unfold poAdd
  repeat' first
    | with_reducible assumption
    | (intro s; with_reducible refine (fun (hs : Kept μ s0 s) => ?_) ?_)
    | intro x
    | lift_lets
    | with_reducible refine kept_raise k_raise ?_
    | with_reducible refine kept_mtrFlag k_mtrFlag ?_
    | with_reducible refine kept_modPo k_modPo ?_
    | (fail_if_no_progress with_reducible refine Kept.mk' ?_  (h_mtr := .inr ⟨i26, sm, .inr i28⟩) (h_hp := .inr ⟨i42, .inr i43, sm, sm, .inr i46, sm, sm, sm, sm, sm, sm, sm⟩) (h_evLog := .inr i78) (h_evLogSeq := .inr i79))
    | split
    | dsimp +zetaDelta only

theorem kept_execPulseOutputStep {μ : Nat} (hw : 335544321 &&& μ = 335544321) {s0 : State} {k ns : Nat} {s : State}  (kh : Kept μ s0 s) :
    KeptOut μ s0 (execPulseOutputStep k ns s) := by
  have k_act : 0 &&& μ = 0 := sub_of hw rfl
  have k_modPo : 335544320 &&& μ = 335544320 := sub_of hw rfl
  have k_seen : 1 &&& μ = 1 := sub_of hw rfl
  have i0 : μ.testBit 0 = true := bit_of hw rfl
  have i26 : μ.testBit 26 = true := bit_of hw rfl
  have i28 : μ.testBit 28 = true := bit_of hw rfl
  unfold execPulseOutputStep
  repeat' first
    | with_reducible assumption
    | (intro s; with_reducible refine (fun (hs : Kept μ s0 s) => ?_) ?_)
    | intro x
    | lift_lets
    | with_reducible refine kept_act k_act (fun s hs => ?_) ?_
    | with_reducible refine kept_seen k_seen ?_
    | with_reducible refine kept_modPo k_modPo ?_
    | (fail_if_no_progress with_reducible refine Kept.mk' ?_  (h_tb := .inr ⟨i0, sm, sm, sm⟩) (h_mtr := .inr ⟨i26, sm, .inr i28⟩))
    | split
    | with_reducible refine KeptOut.mk' ?_
    | dsimp +zetaDelta only

theorem kept_writeBill {μ : Nat} (hw : 906704743331079947026432 &&& μ = 906704743331079947026432) {s0 : State} {kept : Bool} {b : BillBody} {s : State}  (kh : Kept μ s0 s) :
    Kept μ s0 (writeBill kept b s) := by
  have k_harvest : 2256197860196352 &&& μ = 2256197860196352 := sub_of hw rfl
  have k_raise : 906694364785738671718400 &&& μ = 906694364785738671718400 := sub_of hw rfl
  have i42 : μ.testBit 42 = true := bit_of hw rfl
  have i46 : μ.testBit 46 = true := bit_of hw rfl
  have i51 : μ.testBit 51 = true := bit_of hw rfl
  have i60 : μ.testBit 60 = true := bit_of hw rfl
  have i63 : μ.testBit 63 = true := bit_of hw rfl
  have i78 : μ.testBit 78 = true := bit_of hw rfl
  have i79 : μ.testBit 79 = true := bit_of hw rfl
  unfold writeBill
  dsimp only
  refine kept_harvest k_harvest ?_
  split
  · refine kept_raise k_raise (kept_raise k_raise ?_)
    exact ⟨kh.pending, kh.part, kh.hp, kh.push, kh.tick, kh.svn, Nat.le_succ_of_le kh.bill, kh.ctr, kh.ctr64, kh.evl, kh.tlog, kh.fr.mk' (h_hp := .inr ⟨i42, sm, sm, sm, .inr i46, sm, sm, sm, sm, .inr i51, sm, sm⟩) (h_nv := .inr ⟨i60, sm, sm, .inr i63, sm, sm, sm, sm⟩) (h_evLog := .inr i78) (h_evLogSeq := .inr i79)⟩
  · refine kept_raise k_raise ?_
    exact ⟨kh.pending, kh.part, kh.hp, kh.push, kh.tick, kh.svn, Nat.le_succ_of_le kh.bill, kh.ctr, kh.ctr64, kh.evl, kh.tlog, kh.fr.mk' (h_hp := .inr ⟨i42, sm, sm, sm, .inr i46, sm, sm, sm, sm, .inr i51, sm, sm⟩) (h_nv := .inr ⟨i60, sm, sm, .inr i63, sm, sm, sm, sm⟩) (h_evLog := .inr i78) (h_evLogSeq := .inr i79)⟩

theorem kept_logFull {μ : Nat} (hw : 1057810092246363411578880 &&& μ = 1057810092246363411578880) {s0 : State} {s : State}  (kh : Kept μ s0 s) :
    Kept μ s0 (logFull s) := by
  have k_mtrFlag : 13194139533312 &&& μ = 13194139533312 := sub_of hw rfl
  have k_raiseLimited : 1057810092237567318556672 &&& μ = 1057810092237567318556672 := sub_of hw rfl
  unfold logFull
  repeat' first
    | with_reducible assumption
    | (intro s; with_reducible refine (fun (hs : Kept μ s0 s) => ?_) ?_)
    | intro x
    | lift_lets
    | with_reducible refine kept_raiseLimited k_raiseLimited ?_
    | with_reducible refine kept_mtrFlag k_mtrFlag ?_
    | split
    | dsimp +zetaDelta only

theorem kept_loseBill {μ : Nat} (hw : 1133378332265819196620800 &&& μ = 1133378332265819196620800) {s0 : State} {s : State}  (kh : Kept μ s0 s) :
    Kept μ s0 (loseBill s) := by
  have k_logFull : 1057810092246363411578880 &&& μ = 1057810092246363411578880 := sub_of hw rfl
  have k_mtrCount : 982252228520449088159744 &&& μ = 982252228520449088159744 := sub_of hw rfl
  have i42 : μ.testBit 42 = true := bit_of hw rfl
  have i43 : μ.testBit 43 = true := bit_of hw rfl
  have i46 : μ.testBit 46 = true := bit_of hw rfl
  have i60 : μ.testBit 60 = true := bit_of hw rfl
  have i63 : μ.testBit 63 = true := bit_of hw rfl
  have i76 : μ.testBit 76 = true := bit_of hw rfl
  have i77 : μ.testBit 77 = true := bit_of hw rfl
  have i78 : μ.testBit 78 = true := bit_of hw rfl
  have i79 : μ.testBit 79 = true := bit_of hw rfl
  unfold loseBill
  repeat' first
    | with_reducible assumption
    | (intro s; with_reducible refine (fun (hs : Kept μ s0 s) => ?_) ?_)
    | intro x
    | lift_lets
    | with_reducible refine kept_mtrCount k_mtrCount ?_
    | with_reducible refine kept_logFull k_logFull ?_
    | (fail_if_no_progress with_reducible refine Kept.mk' ?_  (h_hp := .inr ⟨i42, .inr i43, sm, sm, .inr i46, sm, sm, sm, sm, sm, sm, sm⟩) (h_nv := .inr ⟨i60, sm, sm, .inr i63, sm, sm, sm, sm⟩) (h_cnt := .inr i76) (h_limits := .inr i77) (h_evLog := .inr i78) (h_evLogSeq := .inr i79))
    | split
    | dsimp +zetaDelta only

theorem kept_placeBill {μ : Nat} (hw : 1133378334517619010306048 &&& μ = 1133378334517619010306048) {s0 : State} {b : BillBody} {s : State}  (kh : Kept μ s0 s) :
    Kept μ s0 (placeBill b s) := by
  have k_logFull : 1057810092246363411578880 &&& μ = 1057810092246363411578880 := sub_of hw rfl
  have k_loseBill : 1133378332265819196620800 &&& μ = 1133378332265819196620800 := sub_of hw rfl
  have k_writeBill : 906704743331079947026432 &&& μ = 906704743331079947026432 := sub_of hw rfl
  have i42 : μ.testBit 42 = true := bit_of hw rfl
  have i43 : μ.testBit 43 = true := bit_of hw rfl
  have i46 : μ.testBit 46 = true := bit_of hw rfl
  have i51 : μ.testBit 51 = true := bit_of hw rfl
  have i60 : μ.testBit 60 = true := bit_of hw rfl
  have i63 : μ.testBit 63 = true := bit_of hw rfl
  have i76 : μ.testBit 76 = true := bit_of hw rfl
  have i77 : μ.testBit 77 = true := bit_of hw rfl
  have i78 : μ.testBit 78 = true := bit_of hw rfl
  have i79 : μ.testBit 79 = true := bit_of hw rfl
  unfold placeBill
  repeat' first
    | with_reducible assumption
    | (intro s; with_reducible refine (fun (hs : Kept μ s0 s) => ?_) ?_)
    | intro x
    | lift_lets
    | with_reducible refine kept_writeBill k_writeBill ?_
    | with_reducible refine kept_logFull k_logFull ?_
    | with_reducible refine kept_loseBill k_loseBill ?_
    | (fail_if_no_progress with_reducible refine Kept.mk' ?_  (h_hp := .inr ⟨i42, .inr i43, sm, sm, .inr i46, sm, sm, sm, sm, .inr i51, sm, sm⟩) (h_nv := .inr ⟨i60, sm, sm, .inr i63, sm, sm, sm, sm⟩) (h_cnt := .inr i76) (h_limits := .inr i77) (h_evLog := .inr i78) (h_evLogSeq := .inr i79))
    | split
    | dsimp +zetaDelta only

theorem kept_drainPend {μ : Nat} (hw : 906704743331079947026432 &&& μ = 906704743331079947026432) {s0 : State} {k : Nat} {s : State} (kh : Kept μ s0 s) :
    Kept μ s0 (drainPend k s) := by
  have k_writeBill : 906704743331079947026432 &&& μ = 906704743331079947026432 := sub_of hw rfl
  have i42 : μ.testBit 42 = true := bit_of hw rfl
  have i46 : μ.testBit 46 = true := bit_of hw rfl
  have i51 : μ.testBit 51 = true := bit_of hw rfl
  have i60 : μ.testBit 60 = true := bit_of hw rfl
  have i63 : μ.testBit 63 = true := bit_of hw rfl
  have i78 : μ.testBit 78 = true := bit_of hw rfl
  have i79 : μ.testBit 79 = true := bit_of hw rfl
  induction k generalizing s
  · exact kh
  rename_i ih
  unfold drainPend
  repeat' first
    | with_reducible assumption
    | (intro s; with_reducible refine (fun (hs : Kept μ s0 s) => ?_) ?_)
    | intro x
    | lift_lets
    | with_reducible refine ih ?_
    | with_reducible refine kept_writeBill k_writeBill ?_
    | (fail_if_no_progress with_reducible refine Kept.mk' ?_  (h_hp := .inr ⟨i42, sm, sm, sm, .inr i46, sm, sm, sm, sm, .inr i51, sm, sm⟩) (h_nv := .inr ⟨i60, sm, sm, .inr i63, sm, sm, sm, sm⟩) (h_evLog := .inr i78) (h_evLogSeq := .inr i79))
    | split
    | dsimp +zetaDelta only


theorem kept_mkBill {μ : Nat} (hw : 201326592 &&& μ = 201326592) {s0 : State} {typ p flags ts ts2 : Nat} {body : List Byte} {s : State}  (kh : Kept μ s0 s) :
    KeptS μ s0 (mkBill typ p flags ts ts2 body s) := by
  have k_modMtr : 201326592 &&& μ = 201326592 := sub_of hw rfl
  have i26 : μ.testBit 26 = true := bit_of hw rfl
  have i27 : μ.testBit 27 = true := bit_of hw rfl
  unfold mkBill
  repeat' first
    | with_reducible assumption
    | (intro s; with_reducible refine (fun (hs : Kept μ s0 s) => ?_) ?_)
    | intro x
    | lift_lets
    | with_reducible refine kept_modMtr k_modMtr ?_
    | (fail_if_no_progress with_reducible refine Kept.mk' ?_  (h_mtr := .inr ⟨i26, .inr i27, sm⟩))
    | split
    | with_reducible refine KeptS.mk' ?_
    | dsimp +zetaDelta only

theorem kept_saveBill {μ : Nat} (hw : 1152921504606846976 &&& μ = 1152921504606846976) {s0 : State} {b : BillBody} {s : State}  (kh : Kept μ s0 s) :
    Kept μ s0 (saveBill b s) := by
  have i60 : μ.testBit 60 = true := bit_of hw rfl
  unfold saveBill
  repeat' first
    | with_reducible assumption
    | (intro s; with_reducible refine (fun (hs : Kept μ s0 s) => ?_) ?_)
    | intro x
    | lift_lets
    | (fail_if_no_progress with_reducible refine Kept.mk' ?_  (h_nv := .inr ⟨i60, sm, sm, sm, sm, sm, sm, sm⟩))
    | split
    | dsimp +zetaDelta only

theorem kept_execBillingRecordSign {μ : Nat} (hw : 1133378334517619010306048 &&& μ = 1133378334517619010306048) {s0 : State} {s : State}  (kh : Kept μ s0 s) :
    KeptOut μ s0 (execBillingRecordSign s) := by
  have k_act : 0 &&& μ = 0 := sub_of hw rfl
  have k_placeBill : 1133378334517619010306048 &&& μ = 1133378334517619010306048 := sub_of hw rfl
  have i42 : μ.testBit 42 = true := bit_of hw rfl
  have i43 : μ.testBit 43 = true := bit_of hw rfl
  have i46 : μ.testBit 46 = true := bit_of hw rfl
  have i51 : μ.testBit 51 = true := bit_of hw rfl
  have i60 : μ.testBit 60 = true := bit_of hw rfl
  have i63 : μ.testBit 63 = true := bit_of hw rfl
  have i76 : μ.testBit 76 = true := bit_of hw rfl
  have i77 : μ.testBit 77 = true := bit_of hw rfl
  have i78 : μ.testBit 78 = true := bit_of hw rfl
  have i79 : μ.testBit 79 = true := bit_of hw rfl
  unfold execBillingRecordSign
  repeat' first
    | with_reducible assumption
    | (intro s; with_reducible refine (fun (hs : Kept μ s0 s) => ?_) ?_)
    | intro x
    | lift_lets
    | with_reducible refine kept_act k_act (fun s hs => ?_) ?_
    | with_reducible refine kept_placeBill k_placeBill ?_
    | (fail_if_no_progress with_reducible refine Kept.mk' ?_  (h_hp := .inr ⟨i42, .inr i43, sm, sm, .inr i46, sm, sm, sm, sm, .inr i51, sm, sm⟩) (h_nv := .inr ⟨i60, sm, sm, .inr i63, sm, sm, sm, sm⟩) (h_cnt := .inr i76) (h_limits := .inr i77) (h_evLog := .inr i78) (h_evLogSeq := .inr i79))
    | split
    | with_reducible refine KeptOut.mk' ?_
    | dsimp +zetaDelta only

theorem kept_meterIdentity {μ : Nat} (hw : 1133378334517619211632640 &&& μ = 1133378334517619211632640) {s0 : State} {s : State}  (kh : Kept μ s0 s) :
    Kept μ s0 (meterIdentity s) := by
  have k_mkBill : 201326592 &&& μ = 201326592 := sub_of hw rfl
  have k_placeBill : 1133378334517619010306048 &&& μ = 1133378334517619010306048 := sub_of hw rfl
  have k_raise : 906694364785738671718400 &&& μ = 906694364785738671718400 := sub_of hw rfl
  have i26 : μ.testBit 26 = true := bit_of hw rfl
  have i27 : μ.testBit 27 = true := bit_of hw rfl
  have i42 : μ.testBit 42 = true := bit_of hw rfl
  have i43 : μ.testBit 43 = true := bit_of hw rfl
  have i46 : μ.testBit 46 = true := bit_of hw rfl
  have i51 : μ.testBit 51 = true := bit_of hw rfl
  have i60 : μ.testBit 60 = true := bit_of hw rfl
  have i63 : μ.testBit 63 = true := bit_of hw rfl
  have i76 : μ.testBit 76 = true := bit_of hw rfl
  have i77 : μ.testBit 77 = true := bit_of hw rfl
  have i78 : μ.testBit 78 = true := bit_of hw rfl
  have i79 : μ.testBit 79 = true := bit_of hw rfl
  unfold meterIdentity
  repeat' first
    | with_reducible assumption
    | (intro s; with_reducible refine (fun (hs : Kept μ s0 s) => ?_) ?_)
    | intro x
    | lift_lets
    | with_reducible refine kept_raise k_raise ?_
    | with_reducible refine kept_placeBill k_placeBill ?_
    | with_reducible refine kept_mkBill k_mkBill ?_
    | with_reducible refine KeptS.eq (by with_reducible assumption) ?_
    | (fail_if_no_progress with_reducible refine Kept.mk' ?_  (h_mtr := .inr ⟨i26, .inr i27, sm⟩) (h_hp := .inr ⟨i42, .inr i43, sm, sm, .inr i46, sm, sm, sm, sm, .inr i51, sm, sm⟩) (h_nv := .inr ⟨i60, sm, sm, .inr i63, sm, sm, sm, sm⟩) (h_cnt := .inr i76) (h_limits := .inr i77) (h_evLog := .inr i78) (h_evLogSeq := .inr i79))
    | split
    | with_reducible refine KeptS.mk' ?_
    | with_reducible refine KeptS.snd ?_
    | dsimp +zetaDelta only

theorem kept_intervalBill {μ : Nat} (hw : 1152921504808173568 &&& μ = 1152921504808173568) {s0 : State} {p ns : Nat} {s : State}  (kh : Kept μ s0 s) :
    Kept μ s0 (intervalBill p ns s) := by
  have k_mkBill : 201326592 &&& μ = 201326592 := sub_of hw rfl
  have k_modMtr : 201326592 &&& μ = 201326592 := sub_of hw rfl
  have k_saveBill : 1152921504606846976 &&& μ = 1152921504606846976 := sub_of hw rfl
  have i26 : μ.testBit 26 = true := bit_of hw rfl
  have i27 : μ.testBit 27 = true := bit_of hw rfl
  have i60 : μ.testBit 60 = true := bit_of hw rfl
  unfold intervalBill
  repeat' first
    | with_reducible assumption
    | (intro s; with_reducible refine (fun (hs : Kept μ s0 s) => ?_) ?_)
    | intro x
    | lift_lets
    | with_reducible refine kept_modMtr k_modMtr ?_
    | with_reducible refine kept_mkBill k_mkBill ?_
    | with_reducible refine kept_saveBill k_saveBill ?_
    | with_reducible refine KeptS.eq (by with_reducible assumption) ?_
    | (fail_if_no_progress with_reducible refine Kept.mk' ?_  (h_mtr := .inr ⟨i26, .inr i27, sm⟩) (h_nv := .inr ⟨i60, sm, sm, sm, sm, sm, sm, sm⟩))
    | split
    | with_reducible refine KeptS.mk' ?_
    | with_reducible refine KeptS.snd ?_
    | dsimp +zetaDelta only

theorem kept_registerCycle {μ : Nat} (hw : 2191197647800657049026560 &&& μ = 2191197647800657049026560) {s0 : State} {im : Image} {p lo hi t0 tEnd : Nat} {s : State}  (kh : Kept μ s0 s) :
    Kept μ s0 (registerCycle im p lo hi t0 tEnd s) := by
  have k_countN : 982252228520449088159744 &&& μ = 982252228520449088159744 := sub_of hw rfl
  have k_energyU : 1208925819627823314239488 &&& μ = 1208925819627823314239488 := sub_of hw rfl
  have k_modMtr : 201326592 &&& μ = 201326592 := sub_of hw rfl
  have k_mtrCommit : 19599665578316398592 &&& μ = 19599665578316398592 := sub_of hw rfl
  have k_mtrCount : 982252228520449088159744 &&& μ = 982252228520449088159744 := sub_of hw rfl
  have k_mtrFlag : 13194139533312 &&& μ = 13194139533312 := sub_of hw rfl
  have k_poAdd : 906694364794535100284928 &&& μ = 906694364794535100284928 := sub_of hw rfl
  have i26 : μ.testBit 26 = true := bit_of hw rfl
  have i27 : μ.testBit 27 = true := bit_of hw rfl
  have i28 : μ.testBit 28 = true := bit_of hw rfl
  have i42 : μ.testBit 42 = true := bit_of hw rfl
  have i43 : μ.testBit 43 = true := bit_of hw rfl
  have i46 : μ.testBit 46 = true := bit_of hw rfl
  have i60 : μ.testBit 60 = true := bit_of hw rfl
  have i64 : μ.testBit 64 = true := bit_of hw rfl
  have i76 : μ.testBit 76 = true := bit_of hw rfl
  have i78 : μ.testBit 78 = true := bit_of hw rfl
  have i79 : μ.testBit 79 = true := bit_of hw rfl
  have i80 : μ.testBit 80 = true := bit_of hw rfl
  unfold registerCycle
  dsimp only
  refine Kept.mk' (s := mtrCommit _ _) (kept_mtrCommit k_mtrCommit (kept_mtrCount k_mtrCount (kept_foldl (fun s x hs => kept_poAdd k_poAdd hs) ?_)))  (h_mtr := .inr ⟨i26, .inr i27, .inr i28⟩) (h_hp := .inr ⟨i42, .inr i43, sm, sm, .inr i46, sm, sm, sm, sm, sm, sm, sm⟩) (h_nv := .inr ⟨i60, sm, sm, sm, .inr i64, sm, sm, sm⟩) (h_cnt := .inr i76) (h_evLog := .inr i78) (h_evLogSeq := .inr i79) (h_free := .inr i80)
  have hu : ∀ l : List (Nat × Nat), Kept μ s0 (l.foldl (fun (a : List (Nat × Nat) × State) (x : Nat × Nat) =>
      (a.1 ++ [(x.1, (energyU x.2 a.2).1)], (energyU x.2 a.2).2)) ([], s)).2 := fun l =>
    KeptS.snd (kept_foldlS (fun p x hp => KeptS.mk' (KeptS.snd (kept_energyU k_energyU (KeptS.snd hp)))) (KeptS.mk' kh))
  split
  · refine kept_countN k_countN ?_
    split
    · exact kept_mtrFlag k_mtrFlag (kept_countN k_countN (kept_modMtr k_modMtr (hu _)))
    · exact kept_modMtr k_modMtr (hu _)
  · split
    · exact kept_mtrFlag k_mtrFlag (kept_countN k_countN (kept_modMtr k_modMtr (hu _)))
    · exact kept_modMtr k_modMtr (hu _)

theorem kept_mtrBegin {μ : Nat} (hw : 1152921504808173568 &&& μ = 1152921504808173568) {s0 : State} {p : Nat} {s : State}  (kh : Kept μ s0 s) :
    Kept μ s0 (mtrBegin p s) := by
  have k_intervalBill : 1152921504808173568 &&& μ = 1152921504808173568 := sub_of hw rfl
  have k_modMtr : 201326592 &&& μ = 201326592 := sub_of hw rfl
  have i26 : μ.testBit 26 = true := bit_of hw rfl
  have i27 : μ.testBit 27 = true := bit_of hw rfl
  have i60 : μ.testBit 60 = true := bit_of hw rfl
  unfold mtrBegin
  repeat' first
    | with_reducible assumption
    | (intro s; with_reducible refine (fun (hs : Kept μ s0 s) => ?_) ?_)
    | intro x
    | lift_lets
    | with_reducible refine kept_modMtr k_modMtr ?_
    | with_reducible refine kept_intervalBill k_intervalBill ?_
    | (fail_if_no_progress with_reducible refine Kept.mk' ?_  (h_mtr := .inr ⟨i26, .inr i27, sm⟩) (h_nv := .inr ⟨i60, sm, sm, sm, sm, sm, sm, sm⟩))
    | split
    | dsimp +zetaDelta only

theorem kept_supplyRestore {μ : Nat} (hw : 1133378334517619211632640 &&& μ = 1133378334517619211632640) {s0 : State} {p t0 : Nat} {s : State}  (kh : Kept μ s0 s) :
    Kept μ s0 (supplyRestore p t0 s) := by
  have k_mkBill : 201326592 &&& μ = 201326592 := sub_of hw rfl
  have k_modMtr : 201326592 &&& μ = 201326592 := sub_of hw rfl
  have k_mtrFlag : 13194139533312 &&& μ = 13194139533312 := sub_of hw rfl
  have k_placeBill : 1133378334517619010306048 &&& μ = 1133378334517619010306048 := sub_of hw rfl
  have k_raise : 906694364785738671718400 &&& μ = 906694364785738671718400 := sub_of hw rfl
  have i26 : μ.testBit 26 = true := bit_of hw rfl
  have i27 : μ.testBit 27 = true := bit_of hw rfl
  have i42 : μ.testBit 42 = true := bit_of hw rfl
  have i43 : μ.testBit 43 = true := bit_of hw rfl
  have i46 : μ.testBit 46 = true := bit_of hw rfl
  have i51 : μ.testBit 51 = true := bit_of hw rfl
  have i60 : μ.testBit 60 = true := bit_of hw rfl
  have i63 : μ.testBit 63 = true := bit_of hw rfl
  have i76 : μ.testBit 76 = true := bit_of hw rfl
  have i77 : μ.testBit 77 = true := bit_of hw rfl
  have i78 : μ.testBit 78 = true := bit_of hw rfl
  have i79 : μ.testBit 79 = true := bit_of hw rfl
  unfold supplyRestore
  repeat' first
    | with_reducible assumption
    | (intro s; with_reducible refine (fun (hs : Kept μ s0 s) => ?_) ?_)
    | intro x
    | lift_lets
    | with_reducible refine kept_raise k_raise ?_
    | with_reducible refine kept_modMtr k_modMtr ?_
    | with_reducible refine kept_mtrFlag k_mtrFlag ?_
    | with_reducible refine kept_placeBill k_placeBill ?_
    | with_reducible refine kept_mkBill k_mkBill ?_
    | with_reducible refine KeptS.eq (by with_reducible assumption) ?_
    | (fail_if_no_progress with_reducible refine Kept.mk' ?_  (h_mtr := .inr ⟨i26, .inr i27, sm⟩) (h_hp := .inr ⟨i42, .inr i43, sm, sm, .inr i46, sm, sm, sm, sm, .inr i51, sm, sm⟩) (h_nv := .inr ⟨i60, sm, sm, .inr i63, sm, sm, sm, sm⟩) (h_cnt := .inr i76) (h_limits := .inr i77) (h_evLog := .inr i78) (h_evLogSeq := .inr i79))
    | split
    | with_reducible refine KeptS.mk' ?_
    | with_reducible refine KeptS.snd ?_
    | dsimp +zetaDelta only

theorem kept_mtrSwitch {μ : Nat} (hw : 1152921504808173568 &&& μ = 1152921504808173568) {s0 : State} {p : Nat} {s : State}  (kh : Kept μ s0 s) :
    Kept μ s0 (mtrSwitch p s) := by
  have k_mkBill : 201326592 &&& μ = 201326592 := sub_of hw rfl
  have k_modMtr : 201326592 &&& μ = 201326592 := sub_of hw rfl
  have k_saveBill : 1152921504606846976 &&& μ = 1152921504606846976 := sub_of hw rfl
  have i26 : μ.testBit 26 = true := bit_of hw rfl
  have i27 : μ.testBit 27 = true := bit_of hw rfl
  have i60 : μ.testBit 60 = true := bit_of hw rfl
  unfold mtrSwitch
  repeat' first
    | with_reducible assumption
    | (intro s; with_reducible refine (fun (hs : Kept μ s0 s) => ?_) ?_)
    | intro x
    | lift_lets
    | with_reducible refine kept_modMtr k_modMtr ?_
    | with_reducible refine kept_mkBill k_mkBill ?_
    | with_reducible refine kept_saveBill k_saveBill ?_
    | with_reducible refine KeptS.eq (by with_reducible assumption) ?_
    | (fail_if_no_progress with_reducible refine Kept.mk' ?_  (h_mtr := .inr ⟨i26, .inr i27, sm⟩) (h_nv := .inr ⟨i60, sm, sm, sm, sm, sm, sm, sm⟩))
    | split
    | with_reducible refine KeptS.mk' ?_
    | with_reducible refine KeptS.snd ?_
    | dsimp +zetaDelta only

theorem kept_closeNext {μ : Nat} (hw : 2342322600876322364325888 &&& μ = 2342322600876322364325888) {s0 : State} {p : Nat} {s : State}  (kh : Kept μ s0 s) :
    Kept μ s0 (closeNext p s) := by
  have k_intervalBill : 1152921504808173568 &&& μ = 1152921504808173568 := sub_of hw rfl
  have k_modMtr : 201326592 &&& μ = 201326592 := sub_of hw rfl
  have k_mtrSwitch : 1152921504808173568 &&& μ = 1152921504808173568 := sub_of hw rfl
  have k_registerCycle : 2191197647800657049026560 &&& μ = 2191197647800657049026560 := sub_of hw rfl
  have k_supplyRestore : 1133378334517619211632640 &&& μ = 1133378334517619211632640 := sub_of hw rfl
  have i26 : μ.testBit 26 = true := bit_of hw rfl
  have i27 : μ.testBit 27 = true := bit_of hw rfl
  have i28 : μ.testBit 28 = true := bit_of hw rfl
  have i42 : μ.testBit 42 = true := bit_of hw rfl
  have i43 : μ.testBit 43 = true := bit_of hw rfl
  have i46 : μ.testBit 46 = true := bit_of hw rfl
  have i51 : μ.testBit 51 = true := bit_of hw rfl
  have i60 : μ.testBit 60 = true := bit_of hw rfl
  have i63 : μ.testBit 63 = true := bit_of hw rfl
  have i64 : μ.testBit 64 = true := bit_of hw rfl
  have i76 : μ.testBit 76 = true := bit_of hw rfl
  have i77 : μ.testBit 77 = true := bit_of hw rfl
  have i78 : μ.testBit 78 = true := bit_of hw rfl
  have i79 : μ.testBit 79 = true := bit_of hw rfl
  have i80 : μ.testBit 80 = true := bit_of hw rfl
  unfold closeNext
  repeat' first
    | with_reducible assumption
    | (intro s; with_reducible refine (fun (hs : Kept μ s0 s) => ?_) ?_)
    | intro x
    | lift_lets
    | with_reducible refine kept_modMtr k_modMtr ?_
    | with_reducible refine kept_intervalBill k_intervalBill ?_
    | with_reducible refine kept_registerCycle k_registerCycle ?_
    | with_reducible refine kept_supplyRestore k_supplyRestore ?_
    | with_reducible refine kept_mtrSwitch k_mtrSwitch ?_
    | (fail_if_no_progress with_reducible refine Kept.mk' ?_  (h_mtr := .inr ⟨i26, .inr i27, .inr i28⟩) (h_hp := .inr ⟨i42, .inr i43, sm, sm, .inr i46, sm, sm, sm, sm, .inr i51, sm, sm⟩) (h_nv := .inr ⟨i60, sm, sm, .inr i63, .inr i64, sm, sm, sm⟩) (h_cnt := .inr i76) (h_limits := .inr i77) (h_evLog := .inr i78) (h_evLogSeq := .inr i79) (h_free := .inr i80))
    | split
    | dsimp +zetaDelta only

theorem kept_execCycleClose {μ : Nat} (hw : 2342322600876322364325888 &&& μ = 2342322600876322364325888) {s0 : State} {p : Nat} {s : State}  (kh : Kept μ s0 s) :
    KeptOut μ s0 (execCycleClose p s) := by
  have k_act : 0 &&& μ = 0 := sub_of hw rfl
  have k_closeNext : 2342322600876322364325888 &&& μ = 2342322600876322364325888 := sub_of hw rfl
  unfold execCycleClose
  repeat' first
    | with_reducible assumption
    | (intro s; with_reducible refine (fun (hs : Kept μ s0 s) => ?_) ?_)
    | intro x
    | lift_lets
    | with_reducible refine kept_act k_act (fun s hs => ?_) ?_
    | with_reducible refine kept_closeNext k_closeNext ?_
    | split
    | with_reducible refine KeptOut.mk' ?_
    | dsimp +zetaDelta only

theorem kept_closePartial {μ : Nat} (hw : 2342322600876322364325888 &&& μ = 2342322600876322364325888) {s0 : State} {p : Nat} {s : State}  (kh : Kept μ s0 s) :
    Kept μ s0 (closePartial p s) := by
  have k_closeNext : 2342322600876322364325888 &&& μ = 2342322600876322364325888 := sub_of hw rfl
  have k_modMtr : 201326592 &&& μ = 201326592 := sub_of hw rfl
  have k_mtrCommit : 19599665578316398592 &&& μ = 19599665578316398592 := sub_of hw rfl
  have k_registerCycle : 2191197647800657049026560 &&& μ = 2191197647800657049026560 := sub_of hw rfl
  have i26 : μ.testBit 26 = true := bit_of hw rfl
  have i27 : μ.testBit 27 = true := bit_of hw rfl
  have i28 : μ.testBit 28 = true := bit_of hw rfl
  have i42 : μ.testBit 42 = true := bit_of hw rfl
  have i43 : μ.testBit 43 = true := bit_of hw rfl
  have i46 : μ.testBit 46 = true := bit_of hw rfl
  have i51 : μ.testBit 51 = true := bit_of hw rfl
  have i60 : μ.testBit 60 = true := bit_of hw rfl
  have i63 : μ.testBit 63 = true := bit_of hw rfl
  have i64 : μ.testBit 64 = true := bit_of hw rfl
  have i76 : μ.testBit 76 = true := bit_of hw rfl
  have i77 : μ.testBit 77 = true := bit_of hw rfl
  have i78 : μ.testBit 78 = true := bit_of hw rfl
  have i79 : μ.testBit 79 = true := bit_of hw rfl
  have i80 : μ.testBit 80 = true := bit_of hw rfl
  unfold closePartial
  repeat' first
    | with_reducible assumption
    | (intro s; with_reducible refine (fun (hs : Kept μ s0 s) => ?_) ?_)
    | intro x
    | lift_lets
    | with_reducible refine kept_modMtr k_modMtr ?_
    | with_reducible refine kept_mtrCommit k_mtrCommit ?_
    | with_reducible refine kept_registerCycle k_registerCycle ?_
    | with_reducible refine kept_closeNext k_closeNext ?_
    | with_reducible refine kept_foldl (fun s x hs => ?_) ?_
    | (fail_if_no_progress with_reducible refine Kept.mk' ?_  (h_mtr := .inr ⟨i26, .inr i27, .inr i28⟩) (h_hp := .inr ⟨i42, .inr i43, sm, sm, .inr i46, sm, sm, sm, sm, .inr i51, sm, sm⟩) (h_nv := .inr ⟨i60, sm, sm, .inr i63, .inr i64, sm, sm, sm⟩) (h_cnt := .inr i76) (h_limits := .inr i77) (h_evLog := .inr i78) (h_evLogSeq := .inr i79) (h_free := .inr i80))
    | split
    | dsimp +zetaDelta only

theorem kept_pqEnd {μ : Nat} (hw : 982253381441953896333312 &&& μ = 982253381441953896333312) {s0 : State} {p kind tEnd : Nat} {forced : Bool} {thr : Nat} {e : PqEv} {s : State}  (kh : Kept μ s0 s) :
    Kept μ s0 (pqEnd p kind tEnd forced thr e s) := by
  have k_mkBill : 201326592 &&& μ = 201326592 := sub_of hw rfl
  have k_modMtr : 201326592 &&& μ = 201326592 := sub_of hw rfl
  have k_mtrCount : 982252228520449088159744 &&& μ = 982252228520449088159744 := sub_of hw rfl
  have k_mtrFlag : 13194139533312 &&& μ = 13194139533312 := sub_of hw rfl
  have k_saveBill : 1152921504606846976 &&& μ = 1152921504606846976 := sub_of hw rfl
  have i26 : μ.testBit 26 = true := bit_of hw rfl
  have i27 : μ.testBit 27 = true := bit_of hw rfl
  have i42 : μ.testBit 42 = true := bit_of hw rfl
  have i43 : μ.testBit 43 = true := bit_of hw rfl
  have i46 : μ.testBit 46 = true := bit_of hw rfl
  have i60 : μ.testBit 60 = true := bit_of hw rfl
  have i76 : μ.testBit 76 = true := bit_of hw rfl
  have i78 : μ.testBit 78 = true := bit_of hw rfl
  have i79 : μ.testBit 79 = true := bit_of hw rfl
  unfold pqEnd
  repeat' first
    | with_reducible assumption
    | (intro s; with_reducible refine (fun (hs : Kept μ s0 s) => ?_) ?_)
    | intro x
    | lift_lets
    | with_reducible refine kept_modMtr k_modMtr ?_
    | with_reducible refine kept_mtrFlag k_mtrFlag ?_
    | with_reducible refine kept_mtrCount k_mtrCount ?_
    | with_reducible refine kept_mkBill k_mkBill ?_
    | with_reducible refine kept_saveBill k_saveBill ?_
    | with_reducible refine KeptS.eq (by with_reducible assumption) ?_
    | (fail_if_no_progress with_reducible refine Kept.mk' ?_  (h_mtr := .inr ⟨i26, .inr i27, sm⟩) (h_hp := .inr ⟨i42, .inr i43, sm, sm, .inr i46, sm, sm, sm, sm, sm, sm, sm⟩) (h_nv := .inr ⟨i60, sm, sm, sm, sm, sm, sm, sm⟩) (h_cnt := .inr i76) (h_evLog := .inr i78) (h_evLogSeq := .inr i79))
    | split
    | with_reducible refine KeptS.mk' ?_
    | with_reducible refine KeptS.snd ?_
    | dsimp +zetaDelta only

theorem kept_pqRules {μ : Nat} (hw : 982253381441953896333312 &&& μ = 982253381441953896333312) {s0 : State} {p ch ts : Nat} {fb : Bool} {v : Option Word} {s : State}  (kh : Kept μ s0 s) :
    Kept μ s0 (pqRules p ch ts fb v s) := by
  have k_modMtr : 201326592 &&& μ = 201326592 := sub_of hw rfl
  have k_pqEnd : 982253381441953896333312 &&& μ = 982253381441953896333312 := sub_of hw rfl
  have i26 : μ.testBit 26 = true := bit_of hw rfl
  have i27 : μ.testBit 27 = true := bit_of hw rfl
  have i42 : μ.testBit 42 = true := bit_of hw rfl
  have i43 : μ.testBit 43 = true := bit_of hw rfl
  have i46 : μ.testBit 46 = true := bit_of hw rfl
  have i60 : μ.testBit 60 = true := bit_of hw rfl
  have i76 : μ.testBit 76 = true := bit_of hw rfl
  have i78 : μ.testBit 78 = true := bit_of hw rfl
  have i79 : μ.testBit 79 = true := bit_of hw rfl
  unfold pqRules
  repeat' first
    | with_reducible assumption
    | (intro s; with_reducible refine (fun (hs : Kept μ s0 s) => ?_) ?_)
    | intro x
    | lift_lets
    | with_reducible refine kept_modMtr k_modMtr ?_
    | with_reducible refine kept_pqEnd k_pqEnd ?_
    | (fail_if_no_progress with_reducible refine Kept.mk' ?_  (h_mtr := .inr ⟨i26, .inr i27, sm⟩) (h_hp := .inr ⟨i42, .inr i43, sm, sm, .inr i46, sm, sm, sm, sm, sm, sm, sm⟩) (h_nv := .inr ⟨i60, sm, sm, sm, sm, sm, sm, sm⟩) (h_cnt := .inr i76) (h_evLog := .inr i78) (h_evLogSeq := .inr i79))
    | split
    | dsimp +zetaDelta only

theorem kept_pqForce {μ : Nat} (hw : 982253381441953896333312 &&& μ = 982253381441953896333312) {s0 : State} {p : Nat} {s : State}  (kh : Kept μ s0 s) :
    Kept μ s0 (pqForce p s) := by
  have k_modMtr : 201326592 &&& μ = 201326592 := sub_of hw rfl
  have k_pqEnd : 982253381441953896333312 &&& μ = 982253381441953896333312 := sub_of hw rfl
  have i26 : μ.testBit 26 = true := bit_of hw rfl
  have i27 : μ.testBit 27 = true := bit_of hw rfl
  have i42 : μ.testBit 42 = true := bit_of hw rfl
  have i43 : μ.testBit 43 = true := bit_of hw rfl
  have i46 : μ.testBit 46 = true := bit_of hw rfl
  have i60 : μ.testBit 60 = true := bit_of hw rfl
  have i76 : μ.testBit 76 = true := bit_of hw rfl
  have i78 : μ.testBit 78 = true := bit_of hw rfl
  have i79 : μ.testBit 79 = true := bit_of hw rfl
  unfold pqForce
  repeat' first
    | with_reducible assumption
    | (intro s; with_reducible refine (fun (hs : Kept μ s0 s) => ?_) ?_)
    | intro x
    | lift_lets
    | with_reducible refine kept_modMtr k_modMtr ?_
    | with_reducible refine kept_pqEnd k_pqEnd ?_
    | (fail_if_no_progress with_reducible refine Kept.mk' ?_  (h_mtr := .inr ⟨i26, .inr i27, sm⟩) (h_hp := .inr ⟨i42, .inr i43, sm, sm, .inr i46, sm, sm, sm, sm, sm, sm, sm⟩) (h_nv := .inr ⟨i60, sm, sm, sm, sm, sm, sm, sm⟩) (h_cnt := .inr i76) (h_evLog := .inr i78) (h_evLogSeq := .inr i79))
    | split
    | dsimp +zetaDelta only

theorem kept_pqSamp {μ : Nat} (hw : 982253381441953896333312 &&& μ = 982253381441953896333312) {s0 : State} {p a : Nat} {s : State} {e : Nat × Nat}  (kh : Kept μ s0 s) :
    Kept μ s0 (pqSamp p a s e) := by
  have k_modMtr : 201326592 &&& μ = 201326592 := sub_of hw rfl
  have k_mtrCount : 982252228520449088159744 &&& μ = 982252228520449088159744 := sub_of hw rfl
  have k_pqRules : 982253381441953896333312 &&& μ = 982253381441953896333312 := sub_of hw rfl
  have i26 : μ.testBit 26 = true := bit_of hw rfl
  have i27 : μ.testBit 27 = true := bit_of hw rfl
  have i42 : μ.testBit 42 = true := bit_of hw rfl
  have i43 : μ.testBit 43 = true := bit_of hw rfl
  have i46 : μ.testBit 46 = true := bit_of hw rfl
  have i60 : μ.testBit 60 = true := bit_of hw rfl
  have i76 : μ.testBit 76 = true := bit_of hw rfl
  have i78 : μ.testBit 78 = true := bit_of hw rfl
  have i79 : μ.testBit 79 = true := bit_of hw rfl
  unfold pqSamp
  repeat' first
    | with_reducible assumption
    | (intro s; with_reducible refine (fun (hs : Kept μ s0 s) => ?_) ?_)
    | intro x
    | lift_lets
    | with_reducible refine kept_modMtr k_modMtr ?_
    | with_reducible refine kept_mtrCount k_mtrCount ?_
    | with_reducible refine kept_pqRules k_pqRules ?_
    | (fail_if_no_progress with_reducible refine Kept.mk' ?_  (h_mtr := .inr ⟨i26, .inr i27, sm⟩) (h_hp := .inr ⟨i42, .inr i43, sm, sm, .inr i46, sm, sm, sm, sm, sm, sm, sm⟩) (h_nv := .inr ⟨i60, sm, sm, sm, sm, sm, sm, sm⟩) (h_cnt := .inr i76) (h_evLog := .inr i78) (h_evLogSeq := .inr i79))
    | split
    | dsimp +zetaDelta only

theorem kept_pqRun {μ : Nat} (hw : 982253381441953896333312 &&& μ = 982253381441953896333312) {s0 : State} {p : Nat} {s : State}  (kh : Kept μ s0 s) :
    Kept μ s0 (pqRun p s) := by
  have k_modMtr : 201326592 &&& μ = 201326592 := sub_of hw rfl
  have k_pqSamp : 982253381441953896333312 &&& μ = 982253381441953896333312 := sub_of hw rfl
  have i26 : μ.testBit 26 = true := bit_of hw rfl
  have i27 : μ.testBit 27 = true := bit_of hw rfl
  have i42 : μ.testBit 42 = true := bit_of hw rfl
  have i43 : μ.testBit 43 = true := bit_of hw rfl
  have i46 : μ.testBit 46 = true := bit_of hw rfl
  have i60 : μ.testBit 60 = true := bit_of hw rfl
  have i76 : μ.testBit 76 = true := bit_of hw rfl
  have i78 : μ.testBit 78 = true := bit_of hw rfl
  have i79 : μ.testBit 79 = true := bit_of hw rfl
  unfold pqRun
  repeat' first
    | with_reducible assumption
    | (intro s; with_reducible refine (fun (hs : Kept μ s0 s) => ?_) ?_)
    | intro x
    | lift_lets
    | with_reducible refine kept_modMtr k_modMtr ?_
    | with_reducible refine kept_pqSamp k_pqSamp ?_
    | with_reducible refine kept_foldl (fun s x hs => ?_) ?_
    | (fail_if_no_progress with_reducible refine Kept.mk' ?_  (h_mtr := .inr ⟨i26, .inr i27, sm⟩) (h_hp := .inr ⟨i42, .inr i43, sm, sm, .inr i46, sm, sm, sm, sm, sm, sm, sm⟩) (h_nv := .inr ⟨i60, sm, sm, sm, sm, sm, sm, sm⟩) (h_cnt := .inr i76) (h_evLog := .inr i78) (h_evLogSeq := .inr i79))
    | split
    | dsimp +zetaDelta only

theorem kept_pqAll {μ : Nat} (hw : 982253381441953896333312 &&& μ = 982253381441953896333312) {s0 : State} {s : State}  (kh : Kept μ s0 s) :
    Kept μ s0 (pqAll s) := by
  have k_pqRun : 982253381441953896333312 &&& μ = 982253381441953896333312 := sub_of hw rfl
  unfold pqAll
  repeat' first
    | with_reducible assumption
    | (intro s; with_reducible refine (fun (hs : Kept μ s0 s) => ?_) ?_)
    | intro x
    | lift_lets
    | with_reducible refine kept_pqRun k_pqRun ?_
    | with_reducible refine kept_foldl (fun s x hs => ?_) ?_
    | split
    | dsimp +zetaDelta only

theorem kept_mtrRestart {μ : Nat} (hw : 2342322600876322364325888 &&& μ = 2342322600876322364325888) {s0 : State} {s : State}  (kh : Kept μ s0 s) :
    Kept μ s0 (mtrRestart s) := by
  have k_closePartial : 2342322600876322364325888 &&& μ = 2342322600876322364325888 := sub_of hw rfl
  have k_modMtr : 201326592 &&& μ = 201326592 := sub_of hw rfl
  have k_mtrSwitch : 1152921504808173568 &&& μ = 1152921504808173568 := sub_of hw rfl
  have k_pqForce : 982253381441953896333312 &&& μ = 982253381441953896333312 := sub_of hw rfl
  have i26 : μ.testBit 26 = true := bit_of hw rfl
  have i27 : μ.testBit 27 = true := bit_of hw rfl
  have i28 : μ.testBit 28 = true := bit_of hw rfl
  have i42 : μ.testBit 42 = true := bit_of hw rfl
  have i43 : μ.testBit 43 = true := bit_of hw rfl
  have i46 : μ.testBit 46 = true := bit_of hw rfl
  have i51 : μ.testBit 51 = true := bit_of hw rfl
  have i60 : μ.testBit 60 = true := bit_of hw rfl
  have i63 : μ.testBit 63 = true := bit_of hw rfl
  have i64 : μ.testBit 64 = true := bit_of hw rfl
  have i76 : μ.testBit 76 = true := bit_of hw rfl
  have i77 : μ.testBit 77 = true := bit_of hw rfl
  have i78 : μ.testBit 78 = true := bit_of hw rfl
  have i79 : μ.testBit 79 = true := bit_of hw rfl
  have i80 : μ.testBit 80 = true := bit_of hw rfl
  unfold mtrRestart
  repeat' first
    | with_reducible assumption
    | (intro s; with_reducible refine (fun (hs : Kept μ s0 s) => ?_) ?_)
    | intro x
    | lift_lets
    | with_reducible refine kept_modMtr k_modMtr ?_
    | with_reducible refine kept_mtrSwitch k_mtrSwitch ?_
    | with_reducible refine kept_closePartial k_closePartial ?_
    | with_reducible refine kept_pqForce k_pqForce ?_
    | with_reducible refine kept_foldl (fun s x hs => ?_) ?_
    | (fail_if_no_progress with_reducible refine Kept.mk' ?_  (h_mtr := .inr ⟨i26, .inr i27, .inr i28⟩) (h_hp := .inr ⟨i42, .inr i43, sm, sm, .inr i46, sm, sm, sm, sm, .inr i51, sm, sm⟩) (h_nv := .inr ⟨i60, sm, sm, .inr i63, .inr i64, sm, sm, sm⟩) (h_cnt := .inr i76) (h_limits := .inr i77) (h_evLog := .inr i78) (h_evLogSeq := .inr i79) (h_free := .inr i80))
    | split
    | dsimp +zetaDelta only

theorem kept_mtrSupplyLoss {μ : Nat} (hw : 2342322600876322364325888 &&& μ = 2342322600876322364325888) {s0 : State} {ns : Nat} {s : State}  (kh : Kept μ s0 s) :
    Kept μ s0 (mtrSupplyLoss ns s) := by
  have k_closePartial : 2342322600876322364325888 &&& μ = 2342322600876322364325888 := sub_of hw rfl
  have k_mkBill : 201326592 &&& μ = 201326592 := sub_of hw rfl
  have k_pqForce : 982253381441953896333312 &&& μ = 982253381441953896333312 := sub_of hw rfl
  have i26 : μ.testBit 26 = true := bit_of hw rfl
  have i27 : μ.testBit 27 = true := bit_of hw rfl
  have i28 : μ.testBit 28 = true := bit_of hw rfl
  have i42 : μ.testBit 42 = true := bit_of hw rfl
  have i43 : μ.testBit 43 = true := bit_of hw rfl
  have i46 : μ.testBit 46 = true := bit_of hw rfl
  have i51 : μ.testBit 51 = true := bit_of hw rfl
  have i60 : μ.testBit 60 = true := bit_of hw rfl
  have i63 : μ.testBit 63 = true := bit_of hw rfl
  have i64 : μ.testBit 64 = true := bit_of hw rfl
  have i76 : μ.testBit 76 = true := bit_of hw rfl
  have i77 : μ.testBit 77 = true := bit_of hw rfl
  have i78 : μ.testBit 78 = true := bit_of hw rfl
  have i79 : μ.testBit 79 = true := bit_of hw rfl
  have i80 : μ.testBit 80 = true := bit_of hw rfl
  unfold mtrSupplyLoss
  repeat' first
    | with_reducible assumption
    | (intro s; with_reducible refine (fun (hs : Kept μ s0 s) => ?_) ?_)
    | intro x
    | lift_lets
    | with_reducible refine kept_mkBill k_mkBill ?_
    | with_reducible refine kept_closePartial k_closePartial ?_
    | with_reducible refine kept_pqForce k_pqForce ?_
    | with_reducible refine kept_foldl (fun s x hs => ?_) ?_
    | with_reducible refine KeptS.eq (by with_reducible assumption) ?_
    | (fail_if_no_progress with_reducible refine Kept.mk' ?_  (h_mtr := .inr ⟨i26, .inr i27, .inr i28⟩) (h_hp := .inr ⟨i42, .inr i43, sm, sm, .inr i46, sm, sm, sm, sm, .inr i51, sm, sm⟩) (h_nv := .inr ⟨i60, sm, sm, .inr i63, .inr i64, sm, sm, sm⟩) (h_cnt := .inr i76) (h_limits := .inr i77) (h_evLog := .inr i78) (h_evLogSeq := .inr i79) (h_free := .inr i80))
    | split
    | with_reducible refine KeptS.mk' ?_
    | with_reducible refine KeptS.snd ?_
    | dsimp +zetaDelta only

theorem kept_mtrActivate {μ : Nat} (hw : 1152921504808173568 &&& μ = 1152921504808173568) {s0 : State} {old : Image} {sec p : Nat} {s : State}  (kh : Kept μ s0 s) :
    Kept μ s0 (mtrActivate old sec p s) := by
  have k_modMtr : 201326592 &&& μ = 201326592 := sub_of hw rfl
  have k_mtrSwitch : 1152921504808173568 &&& μ = 1152921504808173568 := sub_of hw rfl
  have i26 : μ.testBit 26 = true := bit_of hw rfl
  have i27 : μ.testBit 27 = true := bit_of hw rfl
  have i60 : μ.testBit 60 = true := bit_of hw rfl
  unfold mtrActivate
  repeat' first
    | with_reducible assumption
    | (intro s; with_reducible refine (fun (hs : Kept μ s0 s) => ?_) ?_)
    | intro x
    | lift_lets
    | with_reducible refine kept_modMtr k_modMtr ?_
    | with_reducible refine kept_mtrSwitch k_mtrSwitch ?_
    | (fail_if_no_progress with_reducible refine Kept.mk' ?_  (h_mtr := .inr ⟨i26, .inr i27, sm⟩) (h_nv := .inr ⟨i60, sm, sm, sm, sm, sm, sm, sm⟩))
    | split
    | dsimp +zetaDelta only

theorem kept_execMtrSnap {μ : Nat} (hw : 906694364847311322873856 &&& μ = 906694364847311322873856) {s0 : State} {n : Nat} {s : State}  (kh : Kept μ s0 s) :
    KeptOut μ s0 (execMtrSnap n s) := by
  have k_act : 0 &&& μ = 0 := sub_of hw rfl
  have k_deniedInvalid : 906694364829719136829440 &&& μ = 906694364829719136829440 := sub_of hw rfl
  have k_modFn : 4398046511104 &&& μ = 4398046511104 := sub_of hw rfl
  have k_setFnReg : 13194139533312 &&& μ = 13194139533312 := sub_of hw rfl
  have i42 : μ.testBit 42 = true := bit_of hw rfl
  have i43 : μ.testBit 43 = true := bit_of hw rfl
  have i44 : μ.testBit 44 = true := bit_of hw rfl
  have i45 : μ.testBit 45 = true := bit_of hw rfl
  have i46 : μ.testBit 46 = true := bit_of hw rfl
  have i78 : μ.testBit 78 = true := bit_of hw rfl
  have i79 : μ.testBit 79 = true := bit_of hw rfl
  unfold execMtrSnap
  repeat' first
    | with_reducible assumption
    | (intro s; with_reducible refine (fun (hs : Kept μ s0 s) => ?_) ?_)
    | intro x
    | lift_lets
    | with_reducible refine kept_act k_act (fun s hs => ?_) ?_
    | with_reducible refine kept_modFn k_modFn (.inr i43) (.inr i44) (.inr i45) (.inr i46) smf smf smf smf smf smf smf ?_
    | with_reducible refine kept_setFnReg k_setFnReg ?_
    | with_reducible refine kept_deniedInvalid k_deniedInvalid ?_
    | (fail_if_no_progress with_reducible refine Kept.mk' ?_  (h_hp := .inr ⟨i42, .inr i43, .inr i44, .inr i45, .inr i46, sm, sm, sm, sm, sm, sm, sm⟩) (h_evLog := .inr i78) (h_evLogSeq := .inr i79))
    | split
    | with_reducible refine KeptOut.mk' ?_
    | dsimp +zetaDelta only

theorem kept_mtrRefuse {μ : Nat} (hw : 906694364785738671718400 &&& μ = 906694364785738671718400) {s0 : State} {n reason : Nat} {s : State}  (kh : Kept μ s0 s) :
    Kept μ s0 (mtrRefuse n reason s) := by
  have k_raise : 906694364785738671718400 &&& μ = 906694364785738671718400 := sub_of hw rfl
  unfold mtrRefuse
  repeat' first
    | with_reducible assumption
    | (intro s; with_reducible refine (fun (hs : Kept μ s0 s) => ?_) ?_)
    | intro x
    | lift_lets
    | with_reducible refine kept_raise k_raise ?_
    | split
    | dsimp +zetaDelta only

theorem kept_execMtrRelease {μ : Nat} (hw : 906704743375060412137472 &&& μ = 906704743375060412137472) {s0 : State} {n key : Nat} {s : State}  (kh : Kept μ s0 s) :
    KeptOut μ s0 (execMtrRelease n key s) := by
  have k_act : 0 &&& μ = 0 := sub_of hw rfl
  have k_deniedInvalid : 906694364829719136829440 &&& μ = 906694364829719136829440 := sub_of hw rfl
  have k_drainPend : 906704743331079947026432 &&& μ = 906704743331079947026432 := sub_of hw rfl
  have k_mtrRefuse : 906694364785738671718400 &&& μ = 906694364785738671718400 := sub_of hw rfl
  have i42 : μ.testBit 42 = true := bit_of hw rfl
  have i43 : μ.testBit 43 = true := bit_of hw rfl
  have i45 : μ.testBit 45 = true := bit_of hw rfl
  have i46 : μ.testBit 46 = true := bit_of hw rfl
  have i51 : μ.testBit 51 = true := bit_of hw rfl
  have i60 : μ.testBit 60 = true := bit_of hw rfl
  have i63 : μ.testBit 63 = true := bit_of hw rfl
  have i78 : μ.testBit 78 = true := bit_of hw rfl
  have i79 : μ.testBit 79 = true := bit_of hw rfl
  unfold execMtrRelease
  repeat' first
    | with_reducible assumption
    | (intro s; with_reducible refine (fun (hs : Kept μ s0 s) => ?_) ?_)
    | intro x
    | lift_lets
    | with_reducible refine kept_act k_act (fun s hs => ?_) ?_
    | with_reducible refine kept_deniedInvalid k_deniedInvalid ?_
    | with_reducible refine kept_drainPend k_drainPend ?_
    | with_reducible refine kept_mtrRefuse k_mtrRefuse ?_
    | (fail_if_no_progress with_reducible refine Kept.mk' ?_  (h_hp := .inr ⟨i42, .inr i43, sm, .inr i45, .inr i46, sm, sm, sm, sm, .inr i51, sm, sm⟩) (h_nv := .inr ⟨i60, sm, sm, .inr i63, sm, sm, sm, sm⟩) (h_evLog := .inr i78) (h_evLogSeq := .inr i79))
    | split
    | with_reducible refine KeptOut.mk' ?_
    | dsimp +zetaDelta only

end Sys2Proof.Machine
end

