-- ==== Sys2Proof/Laws/KeptCfgOps.lean ====
section
/-!
SUPPORT. Sys2Proof/Laws/KeptCfgOps.lean: every operation of CfgOps.lean keeps what no command changes, and the parts that it does not write (Kept.lean).
-/
set_option Elab.async false
set_option linter.unusedTactic false
set_option linter.unreachableTactic false
set_option linter.unusedVariables false
namespace Sys2Proof.Machine

theorem kept_cfgFlag {μ : Nat} (hw : 13194139533312 &&& μ = 13194139533312) {s0 : State} {b : Nat} {s : State}  (kh : Kept μ s0 s) :
    Kept μ s0 (cfgFlag b s) := by
  have k_setFlag : 13194139533312 &&& μ = 13194139533312 := sub_of hw rfl
  unfold cfgFlag
  repeat' first
    | with_reducible assumption
    | (intro s; with_reducible refine (fun (hs : Kept μ s0 s) => ?_) ?_)
    | intro x
    | lift_lets
    | with_reducible refine kept_setFlag k_setFlag ?_
    | split
    | dsimp +zetaDelta only

theorem kept_cfgRefuse {μ : Nat} (hw : 906694364785738671718400 &&& μ = 906694364785738671718400) {s0 : State} {op reason : Nat} {s : State}  (kh : Kept μ s0 s) :
    Kept μ s0 (cfgRefuse op reason s) := by
  have k_raise : 906694364785738671718400 &&& μ = 906694364785738671718400 := sub_of hw rfl
  unfold cfgRefuse
  repeat' first
    | with_reducible assumption
    | (intro s; with_reducible refine (fun (hs : Kept μ s0 s) => ?_) ?_)
    | intro x
    | lift_lets
    | with_reducible refine kept_raise k_raise ?_
    | split
    | dsimp +zetaDelta only

theorem kept_cfgCtrl {μ : Nat} (hw : 906694364829719136829440 &&& μ = 906694364829719136829440) {s0 : State} {n key op : Nat} {f : State → State} {s : State} (h_f : ∀ s, Kept μ s0 s → Kept μ s0 (f s)) (kh : Kept μ s0 s) :
    Kept μ s0 (cfgCtrl n key op f s) := by
  have k_cfgRefuse : 906694364785738671718400 &&& μ = 906694364785738671718400 := sub_of hw rfl
  have k_deniedInvalid : 906694364829719136829440 &&& μ = 906694364829719136829440 := sub_of hw rfl
  unfold cfgCtrl
  repeat' first
    | with_reducible assumption
    | (intro s; with_reducible refine (fun (hs : Kept μ s0 s) => ?_) ?_)
    | intro x
    | lift_lets
    | with_reducible refine kept_deniedInvalid k_deniedInvalid ?_
    | with_reducible refine kept_cfgRefuse k_cfgRefuse ?_
    | with_reducible refine h_f _ ?_
    | split
    | dsimp +zetaDelta only

theorem kept_loadDone {μ : Nat} (hw : 982252228520517807636480 &&& μ = 982252228520517807636480) {s0 : State} {src : Nat} {r : LoadRes} {s : State}  (kh : Kept μ s0 s) :
    Kept μ s0 (loadDone src r s) := by
  have k_cfgFlag : 13194139533312 &&& μ = 13194139533312 := sub_of hw rfl
  have k_count : 982252228520449088159744 &&& μ = 982252228520449088159744 := sub_of hw rfl
  have k_raise : 906694364785738671718400 &&& μ = 906694364785738671718400 := sub_of hw rfl
  have i36 : μ.testBit 36 = true := bit_of hw rfl
  have i42 : μ.testBit 42 = true := bit_of hw rfl
  have i43 : μ.testBit 43 = true := bit_of hw rfl
  have i46 : μ.testBit 46 = true := bit_of hw rfl
  have i76 : μ.testBit 76 = true := bit_of hw rfl
  have i78 : μ.testBit 78 = true := bit_of hw rfl
  have i79 : μ.testBit 79 = true := bit_of hw rfl
  unfold loadDone
  repeat' first
    | with_reducible assumption
    | (intro s; with_reducible refine (fun (hs : Kept μ s0 s) => ?_) ?_)
    | intro x
    | lift_lets
    | with_reducible refine kept_raise k_raise ?_
    | with_reducible refine kept_count k_count ?_
    | with_reducible refine kept_cfgFlag k_cfgFlag ?_
    | (fail_if_no_progress with_reducible refine Kept.mk' ?_  (h_cfg := .inr ⟨i36, sm, sm, sm, sm, sm⟩) (h_hp := .inr ⟨i42, .inr i43, sm, sm, .inr i46, sm, sm, sm, sm, sm, sm, sm⟩) (h_cnt := .inr i76) (h_evLog := .inr i78) (h_evLogSeq := .inr i79))
    | split
    | dsimp +zetaDelta only

theorem kept_modSlotN {μ : Nat} (hw : 618475290624 &&& μ = 618475290624) {s0 : State} {k : Nat} {f : Slot → Slot} {s : State}  (kh : Kept μ s0 s) :
    Kept μ s0 (modSlotN k f s) := by
  have i36 : μ.testBit 36 = true := bit_of hw rfl
  have i39 : μ.testBit 39 = true := bit_of hw rfl
  unfold modSlotN
  repeat' first
    | with_reducible assumption
    | (intro s; with_reducible refine (fun (hs : Kept μ s0 s) => ?_) ?_)
    | intro x
    | lift_lets
    | (fail_if_no_progress with_reducible refine Kept.mk' ?_  (h_cfg := .inr ⟨i36, sm, sm, .inr i39, sm, sm⟩))
    | split
    | dsimp +zetaDelta only

theorem kept_slotBad {μ : Nat} (hw : 13812614823936 &&& μ = 13812614823936) {s0 : State} {src reason : Nat} {s : State}  (kh : Kept μ s0 s) :
    Kept μ s0 (slotBad src reason s) := by
  have k_cfgFlag : 13194139533312 &&& μ = 13194139533312 := sub_of hw rfl
  have k_modSlotN : 618475290624 &&& μ = 618475290624 := sub_of hw rfl
  have i36 : μ.testBit 36 = true := bit_of hw rfl
  have i39 : μ.testBit 39 = true := bit_of hw rfl
  have i42 : μ.testBit 42 = true := bit_of hw rfl
  have i43 : μ.testBit 43 = true := bit_of hw rfl
  unfold slotBad
  repeat' first
    | with_reducible assumption
    | (intro s; with_reducible refine (fun (hs : Kept μ s0 s) => ?_) ?_)
    | intro x
    | lift_lets
    | with_reducible refine kept_cfgFlag k_cfgFlag ?_
    | with_reducible refine kept_modSlotN k_modSlotN ?_
    | (fail_if_no_progress with_reducible refine Kept.mk' ?_  (h_cfg := .inr ⟨i36, sm, sm, .inr i39, sm, sm⟩) (h_hp := .inr ⟨i42, .inr i43, sm, sm, sm, sm, sm, sm, sm, sm, sm, sm⟩))
    | split
    | dsimp +zetaDelta only

theorem kept_stage {μ : Nat} (hw : 982252228555977057632256 &&& μ = 982252228555977057632256) {s0 : State} {n key src : Nat} {s : State}  (kh : Kept μ s0 s) :
    Kept μ s0 (stage n key src s) := by
  have k_cfgCtrl : 906694364829719136829440 &&& μ = 906694364829719136829440 := sub_of hw rfl
  have k_cfgRefuse : 906694364785738671718400 &&& μ = 906694364785738671718400 := sub_of hw rfl
  have k_count : 982252228520449088159744 &&& μ = 982252228520449088159744 := sub_of hw rfl
  have i36 : μ.testBit 36 = true := bit_of hw rfl
  have i38 : μ.testBit 38 = true := bit_of hw rfl
  have i42 : μ.testBit 42 = true := bit_of hw rfl
  have i43 : μ.testBit 43 = true := bit_of hw rfl
  have i45 : μ.testBit 45 = true := bit_of hw rfl
  have i46 : μ.testBit 46 = true := bit_of hw rfl
  have i76 : μ.testBit 76 = true := bit_of hw rfl
  have i78 : μ.testBit 78 = true := bit_of hw rfl
  have i79 : μ.testBit 79 = true := bit_of hw rfl
  unfold stage
  repeat' first
    | with_reducible assumption
    | (intro s; with_reducible refine (fun (hs : Kept μ s0 s) => ?_) ?_)
    | intro x
    | lift_lets
    | with_reducible refine kept_count k_count ?_
    | with_reducible refine kept_cfgRefuse k_cfgRefuse ?_
    | with_reducible refine kept_cfgCtrl k_cfgCtrl (fun s hs => ?_) ?_
    | (fail_if_no_progress with_reducible refine Kept.mk' ?_  (h_cfg := .inr ⟨i36, sm, .inr i38, sm, sm, sm⟩) (h_hp := .inr ⟨i42, .inr i43, sm, .inr i45, .inr i46, sm, sm, sm, sm, sm, sm, sm⟩) (h_cnt := .inr i76) (h_evLog := .inr i78) (h_evLogSeq := .inr i79))
    | split
    | dsimp +zetaDelta only

theorem kept_execStageSlotA {μ : Nat} (hw : 982252228555977057632256 &&& μ = 982252228555977057632256) {s0 : State} {n key : Nat} {s : State}  (kh : Kept μ s0 s) :
    KeptOut μ s0 (execStageSlotA n key s) := by
  have k_act : 0 &&& μ = 0 := sub_of hw rfl
  have k_stage : 982252228555977057632256 &&& μ = 982252228555977057632256 := sub_of hw rfl
  unfold execStageSlotA
  repeat' first
    | with_reducible assumption
    | (intro s; with_reducible refine (fun (hs : Kept μ s0 s) => ?_) ?_)
    | intro x
    | lift_lets
    | with_reducible refine kept_act k_act (fun s hs => ?_) ?_
    | with_reducible refine kept_stage k_stage ?_
    | split
    | with_reducible refine KeptOut.mk' ?_
    | dsimp +zetaDelta only

theorem kept_execStageSlotB {μ : Nat} (hw : 982252228555977057632256 &&& μ = 982252228555977057632256) {s0 : State} {n key : Nat} {s : State}  (kh : Kept μ s0 s) :
    KeptOut μ s0 (execStageSlotB n key s) := by
  have k_act : 0 &&& μ = 0 := sub_of hw rfl
  have k_stage : 982252228555977057632256 &&& μ = 982252228555977057632256 := sub_of hw rfl
  unfold execStageSlotB
  repeat' first
    | with_reducible assumption
    | (intro s; with_reducible refine (fun (hs : Kept μ s0 s) => ?_) ?_)
    | intro x
    | lift_lets
    | with_reducible refine kept_act k_act (fun s hs => ?_) ?_
    | with_reducible refine kept_stage k_stage ?_
    | split
    | with_reducible refine KeptOut.mk' ?_
    | dsimp +zetaDelta only

theorem kept_execStagePush {μ : Nat} (hw : 982252228555977057632256 &&& μ = 982252228555977057632256) {s0 : State} {n key : Nat} {s : State}  (kh : Kept μ s0 s) :
    KeptOut μ s0 (execStagePush n key s) := by
  have k_act : 0 &&& μ = 0 := sub_of hw rfl
  have k_stage : 982252228555977057632256 &&& μ = 982252228555977057632256 := sub_of hw rfl
  unfold execStagePush
  repeat' first
    | with_reducible assumption
    | (intro s; with_reducible refine (fun (hs : Kept μ s0 s) => ?_) ?_)
    | intro x
    | lift_lets
    | with_reducible refine kept_act k_act (fun s hs => ?_) ?_
    | with_reducible refine kept_stage k_stage ?_
    | split
    | with_reducible refine KeptOut.mk' ?_
    | dsimp +zetaDelta only

theorem kept_execStagingDone {μ : Nat} (hw : 982252228521342441357312 &&& μ = 982252228521342441357312) {s0 : State} {s : State}  (kh : Kept μ s0 s) :
    KeptOut μ s0 (execStagingDone s) := by
  have k_act : 0 &&& μ = 0 := sub_of hw rfl
  have k_loadDone : 982252228520517807636480 &&& μ = 982252228520517807636480 := sub_of hw rfl
  have k_slotBad : 13812614823936 &&& μ = 13812614823936 := sub_of hw rfl
  have i36 : μ.testBit 36 = true := bit_of hw rfl
  have i38 : μ.testBit 38 = true := bit_of hw rfl
  have i39 : μ.testBit 39 = true := bit_of hw rfl
  have i42 : μ.testBit 42 = true := bit_of hw rfl
  have i43 : μ.testBit 43 = true := bit_of hw rfl
  have i46 : μ.testBit 46 = true := bit_of hw rfl
  have i76 : μ.testBit 76 = true := bit_of hw rfl
  have i78 : μ.testBit 78 = true := bit_of hw rfl
  have i79 : μ.testBit 79 = true := bit_of hw rfl
  unfold execStagingDone
  repeat' first
    | with_reducible assumption
    | (intro s; with_reducible refine (fun (hs : Kept μ s0 s) => ?_) ?_)
    | intro x
    | lift_lets
    | with_reducible refine kept_act k_act (fun s hs => ?_) ?_
    | with_reducible refine kept_loadDone k_loadDone ?_
    | with_reducible refine kept_slotBad k_slotBad ?_
    | (fail_if_no_progress with_reducible refine Kept.mk' ?_  (h_cfg := .inr ⟨i36, sm, .inr i38, .inr i39, sm, sm⟩) (h_hp := .inr ⟨i42, .inr i43, sm, sm, .inr i46, sm, sm, sm, sm, sm, sm, sm⟩) (h_cnt := .inr i76) (h_evLog := .inr i78) (h_evLogSeq := .inr i79))
    | split
    | with_reducible refine KeptOut.mk' ?_
    | dsimp +zetaDelta only

theorem kept_execWriteSlot {μ : Nat} (hw : 906694364830337612120064 &&& μ = 906694364830337612120064) {s0 : State} {n key slot : Nat} {s : State}  (kh : Kept μ s0 s) :
    KeptOut μ s0 (execWriteSlot n key slot s) := by
  have k_act : 0 &&& μ = 0 := sub_of hw rfl
  have k_cfgCtrl : 906694364829719136829440 &&& μ = 906694364829719136829440 := sub_of hw rfl
  have k_cfgRefuse : 906694364785738671718400 &&& μ = 906694364785738671718400 := sub_of hw rfl
  have k_modSlotN : 618475290624 &&& μ = 618475290624 := sub_of hw rfl
  have i36 : μ.testBit 36 = true := bit_of hw rfl
  have i39 : μ.testBit 39 = true := bit_of hw rfl
  have i42 : μ.testBit 42 = true := bit_of hw rfl
  have i43 : μ.testBit 43 = true := bit_of hw rfl
  have i45 : μ.testBit 45 = true := bit_of hw rfl
  have i46 : μ.testBit 46 = true := bit_of hw rfl
  have i78 : μ.testBit 78 = true := bit_of hw rfl
  have i79 : μ.testBit 79 = true := bit_of hw rfl
  unfold execWriteSlot
  repeat' first
    | with_reducible assumption
    | (intro s; with_reducible refine (fun (hs : Kept μ s0 s) => ?_) ?_)
    | intro x
    | lift_lets
    | with_reducible refine kept_act k_act (fun s hs => ?_) ?_
    | with_reducible refine kept_cfgRefuse k_cfgRefuse ?_
    | with_reducible refine kept_cfgCtrl k_cfgCtrl (fun s hs => ?_) ?_
    | with_reducible refine kept_modSlotN k_modSlotN ?_
    | (fail_if_no_progress with_reducible refine Kept.mk' ?_  (h_cfg := .inr ⟨i36, sm, sm, .inr i39, sm, sm⟩) (h_hp := .inr ⟨i42, .inr i43, sm, .inr i45, .inr i46, sm, sm, sm, sm, sm, sm, sm⟩) (h_evLog := .inr i78) (h_evLogSeq := .inr i79))
    | split
    | with_reducible refine KeptOut.mk' ?_
    | dsimp +zetaDelta only

theorem kept_execSlotWriteDone {μ : Nat} (hw : 982252228521067563450368 &&& μ = 982252228521067563450368) {s0 : State} {s : State}  (kh : Kept μ s0 s) :
    KeptOut μ s0 (execSlotWriteDone s) := by
  have k_act : 0 &&& μ = 0 := sub_of hw rfl
  have k_cfgFlag : 13194139533312 &&& μ = 13194139533312 := sub_of hw rfl
  have k_count : 982252228520449088159744 &&& μ = 982252228520449088159744 := sub_of hw rfl
  have k_modSlotN : 618475290624 &&& μ = 618475290624 := sub_of hw rfl
  have k_raise : 906694364785738671718400 &&& μ = 906694364785738671718400 := sub_of hw rfl
  have i36 : μ.testBit 36 = true := bit_of hw rfl
  have i39 : μ.testBit 39 = true := bit_of hw rfl
  have i42 : μ.testBit 42 = true := bit_of hw rfl
  have i43 : μ.testBit 43 = true := bit_of hw rfl
  have i46 : μ.testBit 46 = true := bit_of hw rfl
  have i76 : μ.testBit 76 = true := bit_of hw rfl
  have i78 : μ.testBit 78 = true := bit_of hw rfl
  have i79 : μ.testBit 79 = true := bit_of hw rfl
  unfold execSlotWriteDone
  repeat' first
    | with_reducible assumption
    | (intro s; with_reducible refine (fun (hs : Kept μ s0 s) => ?_) ?_)
    | intro x
    | lift_lets
    | with_reducible refine kept_act k_act (fun s hs => ?_) ?_
    | with_reducible refine kept_raise k_raise ?_
    | with_reducible refine kept_count k_count ?_
    | with_reducible refine kept_cfgFlag k_cfgFlag ?_
    | with_reducible refine kept_modSlotN k_modSlotN ?_
    | (fail_if_no_progress with_reducible refine Kept.mk' ?_  (h_cfg := .inr ⟨i36, sm, sm, .inr i39, sm, sm⟩) (h_hp := .inr ⟨i42, .inr i43, sm, sm, .inr i46, sm, sm, sm, sm, sm, sm, sm⟩) (h_cnt := .inr i76) (h_evLog := .inr i78) (h_evLogSeq := .inr i79))
    | split
    | with_reducible refine KeptOut.mk' ?_
    | dsimp +zetaDelta only

theorem kept_execSetBootSlot {μ : Nat} (hw : 906694364830337612120064 &&& μ = 906694364830337612120064) {s0 : State} {n key slot : Nat} {s : State}  (kh : Kept μ s0 s) :
    KeptOut μ s0 (execSetBootSlot n key slot s) := by
  have k_act : 0 &&& μ = 0 := sub_of hw rfl
  have k_cfgCtrl : 906694364829719136829440 &&& μ = 906694364829719136829440 := sub_of hw rfl
  have k_cfgRefuse : 906694364785738671718400 &&& μ = 906694364785738671718400 := sub_of hw rfl
  have i36 : μ.testBit 36 = true := bit_of hw rfl
  have i39 : μ.testBit 39 = true := bit_of hw rfl
  have i42 : μ.testBit 42 = true := bit_of hw rfl
  have i43 : μ.testBit 43 = true := bit_of hw rfl
  have i45 : μ.testBit 45 = true := bit_of hw rfl
  have i46 : μ.testBit 46 = true := bit_of hw rfl
  have i78 : μ.testBit 78 = true := bit_of hw rfl
  have i79 : μ.testBit 79 = true := bit_of hw rfl
  unfold execSetBootSlot
  repeat' first
    | with_reducible assumption
    | (intro s; with_reducible refine (fun (hs : Kept μ s0 s) => ?_) ?_)
    | intro x
    | lift_lets
    | with_reducible refine kept_act k_act (fun s hs => ?_) ?_
    | with_reducible refine kept_cfgRefuse k_cfgRefuse ?_
    | with_reducible refine kept_cfgCtrl k_cfgCtrl (fun s hs => ?_) ?_
    | (fail_if_no_progress with_reducible refine Kept.mk' ?_  (h_cfg := .inr ⟨i36, sm, sm, .inr i39, sm, sm⟩) (h_hp := .inr ⟨i42, .inr i43, sm, .inr i45, .inr i46, sm, sm, sm, sm, sm, sm, sm⟩) (h_evLog := .inr i78) (h_evLogSeq := .inr i79))
    | split
    | with_reducible refine KeptOut.mk' ?_
    | dsimp +zetaDelta only

theorem kept_execCancelActivation {μ : Nat} (hw : 906694364829800741208064 &&& μ = 906694364829800741208064) {s0 : State} {n key : Nat} {s : State}  (kh : Kept μ s0 s) :
    KeptOut μ s0 (execCancelActivation n key s) := by
  have k_act : 0 &&& μ = 0 := sub_of hw rfl
  have k_cfgCtrl : 906694364829719136829440 &&& μ = 906694364829719136829440 := sub_of hw rfl
  have k_cfgRefuse : 906694364785738671718400 &&& μ = 906694364785738671718400 := sub_of hw rfl
  have k_modOs : 12884901888 &&& μ = 12884901888 := sub_of hw rfl
  have k_raise : 906694364785738671718400 &&& μ = 906694364785738671718400 := sub_of hw rfl
  have i32 : μ.testBit 32 = true := bit_of hw rfl
  have i33 : μ.testBit 33 = true := bit_of hw rfl
  have i36 : μ.testBit 36 = true := bit_of hw rfl
  have i42 : μ.testBit 42 = true := bit_of hw rfl
  have i43 : μ.testBit 43 = true := bit_of hw rfl
  have i45 : μ.testBit 45 = true := bit_of hw rfl
  have i46 : μ.testBit 46 = true := bit_of hw rfl
  have i78 : μ.testBit 78 = true := bit_of hw rfl
  have i79 : μ.testBit 79 = true := bit_of hw rfl
  unfold execCancelActivation
  repeat' first
    | with_reducible assumption
    | (intro s; with_reducible refine (fun (hs : Kept μ s0 s) => ?_) ?_)
    | intro x
    | lift_lets
    | with_reducible refine kept_act k_act (fun s hs => ?_) ?_
    | with_reducible refine kept_raise k_raise ?_
    | with_reducible refine kept_modOs k_modOs ?_
    | with_reducible refine kept_cfgRefuse k_cfgRefuse ?_
    | with_reducible refine kept_cfgCtrl k_cfgCtrl (fun s hs => ?_) ?_
    | with_reducible refine kept_foldl (fun s x hs => ?_) ?_
    | (fail_if_no_progress with_reducible refine Kept.mk' ?_  (h_pub := .inr ⟨i32, .inr i33, sm, sm⟩) (h_cfg := .inr ⟨i36, sm, sm, sm, sm, sm⟩) (h_hp := .inr ⟨i42, .inr i43, sm, .inr i45, .inr i46, sm, sm, sm, sm, sm, sm, sm⟩) (h_evLog := .inr i78) (h_evLogSeq := .inr i79))
    | split
    | with_reducible refine KeptOut.mk' ?_
    | dsimp +zetaDelta only

theorem kept_execDiscardStaged {μ : Nat} (hw : 906694364830062734213120 &&& μ = 906694364830062734213120) {s0 : State} {n key : Nat} {s : State}  (kh : Kept μ s0 s) :
    KeptOut μ s0 (execDiscardStaged n key s) := by
  have k_act : 0 &&& μ = 0 := sub_of hw rfl
  have k_cfgCtrl : 906694364829719136829440 &&& μ = 906694364829719136829440 := sub_of hw rfl
  have k_cfgRefuse : 906694364785738671718400 &&& μ = 906694364785738671718400 := sub_of hw rfl
  have i36 : μ.testBit 36 = true := bit_of hw rfl
  have i38 : μ.testBit 38 = true := bit_of hw rfl
  have i42 : μ.testBit 42 = true := bit_of hw rfl
  have i43 : μ.testBit 43 = true := bit_of hw rfl
  have i45 : μ.testBit 45 = true := bit_of hw rfl
  have i46 : μ.testBit 46 = true := bit_of hw rfl
  have i78 : μ.testBit 78 = true := bit_of hw rfl
  have i79 : μ.testBit 79 = true := bit_of hw rfl
  unfold execDiscardStaged
  repeat' first
    | with_reducible assumption
    | (intro s; with_reducible refine (fun (hs : Kept μ s0 s) => ?_) ?_)
    | intro x
    | lift_lets
    | with_reducible refine kept_act k_act (fun s hs => ?_) ?_
    | with_reducible refine kept_cfgRefuse k_cfgRefuse ?_
    | with_reducible refine kept_cfgCtrl k_cfgCtrl (fun s hs => ?_) ?_
    | (fail_if_no_progress with_reducible refine Kept.mk' ?_  (h_cfg := .inr ⟨i36, sm, .inr i38, sm, sm, sm⟩) (h_hp := .inr ⟨i42, .inr i43, sm, .inr i45, .inr i46, sm, sm, sm, sm, sm, sm, sm⟩) (h_evLog := .inr i78) (h_evLogSeq := .inr i79))
    | split
    | with_reducible refine KeptOut.mk' ?_
    | dsimp +zetaDelta only

theorem kept_batchRefused {μ : Nat} (hw : 982252229083399041581056 &&& μ = 982252229083399041581056) {s0 : State} {n reason entry : Nat} {s : State}  (kh : Kept μ s0 s) :
    Kept μ s0 (batchRefused n reason entry s) := by
  have k_flagCount : 982252228520449088159744 &&& μ = 982252228520449088159744 := sub_of hw rfl
  have k_modFn : 4398046511104 &&& μ = 4398046511104 := sub_of hw rfl
  have k_raise : 906694364785738671718400 &&& μ = 906694364785738671718400 := sub_of hw rfl
  have i42 : μ.testBit 42 = true := bit_of hw rfl
  have i43 : μ.testBit 43 = true := bit_of hw rfl
  have i46 : μ.testBit 46 = true := bit_of hw rfl
  have i49 : μ.testBit 49 = true := bit_of hw rfl
  have i76 : μ.testBit 76 = true := bit_of hw rfl
  have i78 : μ.testBit 78 = true := bit_of hw rfl
  have i79 : μ.testBit 79 = true := bit_of hw rfl
  unfold batchRefused
  repeat' first
    | with_reducible assumption
    | (intro s; with_reducible refine (fun (hs : Kept μ s0 s) => ?_) ?_)
    | intro x
    | lift_lets
    | with_reducible refine kept_modFn k_modFn (.inr i43) smf smf (.inr i46) smf smf (.inr i49) smf smf smf smf ?_
    | with_reducible refine kept_raise k_raise ?_
    | with_reducible refine kept_flagCount k_flagCount ?_
    | (fail_if_no_progress with_reducible refine Kept.mk' ?_  (h_hp := .inr ⟨i42, .inr i43, sm, sm, .inr i46, sm, sm, .inr i49, sm, sm, sm, sm⟩) (h_cnt := .inr i76) (h_evLog := .inr i78) (h_evLogSeq := .inr i79))
    | split
    | dsimp +zetaDelta only

theorem kept_batchAppend {μ : Nat} (hw : 906694365357484718161920 &&& μ = 906694365357484718161920) {s0 : State} {n p : Nat} {v : Word} {s : State}  (kh : Kept μ s0 s) :
    KeptF μ s0 (batchAppend n p v s) := by
  have k_cfgFlag : 13194139533312 &&& μ = 13194139533312 := sub_of hw rfl
  have k_modFn : 4398046511104 &&& μ = 4398046511104 := sub_of hw rfl
  have k_raise : 906694364785738671718400 &&& μ = 906694364785738671718400 := sub_of hw rfl
  have i42 : μ.testBit 42 = true := bit_of hw rfl
  have i43 : μ.testBit 43 = true := bit_of hw rfl
  have i46 : μ.testBit 46 = true := bit_of hw rfl
  have i49 : μ.testBit 49 = true := bit_of hw rfl
  have i78 : μ.testBit 78 = true := bit_of hw rfl
  have i79 : μ.testBit 79 = true := bit_of hw rfl
  unfold batchAppend
  repeat' first
    | with_reducible assumption
    | (intro s; with_reducible refine (fun (hs : Kept μ s0 s) => ?_) ?_)
    | intro x
    | lift_lets
    | with_reducible refine kept_modFn k_modFn (.inr i43) smf smf (.inr i46) smf smf (.inr i49) smf smf smf smf ?_
    | with_reducible refine kept_raise k_raise ?_
    | with_reducible refine kept_cfgFlag k_cfgFlag ?_
    | (fail_if_no_progress with_reducible refine Kept.mk' ?_  (h_hp := .inr ⟨i42, .inr i43, sm, sm, .inr i46, sm, sm, .inr i49, sm, sm, sm, sm⟩) (h_evLog := .inr i78) (h_evLogSeq := .inr i79))
    | split
    | with_reducible refine KeptF.mk' ?_
    | dsimp +zetaDelta only

theorem kept_execCfgBatValWrite {μ : Nat} (hw : 906694365392669090250752 &&& μ = 906694365392669090250752) {s0 : State} {n : Nat} {v : Word} {s : State}  (kh : Kept μ s0 s) :
    KeptOut μ s0 (execCfgBatValWrite n v s) := by
  have k_act : 0 &&& μ = 0 := sub_of hw rfl
  have k_batchAppend : 906694365357484718161920 &&& μ = 906694365357484718161920 := sub_of hw rfl
  have k_deniedInvalid : 906694364829719136829440 &&& μ = 906694364829719136829440 := sub_of hw rfl
  unfold execCfgBatValWrite
  repeat' first
    | with_reducible assumption
    | (intro s; with_reducible refine (fun (hs : Kept μ s0 s) => ?_) ?_)
    | intro x
    | lift_lets
    | with_reducible refine kept_act k_act (fun s hs => ?_) ?_
    | with_reducible refine kept_deniedInvalid k_deniedInvalid ?_
    | with_reducible refine kept_batchAppend k_batchAppend ?_
    | with_reducible refine KeptF.eq (by with_reducible assumption) ?_
    | split
    | with_reducible refine KeptOut.mk' ?_
    | with_reducible refine KeptF.mk' ?_
    | with_reducible refine KeptF.fst ?_
    | dsimp +zetaDelta only

theorem kept_commitBatch {μ : Nat} (hw : 982252229083467761057792 &&& μ = 982252229083467761057792) {s0 : State} {n : Nat} {s : State}  (kh : Kept μ s0 s) :
    KeptF μ s0 (commitBatch n s) := by
  have k_batchRefused : 982252229083399041581056 &&& μ = 982252229083399041581056 := sub_of hw rfl
  have k_modFn : 4398046511104 &&& μ = 4398046511104 := sub_of hw rfl
  have i36 : μ.testBit 36 = true := bit_of hw rfl
  have i42 : μ.testBit 42 = true := bit_of hw rfl
  have i43 : μ.testBit 43 = true := bit_of hw rfl
  have i46 : μ.testBit 46 = true := bit_of hw rfl
  have i49 : μ.testBit 49 = true := bit_of hw rfl
  have i76 : μ.testBit 76 = true := bit_of hw rfl
  have i78 : μ.testBit 78 = true := bit_of hw rfl
  have i79 : μ.testBit 79 = true := bit_of hw rfl
  unfold commitBatch
  repeat' first
    | with_reducible assumption
    | (intro s; with_reducible refine (fun (hs : Kept μ s0 s) => ?_) ?_)
    | intro x
    | lift_lets
    | with_reducible refine kept_modFn k_modFn (.inr i43) smf smf (.inr i46) smf smf (.inr i49) smf smf smf smf ?_
    | with_reducible refine kept_batchRefused k_batchRefused ?_
    | (fail_if_no_progress with_reducible refine Kept.mk' ?_  (h_cfg := .inr ⟨i36, sm, sm, sm, sm, sm⟩) (h_hp := .inr ⟨i42, .inr i43, sm, sm, .inr i46, sm, sm, .inr i49, sm, sm, sm, sm⟩) (h_cnt := .inr i76) (h_evLog := .inr i78) (h_evLogSeq := .inr i79))
    | split
    | with_reducible refine KeptF.mk' ?_
    | dsimp +zetaDelta only

theorem kept_execCommitBatch {μ : Nat} (hw : 982252229118652133146624 &&& μ = 982252229118652133146624) {s0 : State} {n key : Nat} {s : State}  (kh : Kept μ s0 s) :
    KeptOut μ s0 (execCommitBatch n key s) := by
  have k_act : 0 &&& μ = 0 := sub_of hw rfl
  have k_cfgCtrl : 906694364829719136829440 &&& μ = 906694364829719136829440 := sub_of hw rfl
  have k_commitBatch : 982252229083467761057792 &&& μ = 982252229083467761057792 := sub_of hw rfl
  unfold execCommitBatch
  repeat' first
    | with_reducible assumption
    | (intro s; with_reducible refine (fun (hs : Kept μ s0 s) => ?_) ?_)
    | intro x
    | lift_lets
    | with_reducible refine kept_act k_act (fun s hs => ?_) ?_
    | with_reducible refine kept_cfgCtrl k_cfgCtrl (fun s hs => ?_) ?_
    | with_reducible refine kept_commitBatch k_commitBatch ?_
    | with_reducible refine KeptF.eq (by with_reducible assumption) ?_
    | split
    | with_reducible refine KeptOut.mk' ?_
    | with_reducible refine KeptF.mk' ?_
    | with_reducible refine KeptF.fst ?_
    | dsimp +zetaDelta only

theorem kept_execEmptyBatch {μ : Nat} (hw : 906694365392669090250752 &&& μ = 906694365392669090250752) {s0 : State} {n key : Nat} {s : State}  (kh : Kept μ s0 s) :
    KeptOut μ s0 (execEmptyBatch n key s) := by
  have k_act : 0 &&& μ = 0 := sub_of hw rfl
  have k_cfgCtrl : 906694364829719136829440 &&& μ = 906694364829719136829440 := sub_of hw rfl
  have k_modFn : 4398046511104 &&& μ = 4398046511104 := sub_of hw rfl
  have i42 : μ.testBit 42 = true := bit_of hw rfl
  have i43 : μ.testBit 43 = true := bit_of hw rfl
  have i45 : μ.testBit 45 = true := bit_of hw rfl
  have i46 : μ.testBit 46 = true := bit_of hw rfl
  have i49 : μ.testBit 49 = true := bit_of hw rfl
  have i78 : μ.testBit 78 = true := bit_of hw rfl
  have i79 : μ.testBit 79 = true := bit_of hw rfl
  unfold execEmptyBatch
  repeat' first
    | with_reducible assumption
    | (intro s; with_reducible refine (fun (hs : Kept μ s0 s) => ?_) ?_)
    | intro x
    | lift_lets
    | with_reducible refine kept_act k_act (fun s hs => ?_) ?_
    | with_reducible refine kept_modFn k_modFn (.inr i43) smf (.inr i45) (.inr i46) smf smf (.inr i49) smf smf smf smf ?_
    | with_reducible refine kept_cfgCtrl k_cfgCtrl (fun s hs => ?_) ?_
    | (fail_if_no_progress with_reducible refine Kept.mk' ?_  (h_hp := .inr ⟨i42, .inr i43, sm, .inr i45, .inr i46, sm, sm, .inr i49, sm, sm, sm, sm⟩) (h_evLog := .inr i78) (h_evLogSeq := .inr i79))
    | split
    | with_reducible refine KeptOut.mk' ?_
    | dsimp +zetaDelta only

theorem kept_applyBatch {μ : Nat} (hw : 982252228521617319264256 &&& μ = 982252228521617319264256) {s0 : State} {b : Batch} {s : State}  (kh : Kept μ s0 s) :
    Kept μ s0 (applyBatch b s) := by
  have k_count : 982252228520449088159744 &&& μ = 982252228520449088159744 := sub_of hw rfl
  have k_raise : 906694364785738671718400 &&& μ = 906694364785738671718400 := sub_of hw rfl
  have k_schFlag : 13194139533312 &&& μ = 13194139533312 := sub_of hw rfl
  have k_taskCount : 982252228520449088159744 &&& μ = 982252228520449088159744 := sub_of hw rfl
  have i36 : μ.testBit 36 = true := bit_of hw rfl
  have i40 : μ.testBit 40 = true := bit_of hw rfl
  have i42 : μ.testBit 42 = true := bit_of hw rfl
  have i43 : μ.testBit 43 = true := bit_of hw rfl
  have i46 : μ.testBit 46 = true := bit_of hw rfl
  have i76 : μ.testBit 76 = true := bit_of hw rfl
  have i78 : μ.testBit 78 = true := bit_of hw rfl
  have i79 : μ.testBit 79 = true := bit_of hw rfl
  unfold applyBatch
  repeat' first
    | with_reducible assumption
    | (intro s; with_reducible refine (fun (hs : Kept μ s0 s) => ?_) ?_)
    | intro x
    | lift_lets
    | with_reducible refine kept_raise k_raise ?_
    | with_reducible refine kept_count k_count ?_
    | with_reducible refine kept_taskCount k_taskCount ?_
    | with_reducible refine kept_schFlag k_schFlag ?_
    | with_reducible refine kept_foldl (fun s x hs => ?_) ?_
    | (fail_if_no_progress with_reducible refine Kept.mk' ?_  (h_cfg := .inr ⟨i36, sm, sm, sm, .inr i40, sm⟩) (h_hp := .inr ⟨i42, .inr i43, sm, sm, .inr i46, sm, sm, sm, sm, sm, sm, sm⟩) (h_cnt := .inr i76) (h_evLog := .inr i78) (h_evLogSeq := .inr i79))
    | split
    | dsimp +zetaDelta only

theorem kept_savePars {μ : Nat} (hw : 38046409652025950208 &&& μ = 38046409652025950208) {s0 : State} {s : State}  (kh : Kept μ s0 s) :
    Kept μ s0 (savePars s) := by
  have i60 : μ.testBit 60 = true := bit_of hw rfl
  have i65 : μ.testBit 65 = true := bit_of hw rfl
  unfold savePars
  repeat' first
    | with_reducible assumption
    | (intro s; with_reducible refine (fun (hs : Kept μ s0 s) => ?_) ?_)
    | intro x
    | lift_lets
    | (fail_if_no_progress with_reducible refine Kept.mk' ?_  (h_nv := .inr ⟨i60, sm, sm, sm, sm, .inr i65, sm, sm⟩))
    | split
    | dsimp +zetaDelta only

theorem kept_applyCommits {μ : Nat} (hw : 982290274931269345214464 &&& μ = 982290274931269345214464) {s0 : State} {s : State}  (kh : Kept μ s0 s) :
    Kept μ s0 (applyCommits s) := by
  have k_applyBatch : 982252228521617319264256 &&& μ = 982252228521617319264256 := sub_of hw rfl
  have k_savePars : 38046409652025950208 &&& μ = 38046409652025950208 := sub_of hw rfl
  have i36 : μ.testBit 36 = true := bit_of hw rfl
  have i40 : μ.testBit 40 = true := bit_of hw rfl
  have i42 : μ.testBit 42 = true := bit_of hw rfl
  have i43 : μ.testBit 43 = true := bit_of hw rfl
  have i46 : μ.testBit 46 = true := bit_of hw rfl
  have i60 : μ.testBit 60 = true := bit_of hw rfl
  have i65 : μ.testBit 65 = true := bit_of hw rfl
  have i76 : μ.testBit 76 = true := bit_of hw rfl
  have i78 : μ.testBit 78 = true := bit_of hw rfl
  have i79 : μ.testBit 79 = true := bit_of hw rfl
  unfold applyCommits
  repeat' first
    | with_reducible assumption
    | (intro s; with_reducible refine (fun (hs : Kept μ s0 s) => ?_) ?_)
    | intro x
    | lift_lets
    | with_reducible refine kept_applyBatch k_applyBatch ?_
    | with_reducible refine kept_savePars k_savePars ?_
    | with_reducible refine kept_foldl (fun s x hs => ?_) ?_
    | (fail_if_no_progress with_reducible refine Kept.mk' ?_  (h_cfg := .inr ⟨i36, sm, sm, sm, .inr i40, sm⟩) (h_hp := .inr ⟨i42, .inr i43, sm, sm, .inr i46, sm, sm, sm, sm, sm, sm, sm⟩) (h_nv := .inr ⟨i60, sm, sm, sm, sm, .inr i65, sm, sm⟩) (h_cnt := .inr i76) (h_evLog := .inr i78) (h_evLogSeq := .inr i79))
    | split
    | dsimp +zetaDelta only

theorem kept_execBatchApply {μ : Nat} (hw : 982290274931269345214464 &&& μ = 982290274931269345214464) {s0 : State} {s : State}  (kh : Kept μ s0 s) :
    KeptOut μ s0 (execBatchApply s) := by
  have k_act : 0 &&& μ = 0 := sub_of hw rfl
  have k_applyCommits : 982290274931269345214464 &&& μ = 982290274931269345214464 := sub_of hw rfl
  unfold execBatchApply
  repeat' first
    | with_reducible assumption
    | (intro s; with_reducible refine (fun (hs : Kept μ s0 s) => ?_) ?_)
    | intro x
    | lift_lets
    | with_reducible refine kept_act k_act (fun s hs => ?_) ?_
    | with_reducible refine kept_applyCommits k_applyCommits ?_
    | split
    | with_reducible refine KeptOut.mk' ?_
    | dsimp +zetaDelta only

end Sys2Proof.Machine
end

