-- ==== Sys2Proof/Laws/KeptHostIf.lean ====
section
/-!
SUPPORT. Sys2Proof/Laws/KeptHostIf.lean: every operation of HostIf.lean keeps what no command changes, and the parts that it does not write (Kept.lean).
-/
set_option Elab.async false
set_option linter.unusedTactic false
set_option linter.unreachableTactic false
set_option linter.unusedVariables false
namespace Sys2Proof.Machine

theorem kept_setHif {μ : Nat} (hw : 13194139533312 &&& μ = 13194139533312) {s0 : State} {n off v : Nat} {s : State}  (kh : Kept μ s0 s) :
    Kept μ s0 (setHif n off v s) := by
  have k_setFnReg : 13194139533312 &&& μ = 13194139533312 := sub_of hw rfl
  unfold setHif
  repeat' first
    | with_reducible assumption
    | (intro s; with_reducible refine (fun (hs : Kept μ s0 s) => ?_) ?_)
    | intro x
    | lift_lets
    | with_reducible refine kept_setFnReg k_setFnReg ?_
    | split
    | dsimp +zetaDelta only

theorem kept_complete {μ : Nat} (hw : 906694365111194113540096 &&& μ = 906694365111194113540096) {s0 : State} {n status r0 r1 : Nat} {s : State}  (kh : Kept μ s0 s) :
    Kept μ s0 (complete n status r0 r1 s) := by
  have k_countFn : 906694364829719136829440 &&& μ = 906694364829719136829440 := sub_of hw rfl
  have k_hifFlag : 83562883710976 &&& μ = 83562883710976 := sub_of hw rfl
  have k_irqPend : 74766790688768 &&& μ = 74766790688768 := sub_of hw rfl
  have k_modFn : 4398046511104 &&& μ = 4398046511104 := sub_of hw rfl
  have k_setHif : 13194139533312 &&& μ = 13194139533312 := sub_of hw rfl
  have i42 : μ.testBit 42 = true := bit_of hw rfl
  have i43 : μ.testBit 43 = true := bit_of hw rfl
  have i45 : μ.testBit 45 = true := bit_of hw rfl
  have i46 : μ.testBit 46 = true := bit_of hw rfl
  have i48 : μ.testBit 48 = true := bit_of hw rfl
  have i78 : μ.testBit 78 = true := bit_of hw rfl
  have i79 : μ.testBit 79 = true := bit_of hw rfl
  unfold complete
  repeat' first
    | with_reducible assumption
    | (intro s; with_reducible refine (fun (hs : Kept μ s0 s) => ?_) ?_)
    | intro x
    | lift_lets
    | with_reducible refine kept_modFn k_modFn (.inr i43) smf (.inr i45) (.inr i46) smf (.inr i48) smf smf smf smf smf ?_
    | with_reducible refine kept_irqPend k_irqPend ?_
    | with_reducible refine kept_countFn k_countFn ?_
    | with_reducible refine kept_hifFlag k_hifFlag ?_
    | with_reducible refine kept_setHif k_setHif ?_
    | (fail_if_no_progress with_reducible refine Kept.mk' ?_  (h_hp := .inr ⟨i42, .inr i43, sm, .inr i45, .inr i46, sm, .inr i48, sm, sm, sm, sm, sm⟩) (h_evLog := .inr i78) (h_evLogSeq := .inr i79))
    | split
    | dsimp +zetaDelta only

theorem kept_execCommandFetch {μ : Nat} (hw : 2616837674106880 &&& μ = 2616837674106880) {s0 : State} {n : Nat} {raw : List Byte} {s : State}  (kh : Kept μ s0 s) :
    KeptOut μ s0 (execCommandFetch n raw s) := by
  have k_act : 0 &&& μ = 0 := sub_of hw rfl
  have k_modFn : 4398046511104 &&& μ = 4398046511104 := sub_of hw rfl
  have k_setHif : 13194139533312 &&& μ = 13194139533312 := sub_of hw rfl
  have i42 : μ.testBit 42 = true := bit_of hw rfl
  have i43 : μ.testBit 43 = true := bit_of hw rfl
  have i46 : μ.testBit 46 = true := bit_of hw rfl
  have i48 : μ.testBit 48 = true := bit_of hw rfl
  have i51 : μ.testBit 51 = true := bit_of hw rfl
  unfold execCommandFetch
  repeat' first
    | with_reducible assumption
    | (intro s; with_reducible refine (fun (hs : Kept μ s0 s) => ?_) ?_)
    | intro x
    | lift_lets
    | with_reducible refine kept_act k_act (fun s hs => ?_) ?_
    | with_reducible refine kept_modFn k_modFn (.inr i43) smf smf (.inr i46) smf (.inr i48) smf smf (.inr i51) smf smf ?_
    | with_reducible refine kept_setHif k_setHif ?_
    | (fail_if_no_progress with_reducible refine Kept.mk' ?_  (h_hp := .inr ⟨i42, .inr i43, sm, sm, .inr i46, sm, .inr i48, sm, sm, .inr i51, sm, sm⟩))
    | split
    | with_reducible refine KeptOut.mk' ?_
    | dsimp +zetaDelta only

theorem kept_runCmd {μ : Nat} (hw : 906694365111194113540096 &&& μ = 906694365111194113540096) {s0 : State} {n op : Nat} {used : List (Nat × Nat)} {f : List Byte → State → State} {s : State} (h_f : ∀ r s, Kept μ s0 s → Kept μ s0 (f r s)) (kh : Kept μ s0 s) :
    Kept μ s0 (runCmd n op used f s) := by
  have k_complete : 906694365111194113540096 &&& μ = 906694365111194113540096 := sub_of hw rfl
  have i42 : μ.testBit 42 = true := bit_of hw rfl
  have i43 : μ.testBit 43 = true := bit_of hw rfl
  have i45 : μ.testBit 45 = true := bit_of hw rfl
  have i46 : μ.testBit 46 = true := bit_of hw rfl
  have i48 : μ.testBit 48 = true := bit_of hw rfl
  have i78 : μ.testBit 78 = true := bit_of hw rfl
  have i79 : μ.testBit 79 = true := bit_of hw rfl
  unfold runCmd
  repeat' first
    | with_reducible assumption
    | (intro s; with_reducible refine (fun (hs : Kept μ s0 s) => ?_) ?_)
    | intro x
    | lift_lets
    | with_reducible refine kept_complete k_complete ?_
    | with_reducible refine h_f _ _ ?_
    | (fail_if_no_progress with_reducible refine Kept.mk' ?_  (h_hp := .inr ⟨i42, .inr i43, sm, .inr i45, .inr i46, sm, .inr i48, sm, sm, sm, sm, sm⟩) (h_evLog := .inr i78) (h_evLogSeq := .inr i79))
    | split
    | dsimp +zetaDelta only

theorem kept_hostWrite {μ : Nat} (hw : 285873023221760 &&& μ = 285873023221760) {s0 : State} {n addr : Nat} {bs : List Byte} {s : State}  (kh : Kept μ s0 s) :
    Kept μ s0 (hostWrite n addr bs s) := by
  have k_modFn : 4398046511104 &&& μ = 4398046511104 := sub_of hw rfl
  have i42 : μ.testBit 42 = true := bit_of hw rfl
  have i48 : μ.testBit 48 = true := bit_of hw rfl
  unfold hostWrite
  repeat' first
    | with_reducible assumption
    | (intro s; with_reducible refine (fun (hs : Kept μ s0 s) => ?_) ?_)
    | intro x
    | lift_lets
    | with_reducible refine kept_modFn k_modFn smf smf smf smf smf (.inr i48) smf smf smf smf smf ?_
    | (fail_if_no_progress with_reducible refine Kept.mk' ?_  (h_hp := .inr ⟨i42, sm, sm, sm, sm, sm, .inr i48, sm, sm, sm, sm, sm⟩))
    | split
    | dsimp +zetaDelta only

theorem kept_execCmdNop {μ : Nat} (hw : 906694365111194113540096 &&& μ = 906694365111194113540096) {s0 : State} {n : Nat} {s : State}  (kh : Kept μ s0 s) :
    KeptOut μ s0 (execCmdNop n s) := by
  have k_act : 0 &&& μ = 0 := sub_of hw rfl
  have k_complete : 906694365111194113540096 &&& μ = 906694365111194113540096 := sub_of hw rfl
  have k_runCmd : 906694365111194113540096 &&& μ = 906694365111194113540096 := sub_of hw rfl
  unfold execCmdNop
  repeat' first
    | with_reducible assumption
    | (intro s; with_reducible refine (fun (hs : Kept μ s0 s) => ?_) ?_)
    | intro x
    | lift_lets
    | with_reducible refine kept_act k_act (fun s hs => ?_) ?_
    | with_reducible refine kept_complete k_complete ?_
    | with_reducible refine kept_runCmd k_runCmd (fun r s hs => ?_) ?_
    | split
    | with_reducible refine KeptOut.mk' ?_
    | dsimp +zetaDelta only

theorem kept_execCmdUnusedOp {μ : Nat} (hw : 906694365111194113540096 &&& μ = 906694365111194113540096) {s0 : State} {n : Nat} {s : State}  (kh : Kept μ s0 s) :
    KeptOut μ s0 (execCmdUnusedOp n s) := by
  have k_act : 0 &&& μ = 0 := sub_of hw rfl
  have k_complete : 906694365111194113540096 &&& μ = 906694365111194113540096 := sub_of hw rfl
  have i42 : μ.testBit 42 = true := bit_of hw rfl
  have i43 : μ.testBit 43 = true := bit_of hw rfl
  have i45 : μ.testBit 45 = true := bit_of hw rfl
  have i46 : μ.testBit 46 = true := bit_of hw rfl
  have i48 : μ.testBit 48 = true := bit_of hw rfl
  have i78 : μ.testBit 78 = true := bit_of hw rfl
  have i79 : μ.testBit 79 = true := bit_of hw rfl
  unfold execCmdUnusedOp
  repeat' first
    | with_reducible assumption
    | (intro s; with_reducible refine (fun (hs : Kept μ s0 s) => ?_) ?_)
    | intro x
    | lift_lets
    | with_reducible refine kept_act k_act (fun s hs => ?_) ?_
    | with_reducible refine kept_complete k_complete ?_
    | (fail_if_no_progress with_reducible refine Kept.mk' ?_  (h_hp := .inr ⟨i42, .inr i43, sm, .inr i45, .inr i46, sm, .inr i48, sm, sm, sm, sm, sm⟩) (h_evLog := .inr i78) (h_evLogSeq := .inr i79))
    | split
    | with_reducible refine KeptOut.mk' ?_
    | dsimp +zetaDelta only

theorem kept_execCmdImgPush {μ : Nat} (hw : 906694365113461856272384 &&& μ = 906694365113461856272384) {s0 : State} {n : Nat} {data : Option (List Byte)} {s : State}  (kh : Kept μ s0 s) :
    KeptOut μ s0 (execCmdImgPush n data s) := by
  have k_act : 0 &&& μ = 0 := sub_of hw rfl
  have k_complete : 906694365111194113540096 &&& μ = 906694365111194113540096 := sub_of hw rfl
  have k_runCmd : 906694365111194113540096 &&& μ = 906694365111194113540096 := sub_of hw rfl
  have i36 : μ.testBit 36 = true := bit_of hw rfl
  have i41 : μ.testBit 41 = true := bit_of hw rfl
  have i42 : μ.testBit 42 = true := bit_of hw rfl
  have i43 : μ.testBit 43 = true := bit_of hw rfl
  have i45 : μ.testBit 45 = true := bit_of hw rfl
  have i46 : μ.testBit 46 = true := bit_of hw rfl
  have i48 : μ.testBit 48 = true := bit_of hw rfl
  have i78 : μ.testBit 78 = true := bit_of hw rfl
  have i79 : μ.testBit 79 = true := bit_of hw rfl
  unfold execCmdImgPush
  refine kept_act k_act (fun s hs => ?_) kh
  refine kept_runCmd k_runCmd (fun r s hs => ?_) hs
  dsimp only
  split
  · exact kept_complete k_complete hs
  · split
    · exact kept_complete k_complete hs
    · split
      · exact kept_complete k_complete hs
      · refine kept_complete k_complete ?_
        exact ⟨hs.pending, hs.part, hs.hp, fun q => memWf_write (hs.push q), hs.tick, hs.svn, hs.bill, hs.ctr, hs.ctr64, hs.evl, hs.tlog, hs.fr.mk' (h_cfg := .inr ⟨i36, sm, sm, sm, sm, .inr i41⟩) (h_hp := .inr ⟨i42, .inr i43, sm, .inr i45, .inr i46, sm, .inr i48, sm, sm, sm, sm, sm⟩) (h_evLog := .inr i78) (h_evLogSeq := .inr i79)⟩

theorem kept_appendAll {μ : Nat} (hw : 906694365357484718161920 &&& μ = 906694365357484718161920) {s0 : State} {n : Nat} {l : List (Nat × Word)} {s : State} (kh : Kept μ s0 s) :
    KeptF μ s0 (appendAll n l s) := by
  have k_batchAppend : 906694365357484718161920 &&& μ = 906694365357484718161920 := sub_of hw rfl
  induction l generalizing s
  · exact KeptF.mk' kh
  rename_i ih
  unfold appendAll
  repeat' first
    | with_reducible assumption
    | (intro s; with_reducible refine (fun (hs : Kept μ s0 s) => ?_) ?_)
    | intro x
    | lift_lets
    | with_reducible refine ih ?_
    | with_reducible refine kept_batchAppend k_batchAppend ?_
    | with_reducible refine KeptF.eq (by with_reducible assumption) ?_
    | split
    | with_reducible refine KeptF.mk' ?_
    | dsimp +zetaDelta only


theorem kept_execCmdParBatch {μ : Nat} (hw : 982252229400127109857280 &&& μ = 982252229400127109857280) {s0 : State} {n : Nat} {s : State}  (kh : Kept μ s0 s) :
    KeptOut μ s0 (execCmdParBatch n s) := by
  have k_act : 0 &&& μ = 0 := sub_of hw rfl
  have k_appendAll : 906694365357484718161920 &&& μ = 906694365357484718161920 := sub_of hw rfl
  have k_commitBatch : 982252229083467761057792 &&& μ = 982252229083467761057792 := sub_of hw rfl
  have k_complete : 906694365111194113540096 &&& μ = 906694365111194113540096 := sub_of hw rfl
  have i36 : μ.testBit 36 = true := bit_of hw rfl
  have i42 : μ.testBit 42 = true := bit_of hw rfl
  have i43 : μ.testBit 43 = true := bit_of hw rfl
  have i45 : μ.testBit 45 = true := bit_of hw rfl
  have i46 : μ.testBit 46 = true := bit_of hw rfl
  have i48 : μ.testBit 48 = true := bit_of hw rfl
  have i49 : μ.testBit 49 = true := bit_of hw rfl
  have i76 : μ.testBit 76 = true := bit_of hw rfl
  have i78 : μ.testBit 78 = true := bit_of hw rfl
  have i79 : μ.testBit 79 = true := bit_of hw rfl
  unfold execCmdParBatch
  repeat' first
    | with_reducible assumption
    | (intro s; with_reducible refine (fun (hs : Kept μ s0 s) => ?_) ?_)
    | intro x
    | lift_lets
    | with_reducible refine kept_act k_act (fun s hs => ?_) ?_
    | with_reducible refine kept_commitBatch k_commitBatch ?_
    | with_reducible refine kept_complete k_complete ?_
    | with_reducible refine kept_appendAll k_appendAll ?_
    | with_reducible refine KeptF.eq (by with_reducible assumption) ?_
    | (fail_if_no_progress with_reducible refine Kept.mk' ?_  (h_cfg := .inr ⟨i36, sm, sm, sm, sm, sm⟩) (h_hp := .inr ⟨i42, .inr i43, sm, .inr i45, .inr i46, sm, .inr i48, .inr i49, sm, sm, sm, sm⟩) (h_cnt := .inr i76) (h_evLog := .inr i78) (h_evLogSeq := .inr i79))
    | split
    | with_reducible refine KeptOut.mk' ?_
    | with_reducible refine KeptF.mk' ?_
    | with_reducible refine KeptF.fst ?_
    | dsimp +zetaDelta only

theorem kept_execCmdTakeRead {μ : Nat} (hw : 906694365111194113540096 &&& μ = 906694365111194113540096) {s0 : State} {n : Nat} {ok : Bool} {s : State}  (kh : Kept μ s0 s) :
    KeptOut μ s0 (execCmdTakeRead n ok s) := by
  have k_act : 0 &&& μ = 0 := sub_of hw rfl
  have k_complete : 906694365111194113540096 &&& μ = 906694365111194113540096 := sub_of hw rfl
  have k_hostWrite : 285873023221760 &&& μ = 285873023221760 := sub_of hw rfl
  have k_runCmd : 906694365111194113540096 &&& μ = 906694365111194113540096 := sub_of hw rfl
  have i42 : μ.testBit 42 = true := bit_of hw rfl
  have i43 : μ.testBit 43 = true := bit_of hw rfl
  have i45 : μ.testBit 45 = true := bit_of hw rfl
  have i46 : μ.testBit 46 = true := bit_of hw rfl
  have i48 : μ.testBit 48 = true := bit_of hw rfl
  have i78 : μ.testBit 78 = true := bit_of hw rfl
  have i79 : μ.testBit 79 = true := bit_of hw rfl
  unfold execCmdTakeRead
  repeat' first
    | with_reducible assumption
    | (intro s; with_reducible refine (fun (hs : Kept μ s0 s) => ?_) ?_)
    | intro x
    | lift_lets
    | with_reducible refine kept_act k_act (fun s hs => ?_) ?_
    | with_reducible refine kept_complete k_complete ?_
    | with_reducible refine kept_runCmd k_runCmd (fun r s hs => ?_) ?_
    | with_reducible refine kept_hostWrite k_hostWrite ?_
    | (fail_if_no_progress with_reducible refine Kept.mk' ?_  (h_hp := .inr ⟨i42, .inr i43, sm, .inr i45, .inr i46, sm, .inr i48, sm, sm, sm, sm, sm⟩) (h_evLog := .inr i78) (h_evLogSeq := .inr i79))
    | split
    | with_reducible refine KeptOut.mk' ?_
    | dsimp +zetaDelta only

theorem kept_execCmdBillRead {μ : Nat} (hw : 906694365111194113540096 &&& μ = 906694365111194113540096) {s0 : State} {n : Nat} {ok : Bool} {s : State}  (kh : Kept μ s0 s) :
    KeptOut μ s0 (execCmdBillRead n ok s) := by
  have k_act : 0 &&& μ = 0 := sub_of hw rfl
  have k_complete : 906694365111194113540096 &&& μ = 906694365111194113540096 := sub_of hw rfl
  have k_hostWrite : 285873023221760 &&& μ = 285873023221760 := sub_of hw rfl
  have k_runCmd : 906694365111194113540096 &&& μ = 906694365111194113540096 := sub_of hw rfl
  have i42 : μ.testBit 42 = true := bit_of hw rfl
  have i43 : μ.testBit 43 = true := bit_of hw rfl
  have i45 : μ.testBit 45 = true := bit_of hw rfl
  have i46 : μ.testBit 46 = true := bit_of hw rfl
  have i48 : μ.testBit 48 = true := bit_of hw rfl
  have i78 : μ.testBit 78 = true := bit_of hw rfl
  have i79 : μ.testBit 79 = true := bit_of hw rfl
  unfold execCmdBillRead
  repeat' first
    | with_reducible assumption
    | (intro s; with_reducible refine (fun (hs : Kept μ s0 s) => ?_) ?_)
    | intro x
    | lift_lets
    | with_reducible refine kept_act k_act (fun s hs => ?_) ?_
    | with_reducible refine kept_complete k_complete ?_
    | with_reducible refine kept_runCmd k_runCmd (fun r s hs => ?_) ?_
    | with_reducible refine kept_hostWrite k_hostWrite ?_
    | (fail_if_no_progress with_reducible refine Kept.mk' ?_  (h_hp := .inr ⟨i42, .inr i43, sm, .inr i45, .inr i46, sm, .inr i48, sm, sm, sm, sm, sm⟩) (h_evLog := .inr i78) (h_evLogSeq := .inr i79))
    | split
    | with_reducible refine KeptOut.mk' ?_
    | dsimp +zetaDelta only

theorem kept_putEvent {μ : Nat} (hw : 224300372066304 &&& μ = 224300372066304) {s0 : State} {n : Nat} {e : Event} {s : State}  (kh : Kept μ s0 s) :
    Kept μ s0 (putEvent n e s) := by
  have k_irqPend : 74766790688768 &&& μ = 74766790688768 := sub_of hw rfl
  have k_modFn : 4398046511104 &&& μ = 4398046511104 := sub_of hw rfl
  have k_setHif : 13194139533312 &&& μ = 13194139533312 := sub_of hw rfl
  have i42 : μ.testBit 42 = true := bit_of hw rfl
  have i43 : μ.testBit 43 = true := bit_of hw rfl
  have i46 : μ.testBit 46 = true := bit_of hw rfl
  have i47 : μ.testBit 47 = true := bit_of hw rfl
  unfold putEvent
  repeat' first
    | with_reducible assumption
    | (intro s; with_reducible refine (fun (hs : Kept μ s0 s) => ?_) ?_)
    | intro x
    | lift_lets
    | with_reducible refine kept_modFn k_modFn (.inr i43) smf smf (.inr i46) (.inr i47) smf smf smf smf smf smf ?_
    | with_reducible refine kept_irqPend k_irqPend ?_
    | with_reducible refine kept_setHif k_setHif ?_
    | (fail_if_no_progress with_reducible refine Kept.mk' ?_  (h_hp := .inr ⟨i42, .inr i43, sm, sm, .inr i46, .inr i47, sm, sm, sm, sm, sm, sm⟩))
    | split
    | dsimp +zetaDelta only

theorem kept_dropEvent {μ : Nat} (hw : 906694366096356532027392 &&& μ = 906694366096356532027392) {s0 : State} {n : Nat} {s : State}  (kh : Kept μ s0 s) :
    Kept μ s0 (dropEvent n s) := by
  have k_countFn : 906694364829719136829440 &&& μ = 906694364829719136829440 := sub_of hw rfl
  have k_hifFlag : 83562883710976 &&& μ = 83562883710976 := sub_of hw rfl
  have k_modFn : 4398046511104 &&& μ = 4398046511104 := sub_of hw rfl
  have i42 : μ.testBit 42 = true := bit_of hw rfl
  have i43 : μ.testBit 43 = true := bit_of hw rfl
  have i45 : μ.testBit 45 = true := bit_of hw rfl
  have i46 : μ.testBit 46 = true := bit_of hw rfl
  have i47 : μ.testBit 47 = true := bit_of hw rfl
  have i50 : μ.testBit 50 = true := bit_of hw rfl
  have i78 : μ.testBit 78 = true := bit_of hw rfl
  have i79 : μ.testBit 79 = true := bit_of hw rfl
  unfold dropEvent
  repeat' first
    | with_reducible assumption
    | (intro s; with_reducible refine (fun (hs : Kept μ s0 s) => ?_) ?_)
    | intro x
    | lift_lets
    | with_reducible refine kept_modFn k_modFn (.inr i43) smf (.inr i45) (.inr i46) (.inr i47) smf smf (.inr i50) smf smf smf ?_
    | with_reducible refine kept_countFn k_countFn ?_
    | with_reducible refine kept_hifFlag k_hifFlag ?_
    | (fail_if_no_progress with_reducible refine Kept.mk' ?_  (h_hp := .inr ⟨i42, .inr i43, sm, .inr i45, .inr i46, .inr i47, sm, sm, .inr i50, sm, sm, sm⟩) (h_evLog := .inr i78) (h_evLogSeq := .inr i79))
    | split
    | dsimp +zetaDelta only

theorem kept_execEventPlace {μ : Nat} (hw : 224300372066304 &&& μ = 224300372066304) {s0 : State} {n blk : Nat} {s : State}  (kh : Kept μ s0 s) :
    KeptOut μ s0 (execEventPlace n blk s) := by
  have k_act : 0 &&& μ = 0 := sub_of hw rfl
  have k_modFn : 4398046511104 &&& μ = 4398046511104 := sub_of hw rfl
  have k_putEvent : 224300372066304 &&& μ = 224300372066304 := sub_of hw rfl
  have i42 : μ.testBit 42 = true := bit_of hw rfl
  have i43 : μ.testBit 43 = true := bit_of hw rfl
  have i46 : μ.testBit 46 = true := bit_of hw rfl
  have i47 : μ.testBit 47 = true := bit_of hw rfl
  unfold execEventPlace
  repeat' first
    | with_reducible assumption
    | (intro s; with_reducible refine (fun (hs : Kept μ s0 s) => ?_) ?_)
    | intro x
    | lift_lets
    | with_reducible refine kept_act k_act (fun s hs => ?_) ?_
    | with_reducible refine kept_modFn k_modFn (.inr i43) smf smf (.inr i46) (.inr i47) smf smf smf smf smf smf ?_
    | with_reducible refine kept_putEvent k_putEvent ?_
    | (fail_if_no_progress with_reducible refine Kept.mk' ?_  (h_hp := .inr ⟨i42, .inr i43, sm, sm, .inr i46, .inr i47, sm, sm, sm, sm, sm, sm⟩))
    | split
    | with_reducible refine KeptOut.mk' ?_
    | dsimp +zetaDelta only

theorem kept_execEventHoldExpiry {μ : Nat} (hw : 906694366096356532027392 &&& μ = 906694366096356532027392) {s0 : State} {n blk : Nat} {s : State}  (kh : Kept μ s0 s) :
    KeptOut μ s0 (execEventHoldExpiry n blk s) := by
  have k_act : 0 &&& μ = 0 := sub_of hw rfl
  have k_dropEvent : 906694366096356532027392 &&& μ = 906694366096356532027392 := sub_of hw rfl
  have k_modFn : 4398046511104 &&& μ = 4398046511104 := sub_of hw rfl
  have i42 : μ.testBit 42 = true := bit_of hw rfl
  have i43 : μ.testBit 43 = true := bit_of hw rfl
  have i45 : μ.testBit 45 = true := bit_of hw rfl
  have i46 : μ.testBit 46 = true := bit_of hw rfl
  have i47 : μ.testBit 47 = true := bit_of hw rfl
  have i50 : μ.testBit 50 = true := bit_of hw rfl
  have i78 : μ.testBit 78 = true := bit_of hw rfl
  have i79 : μ.testBit 79 = true := bit_of hw rfl
  unfold execEventHoldExpiry
  repeat' first
    | with_reducible assumption
    | (intro s; with_reducible refine (fun (hs : Kept μ s0 s) => ?_) ?_)
    | intro x
    | lift_lets
    | with_reducible refine kept_act k_act (fun s hs => ?_) ?_
    | with_reducible refine kept_modFn k_modFn (.inr i43) smf (.inr i45) (.inr i46) (.inr i47) smf smf (.inr i50) smf smf smf ?_
    | with_reducible refine kept_dropEvent k_dropEvent ?_
    | (fail_if_no_progress with_reducible refine Kept.mk' ?_  (h_hp := .inr ⟨i42, .inr i43, sm, .inr i45, .inr i46, .inr i47, sm, sm, .inr i50, sm, sm, sm⟩) (h_evLog := .inr i78) (h_evLogSeq := .inr i79))
    | split
    | with_reducible refine KeptOut.mk' ?_
    | dsimp +zetaDelta only

theorem kept_putMarker {μ : Nat} (hw : 906694366096356532027392 &&& μ = 906694366096356532027392) {s0 : State} {n : Nat} {x : Fence} {e : Event} {s : State}  (kh : Kept μ s0 s) :
    KeptOF μ s0 (putMarker n x e s) := by
  have k_dropEvent : 906694366096356532027392 &&& μ = 906694366096356532027392 := sub_of hw rfl
  have k_putEvent : 224300372066304 &&& μ = 224300372066304 := sub_of hw rfl
  have i42 : μ.testBit 42 = true := bit_of hw rfl
  have i43 : μ.testBit 43 = true := bit_of hw rfl
  have i45 : μ.testBit 45 = true := bit_of hw rfl
  have i46 : μ.testBit 46 = true := bit_of hw rfl
  have i47 : μ.testBit 47 = true := bit_of hw rfl
  have i50 : μ.testBit 50 = true := bit_of hw rfl
  have i78 : μ.testBit 78 = true := bit_of hw rfl
  have i79 : μ.testBit 79 = true := bit_of hw rfl
  unfold putMarker
  split
  · exact KeptOF.mk' kh
  · split
    · refine KeptOF.mk' (kept_putEvent k_putEvent ?_)
      exact ⟨kh.pending, kh.part, kh.hp, kh.push, kh.tick, kh.svn, kh.bill, kh.ctr, kh.ctr64, fun _ => by dsimp only; exact length_lastN 4096 _, kh.tlog, kh.fr.mk' (h_hp := .inr ⟨i42, .inr i43, sm, .inr i45, .inr i46, .inr i47, sm, sm, .inr i50, sm, sm, sm⟩) (h_evLog := .inr i78) (h_evLogSeq := .inr i79)⟩
    · split
      · split
        · refine KeptOF.mk' ?_
          exact kept_dropEvent k_dropEvent kh
        · exact KeptOF.none
      · exact KeptOF.none

theorem kept_execCmdFence {μ : Nat} (hw : 906694366237094020382720 &&& μ = 906694366237094020382720) {s0 : State} {n : Nat} {s : State}  (kh : Kept μ s0 s) :
    KeptOut μ s0 (execCmdFence n s) := by
  have k_act : 0 &&& μ = 0 := sub_of hw rfl
  have k_complete : 906694365111194113540096 &&& μ = 906694365111194113540096 := sub_of hw rfl
  have k_modFn : 4398046511104 &&& μ = 4398046511104 := sub_of hw rfl
  have k_runCmd : 906694365111194113540096 &&& μ = 906694365111194113540096 := sub_of hw rfl
  have i42 : μ.testBit 42 = true := bit_of hw rfl
  have i43 : μ.testBit 43 = true := bit_of hw rfl
  have i45 : μ.testBit 45 = true := bit_of hw rfl
  have i46 : μ.testBit 46 = true := bit_of hw rfl
  have i48 : μ.testBit 48 = true := bit_of hw rfl
  have i50 : μ.testBit 50 = true := bit_of hw rfl
  have i78 : μ.testBit 78 = true := bit_of hw rfl
  have i79 : μ.testBit 79 = true := bit_of hw rfl
  unfold execCmdFence
  repeat' first
    | with_reducible assumption
    | (intro s; with_reducible refine (fun (hs : Kept μ s0 s) => ?_) ?_)
    | intro x
    | lift_lets
    | with_reducible refine kept_act k_act (fun s hs => ?_) ?_
    | with_reducible refine kept_modFn k_modFn (.inr i43) smf (.inr i45) (.inr i46) smf (.inr i48) smf (.inr i50) smf smf smf ?_
    | with_reducible refine kept_complete k_complete ?_
    | with_reducible refine kept_runCmd k_runCmd (fun r s hs => ?_) ?_
    | (fail_if_no_progress with_reducible refine Kept.mk' ?_  (h_hp := .inr ⟨i42, .inr i43, sm, .inr i45, .inr i46, sm, .inr i48, sm, .inr i50, sm, sm, sm⟩) (h_evLog := .inr i78) (h_evLogSeq := .inr i79))
    | split
    | with_reducible refine KeptOut.mk' ?_
    | dsimp +zetaDelta only

theorem kept_execFenceComplete {μ : Nat} (hw : 2115620185992460683444224 &&& μ = 2115620185992460683444224) {s0 : State} {n : Nat} {s : State}  (kh : Kept μ s0 s) :
    KeptOut μ s0 (execFenceComplete n s) := by
  have k_act : 0 &&& μ = 0 := sub_of hw rfl
  have k_complete : 906694365111194113540096 &&& μ = 906694365111194113540096 := sub_of hw rfl
  have k_countFn : 906694364829719136829440 &&& μ = 906694364829719136829440 := sub_of hw rfl
  have k_fresh : 1208925819614629174706176 &&& μ = 1208925819614629174706176 := sub_of hw rfl
  have k_modFn : 4398046511104 &&& μ = 4398046511104 := sub_of hw rfl
  have k_putMarker : 906694366096356532027392 &&& μ = 906694366096356532027392 := sub_of hw rfl
  have i42 : μ.testBit 42 = true := bit_of hw rfl
  have i43 : μ.testBit 43 = true := bit_of hw rfl
  have i45 : μ.testBit 45 = true := bit_of hw rfl
  have i46 : μ.testBit 46 = true := bit_of hw rfl
  have i47 : μ.testBit 47 = true := bit_of hw rfl
  have i48 : μ.testBit 48 = true := bit_of hw rfl
  have i50 : μ.testBit 50 = true := bit_of hw rfl
  have i78 : μ.testBit 78 = true := bit_of hw rfl
  have i79 : μ.testBit 79 = true := bit_of hw rfl
  have i80 : μ.testBit 80 = true := bit_of hw rfl
  unfold execFenceComplete
  repeat' first
    | with_reducible assumption
    | (intro s; with_reducible refine (fun (hs : Kept μ s0 s) => ?_) ?_)
    | intro x
    | lift_lets
    | with_reducible refine kept_act k_act (fun s hs => ?_) ?_
    | with_reducible refine kept_fresh k_fresh ?_
    | with_reducible refine kept_modFn k_modFn (.inr i43) smf (.inr i45) (.inr i46) (.inr i47) (.inr i48) smf (.inr i50) smf smf smf ?_
    | with_reducible refine kept_countFn k_countFn ?_
    | with_reducible refine kept_complete k_complete ?_
    | with_reducible refine kept_putMarker k_putMarker ?_
    | with_reducible refine KeptS.eq (by with_reducible assumption) ?_
    | with_reducible refine KeptOF.eq (by with_reducible assumption) ?_
    | (fail_if_no_progress with_reducible refine Kept.mk' ?_  (h_hp := .inr ⟨i42, .inr i43, sm, .inr i45, .inr i46, .inr i47, .inr i48, sm, .inr i50, sm, sm, sm⟩) (h_evLog := .inr i78) (h_evLogSeq := .inr i79) (h_free := .inr i80))
    | split
    | with_reducible refine KeptOut.mk' ?_
    | with_reducible refine KeptS.mk' ?_
    | with_reducible refine KeptS.snd ?_
    | dsimp +zetaDelta only

theorem kept_execCfgFenceReqWrite {μ : Nat} (hw : 906694365955619043672064 &&& μ = 906694365955619043672064) {s0 : State} {n : Nat} {v : Word} {s : State}  (kh : Kept μ s0 s) :
    KeptOut μ s0 (execCfgFenceReqWrite n v s) := by
  have k_act : 0 &&& μ = 0 := sub_of hw rfl
  have k_deniedInvalid : 906694364829719136829440 &&& μ = 906694364829719136829440 := sub_of hw rfl
  have k_modFn : 4398046511104 &&& μ = 4398046511104 := sub_of hw rfl
  have i42 : μ.testBit 42 = true := bit_of hw rfl
  have i43 : μ.testBit 43 = true := bit_of hw rfl
  have i45 : μ.testBit 45 = true := bit_of hw rfl
  have i46 : μ.testBit 46 = true := bit_of hw rfl
  have i50 : μ.testBit 50 = true := bit_of hw rfl
  have i78 : μ.testBit 78 = true := bit_of hw rfl
  have i79 : μ.testBit 79 = true := bit_of hw rfl
  unfold execCfgFenceReqWrite
  repeat' first
    | with_reducible assumption
    | (intro s; with_reducible refine (fun (hs : Kept μ s0 s) => ?_) ?_)
    | intro x
    | lift_lets
    | with_reducible refine kept_act k_act (fun s hs => ?_) ?_
    | with_reducible refine kept_modFn k_modFn (.inr i43) smf (.inr i45) (.inr i46) smf smf smf (.inr i50) smf smf smf ?_
    | with_reducible refine kept_deniedInvalid k_deniedInvalid ?_
    | (fail_if_no_progress with_reducible refine Kept.mk' ?_  (h_hp := .inr ⟨i42, .inr i43, sm, .inr i45, .inr i46, sm, sm, sm, .inr i50, sm, sm, sm⟩) (h_evLog := .inr i78) (h_evLogSeq := .inr i79))
    | split
    | with_reducible refine KeptOut.mk' ?_
    | dsimp +zetaDelta only

theorem kept_execRegisterFenceDone {μ : Nat} (hw : 906694366096356532027392 &&& μ = 906694366096356532027392) {s0 : State} {n : Nat} {s : State}  (kh : Kept μ s0 s) :
    KeptOut μ s0 (execRegisterFenceDone n s) := by
  have k_act : 0 &&& μ = 0 := sub_of hw rfl
  have k_countFn : 906694364829719136829440 &&& μ = 906694364829719136829440 := sub_of hw rfl
  have k_modFn : 4398046511104 &&& μ = 4398046511104 := sub_of hw rfl
  have k_putMarker : 906694366096356532027392 &&& μ = 906694366096356532027392 := sub_of hw rfl
  have k_setFnReg : 13194139533312 &&& μ = 13194139533312 := sub_of hw rfl
  have i42 : μ.testBit 42 = true := bit_of hw rfl
  have i43 : μ.testBit 43 = true := bit_of hw rfl
  have i45 : μ.testBit 45 = true := bit_of hw rfl
  have i46 : μ.testBit 46 = true := bit_of hw rfl
  have i47 : μ.testBit 47 = true := bit_of hw rfl
  have i50 : μ.testBit 50 = true := bit_of hw rfl
  have i78 : μ.testBit 78 = true := bit_of hw rfl
  have i79 : μ.testBit 79 = true := bit_of hw rfl
  unfold execRegisterFenceDone
  repeat' first
    | with_reducible assumption
    | (intro s; with_reducible refine (fun (hs : Kept μ s0 s) => ?_) ?_)
    | intro x
    | lift_lets
    | with_reducible refine kept_act k_act (fun s hs => ?_) ?_
    | with_reducible refine kept_modFn k_modFn (.inr i43) smf (.inr i45) (.inr i46) (.inr i47) smf smf (.inr i50) smf smf smf ?_
    | with_reducible refine kept_setFnReg k_setFnReg ?_
    | with_reducible refine kept_countFn k_countFn ?_
    | with_reducible refine kept_putMarker k_putMarker ?_
    | with_reducible refine KeptOF.eq (by with_reducible assumption) ?_
    | (fail_if_no_progress with_reducible refine Kept.mk' ?_  (h_hp := .inr ⟨i42, .inr i43, sm, .inr i45, .inr i46, .inr i47, sm, sm, .inr i50, sm, sm, sm⟩) (h_evLog := .inr i78) (h_evLogSeq := .inr i79))
    | split
    | with_reducible refine KeptOut.mk' ?_
    | dsimp +zetaDelta only

theorem kept_execHarvestRecordWrite {μ : Nat} (hw : 2335362697396224 &&& μ = 2335362697396224) {s0 : State} {n k : Nat} {s : State}  (kh : Kept μ s0 s) :
    KeptOut μ s0 (execHarvestRecordWrite n k s) := by
  have k_act : 0 &&& μ = 0 := sub_of hw rfl
  have k_irqPend : 74766790688768 &&& μ = 74766790688768 := sub_of hw rfl
  have k_modFn : 4398046511104 &&& μ = 4398046511104 := sub_of hw rfl
  have k_setHif : 13194139533312 &&& μ = 13194139533312 := sub_of hw rfl
  have i42 : μ.testBit 42 = true := bit_of hw rfl
  have i43 : μ.testBit 43 = true := bit_of hw rfl
  have i46 : μ.testBit 46 = true := bit_of hw rfl
  have i51 : μ.testBit 51 = true := bit_of hw rfl
  unfold execHarvestRecordWrite
  repeat' first
    | with_reducible assumption
    | (intro s; with_reducible refine (fun (hs : Kept μ s0 s) => ?_) ?_)
    | intro x
    | lift_lets
    | with_reducible refine kept_act k_act (fun s hs => ?_) ?_
    | with_reducible refine kept_modFn k_modFn (.inr i43) smf smf (.inr i46) smf smf smf smf (.inr i51) smf smf ?_
    | with_reducible refine kept_irqPend k_irqPend ?_
    | with_reducible refine kept_setHif k_setHif ?_
    | (fail_if_no_progress with_reducible refine Kept.mk' ?_  (h_hp := .inr ⟨i42, .inr i43, sm, sm, .inr i46, sm, sm, sm, sm, .inr i51, sm, sm⟩))
    | split
    | with_reducible refine KeptOut.mk' ?_
    | dsimp +zetaDelta only

theorem kept_execHarvestHoldExpiry {μ : Nat} (hw : 982252230807433273933824 &&& μ = 982252230807433273933824) {s0 : State} {n k : Nat} {s : State}  (kh : Kept μ s0 s) :
    KeptOut μ s0 (execHarvestHoldExpiry n k s) := by
  have k_act : 0 &&& μ = 0 := sub_of hw rfl
  have k_countFn : 906694364829719136829440 &&& μ = 906694364829719136829440 := sub_of hw rfl
  have k_countW : 982252228520449088159744 &&& μ = 982252228520449088159744 := sub_of hw rfl
  have k_hifFlag : 83562883710976 &&& μ = 83562883710976 := sub_of hw rfl
  have k_modFn : 4398046511104 &&& μ = 4398046511104 := sub_of hw rfl
  have k_setFlag : 13194139533312 &&& μ = 13194139533312 := sub_of hw rfl
  have i42 : μ.testBit 42 = true := bit_of hw rfl
  have i43 : μ.testBit 43 = true := bit_of hw rfl
  have i45 : μ.testBit 45 = true := bit_of hw rfl
  have i46 : μ.testBit 46 = true := bit_of hw rfl
  have i51 : μ.testBit 51 = true := bit_of hw rfl
  have i76 : μ.testBit 76 = true := bit_of hw rfl
  have i78 : μ.testBit 78 = true := bit_of hw rfl
  have i79 : μ.testBit 79 = true := bit_of hw rfl
  unfold execHarvestHoldExpiry
  repeat' first
    | with_reducible assumption
    | (intro s; with_reducible refine (fun (hs : Kept μ s0 s) => ?_) ?_)
    | intro x
    | lift_lets
    | with_reducible refine kept_act k_act (fun s hs => ?_) ?_
    | with_reducible refine kept_modFn k_modFn (.inr i43) smf (.inr i45) (.inr i46) smf smf smf smf (.inr i51) smf smf ?_
    | with_reducible refine kept_setFlag k_setFlag ?_
    | with_reducible refine kept_countW k_countW ?_
    | with_reducible refine kept_countFn k_countFn ?_
    | with_reducible refine kept_hifFlag k_hifFlag ?_
    | (fail_if_no_progress with_reducible refine Kept.mk' ?_  (h_hp := .inr ⟨i42, .inr i43, sm, .inr i45, .inr i46, sm, sm, sm, sm, .inr i51, sm, sm⟩) (h_cnt := .inr i76) (h_evLog := .inr i78) (h_evLogSeq := .inr i79))
    | split
    | with_reducible refine KeptOut.mk' ?_
    | dsimp +zetaDelta only

theorem kept_execHostRxDeliver {μ : Nat} (hw : 906694369333318764199936 &&& μ = 906694369333318764199936) {s0 : State} {n r : Nat} {addrs : List Nat} {s : State}  (kh : Kept μ s0 s) :
    KeptOut μ s0 (execHostRxDeliver n r addrs s) := by
  have k_act : 0 &&& μ = 0 := sub_of hw rfl
  have k_countFn : 906694364829719136829440 &&& μ = 906694364829719136829440 := sub_of hw rfl
  have k_irqPend : 74766790688768 &&& μ = 74766790688768 := sub_of hw rfl
  have k_modFn : 4398046511104 &&& μ = 4398046511104 := sub_of hw rfl
  have k_setFnReg : 13194139533312 &&& μ = 13194139533312 := sub_of hw rfl
  have i42 : μ.testBit 42 = true := bit_of hw rfl
  have i43 : μ.testBit 43 = true := bit_of hw rfl
  have i45 : μ.testBit 45 = true := bit_of hw rfl
  have i46 : μ.testBit 46 = true := bit_of hw rfl
  have i52 : μ.testBit 52 = true := bit_of hw rfl
  have i78 : μ.testBit 78 = true := bit_of hw rfl
  have i79 : μ.testBit 79 = true := bit_of hw rfl
  unfold execHostRxDeliver
  repeat' first
    | with_reducible assumption
    | (intro s; with_reducible refine (fun (hs : Kept μ s0 s) => ?_) ?_)
    | intro x
    | lift_lets
    | with_reducible refine kept_act k_act (fun s hs => ?_) ?_
    | with_reducible refine kept_modFn k_modFn (.inr i43) smf (.inr i45) (.inr i46) smf smf smf smf smf (.inr i52) smf ?_
    | with_reducible refine kept_setFnReg k_setFnReg ?_
    | with_reducible refine kept_irqPend k_irqPend ?_
    | with_reducible refine kept_countFn k_countFn ?_
    | with_reducible refine kept_foldl (fun s x hs => ?_) ?_
    | (fail_if_no_progress with_reducible refine Kept.mk' ?_  (h_hp := .inr ⟨i42, .inr i43, sm, .inr i45, .inr i46, sm, sm, sm, sm, sm, .inr i52, sm⟩) (h_evLog := .inr i78) (h_evLogSeq := .inr i79))
    | split
    | with_reducible refine KeptOut.mk' ?_
    | dsimp +zetaDelta only

theorem kept_execHostRxHoldExpiry {μ : Nat} (hw : 906694369333318764199936 &&& μ = 906694369333318764199936) {s0 : State} {n r : Nat} {s : State}  (kh : Kept μ s0 s) :
    KeptOut μ s0 (execHostRxHoldExpiry n r s) := by
  have k_act : 0 &&& μ = 0 := sub_of hw rfl
  have k_countFn : 906694364829719136829440 &&& μ = 906694364829719136829440 := sub_of hw rfl
  have k_modFn : 4398046511104 &&& μ = 4398046511104 := sub_of hw rfl
  have i42 : μ.testBit 42 = true := bit_of hw rfl
  have i43 : μ.testBit 43 = true := bit_of hw rfl
  have i45 : μ.testBit 45 = true := bit_of hw rfl
  have i46 : μ.testBit 46 = true := bit_of hw rfl
  have i52 : μ.testBit 52 = true := bit_of hw rfl
  have i78 : μ.testBit 78 = true := bit_of hw rfl
  have i79 : μ.testBit 79 = true := bit_of hw rfl
  unfold execHostRxHoldExpiry
  repeat' first
    | with_reducible assumption
    | (intro s; with_reducible refine (fun (hs : Kept μ s0 s) => ?_) ?_)
    | intro x
    | lift_lets
    | with_reducible refine kept_act k_act (fun s hs => ?_) ?_
    | with_reducible refine kept_modFn k_modFn (.inr i43) smf (.inr i45) (.inr i46) smf smf smf smf smf (.inr i52) smf ?_
    | with_reducible refine kept_countFn k_countFn ?_
    | (fail_if_no_progress with_reducible refine Kept.mk' ?_  (h_hp := .inr ⟨i42, .inr i43, sm, .inr i45, .inr i46, sm, sm, sm, sm, sm, .inr i52, sm⟩) (h_evLog := .inr i78) (h_evLogSeq := .inr i79))
    | split
    | with_reducible refine KeptOut.mk' ?_
    | dsimp +zetaDelta only

theorem kept_execHostTxFrame {μ : Nat} (hw : 982252233059233087619120 &&& μ = 982252233059233087619120) {s0 : State} {n r : Nat} {ds : List TxDesc} {ok : Bool} {s : State}  (kh : Kept μ s0 s) :
    KeptOut μ s0 (execHostTxFrame n r ds ok s) := by
  have k_act : 0 &&& μ = 0 := sub_of hw rfl
  have k_enqueueMask : 982252233059233087619120 &&& μ = 982252233059233087619120 := sub_of hw rfl
  have k_ethCount : 982252228520449088159744 &&& μ = 982252228520449088159744 := sub_of hw rfl
  have k_ethFlag : 13194139533312 &&& μ = 13194139533312 := sub_of hw rfl
  have k_modFn : 4398046511104 &&& μ = 4398046511104 := sub_of hw rfl
  have k_setFnReg : 13194139533312 &&& μ = 13194139533312 := sub_of hw rfl
  have k_txHostWb : 906694369333318764199936 &&& μ = 906694369333318764199936 := sub_of hw rfl
  have i4 : μ.testBit 4 = true := bit_of hw rfl
  have i5 : μ.testBit 5 = true := bit_of hw rfl
  have i42 : μ.testBit 42 = true := bit_of hw rfl
  have i43 : μ.testBit 43 = true := bit_of hw rfl
  have i45 : μ.testBit 45 = true := bit_of hw rfl
  have i46 : μ.testBit 46 = true := bit_of hw rfl
  have i52 : μ.testBit 52 = true := bit_of hw rfl
  have i76 : μ.testBit 76 = true := bit_of hw rfl
  have i78 : μ.testBit 78 = true := bit_of hw rfl
  have i79 : μ.testBit 79 = true := bit_of hw rfl
  unfold execHostTxFrame
  repeat' first
    | with_reducible assumption
    | (intro s; with_reducible refine (fun (hs : Kept μ s0 s) => ?_) ?_)
    | intro x
    | lift_lets
    | with_reducible refine kept_act k_act (fun s hs => ?_) ?_
    | with_reducible refine kept_modFn k_modFn (.inr i43) smf (.inr i45) (.inr i46) smf smf smf smf smf (.inr i52) smf ?_
    | with_reducible refine kept_setFnReg k_setFnReg ?_
    | with_reducible refine kept_ethCount k_ethCount ?_
    | with_reducible refine kept_ethFlag k_ethFlag ?_
    | with_reducible refine kept_txHostWb k_txHostWb ?_
    | with_reducible refine kept_enqueueMask k_enqueueMask ?_
    | with_reducible refine kept_foldl (fun s x hs => ?_) ?_
    | (fail_if_no_progress with_reducible refine Kept.mk' ?_  (h_eth := .inr ⟨i4, .inr i5, sm, sm⟩) (h_hp := .inr ⟨i42, .inr i43, sm, .inr i45, .inr i46, sm, sm, sm, sm, sm, .inr i52, sm⟩) (h_cnt := .inr i76) (h_evLog := .inr i78) (h_evLogSeq := .inr i79))
    | split
    | with_reducible refine KeptOut.mk' ?_
    | dsimp +zetaDelta only

theorem kept_execHostTxHoldExpiry {μ : Nat} (hw : 982252233059233087619120 &&& μ = 982252233059233087619120) {s0 : State} {n p : Nat} {s : State}  (kh : Kept μ s0 s) :
    KeptOut μ s0 (execHostTxHoldExpiry n p s) := by
  have k_act : 0 &&& μ = 0 := sub_of hw rfl
  have k_discardTx : 982252233059233087619072 &&& μ = 982252233059233087619072 := sub_of hw rfl
  have k_modPort : 48 &&& μ = 48 := sub_of hw rfl
  have i4 : μ.testBit 4 = true := bit_of hw rfl
  have i5 : μ.testBit 5 = true := bit_of hw rfl
  have i42 : μ.testBit 42 = true := bit_of hw rfl
  have i43 : μ.testBit 43 = true := bit_of hw rfl
  have i45 : μ.testBit 45 = true := bit_of hw rfl
  have i46 : μ.testBit 46 = true := bit_of hw rfl
  have i52 : μ.testBit 52 = true := bit_of hw rfl
  have i76 : μ.testBit 76 = true := bit_of hw rfl
  have i78 : μ.testBit 78 = true := bit_of hw rfl
  have i79 : μ.testBit 79 = true := bit_of hw rfl
  unfold execHostTxHoldExpiry
  repeat' first
    | with_reducible assumption
    | (intro s; with_reducible refine (fun (hs : Kept μ s0 s) => ?_) ?_)
    | intro x
    | lift_lets
    | with_reducible refine kept_act k_act (fun s hs => ?_) ?_
    | with_reducible refine kept_modPort k_modPort ?_
    | with_reducible refine kept_discardTx k_discardTx ?_
    | (fail_if_no_progress with_reducible refine Kept.mk' ?_  (h_eth := .inr ⟨i4, .inr i5, sm, sm⟩) (h_hp := .inr ⟨i42, .inr i43, sm, .inr i45, .inr i46, sm, sm, sm, sm, sm, .inr i52, sm⟩) (h_cnt := .inr i76) (h_evLog := .inr i78) (h_evLogSeq := .inr i79))
    | split
    | with_reducible refine KeptOut.mk' ?_
    | dsimp +zetaDelta only

theorem kept_disableRing {μ : Nat} (hw : 13194139533312 &&& μ = 13194139533312) {s0 : State} {n off : Nat} {s : State}  (kh : Kept μ s0 s) :
    Kept μ s0 (disableRing n off s) := by
  have k_setFnReg : 13194139533312 &&& μ = 13194139533312 := sub_of hw rfl
  unfold disableRing
  repeat' first
    | with_reducible assumption
    | (intro s; with_reducible refine (fun (hs : Kept μ s0 s) => ?_) ?_)
    | intro x
    | lift_lets
    | with_reducible refine kept_setFnReg k_setFnReg ?_
    | split
    | dsimp +zetaDelta only

theorem kept_execDmaError {μ : Nat} (hw : 906694364829719136829440 &&& μ = 906694364829719136829440) {s0 : State} {n code reason : Nat} {s : State}  (kh : Kept μ s0 s) :
    KeptOut μ s0 (execDmaError n code reason s) := by
  have k_act : 0 &&& μ = 0 := sub_of hw rfl
  have k_countFn : 906694364829719136829440 &&& μ = 906694364829719136829440 := sub_of hw rfl
  have k_disableRing : 13194139533312 &&& μ = 13194139533312 := sub_of hw rfl
  have k_hifFlag : 83562883710976 &&& μ = 83562883710976 := sub_of hw rfl
  have k_raise : 906694364785738671718400 &&& μ = 906694364785738671718400 := sub_of hw rfl
  have i42 : μ.testBit 42 = true := bit_of hw rfl
  have i43 : μ.testBit 43 = true := bit_of hw rfl
  have i45 : μ.testBit 45 = true := bit_of hw rfl
  have i46 : μ.testBit 46 = true := bit_of hw rfl
  have i78 : μ.testBit 78 = true := bit_of hw rfl
  have i79 : μ.testBit 79 = true := bit_of hw rfl
  unfold execDmaError
  repeat' first
    | with_reducible assumption
    | (intro s; with_reducible refine (fun (hs : Kept μ s0 s) => ?_) ?_)
    | intro x
    | lift_lets
    | with_reducible refine kept_act k_act (fun s hs => ?_) ?_
    | with_reducible refine kept_raise k_raise ?_
    | with_reducible refine kept_countFn k_countFn ?_
    | with_reducible refine kept_hifFlag k_hifFlag ?_
    | with_reducible refine kept_disableRing k_disableRing ?_
    | (fail_if_no_progress with_reducible refine Kept.mk' ?_  (h_hp := .inr ⟨i42, .inr i43, sm, .inr i45, .inr i46, sm, sm, sm, sm, sm, sm, sm⟩) (h_evLog := .inr i78) (h_evLogSeq := .inr i79))
    | split
    | with_reducible refine KeptOut.mk' ?_
    | dsimp +zetaDelta only

theorem kept_execInterruptSend {μ : Nat} (hw : 74766790688768 &&& μ = 74766790688768) {s0 : State} {n src : Nat} {s : State}  (kh : Kept μ s0 s) :
    KeptOut μ s0 (execInterruptSend n src s) := by
  have k_act : 0 &&& μ = 0 := sub_of hw rfl
  have k_modFn : 4398046511104 &&& μ = 4398046511104 := sub_of hw rfl
  have i42 : μ.testBit 42 = true := bit_of hw rfl
  have i46 : μ.testBit 46 = true := bit_of hw rfl
  unfold execInterruptSend
  repeat' first
    | with_reducible assumption
    | (intro s; with_reducible refine (fun (hs : Kept μ s0 s) => ?_) ?_)
    | intro x
    | lift_lets
    | with_reducible refine kept_act k_act (fun s hs => ?_) ?_
    | with_reducible refine kept_modFn k_modFn smf smf smf (.inr i46) smf smf smf smf smf smf smf ?_
    | (fail_if_no_progress with_reducible refine Kept.mk' ?_  (h_hp := .inr ⟨i42, sm, sm, sm, .inr i46, sm, sm, sm, sm, sm, sm, sm⟩))
    | split
    | with_reducible refine KeptOut.mk' ?_
    | dsimp +zetaDelta only

theorem kept_flrReset {μ : Nat} (hw : 8967616836141056 &&& μ = 8967616836141056) {s0 : State} {n : Nat} {s : State}  (kh : Kept μ s0 s) :
    Kept μ s0 (flrReset n s) := by
  have k_modFn : 4398046511104 &&& μ = 4398046511104 := sub_of hw rfl
  have i42 : μ.testBit 42 = true := bit_of hw rfl
  have i43 : μ.testBit 43 = true := bit_of hw rfl
  have i44 : μ.testBit 44 = true := bit_of hw rfl
  have i46 : μ.testBit 46 = true := bit_of hw rfl
  have i47 : μ.testBit 47 = true := bit_of hw rfl
  have i48 : μ.testBit 48 = true := bit_of hw rfl
  have i49 : μ.testBit 49 = true := bit_of hw rfl
  have i50 : μ.testBit 50 = true := bit_of hw rfl
  have i51 : μ.testBit 51 = true := bit_of hw rfl
  have i52 : μ.testBit 52 = true := bit_of hw rfl
  unfold flrReset
  repeat' first
    | with_reducible assumption
    | (intro s; with_reducible refine (fun (hs : Kept μ s0 s) => ?_) ?_)
    | intro x
    | lift_lets
    | with_reducible refine kept_modFn k_modFn (.inr i43) (.inr i44) smf (.inr i46) (.inr i47) (.inr i48) (.inr i49) (.inr i50) (.inr i51) (.inr i52) smf ?_
    | (fail_if_no_progress with_reducible refine Kept.mk' ?_  (h_hp := .inr ⟨i42, .inr i43, .inr i44, sm, .inr i46, .inr i47, .inr i48, .inr i49, .inr i50, .inr i51, .inr i52, sm⟩))
    | split
    | dsimp +zetaDelta only

theorem kept_dropHostTx {μ : Nat} (hw : 4507997673881648 &&& μ = 4507997673881648) {s0 : State} {n : Nat} {s : State}  (kh : Kept μ s0 s) :
    Kept μ s0 (dropHostTx n s) := by
  have k_modFn : 4398046511104 &&& μ = 4398046511104 := sub_of hw rfl
  have i4 : μ.testBit 4 = true := bit_of hw rfl
  have i5 : μ.testBit 5 = true := bit_of hw rfl
  have i42 : μ.testBit 42 = true := bit_of hw rfl
  have i52 : μ.testBit 52 = true := bit_of hw rfl
  unfold dropHostTx
  repeat' first
    | with_reducible assumption
    | (intro s; with_reducible refine (fun (hs : Kept μ s0 s) => ?_) ?_)
    | intro x
    | lift_lets
    | with_reducible refine kept_modFn k_modFn smf smf smf smf smf smf smf smf smf (.inr i52) smf ?_
    | (fail_if_no_progress with_reducible refine Kept.mk' ?_  (h_eth := .inr ⟨i4, .inr i5, sm, sm⟩) (h_hp := .inr ⟨i42, sm, sm, sm, sm, sm, sm, sm, sm, sm, .inr i52, sm⟩))
    | split
    | dsimp +zetaDelta only

theorem kept_execFunctionLevelReset {μ : Nat} (hw : 17974816090882096 &&& μ = 17974816090882096) {s0 : State} {n : Nat} {s : State}  (kh : Kept μ s0 s) :
    KeptOut μ s0 (execFunctionLevelReset n s) := by
  have k_act : 0 &&& μ = 0 := sub_of hw rfl
  have k_dropHostTx : 4507997673881648 &&& μ = 4507997673881648 := sub_of hw rfl
  have k_flrReset : 8967616836141056 &&& μ = 8967616836141056 := sub_of hw rfl
  have k_modFn : 4398046511104 &&& μ = 4398046511104 := sub_of hw rfl
  have i4 : μ.testBit 4 = true := bit_of hw rfl
  have i5 : μ.testBit 5 = true := bit_of hw rfl
  have i42 : μ.testBit 42 = true := bit_of hw rfl
  have i43 : μ.testBit 43 = true := bit_of hw rfl
  have i44 : μ.testBit 44 = true := bit_of hw rfl
  have i46 : μ.testBit 46 = true := bit_of hw rfl
  have i47 : μ.testBit 47 = true := bit_of hw rfl
  have i48 : μ.testBit 48 = true := bit_of hw rfl
  have i49 : μ.testBit 49 = true := bit_of hw rfl
  have i50 : μ.testBit 50 = true := bit_of hw rfl
  have i51 : μ.testBit 51 = true := bit_of hw rfl
  have i52 : μ.testBit 52 = true := bit_of hw rfl
  have i53 : μ.testBit 53 = true := bit_of hw rfl
  unfold execFunctionLevelReset
  repeat' first
    | with_reducible assumption
    | (intro s; with_reducible refine (fun (hs : Kept μ s0 s) => ?_) ?_)
    | intro x
    | lift_lets
    | with_reducible refine kept_act k_act (fun s hs => ?_) ?_
    | with_reducible refine kept_modFn k_modFn (.inr i43) (.inr i44) smf (.inr i46) (.inr i47) (.inr i48) (.inr i49) (.inr i50) (.inr i51) (.inr i52) (.inr i53) ?_
    | with_reducible refine kept_flrReset k_flrReset ?_
    | with_reducible refine kept_dropHostTx k_dropHostTx ?_
    | (fail_if_no_progress with_reducible refine Kept.mk' ?_  (h_eth := .inr ⟨i4, .inr i5, sm, sm⟩) (h_hp := .inr ⟨i42, .inr i43, .inr i44, sm, .inr i46, .inr i47, .inr i48, .inr i49, .inr i50, .inr i51, .inr i52, .inr i53⟩))
    | split
    | with_reducible refine KeptOut.mk' ?_
    | dsimp +zetaDelta only

theorem kept_execBusMasterDisable {μ : Nat} (hw : 9011597301252096 &&& μ = 9011597301252096) {s0 : State} {n : Nat} {s : State}  (kh : Kept μ s0 s) :
    KeptOut μ s0 (execBusMasterDisable n s) := by
  have k_act : 0 &&& μ = 0 := sub_of hw rfl
  have k_modFn : 4398046511104 &&& μ = 4398046511104 := sub_of hw rfl
  have i42 : μ.testBit 42 = true := bit_of hw rfl
  have i53 : μ.testBit 53 = true := bit_of hw rfl
  unfold execBusMasterDisable
  repeat' first
    | with_reducible assumption
    | (intro s; with_reducible refine (fun (hs : Kept μ s0 s) => ?_) ?_)
    | intro x
    | lift_lets
    | with_reducible refine kept_act k_act (fun s hs => ?_) ?_
    | with_reducible refine kept_modFn k_modFn smf smf smf smf smf smf smf smf smf smf (.inr i53) ?_
    | (fail_if_no_progress with_reducible refine Kept.mk' ?_  (h_hp := .inr ⟨i42, sm, sm, sm, sm, sm, sm, sm, sm, sm, sm, .inr i53⟩))
    | split
    | with_reducible refine KeptOut.mk' ?_
    | dsimp +zetaDelta only

theorem kept_execBusMasterEnable {μ : Nat} (hw : 9011597301252096 &&& μ = 9011597301252096) {s0 : State} {n : Nat} {s : State}  (kh : Kept μ s0 s) :
    KeptOut μ s0 (execBusMasterEnable n s) := by
  have k_act : 0 &&& μ = 0 := sub_of hw rfl
  have k_modFn : 4398046511104 &&& μ = 4398046511104 := sub_of hw rfl
  have i42 : μ.testBit 42 = true := bit_of hw rfl
  have i53 : μ.testBit 53 = true := bit_of hw rfl
  unfold execBusMasterEnable
  repeat' first
    | with_reducible assumption
    | (intro s; with_reducible refine (fun (hs : Kept μ s0 s) => ?_) ?_)
    | intro x
    | lift_lets
    | with_reducible refine kept_act k_act (fun s hs => ?_) ?_
    | with_reducible refine kept_modFn k_modFn smf smf smf smf smf smf smf smf smf smf (.inr i53) ?_
    | (fail_if_no_progress with_reducible refine Kept.mk' ?_  (h_hp := .inr ⟨i42, sm, sm, sm, sm, sm, sm, sm, sm, sm, sm, .inr i53⟩))
    | split
    | with_reducible refine KeptOut.mk' ?_
    | dsimp +zetaDelta only

end Sys2Proof.Machine
end

