-- ==== Sys2Proof/Laws/KeptPair.lean ====
section
/-!
SUPPORT. Sys2Proof/Laws/KeptPair.lean: every operation of Pair.lean keeps what no command changes, and the parts that it does not write (Kept.lean).
-/
set_option Elab.async false
set_option linter.unusedTactic false
set_option linter.unreachableTactic false
set_option linter.unusedVariables false
namespace Sys2Proof.Machine

theorem kept_modUnit {μ : Nat} (hw : 18014398509481984 &&& μ = 18014398509481984) {s0 : State} {F : Pair → Pair} {s : State}
    (hf_role : (∀ f : Pair, ((F f).role, (F f).auth) = (f.role, f.auth)) ∨ μ.testBit 55 = true)
    (hf_lease : (∀ f : Pair, ((F f).leaseEnd, (F f).witAt, (F f).witOk) = (f.leaseEnd, f.witAt, f.witOk)) ∨ μ.testBit 56 = true)
    (hf_genImg : (∀ f : Pair, (F f).img = f.img) ∨ μ.testBit 57 = true)
    (kh : Kept μ s0 s) : Kept μ s0 (modUnit F s) := by
  have i54 : μ.testBit 54 = true := bit_of hw rfl
  exact Kept.mk' kh  (h_pair := .inr ⟨i54, hf_role.imp (fun h => h s.pair) id, hf_lease.imp (fun h => h s.pair) id, hf_genImg.imp (fun h => h s.pair) id⟩)

theorem kept_pairFlag {μ : Nat} (hw : 13194139533312 &&& μ = 13194139533312) {s0 : State} {b : Nat} {s : State}  (kh : Kept μ s0 s) :
    Kept μ s0 (pairFlag b s) := by
  have k_setFlag : 13194139533312 &&& μ = 13194139533312 := sub_of hw rfl
  unfold pairFlag
  repeat' first
    | with_reducible assumption
    | (intro s; with_reducible refine (fun (hs : Kept μ s0 s) => ?_) ?_)
    | intro x
    | lift_lets
    | with_reducible refine kept_setFlag k_setFlag ?_
    | split
    | dsimp +zetaDelta only

theorem kept_setRole {μ : Nat} (hw : 906694418837730293186560 &&& μ = 906694418837730293186560) {s0 : State} {r : Nat} {s : State}  (kh : Kept μ s0 s) :
    Kept μ s0 (setRole r s) := by
  have k_modUnit : 18014398509481984 &&& μ = 18014398509481984 := sub_of hw rfl
  have k_pairFlag : 13194139533312 &&& μ = 13194139533312 := sub_of hw rfl
  have k_raise : 906694364785738671718400 &&& μ = 906694364785738671718400 := sub_of hw rfl
  have i42 : μ.testBit 42 = true := bit_of hw rfl
  have i43 : μ.testBit 43 = true := bit_of hw rfl
  have i46 : μ.testBit 46 = true := bit_of hw rfl
  have i54 : μ.testBit 54 = true := bit_of hw rfl
  have i55 : μ.testBit 55 = true := bit_of hw rfl
  have i78 : μ.testBit 78 = true := bit_of hw rfl
  have i79 : μ.testBit 79 = true := bit_of hw rfl
  unfold setRole
  repeat' first
    | with_reducible assumption
    | (intro s; with_reducible refine (fun (hs : Kept μ s0 s) => ?_) ?_)
    | intro x
    | lift_lets
    | with_reducible refine kept_raise k_raise ?_
    | with_reducible refine kept_modUnit k_modUnit (.inr i55) smf smf ?_
    | with_reducible refine kept_pairFlag k_pairFlag ?_
    | (fail_if_no_progress with_reducible refine Kept.mk' ?_  (h_hp := .inr ⟨i42, .inr i43, sm, sm, .inr i46, sm, sm, sm, sm, sm, sm, sm⟩) (h_pair := .inr ⟨i54, .inr i55, sm, sm⟩) (h_evLog := .inr i78) (h_evLogSeq := .inr i79))
    | split
    | dsimp +zetaDelta only

theorem kept_nextSeqC {μ : Nat} (hw : 1170935903116328960 &&& μ = 1170935903116328960) {s0 : State} {s : State}  (kh : Kept μ s0 s) :
    KeptS μ s0 (nextSeqC s) := by
  have k_modUnit : 18014398509481984 &&& μ = 18014398509481984 := sub_of hw rfl
  have i54 : μ.testBit 54 = true := bit_of hw rfl
  have i60 : μ.testBit 60 = true := bit_of hw rfl
  unfold nextSeqC
  repeat' first
    | with_reducible assumption
    | (intro s; with_reducible refine (fun (hs : Kept μ s0 s) => ?_) ?_)
    | intro x
    | lift_lets
    | with_reducible refine kept_modUnit k_modUnit smf smf smf ?_
    | (fail_if_no_progress with_reducible refine Kept.mk' ?_  (h_pair := .inr ⟨i54, sm, sm, sm⟩) (h_nv := .inr ⟨i60, sm, sm, sm, sm, sm, sm, sm⟩))
    | split
    | with_reducible refine KeptS.mk' ?_
    | dsimp +zetaDelta only

theorem kept_nextSeqW {μ : Nat} (hw : 1170935903116328960 &&& μ = 1170935903116328960) {s0 : State} {s : State}  (kh : Kept μ s0 s) :
    KeptS μ s0 (nextSeqW s) := by
  have k_modUnit : 18014398509481984 &&& μ = 18014398509481984 := sub_of hw rfl
  have i54 : μ.testBit 54 = true := bit_of hw rfl
  have i60 : μ.testBit 60 = true := bit_of hw rfl
  unfold nextSeqW
  repeat' first
    | with_reducible assumption
    | (intro s; with_reducible refine (fun (hs : Kept μ s0 s) => ?_) ?_)
    | intro x
    | lift_lets
    | with_reducible refine kept_modUnit k_modUnit smf smf smf ?_
    | (fail_if_no_progress with_reducible refine Kept.mk' ?_  (h_pair := .inr ⟨i54, sm, sm, sm⟩) (h_nv := .inr ⟨i60, sm, sm, sm, sm, sm, sm, sm⟩))
    | split
    | with_reducible refine KeptS.mk' ?_
    | dsimp +zetaDelta only

theorem kept_pairKeyUpdated {μ : Nat} (hw : 18014398509481984 &&& μ = 18014398509481984) {s0 : State} {k : Nat} {s : State}  (kh : Kept μ s0 s) :
    Kept μ s0 (pairKeyUpdated k s) := by
  have k_modUnit : 18014398509481984 &&& μ = 18014398509481984 := sub_of hw rfl
  have i54 : μ.testBit 54 = true := bit_of hw rfl
  unfold pairKeyUpdated
  repeat' first
    | with_reducible assumption
    | (intro s; with_reducible refine (fun (hs : Kept μ s0 s) => ?_) ?_)
    | intro x
    | lift_lets
    | with_reducible refine kept_modUnit k_modUnit smf smf smf ?_
    | (fail_if_no_progress with_reducible refine Kept.mk' ?_  (h_pair := .inr ⟨i54, sm, sm, sm⟩))
    | split
    | dsimp +zetaDelta only

theorem kept_takePairMsg {μ : Nat} (hw : 113 &&& μ = 113) {s0 : State} {p : PairMsg → Bool} {s : State}  (kh : Kept μ s0 s) :
    KeptOS μ s0 (takePairMsg p s) := by
  have k_takeFrame : 113 &&& μ = 113 := sub_of hw rfl
  have i0 : μ.testBit 0 = true := bit_of hw rfl
  have i4 : μ.testBit 4 = true := bit_of hw rfl
  have i5 : μ.testBit 5 = true := bit_of hw rfl
  have i6 : μ.testBit 6 = true := bit_of hw rfl
  unfold takePairMsg
  repeat' first
    | with_reducible assumption
    | (intro s; with_reducible refine (fun (hs : Kept μ s0 s) => ?_) ?_)
    | intro x
    | lift_lets
    | with_reducible refine kept_takeFrame k_takeFrame ?_
    | with_reducible exact KeptOS.none
    | with_reducible refine KeptOS.eq (by with_reducible assumption) ?_
    | (fail_if_no_progress with_reducible refine Kept.mk' ?_  (h_tb := .inr ⟨i0, sm, sm, sm⟩) (h_eth := .inr ⟨i4, .inr i5, .inr i6, sm⟩))
    | split
    | with_reducible refine KeptOS.mk' ?_
    | dsimp +zetaDelta only

theorem kept_hbReject {μ : Nat} (hw : 982252228520449088159744 &&& μ = 982252228520449088159744) {s0 : State} {s : State}  (kh : Kept μ s0 s) :
    Kept μ s0 (hbReject s) := by
  have k_flagCount : 982252228520449088159744 &&& μ = 982252228520449088159744 := sub_of hw rfl
  unfold hbReject
  repeat' first
    | with_reducible assumption
    | (intro s; with_reducible refine (fun (hs : Kept μ s0 s) => ?_) ?_)
    | intro x
    | lift_lets
    | with_reducible refine kept_flagCount k_flagCount ?_
    | split
    | dsimp +zetaDelta only

theorem kept_witReject {μ : Nat} (hw : 982252228520449088159744 &&& μ = 982252228520449088159744) {s0 : State} {s : State}  (kh : Kept μ s0 s) :
    Kept μ s0 (witReject s) := by
  have k_flagCount : 982252228520449088159744 &&& μ = 982252228520449088159744 := sub_of hw rfl
  unfold witReject
  repeat' first
    | with_reducible assumption
    | (intro s; with_reducible refine (fun (hs : Kept μ s0 s) => ?_) ?_)
    | intro x
    | lift_lets
    | with_reducible refine kept_flagCount k_flagCount ?_
    | split
    | dsimp +zetaDelta only

theorem kept_peerCheck {μ : Nat} (hw : 1133367955972277734998016 &&& μ = 1133367955972277734998016) {s0 : State} {m : PairMsg} {s : State}  (kh : Kept μ s0 s) :
    KeptF μ s0 (peerCheck m s) := by
  have k_macVerify : 1133367955972277734998016 &&& μ = 1133367955972277734998016 := sub_of hw rfl
  unfold peerCheck
  repeat' first
    | with_reducible assumption
    | (intro s; with_reducible refine (fun (hs : Kept μ s0 s) => ?_) ?_)
    | intro x
    | lift_lets
    | with_reducible refine kept_macVerify k_macVerify ?_
    | with_reducible refine KeptF.eq (by with_reducible assumption) ?_
    | split
    | with_reducible refine KeptF.mk' ?_
    | with_reducible refine KeptF.fst ?_
    | dsimp +zetaDelta only

theorem kept_signedCalfa {μ : Nat} (hw : 1133369126908180851326976 &&& μ = 1133369126908180851326976) {s0 : State} {typ : Nat} {body : List Byte} {s : State}  (kh : Kept μ s0 s) :
    KeptF μ s0 (signedCalfa typ body s) := by
  have k_macSign : 1133367955972277734998016 &&& μ = 1133367955972277734998016 := sub_of hw rfl
  have k_nextSeqC : 1170935903116328960 &&& μ = 1170935903116328960 := sub_of hw rfl
  have i42 : μ.testBit 42 = true := bit_of hw rfl
  have i43 : μ.testBit 43 = true := bit_of hw rfl
  have i46 : μ.testBit 46 = true := bit_of hw rfl
  have i54 : μ.testBit 54 = true := bit_of hw rfl
  have i60 : μ.testBit 60 = true := bit_of hw rfl
  have i76 : μ.testBit 76 = true := bit_of hw rfl
  have i77 : μ.testBit 77 = true := bit_of hw rfl
  have i78 : μ.testBit 78 = true := bit_of hw rfl
  have i79 : μ.testBit 79 = true := bit_of hw rfl
  unfold signedCalfa
  repeat' first
    | with_reducible assumption
    | (intro s; with_reducible refine (fun (hs : Kept μ s0 s) => ?_) ?_)
    | intro x
    | lift_lets
    | with_reducible refine kept_macSign k_macSign ?_
    | with_reducible refine kept_nextSeqC k_nextSeqC ?_
    | with_reducible refine KeptF.eq (by with_reducible assumption) ?_
    | with_reducible refine KeptS.eq (by with_reducible assumption) ?_
    | (fail_if_no_progress with_reducible refine Kept.mk' ?_  (h_hp := .inr ⟨i42, .inr i43, sm, sm, .inr i46, sm, sm, sm, sm, sm, sm, sm⟩) (h_pair := .inr ⟨i54, sm, sm, sm⟩) (h_nv := .inr ⟨i60, sm, sm, sm, sm, sm, sm, sm⟩) (h_cnt := .inr i76) (h_limits := .inr i77) (h_evLog := .inr i78) (h_evLogSeq := .inr i79))
    | split
    | with_reducible refine KeptF.mk' ?_
    | with_reducible refine KeptS.mk' ?_
    | with_reducible refine KeptF.fst ?_
    | with_reducible refine KeptS.snd ?_
    | dsimp +zetaDelta only

theorem kept_sendUdp {μ : Nat} (hw : 982252233059233087619120 &&& μ = 982252233059233087619120) {s0 : State} {mask dst dport : Nat} {bs : List Byte} {s : State}  (kh : Kept μ s0 s) :
    Kept μ s0 (sendUdp mask dst dport bs s) := by
  have k_enqueueMask : 982252233059233087619120 &&& μ = 982252233059233087619120 := sub_of hw rfl
  unfold sendUdp
  repeat' first
    | with_reducible assumption
    | (intro s; with_reducible refine (fun (hs : Kept μ s0 s) => ?_) ?_)
    | intro x
    | lift_lets
    | with_reducible refine kept_enqueueMask k_enqueueMask ?_
    | split
    | dsimp +zetaDelta only

theorem kept_execHeartbeatSend {μ : Nat} (hw : 1133369131446964850786352 &&& μ = 1133369131446964850786352) {s0 : State} {s : State}  (kh : Kept μ s0 s) :
    KeptOut μ s0 (execHeartbeatSend s) := by
  have k_act : 0 &&& μ = 0 := sub_of hw rfl
  have k_count : 982252228520449088159744 &&& μ = 982252228520449088159744 := sub_of hw rfl
  have k_enqueue1 : 982252233059233087619120 &&& μ = 982252233059233087619120 := sub_of hw rfl
  have k_modUnit : 18014398509481984 &&& μ = 18014398509481984 := sub_of hw rfl
  have k_sendUdp : 982252233059233087619120 &&& μ = 982252233059233087619120 := sub_of hw rfl
  have k_signedCalfa : 1133369126908180851326976 &&& μ = 1133369126908180851326976 := sub_of hw rfl
  have i4 : μ.testBit 4 = true := bit_of hw rfl
  have i5 : μ.testBit 5 = true := bit_of hw rfl
  have i42 : μ.testBit 42 = true := bit_of hw rfl
  have i43 : μ.testBit 43 = true := bit_of hw rfl
  have i45 : μ.testBit 45 = true := bit_of hw rfl
  have i46 : μ.testBit 46 = true := bit_of hw rfl
  have i52 : μ.testBit 52 = true := bit_of hw rfl
  have i54 : μ.testBit 54 = true := bit_of hw rfl
  have i60 : μ.testBit 60 = true := bit_of hw rfl
  have i76 : μ.testBit 76 = true := bit_of hw rfl
  have i77 : μ.testBit 77 = true := bit_of hw rfl
  have i78 : μ.testBit 78 = true := bit_of hw rfl
  have i79 : μ.testBit 79 = true := bit_of hw rfl
  unfold execHeartbeatSend
  repeat' first
    | with_reducible assumption
    | (intro s; with_reducible refine (fun (hs : Kept μ s0 s) => ?_) ?_)
    | intro x
    | lift_lets
    | with_reducible refine kept_act k_act (fun s hs => ?_) ?_
    | with_reducible refine kept_count k_count ?_
    | with_reducible refine kept_enqueue1 k_enqueue1 ?_
    | with_reducible refine kept_modUnit k_modUnit smf smf smf ?_
    | with_reducible refine kept_signedCalfa k_signedCalfa ?_
    | with_reducible refine kept_sendUdp k_sendUdp ?_
    | with_reducible refine KeptF.eq (by with_reducible assumption) ?_
    | (fail_if_no_progress with_reducible refine Kept.mk' ?_  (h_eth := .inr ⟨i4, .inr i5, sm, sm⟩) (h_hp := .inr ⟨i42, .inr i43, sm, .inr i45, .inr i46, sm, sm, sm, sm, sm, .inr i52, sm⟩) (h_pair := .inr ⟨i54, sm, sm, sm⟩) (h_nv := .inr ⟨i60, sm, sm, sm, sm, sm, sm, sm⟩) (h_cnt := .inr i76) (h_limits := .inr i77) (h_evLog := .inr i78) (h_evLogSeq := .inr i79))
    | split
    | with_reducible refine KeptOut.mk' ?_
    | with_reducible refine KeptF.mk' ?_
    | with_reducible refine KeptF.fst ?_
    | dsimp +zetaDelta only

theorem kept_pairUnsync {μ : Nat} (hw : 906694382808933274222592 &&& μ = 906694382808933274222592) {s0 : State} {reason : Nat} {s : State}  (kh : Kept μ s0 s) :
    Kept μ s0 (pairUnsync reason s) := by
  have k_modUnit : 18014398509481984 &&& μ = 18014398509481984 := sub_of hw rfl
  have k_pairFlag : 13194139533312 &&& μ = 13194139533312 := sub_of hw rfl
  have k_raise : 906694364785738671718400 &&& μ = 906694364785738671718400 := sub_of hw rfl
  have i42 : μ.testBit 42 = true := bit_of hw rfl
  have i43 : μ.testBit 43 = true := bit_of hw rfl
  have i46 : μ.testBit 46 = true := bit_of hw rfl
  have i54 : μ.testBit 54 = true := bit_of hw rfl
  have i78 : μ.testBit 78 = true := bit_of hw rfl
  have i79 : μ.testBit 79 = true := bit_of hw rfl
  unfold pairUnsync
  repeat' first
    | with_reducible assumption
    | (intro s; with_reducible refine (fun (hs : Kept μ s0 s) => ?_) ?_)
    | intro x
    | lift_lets
    | with_reducible refine kept_raise k_raise ?_
    | with_reducible refine kept_modUnit k_modUnit smf smf smf ?_
    | with_reducible refine kept_pairFlag k_pairFlag ?_
    | (fail_if_no_progress with_reducible refine Kept.mk' ?_  (h_hp := .inr ⟨i42, .inr i43, sm, sm, .inr i46, sm, sm, sm, sm, sm, sm, sm⟩) (h_pair := .inr ⟨i54, sm, sm, sm⟩) (h_evLog := .inr i78) (h_evLogSeq := .inr i79))
    | split
    | dsimp +zetaDelta only

theorem kept_handoverSeen {μ : Nat} (hw : 906694383125592623022080 &&& μ = 906694383125592623022080) {s0 : State} {s : State}  (kh : Kept μ s0 s) :
    Kept μ s0 (handoverSeen s) := by
  have k_complete : 906694365111194113540096 &&& μ = 906694365111194113540096 := sub_of hw rfl
  have k_modUnit : 18014398509481984 &&& μ = 18014398509481984 := sub_of hw rfl
  have i42 : μ.testBit 42 = true := bit_of hw rfl
  have i43 : μ.testBit 43 = true := bit_of hw rfl
  have i45 : μ.testBit 45 = true := bit_of hw rfl
  have i46 : μ.testBit 46 = true := bit_of hw rfl
  have i48 : μ.testBit 48 = true := bit_of hw rfl
  have i54 : μ.testBit 54 = true := bit_of hw rfl
  have i78 : μ.testBit 78 = true := bit_of hw rfl
  have i79 : μ.testBit 79 = true := bit_of hw rfl
  unfold handoverSeen
  repeat' first
    | with_reducible assumption
    | (intro s; with_reducible refine (fun (hs : Kept μ s0 s) => ?_) ?_)
    | intro x
    | lift_lets
    | with_reducible refine kept_complete k_complete ?_
    | with_reducible refine kept_modUnit k_modUnit smf smf smf ?_
    | (fail_if_no_progress with_reducible refine Kept.mk' ?_  (h_hp := .inr ⟨i42, .inr i43, sm, .inr i45, .inr i46, sm, .inr i48, sm, sm, sm, sm, sm⟩) (h_pair := .inr ⟨i54, sm, sm, sm⟩) (h_evLog := .inr i78) (h_evLogSeq := .inr i79))
    | split
    | dsimp +zetaDelta only

theorem kept_hbAccept {μ : Nat} (hw : 982252282880303965405184 &&& μ = 982252282880303965405184) {s0 : State} {m : PairMsg} {s : State}  (kh : Kept μ s0 s) :
    Kept μ s0 (hbAccept m s) := by
  have k_count : 982252228520449088159744 &&& μ = 982252228520449088159744 := sub_of hw rfl
  have k_handoverSeen : 906694383125592623022080 &&& μ = 906694383125592623022080 := sub_of hw rfl
  have k_modUnit : 18014398509481984 &&& μ = 18014398509481984 := sub_of hw rfl
  have k_pairUnsync : 906694382808933274222592 &&& μ = 906694382808933274222592 := sub_of hw rfl
  have k_raise : 906694364785738671718400 &&& μ = 906694364785738671718400 := sub_of hw rfl
  have k_setRole : 906694418837730293186560 &&& μ = 906694418837730293186560 := sub_of hw rfl
  have i42 : μ.testBit 42 = true := bit_of hw rfl
  have i43 : μ.testBit 43 = true := bit_of hw rfl
  have i45 : μ.testBit 45 = true := bit_of hw rfl
  have i46 : μ.testBit 46 = true := bit_of hw rfl
  have i48 : μ.testBit 48 = true := bit_of hw rfl
  have i54 : μ.testBit 54 = true := bit_of hw rfl
  have i55 : μ.testBit 55 = true := bit_of hw rfl
  have i76 : μ.testBit 76 = true := bit_of hw rfl
  have i78 : μ.testBit 78 = true := bit_of hw rfl
  have i79 : μ.testBit 79 = true := bit_of hw rfl
  unfold hbAccept
  repeat' first
    | with_reducible assumption
    | (intro s; with_reducible refine (fun (hs : Kept μ s0 s) => ?_) ?_)
    | intro x
    | lift_lets
    | with_reducible refine kept_raise k_raise ?_
    | with_reducible refine kept_count k_count ?_
    | with_reducible refine kept_modUnit k_modUnit (.inr i55) smf smf ?_
    | with_reducible refine kept_setRole k_setRole ?_
    | with_reducible refine kept_pairUnsync k_pairUnsync ?_
    | with_reducible refine kept_handoverSeen k_handoverSeen ?_
    | (fail_if_no_progress with_reducible refine Kept.mk' ?_  (h_hp := .inr ⟨i42, .inr i43, sm, .inr i45, .inr i46, sm, .inr i48, sm, sm, sm, sm, sm⟩) (h_pair := .inr ⟨i54, .inr i55, sm, sm⟩) (h_cnt := .inr i76) (h_evLog := .inr i78) (h_evLogSeq := .inr i79))
    | split
    | dsimp +zetaDelta only

theorem kept_execHeartbeatRx {μ : Nat} (hw : 1133368010332132612243569 &&& μ = 1133368010332132612243569) {s0 : State} {s : State}  (kh : Kept μ s0 s) :
    KeptOut μ s0 (execHeartbeatRx s) := by
  have k_act : 0 &&& μ = 0 := sub_of hw rfl
  have k_hbAccept : 982252282880303965405184 &&& μ = 982252282880303965405184 := sub_of hw rfl
  have k_hbReject : 982252228520449088159744 &&& μ = 982252228520449088159744 := sub_of hw rfl
  have k_peerCheck : 1133367955972277734998016 &&& μ = 1133367955972277734998016 := sub_of hw rfl
  have k_takePairMsg : 113 &&& μ = 113 := sub_of hw rfl
  have i0 : μ.testBit 0 = true := bit_of hw rfl
  have i4 : μ.testBit 4 = true := bit_of hw rfl
  have i5 : μ.testBit 5 = true := bit_of hw rfl
  have i6 : μ.testBit 6 = true := bit_of hw rfl
  have i42 : μ.testBit 42 = true := bit_of hw rfl
  have i43 : μ.testBit 43 = true := bit_of hw rfl
  have i45 : μ.testBit 45 = true := bit_of hw rfl
  have i46 : μ.testBit 46 = true := bit_of hw rfl
  have i48 : μ.testBit 48 = true := bit_of hw rfl
  have i54 : μ.testBit 54 = true := bit_of hw rfl
  have i55 : μ.testBit 55 = true := bit_of hw rfl
  have i76 : μ.testBit 76 = true := bit_of hw rfl
  have i77 : μ.testBit 77 = true := bit_of hw rfl
  have i78 : μ.testBit 78 = true := bit_of hw rfl
  have i79 : μ.testBit 79 = true := bit_of hw rfl
  unfold execHeartbeatRx
  repeat' first
    | with_reducible assumption
    | (intro s; with_reducible refine (fun (hs : Kept μ s0 s) => ?_) ?_)
    | intro x
    | lift_lets
    | with_reducible refine kept_act k_act (fun s hs => ?_) ?_
    | with_reducible refine kept_takePairMsg k_takePairMsg ?_
    | with_reducible refine kept_hbReject k_hbReject ?_
    | with_reducible refine kept_peerCheck k_peerCheck ?_
    | with_reducible refine kept_hbAccept k_hbAccept ?_
    | with_reducible refine KeptF.eq (by with_reducible assumption) ?_
    | with_reducible refine KeptOS.eq (by with_reducible assumption) ?_
    | (fail_if_no_progress with_reducible refine Kept.mk' ?_  (h_tb := .inr ⟨i0, sm, sm, sm⟩) (h_eth := .inr ⟨i4, .inr i5, .inr i6, sm⟩) (h_hp := .inr ⟨i42, .inr i43, sm, .inr i45, .inr i46, sm, .inr i48, sm, sm, sm, sm, sm⟩) (h_pair := .inr ⟨i54, .inr i55, sm, sm⟩) (h_cnt := .inr i76) (h_limits := .inr i77) (h_evLog := .inr i78) (h_evLogSeq := .inr i79))
    | split
    | with_reducible refine KeptOut.mk' ?_
    | with_reducible refine KeptF.mk' ?_
    | with_reducible refine KeptF.fst ?_
    | dsimp +zetaDelta only

theorem kept_execHeartbeatCheck {μ : Nat} (hw : 982252246534847597641728 &&& μ = 982252246534847597641728) {s0 : State} {s : State}  (kh : Kept μ s0 s) :
    KeptOut μ s0 (execHeartbeatCheck s) := by
  have k_act : 0 &&& μ = 0 := sub_of hw rfl
  have k_count : 982252228520449088159744 &&& μ = 982252228520449088159744 := sub_of hw rfl
  have k_modUnit : 18014398509481984 &&& μ = 18014398509481984 := sub_of hw rfl
  have k_pairFlag : 13194139533312 &&& μ = 13194139533312 := sub_of hw rfl
  have k_raise : 906694364785738671718400 &&& μ = 906694364785738671718400 := sub_of hw rfl
  have i42 : μ.testBit 42 = true := bit_of hw rfl
  have i43 : μ.testBit 43 = true := bit_of hw rfl
  have i46 : μ.testBit 46 = true := bit_of hw rfl
  have i54 : μ.testBit 54 = true := bit_of hw rfl
  have i76 : μ.testBit 76 = true := bit_of hw rfl
  have i78 : μ.testBit 78 = true := bit_of hw rfl
  have i79 : μ.testBit 79 = true := bit_of hw rfl
  unfold execHeartbeatCheck
  repeat' first
    | with_reducible assumption
    | (intro s; with_reducible refine (fun (hs : Kept μ s0 s) => ?_) ?_)
    | intro x
    | lift_lets
    | with_reducible refine kept_act k_act (fun s hs => ?_) ?_
    | with_reducible refine kept_raise k_raise ?_
    | with_reducible refine kept_count k_count ?_
    | with_reducible refine kept_modUnit k_modUnit smf smf smf ?_
    | with_reducible refine kept_pairFlag k_pairFlag ?_
    | (fail_if_no_progress with_reducible refine Kept.mk' ?_  (h_hp := .inr ⟨i42, .inr i43, sm, sm, .inr i46, sm, sm, sm, sm, sm, sm, sm⟩) (h_pair := .inr ⟨i54, sm, sm, sm⟩) (h_cnt := .inr i76) (h_evLog := .inr i78) (h_evLogSeq := .inr i79))
    | split
    | with_reducible refine KeptOut.mk' ?_
    | dsimp +zetaDelta only

theorem kept_pairTick {μ : Nat} (hw : 906694454866527312150528 &&& μ = 906694454866527312150528) {s0 : State} {s : State}  (kh : Kept μ s0 s) :
    Kept μ s0 (pairTick s) := by
  have k_modUnit : 18014398509481984 &&& μ = 18014398509481984 := sub_of hw rfl
  have k_pairFlag : 13194139533312 &&& μ = 13194139533312 := sub_of hw rfl
  have k_pairUnsync : 906694382808933274222592 &&& μ = 906694382808933274222592 := sub_of hw rfl
  have k_raise : 906694364785738671718400 &&& μ = 906694364785738671718400 := sub_of hw rfl
  have i42 : μ.testBit 42 = true := bit_of hw rfl
  have i43 : μ.testBit 43 = true := bit_of hw rfl
  have i46 : μ.testBit 46 = true := bit_of hw rfl
  have i54 : μ.testBit 54 = true := bit_of hw rfl
  have i56 : μ.testBit 56 = true := bit_of hw rfl
  have i78 : μ.testBit 78 = true := bit_of hw rfl
  have i79 : μ.testBit 79 = true := bit_of hw rfl
  unfold pairTick
  repeat' first
    | with_reducible assumption
    | (intro s; with_reducible refine (fun (hs : Kept μ s0 s) => ?_) ?_)
    | intro x
    | lift_lets
    | with_reducible refine kept_raise k_raise ?_
    | with_reducible refine kept_modUnit k_modUnit smf (.inr i56) smf ?_
    | with_reducible refine kept_pairFlag k_pairFlag ?_
    | with_reducible refine kept_pairUnsync k_pairUnsync ?_
    | (fail_if_no_progress with_reducible refine Kept.mk' ?_  (h_hp := .inr ⟨i42, .inr i43, sm, sm, .inr i46, sm, sm, sm, sm, sm, sm, sm⟩) (h_pair := .inr ⟨i54, sm, .inr i56, sm⟩) (h_evLog := .inr i78) (h_evLogSeq := .inr i79))
    | split
    | dsimp +zetaDelta only

theorem kept_calfaDown {μ : Nat} (hw : 906694382808933274222592 &&& μ = 906694382808933274222592) {s0 : State} {s : State}  (kh : Kept μ s0 s) :
    Kept μ s0 (calfaDown s) := by
  have k_modUnit : 18014398509481984 &&& μ = 18014398509481984 := sub_of hw rfl
  have k_pairUnsync : 906694382808933274222592 &&& μ = 906694382808933274222592 := sub_of hw rfl
  have i42 : μ.testBit 42 = true := bit_of hw rfl
  have i43 : μ.testBit 43 = true := bit_of hw rfl
  have i46 : μ.testBit 46 = true := bit_of hw rfl
  have i54 : μ.testBit 54 = true := bit_of hw rfl
  have i78 : μ.testBit 78 = true := bit_of hw rfl
  have i79 : μ.testBit 79 = true := bit_of hw rfl
  unfold calfaDown
  repeat' first
    | with_reducible assumption
    | (intro s; with_reducible refine (fun (hs : Kept μ s0 s) => ?_) ?_)
    | intro x
    | lift_lets
    | with_reducible refine kept_modUnit k_modUnit smf smf smf ?_
    | with_reducible refine kept_pairUnsync k_pairUnsync ?_
    | (fail_if_no_progress with_reducible refine Kept.mk' ?_  (h_hp := .inr ⟨i42, .inr i43, sm, sm, .inr i46, sm, sm, sm, sm, sm, sm, sm⟩) (h_pair := .inr ⟨i54, sm, sm, sm⟩) (h_evLog := .inr i78) (h_evLogSeq := .inr i79))
    | split
    | dsimp +zetaDelta only

theorem kept_sendLease {μ : Nat} (hw : 1133369131446964850786352 &&& μ = 1133369131446964850786352) {s0 : State} {typ : Nat} {claim : Word} {s : State}  (kh : Kept μ s0 s) :
    Kept μ s0 (sendLease typ claim s) := by
  have k_count : 982252228520449088159744 &&& μ = 982252228520449088159744 := sub_of hw rfl
  have k_macSign : 1133367955972277734998016 &&& μ = 1133367955972277734998016 := sub_of hw rfl
  have k_modUnit : 18014398509481984 &&& μ = 18014398509481984 := sub_of hw rfl
  have k_nextSeqW : 1170935903116328960 &&& μ = 1170935903116328960 := sub_of hw rfl
  have k_sendUdp : 982252233059233087619120 &&& μ = 982252233059233087619120 := sub_of hw rfl
  have i4 : μ.testBit 4 = true := bit_of hw rfl
  have i5 : μ.testBit 5 = true := bit_of hw rfl
  have i42 : μ.testBit 42 = true := bit_of hw rfl
  have i43 : μ.testBit 43 = true := bit_of hw rfl
  have i45 : μ.testBit 45 = true := bit_of hw rfl
  have i46 : μ.testBit 46 = true := bit_of hw rfl
  have i52 : μ.testBit 52 = true := bit_of hw rfl
  have i54 : μ.testBit 54 = true := bit_of hw rfl
  have i60 : μ.testBit 60 = true := bit_of hw rfl
  have i76 : μ.testBit 76 = true := bit_of hw rfl
  have i77 : μ.testBit 77 = true := bit_of hw rfl
  have i78 : μ.testBit 78 = true := bit_of hw rfl
  have i79 : μ.testBit 79 = true := bit_of hw rfl
  unfold sendLease
  repeat' first
    | with_reducible assumption
    | (intro s; with_reducible refine (fun (hs : Kept μ s0 s) => ?_) ?_)
    | intro x
    | lift_lets
    | with_reducible refine kept_count k_count ?_
    | with_reducible refine kept_macSign k_macSign ?_
    | with_reducible refine kept_modUnit k_modUnit smf smf smf ?_
    | with_reducible refine kept_nextSeqW k_nextSeqW ?_
    | with_reducible refine kept_sendUdp k_sendUdp ?_
    | with_reducible refine KeptF.eq (by with_reducible assumption) ?_
    | with_reducible refine KeptS.eq (by with_reducible assumption) ?_
    | (fail_if_no_progress with_reducible refine Kept.mk' ?_  (h_eth := .inr ⟨i4, .inr i5, sm, sm⟩) (h_hp := .inr ⟨i42, .inr i43, sm, .inr i45, .inr i46, sm, sm, sm, sm, sm, .inr i52, sm⟩) (h_pair := .inr ⟨i54, sm, sm, sm⟩) (h_nv := .inr ⟨i60, sm, sm, sm, sm, sm, sm, sm⟩) (h_cnt := .inr i76) (h_limits := .inr i77) (h_evLog := .inr i78) (h_evLogSeq := .inr i79))
    | split
    | with_reducible refine KeptF.mk' ?_
    | with_reducible refine KeptS.mk' ?_
    | with_reducible refine KeptF.fst ?_
    | with_reducible refine KeptS.snd ?_
    | dsimp +zetaDelta only

theorem kept_execLeaseMessageSend {μ : Nat} (hw : 1133369131446964850786352 &&& μ = 1133369131446964850786352) {s0 : State} {s : State}  (kh : Kept μ s0 s) :
    KeptOut μ s0 (execLeaseMessageSend s) := by
  have k_act : 0 &&& μ = 0 := sub_of hw rfl
  have k_modUnit : 18014398509481984 &&& μ = 18014398509481984 := sub_of hw rfl
  have k_sendLease : 1133369131446964850786352 &&& μ = 1133369131446964850786352 := sub_of hw rfl
  have i4 : μ.testBit 4 = true := bit_of hw rfl
  have i5 : μ.testBit 5 = true := bit_of hw rfl
  have i42 : μ.testBit 42 = true := bit_of hw rfl
  have i43 : μ.testBit 43 = true := bit_of hw rfl
  have i45 : μ.testBit 45 = true := bit_of hw rfl
  have i46 : μ.testBit 46 = true := bit_of hw rfl
  have i52 : μ.testBit 52 = true := bit_of hw rfl
  have i54 : μ.testBit 54 = true := bit_of hw rfl
  have i60 : μ.testBit 60 = true := bit_of hw rfl
  have i76 : μ.testBit 76 = true := bit_of hw rfl
  have i77 : μ.testBit 77 = true := bit_of hw rfl
  have i78 : μ.testBit 78 = true := bit_of hw rfl
  have i79 : μ.testBit 79 = true := bit_of hw rfl
  unfold execLeaseMessageSend
  repeat' first
    | with_reducible assumption
    | (intro s; with_reducible refine (fun (hs : Kept μ s0 s) => ?_) ?_)
    | intro x
    | lift_lets
    | with_reducible refine kept_act k_act (fun s hs => ?_) ?_
    | with_reducible refine kept_modUnit k_modUnit smf smf smf ?_
    | with_reducible refine kept_sendLease k_sendLease ?_
    | (fail_if_no_progress with_reducible refine Kept.mk' ?_  (h_eth := .inr ⟨i4, .inr i5, sm, sm⟩) (h_hp := .inr ⟨i42, .inr i43, sm, .inr i45, .inr i46, sm, sm, sm, sm, sm, .inr i52, sm⟩) (h_pair := .inr ⟨i54, sm, sm, sm⟩) (h_nv := .inr ⟨i60, sm, sm, sm, sm, sm, sm, sm⟩) (h_cnt := .inr i76) (h_limits := .inr i77) (h_evLog := .inr i78) (h_evLogSeq := .inr i79))
    | split
    | with_reducible refine KeptOut.mk' ?_
    | dsimp +zetaDelta only

theorem kept_answerCheck {μ : Nat} (hw : 1133367955972277734998016 &&& μ = 1133367955972277734998016) {s0 : State} {m : PairMsg} {s : State}  (kh : Kept μ s0 s) :
    KeptF μ s0 (answerCheck m s) := by
  have k_macVerify : 1133367955972277734998016 &&& μ = 1133367955972277734998016 := sub_of hw rfl
  unfold answerCheck
  repeat' first
    | with_reducible assumption
    | (intro s; with_reducible refine (fun (hs : Kept μ s0 s) => ?_) ?_)
    | intro x
    | lift_lets
    | with_reducible refine kept_macVerify k_macVerify ?_
    | with_reducible refine KeptF.eq (by with_reducible assumption) ?_
    | split
    | with_reducible refine KeptF.mk' ?_
    | with_reducible refine KeptF.fst ?_
    | dsimp +zetaDelta only

theorem kept_answerSeen {μ : Nat} (hw : 982252318592441635569664 &&& μ = 982252318592441635569664) {s0 : State} {m : PairMsg} {s : State}  (kh : Kept μ s0 s) :
    Kept μ s0 (answerSeen m s) := by
  have k_count : 982252228520449088159744 &&& μ = 982252228520449088159744 := sub_of hw rfl
  have k_modUnit : 18014398509481984 &&& μ = 18014398509481984 := sub_of hw rfl
  have k_raise : 906694364785738671718400 &&& μ = 906694364785738671718400 := sub_of hw rfl
  have i42 : μ.testBit 42 = true := bit_of hw rfl
  have i43 : μ.testBit 43 = true := bit_of hw rfl
  have i46 : μ.testBit 46 = true := bit_of hw rfl
  have i54 : μ.testBit 54 = true := bit_of hw rfl
  have i56 : μ.testBit 56 = true := bit_of hw rfl
  have i76 : μ.testBit 76 = true := bit_of hw rfl
  have i78 : μ.testBit 78 = true := bit_of hw rfl
  have i79 : μ.testBit 79 = true := bit_of hw rfl
  unfold answerSeen
  repeat' first
    | with_reducible assumption
    | (intro s; with_reducible refine (fun (hs : Kept μ s0 s) => ?_) ?_)
    | intro x
    | lift_lets
    | with_reducible refine kept_raise k_raise ?_
    | with_reducible refine kept_count k_count ?_
    | with_reducible refine kept_modUnit k_modUnit smf (.inr i56) smf ?_
    | (fail_if_no_progress with_reducible refine Kept.mk' ?_  (h_hp := .inr ⟨i42, .inr i43, sm, sm, .inr i46, sm, sm, sm, sm, sm, sm, sm⟩) (h_pair := .inr ⟨i54, sm, .inr i56, sm⟩) (h_cnt := .inr i76) (h_evLog := .inr i78) (h_evLogSeq := .inr i79))
    | split
    | dsimp +zetaDelta only

theorem kept_takeAnswer {μ : Nat} (hw : 1133368046044270282408049 &&& μ = 1133368046044270282408049) {s0 : State} {typ : Nat} {s : State}  (kh : Kept μ s0 s) :
    KeptF μ s0 (takeAnswer typ s) := by
  have k_answerCheck : 1133367955972277734998016 &&& μ = 1133367955972277734998016 := sub_of hw rfl
  have k_answerSeen : 982252318592441635569664 &&& μ = 982252318592441635569664 := sub_of hw rfl
  have k_takePairMsg : 113 &&& μ = 113 := sub_of hw rfl
  have k_witReject : 982252228520449088159744 &&& μ = 982252228520449088159744 := sub_of hw rfl
  have i0 : μ.testBit 0 = true := bit_of hw rfl
  have i4 : μ.testBit 4 = true := bit_of hw rfl
  have i5 : μ.testBit 5 = true := bit_of hw rfl
  have i6 : μ.testBit 6 = true := bit_of hw rfl
  have i42 : μ.testBit 42 = true := bit_of hw rfl
  have i43 : μ.testBit 43 = true := bit_of hw rfl
  have i46 : μ.testBit 46 = true := bit_of hw rfl
  have i54 : μ.testBit 54 = true := bit_of hw rfl
  have i56 : μ.testBit 56 = true := bit_of hw rfl
  have i76 : μ.testBit 76 = true := bit_of hw rfl
  have i77 : μ.testBit 77 = true := bit_of hw rfl
  have i78 : μ.testBit 78 = true := bit_of hw rfl
  have i79 : μ.testBit 79 = true := bit_of hw rfl
  unfold takeAnswer
  repeat' first
    | with_reducible assumption
    | (intro s; with_reducible refine (fun (hs : Kept μ s0 s) => ?_) ?_)
    | intro x
    | lift_lets
    | with_reducible refine kept_takePairMsg k_takePairMsg ?_
    | with_reducible refine kept_witReject k_witReject ?_
    | with_reducible refine kept_answerCheck k_answerCheck ?_
    | with_reducible refine kept_answerSeen k_answerSeen ?_
    | with_reducible refine KeptF.eq (by with_reducible assumption) ?_
    | with_reducible refine KeptOS.eq (by with_reducible assumption) ?_
    | (fail_if_no_progress with_reducible refine Kept.mk' ?_  (h_tb := .inr ⟨i0, sm, sm, sm⟩) (h_eth := .inr ⟨i4, .inr i5, .inr i6, sm⟩) (h_hp := .inr ⟨i42, .inr i43, sm, sm, .inr i46, sm, sm, sm, sm, sm, sm, sm⟩) (h_pair := .inr ⟨i54, sm, .inr i56, sm⟩) (h_cnt := .inr i76) (h_limits := .inr i77) (h_evLog := .inr i78) (h_evLogSeq := .inr i79))
    | split
    | with_reducible refine KeptF.mk' ?_
    | with_reducible refine KeptF.fst ?_
    | dsimp +zetaDelta only

theorem kept_execGrantRx {μ : Nat} (hw : 1133369198965774889255025 &&& μ = 1133369198965774889255025) {s0 : State} {s : State}  (kh : Kept μ s0 s) :
    KeptOut μ s0 (execGrantRx s) := by
  have k_act : 0 &&& μ = 0 := sub_of hw rfl
  have k_modUnit : 18014398509481984 &&& μ = 18014398509481984 := sub_of hw rfl
  have k_takeAnswer : 1133368046044270282408049 &&& μ = 1133368046044270282408049 := sub_of hw rfl
  have i0 : μ.testBit 0 = true := bit_of hw rfl
  have i4 : μ.testBit 4 = true := bit_of hw rfl
  have i5 : μ.testBit 5 = true := bit_of hw rfl
  have i6 : μ.testBit 6 = true := bit_of hw rfl
  have i42 : μ.testBit 42 = true := bit_of hw rfl
  have i43 : μ.testBit 43 = true := bit_of hw rfl
  have i46 : μ.testBit 46 = true := bit_of hw rfl
  have i54 : μ.testBit 54 = true := bit_of hw rfl
  have i56 : μ.testBit 56 = true := bit_of hw rfl
  have i60 : μ.testBit 60 = true := bit_of hw rfl
  have i76 : μ.testBit 76 = true := bit_of hw rfl
  have i77 : μ.testBit 77 = true := bit_of hw rfl
  have i78 : μ.testBit 78 = true := bit_of hw rfl
  have i79 : μ.testBit 79 = true := bit_of hw rfl
  unfold execGrantRx
  repeat' first
    | with_reducible assumption
    | (intro s; with_reducible refine (fun (hs : Kept μ s0 s) => ?_) ?_)
    | intro x
    | lift_lets
    | with_reducible refine kept_act k_act (fun s hs => ?_) ?_
    | with_reducible refine kept_modUnit k_modUnit smf (.inr i56) smf ?_
    | with_reducible refine kept_takeAnswer k_takeAnswer ?_
    | with_reducible refine KeptF.eq (by with_reducible assumption) ?_
    | (fail_if_no_progress with_reducible refine Kept.mk' ?_  (h_tb := .inr ⟨i0, sm, sm, sm⟩) (h_eth := .inr ⟨i4, .inr i5, .inr i6, sm⟩) (h_hp := .inr ⟨i42, .inr i43, sm, sm, .inr i46, sm, sm, sm, sm, sm, sm, sm⟩) (h_pair := .inr ⟨i54, sm, .inr i56, sm⟩) (h_nv := .inr ⟨i60, sm, sm, sm, sm, sm, sm, sm⟩) (h_cnt := .inr i76) (h_limits := .inr i77) (h_evLog := .inr i78) (h_evLogSeq := .inr i79))
    | split
    | with_reducible refine KeptOut.mk' ?_
    | with_reducible refine KeptF.mk' ?_
    | with_reducible refine KeptF.fst ?_
    | dsimp +zetaDelta only

theorem kept_authorityEnds {μ : Nat} (hw : 982252282563683271311408 &&& μ = 982252282563683271311408) {s0 : State} {r : Nat} {s : State}  (kh : Kept μ s0 s) :
    Kept μ s0 (authorityEnds r s) := by
  have k_authLost : 982252228520487742865456 &&& μ = 982252228520487742865456 := sub_of hw rfl
  have k_flagCount : 982252228520449088159744 &&& μ = 982252228520449088159744 := sub_of hw rfl
  have k_modUnit : 18014398509481984 &&& μ = 18014398509481984 := sub_of hw rfl
  have k_raise : 906694364785738671718400 &&& μ = 906694364785738671718400 := sub_of hw rfl
  have k_setRole : 906694418837730293186560 &&& μ = 906694418837730293186560 := sub_of hw rfl
  have i4 : μ.testBit 4 = true := bit_of hw rfl
  have i5 : μ.testBit 5 = true := bit_of hw rfl
  have i32 : μ.testBit 32 = true := bit_of hw rfl
  have i35 : μ.testBit 35 = true := bit_of hw rfl
  have i42 : μ.testBit 42 = true := bit_of hw rfl
  have i43 : μ.testBit 43 = true := bit_of hw rfl
  have i46 : μ.testBit 46 = true := bit_of hw rfl
  have i54 : μ.testBit 54 = true := bit_of hw rfl
  have i55 : μ.testBit 55 = true := bit_of hw rfl
  have i76 : μ.testBit 76 = true := bit_of hw rfl
  have i78 : μ.testBit 78 = true := bit_of hw rfl
  have i79 : μ.testBit 79 = true := bit_of hw rfl
  unfold authorityEnds
  repeat' first
    | with_reducible assumption
    | (intro s; with_reducible refine (fun (hs : Kept μ s0 s) => ?_) ?_)
    | intro x
    | lift_lets
    | with_reducible refine kept_raise k_raise ?_
    | with_reducible refine kept_flagCount k_flagCount ?_
    | with_reducible refine kept_authLost k_authLost ?_
    | with_reducible refine kept_modUnit k_modUnit (.inr i55) smf smf ?_
    | with_reducible refine kept_setRole k_setRole ?_
    | (fail_if_no_progress with_reducible refine Kept.mk' ?_  (h_eth := .inr ⟨i4, .inr i5, sm, sm⟩) (h_pub := .inr ⟨i32, sm, sm, .inr i35⟩) (h_hp := .inr ⟨i42, .inr i43, sm, sm, .inr i46, sm, sm, sm, sm, sm, sm, sm⟩) (h_pair := .inr ⟨i54, .inr i55, sm, sm⟩) (h_cnt := .inr i76) (h_evLog := .inr i78) (h_evLogSeq := .inr i79))
    | split
    | dsimp +zetaDelta only

theorem kept_execDenyRx {μ : Nat} (hw : 1133368082073105956077681 &&& μ = 1133368082073105956077681) {s0 : State} {s : State}  (kh : Kept μ s0 s) :
    KeptOut μ s0 (execDenyRx s) := by
  have k_act : 0 &&& μ = 0 := sub_of hw rfl
  have k_authorityEnds : 982252282563683271311408 &&& μ = 982252282563683271311408 := sub_of hw rfl
  have k_count : 982252228520449088159744 &&& μ = 982252228520449088159744 := sub_of hw rfl
  have k_setRole : 906694418837730293186560 &&& μ = 906694418837730293186560 := sub_of hw rfl
  have k_takeAnswer : 1133368046044270282408049 &&& μ = 1133368046044270282408049 := sub_of hw rfl
  have i0 : μ.testBit 0 = true := bit_of hw rfl
  have i4 : μ.testBit 4 = true := bit_of hw rfl
  have i5 : μ.testBit 5 = true := bit_of hw rfl
  have i6 : μ.testBit 6 = true := bit_of hw rfl
  have i32 : μ.testBit 32 = true := bit_of hw rfl
  have i35 : μ.testBit 35 = true := bit_of hw rfl
  have i42 : μ.testBit 42 = true := bit_of hw rfl
  have i43 : μ.testBit 43 = true := bit_of hw rfl
  have i46 : μ.testBit 46 = true := bit_of hw rfl
  have i54 : μ.testBit 54 = true := bit_of hw rfl
  have i55 : μ.testBit 55 = true := bit_of hw rfl
  have i56 : μ.testBit 56 = true := bit_of hw rfl
  have i76 : μ.testBit 76 = true := bit_of hw rfl
  have i77 : μ.testBit 77 = true := bit_of hw rfl
  have i78 : μ.testBit 78 = true := bit_of hw rfl
  have i79 : μ.testBit 79 = true := bit_of hw rfl
  unfold execDenyRx
  repeat' first
    | with_reducible assumption
    | (intro s; with_reducible refine (fun (hs : Kept μ s0 s) => ?_) ?_)
    | intro x
    | lift_lets
    | with_reducible refine kept_act k_act (fun s hs => ?_) ?_
    | with_reducible refine kept_count k_count ?_
    | with_reducible refine kept_setRole k_setRole ?_
    | with_reducible refine kept_takeAnswer k_takeAnswer ?_
    | with_reducible refine kept_authorityEnds k_authorityEnds ?_
    | with_reducible refine KeptF.eq (by with_reducible assumption) ?_
    | (fail_if_no_progress with_reducible refine Kept.mk' ?_  (h_tb := .inr ⟨i0, sm, sm, sm⟩) (h_eth := .inr ⟨i4, .inr i5, .inr i6, sm⟩) (h_pub := .inr ⟨i32, sm, sm, .inr i35⟩) (h_hp := .inr ⟨i42, .inr i43, sm, sm, .inr i46, sm, sm, sm, sm, sm, sm, sm⟩) (h_pair := .inr ⟨i54, .inr i55, .inr i56, sm⟩) (h_cnt := .inr i76) (h_limits := .inr i77) (h_evLog := .inr i78) (h_evLogSeq := .inr i79))
    | split
    | with_reducible refine KeptOut.mk' ?_
    | with_reducible refine KeptF.mk' ?_
    | with_reducible refine KeptF.fst ?_
    | dsimp +zetaDelta only

theorem kept_execLeaseEnd {μ : Nat} (hw : 982252282563683271311408 &&& μ = 982252282563683271311408) {s0 : State} {s : State}  (kh : Kept μ s0 s) :
    KeptOut μ s0 (execLeaseEnd s) := by
  have k_act : 0 &&& μ = 0 := sub_of hw rfl
  have k_authorityEnds : 982252282563683271311408 &&& μ = 982252282563683271311408 := sub_of hw rfl
  unfold execLeaseEnd
  repeat' first
    | with_reducible assumption
    | (intro s; with_reducible refine (fun (hs : Kept μ s0 s) => ?_) ?_)
    | intro x
    | lift_lets
    | with_reducible refine kept_act k_act (fun s hs => ?_) ?_
    | with_reducible refine kept_authorityEnds k_authorityEnds ?_
    | split
    | with_reducible refine KeptOut.mk' ?_
    | dsimp +zetaDelta only

theorem kept_sendCrc {μ : Nat} (hw : 982253403995136203948080 &&& μ = 982253403995136203948080) {s0 : State} {typ : Nat} {ts body : List Byte} {s : State}  (kh : Kept μ s0 s) :
    Kept μ s0 (sendCrc typ ts body s) := by
  have k_enqueue1 : 982252233059233087619120 &&& μ = 982252233059233087619120 := sub_of hw rfl
  have k_nextSeqC : 1170935903116328960 &&& μ = 1170935903116328960 := sub_of hw rfl
  unfold sendCrc
  repeat' first
    | with_reducible assumption
    | (intro s; with_reducible refine (fun (hs : Kept μ s0 s) => ?_) ?_)
    | intro x
    | lift_lets
    | with_reducible refine kept_enqueue1 k_enqueue1 ?_
    | with_reducible refine kept_nextSeqC k_nextSeqC ?_
    | with_reducible refine KeptS.eq (by with_reducible assumption) ?_
    | split
    | with_reducible refine KeptS.mk' ?_
    | with_reducible refine KeptS.snd ?_
    | dsimp +zetaDelta only

theorem kept_sendBlock {μ : Nat} (hw : 982253403995136203948080 &&& μ = 982253403995136203948080) {s0 : State} {n inst : Nat} {rot : Bool} {x : Nat × Nat × List Byte} {s : State}  (kh : Kept μ s0 s) :
    KeptF μ s0 (sendBlock n inst rot x s) := by
  have k_sendCrc : 982253403995136203948080 &&& μ = 982253403995136203948080 := sub_of hw rfl
  unfold sendBlock
  repeat' first
    | with_reducible assumption
    | (intro s; with_reducible refine (fun (hs : Kept μ s0 s) => ?_) ?_)
    | intro x
    | lift_lets
    | with_reducible refine kept_sendCrc k_sendCrc ?_
    | with_reducible refine kept_foldl (fun s x hs => ?_) ?_
    | split
    | with_reducible refine KeptF.mk' ?_
    | dsimp +zetaDelta only

theorem kept_formGeneration {μ : Nat} (hw : 982253548110324279803952 &&& μ = 982253548110324279803952) {s0 : State} {s : State}  (kh : Kept μ s0 s) :
    Kept μ s0 (formGeneration s) := by
  have k_count : 982252228520449088159744 &&& μ = 982252228520449088159744 := sub_of hw rfl
  have k_modUnit : 18014398509481984 &&& μ = 18014398509481984 := sub_of hw rfl
  have k_sendBlock : 982253403995136203948080 &&& μ = 982253403995136203948080 := sub_of hw rfl
  have k_sendCrc : 982253403995136203948080 &&& μ = 982253403995136203948080 := sub_of hw rfl
  have i57 : μ.testBit 57 = true := bit_of hw rfl
  unfold formGeneration
  dsimp only
  refine kept_sendCrc k_sendCrc (kept_modUnit k_modUnit smf smf (.inr i57) ?_)
  refine KeptF.fst (kept_foldlF (fun p x hp => ?_) (KeptF.mk' (kept_count k_count (kept_modUnit k_modUnit smf smf (.inr i57) kh))))
  exact KeptF.mk' (KeptF.fst (kept_sendBlock k_sendBlock (KeptF.fst hp)))

theorem kept_execGenerationForm {μ : Nat} (hw : 982253548110324279803952 &&& μ = 982253548110324279803952) {s0 : State} {s : State}  (kh : Kept μ s0 s) :
    KeptOut μ s0 (execGenerationForm s) := by
  have k_act : 0 &&& μ = 0 := sub_of hw rfl
  have k_formGeneration : 982253548110324279803952 &&& μ = 982253548110324279803952 := sub_of hw rfl
  unfold execGenerationForm
  repeat' first
    | with_reducible assumption
    | (intro s; with_reducible refine (fun (hs : Kept μ s0 s) => ?_) ?_)
    | intro x
    | lift_lets
    | with_reducible refine kept_act k_act (fun s hs => ?_) ?_
    | with_reducible refine kept_formGeneration k_formGeneration ?_
    | split
    | with_reducible refine KeptOut.mk' ?_
    | dsimp +zetaDelta only

theorem kept_execGenBlockRx {μ : Nat} (hw : 982252246534847597641841 &&& μ = 982252246534847597641841) {s0 : State} {s : State}  (kh : Kept μ s0 s) :
    KeptOut μ s0 (execGenBlockRx s) := by
  have k_act : 0 &&& μ = 0 := sub_of hw rfl
  have k_hbReject : 982252228520449088159744 &&& μ = 982252228520449088159744 := sub_of hw rfl
  have k_modUnit : 18014398509481984 &&& μ = 18014398509481984 := sub_of hw rfl
  have k_takePairMsg : 113 &&& μ = 113 := sub_of hw rfl
  have i0 : μ.testBit 0 = true := bit_of hw rfl
  have i4 : μ.testBit 4 = true := bit_of hw rfl
  have i5 : μ.testBit 5 = true := bit_of hw rfl
  have i6 : μ.testBit 6 = true := bit_of hw rfl
  have i42 : μ.testBit 42 = true := bit_of hw rfl
  have i43 : μ.testBit 43 = true := bit_of hw rfl
  have i46 : μ.testBit 46 = true := bit_of hw rfl
  have i54 : μ.testBit 54 = true := bit_of hw rfl
  have i76 : μ.testBit 76 = true := bit_of hw rfl
  have i78 : μ.testBit 78 = true := bit_of hw rfl
  have i79 : μ.testBit 79 = true := bit_of hw rfl
  unfold execGenBlockRx
  repeat' first
    | with_reducible assumption
    | (intro s; with_reducible refine (fun (hs : Kept μ s0 s) => ?_) ?_)
    | intro x
    | lift_lets
    | with_reducible refine kept_act k_act (fun s hs => ?_) ?_
    | with_reducible refine kept_modUnit k_modUnit smf smf smf ?_
    | with_reducible refine kept_takePairMsg k_takePairMsg ?_
    | with_reducible refine kept_hbReject k_hbReject ?_
    | with_reducible refine KeptOS.eq (by with_reducible assumption) ?_
    | (fail_if_no_progress with_reducible refine Kept.mk' ?_  (h_tb := .inr ⟨i0, sm, sm, sm⟩) (h_eth := .inr ⟨i4, .inr i5, .inr i6, sm⟩) (h_hp := .inr ⟨i42, .inr i43, sm, sm, .inr i46, sm, sm, sm, sm, sm, sm, sm⟩) (h_pair := .inr ⟨i54, sm, sm, sm⟩) (h_cnt := .inr i76) (h_evLog := .inr i78) (h_evLogSeq := .inr i79))
    | split
    | with_reducible refine KeptOut.mk' ?_
    | dsimp +zetaDelta only

theorem kept_genLost {μ : Nat} (hw : 982252246534847597641728 &&& μ = 982252246534847597641728) {s0 : State} {g : Nat} {s : State}  (kh : Kept μ s0 s) :
    Kept μ s0 (genLost g s) := by
  have k_flagCount : 982252228520449088159744 &&& μ = 982252228520449088159744 := sub_of hw rfl
  have k_modUnit : 18014398509481984 &&& μ = 18014398509481984 := sub_of hw rfl
  have k_pairUnsync : 906694382808933274222592 &&& μ = 906694382808933274222592 := sub_of hw rfl
  have k_raise : 906694364785738671718400 &&& μ = 906694364785738671718400 := sub_of hw rfl
  have i42 : μ.testBit 42 = true := bit_of hw rfl
  have i43 : μ.testBit 43 = true := bit_of hw rfl
  have i46 : μ.testBit 46 = true := bit_of hw rfl
  have i54 : μ.testBit 54 = true := bit_of hw rfl
  have i76 : μ.testBit 76 = true := bit_of hw rfl
  have i78 : μ.testBit 78 = true := bit_of hw rfl
  have i79 : μ.testBit 79 = true := bit_of hw rfl
  unfold genLost
  repeat' first
    | with_reducible assumption
    | (intro s; with_reducible refine (fun (hs : Kept μ s0 s) => ?_) ?_)
    | intro x
    | lift_lets
    | with_reducible refine kept_raise k_raise ?_
    | with_reducible refine kept_flagCount k_flagCount ?_
    | with_reducible refine kept_modUnit k_modUnit smf smf smf ?_
    | with_reducible refine kept_pairUnsync k_pairUnsync ?_
    | (fail_if_no_progress with_reducible refine Kept.mk' ?_  (h_hp := .inr ⟨i42, .inr i43, sm, sm, .inr i46, sm, sm, sm, sm, sm, sm, sm⟩) (h_pair := .inr ⟨i54, sm, sm, sm⟩) (h_cnt := .inr i76) (h_evLog := .inr i78) (h_evLogSeq := .inr i79))
    | split
    | dsimp +zetaDelta only

theorem kept_genComplete {μ : Nat} (hw : 1133369275562152926642224 &&& μ = 1133369275562152926642224) {s0 : State} {g : Nat} {bs : List (Nat × Nat × List Byte)} {s : State}  (kh : Kept μ s0 s) :
    Kept μ s0 (genComplete g bs s) := by
  have k_count : 982252228520449088159744 &&& μ = 982252228520449088159744 := sub_of hw rfl
  have k_modUnit : 18014398509481984 &&& μ = 18014398509481984 := sub_of hw rfl
  have k_raise : 906694364785738671718400 &&& μ = 906694364785738671718400 := sub_of hw rfl
  have k_sendLease : 1133369131446964850786352 &&& μ = 1133369131446964850786352 := sub_of hw rfl
  have i4 : μ.testBit 4 = true := bit_of hw rfl
  have i5 : μ.testBit 5 = true := bit_of hw rfl
  have i42 : μ.testBit 42 = true := bit_of hw rfl
  have i43 : μ.testBit 43 = true := bit_of hw rfl
  have i45 : μ.testBit 45 = true := bit_of hw rfl
  have i46 : μ.testBit 46 = true := bit_of hw rfl
  have i52 : μ.testBit 52 = true := bit_of hw rfl
  have i54 : μ.testBit 54 = true := bit_of hw rfl
  have i57 : μ.testBit 57 = true := bit_of hw rfl
  have i60 : μ.testBit 60 = true := bit_of hw rfl
  have i76 : μ.testBit 76 = true := bit_of hw rfl
  have i77 : μ.testBit 77 = true := bit_of hw rfl
  have i78 : μ.testBit 78 = true := bit_of hw rfl
  have i79 : μ.testBit 79 = true := bit_of hw rfl
  unfold genComplete
  repeat' first
    | with_reducible assumption
    | (intro s; with_reducible refine (fun (hs : Kept μ s0 s) => ?_) ?_)
    | intro x
    | lift_lets
    | with_reducible refine kept_raise k_raise ?_
    | with_reducible refine kept_count k_count ?_
    | with_reducible refine kept_modUnit k_modUnit smf smf (.inr i57) ?_
    | with_reducible refine kept_sendLease k_sendLease ?_
    | with_reducible refine kept_foldl (fun s x hs => ?_) ?_
    | (fail_if_no_progress with_reducible refine Kept.mk' ?_  (h_eth := .inr ⟨i4, .inr i5, sm, sm⟩) (h_hp := .inr ⟨i42, .inr i43, sm, .inr i45, .inr i46, sm, sm, sm, sm, sm, .inr i52, sm⟩) (h_pair := .inr ⟨i54, sm, sm, .inr i57⟩) (h_nv := .inr ⟨i60, sm, sm, sm, sm, sm, sm, sm⟩) (h_cnt := .inr i76) (h_limits := .inr i77) (h_evLog := .inr i78) (h_evLogSeq := .inr i79))
    | split
    | dsimp +zetaDelta only

theorem kept_execGenEndRx {μ : Nat} (hw : 1133369275562152926642289 &&& μ = 1133369275562152926642289) {s0 : State} {s : State}  (kh : Kept μ s0 s) :
    KeptOut μ s0 (execGenEndRx s) := by
  have k_act : 0 &&& μ = 0 := sub_of hw rfl
  have k_genComplete : 1133369275562152926642224 &&& μ = 1133369275562152926642224 := sub_of hw rfl
  have k_genLost : 982252246534847597641728 &&& μ = 982252246534847597641728 := sub_of hw rfl
  have k_hbReject : 982252228520449088159744 &&& μ = 982252228520449088159744 := sub_of hw rfl
  have k_modUnit : 18014398509481984 &&& μ = 18014398509481984 := sub_of hw rfl
  have k_pairFlag : 13194139533312 &&& μ = 13194139533312 := sub_of hw rfl
  have k_pairUnsync : 906694382808933274222592 &&& μ = 906694382808933274222592 := sub_of hw rfl
  have k_raise : 906694364785738671718400 &&& μ = 906694364785738671718400 := sub_of hw rfl
  have k_takePairMsg : 113 &&& μ = 113 := sub_of hw rfl
  have i0 : μ.testBit 0 = true := bit_of hw rfl
  have i4 : μ.testBit 4 = true := bit_of hw rfl
  have i5 : μ.testBit 5 = true := bit_of hw rfl
  have i6 : μ.testBit 6 = true := bit_of hw rfl
  have i42 : μ.testBit 42 = true := bit_of hw rfl
  have i43 : μ.testBit 43 = true := bit_of hw rfl
  have i45 : μ.testBit 45 = true := bit_of hw rfl
  have i46 : μ.testBit 46 = true := bit_of hw rfl
  have i52 : μ.testBit 52 = true := bit_of hw rfl
  have i54 : μ.testBit 54 = true := bit_of hw rfl
  have i57 : μ.testBit 57 = true := bit_of hw rfl
  have i60 : μ.testBit 60 = true := bit_of hw rfl
  have i76 : μ.testBit 76 = true := bit_of hw rfl
  have i77 : μ.testBit 77 = true := bit_of hw rfl
  have i78 : μ.testBit 78 = true := bit_of hw rfl
  have i79 : μ.testBit 79 = true := bit_of hw rfl
  unfold execGenEndRx
  repeat' first
    | with_reducible assumption
    | (intro s; with_reducible refine (fun (hs : Kept μ s0 s) => ?_) ?_)
    | intro x
    | lift_lets
    | with_reducible refine kept_act k_act (fun s hs => ?_) ?_
    | with_reducible refine kept_raise k_raise ?_
    | with_reducible refine kept_modUnit k_modUnit smf smf (.inr i57) ?_
    | with_reducible refine kept_pairFlag k_pairFlag ?_
    | with_reducible refine kept_takePairMsg k_takePairMsg ?_
    | with_reducible refine kept_hbReject k_hbReject ?_
    | with_reducible refine kept_pairUnsync k_pairUnsync ?_
    | with_reducible refine kept_genLost k_genLost ?_
    | with_reducible refine kept_genComplete k_genComplete ?_
    | with_reducible refine KeptOS.eq (by with_reducible assumption) ?_
    | (fail_if_no_progress with_reducible refine Kept.mk' ?_  (h_tb := .inr ⟨i0, sm, sm, sm⟩) (h_eth := .inr ⟨i4, .inr i5, .inr i6, sm⟩) (h_hp := .inr ⟨i42, .inr i43, sm, .inr i45, .inr i46, sm, sm, sm, sm, sm, .inr i52, sm⟩) (h_pair := .inr ⟨i54, sm, sm, .inr i57⟩) (h_nv := .inr ⟨i60, sm, sm, sm, sm, sm, sm, sm⟩) (h_cnt := .inr i76) (h_limits := .inr i77) (h_evLog := .inr i78) (h_evLogSeq := .inr i79))
    | split
    | with_reducible refine KeptOut.mk' ?_
    | dsimp +zetaDelta only

theorem kept_execGenerationTimeout {μ : Nat} (hw : 982252246534847597641728 &&& μ = 982252246534847597641728) {s0 : State} {g : Nat} {s : State}  (kh : Kept μ s0 s) :
    KeptOut μ s0 (execGenerationTimeout g s) := by
  have k_act : 0 &&& μ = 0 := sub_of hw rfl
  have k_genLost : 982252246534847597641728 &&& μ = 982252246534847597641728 := sub_of hw rfl
  have i42 : μ.testBit 42 = true := bit_of hw rfl
  have i43 : μ.testBit 43 = true := bit_of hw rfl
  have i46 : μ.testBit 46 = true := bit_of hw rfl
  have i54 : μ.testBit 54 = true := bit_of hw rfl
  have i76 : μ.testBit 76 = true := bit_of hw rfl
  have i78 : μ.testBit 78 = true := bit_of hw rfl
  have i79 : μ.testBit 79 = true := bit_of hw rfl
  unfold execGenerationTimeout
  repeat' first
    | with_reducible assumption
    | (intro s; with_reducible refine (fun (hs : Kept μ s0 s) => ?_) ?_)
    | intro x
    | lift_lets
    | with_reducible refine kept_act k_act (fun s hs => ?_) ?_
    | with_reducible refine kept_genLost k_genLost ?_
    | (fail_if_no_progress with_reducible refine Kept.mk' ?_  (h_hp := .inr ⟨i42, .inr i43, sm, sm, .inr i46, sm, sm, sm, sm, sm, sm, sm⟩) (h_pair := .inr ⟨i54, sm, sm, sm⟩) (h_cnt := .inr i76) (h_evLog := .inr i78) (h_evLogSeq := .inr i79))
    | split
    | with_reducible refine KeptOut.mk' ?_
    | dsimp +zetaDelta only

theorem kept_loadTask {μ : Nat} (hw : 3932160 &&& μ = 3932160) {s0 : State} {t : Nat} {bs : List Byte} {s : State}  (kh : Kept μ s0 s) :
    Kept μ s0 (loadTask t bs s) := by
  have k_modStn : 786432 &&& μ = 786432 := sub_of hw rfl
  have k_modTask : 2359296 &&& μ = 2359296 := sub_of hw rfl
  have i18 : μ.testBit 18 = true := bit_of hw rfl
  have i19 : μ.testBit 19 = true := bit_of hw rfl
  have i20 : μ.testBit 20 = true := bit_of hw rfl
  have i21 : μ.testBit 21 = true := bit_of hw rfl
  unfold loadTask
  repeat' first
    | with_reducible assumption
    | (intro s; with_reducible refine (fun (hs : Kept μ s0 s) => ?_) ?_)
    | intro x
    | lift_lets
    | with_reducible refine kept_modTask k_modTask ?_
    | with_reducible refine kept_modStn k_modStn ?_
    | with_reducible refine kept_foldl (fun s x hs => ?_) ?_
    | (fail_if_no_progress with_reducible refine Kept.mk' ?_  (h_sch := .inr ⟨i18, .inr i19, .inr i20, .inr i21⟩))
    | split
    | dsimp +zetaDelta only

theorem kept_loadPars {μ : Nat} (hw : 1168231104512 &&& μ = 1168231104512) {s0 : State} {k : Nat} {bs : List Byte} {s : State}  (kh : Kept μ s0 s) :
    Kept μ s0 (loadPars k bs s) := by
  have i36 : μ.testBit 36 = true := bit_of hw rfl
  have i40 : μ.testBit 40 = true := bit_of hw rfl
  unfold loadPars
  repeat' first
    | with_reducible assumption
    | (intro s; with_reducible refine (fun (hs : Kept μ s0 s) => ?_) ?_)
    | intro x
    | lift_lets
    | with_reducible refine kept_foldl (fun s x hs => ?_) ?_
    | (fail_if_no_progress with_reducible refine Kept.mk' ?_  (h_cfg := .inr ⟨i36, sm, sm, sm, .inr i40, sm⟩))
    | split
    | dsimp +zetaDelta only

theorem kept_loadOutputs {μ : Nat} (hw : 55834574848 &&& μ = 55834574848) {s0 : State} {bs : List Byte} {s : State}  (kh : Kept μ s0 s) :
    Kept μ s0 (loadOutputs bs s) := by
  have k_modDo : 38654705664 &&& μ = 38654705664 := sub_of hw rfl
  have k_modGp : 21474836480 &&& μ = 21474836480 := sub_of hw rfl
  have k_setLevel : 38654705664 &&& μ = 38654705664 := sub_of hw rfl
  have i32 : μ.testBit 32 = true := bit_of hw rfl
  have i34 : μ.testBit 34 = true := bit_of hw rfl
  have i35 : μ.testBit 35 = true := bit_of hw rfl
  unfold loadOutputs
  repeat' first
    | with_reducible assumption
    | (intro s; with_reducible refine (fun (hs : Kept μ s0 s) => ?_) ?_)
    | intro x
    | lift_lets
    | with_reducible refine kept_modDo k_modDo ?_
    | with_reducible refine kept_setLevel k_setLevel ?_
    | with_reducible refine kept_modGp k_modGp ?_
    | with_reducible refine kept_foldl (fun s x hs => ?_) ?_
    | (fail_if_no_progress with_reducible refine Kept.mk' ?_  (h_pub := .inr ⟨i32, sm, .inr i34, .inr i35⟩))
    | split
    | dsimp +zetaDelta only

theorem kept_loadClaims {μ : Nat} (hw : 148726874094283259904 &&& μ = 148726874094283259904) {s0 : State} {k : Nat} {bs : List Byte} {s : State}  (kh : Kept μ s0 s) :
    Kept μ s0 (loadClaims k bs s) := by
  have i60 : μ.testBit 60 = true := bit_of hw rfl
  have i67 : μ.testBit 67 = true := bit_of hw rfl
  unfold loadClaims
  repeat' first
    | with_reducible assumption
    | (intro s; with_reducible refine (fun (hs : Kept μ s0 s) => ?_) ?_)
    | intro x
    | lift_lets
    | with_reducible refine kept_foldl (fun s x hs => ?_) ?_
    | (fail_if_no_progress with_reducible refine Kept.mk' ?_  (h_nv := .inr ⟨i60, sm, sm, sm, sm, sm, sm, .inr i67⟩))
    | split
    | dsimp +zetaDelta only

theorem kept_applyImage {μ : Nat} (hw : 148726875318352871424 &&& μ = 148726875318352871424) {s0 : State} {vint : Bool} {s : State}  (kh : Kept μ s0 s) :
    Kept μ s0 (applyImage vint s) := by
  have k_loadClaims : 148726874094283259904 &&& μ = 148726874094283259904 := sub_of hw rfl
  have k_loadOutputs : 55834574848 &&& μ = 55834574848 := sub_of hw rfl
  have k_loadPars : 1168231104512 &&& μ = 1168231104512 := sub_of hw rfl
  have k_loadTask : 3932160 &&& μ = 3932160 := sub_of hw rfl
  have k_taskReset : 3932160 &&& μ = 3932160 := sub_of hw rfl
  have i18 : μ.testBit 18 = true := bit_of hw rfl
  have i19 : μ.testBit 19 = true := bit_of hw rfl
  have i20 : μ.testBit 20 = true := bit_of hw rfl
  have i21 : μ.testBit 21 = true := bit_of hw rfl
  have i32 : μ.testBit 32 = true := bit_of hw rfl
  have i34 : μ.testBit 34 = true := bit_of hw rfl
  have i35 : μ.testBit 35 = true := bit_of hw rfl
  have i36 : μ.testBit 36 = true := bit_of hw rfl
  have i40 : μ.testBit 40 = true := bit_of hw rfl
  have i60 : μ.testBit 60 = true := bit_of hw rfl
  have i67 : μ.testBit 67 = true := bit_of hw rfl
  unfold applyImage
  repeat' first
    | with_reducible assumption
    | (intro s; with_reducible refine (fun (hs : Kept μ s0 s) => ?_) ?_)
    | intro x
    | lift_lets
    | with_reducible refine kept_taskReset k_taskReset ?_
    | with_reducible refine kept_loadTask k_loadTask ?_
    | with_reducible refine kept_loadPars k_loadPars ?_
    | with_reducible refine kept_loadOutputs k_loadOutputs ?_
    | with_reducible refine kept_loadClaims k_loadClaims ?_
    | with_reducible refine kept_foldl (fun s x hs => ?_) ?_
    | (fail_if_no_progress with_reducible refine Kept.mk' ?_  (h_sch := .inr ⟨i18, .inr i19, .inr i20, .inr i21⟩) (h_pub := .inr ⟨i32, sm, .inr i34, .inr i35⟩) (h_cfg := .inr ⟨i36, sm, sm, sm, .inr i40, sm⟩) (h_nv := .inr ⟨i60, sm, sm, sm, sm, sm, sm, .inr i67⟩))
    | split
    | dsimp +zetaDelta only

theorem kept_execAuthorityBegin {μ : Nat} (hw : 982437902927110388580352 &&& μ = 982437902927110388580352) {s0 : State} {s : State}  (kh : Kept μ s0 s) :
    KeptOut μ s0 (execAuthorityBegin s) := by
  have k_act : 0 &&& μ = 0 := sub_of hw rfl
  have k_applyImage : 148726875318352871424 &&& μ = 148726875318352871424 := sub_of hw rfl
  have k_authEvent : 906694364794534764740608 &&& μ = 906694364794534764740608 := sub_of hw rfl
  have k_flagCount : 982252228520449088159744 &&& μ = 982252228520449088159744 := sub_of hw rfl
  have k_modGp : 21474836480 &&& μ = 21474836480 := sub_of hw rfl
  have k_modUnit : 18014398509481984 &&& μ = 18014398509481984 := sub_of hw rfl
  have k_raise : 906694364785738671718400 &&& μ = 906694364785738671718400 := sub_of hw rfl
  have k_savePars : 38046409652025950208 &&& μ = 38046409652025950208 := sub_of hw rfl
  have k_setRole : 906694418837730293186560 &&& μ = 906694418837730293186560 := sub_of hw rfl
  have i18 : μ.testBit 18 = true := bit_of hw rfl
  have i19 : μ.testBit 19 = true := bit_of hw rfl
  have i20 : μ.testBit 20 = true := bit_of hw rfl
  have i21 : μ.testBit 21 = true := bit_of hw rfl
  have i32 : μ.testBit 32 = true := bit_of hw rfl
  have i34 : μ.testBit 34 = true := bit_of hw rfl
  have i35 : μ.testBit 35 = true := bit_of hw rfl
  have i36 : μ.testBit 36 = true := bit_of hw rfl
  have i40 : μ.testBit 40 = true := bit_of hw rfl
  have i42 : μ.testBit 42 = true := bit_of hw rfl
  have i43 : μ.testBit 43 = true := bit_of hw rfl
  have i46 : μ.testBit 46 = true := bit_of hw rfl
  have i54 : μ.testBit 54 = true := bit_of hw rfl
  have i55 : μ.testBit 55 = true := bit_of hw rfl
  have i60 : μ.testBit 60 = true := bit_of hw rfl
  have i65 : μ.testBit 65 = true := bit_of hw rfl
  have i67 : μ.testBit 67 = true := bit_of hw rfl
  have i76 : μ.testBit 76 = true := bit_of hw rfl
  have i78 : μ.testBit 78 = true := bit_of hw rfl
  have i79 : μ.testBit 79 = true := bit_of hw rfl
  unfold execAuthorityBegin
  repeat' first
    | with_reducible assumption
    | (intro s; with_reducible refine (fun (hs : Kept μ s0 s) => ?_) ?_)
    | intro x
    | lift_lets
    | with_reducible refine kept_act k_act (fun s hs => ?_) ?_
    | with_reducible refine kept_raise k_raise ?_
    | with_reducible refine kept_flagCount k_flagCount ?_
    | with_reducible refine kept_modGp k_modGp ?_
    | with_reducible refine kept_authEvent k_authEvent ?_
    | with_reducible refine kept_savePars k_savePars ?_
    | with_reducible refine kept_modUnit k_modUnit (.inr i55) smf smf ?_
    | with_reducible refine kept_setRole k_setRole ?_
    | with_reducible refine kept_applyImage k_applyImage ?_
    | with_reducible refine kept_foldl (fun s x hs => ?_) ?_
    | (fail_if_no_progress with_reducible refine Kept.mk' ?_  (h_sch := .inr ⟨i18, .inr i19, .inr i20, .inr i21⟩) (h_pub := .inr ⟨i32, sm, .inr i34, .inr i35⟩) (h_cfg := .inr ⟨i36, sm, sm, sm, .inr i40, sm⟩) (h_hp := .inr ⟨i42, .inr i43, sm, sm, .inr i46, sm, sm, sm, sm, sm, sm, sm⟩) (h_pair := .inr ⟨i54, .inr i55, sm, sm⟩) (h_nv := .inr ⟨i60, sm, sm, sm, sm, .inr i65, sm, .inr i67⟩) (h_cnt := .inr i76) (h_evLog := .inr i78) (h_evLogSeq := .inr i79))
    | split
    | with_reducible refine KeptOut.mk' ?_
    | dsimp +zetaDelta only

theorem kept_execCmdPairHandover {μ : Nat} (hw : 1133369167757236846460976 &&& μ = 1133369167757236846460976) {s0 : State} {n : Nat} {s : State}  (kh : Kept μ s0 s) :
    KeptOut μ s0 (execCmdPairHandover n s) := by
  have k_act : 0 &&& μ = 0 := sub_of hw rfl
  have k_complete : 906694365111194113540096 &&& μ = 906694365111194113540096 := sub_of hw rfl
  have k_enqueue1 : 982252233059233087619120 &&& μ = 982252233059233087619120 := sub_of hw rfl
  have k_modFn : 4398046511104 &&& μ = 4398046511104 := sub_of hw rfl
  have k_modUnit : 18014398509481984 &&& μ = 18014398509481984 := sub_of hw rfl
  have k_runCmd : 906694365111194113540096 &&& μ = 906694365111194113540096 := sub_of hw rfl
  have k_signedCalfa : 1133369126908180851326976 &&& μ = 1133369126908180851326976 := sub_of hw rfl
  have i4 : μ.testBit 4 = true := bit_of hw rfl
  have i5 : μ.testBit 5 = true := bit_of hw rfl
  have i42 : μ.testBit 42 = true := bit_of hw rfl
  have i43 : μ.testBit 43 = true := bit_of hw rfl
  have i45 : μ.testBit 45 = true := bit_of hw rfl
  have i46 : μ.testBit 46 = true := bit_of hw rfl
  have i48 : μ.testBit 48 = true := bit_of hw rfl
  have i52 : μ.testBit 52 = true := bit_of hw rfl
  have i54 : μ.testBit 54 = true := bit_of hw rfl
  have i55 : μ.testBit 55 = true := bit_of hw rfl
  have i60 : μ.testBit 60 = true := bit_of hw rfl
  have i76 : μ.testBit 76 = true := bit_of hw rfl
  have i77 : μ.testBit 77 = true := bit_of hw rfl
  have i78 : μ.testBit 78 = true := bit_of hw rfl
  have i79 : μ.testBit 79 = true := bit_of hw rfl
  unfold execCmdPairHandover
  repeat' first
    | with_reducible assumption
    | (intro s; with_reducible refine (fun (hs : Kept μ s0 s) => ?_) ?_)
    | intro x
    | lift_lets
    | with_reducible refine kept_act k_act (fun s hs => ?_) ?_
    | with_reducible refine kept_modFn k_modFn (.inr i43) smf (.inr i45) (.inr i46) smf (.inr i48) smf smf smf (.inr i52) smf ?_
    | with_reducible refine kept_enqueue1 k_enqueue1 ?_
    | with_reducible refine kept_complete k_complete ?_
    | with_reducible refine kept_runCmd k_runCmd (fun r s hs => ?_) ?_
    | with_reducible refine kept_modUnit k_modUnit (.inr i55) smf smf ?_
    | with_reducible refine kept_signedCalfa k_signedCalfa ?_
    | with_reducible refine KeptF.eq (by with_reducible assumption) ?_
    | (fail_if_no_progress with_reducible refine Kept.mk' ?_  (h_eth := .inr ⟨i4, .inr i5, sm, sm⟩) (h_hp := .inr ⟨i42, .inr i43, sm, .inr i45, .inr i46, sm, .inr i48, sm, sm, sm, .inr i52, sm⟩) (h_pair := .inr ⟨i54, .inr i55, sm, sm⟩) (h_nv := .inr ⟨i60, sm, sm, sm, sm, sm, sm, sm⟩) (h_cnt := .inr i76) (h_limits := .inr i77) (h_evLog := .inr i78) (h_evLogSeq := .inr i79))
    | split
    | with_reducible refine KeptOut.mk' ?_
    | with_reducible refine KeptF.mk' ?_
    | with_reducible refine KeptF.fst ?_
    | dsimp +zetaDelta only

theorem kept_execHandoverReqRx {μ : Nat} (hw : 1133367973986676244480113 &&& μ = 1133367973986676244480113) {s0 : State} {s : State}  (kh : Kept μ s0 s) :
    KeptOut μ s0 (execHandoverReqRx s) := by
  have k_act : 0 &&& μ = 0 := sub_of hw rfl
  have k_hbReject : 982252228520449088159744 &&& μ = 982252228520449088159744 := sub_of hw rfl
  have k_modUnit : 18014398509481984 &&& μ = 18014398509481984 := sub_of hw rfl
  have k_peerCheck : 1133367955972277734998016 &&& μ = 1133367955972277734998016 := sub_of hw rfl
  have k_takePairMsg : 113 &&& μ = 113 := sub_of hw rfl
  have i0 : μ.testBit 0 = true := bit_of hw rfl
  have i4 : μ.testBit 4 = true := bit_of hw rfl
  have i5 : μ.testBit 5 = true := bit_of hw rfl
  have i6 : μ.testBit 6 = true := bit_of hw rfl
  have i42 : μ.testBit 42 = true := bit_of hw rfl
  have i43 : μ.testBit 43 = true := bit_of hw rfl
  have i46 : μ.testBit 46 = true := bit_of hw rfl
  have i54 : μ.testBit 54 = true := bit_of hw rfl
  have i76 : μ.testBit 76 = true := bit_of hw rfl
  have i77 : μ.testBit 77 = true := bit_of hw rfl
  have i78 : μ.testBit 78 = true := bit_of hw rfl
  have i79 : μ.testBit 79 = true := bit_of hw rfl
  unfold execHandoverReqRx
  repeat' first
    | with_reducible assumption
    | (intro s; with_reducible refine (fun (hs : Kept μ s0 s) => ?_) ?_)
    | intro x
    | lift_lets
    | with_reducible refine kept_act k_act (fun s hs => ?_) ?_
    | with_reducible refine kept_modUnit k_modUnit smf smf smf ?_
    | with_reducible refine kept_takePairMsg k_takePairMsg ?_
    | with_reducible refine kept_hbReject k_hbReject ?_
    | with_reducible refine kept_peerCheck k_peerCheck ?_
    | with_reducible refine KeptF.eq (by with_reducible assumption) ?_
    | with_reducible refine KeptOS.eq (by with_reducible assumption) ?_
    | (fail_if_no_progress with_reducible refine Kept.mk' ?_  (h_tb := .inr ⟨i0, sm, sm, sm⟩) (h_eth := .inr ⟨i4, .inr i5, .inr i6, sm⟩) (h_hp := .inr ⟨i42, .inr i43, sm, sm, .inr i46, sm, sm, sm, sm, sm, sm, sm⟩) (h_pair := .inr ⟨i54, sm, sm, sm⟩) (h_cnt := .inr i76) (h_limits := .inr i77) (h_evLog := .inr i78) (h_evLogSeq := .inr i79))
    | split
    | with_reducible refine KeptOut.mk' ?_
    | with_reducible refine KeptF.mk' ?_
    | with_reducible refine KeptF.fst ?_
    | dsimp +zetaDelta only

theorem kept_execHandoverInstant {μ : Nat} (hw : 1133369311590988600311856 &&& μ = 1133369311590988600311856) {s0 : State} {s : State}  (kh : Kept μ s0 s) :
    KeptOut μ s0 (execHandoverInstant s) := by
  have k_act : 0 &&& μ = 0 := sub_of hw rfl
  have k_authorityEnds : 982252282563683271311408 &&& μ = 982252282563683271311408 := sub_of hw rfl
  have k_formGeneration : 982253548110324279803952 &&& μ = 982253548110324279803952 := sub_of hw rfl
  have k_modUnit : 18014398509481984 &&& μ = 18014398509481984 := sub_of hw rfl
  have k_sendLease : 1133369131446964850786352 &&& μ = 1133369131446964850786352 := sub_of hw rfl
  have i4 : μ.testBit 4 = true := bit_of hw rfl
  have i5 : μ.testBit 5 = true := bit_of hw rfl
  have i32 : μ.testBit 32 = true := bit_of hw rfl
  have i35 : μ.testBit 35 = true := bit_of hw rfl
  have i42 : μ.testBit 42 = true := bit_of hw rfl
  have i43 : μ.testBit 43 = true := bit_of hw rfl
  have i45 : μ.testBit 45 = true := bit_of hw rfl
  have i46 : μ.testBit 46 = true := bit_of hw rfl
  have i52 : μ.testBit 52 = true := bit_of hw rfl
  have i54 : μ.testBit 54 = true := bit_of hw rfl
  have i55 : μ.testBit 55 = true := bit_of hw rfl
  have i57 : μ.testBit 57 = true := bit_of hw rfl
  have i60 : μ.testBit 60 = true := bit_of hw rfl
  have i76 : μ.testBit 76 = true := bit_of hw rfl
  have i77 : μ.testBit 77 = true := bit_of hw rfl
  have i78 : μ.testBit 78 = true := bit_of hw rfl
  have i79 : μ.testBit 79 = true := bit_of hw rfl
  unfold execHandoverInstant
  repeat' first
    | with_reducible assumption
    | (intro s; with_reducible refine (fun (hs : Kept μ s0 s) => ?_) ?_)
    | intro x
    | lift_lets
    | with_reducible refine kept_act k_act (fun s hs => ?_) ?_
    | with_reducible refine kept_modUnit k_modUnit (.inr i55) smf (.inr i57) ?_
    | with_reducible refine kept_sendLease k_sendLease ?_
    | with_reducible refine kept_authorityEnds k_authorityEnds ?_
    | with_reducible refine kept_formGeneration k_formGeneration ?_
    | (fail_if_no_progress with_reducible refine Kept.mk' ?_  (h_eth := .inr ⟨i4, .inr i5, sm, sm⟩) (h_pub := .inr ⟨i32, sm, sm, .inr i35⟩) (h_hp := .inr ⟨i42, .inr i43, sm, .inr i45, .inr i46, sm, sm, sm, sm, sm, .inr i52, sm⟩) (h_pair := .inr ⟨i54, .inr i55, sm, .inr i57⟩) (h_nv := .inr ⟨i60, sm, sm, sm, sm, sm, sm, sm⟩) (h_cnt := .inr i76) (h_limits := .inr i77) (h_evLog := .inr i78) (h_evLogSeq := .inr i79))
    | split
    | with_reducible refine KeptOut.mk' ?_
    | dsimp +zetaDelta only

theorem kept_execHandoverTimeout {μ : Nat} (hw : 906694383125592623022080 &&& μ = 906694383125592623022080) {s0 : State} {s : State}  (kh : Kept μ s0 s) :
    KeptOut μ s0 (execHandoverTimeout s) := by
  have k_act : 0 &&& μ = 0 := sub_of hw rfl
  have k_complete : 906694365111194113540096 &&& μ = 906694365111194113540096 := sub_of hw rfl
  have k_modUnit : 18014398509481984 &&& μ = 18014398509481984 := sub_of hw rfl
  have i42 : μ.testBit 42 = true := bit_of hw rfl
  have i43 : μ.testBit 43 = true := bit_of hw rfl
  have i45 : μ.testBit 45 = true := bit_of hw rfl
  have i46 : μ.testBit 46 = true := bit_of hw rfl
  have i48 : μ.testBit 48 = true := bit_of hw rfl
  have i54 : μ.testBit 54 = true := bit_of hw rfl
  have i78 : μ.testBit 78 = true := bit_of hw rfl
  have i79 : μ.testBit 79 = true := bit_of hw rfl
  unfold execHandoverTimeout
  repeat' first
    | with_reducible assumption
    | (intro s; with_reducible refine (fun (hs : Kept μ s0 s) => ?_) ?_)
    | intro x
    | lift_lets
    | with_reducible refine kept_act k_act (fun s hs => ?_) ?_
    | with_reducible refine kept_complete k_complete ?_
    | with_reducible refine kept_modUnit k_modUnit smf smf smf ?_
    | (fail_if_no_progress with_reducible refine Kept.mk' ?_  (h_hp := .inr ⟨i42, .inr i43, sm, .inr i45, .inr i46, sm, .inr i48, sm, sm, sm, sm, sm⟩) (h_pair := .inr ⟨i54, sm, sm, sm⟩) (h_evLog := .inr i78) (h_evLogSeq := .inr i79))
    | split
    | with_reducible refine KeptOut.mk' ?_
    | dsimp +zetaDelta only

theorem kept_execCmdPairHold {μ : Nat} (hw : 906694383125592623022080 &&& μ = 906694383125592623022080) {s0 : State} {n : Nat} {s : State}  (kh : Kept μ s0 s) :
    KeptOut μ s0 (execCmdPairHold n s) := by
  have k_act : 0 &&& μ = 0 := sub_of hw rfl
  have k_complete : 906694365111194113540096 &&& μ = 906694365111194113540096 := sub_of hw rfl
  have k_modUnit : 18014398509481984 &&& μ = 18014398509481984 := sub_of hw rfl
  have k_runCmd : 906694365111194113540096 &&& μ = 906694365111194113540096 := sub_of hw rfl
  have i42 : μ.testBit 42 = true := bit_of hw rfl
  have i43 : μ.testBit 43 = true := bit_of hw rfl
  have i45 : μ.testBit 45 = true := bit_of hw rfl
  have i46 : μ.testBit 46 = true := bit_of hw rfl
  have i48 : μ.testBit 48 = true := bit_of hw rfl
  have i54 : μ.testBit 54 = true := bit_of hw rfl
  have i78 : μ.testBit 78 = true := bit_of hw rfl
  have i79 : μ.testBit 79 = true := bit_of hw rfl
  unfold execCmdPairHold
  repeat' first
    | with_reducible assumption
    | (intro s; with_reducible refine (fun (hs : Kept μ s0 s) => ?_) ?_)
    | intro x
    | lift_lets
    | with_reducible refine kept_act k_act (fun s hs => ?_) ?_
    | with_reducible refine kept_complete k_complete ?_
    | with_reducible refine kept_runCmd k_runCmd (fun r s hs => ?_) ?_
    | with_reducible refine kept_modUnit k_modUnit smf smf smf ?_
    | (fail_if_no_progress with_reducible refine Kept.mk' ?_  (h_hp := .inr ⟨i42, .inr i43, sm, .inr i45, .inr i46, sm, .inr i48, sm, sm, sm, sm, sm⟩) (h_pair := .inr ⟨i54, sm, sm, sm⟩) (h_evLog := .inr i78) (h_evLogSeq := .inr i79))
    | split
    | with_reducible refine KeptOut.mk' ?_
    | dsimp +zetaDelta only

theorem kept_execCmdPairStatus {μ : Nat} (hw : 906694365111194113540096 &&& μ = 906694365111194113540096) {s0 : State} {n : Nat} {s : State}  (kh : Kept μ s0 s) :
    KeptOut μ s0 (execCmdPairStatus n s) := by
  have k_act : 0 &&& μ = 0 := sub_of hw rfl
  have k_complete : 906694365111194113540096 &&& μ = 906694365111194113540096 := sub_of hw rfl
  have k_runCmd : 906694365111194113540096 &&& μ = 906694365111194113540096 := sub_of hw rfl
  unfold execCmdPairStatus
  repeat' first
    | with_reducible assumption
    | (intro s; with_reducible refine (fun (hs : Kept μ s0 s) => ?_) ?_)
    | intro x
    | lift_lets
    | with_reducible refine kept_act k_act (fun s hs => ?_) ?_
    | with_reducible refine kept_complete k_complete ?_
    | with_reducible refine kept_runCmd k_runCmd (fun r s hs => ?_) ?_
    | split
    | with_reducible refine KeptOut.mk' ?_
    | dsimp +zetaDelta only

theorem kept_takeUnitMsg {μ : Nat} (hw : 1133367973986676244480113 &&& μ = 1133367973986676244480113) {s0 : State} {typ : Nat} {s : State}  (kh : Kept μ s0 s) :
    KeptF μ s0 (takeUnitMsg typ s) := by
  have k_count : 982252228520449088159744 &&& μ = 982252228520449088159744 := sub_of hw rfl
  have k_macVerify : 1133367955972277734998016 &&& μ = 1133367955972277734998016 := sub_of hw rfl
  have k_modUnit : 18014398509481984 &&& μ = 18014398509481984 := sub_of hw rfl
  have k_takePairMsg : 113 &&& μ = 113 := sub_of hw rfl
  have k_witReject : 982252228520449088159744 &&& μ = 982252228520449088159744 := sub_of hw rfl
  unfold takeUnitMsg
  split
  · exact KeptF.mk' kh
  · rename_i e
    have ht := KeptOS.eq e (kept_takePairMsg k_takePairMsg kh)
    dsimp only
    split
    · exact KeptF.mk' (kept_witReject k_witReject ht)
    · split
      · exact KeptF.mk' (kept_witReject k_witReject ht)
      · split
        · exact KeptF.mk' (kept_witReject k_witReject (KeptF.fst (kept_macVerify k_macVerify ht)))
        · exact KeptF.mk' (kept_count k_count (kept_modUnit k_modUnit smf smf smf (KeptF.fst (kept_macVerify k_macVerify ht))))

theorem kept_modWit {μ : Nat} (hw : 1152921504606846976 &&& μ = 1152921504606846976) {s0 : State} {n : Nat} {f : Wit → Wit} {s : State}  (kh : Kept μ s0 s) :
    Kept μ s0 (modWit n f s) := by
  have i60 : μ.testBit 60 = true := bit_of hw rfl
  unfold modWit
  repeat' first
    | with_reducible assumption
    | (intro s; with_reducible refine (fun (hs : Kept μ s0 s) => ?_) ?_)
    | intro x
    | lift_lets
    | (fail_if_no_progress with_reducible refine Kept.mk' ?_  (h_nv := .inr ⟨i60, sm, sm, sm, sm, sm, sm, sm⟩))
    | split
    | dsimp +zetaDelta only

theorem kept_setExpiry {μ : Nat} (hw : 18014398509481984 &&& μ = 18014398509481984) {s0 : State} {n ns : Nat} {s : State}  (kh : Kept μ s0 s) :
    Kept μ s0 (setExpiry n ns s) := by
  have k_modUnit : 18014398509481984 &&& μ = 18014398509481984 := sub_of hw rfl
  have i54 : μ.testBit 54 = true := bit_of hw rfl
  unfold setExpiry
  repeat' first
    | with_reducible assumption
    | (intro s; with_reducible refine (fun (hs : Kept μ s0 s) => ?_) ?_)
    | intro x
    | lift_lets
    | with_reducible refine kept_modUnit k_modUnit smf smf smf ?_
    | (fail_if_no_progress with_reducible refine Kept.mk' ?_  (h_pair := .inr ⟨i54, sm, sm, sm⟩))
    | split
    | dsimp +zetaDelta only

theorem kept_witAnswer {μ : Nat} (hw : 1133369131446964850786352 &&& μ = 1133369131446964850786352) {s0 : State} {n _u reason : Nat} {m : PairMsg} {s : State}  (kh : Kept μ s0 s) :
    Kept μ s0 (witAnswer n _u reason m s) := by
  have k_count : 982252228520449088159744 &&& μ = 982252228520449088159744 := sub_of hw rfl
  have k_macSign : 1133367955972277734998016 &&& μ = 1133367955972277734998016 := sub_of hw rfl
  have k_nextSeqW : 1170935903116328960 &&& μ = 1170935903116328960 := sub_of hw rfl
  have k_sendUdp : 982252233059233087619120 &&& μ = 982252233059233087619120 := sub_of hw rfl
  have i4 : μ.testBit 4 = true := bit_of hw rfl
  have i5 : μ.testBit 5 = true := bit_of hw rfl
  have i42 : μ.testBit 42 = true := bit_of hw rfl
  have i43 : μ.testBit 43 = true := bit_of hw rfl
  have i45 : μ.testBit 45 = true := bit_of hw rfl
  have i46 : μ.testBit 46 = true := bit_of hw rfl
  have i52 : μ.testBit 52 = true := bit_of hw rfl
  have i54 : μ.testBit 54 = true := bit_of hw rfl
  have i60 : μ.testBit 60 = true := bit_of hw rfl
  have i76 : μ.testBit 76 = true := bit_of hw rfl
  have i77 : μ.testBit 77 = true := bit_of hw rfl
  have i78 : μ.testBit 78 = true := bit_of hw rfl
  have i79 : μ.testBit 79 = true := bit_of hw rfl
  unfold witAnswer
  repeat' first
    | with_reducible assumption
    | (intro s; with_reducible refine (fun (hs : Kept μ s0 s) => ?_) ?_)
    | intro x
    | lift_lets
    | with_reducible refine kept_count k_count ?_
    | with_reducible refine kept_macSign k_macSign ?_
    | with_reducible refine kept_nextSeqW k_nextSeqW ?_
    | with_reducible refine kept_sendUdp k_sendUdp ?_
    | with_reducible refine KeptF.eq (by with_reducible assumption) ?_
    | with_reducible refine KeptS.eq (by with_reducible assumption) ?_
    | (fail_if_no_progress with_reducible refine Kept.mk' ?_  (h_eth := .inr ⟨i4, .inr i5, sm, sm⟩) (h_hp := .inr ⟨i42, .inr i43, sm, .inr i45, .inr i46, sm, sm, sm, sm, sm, .inr i52, sm⟩) (h_pair := .inr ⟨i54, sm, sm, sm⟩) (h_nv := .inr ⟨i60, sm, sm, sm, sm, sm, sm, sm⟩) (h_cnt := .inr i76) (h_limits := .inr i77) (h_evLog := .inr i78) (h_evLogSeq := .inr i79))
    | split
    | with_reducible refine KeptF.mk' ?_
    | with_reducible refine KeptS.mk' ?_
    | with_reducible refine KeptF.fst ?_
    | with_reducible refine KeptS.snd ?_
    | dsimp +zetaDelta only

theorem kept_keepLen {μ : Nat} (hw : 1152921504606846976 &&& μ = 1152921504606846976) {s0 : State} {n : Nat} {m : PairMsg} {s : State}  (kh : Kept μ s0 s) :
    Kept μ s0 (keepLen n m s) := by
  have k_modWit : 1152921504606846976 &&& μ = 1152921504606846976 := sub_of hw rfl
  have i60 : μ.testBit 60 = true := bit_of hw rfl
  unfold keepLen
  repeat' first
    | with_reducible assumption
    | (intro s; with_reducible refine (fun (hs : Kept μ s0 s) => ?_) ?_)
    | intro x
    | lift_lets
    | with_reducible refine kept_modWit k_modWit ?_
    | (fail_if_no_progress with_reducible refine Kept.mk' ?_  (h_nv := .inr ⟨i60, sm, sm, sm, sm, sm, sm, sm⟩))
    | split
    | dsimp +zetaDelta only

theorem kept_whenTraceable {μ : Nat} (hw : 0 &&& μ = 0) {s0 : State} {f : State → State} {s : State} (h_f : ∀ s, Kept μ s0 s → Kept μ s0 (f s)) (kh : Kept μ s0 s) :
    Kept μ s0 (whenTraceable f s) := by
  unfold whenTraceable
  repeat' first
    | with_reducible assumption
    | (intro s; with_reducible refine (fun (hs : Kept μ s0 s) => ?_) ?_)
    | intro x
    | lift_lets
    | with_reducible refine h_f _ ?_
    | split
    | dsimp +zetaDelta only

theorem kept_execRequestRx {μ : Nat} (hw : 1133369131446964850786417 &&& μ = 1133369131446964850786417) {s0 : State} {s : State}  (kh : Kept μ s0 s) :
    KeptOut μ s0 (execRequestRx s) := by
  have k_act : 0 &&& μ = 0 := sub_of hw rfl
  have k_keepLen : 1152921504606846976 &&& μ = 1152921504606846976 := sub_of hw rfl
  have k_modWit : 1152921504606846976 &&& μ = 1152921504606846976 := sub_of hw rfl
  have k_setExpiry : 18014398509481984 &&& μ = 18014398509481984 := sub_of hw rfl
  have k_takeUnitMsg : 1133367973986676244480113 &&& μ = 1133367973986676244480113 := sub_of hw rfl
  have k_whenTraceable : 0 &&& μ = 0 := sub_of hw rfl
  have k_witAnswer : 1133369131446964850786352 &&& μ = 1133369131446964850786352 := sub_of hw rfl
  have i0 : μ.testBit 0 = true := bit_of hw rfl
  have i4 : μ.testBit 4 = true := bit_of hw rfl
  have i5 : μ.testBit 5 = true := bit_of hw rfl
  have i6 : μ.testBit 6 = true := bit_of hw rfl
  have i42 : μ.testBit 42 = true := bit_of hw rfl
  have i43 : μ.testBit 43 = true := bit_of hw rfl
  have i45 : μ.testBit 45 = true := bit_of hw rfl
  have i46 : μ.testBit 46 = true := bit_of hw rfl
  have i52 : μ.testBit 52 = true := bit_of hw rfl
  have i54 : μ.testBit 54 = true := bit_of hw rfl
  have i60 : μ.testBit 60 = true := bit_of hw rfl
  have i76 : μ.testBit 76 = true := bit_of hw rfl
  have i77 : μ.testBit 77 = true := bit_of hw rfl
  have i78 : μ.testBit 78 = true := bit_of hw rfl
  have i79 : μ.testBit 79 = true := bit_of hw rfl
  unfold execRequestRx
  repeat' first
    | with_reducible assumption
    | (intro s; with_reducible refine (fun (hs : Kept μ s0 s) => ?_) ?_)
    | intro x
    | lift_lets
    | with_reducible refine kept_act k_act (fun s hs => ?_) ?_
    | with_reducible refine kept_takeUnitMsg k_takeUnitMsg ?_
    | with_reducible refine kept_modWit k_modWit ?_
    | with_reducible refine kept_setExpiry k_setExpiry ?_
    | with_reducible refine kept_witAnswer k_witAnswer ?_
    | with_reducible refine kept_keepLen k_keepLen ?_
    | with_reducible refine kept_whenTraceable k_whenTraceable (fun s hs => ?_) ?_
    | with_reducible refine KeptF.eq (by with_reducible assumption) ?_
    | (fail_if_no_progress with_reducible refine Kept.mk' ?_  (h_tb := .inr ⟨i0, sm, sm, sm⟩) (h_eth := .inr ⟨i4, .inr i5, .inr i6, sm⟩) (h_hp := .inr ⟨i42, .inr i43, sm, .inr i45, .inr i46, sm, sm, sm, sm, sm, .inr i52, sm⟩) (h_pair := .inr ⟨i54, sm, sm, sm⟩) (h_nv := .inr ⟨i60, sm, sm, sm, sm, sm, sm, sm⟩) (h_cnt := .inr i76) (h_limits := .inr i77) (h_evLog := .inr i78) (h_evLogSeq := .inr i79))
    | split
    | with_reducible refine KeptOut.mk' ?_
    | with_reducible refine KeptF.mk' ?_
    | with_reducible refine KeptF.fst ?_
    | dsimp +zetaDelta only

theorem kept_execRenewRx {μ : Nat} (hw : 1133369131446964850786417 &&& μ = 1133369131446964850786417) {s0 : State} {s : State}  (kh : Kept μ s0 s) :
    KeptOut μ s0 (execRenewRx s) := by
  have k_act : 0 &&& μ = 0 := sub_of hw rfl
  have k_keepLen : 1152921504606846976 &&& μ = 1152921504606846976 := sub_of hw rfl
  have k_setExpiry : 18014398509481984 &&& μ = 18014398509481984 := sub_of hw rfl
  have k_takeUnitMsg : 1133367973986676244480113 &&& μ = 1133367973986676244480113 := sub_of hw rfl
  have k_whenTraceable : 0 &&& μ = 0 := sub_of hw rfl
  have k_witAnswer : 1133369131446964850786352 &&& μ = 1133369131446964850786352 := sub_of hw rfl
  have i0 : μ.testBit 0 = true := bit_of hw rfl
  have i4 : μ.testBit 4 = true := bit_of hw rfl
  have i5 : μ.testBit 5 = true := bit_of hw rfl
  have i6 : μ.testBit 6 = true := bit_of hw rfl
  have i42 : μ.testBit 42 = true := bit_of hw rfl
  have i43 : μ.testBit 43 = true := bit_of hw rfl
  have i45 : μ.testBit 45 = true := bit_of hw rfl
  have i46 : μ.testBit 46 = true := bit_of hw rfl
  have i52 : μ.testBit 52 = true := bit_of hw rfl
  have i54 : μ.testBit 54 = true := bit_of hw rfl
  have i60 : μ.testBit 60 = true := bit_of hw rfl
  have i76 : μ.testBit 76 = true := bit_of hw rfl
  have i77 : μ.testBit 77 = true := bit_of hw rfl
  have i78 : μ.testBit 78 = true := bit_of hw rfl
  have i79 : μ.testBit 79 = true := bit_of hw rfl
  unfold execRenewRx
  repeat' first
    | with_reducible assumption
    | (intro s; with_reducible refine (fun (hs : Kept μ s0 s) => ?_) ?_)
    | intro x
    | lift_lets
    | with_reducible refine kept_act k_act (fun s hs => ?_) ?_
    | with_reducible refine kept_takeUnitMsg k_takeUnitMsg ?_
    | with_reducible refine kept_setExpiry k_setExpiry ?_
    | with_reducible refine kept_witAnswer k_witAnswer ?_
    | with_reducible refine kept_keepLen k_keepLen ?_
    | with_reducible refine kept_whenTraceable k_whenTraceable (fun s hs => ?_) ?_
    | with_reducible refine KeptF.eq (by with_reducible assumption) ?_
    | (fail_if_no_progress with_reducible refine Kept.mk' ?_  (h_tb := .inr ⟨i0, sm, sm, sm⟩) (h_eth := .inr ⟨i4, .inr i5, .inr i6, sm⟩) (h_hp := .inr ⟨i42, .inr i43, sm, .inr i45, .inr i46, sm, sm, sm, sm, sm, .inr i52, sm⟩) (h_pair := .inr ⟨i54, sm, sm, sm⟩) (h_nv := .inr ⟨i60, sm, sm, sm, sm, sm, sm, sm⟩) (h_cnt := .inr i76) (h_limits := .inr i77) (h_evLog := .inr i78) (h_evLogSeq := .inr i79))
    | split
    | with_reducible refine KeptOut.mk' ?_
    | with_reducible refine KeptF.mk' ?_
    | with_reducible refine KeptF.fst ?_
    | dsimp +zetaDelta only

theorem kept_execReleaseRx {μ : Nat} (hw : 1133369126908180851327089 &&& μ = 1133369126908180851327089) {s0 : State} {s : State}  (kh : Kept μ s0 s) :
    KeptOut μ s0 (execReleaseRx s) := by
  have k_act : 0 &&& μ = 0 := sub_of hw rfl
  have k_keepLen : 1152921504606846976 &&& μ = 1152921504606846976 := sub_of hw rfl
  have k_setExpiry : 18014398509481984 &&& μ = 18014398509481984 := sub_of hw rfl
  have k_takeUnitMsg : 1133367973986676244480113 &&& μ = 1133367973986676244480113 := sub_of hw rfl
  have i0 : μ.testBit 0 = true := bit_of hw rfl
  have i4 : μ.testBit 4 = true := bit_of hw rfl
  have i5 : μ.testBit 5 = true := bit_of hw rfl
  have i6 : μ.testBit 6 = true := bit_of hw rfl
  have i42 : μ.testBit 42 = true := bit_of hw rfl
  have i43 : μ.testBit 43 = true := bit_of hw rfl
  have i46 : μ.testBit 46 = true := bit_of hw rfl
  have i54 : μ.testBit 54 = true := bit_of hw rfl
  have i60 : μ.testBit 60 = true := bit_of hw rfl
  have i76 : μ.testBit 76 = true := bit_of hw rfl
  have i77 : μ.testBit 77 = true := bit_of hw rfl
  have i78 : μ.testBit 78 = true := bit_of hw rfl
  have i79 : μ.testBit 79 = true := bit_of hw rfl
  unfold execReleaseRx
  repeat' first
    | with_reducible assumption
    | (intro s; with_reducible refine (fun (hs : Kept μ s0 s) => ?_) ?_)
    | intro x
    | lift_lets
    | with_reducible refine kept_act k_act (fun s hs => ?_) ?_
    | with_reducible refine kept_takeUnitMsg k_takeUnitMsg ?_
    | with_reducible refine kept_setExpiry k_setExpiry ?_
    | with_reducible refine kept_keepLen k_keepLen ?_
    | with_reducible refine KeptF.eq (by with_reducible assumption) ?_
    | (fail_if_no_progress with_reducible refine Kept.mk' ?_  (h_tb := .inr ⟨i0, sm, sm, sm⟩) (h_eth := .inr ⟨i4, .inr i5, .inr i6, sm⟩) (h_hp := .inr ⟨i42, .inr i43, sm, sm, .inr i46, sm, sm, sm, sm, sm, sm, sm⟩) (h_pair := .inr ⟨i54, sm, sm, sm⟩) (h_nv := .inr ⟨i60, sm, sm, sm, sm, sm, sm, sm⟩) (h_cnt := .inr i76) (h_limits := .inr i77) (h_evLog := .inr i78) (h_evLogSeq := .inr i79))
    | split
    | with_reducible refine KeptOut.mk' ?_
    | with_reducible refine KeptF.mk' ?_
    | with_reducible refine KeptF.fst ?_
    | dsimp +zetaDelta only

theorem kept_execWitnessLeaseExpiry {μ : Nat} (hw : 18014398509481985 &&& μ = 18014398509481985) {s0 : State} {n ns : Nat} {s : State}  (kh : Kept μ s0 s) :
    KeptOut μ s0 (execWitnessLeaseExpiry n ns s) := by
  have k_act : 0 &&& μ = 0 := sub_of hw rfl
  have k_modUnit : 18014398509481984 &&& μ = 18014398509481984 := sub_of hw rfl
  have k_seen : 1 &&& μ = 1 := sub_of hw rfl
  have i0 : μ.testBit 0 = true := bit_of hw rfl
  have i54 : μ.testBit 54 = true := bit_of hw rfl
  unfold execWitnessLeaseExpiry
  repeat' first
    | with_reducible assumption
    | (intro s; with_reducible refine (fun (hs : Kept μ s0 s) => ?_) ?_)
    | intro x
    | lift_lets
    | with_reducible refine kept_act k_act (fun s hs => ?_) ?_
    | with_reducible refine kept_seen k_seen ?_
    | with_reducible refine kept_modUnit k_modUnit smf smf smf ?_
    | (fail_if_no_progress with_reducible refine Kept.mk' ?_  (h_tb := .inr ⟨i0, sm, sm, sm⟩) (h_pair := .inr ⟨i54, sm, sm, sm⟩))
    | split
    | with_reducible refine KeptOut.mk' ?_
    | dsimp +zetaDelta only

theorem kept_pairStart {μ : Nat} (hw : 270215977642229760 &&& μ = 270215977642229760) {s0 : State} {s : State}  (kh : Kept μ s0 s) :
    Kept μ s0 (pairStart s) := by
  have k_setExpiry : 18014398509481984 &&& μ = 18014398509481984 := sub_of hw rfl
  have i54 : μ.testBit 54 = true := bit_of hw rfl
  have i55 : μ.testBit 55 = true := bit_of hw rfl
  have i56 : μ.testBit 56 = true := bit_of hw rfl
  have i57 : μ.testBit 57 = true := bit_of hw rfl
  unfold pairStart
  repeat' first
    | with_reducible assumption
    | (intro s; with_reducible refine (fun (hs : Kept μ s0 s) => ?_) ?_)
    | intro x
    | lift_lets
    | with_reducible refine kept_setExpiry k_setExpiry ?_
    | with_reducible refine kept_foldl (fun s x hs => ?_) ?_
    | (fail_if_no_progress with_reducible refine Kept.mk' ?_  (h_pair := .inr ⟨i54, .inr i55, .inr i56, .inr i57⟩))
    | split
    | dsimp +zetaDelta only

end Sys2Proof.Machine
end

