-- ==== Sys2Proof/Laws/KeptSecurity.lean ====
section
/-!
SUPPORT. Sys2Proof/Laws/KeptSecurity.lean: every operation of Security.lean keeps what no command changes, and the parts that it does not write (Kept.lean).
-/
set_option Elab.async false
set_option linter.unusedTactic false
set_option linter.unreachableTactic false
set_option linter.unusedVariables false
namespace Sys2Proof.Machine

theorem kept_secFlag {μ : Nat} (hw : 13194139533312 &&& μ = 13194139533312) {s0 : State} {b : Nat} {s : State}  (kh : Kept μ s0 s) :
    Kept μ s0 (secFlag b s) := by
  have k_setFlag : 13194139533312 &&& μ = 13194139533312 := sub_of hw rfl
  unfold secFlag
  repeat' first
    | with_reducible assumption
    | (intro s; with_reducible refine (fun (hs : Kept μ s0 s) => ?_) ?_)
    | intro x
    | lift_lets
    | with_reducible refine kept_setFlag k_setFlag ?_
    | split
    | dsimp +zetaDelta only

theorem kept_openStore {μ : Nat} (hw : 4323455642275676160 &&& μ = 4323455642275676160) {s0 : State} {s : State}  (kh : Kept μ s0 s) :
    Kept μ s0 (openStore s) := by
  have i58 : μ.testBit 58 = true := bit_of hw rfl
  have i59 : μ.testBit 59 = true := bit_of hw rfl
  have i60 : μ.testBit 60 = true := bit_of hw rfl
  have i61 : μ.testBit 61 = true := bit_of hw rfl
  unfold openStore
  repeat' first
    | with_reducible assumption
    | (intro s; with_reducible refine (fun (hs : Kept μ s0 s) => ?_) ?_)
    | intro x
    | lift_lets
    | (fail_if_no_progress with_reducible refine Kept.mk' ?_  (h_sec := .inr ⟨i58, .inr i59⟩) (h_nv := .inr ⟨i60, .inr i61, sm, sm, sm, sm, sm, sm⟩))
    | split
    | dsimp +zetaDelta only

theorem kept_slotWrite {μ : Nat} (hw : 906698706255779456876544 &&& μ = 906698706255779456876544) {s0 : State} {k : Nat} {c : VCell} {s : State}  (kh : Kept μ s0 s) :
    Kept μ s0 (slotWrite k c s) := by
  have k_openStore : 4323455642275676160 &&& μ = 4323455642275676160 := sub_of hw rfl
  have k_pairKeyUpdated : 18014398509481984 &&& μ = 18014398509481984 := sub_of hw rfl
  have k_raise : 906694364785738671718400 &&& μ = 906694364785738671718400 := sub_of hw rfl
  have k_setActiveStore : 3458764513820540928 &&& μ = 3458764513820540928 := sub_of hw rfl
  have i42 : μ.testBit 42 = true := bit_of hw rfl
  have i46 : μ.testBit 46 = true := bit_of hw rfl
  have i54 : μ.testBit 54 = true := bit_of hw rfl
  have i58 : μ.testBit 58 = true := bit_of hw rfl
  have i59 : μ.testBit 59 = true := bit_of hw rfl
  have i60 : μ.testBit 60 = true := bit_of hw rfl
  have i61 : μ.testBit 61 = true := bit_of hw rfl
  have i78 : μ.testBit 78 = true := bit_of hw rfl
  have i79 : μ.testBit 79 = true := bit_of hw rfl
  unfold slotWrite
  repeat' first
    | with_reducible assumption
    | (intro s; with_reducible refine (fun (hs : Kept μ s0 s) => ?_) ?_)
    | intro x
    | lift_lets
    | with_reducible refine kept_raise k_raise ?_
    | with_reducible refine kept_setActiveStore k_setActiveStore ?_
    | with_reducible refine kept_pairKeyUpdated k_pairKeyUpdated ?_
    | with_reducible refine kept_openStore k_openStore ?_
    | (fail_if_no_progress with_reducible refine Kept.mk' ?_  (h_hp := .inr ⟨i42, sm, sm, sm, .inr i46, sm, sm, sm, sm, sm, sm, sm⟩) (h_pair := .inr ⟨i54, sm, sm, sm⟩) (h_sec := .inr ⟨i58, .inr i59⟩) (h_nv := .inr ⟨i60, .inr i61, sm, sm, sm, sm, sm, sm⟩) (h_evLog := .inr i78) (h_evLogSeq := .inr i79))
    | split
    | dsimp +zetaDelta only

theorem kept_slotDone {μ : Nat} (hw : 906698706581234898698240 &&& μ = 906698706581234898698240) {s0 : State} {n k : Nat} {c : VCell} {s : State}  (kh : Kept μ s0 s) :
    Kept μ s0 (slotDone n k c s) := by
  have k_complete : 906694365111194113540096 &&& μ = 906694365111194113540096 := sub_of hw rfl
  have k_slotWrite : 906698706255779456876544 &&& μ = 906698706255779456876544 := sub_of hw rfl
  unfold slotDone
  repeat' first
    | with_reducible assumption
    | (intro s; with_reducible refine (fun (hs : Kept μ s0 s) => ?_) ?_)
    | intro x
    | lift_lets
    | with_reducible refine kept_complete k_complete ?_
    | with_reducible refine kept_slotWrite k_slotWrite ?_
    | split
    | dsimp +zetaDelta only

theorem kept_execCmdKeyPut {μ : Nat} (hw : 1133372297758977868955648 &&& μ = 1133372297758977868955648) {s0 : State} {n : Nat} {blob : Option (List Byte)} {s : State}  (kh : Kept μ s0 s) :
    KeptOut μ s0 (execCmdKeyPut n blob s) := by
  have k_act : 0 &&& μ = 0 := sub_of hw rfl
  have k_complete : 906694365111194113540096 &&& μ = 906694365111194113540096 := sub_of hw rfl
  have k_keyOp : 1133367955972277734998016 &&& μ = 1133367955972277734998016 := sub_of hw rfl
  have k_runCmd : 906694365111194113540096 &&& μ = 906694365111194113540096 := sub_of hw rfl
  have k_slotDone : 906698706581234898698240 &&& μ = 906698706581234898698240 := sub_of hw rfl
  have i42 : μ.testBit 42 = true := bit_of hw rfl
  have i43 : μ.testBit 43 = true := bit_of hw rfl
  have i45 : μ.testBit 45 = true := bit_of hw rfl
  have i46 : μ.testBit 46 = true := bit_of hw rfl
  have i48 : μ.testBit 48 = true := bit_of hw rfl
  have i54 : μ.testBit 54 = true := bit_of hw rfl
  have i58 : μ.testBit 58 = true := bit_of hw rfl
  have i59 : μ.testBit 59 = true := bit_of hw rfl
  have i60 : μ.testBit 60 = true := bit_of hw rfl
  have i61 : μ.testBit 61 = true := bit_of hw rfl
  have i76 : μ.testBit 76 = true := bit_of hw rfl
  have i77 : μ.testBit 77 = true := bit_of hw rfl
  have i78 : μ.testBit 78 = true := bit_of hw rfl
  have i79 : μ.testBit 79 = true := bit_of hw rfl
  unfold execCmdKeyPut
  repeat' first
    | with_reducible assumption
    | (intro s; with_reducible refine (fun (hs : Kept μ s0 s) => ?_) ?_)
    | intro x
    | lift_lets
    | with_reducible refine kept_act k_act (fun s hs => ?_) ?_
    | with_reducible refine kept_keyOp k_keyOp ?_
    | with_reducible refine kept_complete k_complete ?_
    | with_reducible refine kept_runCmd k_runCmd (fun r s hs => ?_) ?_
    | with_reducible refine kept_slotDone k_slotDone ?_
    | with_reducible refine KeptF.eq (by with_reducible assumption) ?_
    | (fail_if_no_progress with_reducible refine Kept.mk' ?_  (h_hp := .inr ⟨i42, .inr i43, sm, .inr i45, .inr i46, sm, .inr i48, sm, sm, sm, sm, sm⟩) (h_pair := .inr ⟨i54, sm, sm, sm⟩) (h_sec := .inr ⟨i58, .inr i59⟩) (h_nv := .inr ⟨i60, .inr i61, sm, sm, sm, sm, sm, sm⟩) (h_cnt := .inr i76) (h_limits := .inr i77) (h_evLog := .inr i78) (h_evLogSeq := .inr i79))
    | split
    | with_reducible refine KeptOut.mk' ?_
    | with_reducible refine KeptF.mk' ?_
    | with_reducible refine KeptF.fst ?_
    | dsimp +zetaDelta only

theorem kept_execCmdKeyDerive {μ : Nat} (hw : 1133372297758977868955648 &&& μ = 1133372297758977868955648) {s0 : State} {n : Nat} {s : State}  (kh : Kept μ s0 s) :
    KeptOut μ s0 (execCmdKeyDerive n s) := by
  have k_act : 0 &&& μ = 0 := sub_of hw rfl
  have k_complete : 906694365111194113540096 &&& μ = 906694365111194113540096 := sub_of hw rfl
  have k_count : 982252228520449088159744 &&& μ = 982252228520449088159744 := sub_of hw rfl
  have k_keyOp : 1133367955972277734998016 &&& μ = 1133367955972277734998016 := sub_of hw rfl
  have k_runCmd : 906694365111194113540096 &&& μ = 906694365111194113540096 := sub_of hw rfl
  have k_slotDone : 906698706581234898698240 &&& μ = 906698706581234898698240 := sub_of hw rfl
  have i42 : μ.testBit 42 = true := bit_of hw rfl
  have i43 : μ.testBit 43 = true := bit_of hw rfl
  have i45 : μ.testBit 45 = true := bit_of hw rfl
  have i46 : μ.testBit 46 = true := bit_of hw rfl
  have i48 : μ.testBit 48 = true := bit_of hw rfl
  have i54 : μ.testBit 54 = true := bit_of hw rfl
  have i58 : μ.testBit 58 = true := bit_of hw rfl
  have i59 : μ.testBit 59 = true := bit_of hw rfl
  have i60 : μ.testBit 60 = true := bit_of hw rfl
  have i61 : μ.testBit 61 = true := bit_of hw rfl
  have i76 : μ.testBit 76 = true := bit_of hw rfl
  have i77 : μ.testBit 77 = true := bit_of hw rfl
  have i78 : μ.testBit 78 = true := bit_of hw rfl
  have i79 : μ.testBit 79 = true := bit_of hw rfl
  unfold execCmdKeyDerive
  repeat' first
    | with_reducible assumption
    | (intro s; with_reducible refine (fun (hs : Kept μ s0 s) => ?_) ?_)
    | intro x
    | lift_lets
    | with_reducible refine kept_act k_act (fun s hs => ?_) ?_
    | with_reducible refine kept_count k_count ?_
    | with_reducible refine kept_keyOp k_keyOp ?_
    | with_reducible refine kept_complete k_complete ?_
    | with_reducible refine kept_runCmd k_runCmd (fun r s hs => ?_) ?_
    | with_reducible refine kept_slotDone k_slotDone ?_
    | with_reducible refine KeptF.eq (by with_reducible assumption) ?_
    | (fail_if_no_progress with_reducible refine Kept.mk' ?_  (h_hp := .inr ⟨i42, .inr i43, sm, .inr i45, .inr i46, sm, .inr i48, sm, sm, sm, sm, sm⟩) (h_pair := .inr ⟨i54, sm, sm, sm⟩) (h_sec := .inr ⟨i58, .inr i59⟩) (h_nv := .inr ⟨i60, .inr i61, sm, sm, sm, sm, sm, sm⟩) (h_cnt := .inr i76) (h_limits := .inr i77) (h_evLog := .inr i78) (h_evLogSeq := .inr i79))
    | split
    | with_reducible refine KeptOut.mk' ?_
    | with_reducible refine KeptF.mk' ?_
    | with_reducible refine KeptF.fst ?_
    | dsimp +zetaDelta only

theorem kept_execCmdKeyErase {μ : Nat} (hw : 906698706581234898698240 &&& μ = 906698706581234898698240) {s0 : State} {n : Nat} {s : State}  (kh : Kept μ s0 s) :
    KeptOut μ s0 (execCmdKeyErase n s) := by
  have k_act : 0 &&& μ = 0 := sub_of hw rfl
  have k_complete : 906694365111194113540096 &&& μ = 906694365111194113540096 := sub_of hw rfl
  have k_runCmd : 906694365111194113540096 &&& μ = 906694365111194113540096 := sub_of hw rfl
  have k_slotDone : 906698706581234898698240 &&& μ = 906698706581234898698240 := sub_of hw rfl
  unfold execCmdKeyErase
  repeat' first
    | with_reducible assumption
    | (intro s; with_reducible refine (fun (hs : Kept μ s0 s) => ?_) ?_)
    | intro x
    | lift_lets
    | with_reducible refine kept_act k_act (fun s hs => ?_) ?_
    | with_reducible refine kept_complete k_complete ?_
    | with_reducible refine kept_runCmd k_runCmd (fun r s hs => ?_) ?_
    | with_reducible refine kept_slotDone k_slotDone ?_
    | split
    | with_reducible refine KeptOut.mk' ?_
    | dsimp +zetaDelta only

theorem kept_execCmdIdGet {μ : Nat} (hw : 906694365111194113540096 &&& μ = 906694365111194113540096) {s0 : State} {n : Nat} {ok : Bool} {s : State}  (kh : Kept μ s0 s) :
    KeptOut μ s0 (execCmdIdGet n ok s) := by
  have k_act : 0 &&& μ = 0 := sub_of hw rfl
  have k_complete : 906694365111194113540096 &&& μ = 906694365111194113540096 := sub_of hw rfl
  have k_hostWrite : 285873023221760 &&& μ = 285873023221760 := sub_of hw rfl
  have k_runCmd : 906694365111194113540096 &&& μ = 906694365111194113540096 := sub_of hw rfl
  unfold execCmdIdGet
  repeat' first
    | with_reducible assumption
    | (intro s; with_reducible refine (fun (hs : Kept μ s0 s) => ?_) ?_)
    | intro x
    | lift_lets
    | with_reducible refine kept_act k_act (fun s hs => ?_) ?_
    | with_reducible refine kept_complete k_complete ?_
    | with_reducible refine kept_runCmd k_runCmd (fun r s hs => ?_) ?_
    | with_reducible refine kept_hostWrite k_hostWrite ?_
    | split
    | with_reducible refine KeptOut.mk' ?_
    | dsimp +zetaDelta only

theorem kept_execCmdQuote {μ : Nat} (hw : 982252228837108436959232 &&& μ = 982252228837108436959232) {s0 : State} {n : Nat} {ok : Bool} {s : State}  (kh : Kept μ s0 s) :
    KeptOut μ s0 (execCmdQuote n ok s) := by
  have k_act : 0 &&& μ = 0 := sub_of hw rfl
  have k_complete : 906694365111194113540096 &&& μ = 906694365111194113540096 := sub_of hw rfl
  have k_count : 982252228520449088159744 &&& μ = 982252228520449088159744 := sub_of hw rfl
  have k_hostWrite : 285873023221760 &&& μ = 285873023221760 := sub_of hw rfl
  have k_runCmd : 906694365111194113540096 &&& μ = 906694365111194113540096 := sub_of hw rfl
  unfold execCmdQuote
  repeat' first
    | with_reducible assumption
    | (intro s; with_reducible refine (fun (hs : Kept μ s0 s) => ?_) ?_)
    | intro x
    | lift_lets
    | with_reducible refine kept_act k_act (fun s hs => ?_) ?_
    | with_reducible refine kept_count k_count ?_
    | with_reducible refine kept_complete k_complete ?_
    | with_reducible refine kept_runCmd k_runCmd (fun r s hs => ?_) ?_
    | with_reducible refine kept_hostWrite k_hostWrite ?_
    | split
    | with_reducible refine KeptOut.mk' ?_
    | dsimp +zetaDelta only

theorem kept_execCmdMeterKeyGet {μ : Nat} (hw : 906694365111194113540096 &&& μ = 906694365111194113540096) {s0 : State} {n : Nat} {ok : Bool} {s : State}  (kh : Kept μ s0 s) :
    KeptOut μ s0 (execCmdMeterKeyGet n ok s) := by
  have k_act : 0 &&& μ = 0 := sub_of hw rfl
  have k_complete : 906694365111194113540096 &&& μ = 906694365111194113540096 := sub_of hw rfl
  have k_hostWrite : 285873023221760 &&& μ = 285873023221760 := sub_of hw rfl
  have k_runCmd : 906694365111194113540096 &&& μ = 906694365111194113540096 := sub_of hw rfl
  unfold execCmdMeterKeyGet
  repeat' first
    | with_reducible assumption
    | (intro s; with_reducible refine (fun (hs : Kept μ s0 s) => ?_) ?_)
    | intro x
    | lift_lets
    | with_reducible refine kept_act k_act (fun s hs => ?_) ?_
    | with_reducible refine kept_complete k_complete ?_
    | with_reducible refine kept_runCmd k_runCmd (fun r s hs => ?_) ?_
    | with_reducible refine kept_hostWrite k_hostWrite ?_
    | split
    | with_reducible refine KeptOut.mk' ?_
    | dsimp +zetaDelta only

theorem kept_fwEvent {μ : Nat} (hw : 906694364785738671718400 &&& μ = 906694364785738671718400) {s0 : State} {op res : Nat} {s : State}  (kh : Kept μ s0 s) :
    Kept μ s0 (fwEvent op res s) := by
  have k_raise : 906694364785738671718400 &&& μ = 906694364785738671718400 := sub_of hw rfl
  unfold fwEvent
  repeat' first
    | with_reducible assumption
    | (intro s; with_reducible refine (fun (hs : Kept μ s0 s) => ?_) ?_)
    | intro x
    | lift_lets
    | with_reducible refine kept_raise k_raise ?_
    | split
    | dsimp +zetaDelta only

theorem kept_fwRefuse {μ : Nat} (hw : 906694365111194113540096 &&& μ = 906694365111194113540096) {s0 : State} {n op r : Nat} {s : State}  (kh : Kept μ s0 s) :
    Kept μ s0 (fwRefuse n op r s) := by
  have k_complete : 906694365111194113540096 &&& μ = 906694365111194113540096 := sub_of hw rfl
  have k_fwEvent : 906694364785738671718400 &&& μ = 906694364785738671718400 := sub_of hw rfl
  unfold fwRefuse
  repeat' first
    | with_reducible assumption
    | (intro s; with_reducible refine (fun (hs : Kept μ s0 s) => ?_) ?_)
    | intro x
    | lift_lets
    | with_reducible refine kept_complete k_complete ?_
    | with_reducible refine kept_fwEvent k_fwEvent ?_
    | split
    | dsimp +zetaDelta only

theorem kept_modOtherFw {μ : Nat} (hw : 5764607523034234880 &&& μ = 5764607523034234880) {s0 : State} {f : FwCopy → FwCopy} {s : State}  (kh : Kept μ s0 s) :
    Kept μ s0 (modOtherFw f s) := by
  have i60 : μ.testBit 60 = true := bit_of hw rfl
  have i62 : μ.testBit 62 = true := bit_of hw rfl
  unfold modOtherFw
  repeat' first
    | with_reducible assumption
    | (intro s; with_reducible refine (fun (hs : Kept μ s0 s) => ?_) ?_)
    | intro x
    | lift_lets
    | (fail_if_no_progress with_reducible refine Kept.mk' ?_  (h_nv := .inr ⟨i60, sm, .inr i62, sm, sm, sm, sm, sm⟩))
    | split
    | dsimp +zetaDelta only

theorem kept_execCmdFwStage {μ : Nat} (hw : 906700417949093299486720 &&& μ = 906700417949093299486720) {s0 : State} {n : Nat} {pkg : Option FwPkg} {s : State}  (kh : Kept μ s0 s) :
    KeptOut μ s0 (execCmdFwStage n pkg s) := by
  have k_act : 0 &&& μ = 0 := sub_of hw rfl
  have k_complete : 906694365111194113540096 &&& μ = 906694365111194113540096 := sub_of hw rfl
  have k_fwEvent : 906694364785738671718400 &&& μ = 906694364785738671718400 := sub_of hw rfl
  have k_fwRefuse : 906694365111194113540096 &&& μ = 906694365111194113540096 := sub_of hw rfl
  have k_modOtherFw : 5764607523034234880 &&& μ = 5764607523034234880 := sub_of hw rfl
  have k_runCmd : 906694365111194113540096 &&& μ = 906694365111194113540096 := sub_of hw rfl
  have i42 : μ.testBit 42 = true := bit_of hw rfl
  have i43 : μ.testBit 43 = true := bit_of hw rfl
  have i45 : μ.testBit 45 = true := bit_of hw rfl
  have i46 : μ.testBit 46 = true := bit_of hw rfl
  have i48 : μ.testBit 48 = true := bit_of hw rfl
  have i58 : μ.testBit 58 = true := bit_of hw rfl
  have i60 : μ.testBit 60 = true := bit_of hw rfl
  have i62 : μ.testBit 62 = true := bit_of hw rfl
  have i78 : μ.testBit 78 = true := bit_of hw rfl
  have i79 : μ.testBit 79 = true := bit_of hw rfl
  unfold execCmdFwStage
  repeat' first
    | with_reducible assumption
    | (intro s; with_reducible refine (fun (hs : Kept μ s0 s) => ?_) ?_)
    | intro x
    | lift_lets
    | with_reducible refine kept_act k_act (fun s hs => ?_) ?_
    | with_reducible refine kept_complete k_complete ?_
    | with_reducible refine kept_runCmd k_runCmd (fun r s hs => ?_) ?_
    | with_reducible refine kept_fwEvent k_fwEvent ?_
    | with_reducible refine kept_fwRefuse k_fwRefuse ?_
    | with_reducible refine kept_modOtherFw k_modOtherFw ?_
    | (fail_if_no_progress with_reducible refine Kept.mk' ?_  (h_hp := .inr ⟨i42, .inr i43, sm, .inr i45, .inr i46, sm, .inr i48, sm, sm, sm, sm, sm⟩) (h_sec := .inr ⟨i58, sm⟩) (h_nv := .inr ⟨i60, sm, .inr i62, sm, sm, sm, sm, sm⟩) (h_evLog := .inr i78) (h_evLogSeq := .inr i79))
    | split
    | with_reducible refine KeptOut.mk' ?_
    | dsimp +zetaDelta only

theorem kept_execCmdFwRewrap {μ : Nat} (hw : 906698112106084085792768 &&& μ = 906698112106084085792768) {s0 : State} {n : Nat} {s : State}  (kh : Kept μ s0 s) :
    KeptOut μ s0 (execCmdFwRewrap n s) := by
  have k_act : 0 &&& μ = 0 := sub_of hw rfl
  have k_complete : 906694365111194113540096 &&& μ = 906694365111194113540096 := sub_of hw rfl
  have k_fwEvent : 906694364785738671718400 &&& μ = 906694364785738671718400 := sub_of hw rfl
  have k_fwRefuse : 906694365111194113540096 &&& μ = 906694365111194113540096 := sub_of hw rfl
  have k_runCmd : 906694365111194113540096 &&& μ = 906694365111194113540096 := sub_of hw rfl
  have i42 : μ.testBit 42 = true := bit_of hw rfl
  have i43 : μ.testBit 43 = true := bit_of hw rfl
  have i45 : μ.testBit 45 = true := bit_of hw rfl
  have i46 : μ.testBit 46 = true := bit_of hw rfl
  have i48 : μ.testBit 48 = true := bit_of hw rfl
  have i58 : μ.testBit 58 = true := bit_of hw rfl
  have i60 : μ.testBit 60 = true := bit_of hw rfl
  have i61 : μ.testBit 61 = true := bit_of hw rfl
  have i78 : μ.testBit 78 = true := bit_of hw rfl
  have i79 : μ.testBit 79 = true := bit_of hw rfl
  unfold execCmdFwRewrap
  repeat' first
    | with_reducible assumption
    | (intro s; with_reducible refine (fun (hs : Kept μ s0 s) => ?_) ?_)
    | intro x
    | lift_lets
    | with_reducible refine kept_act k_act (fun s hs => ?_) ?_
    | with_reducible refine kept_complete k_complete ?_
    | with_reducible refine kept_runCmd k_runCmd (fun r s hs => ?_) ?_
    | with_reducible refine kept_fwEvent k_fwEvent ?_
    | with_reducible refine kept_fwRefuse k_fwRefuse ?_
    | (fail_if_no_progress with_reducible refine Kept.mk' ?_  (h_hp := .inr ⟨i42, .inr i43, sm, .inr i45, .inr i46, sm, .inr i48, sm, sm, sm, sm, sm⟩) (h_sec := .inr ⟨i58, sm⟩) (h_nv := .inr ⟨i60, .inr i61, sm, sm, sm, sm, sm, sm⟩) (h_evLog := .inr i78) (h_evLogSeq := .inr i79))
    | split
    | with_reducible refine KeptOut.mk' ?_
    | dsimp +zetaDelta only

theorem kept_logTamper {μ : Nat} (hw : 987271184060378844758016 &&& μ = 987271184060378844758016) {s0 : State} {mask phase : Nat} {s : State}  (kh : Kept μ s0 s) :
    Kept μ s0 (logTamper mask phase s) := by
  have k_count : 982252228520449088159744 &&& μ = 982252228520449088159744 := sub_of hw rfl
  have k_secFlag : 13194139533312 &&& μ = 13194139533312 := sub_of hw rfl
  have i42 : μ.testBit 42 = true := bit_of hw rfl
  have i43 : μ.testBit 43 = true := bit_of hw rfl
  have i46 : μ.testBit 46 = true := bit_of hw rfl
  have i58 : μ.testBit 58 = true := bit_of hw rfl
  have i60 : μ.testBit 60 = true := bit_of hw rfl
  have i68 : μ.testBit 68 = true := bit_of hw rfl
  have i72 : μ.testBit 72 = true := bit_of hw rfl
  have i76 : μ.testBit 76 = true := bit_of hw rfl
  have i78 : μ.testBit 78 = true := bit_of hw rfl
  have i79 : μ.testBit 79 = true := bit_of hw rfl
  unfold logTamper
  have hs : Kept μ s0 (count (SEC + 0x308) (secFlag 0 { s with vbat := { s.vbat with
      tlog := ({ sources := mask, phase := phase, lc := s.fuses.lc, time := s.vbat.rtc } :: s.vbat.tlog).take 16 } })) :=
    kept_count k_count (kept_secFlag k_secFlag ⟨kh.pending, kh.part, kh.hp, kh.push, kh.tick, kh.svn, kh.bill, kh.ctr, kh.ctr64, kh.evl,
      fun _ => List.length_take_le _ _, kh.fr.mk' (h_hp := .inr ⟨i42, .inr i43, sm, sm, .inr i46, sm, sm, sm, sm, sm, sm, sm⟩) (h_sec := .inr ⟨i58, sm⟩) (h_nv := .inr ⟨i60, sm, sm, sm, sm, sm, sm, sm⟩) (h_vbat := .inr ⟨i68, sm, sm, sm, .inr i72⟩) (h_cnt := .inr i76) (h_evLog := .inr i78) (h_evLogSeq := .inr i79)⟩)
  dsimp only
  split
  · exact Kept.mk' hs  (h_hp := .inr ⟨i42, .inr i43, sm, sm, .inr i46, sm, sm, sm, sm, sm, sm, sm⟩) (h_sec := .inr ⟨i58, sm⟩) (h_nv := .inr ⟨i60, sm, sm, sm, sm, sm, sm, sm⟩) (h_vbat := .inr ⟨i68, sm, sm, sm, .inr i72⟩) (h_cnt := .inr i76) (h_evLog := .inr i78) (h_evLogSeq := .inr i79)
  · exact Kept.mk' hs  (h_hp := .inr ⟨i42, .inr i43, sm, sm, .inr i46, sm, sm, sm, sm, sm, sm, sm⟩) (h_sec := .inr ⟨i58, sm⟩) (h_nv := .inr ⟨i60, sm, sm, sm, sm, sm, sm, sm⟩) (h_vbat := .inr ⟨i68, sm, sm, sm, .inr i72⟩) (h_cnt := .inr i76) (h_evLog := .inr i78) (h_evLogSeq := .inr i79)

theorem kept_zeroiseVault {μ : Nat} (hw : 4323455642275676160 &&& μ = 4323455642275676160) {s0 : State} {s : State}  (kh : Kept μ s0 s) :
    Kept μ s0 (zeroiseVault s) := by
  have i58 : μ.testBit 58 = true := bit_of hw rfl
  have i59 : μ.testBit 59 = true := bit_of hw rfl
  have i60 : μ.testBit 60 = true := bit_of hw rfl
  have i61 : μ.testBit 61 = true := bit_of hw rfl
  unfold zeroiseVault
  repeat' first
    | with_reducible assumption
    | (intro s; with_reducible refine (fun (hs : Kept μ s0 s) => ?_) ?_)
    | intro x
    | lift_lets
    | (fail_if_no_progress with_reducible refine Kept.mk' ?_  (h_sec := .inr ⟨i58, .inr i59⟩) (h_nv := .inr ⟨i60, .inr i61, sm, sm, sm, sm, sm, sm⟩))
    | split
    | dsimp +zetaDelta only

theorem kept_tamperLock {μ : Nat} (hw : 10334500136919624581120 &&& μ = 10334500136919624581120) {s0 : State} {phase : Nat} {s : State}  (kh : Kept μ s0 s) :
    Kept μ s0 (tamperLock phase s) := by
  have k_zeroiseVault : 4323455642275676160 &&& μ = 4323455642275676160 := sub_of hw rfl
  have i58 : μ.testBit 58 = true := bit_of hw rfl
  have i59 : μ.testBit 59 = true := bit_of hw rfl
  have i60 : μ.testBit 60 = true := bit_of hw rfl
  have i61 : μ.testBit 61 = true := bit_of hw rfl
  have i68 : μ.testBit 68 = true := bit_of hw rfl
  have i69 : μ.testBit 69 = true := bit_of hw rfl
  have i73 : μ.testBit 73 = true := bit_of hw rfl
  unfold tamperLock
  repeat' first
    | with_reducible assumption
    | (intro s; with_reducible refine (fun (hs : Kept μ s0 s) => ?_) ?_)
    | intro x
    | lift_lets
    | with_reducible refine kept_zeroiseVault k_zeroiseVault ?_
    | (fail_if_no_progress with_reducible refine Kept.mk' ?_  (h_sec := .inr ⟨i58, .inr i59⟩) (h_nv := .inr ⟨i60, .inr i61, sm, sm, sm, sm, sm, sm⟩) (h_vbat := .inr ⟨i68, .inr i69, sm, sm, sm⟩) (h_fuses := .inr i73))
    | split
    | dsimp +zetaDelta only

theorem kept_reportTamper {μ : Nat} (hw : 906694364785738671718400 &&& μ = 906694364785738671718400) {s0 : State} {mask phase : Nat} {s : State}  (kh : Kept μ s0 s) :
    Kept μ s0 (reportTamper mask phase s) := by
  have k_raise : 906694364785738671718400 &&& μ = 906694364785738671718400 := sub_of hw rfl
  unfold reportTamper
  repeat' first
    | with_reducible assumption
    | (intro s; with_reducible refine (fun (hs : Kept μ s0 s) => ?_) ?_)
    | intro x
    | lift_lets
    | with_reducible refine kept_raise k_raise ?_
    | with_reducible refine kept_foldl (fun s x hs => ?_) ?_
    | split
    | dsimp +zetaDelta only

theorem kept_execTamperDetect {μ : Nat} (hw : 1148424822592067004792832 &&& μ = 1148424822592067004792832) {s0 : State} {mask : Nat} {keyOp : Bool} {s : State}  (kh : Kept μ s0 s) :
    KeptOut μ s0 (execTamperDetect mask keyOp s) := by
  have k_keyOp : 1133367955972277734998016 &&& μ = 1133367955972277734998016 := sub_of hw rfl
  have k_logTamper : 987271184060378844758016 &&& μ = 987271184060378844758016 := sub_of hw rfl
  have k_reportTamper : 906694364785738671718400 &&& μ = 906694364785738671718400 := sub_of hw rfl
  have k_secFlag : 13194139533312 &&& μ = 13194139533312 := sub_of hw rfl
  have k_tamperLock : 10334500136919624581120 &&& μ = 10334500136919624581120 := sub_of hw rfl
  have i42 : μ.testBit 42 = true := bit_of hw rfl
  have i43 : μ.testBit 43 = true := bit_of hw rfl
  have i46 : μ.testBit 46 = true := bit_of hw rfl
  have i58 : μ.testBit 58 = true := bit_of hw rfl
  have i59 : μ.testBit 59 = true := bit_of hw rfl
  have i60 : μ.testBit 60 = true := bit_of hw rfl
  have i61 : μ.testBit 61 = true := bit_of hw rfl
  have i68 : μ.testBit 68 = true := bit_of hw rfl
  have i69 : μ.testBit 69 = true := bit_of hw rfl
  have i72 : μ.testBit 72 = true := bit_of hw rfl
  have i73 : μ.testBit 73 = true := bit_of hw rfl
  have i76 : μ.testBit 76 = true := bit_of hw rfl
  have i77 : μ.testBit 77 = true := bit_of hw rfl
  have i78 : μ.testBit 78 = true := bit_of hw rfl
  have i79 : μ.testBit 79 = true := bit_of hw rfl
  unfold execTamperDetect
  repeat' first
    | with_reducible assumption
    | (intro s; with_reducible refine (fun (hs : Kept μ s0 s) => ?_) ?_)
    | intro x
    | lift_lets
    | with_reducible refine kept_keyOp k_keyOp ?_
    | with_reducible refine kept_secFlag k_secFlag ?_
    | with_reducible refine kept_logTamper k_logTamper ?_
    | with_reducible refine kept_tamperLock k_tamperLock ?_
    | with_reducible refine kept_reportTamper k_reportTamper ?_
    | with_reducible refine KeptF.eq (by with_reducible assumption) ?_
    | (fail_if_no_progress with_reducible refine Kept.mk' ?_  (h_hp := .inr ⟨i42, .inr i43, sm, sm, .inr i46, sm, sm, sm, sm, sm, sm, sm⟩) (h_sec := .inr ⟨i58, .inr i59⟩) (h_nv := .inr ⟨i60, .inr i61, sm, sm, sm, sm, sm, sm⟩) (h_vbat := .inr ⟨i68, .inr i69, sm, sm, .inr i72⟩) (h_fuses := .inr i73) (h_cnt := .inr i76) (h_limits := .inr i77) (h_evLog := .inr i78) (h_evLogSeq := .inr i79))
    | split
    | with_reducible refine KeptOut.mk' ?_
    | with_reducible refine KeptF.mk' ?_
    | with_reducible refine KeptF.fst ?_
    | dsimp +zetaDelta only

end Sys2Proof.Machine
end

