-- ==== Sys2Proof/Laws/KeptScheduler.lean ====
section
/-!
SUPPORT. Sys2Proof/Laws/KeptScheduler.lean: every operation of Scheduler.lean keeps what no command changes, and the parts that it does not write (Kept.lean).
-/
set_option Elab.async false
set_option linter.unusedTactic false
set_option linter.unreachableTactic false
set_option linter.unusedVariables false
namespace Sys2Proof.Machine

theorem kept_modTsk {μ : Nat} (hw : 536870912 &&& μ = 536870912) {s0 : State} {F : Tsk → Tsk} {s : State}
    (hf_work : (∀ f : Tsk, ((F f).items, (F f).stalled, (F f).dls) = (f.items, f.stalled, f.dls)) ∨ μ.testBit 30 = true)
    (kh : Kept μ s0 s) : Kept μ s0 (modTsk F s) := by
  have i29 : μ.testBit 29 = true := bit_of hw rfl
  exact Kept.mk' kh  (h_tsk := .inr ⟨i29, hf_work.imp (fun h => h s.tsk) id⟩)

theorem kept_tskFlag {μ : Nat} (hw : 13194139533312 &&& μ = 13194139533312) {s0 : State} {b : Nat} {s : State}  (kh : Kept μ s0 s) :
    Kept μ s0 (tskFlag b s) := by
  have k_setFlag : 13194139533312 &&& μ = 13194139533312 := sub_of hw rfl
  unfold tskFlag
  repeat' first
    | with_reducible assumption
    | (intro s; with_reducible refine (fun (hs : Kept μ s0 s) => ?_) ?_)
    | intro x
    | lift_lets
    | with_reducible refine kept_setFlag k_setFlag ?_
    | split
    | dsimp +zetaDelta only

theorem kept_tskCount {μ : Nat} (hw : 982252228520449088159744 &&& μ = 982252228520449088159744) {s0 : State} {k : Nat} {s : State}  (kh : Kept μ s0 s) :
    Kept μ s0 (tskCount k s) := by
  have k_count : 982252228520449088159744 &&& μ = 982252228520449088159744 := sub_of hw rfl
  unfold tskCount
  repeat' first
    | with_reducible assumption
    | (intro s; with_reducible refine (fun (hs : Kept μ s0 s) => ?_) ?_)
    | intro x
    | lift_lets
    | with_reducible refine kept_count k_count ?_
    | split
    | dsimp +zetaDelta only

theorem kept_arbCount {μ : Nat} (hw : 982252228520449088159744 &&& μ = 982252228520449088159744) {s0 : State} {k : Nat} {s : State}  (kh : Kept μ s0 s) :
    Kept μ s0 (arbCount k s) := by
  have k_count : 982252228520449088159744 &&& μ = 982252228520449088159744 := sub_of hw rfl
  unfold arbCount
  repeat' first
    | with_reducible assumption
    | (intro s; with_reducible refine (fun (hs : Kept μ s0 s) => ?_) ?_)
    | intro x
    | lift_lets
    | with_reducible refine kept_count k_count ?_
    | split
    | dsimp +zetaDelta only

theorem kept_arbFlag {μ : Nat} (hw : 13194139533312 &&& μ = 13194139533312) {s0 : State} {b : Nat} {s : State}  (kh : Kept μ s0 s) :
    Kept μ s0 (arbFlag b s) := by
  have k_setFlag : 13194139533312 &&& μ = 13194139533312 := sub_of hw rfl
  unfold arbFlag
  repeat' first
    | with_reducible assumption
    | (intro s; with_reducible refine (fun (hs : Kept μ s0 s) => ?_) ?_)
    | intro x
    | lift_lets
    | with_reducible refine kept_setFlag k_setFlag ?_
    | split
    | dsimp +zetaDelta only

theorem kept_pushItem {μ : Nat} (hw : 21991843168256 &&& μ = 21991843168256) {s0 : State} {flow adm start : Nat} {s : State}  (kh : Kept μ s0 s) :
    Kept μ s0 (pushItem flow adm start s) := by
  have k_modTsk : 536870912 &&& μ = 536870912 := sub_of hw rfl
  have k_rcMax : 21990232555520 &&& μ = 21990232555520 := sub_of hw rfl
  have i29 : μ.testBit 29 = true := bit_of hw rfl
  have i30 : μ.testBit 30 = true := bit_of hw rfl
  have i42 : μ.testBit 42 = true := bit_of hw rfl
  have i44 : μ.testBit 44 = true := bit_of hw rfl
  unfold pushItem
  repeat' first
    | with_reducible assumption
    | (intro s; with_reducible refine (fun (hs : Kept μ s0 s) => ?_) ?_)
    | intro x
    | lift_lets
    | with_reducible refine kept_rcMax k_rcMax ?_
    | with_reducible refine kept_modTsk k_modTsk (.inr i30) ?_
    | (fail_if_no_progress with_reducible refine Kept.mk' ?_  (h_tsk := .inr ⟨i29, .inr i30⟩) (h_hp := .inr ⟨i42, sm, .inr i44, sm, sm, sm, sm, sm, sm, sm, sm, sm⟩))
    | split
    | dsimp +zetaDelta only

theorem kept_dlPut {μ : Nat} (hw : 21991843168256 &&& μ = 21991843168256) {s0 : State} {l : Nat} {e : DlEnt} {s : State}  (kh : Kept μ s0 s) :
    Kept μ s0 (dlPut l e s) := by
  have k_modTsk : 536870912 &&& μ = 536870912 := sub_of hw rfl
  have k_rcMax : 21990232555520 &&& μ = 21990232555520 := sub_of hw rfl
  have i29 : μ.testBit 29 = true := bit_of hw rfl
  have i30 : μ.testBit 30 = true := bit_of hw rfl
  have i42 : μ.testBit 42 = true := bit_of hw rfl
  have i44 : μ.testBit 44 = true := bit_of hw rfl
  unfold dlPut
  repeat' first
    | with_reducible assumption
    | (intro s; with_reducible refine (fun (hs : Kept μ s0 s) => ?_) ?_)
    | intro x
    | lift_lets
    | with_reducible refine kept_rcMax k_rcMax ?_
    | with_reducible refine kept_modTsk k_modTsk (.inr i30) ?_
    | (fail_if_no_progress with_reducible refine Kept.mk' ?_  (h_tsk := .inr ⟨i29, .inr i30⟩) (h_hp := .inr ⟨i42, sm, .inr i44, sm, sm, sm, sm, sm, sm, sm, sm, sm⟩))
    | split
    | dsimp +zetaDelta only

theorem kept_offer {μ : Nat} (hw : 21991843168256 &&& μ = 21991843168256) {s0 : State} {w : TskWait} {s : State}  (kh : Kept μ s0 s) :
    Kept μ s0 (offer w s) := by
  have k_dlPut : 21991843168256 &&& μ = 21991843168256 := sub_of hw rfl
  have k_modTsk : 536870912 &&& μ = 536870912 := sub_of hw rfl
  have k_pushItem : 21991843168256 &&& μ = 21991843168256 := sub_of hw rfl
  have i29 : μ.testBit 29 = true := bit_of hw rfl
  have i30 : μ.testBit 30 = true := bit_of hw rfl
  have i42 : μ.testBit 42 = true := bit_of hw rfl
  have i44 : μ.testBit 44 = true := bit_of hw rfl
  unfold offer
  repeat' first
    | with_reducible assumption
    | (intro s; with_reducible refine (fun (hs : Kept μ s0 s) => ?_) ?_)
    | intro x
    | lift_lets
    | with_reducible refine kept_modTsk k_modTsk (.inr i30) ?_
    | with_reducible refine kept_pushItem k_pushItem ?_
    | with_reducible refine kept_dlPut k_dlPut ?_
    | (fail_if_no_progress with_reducible refine Kept.mk' ?_  (h_tsk := .inr ⟨i29, .inr i30⟩) (h_hp := .inr ⟨i42, sm, .inr i44, sm, sm, sm, sm, sm, sm, sm, sm, sm⟩))
    | split
    | dsimp +zetaDelta only

theorem kept_offerNew {μ : Nat} (hw : 982252228538042884816896 &&& μ = 982252228538042884816896) {s0 : State} {w : TskWait} {s : State}  (kh : Kept μ s0 s) :
    Kept μ s0 (offerNew w s) := by
  have k_offer : 21991843168256 &&& μ = 21991843168256 := sub_of hw rfl
  have k_tskCount : 982252228520449088159744 &&& μ = 982252228520449088159744 := sub_of hw rfl
  have k_tskFlag : 13194139533312 &&& μ = 13194139533312 := sub_of hw rfl
  unfold offerNew
  repeat' first
    | with_reducible assumption
    | (intro s; with_reducible refine (fun (hs : Kept μ s0 s) => ?_) ?_)
    | intro x
    | lift_lets
    | with_reducible refine kept_tskFlag k_tskFlag ?_
    | with_reducible refine kept_tskCount k_tskCount ?_
    | with_reducible refine kept_offer k_offer ?_
    | split
    | dsimp +zetaDelta only

theorem kept_admitItem {μ : Nat} (hw : 982252228538042884816896 &&& μ = 982252228538042884816896) {s0 : State} {flow start : Nat} {s : State}  (kh : Kept μ s0 s) :
    Kept μ s0 (admitItem flow start s) := by
  have k_modTsk : 536870912 &&& μ = 536870912 := sub_of hw rfl
  have k_offerNew : 982252228538042884816896 &&& μ = 982252228538042884816896 := sub_of hw rfl
  have i29 : μ.testBit 29 = true := bit_of hw rfl
  have i30 : μ.testBit 30 = true := bit_of hw rfl
  have i42 : μ.testBit 42 = true := bit_of hw rfl
  have i43 : μ.testBit 43 = true := bit_of hw rfl
  have i44 : μ.testBit 44 = true := bit_of hw rfl
  have i46 : μ.testBit 46 = true := bit_of hw rfl
  have i76 : μ.testBit 76 = true := bit_of hw rfl
  have i78 : μ.testBit 78 = true := bit_of hw rfl
  have i79 : μ.testBit 79 = true := bit_of hw rfl
  unfold admitItem
  repeat' first
    | with_reducible assumption
    | (intro s; with_reducible refine (fun (hs : Kept μ s0 s) => ?_) ?_)
    | intro x
    | lift_lets
    | with_reducible refine kept_modTsk k_modTsk (.inr i30) ?_
    | with_reducible refine kept_offerNew k_offerNew ?_
    | (fail_if_no_progress with_reducible refine Kept.mk' ?_  (h_tsk := .inr ⟨i29, .inr i30⟩) (h_hp := .inr ⟨i42, .inr i43, .inr i44, sm, .inr i46, sm, sm, sm, sm, sm, sm, sm⟩) (h_cnt := .inr i76) (h_evLog := .inr i78) (h_evLogSeq := .inr i79))
    | split
    | dsimp +zetaDelta only

theorem kept_unstall {μ : Nat} (hw : 21991843168256 &&& μ = 21991843168256) {s0 : State} {s : State}  (kh : Kept μ s0 s) :
    Kept μ s0 (unstall s) := by
  have k_modTsk : 536870912 &&& μ = 536870912 := sub_of hw rfl
  have k_offer : 21991843168256 &&& μ = 21991843168256 := sub_of hw rfl
  have i29 : μ.testBit 29 = true := bit_of hw rfl
  have i30 : μ.testBit 30 = true := bit_of hw rfl
  have i42 : μ.testBit 42 = true := bit_of hw rfl
  have i44 : μ.testBit 44 = true := bit_of hw rfl
  unfold unstall
  repeat' first
    | with_reducible assumption
    | (intro s; with_reducible refine (fun (hs : Kept μ s0 s) => ?_) ?_)
    | intro x
    | lift_lets
    | with_reducible refine kept_modTsk k_modTsk (.inr i30) ?_
    | with_reducible refine kept_offer k_offer ?_
    | with_reducible refine kept_foldl (fun s x hs => ?_) ?_
    | (fail_if_no_progress with_reducible refine Kept.mk' ?_  (h_tsk := .inr ⟨i29, .inr i30⟩) (h_hp := .inr ⟨i42, sm, .inr i44, sm, sm, sm, sm, sm, sm, sm, sm, sm⟩))
    | split
    | dsimp +zetaDelta only

theorem kept_dlAdd {μ : Nat} (hw : 982252228538042884816896 &&& μ = 982252228538042884816896) {s0 : State} {l : Nat} {e : DlEnt} {s : State}  (kh : Kept μ s0 s) :
    Kept μ s0 (dlAdd l e s) := by
  have k_offerNew : 982252228538042884816896 &&& μ = 982252228538042884816896 := sub_of hw rfl
  unfold dlAdd
  repeat' first
    | with_reducible assumption
    | (intro s; with_reducible refine (fun (hs : Kept μ s0 s) => ?_) ?_)
    | intro x
    | lift_lets
    | with_reducible refine kept_offerNew k_offerNew ?_
    | split
    | dsimp +zetaDelta only

theorem kept_dlRelease {μ : Nat} (hw : 1610612736 &&& μ = 1610612736) {s0 : State} {b l : Nat} {s : State}  (kh : Kept μ s0 s) :
    Kept μ s0 (dlRelease b l s) := by
  have k_modTsk : 536870912 &&& μ = 536870912 := sub_of hw rfl
  have i29 : μ.testBit 29 = true := bit_of hw rfl
  have i30 : μ.testBit 30 = true := bit_of hw rfl
  unfold dlRelease
  repeat' first
    | with_reducible assumption
    | (intro s; with_reducible refine (fun (hs : Kept μ s0 s) => ?_) ?_)
    | intro x
    | lift_lets
    | with_reducible refine kept_modTsk k_modTsk (.inr i30) ?_
    | (fail_if_no_progress with_reducible refine Kept.mk' ?_  (h_tsk := .inr ⟨i29, .inr i30⟩))
    | split
    | dsimp +zetaDelta only

theorem kept_admitReleased {μ : Nat} (hw : 21991843168256 &&& μ = 21991843168256) {s0 : State} {s : State}  (kh : Kept μ s0 s) :
    Kept μ s0 (admitReleased s) := by
  have k_modTsk : 536870912 &&& μ = 536870912 := sub_of hw rfl
  have k_offer : 21991843168256 &&& μ = 21991843168256 := sub_of hw rfl
  have i29 : μ.testBit 29 = true := bit_of hw rfl
  have i30 : μ.testBit 30 = true := bit_of hw rfl
  have i42 : μ.testBit 42 = true := bit_of hw rfl
  have i44 : μ.testBit 44 = true := bit_of hw rfl
  unfold admitReleased
  repeat' first
    | with_reducible assumption
    | (intro s; with_reducible refine (fun (hs : Kept μ s0 s) => ?_) ?_)
    | intro x
    | lift_lets
    | with_reducible refine kept_modTsk k_modTsk (.inr i30) ?_
    | with_reducible refine kept_offer k_offer ?_
    | with_reducible refine kept_foldl (fun s x hs => ?_) ?_
    | (fail_if_no_progress with_reducible refine Kept.mk' ?_  (h_tsk := .inr ⟨i29, .inr i30⟩) (h_hp := .inr ⟨i42, sm, .inr i44, sm, sm, sm, sm, sm, sm, sm, sm, sm⟩))
    | split
    | dsimp +zetaDelta only

theorem kept_dlTick {μ : Nat} (hw : 21991843168256 &&& μ = 21991843168256) {s0 : State} {s : State}  (kh : Kept μ s0 s) :
    Kept μ s0 (dlTick s) := by
  have k_admitReleased : 21991843168256 &&& μ = 21991843168256 := sub_of hw rfl
  have k_dlRelease : 1610612736 &&& μ = 1610612736 := sub_of hw rfl
  unfold dlTick
  repeat' first
    | with_reducible assumption
    | (intro s; with_reducible refine (fun (hs : Kept μ s0 s) => ?_) ?_)
    | intro x
    | lift_lets
    | with_reducible refine kept_dlRelease k_dlRelease ?_
    | with_reducible refine kept_admitReleased k_admitReleased ?_
    | with_reducible refine kept_foldl (fun s x hs => ?_) ?_
    | split
    | dsimp +zetaDelta only

theorem kept_dlProvisional {μ : Nat} (hw : 21991843168256 &&& μ = 21991843168256) {s0 : State} {s : State}  (kh : Kept μ s0 s) :
    Kept μ s0 (dlProvisional s) := by
  have k_admitReleased : 21991843168256 &&& μ = 21991843168256 := sub_of hw rfl
  have k_dlRelease : 1610612736 &&& μ = 1610612736 := sub_of hw rfl
  have k_modTsk : 536870912 &&& μ = 536870912 := sub_of hw rfl
  have i29 : μ.testBit 29 = true := bit_of hw rfl
  have i30 : μ.testBit 30 = true := bit_of hw rfl
  have i42 : μ.testBit 42 = true := bit_of hw rfl
  have i44 : μ.testBit 44 = true := bit_of hw rfl
  unfold dlProvisional
  repeat' first
    | with_reducible assumption
    | (intro s; with_reducible refine (fun (hs : Kept μ s0 s) => ?_) ?_)
    | intro x
    | lift_lets
    | with_reducible refine kept_modTsk k_modTsk (.inr i30) ?_
    | with_reducible refine kept_dlRelease k_dlRelease ?_
    | with_reducible refine kept_admitReleased k_admitReleased ?_
    | (fail_if_no_progress with_reducible refine Kept.mk' ?_  (h_tsk := .inr ⟨i29, .inr i30⟩) (h_hp := .inr ⟨i42, sm, .inr i44, sm, sm, sm, sm, sm, sm, sm, sm, sm⟩))
    | split
    | dsimp +zetaDelta only

theorem kept_dlDiscard {μ : Nat} (hw : 982252228520450698772480 &&& μ = 982252228520450698772480) {s0 : State} {s : State}  (kh : Kept μ s0 s) :
    Kept μ s0 (dlDiscard s) := by
  have k_countN : 982252228520449088159744 &&& μ = 982252228520449088159744 := sub_of hw rfl
  have k_modTsk : 536870912 &&& μ = 536870912 := sub_of hw rfl
  have i29 : μ.testBit 29 = true := bit_of hw rfl
  have i30 : μ.testBit 30 = true := bit_of hw rfl
  have i42 : μ.testBit 42 = true := bit_of hw rfl
  have i43 : μ.testBit 43 = true := bit_of hw rfl
  have i46 : μ.testBit 46 = true := bit_of hw rfl
  have i76 : μ.testBit 76 = true := bit_of hw rfl
  have i78 : μ.testBit 78 = true := bit_of hw rfl
  have i79 : μ.testBit 79 = true := bit_of hw rfl
  unfold dlDiscard
  repeat' first
    | with_reducible assumption
    | (intro s; with_reducible refine (fun (hs : Kept μ s0 s) => ?_) ?_)
    | intro x
    | lift_lets
    | with_reducible refine kept_countN k_countN ?_
    | with_reducible refine kept_modTsk k_modTsk (.inr i30) ?_
    | with_reducible refine kept_foldl (fun s x hs => ?_) ?_
    | (fail_if_no_progress with_reducible refine Kept.mk' ?_  (h_tsk := .inr ⟨i29, .inr i30⟩) (h_hp := .inr ⟨i42, .inr i43, sm, sm, .inr i46, sm, sm, sm, sm, sm, sm, sm⟩) (h_cnt := .inr i76) (h_evLog := .inr i78) (h_evLogSeq := .inr i79))
    | split
    | dsimp +zetaDelta only

theorem kept_schedMode {μ : Nat} (hw : 982252228520449625030656 &&& μ = 982252228520449625030656) {s0 : State} {s : State}  (kh : Kept μ s0 s) :
    Kept μ s0 (schedMode s) := by
  have k_modTsk : 536870912 &&& μ = 536870912 := sub_of hw rfl
  have k_raise : 906694364785738671718400 &&& μ = 906694364785738671718400 := sub_of hw rfl
  have k_tskCount : 982252228520449088159744 &&& μ = 982252228520449088159744 := sub_of hw rfl
  have k_tskFlag : 13194139533312 &&& μ = 13194139533312 := sub_of hw rfl
  have i29 : μ.testBit 29 = true := bit_of hw rfl
  have i42 : μ.testBit 42 = true := bit_of hw rfl
  have i43 : μ.testBit 43 = true := bit_of hw rfl
  have i46 : μ.testBit 46 = true := bit_of hw rfl
  have i76 : μ.testBit 76 = true := bit_of hw rfl
  have i78 : μ.testBit 78 = true := bit_of hw rfl
  have i79 : μ.testBit 79 = true := bit_of hw rfl
  unfold schedMode
  repeat' first
    | with_reducible assumption
    | (intro s; with_reducible refine (fun (hs : Kept μ s0 s) => ?_) ?_)
    | intro x
    | lift_lets
    | with_reducible refine kept_raise k_raise ?_
    | with_reducible refine kept_modTsk k_modTsk smf ?_
    | with_reducible refine kept_tskFlag k_tskFlag ?_
    | with_reducible refine kept_tskCount k_tskCount ?_
    | (fail_if_no_progress with_reducible refine Kept.mk' ?_  (h_tsk := .inr ⟨i29, sm⟩) (h_hp := .inr ⟨i42, .inr i43, sm, sm, .inr i46, sm, sm, sm, sm, sm, sm, sm⟩) (h_cnt := .inr i76) (h_evLog := .inr i78) (h_evLogSeq := .inr i79))
    | split
    | dsimp +zetaDelta only

theorem kept_modItem {μ : Nat} (hw : 1610612736 &&& μ = 1610612736) {s0 : State} {f adm : Nat} {g : TskItem → TskItem} {s : State}  (kh : Kept μ s0 s) :
    Kept μ s0 (modItem f adm g s) := by
  have k_modTsk : 536870912 &&& μ = 536870912 := sub_of hw rfl
  have i29 : μ.testBit 29 = true := bit_of hw rfl
  have i30 : μ.testBit 30 = true := bit_of hw rfl
  unfold modItem
  repeat' first
    | with_reducible assumption
    | (intro s; with_reducible refine (fun (hs : Kept μ s0 s) => ?_) ?_)
    | intro x
    | lift_lets
    | with_reducible refine kept_modTsk k_modTsk (.inr i30) ?_
    | (fail_if_no_progress with_reducible refine Kept.mk' ?_  (h_tsk := .inr ⟨i29, .inr i30⟩))
    | split
    | dsimp +zetaDelta only

theorem kept_admitAll {μ : Nat} (hw : 982252228538042884816896 &&& μ = 982252228538042884816896) {s0 : State} {x : TskIn} {s : State}  (kh : Kept μ s0 s) :
    Kept μ s0 (admitAll x s) := by
  have k_admitItem : 982252228538042884816896 &&& μ = 982252228538042884816896 := sub_of hw rfl
  have k_admitReleased : 21991843168256 &&& μ = 21991843168256 := sub_of hw rfl
  have k_dlAdd : 982252228538042884816896 &&& μ = 982252228538042884816896 := sub_of hw rfl
  have k_unstall : 21991843168256 &&& μ = 21991843168256 := sub_of hw rfl
  unfold admitAll
  repeat' first
    | with_reducible assumption
    | (intro s; with_reducible refine (fun (hs : Kept μ s0 s) => ?_) ?_)
    | intro x
    | lift_lets
    | with_reducible refine kept_admitItem k_admitItem ?_
    | with_reducible refine kept_unstall k_unstall ?_
    | with_reducible refine kept_dlAdd k_dlAdd ?_
    | with_reducible refine kept_admitReleased k_admitReleased ?_
    | with_reducible refine kept_foldl (fun s x hs => ?_) ?_
    | split
    | dsimp +zetaDelta only

theorem kept_releaseItems {μ : Nat} (hw : 21991843168256 &&& μ = 21991843168256) {s0 : State} {k f : Nat} {s : State} (kh : Kept μ s0 s) :
    Kept μ s0 (releaseItems k f s) := by
  have k_modItem : 1610612736 &&& μ = 1610612736 := sub_of hw rfl
  have k_modTsk : 536870912 &&& μ = 536870912 := sub_of hw rfl
  have k_pushItem : 21991843168256 &&& μ = 21991843168256 := sub_of hw rfl
  have i29 : μ.testBit 29 = true := bit_of hw rfl
  have i30 : μ.testBit 30 = true := bit_of hw rfl
  have i42 : μ.testBit 42 = true := bit_of hw rfl
  have i44 : μ.testBit 44 = true := bit_of hw rfl
  induction k generalizing s
  · exact kh
  rename_i ih
  unfold releaseItems
  repeat' first
    | with_reducible assumption
    | (intro s; with_reducible refine (fun (hs : Kept μ s0 s) => ?_) ?_)
    | intro x
    | lift_lets
    | with_reducible refine ih ?_
    | with_reducible refine kept_modTsk k_modTsk (.inr i30) ?_
    | with_reducible refine kept_pushItem k_pushItem ?_
    | with_reducible refine kept_modItem k_modItem ?_
    | (fail_if_no_progress with_reducible refine Kept.mk' ?_  (h_tsk := .inr ⟨i29, .inr i30⟩) (h_hp := .inr ⟨i42, sm, .inr i44, sm, sm, sm, sm, sm, sm, sm, sm, sm⟩))
    | split
    | dsimp +zetaDelta only


theorem kept_releaseHeld {μ : Nat} (hw : 21991843168256 &&& μ = 21991843168256) {s0 : State} {s : State}  (kh : Kept μ s0 s) :
    Kept μ s0 (releaseHeld s) := by
  have k_releaseItems : 21991843168256 &&& μ = 21991843168256 := sub_of hw rfl
  unfold releaseHeld
  repeat' first
    | with_reducible assumption
    | (intro s; with_reducible refine (fun (hs : Kept μ s0 s) => ?_) ?_)
    | intro x
    | lift_lets
    | with_reducible refine kept_releaseItems k_releaseItems ?_
    | with_reducible refine kept_foldl (fun s x hs => ?_) ?_
    | split
    | dsimp +zetaDelta only

theorem kept_execWorkItemDispatch {μ : Nat} (hw : 982252228538042884816896 &&& μ = 982252228538042884816896) {s0 : State} {e u : Nat} {x : TskIn} {s : State}  (kh : Kept μ s0 s) :
    KeptOut μ s0 (execWorkItemDispatch e u x s) := by
  have k_act : 0 &&& μ = 0 := sub_of hw rfl
  have k_admitAll : 982252228538042884816896 &&& μ = 982252228538042884816896 := sub_of hw rfl
  have k_modItem : 1610612736 &&& μ = 1610612736 := sub_of hw rfl
  have k_releaseHeld : 21991843168256 &&& μ = 21991843168256 := sub_of hw rfl
  have k_tskCount : 982252228520449088159744 &&& μ = 982252228520449088159744 := sub_of hw rfl
  have k_unstall : 21991843168256 &&& μ = 21991843168256 := sub_of hw rfl
  have i29 : μ.testBit 29 = true := bit_of hw rfl
  have i30 : μ.testBit 30 = true := bit_of hw rfl
  have i42 : μ.testBit 42 = true := bit_of hw rfl
  have i43 : μ.testBit 43 = true := bit_of hw rfl
  have i44 : μ.testBit 44 = true := bit_of hw rfl
  have i46 : μ.testBit 46 = true := bit_of hw rfl
  have i76 : μ.testBit 76 = true := bit_of hw rfl
  have i78 : μ.testBit 78 = true := bit_of hw rfl
  have i79 : μ.testBit 79 = true := bit_of hw rfl
  unfold execWorkItemDispatch
  repeat' first
    | with_reducible assumption
    | (intro s; with_reducible refine (fun (hs : Kept μ s0 s) => ?_) ?_)
    | intro x
    | lift_lets
    | with_reducible refine kept_act k_act (fun s hs => ?_) ?_
    | with_reducible refine kept_tskCount k_tskCount ?_
    | with_reducible refine kept_unstall k_unstall ?_
    | with_reducible refine kept_modItem k_modItem ?_
    | with_reducible refine kept_admitAll k_admitAll ?_
    | with_reducible refine kept_releaseHeld k_releaseHeld ?_
    | (fail_if_no_progress with_reducible refine Kept.mk' ?_  (h_tsk := .inr ⟨i29, .inr i30⟩) (h_hp := .inr ⟨i42, .inr i43, .inr i44, sm, .inr i46, sm, sm, sm, sm, sm, sm, sm⟩) (h_cnt := .inr i76) (h_evLog := .inr i78) (h_evLogSeq := .inr i79))
    | split
    | with_reducible refine KeptOut.mk' ?_
    | dsimp +zetaDelta only

theorem kept_stageMiss {μ : Nat} (hw : 982252228520449625030656 &&& μ = 982252228520449625030656) {s0 : State} {f late : Nat} {s : State}  (kh : Kept μ s0 s) :
    Kept μ s0 (stageMiss f late s) := by
  have k_halfAt : 906694364794534764740608 &&& μ = 906694364794534764740608 := sub_of hw rfl
  have k_modTsk : 536870912 &&& μ = 536870912 := sub_of hw rfl
  have k_raise : 906694364785738671718400 &&& μ = 906694364785738671718400 := sub_of hw rfl
  have k_tskCount : 982252228520449088159744 &&& μ = 982252228520449088159744 := sub_of hw rfl
  have k_tskFlag : 13194139533312 &&& μ = 13194139533312 := sub_of hw rfl
  have i29 : μ.testBit 29 = true := bit_of hw rfl
  have i42 : μ.testBit 42 = true := bit_of hw rfl
  have i43 : μ.testBit 43 = true := bit_of hw rfl
  have i46 : μ.testBit 46 = true := bit_of hw rfl
  have i76 : μ.testBit 76 = true := bit_of hw rfl
  have i78 : μ.testBit 78 = true := bit_of hw rfl
  have i79 : μ.testBit 79 = true := bit_of hw rfl
  unfold stageMiss
  repeat' first
    | with_reducible assumption
    | (intro s; with_reducible refine (fun (hs : Kept μ s0 s) => ?_) ?_)
    | intro x
    | lift_lets
    | with_reducible refine kept_raise k_raise ?_
    | with_reducible refine kept_halfAt k_halfAt ?_
    | with_reducible refine kept_modTsk k_modTsk smf ?_
    | with_reducible refine kept_tskFlag k_tskFlag ?_
    | with_reducible refine kept_tskCount k_tskCount ?_
    | (fail_if_no_progress with_reducible refine Kept.mk' ?_  (h_tsk := .inr ⟨i29, sm⟩) (h_hp := .inr ⟨i42, .inr i43, sm, sm, .inr i46, sm, sm, sm, sm, sm, sm, sm⟩) (h_cnt := .inr i76) (h_evLog := .inr i78) (h_evLogSeq := .inr i79))
    | split
    | dsimp +zetaDelta only

theorem kept_execWorkItemRelease {μ : Nat} (hw : 982252228538042884816896 &&& μ = 982252228538042884816896) {s0 : State} {f adm : Nat} {next : Option Nat} {s : State}  (kh : Kept μ s0 s) :
    KeptOut μ s0 (execWorkItemRelease f adm next s) := by
  have k_act : 0 &&& μ = 0 := sub_of hw rfl
  have k_modItem : 1610612736 &&& μ = 1610612736 := sub_of hw rfl
  have k_releaseItems : 21991843168256 &&& μ = 21991843168256 := sub_of hw rfl
  have k_stageMiss : 982252228520449625030656 &&& μ = 982252228520449625030656 := sub_of hw rfl
  have k_tskCount : 982252228520449088159744 &&& μ = 982252228520449088159744 := sub_of hw rfl
  have k_unstall : 21991843168256 &&& μ = 21991843168256 := sub_of hw rfl
  have i29 : μ.testBit 29 = true := bit_of hw rfl
  have i30 : μ.testBit 30 = true := bit_of hw rfl
  have i42 : μ.testBit 42 = true := bit_of hw rfl
  have i43 : μ.testBit 43 = true := bit_of hw rfl
  have i44 : μ.testBit 44 = true := bit_of hw rfl
  have i46 : μ.testBit 46 = true := bit_of hw rfl
  have i76 : μ.testBit 76 = true := bit_of hw rfl
  have i78 : μ.testBit 78 = true := bit_of hw rfl
  have i79 : μ.testBit 79 = true := bit_of hw rfl
  unfold execWorkItemRelease
  repeat' first
    | with_reducible assumption
    | (intro s; with_reducible refine (fun (hs : Kept μ s0 s) => ?_) ?_)
    | intro x
    | lift_lets
    | with_reducible refine kept_act k_act (fun s hs => ?_) ?_
    | with_reducible refine kept_tskCount k_tskCount ?_
    | with_reducible refine kept_unstall k_unstall ?_
    | with_reducible refine kept_modItem k_modItem ?_
    | with_reducible refine kept_releaseItems k_releaseItems ?_
    | with_reducible refine kept_stageMiss k_stageMiss ?_
    | (fail_if_no_progress with_reducible refine Kept.mk' ?_  (h_tsk := .inr ⟨i29, .inr i30⟩) (h_hp := .inr ⟨i42, .inr i43, .inr i44, sm, .inr i46, sm, sm, sm, sm, sm, sm, sm⟩) (h_cnt := .inr i76) (h_evLog := .inr i78) (h_evLogSeq := .inr i79))
    | split
    | with_reducible refine KeptOut.mk' ?_
    | dsimp +zetaDelta only

theorem kept_tskRefuse {μ : Nat} (hw : 906694364794534764740608 &&& μ = 906694364794534764740608) {s0 : State} {op reason : Nat} {s : State}  (kh : Kept μ s0 s) :
    Kept μ s0 (tskRefuse op reason s) := by
  have k_raise : 906694364785738671718400 &&& μ = 906694364785738671718400 := sub_of hw rfl
  have k_tskFlag : 13194139533312 &&& μ = 13194139533312 := sub_of hw rfl
  unfold tskRefuse
  repeat' first
    | with_reducible assumption
    | (intro s; with_reducible refine (fun (hs : Kept μ s0 s) => ?_) ?_)
    | intro x
    | lift_lets
    | with_reducible refine kept_raise k_raise ?_
    | with_reducible refine kept_tskFlag k_tskFlag ?_
    | split
    | dsimp +zetaDelta only

theorem kept_tskCtrl {μ : Nat} (hw : 906694364829719136829440 &&& μ = 906694364829719136829440) {s0 : State} {n op key : Nat} {f : State → State} {s : State} (h_f : ∀ s, Kept μ s0 s → Kept μ s0 (f s)) (kh : Kept μ s0 s) :
    Kept μ s0 (tskCtrl n op key f s) := by
  have k_deniedInvalid : 906694364829719136829440 &&& μ = 906694364829719136829440 := sub_of hw rfl
  have k_tskRefuse : 906694364794534764740608 &&& μ = 906694364794534764740608 := sub_of hw rfl
  unfold tskCtrl
  repeat' first
    | with_reducible assumption
    | (intro s; with_reducible refine (fun (hs : Kept μ s0 s) => ?_) ?_)
    | intro x
    | lift_lets
    | with_reducible refine kept_deniedInvalid k_deniedInvalid ?_
    | with_reducible refine kept_tskRefuse k_tskRefuse ?_
    | with_reducible refine h_f _ ?_
    | split
    | dsimp +zetaDelta only

theorem kept_execTskTestEntry {μ : Nat} (hw : 906694364829719673700352 &&& μ = 906694364829719673700352) {s0 : State} {n key : Nat} {s : State}  (kh : Kept μ s0 s) :
    KeptOut μ s0 (execTskTestEntry n key s) := by
  have k_act : 0 &&& μ = 0 := sub_of hw rfl
  have k_modTsk : 536870912 &&& μ = 536870912 := sub_of hw rfl
  have k_tskCtrl : 906694364829719136829440 &&& μ = 906694364829719136829440 := sub_of hw rfl
  have k_tskRefuse : 906694364794534764740608 &&& μ = 906694364794534764740608 := sub_of hw rfl
  have i29 : μ.testBit 29 = true := bit_of hw rfl
  have i42 : μ.testBit 42 = true := bit_of hw rfl
  have i43 : μ.testBit 43 = true := bit_of hw rfl
  have i45 : μ.testBit 45 = true := bit_of hw rfl
  have i46 : μ.testBit 46 = true := bit_of hw rfl
  have i78 : μ.testBit 78 = true := bit_of hw rfl
  have i79 : μ.testBit 79 = true := bit_of hw rfl
  unfold execTskTestEntry
  repeat' first
    | with_reducible assumption
    | (intro s; with_reducible refine (fun (hs : Kept μ s0 s) => ?_) ?_)
    | intro x
    | lift_lets
    | with_reducible refine kept_act k_act (fun s hs => ?_) ?_
    | with_reducible refine kept_modTsk k_modTsk smf ?_
    | with_reducible refine kept_tskRefuse k_tskRefuse ?_
    | with_reducible refine kept_tskCtrl k_tskCtrl (fun s hs => ?_) ?_
    | (fail_if_no_progress with_reducible refine Kept.mk' ?_  (h_tsk := .inr ⟨i29, sm⟩) (h_hp := .inr ⟨i42, .inr i43, sm, .inr i45, .inr i46, sm, sm, sm, sm, sm, sm, sm⟩) (h_evLog := .inr i78) (h_evLogSeq := .inr i79))
    | split
    | with_reducible refine KeptOut.mk' ?_
    | dsimp +zetaDelta only

theorem kept_execTskTestExit {μ : Nat} (hw : 906694364829719673700352 &&& μ = 906694364829719673700352) {s0 : State} {n key : Nat} {s : State}  (kh : Kept μ s0 s) :
    KeptOut μ s0 (execTskTestExit n key s) := by
  have k_act : 0 &&& μ = 0 := sub_of hw rfl
  have k_modTsk : 536870912 &&& μ = 536870912 := sub_of hw rfl
  have k_tskCtrl : 906694364829719136829440 &&& μ = 906694364829719136829440 := sub_of hw rfl
  have k_tskRefuse : 906694364794534764740608 &&& μ = 906694364794534764740608 := sub_of hw rfl
  have i29 : μ.testBit 29 = true := bit_of hw rfl
  have i42 : μ.testBit 42 = true := bit_of hw rfl
  have i43 : μ.testBit 43 = true := bit_of hw rfl
  have i45 : μ.testBit 45 = true := bit_of hw rfl
  have i46 : μ.testBit 46 = true := bit_of hw rfl
  have i78 : μ.testBit 78 = true := bit_of hw rfl
  have i79 : μ.testBit 79 = true := bit_of hw rfl
  unfold execTskTestExit
  repeat' first
    | with_reducible assumption
    | (intro s; with_reducible refine (fun (hs : Kept μ s0 s) => ?_) ?_)
    | intro x
    | lift_lets
    | with_reducible refine kept_act k_act (fun s hs => ?_) ?_
    | with_reducible refine kept_modTsk k_modTsk smf ?_
    | with_reducible refine kept_tskRefuse k_tskRefuse ?_
    | with_reducible refine kept_tskCtrl k_tskCtrl (fun s hs => ?_) ?_
    | (fail_if_no_progress with_reducible refine Kept.mk' ?_  (h_tsk := .inr ⟨i29, sm⟩) (h_hp := .inr ⟨i42, .inr i43, sm, .inr i45, .inr i46, sm, sm, sm, sm, sm, sm, sm⟩) (h_evLog := .inr i78) (h_evLogSeq := .inr i79))
    | split
    | with_reducible refine KeptOut.mk' ?_
    | dsimp +zetaDelta only

theorem kept_execTskSetLevel {μ : Nat} (hw : 982252228555633997119488 &&& μ = 982252228555633997119488) {s0 : State} {n lvl key : Nat} {s : State}  (kh : Kept μ s0 s) :
    KeptOut μ s0 (execTskSetLevel n lvl key s) := by
  have k_act : 0 &&& μ = 0 := sub_of hw rfl
  have k_modTsk : 536870912 &&& μ = 536870912 := sub_of hw rfl
  have k_raise : 906694364785738671718400 &&& μ = 906694364785738671718400 := sub_of hw rfl
  have k_tskCount : 982252228520449088159744 &&& μ = 982252228520449088159744 := sub_of hw rfl
  have k_tskCtrl : 906694364829719136829440 &&& μ = 906694364829719136829440 := sub_of hw rfl
  have k_tskFlag : 13194139533312 &&& μ = 13194139533312 := sub_of hw rfl
  have k_tskRefuse : 906694364794534764740608 &&& μ = 906694364794534764740608 := sub_of hw rfl
  have i29 : μ.testBit 29 = true := bit_of hw rfl
  have i42 : μ.testBit 42 = true := bit_of hw rfl
  have i43 : μ.testBit 43 = true := bit_of hw rfl
  have i45 : μ.testBit 45 = true := bit_of hw rfl
  have i46 : μ.testBit 46 = true := bit_of hw rfl
  have i76 : μ.testBit 76 = true := bit_of hw rfl
  have i78 : μ.testBit 78 = true := bit_of hw rfl
  have i79 : μ.testBit 79 = true := bit_of hw rfl
  unfold execTskSetLevel
  repeat' first
    | with_reducible assumption
    | (intro s; with_reducible refine (fun (hs : Kept μ s0 s) => ?_) ?_)
    | intro x
    | lift_lets
    | with_reducible refine kept_act k_act (fun s hs => ?_) ?_
    | with_reducible refine kept_raise k_raise ?_
    | with_reducible refine kept_modTsk k_modTsk smf ?_
    | with_reducible refine kept_tskFlag k_tskFlag ?_
    | with_reducible refine kept_tskCount k_tskCount ?_
    | with_reducible refine kept_tskRefuse k_tskRefuse ?_
    | with_reducible refine kept_tskCtrl k_tskCtrl (fun s hs => ?_) ?_
    | (fail_if_no_progress with_reducible refine Kept.mk' ?_  (h_tsk := .inr ⟨i29, sm⟩) (h_hp := .inr ⟨i42, .inr i43, sm, .inr i45, .inr i46, sm, sm, sm, sm, sm, sm, sm⟩) (h_cnt := .inr i76) (h_evLog := .inr i78) (h_evLogSeq := .inr i79))
    | split
    | with_reducible refine KeptOut.mk' ?_
    | dsimp +zetaDelta only

theorem kept_modRes {μ : Nat} (hw : 2147483648 &&& μ = 2147483648) {s0 : State} {r : Nat} {f : ArbRes → ArbRes} {s : State}  (kh : Kept μ s0 s) :
    Kept μ s0 (modRes r f s) := by
  have i31 : μ.testBit 31 = true := bit_of hw rfl
  unfold modRes
  repeat' first
    | with_reducible assumption
    | (intro s; with_reducible refine (fun (hs : Kept μ s0 s) => ?_) ?_)
    | intro x
    | lift_lets
    | (fail_if_no_progress with_reducible refine Kept.mk' ?_  (h_arb := .inr i31))
    | split
    | dsimp +zetaDelta only

theorem kept_modReqs {μ : Nat} (hw : 2147483648 &&& μ = 2147483648) {s0 : State} {f : List ArbReq → List ArbReq} {s : State}  (kh : Kept μ s0 s) :
    Kept μ s0 (modReqs f s) := by
  have i31 : μ.testBit 31 = true := bit_of hw rfl
  unfold modReqs
  repeat' first
    | with_reducible assumption
    | (intro s; with_reducible refine (fun (hs : Kept μ s0 s) => ?_) ?_)
    | intro x
    | lift_lets
    | (fail_if_no_progress with_reducible refine Kept.mk' ?_  (h_arb := .inr i31))
    | split
    | dsimp +zetaDelta only

theorem kept_arbRequest {μ : Nat} (hw : 982252228520451235643392 &&& μ = 982252228520451235643392) {s0 : State} {x : ArbIn} {s : State}  (kh : Kept μ s0 s) :
    Kept μ s0 (arbRequest x s) := by
  have k_arbCount : 982252228520449088159744 &&& μ = 982252228520449088159744 := sub_of hw rfl
  have k_arbFlag : 13194139533312 &&& μ = 13194139533312 := sub_of hw rfl
  have k_modReqs : 2147483648 &&& μ = 2147483648 := sub_of hw rfl
  have k_raise : 906694364785738671718400 &&& μ = 906694364785738671718400 := sub_of hw rfl
  have i31 : μ.testBit 31 = true := bit_of hw rfl
  have i42 : μ.testBit 42 = true := bit_of hw rfl
  have i43 : μ.testBit 43 = true := bit_of hw rfl
  have i46 : μ.testBit 46 = true := bit_of hw rfl
  have i76 : μ.testBit 76 = true := bit_of hw rfl
  have i78 : μ.testBit 78 = true := bit_of hw rfl
  have i79 : μ.testBit 79 = true := bit_of hw rfl
  unfold arbRequest
  repeat' first
    | with_reducible assumption
    | (intro s; with_reducible refine (fun (hs : Kept μ s0 s) => ?_) ?_)
    | intro x
    | lift_lets
    | with_reducible refine kept_raise k_raise ?_
    | with_reducible refine kept_arbCount k_arbCount ?_
    | with_reducible refine kept_arbFlag k_arbFlag ?_
    | with_reducible refine kept_modReqs k_modReqs ?_
    | (fail_if_no_progress with_reducible refine Kept.mk' ?_  (h_arb := .inr i31) (h_hp := .inr ⟨i42, .inr i43, sm, sm, .inr i46, sm, sm, sm, sm, sm, sm, sm⟩) (h_cnt := .inr i76) (h_evLog := .inr i78) (h_evLogSeq := .inr i79))
    | split
    | dsimp +zetaDelta only

theorem kept_beginTx {μ : Nat} (hw : 48 &&& μ = 48) {s0 : State} {x : ArbReq} {s : State}  (kh : Kept μ s0 s) :
    Kept μ s0 (beginTx x s) := by
  have k_modPort : 48 &&& μ = 48 := sub_of hw rfl
  have i4 : μ.testBit 4 = true := bit_of hw rfl
  have i5 : μ.testBit 5 = true := bit_of hw rfl
  unfold beginTx
  repeat' first
    | with_reducible assumption
    | (intro s; with_reducible refine (fun (hs : Kept μ s0 s) => ?_) ?_)
    | intro x
    | lift_lets
    | with_reducible refine kept_modPort k_modPort ?_
    | (fail_if_no_progress with_reducible refine Kept.mk' ?_  (h_eth := .inr ⟨i4, .inr i5, sm, sm⟩))
    | split
    | dsimp +zetaDelta only

theorem kept_arbGrant {μ : Nat} (hw : 982252228520451235643440 &&& μ = 982252228520451235643440) {s0 : State} {r : Nat} {s : State}  (kh : Kept μ s0 s) :
    Kept μ s0 (arbGrant r s) := by
  have k_arbCount : 982252228520449088159744 &&& μ = 982252228520449088159744 := sub_of hw rfl
  have k_arbFlag : 13194139533312 &&& μ = 13194139533312 := sub_of hw rfl
  have k_beginTx : 48 &&& μ = 48 := sub_of hw rfl
  have k_halfAt : 906694364794534764740608 &&& μ = 906694364794534764740608 := sub_of hw rfl
  have k_modReqs : 2147483648 &&& μ = 2147483648 := sub_of hw rfl
  have k_modRes : 2147483648 &&& μ = 2147483648 := sub_of hw rfl
  have k_raise : 906694364785738671718400 &&& μ = 906694364785738671718400 := sub_of hw rfl
  have i4 : μ.testBit 4 = true := bit_of hw rfl
  have i5 : μ.testBit 5 = true := bit_of hw rfl
  have i31 : μ.testBit 31 = true := bit_of hw rfl
  have i42 : μ.testBit 42 = true := bit_of hw rfl
  have i43 : μ.testBit 43 = true := bit_of hw rfl
  have i46 : μ.testBit 46 = true := bit_of hw rfl
  have i76 : μ.testBit 76 = true := bit_of hw rfl
  have i78 : μ.testBit 78 = true := bit_of hw rfl
  have i79 : μ.testBit 79 = true := bit_of hw rfl
  unfold arbGrant
  repeat' first
    | with_reducible assumption
    | (intro s; with_reducible refine (fun (hs : Kept μ s0 s) => ?_) ?_)
    | intro x
    | lift_lets
    | with_reducible refine kept_raise k_raise ?_
    | with_reducible refine kept_halfAt k_halfAt ?_
    | with_reducible refine kept_arbCount k_arbCount ?_
    | with_reducible refine kept_arbFlag k_arbFlag ?_
    | with_reducible refine kept_modRes k_modRes ?_
    | with_reducible refine kept_modReqs k_modReqs ?_
    | with_reducible refine kept_beginTx k_beginTx ?_
    | (fail_if_no_progress with_reducible refine Kept.mk' ?_  (h_eth := .inr ⟨i4, .inr i5, sm, sm⟩) (h_arb := .inr i31) (h_hp := .inr ⟨i42, .inr i43, sm, sm, .inr i46, sm, sm, sm, sm, sm, sm, sm⟩) (h_cnt := .inr i76) (h_evLog := .inr i78) (h_evLogSeq := .inr i79))
    | split
    | dsimp +zetaDelta only

theorem kept_execArbBeat {μ : Nat} (hw : 982252228520451235643440 &&& μ = 982252228520451235643440) {s0 : State} {done : List Nat} {reqs : List ArbIn} {s : State}  (kh : Kept μ s0 s) :
    KeptOut μ s0 (execArbBeat done reqs s) := by
  have k_act : 0 &&& μ = 0 := sub_of hw rfl
  have k_arbGrant : 982252228520451235643440 &&& μ = 982252228520451235643440 := sub_of hw rfl
  have k_arbRequest : 982252228520451235643392 &&& μ = 982252228520451235643392 := sub_of hw rfl
  have k_modReqs : 2147483648 &&& μ = 2147483648 := sub_of hw rfl
  have k_modRes : 2147483648 &&& μ = 2147483648 := sub_of hw rfl
  have i4 : μ.testBit 4 = true := bit_of hw rfl
  have i5 : μ.testBit 5 = true := bit_of hw rfl
  have i31 : μ.testBit 31 = true := bit_of hw rfl
  have i42 : μ.testBit 42 = true := bit_of hw rfl
  have i43 : μ.testBit 43 = true := bit_of hw rfl
  have i46 : μ.testBit 46 = true := bit_of hw rfl
  have i76 : μ.testBit 76 = true := bit_of hw rfl
  have i78 : μ.testBit 78 = true := bit_of hw rfl
  have i79 : μ.testBit 79 = true := bit_of hw rfl
  unfold execArbBeat
  repeat' first
    | with_reducible assumption
    | (intro s; with_reducible refine (fun (hs : Kept μ s0 s) => ?_) ?_)
    | intro x
    | lift_lets
    | with_reducible refine kept_act k_act (fun s hs => ?_) ?_
    | with_reducible refine kept_modRes k_modRes ?_
    | with_reducible refine kept_modReqs k_modReqs ?_
    | with_reducible refine kept_arbRequest k_arbRequest ?_
    | with_reducible refine kept_arbGrant k_arbGrant ?_
    | with_reducible refine kept_foldl (fun s x hs => ?_) ?_
    | (fail_if_no_progress with_reducible refine Kept.mk' ?_  (h_eth := .inr ⟨i4, .inr i5, sm, sm⟩) (h_arb := .inr i31) (h_hp := .inr ⟨i42, .inr i43, sm, sm, .inr i46, sm, sm, sm, sm, sm, sm, sm⟩) (h_cnt := .inr i76) (h_evLog := .inr i78) (h_evLogSeq := .inr i79))
    | split
    | with_reducible refine KeptOut.mk' ?_
    | dsimp +zetaDelta only

theorem kept_execLockOver {μ : Nat} (hw : 982252228520451235643392 &&& μ = 982252228520451235643392) {s0 : State} {r : Nat} {s : State}  (kh : Kept μ s0 s) :
    KeptOut μ s0 (execLockOver r s) := by
  have k_act : 0 &&& μ = 0 := sub_of hw rfl
  have k_arbCount : 982252228520449088159744 &&& μ = 982252228520449088159744 := sub_of hw rfl
  have k_arbFlag : 13194139533312 &&& μ = 13194139533312 := sub_of hw rfl
  have k_modRes : 2147483648 &&& μ = 2147483648 := sub_of hw rfl
  have k_raise : 906694364785738671718400 &&& μ = 906694364785738671718400 := sub_of hw rfl
  have i31 : μ.testBit 31 = true := bit_of hw rfl
  have i42 : μ.testBit 42 = true := bit_of hw rfl
  have i43 : μ.testBit 43 = true := bit_of hw rfl
  have i46 : μ.testBit 46 = true := bit_of hw rfl
  have i76 : μ.testBit 76 = true := bit_of hw rfl
  have i78 : μ.testBit 78 = true := bit_of hw rfl
  have i79 : μ.testBit 79 = true := bit_of hw rfl
  unfold execLockOver
  repeat' first
    | with_reducible assumption
    | (intro s; with_reducible refine (fun (hs : Kept μ s0 s) => ?_) ?_)
    | intro x
    | lift_lets
    | with_reducible refine kept_act k_act (fun s hs => ?_) ?_
    | with_reducible refine kept_raise k_raise ?_
    | with_reducible refine kept_arbCount k_arbCount ?_
    | with_reducible refine kept_arbFlag k_arbFlag ?_
    | with_reducible refine kept_modRes k_modRes ?_
    | (fail_if_no_progress with_reducible refine Kept.mk' ?_  (h_arb := .inr i31) (h_hp := .inr ⟨i42, .inr i43, sm, sm, .inr i46, sm, sm, sm, sm, sm, sm, sm⟩) (h_cnt := .inr i76) (h_evLog := .inr i78) (h_evLogSeq := .inr i79))
    | split
    | with_reducible refine KeptOut.mk' ?_
    | dsimp +zetaDelta only

theorem kept_execLstRewrite {μ : Nat} (hw : 982252228520451235643392 &&& μ = 982252228520451235643392) {s0 : State} {rq r : Nat} {lst : BitVec 16} {s : State}  (kh : Kept μ s0 s) :
    KeptOut μ s0 (execLstRewrite rq r lst s) := by
  have k_act : 0 &&& μ = 0 := sub_of hw rfl
  have k_arbCount : 982252228520449088159744 &&& μ = 982252228520449088159744 := sub_of hw rfl
  have k_modReqs : 2147483648 &&& μ = 2147483648 := sub_of hw rfl
  have i31 : μ.testBit 31 = true := bit_of hw rfl
  have i42 : μ.testBit 42 = true := bit_of hw rfl
  have i43 : μ.testBit 43 = true := bit_of hw rfl
  have i46 : μ.testBit 46 = true := bit_of hw rfl
  have i76 : μ.testBit 76 = true := bit_of hw rfl
  have i78 : μ.testBit 78 = true := bit_of hw rfl
  have i79 : μ.testBit 79 = true := bit_of hw rfl
  unfold execLstRewrite
  repeat' first
    | with_reducible assumption
    | (intro s; with_reducible refine (fun (hs : Kept μ s0 s) => ?_) ?_)
    | intro x
    | lift_lets
    | with_reducible refine kept_act k_act (fun s hs => ?_) ?_
    | with_reducible refine kept_arbCount k_arbCount ?_
    | with_reducible refine kept_modReqs k_modReqs ?_
    | (fail_if_no_progress with_reducible refine Kept.mk' ?_  (h_arb := .inr i31) (h_hp := .inr ⟨i42, .inr i43, sm, sm, .inr i46, sm, sm, sm, sm, sm, sm, sm⟩) (h_cnt := .inr i76) (h_evLog := .inr i78) (h_evLogSeq := .inr i79))
    | split
    | with_reducible refine KeptOut.mk' ?_
    | dsimp +zetaDelta only

theorem kept_arbTick {μ : Nat} (hw : 982252228520451235643392 &&& μ = 982252228520451235643392) {s0 : State} {s : State}  (kh : Kept μ s0 s) :
    Kept μ s0 (arbTick s) := by
  have k_arbFlag : 13194139533312 &&& μ = 13194139533312 := sub_of hw rfl
  have k_countN : 982252228520449088159744 &&& μ = 982252228520449088159744 := sub_of hw rfl
  have k_modReqs : 2147483648 &&& μ = 2147483648 := sub_of hw rfl
  have i31 : μ.testBit 31 = true := bit_of hw rfl
  have i42 : μ.testBit 42 = true := bit_of hw rfl
  have i43 : μ.testBit 43 = true := bit_of hw rfl
  have i46 : μ.testBit 46 = true := bit_of hw rfl
  have i76 : μ.testBit 76 = true := bit_of hw rfl
  have i78 : μ.testBit 78 = true := bit_of hw rfl
  have i79 : μ.testBit 79 = true := bit_of hw rfl
  unfold arbTick
  repeat' first
    | with_reducible assumption
    | (intro s; with_reducible refine (fun (hs : Kept μ s0 s) => ?_) ?_)
    | intro x
    | lift_lets
    | with_reducible refine kept_countN k_countN ?_
    | with_reducible refine kept_arbFlag k_arbFlag ?_
    | with_reducible refine kept_modReqs k_modReqs ?_
    | (fail_if_no_progress with_reducible refine Kept.mk' ?_  (h_arb := .inr i31) (h_hp := .inr ⟨i42, .inr i43, sm, sm, .inr i46, sm, sm, sm, sm, sm, sm, sm⟩) (h_cnt := .inr i76) (h_evLog := .inr i78) (h_evLogSeq := .inr i79))
    | split
    | dsimp +zetaDelta only

end Sys2Proof.Machine
end

