-- ==== Sys2Proof/Laws/KeptBoot.lean ====
section
/-!
SUPPORT. Sys2Proof/Laws/KeptBoot.lean: every operation of Boot.lean keeps what no command changes, and the parts that it does not write (Kept.lean).
-/
set_option Elab.async false
set_option linter.unusedTactic false
set_option linter.unreachableTactic false
set_option linter.unusedVariables false
namespace Sys2Proof.Machine

theorem kept_modPwr {μ : Nat} (hw : 18889465931478580854784 &&& μ = 18889465931478580854784) {s0 : State} {F : Pwr → Pwr} {s : State}
    (hf_pwrState : (∀ f : Pwr, (F f).state = f.state) ∨ μ.testBit 75 = true)
    (kh : Kept μ s0 s) : Kept μ s0 (modPwr F s) := by
  have i74 : μ.testBit 74 = true := bit_of hw rfl
  exact Kept.mk' kh  (h_pwr := .inr ⟨i74, hf_pwrState.imp (fun h => h s.pwr) id⟩)

theorem kept_pwrFlag {μ : Nat} (hw : 13194139533312 &&& μ = 13194139533312) {s0 : State} {b : Nat} {s : State}  (kh : Kept μ s0 s) :
    Kept μ s0 (pwrFlag b s) := by
  have k_setFlag : 13194139533312 &&& μ = 13194139533312 := sub_of hw rfl
  unfold pwrFlag
  repeat' first
    | with_reducible assumption
    | (intro s; with_reducible refine (fun (hs : Kept μ s0 s) => ?_) ?_)
    | intro x
    | lift_lets
    | with_reducible refine kept_setFlag k_setFlag ?_
    | split
    | dsimp +zetaDelta only

theorem kept_pwrHalf {μ : Nat} (hw : 906694364794534764740608 &&& μ = 906694364794534764740608) {s0 : State} {o : Nat} {old : Word} {s : State}  (kh : Kept μ s0 s) :
    Kept μ s0 (pwrHalf o old s) := by
  have k_halfAt : 906694364794534764740608 &&& μ = 906694364794534764740608 := sub_of hw rfl
  unfold pwrHalf
  repeat' first
    | with_reducible assumption
    | (intro s; with_reducible refine (fun (hs : Kept μ s0 s) => ?_) ?_)
    | intro x
    | lift_lets
    | with_reducible refine kept_halfAt k_halfAt ?_
    | split
    | dsimp +zetaDelta only

theorem vbat_tlog_rstCause (v : Vbat) (w : Word) : ({ v with rstCause := w } : Vbat).tlog = v.tlog := rfl

theorem emptied_vbat (cause detail : Nat) (s : State) : (emptied cause detail s).vbat =
    { s.vbat with rstCause := BitVec.ofNat 32 (cause * 2 ^ 24 + detail % 65536) } := rfl
theorem emptied_evLog (cause detail : Nat) (s : State) : (emptied cause detail s).evLog = [] := rfl
theorem emptied_fuses (cause detail : Nat) (s : State) : (emptied cause detail s).fuses = s.fuses := rfl

theorem kept_emptied {μ : Nat} (hw : 2399259627045968335077375 &&& μ = 2399259627045968335077375) {s0 : State} {cause detail : Nat} {s : State} (kh : Kept μ s0 s) : Kept μ s0 (emptied cause detail s) := by
  have i0 : μ.testBit 0 = true := bit_of hw rfl
  have i1 : μ.testBit 1 = true := bit_of hw rfl
  have i2 : μ.testBit 2 = true := bit_of hw rfl
  have i3 : μ.testBit 3 = true := bit_of hw rfl
  have i4 : μ.testBit 4 = true := bit_of hw rfl
  have i5 : μ.testBit 5 = true := bit_of hw rfl
  have i6 : μ.testBit 6 = true := bit_of hw rfl
  have i7 : μ.testBit 7 = true := bit_of hw rfl
  have i8 : μ.testBit 8 = true := bit_of hw rfl
  have i9 : μ.testBit 9 = true := bit_of hw rfl
  have i10 : μ.testBit 10 = true := bit_of hw rfl
  have i11 : μ.testBit 11 = true := bit_of hw rfl
  have i12 : μ.testBit 12 = true := bit_of hw rfl
  have i13 : μ.testBit 13 = true := bit_of hw rfl
  have i14 : μ.testBit 14 = true := bit_of hw rfl
  have i15 : μ.testBit 15 = true := bit_of hw rfl
  have i16 : μ.testBit 16 = true := bit_of hw rfl
  have i17 : μ.testBit 17 = true := bit_of hw rfl
  have i18 : μ.testBit 18 = true := bit_of hw rfl
  have i19 : μ.testBit 19 = true := bit_of hw rfl
  have i20 : μ.testBit 20 = true := bit_of hw rfl
  have i21 : μ.testBit 21 = true := bit_of hw rfl
  have i22 : μ.testBit 22 = true := bit_of hw rfl
  have i23 : μ.testBit 23 = true := bit_of hw rfl
  have i24 : μ.testBit 24 = true := bit_of hw rfl
  have i25 : μ.testBit 25 = true := bit_of hw rfl
  have i26 : μ.testBit 26 = true := bit_of hw rfl
  have i27 : μ.testBit 27 = true := bit_of hw rfl
  have i28 : μ.testBit 28 = true := bit_of hw rfl
  have i29 : μ.testBit 29 = true := bit_of hw rfl
  have i30 : μ.testBit 30 = true := bit_of hw rfl
  have i31 : μ.testBit 31 = true := bit_of hw rfl
  have i32 : μ.testBit 32 = true := bit_of hw rfl
  have i33 : μ.testBit 33 = true := bit_of hw rfl
  have i34 : μ.testBit 34 = true := bit_of hw rfl
  have i35 : μ.testBit 35 = true := bit_of hw rfl
  have i36 : μ.testBit 36 = true := bit_of hw rfl
  have i37 : μ.testBit 37 = true := bit_of hw rfl
  have i38 : μ.testBit 38 = true := bit_of hw rfl
  have i39 : μ.testBit 39 = true := bit_of hw rfl
  have i40 : μ.testBit 40 = true := bit_of hw rfl
  have i41 : μ.testBit 41 = true := bit_of hw rfl
  have i42 : μ.testBit 42 = true := bit_of hw rfl
  have i43 : μ.testBit 43 = true := bit_of hw rfl
  have i44 : μ.testBit 44 = true := bit_of hw rfl
  have i45 : μ.testBit 45 = true := bit_of hw rfl
  have i46 : μ.testBit 46 = true := bit_of hw rfl
  have i47 : μ.testBit 47 = true := bit_of hw rfl
  have i48 : μ.testBit 48 = true := bit_of hw rfl
  have i49 : μ.testBit 49 = true := bit_of hw rfl
  have i50 : μ.testBit 50 = true := bit_of hw rfl
  have i51 : μ.testBit 51 = true := bit_of hw rfl
  have i52 : μ.testBit 52 = true := bit_of hw rfl
  have i53 : μ.testBit 53 = true := bit_of hw rfl
  have i54 : μ.testBit 54 = true := bit_of hw rfl
  have i55 : μ.testBit 55 = true := bit_of hw rfl
  have i56 : μ.testBit 56 = true := bit_of hw rfl
  have i57 : μ.testBit 57 = true := bit_of hw rfl
  have i58 : μ.testBit 58 = true := bit_of hw rfl
  have i59 : μ.testBit 59 = true := bit_of hw rfl
  have i60 : μ.testBit 60 = true := bit_of hw rfl
  have i68 : μ.testBit 68 = true := bit_of hw rfl
  have i74 : μ.testBit 74 = true := bit_of hw rfl
  have i75 : μ.testBit 75 = true := bit_of hw rfl
  have i76 : μ.testBit 76 = true := bit_of hw rfl
  have i77 : μ.testBit 77 = true := bit_of hw rfl
  have i78 : μ.testBit 78 = true := bit_of hw rfl
  have i79 : μ.testBit 79 = true := bit_of hw rfl
  have i80 : μ.testBit 80 = true := bit_of hw rfl
  have e1 : s0.fuses.lcCtr ≤ 64 → (emptied cause detail s).fuses.lcCtr ≤ 64 := by rw [emptied_fuses]; exact kh.ctr64
  have e2 : s0.vbat.tlog.length ≤ 16 → (emptied cause detail s).vbat.tlog.length ≤ 16 := by
    rw [emptied_vbat, vbat_tlog_rstCause]; exact kh.tlog
  have e3 : s0.evLog.length ≤ 4096 → (emptied cause detail s).evLog.length ≤ 4096 := by
    rw [emptied_evLog]; intro; exact Nat.zero_le _
  exact ⟨kh.pending, kh.part, fun _ => rfl, fun _ => rfl, fun _ _ => rfl, kh.svn, kh.bill, kh.ctr, e1, e3, e2, kh.fr.mk' (h_tb := .inr ⟨i0, .inr i1, .inr i2, .inr i3⟩) (h_eth := .inr ⟨i4, .inr i5, .inr i6, .inr i7⟩) (h_ing := .inr ⟨i8, .inr i9, .inr i10⟩) (h_aln := .inr ⟨i11, .inr i12, .inr i13, .inr i14⟩) (h_svf := .inr i15) (h_osc := .inr i16) (h_isl := .inr i17) (h_sch := .inr ⟨i18, .inr i19, .inr i20, .inr i21⟩) (h_cap := .inr ⟨i22, .inr i23, .inr i24, .inr i25⟩) (h_mtr := .inr ⟨i26, .inr i27, .inr i28⟩) (h_tsk := .inr ⟨i29, .inr i30⟩) (h_arb := .inr i31) (h_pub := .inr ⟨i32, .inr i33, .inr i34, .inr i35⟩) (h_cfg := .inr ⟨i36, .inr i37, .inr i38, .inr i39, .inr i40, .inr i41⟩) (h_hp := .inr ⟨i42, .inr i43, .inr i44, .inr i45, .inr i46, .inr i47, .inr i48, .inr i49, .inr i50, .inr i51, .inr i52, .inr i53⟩) (h_pair := .inr ⟨i54, .inr i55, .inr i56, .inr i57⟩) (h_sec := .inr ⟨i58, .inr i59⟩) (h_nv := .inr ⟨i60, sm, sm, sm, sm, sm, sm, sm⟩) (h_vbat := .inr ⟨i68, sm, sm, sm, sm⟩) (h_pwr := .inr ⟨i74, .inr i75⟩) (h_cnt := .inr i76) (h_limits := .inr i77) (h_evLog := .inr i78) (h_evLogSeq := .inr i79) (h_free := .inr i80)⟩


theorem kept_startReset {μ : Nat} (hw : 2399259627045968335077375 &&& μ = 2399259627045968335077375) {s0 : State} {cause detail : Nat} {s : State}  (kh : Kept μ s0 s) :
    Kept μ s0 (startReset cause detail s) := by
  have k_emptied : 2399259627045968335077375 &&& μ = 2399259627045968335077375 := sub_of hw rfl
  have k_pwrHalf : 906694364794534764740608 &&& μ = 906694364794534764740608 := sub_of hw rfl
  unfold startReset
  repeat' first
    | with_reducible assumption
    | (intro s; with_reducible refine (fun (hs : Kept μ s0 s) => ?_) ?_)
    | intro x
    | lift_lets
    | with_reducible refine kept_pwrHalf k_pwrHalf ?_
    | with_reducible refine kept_emptied k_emptied ?_
    | split
    | dsimp +zetaDelta only

theorem kept_newKeys {μ : Nat} (hw : 889767171180334153728 &&& μ = 889767171180334153728) {s0 : State} {s : State}  (kh : Kept μ s0 s) :
    Kept μ s0 (newKeys s) := by
  have i58 : μ.testBit 58 = true := bit_of hw rfl
  have i59 : μ.testBit 59 = true := bit_of hw rfl
  have i60 : μ.testBit 60 = true := bit_of hw rfl
  have i61 : μ.testBit 61 = true := bit_of hw rfl
  have i68 : μ.testBit 68 = true := bit_of hw rfl
  have i69 : μ.testBit 69 = true := bit_of hw rfl
  unfold newKeys
  repeat' first
    | with_reducible assumption
    | (intro s; with_reducible refine (fun (hs : Kept μ s0 s) => ?_) ?_)
    | intro x
    | lift_lets
    | (fail_if_no_progress with_reducible refine Kept.mk' ?_  (h_sec := .inr ⟨i58, .inr i59⟩) (h_nv := .inr ⟨i60, .inr i61, sm, sm, sm, sm, sm, sm⟩) (h_vbat := .inr ⟨i68, .inr i69, sm, sm, sm⟩))
    | split
    | dsimp +zetaDelta only

theorem kept_rekey {μ : Nat} (hw : 889767171180334153728 &&& μ = 889767171180334153728) {s0 : State} {dst : Nat} {s : State}  (kh : Kept μ s0 s) :
    Kept μ s0 (rekey dst s) := by
  have k_newKeys : 889767171180334153728 &&& μ = 889767171180334153728 := sub_of hw rfl
  have k_zeroiseVault : 4323455642275676160 &&& μ = 4323455642275676160 := sub_of hw rfl
  have i58 : μ.testBit 58 = true := bit_of hw rfl
  have i59 : μ.testBit 59 = true := bit_of hw rfl
  have i60 : μ.testBit 60 = true := bit_of hw rfl
  have i61 : μ.testBit 61 = true := bit_of hw rfl
  have i68 : μ.testBit 68 = true := bit_of hw rfl
  have i69 : μ.testBit 69 = true := bit_of hw rfl
  unfold rekey
  repeat' first
    | with_reducible assumption
    | (intro s; with_reducible refine (fun (hs : Kept μ s0 s) => ?_) ?_)
    | intro x
    | lift_lets
    | with_reducible refine kept_zeroiseVault k_zeroiseVault ?_
    | with_reducible refine kept_newKeys k_newKeys ?_
    | (fail_if_no_progress with_reducible refine Kept.mk' ?_  (h_sec := .inr ⟨i58, .inr i59⟩) (h_nv := .inr ⟨i60, .inr i61, sm, sm, sm, sm, sm, sm⟩) (h_vbat := .inr ⟨i68, .inr i69, sm, sm, sm⟩))
    | split
    | dsimp +zetaDelta only

theorem kept_lcCompare {μ : Nat} (hw : 889767171180334153728 &&& μ = 889767171180334153728) {s0 : State} {s : State}  (kh : Kept μ s0 s) :
    Kept μ s0 (lcCompare s) := by
  have k_rekey : 889767171180334153728 &&& μ = 889767171180334153728 := sub_of hw rfl
  have i58 : μ.testBit 58 = true := bit_of hw rfl
  have i59 : μ.testBit 59 = true := bit_of hw rfl
  have i60 : μ.testBit 60 = true := bit_of hw rfl
  have i61 : μ.testBit 61 = true := bit_of hw rfl
  have i68 : μ.testBit 68 = true := bit_of hw rfl
  have i69 : μ.testBit 69 = true := bit_of hw rfl
  unfold lcCompare
  repeat' first
    | with_reducible assumption
    | (intro s; with_reducible refine (fun (hs : Kept μ s0 s) => ?_) ?_)
    | intro x
    | lift_lets
    | with_reducible refine kept_rekey k_rekey ?_
    | (fail_if_no_progress with_reducible refine Kept.mk' ?_  (h_sec := .inr ⟨i58, .inr i59⟩) (h_nv := .inr ⟨i60, .inr i61, sm, sm, sm, sm, sm, sm⟩) (h_vbat := .inr ⟨i68, .inr i69, sm, sm, sm⟩))
    | split
    | dsimp +zetaDelta only

theorem kept_kekCheck {μ : Nat} (hw : 997309095140238357954560 &&& μ = 997309095140238357954560) {s0 : State} {s : State}  (kh : Kept μ s0 s) :
    Kept μ s0 (kekCheck s) := by
  have k_logTamper : 987271184060378844758016 &&& μ = 987271184060378844758016 := sub_of hw rfl
  have k_newKeys : 889767171180334153728 &&& μ = 889767171180334153728 := sub_of hw rfl
  have k_tamperLock : 10334500136919624581120 &&& μ = 10334500136919624581120 := sub_of hw rfl
  have i42 : μ.testBit 42 = true := bit_of hw rfl
  have i43 : μ.testBit 43 = true := bit_of hw rfl
  have i46 : μ.testBit 46 = true := bit_of hw rfl
  have i58 : μ.testBit 58 = true := bit_of hw rfl
  have i59 : μ.testBit 59 = true := bit_of hw rfl
  have i60 : μ.testBit 60 = true := bit_of hw rfl
  have i61 : μ.testBit 61 = true := bit_of hw rfl
  have i68 : μ.testBit 68 = true := bit_of hw rfl
  have i69 : μ.testBit 69 = true := bit_of hw rfl
  have i72 : μ.testBit 72 = true := bit_of hw rfl
  have i73 : μ.testBit 73 = true := bit_of hw rfl
  have i76 : μ.testBit 76 = true := bit_of hw rfl
  have i78 : μ.testBit 78 = true := bit_of hw rfl
  have i79 : μ.testBit 79 = true := bit_of hw rfl
  unfold kekCheck
  repeat' first
    | with_reducible assumption
    | (intro s; with_reducible refine (fun (hs : Kept μ s0 s) => ?_) ?_)
    | intro x
    | lift_lets
    | with_reducible refine kept_logTamper k_logTamper ?_
    | with_reducible refine kept_tamperLock k_tamperLock ?_
    | with_reducible refine kept_newKeys k_newKeys ?_
    | (fail_if_no_progress with_reducible refine Kept.mk' ?_  (h_hp := .inr ⟨i42, .inr i43, sm, sm, .inr i46, sm, sm, sm, sm, sm, sm, sm⟩) (h_sec := .inr ⟨i58, .inr i59⟩) (h_nv := .inr ⟨i60, .inr i61, sm, sm, sm, sm, sm, sm⟩) (h_vbat := .inr ⟨i68, .inr i69, sm, sm, .inr i72⟩) (h_fuses := .inr i73) (h_cnt := .inr i76) (h_evLog := .inr i78) (h_evLogSeq := .inr i79))
    | split
    | dsimp +zetaDelta only

theorem kept_runFw {μ : Nat} (hw : 288230376151711744 &&& μ = 288230376151711744) {s0 : State} {k : Nat} {s : State}  (kh : Kept μ s0 s) :
    Kept μ s0 (runFw k s) := by
  have i58 : μ.testBit 58 = true := bit_of hw rfl
  unfold runFw
  repeat' first
    | with_reducible assumption
    | (intro s; with_reducible refine (fun (hs : Kept μ s0 s) => ?_) ?_)
    | intro x
    | lift_lets
    | (fail_if_no_progress with_reducible refine Kept.mk' ?_  (h_sec := .inr ⟨i58, sm⟩))
    | split
    | dsimp +zetaDelta only

theorem kept_adoptFw {μ : Nat} (hw : 9448191730253110968320 &&& μ = 9448191730253110968320) {s0 : State} {k : Nat} {s : State}  (kh : Kept μ s0 s) :
    Kept μ s0 (adoptFw k s) := by
  have i60 : μ.testBit 60 = true := bit_of hw rfl
  have i61 : μ.testBit 61 = true := bit_of hw rfl
  have i73 : μ.testBit 73 = true := bit_of hw rfl
  unfold adoptFw
  have hs : Kept μ s0 { s with fuses := { s.fuses with svn := max s.fuses.svn (runningFw s).svn } } :=
    ⟨kh.pending, kh.part, kh.hp, kh.push, kh.tick, Nat.le_trans kh.svn (Nat.le_max_left _ _), kh.bill, kh.ctr, kh.ctr64, kh.evl, kh.tlog, kh.fr.mk' (h_nv := .inr ⟨i60, .inr i61, sm, sm, sm, sm, sm, sm⟩) (h_fuses := .inr i73)⟩
  dsimp only
  split
  · exact Kept.mk' hs  (h_nv := .inr ⟨i60, .inr i61, sm, sm, sm, sm, sm, sm⟩) (h_fuses := .inr i73)
  · exact Kept.mk' hs  (h_nv := .inr ⟨i60, .inr i61, sm, sm, sm, sm, sm, sm⟩) (h_fuses := .inr i73)

theorem kept_unsealVault {μ : Nat} (hw : 991701284941830654263296 &&& μ = 991701284941830654263296) {s0 : State} {s : State}  (kh : Kept μ s0 s) :
    Kept μ s0 (unsealVault s) := by
  have k_adoptFw : 9448191730253110968320 &&& μ = 9448191730253110968320 := sub_of hw rfl
  have k_count : 982252228520449088159744 &&& μ = 982252228520449088159744 := sub_of hw rfl
  have k_raise : 906694364785738671718400 &&& μ = 906694364785738671718400 := sub_of hw rfl
  have k_secFlag : 13194139533312 &&& μ = 13194139533312 := sub_of hw rfl
  have i42 : μ.testBit 42 = true := bit_of hw rfl
  have i43 : μ.testBit 43 = true := bit_of hw rfl
  have i46 : μ.testBit 46 = true := bit_of hw rfl
  have i58 : μ.testBit 58 = true := bit_of hw rfl
  have i59 : μ.testBit 59 = true := bit_of hw rfl
  have i60 : μ.testBit 60 = true := bit_of hw rfl
  have i61 : μ.testBit 61 = true := bit_of hw rfl
  have i73 : μ.testBit 73 = true := bit_of hw rfl
  have i76 : μ.testBit 76 = true := bit_of hw rfl
  have i78 : μ.testBit 78 = true := bit_of hw rfl
  have i79 : μ.testBit 79 = true := bit_of hw rfl
  unfold unsealVault
  repeat' first
    | with_reducible assumption
    | (intro s; with_reducible refine (fun (hs : Kept μ s0 s) => ?_) ?_)
    | intro x
    | lift_lets
    | with_reducible refine kept_raise k_raise ?_
    | with_reducible refine kept_count k_count ?_
    | with_reducible refine kept_secFlag k_secFlag ?_
    | with_reducible refine kept_adoptFw k_adoptFw ?_
    | (fail_if_no_progress with_reducible refine Kept.mk' ?_  (h_hp := .inr ⟨i42, .inr i43, sm, sm, .inr i46, sm, sm, sm, sm, sm, sm, sm⟩) (h_sec := .inr ⟨i58, .inr i59⟩) (h_nv := .inr ⟨i60, .inr i61, sm, sm, sm, sm, sm, sm⟩) (h_fuses := .inr i73) (h_cnt := .inr i76) (h_evLog := .inr i78) (h_evLogSeq := .inr i79))
    | split
    | dsimp +zetaDelta only

theorem kept_startTables {μ : Nat} (hw : 982252503275224088484656 &&& μ = 982252503275224088484656) {s0 : State} {s : State}  (kh : Kept μ s0 s) :
    Kept μ s0 (startTables s) := by
  have k_grpWait : 6144 &&& μ = 6144 := sub_of hw rfl
  have k_mtrLoad : 906694364794535234502656 &&& μ = 906694364794535234502656 := sub_of hw rfl
  have k_osStart : 906694364785751556620288 &&& μ = 906694364785751556620288 := sub_of hw rfl
  have k_pairStart : 270215977642229760 &&& μ = 270215977642229760 := sub_of hw rfl
  have k_strmStart : 982252233059233087619888 &&& μ = 982252233059233087619888 := sub_of hw rfl
  have k_subStart : 32768 &&& μ = 32768 := sub_of hw rfl
  have k_taskReset : 3932160 &&& μ = 3932160 := sub_of hw rfl
  unfold startTables
  repeat' first
    | with_reducible assumption
    | (intro s; with_reducible refine (fun (hs : Kept μ s0 s) => ?_) ?_)
    | intro x
    | lift_lets
    | with_reducible refine kept_strmStart k_strmStart ?_
    | with_reducible refine kept_subStart k_subStart ?_
    | with_reducible refine kept_grpWait k_grpWait ?_
    | with_reducible refine kept_taskReset k_taskReset ?_
    | with_reducible refine kept_osStart k_osStart ?_
    | with_reducible refine kept_mtrLoad k_mtrLoad ?_
    | with_reducible refine kept_pairStart k_pairStart ?_
    | with_reducible refine kept_foldl (fun s x hs => ?_) ?_
    | split
    | dsimp +zetaDelta only

theorem kept_restorePars {μ : Nat} (hw : 14362370637824 &&& μ = 14362370637824) {s0 : State} {s : State}  (kh : Kept μ s0 s) :
    Kept μ s0 (restorePars s) := by
  have k_cfgFlag : 13194139533312 &&& μ = 13194139533312 := sub_of hw rfl
  have i36 : μ.testBit 36 = true := bit_of hw rfl
  have i40 : μ.testBit 40 = true := bit_of hw rfl
  have i42 : μ.testBit 42 = true := bit_of hw rfl
  have i43 : μ.testBit 43 = true := bit_of hw rfl
  unfold restorePars
  repeat' first
    | with_reducible assumption
    | (intro s; with_reducible refine (fun (hs : Kept μ s0 s) => ?_) ?_)
    | intro x
    | lift_lets
    | with_reducible refine kept_cfgFlag k_cfgFlag ?_
    | (fail_if_no_progress with_reducible refine Kept.mk' ?_  (h_cfg := .inr ⟨i36, sm, sm, sm, .inr i40, sm⟩) (h_hp := .inr ⟨i42, .inr i43, sm, sm, sm, sm, sm, sm, sm, sm, sm, sm⟩))
    | split
    | dsimp +zetaDelta only

theorem kept_toDefaults {μ : Nat} (hw : 906694364785944830148608 &&& μ = 906694364785944830148608) {s0 : State} {reason : Nat} {s : State}  (kh : Kept μ s0 s) :
    Kept μ s0 (toDefaults reason s) := by
  have k_raise : 906694364785738671718400 &&& μ = 906694364785738671718400 := sub_of hw rfl
  have i36 : μ.testBit 36 = true := bit_of hw rfl
  have i37 : μ.testBit 37 = true := bit_of hw rfl
  have i42 : μ.testBit 42 = true := bit_of hw rfl
  have i46 : μ.testBit 46 = true := bit_of hw rfl
  have i78 : μ.testBit 78 = true := bit_of hw rfl
  have i79 : μ.testBit 79 = true := bit_of hw rfl
  unfold toDefaults
  repeat' first
    | with_reducible assumption
    | (intro s; with_reducible refine (fun (hs : Kept μ s0 s) => ?_) ?_)
    | intro x
    | lift_lets
    | with_reducible refine kept_raise k_raise ?_
    | (fail_if_no_progress with_reducible refine Kept.mk' ?_  (h_cfg := .inr ⟨i36, .inr i37, sm, sm, sm, sm⟩) (h_hp := .inr ⟨i42, sm, sm, sm, .inr i46, sm, sm, sm, sm, sm, sm, sm⟩) (h_evLog := .inr i78) (h_evLogSeq := .inr i79))
    | split
    | dsimp +zetaDelta only

theorem kept_loadBoot {μ : Nat} (hw : 982252228522304514031616 &&& μ = 982252228522304514031616) {s0 : State} {s : State}  (kh : Kept μ s0 s) :
    Kept μ s0 (loadBoot s) := by
  have k_count : 982252228520449088159744 &&& μ = 982252228520449088159744 := sub_of hw rfl
  have k_loadDone : 982252228520517807636480 &&& μ = 982252228520517807636480 := sub_of hw rfl
  have k_restorePars : 14362370637824 &&& μ = 14362370637824 := sub_of hw rfl
  have k_slotBad : 13812614823936 &&& μ = 13812614823936 := sub_of hw rfl
  have k_toDefaults : 906694364785944830148608 &&& μ = 906694364785944830148608 := sub_of hw rfl
  have i36 : μ.testBit 36 = true := bit_of hw rfl
  have i37 : μ.testBit 37 = true := bit_of hw rfl
  have i39 : μ.testBit 39 = true := bit_of hw rfl
  have i40 : μ.testBit 40 = true := bit_of hw rfl
  have i42 : μ.testBit 42 = true := bit_of hw rfl
  have i43 : μ.testBit 43 = true := bit_of hw rfl
  have i46 : μ.testBit 46 = true := bit_of hw rfl
  have i76 : μ.testBit 76 = true := bit_of hw rfl
  have i78 : μ.testBit 78 = true := bit_of hw rfl
  have i79 : μ.testBit 79 = true := bit_of hw rfl
  unfold loadBoot
  repeat' first
    | with_reducible assumption
    | (intro s; with_reducible refine (fun (hs : Kept μ s0 s) => ?_) ?_)
    | intro x
    | lift_lets
    | with_reducible refine kept_count k_count ?_
    | with_reducible refine kept_loadDone k_loadDone ?_
    | with_reducible refine kept_slotBad k_slotBad ?_
    | with_reducible refine kept_restorePars k_restorePars ?_
    | with_reducible refine kept_toDefaults k_toDefaults ?_
    | (fail_if_no_progress with_reducible refine Kept.mk' ?_  (h_cfg := .inr ⟨i36, .inr i37, sm, .inr i39, .inr i40, sm⟩) (h_hp := .inr ⟨i42, .inr i43, sm, sm, .inr i46, sm, sm, sm, sm, sm, sm, sm⟩) (h_cnt := .inr i76) (h_evLog := .inr i78) (h_evLogSeq := .inr i79))
    | split
    | dsimp +zetaDelta only

theorem kept_limitDefaults {μ : Nat} (hw : 906694364794740923170816 &&& μ = 906694364794740923170816) {s0 : State} {s : State}  (kh : Kept μ s0 s) :
    Kept μ s0 (limitDefaults s) := by
  have k_pwrFlag : 13194139533312 &&& μ = 13194139533312 := sub_of hw rfl
  have k_raise : 906694364785738671718400 &&& μ = 906694364785738671718400 := sub_of hw rfl
  have k_toDefaults : 906694364785944830148608 &&& μ = 906694364785944830148608 := sub_of hw rfl
  have i36 : μ.testBit 36 = true := bit_of hw rfl
  have i37 : μ.testBit 37 = true := bit_of hw rfl
  have i42 : μ.testBit 42 = true := bit_of hw rfl
  have i43 : μ.testBit 43 = true := bit_of hw rfl
  have i46 : μ.testBit 46 = true := bit_of hw rfl
  have i78 : μ.testBit 78 = true := bit_of hw rfl
  have i79 : μ.testBit 79 = true := bit_of hw rfl
  unfold limitDefaults
  repeat' first
    | with_reducible assumption
    | (intro s; with_reducible refine (fun (hs : Kept μ s0 s) => ?_) ?_)
    | intro x
    | lift_lets
    | with_reducible refine kept_raise k_raise ?_
    | with_reducible refine kept_pwrFlag k_pwrFlag ?_
    | with_reducible refine kept_toDefaults k_toDefaults ?_
    | (fail_if_no_progress with_reducible refine Kept.mk' ?_  (h_cfg := .inr ⟨i36, .inr i37, sm, sm, sm, sm⟩) (h_hp := .inr ⟨i42, .inr i43, sm, sm, .inr i46, sm, sm, sm, sm, sm, sm, sm⟩) (h_evLog := .inr i78) (h_evLogSeq := .inr i79))
    | split
    | dsimp +zetaDelta only

theorem kept_bootRom {μ : Nat} (hw : 997309095140238357954560 &&& μ = 997309095140238357954560) {s0 : State} {s : State}  (kh : Kept μ s0 s) :
    Kept μ s0 (bootRom s) := by
  have k_kekCheck : 997309095140238357954560 &&& μ = 997309095140238357954560 := sub_of hw rfl
  have k_lcCompare : 889767171180334153728 &&& μ = 889767171180334153728 := sub_of hw rfl
  have k_secFlag : 13194139533312 &&& μ = 13194139533312 := sub_of hw rfl
  have i42 : μ.testBit 42 = true := bit_of hw rfl
  have i43 : μ.testBit 43 = true := bit_of hw rfl
  have i46 : μ.testBit 46 = true := bit_of hw rfl
  have i58 : μ.testBit 58 = true := bit_of hw rfl
  have i59 : μ.testBit 59 = true := bit_of hw rfl
  have i60 : μ.testBit 60 = true := bit_of hw rfl
  have i61 : μ.testBit 61 = true := bit_of hw rfl
  have i68 : μ.testBit 68 = true := bit_of hw rfl
  have i69 : μ.testBit 69 = true := bit_of hw rfl
  have i72 : μ.testBit 72 = true := bit_of hw rfl
  have i73 : μ.testBit 73 = true := bit_of hw rfl
  have i76 : μ.testBit 76 = true := bit_of hw rfl
  have i78 : μ.testBit 78 = true := bit_of hw rfl
  have i79 : μ.testBit 79 = true := bit_of hw rfl
  unfold bootRom
  repeat' first
    | with_reducible assumption
    | (intro s; with_reducible refine (fun (hs : Kept μ s0 s) => ?_) ?_)
    | intro x
    | lift_lets
    | with_reducible refine kept_secFlag k_secFlag ?_
    | with_reducible refine kept_lcCompare k_lcCompare ?_
    | with_reducible refine kept_kekCheck k_kekCheck ?_
    | (fail_if_no_progress with_reducible refine Kept.mk' ?_  (h_hp := .inr ⟨i42, .inr i43, sm, sm, .inr i46, sm, sm, sm, sm, sm, sm, sm⟩) (h_sec := .inr ⟨i58, .inr i59⟩) (h_nv := .inr ⟨i60, .inr i61, sm, sm, sm, sm, sm, sm⟩) (h_vbat := .inr ⟨i68, .inr i69, sm, sm, .inr i72⟩) (h_fuses := .inr i73) (h_cnt := .inr i76) (h_evLog := .inr i78) (h_evLogSeq := .inr i79))
    | split
    | dsimp +zetaDelta only

theorem kept_startClock {μ : Nat} (hw : 1475739525896764129281 &&& μ = 1475739525896764129281) {s0 : State} {rtc : Nat} {s : State}  (kh : Kept μ s0 s) :
    Kept μ s0 (startClock rtc s) := by
  have i0 : μ.testBit 0 = true := bit_of hw rfl
  have i68 : μ.testBit 68 = true := bit_of hw rfl
  have i70 : μ.testBit 70 = true := bit_of hw rfl
  unfold startClock
  repeat' first
    | with_reducible assumption
    | (intro s; with_reducible refine (fun (hs : Kept μ s0 s) => ?_) ?_)
    | intro x
    | lift_lets
    | (fail_if_no_progress with_reducible refine Kept.mk' ?_  (h_tb := .inr ⟨i0, sm, sm, sm⟩) (h_vbat := .inr ⟨i68, sm, .inr i70, sm, sm⟩))
    | split
    | dsimp +zetaDelta only

theorem kept_bringUp {μ : Nat} (hw : 1199499522254580565711664 &&& μ = 1199499522254580565711664) {s0 : State} {k ms : Nat} {s : State}  (kh : Kept μ s0 s) :
    Kept μ s0 (bringUp k ms s) := by
  have k_limitDefaults : 906694364794740923170816 &&& μ = 906694364794740923170816 := sub_of hw rfl
  have k_loadBoot : 982252228522304514031616 &&& μ = 982252228522304514031616 := sub_of hw rfl
  have k_meterIdentity : 1133378334517619211632640 &&& μ = 1133378334517619211632640 := sub_of hw rfl
  have k_modPwr : 18889465931478580854784 &&& μ = 18889465931478580854784 := sub_of hw rfl
  have k_pwrFlag : 13194139533312 &&& μ = 13194139533312 := sub_of hw rfl
  have k_runFw : 288230376151711744 &&& μ = 288230376151711744 := sub_of hw rfl
  have k_startTables : 982252503275224088484656 &&& μ = 982252503275224088484656 := sub_of hw rfl
  have k_unsealVault : 991701284941830654263296 &&& μ = 991701284941830654263296 := sub_of hw rfl
  have i4 : μ.testBit 4 = true := bit_of hw rfl
  have i5 : μ.testBit 5 = true := bit_of hw rfl
  have i8 : μ.testBit 8 = true := bit_of hw rfl
  have i9 : μ.testBit 9 = true := bit_of hw rfl
  have i11 : μ.testBit 11 = true := bit_of hw rfl
  have i12 : μ.testBit 12 = true := bit_of hw rfl
  have i15 : μ.testBit 15 = true := bit_of hw rfl
  have i18 : μ.testBit 18 = true := bit_of hw rfl
  have i19 : μ.testBit 19 = true := bit_of hw rfl
  have i20 : μ.testBit 20 = true := bit_of hw rfl
  have i21 : μ.testBit 21 = true := bit_of hw rfl
  have i26 : μ.testBit 26 = true := bit_of hw rfl
  have i27 : μ.testBit 27 = true := bit_of hw rfl
  have i28 : μ.testBit 28 = true := bit_of hw rfl
  have i32 : μ.testBit 32 = true := bit_of hw rfl
  have i33 : μ.testBit 33 = true := bit_of hw rfl
  have i36 : μ.testBit 36 = true := bit_of hw rfl
  have i37 : μ.testBit 37 = true := bit_of hw rfl
  have i39 : μ.testBit 39 = true := bit_of hw rfl
  have i40 : μ.testBit 40 = true := bit_of hw rfl
  have i42 : μ.testBit 42 = true := bit_of hw rfl
  have i43 : μ.testBit 43 = true := bit_of hw rfl
  have i45 : μ.testBit 45 = true := bit_of hw rfl
  have i46 : μ.testBit 46 = true := bit_of hw rfl
  have i51 : μ.testBit 51 = true := bit_of hw rfl
  have i52 : μ.testBit 52 = true := bit_of hw rfl
  have i54 : μ.testBit 54 = true := bit_of hw rfl
  have i55 : μ.testBit 55 = true := bit_of hw rfl
  have i56 : μ.testBit 56 = true := bit_of hw rfl
  have i57 : μ.testBit 57 = true := bit_of hw rfl
  have i58 : μ.testBit 58 = true := bit_of hw rfl
  have i59 : μ.testBit 59 = true := bit_of hw rfl
  have i60 : μ.testBit 60 = true := bit_of hw rfl
  have i61 : μ.testBit 61 = true := bit_of hw rfl
  have i62 : μ.testBit 62 = true := bit_of hw rfl
  have i63 : μ.testBit 63 = true := bit_of hw rfl
  have i73 : μ.testBit 73 = true := bit_of hw rfl
  have i74 : μ.testBit 74 = true := bit_of hw rfl
  have i75 : μ.testBit 75 = true := bit_of hw rfl
  have i76 : μ.testBit 76 = true := bit_of hw rfl
  have i77 : μ.testBit 77 = true := bit_of hw rfl
  have i78 : μ.testBit 78 = true := bit_of hw rfl
  have i79 : μ.testBit 79 = true := bit_of hw rfl
  unfold bringUp
  repeat' first
    | with_reducible assumption
    | (intro s; with_reducible refine (fun (hs : Kept μ s0 s) => ?_) ?_)
    | intro x
    | lift_lets
    | with_reducible refine kept_meterIdentity k_meterIdentity ?_
    | with_reducible refine kept_modPwr k_modPwr (.inr i75) ?_
    | with_reducible refine kept_pwrFlag k_pwrFlag ?_
    | with_reducible refine kept_runFw k_runFw ?_
    | with_reducible refine kept_unsealVault k_unsealVault ?_
    | with_reducible refine kept_startTables k_startTables ?_
    | with_reducible refine kept_loadBoot k_loadBoot ?_
    | with_reducible refine kept_limitDefaults k_limitDefaults ?_
    | (fail_if_no_progress with_reducible refine Kept.mk' ?_  (h_eth := .inr ⟨i4, .inr i5, sm, sm⟩) (h_ing := .inr ⟨i8, .inr i9, sm⟩) (h_aln := .inr ⟨i11, .inr i12, sm, sm⟩) (h_svf := .inr i15) (h_sch := .inr ⟨i18, .inr i19, .inr i20, .inr i21⟩) (h_mtr := .inr ⟨i26, .inr i27, .inr i28⟩) (h_pub := .inr ⟨i32, .inr i33, sm, sm⟩) (h_cfg := .inr ⟨i36, .inr i37, sm, .inr i39, .inr i40, sm⟩) (h_hp := .inr ⟨i42, .inr i43, sm, .inr i45, .inr i46, sm, sm, sm, sm, .inr i51, .inr i52, sm⟩) (h_pair := .inr ⟨i54, .inr i55, .inr i56, .inr i57⟩) (h_sec := .inr ⟨i58, .inr i59⟩) (h_nv := .inr ⟨i60, .inr i61, .inr i62, .inr i63, sm, sm, sm, sm⟩) (h_fuses := .inr i73) (h_pwr := .inr ⟨i74, .inr i75⟩) (h_cnt := .inr i76) (h_limits := .inr i77) (h_evLog := .inr i78) (h_evLogSeq := .inr i79))
    | split
    | dsimp +zetaDelta only

theorem kept_powerUp {μ : Nat} (hw : 1206287924073705680706353 &&& μ = 1206287924073705680706353) {s0 : State} {p : PowerIn} {s : State}  (kh : Kept μ s0 s) :
    Kept μ s0 (powerUp p s) := by
  have k_bootRom : 997309095140238357954560 &&& μ = 997309095140238357954560 := sub_of hw rfl
  have k_bringUp : 1199499522254580565711664 &&& μ = 1199499522254580565711664 := sub_of hw rfl
  have k_modPwr : 18889465931478580854784 &&& μ = 18889465931478580854784 := sub_of hw rfl
  have k_startClock : 1475739525896764129281 &&& μ = 1475739525896764129281 := sub_of hw rfl
  have i0 : μ.testBit 0 = true := bit_of hw rfl
  have i4 : μ.testBit 4 = true := bit_of hw rfl
  have i5 : μ.testBit 5 = true := bit_of hw rfl
  have i8 : μ.testBit 8 = true := bit_of hw rfl
  have i9 : μ.testBit 9 = true := bit_of hw rfl
  have i11 : μ.testBit 11 = true := bit_of hw rfl
  have i12 : μ.testBit 12 = true := bit_of hw rfl
  have i15 : μ.testBit 15 = true := bit_of hw rfl
  have i18 : μ.testBit 18 = true := bit_of hw rfl
  have i19 : μ.testBit 19 = true := bit_of hw rfl
  have i20 : μ.testBit 20 = true := bit_of hw rfl
  have i21 : μ.testBit 21 = true := bit_of hw rfl
  have i26 : μ.testBit 26 = true := bit_of hw rfl
  have i27 : μ.testBit 27 = true := bit_of hw rfl
  have i28 : μ.testBit 28 = true := bit_of hw rfl
  have i32 : μ.testBit 32 = true := bit_of hw rfl
  have i33 : μ.testBit 33 = true := bit_of hw rfl
  have i36 : μ.testBit 36 = true := bit_of hw rfl
  have i37 : μ.testBit 37 = true := bit_of hw rfl
  have i39 : μ.testBit 39 = true := bit_of hw rfl
  have i40 : μ.testBit 40 = true := bit_of hw rfl
  have i42 : μ.testBit 42 = true := bit_of hw rfl
  have i43 : μ.testBit 43 = true := bit_of hw rfl
  have i45 : μ.testBit 45 = true := bit_of hw rfl
  have i46 : μ.testBit 46 = true := bit_of hw rfl
  have i51 : μ.testBit 51 = true := bit_of hw rfl
  have i52 : μ.testBit 52 = true := bit_of hw rfl
  have i54 : μ.testBit 54 = true := bit_of hw rfl
  have i55 : μ.testBit 55 = true := bit_of hw rfl
  have i56 : μ.testBit 56 = true := bit_of hw rfl
  have i57 : μ.testBit 57 = true := bit_of hw rfl
  have i58 : μ.testBit 58 = true := bit_of hw rfl
  have i59 : μ.testBit 59 = true := bit_of hw rfl
  have i60 : μ.testBit 60 = true := bit_of hw rfl
  have i61 : μ.testBit 61 = true := bit_of hw rfl
  have i62 : μ.testBit 62 = true := bit_of hw rfl
  have i63 : μ.testBit 63 = true := bit_of hw rfl
  have i68 : μ.testBit 68 = true := bit_of hw rfl
  have i69 : μ.testBit 69 = true := bit_of hw rfl
  have i70 : μ.testBit 70 = true := bit_of hw rfl
  have i72 : μ.testBit 72 = true := bit_of hw rfl
  have i73 : μ.testBit 73 = true := bit_of hw rfl
  have i74 : μ.testBit 74 = true := bit_of hw rfl
  have i75 : μ.testBit 75 = true := bit_of hw rfl
  have i76 : μ.testBit 76 = true := bit_of hw rfl
  have i77 : μ.testBit 77 = true := bit_of hw rfl
  have i78 : μ.testBit 78 = true := bit_of hw rfl
  have i79 : μ.testBit 79 = true := bit_of hw rfl
  unfold powerUp
  repeat' first
    | with_reducible assumption
    | (intro s; with_reducible refine (fun (hs : Kept μ s0 s) => ?_) ?_)
    | intro x
    | lift_lets
    | with_reducible refine kept_modPwr k_modPwr (.inr i75) ?_
    | with_reducible refine kept_bootRom k_bootRom ?_
    | with_reducible refine kept_startClock k_startClock ?_
    | with_reducible refine kept_bringUp k_bringUp ?_
    | (fail_if_no_progress with_reducible refine Kept.mk' ?_  (h_tb := .inr ⟨i0, sm, sm, sm⟩) (h_eth := .inr ⟨i4, .inr i5, sm, sm⟩) (h_ing := .inr ⟨i8, .inr i9, sm⟩) (h_aln := .inr ⟨i11, .inr i12, sm, sm⟩) (h_svf := .inr i15) (h_sch := .inr ⟨i18, .inr i19, .inr i20, .inr i21⟩) (h_mtr := .inr ⟨i26, .inr i27, .inr i28⟩) (h_pub := .inr ⟨i32, .inr i33, sm, sm⟩) (h_cfg := .inr ⟨i36, .inr i37, sm, .inr i39, .inr i40, sm⟩) (h_hp := .inr ⟨i42, .inr i43, sm, .inr i45, .inr i46, sm, sm, sm, sm, .inr i51, .inr i52, sm⟩) (h_pair := .inr ⟨i54, .inr i55, .inr i56, .inr i57⟩) (h_sec := .inr ⟨i58, .inr i59⟩) (h_nv := .inr ⟨i60, .inr i61, .inr i62, .inr i63, sm, sm, sm, sm⟩) (h_vbat := .inr ⟨i68, .inr i69, .inr i70, sm, .inr i72⟩) (h_fuses := .inr i73) (h_pwr := .inr ⟨i74, .inr i75⟩) (h_cnt := .inr i76) (h_limits := .inr i77) (h_evLog := .inr i78) (h_evLogSeq := .inr i79))
    | split
    | dsimp +zetaDelta only

theorem kept_powerOn {μ : Nat} (hw : 2399259627045968335077375 &&& μ = 2399259627045968335077375) {s0 : State} {s : State}  (kh : Kept μ s0 s) :
    Kept μ s0 (powerOn s) := by
  have k_count : 982252228520449088159744 &&& μ = 982252228520449088159744 := sub_of hw rfl
  have k_startReset : 2399259627045968335077375 &&& μ = 2399259627045968335077375 := sub_of hw rfl
  unfold powerOn
  repeat' first
    | with_reducible assumption
    | (intro s; with_reducible refine (fun (hs : Kept μ s0 s) => ?_) ?_)
    | intro x
    | lift_lets
    | with_reducible refine kept_count k_count ?_
    | with_reducible refine kept_startReset k_startReset ?_
    | split
    | dsimp +zetaDelta only

theorem kept_execPowerUp {μ : Nat} (hw : 2415213754826717883531263 &&& μ = 2415213754826717883531263) {s0 : State} {p : PowerIn} {s : State}  (kh : Kept μ s0 s) :
    KeptOut μ s0 (execPowerUp p s) := by
  have k_powerOn : 2399259627045968335077375 &&& μ = 2399259627045968335077375 := sub_of hw rfl
  have k_powerUp : 1206287924073705680706353 &&& μ = 1206287924073705680706353 := sub_of hw rfl
  have i0 : μ.testBit 0 = true := bit_of hw rfl
  have i1 : μ.testBit 1 = true := bit_of hw rfl
  have i2 : μ.testBit 2 = true := bit_of hw rfl
  have i3 : μ.testBit 3 = true := bit_of hw rfl
  have i4 : μ.testBit 4 = true := bit_of hw rfl
  have i5 : μ.testBit 5 = true := bit_of hw rfl
  have i6 : μ.testBit 6 = true := bit_of hw rfl
  have i7 : μ.testBit 7 = true := bit_of hw rfl
  have i8 : μ.testBit 8 = true := bit_of hw rfl
  have i9 : μ.testBit 9 = true := bit_of hw rfl
  have i10 : μ.testBit 10 = true := bit_of hw rfl
  have i11 : μ.testBit 11 = true := bit_of hw rfl
  have i12 : μ.testBit 12 = true := bit_of hw rfl
  have i13 : μ.testBit 13 = true := bit_of hw rfl
  have i14 : μ.testBit 14 = true := bit_of hw rfl
  have i15 : μ.testBit 15 = true := bit_of hw rfl
  have i16 : μ.testBit 16 = true := bit_of hw rfl
  have i17 : μ.testBit 17 = true := bit_of hw rfl
  have i18 : μ.testBit 18 = true := bit_of hw rfl
  have i19 : μ.testBit 19 = true := bit_of hw rfl
  have i20 : μ.testBit 20 = true := bit_of hw rfl
  have i21 : μ.testBit 21 = true := bit_of hw rfl
  have i22 : μ.testBit 22 = true := bit_of hw rfl
  have i23 : μ.testBit 23 = true := bit_of hw rfl
  have i24 : μ.testBit 24 = true := bit_of hw rfl
  have i25 : μ.testBit 25 = true := bit_of hw rfl
  have i26 : μ.testBit 26 = true := bit_of hw rfl
  have i27 : μ.testBit 27 = true := bit_of hw rfl
  have i28 : μ.testBit 28 = true := bit_of hw rfl
  have i29 : μ.testBit 29 = true := bit_of hw rfl
  have i30 : μ.testBit 30 = true := bit_of hw rfl
  have i31 : μ.testBit 31 = true := bit_of hw rfl
  have i32 : μ.testBit 32 = true := bit_of hw rfl
  have i33 : μ.testBit 33 = true := bit_of hw rfl
  have i34 : μ.testBit 34 = true := bit_of hw rfl
  have i35 : μ.testBit 35 = true := bit_of hw rfl
  have i36 : μ.testBit 36 = true := bit_of hw rfl
  have i37 : μ.testBit 37 = true := bit_of hw rfl
  have i38 : μ.testBit 38 = true := bit_of hw rfl
  have i39 : μ.testBit 39 = true := bit_of hw rfl
  have i40 : μ.testBit 40 = true := bit_of hw rfl
  have i41 : μ.testBit 41 = true := bit_of hw rfl
  have i42 : μ.testBit 42 = true := bit_of hw rfl
  have i43 : μ.testBit 43 = true := bit_of hw rfl
  have i44 : μ.testBit 44 = true := bit_of hw rfl
  have i45 : μ.testBit 45 = true := bit_of hw rfl
  have i46 : μ.testBit 46 = true := bit_of hw rfl
  have i47 : μ.testBit 47 = true := bit_of hw rfl
  have i48 : μ.testBit 48 = true := bit_of hw rfl
  have i49 : μ.testBit 49 = true := bit_of hw rfl
  have i50 : μ.testBit 50 = true := bit_of hw rfl
  have i51 : μ.testBit 51 = true := bit_of hw rfl
  have i52 : μ.testBit 52 = true := bit_of hw rfl
  have i53 : μ.testBit 53 = true := bit_of hw rfl
  have i54 : μ.testBit 54 = true := bit_of hw rfl
  have i55 : μ.testBit 55 = true := bit_of hw rfl
  have i56 : μ.testBit 56 = true := bit_of hw rfl
  have i57 : μ.testBit 57 = true := bit_of hw rfl
  have i58 : μ.testBit 58 = true := bit_of hw rfl
  have i59 : μ.testBit 59 = true := bit_of hw rfl
  have i60 : μ.testBit 60 = true := bit_of hw rfl
  have i61 : μ.testBit 61 = true := bit_of hw rfl
  have i62 : μ.testBit 62 = true := bit_of hw rfl
  have i63 : μ.testBit 63 = true := bit_of hw rfl
  have i68 : μ.testBit 68 = true := bit_of hw rfl
  have i69 : μ.testBit 69 = true := bit_of hw rfl
  have i70 : μ.testBit 70 = true := bit_of hw rfl
  have i72 : μ.testBit 72 = true := bit_of hw rfl
  have i73 : μ.testBit 73 = true := bit_of hw rfl
  have i74 : μ.testBit 74 = true := bit_of hw rfl
  have i75 : μ.testBit 75 = true := bit_of hw rfl
  have i76 : μ.testBit 76 = true := bit_of hw rfl
  have i77 : μ.testBit 77 = true := bit_of hw rfl
  have i78 : μ.testBit 78 = true := bit_of hw rfl
  have i79 : μ.testBit 79 = true := bit_of hw rfl
  have i80 : μ.testBit 80 = true := bit_of hw rfl
  unfold execPowerUp
  repeat' first
    | with_reducible assumption
    | (intro s; with_reducible refine (fun (hs : Kept μ s0 s) => ?_) ?_)
    | intro x
    | lift_lets
    | with_reducible refine kept_powerUp k_powerUp ?_
    | with_reducible refine kept_powerOn k_powerOn ?_
    | (fail_if_no_progress with_reducible refine Kept.mk' ?_  (h_tb := .inr ⟨i0, .inr i1, .inr i2, .inr i3⟩) (h_eth := .inr ⟨i4, .inr i5, .inr i6, .inr i7⟩) (h_ing := .inr ⟨i8, .inr i9, .inr i10⟩) (h_aln := .inr ⟨i11, .inr i12, .inr i13, .inr i14⟩) (h_svf := .inr i15) (h_osc := .inr i16) (h_isl := .inr i17) (h_sch := .inr ⟨i18, .inr i19, .inr i20, .inr i21⟩) (h_cap := .inr ⟨i22, .inr i23, .inr i24, .inr i25⟩) (h_mtr := .inr ⟨i26, .inr i27, .inr i28⟩) (h_tsk := .inr ⟨i29, .inr i30⟩) (h_arb := .inr i31) (h_pub := .inr ⟨i32, .inr i33, .inr i34, .inr i35⟩) (h_cfg := .inr ⟨i36, .inr i37, .inr i38, .inr i39, .inr i40, .inr i41⟩) (h_hp := .inr ⟨i42, .inr i43, .inr i44, .inr i45, .inr i46, .inr i47, .inr i48, .inr i49, .inr i50, .inr i51, .inr i52, .inr i53⟩) (h_pair := .inr ⟨i54, .inr i55, .inr i56, .inr i57⟩) (h_sec := .inr ⟨i58, .inr i59⟩) (h_nv := .inr ⟨i60, .inr i61, .inr i62, .inr i63, sm, sm, sm, sm⟩) (h_vbat := .inr ⟨i68, .inr i69, .inr i70, sm, .inr i72⟩) (h_fuses := .inr i73) (h_pwr := .inr ⟨i74, .inr i75⟩) (h_cnt := .inr i76) (h_limits := .inr i77) (h_evLog := .inr i78) (h_evLogSeq := .inr i79) (h_free := .inr i80))
    | split
    | with_reducible refine KeptOut.mk' ?_
    | dsimp +zetaDelta only

end Sys2Proof.Machine
end

