-- ==== Sys2Proof/Laws/KeptWindows.lean ====
section
/-!
SUPPORT. Sys2Proof/Laws/KeptWindows.lean: every operation of Windows.lean keeps what no command changes, and the parts that it does not write (Kept.lean).
-/
set_option Elab.async false
set_option linter.unusedTactic false
set_option linter.unreachableTactic false
set_option linter.unusedVariables false
namespace Sys2Proof.Machine

theorem kept_putWin {μ : Nat} (hw : 21990232555520 &&& μ = 21990232555520) {s0 : State} {n : Nat} {r : WinRes} {s : State}  (kh : Kept μ s0 s) :
    Kept μ s0 (putWin n r s) := by
  have k_modFn : 4398046511104 &&& μ = 4398046511104 := sub_of hw rfl
  have i42 : μ.testBit 42 = true := bit_of hw rfl
  have i44 : μ.testBit 44 = true := bit_of hw rfl
  unfold putWin
  repeat' first
    | with_reducible assumption
    | (intro s; with_reducible refine (fun (hs : Kept μ s0 s) => ?_) ?_)
    | intro x
    | lift_lets
    | with_reducible refine kept_modFn k_modFn smf (.inr i44) smf smf smf smf smf smf smf smf smf ?_
    | with_reducible refine kept_foldl (fun s x hs => ?_) ?_
    | (fail_if_no_progress with_reducible refine Kept.mk' ?_  (h_hp := .inr ⟨i42, sm, .inr i44, sm, sm, sm, sm, sm, sm, sm, sm, sm⟩))
    | split
    | dsimp +zetaDelta only

theorem kept_windowWrite {μ : Nat} (hw : 30786325577728 &&& μ = 30786325577728) {s0 : State} {n off : Nat} {v : Word} {s : State}  (kh : Kept μ s0 s) :
    Kept μ s0 (windowWrite n off v s) := by
  have k_modFn : 4398046511104 &&& μ = 4398046511104 := sub_of hw rfl
  have k_putWin : 21990232555520 &&& μ = 21990232555520 := sub_of hw rfl
  have k_setFnReg : 13194139533312 &&& μ = 13194139533312 := sub_of hw rfl
  have i42 : μ.testBit 42 = true := bit_of hw rfl
  have i43 : μ.testBit 43 = true := bit_of hw rfl
  have i44 : μ.testBit 44 = true := bit_of hw rfl
  unfold windowWrite
  repeat' first
    | with_reducible assumption
    | (intro s; with_reducible refine (fun (hs : Kept μ s0 s) => ?_) ?_)
    | intro x
    | lift_lets
    | with_reducible refine kept_modFn k_modFn (.inr i43) (.inr i44) smf smf smf smf smf smf smf smf smf ?_
    | with_reducible refine kept_setFnReg k_setFnReg ?_
    | with_reducible refine kept_putWin k_putWin ?_
    | (fail_if_no_progress with_reducible refine Kept.mk' ?_  (h_hp := .inr ⟨i42, .inr i43, .inr i44, sm, sm, sm, sm, sm, sm, sm, sm, sm⟩))
    | split
    | dsimp +zetaDelta only

theorem kept_execWindowIndexWrite {μ : Nat} (hw : 906694364847311322873856 &&& μ = 906694364847311322873856) {s0 : State} {n off : Nat} {v : Word} {s : State}  (kh : Kept μ s0 s) :
    KeptOut μ s0 (execWindowIndexWrite n off v s) := by
  have k_act : 0 &&& μ = 0 := sub_of hw rfl
  have k_deniedInvalid : 906694364829719136829440 &&& μ = 906694364829719136829440 := sub_of hw rfl
  have k_windowWrite : 30786325577728 &&& μ = 30786325577728 := sub_of hw rfl
  unfold execWindowIndexWrite
  repeat' first
    | with_reducible assumption
    | (intro s; with_reducible refine (fun (hs : Kept μ s0 s) => ?_) ?_)
    | intro x
    | lift_lets
    | with_reducible refine kept_act k_act (fun s hs => ?_) ?_
    | with_reducible refine kept_deniedInvalid k_deniedInvalid ?_
    | with_reducible refine kept_windowWrite k_windowWrite ?_
    | split
    | with_reducible refine KeptOut.mk' ?_
    | dsimp +zetaDelta only

end Sys2Proof.Machine
end

