-- ==== Sys2Proof/Laws/KeptRegs.lean ====
section
/-!
SUPPORT. Sys2Proof/Laws/KeptRegs.lean: every operation of Regs.lean keeps what no command changes, and the parts that it does not write (Kept.lean).
-/
set_option Elab.async false
set_option linter.unusedTactic false
set_option linter.unreachableTactic false
set_option linter.unusedVariables false
namespace Sys2Proof.Machine

theorem kept_execRcRegisterRead {μ : Nat} (hw : 21990232555520 &&& μ = 21990232555520) {s0 : State} {n off : Nat} {s : State}  (kh : Kept μ s0 s) :
    KeptOut μ s0 (execRcRegisterRead n off s) := by
  have k_act : 0 &&& μ = 0 := sub_of hw rfl
  have k_modFn : 4398046511104 &&& μ = 4398046511104 := sub_of hw rfl
  have i42 : μ.testBit 42 = true := bit_of hw rfl
  have i44 : μ.testBit 44 = true := bit_of hw rfl
  unfold execRcRegisterRead
  repeat' first
    | with_reducible assumption
    | (intro s; with_reducible refine (fun (hs : Kept μ s0 s) => ?_) ?_)
    | intro x
    | lift_lets
    | with_reducible refine kept_act k_act (fun s hs => ?_) ?_
    | with_reducible refine kept_modFn k_modFn smf (.inr i44) smf smf smf smf smf smf smf smf smf ?_
    | (fail_if_no_progress with_reducible refine Kept.mk' ?_  (h_hp := .inr ⟨i42, sm, .inr i44, sm, sm, sm, sm, sm, sm, sm, sm, sm⟩))
    | split
    | with_reducible refine KeptOut.mk' ?_
    | dsimp +zetaDelta only

theorem kept_execW1cWrite {μ : Nat} (hw : 906694364829719136829440 &&& μ = 906694364829719136829440) {s0 : State} {n off : Nat} {v : Word} {s : State}  (kh : Kept μ s0 s) :
    KeptOut μ s0 (execW1cWrite n off v s) := by
  have k_act : 0 &&& μ = 0 := sub_of hw rfl
  have k_deniedInvalid : 906694364829719136829440 &&& μ = 906694364829719136829440 := sub_of hw rfl
  have k_setFnReg : 13194139533312 &&& μ = 13194139533312 := sub_of hw rfl
  unfold execW1cWrite
  repeat' first
    | with_reducible assumption
    | (intro s; with_reducible refine (fun (hs : Kept μ s0 s) => ?_) ?_)
    | intro x
    | lift_lets
    | with_reducible refine kept_act k_act (fun s hs => ?_) ?_
    | with_reducible refine kept_setFnReg k_setFnReg ?_
    | with_reducible refine kept_deniedInvalid k_deniedInvalid ?_
    | split
    | with_reducible refine KeptOut.mk' ?_
    | dsimp +zetaDelta only

theorem kept_execBadAccess {μ : Nat} (hw : 906694364847311322873856 &&& μ = 906694364847311322873856) {s0 : State} {n : Nat} {read : Bool} {s : State}  (kh : Kept μ s0 s) :
    KeptOut μ s0 (execBadAccess n read s) := by
  have k_act : 0 &&& μ = 0 := sub_of hw rfl
  have k_countFn : 906694364829719136829440 &&& μ = 906694364829719136829440 := sub_of hw rfl
  have k_hifFlag : 83562883710976 &&& μ = 83562883710976 := sub_of hw rfl
  have k_modFn : 4398046511104 &&& μ = 4398046511104 := sub_of hw rfl
  have i42 : μ.testBit 42 = true := bit_of hw rfl
  have i43 : μ.testBit 43 = true := bit_of hw rfl
  have i44 : μ.testBit 44 = true := bit_of hw rfl
  have i45 : μ.testBit 45 = true := bit_of hw rfl
  have i46 : μ.testBit 46 = true := bit_of hw rfl
  have i78 : μ.testBit 78 = true := bit_of hw rfl
  have i79 : μ.testBit 79 = true := bit_of hw rfl
  unfold execBadAccess
  repeat' first
    | with_reducible assumption
    | (intro s; with_reducible refine (fun (hs : Kept μ s0 s) => ?_) ?_)
    | intro x
    | lift_lets
    | with_reducible refine kept_act k_act (fun s hs => ?_) ?_
    | with_reducible refine kept_modFn k_modFn (.inr i43) (.inr i44) (.inr i45) (.inr i46) smf smf smf smf smf smf smf ?_
    | with_reducible refine kept_countFn k_countFn ?_
    | with_reducible refine kept_hifFlag k_hifFlag ?_
    | (fail_if_no_progress with_reducible refine Kept.mk' ?_  (h_hp := .inr ⟨i42, .inr i43, .inr i44, .inr i45, .inr i46, sm, sm, sm, sm, sm, sm, sm⟩) (h_evLog := .inr i78) (h_evLogSeq := .inr i79))
    | split
    | with_reducible refine KeptOut.mk' ?_
    | dsimp +zetaDelta only

end Sys2Proof.Machine
end

