-- ==== Sys2Proof/Laws/KeptRegWrite.lean ====
section
/-!
SUPPORT. Sys2Proof/Laws/KeptRegWrite.lean: every operation of RegWrite.lean keeps what no command changes, and the parts that it does not write (Kept.lean).
-/
set_option Elab.async false
set_option linter.unusedTactic false
set_option linter.unreachableTactic false
set_option linter.unusedVariables false
namespace Sys2Proof.Machine

theorem kept_startEvents {μ : Nat} (hw : 906694364926476160073728 &&& μ = 906694364926476160073728) {s0 : State} {n : Nat} {s : State}  (kh : Kept μ s0 s) :
    Kept μ s0 (startEvents n s) := by
  have k_modFn : 4398046511104 &&& μ = 4398046511104 := sub_of hw rfl
  have k_raise : 906694364785738671718400 &&& μ = 906694364785738671718400 := sub_of hw rfl
  have i42 : μ.testBit 42 = true := bit_of hw rfl
  have i46 : μ.testBit 46 = true := bit_of hw rfl
  have i47 : μ.testBit 47 = true := bit_of hw rfl
  have i78 : μ.testBit 78 = true := bit_of hw rfl
  have i79 : μ.testBit 79 = true := bit_of hw rfl
  unfold startEvents
  repeat' first
    | with_reducible assumption
    | (intro s; with_reducible refine (fun (hs : Kept μ s0 s) => ?_) ?_)
    | intro x
    | lift_lets
    | with_reducible refine kept_modFn k_modFn smf smf smf (.inr i46) (.inr i47) smf smf smf smf smf smf ?_
    | with_reducible refine kept_raise k_raise ?_
    | with_reducible refine kept_foldl (fun s x hs => ?_) ?_
    | (fail_if_no_progress with_reducible refine Kept.mk' ?_  (h_hp := .inr ⟨i42, sm, sm, sm, .inr i46, .inr i47, sm, sm, sm, sm, sm, sm⟩) (h_evLog := .inr i78) (h_evLogSeq := .inr i79))
    | split
    | dsimp +zetaDelta only

theorem kept_ringStart {μ : Nat} (hw : 906694367468547043491840 &&& μ = 906694367468547043491840) {s0 : State} {n o idx : Nat} {s : State}  (kh : Kept μ s0 s) :
    Kept μ s0 (ringStart n o idx s) := by
  have k_modFn : 4398046511104 &&& μ = 4398046511104 := sub_of hw rfl
  have k_setHif : 13194139533312 &&& μ = 13194139533312 := sub_of hw rfl
  have k_startEvents : 906694364926476160073728 &&& μ = 906694364926476160073728 := sub_of hw rfl
  have i42 : μ.testBit 42 = true := bit_of hw rfl
  have i43 : μ.testBit 43 = true := bit_of hw rfl
  have i46 : μ.testBit 46 = true := bit_of hw rfl
  have i47 : μ.testBit 47 = true := bit_of hw rfl
  have i48 : μ.testBit 48 = true := bit_of hw rfl
  have i51 : μ.testBit 51 = true := bit_of hw rfl
  have i78 : μ.testBit 78 = true := bit_of hw rfl
  have i79 : μ.testBit 79 = true := bit_of hw rfl
  unfold ringStart
  repeat' first
    | with_reducible assumption
    | (intro s; with_reducible refine (fun (hs : Kept μ s0 s) => ?_) ?_)
    | intro x
    | lift_lets
    | with_reducible refine kept_modFn k_modFn (.inr i43) smf smf (.inr i46) (.inr i47) (.inr i48) smf smf (.inr i51) smf smf ?_
    | with_reducible refine kept_setHif k_setHif ?_
    | with_reducible refine kept_startEvents k_startEvents ?_
    | (fail_if_no_progress with_reducible refine Kept.mk' ?_  (h_hp := .inr ⟨i42, .inr i43, sm, sm, .inr i46, .inr i47, .inr i48, sm, sm, .inr i51, sm, sm⟩) (h_evLog := .inr i78) (h_evLogSeq := .inr i79))
    | split
    | dsimp +zetaDelta only

theorem kept_writeRingCfg {μ : Nat} (hw : 906694367468547043491840 &&& μ = 906694367468547043491840) {s0 : State} {n o idx : Nat} {fs : List RwField} {v : Word} {s : State}  (kh : Kept μ s0 s) :
    Kept μ s0 (writeRingCfg n o idx fs v s) := by
  have k_ringStart : 906694367468547043491840 &&& μ = 906694367468547043491840 := sub_of hw rfl
  have k_setFnReg : 13194139533312 &&& μ = 13194139533312 := sub_of hw rfl
  unfold writeRingCfg
  repeat' first
    | with_reducible assumption
    | (intro s; with_reducible refine (fun (hs : Kept μ s0 s) => ?_) ?_)
    | intro x
    | lift_lets
    | with_reducible refine kept_setFnReg k_setFnReg ?_
    | with_reducible refine kept_ringStart k_ringStart ?_
    | split
    | dsimp +zetaDelta only

theorem kept_writeHif {μ : Nat} (hw : 906694367468547043491840 &&& μ = 906694367468547043491840) {s0 : State} {n o : Nat} {v : Word} {s : State}  (kh : Kept μ s0 s) :
    Kept μ s0 (writeHif n o v s) := by
  have k_setFnReg : 13194139533312 &&& μ = 13194139533312 := sub_of hw rfl
  have k_writeRingCfg : 906694367468547043491840 &&& μ = 906694367468547043491840 := sub_of hw rfl
  have i42 : μ.testBit 42 = true := bit_of hw rfl
  have i43 : μ.testBit 43 = true := bit_of hw rfl
  have i46 : μ.testBit 46 = true := bit_of hw rfl
  have i47 : μ.testBit 47 = true := bit_of hw rfl
  have i48 : μ.testBit 48 = true := bit_of hw rfl
  have i51 : μ.testBit 51 = true := bit_of hw rfl
  have i78 : μ.testBit 78 = true := bit_of hw rfl
  have i79 : μ.testBit 79 = true := bit_of hw rfl
  unfold writeHif
  repeat' first
    | with_reducible assumption
    | (intro s; with_reducible refine (fun (hs : Kept μ s0 s) => ?_) ?_)
    | intro x
    | lift_lets
    | with_reducible refine kept_setFnReg k_setFnReg ?_
    | with_reducible refine kept_writeRingCfg k_writeRingCfg ?_
    | (fail_if_no_progress with_reducible refine Kept.mk' ?_  (h_hp := .inr ⟨i42, .inr i43, sm, sm, .inr i46, .inr i47, .inr i48, sm, sm, .inr i51, sm, sm⟩) (h_evLog := .inr i78) (h_evLogSeq := .inr i79))
    | split
    | dsimp +zetaDelta only

theorem kept_unusedOp {μ : Nat} (hw : 906694364829719136829440 &&& μ = 906694364829719136829440) {s0 : State} {n off : Nat} {v : Word} {s : State}  (kh : Kept μ s0 s) :
    Kept μ s0 (unusedOp n off v s) := by
  have k_capCtrl : 906694364829719136829440 &&& μ = 906694364829719136829440 := sub_of hw rfl
  have k_capRefuse : 906694364785738671718400 &&& μ = 906694364785738671718400 := sub_of hw rfl
  have k_cfgRefuse : 906694364785738671718400 &&& μ = 906694364785738671718400 := sub_of hw rfl
  have k_deniedInvalid : 906694364829719136829440 &&& μ = 906694364829719136829440 := sub_of hw rfl
  have k_tskCtrl : 906694364829719136829440 &&& μ = 906694364829719136829440 := sub_of hw rfl
  have k_tskRefuse : 906694364794534764740608 &&& μ = 906694364794534764740608 := sub_of hw rfl
  unfold unusedOp
  repeat' first
    | with_reducible assumption
    | (intro s; with_reducible refine (fun (hs : Kept μ s0 s) => ?_) ?_)
    | intro x
    | lift_lets
    | with_reducible refine kept_deniedInvalid k_deniedInvalid ?_
    | with_reducible refine kept_capRefuse k_capRefuse ?_
    | with_reducible refine kept_capCtrl k_capCtrl (fun s hs => ?_) ?_
    | with_reducible refine kept_cfgRefuse k_cfgRefuse ?_
    | with_reducible refine kept_tskRefuse k_tskRefuse ?_
    | with_reducible refine kept_tskCtrl k_tskCtrl (fun s hs => ?_) ?_
    | split
    | dsimp +zetaDelta only

theorem kept_writeReg {μ : Nat} (hw : 906694364829719203938304 &&& μ = 906694364829719203938304) {s0 : State} {n off : Nat} {v : Word} {s : State}  (kh : Kept μ s0 s) :
    Kept μ s0 (writeReg n off v s) := by
  have k_mtrRefuse : 906694364785738671718400 &&& μ = 906694364785738671718400 := sub_of hw rfl
  have k_setFnReg : 13194139533312 &&& μ = 13194139533312 := sub_of hw rfl
  have k_unusedOp : 906694364829719136829440 &&& μ = 906694364829719136829440 := sub_of hw rfl
  have i26 : μ.testBit 26 = true := bit_of hw rfl
  have i42 : μ.testBit 42 = true := bit_of hw rfl
  have i43 : μ.testBit 43 = true := bit_of hw rfl
  have i45 : μ.testBit 45 = true := bit_of hw rfl
  have i46 : μ.testBit 46 = true := bit_of hw rfl
  have i78 : μ.testBit 78 = true := bit_of hw rfl
  have i79 : μ.testBit 79 = true := bit_of hw rfl
  unfold writeReg
  repeat' first
    | with_reducible assumption
    | (intro s; with_reducible refine (fun (hs : Kept μ s0 s) => ?_) ?_)
    | intro x
    | lift_lets
    | with_reducible refine kept_setFnReg k_setFnReg ?_
    | with_reducible refine kept_mtrRefuse k_mtrRefuse ?_
    | with_reducible refine kept_unusedOp k_unusedOp ?_
    | (fail_if_no_progress with_reducible refine Kept.mk' ?_  (h_mtr := .inr ⟨i26, sm, sm⟩) (h_hp := .inr ⟨i42, .inr i43, sm, .inr i45, .inr i46, sm, sm, sm, sm, sm, sm, sm⟩) (h_evLog := .inr i78) (h_evLogSeq := .inr i79))
    | split
    | dsimp +zetaDelta only

theorem kept_execRegisterWrite {μ : Nat} (hw : 906694367503731482689536 &&& μ = 906694367503731482689536) {s0 : State} {n off : Nat} {v : Word} {s : State}  (kh : Kept μ s0 s) :
    KeptOut μ s0 (execRegisterWrite n off v s) := by
  have k_act : 0 &&& μ = 0 := sub_of hw rfl
  have k_deniedInvalid : 906694364829719136829440 &&& μ = 906694364829719136829440 := sub_of hw rfl
  have k_writeHif : 906694367468547043491840 &&& μ = 906694367468547043491840 := sub_of hw rfl
  have k_writeReg : 906694364829719203938304 &&& μ = 906694364829719203938304 := sub_of hw rfl
  unfold execRegisterWrite
  repeat' first
    | with_reducible assumption
    | (intro s; with_reducible refine (fun (hs : Kept μ s0 s) => ?_) ?_)
    | intro x
    | lift_lets
    | with_reducible refine kept_act k_act (fun s hs => ?_) ?_
    | with_reducible refine kept_deniedInvalid k_deniedInvalid ?_
    | with_reducible refine kept_writeHif k_writeHif ?_
    | with_reducible refine kept_writeReg k_writeReg ?_
    | split
    | with_reducible refine KeptOut.mk' ?_
    | dsimp +zetaDelta only

end Sys2Proof.Machine
end

