-- ==== Sys2Proof/Laws/KeptPower.lean ====
section
/-!
SUPPORT. Sys2Proof/Laws/KeptPower.lean: every operation of Power.lean keeps what no command changes, and the parts that it does not write (Kept.lean).
-/
set_option Elab.async false
set_option linter.unusedTactic false
set_option linter.unreachableTactic false
set_option linter.unusedVariables false
namespace Sys2Proof.Machine

theorem kept_stopOutputs {μ : Nat} (hw : 982252228520488078409776 &&& μ = 982252228520488078409776) {s0 : State} {s : State}  (kh : Kept μ s0 s) :
    Kept μ s0 (stopOutputs s) := by
  have k_releaseDo : 982252228520487742865408 &&& μ = 982252228520487742865408 := sub_of hw rfl
  have i4 : μ.testBit 4 = true := bit_of hw rfl
  have i5 : μ.testBit 5 = true := bit_of hw rfl
  have i26 : μ.testBit 26 = true := bit_of hw rfl
  have i28 : μ.testBit 28 = true := bit_of hw rfl
  have i32 : μ.testBit 32 = true := bit_of hw rfl
  have i35 : μ.testBit 35 = true := bit_of hw rfl
  have i42 : μ.testBit 42 = true := bit_of hw rfl
  have i43 : μ.testBit 43 = true := bit_of hw rfl
  have i46 : μ.testBit 46 = true := bit_of hw rfl
  have i76 : μ.testBit 76 = true := bit_of hw rfl
  have i78 : μ.testBit 78 = true := bit_of hw rfl
  have i79 : μ.testBit 79 = true := bit_of hw rfl
  unfold stopOutputs
  repeat' first
    | with_reducible assumption
    | (intro s; with_reducible refine (fun (hs : Kept μ s0 s) => ?_) ?_)
    | intro x
    | lift_lets
    | with_reducible refine kept_releaseDo k_releaseDo ?_
    | with_reducible refine kept_foldl (fun s x hs => ?_) ?_
    | (fail_if_no_progress with_reducible refine Kept.mk' ?_  (h_eth := .inr ⟨i4, .inr i5, sm, sm⟩) (h_mtr := .inr ⟨i26, sm, .inr i28⟩) (h_pub := .inr ⟨i32, sm, sm, .inr i35⟩) (h_hp := .inr ⟨i42, .inr i43, sm, sm, .inr i46, sm, sm, sm, sm, sm, sm, sm⟩) (h_cnt := .inr i76) (h_evLog := .inr i78) (h_evLogSeq := .inr i79))
    | split
    | dsimp +zetaDelta only

theorem kept_shed {μ : Nat} (hw : 2342617748781540371857457 &&& μ = 2342617748781540371857457) {s0 : State} {ns : Nat} {s : State}  (kh : Kept μ s0 s) :
    Kept μ s0 (shed ns s) := by
  have k_mtrSupplyLoss : 2342322600876322364325888 &&& μ = 2342322600876322364325888 := sub_of hw rfl
  have k_seen : 1 &&& μ = 1 := sub_of hw rfl
  have k_stopOutputs : 982252228520488078409776 &&& μ = 982252228520488078409776 := sub_of hw rfl
  have i0 : μ.testBit 0 = true := bit_of hw rfl
  have i4 : μ.testBit 4 = true := bit_of hw rfl
  have i5 : μ.testBit 5 = true := bit_of hw rfl
  have i26 : μ.testBit 26 = true := bit_of hw rfl
  have i27 : μ.testBit 27 = true := bit_of hw rfl
  have i28 : μ.testBit 28 = true := bit_of hw rfl
  have i32 : μ.testBit 32 = true := bit_of hw rfl
  have i35 : μ.testBit 35 = true := bit_of hw rfl
  have i42 : μ.testBit 42 = true := bit_of hw rfl
  have i43 : μ.testBit 43 = true := bit_of hw rfl
  have i46 : μ.testBit 46 = true := bit_of hw rfl
  have i51 : μ.testBit 51 = true := bit_of hw rfl
  have i60 : μ.testBit 60 = true := bit_of hw rfl
  have i63 : μ.testBit 63 = true := bit_of hw rfl
  have i64 : μ.testBit 64 = true := bit_of hw rfl
  have i68 : μ.testBit 68 = true := bit_of hw rfl
  have i76 : μ.testBit 76 = true := bit_of hw rfl
  have i77 : μ.testBit 77 = true := bit_of hw rfl
  have i78 : μ.testBit 78 = true := bit_of hw rfl
  have i79 : μ.testBit 79 = true := bit_of hw rfl
  have i80 : μ.testBit 80 = true := bit_of hw rfl
  unfold shed
  repeat' first
    | with_reducible assumption
    | (intro s; with_reducible refine (fun (hs : Kept μ s0 s) => ?_) ?_)
    | intro x
    | lift_lets
    | with_reducible refine kept_seen k_seen ?_
    | with_reducible refine kept_mtrSupplyLoss k_mtrSupplyLoss ?_
    | with_reducible refine kept_stopOutputs k_stopOutputs ?_
    | (fail_if_no_progress with_reducible refine Kept.mk' ?_  (h_tb := .inr ⟨i0, sm, sm, sm⟩) (h_eth := .inr ⟨i4, .inr i5, sm, sm⟩) (h_mtr := .inr ⟨i26, .inr i27, .inr i28⟩) (h_pub := .inr ⟨i32, sm, sm, .inr i35⟩) (h_hp := .inr ⟨i42, .inr i43, sm, sm, .inr i46, sm, sm, sm, sm, .inr i51, sm, sm⟩) (h_nv := .inr ⟨i60, sm, sm, .inr i63, .inr i64, sm, sm, sm⟩) (h_vbat := .inr ⟨i68, sm, sm, sm, sm⟩) (h_cnt := .inr i76) (h_limits := .inr i77) (h_evLog := .inr i78) (h_evLogSeq := .inr i79) (h_free := .inr i80))
    | split
    | dsimp +zetaDelta only

theorem kept_pfailed {μ : Nat} (hw : 2399286146575976114421809 &&& μ = 2399286146575976114421809) {s0 : State} {s : State}  (kh : Kept μ s0 s) :
    Kept μ s0 (pfailed s) := by
  have k_modPwr : 18889465931478580854784 &&& μ = 18889465931478580854784 := sub_of hw rfl
  have k_pwrHalf : 906694364794534764740608 &&& μ = 906694364794534764740608 := sub_of hw rfl
  have k_shed : 2342617748781540371857457 &&& μ = 2342617748781540371857457 := sub_of hw rfl
  have i0 : μ.testBit 0 = true := bit_of hw rfl
  have i4 : μ.testBit 4 = true := bit_of hw rfl
  have i5 : μ.testBit 5 = true := bit_of hw rfl
  have i26 : μ.testBit 26 = true := bit_of hw rfl
  have i27 : μ.testBit 27 = true := bit_of hw rfl
  have i28 : μ.testBit 28 = true := bit_of hw rfl
  have i32 : μ.testBit 32 = true := bit_of hw rfl
  have i35 : μ.testBit 35 = true := bit_of hw rfl
  have i42 : μ.testBit 42 = true := bit_of hw rfl
  have i43 : μ.testBit 43 = true := bit_of hw rfl
  have i46 : μ.testBit 46 = true := bit_of hw rfl
  have i51 : μ.testBit 51 = true := bit_of hw rfl
  have i60 : μ.testBit 60 = true := bit_of hw rfl
  have i63 : μ.testBit 63 = true := bit_of hw rfl
  have i64 : μ.testBit 64 = true := bit_of hw rfl
  have i68 : μ.testBit 68 = true := bit_of hw rfl
  have i74 : μ.testBit 74 = true := bit_of hw rfl
  have i75 : μ.testBit 75 = true := bit_of hw rfl
  have i76 : μ.testBit 76 = true := bit_of hw rfl
  have i77 : μ.testBit 77 = true := bit_of hw rfl
  have i78 : μ.testBit 78 = true := bit_of hw rfl
  have i79 : μ.testBit 79 = true := bit_of hw rfl
  have i80 : μ.testBit 80 = true := bit_of hw rfl
  unfold pfailed
  repeat' first
    | with_reducible assumption
    | (intro s; with_reducible refine (fun (hs : Kept μ s0 s) => ?_) ?_)
    | intro x
    | lift_lets
    | with_reducible refine kept_modPwr k_modPwr (.inr i75) ?_
    | with_reducible refine kept_pwrHalf k_pwrHalf ?_
    | with_reducible refine kept_shed k_shed ?_
    | (fail_if_no_progress with_reducible refine Kept.mk' ?_  (h_tb := .inr ⟨i0, sm, sm, sm⟩) (h_eth := .inr ⟨i4, .inr i5, sm, sm⟩) (h_mtr := .inr ⟨i26, .inr i27, .inr i28⟩) (h_pub := .inr ⟨i32, sm, sm, .inr i35⟩) (h_hp := .inr ⟨i42, .inr i43, sm, sm, .inr i46, sm, sm, sm, sm, .inr i51, sm, sm⟩) (h_nv := .inr ⟨i60, sm, sm, .inr i63, .inr i64, sm, sm, sm⟩) (h_vbat := .inr ⟨i68, sm, sm, sm, sm⟩) (h_pwr := .inr ⟨i74, .inr i75⟩) (h_cnt := .inr i76) (h_limits := .inr i77) (h_evLog := .inr i78) (h_evLogSeq := .inr i79) (h_free := .inr i80))
    | split
    | dsimp +zetaDelta only

theorem kept_execPfailWarning {μ : Nat} (hw : 2399286146575976114421809 &&& μ = 2399286146575976114421809) {s0 : State} {ns : Nat} {ext : Bool} {s : State}  (kh : Kept μ s0 s) :
    KeptOut μ s0 (execPfailWarning ns ext s) := by
  have k_modPwr : 18889465931478580854784 &&& μ = 18889465931478580854784 := sub_of hw rfl
  have k_pfailed : 2399286146575976114421809 &&& μ = 2399286146575976114421809 := sub_of hw rfl
  have k_shed : 2342617748781540371857457 &&& μ = 2342617748781540371857457 := sub_of hw rfl
  have i0 : μ.testBit 0 = true := bit_of hw rfl
  have i4 : μ.testBit 4 = true := bit_of hw rfl
  have i5 : μ.testBit 5 = true := bit_of hw rfl
  have i26 : μ.testBit 26 = true := bit_of hw rfl
  have i27 : μ.testBit 27 = true := bit_of hw rfl
  have i28 : μ.testBit 28 = true := bit_of hw rfl
  have i32 : μ.testBit 32 = true := bit_of hw rfl
  have i35 : μ.testBit 35 = true := bit_of hw rfl
  have i42 : μ.testBit 42 = true := bit_of hw rfl
  have i43 : μ.testBit 43 = true := bit_of hw rfl
  have i46 : μ.testBit 46 = true := bit_of hw rfl
  have i51 : μ.testBit 51 = true := bit_of hw rfl
  have i60 : μ.testBit 60 = true := bit_of hw rfl
  have i63 : μ.testBit 63 = true := bit_of hw rfl
  have i64 : μ.testBit 64 = true := bit_of hw rfl
  have i68 : μ.testBit 68 = true := bit_of hw rfl
  have i74 : μ.testBit 74 = true := bit_of hw rfl
  have i75 : μ.testBit 75 = true := bit_of hw rfl
  have i76 : μ.testBit 76 = true := bit_of hw rfl
  have i77 : μ.testBit 77 = true := bit_of hw rfl
  have i78 : μ.testBit 78 = true := bit_of hw rfl
  have i79 : μ.testBit 79 = true := bit_of hw rfl
  have i80 : μ.testBit 80 = true := bit_of hw rfl
  unfold execPfailWarning
  repeat' first
    | with_reducible assumption
    | (intro s; with_reducible refine (fun (hs : Kept μ s0 s) => ?_) ?_)
    | intro x
    | lift_lets
    | with_reducible refine kept_modPwr k_modPwr (.inr i75) ?_
    | with_reducible refine kept_shed k_shed ?_
    | with_reducible refine kept_pfailed k_pfailed ?_
    | (fail_if_no_progress with_reducible refine Kept.mk' ?_  (h_tb := .inr ⟨i0, sm, sm, sm⟩) (h_eth := .inr ⟨i4, .inr i5, sm, sm⟩) (h_mtr := .inr ⟨i26, .inr i27, .inr i28⟩) (h_pub := .inr ⟨i32, sm, sm, .inr i35⟩) (h_hp := .inr ⟨i42, .inr i43, sm, sm, .inr i46, sm, sm, sm, sm, .inr i51, sm, sm⟩) (h_nv := .inr ⟨i60, sm, sm, .inr i63, .inr i64, sm, sm, sm⟩) (h_vbat := .inr ⟨i68, sm, sm, sm, sm⟩) (h_pwr := .inr ⟨i74, .inr i75⟩) (h_cnt := .inr i76) (h_limits := .inr i77) (h_evLog := .inr i78) (h_evLogSeq := .inr i79) (h_free := .inr i80))
    | split
    | with_reducible refine KeptOut.mk' ?_
    | dsimp +zetaDelta only

theorem kept_execPfailRecover {μ : Nat} (hw : 2399287297162078899404799 &&& μ = 2399287297162078899404799) {s0 : State} {mv : Nat} {s : State}  (kh : Kept μ s0 s) :
    KeptOut μ s0 (execPfailRecover mv s) := by
  have k_modPwr : 18889465931478580854784 &&& μ = 18889465931478580854784 := sub_of hw rfl
  have k_shed : 2342617748781540371857457 &&& μ = 2342617748781540371857457 := sub_of hw rfl
  have k_startReset : 2399259627045968335077375 &&& μ = 2399259627045968335077375 := sub_of hw rfl
  have i0 : μ.testBit 0 = true := bit_of hw rfl
  have i1 : μ.testBit 1 = true := bit_of hw rfl
  have i2 : μ.testBit 2 = true := bit_of hw rfl
  have i3 : μ.testBit 3 = true := bit_of hw rfl
  have i4 : μ.testBit 4 = true := bit_of hw rfl
  have i5 : μ.testBit 5 = true := bit_of hw rfl
  have i6 : μ.testBit 6 = true := bit_of hw rfl
  have i7 : μ.testBit 7 = true := bit_of hw rfl
  have i8 : μ.testBit 8 = true := bit_of hw rfl
  have i9 : μ.testBit 9 = true := bit_of hw rfl
  have i10 : μ.testBit 10 = true := bit_of hw rfl
  have i11 : μ.testBit 11 = true := bit_of hw rfl
  have i12 : μ.testBit 12 = true := bit_of hw rfl
  have i13 : μ.testBit 13 = true := bit_of hw rfl
  have i14 : μ.testBit 14 = true := bit_of hw rfl
  have i15 : μ.testBit 15 = true := bit_of hw rfl
  have i16 : μ.testBit 16 = true := bit_of hw rfl
  have i17 : μ.testBit 17 = true := bit_of hw rfl
  have i18 : μ.testBit 18 = true := bit_of hw rfl
  have i19 : μ.testBit 19 = true := bit_of hw rfl
  have i20 : μ.testBit 20 = true := bit_of hw rfl
  have i21 : μ.testBit 21 = true := bit_of hw rfl
  have i22 : μ.testBit 22 = true := bit_of hw rfl
  have i23 : μ.testBit 23 = true := bit_of hw rfl
  have i24 : μ.testBit 24 = true := bit_of hw rfl
  have i25 : μ.testBit 25 = true := bit_of hw rfl
  have i26 : μ.testBit 26 = true := bit_of hw rfl
  have i27 : μ.testBit 27 = true := bit_of hw rfl
  have i28 : μ.testBit 28 = true := bit_of hw rfl
  have i29 : μ.testBit 29 = true := bit_of hw rfl
  have i30 : μ.testBit 30 = true := bit_of hw rfl
  have i31 : μ.testBit 31 = true := bit_of hw rfl
  have i32 : μ.testBit 32 = true := bit_of hw rfl
  have i33 : μ.testBit 33 = true := bit_of hw rfl
  have i34 : μ.testBit 34 = true := bit_of hw rfl
  have i35 : μ.testBit 35 = true := bit_of hw rfl
  have i36 : μ.testBit 36 = true := bit_of hw rfl
  have i37 : μ.testBit 37 = true := bit_of hw rfl
  have i38 : μ.testBit 38 = true := bit_of hw rfl
  have i39 : μ.testBit 39 = true := bit_of hw rfl
  have i40 : μ.testBit 40 = true := bit_of hw rfl
  have i41 : μ.testBit 41 = true := bit_of hw rfl
  have i42 : μ.testBit 42 = true := bit_of hw rfl
  have i43 : μ.testBit 43 = true := bit_of hw rfl
  have i44 : μ.testBit 44 = true := bit_of hw rfl
  have i45 : μ.testBit 45 = true := bit_of hw rfl
  have i46 : μ.testBit 46 = true := bit_of hw rfl
  have i47 : μ.testBit 47 = true := bit_of hw rfl
  have i48 : μ.testBit 48 = true := bit_of hw rfl
  have i49 : μ.testBit 49 = true := bit_of hw rfl
  have i50 : μ.testBit 50 = true := bit_of hw rfl
  have i51 : μ.testBit 51 = true := bit_of hw rfl
  have i52 : μ.testBit 52 = true := bit_of hw rfl
  have i53 : μ.testBit 53 = true := bit_of hw rfl
  have i54 : μ.testBit 54 = true := bit_of hw rfl
  have i55 : μ.testBit 55 = true := bit_of hw rfl
  have i56 : μ.testBit 56 = true := bit_of hw rfl
  have i57 : μ.testBit 57 = true := bit_of hw rfl
  have i58 : μ.testBit 58 = true := bit_of hw rfl
  have i59 : μ.testBit 59 = true := bit_of hw rfl
  have i60 : μ.testBit 60 = true := bit_of hw rfl
  have i63 : μ.testBit 63 = true := bit_of hw rfl
  have i64 : μ.testBit 64 = true := bit_of hw rfl
  have i68 : μ.testBit 68 = true := bit_of hw rfl
  have i74 : μ.testBit 74 = true := bit_of hw rfl
  have i75 : μ.testBit 75 = true := bit_of hw rfl
  have i76 : μ.testBit 76 = true := bit_of hw rfl
  have i77 : μ.testBit 77 = true := bit_of hw rfl
  have i78 : μ.testBit 78 = true := bit_of hw rfl
  have i79 : μ.testBit 79 = true := bit_of hw rfl
  have i80 : μ.testBit 80 = true := bit_of hw rfl
  unfold execPfailRecover
  repeat' first
    | with_reducible assumption
    | (intro s; with_reducible refine (fun (hs : Kept μ s0 s) => ?_) ?_)
    | intro x
    | lift_lets
    | with_reducible refine kept_modPwr k_modPwr (.inr i75) ?_
    | with_reducible refine kept_startReset k_startReset ?_
    | with_reducible refine kept_shed k_shed ?_
    | (fail_if_no_progress with_reducible refine Kept.mk' ?_  (h_tb := .inr ⟨i0, .inr i1, .inr i2, .inr i3⟩) (h_eth := .inr ⟨i4, .inr i5, .inr i6, .inr i7⟩) (h_ing := .inr ⟨i8, .inr i9, .inr i10⟩) (h_aln := .inr ⟨i11, .inr i12, .inr i13, .inr i14⟩) (h_svf := .inr i15) (h_osc := .inr i16) (h_isl := .inr i17) (h_sch := .inr ⟨i18, .inr i19, .inr i20, .inr i21⟩) (h_cap := .inr ⟨i22, .inr i23, .inr i24, .inr i25⟩) (h_mtr := .inr ⟨i26, .inr i27, .inr i28⟩) (h_tsk := .inr ⟨i29, .inr i30⟩) (h_arb := .inr i31) (h_pub := .inr ⟨i32, .inr i33, .inr i34, .inr i35⟩) (h_cfg := .inr ⟨i36, .inr i37, .inr i38, .inr i39, .inr i40, .inr i41⟩) (h_hp := .inr ⟨i42, .inr i43, .inr i44, .inr i45, .inr i46, .inr i47, .inr i48, .inr i49, .inr i50, .inr i51, .inr i52, .inr i53⟩) (h_pair := .inr ⟨i54, .inr i55, .inr i56, .inr i57⟩) (h_sec := .inr ⟨i58, .inr i59⟩) (h_nv := .inr ⟨i60, sm, sm, .inr i63, .inr i64, sm, sm, sm⟩) (h_vbat := .inr ⟨i68, sm, sm, sm, sm⟩) (h_pwr := .inr ⟨i74, .inr i75⟩) (h_cnt := .inr i76) (h_limits := .inr i77) (h_evLog := .inr i78) (h_evLogSeq := .inr i79) (h_free := .inr i80))
    | split
    | with_reducible refine KeptOut.mk' ?_
    | dsimp +zetaDelta only

theorem kept_vbatGone {μ : Nat} (hw : 9149585060559937601536 &&& μ = 9149585060559937601536) {s0 : State} {s : State}  (kh : Kept μ s0 s) :
    Kept μ s0 (vbatGone s) := by
  have i68 : μ.testBit 68 = true := bit_of hw rfl
  have i69 : μ.testBit 69 = true := bit_of hw rfl
  have i70 : μ.testBit 70 = true := bit_of hw rfl
  have i71 : μ.testBit 71 = true := bit_of hw rfl
  have i72 : μ.testBit 72 = true := bit_of hw rfl
  exact ⟨kh.pending, kh.part, kh.hp, kh.push, kh.tick, kh.svn, kh.bill, kh.ctr, kh.ctr64, kh.evl, fun _ => Nat.zero_le _, kh.fr.mk' (h_vbat := .inr ⟨i68, .inr i69, .inr i70, .inr i71, .inr i72⟩)⟩

theorem kept_supplyGone {μ : Nat} (hw : 1048070211375483758575664 &&& μ = 1048070211375483758575664) {s0 : State} {s : State}  (kh : Kept μ s0 s) :
    Kept μ s0 (supplyGone s) := by
  have k_modPwr : 18889465931478580854784 &&& μ = 18889465931478580854784 := sub_of hw rfl
  have k_stopOutputs : 982252228520488078409776 &&& μ = 982252228520488078409776 := sub_of hw rfl
  have k_vbatGone : 9149585060559937601536 &&& μ = 9149585060559937601536 := sub_of hw rfl
  have i4 : μ.testBit 4 = true := bit_of hw rfl
  have i5 : μ.testBit 5 = true := bit_of hw rfl
  have i26 : μ.testBit 26 = true := bit_of hw rfl
  have i28 : μ.testBit 28 = true := bit_of hw rfl
  have i32 : μ.testBit 32 = true := bit_of hw rfl
  have i35 : μ.testBit 35 = true := bit_of hw rfl
  have i42 : μ.testBit 42 = true := bit_of hw rfl
  have i43 : μ.testBit 43 = true := bit_of hw rfl
  have i46 : μ.testBit 46 = true := bit_of hw rfl
  have i68 : μ.testBit 68 = true := bit_of hw rfl
  have i69 : μ.testBit 69 = true := bit_of hw rfl
  have i70 : μ.testBit 70 = true := bit_of hw rfl
  have i71 : μ.testBit 71 = true := bit_of hw rfl
  have i72 : μ.testBit 72 = true := bit_of hw rfl
  have i74 : μ.testBit 74 = true := bit_of hw rfl
  have i75 : μ.testBit 75 = true := bit_of hw rfl
  have i76 : μ.testBit 76 = true := bit_of hw rfl
  have i78 : μ.testBit 78 = true := bit_of hw rfl
  have i79 : μ.testBit 79 = true := bit_of hw rfl
  unfold supplyGone
  repeat' first
    | with_reducible assumption
    | (intro s; with_reducible refine (fun (hs : Kept μ s0 s) => ?_) ?_)
    | intro x
    | lift_lets
    | with_reducible refine kept_modPwr k_modPwr (.inr i75) ?_
    | with_reducible refine kept_stopOutputs k_stopOutputs ?_
    | with_reducible refine kept_vbatGone k_vbatGone ?_
    | (fail_if_no_progress with_reducible refine Kept.mk' ?_  (h_eth := .inr ⟨i4, .inr i5, sm, sm⟩) (h_mtr := .inr ⟨i26, sm, .inr i28⟩) (h_pub := .inr ⟨i32, sm, sm, .inr i35⟩) (h_hp := .inr ⟨i42, .inr i43, sm, sm, .inr i46, sm, sm, sm, sm, sm, sm, sm⟩) (h_vbat := .inr ⟨i68, .inr i69, .inr i70, .inr i71, .inr i72⟩) (h_pwr := .inr ⟨i74, .inr i75⟩) (h_cnt := .inr i76) (h_evLog := .inr i78) (h_evLogSeq := .inr i79))
    | split
    | dsimp +zetaDelta only

theorem kept_execUvloFall {μ : Nat} (hw : 1048070211375483758575664 &&& μ = 1048070211375483758575664) {s0 : State} {s : State}  (kh : Kept μ s0 s) :
    KeptOut μ s0 (execUvloFall s) := by
  have k_supplyGone : 1048070211375483758575664 &&& μ = 1048070211375483758575664 := sub_of hw rfl
  have i4 : μ.testBit 4 = true := bit_of hw rfl
  have i5 : μ.testBit 5 = true := bit_of hw rfl
  have i26 : μ.testBit 26 = true := bit_of hw rfl
  have i28 : μ.testBit 28 = true := bit_of hw rfl
  have i32 : μ.testBit 32 = true := bit_of hw rfl
  have i35 : μ.testBit 35 = true := bit_of hw rfl
  have i42 : μ.testBit 42 = true := bit_of hw rfl
  have i43 : μ.testBit 43 = true := bit_of hw rfl
  have i46 : μ.testBit 46 = true := bit_of hw rfl
  have i68 : μ.testBit 68 = true := bit_of hw rfl
  have i69 : μ.testBit 69 = true := bit_of hw rfl
  have i70 : μ.testBit 70 = true := bit_of hw rfl
  have i71 : μ.testBit 71 = true := bit_of hw rfl
  have i72 : μ.testBit 72 = true := bit_of hw rfl
  have i74 : μ.testBit 74 = true := bit_of hw rfl
  have i75 : μ.testBit 75 = true := bit_of hw rfl
  have i76 : μ.testBit 76 = true := bit_of hw rfl
  have i78 : μ.testBit 78 = true := bit_of hw rfl
  have i79 : μ.testBit 79 = true := bit_of hw rfl
  unfold execUvloFall
  repeat' first
    | with_reducible assumption
    | (intro s; with_reducible refine (fun (hs : Kept μ s0 s) => ?_) ?_)
    | intro x
    | lift_lets
    | with_reducible refine kept_supplyGone k_supplyGone ?_
    | (fail_if_no_progress with_reducible refine Kept.mk' ?_  (h_eth := .inr ⟨i4, .inr i5, sm, sm⟩) (h_mtr := .inr ⟨i26, sm, .inr i28⟩) (h_pub := .inr ⟨i32, sm, sm, .inr i35⟩) (h_hp := .inr ⟨i42, .inr i43, sm, sm, .inr i46, sm, sm, sm, sm, sm, sm, sm⟩) (h_vbat := .inr ⟨i68, .inr i69, .inr i70, .inr i71, .inr i72⟩) (h_pwr := .inr ⟨i74, .inr i75⟩) (h_cnt := .inr i76) (h_evLog := .inr i78) (h_evLogSeq := .inr i79))
    | split
    | with_reducible refine KeptOut.mk' ?_
    | dsimp +zetaDelta only

theorem kept_execPfailNHigh {μ : Nat} (hw : 18889465931478580854784 &&& μ = 18889465931478580854784) {s0 : State} {mv : Nat} {s : State}  (kh : Kept μ s0 s) :
    KeptOut μ s0 (execPfailNHigh mv s) := by
  have k_modPwr : 18889465931478580854784 &&& μ = 18889465931478580854784 := sub_of hw rfl
  have i74 : μ.testBit 74 = true := bit_of hw rfl
  unfold execPfailNHigh
  repeat' first
    | with_reducible assumption
    | (intro s; with_reducible refine (fun (hs : Kept μ s0 s) => ?_) ?_)
    | intro x
    | lift_lets
    | with_reducible refine kept_modPwr k_modPwr smf ?_
    | (fail_if_no_progress with_reducible refine Kept.mk' ?_  (h_pwr := .inr ⟨i74, sm⟩))
    | split
    | with_reducible refine KeptOut.mk' ?_
    | dsimp +zetaDelta only

theorem kept_execVbatApplied {μ : Nat} (hw : 56668397794435742564352 &&& μ = 56668397794435742564352) {s0 : State} {s : State}  (kh : Kept μ s0 s) :
    KeptOut μ s0 (execVbatApplied s) := by
  have k_modPwr : 18889465931478580854784 &&& μ = 18889465931478580854784 := sub_of hw rfl
  have i74 : μ.testBit 74 = true := bit_of hw rfl
  have i75 : μ.testBit 75 = true := bit_of hw rfl
  unfold execVbatApplied
  repeat' first
    | with_reducible assumption
    | (intro s; with_reducible refine (fun (hs : Kept μ s0 s) => ?_) ?_)
    | intro x
    | lift_lets
    | with_reducible refine kept_modPwr k_modPwr (.inr i75) ?_
    | (fail_if_no_progress with_reducible refine Kept.mk' ?_  (h_pwr := .inr ⟨i74, .inr i75⟩))
    | split
    | with_reducible refine KeptOut.mk' ?_
    | dsimp +zetaDelta only

theorem kept_execVbatLost {μ : Nat} (hw : 65817982854995680165888 &&& μ = 65817982854995680165888) {s0 : State} {s : State}  (kh : Kept μ s0 s) :
    KeptOut μ s0 (execVbatLost s) := by
  have k_modPwr : 18889465931478580854784 &&& μ = 18889465931478580854784 := sub_of hw rfl
  have k_vbatGone : 9149585060559937601536 &&& μ = 9149585060559937601536 := sub_of hw rfl
  have i68 : μ.testBit 68 = true := bit_of hw rfl
  have i69 : μ.testBit 69 = true := bit_of hw rfl
  have i70 : μ.testBit 70 = true := bit_of hw rfl
  have i71 : μ.testBit 71 = true := bit_of hw rfl
  have i72 : μ.testBit 72 = true := bit_of hw rfl
  have i74 : μ.testBit 74 = true := bit_of hw rfl
  have i75 : μ.testBit 75 = true := bit_of hw rfl
  unfold execVbatLost
  repeat' first
    | with_reducible assumption
    | (intro s; with_reducible refine (fun (hs : Kept μ s0 s) => ?_) ?_)
    | intro x
    | lift_lets
    | with_reducible refine kept_modPwr k_modPwr (.inr i75) ?_
    | with_reducible refine kept_vbatGone k_vbatGone ?_
    | (fail_if_no_progress with_reducible refine Kept.mk' ?_  (h_vbat := .inr ⟨i68, .inr i69, .inr i70, .inr i71, .inr i72⟩) (h_pwr := .inr ⟨i74, .inr i75⟩))
    | split
    | with_reducible refine KeptOut.mk' ?_
    | dsimp +zetaDelta only

theorem kept_wakeReset {μ : Nat} (hw : 2399259627045968335077375 &&& μ = 2399259627045968335077375) {s0 : State} {cause : Nat} {s : State}  (kh : Kept μ s0 s) :
    Kept μ s0 (wakeReset cause s) := by
  have k_count : 982252228520449088159744 &&& μ = 982252228520449088159744 := sub_of hw rfl
  have k_startReset : 2399259627045968335077375 &&& μ = 2399259627045968335077375 := sub_of hw rfl
  unfold wakeReset
  repeat' first
    | with_reducible assumption
    | (intro s; with_reducible refine (fun (hs : Kept μ s0 s) => ?_) ?_)
    | intro x
    | lift_lets
    | with_reducible refine kept_count k_count ?_
    | with_reducible refine kept_startReset k_startReset ?_
    | split
    | dsimp +zetaDelta only

theorem kept_execResetNLow {μ : Nat} (hw : 2399259627045968335077375 &&& μ = 2399259627045968335077375) {s0 : State} {s : State}  (kh : Kept μ s0 s) :
    KeptOut μ s0 (execResetNLow s) := by
  have k_modPwr : 18889465931478580854784 &&& μ = 18889465931478580854784 := sub_of hw rfl
  have k_wakeReset : 2399259627045968335077375 &&& μ = 2399259627045968335077375 := sub_of hw rfl
  have i0 : μ.testBit 0 = true := bit_of hw rfl
  have i1 : μ.testBit 1 = true := bit_of hw rfl
  have i2 : μ.testBit 2 = true := bit_of hw rfl
  have i3 : μ.testBit 3 = true := bit_of hw rfl
  have i4 : μ.testBit 4 = true := bit_of hw rfl
  have i5 : μ.testBit 5 = true := bit_of hw rfl
  have i6 : μ.testBit 6 = true := bit_of hw rfl
  have i7 : μ.testBit 7 = true := bit_of hw rfl
  have i8 : μ.testBit 8 = true := bit_of hw rfl
  have i9 : μ.testBit 9 = true := bit_of hw rfl
  have i10 : μ.testBit 10 = true := bit_of hw rfl
  have i11 : μ.testBit 11 = true := bit_of hw rfl
  have i12 : μ.testBit 12 = true := bit_of hw rfl
  have i13 : μ.testBit 13 = true := bit_of hw rfl
  have i14 : μ.testBit 14 = true := bit_of hw rfl
  have i15 : μ.testBit 15 = true := bit_of hw rfl
  have i16 : μ.testBit 16 = true := bit_of hw rfl
  have i17 : μ.testBit 17 = true := bit_of hw rfl
  have i18 : μ.testBit 18 = true := bit_of hw rfl
  have i19 : μ.testBit 19 = true := bit_of hw rfl
  have i20 : μ.testBit 20 = true := bit_of hw rfl
  have i21 : μ.testBit 21 = true := bit_of hw rfl
  have i22 : μ.testBit 22 = true := bit_of hw rfl
  have i23 : μ.testBit 23 = true := bit_of hw rfl
  have i24 : μ.testBit 24 = true := bit_of hw rfl
  have i25 : μ.testBit 25 = true := bit_of hw rfl
  have i26 : μ.testBit 26 = true := bit_of hw rfl
  have i27 : μ.testBit 27 = true := bit_of hw rfl
  have i28 : μ.testBit 28 = true := bit_of hw rfl
  have i29 : μ.testBit 29 = true := bit_of hw rfl
  have i30 : μ.testBit 30 = true := bit_of hw rfl
  have i31 : μ.testBit 31 = true := bit_of hw rfl
  have i32 : μ.testBit 32 = true := bit_of hw rfl
  have i33 : μ.testBit 33 = true := bit_of hw rfl
  have i34 : μ.testBit 34 = true := bit_of hw rfl
  have i35 : μ.testBit 35 = true := bit_of hw rfl
  have i36 : μ.testBit 36 = true := bit_of hw rfl
  have i37 : μ.testBit 37 = true := bit_of hw rfl
  have i38 : μ.testBit 38 = true := bit_of hw rfl
  have i39 : μ.testBit 39 = true := bit_of hw rfl
  have i40 : μ.testBit 40 = true := bit_of hw rfl
  have i41 : μ.testBit 41 = true := bit_of hw rfl
  have i42 : μ.testBit 42 = true := bit_of hw rfl
  have i43 : μ.testBit 43 = true := bit_of hw rfl
  have i44 : μ.testBit 44 = true := bit_of hw rfl
  have i45 : μ.testBit 45 = true := bit_of hw rfl
  have i46 : μ.testBit 46 = true := bit_of hw rfl
  have i47 : μ.testBit 47 = true := bit_of hw rfl
  have i48 : μ.testBit 48 = true := bit_of hw rfl
  have i49 : μ.testBit 49 = true := bit_of hw rfl
  have i50 : μ.testBit 50 = true := bit_of hw rfl
  have i51 : μ.testBit 51 = true := bit_of hw rfl
  have i52 : μ.testBit 52 = true := bit_of hw rfl
  have i53 : μ.testBit 53 = true := bit_of hw rfl
  have i54 : μ.testBit 54 = true := bit_of hw rfl
  have i55 : μ.testBit 55 = true := bit_of hw rfl
  have i56 : μ.testBit 56 = true := bit_of hw rfl
  have i57 : μ.testBit 57 = true := bit_of hw rfl
  have i58 : μ.testBit 58 = true := bit_of hw rfl
  have i59 : μ.testBit 59 = true := bit_of hw rfl
  have i60 : μ.testBit 60 = true := bit_of hw rfl
  have i68 : μ.testBit 68 = true := bit_of hw rfl
  have i74 : μ.testBit 74 = true := bit_of hw rfl
  have i75 : μ.testBit 75 = true := bit_of hw rfl
  have i76 : μ.testBit 76 = true := bit_of hw rfl
  have i77 : μ.testBit 77 = true := bit_of hw rfl
  have i78 : μ.testBit 78 = true := bit_of hw rfl
  have i79 : μ.testBit 79 = true := bit_of hw rfl
  have i80 : μ.testBit 80 = true := bit_of hw rfl
  unfold execResetNLow
  repeat' first
    | with_reducible assumption
    | (intro s; with_reducible refine (fun (hs : Kept μ s0 s) => ?_) ?_)
    | intro x
    | lift_lets
    | with_reducible refine kept_modPwr k_modPwr (.inr i75) ?_
    | with_reducible refine kept_wakeReset k_wakeReset ?_
    | (fail_if_no_progress with_reducible refine Kept.mk' ?_  (h_tb := .inr ⟨i0, .inr i1, .inr i2, .inr i3⟩) (h_eth := .inr ⟨i4, .inr i5, .inr i6, .inr i7⟩) (h_ing := .inr ⟨i8, .inr i9, .inr i10⟩) (h_aln := .inr ⟨i11, .inr i12, .inr i13, .inr i14⟩) (h_svf := .inr i15) (h_osc := .inr i16) (h_isl := .inr i17) (h_sch := .inr ⟨i18, .inr i19, .inr i20, .inr i21⟩) (h_cap := .inr ⟨i22, .inr i23, .inr i24, .inr i25⟩) (h_mtr := .inr ⟨i26, .inr i27, .inr i28⟩) (h_tsk := .inr ⟨i29, .inr i30⟩) (h_arb := .inr i31) (h_pub := .inr ⟨i32, .inr i33, .inr i34, .inr i35⟩) (h_cfg := .inr ⟨i36, .inr i37, .inr i38, .inr i39, .inr i40, .inr i41⟩) (h_hp := .inr ⟨i42, .inr i43, .inr i44, .inr i45, .inr i46, .inr i47, .inr i48, .inr i49, .inr i50, .inr i51, .inr i52, .inr i53⟩) (h_pair := .inr ⟨i54, .inr i55, .inr i56, .inr i57⟩) (h_sec := .inr ⟨i58, .inr i59⟩) (h_nv := .inr ⟨i60, sm, sm, sm, sm, sm, sm, sm⟩) (h_vbat := .inr ⟨i68, sm, sm, sm, sm⟩) (h_pwr := .inr ⟨i74, .inr i75⟩) (h_cnt := .inr i76) (h_limits := .inr i77) (h_evLog := .inr i78) (h_evLogSeq := .inr i79) (h_free := .inr i80))
    | split
    | with_reducible refine KeptOut.mk' ?_
    | dsimp +zetaDelta only

theorem kept_execResetNRelease {μ : Nat} (hw : 18889465931478580854784 &&& μ = 18889465931478580854784) {s0 : State} {s : State}  (kh : Kept μ s0 s) :
    KeptOut μ s0 (execResetNRelease s) := by
  have k_modPwr : 18889465931478580854784 &&& μ = 18889465931478580854784 := sub_of hw rfl
  have i74 : μ.testBit 74 = true := bit_of hw rfl
  unfold execResetNRelease
  repeat' first
    | with_reducible assumption
    | (intro s; with_reducible refine (fun (hs : Kept μ s0 s) => ?_) ?_)
    | intro x
    | lift_lets
    | with_reducible refine kept_modPwr k_modPwr smf ?_
    | (fail_if_no_progress with_reducible refine Kept.mk' ?_  (h_pwr := .inr ⟨i74, sm⟩))
    | split
    | with_reducible refine KeptOut.mk' ?_
    | dsimp +zetaDelta only

theorem kept_execPerst {μ : Nat} (hw : 18889483906294671736880 &&& μ = 18889483906294671736880) {s0 : State} {hot : Bool} {s : State}  (kh : Kept μ s0 s) :
    KeptOut μ s0 (execPerst hot s) := by
  have k_dropHostTx : 4507997673881648 &&& μ = 4507997673881648 := sub_of hw rfl
  have k_flrReset : 8967616836141056 &&& μ = 8967616836141056 := sub_of hw rfl
  have k_modFn : 4398046511104 &&& μ = 4398046511104 := sub_of hw rfl
  have k_modPwr : 18889465931478580854784 &&& μ = 18889465931478580854784 := sub_of hw rfl
  have i4 : μ.testBit 4 = true := bit_of hw rfl
  have i5 : μ.testBit 5 = true := bit_of hw rfl
  have i42 : μ.testBit 42 = true := bit_of hw rfl
  have i43 : μ.testBit 43 = true := bit_of hw rfl
  have i44 : μ.testBit 44 = true := bit_of hw rfl
  have i46 : μ.testBit 46 = true := bit_of hw rfl
  have i47 : μ.testBit 47 = true := bit_of hw rfl
  have i48 : μ.testBit 48 = true := bit_of hw rfl
  have i49 : μ.testBit 49 = true := bit_of hw rfl
  have i50 : μ.testBit 50 = true := bit_of hw rfl
  have i51 : μ.testBit 51 = true := bit_of hw rfl
  have i52 : μ.testBit 52 = true := bit_of hw rfl
  have i53 : μ.testBit 53 = true := bit_of hw rfl
  have i74 : μ.testBit 74 = true := bit_of hw rfl
  unfold execPerst
  repeat' first
    | with_reducible assumption
    | (intro s; with_reducible refine (fun (hs : Kept μ s0 s) => ?_) ?_)
    | intro x
    | lift_lets
    | with_reducible refine kept_modFn k_modFn (.inr i43) (.inr i44) smf (.inr i46) (.inr i47) (.inr i48) (.inr i49) (.inr i50) (.inr i51) (.inr i52) (.inr i53) ?_
    | with_reducible refine kept_flrReset k_flrReset ?_
    | with_reducible refine kept_dropHostTx k_dropHostTx ?_
    | with_reducible refine kept_modPwr k_modPwr smf ?_
    | with_reducible refine kept_foldl (fun s x hs => ?_) ?_
    | (fail_if_no_progress with_reducible refine Kept.mk' ?_  (h_eth := .inr ⟨i4, .inr i5, sm, sm⟩) (h_hp := .inr ⟨i42, .inr i43, .inr i44, sm, .inr i46, .inr i47, .inr i48, .inr i49, .inr i50, .inr i51, .inr i52, .inr i53⟩) (h_pwr := .inr ⟨i74, sm⟩))
    | split
    | with_reducible refine KeptOut.mk' ?_
    | dsimp +zetaDelta only

theorem kept_execPerstNRelease {μ : Nat} (hw : 18889465931478580854784 &&& μ = 18889465931478580854784) {s0 : State} {s : State}  (kh : Kept μ s0 s) :
    KeptOut μ s0 (execPerstNRelease s) := by
  have k_modPwr : 18889465931478580854784 &&& μ = 18889465931478580854784 := sub_of hw rfl
  have i74 : μ.testBit 74 = true := bit_of hw rfl
  unfold execPerstNRelease
  repeat' first
    | with_reducible assumption
    | (intro s; with_reducible refine (fun (hs : Kept μ s0 s) => ?_) ?_)
    | intro x
    | lift_lets
    | with_reducible refine kept_modPwr k_modPwr smf ?_
    | (fail_if_no_progress with_reducible refine Kept.mk' ?_  (h_pwr := .inr ⟨i74, sm⟩))
    | split
    | with_reducible refine KeptOut.mk' ?_
    | dsimp +zetaDelta only

theorem kept_execCmdPwrSleep {μ : Nat} (hw : 2399286146892635463221297 &&& μ = 2399286146892635463221297) {s0 : State} {n : Nat} {s : State}  (kh : Kept μ s0 s) :
    KeptOut μ s0 (execCmdPwrSleep n s) := by
  have k_act : 0 &&& μ = 0 := sub_of hw rfl
  have k_complete : 906694365111194113540096 &&& μ = 906694365111194113540096 := sub_of hw rfl
  have k_modPwr : 18889465931478580854784 &&& μ = 18889465931478580854784 := sub_of hw rfl
  have k_runCmd : 906694365111194113540096 &&& μ = 906694365111194113540096 := sub_of hw rfl
  have k_shed : 2342617748781540371857457 &&& μ = 2342617748781540371857457 := sub_of hw rfl
  have i0 : μ.testBit 0 = true := bit_of hw rfl
  have i4 : μ.testBit 4 = true := bit_of hw rfl
  have i5 : μ.testBit 5 = true := bit_of hw rfl
  have i26 : μ.testBit 26 = true := bit_of hw rfl
  have i27 : μ.testBit 27 = true := bit_of hw rfl
  have i28 : μ.testBit 28 = true := bit_of hw rfl
  have i32 : μ.testBit 32 = true := bit_of hw rfl
  have i35 : μ.testBit 35 = true := bit_of hw rfl
  have i42 : μ.testBit 42 = true := bit_of hw rfl
  have i43 : μ.testBit 43 = true := bit_of hw rfl
  have i45 : μ.testBit 45 = true := bit_of hw rfl
  have i46 : μ.testBit 46 = true := bit_of hw rfl
  have i48 : μ.testBit 48 = true := bit_of hw rfl
  have i51 : μ.testBit 51 = true := bit_of hw rfl
  have i60 : μ.testBit 60 = true := bit_of hw rfl
  have i63 : μ.testBit 63 = true := bit_of hw rfl
  have i64 : μ.testBit 64 = true := bit_of hw rfl
  have i68 : μ.testBit 68 = true := bit_of hw rfl
  have i74 : μ.testBit 74 = true := bit_of hw rfl
  have i75 : μ.testBit 75 = true := bit_of hw rfl
  have i76 : μ.testBit 76 = true := bit_of hw rfl
  have i77 : μ.testBit 77 = true := bit_of hw rfl
  have i78 : μ.testBit 78 = true := bit_of hw rfl
  have i79 : μ.testBit 79 = true := bit_of hw rfl
  have i80 : μ.testBit 80 = true := bit_of hw rfl
  unfold execCmdPwrSleep
  repeat' first
    | with_reducible assumption
    | (intro s; with_reducible refine (fun (hs : Kept μ s0 s) => ?_) ?_)
    | intro x
    | lift_lets
    | with_reducible refine kept_act k_act (fun s hs => ?_) ?_
    | with_reducible refine kept_complete k_complete ?_
    | with_reducible refine kept_runCmd k_runCmd (fun r s hs => ?_) ?_
    | with_reducible refine kept_modPwr k_modPwr (.inr i75) ?_
    | with_reducible refine kept_shed k_shed ?_
    | (fail_if_no_progress with_reducible refine Kept.mk' ?_  (h_tb := .inr ⟨i0, sm, sm, sm⟩) (h_eth := .inr ⟨i4, .inr i5, sm, sm⟩) (h_mtr := .inr ⟨i26, .inr i27, .inr i28⟩) (h_pub := .inr ⟨i32, sm, sm, .inr i35⟩) (h_hp := .inr ⟨i42, .inr i43, sm, .inr i45, .inr i46, sm, .inr i48, sm, sm, .inr i51, sm, sm⟩) (h_nv := .inr ⟨i60, sm, sm, .inr i63, .inr i64, sm, sm, sm⟩) (h_vbat := .inr ⟨i68, sm, sm, sm, sm⟩) (h_pwr := .inr ⟨i74, .inr i75⟩) (h_cnt := .inr i76) (h_limits := .inr i77) (h_evLog := .inr i78) (h_evLogSeq := .inr i79) (h_free := .inr i80))
    | split
    | with_reducible refine KeptOut.mk' ?_
    | dsimp +zetaDelta only

theorem kept_execSleepWake {μ : Nat} (hw : 2400440218666685746380799 &&& μ = 2400440218666685746380799) {s0 : State} {rtc : Nat} {s : State}  (kh : Kept μ s0 s) :
    KeptOut μ s0 (execSleepWake rtc s) := by
  have k_wakeReset : 2399259627045968335077375 &&& μ = 2399259627045968335077375 := sub_of hw rfl
  have i0 : μ.testBit 0 = true := bit_of hw rfl
  have i1 : μ.testBit 1 = true := bit_of hw rfl
  have i2 : μ.testBit 2 = true := bit_of hw rfl
  have i3 : μ.testBit 3 = true := bit_of hw rfl
  have i4 : μ.testBit 4 = true := bit_of hw rfl
  have i5 : μ.testBit 5 = true := bit_of hw rfl
  have i6 : μ.testBit 6 = true := bit_of hw rfl
  have i7 : μ.testBit 7 = true := bit_of hw rfl
  have i8 : μ.testBit 8 = true := bit_of hw rfl
  have i9 : μ.testBit 9 = true := bit_of hw rfl
  have i10 : μ.testBit 10 = true := bit_of hw rfl
  have i11 : μ.testBit 11 = true := bit_of hw rfl
  have i12 : μ.testBit 12 = true := bit_of hw rfl
  have i13 : μ.testBit 13 = true := bit_of hw rfl
  have i14 : μ.testBit 14 = true := bit_of hw rfl
  have i15 : μ.testBit 15 = true := bit_of hw rfl
  have i16 : μ.testBit 16 = true := bit_of hw rfl
  have i17 : μ.testBit 17 = true := bit_of hw rfl
  have i18 : μ.testBit 18 = true := bit_of hw rfl
  have i19 : μ.testBit 19 = true := bit_of hw rfl
  have i20 : μ.testBit 20 = true := bit_of hw rfl
  have i21 : μ.testBit 21 = true := bit_of hw rfl
  have i22 : μ.testBit 22 = true := bit_of hw rfl
  have i23 : μ.testBit 23 = true := bit_of hw rfl
  have i24 : μ.testBit 24 = true := bit_of hw rfl
  have i25 : μ.testBit 25 = true := bit_of hw rfl
  have i26 : μ.testBit 26 = true := bit_of hw rfl
  have i27 : μ.testBit 27 = true := bit_of hw rfl
  have i28 : μ.testBit 28 = true := bit_of hw rfl
  have i29 : μ.testBit 29 = true := bit_of hw rfl
  have i30 : μ.testBit 30 = true := bit_of hw rfl
  have i31 : μ.testBit 31 = true := bit_of hw rfl
  have i32 : μ.testBit 32 = true := bit_of hw rfl
  have i33 : μ.testBit 33 = true := bit_of hw rfl
  have i34 : μ.testBit 34 = true := bit_of hw rfl
  have i35 : μ.testBit 35 = true := bit_of hw rfl
  have i36 : μ.testBit 36 = true := bit_of hw rfl
  have i37 : μ.testBit 37 = true := bit_of hw rfl
  have i38 : μ.testBit 38 = true := bit_of hw rfl
  have i39 : μ.testBit 39 = true := bit_of hw rfl
  have i40 : μ.testBit 40 = true := bit_of hw rfl
  have i41 : μ.testBit 41 = true := bit_of hw rfl
  have i42 : μ.testBit 42 = true := bit_of hw rfl
  have i43 : μ.testBit 43 = true := bit_of hw rfl
  have i44 : μ.testBit 44 = true := bit_of hw rfl
  have i45 : μ.testBit 45 = true := bit_of hw rfl
  have i46 : μ.testBit 46 = true := bit_of hw rfl
  have i47 : μ.testBit 47 = true := bit_of hw rfl
  have i48 : μ.testBit 48 = true := bit_of hw rfl
  have i49 : μ.testBit 49 = true := bit_of hw rfl
  have i50 : μ.testBit 50 = true := bit_of hw rfl
  have i51 : μ.testBit 51 = true := bit_of hw rfl
  have i52 : μ.testBit 52 = true := bit_of hw rfl
  have i53 : μ.testBit 53 = true := bit_of hw rfl
  have i54 : μ.testBit 54 = true := bit_of hw rfl
  have i55 : μ.testBit 55 = true := bit_of hw rfl
  have i56 : μ.testBit 56 = true := bit_of hw rfl
  have i57 : μ.testBit 57 = true := bit_of hw rfl
  have i58 : μ.testBit 58 = true := bit_of hw rfl
  have i59 : μ.testBit 59 = true := bit_of hw rfl
  have i60 : μ.testBit 60 = true := bit_of hw rfl
  have i68 : μ.testBit 68 = true := bit_of hw rfl
  have i70 : μ.testBit 70 = true := bit_of hw rfl
  have i74 : μ.testBit 74 = true := bit_of hw rfl
  have i75 : μ.testBit 75 = true := bit_of hw rfl
  have i76 : μ.testBit 76 = true := bit_of hw rfl
  have i77 : μ.testBit 77 = true := bit_of hw rfl
  have i78 : μ.testBit 78 = true := bit_of hw rfl
  have i79 : μ.testBit 79 = true := bit_of hw rfl
  have i80 : μ.testBit 80 = true := bit_of hw rfl
  unfold execSleepWake
  repeat' first
    | with_reducible assumption
    | (intro s; with_reducible refine (fun (hs : Kept μ s0 s) => ?_) ?_)
    | intro x
    | lift_lets
    | with_reducible refine kept_wakeReset k_wakeReset ?_
    | (fail_if_no_progress with_reducible refine Kept.mk' ?_  (h_tb := .inr ⟨i0, .inr i1, .inr i2, .inr i3⟩) (h_eth := .inr ⟨i4, .inr i5, .inr i6, .inr i7⟩) (h_ing := .inr ⟨i8, .inr i9, .inr i10⟩) (h_aln := .inr ⟨i11, .inr i12, .inr i13, .inr i14⟩) (h_svf := .inr i15) (h_osc := .inr i16) (h_isl := .inr i17) (h_sch := .inr ⟨i18, .inr i19, .inr i20, .inr i21⟩) (h_cap := .inr ⟨i22, .inr i23, .inr i24, .inr i25⟩) (h_mtr := .inr ⟨i26, .inr i27, .inr i28⟩) (h_tsk := .inr ⟨i29, .inr i30⟩) (h_arb := .inr i31) (h_pub := .inr ⟨i32, .inr i33, .inr i34, .inr i35⟩) (h_cfg := .inr ⟨i36, .inr i37, .inr i38, .inr i39, .inr i40, .inr i41⟩) (h_hp := .inr ⟨i42, .inr i43, .inr i44, .inr i45, .inr i46, .inr i47, .inr i48, .inr i49, .inr i50, .inr i51, .inr i52, .inr i53⟩) (h_pair := .inr ⟨i54, .inr i55, .inr i56, .inr i57⟩) (h_sec := .inr ⟨i58, .inr i59⟩) (h_nv := .inr ⟨i60, sm, sm, sm, sm, sm, sm, sm⟩) (h_vbat := .inr ⟨i68, sm, .inr i70, sm, sm⟩) (h_pwr := .inr ⟨i74, .inr i75⟩) (h_cnt := .inr i76) (h_limits := .inr i77) (h_evLog := .inr i78) (h_evLogSeq := .inr i79) (h_free := .inr i80))
    | split
    | with_reducible refine KeptOut.mk' ?_
    | dsimp +zetaDelta only

theorem kept_writeDump {μ : Nat} (hw : 2115914179709498034225152 &&& μ = 2115914179709498034225152) {s0 : State} {x : FatalIn} {s : State}  (kh : Kept μ s0 s) :
    Kept μ s0 (writeDump x s) := by
  have k_complete : 906694365111194113540096 &&& μ = 906694365111194113540096 := sub_of hw rfl
  have i42 : μ.testBit 42 = true := bit_of hw rfl
  have i43 : μ.testBit 43 = true := bit_of hw rfl
  have i45 : μ.testBit 45 = true := bit_of hw rfl
  have i46 : μ.testBit 46 = true := bit_of hw rfl
  have i48 : μ.testBit 48 = true := bit_of hw rfl
  have i60 : μ.testBit 60 = true := bit_of hw rfl
  have i61 : μ.testBit 61 = true := bit_of hw rfl
  have i62 : μ.testBit 62 = true := bit_of hw rfl
  have i63 : μ.testBit 63 = true := bit_of hw rfl
  have i64 : μ.testBit 64 = true := bit_of hw rfl
  have i65 : μ.testBit 65 = true := bit_of hw rfl
  have i66 : μ.testBit 66 = true := bit_of hw rfl
  have i67 : μ.testBit 67 = true := bit_of hw rfl
  have i78 : μ.testBit 78 = true := bit_of hw rfl
  have i79 : μ.testBit 79 = true := bit_of hw rfl
  have i80 : μ.testBit 80 = true := bit_of hw rfl
  unfold writeDump
  repeat' first
    | with_reducible assumption
    | (intro s; with_reducible refine (fun (hs : Kept μ s0 s) => ?_) ?_)
    | intro x
    | lift_lets
    | with_reducible refine kept_complete k_complete ?_
    | (fail_if_no_progress with_reducible refine Kept.mk' ?_  (h_hp := .inr ⟨i42, .inr i43, sm, .inr i45, .inr i46, sm, .inr i48, sm, sm, sm, sm, sm⟩) (h_nv := .inr ⟨i60, .inr i61, .inr i62, .inr i63, .inr i64, .inr i65, .inr i66, .inr i67⟩) (h_evLog := .inr i78) (h_evLogSeq := .inr i79) (h_free := .inr i80))
    | split
    | dsimp +zetaDelta only

theorem kept_fatalCommit {μ : Nat} (hw : 2342322600876322364325888 &&& μ = 2342322600876322364325888) {s0 : State} {s : State}  (kh : Kept μ s0 s) :
    Kept μ s0 (fatalCommit s) := by
  have k_closePartial : 2342322600876322364325888 &&& μ = 2342322600876322364325888 := sub_of hw rfl
  have k_modMtr : 201326592 &&& μ = 201326592 := sub_of hw rfl
  have i26 : μ.testBit 26 = true := bit_of hw rfl
  have i27 : μ.testBit 27 = true := bit_of hw rfl
  have i28 : μ.testBit 28 = true := bit_of hw rfl
  have i42 : μ.testBit 42 = true := bit_of hw rfl
  have i43 : μ.testBit 43 = true := bit_of hw rfl
  have i46 : μ.testBit 46 = true := bit_of hw rfl
  have i51 : μ.testBit 51 = true := bit_of hw rfl
  have i60 : μ.testBit 60 = true := bit_of hw rfl
  have i63 : μ.testBit 63 = true := bit_of hw rfl
  have i64 : μ.testBit 64 = true := bit_of hw rfl
  have i76 : μ.testBit 76 = true := bit_of hw rfl
  have i77 : μ.testBit 77 = true := bit_of hw rfl
  have i78 : μ.testBit 78 = true := bit_of hw rfl
  have i79 : μ.testBit 79 = true := bit_of hw rfl
  have i80 : μ.testBit 80 = true := bit_of hw rfl
  unfold fatalCommit
  repeat' first
    | with_reducible assumption
    | (intro s; with_reducible refine (fun (hs : Kept μ s0 s) => ?_) ?_)
    | intro x
    | lift_lets
    | with_reducible refine kept_modMtr k_modMtr ?_
    | with_reducible refine kept_closePartial k_closePartial ?_
    | with_reducible refine kept_foldl (fun s x hs => ?_) ?_
    | (fail_if_no_progress with_reducible refine Kept.mk' ?_  (h_mtr := .inr ⟨i26, .inr i27, .inr i28⟩) (h_hp := .inr ⟨i42, .inr i43, sm, sm, .inr i46, sm, sm, sm, sm, .inr i51, sm, sm⟩) (h_nv := .inr ⟨i60, sm, sm, .inr i63, .inr i64, sm, sm, sm⟩) (h_cnt := .inr i76) (h_limits := .inr i77) (h_evLog := .inr i78) (h_evLogSeq := .inr i79) (h_free := .inr i80))
    | split
    | dsimp +zetaDelta only

theorem kept_fatalStop {μ : Nat} (hw : 2342587827182275471081521 &&& μ = 2342587827182275471081521) {s0 : State} {x : FatalIn} {s : State}  (kh : Kept μ s0 s) :
    Kept μ s0 (fatalStop x s) := by
  have k_fatalCommit : 2342322600876322364325888 &&& μ = 2342322600876322364325888 := sub_of hw rfl
  have k_seen : 1 &&& μ = 1 := sub_of hw rfl
  have k_stopOutputs : 982252228520488078409776 &&& μ = 982252228520488078409776 := sub_of hw rfl
  have k_writeDump : 2115914179709498034225152 &&& μ = 2115914179709498034225152 := sub_of hw rfl
  have i0 : μ.testBit 0 = true := bit_of hw rfl
  have i4 : μ.testBit 4 = true := bit_of hw rfl
  have i5 : μ.testBit 5 = true := bit_of hw rfl
  have i26 : μ.testBit 26 = true := bit_of hw rfl
  have i27 : μ.testBit 27 = true := bit_of hw rfl
  have i28 : μ.testBit 28 = true := bit_of hw rfl
  have i32 : μ.testBit 32 = true := bit_of hw rfl
  have i35 : μ.testBit 35 = true := bit_of hw rfl
  have i42 : μ.testBit 42 = true := bit_of hw rfl
  have i43 : μ.testBit 43 = true := bit_of hw rfl
  have i45 : μ.testBit 45 = true := bit_of hw rfl
  have i46 : μ.testBit 46 = true := bit_of hw rfl
  have i48 : μ.testBit 48 = true := bit_of hw rfl
  have i51 : μ.testBit 51 = true := bit_of hw rfl
  have i54 : μ.testBit 54 = true := bit_of hw rfl
  have i55 : μ.testBit 55 = true := bit_of hw rfl
  have i60 : μ.testBit 60 = true := bit_of hw rfl
  have i61 : μ.testBit 61 = true := bit_of hw rfl
  have i62 : μ.testBit 62 = true := bit_of hw rfl
  have i63 : μ.testBit 63 = true := bit_of hw rfl
  have i64 : μ.testBit 64 = true := bit_of hw rfl
  have i65 : μ.testBit 65 = true := bit_of hw rfl
  have i66 : μ.testBit 66 = true := bit_of hw rfl
  have i67 : μ.testBit 67 = true := bit_of hw rfl
  have i76 : μ.testBit 76 = true := bit_of hw rfl
  have i77 : μ.testBit 77 = true := bit_of hw rfl
  have i78 : μ.testBit 78 = true := bit_of hw rfl
  have i79 : μ.testBit 79 = true := bit_of hw rfl
  have i80 : μ.testBit 80 = true := bit_of hw rfl
  unfold fatalStop
  repeat' first
    | with_reducible assumption
    | (intro s; with_reducible refine (fun (hs : Kept μ s0 s) => ?_) ?_)
    | intro x
    | lift_lets
    | with_reducible refine kept_seen k_seen ?_
    | with_reducible refine kept_stopOutputs k_stopOutputs ?_
    | with_reducible refine kept_writeDump k_writeDump ?_
    | with_reducible refine kept_fatalCommit k_fatalCommit ?_
    | (fail_if_no_progress with_reducible refine Kept.mk' ?_  (h_tb := .inr ⟨i0, sm, sm, sm⟩) (h_eth := .inr ⟨i4, .inr i5, sm, sm⟩) (h_mtr := .inr ⟨i26, .inr i27, .inr i28⟩) (h_pub := .inr ⟨i32, sm, sm, .inr i35⟩) (h_hp := .inr ⟨i42, .inr i43, sm, .inr i45, .inr i46, sm, .inr i48, sm, sm, .inr i51, sm, sm⟩) (h_pair := .inr ⟨i54, .inr i55, sm, sm⟩) (h_nv := .inr ⟨i60, .inr i61, .inr i62, .inr i63, .inr i64, .inr i65, .inr i66, .inr i67⟩) (h_cnt := .inr i76) (h_limits := .inr i77) (h_evLog := .inr i78) (h_evLogSeq := .inr i79) (h_free := .inr i80))
    | split
    | dsimp +zetaDelta only

theorem kept_fatal {μ : Nat} (hw : 2399552469108138474209279 &&& μ = 2399552469108138474209279) {s0 : State} {x : FatalIn} {s : State}  (kh : Kept μ s0 s) :
    Kept μ s0 (fatal x s) := by
  have k_count : 982252228520449088159744 &&& μ = 982252228520449088159744 := sub_of hw rfl
  have k_fatalStop : 2342587827182275471081521 &&& μ = 2342587827182275471081521 := sub_of hw rfl
  have k_pfailed : 2399286146575976114421809 &&& μ = 2399286146575976114421809 := sub_of hw rfl
  have k_pwrHalf : 906694364794534764740608 &&& μ = 906694364794534764740608 := sub_of hw rfl
  have k_shed : 2342617748781540371857457 &&& μ = 2342617748781540371857457 := sub_of hw rfl
  have k_startReset : 2399259627045968335077375 &&& μ = 2399259627045968335077375 := sub_of hw rfl
  have i0 : μ.testBit 0 = true := bit_of hw rfl
  have i1 : μ.testBit 1 = true := bit_of hw rfl
  have i2 : μ.testBit 2 = true := bit_of hw rfl
  have i3 : μ.testBit 3 = true := bit_of hw rfl
  have i4 : μ.testBit 4 = true := bit_of hw rfl
  have i5 : μ.testBit 5 = true := bit_of hw rfl
  have i6 : μ.testBit 6 = true := bit_of hw rfl
  have i7 : μ.testBit 7 = true := bit_of hw rfl
  have i8 : μ.testBit 8 = true := bit_of hw rfl
  have i9 : μ.testBit 9 = true := bit_of hw rfl
  have i10 : μ.testBit 10 = true := bit_of hw rfl
  have i11 : μ.testBit 11 = true := bit_of hw rfl
  have i12 : μ.testBit 12 = true := bit_of hw rfl
  have i13 : μ.testBit 13 = true := bit_of hw rfl
  have i14 : μ.testBit 14 = true := bit_of hw rfl
  have i15 : μ.testBit 15 = true := bit_of hw rfl
  have i16 : μ.testBit 16 = true := bit_of hw rfl
  have i17 : μ.testBit 17 = true := bit_of hw rfl
  have i18 : μ.testBit 18 = true := bit_of hw rfl
  have i19 : μ.testBit 19 = true := bit_of hw rfl
  have i20 : μ.testBit 20 = true := bit_of hw rfl
  have i21 : μ.testBit 21 = true := bit_of hw rfl
  have i22 : μ.testBit 22 = true := bit_of hw rfl
  have i23 : μ.testBit 23 = true := bit_of hw rfl
  have i24 : μ.testBit 24 = true := bit_of hw rfl
  have i25 : μ.testBit 25 = true := bit_of hw rfl
  have i26 : μ.testBit 26 = true := bit_of hw rfl
  have i27 : μ.testBit 27 = true := bit_of hw rfl
  have i28 : μ.testBit 28 = true := bit_of hw rfl
  have i29 : μ.testBit 29 = true := bit_of hw rfl
  have i30 : μ.testBit 30 = true := bit_of hw rfl
  have i31 : μ.testBit 31 = true := bit_of hw rfl
  have i32 : μ.testBit 32 = true := bit_of hw rfl
  have i33 : μ.testBit 33 = true := bit_of hw rfl
  have i34 : μ.testBit 34 = true := bit_of hw rfl
  have i35 : μ.testBit 35 = true := bit_of hw rfl
  have i36 : μ.testBit 36 = true := bit_of hw rfl
  have i37 : μ.testBit 37 = true := bit_of hw rfl
  have i38 : μ.testBit 38 = true := bit_of hw rfl
  have i39 : μ.testBit 39 = true := bit_of hw rfl
  have i40 : μ.testBit 40 = true := bit_of hw rfl
  have i41 : μ.testBit 41 = true := bit_of hw rfl
  have i42 : μ.testBit 42 = true := bit_of hw rfl
  have i43 : μ.testBit 43 = true := bit_of hw rfl
  have i44 : μ.testBit 44 = true := bit_of hw rfl
  have i45 : μ.testBit 45 = true := bit_of hw rfl
  have i46 : μ.testBit 46 = true := bit_of hw rfl
  have i47 : μ.testBit 47 = true := bit_of hw rfl
  have i48 : μ.testBit 48 = true := bit_of hw rfl
  have i49 : μ.testBit 49 = true := bit_of hw rfl
  have i50 : μ.testBit 50 = true := bit_of hw rfl
  have i51 : μ.testBit 51 = true := bit_of hw rfl
  have i52 : μ.testBit 52 = true := bit_of hw rfl
  have i53 : μ.testBit 53 = true := bit_of hw rfl
  have i54 : μ.testBit 54 = true := bit_of hw rfl
  have i55 : μ.testBit 55 = true := bit_of hw rfl
  have i56 : μ.testBit 56 = true := bit_of hw rfl
  have i57 : μ.testBit 57 = true := bit_of hw rfl
  have i58 : μ.testBit 58 = true := bit_of hw rfl
  have i59 : μ.testBit 59 = true := bit_of hw rfl
  have i60 : μ.testBit 60 = true := bit_of hw rfl
  have i61 : μ.testBit 61 = true := bit_of hw rfl
  have i62 : μ.testBit 62 = true := bit_of hw rfl
  have i63 : μ.testBit 63 = true := bit_of hw rfl
  have i64 : μ.testBit 64 = true := bit_of hw rfl
  have i65 : μ.testBit 65 = true := bit_of hw rfl
  have i66 : μ.testBit 66 = true := bit_of hw rfl
  have i67 : μ.testBit 67 = true := bit_of hw rfl
  have i68 : μ.testBit 68 = true := bit_of hw rfl
  have i74 : μ.testBit 74 = true := bit_of hw rfl
  have i75 : μ.testBit 75 = true := bit_of hw rfl
  have i76 : μ.testBit 76 = true := bit_of hw rfl
  have i77 : μ.testBit 77 = true := bit_of hw rfl
  have i78 : μ.testBit 78 = true := bit_of hw rfl
  have i79 : μ.testBit 79 = true := bit_of hw rfl
  have i80 : μ.testBit 80 = true := bit_of hw rfl
  unfold fatal
  repeat' first
    | with_reducible assumption
    | (intro s; with_reducible refine (fun (hs : Kept μ s0 s) => ?_) ?_)
    | intro x
    | lift_lets
    | with_reducible refine kept_count k_count ?_
    | with_reducible refine kept_pwrHalf k_pwrHalf ?_
    | with_reducible refine kept_startReset k_startReset ?_
    | with_reducible refine kept_shed k_shed ?_
    | with_reducible refine kept_pfailed k_pfailed ?_
    | with_reducible refine kept_fatalStop k_fatalStop ?_
    | (fail_if_no_progress with_reducible refine Kept.mk' ?_  (h_tb := .inr ⟨i0, .inr i1, .inr i2, .inr i3⟩) (h_eth := .inr ⟨i4, .inr i5, .inr i6, .inr i7⟩) (h_ing := .inr ⟨i8, .inr i9, .inr i10⟩) (h_aln := .inr ⟨i11, .inr i12, .inr i13, .inr i14⟩) (h_svf := .inr i15) (h_osc := .inr i16) (h_isl := .inr i17) (h_sch := .inr ⟨i18, .inr i19, .inr i20, .inr i21⟩) (h_cap := .inr ⟨i22, .inr i23, .inr i24, .inr i25⟩) (h_mtr := .inr ⟨i26, .inr i27, .inr i28⟩) (h_tsk := .inr ⟨i29, .inr i30⟩) (h_arb := .inr i31) (h_pub := .inr ⟨i32, .inr i33, .inr i34, .inr i35⟩) (h_cfg := .inr ⟨i36, .inr i37, .inr i38, .inr i39, .inr i40, .inr i41⟩) (h_hp := .inr ⟨i42, .inr i43, .inr i44, .inr i45, .inr i46, .inr i47, .inr i48, .inr i49, .inr i50, .inr i51, .inr i52, .inr i53⟩) (h_pair := .inr ⟨i54, .inr i55, .inr i56, .inr i57⟩) (h_sec := .inr ⟨i58, .inr i59⟩) (h_nv := .inr ⟨i60, .inr i61, .inr i62, .inr i63, .inr i64, .inr i65, .inr i66, .inr i67⟩) (h_vbat := .inr ⟨i68, sm, sm, sm, sm⟩) (h_pwr := .inr ⟨i74, .inr i75⟩) (h_cnt := .inr i76) (h_limits := .inr i77) (h_evLog := .inr i78) (h_evLogSeq := .inr i79) (h_free := .inr i80))
    | split
    | dsimp +zetaDelta only

theorem kept_execFatalError {μ : Nat} (hw : 2399552469108138474209279 &&& μ = 2399552469108138474209279) {s0 : State} {x : FatalIn} {s : State}  (kh : Kept μ s0 s) :
    KeptOut μ s0 (execFatalError x s) := by
  have k_act : 0 &&& μ = 0 := sub_of hw rfl
  have k_fatal : 2399552469108138474209279 &&& μ = 2399552469108138474209279 := sub_of hw rfl
  unfold execFatalError
  repeat' first
    | with_reducible assumption
    | (intro s; with_reducible refine (fun (hs : Kept μ s0 s) => ?_) ?_)
    | intro x
    | lift_lets
    | with_reducible refine kept_act k_act (fun s hs => ?_) ?_
    | with_reducible refine kept_fatal k_fatal ?_
    | split
    | with_reducible refine KeptOut.mk' ?_
    | dsimp +zetaDelta only

theorem kept_commandReset {μ : Nat} (hw : 2399552469108138474209279 &&& μ = 2399552469108138474209279) {s0 : State} {dump : Bool} {s : State}  (kh : Kept μ s0 s) :
    Kept μ s0 (commandReset dump s) := by
  have k_fatal : 2399552469108138474209279 &&& μ = 2399552469108138474209279 := sub_of hw rfl
  have k_startReset : 2399259627045968335077375 &&& μ = 2399259627045968335077375 := sub_of hw rfl
  unfold commandReset
  repeat' first
    | with_reducible assumption
    | (intro s; with_reducible refine (fun (hs : Kept μ s0 s) => ?_) ?_)
    | intro x
    | lift_lets
    | with_reducible refine kept_startReset k_startReset ?_
    | with_reducible refine kept_fatal k_fatal ?_
    | split
    | dsimp +zetaDelta only

theorem kept_execCmdPwrReset {μ : Nat} (hw : 2399552469108138474209279 &&& μ = 2399552469108138474209279) {s0 : State} {n : Nat} {s : State}  (kh : Kept μ s0 s) :
    KeptOut μ s0 (execCmdPwrReset n s) := by
  have k_act : 0 &&& μ = 0 := sub_of hw rfl
  have k_commandReset : 2399552469108138474209279 &&& μ = 2399552469108138474209279 := sub_of hw rfl
  have k_complete : 906694365111194113540096 &&& μ = 906694365111194113540096 := sub_of hw rfl
  have k_modPwr : 18889465931478580854784 &&& μ = 18889465931478580854784 := sub_of hw rfl
  have k_runCmd : 906694365111194113540096 &&& μ = 906694365111194113540096 := sub_of hw rfl
  have i0 : μ.testBit 0 = true := bit_of hw rfl
  have i1 : μ.testBit 1 = true := bit_of hw rfl
  have i2 : μ.testBit 2 = true := bit_of hw rfl
  have i3 : μ.testBit 3 = true := bit_of hw rfl
  have i4 : μ.testBit 4 = true := bit_of hw rfl
  have i5 : μ.testBit 5 = true := bit_of hw rfl
  have i6 : μ.testBit 6 = true := bit_of hw rfl
  have i7 : μ.testBit 7 = true := bit_of hw rfl
  have i8 : μ.testBit 8 = true := bit_of hw rfl
  have i9 : μ.testBit 9 = true := bit_of hw rfl
  have i10 : μ.testBit 10 = true := bit_of hw rfl
  have i11 : μ.testBit 11 = true := bit_of hw rfl
  have i12 : μ.testBit 12 = true := bit_of hw rfl
  have i13 : μ.testBit 13 = true := bit_of hw rfl
  have i14 : μ.testBit 14 = true := bit_of hw rfl
  have i15 : μ.testBit 15 = true := bit_of hw rfl
  have i16 : μ.testBit 16 = true := bit_of hw rfl
  have i17 : μ.testBit 17 = true := bit_of hw rfl
  have i18 : μ.testBit 18 = true := bit_of hw rfl
  have i19 : μ.testBit 19 = true := bit_of hw rfl
  have i20 : μ.testBit 20 = true := bit_of hw rfl
  have i21 : μ.testBit 21 = true := bit_of hw rfl
  have i22 : μ.testBit 22 = true := bit_of hw rfl
  have i23 : μ.testBit 23 = true := bit_of hw rfl
  have i24 : μ.testBit 24 = true := bit_of hw rfl
  have i25 : μ.testBit 25 = true := bit_of hw rfl
  have i26 : μ.testBit 26 = true := bit_of hw rfl
  have i27 : μ.testBit 27 = true := bit_of hw rfl
  have i28 : μ.testBit 28 = true := bit_of hw rfl
  have i29 : μ.testBit 29 = true := bit_of hw rfl
  have i30 : μ.testBit 30 = true := bit_of hw rfl
  have i31 : μ.testBit 31 = true := bit_of hw rfl
  have i32 : μ.testBit 32 = true := bit_of hw rfl
  have i33 : μ.testBit 33 = true := bit_of hw rfl
  have i34 : μ.testBit 34 = true := bit_of hw rfl
  have i35 : μ.testBit 35 = true := bit_of hw rfl
  have i36 : μ.testBit 36 = true := bit_of hw rfl
  have i37 : μ.testBit 37 = true := bit_of hw rfl
  have i38 : μ.testBit 38 = true := bit_of hw rfl
  have i39 : μ.testBit 39 = true := bit_of hw rfl
  have i40 : μ.testBit 40 = true := bit_of hw rfl
  have i41 : μ.testBit 41 = true := bit_of hw rfl
  have i42 : μ.testBit 42 = true := bit_of hw rfl
  have i43 : μ.testBit 43 = true := bit_of hw rfl
  have i44 : μ.testBit 44 = true := bit_of hw rfl
  have i45 : μ.testBit 45 = true := bit_of hw rfl
  have i46 : μ.testBit 46 = true := bit_of hw rfl
  have i47 : μ.testBit 47 = true := bit_of hw rfl
  have i48 : μ.testBit 48 = true := bit_of hw rfl
  have i49 : μ.testBit 49 = true := bit_of hw rfl
  have i50 : μ.testBit 50 = true := bit_of hw rfl
  have i51 : μ.testBit 51 = true := bit_of hw rfl
  have i52 : μ.testBit 52 = true := bit_of hw rfl
  have i53 : μ.testBit 53 = true := bit_of hw rfl
  have i54 : μ.testBit 54 = true := bit_of hw rfl
  have i55 : μ.testBit 55 = true := bit_of hw rfl
  have i56 : μ.testBit 56 = true := bit_of hw rfl
  have i57 : μ.testBit 57 = true := bit_of hw rfl
  have i58 : μ.testBit 58 = true := bit_of hw rfl
  have i59 : μ.testBit 59 = true := bit_of hw rfl
  have i60 : μ.testBit 60 = true := bit_of hw rfl
  have i61 : μ.testBit 61 = true := bit_of hw rfl
  have i62 : μ.testBit 62 = true := bit_of hw rfl
  have i63 : μ.testBit 63 = true := bit_of hw rfl
  have i64 : μ.testBit 64 = true := bit_of hw rfl
  have i65 : μ.testBit 65 = true := bit_of hw rfl
  have i66 : μ.testBit 66 = true := bit_of hw rfl
  have i67 : μ.testBit 67 = true := bit_of hw rfl
  have i68 : μ.testBit 68 = true := bit_of hw rfl
  have i74 : μ.testBit 74 = true := bit_of hw rfl
  have i75 : μ.testBit 75 = true := bit_of hw rfl
  have i76 : μ.testBit 76 = true := bit_of hw rfl
  have i77 : μ.testBit 77 = true := bit_of hw rfl
  have i78 : μ.testBit 78 = true := bit_of hw rfl
  have i79 : μ.testBit 79 = true := bit_of hw rfl
  have i80 : μ.testBit 80 = true := bit_of hw rfl
  unfold execCmdPwrReset
  repeat' first
    | with_reducible assumption
    | (intro s; with_reducible refine (fun (hs : Kept μ s0 s) => ?_) ?_)
    | intro x
    | lift_lets
    | with_reducible refine kept_act k_act (fun s hs => ?_) ?_
    | with_reducible refine kept_complete k_complete ?_
    | with_reducible refine kept_runCmd k_runCmd (fun r s hs => ?_) ?_
    | with_reducible refine kept_modPwr k_modPwr (.inr i75) ?_
    | with_reducible refine kept_commandReset k_commandReset ?_
    | (fail_if_no_progress with_reducible refine Kept.mk' ?_  (h_tb := .inr ⟨i0, .inr i1, .inr i2, .inr i3⟩) (h_eth := .inr ⟨i4, .inr i5, .inr i6, .inr i7⟩) (h_ing := .inr ⟨i8, .inr i9, .inr i10⟩) (h_aln := .inr ⟨i11, .inr i12, .inr i13, .inr i14⟩) (h_svf := .inr i15) (h_osc := .inr i16) (h_isl := .inr i17) (h_sch := .inr ⟨i18, .inr i19, .inr i20, .inr i21⟩) (h_cap := .inr ⟨i22, .inr i23, .inr i24, .inr i25⟩) (h_mtr := .inr ⟨i26, .inr i27, .inr i28⟩) (h_tsk := .inr ⟨i29, .inr i30⟩) (h_arb := .inr i31) (h_pub := .inr ⟨i32, .inr i33, .inr i34, .inr i35⟩) (h_cfg := .inr ⟨i36, .inr i37, .inr i38, .inr i39, .inr i40, .inr i41⟩) (h_hp := .inr ⟨i42, .inr i43, .inr i44, .inr i45, .inr i46, .inr i47, .inr i48, .inr i49, .inr i50, .inr i51, .inr i52, .inr i53⟩) (h_pair := .inr ⟨i54, .inr i55, .inr i56, .inr i57⟩) (h_sec := .inr ⟨i58, .inr i59⟩) (h_nv := .inr ⟨i60, .inr i61, .inr i62, .inr i63, .inr i64, .inr i65, .inr i66, .inr i67⟩) (h_vbat := .inr ⟨i68, sm, sm, sm, sm⟩) (h_pwr := .inr ⟨i74, .inr i75⟩) (h_cnt := .inr i76) (h_limits := .inr i77) (h_evLog := .inr i78) (h_evLogSeq := .inr i79) (h_free := .inr i80))
    | split
    | with_reducible refine KeptOut.mk' ?_
    | dsimp +zetaDelta only

theorem kept_execScheduledReset {μ : Nat} (hw : 2399552469108138474209279 &&& μ = 2399552469108138474209279) {s0 : State} {s : State}  (kh : Kept μ s0 s) :
    KeptOut μ s0 (execScheduledReset s) := by
  have k_act : 0 &&& μ = 0 := sub_of hw rfl
  have k_commandReset : 2399552469108138474209279 &&& μ = 2399552469108138474209279 := sub_of hw rfl
  have k_modPwr : 18889465931478580854784 &&& μ = 18889465931478580854784 := sub_of hw rfl
  have i0 : μ.testBit 0 = true := bit_of hw rfl
  have i1 : μ.testBit 1 = true := bit_of hw rfl
  have i2 : μ.testBit 2 = true := bit_of hw rfl
  have i3 : μ.testBit 3 = true := bit_of hw rfl
  have i4 : μ.testBit 4 = true := bit_of hw rfl
  have i5 : μ.testBit 5 = true := bit_of hw rfl
  have i6 : μ.testBit 6 = true := bit_of hw rfl
  have i7 : μ.testBit 7 = true := bit_of hw rfl
  have i8 : μ.testBit 8 = true := bit_of hw rfl
  have i9 : μ.testBit 9 = true := bit_of hw rfl
  have i10 : μ.testBit 10 = true := bit_of hw rfl
  have i11 : μ.testBit 11 = true := bit_of hw rfl
  have i12 : μ.testBit 12 = true := bit_of hw rfl
  have i13 : μ.testBit 13 = true := bit_of hw rfl
  have i14 : μ.testBit 14 = true := bit_of hw rfl
  have i15 : μ.testBit 15 = true := bit_of hw rfl
  have i16 : μ.testBit 16 = true := bit_of hw rfl
  have i17 : μ.testBit 17 = true := bit_of hw rfl
  have i18 : μ.testBit 18 = true := bit_of hw rfl
  have i19 : μ.testBit 19 = true := bit_of hw rfl
  have i20 : μ.testBit 20 = true := bit_of hw rfl
  have i21 : μ.testBit 21 = true := bit_of hw rfl
  have i22 : μ.testBit 22 = true := bit_of hw rfl
  have i23 : μ.testBit 23 = true := bit_of hw rfl
  have i24 : μ.testBit 24 = true := bit_of hw rfl
  have i25 : μ.testBit 25 = true := bit_of hw rfl
  have i26 : μ.testBit 26 = true := bit_of hw rfl
  have i27 : μ.testBit 27 = true := bit_of hw rfl
  have i28 : μ.testBit 28 = true := bit_of hw rfl
  have i29 : μ.testBit 29 = true := bit_of hw rfl
  have i30 : μ.testBit 30 = true := bit_of hw rfl
  have i31 : μ.testBit 31 = true := bit_of hw rfl
  have i32 : μ.testBit 32 = true := bit_of hw rfl
  have i33 : μ.testBit 33 = true := bit_of hw rfl
  have i34 : μ.testBit 34 = true := bit_of hw rfl
  have i35 : μ.testBit 35 = true := bit_of hw rfl
  have i36 : μ.testBit 36 = true := bit_of hw rfl
  have i37 : μ.testBit 37 = true := bit_of hw rfl
  have i38 : μ.testBit 38 = true := bit_of hw rfl
  have i39 : μ.testBit 39 = true := bit_of hw rfl
  have i40 : μ.testBit 40 = true := bit_of hw rfl
  have i41 : μ.testBit 41 = true := bit_of hw rfl
  have i42 : μ.testBit 42 = true := bit_of hw rfl
  have i43 : μ.testBit 43 = true := bit_of hw rfl
  have i44 : μ.testBit 44 = true := bit_of hw rfl
  have i45 : μ.testBit 45 = true := bit_of hw rfl
  have i46 : μ.testBit 46 = true := bit_of hw rfl
  have i47 : μ.testBit 47 = true := bit_of hw rfl
  have i48 : μ.testBit 48 = true := bit_of hw rfl
  have i49 : μ.testBit 49 = true := bit_of hw rfl
  have i50 : μ.testBit 50 = true := bit_of hw rfl
  have i51 : μ.testBit 51 = true := bit_of hw rfl
  have i52 : μ.testBit 52 = true := bit_of hw rfl
  have i53 : μ.testBit 53 = true := bit_of hw rfl
  have i54 : μ.testBit 54 = true := bit_of hw rfl
  have i55 : μ.testBit 55 = true := bit_of hw rfl
  have i56 : μ.testBit 56 = true := bit_of hw rfl
  have i57 : μ.testBit 57 = true := bit_of hw rfl
  have i58 : μ.testBit 58 = true := bit_of hw rfl
  have i59 : μ.testBit 59 = true := bit_of hw rfl
  have i60 : μ.testBit 60 = true := bit_of hw rfl
  have i61 : μ.testBit 61 = true := bit_of hw rfl
  have i62 : μ.testBit 62 = true := bit_of hw rfl
  have i63 : μ.testBit 63 = true := bit_of hw rfl
  have i64 : μ.testBit 64 = true := bit_of hw rfl
  have i65 : μ.testBit 65 = true := bit_of hw rfl
  have i66 : μ.testBit 66 = true := bit_of hw rfl
  have i67 : μ.testBit 67 = true := bit_of hw rfl
  have i68 : μ.testBit 68 = true := bit_of hw rfl
  have i74 : μ.testBit 74 = true := bit_of hw rfl
  have i75 : μ.testBit 75 = true := bit_of hw rfl
  have i76 : μ.testBit 76 = true := bit_of hw rfl
  have i77 : μ.testBit 77 = true := bit_of hw rfl
  have i78 : μ.testBit 78 = true := bit_of hw rfl
  have i79 : μ.testBit 79 = true := bit_of hw rfl
  have i80 : μ.testBit 80 = true := bit_of hw rfl
  unfold execScheduledReset
  repeat' first
    | with_reducible assumption
    | (intro s; with_reducible refine (fun (hs : Kept μ s0 s) => ?_) ?_)
    | intro x
    | lift_lets
    | with_reducible refine kept_act k_act (fun s hs => ?_) ?_
    | with_reducible refine kept_modPwr k_modPwr (.inr i75) ?_
    | with_reducible refine kept_commandReset k_commandReset ?_
    | (fail_if_no_progress with_reducible refine Kept.mk' ?_  (h_tb := .inr ⟨i0, .inr i1, .inr i2, .inr i3⟩) (h_eth := .inr ⟨i4, .inr i5, .inr i6, .inr i7⟩) (h_ing := .inr ⟨i8, .inr i9, .inr i10⟩) (h_aln := .inr ⟨i11, .inr i12, .inr i13, .inr i14⟩) (h_svf := .inr i15) (h_osc := .inr i16) (h_isl := .inr i17) (h_sch := .inr ⟨i18, .inr i19, .inr i20, .inr i21⟩) (h_cap := .inr ⟨i22, .inr i23, .inr i24, .inr i25⟩) (h_mtr := .inr ⟨i26, .inr i27, .inr i28⟩) (h_tsk := .inr ⟨i29, .inr i30⟩) (h_arb := .inr i31) (h_pub := .inr ⟨i32, .inr i33, .inr i34, .inr i35⟩) (h_cfg := .inr ⟨i36, .inr i37, .inr i38, .inr i39, .inr i40, .inr i41⟩) (h_hp := .inr ⟨i42, .inr i43, .inr i44, .inr i45, .inr i46, .inr i47, .inr i48, .inr i49, .inr i50, .inr i51, .inr i52, .inr i53⟩) (h_pair := .inr ⟨i54, .inr i55, .inr i56, .inr i57⟩) (h_sec := .inr ⟨i58, .inr i59⟩) (h_nv := .inr ⟨i60, .inr i61, .inr i62, .inr i63, .inr i64, .inr i65, .inr i66, .inr i67⟩) (h_vbat := .inr ⟨i68, sm, sm, sm, sm⟩) (h_pwr := .inr ⟨i74, .inr i75⟩) (h_cnt := .inr i76) (h_limits := .inr i77) (h_evLog := .inr i78) (h_evLogSeq := .inr i79) (h_free := .inr i80))
    | split
    | with_reducible refine KeptOut.mk' ?_
    | dsimp +zetaDelta only

theorem kept_execCmdDumpInfo {μ : Nat} (hw : 906694365111194113540096 &&& μ = 906694365111194113540096) {s0 : State} {n : Nat} {s : State}  (kh : Kept μ s0 s) :
    KeptOut μ s0 (execCmdDumpInfo n s) := by
  have k_act : 0 &&& μ = 0 := sub_of hw rfl
  have k_complete : 906694365111194113540096 &&& μ = 906694365111194113540096 := sub_of hw rfl
  have k_runCmd : 906694365111194113540096 &&& μ = 906694365111194113540096 := sub_of hw rfl
  have i42 : μ.testBit 42 = true := bit_of hw rfl
  have i43 : μ.testBit 43 = true := bit_of hw rfl
  have i45 : μ.testBit 45 = true := bit_of hw rfl
  have i46 : μ.testBit 46 = true := bit_of hw rfl
  have i48 : μ.testBit 48 = true := bit_of hw rfl
  have i78 : μ.testBit 78 = true := bit_of hw rfl
  have i79 : μ.testBit 79 = true := bit_of hw rfl
  unfold execCmdDumpInfo
  repeat' first
    | with_reducible assumption
    | (intro s; with_reducible refine (fun (hs : Kept μ s0 s) => ?_) ?_)
    | intro x
    | lift_lets
    | with_reducible refine kept_act k_act (fun s hs => ?_) ?_
    | with_reducible refine kept_complete k_complete ?_
    | with_reducible refine kept_runCmd k_runCmd (fun r s hs => ?_) ?_
    | (fail_if_no_progress with_reducible refine Kept.mk' ?_  (h_hp := .inr ⟨i42, .inr i43, sm, .inr i45, .inr i46, sm, .inr i48, sm, sm, sm, sm, sm⟩) (h_evLog := .inr i78) (h_evLogSeq := .inr i79))
    | split
    | with_reducible refine KeptOut.mk' ?_
    | dsimp +zetaDelta only

theorem kept_execCmdDumpRead {μ : Nat} (hw : 906694365111194113540096 &&& μ = 906694365111194113540096) {s0 : State} {n : Nat} {ok : Bool} {s : State}  (kh : Kept μ s0 s) :
    KeptOut μ s0 (execCmdDumpRead n ok s) := by
  have k_act : 0 &&& μ = 0 := sub_of hw rfl
  have k_complete : 906694365111194113540096 &&& μ = 906694365111194113540096 := sub_of hw rfl
  have k_hostWrite : 285873023221760 &&& μ = 285873023221760 := sub_of hw rfl
  have k_runCmd : 906694365111194113540096 &&& μ = 906694365111194113540096 := sub_of hw rfl
  have i42 : μ.testBit 42 = true := bit_of hw rfl
  have i43 : μ.testBit 43 = true := bit_of hw rfl
  have i45 : μ.testBit 45 = true := bit_of hw rfl
  have i46 : μ.testBit 46 = true := bit_of hw rfl
  have i48 : μ.testBit 48 = true := bit_of hw rfl
  have i78 : μ.testBit 78 = true := bit_of hw rfl
  have i79 : μ.testBit 79 = true := bit_of hw rfl
  unfold execCmdDumpRead
  repeat' first
    | with_reducible assumption
    | (intro s; with_reducible refine (fun (hs : Kept μ s0 s) => ?_) ?_)
    | intro x
    | lift_lets
    | with_reducible refine kept_act k_act (fun s hs => ?_) ?_
    | with_reducible refine kept_complete k_complete ?_
    | with_reducible refine kept_runCmd k_runCmd (fun r s hs => ?_) ?_
    | with_reducible refine kept_hostWrite k_hostWrite ?_
    | (fail_if_no_progress with_reducible refine Kept.mk' ?_  (h_hp := .inr ⟨i42, .inr i43, sm, .inr i45, .inr i46, sm, .inr i48, sm, sm, sm, sm, sm⟩) (h_evLog := .inr i78) (h_evLogSeq := .inr i79))
    | split
    | with_reducible refine KeptOut.mk' ?_
    | dsimp +zetaDelta only

theorem kept_execCmdDumpRelease {μ : Nat} (hw : 906769305008993558593536 &&& μ = 906769305008993558593536) {s0 : State} {n : Nat} {s : State}  (kh : Kept μ s0 s) :
    KeptOut μ s0 (execCmdDumpRelease n s) := by
  have k_act : 0 &&& μ = 0 := sub_of hw rfl
  have k_complete : 906694365111194113540096 &&& μ = 906694365111194113540096 := sub_of hw rfl
  have k_runCmd : 906694365111194113540096 &&& μ = 906694365111194113540096 := sub_of hw rfl
  have i42 : μ.testBit 42 = true := bit_of hw rfl
  have i43 : μ.testBit 43 = true := bit_of hw rfl
  have i45 : μ.testBit 45 = true := bit_of hw rfl
  have i46 : μ.testBit 46 = true := bit_of hw rfl
  have i48 : μ.testBit 48 = true := bit_of hw rfl
  have i60 : μ.testBit 60 = true := bit_of hw rfl
  have i66 : μ.testBit 66 = true := bit_of hw rfl
  have i78 : μ.testBit 78 = true := bit_of hw rfl
  have i79 : μ.testBit 79 = true := bit_of hw rfl
  unfold execCmdDumpRelease
  repeat' first
    | with_reducible assumption
    | (intro s; with_reducible refine (fun (hs : Kept μ s0 s) => ?_) ?_)
    | intro x
    | lift_lets
    | with_reducible refine kept_act k_act (fun s hs => ?_) ?_
    | with_reducible refine kept_complete k_complete ?_
    | with_reducible refine kept_runCmd k_runCmd (fun r s hs => ?_) ?_
    | (fail_if_no_progress with_reducible refine Kept.mk' ?_  (h_hp := .inr ⟨i42, .inr i43, sm, .inr i45, .inr i46, sm, .inr i48, sm, sm, sm, sm, sm⟩) (h_nv := .inr ⟨i60, sm, sm, sm, sm, sm, .inr i66, sm⟩) (h_evLog := .inr i78) (h_evLogSeq := .inr i79))
    | split
    | with_reducible refine KeptOut.mk' ?_
    | dsimp +zetaDelta only

theorem kept_execTempThreshold {μ : Nat} (hw : 925583830717217252573184 &&& μ = 925583830717217252573184) {s0 : State} {temp : Int} {s : State}  (kh : Kept μ s0 s) :
    KeptOut μ s0 (execTempThreshold temp s) := by
  have k_act : 0 &&& μ = 0 := sub_of hw rfl
  have k_modPwr : 18889465931478580854784 &&& μ = 18889465931478580854784 := sub_of hw rfl
  have k_raise : 906694364785738671718400 &&& μ = 906694364785738671718400 := sub_of hw rfl
  have i42 : μ.testBit 42 = true := bit_of hw rfl
  have i46 : μ.testBit 46 = true := bit_of hw rfl
  have i74 : μ.testBit 74 = true := bit_of hw rfl
  have i78 : μ.testBit 78 = true := bit_of hw rfl
  have i79 : μ.testBit 79 = true := bit_of hw rfl
  unfold execTempThreshold
  repeat' first
    | with_reducible assumption
    | (intro s; with_reducible refine (fun (hs : Kept μ s0 s) => ?_) ?_)
    | intro x
    | lift_lets
    | with_reducible refine kept_act k_act (fun s hs => ?_) ?_
    | with_reducible refine kept_raise k_raise ?_
    | with_reducible refine kept_modPwr k_modPwr smf ?_
    | (fail_if_no_progress with_reducible refine Kept.mk' ?_  (h_hp := .inr ⟨i42, sm, sm, sm, .inr i46, sm, sm, sm, sm, sm, sm, sm⟩) (h_pwr := .inr ⟨i74, sm⟩) (h_evLog := .inr i78) (h_evLogSeq := .inr i79))
    | split
    | with_reducible refine KeptOut.mk' ?_
    | dsimp +zetaDelta only

theorem kept_execVinLowAlert {μ : Nat} (hw : 1076699558169045899411456 &&& μ = 1076699558169045899411456) {s0 : State} {mv : Nat} {s : State}  (kh : Kept μ s0 s) :
    KeptOut μ s0 (execVinLowAlert mv s) := by
  have k_act : 0 &&& μ = 0 := sub_of hw rfl
  have k_modPwr : 18889465931478580854784 &&& μ = 18889465931478580854784 := sub_of hw rfl
  have k_raise : 906694364785738671718400 &&& μ = 906694364785738671718400 := sub_of hw rfl
  have i42 : μ.testBit 42 = true := bit_of hw rfl
  have i46 : μ.testBit 46 = true := bit_of hw rfl
  have i74 : μ.testBit 74 = true := bit_of hw rfl
  have i77 : μ.testBit 77 = true := bit_of hw rfl
  have i78 : μ.testBit 78 = true := bit_of hw rfl
  have i79 : μ.testBit 79 = true := bit_of hw rfl
  unfold execVinLowAlert
  repeat' first
    | with_reducible assumption
    | (intro s; with_reducible refine (fun (hs : Kept μ s0 s) => ?_) ?_)
    | intro x
    | lift_lets
    | with_reducible refine kept_act k_act (fun s hs => ?_) ?_
    | with_reducible refine kept_raise k_raise ?_
    | with_reducible refine kept_modPwr k_modPwr smf ?_
    | (fail_if_no_progress with_reducible refine Kept.mk' ?_  (h_hp := .inr ⟨i42, sm, sm, sm, .inr i46, sm, sm, sm, sm, sm, sm, sm⟩) (h_pwr := .inr ⟨i74, sm⟩) (h_limits := .inr i77) (h_evLog := .inr i78) (h_evLogSeq := .inr i79))
    | split
    | with_reducible refine KeptOut.mk' ?_
    | dsimp +zetaDelta only

theorem kept_execTableParityReload {μ : Nat} (hw : 982252228520449088159744 &&& μ = 982252228520449088159744) {s0 : State} {t : Nat} {s : State}  (kh : Kept μ s0 s) :
    KeptOut μ s0 (execTableParityReload t s) := by
  have k_act : 0 &&& μ = 0 := sub_of hw rfl
  have k_count : 982252228520449088159744 &&& μ = 982252228520449088159744 := sub_of hw rfl
  have k_pwrFlag : 13194139533312 &&& μ = 13194139533312 := sub_of hw rfl
  have k_setFlag : 13194139533312 &&& μ = 13194139533312 := sub_of hw rfl
  unfold execTableParityReload
  repeat' first
    | with_reducible assumption
    | (intro s; with_reducible refine (fun (hs : Kept μ s0 s) => ?_) ?_)
    | intro x
    | lift_lets
    | with_reducible refine kept_act k_act (fun s hs => ?_) ?_
    | with_reducible refine kept_setFlag k_setFlag ?_
    | with_reducible refine kept_count k_count ?_
    | with_reducible refine kept_pwrFlag k_pwrFlag ?_
    | split
    | with_reducible refine KeptOut.mk' ?_
    | dsimp +zetaDelta only

theorem kept_transition {μ : Nat} (hw : 10334500136919624581120 &&& μ = 10334500136919624581120) {s0 : State} {t : List Byte} {s : State} (ne : s.fuses.lcCtr ≠ 64) (kh : Kept μ s0 s) :
    Kept μ s0 (transition t s) := by
  have k_rekey : 889767171180334153728 &&& μ = 889767171180334153728 := sub_of hw rfl
  have i58 : μ.testBit 58 = true := bit_of hw rfl
  have i59 : μ.testBit 59 = true := bit_of hw rfl
  have i60 : μ.testBit 60 = true := bit_of hw rfl
  have i61 : μ.testBit 61 = true := bit_of hw rfl
  have i68 : μ.testBit 68 = true := bit_of hw rfl
  have i69 : μ.testBit 69 = true := bit_of hw rfl
  have i73 : μ.testBit 73 = true := bit_of hw rfl
  have hs : ∀ f : Fuses, f.svn = s.fuses.svn → f.lcCtr = s.fuses.lcCtr + 1 → Kept μ s0 { s with fuses := f } := fun f e1 e2 =>
    ⟨kh.pending, kh.part, kh.hp, kh.push, kh.tick, by simpa [e1] using kh.svn, kh.bill, by have := kh.ctr; simp [e2]; omega,
      fun q => by have := kh.ctr64 q; simp [e2]; omega, kh.evl, kh.tlog, kh.fr.mk' (h_sec := .inr ⟨i58, .inr i59⟩) (h_nv := .inr ⟨i60, .inr i61, sm, sm, sm, sm, sm, sm⟩) (h_vbat := .inr ⟨i68, .inr i69, sm, sm, sm⟩) (h_fuses := .inr i73)⟩
  unfold transition
  dsimp only
  with_reducible refine Kept.mk' ?_  (h_sec := .inr ⟨i58, .inr i59⟩) (h_nv := .inr ⟨i60, .inr i61, sm, sm, sm, sm, sm, sm⟩) (h_vbat := .inr ⟨i68, .inr i69, sm, sm, sm⟩) (h_fuses := .inr i73)
  split
  · with_reducible refine Kept.mk' ?_  (h_sec := .inr ⟨i58, .inr i59⟩) (h_nv := .inr ⟨i60, .inr i61, sm, sm, sm, sm, sm, sm⟩) (h_vbat := .inr ⟨i68, .inr i69, sm, sm, sm⟩) (h_fuses := .inr i73)
    exact kept_rekey k_rekey (hs _ rfl rfl)
  · exact kept_rekey k_rekey (hs _ rfl rfl)


theorem kept_execCmdLcTransition {μ : Nat} (hw : 2409296961665075544850431 &&& μ = 2409296961665075544850431) {s0 : State} {n : Nat} {token : Option (List Byte)} {s : State}  (kh : Kept μ s0 s) :
    KeptOut μ s0 (execCmdLcTransition n token s) := by
  have k_act : 0 &&& μ = 0 := sub_of hw rfl
  have k_complete : 906694365111194113540096 &&& μ = 906694365111194113540096 := sub_of hw rfl
  have k_runCmd : 906694365111194113540096 &&& μ = 906694365111194113540096 := sub_of hw rfl
  have k_startReset : 2399259627045968335077375 &&& μ = 2399259627045968335077375 := sub_of hw rfl
  have k_transition : 10334500136919624581120 &&& μ = 10334500136919624581120 := sub_of hw rfl
  unfold execCmdLcTransition
  refine kept_act k_act (fun s hs => ?_) kh
  refine kept_runCmd k_runCmd (fun r s hs => ?_) hs
  split
  · exact kept_complete k_complete hs
  · rename_i ne
    split
    · exact kept_complete k_complete hs
    · dsimp only
      split
      · exact kept_startReset k_startReset (kept_transition k_transition ne hs)
      · exact kept_complete k_complete hs

theorem kept_execCmdFwActivate {μ : Nat} (hw : 2399264238731986762465279 &&& μ = 2399264238731986762465279) {s0 : State} {n : Nat} {s : State}  (kh : Kept μ s0 s) :
    KeptOut μ s0 (execCmdFwActivate n s) := by
  have k_act : 0 &&& μ = 0 := sub_of hw rfl
  have k_complete : 906694365111194113540096 &&& μ = 906694365111194113540096 := sub_of hw rfl
  have k_fwEvent : 906694364785738671718400 &&& μ = 906694364785738671718400 := sub_of hw rfl
  have k_fwRefuse : 906694365111194113540096 &&& μ = 906694365111194113540096 := sub_of hw rfl
  have k_modOtherFw : 5764607523034234880 &&& μ = 5764607523034234880 := sub_of hw rfl
  have k_runCmd : 906694365111194113540096 &&& μ = 906694365111194113540096 := sub_of hw rfl
  have k_startReset : 2399259627045968335077375 &&& μ = 2399259627045968335077375 := sub_of hw rfl
  have i0 : μ.testBit 0 = true := bit_of hw rfl
  have i1 : μ.testBit 1 = true := bit_of hw rfl
  have i2 : μ.testBit 2 = true := bit_of hw rfl
  have i3 : μ.testBit 3 = true := bit_of hw rfl
  have i4 : μ.testBit 4 = true := bit_of hw rfl
  have i5 : μ.testBit 5 = true := bit_of hw rfl
  have i6 : μ.testBit 6 = true := bit_of hw rfl
  have i7 : μ.testBit 7 = true := bit_of hw rfl
  have i8 : μ.testBit 8 = true := bit_of hw rfl
  have i9 : μ.testBit 9 = true := bit_of hw rfl
  have i10 : μ.testBit 10 = true := bit_of hw rfl
  have i11 : μ.testBit 11 = true := bit_of hw rfl
  have i12 : μ.testBit 12 = true := bit_of hw rfl
  have i13 : μ.testBit 13 = true := bit_of hw rfl
  have i14 : μ.testBit 14 = true := bit_of hw rfl
  have i15 : μ.testBit 15 = true := bit_of hw rfl
  have i16 : μ.testBit 16 = true := bit_of hw rfl
  have i17 : μ.testBit 17 = true := bit_of hw rfl
  have i18 : μ.testBit 18 = true := bit_of hw rfl
  have i19 : μ.testBit 19 = true := bit_of hw rfl
  have i20 : μ.testBit 20 = true := bit_of hw rfl
  have i21 : μ.testBit 21 = true := bit_of hw rfl
  have i22 : μ.testBit 22 = true := bit_of hw rfl
  have i23 : μ.testBit 23 = true := bit_of hw rfl
  have i24 : μ.testBit 24 = true := bit_of hw rfl
  have i25 : μ.testBit 25 = true := bit_of hw rfl
  have i26 : μ.testBit 26 = true := bit_of hw rfl
  have i27 : μ.testBit 27 = true := bit_of hw rfl
  have i28 : μ.testBit 28 = true := bit_of hw rfl
  have i29 : μ.testBit 29 = true := bit_of hw rfl
  have i30 : μ.testBit 30 = true := bit_of hw rfl
  have i31 : μ.testBit 31 = true := bit_of hw rfl
  have i32 : μ.testBit 32 = true := bit_of hw rfl
  have i33 : μ.testBit 33 = true := bit_of hw rfl
  have i34 : μ.testBit 34 = true := bit_of hw rfl
  have i35 : μ.testBit 35 = true := bit_of hw rfl
  have i36 : μ.testBit 36 = true := bit_of hw rfl
  have i37 : μ.testBit 37 = true := bit_of hw rfl
  have i38 : μ.testBit 38 = true := bit_of hw rfl
  have i39 : μ.testBit 39 = true := bit_of hw rfl
  have i40 : μ.testBit 40 = true := bit_of hw rfl
  have i41 : μ.testBit 41 = true := bit_of hw rfl
  have i42 : μ.testBit 42 = true := bit_of hw rfl
  have i43 : μ.testBit 43 = true := bit_of hw rfl
  have i44 : μ.testBit 44 = true := bit_of hw rfl
  have i45 : μ.testBit 45 = true := bit_of hw rfl
  have i46 : μ.testBit 46 = true := bit_of hw rfl
  have i47 : μ.testBit 47 = true := bit_of hw rfl
  have i48 : μ.testBit 48 = true := bit_of hw rfl
  have i49 : μ.testBit 49 = true := bit_of hw rfl
  have i50 : μ.testBit 50 = true := bit_of hw rfl
  have i51 : μ.testBit 51 = true := bit_of hw rfl
  have i52 : μ.testBit 52 = true := bit_of hw rfl
  have i53 : μ.testBit 53 = true := bit_of hw rfl
  have i54 : μ.testBit 54 = true := bit_of hw rfl
  have i55 : μ.testBit 55 = true := bit_of hw rfl
  have i56 : μ.testBit 56 = true := bit_of hw rfl
  have i57 : μ.testBit 57 = true := bit_of hw rfl
  have i58 : μ.testBit 58 = true := bit_of hw rfl
  have i59 : μ.testBit 59 = true := bit_of hw rfl
  have i60 : μ.testBit 60 = true := bit_of hw rfl
  have i62 : μ.testBit 62 = true := bit_of hw rfl
  have i68 : μ.testBit 68 = true := bit_of hw rfl
  have i74 : μ.testBit 74 = true := bit_of hw rfl
  have i75 : μ.testBit 75 = true := bit_of hw rfl
  have i76 : μ.testBit 76 = true := bit_of hw rfl
  have i77 : μ.testBit 77 = true := bit_of hw rfl
  have i78 : μ.testBit 78 = true := bit_of hw rfl
  have i79 : μ.testBit 79 = true := bit_of hw rfl
  have i80 : μ.testBit 80 = true := bit_of hw rfl
  unfold execCmdFwActivate
  repeat' first
    | with_reducible assumption
    | (intro s; with_reducible refine (fun (hs : Kept μ s0 s) => ?_) ?_)
    | intro x
    | lift_lets
    | with_reducible refine kept_act k_act (fun s hs => ?_) ?_
    | with_reducible refine kept_complete k_complete ?_
    | with_reducible refine kept_runCmd k_runCmd (fun r s hs => ?_) ?_
    | with_reducible refine kept_fwEvent k_fwEvent ?_
    | with_reducible refine kept_fwRefuse k_fwRefuse ?_
    | with_reducible refine kept_modOtherFw k_modOtherFw ?_
    | with_reducible refine kept_startReset k_startReset ?_
    | (fail_if_no_progress with_reducible refine Kept.mk' ?_  (h_tb := .inr ⟨i0, .inr i1, .inr i2, .inr i3⟩) (h_eth := .inr ⟨i4, .inr i5, .inr i6, .inr i7⟩) (h_ing := .inr ⟨i8, .inr i9, .inr i10⟩) (h_aln := .inr ⟨i11, .inr i12, .inr i13, .inr i14⟩) (h_svf := .inr i15) (h_osc := .inr i16) (h_isl := .inr i17) (h_sch := .inr ⟨i18, .inr i19, .inr i20, .inr i21⟩) (h_cap := .inr ⟨i22, .inr i23, .inr i24, .inr i25⟩) (h_mtr := .inr ⟨i26, .inr i27, .inr i28⟩) (h_tsk := .inr ⟨i29, .inr i30⟩) (h_arb := .inr i31) (h_pub := .inr ⟨i32, .inr i33, .inr i34, .inr i35⟩) (h_cfg := .inr ⟨i36, .inr i37, .inr i38, .inr i39, .inr i40, .inr i41⟩) (h_hp := .inr ⟨i42, .inr i43, .inr i44, .inr i45, .inr i46, .inr i47, .inr i48, .inr i49, .inr i50, .inr i51, .inr i52, .inr i53⟩) (h_pair := .inr ⟨i54, .inr i55, .inr i56, .inr i57⟩) (h_sec := .inr ⟨i58, .inr i59⟩) (h_nv := .inr ⟨i60, sm, .inr i62, sm, sm, sm, sm, sm⟩) (h_vbat := .inr ⟨i68, sm, sm, sm, sm⟩) (h_pwr := .inr ⟨i74, .inr i75⟩) (h_cnt := .inr i76) (h_limits := .inr i77) (h_evLog := .inr i78) (h_evLogSeq := .inr i79) (h_free := .inr i80))
    | split
    | with_reducible refine KeptOut.mk' ?_
    | dsimp +zetaDelta only

theorem kept_execFwActivateReset {μ : Nat} (hw : 2399259627045968335077375 &&& μ = 2399259627045968335077375) {s0 : State} {s : State}  (kh : Kept μ s0 s) :
    KeptOut μ s0 (execFwActivateReset s) := by
  have k_act : 0 &&& μ = 0 := sub_of hw rfl
  have k_startReset : 2399259627045968335077375 &&& μ = 2399259627045968335077375 := sub_of hw rfl
  have i0 : μ.testBit 0 = true := bit_of hw rfl
  have i1 : μ.testBit 1 = true := bit_of hw rfl
  have i2 : μ.testBit 2 = true := bit_of hw rfl
  have i3 : μ.testBit 3 = true := bit_of hw rfl
  have i4 : μ.testBit 4 = true := bit_of hw rfl
  have i5 : μ.testBit 5 = true := bit_of hw rfl
  have i6 : μ.testBit 6 = true := bit_of hw rfl
  have i7 : μ.testBit 7 = true := bit_of hw rfl
  have i8 : μ.testBit 8 = true := bit_of hw rfl
  have i9 : μ.testBit 9 = true := bit_of hw rfl
  have i10 : μ.testBit 10 = true := bit_of hw rfl
  have i11 : μ.testBit 11 = true := bit_of hw rfl
  have i12 : μ.testBit 12 = true := bit_of hw rfl
  have i13 : μ.testBit 13 = true := bit_of hw rfl
  have i14 : μ.testBit 14 = true := bit_of hw rfl
  have i15 : μ.testBit 15 = true := bit_of hw rfl
  have i16 : μ.testBit 16 = true := bit_of hw rfl
  have i17 : μ.testBit 17 = true := bit_of hw rfl
  have i18 : μ.testBit 18 = true := bit_of hw rfl
  have i19 : μ.testBit 19 = true := bit_of hw rfl
  have i20 : μ.testBit 20 = true := bit_of hw rfl
  have i21 : μ.testBit 21 = true := bit_of hw rfl
  have i22 : μ.testBit 22 = true := bit_of hw rfl
  have i23 : μ.testBit 23 = true := bit_of hw rfl
  have i24 : μ.testBit 24 = true := bit_of hw rfl
  have i25 : μ.testBit 25 = true := bit_of hw rfl
  have i26 : μ.testBit 26 = true := bit_of hw rfl
  have i27 : μ.testBit 27 = true := bit_of hw rfl
  have i28 : μ.testBit 28 = true := bit_of hw rfl
  have i29 : μ.testBit 29 = true := bit_of hw rfl
  have i30 : μ.testBit 30 = true := bit_of hw rfl
  have i31 : μ.testBit 31 = true := bit_of hw rfl
  have i32 : μ.testBit 32 = true := bit_of hw rfl
  have i33 : μ.testBit 33 = true := bit_of hw rfl
  have i34 : μ.testBit 34 = true := bit_of hw rfl
  have i35 : μ.testBit 35 = true := bit_of hw rfl
  have i36 : μ.testBit 36 = true := bit_of hw rfl
  have i37 : μ.testBit 37 = true := bit_of hw rfl
  have i38 : μ.testBit 38 = true := bit_of hw rfl
  have i39 : μ.testBit 39 = true := bit_of hw rfl
  have i40 : μ.testBit 40 = true := bit_of hw rfl
  have i41 : μ.testBit 41 = true := bit_of hw rfl
  have i42 : μ.testBit 42 = true := bit_of hw rfl
  have i43 : μ.testBit 43 = true := bit_of hw rfl
  have i44 : μ.testBit 44 = true := bit_of hw rfl
  have i45 : μ.testBit 45 = true := bit_of hw rfl
  have i46 : μ.testBit 46 = true := bit_of hw rfl
  have i47 : μ.testBit 47 = true := bit_of hw rfl
  have i48 : μ.testBit 48 = true := bit_of hw rfl
  have i49 : μ.testBit 49 = true := bit_of hw rfl
  have i50 : μ.testBit 50 = true := bit_of hw rfl
  have i51 : μ.testBit 51 = true := bit_of hw rfl
  have i52 : μ.testBit 52 = true := bit_of hw rfl
  have i53 : μ.testBit 53 = true := bit_of hw rfl
  have i54 : μ.testBit 54 = true := bit_of hw rfl
  have i55 : μ.testBit 55 = true := bit_of hw rfl
  have i56 : μ.testBit 56 = true := bit_of hw rfl
  have i57 : μ.testBit 57 = true := bit_of hw rfl
  have i58 : μ.testBit 58 = true := bit_of hw rfl
  have i59 : μ.testBit 59 = true := bit_of hw rfl
  have i60 : μ.testBit 60 = true := bit_of hw rfl
  have i68 : μ.testBit 68 = true := bit_of hw rfl
  have i74 : μ.testBit 74 = true := bit_of hw rfl
  have i75 : μ.testBit 75 = true := bit_of hw rfl
  have i76 : μ.testBit 76 = true := bit_of hw rfl
  have i77 : μ.testBit 77 = true := bit_of hw rfl
  have i78 : μ.testBit 78 = true := bit_of hw rfl
  have i79 : μ.testBit 79 = true := bit_of hw rfl
  have i80 : μ.testBit 80 = true := bit_of hw rfl
  unfold execFwActivateReset
  repeat' first
    | with_reducible assumption
    | (intro s; with_reducible refine (fun (hs : Kept μ s0 s) => ?_) ?_)
    | intro x
    | lift_lets
    | with_reducible refine kept_act k_act (fun s hs => ?_) ?_
    | with_reducible refine kept_startReset k_startReset ?_
    | (fail_if_no_progress with_reducible refine Kept.mk' ?_  (h_tb := .inr ⟨i0, .inr i1, .inr i2, .inr i3⟩) (h_eth := .inr ⟨i4, .inr i5, .inr i6, .inr i7⟩) (h_ing := .inr ⟨i8, .inr i9, .inr i10⟩) (h_aln := .inr ⟨i11, .inr i12, .inr i13, .inr i14⟩) (h_svf := .inr i15) (h_osc := .inr i16) (h_isl := .inr i17) (h_sch := .inr ⟨i18, .inr i19, .inr i20, .inr i21⟩) (h_cap := .inr ⟨i22, .inr i23, .inr i24, .inr i25⟩) (h_mtr := .inr ⟨i26, .inr i27, .inr i28⟩) (h_tsk := .inr ⟨i29, .inr i30⟩) (h_arb := .inr i31) (h_pub := .inr ⟨i32, .inr i33, .inr i34, .inr i35⟩) (h_cfg := .inr ⟨i36, .inr i37, .inr i38, .inr i39, .inr i40, .inr i41⟩) (h_hp := .inr ⟨i42, .inr i43, .inr i44, .inr i45, .inr i46, .inr i47, .inr i48, .inr i49, .inr i50, .inr i51, .inr i52, .inr i53⟩) (h_pair := .inr ⟨i54, .inr i55, .inr i56, .inr i57⟩) (h_sec := .inr ⟨i58, .inr i59⟩) (h_nv := .inr ⟨i60, sm, sm, sm, sm, sm, sm, sm⟩) (h_vbat := .inr ⟨i68, sm, sm, sm, sm⟩) (h_pwr := .inr ⟨i74, .inr i75⟩) (h_cnt := .inr i76) (h_limits := .inr i77) (h_evLog := .inr i78) (h_evLogSeq := .inr i79) (h_free := .inr i80))
    | split
    | with_reducible refine KeptOut.mk' ?_
    | dsimp +zetaDelta only

end Sys2Proof.Machine
end

