-- ==== Sys2Proof/Laws/KeptSamples.lean ====
section
/-!
SUPPORT. Sys2Proof/Laws/KeptSamples.lean: every operation of Samples.lean keeps what no command changes, and the parts that it does not write (Kept.lean).
-/
set_option Elab.async false
set_option linter.unusedTactic false
set_option linter.unreachableTactic false
set_option linter.unusedVariables false
namespace Sys2Proof.Machine

theorem kept_execSvFrameRx {μ : Nat} (hw : 1133369108893782543204465 &&& μ = 1133369108893782543204465) {s0 : State} {s : State}  (kh : Kept μ s0 s) :
    KeptOut μ s0 (execSvFrameRx s) := by
  have k_act : 0 &&& μ = 0 := sub_of hw rfl
  have k_pqAll : 982253381441953896333312 &&& μ = 982253381441953896333312 := sub_of hw rfl
  have k_svFrame : 1133367955972277735030784 &&& μ = 1133367955972277735030784 := sub_of hw rfl
  have k_takeHanded : 113 &&& μ = 113 := sub_of hw rfl
  have i0 : μ.testBit 0 = true := bit_of hw rfl
  have i4 : μ.testBit 4 = true := bit_of hw rfl
  have i5 : μ.testBit 5 = true := bit_of hw rfl
  have i6 : μ.testBit 6 = true := bit_of hw rfl
  have i15 : μ.testBit 15 = true := bit_of hw rfl
  have i26 : μ.testBit 26 = true := bit_of hw rfl
  have i27 : μ.testBit 27 = true := bit_of hw rfl
  have i42 : μ.testBit 42 = true := bit_of hw rfl
  have i43 : μ.testBit 43 = true := bit_of hw rfl
  have i46 : μ.testBit 46 = true := bit_of hw rfl
  have i60 : μ.testBit 60 = true := bit_of hw rfl
  have i76 : μ.testBit 76 = true := bit_of hw rfl
  have i77 : μ.testBit 77 = true := bit_of hw rfl
  have i78 : μ.testBit 78 = true := bit_of hw rfl
  have i79 : μ.testBit 79 = true := bit_of hw rfl
  unfold execSvFrameRx
  repeat' first
    | with_reducible assumption
    | (intro s; with_reducible refine (fun (hs : Kept μ s0 s) => ?_) ?_)
    | intro x
    | lift_lets
    | with_reducible refine kept_act k_act (fun s hs => ?_) ?_
    | with_reducible refine kept_takeHanded k_takeHanded ?_
    | with_reducible refine kept_svFrame k_svFrame ?_
    | with_reducible refine kept_pqAll k_pqAll ?_
    | with_reducible refine KeptOS.eq (by with_reducible assumption) ?_
    | (fail_if_no_progress with_reducible refine Kept.mk' ?_  (h_tb := .inr ⟨i0, sm, sm, sm⟩) (h_eth := .inr ⟨i4, .inr i5, .inr i6, sm⟩) (h_svf := .inr i15) (h_mtr := .inr ⟨i26, .inr i27, sm⟩) (h_hp := .inr ⟨i42, .inr i43, sm, sm, .inr i46, sm, sm, sm, sm, sm, sm, sm⟩) (h_nv := .inr ⟨i60, sm, sm, sm, sm, sm, sm, sm⟩) (h_cnt := .inr i76) (h_limits := .inr i77) (h_evLog := .inr i78) (h_evLogSeq := .inr i79))
    | split
    | with_reducible refine KeptOut.mk' ?_
    | dsimp +zetaDelta only

theorem kept_execSvMaxAgeExpiry {μ : Nat} (hw : 1133369108893782543204353 &&& μ = 1133369108893782543204353) {s0 : State} {n ns : Nat} {s : State}  (kh : Kept μ s0 s) :
    KeptOut μ s0 (execSvMaxAgeExpiry n ns s) := by
  have k_act : 0 &&& μ = 0 := sub_of hw rfl
  have k_expireSv : 1133367955972277735030784 &&& μ = 1133367955972277735030784 := sub_of hw rfl
  have k_pqAll : 982253381441953896333312 &&& μ = 982253381441953896333312 := sub_of hw rfl
  have k_seen : 1 &&& μ = 1 := sub_of hw rfl
  unfold execSvMaxAgeExpiry
  repeat' first
    | with_reducible assumption
    | (intro s; with_reducible refine (fun (hs : Kept μ s0 s) => ?_) ?_)
    | intro x
    | lift_lets
    | with_reducible refine kept_act k_act (fun s hs => ?_) ?_
    | with_reducible refine kept_seen k_seen ?_
    | with_reducible refine kept_expireSv k_expireSv ?_
    | with_reducible refine kept_pqAll k_pqAll ?_
    | split
    | with_reducible refine KeptOut.mk' ?_
    | dsimp +zetaDelta only

theorem kept_writeBay {μ : Nat} (hw : 1133367958241716986097408 &&& μ = 1133367958241716986097408) {s0 : State} {k : ReadCheck} {b i arr : Nat} {s : State}  (kh : Kept μ s0 s) :
    Kept μ s0 (writeBay k b i arr s) := by
  have k_bayWritten : 982252228520449088192512 &&& μ = 982252228520449088192512 := sub_of hw rfl
  have k_pruneRecs : 1280 &&& μ = 1280 := sub_of hw rfl
  have k_scheduleRec : 1280 &&& μ = 1280 := sub_of hw rfl
  have k_writeRec : 1133367958241716986064640 &&& μ = 1133367958241716986064640 := sub_of hw rfl
  unfold writeBay
  repeat' first
    | with_reducible assumption
    | (intro s; with_reducible refine (fun (hs : Kept μ s0 s) => ?_) ?_)
    | intro x
    | lift_lets
    | with_reducible refine kept_pruneRecs k_pruneRecs ?_
    | with_reducible refine kept_scheduleRec k_scheduleRec ?_
    | with_reducible refine kept_bayWritten k_bayWritten ?_
    | with_reducible refine kept_writeRec k_writeRec ?_
    | split
    | dsimp +zetaDelta only

theorem kept_execBayRecordWrite {μ : Nat} (hw : 1133367958241716986097408 &&& μ = 1133367958241716986097408) {s0 : State} {b i : Nat} {s : State} {k : ReadCheck}  (kh : Kept μ s0 s) :
    KeptOut μ s0 (execBayRecordWrite b i s k) := by
  have k_act : 0 &&& μ = 0 := sub_of hw rfl
  have k_writeBay : 1133367958241716986097408 &&& μ = 1133367958241716986097408 := sub_of hw rfl
  unfold execBayRecordWrite
  repeat' first
    | with_reducible assumption
    | (intro s; with_reducible refine (fun (hs : Kept μ s0 s) => ?_) ?_)
    | intro x
    | lift_lets
    | with_reducible refine kept_act k_act (fun s hs => ?_) ?_
    | with_reducible refine kept_writeBay k_writeBay ?_
    | split
    | with_reducible refine KeptOut.mk' ?_
    | dsimp +zetaDelta only

theorem kept_execBayLatencyDeadline {μ : Nat} (hw : 1133367958241716986097409 &&& μ = 1133367958241716986097409) {s0 : State} {b i ns : Nat} {s : State} {k : ReadCheck}  (kh : Kept μ s0 s) :
    KeptOut μ s0 (execBayLatencyDeadline b i ns s k) := by
  have k_act : 0 &&& μ = 0 := sub_of hw rfl
  have k_seen : 1 &&& μ = 1 := sub_of hw rfl
  have k_writeBay : 1133367958241716986097408 &&& μ = 1133367958241716986097408 := sub_of hw rfl
  unfold execBayLatencyDeadline
  repeat' first
    | with_reducible assumption
    | (intro s; with_reducible refine (fun (hs : Kept μ s0 s) => ?_) ?_)
    | intro x
    | lift_lets
    | with_reducible refine kept_act k_act (fun s hs => ?_) ?_
    | with_reducible refine kept_seen k_seen ?_
    | with_reducible refine kept_writeBay k_writeBay ?_
    | split
    | with_reducible refine KeptOut.mk' ?_
    | dsimp +zetaDelta only

end Sys2Proof.Machine
end

