-- ==== Sys2Proof/Laws/KeptActivation.lean ====
section
/-!
SUPPORT. Sys2Proof/Laws/KeptActivation.lean: every operation of Activation.lean keeps what no command changes, and the parts that it does not write (Kept.lean).
-/
set_option Elab.async false
set_option linter.unusedTactic false
set_option linter.unreachableTactic false
set_option linter.unusedVariables false
namespace Sys2Proof.Machine

theorem kept_after {μ : Nat} (hw : 0 &&& μ = 0) {s0 : State} {f : State → Out} {s : State} (h_f : ∀ s, Kept μ s0 s → KeptOut μ s0 (f s)) (kh : Kept μ s0 s) :
    Kept μ s0 (after f s) := by
  unfold after
  have := h_f _ kh
  split
  · exact this.out _ (by assumption)
  · exact kh

theorem kept_settle {μ : Nat} {s0 : State} {k : Nat} {f : State → State} {s : State} (h_f : ∀ s, Kept μ s0 s → Kept μ s0 (f s)) (kh : Kept μ s0 s) :
    Kept μ s0 (settle k f s) := by
  induction k generalizing s
  · exact kh
  rename_i ih
  unfold settle
  dsimp only
  split
  · exact kh
  · exact ih (h_f _ kh)


theorem kept_drainRec {μ : Nat} (hw : 1133367962762861611075632 &&& μ = 1133367962762861611075632) {s0 : State} {r : Nat} {s : State}  (kh : Kept μ s0 s) :
    Kept μ s0 (drainRec r s) := by
  have k_after : 0 &&& μ = 0 := sub_of hw rfl
  have k_execCaptureSampleWrite : 1133367962762861611075632 &&& μ = 1133367962762861611075632 := sub_of hw rfl
  unfold drainRec
  repeat' first
    | with_reducible assumption
    | (intro s; with_reducible refine (fun (hs : Kept μ s0 s) => ?_) ?_)
    | intro x
    | lift_lets
    | with_reducible refine kept_execCaptureSampleWrite k_execCaptureSampleWrite ?_
    | with_reducible refine kept_after k_after (fun s hs => ?_) ?_
    | with_reducible refine kept_settle (fun s hs => ?_) ?_
    | split
    | dsimp +zetaDelta only

theorem kept_closeBefore {μ : Nat} (hw : 982252228520449090525184 &&& μ = 982252228520449090525184) {s0 : State} {g t : Nat} {s : State}  (kh : Kept μ s0 s) :
    Kept μ s0 (closeBefore g t s) := by
  have k_after : 0 &&& μ = 0 := sub_of hw rfl
  have k_execWindowClose : 982252228520449090525184 &&& μ = 982252228520449090525184 := sub_of hw rfl
  unfold closeBefore
  repeat' first
    | with_reducible assumption
    | (intro s; with_reducible refine (fun (hs : Kept μ s0 s) => ?_) ?_)
    | intro x
    | lift_lets
    | with_reducible refine kept_execWindowClose k_execWindowClose ?_
    | with_reducible refine kept_after k_after (fun s hs => ?_) ?_
    | split
    | dsimp +zetaDelta only

theorem kept_drainRound {μ : Nat} (hw : 2342470179385335537991537 &&& μ = 2342470179385335537991537) {s0 : State} {t : Nat} {s : State}  (kh : Kept μ s0 s) :
    Kept μ s0 (drainRound t s) := by
  have k_after : 0 &&& μ = 0 := sub_of hw rfl
  have k_closeBefore : 982252228520449090525184 &&& μ = 982252228520449090525184 := sub_of hw rfl
  have k_execAlignedSetSeal : 1133367958224124800105728 &&& μ = 1133367958224124800105728 := sub_of hw rfl
  have k_execCaptureSampleWrite : 1133367962762861611075632 &&& μ = 1133367962762861611075632 := sub_of hw rfl
  have k_execCfgFrameRx : 982252233059233087619953 &&& μ = 982252233059233087619953 := sub_of hw rfl
  have k_execCycleClose : 2342322600876322364325888 &&& μ = 2342322600876322364325888 := sub_of hw rfl
  have k_execDataFrameRx : 982400959933327370880881 &&& μ = 982400959933327370880881 := sub_of hw rfl
  have k_execGooseMessageRx : 1133367955972277735784561 &&& μ = 1133367955972277735784561 := sub_of hw rfl
  have k_execHeaderFrameRx : 982252228520449088160625 &&& μ = 982252228520449088160625 := sub_of hw rfl
  have k_execIngestRecordWrite : 1133367958241716986064640 &&& μ = 1133367958241716986064640 := sub_of hw rfl
  have k_execIslandEvaluation : 1133367958224116207732737 &&& μ = 1133367958224116207732737 := sub_of hw rfl
  have k_execModeFamilyEvaluation : 982252230772287560828928 &&& μ = 982252230772287560828928 := sub_of hw rfl
  have k_execOutputFrameAssemble : 1133367960511074619377712 &&& μ = 1133367960511074619377712 := sub_of hw rfl
  have k_execRsvSpduRx : 1133516682846372018259825 &&& μ = 1133516682846372018259825 := sub_of hw rfl
  have k_execScanRun : 1133367955972316397830144 &&& μ = 1133367955972316397830144 := sub_of hw rfl
  have k_execScanSnapshot : 982252228520449090537472 &&& μ = 982252228520449090537472 := sub_of hw rfl
  have k_execSignalUpdate : 1133367958224124799970560 &&& μ = 1133367958224124799970560 := sub_of hw rfl
  have k_execSvFrameRx : 1133369108893782543204465 &&& μ = 1133369108893782543204465 := sub_of hw rfl
  unfold drainRound
  have key : ∀ (l : List (State → Out)), (∀ f ∈ l, ∀ s, Kept μ s0 s → KeptOut μ s0 (f s)) → ∀ s, Kept μ s0 s →
      Kept μ s0 (l.foldl (fun s f => after f s) s) := by
    intro l
    induction l with
    | nil => exact fun _ s hs => hs
    | cons f l ih =>
      intro hf s hs
      exact ih (fun g hg => hf g (List.mem_cons_of_mem _ hg)) _ (kept_after k_after (hf f List.mem_cons_self) hs)
  refine kept_foldl (fun s x hs => kept_after k_after (fun s hs => kept_execOutputFrameAssemble k_execOutputFrameAssemble hs) hs) ?_
  refine kept_foldl (fun s x hs => kept_after k_after (fun s hs => kept_execCycleClose k_execCycleClose hs) hs) ?_
  refine kept_foldl (fun s x hs => kept_after k_after (fun s hs => kept_execCaptureSampleWrite k_execCaptureSampleWrite hs) hs) ?_
  refine kept_after k_after (fun s hs => kept_execScanRun k_execScanRun hs) ?_
  refine kept_foldl (fun s x hs => kept_after k_after (fun s hs => kept_execScanSnapshot k_execScanSnapshot hs) hs) ?_
  refine kept_foldl (fun s x hs => kept_after k_after (fun s hs => kept_execIslandEvaluation k_execIslandEvaluation hs) hs) ?_
  refine kept_foldl (fun s x hs => kept_after k_after (fun s hs => kept_execModeFamilyEvaluation k_execModeFamilyEvaluation hs) hs) ?_
  refine kept_foldl (fun s x hs => kept_after k_after (fun s hs => kept_execSignalUpdate k_execSignalUpdate hs) hs) ?_
  refine kept_foldl (fun s x hs => kept_after k_after (fun s hs => kept_execAlignedSetSeal k_execAlignedSetSeal hs) hs) ?_
  refine kept_foldl (fun s x hs => kept_closeBefore k_closeBefore hs) ?_
  refine key _ ?_ _ kh
  intro f hf
  simp only [List.mem_cons, List.not_mem_nil, or_false] at hf
  rcases hf with rfl | rfl | rfl | rfl | rfl | rfl | rfl
  · exact fun s hs => kept_execCfgFrameRx k_execCfgFrameRx hs
  · exact fun s hs => kept_execHeaderFrameRx k_execHeaderFrameRx hs
  · exact fun s hs => kept_execRsvSpduRx k_execRsvSpduRx hs
  · exact fun s hs => kept_execDataFrameRx k_execDataFrameRx hs
  · exact fun s hs => kept_execSvFrameRx k_execSvFrameRx hs
  · exact fun s hs => kept_execIngestRecordWrite k_execIngestRecordWrite hs
  · exact fun s hs => kept_execGooseMessageRx k_execGooseMessageRx hs

theorem kept_drain {μ : Nat} (hw : 2342470179385335537991537 &&& μ = 2342470179385335537991537) {s0 : State} {t : Nat} {s : State}  (kh : Kept μ s0 s) :
    Kept μ s0 (drain t s) := by
  have k_drainRound : 2342470179385335537991537 &&& μ = 2342470179385335537991537 := sub_of hw rfl
  unfold drain
  repeat' first
    | with_reducible assumption
    | (intro s; with_reducible refine (fun (hs : Kept μ s0 s) => ?_) ?_)
    | intro x
    | lift_lets
    | with_reducible refine kept_settle (fun s hs => ?_) ?_
    | with_reducible refine kept_drainRound k_drainRound ?_
    | split
    | dsimp +zetaDelta only

theorem kept_groupRestart {μ : Nat} (hw : 982252228520449088165888 &&& μ = 982252228520449088165888) {s0 : State} {t : Nat} {e : Nat × Nat} {s : State}  (kh : Kept μ s0 s) :
    Kept μ s0 (groupRestart t e s) := by
  have k_alnFlag : 13194139533312 &&& μ = 13194139533312 := sub_of hw rfl
  have k_grpCountN : 982252228520449088159744 &&& μ = 982252228520449088159744 := sub_of hw rfl
  have k_grpWait : 6144 &&& μ = 6144 := sub_of hw rfl
  have k_modGrp : 6144 &&& μ = 6144 := sub_of hw rfl
  have k_raise : 906694364785738671718400 &&& μ = 906694364785738671718400 := sub_of hw rfl
  have i11 : μ.testBit 11 = true := bit_of hw rfl
  have i12 : μ.testBit 12 = true := bit_of hw rfl
  have i42 : μ.testBit 42 = true := bit_of hw rfl
  have i43 : μ.testBit 43 = true := bit_of hw rfl
  have i46 : μ.testBit 46 = true := bit_of hw rfl
  have i76 : μ.testBit 76 = true := bit_of hw rfl
  have i78 : μ.testBit 78 = true := bit_of hw rfl
  have i79 : μ.testBit 79 = true := bit_of hw rfl
  unfold groupRestart
  repeat' first
    | with_reducible assumption
    | (intro s; with_reducible refine (fun (hs : Kept μ s0 s) => ?_) ?_)
    | intro x
    | lift_lets
    | with_reducible refine kept_raise k_raise ?_
    | with_reducible refine kept_alnFlag k_alnFlag ?_
    | with_reducible refine kept_modGrp k_modGrp ?_
    | with_reducible refine kept_grpCountN k_grpCountN ?_
    | with_reducible refine kept_grpWait k_grpWait ?_
    | (fail_if_no_progress with_reducible refine Kept.mk' ?_  (h_aln := .inr ⟨i11, .inr i12, sm, sm⟩) (h_hp := .inr ⟨i42, .inr i43, sm, sm, .inr i46, sm, sm, sm, sm, sm, sm, sm⟩) (h_cnt := .inr i76) (h_evLog := .inr i78) (h_evLogSeq := .inr i79))
    | split
    | dsimp +zetaDelta only

theorem kept_strmRestart {μ : Nat} (hw : 982400959933327370880816 &&& μ = 982400959933327370880816) {s0 : State} {kept : Bool} {n : Nat} {s : State}  (kh : Kept μ s0 s) :
    Kept μ s0 (strmRestart kept n s) := by
  have k_raise : 906694364785738671718400 &&& μ = 906694364785738671718400 := sub_of hw rfl
  have k_strmStart : 982252233059233087619888 &&& μ = 982252233059233087619888 := sub_of hw rfl
  have i4 : μ.testBit 4 = true := bit_of hw rfl
  have i5 : μ.testBit 5 = true := bit_of hw rfl
  have i8 : μ.testBit 8 = true := bit_of hw rfl
  have i9 : μ.testBit 9 = true := bit_of hw rfl
  have i10 : μ.testBit 10 = true := bit_of hw rfl
  have i42 : μ.testBit 42 = true := bit_of hw rfl
  have i43 : μ.testBit 43 = true := bit_of hw rfl
  have i45 : μ.testBit 45 = true := bit_of hw rfl
  have i46 : μ.testBit 46 = true := bit_of hw rfl
  have i52 : μ.testBit 52 = true := bit_of hw rfl
  have i60 : μ.testBit 60 = true := bit_of hw rfl
  have i67 : μ.testBit 67 = true := bit_of hw rfl
  have i76 : μ.testBit 76 = true := bit_of hw rfl
  have i78 : μ.testBit 78 = true := bit_of hw rfl
  have i79 : μ.testBit 79 = true := bit_of hw rfl
  unfold strmRestart
  repeat' first
    | with_reducible assumption
    | (intro s; with_reducible refine (fun (hs : Kept μ s0 s) => ?_) ?_)
    | intro x
    | lift_lets
    | with_reducible refine kept_raise k_raise ?_
    | with_reducible refine kept_strmStart k_strmStart ?_
    | with_reducible refine kept_foldl (fun s x hs => ?_) ?_
    | (fail_if_no_progress with_reducible refine Kept.mk' ?_  (h_eth := .inr ⟨i4, .inr i5, sm, sm⟩) (h_ing := .inr ⟨i8, .inr i9, .inr i10⟩) (h_hp := .inr ⟨i42, .inr i43, sm, .inr i45, .inr i46, sm, sm, sm, sm, sm, .inr i52, sm⟩) (h_nv := .inr ⟨i60, sm, sm, sm, sm, sm, sm, .inr i67⟩) (h_cnt := .inr i76) (h_evLog := .inr i78) (h_evLogSeq := .inr i79))
    | split
    | dsimp +zetaDelta only

theorem kept_oscActivate {μ : Nat} (hw : 2191178048135078262931456 &&& μ = 2191178048135078262931456) {s0 : State} {a : Image} {t : Nat} {s : State}  (kh : Kept μ s0 s) :
    Kept μ s0 (oscActivate a t s) := by
  have k_count : 982252228520449088159744 &&& μ = 982252228520449088159744 := sub_of hw rfl
  have k_fresh : 1208925819614629174706176 &&& μ = 1208925819614629174706176 := sub_of hw rfl
  have k_modAlm : 65536 &&& μ = 65536 := sub_of hw rfl
  have k_modMode : 65536 &&& μ = 65536 := sub_of hw rfl
  have k_sigStart : 65536 &&& μ = 65536 := sub_of hw rfl
  have i16 : μ.testBit 16 = true := bit_of hw rfl
  have i42 : μ.testBit 42 = true := bit_of hw rfl
  have i43 : μ.testBit 43 = true := bit_of hw rfl
  have i46 : μ.testBit 46 = true := bit_of hw rfl
  have i76 : μ.testBit 76 = true := bit_of hw rfl
  have i78 : μ.testBit 78 = true := bit_of hw rfl
  have i79 : μ.testBit 79 = true := bit_of hw rfl
  have i80 : μ.testBit 80 = true := bit_of hw rfl
  unfold oscActivate
  repeat' first
    | with_reducible assumption
    | (intro s; with_reducible refine (fun (hs : Kept μ s0 s) => ?_) ?_)
    | intro x
    | lift_lets
    | with_reducible refine kept_fresh k_fresh ?_
    | with_reducible refine kept_count k_count ?_
    | with_reducible refine kept_sigStart k_sigStart ?_
    | with_reducible refine kept_modAlm k_modAlm ?_
    | with_reducible refine kept_modMode k_modMode ?_
    | with_reducible refine kept_foldl (fun s x hs => ?_) ?_
    | with_reducible refine KeptS.eq (by with_reducible assumption) ?_
    | (fail_if_no_progress with_reducible refine Kept.mk' ?_  (h_osc := .inr i16) (h_hp := .inr ⟨i42, .inr i43, sm, sm, .inr i46, sm, sm, sm, sm, sm, sm, sm⟩) (h_cnt := .inr i76) (h_evLog := .inr i78) (h_evLogSeq := .inr i79) (h_free := .inr i80))
    | split
    | with_reducible refine KeptS.mk' ?_
    | with_reducible refine KeptS.snd ?_
    | dsimp +zetaDelta only

theorem kept_icnClear {μ : Nat} (hw : 131072 &&& μ = 131072) {s0 : State} {a : Image} {i : Nat} {s : State}  (kh : Kept μ s0 s) :
    Kept μ s0 (icnClear a i s) := by
  have i17 : μ.testBit 17 = true := bit_of hw rfl
  unfold icnClear
  repeat' first
    | with_reducible assumption
    | (intro s; with_reducible refine (fun (hs : Kept μ s0 s) => ?_) ?_)
    | intro x
    | lift_lets
    | (fail_if_no_progress with_reducible refine Kept.mk' ?_  (h_isl := .inr i17))
    | split
    | dsimp +zetaDelta only

theorem kept_islActivate {μ : Nat} (hw : 131072 &&& μ = 131072) {s0 : State} {a : Image} {t : Nat} {s : State}  (kh : Kept μ s0 s) :
    Kept μ s0 (islActivate a t s) := by
  have k_icnClear : 131072 &&& μ = 131072 := sub_of hw rfl
  have k_icnStart : 131072 &&& μ = 131072 := sub_of hw rfl
  have k_modCmp : 131072 &&& μ = 131072 := sub_of hw rfl
  unfold islActivate
  repeat' first
    | with_reducible assumption
    | (intro s; with_reducible refine (fun (hs : Kept μ s0 s) => ?_) ?_)
    | intro x
    | lift_lets
    | with_reducible refine kept_modCmp k_modCmp ?_
    | with_reducible refine kept_icnStart k_icnStart ?_
    | with_reducible refine kept_icnClear k_icnClear ?_
    | with_reducible refine kept_foldl (fun s x hs => ?_) ?_
    | split
    | dsimp +zetaDelta only

theorem kept_svActivate {μ : Nat} (hw : 32768 &&& μ = 32768) {s0 : State} {a : Image} {ns : Nat} {s : State}  (kh : Kept μ s0 s) :
    Kept μ s0 (svActivate a ns s) := by
  have k_modSlot : 32768 &&& μ = 32768 := sub_of hw rfl
  have k_subStart : 32768 &&& μ = 32768 := sub_of hw rfl
  have i15 : μ.testBit 15 = true := bit_of hw rfl
  unfold svActivate
  repeat' first
    | with_reducible assumption
    | (intro s; with_reducible refine (fun (hs : Kept μ s0 s) => ?_) ?_)
    | intro x
    | lift_lets
    | with_reducible refine kept_modSlot k_modSlot ?_
    | with_reducible refine kept_subStart k_subStart ?_
    | with_reducible refine kept_foldl (fun s x hs => ?_) ?_
    | (fail_if_no_progress with_reducible refine Kept.mk' ?_  (h_svf := .inr i15))
    | split
    | dsimp +zetaDelta only

theorem kept_tasksOut {μ : Nat} (hw : 3932160 &&& μ = 3932160) {s0 : State} {ts : List Nat} {s : State}  (kh : Kept μ s0 s) :
    Kept μ s0 (tasksOut ts s) := by
  have k_taskReset : 3932160 &&& μ = 3932160 := sub_of hw rfl
  unfold tasksOut
  repeat' first
    | with_reducible assumption
    | (intro s; with_reducible refine (fun (hs : Kept μ s0 s) => ?_) ?_)
    | intro x
    | lift_lets
    | with_reducible refine kept_taskReset k_taskReset ?_
    | with_reducible refine kept_foldl (fun s x hs => ?_) ?_
    | split
    | dsimp +zetaDelta only

theorem kept_tasksIn {μ : Nat} (hw : 1168235036672 &&& μ = 1168235036672) {s0 : State} {a : Image} {ts : List Nat} {s : State}  (kh : Kept μ s0 s) :
    Kept μ s0 (tasksIn a ts s) := by
  have k_taskReset : 3932160 &&& μ = 3932160 := sub_of hw rfl
  have i18 : μ.testBit 18 = true := bit_of hw rfl
  have i19 : μ.testBit 19 = true := bit_of hw rfl
  have i20 : μ.testBit 20 = true := bit_of hw rfl
  have i21 : μ.testBit 21 = true := bit_of hw rfl
  have i36 : μ.testBit 36 = true := bit_of hw rfl
  have i40 : μ.testBit 40 = true := bit_of hw rfl
  unfold tasksIn
  repeat' first
    | with_reducible assumption
    | (intro s; with_reducible refine (fun (hs : Kept μ s0 s) => ?_) ?_)
    | intro x
    | lift_lets
    | with_reducible refine kept_taskReset k_taskReset ?_
    | with_reducible refine kept_foldl (fun s x hs => ?_) ?_
    | (fail_if_no_progress with_reducible refine Kept.mk' ?_  (h_sch := .inr ⟨i18, .inr i19, .inr i20, .inr i21⟩) (h_cfg := .inr ⟨i36, sm, sm, sm, .inr i40, sm⟩))
    | split
    | dsimp +zetaDelta only

theorem kept_recsIn {μ : Nat} (hw : 12582912 &&& μ = 12582912) {s0 : State} {rs : List Nat} {t ns : Nat} {s : State}  (kh : Kept μ s0 s) :
    Kept μ s0 (recsIn rs t ns s) := by
  have k_modCapRec : 12582912 &&& μ = 12582912 := sub_of hw rfl
  have k_recStart : 12582912 &&& μ = 12582912 := sub_of hw rfl
  have i22 : μ.testBit 22 = true := bit_of hw rfl
  have i23 : μ.testBit 23 = true := bit_of hw rfl
  unfold recsIn
  repeat' first
    | with_reducible assumption
    | (intro s; with_reducible refine (fun (hs : Kept μ s0 s) => ?_) ?_)
    | intro x
    | lift_lets
    | with_reducible refine kept_modCapRec k_modCapRec ?_
    | with_reducible refine kept_recStart k_recStart ?_
    | with_reducible refine kept_foldl (fun s x hs => ?_) ?_
    | (fail_if_no_progress with_reducible refine Kept.mk' ?_  (h_cap := .inr ⟨i22, .inr i23, sm, sm⟩))
    | split
    | dsimp +zetaDelta only

theorem kept_pubActivate {μ : Nat} (hw : 1133367960511091799228464 &&& μ = 1133367960511091799228464) {s0 : State} {a : Image} {s : State}  (kh : Kept μ s0 s) :
    Kept μ s0 (pubActivate a s) := by
  have k_gooseTick : 1133367960511083209293872 &&& μ = 1133367960511083209293872 := sub_of hw rfl
  have k_modGp : 21474836480 &&& μ = 21474836480 := sub_of hw rfl
  have k_modOs : 12884901888 &&& μ = 12884901888 := sub_of hw rfl
  have k_osStart : 906694364785751556620288 &&& μ = 906694364785751556620288 := sub_of hw rfl
  have i4 : μ.testBit 4 = true := bit_of hw rfl
  have i5 : μ.testBit 5 = true := bit_of hw rfl
  have i32 : μ.testBit 32 = true := bit_of hw rfl
  have i33 : μ.testBit 33 = true := bit_of hw rfl
  have i34 : μ.testBit 34 = true := bit_of hw rfl
  have i42 : μ.testBit 42 = true := bit_of hw rfl
  have i43 : μ.testBit 43 = true := bit_of hw rfl
  have i45 : μ.testBit 45 = true := bit_of hw rfl
  have i46 : μ.testBit 46 = true := bit_of hw rfl
  have i52 : μ.testBit 52 = true := bit_of hw rfl
  have i76 : μ.testBit 76 = true := bit_of hw rfl
  have i77 : μ.testBit 77 = true := bit_of hw rfl
  have i78 : μ.testBit 78 = true := bit_of hw rfl
  have i79 : μ.testBit 79 = true := bit_of hw rfl
  unfold pubActivate
  repeat' first
    | with_reducible assumption
    | (intro s; with_reducible refine (fun (hs : Kept μ s0 s) => ?_) ?_)
    | intro x
    | lift_lets
    | with_reducible refine kept_modOs k_modOs ?_
    | with_reducible refine kept_modGp k_modGp ?_
    | with_reducible refine kept_gooseTick k_gooseTick ?_
    | with_reducible refine kept_osStart k_osStart ?_
    | with_reducible refine kept_foldl (fun s x hs => ?_) ?_
    | (fail_if_no_progress with_reducible refine Kept.mk' ?_  (h_eth := .inr ⟨i4, .inr i5, sm, sm⟩) (h_pub := .inr ⟨i32, .inr i33, .inr i34, sm⟩) (h_hp := .inr ⟨i42, .inr i43, sm, .inr i45, .inr i46, sm, sm, sm, sm, sm, .inr i52, sm⟩) (h_cnt := .inr i76) (h_limits := .inr i77) (h_evLog := .inr i78) (h_evLogSeq := .inr i79))
    | split
    | dsimp +zetaDelta only

theorem kept_pointsOut {μ : Nat} (hw : 982253381441953896333312 &&& μ = 982253381441953896333312) {s0 : State} {ps : List Nat} {s : State}  (kh : Kept μ s0 s) :
    Kept μ s0 (pointsOut ps s) := by
  have k_pqForce : 982253381441953896333312 &&& μ = 982253381441953896333312 := sub_of hw rfl
  unfold pointsOut
  repeat' first
    | with_reducible assumption
    | (intro s; with_reducible refine (fun (hs : Kept μ s0 s) => ?_) ?_)
    | intro x
    | lift_lets
    | with_reducible refine kept_pqForce k_pqForce ?_
    | with_reducible refine kept_foldl (fun s x hs => ?_) ?_
    | split
    | dsimp +zetaDelta only

theorem kept_portsActivate {μ : Nat} (hw : 982252233059233087619120 &&& μ = 982252233059233087619120) {s0 : State} {a : Image} {s : State}  (kh : Kept μ s0 s) :
    Kept μ s0 (portsActivate a s) := by
  have k_portDown : 982252233059233087619120 &&& μ = 982252233059233087619120 := sub_of hw rfl
  unfold portsActivate
  repeat' first
    | with_reducible assumption
    | (intro s; with_reducible refine (fun (hs : Kept μ s0 s) => ?_) ?_)
    | intro x
    | lift_lets
    | with_reducible refine kept_portDown k_portDown ?_
    | with_reducible refine kept_foldl (fun s x hs => ?_) ?_
    | split
    | dsimp +zetaDelta only

theorem kept_rightsActivate {μ : Nat} (hw : 906694373678588717170736 &&& μ = 906694373678588717170736) {s0 : State} {a : Image} {s : State}  (kh : Kept μ s0 s) :
    Kept μ s0 (rightsActivate a s) := by
  have k_dropHostTx : 4507997673881648 &&& μ = 4507997673881648 := sub_of hw rfl
  have k_flrReset : 8967616836141056 &&& μ = 8967616836141056 := sub_of hw rfl
  have k_hifFlag : 83562883710976 &&& μ = 83562883710976 := sub_of hw rfl
  have k_raise : 906694364785738671718400 &&& μ = 906694364785738671718400 := sub_of hw rfl
  have k_setFnReg : 13194139533312 &&& μ = 13194139533312 := sub_of hw rfl
  unfold rightsActivate
  repeat' first
    | with_reducible assumption
    | (intro s; with_reducible refine (fun (hs : Kept μ s0 s) => ?_) ?_)
    | intro x
    | lift_lets
    | with_reducible refine kept_setFnReg k_setFnReg ?_
    | with_reducible refine kept_raise k_raise ?_
    | with_reducible refine kept_hifFlag k_hifFlag ?_
    | with_reducible refine kept_flrReset k_flrReset ?_
    | with_reducible refine kept_dropHostTx k_dropHostTx ?_
    | with_reducible refine kept_foldl (fun s x hs => ?_) ?_
    | split
    | dsimp +zetaDelta only

theorem kept_bootFollows {μ : Nat} (hw : 618475290624 &&& μ = 618475290624) {s0 : State} {s : State}  (kh : Kept μ s0 s) :
    Kept μ s0 (bootFollows s) := by
  have i36 : μ.testBit 36 = true := bit_of hw rfl
  have i39 : μ.testBit 39 = true := bit_of hw rfl
  unfold bootFollows
  repeat' first
    | with_reducible assumption
    | (intro s; with_reducible refine (fun (hs : Kept μ s0 s) => ?_) ?_)
    | intro x
    | lift_lets
    | (fail_if_no_progress with_reducible refine Kept.mk' ?_  (h_cfg := .inr ⟨i36, sm, sm, .inr i39, sm, sm⟩))
    | split
    | dsimp +zetaDelta only

theorem kept_swapImage {μ : Nat} (hw : 568381476438016 &&& μ = 568381476438016) {s0 : State} {im : Image} {s : State}  (kh : Kept μ s0 s) :
    Kept μ s0 (swapImage im s) := by
  have k_bootFollows : 618475290624 &&& μ = 618475290624 := sub_of hw rfl
  have i29 : μ.testBit 29 = true := bit_of hw rfl
  have i31 : μ.testBit 31 = true := bit_of hw rfl
  have i36 : μ.testBit 36 = true := bit_of hw rfl
  have i37 : μ.testBit 37 = true := bit_of hw rfl
  have i38 : μ.testBit 38 = true := bit_of hw rfl
  have i39 : μ.testBit 39 = true := bit_of hw rfl
  have i42 : μ.testBit 42 = true := bit_of hw rfl
  have i49 : μ.testBit 49 = true := bit_of hw rfl
  unfold swapImage
  refine kept_bootFollows k_bootFollows (kh.upd rfl rfl ?_ rfl rfl rfl rfl rfl rfl rfl rfl (kh.fr.mk' (h_tsk := .inr ⟨i29, sm⟩) (h_arb := .inr i31) (h_cfg := .inr ⟨i36, .inr i37, .inr i38, .inr i39, sm, sm⟩) (h_hp := .inr ⟨i42, .inl (map_map_same fun _ => rfl), .inl (map_map_same fun _ => rfl), .inl (map_map_same fun _ => rfl), .inl (map_map_same fun _ => rfl), .inl (map_map_same fun _ => rfl), .inl (map_map_same fun _ => rfl), .inr i49, .inl (map_map_same fun _ => rfl), .inl (map_map_same fun _ => rfl), .inl (map_map_same fun _ => rfl), .inl (map_map_same fun _ => rfl)⟩)))
  simp

theorem kept_activated {μ : Nat} (hw : 982252228520449088159744 &&& μ = 982252228520449088159744) {s0 : State} {old : Nat} {s : State}  (kh : Kept μ s0 s) :
    Kept μ s0 (activated old s) := by
  have k_cfgFlag : 13194139533312 &&& μ = 13194139533312 := sub_of hw rfl
  have k_count : 982252228520449088159744 &&& μ = 982252228520449088159744 := sub_of hw rfl
  have k_raise : 906694364785738671718400 &&& μ = 906694364785738671718400 := sub_of hw rfl
  unfold activated
  repeat' first
    | with_reducible assumption
    | (intro s; with_reducible refine (fun (hs : Kept μ s0 s) => ?_) ?_)
    | intro x
    | lift_lets
    | with_reducible refine kept_raise k_raise ?_
    | with_reducible refine kept_count k_count ?_
    | with_reducible refine kept_cfgFlag k_cfgFlag ?_
    | split
    | dsimp +zetaDelta only

theorem kept_authSwap {μ : Nat} (hw : 982252228520487742865456 &&& μ = 982252228520487742865456) {s0 : State} {was : Bool} {s : State}  (kh : Kept μ s0 s) :
    Kept μ s0 (authSwap was s) := by
  have k_authEvent : 906694364794534764740608 &&& μ = 906694364794534764740608 := sub_of hw rfl
  have k_authLost : 982252228520487742865456 &&& μ = 982252228520487742865456 := sub_of hw rfl
  unfold authSwap
  repeat' first
    | with_reducible assumption
    | (intro s; with_reducible refine (fun (hs : Kept μ s0 s) => ?_) ?_)
    | intro x
    | lift_lets
    | with_reducible refine kept_authEvent k_authEvent ?_
    | with_reducible refine kept_authLost k_authLost ?_
    | split
    | dsimp +zetaDelta only

theorem kept_activate {μ : Nat} (hw : 2342507345202673092657009 &&& μ = 2342507345202673092657009) {s0 : State} {im : Image} {sec : Nat} {s : State}  (kh : Kept μ s0 s) :
    Kept μ s0 (activate im sec s) := by
  have k_activated : 982252228520449088159744 &&& μ = 982252228520449088159744 := sub_of hw rfl
  have k_applyCommits : 982290274931269345214464 &&& μ = 982290274931269345214464 := sub_of hw rfl
  have k_authSwap : 982252228520487742865456 &&& μ = 982252228520487742865456 := sub_of hw rfl
  have k_drain : 2342470179385335537991537 &&& μ = 2342470179385335537991537 := sub_of hw rfl
  have k_drainRec : 1133367962762861611075632 &&& μ = 1133367962762861611075632 := sub_of hw rfl
  have k_groupRestart : 982252228520449088165888 &&& μ = 982252228520449088165888 := sub_of hw rfl
  have k_islActivate : 131072 &&& μ = 131072 := sub_of hw rfl
  have k_mtrActivate : 1152921504808173568 &&& μ = 1152921504808173568 := sub_of hw rfl
  have k_oscActivate : 2191178048135078262931456 &&& μ = 2191178048135078262931456 := sub_of hw rfl
  have k_pairStart : 270215977642229760 &&& μ = 270215977642229760 := sub_of hw rfl
  have k_pointsOut : 982253381441953896333312 &&& μ = 982253381441953896333312 := sub_of hw rfl
  have k_portsActivate : 982252233059233087619120 &&& μ = 982252233059233087619120 := sub_of hw rfl
  have k_pubActivate : 1133367960511091799228464 &&& μ = 1133367960511091799228464 := sub_of hw rfl
  have k_recsIn : 12582912 &&& μ = 12582912 := sub_of hw rfl
  have k_rightsActivate : 906694373678588717170736 &&& μ = 906694373678588717170736 := sub_of hw rfl
  have k_scanDiscard : 2359296 &&& μ = 2359296 := sub_of hw rfl
  have k_strmRestart : 982400959933327370880816 &&& μ = 982400959933327370880816 := sub_of hw rfl
  have k_svActivate : 32768 &&& μ = 32768 := sub_of hw rfl
  have k_swapImage : 568381476438016 &&& μ = 568381476438016 := sub_of hw rfl
  have k_tasksIn : 1168235036672 &&& μ = 1168235036672 := sub_of hw rfl
  have k_tasksOut : 3932160 &&& μ = 3932160 := sub_of hw rfl
  have k_truncateTake : 982252228520449117519872 &&& μ = 982252228520449117519872 := sub_of hw rfl
  unfold activate
  repeat' first
    | with_reducible assumption
    | (intro s; with_reducible refine (fun (hs : Kept μ s0 s) => ?_) ?_)
    | intro x
    | lift_lets
    | with_reducible refine kept_scanDiscard k_scanDiscard ?_
    | with_reducible refine kept_truncateTake k_truncateTake ?_
    | with_reducible refine kept_mtrActivate k_mtrActivate ?_
    | with_reducible refine kept_applyCommits k_applyCommits ?_
    | with_reducible refine kept_pairStart k_pairStart ?_
    | with_reducible refine kept_drainRec k_drainRec ?_
    | with_reducible refine kept_drain k_drain ?_
    | with_reducible refine kept_groupRestart k_groupRestart ?_
    | with_reducible refine kept_strmRestart k_strmRestart ?_
    | with_reducible refine kept_oscActivate k_oscActivate ?_
    | with_reducible refine kept_islActivate k_islActivate ?_
    | with_reducible refine kept_svActivate k_svActivate ?_
    | with_reducible refine kept_tasksOut k_tasksOut ?_
    | with_reducible refine kept_tasksIn k_tasksIn ?_
    | with_reducible refine kept_recsIn k_recsIn ?_
    | with_reducible refine kept_pubActivate k_pubActivate ?_
    | with_reducible refine kept_pointsOut k_pointsOut ?_
    | with_reducible refine kept_portsActivate k_portsActivate ?_
    | with_reducible refine kept_rightsActivate k_rightsActivate ?_
    | with_reducible refine kept_swapImage k_swapImage ?_
    | with_reducible refine kept_activated k_activated ?_
    | with_reducible refine kept_authSwap k_authSwap ?_
    | with_reducible refine kept_foldl (fun s x hs => ?_) ?_
    | split
    | dsimp +zetaDelta only

theorem kept_execActivation {μ : Nat} (hw : 2342507345202673092657009 &&& μ = 2342507345202673092657009) {s0 : State} {s : State}  (kh : Kept μ s0 s) :
    KeptOut μ s0 (execActivation s) := by
  have k_act : 0 &&& μ = 0 := sub_of hw rfl
  have k_activate : 2342507345202673092657009 &&& μ = 2342507345202673092657009 := sub_of hw rfl
  have i0 : μ.testBit 0 = true := bit_of hw rfl
  have i4 : μ.testBit 4 = true := bit_of hw rfl
  have i5 : μ.testBit 5 = true := bit_of hw rfl
  have i6 : μ.testBit 6 = true := bit_of hw rfl
  have i8 : μ.testBit 8 = true := bit_of hw rfl
  have i9 : μ.testBit 9 = true := bit_of hw rfl
  have i10 : μ.testBit 10 = true := bit_of hw rfl
  have i11 : μ.testBit 11 = true := bit_of hw rfl
  have i12 : μ.testBit 12 = true := bit_of hw rfl
  have i13 : μ.testBit 13 = true := bit_of hw rfl
  have i14 : μ.testBit 14 = true := bit_of hw rfl
  have i15 : μ.testBit 15 = true := bit_of hw rfl
  have i16 : μ.testBit 16 = true := bit_of hw rfl
  have i17 : μ.testBit 17 = true := bit_of hw rfl
  have i18 : μ.testBit 18 = true := bit_of hw rfl
  have i19 : μ.testBit 19 = true := bit_of hw rfl
  have i20 : μ.testBit 20 = true := bit_of hw rfl
  have i21 : μ.testBit 21 = true := bit_of hw rfl
  have i22 : μ.testBit 22 = true := bit_of hw rfl
  have i23 : μ.testBit 23 = true := bit_of hw rfl
  have i24 : μ.testBit 24 = true := bit_of hw rfl
  have i25 : μ.testBit 25 = true := bit_of hw rfl
  have i26 : μ.testBit 26 = true := bit_of hw rfl
  have i27 : μ.testBit 27 = true := bit_of hw rfl
  have i28 : μ.testBit 28 = true := bit_of hw rfl
  have i29 : μ.testBit 29 = true := bit_of hw rfl
  have i31 : μ.testBit 31 = true := bit_of hw rfl
  have i32 : μ.testBit 32 = true := bit_of hw rfl
  have i33 : μ.testBit 33 = true := bit_of hw rfl
  have i34 : μ.testBit 34 = true := bit_of hw rfl
  have i35 : μ.testBit 35 = true := bit_of hw rfl
  have i36 : μ.testBit 36 = true := bit_of hw rfl
  have i37 : μ.testBit 37 = true := bit_of hw rfl
  have i38 : μ.testBit 38 = true := bit_of hw rfl
  have i39 : μ.testBit 39 = true := bit_of hw rfl
  have i40 : μ.testBit 40 = true := bit_of hw rfl
  have i42 : μ.testBit 42 = true := bit_of hw rfl
  have i43 : μ.testBit 43 = true := bit_of hw rfl
  have i44 : μ.testBit 44 = true := bit_of hw rfl
  have i45 : μ.testBit 45 = true := bit_of hw rfl
  have i46 : μ.testBit 46 = true := bit_of hw rfl
  have i47 : μ.testBit 47 = true := bit_of hw rfl
  have i48 : μ.testBit 48 = true := bit_of hw rfl
  have i49 : μ.testBit 49 = true := bit_of hw rfl
  have i50 : μ.testBit 50 = true := bit_of hw rfl
  have i51 : μ.testBit 51 = true := bit_of hw rfl
  have i52 : μ.testBit 52 = true := bit_of hw rfl
  have i54 : μ.testBit 54 = true := bit_of hw rfl
  have i55 : μ.testBit 55 = true := bit_of hw rfl
  have i56 : μ.testBit 56 = true := bit_of hw rfl
  have i57 : μ.testBit 57 = true := bit_of hw rfl
  have i60 : μ.testBit 60 = true := bit_of hw rfl
  have i63 : μ.testBit 63 = true := bit_of hw rfl
  have i64 : μ.testBit 64 = true := bit_of hw rfl
  have i65 : μ.testBit 65 = true := bit_of hw rfl
  have i67 : μ.testBit 67 = true := bit_of hw rfl
  have i76 : μ.testBit 76 = true := bit_of hw rfl
  have i77 : μ.testBit 77 = true := bit_of hw rfl
  have i78 : μ.testBit 78 = true := bit_of hw rfl
  have i79 : μ.testBit 79 = true := bit_of hw rfl
  have i80 : μ.testBit 80 = true := bit_of hw rfl
  unfold execActivation
  repeat' first
    | with_reducible assumption
    | (intro s; with_reducible refine (fun (hs : Kept μ s0 s) => ?_) ?_)
    | intro x
    | lift_lets
    | with_reducible refine kept_act k_act (fun s hs => ?_) ?_
    | with_reducible refine kept_activate k_activate ?_
    | (fail_if_no_progress with_reducible refine Kept.mk' ?_  (h_tb := .inr ⟨i0, sm, sm, sm⟩) (h_eth := .inr ⟨i4, .inr i5, .inr i6, sm⟩) (h_ing := .inr ⟨i8, .inr i9, .inr i10⟩) (h_aln := .inr ⟨i11, .inr i12, .inr i13, .inr i14⟩) (h_svf := .inr i15) (h_osc := .inr i16) (h_isl := .inr i17) (h_sch := .inr ⟨i18, .inr i19, .inr i20, .inr i21⟩) (h_cap := .inr ⟨i22, .inr i23, .inr i24, .inr i25⟩) (h_mtr := .inr ⟨i26, .inr i27, .inr i28⟩) (h_tsk := .inr ⟨i29, sm⟩) (h_arb := .inr i31) (h_pub := .inr ⟨i32, .inr i33, .inr i34, .inr i35⟩) (h_cfg := .inr ⟨i36, .inr i37, .inr i38, .inr i39, .inr i40, sm⟩) (h_hp := .inr ⟨i42, .inr i43, .inr i44, .inr i45, .inr i46, .inr i47, .inr i48, .inr i49, .inr i50, .inr i51, .inr i52, sm⟩) (h_pair := .inr ⟨i54, .inr i55, .inr i56, .inr i57⟩) (h_nv := .inr ⟨i60, sm, sm, .inr i63, .inr i64, .inr i65, sm, .inr i67⟩) (h_cnt := .inr i76) (h_limits := .inr i77) (h_evLog := .inr i78) (h_evLogSeq := .inr i79) (h_free := .inr i80))
    | split
    | with_reducible refine KeptOut.mk' ?_
    | dsimp +zetaDelta only

theorem kept_activateNow {μ : Nat} (hw : 982252507657845761415984 &&& μ = 982252507657845761415984) {s0 : State} {im : Image} {s : State}  (kh : Kept μ s0 s) :
    Kept μ s0 (activateNow im s) := by
  have k_activated : 982252228520449088159744 &&& μ = 982252228520449088159744 := sub_of hw rfl
  have k_authSwap : 982252228520487742865456 &&& μ = 982252228520487742865456 := sub_of hw rfl
  have k_portsActivate : 982252233059233087619120 &&& μ = 982252233059233087619120 := sub_of hw rfl
  have k_restorePars : 14362370637824 &&& μ = 14362370637824 := sub_of hw rfl
  have k_rightsActivate : 906694373678588717170736 &&& μ = 906694373678588717170736 := sub_of hw rfl
  have k_startTables : 982252503275224088484656 &&& μ = 982252503275224088484656 := sub_of hw rfl
  have k_swapImage : 568381476438016 &&& μ = 568381476438016 := sub_of hw rfl
  unfold activateNow
  repeat' first
    | with_reducible assumption
    | (intro s; with_reducible refine (fun (hs : Kept μ s0 s) => ?_) ?_)
    | intro x
    | lift_lets
    | with_reducible refine kept_startTables k_startTables ?_
    | with_reducible refine kept_restorePars k_restorePars ?_
    | with_reducible refine kept_portsActivate k_portsActivate ?_
    | with_reducible refine kept_rightsActivate k_rightsActivate ?_
    | with_reducible refine kept_swapImage k_swapImage ?_
    | with_reducible refine kept_activated k_activated ?_
    | with_reducible refine kept_authSwap k_authSwap ?_
    | split
    | dsimp +zetaDelta only

theorem kept_execScheduleActivation {μ : Nat} (hw : 982252507657845761415984 &&& μ = 982252507657845761415984) {s0 : State} {n key : Nat} {s : State}  (kh : Kept μ s0 s) :
    KeptOut μ s0 (execScheduleActivation n key s) := by
  have k_act : 0 &&& μ = 0 := sub_of hw rfl
  have k_activateNow : 982252507657845761415984 &&& μ = 982252507657845761415984 := sub_of hw rfl
  have k_cfgCtrl : 906694364829719136829440 &&& μ = 906694364829719136829440 := sub_of hw rfl
  have k_cfgRefuse : 906694364785738671718400 &&& μ = 906694364785738671718400 := sub_of hw rfl
  have k_raise : 906694364785738671718400 &&& μ = 906694364785738671718400 := sub_of hw rfl
  have i4 : μ.testBit 4 = true := bit_of hw rfl
  have i5 : μ.testBit 5 = true := bit_of hw rfl
  have i8 : μ.testBit 8 = true := bit_of hw rfl
  have i9 : μ.testBit 9 = true := bit_of hw rfl
  have i11 : μ.testBit 11 = true := bit_of hw rfl
  have i12 : μ.testBit 12 = true := bit_of hw rfl
  have i15 : μ.testBit 15 = true := bit_of hw rfl
  have i18 : μ.testBit 18 = true := bit_of hw rfl
  have i19 : μ.testBit 19 = true := bit_of hw rfl
  have i20 : μ.testBit 20 = true := bit_of hw rfl
  have i21 : μ.testBit 21 = true := bit_of hw rfl
  have i26 : μ.testBit 26 = true := bit_of hw rfl
  have i27 : μ.testBit 27 = true := bit_of hw rfl
  have i28 : μ.testBit 28 = true := bit_of hw rfl
  have i29 : μ.testBit 29 = true := bit_of hw rfl
  have i31 : μ.testBit 31 = true := bit_of hw rfl
  have i32 : μ.testBit 32 = true := bit_of hw rfl
  have i33 : μ.testBit 33 = true := bit_of hw rfl
  have i35 : μ.testBit 35 = true := bit_of hw rfl
  have i36 : μ.testBit 36 = true := bit_of hw rfl
  have i37 : μ.testBit 37 = true := bit_of hw rfl
  have i38 : μ.testBit 38 = true := bit_of hw rfl
  have i39 : μ.testBit 39 = true := bit_of hw rfl
  have i40 : μ.testBit 40 = true := bit_of hw rfl
  have i42 : μ.testBit 42 = true := bit_of hw rfl
  have i43 : μ.testBit 43 = true := bit_of hw rfl
  have i44 : μ.testBit 44 = true := bit_of hw rfl
  have i45 : μ.testBit 45 = true := bit_of hw rfl
  have i46 : μ.testBit 46 = true := bit_of hw rfl
  have i47 : μ.testBit 47 = true := bit_of hw rfl
  have i48 : μ.testBit 48 = true := bit_of hw rfl
  have i49 : μ.testBit 49 = true := bit_of hw rfl
  have i50 : μ.testBit 50 = true := bit_of hw rfl
  have i51 : μ.testBit 51 = true := bit_of hw rfl
  have i52 : μ.testBit 52 = true := bit_of hw rfl
  have i54 : μ.testBit 54 = true := bit_of hw rfl
  have i55 : μ.testBit 55 = true := bit_of hw rfl
  have i56 : μ.testBit 56 = true := bit_of hw rfl
  have i57 : μ.testBit 57 = true := bit_of hw rfl
  have i76 : μ.testBit 76 = true := bit_of hw rfl
  have i78 : μ.testBit 78 = true := bit_of hw rfl
  have i79 : μ.testBit 79 = true := bit_of hw rfl
  unfold execScheduleActivation
  repeat' first
    | with_reducible assumption
    | (intro s; with_reducible refine (fun (hs : Kept μ s0 s) => ?_) ?_)
    | intro x
    | lift_lets
    | with_reducible refine kept_act k_act (fun s hs => ?_) ?_
    | with_reducible refine kept_raise k_raise ?_
    | with_reducible refine kept_cfgRefuse k_cfgRefuse ?_
    | with_reducible refine kept_cfgCtrl k_cfgCtrl (fun s hs => ?_) ?_
    | with_reducible refine kept_activateNow k_activateNow ?_
    | (fail_if_no_progress with_reducible refine Kept.mk' ?_  (h_eth := .inr ⟨i4, .inr i5, sm, sm⟩) (h_ing := .inr ⟨i8, .inr i9, sm⟩) (h_aln := .inr ⟨i11, .inr i12, sm, sm⟩) (h_svf := .inr i15) (h_sch := .inr ⟨i18, .inr i19, .inr i20, .inr i21⟩) (h_mtr := .inr ⟨i26, .inr i27, .inr i28⟩) (h_tsk := .inr ⟨i29, sm⟩) (h_arb := .inr i31) (h_pub := .inr ⟨i32, .inr i33, sm, .inr i35⟩) (h_cfg := .inr ⟨i36, .inr i37, .inr i38, .inr i39, .inr i40, sm⟩) (h_hp := .inr ⟨i42, .inr i43, .inr i44, .inr i45, .inr i46, .inr i47, .inr i48, .inr i49, .inr i50, .inr i51, .inr i52, sm⟩) (h_pair := .inr ⟨i54, .inr i55, .inr i56, .inr i57⟩) (h_cnt := .inr i76) (h_evLog := .inr i78) (h_evLogSeq := .inr i79))
    | split
    | with_reducible refine KeptOut.mk' ?_
    | dsimp +zetaDelta only

end Sys2Proof.Machine
end

