-- ==== Sys2Proof/Laws/KeptReceive.lean ====
section
/-!
SUPPORT. Sys2Proof/Laws/KeptReceive.lean: every operation of Receive.lean keeps what no command changes, and the parts that it does not write (Kept.lean).
-/
set_option Elab.async false
set_option linter.unusedTactic false
set_option linter.unreachableTactic false
set_option linter.unusedVariables false
namespace Sys2Proof.Machine

theorem kept_toHost {μ : Nat} (hw : 982252233059233087619072 &&& μ = 982252233059233087619072) {s0 : State} {f : Frame} {s : State}  (kh : Kept μ s0 s) :
    Kept μ s0 (toHost f s) := by
  have k_ethCount : 982252228520449088159744 &&& μ = 982252228520449088159744 := sub_of hw rfl
  have k_rxEnqueue : 906694369333318764199936 &&& μ = 906694369333318764199936 := sub_of hw rfl
  have i42 : μ.testBit 42 = true := bit_of hw rfl
  have i43 : μ.testBit 43 = true := bit_of hw rfl
  have i45 : μ.testBit 45 = true := bit_of hw rfl
  have i46 : μ.testBit 46 = true := bit_of hw rfl
  have i52 : μ.testBit 52 = true := bit_of hw rfl
  have i76 : μ.testBit 76 = true := bit_of hw rfl
  have i78 : μ.testBit 78 = true := bit_of hw rfl
  have i79 : μ.testBit 79 = true := bit_of hw rfl
  unfold toHost
  repeat' first
    | with_reducible assumption
    | (intro s; with_reducible refine (fun (hs : Kept μ s0 s) => ?_) ?_)
    | intro x
    | lift_lets
    | with_reducible refine kept_ethCount k_ethCount ?_
    | with_reducible refine kept_rxEnqueue k_rxEnqueue ?_
    | (fail_if_no_progress with_reducible refine Kept.mk' ?_  (h_hp := .inr ⟨i42, .inr i43, sm, .inr i45, .inr i46, sm, sm, sm, sm, sm, .inr i52, sm⟩) (h_cnt := .inr i76) (h_evLog := .inr i78) (h_evLogSeq := .inr i79))
    | split
    | dsimp +zetaDelta only

theorem kept_undeclared {μ : Nat} (hw : 1133367955972277734998016 &&& μ = 1133367955972277734998016) {s0 : State} {id : Nat} {s : State}  (kh : Kept μ s0 s) :
    Kept μ s0 (undeclared id s) := by
  have k_count : 982252228520449088159744 &&& μ = 982252228520449088159744 := sub_of hw rfl
  have k_ingFlag : 13194139533312 &&& μ = 13194139533312 := sub_of hw rfl
  have k_raiseLimited : 1057810092237567318556672 &&& μ = 1057810092237567318556672 := sub_of hw rfl
  unfold undeclared
  repeat' first
    | with_reducible assumption
    | (intro s; with_reducible refine (fun (hs : Kept μ s0 s) => ?_) ?_)
    | intro x
    | lift_lets
    | with_reducible refine kept_raiseLimited k_raiseLimited ?_
    | with_reducible refine kept_count k_count ?_
    | with_reducible refine kept_ingFlag k_ingFlag ?_
    | split
    | dsimp +zetaDelta only

theorem kept_tcpReset {μ : Nat} (hw : 982252228520461973062400 &&& μ = 982252228520461973062400) {s0 : State} {f : Frame} {h : IpHdr} {s : State}  (kh : Kept μ s0 s) :
    Kept μ s0 (tcpReset f h s) := by
  have k_count : 982252228520449088159744 &&& μ = 982252228520449088159744 := sub_of hw rfl
  have k_dropClients : 906694364785751556620288 &&& μ = 906694364785751556620288 := sub_of hw rfl
  have k_tcpDown : 906694364794534764741376 &&& μ = 906694364794534764741376 := sub_of hw rfl
  unfold tcpReset
  repeat' first
    | with_reducible assumption
    | (intro s; with_reducible refine (fun (hs : Kept μ s0 s) => ?_) ?_)
    | intro x
    | lift_lets
    | with_reducible refine kept_count k_count ?_
    | with_reducible refine kept_tcpDown k_tcpDown ?_
    | with_reducible refine kept_dropClients k_dropClients ?_
    | with_reducible refine kept_foldl (fun s x hs => ?_) ?_
    | split
    | dsimp +zetaDelta only

theorem kept_classC37 {μ : Nat} (hw : 1133367955972290619900752 &&& μ = 1133367955972290619900752) {s0 : State} {f : Frame} {h : IpHdr} {bs : List Byte} {s : State}  (kh : Kept μ s0 s) :
    Kept μ s0 (classC37 f h bs s) := by
  have k_count : 982252228520449088159744 &&& μ = 982252228520449088159744 := sub_of hw rfl
  have k_handOn : 80 &&& μ = 80 := sub_of hw rfl
  have k_modStrm : 768 &&& μ = 768 := sub_of hw rfl
  have k_tcpReset : 982252228520461973062400 &&& μ = 982252228520461973062400 := sub_of hw rfl
  have k_undeclared : 1133367955972277734998016 &&& μ = 1133367955972277734998016 := sub_of hw rfl
  have i4 : μ.testBit 4 = true := bit_of hw rfl
  have i6 : μ.testBit 6 = true := bit_of hw rfl
  have i8 : μ.testBit 8 = true := bit_of hw rfl
  have i9 : μ.testBit 9 = true := bit_of hw rfl
  have i32 : μ.testBit 32 = true := bit_of hw rfl
  have i33 : μ.testBit 33 = true := bit_of hw rfl
  have i42 : μ.testBit 42 = true := bit_of hw rfl
  have i43 : μ.testBit 43 = true := bit_of hw rfl
  have i46 : μ.testBit 46 = true := bit_of hw rfl
  have i76 : μ.testBit 76 = true := bit_of hw rfl
  have i77 : μ.testBit 77 = true := bit_of hw rfl
  have i78 : μ.testBit 78 = true := bit_of hw rfl
  have i79 : μ.testBit 79 = true := bit_of hw rfl
  unfold classC37
  repeat' first
    | with_reducible assumption
    | (intro s; with_reducible refine (fun (hs : Kept μ s0 s) => ?_) ?_)
    | intro x
    | lift_lets
    | with_reducible refine kept_count k_count ?_
    | with_reducible refine kept_handOn k_handOn ?_
    | with_reducible refine kept_modStrm k_modStrm ?_
    | with_reducible refine kept_undeclared k_undeclared ?_
    | with_reducible refine kept_tcpReset k_tcpReset ?_
    | (fail_if_no_progress with_reducible refine Kept.mk' ?_  (h_eth := .inr ⟨i4, sm, .inr i6, sm⟩) (h_ing := .inr ⟨i8, .inr i9, sm⟩) (h_pub := .inr ⟨i32, .inr i33, sm, sm⟩) (h_hp := .inr ⟨i42, .inr i43, sm, sm, .inr i46, sm, sm, sm, sm, sm, sm, sm⟩) (h_cnt := .inr i76) (h_limits := .inr i77) (h_evLog := .inr i78) (h_evLogSeq := .inr i79))
    | split
    | dsimp +zetaDelta only

theorem kept_classWitness {μ : Nat} (hw : 982252228520449088159824 &&& μ = 982252228520449088159824) {s0 : State} {f : Frame} {h : IpHdr} {bs : List Byte} {s : State}  (kh : Kept μ s0 s) :
    Kept μ s0 (classWitness f h bs s) := by
  have k_handOn : 80 &&& μ = 80 := sub_of hw rfl
  have k_witReject : 982252228520449088159744 &&& μ = 982252228520449088159744 := sub_of hw rfl
  unfold classWitness
  repeat' first
    | with_reducible assumption
    | (intro s; with_reducible refine (fun (hs : Kept μ s0 s) => ?_) ?_)
    | intro x
    | lift_lets
    | with_reducible refine kept_handOn k_handOn ?_
    | with_reducible refine kept_witReject k_witReject ?_
    | split
    | dsimp +zetaDelta only

theorem kept_tcpFrames {μ : Nat} (hw : 1133367955972290619900752 &&& μ = 1133367955972290619900752) {s0 : State} {up : State → Bool} {f : Frame} {h : IpHdr} {fs : List (List Byte)} {bad : Nat} {s : State}  (kh : Kept μ s0 s) :
    Kept μ s0 (tcpFrames up f h fs bad s) := by
  have k_classC37 : 1133367955972290619900752 &&& μ = 1133367955972290619900752 := sub_of hw rfl
  have k_countN : 982252228520449088159744 &&& μ = 982252228520449088159744 := sub_of hw rfl
  have i4 : μ.testBit 4 = true := bit_of hw rfl
  have i6 : μ.testBit 6 = true := bit_of hw rfl
  have i8 : μ.testBit 8 = true := bit_of hw rfl
  have i9 : μ.testBit 9 = true := bit_of hw rfl
  have i32 : μ.testBit 32 = true := bit_of hw rfl
  have i33 : μ.testBit 33 = true := bit_of hw rfl
  have i42 : μ.testBit 42 = true := bit_of hw rfl
  have i43 : μ.testBit 43 = true := bit_of hw rfl
  have i46 : μ.testBit 46 = true := bit_of hw rfl
  have i76 : μ.testBit 76 = true := bit_of hw rfl
  have i77 : μ.testBit 77 = true := bit_of hw rfl
  have i78 : μ.testBit 78 = true := bit_of hw rfl
  have i79 : μ.testBit 79 = true := bit_of hw rfl
  unfold tcpFrames
  repeat' first
    | with_reducible assumption
    | (intro s; with_reducible refine (fun (hs : Kept μ s0 s) => ?_) ?_)
    | intro x
    | lift_lets
    | with_reducible refine kept_countN k_countN ?_
    | with_reducible refine kept_classC37 k_classC37 ?_
    | with_reducible refine kept_foldl (fun s x hs => ?_) ?_
    | (fail_if_no_progress with_reducible refine Kept.mk' ?_  (h_eth := .inr ⟨i4, sm, .inr i6, sm⟩) (h_ing := .inr ⟨i8, .inr i9, sm⟩) (h_pub := .inr ⟨i32, .inr i33, sm, sm⟩) (h_hp := .inr ⟨i42, .inr i43, sm, sm, .inr i46, sm, sm, sm, sm, sm, sm, sm⟩) (h_cnt := .inr i76) (h_limits := .inr i77) (h_evLog := .inr i78) (h_evLogSeq := .inr i79))
    | split
    | dsimp +zetaDelta only

theorem kept_classTcp {μ : Nat} (hw : 1133367955972290619900752 &&& μ = 1133367955972290619900752) {s0 : State} {f : Frame} {h : IpHdr} {bs : List Byte} {ooo : Bool} {s : State}  (kh : Kept μ s0 s) :
    Kept μ s0 (classTcp f h bs ooo s) := by
  have k_modOs : 12884901888 &&& μ = 12884901888 := sub_of hw rfl
  have k_modStrm : 768 &&& μ = 768 := sub_of hw rfl
  have k_strmCount : 982252228520449088159744 &&& μ = 982252228520449088159744 := sub_of hw rfl
  have k_tcpFrames : 1133367955972290619900752 &&& μ = 1133367955972290619900752 := sub_of hw rfl
  have i4 : μ.testBit 4 = true := bit_of hw rfl
  have i6 : μ.testBit 6 = true := bit_of hw rfl
  have i8 : μ.testBit 8 = true := bit_of hw rfl
  have i9 : μ.testBit 9 = true := bit_of hw rfl
  have i32 : μ.testBit 32 = true := bit_of hw rfl
  have i33 : μ.testBit 33 = true := bit_of hw rfl
  have i42 : μ.testBit 42 = true := bit_of hw rfl
  have i43 : μ.testBit 43 = true := bit_of hw rfl
  have i46 : μ.testBit 46 = true := bit_of hw rfl
  have i76 : μ.testBit 76 = true := bit_of hw rfl
  have i77 : μ.testBit 77 = true := bit_of hw rfl
  have i78 : μ.testBit 78 = true := bit_of hw rfl
  have i79 : μ.testBit 79 = true := bit_of hw rfl
  unfold classTcp
  repeat' first
    | with_reducible assumption
    | (intro s; with_reducible refine (fun (hs : Kept μ s0 s) => ?_) ?_)
    | intro x
    | lift_lets
    | with_reducible refine kept_modStrm k_modStrm ?_
    | with_reducible refine kept_strmCount k_strmCount ?_
    | with_reducible refine kept_modOs k_modOs ?_
    | with_reducible refine kept_tcpFrames k_tcpFrames ?_
    | (fail_if_no_progress with_reducible refine Kept.mk' ?_  (h_eth := .inr ⟨i4, sm, .inr i6, sm⟩) (h_ing := .inr ⟨i8, .inr i9, sm⟩) (h_pub := .inr ⟨i32, .inr i33, sm, sm⟩) (h_hp := .inr ⟨i42, .inr i43, sm, sm, .inr i46, sm, sm, sm, sm, sm, sm, sm⟩) (h_cnt := .inr i76) (h_limits := .inr i77) (h_evLog := .inr i78) (h_evLogSeq := .inr i79))
    | split
    | dsimp +zetaDelta only

theorem kept_classify {μ : Nat} (hw : 2342293780125703794066256 &&& μ = 2342293780125703794066256) {s0 : State} {f : Frame} {s : State}  (kh : Kept μ s0 s) :
    Kept μ s0 (classify f s) := by
  have k_classC37 : 1133367955972290619900752 &&& μ = 1133367955972290619900752 := sub_of hw rfl
  have k_classTcp : 1133367955972290619900752 &&& μ = 1133367955972290619900752 := sub_of hw rfl
  have k_classWitness : 982252228520449088159824 &&& μ = 982252228520449088159824 := sub_of hw rfl
  have k_count : 982252228520449088159744 &&& μ = 982252228520449088159744 := sub_of hw rfl
  have k_fresh : 1208925819614629174706176 &&& μ = 1208925819614629174706176 := sub_of hw rfl
  have k_handOn : 80 &&& μ = 80 := sub_of hw rfl
  have k_hbReject : 982252228520449088159744 &&& μ = 982252228520449088159744 := sub_of hw rfl
  have k_toHost : 982252233059233087619072 &&& μ = 982252233059233087619072 := sub_of hw rfl
  have k_undeclared : 1133367955972277734998016 &&& μ = 1133367955972277734998016 := sub_of hw rfl
  have i4 : μ.testBit 4 = true := bit_of hw rfl
  have i6 : μ.testBit 6 = true := bit_of hw rfl
  have i8 : μ.testBit 8 = true := bit_of hw rfl
  have i9 : μ.testBit 9 = true := bit_of hw rfl
  have i32 : μ.testBit 32 = true := bit_of hw rfl
  have i33 : μ.testBit 33 = true := bit_of hw rfl
  have i42 : μ.testBit 42 = true := bit_of hw rfl
  have i43 : μ.testBit 43 = true := bit_of hw rfl
  have i45 : μ.testBit 45 = true := bit_of hw rfl
  have i46 : μ.testBit 46 = true := bit_of hw rfl
  have i52 : μ.testBit 52 = true := bit_of hw rfl
  have i76 : μ.testBit 76 = true := bit_of hw rfl
  have i77 : μ.testBit 77 = true := bit_of hw rfl
  have i78 : μ.testBit 78 = true := bit_of hw rfl
  have i79 : μ.testBit 79 = true := bit_of hw rfl
  have i80 : μ.testBit 80 = true := bit_of hw rfl
  unfold classify
  repeat' first
    | with_reducible assumption
    | (intro s; with_reducible refine (fun (hs : Kept μ s0 s) => ?_) ?_)
    | intro x
    | lift_lets
    | with_reducible refine kept_fresh k_fresh ?_
    | with_reducible refine kept_count k_count ?_
    | with_reducible refine kept_handOn k_handOn ?_
    | with_reducible refine kept_hbReject k_hbReject ?_
    | with_reducible refine kept_toHost k_toHost ?_
    | with_reducible refine kept_undeclared k_undeclared ?_
    | with_reducible refine kept_classC37 k_classC37 ?_
    | with_reducible refine kept_classWitness k_classWitness ?_
    | with_reducible refine kept_classTcp k_classTcp ?_
    | with_reducible refine KeptS.eq (by with_reducible assumption) ?_
    | (fail_if_no_progress with_reducible refine Kept.mk' ?_  (h_eth := .inr ⟨i4, sm, .inr i6, sm⟩) (h_ing := .inr ⟨i8, .inr i9, sm⟩) (h_pub := .inr ⟨i32, .inr i33, sm, sm⟩) (h_hp := .inr ⟨i42, .inr i43, sm, .inr i45, .inr i46, sm, sm, sm, sm, sm, .inr i52, sm⟩) (h_cnt := .inr i76) (h_limits := .inr i77) (h_evLog := .inr i78) (h_evLogSeq := .inr i79) (h_free := .inr i80))
    | split
    | with_reducible refine KeptS.mk' ?_
    | with_reducible refine KeptS.snd ?_
    | dsimp +zetaDelta only

theorem kept_classifyUndeclared {μ : Nat} (hw : 2342293780125703794066256 &&& μ = 2342293780125703794066256) {s0 : State} {f : Frame} {s : State}  (kh : Kept μ s0 s) :
    Kept μ s0 (classifyUndeclared f s) := by
  have k_classify : 2342293780125703794066256 &&& μ = 2342293780125703794066256 := sub_of hw rfl
  have k_count : 982252228520449088159744 &&& μ = 982252228520449088159744 := sub_of hw rfl
  have k_ethCount : 982252228520449088159744 &&& μ = 982252228520449088159744 := sub_of hw rfl
  have k_fresh : 1208925819614629174706176 &&& μ = 1208925819614629174706176 := sub_of hw rfl
  have k_tcpReset : 982252228520461973062400 &&& μ = 982252228520461973062400 := sub_of hw rfl
  have k_undeclared : 1133367955972277734998016 &&& μ = 1133367955972277734998016 := sub_of hw rfl
  have i4 : μ.testBit 4 = true := bit_of hw rfl
  have i6 : μ.testBit 6 = true := bit_of hw rfl
  have i8 : μ.testBit 8 = true := bit_of hw rfl
  have i9 : μ.testBit 9 = true := bit_of hw rfl
  have i32 : μ.testBit 32 = true := bit_of hw rfl
  have i33 : μ.testBit 33 = true := bit_of hw rfl
  have i42 : μ.testBit 42 = true := bit_of hw rfl
  have i43 : μ.testBit 43 = true := bit_of hw rfl
  have i45 : μ.testBit 45 = true := bit_of hw rfl
  have i46 : μ.testBit 46 = true := bit_of hw rfl
  have i52 : μ.testBit 52 = true := bit_of hw rfl
  have i76 : μ.testBit 76 = true := bit_of hw rfl
  have i77 : μ.testBit 77 = true := bit_of hw rfl
  have i78 : μ.testBit 78 = true := bit_of hw rfl
  have i79 : μ.testBit 79 = true := bit_of hw rfl
  have i80 : μ.testBit 80 = true := bit_of hw rfl
  unfold classifyUndeclared
  repeat' first
    | with_reducible assumption
    | (intro s; with_reducible refine (fun (hs : Kept μ s0 s) => ?_) ?_)
    | intro x
    | lift_lets
    | with_reducible refine kept_fresh k_fresh ?_
    | with_reducible refine kept_count k_count ?_
    | with_reducible refine kept_ethCount k_ethCount ?_
    | with_reducible refine kept_undeclared k_undeclared ?_
    | with_reducible refine kept_tcpReset k_tcpReset ?_
    | with_reducible refine kept_classify k_classify ?_
    | with_reducible refine KeptS.eq (by with_reducible assumption) ?_
    | (fail_if_no_progress with_reducible refine Kept.mk' ?_  (h_eth := .inr ⟨i4, sm, .inr i6, sm⟩) (h_ing := .inr ⟨i8, .inr i9, sm⟩) (h_pub := .inr ⟨i32, .inr i33, sm, sm⟩) (h_hp := .inr ⟨i42, .inr i43, sm, .inr i45, .inr i46, sm, sm, sm, sm, sm, .inr i52, sm⟩) (h_cnt := .inr i76) (h_limits := .inr i77) (h_evLog := .inr i78) (h_evLogSeq := .inr i79) (h_free := .inr i80))
    | split
    | with_reducible refine KeptS.mk' ?_
    | with_reducible refine KeptS.snd ?_
    | dsimp +zetaDelta only

theorem kept_noRct {μ : Nat} (hw : 982252228520449088159744 &&& μ = 982252228520449088159744) {s0 : State} {f : Frame} {s : State}  (kh : Kept μ s0 s) :
    Kept μ s0 (noRct f s) := by
  have k_prpCount : 982252228520449088159744 &&& μ = 982252228520449088159744 := sub_of hw rfl
  have i42 : μ.testBit 42 = true := bit_of hw rfl
  have i43 : μ.testBit 43 = true := bit_of hw rfl
  have i46 : μ.testBit 46 = true := bit_of hw rfl
  have i76 : μ.testBit 76 = true := bit_of hw rfl
  have i78 : μ.testBit 78 = true := bit_of hw rfl
  have i79 : μ.testBit 79 = true := bit_of hw rfl
  unfold noRct
  repeat' first
    | with_reducible assumption
    | (intro s; with_reducible refine (fun (hs : Kept μ s0 s) => ?_) ?_)
    | intro x
    | lift_lets
    | with_reducible refine kept_prpCount k_prpCount ?_
    | (fail_if_no_progress with_reducible refine Kept.mk' ?_  (h_hp := .inr ⟨i42, .inr i43, sm, sm, .inr i46, sm, sm, sm, sm, sm, sm, sm⟩) (h_cnt := .inr i76) (h_evLog := .inr i78) (h_evLogSeq := .inr i79))
    | split
    | dsimp +zetaDelta only

theorem kept_dropped {μ : Nat} (hw : 982252228520449088159744 &&& μ = 982252228520449088159744) {s0 : State} {f : Frame} {s : State}  (kh : Kept μ s0 s) :
    Kept μ s0 (dropped f s) := by
  have k_prpCount : 982252228520449088159744 &&& μ = 982252228520449088159744 := sub_of hw rfl
  have i42 : μ.testBit 42 = true := bit_of hw rfl
  have i43 : μ.testBit 43 = true := bit_of hw rfl
  have i46 : μ.testBit 46 = true := bit_of hw rfl
  have i76 : μ.testBit 76 = true := bit_of hw rfl
  have i78 : μ.testBit 78 = true := bit_of hw rfl
  have i79 : μ.testBit 79 = true := bit_of hw rfl
  unfold dropped
  repeat' first
    | with_reducible assumption
    | (intro s; with_reducible refine (fun (hs : Kept μ s0 s) => ?_) ?_)
    | intro x
    | lift_lets
    | with_reducible refine kept_prpCount k_prpCount ?_
    | (fail_if_no_progress with_reducible refine Kept.mk' ?_  (h_hp := .inr ⟨i42, .inr i43, sm, sm, .inr i46, sm, sm, sm, sm, sm, sm, sm⟩) (h_cnt := .inr i76) (h_evLog := .inr i78) (h_evLogSeq := .inr i79))
    | split
    | dsimp +zetaDelta only

theorem kept_execFrameRx {μ : Nat} (hw : 2342293780143295980110833 &&& μ = 2342293780143295980110833) {s0 : State} {f : Frame} {s : State}  (kh : Kept μ s0 s) :
    KeptOut μ s0 (execFrameRx f s) := by
  have k_act : 0 &&& μ = 0 := sub_of hw rfl
  have k_classify : 2342293780125703794066256 &&& μ = 2342293780125703794066256 := sub_of hw rfl
  have k_classifyUndeclared : 2342293780125703794066256 &&& μ = 2342293780125703794066256 := sub_of hw rfl
  have k_dropped : 982252228520449088159744 &&& μ = 982252228520449088159744 := sub_of hw rfl
  have k_noRct : 982252228520449088159744 &&& μ = 982252228520449088159744 := sub_of hw rfl
  have k_prpDiscard : 1133367960475877362368721 &&& μ = 1133367960475877362368721 := sub_of hw rfl
  have k_rxChecks : 982252228538041274204209 &&& μ = 982252228538041274204209 := sub_of hw rfl
  have k_rxDrained : 48 &&& μ = 48 := sub_of hw rfl
  have k_undeclared : 1133367955972277734998016 &&& μ = 1133367955972277734998016 := sub_of hw rfl
  have i0 : μ.testBit 0 = true := bit_of hw rfl
  have i4 : μ.testBit 4 = true := bit_of hw rfl
  have i5 : μ.testBit 5 = true := bit_of hw rfl
  have i6 : μ.testBit 6 = true := bit_of hw rfl
  have i7 : μ.testBit 7 = true := bit_of hw rfl
  have i8 : μ.testBit 8 = true := bit_of hw rfl
  have i9 : μ.testBit 9 = true := bit_of hw rfl
  have i32 : μ.testBit 32 = true := bit_of hw rfl
  have i33 : μ.testBit 33 = true := bit_of hw rfl
  have i42 : μ.testBit 42 = true := bit_of hw rfl
  have i43 : μ.testBit 43 = true := bit_of hw rfl
  have i44 : μ.testBit 44 = true := bit_of hw rfl
  have i45 : μ.testBit 45 = true := bit_of hw rfl
  have i46 : μ.testBit 46 = true := bit_of hw rfl
  have i52 : μ.testBit 52 = true := bit_of hw rfl
  have i76 : μ.testBit 76 = true := bit_of hw rfl
  have i77 : μ.testBit 77 = true := bit_of hw rfl
  have i78 : μ.testBit 78 = true := bit_of hw rfl
  have i79 : μ.testBit 79 = true := bit_of hw rfl
  have i80 : μ.testBit 80 = true := bit_of hw rfl
  unfold execFrameRx
  repeat' first
    | with_reducible assumption
    | (intro s; with_reducible refine (fun (hs : Kept μ s0 s) => ?_) ?_)
    | intro x
    | lift_lets
    | with_reducible refine kept_act k_act (fun s hs => ?_) ?_
    | with_reducible refine kept_rxDrained k_rxDrained ?_
    | with_reducible refine kept_rxChecks k_rxChecks ?_
    | with_reducible refine kept_prpDiscard k_prpDiscard ?_
    | with_reducible refine kept_undeclared k_undeclared ?_
    | with_reducible refine kept_classify k_classify ?_
    | with_reducible refine kept_classifyUndeclared k_classifyUndeclared ?_
    | with_reducible refine kept_noRct k_noRct ?_
    | with_reducible refine kept_dropped k_dropped ?_
    | with_reducible refine KeptF.eq (by with_reducible assumption) ?_
    | (fail_if_no_progress with_reducible refine Kept.mk' ?_  (h_tb := .inr ⟨i0, sm, sm, sm⟩) (h_eth := .inr ⟨i4, .inr i5, .inr i6, .inr i7⟩) (h_ing := .inr ⟨i8, .inr i9, sm⟩) (h_pub := .inr ⟨i32, .inr i33, sm, sm⟩) (h_hp := .inr ⟨i42, .inr i43, .inr i44, .inr i45, .inr i46, sm, sm, sm, sm, sm, .inr i52, sm⟩) (h_cnt := .inr i76) (h_limits := .inr i77) (h_evLog := .inr i78) (h_evLogSeq := .inr i79) (h_free := .inr i80))
    | split
    | with_reducible refine KeptOut.mk' ?_
    | with_reducible refine KeptF.mk' ?_
    | with_reducible refine KeptF.fst ?_
    | dsimp +zetaDelta only

theorem kept_execPauseFrameRx {μ : Nat} (hw : 982252228538041274204209 &&& μ = 982252228538041274204209) {s0 : State} {f : Frame} {s : State}  (kh : Kept μ s0 s) :
    KeptOut μ s0 (execPauseFrameRx f s) := by
  have k_act : 0 &&& μ = 0 := sub_of hw rfl
  have k_rxChecks : 982252228538041274204209 &&& μ = 982252228538041274204209 := sub_of hw rfl
  have i0 : μ.testBit 0 = true := bit_of hw rfl
  have i4 : μ.testBit 4 = true := bit_of hw rfl
  have i5 : μ.testBit 5 = true := bit_of hw rfl
  have i42 : μ.testBit 42 = true := bit_of hw rfl
  have i43 : μ.testBit 43 = true := bit_of hw rfl
  have i44 : μ.testBit 44 = true := bit_of hw rfl
  have i46 : μ.testBit 46 = true := bit_of hw rfl
  have i76 : μ.testBit 76 = true := bit_of hw rfl
  have i78 : μ.testBit 78 = true := bit_of hw rfl
  have i79 : μ.testBit 79 = true := bit_of hw rfl
  unfold execPauseFrameRx
  repeat' first
    | with_reducible assumption
    | (intro s; with_reducible refine (fun (hs : Kept μ s0 s) => ?_) ?_)
    | intro x
    | lift_lets
    | with_reducible refine kept_act k_act (fun s hs => ?_) ?_
    | with_reducible refine kept_rxChecks k_rxChecks ?_
    | with_reducible refine KeptF.eq (by with_reducible assumption) ?_
    | (fail_if_no_progress with_reducible refine Kept.mk' ?_  (h_tb := .inr ⟨i0, sm, sm, sm⟩) (h_eth := .inr ⟨i4, .inr i5, sm, sm⟩) (h_hp := .inr ⟨i42, .inr i43, .inr i44, sm, .inr i46, sm, sm, sm, sm, sm, sm, sm⟩) (h_cnt := .inr i76) (h_evLog := .inr i78) (h_evLogSeq := .inr i79))
    | split
    | with_reducible refine KeptOut.mk' ?_
    | with_reducible refine KeptF.mk' ?_
    | with_reducible refine KeptF.fst ?_
    | dsimp +zetaDelta only

theorem kept_execFrameTxComplete {μ : Nat} (hw : 982252233059237382586417 &&& μ = 982252233059237382586417) {s0 : State} {n id dep : Nat} {s : State} {sub : Nat}  (kh : Kept μ s0 s) :
    KeptOut μ s0 (execFrameTxComplete n id dep s sub) := by
  have k_act : 0 &&& μ = 0 := sub_of hw rfl
  have k_frameDeparted : 982252233059237382586368 &&& μ = 982252233059237382586368 := sub_of hw rfl
  have k_txComplete : 982252233059233087619121 &&& μ = 982252233059233087619121 := sub_of hw rfl
  have i0 : μ.testBit 0 = true := bit_of hw rfl
  have i4 : μ.testBit 4 = true := bit_of hw rfl
  have i5 : μ.testBit 5 = true := bit_of hw rfl
  have i32 : μ.testBit 32 = true := bit_of hw rfl
  have i42 : μ.testBit 42 = true := bit_of hw rfl
  have i43 : μ.testBit 43 = true := bit_of hw rfl
  have i45 : μ.testBit 45 = true := bit_of hw rfl
  have i46 : μ.testBit 46 = true := bit_of hw rfl
  have i52 : μ.testBit 52 = true := bit_of hw rfl
  have i76 : μ.testBit 76 = true := bit_of hw rfl
  have i78 : μ.testBit 78 = true := bit_of hw rfl
  have i79 : μ.testBit 79 = true := bit_of hw rfl
  unfold execFrameTxComplete
  repeat' first
    | with_reducible assumption
    | (intro s; with_reducible refine (fun (hs : Kept μ s0 s) => ?_) ?_)
    | intro x
    | lift_lets
    | with_reducible refine kept_act k_act (fun s hs => ?_) ?_
    | with_reducible refine kept_txComplete k_txComplete ?_
    | with_reducible refine kept_frameDeparted k_frameDeparted ?_
    | with_reducible refine KeptF.eq (by with_reducible assumption) ?_
    | (fail_if_no_progress with_reducible refine Kept.mk' ?_  (h_tb := .inr ⟨i0, sm, sm, sm⟩) (h_eth := .inr ⟨i4, .inr i5, sm, sm⟩) (h_pub := .inr ⟨i32, sm, sm, sm⟩) (h_hp := .inr ⟨i42, .inr i43, sm, .inr i45, .inr i46, sm, sm, sm, sm, sm, .inr i52, sm⟩) (h_cnt := .inr i76) (h_evLog := .inr i78) (h_evLogSeq := .inr i79))
    | split
    | with_reducible refine KeptOut.mk' ?_
    | with_reducible refine KeptF.mk' ?_
    | with_reducible refine KeptF.fst ?_
    | dsimp +zetaDelta only

theorem kept_execLinkDown {μ : Nat} (hw : 982252251073631597101104 &&& μ = 982252251073631597101104) {s0 : State} {n : Nat} {rxCut : Bool} {s : State}  (kh : Kept μ s0 s) :
    KeptOut μ s0 (execLinkDown n rxCut s) := by
  have k_act : 0 &&& μ = 0 := sub_of hw rfl
  have k_calfaDown : 906694382808933274222592 &&& μ = 906694382808933274222592 := sub_of hw rfl
  have k_portDown : 982252233059233087619120 &&& μ = 982252233059233087619120 := sub_of hw rfl
  unfold execLinkDown
  repeat' first
    | with_reducible assumption
    | (intro s; with_reducible refine (fun (hs : Kept μ s0 s) => ?_) ?_)
    | intro x
    | lift_lets
    | with_reducible refine kept_act k_act (fun s hs => ?_) ?_
    | with_reducible refine kept_portDown k_portDown ?_
    | with_reducible refine kept_calfaDown k_calfaDown ?_
    | split
    | with_reducible refine KeptOut.mk' ?_
    | dsimp +zetaDelta only

theorem kept_execPtpMsgRx {μ : Nat} (hw : 984908559667063263592561 &&& μ = 984908559667063263592561) {s0 : State} {s : State}  (kh : Kept μ s0 s) :
    KeptOut μ s0 (execPtpMsgRx s) := by
  have k_act : 0 &&& μ = 0 := sub_of hw rfl
  have k_ptpHandle : 984908559667063263592449 &&& μ = 984908559667063263592449 := sub_of hw rfl
  have k_ptpMsgRx : 113 &&& μ = 113 := sub_of hw rfl
  unfold execPtpMsgRx
  repeat' first
    | with_reducible assumption
    | (intro s; with_reducible refine (fun (hs : Kept μ s0 s) => ?_) ?_)
    | intro x
    | lift_lets
    | with_reducible refine kept_act k_act (fun s hs => ?_) ?_
    | with_reducible refine kept_ptpMsgRx k_ptpMsgRx (fun a b s hs => ?_) ?_
    | with_reducible refine kept_ptpHandle k_ptpHandle ?_
    | split
    | with_reducible refine KeptOut.mk' ?_
    | dsimp +zetaDelta only

theorem kept_execPtpMsgTx {μ : Nat} (hw : 982252233059233087619120 &&& μ = 982252233059233087619120) {s0 : State} {x : PtpSend} {s : State}  (kh : Kept μ s0 s) :
    KeptOut μ s0 (execPtpMsgTx x s) := by
  have k_act : 0 &&& μ = 0 := sub_of hw rfl
  have k_enqueue1 : 982252233059233087619120 &&& μ = 982252233059233087619120 := sub_of hw rfl
  have i4 : μ.testBit 4 = true := bit_of hw rfl
  have i5 : μ.testBit 5 = true := bit_of hw rfl
  have i42 : μ.testBit 42 = true := bit_of hw rfl
  have i43 : μ.testBit 43 = true := bit_of hw rfl
  have i45 : μ.testBit 45 = true := bit_of hw rfl
  have i46 : μ.testBit 46 = true := bit_of hw rfl
  have i52 : μ.testBit 52 = true := bit_of hw rfl
  have i76 : μ.testBit 76 = true := bit_of hw rfl
  have i78 : μ.testBit 78 = true := bit_of hw rfl
  have i79 : μ.testBit 79 = true := bit_of hw rfl
  unfold execPtpMsgTx
  repeat' first
    | with_reducible assumption
    | (intro s; with_reducible refine (fun (hs : Kept μ s0 s) => ?_) ?_)
    | intro x
    | lift_lets
    | with_reducible refine kept_act k_act (fun s hs => ?_) ?_
    | with_reducible refine kept_enqueue1 k_enqueue1 ?_
    | (fail_if_no_progress with_reducible refine Kept.mk' ?_  (h_eth := .inr ⟨i4, .inr i5, sm, sm⟩) (h_hp := .inr ⟨i42, .inr i43, sm, .inr i45, .inr i46, sm, sm, sm, sm, sm, .inr i52, sm⟩) (h_cnt := .inr i76) (h_evLog := .inr i78) (h_evLogSeq := .inr i79))
    | split
    | with_reducible refine KeptOut.mk' ?_
    | dsimp +zetaDelta only

end Sys2Proof.Machine
end

