-- ==== Sys2Proof/Laws/KeptBoundary.lean ====
section
/-!
SUPPORT. Sys2Proof/Laws/KeptBoundary.lean: every operation of Boundary.lean keeps what no command changes, and the parts that it does not write (Kept.lean).
-/
set_option Elab.async false
set_option linter.unusedTactic false
set_option linter.unreachableTactic false
set_option linter.unusedVariables false
namespace Sys2Proof.Machine

theorem kept_policerTicks {μ : Nat} (hw : 819968 &&& μ = 819968) {s0 : State} {s : State}  (kh : Kept μ s0 s) :
    Kept μ s0 (policerTicks s) := by
  have k_dsPolicerTick : 786432 &&& μ = 786432 := sub_of hw rfl
  have k_policerTick : 768 &&& μ = 768 := sub_of hw rfl
  have k_svPolicerTick : 32768 &&& μ = 32768 := sub_of hw rfl
  unfold policerTicks
  repeat' first
    | with_reducible assumption
    | (intro s; with_reducible refine (fun (hs : Kept μ s0 s) => ?_) ?_)
    | intro x
    | lift_lets
    | with_reducible refine kept_policerTick k_policerTick ?_
    | with_reducible refine kept_svPolicerTick k_svPolicerTick ?_
    | with_reducible refine kept_dsPolicerTick k_dsPolicerTick ?_
    | split
    | dsimp +zetaDelta only

theorem kept_execTickBoundary {μ : Nat} (hw : 1136024381747320249418551 &&& μ = 1136024381747320249418551) {s0 : State} {di : BitVec 16} {s : State} {bad : List (Nat × Nat)}  (kh : Kept μ s0 s) :
    KeptOut μ s0 (execTickBoundary di s bad) := by
  have k_act : 0 &&& μ = 0 := sub_of hw rfl
  have k_advance : 3 &&& μ = 3 := sub_of hw rfl
  have k_arbTick : 982252228520451235643392 &&& μ = 982252228520451235643392 := sub_of hw rfl
  have k_capDi : 4194304 &&& μ = 4194304 := sub_of hw rfl
  have k_capTimeouts : 12582912 &&& μ = 12582912 := sub_of hw rfl
  have k_dlTick : 21991843168256 &&& μ = 21991843168256 := sub_of hw rfl
  have k_doTick : 38654705664 &&& μ = 38654705664 := sub_of hw rfl
  have k_gooseTicks : 1133367960511083209293872 &&& μ = 1133367960511083209293872 := sub_of hw rfl
  have k_linkDownTick : 982252233059233087619120 &&& μ = 982252233059233087619120 := sub_of hw rfl
  have k_pairTick : 906694454866527312150528 &&& μ = 906694454866527312150528 := sub_of hw rfl
  have k_pauseTick : 982252228520449088159792 &&& μ = 982252228520449088159792 := sub_of hw rfl
  have k_policerTicks : 819968 &&& μ = 819968 := sub_of hw rfl
  have k_sampleDi : 4294967297 &&& μ = 4294967297 := sub_of hw rfl
  have k_schedMode : 982252228520449625030656 &&& μ = 982252228520449625030656 := sub_of hw rfl
  have k_stnTick : 982252228520449088946176 &&& μ = 982252228520449088946176 := sub_of hw rfl
  have k_timeTick : 984908559667063263592453 &&& μ = 984908559667063263592453 := sub_of hw rfl
  unfold execTickBoundary
  refine kept_act k_act (fun s hs => ?_) kh
  split
  · exact hs
  · rename_i st
    exact kept_schedMode k_schedMode (kept_arbTick k_arbTick (kept_dlTick k_dlTick (kept_capTimeouts k_capTimeouts (kept_capDi k_capDi (kept_stnTick k_stnTick (kept_doTick k_doTick (kept_sampleDi k_sampleDi (kept_gooseTicks k_gooseTicks
      (kept_linkDownTick k_linkDownTick (kept_pauseTick k_pauseTick (kept_policerTicks k_policerTicks (kept_pairTick k_pairTick (kept_timeTick k_timeTick (kept_advance k_advance (by simpa using st) hs))))))))))))))

theorem kept_execProvisionalTick {μ : Nat} (hw : 21991843988225 &&& μ = 21991843988225) {s0 : State} {s : State}  (kh : Kept μ s0 s) :
    KeptOut μ s0 (execProvisionalTick s) := by
  have k_act : 0 &&& μ = 0 := sub_of hw rfl
  have k_dlProvisional : 21991843168256 &&& μ = 21991843168256 := sub_of hw rfl
  have k_nextEdge : 1 &&& μ = 1 := sub_of hw rfl
  have k_policerTicks : 819968 &&& μ = 819968 := sub_of hw rfl
  unfold execProvisionalTick
  repeat' first
    | with_reducible assumption
    | (intro s; with_reducible refine (fun (hs : Kept μ s0 s) => ?_) ?_)
    | intro x
    | lift_lets
    | with_reducible refine kept_act k_act (fun s hs => ?_) ?_
    | with_reducible refine kept_nextEdge k_nextEdge ?_
    | with_reducible refine kept_dlProvisional k_dlProvisional ?_
    | with_reducible refine kept_policerTicks k_policerTicks ?_
    | split
    | with_reducible refine KeptOut.mk' ?_
    | dsimp +zetaDelta only

theorem kept_execTbStep {μ : Nat} (hw : 1136025462593580045605055 &&& μ = 1136025462593580045605055) {s0 : State} {src ns since : Nat} {s : State}  (kh : Kept μ s0 s) :
    KeptOut μ s0 (execTbStep src ns since s) := by
  have k_act : 0 &&& μ = 0 := sub_of hw rfl
  have k_grpWait : 6144 &&& μ = 6144 := sub_of hw rfl
  have k_masterArm : 1133367960511061747040304 &&& μ = 1133367960511061747040304 := sub_of hw rfl
  have k_mtrBegin : 1152921504808173568 &&& μ = 1152921504808173568 := sub_of hw rfl
  have k_schedMode : 982252228520449625030656 &&& μ = 982252228520449625030656 := sub_of hw rfl
  have k_timeStep : 1060466441407376444784831 &&& μ = 1060466441407376444784831 := sub_of hw rfl
  unfold execTbStep
  repeat' first
    | with_reducible assumption
    | (intro s; with_reducible refine (fun (hs : Kept μ s0 s) => ?_) ?_)
    | intro x
    | lift_lets
    | with_reducible refine kept_act k_act (fun s hs => ?_) ?_
    | with_reducible refine kept_timeStep k_timeStep ?_
    | with_reducible refine kept_grpWait k_grpWait ?_
    | with_reducible refine kept_masterArm k_masterArm ?_
    | with_reducible refine kept_mtrBegin k_mtrBegin ?_
    | with_reducible refine kept_schedMode k_schedMode ?_
    | with_reducible refine kept_foldl (fun s x hs => ?_) ?_
    | split
    | with_reducible refine KeptOut.mk' ?_
    | dsimp +zetaDelta only

theorem kept_tbRestarted {μ : Nat} (hw : 5 &&& μ = 5) {s0 : State} {s : State}  (kh : Kept μ s0 s) :
    Kept μ s0 (tbRestarted s) := by
  have i0 : μ.testBit 0 = true := bit_of hw rfl
  have i2 : μ.testBit 2 = true := bit_of hw rfl
  unfold tbRestarted
  repeat' first
    | with_reducible assumption
    | (intro s; with_reducible refine (fun (hs : Kept μ s0 s) => ?_) ?_)
    | intro x
    | lift_lets
    | (fail_if_no_progress with_reducible refine Kept.mk' ?_  (h_tb := .inr ⟨i0, sm, .inr i2, sm⟩))
    | split
    | dsimp +zetaDelta only

theorem kept_svRestart {μ : Nat} (hw : 1133367962762861611108400 &&& μ = 1133367962762861611108400) {s0 : State} {s : State}  (kh : Kept μ s0 s) :
    Kept μ s0 (svRestart s) := by
  have k_drainRec : 1133367962762861611075632 &&& μ = 1133367962762861611075632 := sub_of hw rfl
  have k_modCapRec : 12582912 &&& μ = 12582912 := sub_of hw rfl
  have k_truncateTake : 982252228520449117519872 &&& μ = 982252228520449117519872 := sub_of hw rfl
  have i4 : μ.testBit 4 = true := bit_of hw rfl
  have i5 : μ.testBit 5 = true := bit_of hw rfl
  have i11 : μ.testBit 11 = true := bit_of hw rfl
  have i14 : μ.testBit 14 = true := bit_of hw rfl
  have i15 : μ.testBit 15 = true := bit_of hw rfl
  have i22 : μ.testBit 22 = true := bit_of hw rfl
  have i23 : μ.testBit 23 = true := bit_of hw rfl
  have i24 : μ.testBit 24 = true := bit_of hw rfl
  have i25 : μ.testBit 25 = true := bit_of hw rfl
  have i42 : μ.testBit 42 = true := bit_of hw rfl
  have i43 : μ.testBit 43 = true := bit_of hw rfl
  have i45 : μ.testBit 45 = true := bit_of hw rfl
  have i46 : μ.testBit 46 = true := bit_of hw rfl
  have i51 : μ.testBit 51 = true := bit_of hw rfl
  have i52 : μ.testBit 52 = true := bit_of hw rfl
  have i76 : μ.testBit 76 = true := bit_of hw rfl
  have i77 : μ.testBit 77 = true := bit_of hw rfl
  have i78 : μ.testBit 78 = true := bit_of hw rfl
  have i79 : μ.testBit 79 = true := bit_of hw rfl
  unfold svRestart
  repeat' first
    | with_reducible assumption
    | (intro s; with_reducible refine (fun (hs : Kept μ s0 s) => ?_) ?_)
    | intro x
    | lift_lets
    | with_reducible refine kept_modCapRec k_modCapRec ?_
    | with_reducible refine kept_truncateTake k_truncateTake ?_
    | with_reducible refine kept_drainRec k_drainRec ?_
    | with_reducible refine kept_foldl (fun s x hs => ?_) ?_
    | (fail_if_no_progress with_reducible refine Kept.mk' ?_  (h_eth := .inr ⟨i4, .inr i5, sm, sm⟩) (h_aln := .inr ⟨i11, sm, sm, .inr i14⟩) (h_svf := .inr i15) (h_cap := .inr ⟨i22, .inr i23, .inr i24, .inr i25⟩) (h_hp := .inr ⟨i42, .inr i43, sm, .inr i45, .inr i46, sm, sm, sm, sm, .inr i51, .inr i52, sm⟩) (h_cnt := .inr i76) (h_limits := .inr i77) (h_evLog := .inr i78) (h_evLogSeq := .inr i79))
    | split
    | dsimp +zetaDelta only

theorem kept_execTimebaseRestart {μ : Nat} (hw : 2342322605415120924825653 &&& μ = 2342322605415120924825653) {s0 : State} {s : State}  (kh : Kept μ s0 s) :
    KeptOut μ s0 (execTimebaseRestart s) := by
  have k_act : 0 &&& μ = 0 := sub_of hw rfl
  have k_dlDiscard : 982252228520450698772480 &&& μ = 982252228520450698772480 := sub_of hw rfl
  have k_groupReinit : 982252228520449090525184 &&& μ = 982252228520449090525184 := sub_of hw rfl
  have k_icnsStop : 131072 &&& μ = 131072 := sub_of hw rfl
  have k_mtrRestart : 2342322600876322364325888 &&& μ = 2342322600876322364325888 := sub_of hw rfl
  have k_raise : 906694364785738671718400 &&& μ = 906694364785738671718400 := sub_of hw rfl
  have k_refreshTq : 906694364785738671718401 &&& μ = 906694364785738671718401 := sub_of hw rfl
  have k_schedMode : 982252228520449625030656 &&& μ = 982252228520449625030656 := sub_of hw rfl
  have k_svRestart : 1133367962762861611108400 &&& μ = 1133367962762861611108400 := sub_of hw rfl
  have k_tbRestarted : 5 &&& μ = 5 := sub_of hw rfl
  have i0 : μ.testBit 0 = true := bit_of hw rfl
  have i2 : μ.testBit 2 = true := bit_of hw rfl
  have i4 : μ.testBit 4 = true := bit_of hw rfl
  have i5 : μ.testBit 5 = true := bit_of hw rfl
  have i11 : μ.testBit 11 = true := bit_of hw rfl
  have i12 : μ.testBit 12 = true := bit_of hw rfl
  have i14 : μ.testBit 14 = true := bit_of hw rfl
  have i15 : μ.testBit 15 = true := bit_of hw rfl
  have i16 : μ.testBit 16 = true := bit_of hw rfl
  have i17 : μ.testBit 17 = true := bit_of hw rfl
  have i18 : μ.testBit 18 = true := bit_of hw rfl
  have i21 : μ.testBit 21 = true := bit_of hw rfl
  have i22 : μ.testBit 22 = true := bit_of hw rfl
  have i23 : μ.testBit 23 = true := bit_of hw rfl
  have i24 : μ.testBit 24 = true := bit_of hw rfl
  have i25 : μ.testBit 25 = true := bit_of hw rfl
  have i26 : μ.testBit 26 = true := bit_of hw rfl
  have i27 : μ.testBit 27 = true := bit_of hw rfl
  have i28 : μ.testBit 28 = true := bit_of hw rfl
  have i29 : μ.testBit 29 = true := bit_of hw rfl
  have i30 : μ.testBit 30 = true := bit_of hw rfl
  have i32 : μ.testBit 32 = true := bit_of hw rfl
  have i33 : μ.testBit 33 = true := bit_of hw rfl
  have i42 : μ.testBit 42 = true := bit_of hw rfl
  have i43 : μ.testBit 43 = true := bit_of hw rfl
  have i45 : μ.testBit 45 = true := bit_of hw rfl
  have i46 : μ.testBit 46 = true := bit_of hw rfl
  have i51 : μ.testBit 51 = true := bit_of hw rfl
  have i52 : μ.testBit 52 = true := bit_of hw rfl
  have i60 : μ.testBit 60 = true := bit_of hw rfl
  have i63 : μ.testBit 63 = true := bit_of hw rfl
  have i64 : μ.testBit 64 = true := bit_of hw rfl
  have i76 : μ.testBit 76 = true := bit_of hw rfl
  have i77 : μ.testBit 77 = true := bit_of hw rfl
  have i78 : μ.testBit 78 = true := bit_of hw rfl
  have i79 : μ.testBit 79 = true := bit_of hw rfl
  have i80 : μ.testBit 80 = true := bit_of hw rfl
  unfold execTimebaseRestart
  repeat' first
    | with_reducible assumption
    | (intro s; with_reducible refine (fun (hs : Kept μ s0 s) => ?_) ?_)
    | intro x
    | lift_lets
    | with_reducible refine kept_act k_act (fun s hs => ?_) ?_
    | with_reducible refine kept_raise k_raise ?_
    | with_reducible refine kept_refreshTq k_refreshTq ?_
    | with_reducible refine kept_icnsStop k_icnsStop ?_
    | with_reducible refine kept_groupReinit k_groupReinit ?_
    | with_reducible refine kept_mtrRestart k_mtrRestart ?_
    | with_reducible refine kept_dlDiscard k_dlDiscard ?_
    | with_reducible refine kept_schedMode k_schedMode ?_
    | with_reducible refine kept_tbRestarted k_tbRestarted ?_
    | with_reducible refine kept_svRestart k_svRestart ?_
    | with_reducible refine kept_foldl (fun s x hs => ?_) ?_
    | (fail_if_no_progress with_reducible refine Kept.mk' ?_  (h_tb := .inr ⟨i0, sm, .inr i2, sm⟩) (h_eth := .inr ⟨i4, .inr i5, sm, sm⟩) (h_aln := .inr ⟨i11, .inr i12, sm, .inr i14⟩) (h_svf := .inr i15) (h_osc := .inr i16) (h_isl := .inr i17) (h_sch := .inr ⟨i18, sm, sm, .inr i21⟩) (h_cap := .inr ⟨i22, .inr i23, .inr i24, .inr i25⟩) (h_mtr := .inr ⟨i26, .inr i27, .inr i28⟩) (h_tsk := .inr ⟨i29, .inr i30⟩) (h_pub := .inr ⟨i32, .inr i33, sm, sm⟩) (h_hp := .inr ⟨i42, .inr i43, sm, .inr i45, .inr i46, sm, sm, sm, sm, .inr i51, .inr i52, sm⟩) (h_nv := .inr ⟨i60, sm, sm, .inr i63, .inr i64, sm, sm, sm⟩) (h_cnt := .inr i76) (h_limits := .inr i77) (h_evLog := .inr i78) (h_evLogSeq := .inr i79) (h_free := .inr i80))
    | split
    | with_reducible refine KeptOut.mk' ?_
    | dsimp +zetaDelta only

theorem kept_execGroupStart {μ : Nat} (hw : 982252228520496347953152 &&& μ = 982252228520496347953152) {s0 : State} {g : Nat} {s : State}  (kh : Kept μ s0 s) :
    KeptOut μ s0 (execGroupStart g s) := by
  have k_act : 0 &&& μ = 0 := sub_of hw rfl
  have k_groupRecs : 12582912 &&& μ = 12582912 := sub_of hw rfl
  have k_groupStart : 982252228520496339564544 &&& μ = 982252228520496339564544 := sub_of hw rfl
  unfold execGroupStart
  repeat' first
    | with_reducible assumption
    | (intro s; with_reducible refine (fun (hs : Kept μ s0 s) => ?_) ?_)
    | intro x
    | lift_lets
    | with_reducible refine kept_act k_act (fun s hs => ?_) ?_
    | with_reducible refine kept_groupStart k_groupStart ?_
    | with_reducible refine kept_groupRecs k_groupRecs ?_
    | split
    | with_reducible refine KeptOut.mk' ?_
    | dsimp +zetaDelta only

end Sys2Proof.Machine
end

