-- ==== Sys2Proof/Laws/Frames.lean ====
section
/-!
SUPPORT. Sys2Proof/Laws/Frames.lean: from the masks of Kept.lean to the parts of Safety.lean.
-/
namespace Sys2Proof.Machine

/-- The number of a part: its bit in the masks of Kept.lean. -/
def Item.bit (i : Item) : Nat :=
  match i with
  | .tb => 0
  | .clock => 1
  | .timeState => 2
  | .utcOfs => 3
  | .eth => 4
  | .ports => 5
  | .handed => 6
  | .dup => 7
  | .ing => 8
  | .strms => 9
  | .recs => 10
  | .aln => 11
  | .grps => 12
  | .votes => 13
  | .sets => 14
  | .svf => 15
  | .osc => 16
  | .isl => 17
  | .sch => 18
  | .inputs => 19
  | .points => 20
  | .scans => 21
  | .cap => 22
  | .recorders => 23
  | .reel => 24
  | .slates => 25
  | .mtr => 26
  | .mtrPts => 27
  | .pulses => 28
  | .tsk => 29
  | .work => 30
  | .arb => 31
  | .pub => 32
  | .outStreams => 33
  | .goosePubs => 34
  | .dos => 35
  | .cfg => 36
  | .active => 37
  | .staged => 38
  | .slots => 39
  | .pars => 40
  | .pushBuf => 41
  | .hp => 42
  | .hpRegs => 43
  | .hpShow => 44
  | .hpCtr => 45
  | .hpEv => 46
  | .hpEvq => 47
  | .hpCmd => 48
  | .hpBatch => 49
  | .hpFence => 50
  | .hpHrv => 51
  | .hpFrames => 52
  | .hpLink => 53
  | .pair => 54
  | .role => 55
  | .lease => 56
  | .genImg => 57
  | .sec => 58
  | .unsealed => 59
  | .nv => 60
  | .vault => 61
  | .fw => 62
  | .bill => 63
  | .banks => 64
  | .savedPars => 65
  | .dumps => 66
  | .latency => 67
  | .vbat => 68
  | .kek => 69
  | .rtc => 70
  | .utcStored => 71
  | .tlog => 72
  | .fuses => 73
  | .pwr => 74
  | .pwrState => 75
  | .cnt => 76
  | .limits => 77
  | .evLog => 78
  | .evLogSeq => 79
  | .free => 80
  | .queue => 81
  | .part => 82

/-- The mask of a list of parts. -/
def maskOf : List Item → Nat
  | [] => 0
  | i :: l => maskOf l ||| 2 ^ i.bit

/-- The part of a number. -/
def Item.atBit (n : Nat) : Item :=
  match n with
  | 0 => .tb
  | 1 => .clock
  | 2 => .timeState
  | 3 => .utcOfs
  | 4 => .eth
  | 5 => .ports
  | 6 => .handed
  | 7 => .dup
  | 8 => .ing
  | 9 => .strms
  | 10 => .recs
  | 11 => .aln
  | 12 => .grps
  | 13 => .votes
  | 14 => .sets
  | 15 => .svf
  | 16 => .osc
  | 17 => .isl
  | 18 => .sch
  | 19 => .inputs
  | 20 => .points
  | 21 => .scans
  | 22 => .cap
  | 23 => .recorders
  | 24 => .reel
  | 25 => .slates
  | 26 => .mtr
  | 27 => .mtrPts
  | 28 => .pulses
  | 29 => .tsk
  | 30 => .work
  | 31 => .arb
  | 32 => .pub
  | 33 => .outStreams
  | 34 => .goosePubs
  | 35 => .dos
  | 36 => .cfg
  | 37 => .active
  | 38 => .staged
  | 39 => .slots
  | 40 => .pars
  | 41 => .pushBuf
  | 42 => .hp
  | 43 => .hpRegs
  | 44 => .hpShow
  | 45 => .hpCtr
  | 46 => .hpEv
  | 47 => .hpEvq
  | 48 => .hpCmd
  | 49 => .hpBatch
  | 50 => .hpFence
  | 51 => .hpHrv
  | 52 => .hpFrames
  | 53 => .hpLink
  | 54 => .pair
  | 55 => .role
  | 56 => .lease
  | 57 => .genImg
  | 58 => .sec
  | 59 => .unsealed
  | 60 => .nv
  | 61 => .vault
  | 62 => .fw
  | 63 => .bill
  | 64 => .banks
  | 65 => .savedPars
  | 66 => .dumps
  | 67 => .latency
  | 68 => .vbat
  | 69 => .kek
  | 70 => .rtc
  | 71 => .utcStored
  | 72 => .tlog
  | 73 => .fuses
  | 74 => .pwr
  | 75 => .pwrState
  | 76 => .cnt
  | 77 => .limits
  | 78 => .evLog
  | 79 => .evLogSeq
  | 80 => .free
  | 81 => .queue
  | 82 => .part
  | _ => .tb

theorem Item.bit_inj {i j : Item} (h : i.bit = j.bit) : i = j := by
  have key : ∀ i : Item, Item.atBit i.bit = i := fun i => by cases i <;> rfl
  rw [← key i, h, key j]

theorem testBit_maskOf {l : List Item} {i : Item} (h : i ∉ l) : (maskOf l).testBit i.bit = false := by
  induction l with
  | nil => simp [maskOf]
  | cons j l ih =>
    simp only [List.mem_cons, not_or] at h
    have ne : ¬ j.bit = i.bit := fun e => h.1 (Item.bit_inj e.symm)
    simp [maskOf, Nat.testBit_or, ih h.2, ne]

/-- A part whose bit is not in the mask is the same. -/
theorem Kept.same {μ : Nat} {s t : State} (h : Kept μ s t) {i : Item} (hi : μ.testBit i.bit = false) : i.same s t := by
  cases i with
  | tb => exact h.fr.tb hi
  | clock => exact h.fr.clock hi
  | timeState => exact h.fr.timeState hi
  | utcOfs => exact h.fr.utcOfs hi
  | eth => exact h.fr.eth hi
  | ports => exact h.fr.ports hi
  | handed => exact h.fr.handed hi
  | dup => exact h.fr.dup hi
  | ing => exact h.fr.ing hi
  | strms => exact h.fr.strms hi
  | recs => exact h.fr.recs hi
  | aln => exact h.fr.aln hi
  | grps => exact h.fr.grps hi
  | votes => exact h.fr.votes hi
  | sets => exact h.fr.sets hi
  | svf => exact h.fr.svf hi
  | osc => exact h.fr.osc hi
  | isl => exact h.fr.isl hi
  | sch => exact h.fr.sch hi
  | inputs => exact h.fr.inputs hi
  | points => exact h.fr.points hi
  | scans => exact h.fr.scans hi
  | cap => exact h.fr.cap hi
  | recorders => exact h.fr.recorders hi
  | reel => exact h.fr.reel hi
  | slates => exact h.fr.slates hi
  | mtr => exact h.fr.mtr hi
  | mtrPts => exact h.fr.mtrPts hi
  | pulses => exact h.fr.pulses hi
  | tsk => exact h.fr.tsk hi
  | work => exact h.fr.work hi
  | arb => exact h.fr.arb hi
  | pub => exact h.fr.pub hi
  | outStreams => exact h.fr.outStreams hi
  | goosePubs => exact h.fr.goosePubs hi
  | dos => exact h.fr.dos hi
  | cfg => exact h.fr.cfg hi
  | active => exact h.fr.active hi
  | staged => exact h.fr.staged hi
  | slots => exact h.fr.slots hi
  | pars => exact h.fr.pars hi
  | pushBuf => exact h.fr.pushBuf hi
  | hp => exact h.fr.hp hi
  | hpRegs => exact h.fr.hpRegs hi
  | hpShow => exact h.fr.hpShow hi
  | hpCtr => exact h.fr.hpCtr hi
  | hpEv => exact h.fr.hpEv hi
  | hpEvq => exact h.fr.hpEvq hi
  | hpCmd => exact h.fr.hpCmd hi
  | hpBatch => exact h.fr.hpBatch hi
  | hpFence => exact h.fr.hpFence hi
  | hpHrv => exact h.fr.hpHrv hi
  | hpFrames => exact h.fr.hpFrames hi
  | hpLink => exact h.fr.hpLink hi
  | pair => exact h.fr.pair hi
  | role => exact h.fr.role hi
  | lease => exact h.fr.lease hi
  | genImg => exact h.fr.genImg hi
  | sec => exact h.fr.sec hi
  | unsealed => exact h.fr.unsealed hi
  | nv => exact h.fr.nv hi
  | vault => exact h.fr.vault hi
  | fw => exact h.fr.fw hi
  | bill => exact h.fr.bill hi
  | banks => exact h.fr.banks hi
  | savedPars => exact h.fr.savedPars hi
  | dumps => exact h.fr.dumps hi
  | latency => exact h.fr.latency hi
  | vbat => exact h.fr.vbat hi
  | kek => exact h.fr.kek hi
  | rtc => exact h.fr.rtc hi
  | utcStored => exact h.fr.utcStored hi
  | tlog => exact h.fr.tlog hi
  | fuses => exact h.fr.fuses hi
  | pwr => exact h.fr.pwr hi
  | pwrState => exact h.fr.pwrState hi
  | cnt => exact h.fr.cnt hi
  | limits => exact h.fr.limits hi
  | evLog => exact h.fr.evLog hi
  | evLogSeq => exact h.fr.evLogSeq hi
  | free => exact h.fr.free hi
  | queue => exact h.pending
  | part => exact h.part

/-- A part outside the list whose mask is kept is the same. -/
theorem Kept.same_of {l : List Item} {s t : State} (h : Kept (maskOf l) s t) {i : Item} (hi : i ∉ l) : i.same s t :=
  h.same (testBit_maskOf hi)

end Sys2Proof.Machine
end

