-- ==== Sys2Proof/Laws/Messages.lean ====
section
/-!
SUPPORT. Sys2Proof/Laws/Messages.lean: a message whose MAC is the module's own over its first 48 bytes is taken (R442, R465).
-/
namespace Sys2Proof.Machine

@[simp] theorem mac128_length (key bs : List Byte) : (mac128 key bs).length = 16 := by simp [mac128, padTo]

/-- A MAC made with the slot's key verifies. -/
theorem macVerify_own {k : Nat} {bs tag key : List Byte} {s t : State} (h : keyOp k 2 s = (t, some key)) (hm : tag = mac128 key bs) :
    macVerify k bs tag s = (t, true) := by
  simp [macVerify, h, hm]

/-- What follows the first `b.length` bytes. -/
theorem slice_tail {b t : List Byte} {n k : Nat} (hb : b.length = n) (ht : t.length = k) : slice (b ++ t) n k = t := by
  subst hb; subst ht; simp [slice]

/-- The first `b.length` bytes. -/
theorem slice_head {b t : List Byte} {n : Nat} (hb : b.length = n) : slice (b ++ t) 0 n = b := by
  subst hb; simp [slice]

/-- The only frame handed on is taken as the pair message that it carries. -/
theorem takePairMsg_only {p : PairMsg → Bool} {s : State} {h : Handed} {m : PairMsg} (hh : s.eth.handed = [h]) (hp : s.eth.ports = [])
    (hm : pairMsg h = some m) (hq : p m = true) :
    takePairMsg p s = some (m, seen h.frame.arrival { s with eth := { s.eth with handed := [] } }) := by
  unfold takePairMsg
  rw [takeFrame_only hh hp (by simp [hm, hq])]
  simp [hm]

/-- A witness takes a message of a pair that it serves: 64 bytes, a well-formed time, a MAC that verifies, newer than the last one and fresh. -/
theorem takeUnitMsg_some {typ n : Nat} {m : PairMsg} {s s1 s2 : State}
    (h1 : takePairMsg (fun m => !m.calfa && m.dport == witUdp s && msgType m == typ) s = some (m, s1))
    (h2 : servedPair s1 (beAt m.bytes 4 4) = some n) (h3 : pairMode s1 = 2) (h4 : beAt m.bytes 2 2 = 64) (h5 : 64 ≤ m.bytes.length)
    (h6 : tsOk m.bytes 0x10 = true) (h7 : beAt m.bytes 8 1 ≤ 1)
    (h8 : macVerify (fld (imgReg s1.cfg.active (PAIR + 0x200 + 8 * n)) 28 20 + 1) (slice m.bytes 0 0x30) (slice m.bytes 0x30 16) s1 = (s2, true))
    (h9 : newerThan (BitVec.ofNat 32 (beAt m.bytes 0xC 4)) (fget? s2.pair.lastU (2 * n + beAt m.bytes 8 1)) = true)
    (h10 : hasTime s2 = true) (h11 : freshTs s2 (msgTs m.bytes 0x10) = true) :
    takeUnitMsg typ s =
      (count (PAIR + 0x320) (modUnit (fun p => { p with
        lastU := fset p.lastU (2 * n + beAt m.bytes 8 1) (BitVec.ofNat 32 (beAt m.bytes 0xC 4)) }) s2), some (n, beAt m.bytes 8 1, m)) := by
  unfold takeUnitMsg
  rw [h1]
  simp only [h2]
  rw [if_neg (by simp [h3, h4, h6]; omega)]
  simp only [h8, h9, h10, h11]
  rfl

/-- A unit takes an answer of its witness under the same conditions, and finds the request that it answers. -/
theorem answerCheck_some {k : Nat} {m : PairMsg} {s s2 : State} (h4 : beAt m.bytes 2 2 = 64) (h5 : 64 ≤ m.bytes.length) (h6 : tsOk m.bytes 0x10 = true)
    (h2 : beAt m.bytes 4 4 = pairId s) (h7 : beAt m.bytes 8 1 = 0xFF)
    (h8 : macVerify (pairSlot s + 1) (slice m.bytes 0 0x30) (slice m.bytes 0x30 16) s = (s2, true))
    (h9 : newerThan (BitVec.ofNat 32 (beAt m.bytes 0xC 4)) s2.pair.lastW = true) (h10 : hasTime s2 = true)
    (h11 : freshTs s2 (msgTs m.bytes 0x10) = true)
    (hk : (s2.pair.sent.find? (fun e => e.1 == beAt m.bytes 0x20 4 && decide (s2.tb.tick ≤ e.2 + 1024))).map (·.2) = some k) :
    answerCheck m s = (s2, some k) := by
  unfold answerCheck
  rw [if_neg (by simp only [h4, h6, h2, h7]; simp; omega)]
  simp only [h8, h9, h10, h11, hk]
  rfl

/-- A unit takes an answer that passes its check. -/
theorem takeAnswer_some {typ k : Nat} {m : PairMsg} {s s1 s2 : State}
    (h1 : takePairMsg (fun m => !m.calfa && m.dport != hbUdp s && msgType m == typ) s = some (m, s1)) (hu : isUnit s1 = true)
    (h : answerCheck m s1 = (s2, some k)) : takeAnswer typ s = (answerSeen m s2, some (m, k)) := by
  unfold takeAnswer
  rw [h1]
  simp [hu, h]

/-- A message of the peer unit passes under the same conditions. -/
theorem peerCheck_true {m : PairMsg} {s s2 : State} (h4 : beAt m.bytes 2 2 = 64) (h5 : 64 ≤ m.bytes.length)
    (h2 : beAt m.bytes 4 4 = pairId s) (h7 : beAt m.bytes 8 1 = 1 - pairUnit s) (h6 : tsOk m.bytes 0x10 = true)
    (h8 : macVerify (pairSlot s + 1) (slice m.bytes 0 0x30) (slice m.bytes 0x30 16) s = (s2, true))
    (h9 : newerThan (BitVec.ofNat 32 (beAt m.bytes 0xC 4)) s2.pair.lastC = true) (h11 : freshTs s2 (msgTs m.bytes 0x10) = true) :
    peerCheck m s = (s2, true) := by
  unfold peerCheck
  simp [calfaHead, h2, h4, h5, h6, h7, h8, h9, h11]

end Sys2Proof.Machine
end

