-- ==== Sys2Proof/WellFormed.lean ====
section
/-!
DEFINITION. Sys2Proof/WellFormed.lean: which commands name things that exist: functions, ports, table entries, and frames of a length that a
medium carries. Every meaning is total; a command that is not well formed has no effect beyond what its meaning says.
-/
namespace Sys2Proof

/-- A frame that can arrive: at a port, with addresses and fields of their widths (R85 to R87). -/
def Frame.wf (f : Frame) : Bool :=
  decide (f.port < 14) && (match f.payload with
   | .calfa _ => f.port == 13
   | .other => true
   | p => p.etypes.contains f.etype) && decide (f.dst < 2 ^ 48) && decide (f.src < 2 ^ 48) &&
  decide (f.type0 < 65536 ∧ f.tci < 65536 ∧ f.type1 < 65536)

/-- The outcome of a set check at the seal is of its kind: good, rebuilt, not rebuilt (R164). -/
def SealCheck.wf (c : SealCheck) : Bool := decide (c.rebuild < 3)

/-- A reader's set checks name groups and are rebuilt or not rebuilt (R164). -/
def ReadCheck.wf (c : ReadCheck) : Bool := c.setBad.all (fun e => decide (e.1 < 64 ∧ 1 ≤ e.2 ∧ e.2 ≤ 2))

/-- The outcomes of the set check and of the frame check are of their kind (R164). -/
def FrameCheck.wf (c : FrameCheck) : Bool := decide (c.setRes < 3 ∧ c.frameRes < 3)

/-- A transmit descriptor has fields of their widths (Table 15-7). -/
def TxDesc.wf (d : TxDesc) : Bool := decide (d.addr < 2 ^ 64 ∧ d.len < 65536 ∧ d.tflags < 256 ∧ d.mask < 65536)

/-- A request names a requester and a resource (Tables 13-8 and 13-9). -/
def ArbIn.wf (x : ArbIn) : Bool := decide (x.rq < 128 ∧ x.res < 47)

/-- What enters the scheduler names engines and delay lists that exist (Tables 13-3 and 13-4). -/
def TskIn.wf (x : TskIn) : Bool := x.raised.all (fun e => decide (e.1 < 11)) && x.delays.all (fun e => decide (e.1 < 4))

/-- The command names things that exist. -/
def Instr.wf : Instr → Bool
  | .powerUp _ => true
  | .provisionalTick => true
  | .tickBoundary _ bad => bad.all (fun e => decide (e.1 < 256 ∧ 1 ≤ e.2 ∧ e.2 ≤ 2))
  | .tbStep src _ _ => decide (1 ≤ src ∧ src ≤ 3)
  | .rateUpdate _ => true
  | .holdoverTerrUpdate => true
  | .sdtOffsetEstimate => true
  | .leapLatch => true
  | .leapDone => true
  | .rtcSet => true
  | .ppsInEdge _ => true
  | .irigbFrameRx m => decide (m.leap < 3)
  | .ptpMsgRx => true
  | .ptpMsgTx x => decide (x.port < 12)
  | .extLost => true
  | .timebaseRestartRequest fn key => decide (fn < 4) && decide (key < 65536)
  | .timebaseRestart => true
  | .tbSnap fn _ => decide (fn < 4)
  | .tbUtcOfsWrite fn _ => decide (fn < 4)
  | .linkUp port _ _ _ _ => decide (port < 14)
  | .linkDown port _ => decide (port < 14)
  | .frameRx f => f.wf
  | .pauseFrameRx f => f.wf
  | .pauseExpiry port _ => decide (port < 14)
  | .pauseHold port => decide (port < 14)
  | .pauseTxRepeat port _ => decide (port < 14)
  | .frameTxComplete port _ _ sub => decide (port < 14) && decide (sub < 65536)
  | .prpEntryExpiry _ => true
  | .prpSupervisionTx pair => decide (pair < 6)
  | .prpSupervisionRx => true
  | .dataFrameRx => true
  | .cfgFrameRx => true
  | .headerFrameRx => true
  | .rsvSpduRx => true
  | .cfgRequestRepeat stream _ => decide (stream < 8192)
  | .tcpConnect stream conn port => decide (stream < 8192) && decide (conn < 2) && decide (port.getD 0 < 13)
  | .tcpDisconnect stream conn => decide (stream < 8192) && decide (conn < 2)
  | .tcpRetry stream _ => decide (stream < 8192)
  | .ingestRecordWrite chk => chk.wf
  | .tableParityReload sec => decide (sec < 65536)
  | .groupStart grp => decide (grp < 64)
  | .windowClose grp => decide (grp < 64)
  | .alignedSetSeal grp chk => decide (grp < 64) && chk.wf
  | .timeoutExpiry cmp => decide (cmp < 16384)
  | .svFrameRx => true
  | .svMaxAgeExpiry sub _ => decide (sub < 32)
  | .bayRecordWrite bay _ chk => decide (bay < 256) && chk.wf
  | .bayLatencyDeadline bay _ _ chk => decide (bay < 256) && chk.wf
  | .signalUpdate sig chk => decide (sig < 4096) && chk.wf
  | .modeFamilyEvaluation ref chk => decide (ref < 4096) && chk.wf
  | .islandEvaluation icn chk => decide (icn < 4) && chk.wf
  | .scanSnapshot task chk => decide (task < 16) && chk.wf
  | .scanRun => true
  | .gooseMessageRx => true
  | .stationTalExpiry station => decide (station < 256)
  | .captureSampleWrite rcd chk => decide (rcd < 32) && chk.wf
  | .rearmExpiry rcd => decide (rcd < 32)
  | .capArmRecorder fn arg key => decide (fn < 4) && decide (arg < 65536) && decide (key < 65536)
  | .capDisarmRecorder fn arg key => decide (fn < 4) && decide (arg < 65536) && decide (key < 65536)
  | .capHostTrigger fn arg key => decide (fn < 4) && decide (arg < 65536) && decide (key < 65536)
  | .capFreeTake fn arg key => decide (fn < 4) && decide (arg < 65536) && decide (key < 65536)
  | .capArmSet fn key => decide (fn < 4) && decide (key < 65536)
  | .capDisarmSet fn key => decide (fn < 4) && decide (key < 65536)
  | .armRepeat => true
  | .armSpanExpiry => true
  | .crossTriggerMsgRx => true
  | .cycleClose point => decide (point < 32)
  | .billingRecordSign => true
  | .pulseOutputStep po _ => decide (po < 8)
  | .mtrSnap fn => decide (fn < 4)
  | .mtrRelease fn key => decide (fn < 4) && decide (key < 65536)
  | .outputFrameAssemble out chk => decide (out < 256) && chk.wf
  | .cfgPendStart out => decide (out < 256)
  | .cmdTurnOff => true
  | .cmdTurnOn => true
  | .cmdSendHeader _ => true
  | .cmdSendCfg1 _ => true
  | .cmdSendCfg2 _ => true
  | .cmdSendCfg3 _ => true
  | .cmdBad => true
  | .pubTcpConnect out _ port eport => decide (out < 256) && decide (port < 65536) && decide (eport < 13)
  | .pubTcpDisconnect out _ port => decide (out < 256) && decide (port < 65536)
  | .gooseRepeat pub res => decide (pub < 256) && decide (res < 3)
  | .doMinOnExpiry land => decide (land < 16)
  | .doHoldExpiry land => decide (land < 16)
  | .workItemDispatch engine unit x => decide (engine < 11) && decide (unit < 24) && x.wf
  | .workItemRelease flow _ _ => decide (flow < 16384)
  | .arbBeat done reqs => done.all (fun r => decide (r < 47)) && reqs.all ArbIn.wf
  | .lockOver res => decide (res < 47)
  | .lstRewrite rq res _ => decide (rq < 128) && decide (res < 47)
  | .tskTestEntry fn key => decide (fn < 4) && decide (key < 65536)
  | .tskTestExit fn key => decide (fn < 4) && decide (key < 65536)
  | .tskSetLevel fn lvl key => decide (fn < 4) && decide (lvl < 8) && decide (key < 65536)
  | .stageSlotA fn key => decide (fn < 4) && decide (key < 65536)
  | .stageSlotB fn key => decide (fn < 4) && decide (key < 65536)
  | .stagePush fn key => decide (fn < 4) && decide (key < 65536)
  | .stagingDone => true
  | .writeSlot fn key slot => decide (fn < 4) && decide (key < 65536) && decide (slot < 2)
  | .slotWriteDone => true
  | .scheduleActivation fn key => decide (fn < 4) && decide (key < 65536)
  | .cancelActivation fn key => decide (fn < 4) && decide (key < 65536)
  | .setBootSlot fn key slot => decide (fn < 4) && decide (key < 65536) && decide (slot < 2)
  | .commitBatch fn key => decide (fn < 4) && decide (key < 65536)
  | .emptyBatch fn key => decide (fn < 4) && decide (key < 65536)
  | .discardStaged fn key => decide (fn < 4) && decide (key < 65536)
  | .cfgBatValWrite fn _ => decide (fn < 4)
  | .batchApply => true
  | .activation => true
  | .cfgFenceReqWrite fn _ => decide (fn < 4)
  | .registerFenceDone fn => decide (fn < 4)
  | .windowIndexWrite fn off _ => decide (fn < 4) && decide (off < 0x200000)
  | .rcRegisterRead fn off => decide (fn < 4) && decide (off < 0x200000)
  | .w1cWrite fn off _ => decide (fn < 4) && decide (off < 0x200000)
  | .registerWrite fn off _ => decide (fn < 4) && decide (off < 0x200000)
  | .badAccess fn _ => decide (fn < 4)
  | .commandFetch fn raw => decide (fn < 4) && raw.length == 64
  | .cmdNop fn => decide (fn < 4)
  | .cmdFence fn => decide (fn < 4)
  | .fenceComplete fn => decide (fn < 4)
  | .cmdImgPush fn _ => decide (fn < 4)
  | .cmdParBatch fn => decide (fn < 4)
  | .cmdTakeRead fn _ => decide (fn < 4)
  | .cmdBillRead fn _ => decide (fn < 4)
  | .cmdMeterKeyGet fn _ => decide (fn < 4)
  | .cmdIdGet fn _ => decide (fn < 4)
  | .cmdQuote fn _ => decide (fn < 4)
  | .cmdKeyPut fn _ => decide (fn < 4)
  | .cmdKeyDerive fn => decide (fn < 4)
  | .cmdKeyErase fn => decide (fn < 4)
  | .cmdLcTransition fn _ => decide (fn < 4)
  | .cmdFwStage fn _ => decide (fn < 4)
  | .cmdFwRewrap fn => decide (fn < 4)
  | .cmdFwActivate fn => decide (fn < 4)
  | .fwActivateReset => true
  | .cmdPairHandover fn => decide (fn < 4)
  | .cmdPairHold fn => decide (fn < 4)
  | .cmdPairStatus fn => decide (fn < 4)
  | .cmdDumpInfo fn => decide (fn < 4)
  | .cmdDumpRead fn _ => decide (fn < 4)
  | .cmdDumpRelease fn => decide (fn < 4)
  | .cmdPwrReset fn => decide (fn < 4)
  | .scheduledReset => true
  | .cmdPwrSleep fn => decide (fn < 4)
  | .cmdUnusedOp fn => decide (fn < 4)
  | .eventPlace fn blk => decide (fn < 4) && decide (blk < 0x20)
  | .eventHoldExpiry fn blk => decide (fn < 4) && decide (blk < 0x20)
  | .harvestRecordWrite fn _ => decide (fn < 4)
  | .harvestHoldExpiry fn _ => decide (fn < 4)
  | .hostRxDeliver fn ring _ => decide (fn < 4) && decide (ring < 8)
  | .hostRxHoldExpiry fn ring => decide (fn < 4) && decide (ring < 8)
  | .hostTxFrame fn ring descs _ => decide (fn < 4) && decide (ring < 8) && descs.all TxDesc.wf
  | .hostTxHoldExpiry fn port => decide (fn < 4) && decide (port < 14)
  | .dmaError fn _ reason => decide (fn < 4) && decide (1 ≤ reason ∧ reason ≤ 3)
  | .interruptSend fn src => decide (fn < 4) && decide (src < 32)
  | .functionLevelReset fn => decide (fn < 4)
  | .busMasterDisable fn => decide (fn < 4)
  | .perst _ => true
  | .heartbeatSend => true
  | .heartbeatRx => true
  | .heartbeatCheck => true
  | .leaseMessageSend => true
  | .grantRx => true
  | .denyRx => true
  | .authorityBegin => true
  | .leaseEnd => true
  | .generationForm => true
  | .genBlockRx => true
  | .genEndRx => true
  | .generationTimeout gen => decide (gen < 4294967296)
  | .handoverReqRx => true
  | .handoverInstant => true
  | .handoverTimeout => true
  | .requestRx => true
  | .renewRx => true
  | .releaseRx => true
  | .witnessLeaseExpiry pair _ => decide (pair < 32)
  | .tamperDetect mask _ => decide (mask < 64)
  | .pfailWarning _ _ => true
  | .pfailRecover _ => true
  | .uvloFall => true
  | .resetNLow => true
  | .sleepWake _ => true
  | .fatalError x => decide (x.block < 65536) && decide (x.detail < 65536)
  | .tempThreshold _ => true
  | .vinLowAlert _ => true
  | .vbatApplied => true
  | .vbatLost => true
  | .resetNRelease => true
  | .pfailNHigh _ => true
  | .perstNRelease => true
  | .busMasterEnable fn => decide (fn < 4)

end Sys2Proof
end

