-- ==== Sys2Proof/Tests/Slice0.lean ====
section
/-!
SUPPORT. Sys2Proof/Tests/Slice0.lean: tests of the model's author: ill-formed commands are refused by their checks; figures that the spec works
out; and for every statement, states and operands that meet the hypotheses of each of its clauses (a clause of statement X is a part of witness_X).
-/
set_option Elab.async false

namespace Sys2Proof.Tests
open Sys2Proof Sys2Proof.Machine

set_option linter.unusedVariables false

/-- An image of 50 Hz in which HP0 has every right, with these registers and sections. -/
def im (r : List (List Word)) (x : List Sect) : Image :=
  { f0 := 50, sects := [⟨secREGS, r⟩, ⟨secPARTITION, [[0xE0000000#32], [0x80000000#32], [0#32], [0#32]]⟩] ++ x }

/-- The module in RUN and LOCKED at TAI second 100 under image `i`. -/
def up (i : Image) : State :=
  { State.reset with
    cfg := { active := i, src := 1 }, pwr := { state := .run, waits := false }
    tb := { tick := 4096, started := true, state := .locked, src := 1, grid := 5120000, now := 100000000000 } }

/-- The same under the image of HP0's rights alone. -/
def s0 : State := up (im [] [])

/-- The same with the queue `q`. -/
def queue (q : List Instr) : State := { s0 with pending := q }

/-- One register of an image. -/
def rg (a v : Nat) : List Word := [BitVec.ofNat 32 a, BitVec.ofNat 32 v]

/-- State `s` with this timebase. -/
def atTb (s : State) (t : Tb → Tb) : State := { s with tb := t s.tb }

/-- A frame of 100 bytes with this payload, arriving at `port` at TAI second 100. -/
def fr (port : Nat) (p : Payload) : Frame :=
  { port := port, arrival := 100000000000, rxTs := 100000000000, len := 100, dst := 0x0180C2000001, src := 1, type0 := p.etypes.headD 0x800, payload := p }

/-- State `s` with one frame handed on. -/
def got (s : State) (c : FrameClass) (obj port : Nat) (p : Payload) : State :=
  { s with eth := { s.eth with handed := [{ cls := c, obj := obj, frame := fr port p }] } }

/-- State `s` with its ports 0, 1 and 13 up. -/
def link (s : State) : State :=
  { s with eth := { s.eth with ports := [(0, { linkUp := true }), (1, { linkUp := true }), (13, { linkUp := true })] } }


/-- Stream 0 in use with these bits in words 0 and 9, 36 bytes at 50 frames per second; an image with it and the sections `x`. -/
def sIm (w0 w9 : Word) (x : List Sect) : Image :=
  im [] ([⟨secSTREAM_DIR, [[0x80000000#32 ||| w0, 0#32, 1#32, 0#32, 0x00243220#32, 1000000#32, 0x02800000#32, 1#32, 0x12341234#32, w9, 0xC0000201#32]]⟩,
    ⟨secGROUP, [[0x80000000#32, 0#32]]⟩] ++ x)

/-- State `s` in which stream 0 has this state. -/
def str (s : State) (r : Strm) : State := { s with ing := { s.ing with strms := [(0, r)] } }

/-- A C37.118 frame of type `t` with the contents `b` after FRACSEC, of SOC 100. -/
def c37 (t : Nat) (b : List Byte) : List Byte :=
  [0xAA#8, BitVec.ofNat 8 (16 * t + 1)] ++ beBytes 2 (16 + b.length) ++ [0#8, 0#8] ++ beBytes 4 100 ++ [0#8, 0#8, 0#8, 0#8] ++ b ++ [0#8, 0#8]

/-- A datagram with these bytes. -/
def udp (b : List Byte) : Payload := .ip { src := 1, dst := 2, sport := 3, dport := 0x1234 } b false

/-- An R-SV message without authentication, of refresh time 100 s. -/
def rsv : RsvPdu :=
  { wellFormed := true, spduLen := 36, spduNo := 1#32, keyId := 0, algOk := true, signed := [], sig := [], asdus := 1, refrSec := 100#32, refrFrac := 0, test := false, vals := [] }

/-- An ingest record of stream 0 at instant `i` that is not written yet. -/
def rec (i : Nat) : IngRec := { strm := 0, seq := 1, inst := i, arr := 0, stat := 0, iflags := 0, claim := 0#32, chanBase := 0, vals := [], port := 0 }

/-- State `s` in which function 0 is this. -/
def fn0 (s : State) (f : Fn) : State := { s with hp := [f, {}, {}, {}] }

/-- A function with Bus Master Enable whose command in progress has OP `op` and these first bytes. -/
def cmd (op : Nat) (b : List Byte) : Fn :=
  { bme := true, cur := some { op := op, tag := 0, raw := padTo 64 b, acc := none, right := true } }

/-- A function with Bus Master Enable that holds these registers. -/
def regs (l : List (Nat × Word)) : Fn := { bme := true, regs := l }

/-- The module under image `i` with ENC keys in vault slots 0 and 1, the first for signing and the second for verifying. -/
def keyed (i : Image) : State :=
  { up i with
    sec := { unsealed := true, rootIn := true }
    nv := { store0 := { slots := [(0, { cell0 := { valid := true, attr := 1 } }), (1, { cell0 := { valid := true, attr := 2 } })] } } }

/-- The image of a pair unit (`m` 1) or of a witness that serves one pair (`m` 2). -/
def pairIm (m : Nat) : Image :=
  { im [rg 0x110000 (m * 2 ^ 30), rg 0x110018 0x12341235, rg 0x11001C 0xF0000000, rg 0x110200 0x80000000, rg 0x110204 0] [] with paired := true }

/-- A unit with this pair state. -/
def unit (p : Pair) : State := { keyed (pairIm 1) with pair := p }

/-- The first 48 bytes of a pair message of 64 bytes: its type, its unit and the time 100 s. -/
def msg (typ u : Nat) : List Byte :=
  beBytes 2 typ ++ [0#8, 64#8] ++ zeros 4 ++ [BitVec.ofNat 8 u] ++ zeros 6 ++ [1#8] ++ tsBE 100000000000 ++
    tsBE 102000000000 ++ zeros 8

/-- The whole message, with its MAC. -/
def maced (typ u : Nat) : List Byte := msg typ u ++ mac128 [] (msg typ u)

/-- Three parts of a conjunction at once. -/
theorem all3 {a b c d : Prop} (h : a ∧ b ∧ c) (k : d) : a ∧ b ∧ c ∧ d := ⟨h.1, h.2.1, h.2.2, k⟩

theorem maced_ok (typ u : Nat) (h : (msg typ u).length = 48) :
    slice (maced typ u) 0x30 16 = mac128 [] (slice (maced typ u) 0 0x30) := by
  simp only [maced]; rw [slice_tail h (mac128_length _ _), slice_head h]

theorem maced_length (typ u : Nat) (h : (msg typ u).length = 48) : 64 ≤ (maced typ u).length := by
  simp [maced, h]

/-- A datagram for the witness port with this message. -/
def wudp (typ u : Nat) : Payload := .ip { src := 1, dst := 2, sport := 3, dport := 0x1234 } (maced typ u) false

/-- A witness with these lease holders and lease ends that a message of this type of unit 0 has reached. -/
def wit (typ : Nat) (terr : Option Nat) (w : FMap Wit) (e : FMap Nat) : State :=
  let s := keyed (pairIm 2)
  got { s with nv := { s.nv with wits := w }, pair := { expiry := e }, tb := { s.tb with terr := terr } } .witness 0 0 (wudp typ 0)

/-- The record writer's queue is full. -/
def full (s : State) : State := { s with ing := { s.ing with recs := List.replicate (Config.writerDepth + 1) (rec 0) } }

theorem full_noRoom (s : State) : writerRoom (full s) = false := by
  simp [writerRoom, full, rec]

theorem test_ill_formed_recorder_control :
    ([(4, 0, 0), (0, 65536, 0), (0, 0, 65536)].flatMap (fun (n, r, k) => [.capArmRecorder n r k, .capDisarmRecorder n r k,
      .capHostTrigger n r k, .capFreeTake n r k])).all (fun (i : Instr) => !i.wf) = true := by decide +kernel

theorem test_ill_formed_0 :
    [.tickBoundary 0#16 [(256, 1)],
     .tickBoundary 0#16 [(0, 0)],
     .tickBoundary 0#16 [(0, 3)],
     .tbStep 0 0 0,
     .tbStep 4 0 0,
     .irigbFrameRx { ns := 0, parityOk := true, coded := 0, marker := 0, tq := 0, ofs := none, leap := 3 },
     .ptpMsgTx { port := 12, kind := .sync },
     .timebaseRestartRequest 4 0,
     .timebaseRestartRequest 0 65536,
     .tbSnap 4 0,
     .tbUtcOfsWrite 4 0#32,
     .linkUp 14 false false false 0,
     .linkDown 14 false,
     .frameRx (fr 14 .other),
     .frameRx { fr 0 (.macCtl 1 0) with type0 := 0x800 },
     .frameRx (fr 0 (.calfa [])),
     .frameRx { fr 0 .other with dst := 2 ^ 48 },
     .frameRx { fr 0 .other with src := 2 ^ 48 },
     .frameRx { fr 0 .other with type0 := 65536 },
     .frameRx { fr 0 .other with type0 := tagTpid, tci := 65536 },
     .frameRx { fr 0 .other with type0 := tagTpid, type1 := 65536 },
     .frameRx { fr 0 (.macCtl 1 0) with type0 := tagTpid, type1 := 0x800 },
     .pauseFrameRx (fr 14 .other),
     .pauseExpiry 14 0,
     .pauseHold 14,
     .pauseTxRepeat 14 0,
     .frameTxComplete 14 0 0 0,
     .frameTxComplete 0 0 0 65536,
     .prpSupervisionTx 6,
     .cfgRequestRepeat 8192 0].all (fun (i : Instr) => !i.wf) = true := by decide +kernel

theorem test_ill_formed_1 :
    [.tcpConnect 8192 0 none,
     .tcpConnect 0 2 none,
     .tcpConnect 0 0 (some 13),
     .tcpDisconnect 8192 0,
     .tcpDisconnect 0 2,
     .tcpRetry 8192 0,
     .ingestRecordWrite { setBad := [(64, 1)] },
     .ingestRecordWrite { setBad := [(0, 0)] },
     .ingestRecordWrite { setBad := [(0, 3)] },
     .tableParityReload 65536,
     .groupStart 64,
     .windowClose 64,
     .alignedSetSeal 64 {},
     .alignedSetSeal 0 { rebuild := 3 },
     .timeoutExpiry 16384,
     .svMaxAgeExpiry 32 0,
     .bayRecordWrite 256 0 {},
     .bayRecordWrite 0 0 { setBad := [(64, 1)] },
     .bayRecordWrite 0 0 { setBad := [(0, 0)] },
     .bayRecordWrite 0 0 { setBad := [(0, 3)] },
     .bayLatencyDeadline 256 0 0 {},
     .bayLatencyDeadline 0 0 0 { setBad := [(64, 1)] },
     .bayLatencyDeadline 0 0 0 { setBad := [(0, 0)] },
     .bayLatencyDeadline 0 0 0 { setBad := [(0, 3)] },
     .signalUpdate 4096 {},
     .signalUpdate 0 { setBad := [(64, 1)] },
     .signalUpdate 0 { setBad := [(0, 0)] },
     .signalUpdate 0 { setBad := [(0, 3)] },
     .modeFamilyEvaluation 4096 {},
     .modeFamilyEvaluation 0 { setBad := [(64, 1)] }].all (fun (i : Instr) => !i.wf) = true := by decide +kernel

theorem test_ill_formed_2 :
    [.modeFamilyEvaluation 0 { setBad := [(0, 0)] },
     .modeFamilyEvaluation 0 { setBad := [(0, 3)] },
     .islandEvaluation 4 {},
     .islandEvaluation 0 { setBad := [(64, 1)] },
     .islandEvaluation 0 { setBad := [(0, 0)] },
     .islandEvaluation 0 { setBad := [(0, 3)] },
     .scanSnapshot 16 {},
     .scanSnapshot 0 { setBad := [(64, 1)] },
     .scanSnapshot 0 { setBad := [(0, 0)] },
     .scanSnapshot 0 { setBad := [(0, 3)] },
     .stationTalExpiry 256,
     .captureSampleWrite 32 {},
     .captureSampleWrite 0 { setBad := [(64, 1)] },
     .captureSampleWrite 0 { setBad := [(0, 0)] },
     .captureSampleWrite 0 { setBad := [(0, 3)] },
     .rearmExpiry 32,
     .capArmSet 4 0,
     .capArmSet 0 65536,
     .capDisarmSet 4 0,
     .capDisarmSet 0 65536,
     .cycleClose 32,
     .pulseOutputStep 8 0,
     .mtrSnap 4,
     .mtrRelease 4 0,
     .mtrRelease 0 65536,
     .outputFrameAssemble 256 {},
     .outputFrameAssemble 0 { setRes := 3 },
     .outputFrameAssemble 0 { frameRes := 3 },
     .cfgPendStart 256,
     .pubTcpConnect 256 0 0 0].all (fun (i : Instr) => !i.wf) = true := by decide +kernel

theorem test_ill_formed_3 :
    [.pubTcpConnect 0 0 65536 0,
     .pubTcpConnect 0 0 0 13,
     .pubTcpDisconnect 256 0 0,
     .pubTcpDisconnect 0 0 65536,
     .gooseRepeat 256 0,
     .gooseRepeat 0 3,
     .doMinOnExpiry 16,
     .doHoldExpiry 16,
     .workItemDispatch 11 0 {},
     .workItemDispatch 0 24 {},
     .workItemDispatch 0 0 { raised := [(11, 0, 0)] },
     .workItemDispatch 0 0 { delays := [(4, 0, 0, false)] },
     .workItemRelease 16384 0 none,
     .arbBeat [47] [],
     .arbBeat [] [{ rq := 128, res := 0, lst := 0#16 }],
     .arbBeat [] [{ rq := 0, res := 47, lst := 0#16 }],
     .lockOver 47,
     .lstRewrite 128 0 0#16,
     .lstRewrite 0 47 0#16,
     .tskTestEntry 4 0,
     .tskTestEntry 0 65536,
     .tskTestExit 4 0,
     .tskTestExit 0 65536,
     .tskSetLevel 4 0 0,
     .tskSetLevel 0 8 0,
     .tskSetLevel 0 0 65536,
     .stageSlotA 4 0,
     .stageSlotA 0 65536,
     .stageSlotB 4 0,
     .stageSlotB 0 65536].all (fun (i : Instr) => !i.wf) = true := by decide +kernel

theorem test_ill_formed_4 :
    [.stagePush 4 0,
     .stagePush 0 65536,
     .writeSlot 4 0 0,
     .writeSlot 0 65536 0,
     .writeSlot 0 0 2,
     .scheduleActivation 4 0,
     .scheduleActivation 0 65536,
     .cancelActivation 4 0,
     .cancelActivation 0 65536,
     .setBootSlot 4 0 0,
     .setBootSlot 0 65536 0,
     .setBootSlot 0 0 2,
     .commitBatch 4 0,
     .commitBatch 0 65536,
     .emptyBatch 4 0,
     .emptyBatch 0 65536,
     .discardStaged 4 0,
     .discardStaged 0 65536,
     .cfgBatValWrite 4 0#32,
     .cfgFenceReqWrite 4 0#32,
     .registerFenceDone 4,
     .windowIndexWrite 4 0 0#32,
     .windowIndexWrite 0 0x200000 0#32,
     .rcRegisterRead 4 0,
     .rcRegisterRead 0 0x200000,
     .w1cWrite 4 0 0#32,
     .w1cWrite 0 0x200000 0#32,
     .registerWrite 4 0 0#32,
     .registerWrite 0 0x200000 0#32,
     .badAccess 4 false].all (fun (i : Instr) => !i.wf) = true := by decide +kernel

theorem test_ill_formed_5 :
    [.commandFetch 4 (zeros 64),
     .commandFetch 0 (zeros 63),
     .cmdNop 4,
     .cmdFence 4,
     .fenceComplete 4,
     .cmdImgPush 4 none,
     .cmdParBatch 4,
     .cmdTakeRead 4 false,
     .cmdBillRead 4 false,
     .cmdMeterKeyGet 4 false,
     .cmdIdGet 4 false,
     .cmdQuote 4 false,
     .cmdKeyPut 4 none,
     .cmdKeyDerive 4,
     .cmdKeyErase 4,
     .cmdLcTransition 4 none,
     .cmdFwStage 4 none,
     .cmdFwRewrap 4,
     .cmdFwActivate 4,
     .cmdPairHandover 4,
     .cmdPairHold 4,
     .cmdPairStatus 4,
     .cmdDumpInfo 4,
     .cmdDumpRead 4 false,
     .cmdDumpRelease 4,
     .cmdPwrReset 4,
     .cmdPwrSleep 4,
     .cmdUnusedOp 4,
     .eventPlace 4 0,
     .eventPlace 0 0x20].all (fun (i : Instr) => !i.wf) = true := by decide +kernel

theorem test_ill_formed_6 :
    [.eventHoldExpiry 4 0,
     .eventHoldExpiry 0 0x20,
     .harvestRecordWrite 4 0,
     .harvestHoldExpiry 4 0,
     .hostRxDeliver 4 0 [],
     .hostRxDeliver 0 8 [],
     .hostRxHoldExpiry 4 0,
     .hostRxHoldExpiry 0 8,
     .hostTxFrame 4 0 [] false,
     .hostTxFrame 0 8 [] false,
     .hostTxFrame 0 0 [{ addr := 2 ^ 64, len := 0, tflags := 0, mask := 0 }] false,
     .hostTxFrame 0 0 [{ addr := 0, len := 65536, tflags := 0, mask := 0 }] false,
     .hostTxFrame 0 0 [{ addr := 0, len := 0, tflags := 256, mask := 0 }] false,
     .hostTxFrame 0 0 [{ addr := 0, len := 0, tflags := 0, mask := 65536 }] false,
     .hostTxHoldExpiry 4 0,
     .hostTxHoldExpiry 0 14,
     .dmaError 4 0 1,
     .dmaError 0 0 0,
     .dmaError 0 0 4,
     .interruptSend 4 0,
     .interruptSend 0 32,
     .functionLevelReset 4,
     .busMasterDisable 4,
     .generationTimeout 4294967296,
     .witnessLeaseExpiry 32 0,
     .tamperDetect 64 false,
     .fatalError { cause := 0, block := 65536 },
     .fatalError { cause := 0, detail := 65536 },
     .busMasterEnable 4].all (fun (i : Instr) => !i.wf) = true := by decide +kernel

theorem test_well_formed_0 :
    [.tickBoundary 0#16 [],
     .tbStep 1 0 0,
     .irigbFrameRx { ns := 0, parityOk := true, coded := 0, marker := 0, tq := 0, ofs := none, leap := 0 },
     .ptpMsgTx { port := 0, kind := .sync },
     .timebaseRestartRequest 0 0,
     .tbSnap 0 0,
     .tbUtcOfsWrite 0 0#32,
     .linkUp 0 false false false 0,
     .linkDown 0 false,
     .frameRx (fr 0 .other),
     .pauseFrameRx (fr 0 .other),
     .pauseExpiry 0 0,
     .pauseHold 0,
     .pauseTxRepeat 0 0,
     .frameTxComplete 0 0 0 0,
     .prpSupervisionTx 0,
     .cfgRequestRepeat 0 0,
     .tcpConnect 0 0 none,
     .tcpDisconnect 0 0,
     .tcpRetry 0 0,
     .ingestRecordWrite {},
     .tableParityReload 0,
     .groupStart 0,
     .windowClose 0,
     .alignedSetSeal 0 {},
     .timeoutExpiry 0,
     .svMaxAgeExpiry 0 0,
     .bayRecordWrite 0 0 {},
     .bayLatencyDeadline 0 0 0 {},
     .signalUpdate 0 {},
     .modeFamilyEvaluation 0 {},
     .islandEvaluation 0 {},
     .scanSnapshot 0 {},
     .stationTalExpiry 0,
     .captureSampleWrite 0 {},
     .rearmExpiry 0,
     .capArmRecorder 0 0 0,
     .capDisarmRecorder 0 0 0,
     .capHostTrigger 0 0 0,
     .capFreeTake 0 0 0,
     .capArmSet 0 0,
     .capDisarmSet 0 0,
     .cycleClose 0,
     .pulseOutputStep 0 0,
     .mtrSnap 0,
     .mtrRelease 0 0,
     .outputFrameAssemble 0 {},
     .cfgPendStart 0,
     .pubTcpConnect 0 0 0 0,
     .pubTcpDisconnect 0 0 0,
     .gooseRepeat 0 0,
     .doMinOnExpiry 0,
     .doHoldExpiry 0,
     .workItemDispatch 0 0 {},
     .workItemRelease 0 0 none,
     .arbBeat [] [],
     .lockOver 0,
     .lstRewrite 0 0 0#16,
     .tskTestEntry 0 0,
     .tskTestExit 0 0].all Instr.wf = true := by decide +kernel

theorem test_well_formed_1 :
    [.tskSetLevel 0 0 0,
     .stageSlotA 0 0,
     .stageSlotB 0 0,
     .stagePush 0 0,
     .writeSlot 0 0 0,
     .scheduleActivation 0 0,
     .cancelActivation 0 0,
     .setBootSlot 0 0 0,
     .commitBatch 0 0,
     .emptyBatch 0 0,
     .discardStaged 0 0,
     .cfgBatValWrite 0 0#32,
     .cfgFenceReqWrite 0 0#32,
     .registerFenceDone 0,
     .windowIndexWrite 0 0 0#32,
     .rcRegisterRead 0 0,
     .w1cWrite 0 0 0#32,
     .registerWrite 0 0 0#32,
     .badAccess 0 false,
     .commandFetch 0 (zeros 64),
     .cmdNop 0,
     .cmdFence 0,
     .fenceComplete 0,
     .cmdImgPush 0 none,
     .cmdParBatch 0,
     .cmdTakeRead 0 false,
     .cmdBillRead 0 false,
     .cmdMeterKeyGet 0 false,
     .cmdIdGet 0 false,
     .cmdQuote 0 false,
     .cmdKeyPut 0 none,
     .cmdKeyDerive 0,
     .cmdKeyErase 0,
     .cmdLcTransition 0 none,
     .cmdFwStage 0 none,
     .cmdFwRewrap 0,
     .cmdFwActivate 0,
     .cmdPairHandover 0,
     .cmdPairHold 0,
     .cmdPairStatus 0,
     .cmdDumpInfo 0,
     .cmdDumpRead 0 false,
     .cmdDumpRelease 0,
     .cmdPwrReset 0,
     .cmdPwrSleep 0,
     .cmdUnusedOp 0,
     .eventPlace 0 0,
     .eventHoldExpiry 0 0,
     .harvestRecordWrite 0 0,
     .harvestHoldExpiry 0 0,
     .hostRxDeliver 0 0 [],
     .hostRxHoldExpiry 0 0,
     .hostTxFrame 0 0 [] false,
     .hostTxHoldExpiry 0 0,
     .dmaError 0 0 1,
     .interruptSend 0 0,
     .functionLevelReset 0,
     .busMasterDisable 0,
     .generationTimeout 0,
     .witnessLeaseExpiry 0 0].all Instr.wf = true := by decide +kernel

theorem test_well_formed_2 :
    [.tamperDetect 0 false,
     .fatalError { cause := 0 },
     .busMasterEnable 0].all Instr.wf = true := by decide +kernel

/-! ## Figures of the spec -/

/-- The example under Table 0-1: GLB_ID of a PZ7-8K-E of stepping C0 reads 0x0702_4300. -/
theorem test_glb_id : readReg { s0 with part := { s0.part with grade := 2 } } 0 0 = 0x07024300#32 := by decide +kernel

/-- The directory entry of stream 1,650 (the example under Table 4-1). -/
theorem test_directory_entry :
    (let i := im [] [⟨secSTREAM_DIR, [[0xB00B4A72#32, 0#32, 0x46E6000B#32, 0x0302040F#32, 0x00543C20#32]]⟩]
     [b2n (dirValid i 0), b2n (dirPaired i 0), dirTransport i 0, dirGroup i 0, dir i 0 0 15 0, dir i 0 2 31 16, dir i 0 2 8 0, dir i 0 3 31 23, dir i 0 3 22 16,
      dir i 0 3 15 10, dir i 0 4 31 16, dirRate i 0, dir i 0 4 7 4]) = [1, 0, 0, 11, 0x4A72, 18150, 11, 6, 2, 1, 84, 60, 2] := by decide +kernel

/-- The example of R56: six seconds before the wrap SOC 2 resolves to 8 s ahead, and SOC 4,294,967,289 to 1 s behind. -/
theorem test_soc_resolution :
    socResolve 2#32 4294967290 = 4294967298 ∧ socResolve 4294967289#32 4294967290 = 4294967289 := by decide +kernel

/-- R57: FRACSEC 166,667 under TIME_BASE 1,000,000 is 166,667,000 ns (Table 4-7). -/
theorem test_fracsec : fracNs 166667 1000000 = 166667000 := by decide +kernel

/-- Table 4-7: cycle 10 of a second at 60 Hz begins at 166,666,667 ns. -/
theorem test_grid_instant : gridNs { s0 with cfg := { active := { f0 := 60 } } } (10 * 1024) = 166666667 := by decide +kernel

/-- The state of bank 5 in Table 13-6: the requests that wait, and the rotating pointer. -/
def bank (l : List (Nat × BitVec 16 × Bool)) (ptr : Nat) : State :=
  { s0 with
    tb := { s0.tb with tick := 0xFFF8 }
    arb := { reqs := l.map (fun (r, t, k) => { rq := r, res := 5, lst := t, lock := k, nodl := false }), res := [(5, { ptr := ptr })] } }

/-- Table 13-6, beat 0: publication assembly (requester 40) has the smallest slack. -/
theorem test_arbiter_beat_0 :
    (arbWinner (bank [(3, 0x10#16, false), (7, 0x10#16, false), (40, 0xFFFC#16, false), (44, 0x40#16, true)] 0) 5).map (fun x => (x.1.rq, x.2)) = some (40, false) := by
  decide +kernel

/-- Table 13-6, beat 1: a tie, and lane 3 is the first at or above pointer 0. -/
theorem test_arbiter_beat_1 :
    (arbWinner (bank [(3, 0x10#16, false), (7, 0x10#16, false), (44, 0x40#16, true)] 0) 5).map (fun x => (x.1.rq, x.2)) = some (3, true) := by decide +kernel

/-- The slack 0x0010 − 0xFFF8 is 24. -/
theorem test_slack : slack 0xFFF8 { rq := 3, res := 5, lst := 0x10#16, lock := false, nodl := false } = 24 := by decide +kernel

/-- R101: the numbers 65535 and 0 are neighbours; one 64 or more behind the newest passes and is told apart as old. -/
theorem test_prp_window :
    (prpWindow ⟨0xFFFF#16, 1#64, 0⟩ 0#16).2 = (true, false) ∧ (prpWindow ⟨100#16, 1#64, 0⟩ 100#16).2 = (false, false) ∧
    (prpWindow ⟨100#16, 1#64, 0⟩ 36#16).2 = (true, true) := by decide +kernel

/-- R403: one entry of a queue stays unused. -/
theorem test_queue_full : queueFull 15 0 16 = true ∧ queueFull 14 0 16 = false := by decide +kernel

/-- The reset values of HIF_EVQ_CFG and HIF_HRV_CFG (Table 15-11): 64 entries and 2 cyc; 2^20 bytes and 2 cyc. -/
theorem test_queue_resets :
    ringSize (hif s0 0 0x88) 5 = 64 ∧ holdTk (hif s0 0 0x88) = 2048 ∧ ringSize (hif s0 0 0xC8) 5 = 2 ^ 20 ∧ holdTk (hif s0 0 0xC8) = 2048 := by
  decide +kernel

/-- The CRC-32 of IEEE 802.3 of "123456789" is 0xCBF4_3926. -/
theorem test_crc32 : crc32 [0x31#8, 0x32#8, 0x33#8, 0x34#8, 0x35#8, 0x36#8, 0x37#8, 0x38#8, 0x39#8] = 0xCBF43926#32 := by decide +kernel

/-- Taking the front command leaves the rest of the queue. -/
theorem test_step_takes_the_front :
    (match step (queue [.resetNRelease, .uvloFall]) with
     | .next t => t.pending
     | _ => []) = [.uvloFall] := by decide +kernel

/-- A read in RUN of a register that no table lists reads 0 (R398). -/
theorem test_unlisted_register : readReg s0 0 0x1FFFFC = 0#32 := by decide +kernel

/-- No row of the table gives bits, so no word spells a command. -/
theorem test_no_word_spells_a_command : decodeTableWord 32 0x12345678 = none := by decide +kernel


/-- The SHA3-256 of the empty string, and the SHA-256 of "abc", as FIPS 202 and FIPS 180-4 have them. -/
theorem test_sha3_empty : beNat (sha3_256 []) = 0xa7ffc6f8bf1ed76651c14756a061d662f580ff4de43b49fa82d80a4b80f8434a := by decide +kernel

theorem test_sha256_abc : beNat (sha256 (ascii "abc")) = 0xba7816bf8f01cfea414140de5dae2223b00361a396177a9cb410ff61f20015ad := by
  decide +kernel

set_option maxRecDepth 100000 in
theorem witness_EveryStepAnswersANextState : ∃ (s : State), s.pending = [] :=
  ⟨State.reset, by decide +kernel⟩

set_option maxRecDepth 100000 in
theorem witness_StepTakesExactlyOneCommand : ∃ (s : State) (t : State), step s = .next t :=
  ⟨queue [.vbatApplied, .uvloFall], _, rfl⟩

set_option maxRecDepth 100000 in
theorem witness_EveryCommandWritesOnlyItsParts : ∃ (c : Instr) (s : State) (t : State), exec c s = .next t ∧ ∃ (i : Item), i ∉ writes c :=
  ⟨.vbatApplied, s0, _, rfl, .cap, by decide +kernel⟩

set_option maxRecDepth 100000 in
theorem witness_EveryStepKeepsTheInvariant : ∃ (s : State) (t : State), Inv s ∧ step s = .next t :=
  ⟨queue [.vbatApplied], _, ⟨rfl, rfl, (fun h => nomatch h), by decide, by decide, by decide⟩, rfl⟩

set_option maxRecDepth 100000 in
theorem witness_VersionsAndSequencesNeverFall : ∃ (s : State) (t : State), step s = .next t :=
  ⟨queue [.vbatApplied], _, rfl⟩

set_option maxRecDepth 100000 in
theorem witness_OnlyTimeCommandsMoveTheClock : ∃ (c : Instr) (s : State) (t : State), exec c s = .next t :=
  ⟨.vbatApplied, s0, _, rfl⟩

set_option maxRecDepth 100000 in
theorem witness_OnlyActivationAndResetsChangeTheImage : ∃ (c : Instr) (s : State) (t : State), exec c s = .next t :=
  ⟨.vbatApplied, s0, _, rfl⟩

set_option maxRecDepth 100000 in
theorem witness_TickBoundaryAdvancesTheCounter :
    (∃ (s : State) (di : BitVec 16) (bad : List (Nat × Nat)), alive s ∧ s.tb.started = true) ∧
    (∃ (s : State) (di : BitVec 16) (bad : List (Nat × Nat)), s.tb.started = false) ∧
    (∃ (s : State), s.pwr.state = .run ∧ s.tb.started = false) :=
  ⟨⟨s0, 0xFFFF#16, [], by decide +kernel⟩,
   ⟨State.reset, 0#16, [], by decide +kernel⟩,
   ⟨{ State.reset with pwr := { state := .run } }, by decide +kernel⟩⟩

set_option maxRecDepth 100000 in
theorem witness_StepAndRestartOfGridTime :
    (∃ (s : State) (src : Nat) (ns : Nat) (since : Nat), s.pwr.state = .run ∧ s.tb.state = .notime ∧ (ranks s).find? (srcQualified s) = some src) ∧
    (∃ (s : State), alive s ∧ s.tb.restartReq = true) ∧
    (∃ (s : State) (n : Nat) (key : Nat), alive s ∧ validFn s n ∧ restartReason n key s = 0) ∧
    (∃ (s : State) (n : Nat) (key : Nat), s.hp.length = 4 ∧ alive s ∧ validFn s n ∧ restartReason n key s ≠ 0) :=
  ⟨⟨{ up (im [rg 0x10008 3, rg 0x10064 0] []) with tb := {} }, 3, 0, 0, by decide +kernel, by decide +kernel, rfl⟩,
   ⟨atTb s0 fun t => { t with restartReq := true }, by decide +kernel⟩,
   ⟨s0, 0, 0x5A17, by decide +kernel⟩,
   ⟨s0, 0, 0, by decide +kernel⟩⟩

set_option maxRecDepth 100000 in
theorem witness_RateCorrectionIsClamped : ∃ (s : State) (m : RateMeas), alive s ∧ s.tb.state = .locked :=
  ⟨s0, ⟨0, 0, none⟩, by decide +kernel⟩

set_option maxRecDepth 100000 in
theorem witness_HoldoverAndStreamEstimate : ∃ (s : State), alive s ∧ s.tb.state = .holdover :=
  ⟨atTb s0 fun t => { t with state := .holdover }, by decide +kernel⟩

set_option maxRecDepth 100000 in
theorem witness_LeapSeconds :
    (∃ (s : State), alive s ∧ hasTime s ∧ s.tb.grid % tps s = 0 ∧ utcNow s % 86400 = 86340) ∧
    (∃ (s : State), alive s ∧ hasTime s ∧ s.tb.leapPending = true ∧ s.tb.grid % tps s = 0 ∧ utcNow s = (if s.tb.leapDir then leapMidnight s - 1 else leapMidnight s + 1)) :=
  ⟨⟨atTb s0 fun t => { t with grid := 86340 * 51200 }, by decide +kernel⟩,
   ⟨atTb s0 fun t => { t with grid := 86401 * 51200, leapPending := true, leapMjd := 40587 }, by decide +kernel⟩⟩

set_option maxRecDepth 100000 in
theorem witness_ReferenceRtcAndOffsetRegister :
    (∃ (s : State), alive s ∧ s.tb.ref = 1) ∧
    (∃ (s : State), alive s ∧ s.tb.state = .locked) ∧
    (∃ (s : State) (n : Nat) (v : Word), alive s ∧ imgLoad s n ∧ fromSrc s = false) ∧
    (∃ (s : State) (n : Nat) (v : Word), alive s ∧ imgLoad s n ∧ fromSrc s = true) :=
  ⟨⟨atTb s0 fun t => { t with ref := 1 }, by decide +kernel⟩,
   ⟨s0, by decide +kernel⟩,
   ⟨s0, 0, 0, by decide +kernel⟩,
   ⟨atTb s0 fun t => { t with src := 1, rxp := { ofs := some 37 } }, 0, 0, by decide +kernel⟩⟩

set_option maxRecDepth 100000 in
theorem witness_SnapshotOfTheTimebase : ∃ (s : State) (n : Nat) (ns : Nat), s.hp.length = 4 ∧ alive s ∧ validFn s n ∧ hasTime s ∧ s.tb.now ≤ ns :=
  ⟨s0, 0, 100000000000, by decide +kernel⟩

set_option maxRecDepth 100000 in
theorem witness_PpsAndIrigB :
    (∃ (s : State) (ns : Nat), alive s) ∧
    (∃ (s : State) (m : IrigFrame), alive s ∧ m.parityOk = true ∧ m.ext = true) ∧
    (∃ (s : State) (m : IrigFrame), alive s ∧ (m.parityOk = false ∨ m.ext = false)) :=
  ⟨⟨s0, 0, by decide +kernel⟩,
   ⟨s0, { ns := 0, parityOk := true, coded := 0, marker := 0, tq := 0, ofs := none, leap := 0 }, by decide +kernel⟩,
   ⟨s0, { ns := 0, parityOk := false, coded := 0, marker := 0, tq := 0, ofs := none, leap := 0 }, by decide +kernel⟩⟩

set_option maxRecDepth 100000 in
theorem witness_PtpMessages :
    (∃ (s : State) (u : State) (h : Handed) (m : PtpMsg), alive s ∧ takeHanded .ptp s = some (h, u) ∧ h.frame.kind = .ptp m ∧ (m.kind = .management ∨ m.kind = .signalling ∨ m.kind = .other ∨ m.bad = true ∨ m.domain ≠ fld (imgReg s.cfg.active (TB + 0x4C)) 31 24)) ∧
    (∃ (s : State) (u : State) (h : Handed) (m : PtpMsg), alive s ∧ takeHanded .ptp s = some (h, u) ∧ h.frame.kind = .ptp m ∧ m.kind ≠ .management ∧ m.kind ≠ .signalling ∧ m.kind ≠ .other ∧ m.bad = false ∧ m.domain = fld (imgReg s.cfg.active (TB + 0x4C)) 31 24 ∧ h.frame.port = fld (imgReg s.cfg.active (TB + 0x4C)) 7 4) ∧
    (∃ (s : State) (u : State) (h : Handed) (m : PtpMsg), alive s ∧ takeHanded .ptp s = some (h, u) ∧ h.frame.kind = .ptp m ∧ m.kind ≠ .management ∧ m.kind ≠ .signalling ∧ m.kind ≠ .other ∧ m.bad = false ∧ m.domain = fld (imgReg s.cfg.active (TB + 0x4C)) 31 24 ∧ h.frame.port = fld (imgReg s.cfg.active (TB + 0x4C)) 11 8 ∧ h.frame.port ≠ fld (imgReg s.cfg.active (TB + 0x4C)) 7 4) ∧
    (∃ (s : State) (m : PtpMsg) (p : PtpPort) (q : PtpPort), q = ptpLearn s m p ∧ m.kind = .announce ∧ bestAnnounce s m p = true) ∧
    (∃ (s : State) (m : PtpMsg) (p : PtpPort) (q : PtpPort), q = ptpLearn s m p ∧ m.kind = .announce ∧ bestAnnounce s m p = false) ∧
    (∃ (s : State) (m : PtpMsg) (p : PtpPort) (q : PtpPort), q = ptpLearn s m p ∧ (m.kind = .sync ∨ m.kind = .followUp)) ∧
    (∃ (s : State) (m : PtpMsg) (p : PtpPort) (q : PtpPort), q = ptpLearn s m p ∧ (m.kind = .pdelayResp ∨ m.kind = .pdelayRespFollowUp)) ∧
    (∃ (s : State) (m : PtpMsg) (p : PtpPort) (q : PtpPort), q = ptpLearn s m p ∧ m.kind = .pdelayReq) ∧
    (∃ (s : State) (x : PtpSend), alive s ∧ x.port < 12 ∧ (portOf s x.port).linkUp = true ∧ max 64 (ptpLen s x.kind) ≤ maxLen s x.port ∧ Nat.testBit (fld (imgReg s.cfg.active (TB + 0x4C)) 23 12) x.port = true ∧ (x.kind = .announce ∨ x.kind = .sync)) ∧
    (∃ (s : State) (x : PtpSend), alive s ∧ x.port < 12 ∧ (portOf s x.port).linkUp = true ∧ max 64 (ptpLen s x.kind) ≤ maxLen s x.port ∧ (Nat.testBit (fld (imgReg s.cfg.active (TB + 0x4C)) 23 12) x.port = true ∨ fld (imgReg s.cfg.active (TB + 0x4C)) 7 4 = x.port ∨ fld (imgReg s.cfg.active (TB + 0x4C)) 11 8 = x.port) ∧ (x.kind = .pdelayReq ∨ x.kind = .pdelayResp)) ∧
    (∃ (s : State) (x : PtpSend), alive s ∧ (x.kind = .followUp ∨ x.kind = .pdelayRespFollowUp ∨ x.kind = .management ∨ x.kind = .signalling ∨ x.kind = .other)) :=
  ⟨⟨got s0 .ptp 0 0 (.ptp { kind := .management, domain := 0, rxNs := 0, portState := 0 }), _, _, _, by decide +kernel, rfl, rfl, by decide +kernel⟩,
   ⟨got (up (im [rg 0x1004C 0] [])) .ptp 0 0 (.ptp { kind := .sync, domain := 0, rxNs := 0, portState := 0 }), _, _, _, by decide +kernel, rfl, rfl, by decide +kernel⟩,
   ⟨got (up (im [rg 0x1004C 0x10] [])) .ptp 0 0 (.ptp { kind := .sync, domain := 0, rxNs := 0, portState := 0 }), _, _, _, by decide +kernel, rfl, rfl, by decide +kernel⟩,
   ⟨s0, { kind := .announce, domain := 0, rxNs := 0, portState := 0 }, {}, _, rfl, by decide +kernel⟩,
   ⟨s0, { kind := .announce, domain := 0, rxNs := 0, portState := 0, gmId := 5 }, { gmId := 4, lastAnn := some 100000000000, annInterval := 1000000000 }, _, rfl, by decide +kernel⟩,
   ⟨s0, { kind := .sync, domain := 0, rxNs := 0, portState := 0 }, {}, _, rfl, by decide +kernel⟩,
   ⟨s0, { kind := .pdelayResp, domain := 0, rxNs := 0, portState := 0 }, {}, _, rfl, by decide +kernel⟩,
   ⟨s0, { kind := .pdelayReq, domain := 0, rxNs := 0, portState := 0 }, {}, _, rfl, by decide +kernel⟩,
   ⟨link (up (im [rg 0x1004C 0x00001010] [])), { port := 0, kind := .sync }, by decide +kernel⟩,
   ⟨link (up (im [rg 0x1004C 0x00001010] [])), { port := 0, kind := .pdelayReq }, by decide +kernel⟩,
   ⟨s0, { port := 0, kind := .followUp }, by decide +kernel⟩⟩

set_option maxRecDepth 100000 in
theorem witness_LinkUpAndLinkDown :
    (∃ (s : State) (n : Nat) (pcs : Bool) (fec : Bool) (an : Bool) (speed : Nat), s.hp.length = 4 ∧ alive s ∧ n < 14 ∧ linkMayRise s n pcs fec an speed ∧ (portOf s n).linkUp = false) ∧
    (∃ (s : State) (n : Nat) (cut : Bool), s.hp.length = 4 ∧ alive s ∧ n < 13 ∧ (portOf s n).linkUp = true) ∧
    (∃ (s : State) (cut : Bool), alive s ∧ (portOf s 13).linkUp = true) :=
  ⟨⟨up (im [rg 0x20000 0x17C80001] []), 0, true, true, true, 0, by decide +kernel⟩,
   ⟨link s0, 0, false, by decide +kernel⟩,
   ⟨link s0, false, by decide +kernel⟩⟩

set_option maxRecDepth 100000 in
theorem witness_PauseFramesAndHeldTransmitters :
    (∃ (s : State) (f : Frame) (op : Nat) (q : Nat), alive s ∧ f.kind = .macCtl op q ∧ f.port < 14 ∧ (portOf s f.port).linkUp = true ∧ rxFillOf s f.port + maxLen s f.port ≤ bufKib f.port * 1024 ∧ rxFault s f = none ∧ (f.dst = pauseMac ∨ f.dst = portMac s f.port)) ∧
    (∃ (s : State) (n : Nat) (e : Nat) (ns : Nat), alive s ∧ (portOf s n).pauseEnd = some e ∧ e ≤ ns) ∧
    (∃ (s : State) (n : Nat) (e : Nat), s.hp.length = 4 ∧ alive s ∧ n < 13 ∧ (portOf s n).pauseEnd = some e ∧ fld (imgReg s.cfg.active (portBase n + 0x10)) 3 0 * 1024 ≤ (portOf s n).held) ∧
    (∃ (s : State) (n : Nat) (ns : Nat), alive s ∧ pauseTxOn s n ∧ (portOf s n).xoff = true ∧ (portOf s n).xoffAt + fld (imgReg s.cfg.active (portBase n + 0xC)) 31 16 * 512000 / modeSpeed (portMode s n) / 2 ≤ ns ∧ fld (imgReg s.cfg.active (portBase n + 0xC)) 7 0 * (bufKib n * 1024) ≤ rxFillOf s n * 100) :=
  ⟨⟨link s0, fr 0 (.macCtl 1 0), 1, 0, by decide +kernel, rfl, by decide +kernel⟩,
   ⟨{ s0 with eth := { s0.eth with ports := [(0, { linkUp := true, pauseEnd := some 5 })] } }, 0, 5, 5, by decide +kernel, rfl, by decide +kernel⟩,
   ⟨{ s0 with eth := { s0.eth with ports := [(0, { linkUp := true, pauseEnd := some 5, held := 4096 })] } }, 0, 5, all3 (by decide +kernel) ⟨rfl, by decide +kernel⟩⟩,
   ⟨{ up (im [rg 0x20000 0x17C80801, rg 0x2000C 0] []) with eth := { ports := [(0, { linkUp := true, xoff := true })] } }, 0, 100000000000, by decide +kernel⟩⟩

set_option maxRecDepth 100000 in
theorem witness_FrameReceptionAndDeparture :
    (∃ (s : State) (f : Frame) (c : Nat), alive s ∧ f.port < 14 ∧ (portOf s f.port).linkUp = true ∧ rxFillOf s f.port + maxLen s f.port ≤ bufKib f.port * 1024 ∧ rxFault s f = some c) ∧
    (∃ (s : State) (u : State) (v : State) (f : Frame), alive s ∧ f.port < 14 ∧ (portOf s f.port).linkUp = true ∧ rxChecks f s = (u, true) ∧ (∀ m, f.kind ≠ .ptp m) ∧ prpDiscard f u = (v, .pass)) ∧
    (∃ (s : State) (u : State) (v : State) (f : Frame), alive s ∧ f.port < 14 ∧ (portOf s f.port).linkUp = true ∧ rxChecks f s = (u, true) ∧ (∀ m, f.kind ≠ .ptp m) ∧ prpDiscard f u = (v, .undeclared)) ∧
    (∃ (s : State) (u : State) (v : State) (f : Frame), alive s ∧ f.port < 14 ∧ (portOf s f.port).linkUp = true ∧ rxChecks f s = (u, true) ∧ (∀ m, f.kind ≠ .ptp m) ∧ prpDiscard f u = (v, .drop)) ∧
    (∃ (s : State) (u : State) (f : Frame) (m : PtpMsg), alive s ∧ f.port < 14 ∧ (portOf s f.port).linkUp = true ∧ rxChecks f s = (u, true) ∧ f.kind = .ptp m) ∧
    (∃ (s : State) (n : Nat) (id : Nat) (dep : Nat) (sub : Nat) (f : TxFrame), alive s ∧ (portOf s n).linkUp = true ∧ (portOf s n).cur = some f ∧ f.id = id) ∧
    (∃ (s : State) (n : Nat) (id : Nat) (dep : Nat) (sub : Nat) (f : TxFrame) (rest : List TxFrame), alive s ∧ (portOf s n).linkUp = true ∧ (portOf s n).cur = none ∧ (takeFirst (fun t => t.id == id) (portOf s n).txq = some (f, rest)) ∧ isPauseTx f = true) ∧
    (∃ (s : State) (n : Nat) (id : Nat) (dep : Nat) (sub : Nat) (f : TxFrame) (rest : List TxFrame), alive s ∧ (portOf s n).linkUp = true ∧ (portOf s n).cur = none ∧ (takeFirst (fun t => t.id == id) (portOf s n).txq = some (f, rest)) ∧ isPauseTx f = false) :=
  ⟨⟨link s0, { fr 0 .other with fcsOk := false }, 0x110, all3 (by decide +kernel) ⟨by decide +kernel, rfl⟩⟩,
   ⟨link s0, _, _, fr 0 .other, all3 (by decide +kernel) ⟨rfl, (fun m h => nomatch (show Payload.other = .ptp m from h)), rfl⟩⟩,
   ⟨link (up (im [rg 0x2E000 0x80000010] [])), _, _, { fr 0 .other with rct := some ⟨7#16, false, true⟩ }, all3 (by decide +kernel) ⟨rfl, (fun m h => nomatch (show Payload.other = .ptp m from h)), rfl⟩⟩,
   ⟨link { up (im [rg 0x2E000 0x80000010] [⟨secPRP_SRC, [[0#32, 0x00800100#32]]⟩]) with eth := { dup := [(1, { h := 7#16, seen := 1#64, last := 100000000000 })] } }, _, _, { fr 0 .other with rct := some ⟨7#16, false, true⟩ }, all3 (by decide +kernel) ⟨rfl, (fun m h => nomatch (show Payload.other = .ptp m from h)), rfl⟩⟩,
   ⟨link s0, _, fr 0 (.ptp { kind := .sync, domain := 0, rxNs := 0, portState := 0 }), _, all3 (by decide +kernel) ⟨rfl, rfl⟩⟩,
   ⟨{ s0 with eth := { s0.eth with ports := [(0, { linkUp := true, cur := some { id := 3, body := .pause 0 0, len := 64 } })] } }, 0, 3, 0, 0, _, by decide +kernel, by decide +kernel, rfl, by decide +kernel⟩,
   ⟨{ s0 with eth := { s0.eth with ports := [(0, { linkUp := true, txq := [{ id := 3, body := .pause 0 0, len := 64 }] })] } }, 0, 3, 0, 0, _, _, all3 (by decide +kernel) ⟨rfl, by decide +kernel⟩⟩,
   ⟨{ s0 with eth := { s0.eth with ports := [(12, { linkUp := true, txq := [{ id := 3, body := .host 0 0, len := 64 }] })] } }, 12, 3, 0, 0, _, _, all3 (by decide +kernel) ⟨rfl, by decide +kernel⟩⟩⟩

set_option maxRecDepth 100000 in
theorem witness_PrpDuplicateDiscard :
    (∃ (e : DupEnt) (q : BitVec 16), (prpWindow e q).2.2 = false) ∧
    (∃ (s : State) (ns : Nat), alive s) ∧
    (∃ (s : State) (p : Nat), alive s ∧ p < 6 ∧ pairOn s.cfg.active p ∧ supDue s p ∧ pairA s.cfg.active p ≠ pairB s.cfg.active p ∧ (portOf s (pairA s.cfg.active p)).linkUp = true ∧ (portOf s (pairB s.cfg.active p)).linkUp = true ∧ 66 ≤ maxLen s (pairA s.cfg.active p) ∧ 66 ≤ maxLen s (pairB s.cfg.active p)) ∧
    (∃ (s : State) (u : State) (h : Handed) (p : Nat), alive s ∧ takeHanded .supervision s = some (h, u) ∧ pairOf s.cfg.active h.frame.port = some p) :=
  ⟨⟨⟨7#16, 1#64, 0⟩, 7#16, by decide +kernel⟩,
   ⟨s0, 0, by decide +kernel⟩,
   ⟨link (up (im [rg 0x2E000 0x80000010, rg 0x20000 0x17C80001, rg 0x21000 0x17C80001] [])), 0, by decide +kernel⟩,
   ⟨got (up (im [rg 0x2E000 0x80000010] [])) .supervision 0 0 .supervision, _, _, 0, by decide +kernel, rfl, rfl⟩⟩

set_option maxRecDepth 100000 in
theorem witness_DataFramesOfStreams :
    (∃ (s : State), alive s ∧ writerRoom s = false) ∧
    (∃ (s : State) (u : State) (h : Handed) (hdr : IpHdr) (bs : List Byte) (o : Bool), alive s ∧ writerRoom s ∧ takeHanded .streamData s = some (h, u) ∧ h.frame.payload = .ip hdr bs o ∧ (strmOf s h.obj).st ≠ 2) ∧
    (∃ (s : State) (u : State) (h : Handed) (hdr : IpHdr) (bs : List Byte) (o : Bool), alive s ∧ writerRoom s ∧ takeHanded .streamData s = some (h, u) ∧ h.frame.payload = .ip hdr bs o ∧ (strmOf s h.obj).st = 2 ∧ (strmOf s h.obj).credit < tps s) ∧
    (∃ (s : State) (u : State) (h : Handed) (hdr : IpHdr) (bs : List Byte) (o : Bool), alive s ∧ writerRoom s ∧ takeHanded .streamData s = some (h, u) ∧ h.frame.payload = .ip hdr bs o ∧ (strmOf s h.obj).st = 2 ∧ tps s ≤ (strmOf s h.obj).credit ∧ beAt bs 2 2 ≠ dir s.cfg.active h.obj 4 31 16) ∧
    (∃ (s : State) (u : State) (h : Handed) (hdr : IpHdr) (bs : List Byte) (o : Bool) (tau : Int), alive s ∧ writerRoom s ∧ takeHanded .streamData s = some (h, u) ∧ h.frame.payload = .ip hdr bs o ∧ (strmOf s h.obj).st = 2 ∧ tps s ≤ (strmOf s h.obj).credit ∧ beAt bs 2 2 = dir s.cfg.active h.obj 4 31 16 ∧ hasTime s ∧ tau = frameTau u (BitVec.ofNat 32 (beAt bs 6 4)) (Nat.testBit (beAt bs 10 1) 5) (fracNs (beAt bs 11 3) (dir s.cfg.active h.obj 5 23 0)) ∧ timeChecks u h.obj h.frame.arrival tau = none ∧ (dirPaired s.cfg.active h.obj = false ∨ 0 ≤ sint 32 ((frameClaim s.cfg.active h.obj bs - fgetD s.nv.claimHi h.obj 0#32).toNat)) ∧ recOf s h.obj (nearestInst s (dirRate s.cfg.active h.obj) tau) = none) :=
  ⟨⟨full s0, by decide +kernel, full_noRoom s0⟩,
   ⟨got (str (up (sIm 0#32 0#32 [])) {}) .streamData 0 0 (udp (c37 0 (List.replicate 20 0#8))), _, _, _, _, _, by decide +kernel, by decide +kernel, rfl, rfl, by decide +kernel⟩,
   ⟨got (str (up (sIm 0#32 0#32 [])) { st := 2 }) .streamData 0 0 (udp (c37 0 (List.replicate 20 0#8))), _, _, _, _, _, by decide +kernel, by decide +kernel, rfl, rfl, by decide +kernel⟩,
   ⟨got (str (up (sIm 0#32 0#32 [])) { st := 2, credit := 100000 }) .streamData 0 0 (udp (c37 0 [])), _, _, _, _, _, by decide +kernel, by decide +kernel, rfl, rfl, by decide +kernel⟩,
   ⟨got (str (up (sIm 0#32 0#32 [])) { st := 2, credit := 100000 }) .streamData 0 0 (udp (c37 0 (List.replicate 20 0#8))), _, _, _, _, _, 100000000000, by decide +kernel, by decide +kernel, rfl, rfl, by decide +kernel⟩⟩

set_option maxRecDepth 100000 in
theorem witness_RsvPdusAreAuthenticated :
    (∃ (s : State), alive s ∧ writerRoom s = false) ∧
    (∃ (s : State) (u : State) (h : Handed) (hdr : IpHdr) (m : RsvPdu), alive s ∧ writerRoom s ∧ takeHanded .rsv s = some (h, u) ∧ h.frame.payload = .rsv hdr m ∧ (strmOf s h.obj).st ≠ 2) ∧
    (∃ (s : State) (u : State) (h : Handed) (hdr : IpHdr) (m : RsvPdu), alive s ∧ writerRoom s ∧ takeHanded .rsv s = some (h, u) ∧ h.frame.payload = .rsv hdr m ∧ (strmOf s h.obj).st = 2 ∧ (strmOf s h.obj).credit < tps s) ∧
    (∃ (s : State) (u : State) (h : Handed) (hdr : IpHdr) (m : RsvPdu), alive s ∧ writerRoom s ∧ takeHanded .rsv s = some (h, u) ∧ h.frame.payload = .rsv hdr m ∧ (strmOf s h.obj).st = 2 ∧ tps s ≤ (strmOf s h.obj).credit ∧ (m.spduLen ≠ dir s.cfg.active h.obj 4 31 16 ∨ m.asdus ≠ 1)) ∧
    (∃ (s : State) (u : State) (h : Handed) (hdr : IpHdr) (m : RsvPdu), alive s ∧ writerRoom s ∧ takeHanded .rsv s = some (h, u) ∧ h.frame.payload = .rsv hdr m ∧ (strmOf s h.obj).st = 2 ∧ tps s ≤ (strmOf s h.obj).credit ∧ m.spduLen = dir s.cfg.active h.obj 4 31 16 ∧ m.asdus = 1 ∧ imBit s.cfg.active secSTREAM_DIR h.obj 9 13 ∧ rsvSlot s h.obj m.keyId = none) ∧
    (∃ (s : State) (u : State) (v : State) (h : Handed) (hdr : IpHdr) (m : RsvPdu) (a : Bool) (tau : Int), alive s ∧ writerRoom s ∧ takeHanded .rsv s = some (h, u) ∧ h.frame.payload = .rsv hdr m ∧ (strmOf s h.obj).st = 2 ∧ tps s ≤ (strmOf s h.obj).credit ∧ m.spduLen = dir s.cfg.active h.obj 4 31 16 ∧ m.asdus = 1 ∧ (rsvAuth h.obj m (modStrm h.obj (fun r => { r with credit := r.credit - tps s }) u) = (v, .accept, a)) ∧ hasTime s ∧ tau = frameTau u m.refrSec true (roundDiv (m.refrFrac * 1000000000) (2 ^ 24)) ∧ timeChecks u h.obj h.frame.arrival tau = none ∧ recOf s h.obj (nearestInst s (dirRate s.cfg.active h.obj) tau) = none) :=
  ⟨⟨full s0, by decide +kernel, full_noRoom s0⟩,
   ⟨got (str (up (sIm 0x03000000#32 0x2000#32 [])) {}) .rsv 0 0 (.rsv { src := 1, dst := 2, sport := 3, dport := 0x1234 } rsv), _, _, _, _, by decide +kernel, by decide +kernel, rfl, rfl, by decide +kernel⟩,
   ⟨got (str (up (sIm 0x03000000#32 0x2000#32 [])) { st := 2 }) .rsv 0 0 (.rsv { src := 1, dst := 2, sport := 3, dport := 0x1234 } rsv), _, _, _, _, by decide +kernel, by decide +kernel, rfl, rfl, by decide +kernel⟩,
   ⟨got (str (up (sIm 0x03000000#32 0x2000#32 [])) { st := 2, credit := 100000 }) .rsv 0 0 (.rsv { src := 1, dst := 2, sport := 3, dport := 0x1234 } { rsv with asdus := 2 }), _, _, _, _, by decide +kernel, by decide +kernel, rfl, rfl, by decide +kernel⟩,
   ⟨got (str (up (sIm 0x03000000#32 0x2000#32 [])) { st := 2, credit := 100000 }) .rsv 0 0 (.rsv { src := 1, dst := 2, sport := 3, dport := 0x1234 } rsv), _, _, _, _, by decide +kernel, by decide +kernel, rfl, rfl, by decide +kernel⟩,
   ⟨got (str (up (sIm 0x03000000#32 0#32 [])) { st := 2, credit := 100000 }) .rsv 0 0 (.rsv { src := 1, dst := 2, sport := 3, dport := 0x1234 } rsv), _, _, _, _, _, _, 100000000000, by decide +kernel, by decide +kernel, rfl, rfl, all3 (by decide +kernel) ⟨by decide +kernel, rfl, by decide +kernel⟩⟩⟩

set_option maxRecDepth 100000 in
theorem witness_ConfigurationFramesDecideTheStreamState :
    (∃ (s : State) (u : State) (v : State) (h : Handed) (hdr : IpHdr) (bs : List Byte) (o : Bool), alive s ∧ takeHanded .streamCfg s = some (h, u) ∧ h.frame.payload = .ip hdr bs o ∧ ctlAdmit h.obj bs u = (v, true) ∧ cfgDiffers s.cfg.active h.obj (cfgParse (c37Type bs) bs) = none) ∧
    (∃ (s : State) (u : State) (v : State) (h : Handed) (hdr : IpHdr) (bs : List Byte) (o : Bool), alive s ∧ takeHanded .streamCfg s = some (h, u) ∧ h.frame.payload = .ip hdr bs o ∧ ctlAdmit h.obj bs u = (v, true) ∧ ∃ (k : _), cfgDiffers s.cfg.active h.obj (cfgParse (c37Type bs) bs) = some k) ∧
    (∃ (s : State) (u : State) (h : Handed) (hdr : IpHdr) (bs : List Byte) (o : Bool), alive s ∧ takeHanded .streamCfg s = some (h, u) ∧ h.frame.payload = .ip hdr bs o ∧ (beAt bs 2 2 < 18 ∨ fld (imgReg s.cfg.active (ING + 0xC)) 15 0 < beAt bs 2 2)) ∧
    (∃ (s : State) (u : State) (h : Handed) (hdr : IpHdr) (bs : List Byte) (o : Bool), alive s ∧ takeHanded .streamCfg s = some (h, u) ∧ h.frame.payload = .ip hdr bs o ∧ 18 ≤ beAt bs 2 2 ∧ beAt bs 2 2 ≤ fld (imgReg s.cfg.active (ING + 0xC)) 15 0 ∧ ctlRate u ≤ (if (strmOf u h.obj).ctlSec = limitSec u then (strmOf u h.obj).ctlN else 0)) ∧
    (∃ (s : State) (u : State) (v : State) (h : Handed) (hdr : IpHdr) (bs : List Byte) (o : Bool), alive s ∧ takeHanded .streamHeader s = some (h, u) ∧ h.frame.payload = .ip hdr bs o ∧ ctlAdmit h.obj bs u = (v, true) ∧ c37Type bs = 1) ∧
    (∃ (s : State) (u : State) (v : State) (h : Handed) (hdr : IpHdr) (bs : List Byte) (o : Bool), alive s ∧ takeHanded .streamHeader s = some (h, u) ∧ h.frame.payload = .ip hdr bs o ∧ ctlAdmit h.obj bs u = (v, true) ∧ c37Type bs ≠ 1) :=
  ⟨⟨got (str (up (sIm 0#32 0#32 [])) {}) .streamCfg 0 0 (udp (c37 3 ([0#8, 0x0F#8, 0x42#8, 0x40#8, 0#8, 1#8] ++ List.replicate 16 0#8 ++ zeros 10 ++ [0#8, 1#8, 0#8, 0#8] ++ [0#8, 50#8]))), _, _, _, _, _, _, by decide +kernel, rfl, rfl, rfl, by decide +kernel⟩,
   ⟨got (str (up (sIm 0#32 0#32 [])) {}) .streamCfg 0 0 (udp (c37 3 (List.replicate 10 0#8))), _, _, _, _, _, _, by decide +kernel, rfl, rfl, rfl, 1, by decide +kernel⟩,
   ⟨got (str (up (sIm 0#32 0#32 [])) {}) .streamCfg 0 0 (udp []), _, _, _, _, _, by decide +kernel, rfl, rfl, by decide +kernel⟩,
   ⟨got (str (up (sIm 0#32 0#32 [])) { ctlSec := 100, ctlN := 1000 }) .streamCfg 0 0 (udp (c37 3 (List.replicate 10 0#8))), _, _, _, _, _, by decide +kernel, rfl, rfl, by decide +kernel⟩,
   ⟨got (str (up (sIm 0#32 0#32 [])) {}) .streamHeader 0 0 (udp (c37 1 (List.replicate 10 0#8))), _, _, _, _, _, _, by decide +kernel, rfl, rfl, rfl, by decide +kernel⟩,
   ⟨got (str (up (sIm 0#32 0#32 [])) {}) .streamHeader 0 0 (udp (c37 2 (List.replicate 10 0#8))), _, _, _, _, _, _, by decide +kernel, rfl, rfl, rfl, by decide +kernel⟩⟩

set_option maxRecDepth 100000 in
theorem witness_TcpStreamsAndConfigurationRequests :
    (∃ (s : State) (n : Nat) (k : Nat) (port : Option Nat), alive s ∧ tcpHead s n k ∧ ((strmOf s n).conn k).up = false) ∧
    (∃ (s : State) (n : Nat) (k : Nat), alive s ∧ tcpHead s n k ∧ ((strmOf s n).conn k).up = true) ∧
    (∃ (s : State) (n : Nat) (ns : Nat), alive s ∧ dirValid s.cfg.active n ∧ dirTransport s.cfg.active n = 1 ∧ ((strmOf s n).ca.up = false ∨ (dirPaired s.cfg.active n = true ∧ (strmOf s n).cb.up = false)) ∧ (strmOf s n).reqAt + 5 * tps s ≤ s.tb.tick) ∧
    (∃ (s : State) (n : Nat) (ns : Nat), alive s ∧ dirValid s.cfg.active n ∧ dir s.cfg.active n 1 19 14 = 0 ∧ (∃ m ∈ bundle s.cfg.active n, (strmOf s m).st = 1 ∨ (strmOf s m).st = 3 ∨ (strmOf s m).bit10 = true) ∧ (strmOf s n).reqAt + 10 * tps s ≤ s.tb.tick) :=
  ⟨⟨str (up (sIm 0x01000000#32 0#32 [])) {}, 0, 0, none, by decide +kernel⟩,
   ⟨str (up (sIm 0x01000000#32 0#32 [])) { ca := { up := true } }, 0, 0, by decide +kernel⟩,
   ⟨str { up (sIm 0x01000000#32 0#32 []) with tb := { tick := 1000000 } } {}, 0, 0, by decide +kernel⟩,
   ⟨str { up (sIm 0#32 0#32 []) with tb := { tick := 1000000 } } { st := 1 }, 0, 0, by decide +kernel⟩⟩

set_option maxRecDepth 100000 in
theorem witness_IngestRecordsAreWrittenInOrder :
    (∃ (s : State) (r : IngRec) (k : ReadCheck), alive s ∧ nextRec s.ing.recs = some r) ∧
    (∃ (s : State) (k : ReadCheck), alive s ∧ (∀ q ∈ s.ing.recs, q.written = true)) ∧
    (∃ (s : State) (k : Nat), s.hp.length = 4 ∧ alive s) :=
  ⟨⟨{ up (sIm 0#32 0#32 []) with ing := { recs := [rec 5120000] } }, _, {}, by decide +kernel, rfl⟩,
   ⟨s0, {}, by decide +kernel⟩,
   ⟨s0, 0, by decide +kernel⟩⟩

set_option maxRecDepth 100000 in
theorem witness_GroupsStartAndWindowsClose :
    (∃ (s : State) (g : Nat), alive s ∧ groupMayStart s g) ∧
    (∃ (s : State) (g : Nat), alive s ∧ groupMayStart s g = false) ∧
    (∃ (s : State) (g : Nat), alive s ∧ (grpOf s g).st = 2 ∧ hasTime s ∧ closeOf s g (grpOf s g).nextClose ≤ s.tb.grid) ∧
    (∃ (s : State) (g : Nat), alive s ∧ s.tb.grid < closeOf s g (grpOf s g).nextClose) :=
  ⟨⟨{ up (sIm 0#32 0#32 []) with aln := { grps := [(0, { st := 1, since := 5000000 })] } }, 0, by decide +kernel⟩,
   ⟨{ up (sIm 0#32 0#32 []) with aln := { grps := [(0, { st := 0 })] } }, 0, by decide +kernel⟩,
   ⟨{ up (sIm 0#32 0#32 []) with aln := { grps := [(0, { st := 2, nextClose := 5000000 })] } }, 0, by decide +kernel⟩,
   ⟨{ up (sIm 0#32 0#32 []) with aln := { grps := [(0, { st := 2, nextClose := 6000000 })] } }, 0, by decide +kernel⟩⟩

set_option maxRecDepth 100000 in
theorem witness_AlignedSetsAreSealedInOrder :
    (∃ (s : State) (g : Nat) (k : SealCheck), alive s ∧ (grpOf s g).st = 2 ∧ (grpOf s g).nextSeal < (grpOf s g).nextClose ∧ s.tb.grid ≤ closeOf s g (grpOf s g).nextSeal + (lateSpan s + 240) * 1024) ∧
    (∃ (s : State) (g : Nat) (k : SealCheck), alive s ∧ (grpOf s g).nextClose ≤ (grpOf s g).nextSeal) ∧
    (∃ (s : State) (c : Nat), alive s ∧ imBit s.cfg.active secISL_CMP c 0 31 ∧ cmpPrim s.cfg.active c = 2 ∧ (grpOf s (cmpGroup s.cfg.active c)).st = 2 ∧ (cmpOf s c).out = false ∧ (cmpOf s c).tmo / 1000000000 + cmpF s.cfg.active c 5 23 0 < s.tb.grid ∧ (cmpWarming s c = false ∨ imBit s.cfg.active secISL_CMP c 0 19 = true)) ∧
    (∃ (s : State) (c : Nat), alive s ∧ s.tb.grid ≤ (cmpOf s c).tmo / 1000000000 + cmpF s.cfg.active c 5 23 0) :=
  ⟨⟨{ up (sIm 0#32 0#32 []) with aln := { grps := [(0, { st := 2, nextSeal := 5000000, nextClose := 5001024 })] } }, 0, {}, by decide +kernel⟩,
   ⟨{ up (sIm 0#32 0#32 []) with aln := { grps := [(0, { st := 2 })] } }, 0, {}, by decide +kernel⟩,
   ⟨{ up (sIm 0#32 0#32 [⟨secISL_CMP, [0xA0080000#32 :: List.replicate 7 0#32]⟩]) with aln := { grps := [(0, { st := 2 })] } }, 0, by decide +kernel⟩,
   ⟨State.reset, 0, by decide +kernel⟩⟩

set_option maxRecDepth 100000 in
theorem witness_SampledValuesBecomeFinalInOrder :
    (∃ (s : State) (u : State) (h : Handed) (m : SvFrame), alive s ∧ takeHanded .sv s = some (h, u) ∧ h.frame.payload = .sv m ∧ hasTime s = false) ∧
    (∃ (s : State) (u : State) (h : Handed) (m : SvFrame), alive s ∧ takeHanded .sv s = some (h, u) ∧ h.frame.payload = .sv m ∧ hasTime s ∧ (subOf s h.obj).credit < tps s * subAsdus s.cfg.active h.obj) ∧
    (∃ (s : State) (u : State) (h : Handed) (m : SvFrame) (d : SvAsdu) (l : List SvAsdu), alive s ∧ takeHanded .sv s = some (h, u) ∧ h.frame.payload = .sv m ∧ hasTime s ∧ tps s * subAsdus s.cfg.active h.obj ≤ (subOf s h.obj).credit ∧ m.asdus = d :: l ∧ (∀ e ∈ m.asdus, e.confRev = sub s.cfg.active h.obj 4 31 0 ∧ e.dsLen = 8 * subChans s.cfg.active h.obj ∧ e.smpCnt < subFs s.cfg.active h.obj) ∧ m.asdus.length = subAsdus s.cfg.active h.obj ∧ svOld s (subFs s.cfg.active h.obj) (placeIdx s (subFs s.cfg.active h.obj) d.smpCnt h.frame.arrival) h.frame.arrival = false) ∧
    (∃ (s : State) (n : Nat) (ns : Nat), alive s ∧ n < 32 ∧ hasTime s ∧ s.tb.now ≤ ns) :=
  ⟨⟨got (atTb s0 fun t => { t with state := .notime }) .sv 0 0 (.sv { appid := 0x4000, asdus := [{ svId := [], smpCnt := 0, confRev := 0, smpSynch := 2, dsLen := 8, data := [(0#32, 0#32)] }] }), _, _, _, by decide +kernel, rfl, rfl, by decide +kernel⟩,
   ⟨got (up (im [] [⟨secSV_SUB, [[0x82200000#32]]⟩])) .sv 0 0 (.sv { appid := 0x4000, asdus := [{ svId := [], smpCnt := 0, confRev := 0, smpSynch := 2, dsLen := 8, data := [(0#32, 0#32)] }] }), _, _, _, by decide +kernel, rfl, rfl, by decide +kernel⟩,
   ⟨got ({ up (im [] [⟨secSV_SUB, [[0x82200000#32]]⟩]) with svf := { subs := [(0, { credit := 100000 })] } }) .sv 0 0 (.sv { appid := 0x4000, asdus := [{ svId := [], smpCnt := 0, confRev := 0, smpSynch := 2, dsLen := 8, data := [(0#32, 0#32)] }] }), _, _, _, _, _, by decide +kernel, rfl, rfl, by decide +kernel, by decide +kernel, rfl, by decide +kernel⟩,
   ⟨s0, 0, 100000000000, by decide +kernel⟩⟩

set_option maxRecDepth 100000 in
theorem witness_BayRecordsAreWritten :
    (∃ (s : State) (b : Nat) (i : Nat) (k : ReadCheck), alive s ∧ bayDue s b i ∧ anyEst Est.isOpen (bayEsts s b i) = false ∧ anyEst Est.isGone (bayEsts s b i) = false) ∧
    (∃ (s : State) (b : Nat) (i : Nat) (ns : Nat) (k : ReadCheck), alive s ∧ s.tb.now ≤ ns ∧ bayDue (seen ns s) b i ∧ gridNs s i + bayLambdaNs s b ≤ ns) ∧
    (∃ (s : State) (b : Nat) (i : Nat) (k : ReadCheck), alive s ∧ (recOf s (bayStrm s.cfg.active b) i).isSome) :=
  ⟨⟨{ up (sIm 0x04000000#32 0#32 [⟨secBAY, [[0x80000000#32, 0#32]]⟩]) with svf := { slots := [(0, { ys := [{ a := 999999999 }], firA := some 999999999 }), (1, { ys := [{ a := 999999999 }], firA := some 999999999 }), (2, { ys := [{ a := 999999999 }], firA := some 999999999 })] } }, 0, 5120000, {}, by decide +kernel⟩,
   ⟨{ up (sIm 0x04000000#32 0#32 [⟨secBAY, [[0x80000000#32, 0#32]]⟩]) with svf := { slots := [(0, { ys := [{ a := 999999999 }], firA := some 999999999 }), (1, { ys := [{ a := 999999999 }], firA := some 999999999 }), (2, { ys := [{ a := 999999999 }], firA := some 999999999 })] }, tb := { tick := 4096, started := true, state := .locked, src := 1, grid := 5120000, now := 100000000000 } }, 0, 5120000, 100300000000, {}, by decide +kernel⟩,
   ⟨{ up (sIm 0x04000000#32 0#32 [⟨secBAY, [[0x80000000#32, 0#32]]⟩]) with svf := { slots := [(0, { ys := [{ a := 999999999 }], firA := some 999999999 }), (1, { ys := [{ a := 999999999 }], firA := some 999999999 }), (2, { ys := [{ a := 999999999 }], firA := some 999999999 })] }, ing := { recs := [rec 5120000] } }, 0, 5120000, {}, by decide +kernel⟩⟩

set_option maxRecDepth 100000 in
theorem witness_DetectorsAdvanceOneInstant :
    (∃ (s : State) (n : Nat) (k : ReadCheck), alive s ∧ imBit s.cfg.active secOSC_SIGNAL n 0 31 ∧ (grpOf s (sigGroup s.cfg.active n)).st = 2 ∧ (isSealed s (sigGroup s.cfg.active n) (sigOf s n).next ∨ (sigChans s.cfg.active n).all (recWritten s (sigOf s n).next) = true)) ∧
    (∃ (s : State) (n : Nat) (k : ReadCheck), alive s ∧ isSealed s (sigGroup s.cfg.active n) (sigOf s n).next = false ∧ (sigChans s.cfg.active n).all (recWritten s (sigOf s n).next) = false) ∧
    (∃ (s : State) (r : Nat) (k : ReadCheck), alive s ∧ ((imValid s.cfg.active secOSC_MODE).filter (fun m => modeRef s.cfg.active m == r) ≠ []) ∧ ((famGroups s.cfg.active r).all (fun g => isSealed s g (fgetD s.osc.famNext r 0)) = true) ∧ ((((imValid s.cfg.active secOSC_MODE).filter (fun m => modeRef s.cfg.active m == r)).flatMap (modeMembers s.cfg.active)).all (fun n => decide (fgetD s.osc.famNext r 0 < (sigOf s n).next)) = true)) ∧
    (∃ (s : State) (i : Nat) (k : ReadCheck), alive s ∧ (icnOf s i).on = true ∧ ((islGroups s.cfg.active i).all (fun g => isSealed s g (icnOf s i).next) = true)) :=
  ⟨⟨{ up (sIm 0#32 0#32 [⟨secOSC_SIGNAL, [[0x80000000#32, 0#32]]⟩]) with aln := { grps := [(0, { st := 2, nextSeal := 6000000 })] } }, 0, {}, by decide +kernel⟩,
   ⟨{ up (sIm 0#32 0#32 [⟨secOSC_SIGNAL, [[0x80000000#32, 0#32]]⟩]) with aln := { grps := [(0, { st := 2 })] } }, 0, {}, by decide +kernel⟩,
   ⟨{ up (sIm 0#32 0#32 [⟨secOSC_MODE, [[0x80000000#32]]⟩]) with aln := { grps := [(0, { st := 2, nextSeal := 6000000 })] } }, 0, {}, by decide +kernel⟩,
   ⟨{ up (sIm 0#32 0#32 []) with aln := { grps := [(0, { st := 2, nextSeal := 6000000 })] }, isl := { icns := [(0, { on := true })] } }, 0, {}, by decide +kernel⟩⟩

set_option maxRecDepth 100000 in
theorem witness_ScansReadAndRunInOrder :
    (∃ (s : State) (k : Nat) (tr : Trig) (rest : List Trig) (c : ReadCheck), alive s ∧ (taskOf s k).snap = none ∧ (taskOf s k).queue = tr :: rest ∧ tr.t + (if hasSameInst s k tr then 8 else 0) ≤ s.tb.tick) ∧
    (∃ (s : State) (k : Nat) (tr : Trig) (rest : List Trig) (c : ReadCheck), alive s ∧ (taskOf s k).snap = none ∧ (taskOf s k).queue = tr :: rest ∧ s.tb.tick < tr.t) ∧
    (∃ (s : State) (k : Nat) (q : Snap) (c : ReadCheck), alive s ∧ (taskOf s k).snap = some q) ∧
    (∃ (s : State) (k : Nat) (q : Snap), alive s ∧ nextScan s = some (k, q) ∧ ∃ (j : _) (r : _), j < 16 ∧ (taskOf s j).snap = some r ∧ r.waits = []) :=
  ⟨⟨{ s0 with sch := { tasks := [(0, { queue := [{ t := 0, ns := 0, inst := 0, seq := 0 }] })] } }, 0, _, _, {}, by decide +kernel, by decide +kernel, rfl, by decide +kernel⟩,
   ⟨{ s0 with sch := { tasks := [(0, { queue := [{ t := 9999, ns := 0, inst := 0, seq := 0 }] })] } }, 0, _, _, {}, by decide +kernel, by decide +kernel, rfl, by decide +kernel⟩,
   ⟨{ s0 with sch := { tasks := [(0, { snap := some { trig := { t := 0, ns := 0, inst := 0, seq := 0 }, s := 0 } })] } }, 0, _, {}, by decide +kernel, rfl⟩,
   ⟨{ s0 with sch := { tasks := [(0, { snap := some { trig := { t := 0, ns := 0, inst := 0, seq := 0 }, s := 0 } })] } }, 0, _, by decide +kernel, rfl, 0, _, by decide +kernel, rfl, by decide +kernel⟩⟩

set_option maxRecDepth 100000 in
theorem witness_GooseMessagesAndStations :
    (∃ (s : State) (u : State) (h : Handed) (m : GooseMsg), alive s ∧ takeHanded .goose s = some (h, u) ∧ h.frame.payload = .goose m ∧ bindGoose s.cfg.active h.frame m = none) ∧
    (∃ (s : State) (u : State) (h : Handed) (m : GooseMsg) (d : Nat), alive s ∧ takeHanded .goose s = some (h, u) ∧ h.frame.payload = .goose m ∧ bindGoose s.cfg.active h.frame m = some d ∧ (dsOf s d).credit < tps s) ∧
    (∃ (s : State) (u : State) (v : State) (h : Handed) (m : GooseMsg) (d : Nat), alive s ∧ takeHanded .goose s = some (h, u) ∧ h.frame.payload = .goose m ∧ bindGoose s.cfg.active h.frame m = some d ∧ tps s ≤ (dsOf s d).credit ∧ m.confRev = dsF s.cfg.active d 7 31 0 ∧ m.ndsCom = false ∧ m.numEnt = dsF s.cfg.active d 8 13 4 ∧ m.ents.map (·.dtype) = dsTypes s.cfg.active d ∧ (m.sim = false ∨ imBit s.cfg.active secSCH_DATASET d 0 28 = true) ∧ (gooseAuth d m (modDs d (fun r => { r with credit := r.credit - tps s }) u) = (v, true)) ∧ ((dsOf s d).arr = none ∨ m.stNum ≠ (dsOf s d).lastSt ∨ 0 < sint 32 ((m.sqNum - (dsOf s d).lastSq).toNat))) ∧
    (∃ (s : State) (n : Nat), s.hp.length = 4 ∧ alive s ∧ stnValid s.cfg.active n ∧ (stnOf s n).st = 1 ∧ ((stnDss s.cfg.active n).any (fun d => !dsLive s d) = true)) :=
  ⟨⟨got (s0) .goose 0 0 (.goose { appid := 0, gocbRef := [], stNum := 1#32, sqNum := 0#32, tal := 1000, confRev := 0, numEnt := 0, ents := [] }), _, _, _, by decide +kernel, rfl, rfl, by decide +kernel⟩,
   ⟨got (up (im [] [⟨secSCH_DATASET, [[0x80000000#32, 0x0180C200#32, 0x00010000#32, 0#32, 0#32, 1#32, 0#32, 0#32, 0#32]]⟩])) .goose 0 0 (.goose { appid := 0, gocbRef := [], stNum := 1#32, sqNum := 0#32, tal := 1000, confRev := 0, numEnt := 0, ents := [] }), _, _, _, 0, by decide +kernel, rfl, rfl, rfl, by decide +kernel⟩,
   ⟨got ({ up (im [] [⟨secSCH_DATASET, [[0x80000000#32, 0x0180C200#32, 0x00010000#32, 0#32, 0#32, 1#32, 0#32, 0#32, 0#32]]⟩]) with sch := { dss := [(0, { credit := 100000 })] } }) .goose 0 0 (.goose { appid := 0, gocbRef := [], stNum := 1#32, sqNum := 0#32, tal := 1000, confRev := 0, numEnt := 0, ents := [] }), _, _, _, _, 0, by decide +kernel, rfl, rfl, rfl, all3 (by decide +kernel) (all3 (by decide +kernel) ⟨rfl, by decide +kernel⟩)⟩,
   ⟨{ up (im [] [⟨secSCH_STATION, [[0x80800000#32]]⟩]) with sch := { stns := [(0, { st := 1 })] } }, 0, by decide +kernel⟩⟩

set_option maxRecDepth 100000 in
theorem witness_CaptureRecordersStepThroughTheirSamples :
    (∃ (s : State) (r : Nat) (c : ReadCheck), alive s ∧ recValid s.cfg.active r ∧ (capRecOf s r).started = true ∧ sampFinal s r (capRecOf s r).next = true) ∧
    (∃ (s : State) (r : Nat) (c : ReadCheck), alive s ∧ recValid s.cfg.active r ∧ (capRecOf s r).started = true ∧ sampFinal s r (capRecOf s r).next = false) ∧
    (∃ (s : State) (r : Nat), alive s ∧ (capRecOf s r).st = 3 ∧ (capRecOf s r).rearmEnd ≤ s.tb.tick) ∧
    (∃ (s : State) (r : Nat), alive s ∧ s.tb.tick < (capRecOf s r).rearmEnd) :=
  ⟨⟨{ up (sIm 0#32 0#32 [⟨secCAP_REC, [[0x81000000#32]]⟩]) with aln := { grps := [(0, { st := 2, nextSeal := 6000000 })] }, cap := { recs := [(0, { started := true })] } }, 0, {}, by decide +kernel⟩,
   ⟨{ up (sIm 0#32 0#32 [⟨secCAP_REC, [[0x81000000#32]]⟩]) with aln := { grps := [(0, { st := 2 })] }, cap := { recs := [(0, { started := true })] } }, 0, {}, by decide +kernel⟩,
   ⟨{ up (sIm 0#32 0#32 [⟨secCAP_REC, [[0x81000000#32]]⟩]) with aln := { grps := [(0, { st := 2, nextSeal := 6000000 })] }, cap := { recs := [(0, { st := 3 })] } }, 0, by decide +kernel⟩,
   ⟨{ up (sIm 0#32 0#32 [⟨secCAP_REC, [[0x81000000#32]]⟩]) with aln := { grps := [(0, { st := 2, nextSeal := 6000000 })] }, cap := { recs := [(0, { rearmEnd := 9999 })] } }, 0, by decide +kernel⟩⟩

set_option maxRecDepth 100000 in
theorem witness_CaptureControlActsOnOneRecorder :
    (∃ (s : State) (n : Nat) (r : Nat), alive s ∧ validFn s n ∧ Nat.testBit (recMask s.cfg.active r) n ∧ recSet s.cfg.active r = false) ∧
    (∃ (s : State) (n : Nat) (k : Nat) (x : CapTake), alive s ∧ validFn s n ∧ takeOf s k = some x ∧ Nat.testBit (recMask s.cfg.active x.rcd) n ∧ x.closed = true ∧ takeReading s k = false) ∧
    (∃ (s : State) (n : Nat) (x : Nat) (key : Nat), alive s ∧ validFn s n ∧ key ≠ 0xCA57) :=
  ⟨⟨{ up (sIm 0#32 0#32 [⟨secCAP_REC, [[0x81000000#32]]⟩]) with aln := { grps := [(0, { st := 2, nextSeal := 6000000 })] }, cap := { recs := [(0, {  })] } }, 0, 0, by decide +kernel⟩,
   ⟨{ up (sIm 0#32 0#32 [⟨secCAP_REC, [[0x81000000#32]]⟩]) with aln := { grps := [(0, { st := 2, nextSeal := 6000000 })] }, cap := { takes := [(0, { no := 1, rcd := 0, blocks := 1, closed := true, trig := 0, pre := 0, preCfg := 0, postCfg := 0, vintage := 0, tq := 0 })] } }, 0, 0, _, by decide +kernel, by decide +kernel, rfl, by decide +kernel⟩,
   ⟨s0, 0, 0, 0, by decide +kernel⟩⟩

set_option maxRecDepth 100000 in
theorem witness_TheCaptureSetIsArmedAndDisarmed :
    (∃ (s : State) (n : Nat), alive s ∧ imgLoad s n ∧ xtMaster s) ∧
    (∃ (s : State), alive s ∧ xtMaster s ∧ s.cap.armed = true ∧ s.cap.lastArm + xtSpan s / 2 * 1024 ≤ s.tb.tick) ∧
    (∃ (s : State), alive s ∧ s.cap.armed = true ∧ s.cap.armEnd ≤ s.tb.tick) ∧
    (∃ (s : State) (u : State) (h : Handed) (hdr : IpHdr) (b : List Byte) (o : Bool), alive s ∧ takeHanded .cross s = some (h, u) ∧ h.frame.payload = .ip hdr b o ∧ b.length ≠ 64) ∧
    (∃ (s : State) (u : State) (h : Handed) (hdr : IpHdr) (b : List Byte) (o : Bool), alive s ∧ takeHanded .cross s = some (h, u) ∧ h.frame.payload = .ip hdr b o ∧ b.length = 64 ∧ tsOk b 0x14 = true ∧ beAt b 2 2 = 64 ∧ beAt b 0 2 = 0x0A11 ∧ xtOn s ∧ beAt b 4 4 = (imgReg s.cfg.active (CAP + 0x14)).toNat ∧ beAt b 0xC 2 ≠ fld (xtCfg s) 21 16 ∧ beAt b 0xC 2 = fld (xtCfg s) 29 24 ∧ bit (xtCfg s) 30 = false ∧ fget? s.cap.xtLast (beAt b 0xC 2) = none) :=
  ⟨⟨up (im [rg 0xB0010 0x80000000] []), 0, by decide +kernel⟩,
   ⟨{ up (im [rg 0xB0010 0x80000000] []) with cap := { armed := true }, tb := { tick := 99999999, started := true, state := .locked, src := 1, grid := 5120000, now := 100000000000 } }, by decide +kernel⟩,
   ⟨{ up (im [rg 0xB0010 0x80000000] []) with cap := { armed := true } }, by decide +kernel⟩,
   ⟨got (up (im [] [])) .cross 0 0 (udp []), _, _, _, _, _, by decide +kernel, rfl, rfl, by decide +kernel⟩,
   ⟨got (up (im [rg 0xB0010 0x81000000] [])) .cross 0 0 (udp ([0x0A#8, 0x11#8, 0#8, 64#8] ++ List.replicate 9 0#8 ++ [1#8] ++ List.replicate 50 0#8)), _, _, _, _, _, by decide +kernel, rfl, rfl, by decide +kernel⟩⟩

set_option maxRecDepth 100000 in
theorem witness_MeteringCyclesAndRecords :
    (∃ (s : State) (p : Nat) (y : Nat) (im : Image), alive s ∧ (ptValid s.cfg.active p = true ∨ (mtrOf s p).old.isSome = true) ∧ hasTime s ∧ (mtrOf s p).next = some y ∧ im = ptIm s p y ∧ mtrFinal im s p ((y + 1) * cycLen im s p - 1) = true) ∧
    (∃ (s : State) (p : Nat) (y : Nat), alive s ∧ (mtrOf s p).next = some y ∧ mtrFinal (ptIm s p y) s p ((y + 1) * cycLen (ptIm s p y) s p - 1) = false) ∧
    (∃ (s : State) (b : BillBody) (rest : List BillBody), alive s ∧ s.nv.bodies = b :: rest) ∧
    (∃ (s : State) (k : Nat) (ns : Nat), alive s ∧ imBit s.cfg.active secMTR_PULSE k 0 31 ∧ 0 < (poOf s k).backlog ∧ 0 < (poOf s k).delta ∧ (poOf s k).due ≤ ns) ∧
    (∃ (s : State) (k : Nat) (ns : Nat), alive s ∧ ((poOf s k).backlog = 0 ∨ (poOf s k).delta = 0 ∨ ns < (poOf s k).due)) ∧
    (∃ (s : State) (n : Nat), s.hp.length = 4 ∧ alive s ∧ validFn s n) ∧
    (∃ (s : State) (n : Nat), alive s ∧ mtrAdmin s n ∧ s.nv.pend = []) ∧
    (∃ (s : State) (n : Nat) (key : Nat), alive s ∧ validFn s n ∧ key ≠ 0x4D7E) :=
  ⟨⟨{ up (im [] [⟨secMTR_POINT, [[0x80000000#32]]⟩]) with mtr := { pts := [(0, { next := some 1 })] }, svf := { slots := [(0, { ys := [{ a := 9999999 }] })] } }, 0, 1, _, all3 (by decide +kernel) ⟨rfl, rfl, by decide +kernel⟩⟩,
   ⟨{ up (im [] [⟨secMTR_POINT, [[0x80000000#32]]⟩]) with mtr := { pts := [(0, { next := some 1 })] }, svf := { slots := [(0, { ys := [{ a := 0 }] })] } }, 0, 1, by decide +kernel, rfl, by decide +kernel⟩,
   ⟨{ s0 with nv := { bodies := [{ typ := 0, point := 0, tq := 0, vintage := 0, ts := 0, ts2 := 0, meterId := [], body := [] }] } }, _, _, by decide +kernel, rfl⟩,
   ⟨{ up (im [] [⟨secMTR_PULSE, [[0x80000000#32]]⟩]) with mtr := { pos := [(0, { backlog := 1, delta := 1 })] } }, 0, 5, by decide +kernel⟩,
   ⟨s0, 0, 0, by decide +kernel⟩,
   ⟨s0, 0, by decide +kernel⟩,
   ⟨s0, 0, by decide +kernel⟩,
   ⟨s0, 0, 0, by decide +kernel⟩⟩

set_option maxRecDepth 100000 in
theorem witness_OutputFramesAreAssembledOnceDue :
    (∃ (s : State) (n : Nat) (k : FrameCheck) (d : FrameDue) (rest : List FrameDue), alive s ∧ (takeFirst (fun d => d.os == n) s.pub.due = some (d, rest)) ∧ (osKind s.cfg.active n = 3 ∨ lowerDue s d = false) ∧ osSends s n d.inst = false) ∧
    (∃ (s : State) (n : Nat) (k : FrameCheck) (d : FrameDue) (rest : List FrameDue), alive s ∧ (takeFirst (fun d => d.os == n) s.pub.due = some (d, rest)) ∧ (osKind s.cfg.active n = 3 ∨ lowerDue s d = false) ∧ (osSends s n d.inst = true ∧ osControl s.cfg.active n = true ∧ authority s = false)) ∧
    (∃ (s : State) (n : Nat) (k : FrameCheck) (d : FrameDue) (rest : List FrameDue) (body : List Byte), alive s ∧ (takeFirst (fun d => d.os == n) s.pub.due = some (d, rest)) ∧ (osKind s.cfg.active n = 3 ∨ lowerDue s d = false) ∧ (osControl s.cfg.active n = false ∨ authority s = true) ∧ osSends s n d.inst = true ∧ k.setRes = 0 ∧ k.frameRes = 0 ∧ ((osKind s.cfg.active n = 0 ∧ ∃ x, setOf s (osGroup s.cfg.active n) d.inst = some x ∧ body = dataBody s n d.inst x) ∨ (osKind s.cfg.active n = 2 ∧ body = alarmBody s n d.inst (closeBits s n d.held)) ∨ (osKind s.cfg.active n = 3 ∧ body = alarmBody s n d.inst [d.bit]))) ∧
    (∃ (s : State) (n : Nat) (k : FrameCheck) (d : FrameDue) (rest : List FrameDue) (x : ASet), alive s ∧ (takeFirst (fun d => d.os == n) s.pub.due = some (d, rest)) ∧ osKind s.cfg.active n = 1 ∧ lowerDue s d = false ∧ (osControl s.cfg.active n = false ∨ authority s = true) ∧ osSends s n d.inst = true ∧ imBit s.cfg.active secOUT_STREAM n 10 13 = false ∧ k.setRes = 0 ∧ k.frameRes = 0 ∧ setOf s (osGroup s.cfg.active n) d.inst = some x) ∧
    (∃ (s : State) (n : Nat) (k : FrameCheck) (d : FrameDue) (rest : List FrameDue), alive s ∧ (takeFirst (fun d => d.os == n) s.pub.due = some (d, rest)) ∧ osKind s.cfg.active n ≠ 3 ∧ lowerDue s d = true) ∧
    (∃ (s : State) (n : Nat) (at_ : Nat) (im : Image), alive s ∧ s.cfg.sched = some at_ ∧ s.cfg.staged = some im ∧ hasTime s ∧ at_ * 1000000000 ≤ s.tb.now + 60000000000 ∧ (osOf s n).cfgPend = false ∧ cfgChanges s.cfg.active im n) :=
  ⟨⟨{ up (im [] [⟨secOUT_STREAM, [[0x80000000#32]]⟩]) with pub := { due := [{ os := 0, inst := 5120000 }] } }, 0, {}, _, _, by decide +kernel, rfl, by decide +kernel⟩,
   ⟨{ up (im [] [⟨secOUT_STREAM, [[0xA0000000#32]]⟩]) with pub := { due := [{ os := 0, inst := 5120000 }], os := [(0, { on := true })] }, cfg := { active := { im [rg 0x110000 0x40000000] [⟨secOUT_STREAM, [[0xA0000000#32]]⟩] with paired := true }, src := 1 } }, 0, {}, _, _, by decide +kernel, rfl, by decide +kernel⟩,
   ⟨{ up (im [] [⟨secOUT_STREAM, [[0xA0000000#32]]⟩]) with pub := { due := [{ os := 0, inst := 5120000 }], os := [(0, { on := true })] } }, 0, {}, { os := 0, inst := 5120000 }, [], _, by decide +kernel, rfl, all3 (by decide +kernel) ⟨by decide +kernel, by decide +kernel, .inr (.inl ⟨by decide +kernel, rfl⟩)⟩⟩,
   ⟨{ up (im [] [⟨secOUT_STREAM, [[0x90000000#32]]⟩]) with pub := { due := [{ os := 0, inst := 5120000 }], os := [(0, { on := true })] }, aln := { sets := [{ group := 0, seq := 0, inst := 5120000, vintage := 0, tq := 0, blocks := [] }] } }, 0, {}, { os := 0, inst := 5120000 }, [], _, by decide +kernel, rfl, all3 (by decide +kernel) (all3 (by decide +kernel) ⟨by decide +kernel, rfl⟩)⟩,
   ⟨{ up (im [] [⟨secOUT_STREAM, [[0x80000000#32], [0x80000000#32]]⟩]) with pub := { due := [{ os := 1, inst := 5120000 }, { os := 0, inst := 5120000 }] } }, 1, {}, _, _, by decide +kernel, rfl, by decide +kernel⟩,
   ⟨{ up (im [] [⟨secOUT_STREAM, [[0x80000000#32]]⟩]) with cfg := { active := im [] [⟨secOUT_STREAM, [[0x80000000#32]]⟩], sched := some 101, staged := some (im [] [⟨secOUT_STREAM, [[0x80000001#32]]⟩]) } }, 0, 101, _, by decide +kernel, rfl, rfl, by decide +kernel⟩⟩

set_option maxRecDepth 100000 in
theorem witness_CommandsToOutputStreams :
    (∃ (s : State) (u : State) (n : Nat) (h : IpHdr) (bs : List Byte) (b : Bool) (t : State), alive s ∧ ((b = false ∧ takeCmd (· == 1) s = some (n, h, bs, u) ∧ t = setOn n h false (cmdUsed n u)) ∨ (b = true ∧ takeCmd (· == 2) s = some (n, h, bs, u) ∧ t = setOn n h true (cmdUsed n u))) ∧ b = false) ∧
    (∃ (s : State) (u : State) (n : Nat) (h : IpHdr) (bs : List Byte) (b : Bool) (t : State), alive s ∧ ((b = false ∧ takeCmd (· == 1) s = some (n, h, bs, u) ∧ t = setOn n h false (cmdUsed n u)) ∨ (b = true ∧ takeCmd (· == 2) s = some (n, h, bs, u) ∧ t = setOn n h true (cmdUsed n u))) ∧ b = true) ∧
    (∃ (s : State) (u : State) (n : Nat) (h : IpHdr) (bs : List Byte) (b : Bool) (t : State), alive s ∧ ((b = false ∧ takeCmd (· == 1) s = some (n, h, bs, u) ∧ t = setOn n h false (cmdUsed n u)) ∨ (b = true ∧ takeCmd (· == 2) s = some (n, h, bs, u) ∧ t = setOn n h true (cmdUsed n u))) ∧ osTcp s.cfg.active n = false) ∧
    (∃ (s : State) (u : State) (n : Nat) (h : IpHdr) (bs : List Byte) (b : Bool) (t : State), alive s ∧ ((b = false ∧ takeCmd (· == 1) s = some (n, h, bs, u) ∧ t = setOn n h false (cmdUsed n u)) ∨ (b = true ∧ takeCmd (· == 2) s = some (n, h, bs, u) ∧ t = setOn n h true (cmdUsed n u))) ∧ osTcp s.cfg.active n = true) ∧
    (∃ (s : State) (u : State) (n : Nat) (h : IpHdr) (bs : List Byte) (b : Bool) (t : State), alive s ∧ ((b = false ∧ takeCmd (· == 1) s = some (n, h, bs, u) ∧ t = setOn n h false (cmdUsed n u)) ∨ (b = true ∧ takeCmd (· == 2) s = some (n, h, bs, u) ∧ t = setOn n h true (cmdUsed n u))) ∧ ∃ (m : _), m ≠ n) ∧
    (∃ (s : State) (u : State) (n : Nat) (h : IpHdr) (bs : List Byte) (full : Bool), alive s ∧ takeCmd (· == 3) s = some (n, h, bs, u)) ∧
    (∃ (s : State) (u : State) (n : Nat) (h : IpHdr) (bs : List Byte) (full : Bool), alive s ∧ takeCmd (· == 4) s = some (n, h, bs, u)) ∧
    (∃ (s : State) (u : State) (n : Nat) (h : IpHdr) (bs : List Byte) (full : Bool), alive s ∧ takeCmd (· == 5) s = some (n, h, bs, u)) ∧
    (∃ (s : State) (u : State) (n : Nat) (h : IpHdr) (bs : List Byte) (full : Bool), alive s ∧ takeCmd (· == 6) s = some (n, h, bs, u)) ∧
    (∃ (s : State) (u : State) (n : Nat) (h : IpHdr) (bs : List Byte), s.hp.length = 4 ∧ alive s ∧ takeCmd (· == 0) s = some (n, h, bs, u)) :=
  ⟨⟨got (up (im [] [⟨secOUT_STREAM, [[0x81000000#32]]⟩])) .outCmd 0 0 (udp (c37 4 [0#8, 1#8])), _, _, _, _, false, _, by decide +kernel, .inl ⟨rfl, rfl, rfl⟩, rfl⟩,
   ⟨got (up (im [] [⟨secOUT_STREAM, [[0x81000000#32]]⟩])) .outCmd 0 0 (udp (c37 4 [0#8, 2#8])), _, _, _, _, true, _, by decide +kernel, .inr ⟨rfl, rfl, rfl⟩, rfl⟩,
   ⟨got (up (im [] [⟨secOUT_STREAM, [[0x81000000#32]]⟩])) .outCmd 0 0 (udp (c37 4 [0#8, 1#8])), _, 0, _, _, false, _, by decide +kernel, .inl ⟨rfl, rfl, rfl⟩, by decide +kernel⟩,
   ⟨got ({ up (im [] [⟨secOUT_STREAM, [[0x88000000#32]]⟩]) with pub := { os := [(0, { clients := [{ addr := 1, port := 3, eport := 0 }] })] } }) .outCmd 0 0 (.ip { src := 1, dst := 2, sport := 3, dport := 0x1234, tcp := true } (c37 4 [0#8, 1#8]) false), _, 0, _, _, false, _, by decide +kernel, .inl ⟨rfl, rfl, rfl⟩, by decide +kernel⟩,
   ⟨got (up (im [] [⟨secOUT_STREAM, [[0x81000000#32]]⟩])) .outCmd 0 0 (udp (c37 4 [0#8, 1#8])), _, 0, _, _, false, _, by decide +kernel, .inl ⟨rfl, rfl, rfl⟩, 1, by decide +kernel⟩,
   ⟨got (up (im [] [⟨secOUT_STREAM, [[0x81000000#32]]⟩])) .outCmd 0 0 (udp (c37 4 [0#8, 3#8])), _, _, _, _, false, by decide +kernel, rfl⟩,
   ⟨got (up (im [] [⟨secOUT_STREAM, [[0x81000000#32]]⟩])) .outCmd 0 0 (udp (c37 4 [0#8, 4#8])), _, _, _, _, false, by decide +kernel, rfl⟩,
   ⟨got (up (im [] [⟨secOUT_STREAM, [[0x81000000#32]]⟩])) .outCmd 0 0 (udp (c37 4 [0#8, 5#8])), _, _, _, _, false, by decide +kernel, rfl⟩,
   ⟨got (up (im [] [⟨secOUT_STREAM, [[0x81000000#32]]⟩])) .outCmd 0 0 (udp (c37 4 [0#8, 6#8])), _, _, _, _, false, by decide +kernel, rfl⟩,
   ⟨got (up (im [] [⟨secOUT_STREAM, [[0x81000000#32]]⟩])) .outCmd 0 0 (udp (c37 4 [0#8, 9#8])), _, _, _, _, by decide +kernel, by decide +kernel, rfl⟩⟩

set_option maxRecDepth 100000 in
theorem witness_ClientsRepeatsAndHardwiredOutputs :
    (∃ (s : State) (n : Nat) (a : Nat) (p : Nat) (e : Nat), alive s ∧ osValid s.cfg.active n ∧ osTcp s.cfg.active n ∧ (osOf s n).clients.length < 4 ∧ ((osOf s n).clients.any (fun c => c.addr == a && c.port == p) = false)) ∧
    (∃ (s : State) (n : Nat) (a : Nat) (p : Nat), alive s ∧ ((osOf s n).clients.any (fun c => c.addr == a && c.port == p) = true)) ∧
    (∃ (s : State) (n : Nat) (res : Nat), alive s ∧ imBit s.cfg.active secGOOSE n 0 31 ∧ (gpOf s n).active = true ∧ (gpOf s n).next ≤ s.tb.tick ∧ (gpControl s.cfg.active n = false ∨ authority s = true)) ∧
    (∃ (s : State) (n : Nat), alive s ∧ (doOf s n).st = 1 ∧ (doOf s n).fallHeld = true ∧ (doOf s n).lastRise + imFld s.cfg.active secDO n 1 31 16 ≤ s.tb.tick) ∧
    (∃ (s : State) (n : Nat), alive s ∧ (doOf s n).st = 2 ∧ (doOf s n).holdEnd ≤ s.tb.tick) :=
  ⟨⟨{ up (im [] [⟨secOUT_STREAM, [[0x88000000#32]]⟩]) with pub := {} }, 0, 1, 2, 3, by decide +kernel⟩,
   ⟨{ up (im [] [⟨secOUT_STREAM, [[0x88000000#32]]⟩]) with pub := { os := [(0, { clients := [{ addr := 1, port := 2, eport := 3 }] })] } }, 0, 1, 2, by decide +kernel⟩,
   ⟨{ up (im [] [⟨secGOOSE, [[0x80000000#32]]⟩]) with pub := { gps := [(0, { active := true })] } }, 0, 0, by decide +kernel⟩,
   ⟨{ s0 with pub := { dos := [(0, { st := 1, fallHeld := true })] } }, 0, by decide +kernel⟩,
   ⟨{ s0 with pub := { dos := [(0, { st := 2 })] } }, 0, by decide +kernel⟩⟩

set_option maxRecDepth 100000 in
theorem witness_WorkItemsAreDispatchedAndReleased :
    (∃ (s : State) (e : Nat) (i : TskItem), nextItem s e = some i ∧ 4 ≤ i.level) ∧
    (∃ (s : State) (e : Nat) (i : TskItem), nextItem s e = some i ∧ i.level < 4) ∧
    (∃ (s : State) (e : Nat) (u : Nat) (x : TskIn) (i : TskItem), alive s ∧ u < engineUnits e ∧ nextItem (admitAll x s) e = some i ∧ unitBusy (admitAll x s) e u = false ∧ (∀ a ∈ (admitAll x s).tsk.items, ∀ b ∈ (admitAll x s).tsk.items, a.flow = b.flow → a.adm = b.adm → a = b)) ∧
    (∃ (s : State) (f : Nat) (adm : Nat) (next : Option Nat) (i : TskItem) (x : TskItem), alive s ∧ s.tsk.stalled = [] ∧ (s.tsk.items.find? (fun i => i.flow == f && i.adm == adm && i.st == 2) = some i) ∧ (oldest (s.tsk.items.filter (fun i => i.flow == f)) = some x) ∧ x.adm ≠ adm ∧ x.st ≠ 3 ∧ x.st ≠ 4) ∧
    (∃ (s : State) (f : Nat) (i : TskItem), alive s ∧ s.tsk.stalled = [] ∧ (s.tsk.items.filter (fun i => i.flow == f) = [i]) ∧ i.st = 2) ∧
    (∃ (s : State) (f : Nat) (g : Nat) (i : TskItem), alive s ∧ s.tsk.stalled = [] ∧ (s.tsk.items.filter (fun i => i.flow == f) = [i]) ∧ i.st = 2 ∧ levelRoom s g i.adm = true) :=
  ⟨⟨{ s0 with tsk := { items := [{ flow := 0, adm := 1, start := 0, level := 7, engine := 0, deadline := none }] } }, 0, _, rfl, by decide +kernel⟩,
   ⟨{ s0 with tsk := { items := [{ flow := 0, adm := 1, start := 0, level := 0, engine := 0, deadline := some 5 }] } }, 0, _, rfl, by decide +kernel⟩,
   ⟨{ s0 with tsk := { items := [{ flow := 0, adm := 1, start := 0, level := 7, engine := 0, deadline := none }] } }, 0, 0, {}, { flow := 0, adm := 1, start := 0, level := 7, engine := 0, deadline := none }, by decide +kernel⟩,
   ⟨{ s0 with tsk := { items := [{ flow := 0, adm := 1, start := 0, level := 7, engine := 0, deadline := none, st := 2 }, { flow := 0, adm := 0, start := 0, level := 7, engine := 0, deadline := none }] } }, 0, 1, none, _, _, by decide +kernel, by decide +kernel, rfl, rfl, by decide +kernel⟩,
   ⟨{ s0 with tsk := { items := [{ flow := 0, adm := 1, start := 0, level := 7, engine := 0, deadline := none, st := 2 }] } }, 0, _, by decide +kernel, by decide +kernel, rfl, by decide +kernel⟩,
   ⟨{ s0 with tsk := { items := [{ flow := 0, adm := 1, start := 0, level := 7, engine := 0, deadline := none, st := 2 }] } }, 0, 0, _, by decide +kernel, by decide +kernel, rfl, by decide +kernel⟩⟩

set_option maxRecDepth 100000 in
theorem witness_SchedulerControl :
    (∃ (s : State) (n : Nat), alive s ∧ imgLoad s n ∧ (authority s = false ∨ hasControl s.cfg.active = false)) ∧
    (∃ (s : State) (n : Nat), alive s ∧ imgLoad s n ∧ (authority s = true ∧ hasControl s.cfg.active = true)) ∧
    (∃ (s : State) (n : Nat), alive s ∧ imgLoad s n ∧ hasTime s) ∧
    (∃ (s : State) (n : Nat) (l : Nat) (f : Nat), alive s ∧ imgLoad s n ∧ f = fld (fnReg s n (TSK + 0x20)) 13 0 ∧ 4 ≤ l ∧ l ≤ 7) ∧
    (∃ (s : State) (n : Nat) (l : Nat) (key : Nat), s.hp.length = 4 ∧ alive s ∧ validFn s n ∧ key ≠ 0x75C3) :=
  ⟨⟨{ up (im [] []) with cfg := { active := { im [rg 0x110000 0x40000000] [] with paired := true }, src := 1 } }, 0, by decide +kernel⟩,
   ⟨up (im [] [⟨secDO, [[0x80000000#32]]⟩]), 0, by decide +kernel⟩,
   ⟨s0, 0, by decide +kernel⟩,
   ⟨s0, 0, 4, 0, by decide +kernel⟩,
   ⟨s0, 0, 0, 0, by decide +kernel⟩⟩

set_option maxRecDepth 100000 in
theorem witness_TheArbiterGrantsEveryFreeResource :
    (∃ (s : State) (r : Nat) (x : ArbReq) (tie : Bool), arbWinner s r = some (x, tie)) ∧
    (∃ (s : State) (r : Nat) (x : ArbReq) (tie : Bool), alive s ∧ r < 47 ∧ egress r = false ∧ (resOf s r).owner = none ∧ arbWinner s r = some (x, tie)) ∧
    (∃ (s : State) (done : List Nat) (reqs : List ArbIn), alive s) ∧
    (∃ (s : State) (r : Nat) (rq : Nat) (n : Nat), s.hp.length = 4 ∧ alive s ∧ (resOf s r).owner = some (rq, true, n) ∧ 33 ≤ n) ∧
    (∃ (s : State) (r : Nat) (rq : Nat) (n : Nat), s.hp.length = 4 ∧ alive s ∧ (resOf s r).owner = some (rq, true, n) ∧ n < 33) ∧
    (∃ (s : State) (rq : Nat) (r : Nat) (lst : BitVec 16), alive s ∧ (∃ x ∈ s.arb.reqs, x.rq = rq ∧ x.res = r)) ∧
    (∃ (s : State) (rq : Nat) (r : Nat) (lst : BitVec 16), alive s ∧ (∀ x ∈ s.arb.reqs, ¬(x.rq = rq ∧ x.res = r))) :=
  ⟨⟨{ s0 with arb := { reqs := [{ rq := 3, res := 0, lst := 0#16, lock := false, nodl := false }] } }, 0, _, _, rfl⟩,
   ⟨{ s0 with arb := { reqs := [{ rq := 3, res := 0, lst := 0#16, lock := false, nodl := false }] } }, 0, _, _, all3 (by decide +kernel) ⟨by decide +kernel, rfl⟩⟩,
   ⟨s0, [], [], by decide +kernel⟩,
   ⟨{ s0 with arb := { res := [(0, { owner := some (3, true, 40) })] } }, 0, 3, 40, by decide +kernel, by decide +kernel, rfl, by decide +kernel⟩,
   ⟨{ s0 with arb := { res := [(0, { owner := some (3, true, 4) })] } }, 0, 3, 4, by decide +kernel, by decide +kernel, rfl, by decide +kernel⟩,
   ⟨{ s0 with arb := { reqs := [{ rq := 3, res := 0, lst := 0#16, lock := false, nodl := false }] } }, 3, 0, 5#16, by decide +kernel⟩,
   ⟨s0, 3, 0, 5#16, by decide +kernel⟩⟩

set_option maxRecDepth 100000 in
theorem witness_StagingAndSlots :
    (∃ (s : State) (n : Nat), alive s ∧ imgLoad s n ∧ cfgBusy s = false ∧ s.cfg.sched = none) ∧
    (∃ (s : State) (k : Nat), s.hp.length = 4 ∧ alive s ∧ s.cfg.staging = some k) ∧
    (∃ (s : State) (n : Nat) (k : Nat), alive s ∧ imgLoad s n ∧ cfgBusy s = false ∧ k % 2 ≠ s.cfg.boot ∧ s.cfg.staged.isSome ∧ s.cfg.stagedRaw ≠ []) ∧
    (∃ (s : State) (k : Nat), alive s ∧ s.cfg.writing = some k) ∧
    (∃ (s : State) (n : Nat) (k : Nat), alive s ∧ imgLoad s n ∧ (slotN s (k % 2)).state = 1) ∧
    (∃ (s : State) (n : Nat) (k : Nat), alive s ∧ imgLoad s n ∧ (slotN s (k % 2)).state ≠ 1) ∧
    (∃ (s : State) (n : Nat), alive s ∧ imgLoad s n ∧ s.cfg.staged.isSome ∧ s.cfg.sched = none) :=
  ⟨⟨s0, 0, by decide +kernel⟩,
   ⟨{ s0 with cfg := { s0.cfg with staging := some 3 } }, 3, by decide +kernel, by decide +kernel, rfl⟩,
   ⟨{ s0 with cfg := { s0.cfg with staged := some {}, stagedRaw := [1#8] } }, 0, 1, by decide +kernel⟩,
   ⟨{ s0 with cfg := { s0.cfg with writing := some 1 } }, 1, by decide +kernel, rfl⟩,
   ⟨{ s0 with cfg := { s0.cfg with slotB := { state := 1 } } }, 0, 1, by decide +kernel⟩,
   ⟨s0, 0, 1, by decide +kernel⟩,
   ⟨{ s0 with cfg := { s0.cfg with staged := some {} } }, 0, by decide +kernel⟩⟩

set_option maxRecDepth 100000 in
theorem witness_SchedulingAndActivation :
    (∃ (s : State) (n : Nat) (im : Image), alive s ∧ imgLoad s n ∧ s.cfg.staged = some im ∧ s.cfg.src ≠ 0 ∧ s.cfg.sched = none ∧ schedRefused s im (argSecond s n) = false) ∧
    (∃ (s : State) (n : Nat) (sec : Nat), alive s ∧ imgLoad s n ∧ s.cfg.sched = some sec ∧ s.tb.now + 1000000000 ≤ sec * 1000000000) ∧
    (∃ (s : State) (sec : Nat) (im : Image), alive s ∧ s.cfg.sched = some sec ∧ s.cfg.staged = some im ∧ hasTime s ∧ sec * tps s ≤ s.tb.grid) ∧
    (∃ (s : State) (sec : Nat), alive s ∧ s.cfg.sched = some sec ∧ s.tb.grid < sec * tps s) :=
  ⟨⟨{ s0 with cfg := { s0.cfg with staged := some {} } }, 0, _, by decide +kernel, by decide +kernel, rfl, by decide +kernel⟩,
   ⟨{ s0 with cfg := { s0.cfg with sched := some 102 } }, 0, 102, by decide +kernel, by decide +kernel, rfl, by decide +kernel⟩,
   ⟨{ s0 with cfg := { s0.cfg with sched := some 100, staged := some {} } }, 100, _, by decide +kernel, rfl, rfl, by decide +kernel⟩,
   ⟨{ s0 with cfg := { s0.cfg with sched := some 102 } }, 102, by decide +kernel, rfl, by decide +kernel⟩⟩

set_option maxRecDepth 100000 in
theorem witness_ParameterBatches :
    (∃ (s : State) (n : Nat) (v : Word), s.hp.length = 4 ∧ alive s ∧ validFn s n ∧ (batchPut (fnOf s n).batch (fld (fnReg s n (CFG + 0x50)) 13 0) v).length ≤ 256) ∧
    (∃ (s : State) (n : Nat), s.hp.length = 4 ∧ alive s ∧ validFn s n ∧ commitFault s n = none) ∧
    (∃ (s : State) (n : Nat) (r : Nat) (i : Nat), s.hp.length = 4 ∧ alive s ∧ validFn s n ∧ commitFault s n = some (r, i)) ∧
    (∃ (s : State) (b : Batch), alive s ∧ s.cfg.commits = [b] ∧ b.tick < s.tb.tick ∧ b.fn < 4) ∧
    (∃ (s : State), alive s ∧ (∀ b ∈ s.cfg.commits, s.tb.tick ≤ b.tick)) :=
  ⟨⟨s0, 0, 5#32, by decide +kernel⟩,
   ⟨fn0 (up { f0 := 50, sects := [⟨secPARTITION, [[0xE0000001#32]]⟩, ⟨secSCH_TASK, [[0x80000000#32, 8#32]]⟩, ⟨secSCH_PARAM, [[0#32]]⟩] }) { bme := true, batch := [(0, 0#32)] }, 0, by decide +kernel⟩,
   ⟨s0, 0, 30, 0, all3 (by decide +kernel) (rfl)⟩,
   ⟨{ s0 with cfg := { s0.cfg with commits := [{ fn := 0, entries := [] }] } }, { fn := 0, entries := [] }, by decide +kernel⟩,
   ⟨s0, by decide +kernel⟩⟩

set_option maxRecDepth 100000 in
theorem witness_RegisterAccesses :
    (∃ (s : State) (n : Nat) (off : Nat) (v : Word), s.hp.length = 4 ∧ alive s ∧ validFn s n ∧ isW1C off) ∧
    (∃ (s : State) (n : Nat) (off : Nat), s.hp.length = 4 ∧ alive s ∧ validFn s n ∧ isRc off) ∧
    (∃ (s : State) (n : Nat) (off : Nat) (v : Word), s.hp.length = 4 ∧ alive s ∧ validFn s n ∧ isWindow off) ∧
    (∃ (s : State) (n : Nat) (v : Word), s.hp.length = 4 ∧ alive s ∧ validFn s n) ∧
    (∃ (s : State) (n : Nat), s.hp.length = 4 ∧ alive s ∧ n < 4) :=
  ⟨⟨s0, 0, 0x10004, 1#32, by decide +kernel⟩,
   ⟨s0, 0, 0x20020, by decide +kernel⟩,
   ⟨s0, 0, 0xE0020, 0#32, by decide +kernel⟩,
   ⟨s0, 0, 0#32, by decide +kernel⟩,
   ⟨s0, 0, by decide +kernel⟩⟩

set_option maxRecDepth 100000 in
theorem witness_HostCommandsAreFetchedAndFencesWait :
    (∃ (s : State) (n : Nat) (raw : List Byte), s.hp.length = 4 ∧ alive s ∧ mastering s n ∧ bit (hif s n 0x48) 31 ∧ bit (hif s n 0x68) 31 ∧ (fnOf s n).cur = none ∧ (hif s n 0x50).toNat % ringSize (hif s n 0x48) 4 ≠ (hif s n 0x4C).toNat % ringSize (hif s n 0x48) 4 ∧ queueFull (hif s n 0x70).toNat (hif s n 0x6C).toNat (ringSize (hif s n 0x68) 4) = false) ∧
    (∃ (s : State) (n : Nat) (raw : List Byte), alive s ∧ ((fnOf s n).cur.isSome ∨ queueFull (hif s n 0x70).toNat (hif s n 0x6C).toNat (ringSize (hif s n 0x68) 4))) ∧
    (∃ (s : State) (n : Nat) (raw : List Byte), s.hp.length = 4 ∧ cmdReady s n 0x01 [] raw) ∧
    (∃ (s : State) (n : Nat) (c : Cmd), s.hp.length = 4 ∧ alive s ∧ (fnOf s n).cur = some c ∧ opUsed c.op = false ∧ mastering s n) ∧
    (∃ (s : State) (n : Nat) (c : Cmd) (data : Option (List Byte)), s.hp.length = 4 ∧ alive s ∧ cmdOf s n 0x10 = some c ∧ c.right = false) ∧
    (∃ (s : State) (n : Nat) (c : Cmd), s.hp.length = 4 ∧ alive s ∧ cmdOf s n 0x02 = some c ∧ c.right = true ∧ reservedOk c.raw [(0, 1), (2, 2), (4, 1)] ∧ leAt c.raw 4 1 ≤ 1) ∧
    (∃ (s : State) (n : Nat) (x : Fence), s.hp.length = 4 ∧ alive s ∧ (fnOf s n).cmdFence = some x ∧ fenceClear s n x = false) ∧
    (∃ (s : State) (n : Nat) (x : Fence), s.hp.length = 4 ∧ alive s ∧ (fnOf s n).cmdFence = some x ∧ fenceClear s n x = true ∧ evqOn s n ∧ evqRoom s n) ∧
    (∃ (s : State) (n : Nat) (v : Word), s.hp.length = 4 ∧ alive s ∧ validFn s n) ∧
    (∃ (s : State) (n : Nat) (x : Fence), s.hp.length = 4 ∧ alive s ∧ (fnOf s n).regFence = some x ∧ fenceClear s n x = false) ∧
    (∃ (s : State) (n : Nat) (x : Fence), s.hp.length = 4 ∧ alive s ∧ (fnOf s n).regFence = some x ∧ fenceClear s n x = true ∧ evqRoom s n) :=
  ⟨⟨fn0 s0 (regs [(0x100048, 0x80000004#32), (0x10004C, 1#32), (0x100068, 0x80000004#32)]), 0, [], by decide +kernel⟩,
   ⟨fn0 s0 (cmd 1 []), 0, [], by decide +kernel⟩,
   ⟨fn0 s0 (cmd 1 []), 0, _, by decide +kernel, ⟨by decide +kernel, _, rfl, rfl, rfl, by decide +kernel⟩⟩,
   ⟨fn0 s0 (cmd 0x99 []), 0, _, by decide +kernel, by decide +kernel, rfl, by decide +kernel⟩,
   ⟨fn0 s0 ({ cmd 0x10 [] with cur := some { op := 0x10, tag := 0, raw := [], acc := none, right := false } }), 0, _, none, by decide +kernel, by decide +kernel, rfl, by decide +kernel⟩,
   ⟨fn0 s0 (cmd 2 [2#8, 0#8, 0#8, 0#8, 1#8]), 0, _, by decide +kernel, by decide +kernel, rfl, by decide +kernel⟩,
   ⟨fn0 s0 ({ regs [] with cmdFence := some { token := 1, evGen := 5 }, evWait := [{ ev := { code := 0, blk := 0, ts := none, arg := [] }, gen := 0, born := 0 }] }), 0, _, by decide +kernel, by decide +kernel, rfl, by decide +kernel⟩,
   ⟨fn0 s0 ({ regs [(0x100088, 0x80000206#32)] with cmdFence := some { token := 1, evGen := 5 } }), 0, _, by decide +kernel, by decide +kernel, rfl, by decide +kernel⟩,
   ⟨s0, 0, 5#32, by decide +kernel⟩,
   ⟨fn0 s0 ({ regs [] with regFence := some { token := 1, evGen := 5 }, evWait := [{ ev := { code := 0, blk := 0, ts := none, arg := [] }, gen := 0, born := 0 }] }), 0, _, by decide +kernel, by decide +kernel, rfl, by decide +kernel⟩,
   ⟨fn0 s0 ({ regs [(0x100088, 0x80000206#32)] with regFence := some { token := 1, evGen := 5 } }), 0, _, by decide +kernel, by decide +kernel, rfl, by decide +kernel⟩⟩

set_option maxRecDepth 100000 in
theorem witness_HostCommandsMoveData :
    (∃ (s : State) (n : Nat) (raw : List Byte), s.hp.length = 4 ∧ memWf s.cfg.pushBuf ∧ cmdReady s n 0x10 [(8, 16)] raw ∧ leAt raw 0x10 4 % 8 = 0 ∧ lenOk (leAt raw 0x14 4) ∧ leAt raw 0x10 4 + leAt raw 0x14 4 ≤ 134217728 ∧ ∃ (bs : List Byte), cfgBusy s = false) ∧
    (∃ (s : State) (n : Nat) (raw : List Byte), s.hp.length = 4 ∧ memWf s.cfg.pushBuf ∧ cmdReady s n 0x10 [(8, 16)] raw ∧ leAt raw 0x10 4 % 8 = 0 ∧ lenOk (leAt raw 0x14 4) ∧ leAt raw 0x10 4 + leAt raw 0x14 4 ≤ 134217728 ∧ cfgBusy s = false) ∧
    (∃ (s : State) (n : Nat) (raw : List Byte), s.hp.length = 4 ∧ memWf s.cfg.pushBuf ∧ cmdReady s n 0x10 [(8, 16)] raw ∧ leAt raw 0x10 4 % 8 = 0 ∧ lenOk (leAt raw 0x14 4) ∧ leAt raw 0x10 4 + leAt raw 0x14 4 ≤ 134217728 ∧ ∃ (d : Option (List Byte)), cfgBusy s = true) ∧
    (∃ (s : State) (n : Nat) (k : Nat) (c : Cmd) (l : List (Nat × Word)), s.hp.length = 4 ∧ alive s ∧ cmdOf s n 0x11 = some c ∧ k = leAt c.raw 4 1 ∧ 1 ≤ k ∧ k ≤ 6 ∧ (reservedOk c.raw ([(0, 1), (2, 4)] ++ (List.range k).flatMap (fun i => [(8 + 8 * i, 2), (12 + 8 * i, 4)]))) ∧ (∀ e ∈ parEntries c.raw k, e.1 ≤ 16383) ∧ (l = (parEntries c.raw k).foldl (fun b e => batchPut b e.1 e.2) (fnOf s n).batch) ∧ l.length ≤ 256 ∧ leAt c.raw 5 1 = 0) ∧
    (∃ (s : State) (n : Nat) (k : Nat) (c : Cmd) (l : List (Nat × Word)), s.hp.length = 4 ∧ alive s ∧ cmdOf s n 0x11 = some c ∧ k = leAt c.raw 4 1 ∧ 1 ≤ k ∧ k ≤ 6 ∧ (reservedOk c.raw ([(0, 1), (2, 4)] ++ (List.range k).flatMap (fun i => [(8 + 8 * i, 2), (12 + 8 * i, 4)]))) ∧ (∀ e ∈ parEntries c.raw k, e.1 ≤ 16383) ∧ (l = (parEntries c.raw k).foldl (fun b e => batchPut b e.1 e.2) (fnOf s n).batch) ∧ l.length ≤ 256 ∧ leAt c.raw 5 1 = 1 ∧ (fnOf s n).batch ≠ [] ∧ (commitFault (modFn s n (fun f => { f with batch := l })) n = none)) ∧
    (∃ (s : State) (n : Nat) (raw : List Byte), s.hp.length = 4 ∧ cmdReady s n 0x20 [(4, 2), (8, 16)] raw ∧ ∃ (k : _), fget? s.cap.takes (leAt raw 4 2) = some k ∧ k.closed ∧ leAt raw 0x10 4 % 8 = 0 ∧ lenOk (leAt raw 0x14 4) ∧ leAt raw 0x10 4 < k.raw.length) ∧
    (∃ (s : State) (n : Nat) (raw : List Byte), s.hp.length = 4 ∧ cmdReady s n 0x20 [(4, 2), (8, 16)] raw ∧ fget? s.cap.takes (leAt raw 4 2) = none) ∧
    (∃ (s : State) (n : Nat) (raw : List Byte) (e : Nat × BillEnt) (l : List (Nat × BillEnt)), s.hp.length = 4 ∧ cmdReady s n 0x28 [(8, 10), (0x18, 8)] raw ∧ 1 ≤ leAt raw 0x10 2 ∧ leAt raw 0x10 2 ≤ 64 ∧ s.nv.log = e :: l) :=
  ⟨⟨fn0 s0 (cmd 0x10 ([0x10#8] ++ List.replicate 19 0#8 ++ [8#8])), 0, _, by decide +kernel, by decide +kernel, ⟨by decide +kernel, _, rfl, rfl, rfl, by decide +kernel⟩, all3 (by decide +kernel) ⟨[], by decide +kernel⟩⟩,
   ⟨fn0 s0 (cmd 0x10 ([0x10#8] ++ List.replicate 19 0#8 ++ [8#8])), 0, _, by decide +kernel, by decide +kernel, ⟨by decide +kernel, _, rfl, rfl, rfl, by decide +kernel⟩, by decide +kernel⟩,
   ⟨{ fn0 s0 (cmd 0x10 ([0x10#8] ++ List.replicate 19 0#8 ++ [8#8])) with cfg := { s0.cfg with staging := some 3 } }, 0, _, by decide +kernel, by decide +kernel, ⟨by decide +kernel, _, rfl, rfl, rfl, by decide +kernel⟩, all3 (by decide +kernel) ⟨none, by decide +kernel⟩⟩,
   ⟨fn0 s0 (cmd 0x11 [0x11#8, 0#8, 0#8, 0#8, 1#8, 0#8]), 0, 1, _, _, by decide +kernel, by decide +kernel, rfl, all3 (by decide +kernel) ⟨by decide +kernel, by decide +kernel, rfl, by decide +kernel⟩⟩,
   ⟨fn0 (up { f0 := 50, sects := [⟨secPARTITION, [[0xE0000001#32]]⟩, ⟨secSCH_TASK, [[0x80000000#32, 8#32]]⟩, ⟨secSCH_PARAM, [[0#32]]⟩] }) { cmd 0x11 [0x11#8, 0#8, 0#8, 0#8, 1#8, 1#8] with batch := [(0, 0#32)] }, 0, 1, _, _, by decide +kernel, by decide +kernel, rfl, all3 (by decide +kernel) ⟨by decide +kernel, by decide +kernel, rfl, by decide +kernel⟩⟩,
   ⟨{ up (im [] [⟨secCAP_REC, [[0x81000000#32]]⟩]) with cap := { takes := [(0, { no := 1, rcd := 0, blocks := 1, closed := true, trig := 0, pre := 0, preCfg := 0, postCfg := 0, vintage := 0, tq := 0, raw := zeros 16 })] }, hp := [cmd 0x20 ([0x20#8] ++ List.replicate 19 0#8 ++ [8#8]), {}, {}, {}] }, 0, _, by decide +kernel, ⟨by decide +kernel, _, rfl, rfl, rfl, by decide +kernel⟩, _, rfl, by decide +kernel⟩,
   ⟨fn0 s0 (cmd 0x20 [0x20#8]), 0, _, by decide +kernel, ⟨by decide +kernel, _, rfl, rfl, rfl, by decide +kernel⟩, by decide +kernel⟩,
   ⟨{ fn0 s0 (cmd 0x28 ([0x28#8] ++ List.replicate 15 0#8 ++ [1#8])) with nv := { log := [(1, { kept := true, raw := [] })] } }, 0, _, _, _, by decide +kernel, ⟨by decide +kernel, _, rfl, rfl, rfl, by decide +kernel⟩, by decide +kernel, by decide +kernel, rfl⟩⟩

set_option maxRecDepth 100000 in
theorem witness_EventsAndHarvestRecordsAreDelivered :
    (∃ (s : State) (n : Nat) (blk : Nat) (w : EvWait) (rest : List EvWait), s.hp.length = 4 ∧ alive s ∧ takeEvent s n blk = some (w, rest) ∧ evqRoom s n ∧ fenceHolds s n w = false) ∧
    (∃ (s : State) (n : Nat) (blk : Nat) (w : EvWait) (rest : List EvWait), s.hp.length = 4 ∧ alive s ∧ takeEvent s n blk = some (w, rest) ∧ (evqRoom s n = false ∨ fenceHolds s n w = true)) ∧
    (∃ (s : State) (n : Nat) (blk : Nat) (w : EvWait) (rest : List EvWait), s.hp.length = 4 ∧ alive s ∧ takeEvent s n blk = some (w, rest) ∧ evqRoom s n = false ∧ overHeld s w.born (hif s n 0x88) ∧ fgetD (fnOf s n).ctr (HIF + 0x310) 0#32 ≠ 0x7FFFFFFF#32) ∧
    (∃ (s : State) (n : Nat) (blk : Nat) (w : EvWait) (rest : List EvWait), s.hp.length = 4 ∧ alive s ∧ takeEvent s n blk = some (w, rest) ∧ (evqRoom s n = true ∨ overHeld s w.born (hif s n 0x88) = false)) ∧
    (∃ (s : State) (n : Nat) (k : Nat) (w : HrvWait) (rest : List HrvWait), s.hp.length = 4 ∧ alive s ∧ takeHrv s n k = some (w, rest) ∧ hrvRoom s n (hrvBytes (fnOf s n) w).length) ∧
    (∃ (s : State) (n : Nat) (k : Nat) (w : HrvWait) (rest : List HrvWait), s.hp.length = 4 ∧ alive s ∧ takeHrv s n k = some (w, rest) ∧ hrvRoom s n (hrvBytes (fnOf s n) w).length = false ∧ overHeld s w.born (hif s n 0xC8)) ∧
    (∃ (s : State) (n : Nat) (k : Nat) (w : HrvWait) (rest : List HrvWait), s.hp.length = 4 ∧ alive s ∧ takeHrv s n k = some (w, rest) ∧ hrvRoom s n (hrvBytes (fnOf s n) w).length = true) :=
  ⟨⟨fn0 s0 ({ regs [(0x100088, 0x80000206#32)] with evWait := [{ ev := { code := 0, blk := 0, ts := none, arg := [] }, gen := 0, born := 0 }] }), 0, 0, _, _, by decide +kernel, by decide +kernel, rfl, by decide +kernel⟩,
   ⟨fn0 s0 ({ regs [] with evWait := [{ ev := { code := 0, blk := 0, ts := none, arg := [] }, gen := 0, born := 0 }] }), 0, 0, _, _, by decide +kernel, by decide +kernel, rfl, by decide +kernel⟩,
   ⟨fn0 s0 ({ regs [] with evWait := [{ ev := { code := 0, blk := 0, ts := none, arg := [] }, gen := 0, born := 0 }] }), 0, 0, _, _, by decide +kernel, by decide +kernel, rfl, by decide +kernel⟩,
   ⟨fn0 s0 ({ regs [(0x100088, 0x80000206#32)] with evWait := [{ ev := { code := 0, blk := 0, ts := none, arg := [] }, gen := 0, born := 0 }] }), 0, 0, _, _, by decide +kernel, by decide +kernel, rfl, by decide +kernel⟩,
   ⟨fn0 s0 ({ regs [(0x1000C8, 0x80000214#32)] with hrvWait := [{ typ := 0x0A02, group := none, bytes := List.replicate 32 0#8, gen := 0, born := 0 }] }), 0, 2, _, _, by decide +kernel, by decide +kernel, rfl, by decide +kernel⟩,
   ⟨fn0 s0 ({ regs [] with hrvWait := [{ typ := 0x0A02, group := none, bytes := List.replicate 32 0#8, gen := 0, born := 0 }] }), 0, 2, _, _, by decide +kernel, by decide +kernel, rfl, by decide +kernel⟩,
   ⟨fn0 s0 ({ regs [(0x1000C8, 0x80000214#32)] with hrvWait := [{ typ := 0x0A02, group := none, bytes := List.replicate 32 0#8, gen := 0, born := 0 }] }), 0, 2, _, _, by decide +kernel, by decide +kernel, rfl, by decide +kernel⟩⟩

set_option maxRecDepth 100000 in
theorem witness_HostFramesAreReceivedAndSent :
    (∃ (s : State) (n : Nat) (r : Nat) (w : RxWait) (rest : List RxWait) (addrs : List Nat), s.hp.length = 4 ∧ alive s ∧ r < 8 ∧ takeRx s n r = some (w, rest) ∧ rxRoom s n w ∧ overHeld s w.born (fnReg s n (rxPage r + 8)) = false) ∧
    (∃ (s : State) (n : Nat) (r : Nat) (w : RxWait) (rest : List RxWait) (addrs : List Nat), s.hp.length = 4 ∧ alive s ∧ r < 8 ∧ takeRx s n r = some (w, rest) ∧ (rxRoom s n w = false ∨ overHeld s w.born (fnReg s n (rxPage r + 8)) = true)) ∧
    (∃ (s : State) (n : Nat) (r : Nat) (w : RxWait) (rest : List RxWait) (addrs : List Nat), s.hp.length = 4 ∧ alive s ∧ r < 8 ∧ takeRx s n r = some (w, rest) ∧ overHeld s w.born (fnReg s n (rxPage r + 8))) ∧
    (∃ (s : State) (n : Nat) (r : Nat) (w : RxWait) (rest : List RxWait) (addrs : List Nat), s.hp.length = 4 ∧ alive s ∧ r < 8 ∧ takeRx s n r = some (w, rest) ∧ overHeld s w.born (fnReg s n (rxPage r + 8)) = false) ∧
    (∃ (s : State) (n : Nat) (r : Nat) (d : TxDesc) (ds : List TxDesc), s.hp.length = 4 ∧ alive s ∧ r < 4 ∧ mastering s n ∧ bit (fnReg s n (txPage r + 8)) 31 ∧ descsOk (d :: ds) ∧ (d :: ds).length ≤ ((fnReg s n (txPage r + 0xC)).toNat % ringSize (fnReg s n (txPage r + 8)) 4 + ringSize (fnReg s n (txPage r + 8)) 4 - (fnReg s n (txPage r + 0x10)).toNat % ringSize (fnReg s n (txPage r + 8)) 4) % ringSize (fnReg s n (txPage r + 8)) 4 ∧ (∃ p, p < 16 ∧ Nat.testBit d.mask p = true ∧ (12 ≤ p ∨ Nat.testBit (hostPorts s n) p = false))) ∧
    (∃ (s : State) (n : Nat) (r : Nat) (d : TxDesc) (ds : List TxDesc), s.hp.length = 4 ∧ alive s ∧ r < 4 ∧ mastering s n ∧ bit (fnReg s n (txPage r + 8)) 31 ∧ descsOk (d :: ds) ∧ (d :: ds).length ≤ ((fnReg s n (txPage r + 0xC)).toNat % ringSize (fnReg s n (txPage r + 8)) 4 + ringSize (fnReg s n (txPage r + 8)) 4 - (fnReg s n (txPage r + 0x10)).toNat % ringSize (fnReg s n (txPage r + 8)) 4) % ringSize (fnReg s n (txPage r + 8)) 4 ∧ (∃ p, p < 12 ∧ Nat.testBit d.mask p = true) ∧ (∀ p, p < 16 → Nat.testBit d.mask p = true → p < 12 ∧ Nat.testBit (hostPorts s n) p = true) ∧ tooLong s d.mask (sumN ((d :: ds).map (·.len)) + 4) = []) ∧
    (∃ (s : State) (n : Nat) (p : Nat), alive s ∧ (∀ f ∈ (portOf s p).txq, ∀ id, f.body ≠ .host n id)) ∧
    (∃ (s : State) (n : Nat) (p : Nat) (id : Nat) (f : TxFrame) (pre : List TxFrame) (rest : List TxFrame) (x : TxHost), alive s ∧ (portOf s p).txq = pre ++ f :: rest ∧ (∀ g ∈ pre, ∀ id, g.body ≠ .host n id) ∧ f.body = .host n id ∧ ((fnOf s n).txWait.find? (fun x => x.id == id) = some x) ∧ overHeld s x.born (fnReg s n (txPage x.ring + 8))) :=
  ⟨⟨fn0 s0 ({ regs [(0x100408, 0x80000226#32), (0x10040C, 9#32)] with rxWait := [{ ring := 0, port := 0, len := 64, ts := none, vlan := none, route := 0, copy := false, born := 4000 }] }), 0, 0, _, _, [], all3 (by decide +kernel) ⟨rfl, by decide +kernel⟩⟩,
   ⟨fn0 s0 ({ regs [] with rxWait := [{ ring := 0, port := 0, len := 64, ts := none, vlan := none, route := 0, copy := false, born := 0 }] }), 0, 0, _, _, [], all3 (by decide +kernel) ⟨rfl, by decide +kernel⟩⟩,
   ⟨fn0 s0 ({ regs [(0x100408, 0x80000226#32), (0x10040C, 9#32)] with rxWait := [{ ring := 0, port := 0, len := 64, ts := none, vlan := none, route := 0, copy := false, born := 0 }] }), 0, 0, _, _, [], all3 (by decide +kernel) ⟨rfl, by decide +kernel⟩⟩,
   ⟨fn0 s0 ({ regs [(0x100408, 0x80000226#32), (0x10040C, 9#32)] with rxWait := [{ ring := 0, port := 0, len := 64, ts := none, vlan := none, route := 0, copy := false, born := 4000 }] }), 0, 0, _, _, [], all3 (by decide +kernel) ⟨rfl, by decide +kernel⟩⟩,
   ⟨fn0 s0 (regs [(0x100508, 0x80000206#32), (0x10050C, 9#32)]), 0, 0, { addr := 0, len := 100, tflags := 0x60, mask := 2 }, [], by decide +kernel⟩,
   ⟨fn0 (up (im [] [⟨secHOST_ROUTE, [[0x80000001#32]]⟩])) (regs [(0x100508, 0x80000206#32), (0x10050C, 9#32)]), 0, 0, { addr := 0, len := 100, tflags := 0x60, mask := 1 }, [], by decide +kernel⟩,
   ⟨s0, 0, 0, by decide +kernel, (fun f hf => nomatch hf)⟩,
   ⟨{ fn0 s0 ({ bme := true, txWait := [{ id := 7, ring := 0, first := 0, addr := 0, len0 := 0, flags := 0, mask := 1, left := [0], born := 0 }] }) with eth := { ports := [(0, { txq := [{ id := 1, body := .host 0 7, len := 64 }] })] } }, 0, 0, 7, _, [], _, _, by decide +kernel, rfl, (fun f hf => nomatch hf), rfl, rfl, by decide +kernel⟩⟩

set_option maxRecDepth 100000 in
theorem witness_RingErrorsInterruptsAndFunctionResets :
    (∃ (s : State) (n : Nat) (code : Nat) (reason : Nat) (off : Nat), s.hp.length = 4 ∧ alive s ∧ mastering s n ∧ ringCfg code = some off ∧ bit (hif s n off) 31) ∧
    (∃ (s : State) (n : Nat) (src : Nat) (q : Irq), s.hp.length = 4 ∧ alive s ∧ src < 16 ∧ mastering s n ∧ q = fgetD (fnOf s n).irq src {} ∧ q.pend ∧ bit (hif s n (0x100 + 4 * src)) 31 ∧ (∀ k, q.last = some k → k + fld (hif s n (0x100 + 4 * src)) 9 0 ≤ s.tb.tick)) ∧
    (∃ (s : State) (n : Nat) (src : Nat) (q : Irq), s.hp.length = 4 ∧ alive s ∧ src < 16 ∧ mastering s n ∧ q = fgetD (fnOf s n).irq src {} ∧ q.pend ∧ bit (hif s n (0x100 + 4 * src)) 31 ∧ ∃ (k : _), q.last = some k ∧ s.tb.tick < k + fld (hif s n (0x100 + 4 * src)) 9 0) ∧
    (∃ (s : State) (n : Nat), s.hp.length = 4 ∧ alive s ∧ n < 4 ∧ cfgAnswer s = .done) ∧
    (∃ (s : State) (n : Nat), alive s ∧ cfgAnswer s ≠ .done) ∧
    (∃ (s : State), s.pwr.perstN = false) ∧
    (∃ (s : State), s.pwr.perstN = true ∧ s.pwr.state = .starting ∧ s.pwr.waits = false) ∧
    (∃ (s : State), s.pwr.perstN = true ∧ s.pwr.state = .run) ∧
    (∃ (s : State) (hot : Bool), s.hp.length = 4 ∧ alive s) :=
  ⟨⟨fn0 s0 (regs [(0x100048, 0x80000004#32), (0x10004C, 1#32), (0x100068, 0x80000004#32)]), 0, 0, 1, 0x48, all3 (by decide +kernel) ⟨rfl, by decide +kernel⟩⟩,
   ⟨fn0 s0 ({ regs [(0x100100, 0x80000005#32)] with irq := [(0, { pend := true })] }), 0, 0, _, all3 (by decide +kernel) ⟨by decide +kernel, rfl, by decide +kernel, by decide +kernel, (fun k h => nomatch h)⟩⟩,
   ⟨fn0 s0 ({ regs [(0x100100, 0x80000005#32)] with irq := [(0, { pend := true, last := some 4095 })] }), 0, 0, _, all3 (by decide +kernel) ⟨by decide +kernel, rfl, by decide +kernel, by decide +kernel, 4095, rfl, by decide +kernel⟩⟩,
   ⟨s0, 0, by decide +kernel⟩,
   ⟨{ s0 with pwr := {} }, 0, by decide +kernel⟩,
   ⟨{ s0 with pwr := { perstN := false } }, by decide +kernel⟩,
   ⟨{ s0 with pwr := { waits := false } }, by decide +kernel⟩,
   ⟨s0, by decide +kernel⟩,
   ⟨s0, true, by decide +kernel⟩⟩

set_option maxRecDepth 100000 in
theorem witness_HeartbeatsAndTheLeaseDecideTheRole :
    (∃ (s : State), alive s ∧ isUnit s ∧ s.tb.started ∧ s.tb.tick % 256 = 0 ∧ s.pair.hbTick ≠ some s.tb.tick ∧ fld (pairNet s) 31 28 = 0xF ∧ (keyOp (pairSlot s) 1 s).2.isSome ∧ (portOf s 13).linkUp ∧ 82 ≤ maxLen s 13) ∧
    (∃ (s : State), alive s ∧ (isUnit s = false ∨ s.tb.tick % 256 ≠ 0 ∨ s.pair.hbTick = some s.tb.tick)) ∧
    (∃ (s : State), alive s ∧ isUnit s ∧ s.tb.started ∧ s.tb.tick % 256 = 128 ∧ s.pair.chkTick ≠ some s.tb.tick) ∧
    (∃ (s : State), alive s ∧ s.tb.tick % 256 ≠ 128) ∧
    (∃ (s : State), alive s ∧ isUnit s ∧ hasTime s ∧ s.tb.grid % 1024 = 0 ∧ s.pair.leaseGrid ≠ some s.tb.grid) ∧
    (∃ (s : State), alive s ∧ (hasTime s = false ∨ s.tb.grid % 1024 ≠ 0)) ∧
    (∃ (s : State) (s1 : State) (s2 : State) (m : PairMsg) (b : Bool), alive s ∧ isUnit s ∧ (takePairMsg (fun m => if m.calfa then msgType m < 0x1102 || decide (0x1104 < msgType m) else m.dport == hbUdp s) s = some (m, s1)) ∧ msgType m = 0x1101 ∧ peerCheck m s1 = (s2, b)) ∧
    (∃ (s : State) (s1 : State) (m : PairMsg) (k : Nat), alive s ∧ takeAnswer 0x1021 s = (s1, some (m, k))) ∧
    (∃ (s : State) (s1 : State) (m : PairMsg) (k : Nat), alive s ∧ takeAnswer 0x1022 s = (s1, some (m, k))) ∧
    (∃ (s : State) (g : Granted), alive s ∧ isUnit s ∧ s.pair.granted = some g ∧ g.tick < s.tb.tick ∧ s.tb.tick < s.pair.leaseEnd) ∧
    (∃ (s : State) (g : Granted), alive s ∧ isUnit s ∧ s.pair.granted = some g ∧ s.tb.tick ≤ g.tick) ∧
    (∃ (s : State) (g : Granted), alive s ∧ isUnit s ∧ s.pair.granted = some g ∧ g.tick < s.tb.tick ∧ s.pair.leaseEnd ≤ s.tb.tick) ∧
    (∃ (s : State), alive s ∧ isUnit s ∧ s.pair.role = 3 ∧ s.pair.auth ∧ s.pair.leaseEnd ≤ s.tb.tick) ∧
    (∃ (s : State), alive s ∧ isUnit s ∧ s.pair.role = 3 ∧ s.pair.auth ∧ s.tb.tick < s.pair.leaseEnd) :=
  ⟨⟨link (unit {}), by decide +kernel⟩,
   ⟨s0, by decide +kernel⟩,
   ⟨{ unit {} with tb := { (unit {}).tb with tick := 128 } }, by decide +kernel⟩,
   ⟨s0, by decide +kernel⟩,
   ⟨unit {  }, by decide +kernel⟩,
   ⟨State.reset, by decide +kernel⟩,
   ⟨got (unit {}) .calfa 0 13 (.calfa (beBytes 2 0x1101)), _, _, _, _, by decide +kernel, by decide +kernel, rfl, by decide +kernel, rfl⟩,
   ⟨got (unit { sent := [(102, 4096)] }) .witness 0 0 (wudp 0x1021 255), _, _, _, by decide +kernel, takeAnswer_some (m := ⟨false, 0x1234, 1, 3, maced 0x1021 255⟩) (takePairMsg_only rfl rfl rfl (by decide +kernel)) (by decide +kernel) (answerCheck_some (k := 4096) (by decide +kernel) (maced_length _ _ rfl) (by decide +kernel) (by decide +kernel) (by decide +kernel) (macVerify_own rfl (maced_ok _ _ rfl)) (by decide +kernel) (by decide +kernel) (by decide +kernel) (by decide +kernel))⟩,
   ⟨got (unit { sent := [(102, 4096)] }) .witness 0 0 (wudp 0x1022 255), _, _, _, by decide +kernel, takeAnswer_some (m := ⟨false, 0x1234, 1, 3, maced 0x1022 255⟩) (takePairMsg_only rfl rfl rfl (by decide +kernel)) (by decide +kernel) (answerCheck_some (k := 4096) (by decide +kernel) (maced_length _ _ rfl) (by decide +kernel) (by decide +kernel) (by decide +kernel) (macVerify_own rfl (maced_ok _ _ rfl)) (by decide +kernel) (by decide +kernel) (by decide +kernel) (by decide +kernel))⟩,
   ⟨unit { granted := some ⟨5, false⟩, leaseEnd := 9999 }, _, by decide +kernel, by decide +kernel, rfl, by decide +kernel⟩,
   ⟨unit { granted := some ⟨9999, false⟩, leaseEnd := 9999 }, _, by decide +kernel, by decide +kernel, rfl, by decide +kernel⟩,
   ⟨unit { granted := some ⟨5, false⟩, leaseEnd := 6 }, _, by decide +kernel, by decide +kernel, rfl, by decide +kernel⟩,
   ⟨unit { role := 3, auth := true }, by decide +kernel⟩,
   ⟨unit { role := 3, auth := true, leaseEnd := 9999 }, by decide +kernel⟩⟩

set_option maxRecDepth 100000 in
theorem witness_RackingAndThePlannedHandover :
    (∃ (s : State), alive s ∧ isUnit s ∧ hasTime s ∧ s.pair.role = 3 ∧ authority s ∧ genDue s) ∧
    (∃ (s : State), alive s ∧ (authority s = false ∨ genDue s = false)) ∧
    (∃ (s : State) (s1 : State) (m : PairMsg), alive s ∧ isUnit s ∧ s.pair.role ≠ 3 ∧ (takePairMsg (fun m => m.calfa && msgType m == 0x1102) s = some (m, s1)) ∧ beAt m.bytes 4 4 = pairId s ∧ beAt m.bytes 8 1 = 1 - pairUnit s ∧ beAt m.bytes 2 2 = 0x34 + ceilDiv (beAt m.bytes 0x30 2) 4 * 4 + 4 ∧ beAt m.bytes 2 2 ≤ m.bytes.length ∧ calfaCrc m.bytes (beAt m.bytes 2 2) = true ∧ tsOk m.bytes 0x10 = true) ∧
    (∃ (s : State) (s1 : State) (m : PairMsg), alive s ∧ isUnit s ∧ s.pair.role ≠ 3 ∧ (takePairMsg (fun m => m.calfa && msgType m == 0x1102) s = some (m, s1)) ∧ beAt m.bytes 4 4 = pairId s ∧ beAt m.bytes 8 1 = 1 - pairUnit s ∧ beAt m.bytes 2 2 = 0x34 + ceilDiv (beAt m.bytes 0x30 2) 4 * 4 + 4 ∧ beAt m.bytes 2 2 ≤ m.bytes.length ∧ (calfaCrc m.bytes (beAt m.bytes 2 2) = false ∨ tsOk m.bytes 0x10 = false)) ∧
    (∃ (s : State) (s1 : State) (m : PairMsg) (g : Nat) (x : GenIn), alive s ∧ isUnit s ∧ s.pair.role ≠ 3 ∧ (takePairMsg (fun m => m.calfa && msgType m == 0x1103) s = some (m, s1)) ∧ beAt m.bytes 4 4 = pairId s ∧ beAt m.bytes 8 1 = 1 - pairUnit s ∧ beAt m.bytes 2 2 = 48 ∧ 48 ≤ m.bytes.length ∧ calfaCrc m.bytes 48 = true ∧ tsOk m.bytes 0x10 = true ∧ g = beAt m.bytes 0x1C 4 ∧ fget? s.pair.genIn g = some x ∧ (beAt m.bytes 0x28 4 = s.cfg.active.vintage ∧ (∀ k, s.pair.genNo = some k → g = (k + 1) % 2 ^ 32) ∧ nsGrid s1 s1.tb.now ≤ x.inst + 1024 ∧ (wholeBlocks x.frags).length = beAt m.bytes 0x20 4 ∧ x.frags.length = beAt m.bytes 0x24 4)) ∧
    (∃ (s : State) (s1 : State) (m : PairMsg) (g : Nat) (x : GenIn), alive s ∧ isUnit s ∧ s.pair.role ≠ 3 ∧ (takePairMsg (fun m => m.calfa && msgType m == 0x1103) s = some (m, s1)) ∧ beAt m.bytes 4 4 = pairId s ∧ beAt m.bytes 8 1 = 1 - pairUnit s ∧ beAt m.bytes 2 2 = 48 ∧ 48 ≤ m.bytes.length ∧ calfaCrc m.bytes 48 = true ∧ tsOk m.bytes 0x10 = true ∧ g = beAt m.bytes 0x1C 4 ∧ fget? s.pair.genIn g = some x ∧ (beAt m.bytes 0x28 4 ≠ s.cfg.active.vintage ∨ (∃ k, s.pair.genNo = some k ∧ g ≠ (k + 1) % 2 ^ 32) ∨ x.inst + 1024 < nsGrid s1 s1.tb.now ∨ (wholeBlocks x.frags).length ≠ beAt m.bytes 0x20 4 ∨ x.frags.length ≠ beAt m.bytes 0x24 4)) ∧
    (∃ (s : State) (g : Nat) (x : GenIn), alive s ∧ fget? s.pair.genIn g = some x ∧ isUnit s ∧ s.pair.role ≠ 3 ∧ x.inst + 1024 < s.tb.grid) ∧
    (∃ (s : State) (g : Nat) (x : GenIn), alive s ∧ fget? s.pair.genIn g = some x ∧ s.tb.grid ≤ x.inst + 1024) ∧
    (∃ (s : State) (n : Nat) (raw : List Byte) (p : PeerHb), s.hp.length = 4 ∧ cmdReady s n 0x50 [] raw ∧ isUnit s ∧ s.pair.role = 3 ∧ authority s ∧ s.pair.peer = some p ∧ Nat.testBit p.hfl 13 = true ∧ s.pair.witOk ∧ Nat.testBit p.hfl 14 = true ∧ p.vintage = s.cfg.active.vintage ∧ s.pair.hov = none ∧ Nat.testBit p.hfl 12 = false) ∧
    (∃ (s : State) (n : Nat) (raw : List Byte), s.hp.length = 4 ∧ cmdReady s n 0x50 [] raw ∧ (isUnit s = false ∨ s.pair.role ≠ 3)) ∧
    (∃ (s : State) (s1 : State) (s2 : State) (m : PairMsg), alive s ∧ isUnit s ∧ (takePairMsg (fun m => m.calfa && msgType m == 0x1104) s = some (m, s1)) ∧ tsOk m.bytes 0x20 = true ∧ peerCheck m s1 = (s2, true)) ∧
    (∃ (s : State) (h : Handover), alive s ∧ s.pair.hov = some h ∧ isUnit s ∧ s.pair.role = 3 ∧ h.past = false ∧ h.h ≤ s.tb.grid) ∧
    (∃ (s : State) (h : Handover), alive s ∧ s.pair.hov = some h ∧ s.tb.grid < h.h) ∧
    (∃ (s : State) (h : Handover), alive s ∧ s.pair.hov = some h ∧ s.hp.length = 4 ∧ h.h + 6144 < s.tb.grid) ∧
    (∃ (s : State) (h : Handover), alive s ∧ s.pair.hov = some h ∧ s.tb.grid ≤ h.h + 6144) ∧
    (∃ (s : State) (n : Nat) (raw : List Byte), s.hp.length = 4 ∧ cmdReady s n 0x51 [(4, 1)] raw ∧ leAt raw 4 1 ≤ 1 ∧ (leAt raw 4 1 = 0 ∨ isUnit s = false ∨ s.pair.role ≠ 3)) ∧
    (∃ (s : State) (n : Nat) (raw : List Byte), s.hp.length = 4 ∧ cmdReady s n 0x51 [(4, 1)] raw ∧ leAt raw 4 1 ≤ 1 ∧ (leAt raw 4 1 = 1 ∧ isUnit s = true ∧ s.pair.role = 3)) ∧
    (∃ (s : State) (n : Nat) (raw : List Byte), s.hp.length = 4 ∧ cmdReady s n 0x52 [] raw) :=
  ⟨⟨unit { role := 3, auth := true, leaseEnd := 9999 }, by decide +kernel⟩,
   ⟨unit {}, by decide +kernel⟩,
   ⟨got (unit {}) .calfa 0 13 (.calfa ((beBytes 2 0x1102 ++ [0#8, 56#8, 0#8, 0#8, 0#8, 0#8, 1#8] ++ zeros 43) ++ beBytes 4 (crc32 (beBytes 2 0x1102 ++ [0#8, 56#8, 0#8, 0#8, 0#8, 0#8, 1#8] ++ zeros 43)).toNat)), _, _, all3 (by decide +kernel) ⟨rfl, by decide +kernel⟩⟩,
   ⟨got (unit {}) .calfa 0 13 (.calfa ((beBytes 2 0x1102 ++ [0#8, 56#8, 0#8, 0#8, 0#8, 0#8, 1#8] ++ zeros 43) ++ zeros 4)), _, _, all3 (by decide +kernel) ⟨rfl, by decide +kernel⟩⟩,
   ⟨got (unit { genIn := [(0, { inst := 5120000 })] }) .calfa 0 13 (.calfa ((beBytes 2 0x1103 ++ [0#8, 48#8, 0#8, 0#8, 0#8, 0#8, 1#8] ++ zeros 35) ++ beBytes 4 (crc32 (beBytes 2 0x1103 ++ [0#8, 48#8, 0#8, 0#8, 0#8, 0#8, 1#8] ++ zeros 35)).toNat)), _, _, _, _, all3 (by decide +kernel) ⟨rfl, all3 (by decide +kernel) (all3 (by decide +kernel) ⟨rfl, rfl, ⟨by decide +kernel, (fun k h => nomatch h), by decide +kernel, by decide +kernel, by decide +kernel⟩⟩)⟩⟩,
   ⟨got (unit { genIn := [(0, { inst := 5120000 })], genNo := some 7 }) .calfa 0 13 (.calfa ((beBytes 2 0x1103 ++ [0#8, 48#8, 0#8, 0#8, 0#8, 0#8, 1#8] ++ zeros 35) ++ beBytes 4 (crc32 (beBytes 2 0x1103 ++ [0#8, 48#8, 0#8, 0#8, 0#8, 0#8, 1#8] ++ zeros 35)).toNat)), _, _, _, _, all3 (by decide +kernel) ⟨rfl, all3 (by decide +kernel) (all3 (by decide +kernel) ⟨rfl, rfl, .inr (.inl ⟨7, rfl, by decide +kernel⟩)⟩)⟩⟩,
   ⟨unit { genIn := [(0, { inst := 5000000 })] }, 0, _, by decide +kernel, rfl, by decide +kernel⟩,
   ⟨unit { genIn := [(0, { inst := 5120000 })] }, 0, _, by decide +kernel, rfl, by decide +kernel⟩,
   ⟨{ unit { role := 3, auth := true, leaseEnd := 9999, witOk := true, peer := some ⟨0, 0x6000, 0, 0#32, 0⟩ } with hp := [cmd 0x50 [0x50#8], {}, {}, {}] }, 0, _, _, by decide +kernel, ⟨by decide +kernel, _, rfl, rfl, rfl, by decide +kernel⟩, all3 (by decide +kernel) ⟨rfl, by decide +kernel⟩⟩,
   ⟨fn0 s0 (cmd 0x50 [0x50#8]), 0, _, by decide +kernel, ⟨by decide +kernel, _, rfl, rfl, rfl, by decide +kernel⟩, by decide +kernel⟩,
   ⟨got (unit {}) .calfa 0 13 (.calfa (maced 0x1104 1)), _, _, _, by decide +kernel, by decide +kernel, rfl, by decide +kernel, peerCheck_true (by decide +kernel) (maced_length _ _ rfl) (by decide +kernel) (by decide +kernel) (by decide +kernel) (macVerify_own rfl (maced_ok _ _ rfl)) (by decide +kernel) (by decide +kernel)⟩,
   ⟨unit { role := 3, hov := some { fn := 0, h := 5120000 } }, _, by decide +kernel, rfl, by decide +kernel⟩,
   ⟨unit { hov := some { fn := 0, h := 5130000 } }, _, by decide +kernel, rfl, by decide +kernel⟩,
   ⟨unit { hov := some { fn := 0, h := 5000000 } }, _, by decide +kernel, rfl, by decide +kernel⟩,
   ⟨unit { hov := some { fn := 0, h := 5120000 } }, _, by decide +kernel, rfl, by decide +kernel⟩,
   ⟨fn0 s0 (cmd 0x51 [0x51#8]), 0, _, by decide +kernel, ⟨by decide +kernel, _, rfl, rfl, rfl, by decide +kernel⟩, by decide +kernel⟩,
   ⟨{ unit { role := 3 } with hp := [cmd 0x51 [0x51#8, 0#8, 0#8, 0#8, 1#8], {}, {}, {}] }, 0, _, by decide +kernel, ⟨by decide +kernel, _, rfl, rfl, rfl, by decide +kernel⟩, by decide +kernel⟩,
   ⟨fn0 s0 (cmd 0x52 [0x52#8]), 0, _, by decide +kernel, ⟨by decide +kernel, _, rfl, rfl, rfl, by decide +kernel⟩⟩⟩

set_option maxRecDepth 100000 in
theorem witness_TheWitnessGrantsOneHolder :
    (∃ (s : State) (s1 : State) (n : Nat) (u : Nat) (m : PairMsg), alive s ∧ takeUnitMsg 0x1011 s = (s1, some (n, u, m)) ∧ witLive s1 n s1.tb.now ∧ (witOf s1 n).holder ≠ u) ∧
    (∃ (s : State) (s1 : State) (n : Nat) (u : Nat) (m : PairMsg), alive s ∧ takeUnitMsg 0x1011 s = (s1, some (n, u, m)) ∧ witLive s1 n s1.tb.now ∧ (witOf s1 n).holder = u ∧ witTime s1) ∧
    (∃ (s : State) (s1 : State) (n : Nat) (u : Nat) (m : PairMsg), alive s ∧ takeUnitMsg 0x1011 s = (s1, some (n, u, m)) ∧ witLive s1 n s1.tb.now = false ∧ witTime s1) ∧
    (∃ (s : State) (s1 : State) (n : Nat) (u : Nat) (m : PairMsg), alive s ∧ takeUnitMsg 0x1011 s = (s1, some (n, u, m)) ∧ witTime s1 = false) ∧
    (∃ (s : State) (s1 : State) (n : Nat) (u : Nat) (m : PairMsg), alive s ∧ takeUnitMsg 0x1012 s = (s1, some (n, u, m))) ∧
    (∃ (s : State) (s1 : State) (n : Nat) (u : Nat) (m : PairMsg), alive s ∧ takeUnitMsg 0x1013 s = (s1, some (n, u, m))) ∧
    (∃ (s : State) (n : Nat) (ns : Nat) (e : Nat), alive s ∧ fget? s.pair.expiry n = some e ∧ pairMode s = 2 ∧ e ≤ ns) ∧
    (∃ (s : State) (n : Nat) (ns : Nat) (e : Nat), alive s ∧ fget? s.pair.expiry n = some e ∧ ns < e) :=
  ⟨⟨wit 0x1011 none [(0, { holder := 1 })] [(0, 200000000000)], _, 0, _, _, by decide +kernel, takeUnitMsg_some (m := ⟨false, 0x1234, 1, 3, maced 0x1011 0⟩) (takePairMsg_only rfl rfl rfl (by decide +kernel)) (by decide +kernel) (by decide +kernel) (by decide +kernel) (maced_length _ _ rfl) (by decide +kernel) (by decide +kernel) (macVerify_own rfl (maced_ok _ _ rfl)) (by decide +kernel) (by decide +kernel) (by decide +kernel), by decide +kernel⟩,
   ⟨wit 0x1011 (some 0) [(0, { holder := 0 })] [(0, 200000000000)], _, 0, _, _, by decide +kernel, takeUnitMsg_some (m := ⟨false, 0x1234, 1, 3, maced 0x1011 0⟩) (takePairMsg_only rfl rfl rfl (by decide +kernel)) (by decide +kernel) (by decide +kernel) (by decide +kernel) (maced_length _ _ rfl) (by decide +kernel) (by decide +kernel) (macVerify_own rfl (maced_ok _ _ rfl)) (by decide +kernel) (by decide +kernel) (by decide +kernel), by decide +kernel⟩,
   ⟨wit 0x1011 (some 0) [] [], _, 0, _, _, by decide +kernel, takeUnitMsg_some (m := ⟨false, 0x1234, 1, 3, maced 0x1011 0⟩) (takePairMsg_only rfl rfl rfl (by decide +kernel)) (by decide +kernel) (by decide +kernel) (by decide +kernel) (maced_length _ _ rfl) (by decide +kernel) (by decide +kernel) (macVerify_own rfl (maced_ok _ _ rfl)) (by decide +kernel) (by decide +kernel) (by decide +kernel), by decide +kernel⟩,
   ⟨wit 0x1011 none [] [], _, 0, _, _, by decide +kernel, takeUnitMsg_some (m := ⟨false, 0x1234, 1, 3, maced 0x1011 0⟩) (takePairMsg_only rfl rfl rfl (by decide +kernel)) (by decide +kernel) (by decide +kernel) (by decide +kernel) (maced_length _ _ rfl) (by decide +kernel) (by decide +kernel) (macVerify_own rfl (maced_ok _ _ rfl)) (by decide +kernel) (by decide +kernel) (by decide +kernel), by decide +kernel⟩,
   ⟨wit 0x1012 none [] [], _, 0, _, _, by decide +kernel, takeUnitMsg_some (m := ⟨false, 0x1234, 1, 3, maced 0x1012 0⟩) (takePairMsg_only rfl rfl rfl (by decide +kernel)) (by decide +kernel) (by decide +kernel) (by decide +kernel) (maced_length _ _ rfl) (by decide +kernel) (by decide +kernel) (macVerify_own rfl (maced_ok _ _ rfl)) (by decide +kernel) (by decide +kernel) (by decide +kernel)⟩,
   ⟨wit 0x1013 none [] [], _, 0, _, _, by decide +kernel, takeUnitMsg_some (m := ⟨false, 0x1234, 1, 3, maced 0x1013 0⟩) (takePairMsg_only rfl rfl rfl (by decide +kernel)) (by decide +kernel) (by decide +kernel) (by decide +kernel) (maced_length _ _ rfl) (by decide +kernel) (by decide +kernel) (macVerify_own rfl (maced_ok _ _ rfl)) (by decide +kernel) (by decide +kernel) (by decide +kernel)⟩,
   ⟨{ keyed (pairIm 2) with pair := { expiry := [(0, 5)] } }, 0, 9, 5, by decide +kernel, rfl, by decide +kernel⟩,
   ⟨{ keyed (pairIm 2) with pair := { expiry := [(0, 5)] } }, 0, 1, 5, by decide +kernel, rfl, by decide +kernel⟩⟩

set_option maxRecDepth 100000 in
theorem witness_VaultSlotsAndIdentity :
    (∃ (s : State) (n : Nat) (raw : List Byte) (b : List Byte), s.hp.length = 4 ∧ cmdReady s n 0x42 [(4, 10), (0x10, 16)] raw ∧ leAt raw 4 2 ≤ 511 ∧ leAt raw 0xC 2 = 0xFFFF ∧ attrAlgUsed (leAt raw 6 1) (leAt raw 7 1) ∧ attrAlgFit (leAt raw 6 1) (leAt raw 7 1) ∧ vaultReason s = 0 ∧ (s.fuses.lc = 1 ∨ s.fuses.lc = 2)) ∧
    (∃ (s : State) (n : Nat) (raw : List Byte), s.hp.length = 4 ∧ cmdReady s n 0x43 [(4, 11), (0x10, 40)] raw ∧ leAt raw 4 2 ≤ 511 ∧ leAt raw 0xC 2 = 0x1FF ∧ 1 ≤ leAt raw 0xE 1 ∧ leAt raw 0xE 1 ≤ 32 ∧ leAt raw 0x18 1 ≠ 0 ∧ (∀ x ∈ slice raw (0x18 + leAt raw 0xE 1) (32 - leAt raw 0xE 1), x = 0#8) ∧ attrAlgUsed (leAt raw 6 1) (leAt raw 7 1) ∧ attrAlgFit (leAt raw 6 1) (leAt raw 7 1) ∧ vaultReason s = 0) ∧
    (∃ (s : State) (n : Nat) (raw : List Byte), s.hp.length = 4 ∧ cmdReady s n 0x44 [(4, 2)] raw ∧ leAt raw 4 2 ≤ 511 ∧ vaultReason s = 0) ∧
    (∃ (s : State) (n : Nat) (raw : List Byte), s.hp.length = 4 ∧ cmdReady s n 0x44 [(4, 2)] raw ∧ leAt raw 4 2 ≤ 511 ∧ vaultReason s ≠ 0) ∧
    (∃ (s : State) (n : Nat) (raw : List Byte), s.hp.length = 4 ∧ cmdReady s n 0x40 [(8, 8)] raw) ∧
    (∃ (s : State) (n : Nat) (raw : List Byte), s.hp.length = 4 ∧ cmdReady s n 0x41 [(8, 40)] raw ∧ s.fuses.lc ≠ 4) ∧
    (∃ (s : State) (n : Nat) (raw : List Byte), s.hp.length = 4 ∧ cmdReady s n 0x41 [(8, 40)] raw ∧ s.fuses.lc = 4) ∧
    (∃ (s : State) (n : Nat) (raw : List Byte), s.hp.length = 4 ∧ cmdReady s n 0x29 [(8, 8)] raw ∧ meterKeyOk s ∧ s.fuses.lc ≠ 4) ∧
    (∃ (s : State) (n : Nat) (raw : List Byte), s.hp.length = 4 ∧ cmdReady s n 0x29 [(8, 8)] raw ∧ meterKeyOk s = false) :=
  ⟨⟨{ s0 with hp := [cmd 0x42 ([0x42#8] ++ zeros 5 ++ [1#8, 1#8] ++ zeros 4 ++ [0xFF#8, 0xFF#8]), {}, {}, {}], sec := { rootIn := true } }, 0, _, [], by decide +kernel, ⟨by decide +kernel, _, rfl, rfl, rfl, by decide +kernel⟩, by decide +kernel⟩,
   ⟨{ s0 with hp := [cmd 0x43 ([0x43#8] ++ zeros 5 ++ [1#8, 1#8] ++ zeros 4 ++ [0xFF#8, 1#8, 1#8] ++ zeros 9 ++ [7#8]), {}, {}, {}], sec := { rootIn := true } }, 0, _, by decide +kernel, ⟨by decide +kernel, _, rfl, rfl, rfl, by decide +kernel⟩, by decide +kernel⟩,
   ⟨{ s0 with hp := [cmd 0x44 [0x44#8], {}, {}, {}], sec := { rootIn := true } }, 0, _, by decide +kernel, ⟨by decide +kernel, _, rfl, rfl, rfl, by decide +kernel⟩, by decide +kernel⟩,
   ⟨{ s0 with hp := [cmd 0x44 [0x44#8], {}, {}, {}] }, 0, _, by decide +kernel, ⟨by decide +kernel, _, rfl, rfl, rfl, by decide +kernel⟩, by decide +kernel⟩,
   ⟨{ s0 with hp := [cmd 0x40 [0x40#8], {}, {}, {}] }, 0, _, by decide +kernel, ⟨by decide +kernel, _, rfl, rfl, rfl, by decide +kernel⟩⟩,
   ⟨{ s0 with hp := [cmd 0x41 [0x41#8], {}, {}, {}] }, 0, _, by decide +kernel, ⟨by decide +kernel, _, rfl, rfl, rfl, by decide +kernel⟩, by decide +kernel⟩,
   ⟨{ s0 with hp := [cmd 0x41 [0x41#8], {}, {}, {}], fuses := { lc := 4 } }, 0, _, by decide +kernel, ⟨by decide +kernel, _, rfl, rfl, rfl, by decide +kernel⟩, by decide +kernel⟩,
   ⟨{ s0 with hp := [cmd 0x29 [0x29#8], {}, {}, {}], sec := { rootIn := true } }, 0, _, by decide +kernel, ⟨by decide +kernel, _, rfl, rfl, rfl, by decide +kernel⟩, by decide +kernel⟩,
   ⟨{ s0 with hp := [cmd 0x29 [0x29#8], {}, {}, {}] }, 0, _, by decide +kernel, ⟨by decide +kernel, _, rfl, rfl, rfl, by decide +kernel⟩, by decide +kernel⟩⟩

set_option maxRecDepth 100000 in
theorem witness_FirmwareTransitionsAndTampers :
    (∃ (s : State) (n : Nat) (raw : List Byte) (p : FwPkg), s.hp.length = 4 ∧ cmdReady s n 0x46 [(8, 12)] raw ∧ 1 ≤ leAt raw 0x10 4 ∧ leAt raw 0x10 4 ≤ 67108864 ∧ s.fuses.lc ≠ 5 ∧ (p.manifestOk ∧ p.hashesOk ∧ s.fuses.svn ≤ p.svn)) ∧
    (∃ (s : State) (n : Nat) (raw : List Byte) (p : FwPkg), s.hp.length = 4 ∧ cmdReady s n 0x46 [(8, 12)] raw ∧ 1 ≤ leAt raw 0x10 4 ∧ leAt raw 0x10 4 ≤ 67108864 ∧ s.fuses.lc ≠ 5 ∧ (¬(p.manifestOk ∧ p.hashesOk ∧ s.fuses.svn ≤ p.svn))) ∧
    (∃ (s : State) (n : Nat) (raw : List Byte), s.hp.length = 4 ∧ cmdReady s n 0x47 [] raw ∧ s.sec.staged = false) ∧
    (∃ (s : State) (n : Nat) (raw : List Byte), s.hp.length = 4 ∧ cmdReady s n 0x47 [] raw ∧ s.sec.staged = true ∧ vaultReason s = 0) ∧
    (∃ (s : State) (n : Nat) (raw : List Byte), s.hp.length = 4 ∧ cmdReady s n 0x48 [(8, 8)] raw ∧ (s.sec.staged = false ∨ s.sec.rewrapped = false)) ∧
    (∃ (s : State) (n : Nat) (raw : List Byte), s.hp.length = 4 ∧ cmdReady s n 0x48 [(8, 8)] raw ∧ s.sec.staged = true ∧ s.sec.rewrapped = true ∧ leAt raw 8 8 = 0) ∧
    (∃ (s : State) (n : Nat) (raw : List Byte), s.hp.length = 4 ∧ cmdReady s n 0x48 [(8, 8)] raw ∧ s.sec.staged = true ∧ s.sec.rewrapped = true ∧ hasTime s ∧ taiSec s < leAt raw 8 8) ∧
    (∃ (s : State) (sec : Nat), alive s ∧ s.sec.fwAt = some sec ∧ hasTime s ∧ sec * 1000000000 ≤ s.tb.now) ∧
    (∃ (s : State) (sec : Nat), alive s ∧ s.sec.fwAt = some sec ∧ s.tb.now < sec * 1000000000) ∧
    (∃ (s : State) (n : Nat) (raw : List Byte) (tk : List Byte), s.hp.length = 4 ∧ cmdReady s n 0x45 [(8, 8)] raw ∧ s.fuses.lcCtr = 64) ∧
    (∃ (s : State) (n : Nat) (raw : List Byte) (tk : List Byte), s.hp.length = 4 ∧ cmdReady s n 0x45 [(8, 8)] raw ∧ s.fuses.lcCtr ≠ 64) ∧
    (∃ (s : State) (mask : Nat) (k : Bool), (s.pwr.state = .off ∨ tamperSeen s mask = 0)) ∧
    (∃ (s : State) (mask : Nat) (k : Bool), s.pwr.state ≠ .off ∧ tamperSeen s mask ≠ 0) :=
  ⟨⟨{ s0 with hp := [cmd 0x46 ([0x46#8] ++ zeros 15 ++ [1#8]), {}, {}, {}] }, 0, _, { version := 1, svn := 0, comps := [], mc := [], manifestOk := true, hashesOk := true }, by decide +kernel, ⟨by decide +kernel, _, rfl, rfl, rfl, by decide +kernel⟩, by decide +kernel⟩,
   ⟨{ s0 with hp := [cmd 0x46 ([0x46#8] ++ zeros 15 ++ [1#8]), {}, {}, {}] }, 0, _, { version := 1, svn := 0, comps := [], mc := [], manifestOk := false, hashesOk := true }, by decide +kernel, ⟨by decide +kernel, _, rfl, rfl, rfl, by decide +kernel⟩, by decide +kernel⟩,
   ⟨{ s0 with hp := [cmd 0x47 [0x47#8], {}, {}, {}] }, 0, _, by decide +kernel, ⟨by decide +kernel, _, rfl, rfl, rfl, by decide +kernel⟩, by decide +kernel⟩,
   ⟨{ s0 with hp := [cmd 0x47 [0x47#8], {}, {}, {}], sec := { rootIn := true, staged := true, rewrapped := true } }, 0, _, by decide +kernel, ⟨by decide +kernel, _, rfl, rfl, rfl, by decide +kernel⟩, by decide +kernel⟩,
   ⟨{ s0 with hp := [cmd 0x48 [0x48#8], {}, {}, {}] }, 0, _, by decide +kernel, ⟨by decide +kernel, _, rfl, rfl, rfl, by decide +kernel⟩, by decide +kernel⟩,
   ⟨{ s0 with hp := [cmd 0x48 [0x48#8], {}, {}, {}], sec := { rootIn := true, staged := true, rewrapped := true } }, 0, _, by decide +kernel, ⟨by decide +kernel, _, rfl, rfl, rfl, by decide +kernel⟩, by decide +kernel⟩,
   ⟨{ s0 with hp := [cmd 0x48 ([0x48#8] ++ zeros 7 ++ [200#8]), {}, {}, {}], sec := { rootIn := true, staged := true, rewrapped := true } }, 0, _, by decide +kernel, ⟨by decide +kernel, _, rfl, rfl, rfl, by decide +kernel⟩, by decide +kernel⟩,
   ⟨{ s0 with sec := { fwAt := some 100 } }, _, by decide +kernel, rfl, by decide +kernel⟩,
   ⟨{ s0 with sec := { fwAt := some 101 } }, _, by decide +kernel, rfl, by decide +kernel⟩,
   ⟨{ s0 with hp := [cmd 0x45 [0x45#8], {}, {}, {}], fuses := { lcCtr := 64 } }, 0, _, [], by decide +kernel, ⟨by decide +kernel, _, rfl, rfl, rfl, by decide +kernel⟩, by decide +kernel⟩,
   ⟨{ s0 with hp := [cmd 0x45 [0x45#8], {}, {}, {}] }, 0, _, [], by decide +kernel, ⟨by decide +kernel, _, rfl, rfl, rfl, by decide +kernel⟩, by decide +kernel⟩,
   ⟨s0, 0, false, by decide +kernel⟩,
   ⟨s0, 0x0C, false, by decide +kernel⟩⟩

set_option maxRecDepth 100000 in
theorem witness_SupplyAndResetsDecideThePowerState :
    (∃ (s : State) (p : PowerIn), (p.mv < 4300 ∨ s.pwr.state = .run)) ∧
    (∃ (s : State) (p : PowerIn), 4300 ≤ p.mv ∧ s.pwr.state = .starting ∧ s.pwr.noFw = false ∧ (s.pwr.resetN = false ∨ s.pwr.pfailN = false ∨ vinHigh s p.mv = false)) ∧
    (∃ (s : State) (p : PowerIn), 4300 ≤ p.mv ∧ s.pwr.state = .starting ∧ s.pwr.noFw = false ∧ s.pwr.resetN = true ∧ s.pwr.pfailN = true ∧ vinHigh s p.mv = true ∧ chooseFw s = none) ∧
    (∃ (s : State) (p : PowerIn), 4300 ≤ p.mv ∧ s.pwr.state = .starting ∧ s.pwr.noFw = false ∧ ∃ (k : _), s.pwr.resetN = true ∧ s.pwr.pfailN = true ∧ vinHigh s p.mv = true ∧ chooseFw s = some k) ∧
    (∃ (s : State) (ns : Nat) (ext : Bool), bit (pfailCfg s) (if ext then 15 else 14) = true ∧ s.pwr.state = .run) ∧
    (∃ (s : State) (ns : Nat) (ext : Bool), (bit (pfailCfg s) (if ext then 15 else 14) = false ∨ s.pwr.state = .shed ∨ s.pwr.state = .sleep ∨ s.pwr.state = .off)) ∧
    (∃ (s : State) (mv : Nat), s.pwr.state = .shed ∧ vinHigh s mv) ∧
    (∃ (s : State) (mv : Nat), (s.pwr.state ≠ .shed ∨ vinHigh s mv = false)) ∧
    (∃ (s : State), (s.pwr.state = .off ∨ s.pwr.state = .batteryStandby)) ∧
    (∃ (s : State), s.pwr.state ≠ .off ∧ s.pwr.state ≠ .batteryStandby) ∧
    (∃ (s : State) (rtc : Nat) (w : Nat), s.pwr.state = .sleep ∧ s.pwr.wake = some w ∧ w ≠ 0 ∧ s.vbat.rtcValid ∧ w * 1000000000 ≤ rtc) ∧
    (∃ (s : State) (rtc : Nat) (w : Nat), s.pwr.state = .sleep ∧ s.pwr.wake = some w ∧ (w = 0 ∨ rtc < w * 1000000000)) ∧
    (∃ (s : State) (temp : Int), alive s) ∧
    (∃ (s : State) (mv : Nat), alive s) :=
  ⟨⟨s0, {}, by decide +kernel⟩,
   ⟨{ s0 with pwr := { resetN := false } }, {}, by decide +kernel⟩,
   ⟨{ s0 with pwr := {}, nv := { fw0 := { marked := false } } }, {}, by decide +kernel⟩,
   ⟨{ s0 with pwr := {  } }, {}, all3 (by decide +kernel) ⟨0, all3 (by decide +kernel) (rfl)⟩⟩,
   ⟨up (im [rg 0x13000C 0x65054000] []), 0, false, by decide +kernel⟩,
   ⟨{ s0 with pwr := { state := .off } }, 0, false, by decide +kernel⟩,
   ⟨{ s0 with pwr := { state := .shed } }, 12000, by decide +kernel⟩,
   ⟨s0, 0, by decide +kernel⟩,
   ⟨{ s0 with pwr := { state := .off } }, by decide +kernel⟩,
   ⟨s0, by decide +kernel⟩,
   ⟨{ s0 with pwr := { state := .sleep, wake := some 5 }, vbat := { rtcValid := true } }, 5000000000, _, by decide +kernel, rfl, by decide +kernel⟩,
   ⟨{ s0 with pwr := { state := .sleep, wake := some 5 } }, 0, _, by decide +kernel, rfl, by decide +kernel⟩,
   ⟨s0, 0, by decide +kernel⟩,
   ⟨s0, 0, by decide +kernel⟩⟩

set_option maxRecDepth 100000 in
theorem witness_FatalErrorsDumpsAndCommandedResets :
    (∃ (s : State) (x : FatalIn), alive s) ∧
    (∃ (s : State) (n : Nat) (raw : List Byte), s.hp.length = 4 ∧ cmdReady s n 0x60 [] raw ∧ s.nv.dump = none) ∧
    (∃ (s : State) (n : Nat) (raw : List Byte), s.hp.length = 4 ∧ cmdReady s n 0x60 [] raw ∧ ∃ (d : _), s.nv.dump = some d) ∧
    (∃ (s : State) (n : Nat) (raw : List Byte), s.hp.length = 4 ∧ cmdReady s n 0x61 [(8, 17)] raw ∧ leAt raw 0x18 1 = 0 ∧ ∃ (d : _), s.nv.dump = some d ∧ leAt raw 0x10 4 % 8 = 0 ∧ lenOk (leAt raw 0x14 4) ∧ leAt raw 0x10 4 < d.raw.length) ∧
    (∃ (s : State) (n : Nat) (raw : List Byte), s.hp.length = 4 ∧ cmdReady s n 0x61 [(8, 17)] raw ∧ leAt raw 0x18 1 = 0 ∧ s.nv.dump = none) ∧
    (∃ (s : State) (n : Nat) (raw : List Byte), s.hp.length = 4 ∧ cmdReady s n 0x62 [(4, 4)] raw ∧ ∃ (d : _), s.nv.dump = some d ∧ d.seq = leAt raw 4 4) ∧
    (∃ (s : State) (n : Nat) (raw : List Byte), s.hp.length = 4 ∧ cmdReady s n 0x62 [(4, 4)] raw ∧ (∀ d, s.nv.dump = some d → d.seq ≠ leAt raw 4 4)) ∧
    (∃ (s : State) (n : Nat) (raw : List Byte), s.hp.length = 4 ∧ cmdReady s n 0x63 [(4, 1), (8, 8)] raw ∧ leAt raw 4 1 = 0 ∧ pwrReason s (leAt raw 8 8) ≠ 0) ∧
    (∃ (s : State) (n : Nat) (raw : List Byte), s.hp.length = 4 ∧ cmdReady s n 0x63 [(4, 1), (8, 8)] raw ∧ leAt raw 4 1 = 0 ∧ pwrReason s 0 = 0 ∧ leAt raw 8 8 = 0) ∧
    (∃ (s : State) (n : Nat) (raw : List Byte), s.hp.length = 4 ∧ cmdReady s n 0x63 [(4, 1), (8, 8)] raw ∧ leAt raw 4 1 = 0 ∧ pwrReason s (leAt raw 8 8) = 0 ∧ leAt raw 8 8 ≠ 0) ∧
    (∃ (s : State) (sec : Nat), alive s ∧ s.pwr.resetAt = some (sec, false) ∧ hasTime s ∧ sec * 1000000000 ≤ s.tb.now) ∧
    (∃ (s : State) (sec : Nat), alive s ∧ s.pwr.resetAt = some (sec, false) ∧ s.tb.now < sec * 1000000000) ∧
    (∃ (s : State) (n : Nat) (raw : List Byte), s.hp.length = 4 ∧ cmdReady s n 0x64 [(8, 8)] raw ∧ pwrReason s (leAt raw 8 8) = 0) ∧
    (∃ (s : State) (n : Nat) (raw : List Byte), s.hp.length = 4 ∧ cmdReady s n 0x64 [(8, 8)] raw ∧ pwrReason s (leAt raw 8 8) ≠ 0) :=
  ⟨⟨s0, { cause := 1 }, by decide +kernel⟩,
   ⟨{ s0 with hp := [cmd 0x60 [0x60#8], {}, {}, {}] }, 0, _, by decide +kernel, ⟨by decide +kernel, _, rfl, rfl, rfl, by decide +kernel⟩, by decide +kernel⟩,
   ⟨{ s0 with hp := [cmd 0x60 [0x60#8], {}, {}, {}], nv := { dump := some { seq := 3, cause := 0, complete := true, raw := zeros 16 } } }, 0, _, by decide +kernel, ⟨by decide +kernel, _, rfl, rfl, rfl, by decide +kernel⟩, _, rfl⟩,
   ⟨{ s0 with hp := [cmd 0x61 ([0x61#8] ++ zeros 19 ++ [8#8]), {}, {}, {}], nv := { dump := some { seq := 3, cause := 0, complete := true, raw := zeros 16 } } }, 0, _, by decide +kernel, ⟨by decide +kernel, _, rfl, rfl, rfl, by decide +kernel⟩, by decide +kernel, _, rfl, by decide +kernel⟩,
   ⟨{ s0 with hp := [cmd 0x61 ([0x61#8] ++ zeros 19 ++ [8#8]), {}, {}, {}] }, 0, _, by decide +kernel, ⟨by decide +kernel, _, rfl, rfl, rfl, by decide +kernel⟩, by decide +kernel⟩,
   ⟨{ s0 with hp := [cmd 0x62 [0x62#8, 0#8, 0#8, 0#8, 3#8], {}, {}, {}], nv := { dump := some { seq := 3, cause := 0, complete := true, raw := zeros 16 } } }, 0, _, by decide +kernel, ⟨by decide +kernel, _, rfl, rfl, rfl, by decide +kernel⟩, _, rfl, by decide +kernel⟩,
   ⟨{ s0 with hp := [cmd 0x62 [0x62#8, 0#8, 0#8, 0#8, 4#8], {}, {}, {}] }, 0, _, by decide +kernel, ⟨by decide +kernel, _, rfl, rfl, rfl, by decide +kernel⟩, (fun d h => nomatch h)⟩,
   ⟨{ s0 with hp := [cmd 0x63 ([0x63#8] ++ zeros 7 ++ [1#8]), {}, {}, {}] }, 0, _, by decide +kernel, ⟨by decide +kernel, _, rfl, rfl, rfl, by decide +kernel⟩, by decide +kernel⟩,
   ⟨{ s0 with hp := [cmd 0x63 [0x63#8], {}, {}, {}] }, 0, _, by decide +kernel, ⟨by decide +kernel, _, rfl, rfl, rfl, by decide +kernel⟩, by decide +kernel⟩,
   ⟨{ s0 with hp := [cmd 0x63 ([0x63#8] ++ zeros 7 ++ [200#8]), {}, {}, {}] }, 0, _, by decide +kernel, ⟨by decide +kernel, _, rfl, rfl, rfl, by decide +kernel⟩, by decide +kernel⟩,
   ⟨{ s0 with pwr := { state := .run, resetAt := some (100, false) } }, _, by decide +kernel, rfl, by decide +kernel⟩,
   ⟨{ s0 with pwr := { state := .run, resetAt := some (101, false) } }, _, by decide +kernel, rfl, by decide +kernel⟩,
   ⟨{ s0 with hp := [cmd 0x64 [0x64#8], {}, {}, {}] }, 0, _, by decide +kernel, ⟨by decide +kernel, _, rfl, rfl, rfl, by decide +kernel⟩, by decide +kernel⟩,
   ⟨{ s0 with hp := [cmd 0x64 ([0x64#8] ++ zeros 7 ++ [1#8]), {}, {}, {}] }, 0, _, by decide +kernel, ⟨by decide +kernel, _, rfl, rfl, rfl, by decide +kernel⟩, by decide +kernel⟩⟩

end Sys2Proof.Tests
end

/-!
Register accesses (R6, R9, R120, R397, R399): the meaning of each access on a running module, and the state on which
`Obligations.RegisterAccesses` fails. Its clause on RC_REGISTER_READ speaks of every list `Fn.rc`, also of one whose indexes do not rise.
-/
namespace Sys2Proof.Machine

/-! ## Tables without one index -/

/-- The indexes of a table rise strictly, as a sparse table's do (`FMap`). -/
def Rising {α : Type} (m : FMap α) : Prop := m.Pairwise (fun a b => a.1 < b.1)

theorem fget_eq_none {α : Type} {m : FMap α} {k : Nat} (h : ∀ e ∈ m, e.1 ≠ k) : fget? m k = none := by
  induction m with
  | nil => rfl
  | cons e m ih =>
    obtain ⟨hne, hm⟩ := List.forall_mem_cons.mp h
    simp [fget?, hne, ih hm]

theorem fget_fdel_self {α : Type} (m : FMap α) (k : Nat) : fget? (fdel m k) k = none :=
  fget_eq_none fun e he => by simpa using (List.mem_filter.mp he).2

/-- Of a rising table, a deletion leaves every other entry. The lookup stops at the first index above the one it seeks, so that this
needs the order. -/
theorem fget_fdel_of_ne {α : Type} {m : FMap α} {k j : Nat} (hm : Rising m) (hj : j ≠ k) : fget? (fdel m k) j = fget? m j := by
  induction m with
  | nil => rfl
  | cons e m ih =>
    obtain ⟨i, a⟩ := e
    obtain ⟨hlt, hm⟩ := List.pairwise_cons.mp hm
    have ih := ih hm
    by_cases hi : i = k
    · subst hi
      have low : j < i → fget? m j = none := fun h => fget_eq_none fun e he => by have := hlt e he; omega
      have del : fdel ((i, a) :: m) i = fdel m i := by simp [fdel]
      by_cases h : j < i
      · simp [del, ih, fget?, hj.symm, h, low h]
      · simp [del, ih, fget?, hj.symm, h]
    · have del : fdel ((i, a) :: m) k = (i, a) :: fdel m k := by simp [fdel, hi]
      simp [del, fget?, ih]

/-! ## The meaning of each access on a running module -/

theorem act_of_alive {s : State} (f : State → State) (h : alive s = true) : act s f = .next (f s) := by simp [act, h]

theorem lt_four_of_validFn {s : State} {n : Nat} (h : validFn s n = true) : n < 4 := by
  simp only [validFn, Bool.and_eq_true, decide_eq_true_eq] at h
  exact h.1

theorem lt_length_of_validFn {s : State} {n : Nat} (hl : s.hp.length = 4) (hv : validFn s n = true) : n < s.hp.length :=
  hl.symm ▸ lt_four_of_validFn hv

theorem exec_rcRegisterRead {s : State} {n off : Nat} (ha : alive s = true) (hv : validFn s n = true) (ho : isRc off = true) :
    exec (.rcRegisterRead n off) s =
      .next (modFn s n (fun f => { f with lastRead := readReg s n off, rc := fdel f.rc (off * 65536) })) := by
  have hn : ¬ 4 ≤ n := Nat.not_le.mpr (lt_four_of_validFn hv)
  change execRcRegisterRead n off s = _
  simp [execRcRegisterRead, act_of_alive _ ha, hn, ho, hv]

theorem exec_w1cWrite {s : State} {n off : Nat} {v : Word} (ha : alive s = true) (hv : validFn s n = true) (ho : isW1C off = true) :
    exec (.w1cWrite n off v) s = .next (setFnReg s n off (fnReg s n off &&& ~~~v)) := by
  have hn : ¬ 4 ≤ n := Nat.not_le.mpr (lt_four_of_validFn hv)
  change execW1cWrite n off v s = _
  simp [execW1cWrite, act_of_alive _ ha, hn, ho, hv]

theorem exec_windowIndexWrite {s : State} {n off : Nat} {v : Word} (ha : alive s = true) (hv : validFn s n = true)
    (ho : isWindow off = true) : exec (.windowIndexWrite n off v) s = .next (windowWrite n off v s) := by
  have hn : ¬ 4 ≤ n := Nat.not_le.mpr (lt_four_of_validFn hv)
  change execWindowIndexWrite n off v s = _
  simp [execWindowIndexWrite, act_of_alive _ ha, hn, ho, hv]

theorem exec_registerWrite_cfgArg {s : State} {n : Nat} {v : Word} (ha : alive s = true) (hv : validFn s n = true) :
    exec (.registerWrite n (CFG + 0x18) v) s = .next (setFnReg s n (CFG + 0x18) v) := by
  have hn : ¬ 4 ≤ n := Nat.not_le.mpr (lt_four_of_validFn hv)
  change execRegisterWrite n (CFG + 0x18) v s = _
  have hb : blockBase (CFG + 0x18) ≠ HIF := by decide
  have ho : ¬ (4 ≤ n ∨ (CFG + 0x18) % 4 ≠ 0 ∨ 0x140000 ≤ CFG + 0x18) := not_or.mpr ⟨hn, by decide⟩
  simp only [execRegisterWrite, act_of_alive _ ha, if_neg ho, if_neg hb]
  simp [hv, writeReg]

theorem exec_badAccess_read {s : State} {n : Nat} (ha : alive s = true) (hn : n < 4) :
    exec (.badAccess n true) s =
      .next (hifFlag n 0 (countFn n (HIF + 0x300) 0xFFFF (modFn s n (fun f => { f with lastRead := 0#32 })))) := by
  have hn : ¬ 4 ≤ n := Nat.not_le.mpr hn
  change execBadAccess n true s = _
  simp [execBadAccess, act_of_alive _ ha, hn]

/-! ## Functions under counts, flags and windows -/

theorem fnReg_modFn_of_regs (s : State) (n : Nat) (g : Fn → Fn) (m o : Nat) (hg : ∀ f, (g f).regs = f.regs) :
    fnReg (modFn s n g) m o = fnReg s m o :=
  fnReg_congr (map_modify_same hg) m o

@[simp] theorem fnReg_putWin (n : Nat) (r : WinRes) (s : State) (m o : Nat) : fnReg (putWin n r s) m o = fnReg s m o :=
  fnReg_modFn_of_regs _ _ _ _ _ fun _ => rfl

/-- A HIF counter of one function leaves the number of functions and what each shows. -/
theorem shown_countFn (n off win : Nat) (s : State) :
    (countFn n off win s).hp.map (fun f => (f.win, f.mtrLatch, f.rc, f.lastRead)) =
      s.hp.map (fun f => (f.win, f.mtrLatch, f.rc, f.lastRead)) :=
  (kept_countFn (μ := 906694364829719136829440) (Nat.and_self _) (Kept.refl s)).fr.hpShow rfl

@[simp] theorem length_countFn (n off win : Nat) (s : State) : (countFn n off win s).hp.length = s.hp.length := by
  simpa using congrArg List.length (shown_countFn n off win s)

theorem shown_hifFlag (n b : Nat) (s : State) :
    (hifFlag n b s).hp.map (fun f => (f.win, f.mtrLatch, f.rc, f.lastRead)) =
      s.hp.map (fun f => (f.win, f.mtrLatch, f.rc, f.lastRead)) :=
  (kept_hifFlag (μ := 83562883710976) (Nat.and_self _) (Kept.refl s)).fr.hpShow rfl

@[simp] theorem lastRead_countFn (n off win : Nat) (s : State) (m : Nat) :
    (fnOf (countFn n off win s) m).lastRead = (fnOf s m).lastRead :=
  congrArg (fun x => x.2.2.2) (fnOf_congr _ (shown_countFn n off win s) m)

@[simp] theorem lastRead_hifFlag (n b : Nat) (s : State) (m : Nat) : (fnOf (hifFlag n b s) m).lastRead = (fnOf s m).lastRead :=
  congrArg (fun x => x.2.2.2) (fnOf_congr _ (shown_hifFlag n b s) m)

theorem bit_hifFlag_self {s : State} {n b : Nat} (hn : n < s.hp.length) (hb : b < 32) :
    bit (fnReg (hifFlag n b s) n (HIF + 0xC)) b = true := by
  simp [hifFlag, HIF, bit_setFlag1 _ _ _ _ _ _ _ hn hb]

/-! ## The clauses that hold

RC_REGISTER_READ under the order that `FMap` asks for, and the four other clauses as they are stated. -/

theorem rcRegisterRead_deletes_one_copy {s : State} {n off : Nat} (hl : s.hp.length = 4) (ha : alive s = true)
    (hv : validFn s n = true) (ho : isRc off = true) (hr : Rising (fnOf s n).rc) :
    ∃ t, exec (.rcRegisterRead n off) s = .next t ∧ (fnOf t n).lastRead = readReg s n off ∧
      fget? (fnOf t n).rc (off * 65536) = none ∧
      (∀ k, k ≠ off * 65536 → fget? (fnOf t n).rc k = fget? (fnOf s n).rc k) ∧ ∀ m, m ≠ n → fnOf t m = fnOf s m := by
  have hn : n < s.hp.length := lt_length_of_validFn hl hv
  refine ⟨_, exec_rcRegisterRead ha hv ho, ?_, ?_, fun k hk => ?_, fun m hm => ?_⟩
  · simp [fnOf_modFn _ _ _ _ hn]
  · simp [fnOf_modFn _ _ _ _ hn, fget_fdel_self]
  · simp [fnOf_modFn _ _ _ _ hn, fget_fdel_of_ne hr hk]
  · simp [fnOf_modFn _ _ _ _ hn, hm]

theorem w1cWrite_clears_written_ones {s : State} {n off : Nat} {v : Word} (hl : s.hp.length = 4) (ha : alive s = true)
    (hv : validFn s n = true) (ho : isW1C off = true) :
    ∃ t, exec (.w1cWrite n off v) s = .next t ∧
      (∀ b, b < 32 → bit (fnReg t n off) b = (bit (fnReg s n off) b && !bit v b)) ∧
      ∀ m o, (m ≠ n ∨ o ≠ off) → fnReg t m o = fnReg s m o := by
  have hn : n < s.hp.length := lt_length_of_validFn hl hv
  refine ⟨_, exec_w1cWrite ha hv ho, fun b hb => ?_, fun m o hmo => ?_⟩
  · simp [fnReg_setFnReg _ _ _ _ _ _ hn, bit, hb]
  · rw [fnReg_setFnReg _ _ _ _ _ _ hn, if_neg (by tauto)]

/-- The index that a write of `v` by function `n` leaves in the index register at `off` (R8, R120). -/
def keptIndex (s : State) (n off : Nat) (v : Word) : Nat := idxAfter off ((fnReg s n off).toNat % 2 ^ idxBits off) v.toNat

/-- What the index register then reads: the kept index, and bit 31 when access is denied. -/
def shownIndex (s : State) (n off : Nat) (v : Word) : Word :=
  BitVec.ofNat 32 (b2n (!(winRes s n off (keptIndex s n off v)).allowed) * 2 ^ 31 + keptIndex s n off v)

/-- The index register alone changes: the snapshot and the RC copy of the group that is shown are no registers. -/
theorem fnReg_windowWrite {s : State} {n off : Nat} {v : Word} (hn : n < s.hp.length) (m o : Nat) :
    fnReg (windowWrite n off v s) m o = if m = n ∧ o = off then shownIndex s n off v else fnReg s m o := by
  rw [← fnReg_setFnReg _ _ _ _ _ _ hn]
  simp only [windowWrite]
  split
  · rw [fnReg_modFn_of_regs _ _ _ _ _ (by exact fun _ => rfl), fnReg_putWin]; rfl
  · rw [fnReg_putWin]; rfl

theorem windowIndexWrite_shows_kept_index {s : State} {n off : Nat} {v : Word} (hl : s.hp.length = 4) (ha : alive s = true)
    (hv : validFn s n = true) (ho : isWindow off = true) :
    ∃ t, exec (.windowIndexWrite n off v) s = .next t ∧ fnReg t n off = shownIndex s n off v ∧
      ∀ m o, (m ≠ n ∨ o ≠ off) → fnReg t m o = fnReg s m o := by
  have hn : n < s.hp.length := lt_length_of_validFn hl hv
  refine ⟨_, exec_windowIndexWrite ha hv ho, ?_, fun m o hmo => ?_⟩
  · rw [fnReg_windowWrite hn, if_pos ⟨rfl, rfl⟩]
  · rw [fnReg_windowWrite hn, if_neg (by tauto)]

theorem registerWrite_stores_cfgArg {s : State} {n : Nat} {v : Word} (hl : s.hp.length = 4) (ha : alive s = true)
    (hv : validFn s n = true) :
    ∃ t, exec (.registerWrite n (CFG + 0x18) v) s = .next t ∧ fnReg t n (CFG + 0x18) = v ∧
      ∀ m o, (m ≠ n ∨ o ≠ CFG + 0x18) → fnReg t m o = fnReg s m o := by
  have hn : n < s.hp.length := lt_length_of_validFn hl hv
  refine ⟨_, exec_registerWrite_cfgArg ha hv, ?_, fun m o hmo => ?_⟩
  · rw [fnReg_setFnReg _ _ _ _ _ _ hn, if_pos ⟨rfl, rfl⟩]
  · rw [fnReg_setFnReg _ _ _ _ _ _ hn, if_neg (by tauto)]

theorem badAccess_reads_zero_and_flags {s : State} {n : Nat} (hl : s.hp.length = 4) (ha : alive s = true) (hn : n < 4) :
    ∃ t, exec (.badAccess n true) s = .next t ∧ (fnOf t n).lastRead = 0#32 ∧ bit (fnReg t n (HIF + 0xC)) 0 = true := by
  refine ⟨_, exec_badAccess_read ha hn, ?_, bit_hifFlag_self (by simp [hl, hn]) (by decide)⟩
  have hn : n < s.hp.length := hl.symm ▸ hn
  simp [fnOf_modFn _ _ _ _ hn]

/-! ## The clause that fails -/

/-- The module in STARTING after reset, HP0 a valid partition whose RC copies stand in falling order: the copy of ETH_RXBUF of port 0 hides
the copy of index 0 from a lookup. -/
def fallingRc : State :=
  { State.reset with
    cfg := { active := { sects := [⟨secPARTITION, [[0x80000000#32]]⟩] } }
    hp := [{ rc := [((ETH + 0x20) * 65536, 1#32), (0, 2#32)] }, {}, {}, {}] }

/-- The read deletes the copy of ETH_RXBUF, and the copy of index 0, which no lookup found before, is found. -/
theorem rcRegisterRead_uncovers_hidden_copy :
    ∃ t, exec (.rcRegisterRead 0 (ETH + 0x20)) fallingRc = .next t ∧
      fget? (fnOf fallingRc 0).rc 0 = none ∧ fget? (fnOf t 0).rc 0 = some 2#32 :=
  ⟨_, exec_rcRegisterRead (by decide) (by decide) (by decide), by decide, by rw [fnOf_modFn _ _ _ _ (by decide)]; decide⟩

/-- Refutes O48: `RC_REGISTER_READ` of `fallingRc` changes what a lookup of another copy finds, since the statement takes tables in any order.
Every clause holds on rising tables: `rcRegisterRead_deletes_one_copy` and the lemmas after it. -/
theorem not_registerAccesses : ¬ Obligations.RegisterAccesses := by
  intro h
  obtain ⟨-, hrc, -⟩ := h
  obtain ⟨t, ht, -, -, hkeep, -⟩ := hrc fallingRc 0 (ETH + 0x20) rfl (by decide) (by decide) (by decide)
  obtain ⟨t', ht', hbefore, hafter⟩ := rcRegisterRead_uncovers_hidden_copy
  obtain rfl : t = t' := by simpa [ht] using ht'
  have := hkeep 0 (by decide)
  simp [hbefore, hafter] at this

end Sys2Proof.Machine

/-!
The invariant of the module (R28, R457, R472, R487, R502): it holds at reset, and every step keeps it. The laws of Kept.lean say of each meaning
that it keeps the parts of `Inv`; here they are put together for every command and for the step.
-/
namespace Sys2Proof.Machine

/-! ## What every command keeps -/

/-- Every command's meaning keeps the parts of the invariant, and every part of the state outside its list `writes`. -/
theorem keptOut_exec (c : Instr) (s : State) : KeptOut (maskOf (writes c)) s (exec c s) := by
  cases c with dsimp only [writes]
  | powerUp _ => exact kept_execPowerUp rfl (Kept.refl s)
  | provisionalTick => exact kept_execProvisionalTick rfl (Kept.refl s)
  | tickBoundary _ _ => exact kept_execTickBoundary rfl (Kept.refl s)
  | tbStep _ _ _ => exact kept_execTbStep rfl (Kept.refl s)
  | rateUpdate _ => exact kept_execRateUpdate rfl (Kept.refl s)
  | holdoverTerrUpdate => exact kept_execHoldoverTerrUpdate rfl (Kept.refl s)
  | sdtOffsetEstimate => exact kept_execSdtOffsetEstimate rfl (Kept.refl s)
  | leapLatch => exact kept_execLeapLatch rfl (Kept.refl s)
  | leapDone => exact kept_execLeapDone rfl (Kept.refl s)
  | rtcSet => exact kept_execRtcSet rfl (Kept.refl s)
  | ppsInEdge _ => exact kept_execPpsInEdge rfl (Kept.refl s)
  | irigbFrameRx _ => exact kept_execIrigbFrameRx rfl (Kept.refl s)
  | ptpMsgRx => exact kept_execPtpMsgRx rfl (Kept.refl s)
  | ptpMsgTx _ => exact kept_execPtpMsgTx rfl (Kept.refl s)
  | extLost => exact kept_execExtLost rfl (Kept.refl s)
  | timebaseRestartRequest _ _ => exact kept_execTimebaseRestartRequest rfl (Kept.refl s)
  | timebaseRestart => exact kept_execTimebaseRestart rfl (Kept.refl s)
  | tbSnap _ _ => exact kept_execTbSnap rfl (Kept.refl s)
  | tbUtcOfsWrite _ _ => exact kept_execTbUtcOfsWrite rfl (Kept.refl s)
  | linkUp _ _ _ _ _ => exact kept_execLinkUp rfl (Kept.refl s)
  | linkDown _ _ => exact kept_execLinkDown rfl (Kept.refl s)
  | frameRx _ => exact kept_execFrameRx rfl (Kept.refl s)
  | pauseFrameRx _ => exact kept_execPauseFrameRx rfl (Kept.refl s)
  | pauseExpiry _ _ => exact kept_execPauseExpiry rfl (Kept.refl s)
  | pauseHold _ => exact kept_execPauseHold rfl (Kept.refl s)
  | pauseTxRepeat _ _ => exact kept_execPauseTxRepeat rfl (Kept.refl s)
  | frameTxComplete _ _ _ _ => exact kept_execFrameTxComplete rfl (Kept.refl s)
  | prpEntryExpiry _ => exact kept_execPrpEntryExpiry rfl (Kept.refl s)
  | prpSupervisionTx _ => exact kept_execPrpSupervisionTx rfl (Kept.refl s)
  | prpSupervisionRx => exact kept_execPrpSupervisionRx rfl (Kept.refl s)
  | dataFrameRx => exact kept_execDataFrameRx rfl (Kept.refl s)
  | cfgFrameRx => exact kept_execCfgFrameRx rfl (Kept.refl s)
  | headerFrameRx => exact kept_execHeaderFrameRx rfl (Kept.refl s)
  | rsvSpduRx => exact kept_execRsvSpduRx rfl (Kept.refl s)
  | cfgRequestRepeat _ _ => exact kept_execCfgRequestRepeat rfl (Kept.refl s)
  | tcpConnect _ _ _ => exact kept_execTcpConnect rfl (Kept.refl s)
  | tcpDisconnect _ _ => exact kept_execTcpDisconnect rfl (Kept.refl s)
  | tcpRetry _ _ => exact kept_execTcpRetry rfl (Kept.refl s)
  | ingestRecordWrite _ => exact kept_execIngestRecordWrite rfl (Kept.refl s)
  | tableParityReload _ => exact kept_execTableParityReload rfl (Kept.refl s)
  | groupStart _ => exact kept_execGroupStart rfl (Kept.refl s)
  | windowClose _ => exact kept_execWindowClose rfl (Kept.refl s)
  | alignedSetSeal _ _ => exact kept_execAlignedSetSeal rfl (Kept.refl s)
  | timeoutExpiry _ => exact kept_execTimeoutExpiry rfl (Kept.refl s)
  | svFrameRx => exact kept_execSvFrameRx rfl (Kept.refl s)
  | svMaxAgeExpiry _ _ => exact kept_execSvMaxAgeExpiry rfl (Kept.refl s)
  | bayRecordWrite _ _ _ => exact kept_execBayRecordWrite rfl (Kept.refl s)
  | bayLatencyDeadline _ _ _ _ => exact kept_execBayLatencyDeadline rfl (Kept.refl s)
  | signalUpdate _ _ => exact kept_execSignalUpdate rfl (Kept.refl s)
  | modeFamilyEvaluation _ _ => exact kept_execModeFamilyEvaluation rfl (Kept.refl s)
  | islandEvaluation _ _ => exact kept_execIslandEvaluation rfl (Kept.refl s)
  | scanSnapshot _ _ => exact kept_execScanSnapshot rfl (Kept.refl s)
  | scanRun => exact kept_execScanRun rfl (Kept.refl s)
  | gooseMessageRx => exact kept_execGooseMessageRx rfl (Kept.refl s)
  | stationTalExpiry _ => exact kept_execStationTalExpiry rfl (Kept.refl s)
  | captureSampleWrite _ _ => exact kept_execCaptureSampleWrite rfl (Kept.refl s)
  | rearmExpiry _ => exact kept_execRearmExpiry rfl (Kept.refl s)
  | capArmRecorder _ _ _ => exact kept_execCapArmRecorder rfl (Kept.refl s)
  | capDisarmRecorder _ _ _ => exact kept_execCapDisarmRecorder rfl (Kept.refl s)
  | capHostTrigger _ _ _ => exact kept_execCapHostTrigger rfl (Kept.refl s)
  | capFreeTake _ _ _ => exact kept_execCapFreeTake rfl (Kept.refl s)
  | capArmSet _ _ => exact kept_execCapArmSet rfl (Kept.refl s)
  | capDisarmSet _ _ => exact kept_execCapDisarmSet rfl (Kept.refl s)
  | armRepeat => exact kept_execArmRepeat rfl (Kept.refl s)
  | armSpanExpiry => exact kept_execArmSpanExpiry rfl (Kept.refl s)
  | crossTriggerMsgRx => exact kept_execCrossTriggerMsgRx rfl (Kept.refl s)
  | cycleClose _ => exact kept_execCycleClose rfl (Kept.refl s)
  | billingRecordSign => exact kept_execBillingRecordSign rfl (Kept.refl s)
  | pulseOutputStep _ _ => exact kept_execPulseOutputStep rfl (Kept.refl s)
  | mtrSnap _ => exact kept_execMtrSnap rfl (Kept.refl s)
  | mtrRelease _ _ => exact kept_execMtrRelease rfl (Kept.refl s)
  | outputFrameAssemble _ _ => exact kept_execOutputFrameAssemble rfl (Kept.refl s)
  | cfgPendStart _ => exact kept_execCfgPendStart rfl (Kept.refl s)
  | cmdTurnOff => exact kept_execCmdTurnOff rfl (Kept.refl s)
  | cmdTurnOn => exact kept_execCmdTurnOn rfl (Kept.refl s)
  | cmdSendHeader _ => exact kept_execCmdSendHeader rfl (Kept.refl s)
  | cmdSendCfg1 _ => exact kept_execCmdSendCfg1 rfl (Kept.refl s)
  | cmdSendCfg2 _ => exact kept_execCmdSendCfg2 rfl (Kept.refl s)
  | cmdSendCfg3 _ => exact kept_execCmdSendCfg3 rfl (Kept.refl s)
  | cmdBad => exact kept_execCmdBad rfl (Kept.refl s)
  | pubTcpConnect _ _ _ _ => exact kept_execPubTcpConnect rfl (Kept.refl s)
  | pubTcpDisconnect _ _ _ => exact kept_execPubTcpDisconnect rfl (Kept.refl s)
  | gooseRepeat _ _ => exact kept_execGooseRepeat rfl (Kept.refl s)
  | doMinOnExpiry _ => exact kept_execDoMinOnExpiry rfl (Kept.refl s)
  | doHoldExpiry _ => exact kept_execDoHoldExpiry rfl (Kept.refl s)
  | workItemDispatch _ _ _ => exact kept_execWorkItemDispatch rfl (Kept.refl s)
  | workItemRelease _ _ _ => exact kept_execWorkItemRelease rfl (Kept.refl s)
  | arbBeat _ _ => exact kept_execArbBeat rfl (Kept.refl s)
  | lockOver _ => exact kept_execLockOver rfl (Kept.refl s)
  | lstRewrite _ _ _ => exact kept_execLstRewrite rfl (Kept.refl s)
  | tskTestEntry _ _ => exact kept_execTskTestEntry rfl (Kept.refl s)
  | tskTestExit _ _ => exact kept_execTskTestExit rfl (Kept.refl s)
  | tskSetLevel _ _ _ => exact kept_execTskSetLevel rfl (Kept.refl s)
  | stageSlotA _ _ => exact kept_execStageSlotA rfl (Kept.refl s)
  | stageSlotB _ _ => exact kept_execStageSlotB rfl (Kept.refl s)
  | stagePush _ _ => exact kept_execStagePush rfl (Kept.refl s)
  | stagingDone => exact kept_execStagingDone rfl (Kept.refl s)
  | writeSlot _ _ _ => exact kept_execWriteSlot rfl (Kept.refl s)
  | slotWriteDone => exact kept_execSlotWriteDone rfl (Kept.refl s)
  | scheduleActivation _ _ => exact kept_execScheduleActivation rfl (Kept.refl s)
  | cancelActivation _ _ => exact kept_execCancelActivation rfl (Kept.refl s)
  | setBootSlot _ _ _ => exact kept_execSetBootSlot rfl (Kept.refl s)
  | commitBatch _ _ => exact kept_execCommitBatch rfl (Kept.refl s)
  | emptyBatch _ _ => exact kept_execEmptyBatch rfl (Kept.refl s)
  | discardStaged _ _ => exact kept_execDiscardStaged rfl (Kept.refl s)
  | cfgBatValWrite _ _ => exact kept_execCfgBatValWrite rfl (Kept.refl s)
  | batchApply => exact kept_execBatchApply rfl (Kept.refl s)
  | activation => exact kept_execActivation rfl (Kept.refl s)
  | cfgFenceReqWrite _ _ => exact kept_execCfgFenceReqWrite rfl (Kept.refl s)
  | registerFenceDone _ => exact kept_execRegisterFenceDone rfl (Kept.refl s)
  | windowIndexWrite _ _ _ => exact kept_execWindowIndexWrite rfl (Kept.refl s)
  | rcRegisterRead _ _ => exact kept_execRcRegisterRead rfl (Kept.refl s)
  | w1cWrite _ _ _ => exact kept_execW1cWrite rfl (Kept.refl s)
  | registerWrite _ _ _ => exact kept_execRegisterWrite rfl (Kept.refl s)
  | badAccess _ _ => exact kept_execBadAccess rfl (Kept.refl s)
  | commandFetch _ _ => exact kept_execCommandFetch rfl (Kept.refl s)
  | cmdNop _ => exact kept_execCmdNop rfl (Kept.refl s)
  | cmdFence _ => exact kept_execCmdFence rfl (Kept.refl s)
  | fenceComplete _ => exact kept_execFenceComplete rfl (Kept.refl s)
  | cmdImgPush _ _ => exact kept_execCmdImgPush rfl (Kept.refl s)
  | cmdParBatch _ => exact kept_execCmdParBatch rfl (Kept.refl s)
  | cmdTakeRead _ _ => exact kept_execCmdTakeRead rfl (Kept.refl s)
  | cmdBillRead _ _ => exact kept_execCmdBillRead rfl (Kept.refl s)
  | cmdMeterKeyGet _ _ => exact kept_execCmdMeterKeyGet rfl (Kept.refl s)
  | cmdIdGet _ _ => exact kept_execCmdIdGet rfl (Kept.refl s)
  | cmdQuote _ _ => exact kept_execCmdQuote rfl (Kept.refl s)
  | cmdKeyPut _ _ => exact kept_execCmdKeyPut rfl (Kept.refl s)
  | cmdKeyDerive _ => exact kept_execCmdKeyDerive rfl (Kept.refl s)
  | cmdKeyErase _ => exact kept_execCmdKeyErase rfl (Kept.refl s)
  | cmdLcTransition _ _ => exact kept_execCmdLcTransition rfl (Kept.refl s)
  | cmdFwStage _ _ => exact kept_execCmdFwStage rfl (Kept.refl s)
  | cmdFwRewrap _ => exact kept_execCmdFwRewrap rfl (Kept.refl s)
  | cmdFwActivate _ => exact kept_execCmdFwActivate rfl (Kept.refl s)
  | fwActivateReset => exact kept_execFwActivateReset rfl (Kept.refl s)
  | cmdPairHandover _ => exact kept_execCmdPairHandover rfl (Kept.refl s)
  | cmdPairHold _ => exact kept_execCmdPairHold rfl (Kept.refl s)
  | cmdPairStatus _ => exact kept_execCmdPairStatus rfl (Kept.refl s)
  | cmdDumpInfo _ => exact kept_execCmdDumpInfo rfl (Kept.refl s)
  | cmdDumpRead _ _ => exact kept_execCmdDumpRead rfl (Kept.refl s)
  | cmdDumpRelease _ => exact kept_execCmdDumpRelease rfl (Kept.refl s)
  | cmdPwrReset _ => exact kept_execCmdPwrReset rfl (Kept.refl s)
  | scheduledReset => exact kept_execScheduledReset rfl (Kept.refl s)
  | cmdPwrSleep _ => exact kept_execCmdPwrSleep rfl (Kept.refl s)
  | cmdUnusedOp _ => exact kept_execCmdUnusedOp rfl (Kept.refl s)
  | eventPlace _ _ => exact kept_execEventPlace rfl (Kept.refl s)
  | eventHoldExpiry _ _ => exact kept_execEventHoldExpiry rfl (Kept.refl s)
  | harvestRecordWrite _ _ => exact kept_execHarvestRecordWrite rfl (Kept.refl s)
  | harvestHoldExpiry _ _ => exact kept_execHarvestHoldExpiry rfl (Kept.refl s)
  | hostRxDeliver _ _ _ => exact kept_execHostRxDeliver rfl (Kept.refl s)
  | hostRxHoldExpiry _ _ => exact kept_execHostRxHoldExpiry rfl (Kept.refl s)
  | hostTxFrame _ _ _ _ => exact kept_execHostTxFrame rfl (Kept.refl s)
  | hostTxHoldExpiry _ _ => exact kept_execHostTxHoldExpiry rfl (Kept.refl s)
  | dmaError _ _ _ => exact kept_execDmaError rfl (Kept.refl s)
  | interruptSend _ _ => exact kept_execInterruptSend rfl (Kept.refl s)
  | functionLevelReset _ => exact kept_execFunctionLevelReset rfl (Kept.refl s)
  | busMasterDisable _ => exact kept_execBusMasterDisable rfl (Kept.refl s)
  | perst _ => exact kept_execPerst rfl (Kept.refl s)
  | heartbeatSend => exact kept_execHeartbeatSend rfl (Kept.refl s)
  | heartbeatRx => exact kept_execHeartbeatRx rfl (Kept.refl s)
  | heartbeatCheck => exact kept_execHeartbeatCheck rfl (Kept.refl s)
  | leaseMessageSend => exact kept_execLeaseMessageSend rfl (Kept.refl s)
  | grantRx => exact kept_execGrantRx rfl (Kept.refl s)
  | denyRx => exact kept_execDenyRx rfl (Kept.refl s)
  | authorityBegin => exact kept_execAuthorityBegin rfl (Kept.refl s)
  | leaseEnd => exact kept_execLeaseEnd rfl (Kept.refl s)
  | generationForm => exact kept_execGenerationForm rfl (Kept.refl s)
  | genBlockRx => exact kept_execGenBlockRx rfl (Kept.refl s)
  | genEndRx => exact kept_execGenEndRx rfl (Kept.refl s)
  | generationTimeout _ => exact kept_execGenerationTimeout rfl (Kept.refl s)
  | handoverReqRx => exact kept_execHandoverReqRx rfl (Kept.refl s)
  | handoverInstant => exact kept_execHandoverInstant rfl (Kept.refl s)
  | handoverTimeout => exact kept_execHandoverTimeout rfl (Kept.refl s)
  | requestRx => exact kept_execRequestRx rfl (Kept.refl s)
  | renewRx => exact kept_execRenewRx rfl (Kept.refl s)
  | releaseRx => exact kept_execReleaseRx rfl (Kept.refl s)
  | witnessLeaseExpiry _ _ => exact kept_execWitnessLeaseExpiry rfl (Kept.refl s)
  | tamperDetect _ _ => exact kept_execTamperDetect rfl (Kept.refl s)
  | pfailWarning _ _ => exact kept_execPfailWarning rfl (Kept.refl s)
  | pfailRecover _ => exact kept_execPfailRecover rfl (Kept.refl s)
  | uvloFall => exact kept_execUvloFall rfl (Kept.refl s)
  | resetNLow => exact kept_execResetNLow rfl (Kept.refl s)
  | sleepWake _ => exact kept_execSleepWake rfl (Kept.refl s)
  | fatalError _ => exact kept_execFatalError rfl (Kept.refl s)
  | tempThreshold _ => exact kept_execTempThreshold rfl (Kept.refl s)
  | vinLowAlert _ => exact kept_execVinLowAlert rfl (Kept.refl s)
  | vbatApplied => exact kept_execVbatApplied rfl (Kept.refl s)
  | vbatLost => exact kept_execVbatLost rfl (Kept.refl s)
  | resetNRelease => exact kept_execResetNRelease rfl (Kept.refl s)
  | pfailNHigh _ => exact kept_execPfailNHigh rfl (Kept.refl s)
  | perstNRelease => exact kept_execPerstNRelease rfl (Kept.refl s)
  | busMasterEnable _ => exact kept_execBusMasterEnable rfl (Kept.refl s)

/-! ## The invariant along a step -/

/-- The queue is no part of the invariant. -/
theorem Inv.withPending {s : State} (h : Inv s) (q : List Instr) : Inv { s with pending := q } :=
  ⟨h.functions, h.pushBuf, h.tick, h.transitions, h.events, h.tampers⟩

theorem Inv.of_kept {μ : Nat} {s t : State} (h : Inv s) (k : Kept μ s t) : Inv t where
  functions := k.hp h.functions
  pushBuf := k.push h.pushBuf
  tick := k.tick h.tick
  transitions := k.ctr64 h.transitions
  events := k.evl h.events
  tampers := k.tlog h.tampers

theorem exec_keeps_inv {c : Instr} {s t : State} (h : Inv s) (e : exec c s = .next t) : Inv t :=
  h.of_kept ((keptOut_exec c s).out t e)

/-- A step idles on an empty queue, or runs the front command on the state with the rest of the queue. -/
theorem step_cases {s t : State} (h : step s = .next t) :
    (s.pending = [] ∧ t = s) ∨ ∃ c rest, s.pending = c :: rest ∧ exec c { s with pending := rest } = .next t := by
  unfold step at h
  split at h
  next hq => exact .inl ⟨hq, (Host.Outcome.next.inj h).symm⟩
  next c rest hq => exact .inr ⟨c, rest, hq, h⟩

/-- Settles O5: a step idles, or runs a command that keeps the invariant on a state that differs in its queue alone. -/
theorem everyStepKeepsTheInvariant : Obligations.EveryStepKeepsTheInvariant := by
  intro s t hs ht
  obtain ⟨-, rfl⟩ | ⟨c, rest, -, he⟩ := step_cases ht
  · exact hs
  · exact exec_keeps_inv (hs.withPending rest) he

/-! ## The state after reset -/

theorem inv_reset : Inv State.reset where
  functions := rfl
  pushBuf := rfl
  tick _ := rfl
  transitions := by decide
  events := by decide
  tampers := by decide

/-- Settles O6: reset meets the invariant, and the named parts stand at their reset values (R28, R485, R487). -/
theorem resetSatisfiesTheInvariant : Obligations.ResetSatisfiesTheInvariant :=
  ⟨inv_reset, rfl, rfl, rfl, rfl, rfl, rfl⟩

end Sys2Proof.Machine

/-!
The timebase (chapter 2): which commands move the clock, and what each command of the block answers on a running module. The laws of Kept.lean
give what an operation leaves of the timebase; the laws of Time.lean what it changes.
-/
namespace Sys2Proof.Machine

/-! ## Which commands move the clock (R28, R50) -/

/-- A command whose list names the clock is a tick boundary, the step, or one that may start the module anew. -/
theorem clock_mem_writes {c : Instr} (h : Item.clock ∈ writes c) :
    (∃ di bad, c = .tickBoundary di bad) ∨ (∃ a b d, c = .tbStep a b d) ∨ mayRestart c := by
  cases c with
  | tickBoundary di bad => exact .inl ⟨di, bad, rfl⟩
  | tbStep a b d => exact .inr (.inl ⟨a, b, d, rfl⟩)
  | powerUp _ | resetNLow | sleepWake _ | pfailRecover _ | fatalError _ | scheduledReset | fwActivateReset | cmdPwrReset _ | cmdFwActivate _
  | cmdLcTransition _ _ => exact .inr (.inr rfl)
  | _ =>
    dsimp only [writes] at h
    exact absurd h (by decide)

/-- Settles O8: a command whose list of written parts does not name the clock keeps it. -/
theorem onlyTimeCommandsMoveTheClock : Obligations.OnlyTimeCommandsMoveTheClock := by
  intro c s t h
  by_cases hc : Item.clock ∈ writes c
  · obtain hb | hs | hr := clock_mem_writes hc
    · exact .inl hb
    · exact .inr (.inl hs)
    · exact .inr (.inr (.inl hr))
  · have hsame : Item.clock.same s t := ((keptOut_exec c s).out t h).same_of hc
    simp only [Item.same, Prod.mk.injEq] at hsame
    exact .inr (.inr (.inr hsame))

/-! ## What shared operations leave of the timebase -/

@[simp] theorem tbFlag_tb (b : Nat) (s : State) : (tbFlag b s).tb = s.tb := setFlag_tb ..
@[simp] theorem tbFlag_vbat (b : Nat) (s : State) : (tbFlag b s).vbat = s.vbat := setFlag_vbat ..
@[simp] theorem tbFlag_cfg (b : Nat) (s : State) : (tbFlag b s).cfg = s.cfg := setFlag_cfg ..
@[simp] theorem reportOfs_tb (o : Int) (s : State) : (reportOfs o s).tb = s.tb := (reportOfs_spec o s).1

/-! ## The rate correction (R69) -/

/-- The flag and the event of a rate correction at its limit (R70) leave the timebase. -/
theorem rateLimitRaised_tb (b : Bool) (s : State) : (if b then raise 0x0205 .all [] (tbFlag 6 s) else s).tb = s.tb := by
  cases b <;> simp

/-- Settles O12: what follows the new rate correction, the flag, the event and TB_TQ, leaves the rate and the clock. -/
theorem rateCorrectionIsClamped : Obligations.RateCorrectionIsClamped := by
  intro s m ha hs
  change ∃ t, execRateUpdate m s = .next t ∧ _
  rw [execRateUpdate, act_of_alive _ ha]
  refine ⟨_, rfl, ?_⟩
  have hne : (s.tb.state != .locked) = false := by simp [hs]
  simp only [hne, Bool.false_eq_true, if_false, refreshTq_tb_rate, refreshTq_tb_tick, refreshTq_tb_grid, rateLimitRaised_tb, and_self]

/-! ## Holdover and the stream-derived estimate (R66, R72) -/

/-- HOLDOVER_TERR_UPDATE in holdover (R72). -/
theorem holdoverTerrUpdate_ages {s : State} (ha : alive s = true) (hs : s.tb.state = .holdover) :
    ∃ t, exec .holdoverTerrUpdate s = .next t ∧ t.tb.holdAge = s.tb.holdAge + 1 ∧ t.tb.tick = s.tb.tick ∧
      t.tb.terr = (if holdTerr s (s.tb.holdAge + 1) < 0xFFFFFFFF then some (holdTerr s (s.tb.holdAge + 1)) else none) := by
  change ∃ t, execHoldoverTerrUpdate s = .next t ∧ _
  rw [execHoldoverTerrUpdate, act_of_alive _ ha]
  refine ⟨_, rfl, ?_⟩
  have hne : (s.tb.state != .holdover) = false := by simp [hs]
  simp only [hne, Bool.false_eq_true, if_false, refreshTq_tb_holdAge, refreshTq_tb_tick, refreshTq_tb_terr, true_and]
  rfl

/-- SDT_OFFSET_ESTIMATE (R66). -/
theorem sdtOffsetEstimate_uses_frames {s : State} (ha : alive s = true) :
    ∃ t, exec .sdtOffsetEstimate s = .next t ∧ t.tb.sdtCyc = [] ∧ t.tb.sdtElig = s.tb.sdtCyc.length ∧
      t.tb.sdtOfs = (if s.tb.sdtCyc.length = 0 then s.tb.sdtOfs
        else lowerMedian ((s.tb.sdtCyc.map (fun e => e.2.1)).mergeSort (· ≤ ·))) := by
  change ∃ t, execSdtOffsetEstimate s = .next t ∧ _
  rw [execSdtOffsetEstimate, act_of_alive _ ha]
  refine ⟨_, rfl, ?_⟩
  simp only [refreshTq_tb_sdtCyc, refreshTq_tb_sdtElig, refreshTq_tb_sdtOfs, noteQuals_tb_sdtCyc, noteQuals_tb_sdtElig, noteQuals_tb_sdtOfs, whenS]
  split <;> simp

/-- Settles O13: one clause for the error in holdover, one for the estimate from streams. -/
theorem holdoverAndStreamEstimate : Obligations.HoldoverAndStreamEstimate :=
  ⟨fun _ ha hs => holdoverTerrUpdate_ages ha hs, fun _ ha => sdtOffsetEstimate_uses_frames ha⟩

/-! ## Leap seconds (R46, R52, R53) -/

/-- LEAP_LATCH at the boundary of 23:59:00 UTC (R52). -/
theorem leapLatch_latches {s : State} (ha : alive s = true) (ht : hasTime s = true) (hg : s.tb.grid % tps s = 0)
    (hu : utcNow s % 86400 = 86340) :
    ∃ t, exec .leapLatch s = .next t ∧ t.tb.leapPending = (leapAnnounced s != 0) ∧ t.tb.leapDir = (leapAnnounced s == 2) ∧
      t.tb.ofs = s.tb.ofs := by
  change ∃ t, execLeapLatch s = .next t ∧ _
  rw [execLeapLatch, act_of_alive _ ha]
  refine ⟨_, rfl, ?_⟩
  simp only [ht, hg, hu, and_self, if_true]

/-- LEAP_DONE at the end of the day of a latched leap second (R53). -/
theorem leapDone_moves_ofs {s : State} (ha : alive s = true) (ht : hasTime s = true) (hp : s.tb.leapPending = true)
    (hg : s.tb.grid % tps s = 0) (hu : utcNow s = (if s.tb.leapDir then leapMidnight s - 1 else leapMidnight s + 1)) :
    ∃ t, exec .leapDone s = .next t ∧ t.tb.ofs = (if s.tb.leapDir then s.tb.ofs - 1 else s.tb.ofs + 1) ∧ t.tb.leapPending = false ∧
      t.vbat.utcOfs = t.tb.ofs ∧ t.vbat.utcValid = true ∧ t.tb.tick = s.tb.tick ∧ t.tb.grid = s.tb.grid := by
  change ∃ t, execLeapDone s = .next t ∧ _
  rw [execLeapDone, act_of_alive _ ha]
  refine ⟨_, rfl, ?_⟩
  simp [ht, hp, hg, hu, ofsAfterLeap, storeOfs]

/-- Settles O14: the latch, then the end of the day. -/
theorem leapSeconds : Obligations.LeapSeconds :=
  ⟨fun _ ha ht hg hu => leapLatch_latches ha ht hg hu, fun _ ha ht hp hg hu => leapDone_moves_ofs ha ht hp hg hu⟩

/-! ## The snapshot of the timebase (R80) -/

@[simp] theorem seen_hasTime (ns : Nat) (s : State) : hasTime (seen ns s) = hasTime s := rfl
@[simp] theorem seen_tps (ns : Nat) (s : State) : tps (seen ns s) = tps s := rfl
@[simp] theorem fnReg_seen (ns : Nat) (s : State) (n off : Nat) : fnReg (seen ns s) n off = fnReg s n off := rfl

/-- Settles O16: the seven registers of the writing function are the only ones that TB_SNAP writes, each once. -/
theorem snapshotOfTheTimebase : Obligations.SnapshotOfTheTimebase := by
  intro s n ns hl ha hv ht hns
  have hn : n < s.hp.length := lt_length_of_validFn hl hv
  have hnow : max s.tb.now ns = ns := max_eq_right hns
  change ∃ t, execTbSnap n ns s = .next t ∧ _
  rw [execTbSnap, act_of_alive _ ha]
  refine ⟨_, rfl, ?_⟩
  simp only [hv, Bool.not_true, Bool.false_eq_true, if_false, seen_hasTime, ht, if_true, taiSec, utcOf, setFnReg_tb, seen_tb, hnow]
  refine ⟨?_, ?_, ?_, ?_, ?_, ?_, ?_, fun m r hm => ?_⟩
  all_goals simp (disch := simpa using hn) [fnReg_setFnReg, *]

/-! ## PPS and IRIG-B (R46, R51, R63) -/

/-- PPS_IN_EDGE (R63): the edge stands in front of the last seconds, of which four are held. -/
theorem ppsInEdge_in_front {s : State} {ns : Nat} (ha : alive s = true) :
    ∃ t, exec (.ppsInEdge ns) s = .next t ∧ t.tb.pps = ({ edge := ns, spaced := match s.tb.pps with
      | p :: _ => decide (p.edge + 999990000 ≤ ns ∧ ns ≤ p.edge + 1000010000)
      | [] => false } :: s.tb.pps).take 4 := by
  change ∃ t, execPpsInEdge ns s = .next t ∧ _
  rw [execPpsInEdge, act_of_alive _ ha]
  exact ⟨_, rfl, noteQuals_tb_pps _⟩

/-- An offset reported by the source in use alone leaves the timebase. -/
theorem reportIf_tb (c : Prop) [Decidable c] (o : Int) (s : State) : (if c then reportOfs o s else s).tb = s.tb := by
  split
  · exact reportOfs_tb o s
  · rfl

/-- IRIGB_FRAME_RX of a frame with the extensions and good parity (R63): it labels every edge near its marker. -/
theorem irigbFrameRx_taken {s : State} {m : IrigFrame} (ha : alive s = true) (hp : m.parityOk = true) (he : m.ext = true) :
    ∃ t, exec (.irigbFrameRx m) s = .next t ∧ t.tb.irigPresent = true ∧ t.tb.irigTq = m.tq ∧ t.tb.irigOfs = m.ofs ∧ t.tb.irigLeap = m.leap ∧
      t.tb.pps = s.tb.pps.map (fun p => if p.edge ≤ m.marker + 5000 ∧ m.marker ≤ p.edge + 5000 then
        { p with irigOk := true, agree := true, label := some (m.coded + m.offset), tq := m.tq } else p) := by
  change ∃ t, execIrigbFrameRx m s = .next t ∧ _
  rw [execIrigbFrameRx, act_of_alive _ ha]
  refine ⟨_, rfl, ?_⟩
  simp only [hp, he, Bool.not_true, Bool.or_self, Bool.false_eq_true, if_false]
  cases m.ofs with
  | none => simp [irigUtc]
  | some o => simp [irigUtc, reportIf_tb]

/-- IRIGB_FRAME_RX of a frame that fails parity, as one without the extensions does (assumption 22): it is counted. -/
theorem irigbFrameRx_counted {s : State} {m : IrigFrame} (ha : alive s = true) (hbad : m.parityOk = false ∨ m.ext = false) :
    ∃ t, exec (.irigbFrameRx m) s = .next t ∧ counter t (TB + 0x78) 0xFFFF = counter s (TB + 0x78) 0xFFFF + 1#32 ∧ t.tb.pps = s.tb.pps ∧
      t.tb.irigOfs = s.tb.irigOfs ∧ t.tb.irigTq = s.tb.irigTq := by
  have hc : (!m.parityOk || !m.ext) = true := by simpa using hbad
  change ∃ t, execIrigbFrameRx m s = .next t ∧ _
  rw [execIrigbFrameRx, act_of_alive _ ha]
  refine ⟨_, rfl, ?_⟩
  simp only [hc, if_true, counter_count, count_tb, seen_tb, and_self, and_true]
  rfl

/-- Settles O17: the edge, the frame that is taken, the frame that only counts. -/
theorem ppsAndIrigB : Obligations.PpsAndIrigB :=
  ⟨fun _ _ ha => ppsInEdge_in_front ha, fun _ _ ha hp he => irigbFrameRx_taken ha hp he, fun _ _ ha hbad => irigbFrameRx_counted ha hbad⟩

/-! ## Tick boundaries (R50, R487) -/

@[simp] theorem policerTicks_tb (s : State) : (policerTicks s).tb = s.tb :=
  (kept_policerTicks (Nat.and_self _) (Kept.refl s)).fr.tb rfl
@[simp] theorem pairTick_tb (s : State) : (pairTick s).tb = s.tb := (kept_pairTick (Nat.and_self _) (Kept.refl s)).fr.tb rfl
@[simp] theorem pauseTick_tb (s : State) : (pauseTick s).tb = s.tb := (kept_pauseTick (Nat.and_self _) (Kept.refl s)).fr.tb rfl
@[simp] theorem linkDownTick_tb (s : State) : (linkDownTick s).tb = s.tb := (kept_linkDownTick (Nat.and_self _) (Kept.refl s)).fr.tb rfl
@[simp] theorem gooseTicks_tb (bad : List (Nat × Nat)) (s : State) : (gooseTicks bad s).tb = s.tb :=
  (kept_gooseTicks (Nat.and_self _) (Kept.refl s)).fr.tb rfl
@[simp] theorem doTick_tb (s : State) : (doTick s).tb = s.tb := (kept_doTick (Nat.and_self _) (Kept.refl s)).fr.tb rfl
@[simp] theorem stnTick_tb (s : State) : (stnTick s).tb = s.tb := (kept_stnTick (Nat.and_self _) (Kept.refl s)).fr.tb rfl
@[simp] theorem capDi_tb (old : BitVec 16) (s : State) : (capDi old s).tb = s.tb := (kept_capDi (Nat.and_self _) (Kept.refl s)).fr.tb rfl
@[simp] theorem capTimeouts_tb (s : State) : (capTimeouts s).tb = s.tb := (kept_capTimeouts (Nat.and_self _) (Kept.refl s)).fr.tb rfl
@[simp] theorem dlTick_tb (s : State) : (dlTick s).tb = s.tb := (kept_dlTick (Nat.and_self _) (Kept.refl s)).fr.tb rfl
@[simp] theorem arbTick_tb (s : State) : (arbTick s).tb = s.tb := (kept_arbTick (Nat.and_self _) (Kept.refl s)).fr.tb rfl
@[simp] theorem schedMode_tb (s : State) : (schedMode s).tb = s.tb := (kept_schedMode (Nat.and_self _) (Kept.refl s)).fr.tb rfl
@[simp] theorem dlProvisional_tb (s : State) : (dlProvisional s).tb = s.tb := (kept_dlProvisional (Nat.and_self _) (Kept.refl s)).fr.tb rfl

/-- What the timebase does at a boundary, the choice of source with its flags and events, leaves the clock. -/
theorem timeTick_clock (s : State) :
    ((timeTick s).tb.tick, (timeTick s).tb.started, (timeTick s).tb.grid) = (s.tb.tick, s.tb.started, s.tb.grid) :=
  (kept_timeTick (Nat.and_self _) (Kept.refl s)).fr.clock rfl

/-- TICK_BOUNDARY while the tick counter runs (R50): of what happens at the boundary only `advance` moves the clock, and only the sampling of
the DI their levels. -/
theorem tickBoundary_advances {s : State} {di : BitVec 16} {bad : List (Nat × Nat)} (ha : alive s = true) (hs : s.tb.started = true) :
    ∃ t, exec (.tickBoundary di bad) s = .next t ∧ t.tb.tick = (s.tb.tick + 1) % 2 ^ 64 ∧
      t.tb.grid = (if hasTime s then s.tb.grid + 1 else s.tb.grid) ∧ t.tb.started = true ∧ t.tb.di = di := by
  change ∃ t, execTickBoundary di s bad = .next t ∧ _
  rw [execTickBoundary, act_of_alive _ ha]
  refine ⟨_, rfl, ?_⟩
  obtain ⟨htick, hstarted, hgrid⟩ := advance_clock s
  have hc := timeTick_clock (advance s)
  simp only [Prod.mk.injEq] at hc
  obtain ⟨ctick, cstarted, cgrid⟩ := hc
  simp [hs, sampleDi, htick, hstarted, hgrid, ctick, cstarted, cgrid]

/-- Before the first acquisition a tick boundary changes nothing (R28). -/
theorem tickBoundary_stands {s : State} {di : BitVec 16} {bad : List (Nat × Nat)} (hs : s.tb.started = false) :
    exec (.tickBoundary di bad) s = .next s := by
  change execTickBoundary di s bad = .next s
  simp [execTickBoundary, act, hs]

/-- PROVISIONAL_TICK in RUN before the first acquisition (R487). -/
theorem provisionalTick_keeps_clock {s : State} (hr : s.pwr.state = .run) (hs : s.tb.started = false) :
    ∃ t, exec .provisionalTick s = .next t ∧ t = dlProvisional (policerTicks (nextEdge s)) ∧
      t.tb.tick = s.tb.tick ∧ t.tb.started = false ∧ t.tb.grid = s.tb.grid := by
  have ha : alive s = true := by simp [alive, hr]
  change ∃ t, execProvisionalTick s = .next t ∧ _
  rw [execProvisionalTick, act_of_alive _ ha]
  refine ⟨_, rfl, ?_⟩
  simp [hs, hr]

/-- Settles O10: the boundary after the first acquisition and before it, and the provisional tick. -/
theorem tickBoundaryAdvancesTheCounter : Obligations.TickBoundaryAdvancesTheCounter :=
  ⟨fun _ _ _ ha hs => tickBoundary_advances ha hs, fun _ _ _ hs => tickBoundary_stands hs, fun _ hr hs => provisionalTick_keeps_clock hr hs⟩

/-! ## The step and the restart of grid time (R46, R68, R78, R79) -/

@[simp] theorem grpWait_tb (g t : Nat) (s : State) : (grpWait g t s).tb = s.tb := (kept_grpWait (Nat.and_self _) (Kept.refl s)).fr.tb rfl
@[simp] theorem mtrBegin_tb (p : Nat) (s : State) : (mtrBegin p s).tb = s.tb := (kept_mtrBegin (Nat.and_self _) (Kept.refl s)).fr.tb rfl
@[simp] theorem masterArm_tb (s : State) : (masterArm s).tb = s.tb := (kept_masterArm (Nat.and_self _) (Kept.refl s)).fr.tb rfl
@[simp] theorem mtrRestart_tb (s : State) : (mtrRestart s).tb = s.tb := (kept_mtrRestart (Nat.and_self _) (Kept.refl s)).fr.tb rfl
@[simp] theorem svRestart_tb (s : State) : (svRestart s).tb = s.tb := (kept_svRestart (Nat.and_self _) (Kept.refl s)).fr.tb rfl
@[simp] theorem icnsStop_tb (g : Nat) (s : State) : (icnsStop g s).tb = s.tb := (kept_icnsStop (Nat.and_self _) (Kept.refl s)).fr.tb rfl
@[simp] theorem groupReinit_tb (g a : Nat) (s : State) : (groupReinit g a s).tb = s.tb :=
  (kept_groupReinit (Nat.and_self _) (Kept.refl s)).fr.tb rfl
@[simp] theorem dlDiscard_tb (s : State) : (dlDiscard s).tb = s.tb := (kept_dlDiscard (Nat.and_self _) (Kept.refl s)).fr.tb rfl

/-- A fold whose steps leave the timebase leaves it. -/
theorem foldl_tb {α : Type} {f : State → α → State} (hf : ∀ s a, (f s a).tb = s.tb) (l : List α) (s : State) : (l.foldl f s).tb = s.tb := by
  induction l generalizing s with
  | nil => rfl
  | cons a l ih => rw [List.foldl_cons, ih, hf]

theorem groupsWait_tb (t : Nat) (s : State) :
    ((List.range 64).foldl (fun s g => if groupEn s.cfg.active g then grpWait g t s else s) s).tb = s.tb :=
  foldl_tb (fun s g => by split <;> simp) _ _

/-- The timebase part of the step (R68): it locks to the source with the offset of R46, and the tick counter does not jump. -/
theorem timeStep_locks (src ns since : Nat) (s : State) :
    (timeStep src ns since s).tb.state = .locked ∧ (timeStep src ns since s).tb.src = src ∧ (timeStep src ns since s).tb.started = true ∧
      (timeStep src ns since s).tb.tick = s.tb.tick ∧ (timeStep src ns since s).tb.ofs = (stepOfs s src).1 := by
  unfold timeStep
  dsimp only
  split <;> simp [shiftTimers, edgeAt]

/-- What begins with grid time, groups, metering points and the capture set, leaves the timebase of the step. -/
theorem tbStep_locks {s : State} {src ns since : Nat} (hr : s.pwr.state = .run) (hs : s.tb.state = .notime)
    (hq : (ranks s).find? (srcQualified s) = some src) :
    ∃ t, exec (.tbStep src ns since) s = .next t ∧ t.tb.state = .locked ∧ t.tb.src = src ∧ t.tb.started = true ∧ t.tb.tick = s.tb.tick ∧
      t.tb.ofs = (stepOfs s src).1 := by
  have ha : alive s = true := by simp [alive, hr]
  change ∃ t, execTbStep src ns since s = .next t ∧ _
  rw [execTbStep, act_of_alive _ ha]
  refine ⟨_, rfl, ?_⟩
  have hstep := timeStep_locks src ns since s
  simp only [hs, hr, hq, beq_self_eq_true, Bool.and_self, if_true, apply_ite State.tb, schedMode_tb, masterArm_tb, ite_self,
    foldl_tb (fun s p => mtrBegin_tb p s), groupsWait_tb]
  exact hstep

/-- TIMEBASE_RESTART of an accepted request (R78): of the timebase only `tbRestarted` changes more than TB_TQ. -/
theorem timebaseRestart_stops {s : State} (ha : alive s = true) (hr : s.tb.restartReq = true) :
    ∃ t, exec .timebaseRestart s = .next t ∧ t.tb.state = .notime ∧ t.tb.src = 0 ∧ t.tb.restartReq = false ∧
      t.tb.tick = s.tb.tick ∧ t.tb.grid = s.tb.grid ∧ t.tb.started = s.tb.started := by
  change ∃ t, execTimebaseRestart s = .next t ∧ _
  rw [execTimebaseRestart, act_of_alive _ ha]
  refine ⟨_, rfl, ?_⟩
  simp [hr, tbRestarted, foldl_tb]

/-- TIMEBASE_RESTART_REQUEST for which no reason of R79 applies. -/
theorem timebaseRestartRequest_taken {s : State} {n key : Nat} (ha : alive s = true) (hv : validFn s n = true) (h : restartReason n key s = 0) :
    exec (.timebaseRestartRequest n key) s = .next { s with tb := { s.tb with restartReq := true } } := by
  change execTimebaseRestartRequest n key s = _
  simp [execTimebaseRestartRequest, act_of_alive _ ha, hv, h]

/-- TIMEBASE_RESTART_REQUEST for which a reason of R79 applies. -/
theorem timebaseRestartRequest_refused {s : State} {n key : Nat} (hl : s.hp.length = 4) (ha : alive s = true) (hv : validFn s n = true)
    (h : restartReason n key s ≠ 0) : ∃ t, exec (.timebaseRestartRequest n key) s = .next t ∧ t.tb = s.tb ∧ flagged t (TB + 4) 3 := by
  change ∃ t, execTimebaseRestartRequest n key s = .next t ∧ _
  rw [execTimebaseRestartRequest, act_of_alive _ ha]
  refine ⟨_, rfl, ?_⟩
  simp only [hv, Bool.not_true, Bool.false_eq_true, h, if_false, raise_tb, tbFlag_tb, true_and]
  exact flagged_raise (flagged_tbFlag hl (by decide))

/-- Settles O11: the step, the restart, and its request taken or refused. -/
theorem stepAndRestartOfGridTime : Obligations.StepAndRestartOfGridTime :=
  ⟨fun _ _ _ _ hr hs hq => tbStep_locks hr hs hq, fun _ ha hr => timebaseRestart_stops ha hr,
    fun _ _ _ ha hv h => timebaseRestartRequest_taken ha hv h, fun _ _ _ hl ha hv h => timebaseRestartRequest_refused hl ha hv h⟩

/-! ## PTP messages received (R60, R61, Table 2-2) -/

/-- A message that Table 2-2 discards: its type, its time or its domain. -/
def ptpDiscards (s : State) (m : PtpMsg) : Prop :=
  m.kind = .management ∨ m.kind = .signalling ∨ m.kind = .other ∨ m.bad = true ∨ m.domain ≠ fld (imgReg s.cfg.active (TB + 0x4C)) 31 24

/-- The port that TB_PTP_CFG names for the time receiver. -/
def ptpReceiver (s : State) : Nat := fld (imgReg s.cfg.active (TB + 0x4C)) 7 4

/-- The port that TB_PTP_CFG names for the hot standby. -/
def ptpStandby (s : State) : Nat := fld (imgReg s.cfg.active (TB + 0x4C)) 11 8

theorem ptpHandle_discarded {s : State} {port : Nat} {m : PtpMsg} (h : ptpDiscards s m) : ptpHandle port m s = count (TB + 0x7C) s := by
  obtain h | h | h | h | h := h <;> simp [ptpHandle, h]

/-- A change of grandmaster leaves what is known of the two ports. -/
theorem noteGm_ports (s : State) : (noteGm s).tb.rxp = s.tb.rxp ∧ (noteGm s).tb.stby = s.tb.stby := by
  unfold noteGm
  dsimp only
  split
  · exact ⟨rfl, rfl⟩
  · split
    · exact ⟨rfl, rfl⟩
    · simp [gmChange]

/-- A reported offset and the notes of qualification leave what is known of the two ports. -/
theorem ptpReported_ports (b : Bool) (m : PtpMsg) (s : State) :
    (ptpReported b m s).tb.rxp = s.tb.rxp ∧ (ptpReported b m s).tb.stby = s.tb.stby := by
  unfold ptpReported
  rw [noteQuals_tb_rxp, noteQuals_tb_stby]
  split
  · rw [reportIf_tb]; exact ⟨rfl, rfl⟩
  · exact ⟨rfl, rfl⟩

theorem ptpHandle_receiver {s : State} {m : PtpMsg} (h : ¬ ptpDiscards s m) :
    (ptpHandle (ptpReceiver s) m s).tb.rxp = ptpLearn s m s.tb.rxp ∧ (ptpHandle (ptpReceiver s) m s).tb.stby = s.tb.stby := by
  simp only [ptpDiscards, not_or, ne_eq, not_not] at h
  obtain ⟨hmgmt, hsig, hother, hbad, hdom⟩ := h
  have e : ptpHandle (ptpReceiver s) m s = ptpReported (!s.tb.stbyUsed && bestAnnounce s m s.tb.rxp) m
      (noteGm { s with tb := { s.tb with rxp := ptpLearn s m s.tb.rxp } }) := by
    simp [ptpHandle, ptpReceiver, hmgmt, hsig, hother, hbad, hdom]
  simp only [e, ptpReported_ports, noteGm_ports, and_self]

theorem ptpHandle_standby {s : State} {m : PtpMsg} (h : ¬ ptpDiscards s m) (hne : ptpStandby s ≠ ptpReceiver s) :
    (ptpHandle (ptpStandby s) m s).tb.stby = ptpLearn s m s.tb.stby ∧ (ptpHandle (ptpStandby s) m s).tb.rxp = s.tb.rxp := by
  simp only [ptpDiscards, not_or, ne_eq, not_not] at h
  obtain ⟨hmgmt, hsig, hother, hbad, hdom⟩ := h
  have hne : fld (imgReg s.cfg.active (TB + 0x4C)) 11 8 ≠ fld (imgReg s.cfg.active (TB + 0x4C)) 7 4 := hne
  have e : ptpHandle (ptpStandby s) m s = ptpReported (s.tb.stbyUsed && bestAnnounce s m s.tb.stby) m
      (noteGm { s with tb := { s.tb with stby := ptpLearn s m s.tb.stby } }) := by
    simp [ptpHandle, ptpStandby, hne, hmgmt, hsig, hother, hbad, hdom]
  simp only [e, ptpReported_ports, noteGm_ports, and_self]

/-- PTP_MSG_RX handles the message of the oldest PTP frame handed on. -/
theorem exec_ptpMsgRx {s u : State} {h : Handed} {m : PtpMsg} (ha : alive s = true) (hq : takeHanded .ptp s = some (h, u))
    (hk : h.frame.kind = .ptp m) : exec .ptpMsgRx s = .next (ptpHandle h.frame.port m u) := by
  change execPtpMsgRx s = _
  rw [execPtpMsgRx, act_of_alive _ ha]
  simp only [ptpMsgRx, hq, hk]

/-- Taking a frame leaves the image and what is known of the two PTP ports. -/
theorem takeHanded_ports {s u : State} {c : FrameClass} {h : Handed} (hq : takeHanded c s = some (h, u)) :
    u.cfg = s.cfg ∧ u.tb.rxp = s.tb.rxp ∧ u.tb.stby = s.tb.stby := by
  obtain ⟨x, rfl⟩ := takeHanded_some hq
  exact ⟨rfl, rfl, rfl⟩

theorem ptpMsgRx_discarded {s u : State} {h : Handed} {m : PtpMsg} (ha : alive s = true) (hq : takeHanded .ptp s = some (h, u))
    (hk : h.frame.kind = .ptp m) (hd : ptpDiscards s m) : exec .ptpMsgRx s = .next (count (TB + 0x7C) u) := by
  have hu : ptpDiscards u m := by rwa [ptpDiscards, (takeHanded_ports hq).1]
  rw [exec_ptpMsgRx ha hq hk, ptpHandle_discarded hu]

theorem ptpMsgRx_receiver {s u : State} {h : Handed} {m : PtpMsg} (ha : alive s = true) (hq : takeHanded .ptp s = some (h, u))
    (hk : h.frame.kind = .ptp m) (hd : ¬ ptpDiscards s m) (hport : h.frame.port = ptpReceiver s) :
    ∃ t, exec .ptpMsgRx s = .next t ∧ t.tb.rxp = ptpLearn u m s.tb.rxp ∧ t.tb.stby = s.tb.stby := by
  obtain ⟨hcfg, hrxp, hstby⟩ := takeHanded_ports hq
  have hu : ¬ ptpDiscards u m := by rwa [ptpDiscards, hcfg]
  have hp : h.frame.port = ptpReceiver u := by rw [hport, ptpReceiver, ptpReceiver, hcfg]
  refine ⟨_, exec_ptpMsgRx ha hq hk, ?_⟩
  rw [hp, ← hrxp, ← hstby]
  exact ptpHandle_receiver hu

theorem ptpMsgRx_standby {s u : State} {h : Handed} {m : PtpMsg} (ha : alive s = true) (hq : takeHanded .ptp s = some (h, u))
    (hk : h.frame.kind = .ptp m) (hd : ¬ ptpDiscards s m) (hport : h.frame.port = ptpStandby s) (hne : h.frame.port ≠ ptpReceiver s) :
    ∃ t, exec .ptpMsgRx s = .next t ∧ t.tb.stby = ptpLearn u m s.tb.stby ∧ t.tb.rxp = s.tb.rxp := by
  obtain ⟨hcfg, hrxp, hstby⟩ := takeHanded_ports hq
  have hu : ¬ ptpDiscards u m := by rwa [ptpDiscards, hcfg]
  have hp : h.frame.port = ptpStandby u := by rw [hport, ptpStandby, ptpStandby, hcfg]
  have hr : ptpStandby u ≠ ptpReceiver u := by rwa [← hp, ptpReceiver, hcfg]
  refine ⟨_, exec_ptpMsgRx ha hq hk, ?_⟩
  rw [hp, ← hrxp, ← hstby]
  exact ptpHandle_standby hu hr

/-! ## What a port learns of its source (Table 2-2) -/

/-- Whether an Announce is of the best master does not depend on the port state. -/
theorem ptpLearn_announce {s : State} {m : PtpMsg} {p : PtpPort} (hk : m.kind = .announce) :
    ptpLearn s m p = if bestAnnounce s m p then
      { p with portState := m.portState, lastAnn := some m.rxNs, annInterval := m.annInterval, gmId := m.gmId, gmClass := m.gmClass,
               steps := m.steps, gmData := m.gmData, timeInacc := m.timeInacc, netInacc := m.netInacc, ofs := m.ofs, leap61 := m.leap61,
               leap59 := m.leap59 }
      else { p with portState := m.portState } := by
  have hb : bestAnnounce s m { p with portState := m.portState } = bestAnnounce s m p := rfl
  cases h : bestAnnounce s m p <;> simp [ptpLearn, hk, hb, h]

theorem ptpLearn_sync {s : State} {m : PtpMsg} {p : PtpPort} (hk : m.kind = .sync ∨ m.kind = .followUp) :
    ptpLearn s m p = { p with portState := m.portState, lastSync := some m.rxNs } := by
  obtain hk | hk := hk <;> simp [ptpLearn, hk]

theorem ptpLearn_pdelayResp {s : State} {m : PtpMsg} {p : PtpPort} (hk : m.kind = .pdelayResp ∨ m.kind = .pdelayRespFollowUp) :
    ptpLearn s m p = { p with portState := m.portState, meanLink := m.meanLink } := by
  obtain hk | hk := hk <;> simp [ptpLearn, hk]

theorem ptpLearn_pdelayReq {s : State} {m : PtpMsg} {p : PtpPort} (hk : m.kind = .pdelayReq) :
    ptpLearn s m p = { p with portState := m.portState } := by
  simp [ptpLearn, hk]

/-! ## PTP messages sent (R62, R75, R76) -/

/-- The tail of an event message over UDP (R76); other messages have none. -/
def ptpTail (s : State) (k : PtpKind) : Option Nat :=
  if ptpEvent k && fld (imgReg s.cfg.active (TB + 0x4C)) 1 0 != 0 then some 0 else none

/-- The port is a time transmitter. -/
def ptpTransmits (s : State) (n : Nat) : Prop := Nat.testBit (fld (imgReg s.cfg.active (TB + 0x4C)) 23 12) n = true

/-- The message that PTP_MSG_TX sends (R62). -/
def ptpOutgoing (s : State) (x : PtpSend) : PtpTx :=
  match x.kind with
  | .announce => announceMsg s
  | .pdelayResp => { kind := .pdelayResp, reqRx := x.reqRx }
  | k => { kind := k }

/-- The state in which that message waits on its port. -/
def ptpQueued (s : State) (x : PtpSend) : State :=
  enqueue1 x.port (.ptp { ptpOutgoing s x with tail := ptpTail s x.kind }) (ptpLen s x.kind) none none s

/-- An Announce in the name of the grandmaster in use while PTP supplies time. -/
theorem announceMsg_of_ptp {s : State} (h : s.tb.src = 1) :
    (announceMsg s).kind = .announce ∧ (announceMsg s).steps = (ptpActive s).steps + 1 ∧ (announceMsg s).gmId = s.tb.gm ∧
      (announceMsg s).clockClass = (ptpActive s).gmClass := by
  simp [announceMsg, h]

/-- An Announce in the module's own name while PTP does not supply time. -/
theorem announceMsg_own {s : State} (h : s.tb.src ≠ 1) :
    (announceMsg s).kind = .announce ∧ (announceMsg s).steps = 0 ∧ (announceMsg s).clockClass = ownClass s := by
  simp [announceMsg, h]

theorem announceMsg_kind (s : State) : (announceMsg s).kind = .announce := by
  by_cases h : s.tb.src = 1
  · exact (announceMsg_of_ptp h).1
  · exact (announceMsg_own h).1

/-- Announce and Sync leave a time-transmitter port. -/
theorem exec_ptpMsgTx_transmitter {s : State} {x : PtpSend} (ha : alive s = true) (hp : x.port < 12) (ht : ptpTransmits s x.port)
    (hk : x.kind = .announce ∨ x.kind = .sync) : exec (.ptpMsgTx x) s = .next (ptpQueued s x) := by
  have ht : Nat.testBit (fld (imgReg s.cfg.active (TB + 0x4C)) 23 12) x.port = true := ht
  change execPtpMsgTx x s = _
  rw [execPtpMsgTx, act_of_alive _ ha]
  obtain hk | hk := hk <;> simp [ptpQueued, ptpOutgoing, ptpTail, announceMsg_kind, hp, ht, hk]

/-- Pdelay messages leave every PTP port. -/
theorem exec_ptpMsgTx_pdelay {s : State} {x : PtpSend} (ha : alive s = true) (hp : x.port < 12)
    (ht : ptpTransmits s x.port ∨ ptpReceiver s = x.port ∨ ptpStandby s = x.port) (hk : x.kind = .pdelayReq ∨ x.kind = .pdelayResp) :
    exec (.ptpMsgTx x) s = .next (ptpQueued s x) := by
  simp only [ptpTransmits, ptpReceiver, ptpStandby] at ht
  change execPtpMsgTx x s = _
  rw [execPtpMsgTx, act_of_alive _ ha]
  obtain hk | hk := hk <;> simp [ptpQueued, ptpOutgoing, ptpTail, hp, ht, hk]

/-- Other message types are not sent. -/
theorem exec_ptpMsgTx_other {s : State} {x : PtpSend} (ha : alive s = true)
    (hk : x.kind = .followUp ∨ x.kind = .pdelayRespFollowUp ∨ x.kind = .management ∨ x.kind = .signalling ∨ x.kind = .other) :
    exec (.ptpMsgTx x) s = .next s := by
  change execPtpMsgTx x s = _
  rw [execPtpMsgTx, act_of_alive _ ha]
  obtain hk | hk | hk | hk | hk := hk <;> simp only [hk]

/-- On a port with its link up the message stands behind the frames that wait. -/
theorem ptpQueued_waits {s : State} {x : PtpSend} (hl : (portOf s x.port).linkUp = true) (hm : max 64 (ptpLen s x.kind) ≤ maxLen s x.port) :
    ∃ f, queuedAt s (ptpQueued s x) x.port f ∧ f.body = .ptp { ptpOutgoing s x with tail := ptpTail s x.kind } ∧
      f.len = max 64 (ptpLen s x.kind) :=
  ⟨_, enqueue1_queued hl hm, rfl, rfl⟩

theorem ptpMsgTx_transmits {s : State} {x : PtpSend} (ha : alive s = true) (hp : x.port < 12) (hl : (portOf s x.port).linkUp = true)
    (hm : max 64 (ptpLen s x.kind) ≤ maxLen s x.port) (ht : ptpTransmits s x.port) (hk : x.kind = .announce ∨ x.kind = .sync) :
    ∃ t f m, exec (.ptpMsgTx x) s = .next t ∧ queuedAt s t x.port f ∧ f.body = .ptp m ∧ m.kind = x.kind ∧
      f.len = max 64 (ptpLen s x.kind) ∧
      (x.kind = .announce → s.tb.src = 1 → m.steps = (ptpActive s).steps + 1 ∧ m.gmId = s.tb.gm ∧ m.clockClass = (ptpActive s).gmClass) ∧
      (x.kind = .announce → s.tb.src ≠ 1 → m.steps = 0 ∧ m.clockClass = ownClass s) := by
  obtain ⟨f, hf, hbody, hlen⟩ := ptpQueued_waits hl hm
  refine ⟨_, f, _, exec_ptpMsgTx_transmitter ha hp ht hk, hf, hbody, ?_, hlen, fun hann hsrc => ?_, fun hann hsrc => ?_⟩
  · obtain hk | hk := hk <;> simp [ptpOutgoing, announceMsg_kind, hk]
  · simpa only [ptpOutgoing, hann] using (announceMsg_of_ptp hsrc).2
  · simpa only [ptpOutgoing, hann] using (announceMsg_own hsrc).2

theorem ptpMsgTx_answers_pdelay {s : State} {x : PtpSend} (ha : alive s = true) (hp : x.port < 12) (hl : (portOf s x.port).linkUp = true)
    (hm : max 64 (ptpLen s x.kind) ≤ maxLen s x.port) (ht : ptpTransmits s x.port ∨ ptpReceiver s = x.port ∨ ptpStandby s = x.port)
    (hk : x.kind = .pdelayReq ∨ x.kind = .pdelayResp) :
    ∃ t f m, exec (.ptpMsgTx x) s = .next t ∧ queuedAt s t x.port f ∧ f.body = .ptp m ∧ m.kind = x.kind ∧
      f.len = max 64 (ptpLen s x.kind) ∧ (x.kind = .pdelayResp → m.reqRx = x.reqRx) := by
  obtain ⟨f, hf, hbody, hlen⟩ := ptpQueued_waits hl hm
  refine ⟨_, f, _, exec_ptpMsgTx_pdelay ha hp ht hk, hf, hbody, ?_, hlen, fun hresp => ?_⟩
  · obtain hk | hk := hk <;> simp [ptpOutgoing, hk]
  · simp [ptpOutgoing, hresp]

/-- Settles O18: messages discarded and taken, what a port learns of one, and messages sent or not. -/
theorem ptpMessages : Obligations.PtpMessages := by
  refine ⟨fun s u h m ha hq hk hd => ptpMsgRx_discarded ha hq hk hd, fun s u h m ha hq hk hmgmt hsig hother hbad hdom => ?_,
    fun s m p q hq => ?_, fun s x ha hp hl hm => ⟨ptpMsgTx_transmits ha hp hl hm, ptpMsgTx_answers_pdelay ha hp hl hm⟩,
    fun s x ha hk => exec_ptpMsgTx_other ha hk⟩
  · have hd : ¬ ptpDiscards s m := by simp [ptpDiscards, hmgmt, hsig, hother, hbad, hdom]
    exact ⟨ptpMsgRx_receiver ha hq hk hd, ptpMsgRx_standby ha hq hk hd⟩
  · subst hq
    exact ⟨fun hk hb => by simp [ptpLearn_announce hk, hb], fun hk hb => by simp [ptpLearn_announce hk, hb], ptpLearn_sync,
      ptpLearn_pdelayResp, ptpLearn_pdelayReq⟩

end Sys2Proof.Machine

/-!
Ethernet ports (chapter 3): what the shared operations of a port leave and change, then links, pause, reception, departure and PRP.
-/
namespace Sys2Proof.Machine

/-! ## What the ports are under operations that do not concern them -/

theorem portOf_congr {s t : State} (h : t.eth = s.eth) (n : Nat) : portOf t n = portOf s n := by
  rw [portOf, h, portOf]

@[simp] theorem ethCount_eth (n off : Nat) (s : State) : (ethCount n off s).eth = s.eth := count_eth ..
@[simp] theorem ethFlag_eth (n b : Nat) (s : State) : (ethFlag n b s).eth = s.eth := setFlag_eth ..
@[simp] theorem octets_eth (n off rem len : Nat) (s : State) : (octets n off rem len s).eth = s.eth := countN_eth ..
@[simp] theorem prpCount_eth (p off : Nat) (s : State) : (prpCount p off s).eth = s.eth := count_eth ..
@[simp] theorem txHostDone_eth (fn id port status : Nat) (dep : Option Nat) (s : State) : (txHostDone fn id port status dep s).eth = s.eth :=
  (kept_txHostDone (Nat.and_self _) (Kept.refl s)).fr.eth rfl
@[simp] theorem discardTx_eth (n : Nat) (t : TxFrame) (s : State) : (discardTx n t s).eth = s.eth :=
  (kept_discardTx (Nat.and_self _) (Kept.refl s)).fr.eth rfl
@[simp] theorem rxFec_eth (f : Frame) (s : State) : (rxFec f s).eth = s.eth := (kept_rxFec (Nat.and_self _) (Kept.refl s)).fr.eth rfl
@[simp] theorem frameDeparted_eth (t : TxFrame) (dep : Nat) (s : State) : (frameDeparted t dep s).eth = s.eth :=
  (kept_frameDeparted (Nat.and_self _) (Kept.refl s)).fr.eth rfl
@[simp] theorem calfaDown_eth (s : State) : (calfaDown s).eth = s.eth := (kept_calfaDown (Nat.and_self _) (Kept.refl s)).fr.eth rfl

@[simp] theorem portOf_seen (ns : Nat) (s : State) (n : Nat) : portOf (seen ns s) n = portOf s n := rfl
@[simp] theorem portOf_raise (code : Nat) (o : EvObj) (arg : List Byte) (s : State) (n : Nat) : portOf (raise code o arg s) n = portOf s n :=
  portOf_congr (raise_eth ..) n
@[simp] theorem portOf_ethCount (k off : Nat) (s : State) (n : Nat) : portOf (ethCount k off s) n = portOf s n := portOf_congr (ethCount_eth ..) n
@[simp] theorem portOf_ethFlag (k b : Nat) (s : State) (n : Nat) : portOf (ethFlag k b s) n = portOf s n := portOf_congr (ethFlag_eth ..) n
@[simp] theorem portOf_octets (k off rem len : Nat) (s : State) (n : Nat) : portOf (octets k off rem len s) n = portOf s n :=
  portOf_congr (octets_eth ..) n
@[simp] theorem portOf_frameDeparted (t : TxFrame) (dep : Nat) (s : State) (n : Nat) : portOf (frameDeparted t dep s) n = portOf s n :=
  portOf_congr (frameDeparted_eth ..) n
@[simp] theorem portOf_calfaDown (s : State) (n : Nat) : portOf (calfaDown s) n = portOf s n := portOf_congr (calfaDown_eth s) n

@[simp] theorem portOf_modPort_self (n : Nat) (f : Port → Port) (s : State) : portOf (modPort n f s) n = f (portOf s n) := by
  simp [portOf_modPort]

theorem portOf_modPort_of_ne {n m : Nat} (h : m ≠ n) (f : Port → Port) (s : State) : portOf (modPort n f s) m = portOf s m := by
  simp [portOf_modPort, h]

/-! ## A free transmitter begins a frame (R93, R97) -/

/-- Beginning a frame changes nothing but the table of ports. -/
theorem beginFree_ports (n : Nat) (s : State) : ∃ l, beginFree n s = { s with eth := { s.eth with ports := l } } := by
  unfold beginFree
  split
  · exact ⟨s.eth.ports, rfl⟩
  · exact ⟨_, rfl⟩

/-- A data port waits for the arbiter. -/
theorem beginFree_of_data {n : Nat} (h : n < 12) (s : State) : beginFree n s = s := if_pos h

/-- Of a port, beginning a frame moves only frames. -/
theorem portOf_beginFree (n : Nat) (s : State) (m : Nat) :
    ∃ c q, portOf (beginFree n s) m = { portOf s m with cur := c, txq := q } := by
  unfold beginFree
  split
  · exact ⟨_, _, rfl⟩
  · rw [portOf_modPort]
    split
    next h =>
      subst h
      split
      · split <;> exact ⟨_, _, rfl⟩
      · exact ⟨_, _, rfl⟩
    next => exact ⟨_, _, rfl⟩

theorem portOf_beginFree_of_ne {n m : Nat} (h : m ≠ n) (s : State) : portOf (beginFree n s) m = portOf s m := by
  unfold beginFree
  split
  · rfl
  · exact portOf_modPort_of_ne h _ s

@[simp] theorem beginFree_linkUp (n : Nat) (s : State) (m : Nat) : (portOf (beginFree n s) m).linkUp = (portOf s m).linkUp := by
  obtain ⟨c, q, h⟩ := portOf_beginFree n s m
  rw [h]
@[simp] theorem beginFree_pcsLock (n : Nat) (s : State) (m : Nat) : (portOf (beginFree n s) m).pcsLock = (portOf s m).pcsLock := by
  obtain ⟨c, q, h⟩ := portOf_beginFree n s m
  rw [h]
@[simp] theorem beginFree_pauseEnd (n : Nat) (s : State) (m : Nat) : (portOf (beginFree n s) m).pauseEnd = (portOf s m).pauseEnd := by
  obtain ⟨c, q, h⟩ := portOf_beginFree n s m
  rw [h]
@[simp] theorem beginFree_held (n : Nat) (s : State) (m : Nat) : (portOf (beginFree n s) m).held = (portOf s m).held := by
  obtain ⟨c, q, h⟩ := portOf_beginFree n s m
  rw [h]
@[simp] theorem beginFree_txRem (n : Nat) (s : State) (m : Nat) : (portOf (beginFree n s) m).txRem = (portOf s m).txRem := by
  obtain ⟨c, q, h⟩ := portOf_beginFree n s m
  rw [h]
@[simp] theorem beginFree_lastTx (n : Nat) (s : State) (m : Nat) : (portOf (beginFree n s) m).lastTx = (portOf s m).lastTx := by
  obtain ⟨c, q, h⟩ := portOf_beginFree n s m
  rw [h]

/-- SVC and the Calfa link, with their link up and no pause received, stay idle only when nothing waits. -/
theorem beginFree_idle {n : Nat} {s : State} (hn : 12 ≤ n) (hl : (portOf s n).linkUp = true) (hp : (portOf s n).pauseEnd = none)
    (hc : (portOf (beginFree n s) n).cur = none) : (portOf (beginFree n s) n).txq = [] := by
  have hn : ¬ n < 12 := by omega
  rw [beginFree, if_neg hn, portOf_modPort_self] at hc ⊢
  cases hcur : (portOf s n).cur with
  | some f => simp [hcur] at hc
  | none => cases hq : (portOf s n).txq with
    | nil => simp [hq]
    | cons f l => simp [hcur, hq, hl, hp] at hc

@[simp] theorem beginFree_hp (n : Nat) (s : State) : (beginFree n s).hp = s.hp := by
  obtain ⟨l, h⟩ := beginFree_ports n s
  rw [h]
@[simp] theorem beginFree_cnt (n : Nat) (s : State) : (beginFree n s).cnt = s.cnt := by
  obtain ⟨l, h⟩ := beginFree_ports n s
  rw [h]

/-! ## Frames discarded -/

theorem foldl_discardTx_eth (n : Nat) (l : List TxFrame) (s : State) : (l.foldl (fun s t => discardTx n t s) s).eth = s.eth := by
  induction l generalizing s with
  | nil => rfl
  | cons t l ih => rw [List.foldl_cons, ih, discardTx_eth]

theorem portOf_discardIf (c : TxFrame → Bool) (n : Nat) (s : State) :
    portOf (discardIf c n s) n = { portOf s n with txq := (portOf s n).txq.filter (fun t => !c t) } := by
  rw [discardIf, portOf_congr (foldl_discardTx_eth ..), portOf_modPort_self]

theorem txDue_congr {s t : State} (h : t.tb = s.tb) : txDue t = txDue s := by
  funext f
  simp only [txDue, h]

/-! ## Links (R83, R84, Table 1-6) -/

theorem exec_linkUp {s : State} {n : Nat} {pcs fec an : Bool} {speed : Nat} (ha : alive s = true) (hn : n < 14)
    (hr : linkMayRise s n pcs fec an speed = true) (hd : (portOf s n).linkUp = false) :
    exec (.linkUp n pcs fec an speed) s = .next (raise 0x0301 .all (leBytes 1 n) (ethFlag n 0 (beginFree n
      (modPort n (fun p => { p with linkUp := true })
        (modPort n (fun p => { p with pcsLock := pcs, fecLock := fec && portMode s n == 2 }) s))))) := by
  change execLinkUp n pcs fec an speed s = _
  rw [execLinkUp, act_of_alive _ ha]
  have hr' : linkMayRise (modPort n (fun p => { p with pcsLock := pcs, fecLock := fec && portMode s n == 2 }) s) n pcs fec an speed = true := hr
  simp [hn, hr', hd]

/-- LINK_UP with the conditions of R83 on a port that is down. -/
theorem linkUp_rises {s : State} {n : Nat} {pcs fec an : Bool} {speed : Nat} (hl : s.hp.length = 4) (ha : alive s = true) (hn : n < 14)
    (hr : linkMayRise s n pcs fec an speed = true) (hd : (portOf s n).linkUp = false) :
    ∃ t, exec (.linkUp n pcs fec an speed) s = .next t ∧ (portOf t n).linkUp = true ∧ (portOf t n).pcsLock = pcs ∧
      flagged t (portBase n + 8) 0 ∧ ∀ m, m ≠ n → portOf t m = portOf s m := by
  refine ⟨_, exec_linkUp ha hn hr hd, by simp, by simp, flagged_raise (flagged_setFlag (by simp [hl]) (by decide)), fun m hm => ?_⟩
  simp [portOf_beginFree_of_ne hm, portOf_modPort_of_ne hm]

/-- The frames that a falling link cuts off: the one in reception counts in RX_SYMBOL, the one in transmission is discarded (R92). -/
def cutOff (n : Nat) (rxCut : Bool) (s : State) : State :=
  let s := if rxCut then ethCount n 0x118 s else s
  match (portOf s n).cur with
  | some t => discardTx n t s
  | none => s

/-- Cutting frames off leaves the ports and the timebase, and the functions are still four. -/
theorem cutOff_keeps (n : Nat) (rxCut : Bool) (s : State) :
    (cutOff n rxCut s).eth = s.eth ∧ (cutOff n rxCut s).tb = s.tb ∧ (s.hp.length = 4 → (cutOff n rxCut s).hp.length = 4) := by
  -- The mask is that of `kept_discardTx`, which counts too.
  have h : Kept 982252233059233087619072 s (cutOff n rxCut s) := by
    have hr : Kept 982252233059233087619072 s (if rxCut then ethCount n 0x118 s else s) := by
      split
      · exact kept_ethCount rfl (Kept.refl s)
      · exact Kept.refl s
    unfold cutOff
    dsimp only
    split
    · exact kept_discardTx rfl hr
    · exact hr
  exact ⟨h.fr.eth rfl, h.fr.tb rfl, h.hp⟩

theorem portDown_eq {s : State} {n : Nat} (rxCut : Bool) (hu : (portOf s n).linkUp = true) :
    portDown n rxCut s = raise 0x0302 .all (leBytes 1 n) (ethFlag n 1 (ethCount n 0x140
      (modPort n (fun p => { p with linkUp := false, pcsLock := false, fecLock := false, pauseEnd := none, held := 0, xoff := false, cur := none })
        (discardIf (txDue (cutOff n rxCut s)) n (cutOff n rxCut s))))) := by
  rw [portDown, if_pos hu]
  rfl

/-- What LINK_DOWN leaves of a port that was up: the frames whose stage deadline has not come, and no pause. -/
theorem portOf_portDown {s : State} {n : Nat} (rxCut : Bool) (hu : (portOf s n).linkUp = true) :
    portOf (portDown n rxCut s) n = { portOf s n with
      linkUp := false, pcsLock := false, fecLock := false, pauseEnd := none, held := 0, xoff := false, cur := none
      txq := (portOf s n).txq.filter (fun f => !txDue s f) } := by
  obtain ⟨heth, htb, -⟩ := cutOff_keeps n rxCut s
  rw [portDown_eq rxCut hu, portOf_raise, portOf_ethFlag, portOf_ethCount, portOf_modPort_self, portOf_discardIf, portOf_congr heth,
    txDue_congr htb]

theorem flagged_portDown {s : State} {n : Nat} (rxCut : Bool) (hl : s.hp.length = 4) (hu : (portOf s n).linkUp = true) :
    flagged (portDown n rxCut s) (portBase n + 8) 1 := by
  obtain ⟨-, -, hfour⟩ := cutOff_keeps n rxCut s
  have hfour : (discardIf (txDue (cutOff n rxCut s)) n (cutOff n rxCut s)).hp.length = 4 :=
    (kept_discardIf (Nat.and_self _) (Kept.refl _)).hp (hfour hl)
  rw [portDown_eq rxCut hu]
  exact flagged_raise (flagged_setFlag ((kept_ethCount (Nat.and_self _) (Kept.refl _)).hp hfour) (by decide))

theorem exec_linkDown {s : State} {n : Nat} (rxCut : Bool) (ha : alive s = true) (hn : n < 13) :
    exec (.linkDown n rxCut) s = .next (portDown n rxCut s) := by
  have hne : ¬ 14 ≤ n := by omega
  have h13 : n ≠ 13 := by omega
  change execLinkDown n rxCut s = _
  rw [execLinkDown, act_of_alive _ ha]
  simp [hne, h13]

theorem exec_linkDown_calfa {s : State} (rxCut : Bool) (ha : alive s = true) (hu : (portOf s 13).linkUp = true) :
    exec (.linkDown 13 rxCut) s = .next (calfaDown (portDown 13 rxCut s)) := by
  change execLinkDown 13 rxCut s = _
  rw [execLinkDown, act_of_alive _ ha]
  simp [hu]

theorem calfaDown_calfaOk (s : State) : (calfaDown s).pair.calfaOk = false := by
  simp only [calfaDown, pairUnsync]
  split <;> simp [pairFlag, modUnit]

/-- Settles O19: a link that rises, one that falls, and the Calfa link that falls. -/
theorem linkUpAndLinkDown : Obligations.LinkUpAndLinkDown := by
  refine ⟨fun s n pcs fec an speed hl ha hn hr hd => linkUp_rises hl ha hn hr hd, fun s n cut hl ha hn hu => ?_, fun s cut ha hu => ?_⟩
  · refine ⟨_, exec_linkDown cut ha hn, ?_, ?_, ?_, ?_, ?_, flagged_portDown cut hl hu⟩ <;> rw [portOf_portDown cut hu]
  · exact ⟨_, exec_linkDown_calfa cut ha hu, by rw [portOf_calfaDown, portOf_portDown cut hu], calfaDown_calfaOk _⟩

/-! ## Receive buffers (R86 to R89, R97) -/

/-- Sending a pause frame changes nothing but the ports and the number of the next frame. -/
theorem sendPause_eth (n quanta ns : Nat) (s : State) :
    ∃ l i, sendPause n quanta ns s = { s with eth := { s.eth with ports := l, txId := i } } := by
  obtain ⟨l, h⟩ := beginFree_ports n (modPort n (fun p => { p with
    txq := { id := s.eth.txId, body := .pause quanta ns, len := 64, born := s.tb.tick } :: p.txq, xoff := quanta != 0, xoffAt := ns })
    { s with eth := { s.eth with txId := s.eth.txId + 1 } })
  exact ⟨l, _, h⟩

/-- Behind the frame in progress and ahead of every waiting frame. -/
theorem sendPause_order (n quanta ns : Nat) (s : State) :
    (portOf (sendPause n quanta ns s) n).cur.toList ++ (portOf (sendPause n quanta ns s) n).txq = (portOf s n).cur.toList ++
      { id := s.eth.txId, body := .pause quanta ns, len := 64, born := s.tb.tick } :: (portOf s n).txq := by
  rw [sendPause, beginFree_order, portOf_modPort_self]
  rfl

/-- Receive buffers that drain change nothing but the ports and the number of the next frame. -/
theorem rxDrained_ports (n ns : Nat) (s : State) : ∃ l i, rxDrained n ns s = { s with eth := { s.eth with ports := l, txId := i } } := by
  unfold rxDrained
  split
  · exact sendPause_eth n 0 ns s
  · exact ⟨s.eth.ports, s.eth.txId, rfl⟩

@[simp] theorem rxDrained_cfg (n ns : Nat) (s : State) : (rxDrained n ns s).cfg = s.cfg := by
  obtain ⟨l, i, h⟩ := rxDrained_ports n ns s
  rw [h]
@[simp] theorem rxDrained_cnt (n ns : Nat) (s : State) : (rxDrained n ns s).cnt = s.cnt := by
  obtain ⟨l, i, h⟩ := rxDrained_ports n ns s
  rw [h]
@[simp] theorem rxDrained_handed (n ns : Nat) (s : State) : (rxDrained n ns s).eth.handed = s.eth.handed := by
  obtain ⟨l, i, h⟩ := rxDrained_ports n ns s
  rw [h]

/-- Storing a frame raises the peak of the receive buffer and may ask the partner for a pause: of the counters none moves, and no frame is
handed on. -/
theorem rxStore_keeps (f : Frame) (s : State) :
    (rxStore f s).cfg = s.cfg ∧ (rxStore f s).cnt = s.cnt ∧ (rxStore f s).eth.handed = s.eth.handed := by
  unfold rxStore
  dsimp only
  split
  · obtain ⟨l, i, h⟩ := sendPause_eth f.port (fld (imgReg s.cfg.active (portBase f.port + 0xC)) 31 16) f.arrival
      (rcMax s (portBase f.port + 0x20) 0 (ceilDiv (rxFillOf s f.port + min f.len (maxLen s f.port)) 1024))
    rw [h]
    simp
  · simp

/-- The state in which the receive checks judge a frame: it is stored, and its codewords are counted. -/
def rxStored (f : Frame) (s : State) : State := rxStore f (rxFec f (seen f.arrival s))

@[simp] theorem rxFec_cfg (f : Frame) (s : State) : (rxFec f s).cfg = s.cfg := (kept_rxFec (Nat.and_self _) (Kept.refl s)).fr.cfg rfl

@[simp] theorem rxStored_cfg (f : Frame) (s : State) : (rxStored f s).cfg = s.cfg := by
  obtain ⟨hcfg, -, -⟩ := rxStore_keeps f (rxFec f (seen f.arrival s))
  simp [rxStored, hcfg]

@[simp] theorem rxStored_handed (f : Frame) (s : State) : (rxStored f s).eth.handed = s.eth.handed := by
  obtain ⟨-, -, hhanded⟩ := rxStore_keeps f (rxFec f (seen f.arrival s))
  simp [rxStored, hhanded]

/-- The receive checks look at the frame and the configuration alone. -/
theorem rxFault_congr {s t : State} (h : t.cfg = s.cfg) (f : Frame) : rxFault t f = rxFault s f := by
  unfold rxFault portMode maxLen
  rw [h]

theorem rxRoom_of_le {s : State} {f : Frame} (h : rxFillOf s f.port + maxLen s f.port ≤ bufKib f.port * 1024) :
    ¬ bufKib f.port * 1024 < rxFillOf (rxFec f (seen f.arrival s)) f.port + maxLen (rxFec f (seen f.arrival s)) f.port := by
  simp only [rxFillOf, rxHeld, maxLen, rxFec_eth, rxFec_cfg, seen_eth, seen_cfg] at h ⊢
  omega

/-- A frame for which the buffer has room and that fails a check (R88, R89). -/
theorem rxChecks_faulty {s : State} {f : Frame} {c : Nat} (hroom : rxFillOf s f.port + maxLen s f.port ≤ bufKib f.port * 1024)
    (hf : rxFault s f = some c) :
    rxChecks f s = (rxDrained f.port f.arrival (ethCount f.port c (rxStored f s)), false) := by
  have hf : rxFault (rxStore f (rxFec f (seen f.arrival s))) f = some c := (rxFault_congr (rxStored_cfg f s) f).trans hf
  rw [rxChecks, if_neg (rxRoom_of_le hroom)]
  simp only [hf]
  rfl

/-- A MAC control frame for which the buffer has room and that passes the checks (R93). -/
theorem rxChecks_pause {s : State} {f : Frame} {op q : Nat} (hroom : rxFillOf s f.port + maxLen s f.port ≤ bufKib f.port * 1024)
    (hf : rxFault s f = none) (hk : f.kind = .macCtl op q) :
    rxChecks f s = (obeyPause f.port f.dst q f.arrival (rxDrained f.port f.arrival (rxStored f s)), false) := by
  have hf : rxFault (rxStore f (rxFec f (seen f.arrival s))) f = none := (rxFault_congr (rxStored_cfg f s) f).trans hf
  rw [rxChecks, if_neg (rxRoom_of_le hroom)]
  simp only [hf, hk]
  rfl

/-! ## Received pause (R93 to R97) -/

/-- A pause frame addressed to the port sets the end of its pause. -/
theorem obeyPause_pauseEnd {n dst q arrival : Nat} {s : State} (hd : dst = pauseMac ∨ dst = portMac s n) :
    (portOf (obeyPause n dst q arrival s) n).pauseEnd =
      (if q = 0 then none else some (arrival + ceilDiv (q * 512000) (modeSpeed (portMode s n)))) := by
  have hcfg : (ethCount n 0x11C s).cfg = s.cfg := count_cfg ..
  rw [obeyPause, if_pos hd]
  by_cases hq : q = 0
  · simp [hq]
  · simp [hq, portMode, hcfg]

/-- PAUSE_FRAME_RX of a frame that passes the checks and is addressed to the port. -/
theorem pauseFrameRx_holds {s : State} {f : Frame} {op q : Nat} (ha : alive s = true) (hk : f.kind = .macCtl op q) (hp : f.port < 14)
    (hu : (portOf s f.port).linkUp = true) (hroom : rxFillOf s f.port + maxLen s f.port ≤ bufKib f.port * 1024) (hf : rxFault s f = none)
    (hd : f.dst = pauseMac ∨ f.dst = portMac s f.port) :
    ∃ t, exec (.pauseFrameRx f) s = .next t ∧ (portOf t f.port).pauseEnd =
      (if q = 0 then none else some (f.arrival + ceilDiv (q * 512000) (modeSpeed (portMode s f.port)))) := by
  have hcfg : (rxDrained f.port f.arrival (rxStored f s)).cfg = s.cfg := by simp
  have he : exec (.pauseFrameRx f) s = .next (rxChecks f s).1 := by
    have hp : ¬ 14 ≤ f.port := by omega
    change execPauseFrameRx f s = _
    rw [execPauseFrameRx, act_of_alive _ ha]
    simp [hk, hp, hu]
  refine ⟨_, he, ?_⟩
  rw [rxChecks_pause hroom hf hk, obeyPause_pauseEnd (by rwa [portMac, hcfg]), portMode, hcfg]
  rfl

/-- PAUSE_EXPIRY at or after the end of the pause. -/
theorem exec_pauseExpiry {s : State} {n e ns : Nat} (ha : alive s = true) (he : (portOf s n).pauseEnd = some e) (hns : e ≤ ns) :
    exec (.pauseExpiry n ns) s = .next (beginFree n (modPort n (fun p => { p with pauseEnd := none, held := 0 }) s)) := by
  change execPauseExpiry n ns s = _
  rw [execPauseExpiry, act_of_alive _ ha]
  simp only [he, hns, if_true]

theorem pauseExpiry_frees {s : State} {n e ns : Nat} (ha : alive s = true) (he : (portOf s n).pauseEnd = some e) (hns : e ≤ ns) :
    ∃ t, exec (.pauseExpiry n ns) s = .next t ∧ (portOf t n).pauseEnd = none ∧ (portOf t n).held = 0 ∧
      (portOf t n).cur.toList ++ (portOf t n).txq = (portOf s n).cur.toList ++ (portOf s n).txq ∧
      (n < 12 → portOf t n = { portOf s n with pauseEnd := none, held := 0 }) ∧
      (12 ≤ n → (portOf s n).linkUp = true → (portOf t n).cur = none → (portOf t n).txq = []) ∧ ∀ m, m ≠ n → portOf t m = portOf s m := by
  refine ⟨_, exec_pauseExpiry ha he hns, by simp, by simp, by simp [beginFree_order], fun hn => by simp [beginFree_of_data hn],
    fun hn hu hc => beginFree_idle hn (by simpa using hu) (by simp) hc, fun m hm => ?_⟩
  rw [portOf_beginFree_of_ne hm, portOf_modPort_of_ne hm]

/-- PAUSE_HOLD after MAX_HOLD cyc. -/
theorem exec_pauseHold {s : State} {n e : Nat} (ha : alive s = true) (hn : n < 13) (he : (portOf s n).pauseEnd = some e)
    (hh : fld (imgReg s.cfg.active (portBase n + 0x10)) 3 0 * 1024 ≤ (portOf s n).held) :
    exec (.pauseHold n) s = .next (raise 0x0304 .all [] (ethFlag n 4 (modPort n (fun p => { p with held := 0 }) (discardAll n s)))) := by
  change execPauseHold n s = _
  rw [execPauseHold, act_of_alive _ ha]
  simp only [he, hh, hn, Option.isSome_some, and_self, if_true]

theorem pauseHold_empties {s : State} {n e : Nat} (hl : s.hp.length = 4) (ha : alive s = true) (hn : n < 13)
    (he : (portOf s n).pauseEnd = some e) (hh : fld (imgReg s.cfg.active (portBase n + 0x10)) 3 0 * 1024 ≤ (portOf s n).held) :
    ∃ t, exec (.pauseHold n) s = .next t ∧ (portOf t n).txq = [] ∧ flagged t (portBase n + 8) 4 := by
  have hfour : (discardAll n s).hp.length = 4 := (kept_discardAll (Nat.and_self _) (Kept.refl s)).hp hl
  refine ⟨_, exec_pauseHold ha hn he hh, ?_, flagged_raise (flagged_setFlag hfour (by decide))⟩
  simp [discardAll, portOf_discardIf]

/-- PAUSE_TX_REPEAT when it is due with the receive buffer at or above XON. -/
theorem exec_pauseTxRepeat {s : State} {n ns : Nat} (ha : alive s = true) (hon : pauseTxOn s n = true) (hx : (portOf s n).xoff = true)
    (hd : (portOf s n).xoffAt + fld (imgReg s.cfg.active (portBase n + 0xC)) 31 16 * 512000 / modeSpeed (portMode s n) / 2 ≤ ns)
    (hfill : fld (imgReg s.cfg.active (portBase n + 0xC)) 7 0 * (bufKib n * 1024) ≤ rxFillOf s n * 100) :
    exec (.pauseTxRepeat n ns) s = .next (sendPause n (fld (imgReg s.cfg.active (portBase n + 0xC)) 31 16) ns s) := by
  change execPauseTxRepeat n ns s = _
  rw [execPauseTxRepeat, act_of_alive _ ha]
  simp only [hon, hx, hd, hfill, and_self, if_true]

/-- Settles O20: a pause received, its end, a long hold, and the module's own pause repeated. -/
theorem pauseFramesAndHeldTransmitters : Obligations.PauseFramesAndHeldTransmitters :=
  ⟨fun _ _ _ _ ha hk hp hu hroom hf hd => pauseFrameRx_holds ha hk hp hu hroom hf hd, fun _ _ _ _ ha he hns => pauseExpiry_frees ha he hns,
    fun _ _ _ hl ha hn he hh => pauseHold_empties hl ha hn he hh,
    fun _ _ _ ha hon hx hd hfill => ⟨_, exec_pauseTxRepeat ha hon hx hd hfill, sendPause_order ..⟩⟩

/-! ## Port counters (R107, R109) -/

theorem counter_congr {s t : State} (h : t.cnt = s.cnt) (off win : Nat) : counter t off win = counter s off win := by
  rw [counter, h, counter]

theorem counter_ethCount_self (n off : Nat) (s : State) :
    counter (ethCount n off s) (portBase n + off) 0xFFFF = counter s (portBase n + off) 0xFFFF + 1#32 :=
  counter_count s _

/-- One port's counters at two offsets are two counters. -/
theorem portKey_ne {n o off : Nat} (h : o ≠ off) : ctrKey (portBase n + o) 0xFFFF ≠ ctrKey (portBase n + off) 0xFFFF := by
  simp only [ctrKey]
  omega

theorem counter_ethCount_of_ne {n o off : Nat} (h : o ≠ off) (s : State) :
    counter (ethCount n off s) (portBase n + o) 0xFFFF = counter s (portBase n + o) 0xFFFF := by
  rw [ethCount, count, counter_countW, if_neg (portKey_ne h)]

theorem counter_countN_of_ne {o w off win : Nat} (h : ctrKey o w ≠ ctrKey off win) (k : Nat) (ob : EvObj) (s : State) :
    counter (countN off win k ob s) o w = counter s o w := by
  have e : (countN off win k ob s).cnt = fset s.cnt (ctrKey off win) (BitVec.ofNat 32 ((counter s off win).toNat + k)) := by
    unfold countN
    dsimp only
    split
    · exact halfRange_cnt ..
    · rfl
  rw [counter, e, fgetD_fset, if_neg h, counter]

theorem counter_octets_of_ne {n o off : Nat} (h : o ≠ off) (rem len : Nat) (s : State) :
    counter (octets n off rem len s) (portBase n + o) 0xFFFF = counter s (portBase n + o) 0xFFFF :=
  counter_countN_of_ne (portKey_ne h) ..

/-! ## Reception (R86 to R89, R99 to R103) -/

/-- Storing a frame counts its codewords alone, in counters behind those of the receive checks. -/
theorem counter_rxStored {f : Frame} {s : State} {o : Nat} (h : o < 0x144) :
    counter (rxStored f s) (portBase f.port + o) 0xFFFF = counter s (portBase f.port + o) 0xFFFF := by
  obtain ⟨-, hcnt, -⟩ := rxStore_keeps f (rxFec f (seen f.arrival s))
  rw [rxStored, counter_congr hcnt, rxFec]
  split
  · rw [counter_countN_of_ne (portKey_ne (by omega)), counter_countN_of_ne (portKey_ne (by omega))]
    rfl
  · rfl

/-- The counters of the receive checks (Table 3-2). -/
theorem rxFault_le {s : State} {f : Frame} {c : Nat} (h : rxFault s f = some c) : c ≤ 0x120 := by
  unfold rxFault at h
  repeat' split at h
  all_goals cases h
  all_goals decide

/-- FRAME_RX of a frame that the receive checks do not hand on. -/
theorem exec_frameRx_checked {s u : State} {f : Frame} (ha : alive s = true) (hp : f.port < 14) (hu : (portOf s f.port).linkUp = true)
    (hc : rxChecks f s = (u, false)) : exec (.frameRx f) s = .next u := by
  have hp : ¬ 14 ≤ f.port := by omega
  change execFrameRx f s = _
  rw [execFrameRx, act_of_alive _ ha]
  simp [hp, hu, hc]

/-- Where a frame goes by the verdict of duplicate discard. -/
def sortedBy (f : Frame) : PrpVerdict → State → State
  | .drop => dropped f
  | .undeclared => classifyUndeclared f
  | .pass => classify f

/-- A frame that passes the receive checks goes where duplicate discard sends it, unless it carries PTP (R103). -/
theorem exec_frameRx_passed {s u v : State} {f : Frame} {r : PrpVerdict} (ha : alive s = true) (hp : f.port < 14)
    (hu : (portOf s f.port).linkUp = true) (hc : rxChecks f s = (u, true)) (hk : ∀ m, f.kind ≠ .ptp m) (hd : prpDiscard f u = (v, r)) :
    exec (.frameRx f) s = .next (rxDrained f.port f.arrival (sortedBy f r v)) := by
  have hp : ¬ 14 ≤ f.port := by omega
  change execFrameRx f s = _
  rw [execFrameRx, act_of_alive _ ha]
  cases hkind : f.kind with
  | ptp m => exact absurd hkind (hk m)
  | _ =>
    simp only [hp, hu, hc, hd, Bool.not_true, Bool.false_eq_true, or_self, if_false]
    cases r <;> rfl

/-- A PTP frame passes duplicate discard by (R103). -/
theorem exec_frameRx_ptp {s u : State} {f : Frame} {m : PtpMsg} (ha : alive s = true) (hp : f.port < 14) (hu : (portOf s f.port).linkUp = true)
    (hc : rxChecks f s = (u, true)) (hk : f.kind = .ptp m) :
    exec (.frameRx f) s = .next (rxDrained f.port f.arrival (classify f (noRct f u))) := by
  have hp : ¬ 14 ≤ f.port := by omega
  change execFrameRx f s = _
  rw [execFrameRx, act_of_alive _ ha]
  simp only [hp, hu, hc, hk, Bool.not_true, Bool.false_eq_true, or_self, if_false]

/-- The counter that the failing check names counts one. -/
theorem frameRx_counts_fault {s : State} {f : Frame} {c : Nat} (ha : alive s = true) (hp : f.port < 14)
    (hu : (portOf s f.port).linkUp = true) (hroom : rxFillOf s f.port + maxLen s f.port ≤ bufKib f.port * 1024) (hf : rxFault s f = some c) :
    ∃ t, exec (.frameRx f) s = .next t ∧ counter t (portBase f.port + c) 0xFFFF = counter s (portBase f.port + c) 0xFFFF + 1#32 ∧
      t.eth.handed = s.eth.handed := by
  have hle : c < 0x144 := by have := rxFault_le hf; omega
  refine ⟨_, exec_frameRx_checked ha hp hu (rxChecks_faulty hroom hf), ?_, by simp⟩
  rw [counter_congr (rxDrained_cnt ..), counter_ethCount_self, counter_rxStored hle]

/-! ## Departure (R75, R91, R92, R97) -/

/-- What a departure counts and reports by the body of its frame. -/
def countBody (n dep : Nat) (f : TxFrame) (s : State) : State :=
  match f.body with
  | .pause _ _ => ethCount n 0x134 s
  | .ptp m => if ptpEvent m.kind then ethCount n 0x150 s else s
  | .supervision q _ => prpCount q 0x2C s
  | .host fn i => txHostDone fn i n 0 (some dep) s
  | _ => s

@[simp] theorem countBody_eth (n dep : Nat) (f : TxFrame) (s : State) : (countBody n dep f s).eth = s.eth := by
  unfold countBody
  split
  next => exact ethCount_eth ..
  next =>
    split
    · exact ethCount_eth ..
    · rfl
  next => exact prpCount_eth ..
  next => exact txHostDone_eth ..
  next => rfl

theorem isPauseTx_iff {f : TxFrame} : isPauseTx f = true ↔ ∃ q ns, f.body = .pause q ns := by
  unfold isPauseTx
  split <;> simp_all

theorem countBody_pause {f : TxFrame} (h : isPauseTx f = true) (n dep : Nat) (s : State) : countBody n dep f s = ethCount n 0x134 s := by
  obtain ⟨q, ns, hb⟩ := isPauseTx_iff.mp h
  rw [countBody, hb]

/-- Pause frames are no output frames: no host receives a copy. -/
theorem frameDeparted_pause {f : TxFrame} (h : isPauseTx f = true) (dep : Nat) (s : State) : frameDeparted f dep s = s := by
  obtain ⟨q, ns, hb⟩ := isPauseTx_iff.mp h
  rw [frameDeparted, hb]
  rfl

/-- The port from which `f` departs, once `g` has taken the frame off: `f` is the last sent, as stamped. -/
def Port.departs (p : Port) (g : Port → Port) (dep sub : Nat) (f : TxFrame) : Port :=
  { g p with txRem := (p.txRem + f.len) % 64, lastTx := some (stampTx dep sub f) }

/-- The state in which frame `f` has left port `n`, before SVC or the Calfa link begins the next. -/
def sent (n dep sub : Nat) (f : TxFrame) (g : Port → Port) (s : State) : State :=
  countBody n dep f (seen dep (modPort n (fun p => p.departs g dep sub f)
    (octets n 0x130 (portOf s n).txRem f.len (ethCount n 0x12C s))))

theorem portOf_sent (n dep sub : Nat) (f : TxFrame) (g : Port → Port) (s : State) :
    portOf (sent n dep sub f g s) n = (portOf s n).departs g dep sub f := by
  rw [sent, portOf_congr (countBody_eth ..), portOf_seen, portOf_modPort_self, portOf_octets, portOf_ethCount]

/-- A pause frame that has left is counted once more. -/
theorem counter_sent_pause {f : TxFrame} (h : isPauseTx f = true) (n dep sub : Nat) (g : Port → Port) (s : State) :
    counter (sent n dep sub f g s) (portBase n + 0x134) 0xFFFF = counter s (portBase n + 0x134) 0xFFFF + 1#32 := by
  rw [sent, countBody_pause h, counter_ethCount_self, counter_congr (seen_cnt ..), counter_congr (modPort_cnt ..),
    counter_octets_of_ne (by decide), counter_ethCount_of_ne (by decide)]

/-- FRAME_TX_COMPLETE of a frame that the port may send. -/
theorem exec_frameTxComplete {s : State} {n id : Nat} (dep sub : Nat) {f : TxFrame} {g : Port → Port} (ha : alive s = true)
    (hu : (portOf s n).linkUp = true) (ht : txTake n id s = some (f, g)) :
    exec (.frameTxComplete n id dep sub) s = .next (frameDeparted f dep (beginFree n (sent n dep sub f g s))) := by
  have htx : txComplete n id dep sub s = (beginFree n (sent n dep sub f g s), some f) := by
    simp only [txComplete, ht, hu, Bool.not_true, Bool.false_eq_true, if_false]
    rfl
  change execFrameTxComplete n id dep s sub = _
  rw [execFrameTxComplete, act_of_alive _ ha, htx]

/-- Of a frame that the port may not send nothing comes. -/
theorem exec_frameTxComplete_none {s : State} {n id : Nat} (dep sub : Nat) (ha : alive s = true) (ht : txTake n id s = none) :
    exec (.frameTxComplete n id dep sub) s = .next s := by
  have htx : txComplete n id dep sub s = (s, none) := by simp only [txComplete, ht]
  change execFrameTxComplete n id dep s sub = _
  rw [execFrameTxComplete, act_of_alive _ ha, htx]

theorem txTake_cur {s : State} {n id : Nat} {f : TxFrame} (hc : (portOf s n).cur = some f) (hid : f.id = id) :
    txTake n id s = some (f, fun p => { p with cur := none }) := by
  simp only [txTake, hc, hid, if_true]

theorem txTake_idle {s : State} {n id : Nat} {f : TxFrame} {rest : List TxFrame} (hc : (portOf s n).cur = none)
    (ht : takeFirst (fun t => t.id == id) (portOf s n).txq = some (f, rest)) :
    txTake n id s = if isPauseTx f then some (f, fun p => { p with txq := rest }) else none := by
  simp only [txTake, hc, ht]

/-- FRAME_TX_COMPLETE of the frame being sent. -/
theorem frameTxComplete_cur {s : State} {n id : Nat} (dep sub : Nat) {f : TxFrame} (ha : alive s = true) (hu : (portOf s n).linkUp = true)
    (hc : (portOf s n).cur = some f) (hid : f.id = id) :
    ∃ t, exec (.frameTxComplete n id dep sub) s = .next t ∧ (portOf t n).cur.toList ++ (portOf t n).txq = (portOf s n).txq ∧
      (n < 12 → (portOf t n).cur = none) ∧
      (12 ≤ n → (portOf s n).pauseEnd = none → (portOf t n).cur = none → (portOf t n).txq = []) ∧
      (portOf t n).lastTx = some (stampTx dep sub f) ∧ (portOf t n).txRem = ((portOf s n).txRem + f.len) % 64 := by
  refine ⟨_, exec_frameTxComplete dep sub ha hu (txTake_cur hc hid), ?_⟩
  simp only [portOf_frameDeparted, beginFree_order, beginFree_lastTx, beginFree_txRem, portOf_sent]
  refine ⟨rfl, fun hn => ?_, fun hn hp hidle => beginFree_idle hn ?_ ?_ hidle, rfl, rfl⟩
  · rw [beginFree_of_data hn, portOf_sent, Port.departs]
  · rwa [portOf_sent]
  · rwa [portOf_sent]

/-- FRAME_TX_COMPLETE of a waiting pause frame on an idle port. -/
theorem frameTxComplete_pause {s : State} {n id : Nat} (dep sub : Nat) {f : TxFrame} {rest : List TxFrame} (ha : alive s = true)
    (hu : (portOf s n).linkUp = true) (hc : (portOf s n).cur = none)
    (ht : takeFirst (fun t => t.id == id) (portOf s n).txq = some (f, rest)) (hp : isPauseTx f = true) :
    ∃ t, exec (.frameTxComplete n id dep sub) s = .next t ∧ (portOf t n).cur.toList ++ (portOf t n).txq = rest ∧
      (portOf t n).lastTx = some (stampTx dep sub f) ∧
      counter t (portBase n + 0x134) 0xFFFF = counter s (portBase n + 0x134) 0xFFFF + 1#32 := by
  refine ⟨_, exec_frameTxComplete dep sub ha hu ((txTake_idle hc ht).trans (if_pos hp)), ?_⟩
  rw [frameDeparted_pause hp, beginFree_order, beginFree_lastTx, portOf_sent, counter_congr (beginFree_cnt ..), counter_sent_pause hp]
  exact ⟨by simp [Port.departs, hc], rfl, rfl⟩

/-- Settles O21: a frame that fails a check, one that passes, one of PTP; the frame being sent, and a frame that waits on an idle port. -/
theorem frameReceptionAndDeparture : Obligations.FrameReceptionAndDeparture :=
  ⟨fun _ _ _ ha hp hu hroom hf => frameRx_counts_fault ha hp hu hroom hf,
    fun _ _ _ _ ha hp hu hc hk => ⟨exec_frameRx_passed ha hp hu hc hk, exec_frameRx_passed ha hp hu hc hk, exec_frameRx_passed ha hp hu hc hk⟩,
    fun _ _ _ _ ha hp hu hc hk => exec_frameRx_ptp ha hp hu hc hk,
    fun _ _ _ dep sub _ ha hu hc hid => frameTxComplete_cur dep sub ha hu hc hid,
    fun _ _ _ dep sub _ _ ha hu hc ht => ⟨frameTxComplete_pause dep sub ha hu hc ht, fun hp =>
      exec_frameTxComplete_none dep sub ha ((txTake_idle hc ht).trans (if_neg (by simp [hp])))⟩⟩

/-! ## The window of a source (R101) -/

/-- The number `q` lies ahead of the window. -/
def DupEnt.Behind (e : DupEnt) (q : BitVec 16) : Prop := (q - e.h).toNat ≠ 0 ∧ (q - e.h).toNat < 32768

/-- The window holds the number `q` as received. -/
def DupEnt.Holds (e : DupEnt) (q : BitVec 16) : Prop :=
  ¬ e.Behind q ∧ (e.h - q).toNat < 64 ∧ e.seen.getLsbD (e.h - q).toNat = true

theorem prpWindow_of_behind {e : DupEnt} {q : BitVec 16} (h : e.Behind q) :
    prpWindow e q = ({ e with
      seen := (if 64 ≤ (q - e.h).toNat then 0#64 else e.seen <<< (q - e.h).toNat) ||| 1#64, h := q }, true, false) :=
  if_pos h

theorem prpWindow_of_holds {e : DupEnt} {q : BitVec 16} (h : e.Holds q) : prpWindow e q = (e, false, false) := by
  obtain ⟨hb, hlt, hs⟩ := h
  exact (if_neg hb).trans ((if_pos hlt).trans (if_pos hs))

/-- A number in reach of the window that it does not hold is entered. -/
theorem prpWindow_enters {e : DupEnt} {q : BitVec 16} (hb : ¬ e.Behind q) (hlt : (e.h - q).toNat < 64)
    (hs : ¬ e.seen.getLsbD (e.h - q).toNat = true) :
    prpWindow e q = ({ e with seen := e.seen ||| (1#64 <<< (e.h - q).toNat) }, true, false) :=
  (if_neg hb).trans ((if_pos hlt).trans (if_neg hs))

/-- A number out of reach behind the window is too old to judge. -/
theorem prpWindow_too_old {e : DupEnt} {q : BitVec 16} (hb : ¬ e.Behind q) (hge : ¬ (e.h - q).toNat < 64) :
    prpWindow e q = (e, true, true) :=
  (if_neg hb).trans (if_neg hge)

/-- The window holds every number that it has judged. -/
theorem holds_prpWindow {e : DupEnt} {q : BitVec 16} (h : (prpWindow e q).2.2 = false) : (prpWindow e q).1.Holds q := by
  by_cases hb : e.Behind q
  · rw [prpWindow_of_behind hb]
    simp [DupEnt.Holds, DupEnt.Behind]
  · by_cases hlt : (e.h - q).toNat < 64
    · by_cases hs : e.seen.getLsbD (e.h - q).toNat = true
      · rw [prpWindow_of_holds ⟨hb, hlt, hs⟩]
        exact ⟨hb, hlt, hs⟩
      · rw [prpWindow_enters hb hlt hs]
        exact ⟨hb, hlt, by simp [-BitVec.toNat_sub, hlt]⟩
    · simp [prpWindow_too_old hb hlt] at h

/-! ## Frames queued on both members of a pair (R104) -/

/-- Queueing a frame for one port leaves every other port. -/
theorem portOf_enqueue1_of_ne {n m len : Nat} {body : TxBody} {rct : Option TxRct} {due : Option Nat} {s : State} (h : m ≠ n) :
    portOf (enqueue1 n body len rct due s) m = portOf s m := by
  unfold enqueue1
  dsimp only
  split
  · exact portOf_congr (discardTx_eth ..) m
  · rw [portOf_beginFree_of_ne h, portOf_modPort_of_ne h]
    rfl

/-- Of ETH, queueing a frame writes the ports and the number of the next frame. -/
theorem enqueue1_eth (n len : Nat) (body : TxBody) (rct : Option TxRct) (due : Option Nat) (s : State) :
    ∃ l, (enqueue1 n body len rct due s).eth = { s.eth with ports := l, txId := s.eth.txId + 1 } := by
  unfold enqueue1
  dsimp only
  split
  · exact ⟨s.eth.ports, by rw [discardTx_eth]⟩
  · obtain ⟨l, h⟩ := beginFree_ports n (modPort n (fun p => { p with txq := p.txq ++
      [{ id := s.eth.txId, body := body, len := max 64 len, rct := rct, due := due, born := s.tb.tick }] })
      { s with eth := { s.eth with txId := s.eth.txId + 1 } })
    exact ⟨l, by rw [h]; rfl⟩

@[simp] theorem enqueue1_cfg (n len : Nat) (body : TxBody) (rct : Option TxRct) (due : Option Nat) (s : State) :
    (enqueue1 n body len rct due s).cfg = s.cfg :=
  (kept_enqueue1 (Nat.and_self _) (Kept.refl s)).fr.cfg rfl

@[simp] theorem enqueue1_tb (n len : Nat) (body : TxBody) (rct : Option TxRct) (due : Option Nat) (s : State) :
    (enqueue1 n body len rct due s).tb = s.tb :=
  (kept_enqueue1 (Nat.and_self _) (Kept.refl s)).fr.tb rfl

/-- The trailer of a frame of `len` bytes that pair `p` sends untagged, for LAN A or LAN B. -/
def pairRct (s : State) (p len : Nat) (lanB : Bool) : TxRct :=
  { seq := fgetD s.eth.prpSeq p 0, lanB := lanB, size := max 64 (len + 6) - 18 }

/-- The pair's next sequence number is taken. -/
def prpNumbered (p : Nat) (s : State) : State :=
  { s with eth := { s.eth with prpSeq := fset s.eth.prpSeq p ((fgetD s.eth.prpSeq p 0 + 1) % 65536) } }

/-- An untagged frame on a pair is queued for LAN A and then for LAN B, with one sequence number. -/
theorem enqueuePair_eq {p len : Nat} {body : TxBody} {due : Option Nat} {s : State} (hb : bodyTagged s body = false) :
    enqueuePair p body len due s =
      enqueue1 (pairB s.cfg.active p) body (len + 6) (some (pairRct s p len true)) due
        (enqueue1 (pairA s.cfg.active p) body (len + 6) (some (pairRct s p len false)) due (prpNumbered p s)) := by
  simp only [enqueuePair, enqueue1_cfg, hb, Bool.false_eq_true, if_false]
  rfl

/-- On a pair whose links are up, an untagged frame waits behind the others on both members, with the trailers of their LANs. -/
theorem enqueuePair_queued {p len : Nat} {body : TxBody} {due : Option Nat} {s : State} (hb : bodyTagged s body = false)
    (hne : pairA s.cfg.active p ≠ pairB s.cfg.active p)
    (hua : (portOf s (pairA s.cfg.active p)).linkUp = true) (hub : (portOf s (pairB s.cfg.active p)).linkUp = true)
    (hma : max 64 (len + 6) ≤ maxLen s (pairA s.cfg.active p)) (hmb : max 64 (len + 6) ≤ maxLen s (pairB s.cfg.active p)) :
    queuedAt s (enqueuePair p body len due s) (pairA s.cfg.active p)
      { id := s.eth.txId, body := body, len := max 64 (len + 6), rct := some (pairRct s p len false), due := due, born := s.tb.tick } ∧
    queuedAt s (enqueuePair p body len due s) (pairB s.cfg.active p)
      { id := s.eth.txId + 1, body := body, len := max 64 (len + 6), rct := some (pairRct s p len true), due := due, born := s.tb.tick } := by
  rw [enqueuePair_eq hb]
  generalize hu : enqueue1 (pairA s.cfg.active p) body (len + 6) (some (pairRct s p len false)) due (prpNumbered p s) = u
  have hportB : portOf u (pairB s.cfg.active p) = portOf s (pairB s.cfg.active p) := by
    rw [← hu]
    exact portOf_enqueue1_of_ne (s := prpNumbered p s) hne.symm
  have hcfg : u.cfg = s.cfg := by rw [← hu, enqueue1_cfg]; rfl
  have htb : u.tb = s.tb := by rw [← hu, enqueue1_tb]; rfl
  have hid : u.eth.txId = s.eth.txId + 1 := by
    obtain ⟨l, h⟩ := enqueue1_eth (pairA s.cfg.active p) (len + 6) body (some (pairRct s p len false)) due (prpNumbered p s)
    rw [← hu, h]
    rfl
  constructor
  · have hA := enqueue1_queued (s := prpNumbered p s) (n := pairA s.cfg.active p) (len := len + 6) (body := body)
      (rct := some (pairRct s p len false)) (due := due) hua hma
    rw [hu] at hA
    rw [queuedAt, portOf_enqueue1_of_ne hne]
    exact hA
  · have hB := enqueue1_queued (s := u) (n := pairB s.cfg.active p) (len := len + 6) (body := body)
      (rct := some (pairRct s p len true)) (due := due) (by rwa [hportB]) (by rwa [maxLen, hcfg])
    rw [queuedAt, hportB, hid, htb] at hB
    exact hB

/-- Of ETH, a frame on a pair writes neither the numbers nor the instants of supervision frames. -/
theorem enqueuePair_supSeq {p len : Nat} {body : TxBody} {due : Option Nat} {s : State} (hb : bodyTagged s body = false) :
    (enqueuePair p body len due s).eth.supSeq = s.eth.supSeq := by
  rw [enqueuePair_eq hb]
  obtain ⟨l, hB⟩ := enqueue1_eth (pairB s.cfg.active p) (len + 6) body (some (pairRct s p len true)) due
    (enqueue1 (pairA s.cfg.active p) body (len + 6) (some (pairRct s p len false)) due (prpNumbered p s))
  obtain ⟨k, hA⟩ := enqueue1_eth (pairA s.cfg.active p) (len + 6) body (some (pairRct s p len false)) due (prpNumbered p s)
  rw [hB, hA]
  rfl

/-! ## Duplicate table and supervision (R101, R104) -/

/-- PRP_ENTRY_EXPIRY keeps the entries that have received a frame within 400 ms. -/
theorem prpEntryExpiry_keeps {s : State} {ns : Nat} (ha : alive s = true) :
    ∃ t, exec (.prpEntryExpiry ns) s = .next t ∧ (∀ e, e ∈ t.eth.dup ↔ e ∈ s.eth.dup ∧ ns ≤ e.2.last + 400000000) ∧
      t.eth.ports = s.eth.ports := by
  change ∃ t, execPrpEntryExpiry ns s = .next t ∧ _
  rw [execPrpEntryExpiry, act_of_alive _ ha]
  exact ⟨_, rfl, fun e => by simp, rfl⟩

/-- The next supervision frame of pair `p` is numbered, and its instant is noted. -/
def supNumbered (p : Nat) (s : State) : State :=
  { s with eth := { s.eth with
    supSeq := fset s.eth.supSeq p ((fgetD s.eth.supSeq p 0 + 1) % 65536), supAt := fset s.eth.supAt p s.tb.now } }

theorem exec_prpSupervisionTx {s : State} {p : Nat} (ha : alive s = true) (hp : p < 6) (hon : pairOn s.cfg.active p = true)
    (hd : supDue s p = true) :
    exec (.prpSupervisionTx p) s = .next (enqueuePair p (.supervision p (fgetD s.eth.supSeq p 0)) 60 none (supNumbered p s)) := by
  change execPrpSupervisionTx p s = _
  rw [execPrpSupervisionTx, act_of_alive _ ha]
  simp only [hp, hon, hd, and_self, if_true]
  rfl

/-- PRP_SUPERVISION_TX of a pair whose links are up. -/
theorem prpSupervisionTx_queues {s : State} {p : Nat} (ha : alive s = true) (hp : p < 6) (hon : pairOn s.cfg.active p = true)
    (hd : supDue s p = true) (hne : pairA s.cfg.active p ≠ pairB s.cfg.active p)
    (hua : (portOf s (pairA s.cfg.active p)).linkUp = true) (hub : (portOf s (pairB s.cfg.active p)).linkUp = true)
    (hma : 66 ≤ maxLen s (pairA s.cfg.active p)) (hmb : 66 ≤ maxLen s (pairB s.cfg.active p)) :
    ∃ t, exec (.prpSupervisionTx p) s = .next t ∧
      queuedAt s t (pairA s.cfg.active p) { id := s.eth.txId, body := .supervision p (fgetD s.eth.supSeq p 0), len := 66, rct := some { seq := fgetD s.eth.prpSeq p 0, lanB := false, size := 48 }, born := s.tb.tick } ∧
      queuedAt s t (pairB s.cfg.active p) { id := s.eth.txId + 1, body := .supervision p (fgetD s.eth.supSeq p 0), len := 66, rct := some { seq := fgetD s.eth.prpSeq p 0, lanB := true, size := 48 }, born := s.tb.tick } ∧
      fgetD t.eth.supSeq p 0 = (fgetD s.eth.supSeq p 0 + 1) % 65536 := by
  obtain ⟨hA, hB⟩ := enqueuePair_queued (s := supNumbered p s) (p := p) (len := 60) (body := .supervision p (fgetD s.eth.supSeq p 0))
    (due := none) rfl hne hua hub hma hmb
  refine ⟨_, exec_prpSupervisionTx ha hp hon hd, hA, hB, ?_⟩
  rw [enqueuePair_supSeq rfl, supNumbered, fgetD_fset_self]

/-- PRP_SUPERVISION_RX counts the frame that it takes for the pair of its port. -/
theorem exec_prpSupervisionRx {s u : State} {h : Handed} {p : Nat} (ha : alive s = true) (hq : takeHanded .supervision s = some (h, u))
    (hp : pairOf s.cfg.active h.frame.port = some p) : exec .prpSupervisionRx s = .next (count (prpBase p + 0x28) u) := by
  have hcfg : u.cfg = s.cfg := by
    obtain ⟨x, rfl⟩ := takeHanded_some hq
    rfl
  change execPrpSupervisionRx s = _
  rw [execPrpSupervisionRx, act_of_alive _ ha]
  simp only [hq, hcfg, hp]
  rfl

/-- Settles O22: the window, the expiry of entries, supervision frames sent and received. -/
theorem prpDuplicateDiscard : Obligations.PrpDuplicateDiscard :=
  ⟨fun _ _ hold => by rw [prpWindow_of_holds (holds_prpWindow hold)], fun _ _ ha => prpEntryExpiry_keeps ha,
    fun _ _ ha hp hon hd hne hua hub hma hmb => prpSupervisionTx_queues ha hp hon hd hne hua hub hma hmb,
    fun _ _ _ _ ha hq hp => exec_prpSupervisionRx ha hq hp⟩

end Sys2Proof.Machine

/-!
Stream ingest (chapter 4): what operations leave and change of the run fields of streams, the checks of data frames and R-SV PDUs, the record
that is written next, configuration frames, connections, and the commands to a source.
-/
namespace Sys2Proof.Machine

/-! ## The run fields of a stream -/

theorem strmOf_congr {s t : State} (h : t.ing.strms = s.ing.strms) (n : Nat) : strmOf t n = strmOf s n := by
  rw [strmOf, h, strmOf]

theorem strmOf_modStrm (n : Nat) (f : Strm → Strm) (s : State) (m : Nat) :
    strmOf (modStrm n f s) m = if m = n then f (strmOf s n) else strmOf s m := by
  simp only [strmOf, modStrm, fgetD_fmod]

@[simp] theorem strmOf_modStrm_self (n : Nat) (f : Strm → Strm) (s : State) : strmOf (modStrm n f s) n = f (strmOf s n) := by
  simp [strmOf_modStrm]

theorem strmOf_modStrm_of_ne {n m : Nat} (h : m ≠ n) (f : Strm → Strm) (s : State) : strmOf (modStrm n f s) m = strmOf s m := by
  simp [strmOf_modStrm, h]

@[simp] theorem strmCount_ing (n k : Nat) (s : State) : (strmCount n k s).ing = s.ing :=
  (kept_strmCount (Nat.and_self _) (Kept.refl s)).fr.ing rfl
@[simp] theorem strmCount_cfg (n k : Nat) (s : State) : (strmCount n k s).cfg = s.cfg :=
  (kept_strmCount (Nat.and_self _) (Kept.refl s)).fr.cfg rfl
@[simp] theorem ingFlag_ing (b : Nat) (s : State) : (ingFlag b s).ing = s.ing := setFlag_ing ..

@[simp] theorem strmOf_strmCount (n k : Nat) (s : State) (m : Nat) : strmOf (strmCount n k s) m = strmOf s m :=
  strmOf_congr (by rw [strmCount_ing]) m
@[simp] theorem strmOf_ingFlag (b : Nat) (s : State) (m : Nat) : strmOf (ingFlag b s) m = strmOf s m := strmOf_congr (by rw [ingFlag_ing]) m
@[simp] theorem strmOf_raise (code : Nat) (o : EvObj) (arg : List Byte) (s : State) (m : Nat) : strmOf (raise code o arg s) m = strmOf s m :=
  strmOf_congr (by rw [raise_ing]) m

/-! ## Data frames and R-SV PDUs, up to the checks of their contents (Table 4-3) -/

/-- The policer's credit for one frame of stream `n` is taken (R131). -/
def charged (n : Nat) (s : State) : State := modStrm n (fun r => { r with credit := r.credit - tps s }) s

theorem police_of_credit {n : Nat} {s : State} (h : tps s ≤ (strmOf s n).credit) : police n s = (charged n s, true) := if_pos h

theorem police_of_no_credit {n : Nat} {s : State} (h : (strmOf s n).credit < tps s) : police n s = (s, false) := if_neg (Nat.not_le.mpr h)

theorem exec_dataFrameRx_full {s : State} (ha : alive s = true) (hw : writerRoom s = false) : exec .dataFrameRx s = .next s := by
  change execDataFrameRx s = _
  rw [execDataFrameRx, act_of_alive _ ha]
  simp [hw]

theorem exec_dataFrameRx {s u : State} {h : Handed} {hdr : IpHdr} {bs : List Byte} {o : Bool} (ha : alive s = true)
    (hw : writerRoom s = true) (hq : takeHanded .streamData s = some (h, u)) (hp : h.frame.payload = .ip hdr bs o) :
    exec .dataFrameRx s = .next (dataFrame h.obj h.frame bs u) := by
  change execDataFrameRx s = _
  rw [execDataFrameRx, act_of_alive _ ha]
  simp [hw, hq, hp]

theorem exec_rsvSpduRx_full {s : State} (ha : alive s = true) (hw : writerRoom s = false) : exec .rsvSpduRx s = .next s := by
  change execRsvSpduRx s = _
  rw [execRsvSpduRx, act_of_alive _ ha]
  simp [hw]

theorem exec_rsvSpduRx {s u : State} {h : Handed} {hdr : IpHdr} {m : RsvPdu} (ha : alive s = true)
    (hw : writerRoom s = true) (hq : takeHanded .rsv s = some (h, u)) (hp : h.frame.payload = .rsv hdr m) :
    exec .rsvSpduRx s = .next (rsvFrame h.obj h.frame m u) := by
  change execRsvSpduRx s = _
  rw [execRsvSpduRx, act_of_alive _ ha]
  simp [hw, hq, hp]

section
variable {n : Nat} {f : Frame} {bs : List Byte} {m : RsvPdu} {s : State}

theorem dataFrame_not_running (h : (strmOf s n).st ≠ 2) : dataFrame n f bs s = strmCount n 8 s := if_pos h

theorem dataFrame_no_credit (hr : (strmOf s n).st = 2) (hc : (strmOf s n).credit < tps s) : dataFrame n f bs s = strmCount n 1 s := by
  simp [dataFrame, hr, police_of_no_credit hc]

theorem dataFrame_wrong_size (hr : (strmOf s n).st = 2) (hc : tps s ≤ (strmOf s n).credit)
    (hz : beAt bs 2 2 ≠ dir s.cfg.active n 4 31 16) : dataFrame n f bs s = strmCount n 2 (charged n s) := by
  simp [dataFrame, hr, police_of_credit hc, hz]

theorem rsvFrame_not_running (h : (strmOf s n).st ≠ 2) : rsvFrame n f m s = strmCount n 8 s := if_pos h

theorem rsvFrame_no_credit (hr : (strmOf s n).st = 2) (hc : (strmOf s n).credit < tps s) : rsvFrame n f m s = strmCount n 1 s := by
  simp [rsvFrame, hr, police_of_no_credit hc]

theorem rsvFrame_wrong_form (hr : (strmOf s n).st = 2) (hc : tps s ≤ (strmOf s n).credit)
    (hz : m.spduLen ≠ dir s.cfg.active n 4 31 16 ∨ m.asdus ≠ 1) : rsvFrame n f m s = strmCount n 2 (charged n s) := by
  simp [rsvFrame, hr, police_of_credit hc, hz]

end

/-! ## What the checks of a frame's time and claim read (R131, R132, R137, R139) -/

/-- From `s` to `t` nothing changes of what the checks of a frame's time and claim read: the vintage, the records, the claims, and the instant
and the state of the timebase. -/
structure JudgesAlike (s t : State) : Prop where
  cfg : t.cfg = s.cfg
  recs : t.ing.recs = s.ing.recs
  claims : t.nv.claimHi = s.nv.claimHi
  now : t.tb.now = s.tb.now
  state : t.tb.state = s.tb.state

/-! Instants and periods depend on the vintage alone. -/

section
variable {s t : State} (h : t.cfg = s.cfg)
include h

theorem gridNs_congr : gridNs t = gridNs s := by funext g; simp only [gridNs, tps, f0, h]
theorem closeOf_congr : closeOf t = closeOf s := by funext g i; simp only [closeOf, h]
theorem lateSpan_congr : lateSpan t = lateSpan s := by simp only [lateSpan, h]
theorem nearestInst_congr : nearestInst t = nearestInst s := by funext rate tau; simp only [nearestInst, period, tps, f0, h]
theorem timeChecks_congr : timeChecks t = timeChecks s := by
  funext n arr tau
  unfold timeChecks
  rw [f0, h, nearestInst_congr h, gridNs_congr h, closeOf_congr h, lateSpan_congr h, ← f0]
theorem seqOf_congr : seqOf t = seqOf s := by funext rate inst; simp only [seqOf, period, tps, f0, h]
theorem frameRecs_congr : frameRecs t = frameRecs s := by
  funext n f bs inst claim
  simp only [frameRecs, seqOf_congr h, h]

end

namespace JudgesAlike

theorem refl (s : State) : JudgesAlike s s := ⟨rfl, rfl, rfl, rfl, rfl⟩

theorem trans {s t u : State} (h : JudgesAlike s t) (g : JudgesAlike t u) : JudgesAlike s u :=
  ⟨g.cfg.trans h.cfg, g.recs.trans h.recs, g.claims.trans h.claims, g.now.trans h.now, g.state.trans h.state⟩

theorem foldl {α : Type} {F : State → α → State} (hF : ∀ s a, JudgesAlike s (F s a)) (l : List α) (s : State) :
    JudgesAlike s (l.foldl F s) := by
  induction l generalizing s with
  | nil => exact refl s
  | cons a l ih => exact (hF s a).trans (ih (F s a))

theorem modStrm (n : Nat) (g : Strm → Strm) (s : State) : JudgesAlike s (modStrm n g s) := ⟨rfl, rfl, rfl, rfl, rfl⟩

theorem sdtNote (n stat tq : Nat) (a tau : Int) (s : State) : JudgesAlike s (sdtNote n stat tq a tau s) := by
  unfold Machine.sdtNote
  split <;> exact ⟨rfl, rfl, rfl, rfl, rfl⟩

theorem learnLatency (n : Nat) (d : Int) (s : State) : JudgesAlike s (learnLatency n d s) := by
  unfold Machine.learnLatency
  split <;> exact ⟨rfl, rfl, rfl, rfl, rfl⟩

variable {s t : State}

theorem hasTime (h : JudgesAlike s t) : hasTime t = hasTime s := by rw [Machine.hasTime, h.state, Machine.hasTime]

theorem recOf (h : JudgesAlike s t) (n inst : Nat) : recOf t n inst = recOf s n inst := by
  rw [Machine.recOf, h.recs, Machine.recOf]

end JudgesAlike

theorem pruneRecs_congr {s t : State} (hc : t.cfg = s.cfg) (hr : t.ing.recs = s.ing.recs) (hn : t.tb.now = s.tb.now) :
    (pruneRecs t).ing.recs = (pruneRecs s).ing.recs := by
  simp only [pruneRecs]
  rw [hc, hr, hn, gridNs_congr hc, closeOf_congr hc, lateSpan_congr hc]

theorem foldl_scheduleRec_recs (l : List IngRec) (s : State) :
    (l.foldl (fun s r => scheduleRec r s) s).ing.recs = s.ing.recs ++ l := by
  induction l generalizing s with
  | nil => simp
  | cons r l ih => rw [List.foldl_cons, ih, scheduleRec, List.append_assoc, List.singleton_append]

@[simp] theorem bit10Seen_recs (n : Nat) (ms : List (Nat × Bool)) (s : State) : (bit10Seen n ms s).ing.recs = s.ing.recs :=
  (kept_bit10Seen (Nat.and_self _) (Kept.refl s)).fr.recs rfl

/-! ## Accepted data frames (R122, R137, R139) -/

/-- The claim check writes no part that the vintage, ING or the timebase holds. -/
theorem claimCheck_keeps (n : Nat) (claim : Word) (s : State) :
    (claimCheck n claim s).1.cfg = s.cfg ∧ (claimCheck n claim s).1.ing = s.ing ∧ (claimCheck n claim s).1.tb = s.tb := by
  have h := (kept_claimCheck (n := n) (claim := claim) (Nat.and_self _) (Kept.refl s)).out.fr
  exact ⟨h.cfg rfl, h.ing rfl, h.tb rfl⟩

/-- The claim of a frame of stream `n` is not older than the newest one; only a paired source has claims (R137). -/
def ClaimFresh (n : Nat) (claim : Word) (s : State) : Prop :=
  dirPaired s.cfg.active n = false ∨ 0 ≤ sint 32 ((claim - fgetD s.nv.claimHi n 0#32).toNat)

theorem claimCheck_of_fresh {n : Nat} {claim : Word} {s : State} (h : ClaimFresh n claim s) : (claimCheck n claim s).2 = true := by
  unfold claimCheck
  obtain hp | hn := h
  · simp [hp]
  · rw [← Int.not_lt] at hn
    simp only [hn, if_false]
    split
    · rfl
    · split <;> rfl

/-- Each block's stream is judged for stream-derived time by its STAT (R65). -/
def blocksNoted (n : Nat) (f : Frame) (bs : List Byte) (tau : Int) (s : State) : State :=
  (blockPlaces s.cfg.active n).foldl (fun s (m, o) => sdtNote m (beAt bs o 2) (beAt bs 10 1) (f.rxTs : Int) tau s) s

/-- Each block's stream learns its latency (R64). -/
def blocksLearned (im : Image) (n : Nat) (f : Frame) (tau : Int) (s : State) : State :=
  (blockPlaces im n).foldl (fun s (m, _) => learnLatency m ((f.rxTs : Int) - tau) s) s

/-- The state in which the checks of time and claim judge a data frame: charged, noted and learned from. -/
def dataJudged (n : Nat) (f : Frame) (bs : List Byte) (tau : Int) (s : State) : State :=
  blocksLearned s.cfg.active n f tau (blocksNoted n f bs tau (charged n s))

theorem blocksNoted_alike (n : Nat) (f : Frame) (bs : List Byte) (tau : Int) (s : State) :
    JudgesAlike s (blocksNoted n f bs tau (charged n s)) :=
  (JudgesAlike.modStrm n _ s).trans (JudgesAlike.foldl (fun _ _ => JudgesAlike.sdtNote ..) ..)

theorem dataJudged_alike (n : Nat) (f : Frame) (bs : List Byte) (tau : Int) (s : State) : JudgesAlike s (dataJudged n f bs tau s) :=
  (blocksNoted_alike n f bs tau s).trans (JudgesAlike.foldl (fun _ _ => JudgesAlike.learnLatency ..) ..)

/-- A data frame that passes the checks of its time and its claim, and whose instant has no record: one record for each block. -/
theorem dataFrame_accepted {n : Nat} {f : Frame} {bs : List Byte} {s : State} {tau : Int} (hr : (strmOf s n).st = 2)
    (hc : tps s ≤ (strmOf s n).credit) (hz : beAt bs 2 2 = dir s.cfg.active n 4 31 16) (ht : hasTime s = true)
    (htau : tau = frameTau s (BitVec.ofNat 32 (beAt bs 6 4)) (Nat.testBit (beAt bs 10 1) 5) (fracNs (beAt bs 11 3) (dir s.cfg.active n 5 23 0)))
    (hchk : timeChecks s n f.arrival tau = none) (hcl : ClaimFresh n (frameClaim s.cfg.active n bs) s)
    (hrec : recOf s n (nearestInst s (dirRate s.cfg.active n) tau) = none) :
    (dataFrame n f bs s).ing.recs = (pruneRecs s).ing.recs ++
      frameRecs s n f bs (nearestInst s (dirRate s.cfg.active n) tau) (frameClaim s.cfg.active n bs) := by
  have hj := dataJudged_alike n f bs tau s
  obtain ⟨hwcfg, hwing, hwtb⟩ := claimCheck_keeps n (frameClaim s.cfg.active n bs) (dataJudged n f bs tau s)
  have htime : (!hasTime (blocksNoted n f bs tau (charged n s))) = false := by
    rw [(blocksNoted_alike n f bs tau s).hasTime, ht, Bool.not_true]
  have hchk : timeChecks (dataJudged n f bs tau s) n f.arrival tau = none := by rwa [timeChecks_congr hj.cfg]
  have hcl : (!(claimCheck n (frameClaim s.cfg.active n bs) (dataJudged n f bs tau s)).2) = false := by
    rw [claimCheck_of_fresh (by rwa [ClaimFresh, hj.cfg, hj.claims]), Bool.not_true]
  rw [← nearestInst_congr hj.cfg] at hrec ⊢
  have hrec : (recOf (claimCheck n (frameClaim s.cfg.active n bs) (dataJudged n f bs tau s)).1 n
      (nearestInst (dataJudged n f bs tau s) (dirRate s.cfg.active n) tau)).isSome = false := by
    rw [recOf, hwing, ← recOf, hj.recOf, hrec, Option.isSome_none]
  have hprune := pruneRecs_congr (hwcfg.trans hj.cfg) (by rw [hwing, hj.recs]) (by rw [hwtb, hj.now])
  rw [← frameRecs_congr (hwcfg.trans hj.cfg), ← hprune]
  subst htau
  unfold dataFrame
  rw [if_neg (not_not_intro hr), police_of_credit hc]
  dsimp only
  rw [if_neg (by simp), if_neg (not_not_intro hz)]
  split
  next h => exact absurd (htime.symm.trans h) nofun
  split
  next h => exact absurd (hchk.symm.trans h) nofun
  split
  next h => exact absurd (hcl.symm.trans h) nofun
  split
  next h => exact absurd (hrec.symm.trans h) nofun
  rw [bit10Seen_recs, count_ing, strmCount_ing, foldl_scheduleRec_recs]
  rfl

/-- Settles O23: the queue without room, the state, the credit, the size, and the frame that passes. -/
theorem dataFramesOfStreams : Obligations.DataFramesOfStreams := by
  -- A taken frame changes the latest instant seen and ETH alone, so that the hypotheses hold of the state after it as they stand.
  refine ⟨fun s ha hw => exec_dataFrameRx_full ha hw, fun s u h hdr bs o ha hw hq hp hr => ?_, fun s u h hdr bs o ha hw hq hp hr hc => ?_,
    fun s u h hdr bs o ha hw hq hp hr hc hz => ?_, fun s u h hdr bs o tau ha hw hq hp hr hc hz ht htau hchk hcl hrec => ?_⟩ <;>
    rw [exec_dataFrameRx ha hw hq hp] <;> obtain ⟨x, rfl⟩ := takeHanded_some hq
  · rw [dataFrame_not_running (by exact hr)]
  · rw [dataFrame_no_credit (by exact hr) (by exact hc)]
  · rw [dataFrame_wrong_size (by exact hr) (by exact hc) (by exact hz)]
    rfl
  · exact ⟨_, rfl, dataFrame_accepted (by exact hr) (by exact hc) (by exact hz) (by exact ht) htau hchk (by exact hcl) (by exact hrec)⟩

/-! ## R-SV PDUs (R135, R136) -/

/-- A failed authentication is reported. -/
def rsvFailed (n : Nat) (s : State) : State := raiseLimited 0x0408 0x0408 (strmObj s n) (leBytes 2 n) (ingFlag 3 s)

/-- With a signature required, a PDU under a Key ID that no vault slot of the stream holds fails check 8. -/
theorem rsvAuth_no_key {n : Nat} {m : RsvPdu} {s : State} (hs : imBit s.cfg.active secSTREAM_DIR n 9 13 = true)
    (hk : rsvSlot s n m.keyId = none) : rsvAuth n m s = (rsvFailed n s, .drop 9, false) := by
  simp only [rsvAuth, hs, hk, Bool.not_true, Bool.false_eq_true, if_false]
  rfl

/-- Check 8 writes only the SPDU numbers and keys of streams, of ING, and leaves the vintage, the timebase and what the module keeps of time. -/
theorem rsvAuth_alike (n : Nat) (m : RsvPdu) (s : State) :
    JudgesAlike s (rsvAuth n m s).1 ∧ (rsvAuth n m s).1.tb = s.tb ∧ (rsvAuth n m s).1.vbat = s.vbat ∧ (rsvAuth n m s).1.part = s.part := by
  have h := (kept_rsvAuth (n := n) (m := m) (Nat.and_self _) (Kept.refl s)).out
  exact ⟨⟨h.fr.cfg rfl, h.fr.recs rfl, by rw [h.fr.nv rfl], by rw [h.fr.tb rfl], by rw [h.fr.tb rfl]⟩, h.fr.tb rfl, h.fr.vbat rfl, h.part⟩

theorem frameTau_congr {s t : State} (htb : t.tb = s.tb) (hv : t.vbat = s.vbat) (hp : t.part = s.part) : frameTau t = frameTau s := by
  funext soc q5 ns
  unfold frameTau taiOfUtc ownUtc hasTime utcOf taiSec leapMidnight
  rw [htb, hv, hp]

theorem rsvFrame_dropped {n c : Nat} {f : Frame} {m : RsvPdu} {s v : State} {a : Bool} (hr : (strmOf s n).st = 2)
    (hc : tps s ≤ (strmOf s n).credit) (hl : m.spduLen = dir s.cfg.active n 4 31 16) (h1 : m.asdus = 1)
    (hv : rsvAuth n m (charged n s) = (v, .drop c, a)) : rsvFrame n f m s = strmCount n c v := by
  simp [rsvFrame, hr, police_of_credit hc, hl, h1, hv]

/-- The record of an accepted R-SV PDU of stream `n` (R139, Table 4-8). -/
def rsvRec (im : Image) (n inst seq : Nat) (f : Frame) (m : RsvPdu) (auth : Bool) : IngRec :=
  { strm := n, seq := seq, inst := inst, arr := f.arrival, stat := rsvStat m,
    iflags := (if bitsN (rsvStat m) 15 14 = 1 then 2 ^ 15 else 0) + (if m.test then 2 ^ 14 else 0) +
      (if Nat.testBit (rsvStat m) 9 then 2 ^ 11 else 0) + (if auth then 2 ^ 9 else 0),
    claim := 0#32, chanBase := dir im n 2 31 16,
    vals := rsvVals im n (m.test && !imBit im secSTREAM_DIR n 0 27) m.vals, port := f.port }

/-- An R-SV PDU that passes check 8 and the checks of its time, and whose instant has no record: one record. -/
theorem rsvFrame_accepted {n : Nat} {f : Frame} {m : RsvPdu} {s v : State} {a : Bool} {tau : Int} (hr : (strmOf s n).st = 2)
    (hc : tps s ≤ (strmOf s n).credit) (hl : m.spduLen = dir s.cfg.active n 4 31 16) (h1 : m.asdus = 1)
    (hv : rsvAuth n m (charged n s) = (v, .accept, a)) (ht : hasTime s = true)
    (htau : tau = frameTau s m.refrSec true (roundDiv (m.refrFrac * 1000000000) (2 ^ 24)))
    (hchk : timeChecks s n f.arrival tau = none) (hrec : recOf s n (nearestInst s (dirRate s.cfg.active n) tau) = none) :
    (rsvFrame n f m s).ing.recs = (pruneRecs s).ing.recs ++
      [rsvRec s.cfg.active n (nearestInst s (dirRate s.cfg.active n) tau)
        (seqOf s (dirRate s.cfg.active n) (nearestInst s (dirRate s.cfg.active n) tau)) f m a] := by
  obtain ⟨hva, hvtb, hvbat, hvpart⟩ := rsvAuth_alike n m (charged n s)
  rw [hv] at hva hvtb hvbat hvpart
  have hva : JudgesAlike s v := (JudgesAlike.modStrm n _ s).trans hva
  have hj : JudgesAlike s (learnLatency n ((f.rxTs : Int) - tau) v) := hva.trans (JudgesAlike.learnLatency ..)
  have htau : tau = frameTau v m.refrSec true (roundDiv (m.refrFrac * 1000000000) (2 ^ 24)) := by
    rw [frameTau_congr hvtb hvbat hvpart]
    exact htau
  have htime : (!hasTime v) = false := by rw [hva.hasTime, ht, Bool.not_true]
  rw [← timeChecks_congr hj.cfg] at hchk
  rw [← nearestInst_congr hj.cfg] at hrec ⊢
  rw [← hj.recOf, ← Option.not_isSome_iff_eq_none] at hrec
  have hprune := pruneRecs_congr hj.cfg hj.recs hj.now
  rw [← seqOf_congr hj.cfg, ← hprune]
  subst htau
  unfold rsvFrame
  rw [if_neg (not_not_intro hr), police_of_credit hc]
  dsimp only
  rw [if_neg (by simp), if_neg (by simp [hl, h1]), hv]
  dsimp only
  rw [if_neg (by simp [htime])]
  split
  next h => exact absurd (hchk.symm.trans h) nofun
  rw [if_neg hrec, count_ing, strmCount_ing]
  rfl

/-- Settles O24: the queue without room, the state, the credit, the form, the Key ID that no slot holds, and the PDU that passes. -/
theorem rsvPdusAreAuthenticated : Obligations.RsvPdusAreAuthenticated := by
  -- As for data frames, the hypotheses hold of the state after the PDU is taken as they stand.
  refine ⟨fun s ha hw => exec_rsvSpduRx_full ha hw, fun s u h hdr m ha hw hq hp hr => ?_, fun s u h hdr m ha hw hq hp hr hc => ?_,
    fun s u h hdr m ha hw hq hp hr hc hz => ?_, fun s u h hdr m ha hw hq hp hr hc hl h1 hs hk => ?_,
    fun s u v h hdr m a tau ha hw hq hp hr hc hl h1 hv ht htau hchk hrec => ?_⟩ <;>
    rw [exec_rsvSpduRx ha hw hq hp] <;> obtain ⟨x, rfl⟩ := takeHanded_some hq
  · rw [rsvFrame_not_running (by exact hr)]
  · rw [rsvFrame_no_credit (by exact hr) (by exact hc)]
  · rw [rsvFrame_wrong_form (by exact hr) (by exact hc) (by exact hz)]
    rfl
  · rw [rsvFrame_dropped (by exact hr) (by exact hc) (by exact hl) h1 (rsvAuth_no_key (by exact hs) (by exact hk))]
    rfl
  · exact ⟨_, _, rfl, rsvFrame_accepted (by exact hr) (by exact hc) (by exact hl) h1 (by exact hv) (by exact ht) htau hchk
      (by exact hrec), rfl, rfl, rfl, rfl, rfl, rfl⟩

/-! ## The record that is written next (R139, R161) -/

theorem nextRec_eq_none {l : List IngRec} : nextRec l = none ↔ ∀ q ∈ l, q.written = true := by
  induction l with
  | nil => simp [nextRec]
  | cons r l ih =>
    cases hl : nextRec l with
    | none =>
      have hall := ih.mp hl
      cases hw : r.written with
      | true => simpa [nextRec, hl, hw] using hall
      | false => simp [nextRec, hl, hw]
    | some q =>
      have hne : ¬ ∀ q ∈ l, q.written = true := fun h => by simp [ih.mpr h] at hl
      simp only [nextRec, hl, List.forall_mem_cons, hne, and_false, iff_false]
      split
      · nofun
      · split <;> nofun

/-- The record that is written next is unwritten, and no unwritten one arrived before it. -/
theorem nextRec_spec {l : List IngRec} {r : IngRec} (h : nextRec l = some r) :
    r ∈ l ∧ r.written = false ∧ ∀ q ∈ l, q.written = false → r.arr ≤ q.arr := by
  induction l generalizing r with
  | nil => simp [nextRec] at h
  | cons a l ih =>
    cases hl : nextRec l with
    | none =>
      have hall := nextRec_eq_none.mp hl
      cases ha : a.written with
      | true => simp [nextRec, hl, ha] at h
      | false =>
        obtain rfl : a = r := by simpa [nextRec, hl, ha] using h
        refine ⟨List.mem_cons_self, ha, List.forall_mem_cons.mpr ⟨fun _ => le_rfl, fun q hq hw => ?_⟩⟩
        simp [hall q hq] at hw
    | some q =>
      obtain ⟨hmem, hq, hmin⟩ := ih hl
      cases ha : a.written with
      | true =>
        obtain rfl : q = r := by simpa [nextRec, hl, ha] using h
        exact ⟨List.mem_cons_of_mem _ hmem, hq, List.forall_mem_cons.mpr ⟨fun hw => by simp [ha] at hw, hmin⟩⟩
      | false =>
        by_cases hlt : q.arr < a.arr ∨ (q.arr = a.arr ∧ q.port < a.port)
        · obtain rfl : q = r := by simpa [nextRec, hl, ha, hlt] using h
          exact ⟨List.mem_cons_of_mem _ hmem, hq, List.forall_mem_cons.mpr ⟨fun _ => by omega, hmin⟩⟩
        · obtain rfl : a = r := by simpa [nextRec, hl, ha, hlt] using h
          exact ⟨List.mem_cons_self, ha, List.forall_mem_cons.mpr ⟨fun _ => le_rfl, fun p hp hw => by
            have := hmin p hp hw
            omega⟩⟩

/-- In the index, what stands for the stream and the instant of `r` is `r`, written. -/
def StandsWritten (r : IngRec) (l : List IngRec) : Prop :=
  (∀ q ∈ l, q.strm = r.strm → q.inst = r.inst → q.written = true ∧ q.seq = r.seq ∧ q.vals = r.vals) ∧
    ∃ q ∈ l, q.strm = r.strm ∧ q.inst = r.inst

/-- The index stays so where every record keeps its stream, instant, sequence number and values, and stays written. -/
theorem StandsWritten.map {r : IngRec} {l : List IngRec} {g : IngRec → IngRec} (h : StandsWritten r l)
    (hg : ∀ q, (g q).strm = q.strm ∧ (g q).inst = q.inst ∧ (g q).written = q.written ∧ (g q).seq = q.seq ∧ (g q).vals = q.vals) :
    StandsWritten r (l.map g) := by
  obtain ⟨hall, p, hp, hps, hpi⟩ := h
  constructor
  · intro x hx
    obtain ⟨q, hq, rfl⟩ := List.mem_map.mp hx
    obtain ⟨hs, hi, hw, hseq, hv⟩ := hg q
    rw [hs, hi, hw, hseq, hv]
    exact hall q hq
  · obtain ⟨hs, hi, -, -, -⟩ := hg p
    exact ⟨g p, List.mem_map_of_mem hp, hs.trans hps, hi.trans hpi⟩

/-- Putting a written record in the place of its stream and instant. -/
theorem standsWritten_put {r : IngRec} {l : List IngRec} (hw : r.written = true) (hl : ∃ q ∈ l, q.strm = r.strm ∧ q.inst = r.inst) :
    StandsWritten r (l.map (fun x => if x.strm == r.strm && x.inst == r.inst then r else x)) := by
  constructor
  · intro x hx hxs hxi
    obtain ⟨q, hq, rfl⟩ := List.mem_map.mp hx
    split
    · exact ⟨hw, rfl, rfl⟩
    next hne =>
      rw [if_neg hne] at hxs hxi
      simp [hxs, hxi] at hne
  · obtain ⟨q, hq, hs, hi⟩ := hl
    exact ⟨r, List.mem_map.mpr ⟨q, hq, by simp [hs, hi]⟩, rfl, rfl⟩

/-- Record `r` stands written in the index, and LAST_SEQ of its stream is its sequence number. -/
structure Written (r : IngRec) (s : State) : Prop where
  stands : StandsWritten r s.ing.recs
  lastSeq : (strmOf s r.strm).lastSeq = r.seq

theorem Written.of_ing {r : IngRec} {s t : State} (h : Written r s) (e : t.ing = s.ing) : Written r t :=
  ⟨by rw [e]; exact h.stands, by rw [strmOf_congr (congrArg Ing.strms e)]; exact h.lastSeq⟩

theorem Written.markBad {r : IngRec} {n inst : Nat} {s : State} (h : Written r s) : Written r (markBad n inst s) := by
  constructor
  · unfold Machine.markBad
    split
    · exact h.stands
    · split
      · exact h.stands
      · simp only [raise_ing, count_ing, strmCount_ing, ingFlag_ing]
        refine h.stands.map fun q => ?_
        split <;> exact ⟨rfl, rfl, rfl, rfl, rfl⟩
  · rw [strmOf_congr ((kept_markBad (Nat.and_self _) (Kept.refl s)).fr.strms rfl)]
    exact h.lastSeq

theorem Written.foldl_markBad {r : IngRec} {inst : Nat} (l : List Nat) {s : State} (h : Written r s) :
    Written r (l.foldl (fun s m => Machine.markBad m inst s) s) := by
  induction l generalizing s with
  | nil => exact h
  | cons m l ih => exact ih h.markBad

@[simp] theorem grpCountN_ing (g k n : Nat) (s : State) : (grpCountN g k n s).ing = s.ing :=
  (kept_grpCountN (Nat.and_self _) (Kept.refl s)).fr.ing rfl
@[simp] theorem alnFlag_ing (b : Nat) (s : State) : (alnFlag b s).ing = s.ing := setFlag_ing ..
theorem harvest_ing (on : Nat → Bool) (typ : Nat) (g : Option Nat) (b : List Byte) (c : Option (Nat × Nat)) (s : State) :
    (harvest on typ g b c s).ing = s.ing :=
  (kept_harvest (Nat.and_self _) (Kept.refl s)).fr.ing rfl
theorem timeoutsReset_ing (r : IngRec) (s : State) : (timeoutsReset r s).ing = s.ing :=
  (kept_timeoutsReset (Nat.and_self _) (Kept.refl s)).fr.ing rfl
theorem foldl_cmpArrive_ing (bad : List Nat) (k : State → Nat) (i : Nat) (l : List Nat) (s : State) :
    (l.foldl (fun s c => cmpArrive bad (k s) c i s) s).ing = s.ing :=
  (kept_foldl (fun _ _ h => kept_cmpArrive (Nat.and_self _) h) (Kept.refl s)).fr.ing rfl

/-- The delivery of a late record may mark records bad, and leaves them written. -/
theorem Written.lateWritten {k : ReadCheck} {r p : IngRec} {s : State} (h : Written r s) : Written r (lateWritten k p s) := by
  unfold Machine.lateWritten
  dsimp only
  split
  · refine Written.of_ing ?_ (harvest_ing ..)
    split
    · exact Written.markBad (h.of_ing (by simp))
    · exact h.of_ing (by simp)
  · exact h.of_ing (by simp)

/-- What the write of `r` first does: it puts `r` in the place of its stream and instant, and LAST_SEQ follows. -/
def recPut (r : IngRec) (s : State) : State :=
  modStrm r.strm (fun q => { q with lastSeq := r.seq })
    { s with ing := { s.ing with recs := s.ing.recs.map (fun x => if x.strm == r.strm && x.inst == r.inst then r else x) } }

theorem written_recPut {r : IngRec} {s : State} (flags : Nat) (hr : r ∈ s.ing.recs) :
    Written r (recPut { r with written := true, iflags := flags } s) :=
  ⟨standsWritten_put (r := { r with written := true, iflags := flags }) rfl ⟨r, hr, rfl, rfl⟩, by simp [recPut]⟩

/-- A record of the index that is written stands in it as written, whatever its first readers find. -/
theorem written_writeRec {k : ReadCheck} {r : IngRec} {s : State} (hr : r ∈ s.ing.recs) : Written r (writeRec k r s) := by
  unfold writeRec
  dsimp only
  split
  · exact Written.lateWritten (written_recPut _ hr)
  · exact Written.of_ing (Written.foldl_markBad _ (written_recPut _ hr))
      ((foldl_cmpArrive_ing _ (fun s => openMax s _) ..).trans (timeoutsReset_ing ..))

theorem exec_ingestRecordWrite {s : State} {r : IngRec} (k : ReadCheck) (ha : alive s = true) (hr : nextRec s.ing.recs = some r) :
    exec (.ingestRecordWrite k) s = .next (writeRec k r s) := by
  change execIngestRecordWrite s k = _
  rw [execIngestRecordWrite, act_of_alive _ ha, hr]

theorem exec_ingestRecordWrite_none {s : State} (k : ReadCheck) (ha : alive s = true) (hr : nextRec s.ing.recs = none) :
    exec (.ingestRecordWrite k) s = .next s := by
  change execIngestRecordWrite s k = _
  rw [execIngestRecordWrite, act_of_alive _ ha, hr]

/-! ## Parity errors of tables (R497) -/

/-- The reload of a table entry is flagged and counted. -/
def parityCounted (s : State) : State := count (PWR + 0x310) (pwrFlag 0 s)

theorem exec_tableParityReload {s : State} (k : Nat) (ha : alive s = true) :
    exec (.tableParityReload k) s =
      .next (if k = secSTREAM_DIR ∨ k = secCHANNEL then setFlag (parityCounted s) (ING + 4) 5 else parityCounted s) := by
  change execTableParityReload k s = _
  rw [execTableParityReload, act_of_alive _ ha]
  rfl

theorem parityCounted_spec {s : State} (hl : s.hp.length = 4) :
    counter (parityCounted s) (PWR + 0x310) 0xFFFF = counter s (PWR + 0x310) 0xFFFF + 1#32 ∧
      flagged (parityCounted s) (PWR + 4) 0 ∧ (parityCounted s).hp.length = 4 ∧ (parityCounted s).cfg = s.cfg := by
  have hk : Kept 982252228520449088159744 s (parityCounted s) := kept_count rfl (kept_pwrFlag rfl (Kept.refl s))
  refine ⟨?_, flagged_count (flagged_setFlag hl (by decide)), hk.hp hl, hk.fr.cfg rfl⟩
  rw [parityCounted, counter_count, pwrFlag, counter, setFlag_cnt, ← counter]

theorem tableParityReload_counts {s : State} (k : Nat) (hl : s.hp.length = 4) (ha : alive s = true) :
    ∃ t, exec (.tableParityReload k) s = .next t ∧ counter t (PWR + 0x310) 0xFFFF = counter s (PWR + 0x310) 0xFFFF + 1#32 ∧
      flagged t (PWR + 4) 0 ∧ ((k = secSTREAM_DIR ∨ k = secCHANNEL) → flagged t (ING + 4) 5) ∧ t.cfg = s.cfg := by
  obtain ⟨hcnt, hflag, hlen, hcfg⟩ := parityCounted_spec hl
  refine ⟨_, exec_tableParityReload k ha, ?_⟩
  split
  · refine ⟨?_, flagged_keep hflag, fun _ => flagged_setFlag hlen (by decide), by rw [setFlag_cfg, hcfg]⟩
    rw [counter, setFlag_cnt, ← counter, hcnt]
  next hk => exact ⟨hcnt, hflag, fun h => absurd h hk, hcfg⟩

/-- Settles O27: the record that is written next, no unwritten record, and the reload of a table entry. -/
theorem ingestRecordsAreWrittenInOrder : Obligations.IngestRecordsAreWrittenInOrder := by
  refine ⟨fun s r k ha hr => ?_, fun s k ha hall => exec_ingestRecordWrite_none k ha (nextRec_eq_none.mpr hall),
    fun s k hl ha => tableParityReload_counts k hl ha⟩
  obtain ⟨hmem, hunwritten, hfirst⟩ := nextRec_spec hr
  obtain ⟨⟨hall, hex⟩, hseq⟩ := written_writeRec (k := k) hmem
  exact ⟨hmem, hunwritten, hfirst, _, exec_ingestRecordWrite k ha hr, hall, hex, hseq⟩

/-! ## Streams that change state together (R127, R129) -/

theorem strmOf_setStrmState (n st : Nat) (s : State) (m : Nat) :
    strmOf (setStrmState n st s) m =
      if m = n then { strmOf s n with st := st, credit := if st = 2 ∧ (strmOf s n).st ≠ 2 then creditCap s n else (strmOf s n).credit }
      else strmOf s m := by
  unfold setStrmState
  dsimp only
  split
  · rw [strmOf_modStrm, strmOf_ingFlag, strmOf_ingFlag, creditCap, tps, f0, ingFlag, setFlag_cfg]
    rfl
  · rw [strmOf_modStrm]

theorem strmOf_setStrmState_of_ne {n m : Nat} (h : m ≠ n) (st : Nat) (s : State) : strmOf (setStrmState n st s) m = strmOf s m := by
  rw [strmOf_setStrmState, if_neg h]

/-- A fold of an operation that brings its stream to `P` and leaves every other stream. -/
theorem foldl_strms {F : State → Nat → State} {P : Strm → Prop} (hself : ∀ s m, P (strmOf (F s m) m))
    (hother : ∀ s m k, k ≠ m → strmOf (F s m) k = strmOf s k) (l : List Nat) (s : State) :
    (∀ m ∈ l, P (strmOf (l.foldl F s) m)) ∧ ∀ m, m ∉ l → strmOf (l.foldl F s) m = strmOf s m := by
  induction l generalizing s with
  | nil => exact ⟨nofun, fun _ _ => rfl⟩
  | cons a l ih =>
    obtain ⟨hin, hout⟩ := ih (F s a)
    rw [List.foldl_cons]
    refine ⟨List.forall_mem_cons.mpr ⟨?_, hin⟩, fun m hm => ?_⟩
    · by_cases ha : a ∈ l
      · exact hin a ha
      · rw [hout a ha]
        exact hself s a
    · obtain ⟨hne, hml⟩ := not_or.mp (List.mem_cons.not.mp hm)
      rw [hout m hml, hother s a m hne]

theorem foldl_setStrmState (st : Nat) (l : List Nat) (s : State) :
    ∀ m ∈ l, (strmOf (l.foldl (fun s m => setStrmState m st s) s) m).st = st := by
  refine (foldl_strms (P := fun r => r.st = st) (fun s m => ?_) (fun s m k hk => strmOf_setStrmState_of_ne hk st s) l s).1
  rw [strmOf_setStrmState, if_pos rfl]

/-! ## Commands to a source (R104, R128) -/

@[simp] theorem enqueueMask_ing (mask : Nat) (body : TxBody) (len : Nat) (due : Option Nat) (s : State) :
    (enqueueMask mask body len due s).ing = s.ing :=
  (kept_enqueueMask (Nat.and_self _) (Kept.refl s)).fr.ing rfl
@[simp] theorem enqueueMask_cfg (mask : Nat) (body : TxBody) (len : Nat) (due : Option Nat) (s : State) :
    (enqueueMask mask body len due s).cfg = s.cfg :=
  (kept_enqueueMask (Nat.and_self _) (Kept.refl s)).fr.cfg rfl

/-- The state in which stream `n` notes that a command was sent. -/
def requestNoted (n : Nat) (s : State) : State := modStrm n (fun r => { r with reqAt := s.tb.tick }) s

/-- The frame of command `cmd` for path `p` of stream `n`, put on the ports of the path; `im` is the vintage in force. -/
def sendOnPath (im : Image) (n cmd : Nat) (s : State) (p : CmdPath) : State :=
  enqueueMask (cmdMask s n p) (.srcCmd n cmd p (cmdBytes s (dir im n 0 15 0) cmd)) (cmdLen im n p) none s

theorem sendOnPath_keeps (im : Image) (n cmd : Nat) (s : State) (p : CmdPath) :
    (sendOnPath im n cmd s p).cfg = s.cfg ∧ (sendOnPath im n cmd s p).ing = s.ing :=
  ⟨enqueueMask_cfg .., enqueueMask_ing ..⟩

theorem foldl_sendOnPath_keeps (im : Image) (n cmd : Nat) (l : List CmdPath) (s : State) :
    (l.foldl (sendOnPath im n cmd) s).cfg = s.cfg ∧ (l.foldl (sendOnPath im n cmd) s).ing = s.ing := by
  induction l generalizing s with
  | nil => exact ⟨rfl, rfl⟩
  | cons p l ih =>
    obtain ⟨hcfg, hing⟩ := sendOnPath_keeps im n cmd s p
    obtain ⟨ihcfg, ihing⟩ := ih (sendOnPath im n cmd s p)
    exact ⟨ihcfg.trans hcfg, ihing.trans hing⟩

/-- A command to a source goes out on its paths one after another. -/
theorem sendSrcCmd_eq (n cmd : Nat) (s : State) (k : Option Nat) :
    sendSrcCmd n cmd s k = (cmdPaths (requestNoted n s) n k).foldl (sendOnPath s.cfg.active n cmd) (requestNoted n s) := rfl

/-- Of the streams, a command to a source notes its instant. -/
theorem strmOf_sendSrcCmd (n cmd : Nat) (s : State) (k : Option Nat) (m : Nat) :
    strmOf (sendSrcCmd n cmd s k) m = if m = n then { strmOf s n with reqAt := s.tb.tick } else strmOf s m := by
  obtain ⟨-, hing⟩ := foldl_sendOnPath_keeps s.cfg.active n cmd (cmdPaths (requestNoted n s) n k) (requestNoted n s)
  rw [sendSrcCmd_eq, strmOf_congr (congrArg Ing.strms hing), requestNoted, strmOf_modStrm]

/-! ## Configuration and header frames (R123, R126, R127, R130) -/

theorem exec_cfgFrameRx {s u v : State} {h : Handed} {hdr : IpHdr} {bs : List Byte} {o b : Bool} (ha : alive s = true)
    (hq : takeHanded .streamCfg s = some (h, u)) (hp : h.frame.payload = .ip hdr bs o) (hc : ctlAdmit h.obj bs u = (v, b)) :
    exec .cfgFrameRx s =
      .next (if b then cfgFrame h.obj (cfgParse (c37Type bs) bs) v (srcUnit v.cfg.active h.obj hdr.src) else v) := by
  change execCfgFrameRx s = _
  rw [execCfgFrameRx, act_of_alive _ ha]
  simp only [hq, hp, hc]

theorem exec_headerFrameRx {s u v : State} {h : Handed} {hdr : IpHdr} {bs : List Byte} {o : Bool} (ha : alive s = true)
    (hq : takeHanded .streamHeader s = some (h, u)) (hp : h.frame.payload = .ip hdr bs o) (hc : ctlAdmit h.obj bs u = (v, true)) :
    exec .headerFrameRx s = .next (if c37Type bs = 1 then modStrm h.obj (fun r => { r with header := bs }) v
      else modStrm h.obj (fun r => { r with cfg1 := bs }) (noteCfgCnt h.obj (cfgParse 2 bs) v)) := by
  change execHeaderFrameRx s = _
  rw [execHeaderFrameRx, act_of_alive _ ha]
  simp [hq, hp, hc]

section
variable {n : Nat} {bs : List Byte} {s : State}

/-- The control frames of stream `n` in the present second (R130). -/
def ctlCount (s : State) (n : Nat) : Nat := if (strmOf s n).ctlSec = limitSec s then (strmOf s n).ctlN else 0

theorem ctlAdmit_of_size (h : beAt bs 2 2 < 18 ∨ fld (imgReg s.cfg.active (ING + 0xC)) 15 0 < beAt bs 2 2) :
    ctlAdmit n bs s = (strmCount n 2 s, false) := if_pos h

theorem ctlAdmit_of_rate (hlo : 18 ≤ beAt bs 2 2) (hhi : beAt bs 2 2 ≤ fld (imgReg s.cfg.active (ING + 0xC)) 15 0)
    (h : ctlRate s ≤ ctlCount s n) : ctlAdmit n bs s = (strmCount n 12 s, false) :=
  (if_neg (by omega)).trans (if_pos h)

/-- The frame that is let through is counted, in its second and in counter 11. -/
def ctlTaken (n : Nat) (s : State) : State :=
  strmCount n 11 (modStrm n (fun r => { r with ctlSec := limitSec s, ctlN := ctlCount s n + 1 }) s)

theorem ctlAdmit_within (hlo : 18 ≤ beAt bs 2 2) (hhi : beAt bs 2 2 ≤ fld (imgReg s.cfg.active (ING + 0xC)) 15 0)
    (h : ctlCount s n < ctlRate s) : ctlAdmit n bs s = (ctlTaken n s, true) :=
  (if_neg (by omega)).trans (if_neg (Nat.not_le.mpr h))

/-- Only a frame within both limits is let through. -/
theorem ctlAdmit_passed {v : State} (h : ctlAdmit n bs s = (v, true)) : v = ctlTaken n s := by
  by_cases hz : beAt bs 2 2 < 18 ∨ fld (imgReg s.cfg.active (ING + 0xC)) 15 0 < beAt bs 2 2
  · simp [ctlAdmit_of_size hz] at h
  · obtain ⟨hlo, hhi⟩ := not_or.mp hz
    by_cases hr : ctlRate s ≤ ctlCount s n
    · simp [ctlAdmit_of_rate (Nat.not_lt.mp hlo) (Nat.not_lt.mp hhi) hr] at h
    · rw [ctlAdmit_within (Nat.not_lt.mp hlo) (Nat.not_lt.mp hhi) (Nat.not_le.mp hr)] at h
      exact (Prod.mk.inj h).1.symm

end

theorem ctlTaken_cfg (n : Nat) (s : State) : (ctlTaken n s).cfg = s.cfg := strmCount_cfg ..

theorem strmOf_ctlTaken_of_ne {n m : Nat} (h : m ≠ n) (s : State) : strmOf (ctlTaken n s) m = strmOf s m := by
  rw [ctlTaken, strmOf_strmCount, strmOf_modStrm_of_ne h]

theorem conn_modConn_self (r : Strm) (k : Nat) (f : SrcConn → SrcConn) : (r.modConn k f).conn k = f (r.conn k) := by
  unfold Strm.conn Strm.modConn
  by_cases hk : k = 0 <;> simp [hk]

theorem modConn_st (r : Strm) (k : Nat) (f : SrcConn → SrcConn) : (r.modConn k f).st = r.st := by
  unfold Strm.modConn
  split <;> rfl

/-- The streams of a bundle in the state that a configuration frame of it decides. -/
def bundleEntered (n st : Nat) (c : CfgFrame) (s : State) : State :=
  (bundle s.cfg.active n).foldl (fun s m => setStrmState m st s) (noteCfgCnt n c s)

/-- A configuration frame that differs puts every stream of the bundle in MISMATCH (R127). -/
theorem cfgFrame_differs {n i : Nat} {c : CfgFrame} {s : State} {k : Nat} (h : cfgDiffers s.cfg.active n c = some i) :
    ∀ m ∈ bundle s.cfg.active n, (strmOf (cfgFrame n c s k) m).st = 3 := by
  have e : cfgFrame n c s k = raise 0x0402 (strmObj (noteCfgCnt n c s) n) (leBytes 2 i) (bundleEntered n 3 c s) := by
    simp only [cfgFrame, h]
    rfl
  intro m hm
  rw [e, strmOf_raise]
  exact foldl_setStrmState 3 _ _ m hm

/-- The bundle in RUN, its event raised. -/
def bundleRuns (n : Nat) (c : CfgFrame) (s : State) : State := raise 0x0401 (strmObj (noteCfgCnt n c s) n) [] (bundleEntered n 2 c s)

/-- A configuration frame that agrees turns its source on, unless that was told already (Table 4-6). -/
theorem cfgFrame_agrees {n : Nat} {c : CfgFrame} {s : State} {k : Nat} (h : cfgDiffers s.cfg.active n c = none) :
    cfgFrame n c s k = if ((strmOf (bundleRuns n c s) n).conn k).turnedOn then bundleRuns n c s
      else sendSrcCmd n 2 (modStrm n (fun r => r.modConn k (fun c => { c with turnedOn := true })) (bundleRuns n c s)) (some k) := by
  simp only [cfgFrame, h]
  rfl

theorem cfgFrame_runs {n : Nat} {c : CfgFrame} {s : State} {k : Nat} (h : cfgDiffers s.cfg.active n c = none) :
    (∀ m ∈ bundle s.cfg.active n, (strmOf (cfgFrame n c s k) m).st = 2) ∧ ((strmOf (cfgFrame n c s k) n).conn k).turnedOn = true := by
  have hrun : ∀ m ∈ bundle s.cfg.active n, (strmOf (bundleRuns n c s) m).st = 2 := fun m hm => by
    rw [bundleRuns, strmOf_raise]
    exact foldl_setStrmState 2 _ _ m hm
  rw [cfgFrame_agrees h]
  split
  next hon => exact ⟨hrun, hon⟩
  · constructor
    · intro m hm
      rw [strmOf_sendSrcCmd]
      split
      next hmn =>
        subst hmn
        rw [strmOf_modStrm_self]
        exact (modConn_st ..).trans (hrun m hm)
      next hmn =>
        rw [strmOf_modStrm_of_ne hmn]
        exact hrun m hm
    · rw [strmOf_sendSrcCmd, if_pos rfl, strmOf_modStrm_self]
      exact congrArg SrcConn.turnedOn (conn_modConn_self ..)

/-- Settles O25: the frame that agrees, the one that differs, the limits of size and rate, and the frames stored for host read. -/
theorem configurationFramesDecideTheStreamState : Obligations.ConfigurationFramesDecideTheStreamState := by
  refine ⟨fun s u v h hdr bs o ha hq hp hc => ?_, fun s u h hdr bs o ha hq hp hz => ?_, fun s u h hdr bs o ha hq hp hlo hhi hr => ?_,
    fun s u v h hdr bs o ha hq hp hc => ?_⟩
  · rw [exec_cfgFrameRx ha hq hp hc, if_pos rfl]
    have hcfg : v.cfg = s.cfg := by rw [ctlAdmit_passed hc, ctlTaken_cfg, (takeHanded_ports hq).1]
    rw [← hcfg]
    exact ⟨fun hd => ⟨_, rfl, cfgFrame_runs hd⟩, fun k hd => ⟨_, rfl, cfgFrame_differs hd⟩⟩
  · have hcfg : u.cfg = s.cfg := (takeHanded_ports hq).1
    rw [exec_cfgFrameRx ha hq hp (ctlAdmit_of_size (by rwa [hcfg])), if_neg (by decide)]
  · have hcfg : u.cfg = s.cfg := (takeHanded_ports hq).1
    rw [exec_cfgFrameRx ha hq hp (ctlAdmit_of_rate hlo (by rwa [hcfg]) hr), if_neg (by decide)]
  · rw [exec_headerFrameRx ha hq hp hc]
    obtain rfl := ctlAdmit_passed hc
    refine ⟨fun ht => ⟨_, rfl, ?_⟩, fun ht => ⟨_, rfl, ?_⟩⟩
    · rw [if_pos ht]
      refine ⟨by simp, fun m hm => ?_⟩
      rw [strmOf_modStrm_of_ne hm, strmOf_ctlTaken_of_ne hm]
      obtain ⟨x, rfl⟩ := takeHanded_some hq
      rfl
    · rw [if_neg ht, strmOf_modStrm_self]

/-! ## Connections (R129) -/

theorem strmOf_setTcp (n st k : Nat) (c : SrcConn) (s : State) :
    (∀ m ∈ bundle s.cfg.active n, (strmOf (setTcp n st k c s) m).st = st ∧ (strmOf (setTcp n st k c s) m).conn k = c) ∧
      ∀ m, m ∉ bundle s.cfg.active n → strmOf (setTcp n st k c s) m = strmOf s m := by
  refine foldl_strms (P := fun r => r.st = st ∧ r.conn k = c) (fun s m => ?_) (fun s m j hj => ?_) (bundle s.cfg.active n) s
  · rw [strmOf_setStrmState, if_pos rfl, strmOf_modStrm_self]
    exact ⟨rfl, conn_modConn_self ..⟩
  · rw [strmOf_setStrmState_of_ne hj, strmOf_modStrm_of_ne hj]

theorem exec_tcpConnect {s : State} {n k : Nat} (port : Option Nat) (ha : alive s = true) (ht : tcpHead s n k = true)
    (hd : ((strmOf s n).conn k).up = false) :
    exec (.tcpConnect n k port) s = .next (sendSrcCmd n 5 (raise 0x0404 (strmObj s n) []
      (setTcp n 1 k { up := true, port := port.getD (lowPort s.cfg.active n) } s)) (some k)) := by
  change execTcpConnect n s k port = _
  rw [execTcpConnect, act_of_alive _ ha]
  simp [ht, hd]

theorem exec_tcpDisconnect {s : State} {n k : Nat} (ha : alive s = true) (ht : tcpHead s n k = true)
    (hu : ((strmOf s n).conn k).up = true) : exec (.tcpDisconnect n k) s = .next (tcpDown n k s) := by
  change execTcpDisconnect n s k = _
  rw [execTcpDisconnect, act_of_alive _ ha]
  simp [ht, hu]

theorem exec_tcpRetry {s : State} {n ns : Nat} (ha : alive s = true) (hv : dirValid s.cfg.active n = true)
    (ht : dirTransport s.cfg.active n = 1)
    (hd : (strmOf s n).ca.up = false ∨ (dirPaired s.cfg.active n = true ∧ (strmOf s n).cb.up = false))
    (hdue : (strmOf s n).reqAt + 5 * tps s ≤ s.tb.tick) :
    exec (.tcpRetry n ns) s = .next (modStrm n (fun r => { r with tcpTries := r.tcpTries + 1, reqAt := s.tb.tick }) (seen ns s)) := by
  have hdown : (!(strmOf s n).ca.up || (dirPaired s.cfg.active n && !(strmOf s n).cb.up)) = true := by simpa using hd
  change execTcpRetry n ns s = _
  rw [execTcpRetry, act_of_alive _ ha]
  exact congrArg _ (if_pos ⟨hv, ht, hdown, hdue⟩)

theorem exec_cfgRequestRepeat {s : State} {n ns : Nat} (ha : alive s = true) (hv : dirValid s.cfg.active n = true)
    (hh : dir s.cfg.active n 1 19 14 = 0)
    (hw : ∃ m ∈ bundle s.cfg.active n, (strmOf s m).st = 1 ∨ (strmOf s m).st = 3 ∨ (strmOf s m).bit10 = true)
    (hdue : (strmOf s n).reqAt + 10 * tps s ≤ s.tb.tick) :
    exec (.cfgRequestRepeat n ns) s = .next (sendSrcCmd n 5 (seen ns s)) := by
  have hwants : (bundle s.cfg.active n).any (fun m => (strmOf s m).st == 1 || (strmOf s m).st == 3 || (strmOf s m).bit10) = true := by
    simpa [or_assoc] using hw
  change execCfgRequestRepeat n ns s = _
  rw [execCfgRequestRepeat, act_of_alive _ ha]
  exact congrArg _ (if_pos ⟨hv, hh, hwants, hdue⟩)

/-- TCP_CONNECT of a connection that does not stand. -/
theorem tcpConnect_stands {s : State} {n k : Nat} (port : Option Nat) (ha : alive s = true) (ht : tcpHead s n k = true)
    (hd : ((strmOf s n).conn k).up = false) :
    ∃ t, exec (.tcpConnect n k port) s = .next t ∧
      (∀ m ∈ bundle s.cfg.active n, (strmOf t m).st = 1 ∧
        (strmOf t m).conn k = { up := true, port := port.getD (lowPort s.cfg.active n) }) ∧
      (strmOf t n).reqAt = s.tb.tick ∧ ∀ m, m ≠ n → m ∉ bundle s.cfg.active n → strmOf t m = strmOf s m := by
  obtain ⟨hin, hout⟩ := strmOf_setTcp n 1 k { up := true, port := port.getD (lowPort s.cfg.active n) } s
  have htb : (setTcp n 1 k { up := true, port := port.getD (lowPort s.cfg.active n) } s).tb = s.tb :=
    (kept_setTcp (Nat.and_self _) (Kept.refl s)).fr.tb rfl
  refine ⟨_, exec_tcpConnect port ha ht hd, fun m hm => ?_, ?_, fun m hne hm => ?_⟩ <;> rw [strmOf_sendSrcCmd]
  · split
    next hmn =>
      subst hmn
      rw [strmOf_raise]
      exact hin m hm
    next => rw [strmOf_raise]; exact hin m hm
  · rw [if_pos rfl, raise_tb, htb]
  · rw [if_neg hne, strmOf_raise, hout m hm]

/-- TCP_DISCONNECT of a connection that stands. -/
theorem tcpDisconnect_falls {s : State} {n k : Nat} (ha : alive s = true) (ht : tcpHead s n k = true)
    (hu : ((strmOf s n).conn k).up = true) :
    ∃ t, exec (.tcpDisconnect n k) s = .next t ∧ (∀ m ∈ bundle s.cfg.active n, (strmOf t m).st = 0 ∧ (strmOf t m).conn k = {}) ∧
      ∀ m, m ∉ bundle s.cfg.active n → strmOf t m = strmOf s m := by
  obtain ⟨hin, hout⟩ := strmOf_setTcp n 0 k {} s
  refine ⟨_, exec_tcpDisconnect ha ht hu, fun m hm => ?_, fun m hm => ?_⟩ <;> rw [tcpDown, strmOf_raise]
  · exact hin m hm
  · exact hout m hm

/-! ## Frames for the ports of a mask (R104) -/

/-- An operation on each element of a list that leaves port `k` leaves it in all. -/
theorem portOf_foldl_of_left {α : Type} {F : State → α → State} {I : State → Prop} {k : Nat} {l : List α}
    (hI : ∀ t a, I t → I (F t a)) (hleft : ∀ t a, a ∈ l → I t → portOf (F t a) k = portOf t k) {s : State} (h : I s) :
    portOf (l.foldl F s) k = portOf s k ∧ I (l.foldl F s) := by
  induction l generalizing s with
  | nil => exact ⟨rfl, h⟩
  | cons a l ih =>
    obtain ⟨hp, hi⟩ := ih (fun t b hb => hleft t b (List.mem_cons_of_mem a hb)) (hI s a h)
    exact ⟨hp.trans (hleft s a List.mem_cons_self h), hi⟩

/-- Of the elements of a list only `a` queues a frame at port `k`, and it does so where the port is as at the start: one frame waits more. -/
theorem foldl_queues_once {α : Type} {F : State → α → State} {I : State → Prop} {B : TxBody → Prop} {k : Nat} {l : List α} {a : α}
    (hnd : l.Nodup) (ha : a ∈ l) (hI : ∀ t a, I t → I (F t a)) {s : State} (h : I s)
    (hleft : ∀ t b, b ∈ l → b ≠ a → I t → portOf (F t b) k = portOf t k)
    (hqueue : ∀ t, I t → portOf t k = portOf s k → ∃ f, queuedAt t (F t a) k f ∧ B f.body) :
    ∃ f, queuedAt s (l.foldl F s) k f ∧ B f.body := by
  obtain ⟨l₁, l₂, rfl⟩ := List.append_of_mem ha
  obtain ⟨-, hnd₂, hdis⟩ := List.nodup_append.mp hnd
  have ha₁ : ∀ b ∈ l₁, b ≠ a := fun b hb => hdis b hb a List.mem_cons_self
  have ha₂ : ∀ b ∈ l₂, b ≠ a := fun b hb e => (List.nodup_cons.mp hnd₂).1 (e ▸ hb)
  obtain ⟨hp₁, hi₁⟩ := portOf_foldl_of_left (l := l₁) hI (fun t b hb => hleft t b (by simp [hb]) (ha₁ b hb)) h
  obtain ⟨f, hf, hB⟩ := hqueue _ hi₁ hp₁
  obtain ⟨hp₂, -⟩ := portOf_foldl_of_left (l := l₂) hI (fun t b hb => hleft t b (by simp [hb]) (ha₂ b hb)) (hI _ a hi₁)
  refine ⟨f, ?_, hB⟩
  rw [List.foldl_append, List.foldl_cons, queuedAt, hp₂, ← hp₁]
  exact hf

@[simp] theorem enqueuePair_cfg (p : Nat) (body : TxBody) (len : Nat) (due : Option Nat) (s : State) :
    (enqueuePair p body len due s).cfg = s.cfg :=
  (kept_enqueuePair (Nat.and_self _) (Kept.refl s)).fr.cfg rfl

/-- A frame on a pair leaves every port that is no member of it. -/
theorem portOf_enqueuePair_of_ne {p k len : Nat} {body : TxBody} {due : Option Nat} {s : State} (ha : k ≠ pairA s.cfg.active p)
    (hb : k ≠ pairB s.cfg.active p) : portOf (enqueuePair p body len due s) k = portOf s k := by
  unfold enqueuePair
  dsimp only
  rw [portOf_enqueue1_of_ne (by rwa [enqueue1_cfg]), portOf_enqueue1_of_ne ha]
  rfl

/-- The pairs that `mask` holds whole, and the other ports of `mask`. -/
def maskPairs (im : Image) (mask : Nat) : List Nat :=
  (List.range 6).filter (fun p => pairOn im p && Nat.testBit mask (pairA im p) && Nat.testBit mask (pairB im p))

def maskSingles (im : Image) (mask : Nat) : List Nat :=
  (List.range 13).filter (fun n => Nat.testBit mask n && !(maskPairs im mask).any (fun p => pairA im p == n || pairB im p == n))

theorem enqueueMask_eq (mask : Nat) (body : TxBody) (len : Nat) (due : Option Nat) (s : State) :
    enqueueMask mask body len due s = (maskSingles s.cfg.active mask).foldl (fun s n => enqueue1 n body len none due s)
      ((maskPairs s.cfg.active mask).foldl (fun s p => enqueuePair p body len due s) s) := rfl

section
variable {mask k len : Nat} {body : TxBody} {due : Option Nat} {s : State}

/-- The pairs of a mask leave a port that is a member of none of them. -/
theorem portOf_foldl_enqueuePair (hk : ∀ p ∈ maskPairs s.cfg.active mask, k ≠ pairA s.cfg.active p ∧ k ≠ pairB s.cfg.active p) :
    portOf ((maskPairs s.cfg.active mask).foldl (fun s p => enqueuePair p body len due s) s) k = portOf s k ∧
      ((maskPairs s.cfg.active mask).foldl (fun s p => enqueuePair p body len due s) s).cfg = s.cfg :=
  portOf_foldl_of_left (I := fun t => t.cfg = s.cfg) (fun t p ht => (enqueuePair_cfg ..).trans ht)
    (fun t p hp ht => by
      obtain ⟨ha, hb⟩ := hk p hp
      exact portOf_enqueuePair_of_ne (by rwa [ht]) (by rwa [ht])) rfl

/-- A port outside the mask is left. -/
theorem portOf_enqueueMask_of_not_mem (hk : Nat.testBit mask k = false) : portOf (enqueueMask mask body len due s) k = portOf s k := by
  have hpairs : ∀ p ∈ maskPairs s.cfg.active mask, k ≠ pairA s.cfg.active p ∧ k ≠ pairB s.cfg.active p := by
    intro p hp
    simp only [maskPairs, List.mem_filter, Bool.and_eq_true] at hp
    obtain ⟨-, ⟨-, hA⟩, hB⟩ := hp
    exact ⟨fun e => by simp [← e, hk] at hA, fun e => by simp [← e, hk] at hB⟩
  obtain ⟨hp, -⟩ := portOf_foldl_enqueuePair (body := body) (len := len) (due := due) hpairs
  rw [enqueueMask_eq, ← hp]
  refine (portOf_foldl_of_left (I := fun _ => True) (fun _ _ _ => trivial) (fun t n hn _ => ?_) trivial).1
  refine portOf_enqueue1_of_ne fun e => ?_
  simp [maskSingles, ← e, hk] at hn

/-- On every unpaired port of the mask that may carry it, one frame waits behind the others. -/
theorem enqueueMask_sentOn : sentOn s (enqueueMask mask body len due s) mask len (fun b => b = body) := by
  intro k hk hmask hunpaired hup hlen
  have hpairs : ∀ p ∈ maskPairs s.cfg.active mask, k ≠ pairA s.cfg.active p ∧ k ≠ pairB s.cfg.active p := by
    intro p hp
    simp only [maskPairs, List.mem_filter, Bool.and_eq_true] at hp
    obtain ⟨hr, ⟨hon, -⟩, -⟩ := hp
    have hne := List.find?_eq_none.mp hunpaired p hr
    simp only [hon, Bool.true_and, Bool.or_eq_true, beq_iff_eq, not_or] at hne
    exact ⟨hne.1 ∘ Eq.symm, hne.2 ∘ Eq.symm⟩
  obtain ⟨hp, hcfg⟩ := portOf_foldl_enqueuePair (body := body) (len := len) (due := due) hpairs
  have hmem : k ∈ maskSingles s.cfg.active mask := by
    refine List.mem_filter.mpr ⟨List.mem_range.mpr hk, ?_⟩
    rw [hmask, Bool.true_and, Bool.not_eq_true', List.any_eq_false]
    intro p hp
    obtain ⟨ha, hb⟩ := hpairs p hp
    simp [ha.symm, hb.symm]
  obtain ⟨f, hf, hbody⟩ := foldl_queues_once (I := fun t => t.cfg = s.cfg) (B := fun b => b = body)
    (F := fun s n => enqueue1 n body len none due s) (List.nodup_range.filter _) hmem (fun t n ht => (enqueue1_cfg ..).trans ht) hcfg
    (fun t n _ hne _ => portOf_enqueue1_of_ne hne.symm)
    (fun t ht hpt => ⟨_, enqueue1_queued (by rwa [hpt, hp]) (by rwa [maxLen, ht]), rfl⟩)
  refine ⟨f, ?_, hbody⟩
  rw [enqueueMask_eq, queuedAt, ← hp]
  exact hf

end

/-! ## Requests for configuration (R128) -/

theorem cmdPaths_nodup (s : State) (n : Nat) (k : Option Nat) : (cmdPaths s n k).Nodup := by
  have hudp : ∀ (a : Nat) (p : CmdPath), (if a = 0 then [] else [p]).Nodup := fun a p => by split <;> simp
  unfold cmdPaths
  dsimp only
  split
  · exact (List.nodup_range.filter _).map fun _ _ => CmdPath.tcp.inj
  · exact hudp _ _

/-- From `s` to `t` the vintage, the connections of stream `n` and its latest source are the same: what its command paths depend on. -/
structure SamePaths (n : Nat) (s t : State) : Prop where
  cfg : t.cfg = s.cfg
  conn : ∀ i, (strmOf t n).conn i = (strmOf s n).conn i
  peer : (strmOf t n).peer = (strmOf s n).peer

theorem SamePaths.cmdPaths {n : Nat} {s t : State} (h : SamePaths n s t) (k : Option Nat) : cmdPaths t n k = cmdPaths s n k := by
  simp only [Machine.cmdPaths, h.cfg, h.conn, h.peer]

theorem SamePaths.cmdMask {n : Nat} {s t : State} (h : SamePaths n s t) (p : CmdPath) : cmdMask t n p = cmdMask s n p := by
  cases p with
  | tcp i => simp only [Machine.cmdMask, h.cfg, h.conn]
  | udp => simp only [Machine.cmdMask, h.cfg]

theorem SamePaths.sendOnPath {n : Nat} {s t : State} (h : SamePaths n s t) (im : Image) (cmd : Nat) (p : CmdPath) :
    SamePaths n s (sendOnPath im n cmd t p) := by
  obtain ⟨hcfg, hing⟩ := sendOnPath_keeps im n cmd t p
  have hstrm := strmOf_congr (congrArg Ing.strms hing) n
  exact ⟨hcfg.trans h.cfg, fun i => by rw [hstrm, h.conn], by rw [hstrm, h.peer]⟩

theorem samePaths_requestNoted (n : Nat) (s : State) : SamePaths n s (requestNoted n s) where
  cfg := rfl
  conn i := by
    rw [requestNoted, strmOf_modStrm_self]
    unfold Strm.conn
    split <;> rfl
  peer := by rw [requestNoted, strmOf_modStrm_self]

/-- Of the paths of a stream, one that alone sends on port `k` puts the command there, behind the frames that wait. -/
theorem sendSrcCmd_queues {n cmd k : Nat} {s : State} {p : CmdPath} (hp : p ∈ cmdPaths s n none) (hk : k < 13)
    (hm : Nat.testBit (cmdMask s n p) k = true) (honly : ∀ q ∈ cmdPaths s n none, q ≠ p → Nat.testBit (cmdMask s n q) k = false)
    (hpair : pairOf s.cfg.active k = none) (hup : (portOf s k).linkUp = true)
    (hlen : max 64 (cmdLen s.cfg.active n p) ≤ maxLen s k) :
    ∃ f bs, queuedAt s (sendSrcCmd n cmd s none) k f ∧ f.body = .srcCmd n cmd p bs := by
  have hn := samePaths_requestNoted n s
  rw [sendSrcCmd_eq, hn.cmdPaths]
  obtain ⟨f, hf, bs, hbody⟩ := foldl_queues_once (I := SamePaths n s) (B := fun b => ∃ bs, b = .srcCmd n cmd p bs) (k := k)
    (F := sendOnPath s.cfg.active n cmd) (cmdPaths_nodup s n none) hp (fun t q ht => ht.sendOnPath ..) hn
    (fun t q hq hne ht => portOf_enqueueMask_of_not_mem (by rw [ht.cmdMask]; exact honly q hq hne))
    (fun t ht hpt => by
      obtain ⟨f, hf, hb⟩ := enqueueMask_sentOn (s := t) (mask := cmdMask t n p) (len := cmdLen s.cfg.active n p) (due := none)
        (body := .srcCmd n cmd p (cmdBytes t (dir s.cfg.active n 0 15 0) cmd)) k hk (by rwa [ht.cmdMask]) (by rwa [ht.cfg])
        (by rw [hpt]; exact hup) (by rwa [maxLen, ht.cfg])
      exact ⟨f, hf, _, hb⟩)
  exact ⟨f, bs, hf, hbody⟩

/-- Settles O26: connections that rise, fall and are tried again, and the request for configuration. -/
theorem tcpStreamsAndConfigurationRequests : Obligations.TcpStreamsAndConfigurationRequests := by
  refine ⟨fun s n k port ha ht hd => tcpConnect_stands port ha ht hd, fun s n k ha ht hu => tcpDisconnect_falls ha ht hu,
    fun s n ns ha hv ht hd hdue => ?_, fun s n ns ha hv hh hw hdue => ?_⟩
  · refine ⟨_, exec_tcpRetry ha hv ht hd hdue, ?_, fun m hm => ?_⟩
    · rw [strmOf_modStrm_self]
      rfl
    · rw [strmOf_modStrm_of_ne hm]
      rfl
  · refine ⟨_, exec_cfgRequestRepeat ha hv hh hw hdue, ?_, fun p hp k hk hm honly hpair hup hlen => ?_⟩
    · rw [strmOf_sendSrcCmd, if_pos rfl]
      rfl
    · exact sendSrcCmd_queues (s := seen ns s) hp hk hm honly hpair hup hlen

end Sys2Proof.Machine

/-!
Alignment (chapter 5): the run state of groups, their start and the close of their windows (R146, R147, R151), the seal (R149, R161), and the
expiry of TIMEOUT comparators (R235).
-/
namespace Sys2Proof.Machine

/-! ## The run state of a group -/

theorem grpOf_congr {s t : State} (h : t.aln.grps = s.aln.grps) (g : Nat) : grpOf t g = grpOf s g := by
  rw [grpOf, h, grpOf]

theorem grpOf_modGrp (g : Nat) (f : Grp → Grp) (s : State) (h : Nat) :
    grpOf (modGrp g f s) h = if h = g then f (grpOf s g) else grpOf s h := by
  simp only [grpOf, modGrp, fgetD_fmod]

@[simp] theorem grpOf_modGrp_self (g : Nat) (f : Grp → Grp) (s : State) : grpOf (modGrp g f s) g = f (grpOf s g) := by
  simp [grpOf_modGrp]

theorem grpOf_modGrp_of_ne {g h : Nat} (hne : h ≠ g) (f : Grp → Grp) (s : State) : grpOf (modGrp g f s) h = grpOf s h := by
  simp [grpOf_modGrp, hne]

theorem grpPeriod_congr {s t : State} (h : t.cfg = s.cfg) : grpPeriod t = grpPeriod s := by
  funext g
  simp only [grpPeriod, period, tps, f0, h]

/-! ## The start of a group (R151) -/

/-- A group that starts at its first instant `i`. -/
def grpStarted (i : Nat) (r : Grp) : Grp :=
  { r with st := 2, start := i, nextClose := i, nextSeal := i, first := true, hold := [] }

theorem grps_foldl_cmpArrive (bad : List Nat) (k : State → Nat) (i : Nat) (l : List Nat) (s : State) :
    (l.foldl (fun s c => cmpArrive bad (k s) c i s) s).aln.grps = s.aln.grps :=
  (kept_foldl (fun _ _ h => kept_cmpArrive (Nat.and_self _) h) (Kept.refl s)).fr.grps rfl

theorem grps_detectorsStart (g i : Nat) (s : State) : (detectorsStart g i s).aln.grps = s.aln.grps :=
  (kept_detectorsStart (Nat.and_self _) (Kept.refl s)).fr.grps rfl

/-- Of the groups, the start changes the one that starts; its detectors, comparators and recorders are no part of them. -/
theorem grps_groupStart (g : Nat) (s : State) :
    (groupStart g s).aln.grps = (modGrp g (grpStarted (firstInst s g (grpOf s g).since)) s).aln.grps := by
  unfold groupStart
  dsimp only
  rw [grps_foldl_cmpArrive, grps_detectorsStart]
  rfl

theorem grps_groupRecs (g i : Nat) (s : State) : (groupRecs g i s).aln.grps = s.aln.grps :=
  (kept_groupRecs (Nat.and_self _) (Kept.refl s)).fr.grps rfl

theorem exec_groupStart {s : State} {g : Nat} (ha : alive s = true) (hm : groupMayStart s g = true) :
    exec (.groupStart g) s = .next (groupRecs g (firstInst s g (grpOf s g).since) (groupStart g s)) := by
  change execGroupStart g s = _
  rw [execGroupStart, act_of_alive _ ha, if_pos hm]

theorem exec_groupStart_waits {s : State} {g : Nat} (ha : alive s = true) (hm : groupMayStart s g = false) :
    exec (.groupStart g) s = .next s := by
  change execGroupStart g s = _
  rw [execGroupStart, act_of_alive _ ha, hm, if_neg Bool.false_ne_true]

/-! ## The close of a window (R146, R147) -/

/-- Group `g` with the close of its next instant passed. -/
def windowClosed (g : Nat) (s : State) : State :=
  modGrp g (fun q => { q with nextClose := (grpOf s g).nextClose + grpPeriod s g }) s

theorem grps_trigGroup (g i : Nat) (s : State) : (trigGroup g i s).aln.grps = s.aln.grps :=
  (kept_trigGroup (Nat.and_self _) (Kept.refl s)).fr.grps rfl

theorem exec_windowClose {s : State} {g : Nat} (ha : alive s = true) (hs : (grpOf s g).st = 2) (ht : hasTime s = true)
    (hc : closeOf s g (grpOf s g).nextClose ≤ s.tb.grid) :
    exec (.windowClose g) s = .next (trigGroup g (grpOf s g).nextClose (windowClosed g s)) := by
  change execWindowClose g s = _
  rw [execWindowClose, act_of_alive _ ha]
  simp [hs, ht, hc, windowClosed]

theorem exec_windowClose_early {s : State} {g : Nat} (ha : alive s = true)
    (hc : s.tb.grid < closeOf s g (grpOf s g).nextClose) : exec (.windowClose g) s = .next s := by
  change execWindowClose g s = _
  rw [execWindowClose, act_of_alive _ ha]
  simp [Nat.not_le.mpr hc]

/-- Settles O28: the start of a group whose first instant has come and of one that waits on, the close at C(I) and before it. -/
theorem groupsStartAndWindowsClose : Obligations.GroupsStartAndWindowsClose := by
  refine ⟨fun s g ha hm => ?_, fun s g ha hm => exec_groupStart_waits ha hm, fun s g ha hs ht hc => ?_,
    fun s g ha hc => exec_windowClose_early ha hc⟩
  · have hgrps := grpOf_congr ((grps_groupRecs g (firstInst s g (grpOf s g).since) _).trans (grps_groupStart g s))
    have hself := (hgrps g).trans (grpOf_modGrp_self ..)
    refine ⟨_, exec_groupStart ha hm, ?_⟩
    rw [hself]
    exact ⟨rfl, rfl, rfl, rfl, rfl, rfl, fun h hne => (hgrps h).trans (grpOf_modGrp_of_ne hne ..)⟩
  · have hgrps := grpOf_congr (grps_trigGroup g (grpOf s g).nextClose (windowClosed g s))
    exact ⟨_, exec_windowClose ha hs ht hc, (hgrps g).trans (grpOf_modGrp_self ..),
      fun h hne => (hgrps h).trans (grpOf_modGrp_of_ne hne ..)⟩

/-! ## The sealed set (R149, R164) -/

theorem buildSet_strms (s : State) (g i : Nat) : (buildSet s g i).blocks.map (·.strm) = groupStrms s.cfg.active g := by
  simp [buildSet, Function.comp_def, sealBlock]

/-- A check marks a set, and fails it when the rebuild fails; group, instant and the streams of the blocks stay. -/
theorem checkedSet_spec (res : Nat) (x : ASet) :
    (checkedSet res x).group = x.group ∧ (checkedSet res x).inst = x.inst ∧
      (checkedSet res x).blocks.map (·.strm) = x.blocks.map (·.strm) ∧
      (checkedSet res x).failed = (x.failed || decide (2 ≤ res)) := by
  unfold checkedSet
  split
  next h0 => simp [h0]
  next h0 =>
    split
    next h1 => simp [h1]
    next h1 =>
      have h2 : 2 ≤ res := by omega
      simp [failSet, h2]

/-! ## The steps of the seal -/

/-- The records that the seal finds corrupt are marked. -/
def corruptMarked (g : Nat) (k : SealCheck) (s : State) : State :=
  let i := (grpOf s g).nextSeal
  k.corrupt.foldl (fun s n => if dirGroup s.cfg.active n = g ∧ (inTimeRec s n i).isSome then markBad n i s else s) s

/-- The state that the set of group `g` is built from: the records found corrupt are marked, and the hold memory entries found corrupt are
discarded and counted. -/
def sealChecked (g : Nat) (k : SealCheck) (s : State) : State :=
  let s := corruptMarked g k s
  let nb := (k.holdBad.filter (fun c => (fget? (grpOf s g).hold c).isSome)).eraseDups
  grpCountN g 7 nb.length (modGrp g (fun r => { r with hold := r.hold.filter (fun e => !nb.contains e.1) }) s)

/-- The set that the seal holds. -/
def sealedSet (g : Nat) (k : SealCheck) (s : State) : ASet :=
  checkedSet k.rebuild (buildSet (sealChecked g k s) g (grpOf s g).nextSeal)

/-- Group `g` moved on to its next instant, with the hold memory after the set. -/
def sealMoved (g : Nat) (k : SealCheck) (s : State) : State :=
  let x := sealedSet g k s
  let s' := setRebuild false g k.rebuild (sealChecked g k s)
  modGrp g (fun r => { r with
    nextSeal := (grpOf s g).nextSeal + grpPeriod s' g, first := false, lastSeq := x.seq
    hold := if x.failed || !grpHolds s'.cfg.active g then r.hold else holdAfter s'.cfg.active x r.hold }) s'

/-- The set is held, and the sets that every engine has read leave. -/
def sealHeld (g : Nat) (k : SealCheck) (s : State) : State :=
  let t := sealMoved g k s
  pruneSets { t with aln := { t.aln with sets := t.aln.sets ++ [sealedSet g k s] } }

theorem sealSet_eq (g : Nat) (k : SealCheck) (s : State) :
    sealSet g k s = pruneRecs (afterSeal (sealedSet g k s) k.cmpBad (setCounts (sealedSet g k s) (sealHeld g k s))) := rfl

theorem exec_alignedSetSeal {s : State} {g : Nat} (k : SealCheck) (ha : alive s = true) (hs : (grpOf s g).st = 2)
    (hc : (grpOf s g).nextSeal < (grpOf s g).nextClose) : exec (.alignedSetSeal g k) s = .next (sealSet g k s) := by
  change execAlignedSetSeal g k s = _
  rw [execAlignedSetSeal, act_of_alive _ ha]
  simp [hs, hc]

theorem exec_alignedSetSeal_open {s : State} {g : Nat} (k : SealCheck) (ha : alive s = true)
    (hc : (grpOf s g).nextClose ≤ (grpOf s g).nextSeal) : exec (.alignedSetSeal g k) s = .next s := by
  change execAlignedSetSeal g k s = _
  rw [execAlignedSetSeal, act_of_alive _ ha]
  simp [Nat.not_lt.mpr hc]

section
variable (g : Nat) (k : SealCheck) (s : State)

/-! Up to its set, a seal writes records, the run state of groups, counters and events. -/

theorem kept_corruptMarked : Kept (maskOf (Item.tallied ++ [.ing, .recs])) s (corruptMarked g k s) := by
  refine kept_foldl (fun t n h => ?_) (Kept.refl s)
  split
  · exact kept_markBad rfl h
  · exact h

theorem kept_sealChecked : Kept (maskOf (Item.tallied ++ [.aln, .grps])) (corruptMarked g k s) (sealChecked g k s) :=
  kept_grpCountN rfl (kept_modGrp rfl (Kept.refl _))

theorem kept_sealMoved : Kept (maskOf (Item.tallied ++ [.aln, .grps])) (sealChecked g k s) (sealMoved g k s) :=
  kept_modGrp rfl (kept_setRebuild rfl (Kept.refl _))

theorem grps_sealHeld : (sealHeld g k s).aln.grps = (sealMoved g k s).aln.grps := rfl

theorem pruneRecs_aln : (pruneRecs s).aln = s.aln := rfl

/-- What follows a set leaves the run state of groups and the sets: detectors, votes, outputs and harvest rings read them. -/
theorem sealSet_leaves : (sealSet g k s).aln.grps = (sealHeld g k s).aln.grps ∧ (sealSet g k s).aln.sets = (sealHeld g k s).aln.sets := by
  have hafter := kept_afterSeal (x := sealedSet g k s) (bad := k.cmpBad) (Nat.and_self _)
    (Kept.refl (setCounts (sealedSet g k s) (sealHeld g k s)))
  have hcounts : (setCounts (sealedSet g k s) (sealHeld g k s)).aln = (sealHeld g k s).aln :=
    (kept_setCounts (Nat.and_self _) (Kept.refl _)).fr.aln rfl
  rw [sealSet_eq, pruneRecs_aln]
  exact ⟨(hafter.fr.grps rfl).trans (congrArg Aln.grps hcounts), (hafter.fr.sets rfl).trans (congrArg Aln.sets hcounts)⟩

theorem cfg_sealChecked : (sealChecked g k s).cfg = s.cfg :=
  ((kept_sealChecked g k s).fr.cfg rfl).trans ((kept_corruptMarked g k s).fr.cfg rfl)

theorem cfg_sealMoved : (sealMoved g k s).cfg = s.cfg := ((kept_sealMoved g k s).fr.cfg rfl).trans (cfg_sealChecked g k s)

theorem tb_sealMoved : (sealMoved g k s).tb = s.tb :=
  calc (sealMoved g k s).tb
      = (sealChecked g k s).tb := (kept_sealMoved g k s).fr.tb rfl
    _ = (corruptMarked g k s).tb := (kept_sealChecked g k s).fr.tb rfl
    _ = s.tb := (kept_corruptMarked g k s).fr.tb rfl

theorem grps_setRebuild (again : Bool) (res : Nat) : (setRebuild again g res s).aln.grps = s.aln.grps :=
  (kept_setRebuild (Nat.and_self _) (Kept.refl s)).fr.grps rfl

theorem cfg_setRebuild (again : Bool) (res : Nat) : (setRebuild again g res s).cfg = s.cfg :=
  (kept_setRebuild (Nat.and_self _) (Kept.refl s)).fr.cfg rfl

theorem nextClose_sealChecked : (grpOf (sealChecked g k s) g).nextClose = (grpOf s g).nextClose := by
  rw [sealChecked, grpOf_congr ((kept_grpCountN (Nat.and_self _) (Kept.refl _)).fr.grps rfl), grpOf_modGrp_self]
  change (grpOf (corruptMarked g k s) g).nextClose = _
  rw [grpOf_congr ((kept_corruptMarked g k s).fr.grps rfl)]

/-- The seal moves its group on by one period. -/
theorem grpOf_sealMoved : (grpOf (sealMoved g k s) g).nextSeal = (grpOf s g).nextSeal + grpPeriod s g ∧
    (grpOf (sealMoved g k s) g).nextClose = (grpOf s g).nextClose ∧ (grpOf (sealMoved g k s) g).first = false := by
  rw [sealMoved, grpOf_modGrp_self, grpPeriod_congr ((cfg_setRebuild g _ ..).trans (cfg_sealChecked g k s)),
    grpOf_congr (grps_setRebuild g _ ..)]
  exact ⟨rfl, nextClose_sealChecked g k s, rfl⟩

theorem grpOf_sealSet : grpOf (sealSet g k s) g = grpOf (sealMoved g k s) g :=
  grpOf_congr ((sealSet_leaves g k s).1.trans (grps_sealHeld g k s)) g

theorem sealedSet_spec : (sealedSet g k s).group = g ∧ (sealedSet g k s).inst = (grpOf s g).nextSeal ∧
    (sealedSet g k s).blocks.map (·.strm) = groupStrms s.cfg.active g ∧ (sealedSet g k s).failed = decide (2 ≤ k.rebuild) := by
  obtain ⟨hgroup, hinst, hstrms, hfailed⟩ := checkedSet_spec k.rebuild (buildSet (sealChecked g k s) g (grpOf s g).nextSeal)
  refine ⟨hgroup, hinst, ?_, hfailed.trans (Bool.false_or _)⟩
  rw [← cfg_sealChecked g k s]
  exact hstrms.trans (buildSet_strms ..)

variable {g k s}

/-- A set sealed no later than 240 cyc beyond its late span is held. -/
theorem sealedSet_mem (hd : s.tb.grid ≤ closeOf s g (grpOf s g).nextSeal + (lateSpan s + 240) * 1024) :
    sealedSet g k s ∈ (sealSet g k s).aln.sets := by
  obtain ⟨hgroup, hinst, -, -⟩ := sealedSet_spec g k s
  have hcfg := cfg_sealMoved g k s
  rw [(sealSet_leaves g k s).2]
  refine List.mem_filter.mpr ⟨List.mem_append_right _ (List.mem_singleton_self _), decide_eq_true ?_⟩
  rw [hgroup, hinst]
  change (sealMoved g k s).tb.grid ≤ closeOf (sealMoved g k s) g _ + (lateSpan (sealMoved g k s) + 240) * 1024
  rw [tb_sealMoved, closeOf_congr hcfg, lateSpan_congr hcfg]
  exact hd

end

/-! ## TIMEOUT comparators (R233, R235, R239) -/

theorem cmpOf_congr {s t : State} (h : t.isl.cmps = s.isl.cmps) (c : Nat) : cmpOf t c = cmpOf s c := by
  rw [cmpOf, h, cmpOf]

@[simp] theorem cmpOf_modCmp_self (c : Nat) (f : Cmp → Cmp) (s : State) : cmpOf (modCmp c f s) c = f (cmpOf s c) := by
  simp [cmpOf]

theorem srcMoved_isl (typ idx due : Nat) (s : State) : (srcMoved typ idx due s).isl = s.isl := rfl

theorem capEvent_isl (esrc eidx ns : Nat) (s : State) : (capEvent esrc eidx ns s).isl = s.isl :=
  (kept_capEvent (Nat.and_self _) (Kept.refl s)).fr.isl rfl

theorem latchDirect_isl (p : Nat → Nat → Bool) (s : State) : (latchDirect p s).isl = s.isl :=
  (kept_latchDirect (Nat.and_self _) (Kept.refl s)).fr.isl rfl

/-- OUT is the value that it is set to; what a rise counts, reports and hands to capture is no part of ISL. -/
theorem cmpOf_cmpSetOut_out (c seq ns due : Nat) (b : Bool) (s : State) : (cmpOf (cmpSetOut c seq ns due b s) c).out = b := by
  have hput : ∀ t : State, t.isl = (modCmp c (fun k => { k with out := b, lastChg := seq }) s).isl → (cmpOf t c).out = b :=
    fun t ht => by rw [cmpOf_congr (congrArg Isl.cmps ht), cmpOf_modCmp_self]
  unfold cmpSetOut
  dsimp only
  split
  next hsame => exact hsame
  next =>
    refine hput _ ?_
    split
    · rw [capEvent_isl]
      split <;> simp [srcMoved_isl]
    · exact srcMoved_isl ..

/-- The timer of a TIMEOUT comparator of a running group exceeds TMO, and no warming holds it back: its output is set. -/
theorem timeoutExpiry_sets_out {s : State} {c : Nat} (ha : alive s = true) (hv : imBit s.cfg.active secISL_CMP c 0 31 = true)
    (hp : cmpPrim s.cfg.active c = 2) (hg : (grpOf s (cmpGroup s.cfg.active c)).st = 2) (ho : (cmpOf s c).out = false)
    (ht : timeoutAt s c ≤ s.tb.grid) (hw : cmpWarming s c = false ∨ imBit s.cfg.active secISL_CMP c 0 19 = true) :
    ∃ t, exec (.timeoutExpiry c) s = .next t ∧ (cmpOf t c).out = true := by
  have hdue : (!cmpWarming s c || imBit s.cfg.active secISL_CMP c 0 19) = true := by simpa using hw
  rw [grpOf] at hg
  change ∃ t, execTimeoutExpiry c s = .next t ∧ _
  rw [execTimeoutExpiry, act_of_alive _ ha]
  simp only [hv, hp, hg, ho, ht, hdue, beq_self_eq_true, Bool.not_false, decide_true, Bool.and_self, if_true]
  exact ⟨_, rfl, by rw [cmpOf_congr (congrArg Isl.cmps (latchDirect_isl ..)), cmpOf_cmpSetOut_out]⟩

theorem exec_timeoutExpiry_early {s : State} {c : Nat} (ha : alive s = true) (ht : s.tb.grid < timeoutAt s c) :
    exec (.timeoutExpiry c) s = .next s := by
  change execTimeoutExpiry c s = _
  rw [execTimeoutExpiry, act_of_alive _ ha]
  simp [Nat.not_le.mpr ht]

/-- Settles O29: the seal of a closed instant and of none, the timer beyond TMO and up to it. -/
theorem alignedSetsAreSealedInOrder : Obligations.AlignedSetsAreSealedInOrder := by
  refine ⟨fun s g k ha hs hc hd => ?_, fun s g k ha hc => exec_alignedSetSeal_open k ha hc,
    fun s c ha hv hp hg ho ht hw => timeoutExpiry_sets_out ha hv hp hg ho ht hw,
    fun s c ha ht => exec_timeoutExpiry_early ha (Nat.lt_succ_of_le ht)⟩
  refine ⟨_, exec_alignedSetSeal k ha hs hc, ⟨_, sealedSet_mem hd, sealedSet_spec g k s⟩, ?_⟩
  rw [grpOf_sealSet]
  exact grpOf_sealMoved g k s

end Sys2Proof.Machine

/-!
Waveforms and local phasors (chapter 6): sampled-value frames and the samples that they place (R173 to R176), MAX_AGE (R175), and the
records of bays (R190, R192). `Obligations.SampledValuesBecomeFinalInOrder` fails for a frame that still waits for its engine when MAX_AGE expires.
-/
namespace Sys2Proof.Machine

/-! ## The run state of a subscription -/

theorem subOf_congr {s t : State} (h : t.svf.subs = s.svf.subs) (n : Nat) : subOf t n = subOf s n := by
  rw [subOf, h, subOf]

@[simp] theorem subOf_modSub_self (n : Nat) (f : SvSub → SvSub) (s : State) : subOf (modSub n f s) n = f (subOf s n) := by
  simp only [subOf, modSub, fgetD_fmod_self]

@[simp] theorem svCountN_svf (n c k : Nat) (s : State) : (svCountN n c k s).svf = s.svf := countN_svf ..
@[simp] theorem svCount_svf (n c : Nat) (s : State) : (svCount n c s).svf = s.svf := svCountN_svf ..
@[simp] theorem svFlag_svf (b : Nat) (s : State) : (svFlag b s).svf = s.svf := setFlag_svf ..
@[simp] theorem pqAll_svf (s : State) : (pqAll s).svf = s.svf := (kept_pqAll (Nat.and_self _) (Kept.refl s)).fr.svf rfl
@[simp] theorem svGap_svf (n a : Nat) (s : State) : (svGap n a s).svf = s.svf := (kept_svGap (Nat.and_self _) (Kept.refl s)).fr.svf rfl
@[simp] theorem freezeStart_svf (j : Nat) (s : State) : (freezeStart j s).svf = s.svf :=
  (kept_freezeStart (Nat.and_self _) (Kept.refl s)).fr.svf rfl

@[simp] theorem pqAll_cfg (s : State) : (pqAll s).cfg = s.cfg := (kept_pqAll (Nat.and_self _) (Kept.refl s)).fr.cfg rfl
@[simp] theorem svCount_cfg (n c : Nat) (s : State) : (svCount n c s).cfg = s.cfg :=
  (kept_svCount (Nat.and_self _) (Kept.refl s)).fr.cfg rfl
@[simp] theorem noteSync_cfg (n : Nat) (b : Bool) (s : State) : (noteSync n b s).cfg = s.cfg :=
  (kept_noteSync (Nat.and_self _) (Kept.refl s)).fr.cfg rfl

theorem svOld_congr {s t : State} (h : t.cfg = s.cfg) : svOld t = svOld s := by
  funext fs a ns
  rw [svOld, maxAge, tps, f0, h, ← f0, ← tps, ← maxAge, ← svOld]

theorem placeIdx_congr {s t : State} (h : t.cfg = s.cfg) : placeIdx t = placeIdx s := by
  funext fs c arr
  rw [placeIdx, tps, f0, h, ← f0, ← tps, ← placeIdx]

/-! ## Samples that become final (R174, R175) -/

/-- A subscription whose sample `x` has become final. -/
def finalised (x : SvSamp) (r : SvSub) : SvSub := { r with next := some (x.a + 1), fin := (x :: r.fin).take 65536 }

theorem subs_foldl {α : Type} {F : State → α → State} (hF : ∀ s a, (F s a).svf.subs = s.svf.subs) (l : List α) (s : State) :
    (l.foldl F s).svf.subs = s.svf.subs := by
  induction l generalizing s with
  | nil => rfl
  | cons a l ih => exact (ih (F s a)).trans (hF s a)

theorem subs_medPush (x : SvSamp) (j : Nat) (s : State) : (medPush x j s).svf.subs = s.svf.subs := rfl

theorem subs_decTick (j : Nat) (s : State) : (decTick j s).svf.subs = s.svf.subs := by
  unfold decTick
  split
  · dsimp only
    split <;> rfl
  · rfl

theorem freezeStart_ite_svf (b : Bool) (j : Nat) (s : State) : (if b then freezeStart j s else s).svf = s.svf := by
  cases b <;> simp

theorem subs_dcStage (sat : Bool) (j : Nat) (c : SvY) (s : State) : (dcStage sat j c s).svf.subs = s.svf.subs := by
  unfold dcStage
  dsimp only
  rw [modSlot_svf, freezeStart_ite_svf]

/-- The chains of the slots that a final sample enters are no part of the subscriptions. -/
theorem subOf_pushFinal (n : Nat) (x : SvSamp) (s : State) : subOf (pushFinal n x s) n = finalised x (subOf s n) := by
  unfold pushFinal
  dsimp only
  rw [subOf_congr (subs_foldl (fun _ _ => (subs_decTick ..).trans (subs_dcStage ..)) _ _),
    subOf_congr (subs_foldl (fun _ _ => subs_medPush ..) _ _), subOf_modSub_self]
  rfl

@[simp] theorem pushFinal_cfg (n : Nat) (x : SvSamp) (s : State) : (pushFinal n x s).cfg = s.cfg :=
  (kept_pushFinal (Nat.and_self _) (Kept.refl s)).fr.cfg rfl

/-- What holds of a subscription whenever the sample that it awaits leaves its buffer and becomes final. -/
def StableFinal (P : SvSub → Prop) : Prop :=
  ∀ r x l, r.buf = x :: l → r.next = some x.a → P r → P (finalised x { r with buf := l })

theorem drainSv_keeps {P : SvSub → Prop} (hP : StableFinal P) (k n : Nat) {s : State} (h : P (subOf s n)) : P (subOf (drainSv k n s) n) := by
  induction k generalizing s with
  | zero => exact h
  | succ k ih =>
    unfold drainSv
    dsimp only
    split
    · exact h
    next x l hb =>
      split
      next hx =>
        apply ih
        rw [subOf_pushFinal, subOf_modSub_self]
        exact hP _ _ _ hb hx h
      · exact h

/-! ## Samples that are placed (R174, R175) -/

/-- A subscription that has taken sample `x`, counted `c`, into its buffer; a chain that has not started starts at index `first`. -/
def buffered (x : SvSamp) (c first : Nat) (r : SvSub) : SvSub :=
  { r with buf := insertSamp x r.buf, lastSmp := c, last := some (max x.a (r.last.getD x.a)), next := some (r.next.getD first) }

theorem mem_insertSamp {x y : SvSamp} {l : List SvSamp} : y ∈ insertSamp x l ↔ y = x ∨ y ∈ l := by
  induction l with
  | nil => simp [insertSamp]
  | cons z l ih =>
    unfold insertSamp
    split
    · simp
    · simp only [List.mem_cons, ih]
      tauto

/-- Instant `a` of a subscription is closed: a sample waits there, or the chain has passed it. -/
def Settled (a : Nat) (r : SvSub) : Prop := r.buf.any (fun x => x.a == a) = true ∨ ∃ x, r.next = some x ∧ a < x

theorem settled_finalised (a : Nat) : StableFinal (Settled a) := by
  rintro r x l hb hx (hbuf | ⟨y, hy, hlt⟩)
  · rw [hb, List.any_cons, Bool.or_eq_true, beq_iff_eq] at hbuf
    obtain rfl | hl := hbuf
    · exact .inr ⟨x.a + 1, rfl, Nat.lt_succ_self _⟩
    · exact .inl hl
  · obtain rfl : x.a = y := Option.some.inj (hx.symm.trans hy)
    exact .inr ⟨x.a + 1, rfl, Nat.lt_succ_of_lt hlt⟩

theorem settled_buffered_self (x : SvSamp) (c first : Nat) (r : SvSub) : Settled x.a (buffered x c first r) :=
  .inl (List.any_eq_true.mpr ⟨x, mem_insertSamp.mpr (.inl rfl), beq_self_eq_true _⟩)

theorem Settled.buffered {a : Nat} {r : SvSub} (h : Settled a r) (x : SvSamp) (c first : Nat) : Settled a (buffered x c first r) := by
  obtain hbuf | ⟨y, hy, hlt⟩ := h
  · obtain ⟨z, hz, he⟩ := List.any_eq_true.mp hbuf
    exact .inl (List.any_eq_true.mpr ⟨z, mem_insertSamp.mpr (.inr hz), he⟩)
  · exact .inr ⟨y, by simp [Machine.buffered, hy], hlt⟩

/-- A placed ASDU: its instant is held, or passed, or its sample is buffered and what it completes becomes final. -/
theorem placeAsdu_cases (n arr : Nat) (sim : Bool) (d : SvAsdu) (s : State) {a : Nat}
    (ha : placeIdx s (subFs s.cfg.active n) d.smpCnt arr = a) :
    (svHeld (subOf s n) a = true ∧ placeAsdu n arr sim d s = svCount n 3 s) ∨
    ((∃ x, (subOf s n).next = some x ∧ a < x) ∧ placeAsdu n arr sim d s = s) ∨
    ∃ t k x first, x.a = a ∧ subOf t n = buffered x d.smpCnt first (subOf s n) ∧ placeAsdu n arr sim d s = drainSv k n t := by
  unfold placeAsdu
  dsimp only
  rw [ha]
  split
  next hheld => exact .inl ⟨hheld, rfl⟩
  split
  next hpast => exact .inr (.inl ⟨by simpa [Option.any_eq_true] using hpast, rfl⟩)
  next =>
    refine .inr (.inr ⟨_, _, { a := a, arr := arr, sim := sim, synced := (subOf s n).synced, chans := d.data },
      svFirst (svGap n a s) (subFs s.cfg.active n) a arr, rfl, ?_, rfl⟩)
    rw [subOf_modSub_self, subOf_congr (congrArg Svf.subs (svGap_svf n a s))]
    rfl

/-- What holds of a subscription whenever a sample becomes final or is buffered. -/
structure StablePlaced (P : SvSub → Prop) : Prop where
  final : StableFinal P
  buffer : ∀ x c first r, P r → P (buffered x c first r)

theorem placeAsdu_keeps {P : SvSub → Prop} (hP : StablePlaced P) (n arr : Nat) (sim : Bool) (d : SvAsdu) {s : State} (h : P (subOf s n)) :
    P (subOf (placeAsdu n arr sim d s) n) := by
  obtain ⟨-, he⟩ | ⟨-, he⟩ | ⟨t, k, x, first, -, hb, he⟩ := placeAsdu_cases n arr sim d s rfl
  · rwa [he, subOf_congr (congrArg Svf.subs (svCount_svf ..))]
  · rwa [he]
  · rw [he]
    exact drainSv_keeps hP.final k n (hb ▸ hP.buffer _ _ _ _ h)

theorem foldl_placeAsdu_keeps {P : SvSub → Prop} (hP : StablePlaced P) (n arr : Nat) (sim : Bool) (l : List SvAsdu) {s : State}
    (h : P (subOf s n)) : P (subOf (l.foldl (fun s d => placeAsdu n arr sim d s) s) n) := by
  induction l generalizing s with
  | nil => exact h
  | cons d l ih => exact ih (placeAsdu_keeps hP n arr sim d h)

theorem stablePlaced_settled (a : Nat) : StablePlaced (Settled a) := ⟨settled_finalised a, fun x c first _ h => h.buffered x c first⟩

theorem stablePlaced_synced (b : Bool) : StablePlaced (fun r => r.synced = b) := ⟨fun _ _ _ _ _ h => h, fun _ _ _ _ h => h⟩

/-- An ASDU whose instant holds no sample settles it. -/
theorem settled_placeAsdu {n arr a : Nat} {sim : Bool} {d : SvAsdu} {s : State} (ha : placeIdx s (subFs s.cfg.active n) d.smpCnt arr = a)
    (hheld : svHeld (subOf s n) a = false) : Settled a (subOf (placeAsdu n arr sim d s) n) := by
  obtain ⟨hh, -⟩ | ⟨hpast, he⟩ | ⟨t, k, x, first, hx, hb, he⟩ := placeAsdu_cases n arr sim d s ha
  · exact absurd (hh.symm.trans hheld) nofun
  · rw [he]
    exact .inr hpast
  · rw [he]
    exact drainSv_keeps (settled_finalised a) k n (by rw [hb, ← hx]; exact settled_buffered_self ..)

/-! ## Sampled-value frames (R131, R171, R173 to R176) -/

/-- The policer's credit for one frame of subscription `n` is taken (R131). -/
def svCharged (n : Nat) (s : State) : State := modSub n (fun r => { r with credit := r.credit - tps s * subAsdus s.cfg.active n }) s

theorem svPolice_of_credit {n : Nat} {s : State} (h : tps s * subAsdus s.cfg.active n ≤ (subOf s n).credit) :
    svPolice n s = (svCharged n s, true) := if_pos h

theorem svPolice_of_no_credit {n : Nat} {s : State} (h : (subOf s n).credit < tps s * subAsdus s.cfg.active n) :
    svPolice n s = (s, false) := if_neg (Nat.not_le.mpr h)

theorem subOf_noteSync (n : Nat) (b : Bool) (s : State) : subOf (noteSync n b s) n = { subOf s n with synced := b } := by
  unfold noteSync
  dsimp only
  split
  next hsame =>
    subst hsame
    rfl
  next =>
    rw [subOf_congr (congrArg Svf.subs (raise_svf ..))]
    split
    · rw [subOf_modSub_self]
    · rw [subOf_congr (congrArg Svf.subs ((svFlag_svf ..).trans (svCount_svf ..))), subOf_modSub_self]

/-- The state in which the samples of an accepted frame are placed: charged, counted, and synchronised as the frame says (R176). -/
def svAccepted (n : Nat) (m : SvFrame) (s : State) : State := noteSync n (syncAfter s n m) (svCount n 0 (svCharged n s))

theorem svAccepted_cfg (n : Nat) (m : SvFrame) (s : State) : (svAccepted n m s).cfg = s.cfg := (noteSync_cfg ..).trans (svCount_cfg ..)

theorem subOf_svAccepted (n : Nat) (m : SvFrame) (s : State) :
    subOf (svAccepted n m s) n =
      { subOf s n with credit := (subOf s n).credit - tps s * subAsdus s.cfg.active n, synced := syncAfter s n m } := by
  rw [svAccepted, subOf_noteSync, subOf_congr (congrArg Svf.subs (svCount_svf ..)), svCharged, subOf_modSub_self]

theorem svFrame_no_time {n arr : Nat} {m : SvFrame} {s : State} (h : hasTime s = false) :
    svFrame n arr m s = flagCount (SVF + 4) 5 (SVF + 0x300) s := by simp [svFrame, h]

theorem svFrame_no_credit {n arr : Nat} {m : SvFrame} {s : State} (ht : hasTime s = true)
    (hc : (subOf s n).credit < tps s * subAsdus s.cfg.active n) : svFrame n arr m s = svCount n 1 s := by
  simp [svFrame, ht, svPolice_of_no_credit hc]

/-- The fields of ASDU `e` agree with the entry of subscription `n` (R173). -/
def asduFits (im : Image) (n : Nat) (e : SvAsdu) : Prop :=
  e.confRev = sub im n 4 31 0 ∧ e.dsLen = 8 * subChans im n ∧ e.smpCnt < subFs im n

theorem svFrame_accepted {n arr : Nat} {m : SvFrame} {d : SvAsdu} {l : List SvAsdu} {s : State} (ht : hasTime s = true)
    (hc : tps s * subAsdus s.cfg.active n ≤ (subOf s n).credit) (hm : m.asdus = d :: l) (hfit : ∀ e ∈ m.asdus, asduFits s.cfg.active n e)
    (hlen : m.asdus.length = subAsdus s.cfg.active n)
    (hold : svOld s (subFs s.cfg.active n) (placeIdx s (subFs s.cfg.active n) d.smpCnt arr) arr = false) :
    svFrame n arr m s = m.asdus.foldl (fun s d => placeAsdu n arr m.sim d s) (svAccepted n m s) := by
  have hrev : m.asdus.find? (fun e => e.confRev != sub s.cfg.active n 4 31 0) = none :=
    List.find?_eq_none.mpr fun e he => by simp [(hfit e he).1]
  have hsize : m.asdus.any (fun e => e.dsLen != 8 * subChans s.cfg.active n) = false :=
    List.any_eq_false.mpr fun e he => by simp [(hfit e he).2.1]
  have hcnt : m.asdus.any (fun e => decide (subFs s.cfg.active n ≤ e.smpCnt)) = false :=
    List.any_eq_false.mpr fun e he => by simpa using (hfit e he).2.2
  unfold svFrame
  simp only [ht, svPolice_of_credit hc, hrev, hsize, hcnt, hlen]
  simp only [hm, Bool.not_true, Bool.false_eq_true, ne_eq, not_true_eq_false, or_self, if_false]
  rw [svOld_congr (s := s) (t := svCharged n s) rfl, placeIdx_congr (s := s) (t := svCharged n s) rfl, hold]
  rfl

theorem exec_svFrameRx {s u : State} {h : Handed} {m : SvFrame} (ha : alive s = true) (hq : takeHanded .sv s = some (h, u))
    (hp : h.frame.payload = .sv m) : exec .svFrameRx s = .next (pqAll (svFrame h.obj h.frame.arrival m u)) := by
  change execSvFrameRx s = _
  rw [execSvFrameRx, act_of_alive _ ha]
  simp [hq, hp]

/-- An accepted frame synchronises its subscription as it says, and settles the instant of its first sample. -/
theorem subOf_svFrame_accepted {n arr : Nat} {m : SvFrame} {d : SvAsdu} {l : List SvAsdu} {s : State} (ht : hasTime s = true)
    (hc : tps s * subAsdus s.cfg.active n ≤ (subOf s n).credit) (hm : m.asdus = d :: l) (hfit : ∀ e ∈ m.asdus, asduFits s.cfg.active n e)
    (hlen : m.asdus.length = subAsdus s.cfg.active n)
    (hold : svOld s (subFs s.cfg.active n) (placeIdx s (subFs s.cfg.active n) d.smpCnt arr) arr = false) :
    (subOf (svFrame n arr m s) n).synced = syncAfter s n m ∧
      (svHeld (subOf s n) (placeIdx s (subFs s.cfg.active n) d.smpCnt arr) = false →
        Settled (placeIdx s (subFs s.cfg.active n) d.smpCnt arr) (subOf (svFrame n arr m s) n)) := by
  rw [svFrame_accepted ht hc hm hfit hlen hold]
  constructor
  · exact foldl_placeAsdu_keeps (stablePlaced_synced _) n arr m.sim m.asdus (by rw [subOf_svAccepted])
  · intro hheld
    have hcfg := svAccepted_cfg n m s
    rw [hm, List.foldl_cons]
    exact foldl_placeAsdu_keeps (stablePlaced_settled _) n arr m.sim l
      (settled_placeAsdu (by rw [hcfg, placeIdx_congr hcfg]) (by rw [subOf_svAccepted]; exact hheld))

/-! ## The clauses that hold -/

/-- While grid time does not run, the flag and its counter note the frame (R175). -/
theorem svFrameRx_without_time {s u : State} {h : Handed} {m : SvFrame} (ha : alive s = true) (hq : takeHanded .sv s = some (h, u))
    (hp : h.frame.payload = .sv m) (ht : hasTime s = false) :
    exec .svFrameRx s = .next (pqAll (flagCount (SVF + 4) 5 (SVF + 0x300) u)) := by
  rw [exec_svFrameRx ha hq hp]
  obtain ⟨x, rfl⟩ := takeHanded_some hq
  rw [svFrame_no_time (by exact ht)]

/-- Without credit only the policer's counter counts (R131). -/
theorem svFrameRx_without_credit {s u : State} {h : Handed} {m : SvFrame} (ha : alive s = true) (hq : takeHanded .sv s = some (h, u))
    (hp : h.frame.payload = .sv m) (ht : hasTime s = true) (hc : (subOf s h.obj).credit < tps s * subAsdus s.cfg.active h.obj) :
    exec .svFrameRx s = .next (pqAll (svCount h.obj 1 u)) := by
  rw [exec_svFrameRx ha hq hp]
  obtain ⟨x, rfl⟩ := takeHanded_some hq
  rw [svFrame_no_credit (by exact ht) (by exact hc)]

/-- A frame that passes every check synchronises its subscription as it says, and settles the instant of its first sample. -/
theorem svFrameRx_accepts {s u : State} {h : Handed} {m : SvFrame} {d : SvAsdu} {l : List SvAsdu} {a : Nat} (ha : alive s = true)
    (hq : takeHanded .sv s = some (h, u)) (hp : h.frame.payload = .sv m) (ht : hasTime s = true)
    (hc : tps s * subAsdus s.cfg.active h.obj ≤ (subOf s h.obj).credit) (hm : m.asdus = d :: l)
    (hfit : ∀ e ∈ m.asdus, asduFits s.cfg.active h.obj e) (hlen : m.asdus.length = subAsdus s.cfg.active h.obj)
    (hidx : placeIdx s (subFs s.cfg.active h.obj) d.smpCnt h.frame.arrival = a)
    (hold : svOld s (subFs s.cfg.active h.obj) a h.frame.arrival = false) :
    ∃ t, exec .svFrameRx s = .next t ∧ (subOf t h.obj).synced = syncAfter u h.obj m ∧
      (svHeld (subOf s h.obj) a = false → Settled a (subOf t h.obj)) := by
  refine ⟨_, exec_svFrameRx ha hq hp, ?_⟩
  rw [subOf_congr (congrArg Svf.subs (pqAll_svf _))]
  subst hidx
  obtain ⟨x, rfl⟩ := takeHanded_some hq
  exact subOf_svFrame_accepted (by exact ht) (by exact hc) hm hfit hlen (by exact hold)

/-! ## MAX_AGE (R175) -/

/-- The sample that subscription `n` awaits, if its chain has started, is neither at hand nor older than MAX_AGE at `ns`. -/
def AwaitsFresh (n ns : Nat) (s : State) : Prop :=
  ∀ a, (subOf s n).next = some a → svOld s (subFs s.cfg.active n) a ns = false ∧ ∀ x, (subOf s n).buf.head? = some x → x.a ≠ a

theorem awaitsFresh_of_next {n ns a : Nat} {s : State} (ha : (subOf s n).next = some a)
    (hold : svOld s (subFs s.cfg.active n) a ns = false) (hhead : ∀ x, (subOf s n).buf.head? = some x → x.a ≠ a) : AwaitsFresh n ns s := by
  intro b hb
  obtain rfl : a = b := Option.some.inj (ha.symm.trans hb)
  exact ⟨hold, hhead⟩

theorem AwaitsFresh.congr {n ns : Nat} {s t : State} (h : AwaitsFresh n ns s) (hs : t.svf = s.svf) (hc : t.cfg = s.cfg) :
    AwaitsFresh n ns t := by
  unfold AwaitsFresh
  rwa [subOf_congr (congrArg Svf.subs hs), svOld_congr hc, hc]

/-- An index past those of all samples up to `ns`. -/
def svEnd (s : State) (n ns : Nat) : Nat := ns * subFs s.cfg.active n / 1000000000 + 2

theorem lt_svEnd_of_svOld {s : State} {n a ns : Nat} (h : svOld s (subFs s.cfg.active n) a ns = true) : a < svEnd s n ns := by
  have h := of_decide_eq_true h
  have hlt : a * 1000000000 * tps s < ns * subFs s.cfg.active n * tps s := lt_of_le_of_lt (Nat.le_add_left ..) h
  have hle := (Nat.le_div_iff_mul_le (by decide)).mpr (Nat.lt_of_mul_lt_mul_right hlt).le
  unfold svEnd
  omega

/-- With fuel for every sample up to `svEnd` and for those that wait, no sample that is at hand or too old is left. -/
theorem awaitsFresh_expireSv {k n ns : Nat} {s : State}
    (hk : ∀ a, (subOf s n).next = some a → svEnd s n ns - a + (subOf s n).buf.length ≤ k) : AwaitsFresh n ns (expireSv k n ns s) := by
  induction k generalizing s with
  | zero =>
    change AwaitsFresh n ns s
    intro a ha
    have hk := hk a ha
    have hbuf : (subOf s n).buf = [] := List.length_eq_zero_iff.mp (by omega)
    refine ⟨Bool.eq_false_iff.mpr fun hold => ?_, by simp [hbuf]⟩
    have := lt_svEnd_of_svOld hold
    omega
  | succ k ih =>
    have missing : ∀ a, (subOf s n).next = some a → svOld s (subFs s.cfg.active n) a ns = true →
        AwaitsFresh n ns (expireSv k n ns (pushFinal n { a := a, placed := false } s)) := fun a ha hold => by
      apply ih
      rw [subOf_pushFinal]
      rintro b ⟨⟩
      have := lt_svEnd_of_svOld hold
      have := hk a ha
      simp only [svEnd, pushFinal_cfg, finalised] at *
      omega
    unfold expireSv
    split
    next hnone => exact fun a ha => absurd (hnone.symm.trans ha) nofun
    next a ha =>
      split
      next x l hb =>
        split
        next hx =>
          apply ih
          rw [subOf_pushFinal, subOf_modSub_self]
          rintro b ⟨⟩
          have := hk a ha
          simp only [svEnd, pushFinal_cfg, modSub_cfg, finalised, hb, List.length_cons] at *
          omega
        next hx =>
          split
          next hold => exact missing a ha hold
          next hold => exact awaitsFresh_of_next ha (Bool.eq_false_iff.mpr hold) (by simpa [hb] using hx)
      next hb =>
        split
        next hold => exact missing a ha hold
        next hold => exact awaitsFresh_of_next ha (Bool.eq_false_iff.mpr hold) (by simp [hb])

/-- While the sample awaited is neither at hand nor too old, nothing expires. -/
theorem expireSv_of_awaitsFresh {k n ns : Nat} {s : State} (h : AwaitsFresh n ns s) : expireSv k n ns s = s := by
  cases k with
  | zero => rfl
  | succ k =>
    unfold expireSv
    split
    · rfl
    next a ha =>
      obtain ⟨hold, hhead⟩ := h a ha
      rw [hold]
      split
      next x l hb => simp [hhead x (by simp [hb])]
      · rfl

/-- The state that SV_MAX_AGE_EXPIRY leaves, up to PQ detection. -/
def svExpired (n ns : Nat) (s : State) : State :=
  expireSv (expireFuel (seen ns s) n (svKnown s n ns)) n (svKnown s n ns) (seen ns s)

theorem exec_svMaxAgeExpiry {s : State} {n ns : Nat} (ha : alive s = true) (hn : n < 32) (ht : hasTime s = true) :
    exec (.svMaxAgeExpiry n ns) s = .next (pqAll (svExpired n ns s)) := by
  change execSvMaxAgeExpiry n ns s = _
  rw [execSvMaxAgeExpiry, act_of_alive _ ha]
  exact congrArg _ (if_pos ⟨hn, ht⟩)

/-- What SV_MAX_AGE_EXPIRY achieves: the sample awaited next is neither at hand nor older than MAX_AGE at the instant by which samples are
known, which is the arrival of the oldest frame that waits for its engine. -/
theorem svMaxAgeExpiry_awaits_fresh {s : State} {n ns : Nat} (ha : alive s = true) (hn : n < 32) (ht : hasTime s = true) :
    ∃ t, exec (.svMaxAgeExpiry n ns) s = .next t ∧ AwaitsFresh n (svKnown s n ns) t := by
  have hfuel : ∀ a, (subOf (seen ns s) n).next = some a →
      svEnd (seen ns s) n (svKnown s n ns) - a + (subOf (seen ns s) n).buf.length ≤ expireFuel (seen ns s) n (svKnown s n ns) := by
    intro a hnext
    rw [expireFuel, hnext]
    exact le_rfl
  exact ⟨_, exec_svMaxAgeExpiry ha hn ht, (awaitsFresh_expireSv hfuel).congr (pqAll_svf _) (pqAll_cfg _)⟩

theorem svKnown_of_none_waiting {s : State} {n : Nat} (ns : Nat) (h : ∀ w ∈ s.eth.handed, ¬ (w.cls = .sv ∧ w.obj = n)) :
    svKnown s n ns = ns := by
  have hnone : s.eth.handed.filter (fun w => w.cls == .sv && w.obj == n) = [] :=
    List.filter_eq_nil_iff.mpr fun w hw => by simpa using h w hw
  simp [svKnown, hnone]

/-- The clause of the statement, while no frame of the subscription waits. -/
theorem svMaxAgeExpiry_awaits_fresh_of_none_waiting {s : State} {n ns : Nat} (ha : alive s = true) (hn : n < 32)
    (ht : hasTime s = true) (h : ∀ w ∈ s.eth.handed, ¬ (w.cls = .sv ∧ w.obj = n)) :
    ∃ t, exec (.svMaxAgeExpiry n ns) s = .next t ∧ AwaitsFresh n ns t := by
  have := svMaxAgeExpiry_awaits_fresh (ns := ns) ha hn ht
  rwa [svKnown_of_none_waiting ns h] at this

/-! ## The clause that fails -/

/-- Grid time runs at TAI second 100, subscription 0 awaits the sample of that instant, and the frame that carries it has just arrived and waits
for the engine. -/
def frameWaits : State :=
  { State.reset with
    cfg := { active := { f0 := 50 } }, pwr := { state := .run, waits := false }
    tb := { started := true, state := .locked, src := 1, now := 100000000000 }
    svf := { subs := [(0, { next := some 400000 })] }
    eth := { handed := [{ cls := .sv, obj := 0, frame :=
      { port := 0, arrival := 100000000000, rxTs := 100000000000, len := 64, dst := 0, src := 0, type0 := 0x88BA,
        payload := .sv { appid := 0x4000, asdus := [{ svId := [], smpCnt := 0, confRev := 0, smpSynch := 2, dsLen := 8, data := [] }] } } }] } }

/-- By the arrival of the frame that waits, nothing is older than MAX_AGE. -/
theorem svExpired_frameWaits : svExpired 0 102000000000 frameWaits = seen 102000000000 frameWaits := by
  have hknown : svKnown frameWaits 0 102000000000 = 100000000000 := by decide
  rw [svExpired, hknown]
  exact expireSv_of_awaitsFresh (awaitsFresh_of_next (a := 400000) (by decide) (by decide) (by decide))

/-- Two seconds after that frame arrived, the sample that it carries is still awaited. -/
theorem svMaxAgeExpiry_waits_for_frame :
    ∃ t, exec (.svMaxAgeExpiry 0 102000000000) frameWaits = .next t ∧ (subOf t 0).next = some 400000 ∧
      svOld t (subFs t.cfg.active 0) 400000 102000000000 = true := by
  refine ⟨_, exec_svMaxAgeExpiry (by decide) (by decide) (by decide), ?_, ?_⟩
  · rw [svExpired_frameWaits, subOf_congr (congrArg Svf.subs (pqAll_svf _))]
    decide
  · rw [svExpired_frameWaits, svOld_congr (pqAll_cfg _), pqAll_cfg]
    decide

/-- Refutes O30: on `frameWaits`, SV_MAX_AGE_EXPIRY at 102 s leaves a sample awaited that is two seconds old, since a frame that arrived at 100 s
still waits for its engine. `svMaxAgeExpiry_awaits_fresh` says what the command does achieve, and the clause holds as
`svMaxAgeExpiry_awaits_fresh_of_none_waiting`. The three other clauses hold: `svFrameRx_without_time`, `svFrameRx_without_credit`,
`svFrameRx_accepts`. -/
theorem not_sampledValuesBecomeFinalInOrder : ¬ Obligations.SampledValuesBecomeFinalInOrder := by
  intro h
  obtain ⟨-, -, -, hexpiry⟩ := h
  obtain ⟨t, ht, hfresh⟩ := hexpiry frameWaits 0 102000000000 (by decide) (by decide) (by decide) (by decide)
  obtain ⟨t', ht', hnext, hold⟩ := svMaxAgeExpiry_waits_for_frame
  obtain rfl : t = t' := Host.Outcome.next.inj (ht.symm.trans ht')
  exact absurd (hold.symm.trans (hfresh _ hnext).1) nofun

/-! ## The records of local bays (R190, R192) -/

/-- A record without its mark of damage. -/
def unmarked (r : IngRec) : IngRec := { r with bad := false }

theorem unmarked_of_ing {s t : State} {l : List IngRec} (h : s.ing.recs.map unmarked = l) (e : t.ing = s.ing) :
    t.ing.recs.map unmarked = l := by
  rwa [e]

theorem unmarked_markBad (n inst : Nat) (s : State) : (markBad n inst s).ing.recs.map unmarked = s.ing.recs.map unmarked := by
  unfold markBad
  split
  · rfl
  · split
    · rfl
    · simp only [raise_ing, count_ing, strmCount_ing, ingFlag_ing, List.map_map]
      refine List.map_congr_left fun q _ => ?_
      rw [Function.comp_apply]
      split <;> rfl

theorem unmarked_foldl_markBad (inst : Nat) (l : List Nat) (s : State) :
    (l.foldl (fun s m => markBad m inst s) s).ing.recs.map unmarked = s.ing.recs.map unmarked := by
  induction l generalizing s with
  | nil => rfl
  | cons m l ih => exact (ih _).trans (unmarked_markBad m inst s)

theorem unmarked_lateWritten (k : ReadCheck) (r : IngRec) (s : State) :
    (lateWritten k r s).ing.recs.map unmarked = s.ing.recs.map unmarked := by
  unfold lateWritten
  dsimp only
  split
  · rw [harvest_ing]
    split
    · rw [unmarked_markBad]
      simp
    · simp
  · simp

/-- The index holds record `r` as written; the writing adds its late mark, and its readers may mark it damaged. -/
def HoldsWritten (r : IngRec) (s : State) : Prop :=
  ∃ q ∈ s.ing.recs, q.strm = r.strm ∧ q.inst = r.inst ∧ q.written = true ∧ q.vals = r.vals ∧ q.stat = r.stat ∧ q.arr = r.arr

theorem HoldsWritten.of_unmarked {r : IngRec} {s t : State} (h : HoldsWritten r s)
    (e : t.ing.recs.map unmarked = s.ing.recs.map unmarked) : HoldsWritten r t := by
  obtain ⟨q, hq, hfields⟩ := h
  obtain ⟨p, hp, he⟩ := List.mem_map.mp (e ▸ List.mem_map_of_mem (f := unmarked) hq)
  simp only [unmarked, IngRec.mk.injEq] at he
  obtain ⟨hstrm, -, hinst, harr, hstat, -, -, -, hvals, -, hwritten, -⟩ := he
  exact ⟨p, hp, by rw [hstrm, hinst, hwritten, hvals, hstat, harr]; exact hfields⟩

theorem holdsWritten_recPut {r : IngRec} {s : State} (flags : Nat) (hr : r ∈ s.ing.recs) :
    HoldsWritten r (recPut { r with written := true, iflags := flags } s) :=
  ⟨{ r with written := true, iflags := flags }, List.mem_map.mpr ⟨r, hr, by simp⟩, rfl, rfl, rfl, rfl, rfl, rfl⟩

/-- A record of the index that is written stands there with its contents, whatever its first readers find. -/
theorem holdsWritten_writeRec (k : ReadCheck) {r : IngRec} {s : State} (hr : r ∈ s.ing.recs) : HoldsWritten r (writeRec k r s) := by
  unfold writeRec
  dsimp only
  split
  · exact HoldsWritten.of_unmarked (holdsWritten_recPut _ hr) (unmarked_lateWritten ..)
  · exact HoldsWritten.of_unmarked (holdsWritten_recPut _ hr) (unmarked_of_ing (unmarked_foldl_markBad ..)
      ((foldl_cmpArrive_ing _ (fun s => openMax s _) ..).trans (timeoutsReset_ing ..)))

theorem bayWritten_ing (b i : Nat) (r : IngRec) (s : State) : (bayWritten b i r s).ing = s.ing :=
  (kept_bayWritten (Nat.and_self _) (Kept.refl s)).fr.ing rfl

/-- The record of a bay that is due stands written in the index. -/
theorem holdsWritten_writeBay (k : ReadCheck) (b i arr : Nat) (s : State) : HoldsWritten (bayRecord s b i arr) (writeBay k b i arr s) := by
  have hr : bayRecord s b i arr ∈ (scheduleRec (bayRecord s b i arr) (pruneRecs s)).ing.recs :=
    List.mem_append_right _ (List.mem_singleton_self _)
  unfold HoldsWritten writeBay
  rw [bayWritten_ing]
  exact holdsWritten_writeRec k hr

theorem exec_bayRecordWrite {s : State} {b i : Nat} (k : ReadCheck) (ha : alive s = true) (hd : bayDue s b i = true)
    (ho : anyEst Est.isOpen (bayEsts s b i) = false) (hg : anyEst Est.isGone (bayEsts s b i) = false) :
    exec (.bayRecordWrite b i k) s = .next (writeBay k b i (bayArrival s b i) s) := by
  change execBayRecordWrite b i s k = _
  rw [execBayRecordWrite, act_of_alive _ ha]
  simp [hd, ho, hg]

theorem exec_bayRecordWrite_recorded {s : State} {b i : Nat} (k : ReadCheck) (ha : alive s = true)
    (hr : (recOf s (bayStrm s.cfg.active b) i).isSome = true) : exec (.bayRecordWrite b i k) s = .next s := by
  have hd : bayDue s b i = false := by simp [bayDue, Option.isNone_eq_false_iff.mpr hr]
  change execBayRecordWrite b i s k = _
  rw [execBayRecordWrite, act_of_alive _ ha]
  simp [hd]

theorem exec_bayLatencyDeadline {s : State} {b i ns : Nat} (k : ReadCheck) (ha : alive s = true) (hd : bayDue (seen ns s) b i = true)
    (hl : gridNs s i + bayLambdaNs s b ≤ ns) : exec (.bayLatencyDeadline b i ns k) s = .next (writeBay k b i ns (seen ns s)) := by
  have hl : gridNs (seen ns s) i + bayLambdaNs (seen ns s) b ≤ ns := hl
  change execBayLatencyDeadline b i ns s k = _
  rw [execBayLatencyDeadline, act_of_alive _ ha]
  simp [hd, hl]

/-- Settles O31: complete values, the latency deadline, and an instant with a record. -/
theorem bayRecordsAreWritten : Obligations.BayRecordsAreWritten :=
  ⟨fun _ _ _ k ha hd ho hg => ⟨_, exec_bayRecordWrite k ha hd ho hg, holdsWritten_writeBay ..⟩,
   fun _ _ _ _ k ha _ hd hl => ⟨_, exec_bayLatencyDeadline k ha hd hl, holdsWritten_writeBay ..⟩,
   fun _ _ _ k ha hr => exec_bayRecordWrite_recorded k ha hr⟩

end Sys2Proof.Machine

/-!
Remote stations (chapter 9): GOOSE messages and the checks of Table 9-6 (R258, R259), and the loss of a station at TAL (R260).
-/
namespace Sys2Proof.Machine

/-! ## Datasets and stations -/

theorem dsOf_congr {s t : State} (h : t.sch.dss = s.sch.dss) (d : Nat) : dsOf t d = dsOf s d := by
  rw [dsOf, h, dsOf]

@[simp] theorem dsOf_modDs_self (d : Nat) (f : Ds → Ds) (s : State) : dsOf (modDs d f s) d = f (dsOf s d) := by
  simp only [dsOf, modDs_sch, fgetD_fmod_self]

theorem stnOf_congr {s t : State} (h : t.sch.stns = s.sch.stns) (n : Nat) : stnOf t n = stnOf s n := by
  rw [stnOf, h, stnOf]

@[simp] theorem stnOf_modStn_self (n : Nat) (f : Stn → Stn) (s : State) : stnOf (modStn n f s) n = f (stnOf s n) := by
  simp only [stnOf, modStn_sch, fgetD_fmod_self]

@[simp] theorem schFlag_sch (b : Nat) (s : State) : (schFlag b s).sch = s.sch := setFlag_sch ..

theorem hp_length_count {s : State} (off : Nat) (h : s.hp.length = 4) : (count off s).hp.length = 4 :=
  (kept_count (Nat.and_self _) (Kept.refl s)).hp h

/-! ## A message of a dataset (R131, R258, R259) -/

/-- The policer's credit for one message of dataset `d` is taken (R131). -/
def dsCharged (d : Nat) (s : State) : State := modDs d (fun r => { r with credit := r.credit - tps s }) s

/-- The fields of the message agree with the entry of dataset `d` (checks 3 to 5 of Table 9-6). -/
structure GooseFits (im : Image) (d : Nat) (m : GooseMsg) : Prop where
  confRev : m.confRev = dsF im d 7 31 0
  ndsCom : m.ndsCom = false
  numEnt : m.numEnt = dsF im d 8 13 4
  types : m.ents.map (·.dtype) = dsTypes im d
  sim : m.sim = false ∨ imBit im secSCH_DATASET d 0 28 = true

/-- The message repeats none that the dataset has accepted (check 8 of Table 9-6). -/
def GooseNew (r : Ds) (m : GooseMsg) : Prop := r.arr = none ∨ m.stNum ≠ r.lastSt ∨ 0 < sint 32 ((m.sqNum - r.lastSq).toNat)

/-- The tick at which dataset `d` has its message from `arr`: that of the arrival while grid time runs, the present one otherwise. -/
def arrivalTick (arr : Nat) (s : State) : Nat := if hasTime s then s.tb.tick + nsGrid s arr - s.tb.grid else s.tb.tick

/-- What a dataset notes of an accepted message. -/
def noteMsg (arr : Nat) (m : GooseMsg) (s : State) (r : Ds) : Ds :=
  { r with lastSt := m.stNum, lastSq := m.sqNum, arr := some (arrivalTick arr s)
           tal := ceilDiv (m.tal * tps s) 1000, spdu := if m.ip.isSome then some m.spdu else r.spdu, since := true }

/-- The state after an accepted message of dataset `d`: noted, its entries in the station inputs, and counted. -/
def gooseTaken (im : Image) (d arr : Nat) (m : GooseMsg) (s : State) : State :=
  let s := modDs d (noteMsg arr m s) s
  count (SCH + 0x300) { s with sch := { s.sch with
    ins := putEnts (imBit im secSCH_DATASET d 0 28) m.ents (dsF im d 9 31 19) none s.sch.ins } }

theorem dsOf_gooseTaken (im : Image) (d arr : Nat) (m : GooseMsg) (s : State) :
    dsOf (gooseTaken im d arr m s) d = noteMsg arr m s (dsOf s d) :=
  (dsOf_congr (congrArg Sch.dss (count_sch ..)) d).trans (dsOf_modDs_self ..)

theorem ins_gooseTaken (im : Image) (d arr : Nat) (m : GooseMsg) (s : State) :
    (gooseTaken im d arr m s).sch.ins =
      putEnts (imBit im secSCH_DATASET d 0 28) m.ents (dsF im d 9 31 19) none s.sch.ins :=
  congrArg Sch.ins (count_sch ..)

theorem gooseMsg_no_credit {d arr : Nat} {m : GooseMsg} {s : State} (h : (dsOf s d).credit < tps s) :
    gooseMsg d arr m s = count (SCH + 0x304) s := if_pos h

theorem gooseMsg_accepted {d arr : Nat} {m : GooseMsg} {s v : State} (hc : tps s ≤ (dsOf s d).credit) (hf : GooseFits s.cfg.active d m)
    (hauth : gooseAuth d m (dsCharged d s) = (v, true)) (hn : GooseNew (dsOf s d) m) :
    gooseMsg d arr m s = gooseTaken s.cfg.active d arr m v := by
  have hshape : ¬ (m.ndsCom = true ∨ m.numEnt ≠ dsF s.cfg.active d 8 13 4 ∨ m.ents.map (·.dtype) ≠ dsTypes s.cfg.active d) := by
    simp [hf.ndsCom, hf.numEnt, hf.types]
  have hsim : ¬ (m.sim = true ∧ (!imBit s.cfg.active secSCH_DATASET d 0 28) = true) := by
    rcases hf.sim with h | h <;> simp [h]
  have hrepeat : ¬ ((dsOf s d).arr.isSome = true ∧ m.stNum = (dsOf s d).lastSt ∧ sint 32 ((m.sqNum - (dsOf s d).lastSq).toNat) ≤ 0) := by
    rintro ⟨hsome, hst, hsq⟩
    rcases hn with h | h | h
    · simp [h] at hsome
    · exact h hst
    · omega
  unfold gooseMsg
  dsimp only
  rw [if_neg (Nat.not_lt.mpr hc), if_neg (not_not.mpr hf.confRev), if_neg hshape, if_neg hsim]
  rw [dsCharged] at hauth
  rw [hauth]
  dsimp only
  rw [Bool.not_true, if_neg Bool.false_ne_true, if_neg hrepeat]
  rfl

/-- Authentication may count a keyed operation and report its misuse; the datasets and the inputs stay. -/
theorem gooseAuth_sch {d : Nat} {m : GooseMsg} {s v : State} {b : Bool} (h : gooseAuth d m s = (v, b)) : v.sch = s.sch :=
  (KeptF.eq h (kept_gooseAuth (Nat.and_self _) (Kept.refl s))).fr.sch rfl

/-! ## GOOSE_MESSAGE_RX -/

/-- GOOSE_MESSAGE_RX checks the oldest message for the subscription that it matches, or counts it as unsubscribed (R258). -/
theorem exec_gooseMessageRx {s u : State} {h : Handed} {m : GooseMsg} (ha : alive s = true)
    (hq : takeHanded .goose s = some (h, u)) (hp : h.frame.payload = .goose m) :
    exec .gooseMessageRx s = .next ((bindGoose s.cfg.active h.frame m).elim (count (ING + 0x304) u) (fun d => gooseMsg d h.frame.arrival m u)) := by
  change execGooseMessageRx s = _
  rw [execGooseMessageRx, act_of_alive _ ha, ← (takeHanded_ports hq).1]
  simp only [hq, hp]
  cases bindGoose u.cfg.active h.frame m <;> rfl

theorem gooseMessageRx_unsubscribed {s u : State} {h : Handed} {m : GooseMsg} (ha : alive s = true)
    (hq : takeHanded .goose s = some (h, u)) (hp : h.frame.payload = .goose m) (hb : bindGoose s.cfg.active h.frame m = none) :
    exec .gooseMessageRx s = .next (count (ING + 0x304) u) := by
  rw [exec_gooseMessageRx ha hq hp, hb, Option.elim_none]

theorem gooseMessageRx_subscribed {s u : State} {h : Handed} {m : GooseMsg} {d : Nat} (ha : alive s = true)
    (hq : takeHanded .goose s = some (h, u)) (hp : h.frame.payload = .goose m) (hb : bindGoose s.cfg.active h.frame m = some d) :
    exec .gooseMessageRx s = .next (gooseMsg d h.frame.arrival m u) := by
  rw [exec_gooseMessageRx ha hq hp, hb, Option.elim_some]

/-- Without credit only the policer's counter counts (R131). -/
theorem gooseMessageRx_without_credit {s u : State} {h : Handed} {m : GooseMsg} {d : Nat} (ha : alive s = true)
    (hq : takeHanded .goose s = some (h, u)) (hp : h.frame.payload = .goose m) (hb : bindGoose s.cfg.active h.frame m = some d)
    (hc : (dsOf s d).credit < tps s) : exec .gooseMessageRx s = .next (count (SCH + 0x304) u) := by
  rw [gooseMessageRx_subscribed ha hq hp hb]
  obtain ⟨x, rfl⟩ := takeHanded_some hq
  rw [gooseMsg_no_credit (by exact hc)]

/-- A message that passes every check is noted by its dataset, and its entries are in the station inputs. -/
theorem gooseMessageRx_accepts {s u v : State} {h : Handed} {m : GooseMsg} {d : Nat} (ha : alive s = true)
    (hq : takeHanded .goose s = some (h, u)) (hp : h.frame.payload = .goose m) (hb : bindGoose s.cfg.active h.frame m = some d)
    (hc : tps s ≤ (dsOf s d).credit) (hf : GooseFits s.cfg.active d m)
    (hauth : gooseAuth d m (modDs d (fun r => { r with credit := r.credit - tps s }) u) = (v, true)) (hn : GooseNew (dsOf s d) m) :
    ∃ t, exec .gooseMessageRx s = .next t ∧ (dsOf t d).lastSt = m.stNum ∧ (dsOf t d).lastSq = m.sqNum ∧ (dsOf t d).arr.isSome ∧
      t.sch.ins = putEnts (imBit s.cfg.active secSCH_DATASET d 0 28) m.ents (dsF s.cfg.active d 9 31 19) none s.sch.ins := by
  refine ⟨_, gooseMessageRx_subscribed ha hq hp hb, ?_⟩
  obtain ⟨x, rfl⟩ := takeHanded_some hq
  have hins : v.sch.ins = s.sch.ins := by rw [gooseAuth_sch hauth]; rfl
  rw [gooseMsg_accepted (by exact hc) (by exact hf) (by exact hauth) (by exact hn), dsOf_gooseTaken, ins_gooseTaken, hins]
  exact ⟨rfl, rfl, rfl, rfl⟩

/-! ## STATION_TAL_EXPIRY (R260) -/

/-- The datasets of a lost station await a message since the loss; stations and functions stay. -/
theorem foldl_modDs_keeps (f : Ds → Ds) (l : List Nat) (s : State) :
    (l.foldl (fun s d => modDs d f s) s).sch.stns = s.sch.stns ∧ (l.foldl (fun s d => modDs d f s) s).hp = s.hp := by
  induction l generalizing s with
  | nil => exact ⟨rfl, rfl⟩
  | cons d l ih => exact ih (modDs d f s)

theorem stnOf_stnLose (n : Nat) (s : State) :
    (stnOf (stnLose n s) n).st = 2 ∧ (stnOf (stnLose n s) n).errPend = true ∧ (stnOf (stnLose n s) n).loss = s.tb.tick := by
  unfold stnLose
  dsimp only
  rw [stnOf_congr (congrArg Sch.stns ((raise_sch ..).trans ((schFlag_sch ..).trans (count_sch ..)))),
    stnOf_congr (foldl_modDs_keeps ..).1, stnOf_modStn_self]
  exact ⟨rfl, rfl, rfl⟩

theorem flagged_stnLose (n : Nat) {s : State} (hl : s.hp.length = 4) : flagged (stnLose n s) (SCH + 8) 0 := by
  refine flagged_raise (flagged_setFlag (hp_length_count _ ?_) (by decide))
  rw [(foldl_modDs_keeps ..).2]
  exact hl

theorem exec_stationTalExpiry {s : State} {n : Nat} (ha : alive s = true) (hv : stnValid s.cfg.active n = true) (hok : (stnOf s n).st = 1)
    (hdead : (stnDss s.cfg.active n).any (fun d => !dsLive s d) = true) : exec (.stationTalExpiry n) s = .next (stnLose n s) := by
  change execStationTalExpiry n s = _
  rw [execStationTalExpiry, act_of_alive _ ha]
  simp [hv, hok, hdead]

/-- An OK station of which a dataset is no longer live is lost at the tick (R260). -/
theorem stationTalExpiry_loses {s : State} {n : Nat} (hl : s.hp.length = 4) (ha : alive s = true) (hv : stnValid s.cfg.active n = true)
    (hok : (stnOf s n).st = 1) (hdead : (stnDss s.cfg.active n).any (fun d => !dsLive s d) = true) :
    ∃ t, exec (.stationTalExpiry n) s = .next t ∧ (stnOf t n).st = 2 ∧ (stnOf t n).errPend = true ∧ (stnOf t n).loss = s.tb.tick ∧
      flagged t (SCH + 8) 0 := by
  obtain ⟨hst, herr, hloss⟩ := stnOf_stnLose n s
  exact ⟨_, exec_stationTalExpiry ha hv hok hdead, hst, herr, hloss, flagged_stnLose n hl⟩

/-- Settles O34: a message without a subscription, one without credit, one that passes, and the loss of a station. -/
theorem gooseMessagesAndStations : Obligations.GooseMessagesAndStations :=
  ⟨fun _ _ _ _ ha hq hp hb => gooseMessageRx_unsubscribed ha hq hp hb,
   fun _ _ _ _ _ ha hq hp hb hc => gooseMessageRx_without_credit ha hq hp hb hc,
   fun _ _ _ _ _ _ ha hq hp hb hc hrev hnds hnum htypes hsim hauth hn =>
     gooseMessageRx_accepts ha hq hp hb hc ⟨hrev, hnds, hnum, htypes, hsim⟩ hauth hn,
   fun _ _ hl ha hv hok hdead => stationTalExpiry_loses hl ha hv hok hdead⟩

end Sys2Proof.Machine

/-!
Disturbance capture (chapter 10): the samples of a recorder and its re-arm time (R273, R280), the capture set and cross-trigger messages (R285 to
R287), CAP_CTRL (R290), and the state on which `Obligations.CaptureControlActsOnOneRecorder` fails. Its clause on CAP_FREE_TAKE speaks of every
list `Cap.takes`, also of one whose slots do not rise.
-/
namespace Sys2Proof.Machine

/-! ## Recorders under the shared operations -/

theorem capRecOf_congr {s t : State} (h : t.cap.recs = s.cap.recs) (r : Nat) : capRecOf t r = capRecOf s r := by
  rw [capRecOf, h, capRecOf]

theorem capRecOf_modCapRec (r q : Nat) (f : CapRec → CapRec) (s : State) :
    capRecOf (modCapRec r f s) q = if q = r then f (capRecOf s r) else capRecOf s q := by
  simp only [capRecOf, modCapRec_cap, fgetD_fmod]

@[simp] theorem capRecOf_modCapRec_self (r : Nat) (f : CapRec → CapRec) (s : State) : capRecOf (modCapRec r f s) r = f (capRecOf s r) := by
  rw [capRecOf_modCapRec, if_pos rfl]

@[simp] theorem capFlag_cap (b : Nat) (s : State) : (capFlag b s).cap = s.cap := setFlag_cap ..
@[simp] theorem capCount_cap (r k : Nat) (s : State) : (capCount r k s).cap = s.cap := countW_cap ..
@[simp] theorem harvest_cap (on : Nat → Bool) (typ : Nat) (g : Option Nat) (b : List Byte) (c : Option (Nat × Nat)) (s : State) :
    (harvest on typ g b c s).cap = s.cap :=
  (kept_harvest (Nat.and_self _) (Kept.refl s)).fr.cap rfl
@[simp] theorem enqueueMask_cap (mask : Nat) (body : TxBody) (len : Nat) (due : Option Nat) (s : State) :
    (enqueueMask mask body len due s).cap = s.cap :=
  (kept_enqueueMask (Nat.and_self _) (Kept.refl s)).fr.cap rfl
theorem macSign_cap (k : Nat) (bs : List Byte) (s : State) : (macSign k bs s).1.cap = s.cap :=
  (kept_macSign (Nat.and_self _) (Kept.refl s)).fst.fr.cap rfl
@[simp] theorem sampSets_cap (r : Nat) (bad : List (Nat × Nat)) (s : State) : (sampSets r bad s).cap = s.cap :=
  (kept_sampSets (Nat.and_self _) (Kept.refl s)).fr.cap rfl
@[simp] theorem processCauses_cfg (r : Nat) (s : State) : (processCauses r s).cfg = s.cfg :=
  (kept_processCauses (Nat.and_self _) (Kept.refl s)).fr.cfg rfl

/-! ## Cross-trigger messages that are sent (R286) -/

/-- Of the CAP block, sending a message changes MSG_SEQ at most. -/
theorem xtSend_cap (typ ns cause rcd span : Nat) (s : State) :
    ∃ x, (xtSend typ ns cause rcd span s).1.cap = { s.cap with xtSeq := x } := by
  unfold xtSend
  extract_lets x b
  split
  next s' mac hmac =>
    have hcap : s'.cap = s.cap := by
      split at hmac
      · exact (congrArg (·.1.cap) hmac).symm.trans (macSign_cap ..)
      · cases hmac; rfl
    cases mac with
    | none => exact ⟨s.cap.xtSeq, hcap⟩
    | some m => exact ⟨_, (enqueueMask_cap ..).trans (by rw [hcap])⟩

@[simp] theorem xtSend_tb (typ ns cause rcd span : Nat) (s : State) : (xtSend typ ns cause rcd span s).1.tb = s.tb :=
  (kept_xtSend (Nat.and_self _) (Kept.refl s)).fst.fr.tb rfl

/-! ## What the processing of causes leaves of a recorder (R278 to R282) -/

/-- Every recorder keeps its next sample and its pre-trigger buffer, and the set stays armed or disarmed. -/
structure KeepsPlaces (s t : State) : Prop where
  next : ∀ r, (capRecOf t r).next = (capRecOf s r).next
  ring : ∀ r, (capRecOf t r).ring = (capRecOf s r).ring
  armed : t.cap.armed = s.cap.armed

theorem KeepsPlaces.of_recs {s t : State} (h : t.cap.recs = s.cap.recs) (ha : t.cap.armed = s.cap.armed) : KeepsPlaces s t :=
  ⟨fun r => by rw [capRecOf_congr h], fun r => by rw [capRecOf_congr h], ha⟩

theorem KeepsPlaces.of_cap {s t : State} (h : t.cap = s.cap) : KeepsPlaces s t := .of_recs (by rw [h]) (by rw [h])

theorem KeepsPlaces.refl (s : State) : KeepsPlaces s s := .of_cap rfl

theorem KeepsPlaces.trans {s t u : State} (h : KeepsPlaces s t) (k : KeepsPlaces t u) : KeepsPlaces s u :=
  ⟨fun r => (k.next r).trans (h.next r), fun r => (k.ring r).trans (h.ring r), k.armed.trans h.armed⟩

theorem KeepsPlaces.foldl {α : Type} {f : State → α → State} (hf : ∀ s a, KeepsPlaces s (f s a)) (l : List α) (s : State) :
    KeepsPlaces s (l.foldl f s) := by
  induction l generalizing s with
  | nil => exact .refl s
  | cons a l ih => exact (hf s a).trans (ih _)

theorem KeepsPlaces.foldl_fst {α β : Type} {f : State × β → α → State × β} (hf : ∀ p a, KeepsPlaces p.1 (f p a).1) (l : List α)
    (p : State × β) : KeepsPlaces p.1 (l.foldl f p).1 := by
  induction l generalizing p with
  | nil => exact .refl p.1
  | cons a l ih => exact (hf p a).trans (ih _)

theorem keepsPlaces_modCapRec (r : Nat) {f : CapRec → CapRec} (s : State) (hn : ∀ q, (f q).next = q.next := by exact fun _ => rfl)
    (hr : ∀ q, (f q).ring = q.ring := by exact fun _ => rfl) : KeepsPlaces s (modCapRec r f s) where
  next q := by rw [capRecOf_modCapRec]; split <;> simp [*]
  ring q := by rw [capRecOf_modCapRec]; split <;> simp [*]
  armed := rfl

theorem keepsPlaces_modTake (k : Nat) (f : CapTake → CapTake) (s : State) : KeepsPlaces s (modTake k f s) := by
  unfold modTake
  cases takeOf s k <;> exact .of_recs rfl rfl

theorem keepsPlaces_overwrite (k : Nat) (t : CapTake) (s : State) : KeepsPlaces s (overwrite k t s) :=
  .of_recs (by simp [overwrite]) (by simp [overwrite])

theorem keepsPlaces_makeRoom (n blocks : Nat) (s : State) : KeepsPlaces s (makeRoom n blocks s) := by
  induction n generalizing s with
  | zero => exact .refl s
  | succ n ih =>
    unfold makeRoom
    split
    · exact .refl s
    · split
      · exact (keepsPlaces_overwrite ..).trans (ih _)
      · exact .refl s

theorem keepsPlaces_trigger (r k c : Nat) (moved : Bool) (s : State) : KeepsPlaces s (trigger r k c moved s).1 := by
  unfold trigger
  extract_lets im q pre blocks s1
  have room : KeepsPlaces s s1 := by
    unfold s1
    split
    · exact keepsPlaces_makeRoom ..
    · exact .refl s
  clear_value s1
  split
  · exact room
  · split
    · exact room
    · extract_lets s2 s3
      exact room.trans (.trans (t := s2) (.of_recs rfl rfl) (.trans (t := s3) (keepsPlaces_modCapRec r _) (.of_recs rfl rfl)))

theorem keepsPlaces_oneCause (r c k : Nat) (moved : Bool) (a : State × List SlateDue) : KeepsPlaces a.1 (oneCause r c k moved a).1 := by
  obtain ⟨s, l⟩ := a
  unfold oneCause
  dsimp only
  split
  · exact .of_cap (capCount_cap ..)
  · split
    · split <;> (dsimp only; exact keepsPlaces_trigger ..)
    · split
      · exact keepsPlaces_modTake ..
      · exact .refl s

theorem keepsPlaces_makeSlate (r : Nat) (s : State) (d : SlateDue) : KeepsPlaces s (makeSlate r s d) := by
  unfold makeSlate
  extract_lets no raw old s1 s2 s3
  have full : s3.cap = s2.cap := by unfold s3; split <;> simp
  refine .trans (t := s1) (.of_recs rfl rfl) (.of_cap ?_)
  rw [harvest_cap, raiseLimited_cap, full, capFlag_cap, capCount_cap]

theorem keepsPlaces_xtSend (typ ns cause rcd span : Nat) (s : State) : KeepsPlaces s (xtSend typ ns cause rcd span s).1 := by
  obtain ⟨x, hx⟩ := xtSend_cap typ ns cause rcd span s
  exact .of_recs (by rw [hx]) (by rw [hx])

theorem keepsPlaces_fireIfDue (r : Nat) (s : State) : KeepsPlaces s (fireIfDue r s) := by
  unfold fireIfDue
  extract_lets im q
  split
  next t _ =>
    split
    · have sent := keepsPlaces_xtSend 0x0A12 (sampNs s r t.trig) t.cause r 0 s
      split
      next s' ok hsend =>
        rw [hsend] at sent
        cases ok
        · exact sent
        · exact sent.trans ((keepsPlaces_modTake ..).trans (.of_cap (capCount_cap ..)))
    · exact .refl s
  · exact .refl s

theorem keepsPlaces_processCauses (r : Nat) (s : State) : KeepsPlaces s (processCauses r s) := by
  unfold processCauses
  extract_lets go was old s1
  split
  next s2 l hfold =>
    have placed : KeepsPlaces s1 s2 := by
      refine (congrArg (KeepsPlaces s1 ·.1) hfold).mp (.foldl_fst (fun a c => ?_) go (s1, []))
      split
      · exact keepsPlaces_oneCause ..
      · exact .refl _
    extract_lets s3
    have fired : KeepsPlaces s2 s3 := by
      unfold s3
      split
      · exact keepsPlaces_fireIfDue ..
      · exact .refl s2
    exact .trans (t := s1) (.of_recs rfl rfl) (placed.trans (fired.trans (.foldl (keepsPlaces_makeSlate r) ..)))

theorem keepsPlaces_closeTake (r : Nat) (s : State) : KeepsPlaces s (closeTake r s) := by
  unfold closeTake
  extract_lets im k
  split
  · exact .refl s
  · extract_lets raw s1 s2
    refine (keepsPlaces_modTake ..).trans (.trans (t := s2) (keepsPlaces_modCapRec r _) (.of_cap ?_))
    rw [raise_cap, capFlag_cap, capCount_cap]

theorem keepsPlaces_closeIfDone (r : Nat) (s : State) : KeepsPlaces s (closeIfDone r s) := by
  unfold closeIfDone
  split
  · split
    · exact keepsPlaces_closeTake ..
    · exact .refl s
  · exact .refl s

/-! ## CAPTURE_SAMPLE_WRITE (R273) -/

theorem keepsPlaces_condStep (r k c : Nat) (s : State) : KeepsPlaces s (condStep r k c s) := by
  unfold condStep
  extract_lets im x p any src a p' s1
  have stepped : KeepsPlaces s s1 := keepsPlaces_modCapRec r _
  split
  · split
    · exact keepsPlaces_modCapRec r _
    · exact .refl s
  · split
    · exact stepped.trans (.of_recs rfl rfl)
    · exact stepped

/-- The sample at which recorder `r` stands enters its pre-trigger buffer, and it stands at the next one. -/
theorem pushSamp_place (r : Nat) (s : State) :
    (capRecOf (pushSamp r s) r).next = (capRecOf s r).next + 1 ∧
      (capRecOf (pushSamp r s) r).ring = (takeSamp s r (capRecOf s r).next :: (capRecOf s r).ring).take (ringDepth s.cfg.active r) := by
  unfold pushSamp
  extract_lets im k x s1 s2
  have taken : KeepsPlaces s1 s2 := by
    unfold s2
    split
    · exact keepsPlaces_modTake ..
    · exact .refl s1
  have conds := taken.trans (.foldl (fun s c => keepsPlaces_condStep r k c s) ((recConds im r).filter (fun c => !condEvent im r c)) s2)
  rw [conds.next, conds.ring, capRecOf_modCapRec_self]
  exact ⟨rfl, rfl⟩

@[simp] theorem sampSets_nil (r : Nat) (s : State) : sampSets r [] s = s := by
  unfold sampSets
  extract_lets im g
  split
  · rfl
  · rfl

theorem exec_captureSampleWrite {s : State} {r : Nat} (c : ReadCheck) (ha : alive s = true) (hv : recValid s.cfg.active r = true)
    (hst : (capRecOf s r).started = true) :
    exec (.captureSampleWrite r c) s =
      .next (closeIfDone r (processCauses r (if sampFinal s r (capRecOf s r).next then pushSamp r (sampSets r c.setBad s) else s))) := by
  change execCaptureSampleWrite r s c = _
  have hw : waveStart r s = s := by simp [waveStart, hst]
  rw [execCaptureSampleWrite, act_of_alive _ ha]
  simp [hv, hw, hst]

theorem keepsPlaces_processed (r : Nat) (s : State) : KeepsPlaces s (closeIfDone r (processCauses r s)) :=
  (keepsPlaces_processCauses r s).trans (keepsPlaces_closeIfDone r _)

theorem captureSampleWrite_goes_on {s : State} {r : Nat} (c : ReadCheck) (ha : alive s = true) (hv : recValid s.cfg.active r = true)
    (hst : (capRecOf s r).started = true) (hf : sampFinal s r (capRecOf s r).next = true) :
    ∃ t, exec (.captureSampleWrite r c) s = .next t ∧ (capRecOf t r).next = (capRecOf s r).next + 1 ∧
      (c.setBad = [] → (capRecOf t r).ring = (takeSamp s r (capRecOf s r).next :: (capRecOf s r).ring).take (ringDepth s.cfg.active r)) := by
  refine ⟨_, exec_captureSampleWrite c ha hv hst, ?_⟩
  rw [if_pos hf, (keepsPlaces_processed ..).next, (keepsPlaces_processed ..).ring, (pushSamp_place ..).1, (pushSamp_place ..).2,
    capRecOf_congr (congrArg Cap.recs (sampSets_cap ..))]
  exact ⟨rfl, fun hbad => by rw [hbad, sampSets_nil]⟩

theorem captureSampleWrite_waits {s : State} {r : Nat} (c : ReadCheck) (ha : alive s = true) (hv : recValid s.cfg.active r = true)
    (hst : (capRecOf s r).started = true) (hf : sampFinal s r (capRecOf s r).next = false) :
    ∃ t, exec (.captureSampleWrite r c) s = .next t ∧ (capRecOf t r).next = (capRecOf s r).next ∧ (capRecOf t r).ring = (capRecOf s r).ring := by
  refine ⟨_, exec_captureSampleWrite c ha hv hst, ?_⟩
  rw [hf, if_neg Bool.false_ne_true]
  exact ⟨(keepsPlaces_processed ..).next r, (keepsPlaces_processed ..).ring r⟩

/-! ## REARM_EXPIRY (R280) -/

theorem rearmExpiry_rearms {s : State} {r : Nat} (ha : alive s = true) (hst : (capRecOf s r).st = 3) (hd : (capRecOf s r).rearmEnd ≤ s.tb.tick) :
    ∃ t, exec (.rearmExpiry r) s = .next t ∧ (capRecOf t r).off = false ∧
      (capRecOf t r).st = (if !(capRecOf s r).off && (!recSet s.cfg.active r || s.cap.armed) then 1 else 0) := by
  refine ⟨_, act_of_alive _ ha, ?_⟩
  dsimp only
  rw [if_pos ⟨hst, hd⟩, capRecOf_modCapRec_self, processCauses_cfg, (keepsPlaces_processCauses r s).armed]
  exact ⟨rfl, rfl⟩

theorem exec_rearmExpiry_early {s : State} {r : Nat} (ha : alive s = true) (hd : s.tb.tick < (capRecOf s r).rearmEnd) :
    exec (.rearmExpiry r) s = .next s := by
  change execRearmExpiry r s = _
  rw [execRearmExpiry, act_of_alive _ ha]
  dsimp only
  rw [if_neg fun h => absurd h.2 (Nat.not_le.mpr hd)]

/-- Settles O35: a final sample is taken, one that is not final is awaited, and the re-arm time ends in ARMED or DISARMED, never early. -/
theorem captureRecordersStepThroughTheirSamples : Obligations.CaptureRecordersStepThroughTheirSamples :=
  ⟨fun _ _ c ha hv hst hf => captureSampleWrite_goes_on c ha hv hst hf,
   fun _ _ c ha hv hst hf => captureSampleWrite_waits c ha hv hst hf,
   fun _ _ ha hst hd => rearmExpiry_rearms ha hst hd,
   fun _ _ ha hd => exec_rearmExpiry_early ha hd⟩

/-! ## The capture set (R286) -/

@[simp] theorem setArmEvent_cap (s : State) : (setArmEvent s).cap = s.cap := raise_cap ..

theorem foldl_modCapRec_cap (f : CapRec → CapRec) (l : List Nat) (s : State) :
    ∃ q, (l.foldl (fun s r => modCapRec r f s) s).cap = { s.cap with recs := q } := by
  induction l generalizing s with
  | nil => exact ⟨s.cap.recs, rfl⟩
  | cons r l ih => exact ih (modCapRec r f s)

/-- Arming holds the set armed under the ARM_ID until the span has passed; otherwise it changes recorders only. -/
theorem setArm_cap (id span : Nat) (s : State) :
    ∃ q, (setArm id span s).cap = { s.cap with armed := true, armId := id, armEnd := s.tb.tick + span * 1024, recs := q } := by
  unfold setArm
  extract_lets was old s1 s2
  obtain ⟨q, hq⟩ : ∃ q, s2.cap = { s1.cap with recs := q } := foldl_modCapRec_cap ..
  refine ⟨q, ?_⟩
  split
  · exact hq
  · exact (setArmEvent_cap _).trans hq

/-- Disarming leaves ARM_ID and the reel; besides it changes recorders only. -/
theorem setDisarm_cap (s : State) : ∃ q, (setDisarm s).cap = { s.cap with armed := false, recs := q } := by
  unfold setDisarm
  split
  next h =>
    have hoff : s.cap.armed = false := by simpa using h
    exact ⟨s.cap.recs, by rw [← hoff]⟩
  · extract_lets old s1 s2
    obtain ⟨q, hq⟩ : ∃ q, s2.cap = { s1.cap with recs := q } := foldl_modCapRec_cap ..
    exact ⟨q, (setArmEvent_cap _).trans hq⟩

/-- ARM is sent under the ARM_ID in force, and the set is armed for ARM_SPAN from now. -/
theorem sendArm_cap (s : State) :
    (sendArm s).cap.armed = true ∧ (sendArm s).cap.armId = s.cap.armId ∧ (sendArm s).cap.armEnd = s.tb.tick + xtSpan s * 1024 ∧
      (sendArm s).cap.lastArm = s.tb.tick := by
  unfold sendArm
  extract_lets old s1
  obtain ⟨x, hx⟩ := xtSend_cap 0x0A11 s1.tb.now 0 0 (xtSpan s1) s1
  obtain ⟨q, hq⟩ := setArm_cap s1.cap.armId (xtSpan s1) (xtSend 0x0A11 s1.tb.now 0 0 (xtSpan s1) s1).1
  rw [hq, hx, xtSend_tb]
  exact ⟨rfl, rfl, rfl, rfl⟩

/-- The ARM_ID that the master takes is not the one before: the TAI second count, or the previous ARM_ID + 1. -/
theorem masterArm_cap (s : State) :
    (masterArm s).cap.armed = true ∧ (masterArm s).cap.armId ≠ s.cap.armId ∧ (masterArm s).cap.armEnd = s.tb.tick + xtSpan s * 1024 := by
  unfold masterArm
  extract_lets sec id old s1
  have fresh : id ≠ s.cap.armId := by
    unfold id
    split <;> omega
  obtain ⟨harmed, hid, hend, -⟩ := sendArm_cap s1
  exact ⟨harmed, hid ▸ fresh, hend⟩

/-! ## CAP_CTRL (R290) -/

theorem validFn_of_imgLoad {s : State} {n : Nat} (h : imgLoad s n = true) : validFn s n = true := by
  rw [imgLoad, Bool.and_eq_true] at h
  exact h.1

/-- With the key and the right the operation runs. -/
theorem capCtrl_allowed {s : State} {n : Nat} (o : EvObj) (op : Nat) {right : Bool} (f : State → State) (hv : validFn s n = true)
    (hr : right = true) : capCtrl n o op 0xCA57 right f s = f s := by
  simp [capCtrl, hv, hr]

/-- With another key it is refused with reason 1. -/
theorem capCtrl_wrong_key {s : State} {n key : Nat} (o : EvObj) (op : Nat) (right : Bool) (f : State → State) (hv : validFn s n = true)
    (hk : key ≠ 0xCA57) : capCtrl n o op key right f s = capRefuse o op 1 s := by
  simp [capCtrl, hv, hk]

theorem exec_capArmSet {s : State} {n : Nat} (ha : alive s = true) (hl : imgLoad s n = true) (hm : xtMaster s = true) :
    exec (.capArmSet n 0xCA57) s = .next (masterArm s) := by
  change execCapArmSet n 0xCA57 s = _
  rw [execCapArmSet, act_of_alive _ ha, capCtrl_allowed _ _ _ (validFn_of_imgLoad hl) hl, if_pos hm]

theorem exec_capDisarmSet {s : State} {n : Nat} (ha : alive s = true) (hl : imgLoad s n = true) (hm : xtMaster s = true) :
    exec (.capDisarmSet n 0xCA57) s = .next (setDisarm (xtSend 0x0A13 s.tb.now 0 0 0 s).1) := by
  change execCapDisarmSet n 0xCA57 s = _
  rw [execCapDisarmSet, act_of_alive _ ha, capCtrl_allowed _ _ _ (validFn_of_imgLoad hl) hl, if_pos hm]

theorem capArmSet_arms {s : State} {n : Nat} (ha : alive s = true) (hl : imgLoad s n = true) (hm : xtMaster s = true) :
    ∃ t, exec (.capArmSet n 0xCA57) s = .next t ∧ t.cap.armed = true ∧ t.cap.armId ≠ s.cap.armId ∧
      t.cap.armEnd = s.tb.tick + xtSpan s * 1024 :=
  ⟨_, exec_capArmSet ha hl hm, masterArm_cap s⟩

theorem capDisarmSet_disarms {s : State} {n : Nat} (ha : alive s = true) (hl : imgLoad s n = true) (hm : xtMaster s = true) :
    ∃ t, exec (.capDisarmSet n 0xCA57) s = .next t ∧ t.cap.armed = false ∧ t.cap.armId = s.cap.armId := by
  refine ⟨_, exec_capDisarmSet ha hl hm, ?_⟩
  obtain ⟨x, hx⟩ := xtSend_cap 0x0A13 s.tb.now 0 0 0 s
  obtain ⟨q, hq⟩ := setDisarm_cap (xtSend 0x0A13 s.tb.now 0 0 0 s).1
  rw [hq, hx]
  exact ⟨rfl, rfl⟩

/-! ## ARM_REPEAT and ARM_SPAN_EXPIRY (R286) -/

theorem exec_armRepeat {s : State} (ha : alive s = true) (hm : xtMaster s = true) (harm : s.cap.armed = true)
    (hd : s.cap.lastArm + xtSpan s / 2 * 1024 ≤ s.tb.tick) : exec .armRepeat s = .next (sendArm s) := by
  change execArmRepeat s = _
  rw [execArmRepeat, act_of_alive _ ha]
  simp [hm, harm, hd]

theorem exec_armSpanExpiry {s : State} (ha : alive s = true) (harm : s.cap.armed = true) (hd : s.cap.armEnd ≤ s.tb.tick) :
    exec .armSpanExpiry s = .next (setDisarm s) := by
  change execArmSpanExpiry s = _
  rw [execArmSpanExpiry, act_of_alive _ ha]
  simp [harm, hd]

theorem armSpanExpiry_disarms {s : State} (ha : alive s = true) (harm : s.cap.armed = true) (hd : s.cap.armEnd ≤ s.tb.tick) :
    ∃ t, exec .armSpanExpiry s = .next t ∧ t.cap.armed = false ∧ t.cap.takes = s.cap.takes := by
  refine ⟨_, exec_armSpanExpiry ha harm hd, ?_⟩
  obtain ⟨q, hq⟩ := setDisarm_cap s
  rw [hq]
  exact ⟨rfl, rfl⟩

/-! ## CROSS_TRIGGER_MSG_RX (R287) -/

theorem exec_crossTriggerMsgRx {s u : State} {h : Handed} {hdr : IpHdr} {b : List Byte} {o : Bool} (ha : alive s = true)
    (hq : takeHanded .cross s = some (h, u)) (hp : h.frame.payload = .ip hdr b o) : exec .crossTriggerMsgRx s = .next (crossMsg b u) := by
  change execCrossTriggerMsgRx s = _
  rw [execCrossTriggerMsgRx, act_of_alive _ ha]
  simp only [hq, hp]

theorem crossMsg_of_length_ne {b : List Byte} (s : State) (h : b.length ≠ 64) : crossMsg b s = count (CAP + 0x304) s := by
  unfold crossMsg
  extract_lets
  exact if_pos (.inl h)

/-- A well-formed ARM (Table 10-9) from the master of the set, another module, where no authentication is asked and none of its messages came
before. -/
structure ArmMsg (s : State) (b : List Byte) : Prop where
  length : b.length = 64
  stamped : tsOk b 0x14 = true
  sized : beAt b 2 2 = 64
  arm : beAt b 0 2 = 0x0A11
  on : xtOn s = true
  set : beAt b 4 4 = (imgReg s.cfg.active (CAP + 0x14)).toNat
  foreign : beAt b 0xC 2 ≠ fld (xtCfg s) 21 16
  master : beAt b 0xC 2 = fld (xtCfg s) 29 24
  unsigned : bit (xtCfg s) 30 = false
  first : fget? s.cap.xtLast (beAt b 0xC 2) = none

/-- MSG_SEQ of an accepted message is noted for its sender, and the message is counted. -/
def xtNoted (b : List Byte) (s : State) : State :=
  count (CAP + 0x300) { s with cap := { s.cap with xtLast := fset s.cap.xtLast (beAt b 0xC 2) (BitVec.ofNat 32 (beAt b 0x10 4)) } }

theorem crossMsg_arm {s : State} {b : List Byte} (h : ArmMsg s b) : crossMsg b s = setArm (beAt b 8 4) (beAt b 0x26 2) (xtNoted b s) := by
  unfold crossMsg
  extract_lets x typ sender id seq
  have typed : typ = 0x0A11 := h.arm
  have formed : ¬ (b.length ≠ 64 ∨ beAt b 2 2 ≠ 64 ∨ ¬ (typ = 0x0A11 ∨ typ = 0x0A12 ∨ typ = 0x0A13) ∨ (!xtOn s) = true ∨
      beAt b 4 4 ≠ (imgReg s.cfg.active (CAP + 0x14)).toNat ∨ (!tsOk b 0x14) = true) := by
    simp [h.length, h.sized, typed, h.on, h.set, h.stamped]
  have unsigned : ¬ bit x 30 = true := by simp [x, h.unsigned]
  have fresh : ¬ (fget? s.cap.xtLast sender).any (fun l => decide ((seq - l).toInt ≤ 0)) = true := by simp [sender, h.first]
  have sent : ¬ (typ ≠ 0x0A12 ∧ sender ≠ fld x 29 24) := fun hs => hs.2 h.master
  have noFire : ¬ (typ = 0x0A12 ∧ ((!s.cap.armed) = true ∨ id ≠ s.cap.armId)) := by simp [typed]
  rw [if_neg formed, if_neg h.foreign, if_neg unsigned]
  dsimp only
  rw [Bool.not_true, if_neg Bool.false_ne_true, if_neg fresh, if_neg sent, if_neg noFire, if_pos typed]
  rfl

theorem crossTriggerMsgRx_counts {s u : State} {h : Handed} {hdr : IpHdr} {b : List Byte} {o : Bool} (ha : alive s = true)
    (hq : takeHanded .cross s = some (h, u)) (hp : h.frame.payload = .ip hdr b o) (hl : b.length ≠ 64) :
    exec .crossTriggerMsgRx s = .next (count (CAP + 0x304) u) := by
  rw [exec_crossTriggerMsgRx ha hq hp, crossMsg_of_length_ne u hl]

theorem crossTriggerMsgRx_arms {s u : State} {h : Handed} {hdr : IpHdr} {b : List Byte} {o : Bool} (ha : alive s = true)
    (hq : takeHanded .cross s = some (h, u)) (hp : h.frame.payload = .ip hdr b o) (hm : ArmMsg s b) :
    ∃ t, exec .crossTriggerMsgRx s = .next t ∧ t.cap.armed = true ∧ t.cap.armId = beAt b 8 4 ∧
      t.cap.armEnd = s.tb.tick + beAt b 0x26 2 * 1024 := by
  refine ⟨_, exec_crossTriggerMsgRx ha hq hp, ?_⟩
  obtain ⟨x, rfl⟩ := takeHanded_some hq
  obtain ⟨q, hcap⟩ := setArm_cap (beAt b 8 4) (beAt b 0x26 2) (xtNoted b _)
  rw [crossMsg_arm (by exact { hm with }), hcap, xtNoted, count_tb]
  exact ⟨rfl, rfl, rfl⟩

/-- Settles O37: the master arms, repeats and disarms the set, its span runs out, and a member obeys the master's ARM. -/
theorem theCaptureSetIsArmedAndDisarmed : Obligations.TheCaptureSetIsArmedAndDisarmed :=
  ⟨fun _ _ ha hl hm => ⟨capArmSet_arms ha hl hm, capDisarmSet_disarms ha hl hm⟩,
   fun s ha hm harm hd => ⟨_, exec_armRepeat ha hm harm hd, sendArm_cap s⟩,
   fun _ ha harm hd => armSpanExpiry_disarms ha harm hd,
   fun _ _ _ _ _ _ ha hq hp hl => crossTriggerMsgRx_counts ha hq hp hl,
   fun _ _ _ _ _ _ ha hq hp hl hts hsize harm hon hset hown hmaster hauth hfirst =>
     crossTriggerMsgRx_arms ha hq hp ⟨hl, hts, hsize, harm, hon, hset, hown, hmaster, hauth, hfirst⟩⟩

/-! ## CAP_CTRL on one recorder (R290) -/

/-- A change of recorder `r` leaves every other. -/
theorem capRecOf_modCapRec_of_ne {r q : Nat} (f : CapRec → CapRec) (s : State) (h : q ≠ r) : capRecOf (modCapRec r f s) q = capRecOf s q := by
  rw [capRecOf_modCapRec, if_neg h]

theorem capArmRecorder_arms {s : State} {n r : Nat} (ha : alive s = true) (hv : validFn s n = true)
    (hr : Nat.testBit (recMask s.cfg.active r) n = true) (hs : recSet s.cfg.active r = false) :
    ∃ t, exec (.capArmRecorder n r 0xCA57) s = .next t ∧
      capRecOf t r = { capRecOf s r with st := if (capRecOf s r).st = 0 then 1 else (capRecOf s r).st, off := false } ∧
      ∀ q, q ≠ r → capRecOf t q = capRecOf s q := by
  refine ⟨_, act_of_alive _ ha, ?_⟩
  rw [capCtrl_allowed _ _ _ hv hr, hs, if_neg Bool.false_ne_true]
  exact ⟨capRecOf_modCapRec_self .., fun q hq => capRecOf_modCapRec_of_ne _ s hq⟩

theorem capDisarmRecorder_disarms {s : State} {n r : Nat} (ha : alive s = true) (hv : validFn s n = true)
    (hr : Nat.testBit (recMask s.cfg.active r) n = true) (hs : recSet s.cfg.active r = false) :
    ∃ t, exec (.capDisarmRecorder n r 0xCA57) s = .next t ∧
      capRecOf t r = { capRecOf s r with
        st := if (capRecOf s r).st = 1 then 0 else (capRecOf s r).st, off := decide (2 ≤ (capRecOf s r).st) } ∧
      ∀ q, q ≠ r → capRecOf t q = capRecOf s q := by
  refine ⟨_, act_of_alive _ ha, ?_⟩
  rw [capCtrl_allowed _ _ _ hv hr, hs, if_neg Bool.false_ne_true]
  exact ⟨capRecOf_modCapRec_self .., fun q hq => capRecOf_modCapRec_of_ne _ s hq⟩

/-- The host trigger conditions of recorder `r`: event conditions with ESRC 0x8. -/
def hostConds (im : Image) (r : Nat) : List Nat :=
  (recConds im r).filter (fun c => condEvent im r c && condF im r c 1 31 28 == 8)

/-- A cause for each of the conditions joins those that wait; the timebase and the configuration do not change meanwhile. -/
theorem foldl_addCause (r : Nat) (l : List Nat) (s : State) :
    l.foldl (fun s c => addCause { rcd := r, cond := c, ns := gridNs s s.tb.grid } s) s =
      { s with cap := { s.cap with causes := s.cap.causes ++ l.map (fun c => { rcd := r, cond := c, ns := gridNs s s.tb.grid }) } } := by
  induction l generalizing s with
  | nil => rw [List.map_nil, List.append_nil]; rfl
  | cons c l ih =>
    rw [List.foldl_cons, ih, List.map_cons, List.append_cons]
    rfl

theorem capHostTrigger_adds_causes {s : State} {n r : Nat} (ha : alive s = true) (hv : validFn s n = true)
    (hr : Nat.testBit (recMask s.cfg.active r) n = true) :
    ∃ t, exec (.capHostTrigger n r 0xCA57) s = .next t ∧
      t.cap.causes = s.cap.causes ++ (hostConds s.cfg.active r).map (fun c => { rcd := r, cond := c, ns := gridNs s s.tb.grid }) ∧
      t.cap.takes = s.cap.takes := by
  refine ⟨_, act_of_alive _ ha, ?_⟩
  rw [capCtrl_allowed _ _ _ hv hr, foldl_addCause]
  exact ⟨rfl, rfl⟩

/-- The reel without take slot `k`. -/
def freeTake (k : Nat) (s : State) : State := { s with cap := { s.cap with takes := fdel s.cap.takes k } }

theorem exec_capFreeTake {s : State} {n k : Nat} {x : CapTake} (ha : alive s = true) (hv : validFn s n = true)
    (hx : takeOf s k = some x) (hr : Nat.testBit (recMask s.cfg.active x.rcd) n = true) (hc : x.closed = true)
    (hread : takeReading s k = false) : exec (.capFreeTake n k 0xCA57) s = .next (freeTake k s) := by
  change execCapFreeTake n k 0xCA57 s = _
  rw [execCapFreeTake, act_of_alive _ ha]
  simp only [hx]
  rw [capCtrl_allowed _ _ _ hv hr]
  simp [hx, hc, hread, freeTake]

/-- On a reel whose slots rise, freeing a take removes exactly it. -/
theorem capFreeTake_removes_one {s : State} {n k : Nat} {x : CapTake} (ha : alive s = true) (hv : validFn s n = true)
    (hx : takeOf s k = some x) (hr : Nat.testBit (recMask s.cfg.active x.rcd) n = true) (hc : x.closed = true)
    (hread : takeReading s k = false) (hrise : Rising s.cap.takes) :
    ∃ t, exec (.capFreeTake n k 0xCA57) s = .next t ∧ takeOf t k = none ∧ ∀ j, j ≠ k → takeOf t j = takeOf s j :=
  ⟨_, exec_capFreeTake ha hv hx hr hc hread, fget_fdel_self .., fun _ hj => fget_fdel_of_ne hrise hj⟩

/-- The object that a write of CAP_CTRL on take slot `k` names. -/
def takeObj (s : State) (k : Nat) : EvObj := (takeOf s k).elim .all (fun q => capObj s q.rcd)

/-- With another key each of the six operations is refused with its number and reason 1. -/
theorem capCtrl_refused {s : State} {n key : Nat} (x : Nat) (ha : alive s = true) (hv : validFn s n = true) (hk : key ≠ 0xCA57) :
    exec (.capArmRecorder n x key) s = .next (capRefuse (capObj s x) 1 1 s) ∧
    exec (.capDisarmRecorder n x key) s = .next (capRefuse (capObj s x) 2 1 s) ∧
    exec (.capHostTrigger n x key) s = .next (capRefuse (capObj s x) 3 1 s) ∧
    exec (.capFreeTake n x key) s = .next (capRefuse (takeObj s x) 4 1 s) ∧
    exec (.capArmSet n key) s = .next (capRefuse .all 5 1 s) ∧ exec (.capDisarmSet n key) s = .next (capRefuse .all 6 1 s) := by
  have refused : ∀ (o : EvObj) (op : Nat) (right : Bool) (f : State → State),
      (.next (capCtrl n o op key right f s) : Out) = .next (capRefuse o op 1 s) :=
    fun o op right f => by rw [capCtrl_wrong_key o op right f hv hk]
  have free : exec (.capFreeTake n x key) s = .next (capRefuse (takeObj s x) 4 1 s) := by
    change execCapFreeTake n x key s = _
    rw [execCapFreeTake, act_of_alive _ ha, takeObj]
    cases takeOf s x <;> exact refused ..
  exact ⟨(act_of_alive _ ha).trans (refused ..), (act_of_alive _ ha).trans (refused ..), (act_of_alive _ ha).trans (refused ..), free,
    (act_of_alive _ ha).trans (refused ..), (act_of_alive _ ha).trans (refused ..)⟩

/-! ## The clause that fails -/

/-- A closed take of recorder 0. -/
def closedTake (no : Nat) : CapTake :=
  { no := no, rcd := 0, blocks := 1, closed := true, trig := 0, pre := 0, preCfg := 0, postCfg := 0, vintage := 0, tq := 0 }

/-- The module in STARTING after reset, HP0 a valid partition with the right to recorder 0, whose takes stand in falling order of their slots:
the take of slot 1 hides that of slot 0 from a lookup. -/
def fallingReel : State :=
  { State.reset with
    cfg := { active := { sects := [⟨secPARTITION, [[0x80000000#32]]⟩, ⟨secCAP_REC, [[0x81000000#32]]⟩] } }
    cap := { takes := [(1, closedTake 1), (0, closedTake 2)] } }

/-- Slot 1 is freed, and the take of slot 0, which no lookup found before, is found. -/
theorem capFreeTake_uncovers_hidden_take :
    exec (.capFreeTake 0 1 0xCA57) fallingReel = .next (freeTake 1 fallingReel) ∧
      takeOf fallingReel 0 = none ∧ takeOf (freeTake 1 fallingReel) 0 = some (closedTake 2) :=
  ⟨exec_capFreeTake (x := closedTake 1) (by decide) (by decide) rfl (by decide) rfl (by decide), rfl, rfl⟩

/-- Refutes O36: freeing take slot 1 of `fallingReel` changes what a lookup of slot 0 finds, since the statement takes reels in any order.
Every clause holds on rising reels: `capFreeTake_removes_one` and the lemmas around it. -/
theorem not_captureControlActsOnOneRecorder : ¬ Obligations.CaptureControlActsOnOneRecorder := by
  intro h
  obtain ⟨-, -, hfree, -⟩ := h
  obtain ⟨t, ht, -, hkeep⟩ := hfree fallingReel 0 1 (closedTake 1) (by decide) (by decide) rfl (by decide) rfl (by decide)
  obtain ⟨hexec, hbefore, hafter⟩ := capFreeTake_uncovers_hidden_take
  obtain rfl : t = freeTake 1 fallingReel := by simpa [ht] using hexec
  have := hkeep 0 (by decide)
  simp [hbefore, hafter] at this

end Sys2Proof.Machine

/-!
Interchange metering (chapter 11): CYCLE_CLOSE and the places of a point's cycles (R297), billing records (R315 to R317), pulse outputs (R308), and
MTR_SNAP and MTR_RELEASE (R302, R317).
-/
namespace Sys2Proof.Machine

/-! ## The MTR block under the shared operations -/

theorem mtrOf_congr {s t : State} (h : t.mtr.pts = s.mtr.pts) (p : Nat) : mtrOf t p = mtrOf s p := by
  rw [mtrOf, h, mtrOf]

theorem mtrOf_modMtr (p q : Nat) (f : MtrPt → MtrPt) (s : State) :
    mtrOf (modMtr p f s) q = if q = p then f (mtrOf s p) else mtrOf s q := by
  simp only [mtrOf, modMtr_mtr, fgetD_fmod]

@[simp] theorem mtrOf_modMtr_self (p : Nat) (f : MtrPt → MtrPt) (s : State) : mtrOf (modMtr p f s) p = f (mtrOf s p) := by
  rw [mtrOf_modMtr, if_pos rfl]

theorem poOf_modPo (k j : Nat) (f : Po → Po) (s : State) : poOf (modPo k f s) j = if j = k then f (poOf s k) else poOf s j := by
  simp only [poOf, modPo_mtr, fgetD_fmod]

@[simp] theorem mtrFlag_mtr (b : Nat) (s : State) : (mtrFlag b s).mtr = s.mtr := setFlag_mtr ..
@[simp] theorem mtrCount_mtr (k : Nat) (s : State) : (mtrCount k s).mtr = s.mtr := count_mtr ..
@[simp] theorem mtrCommit_mtr (p : Nat) (s : State) : (mtrCommit p s).mtr = s.mtr :=
  (kept_mtrCommit (Nat.and_self _) (Kept.refl s)).fr.mtr rfl
theorem energyU_mtr (e : Nat) (s : State) : (energyU e s).2.mtr = s.mtr :=
  (kept_energyU (Nat.and_self _) (Kept.refl s)).snd.fr.mtr rfl
@[simp] theorem placeBill_mtr (b : BillBody) (s : State) : (placeBill b s).mtr = s.mtr :=
  (kept_placeBill (Nat.and_self _) (Kept.refl s)).fr.mtr rfl
theorem mkBill_cfg (typ p flags ts ts2 : Nat) (body : List Byte) (s : State) : (mkBill typ p flags ts ts2 body s).2.cfg = s.cfg :=
  (kept_mkBill (Nat.and_self _) (Kept.refl s)).snd.fr.cfg rfl
@[simp] theorem registerCycle_cfg (im : Image) (p lo hi t0 tEnd : Nat) (s : State) : (registerCycle im p lo hi t0 tEnd s).cfg = s.cfg :=
  (kept_registerCycle (Nat.and_self _) (Kept.refl s)).fr.cfg rfl
@[simp] theorem supplyRestore_cfg (p t0 : Nat) (s : State) : (supplyRestore p t0 s).cfg = s.cfg :=
  (kept_supplyRestore (Nat.and_self _) (Kept.refl s)).fr.cfg rfl
@[simp] theorem intervalBill_cfg (p ns : Nat) (s : State) : (intervalBill p ns s).cfg = s.cfg :=
  (kept_intervalBill (Nat.and_self _) (Kept.refl s)).fr.cfg rfl

/-! ## What metering and billing leave of the cycles of the points -/

/-- Every point keeps its next cycle and its old entry, and the latest cycle end stays. -/
structure KeepsCycles (s t : State) : Prop where
  next : ∀ p, (mtrOf t p).next = (mtrOf s p).next
  old : ∀ p, (mtrOf t p).old = (mtrOf s p).old
  lastEnd : t.mtr.lastEnd = s.mtr.lastEnd

theorem KeepsCycles.of_pts {s t : State} (h : t.mtr.pts = s.mtr.pts) (he : t.mtr.lastEnd = s.mtr.lastEnd) : KeepsCycles s t :=
  ⟨fun p => by rw [mtrOf_congr h], fun p => by rw [mtrOf_congr h], he⟩

theorem KeepsCycles.of_mtr {s t : State} (h : t.mtr = s.mtr) : KeepsCycles s t := .of_pts (by rw [h]) (by rw [h])

theorem KeepsCycles.refl (s : State) : KeepsCycles s s := .of_mtr rfl

theorem KeepsCycles.trans {s t u : State} (h : KeepsCycles s t) (k : KeepsCycles t u) : KeepsCycles s u :=
  ⟨fun p => (k.next p).trans (h.next p), fun p => (k.old p).trans (h.old p), k.lastEnd.trans h.lastEnd⟩

theorem KeepsCycles.foldl {α : Type} {f : State → α → State} (hf : ∀ s a, KeepsCycles s (f s a)) (l : List α) (s : State) :
    KeepsCycles s (l.foldl f s) := by
  induction l generalizing s with
  | nil => exact .refl s
  | cons a l ih => exact (hf s a).trans (ih _)

theorem KeepsCycles.foldl_snd {α β : Type} {f : β × State → α → β × State} (hf : ∀ p a, KeepsCycles p.2 (f p a).2) (l : List α)
    (p : β × State) : KeepsCycles p.2 (l.foldl f p).2 := by
  induction l generalizing p with
  | nil => exact .refl p.2
  | cons a l ih => exact (hf p a).trans (ih _)

theorem keepsCycles_modMtr (p : Nat) {f : MtrPt → MtrPt} (s : State) (hn : ∀ q, (f q).next = q.next := by exact fun _ => rfl)
    (ho : ∀ q, (f q).old = q.old := by exact fun _ => rfl) : KeepsCycles s (modMtr p f s) where
  next q := by
    rw [mtrOf_modMtr]
    split
    next h => rw [hn, h]
    next => rfl
  old q := by
    rw [mtrOf_modMtr]
    split
    next h => rw [ho, h]
    next => rfl
  lastEnd := rfl

theorem keepsCycles_mkBill (typ p flags ts ts2 : Nat) (body : List Byte) (s : State) :
    KeepsCycles s (mkBill typ p flags ts ts2 body s).2 := by
  unfold mkBill
  dsimp only
  split
  · exact keepsCycles_modMtr p s
  · exact .refl s

theorem keepsCycles_intervalBill (p ns : Nat) (s : State) : KeepsCycles s (intervalBill p ns s) := by
  unfold intervalBill
  extract_lets q fl body
  have hmk := keepsCycles_mkBill 0x0B01 p fl ns (q.ivStart.getD ns) body s
  split
  next b t ht =>
    rw [ht] at hmk
    have hsave : KeepsCycles t (saveBill b t) := .of_mtr rfl
    exact hmk.trans (hsave.trans (keepsCycles_modMtr p _))

theorem keepsCycles_poAdd (k u : Nat) (s : State) : KeepsCycles s (poAdd k u s) := by
  unfold poAdd
  extract_lets o q n bl d t
  have ht : KeepsCycles s t := .of_pts rfl rfl
  split
  · exact ht.trans (.of_pts (by simp) (by simp))
  · exact ht

/-- The two records of a supply loss leave the cycles (R306). -/
theorem keepsCycles_supplyRestore (p t0 : Nat) (s : State) : KeepsCycles s (supplyRestore p t0 s) := by
  unfold supplyRestore
  split
  · exact .refl s
  next b rest _ =>
    extract_lets n0 nv t seq
    have hloss : KeepsCycles s t := .of_mtr (placeBill_mtr ..)
    have hmk := keepsCycles_mkBill 0x0B03 p 0 t0 b.ts (totBytes (mtrOf t p).regs) t
    split
    next r u hu =>
      rw [hu] at hmk
      extract_lets v
      have hrestore : KeepsCycles u v := .trans (.of_mtr (placeBill_mtr ..)) (keepsCycles_modMtr p (placeBill r u))
      exact hloss.trans (hmk.trans (hrestore.trans (.of_mtr (by simp))))

/-- A cycle that is registered moves the latest cycle end alone, and never back. -/
theorem registerCycle_eq (im : Image) (p lo hi t0 tEnd : Nat) (s : State) :
    ∃ u, KeepsCycles s u ∧ registerCycle im p lo hi t0 tEnd s = { u with mtr := { u.mtr with lastEnd := max u.mtr.lastEnd tEnd } } := by
  unfold registerCycle
  extract_lets fs c es
  split
  next us s1 hfold =>
    have henergy : KeepsCycles s s1 := by
      suffices h : KeepsCycles (([] : List (Nat × Nat)), s).2 (us, s1).2 from h
      rw [← hfold]
      refine .foldl_snd (fun a re => ?_) _ _
      exact .of_mtr (energyU_mtr re.2 a.2)
    extract_lets s2 s3 s4 s5 s6
    have hregs : KeepsCycles s1 s2 := keepsCycles_modMtr p s1
    have hgap : KeepsCycles s2 s3 := .of_mtr (by simp only [s3]; split <;> simp)
    have htest : KeepsCycles s3 s4 := .of_mtr (by simp only [s4]; split <;> simp)
    have hpulses : KeepsCycles s4 s5 := .foldl (fun t k => keepsCycles_poAdd k _ t) _ _
    have hcommit : KeepsCycles s5 s6 := .of_mtr (by simp [s6])
    exact ⟨s6, henergy.trans (hregs.trans (hgap.trans (htest.trans (hpulses.trans hcommit)))), rfl⟩

/-! ## CYCLE_CLOSE (R297) -/

/-- Cycle `y` of point `p` is registered and committed, the cycle after it is the next, and the records that are due with it are saved. -/
def cycleClosed (p y : Nat) (s : State) : State :=
  let im := ptIm s p y
  let n := cycLen im s p
  let t0 := cycNs s y
  let t1 := cycNs s (y + 1)
  let s := registerCycle im p (max (mtrOf s p).from_ (y * n)) ((y + 1) * n - 1) t0 t1 s
  let s := supplyRestore p t0 (modMtr p (fun q => { q with next := some (y + 1), from_ := 0 }) s)
  if (y + 1) % f0 s = 0 ∧ intervalEnd im s p ((y + 1) / f0 s) then intervalBill p t1 s else s

theorem closeNext_of_final {s : State} {p y : Nat} (hn : (mtrOf s p).next = some y)
    (hf : mtrFinal (ptIm s p y) s p ((y + 1) * cycLen (ptIm s p y) s p - 1) = true) :
    closeNext p s = if (mtrOf (cycleClosed p y s) p).old.any (fun o => decide (o.stop ≤ y + 1)) = true then mtrSwitch p (cycleClosed p y s)
      else cycleClosed p y s := by
  unfold closeNext
  rw [hn]
  dsimp only
  rw [if_pos hf]
  rfl

theorem closeNext_of_not_final {s : State} {p y : Nat} (hn : (mtrOf s p).next = some y)
    (hf : mtrFinal (ptIm s p y) s p ((y + 1) * cycLen (ptIm s p y) s p - 1) = false) : closeNext p s = s := by
  unfold closeNext
  rw [hn]
  dsimp only
  rw [hf]
  rfl

/-- A cycle that has closed: the next is the one after it, the old entry stands as before, and its end is the latest if none was later. -/
theorem cycleClosed_spec (p y : Nat) (s : State) :
    (mtrOf (cycleClosed p y s) p).next = some (y + 1) ∧ (mtrOf (cycleClosed p y s) p).old = (mtrOf s p).old ∧
      (cycleClosed p y s).mtr.lastEnd = max s.mtr.lastEnd (cycNs s (y + 1)) ∧ (cycleClosed p y s).cfg = s.cfg := by
  unfold cycleClosed
  extract_lets im n t0 t1 s1 s2
  obtain ⟨u, hu, h1⟩ : ∃ u, KeepsCycles s u ∧ s1 = { u with mtr := { u.mtr with lastEnd := max u.mtr.lastEnd t1 } } := registerCycle_eq ..
  have hold : (mtrOf s1 p).old = (mtrOf s p).old := by rw [h1]; exact hu.old p
  have hend : s1.mtr.lastEnd = max s.mtr.lastEnd t1 := by rw [h1, ← hu.lastEnd]
  have h2 : KeepsCycles (modMtr p (fun q => { q with next := some (y + 1), from_ := 0 }) s1) s2 := keepsCycles_supplyRestore ..
  have hcfg : s2.cfg = s.cfg := by simp [s1, s2]
  split
  · have h3 := h2.trans (keepsCycles_intervalBill p t1 s2)
    exact ⟨by simp [h3.next], by simp [h3.old, hold], h3.lastEnd.trans hend, by simp [hcfg]⟩
  · exact ⟨by simp [h2.next], by simp [h2.old, hold], h2.lastEnd.trans hend, hcfg⟩

/-- An old entry whose last cycle has closed is gone, and its point goes on under the entry in force, if it has one (Table 11-3). -/
theorem mtrSwitch_spec {p : Nat} {s : State} {o : MtrOld} (h : (mtrOf s p).old = some o) :
    (mtrOf (mtrSwitch p s) p).next = (if ptValid s.cfg.active p = true then some o.stop else none) ∧
      (mtrOf (mtrSwitch p s) p).old = none ∧ (mtrSwitch p s).mtr.lastEnd = s.mtr.lastEnd := by
  unfold mtrSwitch
  rw [h]
  dsimp only
  refine ⟨?_, ?_, (keepsCycles_mkBill ..).lastEnd⟩
  · rw [mtrOf_modMtr_self, mkBill_cfg]
  · rw [mtrOf_modMtr_self]

theorem exec_cycleClose {s : State} {p : Nat} (ha : alive s = true)
    (hp : ptValid s.cfg.active p = true ∨ (mtrOf s p).old.isSome = true) (ht : hasTime s = true) :
    exec (.cycleClose p) s = .next (closeNext p s) := by
  have hon : ((ptValid s.cfg.active p || (mtrOf s p).old.isSome) && hasTime s) = true := by simpa [ht] using hp
  change execCycleClose p s = _
  rw [execCycleClose, act_of_alive _ ha, if_pos hon]

/-- A final cycle closes: the place that the point takes is the next cycle, or the first of the entry in force after the old entry's last. -/
theorem cycleClose_closes {s : State} {p y : Nat} (ha : alive s = true)
    (hp : ptValid s.cfg.active p = true ∨ (mtrOf s p).old.isSome = true) (ht : hasTime s = true) (hn : (mtrOf s p).next = some y)
    (hf : mtrFinal (ptIm s p y) s p ((y + 1) * cycLen (ptIm s p y) s p - 1) = true) :
    ∃ t, exec (.cycleClose p) s = .next t ∧ t.mtr.lastEnd = max s.mtr.lastEnd (cycNs s (y + 1)) ∧
      ((mtrOf s p).old = none → (mtrOf t p).next = some (y + 1) ∧ (mtrOf t p).old = none) ∧
      (∀ o, (mtrOf s p).old = some o → y + 1 < o.stop → (mtrOf t p).next = some (y + 1) ∧ (mtrOf t p).old = some o) ∧
      (∀ o, (mtrOf s p).old = some o → o.stop ≤ y + 1 →
        (mtrOf t p).next = (if ptValid s.cfg.active p = true then some o.stop else none) ∧ (mtrOf t p).old = none) := by
  obtain ⟨hnext, hold, hend, hcfg⟩ := cycleClosed_spec p y s
  refine ⟨_, (exec_cycleClose ha hp ht).trans (congrArg _ (closeNext_of_final hn hf)), ?_⟩
  rw [hold]
  cases ho : (mtrOf s p).old with
  | none => simp [hnext, hold, hend, ho]
  | some o =>
    by_cases hstop : o.stop ≤ y + 1
    · obtain ⟨hnext', hold', hend'⟩ := mtrSwitch_spec (hold.trans ho)
      simp [hstop, hnext', hold', hend', hend, hcfg]
    · have hlt : y + 1 < o.stop := Nat.not_le.mp hstop
      simp [hstop, hlt, hnext, hold, hend, ho]

theorem cycleClose_waits {s : State} {p y : Nat} (ha : alive s = true) (hn : (mtrOf s p).next = some y)
    (hf : mtrFinal (ptIm s p y) s p ((y + 1) * cycLen (ptIm s p y) s p - 1) = false) : exec (.cycleClose p) s = .next s := by
  change execCycleClose p s = _
  rw [execCycleClose, act_of_alive _ ha, closeNext_of_not_final hn hf, ite_self]

/-! ## BILLING_RECORD_SIGN (R315 to R317) -/

@[simp] theorem harvest_nv (on : Nat → Bool) (typ : Nat) (g : Option Nat) (b : List Byte) (c : Option (Nat × Nat)) (s : State) :
    (harvest on typ g b c s).nv = s.nv :=
  (kept_harvest (Nat.and_self _) (Kept.refl s)).fr.nv rfl

@[simp] theorem logFull_nv (s : State) : (logFull s).nv = s.nv := (kept_logFull (Nat.and_self _) (Kept.refl s)).fr.nv rfl

theorem loseBill_nv (s : State) : (loseBill s).nv = { s.nv with lost := s.nv.lost + 1 } := by
  rw [loseBill, logFull_nv, mtrCount, count_nv]

/-- A record that is written stands in the log under the next BILL_SEQ. -/
theorem writeBill_nv (kept : Bool) (b : BillBody) (s : State) :
    (writeBill kept b s).nv = { s.nv with
      log := fset s.nv.log (s.nv.billSeq + 1) { kept := kept, raw := billBytes s (s.nv.billSeq + 1) b }
      billSeq := s.nv.billSeq + 1, lost := 0
      billHash := sha3_256 ((billBytes s (s.nv.billSeq + 1) b).take 0xA74)
      idNew := s.nv.idNew && !(b.typ == 0x0B01 && meterKeyOk s) } := by
  unfold writeBill
  dsimp only
  rw [harvest_nv]
  split <;> simp

/-- What becomes of a body (R317): it is logged, it is lost, or it is pending behind the others. -/
theorem placeBill_cases (b : BillBody) (s : State) :
    (∃ k, placeBill b s = writeBill k b s) ∨ placeBill b s = loseBill s ∨
      placeBill b s = logFull { s with nv := { s.nv with pend := s.nv.pend ++ [b] } } := by
  unfold placeBill
  split
  · split
    · exact .inl ⟨_, rfl⟩
    · exact .inr (.inl rfl)
  · split
    · split
      · exact .inl ⟨_, rfl⟩
      · split
        · exact .inr (.inr rfl)
        · exact .inr (.inl rfl)
    · split
      · exact .inr (.inr rfl)
      · exact .inr (.inl rfl)

theorem placeBill_bodies (b : BillBody) (s : State) : (placeBill b s).nv.bodies = s.nv.bodies := by
  obtain ⟨k, h⟩ | h | h := placeBill_cases b s <;> simp [h, writeBill_nv, loseBill_nv]

theorem le_billSeq_placeBill (b : BillBody) (s : State) : s.nv.billSeq ≤ (placeBill b s).nv.billSeq :=
  (kept_placeBill (Nat.and_self _) (Kept.refl s)).bill

/-- With nothing pending and room, a record of any type takes an ordinary entry. -/
theorem placeBill_of_room {s : State} (b : BillBody) (hp : s.nv.pend = []) (hr : ordinaryUsed s < 6080) :
    placeBill b s = writeBill false b s := by
  simp [placeBill, specialEntry, hp, hr]

/-- The oldest body has left the cellar. -/
def cellarWithout (rest : List BillBody) (s : State) : State := { s with nv := { s.nv with bodies := rest } }

theorem exec_billingRecordSign {s : State} {b : BillBody} {rest : List BillBody} (ha : alive s = true) (hb : s.nv.bodies = b :: rest) :
    exec .billingRecordSign s = .next (placeBill b (cellarWithout rest s)) := by
  change execBillingRecordSign s = _
  rw [execBillingRecordSign, act_of_alive _ ha]
  simp only [hb]
  rfl

theorem billingRecordSign_takes_oldest {s : State} {b : BillBody} {rest : List BillBody} (ha : alive s = true)
    (hb : s.nv.bodies = b :: rest) :
    ∃ t, exec .billingRecordSign s = .next t ∧ t.nv.bodies = rest ∧ s.nv.billSeq ≤ t.nv.billSeq ∧
      (s.nv.pend = [] → ordinaryUsed s < 6080 → t.nv.billSeq = s.nv.billSeq + 1 ∧
        ∃ e, fget? t.nv.log (s.nv.billSeq + 1) = some e ∧ e.kept = false) := by
  refine ⟨_, exec_billingRecordSign ha hb, placeBill_bodies .., le_billSeq_placeBill b (cellarWithout rest s), fun hp hr => ?_⟩
  rw [placeBill_of_room b (by exact hp) (by exact hr), writeBill_nv]
  exact ⟨rfl, _, (fget_fset ..).trans (if_pos rfl), rfl⟩

/-! ## PULSE_OUTPUT_STEP (R308) -/

/-- A pulse of an output starts at `ns`. -/
def pulseStarted (ns : Nat) (o : Po) : Po :=
  { o with backlog := o.backlog - 1, emitted := (o.emitted + 1) % 2 ^ 32, start := some ns, due := ns + o.delta
           spill := o.spill && decide (1024 ≤ o.backlog - 1) }

theorem exec_pulseOutputStep_due {s : State} {k ns : Nat} (ha : alive s = true) (hv : imBit s.cfg.active secMTR_PULSE k 0 31 = true)
    (hb : 0 < (poOf s k).backlog) (hd : 0 < (poOf s k).delta) (hn : (poOf s k).due ≤ ns) :
    exec (.pulseOutputStep k ns) s = .next (seen ns (modPo k (pulseStarted ns) s)) := by
  change execPulseOutputStep k ns s = _
  rw [execPulseOutputStep, act_of_alive _ ha, hv]
  simp only [hb, hd, hn, and_self, decide_true, Bool.and_true, if_true]
  rfl

theorem poOf_pulse (k j ns : Nat) (s : State) :
    poOf (seen ns (modPo k (pulseStarted ns) s)) j = if j = k then pulseStarted ns (poOf s k) else poOf s j :=
  poOf_modPo ..

theorem pulseOutputStep_emits {s : State} {k ns : Nat} (ha : alive s = true) (hv : imBit s.cfg.active secMTR_PULSE k 0 31 = true)
    (hb : 0 < (poOf s k).backlog) (hd : 0 < (poOf s k).delta) (hn : (poOf s k).due ≤ ns) :
    ∃ t, exec (.pulseOutputStep k ns) s = .next t ∧ (poOf t k).backlog = (poOf s k).backlog - 1 ∧
      (poOf t k).emitted = ((poOf s k).emitted + 1) % 2 ^ 32 ∧ (poOf t k).start = some ns ∧ (poOf t k).due = ns + (poOf s k).delta ∧
      ∀ j, j ≠ k → poOf t j = poOf s j := by
  refine ⟨_, exec_pulseOutputStep_due ha hv hb hd hn, ?_⟩
  rw [poOf_pulse, if_pos rfl]
  exact ⟨rfl, rfl, rfl, rfl, fun j hj => by rw [poOf_pulse, if_neg hj]⟩

theorem pulseOutputStep_waits {s : State} {k ns : Nat} (ha : alive s = true)
    (h : (poOf s k).backlog = 0 ∨ (poOf s k).delta = 0 ∨ ns < (poOf s k).due) : exec (.pulseOutputStep k ns) s = .next s := by
  have hnot : ¬ (0 < (poOf s k).backlog ∧ 0 < (poOf s k).delta ∧ (poOf s k).due ≤ ns) := by omega
  change execPulseOutputStep k ns s = _
  rw [execPulseOutputStep, act_of_alive _ ha]
  simp only [hnot, decide_false, Bool.and_false, Bool.false_eq_true, if_false]

/-! ## MTR_SNAP (R302) -/

/-- The registers of every point, register `r` of point `p` at index 8 `p` + `r`. -/
def pointRegs (s : State) : FMap MReg :=
  s.mtr.pts.flatMap (fun e => (e.2.regs.zip (List.range 7)).map (fun g => (e.1 * 8 + g.2, g.1)))

/-- Function `n` holds the registers of every point as it latched them. -/
def mtrLatched (n : Nat) (s : State) : State := modFn s n (fun f => { f with mtrLatch := pointRegs s })

/-- The state after MTR_SNAP of function `n`: the registers latched, and the end of the latest cycle shown. -/
def mtrSnapped (n : Nat) (s : State) : State :=
  setFnReg (setFnReg (setFnReg (mtrLatched n s) n (MTR + 0x10) (BitVec.ofNat 32 (s.mtr.lastEnd / 1000000000)))
    n (MTR + 0x14) (BitVec.ofNat 32 (s.mtr.lastEnd / 1000000000 / 2 ^ 32))) n (MTR + 0x18) (BitVec.ofNat 32 (s.mtr.lastEnd % 1000000000))

theorem exec_mtrSnap {s : State} {n : Nat} (ha : alive s = true) (hv : validFn s n = true) :
    exec (.mtrSnap n) s = .next (mtrSnapped n s) := by
  change execMtrSnap n s = _
  rw [execMtrSnap, act_of_alive _ ha, hv]
  rfl

theorem mtrLatch_setFnReg (s : State) (n off : Nat) (v : Word) (m : Nat) : (fnOf (setFnReg s n off v) m).mtrLatch = (fnOf s m).mtrLatch :=
  fnOf_congr _ (map_modify_same (F := fun f : Fn => { f with regs := fset f.regs off v }) fun _ => rfl) m

theorem mtrLatch_mtrSnapped {s : State} {n : Nat} (hn : n < s.hp.length) :
    (fnOf (mtrSnapped n s) n).mtrLatch = pointRegs s := by
  simp only [mtrSnapped, mtrLatch_setFnReg]
  rw [mtrLatched, fnOf_modFn _ _ _ _ hn, if_pos rfl]

/-- The three registers that MTR_SNAP sets in its function, and every other register as before. -/
theorem fnReg_mtrSnapped {s : State} {n : Nat} (hn : n < s.hp.length) (m r : Nat) :
    fnReg (mtrSnapped n s) m r =
      if m = n ∧ r = MTR + 0x18 then BitVec.ofNat 32 (s.mtr.lastEnd % 1000000000)
      else if m = n ∧ r = MTR + 0x14 then BitVec.ofNat 32 (s.mtr.lastEnd / 1000000000 / 2 ^ 32)
      else if m = n ∧ r = MTR + 0x10 then BitVec.ofNat 32 (s.mtr.lastEnd / 1000000000)
      else fnReg s m r := by
  have hn : n < (mtrLatched n s).hp.length := by simpa [mtrLatched, modFn] using hn
  have hlatch : fnReg (mtrLatched n s) m r = fnReg s m r := fnReg_modFn_of_regs _ _ _ _ _ fun _ => rfl
  rw [mtrSnapped, fnReg_setFnReg _ _ _ _ _ _ (by simpa using hn), fnReg_setFnReg _ _ _ _ _ _ (by simpa using hn),
    fnReg_setFnReg _ _ _ _ _ _ hn, hlatch]

theorem mtrSnap_latches {s : State} {n : Nat} (hl : s.hp.length = 4) (ha : alive s = true) (hv : validFn s n = true) :
    ∃ t, exec (.mtrSnap n) s = .next t ∧ (fnOf t n).mtrLatch = pointRegs s ∧
      fnReg t n (MTR + 0x10) = BitVec.ofNat 32 (s.mtr.lastEnd / 1000000000) ∧
      fnReg t n (MTR + 0x18) = BitVec.ofNat 32 (s.mtr.lastEnd % 1000000000) ∧ ∀ m r, m ≠ n → fnReg t m r = fnReg s m r := by
  have hn := lt_length_of_validFn hl hv
  refine ⟨_, exec_mtrSnap ha hv, mtrLatch_mtrSnapped hn, ?_, ?_, fun m r hm => ?_⟩
  · simp [fnReg_mtrSnapped hn]
  · simp [fnReg_mtrSnapped hn]
  · simp [fnReg_mtrSnapped hn, hm]

/-! ## MTR_RELEASE (R317) -/

theorem validFn_of_mtrAdmin {s : State} {n : Nat} (h : mtrAdmin s n = true) : validFn s n = true :=
  (Bool.and_eq_true_iff.mp h).1

theorem drainPend_of_no_pend (k : Nat) {s : State} (h : s.nv.pend = []) : drainPend k s = s := by
  cases k with
  | zero => rfl
  | succ k =>
    unfold drainPend
    rw [h]

/-- The records up to MTR_REL are freed. -/
def logReleased (s : State) : State :=
  { s with nv := { s.nv with log := s.nv.log.filter (fun e => decide (s.mtr.rel < e.1)) } }

theorem exec_mtrRelease_admin {s : State} {n : Nat} (ha : alive s = true) (hm : mtrAdmin s n = true) :
    exec (.mtrRelease n 0x4D7E) s = .next (drainPend 64 (logReleased s)) := by
  change execMtrRelease n 0x4D7E s = _
  rw [execMtrRelease, act_of_alive _ ha, validFn_of_mtrAdmin hm, hm]
  rfl

theorem exec_mtrRelease_wrong_key {s : State} {n key : Nat} (ha : alive s = true) (hv : validFn s n = true) (hk : key ≠ 0x4D7E) :
    exec (.mtrRelease n key) s = .next (mtrRefuse n 1 s) := by
  change execMtrRelease n key s = _
  rw [execMtrRelease, act_of_alive _ ha, hv, if_neg (by simp), if_pos hk]

theorem mtrRelease_frees {s : State} {n : Nat} (ha : alive s = true) (hm : mtrAdmin s n = true) (hp : s.nv.pend = []) :
    ∃ t, exec (.mtrRelease n 0x4D7E) s = .next t ∧ t.nv.log = s.nv.log.filter (fun e => decide (s.mtr.rel < e.1)) ∧
      t.nv.billSeq = s.nv.billSeq := by
  refine ⟨_, exec_mtrRelease_admin ha hm, ?_⟩
  rw [drainPend_of_no_pend 64 (by exact hp)]
  exact ⟨rfl, rfl⟩

/-- Settles O38: cycles that close in order, saved records signed in order, pulses, the latch, and the log freed up to MTR_REL. -/
theorem meteringCyclesAndRecords : Obligations.MeteringCyclesAndRecords :=
  ⟨fun _ _ _ _ ha hp ht hn him hf => by
     subst him
     exact cycleClose_closes ha hp ht hn hf,
   fun _ _ _ ha hn hf => cycleClose_waits ha hn hf,
   fun _ _ _ ha hb => billingRecordSign_takes_oldest ha hb,
   fun _ _ _ ha hv hb hd hn => pulseOutputStep_emits ha hv hb hd hn,
   fun _ _ _ ha h => pulseOutputStep_waits ha h,
   fun _ _ hl ha hv => mtrSnap_latches hl ha hv,
   fun _ _ ha hm hp => mtrRelease_frees ha hm hp,
   fun _ _ _ ha hv hk => exec_mtrRelease_wrong_key ha hv hk⟩

end Sys2Proof.Machine

/-!
Publication and outputs (chapter 12): output frames that are due (R324, R329, R331 to R333), commands to output streams (R330, Table 12-5), TCP
clients (R331), repeats of GOOSE messages (R334, R335) and hardwired outputs (R337, R338).
-/
namespace Sys2Proof.Machine

/-! ## What shared operations leave of the PUB block -/

@[simp] theorem enqueueMask_pub (mask : Nat) (body : TxBody) (len : Nat) (due : Option Nat) (s : State) :
    (enqueueMask mask body len due s).pub = s.pub :=
  (kept_enqueueMask (Nat.and_self _) (Kept.refl s)).fr.pub rfl
@[simp] theorem enqueueMask_nv (mask : Nat) (body : TxBody) (len : Nat) (due : Option Nat) (s : State) :
    (enqueueMask mask body len due s).nv = s.nv :=
  (kept_enqueueMask (Nat.and_self _) (Kept.refl s)).fr.nv rfl
@[simp] theorem toClient_pub (n no t : Nat) (bytes : List Byte) (due : Option Nat) (full : Bool) (c : TcpClient) (s : State) :
    (toClient n no t bytes due full c s).pub = s.pub :=
  (kept_toClient (Nat.and_self _) (Kept.refl s)).fr.pub rfl
@[simp] theorem frameRebuild_pub (gs : List Nat) (res : Nat) (s : State) : (frameRebuild gs res s).pub = s.pub :=
  (kept_frameRebuild (Nat.and_self _) (Kept.refl s)).fr.pub rfl
@[simp] theorem readerCheck_pub (g i res : Nat) (s : State) : (readerCheck g i res s).pub = s.pub :=
  (kept_readerCheck (Nat.and_self _) (Kept.refl s)).fr.pub rfl
theorem macSign_pub (k : Nat) (bs : List Byte) (s : State) : (macSign k bs s).1.pub = s.pub :=
  (kept_macSign (Nat.and_self _) (Kept.refl s)).fst.fr.pub rfl
/-- Signing a message, where it is asked for, leaves the PUB block. -/
theorem pub_of_signed {c : Bool} {k : Nat} {bs : List Byte} {s v : State} {sig : Option (List Byte)}
    (h : (if c then macSign k bs s else (s, some [])) = (v, sig)) : v.pub = s.pub := by
  split at h
  · exact (congrArg (·.1.pub) h).symm.trans (macSign_pub ..)
  · cases h; rfl
@[simp] theorem withhold_pub (s : State) : (withhold s).pub = s.pub := flagCount_pub ..

/-! ## Output streams, publications and DOs under their updates -/

theorem osOf_congr {s t : State} (h : t.pub.os = s.pub.os) (n : Nat) : osOf t n = osOf s n := by
  rw [osOf, h, osOf]

@[simp] theorem osOf_raise (code : Nat) (o : EvObj) (arg : List Byte) (s : State) (n : Nat) : osOf (raise code o arg s) n = osOf s n :=
  osOf_congr (by rw [raise_pub]) n

theorem osOf_modOs (n m : Nat) (f : OutStream → OutStream) (s : State) :
    osOf (modOs n f s) m = if m = n then f (osOf s n) else osOf s m := by
  simp only [osOf, modOs_pub, fgetD_fmod]

@[simp] theorem osOf_modOs_self (n : Nat) (f : OutStream → OutStream) (s : State) : osOf (modOs n f s) n = f (osOf s n) := by
  rw [osOf_modOs, if_pos rfl]

theorem osOf_modOs_of_ne {n m : Nat} (h : m ≠ n) (f : OutStream → OutStream) (s : State) : osOf (modOs n f s) m = osOf s m := by
  rw [osOf_modOs, if_neg h]

theorem gpOf_congr {s t : State} (h : t.pub.gps = s.pub.gps) (n : Nat) : gpOf t n = gpOf s n := by
  rw [gpOf, h, gpOf]

@[simp] theorem gpOf_modGp_self (n : Nat) (f : Goose → Goose) (s : State) : gpOf (modGp n f s) n = f (gpOf s n) := by
  simp only [gpOf, modGp_pub, fgetD_fmod_self]

theorem doOf_congr {s t : State} (h : t.pub.dos = s.pub.dos) (n : Nat) : doOf t n = doOf s n := by
  rw [doOf, h, doOf]

theorem doOf_modDo (n m : Nat) (f : Do → Do) (s : State) : doOf (modDo n f s) m = if m = n then f (doOf s n) else doOf s m := by
  simp only [doOf, modDo_pub, fgetD_fmod]

/-! ## Frames on their way out (R91, R331) -/

/-- Frames queued from a state with the same ports and image are queued from this one. -/
theorem sentOn_of_same {s s' t : State} {mask len : Nat} {B : TxBody → Prop} (he : s'.eth = s.eth) (hc : s'.cfg = s.cfg)
    (h : sentOn s' t mask len B) : sentOn s t mask len B := by
  intro k hk hmask hunpaired hup hlen
  rw [← hc] at hunpaired
  rw [← portOf_congr he] at hup
  obtain ⟨f, hf, hB⟩ := h k hk hmask hunpaired hup (by rwa [maxLen, portCfg, hc])
  rw [queuedAt, portOf_congr he] at hf
  exact ⟨f, hf, hB⟩

theorem sentOn_mono {s t : State} {mask len : Nat} {B C : TxBody → Prop} (hBC : ∀ b, B b → C b) (h : sentOn s t mask len B) :
    sentOn s t mask len C := by
  intro k hk hmask hunpaired hup hlen
  obtain ⟨f, hf, hB⟩ := h k hk hmask hunpaired hup hlen
  exact ⟨f, hf, hBC _ hB⟩

theorem length_leBytes (k n : Nat) : (leBytes k n).length = k := by
  induction k generalizing n with
  | zero => rfl
  | succ k ih => simp [leBytes, ih]

@[simp] theorem length_beBytes (k n : Nat) : (beBytes k n).length = k := by
  rw [beBytes, List.length_reverse, length_leBytes]

/-- A C37.118.2 frame is 16 bytes longer than its body (R125). -/
@[simp] theorem length_c37Frame (s : State) (t id ns base : Nat) (body : List Byte) :
    (c37Frame s t id ns base body).length = 16 + body.length := by
  simp only [c37Frame, timeFields, List.length_append, length_beBytes, List.length_cons, List.length_nil]
  omega

/-- The next frame has taken its number. -/
def numbered (s : State) : State := (nextFrameNo s).2

theorem toClient_full {n no t : Nat} {bytes : List Byte} {due : Option Nat} {c : TcpClient} {s : State} :
    toClient n no t bytes due true c s = flagCount (PUB + 4) 4 (PUB + 0x314) s := rfl

theorem toClient_sentOn {n no t : Nat} {bytes : List Byte} {due : Option Nat} {c : TcpClient} {s : State} :
    sentOn s (toClient n no t bytes due false c s) (connMask s.cfg.active c.eport)
      (ipLen c.addr (osF s.cfg.active n 3 27 16) bytes.length true) (fun b => b = .out n no t bytes) :=
  enqueueMask_sentOn

/-! ## The frames that an output stream owes (R324) -/

theorem holds_of_takeFirst {α : Type} {p : α → Bool} {l rest : List α} {a : α} (h : takeFirst p l = some (a, rest)) : p a = true := by
  induction l generalizing rest with
  | nil => cases h
  | cons b l ih =>
    rw [takeFirst] at h
    split at h
    · cases h; assumption
    · split at h
      · cases h
      · next e => cases h; exact ih e

theorem os_of_takeFirst {n : Nat} {l rest : List FrameDue} {d : FrameDue} (h : takeFirst (fun d => d.os == n) l = some (d, rest)) :
    d.os = n :=
  beq_iff_eq.mp (holds_of_takeFirst (p := fun d : FrameDue => d.os == n) h)

/-- The frame is taken; `rest` is still due. -/
def dueTaken (rest : List FrameDue) (s : State) : State := { s with pub := { s.pub with due := rest } }

/-- The set and the frame of output stream `n` are checked (R164). -/
def frameChecked (n : Nat) (k : FrameCheck) (d : FrameDue) (s : State) : State :=
  frameRebuild [osGroup s.cfg.active n] k.frameRes
    (if osKind s.cfg.active n < 2 then readerCheck (osGroup s.cfg.active n) d.inst k.setRes s else s)

@[simp] theorem frameChecked_pub (n : Nat) (k : FrameCheck) (d : FrameDue) (s : State) : (frameChecked n k d s).pub = s.pub := by
  rw [frameChecked, frameRebuild_pub]
  split
  · exact readerCheck_pub ..
  · rfl

theorem frameRebuild_good (gs : List Nat) (s : State) : frameRebuild gs 0 s = s := rfl

theorem readerCheck_good (g i : Nat) (s : State) : readerCheck g i 0 s = s := by
  rw [readerCheck]
  split
  · rfl
  · exact if_pos (by simp [setRes])

theorem frameChecked_good {n : Nat} {k : FrameCheck} (d : FrameDue) (s : State) (hs : k.setRes = 0) (hf : k.frameRes = 0) :
    frameChecked n k d s = s := by
  rw [frameChecked, hs, hf, frameRebuild_good, readerCheck_good, ite_self]

section
variable {s : State} {n : Nat} {k : FrameCheck} {d : FrameDue} {rest : List FrameDue} (ha : alive s = true)
  (ht : takeFirst (fun d => d.os == n) s.pub.due = some (d, rest))
include ha ht

/-- A frame that no lower stream holds up is taken; what becomes of it depends on the stream, its authority and the checks. -/
theorem exec_outputFrameAssemble (hl : osKind s.cfg.active n = 3 ∨ lowerDue s d = false) :
    exec (.outputFrameAssemble n k) s = .next (
      if !osSends s n d.inst then dueTaken rest s
      else if osControl s.cfg.active n && !authority s then withhold (dueTaken rest s)
      else if 2 ≤ k.frameRes then frameChecked n k d (dueTaken rest s)
      else assemble d k.full (frameChecked n k d (dueTaken rest s))) := by
  have hlow : ¬ (osKind s.cfg.active n != 3 && lowerDue s d) = true := by
    rcases hl with h | h <;> simp [h]
  change execOutputFrameAssemble n k s = _
  rw [execOutputFrameAssemble, act_of_alive _ ha]
  simp only [ht]
  rw [if_neg hlow]
  rfl

theorem exec_outputFrameAssemble_waits (hk : osKind s.cfg.active n ≠ 3) (hl : lowerDue s d = true) :
    exec (.outputFrameAssemble n k) s = .next s := by
  change execOutputFrameAssemble n k s = _
  rw [execOutputFrameAssemble, act_of_alive _ ha]
  simp only [ht]
  rw [if_pos (by simp [hk, hl])]

/-- A frame with authority of a stream that sends is assembled, where nothing is found corrupt. -/
theorem exec_outputFrameAssemble_good (hl : osKind s.cfg.active n = 3 ∨ lowerDue s d = false)
    (hauth : osControl s.cfg.active n = false ∨ authority s = true) (hon : osSends s n d.inst = true) (hs : k.setRes = 0) (hf : k.frameRes = 0) :
    exec (.outputFrameAssemble n k) s = .next (assemble d k.full (dueTaken rest s)) := by
  have hheld : ¬ (osControl s.cfg.active n && !authority s) = true := by
    rcases hauth with h | h <;> simp [h]
  rw [exec_outputFrameAssemble ha ht hl, if_neg (by simp [hon]), if_neg hheld, if_neg (by omega), frameChecked_good d _ hs hf]

end

/-! ## What is sent (R331, R333) -/

theorem foldl_toClient_pub (n no t : Nat) (bytes : List Byte) (due : Option Nat) (full : List (Nat × Nat)) (l : List TcpClient) (s : State) :
    (l.foldl (fun s c => toClient n no t bytes due (full.contains (c.addr, c.port)) c s) s).pub = s.pub := by
  induction l generalizing s with
  | nil => rfl
  | cons c l ih => exact (ih _).trans (toClient_pub ..)

/-- Of the PUB block, a frame that is sent takes its number. -/
theorem sendOut_pub (n inst due : Nat) (bytes : List Byte) (full : List (Nat × Nat)) (s : State) :
    (sendOut n inst due bytes full s).pub = (numbered s).pub := by
  rw [sendOut]
  dsimp only
  split
  · exact foldl_toClient_pub ..
  · exact enqueueMask_pub ..

theorem sendOut_udp {n inst due : Nat} {bytes : List Byte} {full : List (Nat × Nat)} {s : State} (h : osTcp s.cfg.active n = false) :
    sentOn s (sendOut n inst due bytes full s) (osF s.cfg.active n 3 12 0)
      (ipLen (osDst s.cfg.active n) (osF s.cfg.active n 3 27 16) bytes.length false) (fun b => b = .out n s.pub.frameNo 0 bytes) := by
  have e : sendOut n inst due bytes full s = enqueueMask (osF s.cfg.active n 3 12 0) (.out n s.pub.frameNo 0 bytes)
      (ipLen (osDst s.cfg.active n) (osF s.cfg.active n 3 27 16) bytes.length false) (some due) (numbered s) := by
    rw [sendOut]
    exact if_neg (by simp [h])
  rw [e]
  exact sentOn_of_same (s' := numbered s) rfl rfl enqueueMask_sentOn

/-- To a TCP stream of which one client is on, a frame goes to that client. -/
theorem sendOut_client {n inst due : Nat} {bytes : List Byte} {full : List (Nat × Nat)} {c : TcpClient} {s : State}
    (h : osTcp s.cfg.active n = true) (hc : onClients s n inst = [c]) :
    sendOut n inst due bytes full s = toClient n s.pub.frameNo 0 bytes (some due) (full.contains (c.addr, c.port)) c (numbered s) := by
  have hc' : onClients (nextFrameNo s).2 n inst = [c] := hc
  rw [sendOut]
  dsimp only
  rw [if_pos h, hc']
  rfl

/-- The PDU of output stream `n` with dataset `body` under SPDU number `k` (R333). -/
def rsvPdu (s : State) (n : Nat) (k : Word) (body : List Byte) : List Byte :=
  beBytes 4 k.toNat ++ beBytes 4 (cellOf s (osF s.cfg.active n 10 31 23)).keyId ++ body

/-- The SPDU number of output stream `n` has risen. -/
def spduRaised (n : Nat) (s : State) : State := modOs n (fun r => { r with spdu := (osOf s n).spdu + 1#32 }) s

/-- Of the PUB block, an R-SV PDU raises its SPDU number, and takes a frame number where it is sent. -/
theorem sendRsv_pub (n due : Nat) (body : List Byte) (s : State) :
    (sendRsv n due body s).pub.due = s.pub.due ∧ osOf (sendRsv n due body s) n = { osOf s n with spdu := (osOf s n).spdu + 1#32 } := by
  suffices h : (sendRsv n due body s).pub.due = (spduRaised n s).pub.due ∧ (sendRsv n due body s).pub.os = (spduRaised n s).pub.os from
    ⟨h.1, (osOf_congr h.2 n).trans (osOf_modOs_self ..)⟩
  unfold sendRsv
  extract_lets im k u key pdu
  split
  next v sig hsig =>
    have hpub : v.pub = (spduRaised n s).pub := pub_of_signed hsig
    cases sig with
    | none => rw [hpub]; exact ⟨rfl, rfl⟩
    | some g =>
      simp only [nextFrameNo, enqueueMask_pub, hpub, and_self]

theorem sendRsv_unsigned {n due : Nat} {body : List Byte} {s : State} (h : imBit s.cfg.active secOUT_STREAM n 10 13 = false) :
    sentOn s (sendRsv n due body s) (osF s.cfg.active n 3 12 0)
      (ipLen (osDst s.cfg.active n) (osF s.cfg.active n 3 27 16) (8 + body.length) false)
      (fun b => b = .outRsv n s.pub.frameNo ((osOf s n).spdu + 1#32) (rsvPdu s n ((osOf s n).spdu + 1#32) body) []) := by
  have hlen : (rsvPdu s n ((osOf s n).spdu + 1#32) body).length = 8 + body.length := by
    simp only [rsvPdu, List.length_append, length_beBytes]
  have e : sendRsv n due body s = enqueueMask (osF s.cfg.active n 3 12 0)
      (.outRsv n s.pub.frameNo ((osOf s n).spdu + 1#32) (rsvPdu s n ((osOf s n).spdu + 1#32) body) [])
      (ipLen (osDst s.cfg.active n) (osF s.cfg.active n 3 27 16) (rsvPdu s n ((osOf s n).spdu + 1#32) body).length false)
      (some due) (numbered (spduRaised n s)) := by
    rw [sendRsv]
    simp only [h, Bool.false_eq_true, if_false]
    rfl
  rw [e, hlen]
  exact sentOn_of_same (s' := numbered (spduRaised n s)) rfl rfl enqueueMask_sentOn

/-! ## The frame that is assembled -/

/-- The body of the C37.118.2 frame that output stream `n` owes by `d`: a data frame of the sealed set, an alarm frame with the bits at the close,
or an early alarm with its one bit (R324, R332). -/
def OwedBody (s : State) (n : Nat) (d : FrameDue) (body : List Byte) : Prop :=
  (osKind s.cfg.active n = 0 ∧ ∃ x, setOf s (osGroup s.cfg.active n) d.inst = some x ∧ body = dataBody s n d.inst x) ∨
    (osKind s.cfg.active n = 2 ∧ body = alarmBody s n d.inst (closeBits s n d.held)) ∨
    (osKind s.cfg.active n = 3 ∧ body = alarmBody s n d.inst [d.bit])

/-- The frame of output stream `n` for `d` with this body. -/
def owedFrame (s : State) (n : Nat) (d : FrameDue) (body : List Byte) : List Byte :=
  c37Frame s 0 (osF s.cfg.active n 0 15 0) (gridNs s d.inst) (osF s.cfg.active n 4 23 0) body

theorem assemble_owed {s : State} {n : Nat} {d : FrameDue} {body : List Byte} (full : List (Nat × Nat)) (hn : d.os = n)
    (h : OwedBody s n d body) : assemble d full s = sendOut n d.inst d.due (owedFrame s n d body) full s := by
  subst hn
  rw [assemble]
  rcases h with ⟨hk, x, hx, rfl⟩ | ⟨hk, rfl⟩ | ⟨hk, rfl⟩
  · simp only [hk, hx]
    rfl
  · exact if_pos hk
  · rw [if_neg (by omega), if_pos hk]
    rfl

theorem assemble_rsv {s : State} {n : Nat} {d : FrameDue} {x : ASet} (full : List (Nat × Nat)) (hn : d.os = n)
    (hk : osKind s.cfg.active n = 1) (hx : setOf s (osGroup s.cfg.active n) d.inst = some x) :
    assemble d full s = sendRsv n d.due (rsvBody s n d.inst x) s := by
  subst hn
  rw [assemble]
  simp only [hk, hx]
  rfl

theorem assemble_due (d : FrameDue) (full : List (Nat × Nat)) (s : State) : (assemble d full s).pub.due = s.pub.due := by
  have hsend : ∀ bytes, (sendOut d.os d.inst d.due bytes full s).pub.due = s.pub.due := fun _ => by rw [sendOut_pub]; rfl
  rw [assemble]
  dsimp only
  split
  · exact hsend _
  split
  · exact hsend _
  split
  · rfl
  split
  · exact (sendRsv_pub ..).1
  · exact hsend _

/-! ## OUTPUT_FRAME_ASSEMBLE -/

section
variable {s : State} {n : Nat} {k : FrameCheck} {d : FrameDue} {rest : List FrameDue} (ha : alive s = true)
  (ht : takeFirst (fun d => d.os == n) s.pub.due = some (d, rest))
include ha ht

theorem outputFrameAssemble_takes (hl : osKind s.cfg.active n = 3 ∨ lowerDue s d = false) :
    (osSends s n d.inst = false → exec (.outputFrameAssemble n k) s = .next (dueTaken rest s)) ∧
    (osSends s n d.inst = true ∧ osControl s.cfg.active n = true ∧ authority s = false →
      exec (.outputFrameAssemble n k) s = .next (withhold (dueTaken rest s))) ∧
    ∃ t, exec (.outputFrameAssemble n k) s = .next t ∧ t.pub.due = rest := by
  rw [exec_outputFrameAssemble ha ht hl]
  refine ⟨fun hoff => ?_, fun ⟨hon, hctl, hauth⟩ => ?_, _, rfl, ?_⟩
  · rw [if_pos (by simp [hoff])]
  · rw [if_neg (by simp [hon]), if_pos (by simp [hctl, hauth])]
  · have hdue : (dueTaken rest s).pub.due = rest := rfl
    split
    · exact hdue
    split
    · rw [withhold_pub, hdue]
    split
    · rw [frameChecked_pub, hdue]
    · rw [assemble_due, frameChecked_pub, hdue]

/-- An owed frame waits at the ports of the stream, or of the connection of its one client, unless the client's send buffer is full (R331). -/
theorem outputFrameAssemble_sends {body : List Byte} (hl : osKind s.cfg.active n = 3 ∨ lowerDue s d = false)
    (hauth : osControl s.cfg.active n = false ∨ authority s = true) (hon : osSends s n d.inst = true) (hs : k.setRes = 0) (hf : k.frameRes = 0)
    (hb : OwedBody s n d body) :
    ∃ t, exec (.outputFrameAssemble n k) s = .next t ∧
      (osTcp s.cfg.active n = false →
        sentOn s t (osF s.cfg.active n 3 12 0) (ipLen (osDst s.cfg.active n) (osF s.cfg.active n 3 27 16) (16 + body.length) false)
          (fun b => b = .out n s.pub.frameNo 0 (owedFrame s n d body))) ∧
      (∀ c, osTcp s.cfg.active n = true → onClients s n d.inst = [c] →
        (k.full.contains (c.addr, c.port) = false →
          sentOn s t (connMask s.cfg.active c.eport) (ipLen c.addr (osF s.cfg.active n 3 27 16) (16 + body.length) true)
            (fun b => b = .out n s.pub.frameNo 0 (owedFrame s n d body))) ∧
        (k.full.contains (c.addr, c.port) = true → t.eth.ports = s.eth.ports ∧
          counter t (PUB + 0x314) 0xFFFF = counter s (PUB + 0x314) 0xFFFF + 1#32)) := by
  have hlen : (owedFrame s n d body).length = 16 + body.length := length_c37Frame ..
  refine ⟨sendOut n d.inst d.due (owedFrame s n d body) k.full (dueTaken rest s), ?_, fun hudp => ?_, fun c htcp hc => ?_⟩
  · rw [exec_outputFrameAssemble_good ha ht hl hauth hon hs hf, assemble_owed (s := dueTaken rest s) k.full (os_of_takeFirst ht) hb]
    rfl
  · rw [← hlen]
    exact sentOn_of_same (s' := dueTaken rest s) rfl rfl (sendOut_udp hudp)
  · rw [sendOut_client (s := dueTaken rest s) htcp hc, ← hlen]
    refine ⟨fun hroom => ?_, fun hfull => ?_⟩
    · rw [hroom]
      exact sentOn_of_same (s' := numbered (dueTaken rest s)) rfl rfl toClient_sentOn
    · rw [hfull, toClient_full]
      refine ⟨by rw [flagCount_eth]; rfl, ?_⟩
      rw [flagCount, counter_count, counter_congr (setFlag_cnt ..)]
      rfl

theorem outputFrameAssemble_sends_rsv {x : ASet} (hk : osKind s.cfg.active n = 1) (hl : lowerDue s d = false)
    (hauth : osControl s.cfg.active n = false ∨ authority s = true) (hon : osSends s n d.inst = true)
    (hsig : imBit s.cfg.active secOUT_STREAM n 10 13 = false) (hs : k.setRes = 0) (hf : k.frameRes = 0)
    (hx : setOf s (osGroup s.cfg.active n) d.inst = some x) :
    ∃ t, exec (.outputFrameAssemble n k) s = .next t ∧ (osOf t n).spdu = (osOf s n).spdu + 1#32 ∧
      sentOn s t (osF s.cfg.active n 3 12 0)
        (ipLen (osDst s.cfg.active n) (osF s.cfg.active n 3 27 16) (8 + (rsvBody s n d.inst x).length) false)
        (fun b => ∃ no pdu, b = .outRsv n no ((osOf s n).spdu + 1#32) pdu [] ∧ pdu.drop 8 = rsvBody s n d.inst x) := by
  refine ⟨sendRsv n d.due (rsvBody s n d.inst x) (dueTaken rest s), ?_, ?_, ?_⟩
  · rw [exec_outputFrameAssemble_good ha ht (.inr hl) hauth hon hs hf,
      assemble_rsv (s := dueTaken rest s) k.full (os_of_takeFirst ht) hk hx]
    rfl
  · rw [(sendRsv_pub ..).2]
    rfl
  · refine sentOn_of_same (s' := dueTaken rest s) rfl rfl (sentOn_mono ?_ (sendRsv_unsigned hsig))
    rintro _ rfl
    exact ⟨_, _, rfl, List.drop_left' (by simp)⟩

end

/-! ## CFG_PEND_START (R329) -/

theorem cfgPendStart_marks {s : State} {n at_ : Nat} {im : Image} (ha : alive s = true) (hsched : s.cfg.sched = some at_)
    (hstg : s.cfg.staged = some im) (ht : hasTime s = true) (hnear : at_ * 1000000000 ≤ s.tb.now + 60000000000)
    (hpend : (osOf s n).cfgPend = false) (hchg : cfgChanges s.cfg.active im n = true) :
    ∃ t, exec (.cfgPendStart n) s = .next t ∧ osOf t n = { osOf s n with cfgPend := true } ∧ ∀ m, m ≠ n → osOf t m = osOf s m := by
  have e : exec (.cfgPendStart n) s =
      .next (raise 0x0C05 .all (leBytes 2 n ++ leBytes 8 at_) (modOs n (fun r => { r with cfgPend := true }) s)) := by
    change execCfgPendStart n s = _
    rw [execCfgPendStart, act_of_alive _ ha]
    simp only [hsched, hstg]
    rw [if_pos (by simp [ht, hnear, hpend, hchg])]
  refine ⟨_, e, ?_, fun m hm => ?_⟩
  · rw [osOf_raise, osOf_modOs_self]
  · rw [osOf_raise, osOf_modOs_of_ne hm]

/-- Settles O39: a due frame is taken, withheld or sent as its stream and its clients say; a lower stream that owes its frame goes first; and a
pending change of CFG-2 marks its stream alone. -/
theorem outputFramesAreAssembledOnceDue : Obligations.OutputFramesAreAssembledOnceDue :=
  ⟨fun _ _ _ _ _ ha ht hl => outputFrameAssemble_takes ha ht hl,
   fun _ _ _ _ _ _ ha ht hl hauth hon hs hf hb => outputFrameAssemble_sends ha ht hl hauth hon hs hf hb,
   fun _ _ _ _ _ _ ha ht hk hl hauth hon hsig hs hf hx => outputFrameAssemble_sends_rsv ha ht hk hl hauth hon hsig hs hf hx,
   fun _ _ _ _ _ ha ht hk hl => exec_outputFrameAssemble_waits ha ht hk hl,
   fun _ _ _ _ ha hsched hstg ht hnear hpend hchg => cfgPendStart_marks ha hsched hstg ht hnear hpend hchg⟩

end Sys2Proof.Machine

/-!
Commands to output streams (R330, Table 12-5): the command frame that is taken, streams and clients turned on and off, the frames that answer, and
the commands that are ignored.
-/
namespace Sys2Proof.Machine

/-! ## The command frame that is taken -/

/-- Taking a command frame leaves the image and the PUB block. -/
theorem takeCmd_keeps {p : Nat → Bool} {s u : State} {n : Nat} {h : IpHdr} {bs : List Byte} (hq : takeCmd p s = some (n, h, bs, u)) :
    u.cfg = s.cfg ∧ u.pub = s.pub ∧ (s.hp.length = 4 → u.hp.length = 4) := by
  have hkept := KeptOS4.eq hq (kept_takeCmd (Nat.and_self _) (Kept.refl s))
  exact ⟨hkept.fr.cfg rfl, hkept.fr.pub rfl, hkept.hp⟩

theorem osOf_of_takeCmd {p : Nat → Bool} {s u : State} {n : Nat} {h : IpHdr} {bs : List Byte} (hq : takeCmd p s = some (n, h, bs, u))
    (m : Nat) : osOf u m = osOf s m := by
  obtain ⟨-, hpub, -⟩ := takeCmd_keeps hq
  exact osOf_congr (by rw [hpub]) m

section
variable {s u : State} {n : Nat} {h : IpHdr} {bs : List Byte} (ha : alive s = true)
include ha

theorem exec_cmdTurnOff (hq : takeCmd (· == 1) s = some (n, h, bs, u)) : exec .cmdTurnOff s = .next (setOn n h false (cmdUsed n u)) := by
  change execCmdTurnOff s = _
  rw [execCmdTurnOff, act_of_alive _ ha]
  simp only [hq]

theorem exec_cmdTurnOn (hq : takeCmd (· == 2) s = some (n, h, bs, u)) : exec .cmdTurnOn s = .next (setOn n h true (cmdUsed n u)) := by
  change execCmdTurnOn s = _
  rw [execCmdTurnOn, act_of_alive _ ha]
  simp only [hq]

theorem exec_cmdSendHeader (full : Bool) (hq : takeCmd (· == 3) s = some (n, h, bs, u)) :
    exec (.cmdSendHeader full) s = .next (answerCmd n h 1 (c37Frame u 1 (osF u.cfg.active n 0 15 0) u.tb.now (osF u.cfg.active n 4 23 0)
      (imName u.cfg.active 4 n)) full (cmdUsed n u)) := by
  change execCmdSendHeader s full = _
  rw [execCmdSendHeader, act_of_alive _ ha]
  simp only [hq]

theorem exec_cmdSendCfg1 (full : Bool) (hq : takeCmd (· == 4) s = some (n, h, bs, u)) :
    exec (.cmdSendCfg1 full) s = .next (answerCmd n h 2 (cfgFrameBytes u n 2) full (cmdUsed n u)) := by
  change execCmdSendCfg1 s full = _
  rw [execCmdSendCfg1, act_of_alive _ ha]
  simp only [hq]

theorem exec_cmdSendCfg2 (full : Bool) (hq : takeCmd (· == 5) s = some (n, h, bs, u)) :
    exec (.cmdSendCfg2 full) s = .next (answerCmd n h 3 (cfgFrameBytes u n 3) full (cmdUsed n u)) := by
  change execCmdSendCfg2 s full = _
  rw [execCmdSendCfg2, act_of_alive _ ha]
  simp only [hq]

theorem exec_cmdSendCfg3 (full : Bool) (hq : takeCmd (· == 6) s = some (n, h, bs, u)) :
    exec (.cmdSendCfg3 full) s = .next (answerCmd n h 5 (cfgFrameBytes u n 5) full (cmdUsed n u)) := by
  change execCmdSendCfg3 s full = _
  rw [execCmdSendCfg3, act_of_alive _ ha]
  simp only [hq]

theorem exec_cmdBad (hq : takeCmd (· == 0) s = some (n, h, bs, u)) :
    exec .cmdBad s = .next (raiseLimited (0x0C03 * 256 + n) 0x0C03 .all (leBytes 2 n ++ leBytes 2 (beAt bs 14 2))
      (flagCount (PUB + 4) 5 (PUB + 0x310) u)) := by
  change execCmdBad s = _
  rw [execCmdBad, act_of_alive _ ha]
  simp only [hq]

end

/-! ## Commands of a second -/

/-- Output stream `n` has taken one of the commands of its second. -/
def cmdTaken (u : State) (r : OutStream) : OutStream :=
  { r with cmdSec := limitSec u, cmdN := (if r.cmdSec = limitSec u then r.cmdN else 0) + 1 }

theorem osOf_cmdUsed (n m : Nat) (u : State) : osOf (cmdUsed n u) m = if m = n then cmdTaken u (osOf u n) else osOf u m :=
  osOf_modOs n m (cmdTaken u) u

/-! ## TURN_ON and TURN_OFF -/

/-- The instant from which a stream or client that is turned on or off at `now` has been on (assumption 216). -/
def onFrom (b on : Bool) (now onAt : Nat) : Nat := if b && !on then now else onAt

/-- A client after the command of the client at `h`. -/
def clientTurned (h : IpHdr) (b : Bool) (now : Nat) (c : TcpClient) : TcpClient :=
  if c.addr = h.src ∧ c.port = h.sport then { c with on := b, onAt := onFrom b c.on now c.onAt } else c

theorem setOn_udp {n : Nat} {s : State} (h : IpHdr) (b : Bool) (ht : osTcp s.cfg.active n = false) :
    setOn n h b s = modOs n (fun r => { r with on := b, onAt := onFrom b r.on s.tb.now r.onAt }) s := by
  rw [setOn]
  exact if_neg (by simp [ht])

theorem setOn_tcp {n : Nat} {s : State} (h : IpHdr) (b : Bool) (ht : osTcp s.cfg.active n = true) :
    setOn n h b s = modOs n (fun r => { r with clients := r.clients.map (clientTurned h b s.tb.now) }) s := by
  have e : clientTurned h b s.tb.now = fun c => if c.addr == h.src && c.port == h.sport then
      { c with on := b, onAt := onFrom b c.on s.tb.now c.onAt } else c := by
    funext c
    simp only [clientTurned, Bool.and_eq_true, beq_iff_eq]
  rw [setOn, e]
  exact if_pos ht

theorem osOf_setOn_of_ne {n m : Nat} (hm : m ≠ n) (h : IpHdr) (b : Bool) (s : State) : osOf (setOn n h b s) m = osOf s m := by
  cases ht : osTcp s.cfg.active n with
  | false => rw [setOn_udp h b ht, osOf_modOs_of_ne hm]
  | true => rw [setOn_tcp h b ht, osOf_modOs_of_ne hm]

/-- TURN_ON (`b`) and TURN_OFF change the UDP stream, or the client of the TCP stream that sent the command, use one command, and leave the
other streams. -/
theorem turned_spec {p : Nat → Bool} {s u : State} {n : Nat} {h : IpHdr} {bs : List Byte} (b : Bool)
    (hq : takeCmd p s = some (n, h, bs, u)) :
    (osTcp s.cfg.active n = false → (osOf (setOn n h b (cmdUsed n u)) n).on = b ∧
      (osOf (setOn n h b (cmdUsed n u)) n).clients = (osOf s n).clients ∧
      (osOf (setOn n h b (cmdUsed n u)) n).onAt = onFrom b (osOf s n).on u.tb.now (osOf s n).onAt) ∧
    (osTcp s.cfg.active n = true → (osOf (setOn n h b (cmdUsed n u)) n).on = (osOf s n).on ∧
      (osOf (setOn n h b (cmdUsed n u)) n).clients = (osOf s n).clients.map (clientTurned h b u.tb.now)) ∧
    commandUsed s u (setOn n h b (cmdUsed n u)) n ∧ ∀ m, m ≠ n → osOf (setOn n h b (cmdUsed n u)) m = osOf s m := by
  obtain ⟨hcfg, -, -⟩ := takeCmd_keeps hq
  have hused : osOf (cmdUsed n u) n = cmdTaken u (osOf s n) := by rw [osOf_cmdUsed, if_pos rfl, osOf_of_takeCmd hq]
  have hother : ∀ m, m ≠ n → osOf (setOn n h b (cmdUsed n u)) m = osOf s m := fun m hm => by
    rw [osOf_setOn_of_ne hm, osOf_cmdUsed, if_neg hm, osOf_of_takeCmd hq]
  have htcp : osTcp (cmdUsed n u).cfg.active n = osTcp s.cfg.active n := by rw [cmdUsed, modOs_cfg, hcfg]
  rw [commandUsed, ← htcp]
  cases ht : osTcp (cmdUsed n u).cfg.active n with
  | false =>
    have hn := setOn_udp h b ht
    rw [hn, osOf_modOs_self, hused]
    exact ⟨fun _ => ⟨rfl, rfl, rfl⟩, nofun, ⟨rfl, rfl⟩, hn ▸ hother⟩
  | true =>
    have hn := setOn_tcp h b ht
    rw [hn, osOf_modOs_self, hused]
    exact ⟨nofun, fun _ => ⟨rfl, rfl⟩, ⟨rfl, rfl⟩, hn ▸ hother⟩

/-! ## Frames that answer -/

section
variable {n typ : Nat} {h : IpHdr} {bytes : List Byte} {full : Bool} {s : State}

theorem answerCmd_udp (ht : osTcp s.cfg.active n = false) :
    answerCmd n h typ bytes full s = enqueueMask (osF s.cfg.active n 3 12 0) (.out n s.pub.frameNo typ bytes)
      (ipLen (osDst s.cfg.active n) (osF s.cfg.active n 3 27 16) bytes.length false) none (numbered s) := by
  rw [answerCmd]
  exact if_neg (by simp [ht])

theorem answerCmd_tcp (ht : osTcp s.cfg.active n = true) :
    answerCmd n h typ bytes full s =
      ((osOf s n).clients.find? (fun c => c.addr == h.src && c.port == h.sport)).elim (numbered s)
        (fun c => toClient n s.pub.frameNo typ bytes none full c (numbered s)) := by
  have hc : (osOf s n).clients = (osOf (nextFrameNo s).2 n).clients := rfl
  rw [answerCmd, hc]
  dsimp only
  rw [if_pos ht]
  split
  next e => rw [e]; rfl
  next e => rw [e]; rfl

/-- Of the PUB block, an answer takes its frame number. -/
theorem answerCmd_pub : (answerCmd n h typ bytes full s).pub = (numbered s).pub := by
  cases ht : osTcp s.cfg.active n with
  | false => rw [answerCmd_udp ht, enqueueMask_pub]
  | true =>
    rw [answerCmd_tcp ht]
    cases (osOf s n).clients.find? (fun c => c.addr == h.src && c.port == h.sport) with
    | none => rfl
    | some c => exact toClient_pub ..

/-- A client whose send buffer cannot take the answer is skipped. -/
theorem answerCmd_full (ht : osTcp s.cfg.active n = true) : (answerCmd n h typ bytes true s).eth = s.eth := by
  rw [answerCmd_tcp ht]
  cases (osOf s n).clients.find? (fun c => c.addr == h.src && c.port == h.sport) with
  | none => rfl
  | some c => exact flagCount_eth ..

theorem answerCmd_answers (hf : full = false ∨ osTcp s.cfg.active n = false) : answers s (answerCmd n h typ bytes full s) n h typ bytes := by
  rw [answers]
  cases ht : osTcp s.cfg.active n with
  | false =>
    rw [if_neg (by simp), answerCmd_udp ht]
    exact sentOn_mono (fun _ e => ⟨_, e⟩) (sentOn_of_same (s' := numbered s) rfl rfl enqueueMask_sentOn)
  | true =>
    obtain rfl : full = false := hf.resolve_right (by simp [ht])
    rw [if_pos rfl]
    intro c hc
    rw [answerCmd_tcp ht, hc]
    exact sentOn_mono (fun _ e => ⟨_, e⟩) (sentOn_of_same (s' := numbered s) rfl rfl toClient_sentOn)

end

/-- Whether output stream `n` answers depends on nothing that using a command changes. -/
theorem answers_of_cmdUsed {n typ : Nat} {h : IpHdr} {bytes : List Byte} {u t : State} (hans : answers (cmdUsed n u) t n h typ bytes) :
    answers u t n h typ bytes := by
  rw [answers] at hans ⊢
  rw [osOf_cmdUsed, if_pos rfl] at hans
  rw [show (cmdUsed n u).cfg = u.cfg from rfl] at hans
  split
  next ht =>
    rw [if_pos ht] at hans
    exact fun c hc => sentOn_of_same (s' := cmdUsed n u) rfl rfl (hans c hc)
  next ht =>
    rw [if_neg ht] at hans
    exact sentOn_of_same (s' := cmdUsed n u) rfl rfl hans

/-- A request uses one command and is answered by the frame that it asks for, unless the client's send buffer cannot take it. -/
theorem answered_spec {p : Nat → Bool} {s u : State} {n : Nat} {h : IpHdr} {bs : List Byte} (typ : Nat) (bytes : List Byte) (full : Bool)
    (hq : takeCmd p s = some (n, h, bs, u)) :
    commandUsed s u (answerCmd n h typ bytes full (cmdUsed n u)) n ∧
      (full = false ∨ osTcp s.cfg.active n = false → answers u (answerCmd n h typ bytes full (cmdUsed n u)) n h typ bytes) ∧
      (full = true → osTcp s.cfg.active n = true → (answerCmd n h typ bytes full (cmdUsed n u)).eth.ports = u.eth.ports) := by
  obtain ⟨hcfg, -, -⟩ := takeCmd_keeps hq
  have hused : osOf (answerCmd n h typ bytes full (cmdUsed n u)) n = cmdTaken u (osOf s n) := by
    rw [osOf_congr (s := cmdUsed n u) (by rw [answerCmd_pub]; rfl), osOf_cmdUsed, if_pos rfl, osOf_of_takeCmd hq]
  rw [← hcfg, commandUsed, hused]
  refine ⟨⟨rfl, rfl⟩, fun hf => answers_of_cmdUsed (answerCmd_answers hf), fun hf ht => ?_⟩
  subst hf
  rw [answerCmd_full (s := cmdUsed n u) ht]
  rfl

/-! ## Commands that are ignored -/

theorem cmdBad_flags {s u : State} {n : Nat} {h : IpHdr} {bs : List Byte} (hl : s.hp.length = 4) (ha : alive s = true)
    (hq : takeCmd (· == 0) s = some (n, h, bs, u)) :
    ∃ t, exec .cmdBad s = .next t ∧ flagged t (PUB + 4) 5 ∧ ∀ m, osOf t m = osOf s m := by
  obtain ⟨-, -, hhp⟩ := takeCmd_keeps hq
  refine ⟨_, exec_cmdBad ha hq, flagged_raiseLimited (flagged_count (flagged_setFlag (hhp hl) (by decide))), fun m => ?_⟩
  rw [osOf_congr (s := u) (by rw [raiseLimited_pub, flagCount_pub]), osOf_of_takeCmd hq]

/-- Settles O40: streams and clients turned on and off, requests answered by the frame that they ask for, and commands ignored. -/
theorem commandsToOutputStreams : Obligations.CommandsToOutputStreams := by
  refine ⟨fun s u n h bs b t ha hcmd => ?_, fun s u n h bs full ha => ⟨?_, ?_, ?_, ?_⟩, fun _ _ _ _ _ hl ha hq => cmdBad_flags hl ha hq⟩
  · rcases hcmd with ⟨rfl, hq, rfl⟩ | ⟨rfl, hq, rfl⟩
    · obtain ⟨hudp, htcp, ⟨hsec, hn⟩, hother⟩ := turned_spec false hq
      exact ⟨fun _ => exec_cmdTurnOff ha hq, nofun, hudp, htcp, hsec, hn, hother⟩
    · obtain ⟨hudp, htcp, ⟨hsec, hn⟩, hother⟩ := turned_spec true hq
      exact ⟨nofun, fun _ => exec_cmdTurnOn ha hq, hudp, htcp, hsec, hn, hother⟩
  · exact fun hq => ⟨_, exec_cmdSendHeader ha full hq, answered_spec _ _ full hq⟩
  · exact fun hq => ⟨_, exec_cmdSendCfg1 ha full hq, answered_spec _ _ full hq⟩
  · exact fun hq => ⟨_, exec_cmdSendCfg2 ha full hq, answered_spec _ _ full hq⟩
  · exact fun hq => ⟨_, exec_cmdSendCfg3 ha full hq, answered_spec _ _ full hq⟩

end Sys2Proof.Machine

/-!
TCP clients of output streams (R331), repeats of GOOSE messages (R334, R335), and hardwired outputs (R337, R338).
-/
namespace Sys2Proof.Machine

/-! ## TCP clients (R331) -/

theorem exec_pubTcpConnect {s : State} {n a p : Nat} (e : Nat) (ha : alive s = true) (hv : osValid s.cfg.active n = true)
    (ht : osTcp s.cfg.active n = true) (hroom : (osOf s n).clients.length < 4)
    (hnew : (osOf s n).clients.any (fun c => c.addr == a && c.port == p) = false) :
    exec (.pubTcpConnect n a p e) s =
      .next (tcpEvent n (modOs n (fun r => { r with clients := r.clients ++ [{ addr := a, port := p, eport := e }] }) s)) := by
  change execPubTcpConnect n a p e s = _
  rw [execPubTcpConnect, act_of_alive _ ha]
  exact congrArg Host.Outcome.next (if_pos (by simp [hv, ht, hroom, hnew]))

@[simp] theorem osOf_tcpEvent (n : Nat) (s : State) (m : Nat) : osOf (tcpEvent n s) m = osOf s m := osOf_raise ..

theorem pubTcpConnect_adds {s : State} {n a p : Nat} (e : Nat) (ha : alive s = true) (hv : osValid s.cfg.active n = true)
    (ht : osTcp s.cfg.active n = true) (hroom : (osOf s n).clients.length < 4)
    (hnew : (osOf s n).clients.any (fun c => c.addr == a && c.port == p) = false) :
    ∃ t, exec (.pubTcpConnect n a p e) s = .next t ∧ (osOf t n).clients = (osOf s n).clients ++ [{ addr := a, port := p, eport := e }] ∧
      ∀ m, m ≠ n → osOf t m = osOf s m := by
  refine ⟨_, exec_pubTcpConnect e ha hv ht hroom hnew, ?_, fun m hm => ?_⟩
  · rw [osOf_tcpEvent, osOf_modOs_self]
  · rw [osOf_tcpEvent, osOf_modOs_of_ne hm]

/-- Clients that lose their connections one after the other leave those that none of them is. -/
theorem osOf_foldl_erase (n : Nat) (l : List TcpClient) (s : State) (m : Nat) :
    osOf (l.foldl (fun s c => tcpEvent n (modOs n (fun r => { r with clients := r.clients.erase c }) s)) s) m =
      if m = n then { osOf s n with clients := (osOf s n).clients.diff l } else osOf s m := by
  induction l generalizing s with
  | nil =>
    split
    next h => rw [h]; rfl
    next => rfl
  | cons c l ih =>
    rw [List.foldl_cons, ih, osOf_tcpEvent, osOf_tcpEvent, osOf_modOs_self, List.diff_cons]
    split
    next => rfl
    next hm => exact osOf_modOs_of_ne hm _ _

theorem mem_diff_filter {α : Type} [DecidableEq α] (l : List α) (p : α → Bool) (a : α) : a ∈ l.diff (l.filter p) ↔ a ∈ l ∧ p a = false := by
  rw [← List.count_pos_iff, ← List.count_pos_iff (l := l), List.count_diff]
  cases h : p a with
  | false => rw [List.count_eq_zero_of_not_mem (l := l.filter p) (by simp [h])]; simp
  | true => rw [List.count_filter h]; simp

theorem exec_pubTcpDisconnect {s : State} (n a p : Nat) (ha : alive s = true) :
    exec (.pubTcpDisconnect n a p) s = .next (dropClients n (fun c => c.addr == a && c.port == p) s) :=
  act_of_alive _ ha

theorem pubTcpDisconnect_removes {s : State} (n a p : Nat) (ha : alive s = true) :
    ∃ t, exec (.pubTcpDisconnect n a p) s = .next t ∧
      (∀ c, c ∈ (osOf t n).clients ↔ c ∈ (osOf s n).clients ∧ ¬(c.addr = a ∧ c.port = p)) ∧ ∀ m, m ≠ n → osOf t m = osOf s m := by
  refine ⟨_, exec_pubTcpDisconnect n a p ha, fun c => ?_, fun m hm => ?_⟩
  · rw [dropClients, osOf_foldl_erase, if_pos rfl, mem_diff_filter, ← Bool.not_eq_true, Bool.and_eq_true, beq_iff_eq, beq_iff_eq]
  · rw [dropClients, osOf_foldl_erase, if_neg hm]

/-! ## GOOSE messages (R334, R335) -/

/-- The gap after a repeat: doubled, up to TMAX. -/
def repeatGap (s : State) (n : Nat) : Nat := min (2 * (gpOf s n).gap) (gpF s.cfg.active n 7 15 0 * 1024)

/-- Publication `n` with its message repeated at the present tick: sqNum is the next one, and the gap has grown. -/
def repeatOf (s : State) (n : Nat) (r : Goose) : Goose :=
  { r with sqnum := numNext r.sqnum, gap := repeatGap s n, next := s.tb.tick + repeatGap s n }

def gpRepeated (n : Nat) (s : State) : State := modGp n (repeatOf s n) s

theorem exec_gooseRepeat {s : State} {n : Nat} (res : Nat) (ha : alive s = true) (hv : imBit s.cfg.active secGOOSE n 0 31 = true)
    (hact : (gpOf s n).active = true) (hdue : (gpOf s n).next ≤ s.tb.tick) (hauth : gpControl s.cfg.active n = false ∨ authority s = true) :
    exec (.gooseRepeat n res) s = .next (gooseSend n res (s.tb.tick + 16) (gpRepeated n s)) := by
  have hgap : (if 2 * (gpOf s n).gap < gpF s.cfg.active n 7 15 0 * 1024 then 2 * (gpOf s n).gap else gpF s.cfg.active n 7 15 0 * 1024) =
      repeatGap s n := by
    rw [repeatGap]
    split <;> omega
  have hsend : (!gpControl s.cfg.active n || authority s) = true := by
    rcases hauth with h | h <;> simp [h]
  change execGooseRepeat n s res = _
  rw [execGooseRepeat, act_of_alive _ ha]
  dsimp only
  rw [if_pos (by simp [hv, hact, hdue, hsend]), hgap]
  rfl

/-- The SPDU number of publication `n` rises where it is sent as R-GOOSE. -/
def gpNumbered (n : Nat) (s : State) : State :=
  modGp n (fun r => { r with spdu := if imBit s.cfg.active secGOOSE n 0 30 then r.spdu + 1#32 else r.spdu }) s

/-- Of the publications, a message that is sent changes the SPDU number at most. -/
theorem gooseSend_gps (n res due : Nat) (s : State) : (gooseSend n res due s).pub.gps = (gpNumbered n s).pub.gps := by
  unfold gooseSend
  extract_lets im u m bytes
  split
  next v sig hsig =>
    have hpub : v.pub = (gpNumbered n s).pub := pub_of_signed hsig
    cases sig with
    | none => rw [hpub]
    | some g =>
      dsimp only
      split
      · rw [frameRebuild_pub, ← hpub]; rfl
      · rw [enqueueMask_pub, frameRebuild_pub, ← hpub]; rfl

theorem gooseSend_unsigned {n : Nat} (due : Nat) {s : State} (h : imBit s.cfg.active secGOOSE n 0 28 = false) :
    gooseSend n 0 due s = enqueueMask (gpF s.cfg.active n 6 12 0) (.goose s.pub.frameNo (gooseOut (gpNumbered n s) n))
      (gooseLen s.cfg.active (gooseOut (gpNumbered n s) n) (gooseBytes s.pub.frameNo (gooseOut (gpNumbered n s) n)).length) (some due)
      (numbered (gpNumbered n s)) := by
  unfold gooseSend
  simp only [h, Bool.false_eq_true, if_false]
  rfl

theorem gpOf_gooseSend (n res due : Nat) (s : State) : ∃ k, gpOf (gooseSend n res due s) n = { gpOf s n with spdu := k } :=
  ⟨_, (gpOf_congr (gooseSend_gps ..) n).trans (gpOf_modGp_self ..)⟩

@[simp] theorem gooseSend_cfg (n res due : Nat) (s : State) : (gooseSend n res due s).cfg = s.cfg :=
  (kept_gooseSend (Nat.and_self _) (Kept.refl s)).fr.cfg rfl

/-- An unsigned message depends on its publication, the image and the claim. -/
theorem gooseOut_congr {s t : State} {n : Nat} (hg : gpOf t n = gpOf s n) (hc : t.cfg = s.cfg) (hnv : t.nv = s.nv)
    (h : imBit s.cfg.active secGOOSE n 0 28 = false) : gooseOut t n = gooseOut s n := by
  simp only [gooseOut, gooseTal, tps, f0, pubClaim, hg, hc, hnv, h, Bool.false_eq_true, if_false]

/-- The message that waits is the one that the publication shows once it is sent. -/
theorem gooseSend_sentOn {n : Nat} (due : Nat) {s : State} (h : imBit s.cfg.active secGOOSE n 0 28 = false) :
    sentOn s (gooseSend n 0 due s) (gpF s.cfg.active n 6 12 0)
      (gooseLen s.cfg.active (gooseOut (gooseSend n 0 due s) n) (gooseBytes s.pub.frameNo (gooseOut (gooseSend n 0 due s) n)).length)
      (fun b => b = .goose s.pub.frameNo (gooseOut (gooseSend n 0 due s) n)) := by
  have e := gooseSend_unsigned due h
  have hout : gooseOut (gooseSend n 0 due s) n = gooseOut (gpNumbered n s) n := by
    refine gooseOut_congr (gpOf_congr (gooseSend_gps ..) n) (gooseSend_cfg ..) ?_ h
    rw [e, enqueueMask_nv]
    rfl
  rw [hout, e]
  exact sentOn_of_same (s' := numbered (gpNumbered n s)) rfl rfl enqueueMask_sentOn

theorem gooseRepeat_repeats {s : State} {n : Nat} (res : Nat) (ha : alive s = true) (hv : imBit s.cfg.active secGOOSE n 0 31 = true)
    (hact : (gpOf s n).active = true) (hdue : (gpOf s n).next ≤ s.tb.tick) (hauth : gpControl s.cfg.active n = false ∨ authority s = true) :
    ∃ t, exec (.gooseRepeat n res) s = .next t ∧
      (gpOf t n).sqnum = (if (gpOf s n).sqnum = 0xFFFFFFFF#32 then 1#32 else (gpOf s n).sqnum + 1#32) ∧
      (gpOf t n).stnum = (gpOf s n).stnum ∧ (gpOf t n).gap = min (2 * (gpOf s n).gap) (gpF s.cfg.active n 7 15 0 * 1024) ∧
      (gpOf t n).next = s.tb.tick + (gpOf t n).gap ∧
      (res = 0 → imBit s.cfg.active secGOOSE n 0 28 = false →
        ∀ m, m = gooseOut t n → m.gp = n ∧ m.stNum = (gpOf s n).stnum ∧ m.sqNum = (gpOf t n).sqnum ∧ m.vals = (gpOf s n).vals ∧
          m.tal = ceilDiv (2 * (gpOf t n).gap * 1000) (tps s) ∧ m.confRev = gpF s.cfg.active n 8 31 0 ∧
          m.udp = (if imBit s.cfg.active secGOOSE n 0 30 then some 102 else none) ∧
          sentOn s t (gpF s.cfg.active n 6 12 0) (gooseLen s.cfg.active m (gooseBytes s.pub.frameNo m).length)
            (fun b => b = .goose s.pub.frameNo m)) := by
  obtain ⟨k, hgp⟩ := gpOf_gooseSend n res (s.tb.tick + 16) (gpRepeated n s)
  have hcfg : (gooseSend n res (s.tb.tick + 16) (gpRepeated n s)).cfg = s.cfg := gooseSend_cfg ..
  rw [gpRepeated, gpOf_modGp_self, ← gpRepeated] at hgp
  refine ⟨_, exec_gooseRepeat res ha hv hact hdue hauth, ?_⟩
  generalize ht : gooseSend n res (s.tb.tick + 16) (gpRepeated n s) = t at hgp hcfg ⊢
  have hstnum : (gpOf t n).stnum = (gpOf s n).stnum := by rw [hgp]; rfl
  have hvals : (gpOf t n).vals = (gpOf s n).vals := by rw [hgp]; rfl
  refine ⟨by rw [hgp]; rfl, hstnum, by rw [hgp]; rfl, by rw [hgp]; rfl, ?_⟩
  rintro rfl hsig _ rfl
  refine ⟨rfl, hstnum, rfl, hvals, ?_, ?_, ?_, ?_⟩
  · rw [gooseOut, gooseTal, tps, f0, hcfg]
    rfl
  · rw [gooseOut, hcfg]
  · rw [gooseOut, hcfg]
  · rw [← ht]
    exact sentOn_of_same (s' := gpRepeated n s) rfl rfl (gooseSend_sentOn _ hsig)

/-! ## Hardwired outputs (R337, R338) -/

theorem doOf_setLevel_self (n : Nat) (b : Bool) (s : State) :
    (doOf (setLevel n b s) n).level = b ∧ (doOf (setLevel n b s) n).st = (doOf s n).st ∧
      (doOf (setLevel n b s) n).fallHeld = (doOf s n).fallHeld := by
  rw [setLevel, doOf_modDo, if_pos rfl]
  split
  next h => exact ⟨h, rfl, rfl⟩
  next => exact ⟨rfl, rfl, rfl⟩

theorem doOf_setLevel_of_ne {n m : Nat} (hm : m ≠ n) (b : Bool) (s : State) : doOf (setLevel n b s) m = doOf s m := by
  rw [setLevel, doOf_modDo, if_neg hm]

theorem exec_doMinOnExpiry {s : State} {n : Nat} (ha : alive s = true) (hst : (doOf s n).st = 1) (hheld : (doOf s n).fallHeld = true)
    (hdue : (doOf s n).lastRise + imFld s.cfg.active secDO n 1 31 16 ≤ s.tb.tick) :
    exec (.doMinOnExpiry n) s = .next (setLevel n false (modDo n (fun d => { d with fallHeld := false }) s)) := by
  change execDoMinOnExpiry n s = _
  rw [execDoMinOnExpiry, act_of_alive _ ha]
  exact congrArg Host.Outcome.next (if_pos (by simp [hst, hheld, hdue]))

theorem doMinOnExpiry_falls {s : State} {n : Nat} (ha : alive s = true) (hst : (doOf s n).st = 1) (hheld : (doOf s n).fallHeld = true)
    (hdue : (doOf s n).lastRise + imFld s.cfg.active secDO n 1 31 16 ≤ s.tb.tick) :
    ∃ t, exec (.doMinOnExpiry n) s = .next t ∧ (doOf t n).level = false ∧ (doOf t n).fallHeld = false ∧ (doOf t n).st = 1 ∧
      ∀ m, m ≠ n → doOf t m = doOf s m := by
  obtain ⟨hlevel, hst', hheld'⟩ := doOf_setLevel_self n false (modDo n (fun d => { d with fallHeld := false }) s)
  rw [doOf_modDo, if_pos rfl] at hst' hheld'
  refine ⟨_, exec_doMinOnExpiry ha hst hheld hdue, hlevel, hheld', hst'.trans hst, fun m hm => ?_⟩
  rw [doOf_setLevel_of_ne hm, doOf_modDo, if_neg hm]

/-- DO `n` low and in RELEASED, as `releaseDo` makes it before it reports it. -/
def doReleased (n : Nat) (s : State) : State := setLevel n false (modDo n (fun d => { d with st := 0, fallHeld := false }) s)

theorem doOf_releaseDo {s : State} {n : Nat} (h : (doOf s n).st ≠ 0) (m : Nat) : doOf (releaseDo n s) m = doOf (doReleased n s) m := by
  rw [releaseDo, if_neg h, ← doReleased]
  exact doOf_congr (by rw [raise_pub, flagCount_pub]) m

theorem exec_doHoldExpiry {s : State} {n : Nat} (ha : alive s = true) (hst : (doOf s n).st = 2) (hend : (doOf s n).holdEnd ≤ s.tb.tick) :
    exec (.doHoldExpiry n) s = .next (releaseDo n s) := by
  change execDoHoldExpiry n s = _
  rw [execDoHoldExpiry, act_of_alive _ ha, if_pos (by simp [hst, hend])]

theorem doHoldExpiry_releases {s : State} {n : Nat} (ha : alive s = true) (hst : (doOf s n).st = 2) (hend : (doOf s n).holdEnd ≤ s.tb.tick) :
    ∃ t, exec (.doHoldExpiry n) s = .next t ∧ (doOf t n).st = 0 ∧ (doOf t n).level = false ∧ ∀ m, m ≠ n → doOf t m = doOf s m := by
  have hrel := doOf_releaseDo (s := s) (n := n) (by simp [hst])
  obtain ⟨hlevel, hst', -⟩ := doOf_setLevel_self n false (modDo n (fun d => { d with st := 0, fallHeld := false }) s)
  rw [doOf_modDo, if_pos rfl] at hst'
  refine ⟨_, exec_doHoldExpiry ha hst hend, (congrArg Do.st (hrel n)).trans hst', (congrArg Do.level (hrel n)).trans hlevel, fun m hm => ?_⟩
  rw [hrel, doReleased, doOf_setLevel_of_ne hm, doOf_modDo, if_neg hm]

/-- Settles O41: clients that come and go, messages repeated with a growing gap, a fall held back by MIN_ON, and a hold that ends. -/
theorem clientsRepeatsAndHardwiredOutputs : Obligations.ClientsRepeatsAndHardwiredOutputs :=
  ⟨fun _ _ _ _ e ha hv ht hroom hnew => pubTcpConnect_adds e ha hv ht hroom hnew,
   fun _ n a p ha _ => pubTcpDisconnect_removes n a p ha,
   fun _ _ res ha hv hact hdue hauth => gooseRepeat_repeats res ha hv hact hdue hauth,
   fun _ _ ha hst hheld hdue => doMinOnExpiry_falls ha hst hheld hdue,
   fun _ _ ha hst hend => doHoldExpiry_releases ha hst hend⟩

end Sys2Proof.Machine

/-!
Whole-machine rules (R28, R50, R316, R383, R388, R457, R469): what a step takes from the queue, what a command leaves as it is, and that every
command answers a next state. `keptOut_exec` says of every command what it keeps.
-/
namespace Sys2Proof.Machine

/-- Settles O1: by the definition of a step. -/
theorem stepRunsFrontCommand : Obligations.StepRunsFrontCommand := fun _ _ _ => rfl

/-! ## Every command answers a next state -/

theorem execTamperDetect_answers (mask : Nat) (k : Bool) (s : State) : ∃ t, execTamperDetect mask k s = .next t := by
  by_cases h : s.pwr.state = .off ∨ tamperSeen s mask = 0
  · exact ⟨_, if_pos h⟩
  · exact ⟨_, if_neg h⟩

theorem execPowerUp_answers (p : PowerIn) (s : State) : ∃ t, execPowerUp p s = .next t := by
  unfold execPowerUp
  split
  · exact ⟨_, rfl⟩
  · split <;> exact ⟨_, rfl⟩

theorem execPfailWarning_answers (ns : Nat) (ext : Bool) (s : State) : ∃ t, execPfailWarning ns ext s = .next t := by
  by_cases h : (!bit (pfailCfg s) (if ext then 15 else 14)) = true
  · exact ⟨_, if_pos h⟩
  · simp only [execPfailWarning, if_neg h]
    split <;> exact ⟨_, rfl⟩

theorem execPfailRecover_answers (mv : Nat) (s : State) : ∃ t, execPfailRecover mv s = .next t := by
  unfold execPfailRecover
  split <;> exact ⟨_, rfl⟩

theorem execUvloFall_answers (s : State) : ∃ t, execUvloFall s = .next t := by
  unfold execUvloFall
  split <;> exact ⟨_, rfl⟩

theorem execVbatLost_answers (s : State) : ∃ t, execVbatLost s = .next t := by
  unfold execVbatLost
  dsimp only
  split <;> exact ⟨_, rfl⟩

theorem execSleepWake_answers (rtc : Nat) (s : State) : ∃ t, execSleepWake rtc s = .next t := by
  unfold execSleepWake
  split
  · split <;> exact ⟨_, rfl⟩
  · exact ⟨_, rfl⟩

/-- The happenings of the supply and the tamper sources answer in every branch; every other command's meaning is an `act`. -/
theorem exec_answers (c : Instr) (s : State) : ∃ t, exec c s = .next t := by
  cases c with
  | tamperDetect mask k => exact execTamperDetect_answers mask k s
  | powerUp p => exact execPowerUp_answers p s
  | pfailWarning ns ext => exact execPfailWarning_answers ns ext s
  | pfailRecover mv => exact execPfailRecover_answers mv s
  | uvloFall => exact execUvloFall_answers s
  | vbatLost => exact execVbatLost_answers s
  | sleepWake rtc => exact execSleepWake_answers rtc s
  | _ => exact ⟨_, rfl⟩

theorem step_of_empty {s : State} (h : s.pending = []) : step s = .next s := by
  unfold step
  rw [h]

theorem step_of_front {s : State} {c : Instr} {rest : List Instr} (h : s.pending = c :: rest) : step s = exec c { s with pending := rest } := by
  unfold step
  rw [h]

/-- Settles O2: every command answers, and a step idles or runs one. -/
theorem everyStepAnswersANextState : Obligations.EveryStepAnswersANextState := by
  refine ⟨exec_answers, fun s => ?_, fun _ => step_of_empty⟩
  cases h : s.pending with
  | nil => exact ⟨s, step_of_empty h⟩
  | cons c rest => exact step_of_front h ▸ exec_answers c _

/-! ## What a step leaves -/

/-- Settles O3: no command touches the queue of the state that it is given. -/
theorem stepTakesExactlyOneCommand : Obligations.StepTakesExactlyOneCommand := by
  intro s t ht
  obtain ⟨hq, rfl⟩ | ⟨c, rest, hq, he⟩ := step_cases ht
  · rw [hq]; rfl
  · rw [hq]; exact ((keptOut_exec c _).out t he).pending

/-- Settles O4: a part that the list of a command does not name has no bit in its mask. -/
theorem everyCommandWritesOnlyItsParts : Obligations.EveryCommandWritesOnlyItsParts :=
  fun c s t ht _ hi => ((keptOut_exec c s).out t ht).same_of hi

/-- Settles O7: a step idles, or runs a command that keeps the counts from falling. -/
theorem versionsAndSequencesNeverFall : Obligations.VersionsAndSequencesNeverFall := by
  intro s t ht
  obtain ⟨-, rfl⟩ | ⟨c, rest, -, he⟩ := step_cases ht
  · exact ⟨Nat.le_refl _, Nat.le_refl _, Nat.le_refl _, rfl⟩
  · have hk := (keptOut_exec c _).out t he
    exact ⟨hk.svn, hk.ctr, hk.bill, hk.part⟩

/-- A command whose list names the active vintage is an activation, or one that may start the module anew. -/
theorem active_mem_writes {c : Instr} (h : Item.active ∈ writes c) :
    c = .activation ∨ (∃ n k, c = .scheduleActivation n k) ∨ mayRestart c := by
  cases c with
  | activation => exact .inl rfl
  | scheduleActivation n k => exact .inr (.inl ⟨n, k, rfl⟩)
  | powerUp _ | resetNLow | sleepWake _ | pfailRecover _ | fatalError _ | scheduledReset | fwActivateReset | cmdPwrReset _ | cmdFwActivate _
  | cmdLcTransition _ _ => exact .inr (.inr rfl)
  | _ =>
    dsimp only [writes] at h
    exact absurd h (by decide)

/-- Settles O9: a command whose list of written parts does not name the active vintage keeps it. -/
theorem onlyActivationAndResetsChangeTheImage : Obligations.OnlyActivationAndResetsChangeTheImage := by
  intro c s t h
  by_cases hc : Item.active ∈ writes c
  · obtain hb | hs | hr := active_mem_writes hc
    · exact .inl hb
    · exact .inr (.inl hs)
    · exact .inr (.inr (.inl hr))
  · have hsame : Item.active.same s t := ((keptOut_exec c s).out t h).same_of hc
    simp only [Item.same, Prod.mk.injEq] at hsame
    exact .inr (.inr (.inr hsame))

/-! ## Reference, RTC and offset register (R494, R512, R524) -/

theorem exec_extLost {s : State} (ha : alive s = true) (hr : s.tb.ref = 1) :
    exec .extLost s = .next (raise 0x0209 .all [] (tbFlag 7 { s with tb := { s.tb with ref := 0 } })) := by
  change execExtLost s = _
  rw [execExtLost, act_of_alive _ ha, if_pos hr]

theorem exec_rtcSet {s : State} (ha : alive s = true) (hl : s.tb.state = .locked) :
    exec .rtcSet s = .next { s with vbat := { s.vbat with rtc := s.tb.now, rtcValid := true } } := by
  change execRtcSet s = _
  rw [execRtcSet, act_of_alive _ ha, hl]
  rfl

theorem exec_tbUtcOfsWrite {s : State} {n : Nat} (v : Word) (ha : alive s = true) (hn : imgLoad s n = true) :
    exec (.tbUtcOfsWrite n v) s = .next (if fromSrc s then s else storeOfs (sint 16 (fld v 15 0)) s) := by
  change execTbUtcOfsWrite n v s = _
  simp [execTbUtcOfsWrite, act_of_alive _ ha, validFn_of_imgLoad hn, hn]

/-- Settles O15: the loss of the reference, the RTC set while LOCKED, and the offset written where the source supplies none and where it does. -/
theorem referenceRtcAndOffsetRegister : Obligations.ReferenceRtcAndOffsetRegister := by
  refine ⟨fun s => exec_extLost, fun s => exec_rtcSet, fun s n v ha hn hf => ?_, fun s n v ha hn hf => ?_⟩
  · rw [exec_tbUtcOfsWrite v ha hn, hf]
    rfl
  · rw [exec_tbUtcOfsWrite v ha hn, hf]
    rfl

end Sys2Proof.Machine

/-!
The task scheduler and TSK_CTRL (R345, R347 to R349, R351, R354, R366): which item a free unit takes, what its dispatch and its release do to
the items, and the three operations of TSK_CTRL.
-/
namespace Sys2Proof.Machine

/-! ## The least of a list -/

/-- A fold that keeps the first entry with the least key answers an entry of the list, and none has a lower key. -/
theorem foldl_least {α : Type} (k : α → Nat) (l : List α) (x : α) :
    l.foldl (fun a b => if k b < k a then b else a) x ∈ x :: l ∧
      ∀ y ∈ x :: l, k (l.foldl (fun a b => if k b < k a then b else a) x) ≤ k y := by
  induction l generalizing x with
  | nil => simp
  | cons z l ih =>
    simp only [List.foldl_cons]
    by_cases h : k z < k x
    · obtain ⟨hm, hle⟩ := ih z
      have hz := hle z (by simp)
      simp only [if_pos h]
      exact ⟨List.mem_cons_of_mem _ hm, List.forall_mem_cons.mpr ⟨by omega, hle⟩⟩
    · obtain ⟨hm, hle⟩ := ih x
      have hx := hle x (by simp)
      simp only [if_neg h]
      refine ⟨by simp only [List.mem_cons] at hm ⊢; tauto, fun y hy => ?_⟩
      simp only [List.mem_cons] at hy
      obtain rfl | rfl | hy := hy
      · exact hx
      · omega
      · exact hle y (by simp [hy])

theorem oldest_cons (x : TskItem) (l : List TskItem) :
    oldest (x :: l) = some (l.foldl (fun a b => if b.adm < a.adm then b else a) x) := by
  have key (l : List TskItem) (x : TskItem) : l.foldl (fun acc i => match acc with
      | none => some i
      | some a => if i.adm < a.adm then some i else some a) (some x) = some (l.foldl (fun a b => if b.adm < a.adm then b else a) x) := by
    induction l generalizing x with
    | nil => rfl
    | cons z l ih =>
      simp only [List.foldl_cons]
      split
      · exact ih z
      · exact ih x
  exact key l x

theorem oldest_spec {l : List TskItem} {i : TskItem} (h : oldest l = some i) : i ∈ l ∧ ∀ j ∈ l, i.adm ≤ j.adm := by
  cases l with
  | nil => simp [oldest] at h
  | cons x l =>
    rw [oldest_cons] at h
    exact Option.some.inj h ▸ foldl_least TskItem.adm l x

theorem exists_oldest {l : List TskItem} {j : TskItem} (h : j ∈ l) : ∃ i, oldest l = some i := by
  cases l with
  | nil => simp at h
  | cons x l => exact ⟨_, oldest_cons x l⟩

/-- A change that keeps the admission numbers keeps which item is the oldest. -/
theorem oldest_map {g : TskItem → TskItem} (hg : ∀ i, (g i).adm = i.adm) (l : List TskItem) : oldest (l.map g) = (oldest l).map g := by
  have key (l : List TskItem) (x : TskItem) : (l.map g).foldl (fun a b => if b.adm < a.adm then b else a) (g x) =
      g (l.foldl (fun a b => if b.adm < a.adm then b else a) x) := by
    induction l generalizing x with
    | nil => rfl
    | cons z l ih =>
      simp only [List.map_cons, List.foldl_cons, hg]
      split
      · exact ih z
      · exact ih x
  cases l with
  | nil => rfl
  | cons x l =>
    rw [List.map_cons, oldest_cons, oldest_cons, key]
    rfl

/-! ## The item that a free unit takes (R347) -/

/-- Item `i` waits at engine `e`. -/
def WaitsAt (s : State) (e : Nat) (i : TskItem) : Prop := i ∈ s.tsk.items ∧ i.engine = e ∧ i.st = 1

/-- The heads of the level queues of engine `e`. -/
def levelHeads (s : State) (e : Nat) : List TskItem :=
  (List.range 8).filterMap (fun l => oldest ((s.tsk.items.filter (fun i => i.engine == e && i.st == 1)).filter (·.level == l)))

theorem mem_levelQueue {s : State} {e l : Nat} {i : TskItem} :
    i ∈ (s.tsk.items.filter (fun i => i.engine == e && i.st == 1)).filter (·.level == l) ↔ WaitsAt s e i ∧ i.level = l := by
  simp only [WaitsAt, List.mem_filter, Bool.and_eq_true, beq_iff_eq]

theorem levelHeads_spec {s : State} {e : Nat} {i : TskItem} (h : i ∈ levelHeads s e) :
    WaitsAt s e i ∧ ∀ j, WaitsAt s e j → j.level = i.level → i.adm ≤ j.adm := by
  simp only [levelHeads, List.mem_filterMap] at h
  obtain ⟨l, -, hl⟩ := h
  obtain ⟨hi, hle⟩ := oldest_spec hl
  obtain ⟨hw, rfl⟩ := mem_levelQueue.mp hi
  exact ⟨hw, fun j hj hjl => hle j (mem_levelQueue.mpr ⟨hj, hjl⟩)⟩

/-- The level queue of a waiting item has a head, which was admitted no later. -/
theorem exists_levelHead {s : State} {e : Nat} {j : TskItem} (hj : WaitsAt s e j) (hl : j.level < 8) :
    ∃ i ∈ levelHeads s e, i.level = j.level ∧ i.adm ≤ j.adm := by
  have hq := mem_levelQueue.mpr ⟨hj, rfl⟩
  obtain ⟨i, hi⟩ := exists_oldest hq
  obtain ⟨him, hle⟩ := oldest_spec hi
  exact ⟨i, List.mem_filterMap.mpr ⟨j.level, by simpa using hl, hi⟩, (mem_levelQueue.mp him).2, hle j hq⟩

/-- The next item is the head with the earliest deadline of the bounded heads that may be dispatched, or, while no bounded item waits, the
first head that may be. -/
theorem nextItem_cases {s : State} {e : Nat} {i : TskItem} (h : nextItem s e = some i) :
    (i ∈ levelHeads s e ∧ mayDispatch s i = true ∧ i.level < 4 ∧
      ∀ j ∈ levelHeads s e, j.level < 4 → mayDispatch s j = true → i.deadline.getD 0 ≤ j.deadline.getD 0) ∨
    (i ∈ levelHeads s e ∧ mayDispatch s i = true ∧ ∀ j ∈ levelHeads s e, 4 ≤ j.level) := by
  simp only [nextItem, ← levelHeads.eq_1] at h
  split at h
  next x rest hb =>
    have hmem (j : TskItem) : j ∈ x :: rest ↔ (j ∈ levelHeads s e ∧ j.level < 4) ∧ mayDispatch s j = true := by
      rw [← hb, List.mem_filter, List.mem_filter, decide_eq_true_eq]
    obtain ⟨hi, hle⟩ := Option.some.inj h ▸ foldl_least (fun j : TskItem => j.deadline.getD 0) rest x
    obtain ⟨⟨hh, hlt⟩, hm⟩ := (hmem i).mp hi
    exact .inl ⟨hh, hm, hlt, fun j hj hjl hjm => hle j ((hmem j).mpr ⟨⟨hj, hjl⟩, hjm⟩)⟩
  next hb =>
    split at h
    next he =>
      refine .inr ⟨List.mem_of_find?_eq_some h, List.find?_some h, fun j hj => ?_⟩
      simpa using List.filter_eq_nil_iff.mp (List.isEmpty_iff.mp he) j hj
    next => simp at h

theorem nextItem_is_head {s : State} {e : Nat} {i : TskItem} (h : nextItem s e = some i) :
    i ∈ levelHeads s e ∧ mayDispatch s i = true := by
  obtain ⟨hh, hm, -, -⟩ | ⟨hh, hm, -⟩ := nextItem_cases h <;> exact ⟨hh, hm⟩

theorem nextItem_unbounded {s : State} {e : Nat} {i j : TskItem} (h : nextItem s e = some i) (hi : 4 ≤ i.level) (hj : WaitsAt s e j) :
    4 ≤ j.level := by
  obtain ⟨-, -, hlt, -⟩ | ⟨-, -, hall⟩ := nextItem_cases h
  · omega
  · by_contra hlt
    obtain ⟨x, hx, hxl, -⟩ := exists_levelHead hj (by omega)
    have := hall x hx
    omega

theorem nextItem_earliest {s : State} {e : Nat} {i j : TskItem} (h : nextItem s e = some i) (hi : i.level < 4) (hj : WaitsAt s e j)
    (hjl : j.level < 4) (hm : mayDispatch s j = true) (hhead : ∀ k, WaitsAt s e k → k.level = j.level → k ≠ j → j.adm < k.adm) :
    i.deadline.getD 0 ≤ j.deadline.getD 0 := by
  obtain ⟨x, hx, hxl, hle⟩ := exists_levelHead hj (by omega)
  obtain rfl : x = j := by
    by_contra hne
    have := hhead x (levelHeads_spec hx).1 hxl hne
    omega
  obtain ⟨-, -, -, hall⟩ | ⟨hh, -, hall⟩ := nextItem_cases h
  · exact hall x hx hjl hm
  · have := hall i hh
    omega

/-! ## Work that enters leaves an item in service -/

@[simp] theorem tskCount_tsk (k : Nat) (s : State) : (tskCount k s).tsk = s.tsk := count_tsk ..
@[simp] theorem tskFlag_tsk (b : Nat) (s : State) : (tskFlag b s).tsk = s.tsk := setFlag_tsk ..
@[simp] theorem tskRefuse_tsk (op reason : Nat) (s : State) : (tskRefuse op reason s).tsk = s.tsk := by simp [tskRefuse]
@[simp] theorem tskCount_cfg (k : Nat) (s : State) : (tskCount k s).cfg = s.cfg := count_cfg ..
@[simp] theorem tskFlag_cfg (b : Nat) (s : State) : (tskFlag b s).cfg = s.cfg := setFlag_cfg ..

/-- Of work `a` of flow `f` an item is in service on unit `u`, and none is finished or held. -/
structure InService (f a u : Nat) (s : State) : Prop where
  here : ∃ j ∈ s.tsk.items, j.flow = f ∧ j.adm = a ∧ j.st = 2 ∧ j.unit = u
  unfinished : ∀ j ∈ s.tsk.items, j.flow = f → j.adm = a → j.st ≠ 3 ∧ j.st ≠ 4

namespace InService

variable {f a u : Nat} {s t : State}

theorem of_items (h : InService f a u s) (hi : t.tsk.items = s.tsk.items) : InService f a u t := ⟨hi ▸ h.here, hi ▸ h.unfinished⟩

theorem pushItem (h : InService f a u s) (g b start : Nat) : InService f a u (pushItem g b start s) := by
  obtain ⟨j, hj, hspec⟩ := h.here
  refine ⟨⟨j, by simp [Machine.pushItem, hj], hspec⟩, fun k hk hf ha => ?_⟩
  simp only [Machine.pushItem, rcMax_tsk, modTsk_tsk, List.mem_append, List.mem_singleton] at hk
  obtain hk | rfl := hk
  · exact h.unfinished k hk hf ha
  · simp

theorem offer (h : InService f a u s) (w : TskWait) : InService f a u (offer w s) := by
  unfold Machine.offer
  split
  · split
    · exact h.of_items (by simp [dlPut])
    · exact h.pushItem ..
  · exact h.of_items rfl

theorem foldl {α : Type} {F : State → α → State} (hF : ∀ s x, InService f a u s → InService f a u (F s x)) (l : List α)
    (h : InService f a u s) : InService f a u (l.foldl F s) := by
  induction l generalizing s with
  | nil => exact h
  | cons x l ih => exact ih (hF s x h)

theorem unstall (h : InService f a u s) : InService f a u (unstall s) :=
  foldl (fun _ w h => h.offer w) _ (h.of_items (t := modTsk (fun t => { t with stalled := [] }) s) rfl)

/-- A finished item is not the one in service, so that its release, or its hold, is of another. -/
theorem releaseItems (n g : Nat) (h : InService f a u s) : InService f a u (releaseItems n g s) := by
  induction n generalizing s with
  | zero => exact h
  | succ n ih =>
    unfold Machine.releaseItems
    split
    next i hi =>
      obtain ⟨hmem, -⟩ := oldest_spec hi
      simp only [List.mem_filter, beq_iff_eq] at hmem
      obtain ⟨him, hig⟩ := hmem
      split
      next hst =>
        have hother (hg : f = g) : a ≠ i.adm := by
          rintro rfl
          have := h.unfinished i him (hig.trans hg.symm) rfl
          omega
        split
        · have hrem : InService f a u (modTsk (fun t => { t with items := t.items.filter (fun x => !(x.flow == g && x.adm == i.adm)) }) s) := by
            obtain ⟨j, hj, hjf, hja, hspec⟩ := h.here
            refine ⟨⟨j, ?_, hjf, hja, hspec⟩, fun k hk => h.unfinished k (List.mem_filter.mp hk).1⟩
            subst hjf hja
            simpa [hj, imp_iff_not_or] using hother
          split
          · exact ih (hrem.pushItem ..)
          · exact ih hrem
        · have hsame (k : TskItem) (hf : k.flow = f) (ha : k.adm = a) :
              (if k.flow == g && k.adm == i.adm then { k with st := 4 } else k) = k := by
            subst hf ha
            exact if_neg (by simpa using hother)
          obtain ⟨j, hj, hjf, hja, hspec⟩ := h.here
          refine ⟨⟨j, List.mem_map.mpr ⟨j, hj, hsame j hjf hja⟩, hjf, hja, hspec⟩, fun k hk hf ha => ?_⟩
          obtain ⟨k', hk', rfl⟩ := List.mem_map.mp hk
          have hf' : k'.flow = f := by rw [← hf]; split <;> rfl
          have ha' : k'.adm = a := by rw [← ha]; split <;> rfl
          rw [hsame k' hf' ha']
          exact h.unfinished k' hk' hf' ha'
      next => exact h
    next => exact h

theorem releaseHeld (h : InService f a u s) : InService f a u (releaseHeld s) :=
  foldl (fun _ _ h => h.releaseItems ..) _ h

end InService

/-! ## Dispatch (R347) -/

/-- Item `i` is put in service on unit `u`. -/
def servedOn (i : TskItem) (u : Nat) (s : State) : State := tskCount 0 (modItem i.flow i.adm (fun i => { i with st := 2, unit := u }) s)

theorem servedOn_items (i : TskItem) (u : Nat) (s : State) : (servedOn i u s).tsk.items =
    s.tsk.items.map (fun j => if j.flow = i.flow ∧ j.adm = i.adm then { j with st := 2, unit := u } else j) := by
  simp [servedOn, modItem]

theorem servedOn_stalled (i : TskItem) (u : Nat) (s : State) : (servedOn i u s).tsk.stalled = s.tsk.stalled := by
  simp [servedOn, modItem]

theorem inService_servedOn {i : TskItem} {s : State} (u : Nat) (h : i ∈ s.tsk.items) : InService i.flow i.adm u (servedOn i u s) := by
  refine ⟨⟨{ i with st := 2, unit := u }, ?_, rfl, rfl, rfl, rfl⟩, fun j hj hf ha => ?_⟩
  · rw [servedOn_items]
    exact List.mem_map.mpr ⟨i, h, by simp⟩
  · rw [servedOn_items] at hj
    obtain ⟨k, -, rfl⟩ := List.mem_map.mp hj
    by_cases hk : k.flow = i.flow ∧ k.adm = i.adm
    · simp [hk]
    · rw [if_neg hk] at hf ha
      exact absurd ⟨hf, ha⟩ hk

theorem exec_workItemDispatch {s : State} {e u : Nat} {x : TskIn} {i : TskItem} (ha : alive s = true) (hu : u < engineUnits e)
    (hn : nextItem (admitAll x s) e = some i) (hb : unitBusy (admitAll x s) e u = false) :
    exec (.workItemDispatch e u x) s = .next (unstall (releaseHeld (servedOn i u (admitAll x s)))) := by
  change execWorkItemDispatch e u x s = _
  simp only [execWorkItemDispatch, act_of_alive _ ha, hb, hn, if_neg (not_or.mpr ⟨Nat.not_le.mpr hu, Bool.false_ne_true⟩), servedOn]

theorem unstall_of_empty {s : State} (h : s.tsk.stalled = []) : unstall s = modTsk (fun t => { t with stalled := [] }) s := by
  rw [unstall, h]
  rfl

theorem releaseHeld_of_none {s : State} (h : ∀ j ∈ s.tsk.items, j.st ≠ 4) : releaseHeld s = s := by
  rw [releaseHeld, List.filter_eq_nil_iff.mpr (by simpa using h)]
  rfl

/-- Where nothing waits for room, nothing else enters or leaves. -/
theorem dispatch_changes_one {i : TskItem} {u : Nat} {s : State} (h4 : ∀ j ∈ s.tsk.items, j.st ≠ 4) (hst : s.tsk.stalled = []) :
    (unstall (releaseHeld (servedOn i u s))).tsk.items = (servedOn i u s).tsk.items := by
  rw [releaseHeld_of_none, unstall_of_empty ((servedOn_stalled i u s).trans hst)]
  · rfl
  · intro j hj
    rw [servedOn_items] at hj
    obtain ⟨k, hk, rfl⟩ := List.mem_map.mp hj
    split
    · simp
    · exact h4 k hk

/-! ## Release (R349, R354) -/

/-- Item `adm` of flow `f` has finished. -/
def finishedItem (f adm : Nat) (next : Option Nat) (s : State) : State := modItem f adm (fun i => { i with st := 3, next := next }) s

theorem finishedItem_items (f adm : Nat) (next : Option Nat) (s : State) : (finishedItem f adm next s).tsk.items =
    s.tsk.items.map (fun j => if j.flow = f ∧ j.adm = adm then { j with st := 3, next := next } else j) := by
  simp [finishedItem, modItem]

/-- What a release keeps beside the items: the work that waits, the levels of flows, and the active vintage. -/
structure SameWork (s t : State) : Prop where
  items : t.tsk.items = s.tsk.items
  stalled : t.tsk.stalled = s.tsk.stalled
  levels : ∀ n, (flowOf t n).levels = (flowOf s n).levels
  cfg : t.cfg = s.cfg

theorem SameWork.of_tsk {s t : State} (h : t.tsk = s.tsk) (hc : t.cfg = s.cfg) : SameWork s t :=
  ⟨by rw [h], by rw [h], fun n => by rw [flowOf, flowOf, h], hc⟩

theorem SameWork.trans {s t u : State} (h : SameWork s t) (k : SameWork t u) : SameWork s u :=
  ⟨k.items.trans h.items, k.stalled.trans h.stalled, fun n => (k.levels n).trans (h.levels n), k.cfg.trans h.cfg⟩

@[simp] theorem halfAt_tsk (off win : Nat) (old : Word) (s : State) : (halfAt off win old s).tsk = s.tsk := by
  unfold halfAt
  split <;> simp

@[simp] theorem halfAt_cfg (off win : Nat) (old : Word) (s : State) : (halfAt off win old s).cfg = s.cfg := by
  unfold halfAt
  split <;> simp

theorem sameWork_stageMiss (f late : Nat) (s : State) : SameWork s (stageMiss f late s) where
  items := by simp [stageMiss]
  stalled := by simp [stageMiss]
  levels n := by
    simp only [flowOf, stageMiss, raise_tsk, tskFlag_tsk, tskCount_tsk, halfAt_tsk, modTsk_tsk, fgetD_fmod]
    split
    next h => rw [h]
    next => rfl
  cfg := by simp [stageMiss]

/-- The finished item with its stage deadline checked and a release out of order counted. -/
def releaseNoted (i : TskItem) (f adm : Nat) (s : State) : State :=
  let s := match i.deadline with
    | some d => if d < s.tb.tick then stageMiss f (s.tb.tick - d) s else s
    | none => s
  if s.tsk.items.any (fun x => x.flow == f && decide (x.adm < adm)) then tskCount 2 s else s

theorem sameWork_releaseNoted (i : TskItem) (f adm : Nat) (s : State) : SameWork s (releaseNoted i f adm s) := by
  have hcount (c : Prop) [Decidable c] (s : State) : SameWork s (if c then tskCount 2 s else s) := by
    split
    · exact .of_tsk (by simp) (by simp)
    · exact .of_tsk rfl rfl
  refine SameWork.trans ?_ (hcount _ _)
  split
  · split
    · exact sameWork_stageMiss ..
    · exact .of_tsk rfl rfl
  · exact .of_tsk rfl rfl

theorem exec_workItemRelease {s : State} {f adm : Nat} {next : Option Nat} {i : TskItem} (ha : alive s = true)
    (hi : s.tsk.items.find? (fun i => i.flow == f && i.adm == adm && i.st == 2) = some i) :
    exec (.workItemRelease f adm next) s =
      .next (unstall (releaseItems (releaseNoted i f adm (finishedItem f adm next s)).tsk.items.length f
        (releaseNoted i f adm (finishedItem f adm next s)))) := by
  change execWorkItemRelease f adm next s = _
  simp only [execWorkItemRelease, act_of_alive _ ha, hi]
  rfl

theorem flowLevelAt_congr {s t : State} (hc : t.cfg = s.cfg) {n : Nat} (hl : (flowOf t n).levels = (flowOf s n).levels) (a : Nat) :
    flowLevelAt t n a = flowLevelAt s n a := by
  simp only [flowLevelAt, flowBounded, flowCtx, hc, hl]
  rfl

/-- The release of an item behind an older unfinished one releases none. -/
theorem releaseItems_behind {s : State} {f n : Nat} {x : TskItem} (hx : oldest (s.tsk.items.filter (fun i => i.flow == f)) = some x)
    (h3 : x.st ≠ 3) (h4 : x.st ≠ 4) : releaseItems n f s = s := by
  cases n with
  | zero => rfl
  | succ n => simp only [releaseItems, hx, if_neg (not_or.mpr ⟨h3, h4⟩)]

theorem releaseItems_of_none {s : State} {f n : Nat} (h : s.tsk.items.filter (fun i => i.flow == f) = []) : releaseItems n f s = s := by
  cases n with
  | zero => rfl
  | succ n => rw [releaseItems, h]; rfl

theorem filter_finishedItem (f adm : Nat) (next : Option Nat) (s : State) :
    (finishedItem f adm next s).tsk.items.filter (fun i => i.flow == f) =
      (s.tsk.items.filter (fun i => i.flow == f)).map (fun j => if j.flow = f ∧ j.adm = adm then { j with st := 3, next := next } else j) := by
  rw [finishedItem_items, List.filter_map]
  congr 1
  refine List.filter_congr fun j _ => ?_
  simp only [Function.comp]
  split <;> rfl

theorem workItemRelease_behind {s : State} {f adm : Nat} (next : Option Nat) {i x : TskItem} (ha : alive s = true) (hst : s.tsk.stalled = [])
    (hi : s.tsk.items.find? (fun i => i.flow == f && i.adm == adm && i.st == 2) = some i)
    (hx : oldest (s.tsk.items.filter (fun i => i.flow == f)) = some x) (hne : x.adm ≠ adm) (h3 : x.st ≠ 3) (h4 : x.st ≠ 4) :
    ∃ t, exec (.workItemRelease f adm next) s = .next t ∧ t.tsk.items = s.tsk.items.map
      (fun j => if j.flow = f ∧ j.adm = adm then { j with st := 3, next := next } else j) := by
  have hw := sameWork_releaseNoted i f adm (finishedItem f adm next s)
  have hold : oldest ((releaseNoted i f adm (finishedItem f adm next s)).tsk.items.filter (fun i => i.flow == f)) = some x := by
    rw [hw.items, filter_finishedItem, oldest_map (by intro j; split <;> rfl), hx]
    simp [hne]
  refine ⟨_, exec_workItemRelease ha hi, ?_⟩
  rw [releaseItems_behind hold h3 h4, unstall_of_empty (hw.stalled.trans hst), ← finishedItem_items]
  exact hw.items

/-- The only item of its flow, finished, with its next stage known. -/
def lone (i : TskItem) (next : Option Nat) : TskItem := { i with st := 3, next := next }

section Lone

variable {s : State} {f : Nat} {i : TskItem} (hs : s.tsk.items.filter (fun i => i.flow == f) = [i]) (h2 : i.st = 2)
include hs

theorem lone_mem : i ∈ s.tsk.items ∧ i.flow = f := by
  have := List.mem_filter.mp (hs ▸ List.mem_singleton.mpr rfl : i ∈ s.tsk.items.filter (fun i => i.flow == f))
  simpa using this

theorem lone_unique {j : TskItem} (hj : j ∈ s.tsk.items) (hf : j.flow = f) : j = i := by
  have h : j ∈ s.tsk.items.filter (fun i => i.flow == f) := List.mem_filter.mpr ⟨hj, beq_iff_eq.mpr hf⟩
  rw [hs] at h
  exact List.mem_singleton.mp h

include h2 in
theorem lone_found : s.tsk.items.find? (fun j => j.flow == f && j.adm == i.adm && j.st == 2) = some i := by
  have h : (s.tsk.items.filter (fun j => j.flow == f)).find? (fun j => j.adm == i.adm && j.st == 2) = some i := by simp [hs, h2]
  rw [List.find?_filter] at h
  simpa [Bool.and_assoc, Bool.decide_and, ← beq_eq_decide] using h

theorem lone_finished (next : Option Nat) :
    (finishedItem f i.adm next s).tsk.items.filter (fun j => j.flow == f) = [lone i next] := by
  rw [filter_finishedItem, hs]
  simp [(lone_mem hs).2, lone]

theorem lone_removed (next : Option Nat) :
    (finishedItem f i.adm next s).tsk.items.filter (fun x => !(x.flow == f && x.adm == i.adm)) = s.tsk.items.filter (fun j => j.flow != f) := by
  have hmap : (finishedItem f i.adm next s).tsk.items = s.tsk.items.map (fun j => if j.flow = f then lone i next else j) := by
    rw [finishedItem_items]
    refine List.map_congr_left fun j hj => ?_
    by_cases hf : j.flow = f
    · obtain rfl := lone_unique hs hj hf
      simp [hf, lone]
    · simp [hf]
  rw [hmap, List.filter_map]
  have hp : (s.tsk.items.filter ((fun x : TskItem => !(x.flow == f && x.adm == i.adm)) ∘ fun j => if j.flow = f then lone i next else j)) =
      s.tsk.items.filter (fun j => j.flow != f) := by
    refine List.filter_congr fun j _ => ?_
    by_cases hf : j.flow = f
    · simp [hf, lone, (lone_mem hs).2]
    · simp [hf, bne]
  rw [hp]
  exact (List.map_congr_left fun j hj => if_neg (by simpa using (List.mem_filter.mp hj).2)).trans (List.map_id _)

/-- No item waits that did not wait before, and none more: the finished one was in service. -/
theorem levelRoom_finished (next : Option Nat) {t : State} (h2 : i.st = 2) (hw : SameWork (finishedItem f i.adm next s) t) (g a : Nat) :
    levelRoom t g a = levelRoom s g a := by
  have hq (e l : Nat) : t.tsk.items.filter (fun i => i.st == 1 && i.engine == e && i.level == l) =
      s.tsk.items.filter (fun i => i.st == 1 && i.engine == e && i.level == l) := by
    rw [hw.items, finishedItem_items, List.filter_map]
    have hp : s.tsk.items.filter ((fun i : TskItem => i.st == 1 && i.engine == e && i.level == l) ∘
        fun j => if j.flow = f ∧ j.adm = i.adm then { j with st := 3, next := next } else j) =
        s.tsk.items.filter (fun i => i.st == 1 && i.engine == e && i.level == l) := by
      refine List.filter_congr fun j hj => ?_
      by_cases hf : j.flow = f
      · obtain rfl := lone_unique hs hj hf
        simp [hf, h2]
      · simp [hf]
    rw [hp]
    refine (List.map_congr_left fun j hj => if_neg ?_).trans (List.map_id _)
    rintro ⟨hf, -⟩
    obtain ⟨hj, h1⟩ := List.mem_filter.mp hj
    obtain rfl := lone_unique hs hj hf
    simp [h2] at h1
  have hc : t.cfg = s.cfg := hw.cfg
  have hctx : flowCtx t g = flowCtx s g := by rw [flowCtx, hc, flowCtx]
  have hl : flowLevelAt t g a = flowLevelAt s g a := flowLevelAt_congr hc (hw.levels g) a
  simp only [levelRoom, queueRoom, hctx, hl, hq]

end Lone

theorem levelRoom_of_none {s : State} {x : TskItem} (h : x.next = none) : x.next.all (fun g => levelRoom s g x.adm) = true := by rw [h]; rfl

/-- The oldest item of a flow leaves when it is finished and its successor has room. -/
theorem releaseItems_leaves {s : State} {f n : Nat} {x : TskItem} (hx : oldest (s.tsk.items.filter (fun i => i.flow == f)) = some x)
    (h3 : x.st = 3) (hroom : x.next.all (fun g => levelRoom s g x.adm) = true) :
    releaseItems (n + 1) f s = releaseItems n f (match x.next with
      | some g => pushItem g x.adm x.start
          (modTsk (fun t => { t with items := t.items.filter (fun y => !(y.flow == f && y.adm == x.adm)) }) s)
      | none => modTsk (fun t => { t with items := t.items.filter (fun y => !(y.flow == f && y.adm == x.adm)) }) s) := by
  simp only [releaseItems, hx, if_pos (Or.inl h3), if_pos hroom] <;> rfl

theorem workItemRelease_last {s : State} {f : Nat} {i : TskItem} (ha : alive s = true) (hst : s.tsk.stalled = [])
    (hs : s.tsk.items.filter (fun i => i.flow == f) = [i]) (h2 : i.st = 2) :
    ∃ t, exec (.workItemRelease f i.adm none) s = .next t ∧ t.tsk.items = s.tsk.items.filter (fun i => i.flow != f) := by
  have hw := sameWork_releaseNoted i f i.adm (finishedItem f i.adm none s)
  refine ⟨_, exec_workItemRelease ha (lone_found hs h2), ?_⟩
  generalize releaseNoted i f i.adm (finishedItem f i.adm none s) = r at hw
  obtain ⟨n, hn⟩ : ∃ n, r.tsk.items.length = n + 1 := by
    refine Nat.exists_eq_succ_of_ne_zero fun h0 => ?_
    have := lone_finished hs none
    rw [← hw.items, List.length_eq_zero_iff.mp h0] at this
    simp at this
  have hx : oldest (r.tsk.items.filter (fun i => i.flow == f)) = some (lone i none) := by rw [hw.items, lone_finished hs]; rfl
  have hgone : (modTsk (fun t => { t with items := t.items.filter (fun y => !(y.flow == f && y.adm == i.adm)) }) r).tsk.items =
      s.tsk.items.filter (fun i => i.flow != f) := by rw [modTsk_tsk, hw.items, lone_removed hs]
  rw [hn, releaseItems_leaves hx rfl (levelRoom_of_none rfl)]
  change (unstall (releaseItems n f (modTsk _ r))).tsk.items = _
  rw [releaseItems_of_none, unstall_of_empty]
  · exact hgone
  · exact hw.stalled.trans hst
  · change List.filter _ (modTsk (fun t => { t with items := t.items.filter (fun y => !(y.flow == f && y.adm == i.adm)) }) r).tsk.items = []
    rw [hgone]
    simp

/-- The item that the next stage `g` of finished work waits as. -/
def nextStage (s : State) (g : Nat) (i : TskItem) : TskItem :=
  { flow := g, adm := i.adm, start := i.start, level := flowLevelAt s g i.adm, engine := fld (flowCtx s g) 26 21
    deadline := if flowBounded s g then some (i.start + fld (flowCtx s g) 15 0) else none }

theorem workItemRelease_goes_on {s : State} {f g : Nat} {i : TskItem} (ha : alive s = true) (hst : s.tsk.stalled = [])
    (hs : s.tsk.items.filter (fun i => i.flow == f) = [i]) (h2 : i.st = 2) (hroom : levelRoom s g i.adm = true) :
    ∃ t, exec (.workItemRelease f i.adm (some g)) s = .next t ∧
      t.tsk.items = s.tsk.items.filter (fun i => i.flow != f) ++ [nextStage s g i] := by
  have hw := sameWork_releaseNoted i f i.adm (finishedItem f i.adm (some g) s)
  refine ⟨_, exec_workItemRelease ha (lone_found hs h2), ?_⟩
  have hroom' := (levelRoom_finished hs (some g) h2 hw g i.adm).trans hroom
  generalize releaseNoted i f i.adm (finishedItem f i.adm (some g) s) = r at hw hroom'
  obtain ⟨n, hn⟩ : ∃ n, r.tsk.items.length = n + 1 := by
    refine Nat.exists_eq_succ_of_ne_zero fun h0 => ?_
    have := lone_finished hs (some g)
    rw [← hw.items, List.length_eq_zero_iff.mp h0] at this
    simp at this
  have hx : oldest (r.tsk.items.filter (fun i => i.flow == f)) = some (lone i (some g)) := by rw [hw.items, lone_finished hs]; rfl
  have hpush : (pushItem g i.adm i.start
      (modTsk (fun t => { t with items := t.items.filter (fun y => !(y.flow == f && y.adm == i.adm)) }) r)).tsk.items =
      s.tsk.items.filter (fun i => i.flow != f) ++ [nextStage s g i] := by
    have hc : r.cfg = s.cfg := hw.cfg
    have hctx : flowCtx r g = flowCtx s g := by rw [flowCtx, hc, flowCtx]
    have hl : flowLevelAt r g i.adm = flowLevelAt s g i.adm := flowLevelAt_congr hc (hw.levels g) i.adm
    simp only [pushItem, rcMax_tsk, modTsk_tsk, hw.items, lone_removed hs]
    congr 2
    rw [nextStage, ← hctx, ← hl, flowBounded, ← hctx]
    rfl
  rw [hn, releaseItems_leaves hx rfl (by simpa [lone] using hroom')]
  change (unstall (releaseItems n f (pushItem g i.adm i.start _))).tsk.items = _
  have hstay : releaseItems n f (pushItem g i.adm i.start
      (modTsk (fun t => { t with items := t.items.filter (fun y => !(y.flow == f && y.adm == i.adm)) }) r)) =
      pushItem g i.adm i.start (modTsk (fun t => { t with items := t.items.filter (fun y => !(y.flow == f && y.adm == i.adm)) }) r) := by
    by_cases hgf : g = f
    · refine releaseItems_behind (x := nextStage s g i) ?_ (by simp [nextStage]) (by simp [nextStage])
      have hnone : (s.tsk.items.filter (fun i => i.flow != f)).filter (fun i => i.flow == f) = [] := by simp
      rw [hpush, List.filter_append, hnone]
      simp [nextStage, hgf, oldest]
    · refine releaseItems_of_none ?_
      rw [hpush, List.filter_append, List.filter_filter]
      simp [nextStage, hgf]
  change (unstall (releaseItems n f (pushItem g i.adm i.start
      (modTsk (fun t => { t with items := t.items.filter (fun y => !(y.flow == f && y.adm == i.adm)) }) r)))).tsk.items = _
  rw [hstay, unstall_of_empty]
  · exact hpush
  · simp [pushItem, hw.stalled]
    exact hst

/-- Settles O42: the item that is taken, its dispatch, and its release behind older work, as the last, and to a next stage. -/
theorem workItemsAreDispatchedAndReleased : Obligations.WorkItemsAreDispatchedAndReleased := by
  refine ⟨fun s e i h => ?_, fun s e u x i ha hu hn hb _ => ?_, fun s f adm next i x ha hst hi hx hne h3 h4 => ?_,
    fun s f i ha hst hs h2 => workItemRelease_last ha hst hs h2, fun s f g i ha hst hs h2 hroom => ?_⟩
  · obtain ⟨hh, hm⟩ := nextItem_is_head h
    obtain ⟨⟨hi, he, h1⟩, hle⟩ := levelHeads_spec hh
    exact ⟨hi, he, h1, hm, fun j hj hje hj1 => hle j ⟨hj, hje, hj1⟩, fun h4 j hj hje hj1 => nextItem_unbounded h h4 ⟨hj, hje, hj1⟩,
      fun h4 j hj hje hj1 hjl hjm hk => nextItem_earliest h h4 ⟨hj, hje, hj1⟩ hjl hjm fun k ⟨hkm, hke, hk1⟩ => hk k hkm hke hk1⟩
  · have hmem := (levelHeads_spec (nextItem_is_head hn).1).1.1
    refine ⟨_, exec_workItemDispatch ha hu hn hb, (inService_servedOn u hmem).releaseHeld.unstall.here, fun h4 hst => ?_⟩
    rw [dispatch_changes_one h4 hst, servedOn_items]
  · exact workItemRelease_behind next ha hst hi hx hne h3 h4
  · obtain ⟨t, ht, hitems⟩ := workItemRelease_goes_on ha hst hs h2 hroom
    exact ⟨t, nextStage s g i, ht, hitems, rfl, rfl, rfl, rfl, rfl, rfl, rfl⟩

/-! ## TSK_CTRL (R348, R351, R366) -/

theorem tskCtrl_of_key {s : State} {n : Nat} (op : Nat) (f : State → State) (h : imgLoad s n = true) : tskCtrl n op 0x75C3 f s = f s := by
  simp [tskCtrl, validFn_of_imgLoad h, h]

theorem tskCtrl_wrong_key {s : State} {n key : Nat} (op : Nat) (f : State → State) (hv : validFn s n = true) (hk : key ≠ 0x75C3) :
    tskCtrl n op key f s = tskRefuse op 1 s := by simp [tskCtrl, hv, hk]

theorem exec_tskTestEntry (n key : Nat) {s : State} (ha : alive s = true) : exec (.tskTestEntry n key) s = .next (tskCtrl n 1 key
    (fun s => if authority s && hasControl s.cfg.active then tskRefuse 1 2 s else modTsk (fun t => { t with test := true }) s) s) :=
  act_of_alive _ ha

theorem exec_tskTestExit (n key : Nat) {s : State} (ha : alive s = true) : exec (.tskTestExit n key) s = .next (tskCtrl n 2 key
    (fun s => if !hasTime s then tskRefuse 2 2 s else modTsk (fun t => { t with test := false }) s) s) :=
  act_of_alive _ ha

/-- Items of flow `f` admitted from now on have level `l`. -/
def levelSet (f l : Nat) (s : State) : State :=
  modTsk (fun t => { t with flows := fmod t.flows f {} (fun q => { q with levels := (t.adm, l) :: q.levels.filter (fun e => e.1 != t.adm) }) }) s

theorem exec_tskSetLevel (n l key : Nat) {s : State} (ha : alive s = true) : exec (.tskSetLevel n l key) s = .next (tskCtrl n 3 key
    (fun s =>
      let f := fld (fnReg s n (TSK + 0x20)) 13 0
      if !flowValid s f || flowBounded s f || decide (l < 4 ∨ 7 < l) then tskRefuse 3 3 s
      else raise 0x0D06 .all (leBytes 2 f ++ leBytes 1 (flowLevel s f) ++ leBytes 1 l) (tskFlag 3 (tskCount 5 (levelSet f l s)))) s) :=
  act_of_alive _ ha

theorem flowOf_levelSet (f l : Nat) (s : State) (g : Nat) : flowOf (levelSet f l s) g = if g = f then
    { flowOf s f with levels := (s.tsk.adm, l) :: (flowOf s f).levels.filter (fun e => e.1 != s.tsk.adm) } else flowOf s g := by
  rw [flowOf, levelSet, modTsk_tsk, fgetD_fmod]
  rfl

/-- The level in force from admission number `adm` on is the new one; one set for an earlier number stays. -/
theorem flowLevelAt_levelSet {f : Nat} (l : Nat) {s : State} (hb : flowBounded s f = false) :
    flowLevelAt (levelSet f l s) f s.tsk.adm = l ∧ ∀ a, a < s.tsk.adm → flowLevelAt (levelSet f l s) f a = flowLevelAt s f a := by
  have hb' : flowBounded (levelSet f l s) f = false := hb
  constructor
  · simp [flowLevelAt, hb', flowOf_levelSet]
  · intro a ha
    have hfind : ((flowOf s f).levels.filter (fun e => e.1 != s.tsk.adm)).find? (fun e => decide (e.1 ≤ a)) =
        (flowOf s f).levels.find? (fun e => decide (e.1 ≤ a)) := by
      rw [List.find?_filter]
      congr 1
      funext e
      have : e.1 ≤ a → e.1 ≠ s.tsk.adm := by omega
      simpa using this
    simp only [flowLevelAt, hb', hb, flowOf_levelSet, if_true, List.find?_cons, decide_eq_false (Nat.not_le.mpr ha), hfind]
    rfl

theorem tskSetLevel_sets {s : State} {n l f : Nat} (ha : alive s = true) (hn : imgLoad s n = true)
    (hf : f = fld (fnReg s n (TSK + 0x20)) 13 0) (h4 : 4 ≤ l) (h7 : l ≤ 7) :
    ∃ t, exec (.tskSetLevel n l 0x75C3) s = .next t ∧ (∀ g, g ≠ f → flowLevel t g = flowLevel s g) ∧
      if flowValid s f = true ∧ flowBounded s f = false then
        flowLevel t f = l ∧ (∀ a, a < s.tsk.adm → flowLevelAt t f a = flowLevelAt s f a) else t = tskRefuse 3 3 s := by
  rw [exec_tskSetLevel n l _ ha, tskCtrl_of_key 3 _ hn, ← hf]
  refine ⟨_, rfl, ?_⟩
  dsimp only
  by_cases hok : flowValid s f = true ∧ flowBounded s f = false
  · obtain ⟨hv, hb⟩ := hok
    have hl : ¬ (l < 4 ∨ 7 < l) := by omega
    obtain ⟨hnow, hbefore⟩ := flowLevelAt_levelSet l hb
    have hlevel (g a : Nat) : flowLevelAt (raise 0x0D06 .all (leBytes 2 f ++ leBytes 1 (flowLevel s f) ++ leBytes 1 l)
        (tskFlag 3 (tskCount 5 (levelSet f l s)))) g a = flowLevelAt (levelSet f l s) g a :=
      flowLevelAt_congr (by simp) (by simp [flowOf]) a
    simp only [hv, hb, hl, Bool.not_true, Bool.or_self, decide_false, Bool.false_eq_true, if_false, and_self, if_true]
    refine ⟨fun g hg => ?_, ?_, fun a hlt => (hlevel f a).trans (hbefore a hlt)⟩
    · rw [flowLevel, hlevel, flowLevel]
      simp only [raise_tsk, tskFlag_tsk, tskCount_tsk]
      exact flowLevelAt_congr (s := s) (t := levelSet f l s) rfl (by rw [flowOf_levelSet, if_neg hg]) _
    · rw [flowLevel, hlevel]
      simp only [raise_tsk, tskFlag_tsk, tskCount_tsk]
      exact hnow
  · have href : (!flowValid s f || flowBounded s f || decide (l < 4 ∨ 7 < l)) = true := by
      cases hv : flowValid s f <;> cases hb : flowBounded s f <;> simp_all
    rw [if_pos href, if_neg hok]
    exact ⟨fun g _ => by simp only [flowLevel, tskRefuse_tsk]; exact flowLevelAt_congr (by simp [tskRefuse]) (by simp [flowOf]) _, rfl⟩

theorem flagged_tskRefuse {s : State} (op reason : Nat) (hl : s.hp.length = 4) : flagged (tskRefuse op reason s) (TSK + 4) 4 :=
  flagged_raise (flagged_setFlag hl (by decide))

/-- Settles O43: entry and exit, the level of a flow, and a wrong key. -/
theorem schedulerControl : Obligations.SchedulerControl := by
  refine ⟨fun s n ha hn => ⟨fun h => ?_, fun ⟨hauth, hctl⟩ => ?_, fun ht => ?_⟩, fun s n l f ha hn hf h4 h7 => tskSetLevel_sets ha hn hf h4 h7,
    fun s n l key hl ha hv hk => ⟨?_, ?_, ?_, fun k => ⟨flagged_tskRefuse k 1 hl, tskRefuse_tsk ..⟩⟩⟩
  · have : ¬ (authority s && hasControl s.cfg.active) = true := by
      obtain h | h := h <;> simp [h]
    rw [exec_tskTestEntry _ _ ha, tskCtrl_of_key 1 _ hn, if_neg this]
    rfl
  · rw [exec_tskTestEntry _ _ ha, tskCtrl_of_key 1 _ hn, hauth, hctl]
    rfl
  · rw [exec_tskTestExit _ _ ha, tskCtrl_of_key 2 _ hn, ht]
    rfl
  · rw [exec_tskTestEntry _ _ ha, tskCtrl_wrong_key 1 _ hv hk]
  · rw [exec_tskTestExit _ _ ha, tskCtrl_wrong_key 2 _ hv hk]
  · rw [exec_tskSetLevel _ _ _ ha, tskCtrl_wrong_key 3 _ hv hk]

end Sys2Proof.Machine

/-!
The arbiter (R357, R360, R361, R363): the winner of a resource, what a beat leaves waiting, the end of a lock that runs over, and a rewritten LST.
-/
namespace Sys2Proof.Machine

/-! ## The winner of a resource (R357) -/

/-- The requests for resource `r` among which it is granted: those with a deadline where one has. -/
def waitingClass (s : State) (r : Nat) : List ArbReq :=
  let q := s.arb.reqs.filter (·.res == r)
  if q.any (fun x => !x.nodl) then q.filter (fun x => !x.nodl) else q

theorem mem_waitingClass {s : State} {r : Nat} {x : ArbReq} (h : x ∈ waitingClass s r) :
    x ∈ s.arb.reqs ∧ x.res = r ∧ ∀ y ∈ s.arb.reqs, y.res = r → (x.nodl = true → y.nodl = true) ∧ (y.nodl = x.nodl → y ∈ waitingClass s r) := by
  unfold waitingClass at h ⊢
  dsimp only at h ⊢
  split at h
  next hany =>
    simp only [if_pos hany, List.mem_filter, beq_iff_eq, Bool.not_eq_true'] at h ⊢
    obtain ⟨⟨hx, hr⟩, hn⟩ := h
    exact ⟨hx, hr, fun y hy hyr => ⟨fun hd => by simp [hn] at hd, fun he => ⟨⟨hy, hyr⟩, he.trans hn⟩⟩⟩
  next hany =>
    simp only [if_neg hany, List.mem_filter, beq_iff_eq] at h ⊢
    obtain ⟨hx, hr⟩ := h
    refine ⟨hx, hr, fun y hy hyr => ⟨fun _ => ?_, fun _ => ⟨hy, hyr⟩⟩⟩
    by_contra hd
    exact hany (List.any_eq_true.mpr ⟨y, by simp [hy, hyr], by simpa using hd⟩)

theorem waitingClass_ne_nil {s : State} {r : Nat} {x : ArbReq} (hx : x ∈ s.arb.reqs) (hr : x.res = r) : waitingClass s r ≠ [] := by
  have hq : x ∈ s.arb.reqs.filter (·.res == r) := by simp [hx, hr]
  unfold waitingClass
  dsimp only
  split
  next hany =>
    obtain ⟨y, hy, hd⟩ := List.any_eq_true.mp hany
    exact List.ne_nil_of_mem (List.mem_filter.mpr ⟨hy, hd⟩)
  next => exact List.ne_nil_of_mem hq

/-- Those of the class with the least slack. -/
def leastSlack (s : State) (x : ArbReq) (l : List ArbReq) : List ArbReq :=
  (x :: l).filter (fun y => slack s.tb.tick y == (l.map (slack s.tb.tick)).foldl min (slack s.tb.tick x))

theorem foldl_min_slack (k : ArbReq → Int) (x : ArbReq) (l : List ArbReq) :
    (∃ y ∈ x :: l, k y = (l.map k).foldl min (k x)) ∧ ∀ y ∈ x :: l, (l.map k).foldl min (k x) ≤ k y := by
  obtain ⟨hm, hle⟩ := List.min?_eq_some_iff.mp (rfl : ((x :: l).map k).min? = some ((l.map k).foldl min (k x)))
  obtain ⟨y, hy, he⟩ := List.mem_map.mp hm
  exact ⟨⟨y, hy, he⟩, fun y hy => hle _ (List.mem_map.mpr ⟨y, hy, rfl⟩)⟩

theorem arbWinner_of_nil {s : State} {r : Nat} (h : waitingClass s r = []) : arbWinner s r = none := by
  rw [waitingClass] at h
  rw [arbWinner, h]

theorem arbWinner_of_cons {s : State} {r : Nat} {x y : ArbReq} {l m : List ArbReq} (h : waitingClass s r = x :: l)
    (ht : leastSlack s x l = y :: m) :
    arbWinner s r = some (m.foldl (fun a b => if fromPtr (resOf s r).ptr b.rq < fromPtr (resOf s r).ptr a.rq then b else a) y, !m.isEmpty) := by
  rw [waitingClass] at h
  rw [leastSlack] at ht
  simp only [arbWinner, h, ht]

/-- The winner is one of its class with the least slack. -/
theorem arbWinner_cases {s : State} {r : Nat} : (waitingClass s r = [] ∧ arbWinner s r = none) ∨
    ∃ x tie, arbWinner s r = some (x, tie) ∧ x ∈ waitingClass s r ∧ ∀ y ∈ waitingClass s r, slack s.tb.tick x ≤ slack s.tb.tick y := by
  cases hc : waitingClass s r with
  | nil => exact .inl ⟨rfl, arbWinner_of_nil hc⟩
  | cons x l =>
    obtain ⟨⟨z, hz, hez⟩, hle⟩ := foldl_min_slack (slack s.tb.tick) x l
    cases ht : leastSlack s x l with
    | nil =>
      have hz' : z ∈ leastSlack s x l := List.mem_filter.mpr ⟨hz, beq_iff_eq.mpr hez⟩
      simp [ht] at hz'
    | cons y m =>
      obtain ⟨hm, -⟩ := foldl_least (fun b : ArbReq => fromPtr (resOf s r).ptr b.rq) m y
      rw [← ht] at hm
      obtain ⟨hm, he⟩ := List.mem_filter.mp hm
      exact .inr ⟨_, _, arbWinner_of_cons hc ht, hm, fun w hw => (beq_iff_eq.mp he) ▸ hle w hw⟩

theorem arbWinner_spec {s : State} {r : Nat} {x : ArbReq} {tie : Bool} (h : arbWinner s r = some (x, tie)) :
    x ∈ s.arb.reqs ∧ x.res = r ∧ ∀ y ∈ s.arb.reqs, y.res = r →
      (x.nodl = true → y.nodl = true) ∧ (y.nodl = x.nodl → slack s.tb.tick x ≤ slack s.tb.tick y) := by
  obtain ⟨-, hn⟩ | ⟨x', tie', hw, hm, hle⟩ := arbWinner_cases (s := s) (r := r)
  · simp [h] at hn
  · obtain ⟨rfl, rfl⟩ := Prod.mk.inj (Option.some.inj (h.symm.trans hw))
    obtain ⟨hx, hr, hall⟩ := mem_waitingClass hm
    exact ⟨hx, hr, fun y hy hyr => ⟨(hall y hy hyr).1, fun he => hle y ((hall y hy hyr).2 he)⟩⟩

theorem no_request_of_no_winner {s : State} {r : Nat} (h : arbWinner s r = none) : ∀ q ∈ s.arb.reqs, q.res ≠ r := by
  intro q hq hr
  obtain ⟨hc, -⟩ | ⟨x, tie, hw, -⟩ := arbWinner_cases (s := s) (r := r)
  · exact waitingClass_ne_nil hq hr hc
  · simp [h] at hw

/-! ## What one resource of a beat leaves to the others -/

@[simp] theorem arbFlag_arb (b : Nat) (s : State) : (arbFlag b s).arb = s.arb := setFlag_arb ..
@[simp] theorem arbCount_arb (k : Nat) (s : State) : (arbCount k s).arb = s.arb := count_arb ..
@[simp] theorem arbFlag_eth (b : Nat) (s : State) : (arbFlag b s).eth = s.eth := setFlag_eth ..
@[simp] theorem arbCount_eth (k : Nat) (s : State) : (arbCount k s).eth = s.eth := count_eth ..
@[simp] theorem arbFlag_tb (b : Nat) (s : State) : (arbFlag b s).tb = s.tb := setFlag_tb ..
@[simp] theorem arbCount_tb (k : Nat) (s : State) : (arbCount k s).tb = s.tb := count_tb ..

theorem halfAt_keeps (off win : Nat) (old : Word) (s : State) :
    (halfAt off win old s).arb = s.arb ∧ (halfAt off win old s).eth = s.eth ∧ (halfAt off win old s).tb = s.tb := by
  unfold halfAt
  split <;> simp

@[simp] theorem halfAt_arb (off win : Nat) (old : Word) (s : State) : (halfAt off win old s).arb = s.arb := (halfAt_keeps ..).1
@[simp] theorem halfAt_eth (off win : Nat) (old : Word) (s : State) : (halfAt off win old s).eth = s.eth := (halfAt_keeps ..).2.1
@[simp] theorem halfAt_tb (off win : Nat) (old : Word) (s : State) : (halfAt off win old s).tb = s.tb := (halfAt_keeps ..).2.2

theorem beginTx_keeps (x : ArbReq) (s : State) : (beginTx x s).arb = s.arb ∧ (beginTx x s).tb = s.tb := by
  unfold beginTx
  split <;> exact ⟨rfl, rfl⟩

/-- A grant begins no transmission on a port of another resource. -/
theorem portOf_beginTx_of_ne {x : ArbReq} {s : State} {q : Nat} (hq : egress q = true) (hne : q ≠ x.res) :
    portOf (beginTx x s) (q - 32) = portOf s (q - 32) := by
  unfold beginTx
  split
  next t ht =>
    refine portOf_modPort_of_ne ?_ ..
    have hx : egress x.res = true := by
      by_contra hx
      simp [hx] at ht
    simp only [egress, decide_eq_true_eq] at hq hx
    omega
  next => rfl

/-- The rest of a grant of resource `r` to `x`: its entry, the counts and the report of a miss. -/
def entered (r : Nat) (x : ArbReq) (tie : Bool) (k : Int) (s : State) : State :=
  let late := (-k).toNat
  let miss := decide (k < 0) && !x.nodl
  let old := resOf s r
  let s := halfAt (ARB + 0x100) r old.grants (if miss then halfAt (ARB + 0x104) r old.miss s else s)
  let s := modRes r (fun q => { q with
    owner := some (x.rq, x.lock, 1), grants := old.grants + 1#32, miss := if miss then old.miss + 1#32 else old.miss
    locks := if x.lock then old.locks + 1#32 else old.locks, maxLate := min 65535 (max q.maxLate late)
    ptr := if tie then (x.rq + 1) % 128 else q.ptr }) (if x.lock then halfAt (ARB + 0x108) r old.locks s else s)
  if miss then raise 0x0D01 .all (leBytes 1 1 ++ leBytes 2 r ++ leBytes 4 late) (arbFlag 0 (arbCount 0 s)) else s

/-- Resource `r` is granted to `x`. -/
def grantedTo (r : Nat) (x : ArbReq) (tie : Bool) (s : State) : State :=
  entered r x tie (slack s.tb.tick x) (beginTx x (modReqs (fun l => l.erase x) s))

theorem entered_spec (r : Nat) (x : ArbReq) (tie : Bool) (k : Int) (s : State) :
    (entered r x tie k s).arb.reqs = s.arb.reqs ∧ (entered r x tie k s).eth = s.eth ∧ (entered r x tie k s).tb = s.tb ∧
      (resOf (entered r x tie k s) r).owner = some (x.rq, x.lock, 1) ∧ (resOf (entered r x tie k s) r).grants = (resOf s r).grants + 1#32 ∧
      ∀ q, q ≠ r → resOf (entered r x tie k s) q = resOf s q := by
  have hmiss (c : Prop) [Decidable c] (a : List Byte) (s : State) :
      (if c then raise 0x0D01 .all a (arbFlag 0 (arbCount 0 s)) else s).arb = s.arb ∧
      (if c then raise 0x0D01 .all a (arbFlag 0 (arbCount 0 s)) else s).eth = s.eth ∧
      (if c then raise 0x0D01 .all a (arbFlag 0 (arbCount 0 s)) else s).tb = s.tb := by
    split <;> simp
  have hhalf (c : Prop) [Decidable c] (off : Nat) (old : Word) (s : State) : (if c then halfAt off r old s else s).arb = s.arb ∧
      (if c then halfAt off r old s else s).eth = s.eth ∧ (if c then halfAt off r old s else s).tb = s.tb := by
    split <;> simp
  simp only [entered, resOf, hmiss, modRes, hhalf, halfAt_arb, halfAt_eth, halfAt_tb, fgetD_fmod]
  exact ⟨trivial, trivial, trivial, by simp, by simp, fun q hq => if_neg hq⟩

/-- From `s` to `t` resource `r` stands as it stood: its requests, its entry, the tick, and the port behind it. -/
structure SameRes (r : Nat) (s t : State) : Prop where
  reqs : t.arb.reqs.filter (·.res == r) = s.arb.reqs.filter (·.res == r)
  res : resOf t r = resOf s r
  tick : t.tb.tick = s.tb.tick
  port : egress r = true → portOf t (r - 32) = portOf s (r - 32)

namespace SameRes

variable {r : Nat} {s t u : State}

theorem refl (r : Nat) (s : State) : SameRes r s s := ⟨rfl, rfl, rfl, fun _ => rfl⟩

theorem trans (h : SameRes r s t) (k : SameRes r t u) : SameRes r s u :=
  ⟨k.reqs.trans h.reqs, k.res.trans h.res, k.tick.trans h.tick, fun e => (k.port e).trans (h.port e)⟩

theorem foldl {α : Type} {F : State → α → State} (l : List α) (hF : ∀ s, ∀ a ∈ l, SameRes r s (F s a)) (s : State) :
    SameRes r s (l.foldl F s) := by
  induction l generalizing s with
  | nil => exact refl r s
  | cons a l ih =>
    exact (hF s a List.mem_cons_self).trans (ih (fun s b hb => hF s b (List.mem_cons_of_mem _ hb)) (F s a))

theorem winner (h : SameRes r s t) : arbWinner t r = arbWinner s r := by
  simp only [arbWinner, h.reqs, h.res, h.tick]

theorem paused (h : SameRes r s t) : resPaused t r = resPaused s r := by
  cases he : egress r with
  | true => rw [resPaused, h.port he, resPaused]
  | false => rw [resPaused, resPaused, he, Bool.false_and, Bool.false_and]

theorem busy (h : SameRes r s t) : portBusy t r = portBusy s r := by
  cases he : egress r with
  | true => simp only [portBusy, h.port he]
  | false => rw [portBusy, portBusy, he, Bool.false_and, Bool.false_and]

end SameRes

theorem filter_erase_of_not {α : Type} [DecidableEq α] {p : α → Bool} {x : α} (h : p x = false) (l : List α) :
    (l.erase x).filter p = l.filter p := by
  induction l with
  | nil => rfl
  | cons y l ih =>
    by_cases hy : y = x
    · simp [hy, h]
    · rw [List.erase_cons_tail (by simpa using hy), List.filter_cons, List.filter_cons, ih]

theorem sameRes_grantedTo {r q : Nat} {x : ArbReq} (tie : Bool) (s : State) (hx : x.res = r) (hq : q ≠ r) : SameRes q s (grantedTo r x tie s) := by
  obtain ⟨hreqs, heth, htb, -, -, hres⟩ := entered_spec r x tie (slack s.tb.tick x) (beginTx x (modReqs (fun l => l.erase x) s))
  obtain ⟨harb, htb'⟩ := beginTx_keeps x (modReqs (fun l => l.erase x) s)
  refine ⟨?_, ?_, ?_, fun he => ?_⟩
  · rw [grantedTo, hreqs, harb]
    exact filter_erase_of_not (by simpa [hx] using hq.symm) _
  · rw [grantedTo, hres q hq, resOf, harb]
    rfl
  · rw [grantedTo, htb, htb']
    rfl
  · rw [grantedTo, portOf_congr heth, portOf_beginTx_of_ne he (hx.symm ▸ hq)]
    rfl

/-! ## A beat (R357, R361) -/

theorem arbGrant_of_free {s : State} {r : Nat} {x : ArbReq} {tie : Bool} (ho : (resOf s r).owner = none) (hp : resPaused s r = false)
    (hb : portBusy s r = false) (hw : arbWinner s r = some (x, tie)) : arbGrant r s = grantedTo r x tie s := by
  simp only [arbGrant, ho, hp, hb, hw]
  rfl

/-- A resource is held, by its owner or by its port, has no request, or is granted to its winner. -/
theorem arbGrant_cases (r : Nat) (s : State) :
    (arbGrant r s = s ∧ ((∀ q ∈ s.arb.reqs, q.res ≠ r) ∨ (resOf s r).owner.isSome = true ∨ resPaused s r = true ∨ portBusy s r = true)) ∨
    ∃ x tie, x.res = r ∧ arbGrant r s = grantedTo r x tie s := by
  by_cases hheld : ((resOf s r).owner.isSome || resPaused s r || portBusy s r) = true
  · refine .inl ⟨if_pos hheld, .inr ?_⟩
    simpa [or_assoc] using hheld
  · have hfree := hheld
    simp only [Bool.or_eq_true, not_or, Bool.not_eq_true, Option.isSome_eq_false_iff, Option.isNone_iff_eq_none] at hfree
    obtain ⟨⟨ho, hp⟩, hb⟩ := hfree
    cases hw : arbWinner s r with
    | none =>
      refine .inl ⟨?_, .inl (no_request_of_no_winner hw)⟩
      rw [arbGrant, if_neg hheld, hw]
    | some p =>
      obtain ⟨x, tie⟩ := p
      exact .inr ⟨x, tie, (arbWinner_spec hw).2.1, arbGrant_of_free ho hp hb hw⟩

theorem sameRes_arbGrant {r q : Nat} (s : State) (h : q ≠ r) : SameRes q s (arbGrant r s) := by
  obtain ⟨he, -⟩ | ⟨x, tie, hx, he⟩ := arbGrant_cases r s
  · rw [he]; exact .refl q s
  · rw [he]; exact sameRes_grantedTo tie s hx h

/-- All 47 resources in one beat. -/
def grantAll (s : State) : State := (List.range 47).foldl (fun s r => arbGrant r s) s

/-- The turn of resource `r` in a beat: what went before and what comes after leaves it. -/
theorem grantAll_turn {r : Nat} (hr : r < 47) (s : State) : ∃ u, SameRes r s u ∧ SameRes r (arbGrant r u) (grantAll s) := by
  obtain ⟨l, m, hl⟩ := List.append_of_mem (List.mem_range.mpr hr)
  have hnd := List.nodup_middle.mp (hl ▸ List.nodup_range (n := 47))
  have hne (a : Nat) (ha : a ∈ l ++ m) : r ≠ a := fun h => (List.nodup_cons.mp hnd).1 (h ▸ ha)
  refine ⟨l.foldl (fun s r => arbGrant r s) s, .foldl l (fun s a ha => sameRes_arbGrant s (hne a (by simp [ha]))) s, ?_⟩
  rw [grantAll, hl, List.foldl_append, List.foldl_cons]
  exact .foldl m (fun s a ha => sameRes_arbGrant s (hne a (by simp [ha]))) _

/-- No request waits for resource `r` that it could be granted to. -/
def Satisfied (r : Nat) (s : State) : Prop :=
  (∃ q ∈ s.arb.reqs, q.res = r) → (resOf s r).owner.isSome = true ∨ resPaused s r = true ∨ portBusy s r = true

theorem satisfied_arbGrant (r : Nat) (s : State) : Satisfied r (arbGrant r s) := by
  rintro ⟨q, hq, hqr⟩
  obtain ⟨he, hno | hheld⟩ | ⟨x, tie, -, he⟩ := arbGrant_cases r s
  · exact absurd hqr (hno q (he ▸ hq))
  · rwa [he]
  · obtain ⟨-, -, -, howner, -, -⟩ := entered_spec r x tie (slack s.tb.tick x) (beginTx x (modReqs (fun l => l.erase x) s))
    rw [he, grantedTo, howner]
    exact .inl rfl

theorem Satisfied.of_same {r : Nat} {s t : State} (h : Satisfied r s) (k : SameRes r s t) : Satisfied r t := by
  rintro ⟨q, hq, hqr⟩
  rw [k.res, k.paused, k.busy]
  have hm : q ∈ t.arb.reqs.filter (·.res == r) := by simp [hq, hqr]
  rw [k.reqs] at hm
  exact h ⟨q, (List.mem_filter.mp hm).1, hqr⟩

/-- The grants of `done` and of the ports that have sent end. -/
def grantsEnded (done : List Nat) (s : State) : State :=
  ((List.range 47).filter (fun r => (resOf s r).owner.isSome && grantEnds s done r)).foldl (fun s r => modRes r (fun q => { q with owner := none }) s) s

/-- One beat more held by every owner. -/
def beatCounted (s : State) : State :=
  { s with arb := { s.arb with res := s.arb.res.map (fun e => (e.1, { e.2 with owner := e.2.owner.map (fun o => (o.1, o.2.1, o.2.2 + 1)) })) } }

theorem exec_arbBeat (done : List Nat) (reqs : List ArbIn) {s : State} (ha : alive s = true) : exec (.arbBeat done reqs) s =
    .next (grantAll (reqs.foldl (fun s x => arbRequest x s)
      (modReqs (fun l => l.filter (liveReq (beatCounted (grantsEnded done s)))) (beatCounted (grantsEnded done s))))) := by
  change execArbBeat done reqs s = _
  simp only [execArbBeat, act_of_alive _ ha, grantAll, beatCounted, grantsEnded]

theorem fgetD_map {α : Type} (g : α → α) {d : α} (hd : g d = d) (m : FMap α) (k : Nat) :
    fgetD (m.map (fun e => (e.1, g e.2))) k d = g (fgetD m k d) := by
  induction m with
  | nil => exact hd.symm
  | cons e m ih =>
    simp only [fgetD, List.map_cons, fget?] at ih ⊢
    split
    · rfl
    · split
      · exact hd.symm
      · exact ih

/-- A free resource that is no port comes to its turn as it stood. -/
theorem sameRes_beat {r : Nat} {s : State} (he : egress r = false) (ho : (resOf s r).owner = none) :
    SameRes r s (modReqs (fun l => l.filter (liveReq (beatCounted (grantsEnded [] s)))) (beatCounted (grantsEnded [] s))) := by
  have hend : SameRes r s (grantsEnded [] s) := by
    refine SameRes.foldl (F := fun s r => modRes r (fun q => { q with owner := none }) s) _ (fun u a ha => ⟨rfl, ?_, rfl, fun _ => rfl⟩) s
    have hne : r ≠ a := by
      rintro rfl
      simp [ho] at ha
    rw [resOf, modRes, fgetD_fmod, if_neg hne]
    rfl
  have hres : resOf (beatCounted (grantsEnded [] s)) r = resOf (grantsEnded [] s) r := by
    have hmap := fgetD_map (fun q : ArbRes => { q with owner := q.owner.map (fun o => (o.1, o.2.1, o.2.2 + 1)) }) (d := {}) rfl
      (grantsEnded [] s).arb.res r
    have hfree : (resOf (grantsEnded [] s) r).owner = none := by rw [hend.res, ho]
    have hkeep (q : ArbRes) (hq : q.owner = none) : { q with owner := q.owner.map (fun o => (o.1, o.2.1, o.2.2 + 1)) } = q := by
      rw [hq, Option.map_none, ← hq]
    exact hmap.trans (hkeep _ hfree)
  refine hend.trans ⟨?_, hres, rfl, fun _ => rfl⟩
  simp only [modReqs, List.filter_filter]
  refine List.filter_congr fun x _ => ?_
  by_cases hx : x.res = r
  · simp [liveReq, hx, he]
  · simp [hx]

theorem arbBeat_grants {s : State} {r : Nat} {x : ArbReq} {tie : Bool} (ha : alive s = true) (hr : r < 47) (he : egress r = false)
    (ho : (resOf s r).owner = none) (hw : arbWinner s r = some (x, tie)) :
    ∃ t, exec (.arbBeat [] []) s = .next t ∧ (resOf t r).owner = some (x.rq, x.lock, 1) ∧ (resOf t r).grants = (resOf s r).grants + 1#32 := by
  refine ⟨_, exec_arbBeat [] [] ha, ?_⟩
  obtain ⟨u, hbefore, hafter⟩ := grantAll_turn hr
    (modReqs (fun l => l.filter (liveReq (beatCounted (grantsEnded [] s)))) (beatCounted (grantsEnded [] s)))
  have hu := (sameRes_beat he ho).trans hbefore
  have hgrant : arbGrant r u = grantedTo r x tie u :=
    arbGrant_of_free (hu.res ▸ ho) (by simp [resPaused, he]) (by simp [portBusy, he]) (hu.winner.trans hw)
  obtain ⟨-, -, -, howner, hgrants, -⟩ := entered_spec r x tie (slack u.tb.tick x) (beginTx x (modReqs (fun l => l.erase x) u))
  have hres : resOf (beginTx x (modReqs (fun l => l.erase x) u)) r = resOf s r := by
    rw [← hu.res, resOf, (beginTx_keeps x _).1]
    rfl
  change (resOf (grantAll _) r).owner = _ ∧ (resOf (grantAll _) r).grants = _
  rw [List.foldl_nil, hafter.res, hgrant, grantedTo, howner, hgrants, hres]
  exact ⟨rfl, rfl⟩

theorem arbBeat_satisfies (done : List Nat) (reqs : List ArbIn) {s : State} (ha : alive s = true) :
    ∃ t, exec (.arbBeat done reqs) s = .next t ∧ ∀ r, r < 47 → Satisfied r t := by
  refine ⟨_, exec_arbBeat done reqs ha, fun r hr => ?_⟩
  obtain ⟨u, -, hafter⟩ := grantAll_turn hr (reqs.foldl (fun s x => arbRequest x s)
    (modReqs (fun l => l.filter (liveReq (beatCounted (grantsEnded done s)))) (beatCounted (grantsEnded done s))))
  exact (satisfied_arbGrant r u).of_same hafter

/-! ## Locks and rewritten requests (R360, R363) -/

/-- The lock of requester `rq` on resource `r` is over. -/
def unlocked (rq r : Nat) (s : State) : State :=
  raise 0x0D04 .all (leBytes 2 rq ++ leBytes 2 r) (arbFlag 3 (arbCount 3 (modRes r (fun q => { q with owner := none }) s)))

theorem exec_lockOver {s : State} {r rq n : Nat} (ha : alive s = true) (ho : (resOf s r).owner = some (rq, true, n)) :
    exec (.lockOver r) s = .next (if 33 ≤ n then unlocked rq r s else s) := by
  change execLockOver r s = _
  rw [execLockOver, act_of_alive _ ha, ho]
  rfl

theorem resOf_unlocked (rq r : Nat) (s : State) (q : Nat) :
    resOf (unlocked rq r s) q = if q = r then { resOf s r with owner := none } else resOf s q := by
  simp only [resOf, unlocked, raise_arb, arbFlag_arb, arbCount_arb, modRes, fgetD_fmod]

@[simp] theorem length_count (off : Nat) {s : State} (hl : s.hp.length = 4) : (count off s).hp.length = 4 :=
  (kept_count (Nat.and_self _) (Kept.refl s)).hp hl

theorem flagged_unlocked (rq r : Nat) {s : State} (hl : s.hp.length = 4) : flagged (unlocked rq r s) (ARB + 4) 3 :=
  flagged_raise (flagged_setFlag (length_count _ hl) (by decide))

theorem exec_lstRewrite (rq r : Nat) (lst : BitVec 16) {s : State} (ha : alive s = true) : exec (.lstRewrite rq r lst) s =
    .next (if s.arb.reqs.any (fun x => x.rq == rq && x.res == r) then
      arbCount 4 (modReqs (fun l => l.map (fun x => if x.rq == rq && x.res == r then { x with lst := lst } else x)) s) else s) :=
  act_of_alive _ ha

/-- Settles O44: the winner, its grant, what a beat leaves waiting, the end of a lock, and a rewritten LST. -/
theorem theArbiterGrantsEveryFreeResource : Obligations.TheArbiterGrantsEveryFreeResource := by
  refine ⟨fun s r x tie h => arbWinner_spec h, fun s r x tie ha hr he ho hw => arbBeat_grants ha hr he ho hw,
    fun s done reqs ha => arbBeat_satisfies done reqs ha, fun s r rq n hl ha ho => ⟨fun hn => ?_, fun hn => ?_⟩,
    fun s rq r lst ha hx => ?_, fun s rq r lst ha hx => ?_⟩
  · refine ⟨unlocked rq r s, by rw [exec_lockOver ha ho, if_pos hn], ?_, flagged_unlocked rq r hl, fun q hq => ?_⟩
    · rw [resOf_unlocked, if_pos rfl]
    · rw [resOf_unlocked, if_neg hq]
  · rw [exec_lockOver ha ho, if_neg (Nat.not_le.mpr hn)]
  · obtain ⟨x, hm, hrq, hres⟩ := hx
    have hany : s.arb.reqs.any (fun x => x.rq == rq && x.res == r) = true := List.any_eq_true.mpr ⟨x, hm, by simp [hrq, hres]⟩
    refine ⟨_, by rw [exec_lstRewrite rq r lst ha, if_pos hany], ?_, by simp⟩
    simp
  · have hany : ¬ s.arb.reqs.any (fun x => x.rq == rq && x.res == r) = true := by simpa using hx
    rw [exec_lstRewrite rq r lst ha, if_neg hany]

end Sys2Proof.Machine

/-!
The configuration block (R383, R386 to R392, R394): staging and slots, the scheduled activation, and parameter batches.
-/
namespace Sys2Proof.Machine

/-! ## CFG_CTRL (R394) -/

theorem cfgCtrl_of_imgLoad {s : State} {n : Nat} (op : Nat) (f : State → State) (h : imgLoad s n = true) : cfgCtrl n 0xC0F6 op f s = f s := by
  simp [cfgCtrl, validFn_of_imgLoad h, h]

/-- The batch operations ask for no right beyond the partition's validity. -/
theorem cfgCtrl_of_valid {s : State} {n op : Nat} (f : State → State) (h : validFn s n = true) (hop : op = 8 ∨ op = 9) :
    cfgCtrl n 0xC0F6 op f s = f s := by
  obtain rfl | rfl := hop <;> simp [cfgCtrl, h]

@[simp] theorem cfgFlag_cfg (b : Nat) (s : State) : (cfgFlag b s).cfg = s.cfg := setFlag_cfg ..

/-! ## Staging (R383, R386) -/

/-- Staging from source `src` has begun. -/
def stagingBegun (src : Nat) (s : State) : State :=
  count (CFG + 0x300) { s with cfg := { s.cfg with staging := some src, staged := none, stagedRaw := [], stagedSrc := 0 } }

theorem stage_begins {s : State} {n : Nat} (src : Nat) (hn : imgLoad s n = true) (hb : cfgBusy s = false) (hs : s.cfg.sched = none) :
    stage n 0xC0F6 src s = stagingBegun src s := by
  simp [stage, cfgCtrl_of_imgLoad _ _ hn, hb, hs, stagingBegun]

theorem stagingBegun_cfg (src : Nat) (s : State) : (stagingBegun src s).cfg.staging = some src ∧ (stagingBegun src s).cfg.staged = none ∧
    (stagingBegun src s).cfg.active = s.cfg.active := by simp [stagingBegun]

theorem slotBad_keeps (src reason : Nat) (s : State) : (slotBad src reason s).cfg.staging = s.cfg.staging ∧
    (slotBad src reason s).cfg.staged = s.cfg.staged ∧ (slotBad src reason s).cfg.active = s.cfg.active ∧
    (slotBad src reason s).hp.length = s.hp.length := by
  unfold slotBad modSlotN
  split
  · split <;> simp [cfgFlag]
  · exact ⟨rfl, rfl, rfl, rfl⟩

theorem loadDone_keeps (src : Nat) (r : LoadRes) (s : State) : (loadDone src r s).cfg.staging = s.cfg.staging ∧
    (loadDone src r s).cfg.staged = s.cfg.staged ∧ (loadDone src r s).cfg.active = s.cfg.active := by
  unfold loadDone
  dsimp only
  split <;> simp

/-- A load that fails a check sets CFG_FLAGS bit 0. -/
theorem flagged_loadDone (src : Nat) {r : LoadRes} {s : State} (hl : s.hp.length = 4) (hr : r.reason ≠ 0) :
    flagged (loadDone src r s) (CFG + 4) 0 := by
  simp only [loadDone, decide_eq_false hr, Bool.false_eq_true, if_false]
  exact flagged_raise (flagged_count (flagged_setFlag hl (by decide)))

/-- The result of a load from source `src` with the slots and the flags as it leaves them. -/
def loadShown (src : Nat) (r : LoadRes) (s : State) : State :=
  loadDone src r (slotBad src r.reason { s with cfg := { s.cfg with staging := none } })

theorem exec_stagingDone {s : State} {k : Nat} (ha : alive s = true) (hk : s.cfg.staging = some k) :
    exec .stagingDone s = .next (
      if (loadCheck s (sourceRaw s k) true).reason = 0 then
        { loadShown k (loadCheck s (sourceRaw s k) true) s with cfg := { (loadShown k (loadCheck s (sourceRaw s k) true) s).cfg with
            staged := some (parseImage (sourceRaw s k)), stagedRaw := sourceRaw s k, stagedSrc := k } }
      else loadShown k (loadCheck s (sourceRaw s k) true) s) := by
  change execStagingDone s = _
  rw [execStagingDone, act_of_alive _ ha, hk]
  rfl

theorem loadShown_spec (src : Nat) (r : LoadRes) {s : State} (hl : s.hp.length = 4) :
    (loadShown src r s).cfg.staging = none ∧ (loadShown src r s).cfg.staged = s.cfg.staged ∧
      (loadShown src r s).cfg.active = s.cfg.active ∧ (r.reason ≠ 0 → flagged (loadShown src r s) (CFG + 4) 0) := by
  obtain ⟨h1, h2, h3, h4⟩ := slotBad_keeps src r.reason { s with cfg := { s.cfg with staging := none } }
  obtain ⟨g1, g2, g3⟩ := loadDone_keeps src r (slotBad src r.reason { s with cfg := { s.cfg with staging := none } })
  exact ⟨g1.trans h1, g2.trans h2, g3.trans h3, flagged_loadDone src (h4.trans hl)⟩

theorem stagingDone_holds_or_flags {s : State} {k : Nat} (hl : s.hp.length = 4) (ha : alive s = true) (hk : s.cfg.staging = some k) :
    ∃ t, exec .stagingDone s = .next t ∧ t.cfg.staging = none ∧ t.cfg.active = s.cfg.active ∧
      if (loadCheck s (sourceRaw s k) true).reason = 0 then
        t.cfg.staged = some (parseImage (sourceRaw s k)) ∧ t.cfg.stagedRaw = sourceRaw s k
      else t.cfg.staged = s.cfg.staged ∧ flagged t (CFG + 4) 0 := by
  obtain ⟨h1, h2, h3, h4⟩ := loadShown_spec k (loadCheck s (sourceRaw s k) true) hl
  refine ⟨_, exec_stagingDone ha hk, ?_⟩
  by_cases hr : (loadCheck s (sourceRaw s k) true).reason = 0
  · rw [if_pos hr, if_pos hr]
    exact ⟨h1, h3, rfl, rfl⟩
  · rw [if_neg hr, if_neg hr]
    exact ⟨h1, h3, h2, h4 hr⟩

/-! ## Slots (R386) -/

theorem slotN_modSlotN_self (k : Nat) (f : Slot → Slot) (s : State) : slotN (modSlotN k f s) k = f (slotN s k) := by
  by_cases h : k = 0 <;> simp [slotN, modSlotN, h]

theorem slotN_congr {s t : State} (ha : t.cfg.slotA = s.cfg.slotA) (hb : t.cfg.slotB = s.cfg.slotB) (k : Nat) : slotN t k = slotN s k := by
  rw [slotN, slotN, ha, hb]

/-- The writing of `raw` into slot `k` has begun. -/
def slotWriting (k : Nat) (raw : List Byte) (s : State) : State :=
  let s := modSlotN k (fun _ => { state := 3, raw := [] }) s
  { s with cfg := { s.cfg with writing := some k, writeRaw := raw } }

theorem exec_writeSlot {s : State} {n k : Nat} (ha : alive s = true) (hn : imgLoad s n = true) (hb : cfgBusy s = false)
    (hk : k % 2 ≠ s.cfg.boot) (hst : s.cfg.staged.isSome = true) (hraw : s.cfg.stagedRaw ≠ []) :
    exec (.writeSlot n 0xC0F6 k) s = .next (slotWriting (k % 2) s.cfg.stagedRaw s) := by
  change execWriteSlot n 0xC0F6 k s = _
  simp [execWriteSlot, act_of_alive _ ha, cfgCtrl_of_imgLoad _ _ hn, hb, hk, hst, hraw, slotWriting]

theorem slotN_slotWriting (k : Nat) (raw : List Byte) (s : State) : slotN (slotWriting k raw s) k = { state := 3, raw := [] } :=
  (slotN_congr rfl rfl k).trans (slotN_modSlotN_self k _ s)

/-- The bytes stand in slot `k`, good or bad by their check word. -/
def slotWritten (k : Nat) (s : State) : State :=
  let raw := s.cfg.writeRaw
  let s := modSlotN k (fun _ => { state := if checkWordOk raw then 1 else 2, raw := raw }) s
  { s with cfg := { s.cfg with writing := none, writeRaw := [], volatile := s.cfg.volatile && !(checkWordOk raw && raw == s.cfg.activeRaw) } }

/-- The end of the write is counted, and a bad slot flagged. -/
def slotShown (k : Nat) (s : State) : State :=
  count (CFG + 0x314) (if checkWordOk s.cfg.writeRaw then slotWritten k s else cfgFlag 2 (slotWritten k s))

theorem exec_slotWriteDone {s : State} {k : Nat} (ha : alive s = true) (hk : s.cfg.writing = some k) : exec .slotWriteDone s =
    .next (raise 0x0E05 .all (leBytes 1 k ++ leBytes 1 (slotN (slotShown k s) k).state) (slotShown k s)) := by
  change execSlotWriteDone s = _
  rw [execSlotWriteDone, act_of_alive _ ha, hk]
  rfl

theorem slotWriteDone_decides {s : State} {k : Nat} (ha : alive s = true) (hk : s.cfg.writing = some k) :
    ∃ t, exec .slotWriteDone s = .next t ∧ t.cfg.writing = none ∧ (slotN t k).raw = s.cfg.writeRaw ∧
      (slotN t k).state = (if checkWordOk s.cfg.writeRaw then 1 else 2) := by
  refine ⟨_, exec_slotWriteDone ha hk, ?_⟩
  have hcfg : (raise 0x0E05 .all (leBytes 1 k ++ leBytes 1 (slotN (slotShown k s) k).state) (slotShown k s)).cfg = (slotWritten k s).cfg := by
    rw [raise_cfg, slotShown, count_cfg]
    split <;> simp
  have hslot : slotN (slotWritten k s) k = { state := if checkWordOk s.cfg.writeRaw then 1 else 2, raw := s.cfg.writeRaw } :=
    (slotN_congr rfl rfl k).trans (slotN_modSlotN_self k _ s)
  rw [slotN_congr (congrArg Cfg.slotA hcfg) (congrArg Cfg.slotB hcfg) k, hcfg, hslot]
  exact ⟨rfl, rfl, rfl⟩

theorem exec_setBootSlot {s : State} {n : Nat} (k : Nat) (ha : alive s = true) (hn : imgLoad s n = true) : exec (.setBootSlot n 0xC0F6 k) s =
    .next (if (slotN s (k % 2)).state ≠ 1 then cfgRefuse 7 27 s else { s with cfg := { s.cfg with boot := k % 2 } }) := by
  change execSetBootSlot n 0xC0F6 k s = _
  rw [execSetBootSlot, act_of_alive _ ha, cfgCtrl_of_imgLoad _ _ hn]

theorem exec_discardStaged {s : State} {n : Nat} (ha : alive s = true) (hn : imgLoad s n = true) (hst : s.cfg.staged.isSome = true)
    (hs : s.cfg.sched = none) :
    exec (.discardStaged n 0xC0F6) s = .next { s with cfg := { s.cfg with staged := none, stagedRaw := [], stagedSrc := 0 } } := by
  change execDiscardStaged n 0xC0F6 s = _
  rw [execDiscardStaged, act_of_alive _ ha, cfgCtrl_of_imgLoad _ _ hn, hs, if_neg (by simp [Option.isSome_iff_ne_none.mp hst])]
  rfl

/-- Settles O45: staging from each source, its end, the writing of a slot and its end, the boot slot, and a discarded image. -/
theorem stagingAndSlots : Obligations.StagingAndSlots := by
  have begins {f : State → Out} {s : State} {n : Nat} (src : Nat) (ha : alive s = true) (hn : imgLoad s n = true) (hb : cfgBusy s = false)
      (hs : s.cfg.sched = none) (hf : f s = act s (stage n 0xC0F6 src)) :
      ∃ t, f s = .next t ∧ t.cfg.staging = some src ∧ t.cfg.staged = none ∧ t.cfg.active = s.cfg.active :=
    ⟨stagingBegun src s, by rw [hf, act_of_alive _ ha, stage_begins src hn hb hs], stagingBegun_cfg src s⟩
  refine ⟨fun s n ha hn hb hs => ⟨begins 1 ha hn hb hs (f := exec _) rfl, begins 2 ha hn hb hs (f := exec _) rfl,
    begins 3 ha hn hb hs (f := exec _) rfl⟩, fun s k hl ha hk => stagingDone_holds_or_flags hl ha hk,
    fun s n k ha hn hb hk hst hraw => ⟨_, exec_writeSlot ha hn hb hk hst hraw, rfl, rfl, by rw [slotN_slotWriting]⟩,
    fun s k ha hk => slotWriteDone_decides ha hk, fun s n k ha hn => ⟨fun h => ?_, fun h => ?_⟩, fun s n ha hn hst hs => exec_discardStaged ha hn hst hs⟩
  · rw [exec_setBootSlot k ha hn, if_neg (not_not.mpr h)]
  · rw [exec_setBootSlot k ha hn, if_pos h]

/-! ## Scheduling (R387) -/

theorem exec_scheduleActivation {s : State} {n : Nat} {im : Image} (ha : alive s = true) (hn : imgLoad s n = true)
    (hst : s.cfg.staged = some im) (hsrc : s.cfg.src ≠ 0) (hs : s.cfg.sched = none) (hr : schedRefused s im (argSecond s n) = false) :
    exec (.scheduleActivation n 0xC0F6) s = .next (raise 0x0E03 .all (leBytes 4 im.vintage ++ leBytes 8 (argSecond s n))
      { s with cfg := { s.cfg with sched := some (argSecond s n) } }) := by
  change execScheduleActivation n 0xC0F6 s = _
  simp [execScheduleActivation, act_of_alive _ ha, cfgCtrl_of_imgLoad _ _ hn, hst, hsrc, hs, hr]

theorem two_seconds_ahead {s : State} {im : Image} {t : Nat} (h : schedRefused s im t = false) : taiSec s + 2 ≤ t := by
  simp only [schedRefused, Bool.or_eq_false_iff, decide_eq_false_iff_not, not_or] at h
  omega

/-- No output stream shows a pending configuration change. -/
def pendCleared (s : State) : State :=
  (List.range 256).foldl (fun s n => if (osOf s n).cfgPend then modOs n (fun r => { r with cfgPend := false }) s else s) s

theorem exec_cancelActivation {s : State} {n sec : Nat} (ha : alive s = true) (hn : imgLoad s n = true) (hs : s.cfg.sched = some sec)
    (hsec : s.tb.now + 1000000000 ≤ sec * 1000000000) : exec (.cancelActivation n 0xC0F6) s =
      .next (raise 0x0E04 .all [] { pendCleared s with cfg := { (pendCleared s).cfg with sched := none } }) := by
  change execCancelActivation n 0xC0F6 s = _
  rw [execCancelActivation, act_of_alive _ ha, cfgCtrl_of_imgLoad _ _ hn, hs]
  dsimp only
  rw [if_neg (Nat.not_lt.mpr hsec)]
  simp only [pendCleared]

theorem pendCleared_spec (s : State) : (pendCleared s).cfg = s.cfg ∧ ∀ k, k < 256 → (osOf (pendCleared s) k).cfgPend = false := by
  have step (s : State) (n k : Nat) (h : k = n ∨ (osOf s k).cfgPend = false) :
      (osOf (if (osOf s n).cfgPend then modOs n (fun r => { r with cfgPend := false }) s else s) k).cfgPend = false := by
    split
    next => by_cases hk : k = n <;> simp_all [osOf_modOs]
    next hp => obtain rfl | h := h <;> simp_all
  have clears (l : List Nat) (s : State) (k : Nat) (h : k ∈ l ∨ (osOf s k).cfgPend = false) : (osOf (l.foldl
      (fun s n => if (osOf s n).cfgPend then modOs n (fun r => { r with cfgPend := false }) s else s) s) k).cfgPend = false := by
    induction l generalizing s with
    | nil => simpa using h
    | cons n l ih =>
      refine ih _ ?_
      simp only [List.mem_cons] at h
      obtain (h | h) | h := h
      · exact .inr (step s n k (.inl h))
      · exact .inl h
      · exact .inr (step s n k (.inr h))
  constructor
  · unfold pendCleared
    generalize List.range 256 = l
    induction l generalizing s with
    | nil => rfl
    | cons n l ih =>
      rw [List.foldl_cons, ih]
      split <;> rfl
  · exact fun k hk => clears _ s k (.inl (List.mem_range.mpr hk))

theorem osOf_withCfg (c : Cfg) (s : State) (k : Nat) : osOf { s with cfg := c } k = osOf s k := rfl

theorem cancelActivation_cancels {s : State} {n sec : Nat} (ha : alive s = true) (hn : imgLoad s n = true) (hs : s.cfg.sched = some sec)
    (hsec : s.tb.now + 1000000000 ≤ sec * 1000000000) : ∃ t, exec (.cancelActivation n 0xC0F6) s = .next t ∧ t.cfg.sched = none ∧
      (∀ k, k < 256 → (osOf t k).cfgPend = false) ∧ t.cfg.staged = s.cfg.staged := by
  obtain ⟨hcfg, hpend⟩ := pendCleared_spec s
  refine ⟨_, exec_cancelActivation ha hn hs hsec, by simp, fun k hk => ?_, by simp [hcfg]⟩
  rw [osOf_raise, osOf_withCfg]
  exact hpend k hk

/-! ## The activation (R388) -/

/-- The groups whose portions differ between two vintages. -/
def changedGroups (a b : Image) : List Nat := (List.range 64).filter (fun g => !(groupPortion a g == groupPortion b g))

/-- What was triggered before the activation has run under the old vintage, and the takes that the new one does not keep have ended. -/
def takesEnded (im : Image) (sec : Nat) (s : State) : State :=
  let a := s.cfg.active
  let rs := changedIn a im secCAP_REC recPortion
  let cut := (imValid a secCAP_REC).filter (fun r => rs.contains r || (!recWave a r && (changedGroups a im).contains (recGroup a r)))
  cut.foldl (fun s r => truncateTake r (drainRec r s)) (drain (sec * tps s) (applyCommits s))

/-- The part of an activation before the swap: what the new vintage does not keep ends. -/
def oldEnded (im : Image) (sec : Nat) (s : State) : State :=
  let a := s.cfg.active
  tasksOut (changedIn a im secSCH_TASK taskPortion) (pointsOut (changedIn a im secMTR_POINT (recPortion1 secMTR_POINT))
    ((changedGroups a im).foldl (fun s g => scanDiscard g s) (takesEnded im sec s)))

/-- The part after the swap from vintage `a`, with the open instants of the groups that changed and the authority before: every block begins
what the new vintage gives it. -/
def newBegun (a im : Image) (was : Bool) (t ns sec : Nat) (opened : List (Nat × Nat)) (s : State) : State :=
  let s := (changedIn a im secSTREAM_DIR (recPortion1 secSTREAM_DIR)).foldl (fun s n => strmRestart (tcpKept a im n) n s) s
  let s := opened.foldl (fun s e => groupRestart t e s) s
  let s := islActivate a t (oscActivate a t (svActivate a ns s))
  let s := recsIn (changedIn a im secCAP_REC recPortion) t ns (tasksIn a (changedIn a im secSCH_TASK taskPortion) s)
  let s := ((imValid a secMTR_POINT ++ imValid im secMTR_POINT).eraseDups).foldl (fun s p => mtrActivate a sec p s) s
  let s := portsActivate a (pubActivate a s)
  let s := if (List.range 192).all (fun k => imgReg a (PAIR + 4 * k) == imgReg im (PAIR + 4 * k)) then s else authSwap was (pairStart s)
  rightsActivate a s

theorem activate_eq (im : Image) (sec : Nat) (s : State) : activate im sec s =
    newBegun s.cfg.active im (authority s) (sec * tps s) (sec * 1000000000) sec
      (oldGroups (changedGroups s.cfg.active im) (takesEnded im sec s))
      (activated s.cfg.active.vintage (swapImage im (oldEnded im sec s))) := by
  simp only [activate, newBegun, oldEnded, takesEnded, changedGroups]

theorem foldl_cfg {α : Type} {f : State → α → State} (hf : ∀ s a, (f s a).cfg = s.cfg) (l : List α) (s : State) : (l.foldl f s).cfg = s.cfg := by
  induction l generalizing s with
  | nil => rfl
  | cons a l ih => rw [List.foldl_cons, ih, hf]

/-- The end of the old vintage's work leaves the staged image. -/
theorem oldEnded_stagedRaw (im : Image) (sec : Nat) (s : State) : (oldEnded im sec s).cfg.stagedRaw = s.cfg.stagedRaw := by
  have hdrain (t : Nat) (s : State) : (drain t s).cfg = s.cfg := (kept_drain (Nat.and_self _) (Kept.refl s)).fr.cfg rfl
  have hcut (s : State) (r : Nat) : (truncateTake r (drainRec r s)).cfg = s.cfg :=
    ((kept_truncateTake (Nat.and_self _) (Kept.refl _)).fr.cfg rfl).trans ((kept_drainRec (Nat.and_self _) (Kept.refl s)).fr.cfg rfl)
  have hscan (s : State) (g : Nat) : (scanDiscard g s).cfg = s.cfg := (kept_scanDiscard (Nat.and_self _) (Kept.refl s)).fr.cfg rfl
  have htasks (l : List Nat) (s : State) : (tasksOut l s).cfg = s.cfg := (kept_tasksOut (Nat.and_self _) (Kept.refl s)).fr.cfg rfl
  have hpoints (l : List Nat) (s : State) : (pointsOut l s).cfg = s.cfg := (kept_pointsOut (Nat.and_self _) (Kept.refl s)).fr.cfg rfl
  have hcommits : (applyCommits s).cfg.stagedRaw = s.cfg.stagedRaw :=
    congrArg (fun x => x.2.1) ((kept_applyCommits (Nat.and_self _) (Kept.refl s)).fr.staged rfl)
  simp only [oldEnded, takesEnded, htasks, hpoints, foldl_cfg hscan, foldl_cfg hcut, hdrain, hcommits]

/-- The vintage in force, its bytes, and nothing staged or scheduled. -/
structure InForce (im : Image) (raw : List Byte) (c : Cfg) : Prop where
  active : c.active = im
  activeRaw : c.activeRaw = raw
  staged : c.staged = none
  sched : c.sched = none

theorem inForce_swapImage (im : Image) (s : State) : InForce im s.cfg.stagedRaw (swapImage im s).cfg := by
  unfold swapImage bootFollows
  dsimp only
  split
  · exact ⟨rfl, rfl, rfl, rfl⟩
  · split <;> exact ⟨rfl, rfl, rfl, rfl⟩

theorem activated_cfg (old : Nat) (s : State) : (activated old s).cfg = s.cfg := by simp [activated]

/-- The tuned values that the new vintage keeps are all that a task's restart changes of the block. -/
theorem InForce.tasksIn {im : Image} {raw : List Byte} {s : State} (a : Image) (l : List Nat) (h : InForce im raw s.cfg) :
    InForce im raw (tasksIn a l s).cfg := by
  have hreset (s : State) (t : Nat) : (taskReset t s).cfg = s.cfg := (kept_taskReset (Nat.and_self _) (Kept.refl s)).fr.cfg rfl
  have hfold := foldl_cfg hreset l s
  unfold Machine.tasksIn
  exact ⟨(congrArg Cfg.active hfold).trans h.active, (congrArg Cfg.activeRaw hfold).trans h.activeRaw,
    (congrArg Cfg.staged hfold).trans h.staged, (congrArg Cfg.sched hfold).trans h.sched⟩

theorem InForce.newBegun {im : Image} {raw : List Byte} {s : State} (a b : Image) (was : Bool) (t ns sec : Nat) (opened : List (Nat × Nat))
    (h : InForce im raw s.cfg) : InForce im raw (newBegun a b was t ns sec opened s).cfg := by
  have hstrm (s : State) (n : Nat) : (strmRestart (tcpKept a b n) n s).cfg = s.cfg := (kept_strmRestart (Nat.and_self _) (Kept.refl s)).fr.cfg rfl
  have hgroup (s : State) (e : Nat × Nat) : (groupRestart t e s).cfg = s.cfg := (kept_groupRestart (Nat.and_self _) (Kept.refl s)).fr.cfg rfl
  have hsv (s : State) : (svActivate a ns s).cfg = s.cfg := (kept_svActivate (Nat.and_self _) (Kept.refl s)).fr.cfg rfl
  have hosc (s : State) : (oscActivate a t s).cfg = s.cfg := (kept_oscActivate (Nat.and_self _) (Kept.refl s)).fr.cfg rfl
  have hisl (s : State) : (islActivate a t s).cfg = s.cfg := (kept_islActivate (Nat.and_self _) (Kept.refl s)).fr.cfg rfl
  have hrecs (l : List Nat) (s : State) : (recsIn l t ns s).cfg = s.cfg := (kept_recsIn (Nat.and_self _) (Kept.refl s)).fr.cfg rfl
  have hmtr (s : State) (p : Nat) : (mtrActivate a sec p s).cfg = s.cfg := (kept_mtrActivate (Nat.and_self _) (Kept.refl s)).fr.cfg rfl
  have hpub (s : State) : (pubActivate a s).cfg = s.cfg := (kept_pubActivate (Nat.and_self _) (Kept.refl s)).fr.cfg rfl
  have hports (s : State) : (portsActivate a s).cfg = s.cfg := (kept_portsActivate (Nat.and_self _) (Kept.refl s)).fr.cfg rfl
  have hauth (c : Prop) [Decidable c] (s : State) : (if c then s else authSwap was (pairStart s)).cfg = s.cfg := by
    split
    · rfl
    · exact ((kept_authSwap (Nat.and_self _) (Kept.refl _)).fr.cfg rfl).trans ((kept_pairStart (Nat.and_self _) (Kept.refl s)).fr.cfg rfl)
  have hrights (s : State) : (rightsActivate a s).cfg = s.cfg := (kept_rightsActivate (Nat.and_self _) (Kept.refl s)).fr.cfg rfl
  simp only [Machine.newBegun, hrights, hauth, hports, hpub, foldl_cfg hmtr, hrecs]
  refine InForce.tasksIn _ _ ?_
  simpa only [hisl, hosc, hsv, foldl_cfg hgroup, foldl_cfg hstrm] using h

theorem inForce_activate (im : Image) (sec : Nat) (s : State) : InForce im s.cfg.stagedRaw (activate im sec s).cfg := by
  rw [activate_eq]
  refine InForce.newBegun _ _ _ _ _ _ _ ?_
  rw [activated_cfg, ← oldEnded_stagedRaw im sec s]
  exact inForce_swapImage im _

theorem exec_activation {s : State} {sec : Nat} {im : Image} (ha : alive s = true) (hs : s.cfg.sched = some sec) (hst : s.cfg.staged = some im) :
    exec .activation s = .next (if hasTime s && decide (sec * tps s ≤ s.tb.grid) then activate im sec s else s) := by
  change execActivation s = _
  rw [execActivation, act_of_alive _ ha, hs, hst]

theorem exec_activation_early {s : State} {sec : Nat} (ha : alive s = true) (hs : s.cfg.sched = some sec) (hg : s.tb.grid < sec * tps s) :
    exec .activation s = .next s := by
  cases hst : s.cfg.staged with
  | none =>
    change execActivation s = _
    rw [execActivation, act_of_alive _ ha, hs, hst]
  | some im =>
    rw [exec_activation ha hs hst, decide_eq_false (Nat.not_le.mpr hg), Bool.and_false]
    rfl

/-- Settles O46: the second scheduled, cancelled, and come, and before it. -/
theorem schedulingAndActivation : Obligations.SchedulingAndActivation := by
  refine ⟨fun s n im ha hn hst hsrc hs hr => ⟨_, exec_scheduleActivation ha hn hst hsrc hs hr, by simp, two_seconds_ahead hr, by simp, by simp [hst]⟩,
    fun s n sec ha hn hs hsec => cancelActivation_cancels ha hn hs hsec, fun s sec im ha hs hst ht hg => ?_,
    fun s sec ha hs hg => exec_activation_early ha hs hg⟩
  obtain ⟨hactive, hraw, hstaged, hsched⟩ := inForce_activate im sec s
  refine ⟨activate im sec s, ?_, hactive, hraw, hstaged, hsched⟩
  rw [exec_activation ha hs hst, ht, decide_eq_true hg]
  rfl

/-! ## Batches (R390 to R392) -/

theorem batch_congr {s t : State} (h : t.hp.map (fun f => (f.batch, f.batVint, f.batLast, f.batReason)) =
    s.hp.map (fun f => (f.batch, f.batVint, f.batLast, f.batReason))) (n : Nat) :
    (fnOf t n).batch = (fnOf s n).batch ∧ (fnOf t n).batLast = (fnOf s n).batLast ∧ (fnOf t n).batReason = (fnOf s n).batReason := by
  have := fnOf_congr (fun f => (f.batch, f.batVint, f.batLast, f.batReason)) h n
  simp only [Prod.mk.injEq] at this
  exact ⟨this.1, this.2.2.1, this.2.2.2⟩

theorem batch_raise (code : Nat) (o : EvObj) (a : List Byte) (s : State) (n : Nat) : (fnOf (raise code o a s) n).batch = (fnOf s n).batch ∧
    (fnOf (raise code o a s) n).batLast = (fnOf s n).batLast ∧ (fnOf (raise code o a s) n).batReason = (fnOf s n).batReason :=
  batch_congr ((kept_raise (Nat.and_self _) (Kept.refl s)).fr.hpBatch rfl) n

theorem batch_flagCount (reg b off : Nat) (s : State) (n : Nat) : (fnOf (flagCount reg b off s) n).batch = (fnOf s n).batch ∧
    (fnOf (flagCount reg b off s) n).batLast = (fnOf s n).batLast ∧ (fnOf (flagCount reg b off s) n).batReason = (fnOf s n).batReason :=
  batch_congr ((kept_flagCount (Nat.and_self _) (Kept.refl s)).fr.hpBatch rfl) n

theorem exec_cfgBatValWrite {s : State} {n : Nat} {v : Word} (ha : alive s = true) (hv : validFn s n = true)
    (hl : (batchPut (fnOf s n).batch (fld (fnReg s n (CFG + 0x50)) 13 0) v).length ≤ 256) : exec (.cfgBatValWrite n v) s =
      .next (modFn s n (fun f => { f with
        batch := batchPut (fnOf s n).batch (fld (fnReg s n (CFG + 0x50)) 13 0) v
        batVint := if f.batch.isEmpty then s.cfg.active.vintage else f.batVint })) := by
  change execCfgBatValWrite n v s = _
  simp only [execCfgBatValWrite, act_of_alive _ ha, hv, batchAppend, if_neg (Nat.not_lt.mpr hl)]
  rfl

theorem exec_commitBatch {s : State} {n : Nat} (ha : alive s = true) (hv : validFn s n = true) :
    exec (.commitBatch n 0xC0F6) s = .next (commitBatch n s).1 := by
  change execCommitBatch n 0xC0F6 s = _
  rw [execCommitBatch, act_of_alive _ ha, cfgCtrl_of_valid _ hv (.inl rfl)]

/-- The buffer of function `n` is handed over. -/
def handedOver (n : Nat) (s : State) : State :=
  modFn { s with cfg := { s.cfg with commits := s.cfg.commits ++ [{ fn := n, tick := s.tb.tick, entries := (fnOf s n).batch }] } } n
    (fun f => { f with batch := [], batLast := 1, batReason := 0 })

theorem fnOf_handedOver {s : State} {n : Nat} (hn : n < s.hp.length) :
    fnOf (handedOver n s) n = { fnOf s n with batch := [], batLast := 1, batReason := 0 } :=
  (fnOf_modFn _ n n _ hn).trans (if_pos rfl)

theorem commitBatch_of_no_fault {s : State} {n : Nat} (h : commitFault s n = none) : (commitBatch n s).1 = handedOver n s := by
  rw [commitBatch, h]
  rfl

theorem commitBatch_of_fault {s : State} {n r i : Nat} (h : commitFault s n = some (r, i)) : (commitBatch n s).1 = batchRefused n r i s := by
  rw [commitBatch, h]

theorem batchRefused_spec {s : State} {n : Nat} (r i : Nat) (hn : n < s.hp.length) : (fnOf (batchRefused n r i s) n).batLast = 2 ∧
    (fnOf (batchRefused n r i s) n).batReason = r ∧ (batchRefused n r i s).cfg = s.cfg ∧
    (fnOf (batchRefused n r i s) n).batch = (fnOf s n).batch := by
  obtain ⟨r1, r2, r3⟩ := batch_raise 0x0E07 .all (leBytes 1 r ++ leBytes 2 i)
    (flagCount (CFG + 4) 3 (CFG + 0x310) (modFn s n (fun f => { f with batLast := 2, batReason := r }))) n
  obtain ⟨c1, c2, c3⟩ := batch_flagCount (CFG + 4) 3 (CFG + 0x310) (modFn s n (fun f => { f with batLast := 2, batReason := r })) n
  have hf := fnOf_modFn s n n (fun f => { f with batLast := 2, batReason := r }) hn
  rw [if_pos rfl] at hf
  refine ⟨?_, ?_, by simp [batchRefused], ?_⟩
  · rw [batchRefused, r2, c2, hf]
  · rw [batchRefused, r3, c3, hf]
  · rw [batchRefused, r1, c1, hf]

theorem exec_emptyBatch {s : State} {n : Nat} (ha : alive s = true) (hv : validFn s n = true) :
    exec (.emptyBatch n 0xC0F6) s = .next (modFn s n (fun f => { f with batch := [] })) := by
  change execEmptyBatch n 0xC0F6 s = _
  rw [execEmptyBatch, act_of_alive _ ha, cfgCtrl_of_valid _ hv (.inr rfl)]

/-- The values that a batch gives to the records it names. -/
def tuned (b : Batch) (m : FMap Word) : FMap Word := b.entries.foldl (fun m e => fset m e.1 e.2) m

theorem applyBatch_cfg (b : Batch) (s : State) : (applyBatch b s).cfg = { s.cfg with batNum := s.cfg.batNum + 1, pars := tuned b s.cfg.pars } := by
  have htask (s : State) (t : Nat) : (taskCount t 5 s).cfg = s.cfg := (kept_taskCount (Nat.and_self _) (Kept.refl s)).fr.cfg rfl
  have hflag (s : State) : (schFlag 4 s).cfg = s.cfg := setFlag_cfg ..
  simp only [applyBatch, count_cfg, raise_cfg, hflag, foldl_cfg htask]
  rfl

/-- No commit is due: nothing takes force. -/
theorem applyCommits_of_none {s : State} (h : ∀ b ∈ s.cfg.commits, s.tb.tick ≤ b.tick) : applyCommits s = s := by
  have hnone : s.cfg.commits.filter (fun b => decide (b.tick < s.tb.tick)) = [] :=
    List.filter_eq_nil_iff.mpr fun b hb => by simpa using h b hb
  rw [applyCommits, hnone]
  rfl

theorem applyCommits_of_one {s : State} {b : Batch} (hc : s.cfg.commits = [b]) (ht : b.tick < s.tb.tick) (hf : b.fn < 4) :
    applyCommits s = savePars (applyBatch b { s with cfg := { s.cfg with commits := [] } }) := by
  have hdue : s.cfg.commits.filter (fun b => decide (b.tick < s.tb.tick)) = [b] := by simp [hc, ht]
  have hleft : s.cfg.commits.filter (fun b => decide (s.tb.tick ≤ b.tick)) = [] := by simp [hc, ht]
  have hfn : b.fn = 0 ∨ b.fn = 1 ∨ b.fn = 2 ∨ b.fn = 3 := by omega
  simp only [applyCommits, hdue, hleft]
  obtain h | h | h | h := hfn <;> simp [h]

theorem exec_batchApply {s : State} (ha : alive s = true) : exec .batchApply s = .next (applyCommits s) := act_of_alive _ ha

/-- Settles O47: a value collected, a commit taken or refused, a buffer emptied, and a commit in force after its tick and not before. -/
theorem parameterBatches : Obligations.ParameterBatches := by
  refine ⟨fun s n v hl ha hv hlen => ?_, fun s n hl ha hv hok => ?_, fun s n r i hl ha hv hr => ?_, fun s n hl ha hv => ?_,
    fun s b ha hc ht hf => ?_, fun s ha h => by rw [exec_batchApply ha, applyCommits_of_none h]⟩
  · have hn := lt_length_of_validFn hl hv
    refine ⟨_, exec_cfgBatValWrite ha hv hlen, by rw [fnOf_modFn _ _ _ _ hn, if_pos rfl], fun m hm => by rw [fnOf_modFn _ _ _ _ hn, if_neg hm]⟩
  · have hn := lt_length_of_validFn hl hv
    exact ⟨handedOver n s, by rw [exec_commitBatch ha hv, commitBatch_of_no_fault hok], by rw [fnOf_handedOver hn],
      by rw [fnOf_handedOver hn], rfl, rfl⟩
  · obtain ⟨hlast, hreason, hcfg, hbatch⟩ := batchRefused_spec r i (lt_length_of_validFn hl hv)
    exact ⟨_, by rw [exec_commitBatch ha hv, commitBatch_of_fault hr], hlast, hreason, congrArg Cfg.commits hcfg, hbatch⟩
  · exact ⟨_, exec_emptyBatch ha hv, by rw [fnOf_modFn _ _ _ _ (lt_length_of_validFn hl hv), if_pos rfl], rfl⟩
  · refine ⟨_, exec_batchApply ha, ?_⟩
    rw [applyCommits_of_one hc ht hf, savePars, applyBatch_cfg]
    exact ⟨rfl, rfl, rfl, rfl⟩

end Sys2Proof.Machine

/-!
Commands of the host (R400, R405 to R407, R412, R413): what a completion writes, a command that is fetched, run or refused, and fences.
-/
namespace Sys2Proof.Machine

/-! ## Registers of a function under counts and flags -/

/-- The half-range flags of the HIF counters lie in one register. -/
theorem fnReg_countFn_of_ne {n k b o : Nat} {s : State} (hn : n < s.hp.length) (hk : halfFlag (HIF + k) = some (HIF + 0x10, b))
    (ho : o ≠ HIF + 0x10) (win m : Nat) : fnReg (countFn n (HIF + k) win s) m o = fnReg s m o := by
  have hlen (a : List Byte) (u : State) : (raiseIn 0xF 0x0310 (.fnOnly n) a u).hp.length = u.hp.length := by
    simpa only [List.length_map] using congrArg List.length (regs_raiseIn 0xF 0x0310 (.fnOnly n) a u)
  have hm (v : Word) : fnReg (modFn s n (fun f => { f with ctr := fset f.ctr (HIF + k) v })) m o = fnReg s m o :=
    fnReg_modFn_of_regs _ _ _ _ _ fun _ => rfl
  unfold countFn
  dsimp only
  split
  · rw [hk]
    dsimp only
    rw [setFlag1, fnReg_setFnReg _ _ _ _ _ _ (by rw [hlen]; simpa [modFn] using hn), if_neg (fun h => ho h.2), fnReg_raiseIn, hm]
  · exact hm _

theorem fnReg_hifFlag_of_ne {n b o : Nat} {s : State} (hn : n < s.hp.length) (ho : o ≠ 0x10000C) (m : Nat) :
    fnReg (hifFlag n b s) m o = fnReg s m o := by
  rw [hifFlag, fnReg_irqPend, setFlag1, fnReg_setFnReg _ _ _ _ _ _ hn, if_neg (fun h => ho h.2)]

@[simp] theorem length_modFn (s : State) (n : Nat) (f : Fn → Fn) : (modFn s n f).hp.length = s.hp.length := by simp [modFn]
@[simp] theorem length_irqPend (n src : Nat) (s : State) : (irqPend n src s).hp.length = s.hp.length := length_modFn ..
@[simp] theorem length_setHif (n off v : Nat) (s : State) : (setHif n off v s).hp.length = s.hp.length := length_setFnReg ..

theorem fnOf_modFn_self {s : State} {n : Nat} (f : Fn → Fn) (hn : n < s.hp.length) : fnOf (modFn s n f) n = f (fnOf s n) := by
  rw [fnOf_modFn _ _ _ _ hn, if_pos rfl]

theorem fnOf_modFn_of_ne {s : State} {n m : Nat} (h : m ≠ n) (f : Fn → Fn) : fnOf (modFn s n f) m = fnOf s m := by
  simp only [fnOf, modFn, List.getD_eq_getElem?_getD, List.getElem?_modify, if_neg h.symm]
  simp

/-- A write to a register of a function leaves its command and its rings. -/
theorem fnOf_setHif {β : Type} {g : Fn → β} (hg : ∀ f r, g { f with regs := r } = g f) {n off : Nat} {s : State} (v : Nat)
    (hn : n < s.hp.length) : g (fnOf (setHif n off v s) n) = g (fnOf s n) := by
  rw [setHif, setFnReg, fnOf_modFn_self _ hn, hg]

theorem cur_setHif {n off : Nat} {s : State} (v : Nat) (hn : n < s.hp.length) : (fnOf (setHif n off v s) n).cur = (fnOf s n).cur :=
  fnOf_setHif (g := Fn.cur) (fun _ _ => rfl) v hn

theorem cplRing_setHif {n off : Nat} {s : State} (v : Nat) (hn : n < s.hp.length) :
    (fnOf (setHif n off v s) n).cplRing = (fnOf s n).cplRing :=
  fnOf_setHif (g := Fn.cplRing) (fun _ _ => rfl) v hn

/-! ## What a completion writes (R405 to R407) -/

theorem lt_of_cur {s : State} {n : Nat} {c : Cmd} (h : (fnOf s n).cur = some c) : n < s.hp.length := by
  by_contra hn
  rw [fnOf, List.getD_eq_getElem?_getD, List.getElem?_eq_none (Nat.not_lt.mp hn)] at h
  simp at h

/-- The command and completion parts of a function. -/
theorem cmd_congr {s t : State} (h : t.hp.map (fun f => (f.cur, f.cplPhase, f.cplRing, f.dma)) =
    s.hp.map (fun f => (f.cur, f.cplPhase, f.cplRing, f.dma))) (n : Nat) : (fnOf t n).cur = (fnOf s n).cur ∧
      (fnOf t n).cplPhase = (fnOf s n).cplPhase ∧ (fnOf t n).cplRing = (fnOf s n).cplRing ∧ (fnOf t n).dma = (fnOf s n).dma := by
  have := fnOf_congr (fun f => (f.cur, f.cplPhase, f.cplRing, f.dma)) h n
  simpa only [Prod.mk.injEq] using this

theorem cmd_countFn (n off win : Nat) (s : State) (m : Nat) : (fnOf (countFn n off win s) m).cur = (fnOf s m).cur ∧
    (fnOf (countFn n off win s) m).cplPhase = (fnOf s m).cplPhase ∧ (fnOf (countFn n off win s) m).cplRing = (fnOf s m).cplRing ∧
    (fnOf (countFn n off win s) m).dma = (fnOf s m).dma :=
  cmd_congr ((kept_countFn (Nat.and_self _) (Kept.refl s)).fr.hpCmd rfl) m

theorem cmd_irqPend (n src : Nat) (s : State) (m : Nat) : (fnOf (irqPend n src s) m).cur = (fnOf s m).cur ∧
    (fnOf (irqPend n src s) m).cplPhase = (fnOf s m).cplPhase ∧ (fnOf (irqPend n src s) m).cplRing = (fnOf s m).cplRing ∧
    (fnOf (irqPend n src s) m).dma = (fnOf s m).dma :=
  cmd_congr ((kept_irqPend (Nat.and_self _) (Kept.refl s)).fr.hpCmd rfl) m

theorem cmd_hifFlag (n b : Nat) (s : State) (m : Nat) : (fnOf (hifFlag n b s) m).cur = (fnOf s m).cur ∧
    (fnOf (hifFlag n b s) m).cplPhase = (fnOf s m).cplPhase ∧ (fnOf (hifFlag n b s) m).cplRing = (fnOf s m).cplRing ∧
    (fnOf (hifFlag n b s) m).dma = (fnOf s m).dma :=
  cmd_congr ((kept_hifFlag (Nat.and_self _) (Kept.refl s)).fr.hpCmd rfl) m

/-- The command of function `n` is taken off. -/
def cmdOff (n : Nat) (s : State) : State := modFn s n (fun f => { f with cur := none })

/-- The completion of command `c` stands at the tail of the completion queue of function `n`. -/
def cplPlaced (n : Nat) (c : Cmd) (status r0 r1 : Nat) (s : State) : State :=
  let size := ringSize (hif s n 0x68) 4
  let t := (hif s n 0x70).toNat % size
  let t' := (t + 1) % size
  setHif n 0x70 t' (modFn s n (fun f => { f with
    cplRing := fset f.cplRing t (cplBytes c status (hif s n 0x50).toNat (fnOf s n).cplPhase r0 r1)
    cplPhase := if t' = 0 then !(fnOf s n).cplPhase else (fnOf s n).cplPhase }))

/-- A completion is counted and its interrupt pending. -/
def cplNoted (n status : Nat) (s : State) : State :=
  let s := irqPend n 0 (countFn n (HIF + 0x308) 0xFFFF s)
  if status = 0 then s else hifFlag n 1 (countFn n (HIF + 0x30C) 0xFFFF s)

theorem hif_cmdOff (n : Nat) (s : State) (m o : Nat) : hif (cmdOff n s) m o = hif s m o := fnReg_modFn_of_regs _ _ _ _ _ fun _ => rfl

theorem complete_of_cur {s : State} {n : Nat} {c : Cmd} (status r0 r1 : Nat) (h : (fnOf s n).cur = some c) :
    complete n status r0 r1 s = if c.silent || !bit (hif s n 0x68) 31 then cmdOff n s
      else cplNoted n status (cplPlaced n c status r0 r1 (cmdOff n s)) := by
  rw [← hif_cmdOff n s, complete, h]
  rfl

theorem complete_of_none {s : State} {n : Nat} (status r0 r1 : Nat) (h : (fnOf s n).cur = none) : complete n status r0 r1 s = s := by
  rw [complete, h]

theorem cplNoted_keeps {s : State} {n : Nat} (status : Nat) (hn : n < s.hp.length) : (fnOf (cplNoted n status s) n).cur = (fnOf s n).cur ∧
    (fnOf (cplNoted n status s) n).cplRing = (fnOf s n).cplRing ∧ hif (cplNoted n status s) n 0x70 = hif s n 0x70 := by
  obtain ⟨h1, -, h3, -⟩ := cmd_countFn n (HIF + 0x308) 0xFFFF s n
  obtain ⟨i1, -, i3, -⟩ := cmd_irqPend n 0 (countFn n (HIF + 0x308) 0xFFFF s) n
  have hreg : hif (irqPend n 0 (countFn n (HIF + 0x308) 0xFFFF s)) n 0x70 = hif s n 0x70 := by
    rw [hif, fnReg_irqPend, fnReg_countFn_of_ne hn (b := 2) (by decide) (by decide)]
    rfl
  unfold cplNoted
  dsimp only
  split
  · exact ⟨i1.trans h1, i3.trans h3, hreg⟩
  · obtain ⟨k1, -, k3, -⟩ := cmd_countFn n (HIF + 0x30C) 0xFFFF (irqPend n 0 (countFn n (HIF + 0x308) 0xFFFF s)) n
    obtain ⟨l1, -, l3, -⟩ := cmd_hifFlag n 1 (countFn n (HIF + 0x30C) 0xFFFF (irqPend n 0 (countFn n (HIF + 0x308) 0xFFFF s))) n
    refine ⟨l1.trans (k1.trans (i1.trans h1)), l3.trans (k3.trans (i3.trans h3)), ?_⟩
    have hn' : n < (irqPend n 0 (countFn n (HIF + 0x308) 0xFFFF s)).hp.length := by simpa using hn
    rw [hif, fnReg_hifFlag_of_ne (by simpa using hn') (by decide), fnReg_countFn_of_ne hn' (b := 3) (by decide) (by decide)]
    exact hreg

/-- A command completes as R405 says, whether there is one or not. -/
theorem completes_complete (s : State) (n status r0 r1 : Nat) : completes s (complete n status r0 r1 s) n status r0 r1 := by
  cases hc : (fnOf s n).cur with
  | none =>
    rw [complete_of_none _ _ _ hc]
    exact ⟨hc, fun c h => by simp [hc] at h⟩
  | some c =>
    have hn := lt_of_cur hc
    have hoff : (fnOf (cmdOff n s) n).cur = none := by rw [cmdOff, fnOf_modFn_self _ hn]
    have hn' : n < (cmdOff n s).hp.length := by simpa [cmdOff] using hn
    rw [complete_of_cur _ _ _ hc]
    by_cases hback : (c.silent || !bit (hif s n 0x68) 31) = true
    · rw [if_pos hback]
      refine ⟨hoff, fun d hd hs hq => ?_⟩
      obtain rfl := Option.some.inj (hc.symm.trans hd)
      simp [hs, hq] at hback
    · rw [if_neg hback]
      have hplaced : n < (cplPlaced n c status r0 r1 (cmdOff n s)).hp.length := by simpa [cplPlaced] using hn'
      obtain ⟨h1, h2, h3⟩ := cplNoted_keeps status hplaced
      have hphase : (fnOf (cmdOff n s) n).cplPhase = (fnOf s n).cplPhase := by rw [cmdOff, fnOf_modFn_self _ hn]
      have hcur : (fnOf (cplPlaced n c status r0 r1 (cmdOff n s)) n).cur = none := by
        rw [cplPlaced, cur_setHif _ (by simpa using hn'), fnOf_modFn_self _ hn', hoff]
      refine ⟨h1.trans hcur, fun d hd _ _ => ?_⟩
      obtain rfl := Option.some.inj (hc.symm.trans hd)
      rw [h2, h3]
      constructor
      · rw [cplPlaced, cplRing_setHif _ (by simpa using hn'), fnOf_modFn_self _ hn']
        dsimp only
        rw [hif_cmdOff, hif_cmdOff, hif_cmdOff, fget_fset, if_pos rfl, hphase]
      · rw [hif, cplPlaced, setHif, fnReg_setFnReg _ _ _ _ _ _ (by simpa using hn'), if_pos ⟨rfl, rfl⟩, hif_cmdOff, hif_cmdOff]

/-- From `s` to `t` the command of function `n` and its completion queue stand as they stood. -/
structure SameCmd (n : Nat) (s t : State) : Prop where
  cur : (fnOf t n).cur = (fnOf s n).cur
  phase : (fnOf t n).cplPhase = (fnOf s n).cplPhase
  size : hif t n 0x68 = hif s n 0x68
  tail : hif t n 0x70 = hif s n 0x70
  head : hif t n 0x50 = hif s n 0x50

theorem SameCmd.of_hp {n : Nat} {s t : State} (h : t.hp = s.hp) : SameCmd n s t := by
  have hf : fnOf t n = fnOf s n := by rw [fnOf, h, fnOf]
  have hr (o : Nat) : hif t n o = hif s n o := by rw [hif, fnReg, hf, hif, fnReg]
  exact ⟨by rw [hf], by rw [hf], hr _, hr _, hr _⟩

theorem SameCmd.trans {n : Nat} {s t u : State} (h : SameCmd n s t) (k : SameCmd n t u) : SameCmd n s u :=
  ⟨k.cur.trans h.cur, k.phase.trans h.phase, k.size.trans h.size, k.tail.trans h.tail, k.head.trans h.head⟩

theorem SameCmd.of_maps {n : Nat} {s t : State} (hc : t.hp.map (fun f => (f.cur, f.cplPhase, f.cplRing, f.dma)) =
    s.hp.map (fun f => (f.cur, f.cplPhase, f.cplRing, f.dma))) (hr : ∀ o, o = 0x68 ∨ o = 0x70 ∨ o = 0x50 → hif t n o = hif s n o) :
    SameCmd n s t := by
  obtain ⟨h1, h2, -, -⟩ := cmd_congr hc n
  exact ⟨h1, h2, hr _ (.inl rfl), hr _ (.inr (.inl rfl)), hr _ (.inr (.inr rfl))⟩

/-- A command completes from a state that differs in other parts. -/
theorem SameCmd.completes {n status r0 r1 : Nat} {s u : State} (h : SameCmd n s u) : completes s (complete n status r0 r1 u) n status r0 r1 := by
  obtain ⟨hcur, hback⟩ := completes_complete u n status r0 r1
  refine ⟨hcur, fun c hc hs hq => ?_⟩
  have := hback c (h.cur.trans hc) hs (h.size ▸ hq)
  rwa [h.phase, h.size, h.tail, h.head] at this

theorem completes_of_hp {n status r0 r1 : Nat} {s t u : State} (h : completes s t n status r0 r1) (he : u.hp = t.hp) :
    completes s u n status r0 r1 := by
  have hf : fnOf u n = fnOf t n := by rw [fnOf, he, fnOf]
  have hr (o : Nat) : hif u n o = hif t n o := by rw [hif, fnReg, hf, hif, fnReg]
  simpa only [completes, hf, hr] using h

/-! ## Commands that run or are refused (R400, R406) -/

theorem cur_of_cmdOf {s : State} {n op : Nat} {c : Cmd} (h : cmdOf s n op = some c) : (fnOf s n).cur = some c := by
  unfold cmdOf at h
  split at h
  next d hd =>
    split at h
    · rwa [Option.some.inj h] at hd
    · simp at h
  next => simp at h

theorem runCmd_of_cmdOf {s : State} {n op : Nat} {c : Cmd} (used : List (Nat × Nat)) (f : List Byte → State → State)
    (h : cmdOf s n op = some c) : runCmd n op used f s = if !c.right then complete n 2 0 0 s
      else if !reservedOk c.raw ([(0, 1), (2, 2)] ++ used) then complete n 3 0 0 s else f c.raw s := by
  rw [runCmd, h]

theorem runCmd_of_ready {s : State} {n op : Nat} {used : List (Nat × Nat)} {raw : List Byte} (f : List Byte → State → State)
    (h : cmdReady s n op used raw) : act s (runCmd n op used f) = .next (f raw s) := by
  obtain ⟨ha, c, hc, rfl, hright, hres⟩ := h
  rw [act_of_alive _ ha, runCmd_of_cmdOf used f hc, hright, hres]
  rfl

theorem runCmd_without_right {s : State} {n op : Nat} {c : Cmd} (used : List (Nat × Nat)) (f : List Byte → State → State)
    (h : cmdOf s n op = some c) (hr : c.right = false) : runCmd n op used f s = complete n 2 0 0 s := by
  rw [runCmd_of_cmdOf used f h, hr]
  rfl

theorem complete_cfg (n status r0 r1 : Nat) (s : State) : (complete n status r0 r1 s).cfg = s.cfg :=
  (kept_complete (Nat.and_self _) (Kept.refl s)).fr.cfg rfl

theorem exec_cmdUnusedOp {s : State} {n : Nat} {c : Cmd} (ha : alive s = true) (hc : (fnOf s n).cur = some c) (hop : opUsed c.op = false)
    (hm : mastering s n = true) : exec (.cmdUnusedOp n) s = .next (complete n 1 0 0 s) := by
  change execCmdUnusedOp n s = _
  simp [execCmdUnusedOp, act_of_alive _ ha, hc, hop, hm]

/-! ## Commands fetched (R405) -/

/-- The command that function `n` fetches with the bytes `raw`. -/
def fetchedCmd (s : State) (n : Nat) (raw : List Byte) : Cmd :=
  { op := leAt (padTo 64 raw) 0 1, tag := leAt (padTo 64 raw) 2 2, raw := padTo 64 raw, acc := if hasTime s then some s.tb.now else none
    right := opRight s n (padTo 64 raw), evGen := (fnOf s n).evGen, hrvGen := (fnOf s n).hrvGen }

theorem exec_commandFetch {s : State} {n : Nat} {raw : List Byte} (ha : alive s = true) (hm : mastering s n = true)
    (hq : bit (hif s n 0x48) 31 = true) (hc : bit (hif s n 0x68) 31 = true) (hcur : (fnOf s n).cur = none)
    (hne : (hif s n 0x50).toNat % ringSize (hif s n 0x48) 4 ≠ (hif s n 0x4C).toNat % ringSize (hif s n 0x48) 4)
    (hroom : queueFull (hif s n 0x70).toNat (hif s n 0x6C).toNat (ringSize (hif s n 0x68) 4) = false) :
    exec (.commandFetch n raw) s = .next (setHif n 0x50 (((hif s n 0x50).toNat % ringSize (hif s n 0x48) 4 + 1) % ringSize (hif s n 0x48) 4)
      (modFn s n (fun f => { f with cur := some (fetchedCmd s n raw), dma := none }))) := by
  change execCommandFetch n raw s = _
  simp [execCommandFetch, act_of_alive _ ha, hm, hq, hc, hcur, hne, hroom, fetchedCmd]

theorem exec_commandFetch_waits {s : State} {n : Nat} (raw : List Byte) (ha : alive s = true) (h : (fnOf s n).cur.isSome = true ∨
    queueFull (hif s n 0x70).toNat (hif s n 0x6C).toNat (ringSize (hif s n 0x68) 4) = true) : exec (.commandFetch n raw) s = .next s := by
  change execCommandFetch n raw s = _
  rw [execCommandFetch, act_of_alive _ ha]
  dsimp only
  rw [if_neg]
  obtain h | h := h
  · simp [Option.isSome_iff_ne_none.mp h]
  · simp [h]

theorem lt_length_of_mastering {s : State} {n : Nat} (hl : s.hp.length = 4) (h : mastering s n = true) : n < s.hp.length := by
  rw [mastering, Bool.and_eq_true] at h
  exact lt_length_of_validFn hl h.1

theorem commandFetch_takes {s : State} {n : Nat} {raw : List Byte} (hl : s.hp.length = 4) (ha : alive s = true) (hm : mastering s n = true)
    (hq : bit (hif s n 0x48) 31 = true) (hc : bit (hif s n 0x68) 31 = true) (hcur : (fnOf s n).cur = none)
    (hne : (hif s n 0x50).toNat % ringSize (hif s n 0x48) 4 ≠ (hif s n 0x4C).toNat % ringSize (hif s n 0x48) 4)
    (hroom : queueFull (hif s n 0x70).toNat (hif s n 0x6C).toNat (ringSize (hif s n 0x68) 4) = false) :
    ∃ t, exec (.commandFetch n raw) s = .next t ∧ (fnOf t n).cur = some (fetchedCmd s n raw) ∧
      hif t n 0x50 = BitVec.ofNat 32 (((hif s n 0x50).toNat % ringSize (hif s n 0x48) 4 + 1) % ringSize (hif s n 0x48) 4) := by
  have hn := lt_length_of_mastering hl hm
  refine ⟨_, exec_commandFetch ha hm hq hc hcur hne hroom, ?_, ?_⟩
  · rw [setHif, setFnReg, fnOf_modFn_self _ (by simpa using hn), fnOf_modFn_self _ hn]
  · rw [hif, setHif, fnReg_setFnReg _ _ _ _ _ _ (by simpa using hn), if_pos ⟨rfl, rfl⟩]

/-! ## Fences (R412, R413) -/

theorem cmdFence_holds {s : State} {n : Nat} {c : Cmd} (ha : alive s = true) (hc : cmdOf s n 0x02 = some c) (hr : c.right = true)
    (hres : reservedOk c.raw [(0, 1), (2, 2), (4, 1)] = true) (hle : leAt c.raw 4 1 ≤ 1) :
    ∃ t, exec (.cmdFence n) s = .next t ∧ (fnOf t n).cmdFence = some (fenceOfCmd c) ∧ (fnOf t n).cur = some { c with waits := true } ∧
      (fnOf t n).evWait = (fnOf s n).evWait := by
  have hcur := cur_of_cmdOf hc
  have hready : cmdReady s n 0x02 [(4, 1)] c.raw := ⟨ha, c, hc, rfl, hr, hres⟩
  refine ⟨_, runCmd_of_ready _ hready, ?_⟩
  rw [if_neg (Nat.not_lt.mpr hle), fnOf_modFn_self _ (lt_of_cur hcur), hcur]
  exact ⟨rfl, rfl, rfl⟩

/-- The latest fence of function `n`, of a command or of a register, with its marker's time noted where it has none. -/
def markerTimed (x : Fence) (n : Nat) (put : Fence → Fn → Fn) (s : State) : State :=
  if x.marker.isNone then modFn s n (put { x with marker := some s.tb.tick }) else s

/-- The module's log with the number of the next event in it. -/
def withLog (log : List Event) (seq : Nat) (s : State) : State := { s with evLog := log, evLogSeq := seq }

/-- An event enters the module's log. -/
def eventLogged (e : Event) (s : State) : State := withLog (lastN 4096 (s.evLog ++ [e])) (s.evLogSeq + 1) s

theorem hp_withLog (log : List Event) (seq : Nat) (s : State) : (withLog log seq s).hp = s.hp := rfl

@[simp] theorem hp_eventLogged (e : Event) (s : State) : (eventLogged e s).hp = s.hp := hp_withLog ..

theorem fnOf_eventLogged (e : Event) (s : State) (n : Nat) : fnOf (eventLogged e s) n = fnOf s n := by rw [fnOf, hp_eventLogged, fnOf]

theorem fnOf_putEvent {s : State} {n : Nat} (e : Event) (hn : n < s.hp.length) : (fnOf (putEvent n e s) n).cur = (fnOf s n).cur ∧
    (fnOf (putEvent n e s) n).cplPhase = (fnOf s n).cplPhase ∧ (fnOf (putEvent n e s) n).eseq = ((fnOf s n).eseq + 1) % 2 ^ 32 ∧
    (fnOf (putEvent n e s) n).evRing = fset (fnOf s n).evRing ((hif s n 0x90).toNat % ringSize (hif s n 0x88) 5)
      (eventBytes e (((fnOf s n).eseq + 1) % 2 ^ 32) (fnOf s n).evPhase (fnOf s n).evLost) := by
  rw [putEvent, irqPend, fnOf_modFn_self _ (by simpa using hn), setHif, setFnReg, fnOf_modFn_self _ (by simpa using hn), fnOf_modFn_self _ hn]
  exact ⟨rfl, rfl, rfl, rfl⟩

theorem hif_putEvent_of_ne {s : State} {n o : Nat} (e : Event) (hn : n < s.hp.length) (ho : o ≠ 0x90) : hif (putEvent n e s) n o = hif s n o := by
  have hne : ¬ (n = n ∧ HIF + o = HIF + 0x90) := fun h => ho (Nat.add_left_cancel h.2)
  rw [hif, putEvent, fnReg_irqPend, setHif, fnReg_setFnReg _ _ _ _ _ _ (by simpa using hn), if_neg hne,
    fnReg_modFn_of_regs _ _ _ _ _ (by exact fun _ => rfl)]
  rfl

theorem putMarker_of_room {s : State} {n : Nat} (x : Fence) (e : Event) (hon : evqOn s n = true) (hroom : evqRoom s n = true) :
    putMarker n x e s = some (putEvent n e (eventLogged e s), some (fnOf (putEvent n e (eventLogged e s)) n).eseq) := by
  simp [putMarker, hon, hroom, eventLogged, withLog]

section Marker

variable {s : State} {n : Nat} (x : Fence) (put : Fence → Fn → Fn) (hn : n < s.hp.length)

theorem markerTimed_length : (markerTimed x n put s).hp.length = s.hp.length := by
  unfold markerTimed
  split
  · exact length_modFn ..
  · rfl

/-- What a mark of the marker's time leaves: all but the fences of the function. -/
theorem markerTimed_tb : (markerTimed x n put s).tb = s.tb ∧ (markerTimed x n put s).cfg = s.cfg := by
  unfold markerTimed
  split <;> exact ⟨rfl, rfl⟩

include hn in
theorem fnOf_markerTimed {β : Type} {g : Fn → β} (hg : ∀ x f, g (put x f) = g f) : g (fnOf (markerTimed x n put s) n) = g (fnOf s n) := by
  unfold markerTimed
  split
  · rw [fnOf_modFn_self _ hn, hg]
  · rfl

variable (hput : ∀ x f, (put x f).regs = f.regs ∧ (put x f).bme = f.bme ∧ (put x f).cur = f.cur ∧ (put x f).cplPhase = f.cplPhase ∧
  (put x f).evRing = f.evRing ∧ (put x f).eseq = f.eseq ∧ (put x f).evPhase = f.evPhase ∧ (put x f).evLost = f.evLost)
include hn hput

theorem hif_markerTimed (o : Nat) : hif (markerTimed x n put s) n o = hif s n o :=
  fnOf_markerTimed (g := fun f => fgetD f.regs (HIF + o) (fnReset (HIF + o))) x put hn fun x f => by rw [(hput x f).1]

theorem evqRoom_markerTimed : evqRoom (markerTimed x n put s) n = evqRoom s n := by
  have hbme : (fnOf (markerTimed x n put s) n).bme = (fnOf s n).bme := fnOf_markerTimed (g := Fn.bme) x put hn fun x f => (hput x f).2.1
  have hon : evqOn (markerTimed x n put s) n = evqOn s n := congrArg (bit · 31) (hif_markerTimed x put hn hput 0x88)
  simp only [evqRoom, mastering, validFn, partWord, hbme, hon, (markerTimed_tb x put).2, hif_markerTimed x put hn hput]

/-- The marker `e` is in the event queue, and the command and its queue stand as they stood. -/
theorem putEvent_markerTimed (e : Event) :
    SameCmd n s (putEvent n e (eventLogged e (markerTimed x n put s))) ∧
      (fnOf (putEvent n e (eventLogged e (markerTimed x n put s))) n).eseq = ((fnOf s n).eseq + 1) % 2 ^ 32 ∧
      fget? (fnOf (putEvent n e (eventLogged e (markerTimed x n put s))) n).evRing ((hif s n 0x90).toNat % ringSize (hif s n 0x88) 5) =
        some (eventBytes e (((fnOf s n).eseq + 1) % 2 ^ 32) (fnOf s n).evPhase (fnOf s n).evLost) := by
  have hlen : n < (eventLogged e (markerTimed x n put s)).hp.length := by
    rw [hp_eventLogged, markerTimed_length]
    exact hn
  have hkeep : (fnOf (markerTimed x n put s) n).cur = (fnOf s n).cur ∧ (fnOf (markerTimed x n put s) n).cplPhase = (fnOf s n).cplPhase ∧
      (fnOf (markerTimed x n put s) n).eseq = (fnOf s n).eseq ∧ (fnOf (markerTimed x n put s) n).evPhase = (fnOf s n).evPhase ∧
      (fnOf (markerTimed x n put s) n).evLost = (fnOf s n).evLost := by
    have h := fnOf_markerTimed (s := s) (n := n) (g := fun f => (f.cur, f.cplPhase, f.eseq, f.evPhase, f.evLost)) x put hn fun x f => by
      obtain ⟨-, -, h1, h2, -, h3, h4, h5⟩ := hput x f
      rw [h1, h2, h3, h4, h5]
    simpa only [Prod.mk.injEq] using h
  obtain ⟨k1, k2, k3, k4, k5⟩ := hkeep
  have hfn := fnOf_eventLogged e (markerTimed x n put s) n
  have hreg (o : Nat) : hif (eventLogged e (markerTimed x n put s)) n o = hif s n o := by
    rw [hif, fnReg, hfn]
    exact hif_markerTimed x put hn hput o
  obtain ⟨hcur, hphase, heseq, hring⟩ := fnOf_putEvent e hlen
  have hput' (o : Nat) (ho : o ≠ 0x90) : hif (putEvent n e (eventLogged e (markerTimed x n put s))) n o = hif s n o :=
    (hif_putEvent_of_ne e hlen ho).trans (hreg o)
  refine ⟨⟨?_, ?_, hput' _ (by decide), hput' _ (by decide), hput' _ (by decide)⟩, ?_, ?_⟩
  · rw [hcur, hfn, k1]
  · rw [hphase, hfn, k2]
  · rw [heseq, hfn, k3]
  · rw [hring, hreg, hreg, fget_fset, if_pos rfl, hfn, k3, k4, k5]

end Marker

/-- The command fence of function `n` has passed with `drops` events dropped. -/
def fencePassed (n drops : Nat) (s : State) : State :=
  countFn n (HIF + 0x31C) 0xFFFF (modFn s n (fun f => { f with cmdFence := none, fenceDrops := f.fenceDrops - drops }))

def putCmdFence (x : Fence) (f : Fn) : Fn := { f with cmdFence := some x }
def putRegFence (x : Fence) (f : Fn) : Fn := { f with regFence := some x }

theorem putCmdFence_keeps (x : Fence) (f : Fn) : (putCmdFence x f).regs = f.regs ∧ (putCmdFence x f).bme = f.bme ∧
    (putCmdFence x f).cur = f.cur ∧ (putCmdFence x f).cplPhase = f.cplPhase ∧ (putCmdFence x f).evRing = f.evRing ∧
    (putCmdFence x f).eseq = f.eseq ∧ (putCmdFence x f).evPhase = f.evPhase ∧ (putCmdFence x f).evLost = f.evLost :=
  ⟨rfl, rfl, rfl, rfl, rfl, rfl, rfl, rfl⟩

theorem putRegFence_keeps (x : Fence) (f : Fn) : (putRegFence x f).regs = f.regs ∧ (putRegFence x f).bme = f.bme ∧
    (putRegFence x f).cur = f.cur ∧ (putRegFence x f).cplPhase = f.cplPhase ∧ (putRegFence x f).evRing = f.evRing ∧
    (putRegFence x f).eseq = f.eseq ∧ (putRegFence x f).evPhase = f.evPhase ∧ (putRegFence x f).evLost = f.evLost :=
  ⟨rfl, rfl, rfl, rfl, rfl, rfl, rfl, rfl⟩

theorem lt_of_cmdFence {s : State} {n : Nat} {x : Fence} (h : (fnOf s n).cmdFence = some x) : n < s.hp.length := by
  by_contra hn
  rw [fnOf, List.getD_eq_getElem?_getD, List.getElem?_eq_none (Nat.not_lt.mp hn)] at h
  simp at h

theorem lt_of_regFence {s : State} {n : Nat} {x : Fence} (h : (fnOf s n).regFence = some x) : n < s.hp.length := by
  by_contra hn
  rw [fnOf, List.getD_eq_getElem?_getD, List.getElem?_eq_none (Nat.not_lt.mp hn)] at h
  simp at h

theorem evqOn_of_room {s : State} {n : Nat} (h : evqRoom s n = true) : evqOn s n = true := by
  simp only [evqRoom, Bool.and_eq_true] at h
  exact h.1.2

theorem exec_fenceComplete {s : State} {n : Nat} {x : Fence} (ha : alive s = true) (hx : (fnOf s n).cmdFence = some x) :
    exec (.fenceComplete n) s = .next (if !fenceClear s n x then s else
      match putMarker n x (fenceEvent (markerTimed x n putCmdFence s) 0 x.token) (markerTimed x n putCmdFence s) with
      | none => markerTimed x n putCmdFence s
      | some (t, q) => match q with
        | some k => complete n 0 (fnOf (markerTimed x n putCmdFence s) n).fenceDrops k
            (fencePassed n (fnOf (markerTimed x n putCmdFence s) n).fenceDrops t)
        | none =>
          let p := fresh 32 (fencePassed n (fnOf (markerTimed x n putCmdFence s) n).fenceDrops t)
          complete n 0 (fnOf (markerTimed x n putCmdFence s) n).fenceDrops p.1.toNat p.2) := by
  change execFenceComplete n s = _
  rw [execFenceComplete, act_of_alive _ ha, hx]
  rfl

theorem fenceEvent_congr {s t : State} (h : t.tb = s.tb) (k token : Nat) : fenceEvent t k token = fenceEvent s k token := by
  rw [fenceEvent, fenceEvent, hasTime, hasTime, h]

theorem fences_countFn (n off win : Nat) (s : State) (m : Nat) : (fnOf (countFn n off win s) m).cmdFence = (fnOf s m).cmdFence ∧
    (fnOf (countFn n off win s) m).regFence = (fnOf s m).regFence ∧ (fnOf (countFn n off win s) m).evRing = (fnOf s m).evRing := by
  have hk := (kept_countFn (n := n) (off := off) (win := win) (Nat.and_self _) (Kept.refl s)).fr
  have hf := fnOf_congr (fun f => (f.fenceDrops, f.regDrops, f.cmdFence, f.regFence)) (hk.hpFence rfl) m
  have hq := fnOf_congr (fun f => (f.evRing, f.eseq, f.evLost, f.evPhase, f.startEv)) (hk.hpEvq rfl) m
  simp only [Prod.mk.injEq] at hf hq
  exact ⟨hf.2.2.1, hf.2.2.2, hq.1⟩

theorem fences_complete (n status r0 r1 : Nat) (s : State) (m : Nat) : (fnOf (complete n status r0 r1 s) m).cmdFence = (fnOf s m).cmdFence ∧
    (fnOf (complete n status r0 r1 s) m).evRing = (fnOf s m).evRing := by
  have hk := (kept_complete (n := n) (status := status) (r0 := r0) (r1 := r1) (Nat.and_self _) (Kept.refl s)).fr
  have hf := fnOf_congr (fun f => (f.fenceDrops, f.regDrops, f.cmdFence, f.regFence)) (hk.hpFence rfl) m
  have hq := fnOf_congr (fun f => (f.evRing, f.eseq, f.evLost, f.evPhase, f.startEv)) (hk.hpEvq rfl) m
  simp only [Prod.mk.injEq] at hf hq
  exact ⟨hf.2.2.1, hq.1⟩

theorem fencePassed_spec {s : State} {n : Nat} (drops : Nat) (hn : n < s.hp.length) : SameCmd n s (fencePassed n drops s) ∧
    (fnOf (fencePassed n drops s) n).cmdFence = none ∧ (fnOf (fencePassed n drops s) n).evRing = (fnOf s n).evRing := by
  obtain ⟨h1, -, h3⟩ := fences_countFn n (HIF + 0x31C) 0xFFFF (modFn s n (fun f => { f with cmdFence := none, fenceDrops := f.fenceDrops - drops })) n
  obtain ⟨c1, c2, -, -⟩ := cmd_countFn n (HIF + 0x31C) 0xFFFF (modFn s n (fun f => { f with cmdFence := none, fenceDrops := f.fenceDrops - drops })) n
  rw [fnOf_modFn_self _ hn] at h1 h3 c1 c2
  have hreg (o : Nat) (ho : o ≠ 0x10) : hif (fencePassed n drops s) n o = hif s n o := by
    rw [hif, fencePassed, fnReg_countFn_of_ne (by simpa using hn) (b := 7) (by decide) (fun h => ho (Nat.add_left_cancel h)),
      fnReg_modFn_of_regs _ _ _ _ _ (by exact fun _ => rfl)]
    rfl
  exact ⟨⟨c1, c2, hreg _ (by decide), hreg _ (by decide), hreg _ (by decide)⟩, h1, h3⟩

theorem fenceComplete_clear {s : State} {n : Nat} {x : Fence} (ha : alive s = true) (hx : (fnOf s n).cmdFence = some x)
    (hc : fenceClear s n x = true) (hroom : evqRoom s n = true) :
    ∃ t, exec (.fenceComplete n) s = .next t ∧ (fnOf t n).cmdFence = none ∧
      completes s t n 0 (fnOf s n).fenceDrops (((fnOf s n).eseq + 1) % 2 ^ 32) ∧
      fget? (fnOf t n).evRing ((hif s n 0x90).toNat % ringSize (hif s n 0x88) 5) =
        some (eventBytes (fenceEvent s 0 x.token) (((fnOf s n).eseq + 1) % 2 ^ 32) (fnOf s n).evPhase (fnOf s n).evLost) := by
  have hn := lt_of_cmdFence hx
  have hroom' : evqRoom (markerTimed x n putCmdFence s) n = true := (evqRoom_markerTimed x _ hn putCmdFence_keeps).trans hroom
  have hev : fenceEvent (markerTimed x n putCmdFence s) 0 x.token = fenceEvent s 0 x.token := fenceEvent_congr (markerTimed_tb x _).1 0 _
  have hdrops : (fnOf (markerTimed x n putCmdFence s) n).fenceDrops = (fnOf s n).fenceDrops :=
    fnOf_markerTimed (g := Fn.fenceDrops) x putCmdFence hn fun _ _ => rfl
  obtain ⟨hsame, heseq, hring⟩ := putEvent_markerTimed x putCmdFence hn putCmdFence_keeps (fenceEvent s 0 x.token)
  have hlen : n < (putEvent n (fenceEvent s 0 x.token) (eventLogged (fenceEvent s 0 x.token) (markerTimed x n putCmdFence s))).hp.length := by
    have : n < (markerTimed x n putCmdFence s).hp.length := (markerTimed_length x _).symm ▸ hn
    simpa [putEvent] using this
  obtain ⟨hpass, hnone, hkept⟩ := fencePassed_spec (fnOf s n).fenceDrops hlen
  refine ⟨_, exec_fenceComplete ha hx, ?_⟩
  rw [hc, hev, putMarker_of_room x _ (evqOn_of_room hroom') hroom', hdrops, heseq]
  obtain ⟨f1, f2⟩ := fences_complete n 0 (fnOf s n).fenceDrops (((fnOf s n).eseq + 1) % 2 ^ 32) (fencePassed n (fnOf s n).fenceDrops
    (putEvent n (fenceEvent s 0 x.token) (eventLogged (fenceEvent s 0 x.token) (markerTimed x n putCmdFence s)))) n
  refine ⟨f1.trans hnone, (hsame.trans hpass).completes, ?_⟩
  exact (congrArg (fget? · _) (f2.trans hkept)).trans hring

theorem exec_fenceComplete_waits {s : State} {n : Nat} {x : Fence} (ha : alive s = true) (hx : (fnOf s n).cmdFence = some x)
    (hc : fenceClear s n x = false) : exec (.fenceComplete n) s = .next s := by
  rw [exec_fenceComplete ha hx, hc]
  rfl

/-- The register fence that a write of `v` begins. -/
def regFenceOf (s : State) (n : Nat) (v : Word) : Fence :=
  { token := v.toNat, evGen := (fnOf s n).evGen, ts := if hasTime s then some s.tb.now else none }

theorem exec_cfgFenceReqWrite {s : State} {n : Nat} (v : Word) (ha : alive s = true) (hv : validFn s n = true) : exec (.cfgFenceReqWrite n v) s =
    .next (modFn s n (fun f => { f with
      regFence := some { token := v.toNat, evGen := f.evGen, ts := if hasTime s then some s.tb.now else none }
      regDrops := if f.regFence.isSome then f.regDrops else 0 })) := by
  change execCfgFenceReqWrite n v s = _
  simp only [execCfgFenceReqWrite, act_of_alive _ ha, hv]
  rfl

theorem exec_registerFenceDone {s : State} {n : Nat} {x : Fence} (ha : alive s = true) (hx : (fnOf s n).regFence = some x) :
    exec (.registerFenceDone n) s = .next (if !fenceClear s n x then s else
      match putMarker n x (fenceEvent (markerTimed x n putRegFence s) 1 x.token) (markerTimed x n putRegFence s) with
      | none => markerTimed x n putRegFence s
      | some (t, _) => setFnReg (countFn n (HIF + 0x31C) 0xFFFF (modFn t n (fun f => { f with regFence := none }))) n (CFG + 0x404)
          (BitVec.ofNat 32 x.token)) := by
  change execRegisterFenceDone n s = _
  rw [execRegisterFenceDone, act_of_alive _ ha, hx]
  rfl

theorem registerFenceDone_clear {s : State} {n : Nat} {x : Fence} (ha : alive s = true) (hx : (fnOf s n).regFence = some x)
    (hc : fenceClear s n x = true) (hroom : evqRoom s n = true) :
    ∃ t, exec (.registerFenceDone n) s = .next t ∧ (fnOf t n).regFence = none ∧ fnReg t n (CFG + 0x404) = BitVec.ofNat 32 x.token := by
  have hn := lt_of_regFence hx
  have hroom' : evqRoom (markerTimed x n putRegFence s) n = true := (evqRoom_markerTimed x _ hn putRegFence_keeps).trans hroom
  have hlen (e : Event) : n < (putEvent n e (eventLogged e (markerTimed x n putRegFence s))).hp.length := by
    have : n < (markerTimed x n putRegFence s).hp.length := (markerTimed_length x _).symm ▸ hn
    simpa [putEvent] using this
  refine ⟨_, exec_registerFenceDone ha hx, ?_⟩
  rw [hc, putMarker_of_room x _ (evqOn_of_room hroom') hroom']
  simp only [Bool.not_true, Bool.false_eq_true, if_false]
  constructor
  · rw [setFnReg, fnOf_modFn_self _ (by simpa using hlen _)]
    dsimp only
    rw [(fences_countFn ..).2.1, fnOf_modFn_self _ (hlen _)]
  · rw [fnReg_setFnReg _ _ _ _ _ _ (by simpa using hlen _), if_pos ⟨rfl, rfl⟩]

theorem exec_registerFenceDone_waits {s : State} {n : Nat} {x : Fence} (ha : alive s = true) (hx : (fnOf s n).regFence = some x)
    (hc : fenceClear s n x = false) : exec (.registerFenceDone n) s = .next s := by
  rw [exec_registerFenceDone ha hx, hc]
  rfl

/-- Settles O49: the fetch, the commands that complete at once, and the fences of commands and of registers. -/
theorem hostCommandsAreFetchedAndFencesWait : Obligations.HostCommandsAreFetchedAndFencesWait := by
  refine ⟨fun s n raw hl ha hm hq hc hcur hne hroom => ?_, fun s n raw ha h => exec_commandFetch_waits raw ha h,
    fun s n raw _ h => ⟨_, runCmd_of_ready _ h, completes_complete ..⟩,
    fun s n c _ ha hc hop hm => ⟨_, exec_cmdUnusedOp ha hc hop hm, completes_complete ..⟩,
    fun s n c data _ ha hc hr => ⟨complete n 2 0 0 s, ?_, completes_complete .., complete_cfg ..⟩,
    fun s n c _ ha hc hr hres hle => ?_,
    fun s n x _ ha hx => ⟨fun h => exec_fenceComplete_waits ha hx h, fun h _ hroom => fenceComplete_clear ha hx h hroom⟩,
    fun s n v hl ha hv => ⟨_, regFenceOf s n v, exec_cfgFenceReqWrite v ha hv, ?_⟩,
    fun s n x _ ha hx => ⟨fun h => exec_registerFenceDone_waits ha hx h, fun h hroom => registerFenceDone_clear ha hx h hroom⟩⟩
  · obtain ⟨t, he, hcmd, hhead⟩ := commandFetch_takes (raw := raw) hl ha hm hq hc hcur hne hroom
    exact ⟨t, fetchedCmd s n raw, he, hcmd, rfl, rfl, rfl, rfl, rfl, rfl, rfl, hhead⟩
  · change execCmdImgPush n data s = _
    rw [execCmdImgPush, act_of_alive _ ha, runCmd_without_right _ _ hc hr]
  · obtain ⟨t, he, hf, hcur, hev⟩ := cmdFence_holds ha hc hr hres hle
    exact ⟨t, fenceOfCmd c, he, hf, rfl, beq_iff_eq, rfl, rfl, hcur, hev⟩
  · rw [fnOf_modFn_self _ (lt_length_of_validFn hl hv)]
    exact ⟨rfl, rfl, rfl, rfl⟩

end Sys2Proof.Machine

/-!
The pair block (chapter 16): what heartbeats, lease messages and role changes write of it, and the fields of a Calfa message.
-/
namespace Sys2Proof.Machine

/-! ## Big-endian fields of a message (R10) -/

theorem leNat_leBytes (k n : Nat) : leNat (leBytes k n) = n % 256 ^ k := by
  induction k generalizing n with
  | zero => simp [leBytes, leNat, Nat.mod_one]
  | succ k ih => 
    rw [leBytes, leNat, ih, BitVec.toNat_ofNat, Nat.pow_succ' (m := 256), Nat.mod_mul]

theorem beNat_beBytes (k n : Nat) : beNat (beBytes k n) = n % 256 ^ k := by rw [beNat, beBytes, List.reverse_reverse, leNat_leBytes]

/-- A field of `k` bytes behind `off` bytes. -/
theorem beAt_field {A R : List Byte} {off : Nat} (k n : Nat) (hA : A.length = off) : beAt (A ++ (beBytes k n ++ R)) off k = n % 256 ^ k := by
  rw [beAt, slice, List.drop_left' hA, List.take_left' (length_beBytes k n), beNat_beBytes]

/-- Padding a message and appending a MAC leave the fields before. -/
theorem beAt_padTo_append {off k n : Nat} (h : off + k ≤ n) (b g : List Byte) :
    beAt (padTo n b ++ g) off k = beAt (b ++ List.replicate n 0#8) off k := by
  have hl : (padTo n b).length = n := by simp [padTo]
  rw [beAt, beAt, slice, slice, List.drop_append_of_le_length (by omega), List.take_append_of_le_length (by rw [List.length_drop]; omega),
    padTo, List.drop_take, List.take_take, Nat.min_eq_left (by omega)]

theorem calfaHdr_typ (s : State) (typ len seq : Nat) (ts body : List Byte) : beAt (calfaHdr s typ len seq ts ++ body) 0 2 = typ % 256 ^ 2 := by
  simp only [calfaHdr, List.append_assoc]
  exact beAt_field (A := []) 2 typ rfl

theorem calfaHdr_id (s : State) (typ len seq : Nat) (ts body : List Byte) : beAt (calfaHdr s typ len seq ts ++ body) 4 4 = pairId s := by
  have h := beAt_field (A := beBytes 2 typ ++ beBytes 2 len) (off := 4) (R := beBytes 1 (pairUnit s) ++ (beBytes 1 (roleShown s) ++ (zeros 2 ++
    (beBytes 4 seq ++ (ts ++ body))))) 4 (pairId s) (by simp)
  simp only [List.append_assoc] at h
  simp only [calfaHdr, List.append_assoc]
  exact h.trans (Nat.mod_eq_of_lt (imgReg s.cfg.active (PAIR + 0x14)).isLt)

theorem calfaHdr_seq (s : State) (typ len seq : Nat) (ts body : List Byte) : beAt (calfaHdr s typ len seq ts ++ body) 0xC 4 = seq % 2 ^ 32 := by
  have h := beAt_field (A := beBytes 2 typ ++ (beBytes 2 len ++ (beBytes 4 (pairId s) ++ (beBytes 1 (pairUnit s) ++ (beBytes 1 (roleShown s) ++
    zeros 2))))) (off := 0xC) (R := ts ++ body) 4 seq (by simp [zeros])
  simp only [List.append_assoc] at h
  simp only [calfaHdr, List.append_assoc]
  exact h

/-! ## What the operations write of the pair block -/

@[simp] theorem macSign_pair (k : Nat) (bs : List Byte) (s : State) : (macSign k bs s).1.pair = s.pair :=
  (kept_macSign (Nat.and_self _) (Kept.refl s)).fst.fr.pair rfl
@[simp] theorem enqueue1_pair (n len : Nat) (body : TxBody) (rct : Option TxRct) (due : Option Nat) (s : State) :
    (enqueue1 n body len rct due s).pair = s.pair := (kept_enqueue1 (Nat.and_self _) (Kept.refl s)).fr.pair rfl
@[simp] theorem sendUdp_pair (mask dst dport : Nat) (bs : List Byte) (s : State) : (sendUdp mask dst dport bs s).pair = s.pair :=
  (kept_sendUdp (Nat.and_self _) (Kept.refl s)).fr.pair rfl
@[simp] theorem complete_pair (n status r0 r1 : Nat) (s : State) : (complete n status r0 r1 s).pair = s.pair :=
  (kept_complete (Nat.and_self _) (Kept.refl s)).fr.pair rfl
@[simp] theorem authLost_pair (s : State) : (authLost s).pair = s.pair := (kept_authLost (Nat.and_self _) (Kept.refl s)).fr.pair rfl
@[simp] theorem authEvent_pair (b : Bool) (s : State) : (authEvent b s).pair = s.pair := (kept_authEvent (Nat.and_self _) (Kept.refl s)).fr.pair rfl
@[simp] theorem pairFlag_pair (b : Nat) (s : State) : (pairFlag b s).pair = s.pair := setFlag_pair ..
@[simp] theorem hbReject_pair (s : State) : (hbReject s).pair = s.pair := flagCount_pair ..
@[simp] theorem witReject_pair (s : State) : (witReject s).pair = s.pair := flagCount_pair ..

@[simp] theorem setRole_pair (r : Nat) (s : State) : (setRole r s).pair = { s.pair with role := r } := by
  unfold setRole
  split
  next h => rw [← h]
  next => simp

@[simp] theorem pairUnsync_pair (reason : Nat) (s : State) : (pairUnsync reason s).pair = { s.pair with synced := false, syncRun := 0 } := by
  unfold pairUnsync
  dsimp only
  split <;> simp

@[simp] theorem authorityEnds_pair (r : Nat) (s : State) :
    (authorityEnds r s).pair = { s.pair with auth := false, mark := some s.tb.grid, role := r } := by simp [authorityEnds]

theorem handoverSeen_pair (s : State) : ∃ h, (handoverSeen s).pair = { s.pair with hov := h } := by
  unfold handoverSeen
  split
  next h _ =>
    split
    · exact ⟨none, by simp⟩
    · exact ⟨s.pair.hov, rfl⟩
  next => exact ⟨s.pair.hov, rfl⟩

@[simp] theorem nextSeqC_fst (s : State) : (nextSeqC s).1 = s.pair.seqC := by
  unfold nextSeqC
  dsimp only
  split <;> rfl
@[simp] theorem nextSeqC_pair (s : State) : (nextSeqC s).2.pair = { s.pair with seqC := (s.pair.seqC + 1) % 2 ^ 32 } := by
  unfold nextSeqC
  dsimp only
  split <;> rfl
@[simp] theorem nextSeqW_pair (s : State) : (nextSeqW s).2.pair = { s.pair with seqW := (s.pair.seqW + 1) % 2 ^ 32 } := by
  unfold nextSeqW
  dsimp only
  split <;> rfl

/-- The bytes of a Calfa message before its MAC. -/
def calfaBytes (typ : Nat) (body : List Byte) (s : State) : List Byte :=
  padTo 0x30 (calfaHdr (nextSeqC s).2 typ 64 s.pair.seqC (tsNow (nextSeqC s).2) ++ body)

theorem signedCalfa_eq (typ : Nat) (body : List Byte) (s : State) : signedCalfa typ body s =
    ((macSign (pairSlot (nextSeqC s).2) (calfaBytes typ body s) (nextSeqC s).2).1,
      (macSign (pairSlot (nextSeqC s).2) (calfaBytes typ body s) (nextSeqC s).2).2.map (fun g => calfaBytes typ body s ++ padTo 16 g)) := by
  unfold signedCalfa
  simp only [nextSeqC_fst]
  rw [← calfaBytes]
  split <;> simp [*]

@[simp] theorem signedCalfa_pair (typ : Nat) (body : List Byte) (s : State) :
    (signedCalfa typ body s).1.pair = { s.pair with seqC := (s.pair.seqC + 1) % 2 ^ 32 } := by simp [signedCalfa_eq]

@[simp] theorem sendCrc_pair (typ : Nat) (ts body : List Byte) (s : State) :
    (sendCrc typ ts body s).pair = { s.pair with seqC := (s.pair.seqC + 1) % 2 ^ 32 } := by simp [sendCrc]

/-- A message to the witness takes the next MSG_SEQ and is noted as sent. -/
theorem sendLease_pair (typ : Nat) (claim : Word) (s : State) :
    ∃ l, (sendLease typ claim s).pair = { s.pair with seqW := (s.pair.seqW + 1) % 2 ^ 32, sent := l } := by
  unfold sendLease
  dsimp only
  split
  next t h =>
    refine ⟨s.pair.sent, ?_⟩
    have := congrArg (fun p => p.1.pair) h
    simpa using this.symm
  next t g h =>
    have := congrArg (fun p => p.1.pair) h
    simp only [macSign_pair, nextSeqW_pair] at this
    exact ⟨s.pair.sent.filter (fun e => decide (t.tb.tick ≤ e.2 + 1024)) ++ [((nextSeqW s).1, t.tb.tick)], by simp [← this]⟩

/-! ## Keyed operations under a change of other parts -/

theorem slotOf_congr {s t : State} (hsec : t.sec = s.sec) (hstore : activeStore t = activeStore s) (k : Nat) : slotOf t k = slotOf s k := by
  rw [slotOf, hsec, hstore, slotOf]

theorem cellOf_congr {s t : State} (hsec : t.sec = s.sec) (hstore : activeStore t = activeStore s) (k : Nat) : cellOf t k = cellOf s k := by
  rw [cellOf, slotOf_congr hsec hstore, cellOf]

theorem slotFault_congr {s t : State} (hsec : t.sec = s.sec) (hstore : activeStore t = activeStore s) (htb : t.tb = s.tb) (k attr : Nat) :
    slotFault t k attr = slotFault s k attr := by
  have hexp (c : VCell) : cellExpired t c = cellExpired s c := by rw [cellExpired, taiSec, htb, cellExpired, taiSec]
  rw [slotFault, cellOf_congr hsec hstore, hexp, slotFault]

theorem keyOp_snd (k attr : Nat) (s : State) : (keyOp k attr s).2 = if slotFault s k attr = 0 then some (slotKeyBytes s k) else none := by
  have hstore : activeStore (count (SEC + 0x300) s) = activeStore s := by rw [activeStore, count_sec, count_nv, activeStore]
  unfold keyOp
  dsimp only
  rw [slotFault_congr (count_sec ..) hstore (count_tb ..)]
  split
  · rw [slotKeyBytes, cellOf_congr (count_sec ..) hstore, slotKeyBytes]
  · rfl

theorem keyOp_snd_congr {s t : State} (hsec : t.sec = s.sec) (hstore : activeStore t = activeStore s) (htb : t.tb = s.tb) (k attr : Nat) :
    (keyOp k attr t).2 = (keyOp k attr s).2 := by
  rw [keyOp_snd, keyOp_snd, slotFault_congr hsec hstore htb, slotKeyBytes, cellOf_congr hsec hstore, slotKeyBytes]

theorem macSign_snd (k : Nat) (bs : List Byte) (s : State) : (macSign k bs s).2 = (keyOp k 1 s).2.map (mac128 · bs) := by
  unfold macSign
  split <;> simp [*]

theorem activeStore_congr {s t : State} (hsec : t.sec = s.sec) (h0 : t.nv.store0 = s.nv.store0) (h1 : t.nv.store1 = s.nv.store1) :
    activeStore t = activeStore s := by rw [activeStore, hsec, h0, h1, activeStore]

/-- What a taken sequence number leaves. -/
theorem nextSeqC_keeps (s : State) : (nextSeqC s).2.sec = s.sec ∧ activeStore (nextSeqC s).2 = activeStore s ∧ (nextSeqC s).2.tb = s.tb ∧
    (nextSeqC s).2.cfg = s.cfg := by
  have h := (kept_nextSeqC (Nat.and_self _) (Kept.refl s)).out.fr
  have hv := h.vault rfl
  simp only [Prod.mk.injEq] at hv
  obtain ⟨-, -, -, h0, h1, -, -⟩ := hv
  exact ⟨h.sec rfl, activeStore_congr (h.sec rfl) h0 h1, h.tb rfl, h.cfg rfl⟩

theorem signedCalfa_keeps (typ : Nat) (body : List Byte) (s : State) : (signedCalfa typ body s).1.tb = s.tb ∧
    (signedCalfa typ body s).1.cfg = s.cfg ∧ (signedCalfa typ body s).1.eth = s.eth := by
  have h := (kept_signedCalfa (typ := typ) (body := body) (Nat.and_self _) (Kept.refl s)).fst.fr
  exact ⟨h.tb rfl, h.cfg rfl, h.eth rfl⟩

theorem signedCalfa_some {typ : Nat} {body : List Byte} {s : State} (h : (keyOp (pairSlot s) 1 s).2.isSome = true) :
    ∃ g, (signedCalfa typ body s).2 = some (calfaBytes typ body s ++ padTo 16 g) := by
  obtain ⟨hsec, hstore, htb, hcfg⟩ := nextSeqC_keeps s
  have hslot : pairSlot (nextSeqC s).2 = pairSlot s := by rw [pairSlot, pairCfg, hcfg, pairSlot, pairCfg]
  obtain ⟨key, hkey⟩ := Option.isSome_iff_exists.mp h
  rw [signedCalfa_eq, hslot, macSign_snd, keyOp_snd_congr hsec hstore htb, hkey]
  exact ⟨_, rfl⟩

section Bytes

variable (typ : Nat) (body g : List Byte) (s : State)

theorem calfaBytes_typ : beAt (calfaBytes typ body s ++ padTo 16 g) 0 2 = typ % 256 ^ 2 := by
  rw [calfaBytes, beAt_padTo_append (by decide), List.append_assoc, calfaHdr_typ]

theorem calfaBytes_id : beAt (calfaBytes typ body s ++ padTo 16 g) 4 4 = pairId s := by
  rw [calfaBytes, beAt_padTo_append (by decide), List.append_assoc, calfaHdr_id, pairId, (nextSeqC_keeps s).2.2.2, pairId]

theorem calfaBytes_seq : beAt (calfaBytes typ body s ++ padTo 16 g) 0xC 4 = s.pair.seqC % 2 ^ 32 := by
  rw [calfaBytes, beAt_padTo_append (by decide), List.append_assoc, calfaHdr_seq]

end Bytes

/-- A frame with this body waits last. -/
theorem enqueue1_queues {n len : Nat} {s : State} (body : TxBody) (rct : Option TxRct) (due : Option Nat) (hl : (portOf s n).linkUp = true)
    (hm : max 64 len ≤ maxLen s n) : ∃ f, queuedAt s (enqueue1 n body len rct due s) n f ∧ f.body = body :=
  ⟨_, enqueue1_queued hl hm, rfl⟩

/-! ## Heartbeats (R425, R426) -/

/-- The body of a heartbeat (Table 16-6). -/
def hbBody (s : State) : List Byte :=
  beBytes 4 s.cfg.active.vintage ++ beBytes 4 s.nv.claim.toNat ++ beBytes 4 s.pair.gen ++ beBytes 2 (hflOf s) ++
    beBytes 1 s.pair.missed ++ zeros 1 ++ beBytes 4 (if authority s then s.pair.leaseEnd - s.tb.tick else 0)

/-- The heartbeat instant is noted. -/
def hbNoted (s : State) : State := modUnit (fun p => { p with hbTick := some s.tb.tick }) s

/-- The heartbeat of state `s`, signed, and the state behind it. -/
def hbSigned (s : State) : State × Option (List Byte) := signedCalfa 0x1101 (hbBody (hbNoted s)) (hbNoted s)

theorem hbSigned_pair (s : State) : (hbSigned s).1.pair = { s.pair with hbTick := some s.tb.tick, seqC := (s.pair.seqC + 1) % 2 ^ 32 } := by
  simp [hbSigned, hbNoted]

theorem exec_heartbeatSend {s : State} (ha : alive s = true) (hu : isUnit s = true) (hs : s.tb.started = true) (ht : s.tb.tick % 256 = 0)
    (hn : s.pair.hbTick ≠ some s.tb.tick) : exec .heartbeatSend s = .next (match hbSigned s with
      | (s, none) => s
      | (s, some bs) =>
        let s := count (PAIR + 0x300) (enqueue1 13 (.calfa bs) (calfaLen 64) none none s)
        if fld (pairNet s) 31 28 = 0xF then s
        else count (PAIR + 0x300) (sendUdp (hbMask s) (addr4 s (PAIR + 0x30)) (hbUdp s) bs s)) := by
  change execHeartbeatSend s = _
  rw [execHeartbeatSend, act_of_alive _ ha, if_pos (by simp [hu, hs, ht, hn])]
  rfl

theorem heartbeatSend_counts {s : State} (ha : alive s = true) (hu : isUnit s = true) (hs : s.tb.started = true) (ht : s.tb.tick % 256 = 0)
    (hn : s.pair.hbTick ≠ some s.tb.tick) : ∃ t, exec .heartbeatSend s = .next t ∧ t.pair.hbTick = some s.tb.tick ∧
      t.pair.seqC = (s.pair.seqC + 1) % 2 ^ 32 ∧ t.pair.role = s.pair.role := by
  refine ⟨_, exec_heartbeatSend ha hu hs ht hn, ?_⟩
  split
  next t h =>
    have hp : t.pair = _ := (congrArg (fun p => p.1.pair) h).symm.trans (hbSigned_pair s)
    simp [hp]
  next t bs h =>
    have hp : t.pair = _ := (congrArg (fun p => p.1.pair) h).symm.trans (hbSigned_pair s)
    dsimp only
    split <;> simp [hp]

theorem exec_heartbeatSend_waits {s : State} (ha : alive s = true) (h : isUnit s = false ∨ s.tb.tick % 256 ≠ 0 ∨ s.pair.hbTick = some s.tb.tick) :
    exec .heartbeatSend s = .next s := by
  change execHeartbeatSend s = _
  rw [execHeartbeatSend, act_of_alive _ ha, if_neg]
  obtain h | h | h := h <;> simp [h]

/-- Without a data port the heartbeat waits on port 13 alone. -/
theorem heartbeatSend_queues {s : State} (ha : alive s = true) (hu : isUnit s = true) (hs : s.tb.started = true) (ht : s.tb.tick % 256 = 0)
    (hn : s.pair.hbTick ≠ some s.tb.tick) (hport : fld (pairNet s) 31 28 = 0xF) (hkey : (keyOp (pairSlot s) 1 s).2.isSome = true)
    (hl : (portOf s 13).linkUp = true) (hm : 82 ≤ maxLen s 13) :
    ∃ t f bs, exec .heartbeatSend s = .next t ∧ queuedAt s t 13 f ∧ f.body = .calfa bs ∧ beAt bs 0 2 = 0x1101 ∧ beAt bs 4 4 = pairId s ∧
      beAt bs 0xC 4 = s.pair.seqC % 2 ^ 32 := by
  have hkey' : (keyOp (pairSlot (hbNoted s)) 1 (hbNoted s)).2.isSome = true := by
    rw [keyOp_snd_congr (s := s) (t := hbNoted s) rfl rfl rfl]
    exact hkey
  obtain ⟨g, hg⟩ := signedCalfa_some (typ := 0x1101) (body := hbBody (hbNoted s)) hkey'
  obtain ⟨hcfg, heth⟩ : (hbSigned s).1.cfg = s.cfg ∧ (hbSigned s).1.eth = s.eth := (signedCalfa_keeps 0x1101 (hbBody (hbNoted s)) (hbNoted s)).2
  have hbs : hbSigned s = ((hbSigned s).1, some (calfaBytes 0x1101 (hbBody (hbNoted s)) (hbNoted s) ++ padTo 16 g)) := Prod.ext rfl hg
  have hportOf : portOf (hbSigned s).1 13 = portOf s 13 := congrArg (fun e => fgetD (Eth.ports e) 13 {}) heth
  have hmax : maxLen (hbSigned s).1 13 = maxLen s 13 := congrArg (fun c => fld (portCfg (Cfg.active c) 13) 31 18) hcfg
  obtain ⟨f, hq, hf⟩ := enqueue1_queues (s := (hbSigned s).1) (n := 13) (len := calfaLen 64)
    (.calfa (calfaBytes 0x1101 (hbBody (hbNoted s)) (hbNoted s) ++ padTo 16 g)) none none (by rw [hportOf]; exact hl) (by rw [hmax]; exact hm)
  refine ⟨_, f, _, exec_heartbeatSend ha hu hs ht hn, ?_, hf, calfaBytes_typ .., calfaBytes_id .., calfaBytes_seq ..⟩
  rw [hbs]
  dsimp only
  rw [if_pos]
  · rw [queuedAt, hportOf] at hq
    rw [queuedAt, portOf_congr (count_eth ..)]
    exact hq
  · rw [pairNet, count_cfg, enqueue1_cfg, hcfg]
    exact hport

/-- The last heartbeat accepted is `m`. -/
def Heard (m : PairMsg) (p : Pair) : Prop :=
  p.missed = 0 ∧ p.peerOk = true ∧ p.hbSince = true ∧ p.lastC = some (BitVec.ofNat 32 (beAt m.bytes 0xC 4))

section Heard

variable {m : PairMsg} {s : State} (h : Heard m s.pair) (c : Prop) [Decidable c]
include h

theorem heard_handoverSeen : Heard m (handoverSeen s).pair := by
  obtain ⟨hov, hp⟩ := handoverSeen_pair s
  rw [hp]
  exact h

theorem heard_setRole (r : Nat) : Heard m (if c then setRole r s else s).pair := by
  split
  · rw [setRole_pair]; exact h
  · exact h

theorem heard_unless_raise (code : Nat) (o : EvObj) (arg : List Byte) : Heard m (if c then s else raise code o arg s).pair := by
  split
  · exact h
  · rw [raise_pair]; exact h

theorem heard_unless_unsync (reason : Nat) : Heard m (if c then s else pairUnsync reason s).pair := by
  split
  · exact h
  · rw [pairUnsync_pair]; exact h

end Heard

/-- The heartbeat `m` is noted and counted. -/
def hbTaken (m : PairMsg) (s : State) : State :=
  count (PAIR + 0x304) (modUnit (fun p => { p with
    lastC := some (BitVec.ofNat 32 (beAt m.bytes 0xC 4))
    peer := some { role := beAt m.bytes 9 1, hfl := beAt m.bytes 0x28 2, vintage := beAt m.bytes 0x1C 4
                   claim := BitVec.ofNat 32 (beAt m.bytes 0x20 4), gen := beAt m.bytes 0x24 4 }
    hbSince := true, missed := 0, peerOk := true
    calfaAt := if m.calfa then some s.tb.tick else p.calfaAt, dataAt := if m.calfa then p.dataAt else some s.tb.tick
    calfaOk := p.calfaOk || m.calfa, quiet := if beAt m.bytes 9 1 = 3 then 0 else p.quiet }) s)

/-- A heartbeat of an ACTIVE peer makes this unit STANDBY and ends a planned handover. -/
def hbActive (m : PairMsg) (s : State) : State :=
  let s := modUnit (fun p => { p with hreq := p.hreq.filter (fun h => decide (msgTs m.bytes 0x10 ≤ gridNs s h.h)) }) s
  handoverSeen (if s.pair.role = 1 ∨ s.pair.role = 4 then setRole 2 s else s)

theorem heard_hbActive {m : PairMsg} {s : State} (h : Heard m s.pair) : Heard m (hbActive m s).pair :=
  heard_handoverSeen (heard_setRole (by exact h) _ 2)

theorem hbAccept_eq (m : PairMsg) (s : State) : hbAccept m s =
    let t := if s.pair.peerOk then hbTaken m s else raise 0x1003 .all (leBytes 1 1 ++ leBytes 1 (livePaths (hbTaken m s))) (hbTaken m s)
    let u := if beAt m.bytes 9 1 = 3 then hbActive m t else t
    if beAt m.bytes 0x1C 4 = u.cfg.active.vintage then u else pairUnsync 3 u := rfl

theorem heard_hbAccept (m : PairMsg) (s : State) : Heard m (hbAccept m s).pair := by
  have htaken : Heard m (hbTaken m s).pair := by
    rw [hbTaken, count_pair]
    exact ⟨rfl, rfl, rfl, rfl⟩
  rw [hbAccept_eq]
  refine heard_unless_unsync ?_ _ 3
  split
  · exact heard_hbActive (heard_unless_raise htaken _ _ _ _)
  · exact heard_unless_raise htaken _ _ _ _

theorem exec_heartbeatRx {s s1 s2 : State} {m : PairMsg} {b : Bool} (ha : alive s = true) (hu : isUnit s = true)
    (ht : takePairMsg (fun m => if m.calfa then msgType m < 0x1102 || decide (0x1104 < msgType m) else m.dport == hbUdp s) s = some (m, s1))
    (hm : msgType m = 0x1101) (hc : peerCheck m s1 = (s2, b)) :
    exec .heartbeatRx s = .next (if b then hbAccept m s2 else hbReject s2) := by
  have hcfg : s1.cfg = s.cfg := ((kept_takePairMsg (Nat.and_self _) (Kept.refl s)).out _ ht).fr.cfg rfl
  have hu1 : isUnit s1 = true := by rw [isUnit, pairMode, hcfg]; exact hu
  change execHeartbeatRx s = _
  rw [execHeartbeatRx, act_of_alive _ ha, ht]
  dsimp only
  rw [if_neg (by simp [hu1, hm]), hc]
  cases b <;> rfl

/-- The check instant is noted, with a miss where no heartbeat came. -/
def hbChecked (s : State) : State :=
  modUnit (fun p => { p with
    chkTick := some s.tb.tick, hbSince := false, quiet := p.quiet + 1, missed := if !s.pair.hbSince then min 255 (p.missed + 1) else p.missed }) s

theorem hbChecked_missed (s : State) :
    (hbChecked s).pair.missed = if s.pair.hbSince then s.pair.missed else min 255 (s.pair.missed + 1) := by
  cases h : s.pair.hbSince <;> simp [hbChecked, h]

theorem heartbeatCheck_counts {s : State} (ha : alive s = true) (hu : isUnit s = true) (hs : s.tb.started = true) (ht : s.tb.tick % 256 = 128)
    (hn : s.pair.chkTick ≠ some s.tb.tick) : ∃ t, exec .heartbeatCheck s = .next t ∧
      t.pair = { (hbChecked s).pair with peerOk := s.pair.peerOk && (s.pair.hbSince || decide (s.pair.missed + 1 ≠ 8)) } := by
  refine ⟨_, act_of_alive _ ha, ?_⟩
  rw [if_pos (by simp [hu, hs, ht, hn])]
  dsimp only
  cases hsince : s.pair.hbSince with
  | true => simp [hbChecked, hsince]
  | false =>
    by_cases h8 : s.pair.missed + 1 = 8
    · have h7 : s.pair.missed = 7 := by omega
      cases hok : s.pair.peerOk <;> simp [hbChecked, hsince, h7, hok]
    · have h8' : min 255 (s.pair.missed + 1) ≠ 8 := by omega
      simp [hbChecked, hsince, h8, h8']

theorem exec_heartbeatCheck_waits {s : State} (ha : alive s = true) (ht : s.tb.tick % 256 ≠ 128) : exec .heartbeatCheck s = .next s := by
  change execHeartbeatCheck s = _
  rw [execHeartbeatCheck, act_of_alive _ ha, if_neg (by simp [ht])]

/-! ## Lease messages and answers of the witness (R427 to R429) -/

/-- The instant of the lease message is noted. -/
def leaseNoted (s : State) : State := modUnit (fun p => { p with leaseGrid := some s.tb.grid }) s

theorem exec_leaseMessageSend {s : State} (ha : alive s = true) (hu : isUnit s = true) (ht : hasTime s = true) (hg : s.tb.grid % 1024 = 0)
    (hn : s.pair.leaseGrid ≠ some s.tb.grid) : exec .leaseMessageSend s = .next (
      if s.pair.role = 3 then (if authority s then sendLease 0x1012 s.nv.claim (leaseNoted s) else leaseNoted s)
      else if qualifies s then sendLease 0x1011 (highClaim s) (leaseNoted s) else leaseNoted s) := by
  change execLeaseMessageSend s = _
  rw [execLeaseMessageSend, act_of_alive _ ha, if_pos (by simp [hu, ht, hg, hn])]
  rfl

theorem leaseMessageSend_counts {s : State} (ha : alive s = true) (hu : isUnit s = true) (ht : hasTime s = true) (hg : s.tb.grid % 1024 = 0)
    (hn : s.pair.leaseGrid ≠ some s.tb.grid) : ∃ t, exec .leaseMessageSend s = .next t ∧ t.pair.leaseGrid = some s.tb.grid ∧
      t.pair.seqW = (if (s.pair.role = 3 ∧ authority s) ∨ (s.pair.role ≠ 3 ∧ qualifies s) then (s.pair.seqW + 1) % 2 ^ 32 else s.pair.seqW) := by
  have hsend (typ : Nat) (claim : Word) : (sendLease typ claim (leaseNoted s)).pair.leaseGrid = some s.tb.grid ∧
      (sendLease typ claim (leaseNoted s)).pair.seqW = (s.pair.seqW + 1) % 2 ^ 32 := by
    obtain ⟨l, hl⟩ := sendLease_pair typ claim (leaseNoted s)
    rw [hl]
    exact ⟨rfl, rfl⟩
  refine ⟨_, exec_leaseMessageSend ha hu ht hg hn, ?_⟩
  by_cases hr : s.pair.role = 3
  · cases hauth : authority s with
    | true => simpa [hr] using hsend ..
    | false => simp [hr, leaseNoted]
  · cases hq : qualifies s with
    | true => simpa [hr] using hsend ..
    | false => simp [hr, leaseNoted]

theorem exec_leaseMessageSend_waits {s : State} (ha : alive s = true) (h : hasTime s = false ∨ s.tb.grid % 1024 ≠ 0) :
    exec .leaseMessageSend s = .next s := by
  change execLeaseMessageSend s = _
  rw [execLeaseMessageSend, act_of_alive _ ha, if_neg]
  obtain h | h := h <;> simp [h]

theorem exec_grantRx {s s1 : State} {m : PairMsg} {k : Nat} (ha : alive s = true) (ht : takeAnswer 0x1021 s = (s1, some (m, k))) :
    exec .grantRx s = .next (if s1.pair.role = 3 then modUnit (fun p => { p with leaseEnd := max s1.pair.leaseEnd (k + 6144) }) s1
      else modUnit (fun p => { p with leaseEnd := k + 6144, granted := some { tick := s1.tb.tick, planned := p.hreq.isSome } })
        { s1 with nv := { s1.nv with claim := BitVec.ofNat 32 (beAt m.bytes 0x1C 4) } }) := by
  change execGrantRx s = _
  rw [execGrantRx, act_of_alive _ ha, ht]

theorem exec_denyRx {s s1 : State} {m : PairMsg} {k : Nat} (ha : alive s = true) (ht : takeAnswer 0x1022 s = (s1, some (m, k))) :
    exec .denyRx s = .next (if s1.pair.role = 3 then
        (if beAt m.bytes 0xA 2 = 1 ∨ beAt m.bytes 0xA 2 = 3 then authorityEnds 4 (count (PAIR + 0x324) s1) else count (PAIR + 0x324) s1)
      else if beAt m.bytes 0xA 2 = 1 then setRole 2 (count (PAIR + 0x324) s1) else count (PAIR + 0x324) s1) := by
  change execDenyRx s = _
  rw [execDenyRx, act_of_alive _ ha, ht]
  dsimp only
  rw [count_pair]

/-! ## Authority begins and ends (R427, R429, R433) -/

theorem exec_leaseEnd {s : State} (ha : alive s = true) (hu : isUnit s = true) (hr : s.pair.role = 3) (hau : s.pair.auth = true)
    (he : s.pair.leaseEnd ≤ s.tb.tick) : exec .leaseEnd s = .next (authorityEnds 4 s) := by
  change execLeaseEnd s = _
  rw [execLeaseEnd, act_of_alive _ ha, if_pos (by simp [hu, hr, hau, he])]

theorem exec_leaseEnd_waits {s : State} (ha : alive s = true) (he : s.tb.tick < s.pair.leaseEnd) : exec .leaseEnd s = .next s := by
  change execLeaseEnd s = _
  rw [execLeaseEnd, act_of_alive _ ha, if_neg]
  simp [Nat.not_le.mpr he]

theorem exec_authorityBegin_waits {s : State} {g : Granted} (ha : alive s = true) (hg : s.pair.granted = some g) (ht : s.tb.tick ≤ g.tick) :
    exec .authorityBegin s = .next s := by
  change execAuthorityBegin s = _
  rw [execAuthorityBegin, act_of_alive _ ha, hg]
  dsimp only
  rw [if_pos (by simp [ht])]

theorem exec_authorityBegin_late {s : State} {g : Granted} (ha : alive s = true) (hu : isUnit s = true) (hg : s.pair.granted = some g)
    (ht : g.tick < s.tb.tick) (he : s.pair.leaseEnd ≤ s.tb.tick) :
    exec .authorityBegin s = .next (modUnit (fun p => { p with granted := none }) s) := by
  change execAuthorityBegin s = _
  rw [execAuthorityBegin, act_of_alive _ ha, hg]
  dsimp only
  rw [if_neg (by simp [hu, ht]), if_pos he]

/-- Publications made inactive leave the pair block. -/
theorem foldl_gpControl_pair (l : List Nat) (s : State) : (l.foldl (fun s n =>
    if gpControl s.cfg.active n then modGp n (fun r => { r with active := false }) s else s) s).pair = s.pair := by
  induction l generalizing s with
  | nil => rfl
  | cons n l ih =>
    rw [List.foldl_cons, ih]
    split
    · exact modGp_pair ..
    · rfl

theorem applyImage_savePars (vint : Bool) (s : State) : (savePars (applyImage vint s)).pair = s.pair ∧
    (savePars (applyImage vint s)).tb = s.tb := by
  have h := (kept_applyImage (vint := vint) (Nat.and_self _) (Kept.refl s)).fr
  have k := (kept_savePars (Nat.and_self _) (Kept.refl (applyImage vint s))).fr
  exact ⟨(k.pair rfl).trans (h.pair rfl), (k.tb rfl).trans (h.tb rfl)⟩

theorem authorityBegin_begins {s : State} {g : Granted} (ha : alive s = true) (hu : isUnit s = true) (hg : s.pair.granted = some g)
    (ht : g.tick < s.tb.tick) (he : s.tb.tick < s.pair.leaseEnd) : ∃ t, exec .authorityBegin s = .next t ∧ t.pair.role = 3 ∧
      t.pair.auth = true ∧ t.pair.granted = none ∧ t.pair.mark = some s.tb.grid := by
  change ∃ t, execAuthorityBegin s = .next t ∧ _
  unfold execAuthorityBegin
  refine ⟨_, act_of_alive _ ha, ?_⟩
  rw [hg]
  dsimp only
  rw [if_neg (by simp [hu, ht]), if_neg (Nat.not_le.mpr he)]
  simp only [authEvent_pair, raise_pair, flagCount_pair, setRole_pair, foldl_gpControl_pair, modUnit_pair, (applyImage_savePars _ _).2, and_self]

/-- Settles O54: heartbeats, the lease messages and their answers, and the role that they give. -/
theorem heartbeatsAndTheLeaseDecideTheRole : Obligations.HeartbeatsAndTheLeaseDecideTheRole := by
  refine ⟨fun s ha => ⟨heartbeatSend_counts ha, heartbeatSend_queues ha, exec_heartbeatSend_waits ha, fun hu hs ht hn => ?_,
      exec_heartbeatCheck_waits ha, leaseMessageSend_counts ha, exec_leaseMessageSend_waits ha⟩,
    fun s s1 s2 m b ha hu ht hm hc => ?_, fun s s1 m k ha ht => ?_, fun s s1 m k ha ht => ?_, fun s g ha hu hg => ?_,
    fun s ha hu hr hau => ⟨fun he => ?_, fun he => exec_leaseEnd_waits ha he⟩⟩
  · obtain ⟨t, he, hp⟩ := heartbeatCheck_counts ha hu hs ht hn
    refine ⟨t, he, ?_⟩
    rw [hp]
    exact ⟨rfl, rfl, hbChecked_missed s, rfl⟩
  · refine ⟨_, exec_heartbeatRx ha hu ht hm hc, fun hb => ?_, fun hb => ?_⟩
    · rw [if_pos hb]
      exact heard_hbAccept m s2
    · rw [if_neg (by simp [hb])]
      exact hbReject_pair s2
  · refine ⟨_, exec_grantRx ha ht, ?_⟩
    by_cases hr : s1.pair.role = 3 <;> simp [hr]
  · refine ⟨_, exec_denyRx ha ht, ?_⟩
    by_cases hr : s1.pair.role = 3
    · by_cases h : beAt m.bytes 0xA 2 = 1 ∨ beAt m.bytes 0xA 2 = 3
      · simpa [hr, h] using h.resolve_left
      · simp [hr, h]
    · by_cases h : beAt m.bytes 0xA 2 = 1 <;> simp [hr, h]
  · refine ⟨fun ht he => authorityBegin_begins ha hu hg ht he, fun ht => exec_authorityBegin_waits ha hg ht, fun ht he =>
      ⟨_, exec_authorityBegin_late ha hu hg ht he, rfl, rfl, rfl⟩⟩
  · refine ⟨_, exec_leaseEnd ha hu hr hau he, ?_⟩
    simp

end Sys2Proof.Machine

/-!
Racking and the planned handover (R435 to R439, R442): generations formed, received, complete and lost, and the commands of a pair.
-/
namespace Sys2Proof.Machine

/-! ## Generations formed (R435) -/

/-- What the blocks of a generation are made of stays. -/
theorem rackBlock_congr {s t : State} (hcfg : t.cfg = s.cfg) (hsch : t.sch = s.sch) (hpub : t.pub = s.pub) (hnv : t.nv = s.nv)
    (htb : t.tb = s.tb) (b : Nat) : rackBlock t b = rackBlock s b := by
  have htps : tps t = tps s := by rw [tps, f0, hcfg, tps, f0]
  have htick (k : Nat) : tickNs t k = tickNs s k := by rw [tickNs, gridNs, htb, htps, tickNs, gridNs]
  have hstn (n : Nat) : stnOf t n = stnOf s n := by rw [stnOf, hsch, stnOf]
  have htask (k : Nat) : taskBlock t k = taskBlock s k := by simp only [taskBlock, hcfg, hsch, htick, hstn]
  have hpar (k : Nat) : parBlock t k = parBlock s k := by simp only [parBlock, hcfg]
  have hgp (n : Nat) : gpOf t n = gpOf s n := by rw [gpOf, hpub, gpOf]
  have hdo (n : Nat) : doOf t n = doOf s n := by rw [doOf, hpub, doOf]
  have hout : outBlock t = outBlock s := by simp only [outBlock, hgp, hdo, htick, hnv]
  have hclaim (k : Nat) : claimBlock t k = claimBlock s k := by simp only [claimBlock, hnv]
  simp only [rackBlock, htask, hpar, hout, hclaim]

/-- From `s` to `t` nothing of the pair block changes but the next MSG_SEQ of the Calfa link. -/
def UpToSeqC (s t : State) : Prop := ∃ q, t.pair = { s.pair with seqC := q }

theorem UpToSeqC.of_pair {s t : State} (h : t.pair = s.pair) : UpToSeqC s t := ⟨s.pair.seqC, h⟩

theorem UpToSeqC.trans {s t u : State} (h : UpToSeqC s t) (k : UpToSeqC t u) : UpToSeqC s u := by
  obtain ⟨q, hq⟩ := h
  obtain ⟨r, hr⟩ := k
  exact ⟨r, by rw [hr, hq]⟩

/-- A fold of steps each of which sends no more than Calfa messages. -/
theorem upToSeqC_foldl {α β : Type} (state : β → State) {f : β → α → β} (hf : ∀ b x, UpToSeqC (state b) (state (f b x))) (l : List α) (b : β) :
    UpToSeqC (state b) (state (l.foldl f b)) := by
  induction l generalizing b with
  | nil => exact .of_pair rfl
  | cons x l ih => exact (hf b x).trans (ih _)

theorem upToSeqC_sendCrc (typ : Nat) (ts body : List Byte) (s : State) : UpToSeqC s (sendCrc typ ts body s) := ⟨_, sendCrc_pair typ ts body s⟩

/-- A fragment of a block is sent. -/
def fragSent (n inst : Nat) (rot : Bool) (x : Nat × Nat × List Byte) (s : State) (f : Nat × List Byte) : State :=
  sendCrc 0x1102 (tsBE (gridNs s inst)) (beBytes 4 n ++ beBytes 2 x.1 ++ beBytes 2 (b2n rot + 2 * b2n (decide (f.1 + f.2.length = x.2.2.length))) ++
    beBytes 4 x.2.1 ++ beBytes 4 x.2.2.length ++ beBytes 4 f.1 ++ beBytes 2 f.2.length ++ zeros 2 ++ f.2 ++
    zeros (ceilDiv f.2.length 4 * 4 - f.2.length)) s

theorem sendBlock_fst (n inst : Nat) (rot : Bool) (x : Nat × Nat × List Byte) (s : State) :
    (sendBlock n inst rot x s).1 = (fragments (x.2.2.length + 1) 0 x.2.2).foldl (fragSent n inst rot x) s := rfl

theorem upToSeqC_sendBlock (n inst : Nat) (rot : Bool) (x : Nat × Nat × List Byte) (s : State) : UpToSeqC s (sendBlock n inst rot x s).1 := by
  rw [sendBlock_fst]
  exact upToSeqC_foldl (fun s => s) (f := fragSent n inst rot x) (fun s f => upToSeqC_sendCrc _ _ _ s) _ s

/-- A new generation is numbered and counted at this boundary. -/
def genBegun (s : State) : State :=
  count (PAIR + 0x310) (modUnit (fun p => { p with gen := (s.pair.gen + 1) % 2 ^ 32, genGrid := some s.tb.grid }) s)

/-- The blocks of the image by their numbers. -/
def rackBlocks (s : State) : List (Nat × Nat × Nat × List Byte) := (List.range 113).map (fun b => (b, rackBlock s b))

/-- The image that a generation keeps. -/
def rackImage (s : State) : FMap (List Byte) := (rackBlocks s).foldl (fun m x => fset m x.1 x.2.2.2) []

theorem rackBlocks_genBegun (s : State) : rackBlocks (genBegun s) = rackBlocks s := by
  have h (b : Nat) : rackBlock (genBegun s) b = rackBlock s b := by
    refine rackBlock_congr ?_ ?_ ?_ ?_ ?_ b <;> simp [genBegun]
  simp only [rackBlocks, h]

/-- Of a table built up by keys each of which comes once, the value of a key is the one put under it. -/
theorem fget_foldl_range {α β : Type} (v : Nat → β) (g : β → α) (n b : Nat) (hb : b < n) :
    fget? (((List.range n).map (fun b => (b, v b))).foldl (fun m x => fset m x.1 (g x.2)) []) b = some (g (v b)) := by
  induction n with
  | zero => omega
  | succ n ih =>
    rw [List.range_succ, List.map_append, List.foldl_append]
    simp only [List.map_cons, List.map_nil, List.foldl_cons, List.foldl_nil, fget_fset]
    split
    next h => rw [h]
    next h => exact ih (by omega)

theorem fget_rackImage (s : State) {b : Nat} (hb : b < 113) : fget? (rackImage s) b = some (rackBlock s b).2.2 :=
  fget_foldl_range (rackBlock s) (fun x => x.2.2) 113 b hb

/-- A block of generation `n` is sent, and its fragments counted. -/
def blockSent (n inst : Nat) (acc : State × Nat) (x : Nat × Nat × Nat × List Byte) : State × Nat :=
  ((sendBlock n inst (x.1 % 256 == n % 256) x.2 acc.1).1, acc.2 + (sendBlock n inst (x.1 % 256 == n % 256) x.2 acc.1).2)

/-- The blocks that a generation sends: those that changed and those whose turn it is. -/
def blocksToSend (s : State) : List (Nat × Nat × Nat × List Byte) :=
  (rackBlocks (genBegun s)).filter (fun x => fget? (genBegun s).pair.img x.1 != some x.2.2.2 || x.1 % 256 == (s.pair.gen + 1) % 2 ^ 32 % 256)

/-- The state with the blocks sent, and the number of their fragments. -/
def genSent (s : State) : State × Nat := (blocksToSend s).foldl (blockSent ((s.pair.gen + 1) % 2 ^ 32) s.tb.grid) (genBegun s, 0)

/-- The image is kept. -/
def imageKept (img : FMap (List Byte)) (s : State) : State := modUnit (fun p => { p with img := img }) s

theorem formGeneration_eq (s : State) : formGeneration s = sendCrc 0x1103 (tsBE (gridNs (imageKept (rackImage (genBegun s)) (genSent s).1) s.tb.grid))
    (beBytes 4 ((s.pair.gen + 1) % 2 ^ 32) ++ beBytes 4 (blocksToSend s).length ++ beBytes 4 (genSent s).2 ++
      beBytes 4 (imageKept (rackImage (genBegun s)) (genSent s).1).cfg.active.vintage) (imageKept (rackImage (genBegun s)) (genSent s).1) := by
  unfold formGeneration
  rfl

theorem genSent_pair (s : State) : ∃ q, (genSent s).1.pair =
    { s.pair with gen := (s.pair.gen + 1) % 2 ^ 32, genGrid := some s.tb.grid, seqC := q } := by
  obtain ⟨q, hq⟩ := upToSeqC_foldl Prod.fst (f := blockSent ((s.pair.gen + 1) % 2 ^ 32) s.tb.grid) (fun a x => upToSeqC_sendBlock _ _ _ _ a.1)
    (blocksToSend s) (genBegun s, 0)
  refine ⟨q, ?_⟩
  rw [genSent, hq, genBegun, count_pair, modUnit_pair]

/-- A generation is numbered, its blocks sent, its image kept and its end sent. -/
theorem formGeneration_pair (s : State) : ∃ q, (formGeneration s).pair =
    { s.pair with gen := (s.pair.gen + 1) % 2 ^ 32, genGrid := some s.tb.grid, img := rackImage s, seqC := q } := by
  have hrack : rackImage (genBegun s) = rackImage s := by rw [rackImage, rackBlocks_genBegun, rackImage]
  obtain ⟨q, hq⟩ := genSent_pair s
  refine ⟨(q + 1) % 2 ^ 32, ?_⟩
  rw [formGeneration_eq, sendCrc_pair, imageKept, modUnit_pair, hq, hrack]

theorem exec_generationForm {s : State} (ha : alive s = true) (hu : isUnit s = true) (ht : hasTime s = true) (hr : s.pair.role = 3)
    (hau : authority s = true) (hd : genDue s = true) : exec .generationForm s = .next (formGeneration s) := by
  change execGenerationForm s = _
  rw [execGenerationForm, act_of_alive _ ha, if_pos (by simp [hu, ht, hr, hau, hd])]

theorem exec_generationForm_waits {s : State} (ha : alive s = true) (h : authority s = false ∨ genDue s = false) :
    exec .generationForm s = .next s := by
  change execGenerationForm s = _
  rw [execGenerationForm, act_of_alive _ ha, if_neg]
  obtain h | h := h <;> simp [h]

/-! ## Generations received (R436, R438, R439) -/

/-- What a taken message of the pair leaves. -/
theorem takePairMsg_keeps {p : PairMsg → Bool} {s s1 : State} {m : PairMsg} (h : takePairMsg p s = some (m, s1)) :
    s1.cfg = s.cfg ∧ s1.pair = s.pair := by
  have hk := ((kept_takePairMsg (Nat.and_self _) (Kept.refl s)).out _ h).fr
  exact ⟨hk.cfg rfl, hk.pair rfl⟩

theorem isUnit_congr {s t : State} (h : t.cfg = s.cfg) : isUnit t = isUnit s := by rw [isUnit, pairMode, h, isUnit, pairMode]

/-- A message of the other unit of this pair, taken by a unit that does not hold the role ACTIVE. -/
structure FromPeer (s s1 : State) (m : PairMsg) : Prop where
  cfg : s1.cfg = s.cfg
  pair : s1.pair = s.pair
  racked : racked s1 = true
  unit : isUnit s1 = true
  id : beAt m.bytes 4 4 = pairId s1
  sender : beAt m.bytes 8 1 = 1 - pairUnit s1

theorem fromPeer {p : PairMsg → Bool} {s s1 : State} {m : PairMsg} (hu : isUnit s = true) (hr : s.pair.role ≠ 3) (h : takePairMsg p s = some (m, s1))
    (hid : beAt m.bytes 4 4 = pairId s) (hs : beAt m.bytes 8 1 = 1 - pairUnit s) : FromPeer s s1 m := by
  obtain ⟨hcfg, hpair⟩ := takePairMsg_keeps h
  have hu1 : isUnit s1 = true := (isUnit_congr hcfg).trans hu
  refine ⟨hcfg, hpair, ?_, hu1, ?_, ?_⟩
  · simp [racked, hu1, hpair, hr]
  · rw [pairId, hcfg]; exact hid
  · rw [pairUnit, pairCfg, hcfg]; exact hs

/-- The fragment that a message carries. -/
def fragOf (m : PairMsg) : GenFrag :=
  { btype := beAt m.bytes 0x20 2, bindex := beAt m.bytes 0x24 4, blen := beAt m.bytes 0x28 4, fofs := beAt m.bytes 0x2C 4,
    data := slice m.bytes 0x34 (beAt m.bytes 0x30 2) }

def withFrag (m : PairMsg) (x : GenIn) : GenIn := { x with frags := x.frags ++ [fragOf m] }

/-- The fragment of message `m` is kept with its generation. -/
def fragKept (m : PairMsg) (s : State) : State :=
  modUnit (fun p => { p with genIn := fmod p.genIn (beAt m.bytes 0x1C 4) { inst := nsGrid s (msgTs m.bytes 0x10) } (withFrag m) }) s

theorem exec_genBlockRx {s s1 : State} {m : PairMsg} (ha : alive s = true) (h : takePairMsg (fun m => m.calfa && msgType m == 0x1102) s = some (m, s1))
    (hp : FromPeer s s1 m) (hlen : beAt m.bytes 2 2 = 0x34 + ceilDiv (beAt m.bytes 0x30 2) 4 * 4 + 4) (hle : beAt m.bytes 2 2 ≤ m.bytes.length) :
    exec .genBlockRx s = .next (if calfaCrc m.bytes (beAt m.bytes 2 2) && tsOk m.bytes 0x10 then fragKept m s1 else s1) := by
  change execGenBlockRx s = _
  rw [execGenBlockRx, act_of_alive _ ha, h]
  dsimp only
  rw [if_neg (by simp [hp.unit, hp.id, hp.sender]), ← hlen]
  by_cases hok : (calfaCrc m.bytes (beAt m.bytes 2 2) && tsOk m.bytes 0x10) = true
  · rw [if_pos hok, if_neg]
    · rfl
    · rw [Bool.and_eq_true] at hok
      simp [hp.racked, hok, hle]
  · rw [if_neg hok, if_pos]
    rw [Bool.and_eq_true, not_and_or] at hok
    obtain hok | hok := hok <;> simp [hok]

theorem frags_fragKept (m : PairMsg) (s : State) : ∃ x, fget? (fragKept m s).pair.genIn (beAt m.bytes 0x1C 4) = some x ∧
    x.frags = (fgetD s.pair.genIn (beAt m.bytes 0x1C 4) { inst := 0 }).frags ++ [fragOf m] := by
  refine ⟨_, by rw [fragKept, modUnit_pair, fmod, fget_fset, if_pos rfl], ?_⟩
  have hd (d e : GenIn) (h : d.frags = e.frags) : (fgetD s.pair.genIn (beAt m.bytes 0x1C 4) d).frags =
      (fgetD s.pair.genIn (beAt m.bytes 0x1C 4) e).frags := by
    unfold fgetD
    cases fget? s.pair.genIn (beAt m.bytes 0x1C 4) with
    | none => exact h
    | some x => rfl
  exact congrArg (· ++ [fragOf m]) (hd _ _ rfl)

/-- A generation that is not the next complete one in time leaves the image and its number, and the unit is not SYNCED. -/
def GenMissed (g : Nat) (s t : State) : Prop :=
  t.pair = { s.pair with genIn := fdel s.pair.genIn g, genNo := some g, synced := false, syncRun := 0 }

theorem genMissed_genLost (g : Nat) (s : State) : GenMissed g s (genLost g s) := by simp [GenMissed, genLost]

/-- The blocks of generation `g` are taken into the image. -/
def genTaken (g : Nat) (bs : List (Nat × Nat × List Byte)) (s : State) : State :=
  count (PAIR + 0x314) (modUnit (fun p => { p with
    gen := g, genNo := some g, genIn := fdel p.genIn g, syncRun := p.syncRun + 1
    img := bs.foldl (fun m x => match rackNo x.1 x.2.1 with
      | some b => fset m b x.2.2
      | none => m) p.img }) s)

/-- A unit becomes SYNCED after 256 complete generations of the same vintage. -/
def syncDue (s : State) : Bool :=
  !s.pair.synced && decide (256 ≤ s.pair.syncRun) && (match s.pair.peer with
    | some p => p.vintage == s.cfg.active.vintage
    | none => false) && (portOf s 13).linkUp

def syncShown (g : Nat) (s : State) : State :=
  if syncDue s then
    raise 0x1004 .all (leBytes 1 1 ++ leBytes 4 g) (modUnit (fun p => { p with synced := true }) s)
  else s

/-- The generation of a planned handover lets the unit request the lease. -/
def genRequests (g : Nat) (s : State) : State :=
  match s.pair.hreq with
  | some h => if h.gen = g && !s.pair.hold && hasTime s then sendLease 0x1011 (highClaim s) s else s
  | none => s

theorem genComplete_eq (g : Nat) (bs : List (Nat × Nat × List Byte)) (s : State) :
    genComplete g bs s = genRequests g (syncShown g (genTaken g bs s)) := rfl

theorem syncShown_pair (g : Nat) (s : State) : ∃ b, (syncShown g s).pair = { s.pair with synced := b } := by
  unfold syncShown
  split
  · exact ⟨true, by simp⟩
  · exact ⟨s.pair.synced, rfl⟩

theorem genRequests_pair (g : Nat) (s : State) : ∃ q l, (genRequests g s).pair = { s.pair with seqW := q, sent := l } := by
  unfold genRequests
  split
  · split
    · obtain ⟨l, hl⟩ := sendLease_pair 0x1011 (highClaim s) s
      exact ⟨_, l, hl⟩
    · exact ⟨s.pair.seqW, s.pair.sent, rfl⟩
  · exact ⟨s.pair.seqW, s.pair.sent, rfl⟩

theorem genComplete_pair (g : Nat) (bs : List (Nat × Nat × List Byte)) (s : State) : (genComplete g bs s).pair.gen = g ∧
    (genComplete g bs s).pair.genNo = some g ∧ (genComplete g bs s).pair.syncRun = s.pair.syncRun + 1 ∧
    (genComplete g bs s).pair.genIn = fdel s.pair.genIn g := by
  obtain ⟨q, l, hr⟩ := genRequests_pair g (syncShown g (genTaken g bs s))
  obtain ⟨b, hs⟩ := syncShown_pair g (genTaken g bs s)
  rw [genComplete_eq, hr, hs, genTaken, count_pair, modUnit_pair]
  exact ⟨rfl, rfl, rfl, rfl⟩

/-- A generation of another vintage. -/
def genForeign (g : Nat) (s : State) : State :=
  let s := modUnit (fun p => { p with genIn := fdel p.genIn g, genNo := some g }) s
  let was := s.pair.synced
  let s := pairUnsync 3 s
  if was then s else raise 0x1007 .all (leBytes 1 3) (pairFlag 4 s)

theorem genMissed_genForeign (g : Nat) (s : State) : GenMissed g s (genForeign g s) := by
  unfold genForeign
  dsimp only
  split <;> simp [GenMissed]

/-- Generation `g` with the fragments of `x` is whole, in time and the next one, as its end message `m` tells. -/
def genWhole (s : State) (m : PairMsg) (g : Nat) (x : GenIn) : Bool :=
  (match s.pair.genNo with
    | some k => g == (k + 1) % 2 ^ 32
    | none => true) && decide (nsGrid s s.tb.now ≤ x.inst + 1024) && (wholeBlocks x.frags).length == beAt m.bytes 0x20 4 &&
    x.frags.length == beAt m.bytes 0x24 4

theorem genWhole_iff (s : State) (m : PairMsg) (g : Nat) (x : GenIn) : genWhole s m g x = true ↔
    (∀ k, s.pair.genNo = some k → g = (k + 1) % 2 ^ 32) ∧ nsGrid s s.tb.now ≤ x.inst + 1024 ∧
      (wholeBlocks x.frags).length = beAt m.bytes 0x20 4 ∧ x.frags.length = beAt m.bytes 0x24 4 := by
  unfold genWhole
  cases s.pair.genNo <;> simp [and_assoc]

theorem exec_genEndRx {s s1 : State} {m : PairMsg} {x : GenIn} (ha : alive s = true)
    (h : takePairMsg (fun m => m.calfa && msgType m == 0x1103) s = some (m, s1)) (hp : FromPeer s s1 m) (hlen : beAt m.bytes 2 2 = 48)
    (hle : 48 ≤ m.bytes.length) (hcrc : calfaCrc m.bytes 48 = true) (hts : tsOk m.bytes 0x10 = true)
    (hx : fget? s.pair.genIn (beAt m.bytes 0x1C 4) = some x) :
    exec .genEndRx s = .next (if beAt m.bytes 0x28 4 ≠ s.cfg.active.vintage then genForeign (beAt m.bytes 0x1C 4) s1
      else if genWhole s1 m (beAt m.bytes 0x1C 4) x then genComplete (beAt m.bytes 0x1C 4) (wholeBlocks x.frags) s1
      else genLost (beAt m.bytes 0x1C 4) s1) := by
  have hget (d : GenIn) : fgetD s1.pair.genIn (beAt m.bytes 0x1C 4) d = x := by rw [hp.pair, fgetD, hx]; rfl
  change execGenEndRx s = _
  rw [execGenEndRx, act_of_alive _ ha, h]
  dsimp only
  rw [if_neg (by simp [hp.unit, hp.id, hp.sender]), if_neg (by simp [hp.racked, hlen, hle, hcrc, hts]), hp.cfg, hget]
  rfl

theorem exec_generationTimeout {s : State} {g : Nat} {x : GenIn} (ha : alive s = true) (hx : fget? s.pair.genIn g = some x) :
    exec (.generationTimeout g) s = .next (if racked s && decide (x.inst + 1024 < s.tb.grid) then genLost g s else s) := by
  change execGenerationTimeout g s = _
  rw [execGenerationTimeout, act_of_alive _ ha, hx]

/-! ## The planned handover (R442) -/

theorem exec_handoverReqRx {s s1 s2 : State} {m : PairMsg} (ha : alive s = true) (hu : isUnit s = true)
    (h : takePairMsg (fun m => m.calfa && msgType m == 0x1104) s = some (m, s1)) (hts : tsOk m.bytes 0x20 = true)
    (hc : peerCheck m s1 = (s2, true)) : exec .handoverReqRx s = .next (modUnit (fun p => { p with
      lastC := some (BitVec.ofNat 32 (beAt m.bytes 0xC 4)), hreq := some { gen := beAt m.bytes 0x1C 4, h := nsGrid s2 (msgTs m.bytes 0x20) } }) s2) := by
  have hu1 : isUnit s1 = true := (isUnit_congr (takePairMsg_keeps h).1).trans hu
  change execHandoverReqRx s = _
  rw [execHandoverReqRx, act_of_alive _ ha, h]
  dsimp only
  rw [if_neg (by simp [hu1, hts]), hc]

/-- The instant H has passed. -/
def handoverPast (s : State) : State := modUnit (fun p => { p with hov := p.hov.map (fun h => { h with past := true }) }) s

theorem exec_handoverInstant {s : State} {h : Handover} (ha : alive s = true) (hh : s.pair.hov = some h) (hu : isUnit s = true)
    (hr : s.pair.role = 3) (hp : h.past = false) (hd : h.h ≤ s.tb.grid) : exec .handoverInstant s =
      .next (sendLease 0x1013 (handoverPast (if genDue s then formGeneration s else s)).nv.claim
        (authorityEnds 2 (handoverPast (if genDue s then formGeneration s else s)))) := by
  change execHandoverInstant s = _
  rw [execHandoverInstant, act_of_alive _ ha, if_pos (by simp [hu, hr, handoverDue, hh, hp, hd])]
  rfl

theorem handoverInstant_hands {s : State} {h : Handover} (ha : alive s = true) (hh : s.pair.hov = some h) (hu : isUnit s = true)
    (hr : s.pair.role = 3) (hp : h.past = false) (hd : h.h ≤ s.tb.grid) : ∃ t, exec .handoverInstant s = .next t ∧ t.pair.role = 2 ∧
      t.pair.auth = false ∧ t.pair.hov = some { h with past := true } := by
  refine ⟨_, exec_handoverInstant ha hh hu hr hp hd, ?_⟩
  have hform : (if genDue s then formGeneration s else s).pair.hov = some h := by
    split
    · obtain ⟨q, hq⟩ := formGeneration_pair s
      rw [hq]
      exact hh
    · exact hh
  obtain ⟨l, hl⟩ := sendLease_pair 0x1013 (handoverPast (if genDue s then formGeneration s else s)).nv.claim
    (authorityEnds 2 (handoverPast (if genDue s then formGeneration s else s)))
  rw [hl, authorityEnds_pair, handoverPast, modUnit_pair, hform]
  exact ⟨rfl, rfl, rfl⟩

theorem exec_handoverInstant_waits {s : State} {h : Handover} (ha : alive s = true) (hh : s.pair.hov = some h) (hd : s.tb.grid < h.h) :
    exec .handoverInstant s = .next s := by
  change execHandoverInstant s = _
  rw [execHandoverInstant, act_of_alive _ ha, if_neg]
  simp [handoverDue, hh, Nat.not_le.mpr hd]

theorem exec_handoverTimeout {s : State} {h : Handover} (ha : alive s = true) (hh : s.pair.hov = some h) : exec .handoverTimeout s =
    .next (if h.h + 6144 < s.tb.grid then modUnit (fun p => { p with hov := none }) (complete h.fn 5 5 0 s) else s) := by
  change execHandoverTimeout s = _
  rw [execHandoverTimeout, act_of_alive _ ha, hh]

/-! ## The commands of a pair (Table 16-12) -/

/-- A planned handover that nothing forbids: H is noted, and the command waits. -/
def handoverNamed (n : Nat) (s : State) : State :=
  modFn (modUnit (fun p => { p with hov := some { fn := n, h := (s.tb.grid / 1024 + 2) * 1024 } }) s) n
    (fun f => { f with cur := f.cur.map (fun c => { c with waits := true }) })

theorem exec_cmdPairHandover {s : State} {n : Nat} {raw : List Byte} {p : PeerHb} (h : cmdReady s n 0x50 [] raw) (hu : isUnit s = true)
    (hr : s.pair.role = 3) (hau : authority s = true) (hp : s.pair.peer = some p) (h13 : Nat.testBit p.hfl 13 = true) (hw : s.pair.witOk = true)
    (h14 : Nat.testBit p.hfl 14 = true) (hv : p.vintage = s.cfg.active.vintage) (hov : s.pair.hov = none) (h12 : Nat.testBit p.hfl 12 = false) :
    exec (.cmdPairHandover n) s = .next (match signedCalfa 0x1104 (beBytes 4 ((s.pair.gen + 2) % 2 ^ 32) ++
        tsBE (gridNs (handoverNamed n s) ((s.tb.grid / 1024 + 2) * 1024))) (handoverNamed n s) with
      | (s, some bs) => enqueue1 13 (.calfa bs) (calfaLen 64) none none s
      | (s, none) => s) := by
  change execCmdPairHandover n s = _
  rw [execCmdPairHandover, runCmd_of_ready _ h, hp]
  dsimp only [Option.getD_some]
  rw [if_neg (by simp [hu, hr, hau]), if_neg (by simp [h13]), if_neg (by simp [hw, h14]), if_neg (by simp [hv]), if_neg (by simp [hov]),
    if_neg (by simp [h12])]
  rfl

/-- The handover stands in the pair block, the role stays, and the command is in progress. -/
theorem cmdPairHandover_waits {s : State} {n : Nat} {raw : List Byte} {p : PeerHb} (h : cmdReady s n 0x50 [] raw) (hu : isUnit s = true)
    (hr : s.pair.role = 3) (hau : authority s = true) (hp : s.pair.peer = some p) (h13 : Nat.testBit p.hfl 13 = true) (hw : s.pair.witOk = true)
    (h14 : Nat.testBit p.hfl 14 = true) (hv : p.vintage = s.cfg.active.vintage) (hov : s.pair.hov = none) (h12 : Nat.testBit p.hfl 12 = false) :
    ∃ t, exec (.cmdPairHandover n) s = .next t ∧ t.pair.hov = some { fn := n, h := (s.tb.grid / 1024 + 2) * 1024 } ∧
      (fnOf t n).cur.isSome = true ∧ t.pair.role = 3 := by
  obtain ⟨-, c, hc, -⟩ := id h
  have hcur := cur_of_cmdOf hc
  have hnamed : (fnOf (handoverNamed n s) n).cur.isSome = true := by
    rw [handoverNamed, fnOf_modFn_self _ (by exact lt_of_cur hcur)]
    change ((fnOf s n).cur.map _).isSome = true
    rw [hcur]
    rfl
  have hsigned (typ : Nat) (body : List Byte) (u : State) : (fnOf (signedCalfa typ body u).1 n).cur = (fnOf u n).cur :=
    (cmd_congr ((kept_signedCalfa (Nat.and_self _) (Kept.refl u)).fst.fr.hpCmd rfl) n).1
  have hqueued (bs : List Byte) (u : State) : (fnOf (enqueue1 13 (.calfa bs) (calfaLen 64) none none u) n).cur = (fnOf u n).cur :=
    (cmd_congr ((kept_enqueue1 (Nat.and_self _) (Kept.refl u)).fr.hpCmd rfl) n).1
  refine ⟨_, exec_cmdPairHandover h hu hr hau hp h13 hw h14 hv hov h12, ?_⟩
  split
  next u bs hs =>
    have hu' : u = (signedCalfa _ _ (handoverNamed n s)).1 := (congrArg Prod.fst hs).symm
    rw [enqueue1_pair, hqueued, hu', hsigned, signedCalfa_pair]
    exact ⟨rfl, hnamed, hr⟩
  next u hs =>
    have hu' : u = (signedCalfa _ _ (handoverNamed n s)).1 := (congrArg Prod.fst hs).symm
    rw [hu', hsigned, signedCalfa_pair]
    exact ⟨rfl, hnamed, hr⟩

theorem exec_cmdPairHandover_refused {s : State} {n : Nat} {raw : List Byte} (h : cmdReady s n 0x50 [] raw)
    (hr : isUnit s = false ∨ s.pair.role ≠ 3) : exec (.cmdPairHandover n) s = .next (complete n 5 1 0 s) := by
  change execCmdPairHandover n s = _
  rw [execCmdPairHandover, runCmd_of_ready _ h]
  dsimp only
  rw [if_pos]
  obtain hr | hr := hr <;> simp [hr]

theorem exec_cmdPairHold {s : State} {n : Nat} {raw : List Byte} (h : cmdReady s n 0x51 [(4, 1)] raw) (hle : leAt raw 4 1 ≤ 1) :
    exec (.cmdPairHold n) s = .next (if leAt raw 4 1 = 1 && isUnit s && s.pair.role == 3 then complete n 5 1 0 s
      else complete n 0 (leAt raw 4 1) 0 (modUnit (fun p => { p with hold := leAt raw 4 1 == 1 }) s)) := by
  change execCmdPairHold n s = _
  rw [execCmdPairHold, runCmd_of_ready _ h]
  dsimp only
  rw [if_neg (Nat.not_lt.mpr hle)]

theorem exec_cmdPairStatus {s : State} {n : Nat} {raw : List Byte} (h : cmdReady s n 0x52 [] raw) :
    exec (.cmdPairStatus n) s = .next (complete n 0 (pairStat s).toNat s.pair.leaseEnd s) := runCmd_of_ready _ h

theorem completes_modUnit {n status r0 r1 : Nat} (f : Pair → Pair) (s : State) :
    completes s (complete n status r0 r1 (modUnit f s)) n status r0 r1 := (SameCmd.of_hp rfl).completes

/-- Settles O55: generations formed and received, and the planned handover of a pair. -/
theorem rackingAndThePlannedHandover : Obligations.RackingAndThePlannedHandover := by
  refine ⟨fun s ha => ⟨fun hu ht hr hau hd => ?_, exec_generationForm_waits ha⟩, fun s s1 m ha hu hr h hid hs hlen hle => ?_,
    fun s s1 m g x ha hu hr h hid hs hlen hle hcrc hts hg hx => ?_, fun s g x ha hx => ⟨fun hu hr hlate => ?_, fun hin => ?_⟩,
    fun s n raw p _ h hu hr hau hp h13 hw h14 hv hov h12 => cmdPairHandover_waits h hu hr hau hp h13 hw h14 hv hov h12,
    fun s n raw _ h hr => ⟨_, exec_cmdPairHandover_refused h hr, completes_complete .., complete_pair ..⟩,
    fun s s1 s2 m ha hu h hts hc => ⟨_, exec_handoverReqRx ha hu h hts hc, rfl⟩,
    fun s h ha hh => ⟨fun hu hr hp hd => handoverInstant_hands ha hh hu hr hp hd, exec_handoverInstant_waits ha hh, fun _ hlate => ?_, fun hin => ?_⟩,
    fun s n raw _ h hle => ⟨fun hok => ?_, fun hno => ?_⟩, fun s n raw _ h => ⟨_, exec_cmdPairStatus h, completes_complete ..⟩⟩
  · obtain ⟨q, hq⟩ := formGeneration_pair s
    refine ⟨_, exec_generationForm ha hu ht hr hau hd, ?_⟩
    rw [hq]
    refine ⟨rfl, rfl, fun b hb => ?_⟩
    dsimp only
    exact fget_rackImage s hb
  · have hp := fromPeer hu hr h hid hs
    have he := exec_genBlockRx ha h hp hlen hle
    refine ⟨fun hcrc hts => ?_, fun hbad => ?_⟩
    · rw [if_pos (by simp [hcrc, hts])] at he
      obtain ⟨x, hx, hf⟩ := frags_fragKept m s1
      rw [hp.pair] at hf
      exact ⟨_, x, he, hx, hf, by rw [fragKept, modUnit_pair, hp.pair]⟩
    · rw [if_neg (by obtain hbad | hbad := hbad <;> simp [hbad])] at he
      exact ⟨_, he, hp.pair⟩
  · have hp := fromPeer hu hr h hid hs
    subst hg
    have he := exec_genEndRx ha h hp hlen hle hcrc hts hx
    refine ⟨fun ⟨hv, hnext, hin, hblocks, hfrags⟩ => ?_, fun hbad => ?_⟩
    · have hwhole : genWhole s1 m (beAt m.bytes 0x1C 4) x = true := (genWhole_iff ..).mpr ⟨by rw [hp.pair]; exact hnext, hin, hblocks, hfrags⟩
      obtain ⟨hgen, hno, hrun, hgenIn⟩ := genComplete_pair (beAt m.bytes 0x1C 4) (wholeBlocks x.frags) s1
      rw [if_neg (not_not.mpr hv), if_pos hwhole] at he
      exact ⟨_, he, hgen, hno, by rw [hrun, hp.pair], by rw [hgenIn]; exact fget_fdel_self ..⟩
    · have hmissed : ∃ t, exec .genEndRx s = .next t ∧ GenMissed (beAt m.bytes 0x1C 4) s1 t := by
        by_cases hv : beAt m.bytes 0x28 4 = s.cfg.active.vintage
        · have hwhole : ¬ genWhole s1 m (beAt m.bytes 0x1C 4) x = true := by
            rw [genWhole_iff, hp.pair]
            rintro ⟨hnext, hin, hblocks, hfrags⟩
            obtain hbad | ⟨k, hk, hbad⟩ | hbad | hbad | hbad := hbad
            · exact hbad hv
            · exact hbad (hnext k hk)
            · omega
            · exact hbad hblocks
            · exact hbad hfrags
          rw [if_neg (not_not.mpr hv), if_neg hwhole] at he
          exact ⟨_, he, genMissed_genLost ..⟩
        · rw [if_pos hv] at he
          exact ⟨_, he, genMissed_genForeign ..⟩
      obtain ⟨t, ht, hm⟩ := hmissed
      rw [GenMissed, hp.pair] at hm
      exact ⟨t, ht, by rw [hm], by rw [hm], by rw [hm], by rw [hm], by rw [hm]⟩
  · have hm := genMissed_genLost g s
    refine ⟨_, exec_generationTimeout ha hx, ?_⟩
    rw [if_pos (by simp [racked, hu, hr, hlate]), hm]
    exact ⟨rfl, rfl, rfl, fget_fdel_self ..⟩
  · rw [exec_generationTimeout ha hx, if_neg (by simp [Nat.not_lt.mpr hin])]
  · rw [exec_handoverTimeout ha hh, if_pos hlate]
    exact ⟨_, rfl, rfl, completes_of_hp (completes_complete ..) rfl⟩
  · rw [exec_handoverTimeout ha hh, if_neg (Nat.not_lt.mpr hin)]
  · rw [exec_cmdPairHold h hle, if_neg (by obtain hok | hok | hok := hok <;> simp [hok])]
    exact ⟨_, rfl, completes_modUnit .., by rw [complete_pair, modUnit_pair]; exact beq_iff_eq⟩
  · rw [exec_cmdPairHold h hle, if_pos (by simp [hno])]
    exact ⟨_, rfl, completes_complete .., complete_pair ..⟩

end Sys2Proof.Machine

/-!
The witness (R430, R432, R446): what requests, renewals, releases and the expiry of a lease write of its holder, claim and end.
-/
namespace Sys2Proof.Machine

theorem witOf_congr {s t : State} (h : t.nv.wits = s.nv.wits) (n : Nat) : witOf t n = witOf s n := by rw [witOf, h, witOf]

theorem witOf_modWit (n k : Nat) (f : Wit → Wit) (s : State) : witOf (modWit n f s) k = if k = n then f (witOf s n) else witOf s k :=
  fgetD_fmod ..

@[simp] theorem setExpiry_nv (n ns : Nat) (s : State) : (setExpiry n ns s).nv = s.nv := rfl
@[simp] theorem fget_setExpiry (n ns : Nat) (s : State) : fget? (setExpiry n ns s).pair.expiry n = some ns := by
  rw [setExpiry, modUnit_pair, fget_fset, if_pos rfl]

/-- From `s` to `t` the leases that a witness keeps stay: holders, claims and ends. -/
structure SameLeases (s t : State) : Prop where
  wits : t.nv.wits = s.nv.wits
  expiry : t.pair.expiry = s.pair.expiry

theorem SameLeases.trans {s t u : State} (h : SameLeases s t) (k : SameLeases t u) : SameLeases s u :=
  ⟨k.wits.trans h.wits, k.expiry.trans h.expiry⟩

/-- The sequence numbers reserved with a witness. -/
def withResW (v : Nat) (s : State) : State := { s with nv := { s.nv with resW := v } }

theorem wits_withResW (v : Nat) (s : State) : (withResW v s).nv.wits = s.nv.wits := rfl

theorem nextSeqW_snd (s : State) : (nextSeqW s).2 = modUnit (fun p => { p with seqW := (p.seqW + 1) % 2 ^ 32 })
    (if s.pair.seqW = s.nv.resW then withResW ((s.nv.resW + 2 ^ 20) % 2 ^ 32) s else s) := by
  unfold nextSeqW
  dsimp only [withResW]

theorem sameLeases_nextSeqW (s : State) : SameLeases s (nextSeqW s).2 := by
  refine ⟨?_, by rw [nextSeqW_pair]⟩
  rw [nextSeqW_snd, modUnit_nv]
  split
  · exact wits_withResW _ s
  · rfl

theorem sameLeases_of_eq {s t : State} (hn : t.nv = s.nv) (hp : t.pair = s.pair) : SameLeases s t := ⟨by rw [hn], by rw [hp]⟩

theorem sameLeases_macSign {k : Nat} {bs : List Byte} {s t : State} {o : Option (List Byte)} (h : macSign k bs s = (t, o)) : SameLeases s t := by
  have hs : SameLeases s (macSign k bs s).1 := sameLeases_of_eq ((kept_macSign (Nat.and_self _) (Kept.refl s)).fst.fr.nv rfl) (macSign_pair ..)
  rwa [h] at hs

theorem sameLeases_count (off : Nat) (s : State) : SameLeases s (count off s) := sameLeases_of_eq (count_nv ..) (count_pair ..)

theorem sameLeases_sendUdp (mask dst dport : Nat) (bs : List Byte) (s : State) : SameLeases s (sendUdp mask dst dport bs s) :=
  sameLeases_of_eq ((kept_sendUdp (Nat.and_self _) (Kept.refl s)).fr.nv rfl) (sendUdp_pair ..)

/-- An answer changes no lease. -/
theorem sameLeases_witAnswer (n u reason : Nat) (m : PairMsg) (s : State) : SameLeases s (witAnswer n u reason m s) := by
  have hcounted : SameLeases s (if reason = 0 then (nextSeqW s).2 else count (PAIR + 0x324) (nextSeqW s).2) := by
    split
    · exact sameLeases_nextSeqW s
    · exact (sameLeases_nextSeqW s).trans (sameLeases_count ..)
  unfold witAnswer
  dsimp only
  split
  next t h =>
    exact hcounted.trans (sameLeases_macSign h)
  next t g h =>
    exact (hcounted.trans (sameLeases_macSign h)).trans ((sameLeases_sendUdp ..).trans (sameLeases_count ..))

/-- The lease length that a message carries is kept; the lease stays. -/
theorem witOf_keepLen (n : Nat) (m : PairMsg) (s : State) : witOf (keepLen n m s) n = { witOf s n with leaseNs := beAt m.bytes 0x24 4 } := by
  rw [keepLen, witOf_modWit, if_pos rfl]

theorem witLive_keepLen (n k : Nat) (m : PairMsg) (s : State) : witLive (keepLen n m s) n k = witLive s n k := by
  rw [witLive, witOf_keepLen]
  rfl

/-- The lease of pair `n` is given to the unit of message `m`, with the next claim. -/
def leaseGiven (n u : Nat) (m : PairMsg) (s : State) : State :=
  setExpiry n (s.tb.now + beAt m.bytes 0x24 4) (modWit n (fun w => { w with
    holder := u, claim := (if newer (msgClaim m) (witOf s n).claim then msgClaim m else (witOf s n).claim) + 1#32 }) (keepLen n m s))

/-- The lease of pair `n` is extended from the present instant. -/
def leaseExtended (n : Nat) (m : PairMsg) (s : State) : State := setExpiry n (s.tb.now + beAt m.bytes 0x24 4) (keepLen n m s)

theorem exec_requestRx {s s1 : State} {n u : Nat} {m : PairMsg} (ha : alive s = true) (h : takeUnitMsg 0x1011 s = (s1, some (n, u, m))) :
    exec .requestRx s = .next (
      if witLive s1 n s1.tb.now && (witOf s1 n).holder == u then
        (if witTime s1 then witAnswer n u 0 m (leaseExtended n m s1) else keepLen n m s1)
      else if witLive s1 n s1.tb.now then witAnswer n u 1 m (keepLen n m s1)
      else if witTime s1 then witAnswer n u 0 m (leaseGiven n u m s1) else keepLen n m s1) := by
  change execRequestRx s = _
  rw [execRequestRx, act_of_alive _ ha, h]
  dsimp only
  rw [witOf_keepLen, witLive_keepLen]
  rfl

theorem exec_renewRx {s s1 : State} {n u : Nat} {m : PairMsg} (ha : alive s = true) (h : takeUnitMsg 0x1012 s = (s1, some (n, u, m))) :
    exec .renewRx s = .next (
      if witLive s1 n s1.tb.now && (witOf s1 n).holder == u && msgClaim m == (witOf s1 n).claim then
        (if witTime s1 then witAnswer n u 0 m (leaseExtended n m s1) else keepLen n m s1)
      else witAnswer n u (if witLive s1 n s1.tb.now && (witOf s1 n).holder != u then 1 else if witLive s1 n s1.tb.now then 2 else 3) m
        (keepLen n m s1)) := by
  change execRenewRx s = _
  rw [execRenewRx, act_of_alive _ ha, h]
  dsimp only
  rw [witOf_keepLen, witLive_keepLen]
  rfl

theorem exec_releaseRx {s s1 : State} {n u : Nat} {m : PairMsg} (ha : alive s = true) (h : takeUnitMsg 0x1013 s = (s1, some (n, u, m))) :
    exec .releaseRx s = .next (if witLive s1 n s1.tb.now && (witOf s1 n).holder == u && msgClaim m == (witOf s1 n).claim then
      setExpiry n s1.tb.now (keepLen n m s1) else keepLen n m s1) := by
  change execReleaseRx s = _
  rw [execReleaseRx, act_of_alive _ ha, h]
  dsimp only
  rw [witOf_keepLen, witLive_keepLen]

theorem exec_witnessLeaseExpiry {s : State} {n e : Nat} (ns : Nat) (ha : alive s = true) (he : fget? s.pair.expiry n = some e) :
    exec (.witnessLeaseExpiry n ns) s = .next (if pairMode s = 2 ∧ e ≤ ns then
      seen ns (modUnit (fun p => { p with expiry := fdel p.expiry n }) s) else s) := by
  change execWitnessLeaseExpiry n ns s = _
  rw [execWitnessLeaseExpiry, act_of_alive _ ha, he]

/-- What an answered request or renewal leaves of the lease that it answers. -/
theorem witOf_witAnswer (n u reason : Nat) (m : PairMsg) (s : State) (k : Nat) : witOf (witAnswer n u reason m s) k = witOf s k :=
  witOf_congr (sameLeases_witAnswer ..).wits k

theorem expiry_witAnswer (n u reason : Nat) (m : PairMsg) (s : State) : (witAnswer n u reason m s).pair.expiry = s.pair.expiry :=
  (sameLeases_witAnswer ..).expiry

theorem expiry_keepLen (n : Nat) (m : PairMsg) (s : State) : (keepLen n m s).pair.expiry = s.pair.expiry := rfl

theorem witOf_setExpiry (n ns : Nat) (s : State) (k : Nat) : witOf (setExpiry n ns s) k = witOf s k := rfl

theorem holder_keepLen (n : Nat) (m : PairMsg) (s : State) : (witOf (keepLen n m s) n).holder = (witOf s n).holder ∧
    (witOf (keepLen n m s) n).claim = (witOf s n).claim := by
  rw [witOf_keepLen]
  exact ⟨rfl, rfl⟩

/-- An extended lease: its holder and claim stay, and it ends the message's lease length from now. -/
theorem leaseExtended_answered (n u : Nat) (m : PairMsg) (s : State) : (witOf (witAnswer n u 0 m (leaseExtended n m s)) n).holder = (witOf s n).holder ∧
    (witOf (witAnswer n u 0 m (leaseExtended n m s)) n).claim = (witOf s n).claim ∧
    fget? (witAnswer n u 0 m (leaseExtended n m s)).pair.expiry n = some (s.tb.now + beAt m.bytes 0x24 4) := by
  rw [witOf_witAnswer, expiry_witAnswer, leaseExtended, witOf_setExpiry, fget_setExpiry]
  exact ⟨(holder_keepLen n m s).1, (holder_keepLen n m s).2, rfl⟩

/-- A lease given: the unit holds it under the next claim for the message's lease length. -/
theorem leaseGiven_answered (n u : Nat) (m : PairMsg) (s : State) : (witOf (witAnswer n u 0 m (leaseGiven n u m s)) n).holder = u ∧
    (witOf (witAnswer n u 0 m (leaseGiven n u m s)) n).claim =
      (if newer (msgClaim m) (witOf s n).claim then msgClaim m else (witOf s n).claim) + 1#32 ∧
    fget? (witAnswer n u 0 m (leaseGiven n u m s)).pair.expiry n = some (s.tb.now + beAt m.bytes 0x24 4) := by
  rw [witOf_witAnswer, expiry_witAnswer, leaseGiven, witOf_setExpiry, fget_setExpiry, witOf_modWit, if_pos rfl]
  exact ⟨rfl, rfl, rfl⟩

/-- An answer without a grant, and a kept length, leave the lease. -/
theorem denied_answered (n u reason : Nat) (m : PairMsg) (s : State) :
    (witOf (witAnswer n u reason m (keepLen n m s)) n).holder = (witOf s n).holder ∧
    (witOf (witAnswer n u reason m (keepLen n m s)) n).claim = (witOf s n).claim ∧
    (witAnswer n u reason m (keepLen n m s)).pair.expiry = s.pair.expiry := by
  rw [witOf_witAnswer, expiry_witAnswer, expiry_keepLen]
  exact ⟨(holder_keepLen n m s).1, (holder_keepLen n m s).2, rfl⟩

/-- A lease whose end is now or before is not live. -/
theorem witLive_of_ended {s : State} {n now : Nat} (h : ∀ e, fget? s.pair.expiry n = some e → e ≤ now) : witLive s n now = false := by
  unfold witLive
  cases he : fget? s.pair.expiry n with
  | none => simp
  | some e => simp [h e he]

theorem requestRx_leases {s s1 : State} {n u : Nat} {m : PairMsg} (ha : alive s = true) (h : takeUnitMsg 0x1011 s = (s1, some (n, u, m))) :
    (witLive s1 n s1.tb.now → (witOf s1 n).holder ≠ u →
      ∃ t, exec .requestRx s = .next t ∧ (witOf t n).holder = (witOf s1 n).holder ∧ (witOf t n).claim = (witOf s1 n).claim ∧
        t.pair.expiry = s1.pair.expiry) ∧
    (witLive s1 n s1.tb.now → (witOf s1 n).holder = u → witTime s1 →
      ∃ t, exec .requestRx s = .next t ∧ (witOf t n).holder = u ∧ (witOf t n).claim = (witOf s1 n).claim ∧
        fget? t.pair.expiry n = some (s1.tb.now + beAt m.bytes 0x24 4)) ∧
    (witLive s1 n s1.tb.now = false → witTime s1 →
      ∃ t, exec .requestRx s = .next t ∧ (witOf t n).holder = u ∧
        (witOf t n).claim = (if newer (msgClaim m) (witOf s1 n).claim then msgClaim m else (witOf s1 n).claim) + 1#32 ∧
        fget? t.pair.expiry n = some (s1.tb.now + beAt m.bytes 0x24 4)) ∧
    (witTime s1 = false →
      ∃ t, exec .requestRx s = .next t ∧ (witOf t n).holder = (witOf s1 n).holder ∧ (witOf t n).claim = (witOf s1 n).claim ∧
        t.pair.expiry = s1.pair.expiry) := by
  have hkept : (witOf (keepLen n m s1) n).holder = (witOf s1 n).holder ∧ (witOf (keepLen n m s1) n).claim = (witOf s1 n).claim ∧
      (keepLen n m s1).pair.expiry = s1.pair.expiry := ⟨(holder_keepLen n m s1).1, (holder_keepLen n m s1).2, expiry_keepLen ..⟩
  rw [exec_requestRx ha h]
  refine ⟨fun hl hu => ⟨_, rfl, ?_⟩, fun hl hu ht => ⟨_, rfl, ?_⟩, fun hl ht => ⟨_, rfl, ?_⟩, fun ht => ⟨_, rfl, ?_⟩⟩
  · rw [if_neg (by simp [hu]), if_pos hl]
    exact denied_answered ..
  · rw [if_pos (by simp [hl, hu]), if_pos ht, ← hu]
    exact leaseExtended_answered ..
  · rw [if_neg (by simp [hl]), if_neg (by simp [hl]), if_pos ht]
    exact leaseGiven_answered ..
  · rw [ht]
    split
    · exact hkept
    · split
      · exact denied_answered ..
      · exact hkept

theorem renewRx_leases {s s1 : State} {n u : Nat} {m : PairMsg} (ha : alive s = true) (h : takeUnitMsg 0x1012 s = (s1, some (n, u, m))) :
    ∃ t, exec .renewRx s = .next t ∧ (witOf t n).holder = (witOf s1 n).holder ∧ (witOf t n).claim = (witOf s1 n).claim ∧
      (witLive s1 n s1.tb.now → (witOf s1 n).holder = u → msgClaim m = (witOf s1 n).claim → witTime s1 →
        fget? t.pair.expiry n = some (s1.tb.now + beAt m.bytes 0x24 4)) ∧
      ((witLive s1 n s1.tb.now = false ∨ (witOf s1 n).holder ≠ u ∨ msgClaim m ≠ (witOf s1 n).claim) → t.pair.expiry = s1.pair.expiry) := by
  refine ⟨_, exec_renewRx ha h, ?_⟩
  by_cases hin : (witLive s1 n s1.tb.now && (witOf s1 n).holder == u && msgClaim m == (witOf s1 n).claim) = true
  · have hnot : ¬ (witLive s1 n s1.tb.now = false ∨ (witOf s1 n).holder ≠ u ∨ msgClaim m ≠ (witOf s1 n).claim) := by
      simp only [Bool.and_eq_true, beq_iff_eq] at hin
      simp [hin]
    rw [if_pos hin]
    split
    · obtain ⟨h1, h2, h3⟩ := leaseExtended_answered n u m s1
      exact ⟨h1, h2, fun _ _ _ _ => h3, fun hbad => absurd hbad hnot⟩
    next ht => exact ⟨(holder_keepLen n m s1).1, (holder_keepLen n m s1).2, fun _ _ _ h => absurd h ht, fun hbad => absurd hbad hnot⟩
  · rw [if_neg hin]
    obtain ⟨h1, h2, h3⟩ := denied_answered n u
      (if witLive s1 n s1.tb.now && (witOf s1 n).holder != u then 1 else if witLive s1 n s1.tb.now then 2 else 3) m s1
    exact ⟨h1, h2, fun hl hu hc _ => absurd (by simp [hl, hu, hc]) hin, fun _ => h3⟩

theorem releaseRx_leases {s s1 : State} {n u : Nat} {m : PairMsg} (ha : alive s = true) (h : takeUnitMsg 0x1013 s = (s1, some (n, u, m))) :
    ∃ t, exec .releaseRx s = .next t ∧ (witOf t n).holder = (witOf s1 n).holder ∧ (witOf t n).claim = (witOf s1 n).claim ∧
      (witLive s1 n s1.tb.now → (witOf s1 n).holder = u → msgClaim m = (witOf s1 n).claim → witLive t n s1.tb.now = false) ∧
      ((witOf s1 n).holder ≠ u → t.pair.expiry = s1.pair.expiry) := by
  refine ⟨_, exec_releaseRx ha h, ?_⟩
  obtain ⟨h1, h2⟩ := holder_keepLen n m s1
  by_cases hin : (witLive s1 n s1.tb.now && (witOf s1 n).holder == u && msgClaim m == (witOf s1 n).claim) = true
  · rw [if_pos hin, witOf_setExpiry]
    refine ⟨h1, h2, fun _ _ _ => witLive_of_ended fun e he => ?_, fun hu => ?_⟩
    · rw [fget_setExpiry] at he
      exact (Option.some.inj he).ge
    · simp [hu] at hin
  · rw [if_neg hin]
    exact ⟨h1, h2, fun hl hu hc => absurd (by simp [hl, hu, hc]) hin, fun _ => expiry_keepLen ..⟩

/-- Settles O56: a witness keeps one holder, claim and end for a pair. -/
theorem theWitnessGrantsOneHolder : Obligations.TheWitnessGrantsOneHolder := by
  refine ⟨fun s s1 n u m ha h => requestRx_leases ha h, fun s s1 n u m ha h => renewRx_leases ha h,
    fun s s1 n u m ha h => releaseRx_leases ha h, fun s n ns e ha he => ⟨fun hm hle => ?_, fun hlt => ?_⟩⟩
  · rw [exec_witnessLeaseExpiry ns ha he, if_pos ⟨hm, hle⟩]
    refine ⟨_, rfl, fget_fdel_self .., fun k => witLive_of_ended fun e he => ?_⟩
    rw [seen_pair, modUnit_pair, fget_fdel_self] at he
    simp at he
  · rw [exec_witnessLeaseExpiry ns ha he, if_neg (fun h => Nat.not_le.mpr hlt h.2)]

end Sys2Proof.Machine

/-!
Resets, firmware, life-cycle transitions and tampers (R457 to R459, R469 to R473, R495): what each leaves of the parts that the commands of
chapters 17 and 18 speak of.
-/
namespace Sys2Proof.Machine

/-! ## Events and flags after a completion -/

/-- An event raised after a completion leaves the completion. -/
theorem completes_raise {s t : State} {n status r0 r1 : Nat} (h : completes s t n status r0 r1) (code : Nat) (o : EvObj) (arg : List Byte) :
    completes s (raise code o arg t) n status r0 r1 := by
  obtain ⟨h1, -, h3, -⟩ := cmd_congr ((kept_raise (code := code) (o := o) (arg := arg) (Nat.and_self _) (Kept.refl t)).fr.hpCmd rfl) n
  have hr (k : Nat) : hif (raise code o arg t) n k = hif t n k := fnReg_raise ..
  simpa only [completes, h1, h3, hr] using h

@[simp] theorem complete_sec (n status r0 r1 : Nat) (s : State) : (complete n status r0 r1 s).sec = s.sec :=
  (kept_complete (Nat.and_self _) (Kept.refl s)).fr.sec rfl
@[simp] theorem complete_nv (n status r0 r1 : Nat) (s : State) : (complete n status r0 r1 s).nv = s.nv :=
  (kept_complete (Nat.and_self _) (Kept.refl s)).fr.nv rfl
@[simp] theorem complete_fuses (n status r0 r1 : Nat) (s : State) : (complete n status r0 r1 s).fuses = s.fuses :=
  (kept_complete (Nat.and_self _) (Kept.refl s)).fr.fuses rfl
@[simp] theorem complete_pwr (n status r0 r1 : Nat) (s : State) : (complete n status r0 r1 s).pwr = s.pwr :=
  (kept_complete (Nat.and_self _) (Kept.refl s)).fr.pwr rfl
@[simp] theorem complete_vbat (n status r0 r1 : Nat) (s : State) : (complete n status r0 r1 s).vbat = s.vbat :=
  (kept_complete (Nat.and_self _) (Kept.refl s)).fr.vbat rfl
@[simp] theorem complete_tb (n status r0 r1 : Nat) (s : State) : (complete n status r0 r1 s).tb = s.tb :=
  (kept_complete (Nat.and_self _) (Kept.refl s)).fr.tb rfl

theorem runningFw_congr {s t : State} (hsec : t.sec.fwRun = s.sec.fwRun) (h0 : t.nv.fw0 = s.nv.fw0) (h1 : t.nv.fw1 = s.nv.fw1) :
    runningFw t = runningFw s := by rw [runningFw, hsec, h0, h1, runningFw]

/-! ## A reset (R495) -/

@[simp] theorem pwrHalf_pwr (o : Nat) (v : Word) (s : State) : (pwrHalf o v s).pwr = s.pwr :=
  (kept_pwrHalf (Nat.and_self _) (Kept.refl s)).fr.pwr rfl
@[simp] theorem pwrHalf_vbat (o : Nat) (v : Word) (s : State) : (pwrHalf o v s).vbat = s.vbat :=
  (kept_pwrHalf (Nat.and_self _) (Kept.refl s)).fr.vbat rfl
@[simp] theorem pwrHalf_fuses (o : Nat) (v : Word) (s : State) : (pwrHalf o v s).fuses = s.fuses :=
  (kept_pwrHalf (Nat.and_self _) (Kept.refl s)).fr.fuses rfl
@[simp] theorem pwrHalf_nv (o : Nat) (v : Word) (s : State) : (pwrHalf o v s).nv = s.nv :=
  (kept_pwrHalf (Nat.and_self _) (Kept.refl s)).fr.nv rfl

@[simp] theorem startReset_state (cause detail : Nat) (s : State) : (startReset cause detail s).pwr.state = .starting := by
  rw [startReset, pwrHalf_pwr, emptied]
@[simp] theorem startReset_fuses (cause detail : Nat) (s : State) : (startReset cause detail s).fuses = s.fuses := by
  rw [startReset, pwrHalf_fuses, emptied]
@[simp] theorem startReset_vbat (cause detail : Nat) (s : State) : (startReset cause detail s).vbat =
    { s.vbat with rstCause := BitVec.ofNat 32 (cause * 2 ^ 24 + detail % 65536) } := by rw [startReset, pwrHalf_vbat, emptied]

theorem startReset_rstCause (cause : Nat) (s : State) : (startReset cause 0 s).vbat.rstCause = BitVec.ofNat 32 (cause * 2 ^ 24) := by
  rw [startReset_vbat, Nat.zero_mod, Nat.add_zero]

/-! ## Firmware (R469) -/

@[simp] theorem modOtherFw_sec (f : FwCopy → FwCopy) (s : State) : (modOtherFw f s).sec = s.sec := by
  unfold modOtherFw
  split <;> rfl
@[simp] theorem modOtherFw_fuses (f : FwCopy → FwCopy) (s : State) : (modOtherFw f s).fuses = s.fuses := by
  unfold modOtherFw
  split <;> rfl
@[simp] theorem modOtherFw_pwr (f : FwCopy → FwCopy) (s : State) : (modOtherFw f s).pwr = s.pwr := by
  unfold modOtherFw
  split <;> rfl
theorem modOtherFw_hp (f : FwCopy → FwCopy) (s : State) : (modOtherFw f s).hp = s.hp := by
  unfold modOtherFw
  split <;> rfl
/-- The copy that runs is not the one changed. -/
theorem runningFw_modOtherFw (f : FwCopy → FwCopy) (s : State) : runningFw (modOtherFw f s) = runningFw s := by
  rw [runningFw, modOtherFw_sec]
  unfold modOtherFw runningFw
  split <;> rfl

/-- Whether a firmware package is accepted. -/
def pkgOk (s : State) (p : FwPkg) : Bool := p.manifestOk && p.hashesOk && decide (s.fuses.svn ≤ p.svn)

/-- The package stands in the copy that does not run, accepted or not. -/
def fwStaged (p : FwPkg) (s : State) : State :=
  let t := modOtherFw (fun _ => { version := p.version, svn := p.svn, marked := false, verifies := pkgOk s p, comps := p.comps }) s
  { t with sec := { t.sec with staged := pkgOk s p, stagedMc := if pkgOk s p then p.mc else [], rewrapped := false, fwAt := none } }

theorem fwStaged_keeps (p : FwPkg) (s : State) : (fwStaged p s).sec = { s.sec with
      staged := pkgOk s p, stagedMc := if pkgOk s p then p.mc else [], rewrapped := false, fwAt := none } ∧
    (fwStaged p s).fuses = s.fuses ∧ (fwStaged p s).hp = s.hp ∧ runningFw (fwStaged p s) = runningFw s := by
  refine ⟨?_, modOtherFw_fuses .., modOtherFw_hp .., ?_⟩
  · simp only [fwStaged, modOtherFw_sec]
  · exact runningFw_modOtherFw (fun _ => { version := p.version, svn := p.svn, marked := false, verifies := pkgOk s p, comps := p.comps }) s

theorem exec_cmdFwStage {s : State} {n : Nat} {raw : List Byte} (p : FwPkg) (h : cmdReady s n 0x46 [(8, 12)] raw) (h1 : 1 ≤ leAt raw 0x10 4)
    (h2 : leAt raw 0x10 4 ≤ 67108864) (hlc : s.fuses.lc ≠ 5) : exec (.cmdFwStage n (some p)) s =
      .next (if pkgOk s p then fwEvent 0x46 0 (complete n 0 p.version 0 (fwStaged p s)) else fwRefuse n 0x46 3 (fwStaged p s)) := by
  change execCmdFwStage n (some p) s = _
  rw [execCmdFwStage, runCmd_of_ready _ h]
  dsimp only
  rw [if_neg (by omega), if_neg hlc]
  rfl

/-- After a firmware event nothing but the events has changed. -/
theorem fwEvent_keeps (op res : Nat) (s : State) : (fwEvent op res s).sec = s.sec ∧ (fwEvent op res s).nv = s.nv ∧
    (fwEvent op res s).fuses = s.fuses ∧ (fwEvent op res s).pwr = s.pwr ∧ (fwEvent op res s).vbat = s.vbat :=
  ⟨raise_sec .., raise_nv .., raise_fuses .., raise_pwr .., raise_vbat ..⟩

theorem completes_fwEvent {s t : State} {n status r0 r1 : Nat} (h : completes s t n status r0 r1) (op res : Nat) :
    completes s (fwEvent op res t) n status r0 r1 := completes_raise h ..

theorem fwRefuse_refuses (n op r : Nat) {s u : State} (hp : u.hp = s.hp) : completes s (fwRefuse n op r u) n 5 r 0 ∧
    (fwRefuse n op r u).sec = u.sec ∧ (fwRefuse n op r u).nv = u.nv ∧ (fwRefuse n op r u).fuses = u.fuses := by
  obtain ⟨h1, h2, h3, -⟩ := fwEvent_keeps op r (complete n 5 r 0 u)
  exact ⟨completes_fwEvent (SameCmd.of_hp hp).completes .., h1.trans (complete_sec ..), h2.trans (complete_nv ..), h3.trans (complete_fuses ..)⟩

theorem exec_cmdFwRewrap_unstaged {s : State} {n : Nat} {raw : List Byte} (h : cmdReady s n 0x47 [] raw) (hs : s.sec.staged = false) :
    exec (.cmdFwRewrap n) s = .next (fwRefuse n 0x47 5 s) := by
  change execCmdFwRewrap n s = _
  rw [execCmdFwRewrap, runCmd_of_ready _ h]
  dsimp only
  rw [if_pos (by simp [hs])]

/-- The slots that stand open. -/
def openSlots (s : State) : FMap VSlot := if s.sec.unsealed then (activeStore s).slots else []

/-- The slots sealed again under the staged chain, in the store not in use. -/
def rewrapped (s : State) : State :=
  let v : VStore := { written := true, mc := s.sec.stagedMc, root := s.nv.root, slots := openSlots s }
  let t := if s.sec.store = 0 then { s with nv := { s.nv with store1 := v } } else { s with nv := { s.nv with store0 := v } }
  { t with sec := { t.sec with rewrapped := true } }

/-- The slots of the open store that hold a valid key. -/
def heldSlots (s : State) : Nat :=
  ((openSlots s).filter (fun e => (if e.2.ctr.toNat % 2 = 0 then e.2.cell0 else e.2.cell1).valid)).length

theorem exec_cmdFwRewrap {s : State} {n : Nat} {raw : List Byte} (h : cmdReady s n 0x47 [] raw) (hs : s.sec.staged = true)
    (hv : vaultReason s = 0) : exec (.cmdFwRewrap n) s = .next (fwEvent 0x47 0 (complete n 0 (heldSlots s) 0 (rewrapped s))) := by
  change execCmdFwRewrap n s = _
  rw [execCmdFwRewrap, runCmd_of_ready _ h]
  dsimp only
  rw [if_neg (by simp [hs]), if_neg (not_not.mpr hv)]
  rfl

theorem rewrapped_keeps (s : State) : (rewrapped s).hp = s.hp ∧ (rewrapped s).sec = { s.sec with rewrapped := true } ∧
    (activeStore (rewrapped s)) = activeStore s ∧
    (if s.sec.store = 0 then (rewrapped s).nv.store1 else (rewrapped s).nv.store0).mc = s.sec.stagedMc := by
  by_cases h : s.sec.store = 0 <;> simp [rewrapped, h, activeStore]

theorem slotOf_of_store {s t : State} (hu : t.sec.unsealed = s.sec.unsealed) (hs : activeStore t = activeStore s) (k : Nat) :
    slotOf t k = slotOf s k := by rw [slotOf, hu, hs, slotOf]

theorem cmdFwRewrap_rewraps {s : State} {n : Nat} {raw : List Byte} (h : cmdReady s n 0x47 [] raw) (hs : s.sec.staged = true)
    (hv : vaultReason s = 0) : ∃ t r, exec (.cmdFwRewrap n) s = .next t ∧ completes s t n 0 r 0 ∧ t.sec.rewrapped = true ∧
      (∀ k, slotOf t k = slotOf s k) ∧ (if s.sec.store = 0 then t.nv.store1 else t.nv.store0).mc = s.sec.stagedMc := by
  obtain ⟨hhp, hsec, hstore, hmc⟩ := rewrapped_keeps s
  obtain ⟨h1, h2, -⟩ := fwEvent_keeps 0x47 0 (complete n 0 (heldSlots s) 0 (rewrapped s))
  rw [complete_sec] at h1
  rw [complete_nv] at h2
  have hact : activeStore (fwEvent 0x47 0 (complete n 0 (heldSlots s) 0 (rewrapped s))) = activeStore s := by
    rw [activeStore, h1, h2, ← activeStore, hstore]
  refine ⟨_, heldSlots s, exec_cmdFwRewrap h hs hv, completes_fwEvent (SameCmd.of_hp hhp).completes _ _, ?_, fun k => slotOf_of_store ?_ hact k, ?_⟩
  · rw [h1, hsec]
  · rw [h1, hsec]
  · rw [h2]
    exact hmc

/-- A firmware activation that is taken: the staged copy is marked for boot, the command complete. -/
def fwMarked (n : Nat) (s : State) : State := fwEvent 0x48 0 (complete n 0 0 0 (modOtherFw (fun c => { c with marked := true }) s))

theorem exec_cmdFwActivate {s : State} {n : Nat} {raw : List Byte} (h : cmdReady s n 0x48 [(8, 8)] raw) : exec (.cmdFwActivate n) s =
    .next (if !s.sec.staged || !s.sec.rewrapped then fwRefuse n 0x48 5 s
      else if leAt raw 8 8 ≠ 0 ∧ (!hasTime s || decide (leAt raw 8 8 ≤ taiSec s)) then complete n 3 0 0 s
      else if leAt raw 8 8 = 0 then startReset 6 0 (fwMarked n s)
      else { fwMarked n s with sec := { (fwMarked n s).sec with fwAt := some (leAt raw 8 8) } }) := by
  change execCmdFwActivate n s = _
  rw [execCmdFwActivate, runCmd_of_ready _ h]
  rfl

theorem fwMarked_completes (n : Nat) (s : State) : completes s (fwMarked n s) n 0 0 0 ∧ (fwMarked n s).pwr = s.pwr :=
  ⟨completes_fwEvent (SameCmd.of_hp (modOtherFw_hp ..)).completes .., (fwEvent_keeps ..).2.2.2.1.trans ((complete_pwr ..).trans (modOtherFw_pwr ..))⟩

theorem exec_fwActivateReset {s : State} {sec : Nat} (ha : alive s = true) (hs : s.sec.fwAt = some sec) : exec .fwActivateReset s =
    .next (if hasTime s && decide (sec * 1000000000 ≤ s.tb.now) then startReset 6 0 s else s) := by
  change execFwActivateReset s = _
  rw [execFwActivateReset, act_of_alive _ ha, hs]

/-! ## Life-cycle transitions (R457 to R459) -/

theorem exec_cmdLcTransition_spent {s : State} {n : Nat} {raw : List Byte} (o : Option (List Byte)) (h : cmdReady s n 0x45 [(8, 8)] raw)
    (hc : s.fuses.lcCtr = 64) : exec (.cmdLcTransition n o) s = .next (complete n 5 7 0 s) := by
  change execCmdLcTransition n o s = _
  rw [execCmdLcTransition, runCmd_of_ready _ h]
  dsimp only
  rw [if_pos hc]

theorem exec_cmdLcTransition {s : State} {n : Nat} {raw : List Byte} (tk : List Byte) (h : cmdReady s n 0x45 [(8, 8)] raw)
    (hc : s.fuses.lcCtr ≠ 64) : exec (.cmdLcTransition n (some tk)) s =
      .next (if tokenOk s (padTo 5072 tk) then startReset 7 0 (transition (padTo 5072 tk) s) else complete n 5 4 0 s) := by
  change execCmdLcTransition n (some tk) s = _
  rw [execCmdLcTransition, runCmd_of_ready _ h]
  dsimp only
  rw [if_neg hc]

theorem rekey_fuses (b : Nat) (s : State) : (rekey b s).fuses = s.fuses := (kept_rekey (Nat.and_self _) (Kept.refl s)).fr.fuses rfl

theorem transition_fuses (t : List Byte) (s : State) : (transition t s).fuses.lc = leAt t 5 1 ∧
    (transition t s).fuses.lcCtr = s.fuses.lcCtr + 1 := by
  unfold transition
  dsimp only
  split <;> rw [rekey_fuses] <;> exact ⟨rfl, rfl⟩

/-! ## Tampers (R470 to R473) -/

/-- The entry of the tamper log for these sources. -/
def tamperEntry (s : State) (mask phase : Nat) : TLog := { sources := mask, phase := phase, lc := s.fuses.lc, time := s.vbat.rtc }

theorem logTamper_keeps (mask phase : Nat) (s : State) : (logTamper mask phase s).fuses = s.fuses ∧
    (logTamper mask phase s).sec.present = s.sec.present ∧
    (logTamper mask phase s).vbat = { s.vbat with tlog := (tamperEntry s mask phase :: s.vbat.tlog).take 16 } := by
  unfold logTamper
  dsimp only
  split <;> simp [secFlag, tamperEntry]

theorem reportTamper_keeps (mask phase : Nat) (s : State) : (reportTamper mask phase s).fuses = s.fuses ∧
    (reportTamper mask phase s).sec = s.sec ∧ (reportTamper mask phase s).vbat = s.vbat ∧ (reportTamper mask phase s).nv = s.nv := by
  have h := (kept_reportTamper (mask := mask) (phase := phase) (Nat.and_self _) (Kept.refl s)).fr
  exact ⟨h.fuses rfl, h.sec rfl, h.vbat rfl, h.nv rfl⟩

theorem tamperLock_keeps (phase : Nat) (s : State) : (tamperLock phase s).fuses.tlock = true ∧ (tamperLock phase s).vbat = { s.vbat with kek := false } ∧
    (tamperLock phase s).sec.present = s.sec.present ∧
    (phase ≠ 3 → (tamperLock phase s).nv.root = 0 ∧ (tamperLock phase s).sec.unsealed = false) := by
  unfold tamperLock
  by_cases h : phase = 3 <;> simp [h, zeroiseVault]

/-- A tamper beyond MANUFACTURE locks; one during a key operation raises a flag too. -/
def tamperLocked (phase : Nat) (s : State) : State :=
  if s.fuses.lc = 1 then s else if phase = 1 then secFlag 2 (tamperLock phase s) else tamperLock phase s

theorem exec_tamperDetect {s : State} {mask : Nat} {k : Bool} (ho : s.pwr.state ≠ .off) (hs : tamperSeen s mask ≠ 0) :
    exec (.tamperDetect mask k) s = .next (reportTamper (tamperSeen s mask) (tamperPhase s k) (tamperLocked (tamperPhase s k)
      (logTamper (tamperSeen s mask) (tamperPhase s k) { s with sec := { s.sec with present := tamperSeen s mask } }))) := by
  change execTamperDetect mask k s = _
  rw [execTamperDetect]
  dsimp only
  rw [if_neg (by simp [ho, hs])]
  rfl

theorem exec_tamperDetect_unwatched {s : State} {mask : Nat} (k : Bool) (h : s.pwr.state = .off ∨ tamperSeen s mask = 0) :
    exec (.tamperDetect mask k) s = .next s := by
  change execTamperDetect mask k s = _
  rw [execTamperDetect]
  dsimp only
  rw [if_pos h]

theorem tamperLocked_keeps (phase : Nat) (s : State) : (tamperLocked phase s).sec.present = s.sec.present ∧
    (tamperLocked phase s).vbat.tlog = s.vbat.tlog ∧ (s.fuses.lc = 1 → tamperLocked phase s = s) ∧
    (s.fuses.lc ≠ 1 → (tamperLocked phase s).vbat.kek = false ∧ (tamperLocked phase s).fuses.tlock = true ∧
      (phase ≠ 3 → (tamperLocked phase s).nv.root = 0 ∧ (tamperLocked phase s).sec.unsealed = false)) := by
  obtain ⟨h1, h2, h3, h4⟩ := tamperLock_keeps phase s
  by_cases hlc : s.fuses.lc = 1
  · simp [tamperLocked, hlc]
  · by_cases hp : phase = 1
    · subst hp
      simp [tamperLocked, hlc, secFlag, h1, h2, h3, h4]
    · simp only [tamperLocked, hlc, hp, if_false, h1, h2, h3]
      exact ⟨trivial, trivial, fun h => h.elim, fun _ => ⟨trivial, trivial, h4⟩⟩

/-- Settles O58: firmware staged, rewrapped and activated, life-cycle transitions, tampers. -/
theorem firmwareTransitionsAndTampers : Obligations.FirmwareTransitionsAndTampers := by
  refine ⟨fun s n raw p _ h h1 h2 hlc => ?_, fun s n raw _ h => ⟨fun hs => ?_, fun hs hv => cmdFwRewrap_rewraps h hs hv⟩,
    fun s n raw _ h => ⟨fun hno => ?_, fun hs hr => ⟨fun h0 => ?_, fun ht hlt => ?_⟩⟩, fun s sec ha hs => ⟨fun ht hle => ?_, fun hlt => ?_⟩,
    fun s n raw tk _ h => ⟨fun hc o => ⟨_, exec_cmdLcTransition_spent o h hc, completes_complete .., complete_fuses ..⟩, fun hc => ?_⟩,
    fun s mask k => ⟨exec_tamperDetect_unwatched k, fun ho hs => ?_⟩⟩
  · obtain ⟨hsec, hfuses, hhp, hrun⟩ := fwStaged_keeps p s
    have hiff : pkgOk s p = true ↔ (p.manifestOk = true ∧ p.hashesOk = true ∧ s.fuses.svn ≤ p.svn) := by simp [pkgOk, and_assoc]
    rw [exec_cmdFwStage p h h1 h2 hlc]
    refine ⟨fun hok => ?_, fun hbad => ?_⟩
    · obtain ⟨e1, e2, e3, -⟩ := fwEvent_keeps 0x46 0 (complete n 0 p.version 0 (fwStaged p s))
      rw [complete_sec, hsec, hiff.mpr hok] at e1
      rw [complete_nv] at e2
      rw [complete_fuses, hfuses] at e3
      rw [if_pos (hiff.mpr hok)]
      refine ⟨_, rfl, completes_fwEvent (SameCmd.of_hp hhp).completes _ _, ?_, ?_, ?_, ?_, e3⟩
      · rw [e1]
      · rw [e1]; rfl
      · rw [e1]
      · rw [← hrun]
        exact runningFw_congr (by rw [e1, hsec]) (by rw [e2]) (by rw [e2])
    · obtain ⟨hc, e1, e2, -⟩ := fwRefuse_refuses n 0x46 3 hhp
      have hno : pkgOk s p = false := Bool.eq_false_iff.mpr (mt hiff.mp hbad)
      rw [if_neg (by simp [hno])]
      refine ⟨_, rfl, hc, by rw [e1, hsec, hno], ?_⟩
      rw [← hrun]
      exact runningFw_congr (by rw [e1]) (by rw [e2]) (by rw [e2])
  · obtain ⟨hc, hsec, hnv, -⟩ := fwRefuse_refuses n 0x47 5 (s := s) rfl
    exact ⟨_, exec_cmdFwRewrap_unstaged h hs, hc, hsec, hnv⟩
  · obtain ⟨hc, hsec, hnv, -⟩ := fwRefuse_refuses n 0x48 5 (s := s) rfl
    rw [exec_cmdFwActivate h, if_pos (by obtain hno | hno := hno <;> simp [hno])]
    exact ⟨_, rfl, hc, hsec, hnv⟩
  · rw [exec_cmdFwActivate h, if_neg (by simp [hs, hr]), if_neg (by simp [h0]), if_pos h0]
    exact ⟨_, rfl, startReset_state .., startReset_rstCause ..⟩
  · obtain ⟨hc, hp⟩ := fwMarked_completes n s
    rw [exec_cmdFwActivate h, if_neg (by simp [hs, hr]), if_neg (by simp [ht, hlt]), if_neg (by omega)]
    exact ⟨_, rfl, completes_of_hp hc rfl, rfl, congrArg Pwr.state hp⟩
  · rw [exec_fwActivateReset ha hs, if_pos (by simp [ht, hle])]
    exact ⟨_, rfl, startReset_state .., startReset_rstCause .., startReset_fuses ..⟩
  · rw [exec_fwActivateReset ha hs, if_neg (by simp [Nat.not_le.mpr hlt])]
  · refine ⟨_, exec_cmdLcTransition tk h hc, ?_⟩
    by_cases hok : tokenOk s (padTo 5072 tk) = true
    · obtain ⟨hlc, hctr⟩ := transition_fuses (padTo 5072 tk) s
      rw [if_pos hok, if_pos hok, startReset_fuses, startReset_state, startReset_rstCause]
      exact ⟨hlc, hctr, rfl, rfl⟩
    · rw [if_neg hok, if_neg hok]
      exact ⟨completes_complete .., complete_fuses ..⟩
  · obtain ⟨r1, r2, r3, r4⟩ := reportTamper_keeps (tamperSeen s mask) (tamperPhase s k) (tamperLocked (tamperPhase s k)
      (logTamper (tamperSeen s mask) (tamperPhase s k) { s with sec := { s.sec with present := tamperSeen s mask } }))
    obtain ⟨l1, l2, l3⟩ := logTamper_keeps (tamperSeen s mask) (tamperPhase s k) { s with sec := { s.sec with present := tamperSeen s mask } }
    obtain ⟨k1, k2, k3, k4⟩ := tamperLocked_keeps (tamperPhase s k)
      (logTamper (tamperSeen s mask) (tamperPhase s k) { s with sec := { s.sec with present := tamperSeen s mask } })
    rw [l1] at k3 k4
    refine ⟨_, exec_tamperDetect ho hs, ?_, ?_, fun hlc => ?_, fun hlc => ?_⟩
    · rw [r2, k1, l2]
    · rw [r3, k2, l3]
      rfl
    · rw [r3, r1, k3 hlc, l3, l1]
      exact ⟨rfl, rfl⟩
    · rw [r1, r2, r3, r4]
      exact k4 hlc

end Sys2Proof.Machine

/-!
The power state (R481 to R495, R509): what each event of the supply, of RESET_N and of the RTC makes of it.
-/
namespace Sys2Proof.Machine

/-! ## Outputs released (R490) -/

/-- From `d` to `d'` a DO is released: one driven or held falls to level 0. -/
def DoOff (d d' : Do) : Prop := d'.st = 0 ∧ (d.st ≠ 0 → d'.level = false)

theorem doOff_releaseDo (n : Nat) (s : State) : DoOff (doOf s n) (doOf (releaseDo n s) n) := by
  by_cases h : (doOf s n).st = 0
  · rw [releaseDo, if_pos h]
    exact ⟨h, fun hn => absurd h hn⟩
  · obtain ⟨hlevel, hst, -⟩ := doOf_setLevel_self n false (modDo n (fun d => { d with st := 0, fallHeld := false }) s)
    rw [doOf_modDo, if_pos rfl] at hst
    rw [doOf_releaseDo h]
    exact ⟨hst, fun _ => hlevel⟩

theorem doOf_releaseDo_of_ne {n m : Nat} (hm : m ≠ n) (s : State) : doOf (releaseDo n s) m = doOf s m := by
  by_cases h : (doOf s n).st = 0
  · rw [releaseDo, if_pos h]
  · rw [doOf_releaseDo h, doReleased, doOf_setLevel_of_ne hm, doOf_modDo, if_neg hm]

/-- Releasing the DOs below `k` releases each of them and leaves the others. -/
theorem foldl_releaseDo (s : State) (k : Nat) : (∀ n, n < k → DoOff (doOf s n) (doOf ((List.range k).foldl (fun s n => releaseDo n s) s) n)) ∧
    (∀ n, k ≤ n → doOf ((List.range k).foldl (fun s n => releaseDo n s) s) n = doOf s n) := by
  induction k with
  | zero => exact ⟨fun n h => absurd h n.not_lt_zero, fun n _ => rfl⟩
  | succ k ih =>
    obtain ⟨hin, hout⟩ := ih
    rw [List.range_succ, List.foldl_append, List.foldl_cons, List.foldl_nil]
    refine ⟨fun n hn => ?_, fun n hn => ?_⟩
    · obtain hlt | rfl := Nat.lt_succ_iff_lt_or_eq.mp hn
      · rw [doOf_releaseDo_of_ne hlt.ne]
        exact hin n hlt
      · have := doOff_releaseDo n ((List.range n).foldl (fun s n => releaseDo n s) s)
        rwa [hout n le_rfl] at this
    · rw [doOf_releaseDo_of_ne (Nat.lt_of_succ_le hn).ne', hout n (Nat.le_of_succ_le hn)]

theorem doOff_stopOutputs (s : State) {n : Nat} (hn : n < 16) : DoOff (doOf s n) (doOf (stopOutputs s) n) := by
  have h := (foldl_releaseDo s 16).1 n hn
  have hpub : (stopOutputs s).pub = ((List.range 16).foldl (fun s n => releaseDo n s) s).pub := by rw [stopOutputs]
  rwa [doOf, doOf, hpub]

@[simp] theorem stopOutputs_pwr (s : State) : (stopOutputs s).pwr = s.pwr := (kept_stopOutputs (Nat.and_self _) (Kept.refl s)).fr.pwr rfl
@[simp] theorem stopOutputs_vbat (s : State) : (stopOutputs s).vbat = s.vbat := (kept_stopOutputs (Nat.and_self _) (Kept.refl s)).fr.vbat rfl

@[simp] theorem pwrHalf_cfg (o : Nat) (v : Word) (s : State) : (pwrHalf o v s).cfg = s.cfg :=
  (kept_pwrHalf (Nat.and_self _) (Kept.refl s)).fr.cfg rfl
@[simp] theorem pwrHalf_pub (o : Nat) (v : Word) (s : State) : (pwrHalf o v s).pub = s.pub :=
  (kept_pwrHalf (Nat.and_self _) (Kept.refl s)).fr.pub rfl

/-! ## SHED (R489, R490) -/

theorem shed_keeps (ns : Nat) (s : State) : (shed ns s).pwr = s.pwr ∧ (shed ns s).cfg = s.cfg ∧
    (shed ns s).vbat = { s.vbat with pfailAt := some ns } ∧ ∀ n, n < 16 → DoOff (doOf s n) (doOf (shed ns s) n) := by
  have h := (kept_shed (ns := ns) (Nat.and_self _) (Kept.refl s)).fr
  have hloss := (kept_mtrSupplyLoss (ns := ns) (Nat.and_self _) (Kept.refl (stopOutputs (seen ns s)))).fr
  refine ⟨h.pwr rfl, h.cfg rfl, ?_, fun n hn => ?_⟩
  · rw [shed]
    dsimp only
    rw [hloss.vbat rfl, stopOutputs_vbat, seen_vbat]
  · have hpub : (shed ns s).pub = (stopOutputs (seen ns s)).pub := by
      rw [shed]
      dsimp only
      exact hloss.pub rfl
    have hoff := doOff_stopOutputs (seen ns s) hn
    rwa [doOf, doOf, hpub]

theorem pfailed_keeps (s : State) : (pfailed s).pwr = { s.pwr with state := .shed, pfailN := false } ∧ (pfailed s).vbat = s.vbat ∧
    (pfailed s).cfg = s.cfg ∧ (pfailed s).pub = s.pub := by
  refine ⟨?_, ?_, ?_, ?_⟩
  · rw [pfailed, pwrHalf_pwr, modPwr]
  · rw [pfailed, pwrHalf_vbat, modPwr]
  · rw [pfailed, pwrHalf_cfg, modPwr]
  · rw [pfailed, pwrHalf_pub, modPwr]

theorem exec_pfailWarning {s : State} {ext : Bool} (ns : Nat) (hb : bit (pfailCfg s) (if ext then 15 else 14) = true) (hr : s.pwr.state = .run) :
    exec (.pfailWarning ns ext) s = .next (pfailed (shed ns s)) := by
  change execPfailWarning ns ext s = _
  rw [execPfailWarning]
  dsimp only
  rw [if_neg (by rw [hb]; simp), hr]

theorem exec_pfailWarning_unheard {s : State} {ext : Bool} (ns : Nat) (h : bit (pfailCfg s) (if ext then 15 else 14) = false ∨
    s.pwr.state = .shed ∨ s.pwr.state = .sleep ∨ s.pwr.state = .off) : exec (.pfailWarning ns ext) s = .next s := by
  change execPfailWarning ns ext s = _
  rw [execPfailWarning]
  dsimp only
  by_cases hb : bit (pfailCfg s) (if ext then 15 else 14) = true
  · rw [if_neg (by rw [hb]; simp)]
    obtain h | h | h | h := h
    · simp [h] at hb
    · rw [h]
    · rw [h]
    · rw [h]
  · rw [if_pos (by simpa using hb)]

theorem pfailWarning_sheds {s : State} {ext : Bool} (ns : Nat) (hb : bit (pfailCfg s) (if ext then 15 else 14) = true) (hr : s.pwr.state = .run) :
    ∃ t, exec (.pfailWarning ns ext) s = .next t ∧ t.pwr.state = .shed ∧ vioOn t = false ∧ t.pwr.pfailN = false ∧ t.vbat.pfailAt = some ns ∧
      (∀ k, k < 16 → (doOf t k).st = 0 ∧ ((doOf s k).st ≠ 0 → (doOf t k).level = false)) ∧ t.cfg = s.cfg := by
  obtain ⟨-, hcfg, hvbat, hoff⟩ := shed_keeps ns s
  obtain ⟨kpwr, kvbat, kcfg, kpub⟩ := pfailed_keeps (shed ns s)
  refine ⟨_, exec_pfailWarning ns hb hr, by rw [kpwr], by rw [vioOn, kpwr]; rfl, by rw [kpwr], by rw [kvbat, hvbat], fun k hk => ?_, kcfg.trans hcfg⟩
  have := hoff k hk
  rwa [doOf_congr (congrArg Pub.dos kpub)]

/-! ## The end of a shed, of the supply and of RESET_N (R491, R494, R495) -/

theorem exec_pfailRecover (mv : Nat) (s : State) : exec (.pfailRecover mv) s =
    .next (if s.pwr.state == .shed && vinHigh s mv then startReset 3 0 (modPwr (fun p => { p with vin := mv }) s) else s) := by
  change execPfailRecover mv s = _
  rw [execPfailRecover]
  split <;> rfl

@[simp] theorem startReset_pwr (cause detail : Nat) (s : State) : (startReset cause detail s).pwr =
    { pfailN := s.pwr.pfailN, resetN := s.pwr.resetN, perstN := s.pwr.perstN, vbatPin := s.pwr.vbatPin, vin := s.pwr.vin, temp := s.pwr.temp } := by
  rw [startReset, pwrHalf_pwr, emptied]

theorem startReset_resets (cause detail : Nat) (s : State) : (startReset cause detail s).nv.resets = s.nv.resets + 1#32 := by
  rw [startReset, pwrHalf_nv, emptied]

theorem exec_uvloFall_off {s : State} (h : s.pwr.state = .off ∨ s.pwr.state = .batteryStandby) : exec .uvloFall s = .next s := by
  change execUvloFall s = _
  rw [execUvloFall]
  obtain h | h := h <;> rw [h]

theorem exec_uvloFall {s : State} (h1 : s.pwr.state ≠ .off) (h2 : s.pwr.state ≠ .batteryStandby) : exec .uvloFall s = .next (supplyGone s) := by
  change execUvloFall s = _
  rw [execUvloFall]
  split
  next h => exact absurd h h1
  next h => exact absurd h h2
  next => rfl

theorem supplyGone_leaves (s : State) : (s.pwr.vbatPin = true → (supplyGone s).pwr.state = .batteryStandby ∧ (supplyGone s).vbat = s.vbat) ∧
    (s.pwr.vbatPin = false → (supplyGone s).pwr.state = .off ∧ (supplyGone s).vbat.kek = false ∧ (supplyGone s).vbat.rtcValid = false) ∧
    vioOn (supplyGone s) = false := by
  cases h : s.pwr.vbatPin <;> simp [supplyGone, vbatGone, modPwr, vioOn, h]

theorem exec_vbatLost (s : State) : exec .vbatLost s = .next (if s.pwr.state = .batteryStandby then
    vbatGone (modPwr (fun p => { p with vbatPin := false, state := .off }) s) else modPwr (fun p => { p with vbatPin := false }) s) := by
  change execVbatLost s = _
  rw [execVbatLost]
  by_cases h : s.pwr.state = .batteryStandby <;> simp [h, modPwr]

/-- A reset that may also be a wake from SLEEP. -/
theorem wakeReset_keeps (cause : Nat) (s : State) : (wakeReset cause s).pwr = (startReset cause 0 s).pwr ∧
    (wakeReset cause s).vbat = (startReset cause 0 s).vbat := by
  unfold wakeReset
  dsimp only
  split
  · exact ⟨count_pwr .., count_vbat ..⟩
  · exact ⟨rfl, rfl⟩

theorem exec_resetNLow (s : State) : exec .resetNLow s = .next (if powered s then wakeReset 2 (modPwr (fun p => { p with resetN := false }) s)
    else modPwr (fun p => { p with resetN := false }) s) := rfl

theorem exec_sleepWake {s : State} {w : Nat} (rtc : Nat) (hs : s.pwr.state = .sleep) (hw : s.pwr.wake = some w) : exec (.sleepWake rtc) s =
    .next (if w ≠ 0 ∧ s.vbat.rtcValid ∧ w * 1000000000 ≤ rtc then wakeReset 8 { s with vbat := { s.vbat with rtc := rtc } } else s) := by
  change execSleepWake rtc s = _
  rw [execSleepWake, hs, hw]
  dsimp only
  split <;> rfl

/-! ## Alerts (R505) -/

theorem foldl_evLogSeq {f : State → Nat → State} (hf : ∀ s n, (f s n).evLogSeq = s.evLogSeq) (l : List Nat) (s : State) :
    (l.foldl f s).evLogSeq = s.evLogSeq := by
  induction l generalizing s with
  | nil => rfl
  | cons n l ih => rw [List.foldl_cons, ih, hf]

/-- An event is one more in the module's log. -/
theorem raise_evLogSeq (code : Nat) (o : EvObj) (arg : List Byte) (s : State) : (raise code o arg s).evLogSeq = s.evLogSeq + 1 := by
  rw [raise, raiseIn, foldl_evLogSeq]
  intro s n
  split
  · exact addEvent_evLogSeq ..
  · rfl

theorem exec_tempThreshold {s : State} (temp : Int) (ha : alive s = true) : exec (.tempThreshold temp) s =
    .next (if decide (1760 ≤ s.pwr.temp) != decide (1760 ≤ temp) then
      raise 0x1205 .all (leBytes 2 (uint 16 temp)) (modPwr (fun p => { p with temp := temp }) s) else modPwr (fun p => { p with temp := temp }) s) := by
  change execTempThreshold temp s = _
  rw [execTempThreshold, act_of_alive _ ha]

/-- The event of a low supply is due: a minute has passed since the last one. -/
def vinAlertDue (s : State) : Bool :=
  match fget? s.limits 0x1204 with
  | some t => decide (t + 60000000000 ≤ s.tb.now)
  | none => true

theorem vinAlertDue_iff (s : State) : vinAlertDue s = true ↔ ∀ k, fget? s.limits 0x1204 = some k → k + 60000000000 ≤ s.tb.now := by
  unfold vinAlertDue
  cases fget? s.limits 0x1204 <;> simp

theorem exec_vinLowAlert {s : State} (mv : Nat) (ha : alive s = true) : exec (.vinLowAlert mv) s =
    .next (if decide (mv < thrMv s + 1000) && vinAlertDue s then raise 0x1204 .all (leBytes 2 mv)
      { modPwr (fun p => { p with vin := mv }) s with limits := fset s.limits 0x1204 s.tb.now }
      else modPwr (fun p => { p with vin := mv }) s) := by
  change execVinLowAlert mv s = _
  rw [execVinLowAlert, act_of_alive _ ha]
  rfl

/-! ## The power-up sequence (R455, R456, R482, R484) -/

theorem exec_powerUp_waits {s : State} {p : PowerIn} (h : p.mv < 4300 ∨ s.pwr.state = .run) : exec (.powerUp p) s = .next s := by
  change execPowerUp p s = _
  rw [execPowerUp]
  obtain h | h := h
  · rw [if_pos h]
  · rw [h]
    exact ite_self _

theorem exec_powerUp {s : State} {p : PowerIn} (hv : 4300 ≤ p.mv) (hs : s.pwr.state = .starting) (hf : s.pwr.noFw = false) :
    exec (.powerUp p) s = .next (powerUp p s) := by
  change execPowerUp p s = _
  rw [execPowerUp, if_neg (Nat.not_lt.mpr hv), hs]
  dsimp only
  rw [hf]
  rfl

/-- The state as the sequence leaves step 1: with the reference chosen and the clock and the boot ROM run. -/
def romRun (p : PowerIn) (s : State) : State :=
  bootRom (startClock p.rtc (modPwr (fun q => { q with waits := false })
    { modPwr (fun q => { q with vin := p.mv }) s with tb := { s.tb with ref := b2n p.ext10 } }))

theorem powerUp_held {s : State} {p : PowerIn} (h : s.pwr.resetN = false ∨ s.pwr.pfailN = false ∨ vinHigh s p.mv = false) :
    powerUp p s = modPwr (fun q => { q with vin := p.mv, waits := true }) s := by
  have hv : vinHigh (modPwr (fun q => { q with vin := p.mv }) s) p.mv = vinHigh s p.mv := rfl
  unfold powerUp
  dsimp only
  rw [if_pos]
  · rfl
  · rw [hv]
    obtain h | h | h := h <;> simp [h, modPwr]

theorem powerUp_free {s : State} {p : PowerIn} (hr : s.pwr.resetN = true) (hp : s.pwr.pfailN = true) (hh : vinHigh s p.mv = true) :
    powerUp p s = match chooseFw (romRun p s) with
      | none => modPwr (fun q => { q with noFw := true }) (romRun p s)
      | some k => bringUp k p.ms (romRun p s) := by
  have hv : vinHigh (modPwr (fun q => { q with vin := p.mv }) s) p.mv = vinHigh s p.mv := rfl
  unfold powerUp
  dsimp only
  rw [if_neg]
  · rfl
  · rw [hv, hh]
    simp [modPwr, hr, hp]

/-- What the choice of firmware rests on, and the power state: the parts that the boot ROM leaves. -/
structure SameFw (s t : State) : Prop where
  fw0 : t.nv.fw0 = s.nv.fw0
  fw1 : t.nv.fw1 = s.nv.fw1
  svn : t.fuses.svn = s.fuses.svn
  pwr : t.pwr = s.pwr

theorem SameFw.trans {s t u : State} (h : SameFw s t) (k : SameFw t u) : SameFw s u :=
  ⟨k.fw0.trans h.fw0, k.fw1.trans h.fw1, k.svn.trans h.svn, k.pwr.trans h.pwr⟩

theorem SameFw.behind {s t u : State} (k : SameFw t u) (h : SameFw s t) : SameFw s u := h.trans k

theorem SameFw.chooseFw {s t : State} (h : SameFw s t) : chooseFw t = chooseFw s := by
  have hgood (c : FwCopy) : fwGood t c = fwGood s c := by rw [fwGood, h.svn, fwGood]
  rw [Machine.chooseFw, hgood, hgood, h.fw0, h.fw1, Machine.chooseFw]

theorem sameFw_secFlag (b : Nat) (s : State) : SameFw s (secFlag b s) := ⟨by rw [secFlag, setFlag_nv], by rw [secFlag, setFlag_nv],
  by rw [secFlag, setFlag_fuses], setFlag_pwr ..⟩

theorem sameFw_rekey (b : Nat) (s : State) : SameFw s (rekey b s) := by
  unfold rekey zeroiseVault newKeys
  dsimp only
  split <;> exact ⟨rfl, rfl, rfl, rfl⟩

theorem sameFw_lcCompare (s : State) : SameFw s (lcCompare s) := by
  unfold lcCompare
  split
  · exact ⟨rfl, rfl, rfl, rfl⟩
  · exact (sameFw_rekey ..).behind ⟨rfl, rfl, rfl, rfl⟩

theorem sameFw_tamperLock (phase : Nat) (s : State) : SameFw s (tamperLock phase s) := by
  unfold tamperLock zeroiseVault
  dsimp only
  split <;> exact ⟨rfl, rfl, rfl, rfl⟩

theorem sameFw_logTamper (mask phase : Nat) (s : State) : SameFw s (logTamper mask phase s) := by
  unfold logTamper
  dsimp only
  split <;> exact ⟨by simp [secFlag], by simp [secFlag], by simp [secFlag], by simp [secFlag]⟩

theorem sameFw_kekCheck (s : State) : SameFw s (kekCheck s) := by
  have hlog : SameFw s (logTamper 0x20 0 { s with sec := { s.sec with present := 0x20 } }) := (sameFw_logTamper ..).behind ⟨rfl, rfl, rfl, rfl⟩
  unfold kekCheck
  dsimp only
  split
  · exact ⟨rfl, rfl, rfl, rfl⟩
  · generalize logTamper 0x20 0 { s with sec := { s.sec with present := 0x20 } } = t at hlog ⊢
    split
    · exact hlog.trans ⟨rfl, rfl, rfl, rfl⟩
    · exact hlog.trans (sameFw_tamperLock ..)

/-- Tampers and a transition that are still to be reported are taken into this start. -/
def notesTaken (s : State) : State :=
  { s with
    sec := { s.sec with toReport := s.nv.tampers ++ s.sec.toReport, lcNote := s.nv.lcMoved }
    nv := { s.nv with tampers := [], lcMoved := none } }

theorem sameFw_notesTaken (s : State) : SameFw s (notesTaken s) := ⟨rfl, rfl, rfl, rfl⟩

def tampersFlagged (s : State) : State := if s.sec.toReport.isEmpty then s else secFlag 0 s
def transitionFlagged (s : State) : State := if s.sec.lcNote.isSome then secFlag 1 s else s

theorem bootRom_eq (s : State) : bootRom s = transitionFlagged (tampersFlagged (kekCheck (lcCompare (notesTaken s)))) := rfl

theorem sameFw_tampersFlagged (s : State) : SameFw s (tampersFlagged s) := by
  unfold tampersFlagged
  split
  · exact ⟨rfl, rfl, rfl, rfl⟩
  · exact sameFw_secFlag ..

theorem sameFw_transitionFlagged (s : State) : SameFw s (transitionFlagged s) := by
  unfold transitionFlagged
  split
  · exact sameFw_secFlag ..
  · exact ⟨rfl, rfl, rfl, rfl⟩

theorem sameFw_bootRom (s : State) : SameFw s (bootRom s) := by
  rw [bootRom_eq]
  exact (sameFw_notesTaken s).trans ((sameFw_lcCompare _).trans ((sameFw_kekCheck _).trans
    ((sameFw_tampersFlagged _).trans (sameFw_transitionFlagged _))))

theorem sameFw_startClock (rtc : Nat) (s : State) : SameFw s (startClock rtc s) := by
  unfold startClock
  dsimp only
  split <;> exact ⟨rfl, rfl, rfl, rfl⟩

theorem sameFw_romRun (p : PowerIn) (s : State) : (romRun p s).nv.fw0 = s.nv.fw0 ∧ (romRun p s).nv.fw1 = s.nv.fw1 ∧
    chooseFw (romRun p s) = chooseFw s ∧ (romRun p s).pwr = { s.pwr with vin := p.mv, waits := false } := by
  have h := (sameFw_startClock p.rtc (modPwr (fun q => { q with waits := false })
    { modPwr (fun q => { q with vin := p.mv }) s with tb := { s.tb with ref := b2n p.ext10 } })).trans (sameFw_bootRom _)
  exact ⟨h.fw0, h.fw1, h.chooseFw, h.pwr⟩

/-- The vault opens under the firmware that runs, or not: the copy that runs and its measurement stay. -/
theorem unsealVault_keeps (s : State) : (unsealVault s).sec.fwRun = s.sec.fwRun ∧ (unsealVault s).sec.mc = s.sec.mc := by
  unfold unsealVault
  dsimp only
  split
  · exact ⟨rfl, rfl⟩
  · split
    · split
      · unfold adoptFw
        dsimp only
        split <;> exact ⟨rfl, rfl⟩
      · exact ⟨rfl, rfl⟩
    · simp [secFlag]

/-- Copy `k` is measured, and the vault unsealed under it. -/
def fwEntered (k : Nat) (s : State) : State :=
  let s := unsealVault (runFw k s)
  { s with nv := { s.nv with fwLast := k } }

theorem fwEntered_sec (k : Nat) (s : State) : (fwEntered k s).sec.fwRun = k ∧
    (fwEntered k s).sec.mc = measure (if k = 0 then s.nv.fw0 else s.nv.fw1).comps := by
  obtain ⟨h1, h2⟩ := unsealVault_keeps (runFw k s)
  exact ⟨h1, h2⟩

/-- The image of this start is chosen. -/
def imageChosen (s : State) : State := if fatalLimit s then limitDefaults s else loadBoot s

theorem imageChosen_sec (s : State) : (imageChosen s).sec = s.sec := by
  unfold imageChosen
  split
  · exact (kept_limitDefaults (Nat.and_self _) (Kept.refl s)).fr.sec rfl
  · exact (kept_loadBoot (Nat.and_self _) (Kept.refl s)).fr.sec rfl

/-- The tables start, and the meter's identity is checked. -/
def tablesStarted (s : State) : State :=
  let s := meterIdentity (startTables s)
  if s.nv.dump.isSome then pwrFlag 1 s else s

theorem tablesStarted_keeps (s : State) : (tablesStarted s).sec = s.sec ∧ (tablesStarted s).pwr = s.pwr := by
  have h := (kept_startTables (Nat.and_self _) (Kept.refl s)).fr
  have k := (kept_meterIdentity (Nat.and_self _) (Kept.refl (startTables s))).fr
  unfold tablesStarted
  dsimp only
  split
  · rw [pwrFlag, setFlag_sec, setFlag_pwr, k.sec rfl, k.pwr rfl, h.sec rfl, h.pwr rfl]
    exact ⟨rfl, rfl⟩
  · rw [k.sec rfl, k.pwr rfl, h.sec rfl, h.pwr rfl]
    exact ⟨rfl, rfl⟩

theorem bringUp_eq (k ms : Nat) (s : State) : bringUp k ms s =
    tablesStarted (modPwr (fun p => { p with state := .run, startMs := ms }) (imageChosen (fwEntered k s))) := rfl

theorem bringUp_runs (k ms : Nat) (s : State) : (bringUp k ms s).pwr.state = .run ∧ (bringUp k ms s).sec.fwRun = k ∧
    (bringUp k ms s).sec.mc = measure (if k = 0 then s.nv.fw0 else s.nv.fw1).comps := by
  obtain ⟨hsec, hpwr⟩ := tablesStarted_keeps (modPwr (fun p => { p with state := .run, startMs := ms }) (imageChosen (fwEntered k s)))
  rw [bringUp_eq, hsec, hpwr, modPwr_sec, imageChosen_sec]
  exact ⟨rfl, fwEntered_sec k s⟩

/-- Settles O59: the supply, RESET_N and the RTC decide the power state. -/
theorem supplyAndResetsDecideThePowerState : Obligations.SupplyAndResetsDecideThePowerState := by
  refine ⟨fun s p => ⟨exec_powerUp_waits, fun hv hs hf => ⟨fun hheld => ?_, fun hr hp hh hno => ?_, fun k hr hp hh hk => ?_⟩⟩,
    fun s ns ext => ⟨pfailWarning_sheds ns, exec_pfailWarning_unheard ns⟩, fun s mv => ⟨fun hs hv => ?_, fun hno => ?_, rfl, rfl⟩,
    fun s => ⟨exec_uvloFall_off, fun h1 h2 => ⟨_, exec_uvloFall h1 h2, supplyGone_leaves s⟩, ⟨_, rfl, rfl, rfl, rfl⟩, ?_, ?_⟩,
    fun s rtc w hs hw => ⟨fun h0 hrtc hle => ?_, fun hno => ?_⟩, fun s temp ha => ?_, fun s mv ha => ?_⟩
  · rw [exec_powerUp hv hs hf, powerUp_held hheld]
    exact ⟨_, rfl, hs, rfl, rfl, by simp [vioOn, modPwr, hs]⟩
  · obtain ⟨-, -, hc, hpwr⟩ := sameFw_romRun p s
    rw [exec_powerUp hv hs hf, powerUp_free hr hp hh, hc, hno]
    exact ⟨_, rfl, by rw [modPwr, hpwr]; exact hs, rfl⟩
  · obtain ⟨h0, h1, hc, -⟩ := sameFw_romRun p s
    obtain ⟨hrun, hfw, hmc⟩ := bringUp_runs k p.ms (romRun p s)
    rw [exec_powerUp hv hs hf, powerUp_free hr hp hh, hc, hk]
    exact ⟨_, rfl, hrun, by rw [vioOn, hrun]; rfl, hfw, by rw [hmc, h0, h1]⟩
  · rw [exec_pfailRecover, if_pos (by simp [hs, hv])]
    exact ⟨_, rfl, startReset_state .., by rw [startReset_pwr]; rfl, startReset_rstCause .., startReset_fuses .., startReset_resets ..⟩
  · rw [exec_pfailRecover, if_neg (by obtain hno | hno := hno <;> simp [hno])]
  · rw [exec_vbatLost]
    refine ⟨_, rfl, ?_, fun hs => ?_, fun hs => ?_⟩
    · split <;> rfl
    · rw [if_pos hs]
      exact ⟨rfl, rfl⟩
    · rw [if_neg hs]
      exact ⟨rfl, rfl⟩
  · obtain ⟨hpwr, hvbat⟩ := wakeReset_keeps 2 (modPwr (fun p => { p with resetN := false }) s)
    rw [exec_resetNLow]
    refine ⟨_, rfl, ?_, fun hp => ?_, fun hp => ?_⟩
    · split
      · rw [hpwr, startReset_pwr]
        rfl
      · rfl
    · rw [if_pos hp, hpwr, hvbat]
      exact ⟨startReset_state .., startReset_rstCause ..⟩
    · rw [if_neg (by simp [hp])]
      exact ⟨rfl, rfl⟩
  · obtain ⟨hpwr, hvbat⟩ := wakeReset_keeps 8 { s with vbat := { s.vbat with rtc := rtc } }
    rw [exec_sleepWake rtc hs hw, if_pos ⟨h0, hrtc, hle⟩]
    refine ⟨_, rfl, ?_, ?_, ?_⟩
    · rw [hpwr]; exact startReset_state ..
    · rw [hvbat]; exact startReset_rstCause ..
    · rw [hvbat, startReset_vbat]
  · rw [exec_sleepWake rtc hs hw, if_neg]
    rintro ⟨h0, -, hle⟩
    obtain hno | hno := hno
    · exact h0 hno
    · exact Nat.not_le.mpr hno hle
  · refine ⟨_, exec_tempThreshold temp ha, ?_⟩
    by_cases h : (1760 ≤ s.pwr.temp) ↔ (1760 ≤ temp)
    · rw [if_neg (by simp [h]), if_pos h]
      exact ⟨rfl, rfl⟩
    · rw [if_pos (by simp [h]), if_neg h, raise_pwr, raise_evLogSeq]
      exact ⟨rfl, rfl⟩
  · refine ⟨_, exec_vinLowAlert mv ha, ?_⟩
    by_cases h : mv < thrMv s + 1000 ∧ ∀ k, fget? s.limits 0x1204 = some k → k + 60000000000 ≤ s.tb.now
    · rw [if_pos (by simpa [vinAlertDue_iff] using h), if_pos h, raise_pwr, raise_evLogSeq]
      exact ⟨rfl, rfl⟩
    · rw [if_neg (by simpa [vinAlertDue_iff] using h), if_neg h]
      exact ⟨rfl, rfl⟩

end Sys2Proof.Machine

/-!
The tail of the completion queue under the metering and the outputs that a supply loss closes (R304, R490): they set flags, count and raise
events, and write no register of the command queues.
-/
namespace Sys2Proof.Machine

/-- From `s` to `t` the tail of every function's completion queue stays. -/
structure SameTail (s t : State) : Prop where
  tail : ∀ m, hif t m 0x70 = hif s m 0x70

theorem SameTail.refl (s : State) : SameTail s s := ⟨fun _ => rfl⟩

theorem SameTail.trans {s t u : State} (h : SameTail s t) (k : SameTail t u) : SameTail s u :=
  ⟨fun m => (k.tail m).trans (h.tail m)⟩

theorem SameTail.after {s t u : State} (k : SameTail t u) (h : SameTail s t) : SameTail s u := h.trans k

/-- Behind a state whose functions are those of another one. -/
theorem SameTail.behind {s t u : State} (k : SameTail t u) (h : t.hp = s.hp) : SameTail s u where
  tail m := by
    rw [k.tail m, hif, fnReg, fnOf, h]
    rfl

theorem SameTail.of_hp {s t : State} (h : t.hp = s.hp) : SameTail s t := (SameTail.refl t).behind h

theorem SameTail.foldl {α β : Type} (state : β → State) {f : β → α → β} (hf : ∀ b x, SameTail (state b) (state (f b x))) (l : List α) (b : β) :
    SameTail (state b) (state (l.foldl f b)) := by
  induction l generalizing b with
  | nil => exact .refl _
  | cons x l ih => exact (hf b x).trans (ih _)

/-! ## Flags, counters and events -/

theorem fnReg_setFnReg_of_ne {off o : Nat} (ho : o ≠ off) (s : State) (n : Nat) (v : Word) (m : Nat) : fnReg (setFnReg s n off v) m o = fnReg s m o := by
  by_cases hn : n < s.hp.length
  · rw [fnReg_setFnReg _ _ _ _ _ _ hn, if_neg fun h => ho h.2]
  · have h : s.hp.modify n (fun f => { f with regs := fset f.regs off v }) = s.hp :=
      List.modify_eq_self (Nat.not_lt.mp hn)
    rw [fnReg, fnOf, setFnReg, modFn, h]
    rfl

theorem sameTail_setFlag {off : Nat} (ho : HIF + 0x70 ≠ off) (b : Nat) (s : State) : SameTail s (setFlag s off b) where
  tail m := by simp only [hif, setFlag, setFlag1, fnReg_setFnReg_of_ne ho]

theorem blockBase_mod (off : Nat) : blockBase off % 0x10000 = 0 := by
  unfold blockBase
  split
  · rfl
  · split
    · rfl
    · omega

/-- No half-range flag lies in the tail of a completion queue. -/
theorem halfFlag_ne_tail {off r b : Nat} (h : halfFlag off = some (r, b)) : HIF + 0x70 ≠ r := by
  have hb := blockBase_mod off
  unfold halfFlag at h
  dsimp only at h
  repeat' split at h
  all_goals
    simp only [Option.some.injEq, Prod.mk.injEq, reduceCtorEq] at h
  all_goals
    obtain ⟨rfl, -⟩ := h
    simp only [HIF]
    omega

theorem sameTail_raise (code : Nat) (o : EvObj) (arg : List Byte) (s : State) : SameTail s (raise code o arg s) :=
  ⟨fun _ => fnReg_raise ..⟩

theorem sameTail_raiseLimited (key code : Nat) (o : EvObj) (arg : List Byte) (s : State) : SameTail s (raiseLimited key code o arg s) :=
  ⟨fun _ => fnReg_raiseLimited ..⟩

theorem sameTail_halfRange (off win : Nat) (o : EvObj) (s : State) : SameTail s (halfRange off win o s) := by
  have hraise : SameTail s (raiseIn (blockCode off) 0x0310 o (halfArg off win) s) := ⟨fun _ => fnReg_raiseIn ..⟩
  unfold halfRange
  dsimp only
  split
  next r b h => exact hraise.trans (sameTail_setFlag (halfFlag_ne_tail h) b _)
  next => exact hraise

theorem sameTail_count (off : Nat) (s : State) : SameTail s (count off s) := by
  unfold count countW
  dsimp only
  split
  · exact (sameTail_halfRange ..).behind rfl
  · exact .of_hp rfl

theorem sameTail_countN (off win n : Nat) (o : EvObj) (s : State) : SameTail s (countN off win n o s) := by
  unfold countN
  dsimp only
  split
  · exact (sameTail_halfRange ..).behind rfl
  · exact .of_hp rfl

theorem sameTail_flagCount {reg : Nat} (hr : HIF + 0x70 ≠ reg) (b off : Nat) (s : State) : SameTail s (flagCount reg b off s) :=
  (sameTail_setFlag hr b s).trans (sameTail_count off _)

theorem sameTail_mtrFlag (b : Nat) (s : State) : SameTail s (mtrFlag b s) := sameTail_setFlag (by decide) b s

theorem sameTail_harvest (p : Nat → Bool) (typ : Nat) (group : Option Nat) (bytes : List Byte) (ctr : Option (Nat × Nat)) (s : State) :
    SameTail s (harvest p typ group bytes ctr s) := by
  unfold harvest
  refine SameTail.foldl (fun s => s) (fun s n => ?_) _ s
  split
  · exact ⟨fun m => fnReg_modFn_of_regs _ _ _ _ _ fun _ => rfl⟩
  · exact .refl s

/-! ## Billing records (R313 to R317) -/

theorem sameTail_logFull (s : State) : SameTail s (logFull s) := (sameTail_mtrFlag 3 s).trans (sameTail_raiseLimited ..)

/-- A write to the cellar. -/
theorem sameTail_cellar (nv : Nv) (s : State) : SameTail s { s with nv := nv } := .of_hp rfl

theorem sameTail_modMtr (p : Nat) (f : MtrPt → MtrPt) (s : State) : SameTail s (modMtr p f s) := .of_hp rfl

theorem sameTail_mtrCount (k : Nat) (s : State) : SameTail s (mtrCount k s) := sameTail_count _ s

theorem sameTail_loseBill (s : State) : SameTail s (loseBill s) := by
  unfold loseBill
  exact (sameTail_cellar _ s).trans ((sameTail_mtrCount 7 _).trans (sameTail_logFull _))

theorem sameTail_writeBill (kept : Bool) (b : BillBody) (s : State) : SameTail s (writeBill kept b s) := by
  unfold writeBill
  dsimp only
  refine SameTail.trans ?_ (sameTail_harvest ..)
  split
  · exact (sameTail_cellar _ s).trans ((sameTail_raise ..).trans (sameTail_raise ..))
  · exact (sameTail_cellar _ s).trans (sameTail_raise ..)

theorem sameTail_placeBill (b : BillBody) (s : State) : SameTail s (placeBill b s) := by
  unfold placeBill
  split
  · split
    · exact sameTail_writeBill ..
    · exact sameTail_loseBill s
  · split
    · split
      · exact sameTail_writeBill ..
      · split
        · exact (sameTail_cellar _ s).trans (sameTail_logFull _)
        · exact sameTail_loseBill s
    · split
      · exact (sameTail_cellar _ s).trans (sameTail_logFull _)
      · exact sameTail_loseBill s

theorem sameTail_mkBill (typ p flags ts ts2 : Nat) (body : List Byte) (s : State) : SameTail s (mkBill typ p flags ts ts2 body s).2 := by
  unfold mkBill
  dsimp only
  split
  · exact sameTail_modMtr ..
  · exact .refl s

theorem sameTail_saveBill (b : BillBody) (s : State) : SameTail s (saveBill b s) := sameTail_cellar _ s

theorem sameTail_intervalBill (p ns : Nat) (s : State) : SameTail s (intervalBill p ns s) := by
  unfold intervalBill
  dsimp only
  exact (sameTail_modMtr ..).after ((sameTail_saveBill ..).after (sameTail_mkBill ..))

theorem sameTail_supplyRestore (p t0 : Nat) (s : State) : SameTail s (supplyRestore p t0 s) := by
  unfold supplyRestore
  split
  · exact .refl s
  · dsimp only
    exact (sameTail_raise ..).after ((sameTail_mtrFlag ..).after ((sameTail_modMtr ..).after ((sameTail_placeBill ..).after
      ((sameTail_mkBill ..).after ((sameTail_placeBill ..).after (sameTail_cellar ..))))))

theorem sameTail_mtrSwitch (p : Nat) (s : State) : SameTail s (mtrSwitch p s) := by
  unfold mtrSwitch
  split
  · exact .refl s
  · dsimp only
    exact (sameTail_modMtr ..).after ((sameTail_saveBill ..).after (sameTail_mkBill ..))

/-! ## The close of a cycle (R297, R299, R304) -/

theorem sameTail_energyU (e : Nat) (s : State) : SameTail s (energyU e s).2 := by
  unfold energyU
  split
  · split
    · exact sameTail_mtrFlag 5 s
    · exact .refl s
  · split
    · exact .of_hp rfl
    · exact sameTail_mtrFlag 5 s

theorem mtrCommit_hp (p : Nat) (s : State) : (mtrCommit p s).hp = s.hp := by
  unfold mtrCommit
  dsimp only
  split <;> rfl

theorem SameTail.ite {c : Prop} [Decidable c] {s a b : State} (ha : SameTail s a) (hb : SameTail s b) : SameTail s (if c then a else b) := by
  split
  · exact ha
  · exact hb

theorem sameTail_modPo (k : Nat) (f : Po → Po) (s : State) : SameTail s (modPo k f s) := .of_hp rfl

theorem sameTail_poAdd (k u : Nat) (s : State) : SameTail s (poAdd k u s) := by
  unfold poAdd
  dsimp only
  refine SameTail.ite ?_ (sameTail_modPo ..)
  exact (sameTail_raise ..).after ((sameTail_mtrFlag ..).after ((sameTail_modPo ..).after (sameTail_modPo ..)))

/-- A write to the metering state. -/
theorem sameTail_mtr (mtr : Mtr) (s : State) : SameTail s { s with mtr := mtr } := .of_hp rfl

theorem sameTail_mtrCommit (p : Nat) (s : State) : SameTail s (mtrCommit p s) := .of_hp (mtrCommit_hp p s)

theorem sameTail_energies (f : List (Nat × Nat) × State → Nat × Nat → List (Nat × Nat) × State)
    (hf : ∀ a e, (f a e).2 = (energyU e.2 a.2).2) (es : List (Nat × Nat)) (s : State) : SameTail s (es.foldl f ([], s)).2 :=
  SameTail.foldl Prod.snd (fun a e => by rw [hf]; exact sameTail_energyU e.2 a.2) es ([], s)

theorem sameTail_registerCycle (im : Image) (p lo hi t0 tEnd : Nat) (s : State) : SameTail s (registerCycle im p lo hi t0 tEnd s) := by
  unfold registerCycle
  dsimp only
  refine (sameTail_mtr ..).after ((sameTail_mtrCommit ..).after ((sameTail_mtrCount ..).after
    (SameTail.after (SameTail.foldl (fun s => s) (fun s k => sameTail_poAdd ..) _ _) ?_)))
  have htest {u : State} (n : Nat) : SameTail u (if 0 < n then countN (MTR + 0x308) 0xFFFF n .all u else u) :=
    .ite (sameTail_countN ..) (.refl u)
  have hgap {u : State} (n : Nat) : SameTail u (if 0 < n then mtrFlag 1 (countN (MTR + 0x304) 0xFFFF n .all u) else u) :=
    .ite ((sameTail_mtrFlag ..).after (sameTail_countN ..)) (.refl u)
  exact (htest _).after ((hgap _).after ((sameTail_modMtr ..).after (sameTail_energies _ (fun _ _ => rfl) _ s)))

theorem sameTail_closeNext (p : Nat) (s : State) : SameTail s (closeNext p s) := by
  have hinterval {u : State} (c : Prop) [Decidable c] (t : Nat) : SameTail u (if c then intervalBill p t u else u) :=
    .ite (sameTail_intervalBill ..) (.refl u)
  have hswitch {u : State} (c : Prop) [Decidable c] : SameTail u (if c then mtrSwitch p u else u) := .ite (sameTail_mtrSwitch ..) (.refl u)
  unfold closeNext
  split
  · exact .refl s
  · dsimp only
    refine SameTail.ite ?_ (.refl s)
    exact (hswitch _).after ((hinterval _ _).after ((sameTail_supplyRestore ..).after ((sameTail_modMtr ..).after (sameTail_registerCycle ..))))

theorem sameTail_closePartial (p : Nat) (s : State) : SameTail s (closePartial p s) := by
  have hwhole (k : Nat) : SameTail s ((List.range k).foldl (fun s _ => closeNext p s) s) :=
    SameTail.foldl (fun s => s) (fun s _ => sameTail_closeNext p s) _ s
  unfold closePartial
  dsimp only
  split
  · exact (sameTail_mtrCommit ..).after (hwhole _)
  · split
    · exact (sameTail_mtrCommit ..).after (hwhole _)
    · refine SameTail.ite ((sameTail_mtrCommit ..).after (hwhole _)) ?_
      exact (sameTail_registerCycle ..).after ((sameTail_modMtr ..).after (hwhole _))

theorem sameTail_pqEnd (p kind tEnd : Nat) (forced : Bool) (thr : Nat) (e : PqEv) (s : State) : SameTail s (pqEnd p kind tEnd forced thr e s) := by
  have hcount : SameTail s (modMtr p (fun q => { q with pqEvents := q.pqEvents + 1, flags := q.flags ||| 2 ^ 8 }) (mtrFlag 2 (mtrCount (2 + kind) s))) :=
    (sameTail_modMtr ..).after ((sameTail_mtrFlag ..).after (sameTail_mtrCount ..))
  unfold pqEnd
  dsimp only
  split
  · exact hcount.trans (sameTail_mtrCount ..)
  · exact (sameTail_saveBill ..).after ((sameTail_modMtr ..).after ((sameTail_mkBill ..).after hcount))

theorem sameTail_pqForce (p : Nat) (s : State) : SameTail s (pqForce p s) := by
  have hput {u : State} (kind thr ts : Nat) (e : Option PqEv) :
      SameTail u (match e with
        | some e => pqEnd p kind ts true thr e u
        | none => u) := by
    cases e
    · exact .refl u
    · exact sameTail_pqEnd ..
  unfold pqForce
  dsimp only
  exact (hput ..).after ((hput ..).after ((hput ..).after (sameTail_modMtr ..)))

/-! ## The outputs and the supply loss (R338, R490) -/

theorem sameTail_mtrSupplyLoss (ns : Nat) (s : State) : SameTail s (mtrSupplyLoss ns s) := by
  unfold mtrSupplyLoss
  refine SameTail.foldl (fun s => s) (fun s p => ?_) _ s
  dsimp only
  exact (sameTail_cellar ..).after ((sameTail_mkBill ..).after ((sameTail_pqForce ..).after (sameTail_closePartial ..)))

theorem sameTail_modDo (n : Nat) (f : Do → Do) (s : State) : SameTail s (modDo n f s) := .of_hp rfl

theorem sameTail_setLevel (n : Nat) (v : Bool) (s : State) : SameTail s (setLevel n v s) := .of_hp rfl

theorem sameTail_releaseDo (n : Nat) (s : State) : SameTail s (releaseDo n s) := by
  unfold releaseDo
  refine SameTail.ite (.refl s) ?_
  exact (sameTail_raise ..).after ((sameTail_flagCount (by decide) ..).after ((sameTail_setLevel ..).after (sameTail_modDo ..)))

theorem sameTail_stopOutputs (s : State) : SameTail s (stopOutputs s) := by
  have hrel : SameTail s ((List.range 16).foldl (fun s n => releaseDo n s) s) :=
    SameTail.foldl (fun s => s) (fun s n => sameTail_releaseDo n s) _ s
  unfold stopOutputs
  dsimp only
  generalize (List.range 16).foldl (fun s n => releaseDo n s) s = t at hrel ⊢
  exact hrel.trans (.of_hp rfl)

theorem sameTail_seen (ns : Nat) (s : State) : SameTail s (seen ns s) := .of_hp rfl

theorem sameTail_shed (ns : Nat) (s : State) : SameTail s (shed ns s) := by
  have hloss : SameTail s (mtrSupplyLoss ns (stopOutputs (seen ns s))) :=
    (sameTail_mtrSupplyLoss ..).after ((sameTail_stopOutputs _).after (sameTail_seen ns s))
  unfold shed
  dsimp only
  generalize mtrSupplyLoss ns (stopOutputs (seen ns s)) = t at hloss ⊢
  exact hloss.trans (.of_hp rfl)

end Sys2Proof.Machine

/-!
Fatal errors, dumps and the resets and the sleep that the host commands (R493, R495, R498 to R503).
-/
namespace Sys2Proof.Machine

/-! ## The dumps (R501) -/

/-- The number of the latest dump, the dump held and the header in the overflow area. -/
def dumpArea (s : State) : Nat × Option Dump × Option (List Byte) := (s.nv.dumpSeq, s.nv.dump, s.nv.overHdr)

theorem dumpArea_pwrHalf (o : Nat) (v : Word) (s : State) : dumpArea (pwrHalf o v s) = dumpArea s := by rw [dumpArea, pwrHalf_nv, dumpArea]

theorem dumpArea_startReset (cause detail : Nat) (s : State) : dumpArea (startReset cause detail s) = dumpArea s := by
  rw [startReset, dumpArea_pwrHalf, emptied, dumpArea, dumpArea]

theorem dumpArea_shed (ns : Nat) (s : State) : dumpArea (shed ns s) = dumpArea s :=
  (kept_shed (ns := ns) (Nat.and_self _) (Kept.refl s)).fr.dumps rfl

theorem dumpArea_pfailed (s : State) : dumpArea (pfailed s) = dumpArea s := by
  rw [pfailed, dumpArea_pwrHalf, modPwr, dumpArea, dumpArea]

theorem dumpArea_count (off : Nat) (s : State) : dumpArea (count off s) = dumpArea s :=
  (kept_count (Nat.and_self _) (Kept.refl s)).fr.dumps rfl

/-- The outputs stopped and every point committed, before the dump is written. -/
def fatalHalted (x : FatalIn) (s : State) : State :=
  let t := stopOutputs (seen x.ns s)
  fatalCommit { t with pair := { t.pair with auth := false } }

theorem fatalStop_eq (x : FatalIn) (s : State) : fatalStop x s = writeDump x (fatalHalted x s) := rfl

theorem fatalHalted_keeps (x : FatalIn) (s : State) : dumpArea (fatalHalted x s) = dumpArea s ∧ (fatalHalted x s).vbat = s.vbat := by
  have hstop := (kept_stopOutputs (Nat.and_self _) (Kept.refl (seen x.ns s))).fr
  rw [fatalHalted]
  dsimp only
  generalize stopOutputs (seen x.ns s) = t at hstop ⊢
  have hcommit := (kept_fatalCommit (Nat.and_self _) (Kept.refl { t with pair := { t.pair with auth := false } })).fr
  exact ⟨(hcommit.dumps rfl).trans (hstop.dumps rfl), (hcommit.vbat rfl).trans (hstop.vbat rfl)⟩

theorem writeDump_vbat (x : FatalIn) (s : State) : (writeDump x s).vbat = s.vbat := by
  rw [writeDump]
  dsimp only
  split <;> rfl

theorem writeDump_dumpSeq (x : FatalIn) (s : State) : (writeDump x s).nv.dumpSeq = (s.nv.dumpSeq + 1) % 2 ^ 32 := by
  rw [writeDump]

theorem writeDump_of_none {x : FatalIn} {s : State} (h : s.nv.dump = none) : ∃ d, (writeDump x s).nv.dump = some d ∧
    d.seq = (s.nv.dumpSeq + 1) % 2 ^ 32 ∧ d.cause = x.cause ∧ d.complete = !x.cut := by
  rw [writeDump]
  dsimp only
  rw [h]
  exact ⟨_, rfl, rfl, rfl, rfl⟩

theorem writeDump_of_held {x : FatalIn} {s : State} (h : s.nv.dump.isSome) :
    (writeDump x s).nv.dump = s.nv.dump ∧ (writeDump x s).nv.overHdr.isSome := by
  obtain ⟨d, hd⟩ := Option.isSome_iff_exists.mp h
  rw [writeDump]
  dsimp only
  rw [hd]
  exact ⟨rfl, rfl⟩

/-! ## A fatal error (R498, R499) -/

theorem fatal_of_cut {x : FatalIn} (s : State) (h : x.cut = true) :
    fatal x s = pfailed (shed x.ns (pwrHalf 0x304 ((fatalStop x s).nv.fatals - 1#32) (fatalStop x s))) := by
  rw [fatal, if_pos h]

/-- The time of a fatal error is noted in the cellar. -/
def fatalNoted (s : State) : State := { s with nv := { s.nv with fatalAt := (s.vbat.rtc / 1000000000 :: s.nv.fatalAt).take 3 } }

/-- The reset that ends a fatal error. -/
def fatalReset (cause : Nat) (s : State) : State := pwrHalf 0x304 (s.nv.fatals - 1#32) (startReset 4 cause (fatalNoted s))

theorem fatal_of_whole {x : FatalIn} (s : State) (h : x.cut = false) : fatal x s = if s.nv.dump.isSome
    then count (PWR + 0x30C) (fatalReset x.cause (fatalStop x s)) else fatalReset x.cause (fatalStop x s) := by
  rw [fatal, if_neg (by simp [h])]
  rfl

theorem fatalReset_keeps (cause : Nat) (s : State) : dumpArea (fatalReset cause s) = dumpArea s ∧ (fatalReset cause s).pwr.state = .starting ∧
    (fatalReset cause s).vbat.rstCause = BitVec.ofNat 32 (4 * 2 ^ 24 + cause % 65536) := by
  refine ⟨?_, ?_, ?_⟩
  · rw [fatalReset, dumpArea_pwrHalf, dumpArea_startReset, fatalNoted, dumpArea, dumpArea]
  · rw [fatalReset, pwrHalf_pwr, startReset_state]
  · rw [fatalReset, pwrHalf_vbat, startReset_vbat]

theorem fatal_resets {x : FatalIn} (s : State) (h : x.cut = false) : dumpArea (fatal x s) = dumpArea (fatalStop x s) ∧
    (fatal x s).pwr.state = .starting ∧ (fatal x s).vbat.rstCause = BitVec.ofNat 32 (4 * 2 ^ 24 + x.cause % 65536) := by
  obtain ⟨hdump, hpwr, hvbat⟩ := fatalReset_keeps x.cause (fatalStop x s)
  have hcount := (kept_count (off := PWR + 0x30C) (Nat.and_self _) (Kept.refl (fatalReset x.cause (fatalStop x s)))).fr
  rw [fatal_of_whole s h]
  split
  · exact ⟨(dumpArea_count ..).trans hdump, by rw [hcount.pwr rfl, hpwr], by rw [hcount.vbat rfl, hvbat]⟩
  · exact ⟨hdump, hpwr, hvbat⟩

theorem fatal_sheds {x : FatalIn} (s : State) (h : x.cut = true) : dumpArea (fatal x s) = dumpArea (fatalStop x s) ∧
    (fatal x s).pwr.state = .shed ∧ (fatal x s).vbat = { (fatalStop x s).vbat with pfailAt := some x.ns } := by
  obtain ⟨-, -, hshed, -⟩ := shed_keeps x.ns (pwrHalf 0x304 ((fatalStop x s).nv.fatals - 1#32) (fatalStop x s))
  obtain ⟨hpwr, hvbat, -⟩ := pfailed_keeps (shed x.ns (pwrHalf 0x304 ((fatalStop x s).nv.fatals - 1#32) (fatalStop x s)))
  rw [fatal_of_cut s h]
  exact ⟨by rw [dumpArea_pfailed, dumpArea_shed, dumpArea_pwrHalf], by rw [hpwr], by rw [hvbat, hshed, pwrHalf_vbat]⟩

theorem fatal_dumpArea (x : FatalIn) (s : State) : dumpArea (fatal x s) = dumpArea (fatalStop x s) := by
  cases h : x.cut
  · exact (fatal_resets s h).1
  · exact (fatal_sheds s h).1

theorem dumpArea_iff {s t : State} : dumpArea t = dumpArea s ↔ t.nv.dumpSeq = s.nv.dumpSeq ∧ t.nv.dump = s.nv.dump ∧ t.nv.overHdr = s.nv.overHdr := by
  simp [dumpArea]

theorem exec_fatalError {s : State} (x : FatalIn) (ha : alive s = true) : exec (.fatalError x) s = .next (fatal x s) := by
  change execFatalError x s = _
  rw [execFatalError, act_of_alive _ ha]

theorem fatalError_dumps {s : State} (x : FatalIn) (ha : alive s = true) :
    ∃ t, exec (.fatalError x) s = .next t ∧ t.nv.dumpSeq = (s.nv.dumpSeq + 1) % 2 ^ 32 ∧
      (s.nv.dump = none → ∃ d, t.nv.dump = some d ∧ d.seq = (s.nv.dumpSeq + 1) % 2 ^ 32 ∧ d.cause = x.cause ∧ d.complete = !x.cut) ∧
      (s.nv.dump.isSome → t.nv.dump = s.nv.dump ∧ t.nv.overHdr.isSome) ∧
      (x.cut = false → t.pwr.state = .starting ∧ t.vbat.rstCause = BitVec.ofNat 32 (4 * 2 ^ 24 + x.cause % 65536)) ∧
      (x.cut = true → t.pwr.state = .shed ∧ t.vbat.rstCause = s.vbat.rstCause ∧ t.vbat.pfailAt = some x.ns) := by
  obtain ⟨harea, hvbat⟩ := fatalHalted_keeps x s
  obtain ⟨hseq, hdump, -⟩ := dumpArea_iff.mp harea
  obtain ⟨kseq, kdump, kover⟩ := dumpArea_iff.mp (fatal_dumpArea x s)
  rw [fatalStop_eq] at kseq kdump kover
  refine ⟨fatal x s, exec_fatalError x ha, ?_, fun h => ?_, fun h => ?_, fun h => (fatal_resets s h).2, fun h => ?_⟩
  · rw [kseq, writeDump_dumpSeq, hseq]
  · have := writeDump_of_none (x := x) (hdump.trans h)
    rwa [← kdump, hseq] at this
  · have := writeDump_of_held (x := x) (s := fatalHalted x s) (by rw [hdump]; exact h)
    rwa [← kdump, ← kover, hdump] at this
  · obtain ⟨-, hstate, hv⟩ := fatal_sheds s h
    exact ⟨hstate, by rw [hv, fatalStop_eq, writeDump_vbat, hvbat], by rw [hv]⟩

/-! ## Reading and releasing the dump (R503) -/

theorem dma_cplNoted (n status : Nat) (s : State) : (fnOf (cplNoted n status s) n).dma = (fnOf s n).dma := by
  unfold cplNoted
  dsimp only
  have hcounted : (fnOf (irqPend n 0 (countFn n (HIF + 0x308) 0xFFFF s)) n).dma = (fnOf s n).dma :=
    (cmd_irqPend ..).2.2.2.trans (cmd_countFn ..).2.2.2
  split
  · exact hcounted
  · exact (cmd_hifFlag ..).2.2.2.trans ((cmd_countFn ..).2.2.2.trans hcounted)

theorem dma_complete (n status r0 r1 : Nat) (s : State) : (fnOf (complete n status r0 r1 s) n).dma = (fnOf s n).dma := by
  cases hc : (fnOf s n).cur with
  | none => rw [complete_of_none _ _ _ hc]
  | some c =>
    have hn := lt_of_cur hc
    have hoff : (fnOf (cmdOff n s) n).dma = (fnOf s n).dma := by rw [cmdOff, fnOf_modFn_self _ hn]
    have hn' : n < (cmdOff n s).hp.length := by simpa [cmdOff] using hn
    rw [complete_of_cur _ _ _ hc]
    split
    · exact hoff
    · have hplaced : (fnOf (cplPlaced n c status r0 r1 (cmdOff n s)) n).dma = (fnOf (cmdOff n s) n).dma := by
        rw [cplPlaced, fnOf_setHif (g := Fn.dma) (fun _ _ => rfl) _ (by simpa using hn'), fnOf_modFn_self _ hn']
      exact (dma_cplNoted ..).trans (hplaced.trans hoff)

theorem sameCmd_hostWrite {s : State} {n : Nat} (hn : n < s.hp.length) (addr : Nat) (bs : List Byte) : SameCmd n s (hostWrite n addr bs s) := by
  have hreg (o : Nat) : hif (hostWrite n addr bs s) n o = hif s n o := fnReg_modFn_of_regs _ _ _ _ _ fun _ => rfl
  exact ⟨by rw [hostWrite, fnOf_modFn_self _ hn], by rw [hostWrite, fnOf_modFn_self _ hn], hreg _, hreg _, hreg _⟩

theorem exec_cmdDumpInfo {s : State} {n : Nat} {raw : List Byte} (h : cmdReady s n 0x60 [] raw) : exec (.cmdDumpInfo n) s =
    .next (match s.nv.dump with
      | some d => complete n 0 d.seq (leAt d.raw 4 4 + leAt d.raw 2 2 * 2 ^ 32 + d.cause * 2 ^ 48) s
      | none => complete n 0 0 0 s) :=
  runCmd_of_ready _ h

theorem exec_cmdDumpRead_of_none {s : State} {n : Nat} {raw : List Byte} (ok : Bool) (h : cmdReady s n 0x61 [(8, 17)] raw)
    (h0 : leAt raw 0x18 1 = 0) (hd : s.nv.dump = none) : exec (.cmdDumpRead n ok) s = .next (complete n 7 0 0 s) := by
  change execCmdDumpRead n ok s = _
  rw [execCmdDumpRead, runCmd_of_ready _ h]
  dsimp only
  rw [h0, hd]
  rfl

theorem exec_cmdDumpRead {s : State} {n : Nat} {raw : List Byte} {d : Dump} (h : cmdReady s n 0x61 [(8, 17)] raw)
    (h0 : leAt raw 0x18 1 = 0) (hd : s.nv.dump = some d) (h8 : leAt raw 0x10 4 % 8 = 0) (hl : lenOk (leAt raw 0x14 4) = true)
    (ho : leAt raw 0x10 4 < d.raw.length) : exec (.cmdDumpRead n true) s =
      .next (complete n 0 (slice d.raw (leAt raw 0x10 4) (leAt raw 0x14 4)).length 0
        (hostWrite n (leAt raw 8 8) (slice d.raw (leAt raw 0x10 4) (leAt raw 0x14 4)) s)) := by
  have hok : ¬ (leAt raw 0x10 4 % 8 ≠ 0 ∨ !lenOk (leAt raw 0x14 4) ∨ d.raw.length ≤ leAt raw 0x10 4) := by
    simp [h8, hl, ho]
  change execCmdDumpRead n true s = _
  rw [execCmdDumpRead, runCmd_of_ready _ h]
  dsimp only
  rw [h0, hd, if_neg (by decide), if_neg (by decide), Option.map_some]
  dsimp only
  rw [if_neg hok, if_neg (by decide)]

theorem exec_cmdDumpRelease {s : State} {n : Nat} {raw : List Byte} (h : cmdReady s n 0x62 [(4, 4)] raw) : exec (.cmdDumpRelease n) s =
    .next (match s.nv.dump with
      | some d => if d.seq = leAt raw 4 4 then complete n 0 0 0 { s with nv := { s.nv with dump := none } } else complete n 5 2 0 s
      | none => complete n 5 2 0 s) :=
  runCmd_of_ready _ h

theorem dumpRelease_refuses {s : State} {n : Nat} {raw : List Byte} (h : cmdReady s n 0x62 [(4, 4)] raw)
    (hd : ∀ d, s.nv.dump = some d → d.seq ≠ leAt raw 4 4) : exec (.cmdDumpRelease n) s = .next (complete n 5 2 0 s) := by
  rw [exec_cmdDumpRelease h]
  cases hs : s.nv.dump with
  | none => rfl
  | some d => exact congrArg Host.Outcome.next (if_neg (hd d hs))

/-! ## Commanded resets and sleep (R493, R495) -/

theorem exec_cmdPwrReset {s : State} {n : Nat} {raw : List Byte} (h : cmdReady s n 0x63 [(4, 1), (8, 8)] raw) (h0 : leAt raw 4 1 = 0) :
    exec (.cmdPwrReset n) s = .next (if pwrReason s (leAt raw 8 8) ≠ 0 then complete n 5 (pwrReason s (leAt raw 8 8)) 0 s
      else if leAt raw 8 8 = 0 then startReset 5 0 (complete n 0 0 0 s)
      else modPwr (fun p => { p with resetAt := some (leAt raw 8 8, false) }) (complete n 0 0 0 s)) := by
  change execCmdPwrReset n s = _
  rw [execCmdPwrReset, runCmd_of_ready _ h]
  dsimp only
  rw [h0]
  rfl

theorem cmdPwrReset_resets {s : State} {n : Nat} {raw : List Byte} (h : cmdReady s n 0x63 [(4, 1), (8, 8)] raw) (h0 : leAt raw 4 1 = 0) :
    (pwrReason s (leAt raw 8 8) ≠ 0 →
      ∃ t, exec (.cmdPwrReset n) s = .next t ∧ completes s t n 5 (pwrReason s (leAt raw 8 8)) 0 ∧ t.pwr = s.pwr) ∧
    (pwrReason s 0 = 0 → leAt raw 8 8 = 0 →
      ∃ t, exec (.cmdPwrReset n) s = .next t ∧ t.pwr.state = .starting ∧ t.vbat.rstCause = BitVec.ofNat 32 (5 * 2 ^ 24)) ∧
    (pwrReason s (leAt raw 8 8) = 0 → leAt raw 8 8 ≠ 0 →
      ∃ t, exec (.cmdPwrReset n) s = .next t ∧ completes s t n 0 0 0 ∧ t.pwr = { s.pwr with resetAt := some (leAt raw 8 8, false) }) := by
  refine ⟨fun hr => ⟨complete n 5 (pwrReason s (leAt raw 8 8)) 0 s, ?_, completes_complete .., complete_pwr ..⟩,
    fun hr hz => ⟨startReset 5 0 (complete n 0 0 0 s), ?_, startReset_state .., startReset_rstCause ..⟩,
    fun hr hz => ⟨modPwr (fun p => { p with resetAt := some (leAt raw 8 8, false) }) (complete n 0 0 0 s), ?_,
      completes_of_hp (completes_complete ..) (modPwr_hp ..), by rw [modPwr, complete_pwr]⟩⟩
  · rw [exec_cmdPwrReset h h0, if_pos hr]
  · rw [exec_cmdPwrReset h h0, hz, if_neg (fun hn => hn hr), if_pos rfl]
  · rw [exec_cmdPwrReset h h0, if_neg (fun hn => hn hr), if_neg hz]

theorem exec_scheduledReset {s : State} {sec : Nat} (ha : alive s = true) (h : s.pwr.resetAt = some (sec, false)) : exec .scheduledReset s =
    .next (if hasTime s && decide (sec * 1000000000 ≤ s.tb.now) then startReset 5 0 (modPwr (fun p => { p with resetAt := none }) s) else s) := by
  change execScheduledReset s = _
  rw [execScheduledReset, act_of_alive _ ha, h]
  rfl

/-- The module asleep until second `w`. -/
def asleep (w : Nat) (s : State) : State := modPwr (fun p => { p with state := .sleep, wake := some w }) s

theorem exec_cmdPwrSleep {s : State} {n : Nat} {raw : List Byte} (h : cmdReady s n 0x64 [(8, 8)] raw) : exec (.cmdPwrSleep n) s =
    .next (if pwrReason s (leAt raw 8 8) ≠ 0 then complete n 5 (pwrReason s (leAt raw 8 8)) 0 s
      else asleep (leAt raw 8 8) (shed s.tb.now (complete n 0 0 0 s))) := by
  change execCmdPwrSleep n s = _
  rw [execCmdPwrSleep, runCmd_of_ready _ h]
  rfl

/-- The supply loss leaves a completion where it stands. -/
theorem completes_shed {s t : State} {n status r0 r1 : Nat} (h : completes s t n status r0 r1) (ns : Nat) :
    completes s (shed ns t) n status r0 r1 := by
  obtain ⟨hcur, -, hring, -⟩ := cmd_congr ((kept_shed (ns := ns) (Nat.and_self _) (Kept.refl t)).fr.hpCmd rfl) n
  simpa only [completes, hcur, hring, (sameTail_shed ns t).tail] using h

theorem cmdPwrSleep_sleeps {s : State} {n : Nat} {raw : List Byte} (h : cmdReady s n 0x64 [(8, 8)] raw) (h0 : pwrReason s (leAt raw 8 8) = 0) :
    ∃ t, exec (.cmdPwrSleep n) s = .next t ∧ completes s t n 0 0 0 ∧ t.pwr.state = .sleep ∧ t.pwr.wake = some (leAt raw 8 8) := by
  refine ⟨asleep (leAt raw 8 8) (shed s.tb.now (complete n 0 0 0 s)), ?_, ?_, by rw [asleep, modPwr], by rw [asleep, modPwr]⟩
  · rw [exec_cmdPwrSleep h, if_neg (fun hn => hn h0)]
  · exact completes_of_hp (completes_shed (completes_complete ..) _) (modPwr_hp ..)

/-- Settles O60: `fatal_dumpArea` says what a fatal error leaves of the dumps, `fatal_resets` and `fatal_sheds` how it ends; each command is its
equation, and a sleep keeps its completion because the supply loss keeps the completion queues (`sameTail_shed`). -/
theorem fatalErrorsDumpsAndCommandedResets : Obligations.FatalErrorsDumpsAndCommandedResets := by
  unfold Obligations.FatalErrorsDumpsAndCommandedResets
  refine ⟨fun s x ha => fatalError_dumps x ha, fun s n raw _ h => ⟨fun hd => ?_, fun d hd => ?_⟩,
    fun s n raw _ h h0 => ⟨fun d hd h8 hl ho => ?_, fun hd ok => ⟨_, exec_cmdDumpRead_of_none ok h h0 hd, completes_complete ..⟩⟩,
    fun s n raw _ h => ⟨fun d hd hseq => ?_, fun hd => ⟨_, dumpRelease_refuses h hd, completes_complete .., complete_nv ..⟩⟩,
    fun s n raw _ h h0 => ?_, fun s sec ha hr => ⟨fun ht hs => ?_, fun hs => ?_⟩,
    fun s n raw _ h => ⟨cmdPwrSleep_sleeps h, fun hr => ?_⟩⟩
  case refine_1 =>
    refine ⟨_, exec_cmdDumpInfo h, ?_⟩
    rw [hd]
    exact completes_complete ..
  case refine_2 =>
    refine ⟨_, leAt d.raw 4 4 + leAt d.raw 2 2 * 2 ^ 32 + d.cause * 2 ^ 48, ?_, completes_complete ..⟩
    rw [exec_cmdDumpInfo h, hd]
  case refine_3 =>
    have ⟨_, c, hc, _⟩ := h
    have hn := lt_of_cur (cur_of_cmdOf hc)
    refine ⟨_, exec_cmdDumpRead h h0 hd h8 hl ho, (sameCmd_hostWrite hn ..).completes, ?_⟩
    rw [dma_complete, hostWrite, fnOf_modFn_self _ hn]
  case refine_4 =>
    refine ⟨complete n 0 0 0 { s with nv := { s.nv with dump := none } }, ?_, (SameCmd.of_hp rfl).completes, by rw [complete_nv], by rw [complete_nv]⟩
    rw [exec_cmdDumpRelease h, hd]
    exact congrArg Host.Outcome.next (if_pos hseq)
  case refine_5 => exact cmdPwrReset_resets h h0
  case refine_6 =>
    refine ⟨_, exec_scheduledReset ha hr, ?_⟩
    rw [if_pos (by simp [hs, show hasTime s = true from ht])]
    exact ⟨startReset_state .., startReset_rstCause ..⟩
  case refine_7 =>
    rw [exec_scheduledReset ha hr, if_neg (by simp; omega)]
  case refine_8 =>
    refine ⟨complete n 5 (pwrReason s (leAt raw 8 8)) 0 s, ?_, completes_complete .., complete_pwr ..⟩
    rw [exec_cmdPwrSleep h, if_pos hr]

end Sys2Proof.Machine
